-- ==== Sys2Proof/Word.lean ====
section
/-!
DEFINITION. The plain words of the CV-4480: bytes, registers, lines, addresses.
-/
namespace Sys2Proof

/-- One byte (R6: byte 0 of a multi-byte value holds bits [7:0]). -/
abbrev Byte := BitVec 8
/-- A 32-bit BAR0 register (R12). -/
abbrev Reg32 := BitVec 32
/-- One 64-byte line of host data; byte k is bits [8k+7:8k] (spec/00_scope.md, "Line"). -/
abbrev LineData := BitVec 512
/-- An 80-byte media line slot as stored (R168). -/
abbrev MediaLine := BitVec 640
/-- A device physical address: 44 bits (R38). -/
abbrev Dpa := BitVec 44
/-- An LCI handle: [31:26] queue, [25:16] generation, [15:0] slot (R298). -/
abbrev Handle := BitVec 32
/-- An LCI status: [15:8] class, [7:0] detail (R301). -/
abbrev Status := BitVec 16

end Sys2Proof
end

