-- ==== Sys2Proof/Syntax.lean ====
section
/-!
DEFINITION. The commands of the block: one constructor of `Instr` per row of spec/opcode_table.json, in the
order of the table's families, those without operands last. An operand is what the row's sender supplies: a host request's fields, the bytes it holds in its
memory, or the outcome of something physical (a decoder's verdict, a measured voltage, a comparator's result).
-/
namespace Sys2Proof

/-- A head: Port A or Port B with its PCIe function (R437). -/
inductive Head where | a | b
  deriving DecidableEq, Repr

/-- A management core pair (R309). -/
inductive PairId where | a | b
  deriving DecidableEq, Repr

/-- A media die by number: m = 8n + d, channel n = 0 to 39, die position d = 0 to 7 (R5). -/
abbrev DieId := Fin 320
/-- A media channel CH00 to CH39. -/
abbrev ChannelId := Fin 40
/-- A stripe group G00 to G31: g = 8q + d (R5). -/
abbrev GroupId := Fin 32
/-- A frame's seven bytes on CA, as an error pattern over them (R121). -/
abbrev FrameErr := BitVec 56

/-- The line decoder's verdict on one line (R171): good with n corrected symbols, or uncorrectable. -/
inductive Verdict where
  /-- The code corrects `n` symbols; the data are those stored. -/
  | good (n : Fin 11)
  /-- Uncorrectable. -/
  | bad
  deriving DecidableEq, Repr

/-- The program mode of a page (R127). -/
inductive ProgMode where | slc | mlc
  deriving DecidableEq, Repr

/-- The reason a channel or die is declared failed: the row of R160's table, counted from 1. -/
abbrev FailCause := Fin 16

/-- Which sequence an invalidation was started by (R42, R92). -/
inductive InvRef where
  /-- A host's write of LIN_INV_CTL.go. -/
  | host
  /-- The disabling of title window n. -/
  | window (n : Fin 64)
  /-- A Drop command. -/
  | command (h : Handle)
  deriving DecidableEq, Repr

/-- The outcome of an outbound request (R61): completed, timed out, Unsupported Request or Completer Abort. -/
inductive OutEnd where | ok | timeout | ur | ca
  deriving DecidableEq, Repr

/-- What an SRAM event names (R194). -/
inductive SramStore where
  | gondola | cache | ballast | compat | spool | counterCache | translationCache | commandTable
  | driftLedger | openRow | logBuffer | other
  deriving DecidableEq, Repr

/-- A link width state at the host's request (R55). -/
inductive LinkPower where | l0 | l0p (width : Fin 32) | l11 | l12 | down
  deriving DecidableEq, Repr

/-- The DOE protocols answered (R29). -/
inductive DoeKind where | discovery | cmaSpdm | securedSpdm | cdat | ideKm | other
  deriving DecidableEq, Repr

/-- How FAULT_N and rail events name a rail's fault (R334). -/
inductive RailFaultKind where | uv | ov | pg | ramp
  deriving DecidableEq, Repr

/-- One slot of a page or the whole burst: ten media lines of a stripe, unreadable ones marked. -/
abbrev StripeMask := BitVec 10

/-- What the heavy decoder found (R171, R172): its verdict, and the bytes it corrected. -/
structure HeavyResult where
  v : Verdict
  bytes : List (Fin 80)
  deriving DecidableEq, Repr

/-- The dies that take one frame (R120): a die, and those of its channel whose CE_N is low with its own. -/
structure DieSel where
  m : DieId
  others : BitVec 8
  deriving DecidableEq, Repr

/-- How a die's program ended (R128, R133): the banks of which verify failed, and a fault of the die's own. -/
structure ProgramEnd where
  failMask : BitVec 16
  fault : Bool
  deriving DecidableEq, Repr

/-- ALERT_N low on a channel (R134), and how the bits of each frame that is sent again arrive. -/
structure AlertLow where
  n : ChannelId
  errs : List FrameErr
  deriving DecidableEq, Repr

/-- What a channel's discovery met (R136): the identity of each die, and ALERT_N still low 1 ms past tINIT. -/
structure Discovery where
  ids : List (BitVec 256)
  stuck : Bool
  deriving DecidableEq, Repr

/-- Answers of RD_REF in a die for the sets of its thresholds (R184), each with its mode: true for SLC. -/
structure DieSamples where
  m : DieId
  samples : List (BitVec 64 × Bool)
  deriving DecidableEq, Repr

/-- What the scrub of a row found (R172, R190): member and byte of each corrected symbol, and the lines not corrected. -/
structure ScrubFound where
  corr : List (Fin 10 × Fin 80)
  unc : List Dpa
  deriving DecidableEq, Repr

/-- Interleave ways, granularity in bytes and position of an HDM decoder (R29, R35). -/
structure DecoderForm where
  ways : Nat
  gran : Nat
  pos : Nat
  deriving DecidableEq, Repr

/-- A corrected SRAM word (R194): its store, and the cache way of which the correction shows that a macro has failed (R82). -/
structure SramWord where
  store : SramStore
  way : Option (Fin 12)
  deriving DecidableEq, Repr

/-- An IDE stream of a head (R52). -/
structure IdeStream where
  h : Head
  stream : Byte
  deriving DecidableEq, Repr

/-- The commands. -/
inductive Instr where
  -- line engine and host requests (spec/02, 03)
  | creditGrant (h : Head) (rwd : Bool)
  | memrd (h : Head) (tag : BitVec 16) (dpa : Dpa)
  | memspecrd (h : Head) (dpa : Dpa)
  | meminv (h : Head) (tag : BitVec 16) (dpa : Dpa) (nt : Bool)
  | memwr (h : Head) (tag : BitVec 16) (dpa : Dpa) (data : LineData) (poison : Bool)
  | memwrptl (h : Head) (tag : BitVec 16) (dpa : Dpa) (data : LineData) (be : BitVec 64) (poison : Bool)
  | sectorTransitEnd (dpa : Dpa)
  | mediaLineReturn (dpa : Dpa) (v : Verdict) (unk : StripeMask)
  | heavyDecodeDone (dpa : Dpa) (v : HeavyResult)
  | readRetryAfterProgram (dpa : Dpa) (v : Verdict) (unk : StripeMask)
  | writeBackDone (dpa : Dpa)
  | stagedEntryTranslate (dpa : Dpa)
  | gondolaMacroFail (bank : Fin 8) (macroNo : Fin 10) (lost : List Dpa)
  | sramUncorrectable (store : SramStore) (dpa : Dpa)
  | scratchConversionWrite (h : Head) (value : Reg32)
  | compatEnable (h : Head)
  | compatDisable (h : Head)
  | compatPagePin (h : Head) (n : Fin 48)
  | compatPageUnpin (h : Head) (n : Fin 48)
  | invalidationGo (h : Head)
  | invalidationDone (r : InvRef)
  -- Tether (spec/04)
  | tthRateWrite (h : Head) (value : Reg32)
  | ptmResult (hostTime : BitVec 64)
  | programStartGate (m : DieId) (mode : ProgMode) (buf : Bool) (last : Fin 16)
  | programOverrun (m : DieId)
  | testWindowOpen (narrowEye : Bool) (narrowDie : Option (Fin 8))
  | launchSlotArm (h : Option Head) (n : Fin 64) (value : Reg32)
  | launchSlotDisarm (h : Option Head) (n : Fin 64) (value : Reg32)
  | launchSlotFire (n : Fin 64)
  | gpioPulseEnd (pin : Fin 8)
  -- die frames (spec/05)
  | nop (m : DieId) (err : FrameErr)
  | rdLine (m : DieId) (err : FrameErr) (pa : BitVec 27) (slot : Fin 8) (set : Fin 16) (mode : ProgMode)
  | rdLineSoft (m : DieId) (err : FrameErr) (pa : BitVec 27) (slot : Fin 8) (set : Fin 16) (mode : ProgMode)
      (mask : MediaLine)
  | rdPage (m : DieId) (err : FrameErr) (pa : BitVec 27) (set : Fin 16) (mode : ProgMode)
  | rdRef (m : DieId) (err : FrameErr) (pa : BitVec 27) (mode : ProgMode) (sweep : BitVec 64)
  | load (m : DieId) (err : FrameErr) (pa : BitVec 27) (buf : Bool) (entry : Fin 16)
      (data : List MediaLine) (crc : BitVec 16)
  | progSlc (m : DieId) (err : FrameErr) (buf : Bool) (last : Fin 16)
  | progMlc (m : DieId) (err : FrameErr) (buf : Bool) (last : Fin 16)
  | dieProgramEnd (m : DieId) (res : ProgramEnd)
  | status (m : DieId) (err : FrameErr)
  | temp (m : DieId) (err : FrameErr)
  | readId (m : DieId) (err : FrameErr)
  | setFeature (dies : DieSel) (err : FrameErr) (addr : Byte) (value : Reg32)
  | getFeature (m : DieId) (err : FrameErr) (addr : Byte)
  | trainCa (m : DieId) (err : FrameErr)
  | trainRd (m : DieId) (err : FrameErr) (pattern : Bool)
  | trainWr (m : DieId) (err : FrameErr) (data : LineData)
  | zqCal (m : DieId) (err : FrameErr)
  | pdEnter (dies : DieSel) (err : FrameErr)
  | pdExit (dies : DieSel) (err : FrameErr)
  | reset (dies : DieSel) (err : FrameErr)
  | dieInitDone (m : DieId)
  | alertConditionRepeat (m : DieId)
  | alertNLow (low : AlertLow)
  | alertLongLow (n : ChannelId)
  | alertStatusResponse (m : DieId) (st : BitVec 128)
  | alertStuck (n : ChannelId)
  | channelTraining (n : ChannelId) (found : Discovery)
  | channelTrained (n : ChannelId) (eyeRd eyeWr : Byte) (passed : BitVec 8)
  | retrainRequest (h : Head) (n : ChannelId)
  | retrainTimer (n : ChannelId)
  | retrainComplete (n : ChannelId) (eyeRd eyeWr : Byte) (code : Fin 1024)
  -- stripes, Bridle, failures (spec/06)
  | rowUpdateStart (g : GroupId) (row : BitVec 27) (mode : ProgMode) (lines : List (Nat × MediaLine))
  | rowUpdateDone (g : GroupId) (row : BitVec 27)
  | bridleGrant (n : ChannelId)
  | bridleRankWrite (h : Head) (q : Fin 4) (value : Reg32)
  | dieDeclaredFailed (m : DieId) (cause : FailCause)
  | channelDeclaredFailed (n : ChannelId) (cause : FailCause)
  | faultDieReset (m : DieId)
  -- line integrity and drift (spec/07)
  | lineRepair (dpa : Dpa)
  | poisonConfirmation (dpa : Dpa) (good : StripeMask)
  | surveyTract (g : GroupId) (index : Nat) (pos : List (Fin 10)) (codes : List (BitVec 64))
  | thresholdRecompute (r : DieSamples)
  | resurveyTract (g : GroupId) (index : Nat) (pos : List (Fin 10)) (codes : List (BitVec 64))
  | refreshStart (tract : Nat)
  | scrubRow (tract : Nat) (row : Fin 512) (worst : Fin 11) (found : ScrubFound) (parityBad : Bool)
  -- tracts (spec/08)
  | metadataWriteback (line : Nat)
  | counterLineWriteback (page : Nat)
  | gapMove (tract : Nat)
  | gapMoveDone (tract : Nat)
  | migrationStart (tract : Nat) (why : Fin 9)
  | migrationCopyDone (tract : Nat)
  | migrationVerify (tract : Nat) (bad : Bool) (badAgain : Bool)
  | migrationSwitch (tract : Nat)
  | migrationRelease (tract : Nat)
  -- title security (spec/09)
  | reencryptionRewrite (dpa : Dpa)
  | slotDrainComplete (slot : Fin 4096)
  -- stream engine (spec/10)
  | descriptorFetch (c : Fin 64) (descs : List (BitVec 256)) (fail : OutEnd)
  | descriptorStart (c : Fin 64)
  | sourceLineReturn (c : Fin 64) (v : Verdict)
  | outboundWrite (c : Fin 64) (n : Nat)
  | confirmationComplete (c : Fin 64)
  | outboundCompletionTimeout (c : Fin 64) (why : OutEnd)
  | listEnd (c : Fin 64)
  | snapshotBuildTract (h : Handle)
  | snapshotComplete (h : Handle)
  -- Loanuf command interface (spec/11)
  | qpEnable (h : Head) (n : Fin 64) (value : Reg32)
  | qpDisable (h : Head) (n : Fin 64) (value : Reg32)
  | qpIdle (n : Fin 64)
  | sqDoorbell (h : Head) (n : Fin 64) (value : Reg32)
  | cqDoorbell (h : Head) (n : Fin 64) (value : Reg32)
  | sqFetch (n : Fin 64) (entry : LineData) (parity : Bool)
  | cqEntryWrite (h : Handle) (parity : Bool)
  | heldCommandStart (h : Handle)
  | invalidOpcode (h : Handle)
  | stream (h : Handle)
  | copy (h : Handle)
  | install (h : Handle)
  | verify (h : Handle)
  | snapshot (h : Handle)
  | stop (h : Handle)
  | dictionaryRegister (h : Handle)
  | drop (h : Handle)
  | discard (h : Handle)
  | sanitize (h : Handle)
  | keyLoad (h : Handle)
  | keyEvict (h : Handle)
  | keyGenerate (h : Handle)
  | epochAdvance (h : Handle)
  | rekey (h : Handle)
  | lockAcquire (h : Handle)
  | lockRelease (h : Handle)
  | identify (h : Handle)
  | query (h : Handle)
  | selfTest (h : Handle)
  | logFreeze (h : Handle)
  | logThaw (h : Handle)
  | logRead (h : Handle) (confirm : OutEnd)
  | unfinishedRead (h : Handle) (confirm : OutEnd)
  -- register mailbox (R307)
  | getStatus (h : Head)
  | readLog (h : Head)
  | readUnfinished (h : Head)
  | imageWrite (h : Head)
  | imageSelect (h : Head)
  | rmIdentify (h : Head)
  | queueClear (h : Head)
  -- CXL mailbox (R308)
  | cxlIdentify (h : Head)
  | backgroundOperationStatus (h : Head)
  | getEventRecords (h : Head) (log : Fin 4)
  | clearEventRecords (h : Head) (log : Fin 4) (all : Bool) (handles : List (BitVec 16))
  | getEventInterruptPolicy (h : Head)
  | setEventInterruptPolicy (h : Head) (policy : Reg32)
  | getFwInfo (h : Head)
  | transferFw (h : Head) (slot : Fin 2) (offset : Nat) (data : List Byte)
  | activateFw (h : Head) (slot : Fin 2)
  | getTimestamp (h : Head)
  | setTimestamp (h : Head) (value : BitVec 64)
  | getSupportedLogs (h : Head)
  | getLog (h : Head)
  | identifyMemoryDevice (h : Head)
  | getPartitionInfo (h : Head)
  | getLsa (h : Head) (offset len : Nat)
  | setLsa (h : Head) (offset : Nat) (data : List Byte)
  | getHealthInfo (h : Head)
  | getAlertConfiguration (h : Head)
  | setAlertConfiguration (h : Head) (value : Reg32)
  | getShutdownState (h : Head)
  | setShutdownState (h : Head) (value : Byte)
  | getPoisonList (h : Head)
  | injectPoison (h : Head) (dpa : Dpa)
  | clearPoison (h : Head) (dpa : Dpa) (data : LineData)
  -- host ports (spec/02)
  | linkTrained (h : Head) (rate : Fin 8) (width : Fin 32)
  | linkStateChange (h : Head) (st : LinkPower)
  | bondedPortLost (h : Head)
  | hdmDecoderCommit (h : Head) (k : Fin 4) (base size skip : Nat) (lock : Bool) (form : DecoderForm)
  | hdmDecoderUncommit (h : Head) (k : Fin 4)
  | twinEnable (h : Head) (n : Fin 64) (value : Reg32)
  | twinDisable (h : Head) (n : Fin 64) (value : Reg32)
  | twinDisableDone (n : Fin 64)
  | twinLock (h : Head) (n : Fin 64) (value : Reg32)
  | gpfPhase2Request (h : Head)
  | ideKmMessage (h : Head) (keySet : Bool) (stream : Byte)
  | doeRequest (h : Head) (k : DoeKind) (arg : Byte)
  | d3hotEntry (h : Head)
  | d0Return (h : Head)
  | d3coldEntry (h : Head)
  | conventionalReset (h : Head)
  | flr (h : Head)
  | cxlReset (h : Head)
  | deviceReset (h : Head) (value : Reg32)
  -- management complex (spec/12)
  | lockstepMismatch (p : PairId)
  | coreMemoryUncorrectable (p : PairId)
  | watchdogPet (p : PairId) (value : Reg32)
  | watchdogExpiry (p : PairId)
  | semaphoreAcquire (p : PairId) (n : Fin 64)
  | semaphoreRelease (p : PairId) (n : Fin 64)
  | icuSourceEdge (src : Fin 128)
  | icuPendingClear (k : Fin 4) (value : Reg32)
  | icuSoftwareInterrupt (value : Reg32)
  | icuEoi (p : PairId) (value : Reg32)
  | icuEnableChange (target : Option (Fin 128)) (value : Reg32)
  | icuCfgLock (value : Reg32)
  | msixMessage (h : Head) (vec : Fin 64)
  | msixUnmask (h : Head) (vec : Option (Fin 64))
  -- power (spec/13)
  | railValid (ch : Fin 16)
  | railFault (ch : Fin 16) (kind : RailFaultKind)
  | railRampTimeout (ch : Fin 16)
  | railRetry (ch : Fin 16)
  | faultNPulseEnd (stillLow : Bool)
  | marginSet (h : Head) (value : Reg32)
  | marginClear (h : Head) (value : Reg32)
  | inputValid (vin : Nat)
  | inputFail (vin : Nat)
  | holdupMeasureStart (vhMv : Nat)
  | holdupMeasureEnd (fallNs : Nat) (completed : Bool)
  | armingEvaluation (vhMv : Nat)
  | bringupStep (inp : List Nat)
  | replayRestore (parts : BitVec 7) (lost : List Dpa)
  | segmentPartsProgrammed (ok : Bool)
  | wakeEdge (pin : Fin 8) (rising : Bool)
  | restExit (h : Head)
  -- temperature (spec/14)
  | sensorConversion (k : Fin 14) (code : Fin 1024) (ok : Bool)
  | thermalRestart (code : Fin 1024)
  | housekeepingRound (rd0 rd1 : Option (Fin 1024)) (dies : List (Nat × Nat))
  | aonTempRead (code : Fin 1024)
  | smbusArp (addr : Fin 128)
  | setEndpointId (eid : Byte) (forceOp : Fin 4)
  | getMctpVersionSupport (msgType : Byte)
  | getSensor (idx : BitVec 16)
  -- Keel store and logbook (spec/15)
  | keelWriteDone (page : Fin 1024) (ok : Bool)
  | eventRecord (code : BitVec 16) (arg : BitVec 64)
  -- counters, self-test, debug port (spec/16)
  | counterClear (h : Head) (n : Fin 64) (value : Reg32)
  | counterSnapshot (h : Head)
  | histogramSnapshot (h : Head)
  | histogramClear (h : Head) (k : Fin 8) (value : Reg32)
  | selfTestSliceRun (slice : BitVec 12) (fault : Bool) (condition : Bool)
  | samplePreload (pins : List Bool)
  | bypass (code : Fin 64)
  | fxResp (r t : BitVec 384)
  | fxHalt (p : PairId)
  | fxResume (p : PairId)
  | fxStep (p : PairId) (after : List (Nat × Nat))
  | fxSetBreakpoint (p : PairId) (k : Fin 8) (addr : BitVec 48)
  | fxClearBreakpoint (p : PairId) (k : Fin 8)
  | fxRead (raw : Bool) (addr : BitVec 48)
  | fxWrite (addr : BitVec 48) (data : BitVec 64)
  | fxReadRegister (p : PairId) (k : Byte)
  | fxWriteRegister (p : PairId) (k : Byte) (data : BitVec 64)
  | fxSemaphoreAcquire (k : Fin 64)
  | fxSemaphoreRelease (k : Fin 64)
  | breakpointHit (p : PairId) (k : Fin 8)
  -- registers and power-up (spec/18, 13)
  | registerAccessError (h : Head) (kind : Fin 3) (off : BitVec 20)
  | registerWrite (h : Head) (off : BitVec 20) (wide : Bool) (value : BitVec 64)
  | perstNDeasserted (h : Head)
  | outboundReadCompletion (h : Head) (tag : BitVec 16) (data : List Byte) (st : OutEnd)
  -- rarer events (spec/02, 07, 11)
  | unsupportedM2sOpcode (h : Head) (tag : BitVec 16) (op : BitVec 8)
  | sramWordCorrected (w : SramWord)
  | unsupportedMailboxCommand (h : Head) (op : BitVec 16)
  | ideMacFailure (x : IdeStream)
  | unusedDStateWrite (h : Head) (d : Fin 3)
  -- commands without operands
  -- line engine and host requests (spec/02, 03)
  | writebackSelect
  | scratchChangeDone
  | compatChangeDone
  -- Tether (spec/04)
  | fastClockReturn
  | tetherSave
  | ptmRequestTimer
  | ptmHoldover
  | phaseStart
  | frameStart
  | testWindowClose
  | testWindowEarlyClose
  -- line integrity and drift (spec/07)
  | driftLedgerSave
  -- tracts (spec/08)
  | heatPeriodAdvance
  | zoneTargetRecompute
  | wearSummarySave
  | wearLevelCheck
  | floorWarnRepeat
  | sealDevice
  -- management complex (spec/12)
  | failoverTakeover
  | standbyPairFail
  | checkpoint
  | icuCommit
  | fuseFloorRaise
  -- power (spec/13)
  | sequenceStep
  | systemReset
  | restartAfterOff
  | faultNNotice
  | faultNFault
  | faultNReleased
  | pwrReqAssert
  | pwrReqDeassert
  | replayRepair
  | segmentRelease
  | ripcordEntry
  | lateArrivalWindowEnd
  | phaseScheduleSuspend
  | flushKeelWrites
  | flushRailsDown
  | shutdownFlush
  | restEntry
  -- temperature (spec/14)
  | roundEvaluate
  | getEndpointId
  | getMessageTypeSupport
  | getHealth
  | getIdentity
  -- Keel store and logbook (spec/15)
  | keelWriteStart
  | lifeRecordWrite
  | operatingSecond
  | rateLimitSecondEnd
  | logbookFlush
  | freezeTimeout
  -- counters, self-test, debug port (spec/16)
  | unitWindow
  | periodicSliceQueue
  | extest
  | idcode
  | clamp
  | highz
  | fxStatus
  | fxChal
  | fxCloseSession
  | tapReset
  -- registers and power-up (spec/18, 13)
  | aonPowerUp
  deriving DecidableEq, Repr

end Sys2Proof
end

