-- ==== Sys2Proof/Decode.lean ====
section
/-!
DEFINITION. The decoder over table words. No row of spec/opcode_table.json gives bits: a command of this block is an
event with operands, not a word. So no word spells a command.
-/
namespace Sys2Proof

/-- The command that a word spells: none, for every word, since no row gives bits. -/
def decodeTableWord (_nbits _w : Nat) : Option Instr := none

end Sys2Proof
end

