-- ==== Sys2Proof/Machine/Table.lean ====
section
/-!
DEFINITION. Sparse tables: how every array of the machine (register file, queues' slots, pages of a
die, tracts) is held, as a list of (index, value) pairs in one canonical form.
-/
namespace Sys2Proof

/-- An array held sparsely. Canonical form (`Tbl.wf`): indices strictly rising, and no entry equal to
the value `d` that an unlisted index reads as. -/
abbrev Tbl (α : Type) := List (Nat × α)

/-- What the table holds at an index; an unlisted index reads as `d`. -/
def Tbl.look {α : Type} (d : α) : Tbl α → Nat → α
  | [], _ => d
  | (j, v) :: r, k => if j = k then v else Tbl.look d r k

/-- Insert an entry before the first larger index; an entry equal to `d` is not listed. -/
def Tbl.ins {α : Type} [DecidableEq α] (d : α) (k : Nat) (v : α) : Tbl α → Tbl α
  | [] => if v = d then [] else [(k, v)]
  | (j, w) :: r =>
    if v = d then (j, w) :: r
    else if k < j then (k, v) :: (j, w) :: r
    else (j, w) :: Tbl.ins d k v r

/-- Write one index. -/
def Tbl.put {α : Type} [DecidableEq α] (d : α) (t : Tbl α) (k : Nat) (v : α) : Tbl α :=
  Tbl.ins d k v (t.filter fun e => e.1 != k)

/-- Change one index by a function. -/
def Tbl.upd {α : Type} [DecidableEq α] (d : α) (t : Tbl α) (k : Nat) (f : α → α) : Tbl α :=
  Tbl.put d t k (f (Tbl.look d t k))

/-- The canonical form: indices strictly rising, no entry equal to the default. -/
def Tbl.wf {α : Type} [DecidableEq α] (d : α) (t : Tbl α) : Bool :=
  decide (t.Pairwise fun a b => a.1 < b.1) && t.all fun e => decide (e.2 ≠ d)

/-- Change every listed entry; entries that become `d` leave the list. -/
def Tbl.mapAll {α : Type} [DecidableEq α] (d : α) (t : Tbl α) (f : Nat → α → α) : Tbl α :=
  (t.map fun e => (e.1, f e.1 e.2)).filter fun e => decide (e.2 ≠ d)

/-- Bits [hi:lo] of a natural number. -/
def bits (x hi lo : Nat) : Nat := (x / 2 ^ lo) % 2 ^ (hi + 1 - lo)

/-- `x` with bits [hi:lo] replaced by the low bits of `v`. -/
def setBits (x hi lo v : Nat) : Nat :=
  x - bits x hi lo * 2 ^ lo + (v % 2 ^ (hi + 1 - lo)) * 2 ^ lo

/-- One bit of a natural number. -/
def bit (x k : Nat) : Bool := bits x k k = 1

/-- 1 or 0. -/
def b2n (b : Bool) : Nat := if b then 1 else 0

/-- Add 1 and hold at the maximum (the saturating counters of the manual). -/
def satAdd (x n max : Nat) : Nat := min (x + n) max

/-- Byte k of a value, byte 0 being bits [7:0] (R6). -/
def byteOf (x k : Nat) : Nat := bits x (8 * k + 7) (8 * k)

/-- Bytes `off` to `off + n - 1` of a value, little-endian (R6). -/
def bytesAt (x off n : Nat) : Nat := (x / 2 ^ (8 * off)) % 2 ^ (8 * n)

/-- A little-endian byte list as a number (R6). -/
def leNat : List Nat → Nat
  | [] => 0
  | b :: r => b % 256 + 256 * leNat r

/-- The first `n` bytes of a number, little-endian (R6). -/
def leBytes : Nat → Nat → List Nat
  | 0, _ => []
  | n + 1, x => x % 256 :: leBytes n (x / 256)

end Sys2Proof
end

