-- ==== Sys2Proof/Machine/Gf.lean ====
section
/-!
DEFINITION. The codes: CRC-16 of LOAD (R126), CRC-32C of Keel records and blocks (R374, R346), GF(2^8) with its field
polynomial (R144), the line code's check bytes (R170), stripe parity and its solution (R144, R152).
-/
namespace Sys2Proof

/-- One step of CRC-16, polynomial 0x1021, no reflection. -/
def crc16Bit (c : Nat) : Nat :=
  if c / 0x8000 % 2 = 1 then Nat.xor (c * 2 % 0x10000) 0x1021 else c * 2 % 0x10000

/-- Eight steps. -/
def crc16Byte (c b : Nat) : Nat :=
  crc16Bit (crc16Bit (crc16Bit (crc16Bit (crc16Bit (crc16Bit (crc16Bit (crc16Bit
    (Nat.xor c (b % 256 * 256)))))))))

/-- CRC-16 of R126: initial value 0xFFFF, most significant bit of each byte first, no final XOR. -/
def crc16 (l : List Nat) : Nat := l.foldl crc16Byte 0xFFFF

/-- One step of the reflected CRC-32C. -/
def crc32cBit (c : Nat) : Nat := if c % 2 = 1 then Nat.xor (c / 2) 0x82F63B78 else c / 2

/-- Eight steps. -/
def crc32cByte (c b : Nat) : Nat :=
  crc32cBit (crc32cBit (crc32cBit (crc32cBit (crc32cBit (crc32cBit (crc32cBit (crc32cBit
    (Nat.xor c (b % 256)))))))))

/-- CRC-32C with the parameters of R346. -/
def crc32c (l : List Nat) : Nat := Nat.xor (l.foldl crc32cByte 0xFFFFFFFF) 0xFFFFFFFF

/-- Multiplication by 0x02 in GF(2^8), field polynomial x^8 + x^4 + x^3 + x^2 + 1 (R144). -/
def gfX (a : Nat) : Nat := if a < 128 then a * 2 else Nat.xor (a * 2 % 256) 0x1D

/-- Product of a and the low `n` bits of b. -/
def gfMulN : Nat → Nat → Nat → Nat
  | 0, _, _ => 0
  | n + 1, a, b => Nat.xor (if b % 2 = 1 then a else 0) (gfMulN n (gfX a) (b / 2))

/-- Product in GF(2^8). -/
def gfMul (a b : Nat) : Nat := gfMulN 8 a b

/-- Power in GF(2^8). -/
def gfPow (a : Nat) : Nat → Nat
  | 0 => 1
  | n + 1 => gfMul a (gfPow a n)

/-- Inverse in GF(2^8): a^254. -/
def gfInv (a : Nat) : Nat := gfPow a 254

/-- g^i with g = 0x02. -/
def gfG (i : Nat) : Nat := gfPow 2 i

/-- Remainder step of the line code: ten check symbols, highest degree first, and the generator of R170,
coefficients of degree 9 down to 0. -/
def rsGen : List Nat := [216, 194, 159, 111, 199, 94, 95, 113, 157, 193]

/-- Feed one message byte. -/
def rsStep (r : List Nat) (b : Nat) : List Nat :=
  match r with
  | [] => []
  | r0 :: rest =>
    let f := Nat.xor r0 b
    List.zipWith (fun x g => Nat.xor x (gfMul f g)) (rest ++ [0]) rsGen

/-- The ten check bytes of 70 message bytes (R170): byte 70 first. -/
def rsCheck (msg : List Nat) : List Nat := msg.foldl rsStep (List.replicate 10 0)

/-- The 80 bytes of a media line as a list, byte 0 first. -/
def lineBytes (l : BitVec 640) : List Nat := leBytes 80 l.toNat

/-- A media line from its bytes. -/
def lineOfBytes (l : List Nat) : BitVec 640 := BitVec.ofNat 640 (leNat l)

/-- A media line from 64 data bytes, tag and metadata, with its check bytes (R168, R170). -/
def mkLine (data : BitVec 512) (tag : BitVec 32) (mta : BitVec 16) : BitVec 640 :=
  let msg := leBytes 64 data.toNat ++ leBytes 4 tag.toNat ++ leBytes 2 mta.toNat
  lineOfBytes (msg ++ rsCheck msg)

/-- A line times a field element, byte by byte. -/
def gfScale (k : Nat) (l : BitVec 640) : BitVec 640 := lineOfBytes ((lineBytes l).map (gfMul k))

/-- P of a stripe's data lines (R144). -/
def stripeP (ds : List (BitVec 640)) : BitVec 640 := ds.foldl (· ^^^ ·) 0

/-- Q of a stripe's data lines, D_0 first (R144): Horner's rule. -/
def stripeQ (ds : List (BitVec 640)) : BitVec 640 :=
  ds.foldr (fun x acc => x ^^^ gfScale 2 acc) 0

/-- Data lines from a stripe of which at most two lines are unknown (R152): `p`, `q` and `ds` give each line, or
none where it is unknown. None: more than two are unknown. -/
def stripeSolve (p q : Option (BitVec 640)) (ds : List (Option (BitVec 640))) : Option (List (BitVec 640)) :=
  let z := ds.map fun x => x.getD 0
  let unk := (List.range ds.length).filter fun i => (ds.getD i none).isNone
  match unk with
  | [] => some z
  | [i] =>
    match p, q with
    | some pv, _ => some (z.set i (pv ^^^ stripeP z))
    | none, some qv => some (z.set i (gfScale (gfInv (gfG i)) (qv ^^^ stripeQ z)))
    | none, none => none
  | [i, j] =>
    match p, q with
    | some pv, some qv =>
      let a := pv ^^^ stripeP z
      let b := qv ^^^ stripeQ z
      -- a = Di + Dj, b = g^i Di + g^j Dj
      let di := gfScale (gfInv (Nat.xor (gfG i) (gfG j))) (b ^^^ gfScale (gfG j) a)
      some ((z.set i di).set j (a ^^^ di))
    | _, _ => none
  | _ => none

end Sys2Proof
end

