-- ==== Sys2Proof/Machine/RegTable.lean ====
section
/-!
DEFINITION. The registers of BAR0 (spec/18_register_map.md): the offset of every register under its own
name, and for every register its fields with their access codes (R7), reset values (R9) and, where the
Meaning cell lists encodings, the listed ones (R11). Read from the register tables of spec/.
-/
namespace Sys2Proof.Machine

/-- Access codes of R7. -/
inductive Acc where | rw | ro | wo | w1c | w1s | rc | rwl
  deriving DecidableEq, Repr

/-- One field: bits [hi:lo], access, reset value, and the listed encodings as ranges (empty: all). -/
structure FieldDesc where
  hi : Nat
  lo : Nat
  acc : Acc
  reset : Nat
  enc : List (Nat × Nat)
  deriving DecidableEq, Repr

/-- One register or register array: element 0, stride, number of elements, fields. -/
structure RegDesc where
  base : Nat
  stride : Nat
  count : Nat
  fields : List FieldDesc
  deriving DecidableEq, Repr

/-- GLB_SVC_STATE (01). -/
def GLB_SVC_STATE : Nat := 0x100
/-- GLB_GROUP_STATE_LO (01). -/
def GLB_GROUP_STATE_LO : Nat := 0x108
/-- GLB_GROUP_STATE_HI (01). -/
def GLB_GROUP_STATE_HI : Nat := 0x10C
/-- LNK_TWIN_BASE_LOn (02). -/
def LNK_TWIN_BASE_LO (n : Nat) : Nat := 0x1000 + n * 0x20
/-- LNK_TWIN_BASE_HIn (02). -/
def LNK_TWIN_BASE_HI (n : Nat) : Nat := 0x1004 + n * 0x20
/-- LNK_TWIN_LIMIT_LOn (02). -/
def LNK_TWIN_LIMIT_LO (n : Nat) : Nat := 0x1008 + n * 0x20
/-- LNK_TWIN_LIMIT_HIn (02). -/
def LNK_TWIN_LIMIT_HI (n : Nat) : Nat := 0x100C + n * 0x20
/-- LNK_TWIN_CTLn (02). -/
def LNK_TWIN_CTL (n : Nat) : Nat := 0x1010 + n * 0x20
/-- LNK_TWIN_ERR (02). -/
def LNK_TWIN_ERR : Nat := 0x230
/-- LNK_DISCARD_CNT (02). -/
def LNK_DISCARD_CNT : Nat := 0x238
/-- LNK_HEAD_PART (02). -/
def LNK_HEAD_PART : Nat := 0x220
/-- LNK_PORT_CFG (02). -/
def LNK_PORT_CFG : Nat := 0x200
/-- LNK_PORT_STSn (02). -/
def LNK_PORT_STS (n : Nat) : Nat := 0x210 + n * 0x4
/-- GLB_RST_CTL (02). -/
def GLB_RST_CTL : Nat := 0x120
/-- LIN_GND_CFG (03). -/
def LIN_GND_CFG : Nat := 0x40010
/-- LIN_GND_STS (03). -/
def LIN_GND_STS : Nat := 0x40014
/-- LIN_PTL_LOSS_LO (03). -/
def LIN_PTL_LOSS_LO : Nat := 0x40030
/-- LIN_PTL_LOSS_HI (03). -/
def LIN_PTL_LOSS_HI : Nat := 0x40034
/-- LIN_PTL_LOSS_CNT (03). -/
def LIN_PTL_LOSS_CNT : Nat := 0x40038
/-- LIN_SCR_CTL (03). -/
def LIN_SCR_CTL : Nat := 0x40008
/-- LIN_CMP_ENT_LOn (03). -/
def LIN_CMP_ENT_LO (n : Nat) : Nat := 0x40100 + n * 0x8
/-- LIN_CMP_ENT_HIn (03). -/
def LIN_CMP_ENT_HI (n : Nat) : Nat := 0x40104 + n * 0x8
/-- LIN_CACHE_CFG (03). -/
def LIN_CACHE_CFG : Nat := 0x40000
/-- LIN_CACHE_STS (03). -/
def LIN_CACHE_STS : Nat := 0x40004
/-- LIN_INV_BASE_LO (03). -/
def LIN_INV_BASE_LO : Nat := 0x40020
/-- LIN_INV_BASE_HI (03). -/
def LIN_INV_BASE_HI : Nat := 0x40024
/-- LIN_INV_LEN (03). -/
def LIN_INV_LEN : Nat := 0x40028
/-- LIN_INV_CTL (03). -/
def LIN_INV_CTL : Nat := 0x4002C
/-- TTH_NOW_LO (04). -/
def TTH_NOW_LO : Nat := 0x20000
/-- TTH_NOW_HI (04). -/
def TTH_NOW_HI : Nat := 0x20004
/-- TTH_STS (04). -/
def TTH_STS : Nat := 0x20008
/-- TTH_PTM_CFG (04). -/
def TTH_PTM_CFG : Nat := 0x20010
/-- TTH_PTM_OFS_LO (04). -/
def TTH_PTM_OFS_LO : Nat := 0x20018
/-- TTH_PTM_OFS_HI (04). -/
def TTH_PTM_OFS_HI : Nat := 0x2001C
/-- TTH_RATE (04). -/
def TTH_RATE : Nat := 0x20020
/-- TTH_DUTYn (04). -/
def TTH_DUTY (n : Nat) : Nat := 0x20040 + n * 0x4
/-- TTH_OVR_CNT (04). -/
def TTH_OVR_CNT : Nat := 0x20058
/-- TTH_TWIN_CFG (04). -/
def TTH_TWIN_CFG : Nat := 0x20050
/-- TTH_TWIN_STS (04). -/
def TTH_TWIN_STS : Nat := 0x20054
/-- TTH_LAUNCH_TIME_LOn (04). -/
def TTH_LAUNCH_TIME_LO (n : Nat) : Nat := 0x21000 + n * 0x20
/-- TTH_LAUNCH_TIME_HIn (04). -/
def TTH_LAUNCH_TIME_HI (n : Nat) : Nat := 0x21004 + n * 0x20
/-- TTH_LAUNCH_ACTn (04). -/
def TTH_LAUNCH_ACT (n : Nat) : Nat := 0x21008 + n * 0x20
/-- TTH_LAUNCH_PERIODn (04). -/
def TTH_LAUNCH_PERIOD (n : Nat) : Nat := 0x2100C + n * 0x20
/-- TTH_LAUNCH_STSn (04). -/
def TTH_LAUNCH_STS (n : Nat) : Nat := 0x21010 + n * 0x20
/-- TTH_LAUNCH_FIRED_LOn (04). -/
def TTH_LAUNCH_FIRED_LO (n : Nat) : Nat := 0x21018 + n * 0x20
/-- TTH_LAUNCH_FIRED_HIn (04). -/
def TTH_LAUNCH_FIRED_HI (n : Nat) : Nat := 0x2101C + n * 0x20
/-- MCH_CH_CFGn (05). -/
def MCH_CH_CFG (n : Nat) : Nat := 0x60000 + n * 0x400
/-- MCH_CH_STSn (05). -/
def MCH_CH_STS (n : Nat) : Nat := 0x60004 + n * 0x400
/-- MCH_CH_CTLn (05). -/
def MCH_CH_CTL (n : Nat) : Nat := 0x60008 + n * 0x400
/-- MCH_CA_ERRn (05). -/
def MCH_CA_ERR (n : Nat) : Nat := 0x60010 + n * 0x400
/-- MCH_WCRC_ERRn (05). -/
def MCH_WCRC_ERR (n : Nat) : Nat := 0x60014 + n * 0x400
/-- MCH_PRG_FAILn (05). -/
def MCH_PRG_FAIL (n : Nat) : Nat := 0x60018 + n * 0x400
/-- MCH_EYEn (05). -/
def MCH_EYE (n : Nat) : Nat := 0x60020 + n * 0x400
/-- MCH_DIE_STSm, m = 8n + d. -/
def MCH_DIE_STS (m : Nat) : Nat := 0x60040 + m / 8 * 0x400 + m % 8 * 4
/-- MCH_BRIDLE_RANKn (06). -/
def MCH_BRIDLE_RANK (n : Nat) : Nat := 0x6A000 + n * 0x4
/-- MCH_BRIDLE_CFG (06). -/
def MCH_BRIDLE_CFG : Nat := 0x6A010
/-- MCH_FAIL_CFG (06). -/
def MCH_FAIL_CFG : Nat := 0x6A014
/-- MCH_TRANS_CNT (06). -/
def MCH_TRANS_CNT : Nat := 0x6A018
/-- MCH_GRP_STSn (06). -/
def MCH_GRP_STS (n : Nat) : Nat := 0x6A100 + n * 0x4
/-- MCH_GRP_RBLDn (06). -/
def MCH_GRP_RBLD (n : Nat) : Nat := 0x6A180 + n * 0x4
/-- MCH_RA_CNTn (06). -/
def MCH_RA_CNT (n : Nat) : Nat := 0x6A200 + n * 0x4
/-- MCH_ROW_STSn (06). -/
def MCH_ROW_STS (n : Nat) : Nat := 0x6A220 + n * 0x4
/-- MCH_DRF_CFG (07). -/
def MCH_DRF_CFG : Nat := 0x6B000
/-- MCH_DRF_STS (07). -/
def MCH_DRF_STS : Nat := 0x6B004
/-- MCH_DRF_HISTn (07). -/
def MCH_DRF_HIST (n : Nat) : Nat := 0x6B040 + n * 0x4
/-- MCH_DEC_HEAVY_CNT (07). -/
def MCH_DEC_HEAVY_CNT : Nat := 0x6B010
/-- MCH_DEC_FB_CNT (07). -/
def MCH_DEC_FB_CNT : Nat := 0x6B014
/-- MCH_REFRESH_CNT (07). -/
def MCH_REFRESH_CNT : Nat := 0x6B018
/-- MCH_SCRUB_STS (07). -/
def MCH_SCRUB_STS : Nat := 0x6B01C
/-- MCH_POISON_LAST_LO (07). -/
def MCH_POISON_LAST_LO : Nat := 0x6B020
/-- MCH_POISON_LAST_HI (07). -/
def MCH_POISON_LAST_HI : Nat := 0x6B024
/-- MCH_POISON_CNT (07). -/
def MCH_POISON_CNT : Nat := 0x6B028
/-- GLB_SRAM_STS (07). -/
def GLB_SRAM_STS : Nat := 0x140
/-- GLB_SRAM_CE_CNT (07). -/
def GLB_SRAM_CE_CNT : Nat := 0x144
/-- MTL_GAP_CFG (08). -/
def MTL_GAP_CFG : Nat := 0x50000
/-- MTL_HEAT_CFG (08). -/
def MTL_HEAT_CFG : Nat := 0x50004
/-- MTL_UPD_CFG (08). -/
def MTL_UPD_CFG : Nat := 0x50008
/-- MTL_UPD_STS (08). -/
def MTL_UPD_STS : Nat := 0x5000C
/-- MTL_UPD_TGT (08). -/
def MTL_UPD_TGT : Nat := 0x50010
/-- MTL_WL_CFG (08). -/
def MTL_WL_CFG : Nat := 0x50014
/-- MTL_WEAR_MIN (08). -/
def MTL_WEAR_MIN : Nat := 0x50018
/-- MTL_WEAR_MAX (08). -/
def MTL_WEAR_MAX : Nat := 0x5001C
/-- MTL_AVAIL (08). -/
def MTL_AVAIL : Nat := 0x50020
/-- MTL_FREE (08). -/
def MTL_FREE : Nat := 0x50024
/-- MTL_FLOOR (08). -/
def MTL_FLOOR : Nat := 0x50028
/-- MTL_CAP (08). -/
def MTL_CAP : Nat := 0x5002C
/-- MTL_DEMOTED (08). -/
def MTL_DEMOTED : Nat := 0x50030
/-- MTL_RETIRED (08). -/
def MTL_RETIRED : Nat := 0x50034
/-- MTL_SEAL_STS (08). -/
def MTL_SEAL_STS : Nat := 0x50038
/-- MTL_SEAL_CNT (08). -/
def MTL_SEAL_CNT : Nat := 0x5003C
/-- MTL_SEAL_LAST_LO (08). -/
def MTL_SEAL_LAST_LO : Nat := 0x50040
/-- MTL_SEAL_LAST_HI (08). -/
def MTL_SEAL_LAST_HI : Nat := 0x50044
/-- MTL_MIG_STS (08). -/
def MTL_MIG_STS : Nat := 0x50048
/-- MTL_MIG_ABORT_CNT (08). -/
def MTL_MIG_ABORT_CNT : Nat := 0x5004C
/-- MTL_TC_MISS_CNT (08). -/
def MTL_TC_MISS_CNT : Nat := 0x50050
/-- SEC_STS (09). -/
def SEC_STS : Nat := 0x30000
/-- SEC_OWNER (09). -/
def SEC_OWNER : Nat := 0x30004
/-- SEC_EPOCH (09). -/
def SEC_EPOCH : Nat := 0x30008
/-- SEC_SLOT_SEL (09). -/
def SEC_SLOT_SEL : Nat := 0x30010
/-- SEC_SLOT_INFO (09). -/
def SEC_SLOT_INFO : Nat := 0x30014
/-- SEC_SLOT_TITLE (09). -/
def SEC_SLOT_TITLE : Nat := 0x30018
/-- SEC_TAG_FAIL_CNT (09). -/
def SEC_TAG_FAIL_CNT : Nat := 0x30020
/-- SEC_ROLLFWD_CNT (09). -/
def SEC_ROLLFWD_CNT : Nat := 0x30024
/-- SEC_CTR_MISS_CNT (09). -/
def SEC_CTR_MISS_CNT : Nat := 0x30028
/-- SEC_REENC_STS (09). -/
def SEC_REENC_STS : Nat := 0x30030
/-- SEC_EXH_STS (09). -/
def SEC_EXH_STS : Nat := 0x30034
/-- SEC_REKEY_STS (09). -/
def SEC_REKEY_STS : Nat := 0x30040
/-- SEC_REKEY_BND_LO (09). -/
def SEC_REKEY_BND_LO : Nat := 0x30048
/-- SEC_REKEY_BND_HI (09). -/
def SEC_REKEY_BND_HI : Nat := 0x3004C
/-- STR_CFG (10). -/
def STR_CFG : Nat := 0x70000
/-- STR_STS (10). -/
def STR_STS : Nat := 0x70004
/-- STR_DONE_LO (10). -/
def STR_DONE_LO : Nat := 0x70010
/-- STR_DONE_HI (10). -/
def STR_DONE_HI : Nat := 0x70014
/-- STR_SEL (10). -/
def STR_SEL : Nat := 0x70020
/-- STR_SEL_OUT_LO (10). -/
def STR_SEL_OUT_LO : Nat := 0x70028
/-- STR_SEL_OUT_HI (10). -/
def STR_SEL_OUT_HI : Nat := 0x7002C
/-- STR_SEL_FAULT_LO (10). -/
def STR_SEL_FAULT_LO : Nat := 0x70030
/-- STR_SEL_FAULT_HI (10). -/
def STR_SEL_FAULT_HI : Nat := 0x70034
/-- STR_FAIL_CNT (10). -/
def STR_FAIL_CNT : Nat := 0x70038
/-- STR_CH_STSn (10). -/
def STR_CH_STS (n : Nat) : Nat := 0x70100 + n * 0x10
/-- STR_CH_HANDLEn (10). -/
def STR_CH_HANDLE (n : Nat) : Nat := 0x70104 + n * 0x10
/-- STR_CH_PROGn (10). -/
def STR_CH_PROG (n : Nat) : Nat := 0x70108 + n * 0x10
/-- STR_CH_TAGn (10). -/
def STR_CH_TAG (n : Nat) : Nat := 0x7010C + n * 0x10
/-- STR_DICT_IDn (10). -/
def STR_DICT_ID (n : Nat) : Nat := 0x70600 + n * 0x8
/-- STR_DICT_SZn (10). -/
def STR_DICT_SZ (n : Nat) : Nat := 0x70604 + n * 0x8
/-- MBX_LCI_STS (11). -/
def MBX_LCI_STS : Nat := 0x10000
/-- MBX_SPOOL_STS (11). -/
def MBX_SPOOL_STS : Nat := 0x10008
/-- MBX_RM_CTL (11). -/
def MBX_RM_CTL : Nat := 0x10100
/-- MBX_RM_STS (11). -/
def MBX_RM_STS : Nat := 0x10104
/-- MBX_RM_ARGn (11). -/
def MBX_RM_ARG (n : Nat) : Nat := 0x10110 + n * 0x4
/-- MBX_RM_DATAn (11). -/
def MBX_RM_DATA (n : Nat) : Nat := 0x10200 + n * 0x4
/-- MBX_LOCK_HELDn (11). -/
def MBX_LOCK_HELD (n : Nat) : Nat := 0x10400 + n * 0x4
/-- MBX_LOCK_ABNn (11). -/
def MBX_LOCK_ABN (n : Nat) : Nat := 0x10420 + n * 0x4
/-- MBX_QP_SQ_BASE_LOn (11). -/
def MBX_QP_SQ_BASE_LO (n : Nat) : Nat := 0x11000 + n * 0x20
/-- MBX_QP_SQ_BASE_HIn (11). -/
def MBX_QP_SQ_BASE_HI (n : Nat) : Nat := 0x11004 + n * 0x20
/-- MBX_QP_CQ_BASE_LOn (11). -/
def MBX_QP_CQ_BASE_LO (n : Nat) : Nat := 0x11008 + n * 0x20
/-- MBX_QP_CQ_BASE_HIn (11). -/
def MBX_QP_CQ_BASE_HI (n : Nat) : Nat := 0x1100C + n * 0x20
/-- MBX_QP_CFGn (11). -/
def MBX_QP_CFG (n : Nat) : Nat := 0x11010 + n * 0x20
/-- MBX_QP_STSn (11). -/
def MBX_QP_STS (n : Nat) : Nat := 0x11014 + n * 0x20
/-- MBX_SQ_DBn (11). -/
def MBX_SQ_DB (n : Nat) : Nat := 0x12000 + n * 0x8
/-- MBX_CQ_DBn (11). -/
def MBX_CQ_DB (n : Nat) : Nat := 0x12004 + n * 0x8
/-- GLB_FW_VER (12). -/
def GLB_FW_VER : Nat := 0x160
/-- GLB_FW_STS (12). -/
def GLB_FW_STS : Nat := 0x164
/-- GLB_CORE_STS (12). -/
def GLB_CORE_STS : Nat := 0x168
/-- GLB_MSIX_SYS (12). -/
def GLB_MSIX_SYS : Nat := 0x16C
/-- ICU_GCTL (12). -/
def ICU_GCTL : Nat := 0xD0000
/-- ICU_STS (12). -/
def ICU_STS : Nat := 0xD0004
/-- ICU_PENDn (12). -/
def ICU_PEND (n : Nat) : Nat := 0xD0010 + n * 0x4
/-- ICU_SWI (12). -/
def ICU_SWI : Nat := 0xD0020
/-- ICU_ACTn (12). -/
def ICU_ACT (n : Nat) : Nat := 0xD0040 + n * 0x4
/-- ICU_EOIn (12). -/
def ICU_EOI (n : Nat) : Nat := 0xD0048 + n * 0x4
/-- ICU_WDOGn (12). -/
def ICU_WDOG (n : Nat) : Nat := 0xD0050 + n * 0x4
/-- ICU_SRC_CFGn (12). -/
def ICU_SRC_CFG (n : Nat) : Nat := 0xD0100 + n * 0x4
/-- ICU_SEMn (12). -/
def ICU_SEM (n : Nat) : Nat := 0xD0400 + n * 0x4
/-- PSV_STS (13). -/
def PSV_STS : Nat := 0x80000
/-- PSV_VIN (13). -/
def PSV_VIN : Nat := 0x80004
/-- PSV_HOLD (13). -/
def PSV_HOLD : Nat := 0x80008
/-- PSV_HOLD_CAP (13). -/
def PSV_HOLD_CAP : Nat := 0x8000C
/-- PSV_ARM_CFG (13). -/
def PSV_ARM_CFG : Nat := 0x80010
/-- PSV_FAULT (13). -/
def PSV_FAULT : Nat := 0x80014
/-- PSV_MARGIN (13). -/
def PSV_MARGIN : Nat := 0x80018
/-- PSV_RIP_LAST (13). -/
def PSV_RIP_LAST : Nat := 0x80020
/-- PSV_RIP_CNT (13). -/
def PSV_RIP_CNT : Nat := 0x80024
/-- PSV_REPLAY_STS (13). -/
def PSV_REPLAY_STS : Nat := 0x80028
/-- PSV_SEQ_CFGn (13). -/
def PSV_SEQ_CFG (n : Nat) : Nat := 0x80100 + n * 0x10
/-- PSV_SEQ_THRn (13). -/
def PSV_SEQ_THR (n : Nat) : Nat := 0x80104 + n * 0x10
/-- PSV_SEQ_STSn (13). -/
def PSV_SEQ_STS (n : Nat) : Nat := 0x80108 + n * 0x10
/-- THK_STS (14). -/
def THK_STS : Nat := 0x90000
/-- THK_TJ (14). -/
def THK_TJ : Nat := 0x90004
/-- THK_QUADn (14). -/
def THK_QUAD (n : Nat) : Nat := 0x90010 + n * 0x4
/-- THK_STALE_CNT (14). -/
def THK_STALE_CNT : Nat := 0x90020
/-- THK_SNSn (14). -/
def THK_SNS (n : Nat) : Nat := 0x90100 + n * 0x4
/-- THK_RDn (14). -/
def THK_RD (n : Nat) : Nat := 0x90140 + n * 0x4
/-- KEL_STS (15). -/
def KEL_STS : Nat := 0xA0000
/-- KEL_OPMIN (15). -/
def KEL_OPMIN : Nat := 0xA0004
/-- KEL_OPSEC (15). -/
def KEL_OPSEC : Nat := 0xA0008
/-- KEL_PCYC (15). -/
def KEL_PCYC : Nat := 0xA000C
/-- KEL_DIRTY (15). -/
def KEL_DIRTY : Nat := 0xA0010
/-- KEL_UWL_STS (15). -/
def KEL_UWL_STS : Nat := 0xA0020
/-- EVR_NEWEST (15). -/
def EVR_NEWEST : Nat := 0xA0100
/-- EVR_OLDEST (15). -/
def EVR_OLDEST : Nat := 0xA0104
/-- EVR_STS (15). -/
def EVR_STS : Nat := 0xA0108
/-- EVR_CFG (15). -/
def EVR_CFG : Nat := 0xA010C
/-- PMC_CNT_LOn (16). -/
def PMC_CNT_LO (n : Nat) : Nat := 0xB0000 + n * 0x8
/-- PMC_CNT_HIn (16). -/
def PMC_CNT_HI (n : Nat) : Nat := 0xB0004 + n * 0x8
/-- PMC_SNAP_LOn (16). -/
def PMC_SNAP_LO (n : Nat) : Nat := 0xB0200 + n * 0x8
/-- PMC_SNAP_HIn (16). -/
def PMC_SNAP_HI (n : Nat) : Nat := 0xB0204 + n * 0x8
/-- PMC_SNAP_TIME_LO (16). -/
def PMC_SNAP_TIME_LO : Nat := 0xB0400
/-- PMC_SNAP_TIME_HI (16). -/
def PMC_SNAP_TIME_HI : Nat := 0xB0404
/-- PMC_NOW_LO (16). -/
def PMC_NOW_LO : Nat := 0xB0408
/-- PMC_NOW_HI (16). -/
def PMC_NOW_HI : Nat := 0xB040C
/-- PMC_HIST_LOn (16). -/
def PMC_HIST_LO (n : Nat) : Nat := 0xB0800 + n * 0x8
/-- PMC_HIST_HIn (16). -/
def PMC_HIST_HI (n : Nat) : Nat := 0xB0804 + n * 0x8
/-- PMC_HSNAP_LOn (16). -/
def PMC_HSNAP_LO (n : Nat) : Nat := 0xB1000 + n * 0x8
/-- PMC_HSNAP_HIn (16). -/
def PMC_HSNAP_HI (n : Nat) : Nat := 0xB1004 + n * 0x8
/-- PMC_HSNAP_TIME_LO (16). -/
def PMC_HSNAP_TIME_LO : Nat := 0xB1800
/-- PMC_HSNAP_TIME_HI (16). -/
def PMC_HSNAP_TIME_HI : Nat := 0xB1804
/-- PMC_CTL (16). -/
def PMC_CTL : Nat := 0xB8000
/-- PMC_CNT_CFGn (16). -/
def PMC_CNT_CFG (n : Nat) : Nat := 0xB8100 + n * 0x4
/-- PMC_HIST_CFGn (16). -/
def PMC_HIST_CFG (n : Nat) : Nat := 0xB8200 + n * 0x4
/-- BST_CFG (16). -/
def BST_CFG : Nat := 0xC0000
/-- BST_STS (16). -/
def BST_STS : Nat := 0xC0004
/-- BST_DBG_STS (16). -/
def BST_DBG_STS : Nat := 0xC0010
/-- GLB_ID (18). -/
def GLB_ID : Nat := 0x0
/-- GLB_REG_ERR (18). -/
def GLB_REG_ERR : Nat := 0x180
/-- GLB_REG_ERR_CNT (18). -/
def GLB_REG_ERR_CNT : Nat := 0x184
/-- LIN_DISCARD_CNT (18). -/
def LIN_DISCARD_CNT : Nat := 0x4003C

/-- The registers of block 0x0_0000. -/
def regsGlb : List RegDesc := [
  -- GLB_SVC_STATE: port_lost, standby_ok, active_pair, floor_warn, sealed, armed, replay_done, state
  ⟨0x100, 0x0, 1, [⟨18, 18, .ro, 0x0, []⟩, ⟨17, 17, .ro, 0x0, []⟩, ⟨16, 16, .ro, 0x0, []⟩, ⟨7, 7, .ro, 0x0, []⟩, ⟨6, 6, .ro, 0x0, []⟩, ⟨5, 5, .ro, 0x0, []⟩, ⟨4, 4, .ro, 0x0, []⟩, ⟨3, 0, .ro, 0x1, []⟩]⟩,
  -- GLB_GROUP_STATE_LO: grp_state
  ⟨0x108, 0x0, 1, [⟨31, 0, .ro, 0x0, []⟩]⟩,
  -- GLB_GROUP_STATE_HI: grp_state
  ⟨0x10C, 0x0, 1, [⟨31, 0, .ro, 0x0, []⟩]⟩,
  -- LNK_TWIN_BASE_LO: base_lo
  ⟨0x1000, 0x20, 64, [⟨31, 20, .rwl, 0x0, []⟩]⟩,
  -- LNK_TWIN_BASE_HI: base_hi
  ⟨0x1004, 0x20, 64, [⟨11, 0, .rwl, 0x0, []⟩]⟩,
  -- LNK_TWIN_LIMIT_LO: limit_lo
  ⟨0x1008, 0x20, 64, [⟨31, 20, .rwl, 0x0, []⟩]⟩,
  -- LNK_TWIN_LIMIT_HI: limit_hi
  ⟨0x100C, 0x20, 64, [⟨11, 0, .rwl, 0x0, []⟩]⟩,
  -- LNK_TWIN_CTL: lock, busy, key_index, head_mask, pclass, mode, en
  ⟨0x1010, 0x20, 64, [⟨31, 31, .w1s, 0x0, []⟩, ⟨30, 30, .ro, 0x0, []⟩, ⟨19, 8, .rwl, 0x0, []⟩, ⟨5, 4, .rwl, 0x0, []⟩, ⟨3, 3, .rwl, 0x0, []⟩, ⟨2, 1, .rwl, 0x0, [(0x0, 0x2)]⟩, ⟨0, 0, .rwl, 0x0, []⟩]⟩,
  -- LNK_TWIN_ERR: valid, reason, win
  ⟨0x230, 0x0, 1, [⟨31, 31, .w1c, 0x0, []⟩, ⟨10, 8, .ro, 0x0, []⟩, ⟨5, 0, .ro, 0x0, []⟩]⟩,
  -- LNK_DISCARD_CNT: count
  ⟨0x238, 0x0, 1, [⟨31, 0, .rc, 0x0, []⟩]⟩,
  -- LNK_HEAD_PART: share_gib, split_gib
  ⟨0x220, 0x0, 1, [⟨31, 16, .ro, 0x0, []⟩, ⟨15, 0, .ro, 0x0, []⟩]⟩,
  -- LNK_PORT_CFG: ptm_src, max_width_b, max_width_a, port_mode
  ⟨0x200, 0x0, 1, [⟨8, 8, .ro, 0x0, []⟩, ⟨5, 4, .ro, 0x0, []⟩, ⟨3, 2, .ro, 0x0, []⟩, ⟨1, 0, .ro, 0x0, []⟩]⟩,
  -- LNK_PORT_STS: ptm_valid, ide_on, lstate, dstate, cxl_mem, flit256, width, rate, link_up
  ⟨0x210, 0x4, 2, [⟨14, 14, .ro, 0x0, []⟩, ⟨13, 13, .ro, 0x0, []⟩, ⟨12, 10, .ro, 0x4, []⟩, ⟨9, 8, .ro, 0x0, []⟩, ⟨7, 7, .ro, 0x0, []⟩, ⟨6, 6, .ro, 0x0, []⟩, ⟨5, 4, .ro, 0x0, []⟩, ⟨3, 1, .ro, 0x0, []⟩, ⟨0, 0, .ro, 0x0, []⟩]⟩,
  -- GLB_RST_CTL: rst_key, dev_rst
  ⟨0x120, 0x0, 1, [⟨31, 16, .wo, 0x0, []⟩, ⟨0, 0, .wo, 0x0, []⟩]⟩,
  -- GLB_SRAM_STS: chk_done, chk_fail, ue, on_corr, soft_rep
  ⟨0x140, 0x0, 1, [⟨31, 31, .ro, 0x0, []⟩, ⟨30, 30, .ro, 0x0, []⟩, ⟨29, 29, .ro, 0x0, []⟩, ⟨23, 16, .ro, 0x0, []⟩, ⟨15, 8, .ro, 0x0, []⟩]⟩,
  -- GLB_SRAM_CE_CNT: count
  ⟨0x144, 0x0, 1, [⟨31, 0, .rc, 0x0, []⟩]⟩,
  -- GLB_FW_VER: fw_ver
  ⟨0x160, 0x0, 1, [⟨31, 0, .ro, 0x0, []⟩]⟩,
  -- GLB_FW_STS: fallback, slot, sel, svn, floor
  ⟨0x164, 0x0, 1, [⟨31, 31, .ro, 0x0, []⟩, ⟨17, 16, .ro, 0x3, []⟩, ⟨15, 15, .ro, 0x0, []⟩, ⟨14, 7, .ro, 0x0, []⟩, ⟨6, 0, .ro, 0x0, []⟩]⟩,
  -- GLB_CORE_STS: cause, a_ok, b_ok, failovers
  ⟨0x168, 0x0, 1, [⟨31, 30, .ro, 0x0, []⟩, ⟨29, 29, .ro, 0x0, []⟩, ⟨28, 28, .ro, 0x0, []⟩, ⟨7, 0, .ro, 0x0, []⟩]⟩,
  -- GLB_MSIX_SYS: en, vec
  ⟨0x16C, 0x0, 1, [⟨7, 7, .rw, 0x0, []⟩, ⟨5, 0, .rw, 0x0, []⟩]⟩,
  -- GLB_ID: device, rev, class
  ⟨0x0, 0x0, 1, [⟨31, 16, .ro, 0x4480, []⟩, ⟨15, 12, .ro, 0x0, []⟩, ⟨1, 0, .ro, 0x0, []⟩]⟩,
  -- GLB_REG_ERR: valid, head, kind, offset
  ⟨0x180, 0x0, 1, [⟨31, 31, .w1c, 0x0, []⟩, ⟨30, 30, .ro, 0x0, []⟩, ⟨29, 28, .ro, 0x0, []⟩, ⟨19, 0, .ro, 0x0, []⟩]⟩,
  -- GLB_REG_ERR_CNT: count
  ⟨0x184, 0x0, 1, [⟨31, 0, .rc, 0x0, []⟩]⟩]

/-- The registers of block 0x1_0000. -/
def regsMbx : List RegDesc := [
  -- MBX_LCI_STS: ready, inflight
  ⟨0x10000, 0x0, 1, [⟨31, 31, .ro, 0x0, []⟩, ⟨13, 0, .ro, 0x0, []⟩]⟩,
  -- MBX_SPOOL_STS: spill, parity
  ⟨0x10008, 0x0, 1, [⟨31, 16, .ro, 0x0, []⟩, ⟨15, 0, .ro, 0x0, []⟩]⟩,
  -- MBX_RM_CTL: go, op
  ⟨0x10100, 0x0, 1, [⟨8, 8, .wo, 0x0, []⟩, ⟨7, 0, .rw, 0x0, [(0x1, 0x7)]⟩]⟩,
  -- MBX_RM_STS: busy, boot, owner_b, status
  ⟨0x10104, 0x0, 1, [⟨31, 31, .ro, 0x0, []⟩, ⟨30, 30, .ro, 0x1, []⟩, ⟨29, 29, .ro, 0x0, []⟩, ⟨15, 0, .ro, 0x0, []⟩]⟩,
  -- MBX_RM_ARG: arg
  ⟨0x10110, 0x4, 8, [⟨31, 0, .rw, 0x0, []⟩]⟩,
  -- MBX_RM_DATA: data
  ⟨0x10200, 0x4, 64, [⟨31, 0, .rw, 0x0, []⟩]⟩,
  -- MBX_LOCK_HELD: held
  ⟨0x10400, 0x4, 8, [⟨31, 0, .ro, 0x0, []⟩]⟩,
  -- MBX_LOCK_ABN: abn
  ⟨0x10420, 0x4, 8, [⟨31, 0, .ro, 0x0, []⟩]⟩,
  -- MBX_QP_SQ_BASE_LO: base
  ⟨0x11000, 0x20, 64, [⟨31, 0, .rw, 0x0, []⟩]⟩,
  -- MBX_QP_SQ_BASE_HI: base
  ⟨0x11004, 0x20, 64, [⟨31, 0, .rw, 0x0, []⟩]⟩,
  -- MBX_QP_CQ_BASE_LO: base
  ⟨0x11008, 0x20, 64, [⟨31, 0, .rw, 0x0, []⟩]⟩,
  -- MBX_QP_CQ_BASE_HI: base
  ⟨0x1100C, 0x20, 64, [⟨31, 0, .rw, 0x0, []⟩]⟩,
  -- MBX_QP_CFG: en, irq_en, vec, head, depth
  ⟨0x11010, 0x20, 64, [⟨31, 31, .rw, 0x0, []⟩, ⟨30, 30, .rw, 0x0, []⟩, ⟨29, 24, .rw, 0x0, []⟩, ⟨23, 23, .rw, 0x0, []⟩, ⟨15, 0, .rw, 0x0, [(0x1, 0xFFFF)]⟩]⟩,
  -- MBX_QP_STS: idle, cq_full, db_err, gen, sq_head
  ⟨0x11014, 0x20, 64, [⟨31, 31, .ro, 0x1, []⟩, ⟨30, 30, .ro, 0x0, []⟩, ⟨29, 29, .w1c, 0x0, []⟩, ⟨25, 16, .ro, 0x0, []⟩, ⟨15, 0, .ro, 0x0, []⟩]⟩,
  -- MBX_SQ_DB: tail
  ⟨0x12000, 0x8, 64, [⟨15, 0, .rw, 0x0, []⟩]⟩,
  -- MBX_CQ_DB: head
  ⟨0x12004, 0x8, 64, [⟨15, 0, .rw, 0x0, []⟩]⟩]

/-- The registers of block 0x2_0000. -/
def regsTth : List RegDesc := [
  -- TTH_NOW_LO: now_lo
  ⟨0x20000, 0x0, 1, [⟨31, 0, .ro, 0x0, []⟩]⟩,
  -- TTH_NOW_HI: now_hi
  ⟨0x20004, 0x0, 1, [⟨31, 0, .ro, 0x0, []⟩]⟩,
  -- TTH_STS: cold, src
  ⟨0x20008, 0x0, 1, [⟨2, 2, .ro, 0x0, []⟩, ⟨1, 0, .ro, 0x0, []⟩]⟩,
  -- TTH_PTM_CFG: interval_ms, en
  ⟨0x20010, 0x0, 1, [⟨15, 8, .rw, 0xA, [(0x1, 0xFF)]⟩, ⟨0, 0, .rw, 0x1, []⟩]⟩,
  -- TTH_PTM_OFS_LO: ofs
  ⟨0x20018, 0x0, 1, [⟨31, 0, .ro, 0x0, []⟩]⟩,
  -- TTH_PTM_OFS_HI: ofs
  ⟨0x2001C, 0x0, 1, [⟨31, 0, .ro, 0x0, []⟩]⟩,
  -- TTH_RATE: rate
  ⟨0x20020, 0x0, 1, [⟨31, 0, .rw, 0x0, []⟩]⟩,
  -- TTH_DUTY: duty
  ⟨0x20040, 0x4, 4, [⟨8, 0, .ro, 0x100, []⟩]⟩,
  -- TTH_OVR_CNT: count
  ⟨0x20058, 0x0, 1, [⟨31, 0, .rc, 0x0, []⟩]⟩,
  -- TTH_TWIN_CFG: en
  ⟨0x20050, 0x0, 1, [⟨0, 0, .rw, 0x1, []⟩]⟩,
  -- TTH_TWIN_STS: open, intr, chan, count
  ⟨0x20054, 0x0, 1, [⟨31, 31, .ro, 0x0, []⟩, ⟨30, 30, .ro, 0x0, []⟩, ⟨21, 16, .ro, 0x0, []⟩, ⟨15, 0, .ro, 0x0, []⟩]⟩,
  -- TTH_LAUNCH_TIME_LO: time_lo
  ⟨0x21000, 0x20, 64, [⟨31, 0, .rw, 0x0, []⟩]⟩,
  -- TTH_LAUNCH_TIME_HI: time_hi
  ⟨0x21004, 0x20, 64, [⟨31, 0, .rw, 0x0, []⟩]⟩,
  -- TTH_LAUNCH_ACT: arm, ptm_ref, arg, action
  ⟨0x21008, 0x20, 64, [⟨31, 31, .rw, 0x0, []⟩, ⟨30, 30, .rw, 0x0, []⟩, ⟨27, 8, .rw, 0x0, []⟩, ⟨3, 0, .rw, 0x0, [(0x0, 0x6)]⟩]⟩,
  -- TTH_LAUNCH_PERIOD: period
  ⟨0x2100C, 0x20, 64, [⟨31, 0, .rw, 0x0, []⟩]⟩,
  -- TTH_LAUNCH_STS: missed, err, late, state
  ⟨0x21010, 0x20, 64, [⟨31, 16, .ro, 0x0, []⟩, ⟨3, 3, .ro, 0x0, []⟩, ⟨2, 2, .ro, 0x0, []⟩, ⟨1, 0, .ro, 0x0, []⟩]⟩,
  -- TTH_LAUNCH_FIRED_LO: fired
  ⟨0x21018, 0x20, 64, [⟨31, 0, .ro, 0x0, []⟩]⟩,
  -- TTH_LAUNCH_FIRED_HI: fired
  ⟨0x2101C, 0x20, 64, [⟨31, 0, .ro, 0x0, []⟩]⟩]

/-- The registers of block 0x3_0000. -/
def regsSec : List RegDesc := [
  -- SEC_STS: rng_ok, ladder_ok, dbg_mode, used
  ⟨0x30000, 0x0, 1, [⟨31, 31, .ro, 0x0, []⟩, ⟨30, 30, .ro, 0x0, []⟩, ⟨29, 29, .ro, 0x0, []⟩, ⟨12, 0, .ro, 0x0, []⟩]⟩,
  -- SEC_OWNER: owner_id
  ⟨0x30004, 0x0, 1, [⟨31, 0, .ro, 0x0, []⟩]⟩,
  -- SEC_EPOCH: epoch
  ⟨0x30008, 0x0, 1, [⟨31, 0, .ro, 0x0, []⟩]⟩,
  -- SEC_SLOT_SEL: slot
  ⟨0x30010, 0x0, 1, [⟨11, 0, .rw, 0x0, []⟩]⟩,
  -- SEC_SLOT_INFO: state, kind, form, head, rights, record
  ⟨0x30014, 0x0, 1, [⟨31, 30, .ro, 0x0, []⟩, ⟨29, 28, .ro, 0x0, []⟩, ⟨27, 26, .ro, 0x0, []⟩, ⟨25, 25, .ro, 0x0, []⟩, ⟨23, 16, .ro, 0x0, []⟩, ⟨7, 0, .ro, 0x0, []⟩]⟩,
  -- SEC_SLOT_TITLE: title_id
  ⟨0x30018, 0x0, 1, [⟨31, 0, .ro, 0x0, []⟩]⟩,
  -- SEC_TAG_FAIL_CNT: count
  ⟨0x30020, 0x0, 1, [⟨31, 0, .rc, 0x0, []⟩]⟩,
  -- SEC_ROLLFWD_CNT: count
  ⟨0x30024, 0x0, 1, [⟨31, 0, .rc, 0x0, []⟩]⟩,
  -- SEC_CTR_MISS_CNT: count
  ⟨0x30028, 0x0, 1, [⟨31, 0, .rc, 0x0, []⟩]⟩,
  -- SEC_REENC_STS: active, done
  ⟨0x30030, 0x0, 1, [⟨24, 16, .ro, 0x0, []⟩, ⟨15, 0, .ro, 0x0, []⟩]⟩,
  -- SEC_EXH_STS: full, pages
  ⟨0x30034, 0x0, 1, [⟨31, 31, .ro, 0x0, []⟩, ⟨6, 0, .ro, 0x0, []⟩]⟩,
  -- SEC_REKEY_STS: busy, win, new_key
  ⟨0x30040, 0x0, 1, [⟨31, 31, .ro, 0x0, []⟩, ⟨17, 12, .ro, 0x0, []⟩, ⟨11, 0, .ro, 0x0, []⟩]⟩,
  -- SEC_REKEY_BND_LO: bnd
  ⟨0x30048, 0x0, 1, [⟨31, 0, .ro, 0x0, []⟩]⟩,
  -- SEC_REKEY_BND_HI: bnd
  ⟨0x3004C, 0x0, 1, [⟨31, 0, .ro, 0x0, []⟩]⟩]

/-- The registers of block 0x4_0000. -/
def regsLin : List RegDesc := [
  -- LIN_GND_CFG: head_rsv, age_ms, wb_hi, wb_lo
  ⟨0x40010, 0x0, 1, [⟨27, 24, .rw, 0x2, [(0x0, 0x6)]⟩, ⟨23, 16, .rw, 0x64, []⟩, ⟨11, 8, .rw, 0xC, [(0x1, 0xF)]⟩, ⟨3, 0, .rw, 0x2, [(0x0, 0xE)]⟩]⟩,
  -- LIN_GND_STS: armed, raised, used
  ⟨0x40014, 0x0, 1, [⟨31, 31, .ro, 0x0, []⟩, ⟨30, 30, .ro, 0x0, []⟩, ⟨18, 0, .ro, 0x0, []⟩]⟩,
  -- LIN_PTL_LOSS_LO: dpa_lo
  ⟨0x40030, 0x0, 1, [⟨31, 6, .ro, 0x0, []⟩]⟩,
  -- LIN_PTL_LOSS_HI: valid, dpa_hi
  ⟨0x40034, 0x0, 1, [⟨31, 31, .w1c, 0x0, []⟩, ⟨11, 0, .ro, 0x0, []⟩]⟩,
  -- LIN_PTL_LOSS_CNT: count
  ⟨0x40038, 0x0, 1, [⟨31, 0, .rc, 0x0, []⟩]⟩,
  -- LIN_SCR_CTL: head_b, scr_en
  ⟨0x40008, 0x0, 1, [⟨6, 4, .rw, 0x0, []⟩, ⟨2, 0, .rw, 0x0, []⟩]⟩,
  -- LIN_CMP_ENT_LO: page
  ⟨0x40100, 0x8, 48, [⟨31, 0, .ro, 0x0, []⟩]⟩,
  -- LIN_CMP_ENT_HI: valid, pin, lines
  ⟨0x40104, 0x8, 48, [⟨31, 31, .ro, 0x0, []⟩, ⟨30, 30, .rw, 0x0, []⟩, ⟨6, 0, .ro, 0x0, []⟩]⟩,
  -- LIN_CACHE_CFG: spec_en, bwi_en, compat_en
  ⟨0x40000, 0x0, 1, [⟨2, 2, .rw, 0x1, []⟩, ⟨1, 1, .rw, 0x1, []⟩, ⟨0, 0, .rw, 0x0, []⟩]⟩,
  -- LIN_CACHE_STS: scr_act, scr_busy, inv_busy, macro_fail, compat_busy, compat_act
  ⟨0x40004, 0x0, 1, [⟨7, 5, .ro, 0x0, []⟩, ⟨4, 4, .ro, 0x0, []⟩, ⟨3, 3, .ro, 0x0, []⟩, ⟨2, 2, .ro, 0x0, []⟩, ⟨1, 1, .ro, 0x0, []⟩, ⟨0, 0, .ro, 0x0, []⟩]⟩,
  -- LIN_INV_BASE_LO: base_lo
  ⟨0x40020, 0x0, 1, [⟨31, 12, .rw, 0x0, []⟩]⟩,
  -- LIN_INV_BASE_HI: base_hi
  ⟨0x40024, 0x0, 1, [⟨11, 0, .rw, 0x0, []⟩]⟩,
  -- LIN_INV_LEN: sectors
  ⟨0x40028, 0x0, 1, [⟨31, 0, .rw, 0x0, []⟩]⟩,
  -- LIN_INV_CTL: busy, go
  ⟨0x4002C, 0x0, 1, [⟨31, 31, .ro, 0x0, []⟩, ⟨0, 0, .wo, 0x0, []⟩]⟩,
  -- LIN_DISCARD_CNT: count
  ⟨0x4003C, 0x0, 1, [⟨31, 0, .rc, 0x0, []⟩]⟩]

/-- The registers of block 0x5_0000. -/
def regsMtl : List RegDesc := [
  -- MTL_GAP_CFG: interval
  ⟨0x50000, 0x0, 1, [⟨3, 0, .rw, 0x4, [(0x0, 0x9)]⟩]⟩,
  -- MTL_HEAT_CFG: hot_th, cold_th, decay_s
  ⟨0x50004, 0x0, 1, [⟨31, 16, .rw, 0x200, [(0x1, 0xFFFF)]⟩, ⟨15, 8, .rw, 0x8, []⟩, ⟨7, 0, .rw, 0x1E, [(0x1, 0xFF)]⟩]⟩,
  -- MTL_UPD_CFG: en, cap
  ⟨0x50008, 0x0, 1, [⟨31, 31, .rw, 0x1, []⟩, ⟨11, 0, .rw, 0x100, []⟩]⟩,
  -- MTL_UPD_STS: z
  ⟨0x5000C, 0x0, 1, [⟨24, 0, .ro, 0x0, []⟩]⟩,
  -- MTL_UPD_TGT: zt
  ⟨0x50010, 0x0, 1, [⟨24, 0, .ro, 0x0, []⟩]⟩,
  -- MTL_WL_CFG: spread
  ⟨0x50014, 0x0, 1, [⟨15, 0, .rw, 0x7D0, []⟩]⟩,
  -- MTL_WEAR_MIN: wear
  ⟨0x50018, 0x0, 1, [⟨23, 0, .ro, 0x0, []⟩]⟩,
  -- MTL_WEAR_MAX: wear
  ⟨0x5001C, 0x0, 1, [⟨23, 0, .ro, 0x0, []⟩]⟩,
  -- MTL_AVAIL: u
  ⟨0x50020, 0x0, 1, [⟨24, 0, .ro, 0x0, []⟩]⟩,
  -- MTL_FREE: f
  ⟨0x50024, 0x0, 1, [⟨24, 0, .ro, 0x0, []⟩]⟩,
  -- MTL_FLOOR: floor
  ⟨0x50028, 0x0, 1, [⟨15, 0, .ro, 0x0, []⟩]⟩,
  -- MTL_CAP: l_user
  ⟨0x5002C, 0x0, 1, [⟨24, 0, .ro, 0x0, []⟩]⟩,
  -- MTL_DEMOTED: count
  ⟨0x50030, 0x0, 1, [⟨24, 0, .ro, 0x0, []⟩]⟩,
  -- MTL_RETIRED: count
  ⟨0x50034, 0x0, 1, [⟨24, 0, .ro, 0x0, []⟩]⟩,
  -- MTL_SEAL_STS: sealed, floor_warn, hold_empty, res_wait, p_home
  ⟨0x50038, 0x0, 1, [⟨31, 31, .ro, 0x0, []⟩, ⟨30, 30, .ro, 0x0, []⟩, ⟨29, 29, .ro, 0x0, []⟩, ⟨28, 28, .ro, 0x0, []⟩, ⟨24, 0, .ro, 0x0, []⟩]⟩,
  -- MTL_SEAL_CNT: count
  ⟨0x5003C, 0x0, 1, [⟨31, 0, .rc, 0x0, []⟩]⟩,
  -- MTL_SEAL_LAST_LO: dpa_lo
  ⟨0x50040, 0x0, 1, [⟨31, 6, .ro, 0x0, []⟩]⟩,
  -- MTL_SEAL_LAST_HI: valid, dpa_hi
  ⟨0x50044, 0x0, 1, [⟨31, 31, .w1c, 0x0, []⟩, ⟨11, 0, .ro, 0x0, []⟩]⟩,
  -- MTL_MIG_STS: queued, active
  ⟨0x50048, 0x0, 1, [⟨31, 16, .ro, 0x0, []⟩, ⟨15, 0, .ro, 0x0, []⟩]⟩,
  -- MTL_MIG_ABORT_CNT: count
  ⟨0x5004C, 0x0, 1, [⟨31, 0, .rc, 0x0, []⟩]⟩,
  -- MTL_TC_MISS_CNT: count
  ⟨0x50050, 0x0, 1, [⟨31, 0, .rc, 0x0, []⟩]⟩]

/-- The registers of block 0x6_0000. -/
def regsMch : List RegDesc := [
  -- MCH_CH_CFG: trl, dies
  ⟨0x60000, 0x400, 40, [⟨19, 16, .ro, 0x0, []⟩, ⟨3, 0, .ro, 0x0, []⟩]⟩,
  -- MCH_CH_STS: trained, failed, pending, held, cause, train_temp, retrains
  ⟨0x60004, 0x400, 40, [⟨31, 31, .ro, 0x0, []⟩, ⟨30, 30, .ro, 0x0, []⟩, ⟨29, 29, .ro, 0x0, []⟩, ⟨28, 28, .ro, 0x0, []⟩, ⟨25, 24, .ro, 0x0, []⟩, ⟨23, 16, .ro, 0x0, []⟩, ⟨15, 0, .ro, 0x0, []⟩]⟩,
  -- MCH_CH_CTL: retrain
  ⟨0x60008, 0x400, 40, [⟨0, 0, .w1s, 0x0, []⟩]⟩,
  -- MCH_CA_ERR: count
  ⟨0x60010, 0x400, 40, [⟨31, 0, .rc, 0x0, []⟩]⟩,
  -- MCH_WCRC_ERR: count
  ⟨0x60014, 0x400, 40, [⟨31, 0, .rc, 0x0, []⟩]⟩,
  -- MCH_PRG_FAIL: count
  ⟨0x60018, 0x400, 40, [⟨31, 0, .rc, 0x0, []⟩]⟩,
  -- MCH_EYE: wr_eye, rd_eye
  ⟨0x60020, 0x400, 40, [⟨31, 16, .ro, 0x0, []⟩, ⟨15, 0, .ro, 0x0, []⟩]⟩,
  -- MCH_DIE_STS d=0: present, failed, pd, temp, prog_fail
  ⟨0x60040, 0x400, 40, [⟨31, 31, .ro, 0x0, []⟩, ⟨30, 30, .ro, 0x0, []⟩, ⟨29, 29, .ro, 0x0, []⟩, ⟨25, 16, .ro, 0x0, []⟩, ⟨15, 0, .ro, 0x0, []⟩]⟩,
  -- MCH_DIE_STS d=1: present, failed, pd, temp, prog_fail
  ⟨0x60044, 0x400, 40, [⟨31, 31, .ro, 0x0, []⟩, ⟨30, 30, .ro, 0x0, []⟩, ⟨29, 29, .ro, 0x0, []⟩, ⟨25, 16, .ro, 0x0, []⟩, ⟨15, 0, .ro, 0x0, []⟩]⟩,
  -- MCH_DIE_STS d=2: present, failed, pd, temp, prog_fail
  ⟨0x60048, 0x400, 40, [⟨31, 31, .ro, 0x0, []⟩, ⟨30, 30, .ro, 0x0, []⟩, ⟨29, 29, .ro, 0x0, []⟩, ⟨25, 16, .ro, 0x0, []⟩, ⟨15, 0, .ro, 0x0, []⟩]⟩,
  -- MCH_DIE_STS d=3: present, failed, pd, temp, prog_fail
  ⟨0x6004C, 0x400, 40, [⟨31, 31, .ro, 0x0, []⟩, ⟨30, 30, .ro, 0x0, []⟩, ⟨29, 29, .ro, 0x0, []⟩, ⟨25, 16, .ro, 0x0, []⟩, ⟨15, 0, .ro, 0x0, []⟩]⟩,
  -- MCH_DIE_STS d=4: present, failed, pd, temp, prog_fail
  ⟨0x60050, 0x400, 40, [⟨31, 31, .ro, 0x0, []⟩, ⟨30, 30, .ro, 0x0, []⟩, ⟨29, 29, .ro, 0x0, []⟩, ⟨25, 16, .ro, 0x0, []⟩, ⟨15, 0, .ro, 0x0, []⟩]⟩,
  -- MCH_DIE_STS d=5: present, failed, pd, temp, prog_fail
  ⟨0x60054, 0x400, 40, [⟨31, 31, .ro, 0x0, []⟩, ⟨30, 30, .ro, 0x0, []⟩, ⟨29, 29, .ro, 0x0, []⟩, ⟨25, 16, .ro, 0x0, []⟩, ⟨15, 0, .ro, 0x0, []⟩]⟩,
  -- MCH_DIE_STS d=6: present, failed, pd, temp, prog_fail
  ⟨0x60058, 0x400, 40, [⟨31, 31, .ro, 0x0, []⟩, ⟨30, 30, .ro, 0x0, []⟩, ⟨29, 29, .ro, 0x0, []⟩, ⟨25, 16, .ro, 0x0, []⟩, ⟨15, 0, .ro, 0x0, []⟩]⟩,
  -- MCH_DIE_STS d=7: present, failed, pd, temp, prog_fail
  ⟨0x6005C, 0x400, 40, [⟨31, 31, .ro, 0x0, []⟩, ⟨30, 30, .ro, 0x0, []⟩, ⟨29, 29, .ro, 0x0, []⟩, ⟨25, 16, .ro, 0x0, []⟩, ⟨15, 0, .ro, 0x0, []⟩]⟩,
  -- MCH_BRIDLE_RANK: host, raised, stream, wb, rbld, migr, fill, scrub
  ⟨0x6A000, 0x4, 4, [⟨23, 21, .ro, 0x7, []⟩, ⟨20, 18, .rw, 0x6, [(0x0, 0x6)]⟩, ⟨17, 15, .rw, 0x5, [(0x0, 0x6)]⟩, ⟨14, 12, .rw, 0x4, [(0x0, 0x6)]⟩, ⟨11, 9, .rw, 0x3, [(0x0, 0x6)]⟩, ⟨8, 6, .rw, 0x2, [(0x0, 0x6)]⟩, ⟨5, 3, .rw, 0x1, [(0x0, 0x6)]⟩, ⟨2, 0, .rw, 0x0, [(0x0, 0x6)]⟩]⟩,
  -- MCH_BRIDLE_CFG: rbld_share, int_share, load_cap
  ⟨0x6A010, 0x0, 1, [⟨23, 20, .rw, 0x8, [(0x1, 0xF)]⟩, ⟨19, 16, .rw, 0x2, [(0x1, 0x8)]⟩, ⟨7, 0, .rw, 0xC0, [(0x10, 0xF0)]⟩]⟩,
  -- MCH_FAIL_CFG: ecc_lim, vfail_lim
  ⟨0x6A014, 0x0, 1, [⟨23, 16, .rw, 0x10, [(0x1, 0xFF)]⟩, ⟨15, 0, .rw, 0x40, [(0x1, 0xFFFF)]⟩]⟩,
  -- MCH_TRANS_CNT: count
  ⟨0x6A018, 0x0, 1, [⟨31, 0, .rc, 0x0, []⟩]⟩,
  -- MCH_GRP_STS: width, state, fail_mask
  ⟨0x6A100, 0x4, 32, [⟨31, 28, .ro, 0x0, []⟩, ⟨27, 26, .ro, 0x0, []⟩, ⟨25, 16, .ro, 0x0, []⟩]⟩,
  -- MCH_GRP_RBLD: remain
  ⟨0x6A180, 0x4, 32, [⟨19, 0, .ro, 0x0, []⟩]⟩,
  -- MCH_RA_CNT: count
  ⟨0x6A200, 0x4, 4, [⟨31, 0, .rc, 0x0, []⟩]⟩,
  -- MCH_ROW_STS: peak, used
  ⟨0x6A220, 0x4, 4, [⟨24, 16, .ro, 0x0, []⟩, ⟨8, 0, .ro, 0x0, []⟩]⟩,
  -- MCH_DRF_CFG: spread_lim, scrub_days, resurvey_h, refresh_sym, mix_class, refresh_class
  ⟨0x6B000, 0x0, 1, [⟨31, 24, .rw, 0x28, [(0x10, 0x30)]⟩, ⟨23, 16, .rw, 0x7, [(0x0, 0x3C)]⟩, ⟨15, 8, .rw, 0x18, [(0x1, 0xA8)]⟩, ⟨5, 4, .rw, 0x0, [(0x0, 0x2)]⟩, ⟨3, 2, .rw, 0x3, [(0x1, 0x3)]⟩, ⟨1, 0, .rw, 0x3, []⟩]⟩,
  -- MCH_DRF_STS: done, running, remain
  ⟨0x6B004, 0x0, 1, [⟨31, 31, .ro, 0x0, []⟩, ⟨30, 30, .ro, 0x0, []⟩, ⟨24, 0, .ro, 0x0, []⟩]⟩,
  -- MCH_DRF_HIST: tracts
  ⟨0x6B040, 0x4, 16, [⟨24, 0, .ro, 0x0, []⟩]⟩,
  -- MCH_DEC_HEAVY_CNT: count
  ⟨0x6B010, 0x0, 1, [⟨31, 0, .rc, 0x0, []⟩]⟩,
  -- MCH_DEC_FB_CNT: count
  ⟨0x6B014, 0x0, 1, [⟨31, 0, .rc, 0x0, []⟩]⟩,
  -- MCH_REFRESH_CNT: count
  ⟨0x6B018, 0x0, 1, [⟨31, 0, .rc, 0x0, []⟩]⟩,
  -- MCH_SCRUB_STS: pct, passes
  ⟨0x6B01C, 0x0, 1, [⟨31, 24, .ro, 0x0, []⟩, ⟨15, 0, .ro, 0x0, []⟩]⟩,
  -- MCH_POISON_LAST_LO: dpa_lo
  ⟨0x6B020, 0x0, 1, [⟨31, 6, .ro, 0x0, []⟩]⟩,
  -- MCH_POISON_LAST_HI: valid, origin, dpa_hi
  ⟨0x6B024, 0x0, 1, [⟨31, 31, .w1c, 0x0, []⟩, ⟨19, 16, .ro, 0x0, []⟩, ⟨11, 0, .ro, 0x0, []⟩]⟩,
  -- MCH_POISON_CNT: count
  ⟨0x6B028, 0x0, 1, [⟨31, 0, .rc, 0x0, []⟩]⟩]

/-- The registers of block 0x7_0000. -/
def regsStr : List RegDesc := [
  -- STR_CFG: ch_lanes, desc_lim
  ⟨0x70000, 0x0, 1, [⟨11, 8, .rw, 0x8, [(0x1, 0x8)]⟩, ⟨4, 0, .rw, 0x10, [(0x8, 0x14)]⟩]⟩,
  -- STR_STS: hist_mib, dicts, lanes, snaps, chans
  ⟨0x70004, 0x0, 1, [⟨31, 26, .ro, 0x0, []⟩, ⟨25, 21, .ro, 0x0, []⟩, ⟨20, 15, .ro, 0x0, []⟩, ⟨14, 11, .ro, 0x0, []⟩, ⟨6, 0, .ro, 0x0, []⟩]⟩,
  -- STR_DONE_LO: done
  ⟨0x70010, 0x0, 1, [⟨31, 0, .ro, 0x0, []⟩]⟩,
  -- STR_DONE_HI: done
  ⟨0x70014, 0x0, 1, [⟨31, 0, .ro, 0x0, []⟩]⟩,
  -- STR_SEL: chan
  ⟨0x70020, 0x0, 1, [⟨5, 0, .rw, 0x0, []⟩]⟩,
  -- STR_SEL_OUT_LO: bytes
  ⟨0x70028, 0x0, 1, [⟨31, 0, .ro, 0x0, []⟩]⟩,
  -- STR_SEL_OUT_HI: bytes
  ⟨0x7002C, 0x0, 1, [⟨31, 0, .ro, 0x0, []⟩]⟩,
  -- STR_SEL_FAULT_LO: addr
  ⟨0x70030, 0x0, 1, [⟨31, 0, .ro, 0x0, []⟩]⟩,
  -- STR_SEL_FAULT_HI: addr
  ⟨0x70034, 0x0, 1, [⟨31, 0, .ro, 0x0, []⟩]⟩,
  -- STR_FAIL_CNT: count
  ⟨0x70038, 0x0, 1, [⟨31, 0, .rc, 0x0, []⟩]⟩,
  -- STR_CH_STS: state, status, kind, xform, key_index
  ⟨0x70100, 0x10, 64, [⟨31, 29, .ro, 0x0, []⟩, ⟨28, 24, .ro, 0x0, []⟩, ⟨23, 22, .ro, 0x0, []⟩, ⟨21, 20, .ro, 0x0, []⟩, ⟨11, 0, .ro, 0x0, []⟩]⟩,
  -- STR_CH_HANDLE: handle
  ⟨0x70104, 0x10, 64, [⟨31, 0, .ro, 0x0, []⟩]⟩,
  -- STR_CH_PROG: progress
  ⟨0x70108, 0x10, 64, [⟨31, 0, .ro, 0x0, []⟩]⟩,
  -- STR_CH_TAG: tag
  ⟨0x7010C, 0x10, 64, [⟨31, 0, .ro, 0x0, []⟩]⟩,
  -- STR_DICT_ID: id
  ⟨0x70600, 0x8, 16, [⟨31, 0, .ro, 0x0, []⟩]⟩,
  -- STR_DICT_SZ: valid, head_b, size
  ⟨0x70604, 0x8, 16, [⟨31, 31, .ro, 0x0, []⟩, ⟨30, 30, .ro, 0x0, []⟩, ⟨16, 0, .ro, 0x0, []⟩]⟩]

/-- The registers of block 0x8_0000. -/
def regsPsv : List RegDesc := [
  -- PSV_STS: cause, margin, keel_ok, pwr_req, input_ok, last_off, step
  ⟨0x80000, 0x0, 1, [⟨27, 24, .ro, 0x0, []⟩, ⟨19, 19, .ro, 0x0, []⟩, ⟨18, 18, .ro, 0x0, []⟩, ⟨17, 17, .ro, 0x0, []⟩, ⟨16, 16, .ro, 0x0, []⟩, ⟨11, 8, .ro, 0x0, []⟩, ⟨3, 0, .ro, 0x0, []⟩]⟩,
  -- PSV_VIN: vin
  ⟨0x80004, 0x0, 1, [⟨15, 0, .ro, 0x0, []⟩]⟩,
  -- PSV_HOLD: e_avail, vh
  ⟨0x80008, 0x0, 1, [⟨31, 16, .ro, 0x0, []⟩, ⟨15, 0, .ro, 0x0, []⟩]⟩,
  -- PSV_HOLD_CAP: valid, c
  ⟨0x8000C, 0x0, 1, [⟨31, 31, .ro, 0x0, []⟩, ⟨23, 0, .ro, 0x0, []⟩]⟩,
  -- PSV_ARM_CFG: disarm_pct, arm_pct, e_rip
  ⟨0x80010, 0x0, 1, [⟨23, 16, .ro, 0x0, []⟩, ⟨15, 8, .ro, 0x0, []⟩, ⟨7, 0, .ro, 0x0, []⟩]⟩,
  -- PSV_FAULT: drive, pulse, pin, ext_level, ext_pulse, ext_react
  ⟨0x80014, 0x0, 1, [⟨31, 31, .ro, 0x0, []⟩, ⟨30, 30, .ro, 0x0, []⟩, ⟨29, 29, .ro, 0x1, []⟩, ⟨28, 28, .w1c, 0x0, []⟩, ⟨27, 27, .w1c, 0x0, []⟩, ⟨1, 0, .ro, 0x0, []⟩]⟩,
  -- PSV_MARGIN: act, pct, dir, chan
  ⟨0x80018, 0x0, 1, [⟨31, 31, .ro, 0x0, []⟩, ⟨11, 8, .rw, 0x0, [(0x0, 0xA)]⟩, ⟨5, 4, .rw, 0x0, [(0x0, 0x2)]⟩, ⟨3, 0, .rw, 0x0, []⟩]⟩,
  -- PSV_RIP_LAST: energy, dur
  ⟨0x80020, 0x0, 1, [⟨27, 16, .ro, 0x0, []⟩, ⟨15, 0, .ro, 0x0, []⟩]⟩,
  -- PSV_RIP_CNT: incomplete, total
  ⟨0x80024, 0x0, 1, [⟨31, 16, .ro, 0x0, []⟩, ⟨15, 0, .ro, 0x0, []⟩]⟩,
  -- PSV_REPLAY_STS: restored, repaired, incomplete, lines
  ⟨0x80028, 0x0, 1, [⟨31, 31, .ro, 0x0, []⟩, ⟨30, 30, .ro, 0x0, []⟩, ⟨29, 29, .ro, 0x0, []⟩, ⟨24, 0, .ro, 0x0, []⟩]⟩,
  -- PSV_SEQ_CFG: used, after, grp, role, retries, react, pg_use, filt, ramp_ms
  ⟨0x80100, 0x10, 16, [⟨31, 31, .ro, 0x0, []⟩, ⟨27, 24, .ro, 0x0, []⟩, ⟨23, 22, .ro, 0x0, []⟩, ⟨21, 20, .ro, 0x0, []⟩, ⟨19, 18, .ro, 0x0, []⟩, ⟨17, 16, .ro, 0x0, []⟩, ⟨15, 15, .ro, 0x0, []⟩, ⟨14, 12, .ro, 0x0, []⟩, ⟨7, 0, .ro, 0x0, []⟩]⟩,
  -- PSV_SEQ_THR: ov, uv
  ⟨0x80104, 0x10, 16, [⟨27, 16, .ro, 0x0, []⟩, ⟨11, 0, .ro, 0x0, []⟩]⟩,
  -- PSV_SEQ_STS: en, valid, pg, last, tries, sns
  ⟨0x80108, 0x10, 16, [⟨31, 31, .ro, 0x0, []⟩, ⟨30, 30, .ro, 0x0, []⟩, ⟨29, 29, .ro, 0x0, []⟩, ⟨26, 24, .ro, 0x0, []⟩, ⟨23, 22, .ro, 0x0, []⟩, ⟨11, 0, .ro, 0x0, []⟩]⟩]

/-- The registers of block 0x9_0000. -/
def regsThk : List RegDesc := [
  -- THK_STS: warn, jthr, tshut_last, few, good, hj
  ⟨0x90000, 0x0, 1, [⟨31, 31, .ro, 0x0, []⟩, ⟨30, 30, .ro, 0x0, []⟩, ⟨29, 29, .w1c, 0x0, []⟩, ⟨28, 28, .ro, 0x0, []⟩, ⟨27, 24, .ro, 0xE, []⟩, ⟨17, 9, .ro, 0x0, []⟩]⟩,
  -- THK_TJ: peak, tj
  ⟨0x90004, 0x0, 1, [⟨25, 16, .ro, 0x0, []⟩, ⟨9, 0, .ro, 0x0, []⟩]⟩,
  -- THK_QUAD: no_good, tm, hm
  ⟨0x90010, 0x4, 4, [⟨31, 31, .ro, 0x0, []⟩, ⟨25, 16, .ro, 0x0, []⟩, ⟨8, 0, .ro, 0x0, []⟩]⟩,
  -- THK_STALE_CNT: count
  ⟨0x90020, 0x0, 1, [⟨31, 0, .rc, 0x0, []⟩]⟩,
  -- THK_SNS: bad, valid, code
  ⟨0x90100, 0x4, 14, [⟨31, 31, .ro, 0x0, []⟩, ⟨30, 30, .ro, 0x0, []⟩, ⟨9, 0, .ro, 0x0, []⟩]⟩,
  -- THK_RD: fault, valid, code
  ⟨0x90140, 0x4, 2, [⟨31, 31, .ro, 0x0, []⟩, ⟨30, 30, .ro, 0x0, []⟩, ⟨9, 0, .ro, 0x0, []⟩]⟩]

/-- The registers of block 0xA_0000. -/
def regsKel : List RegDesc := [
  -- KEL_STS: ready, busy, vfail
  ⟨0xA0000, 0x0, 1, [⟨31, 31, .ro, 0x0, []⟩, ⟨30, 30, .ro, 0x0, []⟩, ⟨15, 0, .ro, 0x0, []⟩]⟩,
  -- KEL_OPMIN: opmin
  ⟨0xA0004, 0x0, 1, [⟨31, 0, .ro, 0x0, []⟩]⟩,
  -- KEL_OPSEC: opsec
  ⟨0xA0008, 0x0, 1, [⟨5, 0, .ro, 0x0, []⟩]⟩,
  -- KEL_PCYC: pcyc
  ⟨0xA000C, 0x0, 1, [⟨31, 0, .ro, 0x0, []⟩]⟩,
  -- KEL_DIRTY: dirty
  ⟨0xA0010, 0x0, 1, [⟨31, 0, .ro, 0x0, []⟩]⟩,
  -- KEL_UWL_STS: lost, entries
  ⟨0xA0020, 0x0, 1, [⟨31, 16, .ro, 0x0, []⟩, ⟨13, 0, .ro, 0x0, []⟩]⟩,
  -- EVR_NEWEST: number
  ⟨0xA0100, 0x0, 1, [⟨31, 0, .ro, 0xFFFFFFFF, []⟩]⟩,
  -- EVR_OLDEST: number
  ⟨0xA0104, 0x0, 1, [⟨31, 0, .ro, 0x100, []⟩]⟩,
  -- EVR_STS: nose_full, frozen, buffered, lost
  ⟨0xA0108, 0x0, 1, [⟨31, 31, .ro, 0x0, []⟩, ⟨30, 30, .ro, 0x0, []⟩, ⟨26, 16, .ro, 0x0, []⟩, ⟨15, 0, .ro, 0x0, []⟩]⟩,
  -- EVR_CFG: frz_s, rate
  ⟨0xA010C, 0x0, 1, [⟨15, 8, .rw, 0xA, [(0x1, 0xFF)]⟩, ⟨3, 0, .rw, 0x4, [(0x1, 0xF)]⟩]⟩]

/-- The registers of block 0xB_0000. -/
def regsPmc : List RegDesc := [
  -- PMC_CNT_LO: cnt_lo
  ⟨0xB0000, 0x8, 64, [⟨31, 0, .ro, 0x0, []⟩]⟩,
  -- PMC_CNT_HI: ovf, cnt_hi
  ⟨0xB0004, 0x8, 64, [⟨31, 31, .ro, 0x0, []⟩, ⟨15, 0, .ro, 0x0, []⟩]⟩,
  -- PMC_SNAP_LO: snap
  ⟨0xB0200, 0x8, 64, [⟨31, 0, .ro, 0x0, []⟩]⟩,
  -- PMC_SNAP_HI: snap
  ⟨0xB0204, 0x8, 64, [⟨31, 0, .ro, 0x0, []⟩]⟩,
  -- PMC_SNAP_TIME_LO: time
  ⟨0xB0400, 0x0, 1, [⟨31, 0, .ro, 0x0, []⟩]⟩,
  -- PMC_SNAP_TIME_HI: time
  ⟨0xB0404, 0x0, 1, [⟨31, 0, .ro, 0x0, []⟩]⟩,
  -- PMC_NOW_LO: now
  ⟨0xB0408, 0x0, 1, [⟨31, 0, .ro, 0x0, []⟩]⟩,
  -- PMC_NOW_HI: now
  ⟨0xB040C, 0x0, 1, [⟨31, 0, .ro, 0x0, []⟩]⟩,
  -- PMC_HIST_LO: bin_lo
  ⟨0xB0800, 0x8, 256, [⟨31, 0, .ro, 0x0, []⟩]⟩,
  -- PMC_HIST_HI: wrap, bin_hi
  ⟨0xB0804, 0x8, 256, [⟨31, 31, .ro, 0x0, []⟩, ⟨7, 0, .ro, 0x0, []⟩]⟩,
  -- PMC_HSNAP_LO: snap
  ⟨0xB1000, 0x8, 256, [⟨31, 0, .ro, 0x0, []⟩]⟩,
  -- PMC_HSNAP_HI: snap
  ⟨0xB1004, 0x8, 256, [⟨31, 0, .ro, 0x0, []⟩]⟩,
  -- PMC_HSNAP_TIME_LO: time
  ⟨0xB1800, 0x0, 1, [⟨31, 0, .ro, 0x0, []⟩]⟩,
  -- PMC_HSNAP_TIME_HI: time
  ⟨0xB1804, 0x0, 1, [⟨31, 0, .ro, 0x0, []⟩]⟩,
  -- PMC_CTL: user_en, hsnap, snap
  ⟨0xB8000, 0x0, 1, [⟨31, 31, .rw, 0x0, []⟩, ⟨1, 1, .wo, 0x0, []⟩, ⟨0, 0, .wo, 0x0, []⟩]⟩,
  -- PMC_CNT_CFG: en, clr, ovf, owner_b, event
  ⟨0xB8100, 0x4, 64, [⟨31, 31, .rw, 0x0, []⟩, ⟨30, 30, .wo, 0x0, []⟩, ⟨29, 29, .w1c, 0x0, []⟩, ⟨28, 28, .ro, 0x0, []⟩, ⟨9, 0, .rw, 0x0, [(0x0, 0x1), (0x40, 0x48), (0x60, 0x68), (0x80, 0x8C), (0xC0, 0xC6), (0x100, 0x10C), (0x140, 0x14C), (0x180, 0x18C), (0x1C0, 0x1CC), (0x200, 0x205), (0x240, 0x244), (0x280, 0x283), (0x2C0, 0x2C2)]⟩]⟩,
  -- PMC_HIST_CFG: en, clr, head, src
  ⟨0xB8200, 0x4, 8, [⟨31, 31, .rw, 0x0, []⟩, ⟨30, 30, .wo, 0x0, []⟩, ⟨4, 4, .rw, 0x0, []⟩, ⟨3, 0, .rw, 0x0, [(0x0, 0x5)]⟩]⟩]

/-- The registers of block 0xC_0000. -/
def regsBst : List RegDesc := [
  -- BST_CFG: period_s
  ⟨0xC0000, 0x0, 1, [⟨15, 0, .rw, 0x258, [(0x0, 0x0), (0x3C, 0xFFFF)]⟩]⟩,
  -- BST_STS: queued, last_fault, faults
  ⟨0xC0004, 0x0, 1, [⟨31, 24, .ro, 0x0, []⟩, ⟨23, 12, .ro, 0x0, []⟩, ⟨11, 0, .ro, 0x0, []⟩]⟩,
  -- BST_DBG_STS: unlocked, session, halt_b, halt_a, busy, err, fails
  ⟨0xC0010, 0x0, 1, [⟨31, 31, .ro, 0x0, []⟩, ⟨30, 30, .ro, 0x0, []⟩, ⟨29, 29, .ro, 0x0, []⟩, ⟨28, 28, .ro, 0x0, []⟩, ⟨27, 27, .ro, 0x0, []⟩, ⟨7, 4, .ro, 0x0, []⟩, ⟨3, 0, .ro, 0x0, []⟩]⟩]

/-- The registers of block 0xD_0000. -/
def regsIcu : List RegDesc := [
  -- ICU_GCTL: cfg_lock, gen_b, gen_a
  ⟨0xD0000, 0x0, 1, [⟨31, 31, .w1s, 0x0, []⟩, ⟨1, 1, .rw, 0x0, []⟩, ⟨0, 0, .rw, 0x0, []⟩]⟩,
  -- ICU_STS: eoi_err, sem_err
  ⟨0xD0004, 0x0, 1, [⟨31, 31, .w1c, 0x0, []⟩, ⟨30, 30, .w1c, 0x0, []⟩]⟩,
  -- ICU_PEND: pend
  ⟨0xD0010, 0x4, 4, [⟨31, 0, .w1c, 0x0, []⟩]⟩,
  -- ICU_SWI: swi
  ⟨0xD0020, 0x0, 1, [⟨15, 0, .w1s, 0x0, []⟩]⟩,
  -- ICU_ACT: depth, prio, src
  ⟨0xD0040, 0x4, 2, [⟨20, 16, .ro, 0x0, []⟩, ⟨15, 12, .ro, 0x0, []⟩, ⟨6, 0, .ro, 0x0, []⟩]⟩,
  -- ICU_EOI: src
  ⟨0xD0048, 0x4, 2, [⟨6, 0, .wo, 0x0, []⟩]⟩,
  -- ICU_WDOG: key, pet
  ⟨0xD0050, 0x4, 2, [⟨31, 16, .wo, 0x0, []⟩, ⟨0, 0, .wo, 0x0, []⟩]⟩,
  -- ICU_SRC_CFG: again, target, prio, en
  ⟨0xD0100, 0x4, 128, [⟨31, 31, .w1c, 0x0, []⟩, ⟨8, 8, .rwl, 0x0, []⟩, ⟨7, 4, .rwl, 0x0, []⟩, ⟨0, 0, .rw, 0x0, []⟩]⟩,
  -- ICU_SEM: granted, abandoned, release, owner
  ⟨0xD0400, 0x4, 64, [⟨31, 31, .rc, 0x0, []⟩, ⟨30, 30, .rc, 0x0, []⟩, ⟨8, 8, .wo, 0x0, []⟩, ⟨1, 0, .ro, 0x0, []⟩]⟩]

/-- The registers of the block that holds an offset. -/
def regsOfBlock (b : Nat) : List RegDesc :=
  match b with
  | 0 => regsGlb
  | 1 => regsMbx
  | 2 => regsTth
  | 3 => regsSec
  | 4 => regsLin
  | 5 => regsMtl
  | 6 => regsMch
  | 7 => regsStr
  | 8 => regsPsv
  | 9 => regsThk
  | 10 => regsKel
  | 11 => regsPmc
  | 12 => regsBst
  | 13 => regsIcu
  | _ => []

/-- Does a descriptor cover this offset? -/
def RegDesc.covers (r : RegDesc) (off : Nat) : Bool :=
  if r.stride = 0 then off == r.base
  else decide (r.base ≤ off) && (off - r.base) % r.stride == 0 && decide ((off - r.base) / r.stride < r.count)

/-- The fields of the register at an offset; a reserved offset has none (R10). -/
def fieldsAt (off : Nat) : List FieldDesc :=
  match (regsOfBlock (off / 0x10000)).find? fun r => r.covers off with
  | some r => r.fields
  | none => []

/-- The Reset column as one word (R9). -/
def resetWord (off : Nat) : BitVec 32 :=
  BitVec.ofNat 32 ((fieldsAt off).foldl (fun acc f => acc + f.reset * 2 ^ f.lo) 0)

end Sys2Proof.Machine
end

