-- ==== Sys2Proof/Config.lean ====
section
/-!
DEFINITION. What the manual leaves open or takes from a published standard, as constants with no body: nothing
can evaluate them, so a statement holds whatever they are.
-/
namespace Sys2Proof.Config

/-- A fresh free value: the n-th drawn. Applied to `Dev.fresh` (log entry 3). -/
opaque freeValue : Nat → Nat
/-- The random bit generator (R235): the n-th number drawn. -/
opaque random : Nat → Nat
/-- What a media page that was never programmed, or whose program was abandoned, returns (R123, R124): die, page
address, slot, and how many free values had been drawn. -/
opaque cells : Nat → Nat → Nat → Nat → BitVec 640
/-- The 64 bytes of the fixed PRBS7 pattern of TRAIN_RD (R123): its seed and order are not given. -/
opaque prbs7 : List Nat
/-- AES-256 (FIPS 197): a permutation of 128-bit blocks for each key. -/
opaque aes : BitVec 256 → (BitVec 128 ≃ BitVec 128)
/-- GHASH-style universal hash over GF(2^128), key and message bytes: used by the tag of R242. -/
opaque ghash : BitVec 128 → List Nat → BitVec 128
/-- CMAC with AES-256 (R232, R254). -/
opaque cmac : BitVec 256 → List Nat → BitVec 128
/-- AES key unwrap of a blob (R233): wrapping key and ciphertext to plaintext, none when its integrity check fails. -/
opaque kwUnwrap : BitVec 256 → List Nat → Option (List Nat)
/-- AES key wrap (R233). -/
opaque kwWrap : BitVec 256 → List Nat → List Nat
/-- SHA-384 (R326). -/
opaque sha384 : List Nat → BitVec 384
/-- ECDSA P-384 verification under the public key whose SHA-384 hash is given: message bytes, r, s (R327, R412). -/
opaque ecdsa : BitVec 384 → List Nat → BitVec 384 → BitVec 384 → Bool
/-- The device root key in fuses, and the debug root that replaces it (R232, R257). -/
opaque rootKey : BitVec 256
opaque debugRoot : BitVec 256
/-- What a decompression lane makes of one descriptor's input (R271; RFC 1951, LZ4, RFC 8878): format, registered
dictionaries (ID, bytes), output capacity, input; answers the output and a code of R277: 0, or 7 to 10. -/
opaque expand : Nat → List (Nat × List Nat) → Nat → List Nat → List Nat × Nat
/-- The history buffer a descriptor needs, in 64 KiB units (R273): address of the descriptor's input, format. -/
opaque window : Nat → Nat → Nat
/-- An implementation's boot ROM version (R328). -/
opaque bootRom : Nat
/-- The version entries of Get MCTP Version Support for a message type (R371; DSP0236): their bytes. -/
opaque mctpVersions : Nat → List Nat
/-- The CXL mailbox, where the CXL specification or an implementation sets the bytes (R308): UUID and 80 bytes of data of an
event record (kind, argument), a firmware revision string, the effect word of an opcode in the Command Effects Log, the exponent of
the largest message, and the error source of a poison origin. -/
opaque eventUuid : Nat → List Nat
opaque eventData : Nat → Nat → List Nat
opaque fwRevision : Nat → List Nat
opaque celEffect : Nat → Nat
opaque maxMessage : Nat
opaque poisonSource : Nat → Nat

end Sys2Proof.Config
end

