-- ==== Sys2Proof/Machine/StateHost.lean ====
section
/-!
DEFINITION. State of the host ports (spec/02_host_ports.md) and of Tether (spec/04_tether.md), and the outputs
of the block toward hosts, dies and pins.
-/
namespace Sys2Proof.Machine

/-- Port modes (R34). -/
inductive PortMode where | single | bonded | dualHead
  deriving DecidableEq, Repr

/-- What the block puts out. Newest first in `Dev.out`. -/
inductive Out where
  /-- S2M DRS MemData with its Poison bit (R32, R48) and DevLoad (R46). -/
  | memData (h : Head) (tag : BitVec 16) (data : LineData) (poison : Bool) (devLoad : Nat)
  /-- S2M NDR Cmp with DevLoad. -/
  | cmp (h : Head) (tag : BitVec 16) (devLoad : Nat)
  /-- The completion the CXL specification prescribes for an unsupported request or an unmapped access. -/
  | unsupported (h : Head) (tag : BitVec 16) (devLoad : Nat)
  /-- A credit (R45). -/
  | credit (h : Head) (rwd : Bool)
  /-- A posted write: address and bytes, and its Relaxed Ordering and No Snoop attributes, which stream output sets (R60, R274). -/
  | hostWrite (h : Head) (addr : Nat) (bytes : List Nat) (relaxed : Bool := false) (noSnoop : Bool := false)
  /-- A non-posted read: address and length; length 0 is the zero-length confirmation (R60). -/
  | hostRead (h : Head) (addr : Nat) (len : Nat) (tag : Nat)
  /-- An MSI-X message: vector, address and data of its table entry (R323). -/
  | msix (h : Head) (vec : Nat) (addr : Nat) (data : Nat)
  /-- A frame the controller put on CA, and whether the die took it (R121). -/
  | frame (m : Nat) (op : Nat) (taken : Bool)
  /-- Bytes a die returned on DQ. -/
  | dieData (m : Nat) (bytes : List Nat)
  /-- ALERT_N pulsed low by a die (R133). -/
  | alert (m : Nat)
  /-- A Tether output pin (R115). -/
  | gpio (pin : Nat) (high : Bool)
  /-- FAULT_N driven: pulse or level (R336). -/
  | faultN (level : Bool) (low : Bool)
  /-- WAKE_N of a head (R360). -/
  | wakeN (h : Head) (low : Bool)
  /-- Supply enable of a sequencer channel (R333). -/
  | seqEn (ch : Nat) (on : Bool)
  /-- Margin code of a channel (R338). -/
  | margin (ch : Nat) (dir pct : Nat)
  /-- A PTM Request (R102). -/
  | ptmRequest (h : Head)
  /-- GPF phase 2 complete (R50). -/
  | gpfDone (h : Head)
  /-- A DOE response: protocol and payload (R29, R53, R328). -/
  | doe (h : Head) (k : DoeKind) (payload : List Nat)
  /-- A CXL mailbox response: return code and payload bytes (R308). -/
  | mailbox (h : Head) (code : Nat) (payload : List Nat)
  /-- An SMBus or MCTP response (R371). -/
  | smbus (payload : List Nat)
  /-- Bits captured from the Forax port's data register (R410). -/
  | tdo (width : Nat) (value : Nat)
  /-- An uncorrectable AER error of a kind the PCIe specification assigns (R61). -/
  | aer (h : Head) (why : OutEnd)
  deriving DecidableEq, Repr

/-- An HDM decoder (R39). -/
structure Decoder where
  base : Nat := 0
  size : Nat := 0
  skip : Nat := 0
  /-- First DPA the decoder maps. -/
  dpa : Nat := 0
  committed : Bool := false
  /-- Commit Error. -/
  err : Bool := false
  lock : Bool := false
  /-- Interleave ways 1, 2, 4 or 8, granularity in bytes, and this head's position (R29, R35). -/
  ways : Nat := 1
  gran : Nat := 256
  pos : Nat := 0
  deriving DecidableEq, Repr

/-- A CXL event record (R49): kind of event, DPA or argument. -/
inductive EvKind where
  | erasures | poison | mediaFailed | groupLost | floor | sealed | sealLifted | temperature | shutdown
  | dirtyShutdown | portLost | failover | windowRefused | discardedWrite | sealedWrite | throttle | other
  /-- A link below 8.0 GT/s (R31). -/
  | linkSlow
  /-- The vendor-specific record that names a group beside a failure's media record (R49). -/
  | groupNamed
  /-- Staged bytes of a partial write discarded (R72), and a line made poison inside the device by a failed tag check (R242). -/
  | poisonWrite | poisonTag
  /-- A fault that the single-fault guarantee does not cover (R26). -/
  | uncovered
  deriving DecidableEq, Repr

/-- One record of a head's event log. -/
structure EvRec where
  handle : Nat
  kind : EvKind
  arg : Nat
  time : Nat
  deriving DecidableEq, Repr

/-- One of a head's four logs: at most 64 records, oldest first (R49). -/
structure EvLog where
  recs : List EvRec := []
  overflow : Nat := 0
  /-- Tether times of the first and last discarded record since the overflow was cleared. -/
  overFirst : Nat := 0
  overLast : Nat := 0
  nextHandle : Nat := 1
  deriving DecidableEq, Repr

/-- One head (spec/02). -/
structure HeadState where
  linkUp : Bool := false
  /-- LNK_PORT_STSn encodings. -/
  rate : Nat := 0
  width : Nat := 0
  /-- The width trained, which L0p may reduce. -/
  fullWidth : Nat := 0
  flit256 : Bool := false
  cxlMem : Bool := false
  /-- 0 L0, 1 L0p, 2 L1.1, 3 L1.2, 4 down. -/
  lstate : Nat := 4
  /-- 0 D0, 3 D3hot. -/
  dstate : Nat := 0
  d3cold : Bool := false
  /-- Reset since port_lost was set (R36); the head has seen a bonded decoder pair that breaks R35. -/
  resetSince : Bool := false
  pairNoted : Bool := false
  /-- PERST_N deasserted. -/
  perstHigh : Bool := false
  /-- The controller drives WAKE_N low (R360). -/
  wakeLow : Bool := false
  ptmValid : Bool := false
  ideOn : Bool := false
  /-- Streams other than the CXL stream that are in the secure state: 1 the PCIe link stream, 2 to 5 the selective streams (R29, R52). -/
  ideSecure : List Nat := []
  /-- IDE streams with a key set: stream number times 2 plus key set (R52). -/
  ideKeys : List Nat := []
  /-- DOE has an open Secured SPDM session (R52). -/
  doeOpen : Bool := false
  decoders : Tbl Decoder := []
  info : EvLog := {}
  warn : EvLog := {}
  fail : EvLog := {}
  fatal : EvLog := {}
  /-- CXL mailbox: event interrupt policy, timestamp offset, alert configuration, shutdown state (R308). -/
  evPolicy : Nat := 0
  tsSet : Bool := false
  tsOffset : Int := 0
  alertCfg : Nat := 0
  shutdownState : Nat := 0
  /-- Recent poison origins of the head: DPA, origin (R308). -/
  poisonList : List (Nat × Nat) := []
  poisonMore : Bool := false
  /-- Windows whose lock awaits the conventional resets of the heads they name and has seen this head's (LNK_TWIN_CTLn.lock). -/
  lockSeen : List Nat := []
  /-- The port was lost in single or dual-head mode, and has not trained since (R26). -/
  lost : Bool := false
  /-- PCIe Completion Timeout in ns and its disable in Device Control 2 (R61): 50 ms and enabled after reset. -/
  cplTimeout : Nat := 50000000
  cplOff : Bool := false
  /-- MSI-X function mask and enable. -/
  funcMask : Bool := false
  msixOn : Bool := true
  /-- Credits outstanding: Req, RwD (R45). -/
  reqOut : Nat := 0
  rwdOut : Nat := 0
  /-- Requests accepted and not yet answered. -/
  inFlight : Nat := 0
  deriving DecidableEq, Repr

/-- Time source (TTH_STS.src). -/
inductive TimeSrc where | free | acquiring | locked | holdover
  deriving DecidableEq, Repr

/-- Tether (R98 to R103) and the schedule of a frame (R104 to R110). -/
structure Tether where
  /-- The 64-bit count of nanoseconds. -/
  now : Nat := 0
  /-- 32-bit fractional accumulator (R98). -/
  acc : Nat := 0
  /-- 6-bit accumulator of the always-on domain (R100). -/
  acc64 : Nat := 0
  /-- The fast clocks are stopped (R100). -/
  slow : Bool := true
  cold : Bool := false
  src : TimeSrc := .free
  offset : Int := 0
  /-- The last offsets, newest first, at most eight (R102). -/
  offsets : List Int := []
  lastPtm : Nat := 0
  /-- When the last PTM Request was issued. -/
  ptmReq : Nat := 0
  lastSave : Nat := 0
  /-- TTH_RATE: units of 2^-32 (R98). -/
  rate : Int := 0
  /-- Duty of quadrants 0 to 3 in force (R108). -/
  duty : Tbl Nat := []
  /-- Duty that Drogue has set, in force from the next frame boundary. -/
  dutyNext : Tbl Nat := []
  /-- Frames and test windows whose start FRAME_START and TEST_WINDOW_OPEN have dealt with: number of the last, plus 1 (R108, R109). -/
  frameDone : Nat := 0
  winDone : Nat := 0
  /-- The same for the other periodic rows: 1 phases, 2 arming evaluations, 3 operating seconds, 4 rate-limit seconds, 5 unit windows, 6 rounds,
  7 always-on temperatures, 8 heat periods, 9 zone targets, 100 and up the beats of a channel. -/
  ticks : Tbl Nat := []
  /-- The phase schedule is in force (R22). -/
  schedule : Bool := false
  /-- Test windows (R109, R110). -/
  twOpen : Bool := false
  twIntr : Bool := false
  twChan : Nat := 0
  twCount : Nat := 0
  twFirst : Bool := true
  twEnd : Nat := 0
  deriving DecidableEq, Repr

/-- A launch slot's hidden state: its due time in Tether (R112); the rest is in its registers. -/
structure Launch where
  due : Int := 0
  deriving DecidableEq, Repr

/-- A GPIO pin (R115, R347, R360): its role as the board configuration block encodes it: 0 unused, 1 Tether output, 2 wake on a
falling edge, 3 wake on a rising edge, 4 and 5 margin bits, 6 general input. -/
structure Gpio where
  role : Nat := 0
  high : Bool := false
  /-- Tether time at which a 1 µs pulse ends. -/
  pulseEnd : Option Nat := none
  deriving DecidableEq, Repr

end Sys2Proof.Machine
end

