-- ==== Sys2Proof/Machine/StateMedia.lean ====
section
/-!
DEFINITION. State of the media side: dies and channels (spec/05_media_bus.md), stripe groups and open rows
(spec/06_stripes_phases.md), drift and poison (spec/07_line_integrity_drift.md), tracts (spec/08_tracts.md).
-/
namespace Sys2Proof.Machine

/-- A media page: eight 80-byte line slots by slot number, and what its program wrote beside them (R125). -/
structure Page where
  programmed : Bool := false
  /-- A program of the page was abandoned: its content is undefined (R123). -/
  undef : Bool := false
  /-- Programmed in SLC mode: the reader must state the same mode (R122). -/
  slc : Bool := false
  slots : Tbl MediaLine := []
  /-- Temperature code at program time. -/
  tcode : Nat := 0
  deriving DecidableEq, Repr

/-- An entry of a die's program buffer (R126). -/
structure BufEntry where
  pa : Nat
  data : List MediaLine
  valid : Bool
  deriving DecidableEq, Repr

/-- A program running or queued in a die (R127). -/
structure Prog where
  buf : Bool
  last : Nat
  mode : ProgMode
  start : Nat
  deriving DecidableEq, Repr

/-- One N512 die, as it behaves at its pins (R120 to R133). -/
structure Die where
  pages : Tbl Page := []
  /-- Program buffers: entry e of buffer b at 16 b + e. -/
  buf : Tbl (Option BufEntry) := []
  running : Option Prog := none
  queued : Option Prog := none
  progFail : Bool := false
  refused : Bool := false
  crcFail : Bool := false
  tempAlert : Bool := false
  fault : Bool := false
  /-- A supply or charge-pump fault has occurred: the die refuses programs until RESET (R129). STATUS clears the latched `fault` only. -/
  noProg : Bool := false
  refusedCnt : Nat := 0
  failMask : Nat := 0
  failBuf : Bool := false
  temp : Nat := 0x164
  maxTemp : Nat := 0
  /-- Features that differ from their reset values, by address, stored as value + 1; 0: reset value (R131). -/
  feat : Tbl Nat := []
  echo : Bool := false
  /-- Echo mode: Tether time at which its CE_N last went high (R137). -/
  ceHigh : Nat := 0
  pattern : LineData := 0
  pd : Bool := false
  /-- ALERT_N held low: initialising or resetting (R133). -/
  init : Bool := true
  /-- What READ_ID returns (R130). -/
  ident : BitVec 256 := 0
  /-- Tether time until which each bank is held (tRC, R124). -/
  bankUntil : Tbl Nat := []
  deriving DecidableEq, Repr

/-- What the controller holds about a die (MCH_DIE_STSm and the causes of R160). -/
structure DieCtl where
  present : Bool := false
  failed : Bool := false
  /-- Temperature code of the last housekeeping round (R141). -/
  round : Nat := 0
  progFail : Nat := 0
  /-- Tether times of recent overruns and failed pages, newest first (R160). -/
  overruns : List Nat := []
  vfails : List Nat := []
  eccFails : List Nat := []
  /-- When RESET was last sent for a latched fault (R160). -/
  faultReset : Option Nat := none
  faultPending : Bool := false
  /-- A fault was found again within 1 s of that RESET (R160). -/
  faultAgain : Bool := false
  /-- What STATUS has returned and the controller has not yet acted on, repeated responses combined (R134). -/
  statusGot : Option Nat := none
  /-- Tether time until which a long operation holds a bank: the die is unavailable meanwhile (R154). -/
  opUntil : Nat := 0
  /-- Alert threshold raised by 2 °C steps (R368). -/
  alertThr : Nat := 0
  /-- The die was programming when its threshold was to be set. -/
  thrOwed : Bool := false
  /-- Temperature at the channel's last retraining (R138). -/
  trainTemp : Nat := 0
  /-- Weak-byte map: bank and byte position, most recently matched first, at most 16 (R172). -/
  weak : List (Nat × Nat) := []
  /-- Temperature at the last computation of its threshold sets (R184). -/
  thrTemp : Nat := 0
  /-- Program starts in the present sixteen, and those of them for internal work (MCH_BRIDLE_CFG.int_share). -/
  starts : Nat := 0
  intern : Nat := 0
  deriving DecidableEq, Repr

/-- A frame as the controller sends it: die, payload F[48:0] (R121), and what goes with it: the write data of LOAD
with its CRC (R126), or of TRAIN_WR; what the cells answer to RD_REF and RD_LINE_SOFT. -/
structure Frame where
  m : Nat
  payload : Nat
  page : List MediaLine := []
  crc : Nat := 0
  word : LineData := 0
  sweep : Nat := 0
  mask : MediaLine := 0
  deriving DecidableEq, Repr

/-- A frame recently sent on a channel, for reissue (R134): the Tether time at which it ended, and, for a LOAD, at which its burst ended,
rounded up to a nanosecond. `again`: it was itself a reissue. -/
structure Sent where
  time : Nat
  f : Frame
  burst : Option Nat := none
  again : Bool := false
  deriving DecidableEq, Repr

/-- One media channel (R134 to R141). -/
structure Channel where
  trained : Bool := false
  failed : Bool := false
  pending : Bool := false
  held : Bool := false
  cause : Nat := 0
  trainTemp : Nat := 0
  retrains : Nat := 0
  trl : Nat := 0
  rdEye : Nat := 0
  wrEye : Nat := 0
  /-- Attempts at training since its start (R137). -/
  attempts : Nat := 0
  training : Bool := false
  /-- Consecutive windows in which a retraining step was narrow, by die position; 8: for every die (R139). -/
  narrow : Tbl Nat := []
  /-- Time that the completed steps of a retraining cut short have taken (R138). -/
  stepsDone : Nat := 0
  /-- A read-around line frame was refused twice in succession (R134): the channel is to be declared failed. -/
  twice : Bool := false
  lastRetrain : Nat := 0
  /-- Tether times of refusals, newest first (R135). -/
  refusals : List Nat := []
  /-- Consecutive CRC failures of each LOAD entry (R135), by die × 32 + buffer and entry. -/
  crcRun : Tbl Nat := []
  sent : List Sent := []
  /-- Self-test slices with work pending are in Bst.queue. Dies being served by Bridle: units granted (R156). -/
  granted : Nat := 0
  /-- Pages loaded in the present frame (R159). -/
  loaded : Nat := 0
  /-- Tether time until which a host read's frame holds CA (R159). -/
  caUntil : Nat := 0
  /-- DQ slots that granted units have taken: first and last instant, LOADs with the turnaround beside them. -/
  dq : List (Nat × Nat) := []
  /-- Tether time until which Bridle counts each bank held, by die position × 64 + bank (R156). -/
  held64 : Tbl Nat := []
  deriving DecidableEq, Repr

/-- A request waiting at a channel's Bridle (R155, R156). `req` 0 host, 1 raised, 2 stream, 3 wb, 4 rebuild,
5 migration, 6 fill, 7 scrub, in the table's order. -/
structure BrReq where
  req : Nat
  seq : Nat
  units : Nat
  /-- Units completed: they are not repeated. -/
  done : Nat := 0
  degraded : Bool := false
  /-- How many of its units are RD_PAGEs; the others are LOADs. -/
  reads : Nat := 0
  /-- What asks: a migration (its tract + 1) or a row update (2^32 + its number). -/
  who : Nat := 0
  /-- The die and bank that its units hold, where they are those of one page. -/
  bank : Option (Nat × Nat) := none
  deriving DecidableEq, Repr

/-- One stripe group (R142, R163). Masks are by channel position. -/
structure Group where
  populated : Bool := false
  members : Nat := 0x3FF
  failedM : Nat := 0
  absent : Bool := false
  /-- Program starts in the present sixteen, and those of them for rebuild (R164). -/
  starts : Nat := 0
  rbld : Nat := 0
  deriving DecidableEq, Repr

/-- An open-row entry (R148): new value of each changed line at member position × 8 + slot, and page state. -/
structure OpenRow where
  g : Nat
  pa : Nat
  mode : ProgMode
  lines : Tbl MediaLine := []
  /-- Pages still to be programmed, by channel position. -/
  left : Nat := 0
  /-- Pages whose verification failed once (R218). -/
  failed : Nat := 0
  /-- Pages that failed it twice: they stay in `left`, and the entry stays, until their lines lie elsewhere (R148, R151). -/
  lost : Nat := 0
  seq : Nat := 0
  deriving DecidableEq, Repr

/-- A queued confirmation (R181). -/
structure Confirm where
  line : Nat
  key : Nat
  base : Nat
  deriving DecidableEq, Repr

/-- A tract table entry (R199). kind 0 unmapped, 1 MLC, 2 SLC, 3 void. -/
structure TEntry where
  kind : Nat := 0
  hdr : Bool := false
  wd : Nat := 0
  shr : Bool := false
  group : Nat := 0
  index : Nat := 0
  deriving DecidableEq, Repr

/-- A counter block's place (R200). -/
structure CtrBlock where
  group : Nat
  pair : Nat
  block : Nat
  deriving DecidableEq, Repr

/-- A tract header (R200). -/
structure THeader where
  gap : Nat := 16384
  start : Nat := 0
  wcnt : Nat := 0
  heat : Nat := 0
  epoch : Nat := 0
  ctr : Option CtrBlock := none
  part : Bool := false
  voidMeta : Bool := false
  deriving DecidableEq, Repr

/-- A physical record (R201). -/
structure PhysRec where
  wear : Nat := 0
  residue : Nat := 0
  state : Nat := 0
  refs : Nat := 0
  deriving DecidableEq, Repr

/-- The metadata of R199 to R202: entries and headers by logical tract, written bits as a 16,384-bit number by
logical tract, physical records by group × 2^19 + index. -/
structure Meta where
  ent : Tbl TEntry := []
  hdr : Tbl THeader := []
  bits : Tbl Nat := []
  phys : Tbl PhysRec := []
  deriving DecidableEq, Repr

/-- A line of the translation cache (R203): line number by kind, when it became dirty. -/
structure TcLine where
  id : Nat
  dirty : Option Nat := none
  deriving DecidableEq, Repr

/-- An area of the fixed reserve in one group (R380, R446): area 0 metadata A, 1 metadata B, 2 gap regions,
3 replay ring, 4 drift ledger. -/
structure Area where
  area : Nat
  group : Nat
  width : Nat
  first : Nat
  pairs : Nat
  deriving DecidableEq, Repr

/-- Why a tract moves (R211). -/
inductive MigWhy where | promote | demote | wear | refresh | rebuild | cow | retire | relocate | rekey
  deriving DecidableEq, Repr

/-- A migration between steps 1 and 7 of R211. -/
structure Mig where
  tract : Nat
  why : MigWhy
  target : TEntry
  source : TEntry
  /-- Step of R211: 2 copy, 3 recopy, 4 final, 5 verify, 6 ready to switch, 7 switched. -/
  step : Nat := 2
  recopies : Nat := 0
  /-- Target rows marked under R212. -/
  marked : List Nat := []
  /-- A row has differed once in verify. -/
  verifyFail : Bool := false
  releaseAt : Nat := 0
  deriving DecidableEq, Repr

/-- A physical tract to be freed no earlier than a Tether time (R211 step 7, R222). -/
structure Freeing where
  group : Nat
  index : Nat
  slc : Bool
  time : Nat
  deriving DecidableEq, Repr

/-- The translation layer (spec/08). -/
structure Tracts where
  cur : Meta := {}
  /-- The metadata as its media copies hold it. -/
  media : Meta := {}
  /-- Translation cache, most recently used first. -/
  tc : List TcLine := []
  areas : List Area := []
  migs : List Mig := []
  queued : List (Nat × MigWhy) := []
  freeing : List Freeing := []
  /-- Gap moves in progress: tracts (R207). -/
  gaps : List Nat := []
  period : Nat := 0
  zt : Nat := 0
  sealed : Bool := false
  floorWarn : Bool := false
  floorPosted : Nat := 0
  holdEmpty : Bool := false
  /-- Group of the last allocation per need of R219. -/
  lastAlloc : Tbl Nat := []
  /-- By group, its failed members in the order in which they failed (R166). -/
  failOrder : Tbl (List Nat) := []
  /-- Reads of media by logical tract, halved at each heat period: the recent read count (R163). -/
  reads : Tbl Nat := []
  deriving DecidableEq, Repr

/-- Survey of one physical tract: ledger class 0 to 15 (R182). 15 is unsurveyed. -/
structure Drift where
  /-- Ledger by group × 2^19 + index, stored as class + 1; 0: unsurveyed. -/
  cls : Tbl Nat := []
  saved : Tbl Nat := []
  /-- Weak-byte maps and threshold sets as the ledger area holds them, by die (R183). -/
  weakSaved : Tbl (List (Nat × Nat)) := []
  thrSaved : Tbl (Tbl Nat) := []
  /-- Tracts queued for resurvey, and Tether time of the last survey of each. -/
  resurvey : List Nat := []
  lastSurvey : Tbl Nat := []
  /-- The power-up survey runs; it has completed at this bring-up (R185). -/
  surveying : Bool := false
  surveyDone : Bool := false
  /-- Row rotation of the samples of each tract (R185). -/
  rot : Tbl Nat := []
  lastSave : Nat := 0
  /-- RD_REF answers of each tract's last survey: channel position and sweep (R182, R184). -/
  samples : Tbl (List (Nat × Nat)) := []
  /-- Start of the present resurvey pass; a pass has been completed and not yet saved (R183, R187). -/
  passStart : Nat := 0
  saveDue : Bool := false
  /-- Pages of the present scrub pass in which a byte needed correction, by (die × 64 + bank) × 80 + byte (R172). -/
  weakCnt : Tbl Nat := []
  confirm : List Confirm := []
  /-- Lines to be repaired at migration rank (R175). -/
  repair : List Nat := []
  /-- Scrub position (logical tract × 512 + row) and passes (MCH_SCRUB_STS). -/
  scrubPos : Nat := 0
  scrubPass : Nat := 0
  /-- Checker self-test and SRAM status (GLB_SRAM_STS). -/
  checkers : Bool := false
  sramRepairs : Nat := 0
  sramFail : Bool := false
  sramUe : Bool := false
  onCorr : Nat := 0
  /-- Channels whose decoder or CRC generator failed the self-test (R193), by bit. -/
  badChan : Nat := 0
  deriving DecidableEq, Repr

/-- The media side. Tables are by die m = 8n + d, channel n, group g. -/
structure Media where
  die : Tbl Die := []
  ctl : Tbl DieCtl := []
  chan : Tbl Channel := []
  group : Tbl Group := []
  /-- Dies configured per channel, by quadrant (board configuration block). -/
  dies : Tbl Nat := []
  rows : List OpenRow := []
  rowSeq : Nat := 0
  /-- Highest number of open rows since bring-up, by quadrant (MCH_ROW_STSq). -/
  rowPeak : Tbl Nat := []
  /-- Bridle queues by channel. -/
  bridle : Tbl (List BrReq) := []
  brSeq : Nat := 0
  deriving DecidableEq, Repr

end Sys2Proof.Machine
end

