-- ==== Sys2Proof/Machine/StateSec.lean ====
section
/-!
DEFINITION. State of the title security engine (spec/09_title_security.md).
-/
namespace Sys2Proof.Machine

/-- A key slot (R236). Its tag key and GHASH subkey are functions of the key and kind, so they are computed. -/
structure Slot where
  /-- 0 empty, 1 loaded, 2 draining (SEC_SLOT_INFO.state). -/
  state : Nat := 0
  /-- 1 XTS, 2 counter mode, 3 MAC. -/
  kind : Nat := 0
  rights : Nat := 0
  title : Nat := 0
  /-- 1 title, 2 save. -/
  form : Nat := 0
  record : Nat := 0
  head : Head := .a
  key1 : BitVec 256 := 0
  key2 : BitVec 256 := 0
  deriving DecidableEq, Repr

/-- A counter line (R244): a 64-bit major and 64 minors of 7 bits by line of the page. -/
structure CtrLine where
  major : Nat := 0
  minors : Tbl Nat := []
  deriving DecidableEq, Repr

/-- A line of the counter cache (R246): since when it is dirty, the key index and base under which it verifies (R447; 0: its slot is empty since),
the media line it is written back as, and its last use. -/
structure CtrCached where
  line : CtrLine
  dirty : Option Nat := none
  key : Nat := 0
  base : Nat := 0
  kept : MediaLine := 0
  used : Nat := 0
  /-- Restored from the replay ring segment of this number (R359). -/
  segment : Option Nat := none
  deriving DecidableEq, Repr

/-- A re-encryption entry (R248): its page, the old counter line, and the lines still to be rewritten. -/
structure Reenc where
  page : Nat
  old : CtrLine
  mask : Nat
  deriving DecidableEq, Repr

/-- The Rekey in progress (R252). -/
structure Rekey where
  win : Nat
  slot : Nat
  bnd : Nat
  handle : Nat
  stop : Bool := false
  /-- In progress; after an early end the boundary stays in force (log entry 16). -/
  busy : Bool := true
  /-- Tracts switched: the command's progress (R302). -/
  switched : Nat := 0
  deriving DecidableEq, Repr

/-- The title security engine. -/
structure Sec where
  slots : Tbl Slot := []
  /-- Counter cache, by the place of the line: group, pair, block, page of the tract. -/
  ctr : Tbl (Option CtrCached) := []
  /-- Uses of the counter cache so far: the order of its LRU replacement. -/
  ctrUses : Nat := 0
  /-- Counter lines as the counter tracts hold them, by place (group, pair, block, line). -/
  ctrMedia : Tbl (Option MediaLine) := []
  reenc : List Reenc := []
  reencDone : Nat := 0
  /-- Exhausted pages (R251), at most 64, and windows made read-only when the table was full. -/
  exh : List Nat := []
  exhFull : Bool := false
  exhWins : List Nat := []
  rekey : Option Rekey := none
  rngOk : Bool := false
  ladderOk : Bool := false
  dbgMode : Bool := false
  /-- Key Evict commands that wait for a draining slot: slot, handle. -/
  evicting : List (Nat × Nat) := []
  deriving DecidableEq, Repr

end Sys2Proof.Machine
end

