-- ==== Sys2Proof/Machine/StateLci.lean ====
section
/-!
DEFINITION. State of the stream engine (spec/10_stream_engine.md) and of the Loanuf command interface
(spec/11_loanuf.md).
-/
namespace Sys2Proof.Machine

/-- Kinds of a channel's list (R259). -/
inductive SKind where | stream | copy | install | verify
  deriving DecidableEq, Repr

/-- States of a channel (R260). -/
inductive SState where | idle | armed | running | stopping | ended
  deriving DecidableEq, Repr

/-- A data descriptor that has started (R267). -/
structure Run where
  /-- Its place among the list's data descriptors, counted from 0. -/
  idx : Nat
  addr : Nat
  desc : BitVec 256
  /-- Source lines that have returned, in order; none: poisoned. -/
  src : List (Option LineData) := []
  /-- Install: host bytes that have returned, in order. -/
  bytes : List Nat := []
  /-- Output bytes sent so far (Copy and Install: destination lines), and the address of the last of them. -/
  sent : Nat := 0
  lastAddr : Nat := 0
  /-- The whole output has been issued: a confirmation read is outstanding (R275). -/
  confirming : Bool := false
  ended : Bool := false
  /-- Fault code of R277; 0: none. -/
  fault : Nat := 0
  faultAddr : Nat := 0
  faultDev : Bool := false
  /-- Copy: lines written and not yet durable (R283); its destination has been written. -/
  pend : Nat := 0
  written : Bool := false
  /-- History buffer in 64 KiB units, while a lane is held (R273). -/
  hist : Nat := 0
  deriving DecidableEq, Repr

/-- A stream channel (R259 to R261, R276, R279). -/
structure SChan where
  state : SState := .idle
  status : Nat := 0
  kind : SKind := .stream
  /-- 0 none, 1 decrypt, 2 decrypt then decompress, 3 encrypt. -/
  xform : Nat := 0
  key : Nat := 0
  base : Nat := 0
  dkey : Nat := 0
  dbase : Nat := 0
  handle : Nat := 0
  head : Head := .a
  listDev : Bool := false
  /-- Address of the next descriptor to fetch, and descriptors held ahead with their addresses. -/
  next : Nat := 0
  ahead : List (Nat × BitVec 256) := []
  limit : Nat := 0
  executed : Nat := 0
  /-- Data descriptors started, and whether the last one has been. -/
  started : Nat := 0
  lastSeen : Bool := false
  runs : List Run := []
  progress : Nat := 0
  out : Nat := 0
  faultAddr : Nat := 0
  faultDev : Bool := false
  tag : Nat := 0
  npoison : Nat := 0
  /-- First pending fault: code, address, device flag, tag. -/
  pendFault : Option (Nat × Nat × Bool × Nat) := none
  /-- Verify: first line, lines, MAC slot, lines verified, failed, first failed, plaintext gathered for the CMAC. -/
  vDpa : Nat := 0
  vLines : Nat := 0
  vMac : Nat := 0
  vDone : Nat := 0
  vFailed : Nat := 0
  vFirst : Nat := 0xFFFFFFFFFFFFFFFF
  vText : List Nat := []
  /-- Install: lines written; ciphertext source. -/
  lines : Nat := 0
  ct : Bool := false
  /-- The list was refused under R253 or R282 before any descriptor started. -/
  refused : Bool := false
  /-- STR_DONE bit (R276). -/
  done : Bool := false
  /-- The source line for which Bridle last granted a frame: data descriptor and line (R155). -/
  asked : Option (Nat × Nat) := none
  /-- Source line reads outstanding: line-tracker entries it holds (R16, R261). -/
  reads : Nat := 0
  deriving DecidableEq, Repr

/-- A registered dictionary (R272). -/
structure Dict where
  id : Nat
  bytes : List Nat
  head : Head
  deriving DecidableEq, Repr

/-- A Snapshot armed or building (R285 to R288). -/
structure Snap where
  handle : Nat
  win : Nat
  src : Nat
  size : Nat
  dst : Nat
  key : Nat
  /-- Launched at this Tether time. -/
  fired : Option Nat := none
  /-- Tracts whose image is built. -/
  built : Nat := 0
  deriving DecidableEq, Repr

/-- The stream engine. -/
structure Streams where
  chan : Tbl SChan := []
  dicts : List Dict := []
  snaps : List Snap := []
  /-- Channels whose next descriptor is ready and waits for a lane or for history store, in the order in which it became ready (R273). -/
  laneWait : List Nat := []
  deriving DecidableEq, Repr

/-- A command table record (R298, R300). `state`: 0 in Spool, 1 held or waiting, 2 running, 3 stopping, 4 finished and
waiting for its CQ entry. -/
structure Cmd where
  entry : LineData := 0
  handle : Nat := 0
  head : Head := .a
  state : Nat := 0
  status : Nat := 0xFFFF
  progress : Nat := 0
  /-- Result bytes 24 to 63 of the CQ entry. -/
  result : List Nat := []
  /-- The stream channel it runs on. -/
  chan : Option Nat := none
  /-- Its launch slot. -/
  slot : Option Nat := none
  /-- Stop commands whose completion follows this one's. -/
  stops : List Nat := []
  /-- Its start has happened; a command resumes from its last checkpointed step (R305). -/
  started : Bool := false
  /-- No completion is posted (R293). -/
  silent : Bool := false
  /-- Completion held until the head returns to D0 (R280). -/
  d3hold : Bool := false
  /-- Order and Tether time of fetch. -/
  seq : Nat := 0
  time : Nat := 0
  /-- Tag of the outbound read it waits for, and the bytes of it that have arrived (R60, R61). -/
  tag : Option Nat := none
  data : List Nat := []
  /-- Cause of R392 with which it is recorded when it ends silently. -/
  cause : Nat := 0
  deriving DecidableEq, Repr

/-- A queue pair beyond its registers (R290 to R297). -/
structure Qp where
  sqHead : Nat := 0
  gen : Nat := 0
  cqTail : Nat := 0
  phase : Bool := true
  seq : Nat := 0
  dbErr : Bool := false
  /-- MBX_QP_STSn.idle (R292). -/
  idle : Bool := true
  /-- Outbound Spool FIFO: handles of finished commands, oldest first (R299). -/
  out : List Nat := []
  /-- Bonded mode: the pair moved to the surviving head (R293). -/
  moved : Bool := false
  /-- CQ entries written lately: address, bytes and time (R293). -/
  recent : List (Nat × List Nat × Nat) := []
  deriving DecidableEq, Repr

/-- An LCI lock (R304). -/
structure Lock where
  owner : Option Nat := none
  /-- Handles of waiting Lock Acquires, oldest first. -/
  waiters : List Nat := []
  abandoned : Bool := false
  deriving DecidableEq, Repr

/-- The command interface. -/
structure Lci where
  ready : Bool := false
  qp : Tbl Qp := []
  cmds : List Cmd := []
  seq : Nat := 0
  /-- Queue pair visited last, and entries taken from it in its turn (R295). -/
  turn : Nat := 63
  taken : Nat := 16
  parity : Nat := 0
  locks : Tbl Lock := []
  /-- Register mailbox (R307). -/
  rmBusy : Bool := false
  rmBoot : Bool := true
  rmOwnerB : Bool := false
  rmStatus : Nat := 0
  /-- CXL mailbox: Transfer FW runs in the background (R308). -/
  bgOp : Nat := 0
  deriving DecidableEq, Repr

end Sys2Proof.Machine
end

