-- ==== Sys2Proof/Machine/StateLine.lean ====
section
/-!
DEFINITION. State of the line engine (spec/03_line_engine.md): Gondola, the sectored cache, the compatibility
buffer, transit, Ballast, scratch, outstanding fetches and invalidations. A line is named by its number, its DPA
divided by 64; a sector by its DPA divided by 4096.
-/
namespace Sys2Proof.Machine

/-- State of a Gondola entry: staged, staged but held behind a write-back of the same line (R73), or write-back. -/
inductive GState where | staged | held | writeback
  deriving DecidableEq, Repr

/-- Who wrote an entry: a head, or an internal writer (R68). -/
inductive Owner where | host (h : Head) | internal
  deriving DecidableEq, Repr

/-- A completion that an entry's program still owes (R73, R44): a head's tag with the time of its acceptance, or a line
of a Copy's descriptor, by channel and descriptor (R283). -/
inductive Ack where
  | host (h : Head) (tag : BitVec 16) (accepted : Nat)
  | run (c idx : Nat)
  deriving DecidableEq, Repr

/-- A Gondola entry (R68 to R77). -/
structure GEntry where
  data : LineData := 0
  /-- One bit per byte held. -/
  mask : BitVec 64 := 0
  /-- A whole poisoned line (R33). -/
  poison : Bool := false
  key : Nat := 0
  /-- The base of R231: with the DPA it gives the line offset. -/
  base : Nat := 0
  writeThrough : Bool := false
  state : GState := .staged
  bank : Nat := 0
  /-- Tether time of staging, and order of arrival. -/
  time : Nat := 0
  seq : Nat := 0
  owner : Owner := .internal
  acks : List Ack := []
  /-- At raised rank (R75). -/
  raised : Bool := false
  /-- Its home has been reserved: P_home of R225. -/
  translated : Bool := false
  /-- Written by the sealed path: stands for a line that reads as poison (R227). -/
  sealedWrite : Bool := false
  /-- Restored from the replay ring segment of this number (R359). -/
  segment : Option Nat := none
  /-- Written before the launch of the Snapshot of this handle (R287). -/
  preLaunch : Option Nat := none
  /-- This entry is a re-encryption rewrite (R248). -/
  reenc : Bool := false
  /-- Discarded while its program ran, or older than a staged entry that its bank lost: reads no longer take it, and its end places
  nothing (R69, R222). -/
  gone : Bool := false
  /-- It holds a write that was acknowledged while Gondola was armed (R74, R343). -/
  covered : Bool := false
  /-- The write also counts under snapshots as accepted at this Tether time (R18). -/
  accepted : Nat := 0
  deriving DecidableEq, Repr

/-- Gondola: at most one staged (or held) and one write-back entry per line (R64). -/
structure Gondola where
  staged : Tbl (Option GEntry) := []
  wb : Tbl (Option GEntry) := []
  seq : Nat := 0
  armed : Bool := false
  /-- Arming withdrawn with staged entries left: raised write-back (R74). -/
  withdrawn : Bool := false
  gpf : Bool := false
  /-- GPF phase 2 requests that wait: head, and Tether time of the request (R50). -/
  gpfWait : List (Head × Nat) := []
  /-- Macros failed per bank. -/
  macros : Tbl (List Nat) := []
  /-- DPA lines recorded poisoned because a bank lost them (R69). -/
  lostLines : List Nat := []
  deriving DecidableEq, Repr

/-- A sector of clean lines: its number, valid bits and data by line within the sector. -/
structure Sector where
  num : Nat := 0
  valid : BitVec 64 := 0
  data : Tbl LineData := []
  deriving DecidableEq, Repr

/-- One way of one set. -/
structure Way where
  used : Bool := false
  mru : Bool := false
  sec : Sector := {}
  deriving DecidableEq, Repr

/-- An entry of the compatibility buffer (R87, R88). -/
structure CmpEntry where
  used : Bool := false
  pin : Bool := false
  lru : Nat := 0
  sec : Sector := {}
  /-- Lines of the page still to be fetched at fill rank. -/
  fill : BitVec 64 := 0
  /-- The head whose read took the page. -/
  head : Head := .a
  deriving DecidableEq, Repr

/-- What waits on a fetch: a host read with its tag, time of acceptance, and the staged bytes it is merged with (mask 0:
none); a merge of the staged entry with this arrival number (R71); or a MemSpecRd, which is answered by nothing and holds its head's tracker entry
(R15, R32). -/
inductive Waiter where
  | host (h : Head) (tag : BitVec 16) (accepted : Nat) (data : LineData) (mask : BitVec 64)
  | merge (seq : Nat)
  | spec (h : Head)
  deriving DecidableEq, Repr

/-- An outstanding fetch of a line from media (R81, R93). -/
structure Fetch where
  /-- Its number in order of issue: a line may have several, of which all but one are stale or of an older token (R81, R93). -/
  id : Nat := 0
  line : Nat
  token : Nat
  waiters : List Waiter := []
  /-- A write passed the ordering point after it was issued: not installed (R82). -/
  stale : Bool := false
  /-- Window facts of the request that issued it (R40). -/
  key : Nat := 0
  base : Nat := 0
  win : Option Nat := none
  /-- Fast decode failed; the heavy decoder or a retry is at work (R173, R174). -/
  fallback : Bool := false
  retry : Bool := false
  /-- The lines of the fallback that were unknown, by channel position. -/
  unk : Nat := 0
  /-- Issued for a read or MemSpecRd: the line is to be installed (R71, R81). -/
  fill : Bool := true
  /-- Bridle has granted its read frame (R155). -/
  issued : Bool := false
  /-- Channel positions whose Bridle has granted a frame of it. -/
  sent : Nat := 0
  /-- Its home is not read: the frame was refused twice (R134), or its bank was held past the wait limit (R157). -/
  around : Bool := false
  /-- Its home line failed the line code on this read (R173, R174). -/
  code : Bool := false
  /-- It met a frame reissue or the close of a test window (R173). -/
  met : Bool := false
  /-- Attempts of the threshold ladder that have failed, and the threshold set of its frames (R186). -/
  rung : Nat := 0
  set : Nat := 0
  deriving DecidableEq, Repr

/-- A sector in transit from a set to Ballast (R91). -/
structure Transit where
  sec : Sector
  deriving DecidableEq, Repr

/-- The clean stores (R79 to R93). -/
structure Cache where
  /-- Ways by set × 12 + way. -/
  ways : Tbl Way := []
  /-- Ballast, newest first, at most 128. -/
  ballast : List Sector := []
  transit : List Sector := []
  compatAct : Bool := false
  compatBusy : Bool := false
  cmp : Tbl CmpEntry := []
  lru : Nat := 0
  fetches : List Fetch := []
  /-- Number of the next fetch. -/
  fetchSeq : Nat := 0
  /-- Fill token of each sector (R92). -/
  token : Tbl Nat := []
  /-- Scratch: ways converted under the current mapping, and head_b of that mapping (R83). -/
  scrAct : Nat := 0
  scrHeadB : Nat := 0
  scrBusy : Bool := false
  /-- Heads whose way set is changing (R84). -/
  scrChgA : Bool := false
  scrChgB : Bool := false
  /-- Scratch data by way × 65536 + line. -/
  scr : Tbl LineData := []
  /-- Scratch lines that stay poison until written whole (R194). -/
  scrPoison : List Nat := []
  /-- Origin of each of them (R177): 11, an uncorrectable word, where none is listed. -/
  scrCause : Tbl Nat := []
  /-- Ways of which a macro runs on correction (R82). -/
  badWays : List Nat := []
  /-- A host range is being invalidated (LIN_INV_CTL.busy). -/
  invBusy : Bool := false
  /-- Invalidations of windows and commands still open (R92). -/
  invOpen : List InvRef := []
  deriving DecidableEq, Repr

end Sys2Proof.Machine
end

