-- ==== Sys2Proof/Machine/StateMgmt.lean ====
section
/-!
DEFINITION. State of the management side: Keel store and logbook (spec/15), core pairs, ICU and semaphores
(spec/12), counters, self-test and debug port (spec/16). Registers a host can write are held in the register
file (RegTable.lean), not here.
-/
namespace Sys2Proof.Machine

/-- A logbook record (R384). `closed`: a freeze closed it to merging (R390). -/
structure LogRec where
  number : Nat := 0
  code : Nat := 0
  count : Nat := 1
  opmin : Nat := 0
  pcyc : Nat := 0
  tether : Nat := 0
  arg : Nat := 0
  closed : Bool := false
  deriving DecidableEq, Repr

/-- An event held in the always-on domain while the recorder does not accept records (R444). -/
structure HeldEvent where
  code : Nat
  arg : Nat
  tether : Nat
  deriving DecidableEq, Repr

/-- The rings of the Keel store (R376). -/
inductive Ring where
  | life | state | locks | wear | eraseUse | repairs | settings | rootMap | member | staging
  deriving DecidableEq, Repr

/-- What a Keel write carries: a ring record with its sequence number, a logbook page, or raw bytes. -/
inductive KKind where
  | ring (r : Ring) (seq : Nat)
  | logPage
  | raw
  deriving DecidableEq, Repr

/-- One page write of the Keel store (R372): bytes wrap within the page. `tries` counts failed verifies (R373).
`owner` is the LCI command or mailbox request that completes only once the write is verified (R379). -/
structure KWrite where
  page : Nat
  off : Nat
  data : List Nat
  kind : KKind
  tries : Nat := 0
  owner : Option Nat := none
  deriving DecidableEq, Repr

/-- One entry of the unfinished-work log (R393). -/
structure UwlEntry where
  handle : Nat
  cid : Nat
  opcode : Nat
  headB : Bool
  started : Bool
  ended : Bool
  status : Nat
  progress : Nat
  deriving DecidableEq, Repr

/-- One page of the unfinished-work log (R393); page = 0x10A + seq mod 347. -/
structure UwlPage where
  seq : Nat
  cause : Nat
  opmin : Nat
  pcyc : Nat
  entries : List UwlEntry
  deriving DecidableEq, Repr

/-- The Keel store: its 256 KiB, the writes waiting and in progress, and the values the controller holds from it. -/
structure Keel where
  /-- Byte at address 256 × page + offset; unlisted bytes are 0. -/
  bytes : Tbl Nat := []
  waiting : List KWrite := []
  /-- Writes in progress, at most one per bank (R372). -/
  active : List KWrite := []
  vfail : Nat := 0
  /-- Rings scanned at this bring-up (KEL_STS.ready). -/
  ready : Bool := false
  /-- Per ring: the next sequence number (R374). -/
  ringSeq : Tbl Nat := []
  opmin : Nat := 0
  opsec : Nat := 0
  pcyc : Nat := 0
  dirty : Nat := 0
  ripTotal : Nat := 0
  ripIncomp : Nat := 0
  /-- PSV_STS.last_off encoding. -/
  lastOff : Nat := 0
  tetherSaved : Nat := 0
  /-- Operating seconds since the life record was last written (R378). -/
  sinceSave : Nat := 0
  tshutLast : Bool := false
  gndUsed : Bool := false
  sel : Nat := 0
  epoch : Nat := 0
  uwlFirst : Nat := 0
  uwlSkip : Nat := 0
  /-- Pages of the unfinished-work log that hold uncleared entries, oldest first. -/
  uwl : List UwlPage := []
  uwlNext : Nat := 0
  uwlLost : Nat := 0
  /-- Erase-record use map: bit n for record n (R379). -/
  eraseUse : Nat := 0
  /-- Soft SRAM repairs, four-byte words (R379). -/
  repairs : List Nat := []
  /-- Persistent settings: item, value (R379, R441). -/
  settings : List (Nat × Nat) := []
  deriving DecidableEq, Repr

/-- The event recorder (R384 to R391). -/
structure Logbook where
  /-- Number the next record takes. -/
  next : Nat := 0
  /-- Unflushed records, oldest first (R388). -/
  buf : List LogRec := []
  lost : Nat := 0
  /-- Losses not yet reported by a 0xF003 record. -/
  lostNew : Nat := 0
  accepting : Bool := false
  frozen : Bool := false
  freezeEnd : Nat := 0
  oldestAtFreeze : Nat := 0
  /-- Class S: the second being counted, and records made and suppressed in it per code (R387). -/
  second : Nat := 0
  made : Tbl Nat := []
  suppressed : Tbl Nat := []
  deriving DecidableEq, Repr

/-- The always-on domain's held events and their excess (R444). -/
structure AonHeld where
  events : List HeldEvent := []
  more : Nat := 0
  deriving DecidableEq, Repr

/-- One core pair (R309 to R315, R413). -/
structure Pair where
  /-- Passed its start-up self-test and has not failed since (GLB_CORE_STS). -/
  ok : Bool := false
  failed : Bool := false
  fenced : Bool := false
  halted : Bool := false
  /-- When it was halted: its watchdog does not count from then on. -/
  haltAt : Nat := 0
  /-- Tether time of the last watchdog pet. -/
  pet : Nat := 0
  /-- Private memory, 16 MiB, by byte (R413). -/
  mem : Tbl Nat := []
  /-- Core registers by index (R413). -/
  regs : Tbl Nat := []
  /-- Breakpoints by index: address (R413). -/
  bkpt : Tbl (Option Nat) := []
  /-- ICU interrupt stack, top first: source numbers (R320). -/
  stack : List Nat := []
  deriving DecidableEq, Repr

/-- The management cores (R309 to R315). -/
structure Cores where
  a : Pair := {}
  b : Pair := {}
  active : PairId := .a
  standbyOk : Bool := false
  cause : Nat := 0
  failovers : Nat := 0
  /-- A pair has failed and been fenced, and the standby has not yet taken over (R313). -/
  takeover : Bool := false
  /-- No pair runs firmware: neither passed, or the active pair failed without a standby (R314, R315). -/
  dead : Bool := false
  lastCheckpoint : Nat := 0
  deriving DecidableEq, Repr

/-- A hardware semaphore (R316): owner 0 free, 1 pair A, 2 pair B, 3 debug port. -/
structure Sem where
  owner : Nat := 0
  abandoned : Bool := false
  deriving DecidableEq, Repr

/-- A firmware image slot of the external NOR (R325, R326). -/
structure Images where
  /-- Bytes of slot A and slot B by offset. -/
  a : Tbl Nat := []
  b : Tbl Nat := []
  /-- Slot that runs: 0 A, 1 B, 3 none (GLB_FW_STS.slot). -/
  running : Nat := 3
  fallback : Bool := false
  svn : Nat := 0
  ver : Nat := 0
  raiseFloor : Bool := false
  /-- Fuse floor: a thermometer of 64 fuses that only rises (R327). -/
  floor : Nat := 0
  deriving DecidableEq, Repr

/-- A wrapping counter or bin with its sticky bit (R396, R401). -/
structure Cnt where
  v : Nat := 0
  ovf : Bool := false
  deriving DecidableEq, Repr

/-- Counters, histograms and their snapshots (R396 to R405). -/
structure Pmc where
  cnt : Tbl Cnt := []
  snap : Tbl Cnt := []
  bin : Tbl Cnt := []
  hsnap : Tbl Cnt := []
  /-- Snapshot times: head A (or the device) and head B (R437). -/
  snapTimeA : Nat := 0
  snapTimeB : Nat := 0
  hsnapTimeA : Nat := 0
  hsnapTimeB : Nat := 0
  deriving DecidableEq, Repr

/-- A queued self-test slice (R406 to R408): `owner` is the Self-Test command's handle. -/
structure Slice where
  num : Nat
  deferrals : Nat := 0
  owner : Option Nat := none
  /-- The second run of a media slice that found a fault once (R409). -/
  again : Bool := false
  /-- Count of the test window in which it was deferred or found a fault: it runs in a later one. -/
  after : Option Nat := none
  deriving DecidableEq, Repr

/-- A Self-Test command in progress (R408): its slices that have ended, the sum of their coverage in 0.01 %, run times in
µs, and faults. -/
structure TestJob where
  owner : Nat
  ended : Nat := 0
  /-- Of these, not skipped. -/
  ran : Nat := 0
  coverage : Nat := 0
  duration : Nat := 0
  faults : Nat := 0
  deriving DecidableEq, Repr

/-- The self-test unit (R406 to R409). -/
structure Bst where
  queue : List Slice := []
  jobs : List TestJob := []
  faults : Nat := 0
  lastFault : Nat := 0
  /-- Comparators withdrawn until the next bring-up, by slice number (R409). -/
  withdrawn : List Nat := []
  /-- Units 0x2 and 0x3 that still may run a slice in the present unit window (R406). -/
  unitOpen : List Nat := []
  deriving DecidableEq, Repr

/-- The Forax debug port (R410 to R415). -/
structure Dbg where
  ir : Nat := 1
  unlocked : Bool := false
  session : Bool := false
  busy : Bool := false
  err : Nat := 0
  fails : Nat := 0
  /-- Newest challenge; none before the first. -/
  chal : Option (BitVec 384) := none
  fxData : BitVec 64 := 0
  /-- Boundary-scan cells. -/
  scan : List Bool := []
  /-- EXTEST, CLAMP or HIGHZ is loaded: bring-up holds (R411). -/
  hold : Bool := false
  deriving DecidableEq, Repr

end Sys2Proof.Machine
end

