-- ==== Sys2Proof/Machine/StatePower.lean ====
section
/-!
DEFINITION. State of the power supervisor (spec/13_power_bringup_ripcord.md) and of temperature and Drogue
(spec/14_thermal.md).
-/
namespace Sys2Proof.Machine

/-- Device states (R23). -/
inductive Svc where | off | bringup | reduced | full | flush | rest
  deriving DecidableEq, Repr

/-- A channel record of the board configuration block (R348). -/
structure ChanCfg where
  uv : Nat := 0
  ov : Nat := 0
  rampMs : Nat := 0
  filt : Nat := 0
  pgUse : Bool := false
  used : Bool := false
  react : Nat := 0
  retries : Nat := 0
  role : Nat := 0
  grp : Nat := 0
  after : Nat := 0
  deriving DecidableEq, Repr

/-- The board configuration block as accepted at step 0x4 (R346 to R348); before, the defaults of R339 hold. -/
structure Board where
  valid : Bool := false
  mode : PortMode := .single
  ptmB : Bool := false
  widthA : Nat := 0
  widthB : Nat := 0
  split : Nat := 0
  share : Nat := 0
  /-- Per GPIO pin: margin bits' channel. -/
  marginCh : Option Nat := none
  vinDiv : Nat := 4096
  vinFail : Nat := 1050
  vinOk : Nat := 1100
  holdDiv : Nat := 0
  vhFull : Nat := 0
  vhMin : Nat := 0
  rTest : Nat := 0
  eta : Nat := 0
  armPct : Nat := 0
  disarmPct : Nat := 0
  extReact : Nat := 0
  chan : Tbl ChanCfg := []
  /-- SHA-384 of the copy in use (R328). -/
  hash : BitVec 384 := 0
  deriving DecidableEq, Repr

/-- A sequencer channel's state (R331 to R334). -/
structure SeqCh where
  en : Bool := false
  valid : Bool := false
  pg : Bool := false
  /-- Last fault: 0 none, 1 uv, 2 ov, 3 ramp, 4 PG. -/
  last : Nat := 0
  tries : Nat := 0
  /-- Tether time of the first retry of the current second. -/
  since : Nat := 0
  sns : Nat := 0
  /-- When a retry drove it low. -/
  offAt : Nat := 0
  /-- Down until the next bring-up (group shutdown). -/
  down : Bool := false
  deriving DecidableEq, Repr

/-- What a flush ends in and why it was started (R23, R335, R343, R356, R370). -/
inductive FlushWhy where | input | pwrReq | reset | protective | thermal | rest | extFault | device
  deriving DecidableEq, Repr

/-- A Ripcord or shutdown flush in progress (R354, R356): the step reached, from 1 to 9. -/
structure Flush where
  why : FlushWhy
  /-- The input has failed: it is a Ripcord. -/
  ripcord : Bool
  step : Nat := 1
  start : Nat := 0
  /-- The segment this flush writes; none where it began before replay_done (R355). -/
  seg : Option Nat := none
  programmed : Bool := false
  ledgerSaved : Bool := false
  /-- When the input failed, and the bank's energy then (KeelOps.lean's unit), for PSV_RIP_LAST. -/
  ripStart : Nat := 0
  energy : Nat := 0
  deriving DecidableEq, Repr

/-- A segment of the replay ring (R353, R448), by part. Parts 1 to 6 are ciphertext on the media; they are held here as
the values that the replay key gives back. Key records are held wrapped. -/
structure Segment where
  num : Nat
  /-- Parts 1 and 3: staged and write-back entries by line. -/
  staged : Tbl (Option GEntry) := []
  wb : Tbl (Option GEntry) := []
  /-- Key slots under which part 3 holds an entry (R448): index, key record, and the key it is wrapped under; it unwraps
  under no other. -/
  keys : List (Nat × Slot × BitVec 256) := []
  /-- Part 2: the dirty metadata: lines and their content. -/
  metaLines : List TcLine := []
  mta : Meta := {}
  rows : List OpenRow := []
  ctr : Tbl (Option CtrCached) := []
  reenc : List Reenc := []
  migs : List Mig := []
  snaps : List Snap := []
  rekey : Option Rekey := none
  freeing : List Freeing := []
  /-- Lines that a failed Gondola bank lost (R69). -/
  lost : List Nat := []
  /-- Marked complete, and clean, in the Keel store's root map. -/
  complete : Bool := false
  clean : Bool := false
  released : Bool := false
  deriving DecidableEq, Repr

/-- The power supervisor. -/
structure Power where
  svc : Svc := .off
  board : Board := {}
  step : Nat := 0
  cause : Nat := 0
  lastOff : Nat := 0
  inputOk : Bool := false
  pwrReq : Bool := false
  vin : Nat := 0
  /-- Bank voltage in mV, E_avail in 0.1 mJ, capacitance in 0.1 µF. -/
  vh : Nat := 0
  eAvail : Nat := 0
  cap : Option Nat := none
  measuring : Bool := false
  lastMeasure : Nat := 0
  seq : Tbl SeqCh := []
  /-- Margining in effect: channel, direction, percent. -/
  margin : Option (Nat × Nat × Nat) := none
  /-- Controller's own drive of FAULT_N, a pulse, the pin's level, seen from others. -/
  drive : Bool := false
  pulse : Bool := false
  pinLow : Bool := false
  extLevel : Bool := false
  extPulse : Bool := false
  ripDur : Nat := 0
  ripEnergy : Nat := 0
  flush : Option Flush := none
  segs : List Segment := []
  segNext : Nat := 0
  /-- Number of the segment used at this bring-up and not yet released. -/
  segUsed : Option Nat := none
  replayDone : Bool := false
  restored : Bool := false
  incomplete : Bool := false
  scrubFirst : Bool := false
  replayLines : Nat := 0
  /-- Tether times of system resets, newest first (R335). -/
  resets : List Nat := []
  /-- Restart limit reached: Off until PWR_REQ falls for 1 ms (R335). -/
  limited : Bool := false
  /-- Off, to start bring-up again no earlier than this time (R335, R337, R361, R370). -/
  restartAt : Option Nat := none
  tsHold : Bool := false
  extHold : Bool := false
  /-- Bring-up was asked for during a sequence that goes down (R361). -/
  upAgain : Bool := false
  portLost : Bool := false
  /-- Bring-up is to stop after the step in progress (R361). -/
  stopUp : Bool := false
  /-- The rails go down one step at a time without a flush, to Off (R333, R335, R361). -/
  downing : Option FlushWhy := none
  /-- VDD_AON or the 32.768 kHz oscillator has failed since the last Tether save (R101). -/
  aonLost : Bool := true
  /-- Outcome of the last power-down (PSV_STS.last_off encoding), recorded at the end of step 0x8 (R378). -/
  ended : Nat := 0
  /-- Metadata lines restored from the segment in use and not yet written to their home (R359). -/
  segMeta : List Nat := []
  /-- When the last rail of the present step became valid (R333); when the FAULT_N pulse began (R336). -/
  seqAt : Nat := 0
  pulseAt : Nat := 0
  /-- Write position of the replay ring, in SLC rows (R380). -/
  segPos : Nat := 0
  deriving DecidableEq, Repr

/-- An on-die sensor (R362 to R364, R370). -/
structure Sensor where
  code : Nat := 0
  bad : Bool := false
  valid : Bool := false
  /-- It has converted since bring-up; the latest conversion, not yet latched by a round; whether it failed. -/
  seen : Bool := false
  conv : Nat := 0
  convOk : Bool := true
  /-- The last conversion read 118 °C or more. -/
  hot : Bool := false
  deriving DecidableEq, Repr

/-- A remote diode (R362). -/
structure Diode where
  fault : Bool := false
  valid : Bool := false
  code : Nat := 0
  deriving DecidableEq, Repr

/-- Temperature and Drogue (R362 to R371). -/
structure Therm where
  sns : Tbl Sensor := []
  rd : Tbl Diode := []
  /-- Die sensors marked bad (R364). -/
  dieBad : List Nat := []
  /-- Die readings taken, by die. -/
  dieCode : Tbl Nat := []
  /-- Dies that have a reading. -/
  dieHas : List Nat := []
  tj : Nat := 0
  peak : Nat := 0
  few : Bool := false
  warn : Bool := false
  hj : Nat := 0
  /-- A round's readings are latched and not yet evaluated; an evaluation has been made since bring-up. -/
  due : Bool := false
  done : Bool := false
  tm : Tbl Nat := []
  hm : Tbl Nat := []
  noGood : List Nat := []
  /-- Quadrants that have a media reading. -/
  tmHas : List Nat := []
  /-- Start of the last round. -/
  round : Nat := 0
  /-- TS13 as the power supervisor read it last in Off or Rest. -/
  aon : Nat := 0
  /-- Management endpoint (R371): SMBus address, MCTP endpoint ID. -/
  smbusAddr : Nat := 0x3A
  eid : Nat := 0
  deriving DecidableEq, Repr

end Sys2Proof.Machine
end

