-- ==== Sys2Proof/Machine/State.lean ====
section
/-!
DEFINITION. The state of the CV-4480, the reasons a step can stop, and the state after reset.
-/
namespace Sys2Proof.Machine

/-- Configuration classes (R1). -/
inductive Cls where | s | m | l
  deriving DecidableEq, Repr

/-- What fuses fix at manufacture: the class (R1), die revision (R443), owner ID, serial number (R412), the hashes of
the image, owner and debug public keys (R327, R412), and the owner-signature fuse. The ladder's root keys are
opaque constants of Config and can be read nowhere (R232). -/
structure Fuses where
  cls : Cls := .l
  rev : BitVec 4 := 0
  ownerId : BitVec 32 := 0
  serial : BitVec 64 := 0
  vendorKey : BitVec 384 := 0
  ownerKey : BitVec 384 := 0
  debugKey : BitVec 384 := 0
  ownerSig : Bool := false
  deriving DecidableEq, Repr

/-- Everything of the device that a command can change. -/
structure Dev where
  /-- BAR0 registers that differ from their reset values; head B's copies at offset + 0x10_0000 (R437). -/
  regs : Tbl (Option Reg32) := []
  a : HeadState := {}
  b : HeadState := {}
  tether : Tether := {}
  launch : Tbl Launch := []
  gpio : Tbl Gpio := []
  keel : Keel := {}
  log : Logbook := {}
  aon : AonHeld := {}
  cores : Cores := {}
  sems : Tbl Sem := []
  images : Images := {}
  pmc : Pmc := {}
  bst : Bst := {}
  dbg : Dbg := {}
  gon : Gondola := {}
  cache : Cache := {}
  media : Media := {}
  tracts : Tracts := {}
  drift : Drift := {}
  sec : Sec := {}
  str : Streams := {}
  lci : Lci := {}
  pwr : Power := {}
  therm : Therm := {}
  /-- Outputs, newest first. -/
  out : List Out := []
  /-- The model's own counter: how many free values have been drawn (log entry 3). -/
  fresh : Nat := 0
  deriving DecidableEq, Repr

/-- The state: fuses, the device, and the commands that wait, first in, first out. -/
structure State where
  fuse : Fuses := {}
  dev : Dev := {}
  pending : List Instr := []
  deriving DecidableEq, Repr

/-- Reasons a step can stop. No command of the table stops the block in this model: every row has an effect in the
spec, so this type has the one constructor that the interface needs and nothing raises it. Safe. -/
inductive Fault where
  /-- Raised by nothing. Safe. -/
  | none
  deriving DecidableEq, Repr

/-- Reasons a command has no meaning. -/
inductive Refusal where
  /-- Raised by an arm of `exec` whose row has no meaning yet. Safe: the machine stops. -/
  | notModelled (mnemonic : String)
  deriving DecidableEq, Repr

/-- The machine right after VDD_AON has come up for the first time: the device is Off (R23, R330), every register at
its Reset column, nothing written to the media, the Keel store or the NOR, and no command waiting. -/
def State.reset : State := {}

end Sys2Proof.Machine
end

