-- ==== Sys2Proof/Machine/Regs.lean ====
section
/-!
DEFINITION. Reading and writing the register file: one home per register, its reset value where nothing else
was written (R9), fields by bit range, and the saturating RC counters (R7).
-/
namespace Sys2Proof.Machine

/-- Default priority of an ICU source (R318). -/
def icuDefaultPrio (n : Nat) : Nat :=
  if n ≤ 63 then 4
  else if n ≤ 65 then 5
  else if n ≤ 70 then 6
  else if n = 71 then 7
  else if n = 72 then 4
  else if n = 73 then 9
  else if n = 74 then 11
  else if n ≤ 76 then 8
  else if n = 77 then 12
  else if n ≤ 79 then 10
  else if n = 80 then 3
  else if n = 81 then 14
  else if n = 82 then 13
  else if n = 83 then 15
  else if n = 84 then 12
  else if n = 85 then 13
  else if n = 86 then 3
  else if n ≤ 88 then 2
  else if n ≤ 92 then 9
  else if n ≤ 94 then 7
  else if n = 95 then 11
  else if n = 96 then 12
  else if n = 97 then 6
  else if n = 98 then 4
  else if n = 99 then 1
  else if n ≤ 102 then 5
  else if n ≤ 111 then 0
  else 3

/-- The reset value of the register at an offset: the Reset column, the priorities of R318, and the MSI-X vector
control words with their mask bit set. -/
def resetOf (off : Nat) : Reg32 :=
  if 0xD0100 ≤ off ∧ off < 0xD0300 then BitVec.ofNat 32 (16 * icuDefaultPrio ((off - 0xD0100) / 4))
  else if 0x4000 ≤ off % 0x100000 ∧ off % 0x100000 < 0x4400 then
    (if off % 16 = 12 then 1 else 0)
  else resetWord off

/-- A register's word. -/
def Dev.reg (d : Dev) (off : Nat) : Reg32 :=
  match Tbl.look none d.regs off with
  | some v => v
  | none => resetOf off

/-- Set a register's word. -/
def Dev.setReg (d : Dev) (off : Nat) (v : Reg32) : Dev :=
  { d with regs := Tbl.put none d.regs off (if v = resetOf off then none else some v) }

/-- Bits [hi:lo] of a register. -/
def Dev.fld (d : Dev) (off hi lo : Nat) : Nat := bits (d.reg off).toNat hi lo

/-- One bit of a register. -/
def Dev.rbit (d : Dev) (off k : Nat) : Bool := bit (d.reg off).toNat k

/-- Replace bits [hi:lo] of a register. -/
def Dev.setFld (d : Dev) (off hi lo v : Nat) : Dev :=
  d.setReg off (BitVec.ofNat 32 (setBits (d.reg off).toNat hi lo v))

/-- Set or clear one bit of a register. -/
def Dev.setRbit (d : Dev) (off k : Nat) (b : Bool) : Dev := d.setFld off k k (b2n b)

/-- Add to a counter of the RC kind: it saturates at 0xFFFF_FFFF. -/
def Dev.bump (d : Dev) (off : Nat) (n : Nat := 1) : Dev :=
  d.setReg off (BitVec.ofNat 32 (satAdd (d.reg off).toNat n 0xFFFFFFFF))

/-- A pair _LO, _HI as one 64-bit value (R12). -/
def Dev.reg64 (d : Dev) (lo : Nat) : Nat := (d.reg lo).toNat + (d.reg (lo + 4)).toNat * 2 ^ 32

/-- Set a pair _LO, _HI. -/
def Dev.setReg64 (d : Dev) (lo v : Nat) : Dev :=
  (d.setReg lo (BitVec.ofNat 32 v)).setReg (lo + 4) (BitVec.ofNat 32 (v / 2 ^ 32))

/-- The registers that are held once per head (R437): their copy for head B lies above BAR0's 1 MiB. -/
def perHead (off : Nat) : Bool :=
  (0x4000 ≤ off && off < 0x4810) || off == GLB_MSIX_SYS || off == PMC_CTL

/-- Where a head's access to an offset lands. -/
def headOff (h : Head) (off : Nat) : Nat :=
  match h with
  | .a => off
  | .b => if perHead off then off + 0x100000 else off

/-- Registers of an address range return to their reset values (R440). -/
def Dev.resetRange (d : Dev) (lo hi : Nat) : Dev :=
  { d with regs := d.regs.filter fun e => !(lo ≤ e.1 && e.1 ≤ hi) }

end Sys2Proof.Machine
end

