-- ==== Sys2Proof/Machine/Ops.lean ====
section
/-!
DEFINITION. The operations every family shares: heads and class, outputs, free values, ICU edges (R317), counters
(R396), MSI-X messages (R323), the event recorder (R386 to R388, R444), CXL event records (R49), Keel writes (R372 to
R375), and Tether's movement (R98).
-/
namespace Sys2Proof.Machine

/-- Number of a head: 0 Port A, 1 Port B. -/
def hIdx : Head → Nat
  | .a => 0
  | .b => 1

/-- A head's state. -/
def Dev.head (d : Dev) : Head → HeadState
  | .a => d.a
  | .b => d.b

/-- Replace a head's state. -/
def Dev.setHead (d : Dev) (h : Head) (x : HeadState) : Dev :=
  match h with
  | .a => { d with a := x }
  | .b => { d with b := x }

/-- The port mode in force (R34): a class other than L runs in single mode. -/
def portMode (F : Fuses) (d : Dev) : PortMode :=
  if F.cls = .l then d.pwr.board.mode else .single

/-- Does the class and port mode use this head (R1, R34)? -/
def activeHead (F : Fuses) (d : Dev) : Head → Bool
  | .a => true
  | .b => decide (portMode F d ≠ .single)

/-- Does the class have this head's function at all (R437)? -/
def presentHead (F : Fuses) : Head → Bool
  | .a => true
  | .b => decide (F.cls = .l)

/-- Heads in use. -/
def activeHeads (F : Fuses) (d : Dev) : List Head :=
  [Head.a, Head.b].filter fun h => activeHead F d h

/-- The class has this channel (R1, R2). -/
def presentChan (F : Fuses) (n : Nat) : Bool := if F.cls = .s then decide (n < 20) else decide (n < 40)

/-- Put something out. -/
def Dev.emit (d : Dev) (o : Out) : Dev := { d with out := o :: d.out }

/-- Draw a free value (log entry 3): nothing constrains it. -/
def Dev.free (d : Dev) : Nat × Dev := (Config.freeValue d.fresh, { d with fresh := d.fresh + 1 })

/-- Draw from the random bit generator (R235). -/
def Dev.rand (d : Dev) : Nat × Dev := (Config.random d.fresh, { d with fresh := d.fresh + 1 })

/-- An edge of an ICU source (R317): its pending bit, or its again bit where that was set. Sources 103 to 111 are
never pending. -/
def Dev.icu (d : Dev) (n : Nat) : Dev :=
  if 103 ≤ n ∧ n ≤ 111 then d
  else if d.rbit (ICU_PEND (n / 32)) (n % 32) then d.setRbit (ICU_SRC_CFG n) 31 true
  else d.setRbit (ICU_PEND (n / 32)) (n % 32) true

/-- Counter n: add, wrapping at 2^48 with its sticky bit and ICU source 99 (R396). -/
def Dev.addCnt (d : Dev) (i n : Nat) : Dev :=
  let c := Tbl.look {} d.pmc.cnt i
  let v := c.v + n
  let c' : Cnt := ⟨v % 2 ^ 48, c.ovf || decide (2 ^ 48 ≤ v)⟩
  let d1 := { d with pmc := { d.pmc with cnt := Tbl.put {} d.pmc.cnt i c' } }
  if 2 ^ 48 ≤ v then d1.icu 99 else d1

/-- Does the counter configured at this register count this event (R396 to R398)? A head's event counts nothing in a
counter the other head owns in dual-head mode (R403). -/
def cntHit (dual : Bool) (ev : Nat) (head : Option Head) (e : Nat × Option Reg32) : Bool :=
  match e.2 with
  | none => false
  | some w =>
    let i := (e.1 - 0xB8100) / 4
    decide (0xB8100 ≤ e.1) && decide (e.1 < 0xB8200) && bit w.toNat 31 && decide (bits w.toNat 9 0 = ev) &&
      (!dual || match head with
        | none => true
        | some .a => decide (i < 32)
        | some .b => decide (32 ≤ i))

/-- `n` occurrences of an event (R398). -/
def Dev.countAt (d : Dev) (ev n : Nat) (head : Option Head) : Dev :=
  let dual := decide (d.pwr.board.mode = .dualHead)
  (d.regs.filter (cntHit dual ev head)).foldl (fun d e => d.addCnt ((e.1 - 0xB8100) / 4) n) d

/-- One occurrence of an event that is tied to no head. -/
def Dev.count (d : Dev) (ev : Nat) (n : Nat := 1) : Dev := d.countAt ev n none

/-- One occurrence of a head's event: Port B's number is 0x20 above Port A's (R398). -/
def Dev.countH (d : Dev) (ev : Nat) (h : Head) (n : Nat := 1) : Dev := d.countAt (ev + 0x20 * hIdx h) n (some h)

/-- Lower edges of the histogram bins 1 to 31 (R402). -/
def binEdges : List Nat :=
  [64, 81, 102, 128, 161, 203, 256, 323, 406, 512, 645, 813, 1024, 1290, 1625, 2048, 2580, 3251, 4096, 5161, 6502,
   8192, 10321, 13004, 16384, 20643, 26008, 32768, 41285, 52016, 65536]

/-- The bin of a latency in ns (R401, R402). -/
def binOf (l : Nat) : Nat := (binEdges.filter fun e => decide (e ≤ l)).length

/-- One completion with a latency at a histogram source (R401). -/
def Dev.latency (d : Dev) (src : Nat) (head : Option Head) (ns : Nat) : Dev :=
  (List.range 8).foldl (fun d i =>
    let w := (d.reg (PMC_HIST_CFG i)).toNat
    let mine := match head with
      | none => true
      | some h => decide (bits w 4 4 = hIdx h)
    if bit w 31 && decide (bits w 3 0 = src) && mine then
      let k := 32 * i + binOf ns
      let c := Tbl.look {} d.pmc.bin k
      let c' : Cnt := ⟨(c.v + 1) % 2 ^ 40, c.ovf || decide (2 ^ 40 ≤ c.v + 1)⟩
      let d1 := { d with pmc := { d.pmc with bin := Tbl.put {} d.pmc.bin k c' } }
      if 2 ^ 40 ≤ c.v + 1 then d1.icu 99 else d1
    else d) d

/-- MSI-X table word k of a vector of a head (R323). -/
def Dev.msixWord (d : Dev) (h : Head) (vec k : Nat) : Nat := (d.reg (headOff h (0x4000 + 16 * vec + 4 * k))).toNat

/-- May a vector's message leave now (R323)? -/
def Dev.msixOpen (d : Dev) (h : Head) (vec : Nat) : Bool :=
  (d.head h).msixOn && !(d.head h).funcMask && decide ((d.head h).dstate = 0) && !bit (d.msixWord h vec 3) 0

/-- Put a message on the link: address and data of its table entry. -/
def Dev.msixOut (d : Dev) (h : Head) (vec : Nat) : Dev :=
  d.emit (.msix h vec (d.msixWord h vec 0 + d.msixWord h vec 1 * 2 ^ 32) (d.msixWord h vec 2))

/-- Offset of the Pending Bit Array word that holds a vector, for a head. -/
def pbaOff (h : Head) (vec : Nat) : Nat := headOff h (0x4800 + 4 * (vec / 32))

/-- A message arises: it leaves, or its pending bit is set while masked or in D3hot (R323). -/
def Dev.msixSend (d : Dev) (h : Head) (vec : Nat) : Dev :=
  if d.msixOpen h vec then d.msixOut h vec else d.setRbit (pbaOff h vec) (vec % 32) true

/-- Send every pending message of a head whose mask has cleared (R323). -/
def Dev.msixDrain (d : Dev) (h : Head) : Dev :=
  (List.range 64).foldl (fun d v =>
    if d.rbit (pbaOff h v) (v % 32) && d.msixOpen h v then
      (d.setRbit (pbaOff h v) (v % 32) false).msixOut h v
    else d) d

/-- A device notice: on every head in use whose GLB_MSIX_SYS.en is 1 (R323). -/
def Dev.notice (F : Fuses) (d : Dev) : Dev :=
  (activeHeads F d).foldl (fun d h =>
    let w := (d.reg (headOff h GLB_MSIX_SYS)).toNat
    if bit w 7 then d.msixSend h (bits w 5 0) else d) d

/-- A record enters the buffer as the newest; at 256 unflushed records a flush is due and ICU source 94 is raised; a
full buffer of 1,024 loses it (R388). -/
def Dev.logPush (d : Dev) (code arg tether : Nat) : Dev :=
  let l := d.log
  if 1024 ≤ l.buf.length then
    { d with log := { l with lost := satAdd l.lost 1 0xFFFF, lostNew := l.lostNew + 1 } }
  else
    let r : LogRec := { number := l.next, code := code, count := 1, opmin := d.keel.opmin, pcyc := d.keel.pcyc,
                        tether := tether % 2 ^ 32, arg := arg, closed := false }
    let d1 := { d with log := { l with next := l.next + 1, buf := l.buf ++ [r] } }
    if d1.log.buf.length = 256 then d1.icu 94 else d1

/-- The newest record can take one more occurrence of this event (R386). -/
def canMerge (l : Logbook) (code arg : Nat) : Bool :=
  match l.buf.getLast? with
  | some r => decide (r.code = code ∧ r.arg = arg ∧ r.count < 0xFFFF) && !r.closed
  | none => false

/-- Merge into the newest record: count rises, the first occurrence's times stay (R386). -/
def mergeLast (l : List LogRec) : List LogRec :=
  match l.getLast? with
  | some r => l.dropLast ++ [{ r with count := r.count + 1 }]
  | none => l

/-- Class S, end of a second: one 0xF001 record for each of the 8 codes with most suppressed events, and one 0xF002
record for the rest (R387). -/
def Dev.rateEnd (d : Dev) : Dev :=
  let sup := d.log.suppressed.mergeSort fun x y => decide (x.2 > y.2 ∨ (x.2 = y.2 ∧ x.1 ≤ y.1))
  let d1 := (sup.take 8).foldl (fun d e => d.logPush 0xF001 (e.1 + e.2 * 2 ^ 16) d.tether.now) d
  let rest := (sup.drop 8).foldl (fun n e => n + e.2) 0
  let d2 := if sup.length ≤ 8 then d1 else d1.logPush 0xF002 rest d.tether.now
  { d2 with log := { d2.log with made := [], suppressed := [], second := d.tether.now / 10 ^ 9 } }

/-- The event recorder takes an event (R386, R387). -/
def Dev.recordIn (F : Fuses) (d : Dev) (code arg tether : Nat) : Dev :=
  if F.cls = .s then
    let d1 := if d.log.second = d.tether.now / 10 ^ 9 then d else d.rateEnd
    let n := Tbl.look 0 d1.log.made code
    if code < 0xF000 ∧ d1.fld EVR_CFG 3 0 ≤ n then
      { d1 with log := { d1.log with suppressed := Tbl.upd 0 d1.log.suppressed code (· + 1) } }
    else
      { d1 with log := { d1.log with made := Tbl.put 0 d1.log.made code (n + 1) } }.logPush code arg tether
  else if canMerge d.log code arg then { d with log := { d.log with buf := mergeLast d.log.buf } }
  else d.logPush code arg tether

/-- An event: recorded while the recorder accepts, else held in the always-on domain, at most 8 (R444). -/
def Dev.event (F : Fuses) (d : Dev) (code : Nat) (arg : Nat := 0) : Dev :=
  if d.log.accepting then d.recordIn F code arg d.tether.now
  else if d.aon.events.length < 8 then
    { d with aon := { d.aon with events := d.aon.events ++ [⟨code, arg, d.tether.now % 2 ^ 32⟩] } }
  else { d with aon := { d.aon with more := d.aon.more + 1 } }

/-- Which of a head's four logs (R49). -/
inductive LogName where | info | warn | fail | fatal
  deriving DecidableEq, Repr

/-- A head's log. -/
def HeadState.log (x : HeadState) : LogName → EvLog
  | .info => x.info
  | .warn => x.warn
  | .fail => x.fail
  | .fatal => x.fatal

/-- Replace a head's log. -/
def HeadState.setLog (x : HeadState) (n : LogName) (l : EvLog) : HeadState :=
  match n with
  | .info => { x with info := l }
  | .warn => { x with warn := l }
  | .fail => { x with fail := l }
  | .fatal => { x with fatal := l }

/-- Add a record to a log of 64; a full log discards its oldest record and counts the overflow (R37, R49). -/
def EvLog.add (l : EvLog) (k : EvKind) (arg time : Nat) : EvLog :=
  let r : EvRec := ⟨l.nextHandle, k, arg, time⟩
  if l.recs.length < 64 then { l with recs := l.recs ++ [r], nextHandle := l.nextHandle + 1 }
  else { recs := l.recs.drop 1 ++ [r], overflow := l.overflow + 1, nextHandle := l.nextHandle + 1,
         overFirst := if l.overflow = 0 then time else l.overFirst, overLast := time }

/-- Post a CXL event record on one head, with the message its interrupt policy asks for: a policy byte per log, bits
[1:0] = 0b01 for MSI-X, bits [7:4] the vector (R308, R323). -/
def Dev.post (d : Dev) (h : Head) (n : LogName) (k : EvKind) (arg : Nat) : Dev :=
  let x := d.head h
  let d1 := d.setHead h (x.setLog n ((x.log n).add k arg d.tether.now))
  let i := match n with
    | .info => 0
    | .warn => 1
    | .fail => 2
    | .fatal => 3
  let p := byteOf x.evPolicy i
  if bits p 1 0 = 1 then d1.msixSend h (bits p 7 4) else d1

/-- Post a record on every head in use. -/
def Dev.postAll (F : Fuses) (d : Dev) (n : LogName) (k : EvKind) (arg : Nat) : Dev :=
  (activeHeads F d).foldl (fun d h => d.post h n k arg) d

/-- Does any log of the head hold a record of this kind for this tract (R37, R227)? -/
def HeadState.holds (x : HeadState) (k : EvKind) (tract : Nat) : Bool :=
  (x.info.recs ++ x.warn.recs ++ x.fail.recs ++ x.fatal.recs).any fun r => decide (r.kind = k ∧ r.arg = tract)

/-- A ring's place among the ring sequence numbers. -/
def Ring.idx : Ring → Nat
  | .life => 0
  | .state => 1
  | .locks => 2
  | .wear => 3
  | .eraseUse => 4
  | .repairs => 5
  | .settings => 6
  | .rootMap => 7
  | .member => 8
  | .staging => 9

/-- Type byte of a ring's records (R376); the root map's pages 1 to 4 carry 0x09. -/
def Ring.type : Ring → Nat
  | .life => 1
  | .state => 2
  | .locks => 3
  | .wear => 4
  | .eraseUse => 5
  | .repairs => 6
  | .settings => 7
  | .rootMap => 8
  | .member => 13
  | .staging => 11

/-- Page of copy A of a ring (R376). -/
def Ring.page : Ring → Nat
  | .life => 0
  | .state => 1
  | .locks => 2
  | .wear => 3
  | .eraseUse => 4
  | .repairs => 5
  | .settings => 7
  | .rootMap => 9
  | .member => 0x13
  | .staging => 0x32

/-- A 48-byte record of a wrapping ring: sequence number, type, 39 bytes, CRC (R374, R375). -/
def wrapRecord (r : Ring) (seq : Nat) (body : List Nat) : List Nat :=
  let b := leBytes 4 seq ++ [r.type] ++ (body ++ List.replicate 39 0).take 39
  b ++ leBytes 4 (crc32c b)

/-- A 256-byte page: sequence number, type, 247 bytes, CRC (R374). -/
def pageRecord (seq type : Nat) (body : List Nat) : List Nat :=
  let b := leBytes 4 seq ++ [type] ++ (body ++ List.replicate 247 0).take 247
  b ++ leBytes 4 (crc32c b)

/-- Write bytes into a page; a byte past offset 255 goes to offset 0 of the same page (R372). -/
def keelPoke (t : Tbl Nat) (page off : Nat) : List Nat → Tbl Nat
  | [] => t
  | b :: r => keelPoke (Tbl.put 0 t (256 * page + off % 256) (b % 256)) page (off % 256 + 1) r

/-- `n` bytes of a page from an offset, wrapping as R372 sets. -/
def keelPeek (t : Tbl Nat) (page off : Nat) : Nat → List Nat
  | 0 => []
  | n + 1 => Tbl.look 0 t (256 * page + off % 256) :: keelPeek t page (off % 256 + 1) n

/-- Queue a Keel write (R372, R373). -/
def Dev.keelPut (d : Dev) (w : KWrite) : Dev := { d with keel := { d.keel with waiting := d.keel.waiting ++ [w] } }

/-- The write a new record of a ring needs (R375): a wrapping ring's slot by its sequence number, a paired ring's
older copy, which alternates. -/
def ringWrite (r : Ring) (seq : Nat) (body : List Nat) (owner : Option Nat) : KWrite :=
  match r with
  | .life | .state | .locks | .wear | .eraseUse =>
    ⟨r.page, 48 * (seq % 16) % 256, wrapRecord r seq body, .ring r seq, 0, owner⟩
  | _ => ⟨r.page + seq % 2, 0, pageRecord seq r.type body, .ring r seq, 0, owner⟩

/-- Queue a new record of a ring; its sequence number is the newest valid number plus 1 (R374). -/
def Dev.ringPut (d : Dev) (r : Ring) (body : List Nat) (owner : Option Nat := none) : Dev :=
  let s := Tbl.look 0 d.keel.ringSeq r.idx
  let d1 := { d with keel := { d.keel with ringSeq := Tbl.put 0 d.keel.ringSeq r.idx (s + 1) } }
  d1.keelPut (ringWrite r s body owner)

/-- Bytes 5 to 43 of the life record (R377). -/
def Dev.lifeBody (d : Dev) : List Nat :=
  let k := d.keel
  [0, 0, 0] ++ leBytes 4 k.opmin ++ [k.opsec, k.lastOff, 0, 0] ++ leBytes 4 k.pcyc ++ leBytes 4 k.dirty ++
    leBytes 2 k.ripTotal ++ leBytes 2 k.ripIncomp ++ leBytes 8 d.tether.now ++ List.replicate 8 0

/-- Bytes 5 to 43 of the state record (R379). -/
def Dev.stateBody (d : Dev) : List Nat :=
  let k := d.keel
  [b2n d.tracts.sealed + 2 * b2n k.tshutLast + 4 * b2n k.gndUsed, k.sel, 0] ++ leBytes 4 k.epoch ++
    leBytes 4 k.uwlFirst ++ [k.uwlSkip]

/-- A new life record (R378); it carries the Tether save of R101. -/
def Dev.lifePut (d : Dev) : Dev :=
  let d1 := d.ringPut .life d.lifeBody
  { d1 with keel := { d1.keel with tetherSaved := d.tether.now, sinceSave := 0 },
            tether := { d1.tether with lastSave := d.tether.now } }

/-- A new state record; whoever changed a field completes once it is verified (R379). -/
def Dev.statePut (d : Dev) (owner : Option Nat := none) : Dev := d.ringPut .state d.stateBody owner

/-- The member record's payload: per group its member and failed-member masks, both 0 for an absent group (R379). -/
def memberBody (t : Tbl Group) : List Nat :=
  [32, 0, 0] ++ (List.range 32).flatMap fun g =>
    let x := Tbl.look {} t g
    if x.populated && !x.absent then leBytes 4 (x.members + x.failedM * 2 ^ 10) else [0, 0, 0, 0]

/-- A new member record (R445). -/
def Dev.memberPut (d : Dev) : Dev := d.ringPut .member (memberBody d.media.group)

/-- The persistent settings: item and value, up to 30 entries (R379). -/
def Dev.settingPut (d : Dev) (item value : Nat) : Dev :=
  let l := (d.keel.settings.filter fun e => e.1 != item) ++ [(item, value)]
  let d1 := { d with keel := { d.keel with settings := l } }
  d1.ringPut .settings ([l.length, 0, 0] ++ (l.take 30).flatMap fun e => leBytes 2 e.1 ++ [0, 0] ++ leBytes 4 e.2)

/-- The configuration registers kept through bring-up, by the item number of their persistent setting (R441). -/
def persistRegs : List Nat :=
  [MTL_GAP_CFG, MTL_HEAT_CFG, MTL_UPD_CFG, MTL_WL_CFG, MCH_BRIDLE_RANK 0, MCH_BRIDLE_RANK 1, MCH_BRIDLE_RANK 2, MCH_BRIDLE_RANK 3,
   MCH_BRIDLE_CFG, MCH_FAIL_CFG, MCH_DRF_CFG, LIN_GND_CFG, STR_CFG, BST_CFG, EVR_CFG, TTH_PTM_CFG, TTH_TWIN_CFG]

/-- A host write that changed one of them is recorded as a persistent setting (R441). -/
def Dev.keepCfg (d : Dev) (old : Reg32) (off : Nat) : Dev :=
  match persistRegs.findIdx? (· == off) with
  | some i => if d.reg off = old then d else d.settingPut i (d.reg off).toNat
  | none => d

/-- The recorded settings are restored (R441). -/
def Dev.restoreCfg (d : Dev) : Dev :=
  d.keel.settings.foldl (fun d e => match persistRegs[e.1]? with
    | some off => d.setReg off (BitVec.ofNat 32 e.2)
    | none => d) d

/-- The next multiple of a period at which a row is due: the present Tether time where it is one and `done`, the number of the multiples the
row has dealt with, does not yet count it; else the next. -/
def dueMultiple (now p done : Nat) : Nat := if now % p = 0 ∧ done ≤ now / p then now else (now / p + 1) * p

/-- The next Tether time after now that is a multiple of a period. -/
def nextMultiple (now p : Nat) : Nat := (now / p + 1) * p

/-- One fabric cycle: the 32-bit accumulator takes 0.5 ns corrected by TTH_RATE, whose unit is 2^-32 of the time that passes; a carry adds
one count, which holds at its largest value (R98, R117). Where TTH_RATE is odd its last half unit falls to every second cycle (log entry
73, DEDUCED). -/
def Tether.cycle (t : Tether) (second : Bool) : Tether :=
  let s := ((t.acc : Int) + 2 ^ 31 + (if second then t.rate - t.rate / 2 else t.rate / 2)).toNat
  { t with acc := s % 2 ^ 32, now := min (t.now + s / 2 ^ 32) (2 ^ 64 - 1) }

/-- One rising edge of the 32.768 kHz clock while the fast clocks are stopped: 30,517 ns and 37/64 ns (R100). -/
def Tether.edge (t : Tether) : Tether :=
  let s := t.acc64 + 37
  { t with acc64 := s % 64, now := min (t.now + 30517 + s / 64) (2 ^ 64 - 1) }

end Sys2Proof.Machine
end

