-- ==== Sys2Proof/Machine/Bus.lean ====
section
/-!
DEFINITION. The media complex's geometry and busy budget (R5, R19, R20, R104 to R108), and what a declaration of
failure does (R160, R161, R24, R25, R445).
-/
namespace Sys2Proof.Machine

/-- A die's state. -/
def Dev.die (d : Dev) (m : Nat) : Die := Tbl.look {} d.media.die m

/-- Replace a die's state. -/
def Dev.setDie (d : Dev) (m : Nat) (x : Die) : Dev :=
  { d with media := { d.media with die := Tbl.put {} d.media.die m x } }

/-- What the controller holds about a die. -/
def Dev.ctl (d : Dev) (m : Nat) : DieCtl := Tbl.look {} d.media.ctl m

/-- Replace it. -/
def Dev.setCtl (d : Dev) (m : Nat) (x : DieCtl) : Dev :=
  { d with media := { d.media with ctl := Tbl.put {} d.media.ctl m x } }

/-- A channel's state. -/
def Dev.chan (d : Dev) (n : Nat) : Channel := Tbl.look {} d.media.chan n

/-- Replace it. -/
def Dev.setChan (d : Dev) (n : Nat) (x : Channel) : Dev :=
  { d with media := { d.media with chan := Tbl.put {} d.media.chan n x } }

/-- A group's state. -/
def Dev.grp (d : Dev) (g : Nat) : Group := Tbl.look {} d.media.group g

/-- Replace it. -/
def Dev.setGrp (d : Dev) (g : Nat) (x : Group) : Dev :=
  { d with media := { d.media with group := Tbl.put {} d.media.group g x } }

/-- Die at channel position p of group g (R5). -/
def dieOf (g p : Nat) : Nat := 8 * (10 * (g / 8) + p) + g % 8

/-- Group of a die (R5). -/
def groupOf (m : Nat) : Nat := 8 * (m / 8 / 10) + m % 8

/-- Channel position of a die (R5). -/
def posOf (m : Nat) : Nat := m / 8 % 10

/-- Bits set in a 10-bit mask. -/
def pop10 (x : Nat) : Nat := ((List.range 10).filter fun p => bit x p).length

/-- Dies configured per channel of a quadrant. -/
def Dev.diesPer (d : Dev) (q : Nat) : Nat := Tbl.look 0 d.media.dies q

/-- A die position is populated by the configuration. -/
def Dev.populated (F : Fuses) (d : Dev) (m : Nat) : Bool :=
  presentChan F (m / 8) && decide (m % 8 < d.diesPer (m / 80))

/-- Width of a group (R142). -/
def Group.width (x : Group) : Nat := pop10 x.members

/-- Channel position of member index i (R142): the i-th member in ascending position. -/
def Group.member (x : Group) (i : Nat) : Nat := ((List.range 10).filter fun p => bit x.members p).getD i 0

/-- Permanent units consumed in a group (R19). -/
def Group.units (x : Group) : Nat := pop10 (Nat.land x.members x.failedM)

/-- Width at which a group is laid out now: its members less the failed ones still to be rebuilt out (R163, R166). -/
def Group.layWidth (x : Group) : Nat := x.width - x.units

/-- Failed members of a group that are not yet rebuilt out, the first to fail first (R166). The member record does not hold the order (R445);
the model keeps it (log entry 84, DEDUCED). -/
def Dev.failedIn (d : Dev) (g : Nat) : List Nat :=
  let x := d.grp g
  let f := (List.range 10).filter fun p => bit x.members p && bit x.failedM p
  let o := (Tbl.look [] d.tracts.failOrder g).filter f.contains
  o ++ f.filter fun p => !o.contains p

/-- GLB_GROUP_STATE encoding: 0 normal or absent, 1 one unit, 2 degraded, 3 lost (R24, R25). -/
def Group.state (x : Group) : Nat := if x.absent then 0 else min x.units 3

/-- A test window is open on a quadrant. -/
def Dev.windowOn (d : Dev) (q : Nat) : Bool := d.tether.twOpen && decide (d.tether.twChan / 10 = q)

/-- A die is programming or has a program queued (R127). -/
def Die.busy (x : Die) : Bool := x.running.isSome || x.queued.isSome

/-- Position p of group g is unavailable for reasons other than a program: failed, or in a test window (R107). -/
def Dev.posOut (d : Dev) (g p : Nat) : Bool :=
  !bit (d.grp g).members p || bit (d.grp g).failedM p ||
    (d.tether.twOpen && decide (d.tether.twChan = 10 * (g / 8) + p))

/-- A die is in a long operation, for which it counts as unavailable exactly as if it programmed (R154). -/
def Dev.longOp (d : Dev) (m : Nat) : Bool := decide (d.tether.now < (d.ctl m).opUntil)

/-- Position p of group g is unavailable to reads (R19, R154). -/
def Dev.posUnavail (d : Dev) (g p : Nat) : Bool := d.posOut g p || (d.die (dieOf g p)).busy || d.longOp (dieOf g p)

/-- Members of a group unavailable to reads (R19). -/
def Dev.unavail (d : Dev) (g : Nat) : Nat :=
  ((List.range 10).filter fun p => bit (d.grp g).members p && d.posUnavail g p).length

/-- Dies of a group that may program in one phase (R20). -/
def Dev.mayProgram (d : Dev) (g : Nat) : Nat :=
  match (d.grp g).units with
  | 0 => if d.windowOn (g / 8) then 1 else 2
  | 1 => if d.windowOn (g / 8) then 0 else 1
  | 2 => 1
  | _ => 0

/-- The choice of R107: may position p of group g program in frame f, when R20 allows only one die? -/
def Dev.chosen (d : Dev) (g p f : Nat) : Bool :=
  let e := p / 2 * 2
  let other := if p = e then e + 1 else e
  if d.posOut g p then false
  else if d.posOut g other then true
  else if f % 2 = 0 then decide (p = e) else decide (p ≠ e)

/-- Does frame f admit program starts under a duty (R108)? -/
def dutyAdmits (f n : Nat) : Bool := decide (f * n / 256 < (f + 1) * n / 256)

/-- Duty in force in a quadrant (reset 0x100). -/
def Dev.duty (d : Dev) (q : Nat) : Nat := Tbl.look 0x100 d.tether.duty q

/-- tPROG maximum in ns (R105). -/
def tProg : ProgMode → Nat
  | .slc => 450
  | .mlc => 1600

/-- The gate of R105 with R20, R104, R107 and R108: may a program (or another operation of the same length) start on
die m at Tether time t? The schedule suspended admits every die (R22). -/
def Dev.gate (d : Dev) (m t len : Nat) : Bool :=
  let g := groupOf m
  let p := posOf m
  let f := t / 10000
  let k := t % 10000 / 2000
  let x := d.grp g
  if !d.tether.schedule then decide (d.pwr.svc = .flush)
  else
    decide (p / 2 = k) && decide (t + len ≤ f * 10000 + (k + 1) * 2000 - 50) && dutyAdmits f (d.duty (g / 8)) &&
      bit x.members p && !bit x.failedM p && !(d.chan (m / 8)).held &&
      (match d.mayProgram g with
        | 0 => false
        | 1 => d.chosen g p f
        | _ => !d.posOut g p) &&
      decide (d.unavail g + b2n (!((d.die m).busy || d.longOp m)) ≤ (if x.units = 2 then 3 else 2))

/-- Reads of a quadrant that are under way meet a frame reissue or the close of a test window (R173). -/
def Dev.meet (d : Dev) (q : Nat) : Dev :=
  let here (f : Fetch) : Bool := decide ((Tbl.look {} d.tracts.cur.ent (f.line / 16384)).group / 8 = q)
  { d with cache := { d.cache with fetches := d.cache.fetches.map fun f => if here f then { f with met := true } else f } }

/-- Close the test window early where it is open on a quadrant; the step in progress is abandoned (R110). A retraining resumes at the step
that was cut short (R138): its four steps are taken as equal parts of its 12 µs, which the spec does not divide (log entry 77, DESIGN
CHOICE). -/
def Dev.windowAbort (d : Dev) (q : Nat) : Dev :=
  if d.windowOn q then
    let c := d.chan d.tether.twChan
    let ran := d.tether.now - (d.tether.twEnd - 20000) + c.stepsDone
    let d1 := if c.pending then d.setChan d.tether.twChan { c with stepsDone := min 9000 (ran / 3000 * 3000) } else d
    ({ d1 with tether := { d1.tether with twOpen := false, twIntr := true } }.meet q).icu 87
  else d

/-- Physical record index of group g, index i (R201). -/
def physKey (g i : Nat) : Nat := g * 2 ^ 19 + i

/-- Logical tracts whose home lies in a group (R199). -/
def Dev.tractsOf (d : Dev) (g : Nat) : List Nat :=
  (d.tracts.cur.ent.filter fun e => decide (e.2.group = g ∧ (e.2.kind = 1 ∨ e.2.kind = 2))).map (·.1)

/-- Queue a migration once (R213). -/
def Dev.migQueue (d : Dev) (tract : Nat) (why : MigWhy) : Dev :=
  let t := d.tracts
  if t.queued.any (fun e => e.1 == tract) || t.migs.any (fun x => x.tract == tract) then d
  else { d with tracts := { t with queued := t.queued ++ [(tract, why)] } }

/-- Tracts with lines staged in Gondola (R25). -/
def Dev.stagedTract (d : Dev) (tract : Nat) : Bool := d.gon.staged.any fun e => decide (e.1 / 16384 = tract)

/-- Number under which an area of the fixed reserve in a group waits to be laid out again: the numbers of logical tracts are below (R446). -/
def areaId (g a : Nat) : Nat := 2 ^ 24 + 8 * g + a

/-- Number under which a counter tract's pair waits. -/
def ctrId (g i : Nat) : Nat := 2 ^ 26 + physKey g i

/-- Group of what a migration number names. -/
def Dev.groupOfId (d : Dev) (t : Nat) : Nat :=
  if t < 2 ^ 24 then (Tbl.look {} d.tracts.cur.ent t).group
  else if t < 2 ^ 26 then (t - 2 ^ 24) / 8
  else (t - 2 ^ 26) / 2 ^ 19

/-- The record of a tract that is freed: free, demoted or retired by its wear; a demoted or retired one stays so (R211 step 7, R216, R217). -/
def PhysRec.freed (r : PhysRec) : PhysRec :=
  { r with state := if 2000000 ≤ r.wear ∨ r.state = 15 then 15 else if 200000 ≤ r.wear ∨ r.state = 8 ∨ r.state = 9 then 8 else 0, refs := 0 }

/-- The record of a tract whose pages fail: demoted if it served MLC, retired if it served SLC (R214, R218). -/
def PhysRec.worn (slc : Bool) (r : PhysRec) : PhysRec :=
  { r with state := if slc ∨ 2000000 ≤ r.wear then 15 else 8, refs := 0 }

/-- A counter tract, by its even index: state 0x5, or a demoted pair in use outside the fixed reserve (R201, R219). -/
def Dev.isCounter (d : Dev) (e : Nat × PhysRec) : Bool :=
  let g := e.1 / 2 ^ 19
  let i := e.1 % 2 ^ 19
  e.1 % 2 == 0 && (e.2.state == 5 || (e.2.state == 9 && !(d.tracts.areas.any fun a => a.group == g && decide (a.first ≤ i ∧ i < a.first + 2 * a.pairs))))

/-- Change the physical record, or both of a pair, of a home or target. -/
def Dev.mapPhys (d : Dev) (e : TEntry) (f : PhysRec → PhysRec) : Dev :=
  let one (t : Tbl PhysRec) (i : Nat) := Tbl.upd {} t (physKey e.group i) f
  let t := if e.kind = 2 then one (one d.tracts.cur.phys e.index) (e.index + 1) else one d.tracts.cur.phys e.index
  { d with tracts := { d.tracts with cur := { d.tracts.cur with phys := t } } }

/-- Put a tract into a list in descending order of a count, behind those of an equal count. -/
def putByCount (f : Nat → Nat) (t : Nat) : List Nat → List Nat
  | [] => [t]
  | a :: l => if f a < f t then t :: a :: l else a :: putByCount f t l

/-- Queue every tract of a group for rebuild or removal (R25, R163, R166, R204): the areas of the fixed reserve, its metadata first, and the
counter tracts; then tracts with lines staged, then the others, each by descending recent read count (log entry 86). -/
def Dev.queueGroup (d : Dev) (g : Nat) : Dev :=
  let reads (t : Nat) := Tbl.look 0 d.tracts.reads t
  let l := (d.tractsOf g).foldl (fun l t => putByCount reads t l) []
  let areas := ((List.range 5).filter fun a => d.tracts.areas.any fun x => x.area == a && x.group == g).map (areaId g)
  let ctrs := (d.tracts.cur.phys.filter fun e => decide (e.1 / 2 ^ 19 = g) && d.isCounter e).map fun e => ctrId g (e.1 % 2 ^ 19)
  (areas ++ ctrs ++ (l.filter d.stagedTract) ++ l.filter fun t => !d.stagedTract t).foldl (fun d t => d.migQueue t .rebuild) d

/-- Free a migration target (R214). -/
def Dev.dropTarget (d : Dev) (e : TEntry) : Dev := d.mapPhys e PhysRec.freed

/-- A migration's target is abandoned; the tract is queued again and MTL_MIG_ABORT_CNT counts it (R214). -/
def Dev.migAbort (d : Dev) (x : Mig) : Dev :=
  let d1 := { d with tracts := { d.tracts with migs := d.tracts.migs.filter fun y => y.tract != x.tract }
                     media := { d.media with bridle := Tbl.mapAll [] d.media.bridle fun _ l => l.filter fun b => b.who != x.tract + 1 } }
  ((d1.dropTarget x.target).migQueue x.tract x.why).bump MTL_MIG_ABORT_CNT

/-- A target is given up because its rows fail: demoted if it served MLC, retired if SLC (R214, R218). -/
def Dev.badTarget (d : Dev) (m : Mig) : Dev := (d.migAbort m).mapPhys m.target (PhysRec.worn (decide (m.target.kind = 2)))

/-- A lost group, or a failing one of the least width, is to be emptied: its tracts move to other groups (R25, R165). -/
def Group.emptying (x : Group) : Bool := decide (3 ≤ x.units ∨ (x.width ≤ 6 ∧ 1 ≤ x.units))

/-- A group to be emptied becomes absent once no tract of it holds data (R25, R165). -/
def Dev.groupSettle (F : Fuses) (d : Dev) (g : Nat) : Dev :=
  let x := d.grp g
  if x.populated && !x.absent && x.emptying && (d.tractsOf g).isEmpty then
    ((d.setGrp g { x with absent := true }).event F 0x4004 g).memberPut.icu 74
  else d

/-- A tract of a group that holds data still lies at its width: a home, an area of the fixed reserve, or a counter tract that waits (R163). -/
def Dev.atWidth (d : Dev) (g w : Nat) : Bool :=
  (d.tracts.cur.ent.any fun e => decide ((e.2.kind = 1 ∨ e.2.kind = 2) ∧ e.2.group = g ∧ w ≤ 10 - e.2.wd)) ||
    (d.tracts.areas.any fun a => a.group == g && decide (w ≤ a.width)) ||
    d.tracts.queued.any fun q => decide (2 ^ 26 ≤ q.1) && d.groupOfId q.1 == g

/-- A group narrows once no tract lies at its width: the member that failed first leaves, and its unit is released (R163, R166, R445). -/
def Dev.narrowOnce (F : Fuses) (d : Dev) (g : Nat) : Dev :=
  let x := d.grp g
  match d.failedIn g with
  | [] => d
  | p :: r =>
    if x.emptying || x.absent || d.atWidth g x.width then d
    else
      let y := { x with members := setBits x.members p p 0 }
      let d1 := { d with tracts := { d.tracts with failOrder := Tbl.put [] d.tracts.failOrder g r } }
      ((((d1.setGrp g y).memberPut).event F 0x4004 (g + y.state * 256)).postAll F .fail .mediaFailed g).icu 74

/-- What follows once a tract of a group has gone: a group with two failed members may release both; one to be emptied may be absent. -/
def Dev.narrowSettle (F : Fuses) (d : Dev) (g : Nat) : Dev := ((d.narrowOnce F g).narrowOnce F g).groupSettle F g

/-- After a unit of group g was consumed: records, migrations aborted, rebuild queued (R24, R25, R161, R214, R445). -/
def Dev.unitConsumed (F : Fuses) (d : Dev) (g before : Nat) : Dev :=
  let x := d.grp g
  let d1 := if x.state = before then d else d.event F 0x4004 (g + x.state * 256)
  let d2 := if x.state = 3 ∧ before ≠ 3 then (d1.postAll F .fatal .groupLost g).postAll F .fatal .groupNamed g
    else (d1.postAll F .fail .mediaFailed g).postAll F .fail .groupNamed g
  let d3 := (d2.tracts.migs.filter fun y => decide (y.target.group = g ∧ y.step < 7)).foldl (fun d y => d.migAbort y) d2
  ((d3.windowAbort (g / 8)).queueGroup g).narrowSettle F g

/-- Consume the unit of one member (R161): its group's mask, and the open rows' pages on it. -/
def Dev.consume (F : Fuses) (d : Dev) (m : Nat) : Dev :=
  let g := groupOf m
  let p := posOf m
  let x := d.grp g
  if bit x.failedM p || !bit x.members p || !x.populated then d
  else
    let d1 := d.setGrp g { x with failedM := x.failedM + 2 ^ p }
    let rows := d1.media.rows.map fun r => if r.g = g then { r with left := setBits r.left p p 0 } else r
    Dev.unitConsumed F { d1 with media := { d1.media with rows := rows }
                                 tracts := { d1.tracts with failOrder := Tbl.put [] d1.tracts.failOrder g (d.failedIn g ++ [p]) } } g x.state

/-- A die enters power-down once no program runs on it (R140). -/
def Dev.powerDown (d : Dev) (m : Nat) : Dev :=
  if (d.die m).busy then d else d.setDie m { d.die m with pd := true }

/-- Declare a die failed (R161): cause is the row of R160's table, from 1. -/
def Dev.declareDie (F : Fuses) (d : Dev) (m cause : Nat) : Dev :=
  if (d.ctl m).failed || !d.populated F m then d
  else
    let d1 := d.setCtl m { d.ctl m with failed := true, faultPending := false }
    (((d1.event F 0x4002 (m + cause * 2 ^ 12)).consume F m).powerDown m).memberPut.icu 74

/-- MCH_CH_STSn.cause for a row of R160 (R136, R137, R445). -/
def chanCause (cause : Nat) : Nat := if cause = 1 then 2 else if cause = 2 then 1 else 3

/-- Declare a channel failed: one unit in every group of its quadrant (R161). -/
def Dev.declareChan (F : Fuses) (d : Dev) (n cause : Nat) : Dev :=
  if (d.chan n).failed || !presentChan F n || d.diesPer (n / 10) == 0 then d
  else
    let c := d.chan n
    let d1 := (d.setChan n { c with failed := true, cause := chanCause cause, pending := false, held := false,
                                    training := false }).event F 0x4003 (n + cause * 2 ^ 8)
    ((List.range (d.diesPer (n / 10))).foldl (fun d k =>
      let m := 8 * n + k
      ((d.setCtl m { d.ctl m with failed := true, faultPending := false }).consume F m).powerDown m) d1).memberPut.icu 74

end Sys2Proof.Machine
end

