-- ==== Sys2Proof/Machine/DieBus.lean ====
section
/-!
DEFINITION. The media bus at a die's pins (spec/05_media_bus.md): the frame code (R121), the commands (R123 to R131),
programs and their end (R127, R128, R215, R218).
-/
namespace Sys2Proof.Machine

/-- Positions of the payload bits: the integers from 3 upward that are not powers of two (R121). -/
def framePos : List Nat :=
  [3, 5, 6, 7, 9, 10, 11, 12, 13, 14, 15, 17, 18, 19, 20, 21, 22, 23, 24, 25, 26, 27, 28, 29, 30, 31, 33, 34, 35, 36,
   37, 38, 39, 40, 41, 42, 43, 44, 45, 46, 47, 48, 49, 50, 51, 52, 53, 54, 55]

/-- XOR of the positions of the payload bits that are 1: its bit i is C[i]. -/
def frameCheck (p : Nat) : Nat :=
  (framePos.zipIdx).foldl (fun acc e => if bit p e.2 then Nat.xor acc e.1 else acc) 0

/-- Parity of the low n bits. -/
def parityN : Nat → Nat → Nat
  | 0, _ => 0
  | n + 1, x => (x % 2 + parityN n (x / 2)) % 2

/-- The 56 bits of a frame: payload, check bits C[5:0], overall parity (R121). -/
def encodeFrame (p : Nat) : Nat :=
  let q := p % 2 ^ 49
  let w := q + frameCheck q * 2 ^ 49
  w + parityN 55 w * 2 ^ 55

/-- What the die makes of 56 received bits: the payload it executes, or none where it refuses the frame (R121). -/
def decodeFrame (w : Nat) : Option Nat :=
  let q := w % 2 ^ 49
  let s := Nat.xor (frameCheck q) (bits w 54 49)
  let odd := parityN 56 w = 1
  if s = 0 then some q
  else if !odd then none
  else if s = 1 ∨ s = 2 ∨ s = 4 ∨ s = 8 ∨ s = 16 ∨ s = 32 then some q
  else match (framePos.zipIdx).find? fun e => e.1 == s with
    | some e => some (Nat.xor q (2 ^ e.2))
    | none => none

/-- Beat b of a frame on CA[6:0]: CA[k] holds F[7b+k] (R120). -/
def caBeat (w b : Nat) : Nat := bits w (7 * b + 6) (7 * b)

/-- The 56 bits that a die assembles from the beats it samples while its CE_N is low (R120). -/
def beatsFrame (l : List Nat) : Nat := l.foldr (fun b acc => b + 128 * acc) 0

/-- The eight beats of a frame. -/
def caBeats (w : Nat) : List Nat := (List.range 8).map (caBeat w)

/-- Payload of a frame: opcode and arguments at their bit positions (R123). -/
def pay (op : Nat) (args : List (Nat × Nat)) : Nat := args.foldl (fun acc e => acc + e.2 * 2 ^ e.1) op

/-- Payload of a read frame: PA at 7, slot at 34, threshold set at 37, mode at 41. R123 says 'F[41] mode' and no more: 1 is taken for MLC and 0
for SLC (log entry 81, DESIGN CHOICE). -/
def payRead (op : Nat) (pa : BitVec 27) (slot set : Nat) (mode : ProgMode) : Nat :=
  pay op [(7, pa.toNat), (34, slot), (37, set), (41, if mode = .mlc then 1 else 0)]

/-- Payload of a PROG frame: buffer at 7, last entry at 8. -/
def payProg (mode : ProgMode) (buf : Bool) (last : Nat) : Nat :=
  pay (if mode = .mlc then 0x12 else 0x11) [(7, b2n buf), (8, last)]

/-- Reset value of a die feature (R131). -/
def featReset (a : Nat) : Nat :=
  if a = 0 then 1
  else if a = 3 then 0x3FF
  else if 0x10 ≤ a ∧ a < 0x30 then 0x08000000
  else 0

/-- Value bits of a die feature; 0 for an address not listed (R131). -/
def featMask (a : Nat) : Nat :=
  if a = 0 ∨ a = 1 ∨ a = 5 then 7
  else if a = 2 then 15
  else if a = 3 then 0x3FF
  else if a = 4 then 1
  else if 0x10 ≤ a ∧ a < 0x20 then 0xFFFFFFFF
  else if 0x20 ≤ a ∧ a < 0x30 then 0xFF0000FF
  else 0

/-- A die feature's value. -/
def Die.feature (x : Die) (a : Nat) : Nat :=
  match Tbl.look 0 x.feat a with
  | 0 => featReset a
  | v + 1 => v

/-- SET_FEATURE; an address not listed is ignored (R131). A value that the table does not list for a listed feature is stored as it is: the rule
does not say that it is not (log entry 80, DESIGN CHOICE). -/
def Die.setFeature (x : Die) (a v : Nat) : Die :=
  if featMask a = 0 then x else { x with feat := Tbl.put 0 x.feat a (Nat.land v (featMask a) + 1) }

/-- Bank of a page address (R122). -/
def bankOf (pa : Nat) : Nat := bits pa 6 1

/-- The die refuses a frame: it latches `refused`, counts, and pulses ALERT_N (R121, R133). -/
def Die.refuse (x : Die) : Die := { x with refused := true, refusedCnt := satAdd x.refusedCnt 1 255 }

/-- What one slot of a page returns when read in a mode: the line as programmed, or undefined content where the page was
never programmed, was cut off, or was programmed in the other mode (R122 to R124). -/
def Die.slot (x : Die) (fresh m pa s : Nat) (mode : ProgMode) : MediaLine :=
  let p := Tbl.look {} x.pages pa
  if p.programmed && !p.undef && decide (p.slc = decide (mode = .slc)) then Tbl.look 0 p.slots s
  else Config.cells m pa s fresh

/-- What a die does with one executed frame: its new state, its response bytes, and whether it took the frame. -/
structure DieAns where
  die : Die
  bytes : List Nat := []
  taken : Bool := true
  /-- A LOAD failed its CRC. -/
  crcBad : Bool := false

/-- A frame that is refused. -/
def dieNo (x : Die) : DieAns := ⟨x.refuse, [], false, false⟩

/-- STATUS bytes (R129). -/
def Die.statusBytes (x : Die) : List Nat :=
  [b2n x.running.isSome + 2 * b2n x.queued.isSome + 4 * b2n x.progFail + 8 * b2n x.refused + 16 * b2n x.crcFail +
     32 * b2n x.tempAlert + 64 * b2n x.fault + 128 * b2n (x.feature 4 = 0),
   x.refusedCnt] ++ leBytes 2 x.failMask ++ [b2n x.failBuf, 0] ++ leBytes 2 (x.temp % 1024) ++ List.replicate 8 0

/-- STATUS clears every latched bit and the refusal count as it is read (R129). -/
def Die.statusClear (x : Die) : Die :=
  { x with progFail := false, refused := false, crcFail := false, tempAlert := false, fault := false,
           refusedCnt := 0 }

/-- Reads: refused while the die programs and inside the bank's tRC (R123, R124). -/
def dieRead (x : Die) (now pa trc : Nat) (bytes : List Nat) : DieAns :=
  if x.busy then dieNo x
  else if now < Tbl.look 0 x.bankUntil (bankOf pa) then dieNo x
  else ⟨{ x with bankUntil := Tbl.put 0 x.bankUntil (bankOf pa) (now + trc) }, bytes, true, false⟩

/-- LOAD (R126): refused into a buffer that is programming or queued; a CRC mismatch marks the entry invalid, latches
crc_fail and reports a refusal, which refused_cnt counts as it counts a refused frame (log entry 78, DESIGN CHOICE: R129 says 'frames
refused'). -/
def dieLoad (x : Die) (f : Frame) (pa entry : Nat) (buf : Bool) : DieAns :=
  let inUse (p : Option Prog) := match p with
    | some r => r.buf == buf
    | none => false
  if inUse x.running || inUse x.queued then dieNo x
  else
    let ok := decide (crc16 (f.page.flatMap lineBytes) = f.crc)
    let x1 := { x with buf := Tbl.put none x.buf (16 * b2n buf + entry) (some ⟨pa, f.page, ok⟩) }
    if ok then ⟨x1, [], true, false⟩ else ⟨{ x1.refuse with crcFail := true }, [], false, true⟩

/-- Entries 0 to `last` of a buffer. -/
def Die.entries (x : Die) (buf : Bool) (last : Nat) : List (Option BufEntry) :=
  (List.range (last + 1)).map fun e => Tbl.look none x.buf (16 * b2n buf + e)

/-- Does a list hold the same number twice? -/
def hasDup : List Nat → Bool
  | [] => false
  | a :: r => r.contains a || hasDup r

/-- The die refuses a PROG frame (R127): an entry invalid or empty, two entries in one bank, an odd address in SLC, the
buffer programming or queued, a program already queued; and any program after a fault, until RESET (R129). -/
def progRefused (x : Die) (mode : ProgMode) (buf : Bool) (last : Nat) : Bool :=
  let es := x.entries buf last
  let pas := es.filterMap fun e => e.map (·.pa)
  let same (p : Option Prog) := match p with
    | some r => r.buf == buf
    | none => false
  es.any (fun e => match e with
    | some b => !b.valid
    | none => true) || hasDup (pas.map bankOf) ||
    (decide (mode = .slc) && pas.any fun a => a % 2 == 1) ||
    same x.running || same x.queued || x.queued.isSome || x.noProg

/-- PROG_SLC and PROG_MLC (R127): the program starts at the end of the frame, or is queued. -/
def dieProg (x : Die) (now : Nat) (mode : ProgMode) (buf : Bool) (last : Nat) : DieAns :=
  if progRefused x mode buf last then dieNo x
  else
    match x.running with
    | none => ⟨{ x with running := some ⟨buf, last, mode, now + 4⟩ }, [], true, false⟩
    | some _ => ⟨{ x with queued := some ⟨buf, last, mode, now + 4⟩ }, [], true, false⟩

/-- The other page of a cell pair (R122). -/
def pairPage (pa : Nat) : Nat := if pa % 2 = 0 then pa + 1 else pa - 1

/-- Pages of an abandoned program hold undefined content (R123); so does what the same cells held as pages of the other mode (R122). -/
def Die.abandon (x : Die) (p : Option Prog) : Die :=
  match p with
  | none => x
  | some r =>
    (x.entries r.buf r.last).foldl (fun x e => match e with
      | some b =>
        let o := Tbl.look {} x.pages (pairPage b.pa)
        let ps := Tbl.upd {} x.pages b.pa fun g => { g with programmed := true, undef := true, slc := decide (r.mode = .slc) }
        { x with pages := if o.programmed && (decide (r.mode = .slc) || o.slc) then
                            Tbl.put {} ps (pairPage b.pa) { o with undef := true } else ps }
      | none => x) x

/-- RESET (R123, R131, R133): programs are abandoned, loaded buffers and features return to their reset values, and
ALERT_N is held until the reset ends. The rules name programs, features, buffers and the fault; of the rest, the latched bits and refused_cnt
are cleared with it, and fail_mask, fail_buf and the pattern register stay (log entry 82, DESIGN CHOICE). -/
def Die.reset (x : Die) : Die :=
  let y := (x.abandon x.running).abandon x.queued
  { y with running := none, queued := none, buf := [], feat := [], init := true, echo := false, pd := false,
           progFail := false, refused := false, crcFail := false, tempAlert := false, fault := false, noProg := false,
           refusedCnt := 0 }

/-- The temperature code that RD_REF returns for program time (R125): a free value for a page never programmed, of which the rule names none,
and for one with undefined content (log entry 83). -/
def Die.progTemp (x : Die) (fresh pa : Nat) : Nat :=
  let p := Tbl.look {} x.pages pa
  if p.programmed && !p.undef then p.tcode % 1024 else Config.freeValue fresh % 1024

/-- Execute one payload (R123): any opcode not listed is executed as NOP. -/
def dieExec (x : Die) (now fresh : Nat) (f : Frame) (p : Nat) : DieAns :=
  let pa := bits p 33 7
  let mode : ProgMode := if bit p 41 then .mlc else .slc
  let no (y : DieAns) : DieAns := if x.busy then dieNo x else y
  match bits p 6 0 with
  | 0x01 => dieRead x now pa 120 (lineBytes (x.slot fresh f.m pa (bits p 36 34) mode))
  | 0x02 => dieRead x now pa 230 (lineBytes (x.slot fresh f.m pa (bits p 36 34) mode) ++ lineBytes f.mask)
  | 0x03 => dieRead x now pa 120 ((List.range 8).flatMap fun s => lineBytes (x.slot fresh f.m pa s mode))
  | 0x04 => dieRead x now pa 400
      ((if mode = .mlc then leBytes 8 f.sweep else leBytes 4 f.sweep ++ [0, 0, 0, 0]) ++ leBytes 2 (x.temp % 1024) ++
        leBytes 2 (x.progTemp fresh pa) ++ [0, 0, 0, 0])
  | 0x10 => dieLoad x f pa (bits p 37 34) (bit p 38)
  | 0x11 => dieProg x now .slc (bit p 7) (bits p 11 8)
  | 0x12 => dieProg x now .mlc (bit p 7) (bits p 11 8)
  | 0x20 => ⟨x.statusClear, x.statusBytes, true, false⟩
  | 0x21 => ⟨{ x with maxTemp := x.temp },
      leBytes 2 (x.temp % 1024) ++ leBytes 2 (max x.maxTemp x.temp % 1024) ++ List.replicate 12 0, true, false⟩
  | 0x22 => no ⟨x, leBytes 32 x.ident.toNat, true, false⟩
  | 0x30 => no ⟨x.setFeature (bits p 14 7) (bits p 46 15), [], true, false⟩
  | 0x31 => ⟨x, leBytes 4 (if featMask (bits p 14 7) = 0 then 0 else x.feature (bits p 14 7)) ++ List.replicate 12 0, true, false⟩
  | 0x40 => no ⟨{ x with echo := true, ceHigh := now + 4 }, [], true, false⟩
  | 0x41 => no ⟨x, if bit p 7 then leBytes 64 x.pattern.toNat else Config.prbs7, true, false⟩
  | 0x42 => no ⟨{ x with pattern := f.word }, [], true, false⟩
  | 0x43 => no ⟨x, [], true, false⟩
  | 0x50 => no ⟨{ x with pd := true }, [], true, false⟩
  | 0x51 => ⟨{ x with pd := false }, [], true, false⟩
  | 0x7F => ⟨x.reset, [], true, false⟩
  | _ => ⟨x, [], true, false⟩

/-- A die takes 56 received bits (R121): a frame that fails its code is refused; a die in power-down takes PD_EXIT
and RESET only, and a die whose initialisation has not ended takes RESET only (log entry 12). In echo mode it drives DQ[6:0] with CA[6:0] of
the beat that feature 0x05 names, until its CE_N has been high for 1 µs (R137); it then takes no frame as a command (log entry 76, DESIGN
CHOICE). -/
def dieTake (x : Die) (now fresh : Nat) (f : Frame) (w : Nat) : DieAns :=
  if x.echo && decide (now ≤ x.ceHigh + 1000) then ⟨{ x with ceHigh := now + 4 }, [caBeat w (x.feature 5)], true, false⟩
  else match decodeFrame w with
  | none => if x.init || x.pd then ⟨x, [], false, false⟩ else dieNo { x with echo := false }
  | some p =>
    let op := bits p 6 0
    if x.init && op != 0x7F then ⟨x, [], false, false⟩
    else if x.pd && op != 0x51 && op != 0x7F then ⟨x, [], false, false⟩
    else dieExec { x with echo := false } now fresh f p

/-- An end lies within the 12 ns before now (R134). -/
def endedLately (now t : Nat) : Bool := decide (t ≤ now ∧ now ≤ t + 12)

/-- Keep the frames of a channel that ended, or whose burst ends, in the last 12 ns or later, for reissue (R134). -/
def keepSent (l : List Sent) (now : Nat) : List Sent := l.filter fun s => decide (now ≤ (s.burst.getD s.time) + 12)

/-- What the controller counts of a frame's fate on its channel (R135): refusals within 1 ms, and the CRC failures in a row of each LOAD entry.
16 of the first and 3 of the second make retraining pending, and hold the channel's programs. -/
def crcTrack (c : Channel) (now : Nat) (f : Frame) (taken crcBad : Bool) : Channel :=
  let load := decide (bits f.payload 6 0 = 0x10)
  let id := f.m * 32 + bits f.payload 38 34
  let n := if crcBad then Tbl.look 0 c.crcRun id + 1 else if load && taken then 0 else Tbl.look 0 c.crcRun id
  let runs := if load then Tbl.put 0 c.crcRun id n else c.crcRun
  let refs := if taken then c.refusals else now :: c.refusals.filter fun t => decide (now < t + 1000000)
  let hold := (load && decide (3 ≤ n)) || (!taken && decide (16 ≤ refs.length))
  { c with crcRun := runs, refusals := refs, pending := c.pending || hold, held := c.held || hold }

/-- A frame as it is kept for reissue: a LOAD's burst runs for 40.125 ns from tWL after the frame (R126, R134). -/
def sentOf (now : Nat) (f : Frame) (again : Bool) : Sent :=
  ⟨now + 4, f, if bits f.payload 6 0 = 0x10 then some (now + 53) else none, again⟩

/-- What follows a die's answer to a frame: the die's state, the frame kept for reissue, the response, and the ALERT_N pulse of a refusal
(R120, R121). A STATUS response waits for the controller to act on it. -/
def Dev.frameSent (d : Dev) (f : Frame) (a : DieAns) (again : Bool := false) : Dev :=
  let m := f.m
  let seen := a.taken || (d.die m).init || (d.die m).pd
  let d1 := { d.setDie m a.die with fresh := d.fresh + 1 }
  let c := d1.chan (m / 8)
  let d2 := d1.setChan (m / 8)
    (crcTrack { c with sent := keepSent c.sent d.tether.now ++ [sentOf d.tether.now f again] } d.tether.now f seen a.crcBad)
  let d3 := d2.emit (.frame m (bits f.payload 6 0) a.taken)
  let d4 := if a.bytes.isEmpty then d3 else d3.emit (.dieData m a.bytes)
  let d5 := if bits f.payload 6 0 = 0x20 ∧ !a.bytes.isEmpty then
      d4.setCtl m { d4.ctl m with statusGot := some (Nat.lor ((d4.ctl m).statusGot.getD 0) (leNat a.bytes)) }
    else d4
  if seen then d5 else d5.emit (.alert m)

/-- The controller sends a frame to one die, received with an error pattern (R120, R121): the die acts, its response
appears, a refusal pulses ALERT_N, and the frame is kept for reissue. -/
def Dev.sendFrame (d : Dev) (f : Frame) (err : Nat) : Dev :=
  d.frameSent f (dieTake (d.die f.m) d.tether.now d.fresh f (beatsFrame (caBeats (Nat.xor (encodeFrame f.payload) err))))

/-- Rows a physical tract of width w occupies (R197). -/
def rowsOf (w : Nat) : Nat := (16384 + 8 * (w - 2) - 1) / (8 * (w - 2))

/-- Does the home of an entry cover page address pa of its group (R197, R198)? -/
def TEntry.holds (e : TEntry) (pa : Nat) : Bool :=
  let r := rowsOf (10 - e.wd)
  decide (e.kind = 1 ∨ e.kind = 2) && decide (e.index * r ≤ pa) &&
    decide (pa < (e.index + (if e.kind = 2 then 2 else 1)) * r)

/-- Logical tracts whose home holds a page (R218). -/
def Dev.tractsAt (d : Dev) (g pa : Nat) : List Nat :=
  (d.tracts.cur.ent.filter fun e => decide (e.2.group = g) && e.2.holds pa).map (·.1)

/-- Does the extent of an area cover page address pa of its group (R446)? -/
def Area.holds (a : Area) (pa : Nat) : Bool :=
  decide (a.first * rowsOf a.width ≤ pa) && decide (pa < (a.first + 2 * a.pairs) * rowsOf a.width)

/-- Width of the physical tract that holds a page: that of the home, the migration's target or the area that covers it, else the width at
which the group is laid out now. -/
def Dev.widthAt (d : Dev) (g pa : Nat) : Nat :=
  match d.tracts.cur.ent.find? fun e => decide (e.2.group = g) && e.2.holds pa with
  | some e => 10 - e.2.wd
  | none => match d.tracts.migs.find? fun x => decide (x.target.group = g) && x.target.holds pa with
    | some x => 10 - x.target.wd
    | none => match d.tracts.areas.find? fun a => decide (a.group = g) && a.holds pa with
      | some a => a.width
      | none => (d.grp g).layWidth

/-- One page program's wear (R215): 1 for an MLC page and 2 for an SLC page, counted as a cycle at w × R_w. -/
def wearStep (r : PhysRec) (w inc : Nat) : PhysRec :=
  let lim := w * rowsOf w
  if lim ≤ r.residue + inc then { r with wear := min (r.wear + 1) 0xFFFFFF, residue := r.residue + inc - lim }
  else { r with residue := r.residue + inc }

/-- Count one page program against its physical tract; a tract that reaches a limit while holding data is queued for
migration (R215, R216). -/
def Dev.wearPage (d : Dev) (g pa : Nat) (mode : ProgMode) : Dev :=
  let w := d.widthAt g pa
  let key := physKey g (pa / rowsOf w)
  let r := Tbl.look {} d.tracts.cur.phys key
  let r' := wearStep r w (if mode = .mlc then 1 else 2)
  let d1 := { d with tracts := { d.tracts with cur := { d.tracts.cur with phys := Tbl.put {} d.tracts.cur.phys key r' } } }
  if (r'.wear = 200000 ∨ r'.wear = 2000000) ∧ r.wear ≠ r'.wear then
    (d1.tractsAt g pa).foldl (fun d t => d.migQueue t .retire) d1
  else d1

/-- A page has failed verification for good (R214, R218): every line of its tract is to move, and a migration's target is abandoned. -/
def Dev.pageLost (d : Dev) (g pa : Nat) : Dev :=
  let d1 := (d.tractsAt g pa).foldl (fun d t => d.migQueue t .relocate) d
  (d1.tracts.migs.filter fun x => decide (x.target.group = g ∧ x.step ≤ 6) && x.target.holds pa).foldl (fun d x => d.badTarget x) d1

/-- A page of an open row: programmed with good status, or failed; the second failure moves every line of its tract, and the entry keeps the
page until they lie elsewhere (R148, R151, R218). -/
def Dev.rowPage (d : Dev) (g pa p : Nat) (ok : Bool) : Dev :=
  match d.media.rows.find? fun r => r.g == g && r.pa == pa with
  | none => if ok then d else d.pageLost g pa
  | some r =>
    let put (x : OpenRow) : Dev :=
      { d with media := { d.media with rows := d.media.rows.map fun y => if y.g = g ∧ y.pa = pa then x else y } }
    if ok then put { r with left := setBits r.left p p 0, failed := setBits r.failed p p 0, lost := setBits r.lost p p 0 }
    else if bit r.failed p then
      (put { r with lost := setBits r.lost p p 1 }).pageLost g pa
    else put { r with failed := setBits r.failed p p 1 }

/-- Program one page into a die's cells: its slots, its reference cells with the temperature (R125), and what becomes of
the other page of the cell pair (R122). -/
def Die.program (x : Die) (b : BufEntry) (mode : ProgMode) (ok : Bool) : Die :=
  let sl : Tbl MediaLine := (b.data.zipIdx).foldl (fun t e => Tbl.put 0 t e.2 e.1) []
  let pg : Page := ⟨true, !ok, decide (mode = .slc), sl, x.temp⟩
  let o := Tbl.look {} x.pages (pairPage b.pa)
  let ps := Tbl.put {} x.pages b.pa pg
  { x with pages := if o.programmed && (mode = .slc || o.slc) then Tbl.put {} ps (pairPage b.pa) { o with undef := true } else ps }

/-- The controller sets a die's alert threshold (R368); a die that programs refuses SET_FEATURE (R123), so the frame waits for the
end of its programs. -/
def Dev.alertSet (d : Dev) (m thr : Nat) : Dev :=
  if (d.die m).busy then d.setCtl m { d.ctl m with alertThr := thr, thrOwed := true }
  else (d.setCtl m { d.ctl m with alertThr := thr, thrOwed := false }).sendFrame { m := m, payload := pay 0x30 [(7, 3), (15, thr)] } 0

/-- A threshold that waited is set. -/
def Dev.alertOwed (d : Dev) (m : Nat) : Dev :=
  if (d.ctl m).thrOwed ∧ !(d.die m).busy then d.alertSet m (d.ctl m).alertThr else d

/-- The program running on a die ends (R127, R128): each entry is verified by the mask of failures, pages and wear are
updated, the buffer empties, failures are latched and counted, and a queued program starts. `fault`: the die's charge pump or supply failed
meanwhile (R129). A die declared failed enters power-down once its last program has ended (R140). -/
def Dev.programEnd (d : Dev) (m failMask : Nat) (fault : Bool) : Dev :=
  let x := d.die m
  match x.running with
  | none => d
  | some r =>
    let es := (x.entries r.buf r.last).zipIdx
    let x1 := es.foldl (fun x e => match e.1 with
      | some b => x.program b r.mode (!bit failMask e.2)
      | none => x) x
    let fails := (es.filter fun e => bit failMask e.2).length
    let emptied := (List.range 16).foldl (fun t e => Tbl.put none t (16 * b2n r.buf + e) none) x1.buf
    let follow := x1.queued.map fun q => { q with start := max q.start d.tether.now }
    let x2 := { x1 with buf := emptied, running := follow, queued := none,
                        progFail := x1.progFail || decide (0 < fails), fault := x1.fault || fault, noProg := x1.noProg || fault,
                        failMask := failMask % 2 ^ (r.last + 1), failBuf := r.buf }
    let d1 := d.setDie m x2
    let g := groupOf m
    let d2 := es.foldl (fun d e => match e.1 with
      | some b => (d.wearPage g b.pa r.mode).rowPage g b.pa (posOf m) (!bit failMask e.2)
      | none => d) d1
    let d2a := (d2.count (0x100 + 0x40 * (m / 80) + (if r.mode = .slc then 2 else 3)) es.length).alertOwed m
    let d2b := if (d2a.ctl m).failed then d2a.powerDown m else d2a
    let d3 := if fault && !x.fault then d2b.emit (.alert m) else d2b
    if fails = 0 then d3
    else
      let c := d3.ctl m
      let recent := c.vfails.filter fun t => decide (d.tether.now < t + 10 ^ 9)
      let c1 := { c with progFail := satAdd c.progFail fails 0xFFFF,
                         vfails := List.replicate fails d.tether.now ++ recent }
      ((d3.setCtl m c1).bump (MCH_PRG_FAIL (m / 8)) fails).emit (.alert m)

/-! ## The meanings -/

/-- A frame row's effect: sent only to a die that the class and configuration have (R2, R120). -/
def frameTo (F : Fuses) (s : State) (m : Nat) (err : FrameErr) (f : Frame) : Host.Outcome State Fault Refusal :=
  .next (if s.dev.populated F m then { s with dev := s.dev.sendFrame f err.toNat } else s)

/-- Frames to several dies of one channel at once (R120): RESET, PD_ENTER, PD_EXIT and SET_FEATURE only. `others` names further positions whose
CE_N is low; `ok` says to which dies the controller sends the frame. -/
def frameAll (F : Fuses) (s : State) (m : Nat) (others : BitVec 8) (err : FrameErr) (f : Frame) (ok : Nat → Bool) :
    Host.Outcome State Fault Refusal :=
  let ms := (m :: ((List.range 8).filter fun k => others.getLsbD k && k != m % 8).map (8 * (m / 8) + ·)).filter (s.dev.populated F)
  .next (if ms.all ok then { s with dev := ms.foldl (fun d k => d.sendFrame { f with m := k } err.toNat) s.dev } else s)

/-- The controller sends training commands and READ_ID only during bring-up and in the test windows of their channel (R154). -/
def Dev.trainTime (d : Dev) (n : Nat) : Bool :=
  decide (d.pwr.svc = .bringup) || (d.tether.twOpen && decide (d.tether.twChan = n))

/-- A training frame's effect. -/
def frameTrain (F : Fuses) (s : State) (m : Nat) (err : FrameErr) (f : Frame) : Host.Outcome State Fault Refusal :=
  if s.dev.trainTime (m / 8) then frameTo F s m err f else .next s

/-- A read that holds its bank for `len` ns, longer than the tRC of RD_LINE (R154): sent only through the phase gate, with the bank occupancy in
place of tPROG; the die counts as unavailable until it ends. -/
def frameLong (F : Fuses) (s : State) (m : Nat) (err : FrameErr) (f : Frame) (len : Nat) : Host.Outcome State Fault Refusal :=
  let d := s.dev
  .next (if d.populated F m && !(d.die m).busy && d.gate m (d.tether.now + 4) len then
      { s with dev := (d.setCtl m { d.ctl m with opUntil := d.tether.now + 4 + len }).sendFrame f err.toNat }
    else s)

/-- May a start be made where both kinds of work wait? Of every sixteen starts the favoured work has `share`, and either kind takes what the
other leaves (R164). `n` starts of the sixteen have been made, `k` of them by the favoured work. -/
def shareAdmits (share n k : Nat) (favoured otherWaits : Bool) : Bool :=
  !otherWaits || (if favoured then decide (k < share) else decide (n - k < 16 - share))

/-- Starts and favoured starts of the present sixteen after one more. -/
def shareNext (n k : Nat) (favoured : Bool) : Nat × Nat := if 15 ≤ n then (0, 0) else (n + 1, k + b2n favoured)

/-- Is a page of a group the target of a rebuild (R164)? -/
def Dev.rebuildPage (d : Dev) (g pa : Nat) : Bool :=
  d.tracts.migs.any fun x => decide (x.why = .rebuild ∧ x.target.group = g) && x.target.holds pa

/-- Is a page of a group the target of refresh, wear levelling, re-encryption or rebuild, for which MCH_BRIDLE_CFG.int_share holds starts? -/
def Dev.internPage (d : Dev) (g pa : Nat) : Bool :=
  d.tracts.migs.any fun x => decide ((x.why = .rebuild ∨ x.why = .refresh ∨ x.why = .wear ∨ x.why = .rekey) ∧ x.target.group = g) &&
    x.target.holds pa

/-- Does a buffer of a die hold a page of this kind, loaded? -/
def Die.holdsPage (x : Die) (buf : Bool) (f : Nat → Bool) : Bool :=
  (x.entries buf 15).any fun e => match e with
    | some b => b.valid && f b.pa
    | none => false

/-- A buffer of a die waits for its program with a page of this kind. -/
def Die.waits (x : Die) (buf : Bool) (f : Nat → Bool) : Bool :=
  let taken (p : Option Prog) := match p with
    | some r => r.buf == buf
    | none => false
  !taken x.running && !taken x.queued && x.holdsPage buf f

/-- Does a loaded buffer of some member of a group, but this one, wait with a page of this kind? -/
def Dev.groupWaits (d : Dev) (g m : Nat) (buf : Bool) (f : Nat → Bool) : Bool :=
  (List.range 10).any fun p => [false, true].any fun b =>
    !(dieOf g p == m && b == buf) && bit (d.grp g).members p && (d.die (dieOf g p)).waits b f

/-- The shares of program starts admit a program: rebuild's of the group (R164), and that of internal work of the die (MCH_BRIDLE_CFG). -/
def Dev.sharesAdmit (d : Dev) (m : Nat) (buf : Bool) : Bool :=
  let g := groupOf m
  let x := d.grp g
  let c := d.ctl m
  let reb := (d.die m).holdsPage buf (d.rebuildPage g)
  let own := (d.die m).holdsPage buf (d.internPage g)
  shareAdmits (d.fld MCH_BRIDLE_CFG 23 20) x.starts x.rbld reb (d.groupWaits g m buf fun a => d.rebuildPage g a != reb) &&
    shareAdmits (d.fld MCH_BRIDLE_CFG 19 16) c.starts c.intern own ((d.die m).waits (!buf) fun a => d.internPage g a != own)

/-- A program start is counted in the shares. -/
def Dev.sharesCount (d : Dev) (m : Nat) (buf : Bool) : Dev :=
  let g := groupOf m
  let x := d.grp g
  let c := d.ctl m
  let a := shareNext x.starts x.rbld ((d.die m).holdsPage buf (d.rebuildPage g))
  let b := shareNext c.starts c.intern ((d.die m).holdsPage buf (d.internPage g))
  (d.setGrp g { x with starts := a.1, rbld := a.2 }).setCtl m { c with starts := b.1, intern := b.2 }

/-- A program frame at the gate (R19, R20, R104, R105): it starts 4 ns after its frame begins, or when the program before it on the die
ends. It goes ahead of every requester but a host read frame, which delays it by 4 ns at most (R159). It is held for the shares of rebuild and
of internal work (R164). The controller sends no other. -/
def Dev.programGate (F : Fuses) (d : Dev) (m : Nat) (mode : ProgMode) (buf : Bool) (last err : Nat) : Dev :=
  let x := d.die m
  let sent := max d.tether.now (d.chan (m / 8)).caUntil + 4
  let t := match x.running with
    | some p => max sent (p.start + tProg p.mode)
    | none => sent
  if d.populated F m && d.gate m t (tProg mode) && d.sharesAdmit m buf then
    (d.sharesCount m buf).sendFrame { m := m, payload := payProg mode buf last } err
  else d

/-- NOP (R123). -/
def execNop (m : DieId) (err : FrameErr) (s : State) : Host.Outcome State Fault Refusal :=
  frameTo s.fuse s m err { m := m, payload := pay 0 [] }

/-- RD_LINE (R124). -/
def execRdLine (m : DieId) (err : FrameErr) (pa : BitVec 27) (slot : Fin 8) (set : Fin 16) (mode : ProgMode) (s : State) :
    Host.Outcome State Fault Refusal :=
  frameTo s.fuse s m err { m := m, payload := payRead 1 pa slot set mode }

/-- RD_LINE_SOFT (R124): the reliability mask is what the cells answer. -/
def execRdLineSoft (m : DieId) (err : FrameErr) (pa : BitVec 27) (slot : Fin 8) (set : Fin 16) (mode : ProgMode)
    (mask : MediaLine) (s : State) : Host.Outcome State Fault Refusal :=
  frameLong s.fuse s m err { m := m, payload := payRead 2 pa slot set mode, mask := mask } 230

/-- RD_PAGE (R124). -/
def execRdPage (m : DieId) (err : FrameErr) (pa : BitVec 27) (set : Fin 16) (mode : ProgMode) (s : State) :
    Host.Outcome State Fault Refusal :=
  let f : Frame := { m := m, payload := payRead 3 pa 0 set mode }
  .next (if s.dev.populated s.fuse m then
      { s with dev := (s.dev.count (0x104 + 0x40 * (m.val / 80))).sendFrame f err.toNat }
    else s)

/-- RD_REF (R125): the medians and spreads are what the reference cells answer. -/
def execRdRef (m : DieId) (err : FrameErr) (pa : BitVec 27) (mode : ProgMode) (sweep : BitVec 64) (s : State) :
    Host.Outcome State Fault Refusal :=
  frameLong s.fuse s m err { m := m, payload := payRead 4 pa 0 0 mode, sweep := sweep.toNat } 400

/-- LOAD (R126): a channel loads at most MCH_BRIDLE_CFG.load_cap pages in a frame of the schedule (R159). -/
def execLoad (m : DieId) (err : FrameErr) (pa : BitVec 27) (buf : Bool) (entry : Fin 16) (data : List MediaLine)
    (crc : BitVec 16) (s : State) : Host.Outcome State Fault Refusal :=
  let c := s.dev.chan (m.val / 8)
  let d1 := (s.dev.setChan (m.val / 8) { c with loaded := c.loaded + 1 }).count (0x105 + 0x40 * (m.val / 80))
  let f : Frame := { m := m, payload := pay 0x10 [(7, pa.toNat), (34, entry), (38, b2n buf)], page := data, crc := crc.toNat }
  .next (if s.dev.populated s.fuse m && (decide (s.dev.pwr.svc = .flush) || decide (c.loaded < s.dev.fld MCH_BRIDLE_CFG 7 0)) then { s with dev := d1.sendFrame f err.toNat } else s)

/-- PROG_SLC (R127). -/
def execProgSlc (m : DieId) (err : FrameErr) (buf : Bool) (last : Fin 16) (s : State) : Host.Outcome State Fault Refusal :=
  .next { s with dev := s.dev.programGate s.fuse m .slc buf last err.toNat }

/-- PROG_MLC (R127). -/
def execProgMlc (m : DieId) (err : FrameErr) (buf : Bool) (last : Fin 16) (s : State) : Host.Outcome State Fault Refusal :=
  .next { s with dev := s.dev.programGate s.fuse m .mlc buf last err.toNat }

/-- DIE_PROGRAM_END (R128, with R215 and R218). -/
def execDieProgramEnd (m : DieId) (res : ProgramEnd) (s : State) : Host.Outcome State Fault Refusal :=
  .next { s with dev := s.dev.programEnd m res.failMask.toNat res.fault }

/-- STATUS (R129). -/
def execStatus (m : DieId) (err : FrameErr) (s : State) : Host.Outcome State Fault Refusal :=
  frameTo s.fuse s m err { m := m, payload := pay 0x20 [] }

/-- TEMP (R129). -/
def execTemp (m : DieId) (err : FrameErr) (s : State) : Host.Outcome State Fault Refusal :=
  frameTo s.fuse s m err { m := m, payload := pay 0x21 [] }

/-- READ_ID (R130). -/
def execReadId (m : DieId) (err : FrameErr) (s : State) : Host.Outcome State Fault Refusal :=
  frameTrain s.fuse s m err { m := m, payload := pay 0x22 [] }

/-- SET_FEATURE (R131). -/
def execSetFeature (dies : DieSel) (err : FrameErr) (addr : Byte) (value : Reg32) (s : State) :
    Host.Outcome State Fault Refusal :=
  frameAll s.fuse s dies.m dies.others err { m := dies.m, payload := pay 0x30 [(7, addr.toNat), (15, value.toNat)] } fun _ => true

/-- GET_FEATURE (R131). -/
def execGetFeature (m : DieId) (err : FrameErr) (addr : Byte) (s : State) : Host.Outcome State Fault Refusal :=
  frameTo s.fuse s m err { m := m, payload := pay 0x31 [(7, addr.toNat)] }

/-- TRAIN_CA: echo mode (R137). -/
def execTrainCa (m : DieId) (err : FrameErr) (s : State) : Host.Outcome State Fault Refusal :=
  frameTrain s.fuse s m err { m := m, payload := pay 0x40 [] }

/-- TRAIN_RD (R123). -/
def execTrainRd (m : DieId) (err : FrameErr) (pattern : Bool) (s : State) : Host.Outcome State Fault Refusal :=
  frameTrain s.fuse s m err { m := m, payload := pay 0x41 [(7, b2n pattern)] }

/-- TRAIN_WR (R123). -/
def execTrainWr (m : DieId) (err : FrameErr) (data : LineData) (s : State) : Host.Outcome State Fault Refusal :=
  frameTrain s.fuse s m err { m := m, payload := pay 0x42 [], word := data }

/-- ZQ_CAL (R123). -/
def execZqCal (m : DieId) (err : FrameErr) (s : State) : Host.Outcome State Fault Refusal :=
  frameTrain s.fuse s m err { m := m, payload := pay 0x43 [] }

/-- A die may be put into power-down (R140): it or its channel has failed, or every program on the channel has ended in a flush. -/
def Dev.mayDown (d : Dev) (m : Nat) : Bool :=
  let quiet := (List.range 8).all fun k => !(d.die (8 * (m / 8) + k)).busy
  !(d.die m).busy && ((d.ctl m).failed || (d.chan (m / 8)).failed || (decide (d.pwr.svc = .flush) && quiet))

/-- PD_ENTER (R123, R140). -/
def execPdEnter (dies : DieSel) (err : FrameErr) (s : State) : Host.Outcome State Fault Refusal :=
  frameAll s.fuse s dies.m dies.others err { m := dies.m, payload := pay 0x50 [] } s.dev.mayDown

/-- PD_EXIT (R123). -/
def execPdExit (dies : DieSel) (err : FrameErr) (s : State) : Host.Outcome State Fault Refusal :=
  frameAll s.fuse s dies.m dies.others err { m := dies.m, payload := pay 0x51 [] } fun _ => true

/-- RESET (R123): to a programming die only once it has been declared failed. -/
def execReset (dies : DieSel) (err : FrameErr) (s : State) : Host.Outcome State Fault Refusal :=
  frameAll s.fuse s dies.m dies.others err { m := dies.m, payload := pay 0x7F [] } fun k => !(s.dev.die k).busy || (s.dev.ctl k).failed

/-- DIE_INIT_DONE: the die releases ALERT_N (R133). -/
def execDieInitDone (m : DieId) (s : State) : Host.Outcome State Fault Refusal :=
  .next { s with dev := s.dev.setDie m { s.dev.die m with init := false } }

end Sys2Proof.Machine
end

