-- ==== Sys2Proof/Machine/Crypto.lean ====
section
/-!
DEFINITION. The title security engine's arithmetic: the key ladder (R232), counter blocks (R241), tags (R242), AES-XTS
(R240), key records and blobs (R233), and the check table (R243).
-/
namespace Sys2Proof.Machine

/-- AES-256 of one 16-byte block; byte k of a block is bits [8k+7:8k]. -/
def aesBlock (k : BitVec 256) (x : Nat) : Nat := (Config.aes k (BitVec.ofNat 128 x)).toNat

/-- The inverse. -/
def aesInv (k : BitVec 256) (x : Nat) : Nat := ((Config.aes k).symm (BitVec.ofNat 128 x)).toNat

/-- The KDF of R232: counter mode with CMAC as its function, 256 bits out. -/
def kdf (k : BitVec 256) (label : String) (ctx : List Nat) : BitVec 256 :=
  let block (i : Nat) := (Config.cmac k ([i] ++ (label.toList.map (·.toNat)) ++ [0] ++ ctx ++ [1, 0])).toNat
  BitVec.ofNat 256 (block 1 + block 2 * 2 ^ 128)

/-- The ladder's root: DRK, or the debug root after an unlock (R257). -/
def Dev.root (d : Dev) : BitVec 256 := if d.sec.dbgMode then Config.debugRoot else Config.rootKey

/-- Owner key (R232). -/
def ownerKey (F : Fuses) (d : Dev) : BitVec 256 := kdf d.root "CV-OWNER" (leBytes 4 F.ownerId.toNat)

/-- Title KEK of the present ladder epoch. -/
def titleKek (F : Fuses) (d : Dev) : BitVec 256 := kdf (ownerKey F d) "CV-TKEK" (leBytes 4 d.keel.epoch)

/-- The 40 bytes of slot i of erase record n (R382). -/
def Dev.eraseSlot (d : Dev) (n i : Nat) : List Nat :=
  keelPeek d.keel.bytes (0x34 + n / 3) (80 * (n % 3) + 40 * i) 40

/-- The sequence number of a valid erase-record slot; none where its CRC fails. -/
def eraseSeq (b : List Nat) : Option Nat :=
  if crc32c (b.take 36) = leNat (b.drop 36) then some (leNat (b.take 4)) else none

/-- The nonce of erase record n: that of its newest valid slot (R235, R382). -/
def Dev.nonce (d : Dev) (n : Nat) : List Nat :=
  let a := d.eraseSlot n 0
  let b := d.eraseSlot n 1
  let pick (x : List Nat) := (x.drop 4).take 32
  match eraseSeq a, eraseSeq b with
  | some x, some y => if y ≤ x then pick a else pick b
  | some _, none => pick a
  | none, some _ => pick b
  | none, none => []

/-- Save KEK of erase record n. -/
def saveKek (F : Fuses) (d : Dev) (n : Nat) : BitVec 256 := kdf (ownerKey F d) "CV-SKEK" (d.nonce n)

/-- A slot. -/
def Dev.slot (d : Dev) (k : Nat) : Slot := Tbl.look {} d.sec.slots k

/-- Replace a slot. -/
def Dev.setSlot (d : Dev) (k : Nat) (x : Slot) : Dev :=
  { d with sec := { d.sec with slots := Tbl.put {} d.sec.slots k x } }

/-- The tag key of a key index: KP for 0, else the slot's (R232). -/
def Dev.tagKey (d : Dev) (k : Nat) : BitVec 256 :=
  if k = 0 then kdf d.root "CV-PTAG" []
  else kdf (d.slot k).key1 "CV-TAG" [(d.slot k).kind]

/-- The counter block of R241. -/
def counterBlock (l major minor seg domain : Nat) : Nat :=
  seg % 4 + domain % 4 * 2 ^ 2 + minor % 128 * 2 ^ 4 + major % 2 ^ 64 * 2 ^ 11 + l % 2 ^ 38 * 2 ^ 75

/-- Line offset of a DPA from a base (R231). -/
def lineOffset (a base : Nat) : Nat := (a + 2 ^ 44 - base % 2 ^ 44) / 64 % 2 ^ 38

/-- Mode byte of a slot kind in a tag (R242). -/
def modeByte (k kind : Nat) : Nat := if k = 0 then 0 else if kind = 1 then 1 else 2

/-- The tag of 64 stored bytes (R242). -/
def tagOf (t : BitVec 256) (k mode l major minor domain : Nat) (c : List Nat) : BitVec 32 :=
  let b5 := leBytes 5 l ++ leBytes 8 major ++ [0, 0, 0]
  let b6 := leBytes 2 k ++ [minor, mode] ++ List.replicate 12 0
  let h := BitVec.ofNat 128 (aesBlock t 0)
  let sh := (Config.ghash h (c ++ b5 ++ b6)).toNat
  BitVec.ofNat 32 (Nat.xor sh (aesBlock t (counterBlock l major minor 0 domain)))

/-- Keystream of one line under counter mode (R241). -/
def keystream (k : BitVec 256) (l major minor : Nat) : Nat :=
  (List.range 4).foldl (fun acc i => acc + aesBlock k (counterBlock l major minor i 0) * 2 ^ (128 * i)) 0

/-- Multiplication of a tweak by alpha (IEEE 1619). -/
def tweakNext (t : Nat) : Nat := if t < 2 ^ 127 then t * 2 else Nat.xor (t * 2 % 2 ^ 128) 0x87

/-- Tweaks of the four blocks of a data unit. -/
def tweaks (k2 : BitVec 256) (l : Nat) : List Nat :=
  let t := aesBlock k2 l
  [t, tweakNext t, tweakNext (tweakNext t), tweakNext (tweakNext (tweakNext t))]

/-- XTS over one 64-byte line, `f` being AES or its inverse (R240). -/
def xtsLine (f : Nat → Nat) (k2 : BitVec 256) (l : Nat) (x : LineData) : LineData :=
  BitVec.ofNat 512 (((tweaks k2 l).zipIdx).foldl (fun acc e =>
    acc + Nat.xor (f (Nat.xor (bytesAt x.toNat (16 * e.2) 16) e.1)) e.1 * 2 ^ (128 * e.2)) 0)

/-- Encrypt a line's data under a key index (R239 to R241). -/
def Dev.encrypt (d : Dev) (k l major minor : Nat) (x : LineData) : LineData :=
  let s := d.slot k
  if k = 0 then x
  else if s.kind = 1 then xtsLine (aesBlock s.key1) s.key2 l x
  else x ^^^ BitVec.ofNat 512 (keystream s.key1 l major minor)

/-- Decrypt. -/
def Dev.decrypt (d : Dev) (k l major minor : Nat) (x : LineData) : LineData :=
  let s := d.slot k
  if k = 0 then x
  else if s.kind = 1 then xtsLine (aesInv s.key1) s.key2 l x
  else x ^^^ BitVec.ofNat 512 (keystream s.key1 l major minor)

/-- Line offset a tag binds: for key index 0 the DPA itself (R239). -/
def tagOffset (k a base : Nat) : Nat := if k = 0 then a / 64 % 2 ^ 38 else lineOffset a base

/-- The media line of plaintext data: encrypted, tagged, with metadata and check bytes (R168, R169, R239 to R242). -/
def Dev.seal (d : Dev) (k a base major minor : Nat) (x : LineData) : MediaLine :=
  let s := d.slot k
  let l := tagOffset k a base
  let ctr := decide (k ≠ 0 ∧ s.kind = 2)
  let mj := if ctr then major else 0
  let mn := if ctr then minor else 0
  let c := d.encrypt k l mj mn x
  let tg := tagOf (d.tagKey k) k (modeByte k s.kind) l mj mn 1 (leBytes 64 c.toNat)
  mkLine c tg (BitVec.ofNat 16 (b2n ctr * 2 + mn % 128 * 4 + (if ctr then mj % 2 else 0) * 2 ^ 9))

/-- A poison line (R178). -/
def poisonLine : MediaLine := mkLine 0 0 1

/-- Fields of a stored line. -/
def lineData (m : MediaLine) : LineData := BitVec.ofNat 512 m.toNat
/-- Its tag. -/
def lineTag (m : MediaLine) : BitVec 32 := BitVec.ofNat 32 (m.toNat / 2 ^ 512)
/-- Its metadata. -/
def lineMeta (m : MediaLine) : Nat := m.toNat / 2 ^ 544 % 2 ^ 16

/-- Does a stored line's tag verify under these counters? -/
def Dev.tagOk (d : Dev) (k a base major minor : Nat) (m : MediaLine) : Bool :=
  let l := tagOffset k a base
  tagOf (d.tagKey k) k (modeByte k (d.slot k).kind) l major minor 1 (leBytes 64 (lineData m).toNat) == lineTag m

/-- The 64 bytes of a counter line (R244). -/
def CtrLine.toLine (c : CtrLine) : LineData :=
  BitVec.ofNat 512 (c.minors.foldl (fun acc e => acc + e.2 % 128 * 2 ^ (64 + 7 * (e.1 % 64))) (c.major % 2 ^ 64))

/-- A counter line from its 64 bytes. -/
def CtrLine.ofLine (x : LineData) : CtrLine :=
  { major := x.toNat % 2 ^ 64,
    minors := (List.range 64).foldl (fun t j => Tbl.put 0 t j (bits x.toNat (64 + 7 * j + 6) (64 + 7 * j))) [] }

/-- A counter line as a media line: tagged under the slot's tag key with its page offset, metadata 0 (R244). -/
def Dev.sealCtr (d : Dev) (k a base : Nat) (c : CtrLine) : MediaLine :=
  let l := lineOffset a base / 64
  mkLine c.toLine (tagOf (d.tagKey k) k 2 l c.major 0 2 (leBytes 64 c.toLine.toNat)) 0

/-- A counter line read from media: none where its tag fails. -/
def Dev.openCtr (d : Dev) (k a base : Nat) (m : MediaLine) : Option CtrLine :=
  let c := CtrLine.ofLine (lineData m)
  let l := lineOffset a base / 64
  if tagOf (d.tagKey k) k 2 l c.major 0 2 (leBytes 64 (lineData m).toNat) == lineTag m then some c else none

/-- The 72 bytes of a slot's key record (R233). -/
def Slot.record72 (s : Slot) : List Nat :=
  [s.kind, s.rights, 0, 0] ++ leBytes 4 s.title ++ leBytes 32 s.key1.toNat ++ leBytes 32 s.key2.toNat

/-- A slot from a 72-byte key record; none where R233 refuses it. -/
def slotOfRecord (form record : Nat) (h : Head) (b : List Nat) : Option Slot :=
  let kind := b.getD 0 0
  let rights := b.getD 1 0
  let k1 := leNat ((b.drop 8).take 32)
  let k2 := leNat ((b.drop 40).take 32)
  if b.length ≠ 72 ∨ b.getD 2 0 ≠ 0 ∨ b.getD 3 0 ≠ 0 ∨ 64 ≤ rights then none
  else if kind = 0 ∨ 3 < kind then none
  else if kind = 1 ∧ k1 = k2 then none
  else if kind ≠ 1 ∧ k2 ≠ 0 then none
  else some { state := 1, kind := kind, rights := rights, title := leNat ((b.drop 4).take 4), form := form,
              record := record, head := h, key1 := BitVec.ofNat 256 k1, key2 := BitVec.ofNat 256 k2 }

/-- Unwrap an 84-byte blob (R233); none where it is refused. -/
def unwrapBlob (F : Fuses) (d : Dev) (h : Head) (b : List Nat) : Option Slot :=
  let form := b.getD 0 0
  let record := b.getD 2 0
  if b.length ≠ 84 ∨ (form ≠ 1 ∧ form ≠ 2) ∨ b.getD 1 0 ≠ 0 ∨ b.getD 3 0 ≠ 0 ∨ (form = 1 ∧ record ≠ 0) then none
  else
    match Config.kwUnwrap (if form = 1 then titleKek F d else saveKek F d record) (b.drop 4) with
    | some r => slotOfRecord form record h r
    | none => none

/-- Wrap a save key (R233, R235). -/
def wrapBlob (F : Fuses) (d : Dev) (s : Slot) : List Nat :=
  [2, 0, s.record, 0] ++ Config.kwWrap (saveKek F d s.record) s.record72

/-- Does a line's slot serve reads and write-back: loaded, or draining for write-back only (R236)? -/
def Dev.slotLoaded (d : Dev) (k : Nat) : Bool := k == 0 || (d.slot k).state == 1

/-- Gondola holds a line under a slot (R237). -/
def Dev.gondolaUses (d : Dev) (k : Nat) : Bool :=
  let uses (e : Nat × Option GEntry) := match e.2 with
    | some g => decide (g.key = k)
    | none => false
  d.gon.staged.any uses || d.gon.wb.any uses

/-- A slot becomes empty: its key material is zero (R237), and no counter line in the cache verifies under it any more (R447). -/
def Dev.emptySlot (d : Dev) (k : Nat) : Dev :=
  let d1 := d.setSlot k {}
  { d1 with sec := { d1.sec with ctr := Tbl.mapAll none d1.sec.ctr fun _ x => x.map fun c => if c.key = k then { c with key := 0 } else c } }

/-- A slot is cleared: draining while Gondola holds a line under it, else empty with its key material zero (R237). -/
def Dev.clearSlot (d : Dev) (k : Nat) : Dev :=
  if (d.slot k).state = 0 then d
  else if d.gondolaUses k then d.setSlot k { d.slot k with state := 2 }
  else d.emptySlot k

/-- The replay key of a segment (R448): from DRK even after a debug unlock. -/
def replayKey (n : Nat) : BitVec 256 := kdf Config.rootKey "CV-REPLAY" (leBytes 4 n)

/-- The wrapping key of a slot's record in segment n (R448). -/
def replayWrapKey (F : Fuses) (d : Dev) (n : Nat) (s : Slot) : BitVec 256 :=
  if s.form = 2 then kdf (saveKek F d s.record) "CV-REPLAY" (leBytes 4 n) else replayKey n

end Sys2Proof.Machine
end

