-- ==== Sys2Proof/Machine/Translate.lean ====
section
/-!
DEFINITION. Where a DPA lies: capacity and head partitions (R37, R38, R196), title windows (R40), the home of a line
(R197, R198, R206), its written bit (R205), the translation cache (R203), and reading a stored line with
reconstruction (R150, R152).
-/
namespace Sys2Proof.Machine

/-- Groups that the configuration populates. -/
def Dev.popGroups (d : Dev) : List Nat := (List.range 32).filter fun g => (d.grp g).populated

/-- P: physical tracts at width 10 of the populated groups (R196). -/
def Dev.pTotal (d : Dev) : Nat := 524288 * d.popGroups.length

/-- L_user (R196). -/
def Dev.lUser (d : Dev) : Nat := d.pTotal * 7 / 8

/-- First DPA of the volatile partition (R38). -/
def volBase : Nat := 0xF0000000000

/-- Title window n: first and last tract, and its fields (LNK_TWIN_*). -/
structure Win where
  n : Nat
  lo : Nat
  hi : Nat
  key : Nat
  mask : Nat
  wt : Bool
  mode : Nat
  en : Bool
  deriving DecidableEq, Repr

/-- A window as its registers stand. -/
def Dev.win (d : Dev) (n : Nat) : Win :=
  let c := (d.reg (LNK_TWIN_CTL n)).toNat
  { n := n, lo := d.reg64 (LNK_TWIN_BASE_LO n) / 2 ^ 20 % 2 ^ 24, hi := d.reg64 (LNK_TWIN_LIMIT_LO n) / 2 ^ 20 % 2 ^ 24,
    key := bits c 19 8, mask := bits c 5 4, wt := bit c 3, mode := bits c 2 1, en := bit c 0 }

/-- A window names a head (R41): in single mode bit 5 is ignored, in bonded mode either bit names both heads. -/
def winNames (F : Fuses) (d : Dev) (w : Win) (h : Head) : Bool :=
  match portMode F d with
  | .single => bit w.mask 0 && decide (h = .a)
  | .bonded => decide (w.mask ≠ 0)
  | .dualHead => bit w.mask (hIdx h)

/-- The windows that are enabled. -/
def Dev.wins (d : Dev) : List Win := ((List.range 64).map d.win).filter (·.en)

/-- The enabled window that covers a DPA on a head (R40). -/
def windowAt (F : Fuses) (d : Dev) (h : Head) (dpa : Nat) : Option Win :=
  d.wins.find? fun w => winNames F d w h && decide (w.lo ≤ dpa / 2 ^ 20 ∧ dpa / 2 ^ 20 ≤ w.hi)

/-- The enabled window that covers a DPA on any head. -/
def Dev.windowOf (d : Dev) (dpa : Nat) : Option Win :=
  d.wins.find? fun w => decide (w.lo ≤ dpa / 2 ^ 20 ∧ dpa / 2 ^ 20 ≤ w.hi)

/-- First DPA of a window. -/
def Win.base (w : Win) : Nat := w.lo * 2 ^ 20

/-- Key index of a line in a window: below a rekey boundary the new slot (R252). -/
def Dev.winKey (d : Dev) (w : Win) (dpa : Nat) : Nat :=
  match d.sec.rekey with
  | some r => if r.win = w.n ∧ dpa < r.bnd then r.slot else w.key
  | none => w.key

/-- Key index and base of a request (R231). -/
def Dev.keyBase (d : Dev) (w : Option Win) (dpa : Nat) : Nat × Nat :=
  match w with
  | some x => if x.mode = 0 then (0, 0) else (d.winKey x dpa, x.base)
  | none => (0, 0)

/-- The key index with which an entry is written back: the rekey boundary's where its line lies in the window being
rekeyed (R252). -/
def Dev.wbKey (d : Dev) (key dpa : Nat) : Nat :=
  match d.sec.rekey with
  | some r =>
    let w := d.win r.win
    if w.lo ≤ dpa / 2 ^ 20 ∧ dpa / 2 ^ 20 ≤ w.hi then (if dpa < r.bnd then r.slot else w.key) else key
  | none => key

/-- Where a head's DPA leads (R37, R38). -/
inductive Place where
  /-- Persistent space. -/
  | persist
  /-- Shared region without a window naming the head. -/
  | sharedHidden
  /-- A scratch line: way × 65536 + line. -/
  | scratch (i : Nat)
  /-- An unbacked volatile address, or an address that maps to no storage. -/
  | nothing
  deriving DecidableEq, Repr

/-- Ways converted for a head, ascending (R83). -/
def Dev.scrWays (F : Fuses) (d : Dev) (h : Head) : List Nat :=
  [8, 9, 10].filter fun w =>
    bit d.cache.scrAct (w - 8) && (portMode F d ≠ .dualHead || decide (b2n (bit d.cache.scrHeadB (w - 8)) = hIdx h))

/-- A head's whole volatile partition behaves as unbacked while its way set changes (R84). -/
def Dev.scrChanging (F : Fuses) (d : Dev) (h : Head) : Bool :=
  if portMode F d = .dualHead then (match h with
    | .a => d.cache.scrChgA
    | .b => d.cache.scrChgB)
  else d.cache.scrChgA || d.cache.scrChgB

/-- Persistent capacity in tracts reachable as DPA space (R38). -/
def placeOf (F : Fuses) (d : Dev) (h : Head) (dpa : Nat) : Place :=
  if dpa / 2 ^ 20 < d.lUser then
    if portMode F d = .dualHead ∧ d.pwr.board.share * 1024 ≤ dpa / 2 ^ 20 ∧ (windowAt F d h dpa).isNone then .sharedHidden
    else .persist
  else if volBase ≤ dpa ∧ dpa < volBase + 2 ^ 28 then
    let o := dpa - volBase
    if d.scrChanging F h then .nothing
    else match (d.scrWays F h)[o / 2 ^ 22]? with
      | some w => .scratch (w * 65536 + o % 2 ^ 22 / 64)
      | none => .nothing
  else .nothing

/-! ## Tracts -/

/-- Physical tracts of a group of width w (R197). -/
def physPer (w : Nat) : Nat := 2 ^ 27 / rowsOf w

/-- A tract's entry, header, written bits and a physical record. -/
def Dev.ent (d : Dev) (t : Nat) : TEntry := Tbl.look {} d.tracts.cur.ent t
/-- Header of a logical tract. -/
def Dev.hdr (d : Dev) (t : Nat) : THeader := Tbl.look {} d.tracts.cur.hdr t
/-- Written bits of a logical tract as a 16,384-bit number. -/
def Dev.wbits (d : Dev) (t : Nat) : Nat := Tbl.look 0 d.tracts.cur.bits t
/-- Physical record of index i of group g. -/
def Dev.phys (d : Dev) (g i : Nat) : PhysRec := Tbl.look {} d.tracts.cur.phys (physKey g i)

/-- Replace the current metadata. -/
def Dev.setMeta (d : Dev) (m : Meta) : Dev := { d with tracts := { d.tracts with cur := m } }

/-- Line numbers of the metadata area (R202): table lines from 0, then header lines, bitmap lines, physical records. -/
def tableLine (t : Nat) : Nat := t / 16
/-- Header line of a tract. -/
def headerLine (t : Nat) : Nat := 2 ^ 24 + t / 4
/-- Bitmap line of a tract and line. -/
def bitmapLine (t i : Nat) : Nat := 2 ^ 26 + t * 32 + i / 512
/-- Line of a physical record. -/
def physLine (g i : Nat) : Nat := 2 ^ 30 + physKey g i / 8

/-- Copy the content of one metadata line from one set of tables to another (R202). -/
def copyMeta (src dst : Meta) (id : Nat) : Meta :=
  if id < 2 ^ 24 then
    { dst with ent := (List.range 16).foldl (fun t k => Tbl.put {} t (16 * id + k) (Tbl.look {} src.ent (16 * id + k))) dst.ent }
  else if id < 2 ^ 26 then
    let b := 4 * (id - 2 ^ 24)
    { dst with hdr := (List.range 4).foldl (fun t k => Tbl.put {} t (b + k) (Tbl.look {} src.hdr (b + k))) dst.hdr }
  else if id < 2 ^ 30 then
    let t := (id - 2 ^ 26) / 32
    let k := (id - 2 ^ 26) % 32
    let v := bits (Tbl.look 0 src.bits t) (512 * k + 511) (512 * k)
    { dst with bits := Tbl.upd 0 dst.bits t fun x => setBits x (512 * k + 511) (512 * k) v }
  else
    let b := 8 * (id - 2 ^ 30)
    { dst with phys := (List.range 8).foldl (fun t k => Tbl.put {} t (b + k) (Tbl.look {} src.phys (b + k))) dst.phys }

/-- Touch a metadata line in the translation cache: most recently used first; `dirty` marks it changed (R203). The cache has 8,192 sets of 16
ways, and the line's number modulo 8,192 is taken for its set (log entry 88, DESIGN CHOICE). The least recently used line of a full set is
evicted, and written back to both copies where it is dirty. -/
def Dev.tcTouch (d : Dev) (id : Nat) (dirty : Bool) : Dev :=
  let t := d.tracts
  let old := (t.tc.find? fun l => l.id == id).getD ⟨id, none⟩
  let l : TcLine := ⟨id, if dirty then some (old.dirty.getD d.tether.now) else old.dirty⟩
  let all := l :: t.tc.filter fun x => x.id != id
  match (all.filter fun x => x.id % 8192 == id % 8192)[16]? with
  | none => { d with tracts := { t with tc := all } }
  | some v => { d with tracts := { t with tc := all.filter fun x => x.id != v.id
                                          media := if v.dirty.isSome then copyMeta t.cur t.media v.id else t.media } }

/-- A lookup of a tract's entry, and of header and bitmap where in use (R203): hits, or misses that fetch. -/
def Dev.tcLookup (d : Dev) (t i : Nat) : Dev :=
  let need := if (d.ent t).hdr then [tableLine t, headerLine t, bitmapLine t i] else [tableLine t]
  let hit := need.all fun id => d.tracts.tc.any fun l => l.id == id
  let d1 := need.foldl (fun d id => d.tcTouch id false) d
  if hit then d1.count 0x0C0 else (d1.count 0x0C1).bump MTL_TC_MISS_CNT

/-- Replace a tract's entry. -/
def Dev.setEnt (d : Dev) (t : Nat) (e : TEntry) : Dev :=
  (d.setMeta { d.tracts.cur with ent := Tbl.put {} d.tracts.cur.ent t e }).tcTouch (tableLine t) true

/-- Is a header the unused one (R200)? -/
def THeader.unused (h : THeader) : Bool :=
  decide (h.gap = 16384 ∧ h.start = 0) && h.ctr.isNone && !h.part && !h.voidMeta

/-- The entry's hdr bit: a header is in use (R199). -/
def Dev.fixHdr (d : Dev) (t : Nat) : Dev :=
  let e := d.ent t
  let u := !(d.hdr t).unused && decide (e.kind ≠ 0)
  if e.hdr = u then d else d.setEnt t { e with hdr := u }

/-- Replace a tract's header. -/
def Dev.setHdr (d : Dev) (t : Nat) (h : THeader) : Dev :=
  ((d.setMeta { d.tracts.cur with hdr := Tbl.put {} d.tracts.cur.hdr t h }).tcTouch (headerLine t) true).fixHdr t

/-- Set or clear a line's written bit (R205). -/
def Dev.setWritten (d : Dev) (t i : Nat) (b : Bool) : Dev :=
  let v := setBits (d.wbits t) i i (b2n b)
  let d1 := (d.setMeta { d.tracts.cur with bits := Tbl.put 0 d.tracts.cur.bits t v }).tcTouch (bitmapLine t i) true
  let part := decide (v ≠ 2 ^ 16384 - 1)
  if (d1.hdr t).part = part then d1 else d1.setHdr t { d1.hdr t with part := part }

/-- Replace a physical record. -/
def Dev.setPhys (d : Dev) (g i : Nat) (r : PhysRec) : Dev :=
  (d.setMeta { d.tracts.cur with phys := Tbl.put {} d.tracts.cur.phys (physKey g i) r }).tcTouch (physLine g i) true

/-- A line's written bit. -/
def Dev.isWritten (d : Dev) (line : Nat) : Bool := bit (d.wbits (line / 16384)) (line % 16384)

/-- The slot of logical line i (R206); 16,384 is the gap slot. -/
def slotOf (h : THeader) (i : Nat) : Nat :=
  let p := (i + h.start) % 16384
  if h.gap ≤ p then p + 1 else p

/-- The logical line that a slot holds; none for the gap (R206). -/
def lineOfSlot (h : THeader) (p : Nat) : Option Nat :=
  if p = h.gap then none else some (((if h.gap < p then p - 1 else p) + 16384 - h.start) % 16384)

/-- A place on media: group, page address, slot of the page, data index, width, mode. -/
structure Loc where
  g : Nat
  pa : Nat
  slot : Nat
  idx : Nat
  w : Nat
  slc : Bool
  deriving DecidableEq, Repr

/-- Slot n of physical tract t of a group at width w (R198). -/
def locIn (g t w : Nat) (slc : Bool) (n : Nat) : Loc :=
  let per := 8 * (w - 2)
  let r := n / per
  let k := n % per
  { g := g, pa := t * rowsOf w + (if slc then 2 * r else r), slot := k % 8, idx := k / 8, w := w, slc := slc }

/-- Line x of an area in a group (R198, R446). -/
def areaLoc (a : Area) (x : Nat) : Loc := locIn a.group (a.first + 2 * (x / 16384)) a.width true (x % 16384)

/-- Line t of a group's gap region (R198). -/
def Dev.gapLoc (d : Dev) (g t : Nat) : Loc :=
  match d.tracts.areas.find? fun a => a.area == 2 && a.group == g with
  | some a => areaLoc a t
  | none => locIn g 0 (d.grp g).width true t

/-- Slot n of the home an entry names; slot 16,384 lies in the gap region. -/
def Dev.homeLoc (d : Dev) (e : TEntry) (n : Nat) : Loc :=
  if n = 16384 then d.gapLoc e.group e.index else locIn e.group e.index (10 - e.wd) (decide (e.kind = 2)) n

/-- The place of logical line `line`, of a tract with a home. -/
def Dev.lineLoc (d : Dev) (line : Nat) : Loc :=
  let t := line / 16384
  d.homeLoc (d.ent t) (slotOf (d.hdr t) (line % 16384))

/-- The channel positions that members of a tract of width w have in a group (R142, R163): the group's members; for a
tract narrower than the group, without the members that failed first; for a tract wider than the group, with the lowest
other positions beside them (log entry 14). -/
def Dev.positions (d : Dev) (g w : Nat) : List Nat :=
  let x := (d.grp g).members
  let out := (d.failedIn g).take (pop10 x - w)
  let extra := ((List.range 10).filter fun p => !bit x p).take (w - pop10 x)
  (List.range 10).filter fun p => (bit x p && !out.contains p) || extra.contains p

/-- Stripe number of a place (R143). -/
def Loc.stripe (l : Loc) : Nat := 8 * l.pa + l.slot

/-- Channel position of data line i of a place's stripe (R143). -/
def Dev.dataPos (d : Dev) (l : Loc) (i : Nat) : Nat :=
  (d.positions l.g l.w).getD ((l.stripe + 2 + i) % l.w) 0

/-- Channel position of P. -/
def Dev.pPos (d : Dev) (l : Loc) : Nat := (d.positions l.g l.w).getD (l.stripe % l.w) 0
/-- Channel position of Q. -/
def Dev.qPos (d : Dev) (l : Loc) : Nat := (d.positions l.g l.w).getD ((l.stripe + 1) % l.w) 0

/-- What an open-row entry supplies for a line (R150). -/
def Dev.rowLine (d : Dev) (g pa p slot : Nat) : Option MediaLine :=
  match d.media.rows.find? fun r => r.g == g && r.pa == pa with
  | some r => (r.lines.find? fun e => e.1 == 8 * p + slot).map (·.2)
  | none => none

/-- The logical lines of some tracts whose slot is data line i of a place's stripe, the tracts' home holding its row (R198, R206): several where
tracts share the home. -/
def Dev.linesAt (d : Dev) (ts : List Nat) (l : Loc) (i : Nat) : List Nat :=
  ts.filterMap fun t =>
    let e := d.ent t
    let w := 10 - e.wd
    let r := (l.pa - e.index * rowsOf w) / (if e.kind = 2 then 2 else 1)
    let n := r * (8 * (w - 2)) + 8 * i + l.slot
    if n < 16384 then (lineOfSlot (d.hdr t) n).map (16384 * t + ·) else none

/-- An open row's page has failed verification: what its cells hold is undefined (R151). -/
def Dev.rowBad (d : Dev) (g pa p : Nat) : Bool :=
  d.media.rows.any fun r => r.g == g && r.pa == pa && (bit r.failed p || bit r.lost p)

/-- The stored 80 bytes at a position of a place. -/
def Dev.stored (d : Dev) (l : Loc) (p : Nat) : MediaLine :=
  match d.rowLine l.g l.pa p l.slot with
  | some v => v
  | none => (d.die (dieOf l.g p)).slot d.fresh (dieOf l.g p) l.pa l.slot (if l.slc then .slc else .mlc)

/-- A member line of a stripe: unknown where its die is unavailable, its page failed verification or its decode failed, unless an open-row
entry supplies it (R150 to R152). -/
def Dev.memberLine (d : Dev) (l : Loc) (unk p : Nat) : Option MediaLine :=
  match d.rowLine l.g l.pa p l.slot with
  | some v => some v
  | none => if d.posUnavail l.g p || d.rowBad l.g l.pa p || bit unk p then none else some (d.stored l p)

/-- Data line `l.idx` rebuilt from its stripe, of which `m` gives the line of each other position where it is known (R152): none where more than
two lines are unknown. -/
def Dev.rebuildBy (d : Dev) (l : Loc) (m : Nat → Option MediaLine) : Option MediaLine :=
  let home := d.dataPos l l.idx
  let ds := (List.range (l.w - 2)).map fun i => if i = l.idx then d.rowLine l.g l.pa home l.slot else m (d.dataPos l i)
  match stripeSolve (m (d.pPos l)) (m (d.qPos l)) ds with
  | some v => v[l.idx]?
  | none => none

/-- A line rebuilt from the members that are available (R152). -/
def Dev.rebuild (d : Dev) (l : Loc) (unk : Nat) : Option MediaLine := d.rebuildBy l (d.memberLine l unk)

/-- A line rebuilt from every live member, each read in its own phase (R154, R181); `good` marks those whose decode succeeded. -/
def Dev.rebuildLive (d : Dev) (l : Loc) (good : Nat) : Option MediaLine :=
  d.rebuildBy l fun p => match d.rowLine l.g l.pa p l.slot with
    | some v => some v
    | none => if bit (d.grp l.g).failedM p || d.rowBad l.g l.pa p || !bit good p then none else some (d.stored l p)

/-- What a read of a place gives: the stored line by a direct read, the line rebuilt by read-around, nothing known, or a
failed home in a lost group (R25). -/
inductive Got where
  | direct (x : MediaLine)
  | around (x : MediaLine)
  | unknown
  | lost
  deriving DecidableEq, Repr

/-- Read a place given the home line's verdict and the other lines' unknown mask (R152, R173). -/
def Dev.readLoc (d : Dev) (l : Loc) (v : Verdict) (unk : Nat) : Got :=
  let p := d.dataPos l l.idx
  match d.rowLine l.g l.pa p l.slot with
  | some x => .direct x
  | none =>
    if (d.grp l.g).units ≥ 3 ∧ bit (d.grp l.g).failedM p then .lost
    else if !d.posUnavail l.g p ∧ !d.rowBad l.g l.pa p ∧ v ≠ .bad then .direct (d.stored l p)
    else match d.rebuild l unk with
      | some x => .around x
      | none => .unknown

/-! ## The copies of the metadata (R202, R204, R446) -/

/-- Number of a metadata line within its area: the structures lie in the order in which R202 lists them (log entry 89, DEDUCED). -/
def Dev.metaIndex (d : Dev) (id : Nat) : Nat :=
  let n := d.lUser
  if id < 2 ^ 24 then id
  else if id < 2 ^ 26 then n / 16 + (id - 2 ^ 24)
  else if id < 2 ^ 30 then n / 16 + n / 4 + (id - 2 ^ 26)
  else
    let k := id - 2 ^ 30
    n / 16 + n / 4 + 32 * n + (d.popGroups.idxOf (k / 65536)) * 65536 + k % 65536

/-- The group that holds copy B of the lines of which a group holds copy A: that of the same die position in the next populated quadrant that
has one (R446). -/
def Dev.copyBGroup (d : Dev) (g : Nat) : Nat :=
  (([1, 2, 3].map fun k => 8 * ((g / 8 + k) % 4) + g % 8).find? fun x => (d.grp x).populated).getD g

/-- The part of an area that holds its line x, and the line's number in it: the lines are assigned to the parts in ascending order (R446). -/
def partOf : List Area → Nat → Option (Area × Nat)
  | [], _ => none
  | a :: r, x => if x < a.pairs * 16384 then some (a, x) else partOf r (x - a.pairs * 16384)

/-- Where copy A and copy B of a metadata line lie: copy B 16 slots further in its tract (R446). -/
def Dev.metaLocs (d : Dev) (id : Nat) : Option (Loc × Loc) :=
  match partOf (d.tracts.areas.filter fun a => a.area == 0) (d.metaIndex id) with
  | none => none
  | some (a, y) =>
    (d.tracts.areas.find? fun b => b.area == 1 && b.group == d.copyBGroup a.group).map fun b =>
      (areaLoc a y, areaLoc b (y / 16384 * 16384 + (y % 16384 + 16) % 16384))

/-- Neither copy of a metadata line can be fetched directly: the member of one has failed and that of the other is programming (R204). -/
def Dev.metaAround (d : Dev) (id : Nat) : Bool :=
  match d.metaLocs id with
  | none => false
  | some (a, b) =>
    let gone (l : Loc) : Bool := bit (d.grp l.g).failedM (d.dataPos l l.idx)
    let busy (l : Loc) : Bool :=
      let m := dieOf l.g (d.dataPos l l.idx)
      !gone l && ((d.die m).busy || d.longOp m)
    (gone a && busy b) || (gone b && busy a)

/-- A read's translation reads a metadata copy around: it is counted in MCH_TRANS_CNT (R94, R204). A fetch uses no copy whose member is
unavailable; either copy gives the same line. -/
def Dev.metaRead (d : Dev) (t i : Nat) : Dev :=
  let need := if (d.ent t).hdr then [tableLine t, headerLine t, bitmapLine t i] else [tableLine t]
  if need.any fun id => !(d.tracts.tc.any fun l => l.id == id) && d.metaAround id then d.bump MCH_TRANS_CNT else d

/-- Drift class of the physical tract of a home, 15 when not surveyed (R182). -/
def Dev.driftClass (d : Dev) (g i : Nat) : Nat :=
  let v := Tbl.look 0 d.drift.cls (physKey g i)
  if v = 0 then 15 else v - 1

/-- Drift class that the ledger last saved for a physical tract; 15: none (R183). -/
def Dev.savedClass (d : Dev) (g i : Nat) : Nat :=
  let v := Tbl.look 0 d.drift.saved (physKey g i)
  if v = 0 then 15 else v - 1

/-- Threshold sets of the ladder for a saved class c (R186): c, c + 2, c + 4, c + 6 and c − 2, each clamped to 0 to 14; c is 7 where none was
saved. -/
def ladder (saved : Nat) : List Nat :=
  let c := if saved = 15 then 7 else saved
  [min c 14, min (c + 2) 14, min (c + 4) 14, min (c + 6) 14, min (c - 2) 14]

/-- The threshold set with which a tract's lines are read (R184, R186): that of its class, or of the rung of the ladder while it is not surveyed. -/
def Dev.readSet (d : Dev) (t rung : Nat) : Nat :=
  let e := d.ent t
  let c := d.driftClass e.group e.index
  if c = 15 then (ladder (d.savedClass e.group e.index)).getD rung 7 else c

/-- Group and kind of a logical tract: degraded (R24). -/
def Dev.degraded (d : Dev) (line : Nat) : Bool :=
  let e := d.ent (line / 16384)
  decide (e.kind = 1 ∨ e.kind = 2) && decide ((d.grp e.group).units = 2)

/-! ## Capacity (R223 to R226) -/

/-- Does a physical tract, at the width at which its group is laid out, share page rows with the fixed reserve (R446)? -/
def Dev.inReserve (d : Dev) (g i : Nat) : Bool :=
  let r := rowsOf (d.grp g).layWidth
  d.tracts.areas.any fun a => a.group == g && decide (a.first * rowsOf a.width < (i + 1) * r) &&
    decide (i * r < (a.first + 2 * a.pairs) * rowsOf a.width)

/-- Physical tracts of a group at its width. -/
def Dev.physCount (d : Dev) (g : Nat) : Nat := physPer (d.grp g).layWidth

/-- A group whose tracts may be taken: populated, present, neither lost nor to be emptied (R165, R219). -/
def Dev.usable (d : Dev) (g : Nat) : Bool := (d.grp g).populated && !(d.grp g).absent && !(d.grp g).emptying

/-- Groups that allocation may use: the usable ones of a non-degraded quadrant (R219). -/
def Dev.allocGroups (d : Dev) : List Nat :=
  d.popGroups.filter fun g =>
    d.usable g &&
      !((List.range 8).any fun k => decide (2 ≤ (d.grp (8 * (g / 8) + k)).units) && !(d.grp (8 * (g / 8) + k)).absent)

/-- Reserve tracts of a group. -/
def Dev.reserveOf (d : Dev) (g : Nat) : Nat :=
  (d.tracts.areas.filter fun a => a.group == g).foldl (fun n a => n + 2 * a.pairs) 0

/-- Listed physical records of a group. -/
def Dev.physOf (d : Dev) (g : Nat) : List (Nat × PhysRec) :=
  (d.tracts.cur.phys.filter fun e => e.1 / 2 ^ 19 == g).map fun e => (e.1 % 2 ^ 19, e.2)

/-- F doubled (R223): twice the free tracts in MLC service, plus the free demoted tracts. -/
def Dev.free2 (d : Dev) : Nat :=
  (d.allocGroups.map fun g =>
    let listed := (d.physOf g).filter fun e => !d.inReserve g e.1
    let used := (listed.filter fun e => decide (e.2.state ≠ 0)).length
    let dem := (listed.filter fun e => decide (e.2.state = 8)).length
    2 * (d.physCount g - d.reserveOf g - used) + dem).foldl (· + ·) 0

/-- Z: logical tracts in SLC (R209). -/
def Dev.zone (d : Dev) : Nat := (d.tracts.cur.ent.filter fun e => decide (e.2.kind = 2)).length

/-- F and U, rounded down (R223). -/
def Dev.freeF (d : Dev) : Nat := d.free2 / 2
/-- U. -/
def Dev.availU (d : Dev) : Nat := d.freeF + d.zone

/-- Reserve floor: 0.25% of P (R224). -/
def Dev.floorOf (d : Dev) : Nat := d.pTotal / 400

/-- Staged entries. -/
def Dev.stagedList (d : Dev) : List (Nat × GEntry) :=
  d.gon.staged.filterMap fun e => e.2.map fun g => (e.1, g)

/-- P_home (R225). -/
def Dev.pHome (d : Dev) : Nat :=
  let l := d.stagedList
  let tr := ((l.filter fun e => e.2.translated).map fun e => e.1 / 16384).dedup
  let need := tr.filter fun t =>
    let e := d.ent t
    decide (e.kind = 0 ∨ e.kind = 3) || e.shr
  need.length + (l.filter fun e => !e.2.translated).length

/-- Room for one more home while not sealed (R225). -/
def Dev.homeRoom (d : Dev) : Bool := d.tracts.sealed || decide (1024 + d.pHome < d.availU)

end Sys2Proof.Machine
end

