-- ==== Sys2Proof/Machine/CacheOps.lean ====
section
/-!
DEFINITION. The clean stores: the sectored cache with its replacement (R79), the compatibility buffer (R87), transit and
Ballast (R89 to R91), clearing by a write (R82) and by an invalidation (R92).
-/
namespace Sys2Proof.Machine

/-- Sector of a line number. -/
def sectorOf (line : Nat) : Nat := line / 64

/-- Set of a sector: DPA[21:12] XOR DPA[31:22] (R79). -/
def setOf (sec : Nat) : Nat := Nat.xor (sec % 1024) (sec / 1024 % 1024)

/-- Key of a way of a set. -/
def wayKey (set w : Nat) : Nat := 12 * set + w

/-- Ways in sectored use (R80, R82, R84, R86): not way 0 in compatibility mode, not converted or converting ways, and not a way with a failed
macro, whose lines are all misses (log entry 70). -/
def Dev.sectorWays (d : Dev) : List Nat :=
  (List.range 11).filter fun w =>
    if d.cache.badWays.contains w then false
    else if w = 0 then !d.cache.compatAct && !(d.cache.compatBusy && d.rbit LIN_CACHE_CFG 0)
    else if 8 ≤ w then !bit d.cache.scrAct (w - 8) && !d.rbit LIN_SCR_CTL (w - 8)
    else true

/-- A scratch line becomes poison, with its origin (R177, R194). -/
def Cache.scrMark (c : Cache) (i origin : Nat) : Cache :=
  { c with scrPoison := (c.scrPoison.filter (· != i)) ++ [i], scrCause := Tbl.put 11 c.scrCause i origin }

/-- Origin of a poisoned scratch line. -/
def Cache.scrOrigin (c : Cache) (i : Nat) : Nat := Tbl.look 11 c.scrCause i

/-- Replace the cache. -/
def Dev.setCache (d : Dev) (c : Cache) : Dev := { d with cache := c }

/-- A way of a set. -/
def Dev.way (d : Dev) (set w : Nat) : Way := Tbl.look {} d.cache.ways (wayKey set w)

/-- Replace a way. -/
def Dev.setWay (d : Dev) (set w : Nat) (x : Way) : Dev :=
  d.setCache { d.cache with ways := Tbl.put {} d.cache.ways (wayKey set w) x }

/-- The way that holds a sector. -/
def Dev.findWay (d : Dev) (sec : Nat) : Option Nat :=
  d.sectorWays.find? fun w => (d.way (setOf sec) w).used && (d.way (setOf sec) w).sec.num == sec

/-- A hit or fill sets the way's MRU bit; where that would leave every bit set, the others are cleared (R79). -/
def Dev.touchWay (d : Dev) (set w : Nat) : Dev :=
  let d1 := d.setWay set w { d.way set w with mru := true }
  if d1.sectorWays.all fun v => (d1.way set v).mru then
    d1.sectorWays.foldl (fun d v => if v = w then d else d.setWay set v { d.way set v with mru := false }) d1
  else d1

/-- Ballast entries that are not taken by a sector on its way there (R89, R91). -/
def Cache.ballastRoom (c : Cache) : Nat := 128 - c.transit.length

/-- An evicted sector with a valid line goes into transit toward a Ballast entry, which it takes at once: where all 128 are in use the
oldest is dropped (R79, R89). -/
def Dev.evict (d : Dev) (s : Sector) : Dev :=
  if s.valid = 0 then d
  else
    let c := { d.cache with transit := d.cache.transit ++ [s] }
    d.setCache { c with ballast := c.ballast.take c.ballastRoom }

/-- A sector takes a way of its set: its old sector is evicted. An allocation is neither a hit nor a fill, so no MRU bit is set (R79). -/
def Dev.takeWay (d : Dev) (s : Sector) (w : Nat) : Dev :=
  let old := d.way (setOf s.num) w
  let d1 := if old.used then d.evict old.sec else d
  d1.setWay (setOf s.num) w { old with used := true, sec := s }

/-- A way of a set that holds no valid line. -/
def Dev.emptyWay (d : Dev) (set w : Nat) : Bool := !(d.way set w).used || (d.way set w).sec.valid == 0

/-- A sector takes a way of its set: the lowest without a valid line, else the lowest whose MRU bit is 0 (R79). The rule names no victim
where neither exists, which only ways that leave sectored use can bring about: the sector then goes the way of an evicted one
(log entry 71, DESIGN CHOICE). -/
def Dev.placeSector (d : Dev) (s : Sector) : Dev :=
  let set := setOf s.num
  let ws := d.sectorWays
  match (ws.find? (d.emptyWay set)).or (ws.find? fun w => !(d.way set w).mru) with
  | none => d.evict s
  | some w => d.takeWay s w

/-- A sector has a fetch outstanding that is to be installed. -/
def Dev.filling (d : Dev) (sec : Nat) : Bool := d.cache.fetches.any fun f => sectorOf f.line == sec && f.fill && !f.stale

/-- A recalled sector returns to its set (R90, R91): its victim is the next by pseudo-LRU, and never a way that waits for a fill, so that the
read that displaced the sector is installed too. -/
def Dev.returnSector (d : Dev) (s : Sector) : Dev :=
  let set := setOf s.num
  let ws := d.sectorWays.filter fun w => !((d.way set w).used && d.filling (d.way set w).sec.num)
  match (ws.find? (d.emptyWay set)).or (ws.find? fun w => !(d.way set w).mru) with
  | none => d.placeSector s
  | some w => d.takeWay s w

/-- Compatibility buffer entry n. -/
def Dev.cmpEnt (d : Dev) (n : Nat) : CmpEntry := Tbl.look {} d.cache.cmp n

/-- Replace it. -/
def Dev.setCmp (d : Dev) (n : Nat) (x : CmpEntry) : Dev :=
  d.setCache { d.cache with cmp := Tbl.put {} d.cache.cmp n x }

/-- The compatibility entry that holds a sector. -/
def Dev.findCmp (d : Dev) (sec : Nat) : Option Nat :=
  if d.cache.compatAct then (List.range 48).find? fun n => (d.cmpEnt n).used && (d.cmpEnt n).sec.num == sec else none

/-- A use of a compatibility entry. -/
def Dev.useCmp (d : Dev) (n : Nat) : Dev :=
  let l := d.cache.lru + 1
  (d.setCmp n { d.cmpEnt n with lru := l }).setCache
    { (d.setCmp n { d.cmpEnt n with lru := l }).cache with lru := l }

/-- A sector enters the compatibility buffer: in a free entry, else in place of the least recently used unpinned one,
whose lines move to the sectored ways (R87). `fill` marks the page's other lines, to be fetched at fill rank. -/
def Dev.placeCmp (d : Dev) (s : Sector) (fill : BitVec 64) : Dev :=
  let free := (List.range 48).find? fun n => !(d.cmpEnt n).used
  let victim := ((List.range 48).filter fun n => !(d.cmpEnt n).pin).foldl (fun acc n => match acc with
    | none => some n
    | some m => if (d.cmpEnt n).lru < (d.cmpEnt m).lru then some n else some m) none
  match free, victim with
  | some n, _ => (d.setCmp n { used := true, sec := s, fill := fill }).useCmp n
  | none, some n =>
    let old := (d.cmpEnt n).sec
    let d1 := if old.valid = 0 then d else d.placeSector old
    (d1.setCmp n { used := true, sec := s, fill := fill }).useCmp n
  | none, none => d

/-- A read needs its sector resident: it is allocated, or moved whole into the compatibility buffer (R81, R87). -/
def Dev.allocSector (d : Dev) (sec : Nat) : Dev :=
  if d.cache.compatAct then
    if (d.findCmp sec).isSome then d else d.placeCmp { num := sec } (BitVec.allOnes 64)
  else if (d.findWay sec).isSome then d
  else d.placeSector { num := sec }

/-- Where a clean copy was found. -/
inductive Hit where | cmp (n : Nat) | way (w : Nat) | transit | ballast
  deriving DecidableEq, Repr

/-- The store that holds a sector (R64). -/
def Dev.findSector (d : Dev) (sec : Nat) : Option (Hit × Sector) :=
  match d.findCmp sec with
  | some n => some (.cmp n, (d.cmpEnt n).sec)
  | none =>
    match d.findWay sec with
    | some w => some (.way w, (d.way (setOf sec) w).sec)
    | none =>
      match d.cache.transit.find? fun s => s.num == sec with
      | some s => some (.transit, s)
      | none => (d.cache.ballast.find? fun s => s.num == sec).map fun s => (.ballast, s)

/-- A clean copy of a line, without moving anything (R63, R71). -/
def Dev.cleanLine (d : Dev) (line : Nat) : Option LineData :=
  match d.findSector (sectorOf line) with
  | some (_, s) => if s.valid.getLsbD (line % 64) then some (Tbl.look 0 s.data (line % 64)) else none
  | none => none

/-- A read found its sector: a hit of a line sets the way's MRU bit, a sector in transit or Ballast is recalled, and in compatibility mode
the sector moves whole into the buffer; where its line is not valid there, the page's other lines are to be fetched too (R79, R87, R90,
R91). -/
def Dev.recall (d : Dev) (hit : Hit) (s : Sector) (line : Nat) : Dev :=
  let c := d.cache
  let valid := s.valid.getLsbD (line % 64)
  let toCmp (d : Dev) : Dev := d.placeCmp s (if valid then 0 else ~~~ s.valid)
  let back (d : Dev) : Dev :=
    let d1 := d.returnSector s
    match (if valid then d1.findWay s.num else none) with
    | some w => d1.touchWay (setOf s.num) w
    | none => d1
  match hit with
  | .cmp n => d.useCmp n
  | .way w =>
    if c.compatAct then toCmp (d.setWay (setOf s.num) w {})
    else if valid then d.touchWay (setOf s.num) w else d
  | .transit =>
    let d1 := d.setCache { c with transit := c.transit.filter fun x => x.num != s.num }
    if c.compatAct then toCmp d1 else back d1
  | .ballast =>
    let d1 := d.setCache { c with ballast := c.ballast.filter fun x => x.num != s.num }
    if c.compatAct then toCmp d1 else back d1

/-- The sector of a line becomes resident for a read: recalled or moved where a clean store holds it, else allocated (R64, R81, R87, R90). -/
def Dev.bring (d : Dev) (line : Nat) : Dev :=
  match d.findSector (sectorOf line) with
  | some (hit, s) => d.recall hit s line
  | none => d.allocSector (sectorOf line)

/-- A stream, Copy or Verify read takes a hit where it finds one, and moves nothing (R81): its use is recorded. -/
def Dev.useHit (d : Dev) (line : Nat) : Dev :=
  match d.findSector (sectorOf line) with
  | some (.cmp n, s) => if s.valid.getLsbD (line % 64) then d.useCmp n else d
  | some (.way w, s) => if s.valid.getLsbD (line % 64) then d.touchWay (setOf s.num) w else d
  | _ => d

/-- The event a hit counts (R398). -/
def Hit.event : Hit → Nat
  | .cmp _ => 0x081
  | .way _ => 0x081
  | .transit => 0x083
  | .ballast => 0x082

/-- A line of a sector set valid with its data. -/
def Sector.fillLine (s : Sector) (i : Nat) (x : LineData) : Sector :=
  { s with valid := s.valid ||| BitVec.ofNat 64 (2 ^ (i % 64)), data := Tbl.put 0 s.data (i % 64) x }

/-- A line of a sector no longer valid. -/
def Sector.dropLine (s : Sector) (i : Nat) : Sector :=
  { s with valid := s.valid &&& ~~~ (BitVec.ofNat 64 (2 ^ (i % 64))), data := Tbl.put 0 s.data (i % 64) 0 }

/-- Install a line where its sector is resident in the compatibility buffer or the sectored ways (R76, R81). -/
def Dev.install (d : Dev) (line : Nat) (x : LineData) : Dev :=
  let sec := sectorOf line
  match d.findCmp sec with
  | some n =>
    let e := d.cmpEnt n
    let f := e.fill &&& ~~~ (BitVec.ofNat 64 (2 ^ (line % 64)))
    d.setCmp n { e with sec := e.sec.fillLine line x, fill := f }
  | none =>
    match d.findWay sec with
    | some w =>
      let y := d.way (setOf sec) w
      (d.setWay (setOf sec) w { y with sec := y.sec.fillLine line x }).touchWay (setOf sec) w
    | none => d

/-- A page of the buffer leaves it once no line of it is pinned, valid or still to be fetched (R87). -/
def CmpEntry.settle (e : CmpEntry) : CmpEntry := if !e.pin && e.sec.valid == 0 && e.fill == 0 then {} else e

/-- A write passes the ordering point: the line's valid bit is cleared wherever it lies, and a fetch that was issued
before is not to be installed (R82). -/
def Dev.writeClears (d : Dev) (line : Nat) : Dev :=
  let sec := sectorOf line
  let f (s : Sector) : Sector := if s.num = sec then s.dropLine line else s
  let c := d.cache
  d.setCache { c with
    ways := Tbl.mapAll {} c.ways fun _ w => if w.used && w.sec.num == sec then { w with sec := f w.sec } else w,
    cmp := Tbl.mapAll {} c.cmp fun _ e => if e.used && e.sec.num == sec then CmpEntry.settle { e with sec := f e.sec } else e,
    transit := c.transit.map f, ballast := c.ballast.map f,
    fetches := c.fetches.map fun x => if x.line = line then { x with stale := true } else x }

/-- Fill token of a sector (R92). -/
def Dev.token (d : Dev) (sec : Nat) : Nat := Tbl.look 0 d.cache.token sec

/-- Clear the lines of [lo, hi] of one sector. -/
def Sector.clearRange (s : Sector) (lo hi : Nat) : Sector :=
  (List.range 64).foldl (fun s i => if lo ≤ 64 * s.num + i ∧ 64 * s.num + i ≤ hi then s.dropLine i else s) s

/-- An invalidation of lines lo to hi (R92, R88): every clean copy is cleared, covered pinned pages are unpinned and
cleared, and the fill token of each sector that holds a fetch or a copy is renewed. -/
def Dev.invalidate (d : Dev) (lo hi : Nat) : Dev :=
  let c := d.cache
  let inR (sec : Nat) := decide (lo / 64 ≤ sec ∧ sec ≤ hi / 64)
  let renew := (c.fetches.filter fun x => decide (lo ≤ x.line ∧ x.line ≤ hi) || inR (sectorOf x.line)).map fun x => sectorOf x.line
  d.setCache { c with
    ways := Tbl.mapAll {} c.ways fun _ w => if w.used && inR w.sec.num then { w with sec := w.sec.clearRange lo hi } else w,
    cmp := Tbl.mapAll {} c.cmp fun _ e =>
      if e.used && inR e.sec.num then CmpEntry.settle { e with pin := false, fill := 0, sec := e.sec.clearRange lo hi } else e,
    transit := c.transit.map fun s => if inR s.num then s.clearRange lo hi else s,
    ballast := c.ballast.map fun s => if inR s.num then s.clearRange lo hi else s,
    token := renew.dedup.foldl (fun t s => Tbl.upd 0 t s (· + 1)) c.token }

end Sys2Proof.Machine
end

