-- ==== Sys2Proof/Machine/Store.lean ====
section
/-!
DEFINITION. Storing a line: allocation of tracts (R217, R219), split counters (R244 to R248, R251), the check of a
line read (R243), encryption at write-back (R247), and the placing of a line in its stripe (R144 to R146).
-/
namespace Sys2Proof.Machine

/-! ## Allocation -/

/-- The lowest of a list of numbers by wear, then index: (wear, index). -/
def leastOf (l : List (Nat × Nat)) : Option (Nat × Nat) :=
  l.foldl (fun acc e => match acc with
    | none => some e
    | some a => if e.1 < a.1 ∨ (e.1 = a.1 ∧ e.2 < a.2) then some e else some a) none

/-- Would n tracts from index i, at the group's present width, share page rows with a home laid out at another width? -/
def Dev.clash (d : Dev) (g i n : Nat) : Bool :=
  let w := (d.grp g).layWidth
  d.tracts.cur.ent.any fun e =>
    let v := 10 - e.2.wd
    let k := if e.2.kind = 2 then 2 else 1
    decide ((e.2.kind = 1 ∨ e.2.kind = 2) ∧ e.2.group = g ∧ v ≠ w ∧ i * rowsOf w < (e.2.index + k) * rowsOf v ∧
      e.2.index * rowsOf v < (i + n) * rowsOf w)

/-- A tract is free in MLC service. -/
def Dev.isFree (d : Dev) (g i : Nat) : Bool :=
  decide ((d.phys g i).state = 0 ∧ (d.phys g i).wear < 200000 ∧ i < d.physCount g) && !d.inReserve g i && !d.clash g i 1

/-- Free tracts of a group in MLC service that matter for a choice: the listed free ones, and the lowest unlisted ones
(wear 0). As (wear, index). -/
def Dev.freeCands (d : Dev) (g : Nat) : List (Nat × Nat) :=
  let listed := d.physOf g
  let start := (d.tracts.areas.filter fun a => a.group == g).foldl (fun n a => max n (a.first + 2 * a.pairs)) 0
  let near := (start :: listed.map fun e => e.1 + 1).dedup
  let fresh := (near.filter fun i => d.isFree g i && !(listed.any fun e => e.1 == i)).map fun i => (0, i)
  let used := (listed.filter fun e => d.isFree g e.1).map fun e => (e.2.wear, e.1)
  fresh ++ used

/-- Free pairs of a group in MLC service: (wear of both, even index). -/
def Dev.pairCands (d : Dev) (g : Nat) : List (Nat × Nat) :=
  let starts := ((d.freeCands g).flatMap fun e => [e.2 / 2 * 2, e.2 / 2 * 2 + 2]).dedup
  (starts.filter fun i => d.isFree g i && d.isFree g (i + 1)).map fun i => ((d.phys g i).wear + (d.phys g (i + 1)).wear, i)

/-- Among groups with a candidate of equal least wear, the one that follows the last allocation of the need (R219). -/
def Dev.pickGroup (d : Dev) (need : Nat) (best : List (Nat × Nat × Nat)) : Option (Nat × Nat) :=
  match best.foldl (fun acc e => match acc with
    | none => some e.2.1
    | some w => some (min w e.2.1)) none with
  | none => none
  | some w =>
    let l := best.filter fun e => e.2.1 == w
    let last := Tbl.look 32 d.tracts.lastAlloc need
    match (l.find? fun e => decide (last < 32 ∧ last < e.1)), l.head? with
    | some e, _ => some (e.1, e.2.2)
    | none, some e => some (e.1, e.2.2)
    | none, none => none

/-- Choose a tract or pair for a need (R219): 0 MLC home, 1 SLC pair, 2 reserve or counter pair, 3 wear-levelling target.
A group may be named: it then qualifies though its quadrant is degraded, as the rebuild of a degraded group within itself needs (R166, log
entry 84). -/
def Dev.choose (d : Dev) (need : Nat) (only : Option Nat) : Option (Nat × Nat) :=
  let gs := match only with
    | some g => if d.usable g then [g] else []
    | none => d.allocGroups
  let cand (g : Nat) : Option (Nat × Nat × Nat) :=
    if need = 0 then (leastOf (d.freeCands g)).map fun e => (g, e.1, e.2)
    else if need = 3 then
      (leastOf (((d.freeCands g).filter fun e => decide (e.1 < 190000)).map fun e => (190000 - e.1, e.2))).map
        fun e => (g, e.1, e.2)
    else (leastOf (d.pairCands g)).map fun e => (g, e.1, e.2)
  match gs.filterMap cand with
  | [] => if only.isSome then
      d.pickGroup need (d.allocGroups.filterMap cand) else none
  | l => d.pickGroup need l

/-- Demoted pairs that are free (R216), for reserve areas and counter tracts; a group may be named. -/
def Dev.demotedPair (d : Dev) (only : Option Nat) : Option (Nat × Nat) :=
  (d.allocGroups.filter fun g => only.all (· == g)).findSome? fun g =>
    ((d.physOf g).find? fun e => decide (e.1 % 2 = 0 ∧ e.2.state = 8 ∧ (d.phys g (e.1 + 1)).state = 8)).map fun e => (g, e.1)

/-- Set the state and references of a physical tract, or of both of a pair. A demoted tract in use keeps a state of its own, 0x9 (R201). -/
def Dev.markPhys (d : Dev) (g i : Nat) (slc : Bool) (state refs : Nat) : Dev :=
  let one (d : Dev) (j : Nat) :=
    let r := d.phys g j
    d.setPhys g j { r with state := if r.state = 8 ∨ r.state = 9 then 9 else state, refs := refs }
  if slc then one (one d i) (i + 1) else one d i

/-- Free a physical tract or pair, and forget its drift class. -/
def Dev.freePhys (d : Dev) (g i : Nat) (slc : Bool) : Dev :=
  let one (d : Dev) (j : Nat) :=
    let d1 := d.setPhys g j (d.phys g j).freed
    { d1 with drift := { d1.drift with cls := Tbl.put 0 d1.drift.cls (physKey g j) 0 } }
  if slc then one (one d i) (i + 1) else one d i

/-- A physical tract that is first programmed after being free has drift class 0; both of a pair (R183). -/
def Dev.newClass (d : Dev) (g i : Nat) (slc : Bool) : Dev :=
  let one (d : Dev) (j : Nat) : Dev := { d with drift := { d.drift with cls := Tbl.put 0 d.drift.cls (physKey g j) 1 } }
  if slc then one (one d i) (i + 1) else one d i

/-- Take a tract for a need: entry of the new home, and the device with its record set. `state` is 1, 2, 3 or 5. -/
def Dev.take (d : Dev) (need state : Nat) (slc : Bool) (only : Option Nat) : Option (TEntry × Dev) :=
  match d.choose need only with
  | none => none
  | some (g, i) =>
    let d1 := d.markPhys g i slc state 1
    let d2 := { d1 with tracts := { d1.tracts with lastAlloc := Tbl.put 32 d1.tracts.lastAlloc need g } }
    some ({ kind := if slc then 2 else 1, wd := 10 - (d.grp g).layWidth, group := g, index := i }, d2.newClass g i slc)

/-- A pair for a counter tract (R219): a free demoted pair, else the least-worn free one. -/
def Dev.counterPair (d : Dev) (only : Option Nat) : Option ((Nat × Nat) × Dev) :=
  match d.demotedPair only with
  | some (g, i) => some ((g, i), (d.markPhys g i true 5 0).newClass g i true)
  | none =>
    match d.choose 2 only with
    | some (g, i) =>
      let d1 := d.markPhys g i true 5 0
      some ((g, i), Dev.newClass { d1 with tracts := { d1.tracts with lastAlloc := Tbl.put 32 d1.tracts.lastAlloc 2 g } } g i true)
    | none => none

/-! ## Split counters -/

/-- Place of a counter line on media: counter block and page of its tract. -/
def ctrKey (b : CtrBlock) (page : Nat) : Nat := ((physKey b.group b.pair) * 64 + b.block) * 256 + page % 256

/-- Place of a page's counter line: shared by the pages of a Snapshot and its image (R286). -/
def Dev.ctrPlace (d : Dev) (page : Nat) : Option Nat := (d.hdr (page / 256)).ctr.map fun b => ctrKey b page

/-- Write the dirty counter line at a place to its counter tract (R246). -/
def Dev.ctrSave (d : Dev) (p : Nat) : Dev :=
  match Tbl.look none d.sec.ctr p with
  | none => d
  | some c =>
    if c.dirty.isNone then d
    else { d with sec := { d.sec with ctrMedia := Tbl.put none d.sec.ctrMedia p (some c.kept),
                                      ctr := Tbl.put none d.sec.ctr p (some { c with dirty := none, segment := none }) } }

/-- A line leaves the counter cache, written to its counter tract first where it is dirty. -/
def Dev.ctrEvict (d : Dev) (p : Nat) : Dev :=
  let d1 := d.ctrSave p
  { d1 with sec := { d1.sec with ctr := Tbl.put none d1.sec.ctr p none } }

/-- The lines of the counter cache that share a set with a place: (place, last use). The cache has 2,048 sets of 16 ways (R246); the set is the place
modulo 2,048 (log entry 88). -/
def Sec.ctrSet (s : Sec) (p : Nat) : List (Nat × Nat) :=
  s.ctr.filterMap fun e => match e.2 with
    | some c => if e.1 % 2048 = p % 2048 then some (e.1, c.used) else none
    | none => none

/-- Enter a line in the counter cache; in a full set the least recently used line leaves (R246). -/
def Dev.ctrEnter (d : Dev) (p : Nat) (c : CtrCached) : Dev :=
  let set := d.sec.ctrSet p
  let d1 :=
    if (Tbl.look none d.sec.ctr p).isSome ∨ set.length < 16 then d
    else match leastOf (set.map fun e => (e.2, e.1)) with
      | some e => d.ctrEvict e.2
      | none => d
  { d1 with sec := { d1.sec with ctr := Tbl.put none d1.sec.ctr p (some { c with used := d1.sec.ctrUses }), ctrUses := d1.sec.ctrUses + 1 } }

/-- A page's counter line (R246): from the counter cache where it is held under this key index and base, or fetched and checked under them; none where
it cannot be read or fails its tag (R447). A line held under others is written back and fetched anew. -/
def Dev.ctrGet (d : Dev) (page key base : Nat) : Option CtrLine × Dev :=
  match d.ctrPlace page with
  | none => (none, (d.count 0x204).bump SEC_CTR_MISS_CNT)
  | some p =>
    let fetch (d : Dev) : Option CtrLine × Dev :=
      let d1 := (d.count 0x204).bump SEC_CTR_MISS_CNT
      match Tbl.look none d.sec.ctrMedia p with
      | none => (none, d1)
      | some m =>
        match d.openCtr key (page * 4096) base m with
        | none => (none, d1)
        | some c => (some c, d1.ctrEnter p { line := c, key := key, base := base, kept := m })
    match Tbl.look none d.sec.ctr p with
    | some c =>
      if c.key = key ∧ c.base = base then (some c.line, (d.ctrEnter p c).count 0x203) else fetch (d.ctrEvict p)
    | none => fetch d

/-- Write a counter line into the cache under a key index and base, dirty (R247). -/
def Dev.ctrPut (d : Dev) (page key base : Nat) (c : CtrLine) : Dev :=
  match d.ctrPlace page with
  | none => d
  | some p =>
    let since := match Tbl.look none d.sec.ctr p with
      | some x => x.dirty.getD d.tether.now
      | none => d.tether.now
    d.ctrEnter p { line := c, dirty := some since, key := key, base := base, kept := d.sealCtr key (page * 4096) base c }

/-- The counter lines of a block leave the cache and its tract (R222, R252). -/
def Dev.ctrForget (d : Dev) (b : CtrBlock) : Dev :=
  let k := ctrKey b 0 / 256
  { d with sec := { d.sec with ctr := d.sec.ctr.filter fun e => e.1 / 256 != k,
                               ctrMedia := d.sec.ctrMedia.filter fun e => e.1 / 256 != k } }

/-- Counter blocks in use. -/
def Dev.blocksUsed (d : Dev) : List CtrBlock := d.tracts.cur.hdr.filterMap fun e => e.2.ctr

/-- A free counter block: in a counter tract that has one, else in a newly taken pair (R200, R219). -/
def Dev.newBlock (d : Dev) : Option (CtrBlock × Dev) :=
  let used := d.blocksUsed
  let pairs := (d.tracts.cur.phys.filter d.isCounter).map fun e =>
    (e.1 / 2 ^ 19, e.1 % 2 ^ 19)
  let free := pairs.findSome? fun p =>
    ((List.range 64).find? fun b => !used.contains ⟨p.1, p.2, b⟩).map fun b => CtrBlock.mk p.1 p.2 b
  match free with
  | some b => some (b, d)
  | none =>
    (d.counterPair none).map fun x => (⟨x.1.1, x.1.2, 0⟩, x.2)

/-- Give a tract a counter block: every page a major drawn uniformly from [0, 2^63), all minors 0 (R245). -/
def Dev.allocCtr (d : Dev) (k base t : Nat) : Option Dev :=
  match d.newBlock with
  | none => none
  | some (b, d1) =>
    let d2 := d1.setHdr t { d1.hdr t with ctr := some b }
    some ((List.range 256).foldl (fun d p =>
      let (r, d1) := d.rand
      d1.ctrPut (256 * t + p) k base ⟨r % 2 ^ 63, []⟩) d2)

/-- A page enters the exhausted-page table (R251). -/
def Dev.exhaust (F : Fuses) (d : Dev) (page : Nat) : Dev :=
  if d.sec.exh.contains page then d
  else
    let w := (d.windowOf (page * 4096)).map (·.n)
    let s := d.sec
    let s1 := if s.exh.length < 64 then { s with exh := s.exh ++ [page] }
      else { s with exhFull := true, exhWins := s.exhWins ++ w.toList }
    Dev.postAll F (Dev.event F { d with sec := s1 } 0x3007 (page * 4096)) .warn .other (page * 4096)

/-- Written lines of a page, but one, as a mask. -/
def Dev.pageMask (d : Dev) (page except : Nat) : Nat :=
  let w := bits (d.wbits (page / 256)) (64 * (page % 256) + 63) (64 * (page % 256))
  setBits w (except % 64) (except % 64) 0

/-- A page enters re-encryption: its old counter line, and the lines still to rewrite (R248). Line `line` keeps `minor`
under the new major. -/
def Dev.startReenc (F : Fuses) (d : Dev) (k base line : Nat) (old : CtrLine) (minor : Nat) : Dev :=
  let page := line / 64
  let e : Reenc := ⟨page, old, d.pageMask page line⟩
  let d1 := { d with sec := { d.sec with reenc := d.sec.reenc ++ [e] } }
  let d2 := d1.ctrPut page k base ⟨(old.major + 1) % 2 ^ 64, Tbl.put 0 [] (line % 64) minor⟩
  if old.major + 1 = 2 ^ 64 - 1 then d2.exhaust F page else d2

/-- The re-encryption entry of a page. -/
def Dev.reencOf (d : Dev) (page : Nat) : Option Reenc := d.sec.reenc.find? fun e => e.page == page

/-- Free re-encryption entries whose mask is empty (R248). -/
def Dev.reencSettle (d : Dev) : Dev :=
  let n := (d.sec.reenc.filter fun e => e.mask == 0).length
  if n = 0 then d
  else
    ({ d with sec := { d.sec with reenc := d.sec.reenc.filter (fun e => e.mask != 0),
                                  reencDone := (d.sec.reencDone + n) % 2 ^ 16 } }).icu 98

/-- A line leaves its page's re-encryption mask (R248, R249). -/
def Dev.reencClear (d : Dev) (line : Nat) : Dev :=
  let l := d.sec.reenc.map fun e =>
    if e.page = line / 64 then { e with mask := setBits e.mask (line % 64) (line % 64) 0 } else e
  Dev.reencSettle { d with sec := { d.sec with reenc := l } }

/-! ## Checking a line that was read (R243) -/

/-- The value a requester gets: data, or poison of an origin (R177). -/
inductive Val where
  | data (x : LineData)
  | poison (origin : Nat)
  deriving DecidableEq, Repr

/-- A tag failure: counted, origin 0x2. -/
def Dev.tagFail (d : Dev) : Val × Dev := (.poison 2, ((d.bump SEC_TAG_FAIL_CNT).count 0x202).icu 76)

/-- The counter-mode rows of R243's table. -/
def Dev.openCounter (F : Fuses) (d : Dev) (k base line : Nat) (m : MediaLine) : Val × Dev :=
  let a := line * 64
  let page := line / 64
  let mt := lineMeta m
  let minor := bits mt 8 2
  let ok (d : Dev) (major mn : Nat) : Val × Dev :=
    (.data (d.decrypt k (tagOffset k a base) major mn (lineData m)), d.count 0x200)
  match d.ctrGet page k base with
  | (none, d1) => (.poison 12, d1.exhaust F page)
  | (some c, d1) =>
    let cur := Tbl.look 0 c.minors (line % 64)
    if bits mt 9 9 = c.major % 2 then
      if minor = cur then (if d1.tagOk k a base c.major minor m then ok d1 c.major minor else d1.tagFail)
      else if cur < minor then
        if d1.tagOk k a base c.major minor m then
          let d2 := d1.ctrPut page k base { c with minors := Tbl.put 0 c.minors (line % 64) minor }
          ok (((d2.bump SEC_ROLLFWD_CNT).event F 0x3006 a).icu 76) c.major minor
        else d1.tagFail
      else d1.tagFail
    else match d1.reencOf page with
      | some r =>
        let mn := Tbl.look 0 r.old.minors (line % 64)
        if minor = mn ∧ d1.tagOk k a base r.old.major mn m then ok d1 r.old.major mn else d1.tagFail
      | none =>
        if d1.tagOk k a base (c.major + 1) minor m then ok (d1.startReenc F k base line c minor) (c.major + 1) minor
        else d1.tagFail

/-- Does a slot serve a read of the media: loaded, or draining where a write-back needs the older value of its line (R236)? -/
def Dev.slotServes (d : Dev) (wb : Bool) (k : Nat) : Bool :=
  k == 0 || (d.slot k).state == 1 || (wb && (d.slot k).state == 2)

/-- Check and decrypt a decoded line under a key index and base, for a write-back or for another reader (R178, R236, R243). -/
def Dev.openLineFor (F : Fuses) (d : Dev) (wb : Bool) (k base line : Nat) (m : MediaLine) : Val × Dev :=
  let a := line * 64
  let mt := lineMeta m
  let counter := decide (k ≠ 0 ∧ (d.slot k).kind = 2)
  if mt % 2 = 1 then (.poison 3, d)
  else if !d.slotServes wb k then d.tagFail
  else if bit mt 1 ≠ counter then d.tagFail
  else if counter then d.openCounter F k base line m
  else if d.tagOk k a base 0 0 m then
    (.data (d.decrypt k (tagOffset k a base) 0 0 (lineData m)), if k = 0 then d else d.count 0x200)
  else d.tagFail

/-- Check and decrypt a decoded line for a reader (R178, R243). -/
def Dev.openLine (F : Fuses) (d : Dev) (k base line : Nat) (m : MediaLine) : Val × Dev := d.openLineFor F false k base line m

/-- Encrypt a line for media under a slot (R239 to R242, R247, R248). None: it cannot be written now: every re-encryption
entry is in use, the line overflows again while its page is in re-encryption, or its tract has no counter block. -/
def Dev.sealLine (F : Fuses) (d : Dev) (k base line : Nat) (x : LineData) : Option (MediaLine × Dev) :=
  let a := line * 64
  let page := line / 64
  if k = 0 ∨ (d.slot k).kind ≠ 2 then
    some (d.seal k a base 0 0 x, if k = 0 then d else d.count 0x201)
  else
    let ready : Option Dev := if (d.hdr (line / 16384)).ctr.isSome then some d else d.allocCtr k base (line / 16384)
    match ready with
    | none => none
    | some d0 =>
      match d0.ctrGet page k base with
      | (none, d1) => some (poisonLine, d1.exhaust F page)
      | (some c, d1) =>
        let mn := Tbl.look 0 c.minors (line % 64) + 1
        if mn < 128 then
          let d2 := d1.ctrPut page k base { c with minors := Tbl.put 0 c.minors (line % 64) mn }
          some (d2.seal k a base c.major mn x, (d2.reencClear line).count 0x201)
        else if (d1.reencOf page).isSome ∨ 256 ≤ d1.sec.reenc.length then none
        else
          let d2 := d1.startReenc F k base line c 1
          some (d2.seal k a base ((c.major + 1) % 2 ^ 64) 1 x, d2.count 0x201)

/-! ## Placing a line in its stripe -/

/-- Open rows of a quadrant. -/
def Dev.rowsOfQuad (d : Dev) (q : Nat) : Nat := (d.media.rows.filter fun r => r.g / 8 == q).length

/-- Can the row of a place be programmed now (R25, R148, R149)? -/
def Dev.locRoom (d : Dev) (l : Loc) : Bool :=
  decide ((d.grp l.g).units < 3) && !(d.media.rows.any fun r => r.g == l.g && r.pa == l.pa) && decide (d.rowsOfQuad (l.g / 8) < 256)

/-- May a write-back program its line now (R25, R148, R149)? Its page row has no open-row entry, its quadrant's table has one free, and its group is
not lost: a lost group's write-backs wait until their tract's migration switches. -/
def Dev.wbRoom (d : Dev) (line : Nat) : Bool :=
  let k := (d.ent (line / 16384)).kind
  if k ≠ 1 ∧ k ≠ 2 then true else d.locRoom (d.lineLoc line)

/-- Page programs of a row update (R146, R215): every member's page of a full-row update, else the pages of the changed line's member and of P and Q. -/
def Dev.wearRow (d : Dev) (l : Loc) (full : Bool) : Dev :=
  let ps := if full then d.positions l.g l.w else [d.dataPos l l.idx, d.pPos l, d.qPos l]
  (ps.filter fun p => !bit (d.grp l.g).failedM p).foldl (fun d _ => d.wearPage l.g l.pa (if l.slc then .slc else .mlc)) d

/-- A write-back takes an open-row entry for its program and releases it at its end (R148): the highest number in use is noted (log entry 87). -/
def Dev.rowNote (d : Dev) (line : Nat) : Dev :=
  let q := (d.ent (line / 16384)).group / 8
  { d with media := { d.media with rowPeak := Tbl.upd 0 d.media.rowPeak q fun k => max k (d.rowsOfQuad q + 1) } }

/-- Set one slot of a page: a page of another mode, never programmed or undefined starts as zero lines (R145). -/
def Dev.pokePage (d : Dev) (m pa slot : Nat) (slc : Bool) (x : MediaLine) : Dev :=
  let y := d.die m
  let p := Tbl.look {} y.pages pa
  let sl : Tbl MediaLine := if p.programmed && !p.undef && p.slc == slc then p.slots else []
  let p1 : Page := ⟨true, false, slc, Tbl.put 0 sl slot x, y.temp⟩
  d.setDie m { y with pages := Tbl.put {} y.pages pa p1 }

/-- Is a page row programmed in a mode on some live member? -/
def Dev.rowCells (d : Dev) (l : Loc) : Bool :=
  (d.positions l.g l.w).any fun p =>
    let y := Tbl.look {} (d.die (dieOf l.g p)).pages l.pa
    y.programmed && !y.undef && y.slc == l.slc && !bit (d.grp l.g).failedM p

/-- Has a page row been programmed since its tract was taken (R145)? A home's row has once one of its lines is written; what an earlier owner
left in the cells does not count. -/
def Dev.rowLive (d : Dev) (l : Loc) : Bool :=
  let ts := d.tractsAt l.g l.pa
  d.rowCells l && (ts.isEmpty || (List.range 8).any fun j => (List.range (l.w - 2)).any fun i =>
    (d.linesAt ts { l with slot := j } i).any d.isWritten)

/-- A clean copy of a line in its stored form: sealed again under its window's slot and base, and the counters it has (R146, R239). -/
def Dev.cachedLine (d : Dev) (line : Nat) : Option MediaLine :=
  (d.cleanLine line).bind fun x =>
    let (k, base) := d.keyBase (d.windowOf (line * 64)) (line * 64)
    if k = 0 ∨ (d.slot k).kind ≠ 2 then some (d.seal k (line * 64) base 0 0 x)
    else if (d.reencOf (line / 64)).isSome then none
    else (d.ctrGet (line / 64) k base).1.map fun c => d.seal k (line * 64) base c.major (Tbl.look 0 c.minors (line % 64)) x

/-- The media value of data line i of a place's stripe, as a fill read takes it (R145, R146, R179): zero for a line that the written bitmap marks
as never written, or in a row never programmed; what its member holds, or the line rebuilt where the member is failed or its page is not
known; then a clean copy, which holds the same value; a poison line where there is none of these. -/
def Dev.fillLine (d : Dev) (ts : List Nat) (l : Loc) (i : Nat) : MediaLine :=
  let ls := d.linesAt ts l i
  if !ts.isEmpty && !ls.any d.isWritten then 0
  else
    let p := d.dataPos l i
    if !bit (d.grp l.g).failedM p && ((d.rowLine l.g l.pa p l.slot).isSome || !d.rowBad l.g l.pa p) then d.stored l p
    else ((d.rebuild { l with idx := i } 0).or (ls.findSome? d.cachedLine)).getD poisonLine

/-- The media values of the data lines of a stripe. -/
def Dev.stripeData (d : Dev) (l : Loc) : List MediaLine :=
  let ts := d.tractsAt l.g l.pa
  let live := d.rowLive l
  (List.range (l.w - 2)).map fun i => if live then d.fillLine ts l i else 0

/-- Write the lines of a stripe to their members; a failed member takes nothing. -/
def Dev.putStripe (d : Dev) (l : Loc) (ds : List MediaLine) : Dev :=
  let w (d : Dev) (p : Nat) (x : MediaLine) : Dev :=
    if bit (d.grp l.g).failedM p then d else d.pokePage (dieOf l.g p) l.pa l.slot l.slc x
  let d1 := (ds.zipIdx).foldl (fun d e => w d (d.dataPos l e.2) e.1) d
  w (w d1 (d.pPos l) (stripeP ds)) (d.qPos l) (stripeQ ds)

/-- A line is programmed in its place with stripe parity (R144 to R146); its first program of a row programs zeros in the
row's other lines. -/
def Dev.putLoc (d : Dev) (l : Loc) (x : MediaLine) : Dev :=
  let live := d.rowLive l
  let ds := (d.stripeData l).set l.idx x
  let d1 := if live then d
    else (List.range 8).foldl (fun d j => d.putStripe { l with slot := j } (List.replicate (l.w - 2) 0)) d
  d1.putStripe l ds

/-- A line's program finishes with good status: its media value and written bit (R76, R205). -/
def Dev.putLine (d : Dev) (line : Nat) (x : MediaLine) : Dev :=
  (d.putLoc (d.lineLoc line) x).setWritten (line / 16384) (line % 16384) true

/-- The media value of a line with a home: stored, rebuilt, or none. -/
def Dev.mediaLine (d : Dev) (line : Nat) : Option MediaLine :=
  match d.readLoc (d.lineLoc line) (.good 0) 0 with
  | .direct x => some x
  | .around x => some x
  | _ => none

/-- A void tract takes a home (R205): a poison line in every slot whose line has its bit set. -/
def Dev.fillVoid (d : Dev) (t except : Nat) : Dev :=
  let w := d.wbits t
  (List.range 16384).foldl (fun d i =>
    if bit w i ∧ i ≠ except then d.putLoc (d.lineLoc (16384 * t + i)) poisonLine else d) d

/-- Give an unmapped or void tract its first home (R209): an SLC pair while the zone has room, else an MLC tract. -/
def Dev.firstHome (d : Dev) (t except : Nat) (mlc : Bool) : Option Dev :=
  let slc := !mlc && decide (d.zone < d.tracts.zt)
  let got := match (if slc then d.take 1 2 true none else none) with
    | some x => some x
    | none => d.take 0 1 false none
  match got with
  | none => none
  | some (e, d1) =>
    let void := decide ((d.ent t).kind = 3)
    let d2 := (d1.setEnt t e).setHdr t { d1.hdr t with gap := 16384, start := 0, wcnt := 0, part := true, voidMeta := false }
    some (if void then d2.fillVoid t except else d2)

end Sys2Proof.Machine
end

