-- ==== Sys2Proof/Machine/Flags.lean ====
section
/-!
DEFINITION. Status computed from the state: Gondola occupancy and fill (R68, R75), withheld credits (R45), DevLoad
(R46), which heads can address a DPA (R49), the poison record (R177), and what time that passes counts (R98, R398).
-/
namespace Sys2Proof.Machine

/-- Gondola lines staged or in write-back. -/
def Dev.gHeld (d : Dev) : Nat := d.gon.staged.length + d.gon.wb.length

/-- Lines staged, in write-back or reserved by issued credits (LIN_GND_STS.used). -/
def Dev.gUsed (d : Dev) : Nat := d.gHeld + d.a.rwdOut + d.b.rwdOut

/-- Capacity of Gondola: 262,144 lines less the banks that have lost two macros (R69). -/
def Dev.gCapacity (d : Dev) : Nat :=
  32768 * ((List.range 8).filter fun b => decide ((Tbl.look [] d.gon.macros b).length < 2)).length

/-- Lines that internal writers hold. -/
def Dev.gInternal (d : Dev) : Nat :=
  let f (e : Nat × Option GEntry) := match e.2 with
    | some g => decide (g.owner = .internal)
    | none => false
  (d.gon.staged.filter f).length + (d.gon.wb.filter f).length

/-- Lines that a head holds or has reserved. -/
def Dev.gHead (d : Dev) (h : Head) : Nat :=
  let f (e : Nat × Option GEntry) := match e.2 with
    | some g => decide (g.owner = .host h)
    | none => false
  (d.gon.staged.filter f).length + (d.gon.wb.filter f).length + (d.head h).rwdOut

/-- Can a head (or none: an internal writer) take one more Gondola line (R68)? -/
def gondolaRoom (F : Fuses) (d : Dev) (who : Option Head) : Bool :=
  let rsv := if portMode F d = .dualHead then d.fld LIN_GND_CFG 27 24 * 16384 else 0
  let kept (h : Head) : Nat := if who = some h then 0 else rsv - d.gHead h
  let keptAll := if portMode F d = .dualHead then kept .a + kept .b else 0
  decide (d.gUsed + keptAll < d.gCapacity) && (who.isSome || decide (d.gInternal < 65536)) && d.homeRoom

/-- Entries of a head's tracker pool in use. -/
def Dev.trackers (d : Dev) (h : Head) : Nat := (d.head h).reqOut + (d.head h).rwdOut + (d.head h).inFlight

/-- Requesters of the tracker's internal pool (R16): stream and Copy, migration, scrub, drift survey, and the rest. -/
inductive Intern where
  | stream
  | migration
  | scrub
  | survey
  | other
  deriving DecidableEq, Repr

/-- Entries of the internal pool that a requester holds (R15, R16): stream and Copy one for each source line read outstanding, a migration one
until its switch (log entry 95, DESIGN CHOICE), page fills and gap moves one each. Scrub and survey read a row in one step, and hold none between steps. -/
def Dev.internHeld (d : Dev) : Intern → Nat
  | .stream => d.str.chan.foldl (fun n e => n + e.2.reads) 0
  | .migration => (d.tracts.migs.filter fun x => decide (x.step ≤ 5)).length
  | .scrub => 0
  | .survey => 0
  | .other => (d.cache.fetches.filter fun f => f.waiters.isEmpty).length + d.tracts.gaps.length

/-- Entries of the internal pool that a requester may still take (R16, R261): what is left of 16,384 beside the 1,024 of which migration, scrub and survey
are each assured, stream and Copy up to 8,192. One that finds none waits. -/
def Dev.internFree (d : Dev) (who : Intern) : Nat :=
  let held := d.internHeld
  let kept (r : Intern) : Nat := if r = who then 0 else 1024 - held r
  let room := 16384 - (held .stream + held .migration + held .scrub + held .survey + held .other) -
    (kept .migration + kept .scrub + kept .survey)
  if who = .stream then min room (8192 - held .stream) else room

/-- Drogue throttle is active (R366). -/
def Dev.drogue (d : Dev) : Bool := decide (0 < d.therm.hj)

/-- A head takes requests at all: link, CXL.mem and device state (R23, R31). -/
def Dev.served (d : Dev) (h : Head) : Bool :=
  (d.head h).linkUp && (d.head h).cxlMem && (decide (d.pwr.svc = .reduced) || decide (d.pwr.svc = .full))

/-- The link of a head brings requests: in service, and in the first 10 µs of a flush (R22). -/
def Dev.linkTakes (d : Dev) (h : Head) : Bool :=
  d.served h || ((d.head h).linkUp && (d.head h).cxlMem && decide (d.pwr.svc = .flush) &&
    (match d.pwr.flush with
      | some f => decide (f.step ≤ 2 ∧ d.tether.now ≤ f.start + 10000)
      | none => false))

/-- An M2S Req message arrives: on a Req credit outstanding, whose tracker entry is reserved (R14, R45). After entry to a flush no credit is
issued, so at most the credits outstanding at entry arrive (R22). -/
def Dev.arrives (d : Dev) (h : Head) : Bool := d.linkTakes h && decide (0 < (d.head h).reqOut)

/-- An M2S RwD message arrives, on an RwD credit outstanding (R14, R45). -/
def Dev.arrivesW (d : Dev) (h : Head) : Bool := d.linkTakes h && decide (0 < (d.head h).rwdOut)

/-- May a Req credit be granted (R45)? -/
def reqFree (F : Fuses) (d : Dev) (h : Head) : Bool :=
  activeHead F d h && d.served h && decide ((d.head h).dstate = 0) && decide (d.trackers h < 16384)

/-- May an RwD credit be granted (R45, R225)? -/
def rwdFree (F : Fuses) (d : Dev) (h : Head) : Bool :=
  reqFree F d h && gondolaRoom F d (some h) && d.pwr.replayDone

/-- DevLoad (R46): 0 light, 1 optimal, 2 moderate, 3 severe, by the occupancy of the head's tracker pool and Gondola's occupied lines (R75). -/
def devLoad (F : Fuses) (d : Dev) (h : Head) : Nat :=
  let pct := max (d.trackers h * 100 / 16384) (d.gHeld * 100 / 262144)
  if 90 ≤ pct ∨ !rwdFree F d h then 3
  else if 75 ≤ pct ∨ d.drogue then 2
  else if 50 ≤ pct then 1
  else 0

/-- Fill in sixteenths of 262,144 lines (R75). -/
def Dev.fillSixteenths (d : Dev) : Nat := d.gHeld / 16384

/-- Write-back is at raised rank (R75). -/
def Dev.raisedNow (d : Dev) : Bool :=
  decide (d.fld LIN_GND_CFG 11 8 ≤ d.fillSixteenths) || d.gon.withdrawn || d.gon.gpf

/-- Heads that can address a DPA (R37, R49). In dual-head mode a DPA of the volatile partition is given to both heads: each head has such a
partition at the same DPAs, and the rule does not say whose log takes its record (log entry 66, DESIGN CHOICE). -/
def headsOf (F : Fuses) (d : Dev) (dpa : Nat) : List Head :=
  match portMode F d with
  | .single => [.a]
  | .bonded => [.a, .b]
  | .dualHead =>
    let g := dpa / 2 ^ 30
    if g < d.pwr.board.split then [.a] else if g < d.pwr.board.share then [.b] else [.a, .b]

/-- Post a record on every head that can address a DPA (R49). -/
def postAt (F : Fuses) (d : Dev) (n : LogName) (k : EvKind) (dpa : Nat) : Dev :=
  (headsOf F d dpa).foldl (fun d h => d.post h n k dpa) d

/-- Add to a head's poison list: the 512 most recent (R308). -/
def HeadState.addPoison (x : HeadState) (dpa origin : Nat) : HeadState :=
  { x with poisonList := ((dpa, origin) :: x.poisonList).take 512,
           poisonMore := x.poisonMore || decide (512 ≤ x.poisonList.length) }

/-- Record a poison origin in MCH_POISON_LAST (R177): 0x3 is not recorded. -/
def recordPoison (F : Fuses) (d : Dev) (line origin : Nat) : Dev :=
  if origin = 3 then d
  else
    let a := line * 64
    let d1 := (d.setReg MCH_POISON_LAST_LO (BitVec.ofNat 32 (a % 2 ^ 32))).setReg MCH_POISON_LAST_HI
      (BitVec.ofNat 32 (2 ^ 31 + origin * 2 ^ 16 + a / 2 ^ 32 % 2 ^ 12))
    let d2 := (d1.bump MCH_POISON_CNT).icu 75
    (headsOf F d a).foldl (fun d h => d.setHead h ((d.head h).addPoison a origin)) d2

/-! ## Time that passes -/

/-- A descriptor has run to its end: its output is confirmed, or its lines are durable (R275, R283). -/
def SChan.runDone (x : SChan) (r : Run) : Bool :=
  match x.kind with
  | .stream => r.ended
  | _ => r.written && r.pend == 0

/-- Lanes and history units in use. -/
def Dev.lanesUsed (d : Dev) : Nat × Nat :=
  d.str.chan.foldl (fun n e => e.2.runs.foldl (fun n r => if 0 < r.hist ∧ !e.2.runDone r then (n.1 + 1, n.2 + r.hist) else n) n) (0, 0)

/-- Count what a stretch of time makes: nanoseconds, fabric cycles, and cycles in which credits were withheld, write-back
was raised, Gondola full, every lane busy, Gondola armed or Drogue active (R398). No clock runs while the fast clocks are
stopped. Port B's credits exist only where the board's port mode uses them. -/
def Dev.passed (d : Dev) (ns cycles : Nat) : Dev :=
  if d.tether.slow then d
  else
    let on (b : Bool) (ev : Nat) (d : Dev) : Dev := if b then d.count ev cycles else d
    let up (h : Head) : Bool := (d.head h).linkUp && (d.head h).cxlMem
    let withheld (h : Head) (dd : Dev) : Dev :=
      let d1 := if up h && !reqFree {} d h then dd.countH 0x044 h cycles else dd
      if up h && !rwdFree {} d h then d1.countH 0x045 h cycles else d1
    let d1 := (d.count 0x000 cycles).count 0x001 ns
    on (decide (0 < d.therm.hj)) 0x2C1 (on d.gon.armed 0x2C0 (on (decide (32 ≤ d.lanesUsed.1)) 0x243
      (on (decide (d.gCapacity ≤ d.gUsed)) 0x089 (on (d.raisedNow && decide (0 < d.gHeld)) 0x088
        (withheld .b (withheld .a d1))))))

/-- Tether takes a later value: past a frame boundary the duty that Drogue has set comes into force, and a frame's load counts start anew
(R108, R159). -/
def Dev.reach (d : Dev) (u : Tether) : Dev :=
  if u.now / 10000 = d.tether.now / 10000 then { d with tether := u }
  else
    let chan := Tbl.mapAll {} d.media.chan fun _ c => { c with loaded := 0 }
    { d with tether := { u with duty := u.dutyNext }, media := { d.media with chan := chan } }

/-- Tether moves to a later instant; it never decreases, and holds at its largest value (R98, R117). -/
def Dev.advance (d : Dev) (t : Nat) : Dev :=
  let now := min (max d.tether.now t) (2 ^ 64 - 1)
  if now = d.tether.now then d
  else (d.passed (now - d.tether.now) (2 * (now - d.tether.now))).reach { d.tether with now := now }

/-- Tether moves to the multiple of a period at which a periodic row is due, and the row has dealt with it. -/
def Dev.tick (d : Dev) (id p : Nat) : Dev :=
  let d1 := d.advance (dueMultiple d.tether.now p (Tbl.look 0 d.tether.ticks id))
  { d1 with tether := { d1.tether with ticks := Tbl.put 0 d1.tether.ticks id (d1.tether.now / p + 1) } }

end Sys2Proof.Machine
end

