-- ==== Sys2Proof/Machine/Drogue.lean ====
section
/-!
DEFINITION. Drogue (spec/14_thermal.md R365 to R369): the levels and what they set.
-/
namespace Sys2Proof.Machine

/-- The raw law of R366, over temperature codes (R141): 10 °C are 40 codes. -/
def rawLaw (t t0 : Nat) : Nat := min 256 (256 * (t - t0) / 40)

/-- A level's next value (R366): it rises with the law, and falls only 5 °C below the point that gives it. -/
def newLevel (old t t0 : Nat) : Nat := max (rawLaw t t0) (min old (rawLaw (t + 20) t0))

/-- Start temperatures as codes: 100 °C for the junction, 85 °C for the media. -/
def startJ : Nat := 656
def startM : Nat := 596

/-- Argument of the event of R369 (code 0x1010): condition, entry, quadrant, code. -/
def condArg (cond : Nat) (entry : Bool) (q code : Nat) : Nat := cond + 8 * b2n entry + 16 * q + code * 2 ^ 16

/-- Dies of a quadrant that are present and not failed. -/
def Dev.quadDies (d : Dev) (q : Nat) : List Nat :=
  ((List.range 80).map fun k => 80 * q + k).filter fun m => (d.ctl m).present && !(d.ctl m).failed

/-- Those whose sensor is good and has a reading. -/
def Dev.quadGood (d : Dev) (q : Nat) : List Nat :=
  (d.quadDies q).filter fun m => !d.therm.dieBad.contains m && d.therm.dieHas.contains m

/-- The program duty that the levels give a quadrant (R367). -/
def dutyOf (hj hm : Nat) : Nat := 256 - max hj hm * 7 / 8

/-- The duty of a quadrant follows the levels from the next frame boundary (R367); no effect outside service. -/
def Dev.dutySet (d : Dev) (q : Nat) : Dev :=
  if d.pwr.svc = .reduced ∨ d.pwr.svc = .full then
    { d with tether := { d.tether with dutyNext := Tbl.put 0x100 d.tether.dutyNext q (dutyOf d.therm.hj (Tbl.look 0 d.therm.hm q)) } }
  else d

/-- A quadrant's media level changes: ICU source 80, and a logbook record where the throttle begins or ends (R367, R369). -/
def setHm (F : Fuses) (d : Dev) (q h : Nat) : Dev :=
  let old := Tbl.look 0 d.therm.hm q
  let d1 := ({ d with therm := { d.therm with hm := Tbl.put 0 d.therm.hm q h } }).dutySet q
  let code := Tbl.look 0 d.therm.tm q
  if old = h then d1
  else
    let d2 := d1.icu 80
    if old = 0 then d2.event F 0x1010 (condArg 3 true q code)
    else if h = 0 then d2.event F 0x1010 (condArg 3 false q code)
    else d2

/-- Evaluation of one quadrant (R365, R366, R368). -/
def quadEval (F : Fuses) (d : Dev) (q : Nat) : Dev :=
  let t := d.therm
  let ds := d.quadDies q
  if ds.isEmpty then d
  else if t.noGood.contains q ∨ ds.all (fun m => t.dieBad.contains m) then
    setHm F { d with therm := { t with noGood := if t.noGood.contains q then t.noGood else q :: t.noGood } } q 256
  else match d.quadGood q with
    | [] => d.dutySet q
    | g =>
      let tm := g.foldl (fun a m => max a (Tbl.look 0 t.dieCode m)) 0
      let d1 := { d with therm := { t with tm := Tbl.put 0 t.tm q tm
                                           tmHas := if t.tmHas.contains q then t.tmHas else q :: t.tmHas } }
      setHm F d1 q (newLevel (Tbl.look 0 t.hm q) tm startM)

end Sys2Proof.Machine
end

