-- ==== Sys2Proof/Machine/TetherOps.lean ====
section
/-!
DEFINITION. Tether and its schedule (spec/04_tether.md): the rate and PTM (R98 to R103), frames and phases (R104 to R108),
test windows (R109, R110). A row that is due at an instant moves Tether to that instant (log entry 1).
-/
namespace Sys2Proof.Machine

/-- A 32-bit word as a signed number. -/
def sgn32 (v : Reg32) : Int := v.toInt

/-- A host write of TTH_RATE (R98): ignored under PTM discipline and out of range. -/
def Dev.rateWrite (d : Dev) (v : Reg32) : Dev :=
  if d.rbit TTH_PTM_CFG 0 ∨ v.toInt < -2147484 ∨ 2147484 < v.toInt then d
  else { d with tether := { d.tether with rate := v.toInt } }

/-- The fast clocks return at the next edge of the 32.768 kHz clock (R100). -/
def Dev.clockReturn (d : Dev) : Dev :=
  if d.tether.slow then
    let t := d.tether.edge
    { d with tether := { t with acc := t.acc64 * 2 ^ 26, acc64 := 0, slow := false } }
  else d

/-- Reads and writes are served or about to be: reduced or full service. -/
def Dev.inService (d : Dev) : Bool := decide (d.pwr.svc = .reduced ∨ d.pwr.svc = .full)

/-- Head named by LNK_PORT_CFG.ptm_src, always Port A in single mode (R54, R102). -/
def Dev.ptmHead (d : Dev) : Head := if d.pwr.board.ptmB ∧ d.pwr.board.mode ≠ .single then .b else .a

/-- PTM runs: its head's link is up in L0 (R54). -/
def Dev.ptmUp (d : Dev) : Bool := (d.head d.ptmHead).linkUp && decide ((d.head d.ptmHead).lstate = 0)

/-- A PTM Request falls due (R102). -/
def Dev.ptmTimer (d : Dev) : Dev :=
  if !d.tether.slow && d.rbit TTH_PTM_CFG 0 && d.ptmUp then
    let d1 := d.advance (d.tether.ptmReq + d.fld TTH_PTM_CFG 15 8 * 1000000)
    ({ d1 with tether := { d1.tether with ptmReq := d1.tether.now } }).emit (.ptmRequest d.ptmHead)
  else d

/-- The source changes state; ICU source 86 (R318). -/
def Dev.setSrc (d : Dev) (x : TimeSrc) : Dev :=
  if d.tether.src = x then d else ({ d with tether := { d.tether with src := x } }).icu 86

/-- Eight consecutive offsets lie within a 20 ns span (R102). -/
def lockedIn (l : List Int) : Bool :=
  decide (8 ≤ l.length) && (l.take 8).all fun a => (l.take 8).all fun b => decide (a - b ≤ 20)

/-- A time in host PTM units as a Tether time (R112), which may lie before the start of the count. -/
def Dev.hostTime (d : Dev) (t : Nat) : Int := (t : Int) - d.tether.offset

/-- Due times of the armed host-time slots are recomputed (R112). -/
def Dev.redue (d : Dev) : Dev :=
  (List.range 64).foldl (fun d n =>
    if d.rbit (TTH_LAUNCH_ACT n) 31 ∧ d.rbit (TTH_LAUNCH_ACT n) 30 then
      { d with launch := Tbl.put {} d.launch n ⟨d.hostTime (d.reg64 (TTH_LAUNCH_TIME_LO n))⟩ }
    else d) d

/-- The rate that would have held the offset constant over the stretch between the last two results, within ±500 ppm (R102): in `span` ns of
Tether at rate r the host's time moved by `moved` ns more. The rule names no filter and no rounding (log entry 74, DEDUCED). -/
def ptmRate (r moved : Int) (span : Nat) : Int :=
  max (-2147484) (min 2147484 (r + (2 ^ 32 + r) * moved / span))

/-- A PTM result (R102, R103). -/
def Dev.ptmGot (d : Dev) (host : Nat) : Dev :=
  if !d.rbit TTH_PTM_CFG 0 || d.tether.slow || !d.ptmUp then d
  else
    let t := d.tether
    let o : Int := (host : Int) - t.now
    let fresh := decide (t.src = .free ∨ t.src = .holdover)
    let l := if fresh then [o] else (o :: t.offsets).take 8
    let r := if t.src = .free ∨ t.now ≤ t.lastPtm then t.rate else ptmRate t.rate (o - t.offset) (t.now - t.lastPtm)
    let d1 := { d with tether := { t with offset := o, offsets := l, rate := r, lastPtm := t.now } }
    let d2 := d1.setHead d.ptmHead { d1.head d.ptmHead with ptmValid := true }
    (if fresh then d2.setSrc .acquiring else if lockedIn l then d2.setSrc .locked else d2).redue

/-- Holdover (R103): at once when ptm_valid has cleared, else 100 ms after the last valid result. -/
def Dev.ptmHold (d : Dev) : Dev :=
  if d.tether.src = .acquiring ∨ d.tether.src = .locked then
    let d1 := if (d.head d.ptmHead).ptmValid then d.advance (d.tether.lastPtm + 100000000) else d
    d1.setSrc .holdover
  else d

/-- A frame boundary (R104, R108): the duty set before it is in force from it on. A quadrant that the frame does not admit, and one in which
a test window trims it, is counted (R398). -/
def Dev.frameBegin (d : Dev) : Dev :=
  let d1 := d.advance (dueMultiple d.tether.now 10000 d.tether.frameDone)
  let f := d1.tether.now / 10000
  let d2 := { d1 with tether := { d1.tether with frameDone := f + 1 } }
  (List.range 4).foldl (fun d q =>
    let e := if dutyAdmits f (d.duty q) then d else d.count (0x10B + 0x40 * q)
    if e.windowOn q then e.count (0x10C + 0x40 * q) else e) d2

/-- A program still running at the end of its phase (R106, R160). -/
def Dev.overrun (F : Fuses) (d : Dev) (m : Nat) : Dev :=
  match (d.die m).running with
  | none => d
  | some p =>
    if !d.tether.schedule then d
    else
      let d1 := d.advance (nextMultiple p.start 2000)
      let c := d1.ctl m
      let recent := c.overruns.filter fun t => decide (d1.tether.now < t + 10 ^ 9)
      let d2 := d1.setCtl m { c with overruns := d1.tether.now :: recent }
      ((d2.bump TTH_OVR_CNT).event F 0x4001 m).count (0x10A + 0x40 * (m / 80))

/-! ## Test windows -/

/-- The media channel a self-test slice runs on (R406). -/
def sliceChan (n : Nat) : Option Nat := if n / 256 = 0 then some (n % 256 / 4) else none

/-- A channel has test-window work: retraining or a queued slice. -/
def Dev.windowWork (d : Dev) (n : Nat) : Bool :=
  (d.chan n).pending || d.bst.queue.any fun s => sliceChan s.num == some n

/-- May a window open on this channel (R109)? -/
def Dev.windowFits (F : Fuses) (d : Dev) (n : Nat) : Bool :=
  presentChan F n && decide (0 < d.diesPer (n / 10)) && !(d.chan n).failed && d.windowWork n &&
    !((List.range 8).any fun k => decide (2 ≤ (d.grp (8 * (n / 10) + k)).units) && !(d.grp (8 * (n / 10) + k)).absent)

/-- The channel of the next window: the first that qualifies after the previous window's (R109). -/
def Dev.windowNext (F : Fuses) (d : Dev) : Option Nat :=
  let total := if F.cls = .s then 20 else 40
  let from0 := if d.tether.twFirst then 0 else d.tether.twChan + 1
  ((List.range total).map fun i => (from0 + i) % total).find? (d.windowFits F)

/-- A die fails, and its channel where no die of it is left (R160). -/
def failDie (F : Fuses) (d : Dev) (m cause : Nat) : Dev :=
  let d1 := d.declareDie F m cause
  let n := m / 8
  let all := (List.range (d1.diesPer (n / 10))).all fun k => (d1.ctl (8 * n + k)).failed
  if all ∧ 0 < d1.diesPer (n / 10) then d1.declareChan F n 9 else d1

/-- The window's retraining meets an eye that is narrow on one die, or on every die (`none`): the third consecutive window of the channel fails
the die or the channel (R139). A window in which the step passes breaks the run. -/
def narrowEyeStep (F : Fuses) (d : Dev) (n : Nat) (narrowEye : Bool) (die : Option (Fin 8)) : Dev :=
  let c := d.chan n
  if !c.pending then d
  else if !narrowEye then d.setChan n { c with narrow := [] }
  else
    let k := match die with
      | some x => x.val
      | none => 8
    let run := Tbl.look 0 c.narrow k + 1
    if run < 3 then d.setChan n { c with narrow := Tbl.put 0 [] k run }
    else
      let d1 := d.setChan n { c with narrow := [] }
      match die with
      | some x => failDie F d1 (8 * n + x.val) 2
      | none => d1.declareChan F n 2

/-- The next 1 ms boundary: a test window opens on the next channel that qualifies (R109). -/
def windowOpen (F : Fuses) (d : Dev) (narrowEye : Bool) (die : Option (Fin 8)) : Dev :=
  let da := d.advance (dueMultiple d.tether.now 1000000 d.tether.winDone)
  let d1 := { da with tether := { da.tether with winDone := da.tether.now / 1000000 + 1 } }
  if !d1.inService || !d1.rbit TTH_TWIN_CFG 0 || d1.tether.twOpen then d1
  else match d1.windowNext F with
    | none => d1
    | some n =>
      let t := d1.tether
      let d2 := ({ d1 with tether := { t with twOpen := true, twIntr := false, twChan := n, twFirst := false,
                                              twCount := (t.twCount + 1) % 65536, twEnd := t.now + 20000 } }).icu 87
      narrowEyeStep F d2 n narrowEye die

/-- The window's two frames end (R109). -/
def Dev.windowShut (d : Dev) : Dev :=
  if d.tether.twOpen then
    let d1 := d.advance d.tether.twEnd
    ({ d1 with tether := { d1.tether with twOpen := false } }).icu 87
  else d

/-- TTH_RATE_WRITE (R98). -/
def execTthRateWrite (_h : Head) (value : Reg32) (s : State) : Host.Outcome State Fault Refusal :=
  .next { s with dev := s.dev.rateWrite value }

/-- FAST_CLOCK_RETURN (R100). -/
def execFastClockReturn (s : State) : Host.Outcome State Fault Refusal := .next { s with dev := s.dev.clockReturn }

/-- TETHER_SAVE: 60 s after the last save, in service (R101). -/
def execTetherSave (s : State) : Host.Outcome State Fault Refusal :=
  let d := s.dev
  .next (if d.inService then { s with dev := (d.advance (d.tether.lastSave + 60 * 10 ^ 9)).lifePut } else s)

/-- PTM_REQUEST_TIMER (R102). -/
def execPtmRequestTimer (s : State) : Host.Outcome State Fault Refusal := .next { s with dev := s.dev.ptmTimer }

/-- PTM_RESULT (R102). -/
def execPtmResult (hostTime : BitVec 64) (s : State) : Host.Outcome State Fault Refusal :=
  .next { s with dev := s.dev.ptmGot hostTime.toNat }

/-- PTM_HOLDOVER (R103). -/
def execPtmHoldover (s : State) : Host.Outcome State Fault Refusal := .next { s with dev := s.dev.ptmHold }

/-- PHASE_START: the next phase boundary, on every channel at the same Tether nanosecond (R104). -/
def execPhaseStart (s : State) : Host.Outcome State Fault Refusal :=
  .next { s with dev := s.dev.tick 1 2000 }

/-- FRAME_START (R108). -/
def execFrameStart (s : State) : Host.Outcome State Fault Refusal := .next { s with dev := s.dev.frameBegin }

/-- PROGRAM_START_GATE (R105). -/
def execProgramStartGate (m : DieId) (mode : ProgMode) (buf : Bool) (last : Fin 16) (s : State) :
    Host.Outcome State Fault Refusal :=
  .next { s with dev := s.dev.programGate s.fuse m.val mode buf last.val 0 }

/-- PROGRAM_OVERRUN (R106). -/
def execProgramOverrun (m : DieId) (s : State) : Host.Outcome State Fault Refusal :=
  .next { s with dev := s.dev.overrun s.fuse m.val }

/-- TEST_WINDOW_OPEN (R109, R139). -/
def execTestWindowOpen (narrowEye : Bool) (narrowDie : Option (Fin 8)) (s : State) : Host.Outcome State Fault Refusal :=
  .next { s with dev := windowOpen s.fuse s.dev narrowEye narrowDie }

/-- TEST_WINDOW_CLOSE (R109). -/
def execTestWindowClose (s : State) : Host.Outcome State Fault Refusal := .next { s with dev := s.dev.windowShut }

/-- TEST_WINDOW_EARLY_CLOSE (R110). -/
def execTestWindowEarlyClose (s : State) : Host.Outcome State Fault Refusal :=
  .next { s with dev := s.dev.windowAbort (s.dev.tether.twChan / 10) }

end Sys2Proof.Machine
end

