-- ==== Sys2Proof/Machine/ChannelOps.lean ====
section
/-!
DEFINITION. Media channels (spec/05_media_bus.md): ALERT_N (R133 to R135), discovery and training (R130, R136, R137),
retraining (R138, R139), and the declarations of failure (R160).
-/
namespace Sys2Proof.Machine

/-- A read frame was refused a second time in succession (R134): the line whose home it read goes around; where it read a line of a
read-around, the channel is to be declared failed. -/
def Dev.readRefused (d : Dev) (f : Frame) : Dev :=
  let at' (x : Fetch) : Option Loc :=
    let l := d.lineLoc x.line
    if ((d.ent (x.line / 16384)).kind = 1 ∨ (d.ent (x.line / 16384)).kind = 2) ∧ l.g = groupOf f.m ∧ l.pa = bits f.payload 33 7 ∧
      l.slot = bits f.payload 36 34 then some l else none
  let home (x : Fetch) : Bool := match at' x with
    | some l => !x.around && d.dataPos l l.idx == posOf f.m
    | none => false
  let round (x : Fetch) : Bool := match at' x with
    | some l => (x.around || d.posUnavail l.g (d.dataPos l l.idx)) && d.dataPos l l.idx != posOf f.m
    | none => false
  if bits f.payload 6 0 ≠ 1 then d
  else if d.cache.fetches.any home then
    d.setCache { d.cache with fetches := d.cache.fetches.map fun x => if home x then { x with around := true } else x }
  else if d.cache.fetches.any round then d.setChan (f.m / 8) { d.chan (f.m / 8) with twice := true }
  else d

/-- The reads of which a frame is sent again meet a reissue (R173). -/
def Dev.readMet (d : Dev) (f : Frame) : Dev :=
  let mine (x : Fetch) : Bool :=
    let l := d.lineLoc x.line
    decide (((d.ent (x.line / 16384)).kind = 1 ∨ (d.ent (x.line / 16384)).kind = 2) ∧ l.g = groupOf f.m ∧ l.pa = bits f.payload 33 7 ∧
      l.slot = bits f.payload 36 34)
  if bits f.payload 6 0 ≠ 1 then d
  else d.setCache { d.cache with fetches := d.cache.fetches.map fun x => if mine x then { x with met := true } else x }

/-- A frame is sent again (R134): a LOAD with the CRC of its data. It arrives with the error pattern given. -/
def Dev.reissue (d : Dev) (s : Sent) (err : Nat) : Dev :=
  let f := if bits s.f.payload 6 0 = 0x10 then { s.f with crc := crc16 (s.f.page.flatMap lineBytes) } else s.f
  let a := dieTake (d.die f.m) d.tether.now d.fresh f (beatsFrame (caBeats (Nat.xor (encodeFrame f.payload) err)))
  let d1 := (d.frameSent f a true).readMet f
  if a.taken then d1 else d1.readRefused f

/-- A low period begins on ALERT_N (R134): the frames and LOAD bursts that ended in the 12 ns before it are sent again at once. `errs` are the
error patterns with which these arrive, in order. -/
def Dev.alertLow (d : Dev) (n : Nat) (errs : List FrameErr) : Dev :=
  let c := d.chan n
  let now := d.tether.now
  let l := c.sent.filter fun s => endedLately now s.time || (match s.burst with
    | some t => endedLately now t
    | none => false)
  let d1 := ((d.setChan n { c with sent := c.sent.filter fun s => !l.contains s }).bump (MCH_CA_ERR n) l.length).count
    (0x106 + 0x40 * (n / 10)) l.length
  l.zipIdx.foldl (fun d e => d.reissue e.1 (errs.getD e.2 0).toNat) d1

/-- A low period longer than 10 ns: STATUS to every present die of the channel (R134). -/
def Dev.alertLong (d : Dev) (n : Nat) : Dev :=
  ((List.range 8).filter fun k => (d.ctl (8 * n + k)).present && !(d.die (8 * n + k)).pd).foldl
    (fun d k => d.sendFrame { m := 8 * n + k, payload := pay 0x20 [] } 0) d

/-- The controller acts on the latched bits that a STATUS returned (R134, R135, R160, R368). A fault found again within 1 s of the RESET for the
last one is a cause of failure. -/
def alertStatus (F : Fuses) (d : Dev) (m st : Nat) : Dev :=
  let d0 := d.setCtl m { d.ctl m with statusGot := none }
  let d1 := if bit st 4 then d0.bump (MCH_WCRC_ERR (m / 8)) else d0
  let code := bits st 57 48
  let d2 := if bit st 5 then
      let t := d1.therm
      let has := if t.dieHas.contains m then t.dieHas else m :: t.dieHas
      let e := { d1 with therm := { t with dieCode := Tbl.put 0 t.dieCode m code, dieHas := has } }
      (quadEval F e (m / 80)).alertSet m (min (code + 8) 0x3FF)
    else d1
  if bit st 6 then
    let c := d2.ctl m
    let again := match c.faultReset with
      | some t => decide (d2.tether.now ≤ t + 10 ^ 9)
      | none => false
    d2.setCtl m { c with faultPending := true, faultAgain := c.faultAgain || again }
  else d2

/-- An identity that the controller accepts (R130). The rule does not say which of two bytes is the low one: here and in every die response a
value's low byte comes first (log entry 79, DEDUCED from R6, which says so of the controller's own structures). -/
def idOk (x : BitVec 256) : Bool :=
  let v := x.toNat
  decide (bytesAt v 0 2 = 0x4E4D ∧ bytesAt v 2 2 = 0x0512 ∧ byteOf v 4 = 9 ∧ byteOf v 5 = 0x40 ∧ 0x10 ≤ byteOf v 6 ∧
    byteOf v 16 ≤ 0x2D ∧ byteOf v 17 ≤ 0xA0)

/-- The member record marks a position as a failed member, or as no member (R445). -/
def Dev.recordFailed (d : Dev) (m : Nat) : Bool :=
  let x := d.grp (groupOf m)
  bit x.failedM (posOf m) || !bit x.members (posOf m)

/-- One configured position at discovery (R136): the member record first, then what the die answered. -/
def discoverDie (F : Fuses) (d : Dev) (m : Nat) (ans : Option (BitVec 256)) : Dev :=
  let ok := match ans with
    | some x => idOk x
    | none => false
  let c := d.ctl m
  let d1 := (d.setCtl m { c with present := ok }).setDie m { d.die m with ident := ans.getD 0 }
  if d1.recordFailed m then (d1.setCtl m { d1.ctl m with failed := true }).powerDown m
  else if ok then d1
  else failDie F d1 m 1

/-- Discovery of a channel (R136, R445): answers by position, 0 where nothing answered; `stuck`: ALERT_N stayed low beyond tINIT + 1 ms. -/
def discover (F : Fuses) (d : Dev) (n : Nat) (ids : List (BitVec 256)) (stuck : Bool) : Dev :=
  let k := d.diesPer (n / 10)
  let ans (i : Nat) : Option (BitVec 256) := match ids[i]? with
    | some x => if x = 0 then none else some x
    | none => none
  let excess (d : Dev) : Dev := ((List.range 8).filter fun i => decide (k ≤ i) && (ans i).isSome).foldl (fun d i =>
      (d.event F 0x4005 (8 * n + i)).setDie (8 * n + i) { d.die (8 * n + i) with pd := true }) d
  let carried := (List.range k).all fun i => d.recordFailed (8 * n + i)
  if carried then
    let d1 := (List.range k).foldl (fun d i =>
      (d.setCtl (8 * n + i) { d.ctl (8 * n + i) with failed := true }).powerDown (8 * n + i)) d
    excess (d1.setChan n { d1.chan n with failed := true, cause := 3, training := false })
  else if stuck || (List.range k).all fun i => (ans i).isNone then excess (d.declareChan F n 1)
  else excess ((List.range k).foldl (fun d i => discoverDie F d (8 * n + i) (ans i)) d)

/-- Training of a channel begins, for the first time or again (R137): RESET to every configured position, and discovery. -/
def channelTraining (F : Fuses) (d : Dev) (n : Nat) (ids : List (BitVec 256)) (stuck : Bool) : Dev :=
  let c := d.chan n
  if c.training || !presentChan F n || d.diesPer (n / 10) == 0 || c.failed || c.trained || decide (d.pwr.svc ≠ .bringup ∨ d.pwr.step ≠ 7) then d
  else
    let d1 := d.setChan n { c with training := true }
    let d2 := (List.range (d1.diesPer (n / 10))).foldl (fun d i =>
      let y := (d.die (8 * n + i)).reset
      d.setDie (8 * n + i) { y with init := stuck }) d1
    discover F d2 n (if bit d.drift.badChan n then [] else ids) stuck

/-- A temperature code in °C, as a signed byte (R141). -/
def codeByte (c : Nat) : Nat := (c / 4 + 256 - 64) % 256

/-- Highest temperature of the channel's dies. -/
def Dev.chanTemp (d : Dev) (n : Nat) : Nat :=
  (List.range (d.diesPer (n / 10))).foldl (fun a i => max a (d.die (8 * n + i)).temp) 0

/-- Dies of a channel that are in use. -/
def Dev.liveDies (d : Dev) (n : Nat) : List Nat :=
  ((List.range (d.diesPer (n / 10))).map fun i => 8 * n + i).filter fun m => !(d.ctl m).failed

/-- Every die's temperature at a retraining is kept (R138). -/
def Dev.noteTrain (d : Dev) (n : Nat) : Dev :=
  (d.liveDies n).foldl (fun d m => d.setCtl m { d.ctl m with trainTemp := (d.die m).temp }) d

/-- The features that training gives a die (R137): full rate, the channel's read latency, the alert threshold, and drive and termination, of
which no rule names the value: free values. -/
def Die.trained (y : Die) (trl drive odt : Nat) : Die :=
  ((((y.setFeature 0x04 1).setFeature 0x02 trl).setFeature 0x03 0x254).setFeature 0x00 drive).setFeature 0x01 odt

/-- The read latency of a channel's slowest die (R137 step 9): what is measured is a free value. -/
def Dev.latencyFound (d : Dev) (n : Nat) : Nat × Dev :=
  let (v, d1) := d.free
  let trl := v % 9
  (trl, (d1.liveDies n).foldl (fun d m => d.setDie m ((d.die m).setFeature 0x02 trl)) d1)

/-- Training ends (R137): `passed` by die position. Every die failing repeats it from its RESET, and three attempts fail the channel. -/
def channelTrained (F : Fuses) (d : Dev) (n rd wr passed : Nat) : Dev :=
  let c := d.chan n
  let live := d.liveDies n
  if !c.training then d
  else if live.all fun m => !bit passed (m % 8) then
    if 3 ≤ c.attempts + 1 then d.declareChan F n 2 else d.setChan n { c with attempts := c.attempts + 1, training := false }
  else
    let d1 := (live.filter fun m => !bit passed (m % 8)).foldl (fun d m => failDie F d m 2) d
    let (trl, d2) := d1.latencyFound n
    let (v, d2a) := d2.free
    let (u, d2b) := d2a.free
    let d3 := (d2b.liveDies n).foldl (fun d m =>
      (d.setDie m ((d.die m).trained trl (v % 4) (u % 5))).setCtl m { d.ctl m with alertThr := 0x254 }) d2b
    let d4 := d3.noteTrain n
    d4.setChan n { d4.chan n with training := false, trained := true, attempts := 0, rdEye := rd, wrEye := wr, trl := trl,
                                  trainTemp := codeByte (d4.chanTemp n), lastRetrain := d4.tether.now }

/-- A retraining completes (R138): 12 µs after its window opened, or sooner where it resumed at a later step; its last step gives the dies a
new read latency. -/
def Dev.retrained (d : Dev) (n rd wr code : Nat) : Dev :=
  let c := d.chan n
  if d.tether.twOpen ∧ d.tether.twChan = n ∧ c.pending then
    let d0 := (d.advance (d.tether.twEnd - 8000 - c.stepsDone)).noteTrain n
    let (trl, d1) := d0.latencyFound n
    (d1.setChan n { d1.chan n with pending := false, held := false, retrains := (c.retrains + 1) % 65536, narrow := [], stepsDone := 0,
                                   rdEye := rd, wrEye := wr, trl := trl, trainTemp := codeByte code, refusals := [], crcRun := [],
                                   lastRetrain := d1.tether.now }).setReg (MCH_CH_CTL n) 0
  else d

/-- Retraining becomes pending (R138). -/
def Dev.retrainAsk (d : Dev) (n : Nat) : Dev :=
  let c := d.chan n
  if c.trained && !c.failed then d.setChan n { c with pending := true } else d

/-- ALERT_N_LOW (R134). -/
def execAlertNLow (low : AlertLow) (s : State) : Host.Outcome State Fault Refusal :=
  .next { s with dev := s.dev.alertLow low.n.val low.errs }

/-- ALERT_LONG_LOW (R134). -/
def execAlertLongLow (n : ChannelId) (s : State) : Host.Outcome State Fault Refusal :=
  .next { s with dev := s.dev.alertLong n.val }

/-- ALERT_STATUS_RESPONSE (R134): `st` is what STATUS returned. -/
def execAlertStatusResponse (m : DieId) (st : BitVec 128) (s : State) : Host.Outcome State Fault Refusal :=
  .next (if (s.dev.ctl m).statusGot = some st.toNat then { s with dev := alertStatus s.fuse s.dev m.val st.toNat } else s)

/-- ALERT_STUCK: longer than 1 ms in service (R160). -/
def execAlertStuck (n : ChannelId) (s : State) : Host.Outcome State Fault Refusal :=
  .next (if s.dev.inService then { s with dev := s.dev.declareChan s.fuse n.val 4 } else s)

/-- CHANNEL_TRAINING (R137). -/
def execChannelTraining (n : ChannelId) (found : Discovery) (s : State) : Host.Outcome State Fault Refusal :=
  .next { s with dev := channelTraining s.fuse s.dev n.val found.ids found.stuck }

/-- CHANNEL_TRAINED (R137). -/
def execChannelTrained (n : ChannelId) (eyeRd eyeWr : Byte) (passed : BitVec 8) (s : State) :
    Host.Outcome State Fault Refusal :=
  .next { s with dev := channelTrained s.fuse s.dev n.val eyeRd.toNat eyeWr.toNat passed.toNat }

/-- RETRAIN_REQUEST (R138): MCH_CH_CTLn.retrain reads 1 until that retraining completes. -/
def execRetrainRequest (_h : Head) (n : ChannelId) (s : State) : Host.Outcome State Fault Refusal :=
  let d := s.dev
  .next (if (d.chan n.val).trained && !(d.chan n.val).failed then
      { s with dev := (d.retrainAsk n.val).setReg (MCH_CH_CTL n.val) 1 } else s)

/-- RETRAIN_TIMER: 1 s after the last retraining (R138). -/
def execRetrainTimer (n : ChannelId) (s : State) : Host.Outcome State Fault Refusal :=
  let d := s.dev
  .next (if (d.chan n.val).trained && !(d.chan n.val).failed then
      { s with dev := (d.advance ((d.chan n.val).lastRetrain + 10 ^ 9)).retrainAsk n.val } else s)

/-- RETRAIN_COMPLETE (R138). -/
def execRetrainComplete (n : ChannelId) (eyeRd eyeWr : Byte) (code : Fin 1024) (s : State) :
    Host.Outcome State Fault Refusal :=
  .next { s with dev := s.dev.retrained n.val eyeRd.toNat eyeWr.toNat code.val }

/-- The evidence for declaring a die failed, by the row of R160's table: 5 a fault again within 1 s, 6 four overruns within 1 s or a program that
still runs 1.6 µs after its phase, 7 more pages failing verification within 1 s than vfail_lim, 8 more lines failing their code within 1 ms
than ecc_lim. The other rows declare at once where they are found. -/
def Dev.dieCause (d : Dev) (m cause : Nat) : Bool :=
  let c := d.ctl m
  let now := d.tether.now
  let within (l : List Nat) (span : Nat) : Nat := (l.filter fun t => decide (now < t + span)).length
  match cause with
  | 5 => c.faultAgain
  | 6 => decide (4 ≤ within c.overruns (10 ^ 9)) || (d.tether.schedule && match (d.die m).running with
      | some p => decide ((p.start / 2000 + 1) * 2000 + 1600 < now)
      | none => false)
  | 7 => decide (d.fld MCH_FAIL_CFG 15 0 < within c.vfails (10 ^ 9))
  | 8 => decide (d.fld MCH_FAIL_CFG 23 16 < within c.eccFails (10 ^ 6))
  | _ => false

/-- DIE_DECLARED_FAILED (R160, R161). -/
def execDieDeclaredFailed (m : DieId) (cause : FailCause) (s : State) : Host.Outcome State Fault Refusal :=
  .next (if s.dev.dieCause m.val cause.val then { s with dev := failDie s.fuse s.dev m.val cause.val } else s)

/-- The evidence for declaring a channel failed: 3 a read-around line frame refused twice in succession (R134), 9 every die of it declared
failed (R160). -/
def Dev.chanCause (d : Dev) (n cause : Nat) : Bool :=
  match cause with
  | 3 => (d.chan n).twice
  | 9 => (List.range (d.diesPer (n / 10))).all fun k => (d.ctl (8 * n + k)).failed
  | _ => false

/-- CHANNEL_DECLARED_FAILED (R160, R161). -/
def execChannelDeclaredFailed (n : ChannelId) (cause : FailCause) (s : State) : Host.Outcome State Fault Refusal :=
  .next (if s.dev.chanCause n.val cause.val then { s with dev := s.dev.declareChan s.fuse n.val cause.val } else s)

/-- FAULT_DIE_RESET: a die whose fault is latched is sent RESET once it is not busy (R160). -/
def execFaultDieReset (m : DieId) (s : State) : Host.Outcome State Fault Refusal :=
  let d := s.dev
  .next (if (d.ctl m.val).faultPending && !(d.die m.val).busy then
      let d1 := d.setCtl m.val { d.ctl m.val with faultPending := false, faultAgain := false, faultReset := some d.tether.now }
      { s with dev := d1.sendFrame { m := m.val, payload := pay 0x7F [] } 0 } else s)

/-- ALERT_CONDITION_REPEAT: while a latched bit is set the die repeats its pulse every 1.0 µs (R133). -/
def execAlertConditionRepeat (m : DieId) (s : State) : Host.Outcome State Fault Refusal :=
  let x := s.dev.die m
  let later := (s.dev.advance (s.dev.tether.now + 1000)).emit (.alert m)
  .next (if x.progFail || x.tempAlert || x.fault then { s with dev := later } else s)

end Sys2Proof.Machine
end

