-- ==== Sys2Proof/Machine/RowOps.lean ====
section
/-!
DEFINITION. Row updates and the open-row table (R146 to R151).
-/
namespace Sys2Proof.Machine

/-- The new lines of one stripe of a row update: its data lines as the update changes them, and the P and Q they give
(R144, R146). `lines` is keyed by channel position × 8 + slot; `full` keeps every line. -/
def Dev.stripeLines (d : Dev) (l : Loc) (lines : List (Nat × MediaLine)) (full : Bool) : List (Nat × MediaLine) :=
  let given (i : Nat) : Option MediaLine := (lines.find? fun e => e.1 == 8 * d.dataPos l i + l.slot).map (·.2)
  let ds := (d.stripeData l).zipIdx.map fun e => (given e.2).getD e.1
  let touched := full || (List.range (l.w - 2)).any fun i => (given i).isSome
  if !touched then []
  else
    let kept := (List.range (l.w - 2)).filterMap fun i =>
      if full || (given i).isSome then some (8 * d.dataPos l i + l.slot, ds.getD i 0) else none
    kept ++ [(8 * d.pPos l + l.slot, stripeP ds), (8 * d.qPos l + l.slot, stripeQ ds)]

/-- Page rows of a quadrant for which a write-back entry with a write awaiting acknowledgement waits for an open-row entry (R75). -/
def Dev.ackRows (d : Dev) (q : Nat) : List (Nat × Nat) :=
  (d.gon.wb.filterMap fun e => match e.2 with
    | none => none
    | some x =>
      let k := (d.ent (e.1 / 16384)).kind
      let l := d.lineLoc e.1
      if (k = 1 ∨ k = 2) ∧ !x.acks.isEmpty ∧ l.g / 8 = q ∧ !(d.media.rows.any fun r => r.g == l.g && r.pa == l.pa) then some (l.g, l.pa)
      else none).dedup

/-- A write-back entry at raised rank lies in a page row (R74, R75). -/
def Dev.rowRaised (d : Dev) (g pa : Nat) : Bool :=
  d.gon.wb.any fun e => match e.2 with
    | none => false
    | some x =>
      let k := (d.ent (e.1 / 16384)).kind
      let l := d.lineLoc e.1
      decide (k = 1 ∨ k = 2) && x.raised && l.g == g && l.pa == pa

/-- The requester of a row update (R155): the migration whose target the row is, else Gondola's write-back, raised or not; and whether it is
rebuild of a degraded group. -/
def Dev.rowReq (d : Dev) (g pa : Nat) : Nat × Bool :=
  match d.tracts.migs.find? fun x => decide (x.target.group = g) && x.target.holds pa with
  | some x => if x.why = .rebuild then (4, decide ((d.grp x.source.group).units = 2)) else (5, false)
  | none => (if d.rowRaised g pa then 1 else 3, false)

/-- May a row update take an open-row entry (R148, R149)? The row has none, the table has one free, and a write-back that carries no write awaiting
acknowledgement leaves those that do the next ones (R75). -/
def Dev.rowFree (d : Dev) (g pa : Nat) : Bool :=
  let q := g / 8
  let wait := d.ackRows q
  decide (d.rowsOfQuad q < 256) && !(d.media.rows.any fun r => r.g == g && r.pa == pa) &&
    (decide (4 ≤ (d.rowReq g pa).1) || wait.contains (g, pa) || decide (d.rowsOfQuad q + wait.length < 256))

/-- Pages of one member at the start of a row update: a read is needed where the update does not give all eight slots (R146). -/
def rowUnits (lines : List (Nat × MediaLine)) (p : Nat) : Nat × Nat :=
  let given := ((List.range 8).filter fun j => lines.any fun e => e.1 == 8 * p + j).length
  if given = 8 then (1, 0) else (2, 1)

/-- A row update takes an open-row entry (R146, R148, R149) and asks Bridle for its reads and loads. In an SLC tract, for the first program of a row
(R145), for a migration, and where it supplies every data line, it is a full-row update. -/
def Dev.rowStart (d : Dev) (g pa : Nat) (mode : ProgMode) (lines : List (Nat × MediaLine)) : Dev :=
  if !d.rowFree g pa ∨ !(d.grp g).populated ∨ (d.grp g).absent ∨ 3 ≤ (d.grp g).units then d
  else
    let w := d.widthAt g pa
    let loc (j : Nat) : Loc := ⟨g, pa, j, 0, w, decide (mode = .slc)⟩
    let req := d.rowReq g pa
    let all := (List.range 8).all fun j => (List.range (w - 2)).all fun i => lines.any fun e => e.1 == 8 * d.dataPos (loc j) i + j
    let full := decide (mode = .slc) || all || !d.rowLive (loc 0) || decide (4 ≤ req.1)
    let ls := (List.range 8).flatMap fun j => d.stripeLines (loc j) lines full
    let t : Tbl MediaLine := ls.foldl (fun t e => (t.filter fun x => x.1 != e.1) ++ [e]) []
    let left := (List.range 10).foldl (fun n p =>
      if (t.any fun e => e.1 / 8 == p) && !bit (d.grp g).failedM p then n + 2 ^ p else n) 0
    let r : OpenRow := { g := g, pa := pa, mode := mode, lines := t, left := left, seq := d.media.rowSeq }
    let reqs := (List.range 10).filter fun p => bit left p
    let br := reqs.foldl (fun b p =>
      let n := 10 * (g / 8) + p
      let u := if full && !all then (2, 1) else rowUnits t p
      let x : BrReq := { req := req.1, seq := d.media.brSeq + p, units := u.1, reads := u.2, degraded := req.2, who := 2 ^ 32 + r.seq,
                         bank := some (dieOf g p, bankOf pa) }
      Tbl.put [] b n (Tbl.look [] b n ++ [x])) d.media.bridle
    let peak := Tbl.upd 0 d.media.rowPeak (g / 8) fun k => max k (d.rowsOfQuad (g / 8) + 1)
    { d with media := { d.media with rows := d.media.rows ++ [r], rowSeq := d.media.rowSeq + 1, bridle := br,
                                     brSeq := d.media.brSeq + 10, rowPeak := peak } }

/-- Requests of one asker leave the Bridle queues of every channel. -/
def Dev.unask (d : Dev) (who : Nat) : Dev :=
  { d with media := { d.media with bridle := Tbl.mapAll [] d.media.bridle fun _ l => l.filter fun b => b.who != who } }

/-- Every page of a row update is programmed, or its lines have been placed elsewhere: the entry is released (R148). A page that failed twice
keeps it until the tract has moved. -/
def Dev.rowDone (d : Dev) (g pa : Nat) : Dev :=
  match d.media.rows.find? fun r => r.g == g && r.pa == pa with
  | none => d
  | some r =>
    if r.left ≠ Nat.land r.left r.lost ∨ (r.left ≠ 0 ∧ !(d.tractsAt g pa).isEmpty) then d
    else
      let d1 := r.lines.foldl (fun d e =>
        let p := e.1 / 8
        if bit (d.grp g).failedM p || bit r.lost p then d else d.pokePage (dieOf g p) pa (e.1 % 8) (decide (r.mode = .slc)) e.2) d
      Dev.unask { d1 with media := { d1.media with rows := d1.media.rows.filter fun x => !(x.g == g && x.pa == pa) } } (2 ^ 32 + r.seq)

/-- A write of MCH_BRIDLE_RANKq (R158): a field written with 7 keeps its value; host reads stay at 7. -/
def Dev.rankWrite (d : Dev) (q v : Nat) : Dev :=
  (List.range 7).foldl (fun d i =>
    let x := bits v (3 * i + 2) (3 * i)
    if x = 7 then d else d.setFld (MCH_BRIDLE_RANK q) (3 * i + 2) (3 * i) x) d

/-- ROW_UPDATE_START (R148). -/
def execRowUpdateStart (g : GroupId) (row : BitVec 27) (mode : ProgMode) (lines : List (Nat × MediaLine)) (s : State) :
    Host.Outcome State Fault Refusal :=
  .next { s with dev := s.dev.rowStart g.val row.toNat mode lines }

/-- ROW_UPDATE_DONE (R148). -/
def execRowUpdateDone (g : GroupId) (row : BitVec 27) (s : State) : Host.Outcome State Fault Refusal :=
  .next { s with dev := s.dev.rowDone g.val row.toNat }

end Sys2Proof.Machine
end

