-- ==== Sys2Proof/Machine/CmdOps.lean ====
section
/-!
DEFINITION. The command table (R298, R300): finding an LCI command by handle, changing it, and ending it; its CQ entry is
written later, by CQ_ENTRY_WRITE. The unfinished-work log, which takes the commands that end without one (R392, R393).
-/
namespace Sys2Proof.Machine

/-- A command in flight whose completion is not yet decided. -/
def Dev.cmd (d : Dev) (h : Nat) : Option Cmd := d.lci.cmds.find? fun c => c.handle == h && decide (c.state < 4)

/-- Change the command of a handle. -/
def Dev.mapCmd (d : Dev) (h : Nat) (f : Cmd → Cmd) : Dev :=
  { d with lci := { d.lci with cmds := d.lci.cmds.map fun c => if c.handle = h ∧ c.state < 4 then f c else c } }

/-- Remove the command of a handle from the table. -/
def Dev.dropCmd (d : Dev) (h : Nat) : Dev := { d with lci := { d.lci with cmds := d.lci.cmds.filter fun c => c.handle != h } }

/-- Queue pair of a handle (R298). -/
def qpOf (h : Nat) : Nat := h / 2 ^ 26

/-- A queue pair's hidden state. -/
def Dev.qp (d : Dev) (n : Nat) : Qp := Tbl.look {} d.lci.qp n

/-- Replace it. -/
def Dev.setQp (d : Dev) (n : Nat) (x : Qp) : Dev := { d with lci := { d.lci with qp := Tbl.put {} d.lci.qp n x } }

/-! ## The unfinished-work log -/

/-- Bytes of an entry (R393): a started one takes 16, an unstarted one the first 8. -/
def UwlEntry.bytes (e : UwlEntry) : List Nat :=
  let head := leBytes 4 e.handle ++ leBytes 2 e.cid ++ [e.opcode, b2n e.headB + 2 * b2n e.ended]
  if e.started then head ++ leBytes 2 e.status ++ leBytes 6 e.progress else head

/-- Cut a list into pages of at most n entries. -/
def pagesOf (n : Nat) (l : List UwlEntry) : List (List UwlEntry) :=
  (List.range ((l.length + n - 1) / n)).map fun k => (l.drop (n * k)).take n

/-- Bytes 5 to 251 of a page of the log (R393). -/
def uwlBody (p : UwlPage) : List Nat :=
  let act := p.entries.filter (·.started)
  let un := p.entries.filter fun e => !e.started
  [p.cause, act.length, un.length] ++ leBytes 4 p.opmin ++ leBytes 4 p.pcyc ++ (act ++ un).flatMap UwlEntry.bytes

/-- Entries of a page that are not yet cleared. -/
def Keel.uncleared (k : Keel) (p : UwlPage) : Nat := p.entries.length - (if p.seq = k.uwlFirst then k.uwlSkip else 0)

/-- One page enters the log; a page it overwrites loses its uncleared entries (R393). -/
def uwlPage (F : Fuses) (cause : Nat) (d : Dev) (l : List UwlEntry) : Dev :=
  let k := d.keel
  let p : UwlPage := { seq := k.uwlNext, cause := cause, opmin := k.opmin, pcyc := k.pcyc, entries := l }
  let gone := k.uwl.filter fun q => decide (q.seq + 347 ≤ p.seq)
  let lost := gone.foldl (fun n q => n + k.uncleared q) 0
  let kept := (k.uwl.filter fun q => decide (p.seq < q.seq + 347)) ++ [p]
  let first := (kept.headD p).seq
  let k1 := { k with uwlNext := k.uwlNext + 1, uwl := kept, uwlLost := satAdd k.uwlLost lost 0xFFFF,
                     uwlFirst := first, uwlSkip := if first = k.uwlFirst then k.uwlSkip else 0 }
  let d1 := { d with keel := k1 }.keelPut ⟨0x10A + p.seq % 347, 0, pageRecord p.seq 0x0C (uwlBody p), .raw, 0, none⟩
  if lost = 0 then d1 else d1.event F 0xF004 lost

/-- An event adds entries to the unfinished-work log (R392): started entries, then the others, with a 0x6006 record. -/
def uwlAdd (F : Fuses) (d : Dev) (cause : Nat) (l : List UwlEntry) : Dev :=
  if l.isEmpty then d
  else
    let act := l.filter (·.started)
    let un := l.filter fun e => !e.started
    let d1 := (pagesOf 14 act ++ pagesOf 29 un).foldl (uwlPage F cause) d
    d1.event F 0x6006 (cause + 2 ^ 16 * l.length)

/-- A command's entry (R306, R392): its final status where it had ended, else 0xFFFF. -/
def Cmd.entryOf (c : Cmd) (cid opcode progress : Nat) : UwlEntry :=
  let ended := decide (c.state = 4)
  ⟨c.handle, cid, opcode, decide (c.head = .b), c.started || ended, ended, if ended then c.status else 0xFFFF, progress⟩

/-! ## Ends of commands -/

/-- One command ends: status, progress and result are held in its record, and its completion enters the outbound Spool
FIFO (R299, R300). A silent command leaves no completion and is recorded instead (R293, R392). -/
def Dev.finishOne (d : Dev) (h status progress : Nat) (result : List Nat) : Dev :=
  match d.cmd h with
  | none => d
  | some c =>
    let d1 := d.mapCmd h fun c => { c with state := 4, status := status, progress := progress, result := result, slot := none,
                                           tag := none, data := [] }
    if c.silent then d1
    else
      let q := d1.qp (qpOf h)
      let d2 := if 32 ≤ q.out.length then d1.count 0x282 else d1
      d2.setQp (qpOf h) { q with out := q.out ++ [h] }

/-- A command ends, and the Stop commands that wait for it follow with progress 1 (R302, R311). -/
def Dev.finish (d : Dev) (h status progress : Nat) (result : List Nat := []) : Dev :=
  match d.cmd h with
  | none => d
  | some c => c.stops.foldl (fun d s => d.finishOne s 0 1 []) (d.finishOne h status progress result)

/-- Silent commands that have ended leave the table and enter the unfinished-work log, by cause (R293, R392). -/
def silentOut (F : Fuses) (d : Dev) : Dev :=
  let f (c : Cmd) : Bool := c.silent && decide (c.state = 4)
  let l := d.lci.cmds.filter f
  let d1 := { d with lci := { d.lci with cmds := d.lci.cmds.filter fun c => !f c } }
  ((l.map (·.cause)).dedup).foldl (fun d cause =>
    uwlAdd F d cause ((l.filter fun c => c.cause == cause).map fun c =>
      c.entryOf (bytesAt c.entry.toNat 2 2) (bytesAt c.entry.toNat 0 1) c.progress)) d1

end Sys2Proof.Machine
end

