-- ==== Sys2Proof/Machine/LogbookOps.lean ====
section
/-!
DEFINITION. The logbook (R384 to R391): placing and flushing records, freezing, reading; and reading the unfinished-work log
(R393, R394).
-/
namespace Sys2Proof.Machine

/-- A record as it is stored: 24 bytes (R384). -/
def LogRec.stored (r : LogRec) : List Nat :=
  leBytes 2 r.code ++ leBytes 2 r.count ++ leBytes 4 r.opmin ++ leBytes 4 r.pcyc ++ leBytes 4 r.tether ++ leBytes 8 r.arg

/-- Tail pages of the class (R389). -/
def tailPages (F : Fuses) : Nat := if F.cls = .s then 104 else 411

/-- Exposed Tail records of the class (R389). -/
def exposedSize (F : Fuses) : Nat := if F.cls = .s then 1024 else 4096

/-- First and last number of a record's group, and its page (R389). -/
def logGroup (F : Fuses) (n : Nat) : Nat × Nat × Nat :=
  if n < 256 then (n / 10 * 10, min (n / 10 * 10 + 9) 255, 0x018 + n / 10)
  else
    let g := (n - 256) / 10
    (256 + 10 * g, 256 + 10 * g + 9, 0x265 + g % tailPages F)

/-- The page of a group's records (R389); its sequence number is that of the group. -/
def logPage (l : List LogRec) : List Nat :=
  let first := (l.headD {}).number
  pageRecord (first / 10) 0x0A ([l.length, 0, 0] ++ leBytes 4 first ++ l.flatMap LogRec.stored)

/-- Complete groups at the front of the buffer, each with its page, and the records that remain (R389). -/
def logSplit (F : Fuses) (next : Nat) : Nat → List LogRec → List (Nat × List LogRec) × List LogRec
  | 0, l => ([], l)
  | fuel + 1, l =>
    match l with
    | [] => ([], [])
    | r :: _ =>
      let (_, last, page) := logGroup F r.number
      if next ≤ last then ([], l)
      else
        let (ps, rest) := logSplit F next fuel (l.filter fun x => decide (last < x.number))
        ((page, l.filter fun x => decide (x.number ≤ last)) :: ps, rest)

/-- A flush (R388, R389): complete groups go to their pages, the rest to the staging ring; losses are then reported. -/
def Dev.flushLog (F : Fuses) (d : Dev) : Dev :=
  let (ps, rest) := logSplit F d.log.next d.log.buf.length d.log.buf
  let d1 := ps.foldl (fun d p => d.keelPut ⟨p.1, 0, logPage p.2, .logPage, 0, none⟩) d
  let d2 := if rest.isEmpty then d1
    else d1.ringPut .staging ([rest.length, 0, 0] ++ leBytes 4 (rest.headD {}).number ++ rest.flatMap LogRec.stored)
  let n := d2.log.lostNew
  let d3 := { d2 with log := { d2.log with buf := rest, lostNew := 0 } }
  if n = 0 then d3 else d3.logPush 0xF003 n d3.tether.now

/-- The freeze ends; a flush that is due takes place (R390). -/
def Dev.thaw (F : Fuses) (d : Dev) : Dev :=
  if d.log.frozen then
    let d1 := { d with log := { d.log with frozen := false } }
    if 256 ≤ d1.log.buf.length then Dev.flushLog F d1 else d1
  else d

/-- A flush that a fault, a system reset or a flush of the device asks for; it ends a freeze (R388, R390). -/
def Dev.forceFlush (F : Fuses) (d : Dev) : Dev := Dev.flushLog F { d with log := { d.log with frozen := false } }

/-- Change the device state; every change is a device notice (R23, R323), and leaving full service ends a freeze (R390). -/
def Dev.setSvc (F : Fuses) (d : Dev) (v : Svc) : Dev :=
  if d.pwr.svc = v then d
  else
    let d1 := Dev.notice F { d with pwr := { d.pwr with svc := v } }
    if v = .full then d1 else Dev.thaw F d1

/-- EVR_OLDEST (R389, R390). -/
def oldestRec (F : Fuses) (d : Dev) : Nat :=
  if d.log.frozen then d.log.oldestAtFreeze else max 256 (d.log.next - exposedSize F)

/-- A freeze (R390). -/
def Dev.freeze (F : Fuses) (d : Dev) : Dev :=
  let l := d.log
  { d with log := { l with frozen := true, freezeEnd := d.tether.now + d.fld EVR_CFG 15 8 * 10 ^ 9,
                           oldestAtFreeze := oldestRec F d, buf := l.buf.map fun r => { r with closed := true } } }

/-- The bytes a page of the store will hold once the writes that wait are done. -/
def Dev.pageNow (d : Dev) (page : Nat) : List Nat :=
  match (d.keel.active ++ d.keel.waiting).reverse.find? fun w => w.page == page && w.off == 0 && w.data.length == 256 with
  | some w => w.data
  | none => keelPeek d.keel.bytes page 0 256

/-- The next position of a logbook page (R373, R389). -/
def nextLogPage (F : Fuses) (page : Nat) : Nat :=
  if page < 0x265 then (if page = 0x31 then 0x18 else page + 1) else 0x265 + (page - 0x265 + 1) % tailPages F

/-- The stored record of a number, in its group's page or in the position after it, where a failed verify moves the page. -/
def storedRecord (F : Fuses) (d : Dev) (n : Nat) : Option (List Nat) :=
  let page := (logGroup F n).2.2
  [page, nextLogPage F page].findSome? fun p =>
    let b := d.pageNow p
    let first := leNat ((b.drop 8).take 4)
    let i := n - first
    if first ≤ n ∧ i < b.getD 5 0 ∧ b.getD 4 0 = 0x0A then some ((b.drop (12 + 24 * i)).take 24) else none

/-- A record as Log Read and Read Log return it: 64 bytes (R384, R391). -/
def logRecord (F : Fuses) (d : Dev) (n : Nat) : List Nat :=
  let nose := 2 * b2n (decide (n < 256))
  let gone := leBytes 4 n ++ List.replicate 24 0 ++ [1 + nose] ++ List.replicate 35 0
  if 256 ≤ n ∧ n < oldestRec F d then gone
  else match d.log.buf.find? fun r => r.number == n with
    | some r => leBytes 4 n ++ r.stored ++ [nose + 4] ++ List.replicate 35 0
    | none => match storedRecord F d n with
      | some b => leBytes 4 n ++ b ++ [nose] ++ List.replicate 35 0
      | none => gone

/-- The records first, first + 1 and so on, at most `count`, up to the newest (R391). -/
def logRecords (F : Fuses) (d : Dev) (first count : Nat) : List (List Nat) :=
  ((List.range count).filter fun i => decide (first + i < d.log.next)).map fun i => logRecord F d (first + i)

/-- Uncleared entries with their page, oldest first (R394). -/
def Keel.uwlEntries (k : Keel) : List (UwlPage × UwlEntry) :=
  k.uwl.flatMap fun p => (p.entries.drop (if p.seq = k.uwlFirst then k.uwlSkip else 0)).map fun e => (p, e)

/-- An entry as Unfinished Read returns it: 64 bytes (R394). -/
def uwlRecord (p : UwlPage) (e : UwlEntry) : List Nat :=
  leBytes 4 e.handle ++ leBytes 2 e.cid ++ [e.opcode, b2n e.headB + 2 * b2n e.ended + 4 * b2n e.started] ++
    leBytes 2 (if e.ended then e.status else 0xFFFF) ++ [p.cause, 0] ++ leBytes 4 p.opmin ++ leBytes 4 p.pcyc ++
    [0, 0, 0, 0] ++ leBytes 8 (if e.started then e.progress else 0) ++ List.replicate 32 0

/-- Records of the unfinished-work log from index `first`, at most `count` (R394). -/
def Dev.uwlRecords (d : Dev) (first count : Nat) : List (List Nat) :=
  ((d.keel.uwlEntries.drop first).take count).map fun e => uwlRecord e.1 e.2

/-- The oldest n entries are removed: the state record advances uwl_first and uwl_skip (R394). -/
def uwlDrop : Nat → Nat → List UwlPage → List UwlPage × Nat
  | _, skip, [] => ([], skip)
  | n, skip, p :: r =>
    let left := p.entries.length - skip
    if left ≤ n then uwlDrop (n - left) 0 r else (p :: r, skip + n)

/-- Clear the oldest n entries, for the command of a handle. -/
def Dev.uwlClear (d : Dev) (n : Nat) (owner : Option Nat) : Dev :=
  let k := d.keel
  let (l, skip) := uwlDrop n k.uwlSkip k.uwl
  Dev.statePut { d with keel := { k with uwl := l, uwlSkip := skip, uwlFirst := match l with
    | p :: _ => p.seq
    | [] => k.uwlNext } } owner

/-- EVENT_RECORD (R386). -/
def execEventRecord (code : BitVec 16) (arg : BitVec 64) (s : State) : Host.Outcome State Fault Refusal :=
  .next { s with dev := s.dev.event s.fuse code.toNat arg.toNat }

/-- RATE_LIMIT_SECOND_END (R387): the next whole second of Tether. -/
def execRateLimitSecondEnd (s : State) : Host.Outcome State Fault Refusal :=
  let d := s.dev.tick 4 (10 ^ 9)
  .next (if s.fuse.cls = .s ∧ s.dev.log.accepting then { s with dev := d.rateEnd } else s)

/-- LOGBOOK_FLUSH (R388): suspended by a freeze (R390). -/
def execLogbookFlush (s : State) : Host.Outcome State Fault Refusal :=
  .next (if s.dev.log.frozen ∨ !s.dev.log.accepting then s else { s with dev := s.dev.flushLog s.fuse })

/-- FREEZE_TIMEOUT (R390): at 896 buffered records, or at the end of the time. -/
def execFreezeTimeout (s : State) : Host.Outcome State Fault Refusal :=
  let d := s.dev
  .next (if !d.log.frozen then s
    else if 896 ≤ d.log.buf.length then { s with dev := d.thaw s.fuse }
    else { s with dev := (d.advance d.log.freezeEnd).thaw s.fuse })

end Sys2Proof.Machine
end

