-- ==== Sys2Proof/Machine/GondolaOps.lean ====
section
/-!
DEFINITION. Gondola: entries and their merging (R70 to R72), the acceptance of a write (R73, R77, R287), and the places
below it (R63).
-/
namespace Sys2Proof.Machine

/-- The bits of the bytes a mask names. -/
def maskBits (m : BitVec 64) : BitVec 512 :=
  BitVec.ofNat 512 ((List.range 64).foldl (fun acc i => if m.getLsbD i then acc + 255 * 2 ^ (8 * i) else acc) 0)

/-- `new` where the mask is 1, `old` elsewhere. -/
def overlay (old new : LineData) (m : BitVec 64) : LineData := (new &&& maskBits m) ||| (old &&& ~~~ (maskBits m))

/-- The mask of a whole line. -/
def fullMask : BitVec 64 := BitVec.allOnes 64

/-- The staged entry of a line. -/
def Dev.staged (d : Dev) (line : Nat) : Option GEntry := Tbl.look none d.gon.staged line
/-- The write-back entry of a line. -/
def Dev.wbEnt (d : Dev) (line : Nat) : Option GEntry := Tbl.look none d.gon.wb line

/-- The write-back entry that reads take (R222). -/
def Dev.wbSeen (d : Dev) (line : Nat) : Option GEntry :=
  match d.wbEnt line with
  | some g => if g.gone then none else some g
  | none => none

/-- Set or free the staged entry. -/
def Dev.setStaged (d : Dev) (line : Nat) (e : Option GEntry) : Dev :=
  { d with gon := { d.gon with staged := Tbl.put none d.gon.staged line e } }
/-- Set or free the write-back entry. -/
def Dev.setWb (d : Dev) (line : Nat) (e : Option GEntry) : Dev :=
  { d with gon := { d.gon with wb := Tbl.put none d.gon.wb line e } }

/-- Entries in a bank. -/
def Dev.bankUsed (d : Dev) (b : Nat) : Nat :=
  let f (e : Nat × Option GEntry) := match e.2 with
    | some g => g.bank == b
    | none => false
  (d.gon.staged.filter f).length + (d.gon.wb.filter f).length

/-- The bank of a new entry: most free lines, lowest number (R68); a bank that lost two macros takes none (R69). -/
def Dev.newBank (d : Dev) : Nat :=
  let ok := (List.range 8).filter fun b => decide ((Tbl.look [] d.gon.macros b).length < 2)
  (ok.foldl (fun acc b => match acc with
    | none => some b
    | some a => if d.bankUsed b < d.bankUsed a then some b else some a) none).getD 0

/-- What a line reads as on media without a read of it: zero, poison, or it must be fetched (R25, R63, R176, R199, R205). -/
inductive Below where
  | zero
  | poison (origin : Nat)
  | fetch
  deriving DecidableEq, Repr

/-- The last place of R63 for a line of the persistent space, but for lines that a bank has lost. -/
def Dev.belowMedia (d : Dev) (line : Nat) : Below :=
  let e := d.ent (line / 16384)
  if d.drift.confirm.any fun c => c.line == line then .poison 1
  else if e.kind = 0 ∨ !d.isWritten line then .zero
  else if e.kind = 3 then .poison (if (d.hdr (line / 16384)).voidMeta then 12 else 9)
  else
    let l := d.lineLoc line
    let p := d.dataPos l l.idx
    if 3 ≤ (d.grp l.g).units ∧ bit (d.grp l.g).failedM p ∧ (d.rowLine l.g l.pa p l.slot).isNone then .poison 7
    else .fetch

/-- The last place of R63: a line that a bank has lost reads as poison (R69). -/
def Dev.below (d : Dev) (line : Nat) : Below := if d.gon.lostLines.contains line then .poison 5 else d.belowMedia line

/-- The value of a line below the staged entry where no media read is needed; none: it must be fetched. -/
def Dev.older (d : Dev) (line : Nat) (skipWb : Bool) : Option Val :=
  let low : Option Val := match d.cleanLine line with
    | some x => some (.data x)
    | none => match d.below line with
      | .zero => some (.data 0)
      | .poison o => some (.poison o)
      | .fetch => none
  match (if skipWb then none else d.wbSeen line) with
  | none => low
  | some g =>
    if g.poison then some (.poison (if g.sealedWrite then 9 else 4))
    else if g.mask = fullMask then some (.data g.data)
    else match low with
      | some (.data x) => some (.data (overlay x g.data g.mask))
      | other => other

/-- A partial write is lost to a poisoned line (R72 step 4). -/
def partialLoss (F : Fuses) (d : Dev) (line : Nat) : Dev :=
  let a := line * 64
  let d1 := (d.setReg LIN_PTL_LOSS_LO (BitVec.ofNat 32 a)).setReg LIN_PTL_LOSS_HI
    (BitVec.ofNat 32 (2 ^ 31 + a / 2 ^ 32 % 2 ^ 12))
  recordPoison F (postAt F ((d1.bump LIN_PTL_LOSS_CNT).event F 0x3003 a) .fail .poisonWrite a) line 6

/-- Gondola's completion of one write: a host's Cmp (R73), or a line of a Copy durable (R283). -/
def ackDone (F : Fuses) (d : Dev) (a : Ack) : Dev :=
  match a with
  | .host h tag t =>
    let x := d.head h
    let d1 := d.setHead h { x with inFlight := x.inFlight - 1 }
    (d1.latency 1 (some h) (d.tether.now - t)).emit (.cmp h tag (devLoad F d1 h))
  | .run c idx =>
    let x := Tbl.look {} d.str.chan c
    let rs := x.runs.map fun r => if r.idx = idx then { r with pend := r.pend - 1 } else r
    { d with str := { d.str with chan := Tbl.put {} d.str.chan c { x with runs := rs } } }

/-- All of an entry's completions. -/
def ackAll (F : Fuses) (d : Dev) (l : List Ack) : Dev := l.foldl (ackDone F) d

/-- GPF phase 2 requests whose earlier writes have all completed are answered (R50). -/
def Dev.gpfSettle (d : Dev) : Dev :=
  let owes (t : Nat) : Bool := (d.gon.staged ++ d.gon.wb).any fun e => match e.2 with
    | some g => g.acks.any fun a => match a with
      | .host _ _ u => decide (u ≤ t)
      | .run _ _ => false
    | none => false
  let ready := d.gon.gpfWait.filter fun w => !owes w.2
  let left := d.gon.gpfWait.filter fun w => owes w.2
  ready.foldl (fun d w => d.emit (.gpfDone w.1)) { d with gon := { d.gon with gpfWait := left, gpf := !left.isEmpty } }

/-- Merge a partial entry with the older value (R71, R72): the whole entry, or none where the value is poisoned. -/
def GEntry.mergeOlder (e : GEntry) (v : Val) : Option GEntry :=
  if e.poison ∨ e.mask = fullMask then some e
  else match v with
    | .data x => some { e with data := overlay x e.data e.mask, mask := fullMask }
    | .poison _ => none

/-- A write as it reaches the ordering point. -/
structure WReq where
  line : Nat
  data : LineData := 0
  mask : BitVec 64 := fullMask
  poison : Bool := false
  key : Nat := 0
  base : Nat := 0
  wt : Bool := false
  owner : Owner := .internal
  ack : Option Ack := none
  sealedWrite : Bool := false
  reenc : Bool := false
  deriving DecidableEq, Repr

/-- A new entry of a write. -/
def Dev.newEntry (d : Dev) (w : WReq) : GEntry :=
  { data := w.data &&& maskBits w.mask, mask := if w.poison then fullMask else w.mask, poison := w.poison, key := w.key,
    base := w.base, writeThrough := w.wt, bank := d.newBank, time := d.tether.now, seq := d.gon.seq, owner := w.owner,
    sealedWrite := w.sealedWrite, reenc := w.reenc, accepted := d.tether.now,
    covered := d.gon.armed && !w.wt && w.ack.isSome }

/-- A write merged into an entry (R70): none where a partial write meets a whole poisoned line. -/
def GEntry.mergeWrite (e : GEntry) (w : WReq) : Option GEntry :=
  if w.poison then
    some { e with data := 0, mask := fullMask, poison := true, key := w.key, base := w.base, writeThrough := w.wt,
                  sealedWrite := w.sealedWrite, owner := w.owner, reenc := w.reenc }
  else if w.mask = fullMask then
    some { e with data := w.data, mask := fullMask, poison := false, key := w.key, base := w.base, writeThrough := w.wt,
                  sealedWrite := false, owner := w.owner, reenc := w.reenc }
  else if e.poison then none
  else some { e with data := overlay e.data w.data w.mask, mask := e.mask ||| w.mask, reenc := false }

/-- R287 rule 3: a post-launch write meets a staged pre-launch entry. The entry becomes the line's write-back entry, or
moves to the image. The entry whose bytes a partial write starts from is answered too. -/
def Dev.preLaunchMove (d : Dev) (line : Nat) : Option GEntry × Dev :=
  match d.staged line with
  | none => (none, d)
  | some e =>
    match e.preLaunch with
    | none => (none, d)
    | some hd =>
      match d.str.snaps.find? fun s => s.handle == hd with
      | none => (none, d)
      | some s =>
        let d1 := d.setStaged line none
        match d.wbEnt line with
        | none => (some e, d1.setWb line (some { e with state := .writeback }))
        | some _ =>
          let img := line + s.dst / 64 - s.src / 64
          (some e, d1.setStaged img (some { e with base := s.dst, preLaunch := none }))

/-- A write passes the ordering point: clean copies of its line are cleared (R82), the confirmation of the line ends (R181), and the
state record says that Gondola has been used (R379). A re-encryption rewrite carries the line's own value, so no copy of it is altered
(R62, R249). -/
def Dev.passOrder (d : Dev) (line : Nat) (rewrite : Bool) : Dev :=
  let de := if rewrite then d
    else
      let dc := d.writeClears line
      { dc with drift := { dc.drift with confirm := dc.drift.confirm.filter fun c => c.line != line } }
  if de.keel.gndUsed then de else Dev.statePut { de with keel := { de.keel with gndUsed := true } }

/-- A new staged entry of a write: a partial write starts from the entry whose bytes it covers (R70, R287). -/
def entryFrom (start : Option GEntry) (fresh : GEntry) (w : WReq) : GEntry :=
  match start with
  | some g =>
    if w.poison ∨ w.mask = fullMask then fresh
    else if g.poison then { fresh with data := 0, mask := fullMask, poison := true }
    else { fresh with data := overlay g.data w.data w.mask, mask := g.mask ||| w.mask }
  | none => fresh

/-- A partial write that starts from a poisoned line is lost (R72). -/
def lossyFrom (start : Option GEntry) (w : WReq) : Bool :=
  match start with
  | some g => g.poison && !w.poison && w.mask != fullMask
  | none => false

/-- The staged entry of a line after a write was merged into it (R73): a held entry keeps the completion; an armed staged write is
acknowledged at once; otherwise the entry goes to write-back at once, or is held behind the line's write-back entry. -/
def keepStaged (F : Fuses) (d : Dev) (line : Nat) (e : GEntry) (acks : List Ack) (direct : Bool) : Dev :=
  if e.state = .held then d.setStaged line (some { e with acks := e.acks ++ acks })
  else if !direct then ackAll F (d.setStaged line (some { e with covered := e.covered || !acks.isEmpty })) acks
  else if (d.wbEnt line).isSome then d.setStaged line (some { e with state := .held, acks := e.acks ++ acks })
  else (d.setStaged line none).setWb line (some { e with state := .writeback, acks := e.acks ++ acks })

/-- A write takes its place in Gondola (R70, R73, R77): merged with the staged entry of its line, written back at once, held behind a
write-back, or a new staged entry. `pre` is the pre-launch entry that was moved out of its way (R287). -/
def stageWrite (F : Fuses) (w : WReq) (pre : Option GEntry) (d1 : Dev) : Dev :=
  let direct := w.wt || !d1.gon.armed
  let acks := w.ack.toList
  let d2 := { d1 with gon := { d1.gon with seq := d1.gon.seq + 1 } }
  match d2.staged w.line with
  | some e =>
    match e.mergeWrite w with
    | none => keepStaged F (partialLoss F d2 w.line) w.line e acks direct
    | some e1 => keepStaged F d2 w.line e1 acks direct
  | none =>
    let start := match pre with
      | some p => some p
      | none => d2.wbSeen w.line
    let e1 := entryFrom start (d2.newEntry w) w
    let d3 := if lossyFrom start w then partialLoss F d2 w.line else d2
    if !direct then ackAll F (d3.setStaged w.line (some e1)) acks
    else if (d3.wbEnt w.line).isSome then d3.setStaged w.line (some { e1 with state := .held, acks := acks })
    else d3.setWb w.line (some { e1 with state := .writeback, acks := acks })

/-- A write passes the ordering point (R66, R70, R73, R77, R82) and takes its place in Gondola. -/
def acceptWrite (F : Fuses) (d : Dev) (w : WReq) : Dev :=
  let (pre, d1) := (d.passOrder w.line w.reenc).preLaunchMove w.line
  stageWrite F w pre d1

/-- Discard an entry whose merge found poison (R72): it is freed, and what it owes completes. -/
def dropPartial (F : Fuses) (d : Dev) (line : Nat) (wb : Bool) (e : GEntry) : Dev :=
  let d1 := if wb then d.setWb line none else d.setStaged line none
  ackAll F (partialLoss F d1 line) e.acks

/-- Merge a partial entry with the older value of its line, read where it lies (R71, R76): the whole entry, or none where
that value is poison. It is read under the key index that the rekey boundary gives the line (R252), and for a write-back from a draining slot too (R236). -/
def mergeNow (F : Fuses) (d : Dev) (line : Nat) (e : GEntry) (wb : Bool) : Option GEntry × Dev :=
  if e.poison ∨ e.mask = fullMask then (some e, d)
  else
    let (v, d1) := match d.older line wb with
      | some v => (v, d)
      | none => match d.mediaLine line with
        | some m => d.openLineFor F wb (d.wbKey e.key (line * 64)) e.base line m
        | none => (.poison 1, d)
    match e.mergeOlder v with
    | some e1 => (some e1, d1.count 0x086)
    | none => (none, d1)

/-- The held entry of a line takes the place of the write-back entry that was freed (R73). -/
def promoteHeld (F : Fuses) (d : Dev) (line : Nat) : Dev :=
  match d.staged line with
  | some e =>
    if e.state = .held then
      match mergeNow F d line e true with
      | (some e1, d1) => (d1.setStaged line none).setWb line (some { e1 with state := .writeback })
      | (none, d1) => dropPartial F d1 line false e
    else d
  | none => d

/-- Discard a partial entry; one in write-back is followed by the held entry of its line (R72, R73). -/
def dropEntry (F : Fuses) (d : Dev) (line : Nat) (wb : Bool) (e : GEntry) : Dev :=
  let d1 := dropPartial F d line wb e
  if wb then promoteHeld F d1 line else d1

end Sys2Proof.Machine
end

