-- ==== Sys2Proof/Machine/HostReads.lean ====
section
/-!
DEFINITION. Host reads and what answers them (spec/03_line_engine.md, spec/07_line_integrity_drift.md): MEMRD, MEMSPECRD,
MEMINV, media returns, the heavy decoder and retries, credits, and unsupported opcodes.
-/
namespace Sys2Proof.Machine

/-- A committed decoder of the head maps the DPA (R39). A bonded decoder covers the whole range on both heads, and the granule of the DPA at
its granularity, modulo its ways, is the position the request has: the DPA keeps the interleave bits, since both heads reach one logical
device (R35; the HPA to DPA mapping of a bonded pair is not stated: log entry 67, DEDUCED). Once a port is lost the survivor takes every
position (R36). In the other modes a decoder covers its head's share of the range. -/
def Dev.mapped (F : Fuses) (d : Dev) (h : Head) (dpa : Nat) : Bool :=
  let bonded := decide (portMode F d = .bonded)
  (d.head h).decoders.any fun e => e.2.committed &&
    decide (e.2.dpa ≤ dpa ∧ dpa < e.2.dpa + (if bonded then e.2.size else e.2.size / e.2.ways)) &&
    (!bonded || d.pwr.portLost || dpa / e.2.gran % e.2.ways == e.2.pos)

/-- A request used a credit. -/
def Dev.useReq (d : Dev) (h : Head) : Dev := d.setHead h { d.head h with reqOut := (d.head h).reqOut - 1 }
/-- A write used a credit. -/
def Dev.useRwd (d : Dev) (h : Head) : Dev := d.setHead h { d.head h with rwdOut := (d.head h).rwdOut - 1 }

/-- A request that no decoder maps (R39); its response carries DevLoad as every other (R46). -/
def unmapped (F : Fuses) (d : Dev) (h : Head) (tag : BitVec 16) : Dev :=
  let d1 := d.event F 0x2004 (hIdx h)
  d1.emit (.unsupported h tag (devLoad F d1 h))

/-- A host read completes (R48): data, or poison with an event record; the data beside the Poison bit is a free value. -/
def respond (F : Fuses) (d : Dev) (h : Head) (tag : BitVec 16) (line t : Nat) (v : Val) : Dev :=
  let d0 := d.latency 0 (some h) (d.tether.now - t)
  match v with
  | .data x => d0.emit (.memData h tag x false (devLoad F d0 h))
  | .poison o =>
    let d1 := postAt F (d0.countH 0x046 h) .fail .poison (line * 64)
    let d2 := if o = 7 ∨ o = 8 ∨ o = 11 then recordPoison F d1 line o else d1
    let (x, d3) := d2.free
    d3.emit (.memData h tag (BitVec.ofNat 512 x) true (devLoad F d3 h))

/-- The host read's waiting place: join an outstanding fetch of the line with the present token, or issue one (R81, R93). -/
def Dev.fetchFor (d : Dev) (line key base : Nat) (w : List Waiter) (fill : Bool) : Dev :=
  let tk := d.token (sectorOf line)
  let c := d.cache
  let joins (f : Fetch) : Bool := f.line == line && f.token == tk && !f.stale
  if c.fetches.any joins then
    let l := c.fetches.map fun f => if joins f then { f with waiters := f.waiters ++ w, fill := f.fill || fill } else f
    d.setCache { c with fetches := l }
  else
    let t := line / 16384
    let r := d.metaRead t (line % 16384)
    let d0 := { r with tracts := { r.tracts with reads := Tbl.upd 0 r.tracts.reads t (· + 1) } }
    let d1 := (d0.tcLookup t (line % 16384)).count 0x084
    let f : Fetch := { id := d1.cache.fetchSeq, line := line, token := tk, waiters := w, key := key, base := base, fill := fill
                       set := d1.readSet t 0 }
    d1.setCache { d1.cache with fetches := d1.cache.fetches ++ [f], fetchSeq := d1.cache.fetchSeq + 1 }

/-- A host read that waits holds a tracker entry. -/
def Dev.trackIn (d : Dev) (h : Head) : Dev := d.setHead h { d.head h with inFlight := (d.head h).inFlight + 1 }
/-- It is released. -/
def Dev.trackOut (d : Dev) (h : Head) : Dev := d.setHead h { d.head h with inFlight := (d.head h).inFlight - 1 }

/-- A read of a line with a Gondola entry that holds it wholly or in part (R63, R71). -/
def readEntry (F : Fuses) (d : Dev) (h : Head) (tag : BitVec 16) (line key base : Nat) (e : GEntry) (isStaged : Bool) : Dev :=
  let t := d.tether.now
  if e.poison then respond F (d.count 0x080) h tag line t (.poison (if e.sealedWrite then 9 else 4))
  else if e.mask = fullMask then respond F (d.count 0x080) h tag line t (.data e.data)
  else match d.older line (!isStaged) with
    | some v =>
      match e.mergeOlder v with
      | some e1 =>
        let d1 := (if isStaged then d.setStaged line (some e1) else d.setWb line (some e1)).count 0x086
        respond F (d1.count 0x080) h tag line t (.data e1.data)
      | none => respond F (dropEntry F d line (!isStaged) e) h tag line t (.poison 6)
    | none =>
      let below : LineData × BitVec 64 := match (if isStaged then d.wbSeen line else none) with
        | some g => (overlay g.data e.data e.mask, g.mask ||| e.mask)
        | none => (e.data, e.mask)
      (d.trackIn h).fetchFor line key base
        [.host h tag t below.1 below.2, .merge e.seq] false

/-- The lines that an entry of the compatibility buffer has still to fetch at fill rank (R87), each once the tracker has an entry for it (R16). A line
known to be zero or poison needs no fetch. -/
def Dev.fillEntry (F : Fuses) (d : Dev) (n : Nat) : Dev :=
  let x := d.cmpEnt n
  ((List.range 64).filter fun i => x.fill.getLsbD i).foldl (fun d i =>
    let l := 64 * x.sec.num + i
    let rid (d : Dev) : Dev := d.setCmp n { d.cmpEnt n with fill := (d.cmpEnt n).fill &&& ~~~(BitVec.ofNat 64 (2 ^ i)) }
    if (d.cleanLine l).isSome then rid d
    else
      let (key, base) := d.keyBase (windowAt F d x.head (l * 64)) (l * 64)
      match d.below l with
      | .zero => rid (d.install l 0)
      | .poison _ => rid d
      | .fetch => if d.internFree .other = 0 then d else rid (d.fetchFor l key base [] true)) d

/-- A page that the compatibility buffer has just taken is filled, but for the line requested (R87). -/
def Dev.pageFill (F : Fuses) (d : Dev) (h : Head) (line : Nat) : Dev :=
  match d.findCmp (sectorOf line) with
  | none => d
  | some n =>
    let x := d.cmpEnt n
    (d.setCmp n { x with head := h, fill := x.fill &&& ~~~(BitVec.ofNat 64 (2 ^ (line % 64))) }).fillEntry F n

/-- An entry of the tracker is free again: pages that wait for one go on with their fill. -/
def Dev.fillsGo (F : Fuses) (d : Dev) : Dev :=
  ((List.range 48).filter fun n => (d.cmpEnt n).used && (d.cmpEnt n).fill != 0).foldl (fun d n => d.fillEntry F n) d

/-- A host read of the persistent space (R63, R81, R87, R90, R91, R176). -/
def readPersist (F : Fuses) (d : Dev) (h : Head) (tag : BitVec 16) (dpa : Nat) : Dev :=
  let line := dpa / 64
  let t := d.tether.now
  let (key, base) := d.keyBase (windowAt F d h dpa) dpa
  match d.staged line, d.wbSeen line with
  | some e, _ => readEntry F d h tag line key base e true
  | none, some e => readEntry F d h tag line key base e false
  | none, none =>
    match d.findSector (sectorOf line), d.cleanLine line with
    | some (hit, s), some x => respond F ((d.recall hit s line).count hit.event) h tag line t (.data x)
    | found, _ =>
      match d.below line with
      | .zero => respond F ((((d.bring line).install line 0).pageFill F h line).count 0x085) h tag line t (.data 0)
      | .poison o => respond F (match found with
          | some (hit, s) => d.recall hit s line
          | none => d) h tag line t (.poison o)
      | .fetch => (((d.bring line).trackIn h).fetchFor line key base [.host h tag t 0 0] true).pageFill F h line

/-- A host read (R14, R32, R37, R38, R65). -/
def hostRead (F : Fuses) (d : Dev) (h : Head) (tag : BitVec 16) (dpa : Nat) : Dev :=
  if !d.arrives h then d
  else
    let d1 := d.useReq h
    if !d1.mapped F h dpa then unmapped F d1 h tag
    else
      let d2 := d1.countH 0x040 h
      match placeOf F d2 h dpa with
      | .persist => readPersist F d2 h tag dpa
      | .scratch i =>
        if d2.cache.scrPoison.contains i then respond F d2 h tag (dpa / 64) d2.tether.now (.poison (d2.cache.scrOrigin i))
        else respond F (d2.count 0x08A) h tag (dpa / 64) d2.tether.now (.data (Tbl.look 0 d2.cache.scr i))
      | _ => respond F d2 h tag (dpa / 64) d2.tether.now (.poison 8)

/-- A speculative read (R32, R81): no response; dropped in reduced service, under Drogue, in a degraded group, and while
spec_en is 0. -/
def specRead (F : Fuses) (d : Dev) (h : Head) (dpa : Nat) : Dev :=
  if !d.arrives h then d
  else
    let d1 := (d.useReq h).countH 0x042 h
    let line := dpa / 64
    if !d1.mapped F h dpa then d1.event F 0x2004 (hIdx h)
    else if placeOf F d1 h dpa ≠ .persist then d1
    else if d1.pwr.svc ≠ .full ∨ d1.drogue ∨ d1.degraded line ∨ !d1.rbit LIN_CACHE_CFG 2 then d1.countH 0x043 h
    else if (d1.staged line).isSome ∨ (d1.wbSeen line).isSome ∨ (d1.cleanLine line).isSome then d1
    else
      let (key, base) := d1.keyBase (windowAt F d1 h dpa) dpa
      match d1.below line with
      | .zero => ((d1.bring line).install line 0).pageFill F h line
      | .poison _ => d1
      | .fetch => (((d1.bring line).trackIn h).fetchFor line key base [.spec h] true).pageFill F h line

/-! ## Media returns -/

/-- Queue a line for confirmation (R181). -/
def Dev.confirmAdd (d : Dev) (line key base : Nat) : Dev :=
  if d.drift.confirm.any fun c => c.line == line then d
  else { d with drift := { d.drift with confirm := d.drift.confirm ++ [⟨line, key, base⟩] } }

/-- Queue the tract of a line for resurvey (R187). -/
def Dev.resurveyAdd (d : Dev) (line : Nat) : Dev :=
  let e := d.ent (line / 16384)
  let k := physKey e.group e.index
  if (e.kind ≠ 1 ∧ e.kind ≠ 2) ∨ d.drift.resurvey.contains k then d
  else { d with drift := { d.drift with resurvey := d.drift.resurvey ++ [k] } }

/-- One waiter of a fetch gets its result. -/
def answerWaiter (F : Fuses) (src : Nat) (line : Nat) (v : Val) (d : Dev) (w : Waiter) : Dev :=
  match w with
  | .host h tag t data mask =>
    let d1 := (d.trackOut h).latency src (some h) (d.tether.now - t)
    match v with
    | .data x => respond F d1 h tag line t (.data (overlay x data mask))
    | .poison o => respond F d1 h tag line t (.poison (if mask = 0 then o else 6))
  | .spec h => d.trackOut h
  | .merge seq =>
    let fix (d : Dev) (e : GEntry) (wb : Bool) : Dev :=
      if e.seq ≠ seq ∨ e.poison ∨ e.mask = fullMask then d
      else match d.older line wb with
        | some _ => d
        | none =>
          let v1 : Val := match (if wb then none else d.wbSeen line), v with
            | some g, .data x => .data (overlay x g.data g.mask)
            | _, y => y
          match e.mergeOlder v1 with
          | some e1 => (if wb then d.setWb line (some e1) else d.setStaged line (some e1)).count 0x086
          | none => dropEntry F d line wb e
    match d.staged line, d.wbSeen line with
    | some e, some g => if e.seq = seq then fix d e false else fix d g true
    | some e, none => fix d e false
    | none, some g => fix d g true
    | none, none => d

/-- A fetch ends with a value (R81, R82, R93): its waiters are answered; the line is installed where it is data, no write
passed since, and the sector's token is that of the fetch. -/
def endFetch (F : Fuses) (d : Dev) (f : Fetch) (src : Nat) (v : Val) : Dev :=
  let d0 := d.setCache { d.cache with fetches := d.cache.fetches.filter fun x => x.id != f.id }
  let d1 := match v with
    | .poison o => if o = 1 ∨ o = 2 then d0.confirmAdd f.line f.key f.base else d0
    | .data _ => d0
  let d2 := (f.waiters.foldl (answerWaiter F src f.line v) d1).fillsGo F
  match v with
  | .poison _ => d2
  | .data x =>
    if !f.fill ∨ f.stale then d2
    else if d2.token (sectorOf f.line) = f.token then d2.install f.line x
    else d2.count 0x08C

/-- A stored line reaches the security engine, then ends the fetch (R243). -/
def openFetch (F : Fuses) (d : Dev) (f : Fetch) (src : Nat) (m : MediaLine) : Dev :=
  let (v, d1) := d.openLine F f.key f.base f.line m
  endFetch F d1 f src v

/-- Media event e of the quadrant of a line's home (R398). -/
def Dev.quadCount (d : Dev) (l : Loc) (e : Nat) : Dev := d.count (0x100 + 0x40 * (l.g / 8) + e)

/-- Is some unavailable member of a stripe only programming, or in an operation that counts as one (R154, R174)? -/
def Dev.programming (d : Dev) (l : Loc) : Bool :=
  (d.positions l.g l.w).any fun p => ((d.die (dieOf l.g p)).busy || d.longOp (dieOf l.g p)) && !d.posOut l.g p

/-- Change one fetch. -/
def Dev.mapFetch (d : Dev) (f : Fetch) (g : Fetch → Fetch) : Dev :=
  d.setCache { d.cache with fetches := d.cache.fetches.map fun x =>
                 if x.id = f.id then g x else x }

/-- A read completes beyond the bound of R94: it is counted where its group is neither degraded nor lost (R94, R162). -/
def Dev.transient (d : Dev) (l : Loc) : Dev := if 2 ≤ (d.grp l.g).units then d else d.bump MCH_TRANS_CNT

/-- What a home line that failed its code leaves behind once its read has completed from the stripe (R173, R174): the counts, the repair of its page
(R175), the failure toward ecc_lim (R160), and a resurvey (R187). A read that also met a frame reissue or the close of a test window is a
transient one (R94). -/
def codeFixed (d : Dev) (f : Fetch) (l : Loc) : Dev :=
  let m := dieOf l.g (d.dataPos l l.idx)
  let c := d.ctl m
  let d0 := (d.bump MCH_DEC_FB_CNT).setCtl m { c with eccFails := d.tether.now :: c.eccFails.filter fun t => decide (d.tether.now < t + 10 ^ 6) }
  let d1 := { d0 with drift := { d0.drift with repair := (d0.drift.repair.filter (· != f.line)) ++ [f.line] } }.resurveyAdd f.line
  if f.met then d1.transient l else d1

/-- A read completes from its stripe: after a failed decode, or as a read-around (R152, R173), which is counted for host reads. -/
def aroundDone (F : Fuses) (d : Dev) (f : Fetch) (l : Loc) (m : MediaLine) : Dev :=
  let host := f.waiters.any fun w => match w with
    | .host .. => true
    | _ => false
  let d1 := if f.code then codeFixed d f l else if host then d.bump (MCH_RA_CNT (l.g / 8)) else d
  openFetch F (d1.quadCount l 1) f 3 m

/-- The home line is not known and the stripe is used (R152, R173, R174): rebuilt, or wait for programs to end, or poison. -/
def fallback (F : Fuses) (d : Dev) (f : Fetch) (l : Loc) (unk : Nat) : Dev :=
  match d.rebuild l unk with
  | some m => aroundDone F d f l m
  | none =>
    if d.programming l then d.mapFetch f fun x => { x with fallback := false, retry := true, unk := unk, code := f.code }
    else endFetch F d f 3 (.poison 1)

/-- Erasures that the weak-byte map of a die names for the bank of a page, at most ten (R172). -/
def Dev.erasures (d : Dev) (m pa : Nat) : Nat := min 10 ((d.ctl m).weak.filter fun w => w.1 == bankOf pa).length

/-- The home die has weak-byte hints for the bank of a place (R172). -/
def Dev.hinted (d : Dev) (l : Loc) : Bool := decide (0 < d.erasures (dieOf l.g (d.dataPos l l.idx)) l.pa)

/-- What the fast decoder can correct (R171). -/
def fastOk : Verdict → Bool
  | .good n => decide (n ≤ 5)
  | .bad => true

/-- A read of an unsurveyed tract whose home member is not available goes around at once with the first set of the ladder, and otherwise waits for
the member; a test window that holds it closes early (R110, R186). -/
def ladderAround (F : Fuses) (d : Dev) (f : Fetch) (l : Loc) (unk : Nat) : Dev :=
  match d.rebuild l unk with
  | some m => aroundDone F d f l m
  | none =>
    if bit (d.grp l.g).failedM (d.dataPos l l.idx) then (if d.programming l then d else endFetch F d f 3 (.poison 1))
    else if d.pwr.svc = .reduced ∧ d.tether.twChan = 10 * (l.g / 8) + d.dataPos l l.idx then d.windowAbort (l.g / 8)
    else d

/-- An attempt of the threshold ladder returns (R186): both decoders have tried it. The first correct decode ends the ladder; after five failures
the line is read around with the first set, and is poison where that fails. -/
def ladderStep (F : Fuses) (d : Dev) (f : Fetch) (l : Loc) (v : Verdict) (unk : Nat) : Dev :=
  let home := d.dataPos l l.idx
  let n := d.erasures (dieOf l.g home) l.pa
  let d1 := (d.quadCount l 0)
  match v with
  | .good k => if k ≤ 5 ∨ (0 < n ∧ k ≤ n + (10 - n) / 2) then openFetch F d1 f 2 (d.stored l home) else d
  | .bad =>
    if f.rung < 4 then
      d1.mapFetch f fun x => { x with rung := f.rung + 1, set := d.readSet (f.line / 16384) (f.rung + 1), issued := false, sent := 0 }
    else match d1.rebuild l unk with
      | some m => aroundDone F d1 { f with code := false } l m
      | none => endFetch F d1 f 3 (.poison 1)

/-- A media line returns for the oldest fetch of a line (R171 to R174, R186): the fast verdict on the home line, and the members' lines that no decoder
corrected. A verdict that the fast decoder cannot give is none. A home that was refused twice or whose bank is held goes around (R152). -/
def mediaReturn (F : Fuses) (d : Dev) (line : Nat) (v : Verdict) (unk : Nat) : Dev :=
  match d.cache.fetches.find? fun f => f.line == line && !f.fallback && !f.retry with
  | none => d
  | some f =>
    match (if f.stale then d.belowMedia line else d.below line) with
    | .zero => endFetch F d f 2 (.data 0)
    | .poison o => endFetch F d f 2 (.poison o)
    | .fetch =>
      let l := d.lineLoc line
      let home := d.dataPos l l.idx
      let e := d.ent (line / 16384)
      if d.driftClass e.group e.index = 15 ∧ (d.rowLine l.g l.pa home l.slot).isNone ∧ !(3 ≤ (d.grp l.g).units ∧ bit (d.grp l.g).failedM home) then
        if d.posUnavail l.g home ∨ d.rowBad l.g l.pa home ∨ f.around then ladderAround F d f l unk else ladderStep F d f l v unk
      else if !fastOk v then d
      else match d.readLoc l (if f.around then .bad else v) unk with
        | .direct m => openFetch F (d.quadCount l 0) f 2 m
        | .lost => endFetch F d f 2 (.poison 7)
        | _ =>
          if f.around || d.posUnavail l.g home || d.rowBad l.g l.pa home then fallback F d f l unk
          else
            let d1 := ((d.quadCount l 0).quadCount l 7).quadCount l 9
            let f1 := { f with code := true }
            if d1.hinted l then
              d1.mapFetch f fun x => { x with fallback := true, unk := unk, code := true }
            else fallback F d1 f1 l unk

/-- The symbols that the heavy decoder corrects with f erasures: e errors beside them, 2e + f ≤ 10 (R171). -/
def heavyOk (v : Verdict) (f : Nat) : Bool :=
  match v with
  | .good n => decide (f ≤ 10 ∧ n ≤ f + (10 - f) / 2)
  | .bad => true

/-- Entries of a die's weak-byte map are matched (R172): they become the most recently matched. -/
def Dev.weakMatch (d : Dev) (m pa : Nat) (bytes : List Nat) : Dev :=
  let c := d.ctl m
  let hit (w : Nat × Nat) : Bool := w.1 == bankOf pa && bytes.contains w.2
  d.setCtl m { c with weak := (c.weak.filter hit) ++ c.weak.filter fun w => !hit w }

/-- The heavy decoder ends on a home line (R171, R173): its result, with the bytes that it corrected, else the stripe. A home declared failed
meanwhile is read around (R161). The lines of a read-around that have hints pass it too, before they count as unknown (R172): the mask of
unknown lines is what it leaves. -/
def heavyDone (F : Fuses) (d : Dev) (line : Nat) (v : Verdict) (bytes : List Nat) : Dev :=
  match d.cache.fetches.find? fun f => f.line == line && f.fallback with
  | none => d
  | some f =>
    let l := d.lineLoc line
    let home := d.dataPos l l.idx
    let f1 := { f with fallback := false }
    let d0 := d.mapFetch f fun _ => f1
    if !heavyOk v (d.erasures (dieOf l.g home) l.pa) then d
    else if d.posOut l.g home then fallback F (d0.mapFetch f fun _ => { f1 with code := false }) { f1 with code := false } l f.unk
    else
      let d1 := d0.quadCount l 8
      match v with
      | .good _ =>
        let d2 := ((d1.bump MCH_DEC_HEAVY_CNT).resurveyAdd line).weakMatch (dieOf l.g home) l.pa bytes
        openFetch F (postAt F d2 .info .erasures (line * 64)) f1 2 (d2.stored l home)
      | .bad => fallback F d1 f1 l f.unk

/-- The members whose programs have ended are read again (R162, R174), the home line's verdict and the unknown lines being given: the read completes once
enough of them have ended, and is poison when more than two lines are unknown with every live member read. -/
def retryRead (F : Fuses) (d : Dev) (line : Nat) (v : Verdict) (unk : Nat) : Dev :=
  match d.cache.fetches.find? fun f => f.line == line && f.retry with
  | none => d
  | some f =>
    let l := d.lineLoc line
    if !fastOk v then d
    else match d.readLoc l (if f.code ∨ f.around then .bad else v) unk with
      | .direct m => openFetch F (d.transient l) f 2 m
      | .around m => aroundDone F (d.transient l) { f with met := false } l m
      | .lost => endFetch F d f 3 (.poison 7)
      | .unknown => if d.programming l then d else endFetch F d f 3 (.poison 1)

/-! ## The meanings -/

/-- CREDIT_GRANT (R45). -/
def execCreditGrant (h : Head) (rwd : Bool) (s : State) : Host.Outcome State Fault Refusal :=
  let d := s.dev
  let x := d.head h
  if rwd then
    .next (if rwdFree s.fuse d h then
        { s with dev := (d.setHead h { x with rwdOut := x.rwdOut + 1 }).emit (.credit h true) } else s)
  else
    .next (if reqFree s.fuse d h then
        { s with dev := (d.setHead h { x with reqOut := x.reqOut + 1 }).emit (.credit h false) } else s)

/-- MEMRD (R63). -/
def execMemrd (h : Head) (tag : BitVec 16) (dpa : Dpa) (s : State) : Host.Outcome State Fault Refusal :=
  .next { s with dev := hostRead s.fuse s.dev h tag dpa.toNat }

/-- MEMSPECRD (R32). -/
def execMemspecrd (h : Head) (dpa : Dpa) (s : State) : Host.Outcome State Fault Refusal :=
  .next { s with dev := specRead s.fuse s.dev h dpa.toNat }

/-- MEMINV and MEMINVNT (R32): NDR Cmp; data and cache state unchanged. -/
def execMeminv (h : Head) (tag : BitVec 16) (dpa : Dpa) (_nt : Bool) (s : State) : Host.Outcome State Fault Refusal :=
  let d := s.dev
  let d1 := d.useReq h
  .next (if !d.arrives h then s
    else { s with dev := if d1.mapped s.fuse h dpa.toNat then d1.emit (.cmp h tag (devLoad s.fuse d1 h))
                         else unmapped s.fuse d1 h tag })

/-- UNSUPPORTED_M2S_OPCODE (R32). -/
def execUnsupportedM2sOpcode (h : Head) (tag : BitVec 16) (op : BitVec 8) (s : State) :
    Host.Outcome State Fault Refusal :=
  let d := s.dev
  let d1 := (d.useReq h).event s.fuse 0x2008 (hIdx h + op.toNat * 2 ^ 8)
  .next (if !d.arrives h then s
    else { s with dev := d1.emit (.unsupported h tag (devLoad s.fuse d1 h)) })

/-- MEDIA_LINE_RETURN (R81). -/
def execMediaLineReturn (dpa : Dpa) (v : Verdict) (unk : StripeMask) (s : State) : Host.Outcome State Fault Refusal :=
  .next { s with dev := mediaReturn s.fuse s.dev (dpa.toNat / 64) v unk.toNat }

/-- HEAVY_DECODE_DONE (R171). -/
def execHeavyDecodeDone (dpa : Dpa) (v : HeavyResult) (s : State) : Host.Outcome State Fault Refusal :=
  .next { s with dev := heavyDone s.fuse s.dev (dpa.toNat / 64) v.v (v.bytes.map (·.val)) }

/-- READ_RETRY_AFTER_PROGRAM (R174). -/
def execReadRetryAfterProgram (dpa : Dpa) (v : Verdict) (unk : StripeMask) (s : State) :
    Host.Outcome State Fault Refusal :=
  .next { s with dev := retryRead s.fuse s.dev (dpa.toNat / 64) v unk.toNat }

end Sys2Proof.Machine
end

