-- ==== Sys2Proof/Machine/WriteBack.lean ====
section
/-!
DEFINITION. Writing staged lines to media (spec/03_line_engine.md, spec/08_tracts.md): selection (R75), the merge of a
partial entry (R71, R72), and the end of a write-back (R76, R205, R208, R209, R212, R222, R227).
-/
namespace Sys2Proof.Machine

/-- Present heat period applied to a header (R208). -/
def heatAt (period : Nat) (h : THeader) : THeader :=
  let n := (period + 2 ^ 16 - h.epoch) % 2 ^ 16
  { h with heat := if 16 ≤ n then 0 else h.heat / 2 ^ n, epoch := period }

/-- Hot and cold thresholds (MTL_HEAT_CFG). -/
def Dev.hotTh (d : Dev) : Nat := d.fld MTL_HEAT_CFG 31 16
/-- Threshold below which a tract is cold. -/
def Dev.coldTh (d : Dev) : Nat := d.fld MTL_HEAT_CFG 15 8

/-- The logical line a gap move of a header copies, with its old and new slot (R206). -/
def gapStep (h : THeader) : Nat × Nat := if h.gap = 0 then (16384, 0) else (h.gap - 1, h.gap)

/-- The header after a gap move (R206, R207). -/
def gapNext (h : THeader) : THeader :=
  if h.gap = 0 then { h with gap := 16384, start := (h.start + 1) % 16384, wcnt := 0 }
  else { h with gap := h.gap - 1, wcnt := 0 }

/-- Entries written before a launch are left in a tract (R287). -/
def Dev.preLaunchLeft (d : Dev) (t : Nat) : Bool :=
  let f (e : Nat × Option GEntry) := match e.2 with
    | some g => decide (e.1 / 16384 = t) && g.preLaunch.isSome
    | none => false
  d.gon.staged.any f || d.gon.wb.any f

/-- A launched Snapshot holds changes of a tract of its source or image: its mapping is not yet built, or pre-launch entries
of the source tract are left (R286, R287). -/
def Dev.snapHolds (d : Dev) (t : Nat) : Bool :=
  d.str.snaps.any fun s =>
    let a := s.src / 2 ^ 20
    let b := s.dst / 2 ^ 20
    let n := s.size / 2 ^ 20
    let busy (i : Nat) : Bool := decide (s.built ≤ i) || d.preLaunchLeft (a + i)
    s.fired.isSome && ((decide (a ≤ t ∧ t < a + n) && busy (t - a)) || (decide (b ≤ t ∧ t < b + n) && busy (t - b)))

/-- Is a write-back of a line held: by a fetch of its older value that has not returned (R66, log entry 69), by the last steps of a migration, by a gap move of the line (R211, R207), or by a
Snapshot (R287)? -/
def Dev.wbHeld (d : Dev) (line : Nat) : Bool :=
  let t := line / 16384
  (d.cache.fetches.any fun f => f.line == line && f.stale) ||
    (d.tracts.migs.any fun x => x.tract == t && decide (4 ≤ x.step ∧ x.step ≤ 6)) ||
    (d.tracts.gaps.contains t && slotOf (d.hdr t) (line % 16384) == (gapStep (d.hdr t)).1)

/-- Class of a home is so high that no program is made in it (R188); an unsurveyed tract has no class. -/
def Dev.mixed (d : Dev) (t : Nat) : Bool :=
  let e := d.ent t
  let c := d.driftClass e.group e.index
  decide (c ≠ 15 ∧ d.fld MCH_DRF_CFG 3 2 ≤ c)

/-- A staged entry is selected: it is merged and becomes the line's write-back entry (R75, R76). -/
def selectOne (F : Fuses) (raised : Bool) (d : Dev) (line : Nat) : Dev :=
  match d.staged line, d.wbEnt line with
  | some e, none =>
    match mergeNow F d line e false with
    | (some e1, d1) => (d1.setStaged line none).setWb line (some { e1 with state := .writeback, raised := raised })
    | (none, d1) => dropPartial F d1 line false e
  | _, _ => d

/-- May Gondola select this staged entry (R73, R75)? -/
def Dev.selectable (d : Dev) (e : Nat × GEntry) : Bool :=
  decide (e.2.state = .staged) && (d.wbEnt e.1).isNone

/-- Is the home of a line on the same die page as another's? -/
def Dev.samePage (d : Dev) (x y : Nat) : Bool :=
  let k (l : Nat) := (d.ent (l / 16384)).kind
  if (k x = 1 ∨ k x = 2) ∧ (k y = 1 ∨ k y = 2) then
    let a := d.lineLoc x
    let b := d.lineLoc y
    decide (a.g = b.g ∧ a.pa = b.pa ∧ d.dataPos a a.idx = d.dataPos b b.idx)
  else false

/-- The oldest of a list of entries. -/
def oldest (l : List (Nat × GEntry)) : Option (Nat × GEntry) :=
  l.foldl (fun acc e => match acc with
    | none => some e
    | some a => if e.2.time < a.2.time ∨ (e.2.time = a.2.time ∧ e.2.seq < a.2.seq) then some e else some a) none

/-- Gondola's selection (R75), with the pre-launch entries of R287 first: the oldest entry the present fill admits, and
with it those of the admitted entries that lie in its media page. -/
def writebackSelect (F : Fuses) (d : Dev) : Dev :=
  if d.pwr.svc = .flush then d
  else
    let l := d.stagedList.filter d.selectable
    let pre := l.filter fun e => e.2.preLaunch.isSome
    let age := d.fld LIN_GND_CFG 23 16
    let raised := d.raisedNow
    let cand := if !pre.isEmpty then pre
      else if raised ∨ d.fld LIN_GND_CFG 3 0 ≤ d.fillSixteenths then l
      else l.filter fun e => decide (age ≠ 0 ∧ e.2.time + age * 1000000 < d.tether.now)
    match oldest cand with
    | none => d
    | some a =>
      let rest := (cand.filter fun e => e.1 != a.1 && d.samePage e.1 a.1).map (·.1)
      (a.1 :: rest).foldl (selectOne F (raised || !pre.isEmpty)) d

/-! ## The end of a write-back -/

/-- A write-back entry is freed: its writes complete, and a held entry follows it. -/
def freeWb (F : Fuses) (d : Dev) (line : Nat) (e : GEntry) : Dev :=
  promoteHeld F (ackAll F (d.setWb line none) e.acks) line

/-- Heat, write count and the row of a migration target that a write-back marks (R208, R206, R212). -/
def Dev.wroteBack (d : Dev) (line : Nat) : Dev :=
  let t := line / 16384
  let h := heatAt d.tracts.period (d.hdr t)
  let d1 := d.setHdr t { h with heat := satAdd h.heat 1 0xFFFF, wcnt := satAdd h.wcnt 1 0xFFFF }
  let migs := d1.tracts.migs.map fun x =>
    if x.tract = t ∧ x.step ≤ 3 then
      let r := line % 16384 / (8 * (10 - x.target.wd - 2))
      { x with marked := if x.marked.contains r then x.marked else x.marked ++ [r] }
    else x
  { d1 with tracts := { d1.tracts with migs := migs } }

/-- A write-back may make its tract hot, and start its promotion (R209). -/
def Dev.promote (d : Dev) (t : Nat) : Dev :=
  if (d.ent t).kind = 1 ∧ d.hotTh ≤ (d.hdr t).heat ∧ d.zone < d.tracts.zt ∧ d.rbit MTL_UPD_CFG 31 then d.migQueue t .promote
  else d

/-- A lost line has been written again: it no longer reads as poison (R69, R180). -/
def Dev.unlose (d : Dev) (line : Nat) : Dev :=
  { d with gon := { d.gon with lostLines := d.gon.lostLines.filter (· != line) } }

/-- The program of a write-back entry has finished with good status (R76): `m` is the line's new media value. -/
def finishWb (F : Fuses) (d : Dev) (line : Nat) (e : GEntry) (m : MediaLine) : Dev :=
  let d1 := (if e.reenc then d.count 0x205 else d).rowNote line
  let l := d1.lineLoc line
  let d2 := (((d1.putLine line m).wearRow l (l.slc || !d1.rowLive l)).wroteBack line).unlose line
  let d3 := (d2.count 0x087).promote (line / 16384)
  let d4 := if d3.rbit LIN_CACHE_CFG 1 ∧ !e.poison ∧ (d3.staged line).isNone then d3.install line e.data else d3
  freeWb F d4 line e

/-- A re-encryption write keeps the line's minor under the new major (R248). -/
def Dev.sealReenc (d : Dev) (k base line : Nat) (x : LineData) : Option (MediaLine × Dev) :=
  match d.ctrGet (line / 64) k base with
  | (some c, d1) =>
    some (d1.seal k (line * 64) base c.major (Tbl.look 0 c.minors (line % 64)) x, (d1.reencClear line).count 0x201)
  | (none, _) => none

/-- A pre-launch entry has been written back after its tract's mapping was built (R287 rule 1): the image shares a home
that the tract took only now, and has the line's written bit and counter block. -/
def Dev.toImage (d : Dev) (pre : Option Nat) (line : Nat) : Dev :=
  match pre.bind fun h => d.str.snaps.find? fun s => s.handle == h with
  | none => d
  | some s =>
    let t := line / 16384
    let i := t - s.src / 2 ^ 20
    let u := s.dst / 2 ^ 20 + i
    if s.built ≤ i then d
    else
      let e := d.ent t
      if (d.ent u).kind = 0 ∨ (d.ent u).kind = 3 then
        let r := d.phys e.group e.index
        let d1 := d.setPhys e.group e.index { r with refs := r.refs + 1 }
        let d2 := ((d1.setEnt t { e with shr := true }).setEnt u { e with shr := true }).setHdr u (d.hdr t)
        d2.setMeta { d2.tracts.cur with bits := Tbl.put 0 d2.tracts.cur.bits u (d.wbits t) }
      else (d.setHdr u { d.hdr u with ctr := (d.hdr t).ctr }).setWritten u (line % 16384) true

/-- WRITE_BACK_DONE's conditions and placement (R25, R76, R148, R149, R188, R209, R211, R221, R227). -/
def writeBackDone (F : Fuses) (d : Dev) (line : Nat) : Dev :=
  match d.wbEnt line with
  | none => d
  | some e0 =>
    let t := line / 16384
    if e0.gone then freeWb F d line e0
    else if d.wbHeld line ∨ !d.wbRoom line ∨ (e0.preLaunch.isNone ∧ d.snapHolds t) then d
    else match mergeNow F d line e0 true with
      | (none, d1) => dropEntry F d1 line true e0
      | (some e, d0) =>
        let en := d0.ent t
        if en.shr ∧ e.preLaunch.isNone then d0.migQueue t .cow
        else if (en.kind = 1 ∨ en.kind = 2) ∧ d0.mixed t then d0.migQueue t .refresh
        else if e.sealedWrite ∧ (en.kind = 0 ∨ en.kind = 3) then
          let d1 := if en.kind = 3 then d0 else (d0.setEnt t { kind := 3 }).setHdr t { d0.hdr t with voidMeta := false }
          freeWb F ((d1.setWritten t (line % 16384) true).count 0x087) line e
        else
          let homed := if en.kind = 1 ∨ en.kind = 2 then some d0 else d0.firstHome t (line % 16384) false
          match homed with
          | none => d0
          | some d1 =>
            if e.poison then (finishWb F d1 line e poisonLine).toImage e.preLaunch line
            else match (if e.reenc then d1.sealReenc (d1.wbKey e.key (line * 64)) e.base line e.data
                else d1.sealLine F (d1.wbKey e.key (line * 64)) e.base line e.data) with
              | none => d0
              | some (m, d2) => (finishWb F d2 line e m).toImage e.preLaunch line

/-- WRITEBACK_SELECT (R75). -/
def execWritebackSelect (s : State) : Host.Outcome State Fault Refusal :=
  .next { s with dev := writebackSelect s.fuse s.dev }

/-- WRITE_BACK_DONE (R76). -/
def execWriteBackDone (dpa : Dpa) (s : State) : Host.Outcome State Fault Refusal :=
  .next { s with dev := (writeBackDone s.fuse s.dev (dpa.toNat / 64)).gpfSettle }

/-- STAGED_ENTRY_TRANSLATE (R225). -/
def execStagedEntryTranslate (dpa : Dpa) (s : State) : Host.Outcome State Fault Refusal :=
  let d := s.dev
  let line := dpa.toNat / 64
  .next (match d.staged line with
    | some e => { s with dev := (d.tcLookup (line / 16384) (line % 16384)).setStaged line (some { e with translated := true }) }
    | none => s)

end Sys2Proof.Machine
end

