-- ==== Sys2Proof/Machine/HostWrites.lean ====
section
/-!
DEFINITION. Host writes (R33, R37, R38, R43, R68 to R73, R227, R251) and the stores of the line engine: Gondola macros
(R69), SRAM words (R194), scratch ways (R83, R84), compatibility mode (R86 to R88), transit and Ballast (R89), and
invalidation by address (R92).
-/
namespace Sys2Proof.Machine

/-- A vendor-specific event record for a tract on the head that made a write, while that head's logs hold none (R37). -/
def Dev.armedRecord (d : Dev) (h : Head) (k : EvKind) (tract : Nat) : Dev :=
  if (d.head h).holds k tract then d else d.post h .warn k tract

/-- A write completes on the link without being applied (R37, R38, R43, R251): counted, and reported where the DPA names a
tract. -/
def discardHost (F : Fuses) (d : Dev) (h : Head) (tag : BitVec 16) (tract : Option Nat) : Dev :=
  let d1 := (d.bump LNK_DISCARD_CNT).countH 0x047 h
  let d2 := match tract with
    | some t => d1.armedRecord h .discardedWrite t
    | none => d1
  d2.emit (.cmp h tag (devLoad F d2 h))

/-- A scratch write (R28, R65, R194): applied at once, and never persistent. A partial write to a poisoned line is
discarded as R70 sets. -/
def scratchWrite (F : Fuses) (d : Dev) (h : Head) (tag : BitVec 16) (line i : Nat) (data : LineData) (be : BitVec 64)
    (poison : Bool) : Dev :=
  let c := d.cache
  let done (d : Dev) := d.emit (.cmp h tag (devLoad F d h))
  if poison then
    done ((recordPoison F d line 4).setCache { c.scrMark i 4 with scr := Tbl.put 0 c.scr i 0 })
  else if be = fullMask then
    done (d.setCache { c with scrPoison := c.scrPoison.filter (· != i), scr := Tbl.put 0 c.scr i data })
  else if c.scrPoison.contains i then done (partialLoss F d line)
  else done (d.setCache { c with scr := Tbl.upd 0 c.scr i fun x => overlay x data be })

/-- A sealed write (R227): counted, recorded and reported at its acceptance. -/
def sealedNote (F : Fuses) (d : Dev) (h : Head) (line : Nat) : Dev :=
  let a := line * 64
  let d1 := ((d.bump MTL_SEAL_CNT).setReg MTL_SEAL_LAST_LO (BitVec.ofNat 32 a)).setReg MTL_SEAL_LAST_HI
    (BitVec.ofNat 32 (2 ^ 31 + a / 2 ^ 32 % 2 ^ 12))
  let d2 := if (d1.head h).holds .sealedWrite (line / 16384) then d1
    else (d1.post h .warn .sealedWrite (line / 16384)).event F 0x5004 (line / 16384)
  recordPoison F (d2.countH 0x047 h) line 9

/-- Does a write to a DPA meet a read-only place: an XTS window, an exhausted page, or a window of one while the
exhausted-page table is full (R43, R251)? -/
def Dev.readOnly (d : Dev) (w : Option Win) (dpa : Nat) : Bool :=
  (match w with
    | some x => decide (x.mode = 1) || d.sec.exhWins.contains x.n
    | none => false) || d.sec.exh.contains (dpa / 4096)

/-- A host write to the persistent space. -/
def writePersist (F : Fuses) (d : Dev) (h : Head) (tag : BitVec 16) (dpa : Nat) (data : LineData) (be : BitVec 64)
    (poison : Bool) : Dev :=
  let w := windowAt F d h dpa
  let line := dpa / 64
  if d.readOnly w dpa then discardHost F d h tag (some (dpa / 2 ^ 20))
  else
    let (key, base) := d.keyBase w dpa
    let wt := match w with
      | some x => x.wt
      | none => false
    let r : WReq := { line := line, data := data, mask := be, poison := poison, key := key, base := base, wt := wt,
                      owner := .host h, ack := some (.host h tag d.tether.now) }
    if d.tracts.sealed then
      acceptWrite F ((sealedNote F d h line).trackIn h) { r with poison := true, sealedWrite := true }
    else if poison then acceptWrite F ((recordPoison F d line 4).trackIn h) r
    else acceptWrite F (d.trackIn h) r

/-- A host write (R14, R33, R37, R38, R70). -/
def hostWrite (F : Fuses) (d : Dev) (h : Head) (tag : BitVec 16) (dpa : Nat) (data : LineData) (be : BitVec 64)
    (poison : Bool) : Dev :=
  if !d.arrivesW h then d
  else
    let d1 := d.useRwd h
    if !d1.mapped F h dpa then unmapped F d1 h tag
    else
      let d2 := d1.countH 0x041 h
      match placeOf F d2 h dpa with
      | .persist => writePersist F d2 h tag dpa data be poison
      | .scratch i => scratchWrite F (d2.count 0x08B) h tag (dpa / 64) i data be poison
      | .sharedHidden => discardHost F d2 h tag (some (dpa / 2 ^ 20))
      | .nothing =>
        let d3 := if d2.scrChanging F h ∧ volBase ≤ dpa ∧ dpa < volBase + 2 ^ 28 then d2.bump LIN_DISCARD_CNT else d2
        discardHost F d3 h tag none

/-- MEMWR (R70). -/
def execMemwr (h : Head) (tag : BitVec 16) (dpa : Dpa) (data : LineData) (poison : Bool) (s : State) :
    Host.Outcome State Fault Refusal :=
  .next { s with dev := hostWrite s.fuse s.dev h tag dpa.toNat data fullMask poison }

/-- MEMWRPTL (R70). -/
def execMemwrptl (h : Head) (tag : BitVec 16) (dpa : Dpa) (data : LineData) (be : BitVec 64) (poison : Bool) (s : State) :
    Host.Outcome State Fault Refusal :=
  .next { s with dev := hostWrite s.fuse s.dev h tag dpa.toNat data be poison }

/-! ## Faults of the stores -/

/-- FAULT_N driven low as a level (R336); the logbook is flushed (R388). -/
def Dev.faultLevel (F : Fuses) (d : Dev) : Dev :=
  Dev.forceFlush F (({ d with pwr := { d.pwr with drive := true, pinLow := true } }).emit (.faultN true true))

/-- FAULT_N pulsed low for 100 µs (R336). -/
def Dev.faultPulse (d : Dev) : Dev :=
  ({ d with pwr := { d.pwr with pulse := true, pinLow := true, pulseAt := d.tether.now } }).emit (.faultN false true)

/-- A line of which a Gondola entry cannot be reconstructed is recorded as poisoned, origin 0x5 (R69): it is stored as a poison line where its home
can take it now (R177), and listed otherwise. -/
def lostLine (F : Fuses) (d : Dev) (line : Nat) : Dev :=
  let e := d.ent (line / 16384)
  let d1 := if (e.kind = 1 ∨ e.kind = 2) ∧ !e.shr ∧ d.wbRoom line ∧ !d.wbHeld line then d.putLine line poisonLine
    else { d with gon := { d.gon with lostLines := (d.gon.lostLines.filter (· != line)) ++ [line] } }
  recordPoison F (d1.event F 0x3002 (line * 64)) line 5

/-- The entries of a line in the banks that `inB` names cannot be reconstructed (R69). What a lost entry owes completes at the loss: the
rule is silent on it (log entry 72, DESIGN CHOICE). A staged entry that is lost takes the older write-back entry with it, which reads no
longer take; a lost write-back entry under an intact whole staged one loses nothing, and is followed by a held one. -/
def loseLine (F : Fuses) (inB : GEntry → Bool) (d : Dev) (line : Nat) : Dev :=
  let lost (e : Option GEntry) : Option GEntry := match e with
    | some g => if inB g then some g else none
    | none => none
  match lost (d.staged line), lost (d.wbEnt line) with
  | none, none => d
  | some e, none =>
    let d1 := (d.setStaged line none).setWb line ((d.wbEnt line).map fun g => { g with gone := true })
    lostLine F (ackAll F d1 e.acks) line
  | none, some g =>
    let whole := match d.staged line with
      | some e => e.poison || e.mask == fullMask
      | none => false
    let d1 := ackAll F (d.setWb line none) g.acks
    promoteHeld F (if whole then d1 else lostLine F d1 line) line
  | some e, some g => lostLine F (ackAll F ((d.setStaged line none).setWb line none) (g.acks ++ e.acks)) line

/-- Staged lines of a bank go to write-back at once; one whose line is already in write-back follows it as a held entry does (R69, R73). -/
def drainBank (F : Fuses) (d : Dev) (b : Nat) : Dev :=
  let mine := d.stagedList.filter fun e => e.2.bank == b
  let d1 := ((mine.filter d.selectable).map (·.1)).foldl (selectOne F true) d
  (mine.filter fun e => decide (e.2.state = .staged) && (d1.wbEnt e.1).isSome && (d1.staged e.1).isSome).foldl (fun d e =>
    d.setStaged e.1 ((d.staged e.1).map fun g => { g with state := .held })) d1

/-- GONDOLA_MACRO_FAIL (R69, R26): the lines of `lost` had an error in a third symbol. -/
def gondolaMacro (F : Fuses) (d : Dev) (b m : Nat) (lost : List Nat) : Dev :=
  let failed := Tbl.look [] d.gon.macros b
  if failed.contains m then d
  else
    let d0 := { d with gon := { d.gon with macros := Tbl.put [] d.gon.macros b (failed ++ [m]) } }
    let dc := { d0 with drift := { d0.drift with onCorr := satAdd d0.drift.onCorr 1 0xFF } }
    let d1 := (dc.event F 0x3001 (b + 8 * m)).icu 77
    if failed.isEmpty then d1
    else
      drainBank F (lost.foldl (loseLine F fun g => g.bank == b) (d1.postAll F .fail .uncovered b)).faultPulse b

/-- GONDOLA_MACRO_FAIL (R69). -/
def execGondolaMacroFail (bank : Fin 8) (macroNo : Fin 10) (lost : List Dpa) (s : State) : Host.Outcome State Fault Refusal :=
  .next { s with dev := (gondolaMacro s.fuse s.dev bank.val macroNo.val (lost.map fun a => a.toNat / 64)).gpfSettle }

/-- A macro of a cache way fails (R26, R82): the lines of a sectored way are misses from then on; a converted way and way 11 run on
correction, and keep their contents. The controller records that a macro runs on correction. -/
def Dev.cacheMacro (d : Dev) (w : Nat) : Dev :=
  if d.cache.badWays.contains w then d
  else
    let d1 := d.setCache { d.cache with badWays := d.cache.badWays ++ [w], ways := d.cache.ways.filter fun e => e.1 % 12 != w }
    ({ d1 with drift := { d1.drift with onCorr := satAdd d1.drift.onCorr 1 0xFF } }).icu 77

/-- SRAM_WORD_CORRECTED (R194). -/
def execSramWordCorrected (w : SramWord) (s : State) : Host.Outcome State Fault Refusal :=
  let d := s.dev.bump GLB_SRAM_CE_CNT
  .next { s with dev := match w.way with
    | some k => d.cacheMacro k.val
    | none => d }

/-- Number of a store in a logbook argument: the order of R194's text (the manual gives no numbers, log entry 15). -/
def storeNo : SramStore → Nat
  | .gondola => 0
  | .cache => 1
  | .ballast => 2
  | .compat => 3
  | .spool => 4
  | .counterCache => 5
  | .translationCache => 6
  | .commandTable => 7
  | .driftLedger => 8
  | .openRow => 9
  | .logBuffer => 10
  | .other => 11

/-- A tract becomes void under R230: every written bit set. -/
def Dev.voidTract (d : Dev) (t : Nat) : Dev :=
  let d1 := d.setEnt t { kind := 3 }
  let m := { d1.tracts.cur with bits := Tbl.put 0 d1.tracts.cur.bits t (2 ^ 16384 - 1) }
  (d1.setMeta m).setHdr t { gap := 16384, voidMeta := true }

/-- A metadata line that is lost in both copies (R230). -/
def metaLost (F : Fuses) (d : Dev) (id : Nat) : Dev :=
  let ts := if id < 2 ^ 24 then (List.range 16).map (16 * id + ·)
    else if id < 2 ^ 26 then (List.range 4).map (4 * (id - 2 ^ 24) + ·)
    else if id < 2 ^ 30 then [(id - 2 ^ 26) / 32] else []
  let d1 := ts.foldl (fun d t => d.event F 0x4006 t) d
  if id < 2 ^ 26 then
    ts.foldl (fun d t => recordPoison F (d.voidTract t) (t * 16384) 12) d1
  else if id < 2 ^ 30 then
    let t := ts.headD 0
    let k := (id - 2 ^ 26) % 32
    let m := d1.tracts.cur
    let v := setBits (d1.wbits t) (512 * k + 511) (512 * k) (2 ^ 512 - 1)
    (d1.setMeta { m with bits := Tbl.put 0 m.bits t v }).tcTouch id true
  else d1

/-- An uncorrectable word of a store (R194). -/
def sramBad (F : Fuses) (d : Dev) (st : SramStore) (a : Nat) : Dev :=
  let line := a / 64
  let du := { d with drift := { d.drift with sramUe := true } }
  let d0 := Dev.forceFlush F ((du.event F 0x3005 (storeNo st)).icu 77)
  match st with
  | .gondola => if (d0.staged line).isSome ∨ (d0.wbEnt line).isSome then loseLine F (fun _ => true) d0.faultPulse line else d0
  | .cache | .ballast | .compat =>
    if volBase ≤ a then
      let i := (a - volBase) / 64
      d0.setCache (d0.cache.scrMark i 11)
    else d0.writeClears line
  | .spool =>
    let l := d0.lci.cmds.map fun c => if c.handle = a % 2 ^ 32 ∧ c.state = 0 then { c with state := 4, status := 0x0701 } else c
    { (d0.event F 0x6003 (a / 2 ^ 26 % 64)).icu 78 with lci := { d0.lci with cmds := l, parity := satAdd d0.lci.parity 1 0xFFFF } }
  | .counterCache =>
    let page := line / 64
    match d0.ctrPlace page with
    | some p => match Tbl.look none d0.sec.ctr p with
      | some c =>
        let d1 := { d0 with sec := { d0.sec with ctr := Tbl.put none d0.sec.ctr p none } }
        if c.dirty.isSome then d1.exhaust F page else d1
      | none => d0
    | none => d0
  | .translationCache =>
    match d0.tracts.tc.find? fun l => l.id == a with
    | some l =>
      if l.dirty.isSome then metaLost F d0 a
      else { d0 with tracts := { d0.tracts with tc := d0.tracts.tc.filter fun x => x.id != a } }
    | none => d0
  | .driftLedger =>
    let ks := (List.range 16).map (a / 16 * 16 + ·)
    let cls := ks.foldl (fun t k => Tbl.put 0 t k 0) d0.drift.cls
    let held := ks.filter fun k => decide (Tbl.look 0 d0.drift.cls k ≠ 0)
    { d0 with drift := { d0.drift with cls := cls, resurvey := d0.drift.resurvey ++ held.filter fun k => !d0.drift.resurvey.contains k } }
  | .other =>
    match d0.cache.fetches.find? fun f => f.line == line with
    | some f => endFetch F d0 f 2 (.poison 11)
    | none => d0
  | .commandTable | .openRow | .logBuffer => d0

/-- SRAM_UNCORRECTABLE (R194). -/
def execSramUncorrectable (store : SramStore) (dpa : Dpa) (s : State) : Host.Outcome State Fault Refusal :=
  .next { s with dev := (sramBad s.fuse s.dev store dpa.toNat).gpfSettle }

/-! ## Scratch ways -/

/-- Converted ways of a head under a mapping (R83). -/
def scrSet (dual : Bool) (en hb : Nat) (h : Head) : List Nat :=
  (List.range 3).filter fun w => bit en w && (!dual || b2n (bit hb w) == hIdx h)

/-- A write of LIN_SCR_CTL (R84). -/
def scratchWriteCtl (F : Fuses) (d : Dev) (v : Nat) : Dev :=
  let c := d.cache
  if c.scrBusy then d
  else
    let en := bits v 2 0
    let hb := bits v 6 4
    let dual := decide (portMode F d = .dualHead)
    let changed (h : Head) : Bool := scrSet dual c.scrAct c.scrHeadB h != scrSet dual en hb h
    let lostWays := [Head.a, Head.b].flatMap fun h =>
      if changed h then scrSet dual c.scrAct c.scrHeadB h ++ scrSet dual en hb h else []
    let gone (i : Nat) : Bool := lostWays.contains (i / 65536 - 8)
    let c1 : Cache := { c with scrBusy := true, scrChgA := changed .a, scrChgB := changed .b,
                               scr := c.scr.filter fun e => !gone e.1,
                               scrPoison := c.scrPoison.filter fun i => !gone i,
                               ways := c.ways.filter fun e => !(decide (8 ≤ e.1 % 12 ∧ e.1 % 12 ≤ 10) && bit en (e.1 % 12 - 8)) }
    (d.setReg LIN_SCR_CTL (BitVec.ofNat 32 (en + 16 * hb))).setCache c1

/-- A scratch change is complete: the new mapping applies (R84). -/
def Dev.scratchDone (d : Dev) : Dev :=
  if d.cache.scrBusy then
    d.setCache { d.cache with scrBusy := false, scrChgA := false, scrChgB := false,
                              scrAct := d.fld LIN_SCR_CTL 2 0, scrHeadB := d.fld LIN_SCR_CTL 6 4 }
  else d

/-- SCRATCH_CONVERSION_WRITE (R84). -/
def execScratchConversionWrite (_h : Head) (value : Reg32) (s : State) : Host.Outcome State Fault Refusal :=
  .next { s with dev := scratchWriteCtl s.fuse s.dev value.toNat }

/-- SCRATCH_CHANGE_DONE (R84). -/
def execScratchChangeDone (s : State) : Host.Outcome State Fault Refusal := .next { s with dev := s.dev.scratchDone }

/-! ## Compatibility mode and Ballast -/

/-- A sector enters Ballast as its newest; the oldest of 128 is dropped (R89). -/
def Dev.toBallast (d : Dev) (s : Sector) : Dev :=
  if s.valid = 0 then d
  else d.setCache { d.cache with ballast := (s :: d.cache.ballast.filter fun x => x.num != s.num).take d.cache.ballastRoom }

/-- SECTOR_TRANSIT_END (R90). -/
def execSectorTransitEnd (dpa : Dpa) (s : State) : Host.Outcome State Fault Refusal :=
  let d := s.dev
  let n := dpa.toNat / 4096
  .next (match d.cache.transit.find? fun x => x.num == n with
    | some x =>
      let d1 := d.setCache { d.cache with transit := d.cache.transit.filter fun y => y.num != n }
      { s with dev := d1.toBallast x }
    | none => s)

/-- The buffer's pages move to Ballast and its entries become empty (R86). -/
def Dev.emptyCmp (d : Dev) : Dev :=
  let d1 := d.cache.cmp.foldl (fun d e => d.toBallast e.2.sec) d
  d1.setCache { d1.cache with cmp := [] }

/-- The write of compat_en from 0 to 1 (R86). -/
def compatOn (F : Fuses) (d : Dev) (h : Head) : Dev :=
  if portMode F d = .dualHead then d.event F 0x2007 (hIdx h)
  else if d.cache.compatBusy ∨ d.rbit LIN_CACHE_CFG 0 then d
  else
    let d0 := d.setRbit LIN_CACHE_CFG 0 true
    let d1 := (d0.cache.ways.filter fun e => e.1 % 12 == 0).foldl (fun d e => d.toBallast e.2.sec) d0
    d1.setCache { d1.cache with compatBusy := true, cmp := [], ways := d1.cache.ways.filter fun e => e.1 % 12 != 0 }

/-- The write of compat_en from 1 to 0 (R86). -/
def Dev.compatOff (d : Dev) : Dev :=
  if d.cache.compatBusy ∨ !d.rbit LIN_CACHE_CFG 0 then d
  else
    let d1 := (d.setRbit LIN_CACHE_CFG 0 false).emptyCmp
    d1.setCache { d1.cache with compatBusy := true }

/-- A compatibility mode change is complete (R86). -/
def Dev.compatDone (d : Dev) : Dev :=
  if !d.cache.compatBusy then d
  else
    let d1 := d.emptyCmp
    d1.setCache { d1.cache with compatBusy := false, compatAct := d.rbit LIN_CACHE_CFG 0 }

/-- D3cold of every active head returns the mode to sectored (R86), also where a change of the mode is in progress: that change ends first. -/
def Dev.compatStop (d : Dev) : Dev := d.compatDone.compatOff

/-- COMPAT_ENABLE (R86). -/
def execCompatEnable (h : Head) (s : State) : Host.Outcome State Fault Refusal :=
  .next { s with dev := compatOn s.fuse s.dev h }

/-- COMPAT_DISABLE (R86). -/
def execCompatDisable (_h : Head) (s : State) : Host.Outcome State Fault Refusal := .next { s with dev := s.dev.compatOff }

/-- COMPAT_CHANGE_DONE (R86). -/
def execCompatChangeDone (s : State) : Host.Outcome State Fault Refusal := .next { s with dev := s.dev.compatDone }

/-- Pages pinned. -/
def Dev.pinned (d : Dev) : Nat := (d.cache.cmp.filter fun e => e.2.pin).length

/-- Pin or unpin entry n (R88). -/
def Dev.cmpPin (d : Dev) (n : Nat) (on : Bool) : Dev :=
  let e := d.cmpEnt n
  if !d.cache.compatAct || !e.used then d
  else if on ∧ !e.pin ∧ 40 ≤ d.pinned then d
  else d.setCmp n { e with pin := on }

/-- COMPAT_PAGE_PIN (R88). -/
def execCompatPagePin (_h : Head) (n : Fin 48) (s : State) : Host.Outcome State Fault Refusal :=
  .next { s with dev := s.dev.cmpPin n.val true }

/-- COMPAT_PAGE_UNPIN (R88). -/
def execCompatPageUnpin (_h : Head) (n : Fin 48) (s : State) : Host.Outcome State Fault Refusal :=
  .next { s with dev := s.dev.cmpPin n.val false }

/-! ## Invalidation -/

/-- A write of LIN_INV_CTL.go (R92). -/
def Dev.invGo (d : Dev) : Dev :=
  let n := (d.reg LIN_INV_LEN).toNat
  if d.cache.invBusy ∨ n = 0 then d
  else
    let first := d.reg64 LIN_INV_BASE_LO % 2 ^ 44 / 4096 * 64
    let d1 := d.invalidate first (first + 64 * n - 1)
    d1.setCache { d1.cache with invBusy := true, invOpen := d1.cache.invOpen ++ [.host] }

/-- INVALIDATION_GO (R92). -/
def execInvalidationGo (_h : Head) (s : State) : Host.Outcome State Fault Refusal := .next { s with dev := s.dev.invGo }

end Sys2Proof.Machine
end

