-- ==== Sys2Proof/Machine/DriftOps.lean ====
section
/-!
DEFINITION. Line repair and confirmation (R175, R181), the drift ledger (R182 to R187), and scrub (R190).
-/
namespace Sys2Proof.Machine

/-- The eight lines of a member's page as decoded or reconstructed (R175). -/
def Dev.pageLines (d : Dev) (l : Loc) (p : Nat) : List (Nat × MediaLine) :=
  let ts := d.tractsAt l.g l.pa
  (List.range 8).map fun j =>
    let k := { l with slot := j }
    let v := match (List.range (l.w - 2)).find? fun i => d.dataPos k i == p with
      | some i => d.fillLine ts k i
      | none => if d.pPos k = p then stripeP (d.stripeData k) else stripeQ (d.stripeData k)
    (8 * p + j, v)

/-- The repair of the page of a channel position starts, with one line's value (R175): an open-row entry holds the page's eight lines until its program has
finished, and serves reads of them; no other page is programmed. None: the row has an entry or the table is full. -/
def Dev.repairAt (d : Dev) (l : Loc) (p : Nat) (x : MediaLine) : Option Dev :=
  if bit (d.grp l.g).failedM p ∨ 256 ≤ d.rowsOfQuad (l.g / 8) ∨ (d.media.rows.any fun r => r.g == l.g && r.pa == l.pa) then none
  else
    let lines := (d.pageLines l p).map fun e => if e.1 = 8 * p + l.slot then (e.1, x) else e
    let r : OpenRow := { g := l.g, pa := l.pa, mode := if l.slc then .slc else .mlc, lines := lines, left := 2 ^ p, seq := d.media.rowSeq }
    let b : BrReq := { req := 5, seq := d.media.brSeq, units := 1, who := 2 ^ 32 + r.seq, bank := some (dieOf l.g p, bankOf l.pa) }
    let n := 10 * (l.g / 8) + p
    some { d with media := { d.media with rows := d.media.rows ++ [r], rowSeq := d.media.rowSeq + 1, brSeq := d.media.brSeq + 1
                                          bridle := Tbl.put [] d.media.bridle n (Tbl.look [] d.media.bridle n ++ [b])
                                          rowPeak := Tbl.upd 0 d.media.rowPeak (l.g / 8) fun k => max k (d.rowsOfQuad (l.g / 8) + 1) } }

/-- The repair of the page that holds a data line (R175). -/
def Dev.repairPage (d : Dev) (l : Loc) (x : MediaLine) : Option Dev := d.repairAt l (d.dataPos l l.idx) x

/-- A line waits for repair (R175). -/
def Dev.repairAsk (d : Dev) (line : Nat) : Dev :=
  { d with drift := { d.drift with repair := (d.drift.repair.filter (· != line)) ++ [line] } }

/-- LINE_REPAIR (R175): the page is to be programmed again with the value its stripe gives. The line waits while its row has an open-row entry. -/
def Dev.lineRepair (d : Dev) (line : Nat) : Dev :=
  if !d.drift.repair.contains line then d
  else
    let done (d : Dev) : Dev := { d with drift := { d.drift with repair := d.drift.repair.filter (· != line) } }
    match d.below line with
    | .fetch =>
      let l := d.lineLoc line
      match (d.rebuild l 0).or (d.mediaLine line) with
      | some x => match d.repairPage l x with
        | some e => done e
        | none => if bit (d.grp l.g).failedM (d.dataPos l l.idx) then done d else d
      | none => done d
    | _ => done d

/-- Does a stored line pass as good at confirmation (R181): its tag verifies, or its slot is not loaded? -/
def confirmGood (F : Fuses) (d : Dev) (c : Confirm) (m : MediaLine) : Bool :=
  if c.key ≠ 0 ∧ (d.slot c.key).state ≠ 1 then true
  else match (d.openLine F c.key c.base c.line m).1 with
    | .data _ => true
    | .poison o => decide (o = 3)

/-- A queued confirmation runs (R181): every live member is read by RD_LINE_SOFT with threshold set 15, in its own phase, and `good` marks, by channel
position, those whose soft decode, with the erasures of R172, succeeded. It waits while the line's row has an open-row entry. -/
def confirmLine (F : Fuses) (d : Dev) (line good : Nat) : Dev :=
  match d.drift.confirm.find? fun c => c.line == line with
  | none => d
  | some c =>
    let d0 := { d with drift := { d.drift with confirm := d.drift.confirm.filter fun x => x.line != line } }
    let e := d.ent (line / 16384)
    if e.kind ≠ 1 ∧ e.kind ≠ 2 then d0
    else if !d.wbRoom line then d
    else
      let l := d.lineLoc line
      let p := d.dataPos l l.idx
      let home : Option MediaLine := if bit good p ∧ !bit (d.grp l.g).failedM p then some (d.stored l p) else none
      let re := d.rebuildLive l good
      let fix (x : MediaLine) : Dev := (d0.repairPage l x).getD d0
      let lose (o : Nat) : Dev :=
        recordPoison F ((d0.putLoc l poisonLine).event F 0x3004 (line * 64 + o * 2 ^ 48)) line o
      match home, re with
      | some x, r =>
        if confirmGood F d c x then fix x
        else match r with
          | some y => if confirmGood F d c y then fix y else lose 2
          | none => lose 2
      | none, some y => if confirmGood F d c y then fix y else lose 2
      | none, none => lose 1

/-! ## Drift -/

/-- A byte of an RD_REF answer as a signed number. -/
def signed8 (n : Nat) : Int := if n < 128 then n else (n : Int) - 256

/-- Levels of an RD_REF answer in a mode: median threshold position and spread of each (R125). -/
def sweepLevels (slc : Bool) (x : Nat) : List (Int × Nat) :=
  (List.range (if slc then 2 else 4)).map fun k => (signed8 (bits x (16 * k + 7) (16 * k)), bits x (16 * k + 15) (16 * k + 8))

/-- δ of a sample page: the largest absolute value among its level medians (R182). -/
def sampleDelta (slc : Bool) (x : Nat) : Nat := (sweepLevels slc x).foldl (fun n e => max n e.1.natAbs) 0

/-- Spread of a sample page: the largest of its level spreads (R182). -/
def sampleSpread (slc : Bool) (x : Nat) : Nat := (sweepLevels slc x).foldl (fun n e => max n e.2) 0

/-- Drift class of a sample (R182). -/
def classOf (delta : Nat) : Nat := if delta < 28 then delta / 2 else 14

/-- Physical tracts that hold data, for the survey, resurvey, scrub and MCH_DRF_HISTk: those in state 1 or 2, both of an SLC pair. R185 does not list the
states; migration targets, counter tracts and the fixed reserve are left out (log entry 91, DESIGN CHOICE). -/
def Dev.dataTracts (d : Dev) : List Nat := (d.tracts.cur.phys.filter fun e => e.2.state == 1 || e.2.state == 2).map (·.1)

/-- Tracts holding data whose entry reads 0xF (MCH_DRF_STS.remain). -/
def Dev.surveyRemain (d : Dev) : Nat := (d.dataTracts.filter fun k => Tbl.look 0 d.drift.cls k == 0).length

/-- The power-up survey is complete once no entry of a tract holding data reads 0xF (R185). -/
def Dev.surveySettle (d : Dev) : Dev :=
  if d.drift.surveying ∧ d.surveyRemain = 0 then
    { d with drift := { d.drift with surveying := false, surveyDone := true, saveDue := true, passStart := d.tether.now } } else d

/-- The power-up survey begins when replay recovery has completed (R185). -/
def Dev.surveyBegin (d : Dev) : Dev :=
  Dev.surveySettle { d with drift := { d.drift with surveying := true, surveyDone := false } }

/-- Class at which a tract is refreshed (MCH_DRF_CFG.refresh_class). -/
def Dev.refreshClass (d : Dev) : Nat := 8 + d.fld MCH_DRF_CFG 1 0

/-- Symbols corrected by scrub that queue a refresh (MCH_DRF_CFG.refresh_sym). -/
def Dev.refreshSym (d : Dev) : Nat :=
  match d.fld MCH_DRF_CFG 5 4 with
  | 1 => 5
  | 2 => 3
  | _ => 4

/-- Logical tracts whose home is a physical tract. -/
def Dev.logicalOf (d : Dev) (g i : Nat) : List Nat :=
  (d.tracts.cur.ent.filter fun e => decide ((e.2.kind = 1 ∨ e.2.kind = 2) ∧ e.2.group = g ∧
    (e.2.index = i ∨ (e.2.kind = 2 ∧ e.2.index + 1 = i)))).map (·.1)

/-- A physical tract that is surveyed by its index: an SLC pair by its even one. -/
def Dev.holdsData (d : Dev) (g i : Nat) : Bool := (d.phys g i).state == 1 || ((d.phys g i).state == 2 && i % 2 == 0)

/-- Width at which a physical tract that holds data lies. -/
def Dev.tractWidth (d : Dev) (g i : Nat) : Nat :=
  match d.logicalOf g i with
  | t :: _ => 10 - (d.ent t).wd
  | [] => (d.grp g).layWidth

/-- RD_REF has answered for two page rows on every live member of a tract (R185). -/
def Dev.sampledAll (d : Dev) (g i : Nat) (samples : List (Nat × Nat)) : Bool :=
  (d.positions g (d.tractWidth g i)).all fun p => bit (d.grp g).failedM p || (samples.filter fun e => e.1 == p).length == 2

/-- A tract's samples have returned (R182, R187, R189): its class is the highest among them, and class or spread may ask for a refresh. Both tracts of an
SLC pair take the class. -/
def Dev.sampled (d : Dev) (g i : Nat) (samples : List (Nat × Nat)) : Dev :=
  let slc := (d.phys g i).state == 2
  let k := physKey g i
  let c := samples.foldl (fun n e => max n (classOf (sampleDelta slc e.2))) 0
  let spread := samples.foldl (fun n e => max n (sampleSpread slc e.2)) 0
  let f := d.drift
  let cls := Tbl.put 0 f.cls k (c + 1)
  let d1 := { d with drift := { f with cls := if slc then Tbl.put 0 cls (k + 1) (c + 1) else cls
                                       samples := Tbl.put [] f.samples k samples
                                       lastSurvey := Tbl.put 0 f.lastSurvey k d.tether.now } }
  if d.refreshClass ≤ c ∨ d.fld MCH_DRF_CFG 31 24 ≤ spread then
    (d1.logicalOf g i).foldl (fun d t => d.migQueue t .refresh) d1
  else d1

/-- A visit of the power-up survey (R185), in ascending order of groups. -/
def Dev.surveyTract (d : Dev) (g i : Nat) (samples : List (Nat × Nat)) : Dev :=
  let before := d.dataTracts.any fun k => decide (k / 2 ^ 19 < g) && Tbl.look 0 d.drift.cls k == 0
  if d.drift.surveying && decide (0 < d.internFree .survey) && d.holdsData g i && !before && d.sampledAll g i samples then (d.sampled g i samples).surveySettle else d

/-- A resurvey pass ends once every tract holding data has been visited since it began (R183, R187). -/
def Dev.passSettle (d : Dev) : Dev :=
  let f := d.drift
  let left := d.dataTracts.any fun k =>
    d.holdsData (k / 2 ^ 19) (k % 2 ^ 19) && decide (Tbl.look 0 f.lastSurvey k < f.passStart)
  if left then d else { d with drift := { f with passStart := d.tether.now + 1, saveDue := true } }

/-- A resurvey (R187): the tract is queued, or its period has passed; the sampled row moves on by 37. -/
def Dev.resurveyTract (d : Dev) (g i : Nat) (samples : List (Nat × Nat)) : Dev :=
  let k := physKey g i
  let f := d.drift
  let due := decide (Tbl.look 0 f.lastSurvey k + d.fld MCH_DRF_CFG 15 8 * 3600 * 10 ^ 9 ≤ d.tether.now)
  if decide (0 < d.internFree .survey) && d.holdsData g i && (f.resurvey.contains k || due) && d.sampledAll g i samples then
    let rows := rowsOf (d.tractWidth g i)
    let f1 := { f with resurvey := f.resurvey.filter (· != k),
                       rot := Tbl.put 0 f.rot k ((Tbl.look 0 f.rot k + 37) % rows) }
    ({ d with drift := f1 }.sampled g i samples).passSettle
  else d

/-! ## Threshold sets (R184) -/

/-- The samples of a die in a mode, taken at the last survey or resurvey of each tract: drift class and levels. -/
def Dev.dieSamples (d : Dev) (m : Nat) (slc : Bool) : List (Nat × List (Int × Nat)) :=
  d.drift.samples.flatMap fun e =>
    if e.1 / 2 ^ 19 = groupOf m ∧ ((Tbl.look {} d.tracts.cur.phys e.1).state == 2) = slc then
      (e.2.filter fun x => x.1 == posOf m).map fun x => (classOf (sampleDelta slc x.2), sweepLevels slc x.2)
    else []

/-- Offsets and soft width of a class from its samples (R184): each offset is the midpoint between the mean medians of the two levels it separates,
rounded down (log entry 93, DESIGN CHOICE); the width is the larger of 8 and a quarter of the mean spread, rounded up. -/
def classSet (levels : Nat) (l : List (List (Int × Nat))) : List Int × Nat :=
  let n := l.length
  let sum (k : Nat) : Int := (l.map fun s => (s.getD k (0, 0)).1).foldl (· + ·) 0
  let spread := (l.flatMap fun s => s.map (·.2)).foldl (· + ·) 0
  ((List.range (levels - 1)).map fun k => (sum k + sum (k + 1)) / (2 * (n : Int)), max 8 ((spread + 4 * levels * n - 1) / (4 * levels * n)))

/-- Set k of a mode, from the sets of the classes that have samples, ascending (R184): interpolated between the nearest two; beyond the last, extended by
2/64 per class for the top level and in proportion to the level for the lower ones. Below the first class, and for the soft width of a class
with no sample, the rule states nothing: the nearest class's values are taken (log entry 93, DESIGN CHOICE). -/
def setOfClass (have' : List (Nat × List Int × Nat)) (k : Nat) : Option (List Int × Nat) :=
  match (have'.filter fun e => decide (e.1 ≤ k)).getLast?, have'.find? fun e => decide (k ≤ e.1) with
  | none, none => none
  | none, some h => some h.2
  | some l, none =>
    let n := l.2.1.length
    some (l.2.1.zipIdx.map fun e => e.1 + (2 * (e.2 + 1) * (k - l.1) / n : Nat), l.2.2)
  | some l, some h =>
    if h.1 = l.1 then some l.2
    else some (l.2.1.zipIdx.map fun e => e.1 + ((h.2.1.getD e.2 0) - e.1) * ((k - l.1 : Nat) : Int) / ((h.1 - l.1 : Nat) : Int), l.2.2)

/-- A set's feature value (R131). -/
def setValue (s : List Int × Nat) (width : Nat) : Nat :=
  (s.1.zipIdx.foldl (fun n e => n + (e.1 % 256).toNat * 2 ^ (8 * e.2)) 0) + width % 256 * 2 ^ 24

/-- The 16 sets of a mode written to a die: set 15 is set 14 with a soft width of 0x30. Without a sample in the mode the sets stay. -/
def Die.setThresholds (x : Die) (slc : Bool) (l : List (Nat × List (Int × Nat))) : Die :=
  let base := if slc then 0x20 else 0x10
  let levels := if slc then 2 else 4
  let have' := (List.range 15).filterMap fun k =>
    let mine := (l.filter fun e => e.1 == k).map (·.2)
    if mine.isEmpty then none else some (k, classSet levels mine)
  let y := (List.range 15).foldl (fun y k => match setOfClass have' k with
    | some s => y.setFeature (base + k) (setValue s s.2)
    | none => y) x
  match setOfClass have' 14 with
  | some s => y.setFeature (base + 15) (setValue s 0x30)
  | none => y

/-- The die's threshold sets are computed and written while it is not programming (R184): from the samples of the last survey or resurvey, or, once its
temperature has moved by 8 °C, from 64 RD_REF samples of it (sweep, and whether the page is SLC). -/
def Dev.thresholds (d : Dev) (m : Nat) (given : List (Nat × Bool)) : Dev :=
  let c := d.ctl m
  let moved := decide (32 ≤ ((d.die m).temp : Int) - c.thrTemp ∨ ((d.die m).temp : Int) - c.thrTemp ≤ -32)
  if (d.die m).busy ∨ (d.die m).pd ∨ !(given.isEmpty || (given.length == 64 && moved)) then d
  else
    let of (slc : Bool) : List (Nat × List (Int × Nat)) :=
      if given.isEmpty then d.dieSamples m slc
      else (given.filter fun e => e.2 == slc).map fun e => (classOf (sampleDelta slc e.1), sweepLevels slc e.1)
    (d.setDie m (((d.die m).setThresholds false (of false)).setThresholds true (of true))).setCtl m { c with thrTemp := (d.die m).temp }

/-- LINE_REPAIR (R175). -/
def execLineRepair (dpa : Dpa) (s : State) : Host.Outcome State Fault Refusal :=
  .next { s with dev := s.dev.lineRepair (dpa.toNat / 64) }

/-- POISON_CONFIRMATION (R181). -/
def execPoisonConfirmation (dpa : Dpa) (good : StripeMask) (s : State) : Host.Outcome State Fault Refusal :=
  .next { s with dev := confirmLine s.fuse s.dev (dpa.toNat / 64) good.toNat }

/-- Samples as numbers. -/
def sampleList (pos : List (Fin 10)) (codes : List (BitVec 64)) : List (Nat × Nat) := (pos.map (·.val)).zip (codes.map (·.toNat))

/-- SURVEY_TRACT (R185). -/
def execSurveyTract (g : GroupId) (index : Nat) (pos : List (Fin 10)) (codes : List (BitVec 64)) (s : State) : Host.Outcome State Fault Refusal :=
  .next { s with dev := s.dev.surveyTract g.val index (sampleList pos codes) }

/-- THRESHOLD_RECOMPUTE (R184). -/
def execThresholdRecompute (r : DieSamples) (s : State) : Host.Outcome State Fault Refusal :=
  .next (if s.dev.populated s.fuse r.m.val then { s with dev := s.dev.thresholds r.m.val (r.samples.map fun e => (e.1.toNat, e.2)) } else s)

/-- RESURVEY_TRACT (R187). -/
def execResurveyTract (g : GroupId) (index : Nat) (pos : List (Fin 10)) (codes : List (BitVec 64)) (s : State) : Host.Outcome State Fault Refusal :=
  .next { s with dev := s.dev.resurveyTract g.val index (sampleList pos codes) }

/-- The ledger, the weak-byte maps and the threshold sets are saved to the ledger area (R183). -/
def Dev.ledgerSave (d : Dev) : Dev :=
  let f := d.drift
  let weak := (d.media.ctl.filter fun e => !e.2.weak.isEmpty).map fun e => (e.1, e.2.weak)
  let thr := (d.media.die.map fun e => (e.1, e.2.feat.filter fun x => decide (0x10 ≤ x.1))).filter fun e => !e.2.isEmpty
  { d with drift := { f with saved := f.cls, weakSaved := weak, thrSaved := thr, lastSave := d.tether.now, saveDue := false } }

/-- DRIFT_LEDGER_SAVE (R183): a survey or resurvey pass has been completed since the last save. -/
def execDriftLedgerSave (s : State) : Host.Outcome State Fault Refusal :=
  .next (if s.dev.pwr.replayDone ∧ s.dev.drift.saveDue then { s with dev := s.dev.ledgerSave } else s)

/-! ## Scrub -/

/-- A line that scrub found uncorrectable or whose tag fails (R190): repaired where its stripe gives a line with a good tag, else confirmed. -/
def scrubLine (F : Fuses) (d : Dev) (line : Nat) : Dev :=
  let w := d.windowOf (line * 64)
  let (key, base) := d.keyBase w (line * 64)
  match d.below line with
  | .fetch =>
    let l := d.lineLoc line
    match d.rebuild l 0 with
    | some x => if confirmGood F d ⟨line, key, base⟩ x then d.repairAsk line else d.confirmAdd line key base
    | none => d.confirmAdd line key base
  | _ => d

/-- What a stripe's P and Q say of its lines (R190): nothing where both agree; else the position and value of the single line that they locate as
inconsistent, P or Q itself among them; none where they locate no single line. -/
def Dev.badLine (d : Dev) (l : Loc) : Option (Option (Nat × MediaLine)) :=
  let ds := (List.range (l.w - 2)).map fun i => d.stored l (d.dataPos l i)
  let p := d.stored l (d.pPos l)
  let q := d.stored l (d.qPos l)
  if p = stripeP ds ∧ q = stripeQ ds then none
  else if q = stripeQ ds then some (some (d.pPos l, stripeP ds))
  else if p = stripeP ds then some (some (d.qPos l, stripeQ ds))
  else some ((List.range (l.w - 2)).findSome? fun i =>
    match stripeSolve (some p) none (ds.zipIdx.map fun e => if e.2 = i then none else some e.1) with
    | some v => if stripeQ v = q then (v[i]?).map fun x => (d.dataPos l i, x) else none
    | none => none)

/-- Logical lines of a tract whose slots lie in a row. -/
def Dev.rowLines (d : Dev) (t row : Nat) : List Nat :=
  let per := 8 * (10 - (d.ent t).wd - 2)
  (List.range per).filterMap fun k =>
    if row * per + k < 16384 then (lineOfSlot (d.hdr t) (row * per + k)).map (16384 * t + ·) else none

/-- Does the tag of a stored line fail, where its key slot is provisioned (R190)? -/
def tagBad (F : Fuses) (d : Dev) (line : Nat) : Bool :=
  let (key, base) := d.keyBase (d.windowOf (line * 64)) (line * 64)
  match d.mediaLine line with
  | some m => !confirmGood F d ⟨line, key, base⟩ m
  | none => false

/-- A byte position enters a die's weak-byte map, in place of the entry least recently matched where all 16 are used (R172). A new entry counts as
just matched (log entry 90, DESIGN CHOICE). -/
def Dev.weakAdd (d : Dev) (m bank byte : Nat) : Dev :=
  let c := d.ctl m
  if c.weak.contains (bank, byte) then d else d.setCtl m { c with weak := (bank, byte) :: c.weak.take 15 }

/-- Bytes that needed correction in the pages of a row: a position that did in three pages of its bank in one pass enters the map (R172). -/
def Dev.weakSeen (d : Dev) (g pa : Nat) (corr : List (Nat × Nat)) : Dev :=
  corr.dedup.foldl (fun d e =>
    let m := dieOf g e.1
    let k := (m * 64 + bankOf pa) * 80 + e.2
    let n := Tbl.look 0 d.drift.weakCnt k + 1
    let d1 := { d with drift := { d.drift with weakCnt := Tbl.put 0 d.drift.weakCnt k n } }
    if 3 ≤ n then d1.weakAdd m (bankOf pa) e.2 else d1) d

/-- P and Q of a row disagree with lines that all decoded (R190): stripe by stripe, the line located is repaired; where none is, each data line of the
stripe is confirmed. -/
def scrubParity (d : Dev) (t row : Nat) : Dev :=
  let e := d.ent t
  let per := 8 * (10 - e.wd - 2)
  (List.range 8).foldl (fun d j =>
    let l := locIn e.group e.index (10 - e.wd) (decide (e.kind = 2)) (row * per + j)
    match d.badLine l with
    | none => d
    | some (some x) => (d.repairAt l x.1 x.2).getD d
    | some none =>
      ((List.range (l.w - 2)).flatMap fun i => (d.linesAt [t] l i).filter d.isWritten).foldl (fun d line =>
        let (key, base) := d.keyBase (d.windowOf (line * 64)) (line * 64)
        d.confirmAdd line key base) d) d

/-- Physical tracts in use that no entry names any more, as a lost metadata line leaves them, are freed at the end of a scrub pass (R230). -/
def Dev.freeOrphans (d : Dev) : Dev :=
  let named (g i : Nat) : Bool := !(d.logicalOf g i).isEmpty ||
    (d.tracts.migs.any fun m => m.source.group == g && (m.source.index == i || (m.source.kind == 2 && m.source.index + 1 == i))) ||
    d.tracts.freeing.any fun f => f.group == g && (f.index == i || (f.slc && f.index + 1 == i))
  (d.tracts.cur.phys.filter fun e => (e.2.state == 1 || e.2.state == 2) && !named (e.1 / 2 ^ 19) (e.1 % 2 ^ 19)).foldl
    (fun d e => d.freePhys (e.1 / 2 ^ 19) (e.1 % 2 ^ 19) false) d

/-- Scrub reads a row (R172, R187, R190): most symbols corrected in a line, the bytes corrected by channel position, the lines that failed their code, and
whether P and Q disagree. It checks tags itself. More than five symbols are the heavy decoder's work. -/
def scrubRow (F : Fuses) (d : Dev) (t row worst : Nat) (corr : List (Nat × Nat)) (unc : List Nat) (parityBad : Bool) : Dev :=
  let e := d.ent t
  if (e.kind ≠ 1 ∧ e.kind ≠ 2) ∨ d.fld MCH_DRF_CFG 23 16 = 0 ∨ d.internFree .scrub = 0 then d
  else
    let w := 10 - e.wd
    let l := locIn e.group e.index w (decide (e.kind = 2)) (row * (8 * (w - 2)))
    let rowL := (d.rowLines t row).filter d.isWritten
    let bad := rowL.filter fun x => unc.contains x || tagBad F d x
    let d1 := (if d.refreshSym ≤ worst then d.migQueue t .refresh else d).weakSeen e.group l.pa corr
    let d2 := if 3 ≤ worst then d1.resurveyAdd (16384 * t) else d1
    let d3 := bad.foldl (scrubLine F) d2
    let pos := t * 512 + row
    let over' := decide (pos < d.drift.scrubPos)
    let d4 := (if parityBad then scrubParity d3 t row else d3)
    let d4 := if over' then d4.freeOrphans else d4
    let f := d4.drift
    { d4 with drift := { f with scrubPos := pos, scrubPass := if over' then (f.scrubPass + 1) % 65536 else f.scrubPass
                                weakCnt := if over' then [] else f.weakCnt } }

/-- SCRUB_ROW (R190). -/
def execScrubRow (tract : Nat) (row : Fin 512) (worst : Fin 11) (found : ScrubFound) (parityBad : Bool) (s : State) :
    Host.Outcome State Fault Refusal :=
  .next { s with dev := scrubRow s.fuse s.dev tract row.val worst.val (found.corr.map fun e => (e.1.val, e.2.val)) (found.unc.map fun a => a.toNat / 64) parityBad }

end Sys2Proof.Machine
end

