-- ==== Sys2Proof/Machine/TractOps.lean ====
section
/-!
DEFINITION. Tracts (spec/08_tracts.md): metadata and counter write-back (R203, R246), gap moves (R206, R207), heat and the
zone target (R208 to R210), migration (R211 to R214, R163, R221, R252), wear levelling (R215 to R220), the floor and the
seal (R224 to R228).
-/
namespace Sys2Proof.Machine

/-! ## Metadata and counter lines -/

/-- A dirty metadata line is written to both copies (R203). -/
def Dev.metaBack (d : Dev) (id : Nat) : Dev :=
  let t := d.tracts
  if t.tc.any fun l => l.id == id && l.dirty.isSome then
    { d with tracts := { t with media := copyMeta t.cur t.media id,
                                tc := t.tc.map fun l => if l.id = id then { l with dirty := none } else l },
             pwr := { d.pwr with segMeta := d.pwr.segMeta.filter (· != id) } }
  else d

/-- Key index and base of a tract's lines: the window's, else those of a Gondola entry of the tract (R231). -/
def Dev.tractKey (d : Dev) (t : Nat) : Nat × Nat :=
  match d.windowOf (t * 2 ^ 20) with
  | some w => d.keyBase (some w) (t * 2 ^ 20)
  | none =>
    match ((d.gon.staged ++ d.gon.wb).filterMap fun e => e.2.map fun g => (e.1, g)).find? fun e =>
        decide (e.1 / 16384 = t ∧ e.2.key ≠ 0) with
    | some e => (e.2.key, e.2.base)
    | none => (0, 0)

/-- A dirty counter line is written to its counter tract (R246). -/
def Dev.ctrBack (d : Dev) (page : Nat) : Dev :=
  match d.ctrPlace page with
  | none => d
  | some p => d.ctrSave p

/-! ## Gap moves -/

/-- A gap move may start (R206, R207). -/
def Dev.gapReady (d : Dev) (t : Nat) : Bool :=
  let n := d.fld MTL_GAP_CFG 3 0
  let h := d.hdr t
  let src := lineOfSlot h (gapStep h).1
  decide (1 ≤ n ∧ n ≤ 9 ∧ 2 ^ (3 + n) ≤ h.wcnt) && decide ((d.ent t).kind = 1 ∨ (d.ent t).kind = 2) && !d.mixed t &&
    !d.tracts.gaps.contains t && !(d.tracts.migs.any fun x => x.tract == t) && !d.snapHolds t &&
    (match src with
      | some i => (d.wbEnt (16384 * t + i)).isNone
      | none => true)

/-- A gap move starts. -/
def Dev.gapMove (d : Dev) (t : Nat) : Dev :=
  if d.gapReady t && decide (0 < d.internFree .other) then { d with tracts := { d.tracts with gaps := d.tracts.gaps ++ [t] } } else d

/-- The destination program of a gap move finishes: the line lies in its new slot and the header changes (R207); a line that cannot be
reconstructed becomes a poison line there, origin 0xA (R179). -/
def gapDone (F : Fuses) (d : Dev) (t : Nat) : Dev :=
  let e := d.ent t
  let h := d.hdr t
  let dst := d.homeLoc e (gapStep h).2
  if !d.tracts.gaps.contains t ∨ !d.locRoom dst then d
  else
    let d0 := { d with tracts := { d.tracts with gaps := d.tracts.gaps.filter (· != t) } }
    let d1 := match lineOfSlot h (gapStep h).1 with
      | some i =>
        if !d.isWritten (16384 * t + i) then d0
        else
          let dw := d0.wearRow dst (dst.slc || !d.rowLive dst)
          match d.mediaLine (16384 * t + i) with
          | some x => dw.putLoc dst x
          | none => recordPoison F (dw.putLoc dst poisonLine) (16384 * t + i) 10
      | none => d0
    (d1.setHdr t (gapNext h)).count 0x0C2

/-! ## Heat and the zone -/

/-- The heat period advances; the background pass visits every header in use (R208). -/
def Dev.heatNext (d : Dev) : Dev :=
  let d1 := d.tick 8 (d.fld MTL_HEAT_CFG 7 0 * 10 ^ 9)
  let p := (d1.tracts.period + 1) % 2 ^ 16
  let d2 := { d1 with tracts := { d1.tracts with period := p, reads := Tbl.mapAll 0 d1.tracts.reads fun _ n => n / 2 } }
  d2.tracts.cur.hdr.foldl (fun d e => d.setHdr e.1 (heatAt p e.2)) d2

/-- Z_t (R210, R224). -/
def Dev.zoneTarget (d : Dev) : Nat :=
  if !d.rbit MTL_UPD_CFG 31 then 0 else min (d.fld MTL_UPD_CFG 11 0 * 4096) ((d.availU - d.floorOf) / 3)

/-- SLC tracts not already leaving, coldest first, with their heat. -/
def Dev.slcByHeat (d : Dev) : List (Nat × Nat) :=
  let l := (d.tracts.cur.ent.filter fun e => e.2.kind == 2 && !(d.tracts.queued.any fun q => q.1 == e.1) &&
    !(d.tracts.migs.any fun x => x.tract == e.1)).map fun e => ((heatAt d.tracts.period (d.hdr e.1)).heat, e.1)
  l.mergeSort fun a b => decide (a.1 < b.1 ∨ (a.1 = b.1 ∧ a.2 ≤ b.2))

/-- Demotions that the zone's fill asks for (R209). -/
def Dev.demotions (d : Dev) : List Nat :=
  let z := d.zone
  let zt := d.tracts.zt
  let leaving := (d.tracts.queued.filter fun q => decide (q.2 = .demote)).length +
    (d.tracts.migs.filter fun x => decide (x.why = .demote)).length
  let l := d.slcByHeat
  let above := (l.take (z - zt - leaving)).map (·.2)
  let cold := if 7 * zt ≤ 8 * z then ((l.take (z - zt * 3 / 4 - leaving)).filter fun e => decide (e.1 < d.coldTh)).map (·.2) else []
  (above ++ cold).dedup

/-- The floor warning (R224): entered below the floor, left at floor + 1,024. -/
def floorCheck (F : Fuses) (d : Dev) : Dev :=
  let t := d.tracts
  if !t.floorWarn ∧ d.availU < d.floorOf then
    Dev.notice F (Dev.icu (Dev.postAll F (Dev.event F { d with tracts := { t with floorWarn := true, floorPosted := d.tether.now } }
      0x5001 1) .warn .floor 0) 73)
  else if t.floorWarn ∧ d.floorOf + 1024 ≤ d.availU then
    Dev.notice F ((Dev.event F { d with tracts := { t with floorWarn := false } } 0x5001 0).icu 73)
  else d

/-- The seal lifts once U is floor + 1,024 or more (R228). -/
def sealLift (F : Fuses) (d : Dev) : Dev :=
  if d.tracts.sealed ∧ d.floorOf + 1024 ≤ d.availU then
    let d1 := Dev.event F { d with tracts := { d.tracts with sealed := false } } 0x5002 0
    Dev.notice F ((Dev.postAll F d1.statePut .info .sealLifted 0).icu 73)
  else d

/-- Physical tracts whose time has come are freed (R211 step 7, R222). -/
def freeDue (F : Fuses) (d : Dev) : Dev :=
  let due := d.tracts.freeing.filter fun f => decide (f.time ≤ d.tether.now)
  let d1 := { d with tracts := { d.tracts with freeing := d.tracts.freeing.filter fun f => decide (d.tether.now < f.time) } }
  sealLift F (due.foldl (fun d f => d.freePhys f.group f.index f.slc) d1)

/-- Every 10 ms: Z_t, the floor, and demotions (R209, R210, R224). -/
def zoneRecompute (F : Fuses) (d : Dev) : Dev :=
  let d1 := floorCheck F (freeDue F (d.tick 9 10000000))
  let d2 := { d1 with tracts := { d1.tracts with zt := d1.zoneTarget } }
  d2.demotions.foldl (fun d t => d.migQueue t .demote) d2

/-! ## Migration -/

/-- Number of a migration's reason in MIGRATION_START's operand. -/
def whyOf (n : Nat) : MigWhy :=
  match n with
  | 0 => .promote
  | 1 => .demote
  | 2 => .wear
  | 3 => .refresh
  | 4 => .rebuild
  | 5 => .cow
  | 6 => .retire
  | 7 => .relocate
  | _ => .rekey

/-- Does a reason wait rather than take from the internal hold (R214, R225)? -/
def waitsHold : MigWhy → Bool
  | .promote => true
  | .demote => true
  | .wear => true
  | _ => false

/-- The need of R219 and the mode of a migration's target. -/
def Dev.migNeed (d : Dev) (t : Nat) (why : MigWhy) : Nat × Bool :=
  match why with
  | .promote => (1, true)
  | .demote => (0, false)
  | .wear => (3, false)
  | .cow => if d.zone < d.tracts.zt then (1, true) else (0, false)
  | _ => if (d.ent t).kind = 2 then (1, true) else (0, false)

/-- Remove a tract from the migration queue. -/
def Dev.unqueue (d : Dev) (t : Nat) : Dev :=
  { d with tracts := { d.tracts with queued := d.tracts.queued.filter fun q => q.1 != t } }

/-- An internal operation finds no space (R225). -/
def holdEmpty (F : Fuses) (d : Dev) : Dev :=
  if d.tracts.holdEmpty then d
  else
    Dev.icu (Dev.postAll F (Dev.event F { d with tracts := { d.tracts with holdEmpty := true } } 0x5003) .fail .floor 0) 73

/-- hold_empty reads 0 once no internal operation waits (R225). -/
def Dev.holdSettle (d : Dev) : Dev :=
  if d.tracts.holdEmpty ∧ 0 < d.availU then { d with tracts := { d.tracts with holdEmpty := false } }.icu 73 else d

/-- A new root map (R380): five pages in the older copy. -/
def Dev.rootPut (d : Dev) : Dev :=
  let s := Tbl.look 0 d.keel.ringSeq Ring.rootMap.idx
  let base := 9 + 5 * (s % 2)
  let area (a g : Nat) : List Nat := match d.tracts.areas.find? fun x => x.area == a && x.group == g with
    | some x => [x.width % 256] ++ leBytes 3 (x.first / 2) ++ leBytes 2 x.pairs
    | none => [0, 0, 0, 0, 0, 0]
  let newest := d.pwr.segs.head?
  let state : Nat := match newest with
    | none => 3
    | some x => if x.released then 3 else if x.clean then 2 else if x.complete then 1 else 0
  let auth := match d.pwr.segs.find? fun x => x.complete && !x.released with
    | some x => x.num
    | none => 0
  let page0 := [0, 0, 0] ++ leBytes 2 (d.diesPer 0 + 16 * d.diesPer 1 + 256 * d.diesPer 2 + 4096 * d.diesPer 3) ++ [0, 0] ++
    leBytes 4 ((newest.map fun x => x.num).getD 0) ++ [state, 0, 0, 0] ++ leBytes 4 auth ++ leBytes 4 d.pwr.segPos
  let page (k : Nat) : List Nat := [k, 0, 0] ++ (List.range 8).flatMap fun i => (List.range 5).flatMap fun a => area a (8 * (k - 1) + i)
  let d1 := { d with keel := { d.keel with ringSeq := Tbl.put 0 d.keel.ringSeq Ring.rootMap.idx (s + 1) } }
  let d2 := d1.keelPut ⟨base, 0, pageRecord s 8 page0, .ring .rootMap s, 0, none⟩
  [1, 2, 3, 4].foldl (fun d k => d.keelPut ⟨base + k, 0, pageRecord s 9 (page k), .ring .rootMap s, 0, none⟩) d2

/-- Pages that a migration has Bridle ask for (R155, R156): each source row by RD_PAGE on every member, and a LOAD of each target row. `n` rows of the
target are to be copied. -/
def Dev.migAsk (d : Dev) (x : Mig) (n : Nat) : Dev :=
  let deg := decide ((d.grp x.source.group).units = 2)
  let req := if x.why = .rebuild then 4 else 5
  let on (d : Dev) (g w reads loads : Nat) : Dev := (d.positions g w).foldl (fun d p =>
    let c := 10 * (g / 8) + p
    let b : BrReq := { req := req, seq := d.media.brSeq, units := reads + loads, reads := reads, degraded := x.why = .rebuild ∧ deg, who := x.tract + 1 }
    { d with media := { d.media with bridle := Tbl.put [] d.media.bridle c (Tbl.look [] d.media.bridle c ++ [b]), brSeq := d.media.brSeq + 1 } }) d
  if n = 0 ∨ x.why = .rekey then d
  else on (on d x.source.group (10 - x.source.wd) n 0) x.target.group (10 - x.target.wd) 0 n

/-- First index of a run of pairs of a group, at the width at which it is laid out, that an area can move to (R219, R446): free demoted pairs first, else free
ones in MLC service. -/
def Dev.areaPlace (d : Dev) (g pairs : Nat) : Option Nat :=
  let run (f : Nat → Bool) (i : Nat) : Bool := (List.range (2 * pairs)).all fun k => f (i + k)
  let dem := ((d.physOf g).filter fun e => e.2.state == 8 && e.1 % 2 == 0).map (·.1)
  (dem.find? (run fun i => decide ((d.phys g i).state = 8 ∧ i < d.physCount g))).or (((d.pairCands g).map (·.2)).find? (run (d.isFree g)))

/-- An area of the fixed reserve in a group is laid out again at the group's width on spare pairs of it (R204, R446): one whole move, with its rows read
through reconstruction (log entry 85). The gap region takes the gap lines along; the root map is rewritten. -/
def Dev.areaMove (d : Dev) (g a : Nat) : Dev :=
  match d.tracts.areas.find? fun x => x.area == a && x.group == g with
  | none => d.unqueue (areaId g a)
  | some x =>
    match d.areaPlace g x.pairs with
    | none => d
    | some i =>
      let y : Area := { x with width := (d.grp g).layWidth, first := i }
      let held := if a = 2 then (d.tractsOf g).filterMap fun t =>
          match lineOfSlot (d.hdr t) 16384 with
          | some k => if d.isWritten (16384 * t + k) then some ((d.ent t).index, (d.mediaLine (16384 * t + k)).getD poisonLine) else none
          | none => none
        else []
      let dq := (List.range (2 * x.pairs)).foldl (fun d k => if (d.phys g (i + k)).state = 8 then d.markPhys g (i + k) false 9 0 else d) (d.unqueue (areaId g a))
      let d1 := { dq with tracts := { dq.tracts with
                                                     areas := dq.tracts.areas.map fun (z : Area) => if z.area = a ∧ z.group = g then y else z } }
      (held.foldl (fun (d : Dev) e => d.putLoc (areaLoc y e.1) e.2) d1).rootPut

/-- A counter tract's pair moves to another (R163, R204): its blocks and their lines keep their content; the old pair is freed 10 µs later. -/
def Dev.ctrMove (d : Dev) (g i : Nat) : Dev :=
  match (d.counterPair (if d.usable g then some g else none)).or (d.counterPair none) with
  | none => d
  | some ((g', i'), d1) =>
    let old := physKey g i * 16384
    let new := physKey g' i' * 16384
    let key (k : Nat) : Nat := if old ≤ k ∧ k < old + 16384 then k - old + new else k
    let hs := (d1.tracts.cur.hdr.filter fun e => match e.2.ctr with
      | some b => b.group == g && b.pair == i
      | none => false).map (·.1)
    let d2 := hs.foldl (fun d t => d.setHdr t { d.hdr t with ctr := (d.hdr t).ctr.map fun b => { b with group := g', pair := i' } }) d1
    let d3 := d2.unqueue (ctrId g i)
    { d3 with
      sec := { d3.sec with ctr := d3.sec.ctr.foldl (fun t e => Tbl.put none t (key e.1) e.2) []
                           ctrMedia := d3.sec.ctrMedia.foldl (fun t e => Tbl.put none t (key e.1) e.2) [] }
      tracts := { d3.tracts with freeing := d3.tracts.freeing ++ [⟨g, i, true, d3.tether.now + 10000⟩] } }

/-- An area or a counter tract of a group that is rebuilt moves, and the group may then narrow (R163). -/
def auxMove (F : Fuses) (d : Dev) (t : Nat) : Dev :=
  let g := d.groupOfId t
  (if t < 2 ^ 26 then d.areaMove g (t % 8) else d.ctrMove g ((t - 2 ^ 26) % 2 ^ 19)).narrowSettle F g

/-- Can a queued rebuild start at all? An area waits while its group has no place for it. -/
def Dev.canMove (d : Dev) (t : Nat) : Bool :=
  if t < 2 ^ 24 then true
  else if t < 2 ^ 26 then
    match d.tracts.areas.find? fun x => x.area == t % 8 && x.group == d.groupOfId t with
    | some x => (d.areaPlace x.group x.pairs).isSome
    | none => true
  else (d.counterPair none).isSome

/-- Drift class of a tract's home, 0 where it is not surveyed: refreshes go by it (R189). -/
def Dev.homeClass (d : Dev) (t : Nat) : Nat :=
  let e := d.ent t
  let c := d.driftClass e.group e.index
  if c = 15 then 0 else c

/-- Is it a queued migration's turn (R24, R163, R204)? Refreshes go in descending order of class (R189). A group's rebuild takes its tracts in the order of its queue; in the quadrant of a degraded
group, that group's rebuild goes before every other migration. -/
def Dev.migTurn (d : Dev) (t : Nat) (why : MigWhy) : Bool :=
  let g := d.groupOfId t
  let rebuilds := d.tracts.queued.filter fun q => decide (q.2 = .rebuild) && d.canMove q.1
  if why = .rebuild then (match rebuilds.find? fun q => d.groupOfId q.1 == g with
    | some q => q.1 == t
    | none => true)
  else !(rebuilds.any fun q => decide (d.groupOfId q.1 / 8 = g / 8) && decide ((d.grp (d.groupOfId q.1)).units = 2)) &&
    (why != .refresh || d.tracts.queued.all fun q => q.2 != .refresh || decide (d.homeClass q.1 ≤ d.homeClass t))

/-- Step 1 of a migration (R211, R214, R219, R225). A rebuild names its tract's group, but where that is to be emptied (R163, R165). -/
def migStart (F : Fuses) (d : Dev) (t : Nat) (why : MigWhy) : Dev :=
  let e := d.ent t
  if !(d.tracts.queued.any fun q => q.1 == t && decide (q.2 = why)) then d
  else if !d.migTurn t why ∨ d.internFree .migration = 0 then d
  else if 2 ^ 24 ≤ t then auxMove F d t
  else if e.kind ≠ 1 ∧ e.kind ≠ 2 then d.unqueue t
  else if d.tracts.migs.any fun x => x.tract == t then d
  else if waitsHold why ∧ d.availU ≤ 1024 + d.pHome then d
  else
    let (need, slc) := d.migNeed t why
    let only := if why = .rebuild ∧ d.usable e.group then some e.group else none
    match d.take need 3 slc only with
    | none => if waitsHold why ∨ 0 < d.availU then d else holdEmpty F d
    | some (x, d1) =>
      let m : Mig := { tract := t, why := why, target := { x with shr := false }, source := e }
      let d2 := { d1.unqueue t with tracts := { (d1.unqueue t).tracts with migs := d1.tracts.migs ++ [m] } }
      ((d2.holdSettle).count 0x0C3).migAsk m (rowsOf (10 - x.wd))

/-- Media value a migration copies for a line (R211 step 2): zeros where it was never written, a poison line where it
cannot be reconstructed; and whether it was lost. -/
def Dev.copyValue (d : Dev) (line : Nat) : MediaLine × Bool :=
  if !d.isWritten line then (0, false)
  else match d.mediaLine line with
    | some x => (x, false)
    | none => (poisonLine, true)

/-- Copy one row of a migration's target (R211 step 2). -/
def copyRow (F : Fuses) (m : Mig) (d : Dev) (r : Nat) : Dev :=
  let w := 10 - m.target.wd
  let per := 8 * (w - 2)
  (List.range 8).foldl (fun d j =>
    let vals := (List.range (w - 2)).map fun k =>
      let i := r * per + 8 * k + j
      if i < 16384 then (i, d.copyValue (16384 * m.tract + i)) else (i, ((0 : MediaLine), false))
    let dw := if j = 0 then d.wearRow (locIn m.target.group m.target.index w (decide (m.target.kind = 2)) (r * per)) true else d
    let d1 := dw.putStripe (locIn m.target.group m.target.index w (decide (m.target.kind = 2)) (r * per + j)) (vals.map fun v => v.2.1)
    vals.foldl (fun d v => if v.2.2 then recordPoison F d (16384 * m.tract + v.1) 10 else d) d1) d

/-- Change the migration of a tract. -/
def Dev.mapMig (d : Dev) (t : Nat) (f : Mig → Mig) : Dev :=
  { d with tracts := { d.tracts with migs := d.tracts.migs.map fun x => if x.tract = t then f x else x } }

/-- A copy, recopy or final pass ends (R211 steps 2 to 4, R212). -/
def migCopied (F : Fuses) (d : Dev) (t : Nat) : Dev :=
  match d.tracts.migs.find? fun x => x.tract == t with
  | none => d
  | some m =>
    let rows := if m.step = 2 then List.range (rowsOf (10 - m.target.wd)) else m.marked
    let copy := (if m.why = .rekey then d else rows.foldl (copyRow F m) d).unask (t + 1)
    if m.step = 2 ∨ m.step = 3 then
      let marked := if m.step = 2 then m.marked else []
      let n := if m.step = 3 then m.recopies + 1 else m.recopies
      (copy.migAsk m marked.length).mapMig t fun x => { x with marked := marked, recopies := n, step := if marked.isEmpty ∨ 3 ≤ n then 4 else 3 }
    else if m.step = 4 then copy.mapMig t fun x => { x with marked := [], step := 5 }
    else d

/-- Verify (R211 step 5): a row that differs is programmed again once; a second difference abandons the target. -/
def migVerify (F : Fuses) (d : Dev) (t : Nat) (bad badAgain : Bool) : Dev :=
  match d.tracts.migs.find? fun x => x.tract == t with
  | none => d
  | some m =>
    if m.step ≠ 5 then d
    else if !bad then d.mapMig t fun x => { x with step := 6 }
    else if badAgain ∨ m.verifyFail then d.badTarget m
    else
      let d1 := if m.why = .rekey then d else (List.range (rowsOf (10 - m.target.wd))).foldl (copyRow F m) d
      d1.mapMig t fun x => { x with verifyFail := true, step := 6 }

/-- One line of a tract whose lines are encrypted anew as they move: decrypted under the old slot and counters, encrypted
under the new ones with minor 0 (R250, R252). -/
def recryptLine (F : Fuses) (old new base t : Nat) (old0 : Dev) (d : Dev) (i : Nat) : Dev :=
  let line := 16384 * t + i
  let put (d : Dev) (x : MediaLine) : Dev := d.putLoc (d.lineLoc line) x
  if !old0.isWritten line then d
  else match old0.mediaLine line with
    | none => recordPoison F (put d poisonLine) line 10
    | some m => match (old0.openLine F old base line m).1 with
      | .poison o => recordPoison F (put d poisonLine) line o
      | .data x =>
        let major := match (d.ctrGet (line / 64) new base).1 with
          | some c => c.major
          | none => 0
        put d (d.seal new (line * 64) base major 0 x)

/-- The lines of a tract are encrypted anew at its new home; a counter-mode tract takes a new counter block (R245, R250,
R252). `old0` is the device before the switch. -/
def recryptTract (F : Fuses) (old new base t : Nat) (old0 d : Dev) : Dev :=
  let d1 := if (d.slot new).kind = 2 then
      let h := d.setHdr t { d.hdr t with ctr := none }
      (h.allocCtr new base t).getD h
    else d
  let e := d1.ent t
  let w := 10 - e.wd
  let d2 := (List.range (rowsOf w)).foldl (fun d r => d.wearRow (locIn e.group e.index w (decide (e.kind = 2)) (r * (8 * (w - 2)))) true) d1
  (List.range 16384).foldl (recryptLine F old new base t old0) d2

/-- Logical tracts that share a home (R221). -/
def Dev.sharers (d : Dev) (e : TEntry) : List Nat :=
  (d.tracts.cur.ent.filter fun x => decide (x.2.kind = e.kind ∧ x.2.group = e.group ∧ x.2.index = e.index)).map (·.1)

/-- The header of a tract that has just moved (R211 step 6). -/
def THeader.moved (h : THeader) : THeader := { h with gap := 16384, start := 0, wcnt := 0 }

/-- References that a copy-on-write leaves at the old home; the last sharer's entry is no longer shared (R221). -/
def Dev.unshare (d : Dev) (e : TEntry) : Dev :=
  let r := d.phys e.group e.index
  let d1 := d.setPhys e.group e.index { r with refs := r.refs - 1 }
  if r.refs - 1 = 1 then (d1.sharers e).foldl (fun d t => d.setEnt t { d.ent t with shr := false }) d1 else d1

/-- A Rekey ends early with a status: the boundary reached stays in force (R252, R302). -/
def Dev.rekeyEnd (d : Dev) (status : Nat) : Dev :=
  match d.sec.rekey with
  | none => d
  | some r =>
    if !r.busy then d
    else
      let mine := d.tracts.migs.filter fun m => decide (m.why = .rekey ∧ m.step ≤ 6)
      let d1 := mine.foldl (fun d m => ({ d with tracts := { d.tracts with migs := d.tracts.migs.filter fun y =>
        !(y.tract == m.tract && decide (y.step ≤ 6)) } }).dropTarget m.target) d
      let d2 := { d1 with tracts := { d1.tracts with queued := d1.tracts.queued.filter fun q => decide (q.2 ≠ MigWhy.rekey) },
                          sec := { d1.sec with rekey := some { r with busy := false } } }
      d2.finish r.handle status r.switched (leBytes 8 r.bnd)

/-- A Rekey goes on: the next tract of the window that has a home is queued, and the boundary passes those that have none;
past the last one the window takes the new key index (R252). -/
def Dev.rekeyPump (d : Dev) : Dev :=
  match d.sec.rekey with
  | none => d
  | some r =>
    let w := d.win r.win
    if !r.busy then d
    else
      let next := d.tracts.cur.ent.find? fun e => decide (r.bnd / 2 ^ 20 ≤ e.1 ∧ e.1 ≤ w.hi ∧ (e.2.kind = 1 ∨ e.2.kind = 2))
      match next with
      | some e =>
        let b := { r with bnd := e.1 * 2 ^ 20 }
        Dev.migQueue { d with sec := { d.sec with rekey := some b } } e.1 .rekey
      | none =>
        let d1 := { d.setFld (LNK_TWIN_CTL r.win) 19 8 r.slot with sec := { d.sec with rekey := none } }
        d1.finish r.handle 0 r.switched (leBytes 8 ((w.hi + 1) * 2 ^ 20))

/-- A Rekey that a power-down cut goes on once its window and its new slot are there again (R252). -/
def Dev.rekeyResume (d : Dev) : Dev :=
  match d.sec.rekey with
  | none => d
  | some r =>
    let idle := !(d.tracts.migs.any fun m => m.why == .rekey) && !(d.tracts.queued.any fun q => q.2 == .rekey)
    if r.busy && (d.win r.win).en && decide ((d.slot r.slot).state = 1) && idle then d.rekeyPump else d

/-- After a tract of the window has switched: a Rekey that is to stop does so here (R302). -/
def Dev.rekeyOn (d : Dev) : Dev :=
  match d.sec.rekey with
  | none => d
  | some r =>
    if r.stop ∧ r.busy then d.rekeyEnd (match d.cmd r.handle with
      | some c => c.status
      | none => 0x0301)
    else d.rekeyPump

/-- Switch (R211 step 6): entries, headers and records in one metadata update. -/
def migSwitch (F : Fuses) (d : Dev) (t : Nat) : Dev :=
  match d.tracts.migs.find? fun x => x.tract == t with
  | none => d
  | some m =>
    let e := d.ent t
    let cow := decide (m.why = .cow ∨ m.why = .rekey) && e.shr
    if m.step ≠ 6 ∨ d.snapHolds t ∨ (cow ∧ (d.sharers e).any d.preLaunchLeft) then d
    else
      let who := if cow then [t] else if e.shr then d.sharers e else [t]
      let refs := if cow then 1 else (d.phys e.group e.index).refs
      let d1 := who.foldl (fun d u => (d.setEnt u { m.target with shr := !cow && e.shr }).setHdr u (d.hdr u).moved) d
      let d2 := d1.markPhys m.target.group m.target.index (decide (m.target.kind = 2)) m.target.kind refs
      let d3 := if cow then d2.unshare e else d2
      let d4 := d3.mapMig t fun x => { x with step := 7, releaseAt := d.tether.now + 10000 }
      let d5 := if m.why = .refresh then d4.bump MCH_REFRESH_CNT else d4
      let d6 := if m.why = .promote then d5.count 0x0C5 else if m.why = .demote then d5.count 0x0C6 else d5
      let d7 := d6.count 0x0C4
      match m.why, d.sec.rekey with
      | .rekey, some r =>
        let w := d.win r.win
        let s := d7.sec
        let r1 := { r with bnd := (t + 1) * 2 ^ 20, switched := r.switched + 1 }
        let d8 := { d7 with sec := { s with rekey := some r1, exh := s.exh.filter fun p => p / 256 != t,
                                            reenc := s.reenc.filter fun x => x.page / 256 != t } }
        let d9 := (recryptTract F w.key r.slot w.base t d d8).mapCmd r.handle fun c => { c with progress := r1.switched }
        ((match (d.hdr t).ctr with
          | some b => if e.shr then d9 else d9.ctrForget b
          | none => d9).icu 98).narrowSettle F m.source.group
      | _, _ =>
        let d7 := d7.narrowSettle F m.source.group
        if cow ∧ (d.hdr t).ctr.isSome then
          let (k, base) := d.tractKey t
          recryptTract F k k base t d d7
        else d7

/-- Release (R211 step 7): 10 µs after the switch the source is freed, or demoted or retired where its pages failed (R218); a shared source only when
nobody uses it. -/
def migRelease (F : Fuses) (d : Dev) (t : Nat) : Dev :=
  match d.tracts.migs.find? fun x => x.tract == t && x.step == 7 with
  | none => freeDue F d
  | some m =>
    let d1 := d.advance m.releaseAt
    let d2 := { d1 with tracts := { d1.tracts with migs := d1.tracts.migs.filter fun x => !(x.tract == t) } }
    let slc := decide (m.source.kind = 2)
    let d3 := if !(d2.sharers m.source).isEmpty then d2
      else if m.why = .relocate then (d2.freePhys m.source.group m.source.index slc).mapPhys m.source (PhysRec.worn slc)
      else d2.freePhys m.source.group m.source.index slc
    (freeDue F d3).narrowSettle F m.source.group

/-! ## Wear -/

/-- Payload of the wear summary (R379). -/
def Dev.wearBody (d : Dev) : List Nat :=
  let l := (d.tracts.cur.phys.map (·.2)).filter fun r => r.state != 15
  let lo := l.foldl (fun a r => min a r.wear) (if l.isEmpty then 0 else 0xFFFFFF)
  let hi := l.foldl (fun a r => max a r.wear) 0
  let dem := (d.tracts.cur.phys.filter fun e => e.2.state == 8 || e.2.state == 9).length
  let ret := (d.tracts.cur.phys.filter fun e => e.2.state == 15).length
  [0, 0, 0] ++ leBytes 4 lo ++ leBytes 4 hi ++ leBytes 4 dem ++ leBytes 4 ret

/-- A quadrant has a wear-levelling move in progress or queued. -/
def Dev.wearBusy (d : Dev) (q : Nat) : Bool :=
  (d.tracts.migs.any fun x => decide (x.why = .wear ∧ x.source.group / 8 = q)) ||
    (d.tracts.queued.any fun x => decide (x.2 = .wear ∧ (d.ent x.1).group / 8 = q))

/-- Static wear levelling (R216, R220): where the least-worn free tract exceeds the least-worn MLC data tract by more than the spread, that data tract moves,
unless its quadrant has a move already; a data tract whose partner is free and demoted goes first. -/
def Dev.wearCheck (d : Dev) : Dev :=
  let spread := d.fld MTL_WL_CFG 15 0
  let free := d.allocGroups.flatMap fun g => d.freeCands g
  let data := (d.tracts.cur.ent.filter fun e => e.2.kind == 1).map fun e => ((d.phys e.2.group e.2.index).wear, e.1)
  match leastOf free with
  | none => d
  | some f =>
    let far := data.filter fun x => decide (spread ≠ 0 ∧ x.1 + spread < f.1)
    let mate (t : Nat) : Bool :=
      let e := d.ent t
      (d.phys e.group (if e.index % 2 = 0 then e.index + 1 else e.index - 1)).state == 8
    match (leastOf (far.filter fun x => mate x.2)).or (leastOf far) with
    | some x => if d.wearBusy ((d.ent x.2).group / 8) then d else d.migQueue x.2 .wear
    | none => d

/-! ## Floor and seal -/

/-- Every 24 hours below the floor the event record is posted again (R224). -/
def floorRepeat (F : Fuses) (d : Dev) : Dev :=
  if d.tracts.floorWarn then
    let d1 := d.advance (d.tracts.floorPosted + 24 * 3600 * 10 ^ 9)
    Dev.postAll F { d1 with tracts := { d1.tracts with floorPosted := d1.tether.now } } .warn .floor 0
  else d

/-- Staged entries take their reserved homes when the device seals (R226). -/
def Dev.takeHomes (d : Dev) : Dev :=
  ((d.stagedList.map fun e => e.1 / 16384).dedup.filter fun t => decide ((d.ent t).kind = 0 ∨ (d.ent t).kind = 3)).foldl
    (fun d t => (d.firstHome t 16384 false).getD d) d

/-- The device seals (R226). -/
def sealDevice (F : Fuses) (d : Dev) : Dev :=
  if d.tracts.sealed ∨ 1024 + d.pHome < d.availU ∨ (d.stagedList.any fun e => !e.2.translated) ∨ !d.pwr.replayDone then d
  else
    let d1 := d.takeHomes
    let d2 := Dev.event F { d1 with tracts := { d1.tracts with sealed := true } } 0x5002 1
    silentOut F (Dev.rekeyEnd (Dev.notice F ((Dev.postAll F d2.statePut .fail .sealed 0).icu 73)) 0x0601)

/-! ## The meanings -/

/-- METADATA_WRITEBACK (R203). -/
def execMetadataWriteback (line : Nat) (s : State) : Host.Outcome State Fault Refusal :=
  .next { s with dev := s.dev.metaBack line }

/-- COUNTER_LINE_WRITEBACK (R246). -/
def execCounterLineWriteback (page : Nat) (s : State) : Host.Outcome State Fault Refusal :=
  .next { s with dev := s.dev.ctrBack page }

/-- GAP_MOVE (R207). -/
def execGapMove (tract : Nat) (s : State) : Host.Outcome State Fault Refusal := .next { s with dev := s.dev.gapMove tract }

/-- GAP_MOVE_DONE (R207). -/
def execGapMoveDone (tract : Nat) (s : State) : Host.Outcome State Fault Refusal := .next { s with dev := gapDone s.fuse s.dev tract }

/-- HEAT_PERIOD_ADVANCE (R208). -/
def execHeatPeriodAdvance (s : State) : Host.Outcome State Fault Refusal := .next { s with dev := s.dev.heatNext }

/-- ZONE_TARGET_RECOMPUTE (R210). -/
def execZoneTargetRecompute (s : State) : Host.Outcome State Fault Refusal :=
  .next { s with dev := zoneRecompute s.fuse s.dev }

/-- MIGRATION_START (R211). -/
def execMigrationStart (tract : Nat) (why : Fin 9) (s : State) : Host.Outcome State Fault Refusal :=
  let w := whyOf why.val
  let d := migStart s.fuse s.dev tract w
  let none_ := decide (w = .rekey) && (s.dev.tracts.queued.any fun q => q.1 == tract && decide (q.2 = .rekey)) &&
    d.tracts.queued.any fun q => q.1 == tract && decide (q.2 = .rekey)
  let busy := s.dev.tracts.migs.any fun x => x.tract == tract
  .next { s with dev := silentOut s.fuse (if none_ ∧ !busy then d.rekeyEnd 0x0602 else d.rekeyPump) }

/-- MIGRATION_COPY_DONE (R211). -/
def execMigrationCopyDone (tract : Nat) (s : State) : Host.Outcome State Fault Refusal :=
  .next { s with dev := migCopied s.fuse s.dev tract }

/-- MIGRATION_VERIFY (R211). -/
def execMigrationVerify (tract : Nat) (bad badAgain : Bool) (s : State) : Host.Outcome State Fault Refusal :=
  .next { s with dev := migVerify s.fuse s.dev tract bad badAgain }

/-- MIGRATION_RELEASE (R211). -/
def execMigrationRelease (tract : Nat) (s : State) : Host.Outcome State Fault Refusal :=
  .next { s with dev := silentOut s.fuse (migRelease s.fuse s.dev tract).rekeyPump }

/-- MIGRATION_SWITCH (R211). -/
def execMigrationSwitch (tract : Nat) (s : State) : Host.Outcome State Fault Refusal :=
  .next { s with dev := silentOut s.fuse (migSwitch s.fuse s.dev tract).rekeyOn }

/-- REFRESH_START (R189): a queued refresh starts. -/
def execRefreshStart (tract : Nat) (s : State) : Host.Outcome State Fault Refusal :=
  .next { s with dev := migStart s.fuse s.dev tract .refresh }

/-- WEAR_SUMMARY_SAVE (R215). -/
def execWearSummarySave (s : State) : Host.Outcome State Fault Refusal :=
  let d := s.dev
  .next (if d.keel.ready ∧ d.pwr.restored then { s with dev := d.ringPut .wear d.wearBody } else s)

/-- WEAR_LEVEL_CHECK (R220). -/
def execWearLevelCheck (s : State) : Host.Outcome State Fault Refusal := .next { s with dev := s.dev.wearCheck }

/-- FLOOR_WARN_REPEAT (R224). -/
def execFloorWarnRepeat (s : State) : Host.Outcome State Fault Refusal := .next { s with dev := floorRepeat s.fuse s.dev }

/-- SEAL (R226). -/
def execSealDevice (s : State) : Host.Outcome State Fault Refusal := .next { s with dev := sealDevice s.fuse s.dev }

end Sys2Proof.Machine
end

