-- ==== Sys2Proof/Machine/SecOps.lean ====
section
/-!
DEFINITION. Re-encryption rewrites (R248, R249) and the draining of key slots (R237).
-/
namespace Sys2Proof.Machine

/-- A marked line of a page in re-encryption is read and presented to Gondola (R248); it is dropped where another write of
the line waits, since that write is encrypted under the new major itself. -/
def reencRewrite (F : Fuses) (d : Dev) (line : Nat) : Dev :=
  match d.reencOf (line / 64) with
  | none => d
  | some r =>
    let t := line / 16384
    let (k, base) := d.tractKey t
    if !bit r.mask (line % 64) ∨ (d.staged line).isSome ∨ (d.wbEnt line).isSome ∨ !gondolaRoom F d none then d
    else
      let (v, d1) := match d.cleanLine line with
        | some x => (Val.data x, d)
        | none => match d.mediaLine line with
          | some m => d.openLine F k base line m
          | none => (.poison 1, d)
      match v with
      | .data x => acceptWrite F d1 { line := line, data := x, key := k, base := base, reenc := true }
      | .poison o => if o = 3 then d1.reencClear line else d1.confirmAdd line k base

/-- A draining slot is empty once Gondola holds no line under it; the Key Evict commands that wait for it complete. -/
def Dev.slotDrained (d : Dev) (k : Nat) : Dev :=
  if (d.slot k).state ≠ 2 ∨ d.gondolaUses k then d
  else
    let l := (d.sec.evicting.filter fun e => e.1 == k).map (·.2)
    let d1 := d.emptySlot k
    let d2 := { d1 with sec := { d1.sec with evicting := d1.sec.evicting.filter fun e => e.1 != k } }
    l.foldl (fun d h => d.finish h 0 1) d2

/-- REENCRYPTION_REWRITE (R248). -/
def execReencryptionRewrite (dpa : Dpa) (s : State) : Host.Outcome State Fault Refusal :=
  .next { s with dev := reencRewrite s.fuse s.dev (dpa.toNat / 64) }

end Sys2Proof.Machine
end

