-- ==== Sys2Proof/Machine/Operands.lean ====
section
/-!
DEFINITION. The operand forms of the block's packed structures: the 64-byte SQ entry (R296), the 64-byte CQ entry (R297)
and the 32-byte descriptor (R263, R264); and the value a channel or command reads at a line (R63, R269).
-/
namespace Sys2Proof.Machine

/-- Bytes `off` to `off + n - 1` of an SQ entry. -/
def sqField (e : LineData) (off n : Nat) : Nat := bytesAt e.toNat off n

/-- Fields of the header (R296). -/
def sqOpcode (e : LineData) : Nat := sqField e 0 1
/-- Flags: at, ptm, fence. -/
def sqFlags (e : LineData) : Nat := sqField e 1 1
/-- The host's command identifier. -/
def sqCid (e : LineData) : Nat := sqField e 2 2
/-- Launch time. -/
def sqLaunch (e : LineData) : Nat := sqField e 8 8

/-- A CQ entry's 64 bytes (R297). -/
def cqBytes (handle status seq cid sqHead : Nat) (phase : Bool) (progress : Nat) (result : List Nat) : List Nat :=
  leBytes 4 handle ++ leBytes 2 status ++ leBytes 2 seq ++ leBytes 2 cid ++ leBytes 2 sqHead ++ [b2n phase, 0, 0, 0] ++
    leBytes 8 progress ++ (result ++ List.replicate 40 0).take 40

/-- A descriptor's fields (R263). -/
structure Desc where
  src : Nat
  dst : Nat
  srcLen : Nat
  dstLen : Nat
  ctl : Nat
  rsv : Nat
  tag : Nat
  deriving DecidableEq, Repr

/-- Take a descriptor apart. -/
def descOf (b : BitVec 256) : Desc :=
  let v := b.toNat
  ⟨bytesAt v 0 8, bytesAt v 8 8, bytesAt v 16 4, bytesAt v 20 4, bytesAt v 24 2, bytesAt v 26 2, bytesAt v 28 4⟩

/-- ctl fields (R264). -/
def Desc.link (x : Desc) : Bool := bit x.ctl 0
/-- The list ends after this descriptor. -/
def Desc.last (x : Desc) : Bool := bit x.ctl 1
/-- Compressed format. -/
def Desc.fmt (x : Desc) : Nat := bits x.ctl 3 2
/-- Its outbound writes carry No Snoop. -/
def Desc.noSnoop (x : Desc) : Bool := bit x.ctl 5
/-- Destination head of a Stream. -/
def Desc.head (x : Desc) : Head := if bit x.ctl 4 then .b else .a

/-- The bytes of a line, byte 0 first. -/
def lineBytes (x : LineData) : List Nat := leBytes 64 x.toNat

/-- The value of a line below Gondola for a read that allocates nothing: a clean copy, whose use is recorded, or media, the home line's
decode verdict being `v` (R63, R81). -/
def peekLow (F : Fuses) (d : Dev) (k base line : Nat) (v : Verdict) : Val × Dev :=
  match d.cleanLine line with
  | some x => (.data x, d.useHit line)
  | none => match d.below line with
    | .zero => (.data 0, d)
    | .poison o => (.poison o, d)
    | .fetch => match d.readLoc (d.lineLoc line) v 0 with
      | .direct m => d.openLine F k base line m
      | .around m => d.openLine F k base line m
      | .lost => (.poison 7, d)
      | .unknown => (.poison 1, d)

/-- A Gondola entry as a read takes it (R63, R71, R72): a partial one is merged with the older value, and the merged line replaces it; where
that value is poison the entry is discarded. -/
def peekEntry (F : Fuses) (line : Nat) (wb : Bool) (e : GEntry) (older : Val × Dev) : Val × Dev :=
  match e.mergeOlder older.1 with
  | some e1 =>
    (.data e1.data, (if wb then older.2.setWb line (some e1) else older.2.setStaged line (some e1)).count 0x086)
  | none => (.poison 6, dropEntry F older.2 line wb e)

/-- Reading a line of the persistent space through its ordering point without allocating (R63, R71, R72, R269), the home line's
decode verdict being `v`. -/
def peekLine (F : Fuses) (d : Dev) (k base line : Nat) (v : Verdict) : Val × Dev :=
  let whole (e : GEntry) : Option Val :=
    if e.poison then some (.poison (if e.sealedWrite then 9 else 4))
    else if e.mask = fullMask then some (.data e.data) else none
  let under : Val × Dev := match d.wbSeen line with
    | none => peekLow F d k base line v
    | some g => match whole g with
      | some x => (x, d)
      | none => peekEntry F line true g (peekLow F d k base line v)
  match (d.staged line).bind whole with
  | some x => (x, d)
  | none => match under.2.staged line with
    | none => under
    | some e => peekEntry F line false e under

/-- Reading a device address for a head: persistent space under a key and base, or scratch (R28, R38). -/
def peekAddr (F : Fuses) (d : Dev) (h : Head) (k base a : Nat) (v : Verdict) : Val × Dev :=
  match placeOf F d h a with
  | .scratch i => (if d.cache.scrPoison.contains i then .poison (d.cache.scrOrigin i) else .data (Tbl.look 0 d.cache.scr i), d)
  | .nothing => (.poison 8, d)
  | _ => peekLine F d k base (a / 64) v

/-- The first poisoned DPA of a device range of bytes, or the bytes (R262, R272). -/
def readBytes (F : Fuses) (d : Dev) (h : Head) (k base a n : Nat) : Option (List Nat) :=
  let lines := (List.range ((a % 64 + n + 63) / 64)).map fun i => (peekAddr F d h k base (a / 64 * 64 + 64 * i) (.good 0)).1
  if lines.all fun v => (match v with
      | .data _ => true
      | .poison _ => false) then
    some (((lines.flatMap fun v => match v with
      | .data x => lineBytes x
      | .poison _ => []).drop (a % 64)).take n)
  else none

/-- Is a device range within the persistent space that a head can address (R37, R38, R265)? -/
def rangeOk (F : Fuses) (d : Dev) (h : Head) (a n : Nat) : Bool :=
  decide (0 < n ∧ a + n ≤ d.lUser * 2 ^ 20) &&
    (match portMode F d with
      | .dualHead =>
        let split := d.pwr.board.split * 2 ^ 30
        let share := d.pwr.board.share * 2 ^ 30
        decide (share ≤ a) || (match h with
          | .a => decide (a + n ≤ split)
          | .b => decide (split ≤ a ∧ a + n ≤ share))
      | _ => true)

/-- Is a device range wholly in the volatile partition (R38)? -/
def scratchRange (a n : Nat) : Bool := decide (volBase ≤ a ∧ a + n ≤ volBase + 2 ^ 28)

end Sys2Proof.Machine
end

