-- ==== Sys2Proof/Machine/StreamOps.lean ====
section
/-!
DEFINITION. The stream engine's channels (spec/10_stream_engine.md): descriptor fetch and start (R262 to R267), source
lines (R269 to R273), outbound writes and their confirmation (R274, R275, R60, R61), and the end of a list (R268, R276 to
R279, R301).
-/
namespace Sys2Proof.Machine

/-- A channel. -/
def Dev.schan (d : Dev) (c : Nat) : SChan := Tbl.look {} d.str.chan c

/-- Replace it. -/
def Dev.setSchan (d : Dev) (c : Nat) (x : SChan) : Dev := { d with str := { d.str with chan := Tbl.put {} d.str.chan c x } }

/-- Change one started descriptor. -/
def SChan.mapRun (x : SChan) (idx : Nat) (f : Run → Run) : SChan :=
  { x with runs := x.runs.map fun r => if r.idx = idx then f r else r }

/-- The first fault or stop of a list decides how it ends: code, fault address, device flag, tag (R277 to R279). -/
def SChan.fault (x : SChan) (code addr : Nat) (dev : Bool) (tag : Nat) : SChan :=
  { x with state := if x.state = .running ∨ x.state = .armed then .stopping else x.state,
           pendFault := x.pendFault.orElse fun _ => some (code, addr, dev, tag) }

/-- A fault of one descriptor; it writes nothing more. -/
def SChan.runFault (x : SChan) (r : Run) (code addr : Nat) (dev : Bool) : SChan :=
  (x.mapRun r.idx fun y => { y with fault := code, faultAddr := addr, faultDev := dev }).fault code addr dev (descOf r.desc).tag

/-- The transform needs a decompression lane. -/
def SChan.lanes (x : SChan) : Bool := x.xform == 2 && x.kind != .verify && x.kind != .install

/-- Source lines of a descriptor (R269). -/
def Desc.srcLines (q : Desc) : Nat := (q.src % 64 + q.srcLen + 63) / 64

/-- A descriptor's source has all been read, or ended at poison (R281). -/
def SChan.srcDone (x : SChan) (r : Run) : Bool :=
  let q := descOf r.desc
  if x.kind = .install then decide (q.srcLen ≤ r.bytes.length)
  else decide (q.srcLines ≤ r.src.length) || (decide (x.kind ≠ .copy ∨ x.xform = 2) && r.src.any (·.isNone))

/-- Source bytes of a descriptor in order; none marks bytes of a poisoned line. -/
def srcBytes (r : Run) : List (Option Nat) :=
  let q := descOf r.desc
  ((r.src.flatMap fun l => match l with
    | some v => (lineBytes v).map some
    | none => List.replicate 64 none).drop (q.src % 64)).take q.srcLen

/-- The bytes before the first poisoned one. -/
def goodBytes : List (Option Nat) → List Nat
  | some b :: r => b :: goodBytes r
  | _ => []

/-- Dictionaries that a channel's list can use (R272). -/
def dictsFor (F : Fuses) (d : Dev) (h : Head) : List (Nat × List Nat) :=
  (d.str.dicts.filter fun x => decide (portMode F d ≠ .dualHead ∨ x.head = h)).map fun x => (x.id, x.bytes)

/-- Output of a descriptor with decompression, and its code (R271). -/
def expanded (F : Fuses) (d : Dev) (x : SChan) (r : Run) : List Nat × Nat :=
  let q := descOf r.desc
  let o := Config.expand q.fmt (dictsFor F d x.head) q.dstLen (goodBytes (srcBytes r))
  (o.1.take q.dstLen, o.2)

/-- The output of a descriptor as far as its source has been read; none marks poison. A decompression's output appears
when its input is complete. -/
def runOut (F : Fuses) (d : Dev) (x : SChan) (r : Run) : List (Option Nat) :=
  if x.lanes then (if x.srcDone r then (expanded F d x r).1.map some else []) else srcBytes r

/-! ## Descriptors -/

/-- The 16 descriptors, fewer at the end of the device, of a device-resident list's block (R262): read as key index 0 lines;
none where a line is poisoned. -/
def deviceBlock (F : Fuses) (d : Dev) (h : Head) (a : Nat) : Option (List (BitVec 256)) :=
  (readBytes F d h 0 0 a 512).map fun b => (List.range 16).map fun i => BitVec.ofNat 256 (leNat ((b.drop (32 * i)).take 32))

/-- Descriptors that follow a link or the last one in the block are of no use. -/
def useful : List (BitVec 256) → List (BitVec 256)
  | [] => []
  | x :: r => if (descOf x).link || (descOf x).last then [x] else x :: useful r

/-- A non-posted request can time out on a head: Device Control 2 has not disabled the timeout (R61). -/
def Dev.noTimeout (d : Dev) (h : Head) (st : OutEnd) : Bool := decide (st = .timeout) && (d.head h).cplOff

/-- The outbound reads of a block of 512 bytes, split at a 4 KiB boundary (R60, R262). -/
def Dev.listRead (d : Dev) (h : Head) (a c : Nat) : Dev :=
  let n := min 512 (4096 - a % 4096)
  let d1 := d.emit (.hostRead h a n c)
  if n < 512 then d1.emit (.hostRead h (a + n) (512 - n) c) else d1

/-- A block of descriptors is read (R262, R60, R61): its requests go out, and what they bring arrives. -/
def descFetch (F : Fuses) (d : Dev) (c : Nat) (host : List (BitVec 256)) (fail : OutEnd) : Dev :=
  let x := d.schan c
  let closed : Bool := match x.ahead.getLast? with
    | some e => (descOf e.2).link || (descOf e.2).last
    | none => false
  if x.state ≠ .running ∨ x.kind = .verify ∨ x.lastSeen ∨ closed ∨ 48 < x.ahead.length ∨ (!x.listDev ∧ d.noTimeout x.head fail) then d
  else
    let lost (d : Dev) : Dev :=
      let (t, d1) := d.free
      d1.setSchan c (x.fault 3 x.next x.listDev (t % 2 ^ 32))
    let put (d : Dev) (l : List (BitVec 256)) : Dev :=
      let u := useful l
      d.setSchan c { x with ahead := x.ahead ++ u.zipIdx.map fun e => (x.next + 32 * e.2, e.1), next := x.next + 32 * u.length }
    if x.listDev then
      match deviceBlock F d x.head x.next with
      | some l => put d l
      | none => lost d
    else if fail ≠ .ok then lost ((d.listRead x.head x.next c).emit (.aer x.head fail))
    else put (d.listRead x.head x.next c) (host.take 16)

/-- Is a link descriptor well formed (R263, R265)? -/
def linkOk (q : Desc) : Bool :=
  decide (q.ctl = 1 ∧ q.rsv = 0 ∧ q.dst = 0 ∧ q.srcLen = 0 ∧ q.dstLen = 0 ∧ q.src % 32 = 0)

/-- The bytes a descriptor may write. -/
def Desc.room (q : Desc) (x : SChan) : Nat := if x.lanes then q.dstLen else q.srcLen

/-- Is a data descriptor valid (R265)? -/
def dataOk (F : Fuses) (d : Dev) (x : SChan) (q : Desc) : Bool :=
  let dev (a n : Nat) : Bool := decide (a < 2 ^ 44) && (rangeOk F d x.head a n || scratchRange a n)
  let inst := decide (x.kind = .install)
  let strm := decide (x.kind = .stream)
  decide (q.ctl < 64 ∧ q.rsv = 0 ∧ 0 < q.srcLen) && (if x.lanes then decide (0 < q.dstLen) else decide (q.dstLen = 0 ∧ q.fmt = 0)) &&
    (inst || (dev q.src q.srcLen && (decide (x.xform = 0) || !scratchRange q.src q.srcLen))) &&
    (strm || (dev q.dst (q.room x) && (!inst || !scratchRange q.dst q.srcLen))) &&
    (if strm then activeHead F d q.head && (decide (portMode F d ≠ .dualHead) || decide (q.head = x.head)) else decide (q.ctl < 16)) &&
    (if x.kind = .copy ∧ x.xform = 0 ∧ x.key ≠ 0 then
        decide (x.dkey = x.key ∧ lineOffset q.src x.base = lineOffset q.dst x.dbase ∧ q.src % 64 = 0 ∧ q.dst % 64 = 0 ∧
          q.srcLen % 64 = 0 ∧ x.base % 64 = 0 ∧ x.dbase % 64 = 0)
      else true)

/-- Bit r of a slot's rights: 0 out_plain, 1 ide_req, 2 install, 3 verify, 4 copy_ct, 5 rekey_to (R233). -/
def Dev.right (d : Dev) (k r : Nat) : Bool := bit (d.slot k).rights r

/-- The rights checked at the start of a descriptor (R238, R270): plaintext leaves under a nonzero key index. -/
def rightsOk (F : Fuses) (d : Dev) (x : SChan) (q : Desc) : Bool :=
  let outward := match x.kind with
    | .stream => true
    | .copy => !scratchRange q.dst (q.room x)
    | _ => false
  let h := match x.kind with
    | .stream => q.head
    | _ => x.head
  if !activeHead F d h then true
  else if x.key = 0 ∨ x.xform = 0 ∨ !outward ∨ scratchRange q.src q.srcLen then true
  else decide ((d.slot x.key).state = 1) && d.right x.key 0 && (!d.right x.key 1 || (d.head h).ideOn)

/-- Two ranges overlap. -/
def overlap (a n b m : Nat) : Bool := decide (a < b + m ∧ b < a + n)

/-- A Copy descriptor waits for an earlier one that its ranges meet (R267). -/
def copyWaits (x : SChan) (q : Desc) : Bool :=
  decide (x.kind = .copy) && x.runs.any fun r =>
    let e := descOf r.desc
    !x.runDone r && (overlap q.src q.srcLen e.dst (e.room x) || overlap q.dst (q.room x) e.dst (e.room x) ||
      overlap q.dst (q.room x) e.src e.srcLen)

/-- The smallest power of two that is no less. -/
def pow2Up (n : Nat) : Nat := ((List.range 7).map fun k => 2 ^ k).find? (fun p => decide (n ≤ p)) |>.getD 64

/-- History buffer of a descriptor, in units of 64 KiB (R273). -/
def histOf (q : Desc) : Nat := if q.fmt = 2 then pow2Up (Config.window q.src q.fmt) else 1

/-- May one more descriptor of a list be in progress (R267, R273)? -/
def Dev.listRoom (d : Dev) (x : SChan) : Bool :=
  decide ((x.runs.filter fun r => !x.runDone r).length < if x.lanes then d.fld STR_CFG 11 8 else 64)

/-- The lists that wait for a lane: those that still run (R273). -/
def Dev.laneQueue (d : Dev) : List Nat := d.str.laneWait.filter fun c => decide ((d.schan c).state = .running)

/-- A descriptor of channel c gets a lane and its history buffer now: both are free, and no other list has waited longer (R273). -/
def Dev.laneFree (d : Dev) (c : Nat) (q : Desc) : Bool :=
  decide (d.lanesUsed.1 < 32 ∧ d.lanesUsed.2 + histOf q ≤ 512) && decide (d.laneQueue.head?.getD c = c)

/-- The order of the waiting lists after channel c's descriptor has become ready and has, or has not, got a lane. -/
def Dev.laneTurn (d : Dev) (c : Nat) (got : Bool) : Dev :=
  let l := d.laneQueue
  { d with str := { d.str with laneWait := if got then l.filter (· != c) else if l.contains c then l else l ++ [c] } }

/-- Fault-free descriptors at the head of the list have ended: they count toward progress (R268). -/
def settleRuns (x : SChan) : List Run → Nat × Nat × List Run
  | [] => (0, 0, [])
  | r :: l =>
    if x.runDone r ∧ r.fault = 0 then
      let (n, b, rest) := settleRuns x l
      (n + 1, b + (if x.kind = .copy then r.lastAddr else 0), rest)
    else (0, 0, r :: l)

/-- Progress of a channel brought up to date; a Copy's or Install's descriptor counts as ended here (R268, R283). -/
def Dev.settle (d : Dev) (c : Nat) : Dev :=
  let x := d.schan c
  let (n, b, rest) := settleRuns x x.runs
  if n = 0 then d
  else
    let d1 := d.setSchan c { x with runs := rest, progress := x.progress + n, out := x.out + b }
    if x.kind = .stream then d1 else d1.count 0x242 n

/-- Outbound tags of a head that the engine's reads hold: confirmation reads and Install's source reads (R29, R275). -/
def Dev.outTags (d : Dev) (h : Head) : Nat :=
  d.str.chan.foldl (fun n e =>
    let x := e.2
    n + (x.runs.filter fun r => !r.ended && (if x.kind = .install then decide (x.head = h ∧ r.fault = 0) && !x.srcDone r
      else r.confirming && decide ((descOf r.desc).head = h))).length) 0

/-- One of the head's 1,024 outbound tags is free (R29, R275). -/
def Dev.tagFree (d : Dev) (h : Head) : Bool := decide (d.outTags h < 1024)

/-- The outbound read an Install's descriptor needs next, within one 4 KiB block (R60). -/
def installRead (d : Dev) (c : Nat) (x : SChan) (r : Run) : Dev :=
  let q := descOf r.desc
  let a := q.src + r.bytes.length
  let n := min (q.srcLen - r.bytes.length) (4096 - a % 4096)
  if n = 0 then d else d.emit (.hostRead x.head a n c)

/-- A descriptor's destination breaks a window's rule: a Copy under another key index or base than a window it meets, or into
an XTS window without install (R282); an Install into a window of another key index or mode (R253). -/
def Dev.windowBreak (d : Dev) (x : SChan) (q : Desc) : Bool :=
  let lo := q.dst / 2 ^ 20
  let hi := (q.dst + q.room x - 1) / 2 ^ 20
  let met := d.wins.filter fun w => decide (w.lo ≤ hi ∧ lo ≤ w.hi)
  match x.kind with
  | .copy => decide (q.dst < volBase) && met.any fun w =>
      let a := max q.dst w.base
      decide (d.keyBase (some w) a ≠ (x.dkey, if x.dkey = 0 then 0 else x.dbase)) || (decide (w.mode = 1) && !d.right x.dkey 2)
  | .install => met.any fun w => decide (d.winKey w (max q.dst w.base) ≠ x.key ∨ w.mode ≠ 1)
  | _ => false

/-- Source lines that a channel has still to read for what it has started. -/
def SChan.linesLeft (x : SChan) : Nat :=
  match x.kind with
  | .install => 0
  | .verify => if x.state = .running then x.vLines - x.vDone else 0
  | _ => x.runs.foldl (fun n r => if x.srcDone r then n else n + ((descOf r.desc).srcLines - r.src.length)) 0

/-- A channel asks for its next source lines: at most 256 reads outstanding, each with an entry of the tracker (R16, R261). -/
def Dev.pump (d : Dev) (c : Nat) : Dev :=
  let x := d.schan c
  let want := min 256 x.linesLeft
  d.setSchan c { x with reads := min want (x.reads + d.internFree .stream) }

/-- The next descriptor reaches execution (R262, R265 to R267). -/
def descStart (F : Fuses) (d0 : Dev) (c : Nat) : Dev :=
  let d := d0.settle c
  let x := d.schan c
  if x.state ≠ .running ∨ x.lastSeen then d
  else match x.ahead with
    | [] => d
    | (a, b) :: rest =>
      let q := descOf b
      let die (code : Nat) : Dev := d.setSchan c (x.fault code a x.listDev q.tag)
      if x.limit ≤ x.executed + 1 ∧ (q.link ∨ !q.last) then die 2
      else if q.link then
        if linkOk q then d.setSchan c { x with next := q.src, ahead := [], executed := x.executed + 1 } else die 12
      else if !dataOk F d x q then die 12
      else if !rightsOk F d x q then die 11
      else if d.windowBreak x q then
        d.setSchan c { x.fault 14 q.dst true q.tag with refused := decide (x.started = 0) }
      else if copyWaits x q ∨ !d.listRoom x ∨ (x.kind = .install ∧ !d.tagFree x.head) then d
      else if x.lanes ∧ !d.laneFree c q then d.laneTurn c false
      else
        let r : Run := { idx := x.started, addr := a, desc := b, hist := if x.lanes then histOf q else 0 }
        let x1 := { x with ahead := rest, executed := x.executed + 1, started := x.started + 1, lastSeen := q.last,
                           runs := x.runs ++ [r], tag := q.tag }
        let d1 := d.setSchan c x1
        if x.kind = .install then installRead d1 c x1 r
        else if x.lanes then (d1.laneTurn c true).pump c
        else d1.pump c

/-! ## Source lines -/

/-- One destination line of a Copy, from its output (R281, R283): the line, its bytes, the bytes it takes, and whether it
takes any of a poisoned line. -/
def copyLine (dst : Nat) (out : List (Option Nat)) (j : Nat) : Nat × LineData × BitVec 64 × Bool :=
  let line := dst / 64 + j
  let at_ (k : Nat) : Option (Option Nat) :=
    let a := 64 * line + k
    if dst ≤ a then out[a - dst]? else none
  let l := (List.range 64).map at_
  let v := l.map fun o => match o with
    | some (some b) => b
    | _ => 0
  let m := (l.zipIdx).foldl (fun n e => if e.1.isSome then n + 2 ^ e.2 else n) 0
  (line, BitVec.ofNat 512 (leNat v), BitVec.ofNat 64 m, l.any fun o => o == some none)

/-- A write to an XTS window or an exhausted page that a Copy must not make (R277 code 0x0E, R282). -/
def Dev.copyRefused (d : Dev) (x : SChan) (line : Nat) : Bool :=
  let a := line * 64
  (match d.windowOf a with
    | some w => (decide (w.mode = 1) && !d.right x.dkey 2) || d.sec.exhWins.contains w.n
    | none => false) || d.sec.exh.contains (a / 4096)

/-- One destination line of a Copy is presented (R280, R283); none: Gondola has no room for it now. A line whose source was poison becomes a
poison line, recorded with origin 0xA whatever the source's own origin was (R177, R179, log entry 92). -/
def copyPut (F : Fuses) (d : Dev) (c idx : Nat) (e : Nat × LineData × BitVec 64 × Bool) : Option Dev :=
  let x := d.schan c
  let (line, v, m, bad) := e
  match x.runs.find? fun r => r.idx == idx with
  | none => none
  | some r =>
    let step (d : Dev) (pend : Nat) : Dev := d.setSchan c ((d.schan c).mapRun idx fun y => { y with sent := y.sent + 1, pend := y.pend + pend })
    if r.written then none
    else if volBase ≤ line * 64 then
      match placeOf F d x.head (line * 64) with
      | .scratch i =>
        let s := d.cache
        some (step (if bad then (recordPoison F d line 10).setCache { s.scrMark i 10 with scr := Tbl.put 0 s.scr i 0 }
          else if m = fullMask then d.setCache { s with scrPoison := s.scrPoison.filter (· != i), scr := Tbl.put 0 s.scr i v }
          else if s.scrPoison.contains i then partialLoss F d line
          else d.setCache { s with scr := Tbl.upd 0 s.scr i fun y => overlay y v m }) 0)
      | _ => some (step d 0)
    else if d.tracts.sealed then
      some (d.setSchan c ((x.runFault r 13 0 false).mapRun idx fun y => { y with written := true }))
    else if d.copyRefused x line then
      some (d.setSchan c ((x.runFault r 14 (line * 64) true).mapRun idx fun y => { y with written := true }))
    else if !gondolaRoom F d none then none
    else
      let w : WReq := { line := line, data := v, mask := m, poison := bad, key := x.dkey, base := if x.dkey = 0 then 0 else x.dbase,
                        wt := (match d.windowOf (line * 64) with
                          | some w => w.wt
                          | none => false),
                        ack := some (.run c idx) }
      some (acceptWrite F (step (if bad then recordPoison F d line 10 else d) 1) w)

/-- Destination lines of a Copy's descriptor that follow those already written, as far as Gondola has room (R283, R284). -/
def copyOut (F : Fuses) (d : Dev) (c : Nat) (r : Run) : Dev :=
  let x := d.schan c
  let q := descOf r.desc
  let out := runOut F d x r
  let n := (q.dst % 64 + out.length + 63) / 64
  let d1 := (List.range n).foldl (fun d j =>
    match (d.schan c).runs.find? fun y => y.idx == r.idx with
    | some y => if y.sent = j ∧ !y.written then (copyPut F d c r.idx (copyLine q.dst out j)).getD d else d
    | none => d) d
  match (d1.schan c).runs.find? fun y => y.idx == r.idx with
  | some y =>
    if y.written ∨ y.sent < n then d1
    else d1.setSchan c ((d1.schan c).mapRun r.idx fun z => { z with written := true, lastAddr := out.length })
  | none => d1

/-- A decompression has all its input: a failed check faults its descriptor at the descriptor's address (R271, R279). -/
def expandCheck (F : Fuses) (d : Dev) (c : Nat) (r : Run) : Dev :=
  let x := d.schan c
  let (_, code) := expanded F d x r
  if x.lanes ∧ x.srcDone r ∧ r.fault = 0 ∧ 7 ≤ code ∧ code ≤ 10 then d.setSchan c (x.runFault r code r.addr x.listDev) else d

/-- Stream and Copy: the oldest descriptor with source left reads its next line (R269, R270, R281). -/
def sourceNext (F : Fuses) (d0 : Dev) (c : Nat) (v : Verdict) : Dev :=
  let d := d0.settle c
  let x := d.schan c
  match x.runs.find? fun r => !x.srcDone r with
  | none =>
    match x.runs.find? fun r => !r.written with
    | some r => if x.kind = .copy then copyOut F d c r else d
    | none => d
  | some r =>
    let q := descOf r.desc
    let a := q.src / 64 * 64 + 64 * r.src.length
    let (y, d1) := peekAddr F d x.head x.key x.base a v
    let d2 := d1.count 0x240
    let got := match y with
      | .data z => some z
      | .poison _ => none
    let d3 := match y with
      | .poison o =>
        let d3 := if o = 7 ∨ o = 8 ∨ o = 11 then recordPoison F d2 (a / 64) o else d2
        if (o = 1 ∨ o = 2) ∧ a < volBase then d3.confirmAdd (a / 64) x.key x.base else d3
      | .data _ => d2
    let r1 := { r with src := r.src ++ [got] }
    let x1 := (d3.schan c).mapRun r.idx fun _ => r1
    let x2 := if got.isSome then x1
      else if x.kind = .copy ∧ x.xform ≠ 2 then
        { x1 with npoison := x1.npoison + 1, faultAddr := if x1.npoison = 0 then a else x1.faultAddr,
                  faultDev := true }
      else x1.runFault r1 6 a true
    let d4 := d3.setSchan c x2
    if !x2.srcDone r1 then d4
    else
      let d5 := expandCheck F d4 c r1
      if x.kind = .copy then copyOut F d5 c ((d5.schan c).runs.find? (fun z => z.idx == r.idx) |>.getD r1) else d5

/-- Verify: the next line is decoded and checked (R254). -/
def verifyNext (F : Fuses) (d : Dev) (c : Nat) (v : Verdict) : Dev :=
  let x := d.schan c
  if x.vLines ≤ x.vDone then d
  else
    let (y, d1) := peekAddr F d x.head x.key x.base (x.vDpa + 64 * x.vDone) v
    let text (l : List Nat) : List Nat := if x.vMac = 0 then [] else x.vText ++ l
    let x1 := match y with
      | .data z => { x with vDone := x.vDone + 1, vText := text (lineBytes z) }
      | .poison _ => { x with vDone := x.vDone + 1, vText := text (List.replicate 64 255), vFailed := x.vFailed + 1,
                              vFirst := if x.vFailed = 0 then x.vDone else x.vFirst }
    let a := x.vDpa + 64 * x.vDone
    let d2 := match y with
      | .poison o => if o = 7 ∨ o = 8 ∨ o = 11 then recordPoison F d1 (a / 64) o else d1
      | .data _ => d1
    (d2.count 0x240).setSchan c { x1 with progress := x1.vDone }

/-- A write-back's row mark for a migration in progress, without heat (R212). -/
def Dev.markRow (d : Dev) (line : Nat) : Dev :=
  let migs := d.tracts.migs.map fun x =>
    if x.tract = line / 16384 ∧ x.step ≤ 3 then
      let r := line % 16384 / (8 * (10 - x.target.wd - 2))
      { x with marked := if x.marked.contains r then x.marked else x.marked ++ [r] }
    else x
  { d with tracts := { d.tracts with migs := migs } }

/-- One line of an Install is placed (R209, R253): plaintext is encrypted, ciphertext stored as supplied, and a tag is
computed; its written bit is set. None: its tract cannot take a program now. -/
def installLine (d : Dev) (x : SChan) (line : Nat) (v : LineData) : Option Dev :=
  let t := line / 16384
  let e := d.ent t
  if e.shr then none
  else if (e.kind = 1 ∨ e.kind = 2) ∧ (d.mixed t ∨ d.wbHeld line) then none
  else match (if e.kind = 1 ∨ e.kind = 2 then some d else d.firstHome t (line % 16384) true) with
    | none => none
    | some d1 =>
      let plain := if x.ct then d1.decrypt x.key (tagOffset x.key (line * 64) x.base) 0 0 v else v
      let m := d1.seal x.key (line * 64) x.base 0 0 plain
      let l := d1.lineLoc line
      let dw := if d1.rowLive l then d1 else d1.wearRow l true
      let d2 := ((((dw.count 0x201).writeClears line).putLine line m).markRow line).unlose line
      some { d2 with drift := { d2.drift with confirm := d2.drift.confirm.filter fun y => y.line != line } }

/-- Lines of an Install whose bytes have all arrived are placed in order. Bytes of a first or last line that lie outside
the range are free values: the manual states none. -/
def installOut (d : Dev) (c : Nat) (r : Run) : Dev :=
  let q := descOf r.desc
  let n := (q.dst % 64 + q.srcLen + 63) / 64
  (List.range n).foldl (fun d j =>
    let x := d.schan c
    match x.runs.find? fun y => y.idx == r.idx with
    | none => d
    | some y =>
      let last := min (64 * (q.dst / 64 + j) + 64 - q.dst) q.srcLen
      if y.sent ≠ j ∨ y.written ∨ y.fault ≠ 0 ∨ y.bytes.length < last then d
      else
        let (z, d1) := d.free
        let l := q.dst / 64 + j
        let v := (List.range 64).map fun k =>
          if q.dst ≤ 64 * l + k then y.bytes.getD (64 * l + k - q.dst) (byteOf z k) else byteOf z k
        match installLine d1 x l (BitVec.ofNat 512 (leNat v)) with
        | none => (if (d.ent (l / 16384)).shr then d.migQueue (l / 16384) .cow
            else if d.mixed (l / 16384) then d.migQueue (l / 16384) .refresh else d)
        | some d2 =>
          let x2 := { d2.schan c with lines := (d2.schan c).lines + 1 }
          d2.setSchan c (x2.mapRun r.idx fun w => { w with sent := j + 1, written := decide (j + 1 = n) })) d

/-- Install: what has arrived is placed (R253); nothing is placed in the sealed state beyond what was. -/
def installNext (d0 : Dev) (c : Nat) : Dev :=
  let d := d0.settle c
  match (d.schan c).runs.find? fun r => !r.written with
  | some r => installOut d c r
  | none => d

/-- Completion data of an Install source read (R253, R275): the bytes join their descriptor, or the read failed and the
descriptor faults (R61, R277 code 0x04). -/
def installData (d : Dev) (c : Nat) (data : List Nat) (st : OutEnd) : Dev :=
  let x := d.schan c
  match x.runs.find? fun r => !x.srcDone r && r.fault == 0 with
  | none => d
  | some r =>
    let q := descOf r.desc
    let a := q.src + r.bytes.length
    if x.kind ≠ .install then d
    else if st ≠ .ok then
      (d.emit (.aer x.head st)).setSchan c ((x.runFault r 4 a false).mapRun r.idx fun y => { y with written := true })
    else
      let n := min (q.srcLen - r.bytes.length) (4096 - a % 4096)
      if data.length < n then d
      else
        let r1 := { r with bytes := r.bytes ++ (data.take n).map (· % 256) }
        let d1 := d.setSchan c (x.mapRun r.idx fun _ => r1)
        let d2 := installRead d1 c x r1
        installNext d2 c

/-- SOURCE_LINE_RETURN's meaning by kind of list: one of the channel's outstanding reads returns (R261). A channel without one waits for an entry of
the tracker. -/
def sourceReturn (F : Fuses) (d0 : Dev) (c : Nat) (v : Verdict) : Dev :=
  let d := d0.pump c
  let x := d.schan c
  if (x.state ≠ .running ∧ x.state ≠ .stopping) ∨ (0 < x.linesLeft ∧ x.reads = 0) then d0
  else
    let d1 := d.setSchan c { x with reads := x.reads - 1 }
    match x.kind with
    | .verify => if x.state = .running then (verifyNext F d1 c v).pump c else d0
    | .install => installNext d1 c
    | _ => (sourceNext F d1 c v).pump c

/-! ## Output -/

/-- A destination fault of a head: every descriptor that writes on it ends at its next write (R278). -/
def SChan.headFault (x : SChan) (h : Head) (addr : Nat) : SChan :=
  { x with runs := x.runs.map fun r =>
      if x.kind = .stream ∧ (descOf r.desc).head = h ∧ !r.ended then
        { r with ended := true, fault := if r.fault = 0 then 5 else r.fault,
                 faultAddr := if r.fault = 0 then addr else r.faultAddr }
      else r }

/-- One posted write of a Stream's descriptor (R274, R60); after the last one the confirmation read goes out,
once a tag is free (R275). -/
def outWrite (F : Fuses) (d : Dev) (c idx : Nat) : Dev :=
  let x := d.schan c
  match x.runs.find? fun r => r.idx == idx && !r.ended && !r.confirming with
  | none => d
  | some r =>
    if x.kind ≠ .stream then d
    else
      let q := descOf r.desc
      let out := goodBytes (runOut F d x r)
      let a := q.dst + r.sent
      let want := min (a - a % 64 + 512) (a - a % 4096 + 4096) - a
      let n := min want (out.length - r.sent)
      if n < want ∧ !x.srcDone r then d
      else
        let put (d : Dev) (f : Run → Run) : Dev := d.setSchan c ((d.schan c).mapRun idx f)
        let d1 := if n = 0 then d
          else
            let u := (n + 63) / 64
            ((put d fun y => { y with sent := y.sent + n, lastAddr := a + n - 1 }).emit
              (.hostWrite q.head a ((out.drop r.sent).take n) true q.noSnoop) |>.countH 0x048 q.head u).count 0x241 u
        if !x.srcDone r ∨ r.sent + n < out.length then d1
        else if r.sent + n = 0 then put d1 fun y => { y with ended := true }
        else if !d.tagFree q.head then d1
        else
          let last := if n = 0 then r.lastAddr else a + n - 1
          (put d1 fun y => { y with confirming := true }).emit (.hostRead q.head last 0 c)

/-- The confirmation read of a channel's oldest waiting descriptor completes (R275). -/
def confirmed (d : Dev) (c : Nat) : Dev :=
  let x := d.schan c
  match x.runs.find? fun r => r.confirming && !r.ended with
  | none => d
  | some r =>
    let x1 := x.mapRun r.idx fun y => { y with ended := true, confirming := false }
    if r.fault = 0 then
      ((d.setSchan c { x1 with out := x1.out + r.sent }).count 0x242).settle c
    else d.setSchan c x1

/-- An outbound request of a channel fails (R61): a confirmation, an Install source read, or a descriptor read. -/
def outFail (d : Dev) (c : Nat) (why : OutEnd) : Dev :=
  let x := d.schan c
  let at' : Head := match x.runs.find? fun r => r.confirming && !r.ended with
    | some r => (descOf r.desc).head
    | none => x.head
  if x.state ≠ .running ∧ x.state ≠ .stopping ∨ why = .ok ∨ d.noTimeout at' why then d
  else match x.runs.find? fun r => r.confirming && !r.ended with
    | some r =>
      let h := (descOf r.desc).head
      (d.emit (.aer h why)).setSchan c ((x.runFault r 5 r.lastAddr false).headFault h r.lastAddr)
    | none =>
      match x.runs.find? fun r => decide (x.kind = .install) && !x.srcDone r && r.fault == 0 with
      | some r =>
        let a := (descOf r.desc).src + r.bytes.length
        (d.emit (.aer x.head why)).setSchan c ((x.runFault r 4 a false).mapRun r.idx fun y => { y with written := true })
      | none =>
        if x.listDev ∨ x.kind = .verify ∨ x.lastSeen then d
        else
          let (t, d1) := d.free
          (d1.emit (.aer x.head why)).setSchan c (x.fault 3 x.next false (t % 2 ^ 32))

/-! ## The end of a list -/

/-- LCI status of a channel's code (R301); a stop's status is what its stopper set. -/
def lciStatus (code stopStatus npoison : Nat) : Nat :=
  match code with
  | 0 => if 0 < npoison then 0x0001 else 0
  | 1 => stopStatus
  | 2 => 0x0406
  | 3 => 0x0501
  | 4 => 0x0502
  | 5 => 0x0503
  | 6 => 0x0401
  | 7 => 0x0402
  | 8 => 0x0403
  | 9 => 0x0404
  | 10 => 0x0405
  | 11 => 0x0205
  | 12 => 0x0108
  | 13 => 0x0601
  | 14 => 0x020B
  | _ => 0x0209

/-- Result bytes 24 to 63 of a list's completion (R302). -/
def listResult (d : Dev) (x : SChan) : List Nat :=
  let fault := x.faultAddr % 2 ^ 63 + (if x.faultDev then 2 ^ 63 else 0)
  match x.kind with
  | .stream | .copy => leBytes 8 x.out ++ leBytes 8 fault ++ leBytes 4 x.tag ++ leBytes 4 x.npoison
  | .install => leBytes 8 x.progress ++ leBytes 8 fault
  | .verify =>
    let mac := if x.vMac = 0 ∨ x.vDone < x.vLines then 0 else (Config.cmac (d.slot x.vMac).key1 x.vText).toNat
    leBytes 8 x.vFailed ++ leBytes 8 x.vFirst ++ leBytes 16 mac

/-- Have all of a channel's started descriptors ended, and does it start no more (R276)? -/
def SChan.ready (x : SChan) : Bool :=
  let through : Bool := match x.kind with
    | .verify => decide (x.vLines ≤ x.vDone)
    | _ => x.lastSeen
  (decide (x.state = .stopping) || (decide (x.state = .running) && through)) && x.runs.all fun r => x.runDone r

/-- What a channel in ended hands to firmware, which finishes the command (R276, R300). -/
def Dev.finishList (d : Dev) (c : Nat) : Dev :=
  let x := d.schan c
  let stop := match d.cmd x.handle with
    | some m => m.status
    | none => 0x0301
  let progress := if x.kind = .install then x.lines else x.progress
  let silent := match d.cmd x.handle with
    | some m => m.silent
    | none => true
  let status := if x.refused ∧ x.status = 14 then 0x0208 else lciStatus x.status stop x.npoison
  let d1 := d.finish x.handle status progress (listResult d x)
  if silent then d1.setSchan c {} else d1

/-- A channel enters ended (R276 to R279). -/
def listEnd (d0 : Dev) (c : Nat) : Dev :=
  let d := d0.settle c
  let x := d.schan c
  if !x.ready then d
  else
    let good := x.runs.filter fun r => decide (r.fault = 0)
    let out := if x.kind = .copy then good.foldl (fun n r => n + r.lastAddr) x.out else x.out
    let (code, addr, dev, tag) := x.pendFault.getD (0, x.faultAddr, x.faultDev, x.tag)
    let x1 := { x with state := .ended, status := code, faultAddr := addr, faultDev := dev, tag := tag, out := out,
                       runs := [], ahead := [], done := true, reads := 0 }
    let d2 := ((d.setSchan c x1).count 0x242 (if x.kind = .stream then 0 else good.length)).icu c
    let d3 := if code = 0 then d2 else d2.count 0x244
    (if code = 0 ∨ code = 1 then d3 else d3.bump STR_FAIL_CNT).finishList c

/-- A stop of a channel begins (R260, R277, R280): an armed one ends without having started. The tag of a stopped list is
a free value: no descriptor ended it. -/
def Dev.stopChan (d : Dev) (c : Nat) : Dev :=
  let x := d.schan c
  match x.state with
  | .armed | .running =>
    let (t, d1) := d.free
    d1.setSchan c (x.fault 1 0 false (t % 2 ^ 32))
  | _ => d

/-! ## The meanings -/

/-- DESCRIPTOR_FETCH (R262). -/
def execDescriptorFetch (c : Fin 64) (descs : List (BitVec 256)) (fail : OutEnd) (s : State) : Host.Outcome State Fault Refusal :=
  .next { s with dev := descFetch s.fuse s.dev c.val descs fail }

/-- DESCRIPTOR_START (R267). -/
def execDescriptorStart (c : Fin 64) (s : State) : Host.Outcome State Fault Refusal :=
  .next { s with dev := descStart s.fuse s.dev c.val }

/-- SOURCE_LINE_RETURN (R269). -/
def execSourceLineReturn (c : Fin 64) (v : Verdict) (s : State) : Host.Outcome State Fault Refusal :=
  .next { s with dev := sourceReturn s.fuse s.dev c.val v }

/-- OUTBOUND_WRITE (R274): the next posted write of the list's n-th data descriptor, counted from 0. -/
def execOutboundWrite (c : Fin 64) (n : Nat) (s : State) : Host.Outcome State Fault Refusal :=
  .next { s with dev := outWrite s.fuse s.dev c.val n }

/-- CONFIRMATION_COMPLETE (R275). -/
def execConfirmationComplete (c : Fin 64) (s : State) : Host.Outcome State Fault Refusal :=
  .next { s with dev := confirmed s.dev c.val }

/-- OUTBOUND_COMPLETION_TIMEOUT (R61). -/
def execOutboundCompletionTimeout (c : Fin 64) (why : OutEnd) (s : State) : Host.Outcome State Fault Refusal :=
  .next { s with dev := outFail s.dev c.val why }

/-- LIST_END (R276). -/
def execListEnd (c : Fin 64) (s : State) : Host.Outcome State Fault Refusal :=
  .next { s with dev := silentOut s.fuse (listEnd s.dev c.val) }

end Sys2Proof.Machine
end

