-- ==== Sys2Proof/Machine/BridleOps.lean ====
section
/-!
DEFINITION. Bridle, the channel arbiter (R155 to R159).
-/
namespace Sys2Proof.Machine

/-- Rank of a requester on a quadrant (R155): its field of MCH_BRIDLE_RANKq, rebuild of a degraded group at 6. -/
def Dev.rank (d : Dev) (q : Nat) (b : BrReq) : Nat :=
  if b.req = 4 ∧ b.degraded then 6 else d.fld (MCH_BRIDLE_RANK q) (23 - 3 * b.req) (21 - 3 * b.req)

/-- Does `a` go before `b` at an arbitration beat (R155)? -/
def Dev.goesFirst (d : Dev) (q : Nat) (a b : BrReq) : Bool :=
  decide (d.rank q b < d.rank q a ∨ (d.rank q a = d.rank q b ∧ (a.req < b.req ∨ (a.req = b.req ∧ a.seq ≤ b.seq))))

/-- The DQ slot of a unit whose frame starts at t (R156, R159): a line's or a page's response begins with tRL after the frame; a LOAD burst takes
the 2 ns of a change of direction on either side. -/
def dqSlot (t : Nat) (page load : Bool) : Nat × Nat :=
  if load then (t + 11, t + 56) else if page then (t + 130, t + 170) else (t + 130, t + 135)

/-- Is a DQ slot free on a channel? -/
def Channel.dqFree (c : Channel) (s : Nat × Nat) : Bool := c.dq.all fun x => decide (s.2 ≤ x.1 ∨ x.2 ≤ s.1)

/-- Is a bank free at t: no read that Bridle granted holds it, and neither does one that the die executes? -/
def Dev.bankFree (d : Dev) (m bank t : Nat) : Bool :=
  decide (Tbl.look 0 (d.chan (m / 8)).held64 (m % 8 * 64 + bank) ≤ t) && decide (Tbl.look 0 (d.die m).bankUntil bank ≤ t)

/-- The place of an outstanding fetch that reads media. -/
def Dev.fetchLoc (d : Dev) (f : Fetch) : Option Loc :=
  if (d.ent (f.line / 16384)).kind = 1 ∨ (d.ent (f.line / 16384)).kind = 2 then some (d.lineLoc f.line) else none

/-- The channel positions whose frames a fetch needs (R152, R173): its home's; every other available member's where it goes around or its home
line failed its code. -/
def Dev.wanted (d : Dev) (f : Fetch) (l : Loc) : List Nat :=
  let home := d.dataPos l l.idx
  if f.around || f.code || d.posUnavail l.g home then
    (d.positions l.g l.w).filter fun p => p != home && !d.posUnavail l.g p
  else [home]

/-- A read for a host or for a Gondola merge, as against a fill (R155). -/
def Fetch.host (f : Fetch) : Bool := f.waiters.any fun w => match w with
  | .spec _ => false
  | _ => true

/-- The frame that a fetch waits for on a channel, with its die and bank. -/
def Dev.frameOn (d : Dev) (n : Nat) (f : Fetch) : Option (Nat × Nat) :=
  match d.fetchLoc f with
  | none => none
  | some l =>
    if l.g / 8 = n / 10 ∧ !bit f.sent (n % 10) ∧ (d.wanted f l).contains (n % 10) then some (dieOf l.g (n % 10), bankOf l.pa) else none

/-- Banks that host reads guard on a channel (R157, R173): from its hint to its verdict a host read keeps units of lower rank off the bank of its
page on every available member of its stripe. -/
def Dev.guarded (d : Dev) (n : Nat) : List (Nat × Nat) :=
  (d.cache.fetches.filter fun f => f.host && !f.retry).filterMap fun f => match d.fetchLoc f with
    | none => none
    | some l => if l.g / 8 = n / 10 then some (dieOf l.g (n % 10), bankOf l.pa) else none

/-- The reads that wait for a frame on a channel and can have it at t: host reads in order of acceptance, then fills. The later of two reads of
one bank waits for the earlier (R157). -/
def Dev.readsReady (d : Dev) (n t : Nat) : List (Fetch × Nat × Nat) :=
  let l := d.cache.fetches.filterMap fun f => (d.frameOn n f).map fun x => (f, x.1, x.2)
  ((l.filter fun e => e.1.host) ++ l.filter fun e => !e.1.host).filter fun e =>
    d.bankFree e.2.1 e.2.2 t && (d.chan n).dqFree (dqSlot t false false)

/-- How long a host read's home bank is held by the reads before it: what is left of the bank's occupancy, and tRC for each read that waits ahead. -/
def Dev.bankHold (d : Dev) (m bank t ahead : Nat) : Nat :=
  (max (Tbl.look 0 (d.chan (m / 8)).held64 (m % 8 * 64 + bank)) (Tbl.look 0 (d.die m).bankUntil bank) - t) + 120 * ahead

/-- Host reads whose home bank earlier host reads hold for longer than 120 ns are served by read-around (R152, R157). -/
def Dev.roundReads (d : Dev) (n t : Nat) : Dev :=
  let l := (d.cache.fetches.filter fun f => f.host && !f.around).filterMap fun f => (d.frameOn n f).map fun x => (f.id, x.1, x.2)
  let late := (l.zipIdx.filter fun e => decide (120 < d.bankHold e.1.2.1 e.1.2.2 t ((l.take e.2).filter fun y => y.2 == e.1.2).length)).map (·.1.1)
  let home (f : Fetch) : Bool := match d.fetchLoc f with
    | some x => d.dataPos x x.idx == n % 10
    | none => false
  d.setCache { d.cache with fetches := d.cache.fetches.map fun f => if late.contains f.id && home f then { f with around := true } else f }

/-- The source line that a stream channel waits for on a media channel (R155): its data descriptor and the line's number. -/
def Dev.streamAsk (d : Dev) (n c : Nat) : Option (Nat × Nat) :=
  let x := Tbl.look {} d.str.chan c
  match x.runs.find? fun r => !x.srcDone r with
  | none => none
  | some r =>
    let a := (descOf r.desc).src / 64 + r.src.length
    let e := d.ent (a / 16384)
    if x.asked = some (r.idx, r.src.length) ∨ volBase ≤ 64 * a ∨ (e.kind ≠ 1 ∧ e.kind ≠ 2) then none
    else
      let l := d.lineLoc a
      if 10 * (l.g / 8) + d.dataPos l l.idx = n then some (r.idx, r.src.length) else none

/-- A stream channel's request. -/
def streamReq (c : Nat) : BrReq := { req := 2, seq := c, units := 1 }

/-- Is the next unit of a queued request a LOAD? -/
def BrReq.load (b : BrReq) : Bool := decide (b.reads ≤ b.done)

/-- Queued requests that may be granted at t: loads beyond the frame's cap wait (R159), and so do units on a guarded bank (R157, R173), on a bank
that is held, and without a DQ slot. -/
def Dev.grantable (d : Dev) (n t : Nat) : List BrReq :=
  let c := d.chan n
  let capped := decide (d.fld MCH_BRIDLE_CFG 7 0 ≤ c.loaded)
  let kept := d.guarded n
  (Tbl.look [] d.media.bridle n).filter fun b => !(capped && b.load) && c.dqFree (dqSlot t (!b.load) b.load) &&
    (match b.bank with
      | some x => !kept.contains x && (b.load || d.bankFree x.1 x.2 t)
      | none => true)

/-- One unit of a queued request is performed; it keeps its progress count. -/
def Dev.unitDone (d : Dev) (n : Nat) (b : BrReq) : Dev :=
  let l := (Tbl.look [] d.media.bridle n).filterMap fun x =>
    if x = b then (if x.units ≤ x.done + 1 then none else some { x with done := x.done + 1 }) else some x
  { d with media := { d.media with bridle := Tbl.put [] d.media.bridle n l } }

/-- A unit granted takes its DQ slot, and a read its bank for tRC (R156). -/
def Dev.occupy (d : Dev) (n t : Nat) (s : Nat × Nat) (bank : Option (Nat × Nat)) (host : Bool) : Dev :=
  let c := d.chan n
  let held := match bank with
    | some x => Tbl.put 0 c.held64 (x.1 % 8 * 64 + x.2) (t + 4 + 120)
    | none => c.held64
  d.setChan n { c with granted := c.granted + 1, dq := s :: c.dq.filter (fun x => decide (t < x.2)), held64 := held,
                       caUntil := if host then t + 4 else c.caUntil }

/-- A read's frame is granted on a channel. -/
def Dev.grantRead (d : Dev) (n t : Nat) (e : Fetch × Nat × Nat) : Dev :=
  let d1 := d.occupy n t (dqSlot t false false) (some e.2) e.1.host
  let sent := setBits e.1.sent (n % 10) (n % 10) 1
  let all := match d.fetchLoc e.1 with
    | some l => (d.wanted e.1 l).all fun p => bit sent p
    | none => true
  d1.setCache { d1.cache with fetches := d1.cache.fetches.map fun x => if x.id = e.1.id then { x with sent := sent, issued := all } else x }

/-- What may be granted at an arbitration beat: a read's frame, a stream's, or a unit of a queued request. -/
inductive Cand where
  | read (e : Fetch × Nat × Nat)
  | stream (c : Nat) (ask : Nat × Nat)
  | queued (b : BrReq)

/-- The request a candidate makes: among reads of one rank the first of their list goes first. -/
def Cand.req : Cand → BrReq
  | .read e => { req := if e.1.host then 0 else 6, seq := 0, units := 1 }
  | .stream c _ => streamReq c
  | .queued b => b

/-- Candidates at t. -/
def Dev.cands (d : Dev) (n t : Nat) : List Cand :=
  (d.readsReady n t).map Cand.read ++
    (if (d.chan n).dqFree (dqSlot t false false) then (List.range 64).filterMap fun c => (d.streamAsk n c).map (Cand.stream c) else []) ++
    (d.grantable n t).map Cand.queued

/-- The candidate that wins (R155). -/
def Dev.winner (d : Dev) (q : Nat) (l : List Cand) : Option Cand :=
  l.foldl (fun acc b => match acc with
    | none => some b
    | some a => if d.goesFirst q a.req b.req then some a else some b) none

/-- An arbitration beat of a channel (R156): the winner is granted one unit. A channel in a test window or declared failed grants none
(R159). -/
def Dev.bridleBeat (d : Dev) (n : Nat) : Dev :=
  let d0 := d.tick (100 + n) 4
  let t := d0.tether.now
  if (d0.tether.twOpen && d0.tether.twChan == n) || (d0.chan n).failed then d0
  else
    let d1 := d0.roundReads n t
    match d1.winner (n / 10) (d1.cands n t) with
    | none => d1
    | some (.read e) => d1.grantRead n t e
    | some (.stream c a) =>
      let x := Tbl.look {} d1.str.chan c
      let d2 := d1.occupy n t (dqSlot t false false) none false
      { d2 with str := { d2.str with chan := Tbl.put {} d2.str.chan c { x with asked := some a } } }
    | some (.queued b) => (d1.occupy n t (dqSlot t (!b.load) b.load) (if b.load then none else b.bank) false).unitDone n b

/-- BRIDLE_GRANT (R156). -/
def execBridleGrant (n : ChannelId) (s : State) : Host.Outcome State Fault Refusal := .next { s with dev := s.dev.bridleBeat n.val }

/-- BRIDLE_RANK_WRITE (R158). -/
def execBridleRankWrite (_h : Head) (q : Fin 4) (value : Reg32) (s : State) : Host.Outcome State Fault Refusal :=
  .next { s with dev := (s.dev.rankWrite q.val value.toNat).keepCfg (s.dev.reg (MCH_BRIDLE_RANK q.val)) (MCH_BRIDLE_RANK q.val) }

end Sys2Proof.Machine
end

