-- ==== Sys2Proof/Machine/PmcOps.lean ====
section
/-!
DEFINITION. The performance counters and histograms as they are written and snapshot (R396, R397, R400, R401, R403).
-/
namespace Sys2Proof.Machine

/-- The event numbers of R398. -/
def evKnown (e : Nat) : Bool :=
  [0x000, 0x001].contains e || decide (0x040 ≤ e ∧ e ≤ 0x048 ∨ 0x060 ≤ e ∧ e ≤ 0x068 ∨ 0x080 ≤ e ∧ e ≤ 0x08C ∨
    0x0C0 ≤ e ∧ e ≤ 0x0C6 ∨ 0x100 ≤ e ∧ e < 0x200 ∧ e % 0x40 ≤ 0x0C ∨ 0x200 ≤ e ∧ e ≤ 0x205 ∨ 0x240 ≤ e ∧ e ≤ 0x244 ∨
    0x280 ≤ e ∧ e ≤ 0x283 ∨ 0x2C0 ≤ e ∧ e ≤ 0x2C2)

/-- May a head write the configuration of counter n of `total` (R403)? -/
def ownsPmc (F : Fuses) (d : Dev) (h : Head) (n total : Nat) : Bool :=
  decide (portMode F d ≠ .dualHead) || decide (decide (n < total / 2) = decide (h = .a))

/-- A write of PMC_CNT_CFGn (R397). -/
def cntWrite (F : Fuses) (d : Dev) (h : Head) (n v : Nat) : Dev :=
  if !ownsPmc F d h n 64 then d
  else
    let w := (d.reg (PMC_CNT_CFG n)).toNat
    let ev := if evKnown (bits v 9 0) then bits v 9 0 else bits w 9 0
    let d1 := d.setReg (PMC_CNT_CFG n) (BitVec.ofNat 32 (setBits (setBits 0 9 0 ev) 31 31 (bits v 31 31)))
    let c := Tbl.look {} d1.pmc.cnt n
    let c1 : Cnt := if bit v 30 then {} else if bit v 29 then { c with ovf := false } else c
    { d1 with pmc := { d1.pmc with cnt := Tbl.put {} d1.pmc.cnt n c1 } }

/-- A write of PMC_HIST_CFGh (R401, R403). -/
def histWrite (F : Fuses) (d : Dev) (h : Head) (i v : Nat) : Dev :=
  if !ownsPmc F d h i 8 then d
  else
    let w := (d.reg (PMC_HIST_CFG i)).toNat
    let src := if bits v 3 0 ≤ 5 then bits v 3 0 else bits w 3 0
    let hd := if portMode F d = .dualHead then b2n (decide (4 ≤ i)) else bits v 4 4
    let d1 := d.setReg (PMC_HIST_CFG i) (BitVec.ofNat 32 (src + 16 * hd + 2 ^ 31 * bits v 31 31))
    if bit v 30 then { d1 with pmc := { d1.pmc with bin := d1.pmc.bin.filter fun e => e.1 / 32 != i } } else d1

/-- Counters or bins of one owner: the values owned are copied, the others keep their last snapshot (R400). -/
def copyOwned (live old : Tbl Cnt) (half : Nat) (who : Option Head) : Tbl Cnt :=
  match who with
  | none => live
  | some .a => live.filter (fun e => e.1 < half) ++ old.filter fun e => half ≤ e.1
  | some .b => old.filter (fun e => e.1 < half) ++ live.filter fun e => half ≤ e.1

/-- Whose values a host's snapshot covers: the head's own in dual-head mode, else all (R400). -/
def snapWho (F : Fuses) (d : Dev) (h : Head) : Option Head := if portMode F d = .dualHead then some h else none

/-- A counter snapshot (R400). -/
def Dev.snapCounters (d : Dev) (who : Option Head) : Dev :=
  let p := d.pmc
  { d with pmc := { p with snap := copyOwned p.cnt p.snap 32 who,
                           snapTimeA := if who = some .b then p.snapTimeA else d.tether.now,
                           snapTimeB := if who = some .a then p.snapTimeB else d.tether.now } }

/-- A histogram snapshot (R400). -/
def Dev.snapHist (d : Dev) (who : Option Head) : Dev :=
  let p := d.pmc
  { d with pmc := { p with hsnap := copyOwned p.bin p.hsnap 128 who,
                           hsnapTimeA := if who = some .b then p.hsnapTimeA else d.tether.now,
                           hsnapTimeB := if who = some .a then p.hsnapTimeB else d.tether.now } }

/-- A write of a head's PMC_CTL (R400, R404). -/
def pmcCtl (F : Fuses) (d : Dev) (h : Head) (v : Nat) : Dev :=
  let d1 := d.setFld (headOff h PMC_CTL) 31 31 (bits v 31 31)
  let d2 := if bit v 0 then d1.snapCounters (snapWho F d h) else d1
  if bit v 1 then d2.snapHist (snapWho F d h) else d2

/-- COUNTER_CLEAR (R397). -/
def execCounterClear (h : Head) (n : Fin 64) (value : Reg32) (s : State) : Host.Outcome State Fault Refusal :=
  .next { s with dev := cntWrite s.fuse s.dev h n.val value.toNat }

/-- COUNTER_SNAPSHOT (R400). -/
def execCounterSnapshot (h : Head) (s : State) : Host.Outcome State Fault Refusal :=
  .next { s with dev := s.dev.snapCounters (snapWho s.fuse s.dev h) }

/-- HISTOGRAM_SNAPSHOT (R400). -/
def execHistogramSnapshot (h : Head) (s : State) : Host.Outcome State Fault Refusal :=
  .next { s with dev := s.dev.snapHist (snapWho s.fuse s.dev h) }

/-- HISTOGRAM_CLEAR (R401). -/
def execHistogramClear (h : Head) (i : Fin 8) (value : Reg32) (s : State) : Host.Outcome State Fault Refusal :=
  .next { s with dev := histWrite s.fuse s.dev h i.val value.toNat }

end Sys2Proof.Machine
end

