-- ==== Sys2Proof/Machine/LaunchOps.lean ====
section
/-!
DEFINITION. Launch slots (R111 to R116), the Tether output pins (R115), and the Snapshots they launch (R18, R286 to R288).
-/
namespace Sys2Proof.Machine

/-! ## Snapshots -/

/-- Mark the Gondola entries of a range as written before the launch of a Snapshot (R287). -/
def Dev.markPre (d : Dev) (s : Snap) : Dev :=
  let f (l : Nat) (e : Option GEntry) : Option GEntry :=
    if s.src ≤ l * 64 ∧ l * 64 < s.src + s.size then e.map fun g => { g with preLaunch := some s.handle } else e
  { d with gon := { d.gon with staged := Tbl.mapAll none d.gon.staged f, wb := Tbl.mapAll none d.gon.wb f } }

/-- Change a Snapshot. -/
def Dev.mapSnap (d : Dev) (h : Nat) (f : Snap → Snap) : Dev :=
  { d with str := { d.str with snaps := d.str.snaps.map fun s => if s.handle = h then f s else s } }

/-- A Snapshot leaves the snapshot unit. -/
def Dev.dropSnap (d : Dev) (h : Nat) : Dev := { d with str := { d.str with snaps := d.str.snaps.filter fun s => s.handle != h } }

/-- A Snapshot's launch at Tether time t (R286, R288): while the device is sealed it ends with status sealed. -/
def Dev.snapFire (d : Dev) (h t : Nat) : Dev :=
  match d.str.snaps.find? fun s => s.handle == h with
  | none => d
  | some s =>
    if d.tracts.sealed then (d.dropSnap h).finish h 0x0601 0 (leBytes 8 0)
    else ((d.mapSnap h fun x => { x with fired := some t }).markPre s).mapCmd h fun c => { c with started := true, state := 2, progress := 1 }

/-- The next tract of a Snapshot's image is mapped (R221, R286): both entries are shared, the physical tract has one more
reference, and the image takes the header, the counter block in it, and the written bits. -/
def Dev.snapBuild (d : Dev) (h : Nat) : Dev :=
  match d.str.snaps.find? fun s => s.handle == h with
  | none => d
  | some s =>
    let t := s.src / 2 ^ 20 + s.built
    let u := s.dst / 2 ^ 20 + s.built
    if s.fired.isNone ∨ s.size / 2 ^ 20 ≤ s.built then d
    else
      let e := d.ent t
      let d1 := d.mapSnap h fun x => { x with built := x.built + 1 }
      if e.kind = 1 ∨ e.kind = 2 then
        let r := d1.phys e.group e.index
        let d2 := d1.setPhys e.group e.index { r with refs := r.refs + 1 }
        let d3 := (d2.setEnt t { e with shr := true }).setEnt u { e with shr := true }
        let d4 := d3.setHdr u (d.hdr t)
        let m := { d4.tracts.cur with bits := Tbl.put 0 d4.tracts.cur.bits u (d.wbits t) }
        (List.range 32).foldl (fun d i => d.tcTouch (bitmapLine u (512 * i)) true) (d4.setMeta m)
      else if e.kind = 3 then
        let d2 := (d1.setEnt u e).setHdr u (d.hdr t)
        d2.setMeta { d2.tracts.cur with bits := Tbl.put 0 d2.tracts.cur.bits u (d.wbits t) }
      else d1

/-- Entries of a Snapshot that are still to be written back (R287). -/
def Dev.preLeft (d : Dev) (h : Nat) : Bool :=
  let f (e : Nat × Option GEntry) : Bool := match e.2 with
    | some g => g.preLaunch == some h
    | none => false
  d.gon.staged.any f || d.gon.wb.any f

/-- A Snapshot completes (R288). -/
def Dev.snapDone (d : Dev) (h : Nat) : Dev :=
  match d.str.snaps.find? fun s => s.handle == h with
  | none => d
  | some s =>
    match s.fired with
    | none => d
    | some t =>
      if s.built < s.size / 2 ^ 20 ∨ d.preLeft h then d
      else ((d.dropSnap h).icu 72).finish h 0 2 (leBytes 8 t)

/-! ## Slots -/

/-- Set a slot's state field. -/
def Dev.slotState (d : Dev) (n v : Nat) : Dev := d.setFld (TTH_LAUNCH_STS n) 1 0 v

/-- A slot's hidden due time. -/
def Dev.due (d : Dev) (n : Nat) : Int := (Tbl.look {} d.launch n).due

/-- Due time of a slot by its registers (R112). -/
def Dev.dueOf (d : Dev) (n : Nat) : Int :=
  let t := d.reg64 (TTH_LAUNCH_TIME_LO n)
  if d.rbit (TTH_LAUNCH_ACT n) 30 then d.hostTime t else t

/-- Set it. -/
def Dev.setDue (d : Dev) (n : Nat) (t : Int) : Dev := { d with launch := Tbl.put {} d.launch n ⟨t⟩ }

/-- The head that owns a host slot in dual-head mode (R111). -/
def slotHead (n : Nat) : Head := if n < 16 then .a else .b

/-- A GPIO edge (R115): drive low, high, toggle, or a pulse of 1 µs. -/
def Dev.gpioEdge (d : Dev) (pin kind : Nat) : Dev :=
  let g := Tbl.look {} d.gpio pin
  let hi := match kind with
    | 0 => false
    | 2 => !g.high
    | _ => true
  let g1 := { g with high := hi, pulseEnd := if kind = 3 then some (d.tether.now + 1000) else none }
  ({ d with gpio := Tbl.put {} d.gpio pin g1 }).emit (.gpio pin hi)

/-- The command that holds a firmware slot. -/
def Dev.slotCmd (d : Dev) (n : Nat) : Option Cmd := d.lci.cmds.find? fun c => c.slot == some n && decide (c.state < 4)

/-- A stream start (R115, R116, R260): with the head in D3hot the list does not start. -/
def Dev.streamFire (d : Dev) (c : Nat) : Dev :=
  let x := d.schan c
  if x.state ≠ .armed then d
  else if (d.head x.head).dstate ≠ 0 then
    (d.mapCmd x.handle fun m => { m with status := 0x0302, d3hold := true }).stopChan c
  else (d.setSchan c { x with state := .running }).mapCmd x.handle fun m => { m with started := true, state := 2 }

/-- A slot's action takes effect (R115); the flag answers whether it did nothing. -/
def slotAct (F : Fuses) (d : Dev) (n : Nat) : Dev × Bool :=
  let arg := d.fld (TTH_LAUNCH_ACT n) 27 8
  match d.fld (TTH_LAUNCH_ACT n) 3 0 with
  | 1 => (d.streamFire (arg % 64), false)
  | 2 => (match d.slotCmd n with
      | some c => d.snapFire c.handle d.tether.now
      | none => d, false)
  | 3 =>
    let who := if n < 32 ∧ portMode F d = .dualHead then some (slotHead n) else none
    let d1 := if bit arg 0 then d.snapCounters who else d
    (if bit arg 1 then d1.snapHist who else d1, false)
  | 4 => ({ d with bst := { d.bst with queue := d.bst.queue ++ [{ num := arg % 4096 }] } }, false)
  | 5 =>
    let h : Head := if bit arg 8 then .b else .a
    if !activeHead F d h ∨ !(d.head h).msixOn ∨ (n < 32 ∧ portMode F d = .dualHead ∧ h ≠ slotHead n) then (d, true)
    else (d.msixSend h (arg % 64), false)
  | 6 =>
    let pin := arg % 8
    if (Tbl.look {} d.gpio pin).role = 1 then (d.gpioEdge pin (bits arg 4 3), false) else (d, true)
  | _ => (d, false)

/-- Occurrences of a periodic slot that are already past when it is armed again (R114). -/
def pastOccurrences (due : Int) (now period : Nat) : Nat :=
  if due ≤ now ∧ 0 < period then ((now - due) / period).toNat + 1 else 0

/-- After a fire, a periodic slot is armed for its next occurrence in the future; a one-shot slot reads fired (R114). -/
def Dev.slotNext (d : Dev) (n : Nat) (stop : Bool) : Dev :=
  let p := (d.reg (TTH_LAUNCH_PERIOD n)).toNat
  if p = 0 ∨ stop then (d.setRbit (TTH_LAUNCH_ACT n) 31 false).slotState n 2
  else
    let d1 := d.setReg64 (TTH_LAUNCH_TIME_LO n) (d.reg64 (TTH_LAUNCH_TIME_LO n) + p)
    let k := pastOccurrences (d1.dueOf n) d.tether.now p
    let d2 := d1.setReg64 (TTH_LAUNCH_TIME_LO n) (d1.reg64 (TTH_LAUNCH_TIME_LO n) + k * p)
    let d3 := d2.setFld (TTH_LAUNCH_STS n) 31 16 (satAdd (d2.fld (TTH_LAUNCH_STS n) 31 16) k 0xFFFF)
    (d3.setDue n (d3.dueOf n)).slotState n 1

/-- A slot fires at the present Tether time (R112 to R115). -/
def slotFire (F : Fuses) (d : Dev) (n : Nat) (late stop : Bool) : Dev :=
  let (d1, err) := slotAct F d n
  let d2 := (d1.setFld (TTH_LAUNCH_STS n) 3 2 (b2n late + 2 * b2n err)).setReg64 (TTH_LAUNCH_FIRED_LO n) d.tether.now
  let d3 := d2.slotNext n stop
  if 32 ≤ n then
    let d4 := { d3 with lci := { d3.lci with cmds := d3.lci.cmds.map fun (c : Cmd) => if c.slot = some n then { c with slot := none } else c } }
    d4.icu 71
  else d3

/-- May this sender write this slot (R111)? Controller firmware and the debug port, as `none`, write every slot. -/
def slotWriter (F : Fuses) (d : Dev) (h : Option Head) (n : Nat) : Bool :=
  match h with
  | none => true
  | some x => decide (n < 32) && (decide (portMode F d ≠ .dualHead) || decide (slotHead n = x)) && presentHead F x

/-- The device's fast clocks and blocks run: it is not in Off or Rest. -/
def Dev.live (d : Dev) : Bool := decide (d.pwr.svc ≠ .off ∧ d.pwr.svc ≠ .rest)

/-- The fields of a slot's control word that a write with the slot disarmed gives it (R11, R115). -/
def slotWord (old v n : Nat) : Nat :=
  let a := bits v 3 0
  let bad := decide (6 < a) || (decide (n < 32) && (a == 1 || a == 2 || a == 4))
  let act := if bad then bits old 3 0 else a
  act + 2 ^ 8 * bits v 27 8 + 2 ^ 30 * bits v 30 30

/-- Arming (R111, R112): a slot whose due time is less than 100 ns ahead fires at once, late. -/
def slotArm (F : Fuses) (d : Dev) (n v : Nat) : Dev :=
  if d.rbit (TTH_LAUNCH_ACT n) 31 then d
  else
    let w := slotWord (d.reg (TTH_LAUNCH_ACT n)).toNat v n + 2 ^ 31
    let d1 := ((d.setReg (TTH_LAUNCH_ACT n) (BitVec.ofNat 32 w)).setReg (TTH_LAUNCH_STS n) 0).slotState n 1
    let d2 := d1.setDue n (d1.dueOf n)
    if d2.due n < d.tether.now + 100 then slotFire F d2 n true false else d2

/-- Disarming (R113): a slot due in this nanosecond fires, and fires no more; one due later becomes idle. -/
def slotDisarm (F : Fuses) (d : Dev) (n v : Nat) : Dev :=
  if d.rbit (TTH_LAUNCH_ACT n) 31 then
    if d.due n ≤ d.tether.now then slotFire F d n false true
    else (d.setRbit (TTH_LAUNCH_ACT n) 31 false).slotState n 0
  else d.setReg (TTH_LAUNCH_ACT n) (BitVec.ofNat 32 (slotWord (d.reg (TTH_LAUNCH_ACT n)).toNat v n))

/-- A write of TTH_LAUNCH_ACTn. -/
def slotWrite (F : Fuses) (d : Dev) (h : Option Head) (n v : Nat) : Dev :=
  if !d.live ∨ !slotWriter F d h n then d
  else if bit v 31 then slotArm F d n v else slotDisarm F d n v

/-- An armed slot is disarmed without firing (R116): its state reads cancelled. -/
def Dev.slotCancel (d : Dev) (n : Nat) : Dev :=
  if d.rbit (TTH_LAUNCH_ACT n) 31 then
    let d1 := (d.setRbit (TTH_LAUNCH_ACT n) 31 false).slotState n 3
    if 32 ≤ n then d1.icu 71 else d1
  else d

/-- A slot is disarmed and cleared (R116). -/
def Dev.slotClear (d : Dev) (n : Nat) : Dev :=
  let d1 := d.resetRange (TTH_LAUNCH_TIME_LO n) (TTH_LAUNCH_TIME_LO n + 0x1F)
  { d1 with launch := Tbl.put {} d1.launch n {} }

/-- When an armed slot fires next (R112, R114): at its due time; where that is past, a periodic slot at its first occurrence in the future and
a one-shot slot now. -/
def Dev.fireTime (d : Dev) (n : Nat) : Nat :=
  let now := d.tether.now
  let p := (d.reg (TTH_LAUNCH_PERIOD n)).toNat
  if (now : Int) ≤ d.due n then (d.due n).toNat
  else if p = 0 then now
  else (d.due n + pastOccurrences (d.due n) now p * p).toNat

/-- No armed slot fires before this one, and none of a lower number in the same nanosecond (R113). -/
def Dev.slotFirst (d : Dev) (n : Nat) : Bool :=
  (List.range 64).all fun k => k == n || !d.rbit (TTH_LAUNCH_ACT k) 31 || decide (d.fireTime n < d.fireTime k) ||
    (decide (d.fireTime n = d.fireTime k) && decide (n < k))

/-- A slot comes due (R112): Tether moves to the due time. A host-time slot whose due time has become past fires now, late;
a periodic one skips what is past (R114). Of slots due together the lowest number acts first (R113). -/
def slotDue (F : Fuses) (d : Dev) (n : Nat) : Dev :=
  if !d.rbit (TTH_LAUNCH_ACT n) 31 ∨ !d.live ∨ !d.slotFirst n then d
  else if d.due n < d.tether.now ∧ 0 < (d.reg (TTH_LAUNCH_PERIOD n)).toNat then
    let p := (d.reg (TTH_LAUNCH_PERIOD n)).toNat
    let k := pastOccurrences (d.due n) d.tether.now p
    let d1 := d.setReg64 (TTH_LAUNCH_TIME_LO n) (d.reg64 (TTH_LAUNCH_TIME_LO n) + k * p)
    let d2 := d1.setFld (TTH_LAUNCH_STS n) 31 16 (satAdd (d1.fld (TTH_LAUNCH_STS n) 31 16) k 0xFFFF)
    let d3 := (d2.setDue n (d2.dueOf n)).advance (d2.dueOf n).toNat
    slotFire F d3 n false false
  else slotFire F (d.advance (d.due n).toNat) n (decide (d.due n < d.tether.now)) false

/-- A 1 µs pulse on a Tether output pin ends (R115). -/
def Dev.gpioEnd (d : Dev) (pin : Nat) : Dev :=
  let g := Tbl.look {} d.gpio pin
  match g.pulseEnd with
  | none => d
  | some t =>
    let d1 := d.advance t
    ({ d1 with gpio := Tbl.put {} d1.gpio pin { g with high := false, pulseEnd := none } }).emit (.gpio pin false)

/-- LAUNCH_SLOT_ARM (R112). -/
def execLaunchSlotArm (h : Option Head) (n : Fin 64) (value : Reg32) (s : State) : Host.Outcome State Fault Refusal :=
  .next { s with dev := slotWrite s.fuse s.dev h n.val value.toNat }

/-- LAUNCH_SLOT_DISARM (R113). -/
def execLaunchSlotDisarm (h : Option Head) (n : Fin 64) (value : Reg32) (s : State) : Host.Outcome State Fault Refusal :=
  .next { s with dev := slotWrite s.fuse s.dev h n.val value.toNat }

/-- LAUNCH_SLOT_FIRE (R112). -/
def execLaunchSlotFire (n : Fin 64) (s : State) : Host.Outcome State Fault Refusal :=
  .next { s with dev := silentOut s.fuse (slotDue s.fuse s.dev n.val) }

/-- GPIO_PULSE_END (R115). -/
def execGpioPulseEnd (pin : Fin 8) (s : State) : Host.Outcome State Fault Refusal :=
  .next { s with dev := s.dev.gpioEnd pin.val }

/-- SNAPSHOT_BUILD_TRACT (R286). -/
def execSnapshotBuildTract (h : Handle) (s : State) : Host.Outcome State Fault Refusal :=
  .next { s with dev := s.dev.snapBuild h.toNat }

/-- SNAPSHOT_COMPLETE (R288). -/
def execSnapshotComplete (h : Handle) (s : State) : Host.Outcome State Fault Refusal :=
  .next { s with dev := silentOut s.fuse (s.dev.snapDone h.toNat) }

end Sys2Proof.Machine
end

