-- ==== Sys2Proof/Machine/QueueOps.lean ====
section
/-!
DEFINITION. Queue pairs (spec/11_loanuf.md): enabling and disabling (R290 to R293), doorbells (R294), fetching (R295, R298,
R300), completion (R297, R299, R300), and what stopping a command does (R302, R311).
-/
namespace Sys2Proof.Machine

/-! ## Queue pairs -/

/-- Is a queue pair's head B by its number or configuration (R291)? -/
def pairHeadOf (F : Fuses) (d : Dev) (n : Nat) : Head :=
  match portMode F d with
  | .single => .a
  | .bonded => if d.rbit (MBX_QP_CFG n) 23 then .b else .a
  | .dualHead => if n < 32 then .a else .b

/-- The head a queue pair works through: in bonded mode a pair whose head went down moves to the survivor (R291, R293). -/
def pairHead (F : Fuses) (d : Dev) (n : Nat) : Head :=
  if (d.qp n).moved then (match pairHeadOf F d n with
    | .a => .b
    | .b => .a)
  else pairHeadOf F d n

/-- May a head write this queue pair's registers (R291)? -/
def pairMine (F : Fuses) (d : Dev) (h : Head) (n : Nat) : Bool :=
  activeHead F d h && (decide (portMode F d ≠ .dualHead) || decide (pairHeadOf F d n = h))

/-- Entries of each queue of a pair. -/
def Dev.depth (d : Dev) (n : Nat) : Nat := d.fld (MBX_QP_CFG n) 15 0 + 1

/-- A queue pair is enabled. -/
def Dev.qpOn (d : Dev) (n : Nat) : Bool := d.rbit (MBX_QP_CFG n) 31

/-- Commands of a pair in flight (R295). -/
def Dev.pairCmds (d : Dev) (n : Nat) : List Cmd := d.lci.cmds.filter fun c => qpOf c.handle == n

/-- A write of MBX_QP_CFGn with the pair disabled and idle (R290 to R292): its fields, and the enable where the depth allows. A depth of 0 is not
listed and keeps the previous one (R11); an error the pair has latched stays. -/
def qpWrite (F : Fuses) (d : Dev) (n v : Nat) : Dev :=
  let hd := if portMode F d = .bonded then bits v 23 23 else b2n (decide (pairHeadOf F d n = .b))
  let dp := if bits v 15 0 = 0 then d.fld (MBX_QP_CFG n) 15 0 else bits v 15 0
  let on := bit v 31 && decide (dp ≠ 0)
  let w := dp + 2 ^ 23 * hd + 2 ^ 24 * bits v 29 24 + 2 ^ 30 * bits v 30 30 + (if on then 2 ^ 31 else 0)
  let d1 := d.setReg (MBX_QP_CFG n) (BitVec.ofNat 32 w)
  if on then ((d1.setReg (MBX_SQ_DB n) 0).setReg (MBX_CQ_DB n) 0).setQp n { dbErr := (d.qp n).dbErr } else d1

/-- A lock is freed and marked abandoned (R304). -/
def Dev.abandon (d : Dev) (k : Nat) : Dev :=
  let l := Tbl.look {} d.lci.locks k
  { d with lci := { d.lci with locks := Tbl.put {} d.lci.locks k { l with owner := none, abandoned := true } } }

/-- The oldest waiter of a free lock is granted it; the grant clears the abandoned mark (R304). -/
def Dev.grantNext (d : Dev) (k : Nat) : Dev :=
  let l := Tbl.look {} d.lci.locks k
  match l.owner, l.waiters with
  | none, h :: r =>
    let d1 := { d with lci := { d.lci with locks := Tbl.put {} d.lci.locks k { owner := some (qpOf h), waiters := r } } }
    d1.finish h 0 1 [b2n l.abandoned]
  | _, _ => d

/-- Locks whose owner can no longer release them are abandoned, and their waiters served (R304). -/
def Dev.abandonLocks (d : Dev) (n : Nat) : Dev :=
  let mine := (d.lci.locks.filter fun e => e.2.owner == some n).map (·.1)
  mine.foldl (fun d k => (d.abandon k).grantNext k) d

/-- A waiting Lock Acquire leaves its lock's queue. -/
def Dev.unwait (d : Dev) (h : Nat) : Dev :=
  { d with lci := { d.lci with locks := Tbl.mapAll {} d.lci.locks fun _ l => { l with waiters := l.waiters.filter (· != h) } } }

/-- Slices of a Self-Test command leave the queue. -/
def Dev.unslice (d : Dev) (h : Nat) : Dev := 
  { d with bst := { d.bst with queue := d.bst.queue.filter (fun s => s.owner != some h),
                               jobs := d.bst.jobs.filter fun j => j.owner != h } }

/-- Is a command stoppable as it stands (R302)? -/
def Dev.stoppable (d : Dev) (c : Cmd) : Bool :=
  match sqOpcode c.entry with
  | 1 | 2 | 3 | 4 | 0x24 | 0x30 | 0x42 => true
  | 5 => (d.str.snaps.find? fun s => s.handle == c.handle).all fun s => s.fired.isNone
  | _ => false

/-- A stoppable command is stopped with a status (R278, R302): a held or waiting one ends without having started, a running
one enters stopping. -/
def Dev.stopCmd (d : Dev) (c : Cmd) (status : Nat) : Dev :=
  let h := c.handle
  match c.chan with
  | some n =>
    let x := d.schan n
    let d1 := (d.mapCmd h fun y => { y with status := status, state := 3 }).stopChan n
    if x.state = .armed then (match c.slot with
      | some k => d1.slotCancel k
      | none => d1)
    else d1
  | none =>
    if sqOpcode c.entry = 5 ∧ c.state ≠ 0 then
      let d1 := match c.slot with
        | some k => d.slotCancel k
        | none => d
      (d1.dropSnap h).finish h status 0 (leBytes 8 0)
    else if sqOpcode c.entry = 0x24 ∧ c.state = 2 then
      let d1 := d.mapCmd h fun y => { y with status := status, state := 3 }
      { d1 with sec := { d1.sec with rekey := d1.sec.rekey.map fun r => { r with stop := true } } }
    else if sqOpcode c.entry = 0x30 then (d.unwait h).finish h status 0
    else if sqOpcode c.entry = 0x42 ∧ c.state = 2 then (d.unslice h).finish h status c.progress c.result
    else d.finish h status 0

/-- Disabling a pair (R292, R304). -/
def qpOff (d : Dev) (n : Nat) : Dev :=
  let d1 := (d.setRbit (MBX_QP_CFG n) 31 false).abandonLocks n
  (d1.pairCmds n).foldl (fun d c => match d.cmd c.handle with
    | some y => if d.stoppable y ∧ y.state < 3 then d.stopCmd y 0x0302 else d
    | none => d) d1

/-- A write of MBX_QP_CFGn by a head (R290 to R292). -/
def qpCfgWrite (F : Fuses) (d : Dev) (h : Head) (n v : Nat) : Dev :=
  if !d.live ∨ !pairMine F d h n then d
  else if d.qpOn n then (if bit v 31 then d else qpOff d n)
  else if (d.qp n).idle then qpWrite F d n v
  else d

/-- A pair becomes idle when nothing of it is in flight (R292). -/
def Dev.qpIdle (d : Dev) (n : Nat) : Dev :=
  if (d.pairCmds n).isEmpty ∧ (d.qp n).out.isEmpty then d.setQp n { d.qp n with idle := true } else d

/-! ## Doorbells -/

/-- Set db_err of a pair. -/
def Dev.dbErr (d : Dev) (n : Nat) : Dev := d.setQp n { d.qp n with dbErr := true }

/-- A write of MBX_SQ_DBn (R294). -/
def sqDoor (F : Fuses) (d : Dev) (h : Head) (n v : Nat) : Dev :=
  if !d.live ∨ !pairMine F d h n then d
  else
    let k := d.depth n
    let t := bits v 15 0
    let old := d.fld (MBX_SQ_DB n) 15 0
    let head := (d.qp n).sqHead
    if k ≤ t ∨ (t + k - head) % k < (old + k - head) % k then d.dbErr n
    else d.setReg (MBX_SQ_DB n) (BitVec.ofNat 32 t)

/-- A write of MBX_CQ_DBn (R294): entries are released; ICU source 65 where completions wait (R318). -/
def cqDoor (F : Fuses) (d : Dev) (h : Head) (n v : Nat) : Dev :=
  if !d.live ∨ !pairMine F d h n then d
  else
    let k := d.depth n
    let t := bits v 15 0
    let old := d.fld (MBX_CQ_DB n) 15 0
    if k ≤ t ∨ ((d.qp n).cqTail + k - old) % k < (t + k - old) % k then d.dbErr n
    else
      let d1 := d.setReg (MBX_CQ_DB n) (BitVec.ofNat 32 t)
      if (d1.qp n).out.isEmpty then d1 else d1.icu 65

/-! ## Fetching -/

/-- Can an entry be fetched from this pair now (R295)? -/
def fetchable (F : Fuses) (d : Dev) (n : Nat) : Bool :=
  let q := d.qp n
  let x := d.head (pairHead F d n)
  d.lci.ready && d.qpOn n && decide (d.lci.cmds.length < 8192) && decide (x.dstate = 0) && x.linkUp &&
    decide (q.out.length < 4096) && decide (d.fld (MBX_SQ_DB n) 15 0 ≠ q.sqHead) &&
    !((d.pairCmds n).any fun c => c.handle % 2 ^ 16 == q.sqHead)

/-- Round robin over the pairs, up to 16 entries in a turn (R295): may pair n be served next? -/
def turnOf (F : Fuses) (d : Dev) (n : Nat) : Bool :=
  let next := ((List.range 64).map fun i => (d.lci.turn + 1 + i) % 64).find? (fetchable F d)
  (decide (n = d.lci.turn ∧ d.lci.taken < 16) && fetchable F d n) || next == some n

/-- One entry is fetched into Spool, and its handle formed (R295, R298); a parity error in the inbound FIFO ends it with
0x0701 (R300). -/
def sqTake (F : Fuses) (d : Dev) (n : Nat) (entry : LineData) (parity : Bool) : Dev :=
  if !turnOf F d n then d
  else
    let q := d.qp n
    let h := n * 2 ^ 26 + q.gen * 2 ^ 16 + q.sqHead
    let wrap := decide (q.sqHead + 1 = d.depth n)
    let c : Cmd := { entry := entry, handle := h, head := pairHead F d n, seq := d.lci.seq, time := d.tether.now }
    let empty := (d.pairCmds n).all fun c => c.state != 0
    let q1 := { q with sqHead := if wrap then 0 else q.sqHead + 1, gen := if wrap then (q.gen + 1) % 1024 else q.gen, idle := false }
    let l := d.lci
    let l1 := { l with cmds := l.cmds ++ [c], seq := l.seq + 1, turn := n, taken := if n = l.turn then l.taken % 16 + 1 else 1 }
    let d1 := (({ d with lci := l1 }).setQp n q1).count 0x280
    let waiting := ((d.pairCmds n).filter fun c => c.state == 0).length
    let d2 := if empty then d1.icu 64 else if 32 ≤ waiting then d1.count 0x282 else d1
    if parity then
      let d3 := ((d2.event F 0x6003 n).icu 78).finish h 0x0701 0
      { d3 with lci := { d3.lci with parity := satAdd d3.lci.parity 1 0xFFFF } }
    else d2

/-! ## Completion -/

/-- The active pair executes firmware (R276, R305, R314, R413). -/
def Dev.fwRuns (d : Dev) : Bool :=
  !d.cores.dead && !d.cores.takeover && !(match d.cores.active with
    | .a => d.cores.a.halted
    | .b => d.cores.b.halted)

/-- The CQ of a pair has an entry free (R294, R297). -/
def Dev.cqRoom (d : Dev) (n : Nat) : Bool :=
  decide (((d.qp n).cqTail + 1) % d.depth n ≠ d.fld (MBX_CQ_DB n) 15 0)

/-- The channel of a command that ended returns to idle (R276, R300). -/
def Dev.freeChan (d : Dev) (h : Nat) : Dev :=
  { d with str := { d.str with chan := Tbl.mapAll {} d.str.chan fun _ x => if x.state = .ended ∧ x.handle = h then {} else x } }

/-- A completion is written, oldest of its pair first (R297, R299, R300, R305). -/
def cqWrite (F : Fuses) (d : Dev) (h : Nat) (parity : Bool) : Dev :=
  let n := qpOf h
  let q := d.qp n
  match d.lci.cmds.find? fun c => c.handle == h && c.state == 4 with
  | none => d
  | some c =>
    let hd := pairHead F d n
    if q.out.head? ≠ some h ∨ !d.fwRuns ∨ !d.cqRoom n ∨ (d.head hd).dstate ≠ 0 ∨ !(d.head hd).linkUp ∨
        (c.d3hold ∧ (d.head c.head).dstate ≠ 0) then d
    else
      let a := d.reg64 (MBX_QP_CQ_BASE_LO n) + 64 * q.cqTail
      let b := cqBytes h c.status q.seq (sqCid c.entry) q.sqHead q.phase c.progress c.result
      let wrap := decide (q.cqTail + 1 = d.depth n)
      let keep := q.recent.filter fun r => decide (d.tether.now < r.2.2 + 1000000)
      let q1 := { q with cqTail := if wrap then 0 else q.cqTail + 1, phase := if wrap then !q.phase else q.phase,
                         seq := (q.seq + 1) % 2 ^ 16, out := q.out.drop 1, recent := keep ++ [(a, b, d.tether.now)] }
      let d0 := if parity then
          let e := (d.event F 0x6003 n).icu 78
          { e with lci := { e.lci with parity := satAdd e.lci.parity 1 0xFFFF } }
        else d
      let d1 := ((((d0.setQp n q1).dropCmd h).freeChan h).latency 4 (some hd) (d.tether.now - c.time)).count 0x281
      let d2 := d1.emit (.hostWrite hd a b)
      let d3 := if d2.rbit (MBX_QP_CFG n) 30 then d2.msixSend hd (d2.fld (MBX_QP_CFG n) 29 24) else d2
      if d3.qpOn n ∧ (d3.pairCmds n).isEmpty then d3.setQp n { d3.qp n with idle := true } else d3

/-! ## Clearing -/

/-- What a command's progress reads now (R302). -/
def Dev.progressNow (d : Dev) (c : Cmd) : Nat :=
  match c.chan with
  | some n => if c.state = 4 then c.progress else if (d.schan n).kind = .install then (d.schan n).lines else (d.schan n).progress
  | none => if c.state = 4 ∨ sqOpcode c.entry ≠ 0x24 then c.progress
    else match d.sec.rekey with
      | some r => r.switched
      | none => c.progress

/-- The entry of a command in the unfinished-work log as it stands. -/
def Dev.uwlEntry (d : Dev) (c : Cmd) : UwlEntry := c.entryOf (sqCid c.entry) (sqOpcode c.entry) (d.progressNow c)

/-- A command of a cleared pair that does not run to an end of its own: not started, waiting for a lock, armed, or ended
already. -/
def Dev.endsNow (d : Dev) (c : Cmd) : Bool :=
  c.state != 2 && c.state != 3 || sqOpcode c.entry == 0x30 || (match c.chan with
    | some n => decide ((d.schan n).state = .armed)
    | none => false)

/-- One command of a cleared pair (R293). -/
def clearCmd (cause : Nat) (d : Dev) (c : Cmd) : Dev :=
  if d.endsNow c then
    let d1 := match c.slot with
      | some k => d.slotCancel k
      | none => d
    let d2 := match c.chan with
      | some n => d1.setSchan n {}
      | none => d1
    ((d2.unwait c.handle).dropSnap c.handle).dropCmd c.handle
  else
    let d1 := d.mapCmd c.handle fun y => { y with silent := true, cause := cause, status := 0x0302 }
    match c.chan with
    | some n => (d1.mapCmd c.handle fun y => { y with state := 3 }).stopChan n
    | none => d1

/-- Queue pairs are cleared at once (R293, R304): no completion is posted, the pairs read en = 0, and each command is
recorded. -/
def clearPairs (F : Fuses) (d : Dev) (pairs : List Nat) (cause : Nat) : Dev :=
  let l := d.lci.cmds.filter fun c => pairs.contains (qpOf c.handle) && !c.silent
  let now := (l.filter d.endsNow).map d.uwlEntry
  let d1 := l.foldl (clearCmd cause) d
  let d2 := pairs.foldl (fun d n => ((d.setRbit (MBX_QP_CFG n) 31 false).setQp n {}).abandonLocks n) d1
  uwlAdd F d2 cause now

/-- The pairs of a head. -/
def pairsOf (F : Fuses) (d : Dev) (h : Head) : List Nat := (List.range 64).filter fun n => decide (pairHead F d n = h)

/-! ## The meanings -/

/-- QP_ENABLE (R292). -/
def execQpEnable (h : Head) (n : Fin 64) (value : Reg32) (s : State) : Host.Outcome State Fault Refusal :=
  .next { s with dev := qpCfgWrite s.fuse s.dev h n.val value.toNat }

/-- QP_DISABLE (R292). -/
def execQpDisable (h : Head) (n : Fin 64) (value : Reg32) (s : State) : Host.Outcome State Fault Refusal :=
  .next { s with dev := qpCfgWrite s.fuse s.dev h n.val value.toNat }

/-- QP_IDLE (R292). -/
def execQpIdle (n : Fin 64) (s : State) : Host.Outcome State Fault Refusal := .next { s with dev := s.dev.qpIdle n.val }

/-- SQ_DOORBELL (R294). -/
def execSqDoorbell (h : Head) (n : Fin 64) (value : Reg32) (s : State) : Host.Outcome State Fault Refusal :=
  .next { s with dev := sqDoor s.fuse s.dev h n.val value.toNat }

/-- CQ_DOORBELL (R294). -/
def execCqDoorbell (h : Head) (n : Fin 64) (value : Reg32) (s : State) : Host.Outcome State Fault Refusal :=
  .next { s with dev := cqDoor s.fuse s.dev h n.val value.toNat }

/-- SQ_FETCH (R295): one entry of the pair. -/
def execSqFetch (n : Fin 64) (entry : LineData) (parity : Bool) (s : State) : Host.Outcome State Fault Refusal :=
  .next { s with dev := sqTake s.fuse s.dev n.val entry parity }

/-- CQ_ENTRY_WRITE (R297). -/
def execCqEntryWrite (h : Handle) (parity : Bool) (s : State) : Host.Outcome State Fault Refusal :=
  .next { s with dev := cqWrite s.fuse s.dev h.toNat parity }

end Sys2Proof.Machine
end

