-- ==== Sys2Proof/Machine/TwinOps.lean ====
section
/-!
DEFINITION. Title windows (R40 to R44): enabling with its checks, the lock, disabling; and the end of an invalidation (R92).
-/
namespace Sys2Proof.Machine

/-- Does a range of tracts lie within [a, b)? -/
def within (lo hi a b : Nat) : Bool := decide (a ≤ lo ∧ hi < b)

/-- The last check of R41, made in dual-head mode: the range lies in the private partition of a head named, or in the shared
region as XTS read-only. -/
def partOk (F : Fuses) (d : Dev) (w : Win) : Bool :=
  let split := d.pwr.board.split * 1024
  let share := d.pwr.board.share * 1024
  decide (portMode F d ≠ .dualHead) || (within w.lo w.hi share (d.lUser) && decide (w.mode = 1)) ||
    (bit w.mask 0 && within w.lo w.hi 0 split) || (bit w.mask 1 && within w.lo w.hi split share)

/-- The first check of R41 that fails, as its reason code. -/
def twinCheck (F : Fuses) (d : Dev) (w : Win) : Option Nat :=
  let s := d.slot w.key
  if w.hi < w.lo then some 7
  else if w.mask = 0 ∨ (portMode F d = .single ∧ !bit w.mask 0) then some 0
  else if d.lUser ≤ w.hi then some 2
  else if (w.mode = 0 ∧ w.key ≠ 0) ∨ (w.mode ≠ 0 ∧ w.key = 0) then some 6
  else if w.mode ≠ 0 ∧ (s.state ≠ 1 ∨ s.kind ≠ w.mode) then some 5
  else if d.wins.any fun o => o.n != w.n && decide (o.lo ≤ w.hi ∧ w.lo ≤ o.hi) then some 1
  else if w.mode = 2 ∧ portMode F d ≠ .single ∧ w.mask = 3 then some 3
  else if !partOk F d w then some 4
  else none

/-- A refusal is recorded, the first one since the record was cleared, and reported (R41, R49). -/
def twinRefuse (F : Fuses) (d : Dev) (w : Win) (reason : Nat) : Dev :=
  let d1 := if d.rbit LNK_TWIN_ERR 31 then d
    else d.setReg LNK_TWIN_ERR (BitVec.ofNat 32 (2 ^ 31 + reason * 2 ^ 8 + w.n))
  postAt F d1 .warn .windowRefused w.base

/-- Staged lines of a range of tracts go to write-back (R42). -/
def sendBack (F : Fuses) (d : Dev) (lo hi : Nat) : Dev :=
  ((d.stagedList.filter fun e => within (e.1 / 16384) (e.1 / 16384) lo (hi + 1) && d.selectable e).map (·.1)).foldl (selectOne F true) d

/-- An invalidation of a range of tracts for a command or a window (R92). -/
def Dev.invalidateFor (d : Dev) (r : InvRef) (lo hi : Nat) : Dev :=
  let d1 := d.invalidate (16384 * lo) (16384 * hi + 16383)
  d1.setCache { d1.cache with invOpen := d1.cache.invOpen ++ [r] }

/-- The disable of an enabled window begins (R42). -/
def twinOff (F : Fuses) (d : Dev) (n : Fin 64) : Dev :=
  let w := d.win n.val
  if !w.en then d
  else
    let d1 := (d.setRbit (LNK_TWIN_CTL n.val) 0 false).setRbit (LNK_TWIN_CTL n.val) 30 true
    sendBack F (d1.invalidateFor (.window n) w.lo w.hi) w.lo w.hi

/-- Gondola holds a line of a range of tracts. -/
def Dev.gondolaIn (d : Dev) (lo hi : Nat) : Bool :=
  let f (e : Nat × Option GEntry) : Bool := decide (lo ≤ e.1 / 16384 ∧ e.1 / 16384 ≤ hi)
  d.gon.staged.any f || d.gon.wb.any f

/-- Dirty counter lines of a window's tracts go to their counter tracts (R246). -/
def Dev.ctrWindow (d : Dev) (w : Win) : Dev :=
  let ts := (d.tracts.cur.hdr.filter fun e => e.2.ctr.isSome && within e.1 e.1 w.lo (w.hi + 1)).map (·.1)
  ts.foldl (fun d t => (List.range 256).foldl (fun d p => d.ctrBack (256 * t + p)) d) d

/-- A disable completes once the window's clean copies are cleared and no line of it lies in Gondola (R42). Lines that
write-back left behind go to it again. -/
def twinDone (F : Fuses) (d : Dev) (n : Fin 64) : Dev :=
  if !d.rbit (LNK_TWIN_CTL n.val) 30 then d
  else
    let w := d.win n.val
    if d.gondolaIn w.lo w.hi then sendBack F d w.lo w.hi
    else if d.cache.invOpen.contains (.window n) then d
    else (d.ctrWindow w).setRbit (LNK_TWIN_CTL n.val) 30 false

/-- A write of LNK_TWIN_CTLn (R41, R42). The lock is set, never cleared, by a write; a locked window takes no other field; a
window that is enabled takes only the clearing of en. -/
def twinWrite (F : Fuses) (d : Dev) (h : Head) (n : Fin 64) (v : Nat) : Dev :=
  let off := LNK_TWIN_CTL n.val
  if !d.live ∨ !activeHead F d h ∨ d.rbit off 31 then d
  else
    let fresh (x : HeadState) : HeadState := { x with lockSeen := x.lockSeen.filter (· != n.val) }
    let lock (d : Dev) : Dev := if bit v 31 then { (d.setRbit off 31 true) with a := fresh d.a, b := fresh d.b } else d
    if d.rbit off 30 then lock d
    else if d.rbit off 0 then lock (if bit v 0 then d else twinOff F d n)
    else
      let mode := if bits v 2 1 = 3 then d.fld off 2 1 else bits v 2 1
      let word := 2 ^ 8 * bits v 19 8 + 2 ^ 4 * bits v 5 4 + 2 ^ 3 * bits v 3 3 + 2 * mode
      let d1 := d.setReg off (BitVec.ofNat 32 word)
      if !bit v 0 then lock d1
      else match twinCheck F d1 (d1.win n.val) with
        | some r => lock (twinRefuse F d1 (d1.win n.val) r)
        | none => lock (d1.setRbit off 0 true).rekeyResume

/-- A write of a window's base or limit (R42). -/
def twinRange (F : Fuses) (d : Dev) (h : Head) (n off v : Nat) : Dev :=
  let c := d.reg (LNK_TWIN_CTL n)
  if !d.live ∨ !activeHead F d h ∨ bit c.toNat 31 ∨ bit c.toNat 30 ∨ bit c.toNat 0 then d
  else if off % 8 = 0 then d.setReg off (BitVec.ofNat 32 (2 ^ 20 * bits v 31 20))
  else d.setReg off (BitVec.ofNat 32 (bits v 11 0))

/-- Does a title window keep an invalidation open? -/
def Dev.invIsOpen (d : Dev) (r : InvRef) : Bool := d.cache.invOpen.contains r

/-- An invalidation has cleared every copy of its range (R92). -/
def Dev.invClose (d : Dev) (r : InvRef) : Dev :=
  d.setCache { d.cache with invOpen := d.cache.invOpen.filter (fun x => x != r),
                            invBusy := d.cache.invBusy && decide (r ≠ .host) }

/-- TWIN_ENABLE (R41). -/
def execTwinEnable (h : Head) (n : Fin 64) (value : Reg32) (s : State) : Host.Outcome State Fault Refusal :=
  .next { s with dev := twinWrite s.fuse s.dev h n value.toNat }

/-- TWIN_DISABLE (R42). -/
def execTwinDisable (h : Head) (n : Fin 64) (value : Reg32) (s : State) : Host.Outcome State Fault Refusal :=
  .next { s with dev := twinWrite s.fuse s.dev h n value.toNat }

/-- TWIN_LOCK (R42). -/
def execTwinLock (h : Head) (n : Fin 64) (value : Reg32) (s : State) : Host.Outcome State Fault Refusal :=
  .next { s with dev := twinWrite s.fuse s.dev h n value.toNat }

end Sys2Proof.Machine
end

