-- ==== Sys2Proof/Machine/CmdCheck.lean ====
section
/-!
DEFINITION. What an LCI command is checked for: the reserved bits, fields, ranges, heads and launch rule of its SQ entry
(R296, R301, R302), the service it needs, and the slots, rights and states it needs to start (R238, R252, R285).
-/
namespace Sys2Proof.Machine

/-- The opcodes of R302. -/
def opcodes : List Nat :=
  [1, 2, 3, 4, 5, 6, 7, 0x10, 0x11, 0x12, 0x20, 0x21, 0x22, 0x23, 0x24, 0x30, 0x31, 0x40, 0x41, 0x42, 0x43, 0x44, 0x45]

/-- The fields of a command's bytes 16 to 63: first byte, and bits in use from its bit 0 (R302). -/
def cmdFields (op : Nat) : List (Nat × Nat) :=
  match op with
  | 1 | 2 => [(16, 64), (24, 12), (26, 3), (28, 32), (32, 44), (40, 12), (48, 44)]
  | 3 => [(16, 64), (24, 12), (26, 1), (28, 32), (32, 44)]
  | 4 => [(16, 44), (24, 64), (32, 12), (34, 12), (40, 44)]
  | 5 => [(16, 6), (24, 44)]
  | 6 | 0x41 => [(16, 32)]
  | 7 => [(16, 64), (24, 32), (28, 1), (32, 32), (36, 12), (40, 44)]
  | 0x10 | 0x11 => [(16, 44), (24, 64)]
  | 0x12 => [(16, 44), (24, 64), (32, 12), (34, 1), (35, 8)]
  | 0x20 => [(16, 12), (18, 8), (24, 64)]
  | 0x21 => [(16, 12)]
  | 0x22 => [(16, 12), (18, 1), (19, 8), (20, 6), (24, 64), (32, 32)]
  | 0x24 => [(16, 6), (18, 12)]
  | 0x30 => [(16, 16), (18, 1)]
  | 0x31 => [(16, 16)]
  | 0x42 => [(16, 12), (18, 1)]
  | 0x43 => [(16, 8)]
  | 0x44 => [(16, 64), (24, 32), (28, 32)]
  | 0x45 => [(16, 64), (28, 32), (32, 1)]
  | _ => []

/-- A reserved bit or byte of an SQ entry is nonzero (R296). -/
def reservedSet (e : LineData) : Bool :=
  let rest := (cmdFields (sqOpcode e)).foldl (fun x f => setBits x (8 * f.1 + f.2 - 1) (8 * f.1) 0) e.toNat
  decide (bits (sqFlags e) 7 3 ≠ 0 ∨ sqField e 4 4 ≠ 0 ∨ rest / 2 ^ 128 ≠ 0)

/-- Does a self-test slice exist in this class and population (R406, R2)? -/
def slicePresent (F : Fuses) (d : Dev) (n : Nat) : Bool :=
  let u := n / 256
  let k := n % 256
  match u with
  | 0 => presentChan F (k / 4) && decide (0 < d.diesPer (k / 4 / 10))
  | 1 => decide (k < 16) || (decide (k < 32) && presentHead F .b)
  | 2 => decide (k ≤ 5 ∨ k = 8 ∨ k = 6) && (decide (k < 2 ∨ 5 < k) || presentChan F (10 * (k - 2))) || (decide (k = 7) && presentHead F .b)
  | 3 => decide (k ≤ 13 ∨ k = 32 ∨ k = 33) || (decide (16 ≤ k ∧ k < 28) && !(decide (F.cls = .s) && (k == 24 || k == 25))) ||
      (decide (28 ≤ k ∧ k < 32) && (Tbl.look {} d.pwr.board.chan (k - 16)).used)
  | _ => false

/-- The slices a Self-Test runs (R408): one, or with `all` those of its channel, head or unit. -/
def slicesOf (F : Fuses) (d : Dev) (n : Nat) (all : Bool) : List Nat :=
  if !all then [n]
  else
    let k := n % 256
    let l := match n / 256 with
      | 0 => (List.range 4).map (· + k / 4 * 4)
      | 1 => (List.range 16).map (· + k / 16 * 16)
      | _ => List.range 64
    (l.map (· + n / 256 * 256)).filter (slicePresent F d)

/-- The first field, range, head or launch rule that an entry breaks, as its status; 0 for none (R301, R302). -/
def fieldErr (F : Fuses) (d : Dev) (h : Head) (e : LineData) : Nat :=
  let op := sqOpcode e
  let f := sqField e
  let bad (b : Bool) : Nat := if b then 0x0102 else 0
  let rng (b : Bool) : Nat := if b then 0x0104 else 0
  let field : Nat := match op with
    | 1 => bad (decide (bits (f 26 1) 2 1 = 3 ∨ f 40 2 ≠ 0 ∨ f 48 8 ≠ 0 ∨ f 16 8 % 32 ≠ 0 ∨
        (bits (f 26 1) 2 1 = 0 ∧ f 24 2 ≠ 0)))
    | 2 => bad (decide (bits (f 26 1) 2 1 = 3 ∨ f 16 8 % 32 ≠ 0))
    | 3 => bad (decide (f 16 8 % 32 ≠ 0))
    | 7 => bad (decide (65536 < f 24 4 ∨ f 32 4 = 0))
    | 0x20 => bad (decide (f 16 2 = 0 ∨ f 18 1 = 0 ∨ 3 < f 18 1))
    | 0x22 => bad (decide (f 16 2 = 0) || bit (f 20 1) 2 || bit (f 20 1) 5)
    | 0x30 | 0x31 => bad (decide (255 < f 16 2))
    | 0x42 => bad (!slicePresent F d (f 16 2))
    | 0x43 => bad (decide (f 16 1 = 0 ∨ 2 < f 16 1))
    | 0x44 => bad (decide (f 28 4 = 0 ∨ 4096 < f 28 4))
    | 0x45 => bad (decide (f 28 4 = 0 ∨ 1024 < f 28 4))
    | _ => 0
  let launch0 := bad (!bit (sqFlags e) 0 && decide (sqLaunch e ≠ 0))
  let range : Nat := match op with
    | 1 | 2 => rng (bit (f 26 1) 0 && !rangeOk F d h (f 16 8) 32)
    | 4 => rng (decide (f 16 8 % 64 ≠ 0) || !rangeOk F d h (f 16 8) (64 * f 24 8))
    | 5 => rng (decide (f 24 8 % 2 ^ 20 ≠ 0))
    | 7 => rng (bit (f 28 1) 0 && decide (0 < f 24 4) && !rangeOk F d h (f 16 8) (f 24 4))
    | 0x10 => rng (decide (f 16 8 % 4096 ≠ 0) || !rangeOk F d h (f 16 8) (max 1 (4096 * f 24 8)))
    | 0x11 => rng (decide (f 16 8 % 64 ≠ 0) || !rangeOk F d h (f 16 8) (64 * f 24 8))
    | 0x12 => rng (decide (0 < f 24 8) && (decide (f 16 8 % 64 ≠ 0) || !rangeOk F d h (f 16 8) (64 * f 24 8)))
    | _ => 0
  let foreign (k : Nat) : Bool := decide (portMode F d = .dualHead ∧ (d.slot k).state ≠ 0 ∧ (d.slot k).head ≠ h)
  let head : Nat := match op with
    | 6 => if decide (f 16 4 / 2 ^ 26 < 64) && decide (pairHead F d (qpOf (f 16 4)) ≠ h) then 0x0105 else 0
    | 0x12 => if f 32 2 ≠ 0 ∧ foreign (f 32 2) then 0x0105 else 0
    | 0x21 => if foreign (f 16 2) then 0x0105 else 0
    | 0x24 => if winNames F d (d.win (f 16 1 % 64)) h then 0 else 0x0105
    | _ => 0
  let launch := if bit (sqFlags e) 0 ∧ op ≠ 1 ∧ op ≠ 5 then 0x0106 else 0
  ([if reservedSet e then 0x0103 else 0, field, launch0, range, head, launch].find? (· ≠ 0)).getD 0

/-- Logical tracts that would map to the home of a tract once every armed Snapshot had launched and one more had (R285). -/
def Dev.sharesOf (d : Dev) (t : Nat) : Nat :=
  let e := d.ent t
  let waits (s : Snap) : Nat := ((List.range (s.size / 2 ^ 20)).filter fun i =>
    let x := d.ent (s.src / 2 ^ 20 + i)
    decide (s.built ≤ i ∧ x.kind = e.kind ∧ x.group = e.group ∧ x.index = e.index)).length
  (d.phys e.group e.index).refs + 1 + d.str.snaps.foldl (fun n s => n + waits s) 0

/-- The checks of R285, in its order; the ranges come before the states (R301). -/
def snapErr (F : Fuses) (d : Dev) (h : Head) (e : LineData) : Nat :=
  let w := d.win (sqField e 16 1 % 64)
  let dst := sqField e 24 8
  let n := w.hi + 1 - w.lo
  let u := dst / 2 ^ 20
  let ts := List.range n
  let priv : Bool := match portMode F d with
    | .dualHead => decide (dst + n * 2 ^ 20 ≤ d.pwr.board.share * 2 ^ 30)
    | _ => true
  if !w.en ∨ w.mode ≠ 2 then 0x0208
  else if !rangeOk F d h dst (n * 2 ^ 20) ∨ !priv then 0x0104
  else if (d.tracts.cur.ent.any fun x => within x.1 x.1 u (u + n) && decide (x.2.kind ≠ 0)) ∨
      (d.tracts.cur.bits.any fun x => within x.1 x.1 u (u + n)) then 0x0208
  else if d.wins.any fun o => decide (o.lo < u + n ∧ u ≤ o.hi) then 0x0208
  else if 8 ≤ d.str.snaps.length then 0x020A
  else if ts.any fun i => decide ((d.ent (w.lo + i)).kind = 1 ∨ (d.ent (w.lo + i)).kind = 2) && decide (15 < d.sharesOf (w.lo + i)) then 0x0209
  else 0

/-- What a command is checked for when it is fetched (R301, R302): its fields, and for a Snapshot R285's checks, which are made again at its
start. -/
def takeErr (F : Fuses) (d : Dev) (h : Head) (e : LineData) : Nat :=
  let err := fieldErr F d h e
  if err = 0 ∧ sqOpcode e = 5 then snapErr F d h e else err

/-- Does a command need full service (R302)? -/
def needsFull (e : LineData) : Bool :=
  match sqOpcode e with
  | 1 | 2 | 3 | 4 | 5 | 0x11 | 0x12 | 0x24 => true
  | 7 => bit (sqField e 28 1) 0
  | _ => false

/-- A slot must be loaded, of one of these kinds, and have these rights (R238). -/
def needSlot (d : Dev) (k : Nat) (kinds : List Nat) (right : Option Nat) : Nat :=
  let s := d.slot k
  if s.state ≠ 1 then 0x0203
  else if !kinds.contains s.kind then 0x0204
  else match right with
    | some r => if bit s.rights r then 0 else 0x0205
    | none => 0

/-- The slots, rights and states that a command needs when it starts (R301, R303). -/
def startErr (F : Fuses) (d : Dev) (h : Head) (e : LineData) : Nat :=
  let f := sqField e
  let first (l : List Nat) : Nat := (l.find? (· ≠ 0)).getD 0
  let key := f 24 2
  match sqOpcode e with
  | 1 => if key = 0 then 0 else needSlot d key [1, 2] none
  | 2 =>
    let dk := f 40 2
    first [if key = 0 then 0 else if bits (f 26 1) 2 1 = 0 then needSlot d key [1] (some 4) else needSlot d key [1, 2] none,
      if dk = 0 then 0 else needSlot d dk [1, 2] none]
  | 3 => first [needSlot d key [1] (some 2), if d.tracts.sealed then 0x0601 else 0]
  | 4 => first [needSlot d (f 32 2) [1, 2] (some 3), if f 34 2 = 0 then 0 else needSlot d (f 34 2) [3] none]
  | 5 => snapErr F d h e
  | 7 => if bit (f 28 1) 0 ∧ 0 < f 24 4 ∧ f 36 2 ≠ 0 then needSlot d (f 36 2) [1, 2] (some 0) else 0
  | 0x11 =>
    let lo := f 16 8 / 2 ^ 20
    let hi := (f 16 8 + 64 * f 24 8 - 1) / 2 ^ 20
    if d.wins.any fun w => decide (w.mode = 1 ∧ w.lo ≤ hi ∧ lo ≤ w.hi) then 0x0208 else 0
  | 0x12 => if f 32 2 ≠ 0 ∧ (d.slot (f 32 2)).state = 0 then 0x0203 else 0
  | 0x20 | 0x22 => if (d.slot (f 16 2)).state ≠ 0 then 0x0201 else 0
  | 0x21 => if (d.slot (f 16 2)).state = 0 then 0x0203 else 0
  | 0x23 => if d.keel.epoch = 2 ^ 32 - 1 then 0x0207 else 0
  | 0x24 =>
    let w := d.win (f 16 1 % 64)
    if !w.en ∨ w.mode = 0 then 0x0208
    else first [needSlot d (f 18 2) [w.mode] (some 5), if d.sec.rekey.any (·.busy) then 0x020A else 0,
      if d.tracts.sealed then 0x0601 else 0]
  | _ => 0

/-- The key slots that a command in flight uses (R237). -/
def Cmd.slots (c : Cmd) : List Nat :=
  let f := sqField c.entry
  (match sqOpcode c.entry with
  | 1 | 3 => [f 24 2]
  | 2 => [f 24 2, f 40 2]
  | 4 => [f 32 2, f 34 2]
  | 7 => if bit (f 28 1) 0 then [f 36 2] else []
  | 0x12 => [f 32 2]
  | 0x20 | 0x22 => [f 16 2]
  | 0x24 => [f 18 2]
  | _ => []).filter (· ≠ 0)

end Sys2Proof.Machine
end

