-- ==== Sys2Proof/Machine/DiscardOps.lean ====
section
/-!
DEFINITION. Clearing written bits (R222) and Sanitize's steps (R255).
-/
namespace Sys2Proof.Machine

/-- Gondola entries of a range of lines when a discard reaches their ordering point (R222): staged ones are freed and their
writes complete; a write-back entry, whose program counts as started, is no longer read. -/
def Dev.discardGondola (F : Fuses) (d : Dev) (lo hi : Nat) : Dev :=
  let inR (l : Nat) : Bool := decide (lo ≤ l ∧ l ≤ hi)
  let acks := (d.gon.staged.filter fun e => inR e.1).flatMap fun e => match e.2 with
    | some g => g.acks
    | none => []
  let g := d.gon
  let d1 := { d with gon := { g with staged := g.staged.filter (fun e => !inR e.1),
                                     wb := Tbl.mapAll none g.wb fun l e => if inR l then e.map fun x => { x with gone := true } else e,
                                     lostLines := g.lostLines.filter fun l => !inR l } }
  ackAll F d1 acks

/-- A tract whose last written bit was cleared (R222): unmapped, its header unused, its counter block and home given up. -/
def Dev.emptyTract (d : Dev) (t : Nat) : Dev :=
  let e := d.ent t
  let h := d.hdr t
  let mine := d.tracts.migs.filter fun m => m.tract == t && decide (m.step ≤ 6)
  let d1 := mine.foldl (fun d m => ({ d with tracts := { d.tracts with migs := d.tracts.migs.filter fun y =>
    !(y.tract == t && decide (y.step ≤ 6)) } }).dropTarget m.target) d
  let d2 := { d1 with tracts := { d1.tracts with gaps := d1.tracts.gaps.filter (· != t),
                                                 queued := d1.tracts.queued.filter fun q => q.1 != t } }
  let d3 := (d2.setHdr t {}).setEnt t {}
  let d4 := match h.ctr with
    | some b => if d3.blocksUsed.contains b then d3 else d3.ctrForget b
    | none => d3
  if e.kind ≠ 1 ∧ e.kind ≠ 2 then d4
  else
    let r := d4.phys e.group e.index
    if 1 < r.refs then d4.unshare e
    else
      let d5 := d4.setPhys e.group e.index { r with refs := 0 }
      let f : Freeing := ⟨e.group, e.index, decide (e.kind = 2), d5.tether.now + 10000⟩
      { d5 with tracts := { d5.tracts with freeing := d5.tracts.freeing ++ [f] } }

/-- The lines lo to hi of one tract lose their written bits (R222). -/
def Dev.discardTract (lo hi : Nat) (d : Dev) (t : Nat) : Dev :=
  let a := max lo (16384 * t) - 16384 * t
  let b := min hi (16384 * t + 16383) - 16384 * t
  let v := setBits (d.wbits t) b a 0
  let d1 := d.setMeta { d.tracts.cur with bits := Tbl.put 0 d.tracts.cur.bits t v }
  let d2 := ((List.range 32).filter fun k => decide (a / 512 ≤ k ∧ k ≤ b / 512)).foldl (fun d k => d.tcTouch (bitmapLine t (512 * k)) true) d1
  if v = 0 then d2.emptyTract t
  else if (d2.hdr t).part then d2 else d2.setHdr t { d2.hdr t with part := true }

/-- Does a Snapshot hold changes of a tract of these lines (R286, R287)? -/
def Dev.discardHeld (d : Dev) (lo hi : Nat) : Bool :=
  let ts (s : Snap) : List Nat :=
    let n := s.size / 2 ^ 20
    (List.range n).map (fun i => s.src / 2 ^ 20 + i) ++ (List.range n).map fun i => s.dst / 2 ^ 20 + i
  d.str.snaps.any fun s => s.fired.isSome && (ts s).any fun t => decide (lo / 16384 ≤ t ∧ t ≤ hi / 16384) && d.snapHolds t

/-- Written bits of the lines lo to hi are cleared (R222). A line that the manual still had to confirm, to repair or to
re-encrypt is no longer written. A failing group may be left with no tract that holds data (R25, R163, R165). -/
def discardLines (F : Fuses) (d : Dev) (lo hi : Nat) : Dev :=
  let inR (l : Nat) : Bool := decide (lo ≤ l ∧ l ≤ hi)
  let d1 := Dev.discardGondola F d lo hi
  let x := d1.drift
  let mask (r : Reenc) : Reenc :=
    if r.page < lo / 64 ∨ hi / 64 < r.page then r
    else { r with mask := setBits r.mask (min hi (64 * r.page + 63) - 64 * r.page) (max lo (64 * r.page) - 64 * r.page) 0 }
  let d2 := { d1 with drift := { x with confirm := x.confirm.filter (fun c => !inR c.line), repair := x.repair.filter fun l => !inR l },
                      sec := { d1.sec with reenc := d1.sec.reenc.map mask } }
  let ts := ((d2.tracts.cur.ent.filter fun e => e.2.kind != 0).map (·.1)).filter fun t => decide (lo / 16384 ≤ t ∧ t ≤ hi / 16384)
  let d3 := (ts.foldl (Dev.discardTract lo hi) d2).reencSettle
  (d3.popGroups.filter fun g => decide (1 ≤ (d3.grp g).units)).foldl (fun d g => d.narrowSettle F g) d3

/-! ## Sanitize -/

/-- The slots a Sanitize destroys (R302): the one named, and with `rec` every slot loaded from a blob of the record. -/
def Dev.sanSlots (d : Dev) (e : LineData) : List Nat :=
  let k := sqField e 32 2
  let n := sqField e 35 1
  let byRec := if bit (sqField e 34 1) 0 then
      (d.sec.slots.filter fun s => decide (s.2.state ≠ 0 ∧ s.2.form = 2 ∧ s.2.record = n)).map (·.1)
    else []
  ((if k = 0 then [] else [k]) ++ byRec).dedup

/-- An erase record gets a fresh nonce (R382): the slot with the older number first, then the other; both from the random
bit generator. The command of a handle waits for the second write. -/
def Dev.eraseRecord (d : Dev) (n : Nat) (owner : Option Nat) : Dev :=
  let seq (i : Nat) : Nat := (eraseSeq (d.eraseSlot n i)).getD 0
  let old := if seq 1 < seq 0 then 1 else 0
  let top := max (seq 0) (seq 1)
  let slot (s : Nat) (nonce : List Nat) : List Nat :=
    let b := leBytes 4 s ++ nonce
    b ++ leBytes 4 (crc32c b)
  let (r1, d1) := d.rand
  let (r2, d2) := d1.rand
  let page := 0x34 + n / 3
  let d3 := d2.keelPut ⟨page, 80 * (n % 3) + 40 * old, slot (top + 1) (leBytes 32 r1), .raw, 0, none⟩
  let d4 := d3.keelPut ⟨page, 80 * (n % 3) + 40 * (1 - old), slot (top + 2) (leBytes 32 r2), .raw, 0, owner⟩
  let use := setBits d4.keel.eraseUse n n 0
  ({ d4 with keel := { d4.keel with eraseUse := use } }).ringPut .eraseUse ([0, 0, 0] ++ leBytes 32 use)

/-- A Sanitize goes on from the step it has completed (R255, R302). -/
def sanAdvance (F : Fuses) (h : Nat) (d : Dev) : Nat → Dev
  | 0 => d
  | fuel + 1 =>
    match d.cmd h with
    | none => d
    | some c =>
      let e := c.entry
      let ks := d.sanSlots e
      let lo := sqField e 16 8 / 64
      let n := sqField e 24 8
      let at_ (p : Nat) (d : Dev) : Dev := sanAdvance F h (d.mapCmd h fun y => { y with progress := p }) fuel
      match c.progress with
      | 0 =>
        let names (w : Win) : Bool := ks.contains w.key || (match d.sec.rekey with
          | some r => r.win == w.n && ks.contains r.slot
          | none => false)
        let open_ := (List.finRange 64).filter fun i => (d.win i.val).en && names (d.win i.val)
        if !open_.isEmpty then open_.foldl (twinOff F) d
        else if (List.range 64).any fun i => d.rbit (LNK_TWIN_CTL i) 30 && names (d.win i) then d
        else at_ 1 d
      | 1 =>
        let d1 := ks.foldl (fun d k => d.clearSlot k) d
        if ks.all fun k => (d1.slot k).state == 0 then at_ 2 d1 else d1
      | 2 =>
        if !bit (sqField e 34 1) 0 then at_ 3 d
        else if d.keel.waiting.any (fun w => w.owner == some h) || d.keel.active.any fun w => w.owner == some h then d
        else d.eraseRecord (sqField e 35 1) (some h)
      | 3 =>
        if n = 0 then d.finish h 0 4 (leBytes 8 0)
        else if d.cache.invOpen.contains (.command (BitVec.ofNat 32 h)) ∨ d.discardHeld lo (lo + n - 1) then d
        else
          let d1 := discardLines F d lo (lo + n - 1)
          let d2 := d1.invalidate lo (lo + n - 1)
          d2.setCache { d2.cache with invOpen := d2.cache.invOpen ++ [.command (BitVec.ofNat 32 h)] }
      | _ => d

/-- Every Sanitize in progress goes on. -/
def sanPump (F : Fuses) (d : Dev) : Dev :=
  ((d.lci.cmds.filter fun c => sqOpcode c.entry == 0x12 && c.state == 2).map (·.handle)).foldl (fun d h => sanAdvance F h d 5) d

end Sys2Proof.Machine
end

