-- ==== Sys2Proof/Machine/CmdRun.lean ====
section
/-!
DEFINITION. What each LCI command does when it starts (R302 to R304), and the outbound reads that some of them wait for (R60,
R61).
-/
namespace Sys2Proof.Machine

/-! ## Outbound reads of commands -/

/-- Address and length of what a command reads from host memory. -/
def Cmd.source (c : Cmd) : Nat × Nat :=
  let f := sqField c.entry
  match sqOpcode c.entry with
  | 0x20 => (f 24 8, 84)
  | 7 => (f 16 8, f 24 4)
  | _ => (0, 0)

/-- Length of the next piece: reads end at 4 KiB boundaries (R60). -/
def Cmd.piece (c : Cmd) : Nat :=
  let (a, n) := c.source
  let p := a + c.data.length
  min (n - c.data.length) (4096 - p % 4096)

/-- The lowest tag from 64 that no command uses. -/
def Dev.freeTag (d : Dev) : Nat :=
  ((List.range 2048).map fun i => 64 + i).find? (fun t => !(d.lci.cmds.any fun c => c.tag == some t)) |>.getD 64

/-- A command's next outbound read goes out. -/
def Dev.readPiece (d : Dev) (h : Nat) : Dev :=
  match d.cmd h with
  | none => d
  | some c =>
    let t := c.tag.getD d.freeTag
    (d.mapCmd h fun y => { y with tag := some t }).emit (.hostRead c.head (c.source.1 + c.data.length) c.piece t)

/-! ## Dictionaries (R272) -/

/-- A dictionary that a command of this head names. -/
def dictMine (F : Fuses) (d : Dev) (h : Head) (id : Nat) (x : Dict) : Bool :=
  x.id == id && (decide (portMode F d ≠ .dualHead) || decide (x.head = h))

/-- A Zstandard descriptor is in progress: it may use any dictionary that its head sees. -/
def dictBusy (F : Fuses) (d : Dev) (h : Head) : Bool :=
  d.str.chan.any fun e => e.2.lanes && (decide (portMode F d ≠ .dualHead) || decide (e.2.head = h)) &&
    e.2.runs.any fun r => (descOf r.desc).fmt == 2 && !e.2.runDone r

/-- May this ID be registered or removed now (R272)? -/
def dictErr (F : Fuses) (d : Dev) (h : Head) (id len : Nat) : Nat :=
  let held := d.str.dicts.any (dictMine F d h id)
  if (held && dictBusy F d h) || (decide (0 < len) && !held && decide (16 ≤ d.str.dicts.length)) then 0x020A else 0

/-- A dictionary is registered, or removed where no bytes are given. -/
def dictStore (F : Fuses) (d : Dev) (h : Head) (id : Nat) (bytes : List Nat) : Dev :=
  let rest := d.str.dicts.filter fun x => !dictMine F d h id x
  { d with str := { d.str with dicts := if bytes.isEmpty then rest else rest ++ [⟨id, bytes, h⟩] } }

/-- Dictionary Register starts. -/
def startDict (F : Fuses) (d : Dev) (c : Cmd) : Dev :=
  let f := sqField c.entry
  let h := c.handle
  let err := dictErr F d c.head (f 32 4) (f 24 4)
  if err ≠ 0 then d.finish h err 0
  else if f 24 4 = 0 then (dictStore F d c.head (f 32 4) []).finish h 0 1
  else if bit (f 28 1) 0 then
    match readBytes F d c.head (f 36 2) (f 40 8) (f 16 8) (f 24 4) with
    | some b => (dictStore F d c.head (f 32 4) b).finish h 0 1
    | none => d.finish h 0x0401 0
  else d.readPiece h

/-! ## Keys -/

/-- A blob has been read: the key is unwrapped into its slot (R233, R236). -/
def keyLoad (F : Fuses) (d : Dev) (c : Cmd) (blob : List Nat) : Dev :=
  let f := sqField c.entry
  let k := f 16 2
  if (d.slot k).state ≠ 0 then d.finish c.handle 0x0201 0
  else match unwrapBlob F d c.head blob with
    | none => d.finish c.handle 0x0206 0
    | some s =>
      if s.kind ≠ f 18 1 then d.finish c.handle 0x0204 0
      else (d.setSlot k s).rekeyResume.finish c.handle 0 1 (leBytes 4 s.title ++ [s.rights])

/-- Key Evict starts (R237). -/
def startEvict (d : Dev) (c : Cmd) : Dev :=
  let k := sqField c.entry 16 2
  let wait (d : Dev) : Dev := { d with sec := { d.sec with evicting := d.sec.evicting ++ [(k, c.handle)] } }
  if (d.slot k).state = 2 then wait d
  else if (d.wins.any fun w => w.key == k) || d.lci.cmds.any (fun x => x.handle != c.handle && decide (x.state < 4) && x.slots.contains k) ||
      (match d.sec.rekey with
        | some r => r.busy && r.slot == k
        | none => false) then d.finish c.handle 0x0202 0
  else
    let d1 := d.clearSlot k
    if (d1.slot k).state = 0 then d1.finish c.handle 0 1 else wait d1

/-- Bytes of a command go to host memory as posted writes, cut at 4 KiB boundaries (R60). -/
def Dev.writeOut (d : Dev) (h : Head) (a : Nat) (b : List Nat) : Dev :=
  let n := 4096 - a % 4096
  if b.length ≤ n then d.emit (.hostWrite h a b true) else (d.emit (.hostWrite h a (b.take n) true)).emit (.hostWrite h (a + n) (b.drop n) true)

/-- Key Generate starts (R235): a counter-mode key of the random bit generator is loaded, its record marked in use, and its
blob written and confirmed. -/
def startGenerate (F : Fuses) (d : Dev) (c : Cmd) : Dev :=
  let f := sqField c.entry
  let rec? : Option Nat := if bit (f 18 1) 0 then (List.range 256).find? fun n => !bit d.keel.eraseUse n else some (f 19 1)
  match rec? with
  | none => d.finish c.handle 0x020C 0
  | some n =>
    let (r, d1) := d.rand
    let s : Slot := { state := 1, kind := 2, rights := f 20 1, title := f 32 4, form := 2, record := n, head := c.head,
                      key1 := BitVec.ofNat 256 r }
    let use := setBits d1.keel.eraseUse n n 1
    let d2 := ({ d1 with keel := { d1.keel with eraseUse := use } }).setSlot (f 16 2) s
    let d3 := d2.ringPut .eraseUse ([0, 0, 0] ++ leBytes 32 use)
    let t := d3.freeTag
    let d4 := d3.mapCmd c.handle fun y => { y with tag := some t, result := [n] }
    (d4.writeOut c.head (f 24 8) (wrapBlob F d4 s)).emit (.hostRead c.head (f 24 8 + 83) 0 t)

/-- Epoch Advance starts (R234): it completes once the state record is verified. -/
def startEpoch (d : Dev) (c : Cmd) : Dev :=
  let e := d.keel.epoch + 1
  let d1 := d.mapCmd c.handle fun y => { y with result := leBytes 4 e }
  Dev.statePut { d1 with keel := { d1.keel with epoch := e } } (some c.handle)

/-- Rekey starts (R252): from the window's first tract, or from the boundary where an earlier Rekey of the window to the same
slot ended. -/
def startRekey (d : Dev) (c : Cmd) : Dev :=
  let n := sqField c.entry 16 1 % 64
  let k := sqField c.entry 18 2
  let b := match d.sec.rekey with
    | some r => if r.win = n ∧ r.slot = k then r.bnd else (d.win n).base
    | none => (d.win n).base
  let r : Rekey := { win := n, slot := k, bnd := b, handle := c.handle }
  Dev.rekeyPump { d with sec := { d.sec with rekey := some r } }

/-! ## Lists -/

/-- A free stream channel. -/
def Dev.freeChannel (d : Dev) : Option Nat := (List.range 64).find? fun n => decide (d.schan n = {})

/-- A free firmware launch slot, 32 to 63. -/
def Dev.freeSlot (d : Dev) : Option Nat :=
  ((List.range 32).map fun i => 32 + i).find? fun n => !d.rbit (TTH_LAUNCH_ACT n) 31 && (d.slotCmd n).isNone

/-- Firmware arms a launch slot for a command (R115, R285, R302). -/
def armSlot (F : Fuses) (d : Dev) (n act arg : Nat) (c : Cmd) : Dev :=
  let fl := sqFlags c.entry
  let time := if bit fl 0 then sqLaunch c.entry else 0
  let ptm := b2n (bit fl 0 && bit fl 1)
  let d1 := (d.setReg64 (TTH_LAUNCH_TIME_LO n) time).setReg (TTH_LAUNCH_PERIOD n) 0
  slotArm F d1 n (act + arg * 2 ^ 8 + ptm * 2 ^ 30 + 2 ^ 31)

/-- The channel of a list command as it is loaded (R260, R302). -/
def chanOf (d : Dev) (c : Cmd) : SChan :=
  let f := sqField c.entry
  let op := sqOpcode c.entry
  let dev := 2 ^ d.fld STR_CFG 4 0
  let lim := f 28 4
  let base : SChan := { state := .running, handle := c.handle, head := c.head }
  if op = 4 then { base with kind := .verify, xform := 1, key := f 32 2, base := f 40 8, vDpa := f 16 8, vLines := f 24 8, vMac := f 34 2 }
  else
    let list := { base with next := f 16 8, limit := if lim = 0 then dev else min lim dev, key := f 24 2, base := f 32 8 }
    if op = 3 then { list with kind := .install, xform := if bit (f 26 1) 0 then 0 else 3, ct := bit (f 26 1) 0 }
    else
      let x := { list with xform := bits (f 26 1) 2 1, listDev := bit (f 26 1) 0 }
      if op = 2 then { x with kind := .copy, dkey := f 40 2, dbase := f 48 8 } else { x with kind := .stream }

/-- A list command starts on a channel. -/
def startList (d : Dev) (c : Cmd) (n : Nat) : Dev :=
  (d.setSchan n (chanOf d c)).mapCmd c.handle fun y => { y with chan := some n }

/-- A Stream with a launch time is armed (R115, R302). -/
def armStream (F : Fuses) (d : Dev) (c : Cmd) (n k : Nat) : Dev :=
  let d1 := (d.setSchan n { chanOf d c with state := .armed }).mapCmd c.handle fun y =>
    { y with chan := some n, slot := some k, state := 1, started := false }
  armSlot F d1 k 1 n c

/-- A Snapshot is armed (R285, R302). -/
def armSnap (F : Fuses) (d : Dev) (c : Cmd) (k : Nat) : Dev :=
  let w := d.win (sqField c.entry 16 1 % 64)
  let s : Snap := { handle := c.handle, win := w.n, src := w.base, size := (w.hi + 1 - w.lo) * 2 ^ 20, dst := sqField c.entry 24 8, key := w.key }
  let d1 := { d with str := { d.str with snaps := d.str.snaps ++ [s] } }
  let d2 := d1.mapCmd c.handle fun y => { y with slot := some k, state := 1, started := false }
  armSlot F d2 k 2 w.n c

/-! ## Stop, locks, ranges -/

/-- Stop starts (R302). -/
def startStop (d : Dev) (c : Cmd) : Dev :=
  let t := sqField c.entry 16 4
  match d.lci.cmds.find? fun x => x.handle == t && !x.silent with
  | none => d.finish c.handle 0x0107 0
  | some x =>
    let join (d : Dev) : Dev := d.mapCmd t fun y => { y with stops := y.stops ++ [c.handle] }
    if x.state = 3 then join d
    else if x.state = 4 ∨ !d.stoppable x then d.finish c.handle 0x020D 0
    else match (join d).cmd t with
      | some y => (join d).stopCmd y 0x0301
      | none => d

/-- A lock's waiters in the order of their fetch (R304). -/
def insertWaiter (d : Dev) (h : Nat) (l : List Nat) : List Nat :=
  let seq (x : Nat) : Nat := ((d.lci.cmds.find? fun c => c.handle == x).map (·.seq)).getD 0
  (l.filter fun (x : Nat) => decide (seq x ≤ seq h)) ++ [h] ++ l.filter fun (x : Nat) => decide (seq h < seq x)

/-- Lock Acquire starts (R304). -/
def startAcquire (d : Dev) (c : Cmd) : Dev :=
  let k := sqField c.entry 16 2
  let l := Tbl.look {} d.lci.locks k
  let put (x : Lock) : Dev := { d with lci := { d.lci with locks := Tbl.put {} d.lci.locks k x } }
  match l.owner with
  | none => (put { owner := some (qpOf c.handle), waiters := l.waiters }).finish c.handle 0 1 [b2n l.abandoned]
  | some _ =>
    if bit (sqField c.entry 18 1) 0 then d.finish c.handle 0x020F 0
    else put { l with waiters := insertWaiter d c.handle l.waiters }

/-- Lock Release starts (R304). -/
def startRelease (d : Dev) (c : Cmd) : Dev :=
  let k := sqField c.entry 16 2
  let l := Tbl.look {} d.lci.locks k
  if l.owner = some (qpOf c.handle) then
    let d1 := { d with lci := { d.lci with locks := Tbl.put {} d.lci.locks k { l with owner := none } } }
    (d1.grantNext k).finish c.handle 0 1
  else d.finish c.handle 0x020E 0

/-- Lines lo to hi are invalidated for a command (R92), which completes at INVALIDATION_DONE. -/
def Dev.invalidateCmd (d : Dev) (h lo hi : Nat) : Dev :=
  let d1 := d.invalidate lo hi
  d1.setCache { d1.cache with invOpen := d1.cache.invOpen ++ [.command (BitVec.ofNat 32 h)] }

/-- Drop starts (R92). -/
def startDrop (d : Dev) (c : Cmd) : Dev :=
  let n := sqField c.entry 24 8
  let lo := sqField c.entry 16 8 / 64
  if n = 0 then d.finish c.handle 0 0 else d.invalidateCmd c.handle lo (lo + 64 * n - 1)

/-- Discard starts (R222). -/
def startDiscard (F : Fuses) (d : Dev) (c : Cmd) : Dev :=
  let n := sqField c.entry 24 8
  let lo := sqField c.entry 16 8 / 64
  (discardLines F d lo (lo + n - 1)).invalidateCmd c.handle lo (lo + n - 1)

/-! ## Reports -/

/-- Encoding of the device state (GLB_SVC_STATE.state). -/
def svcCode : Svc → Nat
  | .off => 0
  | .bringup => 1
  | .reduced => 2
  | .full => 3
  | .flush => 4
  | .rest => 0

/-- Encoding of the port mode (LNK_PORT_CFG.port_mode). -/
def modeCode : PortMode → Nat
  | .single => 0
  | .bonded => 1
  | .dualHead => 2

/-- Encoding of the class in Identify. -/
def clsCode : Cls → Nat
  | .s => 0
  | .m => 1
  | .l => 2

/-- Persistent capacity of a head in bytes (R38). -/
def headCapacity (F : Fuses) (d : Dev) (h : Head) : Nat :=
  let all := d.lUser * 2 ^ 20
  let split := d.pwr.board.split * 2 ^ 30
  let share := d.pwr.board.share * 2 ^ 30
  match portMode F d, h with
  | .dualHead, .a => split + (all - share)
  | .dualHead, .b => (share - split) + (all - share)
  | _, _ => all

/-- Version of the image that runs; 0 while the boot code runs (GLB_FW_VER). -/
def Dev.fwVer (d : Dev) : Nat := if d.images.running = 3 then 0 else d.images.ver

/-- Result bytes 24 to 51 of Identify (R302). -/
def identifyBytes (F : Fuses) (d : Dev) (h : Head) : List Nat :=
  [clsCode F.cls, modeCode (portMode F d), 1, if portMode F d = .dualHead then 32 else 64] ++ leBytes 4 d.fwVer ++ leBytes 2 8192 ++
    leBytes 2 256 ++ [svcCode d.pwr.svc,
      b2n d.tracts.sealed + 2 * b2n d.gon.armed + 4 * b2n d.sec.dbgMode + 8 * b2n d.tracts.floorWarn] ++
    leBytes 2 (d.diesPer 0 + 16 * d.diesPer 1 + 256 * d.diesPer 2 + 4096 * d.diesPer 3) ++ leBytes 8 (headCapacity F d h) ++
    leBytes 4 d.keel.epoch

/-- Query (R302): a command that waits for a lock, a launch or its start is waiting. -/
def startQuery (d : Dev) (c : Cmd) : Dev :=
  match d.lci.cmds.find? fun x => x.handle == sqField c.entry 16 4 && !x.silent with
  | none => d.finish c.handle 0x0107 0
  | some x =>
    let waits := x.state ≤ 1 ∨ (sqOpcode x.entry = 0x30 ∧ x.state = 2)
    let q := if waits then 1 else if x.state = 3 then 3 else 2
    d.finish c.handle 0 0 ([q, 0, 0, 0, 0, 0, 0, 0] ++ leBytes 8 (d.progressNow x))

/-- Self-Test starts (R408); it ends a freeze (R390). -/
def startTest (F : Fuses) (d : Dev) (c : Cmd) : Dev :=
  let d1 := d.thaw F
  let l := slicesOf F d (sqField c.entry 16 2) (bit (sqField c.entry 18 1) 0)
  let b := d1.bst
  let d2 := { d1 with bst := { b with queue := b.queue ++ l.map (fun n => ({ num := n, owner := some c.handle } : Slice)),
                                      jobs := b.jobs ++ [({ owner := c.handle } : TestJob)] } }
  d2.mapCmd c.handle fun y => { y with result := List.replicate 12 0 }

/-- A Self-Test is in flight and has started. -/
def Dev.testing (d : Dev) : Bool := d.lci.cmds.any fun c => sqOpcode c.entry == 0x42 && (c.state == 2 || c.state == 3)

/-- Log Freeze (R390). -/
def startFreeze (F : Fuses) (d : Dev) (c : Cmd) : Dev :=
  if sqField c.entry 16 1 = 2 then (d.thaw F).finish c.handle 0 (b2n d.log.frozen)
  else if d.pwr.svc = .full ∧ !d.testing then (d.freeze F).finish c.handle 0 1 (leBytes 4 (d.log.next - 1))
  else d.finish c.handle 0 0

/-- Records are written to host memory and confirmed by one read of the last address (R60, R302). -/
def Dev.copyOutward (d : Dev) (h : Head) (buf : Nat) (l : List (List Nat)) : Dev :=
  let d1 := (l.zipIdx).foldl (fun d e => d.writeOut h (buf + 64 * e.2) e.1) d
  if l.isEmpty then d1 else d1.emit (.hostRead h (buf + 64 * l.length - 1) 0 64)

/-- Log Read (R391). -/
def runLogRead (F : Fuses) (d : Dev) (c : Cmd) (st : OutEnd) : Dev :=
  let f := sqField c.entry
  let l := logRecords F d (f 24 4) (f 28 4)
  let d1 := d.copyOutward c.head (f 16 8) l
  if st = .ok ∨ l.isEmpty then d1.finish c.handle 0 l.length else (d1.emit (.aer c.head st)).finish c.handle 0x0503 0

/-- Unfinished Read (R394); with clear, it completes once the state record that removes the entries is verified (R379). -/
def runUnfinished (d : Dev) (c : Cmd) (st : OutEnd) : Dev :=
  let f := sqField c.entry
  let l := d.uwlRecords 0 (f 28 4)
  let d1 := d.copyOutward c.head (f 16 8) l
  if st ≠ .ok ∧ !l.isEmpty then (d1.emit (.aer c.head st)).finish c.handle 0x0503 0
  else if bit (f 32 1) 0 ∧ !l.isEmpty then
    (d1.mapCmd c.handle fun y => { y with progress := l.length }).uwlClear l.length (some c.handle)
  else d1.finish c.handle 0 l.length

/-! ## Starting -/

/-- Why a command that firmware has taken up does not start now (R296, R302, R392): its fence, the service it needs, 1,536
active commands, or an earlier command of its queue that has not started. -/
def Dev.heldBack (d : Dev) (c : Cmd) : Bool :=
  let op := sqOpcode c.entry
  let earlier := d.lci.cmds.filter fun x => qpOf x.handle == qpOf c.handle && decide (x.seq < c.seq) && !x.silent
  (bit (sqFlags c.entry) 2 && !earlier.isEmpty) || (needsFull c.entry && decide (d.pwr.svc ≠ .full)) ||
    decide (1536 ≤ (d.lci.cmds.filter fun x => decide (2 ≤ x.state)).length) ||
    (op != 6 && op != 0x41 && earlier.any fun x => decide (x.state = 0) ||
      (decide (x.state = 1) && x.chan.isNone && x.slot.isNone))

/-- The command acts: it has passed its checks. `st` is how an outbound confirmation ends. -/
def beginCmd (F : Fuses) (d0 : Dev) (c : Cmd) (st : OutEnd) : Dev :=
  let d := d0.mapCmd c.handle fun y => { y with state := 2, started := true }
  match sqOpcode c.entry with
  | 6 => startStop d c
  | 7 => startDict F d c
  | 0x10 => startDrop d c
  | 0x11 => startDiscard F d c
  | 0x12 => sanAdvance F c.handle d 5
  | 0x20 => d.readPiece c.handle
  | 0x21 => startEvict d c
  | 0x22 => startGenerate F d c
  | 0x23 => startEpoch d c
  | 0x24 => startRekey d c
  | 0x30 => startAcquire d c
  | 0x31 => startRelease d c
  | 0x40 => d.finish c.handle 0 0 (identifyBytes F d c.head)
  | 0x41 => startQuery d c
  | 0x42 => startTest F d c
  | 0x43 => startFreeze F d c
  | 0x44 => runLogRead F d c st
  | 0x45 => runUnfinished d c st
  | _ => d

/-- A command that firmware has taken up starts, or stays held (R259, R296, R302). -/
def tryStart (F : Fuses) (d : Dev) (c : Cmd) (st : OutEnd) : Dev :=
  let op := sqOpcode c.entry
  if c.chan.isSome ∨ c.slot.isSome ∨ d.heldBack c then d
  else
    let err := startErr F d c.head c.entry
    let lo := sqField c.entry 16 8 / 64
    if err ≠ 0 then d.finish c.handle err 0
    else if op ≤ 4 then
      let run := d.mapCmd c.handle fun y => { y with state := 2, started := true }
      match d.freeChannel, d.freeSlot with
      | some n, some k => if op = 1 ∧ bit (sqFlags c.entry) 0 then armStream F d c n k else startList run c n
      | some n, none => if op = 1 ∧ bit (sqFlags c.entry) 0 then d else startList run c n
      | none, _ => d
    else if op = 5 then
      match d.freeSlot with
      | some k => armSnap F d c k
      | none => d
    else if op = 0x11 ∧ d.discardHeld lo (lo + sqField c.entry 24 8 - 1) then d
    else beginCmd F d c st

/-- Firmware takes a command from Spool (R296, R299): its fields are checked, and it starts or is held. -/
def lciTake (F : Fuses) (d : Dev) (h op : Nat) (st : OutEnd) : Dev :=
  match d.cmd h with
  | none => d
  | some c =>
    let older := d.lci.cmds.any fun x => qpOf x.handle == qpOf h && decide (x.seq < c.seq ∧ x.state = 0)
    if !d.lci.ready ∨ !d.fwRuns ∨ c.state ≠ 0 ∨ sqOpcode c.entry ≠ op ∨ older ∨ d.noTimeout c.head st then d
    else
      let err := takeErr F d c.head c.entry
      if err ≠ 0 then d.finish h err 0
      else
        let d1 := d.mapCmd h fun y => { y with state := 1 }
        tryStart F d1 { c with state := 1 } st

/-- A held command starts once nothing holds it back (R302); a Sanitize that waits for a Snapshot goes on. -/
def heldStart (F : Fuses) (d : Dev) (h : Nat) : Dev :=
  match d.cmd h with
  | none => d
  | some c =>
    if !d.lci.ready ∨ !d.fwRuns then d
    else if c.state = 1 then tryStart F d c .ok
    else if c.state = 2 ∧ sqOpcode c.entry = 0x12 then sanAdvance F h d 5
    else d

/-- Completion data of a command's outbound read, or its failure (R60, R61, R302). -/
def cmdData (F : Fuses) (d : Dev) (h : Nat) (data : List Nat) (st : OutEnd) : Dev :=
  match d.cmd h with
  | none => d
  | some c =>
    let op := sqOpcode c.entry
    if op = 0x22 then
      if st = .ok then d.finish h 0 1 c.result
      else ((d.emit (.aer c.head st)).clearSlot (sqField c.entry 16 2)).finish h 0x0503 0
    else if st ≠ .ok then (d.emit (.aer c.head st)).finish h 0x0502 0
    else if data.length < c.piece then d
    else
      let b := c.data ++ (data.take c.piece).map (· % 256)
      let d1 := d.mapCmd h fun y => { y with data := b }
      if b.length < c.source.2 then d1.readPiece h
      else if op = 7 then
        let f := sqField c.entry
        let err := dictErr F d1 c.head (f 32 4) (f 24 4)
        if err ≠ 0 then d1.finish h err 0 else (dictStore F d1 c.head (f 32 4) b).finish h 0 1
      else keyLoad F d1 c b

/-- An outbound read completes: tags below 64 are stream channels' (R61). -/
def readDone (F : Fuses) (d : Dev) (h : Head) (tag : Nat) (data : List Nat) (st : OutEnd) : Dev :=
  if d.noTimeout h st then d
  else if tag < 64 then (if (d.schan tag).head = h then installData d tag data st else d)
  else match d.lci.cmds.find? fun c => c.tag == some tag && decide (c.head = h) && decide (c.state < 4) with
    | some c => cmdData F d c.handle data st
    | none => d

/-- An invalidation is done (R92): the command or window that asked for it goes on. -/
def Dev.invDone (d : Dev) (r : InvRef) : Dev :=
  if r ≠ .host ∧ !d.cache.invOpen.contains r then d
  else
    let d1 := d.invClose r
    match r with
    | .command h =>
      (match d1.cmd h.toNat with
        | none => d1
        | some c =>
          let n := sqField c.entry 24 8
          if sqOpcode c.entry = 0x12 then d1.finish h.toNat 0 4 (leBytes 8 n) else d1.finish h.toNat 0 n)
    | _ => d1

end Sys2Proof.Machine
end

