-- ==== Sys2Proof/Machine/CommandOps.lean ====
section
/-!
DEFINITION. The LCI rows of the table: each command's start (R302), a held command's start, an unlisted opcode, and the events
on which commands go on: the end of an invalidation, of a window's disable, of a slot's draining, and of an outbound read.
-/
namespace Sys2Proof.Machine

/-- HELD_COMMAND_START (R302). -/
def execHeldCommandStart (h : Handle) (s : State) : Host.Outcome State Fault Refusal :=
  .next { s with dev := silentOut s.fuse (heldStart s.fuse s.dev h.toNat) }

/-- INVALID_OPCODE (R301, R302). -/
def execInvalidOpcode (h : Handle) (s : State) : Host.Outcome State Fault Refusal :=
  let d := s.dev
  .next (match d.cmd h.toNat with
    | none => s
    | some c =>
      if !d.lci.ready ∨ !d.fwRuns ∨ c.state ≠ 0 ∨ opcodes.contains (sqOpcode c.entry) then s
      else { s with dev := d.finish h.toNat 0x0101 0 })

/-- INVALIDATION_DONE (R92). -/
def execInvalidationDone (r : InvRef) (s : State) : Host.Outcome State Fault Refusal :=
  .next { s with dev := silentOut s.fuse (s.dev.invDone r) }

/-- The Forax port is unlocked once the effects of the unlock are complete (R257, R412): every window of a key is disabled and no slot
drains. -/
def Dev.unlockSettle (d : Dev) : Dev :=
  let busy : Bool := d.sec.slots.any (fun e => e.2.state == 2) ||
    (List.range 64).any fun n => d.rbit (LNK_TWIN_CTL n) 30 && decide (d.fld (LNK_TWIN_CTL n) 19 8 ≠ 0)
  if d.dbg.busy ∧ !busy then { d with dbg := { d.dbg with busy := false, unlocked := true } } else d

/-- TWIN_DISABLE_DONE (R42). -/
def execTwinDisableDone (n : Fin 64) (s : State) : Host.Outcome State Fault Refusal :=
  .next { s with dev := (silentOut s.fuse (sanPump s.fuse (twinDone s.fuse s.dev n))).unlockSettle }

/-- SLOT_DRAIN_COMPLETE (R237). -/
def execSlotDrainComplete (slot : Fin 4096) (s : State) : Host.Outcome State Fault Refusal :=
  .next { s with dev := (silentOut s.fuse (sanPump s.fuse (s.dev.slotDrained slot.val))).unlockSettle }

/-- OUTBOUND_READ_COMPLETION (R61). -/
def execOutboundReadCompletion (h : Head) (tag : BitVec 16) (data : List Byte) (st : OutEnd) (s : State) :
    Host.Outcome State Fault Refusal :=
  .next { s with dev := silentOut s.fuse (readDone s.fuse s.dev h tag.toNat (data.map (·.toNat)) st) }

/-- STREAM (R302). -/
def execStream (h : Handle) (s : State) : Host.Outcome State Fault Refusal :=
  .next { s with dev := silentOut s.fuse (lciTake s.fuse s.dev h.toNat 0x01 .ok) }

/-- COPY (R282). -/
def execCopy (h : Handle) (s : State) : Host.Outcome State Fault Refusal :=
  .next { s with dev := silentOut s.fuse (lciTake s.fuse s.dev h.toNat 0x02 .ok) }

/-- INSTALL (R253). -/
def execInstall (h : Handle) (s : State) : Host.Outcome State Fault Refusal :=
  .next { s with dev := silentOut s.fuse (lciTake s.fuse s.dev h.toNat 0x03 .ok) }

/-- VERIFY (R254). -/
def execVerify (h : Handle) (s : State) : Host.Outcome State Fault Refusal :=
  .next { s with dev := silentOut s.fuse (lciTake s.fuse s.dev h.toNat 0x04 .ok) }

/-- SNAPSHOT (R285). -/
def execSnapshot (h : Handle) (s : State) : Host.Outcome State Fault Refusal :=
  .next { s with dev := silentOut s.fuse (lciTake s.fuse s.dev h.toNat 0x05 .ok) }

/-- STOP (R302). -/
def execStop (h : Handle) (s : State) : Host.Outcome State Fault Refusal :=
  .next { s with dev := silentOut s.fuse (lciTake s.fuse s.dev h.toNat 0x06 .ok) }

/-- DICTIONARY_REGISTER (R272). -/
def execDictionaryRegister (h : Handle) (s : State) : Host.Outcome State Fault Refusal :=
  .next { s with dev := silentOut s.fuse (lciTake s.fuse s.dev h.toNat 0x07 .ok) }

/-- DROP (R92). -/
def execDrop (h : Handle) (s : State) : Host.Outcome State Fault Refusal :=
  .next { s with dev := silentOut s.fuse (lciTake s.fuse s.dev h.toNat 0x10 .ok) }

/-- DISCARD (R222). -/
def execDiscard (h : Handle) (s : State) : Host.Outcome State Fault Refusal :=
  .next { s with dev := silentOut s.fuse (lciTake s.fuse s.dev h.toNat 0x11 .ok) }

/-- SANITIZE (R255). -/
def execSanitize (h : Handle) (s : State) : Host.Outcome State Fault Refusal :=
  .next { s with dev := silentOut s.fuse (lciTake s.fuse s.dev h.toNat 0x12 .ok) }

/-- KEY_LOAD (R236). -/
def execKeyLoad (h : Handle) (s : State) : Host.Outcome State Fault Refusal :=
  .next { s with dev := silentOut s.fuse (lciTake s.fuse s.dev h.toNat 0x20 .ok) }

/-- KEY_EVICT (R237). -/
def execKeyEvict (h : Handle) (s : State) : Host.Outcome State Fault Refusal :=
  .next { s with dev := silentOut s.fuse (lciTake s.fuse s.dev h.toNat 0x21 .ok) }

/-- KEY_GENERATE (R235). -/
def execKeyGenerate (h : Handle) (s : State) : Host.Outcome State Fault Refusal :=
  .next { s with dev := silentOut s.fuse (lciTake s.fuse s.dev h.toNat 0x22 .ok) }

/-- EPOCH_ADVANCE (R234). -/
def execEpochAdvance (h : Handle) (s : State) : Host.Outcome State Fault Refusal :=
  .next { s with dev := silentOut s.fuse (lciTake s.fuse s.dev h.toNat 0x23 .ok) }

/-- REKEY (R252). -/
def execRekey (h : Handle) (s : State) : Host.Outcome State Fault Refusal :=
  .next { s with dev := silentOut s.fuse (lciTake s.fuse s.dev h.toNat 0x24 .ok) }

/-- LOCK_ACQUIRE (R304). -/
def execLockAcquire (h : Handle) (s : State) : Host.Outcome State Fault Refusal :=
  .next { s with dev := silentOut s.fuse (lciTake s.fuse s.dev h.toNat 0x30 .ok) }

/-- LOCK_RELEASE (R304). -/
def execLockRelease (h : Handle) (s : State) : Host.Outcome State Fault Refusal :=
  .next { s with dev := silentOut s.fuse (lciTake s.fuse s.dev h.toNat 0x31 .ok) }

/-- IDENTIFY (R302). -/
def execIdentify (h : Handle) (s : State) : Host.Outcome State Fault Refusal :=
  .next { s with dev := silentOut s.fuse (lciTake s.fuse s.dev h.toNat 0x40 .ok) }

/-- QUERY (R302). -/
def execQuery (h : Handle) (s : State) : Host.Outcome State Fault Refusal :=
  .next { s with dev := silentOut s.fuse (lciTake s.fuse s.dev h.toNat 0x41 .ok) }

/-- SELF_TEST (R408). -/
def execSelfTest (h : Handle) (s : State) : Host.Outcome State Fault Refusal :=
  .next { s with dev := silentOut s.fuse (lciTake s.fuse s.dev h.toNat 0x42 .ok) }

/-- The Log Freeze command of a handle names op 0x02. -/
def Dev.thaws (d : Dev) (h : Nat) : Bool :=
  match d.cmd h with
  | some c => sqField c.entry 16 1 == 2
  | none => false

/-- LOG_FREEZE (R390): Log Freeze with any op but 0x02. -/
def execLogFreeze (h : Handle) (s : State) : Host.Outcome State Fault Refusal :=
  .next (if s.dev.thaws h.toNat then s else { s with dev := silentOut s.fuse (lciTake s.fuse s.dev h.toNat 0x43 .ok) })

/-- LOG_THAW (R390): Log Freeze with op 0x02. -/
def execLogThaw (h : Handle) (s : State) : Host.Outcome State Fault Refusal :=
  .next (if s.dev.thaws h.toNat then { s with dev := silentOut s.fuse (lciTake s.fuse s.dev h.toNat 0x43 .ok) } else s)

/-- LOG_READ (R391); `confirm` is how its confirmation read ends (R61). -/
def execLogRead (h : Handle) (confirm : OutEnd) (s : State) : Host.Outcome State Fault Refusal :=
  .next { s with dev := silentOut s.fuse (lciTake s.fuse s.dev h.toNat 0x44 confirm) }

/-- UNFINISHED_READ (R394); `confirm` is how its confirmation read ends (R61). -/
def execUnfinishedRead (h : Handle) (confirm : OutEnd) (s : State) : Host.Outcome State Fault Refusal :=
  .next { s with dev := silentOut s.fuse (lciTake s.fuse s.dev h.toNat 0x45 confirm) }

end Sys2Proof.Machine
end

