-- ==== Sys2Proof/Machine/IcuOps.lean ====
section
/-!
DEFINITION. The interrupt controller (R317 to R322), the hardware semaphores (R316), the core pairs with their fence and failover
(R309 to R314), MSI-X masks (R323) and the fuse floor (R327).
-/
namespace Sys2Proof.Machine

/-- A core pair. -/
def Dev.pair (d : Dev) : PairId → Pair
  | .a => d.cores.a
  | .b => d.cores.b

/-- Replace a core pair. -/
def Dev.setPair (d : Dev) (p : PairId) (x : Pair) : Dev :=
  match p with
  | .a => { d with cores := { d.cores with a := x } }
  | .b => { d with cores := { d.cores with b := x } }

/-- The other pair. -/
def otherPair : PairId → PairId
  | .a => .b
  | .b => .a

/-- Number of a pair: 0 A, 1 B. -/
def pIdx : PairId → Nat
  | .a => 0
  | .b => 1

/-- A pair executes: it passed its self-test and is not fenced (R311, R315). -/
def Pair.runs (p : Pair) : Bool := p.ok && !p.fenced

/-! ## Delivery -/

/-- Priority and target role of a source. -/
def Dev.srcPrio (d : Dev) (n : Nat) : Nat := d.fld (ICU_SRC_CFG n) 7 4

/-- The source's role names this pair (R319): a source for the standby waits while there is none. -/
def Dev.srcFor (d : Dev) (n : Nat) (p : PairId) : Bool :=
  if d.rbit (ICU_SRC_CFG n) 8 then d.cores.standbyOk && decide (p = otherPair d.cores.active) else decide (p = d.cores.active)

/-- May a source be committed to a pair now (R320)? -/
def Dev.candidate (d : Dev) (p : PairId) (n : Nat) : Bool :=
  let st := (d.pair p).stack
  d.rbit (ICU_PEND (n / 32)) (n % 32) && d.rbit (ICU_SRC_CFG n) 0 && d.srcFor n p && d.rbit ICU_GCTL (pIdx p) &&
    decide (st.length < 16) && (match st with
      | [] => true
      | t :: _ => decide (d.srcPrio t < d.srcPrio n))

/-- The source a pair takes: highest priority, then lowest number (R320). -/
def Dev.bestSource (d : Dev) (p : PairId) : Option Nat :=
  ((List.range 128).filter (d.candidate p)).foldl (fun acc n => match acc with
    | none => some n
    | some m => if d.srcPrio m < d.srcPrio n then some n else some m) none

/-- One ICU cycle for one pair (R320): a commit pushes the source. -/
def Dev.commit (d : Dev) (p : PairId) : Dev :=
  let x := d.pair p
  if !x.runs then d
  else match d.bestSource p with
    | some n =>
      let d1 := d.setPair p { x with stack := n :: x.stack }
      if p = d.cores.active then d1.count 0x283 else d1
    | none => d

/-- End of interrupt (R321). -/
def eoi (F : Fuses) (d : Dev) (p : PairId) (src : Nat) : Dev :=
  let x := d.pair p
  match x.stack with
  | t :: r => if t = src then d.setPair p { x with stack := r } else (d.setRbit ICU_STS 31 true).event F 0x6002 src
  | [] => (d.setRbit ICU_STS 31 true).event F 0x6002 src

/-- A write of ICU_SRC_CFGn (R319, R322). -/
def Dev.srcWrite (d : Dev) (n v : Nat) : Dev :=
  let off := ICU_SRC_CFG n
  let d1 := d.setRbit off 0 (bit v 0)
  let d2 := if bit v 31 then d1.setRbit off 31 false else d1
  if d.rbit ICU_GCTL 31 then d2
  else
    let d3 := d2.setRbit off 8 (bit v 8)
    if 103 ≤ n ∧ n ≤ 111 then d3 else d3.setFld off 7 4 (bits v 7 4)

/-- A write of ICU_GCTL (R319, R322): the lock is only set. -/
def Dev.gctlWrite (d : Dev) (v : Nat) : Dev :=
  let d1 := d.setFld ICU_GCTL 1 0 (bits v 1 0)
  if bit v 31 then d1.setRbit ICU_GCTL 31 true else d1

/-- A write of ICU_SWI (R318). -/
def Dev.swiWrite (d : Dev) (v : Nat) : Dev :=
  ((List.range 16).filter fun j => bit v j).foldl (fun d j => d.icu (112 + j)) d

/-! ## Semaphores -/

/-- A semaphore. -/
def Dev.sem (d : Dev) (n : Nat) : Sem := Tbl.look {} d.sems n

/-- A read of ICU_SEMn by a requester (R316): the word returned. -/
def Dev.semAcquire (d : Dev) (n who : Nat) : Nat × Dev :=
  let s := d.sem n
  if s.owner = 0 then
    (2 ^ 31 + 2 ^ 30 * b2n s.abandoned + who, { d with sems := Tbl.put {} d.sems n ⟨who, false⟩ })
  else (s.owner, d)

/-- A write of release = 1 (R316). -/
def Dev.semRelease (d : Dev) (n who : Nat) : Dev :=
  let s := d.sem n
  if s.owner = who then { d with sems := Tbl.put {} d.sems n ⟨0, s.abandoned⟩ } else d.setRbit ICU_STS 30 true

/-- Every semaphore of an owner is freed and marked abandoned (R311, R316). -/
def Dev.semsAbandon (d : Dev) (who : Nat) : Dev :=
  { d with sems := Tbl.mapAll {} d.sems fun _ s => if s.owner = who then ⟨0, true⟩ else s }

/-! ## Failure of a pair -/

/-- The fence (R311): the pair is held in reset, its semaphores are freed, and the sources on its stack are pending again. -/
def Dev.fence (d : Dev) (p : PairId) : Dev :=
  let x := d.pair p
  let d1 := (d.setPair p { x with ok := false, failed := true, fenced := true, stack := [] }).semsAbandon (pIdx p + 1)
  x.stack.foldl (fun d n => d.setRbit (ICU_PEND (n / 32)) (n % 32) true) d1

/-- A pair is declared failed with a cause of GLB_CORE_STS (R309 to R311, R313, R314). Without a standby, or where
the one that is to take over fails too, no pair runs firmware from then on, and FAULT_N is asserted. -/
def pairFail (F : Fuses) (d : Dev) (p : PairId) (cause : Nat) : Dev :=
  if !(d.pair p).runs then d
  else
    let d1 := (d.fence p).event F 0x6001 (pIdx p + 2 * cause)
    let c := d1.cores
    if p = c.active then
      if (c.standbyOk ∨ (d1.pair (otherPair p)).halted) ∧ (d1.pair (otherPair p)).runs then { d1 with cores := { c with cause := cause, takeover := true } }
      else Dev.faultLevel F { d1 with cores := { c with cause := cause, dead := true, standbyOk := false } }
    else if c.takeover then Dev.faultLevel F { d1 with cores := { c with cause := cause, takeover := false, dead := true, standbyOk := false } }
    else { d1 with cores := { c with cause := cause } }

/-- The standby pair has failed (R314). -/
def Dev.standbyFail (d : Dev) : Dev :=
  if d.cores.standbyOk ∧ !(d.pair (otherPair d.cores.active)).runs then
    { d with cores := { d.cores with standbyOk := false } }.icu 95
  else d

/-- The standby pair takes over (R313); a halted one does so once it resumes (R414). -/
def takeover (F : Fuses) (d : Dev) : Dev :=
  let c := d.cores
  if c.takeover ∧ !(d.pair (otherPair c.active)).halted then
    let d1 := { d with cores := { c with active := otherPair c.active, standbyOk := false, takeover := false,
                                         failovers := satAdd c.failovers 1 255 } }
    d1.postAll F .warn .failover 0
  else d

/-- A checkpoint is taken and applied (R312): the checkpoint path requests it where the last one is 10 µs old, ICU source 96. -/
def Dev.checkpoint (d : Dev) : Dev :=
  let c := d.cores
  if !d.fwRuns ∨ !d.live then d
  else
    let d1 := if c.lastCheckpoint + 10000 ≤ d.tether.now then d.icu 96 else d
    { d1 with cores := { c with lastCheckpoint := d.tether.now, standbyOk := (d.pair (otherPair c.active)).runs && !(d.pair (otherPair c.active)).halted } }

/-- A write of ICU_WDOGp (R310). -/
def Dev.pet (d : Dev) (p : PairId) (v : Nat) : Dev :=
  if bits v 31 16 = 0x7A31 ∧ bit v 0 ∧ (d.pair p).runs then d.setPair p { d.pair p with pet := d.tether.now } else d

/-- The watchdog of a pair expires, 16 µs after its last pet (R310); it does not count while the pair is halted. -/
def wdogExpire (F : Fuses) (d : Dev) (p : PairId) : Dev :=
  let x := d.pair p
  if !x.runs ∨ x.halted ∨ !d.live then d else pairFail F (d.advance (x.pet + 16000)) p 3

/-! ## The meanings -/

/-- LOCKSTEP_MISMATCH (R309). -/
def execLockstepMismatch (p : PairId) (s : State) : Host.Outcome State Fault Refusal :=
  .next { s with dev := pairFail s.fuse s.dev p 1 }

/-- CORE_MEMORY_UNCORRECTABLE (R310). -/
def execCoreMemoryUncorrectable (p : PairId) (s : State) : Host.Outcome State Fault Refusal :=
  .next { s with dev := pairFail s.fuse s.dev p 2 }

/-- WATCHDOG_PET (R310). -/
def execWatchdogPet (p : PairId) (value : Reg32) (s : State) : Host.Outcome State Fault Refusal :=
  .next { s with dev := s.dev.pet p value.toNat }

/-- WATCHDOG_EXPIRY (R310). -/
def execWatchdogExpiry (p : PairId) (s : State) : Host.Outcome State Fault Refusal :=
  .next { s with dev := wdogExpire s.fuse s.dev p }

/-- FAILOVER_TAKEOVER (R313). -/
def execFailoverTakeover (s : State) : Host.Outcome State Fault Refusal := .next { s with dev := takeover s.fuse s.dev }

/-- STANDBY_PAIR_FAIL (R314). -/
def execStandbyPairFail (s : State) : Host.Outcome State Fault Refusal := .next { s with dev := s.dev.standbyFail }

/-- CHECKPOINT (R312). -/
def execCheckpoint (s : State) : Host.Outcome State Fault Refusal := .next { s with dev := s.dev.checkpoint }

/-- SEMAPHORE_ACQUIRE (R316). -/
def execSemaphoreAcquire (p : PairId) (n : Fin 64) (s : State) : Host.Outcome State Fault Refusal :=
  .next (if (s.dev.pair p).runs then { s with dev := (s.dev.semAcquire n.val (pIdx p + 1)).2 } else s)

/-- SEMAPHORE_RELEASE (R316). -/
def execSemaphoreRelease (p : PairId) (n : Fin 64) (s : State) : Host.Outcome State Fault Refusal :=
  .next (if (s.dev.pair p).runs then { s with dev := s.dev.semRelease n.val (pIdx p + 1) } else s)

/-- ICU_SOURCE_EDGE (R317). -/
def execIcuSourceEdge (src : Fin 128) (s : State) : Host.Outcome State Fault Refusal := .next { s with dev := s.dev.icu src.val }

/-- ICU_PENDING_CLEAR (R317): a write of ICU_PENDk. -/
def execIcuPendingClear (k : Fin 4) (value : Reg32) (s : State) : Host.Outcome State Fault Refusal :=
  .next { s with dev := s.dev.setReg (ICU_PEND k.val) (s.dev.reg (ICU_PEND k.val) &&& ~~~ value) }

/-- ICU_SOFTWARE_INTERRUPT (R318): a write of ICU_SWI. -/
def execIcuSoftwareInterrupt (value : Reg32) (s : State) : Host.Outcome State Fault Refusal :=
  .next { s with dev := s.dev.swiWrite value.toNat }

/-- ICU_COMMIT (R320): one ICU cycle, at most one commit to each pair. -/
def execIcuCommit (s : State) : Host.Outcome State Fault Refusal := .next { s with dev := (s.dev.commit .a).commit .b }

/-- ICU_EOI (R321): a write of ICU_EOIp. -/
def execIcuEoi (p : PairId) (value : Reg32) (s : State) : Host.Outcome State Fault Refusal :=
  .next { s with dev := eoi s.fuse s.dev p (bits value.toNat 6 0) }

/-- ICU_ENABLE_CHANGE (R322): a write of ICU_SRC_CFGn, or of ICU_GCTL. -/
def execIcuEnableChange (target : Option (Fin 128)) (value : Reg32) (s : State) : Host.Outcome State Fault Refusal :=
  .next { s with dev := match target with
    | some n => s.dev.srcWrite n.val value.toNat
    | none => s.dev.gctlWrite value.toNat }

/-- ICU_CFG_LOCK (R319): a write of ICU_GCTL. -/
def execIcuCfgLock (value : Reg32) (s : State) : Host.Outcome State Fault Refusal :=
  .next { s with dev := s.dev.gctlWrite value.toNat }

/-- MSIX_MESSAGE (R323). -/
def execMsixMessage (h : Head) (vec : Fin 64) (s : State) : Host.Outcome State Fault Refusal :=
  .next (if activeHead s.fuse s.dev h then { s with dev := s.dev.msixSend h vec.val } else s)

/-- MSIX_UNMASK (R323): a vector's mask bit, or the function mask, clears. -/
def execMsixUnmask (h : Head) (vec : Option (Fin 64)) (s : State) : Host.Outcome State Fault Refusal :=
  let d := s.dev
  .next { s with dev := (match vec with
    | some v => d.setRbit (headOff h (0x4000 + 16 * v.val + 12)) 0 false
    | none => d.setHead h { d.head h with funcMask := false }).msixDrain h }

/-- FUSE_FLOOR_RAISE (R327): to the running image's svn, once it reaches full service. -/
def execFuseFloorRaise (s : State) : Host.Outcome State Fault Refusal :=
  let i := s.dev.images
  .next (if i.raiseFloor ∧ i.running < 2 ∧ s.dev.pwr.svc = .full then
      { s with dev := { s.dev with images := { i with floor := max i.floor i.svn } } }
    else s)

end Sys2Proof.Machine
end

