-- ==== Sys2Proof/Machine/KeelOps.lean ====
section
/-!
DEFINITION. The Keel store (spec/15_keel_logbook.md): writes that wait for keel_ok, their verify and what follows it (R345,
R372 to R376, R379), the root map (R380), the scan of the rings at bring-up (R374, R375, R378, R388, R393), and the operating
time (R378).
-/
namespace Sys2Proof.Machine

/-! ## Energy (R342, R345) -/

/-- The bank's energy at the controller's input, in units of 1 / (200 × 10^10) mJ: efficiency × capacitance × (V_h² − vh_min²). It is
0 while the capacitance has not been measured at this bring-up. -/
def Dev.energy (d : Dev) : Nat :=
  let b := d.pwr.board
  d.pwr.cap.getD 0 * b.eta * (d.pwr.vh * d.pwr.vh - (10 * b.vhMin) * (10 * b.vhMin))

/-- The energy is at least `n` hundredths of a millijoule. -/
def Dev.energyAtLeast (d : Dev) (n : Nat) : Bool := decide (n * (2 * 10 ^ 10) ≤ d.energy)

/-- E_avail in 0.1 mJ, saturating (PSV_HOLD). -/
def Dev.eAvail (d : Dev) : Nat := min (d.energy / (2 * 10 ^ 11)) 0xFFFF

/-- E_rip of the class in mJ (R3). -/
def eRip (F : Fuses) : Nat := if F.cls = .s then 30 else 75

/-- keel_ok (R345). -/
def keelOk (F : Fuses) (d : Dev) : Bool := d.pwr.inputOk || d.energyAtLeast (if F.cls = .s then 64 else 160)

/-! ## Records -/

/-- Owners of a Keel write besides an LCI command's handle: a head's CXL mailbox, and the register mailbox. -/
def mailOwner (h : Head) : Nat := 2 ^ 32 + hIdx h
def rmOwner : Nat := 2 ^ 33

/-- A ring record of a write, without its sequence number, type and CRC. -/
def ringBody (r : Ring) (data : List Nat) : List Nat :=
  match r with
  | .life | .state | .locks | .wear | .eraseUse => (data.drop 5).take 39
  | _ => (data.drop 5).take 247

/-- A ring record goes to the ring's next slot, and the records that follow it move on by one (R373). -/
def Dev.ringMove (d : Dev) (r : Ring) (w : KWrite) (seq : Nat) : Dev :=
  let k := d.keel
  match r with
  | .rootMap =>
    Dev.rootPut { d with keel := { k with active := k.active.filter (fun x => x.page != w.page),
                                          waiting := k.waiting.filter fun x => x.kind != .ring .rootMap seq } }
  | _ =>
    let up (x : KWrite) : KWrite := match x.kind with
      | .ring r' s => if r' = r then ringWrite r (s + 1) (ringBody r x.data) x.owner else x
      | _ => x
    { d with keel := { k with active := k.active.filter (fun x => x.page != w.page), waiting := up w :: k.waiting.map up,
                              ringSeq := Tbl.upd 0 k.ringSeq r.idx (· + 1) } }

/-! ## Writing -/

/-- May a waiting write start: its bank is idle, and no earlier write of its ring is unfinished (R372)? -/
def Keel.startable (k : Keel) (before : List KWrite) (w : KWrite) : Bool :=
  let same (x : KWrite) : Bool := match x.kind, w.kind with
    | .ring a _, .ring b _ => decide (a = b) && a != .rootMap
    | _, _ => false
  !((k.active ++ before).any fun x => x.page % 32 == w.page % 32 || same x)

/-- The first waiting write that may start. -/
def Keel.pickStart (k : Keel) : List KWrite → List KWrite → Option KWrite
  | _, [] => none
  | before, w :: r => if k.startable before w then some w else k.pickStart (before ++ [w]) r

/-- A waiting write starts (R373). -/
def keelStart (F : Fuses) (d : Dev) : Dev :=
  let k := d.keel
  match k.pickStart [] k.waiting with
  | none => d
  | some w =>
    if keelOk F d ∧ d.live then { d with keel := { k with active := k.active ++ [w], waiting := k.waiting.erase w } } else d

/-- The bytes of a write are in the store. -/
def Dev.keelWritten (d : Dev) (w : KWrite) : Dev :=
  let k := d.keel
  { d with keel := { k with bytes := keelPoke k.bytes w.page w.off w.data, active := k.active.erase w } }

/-- What waited for a write completes once no other write of its owner is left (R379, R383). -/
def keelOwner (F : Fuses) (d : Dev) (o : Nat) : Dev :=
  if (d.keel.active ++ d.keel.waiting).any fun w => w.owner == some o then d
  else if o = rmOwner then { d with lci := { d.lci with rmBusy := false } }
  else if o = mailOwner .a then d.emit (.mailbox .a 0 [])
  else if o = mailOwner .b then d.emit (.mailbox .b 0 [])
  else match d.cmd o with
    | none => d
    | some c => silentOut F (match sqOpcode c.entry with
        | 0x12 => if c.progress = 2 then sanPump F (d.mapCmd o fun y => { y with progress := 3 }) else d
        | 0x45 => d.finish o 0 c.progress
        | _ => d.finish o 0 1 c.result)

/-- The event recorder accepts records from here on (R388): events held in the always-on domain come first, then their excess
(R444). -/
def acceptStart (F : Fuses) (d : Dev) : Dev :=
  let d1 := { d with log := { d.log with accepting := true }, aon := {} }
  let d2 := d.aon.events.foldl (fun d e => d.recordIn F e.code e.arg e.tether) d1
  if d.aon.more = 0 then d2 else d2.recordIn F 0xF003 d.aon.more d2.tether.now

/-- The write in progress on a page ends (R373). A verify that fails once is repeated; when it fails again a ring record or a
logbook page moves on, and any other page is written again. The first life record of a power cycle opens the recorder (R378). -/
def keelDone (F : Fuses) (d : Dev) (page : Nat) (ok : Bool) : Dev :=
  match d.keel.active.find? fun w => w.page == page with
  | none => d
  | some w =>
    if ok then
      let d1 := (d.keelWritten w).icu 93
      let d2 := match w.kind with
        | .ring .life _ => if d1.keel.ready && !d1.log.accepting && d1.live && d1.pwr.flush.isNone then acceptStart F d1 else d1
        | _ => d1
      match w.owner with
      | some o => keelOwner F d2 o
      | none => d2
    else
      let k := d.keel
      let again (n : Nat) : List KWrite := k.active.map fun x => if x = w then { w with tries := n } else x
      if w.tries = 0 then { d with keel := { k with active := again 1 } }
      else
        let d1 := ({ d with keel := { k with vfail := satAdd k.vfail 1 0xFFFF } }.event F 0xF005 page).icu 93
        match w.kind with
        | .ring r seq => d1.ringMove r w seq
        | .logPage =>
          let k1 := d1.keel
          { d1 with keel := { k1 with active := k1.active.erase w,
                                      waiting := { w with page := nextLogPage F page, tries := 0 } :: k1.waiting } }
        | .raw => { d1 with keel := { d1.keel with active := d1.keel.active.map fun x => if x = w then { w with tries := 0 } else x } }

/-- Every write that is in progress or waits is performed, oldest first (R381). -/
def Dev.keelDrain (d : Dev) : Dev :=
  (d.keel.active ++ d.keel.waiting).foldl (fun d w => d.keelWritten w) { d with keel := { d.keel with waiting := [] } }

/-! ## The scan at bring-up -/

/-- a is newer than b (R374). -/
def newer (a b : Nat) : Bool := decide (1 ≤ (a + 2 ^ 32 - b) % 2 ^ 32 ∧ (a + 2 ^ 32 - b) % 2 ^ 32 < 2 ^ 31)

/-- The newest of a list of records by their first four bytes. -/
def newestOf (l : List (List Nat)) : Option (List Nat) :=
  l.foldl (fun acc b => match acc with
    | none => some b
    | some a => if newer (leNat (b.take 4)) (leNat (a.take 4)) then some b else some a) none

/-- A valid record: its CRC matches and its type is the one expected (R374). -/
def validRec (type : Nat) (b : List Nat) : Bool :=
  let n := b.length - 4
  decide (leNat (b.drop n) = crc32c (b.take n) ∧ b.getD 4 0 = type)

/-- A copy of the root map as a record: it is valid only when each of its five pages is valid and all carry the same sequence
number (R375, R380). -/
def rootValid (t : Tbl Nat) (page : Nat) : Bool :=
  let b (i : Nat) : List Nat := keelPeek t (page + i) 0 256
  (List.range 5).all fun i => validRec (if i = 0 then 0x08 else 0x09) (b i) && decide ((b i).take 4 = (b 0).take 4)

/-- The newest valid record of a ring (R375); of the root map its first page. -/
def Dev.ringRead (d : Dev) (r : Ring) : Option (List Nat) :=
  let t := d.keel.bytes
  newestOf (match r with
    | .life | .state | .locks | .wear | .eraseUse =>
      ((List.range 16).map fun i => keelPeek t r.page (48 * i % 256) 48).filter (validRec r.type)
    | .rootMap => ([9, 14].filter (rootValid t)).map fun p => keelPeek t p 0 256
    | _ => [keelPeek t r.page 0 256, keelPeek t (r.page + 1) 0 256].filter (validRec r.type))

/-- The sequence number that the next record of a ring takes (R374). -/
def Dev.ringNext (d : Dev) (r : Ring) : Nat := match d.ringRead r with
  | some b => (leNat (b.take 4) + 1) % 2 ^ 32
  | none => 0

/-- Bytes of the newest valid record of a ring, 0 where there is none. -/
def Dev.ringField (d : Dev) (r : Ring) (off n : Nat) : Nat := match d.ringRead r with
  | some b => leNat ((b.drop off).take n)
  | none => 0

/-- An entry of the unfinished-work log, from its bytes (R393). -/
def uwlEntryOf (b : List Nat) (started : Bool) : UwlEntry :=
  ⟨leNat (b.take 4), leNat ((b.drop 4).take 2), b.getD 6 0, decide (b.getD 7 0 % 2 = 1), started, decide (b.getD 7 0 / 2 % 2 = 1),
   if started then leNat ((b.drop 8).take 2) else 0xFFFF, if started then leNat ((b.drop 10).take 6) else 0⟩

/-- A page of the unfinished-work log, from its bytes (R393). -/
def uwlPageOf (b : List Nat) : UwlPage :=
  let na := b.getD 6 0
  let nu := b.getD 7 0
  { seq := leNat (b.take 4), cause := b.getD 5 0, opmin := leNat ((b.drop 8).take 4), pcyc := leNat ((b.drop 12).take 4),
    entries := (List.range na).map (fun i => uwlEntryOf (b.drop (16 + 16 * i)) true) ++
      (List.range nu).map fun i => uwlEntryOf (b.drop (16 + 16 * na + 8 * i)) false }

/-- A logbook record, from its stored bytes (R384). -/
def logRecOf (n : Nat) (b : List Nat) : LogRec :=
  { number := n, code := leNat (b.take 2), count := leNat ((b.drop 2).take 2), opmin := leNat ((b.drop 4).take 4),
    pcyc := leNat ((b.drop 8).take 4), tether := leNat ((b.drop 12).take 4), arg := leNat ((b.drop 16).take 8), closed := true }

/-- The records of a logbook page or staging page. -/
def recsOf (b : List Nat) : List LogRec :=
  (List.range (b.getD 5 0)).map fun i => logRecOf (leNat ((b.drop 8).take 4) + i) ((b.drop (12 + 24 * i)).take 24)

/-- The recorder's number and its staged records, as the store holds them (R388, R389): staged records that a page holds already
are ignored. -/
def scanLog (F : Fuses) (d : Dev) : Logbook :=
  let page (p : Nat) : List Nat := keelPeek d.keel.bytes p 0 256
  let pages := ((List.range 26).map fun i => page (0x18 + i)) ++ (List.range (tailPages F)).map fun i => page (0x265 + i)
  let held := (pages.filter fun b => validRec 0x0A b && decide (0 < b.getD 5 0)).flatMap recsOf
  let top (l : List LogRec) : Nat := l.foldl (fun n r => max n (r.number + 1)) 0
  let staged := (match d.ringRead .staging with
    | some b => recsOf b
    | none => []).filter fun r => decide (top held ≤ r.number)
  { next := max (top held) (top staged), buf := staged }

/-- Every ring is scanned and the values the controller holds from the store are loaded (R372, R374, R442). -/
def keelScan (F : Fuses) (d : Dev) : Dev :=
  let f (r : Ring) (off n : Nat) : Nat := d.ringField r off n
  let pages := ((List.range 347).map fun i => keelPeek d.keel.bytes (0x10A + i) 0 256).filter (validRec 0x0C)
  let first := f .state 12 4
  let live := ((pages.map uwlPageOf).filter fun p => p.seq == first || newer p.seq first).mergeSort fun a b => a.seq == b.seq || newer b.seq a.seq
  let next := match newestOf pages with
    | some b => leNat (b.take 4) + 1
    | none => first
  let list (r : Ring) : List Nat := match d.ringRead r with
    | some b => b
    | none => []
  let words (r : Ring) (k : Nat) : List (List Nat) :=
    (List.range ((list r).getD 5 0)).map fun i => ((list r).drop (8 + k * i)).take k
  let rings : List Ring := [.life, .state, .locks, .wear, .eraseUse, .repairs, .settings, .rootMap, .member, .staging]
  let k := d.keel
  let k1 := { k with
    ready := true, vfail := 0, sinceSave := 0, waiting := [], active := []
    ringSeq := rings.foldl (fun t r => Tbl.put 0 t r.idx (d.ringNext r)) []
    opmin := f .life 8 4, opsec := f .life 12 1, lastOff := f .life 13 1, pcyc := f .life 16 4, dirty := f .life 20 4
    ripTotal := f .life 24 2, ripIncomp := f .life 26 2, tetherSaved := f .life 28 8
    tshutLast := decide (f .state 5 1 / 2 % 2 = 1), gndUsed := decide (f .state 5 1 / 4 % 2 = 1)
    sel := f .state 6 1, epoch := f .state 8 4, uwlFirst := first, uwlSkip := f .state 16 1, uwl := live, uwlNext := next, uwlLost := 0
    eraseUse := f .eraseUse 8 32
    repairs := (words .repairs 4).map leNat
    settings := (words .settings 8).map fun b => (leNat (b.take 2), leNat (b.drop 4)) }
  let held := f .locks 8 32
  let locks : Tbl Lock := (List.range 256).foldl (fun t j => if bit held j then Tbl.put {} t j { abandoned := true } else t) []
  { d with keel := k1, lci := { d.lci with locks := locks }, log := scanLog F d }

/-- The seal as the state record holds it (R228, R379). -/
def Dev.sealedRecord (d : Dev) : Bool := decide (d.ringField .state 5 1 % 2 = 1)

/-- Member and failed-member masks of a group as the member record holds them; none where there is no record (R445). -/
def Dev.memberRead (d : Dev) (g : Nat) : Option Nat := (d.ringRead .member).map fun b => leNat ((b.drop (8 + 4 * g)).take 4)

/-! ## Operating time -/

/-- Operating time runs: from step 0x2 to the end of a flush (R378). -/
def Dev.operating (d : Dev) : Bool := d.live && d.keel.ready

/-- A second of operating time (R378): the next whole second of Tether. -/
def Dev.opSecond (d : Dev) : Dev :=
  if !d.operating then d
  else
    let d1 := d.tick 3 (10 ^ 9)
    let k := d1.keel
    let k1 := if 59 ≤ k.opsec then { k with opsec := 0, opmin := (k.opmin + 1) % 2 ^ 32 } else { k with opsec := k.opsec + 1 }
    { d1 with keel := { k1 with sinceSave := k.sinceSave + 1 } }

/-- KEEL_WRITE_START (R373). -/
def execKeelWriteStart (s : State) : Host.Outcome State Fault Refusal := .next { s with dev := keelStart s.fuse s.dev }

/-- KEEL_WRITE_DONE (R373). -/
def execKeelWriteDone (page : Fin 1024) (ok : Bool) (s : State) : Host.Outcome State Fault Refusal :=
  .next { s with dev := keelDone s.fuse s.dev page.val ok }

/-- LIFE_RECORD_WRITE (R378): after 60 s of operating time. -/
def execLifeRecordWrite (s : State) : Host.Outcome State Fault Refusal :=
  .next (if s.dev.operating ∧ 60 ≤ s.dev.keel.sinceSave then { s with dev := s.dev.lifePut } else s)

/-- OPERATING_SECOND (R378). -/
def execOperatingSecond (s : State) : Host.Outcome State Fault Refusal := .next { s with dev := s.dev.opSecond }

end Sys2Proof.Machine
end

