-- ==== Sys2Proof/Machine/PowerOps.lean ====
section
/-!
DEFINITION. The power supervisor's operations (spec/13_power_bringup_ripcord.md): the rails and their sequence (R331 to R334),
what power-down and bring-up clear (R440), the start and the end of a flush (R22, R335, R354), margining (R338), arming (R342).
-/
namespace Sys2Proof.Machine

/-- An edge of an ICU source whose cause can arise in Off or Rest too, where the interrupt controller is not powered. -/
def Dev.icuLive (d : Dev) (n : Nat) : Dev := if d.live then d.icu n else d

/-- ICU sources 89 and 90: the link state of a head is no longer `was` (R318). -/
def Dev.linkNoted (d : Dev) (h : Head) (was : Nat) : Dev := if (d.head h).lstate = was then d else d.icu (89 + hIdx h)

/-! ## Rails (R331) -/

/-- The class has this sequencer channel: channels 8 and 9 are absent in class S, board channels where the block fits them. -/
def seqPresent (F : Fuses) (d : Dev) (n : Nat) : Bool :=
  if n < 12 then !(decide (F.cls = .s) && (n == 8 || n == 9)) else (Tbl.look {} d.pwr.board.chan n).used

/-- A channel's state. -/
def Dev.seqCh (d : Dev) (n : Nat) : SeqCh := Tbl.look {} d.pwr.seq n

/-- Replace it. -/
def Dev.setSeq (d : Dev) (n : Nat) (x : SeqCh) : Dev := { d with pwr := { d.pwr with seq := Tbl.put {} d.pwr.seq n x } }

/-- What the sense and power-good inputs read is a board's: a free value (log entry 3). -/
def Dev.sense (d : Dev) (n : Nat) : Dev :=
  let (v, d1) := d.free
  d1.setSeq n { d1.seqCh n with sns := v % 4096, pg := decide (v / 4096 % 2 = 1) }

/-- Board channels that follow a channel directly in the sequence: rails and the hold-up charger. -/
def Dev.followers (d : Dev) (l : List Nat) : List Nat :=
  [12, 13, 14, 15].filter fun n =>
    let c := Tbl.look {} d.pwr.board.chan n
    c.used && decide (c.role ≤ 1) && l.contains c.after && !(d.seqCh n).down

/-- Board channels in steps after a channel (R333). -/
def Dev.chain (d : Dev) (n : Nat) : List (List Nat) :=
  let a := d.followers [n]
  let b := d.followers a
  let c := d.followers b
  [a, b, c, d.followers c].filter fun l => !l.isEmpty

/-- The up order of phase A and of phase B (R331, R333). -/
def Dev.phaseA (d : Dev) : List (List Nat) := [[0], [1], [2], [3], [4]] ++ d.chain 4
def phaseB (F : Fuses) (d : Dev) : List (List Nat) := [[5], [6, 7, 8, 9].filter (seqPresent F d), [10]] ++ d.chain 10

/-- Drive SEQ_EN of a channel. -/
def Dev.drive (d : Dev) (on : Bool) (n : Nat) : Dev :=
  ((d.setSeq n { d.seqCh n with en := on, valid := false }).sense n).emit (.seqEn n on)

/-- Rails that Ripcord needs (R335). -/
def ripRails (F : Fuses) (d : Dev) : List Nat := [0, 1, 2, 5, 10] ++ [6, 7, 8, 9].filter (seqPresent F d)

/-- Each of them is valid. -/
def ripReady (F : Fuses) (d : Dev) : Bool := (ripRails F d).all fun n => (d.seqCh n).valid

/-- The channels of some steps all go down, last step first. -/
def Dev.lower (d : Dev) (l : List (List Nat)) : Dev :=
  (l.reverse.flatMap fun x => x.filter fun n => (d.seqCh n).en).foldl (fun d n => d.drive false n) d

/-! ## Margining and arming -/

/-- Margining ends as a write of dir 0b00 ends it, without the wait: the code returns to nominal, and the window with it (R338). -/
def Dev.marginEnd (d : Dev) : Dev :=
  match d.pwr.margin with
  | some (ch, _, _) => ({ d.setFld PSV_MARGIN 5 4 0 with pwr := { d.pwr with margin := none } }).emit (.margin ch 0 0)
  | none => d

/-- Arming changes (R74, R342); ICU source 82. -/
def Dev.setArmed (d : Dev) (on : Bool) : Dev :=
  if d.gon.armed = on then d
  else ({ d with gon := { d.gon with armed := on, withdrawn := !on && !d.gon.staged.isEmpty } }).icu 82

/-- Board channels with a role: 1 hold-up charger, 2 hold-up test load. -/
def Dev.roleChan (d : Dev) (role : Nat) : Option Nat :=
  if d.pwr.board.valid then [12, 13, 14, 15].find? fun n =>
    let c := Tbl.look {} d.pwr.board.chan n
    c.used && decide (c.role = role)
  else none

/-- A hold-up measurement ends: the test load goes off and the charger on (R341). -/
def Dev.measureStop (d : Dev) : Dev :=
  match d.roleChan 1, d.roleChan 2 with
  | some ch, some ld =>
    if d.pwr.measuring then ((Dev.drive { d with pwr := { d.pwr with measuring := false } } false ld).drive true ch) else d
  | _, _ => d

/-! ## What power-down and bring-up clear (R440) -/

/-- A head at a bring-up: its pins and what the Keel store holds of it stay. -/
def HeadState.blank (x : HeadState) : HeadState :=
  { perstHigh := x.perstHigh, wakeLow := x.wakeLow, alertCfg := x.alertCfg, shutdownState := x.shutdownState }

/-- A die whose supply goes: a program that runs leaves its page undefined (R123). -/
def Die.blank (x : Die) : Die :=
  let y := (x.abandon x.running).abandon x.queued
  { pages := y.pages, ident := x.ident }

/-- Everything volatile at its initial value (R57, R440). Media, Keel store, images, the always-on domain and the count of
Tether stay. `off`: the controller's own supply goes, and with it the debug unlock (R412). Of the fabric accumulator's fraction the always-on
domain then keeps what its 6 bits hold, and the rest is dropped: R100 gives the handover back only (log entry 75, DESIGN CHOICE). -/
def Dev.blank (d : Dev) (off : Bool) : Dev :=
  let t := d.tether
  let slow := t.slow || off
  { d with
    regs := d.regs.filter fun e => decide (0x80000 ≤ e.1 ∧ e.1 < 0x90000)
    a := d.a.blank, b := d.b.blank
    tether := { now := t.now, acc := if off then 0 else t.acc, acc64 := if off ∧ !t.slow then t.acc / 2 ^ 26 else t.acc64,
                slow := slow, lastSave := t.lastSave }
    launch := []
    gpio := Tbl.mapAll {} d.gpio fun _ g => { role := g.role }
    keel := { d.keel with waiting := [], active := [], ready := false, vfail := 0 }
    log := {}
    cores := {}, sems := [], pmc := {}, bst := {}
    images := { d.images with running := 3, fallback := false, svn := 0, ver := 0, raiseFloor := false }
    dbg := if off then {} else { d.dbg with session := false, busy := false }
    gon := {}, cache := {}
    media := { die := Tbl.mapAll {} d.media.die fun _ x => x.blank }
    tracts := { cur := d.tracts.media, media := d.tracts.media, areas := d.tracts.areas, period := d.tracts.period,
                failOrder := d.tracts.failOrder }
    drift := { saved := d.drift.saved, weakSaved := d.drift.weakSaved, thrSaved := d.drift.thrSaved, rot := d.drift.rot }
    sec := { ctrMedia := d.sec.ctrMedia, exh := d.sec.exh, exhFull := d.sec.exhFull, dbgMode := d.sec.dbgMode && !off }
    str := {}, lci := {}
    therm := { smbusAddr := d.therm.smbusAddr, eid := d.therm.eid, aon := d.therm.aon } }

/-- Bring-up starts at a step: 0x1, or 0x2 where the phase A rails are still up (R350, R361). -/
def Dev.bringup (d : Dev) (step : Nat) : Dev :=
  let d1 := d.blank false
  { d1 with pwr := { d1.pwr with
      svc := .bringup, step := step, cause := 0, board := { d1.pwr.board with valid := false }, cap := none, measuring := false
      margin := none, flush := none, downing := none, replayDone := false, restored := false, incomplete := false
      replayLines := 0, segMeta := [], restartAt := none, upAgain := false, stopUp := false, portLost := false
      seq := Tbl.mapAll {} d1.pwr.seq fun _ c => { c with down := false, tries := 0 } } }

/-- In Off: may bring-up start now (R23, R335, R337, R361, R370)? -/
def Dev.mayStart (d : Dev) : Bool :=
  let p := d.pwr
  decide (p.svc = .off) && p.inputOk && p.pwrReq && !p.limited && !p.tsHold && !p.extHold &&
    (match p.restartAt with
      | some t => decide (t ≤ d.tether.now)
      | none => true)

/-- Start bring-up where nothing holds it back. -/
def Dev.tryUp (d : Dev) : Dev := if d.mayStart then d.bringup 1 else d

/-- FAULT_N is released (R336). -/
def Dev.faultRelease (d : Dev) : Dev :=
  if d.pwr.drive then ({ d with pwr := { d.pwr with drive := false, pinLow := d.pwr.pulse } }).emit (.faultN true false) else d

/-- A restart that counts toward the limit (R335): at the third within 60 s the controller stays Off. -/
def countReset (F : Fuses) (d : Dev) : Dev :=
  let l := d.tether.now :: d.pwr.resets.filter fun t => decide (d.tether.now < t + 60 * 10 ^ 9)
  let d1 := { d with pwr := { d.pwr with resets := l } }
  if l.length < 3 then d1
  else
    let d2 := ({ d1 with pwr := { d1.pwr with limited := true, cause := 6 } }).event F 0x1005
    ({ d2 with pwr := { d2.pwr with drive := true, pinLow := true } }).emit (.faultN true true)

/-- WAKE_N of a head goes low or high (R360). -/
def Dev.wake (d : Dev) (h : Head) (low : Bool) : Dev := (d.setHead h { d.head h with wakeLow := low }).emit (.wakeN h low)

/-- The rails are down: Off or Rest, and what follows (R23, R335, R337, R343, R361, R370). A Keel write that has started runs
to its end; those that wait are abandoned (R373). -/
def offEnter (F : Fuses) (d : Dev) (why : FlushWhy) (rip : Bool) : Dev :=
  let d0 := d.keel.active.foldl (fun d w => d.keelWritten w) d
  let rest := decide (why = .rest) && d.pwr.inputOk && d.pwr.pwrReq && !rip
  let d1 := d0.blank true
  let d2 := { d1 with pwr := { d1.pwr with
      svc := if rest then .rest else .off, step := 0, flush := none, downing := none, margin := none, measuring := false, cap := none
      replayDone := false, stopUp := false, upAgain := false, portLost := false
      restartAt := if rest then none else some (d1.tether.now + 10000000)
      extHold := d1.pwr.extHold, tsHold := d1.pwr.tsHold || decide (why = .thermal) } }
  let d3 := if why = .reset then d2 else d2.faultRelease
  let d4 := if why = .reset ∨ why = .protective ∨ why = .thermal then countReset F d3 else d3
  if why = .device ∧ !rip then { d4 with dbg := { d.dbg with session := false, busy := false },
                                         sec := { d4.sec with dbgMode := d.sec.dbgMode } }.bringup 1
  else if rest then [Head.a, Head.b].foldl (fun d h => d.wake h false) d4
  else if why = .pwrReq ∨ why = .rest ∨ why = .input then
    (if why = .pwrReq ∧ !rip then { d4 with pwr := { d4.pwr with restartAt := none } } else d4)
  else d4

/-- The sequence reaches its safe point with bring-up asked for meanwhile: the phase B rails are down, and bring-up starts at
step 0x2 (R361). -/
def Dev.safePoint (d : Dev) : Dev := d.bringup 2

/-! ## Flushes -/

/-- Every command in flight enters the unfinished-work log, and the queue pairs are cleared (R306, R392); commands of pairs that
were cleared before keep the cause they had. -/
def cutAll (F : Fuses) (d : Dev) (cause : Nat) : Dev :=
  let now := (d.lci.cmds.filter fun c => !c.silent).map d.uwlEntry
  let old := d.lci.cmds.filter (·.silent)
  let d1 := ((old.map (·.cause)).dedup).foldl (fun e k => uwlAdd F e k ((old.filter fun c => c.cause == k).map d.uwlEntry)) (uwlAdd F d cause now)
  let d2 := (List.range 64).foldl (fun d n => d.setRbit (MBX_QP_CFG n) 31 false) d1
  { d2 with lci := { d2.lci with cmds := [], qp := [], ready := false },
            str := { d2.str with chan := [], snaps := d2.str.snaps.filter fun s => s.fired.isSome } }

/-- A Ripcord or a shutdown flush begins (R22, R354 steps 1 and 2): the state, the credits with it, the test window, the launch
slots, the streams and the LCI. -/
def flushEntry (F : Fuses) (d : Dev) (why : FlushWhy) (rip : Bool) : Dev :=
  let d1 := Dev.setSvc F (d.marginEnd.measureStop) .flush
  let f : Flush := { why := why, ripcord := rip, step := 2, start := d.tether.now, ripStart := d.tether.now, energy := d.energy,
                     seg := if d.pwr.replayDone then some d.pwr.segNext else none }
  let d2 := { d1 with pwr := { d1.pwr with flush := some f, stopUp := false } }
  let d3 := if rip then d2.icu 83 else d2
  let d4 := if d3.tether.twOpen then d3.windowAbort (d3.tether.twChan / 10) else d3
  let d5 := (List.range 64).foldl (fun d n => d.slotCancel n) d4
  let d6 := cutAll F d5 (if rip then 1 else if why = .device then 7 else 2)
  if why = .device then
    let d7 := { d6 with a := { d6.a with linkUp := false, lstate := 4 }, b := { d6.b with linkUp := false, lstate := 4 } }
    (d7.linkNoted .a d6.a.lstate).linkNoted .b d6.b.lstate
  else d6

/-- A power-down without a flush begins: the rails go down one step at a time (R333, R335, R361). `out`: its outcome, where it
is recorded as a loss. -/
def Dev.downEntry (d : Dev) (why : FlushWhy) (out : Option Nat) : Dev :=
  let d1 := d.marginEnd.measureStop
  { d1 with pwr := { d1.pwr with svc := .flush, flush := none, downing := some why, stopUp := false, ended := out.getD d1.pwr.ended } }

/-- A system reset (R335), with the flush where every rail that Ripcord needs is valid; `bare`: the reaction to an over-voltage.
A reset during a flush lets that flush go on, and the restart follows it (R361); but a flush whose rails have gone ends. -/
def systemReset (F : Fuses) (d : Dev) (bare : Bool) : Dev :=
  if !d.live ∨ d.pwr.downing.isSome then d
  else
    let d1 := Dev.faultLevel F d
    match d1.pwr.flush with
    | some f =>
      let f1 := { f with why := if f.ripcord then f.why else .reset }
      if bare ∨ (!ripReady F d1 ∧ f.step < 6) then { d1 with pwr := { d1.pwr with flush := some { f1 with step := 6 } } }
      else { d1 with pwr := { d1.pwr with flush := some f1 } }
    | none =>
      if bare then d1.downEntry .reset (some 5)
      else if ripReady F d1 then flushEntry F d1 .reset false
      else d1.downEntry .reset (some 4)

end Sys2Proof.Machine
end

