-- ==== Sys2Proof/Machine/SupplyOps.lean ====
section
/-!
DEFINITION. The commands of the power supervisor (spec/13_power_bringup_ripcord.md): rails and their faults (R331 to R335), FAULT_N
(R336, R337), margining (R338), input, PWR_REQ and hold-up (R339 to R343).
-/
namespace Sys2Proof.Machine

/-! ## Rails -/

/-- The controller reads this channel: it drives it, or it only monitors it (R331, R348). -/
def Dev.watched (d : Dev) (n : Nat) : Bool :=
  (d.seqCh n).en || n == 11 || decide ((Tbl.look {} d.pwr.board.chan n).used ∧ (Tbl.look {} d.pwr.board.chan n).role = 3)

/-- A rail becomes valid (R332). -/
def railValid (F : Fuses) (d : Dev) (n : Nat) : Dev :=
  if seqPresent F d n ∧ d.watched n ∧ !(d.seqCh n).valid then
    let d1 := d.sense n
    let c := d1.seqCh n
    let d2 := d1.setSeq n { c with valid := true, pg := c.pg || decide (n ≤ 10) || (Tbl.look {} d.pwr.board.chan n).pgUse }
    { d2 with pwr := { d2.pwr with seqAt := d2.tether.now } }
  else d

/-- A bring-up step that cannot complete (R350): step 0xF with its cause; FAULT_N is held (R336). -/
def stallStep (F : Fuses) (d : Dev) (cause : Nat) : Dev :=
  Dev.faultLevel F { d with pwr := { d.pwr with step := 0xF, cause := cause } }

/-- Channels of the sequence in up order. -/
def upOrder (F : Fuses) (d : Dev) : List (List Nat) := d.phaseA ++ phaseB F d

/-- Group shutdown (R334): every channel of the group goes down in reverse up order, and stays down. -/
def groupDown (F : Fuses) (d : Dev) (n : Nat) : Dev :=
  let g := (Tbl.look {} d.pwr.board.chan n).grp
  let mine (k : Nat) : Bool := decide (12 ≤ k ∧ (Tbl.look {} d.pwr.board.chan k).used ∧ (Tbl.look {} d.pwr.board.chan k).grp = g)
  let l := (upOrder F d).flatten.filter mine
  let rest := ([12, 13, 14, 15].filter mine).filter fun k => !l.contains k
  (rest ++ l.reverse).foldl (fun d k =>
    let d1 := if (d.seqCh k).en then d.drive false k else d
    d1.setSeq k { d1.seqCh k with down := true }) d

/-- A channel's fault code (PSV_SEQ_STSn.last). -/
def railCode : RailFaultKind → Nat
  | .uv => 1
  | .ov => 2
  | .ramp => 3
  | .pg => 4

/-- A fault of a rail, with its reaction (R334). -/
def railReact (F : Fuses) (d : Dev) (n code : Nat) : Dev :=
  let c := Tbl.look {} d.pwr.board.chan n
  let x := d.seqCh n
  let fresh := decide (x.since + 10 ^ 9 ≤ d.tether.now)
  let tries := if fresh then 0 else x.tries
  let again := decide (12 ≤ n ∧ c.react = 1 ∧ tries < c.retries)
  let esc := decide (12 ≤ n ∧ c.react = 1 ∧ c.retries ≤ tries)
  let d1 := ((d.setSeq n { x with valid := false, pg := if code = 4 then false else x.pg, last := code }).event F 0x1001
    (n + code * 16 + b2n esc * 256)).icu 81
  let up := decide (d.pwr.svc = .bringup) && (d.pwr.step == 1 || d.pwr.step == 6)
  let stall (d : Dev) : Dev := if up then stallStep F d 5 else d
  if n = 11 then { (Dev.postAll F (Dev.faultLevel F d1) .fail .other 0x1001) with pwr := { (Dev.faultLevel F d1).pwr with aonLost := true } }
  else if n ≤ 10 then
    let d2 := systemReset F d1 (decide (code = 2))
    if up then { d2 with pwr := { d2.pwr with step := 0xF, cause := 5 } } else d2
  else if again then
    let d2 := d1.drive false n
    d2.setSeq n { d2.seqCh n with tries := tries + 1, since := if tries = 0 then d.tether.now else x.since, offAt := d.tether.now }
  else if esc ∨ c.react = 2 then stall (groupDown F d1 n).faultPulse
  else if c.react = 3 then
    let d2 := systemReset F d1 false
    if up then { d2 with pwr := { d2.pwr with step := 0xF, cause := 5 } } else d2
  else stall d1

/-- A rail that is valid faults (R332): a power-good fault only where PG is part of validity. -/
def railFault (F : Fuses) (d : Dev) (n : Nat) (kind : RailFaultKind) : Dev :=
  let pgUse := decide (n ≤ 10) || (Tbl.look {} d.pwr.board.chan n).pgUse
  if !seqPresent F d n then d
  else match kind with
    | .ramp => if (d.seqCh n).en ∧ !(d.seqCh n).valid then railReact F d n 3 else d
    | .pg => if (d.seqCh n).valid ∧ pgUse then railReact F d n 4 else d
    | k => if (d.seqCh n).valid then railReact F d n (railCode k) else d

/-- Not valid within ramp_ms of its enable (R333). -/
def railRamp (F : Fuses) (d : Dev) (n : Nat) : Dev :=
  if seqPresent F d n ∧ (d.seqCh n).en ∧ !(d.seqCh n).valid then railReact F d n 3 else d

/-- The steps that the present bring-up step sequences: phase A in 0x1, phase B in 0x6 with board channels of phase A that the
newly accepted block has added. -/
def seqSteps (F : Fuses) (d : Dev) : List (List Nat) :=
  if decide (d.pwr.svc = .bringup) && d.pwr.downing.isNone && d.pwr.flush.isNone then
    (if d.pwr.step = 1 then d.phaseA else if d.pwr.step = 6 then d.phaseA ++ phaseB F d else [])
  else []

/-- The channel may be driven: not shut down with its group, and not waiting for a retry. -/
def Dev.rises (d : Dev) (n : Nat) : Bool := !(d.seqCh n).down && !(d.seqCh n).en && (d.seqCh n).tries == 0

/-- The next sequence step (R333): up, 0.5 ms after every rail of the steps before is valid; down, the last step still enabled. PWR_REQ asserted
again on the way down leads back up from the safe point, or after Off where the phase A rails have begun to go (R361). -/
def sequenceStep (F : Fuses) (d : Dev) : Dev :=
  match d.pwr.downing with
  | some why =>
    let back := d.pwr.upAgain && d.pwr.inputOk && d.pwr.pwrReq
    if back ∧ (d.phaseA.flatten.all fun n => (d.seqCh n).en || (d.seqCh n).down) ∧ !((phaseB F d).flatten.any fun n => (d.seqCh n).en) then d.safePoint
    else match (upOrder F d).reverse.find? fun l => l.any fun n => (d.seqCh n).en with
    | some l => (l.filter fun n => (d.seqCh n).en).foldl (fun d n => d.drive false n) d
    | none =>
      let e := offEnter F (([12, 13, 14, 15].filter fun n => (d.seqCh n).en).foldl (fun d n => d.drive false n) d) why false
      if back then e.tryUp else e
  | none =>
    let l := seqSteps F d
    match l.findIdx? fun x => x.any d.rises with
    | none => d
    | some i =>
      if (l.take i).flatten.all fun n => (d.seqCh n).valid || (d.seqCh n).down then
        ((l.getD i []).filter d.rises).foldl (fun d n => d.drive true n) (if i = 0 then d else d.advance (d.pwr.seqAt + 500000))
      else d

/-- 10 ms after a retry (R334). -/
def railRetry (d : Dev) (n : Nat) : Dev :=
  let x := d.seqCh n
  if 12 ≤ n ∧ !x.en ∧ !x.down ∧ 0 < x.tries ∧ d.live ∧ d.pwr.downing.isNone then (d.advance (x.offAt + 10000000)).drive true n else d

/-- Bring-up starts again 10 ms or more after the rails are down (R335, R361, R370). -/
def restartNow (d : Dev) : Dev :=
  match d.pwr.restartAt with
  | some t => if Dev.mayStart { d with pwr := { d.pwr with restartAt := none } } then (d.advance t).bringup 1 else d
  | none => d

/-! ## FAULT_N -/

/-- A low period ends as a notice (R337); the controller's own drive is not classified. -/
def noticeSeen (F : Fuses) (d : Dev) : Dev :=
  if d.pwr.drive ∨ d.pwr.pulse then d
  else ({ d with pwr := { d.pwr with extPulse := true, pinLow := false } }.event F 0x1002 0).icu 85

/-- A low period longer than 1 ms (R337), with the reaction that ext_react names. -/
def faultSeen (F : Fuses) (d : Dev) : Dev :=
  if d.pwr.drive ∨ d.pwr.pulse then d
  else
    let d1 := ({ d with pwr := { d.pwr with extLevel := true, pinLow := true } }.event F 0x1002 1).icu 85
    let hold (d : Dev) : Dev := { d with pwr := { d.pwr with extHold := true } }
    match d.pwr.board.extReact with
    | 1 =>
      match d.pwr.svc with
      | .bringup => (hold d1).downEntry .extFault none
      | .reduced | .full => flushEntry F (hold d1) .extFault false
      | _ => hold d1
    | 2 => systemReset F d1 false
    | _ => d1

/-- FAULT_N returns high (R337): a controller held Off starts bring-up 10 ms later. -/
def faultGone (d : Dev) : Dev :=
  let p := d.pwr
  let held := p.extHold
  { d with pwr := { p with pinLow := p.drive || p.pulse, extHold := false
                           restartAt := if held ∧ p.svc = .off then some (d.tether.now + 10000000) else p.restartAt } }

/-- The 100 µs of a pulse end, and the line is sampled 10 µs later (R336). -/
def pulseEnd (d : Dev) (still : Bool) : Dev :=
  if d.pwr.pulse then
    let d1 := (d.advance (d.pwr.pulseAt + 110000)).emit (.faultN false false)
    { d1 with pwr := { d1.pwr with pulse := false, pinLow := still || d1.pwr.drive } }
  else d

/-! ## Margining -/

/-- A write of PSV_MARGIN (R338). -/
def marginWrite (d : Dev) (v : Nat) : Dev :=
  let pct := bits v 11 8
  let ch := bits v 3 0
  let dir := if bits v 5 4 = 3 then d.fld PSV_MARGIN 5 4 else bits v 5 4
  let other : Bool := match d.pwr.margin with
    | some (c, _, _) => c != ch
    | none => false
  if d.pwr.svc ≠ .full ∨ !d.pwr.board.valid ∨ d.pwr.board.marginCh ≠ some ch ∨ 10 < pct ∨ other then d
  else
    let d1 := d.setReg PSV_MARGIN (BitVec.ofNat 32 (ch + dir * 16 + pct * 256))
    if dir = 0 then
      match d.pwr.margin with
      | some _ =>
        let d2 := d1.emit (.margin ch 0 0)
        let d3 := d2.advance (d2.tether.now + 1000000)
        { d3 with pwr := { d3.pwr with margin := none } }
      | none => d1
    else
      let d2 := d1.setArmed false
      ({ d2 with pwr := { d2.pwr with margin := some (ch, dir, pct) } }).emit (.margin ch dir pct)

/-! ## Input, PWR_REQ, hold-up -/

/-- Thresholds of the input, in 10 mV: the block's, or the defaults of R339. -/
def Dev.vinOk (d : Dev) : Nat := if d.pwr.board.valid then d.pwr.board.vinOk else 1100
def Dev.vinFail (d : Dev) : Nat := if d.pwr.board.valid then d.pwr.board.vinFail else 1050

/-- Leave the restart limit (R335). -/
def Dev.unlimit (d : Dev) : Dev :=
  if d.pwr.limited then ({ d with pwr := { d.pwr with limited := false, cause := 0, resets := [] } }).faultRelease else d

/-- The input has stayed at `vin` or above for 10 ms. -/
def inputGood (d : Dev) (vin : Nat) : Dev :=
  let d1 := { d with pwr := { d.pwr with vin := min vin 0xFFFF } }
  if d.vinOk ≤ vin then Dev.tryUp { d1 with pwr := { d1.pwr with inputOk := true } } else d1

/-- The input has stayed at `vin` or below for 2 µs (R339, R341, R356, R361). -/
def inputBad (d : Dev) (vin : Nat) : Dev :=
  let d1 := { d with pwr := { d.pwr with vin := min vin 0xFFFF } }
  if d.vinFail ≤ vin then d1
  else
    let d2 := Dev.measureStop { d1 with pwr := { d1.pwr with inputOk := false } }
    match d2.pwr.svc, d2.pwr.flush with
    | .off, _ => d2.unlimit
    | .rest, _ => { d2 with pwr := { d2.pwr with svc := .off, restartAt := none } }
    | _, some f =>
      if f.ripcord then d2
      else ({ d2 with pwr := { d2.pwr with
        flush := some { f with ripcord := true, ripStart := d2.tether.now, energy := d2.energy } } }).icu 83
    | _, none => d2

/-- PWR_REQ rises (R340, R361). -/
def reqUp (d : Dev) : Dev :=
  let d1 := ({ d with pwr := { d.pwr with pwrReq := true } }).icuLive 84
  if d.pwr.pwrReq then d
  else match d1.pwr.svc with
    | .off => d1.unlimit.tryUp
    | .flush =>
      let rip : Bool := match d1.pwr.flush with
        | some f => f.ripcord || !decide (f.why = .pwrReq ∨ f.why = .rest)
        | none => !decide (d1.pwr.downing = some .pwrReq ∨ d1.pwr.downing = some .rest)
      if rip then d1 else { d1 with pwr := { d1.pwr with upAgain := true } }
    | _ => d1

/-- PWR_REQ falls (R340, R361). -/
def reqDown (F : Fuses) (d : Dev) : Dev :=
  let d1 := ({ d with pwr := { d.pwr with pwrReq := false } }).icuLive 84
  if !d.pwr.pwrReq then d
  else match d1.pwr.svc with
    | .bringup =>
      if d1.pwr.step = 0xF then d1.downEntry .pwrReq none else { d1 with pwr := { d1.pwr with stopUp := true } }
    | .reduced | .full => flushEntry F d1 .pwrReq false
    | .rest => { d1 with pwr := { d1.pwr with svc := .off, restartAt := none } }
    | .flush => { d1 with pwr := { d1.pwr with upAgain := false } }
    | .off => d1

/-- A hold-up measurement starts, at bring-up and every 24 hours, with the bank at vh_full (R341). -/
def measureStart (d : Dev) (vh : Nat) : Dev :=
  let p := d.pwr
  match d.roleChan 1, d.roleChan 2 with
  | some ch, some ld =>
    if d.live ∧ p.downing.isNone ∧ p.flush.isNone ∧ p.inputOk ∧ !p.measuring ∧ 10 * p.board.vhFull ≤ vh ∧
        (p.cap.isNone ∨ p.lastMeasure + 24 * 3600 * 10 ^ 9 ≤ d.tether.now) then
      let d1 := { d with pwr := { p with vh := vh, measuring := true, lastMeasure := d.tether.now } }
      (d1.drive false ch).drive true ld
    else d
  | _, _ => d

/-- The bank has fallen from vh_full to 0.95 × vh_full in this time, or the measurement stops (R341). C is in 0.1 µF, rounded down;
ln(1 / 0.95) is 0.0512932943875506. -/
def measureEnd (d : Dev) (ns : Nat) (completed : Bool) : Dev :=
  if !d.pwr.measuring then d
  else
    let d1 := d.measureStop
    let r := d.pwr.board.rTest
    if completed ∧ ns ≤ 500000000 ∧ d.pwr.inputOk ∧ 0 < r then
      let d2 := d1.advance (d.pwr.lastMeasure + ns)
      { d2 with pwr := { d2.pwr with cap := some (min (ns * 10 ^ 14 / (r * 512932943875506)) 0xFFFFFF) } }
    else d1

/-- Entries with a write acknowledged while Gondola was armed are still in it (R74, R343). -/
def Dev.coveredLeft (d : Dev) : Bool :=
  (d.gon.staged ++ d.gon.wb).any fun e => match e.2 with
    | some g => g.covered && !g.gone
    | none => false

/-- The evaluation of every 10 µs (R342, R343). -/
def armEval (F : Fuses) (d : Dev) (vh : Nat) : Dev :=
  let d0 := d.tick 2 10000
  let d1 := { d0 with pwr := { d0.pwr with vh := vh } }
  let p := d1.pwr
  let base := p.inputOk && p.replayDone && p.cap.isSome && p.margin.isNone && p.board.valid && decide (p.svc = .reduced ∨ p.svc = .full)
  let low := !d1.energyAtLeast (p.board.disarmPct * eRip F)
  let d2 := if p.measuring && p.cap.isSome && low then d1.measureStop else d1
  let d3 := if base && d2.energyAtLeast (p.board.armPct * eRip F) then d2.setArmed true
    else if !base || low then d2.setArmed false else d2
  let d4 := if d3.gon.staged.isEmpty then { d3 with gon := { d3.gon with withdrawn := false } } else d3
  if !d4.gon.armed ∧ d4.coveredLeft ∧ !d4.energyAtLeast (105 * eRip F) ∧ p.inputOk ∧ (p.svc = .reduced ∨ p.svc = .full) then
    flushEntry F (d4.icu 82) .protective false
  else d4

/-! ## Commands -/

/-- RAIL_VALID (R332). -/
def execRailValid (ch : Fin 16) (s : State) : Host.Outcome State Fault Refusal := .next { s with dev := railValid s.fuse s.dev ch.val }

/-- RAIL_FAULT (R332, R334). -/
def execRailFault (ch : Fin 16) (kind : RailFaultKind) (s : State) : Host.Outcome State Fault Refusal :=
  .next { s with dev := railFault s.fuse s.dev ch.val kind }

/-- RAIL_RAMP_TIMEOUT (R333, R334). -/
def execRailRampTimeout (ch : Fin 16) (s : State) : Host.Outcome State Fault Refusal :=
  .next { s with dev := railRamp s.fuse s.dev ch.val }

/-- SEQUENCE_STEP (R333). -/
def execSequenceStep (s : State) : Host.Outcome State Fault Refusal := .next { s with dev := sequenceStep s.fuse s.dev }

/-- RAIL_RETRY (R334). -/
def execRailRetry (ch : Fin 16) (s : State) : Host.Outcome State Fault Refusal := .next { s with dev := railRetry s.dev ch.val }

/-- SYSTEM_RESET (R335). -/
def execSystemReset (s : State) : Host.Outcome State Fault Refusal := .next { s with dev := systemReset s.fuse s.dev false }

/-- RESTART_AFTER_OFF (R335). -/
def execRestartAfterOff (s : State) : Host.Outcome State Fault Refusal := .next { s with dev := restartNow s.dev }

/-- FAULT_N_PULSE_END (R336). -/
def execFaultNPulseEnd (stillLow : Bool) (s : State) : Host.Outcome State Fault Refusal :=
  .next { s with dev := pulseEnd s.dev stillLow }

/-- FAULT_N_NOTICE (R337). -/
def execFaultNNotice (s : State) : Host.Outcome State Fault Refusal := .next { s with dev := noticeSeen s.fuse s.dev }

/-- FAULT_N_FAULT (R337). -/
def execFaultNFault (s : State) : Host.Outcome State Fault Refusal := .next { s with dev := faultSeen s.fuse s.dev }

/-- FAULT_N_RELEASED (R337). -/
def execFaultNReleased (s : State) : Host.Outcome State Fault Refusal := .next { s with dev := faultGone s.dev }

/-- A head's write reaches the register: the head exists in the class (R437). -/
def viaHead (F : Fuses) (d : Dev) (h : Head) (f : Dev → Dev) : Dev := if presentHead F h then f d else d

/-- MARGIN_SET (R338). -/
def execMarginSet (h : Head) (value : Reg32) (s : State) : Host.Outcome State Fault Refusal :=
  .next { s with dev := viaHead s.fuse s.dev h fun d => marginWrite d value.toNat }

/-- MARGIN_CLEAR (R338). -/
def execMarginClear (h : Head) (value : Reg32) (s : State) : Host.Outcome State Fault Refusal :=
  .next { s with dev := viaHead s.fuse s.dev h fun d => marginWrite d value.toNat }

/-- INPUT_VALID (R339). -/
def execInputValid (vin : Nat) (s : State) : Host.Outcome State Fault Refusal := .next { s with dev := inputGood s.dev vin }

/-- INPUT_FAIL (R339). -/
def execInputFail (vin : Nat) (s : State) : Host.Outcome State Fault Refusal := .next { s with dev := inputBad s.dev vin }

/-- PWR_REQ_ASSERT (R340). -/
def execPwrReqAssert (s : State) : Host.Outcome State Fault Refusal := .next { s with dev := reqUp s.dev }

/-- PWR_REQ_DEASSERT (R340). -/
def execPwrReqDeassert (s : State) : Host.Outcome State Fault Refusal := .next { s with dev := reqDown s.fuse s.dev }

/-- HOLDUP_MEASURE_START (R341). -/
def execHoldupMeasureStart (vhMv : Nat) (s : State) : Host.Outcome State Fault Refusal := .next { s with dev := measureStart s.dev vhMv }

/-- HOLDUP_MEASURE_END (R341). -/
def execHoldupMeasureEnd (fallNs : Nat) (completed : Bool) (s : State) : Host.Outcome State Fault Refusal :=
  .next { s with dev := measureEnd s.dev fallNs completed }

/-- ARMING_EVALUATION (R342, R343). -/
def execArmingEvaluation (vhMv : Nat) (s : State) : Host.Outcome State Fault Refusal :=
  .next { s with dev := armEval s.fuse s.dev vhMv }

end Sys2Proof.Machine
end

