-- ==== Sys2Proof/Machine/BringupOps.lean ====
section
/-!
DEFINITION. Bring-up (spec/13_power_bringup_ripcord.md R346 to R351): the checker self-test and SRAM repair (R192, R193, R195), the
core pairs (R315), the board configuration block (R346 to R349), the image (R327, R328), the media (R136, R445, R446) and the
kept settings (R441).
-/
namespace Sys2Proof.Machine

/-! ## Board configuration block -/

/-- Nominal pin voltage and default window of a fixed channel, in 0.5 mV, rounded down (R331). -/
def railPin : Nat → Nat × Nat × Nat
  | 0 => (1500, 1425, 1575)
  | 1 => (1700, 1615, 1785)
  | 2 => (1800, 1710, 1890)
  | 3 => (1800, 1710, 1890)
  | 4 => (1200, 1140, 1260)
  | 5 => (2200, 2090, 2310)
  | 11 => (1600, 1504, 1696)
  | _ => (1250, 1187, 1312)

/-- A little-endian field of a copy. -/
def bcField (b : List Nat) (off n : Nat) : Nat := leNat ((b.drop off).take n)

/-- A channel record (R348). -/
def bcChan (b : List Nat) (n : Nat) : ChanCfg :=
  let o := 52 + 12 * n
  let flags := bcField b (o + 6) 1
  if n < 12 then { uv := bcField b o 2, ov := bcField b (o + 2) 2 }
  else
    { uv := bcField b o 2, ov := bcField b (o + 2) 2, rampMs := bcField b (o + 4) 1, filt := bcField b (o + 5) 1 % 8
      pgUse := bit flags 0, used := bit flags 1, react := bits flags 3 2, retries := bits flags 5 4
      role := bcField b (o + 7) 1, grp := bcField b (o + 8) 1, after := bcField b (o + 9) 1 }

/-- An override of a fixed channel's window is within 10% of nominal, and uv stays below ov (R346). -/
def bcWindow (b : List Nat) (n : Nat) : Bool :=
  let c := bcChan b n
  let (nom, uv, ov) := railPin n
  let u := if c.uv = 0 then uv else c.uv
  let o := if c.ov = 0 then ov else c.ov
  decide (u < o ∧ (c.uv = 0 ∨ 9 * nom ≤ 10 * c.uv) ∧ 10 * c.ov ≤ 11 * nom)

/-- The after field leads to channel 4 or 10 in a number of steps: it names no other channel and forms no cycle (R346). -/
def bcRoot (b : List Nat) : Nat → Nat → Bool
  | 0, _ => false
  | k + 1, n =>
    let a := (bcChan b n).after
    a == 4 || a == 10 || (decide (12 ≤ a ∧ a < 16) && bcRoot b k a)

/-- Dies per quadrant as a copy names them. -/
def bcDies (b : List Nat) (q : Nat) : Nat := bits (bcField b 18 2) (4 * q + 3) (4 * q)

/-- Quadrants of the class (R1). -/
def quadrants (F : Fuses) : List Nat := if F.cls = .s then [0, 1] else [0, 1, 2, 3]

/-- GPIO pins with a role. -/
def bcPins (b : List Nat) (role : Nat) : List Nat := (List.range 8).filter fun p => bcField b (24 + p) 1 % 16 == role

/-- The port mode that a copy names, where the class offers it (R34); a class that does not runs in single mode. -/
def bcMode (F : Fuses) (b : List Nat) : PortMode :=
  if F.cls = .l then (match bits (bcField b 16 1) 1 0 with
    | 1 => .bonded
    | 2 => .dualHead
    | _ => .single)
  else .single

/-- A copy passes every check of R346. -/
def bcOk (F : Fuses) (b : List Nat) : Bool :=
  let len := bcField b 6 2
  let head := b.take 4 == [0x43, 0x56, 0x42, 0x43] && decide (bcField b 4 2 = 1 ∧ 244 ≤ len ∧ len ≤ 32768 ∧ len ≤ b.length)
  let crc := decide (crc32c ((b.take len).drop 12) = bcField b 8 4)
  let dies := (List.range 4).all fun q =>
    if (quadrants F).contains q then [1, 2, 4, 8].contains (bcDies b q) else bcDies b q == 0
  let supply := decide (bcField b 34 2 < bcField b 36 2 ∧ bcField b 42 2 < bcField b 40 2 ∧ 50 ≤ bcField b 46 1 ∧ bcField b 46 1 ≤ 100 ∧
    105 ≤ bcField b 48 1 ∧ bcField b 48 1 < bcField b 47 1)
  let gib := 448 * ((quadrants F).foldl (fun n q => n + bcDies b q) 0)
  let part := bcMode F b != .dualHead || decide (bcField b 20 2 ≤ bcField b 22 2 ∧ bcField b 22 2 ≤ gib)
  let board := [12, 13, 14, 15].filter fun n => (bcChan b n).used
  let once (r : Nat) : Bool := decide ((board.filter fun n => (bcChan b n).role == r).length ≤ 1)
  let widths := bcField b 17 1
  head && crc && dies && (List.range 12).all (bcWindow b) && supply && part && board.all (bcRoot b 4) &&
    decide ((bcPins b 4).length ≤ 1 ∧ (bcPins b 5).length ≤ 1) && once 1 && once 2 &&
    decide (bits widths 1 0 ≤ (if F.cls = .s then 1 else 0) ∧ (F.cls ≠ .l ∨ bits widths 3 2 = 0))

/-- The copy that is used: the higher seq, the primary on a tie (R346). -/
def bcPick (F : Fuses) (p b : List Nat) : Option (List Nat) :=
  match bcOk F p, bcOk F b with
  | true, true => if bcField p 12 4 < bcField b 12 4 then some b else some p
  | true, false => some p
  | false, true => some b
  | false, false => none

/-- The channel that has a margin interface: both pins name it (R338, R347). -/
def bcMargin (b : List Nat) : Option Nat :=
  match bcPins b 4, bcPins b 5 with
  | [p], [q] => if bcField b (24 + p) 1 / 16 = bcField b (24 + q) 1 / 16 then some (bcField b (24 + p) 1 / 16) else none
  | _, _ => none

/-- The block as the controller holds it (R347). -/
def bcBoard (F : Fuses) (b : List Nat) : Board :=
  let dual := bcMode F b == .dualHead
  { valid := true, mode := bcMode F b, ptmB := bit (bcField b 16 1) 2, widthA := bits (bcField b 17 1) 1 0
    widthB := bits (bcField b 17 1) 3 2, split := if dual then bcField b 20 2 else 0, share := if dual then bcField b 22 2 else 0
    marginCh := bcMargin b, vinDiv := bcField b 32 2, vinFail := bcField b 34 2, vinOk := bcField b 36 2, holdDiv := bcField b 38 2
    vhFull := bcField b 40 2, vhMin := bcField b 42 2, rTest := bcField b 44 2, eta := bcField b 46 1, armPct := bcField b 47 1
    disarmPct := bcField b 48 1, extReact := bcField b 49 1 % 4
    chan := (List.range 16).foldl (fun t n => Tbl.put {} t n (bcChan b n)) []
    hash := Config.sha384 (b.take (bcField b 6 2)) }

/-- The block takes effect (R347, R442); a mode that the class does not offer is recorded (R34). -/
def bcTake (F : Fuses) (d : Dev) (b : List Nat) : Dev :=
  let named := bits (bcField b 16 1) 1 0
  let gpio := (List.range 8).foldl (fun t p => Tbl.put {} t p { role := bcField b (24 + p) 1 % 16 }) []
  let dies := (quadrants F).foldl (fun t q => Tbl.put 0 t q (bcDies b q)) []
  let d1 := { d with pwr := { d.pwr with board := bcBoard F b }, gpio := gpio, media := { d.media with dies := dies } }
  if named = 3 ∨ (named ≠ 0 ∧ F.cls ≠ .l) then d1.event F 0x2002 0 else d1

/-! ## Images -/

/-- Bytes of an image slot: 0 slot A, 1 slot B. -/
def Dev.imageBytes (d : Dev) (slot off n : Nat) : List Nat :=
  (List.range n).map fun i => Tbl.look 0 (if slot = 0 then d.images.a else d.images.b) (off + i)

/-- The checks of R327. -/
def imageOk (F : Fuses) (d : Dev) (slot : Nat) : Bool :=
  let b := d.imageBytes slot 0 256
  let f (o n : Nat) : Nat := leNat ((b.drop o).take n)
  let len := f 12 4
  let sig (o : Nat) (key : BitVec 384) : Bool :=
    Config.ecdsa key (b.take 64) (BitVec.ofNat 384 (f o 48)) (BitVec.ofNat 384 (f (o + 48) 48))
  b.take 4 == [0x43, 0x56, 0x46, 0x57] && decide (f 8 1 ≤ 64 ∧ f 9 1 < 2 ∧ f 10 2 = 0 ∧ len % 256 = 0 ∧ len ≤ 8388352) &&
    decide ((Config.sha384 (d.imageBytes slot 256 len)).toNat = f 16 48) && sig 64 F.vendorKey &&
    (!F.ownerSig || sig 160 F.ownerKey) && decide (d.images.floor ≤ f 8 1)

/-- The slot the boot code takes (R328): the selected one, else the other. -/
def bootSlot (F : Fuses) (d : Dev) : Option Nat :=
  if imageOk F d d.keel.sel then some d.keel.sel
  else if imageOk F d (1 - d.keel.sel) then some (1 - d.keel.sel) else none

/-- The image in a slot starts (R328). -/
def imageStart (F : Fuses) (d : Dev) (slot : Nat) : Dev :=
  let b := d.imageBytes slot 0 256
  let fb := decide (slot ≠ d.keel.sel)
  let d1 := { d with images := { d.images with running := slot, fallback := fb, svn := b.getD 8 0, ver := leNat ((b.drop 4).take 4)
                                               raiseFloor := b.getD 9 0 % 2 == 1 }
                     lci := { d.lci with rmBoot := false }
                     cores := { d.cores with standbyOk := d.cores.a.ok && d.cores.b.ok, lastCheckpoint := d.tether.now } }
  if fb then d1.event F 0x6004 d.keel.sel else d1

/-! ## Media -/

/-- SLC pairs of an area that fall to the i-th populated group: metadata 29,080 per copy over 32 groups, gap region and replay ring
32 per group, drift ledger 1 per group (R223, R446). -/
def areaPairs (area i : Nat) : Nat :=
  match area with
  | 0 | 1 => ((i + 1) * 3635 + 3) / 4 - (i * 3635 + 3) / 4
  | 2 | 3 => 32
  | _ => 1

/-- The areas of the fixed reserve where there is no root map: the lowest indices of each populated group (R446). -/
def Dev.areasNew (d : Dev) : List Area :=
  (d.popGroups.zipIdx).flatMap fun e =>
    ((List.range 5).foldl (fun (acc : List Area × Nat) a =>
      let n := areaPairs a e.2
      (acc.1 ++ [⟨a, e.1, (d.grp e.1).layWidth, acc.2, n⟩], acc.2 + 2 * n)) ([], 0)).1

/-- The stripe groups of the configured dies, with their members as the member record holds them (R136, R445). -/
def Dev.groupsLoad (d : Dev) : Dev :=
  (List.range 32).foldl (fun (d : Dev) g =>
    if g % 8 < d.diesPer (g / 8) then
      match d.memberRead g with
      | some w => d.setGrp g { populated := true, members := w % 1024, failedM := w / 1024 % 1024, absent := w % 2 ^ 20 == 0 }
      | none => d.setGrp g { populated := true }
    else d) d

/-- Every populated channel is trained or failed. -/
def mediaReady (F : Fuses) (d : Dev) : Bool :=
  (List.range 40).all fun n =>
    !presentChan F n || d.diesPer (n / 10) == 0 || (d.chan n).trained || (d.chan n).failed

/-- The drift ledger's mirrored copy is loaded: weak-byte maps and threshold sets; every class is unsurveyed (R183). -/
def Dev.ledgerLoad (d : Dev) : Dev :=
  let d1 := d.drift.weakSaved.foldl (fun d e => d.setCtl e.1 { d.ctl e.1 with weak := e.2 }) d
  let d2 := d1.drift.thrSaved.foldl (fun d e =>
    d.setDie e.1 { d.die e.1 with feat := e.2.foldl (fun t x => Tbl.put 0 t x.1 x.2) (d.die e.1).feat }) d1
  { d2 with drift := { d2.drift with cls := [] } }

/-- Step 0x7's loads: the metadata root, the ledger, the kept settings (R183, R441, R446). -/
def Dev.mediaLoad (d : Dev) : Dev :=
  let d1 := d.ledgerLoad.restoreCfg
  if d1.tracts.areas.isEmpty then Dev.rootPut { d1 with tracts := { d1.tracts with areas := d1.areasNew } } else d1

/-! ## The steps -/

/-- Tether after VDD_AON or the oscillator has failed (R101). -/
def Dev.coldStart (d : Dev) : Dev :=
  let base := max d.keel.tetherSaved (d.keel.opmin * (60 * 10 ^ 9))
  let t := d.tether
  { d with pwr := { d.pwr with aonLost := false }
           tether := { t with now := min ((base + 10 ^ 9 - 1) / 10 ^ 9 * 10 ^ 9 + 10 ^ 9) (2 ^ 64 - 1), cold := true, acc := 0, acc64 := 0 } }

/-- The CXL mailbox settings that the Keel store holds (R379): items 0x100 and 0x110 plus the head's number. -/
def Dev.restoreMail (d : Dev) : Dev :=
  let v (i : Nat) : Nat := ((d.keel.settings.find? fun e => e.1 == i).map fun e => e.2).getD 0
  { d with a := { d.a with alertCfg := v 0x100, shutdownState := v 0x110 }
           b := { d.b with alertCfg := v 0x101, shutdownState := v 0x111 } }

/-- Step 0x2 (R350): the Keel rings, pcyc, SRAM repair and checkers. The outcomes of tests come in `inp`: 0 or 1 plus the store and
macro that cannot be used; channels whose decoder or CRC generator fails, by bit; macros on correction; 1 where the 32.768 kHz oscillator has
failed since the last save (R101); cache ways with a macro on correction, by bit (R82); new soft repairs. -/
def stepFuses (F : Fuses) (d : Dev) (inp : List Nat) : Dev :=
  let d0 := (keelScan F d).restoreMail
  let d1 := if d0.pwr.aonLost ∨ inp.getD 3 0 ≠ 0 then d0.coldStart else d0
  let k := d1.keel
  let new := (inp.drop 5).take (61 - k.repairs.length)
  let reps := k.repairs ++ new
  let bad := inp.getD 0 0
  let d2 := { d1 with keel := { k with pcyc := (k.pcyc + 1) % 2 ^ 32, repairs := reps }
                      drift := { d1.drift with checkers := true, sramFail := decide (bad ≠ 0), sramRepairs := k.repairs.length
                                               badChan := inp.getD 1 0, onCorr := min (inp.getD 2 0) 0xFF }
                      cache := { d1.cache with badWays := (List.range 12).filter fun w => bit (inp.getD 4 0) w }
                      sec := { d1.sec with rngOk := true, ladderOk := true } }
  let d3 := d2.lifePut
  let d4 := if new.isEmpty then d3 else d3.ringPut .repairs ([reps.length, 0, 0] ++ reps.flatMap (leBytes 4))
  let d5 := d4.faultRelease
  if bad = 0 then { d5 with pwr := { d5.pwr with step := 3 } } else stallStep F (d5.event F 0x3005 (bad - 1)) 3

/-- Step 0x3 (R315): which pairs pass their lockstep self-test. -/
def stepCores (F : Fuses) (d : Dev) (aOk bOk : Bool) : Dev :=
  let c : Cores := { a := { ok := aOk, failed := !aOk, fenced := !aOk, pet := d.tether.now }
                     b := { ok := bOk, failed := !bOk, fenced := !bOk, pet := d.tether.now }
                     active := if aOk then .a else .b, dead := !aOk && !bOk }
  let d1 := { d with cores := c, lci := { d.lci with rmBoot := true } }
  if aOk ∨ bOk then { d1 with pwr := { d1.pwr with step := 4 } } else stallStep F d1 4

/-- Step 0x4 (R346 to R349): `inp` is the primary's length, its bytes and the backup's bytes. -/
def stepConfig (F : Fuses) (d : Dev) (inp : List Nat) : Dev :=
  let n := inp.getD 0 0
  match bcPick F ((inp.drop 1).take n) (inp.drop (1 + n)) with
  | some b =>
    let d1 := bcTake F d b
    { d1 with pwr := { d1.pwr with step := 5 } }
  | none => stallStep F ({ d with pwr := { d.pwr with board := {} } }.event F 0x1003 0) 1

/-- Step 0x5 (R328). -/
def stepImage (F : Fuses) (d : Dev) : Dev :=
  match bootSlot F d with
  | some s =>
    let d1 := (imageStart F d s).icu 102
    { d1 with pwr := { d1.pwr with step := 6 } }
  | none => stallStep F d 2

/-- The work of the present step, as far as it can complete. Steps 0x8 and 0x9 are the replay recovery's. -/
def stepWork (F : Fuses) (d : Dev) (inp : List Nat) : Dev :=
  let p := d.pwr
  let up (l : List (List Nat)) : Bool := l.flatten.all fun n => (d.seqCh n).valid
  match p.step with
  | 1 => if up d.phaseA then { d.faultRelease with pwr := { d.faultRelease.pwr with step := 2 } } else d
  | 2 => stepFuses F d inp
  | 3 => stepCores F d (inp.getD 0 1 != 0) (inp.getD 1 1 != 0)
  | 4 => stepConfig F d inp
  | 5 => stepImage F d
  | 6 =>
    if up (d.phaseA ++ phaseB F d) then
      let d1 := d.groupsLoad
      { d1 with pwr := { d1.pwr with step := 7 } }
    else d
  | 7 =>
    if mediaReady F d then
      let d1 := d.mediaLoad
      { d1 with pwr := { d1.pwr with step := 8 } }
    else d
  | 10 =>
    if d.drift.surveyDone ∧ (!p.scrubFirst ∨ 0 < d.drift.scrubPass) then
      let d1 := d.setSvc F .full
      { d1 with pwr := { d1.pwr with step := 11, scrubFirst := false } }
    else d
  | _ => d

/-- BRINGUP_STEP: the step's work, unless the Forax port holds bring-up (R411); PWR_REQ that has fallen takes the rails down at the
end of the step (R361). -/
def bringupStep (F : Fuses) (d : Dev) (inp : List Nat) : Dev :=
  let run := decide (d.pwr.svc = .bringup ∨ (d.pwr.svc = .reduced ∧ d.pwr.step = 10)) && !d.dbg.hold && d.pwr.flush.isNone
  if !run then d
  else
    let d1 := stepWork F d inp
    if d1.pwr.stopUp ∧ d1.pwr.step ≠ d.pwr.step ∧ d1.pwr.svc = .bringup then d1.downEntry .pwrReq none else d1

/-- BRINGUP_STEP (R350). -/
def execBringupStep (inp : List Nat) (s : State) : Host.Outcome State Fault Refusal :=
  .next { s with dev := bringupStep s.fuse s.dev inp }

end Sys2Proof.Machine
end

