-- ==== Sys2Proof/Machine/ThermalOps.lean ====
section
/-!
DEFINITION. Temperature (spec/14_thermal.md): sensors and the housekeeping round (R362 to R365), junction conditions (R369) and
thermal shutdown (R370).
-/
namespace Sys2Proof.Machine

/-- Neighbours of an on-die sensor (R362). -/
def sensorNear (i : Nat) : List Nat :=
  match i with
  | 0 => [2, 3, 7]
  | 1 => [2, 4, 10]
  | 2 => [3, 4, 5, 6]
  | 3 => [0, 2, 5, 7]
  | 4 => [1, 2, 6, 10]
  | 5 => [2, 3, 8]
  | 6 => [2, 4, 9]
  | 7 => [0, 3, 8]
  | 8 => [5, 7, 12]
  | 9 => [6, 10, 12]
  | 10 => [1, 4, 9]
  | 11 => [2, 12, 13]
  | 12 => [8, 9, 11]
  | 13 => [2, 11, 12]
  | _ => []

/-- Neighbours of a die's sensor (R362): die positions d ± 1 on its channel, channel positions p ± 1 of its quadrant. -/
def dieNear (m : Nat) : List Nat :=
  let n := m / 8
  (if 0 < m % 8 then [m - 1] else []) ++ (if m % 8 < 7 then [m + 1] else []) ++
    (if 0 < n % 10 then [m - 8] else []) ++ (if n % 10 < 9 then [m + 8] else [])

/-- Twice the median of a list of codes: the sum of the middle two, or twice the middle one (R364). -/
def median2 (l : List Nat) : Nat :=
  let s := l.mergeSort fun a b => decide (a ≤ b)
  let k := s.length
  s.getD ((k - 1) / 2) 0 + s.getD (k / 2) 0

/-- A reading outside −40 °C to 150 °C, or more than 12 °C from the median of two good neighbours or more (R364). -/
def readsBad (code : Nat) (near : List Nat) : Bool :=
  decide (code < 96 ∨ 856 < code) ||
    (decide (2 ≤ near.length) && decide (2 * code + 96 < median2 near ∨ median2 near + 96 < 2 * code))

/-- On-die sensor i. -/
def Dev.sensor (d : Dev) (i : Nat) : Sensor := Tbl.look {} d.therm.sns i

/-- Replace it. -/
def Dev.setSensor (d : Dev) (i : Nat) (x : Sensor) : Dev := { d with therm := { d.therm with sns := Tbl.put {} d.therm.sns i x } }

/-- The reading of sensor i in this round takes part in the cross-check: good at its start, and converted. -/
def Dev.sensorCounts (d : Dev) (i : Nat) : Bool := !(d.sensor i).bad && (d.sensor i).valid && (d.sensor i).convOk

/-- On-die sensors that the round marks bad (R364). -/
def Dev.sensorsFound (d : Dev) : List Nat :=
  (List.range 14).filter fun i =>
    let x := d.sensor i
    !x.bad && x.seen && (!x.convOk || (x.valid && readsBad x.code (((sensorNear i).filter d.sensorCounts).map fun k => (d.sensor k).code)))

/-- A die's reading takes part. -/
def Dev.dieCounts (d : Dev) (m : Nat) : Bool :=
  (d.ctl m).present && !(d.ctl m).failed && d.therm.dieHas.contains m && !d.therm.dieBad.contains m

/-- Dies whose sensor the round marks bad (R364). -/
def Dev.diesFound (d : Dev) : List Nat :=
  d.therm.dieHas.filter fun m =>
    d.dieCounts m && readsBad (Tbl.look 0 d.therm.dieCode m) (((dieNear m).filter d.dieCounts).map fun k => Tbl.look 0 d.therm.dieCode k)

/-- Good on-die sensors (R365). -/
def Dev.goodSensors (d : Dev) : Nat := ((List.range 14).filter fun i => !(d.sensor i).bad).length

/-- Tj (R365): with no good reading at all the manual gives none, and the code is a free value. -/
def Dev.junction (d : Dev) : Nat × Dev :=
  let l := ((List.range 14).filter fun i => !(d.sensor i).bad && (d.sensor i).valid).map fun i => (d.sensor i).code
  let few := decide (d.goodSensors < 8)
  match l with
  | [] =>
    let (v, d1) := d.free
    (v % 1024, d1)
  | _ => (l.foldl max 0 + (if few then 20 else 0), d)

/-- The junction conditions after Tj and h_j have been set (R369). -/
def junctionConds (F : Fuses) (d : Dev) (oldH : Nat) : Dev :=
  let t := d.therm
  let d1 :=
    if !t.warn ∧ 636 ≤ t.tj then
      ((Dev.postAll F { d with therm := { t with warn := true } } .warn .temperature t.tj).event F 0x1010 (condArg 1 true 0 t.tj)).icu 79
    else if t.warn ∧ t.tj < 616 then { d with therm := { t with warn := false } }.event F 0x1010 (condArg 1 false 0 t.tj)
    else d
  if oldH = t.hj then d1
  else
    let d2 := d1.icu 80
    if oldH = 0 then (Dev.postAll F d2 .warn .throttle t.tj).event F 0x1010 (condArg 2 true 0 t.tj)
    else if t.hj = 0 then d2.event F 0x1010 (condArg 2 false 0 t.tj)
    else d2

/-- Tj, its peak and h_j at an evaluation (R365, R366). -/
def junctionEval (F : Fuses) (d : Dev) : Dev :=
  if (List.range 14).any fun i => (d.sensor i).seen then
    let (tj, d1) := d.junction
    let t := d1.therm
    junctionConds F { d1 with therm := { t with tj := min tj 1023, peak := max t.peak (min tj 1023), few := decide (d1.goodSensors < 8), done := true
                                                hj := newLevel t.hj tj startJ } } t.hj
  else d

/-- The evaluation of a round, 2 ms after its start (R363 to R366). -/
def roundEval (F : Fuses) (d : Dev) : Dev :=
  if !d.therm.due then d
  else
    let d0 := d.advance (d.therm.round + 2000000)
    let d1 := { d0 with therm := { d0.therm with due := false } }
    let ss := d1.sensorsFound
    let ms := d1.diesFound
    let d2 := ss.foldl (fun d i => ((d.setSensor i { d.sensor i with bad := true }).event F 0x1011 i).icu 79) d1
    let d3 := ms.foldl (fun d m => ({ d with therm := { d.therm with dieBad := m :: d.therm.dieBad } }.event F 0x1011 (256 + m)).icu 79) d2
    (List.range 4).foldl (fun d q => quadEval F d q) (junctionEval F d3)

/-- A die's temperature is now `code`: it latches temp_alert where that crosses its threshold upward (R129, R131, R133). -/
def Dev.dieTemp (d : Dev) (m code : Nat) : Dev :=
  let x := d.die m
  let up := decide (x.temp < x.feature 3 ∧ x.feature 3 ≤ code ∧ x.feature 3 ≠ 0x3FF)
  let d1 := d.setDie m { x with temp := code, maxTemp := max x.maxTemp code, tempAlert := x.tempAlert || up }
  if up ∧ !x.tempAlert then d1.emit (.alert m) else d1

/-- The controller takes a die's reading. -/
def Dev.dieRead (d : Dev) (m code : Nat) : Dev :=
  let t := d.therm
  let has := if t.dieHas.contains m then t.dieHas else m :: t.dieHas
  { d with therm := { t with dieCode := Tbl.put 0 t.dieCode m code, dieHas := has } }

/-- One die in a round (R363, R368, R138): TEMP, and what it answered. -/
def dieRound (d : Dev) (m : Nat) (ans : Option Nat) : Dev :=
  match ans with
  | none => (d.emit (.frame m 0x21 true)).bump THK_STALE_CNT
  | some code =>
    let d1 := (d.dieTemp m code).sendFrame { m := m, payload := pay 0x21 [] } 0
    let d2 := d1.dieRead m code
    let c := d2.ctl m
    let d3 := d2.setCtl m { c with round := code }
    let d4 := if code < 0x240 ∧ c.alertThr ≠ 0x254 then d3.alertSet m 0x254 else d3
    let far := decide (c.trainTemp + 32 ≤ code ∨ code + 32 ≤ c.trainTemp)
    if far then d4.setChan (m / 8) { d4.chan (m / 8) with pending := true } else d4

/-- A die that takes part in a round. -/
def dieAsked (F : Fuses) (d : Dev) (m : Nat) : Bool :=
  presentChan F (m / 8) && (d.chan (m / 8)).trained && (d.ctl m).present && !(d.ctl m).failed

/-- A round starts (R363): latched sensors and diodes, and TEMP to every present, unfailed die that is trained. -/
def roundStart (F : Fuses) (d : Dev) (rds : List (Option Nat)) (dies : List (Nat × Nat)) : Dev :=
  if !d.keel.ready ∨ !d.live then d
  else
    let d0 := d.tick 6 8000000
    let d1 := (List.range 14).foldl (fun d i =>
      let x := d.sensor i
      if x.seen then d.setSensor i { x with code := if x.convOk then x.conv else x.code, valid := x.valid || x.convOk } else d) d0
    let d2 := rds.zipIdx.foldl (fun (d : Dev) e =>
      let y := Tbl.look {} d.therm.rd e.2
      let z : Diode := match e.1 with
        | some c => ⟨false, true, c⟩
        | none => { y with fault := true, valid := false }
      { d with therm := { d.therm with rd := Tbl.put {} d.therm.rd e.2 z } }) d1
    let l := ((List.range 320).filter (dieAsked F d2))
    let d3 := l.foldl (fun d m => dieRound d m ((dies.find? fun e => e.1 == m).map fun e => e.2 % 1024)) d2
    { d3 with therm := { d3.therm with due := true, round := d0.tether.now } }

/-! ## Thermal shutdown -/

/-- The shutdown test of R370: this conversion and the one before at 118 °C or more, and a neighbour at 106 °C or more. -/
def Dev.tooHot (d : Dev) (i code : Nat) : Bool :=
  let x := d.sensor i
  !x.bad && x.hot && decide (728 ≤ code) && (sensorNear i).any fun k => (d.sensor k).seen && (d.sensor k).convOk && decide (680 ≤ (d.sensor k).conv)

/-- tshut_last is set in the Keel store (R370, R379). -/
def Dev.setTshut (d : Dev) : Dev := Dev.statePut { d with keel := { d.keel with tshutLast := true } }

/-- Thermal shutdown (R370): a sequence that goes down already continues unchanged, and only its restart waits. -/
def thermalDown (F : Fuses) (d : Dev) (code : Nat) : Dev :=
  let hold (d : Dev) : Dev := { d with pwr := { d.pwr with tsHold := true } }
  match d.pwr.svc with
  | .flush => hold d
  | .bringup | .reduced | .full =>
    let d1 := ((Dev.postAll F d .fatal .temperature code).event F 0x1010 (condArg 4 true 0 code)).setTshut
    if ripReady F d1 then flushEntry F d1 .thermal false else d1.downEntry .thermal (some 4)
  | _ => d

/-- One conversion of an on-die sensor, every 20 µs (R362, R370). -/
def sensorStep (F : Fuses) (d : Dev) (i code : Nat) (ok : Bool) : Dev :=
  if !d.keel.ready ∨ !d.live then d
  else
    let hot := ok && d.tooHot i code
    let x := d.sensor i
    let d1 := d.setSensor i { x with seen := true, conv := if ok then code else x.conv, convOk := ok, hot := ok && decide (728 ≤ code) }
    if hot then thermalDown F d1 code else d1

/-- TS13 reads 113 °C or below after a thermal shutdown: bring-up, no earlier than 10 ms after the last rail (R370). -/
def thermalUp (d : Dev) (code : Nat) : Dev :=
  if d.pwr.svc = .off ∧ d.pwr.tsHold ∧ code ≤ 708 then
    let d1 := { d with therm := { d.therm with aon := code }, pwr := { d.pwr with tsHold := false } }
    match d1.pwr.restartAt with
    | some _ => restartNow d1
    | none => d1.tryUp
  else d

/-! ## Commands -/

/-- SENSOR_CONVERSION (R362, R370). -/
def execSensorConversion (i : Fin 14) (code : Fin 1024) (ok : Bool) (s : State) : Host.Outcome State Fault Refusal :=
  .next { s with dev := sensorStep s.fuse s.dev i.val code.val ok }

/-- THERMAL_RESTART (R370). -/
def execThermalRestart (code : Fin 1024) (s : State) : Host.Outcome State Fault Refusal := .next { s with dev := thermalUp s.dev code.val }

/-- HOUSEKEEPING_ROUND (R363). -/
def execHousekeepingRound (rd0 rd1 : Option (Fin 1024)) (dies : List (Nat × Nat)) (s : State) : Host.Outcome State Fault Refusal :=
  .next { s with dev := roundStart s.fuse s.dev [rd0.map (·.val), rd1.map (·.val)] dies }

/-- ROUND_EVALUATE (R363 to R367, R369). -/
def execRoundEvaluate (s : State) : Host.Outcome State Fault Refusal := .next { s with dev := roundEval s.fuse s.dev }

/-- AON_TEMP_READ (R363): in Off and Rest, every 100 ms. -/
def execAonTempRead (code : Fin 1024) (s : State) : Host.Outcome State Fault Refusal :=
  let d := s.dev
  .next (if d.pwr.svc = .off ∨ d.pwr.svc = .rest then
    { s with dev := { d.tick 7 100000000 with therm := { d.therm with aon := code.val } } } else s)

end Sys2Proof.Machine
end

