-- ==== Sys2Proof/Machine/Views.lean ====
section
/-!
DEFINITION. What the registers of BAR0 read (the register tables of spec/): fields that the controller computes from its state, and
the register file for every other. RO copies and status have no home of their own here (one home per fact).
-/
namespace Sys2Proof.Machine

/-- One register or register array whose word is computed: first offset, stride, number of elements, word by element. -/
structure View where
  base : Nat
  stride : Nat
  count : Nat
  get : Nat → Nat

/-- The element of a view at an offset. -/
def View.at? (v : View) (off : Nat) : Option Nat :=
  if v.stride = 0 then (if off = v.base then some 0 else none)
  else if v.base ≤ off ∧ (off - v.base) % v.stride = 0 ∧ (off - v.base) / v.stride < v.count then some ((off - v.base) / v.stride)
  else none

/-- A word from its fields: lowest bit and value. -/
def word (l : List (Nat × Nat)) : Nat := l.foldl (fun acc e => acc + e.2 * 2 ^ e.1) 0

/-- One bit of a word. -/
def flag (b : Bool) (lo : Nat) : Nat × Nat := (lo, b2n b)

/-- Bit j set where the element is in the list. -/
def maskOf (l : List Nat) : Nat := l.dedup.foldl (fun n k => n + 2 ^ k) 0

/-- Low and high words of a 64-bit value (R12). -/
def lo32 (v : Nat) : Nat := v % 2 ^ 32
def hi32 (v : Nat) : Nat := v / 2 ^ 32 % 2 ^ 32

/-- A signed value as 64 bits. -/
def twos64 (v : Int) : Nat := (v % (2 ^ 64 : Int)).toNat

/-! ## GLB, LNK -/

/-- Fields marked cfg read 0 until the board configuration block is accepted (R442). -/
def Dev.cfg (d : Dev) (v : Nat) : Nat := if d.pwr.board.valid then v else 0

/-- floor_warn (R224): U is below the floor, or has been and has not reached the floor + 1,024 since. -/
def Dev.floorLow (d : Dev) : Bool := decide (d.availU < d.floorOf) || (d.tracts.floorWarn && decide (d.availU < d.floorOf + 1024))

/-- GLB_SVC_STATE. -/
def svcState (d : Dev) : Nat :=
  word [flag d.pwr.portLost 18, flag d.cores.standbyOk 17, flag (decide (d.cores.active = .b)) 16, flag d.floorLow 7,
    flag d.tracts.sealed 6, flag d.gon.armed 5, flag d.pwr.replayDone 4, (0, svcCode d.pwr.svc)]

/-- GLB_CORE_STS. -/
def coreSts (d : Dev) : Nat :=
  word [(30, d.cores.cause), flag d.cores.a.ok 29, flag d.cores.b.ok 28, (0, d.cores.failovers)]

/-- LNK_PORT_STSn. -/
def portSts (x : HeadState) : Nat :=
  word [flag x.ptmValid 14, flag x.ideOn 13, (10, x.lstate), (8, x.dstate), flag x.cxlMem 7, flag x.flit256 6, (4, x.width), (1, x.rate),
    flag x.linkUp 0]

/-- Codes of the group states, 16 groups from g0. -/
def groupWord (d : Dev) (g0 : Nat) : Nat := word ((List.range 16).map fun k => (2 * k, (d.grp (g0 + k)).state))

def viewsGlb (F : Fuses) (d : Dev) : List View := [
  ⟨GLB_ID, 0, 1, fun _ => word [(16, 0x4480), (12, F.rev.toNat), (0, clsCode F.cls)]⟩,
  ⟨GLB_SVC_STATE, 0, 1, fun _ => svcState d⟩,
  ⟨GLB_GROUP_STATE_LO, 4, 2, fun i => groupWord d (16 * i)⟩,
  ⟨GLB_SRAM_STS, 0, 1, fun _ => word [flag d.drift.checkers 31, flag d.drift.sramFail 30, flag d.drift.sramUe 29, (16, min d.drift.onCorr 255),
    (8, min d.drift.sramRepairs 255)]⟩,
  ⟨GLB_FW_VER, 0, 1, fun _ => d.fwVer⟩,
  ⟨GLB_FW_STS, 0, 1, fun _ => word [flag d.images.fallback 31, (16, d.images.running), (15, if d.keel.ready then d.keel.sel else 0), (7, d.images.svn % 256),
    (0, d.images.floor)]⟩,
  ⟨GLB_CORE_STS, 0, 1, fun _ => coreSts d⟩,
  ⟨LNK_PORT_CFG, 0, 1, fun _ => d.cfg (word [flag d.pwr.board.ptmB 8, (4, d.pwr.board.widthB), (2, d.pwr.board.widthA), (0, modeCode (portMode F d))])⟩,
  ⟨LNK_PORT_STS 0, 4, 2, fun i => if i = 0 then portSts d.a else if presentHead F .b then portSts d.b else 0⟩,
  ⟨LNK_HEAD_PART, 0, 1, fun _ => if portMode F d = .dualHead then d.cfg (word [(16, d.pwr.board.share), (0, d.pwr.board.split)]) else 0⟩]

/-! ## MBX -/

/-- Spill entries in use (R299): a FIFO holds 32 entries in registers. -/
def Dev.spilled (d : Dev) : Nat :=
  (List.range 64).foldl (fun n p =>
    n + ((d.qp p).out.length - 32) + (((d.pairCmds p).filter fun c => c.state == 0).length - 32)) 0

/-- 32 locks from 32k, by a test. -/
def lockWord (d : Dev) (k : Nat) (f : Lock → Bool) : Nat :=
  maskOf ((d.lci.locks.filter fun e => decide (e.1 / 32 = k) && f e.2).map fun e => e.1 % 32)

def viewsMbx (d : Dev) : List View := [
  ⟨MBX_LCI_STS, 0, 1, fun _ => word [flag d.lci.ready 31, (0, (d.lci.cmds.filter fun c => !c.silent).length)]⟩,
  ⟨MBX_SPOOL_STS, 0, 1, fun _ => word [(16, d.spilled), (0, d.lci.parity)]⟩,
  ⟨MBX_RM_STS, 0, 1, fun _ => word [flag d.lci.rmBusy 31, flag d.lci.rmBoot 30, flag d.lci.rmOwnerB 29, (0, d.lci.rmStatus)]⟩,
  ⟨MBX_LOCK_HELD 0, 4, 8, fun k => lockWord d k fun l => l.owner.isSome⟩,
  ⟨MBX_LOCK_ABN 0, 4, 8, fun k => lockWord d k fun l => l.abandoned⟩,
  ⟨MBX_QP_STS 0, 0x20, 64, fun n =>
    let q := d.qp n
    word [flag q.idle 31, flag (!q.out.isEmpty && d.qpOn n && !d.cqRoom n) 30, flag q.dbErr 29, (16, q.gen), (0, q.sqHead)]⟩]

/-! ## TTH, SEC, LIN -/

/-- The duty of an absent quadrant reads 0 (R2). -/
def viewsTth (F : Fuses) (d : Dev) : List View := [
  ⟨TTH_NOW_LO, 0, 1, fun _ => lo32 d.tether.now⟩,
  ⟨TTH_NOW_HI, 0, 1, fun _ => hi32 d.tether.now⟩,
  ⟨TTH_STS, 0, 1, fun _ => word [flag d.tether.cold 2, (0, match d.tether.src with
    | .free => 0
    | .acquiring => 1
    | .locked => 2
    | .holdover => 3)]⟩,
  ⟨TTH_PTM_OFS_LO, 0, 1, fun _ => lo32 (twos64 d.tether.offset)⟩,
  ⟨TTH_PTM_OFS_HI, 0, 1, fun _ => hi32 (twos64 d.tether.offset)⟩,
  ⟨TTH_RATE, 0, 1, fun _ => lo32 (twos64 d.tether.rate)⟩,
  ⟨TTH_DUTY 0, 4, 4, fun q => if presentChan F (10 * q) then d.duty q else 0⟩,
  ⟨TTH_TWIN_STS, 0, 1, fun _ => word [flag d.tether.twOpen 31, flag d.tether.twIntr 30, (16, d.tether.twChan), (0, d.tether.twCount)]⟩]

/-- Code of a slot's kind and form, and the word that SEC_SLOT_INFO reads. -/
def slotInfo (x : Slot) : Nat :=
  if x.state = 0 then 0
  else word [(30, x.state), (28, x.kind), (26, x.form), (25, hIdx x.head), (16, x.rights), (0, x.record)]

def viewsSec (F : Fuses) (d : Dev) : List View := [
  ⟨SEC_STS, 0, 1, fun _ => word [flag d.sec.rngOk 31, flag d.sec.ladderOk 30, flag d.sec.dbgMode 29,
    (0, (d.sec.slots.filter fun e => decide (e.2.state ≠ 0)).length)]⟩,
  ⟨SEC_OWNER, 0, 1, fun _ => F.ownerId.toNat⟩,
  ⟨SEC_EPOCH, 0, 1, fun _ => if d.keel.ready then d.keel.epoch else 0⟩,
  ⟨SEC_SLOT_INFO, 0, 1, fun _ => if d.fld SEC_SLOT_SEL 11 0 = 0 then 0 else slotInfo (d.slot (d.fld SEC_SLOT_SEL 11 0))⟩,
  ⟨SEC_SLOT_TITLE, 0, 1, fun _ =>
    let x := d.slot (d.fld SEC_SLOT_SEL 11 0)
    if d.fld SEC_SLOT_SEL 11 0 = 0 ∨ x.state = 0 then 0 else x.title⟩,
  ⟨SEC_REENC_STS, 0, 1, fun _ => word [(16, d.sec.reenc.length), (0, d.sec.reencDone % 65536)]⟩,
  ⟨SEC_EXH_STS, 0, 1, fun _ => word [flag d.sec.exhFull 31, (0, d.sec.exh.length)]⟩,
  ⟨SEC_REKEY_STS, 0, 1, fun _ => match d.sec.rekey with
    | some r => word [flag r.busy 31, (12, r.win), (0, r.slot)]
    | none => 0⟩,
  ⟨SEC_REKEY_BND_LO, 4, 2, fun i => match d.sec.rekey with
    | some r => if i = 0 then lo32 (r.bnd * 2 ^ 20) else hi32 (r.bnd * 2 ^ 20)
    | none => 0⟩]

def viewsLin (d : Dev) : List View := [
  ⟨LIN_CACHE_STS, 0, 1, fun _ => word [(5, d.cache.scrAct), flag d.cache.scrBusy 4, flag d.cache.invBusy 3,
    flag (!d.cache.badWays.isEmpty || !d.gon.macros.isEmpty) 2, flag d.cache.compatBusy 1, flag d.cache.compatAct 0]⟩,
  ⟨LIN_GND_STS, 0, 1, fun _ => word [flag d.gon.armed 31, flag d.raisedNow 30, (0, d.gUsed)]⟩,
  ⟨LIN_INV_CTL, 0, 1, fun _ => word [flag d.cache.invBusy 31]⟩,
  ⟨LIN_CMP_ENT_LO 0, 8, 48, fun n => if (d.cmpEnt n).used then lo32 (d.cmpEnt n).sec.num else 0⟩,
  ⟨LIN_CMP_ENT_HI 0, 8, 48, fun n =>
    let x := d.cmpEnt n
    word [flag x.used 31, flag x.pin 30, (0, ((List.range 64).filter fun i => x.sec.valid.getLsbD i).length)]⟩]

/-! ## MTL, MCH -/

/-- Physical tracts of a state, over the listed records (unlisted ones are free at no wear). -/
def Dev.physIn (d : Dev) (f : PhysRec → Bool) : Nat := (d.tracts.cur.phys.filter fun e => f e.2).length

/-- Physical tracts of the populated groups. -/
def Dev.physAll (d : Dev) : Nat := d.popGroups.foldl (fun n g => n + d.physCount g) 0

/-- Least and greatest wear among tracts not retired. -/
def Dev.wearMin (d : Dev) : Nat :=
  let l := (d.tracts.cur.phys.filter fun e => decide (e.2.state ≠ 15)).map fun e => e.2.wear
  if d.tracts.cur.phys.length < d.physAll then 0
  else match l with
    | [] => 0
    | a :: r => r.foldl min a
def Dev.wearMax (d : Dev) : Nat :=
  (d.tracts.cur.phys.filter fun e => decide (e.2.state ≠ 15)).foldl (fun n e => max n e.2.wear) 0

/-- RwD credits are withheld for want of a home reservation (R225). -/
def Dev.resWait (d : Dev) : Bool := d.pwr.replayDone && !d.homeRoom

def viewsMtl (d : Dev) : List View := [
  ⟨MTL_UPD_STS, 0, 1, fun _ => d.zone⟩,
  ⟨MTL_UPD_TGT, 0, 1, fun _ => d.tracts.zt⟩,
  ⟨MTL_WEAR_MIN, 0, 1, fun _ => d.wearMin⟩,
  ⟨MTL_WEAR_MAX, 0, 1, fun _ => d.wearMax⟩,
  ⟨MTL_AVAIL, 0, 1, fun _ => d.availU⟩,
  ⟨MTL_FREE, 0, 1, fun _ => d.freeF⟩,
  ⟨MTL_FLOOR, 0, 1, fun _ => d.cfg d.floorOf⟩,
  ⟨MTL_CAP, 0, 1, fun _ => d.cfg d.lUser⟩,
  ⟨MTL_DEMOTED, 0, 1, fun _ => d.physIn fun r => r.state == 8 || r.state == 9⟩,
  ⟨MTL_RETIRED, 0, 1, fun _ => d.physIn fun r => decide (r.state = 15)⟩,
  ⟨MTL_SEAL_STS, 0, 1, fun _ => word [flag d.tracts.sealed 31, flag d.floorLow 30, flag d.tracts.holdEmpty 29, flag d.resWait 28, (0, d.pHome)]⟩,
  ⟨MTL_MIG_STS, 0, 1, fun _ => word [(16, min d.tracts.queued.length 0xFFFF), (0, min d.tracts.migs.length 0xFFFF)]⟩]

/-- Physical tracts of a group that hold data at a width that includes a failed member (R163): homes, areas of the fixed reserve and counter
tracts. -/
def Dev.rbldLeft (d : Dev) (g : Nat) : Nat :=
  let l := d.tracts.cur.ent.filter fun e =>
    decide ((e.2.kind = 1 ∨ e.2.kind = 2) ∧ e.2.group = g ∧ (d.grp g).layWidth < 10 - e.2.wd)
  let homes := ((l.map fun e => (e.2.index, if e.2.kind = 2 then 2 else 1)).dedup).foldl (fun n e => n + e.2) 0
  let areas := (d.tracts.areas.filter fun a => a.group == g && decide ((d.grp g).layWidth < a.width)).foldl (fun n a => n + 2 * a.pairs) 0
  homes + areas + 2 * (d.tracts.queued.filter fun q => decide (2 ^ 26 ≤ q.1) && d.groupOfId q.1 == g).length

/-- MCH_DIE_STSm. -/
def dieSts (d : Dev) (m : Nat) : Nat :=
  let c := d.ctl m
  word [flag c.present 31, flag (c.failed || (d.chan (m / 8)).failed) 30, flag (d.die m).pd 29, (16, c.round), (0, c.progFail)]

/-- Tracts holding data, by ledger entry: 15 where not surveyed (R182). -/
def Dev.histDrift (d : Dev) (k : Nat) : Nat :=
  (d.dataTracts.filter fun t => (match Tbl.look 0 d.drift.cls t with
    | 0 => 15
    | c + 1 => c) == k).length

/-- Share of the scrub pass (R190): mapped tracts below the position. -/
def Dev.scrubPct (d : Dev) : Nat :=
  let l := d.tracts.cur.ent.filter fun e => decide (e.2.kind = 1 ∨ e.2.kind = 2)
  if l.isEmpty then 0 else 100 * (l.filter fun e => decide (e.1 < d.drift.scrubPos / 512)).length / l.length

def viewsMch (F : Fuses) (d : Dev) : List View :=
  let on (n v : Nat) : Nat := if presentChan F n then v else 0
  [⟨MCH_CH_CFG 0, 0x400, 40, fun n => on n (word [(16, (d.chan n).trl), (0, d.cfg (d.diesPer (n / 10)))])⟩,
  ⟨MCH_CH_STS 0, 0x400, 40, fun n =>
    let c := d.chan n
    on n (word [flag c.trained 31, flag c.failed 30, flag c.pending 29, flag c.held 28, (24, c.cause), (16, c.trainTemp), (0, c.retrains)])⟩,
  ⟨MCH_EYE 0, 0x400, 40, fun n => on n (word [(16, (d.chan n).wrEye), (0, (d.chan n).rdEye)])⟩,
  ⟨MCH_GRP_STS 0, 4, 32, fun g =>
    let x := d.grp g
    if x.populated && !x.absent then word [(28, x.width), (26, x.state), (16, Nat.land x.members x.failedM)] else 0⟩,
  ⟨MCH_GRP_RBLD 0, 4, 32, fun g => d.rbldLeft g⟩,
  ⟨MCH_BRIDLE_RANK 0, 4, 4, fun q => on (10 * q) (d.reg (MCH_BRIDLE_RANK q)).toNat⟩,
  ⟨MCH_ROW_STS 0, 4, 4, fun q => word [(16, Tbl.look 0 d.media.rowPeak q), (0, d.rowsOfQuad q)]⟩,
  ⟨MCH_DRF_STS, 0, 1, fun _ => word [flag d.drift.surveyDone 31, flag d.drift.surveying 30, (0, d.surveyRemain)]⟩,
  ⟨MCH_DRF_HIST 0, 4, 16, fun k => d.histDrift k⟩,
  ⟨MCH_SCRUB_STS, 0, 1, fun _ => word [(24, d.scrubPct), (0, d.drift.scrubPass)]⟩] ++
  (List.range 8).map fun k => (⟨0x60040 + 4 * k, 0x400, 40, fun n => on n (dieSts d (8 * n + k))⟩ : View)

/-! ## STR -/

def stateCode : SState → Nat
  | .idle => 0
  | .armed => 1
  | .running => 2
  | .stopping => 3
  | .ended => 4

def kindCode : SKind → Nat
  | .stream => 0
  | .copy => 1
  | .install => 2
  | .verify => 3

def viewsStr (d : Dev) : List View :=
  let sel := d.schan (d.fld STR_SEL 5 0)
  let addr := sel.faultAddr % 2 ^ 63
  let done := maskOf ((d.str.chan.filter fun e => e.2.done).map fun e => e.1)
  [⟨STR_STS, 0, 1, fun _ => word [(26, (d.lanesUsed.2 + 15) / 16), (21, d.str.dicts.length), (15, d.lanesUsed.1), (11, d.str.snaps.length),
    (0, (d.str.chan.filter fun e => decide (e.2.state ≠ .idle)).length)]⟩,
  ⟨STR_DONE_LO, 4, 2, fun i => if i = 0 then lo32 done else hi32 done⟩,
  ⟨STR_SEL_OUT_LO, 4, 2, fun i => if i = 0 then lo32 sel.out else hi32 sel.out⟩,
  ⟨STR_SEL_FAULT_LO, 4, 2, fun i => if i = 0 then lo32 addr else hi32 (addr + b2n sel.faultDev * 2 ^ 63)⟩,
  ⟨STR_CH_STS 0, 0x10, 64, fun n =>
    let c := d.schan n
    word [(29, stateCode c.state), (24, if c.state = .ended then c.status else 0), (22, kindCode c.kind), (20, c.xform), (0, c.key)]⟩,
  ⟨STR_CH_HANDLE 0, 0x10, 64, fun n => (d.schan n).handle⟩,
  ⟨STR_CH_PROG 0, 0x10, 64, fun n => lo32 (d.schan n).progress⟩,
  ⟨STR_CH_TAG 0, 0x10, 64, fun n => (d.schan n).tag⟩,
  ⟨STR_DICT_ID 0, 8, 16, fun k => match d.str.dicts[k]? with
    | some x => x.id
    | none => 0⟩,
  ⟨STR_DICT_SZ 0, 8, 16, fun k => match d.str.dicts[k]? with
    | some x => word [(31, 1), (30, hIdx x.head), (0, x.bytes.length)]
    | none => 0⟩]

/-! ## PSV, THK -/

/-- PSV_STS. -/
def psvSts (F : Fuses) (d : Dev) : Nat :=
  let p := d.pwr
  word [(24, p.cause), flag p.margin.isSome 19, flag (keelOk F d) 18, flag p.pwrReq 17, flag p.inputOk 16, (8, p.lastOff), (0, p.step)]

/-- PSV_FAULT. -/
def psvFault (d : Dev) : Nat :=
  let p := d.pwr
  word [flag p.drive 31, flag p.pulse 30, flag (!(p.drive || p.pulse || p.pinLow)) 29, flag p.extLevel 28, flag p.extPulse 27, (0, d.cfg p.board.extReact)]

/-- Thresholds of a channel at the pin, with the block's overrides and the shift of margining (R331, R338, R348). -/
def seqThr (d : Dev) (n : Nat) : Nat × Nat :=
  let c := if d.pwr.board.valid then Tbl.look {} d.pwr.board.chan n else {}
  let (_, uv, ov) := railPin n
  let u := if n < 12 ∧ c.uv = 0 then uv else c.uv
  let o := if n < 12 ∧ c.ov = 0 then ov else c.ov
  match d.pwr.margin with
  | some (ch, dir, pct) =>
    if ch ≠ n then (u, o)
    else if dir = 1 then (u * (200 - pct) / 200, o * (200 - pct) / 200)
    else (u * (200 + pct) / 200, o * (200 + pct) / 200)
  | none => (u, o)

/-- PSV_SEQ_CFGn; 0 for a channel that the class does not have (R2). -/
def seqCfg (F : Fuses) (d : Dev) (n : Nat) : Nat :=
  if n < 12 ∧ !seqPresent F d n then 0
  else if n < 12 then
    word [flag true 31, (20, if n = 11 then 3 else 0), (16, 3), flag (decide (n ≤ 10)) 15, (12, 2), (0, 5)]
  else
    let c := Tbl.look {} d.pwr.board.chan n
    d.cfg (word [flag c.used 31, (24, c.after % 16), (22, c.grp % 4), (20, c.role % 4), (18, c.retries), (16, c.react), flag c.pgUse 15, (12, c.filt),
      (0, c.rampMs)])

def viewsPsv (F : Fuses) (d : Dev) : List View :=
  let p := d.pwr
  [⟨PSV_STS, 0, 1, fun _ => psvSts F d⟩,
  ⟨PSV_VIN, 0, 1, fun _ => p.vin⟩,
  ⟨PSV_HOLD, 0, 1, fun _ => word [(16, d.eAvail), (0, min (p.vh / 10) 0xFFFF)]⟩,
  ⟨PSV_HOLD_CAP, 0, 1, fun _ => word [flag p.cap.isSome 31, (0, p.cap.getD 0)]⟩,
  ⟨PSV_ARM_CFG, 0, 1, fun _ => word [(16, d.cfg p.board.disarmPct), (8, d.cfg p.board.armPct), (0, eRip F)]⟩,
  ⟨PSV_FAULT, 0, 1, fun _ => psvFault d⟩,
  ⟨PSV_MARGIN, 0, 1, fun _ => word [flag p.margin.isSome 31, (0, d.fld PSV_MARGIN 11 0)]⟩,
  ⟨PSV_RIP_LAST, 0, 1, fun _ => word [(16, p.ripEnergy), (0, p.ripDur)]⟩,
  ⟨PSV_RIP_CNT, 0, 1, fun _ => if d.keel.ready then word [(16, min d.keel.ripIncomp 0xFFFF), (0, min d.keel.ripTotal 0xFFFF)] else 0⟩,
  ⟨PSV_REPLAY_STS, 0, 1, fun _ => word [flag p.restored 31, flag p.replayDone 30, flag p.incomplete 29, (0, p.replayLines)]⟩,
  ⟨PSV_SEQ_CFG 0, 0x10, 16, fun n => seqCfg F d n⟩,
  ⟨PSV_SEQ_THR 0, 0x10, 16, fun n => if seqPresent F d n then word [(16, (seqThr d n).2), (0, (seqThr d n).1)] else 0⟩,
  ⟨PSV_SEQ_STS 0, 0x10, 16, fun n =>
    let c := d.seqCh n
    if seqPresent F d n then word [flag c.en 31, flag c.valid 30, flag c.pg 29, (24, c.last), (22, c.tries), (0, c.sns)] else 0⟩]

/-- THK_STS. -/
def thkSts (d : Dev) : Nat :=
  let t := d.therm
  word [flag t.warn 31, flag d.drogue 30, flag (d.keel.ready && d.keel.tshutLast) 29, flag t.few 28, (24, d.goodSensors), (9, t.hj)]

def viewsThk (F : Fuses) (d : Dev) : List View :=
  let t := d.therm
  [⟨THK_STS, 0, 1, fun _ => thkSts d⟩,
  ⟨THK_TJ, 0, 1, fun _ => word [(16, t.peak), (0, t.tj)]⟩,
  ⟨THK_QUAD 0, 4, 4, fun q => if presentChan F (10 * q) then word [flag (t.noGood.contains q) 31, (16, Tbl.look 0 t.tm q), (0, Tbl.look 0 t.hm q)] else 0⟩,
  ⟨THK_SNS 0, 4, 14, fun i => word [flag (d.sensor i).bad 31, flag (d.sensor i).valid 30, (0, (d.sensor i).code)]⟩,
  ⟨THK_RD 0, 4, 2, fun j =>
    let r := Tbl.look {} t.rd j
    word [flag r.fault 31, flag r.valid 30, (0, r.code)]⟩]

/-! ## KEL, EVR, PMC, BST, ICU -/

def viewsKel (F : Fuses) (d : Dev) : List View :=
  let k := d.keel
  let r (v : Nat) : Nat := if k.ready then v else 0
  [⟨KEL_STS, 0, 1, fun _ => word [flag k.ready 31, flag (!k.active.isEmpty || !k.waiting.isEmpty) 30, (0, k.vfail)]⟩,
  ⟨KEL_OPMIN, 0, 1, fun _ => r k.opmin⟩,
  ⟨KEL_OPSEC, 0, 1, fun _ => r k.opsec⟩,
  ⟨KEL_PCYC, 0, 1, fun _ => r k.pcyc⟩,
  ⟨KEL_DIRTY, 0, 1, fun _ => r k.dirty⟩,
  ⟨KEL_UWL_STS, 0, 1, fun _ => word [(16, k.uwlLost), (0, k.uwlEntries.length)]⟩,
  ⟨EVR_NEWEST, 0, 1, fun _ => if k.ready then (d.log.next + (2 ^ 32 - 1)) % 2 ^ 32 else 0xFFFFFFFF⟩,
  ⟨EVR_OLDEST, 0, 1, fun _ => if k.ready then oldestRec F d else 0x100⟩,
  ⟨EVR_STS, 0, 1, fun _ => word [flag (decide (256 ≤ d.log.next)) 31, flag d.log.frozen 30, (16, d.log.buf.length), (0, d.log.lost)]⟩]

/-- A counter or bin as its _LO and _HI words read. -/
def cntWord (c : Cnt) (hi : Bool) : Nat := if hi then word [flag c.ovf 31, (0, hi32 c.v)] else lo32 c.v

/-- Live and snapshot values, _LO and _HI. -/
def cntViews (base n : Nat) (t : Tbl Cnt) : List View :=
  [⟨base, 8, n, fun i => cntWord (Tbl.look {} t i) false⟩, ⟨base + 4, 8, n, fun i => cntWord (Tbl.look {} t i) true⟩]

def viewsPmc (F : Fuses) (d : Dev) : List View :=
  cntViews (PMC_CNT_LO 0) 64 d.pmc.cnt ++ cntViews (PMC_SNAP_LO 0) 64 d.pmc.snap ++ cntViews (PMC_HIST_LO 0) 256 d.pmc.bin ++
  cntViews (PMC_HSNAP_LO 0) 256 d.pmc.hsnap ++
  [⟨PMC_SNAP_TIME_LO, 0, 1, fun _ => lo32 d.pmc.snapTimeA⟩,
  ⟨PMC_SNAP_TIME_HI, 0, 1, fun _ => hi32 d.pmc.snapTimeA⟩,
  ⟨PMC_HSNAP_TIME_LO, 0, 1, fun _ => lo32 d.pmc.hsnapTimeA⟩,
  ⟨PMC_HSNAP_TIME_HI, 0, 1, fun _ => hi32 d.pmc.hsnapTimeA⟩,
  ⟨PMC_NOW_LO, 0, 1, fun _ => lo32 d.tether.now⟩,
  ⟨PMC_NOW_HI, 0, 1, fun _ => hi32 d.tether.now⟩,
  ⟨PMC_CNT_CFG 0, 4, 64, fun n =>
    word [(31, d.fld (PMC_CNT_CFG n) 31 31), flag (Tbl.look {} d.pmc.cnt n).ovf 29, flag (decide (portMode F d = .dualHead ∧ 32 ≤ n)) 28,
      (0, d.fld (PMC_CNT_CFG n) 9 0)]⟩]

/-- BST_DBG_STS, as FX_STATUS shifts it out (R410). -/
def dbgSts (d : Dev) : Nat :=
  let x := d.dbg
  word [flag x.unlocked 31, flag x.session 30, flag d.cores.b.halted 29, flag d.cores.a.halted 28, flag x.busy 27, (4, x.err), (0, x.fails)]

def viewsBst (d : Dev) : List View := [
  ⟨BST_STS, 0, 1, fun _ => word [(24, min d.bst.queue.length 0xFF), (12, d.bst.lastFault), (0, min d.bst.faults 0xFFF)]⟩,
  ⟨BST_DBG_STS, 0, 1, fun _ => dbgSts d⟩]

def viewsIcu (d : Dev) : List View := [
  ⟨ICU_ACT 0, 4, 2, fun p =>
    let st := (d.pair (if p = 0 then .a else .b)).stack
    match st with
    | [] => 0
    | n :: _ => word [(16, st.length), (12, d.srcPrio n), (0, n)]⟩,
  ⟨ICU_SEM 0, 4, 64, fun n => (d.sem n).owner⟩]

/-- The computed registers of a block. -/
def viewsOf (F : Fuses) (d : Dev) (block : Nat) : List View :=
  match block with
  | 0 => viewsGlb F d
  | 1 => viewsMbx d
  | 2 => viewsTth F d
  | 3 => viewsSec F d
  | 4 => viewsLin d
  | 5 => viewsMtl d
  | 6 => viewsMch F d
  | 7 => viewsStr d
  | 8 => viewsPsv F d
  | 9 => viewsThk F d
  | 10 => viewsKel F d
  | 11 => viewsPmc F d
  | 12 => viewsBst d
  | 13 => viewsIcu d
  | _ => []

/-- What a register of BAR0 reads, with no side effect of the read: a reserved offset reads 0 (R10). -/
def regPeek (F : Fuses) (d : Dev) (off : Nat) : Nat :=
  match (viewsOf F d (off / 0x10000)).findSome? fun v => (v.at? off).map v.get with
  | some w => w % 2 ^ 32
  | none =>
    if (fieldsAt off).isEmpty && !decide (0x4000 ≤ off ∧ off < 0x4810) then 0 else (d.reg off).toNat

/-- A read of bits [lo, hi] of a register clears the RC fields that it includes whole (R7, R12); ICU_SEMn, whose RC fields a read sets, is the
caller's. -/
def Dev.rcRead (d : Dev) (off hi lo : Nat) : Dev :=
  ((fieldsAt off).filter fun f => decide (f.acc = .rc ∧ off / 0x10000 ≠ 13 ∧ lo ≤ f.lo ∧ f.hi ≤ hi)).foldl (fun d f => d.setFld off f.hi f.lo 0) d

/-- A read of a whole register clears its RC fields (R7). -/
def Dev.rcClear (d : Dev) (off : Nat) : Dev := d.rcRead off 31 0

/-- What a head's read of BAR0 returns (R403, R404, R437, R438): its own copies; 0 in the ICU block, for the other head's counters in
dual-head mode, and in the two user pages while its user_en is 0. -/
def hostPeek (F : Fuses) (d : Dev) (h : Head) (off : Nat) : Nat :=
  let dual := decide (portMode F d = .dualHead)
  let other (i half : Nat) : Bool := dual && (decide (half ≤ i) != decide (h = .b))
  let user := decide (0xB0000 ≤ off ∧ off < 0xB2000)
  if !presentHead F h ∨ off / 0x10000 = 13 then 0
  else if user ∧ !bit (d.reg (headOff h PMC_CTL)).toNat 31 then 0
  else if user ∧ off < 0xB0400 ∧ other (off % 0x200 / 8) 32 then 0
  else if user ∧ ((0xB0800 ≤ off ∧ off < 0xB1000) ∨ (0xB1000 ≤ off ∧ off < 0xB1800)) ∧ other (off % 0x800 / 8) 128 then 0
  else if off = PMC_SNAP_TIME_LO ∧ h = .b ∧ dual then lo32 d.pmc.snapTimeB
  else if off = PMC_SNAP_TIME_HI ∧ h = .b ∧ dual then hi32 d.pmc.snapTimeB
  else if off = PMC_HSNAP_TIME_LO ∧ h = .b ∧ dual then lo32 d.pmc.hsnapTimeB
  else if off = PMC_HSNAP_TIME_HI ∧ h = .b ∧ dual then hi32 d.pmc.hsnapTimeB
  else if perHead off then (d.reg (headOff h off)).toNat
  else regPeek F d off

end Sys2Proof.Machine
end

