-- ==== Sys2Proof/Machine/SideOps.lean ====
section
/-!
DEFINITION. The SMBus responder of the always-on domain (spec/14_thermal.md R371): ARP, the MCTP control messages and the vendor
messages. Completion codes and the layouts of the control messages are those of DSP0236 (log entry 30).
-/
namespace Sys2Proof.Machine

/-- Put a response on the sideband. -/
def Dev.side (d : Dev) (payload : List Nat) : Dev := d.emit (.smbus payload)

/-- An MCTP message arrives: ICU source 101 (R318). -/
def Dev.mctp (d : Dev) : Dev := d.icuLive 101

/-- ARP assigns an address. -/
def Dev.arp (d : Dev) (addr : Nat) : Dev := { d with therm := { d.therm with smbusAddr := addr } }.side [0]

/-- Set Endpoint ID: operations 0 (set) and 1 (force); 0 and 0xFF are no endpoint IDs; 2 and 3 are not supported. -/
def Dev.setEid (d : Dev) (eid op : Nat) : Dev :=
  if 2 ≤ op ∨ eid = 0 ∨ eid = 0xFF then d.side [2]
  else { d with therm := { d.therm with eid := eid } }.side [0, 0, eid, 0]

/-- Get MCTP Version Support. -/
def Dev.mctpVersion (d : Dev) (type : Nat) : Dev :=
  if type = 0xFF ∨ type = 0 then d.side (0 :: Config.mctpVersions type) else d.side [0x80]

/-- The supervisor alone is powered: Off or Rest. -/
def Dev.dark (d : Dev) : Bool := decide (d.pwr.svc = .off ∨ d.pwr.svc = .rest)

/-- State byte of Get Health: a stalled bring-up reads 0xF. -/
def healthState (d : Dev) : Nat :=
  match d.pwr.svc with
  | .rest => 5
  | .bringup => if d.pwr.step = 0xF then 0xF else 1
  | x => svcCode x

/-- Highest media temperature of the quadrants that have one. -/
def Dev.tmTop (d : Dev) : Nat :=
  if d.therm.tmHas.isEmpty then 0xFFFF else d.therm.tmHas.foldl (fun a q => max a (Tbl.look 0 d.therm.tm q)) 0

/-- Response of Get Health. -/
def healthBytes (d : Dev) : List Nat :=
  let t := d.therm
  let flags := word [flag t.warn 0, flag d.drogue 1, flag (t.hm.any fun e => decide (0 < e.2)) 2, flag d.tracts.sealed 3, flag d.tracts.floorWarn 4,
    flag d.gon.armed 5, flag t.few 6, flag (d.keel.ready && d.keel.tshutLast) 7]
  [healthState d, d.pwr.step, d.pwr.cause] ++ leBytes 2 (if t.done then t.tj else 0xFFFF) ++ leBytes 2 d.tmTop ++ [flags] ++ leBytes 2 t.hj ++
    [if d.dark then 0 else d.goodSensors, coreSts d / 2 ^ 28]

/-- Response of Get Identity. -/
def identityBytes (F : Fuses) (d : Dev) : List Nat := [clsCode F.cls] ++ leBytes 8 F.serial.toNat ++ leBytes 4 d.fwVer

/-- Code of Get Sensor: 0xFFFF when absent, bad, faulted or unreadable. -/
def sensorCode (d : Dev) (i : Nat) : Nat :=
  if d.dark then (if i = 13 then d.therm.aon else 0xFFFF)
  else if i < 14 then (if (d.sensor i).valid ∧ !(d.sensor i).bad then (d.sensor i).code else 0xFFFF)
  else if i = 16 ∨ i = 17 then
    let r := Tbl.look {} d.therm.rd (i - 16)
    if r.valid ∧ !r.fault then r.code else 0xFFFF
  else if 256 ≤ i ∧ d.dieCounts (i - 256) then Tbl.look 0 d.therm.dieCode (i - 256)
  else 0xFFFF

/-- SMBUS_ARP (R371). -/
def execSmbusArp (addr : Fin 128) (s : State) : Host.Outcome State Fault Refusal := .next { s with dev := s.dev.arp addr.val }

/-- SET_ENDPOINT_ID (R371). -/
def execSetEndpointId (eid : Byte) (op : Fin 4) (s : State) : Host.Outcome State Fault Refusal :=
  .next { s with dev := s.dev.mctp.setEid eid.toNat op.val }

/-- GET_ENDPOINT_ID (R371). -/
def execGetEndpointId (s : State) : Host.Outcome State Fault Refusal := .next { s with dev := s.dev.mctp.side [0, s.dev.therm.eid, 0, 0] }

/-- GET_MCTP_VERSION_SUPPORT (R371). -/
def execGetMctpVersionSupport (type : Byte) (s : State) : Host.Outcome State Fault Refusal :=
  .next { s with dev := s.dev.mctp.mctpVersion type.toNat }

/-- GET_MESSAGE_TYPE_SUPPORT (R371). -/
def execGetMessageTypeSupport (s : State) : Host.Outcome State Fault Refusal := .next { s with dev := s.dev.mctp.side [0, 1, 0x7E] }

/-- GET_HEALTH (R371). -/
def execGetHealth (s : State) : Host.Outcome State Fault Refusal := .next { s with dev := s.dev.mctp.side (healthBytes s.dev) }

/-- GET_IDENTITY (R371). -/
def execGetIdentity (s : State) : Host.Outcome State Fault Refusal := .next { s with dev := s.dev.mctp.side (identityBytes s.fuse s.dev) }

/-- GET_SENSOR (R371). -/
def execGetSensor (idx : BitVec 16) (s : State) : Host.Outcome State Fault Refusal :=
  .next { s with dev := s.dev.mctp.side (leBytes 2 (sensorCode s.dev idx.toNat)) }

end Sys2Proof.Machine
end

