-- ==== Sys2Proof/Machine/MailOps.lean ====
section
/-!
DEFINITION. The register mailbox (spec/11_loanuf.md R307; spec/12_management_complex.md R329): its seven commands. A command that
was not begun by a write of MBX_RM_CTL begins and runs here.
-/
namespace Sys2Proof.Machine

/-- Put bytes into 32-bit registers from an offset. -/
def Dev.putWords (d : Dev) (base : Nat) (b : List Nat) : Dev :=
  (List.range ((b.length + 3) / 4)).foldl (fun d k => d.setReg (base + 4 * k) (BitVec.ofNat 32 (leNat ((b.drop (4 * k)).take 4)))) d

/-- Argument k, and result k. -/
def Dev.rmArg (d : Dev) (k : Nat) : Nat := (d.reg (MBX_RM_ARG k)).toNat
def Dev.rmRes (d : Dev) (k v : Nat) : Dev := d.setReg (MBX_RM_ARG k) (BitVec.ofNat 32 v)

/-- The 256-byte data window. -/
def Dev.rmData (d : Dev) : List Nat := (List.range 64).flatMap fun k => leBytes 4 (d.reg (MBX_RM_DATA k)).toNat

/-- The mailbox is served: by the boot code or by firmware, on a pair that passed its self-test. -/
def Dev.rmServed (d : Dev) : Bool := d.live && d.fwRuns && (d.cores.a.ok || d.cores.b.ok)

/-- The Keel write that a mailbox command waits for is not yet verified (R379). -/
def Dev.keelOwes (d : Dev) (o : Nat) : Bool := (d.keel.active ++ d.keel.waiting).any fun w => w.owner == some o

/-- A command may run for a head: none is in progress, or this one of this head's is and waits for nothing. -/
def Dev.rmMay (F : Fuses) (d : Dev) (h : Head) (op : Nat) : Bool :=
  activeHead F d h && (d.head h).linkUp && d.rmServed && !d.keelOwes rmOwner &&
    (!d.lci.rmBusy || (d.fld MBX_RM_CTL 7 0 == op && d.lci.rmOwnerB == decide (h = Head.b)))

/-- A command begins (R307): the mailbox is busy and the head owns it. -/
def Dev.rmGo (d : Dev) (h : Head) (op : Nat) : Dev :=
  if d.lci.rmBusy then d
  else ({ d with lci := { d.lci with rmBusy := true, rmOwnerB := decide (h = Head.b) } }.setFld MBX_RM_CTL 7 0 op).icu 66

/-- A command ends with a status. -/
def Dev.rmEnd (d : Dev) (status : Nat) : Dev := { d with lci := { d.lci with rmBusy := false, rmStatus := status } }

/-- Run a command for a head; the boot code serves 0x01 to 0x05 alone. -/
def rmRun (F : Fuses) (d : Dev) (h : Head) (op : Nat) (f : Dev → Dev) : Dev :=
  if !Dev.rmMay F d h op then d
  else if d.lci.rmBoot ∧ 6 ≤ op then (d.rmGo h op).rmEnd 0x0101
  else f (d.rmGo h op)

/-- Get Status. -/
def rmStatusOf (F : Fuses) (d : Dev) : Dev :=
  let sram := regPeek F d GLB_SRAM_STS
  let image := if d.images.running < 2 then d.images.running else 0xFF
  ((((d.rmRes 0 (svcState d)).rmRes 1 sram).rmRes 2 d.pwr.step).rmRes 3 image).rmEnd 0

/-- Read Log. -/
def rmLog (F : Fuses) (d : Dev) : Dev :=
  let n := d.rmArg 1
  if n = 0 ∨ 4 < n then d.rmEnd 0x0102
  else (d.putWords (MBX_RM_DATA 0) (logRecords F d (d.rmArg 0) n).flatten).rmEnd 0

/-- Read Unfinished. -/
def rmUnfinished (d : Dev) : Dev :=
  let n := d.rmArg 1
  if n = 0 ∨ 4 < n then d.rmEnd 0x0102
  else ((d.putWords (MBX_RM_DATA 0) (d.uwlRecords (d.rmArg 0) n).flatten).rmRes 2 d.keel.uwlEntries.length).rmEnd 0

/-- Bytes into an image slot. -/
def Dev.imagePoke (d : Dev) (slot off : Nat) (b : List Nat) : Dev :=
  let put (t : Tbl Nat) : Tbl Nat := (b.zipIdx off).foldl (fun t e => Tbl.put 0 t e.2 e.1) t
  if slot = 0 then { d with images := { d.images with a := put d.images.a } }
  else { d with images := { d.images with b := put d.images.b } }

/-- Image Write: a write into the slot that runs ends with status 0x0102 (R329). -/
def rmImage (d : Dev) : Dev :=
  let slot := d.rmArg 0
  let off := d.rmArg 1
  if 1 < slot ∨ off % 256 ≠ 0 ∨ slot = d.images.running then d.rmEnd 0x0102
  else if 2 ^ 23 ≤ off then d.rmEnd 0x0104
  else ((d.imagePoke slot off d.rmData).icu 102).rmEnd 0

/-- The selection record takes a slot (R329); what asked for it waits for the Keel store's verify (R379). -/
def Dev.selectImage (d : Dev) (slot owner : Nat) : Dev := Dev.statePut { d with keel := { d.keel with sel := slot } } (some owner)

/-- Image Select. -/
def rmSelect (F : Fuses) (d : Dev) : Dev :=
  let slot := d.rmArg 0
  if 1 < slot then d.rmEnd 0x0102
  else if !imageOk F d slot then (d.rmRes 1 0).rmEnd 0
  else ({ d with lci := { d.lci with rmStatus := 0 } }.rmRes 1 1).selectImage slot rmOwner

/-- Identify. -/
def rmIdent (F : Fuses) (d : Dev) (h : Head) : Dev := (d.putWords (MBX_RM_ARG 0) (identifyBytes F d h ++ [0, 0, 0, 0])).rmEnd 0

/-- Queue Clear. -/
def rmClear (F : Fuses) (d : Dev) (h : Head) : Dev := silentOut F ((clearPairs F d (pairsOf F d h) 8).rmEnd 0)

/-- GET_STATUS (R307). -/
def execGetStatus (h : Head) (s : State) : Host.Outcome State Fault Refusal :=
  .next { s with dev := rmRun s.fuse s.dev h 1 (rmStatusOf s.fuse) }

/-- READ_LOG (R391). -/
def execReadLog (h : Head) (s : State) : Host.Outcome State Fault Refusal := .next { s with dev := rmRun s.fuse s.dev h 2 (rmLog s.fuse) }

/-- READ_UNFINISHED (R394). -/
def execReadUnfinished (h : Head) (s : State) : Host.Outcome State Fault Refusal :=
  .next { s with dev := rmRun s.fuse s.dev h 3 rmUnfinished }

/-- IMAGE_WRITE (R329). -/
def execImageWrite (h : Head) (s : State) : Host.Outcome State Fault Refusal := .next { s with dev := rmRun s.fuse s.dev h 4 rmImage }

/-- IMAGE_SELECT (R329). -/
def execImageSelect (h : Head) (s : State) : Host.Outcome State Fault Refusal :=
  .next (if s.dev.keel.ready then { s with dev := rmRun s.fuse s.dev h 5 (rmSelect s.fuse) } else s)

/-- RM_IDENTIFY (R307). -/
def execRmIdentify (h : Head) (s : State) : Host.Outcome State Fault Refusal :=
  .next { s with dev := rmRun s.fuse s.dev h 6 fun d => rmIdent s.fuse d h }

/-- QUEUE_CLEAR (R307). -/
def execQueueClear (h : Head) (s : State) : Host.Outcome State Fault Refusal :=
  .next { s with dev := rmRun s.fuse s.dev h 7 fun d => rmClear s.fuse d h }

end Sys2Proof.Machine
end

