-- ==== Sys2Proof/Machine/PortCaps.lean ====
section
/-!
DEFINITION. What each head's function reports of itself and never changes (spec/02_host_ports.md R29, R30, R443, R50, R55, R61): identity,
limits and durations. The configuration space's layout is PCIe's; these are the values the manual gives its registers.
-/
namespace Sys2Proof.Machine

/-- Identity registers (R30, R443). -/
structure Identity where
  vendor : Nat := 0x1F3A
  device : Nat := 0x4480
  revision : Nat
  classCode : Nat := 0x050210
  subVendor : Nat := 0x1F3A
  subsystem : Nat
  deriving DecidableEq, Repr

/-- Subsystem ID of the class (R30). -/
def subsystem (F : Fuses) : Nat :=
  match F.cls with
  | .s => 1
  | .m => 2
  | .l => 3

/-- The identity of every head: the Revision ID's bits [3:0] are the die revision of GLB_ID.rev and IDCODE, bits [7:4] are 0 (R30, R443). -/
def identity (F : Fuses) : Identity := { revision := F.rev.toNat, subsystem := subsystem F }

/-- Limits of R29: Max_Payload_Size, Max_Read_Request_Size, outbound non-posted requests, IDE streams, MSI-X vectors, decoders. -/
structure Limits where
  maxPayload : Nat := 512
  maxReadRequest : Nat := 4096
  nonPosted : Nat := 1024
  linkStreams : Nat := 1
  selectiveStreams : Nat := 4
  vectors : Nat := 64
  decoders : Nat := 4
  deriving DecidableEq, Repr

/-- The limits of every head. -/
def limits : Limits := {}

/-- Width of tags: 14 bits in FLIT mode, 10 otherwise (R29). -/
def tagBits (x : HeadState) : Nat := if x.flit256 then 14 else 10

/-- A CXL IDE mode is offered (R29): skid and containment. -/
inductive IdeMode where | skid | containment
  deriving DecidableEq, Repr

/-- GPF Phase 2 Duration in ns and Power in mW (R50). -/
def gpfPhase2Report (F : Fuses) : Nat × Nat :=
  (10000, match F.cls with
    | .s => 18000
    | .m => 46000
    | .l => 58000)

/-- Exit latencies of L1.1 and L1.2 in ns (R55). -/
def exitLatency : Nat × Nat := (8000, 32000)

/-- Interleave ways and granularities of an HDM decoder (R29). -/
def decoderWays : List Nat := [1, 2, 4, 8]
def decoderGrans : List Nat := [256, 512, 1024, 2048, 4096, 8192, 16384]

end Sys2Proof.Machine
end

