-- ==== Sys2Proof/Machine/CxlOps.lean ====
section
/-!
DEFINITION. Each head's CXL mailbox (spec/11_loanuf.md R308; R30, R38, R49, R51, R329, R383). Return codes and payload layouts are those
of the CXL specification (log entry 31).
-/
namespace Sys2Proof.Machine

/-- A mailbox response. -/
def Dev.mail (d : Dev) (h : Head) (code : Nat) (payload : List Nat := []) : Dev := d.emit (.mailbox h code payload)

/-- A head's mailbox command: controller firmware serves it, one at a time. -/
def mailRun (F : Fuses) (d : Dev) (h : Head) (f : Dev → Dev) : Dev :=
  if !activeHead F d h ∨ !(d.head h).linkUp ∨ !d.rmServed ∨ d.images.running = 3 ∨ d.keelOwes (mailOwner h) then d
  else f (d.icu (67 + hIdx h))

/-! ## Identity, events, firmware -/

/-- Response of Identify. -/
def cxlIdentity (F : Fuses) : List Nat :=
  let i := identity F
  leBytes 2 i.vendor ++ leBytes 2 i.device ++ leBytes 2 i.subVendor ++ leBytes 2 i.subsystem ++ leBytes 8 F.serial.toNat ++ [Config.maxMessage, 3]

/-- Response of Background Operation Status: Transfer FW, once done (R308). -/
def bgStatus (d : Dev) : List Nat :=
  if d.lci.bgOp = 0 then List.replicate 8 0 else [2 * 100, 0] ++ leBytes 2 d.lci.bgOp ++ [0, 0, 0, 0]

/-- A head's log by its number. -/
def logName (n : Nat) : LogName := match n with
  | 0 => .info
  | 1 => .warn
  | 2 => .fail
  | _ => .fatal

/-- Number of a kind of record. -/
def EvKind.num : EvKind → Nat
  | .erasures => 0
  | .poison => 1
  | .mediaFailed => 2
  | .groupLost => 3
  | .floor => 4
  | .sealed => 5
  | .sealLifted => 6
  | .temperature => 7
  | .shutdown => 8
  | .dirtyShutdown => 9
  | .portLost => 10
  | .failover => 11
  | .windowRefused => 12
  | .discardedWrite => 13
  | .sealedWrite => 14
  | .throttle => 15
  | .other => 16
  | .linkSlow => 17
  | .groupNamed => 18
  | .poisonWrite => 19
  | .poisonTag => 20
  | .uncovered => 21

/-- Record type of R49's table: 0 General Media Event, 1 Memory Module Event, 2 vendor-specific. A lost port of a bonded pair is posted as R36
says, though R49's table lists it as vendor-specific (log entry 68). -/
def EvKind.recType : EvKind → Nat
  | .erasures | .poison | .poisonWrite | .poisonTag | .mediaFailed | .groupLost => 0
  | .floor | .sealed | .sealLifted | .temperature | .shutdown | .dirtyShutdown | .throttle | .linkSlow | .portLost | .uncovered | .other => 1
  | .failover | .windowRefused | .discardedWrite | .sealedWrite | .groupNamed => 2

/-- Transaction type that a General Media record gives (R49, R72), in CXL's encoding: 0 unknown, 1 host read, 2 host write, 6 internal media
management (log entry 31). -/
def EvKind.trans : EvKind → Nat
  | .poison => 1
  | .poisonWrite => 2
  | .poisonTag => 6
  | _ => 0

/-- The handle of a record: 16 bits, never 0. -/
def EvRec.handle16 (r : EvRec) : Nat := (r.handle + 65534) % 65535 + 1

/-- Host time of a Tether time (R308). -/
def hostTime (x : HeadState) (t : Nat) : Nat := twos64 ((t : Int) + x.tsOffset)

/-- A record as Get Event Records returns it. -/
def eventBytes (x : HeadState) (log : Nat) (r : EvRec) : List Nat :=
  Config.eventUuid r.kind.recType ++ [0x80, log, 0, 0] ++ leBytes 2 r.handle16 ++ [0, 0] ++ leBytes 8 (hostTime x r.time) ++ List.replicate 16 0 ++
    ([r.kind.trans] ++ Config.eventData r.kind.num r.arg)

/-- Response of Get Event Records. -/
def eventsBytes (x : HeadState) (log : Nat) : List Nat :=
  let l := x.log (logName log)
  [b2n (decide (0 < l.overflow)), 0] ++ leBytes 2 (min l.overflow 0xFFFF) ++ leBytes 8 (hostTime x l.overFirst) ++ leBytes 8 (hostTime x l.overLast) ++
    leBytes 2 l.recs.length ++ List.replicate 10 0 ++ l.recs.flatMap (eventBytes x log)

/-- Clear Event Records: all, or the oldest in their order. -/
def clearEvents (d : Dev) (h : Head) (log : Nat) (all : Bool) (handles : List Nat) : Dev :=
  let x := d.head h
  let l := x.log (logName log)
  if all then (d.setHead h (x.setLog (logName log) { l with recs := [], overflow := 0 })).mail h 0
  else if handles = (l.recs.take handles.length).map EvRec.handle16 then
    (d.setHead h (x.setLog (logName log) { l with recs := l.recs.drop handles.length, overflow := 0 })).mail h 0
  else d.mail h 0xE

/-- Version of the image in a slot. -/
def Dev.slotVer (d : Dev) (slot : Nat) : Nat := leNat (d.imageBytes slot 4 4)

/-- Response of Get FW Info: two slots, the running one and, where another is selected for the next bring-up, that one. -/
def fwInfo (d : Dev) : List Nat :=
  let staged := if d.keel.sel = d.images.running then 0 else d.keel.sel + 1
  [2, d.images.running + 1 + 8 * staged, 0] ++ List.replicate 13 0 ++ Config.fwRevision (d.slotVer 0) ++ Config.fwRevision (d.slotVer 1) ++
    List.replicate 32 0

/-- Transfer FW (R329): the running slot is refused. -/
def fwTransfer (d : Dev) (h : Head) (slot off : Nat) (data : List Nat) : Dev :=
  if slot = d.images.running then d.mail h 0xB
  else if 2 ^ 23 < off + data.length then d.mail h 2
  else ({ d.imagePoke slot off data with lci := { d.lci with bgOp := 0x0201 } }.icu 102).mail h 1

/-- Activate FW (R329): at the next bring-up, for a slot that passes R327. -/
def fwActivate (F : Fuses) (d : Dev) (h : Head) (slot : Nat) : Dev :=
  if imageOk F d slot then d.selectImage slot (mailOwner h) else d.mail h 0xA

/-! ## Logs and memory device -/

/-- The commands of R308 by opcode. -/
def mailOpcodes : List Nat :=
  [0x0001, 0x0002, 0x0100, 0x0101, 0x0102, 0x0103, 0x0200, 0x0201, 0x0202, 0x0300, 0x0301, 0x0400, 0x0401, 0x4000, 0x4100, 0x4102, 0x4103,
   0x4200, 0x4201, 0x4202, 0x4203, 0x4204, 0x4300, 0x4301, 0x4302]

/-- UUID of the Command Effects Log. -/
def celUuid : List Nat := [0x0D, 0xA9, 0xC0, 0xB5, 0xBF, 0x41, 0x4B, 0x78, 0x8F, 0x79, 0x96, 0xB1, 0x62, 0x3B, 0x3F, 0x17]

/-- Response of Get Supported Logs. -/
def logsBytes : List Nat := [1, 0, 0, 0, 0, 0, 0, 0] ++ celUuid ++ leBytes 4 (4 * mailOpcodes.length)

/-- Response of Get Log. -/
def celBytes : List Nat := mailOpcodes.flatMap fun o => leBytes 2 o ++ leBytes 2 (Config.celEffect o)

/-- Capacities in units of 256 MiB: persistent (R38) and volatile. -/
def persistUnits (F : Fuses) (d : Dev) (h : Head) : Nat := headCapacity F d h / 2 ^ 28

/-- Response of Identify Memory Device. -/
def memoryBytes (F : Fuses) (d : Dev) (h : Head) : List Nat :=
  Config.fwRevision d.fwVer ++ leBytes 8 (persistUnits F d h + 1) ++ leBytes 8 1 ++ leBytes 8 (persistUnits F d h) ++ leBytes 8 0 ++
    leBytes 2 64 ++ leBytes 2 64 ++ leBytes 2 64 ++ leBytes 2 64 ++ leBytes 4 16384 ++ leBytes 3 512 ++ leBytes 2 0 ++ [0, 1]

/-- Response of Get Partition Info: the partition is fixed (R38). -/
def partitionBytes (F : Fuses) (d : Dev) (h : Head) : List Nat :=
  leBytes 8 1 ++ leBytes 8 (persistUnits F d h) ++ leBytes 8 1 ++ leBytes 8 (persistUnits F d h)

/-- First page of a head's label storage area (R376, R383). -/
def lsaPage (h : Head) : Nat := 0x8A + 64 * hIdx h

/-- Bytes of a label storage area. -/
def lsaBytes (d : Dev) (h : Head) (off n : Nat) : List Nat :=
  (List.range n).map fun i => Tbl.look 0 d.keel.bytes (256 * lsaPage h + off + i)

/-- Get LSA. -/
def lsaGet (d : Dev) (h : Head) (off n : Nat) : Dev := if 16384 < off + n then d.mail h 2 else d.mail h 0 (lsaBytes d h off n)

/-- The page writes of Set LSA (R383). -/
def lsaWrites (h : Head) (off : Nat) (b : List Nat) : List KWrite :=
  let pages := (List.range 64).filter fun k => decide (off < 256 * (k + 1) ∧ 256 * k < off + b.length)
  pages.map fun k =>
    let first := max off (256 * k)
    let last := min (off + b.length) (256 * (k + 1))
    ⟨lsaPage h + k, first - 256 * k, (b.drop (first - off)).take (last - first), .raw, 0, some (mailOwner h)⟩

/-- Set LSA (R383): it completes when every page is verified. -/
def lsaSet (d : Dev) (h : Head) (off : Nat) (b : List Nat) : Dev :=
  if 16384 < off + b.length then d.mail h 2
  else if b.isEmpty then d.mail h 0
  else (lsaWrites h off b).foldl Dev.keelPut d

/-! ## Health and poison -/

/-- Get Health Info (R51, R308): life used, temperature and the dirty shutdown count; the states and error counts that the spec does not
give are free values. -/
def healthInfo (d : Dev) (h : Head) : Dev :=
  let (s0, d0) := d.free
  let (s1, d1) := d0.free
  let (s2, d2) := d1.free
  let (cv, d3) := d2.free
  let (cp, d4) := d3.free
  d4.mail h 0 ([s0 % 256, s1 % 256, s2 % 256, min 100 (d.wearMax * 100 / 200000)] ++ leBytes 2 (twos64 ((d.therm.tj : Int) / 4 - 64)) ++
    leBytes 4 d.keel.dirty ++ leBytes 4 cv ++ leBytes 4 cp)

/-- Get Poison List: origins of the head's DPA range, newest first (R308). -/
def poisonBytes (x : HeadState) (first : Nat) : List Nat :=
  [2 * b2n x.poisonMore, 0] ++ leBytes 8 first ++ leBytes 2 x.poisonList.length ++ List.replicate 20 0 ++
    x.poisonList.flatMap fun e => leBytes 8 (e.1 / 64 * 64 + Config.poisonSource e.2 % 8) ++ leBytes 4 1 ++ [0, 0, 0, 0]

/-- Get Poison List; when the first overflow happened is not held, and is a free value. -/
def poisonGet (d : Dev) (h : Head) : Dev :=
  if (d.head h).poisonMore then
    let (t, d1) := d.free
    d1.mail h 0 (poisonBytes (d.head h) t)
  else d.mail h 0 (poisonBytes (d.head h) 0)

/-- A whole-line write of the mailbox (R33, R180): with or without poison. -/
def mailWrite (F : Fuses) (d : Dev) (h : Head) (dpa : Nat) (data : LineData) (poison : Bool) : Dev :=
  let line := dpa / 64
  let w := windowAt F d h dpa
  match placeOf F d h dpa with
  | .nothing | .sharedHidden => d.mail h 0xF
  | .scratch i =>
    let c := d.cache
    if poison then
      ((recordPoison F d line 4).setCache { c.scrMark i 4 with scr := Tbl.put 0 c.scr i 0 }).mail h 0
    else (d.setCache { c with scrPoison := c.scrPoison.filter (· != i), scr := Tbl.put 0 c.scr i data }).mail h 0
  | .persist =>
    if d.readOnly w dpa then d.mail h 0xF
    else if !d.pwr.replayDone ∨ !gondolaRoom F d (some h) then d.mail h 5
    else
      let (key, base) := d.keyBase w dpa
      let wt := match w with
        | some x => x.wt
        | none => false
      let r : WReq := { line := line, data := data, poison := poison, key := key, base := base, wt := wt, owner := .host h }
      if d.tracts.sealed then (acceptWrite F (sealedNote F d h line) { r with poison := true, sealedWrite := true }).mail h 0
      else if poison then (acceptWrite F (recordPoison F d line 4) r).mail h 0
      else (acceptWrite F d r).mail h 0

/-! ## The meanings -/

/-- CXL_IDENTIFY (R30, R308). -/
def execCxlIdentify (h : Head) (s : State) : Host.Outcome State Fault Refusal :=
  .next { s with dev := mailRun s.fuse s.dev h fun d => d.mail h 0 (cxlIdentity s.fuse) }

/-- BACKGROUND_OPERATION_STATUS (R308). -/
def execBackgroundOperationStatus (h : Head) (s : State) : Host.Outcome State Fault Refusal :=
  .next { s with dev := mailRun s.fuse s.dev h fun d => d.mail h 0 (bgStatus d) }

/-- GET_EVENT_RECORDS (R49, R308). -/
def execGetEventRecords (h : Head) (log : Fin 4) (s : State) : Host.Outcome State Fault Refusal :=
  .next { s with dev := mailRun s.fuse s.dev h fun d => d.mail h 0 (eventsBytes (d.head h) log.val) }

/-- CLEAR_EVENT_RECORDS (R49, R308). -/
def execClearEventRecords (h : Head) (log : Fin 4) (all : Bool) (handles : List (BitVec 16)) (s : State) :
    Host.Outcome State Fault Refusal :=
  .next { s with dev := mailRun s.fuse s.dev h fun d => clearEvents d h log.val all (handles.map (·.toNat)) }

/-- GET_EVENT_INTERRUPT_POLICY (R308). -/
def execGetEventInterruptPolicy (h : Head) (s : State) : Host.Outcome State Fault Refusal :=
  .next { s with dev := mailRun s.fuse s.dev h fun d => d.mail h 0 (leBytes 4 (d.head h).evPolicy) }

/-- SET_EVENT_INTERRUPT_POLICY (R308). -/
def execSetEventInterruptPolicy (h : Head) (policy : Reg32) (s : State) : Host.Outcome State Fault Refusal :=
  .next { s with dev := mailRun s.fuse s.dev h fun d => (d.setHead h { d.head h with evPolicy := policy.toNat }).mail h 0 }

/-- GET_FW_INFO (R308). -/
def execGetFwInfo (h : Head) (s : State) : Host.Outcome State Fault Refusal :=
  .next { s with dev := mailRun s.fuse s.dev h fun d => d.mail h 0 (fwInfo d) }

/-- TRANSFER_FW (R329). -/
def execTransferFw (h : Head) (slot : Fin 2) (offset : Nat) (data : List Byte) (s : State) : Host.Outcome State Fault Refusal :=
  .next { s with dev := mailRun s.fuse s.dev h fun d => fwTransfer d h slot.val offset (data.map (·.toNat)) }

/-- ACTIVATE_FW (R329). -/
def execActivateFw (h : Head) (slot : Fin 2) (s : State) : Host.Outcome State Fault Refusal :=
  .next { s with dev := mailRun s.fuse s.dev h fun d => fwActivate s.fuse d h slot.val }

/-- GET_TIMESTAMP (R308): 0 until one has been set. -/
def execGetTimestamp (h : Head) (s : State) : Host.Outcome State Fault Refusal :=
  let f (d : Dev) : Dev := d.mail h 0 (leBytes 8 (if (d.head h).tsSet then hostTime (d.head h) d.tether.now else 0))
  .next { s with dev := mailRun s.fuse s.dev h f }

/-- SET_TIMESTAMP (R308): the offset from Tether to host time is stored. -/
def execSetTimestamp (h : Head) (value : BitVec 64) (s : State) : Host.Outcome State Fault Refusal :=
  let f (d : Dev) : Dev := (d.setHead h { d.head h with tsSet := true, tsOffset := (value.toNat : Int) - d.tether.now }).mail h 0
  .next { s with dev := mailRun s.fuse s.dev h f }

/-- GET_SUPPORTED_LOGS (R308). -/
def execGetSupportedLogs (h : Head) (s : State) : Host.Outcome State Fault Refusal :=
  .next { s with dev := mailRun s.fuse s.dev h fun d => d.mail h 0 logsBytes }

/-- GET_LOG (R308). -/
def execGetLog (h : Head) (s : State) : Host.Outcome State Fault Refusal :=
  .next { s with dev := mailRun s.fuse s.dev h fun d => d.mail h 0 celBytes }

/-- IDENTIFY_MEMORY_DEVICE (R308). -/
def execIdentifyMemoryDevice (h : Head) (s : State) : Host.Outcome State Fault Refusal :=
  .next { s with dev := mailRun s.fuse s.dev h fun d => d.mail h 0 (memoryBytes s.fuse d h) }

/-- GET_PARTITION_INFO (R38, R308). -/
def execGetPartitionInfo (h : Head) (s : State) : Host.Outcome State Fault Refusal :=
  .next { s with dev := mailRun s.fuse s.dev h fun d => d.mail h 0 (partitionBytes s.fuse d h) }

/-- GET_LSA (R308). -/
def execGetLsa (h : Head) (offset len : Nat) (s : State) : Host.Outcome State Fault Refusal :=
  .next { s with dev := mailRun s.fuse s.dev h fun d => lsaGet d h offset len }

/-- SET_LSA (R383). -/
def execSetLsa (h : Head) (offset : Nat) (data : List Byte) (s : State) : Host.Outcome State Fault Refusal :=
  .next { s with dev := mailRun s.fuse s.dev h fun d => lsaSet d h offset (data.map (·.toNat)) }

/-- GET_HEALTH_INFO (R308). -/
def execGetHealthInfo (h : Head) (s : State) : Host.Outcome State Fault Refusal :=
  .next { s with dev := mailRun s.fuse s.dev h fun d => healthInfo d h }

/-- GET_ALERT_CONFIGURATION (R308). -/
def execGetAlertConfiguration (h : Head) (s : State) : Host.Outcome State Fault Refusal :=
  .next { s with dev := mailRun s.fuse s.dev h fun d => d.mail h 0 (leBytes 4 (d.head h).alertCfg) }

/-- SET_ALERT_CONFIGURATION (R308, R379). -/
def execSetAlertConfiguration (h : Head) (value : Reg32) (s : State) : Host.Outcome State Fault Refusal :=
  let f (d : Dev) : Dev := ((d.setHead h { d.head h with alertCfg := value.toNat }).settingPut (0x100 + hIdx h) value.toNat).mail h 0
  .next { s with dev := mailRun s.fuse s.dev h f }

/-- GET_SHUTDOWN_STATE (R308). -/
def execGetShutdownState (h : Head) (s : State) : Host.Outcome State Fault Refusal :=
  .next { s with dev := mailRun s.fuse s.dev h fun d => d.mail h 0 [(d.head h).shutdownState] }

/-- SET_SHUTDOWN_STATE (R308, R379). -/
def execSetShutdownState (h : Head) (value : Byte) (s : State) : Host.Outcome State Fault Refusal :=
  let f (d : Dev) : Dev := ((d.setHead h { d.head h with shutdownState := value.toNat }).settingPut (0x110 + hIdx h) value.toNat).mail h 0
  .next { s with dev := mailRun s.fuse s.dev h f }

/-- GET_POISON_LIST (R308). -/
def execGetPoisonList (h : Head) (s : State) : Host.Outcome State Fault Refusal :=
  .next { s with dev := mailRun s.fuse s.dev h fun d => poisonGet d h }

/-- INJECT_POISON (R33, R308). -/
def execInjectPoison (h : Head) (dpa : Dpa) (s : State) : Host.Outcome State Fault Refusal :=
  .next { s with dev := mailRun s.fuse s.dev h fun d => mailWrite s.fuse d h dpa.toNat 0 true }

/-- CLEAR_POISON (R180, R308). -/
def execClearPoison (h : Head) (dpa : Dpa) (data : LineData) (s : State) : Host.Outcome State Fault Refusal :=
  .next { s with dev := mailRun s.fuse s.dev h fun d => mailWrite s.fuse d h dpa.toNat data false }

/-- UNSUPPORTED_MAILBOX_COMMAND (R308): every opcode that R308 does not list. -/
def execUnsupportedMailboxCommand (h : Head) (op : BitVec 16) (s : State) : Host.Outcome State Fault Refusal :=
  .next (if mailOpcodes.contains op.toNat then s else { s with dev := mailRun s.fuse s.dev h fun d => d.mail h 3 })

end Sys2Proof.Machine
end

