-- ==== Sys2Proof/Machine/ReplayOps.lean ====
section
/-!
DEFINITION. Replay recovery (spec/13_power_bringup_ripcord.md R357 to R359, R448): the restore of step 0x8, the repair of step 0x9 and
the release of a segment.
-/
namespace Sys2Proof.Machine

/-! ## Restore -/

/-- The segment that is restored (R357, R358): the newest; but where the last power-down saved nothing, or its parts 1 and 2 are both
unreadable, the newest complete one that is not released, and every tract is scrubbed. -/
def segPick (d : Dev) (parts : Nat) : Option Segment × Bool :=
  let p := d.pwr
  let cut := decide (p.ended = 4 ∨ p.ended = 5)
  let whole := p.segs.find? fun s => s.complete && !s.released
  match p.segs.head? with
  | none => (none, cut)
  | some s =>
    if cut then (whole, true)
    else if s.released then (none, false)
    else if !s.complete && bits parts 1 0 == 0 then (whole, true)
    else (some s, false)

/-- Internal name of the i-th restored Snapshot: its command is no longer there. -/
def snapName (i : Nat) : Nat := 2 ^ 32 - 1 - i

/-- A Gondola entry as it is restored: nobody waits for it. -/
def GEntry.restored (e : GEntry) (d : Dev) (s : Segment) : GEntry :=
  let pre := match e.preLaunch with
    | some h => (s.snaps.findIdx? fun x => x.handle == h).map snapName
    | none => none
  { e with acks := [], segment := some s.num, preLaunch := pre, time := d.tether.now, accepted := d.tether.now }

/-- The record saved for a slot unwraps (R448). -/
def Segment.unwraps (F : Fuses) (d : Dev) (s : Segment) (k : Nat) : Option Slot :=
  match s.keys.find? fun e => e.1 == k with
  | some (_, x, w) => if w = replayWrapKey F d s.num x then some x else none
  | none => none

/-- A line whose Gondola contents cannot be reconstructed is a poison line, origin 0x5 (R358, R448). -/
def lostEntry (F : Fuses) (d : Dev) (line : Nat) : Dev :=
  recordPoison F { d with gon := { d.gon with lostLines := d.gon.lostLines.filter (· != line) ++ [line] } } line 5

/-- Entries of part 3 return to Gondola, with their slots; those whose row does not decode, or whose slot record cannot be unwrapped,
are lost (R357, R358, R448). -/
def entriesBack (F : Fuses) (d : Dev) (s : Segment) (parts : Nat) (lost : List Nat) : Dev :=
  let ok (e : Nat × Option GEntry) : Bool := match e.2 with
    | some g => bit parts 2 && !lost.contains e.1 && (g.key == 0 || (s.unwraps F d g.key).isSome)
    | none => false
  let back (t : Tbl (Option GEntry)) : Tbl (Option GEntry) :=
    (t.filter ok).foldl (fun t e => Tbl.put none t e.1 (e.2.map fun g => g.restored d s)) []
  if !bit parts 0 then d
  else
    let d1 := { d with gon := { d.gon with staged := back s.staged, wb := back s.wb
                                           lostLines := s.lost
                                           seq := (s.staged ++ s.wb).foldl (fun n e => match e.2 with
                                             | some g => max n (g.seq + 1)
                                             | none => n) d.gon.seq } }
    let used := ((s.staged ++ s.wb).filter ok).filterMap fun e => e.2.map fun g => g.key
    let d2 := (used.dedup.filter (· != 0)).foldl (fun d k => match s.unwraps F d k with
      | some x => d.setSlot k { x with state := 2 }
      | none => d) d1
    (((s.staged ++ s.wb).filter fun e => !ok e).map (·.1)).dedup.foldl (lostEntry F) d2

/-- Dirty metadata lines enter the translation cache as dirty, or are lost in both copies (R357, R358). -/
def metaBackIn (F : Fuses) (d : Dev) (s : Segment) (readable : Bool) : Dev :=
  let ids := s.metaLines.map fun l => l.id
  if readable then
    let d1 := ids.foldl (fun d id => (d.setMeta (copyMeta s.mta d.tracts.cur id)).tcTouch id true) d
    { d1 with pwr := { d1.pwr with segMeta := ids } }
  else ids.foldl (metaLost F) d

/-- The page whose counter line has this place. -/
def Dev.pageOfPlace (d : Dev) (k : Nat) : Option Nat :=
  d.tracts.cur.hdr.findSome? fun e => match e.2.ctr with
    | some _ => if d.ctrPlace (e.1 * 256 + k % 256) = some k then some (e.1 * 256 + k % 256) else none
    | none => none

/-- Counter lines enter the counter cache as dirty, or their pages are exhausted (R357, R358). -/
def countersBack (F : Fuses) (d : Dev) (s : Segment) (readable : Bool) : Dev :=
  if readable then
    let t := s.ctr.foldl (fun t e => Tbl.put none t e.1 (e.2.map fun c => { c with segment := some s.num, key := 0 })) d.sec.ctr
    { d with sec := { d.sec with ctr := t, reenc := s.reenc } }
  else s.ctr.foldl (fun d e => match d.pageOfPlace e.1 with
    | some p => d.exhaust F p
    | none => d) d

/-- A row whose open-row entry is lost (R358): stripes that reconstruct are repaired, lines of the others become poison lines,
origin 0x1. -/
def rowLost (F : Fuses) (d : Dev) (r : OpenRow) : Dev :=
  let w := d.widthAt r.g r.pa
  let l (j : Nat) : Loc := ⟨r.g, r.pa, j, 0, w, decide (r.mode = .slc)⟩
  let bad (p : Nat) : Bool := (Tbl.look {} (d.die (dieOf r.g p)).pages r.pa).undef
  let unk := (d.positions r.g w).foldl (fun n p => if bad p then n + 2 ^ p else n) 0
  if unk = 0 then d
  else
    let data (j : Nat) : List (Option MediaLine) := (List.range (w - 2)).map fun i => d.memberLine (l j) unk (d.dataPos (l j) i)
    let one (acc : Dev × List (Nat × Nat)) (j : Nat) : Dev × List (Nat × Nat) :=
      match stripeSolve (d.memberLine (l j) unk (d.pPos (l j))) (d.memberLine (l j) unk (d.qPos (l j))) (data j) with
      | some v => (acc.1.putStripe (l j) v, acc.2)
      | none => (acc.1.putStripe (l j) ((data j).map fun x => x.getD poisonLine),
                 acc.2 ++ ((data j).zipIdx.filter fun e => e.1.isNone).map fun e => (j, e.2))
    let (d1, holes) := (List.range 8).foldl one (d, [])
    let lines := (d.tractsAt r.g r.pa).flatMap fun t => ((List.range 16384).map (16384 * t + ·)).filter fun n =>
      let x := d.lineLoc n
      decide (x.g = r.g ∧ x.pa = r.pa) && holes.contains (x.slot, x.idx)
    lines.foldl (fun d n => recordPoison F d n 1) d1

/-- Open-row entries return to their table, or their rows are repaired (R357, R358). -/
def rowsBack (F : Fuses) (d : Dev) (s : Segment) (parts : Nat) : Dev :=
  if bit parts 3 then
    { d with media := { d.media with rows := s.rows, rowSeq := s.rows.foldl (fun n r => max n (r.seq + 1)) d.media.rowSeq } }
  else if bit parts 0 then s.rows.foldl (rowLost F) d else d

/-- The states of migrations, Snapshot builds and the Rekey return (R357). Their commands do not. -/
def unitsBack (d : Dev) (s : Segment) : Dev :=
  { d with
    tracts := { d.tracts with migs := s.migs, freeing := s.freeing }
    str := { d.str with snaps := s.snaps.zipIdx.map fun e => { e.1 with handle := snapName e.2 } }
    sec := { d.sec with rekey := s.rekey.map fun r => { r with handle := snapName 100 } } }

/-- The contents of a segment are restored (R357, R358). -/
def segRestore (F : Fuses) (d : Dev) (s : Segment) (parts : Nat) (lost : List Nat) : Dev :=
  let d1 := metaBackIn F d s (bit parts 1)
  let d2 := if bit parts 5 then unitsBack d1 s else d1
  let d3 := rowsBack F d2 s parts
  let d4 := countersBack F d3 s (bit parts 4)
  let d5 := entriesBack F d4 s parts lost
  { d5 with pwr := { d5.pwr with segUsed := some s.num, incomplete := !s.complete } }

/-- The outcome of the previous power-down is recorded (R51, R378, R379). -/
def outcomeRecord (F : Fuses) (d : Dev) : Dev :=
  let k := d.keel
  let o := d.pwr.ended
  let rip := decide (o = 2 ∨ o = 3)
  let count := decide (3 ≤ o ∧ o ≤ 5) && k.gndUsed
  let held := !d.gon.staged.isEmpty || !d.gon.wb.isEmpty
  let k1 := { k with lastOff := o, dirty := if count then satAdd k.dirty 1 0xFFFFFFFF else k.dirty
                     ripTotal := if rip then satAdd k.ripTotal 1 0xFFFF else k.ripTotal
                     ripIncomp := if o = 3 then satAdd k.ripIncomp 1 0xFFFF else k.ripIncomp, gndUsed := held }
  let d1 := { d with keel := k1, pwr := { d.pwr with lastOff := o, ended := 0 } }
  let d2 := if count then d1.postAll F .fail .dirtyShutdown 0 else d1
  d2.statePut.lifePut

/-- Reduced service begins (R350, R352); MBX_LCI_STS.ready set is a device notice, as the new state is (R323). -/
def reducedEntry (F : Fuses) (d : Dev) : Dev :=
  let d1 := Dev.setSvc F d .reduced
  Dev.notice F { d1 with pwr := { d1.pwr with step := 9 }, lci := { d1.lci with ready := true }, tether := { d1.tether with schedule := true } }

/-- Step 0x8 (R350, R357): `parts` are the parts of the segment that decode, `lost` the lines of part 3 that do not. -/
def replayRestore (F : Fuses) (d : Dev) (parts : Nat) (lost : List Nat) : Dev :=
  if d.pwr.svc ≠ .bringup ∨ d.pwr.step ≠ 8 ∨ d.dbg.hold ∨ d.pwr.downing.isSome then d
  else
    let (seg, scrub) := segPick d parts
    let ps := match seg with
      | some s => if s.complete && scrub then 127 else parts
      | none => 0
    let d1 := match seg with
      | some s => segRestore F d s ps lost
      | none => d
    let d2 := { d1 with tracts := { d1.tracts with sealed := d1.sealedRecord }
                        pwr := { d1.pwr with restored := true, scrubFirst := d1.pwr.scrubFirst || scrub
                                             incomplete := d1.pwr.incomplete || scrub
                                             replayLines := d1.gon.staged.length + d1.gon.wb.length } }
    let d3 := outcomeRecord F d2
    if d3.pwr.stopUp then d3.downEntry .pwrReq none else reducedEntry F d3

/-! ## Repair -/

/-- A page row's changed pages are programmed again from its entry (R357). -/
def Dev.rowAgain (d : Dev) (r : OpenRow) : Dev :=
  let d1 := ((List.range 10).filter fun p => bit r.left p).foldl (fun d p => d.rowPage r.g r.pa p true) d
  d1.rowDone r.g r.pa

/-- A migration that was cut off: its target is freed and it is queued again (R214, R357); one that had switched has only its source
to free. A Rekey's tract is queued when the Rekey goes on. -/
def Dev.migAgain (d : Dev) (m : Mig) : Dev :=
  if m.step = 7 then
    { d with tracts := { d.tracts with freeing := d.tracts.freeing ++ [⟨m.source.group, m.source.index, decide (m.source.kind = 2), d.tether.now⟩] } }
  else if m.why = .rekey then d.dropTarget m.target
  else (d.dropTarget m.target).migQueue m.tract m.why

/-- A launched Snapshot's mapping is built whole (R288, R357). -/
def Dev.snapAgain (d : Dev) (s : Snap) : Dev :=
  ((List.range (s.size / 2 ^ 20)).foldl (fun d _ => d.snapBuild s.handle) d).snapDone s.handle

/-- Step 0x9 (R350, R357): rebuilds resume (R163, R445); then replay_done is 1 and the survey begins. -/
def replayRepair (d : Dev) : Dev :=
  if d.pwr.svc ≠ .reduced ∨ d.pwr.step ≠ 9 then d
  else
    let d1 := d.media.rows.foldl (fun d r => d.rowAgain r) d
    let ms := d1.tracts.migs
    let d2 := ms.foldl (fun d m => d.migAgain m) { d1 with tracts := { d1.tracts with migs := [] } }
    let targets := d2.tracts.cur.phys.filter fun e => e.2.state == 3
    let d3 := targets.foldl (fun d e => d.dropTarget { kind := 1, group := e.1 / 2 ^ 19, index := e.1 % 2 ^ 19 }) d2
    let d3a := (d3.popGroups.filter fun g => decide (1 ≤ (d3.grp g).units) && !(d3.grp g).absent).foldl (fun d g => d.queueGroup g) d3
    let d4 := (d3a.str.snaps.filter fun s => s.fired.isSome).foldl (fun d s => d.snapAgain s) d3a
    Dev.surveyBegin { d4 with pwr := { d4.pwr with replayDone := true, step := 10 } }

/-! ## Release -/

/-- Everything restored from the segment in use has reached its home (R359). -/
def Dev.segDrained (d : Dev) (n : Nat) : Bool :=
  let mine (e : Nat × Option GEntry) : Bool := match e.2 with
    | some g => g.segment == some n
    | none => false
  !(d.gon.staged ++ d.gon.wb).any mine && !(d.sec.ctr.any fun e => match e.2 with
    | some c => c.segment == some n && c.dirty.isSome
    | none => false) && d.pwr.segMeta.all fun id => !d.tracts.tc.any fun l => l.id == id && l.dirty.isSome

/-- The segment is released (R359, R380). -/
def segRelease (d : Dev) : Dev :=
  match d.pwr.segUsed with
  | none => d
  | some n =>
    if d.pwr.replayDone ∧ d.segDrained n then
      Dev.rootPut { d with pwr := { d.pwr with segUsed := none
                                               segs := d.pwr.segs.map fun s => { s with released := true } } }
    else d

/-- REPLAY_RESTORE (R357, R358). -/
def execReplayRestore (parts : BitVec 7) (lost : List Dpa) (s : State) : Host.Outcome State Fault Refusal :=
  .next { s with dev := replayRestore s.fuse s.dev parts.toNat (lost.map fun a => a.toNat / 64) }

/-- REPLAY_REPAIR (R357). -/
def execReplayRepair (s : State) : Host.Outcome State Fault Refusal := .next { s with dev := replayRepair s.dev }

/-- SEGMENT_RELEASE (R359). -/
def execSegmentRelease (s : State) : Host.Outcome State Fault Refusal := .next { s with dev := segRelease s.dev }

end Sys2Proof.Machine
end

