-- ==== Sys2Proof/Machine/FlushOps.lean ====
section
/-!
DEFINITION. Ripcord and the shutdown flush (spec/13_power_bringup_ripcord.md R353 to R356, R381, R448), Rest (R360), and the power-up
of the always-on domain (R330).
-/
namespace Sys2Proof.Machine

/-! ## The segment -/

/-- Key records of the slots under which an entry is held, each with the key it is wrapped under (R448). -/
def segKeys (F : Fuses) (d : Dev) (n : Nat) : List (Nat × Slot × BitVec 256) :=
  let ks := ((d.gon.staged ++ d.gon.wb).filterMap fun e => e.2.map fun g => g.key).dedup.filter (· != 0)
  ks.map fun k => (k, d.slot k, replayWrapKey F d n (d.slot k))

/-- The contents of a segment (R353). -/
def segOf (F : Fuses) (d : Dev) (n : Nat) : Segment :=
  let live (t : Tbl (Option GEntry)) : Tbl (Option GEntry) := t.filter fun e => match e.2 with
    | some g => !g.gone
    | none => false
  let ls := d.tracts.tc.filter fun l => l.dirty.isSome
  { num := n, staged := live d.gon.staged, wb := live d.gon.wb, keys := segKeys F d n, metaLines := ls
    mta := ls.foldl (fun m l => copyMeta d.tracts.cur m l.id) {}, rows := d.media.rows
    ctr := d.sec.ctr.filter fun e => match e.2 with
      | some c => c.dirty.isSome
      | none => false
    reenc := d.sec.reenc, migs := d.tracts.migs, snaps := d.str.snaps.filter fun s => s.fired.isSome, rekey := d.sec.rekey
    freeing := d.tracts.freeing, lost := d.gon.lostLines }

/-- Any die still programs. -/
def Dev.anyBusy (d : Dev) : Bool := d.media.die.any fun e => e.2.busy

/-- Every die is put into power-down (R140). -/
def Dev.allDown (d : Dev) : Dev :=
  { d with media := { d.media with die := Tbl.mapAll {} d.media.die fun _ x => { x with pd := true } } }

/-- A flush moves to a step. -/
def Dev.flushAt (d : Dev) (f : Flush) (n : Nat) : Dev := { d with pwr := { d.pwr with flush := some { f with step := n } } }

/-- Every head's link goes to electrical idle (R354). -/
def Dev.linksDown (d : Dev) : Dev :=
  let d1 := { d with a := { d.a with linkUp := false, lstate := 4, reqOut := 0, rwdOut := 0 }
                     b := { d.b with linkUp := false, lstate := 4, reqOut := 0, rwdOut := 0 } }
  (d1.linkNoted .a d.a.lstate).linkNoted .b d.b.lstate

/-- A host read is outstanding. -/
def Dev.readsLeft (d : Dev) : Bool :=
  d.cache.fetches.any fun f => f.waiters.any fun w => match w with
    | .host _ _ _ _ _ => true
    | _ => false

/-! ## The steps -/

/-- Ripcord begins (R23, R354). -/
def ripcordEntry (F : Fuses) (d : Dev) : Dev :=
  match d.pwr.svc with
  | .bringup | .reduced | .full => if d.pwr.inputOk then d else flushEntry F d .input true
  | _ => d

/-- 10 µs after entry no further request is accepted (R22, R354 step 3). -/
def lateEnd (d : Dev) : Dev :=
  match d.pwr.flush with
  | some f =>
    if f.step = 2 then
      let d1 := (d.advance (f.start + 10000)).flushAt f 3
      if d1.readsLeft then d1 else d1.linksDown
    else d
  | none => d

/-- The last accepted read has completed: links idle, and every die may program (R22). -/
def scheduleStop (d : Dev) : Dev :=
  match d.pwr.flush with
  | some f =>
    if f.step = 3 ∧ !d.readsLeft then
      let d1 := d.linksDown.flushAt f 4
      { d1 with tether := { d1.tether with schedule := false } }
    else d
  | none => d

/-- Steps 4 and 5 of R354 end: the segment's parts are programmed and every die is put into power-down; or the bank or a rail gives
out first, and some of the parts may not decode (R355, R358). -/
def segWritten (F : Fuses) (d : Dev) (ok : Bool) : Dev :=
  match d.pwr.flush with
  | some f =>
    match f.seg with
    | some n =>
      if f.step ≠ 4 ∨ (ok ∧ d.anyBusy) then d
      else
        let (pos, d1) := d.free
        let d2 := { d1 with pwr := { d1.pwr with segs := segOf F d n :: d1.pwr.segs.filter fun s => !s.released, segNext := n + 1, segUsed := none
                                                 segPos := pos % 2 ^ 32 } }
        if ok then d2.allDown.flushAt { f with programmed := true } 5 else d2.flushAt f 6
    | none => d
  | none => d

/-- Between steps 5 and 6 a shutdown flush saves the drift ledger and the wear summary (R356). -/
def flushSaves (d : Dev) : Dev :=
  match d.pwr.flush with
  | some f =>
    if f.step = 5 ∧ !f.ripcord ∧ !f.ledgerSaved then (d.ledgerSave.ringPut .wear d.wearBody).flushAt { f with ledgerSaved := true } 5 else d
  | none => d

/-- Bits of the locks held (R379). -/
def Dev.lockMask (d : Dev) : Nat :=
  (d.lci.locks.filter fun e => e.2.owner.isSome).foldl (fun n e => setBits n e.1 e.1 1) 0

/-- Step 6 (R354, R381): the Keel records in their order; the segment is complete, or clean after a shutdown flush. -/
def flushKeel (F : Fuses) (d : Dev) : Dev :=
  match d.pwr.flush with
  | some f =>
    if f.step = 5 ∧ keelOk F d ∧ (f.ripcord ∨ f.ledgerSaved) then
      let d1 := (d.ringPut .locks ([0, 0, 0] ++ leBytes 32 d.lockMask)).memberPut.lifePut
      let d2 := Dev.statePut { d1 with keel := { d1.keel with gndUsed := d1.keel.gndUsed && f.ripcord } }
      let segs := match d2.pwr.segs with
        | s :: _ => [{ s with complete := true, clean := !f.ripcord }]
        | [] => []
      let d3 := (Dev.forceFlush F (Dev.rootPut { d2 with pwr := { d2.pwr with segs := segs } })).keelDrain
      { d3 with log := { d3.log with accepting := false } }.flushAt f 6
    else d
  | none => d

/-- How a flush has ended (PSV_STS.last_off encoding); a flush before replay_done wrote no segment, and before the end of step 0x8 it
leaves the outcome that is still to be recorded (R355, R358, R378). -/
def flushEnded (d : Dev) (f : Flush) : Nat :=
  let done := if f.ripcord then 2 else 1
  let cut := if f.ripcord then 3 else 4
  match f.seg with
  | none => if d.pwr.restored then done else d.pwr.ended
  | some n => if d.pwr.segs.any fun s => s.num == n && s.complete then done else cut

/-- No die programs or has a program queued: VPP_M stays until then (R140). -/
def Dev.diesQuiet (d : Dev) : Bool := d.media.die.all fun e => !e.2.busy

/-- The rails may go down: the Keel records are written or there is no segment to write, and no die is busy (R140); or the bank has given
out. -/
def railsMay (F : Fuses) (d : Dev) (f : Flush) : Bool :=
  ((f.step == 6 || (f.step == 4 && f.seg.isNone)) && d.diesQuiet) || ((f.step == 4 || f.step == 5) && f.ripcord && !keelOk F d)

/-- Steps 7 to 9 (R354): the rails go down, ending in Off, Rest or bring-up; PWR_REQ asserted meanwhile, or PERST_N in a flush for
Rest, leads back up from the safe point (R361). -/
def railsDown (F : Fuses) (d : Dev) : Dev :=
  match d.pwr.flush with
  | some f =>
    if !railsMay F d f then d
    else
      let o := flushEnded d f
      let us (t : Nat) : Nat := min ((d.tether.now - t) / 1000) 0xFFFF
      let used := min ((f.energy - d.energy) / (2 * 10 ^ 11)) 0xFFF
      let d1 := { d with pwr := { d.pwr with ended := o
                                             ripDur := if f.ripcord then us f.ripStart else d.pwr.ripDur
                                             ripEnergy := if f.ripcord then used else d.pwr.ripEnergy } }
      let d2 := { d1 with log := { d1.log with accepting := false } }.event F 0x1004
        (us f.start + (if f.ripcord then used else 0) * 2 ^ 16 + b2n (decide (o = 3 ∨ o = 4)) * 2 ^ 28)
      if d.pwr.upAgain ∧ !f.ripcord ∧ d.pwr.inputOk ∧ d.pwr.pwrReq ∧ (f.why = .pwrReq ∨ f.why = .rest) then
        (d2.lower (phaseB F d)).safePoint
      else offEnter F (d2.lower (upOrder F d)) f.why f.ripcord
  | none => d

/-! ## Rest -/

/-- Every active head has gone to D3hot and then had PERST_N asserted (R23, R360). -/
def restEntry (F : Fuses) (d : Dev) : Dev :=
  if (d.pwr.svc = .bringup ∨ d.pwr.svc = .reduced ∨ d.pwr.svc = .full) ∧ d.pwr.inputOk ∧ d.pwr.pwrReq ∧ ((activeHeads F d).all fun h => (d.head h).d3cold) then
    flushEntry F d .rest false
  else d

/-- A GPIO pin with a wake role sees an edge (R360). -/
def wakeSeen (F : Fuses) (d : Dev) (pin : Nat) (rising : Bool) : Dev :=
  let g := Tbl.look {} d.gpio pin
  if g.role = 1 then d
  else
    let d1 := ({ d with gpio := Tbl.put {} d.gpio pin { g with high := rising } }).icuLive 100
    if d.pwr.svc = .rest ∧ g.role = (if rising then 3 else 2) then (activeHeads F d1).foldl (fun d h => d.wake h true) d1
    else d1

/-- PERST_N rises on a head (R360, R361): its WAKE_N is released; in Rest bring-up starts; a flush for Rest leads back up. -/
def perstUp (F : Fuses) (d : Dev) (h : Head) : Dev :=
  if !presentHead F h then d
  else
    let d0 := d.setHead h { d.head h with perstHigh := true, d3cold := false, dstate := if (d.head h).d3cold then 0 else (d.head h).dstate }
    let dw := if (d.head h).wakeLow then d0.wake h false else d0
    let d1 := if (d.head h).d3cold then dw.icuLive (91 + hIdx h) else dw
    match d1.pwr.svc with
    | .rest => if activeHead F d h then d1.bringup 1 else d1
    | .flush =>
      let rest : Bool := match d1.pwr.flush with
        | some f => f.why = .rest && !f.ripcord
        | none => d1.pwr.downing = some .rest
      if rest then { d1 with pwr := { d1.pwr with upAgain := true } } else d1
    | _ => d1

/-! ## Power-up of the always-on domain -/

/-- VDD_AON comes up (R330, R440): the supervisor's registers at their Reset column, the device Off. A supply that was lost while the
controller ran is a loss of power; a Keel write it cut leaves its bytes undefined (R373). -/
def aonUp (d : Dev) : Dev :=
  let cutWrite (d : Dev) (w : KWrite) : Dev :=
    let (l, d1) := w.data.foldl (fun (acc : List Nat × Dev) _ =>
      let (v, e) := acc.2.free
      (acc.1 ++ [v % 256], e)) ([], d)
    d1.keelWritten { w with data := l }
  let d0 := d.keel.active.foldl cutWrite d
  let p := d.pwr
  let outcome := match p.flush with
    | some f => flushEnded d f
    | none => if d.live ∧ p.downing.isNone then 4 else p.ended
  let d1 := d0.blank true
  { d1 with
    regs := [], a := {}, b := {}, tether := {}, gpio := [], aon := {}, therm := {}
    keel := { bytes := d0.keel.bytes }
    media := { d1.media with dies := [] }
    pwr := { segs := p.segs, segNext := p.segNext, segPos := p.segPos, ended := outcome, scrubFirst := p.scrubFirst } }

/-! ## Commands -/

/-- RIPCORD_ENTRY (R354). -/
def execRipcordEntry (s : State) : Host.Outcome State Fault Refusal := .next { s with dev := ripcordEntry s.fuse s.dev }

/-- LATE_ARRIVAL_WINDOW_END (R22, R354). -/
def execLateArrivalWindowEnd (s : State) : Host.Outcome State Fault Refusal := .next { s with dev := lateEnd s.dev }

/-- PHASE_SCHEDULE_SUSPEND (R22). -/
def execPhaseScheduleSuspend (s : State) : Host.Outcome State Fault Refusal := .next { s with dev := scheduleStop s.dev }

/-- SEGMENT_PARTS_PROGRAMMED (R354). -/
def execSegmentPartsProgrammed (ok : Bool) (s : State) : Host.Outcome State Fault Refusal :=
  .next { s with dev := segWritten s.fuse s.dev ok }

/-- FLUSH_KEEL_WRITES (R381). -/
def execFlushKeelWrites (s : State) : Host.Outcome State Fault Refusal := .next { s with dev := flushKeel s.fuse s.dev }

/-- FLUSH_RAILS_DOWN (R354). -/
def execFlushRailsDown (s : State) : Host.Outcome State Fault Refusal := .next { s with dev := railsDown s.fuse s.dev }

/-- SHUTDOWN_FLUSH (R356). -/
def execShutdownFlush (s : State) : Host.Outcome State Fault Refusal := .next { s with dev := flushSaves s.dev }

/-- REST_ENTRY (R360). -/
def execRestEntry (s : State) : Host.Outcome State Fault Refusal := .next { s with dev := restEntry s.fuse s.dev }

/-- WAKE_EDGE (R360). -/
def execWakeEdge (pin : Fin 8) (rising : Bool) (s : State) : Host.Outcome State Fault Refusal :=
  .next { s with dev := wakeSeen s.fuse s.dev pin.val rising }

/-- REST_EXIT (R360): PERST_N rises in Rest. -/
def execRestExit (h : Head) (s : State) : Host.Outcome State Fault Refusal :=
  .next (if s.dev.pwr.svc = .rest then { s with dev := perstUp s.fuse s.dev h } else s)

/-- PERST_N_DEASSERTED (R351, R361). -/
def execPerstNDeasserted (h : Head) (s : State) : Host.Outcome State Fault Refusal := .next { s with dev := perstUp s.fuse s.dev h }

/-- AON_POWER_UP (R330). -/
def execAonPowerUp (s : State) : Host.Outcome State Fault Refusal := .next { s with dev := aonUp s.dev }

end Sys2Proof.Machine
end

