-- ==== Sys2Proof/Machine/PortOps.lean ====
section
/-!
DEFINITION. Host ports (spec/02_host_ports.md): links and their states (R29, R31, R35, R36, R55), HDM decoders (R35, R37, R39), GPF
(R50), IDE and DOE (R29, R52, R53, R328), device states (R56) and resets (R57 to R59, with R85, R116, R280, R293, R405).
-/
namespace Sys2Proof.Machine

/-! ## Links -/

/-- Encoding of a width in lanes (LNK_PORT_STSn.width). -/
def widthCode (w : Nat) : Nat := if w = 4 then 1 else if w = 8 then 2 else if w = 16 then 3 else 0

/-- Greatest width of a head in lanes, as the board configuration block names it. -/
def Dev.maxWidth (d : Dev) (h : Head) : Nat :=
  16 / 2 ^ (match h with
    | .a => d.pwr.board.widthA
    | .b => d.pwr.board.widthB)

/-- port_lost clears when both heads are again in L0 after a conventional reset of both (R36); its change is a device notice (R323). -/
def Dev.portHeal (F : Fuses) (d : Dev) : Dev :=
  let up (x : HeadState) : Bool := x.resetSince && x.linkUp && x.lstate == 0
  if d.pwr.portLost ∧ up d.a ∧ up d.b then Dev.notice F { d with pwr := { d.pwr with portLost := false } } else d

/-- A port that was lost in single or dual-head mode works again: its fault level ends, where nothing else holds FAULT_N low (R26, R336). -/
def Dev.portFound (d : Dev) (h : Head) : Dev :=
  let d1 := d.setHead h { d.head h with lost := false }
  if (d.head h).lost ∧ !d1.a.lost ∧ !d1.b.lost ∧ !d1.cores.dead ∧ !d1.pwr.limited ∧ d1.pwr.step ≠ 0xF then d1.faultRelease else d1

/-- A head's link has trained (R29, R31): the Memory Module record of a link below 8.0 GT/s is on that head. -/
def linkTrained (F : Fuses) (d : Dev) (h : Head) (rate width : Nat) : Dev :=
  if !d.live ∨ !presentHead F h ∨ (d.pwr.board.valid ∧ !activeHead F d h) ∨ d.pwr.downing.isSome ∨ d.pwr.flush.isSome ∨ (d.head h).d3cold ∨ 5 < rate ∨
      widthCode width = 0 ∨ d.maxWidth h < width then d
  else
    let d1 := d.setHead h { d.head h with linkUp := true, rate := rate, width := widthCode width, fullWidth := widthCode width
                                          flit256 := decide (4 ≤ rate), lstate := 0, cxlMem := decide (2 ≤ rate), msixOn := true }
    let d2 := if rate < 2 then (d1.event F 0x2001 (hIdx h)).post h .warn .linkSlow 0x2001 else d1
    ((d2.portHeal F).portFound h).linkNoted h (d.head h).lstate

/-- The link of a head goes down: what depends on it is gone, and responses to accepted requests are lost with it (R36, R52). -/
def Dev.linkDown (d : Dev) (h : Head) : Dev :=
  let mine (a : Ack) : Bool := match a with
    | .host x _ _ => x != h
    | .run _ _ => true
  let cut (t : Tbl (Option GEntry)) : Tbl (Option GEntry) := t.map fun e => (e.1, e.2.map fun g => { g with acks := g.acks.filter mine })
  let keep (w : Waiter) : Bool := match w with
    | .host x _ _ _ _ => x != h
    | .spec x => x != h
    | .merge _ => true
  let d1 := d.setHead h { d.head h with linkUp := false, rate := 0, width := 0, fullWidth := 0, flit256 := false, cxlMem := false
                                        lstate := 4, ptmValid := false, ideOn := false, ideSecure := [], reqOut := 0, rwdOut := 0, inFlight := 0 }
  let g : Gondola := { d1.gon with staged := cut d1.gon.staged, wb := cut d1.gon.wb, gpfWait := d1.gon.gpfWait.filter fun w => w.1 != h }
  let fs := d1.cache.fetches.map fun f => { f with waiters := f.waiters.filter keep }
  let d2 := { d1 with gon := g, cache := { d1.cache with fetches := fs } }
  d2.linkNoted h (d.head h).lstate

/-- The other head. -/
def otherHead : Head → Head
  | .a => .b
  | .b => .a

/-- One head of a bonded pair goes down, other than by a reset or D3cold of the host (R36, R293); port_lost's change is a device
notice (R323). -/
def portLost (F : Fuses) (d : Dev) (h : Head) : Dev :=
  let o := otherHead h
  if portMode F d ≠ .bonded ∨ !(d.head o).linkUp ∨ d.pwr.portLost then d
  else
    let mine := (List.range 64).filter fun n => decide (pairHeadOf F d n = h) && !(d.qp n).moved && d.qpOn n
    let again := mine.flatMap fun n => (d.qp n).recent.filter fun r => decide (d.tether.now < r.2.2 + 1000000)
    let d1 := (((d.linkDown h).event F 0x2006 (hIdx h)).post o .warn .portLost (hIdx h))
    let d2 := mine.foldl (fun d n => d.setQp n { d.qp n with moved := true }) d1
    let d3 := again.foldl (fun d r => d.emit (.hostWrite o r.1 r.2.1)) d2
    Dev.notice F { d3 with pwr := { d3.pwr with portLost := true }, a := { d3.a with resetSince := false }, b := { d3.b with resetSince := false } }

/-- A port goes down by a fault (R26, R36): in bonded mode the other head takes its traffic; in single and dual-head mode the loss is not covered,
and FAULT_N, the logbook and a CXL event record report it. -/
def portDown (F : Fuses) (d : Dev) (h : Head) : Dev :=
  if portMode F d = .bonded ∧ (d.head (otherHead h)).linkUp ∧ !d.pwr.portLost then portLost F d h
  else
    let d1 := ((d.linkDown h).event F 0x2006 (hIdx h)).post h .warn .uncovered (hIdx h)
    (d1.setHead h { d1.head h with lost := true }).faultLevel F

/-- A change of a link's power state (R55): PTM stops while the PTM head is not in L0 (R54). -/
def linkState (F : Fuses) (d : Dev) (h : Head) (st : LinkPower) : Dev :=
  let x := d.head h
  if !x.linkUp then d
  else match st with
    | .l0 => ((d.setHead h { x with lstate := 0, width := x.fullWidth }).portHeal F).linkNoted h x.lstate
    | .l0p w =>
      if (w.val = 8 ∨ w.val = 4) ∧ widthCode w.val < x.fullWidth then
        (d.setHead h { x with lstate := 1, width := widthCode w.val }).linkNoted h x.lstate
      else d
    | .l11 => (d.setHead h { x with lstate := 2 }).linkNoted h x.lstate
    | .l12 => (d.setHead h { x with lstate := 3 }).linkNoted h x.lstate
    | .down => portDown F d h

/-! ## HDM decoders -/

/-- DPA where decoder i of a head starts: after the shares and skips of the lower decoders, and its own skip (R39). A bonded decoder takes the
whole of its range of DPAs, since both heads reach one logical device. -/
def decoderDpa (F : Fuses) (d : Dev) (h : Head) (i skip : Nat) : Nat :=
  let share (x : Decoder) : Nat := if portMode F d = .bonded then x.size else x.size / x.ways
  ((List.range i).foldl (fun n j => let x := Tbl.look {} (d.head h).decoders j
                                    if x.committed then n + x.skip + share x else n) 0) + skip

/-- In dual-head mode a range of DPAs reaches the other head's private partition (R37). -/
def reachesOther (F : Fuses) (d : Dev) (h : Head) (lo hi : Nat) : Bool :=
  let gib := 2 ^ 30
  let (a, b) := match h with
    | .a => (d.pwr.board.split * gib, d.pwr.board.share * gib)
    | .b => (0, d.pwr.board.split * gib)
  decide (portMode F d = .dualHead ∧ lo < b ∧ a < hi)

/-- A bonded decoder keeps R35: two ways at 256 B, position 0 on Port A and 1 on Port B. -/
def bondedForm (h : Head) (y : Decoder) : Bool := decide (y.ways = 2 ∧ y.gran = 256 ∧ y.pos = hIdx h)

/-- A committed bonded decoder breaks R35: by its own form, or because the other head has committed decoders and none of the same base and size. -/
def bondedOdd (d : Dev) (h : Head) (y : Decoder) : Bool :=
  let mates := ((d.head (otherHead h)).decoders.filter fun e => e.2.committed).map (·.2)
  !bondedForm h y || (!mates.isEmpty && !(mates.any fun m => decide (m.base = y.base ∧ m.size = y.size)))

/-- A host commits a decoder (R29, R35, R37, R39). -/
def decoderCommit (F : Fuses) (d : Dev) (h : Head) (i base size skip : Nat) (lock : Bool) (ways gran pos : Nat) : Dev :=
  let x := d.head h
  let old := Tbl.look {} x.decoders i
  if !d.live ∨ !presentHead F h ∨ old.committed then d
  else
    let dpa := decoderDpa F d h i skip
    let overlap := (x.decoders.filter fun e => e.1 != i && e.2.committed).any fun e => decide (base < e.2.base + e.2.size ∧ e.2.base < base + size)
    let bad := decide (base % 2 ^ 28 ≠ 0 ∨ size % 2 ^ 28 ≠ 0 ∨ size = 0 ∨ ways ∉ decoderWays ∨ gran ∉ decoderGrans ∨ ways ≤ pos) || overlap
    let out := reachesOther F d h dpa (dpa + size / ways)
    let y : Decoder := { base := base, size := size, skip := skip, dpa := dpa, committed := !bad && !out, err := bad || out
                         lock := lock && !bad && !out, ways := ways, gran := gran, pos := pos }
    let d1 := d.setHead h { x with decoders := Tbl.put {} x.decoders i y }
    let odd := decide (portMode F d = .bonded) && y.committed && bondedOdd d h y
    if out then d1.event F 0x2003 (hIdx h)
    else if odd && !x.pairNoted then
      ({ d1 with a := { d1.a with pairNoted := true }, b := { d1.b with pairNoted := true } }).event F 0x2003 (hIdx h)
    else d1

/-- A host uncommits a decoder (R39): a locked one stays. -/
def decoderUncommit (d : Dev) (h : Head) (i : Nat) : Dev :=
  let x := d.head h
  let y := Tbl.look {} x.decoders i
  if y.lock ∨ !y.committed then d else d.setHead h { x with decoders := Tbl.put {} x.decoders i { y with committed := false, err := false } }

/-! ## GPF, IDE, DOE -/

/-- GPF phase 2 (R50): answered once every write accepted before has completed. -/
def gpfPhase2 (d : Dev) (h : Head) : Dev :=
  if !(d.head h).linkUp then d
  else Dev.gpfSettle { d with gon := { d.gon with gpfWait := d.gon.gpfWait ++ [(h, d.tether.now)], gpf := true } }

/-- An IDE_KM message over the Secured SPDM session of the head's DOE (R52): a key set of a stream is programmed, and the stream is in the secure
state. Stream 0 is the CXL stream, 1 the PCIe link stream, 2 to 5 the selective streams. -/
def ideKm (d : Dev) (h : Head) (set : Bool) (stream : Nat) : Dev :=
  let x := d.head h
  if !x.linkUp ∨ !x.doeOpen ∨ limits.linkStreams + limits.selectiveStreams < stream then d
  else
    let k := 2 * stream + b2n set
    d.setHead h { x with ideKeys := x.ideKeys.filter (· != k) ++ [k], ideOn := x.ideOn || stream == 0
                         ideSecure := if stream = 0 then x.ideSecure else x.ideSecure.filter (· != stream) ++ [stream] }

/-- A MAC failure on the receive side of a stream (R52): the stream is insecure and the link goes down; in bonded mode the other head takes the
traffic (R36). -/
def ideFail (F : Fuses) (d : Dev) (h : Head) (stream : Nat) : Dev :=
  let x := d.head h
  if !x.linkUp ∨ !(x.ideKeys.any fun k => k / 2 == stream) then d
  else
    let y := { x with ideOn := x.ideOn && decide (stream ≠ 0), ideSecure := x.ideSecure.filter (· != stream) }
    let d1 := (d.setHead h y).event F 0x2005 (hIdx h)
    if portMode F d = .bonded ∧ (d.head (otherHead h)).linkUp ∧ !d.pwr.portLost then portLost F d1 h else d1.linkDown h

/-- Rates of the CDAT in GB/s (R3, R53): the pure-read ceiling of the head itself, x16 or, on class S at x8, half of it; and the sustained
host-write rate of the class. -/
def cdatRates (F : Fuses) (d : Dev) (h : Head) : Nat × Nat :=
  match F.cls with
  | .s => (if (d.head h).fullWidth = 2 then 59 else 118, 55)
  | .m => (118, 110)
  | .l => (118, 110)

/-- The SPDM measurements (R328). -/
def measurement (F : Fuses) (d : Dev) (i : Nat) : List Nat :=
  match i with
  | 1 => leBytes 8 Config.bootRom
  | 2 =>
    if d.images.running = 3 then []
    else
      let len := leNat (d.imageBytes d.images.running 12 4)
      leBytes 48 (Config.sha384 (d.imageBytes d.images.running 0 (256 + len))).toNat
  | 3 => leBytes 48 d.pwr.board.hash.toNat
  | 4 => [clsCode F.cls] ++ leBytes 4 F.ownerId.toNat ++ [d.images.floor]
  | _ => []

/-- A DOE request of a protocol that R29 lists is answered; others are not. CMA/SPDM answers measurements in the clear; Secured CMA/SPDM opens a
session (argument 0), ends it (1), or carries a message within it (2 and above: a measurement); IDE_KM is taken only within a session (R52). -/
def doeAnswer (F : Fuses) (d0 : Dev) (h : Head) (k : DoeKind) (arg : Nat) : Dev :=
  let d := d0.icu (69 + hIdx h)
  let x := d.head h
  if !x.linkUp then d0
  else match k with
    | .discovery =>
      let l : List (Nat × Nat) := [(1, 0), (1, 1), (1, 2), (0x1E98, 2)]
      match l[arg]? with
      | some p => d.emit (.doe h k (leBytes 2 p.1 ++ [p.2, (arg + 1) % l.length]))
      | none => d.emit (.doe h k [0xFF, 0xFF, 0, 0])
    | .cmaSpdm => d.emit (.doe h k (measurement F d arg))
    | .securedSpdm =>
      if arg = 0 then (d.setHead h { x with doeOpen := true }).emit (.doe h k [])
      else if !x.doeOpen then d
      else if arg = 1 then (d.setHead h { x with doeOpen := false }).emit (.doe h k [])
      else d.emit (.doe h k (measurement F d (arg - 2)))
    | .cdat =>
      let (r, w) := cdatRates F d h
      let part (base size : Nat) : List Nat := leBytes 8 base ++ leBytes 8 size ++ leBytes 2 1000 ++ leBytes 2 600 ++ leBytes 2 r ++ leBytes 2 w
      d.emit (.doe h k (part 0 (headCapacity F d h) ++ part volBase (2 ^ 28)))
    | .ideKm => if x.doeOpen then d.emit (.doe h k [arg]) else d
    | .other => d

/-! ## Device states -/

/-- D3hot (R56, R280): running lists of the head stop at the next descriptor boundary; in bonded mode those of both heads. -/
def d3hot (F : Fuses) (d : Dev) (h : Head) : Dev :=
  let x := d.head h
  if !activeHead F d h ∨ x.dstate ≠ 0 ∨ x.d3cold then d
  else
    let d1 := (d.setHead h { x with dstate := 3 }).icu (91 + hIdx h)
    let all := decide (portMode F d = .bonded)
    (List.range 64).foldl (fun d c =>
      let y := d.schan c
      if y.state = .running ∧ (all ∨ y.head = h) then
        (d.mapCmd y.handle fun m => { m with status := 0x0302, d3hold := true }).stopChan c
      else d) d1

/-- Return to D0 (R56): messages that waited leave. -/
def d0Back (F : Fuses) (d : Dev) (h : Head) : Dev :=
  let x := d.head h
  if !activeHead F d h ∨ x.d3cold then d
  else
    let d1 := (d.setHead h { x with dstate := 0, msixOn := true }).msixDrain h
    if x.dstate = 0 then d1 else d1.icu (91 + hIdx h)

/-! ## Resets -/

/-- Heads that a window's head_mask names in the port mode (LNK_TWIN_CTLn.head_mask). -/
def winHeads (F : Fuses) (d : Dev) (w : Win) : List Head := [Head.a, Head.b].filter fun h => winNames F d w h

/-- The windows whose head_mask names only this head are cleared, with their cache lines (R57). -/
def windowsClear (F : Fuses) (d : Dev) (h : Head) : Dev :=
  (List.range 64).foldl (fun d n =>
    let w := d.win n
    if winHeads F d w = [h] then
      let used := w.en || d.rbit (LNK_TWIN_CTL n) 30
      let d1 := if used then (d.ctrWindow w).invalidate (w.lo * 16384) (w.hi * 16384 + 16383) else d
      d1.resetRange (LNK_TWIN_BASE_LO n) (LNK_TWIN_BASE_LO n + 0x1F)
    else d) d

/-- The locks of windows that name several heads (LNK_TWIN_CTLn.lock): a CXL Reset of a head named opens them; conventional resets open them once
every head named has had one since the lock was set. -/
def locksOpen (F : Fuses) (d : Dev) (h : Head) (cxl : Bool) : Dev :=
  (List.range 64).foldl (fun d n =>
    let hs := winHeads F d (d.win n)
    if !d.rbit (LNK_TWIN_CTL n) 31 ∨ h ∉ hs then d
    else
      let d1 := d.setHead h { d.head h with lockSeen := (d.head h).lockSeen.filter (· != n) ++ [n] }
      if cxl || hs.all fun y => (d1.head y).lockSeen.contains n then
        [Head.a, Head.b].foldl (fun d y => d.setHead y { d.head y with lockSeen := (d.head y).lockSeen.filter (· != n) })
          (d1.setRbit (LNK_TWIN_CTL n) 31 false)
      else d1) d

/-- The key slots provisioned through a head are cleared (R57, R58). -/
def Dev.slotsClear (d : Dev) (h : Head) : Dev :=
  (d.sec.slots.filter fun e => e.2.head == h).foldl (fun d e => d.clearSlot e.1) d

/-- The head's scratch conversion is cleared: in single and bonded modes every converted way (R85). -/
def scratchClear (F : Fuses) (d : Dev) (h : Head) : Dev :=
  let d1 := d.scratchDone
  let v := (d1.reg LIN_SCR_CTL).toNat
  let keep := [0, 1, 2].foldl (fun n w =>
    if portMode F d = .dualHead ∧ b2n (bit (bits v 6 4) w) ≠ hIdx h then setBits n w w (bits (bits v 2 0) w w) else n) 0
  (scratchWriteCtl F d1 (keep + bits v 6 4 * 16)).scratchDone

/-- The host launch slots of a head are disarmed and cleared: every host slot in single and bonded modes (R116). -/
def hostSlotsClear (F : Fuses) (d : Dev) (h : Head) : Dev :=
  ((List.range 32).filter fun n => decide (portMode F d ≠ .dualHead) || slotHead n == h).foldl (fun d n => d.slotClear n) d

/-- A head's MSI-X table and PBA, GLB_MSIX_SYS and user_en return to reset (R324, R405, R440). -/
def Dev.functionClear (d : Dev) (h : Head) : Dev :=
  let d1 := (d.resetRange (headOff h 0x4000) (headOff h 0x480F)).resetRange (headOff h GLB_MSIX_SYS) (headOff h GLB_MSIX_SYS)
  let d2 := d1.resetRange (headOff h PMC_CTL) (headOff h PMC_CTL)
  d2.setHead h { d2.head h with funcMask := false, msixOn := false, doeOpen := false, dstate := 0 }

/-- What a conventional reset of a head clears (R57). -/
def headReset (F : Fuses) (d : Dev) (h : Head) (cause : Nat) : Dev :=
  let d1 := clearPairs F d (pairsOf F d h) cause
  let d2 := scratchClear F (d1.linkDown h) h
  let d3 := hostSlotsClear F (locksOpen F (windowsClear F d2 h) h false) h
  let d4 := (d3.slotsClear h).functionClear h
  d4.setHead h { d4.head h with decoders := [], ideKeys := [], resetSince := true }

/-- D3cold (R56, R85, R272, R405): PERST_N asserted in D3hot. Lists are cut, and the head is as after a conventional reset. -/
def d3coldIn (F : Fuses) (d : Dev) (h : Head) : Dev :=
  let x := d.head h
  if !activeHead F d h ∨ x.dstate ≠ 3 ∨ x.d3cold then d
  else
    let mine := d.lci.cmds.filter fun c => c.chan.isSome && decide (pairHead F d (qpOf c.handle) = h) && !c.silent
    let d0 := uwlAdd F d 6 (mine.map d.uwlEntry)
    let cut := mine.foldl (fun d c =>
      let e := match c.slot with
        | some k => d.slotCancel k
        | none => d
      let e1 := match c.chan with
        | some n => e.setSchan n {}
        | none => e
      e1.dropCmd c.handle) d0
    let d1 := headReset F cut h 6
    let d2 := { d1 with str := { d1.str with dicts := d1.str.dicts.filter fun y => y.head != h } }
    let d3 := d2.setHead h { d2.head h with d3cold := true, dstate := 3, perstHigh := false }
    let dual := decide (portMode F d = .dualHead)
    let last := (activeHeads F d3).all fun y => (d3.head y).d3cold
    let half (n total : Nat) : Bool := dual && (decide (n < total / 2) != decide (h = .a))
    let p := d3.pmc
    let sel (t : Tbl Cnt) (total : Nat) : Tbl Cnt := t.filter fun e => half e.1 total
    let pm : Pmc :=
      { cnt := sel p.cnt 64, snap := sel p.snap 64, bin := sel p.bin 256, hsnap := sel p.hsnap 256
        snapTimeA := if dual ∧ h = .b then p.snapTimeA else 0, snapTimeB := if dual ∧ h = .a then p.snapTimeB else 0
        hsnapTimeA := if dual ∧ h = .b then p.hsnapTimeA else 0, hsnapTimeB := if dual ∧ h = .a then p.hsnapTimeB else 0 }
    let regs := d3.regs.filter fun e =>
      !(decide (0xB8100 ≤ e.1 ∧ e.1 < 0xB8200) && !half ((e.1 - 0xB8100) / 4) 64) &&
        !(decide (0xB8200 ≤ e.1 ∧ e.1 < 0xB8220) && !half ((e.1 - 0xB8200) / 4) 8)
    let d4 := { d3 with pmc := pm, regs := regs }
    let d5 := d4.icu (91 + hIdx h)
    if last then d5.compatStop else d5

/-- Conventional reset of a head (R57). -/
def conventional (F : Fuses) (d : Dev) (h : Head) : Dev :=
  if d.live ∧ presentHead F h ∧ !(d.head h).d3cold then silentOut F ((headReset F d h 3).icu (91 + hIdx h)) else d

/-- FLR of a head (R57). -/
def functionReset (F : Fuses) (d : Dev) (h : Head) : Dev :=
  if d.live ∧ presentHead F h ∧ !(d.head h).d3cold then silentOut F (((clearPairs F d (pairsOf F d h) 4).functionClear h).icu (91 + hIdx h)) else d

/-- CXL Reset of a head (R57, R85, R116). -/
def cxlResetHead (F : Fuses) (d : Dev) (h : Head) : Dev :=
  if d.live ∧ presentHead F h ∧ !(d.head h).d3cold then
    let d1 := clearPairs F d (pairsOf F d h) 5
    silentOut F (((hostSlotsClear F (locksOpen F (windowsClear F (scratchClear F d1 h) h) h true) h).slotsClear h).icu (91 + hIdx h))
  else d

/-- A write of GLB_RST_CTL (R59): the shutdown flush, then bring-up. -/
def rstWrite (F : Fuses) (d : Dev) (h : Head) (v : Nat) : Dev :=
  if presentHead F h ∧ bits v 31 16 = 0x5D2A ∧ bit v 0 ∧ d.pwr.downing.isNone then
    match d.pwr.svc with
    | .bringup | .reduced | .full => flushEntry F d .device false
    | _ => d
  else d

/-! ## Commands -/

/-- LINK_TRAINED (R29, R31). -/
def execLinkTrained (h : Head) (rate : Fin 8) (width : Fin 32) (s : State) : Host.Outcome State Fault Refusal :=
  .next { s with dev := linkTrained s.fuse s.dev h rate.val width.val }

/-- LINK_STATE_CHANGE (R55). -/
def execLinkStateChange (h : Head) (st : LinkPower) (s : State) : Host.Outcome State Fault Refusal :=
  .next { s with dev := linkState s.fuse s.dev h st }

/-- BONDED_PORT_LOST (R36). -/
def execBondedPortLost (h : Head) (s : State) : Host.Outcome State Fault Refusal := .next { s with dev := portLost s.fuse s.dev h }

/-- HDM_DECODER_COMMIT (R39). -/
def execHdmDecoderCommit (h : Head) (i : Fin 4) (base size skip : Nat) (lock : Bool) (form : DecoderForm) (s : State) :
    Host.Outcome State Fault Refusal :=
  .next { s with dev := decoderCommit s.fuse s.dev h i.val base size skip lock form.ways form.gran form.pos }

/-- HDM_DECODER_UNCOMMIT (R39). -/
def execHdmDecoderUncommit (h : Head) (i : Fin 4) (s : State) : Host.Outcome State Fault Refusal :=
  .next { s with dev := decoderUncommit s.dev h i.val }

/-- GPF_PHASE2_REQUEST (R50). -/
def execGpfPhase2Request (h : Head) (s : State) : Host.Outcome State Fault Refusal := .next { s with dev := gpfPhase2 s.dev h }

/-- IDE_KM_MESSAGE (R52). -/
def execIdeKmMessage (h : Head) (keySet : Bool) (stream : Byte) (s : State) : Host.Outcome State Fault Refusal :=
  .next { s with dev := ideKm s.dev h keySet stream.toNat }

/-- IDE_MAC_FAILURE (R52). -/
def execIdeMacFailure (x : IdeStream) (s : State) : Host.Outcome State Fault Refusal :=
  .next { s with dev := ideFail s.fuse s.dev x.h x.stream.toNat }

/-- DOE_REQUEST (R29, R53, R328). -/
def execDoeRequest (h : Head) (k : DoeKind) (arg : Byte) (s : State) : Host.Outcome State Fault Refusal :=
  .next { s with dev := doeAnswer s.fuse s.dev h k arg.toNat }

/-- D3HOT_ENTRY (R56). -/
def execD3hotEntry (h : Head) (s : State) : Host.Outcome State Fault Refusal := .next { s with dev := d3hot s.fuse s.dev h }

/-- D0_RETURN (R56). -/
def execD0Return (h : Head) (s : State) : Host.Outcome State Fault Refusal := .next { s with dev := d0Back s.fuse s.dev h }

/-- D3COLD_ENTRY (R56). -/
def execD3coldEntry (h : Head) (s : State) : Host.Outcome State Fault Refusal :=
  .next { s with dev := silentOut s.fuse (d3coldIn s.fuse s.dev h) }

/-- CONVENTIONAL_RESET (R57). -/
def execConventionalReset (h : Head) (s : State) : Host.Outcome State Fault Refusal := .next { s with dev := conventional s.fuse s.dev h }

/-- FLR (R57). -/
def execFlr (h : Head) (s : State) : Host.Outcome State Fault Refusal := .next { s with dev := functionReset s.fuse s.dev h }

/-- CXL_RESET (R57). -/
def execCxlReset (h : Head) (s : State) : Host.Outcome State Fault Refusal := .next { s with dev := cxlResetHead s.fuse s.dev h }

/-- DEVICE_RESET (R59). -/
def execDeviceReset (h : Head) (value : Reg32) (s : State) : Host.Outcome State Fault Refusal :=
  .next { s with dev := rstWrite s.fuse s.dev h value.toNat }

/-- UNUSED_D_STATE_WRITE (R56): a write that sets D1 or D2 is ignored, and the head stays in its state. -/
def execUnusedDStateWrite (_h : Head) (_d : Fin 3) (s : State) : Host.Outcome State Fault Refusal := .next s

end Sys2Proof.Machine
end

