-- ==== Sys2Proof/Machine/RegWrite.lean ====
section
/-!
DEFINITION. Writes to the registers of BAR0 (R7, R10 to R12, R437, R438, R441): every field by its access code, the registers whose write
does something by their own operation, and access errors. `who` is the head of a host write; a write of controller firmware or of
the debug port has none, and reaches head A's copies (R437) and the ICU block (R12).
-/
namespace Sys2Proof.Machine

/-- Element of a register array at an offset. -/
def elemOf (base stride count off : Nat) : Option Nat := (⟨base, stride, count, fun _ => 0⟩ : View).at? off

/-- The Meaning cell lists this encoding (R11). -/
def FieldDesc.lists (f : FieldDesc) (v : Nat) : Bool := f.enc.isEmpty || f.enc.any fun r => decide (r.1 ≤ v ∧ v ≤ r.2)

/-- A write to one field of a register word. -/
def FieldDesc.write (f : FieldDesc) (old v : Nat) : Nat :=
  let x := bits v f.hi f.lo
  match f.acc with
  | .rw => if f.lists x then setBits old f.hi f.lo x else old
  | .w1c => setBits old f.hi f.lo (bits old f.hi f.lo - (bits old f.hi f.lo &&& x))
  | .w1s => setBits old f.hi f.lo (bits old f.hi f.lo ||| x)
  | .ro | .wo | .rc | .rwl => old

/-- A register whose write only sets its fields. -/
def Dev.plainWrite (d : Dev) (off v : Nat) : Dev :=
  d.setReg off (BitVec.ofNat 32 ((fieldsAt off).foldl (fun w f => f.write w v) (d.reg off).toNat))

/-- Two fields whose write is ignored together where their new values are out of order: the lower must stay below the upper. -/
def Dev.ordered (old d : Dev) (off uh ul lh ll : Nat) : Dev :=
  if d.fld off lh ll < d.fld off uh ul then d
  else (d.setFld off uh ul (old.fld off uh ul)).setFld off lh ll (old.fld off lh ll)

/-- A configuration register: its fields, its order rule, and the setting that is kept (R441). -/
def Dev.cfgWrite (d : Dev) (off v : Nat) : Dev :=
  let d1 := d.plainWrite off v
  let d2 := if off = LIN_GND_CFG then Dev.ordered d d1 off 11 8 3 0
    else if off = MTL_HEAT_CFG then Dev.ordered d d1 off 31 16 15 8
    else d1
  d2.keepCfg (d.reg off) off

/-- The MSI-X table of a head (R323): a vector whose mask clears sends what is pending. -/
def Dev.msixWrite (d : Dev) (h : Head) (off v : Nat) : Dev :=
  let w := if off % 16 = 12 then v % 2 else v
  (d.setReg (headOff h off) (BitVec.ofNat 32 w)).msixDrain h

/-- Block GLB/LNK. -/
def glbWrite (F : Fuses) (d : Dev) (who : Option Head) (off v : Nat) : Dev :=
  let h := who.getD .a
  if 0x4000 ≤ off ∧ off < 0x4400 then d.msixWrite h off v
  else if 0x1000 ≤ off ∧ off < 0x1800 then
    let n := (off - 0x1000) / 0x20
    match off % 0x20 / 4 with
    | 0 | 1 | 2 | 3 => twinRange F d h n off v
    | 4 => twinWrite F d h (Fin.ofNat 64 n) v
    | _ => d
  else if off = GLB_RST_CTL then rstWrite F d h v
  else if off = GLB_MSIX_SYS then d.setReg (headOff h off) (BitVec.ofNat 32 (2 ^ 7 * bits v 7 7 + bits v 5 0))
  else d.plainWrite off v

/-- A write of the register mailbox by a head (R307). -/
def rmWrite (F : Fuses) (d : Dev) (h : Head) (off v : Nat) : Dev :=
  let other : Bool := d.lci.rmBusy && decide (portMode F d = .dualHead) && d.lci.rmOwnerB != decide (h = Head.b)
  if other then d
  else if off = MBX_RM_CTL then
    if d.lci.rmBusy then d
    else
      let d1 := d.plainWrite off v
      if !bit v 8 then d1
      else
        let op := d1.fld MBX_RM_CTL 7 0
        if op = 0 then (d1.rmGo h op).rmEnd 0x0101 else d1.rmGo h op
  else d.plainWrite off v

/-- Block MBX. -/
def mbxWrite (F : Fuses) (d : Dev) (who : Option Head) (off v : Nat) : Dev :=
  if 0x11000 ≤ off ∧ off < 0x11800 then
    let n := (off - 0x11000) / 0x20
    let h := who.getD (pairHead F d n)
    let mine : Bool := pairMine F d h n && !d.qpOn n && (d.qp n).idle
    match off % 0x20 / 4 with
    | 0 | 2 => if mine then d.setReg off (BitVec.ofNat 32 (v / 4096 * 4096)) else d
    | 1 | 3 => if mine then d.setReg off (BitVec.ofNat 32 v) else d
    | 4 => qpCfgWrite F d h n v
    | 5 => if bit v 29 ∧ pairMine F d h n then d.setQp n { d.qp n with dbErr := false } else d
    | _ => d
  else if 0x12000 ≤ off ∧ off < 0x12200 then
    let n := (off - 0x12000) / 8
    let h := who.getD (pairHead F d n)
    if off % 8 = 0 then sqDoor F d h n v else cqDoor F d h n v
  else rmWrite F d (who.getD .a) off v

/-- A write of a launch slot's TIME or PERIOD (R111): ignored while the slot is armed. -/
def slotSet (F : Fuses) (d : Dev) (who : Option Head) (n off v : Nat) : Dev :=
  if slotWriter F d who n ∧ !d.rbit (TTH_LAUNCH_ACT n) 31 then d.setReg off (BitVec.ofNat 32 v) else d

/-- Block TTH. Without the PTM discipline the count runs free (TTH_STS). -/
def tthWrite (F : Fuses) (d : Dev) (who : Option Head) (off v : Nat) : Dev :=
  if 0x21000 ≤ off ∧ off < 0x21800 then
    let n := (off - 0x21000) / 0x20
    match off % 0x20 / 4 with
    | 0 | 1 | 3 => slotSet F d who n off v
    | 2 => slotWrite F d who n v
    | _ => d
  else if off = TTH_RATE then d.rateWrite (BitVec.ofNat 32 v)
  else
    let d1 := d.cfgWrite off v
    if off = TTH_PTM_CFG ∧ !d1.rbit off 0 then d1.setSrc .free else d1

/-- Block LIN. -/
def linWrite (F : Fuses) (d : Dev) (who : Option Head) (off v : Nat) : Dev :=
  if off = LIN_CACHE_CFG then
    let d1 := d.setFld off 2 1 (bits v 2 1)
    if bit v 0 then compatOn F d1 (who.getD .a) else d1.compatOff
  else if off = LIN_SCR_CTL then scratchWriteCtl F d v
  else if off = LIN_INV_CTL then (if bit v 0 then d.invGo else d)
  else match elemOf (LIN_CMP_ENT_HI 0) 8 48 off with
    | some n => d.cmpPin n (bit v 30)
    | none => d.cfgWrite off v

/-- Block MCH: registers of absent channels and quadrants take no write (R2). -/
def mchWrite (F : Fuses) (d : Dev) (off v : Nat) : Dev :=
  match elemOf (MCH_CH_CTL 0) 0x400 40 off, elemOf (MCH_BRIDLE_RANK 0) 4 4 off with
  | some n, _ => if bit v 0 ∧ presentChan F n then d.retrainAsk n else d
  | _, some q => if presentChan F (10 * q) then (d.rankWrite q v).keepCfg (d.reg off) off else d
  | _, _ => d.cfgWrite off v

/-- Block PSV. -/
def psvWrite (d : Dev) (off v : Nat) : Dev :=
  if off = PSV_MARGIN then marginWrite d v
  else if off = PSV_FAULT then
    { d with pwr := { d.pwr with extLevel := d.pwr.extLevel && !bit v 28, extPulse := d.pwr.extPulse && !bit v 27 } }
  else d

/-- Block THK: tshut_last is kept in the Keel store (R370). -/
def thkWrite (d : Dev) (off v : Nat) : Dev :=
  if off = THK_STS ∧ bit v 29 ∧ d.keel.ready ∧ d.keel.tshutLast then Dev.statePut { d with keel := { d.keel with tshutLast := false } }
  else d

/-- The head that owns element n of `all` counters or histograms: in dual-head mode head B owns the upper half (R403). -/
def pmcOwner (F : Fuses) (d : Dev) (n all : Nat) : Head := if portMode F d = .dualHead ∧ all ≤ 2 * n then .b else .a

/-- Block PMC. -/
def pmcWrite (F : Fuses) (d : Dev) (who : Option Head) (off v : Nat) : Dev :=
  match elemOf (PMC_CNT_CFG 0) 4 64 off, elemOf (PMC_HIST_CFG 0) 4 8 off with
  | some n, _ => cntWrite F d (who.getD (pmcOwner F d n 64)) n v
  | _, some i => histWrite F d (who.getD (pmcOwner F d i 8)) i v
  | _, _ => if off = PMC_CTL then pmcCtl F d (who.getD .a) v else d

/-- Block ICU, for firmware and the debug port; semaphores are released as the debug port. -/
def icuWrite (F : Fuses) (d : Dev) (off v : Nat) : Dev :=
  let pair (k : Nat) : PairId := if k = 0 then .a else .b
  match elemOf (ICU_SRC_CFG 0) 4 128 off, elemOf (ICU_SEM 0) 4 64 off, elemOf (ICU_EOI 0) 4 2 off, elemOf (ICU_WDOG 0) 4 2 off with
  | some n, _, _, _ => d.srcWrite n v
  | _, some n, _, _ => if bit v 8 then d.semRelease n 3 else d
  | _, _, some p, _ => eoi F d (pair p) (bits v 6 0)
  | _, _, _, some p => d.pet (pair p) v
  | _, _, _, _ =>
    if off = ICU_GCTL then d.gctlWrite v
    else if off = ICU_SWI then d.swiWrite v
    else d.plainWrite off v

/-- A 32-bit write to an aligned offset of BAR0. Block 0xF is the CXL component registers', whose rows are their own. -/
def regWrite (F : Fuses) (d : Dev) (who : Option Head) (off v : Nat) : Dev :=
  match off / 0x10000 with
  | 0 => glbWrite F d who off v
  | 1 => mbxWrite F d who off v
  | 2 => tthWrite F d who off v
  | 4 => linWrite F d who off v
  | 6 => mchWrite F d off v
  | 8 => psvWrite d off v
  | 9 => thkWrite d off v
  | 11 => pmcWrite F d who off v
  | 13 => icuWrite F d off v
  | 15 => d
  | _ => d.cfgWrite off v

/-- A write of 32 or 64 bits; both halves of a 64-bit one are written in one step (R12). -/
def regWriteWide (F : Fuses) (d : Dev) (who : Option Head) (off : Nat) (wide : Bool) (v : Nat) : Dev :=
  let d1 := regWrite F d who off (lo32 v)
  if wide then regWrite F d1 who (off + 4) (hi32 v) else d1

/-- A host access error (R438): kind 0 narrow, 1 unaligned, 2 block ICU. -/
def Dev.regError (d : Dev) (h : Head) (kind off : Nat) : Dev :=
  let d1 := d.bump GLB_REG_ERR_CNT
  if d1.rbit GLB_REG_ERR 31 then d1
  else d1.setReg GLB_REG_ERR (BitVec.ofNat 32 (word [(31, 1), (30, hIdx h), (28, kind), (0, off)]))

/-- BAR0 answers a head (R438): CXL.io is available on it, and the function is in D0. -/
def Dev.answers (F : Fuses) (d : Dev) (h : Head) : Bool :=
  presentHead F h && (d.head h).linkUp && decide ((d.head h).dstate = 0) && d.live

/-- A host write of BAR0 (R7, R12, R438). -/
def hostRegWrite (F : Fuses) (d : Dev) (h : Head) (off : Nat) (wide : Bool) (v : Nat) : Dev :=
  if !Dev.answers F d h then d
  else if off % (if wide then 8 else 4) ≠ 0 then d.regError h 1 off
  else if off / 0x10000 = 13 then d.regError h 2 off
  else silentOut F (regWriteWide F d (some h) off wide v)

/-- REGISTER_ACCESS_ERROR (R438). -/
def execRegisterAccessError (h : Head) (kind : Fin 3) (off : BitVec 20) (s : State) : Host.Outcome State Fault Refusal :=
  .next (if Dev.answers s.fuse s.dev h then { s with dev := s.dev.regError h kind.val off.toNat } else s)

/-- REGISTER_WRITE (R7, R12). -/
def execRegisterWrite (h : Head) (off : BitVec 20) (wide : Bool) (value : BitVec 64) (s : State) : Host.Outcome State Fault Refusal :=
  .next { s with dev := hostRegWrite s.fuse s.dev h off.toNat wide value.toNat }

end Sys2Proof.Machine
end

