-- ==== Sys2Proof/Machine/ForaxOps.lean ====
section
/-!
DEFINITION. The Forax debug port (spec/16_observability_test.md R410 to R415; spec/09_title_security.md R257).
-/
namespace Sys2Proof.Machine

/-- The port's pins work (spec/17): VDDIO is valid, and the controller is not in Off or Rest. -/
def Dev.tap (d : Dev) : Bool := (d.seqCh 2).valid && d.live

/-- Bits captured from the data register. -/
def Dev.tdo (d : Dev) (width v : Nat) : Dev := d.emit (.tdo width v)

/-- An instruction is loaded. -/
def Dev.irLoad (d : Dev) (code : Nat) : Dev := { d with dbg := { d.dbg with ir := code } }

/-- The error code of FX_STATUS. -/
def Dev.fxErr (d : Dev) (e : Nat) : Dev := { d with dbg := { d.dbg with err := e } }

/-- A refused instruction: the bypass register, and the error code (R410). -/
def Dev.fxRefuse (d : Dev) : Dev := ((d.irLoad 0x3F).fxErr 1).tdo 1 0

/-- Bits of the boundary-scan register as a number. -/
def boolsNat (l : List Bool) : Nat := l.foldr (fun b n => b2n b + 2 * n) 0

/-- Data registers of IDCODE. -/
def idcodeWord (F : Fuses) : Nat := word [(28, F.rev.toNat), (12, 0x4480), (1, 0x5F3), (0, 1)]

/-! ## Boundary scan -/

/-- May EXTEST, CLAMP and HIGHZ act (R411)? Bring-up has not passed step 0x4, or has stalled. -/
def Dev.scanMay (d : Dev) : Bool := decide (d.pwr.svc = .bringup ∧ (d.pwr.step ≤ 4 ∨ d.pwr.step = 0xF))

/-- One of the three is loaded: bring-up holds (R411). -/
def scanHold (d : Dev) (code width v : Nat) : Dev :=
  if !d.tap then d
  else if d.scanMay then ({ d with dbg := { d.dbg with hold := true } }.irLoad code).tdo width v
  else d.fxRefuse

/-- SAMPLE/PRELOAD: the pins are captured. -/
def scanSample (d : Dev) (pins : List Bool) : Dev :=
  if d.tap then ({ d with dbg := { d.dbg with scan := pins } }.irLoad 2).tdo pins.length (boolsNat pins) else d

/-- Instructions of R410 other than BYPASS. -/
def irCodes : List Nat := [0, 1, 2, 3, 4, 0x10, 0x11, 0x12, 0x13, 0x14]

/-! ## Unlocking -/

/-- The 48 bytes of a challenge (R412). -/
def challenge (F : Fuses) (nonce fails : Nat) : List Nat := leBytes 32 nonce ++ leBytes 8 F.serial.toNat ++ leBytes 4 F.ownerId.toNat ++ leBytes 4 fails

/-- Capture-DR of FX_CHAL. -/
def fxChallenge (F : Fuses) (d : Dev) : Dev :=
  if !d.tap then d
  else if 4 ≤ d.dbg.fails then (d.irLoad 0x11).tdo 384 0
  else
    let (r, d1) := d.rand
    let c := leNat (challenge F r d.dbg.fails)
    ({ d1 with dbg := { d1.dbg with chal := some (BitVec.ofNat 384 c) } }.irLoad 0x11).tdo 384 c

/-- The effects of an unlock (R257): windows of keys are disabled, every slot drains, the debug root is the ladder's. -/
def unlockWork (F : Fuses) (d : Dev) : Dev :=
  let keyed := (List.range 64).filter fun n => (d.win n).en && decide ((d.win n).key ≠ 0)
  let d1 := keyed.foldl (fun d n => twinOff F d (Fin.ofNat 64 n)) d
  let d2 := { d1 with sec := { d1.sec with dbgMode := true, slots := Tbl.mapAll {} d1.sec.slots fun _ x => if x.state = 1 then { x with state := 2 } else x }
                      dbg := { d1.dbg with busy := true, err := 0 } }
  d2.unlockSettle

/-- Update-DR of FX_RESP (R412). -/
def fxResponse (F : Fuses) (d : Dev) (r s : BitVec 384) : Dev :=
  if !d.tap ∨ d.dbg.unlocked ∨ d.dbg.busy ∨ 4 ≤ d.dbg.fails then d
  else
    let good : Bool := match d.dbg.chal with
      | some c => Config.ecdsa F.debugKey (leBytes 48 c.toNat) r s
      | none => false
    let d1 := d.irLoad 0x12
    if good then unlockWork F d1 else { d1 with dbg := { d1.dbg with fails := d1.dbg.fails + 1, err := 5 } }

/-! ## Commands -/

/-- An FX_CMD (R410, R413, R415): refused while locked, ignored while busy; the first one opens the session. ICU source 97. -/
def fxRun (d : Dev) (f : Dev → Dev) : Dev :=
  if !d.tap then d
  else if d.dbg.busy then d.fxErr 2
  else if !d.dbg.unlocked then d.fxRefuse
  else f (({ d with dbg := { d.dbg with session := true, err := 0 } }.irLoad 0x13).icu 97)

/-- A pair halts (R413, R414). -/
def Dev.haltPair (d : Dev) (p : PairId) : Dev :=
  let x := d.pair p
  if !x.runs ∨ x.halted then d
  else
    let d1 := d.setPair p { x with halted := true, haltAt := d.tether.now }
    if p = d.cores.active then d1 else { d1 with cores := { d1.cores with standbyOk := false } }

/-- A halted pair goes on: its watchdog counts again, and a standby is ready again. -/
def Dev.resumePair (d : Dev) (p : PairId) : Dev :=
  let x := d.pair p
  if !x.halted then d
  else
    let d1 := d.setPair p { x with halted := false, pet := x.pet + (d.tether.now - x.haltAt) }
    if p = d.cores.active then d1 else { d1 with cores := { d1.cores with standbyOk := x.runs && !d1.cores.takeover && !d1.cores.dead } }

/-- For a command on a halted pair. -/
def Dev.onHalted (d : Dev) (p : PairId) (f : Dev → Dev) : Dev := if (d.pair p).halted then f d else d.fxErr 4

/-- One instruction of a halted pair: the core registers that it leaves. -/
def Dev.stepPair (d : Dev) (p : PairId) (after : List (Nat × Nat)) : Dev :=
  let x := d.pair p
  d.setPair p { x with regs := after.foldl (fun t e => Tbl.put 0 t e.1 e.2) x.regs }

/-- A breakpoint of a pair. -/
def Dev.setBkpt (d : Dev) (p : PairId) (i : Nat) (a : Option Nat) : Dev :=
  let x := d.pair p
  d.setPair p { x with bkpt := Tbl.put none x.bkpt i a }

/-- What FX_DATA holds, shifted out. -/
def Dev.fxOut (d : Dev) (v : Nat) : Dev := ({ d with dbg := { d.dbg with fxData := BitVec.ofNat 64 v } }).tdo 64 v

/-- Where an address of the internal space lies (R413). -/
inductive FxPlace where
  | bar (off : Nat)
  | memory (p : PairId) (off : Nat)
  | none
  deriving DecidableEq, Repr

/-- The map of R413. -/
def fxPlace (a : Nat) : FxPlace :=
  if a < 0x100000 then .bar (a / 4 * 4)
  else if 0x10000000 ≤ a ∧ a < 0x11000000 then .memory .a (a - 0x10000000)
  else if 0x11000000 ≤ a ∧ a < 0x12000000 then .memory .b (a - 0x11000000)
  else .none

/-- One 32-bit word of a head's read, and the RC fields that the bytes read include whole cleared (R7, R12). -/
def readWord (F : Fuses) (d : Dev) (h : Head) (off hi lo : Nat) : Nat × Dev :=
  (bits (hostPeek F d h (off / 4 * 4)) hi lo, if perHead (off / 4 * 4) then d else d.rcRead (off / 4 * 4) hi lo)

/-- A head's read of n bytes of BAR0, n being 1, 2, 4 or 8 (R7, R12, R438): the value, and the state after it. Both halves of a pair of registers are read
in one step. The table has no row for a host's read (log entry 97). -/
def hostRegRead (F : Fuses) (d : Dev) (h : Head) (off n : Nat) : Nat × Dev :=
  if !Dev.answers F d h then (0, d)
  else if off % n ≠ 0 then (0, d.regError h 1 off)
  else if off / 0x10000 = 13 then (0, d.regError h 2 off)
  else if n = 8 then
    let lo := readWord F d h off 31 0
    let hi := readWord F lo.2 h (off + 4) 31 0
    (lo.1 + 2 ^ 32 * hi.1, hi.2)
  else readWord F d h off (8 * (off % 4) + 8 * n - 1) (8 * (off % 4))

/-- One register read by the port: its RC fields clear unless `raw`; a read of ICU_SEMn acquires (R316). -/
def fxReg (F : Fuses) (d : Dev) (raw : Bool) (off : Nat) : Nat × Dev :=
  if raw then (regPeek F d off, d)
  else match elemOf (ICU_SEM 0) 4 64 off with
    | some n => d.semAcquire n 3
    | none => (regPeek F d off, d.rcClear off)

/-- Read 64 bits. -/
def fxLoad (F : Fuses) (d : Dev) (raw : Bool) (a : Nat) : Dev :=
  match fxPlace a with
  | .bar off =>
    let (lo, d1) := fxReg F d raw off
    let (hi, d2) := if off + 4 < 0x100000 then fxReg F d1 raw (off + 4) else (0, d1)
    d2.fxOut (lo + 2 ^ 32 * hi)
  | .memory p off => d.fxOut (leNat ((List.range 8).map fun i => Tbl.look 0 (d.pair p).mem (off + i)))
  | .none => (d.fxErr 3).fxOut 0

/-- Write 64 bits, as firmware would. -/
def fxStore (F : Fuses) (d : Dev) (a v : Nat) : Dev :=
  let d0 := { d with dbg := { d.dbg with fxData := BitVec.ofNat 64 v } }
  match fxPlace a with
  | .bar off => silentOut F (regWriteWide F d0 none off (decide (off + 4 < 0x100000)) v)
  | .memory p off =>
    let x := d0.pair p
    d0.setPair p { x with mem := (List.range 8).foldl (fun t i => Tbl.put 0 t (off + i) (byteOf v i)) x.mem }
  | .none => d0.fxErr 3

/-- The session closes (R415). -/
def Dev.fxClose (d : Dev) : Dev :=
  let d1 := (d.resumePair .a).resumePair .b
  let d2 := { d1 with cores := { d1.cores with a := { d1.cores.a with bkpt := [] }, b := { d1.cores.b with bkpt := [] } } }
  { d2.semsAbandon 3 with dbg := { d2.dbg with session := false } }

/-- TRST_N low, or Test-Logic-Reset. -/
def tapOff (d : Dev) : Dev :=
  let d1 := d.fxClose
  { d1 with dbg := { d1.dbg with ir := 1, hold := false } }

/-- A pair reaches a breakpoint. -/
def bkptHit (d : Dev) (p : PairId) (i : Nat) : Dev := if (Tbl.look none (d.pair p).bkpt i).isSome then d.haltPair p else d

/-! ## The meanings -/

/-- EXTEST (R411). -/
def execExtest (s : State) : Host.Outcome State Fault Refusal :=
  .next { s with dev := scanHold s.dev 0 s.dev.dbg.scan.length (boolsNat s.dev.dbg.scan) }

/-- IDCODE (R410). -/
def execIdcode (s : State) : Host.Outcome State Fault Refusal :=
  .next (if s.dev.tap then { s with dev := (s.dev.irLoad 1).tdo 32 (idcodeWord s.fuse) } else s)

/-- SAMPLE_PRELOAD (R410). -/
def execSamplePreload (pins : List Bool) (s : State) : Host.Outcome State Fault Refusal := .next { s with dev := scanSample s.dev pins }

/-- CLAMP (R411). -/
def execClamp (s : State) : Host.Outcome State Fault Refusal := .next { s with dev := scanHold s.dev 3 1 0 }

/-- HIGHZ (R411). -/
def execHighz (s : State) : Host.Outcome State Fault Refusal := .next { s with dev := scanHold s.dev 4 1 0 }

/-- BYPASS (R410): code 0x3F and every code not listed. -/
def execBypass (code : Fin 64) (s : State) : Host.Outcome State Fault Refusal :=
  .next (if s.dev.tap ∧ !irCodes.contains code.val then { s with dev := (s.dev.irLoad code.val).tdo 1 0 } else s)

/-- FX_STATUS (R410). -/
def execFxStatus (s : State) : Host.Outcome State Fault Refusal :=
  .next (if s.dev.tap then { s with dev := (s.dev.irLoad 0x10).tdo 32 (dbgSts s.dev) } else s)

/-- FX_CHAL (R412). -/
def execFxChal (s : State) : Host.Outcome State Fault Refusal := .next { s with dev := fxChallenge s.fuse s.dev }

/-- FX_RESP (R412, R257). -/
def execFxResp (r t : BitVec 384) (s : State) : Host.Outcome State Fault Refusal := .next { s with dev := fxResponse s.fuse s.dev r t }

/-- FX_HALT (R413). -/
def execFxHalt (p : PairId) (s : State) : Host.Outcome State Fault Refusal := .next { s with dev := fxRun s.dev fun d => d.haltPair p }

/-- FX_RESUME (R413). -/
def execFxResume (p : PairId) (s : State) : Host.Outcome State Fault Refusal := .next { s with dev := fxRun s.dev fun d => d.resumePair p }

/-- FX_STEP (R413): `after` names the core registers that the instruction leaves changed. -/
def execFxStep (p : PairId) (after : List (Nat × Nat)) (s : State) : Host.Outcome State Fault Refusal :=
  .next { s with dev := fxRun s.dev fun d => d.onHalted p fun d => d.stepPair p after }

/-- FX_SET_BREAKPOINT (R413). -/
def execFxSetBreakpoint (p : PairId) (i : Fin 8) (addr : BitVec 48) (s : State) : Host.Outcome State Fault Refusal :=
  .next { s with dev := fxRun s.dev fun d => d.setBkpt p i.val (some addr.toNat) }

/-- FX_CLEAR_BREAKPOINT (R413). -/
def execFxClearBreakpoint (p : PairId) (i : Fin 8) (s : State) : Host.Outcome State Fault Refusal :=
  .next { s with dev := fxRun s.dev fun d => d.setBkpt p i.val none }

/-- FX_READ (R413). -/
def execFxRead (raw : Bool) (addr : BitVec 48) (s : State) : Host.Outcome State Fault Refusal :=
  .next { s with dev := fxRun s.dev fun d => fxLoad s.fuse d raw addr.toNat }

/-- FX_WRITE (R413). -/
def execFxWrite (addr : BitVec 48) (data : BitVec 64) (s : State) : Host.Outcome State Fault Refusal :=
  .next { s with dev := fxRun s.dev fun d => fxStore s.fuse d addr.toNat data.toNat }

/-- FX_READ_REGISTER (R413). -/
def execFxReadRegister (p : PairId) (i : Byte) (s : State) : Host.Outcome State Fault Refusal :=
  .next { s with dev := fxRun s.dev fun d => d.onHalted p fun d => d.fxOut (Tbl.look 0 (d.pair p).regs i.toNat) }

/-- FX_WRITE_REGISTER (R413). -/
def execFxWriteRegister (p : PairId) (i : Byte) (data : BitVec 64) (s : State) : Host.Outcome State Fault Refusal :=
  let f (d : Dev) : Dev := { d with dbg := { d.dbg with fxData := data } }.stepPair p [(i.toNat, data.toNat)]
  .next { s with dev := fxRun s.dev fun d => d.onHalted p f }

/-- FX_SEMAPHORE_ACQUIRE (R316, R413). -/
def execFxSemaphoreAcquire (i : Fin 64) (s : State) : Host.Outcome State Fault Refusal :=
  .next { s with dev := fxRun s.dev fun d => (d.semAcquire i.val 3).2.fxOut (d.semAcquire i.val 3).1 }

/-- FX_SEMAPHORE_RELEASE (R316, R413). -/
def execFxSemaphoreRelease (i : Fin 64) (s : State) : Host.Outcome State Fault Refusal :=
  .next { s with dev := fxRun s.dev fun d => d.semRelease i.val 3 }

/-- FX_CLOSE_SESSION (R415). -/
def execFxCloseSession (s : State) : Host.Outcome State Fault Refusal := .next { s with dev := fxRun s.dev Dev.fxClose }

/-- TAP_RESET (R410, R411, R415). -/
def execTapReset (s : State) : Host.Outcome State Fault Refusal := .next (if s.dev.tap then { s with dev := tapOff s.dev } else s)

/-- BREAKPOINT_HIT (R414). -/
def execBreakpointHit (p : PairId) (i : Fin 8) (s : State) : Host.Outcome State Fault Refusal := .next { s with dev := bkptHit s.dev p i.val }

end Sys2Proof.Machine
end

