-- ==== Sys2Proof/Machine/SliceOps.lean ====
section
/-!
DEFINITION. Self-test slices (spec/16_observability_test.md R406 to R409).
-/
namespace Sys2Proof.Machine

/-- Duration of a slice in µs and its coverage in 0.01 % (R406). -/
def sliceFacts (n : Nat) : Nat × Nat :=
  let k := n % 256
  match n / 256 with
  | 0 => (match k % 4 with
    | 0 => (6, 9600)
    | 1 => (3, 9500)
    | 2 => (5, 9200)
    | _ => (2, 9000))
  | 1 => (2, 8500)
  | 2 => if k ≤ 5 then (10, 9000) else if k ≤ 7 then (10, 8800) else (100000, 9900)
  | _ => if k ≤ 13 then (40, 9500) else (50, 9700)

/-- The rails of the unit under test, with VDD_CORE and VDD_SRAM (R407). -/
def sliceRails (n : Nat) : List Nat :=
  [0, 1] ++ (match n / 256 with
    | 0 => [5, 6 + n % 256 / 4 / 10]
    | 1 => [3, 4]
    | _ => [])

/-- The conditions of R407 that the state shows; `lock`: the fabric PLL is locked. Tj counts once it has been evaluated. -/
def sliceReady (d : Dev) (n : Nat) (lock : Bool) : Bool :=
  lock && ((sliceRails n).all fun r => (d.seqCh r).valid) && d.pwr.margin.isNone &&
    (!d.therm.done || decide (176 ≤ d.therm.tj ∧ d.therm.tj ≤ 696)) &&
    (match sliceChan n with
      | some c => (d.chan c).trained && !(d.chan c).failed
      | none => true)

/-- May the slice start in the window that is open (R406)? -/
def sliceOpen (d : Dev) (x : Slice) : Bool :=
  match x.num / 256 with
  | 0 => d.tether.twOpen && decide (d.tether.twChan = x.num % 256 / 4) && decide (x.after ≠ some d.tether.twCount) &&
      decide (d.tether.now + (sliceFacts x.num).1 * 1000 ≤ d.tether.twEnd)
  | 1 =>
    let h := d.head (if x.num % 256 < 16 then .a else .b)
    h.linkUp && decide (h.lstate ≤ 1)
  | u => d.bst.unitOpen.contains u

/-- The slice leaves the queue, and the Self-Test that asked for it takes its result: it ends with its last slice (R408). -/
def sliceEnd (d : Dev) (x : Slice) (cov dur : Nat) (fault skipped : Bool) : Dev :=
  let d1 := { d with bst := { d.bst with queue := d.bst.queue.erase x } }
  match x.owner with
  | none => d1
  | some h =>
    match d1.bst.jobs.find? fun j => j.owner == h with
    | none => d1
    | some j =>
      let k : TestJob := { j with ended := j.ended + 1, ran := j.ran + b2n (!skipped), coverage := j.coverage + cov, duration := j.duration + dur
                                  faults := j.faults + b2n fault }
      let result := leBytes 2 (k.coverage / k.ended) ++ [0, 0] ++ leBytes 4 k.duration ++ leBytes 4 k.faults
      let last := !(d1.bst.queue.any fun y => y.owner == some h)
      let jobs := if last then d1.bst.jobs.filter fun y => y.owner != h else d1.bst.jobs.map fun y => if y.owner = h then k else y
      let d2 := { d1 with bst := { d1.bst with jobs := jobs } }
      if last then d2.finish h (if 0 < k.faults then 0x0702 else 0) k.ran result
      else d2.mapCmd h fun c => { c with progress := k.ran, result := result }

/-- What a fault of a slice brings (R409). -/
def sliceFault (F : Fuses) (d : Dev) (x : Slice) : Dev :=
  let b := d.bst
  let d1 := ({ d with bst := { b with faults := satAdd b.faults 1 0xFFF, lastFault := x.num } }.event F 0x6005 x.num)
  let k := x.num % 256
  match x.num / 256 with
  | 0 =>
    if x.again then d1.retrainAsk (k / 4)
    else { d1 with bst := { d1.bst with queue := ({ num := x.num, again := true, after := some d.tether.twCount } : Slice) :: d1.bst.queue } }
  | 3 =>
    if k ≤ 13 then ((d1.setSensor k { d1.sensor k with bad := true }).event F 0x1011 k).icu 79
    else if d1.bst.withdrawn.contains x.num then d1
    else { d1 with bst := { d1.bst with withdrawn := x.num :: d1.bst.withdrawn } }
  | _ => d1

/-- A queued slice comes to its window (R407): it runs, is deferred, or after 8 deferrals is skipped. -/
def sliceRun (F : Fuses) (d : Dev) (n : Nat) (fault lock : Bool) : Dev :=
  match d.bst.queue.find? fun x => x.num == n with
  | none => d
  | some x =>
    if !slicePresent F d n then sliceEnd d x 0 0 false true
    else if !sliceOpen d x then d
    else
      let u := n / 256
      let (dur, cov) := sliceFacts n
      let d1 := { d with bst := { d.bst with unitOpen := d.bst.unitOpen.filter (· != u) } }
      if !sliceReady d n lock then
        if 8 ≤ x.deferrals then sliceEnd d1 x 0 0 false true
        else
          let y := { x with deferrals := x.deferrals + 1, after := if u = 0 then some d.tether.twCount else none }
          { d1 with bst := { d1.bst with queue := d1.bst.queue.map fun z => if z = x then y else z } }
      else
        let d2 := if u = 0 then d1.advance (d1.tether.now + dur * 1000) else d1
        let d3 := (sliceEnd d2 x cov dur fault false).icu 88
        if fault then sliceFault F d3 x else d3

/-- Every slice of every present unit (R408). -/
def allSlices (F : Fuses) (d : Dev) : List Nat := ((List.range 1024).filter (slicePresent F d))

/-- Firmware queues every slice that is not queued (R408). -/
def slicesQueue (F : Fuses) (d : Dev) : Dev :=
  if d.fld BST_CFG 15 0 = 0 ∨ !d.inService ∨ !d.fwRuns then d
  else
    let new := (allSlices F d).filter fun n => !(d.bst.queue.any fun x => x.num == n)
    { d with bst := { d.bst with queue := d.bst.queue ++ new.map fun n => ({ num := n } : Slice) } }

/-- UNIT_WINDOW (R406): the next whole millisecond of Tether. -/
def execUnitWindow (s : State) : Host.Outcome State Fault Refusal :=
  let d := s.dev.tick 5 1000000
  .next (if s.dev.live then { s with dev := { d with bst := { d.bst with unitOpen := [2, 3] } } } else s)

/-- SELF_TEST_SLICE_RUN (R407 to R409). -/
def execSelfTestSliceRun (slice : BitVec 12) (fault condition : Bool) (s : State) : Host.Outcome State Fault Refusal :=
  .next { s with dev := silentOut s.fuse (sliceRun s.fuse s.dev slice.toNat fault condition) }

/-- PERIODIC_SLICE_QUEUE (R408). -/
def execPeriodicSliceQueue (s : State) : Host.Outcome State Fault Refusal := .next { s with dev := slicesQueue s.fuse s.dev }

end Sys2Proof.Machine
end

