-- ==== Sys2Proof/Machine/Dispatch.lean ====
section
/-!
DEFINITION. The effect of each command on everything but the queue: one arm per row of the opcode table.
-/
namespace Sys2Proof.Machine

/-- A command's effect. -/
def exec (i : Instr) (s : State) : Host.Outcome State Fault Refusal :=
  match i with
  | .creditGrant h rwd => Sys2Proof.Machine.execCreditGrant h rwd s
  | .memrd h tag dpa => Sys2Proof.Machine.execMemrd h tag dpa s
  | .memspecrd h dpa => Sys2Proof.Machine.execMemspecrd h dpa s
  | .meminv h tag dpa nt => Sys2Proof.Machine.execMeminv h tag dpa nt s
  | .memwr h tag dpa data poison => Sys2Proof.Machine.execMemwr h tag dpa data poison s
  | .memwrptl h tag dpa data be poison => Sys2Proof.Machine.execMemwrptl h tag dpa data be poison s
  | .sectorTransitEnd dpa => Sys2Proof.Machine.execSectorTransitEnd dpa s
  | .mediaLineReturn dpa v unk => Sys2Proof.Machine.execMediaLineReturn dpa v unk s
  | .heavyDecodeDone dpa v => Sys2Proof.Machine.execHeavyDecodeDone dpa v s
  | .readRetryAfterProgram dpa v unk => Sys2Proof.Machine.execReadRetryAfterProgram dpa v unk s
  | .writeBackDone dpa => Sys2Proof.Machine.execWriteBackDone dpa s
  | .stagedEntryTranslate dpa => Sys2Proof.Machine.execStagedEntryTranslate dpa s
  | .gondolaMacroFail bank macroNo lost => Sys2Proof.Machine.execGondolaMacroFail bank macroNo lost s
  | .sramUncorrectable store dpa => Sys2Proof.Machine.execSramUncorrectable store dpa s
  | .scratchConversionWrite h value => Sys2Proof.Machine.execScratchConversionWrite h value s
  | .compatEnable h => Sys2Proof.Machine.execCompatEnable h s
  | .compatDisable h => Sys2Proof.Machine.execCompatDisable h s
  | .compatPagePin h n => Sys2Proof.Machine.execCompatPagePin h n s
  | .compatPageUnpin h n => Sys2Proof.Machine.execCompatPageUnpin h n s
  | .invalidationGo h => Sys2Proof.Machine.execInvalidationGo h s
  | .invalidationDone r => Sys2Proof.Machine.execInvalidationDone r s
  | .tthRateWrite h value => Sys2Proof.Machine.execTthRateWrite h value s
  | .ptmResult hostTime => Sys2Proof.Machine.execPtmResult hostTime s
  | .programStartGate m mode buf last => Sys2Proof.Machine.execProgramStartGate m mode buf last s
  | .programOverrun m => Sys2Proof.Machine.execProgramOverrun m s
  | .testWindowOpen narrowEye narrowDie => Sys2Proof.Machine.execTestWindowOpen narrowEye narrowDie s
  | .launchSlotArm h n value => Sys2Proof.Machine.execLaunchSlotArm h n value s
  | .launchSlotDisarm h n value => Sys2Proof.Machine.execLaunchSlotDisarm h n value s
  | .launchSlotFire n => Sys2Proof.Machine.execLaunchSlotFire n s
  | .gpioPulseEnd pin => Sys2Proof.Machine.execGpioPulseEnd pin s
  | .nop m err => Sys2Proof.Machine.execNop m err s
  | .rdLine m err pa slot set mode => Sys2Proof.Machine.execRdLine m err pa slot set mode s
  | .rdLineSoft m err pa slot set mode mask => Sys2Proof.Machine.execRdLineSoft m err pa slot set mode mask s
  | .rdPage m err pa set mode => Sys2Proof.Machine.execRdPage m err pa set mode s
  | .rdRef m err pa mode sweep => Sys2Proof.Machine.execRdRef m err pa mode sweep s
  | .load m err pa buf entry data crc => Sys2Proof.Machine.execLoad m err pa buf entry data crc s
  | .progSlc m err buf last => Sys2Proof.Machine.execProgSlc m err buf last s
  | .progMlc m err buf last => Sys2Proof.Machine.execProgMlc m err buf last s
  | .dieProgramEnd m res => Sys2Proof.Machine.execDieProgramEnd m res s
  | .status m err => Sys2Proof.Machine.execStatus m err s
  | .temp m err => Sys2Proof.Machine.execTemp m err s
  | .readId m err => Sys2Proof.Machine.execReadId m err s
  | .setFeature dies err addr value => Sys2Proof.Machine.execSetFeature dies err addr value s
  | .getFeature m err addr => Sys2Proof.Machine.execGetFeature m err addr s
  | .trainCa m err => Sys2Proof.Machine.execTrainCa m err s
  | .trainRd m err pattern => Sys2Proof.Machine.execTrainRd m err pattern s
  | .trainWr m err data => Sys2Proof.Machine.execTrainWr m err data s
  | .zqCal m err => Sys2Proof.Machine.execZqCal m err s
  | .pdEnter dies err => Sys2Proof.Machine.execPdEnter dies err s
  | .pdExit dies err => Sys2Proof.Machine.execPdExit dies err s
  | .reset dies err => Sys2Proof.Machine.execReset dies err s
  | .dieInitDone m => Sys2Proof.Machine.execDieInitDone m s
  | .alertConditionRepeat m => Sys2Proof.Machine.execAlertConditionRepeat m s
  | .alertNLow low => Sys2Proof.Machine.execAlertNLow low s
  | .alertLongLow n => Sys2Proof.Machine.execAlertLongLow n s
  | .alertStatusResponse m st => Sys2Proof.Machine.execAlertStatusResponse m st s
  | .alertStuck n => Sys2Proof.Machine.execAlertStuck n s
  | .channelTraining n found => Sys2Proof.Machine.execChannelTraining n found s
  | .channelTrained n eyeRd eyeWr passed => Sys2Proof.Machine.execChannelTrained n eyeRd eyeWr passed s
  | .retrainRequest h n => Sys2Proof.Machine.execRetrainRequest h n s
  | .retrainTimer n => Sys2Proof.Machine.execRetrainTimer n s
  | .retrainComplete n eyeRd eyeWr code => Sys2Proof.Machine.execRetrainComplete n eyeRd eyeWr code s
  | .rowUpdateStart g row mode lines => Sys2Proof.Machine.execRowUpdateStart g row mode lines s
  | .rowUpdateDone g row => Sys2Proof.Machine.execRowUpdateDone g row s
  | .bridleGrant n => Sys2Proof.Machine.execBridleGrant n s
  | .bridleRankWrite h q value => Sys2Proof.Machine.execBridleRankWrite h q value s
  | .dieDeclaredFailed m cause => Sys2Proof.Machine.execDieDeclaredFailed m cause s
  | .channelDeclaredFailed n cause => Sys2Proof.Machine.execChannelDeclaredFailed n cause s
  | .faultDieReset m => Sys2Proof.Machine.execFaultDieReset m s
  | .lineRepair dpa => Sys2Proof.Machine.execLineRepair dpa s
  | .poisonConfirmation dpa good => Sys2Proof.Machine.execPoisonConfirmation dpa good s
  | .surveyTract g index pos codes => Sys2Proof.Machine.execSurveyTract g index pos codes s
  | .thresholdRecompute r => Sys2Proof.Machine.execThresholdRecompute r s
  | .resurveyTract g index pos codes => Sys2Proof.Machine.execResurveyTract g index pos codes s
  | .refreshStart tract => Sys2Proof.Machine.execRefreshStart tract s
  | .scrubRow tract row worst found parityBad => Sys2Proof.Machine.execScrubRow tract row worst found parityBad s
  | .metadataWriteback line => Sys2Proof.Machine.execMetadataWriteback line s
  | .counterLineWriteback page => Sys2Proof.Machine.execCounterLineWriteback page s
  | .gapMove tract => Sys2Proof.Machine.execGapMove tract s
  | .gapMoveDone tract => Sys2Proof.Machine.execGapMoveDone tract s
  | .migrationStart tract why => Sys2Proof.Machine.execMigrationStart tract why s
  | .migrationCopyDone tract => Sys2Proof.Machine.execMigrationCopyDone tract s
  | .migrationVerify tract bad badAgain => Sys2Proof.Machine.execMigrationVerify tract bad badAgain s
  | .migrationSwitch tract => Sys2Proof.Machine.execMigrationSwitch tract s
  | .migrationRelease tract => Sys2Proof.Machine.execMigrationRelease tract s
  | .reencryptionRewrite dpa => Sys2Proof.Machine.execReencryptionRewrite dpa s
  | .slotDrainComplete slot => Sys2Proof.Machine.execSlotDrainComplete slot s
  | .descriptorFetch c descs fail => Sys2Proof.Machine.execDescriptorFetch c descs fail s
  | .descriptorStart c => Sys2Proof.Machine.execDescriptorStart c s
  | .sourceLineReturn c v => Sys2Proof.Machine.execSourceLineReturn c v s
  | .outboundWrite c n => Sys2Proof.Machine.execOutboundWrite c n s
  | .confirmationComplete c => Sys2Proof.Machine.execConfirmationComplete c s
  | .outboundCompletionTimeout c why => Sys2Proof.Machine.execOutboundCompletionTimeout c why s
  | .listEnd c => Sys2Proof.Machine.execListEnd c s
  | .snapshotBuildTract h => Sys2Proof.Machine.execSnapshotBuildTract h s
  | .snapshotComplete h => Sys2Proof.Machine.execSnapshotComplete h s
  | .qpEnable h n value => Sys2Proof.Machine.execQpEnable h n value s
  | .qpDisable h n value => Sys2Proof.Machine.execQpDisable h n value s
  | .qpIdle n => Sys2Proof.Machine.execQpIdle n s
  | .sqDoorbell h n value => Sys2Proof.Machine.execSqDoorbell h n value s
  | .cqDoorbell h n value => Sys2Proof.Machine.execCqDoorbell h n value s
  | .sqFetch n entry parity => Sys2Proof.Machine.execSqFetch n entry parity s
  | .cqEntryWrite h parity => Sys2Proof.Machine.execCqEntryWrite h parity s
  | .heldCommandStart h => Sys2Proof.Machine.execHeldCommandStart h s
  | .invalidOpcode h => Sys2Proof.Machine.execInvalidOpcode h s
  | .stream h => Sys2Proof.Machine.execStream h s
  | .copy h => Sys2Proof.Machine.execCopy h s
  | .install h => Sys2Proof.Machine.execInstall h s
  | .verify h => Sys2Proof.Machine.execVerify h s
  | .snapshot h => Sys2Proof.Machine.execSnapshot h s
  | .stop h => Sys2Proof.Machine.execStop h s
  | .dictionaryRegister h => Sys2Proof.Machine.execDictionaryRegister h s
  | .drop h => Sys2Proof.Machine.execDrop h s
  | .discard h => Sys2Proof.Machine.execDiscard h s
  | .sanitize h => Sys2Proof.Machine.execSanitize h s
  | .keyLoad h => Sys2Proof.Machine.execKeyLoad h s
  | .keyEvict h => Sys2Proof.Machine.execKeyEvict h s
  | .keyGenerate h => Sys2Proof.Machine.execKeyGenerate h s
  | .epochAdvance h => Sys2Proof.Machine.execEpochAdvance h s
  | .rekey h => Sys2Proof.Machine.execRekey h s
  | .lockAcquire h => Sys2Proof.Machine.execLockAcquire h s
  | .lockRelease h => Sys2Proof.Machine.execLockRelease h s
  | .identify h => Sys2Proof.Machine.execIdentify h s
  | .query h => Sys2Proof.Machine.execQuery h s
  | .selfTest h => Sys2Proof.Machine.execSelfTest h s
  | .logFreeze h => Sys2Proof.Machine.execLogFreeze h s
  | .logThaw h => Sys2Proof.Machine.execLogThaw h s
  | .logRead h confirm => Sys2Proof.Machine.execLogRead h confirm s
  | .unfinishedRead h confirm => Sys2Proof.Machine.execUnfinishedRead h confirm s
  | .getStatus h => Sys2Proof.Machine.execGetStatus h s
  | .readLog h => Sys2Proof.Machine.execReadLog h s
  | .readUnfinished h => Sys2Proof.Machine.execReadUnfinished h s
  | .imageWrite h => Sys2Proof.Machine.execImageWrite h s
  | .imageSelect h => Sys2Proof.Machine.execImageSelect h s
  | .rmIdentify h => Sys2Proof.Machine.execRmIdentify h s
  | .queueClear h => Sys2Proof.Machine.execQueueClear h s
  | .cxlIdentify h => Sys2Proof.Machine.execCxlIdentify h s
  | .backgroundOperationStatus h => Sys2Proof.Machine.execBackgroundOperationStatus h s
  | .getEventRecords h log => Sys2Proof.Machine.execGetEventRecords h log s
  | .clearEventRecords h log all handles => Sys2Proof.Machine.execClearEventRecords h log all handles s
  | .getEventInterruptPolicy h => Sys2Proof.Machine.execGetEventInterruptPolicy h s
  | .setEventInterruptPolicy h policy => Sys2Proof.Machine.execSetEventInterruptPolicy h policy s
  | .getFwInfo h => Sys2Proof.Machine.execGetFwInfo h s
  | .transferFw h slot offset data => Sys2Proof.Machine.execTransferFw h slot offset data s
  | .activateFw h slot => Sys2Proof.Machine.execActivateFw h slot s
  | .getTimestamp h => Sys2Proof.Machine.execGetTimestamp h s
  | .setTimestamp h value => Sys2Proof.Machine.execSetTimestamp h value s
  | .getSupportedLogs h => Sys2Proof.Machine.execGetSupportedLogs h s
  | .getLog h => Sys2Proof.Machine.execGetLog h s
  | .identifyMemoryDevice h => Sys2Proof.Machine.execIdentifyMemoryDevice h s
  | .getPartitionInfo h => Sys2Proof.Machine.execGetPartitionInfo h s
  | .getLsa h offset len => Sys2Proof.Machine.execGetLsa h offset len s
  | .setLsa h offset data => Sys2Proof.Machine.execSetLsa h offset data s
  | .getHealthInfo h => Sys2Proof.Machine.execGetHealthInfo h s
  | .getAlertConfiguration h => Sys2Proof.Machine.execGetAlertConfiguration h s
  | .setAlertConfiguration h value => Sys2Proof.Machine.execSetAlertConfiguration h value s
  | .getShutdownState h => Sys2Proof.Machine.execGetShutdownState h s
  | .setShutdownState h value => Sys2Proof.Machine.execSetShutdownState h value s
  | .getPoisonList h => Sys2Proof.Machine.execGetPoisonList h s
  | .injectPoison h dpa => Sys2Proof.Machine.execInjectPoison h dpa s
  | .clearPoison h dpa data => Sys2Proof.Machine.execClearPoison h dpa data s
  | .linkTrained h rate width => Sys2Proof.Machine.execLinkTrained h rate width s
  | .linkStateChange h st => Sys2Proof.Machine.execLinkStateChange h st s
  | .bondedPortLost h => Sys2Proof.Machine.execBondedPortLost h s
  | .hdmDecoderCommit h k base size skip lock form => Sys2Proof.Machine.execHdmDecoderCommit h k base size skip lock form s
  | .hdmDecoderUncommit h k => Sys2Proof.Machine.execHdmDecoderUncommit h k s
  | .twinEnable h n value => Sys2Proof.Machine.execTwinEnable h n value s
  | .twinDisable h n value => Sys2Proof.Machine.execTwinDisable h n value s
  | .twinDisableDone n => Sys2Proof.Machine.execTwinDisableDone n s
  | .twinLock h n value => Sys2Proof.Machine.execTwinLock h n value s
  | .gpfPhase2Request h => Sys2Proof.Machine.execGpfPhase2Request h s
  | .ideKmMessage h keySet stream => Sys2Proof.Machine.execIdeKmMessage h keySet stream s
  | .doeRequest h k arg => Sys2Proof.Machine.execDoeRequest h k arg s
  | .d3hotEntry h => Sys2Proof.Machine.execD3hotEntry h s
  | .d0Return h => Sys2Proof.Machine.execD0Return h s
  | .d3coldEntry h => Sys2Proof.Machine.execD3coldEntry h s
  | .conventionalReset h => Sys2Proof.Machine.execConventionalReset h s
  | .flr h => Sys2Proof.Machine.execFlr h s
  | .cxlReset h => Sys2Proof.Machine.execCxlReset h s
  | .deviceReset h value => Sys2Proof.Machine.execDeviceReset h value s
  | .lockstepMismatch p => Sys2Proof.Machine.execLockstepMismatch p s
  | .coreMemoryUncorrectable p => Sys2Proof.Machine.execCoreMemoryUncorrectable p s
  | .watchdogPet p value => Sys2Proof.Machine.execWatchdogPet p value s
  | .watchdogExpiry p => Sys2Proof.Machine.execWatchdogExpiry p s
  | .semaphoreAcquire p n => Sys2Proof.Machine.execSemaphoreAcquire p n s
  | .semaphoreRelease p n => Sys2Proof.Machine.execSemaphoreRelease p n s
  | .icuSourceEdge src => Sys2Proof.Machine.execIcuSourceEdge src s
  | .icuPendingClear k value => Sys2Proof.Machine.execIcuPendingClear k value s
  | .icuSoftwareInterrupt value => Sys2Proof.Machine.execIcuSoftwareInterrupt value s
  | .icuEoi p value => Sys2Proof.Machine.execIcuEoi p value s
  | .icuEnableChange target value => Sys2Proof.Machine.execIcuEnableChange target value s
  | .icuCfgLock value => Sys2Proof.Machine.execIcuCfgLock value s
  | .msixMessage h vec => Sys2Proof.Machine.execMsixMessage h vec s
  | .msixUnmask h vec => Sys2Proof.Machine.execMsixUnmask h vec s
  | .railValid ch => Sys2Proof.Machine.execRailValid ch s
  | .railFault ch kind => Sys2Proof.Machine.execRailFault ch kind s
  | .railRampTimeout ch => Sys2Proof.Machine.execRailRampTimeout ch s
  | .railRetry ch => Sys2Proof.Machine.execRailRetry ch s
  | .faultNPulseEnd stillLow => Sys2Proof.Machine.execFaultNPulseEnd stillLow s
  | .marginSet h value => Sys2Proof.Machine.execMarginSet h value s
  | .marginClear h value => Sys2Proof.Machine.execMarginClear h value s
  | .inputValid vin => Sys2Proof.Machine.execInputValid vin s
  | .inputFail vin => Sys2Proof.Machine.execInputFail vin s
  | .holdupMeasureStart vhMv => Sys2Proof.Machine.execHoldupMeasureStart vhMv s
  | .holdupMeasureEnd fallNs completed => Sys2Proof.Machine.execHoldupMeasureEnd fallNs completed s
  | .armingEvaluation vhMv => Sys2Proof.Machine.execArmingEvaluation vhMv s
  | .bringupStep inp => Sys2Proof.Machine.execBringupStep inp s
  | .replayRestore parts lost => Sys2Proof.Machine.execReplayRestore parts lost s
  | .segmentPartsProgrammed ok => Sys2Proof.Machine.execSegmentPartsProgrammed ok s
  | .wakeEdge pin rising => Sys2Proof.Machine.execWakeEdge pin rising s
  | .restExit h => Sys2Proof.Machine.execRestExit h s
  | .sensorConversion k code ok => Sys2Proof.Machine.execSensorConversion k code ok s
  | .thermalRestart code => Sys2Proof.Machine.execThermalRestart code s
  | .housekeepingRound rd0 rd1 dies => Sys2Proof.Machine.execHousekeepingRound rd0 rd1 dies s
  | .aonTempRead code => Sys2Proof.Machine.execAonTempRead code s
  | .smbusArp addr => Sys2Proof.Machine.execSmbusArp addr s
  | .setEndpointId eid forceOp => Sys2Proof.Machine.execSetEndpointId eid forceOp s
  | .getMctpVersionSupport msgType => Sys2Proof.Machine.execGetMctpVersionSupport msgType s
  | .getSensor idx => Sys2Proof.Machine.execGetSensor idx s
  | .keelWriteDone page ok => Sys2Proof.Machine.execKeelWriteDone page ok s
  | .eventRecord code arg => Sys2Proof.Machine.execEventRecord code arg s
  | .counterClear h n value => Sys2Proof.Machine.execCounterClear h n value s
  | .counterSnapshot h => Sys2Proof.Machine.execCounterSnapshot h s
  | .histogramSnapshot h => Sys2Proof.Machine.execHistogramSnapshot h s
  | .histogramClear h k value => Sys2Proof.Machine.execHistogramClear h k value s
  | .selfTestSliceRun slice fault condition => Sys2Proof.Machine.execSelfTestSliceRun slice fault condition s
  | .samplePreload pins => Sys2Proof.Machine.execSamplePreload pins s
  | .bypass code => Sys2Proof.Machine.execBypass code s
  | .fxResp r t => Sys2Proof.Machine.execFxResp r t s
  | .fxHalt p => Sys2Proof.Machine.execFxHalt p s
  | .fxResume p => Sys2Proof.Machine.execFxResume p s
  | .fxStep p after => Sys2Proof.Machine.execFxStep p after s
  | .fxSetBreakpoint p k addr => Sys2Proof.Machine.execFxSetBreakpoint p k addr s
  | .fxClearBreakpoint p k => Sys2Proof.Machine.execFxClearBreakpoint p k s
  | .fxRead raw addr => Sys2Proof.Machine.execFxRead raw addr s
  | .fxWrite addr data => Sys2Proof.Machine.execFxWrite addr data s
  | .fxReadRegister p k => Sys2Proof.Machine.execFxReadRegister p k s
  | .fxWriteRegister p k data => Sys2Proof.Machine.execFxWriteRegister p k data s
  | .fxSemaphoreAcquire k => Sys2Proof.Machine.execFxSemaphoreAcquire k s
  | .fxSemaphoreRelease k => Sys2Proof.Machine.execFxSemaphoreRelease k s
  | .breakpointHit p k => Sys2Proof.Machine.execBreakpointHit p k s
  | .registerAccessError h kind off => Sys2Proof.Machine.execRegisterAccessError h kind off s
  | .registerWrite h off wide value => Sys2Proof.Machine.execRegisterWrite h off wide value s
  | .perstNDeasserted h => Sys2Proof.Machine.execPerstNDeasserted h s
  | .outboundReadCompletion h tag data st => Sys2Proof.Machine.execOutboundReadCompletion h tag data st s
  | .unsupportedM2sOpcode h tag op => Sys2Proof.Machine.execUnsupportedM2sOpcode h tag op s
  | .sramWordCorrected w => Sys2Proof.Machine.execSramWordCorrected w s
  | .unsupportedMailboxCommand h op => Sys2Proof.Machine.execUnsupportedMailboxCommand h op s
  | .ideMacFailure x => Sys2Proof.Machine.execIdeMacFailure x s
  | .unusedDStateWrite h d => Sys2Proof.Machine.execUnusedDStateWrite h d s
  | .writebackSelect => Sys2Proof.Machine.execWritebackSelect s
  | .scratchChangeDone => Sys2Proof.Machine.execScratchChangeDone s
  | .compatChangeDone => Sys2Proof.Machine.execCompatChangeDone s
  | .fastClockReturn => Sys2Proof.Machine.execFastClockReturn s
  | .tetherSave => Sys2Proof.Machine.execTetherSave s
  | .ptmRequestTimer => Sys2Proof.Machine.execPtmRequestTimer s
  | .ptmHoldover => Sys2Proof.Machine.execPtmHoldover s
  | .phaseStart => Sys2Proof.Machine.execPhaseStart s
  | .frameStart => Sys2Proof.Machine.execFrameStart s
  | .testWindowClose => Sys2Proof.Machine.execTestWindowClose s
  | .testWindowEarlyClose => Sys2Proof.Machine.execTestWindowEarlyClose s
  | .driftLedgerSave => Sys2Proof.Machine.execDriftLedgerSave s
  | .heatPeriodAdvance => Sys2Proof.Machine.execHeatPeriodAdvance s
  | .zoneTargetRecompute => Sys2Proof.Machine.execZoneTargetRecompute s
  | .wearSummarySave => Sys2Proof.Machine.execWearSummarySave s
  | .wearLevelCheck => Sys2Proof.Machine.execWearLevelCheck s
  | .floorWarnRepeat => Sys2Proof.Machine.execFloorWarnRepeat s
  | .sealDevice => Sys2Proof.Machine.execSealDevice s
  | .failoverTakeover => Sys2Proof.Machine.execFailoverTakeover s
  | .standbyPairFail => Sys2Proof.Machine.execStandbyPairFail s
  | .checkpoint => Sys2Proof.Machine.execCheckpoint s
  | .icuCommit => Sys2Proof.Machine.execIcuCommit s
  | .fuseFloorRaise => Sys2Proof.Machine.execFuseFloorRaise s
  | .sequenceStep => Sys2Proof.Machine.execSequenceStep s
  | .systemReset => Sys2Proof.Machine.execSystemReset s
  | .restartAfterOff => Sys2Proof.Machine.execRestartAfterOff s
  | .faultNNotice => Sys2Proof.Machine.execFaultNNotice s
  | .faultNFault => Sys2Proof.Machine.execFaultNFault s
  | .faultNReleased => Sys2Proof.Machine.execFaultNReleased s
  | .pwrReqAssert => Sys2Proof.Machine.execPwrReqAssert s
  | .pwrReqDeassert => Sys2Proof.Machine.execPwrReqDeassert s
  | .replayRepair => Sys2Proof.Machine.execReplayRepair s
  | .segmentRelease => Sys2Proof.Machine.execSegmentRelease s
  | .ripcordEntry => Sys2Proof.Machine.execRipcordEntry s
  | .lateArrivalWindowEnd => Sys2Proof.Machine.execLateArrivalWindowEnd s
  | .phaseScheduleSuspend => Sys2Proof.Machine.execPhaseScheduleSuspend s
  | .flushKeelWrites => Sys2Proof.Machine.execFlushKeelWrites s
  | .flushRailsDown => Sys2Proof.Machine.execFlushRailsDown s
  | .shutdownFlush => Sys2Proof.Machine.execShutdownFlush s
  | .restEntry => Sys2Proof.Machine.execRestEntry s
  | .roundEvaluate => Sys2Proof.Machine.execRoundEvaluate s
  | .getEndpointId => Sys2Proof.Machine.execGetEndpointId s
  | .getMessageTypeSupport => Sys2Proof.Machine.execGetMessageTypeSupport s
  | .getHealth => Sys2Proof.Machine.execGetHealth s
  | .getIdentity => Sys2Proof.Machine.execGetIdentity s
  | .keelWriteStart => Sys2Proof.Machine.execKeelWriteStart s
  | .lifeRecordWrite => Sys2Proof.Machine.execLifeRecordWrite s
  | .operatingSecond => Sys2Proof.Machine.execOperatingSecond s
  | .rateLimitSecondEnd => Sys2Proof.Machine.execRateLimitSecondEnd s
  | .logbookFlush => Sys2Proof.Machine.execLogbookFlush s
  | .freezeTimeout => Sys2Proof.Machine.execFreezeTimeout s
  | .unitWindow => Sys2Proof.Machine.execUnitWindow s
  | .periodicSliceQueue => Sys2Proof.Machine.execPeriodicSliceQueue s
  | .extest => Sys2Proof.Machine.execExtest s
  | .idcode => Sys2Proof.Machine.execIdcode s
  | .clamp => Sys2Proof.Machine.execClamp s
  | .highz => Sys2Proof.Machine.execHighz s
  | .fxStatus => Sys2Proof.Machine.execFxStatus s
  | .fxChal => Sys2Proof.Machine.execFxChal s
  | .fxCloseSession => Sys2Proof.Machine.execFxCloseSession s
  | .tapReset => Sys2Proof.Machine.execTapReset s
  | .aonPowerUp => Sys2Proof.Machine.execAonPowerUp s

end Sys2Proof.Machine
end

