-- ==== Sys2Proof/Machine/Step.lean ====
section
/-!
DEFINITION. One step: the command at the front of the queue takes its effect; on an empty queue 1 ns of device time
passes (log entry 1).
-/
namespace Sys2Proof.Machine

/-- Time passes with no command: two fabric cycles, or, while the fast clocks are stopped, one edge of the 32.768 kHz
clock (R98, R100). -/
def idle (s : State) : State :=
  let t := s.dev.tether
  let u := if t.slow then t.edge else (t.cycle false).cycle true
  { s with dev := (s.dev.passed (u.now - t.now) 2).reach u }

/-- Take the command at the front of the queue and run it with the queue's rest. -/
def step (s : State) : Host.Outcome State Fault Refusal :=
  match s.pending with
  | [] => .next (idle s)
  | c :: rest => exec c { s with pending := rest }

/-- The state with the command that a word spells put at the front of its queue; unchanged where it spells none. -/
def State.withFetchWord (s : State) (nbits w : Nat) : State :=
  match decodeTableWord nbits w with
  | some c => { s with pending := c :: s.pending }
  | none => s

end Sys2Proof.Machine
end

