-- ==== Sys2Proof/Safety.lean ====
section
/-!
DEFINITION. What counts as a safe step, one that answers a next state, and the parts of the device by which frames are stated:
which of them a command can change; and when a command of the interfaces may start or has ended.
-/
namespace Sys2Proof.Machine
/-- The command of a handle has ended with this status, progress and result, and its completion waits in its queue pair's outbound Spool FIFO
(R299, R300). -/
abbrev Dev.Completed (d : Dev) (h status progress : Nat) (result : List Nat) : Prop :=
  (∃ c ∈ d.lci.cmds, c.handle = h ∧ c.state = 4 ∧ c.status = status ∧ c.progress = progress ∧ c.result = result) ∧
    h ∈ (d.qp (qpOf h)).out

/-- No command of the table ends in silence (R293): none is to leave the table for the unfinished-work log at the end of this event. -/
abbrev Dev.Loud (d : Dev) : Prop := ∀ c ∈ d.lci.cmds, c.silent = false

/-- Firmware may take the command of a handle from Spool and start it at once (R296, R299, R301, R302): it is the oldest of its pair in Spool, no
field, range, head or launch rule of its SQ entry is broken, nothing holds it back, and the slots, rights and states it needs are
there. -/
structure Dev.Startable (F : Fuses) (d : Dev) (h op : Nat) (c : Cmd) : Prop where
  found : d.cmd h = some c
  ready : d.lci.ready = true
  runs : d.fwRuns = true
  spool : c.state = 0
  opcode : sqOpcode c.entry = op
  alone : c.chan = none ∧ c.slot = none ∧ c.tag = none ∧ c.data = [] ∧ c.progress = 0 ∧ c.stops = []
  oldest : ∀ x ∈ d.lci.cmds, qpOf x.handle = qpOf h → x.seq < c.seq → x.state ≠ 0
  fields : takeErr F d c.head c.entry = 0
  free : (d.mapCmd h fun y => { y with state := 1 }).heldBack { c with state := 1 } = false
  needs : startErr F (d.mapCmd h fun y => { y with state := 1 }) c.head c.entry = 0
  loud : d.Loud

/-- A head's CXL mailbox serves a command (R308): the head is in use with its link up, firmware serves mailboxes, and no earlier command of this
mailbox still waits for the Keel store. -/
abbrev Dev.MailOpen (F : Fuses) (d : Dev) (h : Head) : Prop :=
  activeHead F d h = true ∧ (d.head h).linkUp = true ∧ d.rmServed = true ∧ d.images.running ≠ 3 ∧ d.keelOwes (mailOwner h) = false

/-- The register mailbox may begin a command for a head (R307): firmware serves it and none is in progress. -/
abbrev Dev.MailboxFree (F : Fuses) (d : Dev) (h : Head) : Prop :=
  activeHead F d h = true ∧ (d.head h).linkUp = true ∧ d.rmServed = true ∧ d.keelOwes rmOwner = false ∧ d.lci.rmBusy = false ∧
    d.lci.rmBoot = false

/-- A die takes a frame as a command (R133, R137): its initialisation has ended, it is out of power-down, and it is not in echo mode, which ends
once its CE_N has been high for 1 µs. -/
abbrev Die.Listens (x : Die) (now : Nat) : Prop := x.init = false ∧ x.pd = false ∧ (x.echo = false ∨ x.ceHigh + 1000 < now)

/-- A frame to die m with further CE_N low reaches die k (R120): k is m, or another die of its channel that `others` names, and the class and the
configuration have it. -/
abbrev Addressed (F : Fuses) (d : Dev) (m : Nat) (others : BitVec 8) (k : Nat) : Prop :=
  d.populated F k = true ∧ (k = m ∨ (k / 8 = m / 8 ∧ others.getLsbD (k % 8) = true))
end Sys2Proof.Machine

namespace Sys2Proof

/-- The command runs on this state: its effect answers a next state. -/
def Completes (i : Instr) (s : Machine.State) : Prop := ∃ t, Machine.exec i s = .next t

/-- The step answers a next state. -/
def StepSafe (s : Machine.State) : Prop := ∃ t, Machine.step s = .next t

/-- The parts of the device, one for each field of `Machine.Dev`. -/
inductive Part where
  | regs | a | b | tether | launch | gpio | keel | log | aon | cores | sems | images | pmc | bst | dbg | gon | cache | media
  | tracts | drift | sec | str | lci | pwr | therm | out | fresh
  deriving DecidableEq, Repr

open Machine

/-- A part is the same in both. -/
def Part.same (d e : Dev) : Part → Prop
  | .regs => e.regs = d.regs
  | .a => e.a = d.a
  | .b => e.b = d.b
  | .tether => e.tether = d.tether
  | .launch => e.launch = d.launch
  | .gpio => e.gpio = d.gpio
  | .keel => e.keel = d.keel
  | .log => e.log = d.log
  | .aon => e.aon = d.aon
  | .cores => e.cores = d.cores
  | .sems => e.sems = d.sems
  | .images => e.images = d.images
  | .pmc => e.pmc = d.pmc
  | .bst => e.bst = d.bst
  | .dbg => e.dbg = d.dbg
  | .gon => e.gon = d.gon
  | .cache => e.cache = d.cache
  | .media => e.media = d.media
  | .tracts => e.tracts = d.tracts
  | .drift => e.drift = d.drift
  | .sec => e.sec = d.sec
  | .str => e.str = d.str
  | .lci => e.lci = d.lci
  | .pwr => e.pwr = d.pwr
  | .therm => e.therm = d.therm
  | .out => e.out = d.out
  | .fresh => e.fresh = d.fresh

/-- Between two devices only the listed parts differ. -/
structure Touches (l : List Part) (d e : Dev) : Prop where
  same : ∀ p, p ∉ l → p.same d e

/-- The parts of the device that a command can change: every other part is left alone, whatever the state. -/
def Instr.parts : Instr → List Part
  | .creditGrant _ _ => [.a, .b, .out]
  | .memrd _ _ _ => [.regs, .a, .b, .log, .aon, .pmc, .gon, .cache, .tracts, .sec, .str, .out, .fresh]
  | .memspecrd _ _ => [.regs, .a, .b, .log, .aon, .pmc, .cache, .tracts]
  | .meminv _ _ _ _ => [.regs, .a, .b, .log, .aon, .out]
  | .memwr _ _ _ _ _ => [.regs, .a, .b, .keel, .log, .aon, .pmc, .gon, .cache, .drift, .str, .out]
  | .memwrptl _ _ _ _ _ _ => [.regs, .a, .b, .keel, .log, .aon, .pmc, .gon, .cache, .drift, .str, .out]
  | .sectorTransitEnd _ => [.cache]
  | .mediaLineReturn _ _ _ => [.regs, .a, .b, .tether, .log, .aon, .pmc, .gon, .cache, .media, .tracts, .drift, .sec, .str, .out, .fresh]
  | .heavyDecodeDone _ _ => [.regs, .a, .b, .log, .aon, .pmc, .gon, .cache, .media, .tracts, .drift, .sec, .str, .out, .fresh]
  | .readRetryAfterProgram _ _ _ => [.regs, .a, .b, .log, .aon, .pmc, .gon, .cache, .media, .tracts, .drift, .sec, .str, .out, .fresh]
  | .writeBackDone _ => [.regs, .a, .b, .log, .aon, .pmc, .gon, .cache, .media, .tracts, .drift, .sec, .str, .out, .fresh]
  | .stagedEntryTranslate _ => [.regs, .pmc, .gon, .tracts]
  | .gondolaMacroFail _ _ _ => [.regs, .a, .b, .log, .aon, .pmc, .gon, .media, .tracts, .drift, .sec, .str, .pwr, .out]
  | .sramUncorrectable _ _ => [.regs, .a, .b, .keel, .log, .aon, .pmc, .gon, .cache, .media, .tracts, .drift, .sec, .str, .lci, .pwr, .out, .fresh]
  | .scratchConversionWrite _ _ => [.regs, .cache]
  | .compatEnable _ => [.regs, .log, .aon, .cache]
  | .compatDisable _ => [.regs, .cache]
  | .compatPagePin _ _ => [.cache]
  | .compatPageUnpin _ _ => [.cache]
  | .invalidationGo _ => [.cache]
  | .invalidationDone _ => [.regs, .keel, .log, .aon, .pmc, .cache, .lci]
  | .tthRateWrite _ _ => [.tether]
  | .ptmResult _ => [.regs, .a, .b, .tether, .launch]
  | .programStartGate _ _ _ _ => [.media, .out, .fresh]
  | .programOverrun _ => [.regs, .tether, .log, .aon, .pmc, .media]
  | .testWindowOpen _ _ => [.regs, .a, .b, .tether, .keel, .log, .aon, .pmc, .cache, .media, .tracts, .out]
  | .launchSlotArm _ _ _ => [.regs, .launch, .gpio, .pmc, .bst, .gon, .str, .lci, .out, .fresh]
  | .launchSlotDisarm _ _ _ => [.regs, .launch, .gpio, .pmc, .bst, .gon, .str, .lci, .out, .fresh]
  | .launchSlotFire _ => [.regs, .tether, .launch, .gpio, .keel, .log, .aon, .pmc, .bst, .gon, .media, .str, .lci, .out, .fresh]
  | .gpioPulseEnd _ => [.regs, .tether, .gpio, .pmc, .media, .out]
  | .nop _ _ => [.media, .out, .fresh]
  | .rdLine _ _ _ _ _ _ => [.media, .out, .fresh]
  | .rdLineSoft _ _ _ _ _ _ _ => [.media, .out, .fresh]
  | .rdPage _ _ _ _ _ => [.regs, .pmc, .media, .out, .fresh]
  | .rdRef _ _ _ _ _ => [.media, .out, .fresh]
  | .load _ _ _ _ _ _ _ => [.regs, .pmc, .media, .out, .fresh]
  | .progSlc _ _ _ _ => [.media, .out, .fresh]
  | .progMlc _ _ _ _ => [.media, .out, .fresh]
  | .dieProgramEnd _ _ => [.regs, .pmc, .media, .tracts, .out, .fresh]
  | .status _ _ => [.media, .out, .fresh]
  | .temp _ _ => [.media, .out, .fresh]
  | .readId _ _ => [.media, .out, .fresh]
  | .setFeature _ _ _ _ => [.media, .out, .fresh]
  | .getFeature _ _ _ => [.media, .out, .fresh]
  | .trainCa _ _ => [.media, .out, .fresh]
  | .trainRd _ _ _ => [.media, .out, .fresh]
  | .trainWr _ _ _ => [.media, .out, .fresh]
  | .zqCal _ _ => [.media, .out, .fresh]
  | .pdEnter _ _ => [.media, .out, .fresh]
  | .pdExit _ _ => [.media, .out, .fresh]
  | .reset _ _ => [.media, .out, .fresh]
  | .dieInitDone _ => [.media]
  | .alertConditionRepeat _ => [.regs, .tether, .pmc, .media, .out]
  | .alertNLow _ => [.regs, .pmc, .cache, .media, .out, .fresh]
  | .alertLongLow _ => [.media, .out, .fresh]
  | .alertStatusResponse _ _ => [.regs, .tether, .log, .aon, .media, .therm, .out, .fresh]
  | .alertStuck _ => [.regs, .a, .b, .tether, .keel, .log, .aon, .cache, .media, .tracts, .out]
  | .channelTraining _ _ => [.regs, .a, .b, .tether, .keel, .log, .aon, .cache, .media, .tracts, .out]
  | .channelTrained _ _ _ _ => [.regs, .a, .b, .tether, .keel, .log, .aon, .cache, .media, .tracts, .out, .fresh]
  | .retrainRequest _ _ => [.regs, .media]
  | .retrainTimer _ => [.regs, .tether, .pmc, .media]
  | .retrainComplete _ _ _ _ => [.regs, .tether, .pmc, .media, .fresh]
  | .rowUpdateStart _ _ _ _ => [.regs, .pmc, .media, .sec]
  | .rowUpdateDone _ _ => [.media]
  | .bridleGrant _ => [.regs, .tether, .pmc, .cache, .media, .str]
  | .bridleRankWrite _ _ _ => [.regs, .keel]
  | .dieDeclaredFailed _ _ => [.regs, .a, .b, .tether, .keel, .log, .aon, .cache, .media, .tracts, .out]
  | .channelDeclaredFailed _ _ => [.regs, .a, .b, .tether, .keel, .log, .aon, .cache, .media, .tracts, .out]
  | .faultDieReset _ => [.media, .out, .fresh]
  | .lineRepair _ => [.regs, .pmc, .media, .drift, .sec]
  | .poisonConfirmation _ _ => [.regs, .a, .b, .log, .aon, .pmc, .media, .drift, .sec, .out]
  | .surveyTract _ _ _ _ => [.tracts, .drift]
  | .thresholdRecompute _ => [.media]
  | .resurveyTract _ _ _ _ => [.tracts, .drift]
  | .refreshStart _ => [.regs, .a, .b, .keel, .log, .aon, .pmc, .media, .tracts, .drift, .sec, .out]
  | .scrubRow _ _ _ _ _ => [.regs, .a, .b, .log, .aon, .pmc, .media, .tracts, .drift, .sec, .out]
  | .metadataWriteback _ => [.tracts, .pwr]
  | .counterLineWriteback _ => [.sec]
  | .gapMove _ => [.tracts]
  | .gapMoveDone _ => [.regs, .a, .b, .pmc, .media, .tracts, .sec]
  | .migrationStart _ _ => [.regs, .a, .b, .keel, .log, .aon, .pmc, .media, .tracts, .drift, .sec, .lci, .out]
  | .migrationCopyDone _ => [.regs, .a, .b, .media, .tracts]
  | .migrationVerify _ _ _ => [.regs, .a, .b, .media, .tracts]
  | .migrationSwitch _ => [.regs, .a, .b, .keel, .log, .aon, .pmc, .media, .tracts, .drift, .sec, .lci, .out, .fresh]
  | .migrationRelease _ => [.regs, .a, .b, .tether, .keel, .log, .aon, .pmc, .media, .tracts, .drift, .sec, .lci, .out]
  | .reencryptionRewrite _ => [.regs, .a, .b, .keel, .log, .aon, .pmc, .gon, .cache, .drift, .sec, .str, .out]
  | .slotDrainComplete _ => [.regs, .a, .b, .keel, .log, .aon, .pmc, .dbg, .gon, .cache, .media, .tracts, .drift, .sec, .str, .lci, .out, .fresh]
  | .descriptorFetch _ _ _ => [.regs, .a, .b, .log, .aon, .pmc, .gon, .cache, .sec, .str, .out, .fresh]
  | .descriptorStart _ => [.regs, .pmc, .str, .out]
  | .sourceLineReturn _ _ => [.regs, .a, .b, .keel, .log, .aon, .pmc, .gon, .cache, .media, .tracts, .drift, .sec, .str, .out, .fresh]
  | .outboundWrite _ _ => [.regs, .pmc, .str, .out]
  | .confirmationComplete _ => [.regs, .pmc, .str]
  | .outboundCompletionTimeout _ _ => [.str, .out, .fresh]
  | .listEnd _ => [.regs, .keel, .log, .aon, .pmc, .str, .lci]
  | .snapshotBuildTract _ => [.tracts, .str]
  | .snapshotComplete _ => [.regs, .keel, .log, .aon, .pmc, .str, .lci]
  | .qpEnable _ _ _ => [.regs, .pmc, .bst, .sec, .str, .lci, .fresh]
  | .qpDisable _ _ _ => [.regs, .pmc, .bst, .sec, .str, .lci, .fresh]
  | .qpIdle _ => [.lci]
  | .sqDoorbell _ _ _ => [.regs, .lci]
  | .cqDoorbell _ _ _ => [.regs, .lci]
  | .sqFetch _ _ _ => [.regs, .log, .aon, .pmc, .lci]
  | .cqEntryWrite _ _ => [.regs, .log, .aon, .pmc, .str, .lci, .out]
  | .heldCommandStart _ => [.regs, .a, .b, .launch, .gpio, .keel, .log, .aon, .pmc, .bst, .gon, .cache, .media, .tracts, .drift, .sec, .str, .lci, .out, .fresh]
  | .invalidOpcode _ => [.regs, .pmc, .lci]
  | .stream _ => [.regs, .a, .b, .launch, .gpio, .keel, .log, .aon, .pmc, .bst, .gon, .cache, .media, .tracts, .drift, .sec, .str, .lci, .out, .fresh]
  | .copy _ => [.regs, .a, .b, .launch, .gpio, .keel, .log, .aon, .pmc, .bst, .gon, .cache, .media, .tracts, .drift, .sec, .str, .lci, .out, .fresh]
  | .install _ => [.regs, .a, .b, .launch, .gpio, .keel, .log, .aon, .pmc, .bst, .gon, .cache, .media, .tracts, .drift, .sec, .str, .lci, .out, .fresh]
  | .verify _ => [.regs, .a, .b, .launch, .gpio, .keel, .log, .aon, .pmc, .bst, .gon, .cache, .media, .tracts, .drift, .sec, .str, .lci, .out, .fresh]
  | .snapshot _ => [.regs, .a, .b, .launch, .gpio, .keel, .log, .aon, .pmc, .bst, .gon, .cache, .media, .tracts, .drift, .sec, .str, .lci, .out, .fresh]
  | .stop _ => [.regs, .a, .b, .launch, .gpio, .keel, .log, .aon, .pmc, .bst, .gon, .cache, .media, .tracts, .drift, .sec, .str, .lci, .out, .fresh]
  | .dictionaryRegister _ => [.regs, .a, .b, .launch, .gpio, .keel, .log, .aon, .pmc, .bst, .gon, .cache, .media, .tracts, .drift, .sec, .str, .lci, .out, .fresh]
  | .drop _ => [.regs, .a, .b, .launch, .gpio, .keel, .log, .aon, .pmc, .bst, .gon, .cache, .media, .tracts, .drift, .sec, .str, .lci, .out, .fresh]
  | .discard _ => [.regs, .a, .b, .launch, .gpio, .keel, .log, .aon, .pmc, .bst, .gon, .cache, .media, .tracts, .drift, .sec, .str, .lci, .out, .fresh]
  | .sanitize _ => [.regs, .a, .b, .launch, .gpio, .keel, .log, .aon, .pmc, .bst, .gon, .cache, .media, .tracts, .drift, .sec, .str, .lci, .out, .fresh]
  | .keyLoad _ => [.regs, .a, .b, .launch, .gpio, .keel, .log, .aon, .pmc, .bst, .gon, .cache, .media, .tracts, .drift, .sec, .str, .lci, .out, .fresh]
  | .keyEvict _ => [.regs, .a, .b, .launch, .gpio, .keel, .log, .aon, .pmc, .bst, .gon, .cache, .media, .tracts, .drift, .sec, .str, .lci, .out, .fresh]
  | .keyGenerate _ => [.regs, .a, .b, .launch, .gpio, .keel, .log, .aon, .pmc, .bst, .gon, .cache, .media, .tracts, .drift, .sec, .str, .lci, .out, .fresh]
  | .epochAdvance _ => [.regs, .a, .b, .launch, .gpio, .keel, .log, .aon, .pmc, .bst, .gon, .cache, .media, .tracts, .drift, .sec, .str, .lci, .out, .fresh]
  | .rekey _ => [.regs, .a, .b, .launch, .gpio, .keel, .log, .aon, .pmc, .bst, .gon, .cache, .media, .tracts, .drift, .sec, .str, .lci, .out, .fresh]
  | .lockAcquire _ => [.regs, .a, .b, .launch, .gpio, .keel, .log, .aon, .pmc, .bst, .gon, .cache, .media, .tracts, .drift, .sec, .str, .lci, .out, .fresh]
  | .lockRelease _ => [.regs, .a, .b, .launch, .gpio, .keel, .log, .aon, .pmc, .bst, .gon, .cache, .media, .tracts, .drift, .sec, .str, .lci, .out, .fresh]
  | .identify _ => [.regs, .a, .b, .launch, .gpio, .keel, .log, .aon, .pmc, .bst, .gon, .cache, .media, .tracts, .drift, .sec, .str, .lci, .out, .fresh]
  | .query _ => [.regs, .a, .b, .launch, .gpio, .keel, .log, .aon, .pmc, .bst, .gon, .cache, .media, .tracts, .drift, .sec, .str, .lci, .out, .fresh]
  | .selfTest _ => [.regs, .a, .b, .launch, .gpio, .keel, .log, .aon, .pmc, .bst, .gon, .cache, .media, .tracts, .drift, .sec, .str, .lci, .out, .fresh]
  | .logFreeze _ => [.regs, .a, .b, .launch, .gpio, .keel, .log, .aon, .pmc, .bst, .gon, .cache, .media, .tracts, .drift, .sec, .str, .lci, .out, .fresh]
  | .logThaw _ => [.regs, .a, .b, .launch, .gpio, .keel, .log, .aon, .pmc, .bst, .gon, .cache, .media, .tracts, .drift, .sec, .str, .lci, .out, .fresh]
  | .logRead _ _ => [.regs, .a, .b, .launch, .gpio, .keel, .log, .aon, .pmc, .bst, .gon, .cache, .media, .tracts, .drift, .sec, .str, .lci, .out, .fresh]
  | .unfinishedRead _ _ => [.regs, .a, .b, .launch, .gpio, .keel, .log, .aon, .pmc, .bst, .gon, .cache, .media, .tracts, .drift, .sec, .str, .lci, .out, .fresh]
  | .getStatus _ => [.regs, .lci]
  | .readLog _ => [.regs, .lci]
  | .readUnfinished _ => [.regs, .lci]
  | .imageWrite _ => [.regs, .images, .lci]
  | .imageSelect _ => [.regs, .keel, .lci]
  | .rmIdentify _ => [.regs, .lci]
  | .queueClear _ => [.regs, .keel, .log, .aon, .pmc, .str, .lci, .fresh]
  | .cxlIdentify _ => [.regs, .out]
  | .backgroundOperationStatus _ => [.regs, .out]
  | .getEventRecords _ _ => [.regs, .out]
  | .clearEventRecords _ _ _ _ => [.regs, .a, .b, .out]
  | .getEventInterruptPolicy _ => [.regs, .out]
  | .setEventInterruptPolicy _ _ => [.regs, .a, .b, .out]
  | .getFwInfo _ => [.regs, .out]
  | .transferFw _ _ _ _ => [.regs, .images, .lci, .out]
  | .activateFw _ _ => [.regs, .keel, .out]
  | .getTimestamp _ => [.regs, .out]
  | .setTimestamp _ _ => [.regs, .a, .b, .out]
  | .getSupportedLogs _ => [.regs, .out]
  | .getLog _ => [.regs, .out]
  | .identifyMemoryDevice _ => [.regs, .out]
  | .getPartitionInfo _ => [.regs, .out]
  | .getLsa _ _ _ => [.regs, .out]
  | .setLsa _ _ _ => [.regs, .keel, .out]
  | .getHealthInfo _ => [.regs, .out, .fresh]
  | .getAlertConfiguration _ => [.regs, .out]
  | .setAlertConfiguration _ _ => [.regs, .a, .b, .keel, .out]
  | .getShutdownState _ => [.regs, .out]
  | .setShutdownState _ _ => [.regs, .a, .b, .keel, .out]
  | .getPoisonList _ => [.regs, .out, .fresh]
  | .injectPoison _ _ => [.regs, .a, .b, .keel, .log, .aon, .pmc, .gon, .cache, .drift, .str, .out]
  | .clearPoison _ _ _ => [.regs, .a, .b, .keel, .log, .aon, .pmc, .gon, .cache, .drift, .str, .out]
  | .linkTrained _ _ _ => [.regs, .a, .b, .log, .aon, .pwr, .out]
  | .linkStateChange _ _ => [.regs, .a, .b, .keel, .log, .aon, .gon, .cache, .lci, .pwr, .out]
  | .bondedPortLost _ => [.regs, .a, .b, .log, .aon, .gon, .cache, .lci, .pwr, .out]
  | .hdmDecoderCommit _ _ _ _ _ _ _ => [.regs, .a, .b, .log, .aon]
  | .hdmDecoderUncommit _ _ => [.a, .b]
  | .twinEnable _ _ _ => [.regs, .a, .b, .log, .aon, .pmc, .gon, .cache, .tracts, .sec, .str, .lci, .out]
  | .twinDisable _ _ _ => [.regs, .a, .b, .log, .aon, .pmc, .gon, .cache, .tracts, .sec, .str, .lci, .out]
  | .twinDisableDone _ => [.regs, .a, .b, .keel, .log, .aon, .pmc, .dbg, .gon, .cache, .media, .tracts, .drift, .sec, .str, .lci, .out, .fresh]
  | .twinLock _ _ _ => [.regs, .a, .b, .log, .aon, .pmc, .gon, .cache, .tracts, .sec, .str, .lci, .out]
  | .gpfPhase2Request _ => [.gon, .out]
  | .ideKmMessage _ _ _ => [.a, .b]
  | .doeRequest _ _ _ => [.regs, .a, .b, .out]
  | .d3hotEntry _ => [.regs, .a, .b, .str, .lci, .fresh]
  | .d0Return _ => [.regs, .a, .b, .out]
  | .d3coldEntry _ => [.regs, .a, .b, .launch, .keel, .log, .aon, .pmc, .gon, .cache, .sec, .str, .lci, .fresh]
  | .conventionalReset _ => [.regs, .a, .b, .launch, .keel, .log, .aon, .pmc, .gon, .cache, .sec, .str, .lci, .fresh]
  | .flr _ => [.regs, .a, .b, .keel, .log, .aon, .pmc, .str, .lci, .fresh]
  | .cxlReset _ => [.regs, .a, .b, .launch, .keel, .log, .aon, .pmc, .cache, .sec, .str, .lci, .fresh]
  | .deviceReset _ _ => [.regs, .a, .b, .tether, .keel, .log, .aon, .cache, .media, .str, .lci, .pwr, .out, .fresh]
  | .lockstepMismatch _ => [.regs, .keel, .log, .aon, .cores, .sems, .pwr, .out]
  | .coreMemoryUncorrectable _ => [.regs, .keel, .log, .aon, .cores, .sems, .pwr, .out]
  | .watchdogPet _ _ => [.cores]
  | .watchdogExpiry _ => [.regs, .tether, .keel, .log, .aon, .cores, .sems, .pmc, .media, .pwr, .out]
  | .semaphoreAcquire _ _ => [.sems]
  | .semaphoreRelease _ _ => [.regs, .sems]
  | .icuSourceEdge _ => [.regs]
  | .icuPendingClear _ _ => [.regs]
  | .icuSoftwareInterrupt _ => [.regs]
  | .icuEoi _ _ => [.regs, .log, .aon, .cores]
  | .icuEnableChange _ _ => [.regs]
  | .icuCfgLock _ => [.regs]
  | .msixMessage _ _ => [.regs, .out]
  | .msixUnmask _ _ => [.regs, .a, .b, .out]
  | .railValid _ => [.pwr, .fresh]
  | .railFault _ _ => [.regs, .a, .b, .tether, .keel, .log, .aon, .cache, .media, .str, .lci, .pwr, .out, .fresh]
  | .railRampTimeout _ => [.regs, .a, .b, .tether, .keel, .log, .aon, .cache, .media, .str, .lci, .pwr, .out, .fresh]
  | .railRetry _ => [.regs, .tether, .pmc, .media, .pwr, .out, .fresh]
  | .faultNPulseEnd _ => [.regs, .tether, .pmc, .media, .pwr, .out]
  | .marginSet _ _ => [.regs, .tether, .pmc, .gon, .media, .pwr, .out]
  | .marginClear _ _ => [.regs, .tether, .pmc, .gon, .media, .pwr, .out]
  | .inputValid _ => [.regs, .a, .b, .tether, .launch, .gpio, .keel, .log, .cores, .sems, .images, .pmc, .bst, .dbg, .gon, .cache, .media, .tracts, .drift, .sec, .str, .lci, .pwr, .therm]
  | .inputFail _ => [.regs, .pwr, .out, .fresh]
  | .holdupMeasureStart _ => [.pwr, .out, .fresh]
  | .holdupMeasureEnd _ _ => [.regs, .tether, .pmc, .media, .pwr, .out, .fresh]
  | .armingEvaluation _ => [.regs, .a, .b, .tether, .keel, .log, .aon, .pmc, .gon, .cache, .media, .str, .lci, .pwr, .out, .fresh]
  | .bringupStep _ => [.regs, .a, .b, .tether, .gpio, .keel, .log, .aon, .cores, .images, .cache, .media, .tracts, .drift, .sec, .lci, .pwr, .out, .fresh]
  | .replayRestore _ _ => [.regs, .a, .b, .tether, .keel, .log, .aon, .gon, .media, .tracts, .sec, .str, .lci, .pwr, .out, .fresh]
  | .segmentPartsProgrammed _ => [.media, .pwr, .fresh]
  | .wakeEdge _ _ => [.regs, .a, .b, .gpio, .out]
  | .restExit _ => [.regs, .a, .b, .tether, .launch, .gpio, .keel, .log, .cores, .sems, .images, .pmc, .bst, .dbg, .gon, .cache, .media, .tracts, .drift, .sec, .str, .lci, .pwr, .therm, .out]
  | .sensorConversion _ _ _ => [.regs, .a, .b, .tether, .keel, .log, .aon, .cache, .media, .str, .lci, .pwr, .therm, .out, .fresh]
  | .thermalRestart _ => [.regs, .a, .b, .tether, .launch, .gpio, .keel, .log, .cores, .sems, .images, .pmc, .bst, .dbg, .gon, .cache, .media, .tracts, .drift, .sec, .str, .lci, .pwr, .therm]
  | .housekeepingRound _ _ _ => [.regs, .tether, .pmc, .media, .therm, .out, .fresh]
  | .aonTempRead _ => [.regs, .tether, .pmc, .media, .therm]
  | .smbusArp _ => [.therm, .out]
  | .setEndpointId _ _ => [.regs, .therm, .out]
  | .getMctpVersionSupport _ => [.regs, .out]
  | .getSensor _ => [.regs, .out]
  | .keelWriteDone _ _ => [.regs, .a, .b, .keel, .log, .aon, .pmc, .gon, .cache, .media, .tracts, .drift, .sec, .str, .lci, .out, .fresh]
  | .eventRecord _ _ => [.regs, .log, .aon]
  | .counterClear _ _ _ => [.regs, .pmc]
  | .counterSnapshot _ => [.pmc]
  | .histogramSnapshot _ => [.pmc]
  | .histogramClear _ _ _ => [.regs, .pmc]
  | .selfTestSliceRun _ _ _ => [.regs, .tether, .keel, .log, .aon, .pmc, .bst, .media, .lci, .therm]
  | .samplePreload _ => [.dbg, .out]
  | .bypass _ => [.dbg, .out]
  | .fxResp _ _ => [.regs, .a, .b, .log, .aon, .pmc, .dbg, .gon, .cache, .sec, .str, .out]
  | .fxHalt _ => [.regs, .cores, .dbg, .out]
  | .fxResume _ => [.regs, .cores, .dbg, .out]
  | .fxStep _ _ => [.regs, .cores, .dbg, .out]
  | .fxSetBreakpoint _ _ _ => [.regs, .cores, .dbg, .out]
  | .fxClearBreakpoint _ _ => [.regs, .cores, .dbg, .out]
  | .fxRead _ _ => [.regs, .sems, .dbg, .out]
  | .fxWrite _ _ => [.regs, .a, .b, .tether, .launch, .gpio, .keel, .log, .aon, .cores, .sems, .pmc, .bst, .dbg, .gon, .cache, .media, .tracts, .sec, .str, .lci, .pwr, .out, .fresh]
  | .fxReadRegister _ _ => [.regs, .dbg, .out]
  | .fxWriteRegister _ _ _ => [.regs, .cores, .dbg, .out]
  | .fxSemaphoreAcquire _ => [.regs, .sems, .dbg, .out]
  | .fxSemaphoreRelease _ => [.regs, .sems, .dbg, .out]
  | .breakpointHit _ _ => [.cores]
  | .registerAccessError _ _ _ => [.regs]
  | .registerWrite _ _ _ _ => [.regs, .a, .b, .tether, .launch, .gpio, .keel, .log, .aon, .cores, .sems, .pmc, .bst, .gon, .cache, .media, .tracts, .sec, .str, .lci, .pwr, .out, .fresh]
  | .perstNDeasserted _ => [.regs, .a, .b, .tether, .launch, .gpio, .keel, .log, .cores, .sems, .images, .pmc, .bst, .dbg, .gon, .cache, .media, .tracts, .drift, .sec, .str, .lci, .pwr, .therm, .out]
  | .outboundReadCompletion _ _ _ _ => [.regs, .keel, .log, .aon, .pmc, .gon, .cache, .media, .tracts, .drift, .sec, .str, .lci, .out, .fresh]
  | .unsupportedM2sOpcode _ _ _ => [.regs, .a, .b, .log, .aon, .out]
  | .sramWordCorrected _ => [.regs, .cache, .drift]
  | .unsupportedMailboxCommand _ _ => [.regs, .out]
  | .ideMacFailure _ => [.regs, .a, .b, .log, .aon, .gon, .cache, .lci, .pwr, .out]
  | .unusedDStateWrite _ _ => []
  | .writebackSelect => [.regs, .a, .b, .log, .aon, .pmc, .gon, .sec, .str, .out]
  | .scratchChangeDone => [.cache]
  | .compatChangeDone => [.cache]
  | .fastClockReturn => [.tether]
  | .tetherSave => [.regs, .tether, .keel, .pmc, .media]
  | .ptmRequestTimer => [.regs, .tether, .pmc, .media, .out]
  | .ptmHoldover => [.regs, .tether, .pmc, .media]
  | .phaseStart => [.regs, .tether, .pmc, .media]
  | .frameStart => [.regs, .tether, .pmc, .media]
  | .testWindowClose => [.regs, .tether, .pmc, .media]
  | .testWindowEarlyClose => [.regs, .tether, .cache, .media]
  | .driftLedgerSave => [.drift]
  | .heatPeriodAdvance => [.regs, .tether, .pmc, .media, .tracts]
  | .zoneTargetRecompute => [.regs, .a, .b, .tether, .keel, .log, .aon, .pmc, .media, .tracts, .drift, .out]
  | .wearSummarySave => [.keel]
  | .wearLevelCheck => [.tracts]
  | .floorWarnRepeat => [.regs, .a, .b, .tether, .pmc, .media, .tracts, .out]
  | .sealDevice => [.regs, .a, .b, .keel, .log, .aon, .pmc, .media, .tracts, .drift, .sec, .lci, .out]
  | .failoverTakeover => [.regs, .a, .b, .cores, .out]
  | .standbyPairFail => [.regs, .cores]
  | .checkpoint => [.regs, .cores]
  | .icuCommit => [.regs, .cores, .pmc]
  | .fuseFloorRaise => [.images]
  | .sequenceStep => [.regs, .a, .b, .tether, .launch, .gpio, .keel, .log, .aon, .cores, .sems, .images, .pmc, .bst, .dbg, .gon, .cache, .media, .tracts, .drift, .sec, .str, .lci, .pwr, .therm, .out, .fresh]
  | .systemReset => [.regs, .a, .b, .tether, .keel, .log, .aon, .cache, .media, .str, .lci, .pwr, .out, .fresh]
  | .restartAfterOff => [.regs, .a, .b, .tether, .launch, .gpio, .keel, .log, .cores, .sems, .images, .pmc, .bst, .dbg, .gon, .cache, .media, .tracts, .drift, .sec, .str, .lci, .pwr, .therm]
  | .faultNNotice => [.regs, .log, .aon, .pwr]
  | .faultNFault => [.regs, .a, .b, .tether, .keel, .log, .aon, .cache, .media, .str, .lci, .pwr, .out, .fresh]
  | .faultNReleased => [.pwr]
  | .pwrReqAssert => [.regs, .a, .b, .tether, .launch, .gpio, .keel, .log, .cores, .sems, .images, .pmc, .bst, .dbg, .gon, .cache, .media, .tracts, .drift, .sec, .str, .lci, .pwr, .therm, .out]
  | .pwrReqDeassert => [.regs, .a, .b, .tether, .keel, .log, .aon, .cache, .media, .str, .lci, .pwr, .out, .fresh]
  | .replayRepair => [.regs, .pmc, .media, .tracts, .drift, .str, .lci, .pwr]
  | .segmentRelease => [.keel, .pwr]
  | .ripcordEntry => [.regs, .a, .b, .tether, .keel, .log, .aon, .cache, .media, .str, .lci, .pwr, .out, .fresh]
  | .lateArrivalWindowEnd => [.regs, .a, .b, .tether, .pmc, .media, .pwr]
  | .phaseScheduleSuspend => [.regs, .a, .b, .tether, .pwr]
  | .flushKeelWrites => [.regs, .tether, .keel, .log, .pwr]
  | .flushRailsDown => [.regs, .a, .b, .tether, .launch, .gpio, .keel, .log, .aon, .cores, .sems, .images, .pmc, .bst, .dbg, .gon, .cache, .media, .tracts, .drift, .sec, .str, .lci, .pwr, .therm, .out, .fresh]
  | .shutdownFlush => [.keel, .drift, .pwr]
  | .restEntry => [.regs, .a, .b, .tether, .keel, .log, .aon, .cache, .media, .str, .lci, .pwr, .out, .fresh]
  | .roundEvaluate => [.regs, .a, .b, .tether, .log, .aon, .pmc, .media, .therm, .out, .fresh]
  | .getEndpointId => [.regs, .out]
  | .getMessageTypeSupport => [.regs, .out]
  | .getHealth => [.regs, .out]
  | .getIdentity => [.regs, .out]
  | .keelWriteStart => [.keel]
  | .lifeRecordWrite => [.tether, .keel]
  | .operatingSecond => [.regs, .tether, .keel, .pmc, .media]
  | .rateLimitSecondEnd => [.regs, .tether, .log, .pmc, .media]
  | .logbookFlush => [.regs, .keel, .log]
  | .freezeTimeout => [.regs, .tether, .keel, .log, .pmc, .media]
  | .unitWindow => [.regs, .tether, .pmc, .bst, .media]
  | .periodicSliceQueue => [.bst]
  | .extest => [.dbg, .out]
  | .idcode => [.dbg, .out]
  | .clamp => [.dbg, .out]
  | .highz => [.dbg, .out]
  | .fxStatus => [.dbg, .out]
  | .fxChal => [.dbg, .out, .fresh]
  | .fxCloseSession => [.regs, .cores, .sems, .dbg, .out]
  | .tapReset => [.cores, .sems, .dbg]
  | .aonPowerUp => [.regs, .a, .b, .tether, .launch, .gpio, .keel, .log, .aon, .cores, .sems, .images, .pmc, .bst, .dbg, .gon, .cache, .media, .tracts, .drift, .sec, .str, .lci, .pwr, .therm, .fresh]

/-- The outcome is a next state that differs only in the listed parts of the device: the fuses and the queue stay. -/
def Frames (l : List Part) (s : State) (o : Host.Outcome State Fault Refusal) : Prop :=
  ∃ e, o = .next { s with dev := e } ∧ Touches l s.dev e

/-- A die's cells in canonical form: its pages, and the line slots of each page. -/
structure Machine.Die.Canonical (x : Die) : Prop where
  pages : Tbl.wf {} x.pages = true
  slots : ∀ p, Tbl.wf 0 (Tbl.look {} x.pages p).slots = true

/-- No event log of a head holds more than 64 records (R49). -/
structure Machine.HeadState.Bounded (x : HeadState) : Prop where
  info : x.info.recs.length ≤ 64
  warn : x.warn.recs.length ≤ 64
  fail : x.fail.recs.length ≤ 64
  fatal : x.fatal.recs.length ≤ 64

/-- The invariant of the addressed memories and of the stores of fixed size. The register file, the Keel store (R372), the images of
the NOR (R325), the cells of every die (R125) and the scratch lines (R83) are in canonical form, so equal
contents are equal data; a cell of the Keel store is a byte; the
logbook's buffer holds at most 1,024 records (R388), the always-on domain at most 8 events (R444), each event log of a head at most 64
records (R49). -/
structure Machine.Dev.Sound (d : Dev) : Prop where
  regs : Tbl.wf none d.regs = true
  keel : Tbl.wf 0 d.keel.bytes = true
  keelByte : ∀ e ∈ d.keel.bytes, e.2 < 256
  norA : Tbl.wf 0 d.images.a = true
  norB : Tbl.wf 0 d.images.b = true
  table : Tbl.wf {} d.media.die = true
  dies : ∀ m, (d.die m).Canonical
  scratch : Tbl.wf 0 d.cache.scr = true
  log : d.log.buf.length ≤ 1024
  held : d.aon.events.length ≤ 8
  headA : d.a.Bounded
  headB : d.b.Bounded

end Sys2Proof
end

