-- ==== Sys2Proof/WellFormed.lean ====
section
/-!
DEFINITION. Which commands are well formed: the bounds of operands that their types do not carry. The meanings answer every command;
a sender sends well-formed ones.
-/
namespace Sys2Proof

/-- A LOAD carries eight 80-byte lines, or none where the burst is cut (R126). -/
def wfLoad (data : List MediaLine) : Bool := data.length == 8

/-- A row's update names each unit at most once, of at most 128 units times its positions (R148). -/
def wfUnits (lines : List (Nat × MediaLine)) : Bool := decide ((lines.map Prod.fst).Nodup)

/-- Die readings: dies of the device, 10-bit codes (R141), each die once. -/
def wfReadings (dies : List (Nat × Nat)) : Bool :=
  decide ((dies.map Prod.fst).Nodup) && dies.all fun e => decide (e.1 < 320 ∧ e.2 < 1024)

/-- Core registers after an instruction: 8-bit indices, 64-bit values (R413). -/
def wfCoreRegs (after : List (Nat × Nat)) : Bool := after.all fun e => decide (e.1 < 256 ∧ e.2 < 2 ^ 64)

/-- A mailbox transfer of at most the largest CXL message, and not empty. -/
def wfPayload (data : List Byte) : Bool := decide (0 < data.length ∧ data.length ≤ 2 ^ 20)

/-- An HDM decoder's range lies in the 64-bit host address space. -/
def wfDecoder (base size : Nat) : Bool := decide (base + size ≤ 2 ^ 64)

/-- An access error at block ICU names an offset of that block (R438). -/
def wfAccess (kind : Fin 3) (off : BitVec 20) : Bool := decide (kind.val = 2 → off.toNat / 0x10000 = 13)

/-- The command is well formed. -/
def Instr.wf : Instr → Bool
  | .load _ _ _ _ _ data _ => wfLoad data
  | .rowUpdateStart _ _ _ lines => wfUnits lines
  | .housekeepingRound _ _ dies => wfReadings dies
  | .fxStep _ after => wfCoreRegs after
  | .transferFw _ _ _ data => wfPayload data
  | .setLsa _ _ data => wfPayload data
  | .hdmDecoderCommit _ _ base size _ _ _ => wfDecoder base size
  | .registerAccessError _ kind off => wfAccess kind off
  | _ => true

end Sys2Proof
end

