-- ==== Sys2Proof/Certificates/Slice0/Obligations.lean ====
section
/-!
DEFINITION. The statements for the provers.
-/
open Sys2Proof Sys2Proof.Machine

/-- A step runs the command at the front of the queue with the queue's rest. -/
def Obligations.STEP_RUNS_COMMAND : Prop :=
  ∀ (c : Instr) (rest : List Instr) (s : State), step { s with pending := c :: rest } = exec c { s with pending := rest }

/-- A credit is granted to a head exactly by putting it out and holding its tracker entry (R45); a request of M2S is answered: MemInv by Cmp with no
other effect, an unassigned opcode by the unsupported completion (R32). Completes with a next state: creditGrant, meminv, unsupportedM2sOpcode. -/
def Obligations.HOST_LINK_ANSWERS : Prop :=
  (∀ h s, rwdFree s.fuse s.dev h = true → ∃ e, exec (.creditGrant h true) s = .next { s with dev := e } ∧
    e = (s.dev.setHead h { s.dev.head h with rwdOut := (s.dev.head h).rwdOut + 1 }).emit (.credit h true)) ∧
  (∀ h s, reqFree s.fuse s.dev h = true → ∃ e, exec (.creditGrant h false) s = .next { s with dev := e } ∧
    e = (s.dev.setHead h { s.dev.head h with reqOut := (s.dev.head h).reqOut + 1 }).emit (.credit h false)) ∧
  (∀ h rwd s, reqFree s.fuse s.dev h = false → exec (.creditGrant h rwd) s = .next s) ∧
  (∀ h tag dpa nt s, s.dev.arrives h = true → s.dev.mapped s.fuse h dpa.toNat = true →
    ∃ n e, exec (.meminv h tag dpa nt) s = .next { s with dev := e } ∧ e.out = .cmp h tag n :: s.dev.out ∧
      e.cache = s.dev.cache ∧ e.gon = s.dev.gon ∧ e.media = s.dev.media) ∧
  (∀ h tag op s, s.dev.arrives h = true →
    ∃ n e, exec (.unsupportedM2sOpcode h tag op) s = .next { s with dev := e } ∧ e.out = .unsupported h tag n :: s.dev.out)

/-- A host read of a scratch line (R28, R65), and of a line that Gondola holds whole (R63), returns the data held there, without poison, to the head
and tag that asked; one of a line recorded poisoned returns poison (R48). A request that no committed decoder maps gets the unsupported completion
(R39). Completes with a next state: memrd. -/
def Obligations.HOST_READ_RETURNS : Prop :=
  (∀ h tag dpa s i, s.dev.arrives h = true → s.dev.mapped s.fuse h dpa.toNat = true →
    placeOf s.fuse ((s.dev.useReq h).countH 0x040 h) h dpa.toNat = .scratch i →
    i ∉ s.dev.cache.scrPoison →
    ∃ n e, exec (.memrd h tag dpa) s = .next { s with dev := e } ∧
      e.out = .memData h tag (Tbl.look 0 s.dev.cache.scr i) false n :: s.dev.out) ∧
  (∀ h tag dpa s i, s.dev.arrives h = true → s.dev.mapped s.fuse h dpa.toNat = true →
    placeOf s.fuse ((s.dev.useReq h).countH 0x040 h) h dpa.toNat = .scratch i →
    i ∈ s.dev.cache.scrPoison →
    ∃ x n e, exec (.memrd h tag dpa) s = .next { s with dev := e } ∧
      e.out.head? = some (.memData h tag x true n)) ∧
  (∀ h tag dpa s g, s.dev.arrives h = true → s.dev.mapped s.fuse h dpa.toNat = true →
    placeOf s.fuse ((s.dev.useReq h).countH 0x040 h) h dpa.toNat = .persist →
    s.dev.staged (dpa.toNat / 64) = some g → g.poison = false → g.mask = fullMask →
    ∃ n e, exec (.memrd h tag dpa) s = .next { s with dev := e } ∧ e.out = .memData h tag g.data false n :: s.dev.out) ∧
  (∀ h tag dpa s, s.dev.arrives h = true → s.dev.mapped s.fuse h dpa.toNat = false →
    ∃ n e, exec (.memrd h tag dpa) s = .next { s with dev := e } ∧ e.out = .unsupported h tag n :: s.dev.out)

/-- A whole-line host write that is accepted into armed Gondola is staged with its data and completed at once (R70, R73); one to a scratch line is
applied at once (R28, R65). Completes with a next state: memwr, memwrptl. -/
def Obligations.HOST_WRITE_TAKES_EFFECT : Prop :=
  (∀ h tag dpa data s, s.dev.arrivesW h = true → s.dev.mapped s.fuse h dpa.toNat = true →
    let d := (s.dev.useRwd h).countH 0x041 h
    placeOf s.fuse d h dpa.toNat = .persist →
    d.readOnly (windowAt s.fuse d h dpa.toNat) dpa.toNat = false →
    (∀ w ∈ windowAt s.fuse d h dpa.toNat, w.wt = false) →
    s.dev.tracts.sealed = false → s.dev.gon.armed = true →
    (∀ g ∈ s.dev.staged (dpa.toNat / 64), g.state = .staged ∧ g.preLaunch = none) →
    ∃ g n e, exec (.memwr h tag dpa data false) s = .next { s with dev := e } ∧
      e.staged (dpa.toNat / 64) = some g ∧ g.poison = false ∧ g.mask = fullMask ∧ g.data = data ∧
      e.out.head? = some (.cmp h tag n)) ∧
  (∀ h tag dpa data be s i, s.dev.arrivesW h = true → s.dev.mapped s.fuse h dpa.toNat = true →
    placeOf s.fuse ((s.dev.useRwd h).countH 0x041 h) h dpa.toNat = .scratch i →
    i ∉ s.dev.cache.scrPoison →
    ∃ n e, exec (.memwrptl h tag dpa data be false) s = .next { s with dev := e } ∧
      Tbl.look 0 e.cache.scr i = overlay (Tbl.look 0 s.dev.cache.scr i) data be ∧
      (∀ j, j ≠ i → Tbl.look 0 e.cache.scr j = Tbl.look 0 s.dev.cache.scr j) ∧
      e.out = .cmp h tag n :: s.dev.out) ∧
  (∀ h tag dpa data be poison s, s.dev.arrivesW h = true → s.dev.mapped s.fuse h dpa.toNat = false →
    ∃ n e, exec (.memwrptl h tag dpa data be poison) s = .next { s with dev := e } ∧ e.out = .unsupported h tag n :: s.dev.out ∧
      e.gon = s.dev.gon ∧ e.cache = s.dev.cache)

/-- A read by a host returns the data of the last whole-line write that Gondola holds (R63, R65): whatever the write left, a read of that line that
arrives next answers with the data written. -/
def Obligations.READ_RETURNS_LAST_WRITE : Prop :=
  ∀ h tag tag' dpa data s t, exec (.memwr h tag dpa data false) s = .next t → s.dev.arrivesW h = true → s.dev.mapped s.fuse h dpa.toNat = true →
    let d := (s.dev.useRwd h).countH 0x041 h
    placeOf s.fuse d h dpa.toNat = .persist →
    d.readOnly (windowAt s.fuse d h dpa.toNat) dpa.toNat = false →
    (∀ w ∈ windowAt s.fuse d h dpa.toNat, w.wt = false) →
    s.dev.tracts.sealed = false → s.dev.gon.armed = true →
    (∀ g ∈ s.dev.staged (dpa.toNat / 64), g.state = .staged ∧ g.preLaunch = none) →
    t.dev.arrives h = true → t.dev.mapped t.fuse h dpa.toNat = true →
    placeOf t.fuse ((t.dev.useReq h).countH 0x040 h) h dpa.toNat = .persist →
    ∃ n u, exec (.memrd h tag' dpa) t = .next u ∧ u.dev.out = .memData h tag' data false n :: t.dev.out

/-- A speculative read puts nothing out and, where its line must come from media, starts or joins a fetch that fills the cache (R32, R81). A media
return within the fast decoder's reach, the heavy decoder's success on a home in service and a retry each end the waiting fetch with the stored line
(R171, R173, R174); a heavy result beyond 2e + f ≤ 10 is none (R171). Completes with a next state: memspecrd, mediaLineReturn, heavyDecodeDone,
readRetryAfterProgram. -/
def Obligations.LINE_FETCH_PROGRESS : Prop :=
  (∀ h dpa s, s.dev.arrives h = true →
    let d := (s.dev.useReq h).countH 0x042 h
    d.mapped s.fuse h dpa.toNat = true → placeOf s.fuse d h dpa.toNat = .persist → d.pwr.svc = .full → d.drogue = false →
    d.degraded (dpa.toNat / 64) = false → d.rbit LIN_CACHE_CFG 2 = true → d.staged (dpa.toNat / 64) = none →
    d.wbSeen (dpa.toNat / 64) = none → d.cleanLine (dpa.toNat / 64) = none → d.below (dpa.toNat / 64) = .fetch →
    ∃ e, exec (.memspecrd h dpa) s = .next { s with dev := e } ∧ e.out = s.dev.out ∧
      ∃ f ∈ e.cache.fetches, f.line = dpa.toNat / 64 ∧ f.fill = true ∧ Waiter.spec h ∈ f.waiters) ∧
  (∀ (dpa : Dpa) v unk s f m,
    s.dev.cache.fetches.find? (fun f => f.line == dpa.toNat / 64 && !f.fallback && !f.retry) = some f →
    (if f.stale then s.dev.belowMedia (dpa.toNat / 64) else s.dev.below (dpa.toNat / 64)) = .fetch →
    s.dev.driftClass (s.dev.ent (dpa.toNat / 64 / 16384)).group (s.dev.ent (dpa.toNat / 64 / 16384)).index ≠ 15 → fastOk v = true →
    s.dev.readLoc (s.dev.lineLoc (dpa.toNat / 64)) (if f.around then .bad else v) unk.toNat = .direct m →
    exec (.mediaLineReturn dpa v unk) s =
      .next { s with dev := openFetch s.fuse (s.dev.quadCount (s.dev.lineLoc (dpa.toNat / 64)) 0) f 2 m }) ∧
  (∀ (dpa : Dpa) (n : Fin 11) (bytes : List (Fin 80)) s f l home er d, s.dev.cache.fetches.find? (fun f => f.line == dpa.toNat / 64 && f.fallback) = some f →
    l = s.dev.lineLoc (dpa.toNat / 64) → home = s.dev.dataPos l l.idx → s.dev.posOut l.g home = false →
    er = s.dev.erasures (dieOf l.g home) l.pa → n.val ≤ er + (10 - er) / 2 →
    d = ((((s.dev.mapFetch f fun _ => { f with fallback := false }).quadCount l 8).bump MCH_DEC_HEAVY_CNT).resurveyAdd (dpa.toNat / 64)).weakMatch
      (dieOf l.g home) l.pa (bytes.map (·.val)) →
    exec (.heavyDecodeDone dpa ⟨.good n, bytes⟩) s =
      .next { s with dev := openFetch s.fuse (postAt s.fuse d .info .erasures (dpa.toNat / 64 * 64)) { f with fallback := false } 2
                              (s.dev.stored l home) }) ∧
  (∀ (dpa : Dpa) (n : Fin 11) (bytes : List (Fin 80)) s f l home er, s.dev.cache.fetches.find? (fun f => f.line == dpa.toNat / 64 && f.fallback) = some f →
    l = s.dev.lineLoc (dpa.toNat / 64) → home = s.dev.dataPos l l.idx → s.dev.posOut l.g home = false →
    er = s.dev.erasures (dieOf l.g home) l.pa → er + (10 - er) / 2 < n.val → exec (.heavyDecodeDone dpa ⟨.good n, bytes⟩) s = .next s) ∧
  (∀ (dpa : Dpa) v unk s f m,
    s.dev.cache.fetches.find? (fun f => f.line == dpa.toNat / 64 && f.retry) = some f → fastOk v = true →
    s.dev.readLoc (s.dev.lineLoc (dpa.toNat / 64)) (if f.code ∨ f.around then .bad else v) unk.toNat = .direct m →
    exec (.readRetryAfterProgram dpa v unk) s =
      .next { s with dev := openFetch s.fuse (s.dev.transient (s.dev.lineLoc (dpa.toNat / 64))) f 2 m })

/-- When a fetch ends with data, every host that waits on it receives a response with the fetched data under the bytes its staged entry held, and no
poison (R71, R81). -/
def Obligations.FETCH_END_ANSWERS_HOSTS : Prop :=
  ∀ (F : Fuses) (d : Dev) (f : Fetch) (src : Nat) (x : LineData), ∀ h tag t data mask, Waiter.host h tag t data mask ∈ f.waiters →
    ∃ n, Out.memData h tag (overlay x data mask) false n ∈ (endFetch F d f src (.data x)).out

/-- Gondola's events (R69, R73, R75, R225) and the line engine's store events (R90, R194): a selected whole entry becomes its line's write-back
entry; a staged entry is marked as translated, and an event for a line with none changes nothing; a failed macro joins its bank's list and is
reported, and a macro known to have failed is reported no more; a sector in transit reaches Ballast where it has a valid line; a corrected word is
counted; an uncorrectable word of any store is recorded. Completes with a next state: writebackSelect, stagedEntryTranslate, gondolaMacroFail,
sectorTransitEnd, sramWordCorrected, sramUncorrectable. -/
def Obligations.GONDOLA_EVENTS : Prop :=
  (∀ s l g, s.dev.pwr.svc ≠ .flush → s.dev.raisedNow = true →
    (s.dev.stagedList.filter s.dev.selectable).filter (fun e => e.2.preLaunch.isSome) = [] →
    oldest (s.dev.stagedList.filter s.dev.selectable) = some (l, g) →
    (s.dev.stagedList.filter s.dev.selectable).filter (fun e => e.1 != l && s.dev.samePage e.1 l) = [] →
    s.dev.staged l = some g → s.dev.wbEnt l = none → g.mask = fullMask →
    ∃ e, exec .writebackSelect s = .next { s with dev := e } ∧ e.staged l = none ∧
      e.wbEnt l = some { g with state := .writeback, raised := true } ∧
      (∀ k, k ≠ l → e.staged k = s.dev.staged k ∧ e.wbEnt k = s.dev.wbEnt k)) ∧
  (∀ (dpa : Dpa) s, ∃ e, exec (.stagedEntryTranslate dpa) s = .next { s with dev := e } ∧
      e.staged (dpa.toNat / 64) = (s.dev.staged (dpa.toNat / 64)).map (fun g => { g with translated := true }) ∧ e.cache = s.dev.cache ∧
      ∀ k, k ≠ dpa.toNat / 64 → e.staged k = s.dev.staged k) ∧
  (∀ bank m lost s, m.val ∉ Tbl.look [] s.dev.gon.macros bank.val →
    ∃ e, exec (.gondolaMacroFail bank m lost) s = .next { s with dev := e } ∧
      Tbl.look [] e.gon.macros bank.val = Tbl.look [] s.dev.gon.macros bank.val ++ [m.val] ∧
      (Tbl.look [] s.dev.gon.macros bank.val = [] → e.gon.staged = s.dev.gon.staged ∧ e.gon.wb = s.dev.gon.wb ∧
        e.drift.onCorr = satAdd s.dev.drift.onCorr 1 0xFF)) ∧
  (∀ bank m lost s, m.val ∈ Tbl.look [] s.dev.gon.macros bank.val →
    exec (.gondolaMacroFail bank m lost) s = .next { s with dev := s.dev.gpfSettle }) ∧
  (∀ (dpa : Dpa) s x, s.dev.cache.transit.find? (fun x => x.num == dpa.toNat / 4096) = some x → s.dev.cache.transit.length ≤ 128 →
    s.dev.cache.ballast.length ≤ 128 →
    ∃ e, exec (.sectorTransitEnd dpa) s = .next { s with dev := e } ∧ (x.valid ≠ 0 → e.cache.ballast.head? = some x) ∧
      (x.valid = 0 → e.cache.ballast = s.dev.cache.ballast) ∧ e.cache.ballast.length ≤ 128 ∧
      e.cache.transit = s.dev.cache.transit.filter (fun y => y.num != dpa.toNat / 4096)) ∧
  (∀ (dpa : Dpa) s, s.dev.cache.transit.find? (fun x => x.num == dpa.toNat / 4096) = none →
    exec (.sectorTransitEnd dpa) s = .next s) ∧
  (∀ st s, exec (.sramWordCorrected ⟨st, none⟩) s = .next { s with dev := s.dev.bump GLB_SRAM_CE_CNT }) ∧
  (∀ st (w : Fin 12) s, w.val ∉ s.dev.cache.badWays →
    ∃ e, exec (.sramWordCorrected ⟨st, some w⟩) s = .next { s with dev := e } ∧ e.cache.badWays = s.dev.cache.badWays ++ [w.val] ∧
      (∀ set, (e.way set w.val).used = false) ∧ e.cache.ballast = s.dev.cache.ballast) ∧
  ((∀ (dpa : Dpa) s, volBase ≤ dpa.toNat → ∃ e, exec (.sramUncorrectable .cache dpa) s = .next { s with dev := e } ∧
      (dpa.toNat - volBase) / 64 ∈ e.cache.scrPoison ∧ e.cache.scrOrigin ((dpa.toNat - volBase) / 64) = 11) ∧
    (∀ st (dpa : Dpa) s, st ≠ .other → st ≠ .gondola → ∃ e, exec (.sramUncorrectable st dpa) s = .next { s with dev := e } ∧
      e.drift.sramUe = true) ∧
    (∀ st (dpa : Dpa) s, st = .other ∨ st = .gondola →
      (s.dev.cache.fetches.find? fun f => f.line == dpa.toNat / 64) = none → s.dev.staged (dpa.toNat / 64) = none →
      s.dev.wbEnt (dpa.toNat / 64) = none → ∃ e, exec (.sramUncorrectable st dpa) s = .next { s with dev := e } ∧ e.drift.sramUe = true))

/-- A write-back whose program has finished (R76) stores the line under its home and frees the entry: while a migration's last steps, a gap move of
the line or an unreturned fetch of its older value hold it, or its row has an open-row entry, its quadrant's table is full or its group is lost, it
waits (R25, R66, R148, R149, R207, R211); an entry that was discarded is only freed (R222); a whole unpoisoned line of a tract with an unshared home
in service is sealed under its key and stored. Completes with a next state: writeBackDone. -/
def Obligations.WRITE_BACK_COMPLETES : Prop :=
  (∀ (dpa : Dpa) s g, s.dev.wbEnt (dpa.toNat / 64) = some g → g.gone = true →
    exec (.writeBackDone dpa) s = .next { s with dev := (freeWb s.fuse s.dev (dpa.toNat / 64) g).gpfSettle }) ∧
  (∀ (dpa : Dpa) s g, s.dev.wbEnt (dpa.toNat / 64) = some g → g.gone = false → s.dev.wbHeld (dpa.toNat / 64) = true →
    exec (.writeBackDone dpa) s = .next { s with dev := s.dev.gpfSettle }) ∧
  (∀ (dpa : Dpa) s g, s.dev.wbEnt (dpa.toNat / 64) = some g → g.gone = false → s.dev.wbRoom (dpa.toNat / 64) = false →
    exec (.writeBackDone dpa) s = .next { s with dev := s.dev.gpfSettle }) ∧
  (∀ (dpa : Dpa) s (g : GEntry) m d2,
    s.dev.sealLine s.fuse (s.dev.wbKey g.key (dpa.toNat / 64 * 64)) g.base (dpa.toNat / 64) g.data = some (m, d2) →
    s.dev.wbEnt (dpa.toNat / 64) = some g → g.gone = false → s.dev.wbHeld (dpa.toNat / 64) = false →
    s.dev.wbRoom (dpa.toNat / 64) = true → s.dev.snapHolds (dpa.toNat / 64 / 16384) = false → g.mask = fullMask → g.poison = false → g.reenc = false →
    (s.dev.ent (dpa.toNat / 64 / 16384)).kind ∈ [1, 2] → (s.dev.ent (dpa.toNat / 64 / 16384)).shr = false →
    s.dev.mixed (dpa.toNat / 64 / 16384) = false →
    exec (.writeBackDone dpa) s =
      .next { s with dev := ((finishWb s.fuse d2 (dpa.toNat / 64) g m).toImage g.preLaunch (dpa.toNat / 64)).gpfSettle })

/-- Scratch ways (R84): a write of LIN_SCR_CTL while no change is in progress starts one, and its end makes the requested mapping the one in force.
While a change is in progress a write has no effect. Completes with a next state: scratchConversionWrite, scratchChangeDone. -/
def Obligations.SCRATCH_CHANGE : Prop :=
  (∀ h (v : Reg32) s, s.dev.cache.scrBusy = false → ∃ e, exec (.scratchConversionWrite h v) s = .next { s with dev := e } ∧
    e.cache.scrBusy = true ∧ (e.reg LIN_SCR_CTL).toNat = bits v.toNat 2 0 + 16 * bits v.toNat 6 4 ∧
    (∀ off, off ≠ LIN_SCR_CTL → e.reg off = s.dev.reg off) ∧ e.cache.scrAct = s.dev.cache.scrAct) ∧
  (∀ h v s, s.dev.cache.scrBusy = true → exec (.scratchConversionWrite h v) s = .next s) ∧
  (∀ s, s.dev.cache.scrBusy = true → ∃ e, exec .scratchChangeDone s = .next { s with dev := e } ∧
    e.cache.scrBusy = false ∧ e.cache.scrAct = s.dev.fld LIN_SCR_CTL 2 0 ∧ e.cache.scrHeadB = s.dev.fld LIN_SCR_CTL 6 4 ∧
    e.cache.scrChgA = false ∧ e.cache.scrChgB = false ∧ e.cache.scr = s.dev.cache.scr ∧ e.regs = s.dev.regs)

/-- Compatibility mode and invalidation (R86, R88, R92): the enable and the disable each start a change, and its end puts the requested mode in
force with an empty buffer; pages are pinned and unpinned; a host's invalidation reads busy until it is done, and afterwards no Ballast or transit
sector holds a valid line of the range of whole sectors it named. Completes with a next state: compatEnable, compatDisable, compatChangeDone,
compatPagePin, compatPageUnpin, invalidationGo, invalidationDone. -/
def Obligations.COMPATIBILITY_AND_INVALIDATION : Prop :=
  ((∀ h s, portMode s.fuse s.dev ≠ .dualHead → s.dev.cache.compatBusy = false → s.dev.rbit LIN_CACHE_CFG 0 = false →
      ∃ e, exec (.compatEnable h) s = .next { s with dev := e } ∧ e.cache.compatBusy = true ∧ e.cache.cmp = [] ∧
        e.rbit LIN_CACHE_CFG 0 = true ∧ e.gon = s.dev.gon) ∧
    (∀ h s, portMode s.fuse s.dev = .dualHead → ∃ e, exec (.compatEnable h) s = .next { s with dev := e } ∧ e.cache = s.dev.cache ∧
        e.gon = s.dev.gon) ∧
    (∀ h s, s.dev.cache.compatBusy = false → s.dev.rbit LIN_CACHE_CFG 0 = true →
      ∃ e, exec (.compatDisable h) s = .next { s with dev := e } ∧ e.cache.compatBusy = true ∧ e.cache.cmp = [] ∧
        e.rbit LIN_CACHE_CFG 0 = false) ∧
    (∀ s, s.dev.cache.compatBusy = true → ∃ e, exec .compatChangeDone s = .next { s with dev := e } ∧
        e.cache.compatBusy = false ∧ e.cache.compatAct = s.dev.rbit LIN_CACHE_CFG 0 ∧ e.cache.cmp = [] ∧ e.regs = s.dev.regs) ∧
    (∀ h n s, s.dev.cache.compatAct = true → (s.dev.cmpEnt n.val).used = true → s.dev.pinned < 40 →
      ∃ e, exec (.compatPagePin h n) s = .next { s with dev := e } ∧ (e.cmpEnt n.val).pin = true ∧
        ∀ k, k ≠ n.val → e.cmpEnt k = s.dev.cmpEnt k) ∧
    (∀ h n s, s.dev.cache.compatAct = true → (s.dev.cmpEnt n.val).used = true →
      ∃ e, exec (.compatPageUnpin h n) s = .next { s with dev := e } ∧ (e.cmpEnt n.val).pin = false ∧
        ∀ k, k ≠ n.val → e.cmpEnt k = s.dev.cmpEnt k)) ∧
  ((∀ h s, s.dev.cache.invBusy = false → s.dev.reg LIN_INV_LEN ≠ 0 →
      let lo := s.dev.reg64 LIN_INV_BASE_LO % 2 ^ 44 / 4096
      ∃ e, exec (.invalidationGo h) s = .next { s with dev := e } ∧ e.cache.invBusy = true ∧ InvRef.host ∈ e.cache.invOpen ∧
        (∀ x ∈ e.cache.ballast ++ e.cache.transit, lo ≤ x.num → x.num < lo + (s.dev.reg LIN_INV_LEN).toNat → x.valid = 0) ∧
        e.gon = s.dev.gon) ∧
    (∀ s, s.dev.cache.invOpen = [.host] → (∀ c ∈ s.dev.lci.cmds, c.silent = false) →
      ∃ e, exec (.invalidationDone .host) s = .next { s with dev := e } ∧ e.cache.invBusy = false ∧ e.cache.invOpen = [] ∧ e.lci = s.dev.lci))

/-- Tether's registers and sources (R98, R100 to R103): the rate, the handover from the slow clock, the save, and PTM. Completes with a next state:
tthRateWrite, fastClockReturn, tetherSave, ptmRequestTimer, ptmResult, ptmHoldover. -/
def Obligations.TETHER_SOURCES : Prop :=
  (∀ h (v : Reg32) s, s.dev.rbit TTH_PTM_CFG 0 = false → -2147484 ≤ v.toInt → v.toInt ≤ 2147484 →
    exec (.tthRateWrite h v) s = .next { s with dev := { s.dev with tether := { s.dev.tether with rate := v.toInt } } }) ∧
  (∀ h v s, s.dev.rbit TTH_PTM_CFG 0 = true → exec (.tthRateWrite h v) s = .next s) ∧
  (∀ s, s.dev.tether.slow = true → ∃ e, exec .fastClockReturn s = .next { s with dev := e } ∧ e.tether.slow = false ∧ e.tether.acc64 = 0 ∧
    e.tether.now = min (s.dev.tether.now + 30517 + (s.dev.tether.acc64 + 37) / 64) (2 ^ 64 - 1) ∧
    e.tether.acc = (s.dev.tether.acc64 + 37) % 64 * 2 ^ 26) ∧
  (∀ s, s.dev.inService = true → ∃ e, exec .tetherSave s = .next { s with dev := e } ∧
    e.tether.now = min (max s.dev.tether.now (s.dev.tether.lastSave + 60000000000)) (2 ^ 64 - 1) ∧
    e.tether.lastSave = e.tether.now ∧ e.keel.tetherSaved = e.tether.now ∧
    e.keel.waiting.length = s.dev.keel.waiting.length + 1) ∧
  (∀ s, s.dev.tether.slow = false → s.dev.rbit TTH_PTM_CFG 0 = true → s.dev.ptmUp = true →
    ∃ e, exec .ptmRequestTimer s = .next { s with dev := e } ∧ e.out = .ptmRequest s.dev.ptmHead :: s.dev.out ∧
      e.tether.ptmReq = e.tether.now) ∧
  (∀ v s, s.dev.tether.slow = false → s.dev.rbit TTH_PTM_CFG 0 = true → s.dev.ptmUp = true →
    ∃ e, exec (.ptmResult v) s = .next { s with dev := e } ∧ e.tether.offset = (v.toNat : Int) - s.dev.tether.now ∧
      e.tether.now = s.dev.tether.now ∧
      (s.dev.tether.src ≠ .free → s.dev.tether.lastPtm < s.dev.tether.now → -2147484 ≤ e.tether.rate ∧ e.tether.rate ≤ 2147484) ∧
      (s.dev.tether.src = .free → e.tether.rate = s.dev.tether.rate) ∧
      (s.dev.tether.src = .free ∨ s.dev.tether.src = .holdover → e.tether.src = .acquiring)) ∧
  (∀ s, s.dev.tether.src = .acquiring ∨ s.dev.tether.src = .locked →
    ∃ e, exec .ptmHoldover s = .next { s with dev := e } ∧ e.tether.src = .holdover ∧ e.tether.rate = s.dev.tether.rate ∧
      e.tether.offset = s.dev.tether.offset)

/-- The schedule and the test windows (R104 to R106, R108 to R110): a phase and a frame begin at the multiple of 2,000 ns and 10,000 ns of Tether at
which they are due: the present time, where it is one that no such event has dealt with, else the next. A frame has the duty that was set before it;
a program starts where the gate and the shares admit it, and one that overruns its phase is counted; a window opens at the millisecond at which it
is due on the next channel that qualifies, for 20,000 ns, and closes at its end, or early. Completes with a next state: phaseStart, frameStart,
programStartGate, programOverrun, testWindowOpen, testWindowClose, testWindowEarlyClose. -/
def Obligations.SCHEDULE_AND_TEST_WINDOWS : Prop :=
  ((∀ s, s.dev.tether.now + 2000 < 2 ^ 64 → ∃ e, exec .phaseStart s = .next { s with dev := e } ∧
      e.tether.now % 2000 = 0 ∧ s.dev.tether.now ≤ e.tether.now ∧ e.tether.now ≤ s.dev.tether.now + 2000 ∧
      Tbl.look 0 e.tether.ticks 1 = e.tether.now / 2000 + 1 ∧
      (s.dev.tether.now % 2000 = 0 → Tbl.look 0 s.dev.tether.ticks 1 ≤ s.dev.tether.now / 2000 → e.tether.now = s.dev.tether.now) ∧
      (s.dev.tether.now / 2000 < Tbl.look 0 s.dev.tether.ticks 1 → e.tether.now = (s.dev.tether.now / 2000 + 1) * 2000) ∧
      e.media.die = s.dev.media.die ∧ e.out = s.dev.out) ∧
    (∀ s, s.dev.tether.now + 10000 < 2 ^ 64 → ∃ e, exec .frameStart s = .next { s with dev := e } ∧
      e.tether.now = dueMultiple s.dev.tether.now 10000 s.dev.tether.frameDone ∧ e.tether.frameDone = e.tether.now / 10000 + 1 ∧
      (s.dev.tether.now < e.tether.now → e.tether.duty = s.dev.tether.dutyNext) ∧
      (e.tether.now = s.dev.tether.now → e.tether.duty = s.dev.tether.duty) ∧ e.media.die = s.dev.media.die ∧ e.out = s.dev.out) ∧
    (∀ (m : DieId) mode buf (last : Fin 16) sent t s, sent = max s.dev.tether.now (s.dev.chan (m.val / 8)).caUntil + 4 →
      t = (s.dev.die m.val).running.elim sent (fun p => max sent (p.start + tProg p.mode)) →
      (s.dev.populated s.fuse m.val = true → s.dev.gate m.val t (tProg mode) = true → s.dev.sharesAdmit m.val buf = true →
        ∃ e, exec (.programStartGate m mode buf last) s = .next { s with dev := e } ∧
          e = (s.dev.sharesCount m.val buf).sendFrame { m := m.val, payload := payProg mode buf last.val } 0) ∧
      (s.dev.populated s.fuse m.val = false ∨ s.dev.gate m.val t (tProg mode) = false ∨ s.dev.sharesAdmit m.val buf = false →
        exec (.programStartGate m mode buf last) s = .next s)) ∧
    (∀ m s p, (s.dev.die m.val).running = some p → s.dev.tether.schedule = true →
      ∃ e, exec (.programOverrun m) s = .next { s with dev := e } ∧ (e.ctl m.val).overruns.head? = some e.tether.now ∧
        e.tether.now = min (max s.dev.tether.now ((p.start / 2000 + 1) * 2000)) (2 ^ 64 - 1) ∧ e.media.die = s.dev.media.die)) ∧
  ((∀ die s n,
      let da := s.dev.advance (dueMultiple s.dev.tether.now 1000000 s.dev.tether.winDone)
      let d := { da with tether := { da.tether with winDone := da.tether.now / 1000000 + 1 } }
      s.dev.inService = true → d.rbit TTH_TWIN_CFG 0 = true → s.dev.tether.twOpen = false → d.windowNext s.fuse = some n →
      ∃ e, exec (.testWindowOpen false die) s = .next { s with dev := e } ∧ e.tether.twOpen = true ∧ e.tether.twChan = n ∧
        e.tether.twIntr = false ∧ e.tether.twEnd = d.tether.now + 20000 ∧ e.tether.twCount = (s.dev.tether.twCount + 1) % 65536) ∧
    (∀ s, s.dev.tether.twOpen = true → ∃ e, exec .testWindowClose s = .next { s with dev := e } ∧ e.tether.twOpen = false ∧
      e.tether.now = min (max s.dev.tether.now s.dev.tether.twEnd) (2 ^ 64 - 1)) ∧
    (∀ s, s.dev.tether.twOpen = true → ∃ e, exec .testWindowEarlyClose s = .next { s with dev := e } ∧ e.tether.twOpen = false ∧
      e.tether.twIntr = true ∧ e.tether.now = s.dev.tether.now) ∧
    (∀ s, s.dev.tether.twOpen = false → exec .testWindowClose s = .next s ∧ exec .testWindowEarlyClose s = .next s))

/-- Time passes with no command (R98, R100): with TTH_RATE 0 an idle step advances Tether by exactly one nanosecond, and it never moves back; while
the fast clocks are stopped it advances by 30,517 37/64 ns. The model's choice: one idle step is two fabric cycles or one edge of the slow clock
(log entry 1). -/
def Obligations.IDLE_STEP_TIME : Prop :=
  (∀ s, s.pending = [] → s.dev.tether.slow = false → s.dev.tether.rate = 0 → s.dev.tether.acc < 2 ^ 32 → s.dev.tether.now < 2 ^ 64 - 1 →
    ∃ e, step s = .next { s with dev := e } ∧ e.tether.now = s.dev.tether.now + 1 ∧ e.tether.acc = s.dev.tether.acc) ∧
  (∀ s, s.pending = [] → s.dev.tether.slow = true → s.dev.tether.acc64 < 64 → s.dev.tether.now + 30518 < 2 ^ 64 →
    ∃ e, step s = .next { s with dev := e } ∧
      64 * e.tether.now + e.tether.acc64 = 64 * s.dev.tether.now + s.dev.tether.acc64 + 64 * 30517 + 37 ∧ e.regs = s.dev.regs) ∧
  (∀ s, s.pending = [] → s.dev.tether.now < 2 ^ 64 → ∃ e, step s = .next { s with dev := e } ∧ s.dev.tether.now ≤ e.tether.now ∧
      e.tether.now < 2 ^ 64)

/-- Launch slots (R111 to R115): arming a slot that is at least 100 ns ahead in Tether time leaves it armed with its due time; disarming it before
that leaves it idle; a slot that comes due, none of a lower number being due with it, fires at its due time, and not late; a pulse on a pin ends.
Completes with a next state: launchSlotArm, launchSlotDisarm, launchSlotFire, gpioPulseEnd. -/
def Obligations.LAUNCH_SLOT_EVENTS : Prop :=
  (∀ h (n : Fin 64) (v : Reg32) s, s.dev.live = true → slotWriter s.fuse s.dev h n.val = true → bit v.toNat 31 = true →
    bit v.toNat 30 = false → s.dev.rbit (TTH_LAUNCH_ACT n.val) 31 = false →
    s.dev.tether.now + 100 ≤ s.dev.reg64 (TTH_LAUNCH_TIME_LO n.val) →
    ∃ e, exec (.launchSlotArm h n v) s = .next { s with dev := e } ∧ e.rbit (TTH_LAUNCH_ACT n.val) 31 = true ∧
      e.fld (TTH_LAUNCH_STS n.val) 1 0 = 1 ∧ e.due n.val = (s.dev.reg64 (TTH_LAUNCH_TIME_LO n.val) : Int) ∧ e.out = s.dev.out ∧
      e.tether = s.dev.tether) ∧
  (∀ h (n : Fin 64) (v : Reg32) s, s.dev.live = true → slotWriter s.fuse s.dev h n.val = true → bit v.toNat 31 = false →
    s.dev.rbit (TTH_LAUNCH_ACT n.val) 31 = true → (s.dev.tether.now : Int) < s.dev.due n.val →
    ∃ e, exec (.launchSlotDisarm h n v) s = .next { s with dev := e } ∧ e.rbit (TTH_LAUNCH_ACT n.val) 31 = false ∧
      e.fld (TTH_LAUNCH_STS n.val) 1 0 = 0 ∧ e.out = s.dev.out ∧ e.tether = s.dev.tether) ∧
  (∀ h (n : Fin 64) (v : Reg32) s, slotWriter s.fuse s.dev h n.val = false → exec (.launchSlotArm h n v) s = .next s ∧
      exec (.launchSlotDisarm h n v) s = .next s) ∧
  (∀ (n : Fin 64) s, s.dev.live = true → s.dev.rbit (TTH_LAUNCH_ACT n.val) 31 = true → s.dev.slotFirst n.val = true →
    (s.dev.tether.now : Int) ≤ s.dev.due n.val →
    exec (.launchSlotFire n) s =
      .next { s with dev := silentOut s.fuse (slotFire s.fuse (s.dev.advance (s.dev.due n.val).toNat) n.val false false) }) ∧
  (∀ (pin : Fin 8) s t, (Tbl.look {} s.dev.gpio pin.val).pulseEnd = some t →
    ∃ e, exec (.gpioPulseEnd pin) s = .next { s with dev := e } ∧ e.out = .gpio pin.val false :: s.dev.out ∧
      (Tbl.look {} e.gpio pin.val).high = false ∧ (Tbl.look {} e.gpio pin.val).pulseEnd = none ∧
      e.tether.now = min (max s.dev.tether.now t) (2 ^ 64 - 1))

/-- Snapshots (R286, R288): the next tract of the image shares the source tract's home, which has one more reference; when every tract is built and
no pre-launch entry is left, the command completes with the launch time. Completes with a next state: snapshotBuildTract, snapshotComplete. -/
def Obligations.SNAPSHOT_EVENTS : Prop :=
  (∀ (h : Handle) s x,
    let t := x.src / 2 ^ 20 + x.built
    let u := x.dst / 2 ^ 20 + x.built
    s.dev.str.snaps.find? (fun y => y.handle == h.toNat) = some x → x.fired.isSome = true → x.built < x.size / 2 ^ 20 →
    (s.dev.ent t).kind = 1 ∨ (s.dev.ent t).kind = 2 →
    ∃ e, exec (.snapshotBuildTract h) s = .next { s with dev := e } ∧ (e.ent u).shr = true ∧ (e.ent t).shr = true ∧
      (e.ent u).group = (s.dev.ent t).group ∧ (e.ent u).index = (s.dev.ent t).index ∧ (e.ent u).kind = (s.dev.ent t).kind ∧
      (e.phys (s.dev.ent t).group (s.dev.ent t).index).refs = (s.dev.phys (s.dev.ent t).group (s.dev.ent t).index).refs + 1 ∧
      e.wbits u = s.dev.wbits t) ∧
  (∀ (h : Handle) s x t c, s.dev.str.snaps.find? (fun y => y.handle == h.toNat) = some x → x.fired = some t →
    x.size / 2 ^ 20 ≤ x.built → s.dev.preLeft h.toNat = false → s.dev.cmd h.toNat = some c → s.dev.Loud →
    ∃ e, exec (.snapshotComplete h) s = .next { s with dev := e } ∧ e.Completed h.toNat 0 2 (leBytes 8 t) ∧
      e.str.snaps = s.dev.str.snaps.filter (fun y => y.handle != h.toNat))

/-- The frame code of R121 corrects every single-bit error and refuses every double-bit error: a die executes the payload that the controller
encoded when none or one of the 56 bits it receives is wrong, and refuses the frame when two are. -/
def Obligations.FRAME_CODE_CORRECTS : Prop :=
  ∀ p, p < 2 ^ 49 →
    decodeFrame (encodeFrame p) = some p ∧
    (∀ i, i < 56 → decodeFrame (Nat.xor (encodeFrame p) (2 ^ i)) = some p) ∧
    (∀ i j, i < j → j < 56 → decodeFrame (Nat.xor (Nat.xor (encodeFrame p) (2 ^ i)) (2 ^ j)) = none)

/-- Read frames (R124, R125) to a die that is initialised, out of power-down and not programming, with the bank's tRC over: the die takes the frame
and returns the stored slot, the slot with its reliability mask, the whole page, or the reference readings. While it programs it refuses them (R123)
and pulses ALERT_N. A soft read and a reference read are sent only where the phase gate admits their bank occupancy (R154). Completes with a next
state: rdLine, rdLineSoft, rdPage, rdRef. -/
def Obligations.DIE_READ_FRAMES : Prop :=
  (∀ (m : DieId) pa slot set mode s, s.dev.populated s.fuse m.val = true → (s.dev.die m.val).Listens s.dev.tether.now →
    (s.dev.die m.val).busy = false → Tbl.look 0 (s.dev.die m.val).bankUntil (bankOf pa.toNat) ≤ s.dev.tether.now →
    ∃ e, exec (.rdLine m 0 pa slot set mode) s = .next { s with dev := e } ∧
      e.out = .dieData m.val (Sys2Proof.lineBytes ((s.dev.die m.val).slot s.dev.fresh m.val pa.toNat slot.val mode)) :: .frame m.val 1 true :: s.dev.out ∧
      (e.die m.val).pages = (s.dev.die m.val).pages) ∧
  (∀ (m : DieId) pa slot set mode mask s, s.dev.populated s.fuse m.val = true → (s.dev.die m.val).Listens s.dev.tether.now →
    (s.dev.die m.val).busy = false → Tbl.look 0 (s.dev.die m.val).bankUntil (bankOf pa.toNat) ≤ s.dev.tether.now →
    s.dev.gate m.val (s.dev.tether.now + 4) 230 = true →
    ∃ e, exec (.rdLineSoft m 0 pa slot set mode mask) s = .next { s with dev := e } ∧
      e.out = .dieData m.val (Sys2Proof.lineBytes ((s.dev.die m.val).slot s.dev.fresh m.val pa.toNat slot.val mode) ++ Sys2Proof.lineBytes mask) ::
        .frame m.val 2 true :: s.dev.out) ∧
  (∀ (m : DieId) pa set mode s, s.dev.populated s.fuse m.val = true → (s.dev.die m.val).Listens s.dev.tether.now →
    (s.dev.die m.val).busy = false → Tbl.look 0 (s.dev.die m.val).bankUntil (bankOf pa.toNat) ≤ s.dev.tether.now →
    ∃ e, exec (.rdPage m 0 pa set mode) s = .next { s with dev := e } ∧
      e.out = .dieData m.val ((List.range 8).flatMap fun k => Sys2Proof.lineBytes ((s.dev.die m.val).slot s.dev.fresh m.val pa.toNat k mode)) ::
        .frame m.val 3 true :: s.dev.out) ∧
  (∀ (m : DieId) pa mode sweep s, s.dev.populated s.fuse m.val = true → (s.dev.die m.val).Listens s.dev.tether.now →
    (s.dev.die m.val).busy = false → Tbl.look 0 (s.dev.die m.val).bankUntil (bankOf pa.toNat) ≤ s.dev.tether.now →
    s.dev.gate m.val (s.dev.tether.now + 4) 400 = true →
    ∃ e, exec (.rdRef m 0 pa mode sweep) s = .next { s with dev := e } ∧
      e.out = .dieData m.val ((if mode = .mlc then leBytes 8 sweep.toNat else leBytes 4 sweep.toNat ++ [0, 0, 0, 0]) ++
        leBytes 2 ((s.dev.die m.val).temp % 1024) ++ leBytes 2 ((s.dev.die m.val).progTemp s.dev.fresh pa.toNat) ++ [0, 0, 0, 0]) :: .frame m.val 4 true :: s.dev.out) ∧
  (∀ (m : DieId) pa slot set mode s, s.dev.populated s.fuse m.val = true → (s.dev.die m.val).Listens s.dev.tether.now →
    (s.dev.die m.val).busy = true → (s.dev.die m.val).refusedCnt < 255 →
    ∃ e, exec (.rdLine m 0 pa slot set mode) s = .next { s with dev := e } ∧
      e.out = .alert m.val :: .frame m.val 1 false :: s.dev.out ∧ (e.die m.val).refused = true ∧
      (e.die m.val).refusedCnt = (s.dev.die m.val).refusedCnt + 1) ∧
  (∀ (m : DieId) pa slot set mode mask sweep s, s.dev.gate m.val (s.dev.tether.now + 4) 230 = false →
    s.dev.gate m.val (s.dev.tether.now + 4) 400 = false → exec (.rdLineSoft m 0 pa slot set mode mask) s = .next s ∧
      exec (.rdRef m 0 pa mode sweep) s = .next s)

/-- LOAD and the PROG frames (R126, R127): within the frame's load cap (R159) an entry whose CRC is good is held in its buffer; a program that the
gate and the shares admit (R105, R164) and that nothing refuses starts at the end of the frame, and a die that already programs queues it. One that
they do not admit is not sent. Completes with a next state: load, progSlc, progMlc. -/
def Obligations.DIE_PROGRAM_FRAMES : Prop :=
  (∀ (m : DieId) pa buf entry data crc s, s.dev.populated s.fuse m.val = true → (s.dev.die m.val).Listens s.dev.tether.now →
    s.dev.pwr.svc = .flush ∨ (s.dev.chan (m.val / 8)).loaded < s.dev.fld MCH_BRIDLE_CFG 7 0 →
    (s.dev.die m.val).running = none → (s.dev.die m.val).queued = none →
    crc16 (data.flatMap Sys2Proof.lineBytes) = crc.toNat →
    ∃ e, exec (.load m 0 pa buf entry data crc) s = .next { s with dev := e } ∧ e.out = .frame m.val 0x10 true :: s.dev.out ∧
      Tbl.look none (e.die m.val).buf (16 * b2n buf + entry.val) = some ⟨pa.toNat, data, true⟩) ∧
  (∀ (m : DieId) buf last s, s.dev.populated s.fuse m.val = true → (s.dev.die m.val).Listens s.dev.tether.now →
    s.dev.gate m.val (max s.dev.tether.now (s.dev.chan (m.val / 8)).caUntil + 4) (tProg .slc) = true → s.dev.sharesAdmit m.val buf = true →
    (s.dev.die m.val).running = none → progRefused { s.dev.die m.val with echo := false } .slc buf last.val = false →
    ∃ e, exec (.progSlc m 0 buf last) s = .next { s with dev := e } ∧ e.out = .frame m.val 0x11 true :: s.dev.out ∧
      (e.die m.val).running = some ⟨buf, last.val, .slc, s.dev.tether.now + 4⟩ ∧ (e.die m.val).pages = (s.dev.die m.val).pages) ∧
  (∀ (m : DieId) buf last s, s.dev.populated s.fuse m.val = true → (s.dev.die m.val).Listens s.dev.tether.now →
    s.dev.gate m.val (max s.dev.tether.now (s.dev.chan (m.val / 8)).caUntil + 4) (tProg .mlc) = true → s.dev.sharesAdmit m.val buf = true →
    (s.dev.die m.val).running = none → progRefused { s.dev.die m.val with echo := false } .mlc buf last.val = false →
    ∃ e, exec (.progMlc m 0 buf last) s = .next { s with dev := e } ∧ e.out = .frame m.val 0x12 true :: s.dev.out ∧
      (e.die m.val).running = some ⟨buf, last.val, .mlc, s.dev.tether.now + 4⟩ ∧ (e.die m.val).pages = (s.dev.die m.val).pages) ∧
  (∀ (m : DieId) buf last s r, s.dev.populated s.fuse m.val = true → (s.dev.die m.val).Listens s.dev.tether.now →
    s.dev.gate m.val (max (max s.dev.tether.now (s.dev.chan (m.val / 8)).caUntil + 4) (r.start + tProg r.mode)) (tProg .mlc) = true →
    s.dev.sharesAdmit m.val buf = true → (s.dev.die m.val).running = some r → progRefused { s.dev.die m.val with echo := false } .mlc buf last.val = false →
    ∃ e, exec (.progMlc m 0 buf last) s = .next { s with dev := e } ∧ (e.die m.val).running = some r ∧
      (e.die m.val).queued = some ⟨buf, last.val, .mlc, s.dev.tether.now + 4⟩) ∧
  (∀ (m : DieId) buf last s, s.dev.sharesAdmit m.val buf = false ∨ s.dev.populated s.fuse m.val = false →
    exec (.progSlc m 0 buf last) s = .next s ∧ exec (.progMlc m 0 buf last) s = .next s)

/-- STATUS, TEMP, READ_ID and the feature frames (R129 to R131): what they return, and what STATUS clears. Completes with a next state: status,
temp, readId, setFeature, getFeature. -/
def Obligations.DIE_STATUS_FRAMES : Prop :=
  (∀ (m : DieId) s, s.dev.populated s.fuse m.val = true → (s.dev.die m.val).Listens s.dev.tether.now →
    ∃ bytes e, exec (.status m 0) s = .next { s with dev := e } ∧ .dieData m.val bytes ∈ e.out ∧
      bytes = (s.dev.die m.val).statusBytes ∧ (e.die m.val).progFail = false ∧ (e.die m.val).refused = false ∧
      (e.die m.val).crcFail = false ∧ (e.die m.val).tempAlert = false ∧ (e.die m.val).refusedCnt = 0 ∧
      (e.die m.val).pages = (s.dev.die m.val).pages) ∧
  (∀ (m : DieId) s, s.dev.populated s.fuse m.val = true → (s.dev.die m.val).Listens s.dev.tether.now →
    ∃ e, exec (.temp m 0) s = .next { s with dev := e } ∧ e.out = .dieData m.val (leBytes 2 ((s.dev.die m.val).temp % 1024) ++
        leBytes 2 (max (s.dev.die m.val).maxTemp (s.dev.die m.val).temp % 1024) ++ List.replicate 12 0) :: .frame m.val 0x21 true :: s.dev.out) ∧
  (∀ (m : DieId) s, s.dev.populated s.fuse m.val = true → (s.dev.die m.val).Listens s.dev.tether.now →
    s.dev.trainTime (m.val / 8) = true → (s.dev.die m.val).busy = false →
    ∃ e, exec (.readId m 0) s = .next { s with dev := e } ∧
      e.out = .dieData m.val (leBytes 32 (s.dev.die m.val).ident.toNat) :: .frame m.val 0x22 true :: s.dev.out) ∧
  (∀ (m : DieId) others addr (value : Reg32) s k, Addressed s.fuse s.dev m.val others k → (s.dev.die k).Listens s.dev.tether.now →
    (s.dev.die k).busy = false → featMask addr.toNat ≠ 0 →
    ∃ e, exec (.setFeature ⟨m, others⟩ 0 addr value) s = .next { s with dev := e } ∧ .frame k 0x30 true ∈ e.out ∧
      (e.die k).feature addr.toNat = Nat.land value.toNat (featMask addr.toNat) ∧
      (∀ a, a ≠ addr.toNat → (e.die k).feature a = (s.dev.die k).feature a) ∧
      ∀ j, ¬ Addressed s.fuse s.dev m.val others j → e.die j = s.dev.die j) ∧
  (∀ (m : DieId) addr s, s.dev.populated s.fuse m.val = true → (s.dev.die m.val).Listens s.dev.tether.now →
    ∃ e, exec (.getFeature m 0 addr) s = .next { s with dev := e } ∧
      e.out = .dieData m.val (leBytes 4 (if featMask addr.toNat = 0 then 0 else (s.dev.die m.val).feature addr.toNat) ++
        List.replicate 12 0) :: .frame m.val 0x31 true :: s.dev.out)

/-- NOP, training, calibration, power-down and RESET frames (R120, R123, R131, R133, R137, R154): a frame with several CE_N low acts on every die
addressed and on no other. A die in echo mode drives the CA bits of the beat that feature 0x05 names, and takes the frame as no command. Completes
with a next state: nop, trainCa, trainRd, trainWr, zqCal, pdEnter, pdExit, reset. -/
def Obligations.DIE_CONTROL_FRAMES : Prop :=
  (∀ (m : DieId) s, s.dev.populated s.fuse m.val = true → (s.dev.die m.val).Listens s.dev.tether.now →
    ∃ e, exec (.nop m 0) s = .next { s with dev := e } ∧ e.out = .frame m.val 0 true :: s.dev.out ∧
      e.die m.val = { s.dev.die m.val with echo := false }) ∧
  (∀ (m : DieId) s, s.dev.populated s.fuse m.val = true → (s.dev.die m.val).Listens s.dev.tether.now →
    s.dev.trainTime (m.val / 8) = true → (s.dev.die m.val).busy = false →
    ∃ e, exec (.trainCa m 0) s = .next { s with dev := e } ∧ (e.die m.val).echo = true ∧
      e.out = .frame m.val 0x40 true :: s.dev.out) ∧
  (∀ (m : DieId) s, s.dev.populated s.fuse m.val = true → (s.dev.die m.val).Listens s.dev.tether.now →
    s.dev.trainTime (m.val / 8) = true → (s.dev.die m.val).busy = false →
    ∃ e, exec (.trainRd m 0 true) s = .next { s with dev := e } ∧
      e.out = .dieData m.val (leBytes 64 (s.dev.die m.val).pattern.toNat) :: .frame m.val 0x41 true :: s.dev.out) ∧
  (∀ (m : DieId) data s, s.dev.populated s.fuse m.val = true → (s.dev.die m.val).Listens s.dev.tether.now →
    s.dev.trainTime (m.val / 8) = true → (s.dev.die m.val).busy = false →
    ∃ e, exec (.trainWr m 0 data) s = .next { s with dev := e } ∧ (e.die m.val).pattern = data) ∧
  (∀ (m : DieId) s, s.dev.populated s.fuse m.val = true → (s.dev.die m.val).Listens s.dev.tether.now →
    s.dev.trainTime (m.val / 8) = true → (s.dev.die m.val).busy = false →
    ∃ e, exec (.zqCal m 0) s = .next { s with dev := e } ∧
      e.die m.val = { s.dev.die m.val with echo := false } ∧ e.out = .frame m.val 0x43 true :: s.dev.out) ∧
  (∀ (m : DieId) others s k, Addressed s.fuse s.dev m.val others k → (∀ j, Addressed s.fuse s.dev m.val others j → s.dev.mayDown j = true) →
    (s.dev.die k).Listens s.dev.tether.now →
    ∃ e, exec (.pdEnter ⟨m, others⟩ 0) s = .next { s with dev := e } ∧ (e.die k).pd = true ∧ (e.die k).pages = (s.dev.die k).pages ∧
      ∀ j, ¬ Addressed s.fuse s.dev m.val others j → e.die j = s.dev.die j) ∧
  (∀ (m : DieId) others s k, Addressed s.fuse s.dev m.val others k → (s.dev.die k).init = false → (s.dev.die k).echo = false →
    ∃ e, exec (.pdExit ⟨m, others⟩ 0) s = .next { s with dev := e } ∧ (e.die k).pd = false ∧ (e.die k).pages = (s.dev.die k).pages ∧
      ∀ j, ¬ Addressed s.fuse s.dev m.val others j → e.die j = s.dev.die j) ∧
  (∀ (m : DieId) others s k, Addressed s.fuse s.dev m.val others k → (s.dev.die k).echo = false →
    (∀ j, Addressed s.fuse s.dev m.val others j → (s.dev.die j).busy = false ∨ (s.dev.ctl j).failed = true) →
    ∃ e, exec (.reset ⟨m, others⟩ 0) s = .next { s with dev := e } ∧ (e.die k).running = none ∧ (e.die k).queued = none ∧
      (e.die k).init = true ∧ (e.die k).pd = false ∧ (e.die k).buf = [] ∧ (∀ a, (e.die k).feature a = featReset a) ∧
      ∀ j, ¬ Addressed s.fuse s.dev m.val others j → e.die j = s.dev.die j) ∧
  (∀ (m : DieId) s, s.dev.populated s.fuse m.val = true → (s.dev.die m.val).init = false → (s.dev.die m.val).echo = false →
    (s.dev.die m.val).pd = true → ∃ e, exec (.nop m 0) s = .next { s with dev := e } ∧ e.die m.val = s.dev.die m.val ∧ e.out = .frame m.val 0 false :: s.dev.out) ∧
  (∀ (m : DieId) s, s.dev.populated s.fuse m.val = true → (s.dev.die m.val).echo = true → s.dev.tether.now ≤ (s.dev.die m.val).ceHigh + 1000 →
    ∃ e, exec (.nop m 0) s = .next { s with dev := e } ∧ e.die m.val = { s.dev.die m.val with ceHigh := s.dev.tether.now + 4 } ∧
      e.out = .dieData m.val [caBeat (encodeFrame 0) ((s.dev.die m.val).feature 5)] :: .frame m.val 0 true :: s.dev.out)

/-- Training and retraining (R136 to R138): a request or the 1 s timer makes retraining pending on a trained channel that has not failed, and its
completion in the channel's test window clears pending and the hold; at bring-up RESET goes to every configured position; a channel some of whose
dies pass is trained with its eyes; one none of whose dies passes tries again from its RESET, and fails at the third attempt. Completes with a next
state: retrainRequest, retrainTimer, retrainComplete, channelTraining, channelTrained. -/
def Obligations.TRAINING : Prop :=
  ((∀ h (n : ChannelId) s, (s.dev.chan n.val).trained = true → (s.dev.chan n.val).failed = false →
      ∃ e, exec (.retrainRequest h n) s = .next { s with dev := e } ∧ (e.chan n.val) = { s.dev.chan n.val with pending := true } ∧
        (∀ k, k ≠ n.val → e.chan k = s.dev.chan k) ∧ e.reg (MCH_CH_CTL n.val) = 1) ∧
    (∀ (n : ChannelId) s, (s.dev.chan n.val).trained = true → (s.dev.chan n.val).failed = false →
      (s.dev.chan n.val).lastRetrain + 10 ^ 9 < 2 ^ 64 →
      ∃ e, exec (.retrainTimer n) s = .next { s with dev := e } ∧ (e.chan n.val).pending = true ∧ (e.chan n.val).trained = true ∧
        (e.chan n.val).retrains = (s.dev.chan n.val).retrains ∧ e.media.die = s.dev.media.die ∧ (s.dev.chan n.val).lastRetrain + 10 ^ 9 ≤ e.tether.now) ∧
    (∀ (n : ChannelId) rd wr code s, s.dev.tether.twOpen = true → s.dev.tether.twChan = n.val → (s.dev.chan n.val).pending = true →
      (s.dev.chan n.val).retrains < 65535 →
      ∃ e, exec (.retrainComplete n rd wr code) s = .next { s with dev := e } ∧ (e.chan n.val).pending = false ∧
        (e.chan n.val).held = false ∧ (e.chan n.val).retrains = (s.dev.chan n.val).retrains + 1 ∧ (e.chan n.val).rdEye = rd.toNat ∧
        (e.chan n.val).wrEye = wr.toNat ∧ (e.chan n.val).trainTemp = codeByte code.val ∧ e.reg (MCH_CH_CTL n.val) = 0) ∧
    (∀ (n : ChannelId) rd wr code s, s.dev.tether.twOpen = true → s.dev.tether.twChan = n.val → (s.dev.chan n.val).pending = true →
      ∃ e, exec (.retrainComplete n rd wr code) s = .next { s with dev := e } ∧ (e.chan n.val).pending = false ∧
        (e.chan n.val).held = false ∧ e.reg (MCH_CH_CTL n.val) = 0)) ∧
  ((∀ (n : ChannelId) ids stuck s, presentChan s.fuse n.val = true → s.dev.diesPer (n.val / 10) ≠ 0 → (s.dev.chan n.val).failed = false →
      (s.dev.chan n.val).trained = false → s.dev.pwr.svc = .bringup → s.dev.pwr.step = 7 → bit s.dev.drift.badChan n.val = false →
      ∃ e, exec (.channelTraining n ⟨ids, stuck⟩) s = .next { s with dev := discover s.fuse e n.val ids stuck } ∧ (e.chan n.val).training = true ∧
        ∀ k, k < s.dev.diesPer (n.val / 10) →
          (e.die (8 * n.val + k)).running = none ∧ (e.die (8 * n.val + k)).init = stuck ∧ (e.die (8 * n.val + k)).pd = false) ∧
    (∀ (n : ChannelId) rd wr passed s, (s.dev.chan n.val).training = true →
      ((s.dev.liveDies n.val).all fun m => !bit passed.toNat (m % 8)) = false →
      ∃ e, exec (.channelTrained n rd wr passed) s = .next { s with dev := e } ∧ (e.chan n.val).trained = true ∧
        (e.chan n.val).training = false ∧ (e.chan n.val).attempts = 0 ∧ (e.chan n.val).rdEye = rd.toNat ∧ (e.chan n.val).wrEye = wr.toNat) ∧
    (∀ (n : ChannelId) rd wr passed s, (s.dev.chan n.val).training = true → (s.dev.chan n.val).attempts < 2 →
      ((s.dev.liveDies n.val).all fun m => !bit passed.toNat (m % 8)) = true →
      ∃ e, exec (.channelTrained n rd wr passed) s = .next { s with dev := e } ∧
        e.chan n.val = { s.dev.chan n.val with attempts := (s.dev.chan n.val).attempts + 1, training := false }) ∧
    (∀ (n : ChannelId) rd wr passed s, (s.dev.chan n.val).training = true → (s.dev.chan n.val).attempts = 2 →
      (s.dev.chan n.val).failed = false → presentChan s.fuse n.val = true → s.dev.diesPer (n.val / 10) ≠ 0 →
      ((s.dev.liveDies n.val).all fun m => !bit passed.toNat (m % 8)) = true →
      ∃ e, exec (.channelTrained n rd wr passed) s = .next { s with dev := e } ∧ (e.chan n.val).failed = true ∧ (e.chan n.val).cause = 1))

/-- Failures on the media (R134, R160): a stuck ALERT_N in service and a declared channel failure fail the channel with the cause of its row; a die
or a channel is declared failed on the evidence of the row that is named, and not without it; the latched fault is asked out of a STATUS answer and
RESET is sent once the die is not busy. Completes with a next state: alertStuck, channelDeclaredFailed, dieDeclaredFailed, alertStatusResponse,
faultDieReset. -/
def Obligations.MEDIA_FAILURES : Prop :=
  (∀ (n : ChannelId) s, s.dev.inService = true → (s.dev.chan n.val).failed = false → presentChan s.fuse n.val = true →
    s.dev.diesPer (n.val / 10) ≠ 0 →
    ∃ e, exec (.alertStuck n) s = .next { s with dev := e } ∧ (e.chan n.val).failed = true ∧ (e.chan n.val).cause = 3 ∧
      (e.chan n.val).pending = false) ∧
  (∀ (n : ChannelId) (cause : FailCause) s, (s.dev.chan n.val).failed = false → presentChan s.fuse n.val = true →
    s.dev.diesPer (n.val / 10) ≠ 0 → s.dev.chanCause n.val cause.val = true →
    ∃ e, exec (.channelDeclaredFailed n cause) s = .next { s with dev := e } ∧ (e.chan n.val).failed = true ∧
      (e.chan n.val).cause = (if cause.val = 1 then 2 else if cause.val = 2 then 1 else 3)) ∧
  (∀ (m : DieId) (cause : FailCause) s, (s.dev.ctl m.val).failed = false → s.dev.populated s.fuse m.val = true →
    s.dev.dieCause m.val cause.val = true →
    ∃ e, exec (.dieDeclaredFailed m cause) s = .next { s with dev := e } ∧ (e.ctl m.val).failed = true) ∧
  (∀ (m : DieId) (n : ChannelId) (cause : FailCause) s, s.dev.dieCause m.val cause.val = false → s.dev.chanCause n.val cause.val = false →
    exec (.dieDeclaredFailed m cause) s = .next s ∧ exec (.channelDeclaredFailed n cause) s = .next s) ∧
  (∀ (m : DieId) (st : BitVec 128) s, bit st.toNat 4 = false → bit st.toNat 5 = false → bit st.toNat 6 = true →
    (s.dev.ctl m.val).faultReset = none → (s.dev.ctl m.val).statusGot = some st.toNat →
    ∃ e, exec (.alertStatusResponse m st) s = .next { s with dev := e } ∧
      e.ctl m.val = { s.dev.ctl m.val with faultPending := true, statusGot := none }) ∧
  (∀ (m : DieId) s, (s.dev.ctl m.val).faultPending = true → (s.dev.die m.val).busy = false → (s.dev.die m.val).echo = false →
    ∃ e, exec (.faultDieReset m) s = .next { s with dev := e } ∧ (e.die m.val).init = true ∧ (e.die m.val).fault = false ∧
      e.ctl m.val = { s.dev.ctl m.val with faultPending := false, faultAgain := false, faultReset := some s.dev.tether.now })

/-- ALERT_N (R133 to R135) and the end of a program (R127 to R129): a frame that ended, or whose burst ended, within 12 ns is sent again, a long low
period asks every present die for STATUS, a latched condition repeats its pulse, and a finished program empties its buffer, starts the queued one,
and latches and counts its failures; a die whose charge pump or supply failed meanwhile latches its fault. Completes with a next state: alertNLow,
alertLongLow, alertConditionRepeat, dieInitDone, dieProgramEnd. -/
def Obligations.ALERTS_AND_PROGRAM_ENDS : Prop :=
  (∀ (n : ChannelId) errs s, (s.dev.chan n.val).sent = [] →
    ∃ e, exec (.alertNLow ⟨n, errs⟩) s = .next { s with dev := e } ∧ e.out = s.dev.out ∧ (e.chan n.val).sent = []) ∧
  (∀ (n : ChannelId) x err s, (s.dev.chan n.val).sent = [x] →
    (x.time ≤ s.dev.tether.now ∧ s.dev.tether.now ≤ x.time + 12) ∨
      (∃ t, x.burst = some t ∧ t ≤ s.dev.tether.now ∧ s.dev.tether.now ≤ t + 12) →
    ∃ d : Dev, exec (.alertNLow ⟨n, [err]⟩) s = .next { s with dev := d.reissue x err.toNat } ∧ d.out = s.dev.out ∧ (d.chan n.val).sent = [] ∧
      d.reg (MCH_CA_ERR n.val) = BitVec.ofNat 32 (min ((s.dev.reg (MCH_CA_ERR n.val)).toNat + 1) 0xFFFFFFFF)) ∧
  (∀ (n : ChannelId) s, ∃ e, exec (.alertLongLow n) s = .next { s with dev := e } ∧
      e = ((List.range 8).filter fun k => (s.dev.ctl (8 * n.val + k)).present && !(s.dev.die (8 * n.val + k)).pd).foldl
        (fun d k => d.sendFrame { m := 8 * n.val + k, payload := pay 0x20 [] } 0) s.dev) ∧
  (∀ (m : DieId) s, (s.dev.die m.val).progFail = true →
    s.dev.tether.now + 1000 < 2 ^ 64 →
    ∃ e, exec (.alertConditionRepeat m) s = .next { s with dev := e } ∧ e.out = .alert m.val :: s.dev.out ∧
      e.tether.now = s.dev.tether.now + 1000) ∧
  (∀ (m : DieId) s, ∃ e, exec (.dieInitDone m) s = .next { s with dev := e } ∧
      e.die m.val = { s.dev.die m.val with init := false } ∧ ∀ k, k ≠ m.val → e.die k = s.dev.die k) ∧
  (∀ (m : DieId) r s, (s.dev.die m.val).running = some r → (s.dev.ctl m.val).thrOwed = false →
    ∃ e, exec (.dieProgramEnd m ⟨0, false⟩) s = .next { s with dev := e } ∧ (e.die m.val).queued = none ∧
      (e.die m.val).running = (s.dev.die m.val).queued.map (fun q => { q with start := max q.start s.dev.tether.now }) ∧
      (e.die m.val).progFail = (s.dev.die m.val).progFail ∧ (e.die m.val).failMask = 0) ∧
  (∀ (m : DieId) r (mask : BitVec 16) s, (s.dev.die m.val).running = some r → (s.dev.ctl m.val).thrOwed = false →
    bit mask.toNat 0 = true →
    ∃ e, exec (.dieProgramEnd m ⟨mask, false⟩) s = .next { s with dev := e } ∧ (e.die m.val).progFail = true ∧
      (e.die m.val).failMask = mask.toNat % 2 ^ (r.last + 1) ∧ (e.die m.val).failBuf = r.buf ∧ .alert m.val ∈ e.out) ∧
  (∀ (m : DieId) r (mask : BitVec 16) s, (s.dev.die m.val).running = some r → (s.dev.ctl m.val).thrOwed = false →
    ∃ e, exec (.dieProgramEnd m ⟨mask, true⟩) s = .next { s with dev := e } ∧ (e.die m.val).fault = true ∧ (e.die m.val).noProg = true)

/-- Row updates (R146 to R149) and Bridle (R155, R156, R158, R159): an update takes an open-row entry while the table has room for it, the row has
none and the group is in use; a row whose pages are all programmed leaves the table; the winner of an arbitration goes before every other candidate,
by rank, then requester, then order; a beat grants one unit of a queued winner, and none in a test window; a rank field written with 7 keeps its
value. Completes with a next state: rowUpdateStart, rowUpdateDone, bridleGrant, bridleRankWrite. -/
def Obligations.ROWS_AND_BRIDLE : Prop :=
  (∀ (g : GroupId) row mode lines s, s.dev.rowFree g.val row.toNat = true → (s.dev.grp g.val).populated = true → (s.dev.grp g.val).absent = false →
    (s.dev.grp g.val).units < 3 →
    ∃ r e, exec (.rowUpdateStart g row mode lines) s = .next { s with dev := e } ∧ e.media.rows = s.dev.media.rows ++ [r] ∧
      r.g = g.val ∧ r.pa = row.toNat ∧ r.mode = mode ∧ r.seq = s.dev.media.rowSeq ∧ e.media.die = s.dev.media.die) ∧
  (∀ (g : GroupId) row mode lines s, s.dev.rowFree g.val row.toNat = false ∨ 3 ≤ (s.dev.grp g.val).units →
    exec (.rowUpdateStart g row mode lines) s = .next s) ∧
  (∀ (g : GroupId) row mode lines s r, r ∈ s.dev.media.rows → r.g = g.val → r.pa = row.toNat →
    exec (.rowUpdateStart g row mode lines) s = .next s) ∧
  (∀ (g : GroupId) row s r, s.dev.media.rows.find? (fun r => r.g == g.val && r.pa == row.toNat) = some r → r.left = 0 →
    ∃ e, exec (.rowUpdateDone g row) s = .next { s with dev := e } ∧
      e.media.rows = s.dev.media.rows.filter fun x => !(x.g == g.val && x.pa == row.toNat)) ∧
  (∀ (g : GroupId) row s r, s.dev.media.rows.find? (fun r => r.g == g.val && r.pa == row.toNat) = some r →
    r.left ≠ Nat.land r.left r.lost → exec (.rowUpdateDone g row) s = .next s) ∧
  (∀ (d : Dev) q l c, d.winner q l = some c → c ∈ l ∧ ∀ x ∈ l, d.goesFirst q c.req x.req = true) ∧
  (∀ (n : ChannelId) b s,
    let d0 := s.dev.tick (100 + n.val) 4
    let d1 := d0.roundReads n.val d0.tether.now
    d0.tether.twOpen = false → (d0.chan n.val).failed = false → d1.winner (n.val / 10) (d1.cands n.val d0.tether.now) = some (.queued b) →
    Tbl.look [] s.dev.media.bridle n.val = [b] →
    ∃ e, exec (.bridleGrant n) s = .next { s with dev := e } ∧
      Tbl.look [] e.media.bridle n.val = (if b.units ≤ b.done + 1 then [] else [{ b with done := b.done + 1 }]) ∧
      (e.chan n.val).granted = (s.dev.chan n.val).granted + 1 ∧ e.tether.now = d0.tether.now ∧ e.media.die = s.dev.media.die) ∧
  (∀ (n : ChannelId) s, (s.dev.tick (100 + n.val) 4).tether.twOpen = true → (s.dev.tick (100 + n.val) 4).tether.twChan = n.val →
    exec (.bridleGrant n) s = .next { s with dev := s.dev.tick (100 + n.val) 4 }) ∧
  (∀ h (q : Fin 4) (value : Reg32) s i, i < 7 →
    ∃ e, exec (.bridleRankWrite h q value) s = .next { s with dev := e } ∧ e.fld (MCH_BRIDLE_RANK q.val) (3 * i + 2) (3 * i) =
      if bits value.toNat (3 * i + 2) (3 * i) = 7 then s.dev.fld (MCH_BRIDLE_RANK q.val) (3 * i + 2) (3 * i)
      else bits value.toNat (3 * i + 2) (3 * i))

/-- Drift, repair and scrub (R172, R175, R181 to R187, R190): a queued repair takes an open-row entry with its page's lines, and waits while the row
has one; a good confirmation repairs the page; a survey visit and a resurvey record the highest class of the tract's samples, and the time; a die's
threshold sets are computed from its samples, set 15 being set 14 with soft width 0x30; the ledger is saved after a completed pass; scrub moves its
position, counts its passes and queues a refresh. Completes with a next state: lineRepair, poisonConfirmation, surveyTract, resurveyTract,
thresholdRecompute, driftLedgerSave, scrubRow. -/
def Obligations.DRIFT_AND_SCRUB : Prop :=
  ((∀ (dpa : Dpa) x s,
      let l := s.dev.lineLoc (dpa.toNat / 64)
      let p := s.dev.dataPos l l.idx
      s.dev.drift.repair.contains (dpa.toNat / 64) = true → s.dev.below (dpa.toNat / 64) = .fetch →
      (s.dev.rebuild l 0).or (s.dev.mediaLine (dpa.toNat / 64)) = some x → bit (s.dev.grp l.g).failedM p = false →
      s.dev.rowsOfQuad (l.g / 8) < 256 → (∀ r ∈ s.dev.media.rows, ¬ (r.g = l.g ∧ r.pa = l.pa)) →
      ∃ r e, exec (.lineRepair dpa) s = .next { s with dev := e } ∧ e.media.rows = s.dev.media.rows ++ [r] ∧ r.g = l.g ∧ r.pa = l.pa ∧
        r.left = 2 ^ p ∧ (8 * p + l.slot, x) ∈ r.lines ∧ e.media.die = s.dev.media.die ∧
        e.drift.repair = s.dev.drift.repair.filter (· != dpa.toNat / 64)) ∧
    (∀ (dpa : Dpa) s, s.dev.drift.repair.contains (dpa.toNat / 64) = false → exec (.lineRepair dpa) s = .next s) ∧
    (∀ (dpa : Dpa) (good : StripeMask) c s,
      let l := s.dev.lineLoc (dpa.toNat / 64)
      let p := s.dev.dataPos l l.idx
      s.dev.drift.confirm.find? (fun c => c.line == dpa.toNat / 64) = some c →
      (s.dev.ent (dpa.toNat / 64 / 16384)).kind = 1 → s.dev.wbRoom (dpa.toNat / 64) = true →
      bit good.toNat p = true → bit (s.dev.grp l.g).failedM p = false → confirmGood s.fuse s.dev c (s.dev.stored l p) = true →
      ∃ d e : Dev, exec (.poisonConfirmation dpa good) s = .next { s with dev := e } ∧ e = (d.repairPage l (s.dev.stored l p)).getD d ∧
        d = { s.dev with drift := { s.dev.drift with confirm := s.dev.drift.confirm.filter fun x => x.line != dpa.toNat / 64 } })) ∧
  ((∀ (g : GroupId) index pos codes s, s.dev.drift.surveying = true → s.dev.holdsData g.val index = true → 0 < s.dev.internFree .survey →
      (∀ k ∈ s.dev.dataTracts, k / 2 ^ 19 < g.val → Tbl.look 0 s.dev.drift.cls k ≠ 0) →
      s.dev.sampledAll g.val index (sampleList pos codes) = true →
      ∃ e, exec (.surveyTract g index pos codes) s = .next { s with dev := e } ∧
        Tbl.look 0 e.drift.cls (physKey g.val index) = (sampleList pos codes).foldl (fun n x =>
          max n (classOf (sampleDelta ((s.dev.phys g.val index).state == 2) x.2))) 0 + 1 ∧
        Tbl.look 0 e.drift.lastSurvey (physKey g.val index) = s.dev.tether.now) ∧
    (∀ (g : GroupId) index pos codes s, s.dev.holdsData g.val index = true → 0 < s.dev.internFree .survey →
      s.dev.drift.resurvey.contains (physKey g.val index) = true → s.dev.sampledAll g.val index (sampleList pos codes) = true →
      ∃ e, exec (.resurveyTract g index pos codes) s = .next { s with dev := e } ∧
        Tbl.look 0 e.drift.cls (physKey g.val index) = (sampleList pos codes).foldl (fun n x =>
          max n (classOf (sampleDelta ((s.dev.phys g.val index).state == 2) x.2))) 0 + 1 ∧
        e.drift.resurvey = s.dev.drift.resurvey.filter (· != physKey g.val index)) ∧
    (∀ (m : DieId) s, s.dev.populated s.fuse m.val = true → (s.dev.die m.val).busy = false → (s.dev.die m.val).pd = false →
      ∃ e, exec (.thresholdRecompute ⟨m, []⟩) s = .next { s with dev := e } ∧ e.die m.val =
        ((s.dev.die m.val).setThresholds false (s.dev.dieSamples m.val false)).setThresholds true (s.dev.dieSamples m.val true)) ∧
    (∀ (x : Die) slc l, (∃ e ∈ l, e.1 < 15) →
      bits ((x.setThresholds slc l).feature (if slc then 0x2F else 0x1F)) 31 24 = 0x30 ∧
      bits ((x.setThresholds slc l).feature (if slc then 0x2F else 0x1F)) 23 0 = bits ((x.setThresholds slc l).feature (if slc then 0x2E else 0x1E)) 23 0 ∧
      (x.setThresholds slc l).pages = x.pages) ∧
    (∀ s, s.dev.pwr.replayDone = true → s.dev.drift.saveDue = true →
      ∃ e, exec .driftLedgerSave s = .next { s with dev := e } ∧ e.drift.saved = s.dev.drift.cls ∧ e.drift.lastSave = s.dev.tether.now ∧
        e.drift.cls = s.dev.drift.cls ∧ e.drift.saveDue = false) ∧
    (∀ s, s.dev.drift.saveDue = false → exec .driftLedgerSave s = .next s)) ∧
  (∀ tract (row : Fin 512) (worst : Fin 11) s, (s.dev.ent tract).kind = 1 → s.dev.fld MCH_DRF_CFG 23 16 ≠ 0 → 0 < s.dev.internFree .scrub →
    (∀ x ∈ (s.dev.rowLines tract row.val).filter s.dev.isWritten, tagBad s.fuse s.dev x = false) →
    ∃ e, exec (.scrubRow tract row worst ⟨[], []⟩ false) s = .next { s with dev := e } ∧ e.drift.scrubPos = tract * 512 + row.val ∧
      e.drift.scrubPass = (if tract * 512 + row.val < s.dev.drift.scrubPos then (s.dev.drift.scrubPass + 1) % 65536 else s.dev.drift.scrubPass) ∧
      (worst.val < 3 → e.drift.resurvey = s.dev.drift.resurvey) ∧
      (s.dev.refreshSym ≤ worst.val → (∀ q ∈ s.dev.tracts.queued, q.1 ≠ tract) → (∀ x ∈ s.dev.tracts.migs, x.tract ≠ tract) →
        e.tracts.queued = s.dev.tracts.queued ++ [(tract, .refresh)]))

/-- The seven steps of a migration (R16, R24, R189, R211, R212): when its turn has come and the tracker has an entry for it, it starts with a target
and leaves the queue, and one whose turn has not come waits; its copy ends, verification that finds no difference makes it ready, the switch gives
the tract its new home and header, and release ends it 10 µs later. Completes with a next state: migrationStart, refreshStart, migrationCopyDone,
migrationVerify, migrationSwitch, migrationRelease. -/
def Obligations.MIGRATION_STEPS : Prop :=
  (∀ tract (why : Fin 9) x d1 (s : State),
    s.dev.take (s.dev.migNeed tract (whyOf why.val)).1 3 (s.dev.migNeed tract (whyOf why.val)).2
      (if whyOf why.val = .rebuild ∧ s.dev.usable (s.dev.ent tract).group then some (s.dev.ent tract).group else none) = some (x, d1) →
    s.dev.tracts.queued.any (fun q => q.1 == tract && decide (q.2 = whyOf why.val)) = true →
    s.dev.migTurn tract (whyOf why.val) = true → s.dev.internFree .migration ≠ 0 → tract < 2 ^ 24 →
    (s.dev.ent tract).kind = 1 → (∀ m ∈ s.dev.tracts.migs, m.tract ≠ tract) →
    (waitsHold (whyOf why.val) = false ∨ 1024 + s.dev.pHome < s.dev.availU) → whyOf why.val ≠ .rekey →
    s.dev.sec.rekey = none → (∀ c ∈ s.dev.lci.cmds, c.silent = false) →
    ∃ e, exec (.migrationStart tract why) s = .next { s with dev := e } ∧ (∀ q ∈ e.tracts.queued, q.1 ≠ tract) ∧
      { tract := tract, why := whyOf why.val, target := { x with shr := false }, source := s.dev.ent tract : Mig } ∈ e.tracts.migs) ∧
  (∀ tract s, s.dev.migTurn tract .refresh = false ∨ s.dev.internFree .migration = 0 →
    exec (.refreshStart tract) s = .next s) ∧
  (∀ tract x d1 (s : State),
    s.dev.take (s.dev.migNeed tract .refresh).1 3 (s.dev.migNeed tract .refresh).2 none = some (x, d1) →
    (tract, MigWhy.refresh) ∈ s.dev.tracts.queued → s.dev.migTurn tract .refresh = true →
    s.dev.internFree .migration ≠ 0 → tract < 2 ^ 24 → (s.dev.ent tract).kind = 1 →
    (∀ m ∈ s.dev.tracts.migs, m.tract ≠ tract) →
    ∃ e, exec (.refreshStart tract) s = .next { s with dev := e } ∧ (∀ q ∈ e.tracts.queued, q.1 ≠ tract) ∧
      { tract := tract, why := .refresh, target := { x with shr := false }, source := s.dev.ent tract : Mig } ∈ e.tracts.migs) ∧
  (∀ tract m s, s.dev.tracts.migs = [m] → m.tract = tract → m.step = 2 → m.why = .rekey → m.marked = [] →
    ∃ e, exec (.migrationCopyDone tract) s = .next { s with dev := e } ∧ e.tracts.migs = [{ m with step := 4 }]) ∧
  (∀ tract m s, s.dev.tracts.migs = [m] → m.tract = tract → m.step = 2 → m.why ≠ .rekey →
    ∃ d e : Dev, exec (.migrationCopyDone tract) s = .next { s with dev := e } ∧
      d = (((List.range (rowsOf (10 - m.target.wd))).foldl (copyRow s.fuse m) s.dev).unask (tract + 1)).migAsk m m.marked.length ∧
      e = d.mapMig tract fun x =>
        { x with marked := m.marked, recopies := m.recopies, step := (if m.marked.isEmpty ∨ 3 ≤ m.recopies then 4 else 3) }) ∧
  (∀ tract m s, s.dev.tracts.migs = [m] → m.tract = tract → m.step = 5 →
    ∃ e, exec (.migrationVerify tract false false) s = .next { s with dev := e } ∧ e.tracts.migs = [{ m with step := 6 }] ∧
      e.media = s.dev.media) ∧
  (∀ tract m s, s.dev.tracts.migs = [m] → m.tract = tract → m.step = 6 → m.why = .relocate → s.dev.snapHolds tract = false →
    (s.dev.ent tract).shr = false → s.dev.sec.rekey = none → (∀ c ∈ s.dev.lci.cmds, c.silent = false) →
    ∃ e, exec (.migrationSwitch tract) s = .next { s with dev := e } ∧ { e.ent tract with hdr := false } = { m.target with shr := false, hdr := false } ∧
      e.hdr tract = (s.dev.hdr tract).moved ∧ e.tracts.migs = [{ m with step := 7, releaseAt := s.dev.tether.now + 10000 }]) ∧
  (∀ tract m s, s.dev.tracts.migs = [m] → m.tract = tract → m.step = 7 → s.dev.sec.rekey = none →
    (∀ c ∈ s.dev.lci.cmds, c.silent = false) → m.releaseAt < 2 ^ 64 →
    ∃ e, exec (.migrationRelease tract) s = .next { s with dev := e } ∧ (∀ x ∈ e.tracts.migs, x.tract ≠ tract) ∧
      m.releaseAt ≤ e.tether.now)

/-- Metadata, counters, gaps, heat and the zone, wear, the floor and the seal (R203, R207, R208, R210, R215, R220, R224, R226, R246). Completes with
a next state: metadataWriteback, counterLineWriteback, gapMove, gapMoveDone, heatPeriodAdvance, zoneTargetRecompute, wearSummarySave,
wearLevelCheck, floorWarnRepeat, sealDevice. -/
def Obligations.TRACT_UPKEEP_AND_WEAR : Prop :=
  ((∀ line l s, l ∈ s.dev.tracts.tc → l.id = line → l.dirty.isSome = true →
      ∃ e, exec (.metadataWriteback line) s = .next { s with dev := e } ∧ e.tracts.media = copyMeta s.dev.tracts.cur s.dev.tracts.media line ∧
        (∀ x ∈ e.tracts.tc, x.id = line → x.dirty = none) ∧ e.tracts.cur = s.dev.tracts.cur ∧ line ∉ e.pwr.segMeta) ∧
    (∀ page p c s, s.dev.ctrPlace page = some p → Tbl.look none s.dev.sec.ctr p = some c → c.dirty.isSome = true →
      ∃ e, exec (.counterLineWriteback page) s = .next { s with dev := e } ∧ Tbl.look none e.sec.ctrMedia p = some c.kept ∧
        Tbl.look none e.sec.ctr p = some { c with dirty := none, segment := none }) ∧
    (∀ tract s, s.dev.gapReady tract = true → 0 < s.dev.internFree .other →
      ∃ e, exec (.gapMove tract) s = .next { s with dev := e } ∧ e.tracts.gaps = s.dev.tracts.gaps ++ [tract] ∧ e.media = s.dev.media) ∧
    (∀ tract s, s.dev.gapReady tract = false → exec (.gapMove tract) s = .next s) ∧
    (∀ tract s, s.dev.tracts.gaps.contains tract = true →
      s.dev.locRoom (s.dev.homeLoc (s.dev.ent tract) (gapStep (s.dev.hdr tract)).2) = true →
      ∃ e, exec (.gapMoveDone tract) s = .next { s with dev := e } ∧ e.tracts.gaps = s.dev.tracts.gaps.filter (· != tract) ∧
        e.hdr tract = gapNext (s.dev.hdr tract) ∧
        (∀ i, lineOfSlot (s.dev.hdr tract) (gapStep (s.dev.hdr tract)).1 = some i → s.dev.isWritten (16384 * tract + i) = false →
          e.media = s.dev.media)) ∧
    (∀ due s, due = dueMultiple s.dev.tether.now (s.dev.fld MTL_HEAT_CFG 7 0 * 10 ^ 9) (Tbl.look 0 s.dev.tether.ticks 8) →
      due < 2 ^ 64 → 0 < s.dev.fld MTL_HEAT_CFG 7 0 →
      ∃ e, exec .heatPeriodAdvance s = .next { s with dev := e } ∧ e.tracts.period = (s.dev.tracts.period + 1) % 2 ^ 16 ∧
        e.tether.now = due) ∧
    (∀ s d, d = s.dev.tick 9 10000000 → s.dev.tracts.freeing = [] → s.dev.tracts.sealed = false →
      s.dev.tracts.floorWarn = false → d.floorOf ≤ d.availU →
      ∃ e, exec .zoneTargetRecompute s = .next { s with dev := e } ∧ e.tracts.zt = d.zoneTarget ∧ e.tracts.migs = s.dev.tracts.migs)) ∧
  ((∀ s, s.dev.keel.ready = true → s.dev.pwr.restored = true →
      ∃ e, exec .wearSummarySave s = .next { s with dev := e } ∧ e = s.dev.ringPut .wear s.dev.wearBody) ∧
    (∀ f x far (s : State),
      far = (((s.dev.tracts.cur.ent.filter fun e => e.2.kind == 1).map fun e => ((s.dev.phys e.2.group e.2.index).wear, e.1)).filter
        fun y => decide (s.dev.fld MTL_WL_CFG 15 0 ≠ 0 ∧ y.1 + s.dev.fld MTL_WL_CFG 15 0 < f.1)) →
      leastOf (s.dev.allocGroups.flatMap fun g => s.dev.freeCands g) = some f → leastOf far = some x →
      (∀ y ∈ far, (s.dev.phys (s.dev.ent y.2).group ((s.dev.ent y.2).index + 1 - 2 * ((s.dev.ent y.2).index % 2))).state ≠ 8) → s.dev.wearBusy ((s.dev.ent x.2).group / 8) = false →
      (∀ q ∈ s.dev.tracts.queued, q.1 ≠ x.2) → (∀ m ∈ s.dev.tracts.migs, m.tract ≠ x.2) →
      ∃ e, exec .wearLevelCheck s = .next { s with dev := e } ∧ e.tracts.queued = s.dev.tracts.queued ++ [(x.2, .wear)]) ∧
    (∀ s, s.dev.fld MTL_WL_CFG 15 0 = 0 → exec .wearLevelCheck s = .next s) ∧
    (∀ s, s.dev.tracts.floorWarn = true → s.dev.tracts.floorPosted + 24 * 3600 * 10 ^ 9 < 2 ^ 64 →
      ∃ e, exec .floorWarnRepeat s = .next { s with dev := e } ∧ e.tracts.floorPosted = e.tether.now ∧
        s.dev.tracts.floorPosted + 24 * 3600 * 10 ^ 9 ≤ e.tether.now) ∧
    (∀ s, s.dev.tracts.sealed = false → s.dev.availU ≤ 1024 + s.dev.pHome → s.dev.stagedList.all (fun e => e.2.translated) = true →
      s.dev.pwr.replayDone = true → (∀ c ∈ s.dev.lci.cmds, c.silent = false) →
      ∃ e, exec .sealDevice s = .next { s with dev := e } ∧ e.tracts.sealed = true) ∧
    (∀ s, 1024 + s.dev.pHome < s.dev.availU → exec .sealDevice s = .next s))

/-- Queue pairs (R290 to R297): enabling an idle pair takes its configuration, keeping the depth it had where 0 is written (R11), and clears its
doorbells and pointers; disabling clears the enable; a pair with nothing in flight becomes idle; a doorbell outside its range sets db_err and
changes no doorbell; a fetch takes the entry at the head pointer into the command table; a completion is written at the CQ tail with the pair's
phase and sequence number. Completes with a next state: qpEnable, qpDisable, qpIdle, sqDoorbell, cqDoorbell, sqFetch, cqEntryWrite. -/
def Obligations.QUEUE_PAIRS : Prop :=
  (∀ h (n : Fin 64) (v : Reg32) s, s.dev.live = true → pairMine s.fuse s.dev h n.val = true → s.dev.qpOn n.val = false →
    (s.dev.qp n.val).idle = true → bit v.toNat 31 = true → bits v.toNat 15 0 ≠ 0 →
    ∃ e, exec (.qpEnable h n v) s = .next { s with dev := e } ∧ e.qpOn n.val = true ∧ e.depth n.val = bits v.toNat 15 0 + 1 ∧
      e.reg (MBX_SQ_DB n.val) = 0 ∧ e.reg (MBX_CQ_DB n.val) = 0 ∧ e.qp n.val = { dbErr := (s.dev.qp n.val).dbErr }) ∧
  (∀ h (n : Fin 64) (v : Reg32) s, s.dev.live = true → pairMine s.fuse s.dev h n.val = true → s.dev.qpOn n.val = false →
    (s.dev.qp n.val).idle = true → bit v.toNat 31 = true → bits v.toNat 15 0 = 0 →
    ∃ e, exec (.qpEnable h n v) s = .next { s with dev := e } ∧ e.depth n.val = s.dev.depth n.val ∧
      e.qpOn n.val = decide (s.dev.fld (MBX_QP_CFG n.val) 15 0 ≠ 0)) ∧
  (∀ h (n : Fin 64) (v : Reg32) s, s.dev.live = true → pairMine s.fuse s.dev h n.val = true → s.dev.qpOn n.val = true →
    bit v.toNat 31 = false → s.dev.lci.cmds = [] → s.dev.lci.locks = [] →
    ∃ e, exec (.qpDisable h n v) s = .next { s with dev := e } ∧ e.qpOn n.val = false ∧ e.lci = s.dev.lci) ∧
  (∀ (n : Fin 64) s, s.dev.pairCmds n.val = [] → (s.dev.qp n.val).out = [] →
    ∃ e, exec (.qpIdle n) s = .next { s with dev := e } ∧ e.qp n.val = { s.dev.qp n.val with idle := true } ∧ e.lci.cmds = s.dev.lci.cmds) ∧
  (∀ h (n : Fin 64) (v : Reg32) s k old hd, s.dev.live = true → pairMine s.fuse s.dev h n.val = true → k = s.dev.depth n.val →
    old = s.dev.fld (MBX_SQ_DB n.val) 15 0 → hd = (s.dev.qp n.val).sqHead → bits v.toNat 15 0 < k →
    (old + k - hd) % k ≤ (bits v.toNat 15 0 + k - hd) % k →
    ∃ e, exec (.sqDoorbell h n v) s = .next { s with dev := e } ∧ e.reg (MBX_SQ_DB n.val) = BitVec.ofNat 32 (bits v.toNat 15 0) ∧
      e.lci = s.dev.lci) ∧
  (∀ h (n : Fin 64) (v : Reg32) s, s.dev.live = true → pairMine s.fuse s.dev h n.val = true → s.dev.depth n.val ≤ bits v.toNat 15 0 →
    ∃ e, exec (.sqDoorbell h n v) s = .next { s with dev := e } ∧ (e.qp n.val).dbErr = true ∧ e.regs = s.dev.regs) ∧
  (∀ h (n : Fin 64) (v : Reg32) s k old, s.dev.live = true → pairMine s.fuse s.dev h n.val = true → k = s.dev.depth n.val →
    old = s.dev.fld (MBX_CQ_DB n.val) 15 0 → bits v.toNat 15 0 < k → (s.dev.qp n.val).out = [] →
    (bits v.toNat 15 0 + k - old) % k ≤ ((s.dev.qp n.val).cqTail + k - old) % k →
    ∃ e, exec (.cqDoorbell h n v) s = .next { s with dev := e } ∧ e.reg (MBX_CQ_DB n.val) = BitVec.ofNat 32 (bits v.toNat 15 0)) ∧
  (∀ (n : Fin 64) entry s, turnOf s.fuse s.dev n.val = true → (s.dev.qp n.val).sqHead + 1 < s.dev.depth n.val →
    ∃ c e, exec (.sqFetch n entry false) s = .next { s with dev := e } ∧ e.lci.cmds = s.dev.lci.cmds ++ [c] ∧ c.entry = entry ∧
      c.handle = n.val * 2 ^ 26 + (s.dev.qp n.val).gen * 2 ^ 16 + (s.dev.qp n.val).sqHead ∧ c.state = 0 ∧
      c.head = pairHead s.fuse s.dev n.val ∧ c.time = s.dev.tether.now ∧ (e.qp n.val).sqHead = (s.dev.qp n.val).sqHead + 1 ∧
      (e.qp n.val).gen = (s.dev.qp n.val).gen ∧ (e.qp n.val).idle = false) ∧
  (∀ (h : Handle) c hd q a s, hd = pairHead s.fuse s.dev (qpOf h.toNat) → q = s.dev.qp (qpOf h.toNat) →
    s.dev.lci.cmds.find? (fun c => c.handle == h.toNat && c.state == 4) = some c → q.out.head? = some h.toNat → s.dev.fwRuns = true →
    s.dev.cqRoom (qpOf h.toNat) = true → (s.dev.head hd).dstate = 0 → (s.dev.head hd).linkUp = true → c.d3hold = false →
    q.cqTail + 1 < s.dev.depth (qpOf h.toNat) → a = s.dev.reg64 (MBX_QP_CQ_BASE_LO (qpOf h.toNat)) + 64 * q.cqTail →
    ∃ e, exec (.cqEntryWrite h false) s = .next { s with dev := e } ∧
      .hostWrite hd a (cqBytes h.toNat c.status q.seq (sqCid c.entry) q.sqHead q.phase c.progress c.result) ∈ e.out ∧
      (e.qp (qpOf h.toNat)).cqTail = q.cqTail + 1 ∧ (e.qp (qpOf h.toNat)).phase = q.phase ∧
      (e.qp (qpOf h.toNat)).seq = (q.seq + 1) % 2 ^ 16 ∧ (e.qp (qpOf h.toNat)).out = q.out.drop 1)

/-- Lists on a stream channel (R61, R254, R262 to R267, R274 to R279): a descriptor block joins those held ahead, a failed fetch faults the list
with code 3; a link goes on at its address and a valid data descriptor starts; an invalid one faults with code 12, one past the limit that does not
end the list with code 2; a Verify line counts; a source line joins its descriptor; a posted write goes out and is followed by its confirmation
read; a failed confirmation faults with code 5. Completes with a next state: descriptorFetch, descriptorStart, sourceLineReturn, outboundWrite,
confirmationComplete, outboundCompletionTimeout, listEnd. -/
def Obligations.STREAM_LISTS : Prop :=
  (∀ (c : Fin 64) descs s, (s.dev.schan c.val).state = .running → (s.dev.schan c.val).kind ≠ .verify →
    (s.dev.schan c.val).lastSeen = false → (s.dev.schan c.val).ahead = [] → (s.dev.schan c.val).listDev = false →
    ∃ e, exec (.descriptorFetch c descs .ok) s = .next { s with dev := e } ∧
      (e.schan c.val).ahead = ((useful (descs.take 16)).zipIdx.map fun x => ((s.dev.schan c.val).next + 32 * x.2, x.1)) ∧
      (e.schan c.val).next = (s.dev.schan c.val).next + 32 * (useful (descs.take 16)).length ∧
      .hostRead (s.dev.schan c.val).head (s.dev.schan c.val).next (min 512 (4096 - (s.dev.schan c.val).next % 4096)) c.val ∈ e.out) ∧
  (∀ (c : Fin 64) descs why s, (s.dev.schan c.val).state = .running → (s.dev.schan c.val).kind ≠ .verify →
    (s.dev.schan c.val).lastSeen = false → (s.dev.schan c.val).ahead = [] → (s.dev.schan c.val).listDev = false →
    (s.dev.schan c.val).pendFault = none → why ≠ .ok → s.dev.noTimeout (s.dev.schan c.val).head why = false →
    ∃ tag e, exec (.descriptorFetch c descs why) s = .next { s with dev := e } ∧ (e.schan c.val).state = .stopping ∧
      (e.schan c.val).pendFault = some (3, (s.dev.schan c.val).next, false, tag) ∧ .aer (s.dev.schan c.val).head why ∈ e.out) ∧
  (∀ (c : Fin 64) a b l s, (s.dev.schan c.val).runs = [] → (s.dev.schan c.val).state = .running → (s.dev.schan c.val).lastSeen = false →
    (s.dev.schan c.val).ahead = (a, b) :: l → (descOf b).link = true → linkOk (descOf b) = true →
    (s.dev.schan c.val).executed + 1 < (s.dev.schan c.val).limit →
    ∃ e, exec (.descriptorStart c) s = .next { s with dev := e } ∧ (e.schan c.val).next = (descOf b).src ∧ (e.schan c.val).ahead = [] ∧
      (e.schan c.val).executed = (s.dev.schan c.val).executed + 1 ∧ (e.schan c.val).runs = []) ∧
  (∀ (c : Fin 64) a b l s, (s.dev.schan c.val).runs = [] → (s.dev.schan c.val).state = .running → (s.dev.schan c.val).lastSeen = false →
    (s.dev.schan c.val).ahead = (a, b) :: l → (descOf b).link = false →
    ((s.dev.schan c.val).executed + 1 < (s.dev.schan c.val).limit ∨ (descOf b).last = true) →
    dataOk s.fuse s.dev (s.dev.schan c.val) (descOf b) = true → rightsOk s.fuse s.dev (s.dev.schan c.val) (descOf b) = true →
    s.dev.windowBreak (s.dev.schan c.val) (descOf b) = false → copyWaits (s.dev.schan c.val) (descOf b) = false →
    s.dev.listRoom (s.dev.schan c.val) = true →
    ((s.dev.schan c.val).lanes = true → s.dev.laneFree c.val (descOf b) = true) → (s.dev.schan c.val).kind ≠ .install →
    ∃ r e, exec (.descriptorStart c) s = .next { s with dev := e } ∧ (e.schan c.val).runs = [r] ∧ r.desc = b ∧ r.addr = a ∧
      r.idx = (s.dev.schan c.val).started ∧ (e.schan c.val).started = (s.dev.schan c.val).started + 1 ∧ (e.schan c.val).ahead = l ∧
      (e.schan c.val).lastSeen = (descOf b).last) ∧
  (∀ (c : Fin 64) a b l s, (s.dev.schan c.val).runs = [] → (s.dev.schan c.val).state = .running → (s.dev.schan c.val).lastSeen = false →
    (s.dev.schan c.val).ahead = (a, b) :: l → (s.dev.schan c.val).limit ≤ (s.dev.schan c.val).executed + 1 →
    ((descOf b).link = true ∨ (descOf b).last = false) → (s.dev.schan c.val).pendFault = none →
    ∃ e, exec (.descriptorStart c) s = .next { s with dev := e } ∧ (e.schan c.val).state = .stopping ∧
      (e.schan c.val).pendFault = some (2, a, (s.dev.schan c.val).listDev, (descOf b).tag)) ∧
  (∀ (c : Fin 64) a b l s, (s.dev.schan c.val).runs = [] → (s.dev.schan c.val).state = .running → (s.dev.schan c.val).lastSeen = false →
    (s.dev.schan c.val).ahead = (a, b) :: l → (descOf b).link = false →
    ((s.dev.schan c.val).executed + 1 < (s.dev.schan c.val).limit ∨ (descOf b).last = true) →
    dataOk s.fuse s.dev (s.dev.schan c.val) (descOf b) = false → (s.dev.schan c.val).pendFault = none →
    ∃ e, exec (.descriptorStart c) s = .next { s with dev := e } ∧ (e.schan c.val).state = .stopping ∧
      (e.schan c.val).pendFault = some (12, a, (s.dev.schan c.val).listDev, (descOf b).tag)) ∧
  (∀ (c : Fin 64) v s, (s.dev.schan c.val).kind = .verify → (s.dev.schan c.val).state = .running →
    (s.dev.schan c.val).vDone < (s.dev.schan c.val).vLines → 0 < (s.dev.schan c.val).reads + s.dev.internFree .stream →
    ∃ e, exec (.sourceLineReturn c v) s = .next { s with dev := e } ∧ (e.schan c.val).vDone = (s.dev.schan c.val).vDone + 1 ∧
      (e.schan c.val).progress = (s.dev.schan c.val).vDone + 1) ∧
  (∀ (c : Fin 64) v r x y z d d1 s, x = s.dev.schan c.val → x.kind = .stream → x.state = .running → x.runs = [r] →
    r.ended = false → x.srcDone r = false → y = (s.dev.pump c.val).schan c.val → 0 < y.reads →
    d = (s.dev.pump c.val).setSchan c.val { y with reads := y.reads - 1 } →
    peekAddr s.fuse d x.head x.key x.base ((descOf r.desc).src / 64 * 64 + 64 * r.src.length) v = (.data z, d1) →
    (d1.schan c.val).srcDone { r with src := r.src ++ [some z] } = false →
    ∃ e, exec (.sourceLineReturn c v) s = .next { s with dev := e } ∧
      (e.schan c.val).runs = (d1.schan c.val).runs.map fun w => if w.idx = r.idx then { r with src := r.src ++ [some z] } else w) ∧
  (∀ (c : Fin 64) r a s, (s.dev.schan c.val).kind = .stream → (s.dev.schan c.val).runs = [r] → r.ended = false → r.confirming = false →
    a = (descOf r.desc).dst + r.sent →
    min (a - a % 64 + 512) (a - a % 4096 + 4096) - a ≤
      (goodBytes (runOut s.fuse s.dev (s.dev.schan c.val) r)).length - r.sent → (s.dev.schan c.val).srcDone r = false →
    ∃ e, exec (.outboundWrite c r.idx) s = .next { s with dev := e } ∧
      .hostWrite (descOf r.desc).head a (((goodBytes (runOut s.fuse s.dev (s.dev.schan c.val) r)).drop r.sent).take
        (min (a - a % 64 + 512) (a - a % 4096 + 4096) - a)) true (descOf r.desc).noSnoop ∈ e.out) ∧
  (∀ (c : Fin 64) r s, (s.dev.schan c.val).kind = .stream → (s.dev.schan c.val).runs = [r] → r.ended = false → r.confirming = true →
    r.fault = 0 →
    ∃ e, exec (.confirmationComplete c) s = .next { s with dev := e } ∧ (e.schan c.val).out = (s.dev.schan c.val).out + r.sent ∧
      (e.schan c.val).progress = (s.dev.schan c.val).progress + 1 ∧ (e.schan c.val).runs = []) ∧
  (∀ (c : Fin 64) why r s, (s.dev.schan c.val).state = .running → (s.dev.schan c.val).runs = [r] → r.ended = false → r.confirming = true →
    why ≠ .ok → s.dev.noTimeout (descOf r.desc).head why = false → (s.dev.schan c.val).pendFault = none →
    ∃ e, exec (.outboundCompletionTimeout c why) s = .next { s with dev := e } ∧ (e.schan c.val).state = .stopping ∧
      (e.schan c.val).pendFault = some (5, r.lastAddr, false, (descOf r.desc).tag) ∧ e.out = .aer (descOf r.desc).head why :: s.dev.out) ∧
  (∀ (c : Fin 64) m s, (s.dev.schan c.val).state = .running → (s.dev.schan c.val).kind = .stream → (s.dev.schan c.val).runs = [] →
    (s.dev.schan c.val).lastSeen = true → (s.dev.schan c.val).pendFault = none →
    s.dev.cmd (s.dev.schan c.val).handle = some m → (∀ c ∈ s.dev.lci.cmds, c.silent = false) →
    ∃ result e, exec (.listEnd c) s = .next { s with dev := e } ∧ (e.schan c.val).state = .ended ∧ (e.schan c.val).status = 0 ∧
      e.Completed (s.dev.schan c.val).handle (if 0 < (s.dev.schan c.val).npoison then 1 else 0) (s.dev.schan c.val).progress result)

/-- A marked line of a page in re-encryption is read and presented to Gondola under the key and base of its tract (R248). Completes with a next
state: reencryptionRewrite. -/
def Obligations.REENCRYPTION : Prop :=
  ∀ (dpa : Dpa) line r x s, line = dpa.toNat / 64 → s.dev.reencOf (line / 64) = some r → bit r.mask (line % 64) = true →
    s.dev.staged line = none → s.dev.wbEnt line = none → gondolaRoom s.fuse s.dev none = true → s.dev.cleanLine line = some x →
    ∃ w e, exec (.reencryptionRewrite dpa) s = .next { s with dev := e } ∧ e = acceptWrite s.fuse s.dev w ∧ w.line = line ∧ w.data = x ∧
      w.key = (s.dev.tractKey (line / 16384)).1 ∧ w.base = (s.dev.tractKey (line / 16384)).2 ∧ w.reenc = true

/-- List commands (R253, R254, R282, R285, R302): each takes a free channel, which runs with the fields of its SQ entry; a Snapshot arms a launch
slot. Completes with a next state: stream, copy, install, verify, snapshot. -/
def Obligations.LIST_COMMANDS : Prop :=
  (∀ (h : Handle) c n s, s.dev.Startable s.fuse h.toNat 1 c → bit (sqFlags c.entry) 0 = false → s.dev.freeChannel = some n →
    ∃ e, exec (.stream h) s = .next { s with dev := e } ∧ e.schan n = chanOf s.dev c ∧ (e.schan n).kind = .stream ∧
      (e.schan n).state = .running ∧ (e.schan n).next = sqField c.entry 16 8) ∧
  (∀ (h : Handle) c n k s, s.dev.Startable s.fuse h.toNat 1 c → bit (sqFlags c.entry) 0 = true → s.dev.freeChannel = some n →
    s.dev.freeSlot = some k →
    ∃ d e, exec (.stream h) s = .next { s with dev := e } ∧ d = s.dev.mapCmd h.toNat (fun y => { y with state := 1 }) ∧
      e = silentOut s.fuse (armStream s.fuse d { c with state := 1 } n k)) ∧
  (∀ (h : Handle) c n s, s.dev.Startable s.fuse h.toNat 2 c → s.dev.freeChannel = some n →
    ∃ e, exec (.copy h) s = .next { s with dev := e } ∧ e.schan n = chanOf s.dev c ∧ (e.schan n).kind = .copy) ∧
  (∀ (h : Handle) c n s, s.dev.Startable s.fuse h.toNat 3 c → s.dev.freeChannel = some n →
    ∃ e, exec (.install h) s = .next { s with dev := e } ∧ e.schan n = chanOf s.dev c ∧ (e.schan n).kind = .install) ∧
  (∀ (h : Handle) c n s, s.dev.Startable s.fuse h.toNat 4 c → s.dev.freeChannel = some n →
    ∃ e, exec (.verify h) s = .next { s with dev := e } ∧ e.schan n = chanOf s.dev c ∧ (e.schan n).kind = .verify ∧
      (e.schan n).vLines = sqField c.entry 24 8) ∧
  (∀ (h : Handle) c k s, s.dev.Startable s.fuse h.toNat 5 c → s.dev.freeSlot = some k →
    ∃ d e, exec (.snapshot h) s = .next { s with dev := e } ∧ d = s.dev.mapCmd h.toNat (fun y => { y with state := 1 }) ∧
      e = silentOut s.fuse (armSnap s.fuse d { c with state := 1 } k))

/-- Stop, dictionaries, Drop, Discard and Sanitize (R92, R222, R255, R272, R302). Completes with a next state: stop, dictionaryRegister, drop,
discard, sanitize. -/
def Obligations.RANGE_COMMANDS : Prop :=
  (∀ (h : Handle) c x s, s.dev.Startable s.fuse h.toNat 6 c →
    s.dev.lci.cmds.find? (fun x => x.handle == sqField c.entry 16 4 && !x.silent) = some x → x.handle ≠ h.toNat → x.state = 1 →
    x.chan = none → x.slot = none → x.stops = [] → sqOpcode x.entry = 2 →
    ∃ e, exec (.stop h) s = .next { s with dev := e } ∧ e.Completed h.toNat 0 1 [] ∧ e.Completed x.handle 0x0301 0 []) ∧
  (∀ (h : Handle) c s, s.dev.Startable s.fuse h.toNat 6 c →
    s.dev.lci.cmds.find? (fun x => x.handle == sqField c.entry 16 4 && !x.silent) = none →
    ∃ e, exec (.stop h) s = .next { s with dev := e } ∧ e.Completed h.toNat 0x0107 0 []) ∧
  (∀ (h : Handle) c s, s.dev.Startable s.fuse h.toNat 7 c → sqField c.entry 24 4 = 0 →
    dictErr s.fuse s.dev c.head (sqField c.entry 32 4) 0 = 0 →
    ∃ e, exec (.dictionaryRegister h) s = .next { s with dev := e } ∧ e.Completed h.toNat 0 1 [] ∧
      e.str.dicts = s.dev.str.dicts.filter fun x => !dictMine s.fuse s.dev c.head (sqField c.entry 32 4) x) ∧
  (∀ (h : Handle) c s, s.dev.Startable s.fuse h.toNat 7 c → 0 < sqField c.entry 24 4 → bit (sqField c.entry 28 1) 0 = false →
    dictErr s.fuse s.dev c.head (sqField c.entry 32 4) (sqField c.entry 24 4) = 0 →
    ∃ tag e, exec (.dictionaryRegister h) s = .next { s with dev := e } ∧
      .hostRead c.head (sqField c.entry 16 8) (min (sqField c.entry 24 4) (4096 - sqField c.entry 16 8 % 4096)) tag ∈ e.out) ∧
  (∀ (h : Handle) c s, s.dev.Startable s.fuse h.toNat 0x10 c → 0 < sqField c.entry 24 8 →
    ∃ e, exec (.drop h) s = .next { s with dev := e } ∧ .command (BitVec.ofNat 32 h.toNat) ∈ e.cache.invOpen ∧
      e.media = s.dev.media ∧ e.gon = s.dev.gon) ∧
  (∀ (h : Handle) c lo hi s, s.dev.Startable s.fuse h.toNat 0x11 c → lo = sqField c.entry 16 8 / 64 → hi = lo + sqField c.entry 24 8 - 1 →
    s.dev.discardHeld lo hi = false →
    ∃ d e, exec (.discard h) s = .next { s with dev := e } ∧ .command (BitVec.ofNat 32 h.toNat) ∈ e.cache.invOpen ∧
      d = (s.dev.mapCmd h.toNat fun y => { y with state := 1 }).mapCmd h.toNat (fun y => { y with state := 2, started := true }) ∧
      e.gon = (discardLines s.fuse d lo hi).gon ∧ e.tracts = (discardLines s.fuse d lo hi).tracts) ∧
  (∀ (h : Handle) c s, s.dev.Startable s.fuse h.toNat 0x12 c → s.dev.sanSlots c.entry = [] → bit (sqField c.entry 34 1) 0 = false →
    sqField c.entry 24 8 = 0 →
    ∃ e, exec (.sanitize h) s = .next { s with dev := e } ∧ e.Completed h.toNat 0 4 (leBytes 8 0))

/-- Key commands (R233 to R237, R252). Completes with a next state: keyLoad, outboundReadCompletion, keyEvict, slotDrainComplete, keyGenerate,
epochAdvance, rekey. -/
def Obligations.KEY_COMMANDS : Prop :=
  (∀ (h : Handle) c s, s.dev.Startable s.fuse h.toNat 0x20 c →
    ∃ tag e, exec (.keyLoad h) s = .next { s with dev := e } ∧
      .hostRead c.head (sqField c.entry 24 8) (min 84 (4096 - sqField c.entry 24 8 % 4096)) tag ∈ e.out ∧ e.sec = s.dev.sec) ∧
  (∀ hd tag (data : List Byte) c k x s, s.dev.lci.cmds.find? (fun c => c.tag == some tag.toNat && decide (c.head = hd) && decide (c.state < 4)) =
      some c → 64 ≤ tag.toNat → s.dev.cmd c.handle = some c → sqOpcode c.entry = 0x20 → c.data = [] → c.piece = 84 → c.stops = [] →
    data.length = 84 → s.dev.Loud → k = sqField c.entry 16 2 → (s.dev.slot k).state = 0 →
    unwrapBlob s.fuse s.dev c.head (data.map (·.toNat)) = some x → x.kind = sqField c.entry 18 1 → s.dev.sec.rekey = none →
    ∃ e, exec (.outboundReadCompletion hd tag data .ok) s = .next { s with dev := e } ∧ e.slot k = x ∧
      e.Completed c.handle 0 1 (leBytes 4 x.title ++ [x.rights])) ∧
  (∀ (h : Handle) c k s, s.dev.Startable s.fuse h.toNat 0x21 c → k = sqField c.entry 16 2 → (s.dev.slot k).state = 1 →
    s.dev.gondolaUses k = false → (∀ w ∈ s.dev.wins, w.key ≠ k) → (∀ x ∈ s.dev.lci.cmds, x.handle ≠ h.toNat → k ∉ x.slots) →
    s.dev.sec.rekey = none →
    ∃ e, exec (.keyEvict h) s = .next { s with dev := e } ∧ e.slot k = {} ∧ e.Completed h.toNat 0 1 []) ∧
  (∀ (slot : Fin 4096) h c s, (s.dev.slot slot.val).state = 2 → s.dev.gondolaUses slot.val = false →
    s.dev.sec.evicting = [(slot.val, h)] → s.dev.cmd h = some c → s.dev.Loud → s.dev.dbg.busy = false →
    (∀ c ∈ s.dev.lci.cmds, sqOpcode c.entry ≠ 0x12) → c.stops = [] →
    ∃ e, exec (.slotDrainComplete slot) s = .next { s with dev := e } ∧ e.slot slot.val = {} ∧ e.Completed h 0 1 []) ∧
  (∀ (h : Handle) c k s, s.dev.Startable s.fuse h.toNat 0x22 c → k = sqField c.entry 16 2 → bit (sqField c.entry 18 1) 0 = false →
    ∃ e, exec (.keyGenerate h) s = .next { s with dev := e } ∧ (e.slot k).state = 1 ∧ (e.slot k).kind = 2 ∧
      (e.slot k).rights = sqField c.entry 20 1 ∧ (e.slot k).record = sqField c.entry 19 1 ∧ (e.slot k).title = sqField c.entry 32 4) ∧
  (∀ (h : Handle) c s, s.dev.Startable s.fuse h.toNat 0x23 c →
    ∃ e, exec (.epochAdvance h) s = .next { s with dev := e } ∧ e.keel.epoch = s.dev.keel.epoch + 1) ∧
  (∀ (h : Handle) c n k t s, s.dev.Startable s.fuse h.toNat 0x24 c → n = sqField c.entry 16 1 % 64 → k = sqField c.entry 18 2 →
    s.dev.sec.rekey = none →
    s.dev.tracts.cur.ent.find? (fun e => decide ((s.dev.win n).base / 2 ^ 20 ≤ e.1 ∧ e.1 ≤ (s.dev.win n).hi ∧ (e.2.kind = 1 ∨ e.2.kind = 2))) =
      some t →
    ∃ r e, exec (.rekey h) s = .next { s with dev := e } ∧ e.sec.rekey = some r ∧ r.win = n ∧ r.slot = k ∧ r.handle = h.toNat ∧
      r.bnd = t.1 * 2 ^ 20 ∧ r.busy = true)

/-- Locks, reports and logs (R304, R390, R391, R394, R408). Completes with a next state: lockAcquire, lockRelease, identify, query, selfTest,
logFreeze, logThaw, logRead, unfinishedRead. -/
def Obligations.REPORT_COMMANDS : Prop :=
  (∀ (h : Handle) c l s, s.dev.Startable s.fuse h.toNat 0x30 c → l = Tbl.look {} s.dev.lci.locks (sqField c.entry 16 2) → l.owner = none →
    ∃ e, exec (.lockAcquire h) s = .next { s with dev := e } ∧ e.Completed h.toNat 0 1 [b2n l.abandoned] ∧
      (Tbl.look {} e.lci.locks (sqField c.entry 16 2)).owner = some (qpOf h.toNat)) ∧
  (∀ (h : Handle) c l q s, s.dev.Startable s.fuse h.toNat 0x30 c → l = Tbl.look {} s.dev.lci.locks (sqField c.entry 16 2) → l.owner = some q →
    bit (sqField c.entry 18 1) 0 = true →
    ∃ e, exec (.lockAcquire h) s = .next { s with dev := e } ∧ e.Completed h.toNat 0x020F 0 [] ∧ e.lci.locks = s.dev.lci.locks) ∧
  (∀ (h : Handle) c l s, s.dev.Startable s.fuse h.toNat 0x31 c → l = Tbl.look {} s.dev.lci.locks (sqField c.entry 16 2) →
    l.owner = some (qpOf h.toNat) → l.waiters = [] →
    ∃ e, exec (.lockRelease h) s = .next { s with dev := e } ∧ e.Completed h.toNat 0 1 [] ∧
      (Tbl.look {} e.lci.locks (sqField c.entry 16 2)).owner = none) ∧
  (∀ (h : Handle) c s, s.dev.Startable s.fuse h.toNat 0x40 c →
    ∃ e, exec (.identify h) s = .next { s with dev := e } ∧ e.Completed h.toNat 0 0 (identifyBytes s.fuse s.dev c.head)) ∧
  (∀ (h : Handle) c x s, s.dev.Startable s.fuse h.toNat 0x41 c →
    s.dev.lci.cmds.find? (fun x => x.handle == sqField c.entry 16 4 && !x.silent) = some x → x.handle ≠ h.toNat → x.state = 1 →
    x.chan = none → sqOpcode x.entry ≠ 0x24 →
    ∃ e, exec (.query h) s = .next { s with dev := e } ∧ e.Completed h.toNat 0 0 ([1, 0, 0, 0, 0, 0, 0, 0] ++ leBytes 8 x.progress)) ∧
  (∀ (h : Handle) c s, s.dev.Startable s.fuse h.toNat 0x42 c →
    ∃ e, exec (.selfTest h) s = .next { s with dev := e } ∧ e.bst.queue = s.dev.bst.queue ++
      (slicesOf s.fuse s.dev (sqField c.entry 16 2) (bit (sqField c.entry 18 1) 0)).map fun n => { num := n, owner := some h.toNat }) ∧
  (∀ (h : Handle) c s, s.dev.Startable s.fuse h.toNat 0x43 c → sqField c.entry 16 1 = 1 → s.dev.pwr.svc = .full → s.dev.testing = false →
    ∃ e, exec (.logFreeze h) s = .next { s with dev := e } ∧ e.log.frozen = true ∧ e.Completed h.toNat 0 1 (leBytes 4 (s.dev.log.next - 1))) ∧
  (∀ (h : Handle) c s, s.dev.Startable s.fuse h.toNat 0x43 c → sqField c.entry 16 1 = 2 →
    ∃ e, exec (.logThaw h) s = .next { s with dev := e } ∧ e.log.frozen = false ∧ e.Completed h.toNat 0 (b2n s.dev.log.frozen) []) ∧
  (∀ (h : Handle) c l s, s.dev.Startable s.fuse h.toNat 0x44 c → l = logRecords s.fuse s.dev (sqField c.entry 24 4) (sqField c.entry 28 4) →
    ∃ e, exec (.logRead h .ok) s = .next { s with dev := e } ∧ e.Completed h.toNat 0 l.length []) ∧
  (∀ (h : Handle) c l s, s.dev.Startable s.fuse h.toNat 0x45 c → l = s.dev.uwlRecords 0 (sqField c.entry 28 4) →
    bit (sqField c.entry 32 1) 0 = false →
    ∃ e, exec (.unfinishedRead h .ok) s = .next { s with dev := e } ∧ e.Completed h.toNat 0 l.length [])

/-- Held commands, opcodes that R302 does not list, and the end of an invalidation (R92, R301, R302). Completes with a next state: heldCommandStart,
invalidOpcode, invalidationDone. -/
def Obligations.COMMAND_EVENTS : Prop :=
  (∀ (h : Handle) c s, s.dev.cmd h.toNat = some c → s.dev.lci.ready = true → s.dev.fwRuns = true → c.state = 1 → c.chan = none →
    c.slot = none → c.stops = [] → sqOpcode c.entry = 0x40 → s.dev.heldBack c = false → startErr s.fuse s.dev c.head c.entry = 0 → s.dev.Loud →
    ∃ e, exec (.heldCommandStart h) s = .next { s with dev := e } ∧ e.Completed h.toNat 0 0 (identifyBytes s.fuse s.dev c.head)) ∧
  (∀ (h : Handle) c s, s.dev.cmd h.toNat = some c → c.state = 1 → s.dev.heldBack c = true → s.dev.Loud →
    exec (.heldCommandStart h) s = .next s) ∧
  (∀ (h : Handle) c s, s.dev.cmd h.toNat = some c → s.dev.lci.ready = true → s.dev.fwRuns = true → c.state = 0 →
    sqOpcode c.entry ∉ opcodes → c.silent = false →
    ∃ e, exec (.invalidOpcode h) s = .next { s with dev := e } ∧ e.Completed h.toNat 0x0101 0 []) ∧
  (∀ (h : Handle) c s, .command h ∈ s.dev.cache.invOpen → s.dev.cmd h.toNat = some c → sqOpcode c.entry = 0x10 → c.stops = [] → s.dev.Loud →
    ∃ e, exec (.invalidationDone (.command h)) s = .next { s with dev := e } ∧ .command h ∉ e.cache.invOpen ∧
      e.Completed h.toNat 0 (sqField c.entry 24 8) []) ∧
  (∀ s, ∃ e, exec (.invalidationDone .host) s = .next { s with dev := silentOut s.fuse e } ∧ e.cache.invBusy = false)

/-- Title windows (R41, R42): a window whose checks pass is enabled; the first that fails is recorded; a locked window takes no write; a disable
clears the enable and is busy until Gondola and the caches hold no line of the window. Completes with a next state: twinEnable, twinDisable,
twinLock, twinDisableDone. -/
def Obligations.TITLE_WINDOWS : Prop :=
  (∀ h (n : Fin 64) (v : Reg32) d s,
    d = s.dev.setReg (LNK_TWIN_CTL n.val) (BitVec.ofNat 32 (2 ^ 8 * bits v.toNat 19 8 + 2 ^ 4 * bits v.toNat 5 4 + 2 ^ 3 * bits v.toNat 3 3 +
      2 * bits v.toNat 2 1)) → s.dev.live = true → activeHead s.fuse s.dev h = true → s.dev.rbit (LNK_TWIN_CTL n.val) 31 = false →
    s.dev.rbit (LNK_TWIN_CTL n.val) 30 = false → s.dev.rbit (LNK_TWIN_CTL n.val) 0 = false → bit v.toNat 0 = true → bit v.toNat 31 = false →
    bits v.toNat 2 1 ≠ 3 → s.dev.sec.rekey = none →
    twinCheck s.fuse d (d.win n.val) = none →
    ∃ e, exec (.twinEnable h n v) s = .next { s with dev := e } ∧ e.rbit (LNK_TWIN_CTL n.val) 0 = true ∧
      e.fld (LNK_TWIN_CTL n.val) 19 8 = bits v.toNat 19 8 ∧ e.fld (LNK_TWIN_CTL n.val) 2 1 = bits v.toNat 2 1) ∧
  (∀ h (n : Fin 64) (v : Reg32) d r s,
    d = s.dev.setReg (LNK_TWIN_CTL n.val) (BitVec.ofNat 32 (2 ^ 8 * bits v.toNat 19 8 + 2 ^ 4 * bits v.toNat 5 4 + 2 ^ 3 * bits v.toNat 3 3 +
      2 * bits v.toNat 2 1)) → s.dev.live = true → activeHead s.fuse s.dev h = true → s.dev.rbit (LNK_TWIN_CTL n.val) 31 = false →
    s.dev.rbit (LNK_TWIN_CTL n.val) 30 = false → s.dev.rbit (LNK_TWIN_CTL n.val) 0 = false → bit v.toNat 0 = true → bit v.toNat 31 = false →
    bits v.toNat 2 1 ≠ 3 →
    twinCheck s.fuse d (d.win n.val) = some r →
    exec (.twinEnable h n v) s = .next { s with dev := twinRefuse s.fuse d (d.win n.val) r }) ∧
  (∀ h (n : Fin 64) (v : Reg32) s, s.dev.live = true → activeHead s.fuse s.dev h = true → s.dev.rbit (LNK_TWIN_CTL n.val) 31 = false →
    s.dev.rbit (LNK_TWIN_CTL n.val) 30 = false → s.dev.rbit (LNK_TWIN_CTL n.val) 0 = true → bit v.toNat 0 = false → bit v.toNat 31 = false →
    s.dev.gon.staged = [] →
    ∃ e, exec (.twinDisable h n v) s = .next { s with dev := e } ∧ e.rbit (LNK_TWIN_CTL n.val) 0 = false ∧
      e.rbit (LNK_TWIN_CTL n.val) 30 = true ∧ .window n ∈ e.cache.invOpen) ∧
  (∀ h (n : Fin 64) (v : Reg32) s, s.dev.live = true → activeHead s.fuse s.dev h = true → s.dev.rbit (LNK_TWIN_CTL n.val) 31 = false →
    s.dev.rbit (LNK_TWIN_CTL n.val) 30 = false → s.dev.rbit (LNK_TWIN_CTL n.val) 0 = true → bit v.toNat 0 = true → bit v.toNat 31 = true →
    ∃ e, exec (.twinLock h n v) s = .next { s with dev := e } ∧ e.rbit (LNK_TWIN_CTL n.val) 31 = true ∧ e.rbit (LNK_TWIN_CTL n.val) 0 = true) ∧
  (∀ h (n : Fin 64) (v : Reg32) s, s.dev.rbit (LNK_TWIN_CTL n.val) 31 = true → exec (.twinEnable h n v) s = .next s ∧
    exec (.twinDisable h n v) s = .next s ∧ exec (.twinLock h n v) s = .next s) ∧
  (∀ (n : Fin 64) s, s.dev.rbit (LNK_TWIN_CTL n.val) 30 = true → s.dev.gondolaIn (s.dev.win n.val).lo (s.dev.win n.val).hi = false →
    s.dev.cache.invOpen.contains (.window n) = false → s.dev.dbg.busy = false → (∀ c ∈ s.dev.lci.cmds, sqOpcode c.entry ≠ 0x12) → s.dev.Loud →
    ∃ e, exec (.twinDisableDone n) s = .next { s with dev := e } ∧ e.rbit (LNK_TWIN_CTL n.val) 30 = false)

/-- The register mailbox (R307, R329, R391, R394): each command begins with the mailbox busy for its head, has its effect, and ends with its status;
Image Select is busy until the state record is verified. Completes with a next state: getStatus, readLog, readUnfinished, imageWrite, imageSelect,
rmIdentify, queueClear. -/
def Obligations.REGISTER_MAILBOX : Prop :=
  (∀ h d s, s.dev.MailboxFree s.fuse h → d = s.dev.rmGo h 1 →
    ∃ e, exec (.getStatus h) s = .next { s with dev := e } ∧ e.lci.rmBusy = false ∧ e.lci.rmStatus = 0 ∧
      e.reg (MBX_RM_ARG 0) = BitVec.ofNat 32 (svcState s.dev) ∧ e.reg (MBX_RM_ARG 2) = BitVec.ofNat 32 s.dev.pwr.step ∧
      e.reg (MBX_RM_ARG 3) = BitVec.ofNat 32 (if s.dev.images.running < 2 then s.dev.images.running else 0xFF)) ∧
  (∀ h d s, s.dev.MailboxFree s.fuse h → d = s.dev.rmGo h 2 → 0 < d.rmArg 1 → d.rmArg 1 ≤ 4 →
    ∃ e, exec (.readLog h) s = .next { s with dev := e } ∧ e.lci.rmBusy = false ∧ e.lci.rmStatus = 0 ∧
      e.regs = (d.putWords (MBX_RM_DATA 0) (logRecords s.fuse d (d.rmArg 0) (d.rmArg 1)).flatten).regs) ∧
  (∀ h d s, s.dev.MailboxFree s.fuse h → d = s.dev.rmGo h 2 → d.rmArg 1 = 0 →
    ∃ e, exec (.readLog h) s = .next { s with dev := e } ∧ e.lci.rmBusy = false ∧ e.lci.rmStatus = 0x0102) ∧
  (∀ h d s, s.dev.MailboxFree s.fuse h → d = s.dev.rmGo h 3 → 0 < d.rmArg 1 → d.rmArg 1 ≤ 4 →
    ∃ e, exec (.readUnfinished h) s = .next { s with dev := e } ∧ e.lci.rmBusy = false ∧ e.lci.rmStatus = 0 ∧
      e.regs = ((d.putWords (MBX_RM_DATA 0) (d.uwlRecords (d.rmArg 0) (d.rmArg 1)).flatten).rmRes 2 d.keel.uwlEntries.length).regs) ∧
  (∀ h d s, s.dev.MailboxFree s.fuse h → d = s.dev.rmGo h 4 → d.rmArg 0 < 2 → d.rmArg 0 ≠ d.images.running → d.rmArg 1 % 256 = 0 →
    d.rmArg 1 < 2 ^ 23 →
    ∃ e, exec (.imageWrite h) s = .next { s with dev := e } ∧ e.lci.rmBusy = false ∧ e.lci.rmStatus = 0 ∧
      e.images = (d.imagePoke (d.rmArg 0) (d.rmArg 1) d.rmData).images) ∧
  (∀ h d s, s.dev.MailboxFree s.fuse h → d = s.dev.rmGo h 4 → d.rmArg 0 = d.images.running →
    ∃ e, exec (.imageWrite h) s = .next { s with dev := e } ∧ e.lci.rmStatus = 0x0102 ∧ e.images = s.dev.images) ∧
  (∀ h d s, s.dev.MailboxFree s.fuse h → s.dev.keel.ready = true → d = s.dev.rmGo h 5 → d.rmArg 0 < 2 → imageOk s.fuse d (d.rmArg 0) = true →
    ∃ e, exec (.imageSelect h) s = .next { s with dev := e } ∧ e.keel.sel = d.rmArg 0 ∧ e.lci.rmBusy = true ∧ e.lci.rmStatus = 0) ∧
  (∀ h d s, s.dev.MailboxFree s.fuse h → d = s.dev.rmGo h 6 →
    ∃ e, exec (.rmIdentify h) s = .next { s with dev := e } ∧ e.lci.rmBusy = false ∧ e.lci.rmStatus = 0 ∧
      e.regs = (d.putWords (MBX_RM_ARG 0) (identifyBytes s.fuse d h ++ [0, 0, 0, 0])).regs) ∧
  (∀ h d s, s.dev.MailboxFree s.fuse h → d = s.dev.rmGo h 7 →
    ∃ e, exec (.queueClear h) s = .next { s with dev := e } ∧ e.lci.rmBusy = false ∧ e.lci.rmStatus = 0 ∧
      e = silentOut s.fuse ((clearPairs s.fuse d (pairsOf s.fuse d h) 8).rmEnd 0))

/-- What each read command of a head's CXL mailbox answers (R30, R38, R49, R308). Completes with a next state: cxlIdentify,
backgroundOperationStatus, getEventRecords, getEventInterruptPolicy, getFwInfo, getTimestamp, getSupportedLogs, getLog, identifyMemoryDevice,
getPartitionInfo, getLsa, getHealthInfo, getAlertConfiguration, getShutdownState, getPoisonList, unsupportedMailboxCommand. -/
def Obligations.CXL_MAILBOX_READS : Prop :=
  ∀ h s, s.dev.MailOpen s.fuse h →
    (∃ e, exec (.cxlIdentify h) s = .next { s with dev := e } ∧ e.out = .mailbox h 0 (cxlIdentity s.fuse) :: s.dev.out) ∧
    (∃ e, exec (.backgroundOperationStatus h) s = .next { s with dev := e } ∧ e.out = .mailbox h 0 (bgStatus s.dev) :: s.dev.out) ∧
    (∀ log : Fin 4, ∃ e, exec (.getEventRecords h log) s = .next { s with dev := e } ∧
      e.out = .mailbox h 0 (eventsBytes (s.dev.head h) log.val) :: s.dev.out ∧ e.head h = s.dev.head h) ∧
    (∃ e, exec (.getEventInterruptPolicy h) s = .next { s with dev := e } ∧
      e.out = .mailbox h 0 (leBytes 4 (s.dev.head h).evPolicy) :: s.dev.out) ∧
    (∃ e, exec (.getFwInfo h) s = .next { s with dev := e } ∧ e.out = .mailbox h 0 (fwInfo s.dev) :: s.dev.out) ∧
    (∃ e, exec (.getTimestamp h) s = .next { s with dev := e } ∧
      e.out = .mailbox h 0 (leBytes 8 (if (s.dev.head h).tsSet then hostTime (s.dev.head h) s.dev.tether.now else 0)) :: s.dev.out) ∧
    (∃ e, exec (.getSupportedLogs h) s = .next { s with dev := e } ∧ e.out = .mailbox h 0 logsBytes :: s.dev.out) ∧
    (∃ e, exec (.getLog h) s = .next { s with dev := e } ∧ e.out = .mailbox h 0 celBytes :: s.dev.out) ∧
    (∃ e, exec (.identifyMemoryDevice h) s = .next { s with dev := e } ∧ e.out = .mailbox h 0 (memoryBytes s.fuse s.dev h) :: s.dev.out) ∧
    (∃ e, exec (.getPartitionInfo h) s = .next { s with dev := e } ∧ e.out = .mailbox h 0 (partitionBytes s.fuse s.dev h) :: s.dev.out) ∧
    (∀ off len, off + len ≤ 16384 → ∃ e, exec (.getLsa h off len) s = .next { s with dev := e } ∧
      e.out = .mailbox h 0 (lsaBytes s.dev h off len) :: s.dev.out) ∧
    (∀ off len, 16384 < off + len → ∃ e, exec (.getLsa h off len) s = .next { s with dev := e } ∧ e.out = .mailbox h 2 [] :: s.dev.out) ∧
    (∃ e a b c x y, exec (.getHealthInfo h) s = .next { s with dev := e } ∧ e.out = .mailbox h 0 ([a, b, c, min 100 (s.dev.wearMax * 100 / 200000)] ++
      leBytes 2 (twos64 ((s.dev.therm.tj : Int) / 4 - 64)) ++ leBytes 4 s.dev.keel.dirty ++ leBytes 4 x ++ leBytes 4 y) :: s.dev.out) ∧
    (∃ e, exec (.getAlertConfiguration h) s = .next { s with dev := e } ∧
      e.out = .mailbox h 0 (leBytes 4 (s.dev.head h).alertCfg) :: s.dev.out) ∧
    (∃ e, exec (.getShutdownState h) s = .next { s with dev := e } ∧ e.out = .mailbox h 0 [(s.dev.head h).shutdownState] :: s.dev.out) ∧
    ((s.dev.head h).poisonMore = false → ∃ e, exec (.getPoisonList h) s = .next { s with dev := e } ∧
      e.out = .mailbox h 0 (poisonBytes (s.dev.head h) 0) :: s.dev.out) ∧
    (∀ op : BitVec 16, op.toNat ∉ mailOpcodes → ∃ e, exec (.unsupportedMailboxCommand h op) s = .next { s with dev := e } ∧
      e.out = .mailbox h 3 [] :: s.dev.out)

/-- What each writing command of a head's CXL mailbox changes (R33, R49, R180, R308, R329, R379, R383). Completes with a next state:
clearEventRecords, setEventInterruptPolicy, transferFw, activateFw, setTimestamp, setLsa, setAlertConfiguration, setShutdownState, injectPoison,
clearPoison. -/
def Obligations.CXL_MAILBOX_WRITES : Prop :=
  ∀ h s, s.dev.MailOpen s.fuse h →
    (∀ log : Fin 4, ∃ e, exec (.clearEventRecords h log true []) s = .next { s with dev := e } ∧
      ((e.head h).log (logName log.val)).recs = [] ∧ e.out = .mailbox h 0 [] :: s.dev.out) ∧
    (∀ p, ∃ e, exec (.setEventInterruptPolicy h p) s = .next { s with dev := e } ∧ e.head h = { s.dev.head h with evPolicy := p.toNat } ∧
      e.out = .mailbox h 0 [] :: s.dev.out) ∧
    (∀ (slot : Fin 2) off (data : List Byte), slot.val ≠ s.dev.images.running → off + data.length ≤ 2 ^ 23 →
      ∃ e, exec (.transferFw h slot off data) s = .next { s with dev := e } ∧ e.lci.bgOp = 0x0201 ∧
        e.images = (s.dev.imagePoke slot.val off (data.map (·.toNat))).images ∧ e.out = .mailbox h 1 [] :: s.dev.out) ∧
    (∀ (slot : Fin 2) off (data : List Byte), slot.val = s.dev.images.running →
      ∃ e, exec (.transferFw h slot off data) s = .next { s with dev := e } ∧ e.images = s.dev.images ∧ e.out = .mailbox h 0xB [] :: s.dev.out) ∧
    (∀ slot : Fin 2, imageOk s.fuse s.dev slot.val = true →
      ∃ e, exec (.activateFw h slot) s = .next { s with dev := e } ∧ e.keel.sel = slot.val) ∧
    (∀ v, ∃ e, exec (.setTimestamp h v) s = .next { s with dev := e } ∧ (e.head h).tsSet = true ∧
      (e.head h).tsOffset = (v.toNat : Int) - s.dev.tether.now ∧ e.out = .mailbox h 0 [] :: s.dev.out) ∧
    (∀ off (data : List Byte), off + data.length ≤ 16384 → data ≠ [] →
      ∃ d e, exec (.setLsa h off data) s = .next { s with dev := e } ∧ e = (lsaWrites h off (data.map (·.toNat))).foldl Dev.keelPut d ∧
        d = s.dev.icu (67 + hIdx h)) ∧
    (∀ v, ∃ e, exec (.setAlertConfiguration h v) s = .next { s with dev := e } ∧ e.head h = { s.dev.head h with alertCfg := v.toNat } ∧
      e.out = .mailbox h 0 [] :: s.dev.out) ∧
    (∀ v, ∃ e, exec (.setShutdownState h v) s = .next { s with dev := e } ∧ e.head h = { s.dev.head h with shutdownState := v.toNat } ∧
      e.out = .mailbox h 0 [] :: s.dev.out) ∧
    (∀ (dpa : Dpa) i, placeOf s.fuse s.dev h dpa.toNat = .scratch i →
      ∃ e, exec (.injectPoison h dpa) s = .next { s with dev := e } ∧ i ∈ e.cache.scrPoison ∧ Tbl.look 11 e.cache.scrCause i = 4 ∧
        e.out = .mailbox h 0 [] :: s.dev.out) ∧
    (∀ (dpa : Dpa) data i, placeOf s.fuse s.dev h dpa.toNat = .scratch i →
      ∃ e, exec (.clearPoison h dpa data) s = .next { s with dev := e } ∧ i ∉ e.cache.scrPoison ∧ Tbl.look 0 e.cache.scr i = data ∧
        e.out = .mailbox h 0 [] :: s.dev.out) ∧
    (∀ dpa : Dpa, placeOf s.fuse s.dev h dpa.toNat = .nothing →
      ∃ e, exec (.injectPoison h dpa) s = .next { s with dev := e } ∧ e.out = .mailbox h 0xF [] :: s.dev.out ∧ e.cache = s.dev.cache)

/-- Links and decoders (R29, R31, R36, R39, R50, R52, R55): a trained link is up in L0 at its rate and width; each power state has its encoding; a
lost port of a bonded pair is latched; a decoder that keeps the rules is committed with its range and a locked one stays; GPF phase 2 is answered
once no earlier write waits; an IDE stream is secured by a key over the Secured session of the head's DOE alone, and goes down with a MAC failure;
DOE answers. Completes with a next state: linkTrained, linkStateChange, bondedPortLost, hdmDecoderCommit, hdmDecoderUncommit, gpfPhase2Request,
ideKmMessage, ideMacFailure, doeRequest. -/
def Obligations.LINKS_AND_DECODERS : Prop :=
  (∀ h (rate : Fin 8) (width : Fin 32) s, s.dev.live = true → presentHead s.fuse h = true → activeHead s.fuse s.dev h = true →
    s.dev.pwr.downing = none → s.dev.pwr.flush = none → (s.dev.head h).d3cold = false → 2 ≤ rate.val → rate.val ≤ 5 → widthCode width.val ≠ 0 →
    width.val ≤ s.dev.maxWidth h →
    ∃ e, exec (.linkTrained h rate width) s = .next { s with dev := e } ∧ (e.head h).linkUp = true ∧ (e.head h).rate = rate.val ∧
      (e.head h).width = widthCode width.val ∧ (e.head h).lstate = 0 ∧ (e.head h).cxlMem = true ∧
      (e.head h).flit256 = decide (4 ≤ rate.val)) ∧
  (∀ h s, (s.dev.head h).linkUp = true → s.dev.pwr.portLost = false →
    (∃ e, exec (.linkStateChange h .l0) s = .next { s with dev := e } ∧
      e.head h = { s.dev.head h with lstate := 0, width := (s.dev.head h).fullWidth }) ∧
    (∃ e, exec (.linkStateChange h .l11) s = .next { s with dev := e } ∧ e.head h = { s.dev.head h with lstate := 2 }) ∧
    (∃ e, exec (.linkStateChange h .l12) s = .next { s with dev := e } ∧ e.head h = { s.dev.head h with lstate := 3 }) ∧
    (∃ e, exec (.linkStateChange h .down) s = .next { s with dev := e } ∧ (e.head h).linkUp = false ∧ (e.head h).lstate = 4 ∧
      (e.head h).cxlMem = false)) ∧
  (∀ h s, portMode s.fuse s.dev = .bonded → (s.dev.head (otherHead h)).linkUp = true → s.dev.pwr.portLost = false →
    ∃ e, exec (.bondedPortLost h) s = .next { s with dev := e } ∧ e.pwr = { s.dev.pwr with portLost := true } ∧
      e.a.resetSince = false ∧ e.b.resetSince = false) ∧
  (∀ h (k : Fin 4) base size skip lock ways gran pos s, s.dev.live = true → presentHead s.fuse h = true →
    (Tbl.look {} (s.dev.head h).decoders k.val).committed = false → ways ∈ [1, 2, 4, 8] →
    gran ∈ [256, 512, 1024, 2048, 4096, 8192, 16384] → pos < ways → base % 2 ^ 28 = 0 → size % 2 ^ 28 = 0 → size ≠ 0 →
    (∀ e ∈ (s.dev.head h).decoders, e.1 ≠ k.val → e.2.committed = true → base + size ≤ e.2.base ∨ e.2.base + e.2.size ≤ base) →
    reachesOther s.fuse s.dev h (decoderDpa s.fuse s.dev h k.val skip) (decoderDpa s.fuse s.dev h k.val skip + size / ways) = false →
    ∃ e, exec (.hdmDecoderCommit h k base size skip lock ⟨ways, gran, pos⟩) s = .next { s with dev := e } ∧
      Tbl.look {} (e.head h).decoders k.val = ⟨base, size, skip, decoderDpa s.fuse s.dev h k.val skip, true, false, lock, ways, gran, pos⟩) ∧
  (∀ h (k : Fin 4) base size skip lock ways gran pos s, s.dev.live = true → presentHead s.fuse h = true →
    (Tbl.look {} (s.dev.head h).decoders k.val).committed = false → base % 2 ^ 28 ≠ 0 ∨ size % 2 ^ 28 ≠ 0 ∨ size = 0 ∨
      ways ∉ [1, 2, 4, 8] ∨ gran ∉ [256, 512, 1024, 2048, 4096, 8192, 16384] ∨ ways ≤ pos →
    ∃ e, exec (.hdmDecoderCommit h k base size skip lock ⟨ways, gran, pos⟩) s = .next { s with dev := e } ∧
      (Tbl.look {} (e.head h).decoders k.val).committed = false ∧ (Tbl.look {} (e.head h).decoders k.val).err = true) ∧
  (∀ h (k : Fin 4) x s, Tbl.look {} (s.dev.head h).decoders k.val = x → x.committed = true → x.lock = false →
    ∃ e, exec (.hdmDecoderUncommit h k) s = .next { s with dev := e } ∧
      Tbl.look {} (e.head h).decoders k.val = { x with committed := false, err := false }) ∧
  (∀ h (k : Fin 4) s, (Tbl.look {} (s.dev.head h).decoders k.val).lock = true → exec (.hdmDecoderUncommit h k) s = .next s) ∧
  (∀ h s, (s.dev.head h).linkUp = true → s.dev.gon.staged = [] → s.dev.gon.wb = [] → s.dev.gon.gpfWait = [] →
    ∃ e, exec (.gpfPhase2Request h) s = .next { s with dev := e } ∧ e.out = .gpfDone h :: s.dev.out ∧ e.gon.gpfWait = []) ∧
  (∀ h x n u g t s, (s.dev.head h).linkUp = true → (n, some g) ∈ s.dev.gon.staged ++ s.dev.gon.wb → .host x t u ∈ g.acks →
    u ≤ s.dev.tether.now →
    ∃ e, exec (.gpfPhase2Request h) s = .next { s with dev := e } ∧ (h, s.dev.tether.now) ∈ e.gon.gpfWait ∧ e.gon.gpf = true) ∧
  (∀ h set (stream : Byte) s, (s.dev.head h).linkUp = true → (s.dev.head h).doeOpen = true → stream.toNat ≤ 5 →
    ∃ e, exec (.ideKmMessage h set stream) s = .next { s with dev := e } ∧ 2 * stream.toNat + b2n set ∈ (e.head h).ideKeys ∧
      (stream = 0 → (e.head h).ideOn = true) ∧ (stream ≠ 0 → stream.toNat ∈ (e.head h).ideSecure)) ∧
  (∀ h set (stream : Byte) s, (s.dev.head h).doeOpen = false → exec (.ideKmMessage h set stream) s = .next s) ∧
  (∀ h (stream : Byte) k s, (s.dev.head h).linkUp = true → k ∈ (s.dev.head h).ideKeys → k / 2 = stream.toNat →
    ∃ e, exec (.ideMacFailure ⟨h, stream⟩) s = .next { s with dev := e } ∧ (e.head h).ideOn = false ∧ (e.head h).ideSecure = [] ∧
      (e.head h).linkUp = false) ∧
  (∀ h s, (s.dev.head h).linkUp = true →
    (∃ e, exec (.doeRequest h .discovery 0) s = .next { s with dev := e } ∧ e.out = .doe h .discovery [1, 0, 0, 1] :: s.dev.out) ∧
    (∀ arg : Byte, ∃ e b, exec (.doeRequest h .cmaSpdm arg) s = .next { s with dev := e } ∧ e.out = .doe h .cmaSpdm b :: s.dev.out ∧
      (e.head h).doeOpen = (s.dev.head h).doeOpen) ∧
    (∃ e, exec (.doeRequest h .securedSpdm 0) s = .next { s with dev := e } ∧ (e.head h).doeOpen = true) ∧
    (∃ e, exec (.doeRequest h .securedSpdm 1) s = .next { s with dev := e } ∧ (e.head h).doeOpen = false) ∧
    (∀ arg, ∃ e, exec (.doeRequest h .other arg) s = .next { s with dev := e } ∧ e.out = s.dev.out))

/-- Device states and resets of a head (R56 to R59): D3hot and D0 set the state; D3cold, a conventional reset, FLR and CXL Reset clear the queue
pairs of the head, and each clears what R57 lists for it: the decoders and keys of links go with a conventional reset and stay with FLR and CXL
Reset; a device reset begins a shutdown flush with the links down; D1 and D2 are ignored. Completes with a next state: d3hotEntry, d0Return,
d3coldEntry, conventionalReset, flr, cxlReset, deviceReset, unusedDStateWrite. -/
def Obligations.HEAD_STATES_AND_RESETS : Prop :=
  (∀ h s, activeHead s.fuse s.dev h = true → (s.dev.head h).dstate = 0 → (s.dev.head h).d3cold = false →
    ∃ e, exec (.d3hotEntry h) s = .next { s with dev := e } ∧ e.head h = { s.dev.head h with dstate := 3 }) ∧
  (∀ h s, activeHead s.fuse s.dev h = true → (s.dev.head h).d3cold = false →
    ∃ e, exec (.d0Return h) s = .next { s with dev := e } ∧ e.head h = { s.dev.head h with dstate := 0, msixOn := true }) ∧
  (∀ h s, activeHead s.fuse s.dev h = true → (s.dev.head h).dstate = 3 → (s.dev.head h).d3cold = false →
    ∃ e, exec (.d3coldEntry h) s = .next { s with dev := e } ∧ (e.head h).d3cold = true ∧ (e.head h).dstate = 3 ∧
      (e.head h).decoders = [] ∧ (e.head h).ideKeys = [] ∧ (e.head h).perstHigh = false ∧ ∀ n ∈ pairsOf s.fuse s.dev h, e.qp n = {}) ∧
  (∀ h s, s.dev.live = true → presentHead s.fuse h = true → (s.dev.head h).d3cold = false →
    (∃ e, exec (.conventionalReset h) s = .next { s with dev := e } ∧ (e.head h).decoders = [] ∧ (e.head h).ideKeys = [] ∧
      (e.head h).dstate = 0 ∧ (e.head h).resetSince = true ∧ (e.head h).funcMask = false ∧ (e.head h).doeOpen = false ∧
      ∀ n ∈ pairsOf s.fuse s.dev h, e.qp n = {}) ∧
    (∃ e, exec (.flr h) s = .next { s with dev := e } ∧ (e.head h).decoders = (s.dev.head h).decoders ∧
      (e.head h).ideKeys = (s.dev.head h).ideKeys ∧ (e.head h).linkUp = (s.dev.head h).linkUp ∧ (e.head h).dstate = 0 ∧
      (e.head h).doeOpen = false ∧ ∀ n ∈ pairsOf s.fuse s.dev h, e.qp n = {}) ∧
    (∃ e, exec (.cxlReset h) s = .next { s with dev := e } ∧ e.head h = s.dev.head h ∧
      ∀ n ∈ pairsOf s.fuse s.dev h, e.qp n = {})) ∧
  (∀ h (v : Reg32) s, presentHead s.fuse h = true → bits v.toNat 31 16 = 0x5D2A → bit v.toNat 0 = true → s.dev.pwr.downing = none →
    s.dev.pwr.svc = .bringup ∨ s.dev.pwr.svc = .reduced ∨ s.dev.pwr.svc = .full →
    ∃ e f, exec (.deviceReset h v) s = .next { s with dev := e } ∧ e.pwr.svc = .flush ∧ e.pwr.flush = some f ∧ f.why = .device ∧
      f.ripcord = false ∧ f.step = 2 ∧ e.a.linkUp = false ∧ e.b.linkUp = false ∧ e.lci.cmds = []) ∧
  (∀ h (v : Reg32) s, ¬ (bits v.toNat 31 16 = 0x5D2A ∧ bit v.toNat 0 = true) → exec (.deviceReset h v) s = .next s) ∧
  (∀ h k s, exec (.unusedDStateWrite h k) s = .next s)

/-- Core pairs and semaphores (R309 to R314, R316): a failure is declared only of a pair that runs; the failed pair is fenced, its semaphores are
abandoned and the standby takes over, or firmware stops where there is none; a pet is taken only with its key; a semaphore is acquired by one
requester, and released by its owner alone. Completes with a next state: lockstepMismatch, coreMemoryUncorrectable, watchdogExpiry, watchdogPet,
failoverTakeover, standbyPairFail, checkpoint, semaphoreAcquire, semaphoreRelease. -/
def Obligations.CORE_PAIRS_AND_SEMAPHORES : Prop :=
  (∀ p s, (s.dev.pair p).runs = true →
    (∃ e, exec (.lockstepMismatch p) s = .next { s with dev := e } ∧ (e.pair p).fenced = true ∧ (e.pair p).runs = false ∧
      (e.pair p).stack = [] ∧ e.cores.cause = 1) ∧
    (∃ e, exec (.coreMemoryUncorrectable p) s = .next { s with dev := e } ∧ (e.pair p).fenced = true ∧ (e.pair p).runs = false ∧
      e.cores.cause = 2 ∧ ∀ n, (s.dev.sem n).owner = pIdx p + 1 → e.sem n = ⟨0, true⟩)) ∧
  (∀ p s, (s.dev.pair p).runs = true → (s.dev.pair p).halted = false → s.dev.live = true → (s.dev.pair p).pet + 16000 < 2 ^ 64 →
    ∃ e, exec (.watchdogExpiry p) s = .next { s with dev := e } ∧ (e.pair p).fenced = true ∧ e.cores.cause = 3 ∧
      (s.dev.pair p).pet + 16000 ≤ e.tether.now) ∧
  (∀ p s, p = s.dev.cores.active → (s.dev.pair p).runs = true → s.dev.cores.standbyOk = true →
    (s.dev.pair (otherPair p)).runs = true →
    ∃ e, exec (.lockstepMismatch p) s = .next { s with dev := e } ∧ e.cores.takeover = true ∧ e.cores.dead = s.dev.cores.dead) ∧
  (∀ p s, p = s.dev.cores.active → (s.dev.pair p).runs = true → (s.dev.pair (otherPair p)).runs = false →
    ∃ e, exec (.lockstepMismatch p) s = .next { s with dev := e } ∧ e.cores.dead = true ∧ e.pwr.drive = true) ∧
  (∀ p (v : Reg32) s, bits v.toNat 31 16 = 0x7A31 → bit v.toNat 0 = true → (s.dev.pair p).runs = true →
    ∃ e, exec (.watchdogPet p v) s = .next { s with dev := e } ∧ e.pair p = { s.dev.pair p with pet := s.dev.tether.now } ∧
      e.pair (otherPair p) = s.dev.pair (otherPair p)) ∧
  (∀ p (v : Reg32) s, bits v.toNat 31 16 ≠ 0x7A31 → exec (.watchdogPet p v) s = .next s) ∧
  (∀ p s, p = s.dev.cores.active → s.dev.cores.takeover = true → (s.dev.pair (otherPair p)).halted = false →
    ∃ e, exec .failoverTakeover s = .next { s with dev := e } ∧
      e.cores = { s.dev.cores with active := otherPair p, standbyOk := false, takeover := false, failovers := min (s.dev.cores.failovers + 1) 255 }) ∧
  (∀ s, s.dev.cores.standbyOk = true → (s.dev.pair (otherPair s.dev.cores.active)).runs = false →
    ∃ e, exec .standbyPairFail s = .next { s with dev := e } ∧ e.cores = { s.dev.cores with standbyOk := false }) ∧
  (∀ s, s.dev.fwRuns = true → s.dev.live = true → (s.dev.pair (otherPair s.dev.cores.active)).runs = true →
    (s.dev.pair (otherPair s.dev.cores.active)).halted = false →
    ∃ e, exec .checkpoint s = .next { s with dev := e } ∧
      e.cores = { s.dev.cores with lastCheckpoint := s.dev.tether.now, standbyOk := true }) ∧
  (∀ p (n : Fin 64) s, (s.dev.pair p).runs = true →
    ∃ e, exec (.semaphoreAcquire p n) s = .next { s with dev := e } ∧
      e.sem n.val = (if (s.dev.sem n.val).owner = 0 then ⟨pIdx p + 1, false⟩ else s.dev.sem n.val) ∧
      ∀ m, m ≠ n.val → e.sem m = s.dev.sem m) ∧
  (∀ p (n : Fin 64) s, (s.dev.pair p).runs = true →
    ((s.dev.sem n.val).owner = pIdx p + 1 → ∃ e, exec (.semaphoreRelease p n) s = .next { s with dev := e } ∧ (e.sem n.val).owner = 0 ∧
      e.regs = s.dev.regs) ∧
    ((s.dev.sem n.val).owner ≠ pIdx p + 1 → ∃ e, exec (.semaphoreRelease p n) s = .next { s with dev := e } ∧ e.sems = s.dev.sems ∧
      e.rbit ICU_STS 30 = true))

/-- The interrupt controller and MSI-X (R317 to R323, R327): an edge sets the source's pending bit, or its again bit where that is set already; only
a write of 1 clears it; a commit pushes the source that the rules choose, with a priority above the top's; an end of interrupt pops the top alone,
and another number sets eoi_err; the priorities are locked by GCTL.31; a message leaves where nothing masks it, else it pends. Completes with a next
state: icuSourceEdge, icuPendingClear, icuSoftwareInterrupt, icuCommit, icuEoi, icuEnableChange, icuCfgLock, msixMessage, msixUnmask,
fuseFloorRaise. -/
def Obligations.INTERRUPTS : Prop :=
  (∀ (n : Fin 128) s, (n.val < 103 ∨ 111 < n.val) →
    (s.dev.rbit (ICU_PEND (n.val / 32)) (n.val % 32) = false →
      ∃ e, exec (.icuSourceEdge n) s = .next { s with dev := e } ∧ e.rbit (ICU_PEND (n.val / 32)) (n.val % 32) = true ∧
        ∀ k, k ≠ n.val % 32 → k < 32 → e.rbit (ICU_PEND (n.val / 32)) k = s.dev.rbit (ICU_PEND (n.val / 32)) k) ∧
    (s.dev.rbit (ICU_PEND (n.val / 32)) (n.val % 32) = true →
      ∃ e, exec (.icuSourceEdge n) s = .next { s with dev := e } ∧ e.rbit (ICU_SRC_CFG n.val) 31 = true ∧
        e.rbit (ICU_PEND (n.val / 32)) (n.val % 32) = true)) ∧
  (∀ (n : Fin 128) s, 103 ≤ n.val → n.val ≤ 111 → exec (.icuSourceEdge n) s = .next s) ∧
  (∀ (k : Fin 4) (v : Reg32) s, ∃ e, exec (.icuPendingClear k v) s = .next { s with dev := e } ∧
    e.reg (ICU_PEND k.val) = (s.dev.reg (ICU_PEND k.val) &&& ~~~ v) ∧ ∀ off, off ≠ ICU_PEND k.val → e.reg off = s.dev.reg off) ∧
  (∀ (v : Reg32) (j : Fin 16) s, bit v.toNat j.val = true →
    ∃ e, exec (.icuSoftwareInterrupt v) s = .next { s with dev := e } ∧ e.rbit (ICU_PEND 3) (16 + j.val) = true) ∧
  (∀ n s, (s.dev.pair .a).runs = true → s.dev.bestSource .a = some n → (s.dev.pair .b).runs = false →
    ∃ e, exec .icuCommit s = .next { s with dev := e } ∧ (e.pair .a).stack = n :: (s.dev.pair .a).stack ∧ e.pair .b = s.dev.pair .b ∧
      s.dev.rbit (ICU_PEND (n / 32)) (n % 32) = true ∧ (∀ t ∈ (s.dev.pair .a).stack.head?, s.dev.srcPrio t < s.dev.srcPrio n) ∧
      ∀ m, m < 128 → s.dev.candidate .a m = true → s.dev.srcPrio m < s.dev.srcPrio n ∨ s.dev.srcPrio m = s.dev.srcPrio n ∧ n ≤ m) ∧
  (∀ p (v : Reg32) t r s, (s.dev.pair p).stack = t :: r →
    (t = bits v.toNat 6 0 → ∃ e, exec (.icuEoi p v) s = .next { s with dev := e } ∧ e.pair p = { s.dev.pair p with stack := r } ∧ e.regs = s.dev.regs) ∧
    (t ≠ bits v.toNat 6 0 → ∃ e, exec (.icuEoi p v) s = .next { s with dev := e } ∧ e.pair p = s.dev.pair p ∧ e.rbit ICU_STS 31 = true)) ∧
  (∀ (n : Fin 128) (v : Reg32) s, s.dev.rbit ICU_GCTL 31 = true →
    ∃ e, exec (.icuEnableChange (some n) v) s = .next { s with dev := e } ∧ e.rbit (ICU_SRC_CFG n.val) 0 = bit v.toNat 0 ∧
      e.srcPrio n.val = s.dev.srcPrio n.val ∧ e.rbit (ICU_SRC_CFG n.val) 8 = s.dev.rbit (ICU_SRC_CFG n.val) 8) ∧
  (∀ (n : Fin 128) (v : Reg32) s, s.dev.rbit ICU_GCTL 31 = false → (n.val < 103 ∨ 111 < n.val) →
    ∃ e, exec (.icuEnableChange (some n) v) s = .next { s with dev := e } ∧ e.rbit (ICU_SRC_CFG n.val) 0 = bit v.toNat 0 ∧
      e.srcPrio n.val = bits v.toNat 7 4 ∧ e.rbit (ICU_SRC_CFG n.val) 8 = bit v.toNat 8) ∧
  (∀ (v : Reg32) s, ∃ e, exec (.icuCfgLock v) s = .next { s with dev := e } ∧
    e.rbit ICU_GCTL 31 = (s.dev.rbit ICU_GCTL 31 || bit v.toNat 31) ∧ e.fld ICU_GCTL 1 0 = bits v.toNat 1 0) ∧
  (∀ h (k : Fin 64) s, activeHead s.fuse s.dev h = true → s.dev.msixOpen h k.val = true →
    ∃ a w e, exec (.msixMessage h k) s = .next { s with dev := e } ∧ e.out = .msix h k.val a w :: s.dev.out ∧ e.regs = s.dev.regs) ∧
  (∀ h (k : Fin 64) s, activeHead s.fuse s.dev h = true → s.dev.msixOpen h k.val = false →
    ∃ e, exec (.msixMessage h k) s = .next { s with dev := e } ∧ e.out = s.dev.out ∧ e.rbit (pbaOff h k.val) (k.val % 32) = true) ∧
  (∀ h s, (s.dev.head h).msixOn = true → (s.dev.head h).dstate = 0 →
    (∀ k, k < 64 → s.dev.rbit (pbaOff h k) (k % 32) = false) →
    ∃ e, exec (.msixUnmask h none) s = .next { s with dev := e } ∧ (e.head h).funcMask = false ∧ e.out = s.dev.out) ∧
  (∀ h (k : Fin 64) s, (s.dev.head h).msixOn = true → (s.dev.head h).dstate = 0 → bit (s.dev.msixWord h k.val 3) 0 = false →
    s.dev.rbit (pbaOff h k.val) (k.val % 32) = true →
    ∃ a w e, exec (.msixUnmask h none) s = .next { s with dev := e } ∧ .msix h k.val a w ∈ e.out ∧
      e.rbit (pbaOff h k.val) (k.val % 32) = false) ∧
  (∀ h (v : Fin 64) s, ∃ e, exec (.msixUnmask h (some v)) s = .next { s with dev := e } ∧
    e.rbit (headOff h (0x4000 + 16 * v.val + 12)) 0 = false) ∧
  (∀ s, s.dev.images.raiseFloor = true → s.dev.images.running < 2 → s.dev.pwr.svc = .full →
    ∃ e, exec .fuseFloorRaise s = .next { s with dev := e } ∧ e.images = { s.dev.images with floor := max s.dev.images.floor s.dev.images.svn })

/-- Rails, the sequence and resets (R331 to R336, R361): a rail becomes valid once; each fault of a rail is kept in its channel with its code and
has its reaction; the sequence goes up from channel 0 and ends down in Off; a board channel is tried again 10 ms later; a system reset drives
FAULT_N, with the flush where the rails that Ripcord needs are valid; bring-up starts again at step 0x1. Completes with a next state: railValid,
railFault, railRampTimeout, sequenceStep, railRetry, systemReset, restartAfterOff. -/
def Obligations.RAILS : Prop :=
  (∀ (n : Fin 16) s, seqPresent s.fuse s.dev n.val = true → s.dev.watched n.val = true → (s.dev.seqCh n.val).valid = false →
    ∃ e, exec (.railValid n) s = .next { s with dev := e } ∧ (e.seqCh n.val).valid = true ∧ e.pwr.seqAt = s.dev.tether.now ∧
      ∀ k, k ≠ n.val → e.seqCh k = s.dev.seqCh k) ∧
  (∀ (n : Fin 16) s, n.val ≤ 10 → seqPresent s.fuse s.dev n.val = true → (s.dev.seqCh n.val).valid = true → s.dev.live = true →
    s.dev.pwr.downing = none →
    ∃ e, exec (.railFault n .uv) s = .next { s with dev := e } ∧ (e.seqCh n.val).valid = false ∧ (e.seqCh n.val).last = 1 ∧
      e.pwr.drive = true) ∧
  (∀ (n : Fin 16) s, n.val ≤ 10 → seqPresent s.fuse s.dev n.val = true → (s.dev.seqCh n.val).valid = true → s.dev.live = true →
    s.dev.pwr.downing = none → s.dev.pwr.flush = none →
    ∃ e, exec (.railFault n .ov) s = .next { s with dev := e } ∧ (e.seqCh n.val).last = 2 ∧ e.pwr.downing = some .reset ∧
      e.pwr.ended = 5 ∧ e.pwr.svc = .flush) ∧
  (∀ (n : Fin 16) c s, c = Tbl.look {} s.dev.pwr.board.chan n.val → 12 ≤ n.val → seqPresent s.fuse s.dev n.val = true →
    (s.dev.seqCh n.val).valid = true → c.react = 1 → (s.dev.seqCh n.val).tries < c.retries →
    s.dev.tether.now < (s.dev.seqCh n.val).since + 10 ^ 9 →
    ∃ e, exec (.railFault n .uv) s = .next { s with dev := e } ∧ (e.seqCh n.val).en = false ∧
      (e.seqCh n.val).tries = (s.dev.seqCh n.val).tries + 1 ∧ (e.seqCh n.val).offAt = s.dev.tether.now ∧
      e.out = .seqEn n.val false :: s.dev.out) ∧
  (∀ (n : Fin 16) s, seqPresent s.fuse s.dev n.val = true → (s.dev.seqCh n.val).en = true → (s.dev.seqCh n.val).valid = false →
    ∃ e, exec (.railRampTimeout n) s = .next { s with dev := e } ∧ (e.seqCh n.val).last = 3 ∧ (e.seqCh n.val).valid = false) ∧
  (∀ s, s.dev.pwr.svc = .bringup → s.dev.pwr.step = 1 → s.dev.pwr.downing = none → s.dev.pwr.flush = none → s.dev.rises 0 = true →
    ∃ e, exec .sequenceStep s = .next { s with dev := e } ∧ (e.seqCh 0).en = true ∧ e.out = .seqEn 0 true :: s.dev.out) ∧
  (∀ s, s.dev.pwr.downing = some .reset → s.dev.pwr.upAgain = false → (∀ n, (s.dev.seqCh n).en = false) →
    ∃ e, exec .sequenceStep s = .next { s with dev := e } ∧ e.pwr.svc = .off ∧ e.pwr.downing = none) ∧
  (∀ (n : Fin 16) s, 12 ≤ n.val → (s.dev.seqCh n.val).en = false → (s.dev.seqCh n.val).down = false → 0 < (s.dev.seqCh n.val).tries →
    s.dev.live = true → s.dev.pwr.downing = none → (s.dev.seqCh n.val).offAt + 10000000 < 2 ^ 64 →
    ∃ e, exec (.railRetry n) s = .next { s with dev := e } ∧ (e.seqCh n.val).en = true ∧
      (s.dev.seqCh n.val).offAt + 10000000 ≤ e.tether.now) ∧
  (∀ s, s.dev.live = true → s.dev.pwr.downing = none → s.dev.pwr.flush = none →
    ∃ e, exec .systemReset s = .next { s with dev := e } ∧ e.pwr.svc = .flush ∧ e.pwr.drive = true ∧
      (ripReady s.fuse s.dev = false → e.pwr.downing = some .reset ∧ e.pwr.ended = 4) ∧
      (ripReady s.fuse s.dev = true → ∃ f, e.pwr.flush = some f ∧ f.why = .reset ∧ f.step = 2 ∧ f.ripcord = false)) ∧
  (∀ t s, s.dev.pwr.restartAt = some t → s.dev.pwr.svc = .off → s.dev.pwr.inputOk = true → s.dev.pwr.pwrReq = true →
    s.dev.pwr.limited = false → s.dev.pwr.tsHold = false → s.dev.pwr.extHold = false → t < 2 ^ 64 →
    ∃ e, exec .restartAfterOff s = .next { s with dev := e } ∧ e.pwr.svc = .bringup ∧ e.pwr.step = 1 ∧ t ≤ e.tether.now)

/-- FAULT_N, margining, the input, PWR_REQ and hold-up (R336 to R343): pulses and notices of the line are latched; margining takes the one channel
that has an interface, up to 10 %; the input and PWR_REQ start bring-up from Off and end service; a measurement gives the capacitance; arming
follows the energy and its conditions. Completes with a next state: faultNPulseEnd, faultNNotice, faultNFault, faultNReleased, marginSet,
marginClear, inputValid, inputFail, pwrReqAssert, pwrReqDeassert, holdupMeasureStart, holdupMeasureEnd, armingEvaluation. -/
def Obligations.POWER_INPUTS : Prop :=
  (∀ still s, s.dev.pwr.pulse = true →
    ∃ e, exec (.faultNPulseEnd still) s = .next { s with dev := e } ∧ e.pwr = { s.dev.pwr with pulse := false, pinLow := still || s.dev.pwr.drive }) ∧
  (∀ s, s.dev.pwr.drive = false → s.dev.pwr.pulse = false →
    (∃ e, exec .faultNNotice s = .next { s with dev := e } ∧ e.pwr = { s.dev.pwr with extPulse := true, pinLow := false }) ∧
    (∃ e, exec .faultNFault s = .next { s with dev := e } ∧ e.pwr.extLevel = true ∧ e.pwr.pinLow = true)) ∧
  (∀ s, ∃ e, exec .faultNReleased s = .next { s with dev := e } ∧ e.pwr.extHold = false ∧
    (s.dev.pwr.extHold = true → s.dev.pwr.svc = .off → e.pwr.restartAt = some (s.dev.tether.now + 10000000))) ∧
  (∀ h (v : Reg32) s, presentHead s.fuse h = true → s.dev.pwr.svc = .full → s.dev.pwr.board.valid = true →
    s.dev.pwr.board.marginCh = some (bits v.toNat 3 0) → bits v.toNat 11 8 ≤ 10 → s.dev.pwr.margin = none →
    bits v.toNat 5 4 = 1 ∨ bits v.toNat 5 4 = 2 →
    ∃ e, exec (.marginSet h v) s = .next { s with dev := e } ∧
      e.pwr.margin = some (bits v.toNat 3 0, bits v.toNat 5 4, bits v.toNat 11 8) ∧ e.gon.armed = false) ∧
  (∀ h (v : Reg32) s, 10 < bits v.toNat 11 8 → exec (.marginSet h v) s = .next s) ∧
  (∀ h (v : Reg32) b c s, presentHead s.fuse h = true → s.dev.pwr.svc = .full → s.dev.pwr.board.valid = true →
    s.dev.pwr.board.marginCh = some (bits v.toNat 3 0) → bits v.toNat 11 8 ≤ 10 → s.dev.pwr.margin = some (bits v.toNat 3 0, b, c) →
    bits v.toNat 5 4 = 0 →
    ∃ e, exec (.marginClear h v) s = .next { s with dev := e } ∧ e.pwr.margin = none ∧ e.out = .margin (bits v.toNat 3 0) 0 0 :: s.dev.out) ∧
  (∀ vin s, s.dev.vinOk ≤ vin →
    ∃ e, exec (.inputValid vin) s = .next { s with dev := e } ∧ e.pwr.inputOk = true ∧
      (s.dev.pwr.svc = .off → s.dev.pwr.pwrReq = true → s.dev.pwr.limited = false → s.dev.pwr.tsHold = false →
        s.dev.pwr.extHold = false → s.dev.pwr.restartAt = none → e.pwr.svc = .bringup ∧ e.pwr.step = 1)) ∧
  (∀ vin s, vin < s.dev.vinFail →
    ∃ e, exec (.inputFail vin) s = .next { s with dev := e } ∧ e.pwr.inputOk = false) ∧
  (∀ vin s, s.dev.vinFail ≤ vin →
    ∃ e, exec (.inputFail vin) s = .next { s with dev := e } ∧ e.pwr.inputOk = s.dev.pwr.inputOk) ∧
  (∀ s, s.dev.pwr.pwrReq = false →
    ∃ e, exec .pwrReqAssert s = .next { s with dev := e } ∧ e.pwr.pwrReq = true ∧
      (s.dev.pwr.svc = .off → s.dev.pwr.inputOk = true → s.dev.pwr.tsHold = false → s.dev.pwr.extHold = false →
        s.dev.pwr.restartAt = none → e.pwr.svc = .bringup ∧ e.pwr.step = 1)) ∧
  (∀ s, s.dev.pwr.pwrReq = true →
    ∃ e, exec .pwrReqDeassert s = .next { s with dev := e } ∧ e.pwr.pwrReq = false ∧
      (s.dev.pwr.svc = .reduced ∨ s.dev.pwr.svc = .full → e.pwr.svc = .flush ∧ ∃ f, e.pwr.flush = some f ∧ f.why = .pwrReq)) ∧
  (∀ vh ch ld s, s.dev.roleChan 1 = some ch → s.dev.roleChan 2 = some ld → s.dev.live = true → s.dev.pwr.downing = none →
    s.dev.pwr.flush = none → s.dev.pwr.inputOk = true → s.dev.pwr.measuring = false → 10 * s.dev.pwr.board.vhFull ≤ vh →
    s.dev.pwr.cap = none →
    ∃ e, exec (.holdupMeasureStart vh) s = .next { s with dev := e } ∧ e.pwr.measuring = true ∧ e.pwr.lastMeasure = s.dev.tether.now ∧
      (e.seqCh ld).en = true ∧ (e.seqCh ch).en = false) ∧
  (∀ ns ch ld s, s.dev.roleChan 1 = some ch → s.dev.roleChan 2 = some ld → s.dev.pwr.measuring = true → ns ≤ 500000000 →
    s.dev.pwr.inputOk = true → 0 < s.dev.pwr.board.rTest →
    ∃ e, exec (.holdupMeasureEnd ns true) s = .next { s with dev := e } ∧ e.pwr.measuring = false ∧
      e.pwr.cap = some (min (ns * 10 ^ 14 / (s.dev.pwr.board.rTest * 512932943875506)) 0xFFFFFF)) ∧
  (∀ vh c s, s.dev.pwr.inputOk = true → s.dev.pwr.replayDone = true → s.dev.pwr.cap = some c → s.dev.pwr.margin = none →
    s.dev.pwr.board.valid = true → s.dev.pwr.svc = .reduced ∨ s.dev.pwr.svc = .full → s.dev.pwr.measuring = false →
    s.dev.pwr.board.armPct * eRip s.fuse * (2 * 10 ^ 10) ≤
      c * s.dev.pwr.board.eta * (vh * vh - 10 * s.dev.pwr.board.vhMin * (10 * s.dev.pwr.board.vhMin)) →
    ∃ e, exec (.armingEvaluation vh) s = .next { s with dev := e } ∧ e.gon.armed = true ∧ e.pwr.vh = vh) ∧
  (∀ vh s, s.dev.pwr.replayDone = false →
    ∃ e, exec (.armingEvaluation vh) s = .next { s with dev := e } ∧ e.gon.armed = false)

/-- Bring-up and replay (R315, R328, R346 to R352, R357 to R359): each step ends only where its work is done and goes to the next, or stalls with
its cause; the restore gives back what a readable segment holds and begins reduced service; the repair sets replay_done; the segment is released
once all that came from it is home. Completes with a next state: bringupStep, replayRestore, replayRepair, segmentRelease. -/
def Obligations.BRINGUP_AND_REPLAY : Prop :=
  (∀ inp s, s.dev.pwr.svc = .bringup → s.dev.dbg.hold = false → s.dev.pwr.flush = none → s.dev.pwr.stopUp = false →
    (s.dev.pwr.step = 1 → (s.dev.phaseA.flatten.all fun n => (s.dev.seqCh n).valid) = true →
      exec (.bringupStep inp) s = .next { s with dev := { s.dev.faultRelease with pwr := { s.dev.faultRelease.pwr with step := 2 } } }) ∧
    (s.dev.pwr.step = 1 → (s.dev.phaseA.flatten.all fun n => (s.dev.seqCh n).valid) = false → exec (.bringupStep inp) s = .next s) ∧
    (s.dev.pwr.step = 2 → inp = [] → ∃ e, exec (.bringupStep inp) s = .next { s with dev := e } ∧ e.pwr.step = 3 ∧ e.keel.ready = true ∧
      e.keel.pcyc = (s.dev.ringField .life 16 4 + 1) % 2 ^ 32 ∧ e.drift.checkers = true) ∧
    (s.dev.pwr.step = 2 → 0 < inp.headD 0 → ∃ e, exec (.bringupStep inp) s = .next { s with dev := e } ∧ e.pwr.step = 0xF ∧ e.pwr.cause = 3 ∧
      e.pwr.drive = true) ∧
    (s.dev.pwr.step = 3 → inp = [1, 1] → ∃ e, exec (.bringupStep inp) s = .next { s with dev := e } ∧ e.pwr.step = 4 ∧
      e.cores.active = .a ∧ (e.pair .a).runs = true ∧ (e.pair .b).runs = true) ∧
    (s.dev.pwr.step = 3 → inp = [0, 1] → ∃ e, exec (.bringupStep inp) s = .next { s with dev := e } ∧ e.pwr.step = 4 ∧
      e.cores.active = .b ∧ (e.pair .a).runs = false ∧ (e.pair .b).runs = true) ∧
    (s.dev.pwr.step = 3 → inp = [0, 0] → ∃ e, exec (.bringupStep inp) s = .next { s with dev := e } ∧ e.pwr.step = 0xF ∧ e.pwr.cause = 4 ∧
      e.cores.dead = true) ∧
    (∀ p q b, s.dev.pwr.step = 4 → inp = p.length :: p ++ q → bcPick s.fuse p q = some b →
      ∃ e, exec (.bringupStep inp) s = .next { s with dev := e } ∧ e.pwr.step = 5 ∧ e.pwr.board = bcBoard s.fuse b) ∧
    (∀ p q, s.dev.pwr.step = 4 → inp = p.length :: p ++ q → bcPick s.fuse p q = none →
      ∃ e, exec (.bringupStep inp) s = .next { s with dev := e } ∧ e.pwr.step = 0xF ∧ e.pwr.cause = 1 ∧ e.pwr.board = {}) ∧
    (∀ k, s.dev.pwr.step = 5 → bootSlot s.fuse s.dev = some k →
      ∃ e, exec (.bringupStep inp) s = .next { s with dev := e } ∧ e.pwr.step = 6 ∧ e.images.running = k ∧
        e.images.fallback = decide (k ≠ s.dev.keel.sel)) ∧
    (s.dev.pwr.step = 5 → bootSlot s.fuse s.dev = none →
      ∃ e, exec (.bringupStep inp) s = .next { s with dev := e } ∧ e.pwr.step = 0xF ∧ e.pwr.cause = 2) ∧
    (s.dev.pwr.step = 6 → ((s.dev.phaseA ++ phaseB s.fuse s.dev).flatten.all fun n => (s.dev.seqCh n).valid) = true →
      ∃ e, exec (.bringupStep inp) s = .next { s with dev := e } ∧ e.pwr.step = 7) ∧
    (s.dev.pwr.step = 7 → mediaReady s.fuse s.dev = true →
      ∃ e, exec (.bringupStep inp) s = .next { s with dev := e } ∧ e.pwr.step = 8)) ∧
  (∀ inp s, s.dev.pwr.svc = .reduced → s.dev.pwr.step = 10 → s.dev.dbg.hold = false → s.dev.pwr.flush = none →
    s.dev.drift.surveyDone = true → s.dev.pwr.scrubFirst = false →
    ∃ e, exec (.bringupStep inp) s = .next { s with dev := e } ∧ e.pwr.svc = .full ∧ e.pwr.step = 11) ∧
  (∀ parts lost s, s.dev.pwr.svc = .bringup → s.dev.pwr.step = 8 → s.dev.dbg.hold = false → s.dev.pwr.downing = none →
    s.dev.pwr.stopUp = false →
    ∃ e, exec (.replayRestore parts lost) s = .next { s with dev := e } ∧ e.pwr.svc = .reduced ∧ e.pwr.step = 9 ∧ e.lci.ready = true ∧
      e.tether.schedule = true ∧ e.keel.lastOff = s.dev.pwr.ended ∧ e.pwr.ended = 0 ∧ e.pwr.restored = true) ∧
  (∀ x l n g s, s.dev.pwr.svc = .bringup → s.dev.pwr.step = 8 → s.dev.dbg.hold = false → s.dev.pwr.downing = none →
    s.dev.pwr.stopUp = false → s.dev.pwr.segs = x :: l → x.complete = true → x.released = false → s.dev.pwr.ended = 2 →
    x.staged = [(n, some g)] → x.wb = [] → g.key = 0 →
    ∃ y e, exec (.replayRestore 127 []) s = .next { s with dev := e } ∧ e.staged n = some y ∧ y.data = g.data ∧ y.mask = g.mask ∧
      y.poison = g.poison ∧ y.acks = [] ∧ y.segment = some x.num ∧ e.pwr.segUsed = some x.num) ∧
  (∀ s, s.dev.pwr.svc = .reduced → s.dev.pwr.step = 9 →
    ∃ e, exec .replayRepair s = .next { s with dev := e } ∧ e.pwr.replayDone = true ∧ e.pwr.step = 10) ∧
  (∀ n s, s.dev.pwr.segUsed = some n → s.dev.pwr.replayDone = true → s.dev.segDrained n = true →
    ∃ e, exec .segmentRelease s = .next { s with dev := e } ∧ e.pwr.segUsed = none ∧ ∀ x ∈ e.pwr.segs, x.released = true)

/-- Ripcord, the shutdown flush, Rest and power-up (R22, R23, R330, R353 to R356, R360, R361, R381): the steps follow in their order, each where the
one before has ended; the segment is written, then the Keel records, then the rails go down to Off or Rest; PERST_N in Rest starts bring-up; the
always-on domain comes up in Off with the store's contents. Completes with a next state: ripcordEntry, lateArrivalWindowEnd, phaseScheduleSuspend,
segmentPartsProgrammed, shutdownFlush, flushKeelWrites, flushRailsDown, restEntry, wakeEdge, restExit, perstNDeasserted, aonPowerUp. -/
def Obligations.FLUSH_AND_REST : Prop :=
  (∀ s, s.dev.pwr.svc = .bringup ∨ s.dev.pwr.svc = .reduced ∨ s.dev.pwr.svc = .full → s.dev.pwr.inputOk = false →
    ∃ f e, exec .ripcordEntry s = .next { s with dev := e } ∧ e.pwr.svc = .flush ∧ e.pwr.flush = some f ∧ f.ripcord = true ∧
      f.step = 2 ∧ f.start = s.dev.tether.now ∧ e.lci.cmds = []) ∧
  (∀ f s, s.dev.pwr.flush = some f → f.step = 2 → f.start + 10000 < 2 ^ 64 →
    ∃ e, exec .lateArrivalWindowEnd s = .next { s with dev := e } ∧ e.pwr.flush = some { f with step := 3 } ∧
      f.start + 10000 ≤ e.tether.now ∧ (s.dev.cache.fetches = [] → e.a.linkUp = false ∧ e.b.linkUp = false)) ∧
  (∀ f s, s.dev.pwr.flush = some f → f.step = 3 → s.dev.readsLeft = false →
    ∃ e, exec .phaseScheduleSuspend s = .next { s with dev := e } ∧ e.pwr.flush = some { f with step := 4 } ∧
      e.tether.schedule = false ∧ e.a.linkUp = false) ∧
  (∀ f n s, s.dev.pwr.flush = some f → f.seg = some n → f.step = 4 → s.dev.anyBusy = false →
    ∃ x l e, exec (.segmentPartsProgrammed true) s = .next { s with dev := e } ∧ e.pwr.segs = x :: l ∧ x.num = n ∧
      e.pwr.flush = some { f with programmed := true, step := 5 } ∧ (∀ r ∈ e.media.die, r.2.pd = true)) ∧
  (∀ f n s, s.dev.pwr.flush = some f → f.seg = some n → f.step = 4 →
    ∃ e, exec (.segmentPartsProgrammed false) s = .next { s with dev := e } ∧ e.pwr.flush = some { f with step := 6 }) ∧
  (∀ f s, s.dev.pwr.flush = some f → f.step = 5 → f.ripcord = false → f.ledgerSaved = false →
    ∃ e, exec .shutdownFlush s = .next { s with dev := e } ∧ e.pwr.flush = some { f with ledgerSaved := true }) ∧
  (∀ f x l s, s.dev.pwr.flush = some f → f.step = 5 → s.dev.pwr.inputOk = true → f.ripcord = true ∨ f.ledgerSaved = true →
    s.dev.pwr.segs = x :: l →
    ∃ e, exec .flushKeelWrites s = .next { s with dev := e } ∧ e.pwr.flush = some { f with step := 6 } ∧
      e.pwr.segs = [{ x with complete := true, clean := !f.ripcord }] ∧ e.keel.waiting = [] ∧ e.log.accepting = false) ∧
  (∀ f n s, s.dev.pwr.flush = some f → f.step = 6 → f.seg = some n → (s.dev.pwr.segs.any fun x => x.num == n && x.complete) = true →
    f.ripcord = false → f.why = .pwrReq → s.dev.pwr.upAgain = false → s.dev.diesQuiet = true →
    ∃ e, exec .flushRailsDown s = .next { s with dev := e } ∧ e.pwr.svc = .off ∧ e.pwr.flush = none ∧ e.pwr.ended = 1) ∧
  (∀ f s, s.dev.pwr.flush = some f → f.step = 6 → f.ripcord = false → f.why = .rest → s.dev.pwr.upAgain = false → s.dev.diesQuiet = true →
    s.dev.pwr.inputOk = true → s.dev.pwr.pwrReq = true →
    ∃ e, exec .flushRailsDown s = .next { s with dev := e } ∧ e.pwr.svc = .rest ∧ e.pwr.flush = none) ∧
  (∀ s, s.dev.pwr.svc = .reduced ∨ s.dev.pwr.svc = .full → s.dev.pwr.inputOk = true → s.dev.pwr.pwrReq = true →
    (∀ h, activeHead s.fuse s.dev h = true → (s.dev.head h).d3cold = true) →
    ∃ f e, exec .restEntry s = .next { s with dev := e } ∧ e.pwr.svc = .flush ∧ e.pwr.flush = some f ∧ f.why = .rest) ∧
  (∀ (pin : Fin 8) up s, (Tbl.look {} s.dev.gpio pin.val).role ≠ 1 →
    ∃ e, exec (.wakeEdge pin up) s = .next { s with dev := e } ∧ (Tbl.look {} e.gpio pin.val).high = up ∧
      (s.dev.pwr.svc = .rest → (Tbl.look {} s.dev.gpio pin.val).role = (if up then 3 else 2) → .wakeN .a true ∈ e.out)) ∧
  (∀ h s, s.dev.pwr.svc = .rest → presentHead s.fuse h = true → activeHead s.fuse s.dev h = true →
    ∃ e, exec (.restExit h) s = .next { s with dev := e } ∧ e.pwr.svc = .bringup ∧ e.pwr.step = 1 ∧ (e.head h).perstHigh = true) ∧
  (∀ h s, presentHead s.fuse h = true →
    ∃ e, exec (.perstNDeasserted h) s = .next { s with dev := e } ∧ (e.head h).perstHigh = true ∧ (e.head h).d3cold = false) ∧
  (∀ s, s.dev.keel.active = [] →
    ∃ e, exec .aonPowerUp s = .next { s with dev := e } ∧ e.pwr.svc = .off ∧ e.regs = [] ∧ e.tether = {} ∧
      e.keel = { bytes := s.dev.keel.bytes } ∧ e.images.a = s.dev.images.a ∧ e.images.floor = s.dev.images.floor ∧ e.pwr.segs = s.dev.pwr.segs)

/-- Temperature and the sideband (R362 to R365, R370, R371): a conversion is held until a round latches it; two hot conversions with a hot neighbour
shut the device down; a round latches sensors and diodes and is evaluated once; the responder answers each message of the sideband in its layout.
Completes with a next state: sensorConversion, thermalRestart, housekeepingRound, roundEvaluate, aonTempRead, smbusArp, setEndpointId,
getEndpointId, getMessageTypeSupport, getMctpVersionSupport, getHealth, getIdentity, getSensor. -/
def Obligations.TEMPERATURE_AND_SIDEBAND : Prop :=
  (∀ (i : Fin 14) (code : Fin 1024) s, s.dev.keel.ready = true → s.dev.live = true → s.dev.tooHot i.val code.val = false →
    ∃ e, exec (.sensorConversion i code true) s = .next { s with dev := e } ∧
      e.sensor i.val = { s.dev.sensor i.val with seen := true, conv := code.val, convOk := true, hot := decide (728 ≤ code.val) }) ∧
  (∀ (i : Fin 14) (code : Fin 1024) s, s.dev.keel.ready = true → s.dev.live = true →
    ∃ e, exec (.sensorConversion i code false) s = .next { s with dev := e } ∧
      e.sensor i.val = { s.dev.sensor i.val with seen := true, convOk := false, hot := false }) ∧
  (∀ (i : Fin 14) (code : Fin 1024) s, s.dev.keel.ready = true → s.dev.tooHot i.val code.val = true →
    s.dev.pwr.svc = .bringup ∨ s.dev.pwr.svc = .reduced ∨ s.dev.pwr.svc = .full →
    ∃ e, exec (.sensorConversion i code true) s = .next { s with dev := e } ∧ e.pwr.svc = .flush ∧ e.keel.tshutLast = true) ∧
  (∀ (code : Fin 1024) s, s.dev.pwr.svc = .off → s.dev.pwr.tsHold = true → code.val ≤ 708 →
    ∃ e, exec (.thermalRestart code) s = .next { s with dev := e } ∧ e.pwr.tsHold = false ∧ e.therm.aon = code.val ∧
      (s.dev.pwr.restartAt = none → s.dev.pwr.inputOk = true → s.dev.pwr.pwrReq = true → s.dev.pwr.limited = false →
        s.dev.pwr.extHold = false → e.pwr.svc = .bringup)) ∧
  (∀ (code : Fin 1024) s, 708 < code.val → exec (.thermalRestart code) s = .next s) ∧
  (∀ (r0 : Fin 1024) dies s, s.dev.keel.ready = true → s.dev.live = true → dueMultiple s.dev.tether.now 8000000 (Tbl.look 0 s.dev.tether.ticks 6) < 2 ^ 64 →
    ∃ e, exec (.housekeepingRound (some r0) none dies) s = .next { s with dev := e } ∧ e.therm.due = true ∧
      e.therm.round = dueMultiple s.dev.tether.now 8000000 (Tbl.look 0 s.dev.tether.ticks 6) ∧ Tbl.look {} e.therm.rd 0 = ⟨false, true, r0.val⟩ ∧
      (Tbl.look {} e.therm.rd 1).fault = true ∧
      ∀ i, i < 14 → (s.dev.sensor i).seen = true → (s.dev.sensor i).convOk = true →
        (e.sensor i).code = (s.dev.sensor i).conv ∧ (e.sensor i).valid = true) ∧
  (∀ i s, s.dev.therm.due = true → i < 14 → (s.dev.sensor i).seen = true →
    ∃ e, exec .roundEvaluate s = .next { s with dev := e } ∧ e.therm.due = false ∧ e.therm.done = true ∧ e.therm.tj ≤ e.therm.peak ∧
      e.therm.tj < 1024 ∧ s.dev.therm.peak ≤ e.therm.peak) ∧
  (∀ s, s.dev.therm.due = false → exec .roundEvaluate s = .next s) ∧
  (∀ (code : Fin 1024) s, s.dev.pwr.svc = .off ∨ s.dev.pwr.svc = .rest →
    ∃ e, exec (.aonTempRead code) s = .next { s with dev := e } ∧ e.therm = { s.dev.therm with aon := code.val }) ∧
  (∀ (addr : Fin 128) s, ∃ e, exec (.smbusArp addr) s = .next { s with dev := e } ∧ e.therm = { s.dev.therm with smbusAddr := addr.val }) ∧
  (∀ (eid : Byte) (op : Fin 4) s,
    (op.val < 2 → eid ≠ 0 → eid ≠ 0xFF → ∃ e, exec (.setEndpointId eid op) s = .next { s with dev := e } ∧
      e.therm = { s.dev.therm with eid := eid.toNat } ∧ e.out = .smbus [0, 0, eid.toNat, 0] :: s.dev.out) ∧
    (2 ≤ op.val ∨ eid = 0 ∨ eid = 0xFF → ∃ e, exec (.setEndpointId eid op) s = .next { s with dev := e } ∧ e.therm = s.dev.therm ∧
      e.out = .smbus [2] :: s.dev.out)) ∧
  (∀ s, (∃ e, exec .getEndpointId s = .next { s with dev := e } ∧ e.out = .smbus [0, s.dev.therm.eid, 0, 0] :: s.dev.out) ∧
    (∃ e, exec .getMessageTypeSupport s = .next { s with dev := e } ∧ e.out = .smbus [0, 1, 0x7E] :: s.dev.out) ∧
    (∃ e, exec (.getMctpVersionSupport 0xFF) s = .next { s with dev := e } ∧ e.out = .smbus (0 :: Config.mctpVersions 0xFF) :: s.dev.out) ∧
    (∃ b e, exec .getHealth s = .next { s with dev := e } ∧ e.out = .smbus (healthState s.dev :: s.dev.pwr.step :: s.dev.pwr.cause :: b) :: s.dev.out ∧
      b.length = 9) ∧
    (∃ e, exec .getIdentity s = .next { s with dev := e } ∧
      e.out = .smbus (clsCode s.fuse.cls :: (leBytes 8 s.fuse.serial.toNat ++ leBytes 4 s.dev.fwVer)) :: s.dev.out)) ∧
  (∀ (idx : BitVec 16) s, s.dev.pwr.svc = .off ∨ s.dev.pwr.svc = .rest →
    ∃ e, exec (.getSensor idx) s = .next { s with dev := e } ∧
      e.out = .smbus (leBytes 2 (if idx = 13 then s.dev.therm.aon else 0xFFFF)) :: s.dev.out) ∧
  (∀ (idx : BitVec 16) s, s.dev.live = true → idx.toNat < 14 →
    ∃ e, exec (.getSensor idx) s = .next { s with dev := e } ∧
      e.out = .smbus (leBytes 2 (if (s.dev.sensor idx.toNat).valid = true ∧ (s.dev.sensor idx.toNat).bad = false then
        (s.dev.sensor idx.toNat).code else 0xFFFF)) :: s.dev.out)

/-- The Keel store and the logbook (R372 to R378, R386 to R390): a waiting write starts and its bytes are in the store when it has been verified; a
failed verify is repeated; operating time counts seconds and minutes, with a life record every minute; an event is held in the always-on domain
before the recorder accepts; a second, a flush and a freeze of the recorder end. Completes with a next state: keelWriteStart, keelWriteDone,
lifeRecordWrite, operatingSecond, eventRecord, rateLimitSecondEnd, logbookFlush, freezeTimeout. -/
def Obligations.KEEL_AND_LOGBOOK : Prop :=
  (∀ w s, s.dev.keel.pickStart [] s.dev.keel.waiting = some w → s.dev.pwr.inputOk = true → s.dev.live = true →
    ∃ e, exec .keelWriteStart s = .next { s with dev := e } ∧ e.keel.active = s.dev.keel.active ++ [w] ∧
      e.keel.waiting = s.dev.keel.waiting.erase w ∧ e.keel.bytes = s.dev.keel.bytes) ∧
  (∀ (page : Fin 1024) w s, (s.dev.keel.active.find? fun w => w.page == page.val) = some w →
    ∃ e, exec (.keelWriteDone page true) s = .next { s with dev := e } ∧ e.keel.bytes = keelPoke s.dev.keel.bytes w.page w.off w.data ∧
      e.keel.active = s.dev.keel.active.erase w) ∧
  (∀ (page : Fin 1024) w s, (s.dev.keel.active.find? fun w => w.page == page.val) = some w → w.tries = 0 →
    ∃ e, exec (.keelWriteDone page false) s = .next { s with dev := e } ∧ e.keel.bytes = s.dev.keel.bytes ∧
      { w with tries := 1 } ∈ e.keel.active ∧ e.keel.vfail = s.dev.keel.vfail) ∧
  (∀ (page : Fin 1024) w s, (s.dev.keel.active.find? fun w => w.page == page.val) = some w → w.tries ≠ 0 → s.dev.keel.vfail < 0xFFFF →
    ∃ e, exec (.keelWriteDone page false) s = .next { s with dev := e } ∧ e.keel.bytes = s.dev.keel.bytes ∧
      e.keel.vfail = s.dev.keel.vfail + 1) ∧
  (∀ s, s.dev.operating = true → 60 ≤ s.dev.keel.sinceSave →
    ∃ e, exec .lifeRecordWrite s = .next { s with dev := e } ∧ e.keel.sinceSave = 0 ∧ e.keel.tetherSaved = s.dev.tether.now ∧
      e.keel.bytes = s.dev.keel.bytes) ∧
  (∀ s, s.dev.operating = true →
    (s.dev.keel.opsec < 59 → ∃ e, exec .operatingSecond s = .next { s with dev := e } ∧ e.keel.opsec = s.dev.keel.opsec + 1 ∧
      e.keel.opmin = s.dev.keel.opmin ∧ e.keel.sinceSave = s.dev.keel.sinceSave + 1) ∧
    (s.dev.keel.opsec = 59 → ∃ e, exec .operatingSecond s = .next { s with dev := e } ∧ e.keel.opsec = 0 ∧
      e.keel.opmin = (s.dev.keel.opmin + 1) % 2 ^ 32)) ∧
  (∀ (code : BitVec 16) (arg : BitVec 64) s, s.dev.log.accepting = false → s.dev.aon.events.length < 8 →
    ∃ e, exec (.eventRecord code arg) s = .next { s with dev := e } ∧ e.log = s.dev.log ∧
      e.aon.events = s.dev.aon.events ++ [⟨code.toNat, arg.toNat, s.dev.tether.now % 2 ^ 32⟩]) ∧
  (∀ s, s.fuse.cls = .s → s.dev.log.accepting = true →
    ∃ e, exec .rateLimitSecondEnd s = .next { s with dev := e } ∧ e.log.made = [] ∧ e.log.suppressed = []) ∧
  (∀ s, s.dev.log.frozen = false → s.dev.log.accepting = true → s.dev.log.lostNew = 0 →
    ∃ e, exec .logbookFlush s = .next { s with dev := e } ∧
      e.log.buf = (logSplit s.fuse s.dev.log.next s.dev.log.buf.length s.dev.log.buf).2 ∧ e.log.next = s.dev.log.next) ∧
  (∀ s, s.dev.log.frozen = true → exec .logbookFlush s = .next s) ∧
  (∀ s, s.dev.log.frozen = true → ∃ e, exec .freezeTimeout s = .next { s with dev := e } ∧ e.log.frozen = false) ∧
  (∀ s, s.dev.log.frozen = false → exec .freezeTimeout s = .next s)

/-- Counters, histograms and self-test slices (R397, R400, R401, R403, R406 to R409): a head clears what it owns; a snapshot copies the values of
its owner and leaves the others; a queued slice runs in its window, is deferred where its conditions do not hold, and a fault is counted; firmware
queues every slice that exists. Completes with a next state: counterClear, counterSnapshot, histogramSnapshot, histogramClear, unitWindow,
periodicSliceQueue, selfTestSliceRun. -/
def Obligations.COUNTERS_AND_SLICES : Prop :=
  (∀ h (n : Fin 64) (v : Reg32) s, ownsPmc s.fuse s.dev h n.val 64 = true → bit v.toNat 30 = true →
    ∃ e, exec (.counterClear h n v) s = .next { s with dev := e } ∧ Tbl.look {} e.pmc.cnt n.val = {} ∧
      ∀ k, k ≠ n.val → Tbl.look {} e.pmc.cnt k = Tbl.look {} s.dev.pmc.cnt k) ∧
  (∀ h (n : Fin 64) (v : Reg32) s, ownsPmc s.fuse s.dev h n.val 64 = false → exec (.counterClear h n v) s = .next s) ∧
  (∀ h s, portMode s.fuse s.dev ≠ .dualHead →
    ∃ e, exec (.counterSnapshot h) s = .next { s with dev := e } ∧ e.pmc.snap = s.dev.pmc.cnt ∧ e.pmc.snapTimeA = s.dev.tether.now ∧
      e.pmc.snapTimeB = s.dev.tether.now ∧ e.pmc.cnt = s.dev.pmc.cnt) ∧
  (∀ h s, portMode s.fuse s.dev = .dualHead →
    ∃ e, exec (.counterSnapshot h) s = .next { s with dev := e } ∧
      ∀ n, Tbl.look {} e.pmc.snap n = if decide (n < 32) = decide (h = .a) then Tbl.look {} s.dev.pmc.cnt n else Tbl.look {} s.dev.pmc.snap n) ∧
  (∀ h s, portMode s.fuse s.dev = .dualHead →
    ∃ e, exec (.histogramSnapshot h) s = .next { s with dev := e } ∧
      ∀ n, Tbl.look {} e.pmc.hsnap n = if decide (n < 128) = decide (h = .a) then Tbl.look {} s.dev.pmc.bin n else Tbl.look {} s.dev.pmc.hsnap n) ∧
  (∀ h s, portMode s.fuse s.dev ≠ .dualHead →
    ∃ e, exec (.histogramSnapshot h) s = .next { s with dev := e } ∧ e.pmc.hsnap = s.dev.pmc.bin ∧ e.pmc.hsnapTimeA = s.dev.tether.now) ∧
  (∀ h (i : Fin 8) (v : Reg32) s, ownsPmc s.fuse s.dev h i.val 8 = true → bit v.toNat 30 = true →
    ∃ e, exec (.histogramClear h i v) s = .next { s with dev := e } ∧ ∀ n, Tbl.look {} e.pmc.bin n =
      if n / 32 = i.val then {} else Tbl.look {} s.dev.pmc.bin n) ∧
  (∀ s, s.dev.live = true → ∃ e, exec .unitWindow s = .next { s with dev := e } ∧ e.bst.unitOpen = [2, 3] ∧ e.bst.queue = s.dev.bst.queue) ∧
  (∀ s, s.dev.fld BST_CFG 15 0 ≠ 0 → s.dev.inService = true → s.dev.fwRuns = true →
    ∃ e, exec .periodicSliceQueue s = .next { s with dev := e } ∧ (∀ x ∈ s.dev.bst.queue, x ∈ e.bst.queue) ∧
      ∀ n, n < 1024 → slicePresent s.fuse s.dev n = true → ∃ x ∈ e.bst.queue, x.num = n) ∧
  (∀ (n : BitVec 12) x lock s, (s.dev.bst.queue.find? fun x => x.num == n.toNat) = some x → slicePresent s.fuse s.dev n.toNat = true →
    sliceOpen s.dev x = true → sliceReady s.dev n.toNat lock = true → x.owner = none → s.dev.Loud →
    ∃ e, exec (.selfTestSliceRun n false lock) s = .next { s with dev := e } ∧ e.bst.queue = s.dev.bst.queue.erase x ∧
      e.bst.faults = s.dev.bst.faults) ∧
  (∀ (n : BitVec 12) x lock s, (s.dev.bst.queue.find? fun x => x.num == n.toNat) = some x → slicePresent s.fuse s.dev n.toNat = true →
    sliceOpen s.dev x = true → sliceReady s.dev n.toNat lock = true → x.owner = none → s.dev.Loud → s.dev.bst.faults < 0xFFF →
    ∃ e, exec (.selfTestSliceRun n true lock) s = .next { s with dev := e } ∧ e.bst.faults = s.dev.bst.faults + 1 ∧
      e.bst.lastFault = n.toNat) ∧
  (∀ (n : BitVec 12) x fault lock s, (s.dev.bst.queue.find? fun x => x.num == n.toNat) = some x → slicePresent s.fuse s.dev n.toNat = true →
    sliceOpen s.dev x = true → sliceReady s.dev n.toNat lock = false → x.deferrals < 8 → s.dev.Loud →
    ∃ y e, exec (.selfTestSliceRun n fault lock) s = .next { s with dev := e } ∧ y ∈ e.bst.queue ∧ y.num = n.toNat ∧
      y.deferrals = x.deferrals + 1 ∧ e.bst.queue.length = s.dev.bst.queue.length)

/-- The Forax debug port (R257, R410 to R415): its instructions are loaded and their registers shifted out; a challenge is drawn and a wrong
response counted, four of which lock the port until its supply goes; the commands of an unlocked port halt, step and read core pairs, and a locked
port refuses them; the close of the session resumes the pairs and gives back the port's semaphores. Completes with a next state: idcode,
samplePreload, bypass, fxStatus, fxChal, tapReset, fxResp, fxHalt, fxResume, fxStep, fxReadRegister, fxWriteRegister, fxSetBreakpoint,
fxClearBreakpoint, fxRead, fxWrite, fxSemaphoreAcquire, fxSemaphoreRelease, fxCloseSession, breakpointHit. -/
def Obligations.DEBUG_PORT : Prop :=
  (∀ s, s.dev.tap = false → exec .idcode s = .next s ∧ exec .fxStatus s = .next s ∧ exec .fxChal s = .next s ∧ exec .tapReset s = .next s) ∧
  (∀ s, s.dev.tap = true →
    (∃ e, exec .idcode s = .next { s with dev := e } ∧ e.dbg = { s.dev.dbg with ir := 1 } ∧ e.out = .tdo 32 (idcodeWord s.fuse) :: s.dev.out) ∧
    (∀ pins, ∃ e, exec (.samplePreload pins) s = .next { s with dev := e } ∧ e.dbg = { s.dev.dbg with scan := pins, ir := 2 } ∧
      e.out = .tdo pins.length (boolsNat pins) :: s.dev.out) ∧
    (∀ code : Fin 64, code.val ∉ irCodes → ∃ e, exec (.bypass code) s = .next { s with dev := e } ∧ e.dbg = { s.dev.dbg with ir := code.val } ∧
      e.out = .tdo 1 0 :: s.dev.out) ∧
    (∃ e, exec .fxStatus s = .next { s with dev := e } ∧ e.dbg = { s.dev.dbg with ir := 0x10 } ∧ e.out = .tdo 32 (dbgSts s.dev) :: s.dev.out) ∧
    (s.dev.dbg.fails < 4 → ∃ c e, exec .fxChal s = .next { s with dev := e } ∧ e.dbg = { s.dev.dbg with chal := some c, ir := 0x11 }) ∧
    (4 ≤ s.dev.dbg.fails → ∃ e, exec .fxChal s = .next { s with dev := e } ∧ e.dbg = { s.dev.dbg with ir := 0x11 } ∧
      e.out = .tdo 384 0 :: s.dev.out) ∧
    (∃ e, exec .tapReset s = .next { s with dev := e } ∧ e.dbg = { s.dev.dbg with ir := 1, hold := false, session := false } ∧
      ∀ n, (s.dev.sem n).owner = 3 → e.sem n = ⟨0, true⟩)) ∧
  (∀ r t c s, s.dev.tap = true → s.dev.dbg.unlocked = false → s.dev.dbg.busy = false → s.dev.dbg.fails < 4 → s.dev.dbg.chal = some c →
    (Config.ecdsa s.fuse.debugKey (leBytes 48 c.toNat) r t = false →
      ∃ e, exec (.fxResp r t) s = .next { s with dev := e } ∧ e.dbg = { s.dev.dbg with ir := 0x12, fails := s.dev.dbg.fails + 1, err := 5 }) ∧
    (Config.ecdsa s.fuse.debugKey (leBytes 48 c.toNat) r t = true →
      ∃ e, exec (.fxResp r t) s = .next { s with dev := e } ∧ e.sec.dbgMode = true ∧ (e.dbg.unlocked = true ∨ e.dbg.busy = true) ∧
        ∀ k, (e.slot k).state ≠ 1)) ∧
  (∀ p s, s.dev.tap = true → s.dev.dbg.busy = false → s.dev.dbg.unlocked = false →
    ∃ e, exec (.fxHalt p) s = .next { s with dev := e } ∧ e.dbg = { s.dev.dbg with ir := 0x3F, err := 1 } ∧ e.cores = s.dev.cores) ∧
  (∀ s, s.dev.tap = true → s.dev.dbg.busy = false → s.dev.dbg.unlocked = true →
    (∀ p, (s.dev.pair p).runs = true → (s.dev.pair p).halted = false →
      ∃ e, exec (.fxHalt p) s = .next { s with dev := e } ∧ e.pair p = { s.dev.pair p with halted := true, haltAt := s.dev.tether.now } ∧
        e.dbg.session = true ∧ e.dbg.err = 0) ∧
    (∀ p, (s.dev.pair p).halted = true →
      (∃ e, exec (.fxResume p) s = .next { s with dev := e } ∧ (e.pair p).halted = false ∧
        (e.pair p).pet = (s.dev.pair p).pet + (s.dev.tether.now - (s.dev.pair p).haltAt)) ∧
      (∀ i v, ∃ e, exec (.fxStep p [(i, v)]) s = .next { s with dev := e } ∧ Tbl.look 0 (e.pair p).regs i = v ∧
        ∀ j, j ≠ i → Tbl.look 0 (e.pair p).regs j = Tbl.look 0 (s.dev.pair p).regs j) ∧
      (∀ i : Byte, ∃ e, exec (.fxReadRegister p i) s = .next { s with dev := e } ∧
        e.out = .tdo 64 (Tbl.look 0 (s.dev.pair p).regs i.toNat) :: s.dev.out) ∧
      (∀ (i : Byte) (x : BitVec 64), ∃ e, exec (.fxWriteRegister p i x) s = .next { s with dev := e } ∧
        Tbl.look 0 (e.pair p).regs i.toNat = x.toNat)) ∧
    (∀ p, (s.dev.pair p).halted = false → ∀ l, ∃ e, exec (.fxStep p l) s = .next { s with dev := e } ∧ e.dbg.err = 4 ∧ e.cores = s.dev.cores) ∧
    (∀ p (i : Fin 8) (a : BitVec 48),
      (∃ e, exec (.fxSetBreakpoint p i a) s = .next { s with dev := e } ∧ Tbl.look none (e.pair p).bkpt i.val = some a.toNat) ∧
      (∃ e, exec (.fxClearBreakpoint p i) s = .next { s with dev := e } ∧ Tbl.look none (e.pair p).bkpt i.val = none)) ∧
    (∀ raw p (a : BitVec 48) off, fxPlace a.toNat = .memory p off → ∃ e, exec (.fxRead raw a) s = .next { s with dev := e } ∧
      e.out = .tdo 64 (leNat ((List.range 8).map fun i => Tbl.look 0 (s.dev.pair p).mem (off + i))) :: s.dev.out) ∧
    (∀ p (a : BitVec 48) (x : BitVec 64) off i, fxPlace a.toNat = .memory p off → i < 8 →
      ∃ e, exec (.fxWrite a x) s = .next { s with dev := e } ∧ Tbl.look 0 (e.pair p).mem (off + i) = byteOf x.toNat i ∧
        ∀ k, k < off ∨ off + 8 ≤ k → Tbl.look 0 (e.pair p).mem k = Tbl.look 0 (s.dev.pair p).mem k) ∧
    (∀ (a : BitVec 48) x, fxPlace a.toNat = .none → ∃ e, exec (.fxWrite a x) s = .next { s with dev := e } ∧ e.dbg.err = 3) ∧
    (∀ i : Fin 64, (s.dev.sem i.val).owner = 0 → ∃ e, exec (.fxSemaphoreAcquire i) s = .next { s with dev := e } ∧ e.sem i.val = ⟨3, false⟩ ∧
      e.out = .tdo 64 (2 ^ 31 + 2 ^ 30 * b2n (s.dev.sem i.val).abandoned + 3) :: s.dev.out) ∧
    (∀ i : Fin 64, (s.dev.sem i.val).owner = 3 → ∃ e, exec (.fxSemaphoreRelease i) s = .next { s with dev := e } ∧ (e.sem i.val).owner = 0) ∧
    (∃ e, exec .fxCloseSession s = .next { s with dev := e } ∧ e.dbg.session = false ∧ (e.pair .a).halted = false ∧
      (e.pair .b).halted = false ∧ (e.pair .a).bkpt = [] ∧ ∀ n, (s.dev.sem n).owner = 3 → e.sem n = ⟨0, true⟩)) ∧
  (∀ p (i : Fin 8) a s, Tbl.look none (s.dev.pair p).bkpt i.val = some a → (s.dev.pair p).runs = true → (s.dev.pair p).halted = false →
    ∃ e, exec (.breakpointHit p i) s = .next { s with dev := e } ∧ (e.pair p).halted = true)

/-- Host writes of BAR0 (R7, R11, R12, R438): a write while BAR0 does not answer, and an error of access, change no register but the record of the
error, which holds the first; a configuration register takes each field by its access code, and no other register changes. Completes with a next
state: registerAccessError, registerWrite. -/
def Obligations.REGISTER_WRITES : Prop :=
  (∀ h off wide v s, Dev.answers s.fuse s.dev h = false → exec (.registerWrite h off wide v) s = .next s) ∧
  (∀ h k off s, Dev.answers s.fuse s.dev h = false → exec (.registerAccessError h k off) s = .next s) ∧
  (∀ h (k : Fin 3) (off : BitVec 20) s, Dev.answers s.fuse s.dev h = true → s.dev.rbit GLB_REG_ERR 31 = false →
    ∃ e, exec (.registerAccessError h k off) s = .next { s with dev := e } ∧
      (e.reg GLB_REG_ERR).toNat = 2 ^ 31 + 2 ^ 30 * hIdx h + 2 ^ 28 * k.val + off.toNat ∧
      (e.reg GLB_REG_ERR_CNT).toNat = min ((s.dev.reg GLB_REG_ERR_CNT).toNat + 1) 0xFFFFFFFF) ∧
  (∀ h (k : Fin 3) (off : BitVec 20) s, Dev.answers s.fuse s.dev h = true → s.dev.rbit GLB_REG_ERR 31 = true →
    ∃ e, exec (.registerAccessError h k off) s = .next { s with dev := e } ∧ e.reg GLB_REG_ERR = s.dev.reg GLB_REG_ERR ∧
      (e.reg GLB_REG_ERR_CNT).toNat = min ((s.dev.reg GLB_REG_ERR_CNT).toNat + 1) 0xFFFFFFFF) ∧
  (∀ h (off : BitVec 20) v s, Dev.answers s.fuse s.dev h = true → off.toNat % 4 ≠ 0 →
    exec (.registerWrite h off false v) s = exec (.registerAccessError h 1 off) s) ∧
  (∀ h (off : BitVec 20) v s, Dev.answers s.fuse s.dev h = true → off.toNat % 4 = 0 → off.toNat / 0x10000 = 13 →
    exec (.registerWrite h off false v) s = exec (.registerAccessError h 2 off) s) ∧
  (∀ h (off : BitVec 20) (v : BitVec 64) s, Dev.answers s.fuse s.dev h = true → off.toNat % 4 = 0 → s.dev.Loud →
    off.toNat / 0x10000 ∈ [3, 5, 7, 10, 12, 14] → off.toNat ≠ MTL_HEAT_CFG →
    ∃ e, exec (.registerWrite h off false v) s = .next { s with dev := e } ∧
      e.reg off.toNat = BitVec.ofNat 32 ((fieldsAt off.toNat).foldl (fun w f => f.write w (lo32 v.toNat)) (s.dev.reg off.toNat).toNat) ∧
      ∀ k, k ≠ off.toNat → e.reg k = s.dev.reg k) ∧
  (∀ h (v : BitVec 64) s, Dev.answers s.fuse s.dev h = true → s.dev.Loud →
    ∃ e, exec (.registerWrite h (BitVec.ofNat 20 PSV_FAULT) false v) s = .next { s with dev := e } ∧
      e.pwr = { s.dev.pwr with extLevel := s.dev.pwr.extLevel && !bit (lo32 v.toNat) 28, extPulse := s.dev.pwr.extPulse && !bit (lo32 v.toNat) 27 })

/-- Each command changes only the listed parts of the device: every other part, the fuses and the queue stay as they were, and the command answers a
next state in every state. Every constructor of Instr answers a next state. -/
def Obligations.COMMAND_FRAMES : Prop := ∀ (i : Instr) (s : State), Frames i.parts s (exec i s)

/-- Every step keeps the invariant of the addressed memories and of the stores of fixed size (R49, R83, R125, R325, R372, R388, R444). -/
def Obligations.STEP_KEEPS_SOUND : Prop := ∀ s t : State, s.dev.Sound → step s = .next t → t.dev.Sound

/-- The machine after reset meets that invariant; the device is Off, its queue is empty, Tether counts nothing yet with the fast clocks stopped, and
every register reads its reset value. -/
def Obligations.RESET_STATE : Prop :=
  State.reset.dev.Sound ∧ State.reset.pending = [] ∧ State.reset.dev.pwr.svc = .off ∧ State.reset.dev.tether.now = 0 ∧
    State.reset.dev.tether.slow = true ∧ ∀ off, State.reset.dev.reg off = resetOf off

/-- R31: a link that trains below 8.0 GT/s gives the head CXL.io only, its memory not active, with a logbook record and a Memory Module event
record; the next training at 8.0 GT/s or above makes CXL.mem available. Completes with a next state: linkTrained. -/
def Obligations.LOW_RATE_LINK : Prop :=
  ∀ h (rate : Fin 8) (width : Fin 32) s, s.dev.live = true → presentHead s.fuse h = true → activeHead s.fuse s.dev h = true →
    s.dev.pwr.downing = none → s.dev.pwr.flush = none → (s.dev.head h).d3cold = false → rate.val ≤ 5 → widthCode width.val ≠ 0 →
    width.val ≤ s.dev.maxWidth h →
    (rate.val < 2 → ∃ e, exec (.linkTrained h rate width) s = .next { s with dev := e } ∧ (e.head h).linkUp = true ∧ (e.head h).cxlMem = false ∧
      (e.head h).warn = (s.dev.head h).warn.add .linkSlow 0x2001 s.dev.tether.now ∧
      (s.dev.log.accepting = true → e.log = (s.dev.recordIn s.fuse 0x2001 (hIdx h) s.dev.tether.now).log) ∧
      (s.dev.log.accepting = false → s.dev.aon.events.length < 8 →
        e.aon.events = s.dev.aon.events ++ [⟨0x2001, hIdx h, s.dev.tether.now % 2 ^ 32⟩])) ∧
    (2 ≤ rate.val → ∃ e, exec (.linkTrained h rate width) s = .next { s with dev := e } ∧ (e.head h).linkUp = true ∧
      (e.head h).cxlMem = true ∧ (e.head h).warn = (s.dev.head h).warn)

/-- R83: for each head, the i-th of its converted ways, in ascending way number, backs the 4 MiB from volatile DPA 0xF00_0000_0000 + i × 0x40_0000;
in dual-head mode a way is the head's that head_b names, in the other modes every converted way belongs to the one logical device. A line of way w
has place w × 65,536 plus its number in the way, so no two lines share one. LIN_SCR_CTL has one bit of scr_en and one of head_b for each of the ways
8 to 10, and they are in force once a change of the mapping ends. Completes with a next state: scratchChangeDone. -/
def Obligations.SCRATCH_WAYS_BACK_VOLATILE : Prop :=
  (∀ (F : Fuses) (d : Dev) (h : Head) (conv : Nat → Bool),
    (∀ w, conv w = (bit d.cache.scrAct (w - 8) && (!decide (portMode F d = .dualHead) || decide (bit d.cache.scrHeadB (w - 8) = decide (h = .b))))) →
    d.scrChanging F h = false →
    ∀ w i off, w ∈ [8, 9, 10] → conv w = true → i = (([8, 9, 10].filter fun k => decide (k < w) && conv k).length) → off < 0x400000 →
      placeOf F d h (0xF0000000000 + i * 0x400000 + off) = .scratch (w * 65536 + off / 64)) ∧
  (∀ s, s.dev.cache.scrBusy = true → ∃ e, exec .scratchChangeDone s = .next { s with dev := e } ∧
    (∀ w, w ∈ [8, 9, 10] → bit e.cache.scrAct (w - 8) = s.dev.rbit LIN_SCR_CTL (w - 8) ∧
      bit e.cache.scrHeadB (w - 8) = s.dev.rbit LIN_SCR_CTL (w - 8 + 4)))

/-- R386: in classes M and L an event equal to the newest record is merged into it where that record is unflushed, has count below 0xFFFF and is not
closed; any other event makes a new record (R388 has room for 1,024). Completes with a next state: eventRecord. -/
def Obligations.EVENT_MERGING : Prop :=
  (∀ (code : BitVec 16) (arg : BitVec 64) l r s, s.dev.log.accepting = true → s.fuse.cls ≠ .s → s.dev.log.buf = l ++ [r] →
    r.code = code.toNat → r.arg = arg.toNat → r.count < 0xFFFF → r.closed = false →
    ∃ e, exec (.eventRecord code arg) s = .next { s with dev := e } ∧ e.log = { s.dev.log with buf := l ++ [{ r with count := r.count + 1 }] }) ∧
  (∀ (code : BitVec 16) (arg : BitVec 64) s, s.dev.log.accepting = true → s.fuse.cls ≠ .s → s.dev.log.buf.length < 1024 →
    (∀ r ∈ s.dev.log.buf.getLast?, ¬ (r.code = code.toNat ∧ r.arg = arg.toNat ∧ r.count < 0xFFFF ∧ r.closed = false)) →
    ∃ e, exec (.eventRecord code arg) s = .next { s with dev := e } ∧ e.log.next = s.dev.log.next + 1 ∧
      e.log.buf = s.dev.log.buf ++ [⟨s.dev.log.next, code.toNat, 1, s.dev.keel.opmin, s.dev.keel.pcyc, s.dev.tether.now % 2 ^ 32, arg.toNat, false⟩])

/-- R411: EXTEST, CLAMP and HIGHZ act only while bring-up has not passed step 0x4 or has stalled; at any later point they are refused: the bypass
register is selected and the error code set. While one is loaded, bring-up holds at its step, whatever its work; it resumes at Test-Logic-Reset.
Completes with a next state: tapReset, extest, clamp, highz. -/
def Obligations.SCAN_HOLDS_BRINGUP : Prop :=
  (∀ i k s, (i, k) ∈ [(Instr.extest, 0), (.clamp, 3), (.highz, 4)] → s.dev.tap = true →
    (s.dev.pwr.svc = .bringup → s.dev.pwr.step ≤ 4 ∨ s.dev.pwr.step = 0xF →
      ∃ e, exec i s = .next { s with dev := e } ∧ e.dbg = { s.dev.dbg with hold := true, ir := k } ∧ e.pwr = s.dev.pwr) ∧
    (¬ (s.dev.pwr.svc = .bringup ∧ (s.dev.pwr.step ≤ 4 ∨ s.dev.pwr.step = 0xF)) →
      ∃ e, exec i s = .next { s with dev := e } ∧ e.dbg = { s.dev.dbg with ir := 0x3F, err := 1 } ∧ e.out = .tdo 1 0 :: s.dev.out)) ∧
  (∀ inp parts lost s, s.dev.dbg.hold = true →
    exec (.bringupStep inp) s = .next s ∧ exec (.replayRestore parts lost) s = .next s) ∧
  (∀ s, s.dev.tap = true → ∃ e, exec .tapReset s = .next { s with dev := e } ∧ e.dbg.hold = false ∧ e.dbg.ir = 1 ∧ e.pwr = s.dev.pwr)
end

