-- ==== Sys2Proof/Laws/Touch.lean ====
section
/-!
SUPPORT. The frame relation `Touches`: it composes, and every update of parts of the device touches those parts only.
-/
namespace Sys2Proof

open Machine

theorem Touches.refl (l : List Part) (d : Dev) : Touches l d d := ⟨fun p _ => by cases p <;> rfl⟩

theorem Part.same_trans {p : Part} {d e f : Dev} (h : p.same d e) (g : p.same e f) : p.same d f := by
  cases p <;> exact Eq.trans g h

theorem Touches.comp {l k : List Part} {d e f : Dev} (g : Touches k e f) (s : k ⊆ l) (h : Touches l d e) : Touches l d f :=
  ⟨fun p hp => Part.same_trans (h.same p hp) (g.same p fun m => hp (s m))⟩

theorem Touches.mono {l k : List Part} {d e : Dev} (h : Touches k d e) (s : k ⊆ l) : Touches l d e := ⟨fun p hp => h.same p fun m => hp (s m)⟩

theorem Touches.ite {l : List Part} {d e f : Dev} {c : Prop} [Decidable c] (h : Touches l d e) (g : Touches l d f) :
    Touches l d (if c then e else f) := by split <;> assumption

theorem Touches.foldl {α : Type} {l : List Part} {d e : Dev} {f : Dev → α → Dev} {xs : List α} (hf : ∀ a x, Touches l a (f a x))
    (h : Touches l d e) : Touches l d (xs.foldl f e) := List.foldlRecOn xs f h fun a g x _ => (hf a x).comp (List.Subset.refl l) g

theorem Touches.put_a (e : Dev) (v0) : Touches [.a] e { e with a := v0 } :=
  ⟨fun p hp => by cases p <;> first | rfl | exact absurd (by decide) hp⟩

theorem Touches.put_a_b (e : Dev) (v0) (v1) : Touches [.a, .b] e { e with a := v0, b := v1 } :=
  ⟨fun p hp => by cases p <;> first | rfl | exact absurd (by decide) hp⟩

theorem Touches.put_a_b_pwr (e : Dev) (v0) (v1) (v2) : Touches [.a, .b, .pwr] e { e with a := v0, b := v1, pwr := v2 } :=
  ⟨fun p hp => by cases p <;> first | rfl | exact absurd (by decide) hp⟩

theorem Touches.put_aon (e : Dev) (v0) : Touches [.aon] e { e with aon := v0 } :=
  ⟨fun p hp => by cases p <;> first | rfl | exact absurd (by decide) hp⟩

theorem Touches.put_b (e : Dev) (v0) : Touches [.b] e { e with b := v0 } :=
  ⟨fun p hp => by cases p <;> first | rfl | exact absurd (by decide) hp⟩

theorem Touches.put_bst (e : Dev) (v0) : Touches [.bst] e { e with bst := v0 } :=
  ⟨fun p hp => by cases p <;> first | rfl | exact absurd (by decide) hp⟩

theorem Touches.put_cache (e : Dev) (v0) : Touches [.cache] e { e with cache := v0 } :=
  ⟨fun p hp => by cases p <;> first | rfl | exact absurd (by decide) hp⟩

theorem Touches.put_cores (e : Dev) (v0) : Touches [.cores] e { e with cores := v0 } :=
  ⟨fun p hp => by cases p <;> first | rfl | exact absurd (by decide) hp⟩

theorem Touches.put_cores_images (e : Dev) (v0) (v1) : Touches [.cores, .images] e { e with cores := v0, images := v1 } :=
  ⟨fun p hp => by cases p <;> first | rfl | exact absurd (by decide) hp⟩

theorem Touches.put_cores_images_lci (e : Dev) (v0) (v1) (v2) : Touches [.cores, .images, .lci] e { e with cores := v0, images := v1, lci := v2 } :=
  ⟨fun p hp => by cases p <;> first | rfl | exact absurd (by decide) hp⟩

theorem Touches.put_cores_lci (e : Dev) (v0) (v1) : Touches [.cores, .lci] e { e with cores := v0, lci := v1 } :=
  ⟨fun p hp => by cases p <;> first | rfl | exact absurd (by decide) hp⟩

theorem Touches.put_dbg (e : Dev) (v0) : Touches [.dbg] e { e with dbg := v0 } :=
  ⟨fun p hp => by cases p <;> first | rfl | exact absurd (by decide) hp⟩

theorem Touches.put_dbg_sec (e : Dev) (v0) (v1) : Touches [.dbg, .sec] e { e with dbg := v0, sec := v1 } :=
  ⟨fun p hp => by cases p <;> first | rfl | exact absurd (by decide) hp⟩

theorem Touches.put_drift (e : Dev) (v0) : Touches [.drift] e { e with drift := v0 } :=
  ⟨fun p hp => by cases p <;> first | rfl | exact absurd (by decide) hp⟩

theorem Touches.put_drift_sec (e : Dev) (v0) (v1) : Touches [.drift, .sec] e { e with drift := v0, sec := v1 } :=
  ⟨fun p hp => by cases p <;> first | rfl | exact absurd (by decide) hp⟩

theorem Touches.put_fresh (e : Dev) (v0) : Touches [.fresh] e { e with fresh := v0 } :=
  ⟨fun p hp => by cases p <;> first | rfl | exact absurd (by decide) hp⟩

theorem Touches.put_gon (e : Dev) (v0) : Touches [.gon] e { e with gon := v0 } :=
  ⟨fun p hp => by cases p <;> first | rfl | exact absurd (by decide) hp⟩

theorem Touches.put_gon_cache (e : Dev) (v0) (v1) : Touches [.gon, .cache] e { e with gon := v0, cache := v1 } :=
  ⟨fun p hp => by cases p <;> first | rfl | exact absurd (by decide) hp⟩

theorem Touches.put_gpio (e : Dev) (v0) : Touches [.gpio] e { e with gpio := v0 } :=
  ⟨fun p hp => by cases p <;> first | rfl | exact absurd (by decide) hp⟩

theorem Touches.put_gpio_media (e : Dev) (v0) (v1) : Touches [.gpio, .media] e { e with gpio := v0, media := v1 } :=
  ⟨fun p hp => by cases p <;> first | rfl | exact absurd (by decide) hp⟩

theorem Touches.put_gpio_media_pwr (e : Dev) (v0) (v1) (v2) : Touches [.gpio, .media, .pwr] e { e with gpio := v0, media := v1, pwr := v2 } :=
  ⟨fun p hp => by cases p <;> first | rfl | exact absurd (by decide) hp⟩

theorem Touches.put_images (e : Dev) (v0) : Touches [.images] e { e with images := v0 } :=
  ⟨fun p hp => by cases p <;> first | rfl | exact absurd (by decide) hp⟩

theorem Touches.put_keel (e : Dev) (v0) : Touches [.keel] e { e with keel := v0 } :=
  ⟨fun p hp => by cases p <;> first | rfl | exact absurd (by decide) hp⟩

theorem Touches.put_keel_cache (e : Dev) (v0) (v1) : Touches [.keel, .cache] e { e with keel := v0, cache := v1 } :=
  ⟨fun p hp => by cases p <;> first | rfl | exact absurd (by decide) hp⟩

theorem Touches.put_keel_cache_drift (e : Dev) (v0) (v1) (v2) : Touches [.keel, .cache, .drift] e { e with keel := v0, cache := v1, drift := v2 } :=
  ⟨fun p hp => by cases p <;> first | rfl | exact absurd (by decide) hp⟩

theorem Touches.put_keel_cache_drift_sec (e : Dev) (v0) (v1) (v2) (v3) : Touches [.keel, .cache, .drift, .sec] e { e with keel := v0, cache := v1, drift := v2, sec := v3 } :=
  ⟨fun p hp => by cases p <;> first | rfl | exact absurd (by decide) hp⟩

theorem Touches.put_keel_log (e : Dev) (v0) (v1) : Touches [.keel, .log] e { e with keel := v0, log := v1 } :=
  ⟨fun p hp => by cases p <;> first | rfl | exact absurd (by decide) hp⟩

theorem Touches.put_keel_log_lci (e : Dev) (v0) (v1) (v2) : Touches [.keel, .log, .lci] e { e with keel := v0, log := v1, lci := v2 } :=
  ⟨fun p hp => by cases p <;> first | rfl | exact absurd (by decide) hp⟩

theorem Touches.put_keel_pwr (e : Dev) (v0) (v1) : Touches [.keel, .pwr] e { e with keel := v0, pwr := v1 } :=
  ⟨fun p hp => by cases p <;> first | rfl | exact absurd (by decide) hp⟩

theorem Touches.put_launch (e : Dev) (v0) : Touches [.launch] e { e with launch := v0 } :=
  ⟨fun p hp => by cases p <;> first | rfl | exact absurd (by decide) hp⟩

theorem Touches.put_lci (e : Dev) (v0) : Touches [.lci] e { e with lci := v0 } :=
  ⟨fun p hp => by cases p <;> first | rfl | exact absurd (by decide) hp⟩

theorem Touches.put_log (e : Dev) (v0) : Touches [.log] e { e with log := v0 } :=
  ⟨fun p hp => by cases p <;> first | rfl | exact absurd (by decide) hp⟩

theorem Touches.put_log_aon (e : Dev) (v0) (v1) : Touches [.log, .aon] e { e with log := v0, aon := v1 } :=
  ⟨fun p hp => by cases p <;> first | rfl | exact absurd (by decide) hp⟩

theorem Touches.put_media (e : Dev) (v0) : Touches [.media] e { e with media := v0 } :=
  ⟨fun p hp => by cases p <;> first | rfl | exact absurd (by decide) hp⟩

theorem Touches.put_media_tracts (e : Dev) (v0) (v1) : Touches [.media, .tracts] e { e with media := v0, tracts := v1 } :=
  ⟨fun p hp => by cases p <;> first | rfl | exact absurd (by decide) hp⟩

theorem Touches.put_out (e : Dev) (v0) : Touches [.out] e { e with out := v0 } :=
  ⟨fun p hp => by cases p <;> first | rfl | exact absurd (by decide) hp⟩

theorem Touches.put_pmc (e : Dev) (v0) : Touches [.pmc] e { e with pmc := v0 } :=
  ⟨fun p hp => by cases p <;> first | rfl | exact absurd (by decide) hp⟩

theorem Touches.put_pwr (e : Dev) (v0) : Touches [.pwr] e { e with pwr := v0 } :=
  ⟨fun p hp => by cases p <;> first | rfl | exact absurd (by decide) hp⟩

theorem Touches.put_pwr_therm (e : Dev) (v0) (v1) : Touches [.pwr, .therm] e { e with pwr := v0, therm := v1 } :=
  ⟨fun p hp => by cases p <;> first | rfl | exact absurd (by decide) hp⟩

theorem Touches.put_regs (e : Dev) (v0) : Touches [.regs] e { e with regs := v0 } :=
  ⟨fun p hp => by cases p <;> first | rfl | exact absurd (by decide) hp⟩

theorem Touches.put_regs_a (e : Dev) (v0) (v1) : Touches [.regs, .a] e { e with regs := v0, a := v1 } :=
  ⟨fun p hp => by cases p <;> first | rfl | exact absurd (by decide) hp⟩

theorem Touches.put_regs_a_b (e : Dev) (v0) (v1) (v2) : Touches [.regs, .a, .b] e { e with regs := v0, a := v1, b := v2 } :=
  ⟨fun p hp => by cases p <;> first | rfl | exact absurd (by decide) hp⟩

theorem Touches.put_regs_a_b_tether (e : Dev) (v0) (v1) (v2) (v3) : Touches [.regs, .a, .b, .tether] e { e with regs := v0, a := v1, b := v2, tether := v3 } :=
  ⟨fun p hp => by cases p <;> first | rfl | exact absurd (by decide) hp⟩

theorem Touches.put_regs_a_b_tether_gpio (e : Dev) (v0) (v1) (v2) (v3) (v4) : Touches [.regs, .a, .b, .tether, .gpio] e { e with regs := v0, a := v1, b := v2, tether := v3, gpio := v4 } :=
  ⟨fun p hp => by cases p <;> first | rfl | exact absurd (by decide) hp⟩

theorem Touches.put_regs_a_b_tether_gpio_keel (e : Dev) (v0) (v1) (v2) (v3) (v4) (v5) : Touches [.regs, .a, .b, .tether, .gpio, .keel] e { e with regs := v0, a := v1, b := v2, tether := v3, gpio := v4, keel := v5 } :=
  ⟨fun p hp => by cases p <;> first | rfl | exact absurd (by decide) hp⟩

theorem Touches.put_regs_a_b_tether_gpio_keel_aon (e : Dev) (v0) (v1) (v2) (v3) (v4) (v5) (v6) : Touches [.regs, .a, .b, .tether, .gpio, .keel, .aon] e { e with regs := v0, a := v1, b := v2, tether := v3, gpio := v4, keel := v5, aon := v6 } :=
  ⟨fun p hp => by cases p <;> first | rfl | exact absurd (by decide) hp⟩

theorem Touches.put_regs_a_b_tether_gpio_keel_aon_media (e : Dev) (v0) (v1) (v2) (v3) (v4) (v5) (v6) (v7) : Touches [.regs, .a, .b, .tether, .gpio, .keel, .aon, .media] e { e with regs := v0, a := v1, b := v2, tether := v3, gpio := v4, keel := v5, aon := v6, media := v7 } :=
  ⟨fun p hp => by cases p <;> first | rfl | exact absurd (by decide) hp⟩

theorem Touches.put_regs_a_b_tether_gpio_keel_aon_media_pwr (e : Dev) (v0) (v1) (v2) (v3) (v4) (v5) (v6) (v7) (v8) : Touches [.regs, .a, .b, .tether, .gpio, .keel, .aon, .media, .pwr] e { e with regs := v0, a := v1, b := v2, tether := v3, gpio := v4, keel := v5, aon := v6, media := v7, pwr := v8 } :=
  ⟨fun p hp => by cases p <;> first | rfl | exact absurd (by decide) hp⟩

theorem Touches.put_regs_a_b_tether_gpio_keel_aon_media_pwr_therm (e : Dev) (v0) (v1) (v2) (v3) (v4) (v5) (v6) (v7) (v8) (v9) : Touches [.regs, .a, .b, .tether, .gpio, .keel, .aon, .media, .pwr, .therm] e { e with regs := v0, a := v1, b := v2, tether := v3, gpio := v4, keel := v5, aon := v6, media := v7, pwr := v8, therm := v9 } :=
  ⟨fun p hp => by cases p <;> first | rfl | exact absurd (by decide) hp⟩

theorem Touches.put_regs_a_b_tether_launch (e : Dev) (v0) (v1) (v2) (v3) (v4) : Touches [.regs, .a, .b, .tether, .launch] e { e with regs := v0, a := v1, b := v2, tether := v3, launch := v4 } :=
  ⟨fun p hp => by cases p <;> first | rfl | exact absurd (by decide) hp⟩

theorem Touches.put_regs_a_b_tether_launch_gpio (e : Dev) (v0) (v1) (v2) (v3) (v4) (v5) : Touches [.regs, .a, .b, .tether, .launch, .gpio] e { e with regs := v0, a := v1, b := v2, tether := v3, launch := v4, gpio := v5 } :=
  ⟨fun p hp => by cases p <;> first | rfl | exact absurd (by decide) hp⟩

theorem Touches.put_regs_a_b_tether_launch_gpio_keel (e : Dev) (v0) (v1) (v2) (v3) (v4) (v5) (v6) : Touches [.regs, .a, .b, .tether, .launch, .gpio, .keel] e { e with regs := v0, a := v1, b := v2, tether := v3, launch := v4, gpio := v5, keel := v6 } :=
  ⟨fun p hp => by cases p <;> first | rfl | exact absurd (by decide) hp⟩

theorem Touches.put_regs_a_b_tether_launch_gpio_keel_log (e : Dev) (v0) (v1) (v2) (v3) (v4) (v5) (v6) (v7) : Touches [.regs, .a, .b, .tether, .launch, .gpio, .keel, .log] e { e with regs := v0, a := v1, b := v2, tether := v3, launch := v4, gpio := v5, keel := v6, log := v7 } :=
  ⟨fun p hp => by cases p <;> first | rfl | exact absurd (by decide) hp⟩

theorem Touches.put_regs_a_b_tether_launch_gpio_keel_log_cores (e : Dev) (v0) (v1) (v2) (v3) (v4) (v5) (v6) (v7) (v8) : Touches [.regs, .a, .b, .tether, .launch, .gpio, .keel, .log, .cores] e { e with regs := v0, a := v1, b := v2, tether := v3, launch := v4, gpio := v5, keel := v6, log := v7, cores := v8 } :=
  ⟨fun p hp => by cases p <;> first | rfl | exact absurd (by decide) hp⟩

theorem Touches.put_regs_a_b_tether_launch_gpio_keel_log_cores_sems (e : Dev) (v0) (v1) (v2) (v3) (v4) (v5) (v6) (v7) (v8) (v9) : Touches [.regs, .a, .b, .tether, .launch, .gpio, .keel, .log, .cores, .sems] e { e with regs := v0, a := v1, b := v2, tether := v3, launch := v4, gpio := v5, keel := v6, log := v7, cores := v8, sems := v9 } :=
  ⟨fun p hp => by cases p <;> first | rfl | exact absurd (by decide) hp⟩

theorem Touches.put_regs_a_b_tether_launch_gpio_keel_log_cores_sems_images (e : Dev) (v0) (v1) (v2) (v3) (v4) (v5) (v6) (v7) (v8) (v9) (v10) : Touches [.regs, .a, .b, .tether, .launch, .gpio, .keel, .log, .cores, .sems, .images] e { e with regs := v0, a := v1, b := v2, tether := v3, launch := v4, gpio := v5, keel := v6, log := v7, cores := v8, sems := v9, images := v10 } :=
  ⟨fun p hp => by cases p <;> first | rfl | exact absurd (by decide) hp⟩

theorem Touches.put_regs_a_b_tether_launch_gpio_keel_log_cores_sems_images_pmc (e : Dev) (v0) (v1) (v2) (v3) (v4) (v5) (v6) (v7) (v8) (v9) (v10) (v11) : Touches [.regs, .a, .b, .tether, .launch, .gpio, .keel, .log, .cores, .sems, .images, .pmc] e { e with regs := v0, a := v1, b := v2, tether := v3, launch := v4, gpio := v5, keel := v6, log := v7, cores := v8, sems := v9, images := v10, pmc := v11 } :=
  ⟨fun p hp => by cases p <;> first | rfl | exact absurd (by decide) hp⟩

theorem Touches.put_regs_a_b_tether_launch_gpio_keel_log_cores_sems_images_pmc_bst (e : Dev) (v0) (v1) (v2) (v3) (v4) (v5) (v6) (v7) (v8) (v9) (v10) (v11) (v12) : Touches [.regs, .a, .b, .tether, .launch, .gpio, .keel, .log, .cores, .sems, .images, .pmc, .bst] e { e with regs := v0, a := v1, b := v2, tether := v3, launch := v4, gpio := v5, keel := v6, log := v7, cores := v8, sems := v9, images := v10, pmc := v11, bst := v12 } :=
  ⟨fun p hp => by cases p <;> first | rfl | exact absurd (by decide) hp⟩

theorem Touches.put_regs_a_b_tether_launch_gpio_keel_log_cores_sems_images_pmc_bst_dbg (e : Dev) (v0) (v1) (v2) (v3) (v4) (v5) (v6) (v7) (v8) (v9) (v10) (v11) (v12) (v13) : Touches [.regs, .a, .b, .tether, .launch, .gpio, .keel, .log, .cores, .sems, .images, .pmc, .bst, .dbg] e { e with regs := v0, a := v1, b := v2, tether := v3, launch := v4, gpio := v5, keel := v6, log := v7, cores := v8, sems := v9, images := v10, pmc := v11, bst := v12, dbg := v13 } :=
  ⟨fun p hp => by cases p <;> first | rfl | exact absurd (by decide) hp⟩

theorem Touches.put_regs_a_b_tether_launch_gpio_keel_log_cores_sems_images_pmc_bst_dbg_gon (e : Dev) (v0) (v1) (v2) (v3) (v4) (v5) (v6) (v7) (v8) (v9) (v10) (v11) (v12) (v13) (v14) : Touches [.regs, .a, .b, .tether, .launch, .gpio, .keel, .log, .cores, .sems, .images, .pmc, .bst, .dbg, .gon] e { e with regs := v0, a := v1, b := v2, tether := v3, launch := v4, gpio := v5, keel := v6, log := v7, cores := v8, sems := v9, images := v10, pmc := v11, bst := v12, dbg := v13, gon := v14 } :=
  ⟨fun p hp => by cases p <;> first | rfl | exact absurd (by decide) hp⟩

theorem Touches.put_regs_a_b_tether_launch_gpio_keel_log_cores_sems_images_pmc_bst_dbg_gon_cache (e : Dev) (v0) (v1) (v2) (v3) (v4) (v5) (v6) (v7) (v8) (v9) (v10) (v11) (v12) (v13) (v14) (v15) : Touches [.regs, .a, .b, .tether, .launch, .gpio, .keel, .log, .cores, .sems, .images, .pmc, .bst, .dbg, .gon, .cache] e { e with regs := v0, a := v1, b := v2, tether := v3, launch := v4, gpio := v5, keel := v6, log := v7, cores := v8, sems := v9, images := v10, pmc := v11, bst := v12, dbg := v13, gon := v14, cache := v15 } :=
  ⟨fun p hp => by cases p <;> first | rfl | exact absurd (by decide) hp⟩

theorem Touches.put_regs_a_b_tether_launch_gpio_keel_log_cores_sems_images_pmc_bst_dbg_gon_cache_media (e : Dev) (v0) (v1) (v2) (v3) (v4) (v5) (v6) (v7) (v8) (v9) (v10) (v11) (v12) (v13) (v14) (v15) (v16) : Touches [.regs, .a, .b, .tether, .launch, .gpio, .keel, .log, .cores, .sems, .images, .pmc, .bst, .dbg, .gon, .cache, .media] e { e with regs := v0, a := v1, b := v2, tether := v3, launch := v4, gpio := v5, keel := v6, log := v7, cores := v8, sems := v9, images := v10, pmc := v11, bst := v12, dbg := v13, gon := v14, cache := v15, media := v16 } :=
  ⟨fun p hp => by cases p <;> first | rfl | exact absurd (by decide) hp⟩

theorem Touches.put_regs_a_b_tether_launch_gpio_keel_log_cores_sems_images_pmc_bst_dbg_gon_cache_media_tracts (e : Dev) (v0) (v1) (v2) (v3) (v4) (v5) (v6) (v7) (v8) (v9) (v10) (v11) (v12) (v13) (v14) (v15) (v16) (v17) : Touches [.regs, .a, .b, .tether, .launch, .gpio, .keel, .log, .cores, .sems, .images, .pmc, .bst, .dbg, .gon, .cache, .media, .tracts] e { e with regs := v0, a := v1, b := v2, tether := v3, launch := v4, gpio := v5, keel := v6, log := v7, cores := v8, sems := v9, images := v10, pmc := v11, bst := v12, dbg := v13, gon := v14, cache := v15, media := v16, tracts := v17 } :=
  ⟨fun p hp => by cases p <;> first | rfl | exact absurd (by decide) hp⟩

theorem Touches.put_regs_a_b_tether_launch_gpio_keel_log_cores_sems_images_pmc_bst_dbg_gon_cache_media_tracts_drift (e : Dev) (v0) (v1) (v2) (v3) (v4) (v5) (v6) (v7) (v8) (v9) (v10) (v11) (v12) (v13) (v14) (v15) (v16) (v17) (v18) : Touches [.regs, .a, .b, .tether, .launch, .gpio, .keel, .log, .cores, .sems, .images, .pmc, .bst, .dbg, .gon, .cache, .media, .tracts, .drift] e { e with regs := v0, a := v1, b := v2, tether := v3, launch := v4, gpio := v5, keel := v6, log := v7, cores := v8, sems := v9, images := v10, pmc := v11, bst := v12, dbg := v13, gon := v14, cache := v15, media := v16, tracts := v17, drift := v18 } :=
  ⟨fun p hp => by cases p <;> first | rfl | exact absurd (by decide) hp⟩

theorem Touches.put_regs_a_b_tether_launch_gpio_keel_log_cores_sems_images_pmc_bst_dbg_gon_cache_media_tracts_drift_sec (e : Dev) (v0) (v1) (v2) (v3) (v4) (v5) (v6) (v7) (v8) (v9) (v10) (v11) (v12) (v13) (v14) (v15) (v16) (v17) (v18) (v19) : Touches [.regs, .a, .b, .tether, .launch, .gpio, .keel, .log, .cores, .sems, .images, .pmc, .bst, .dbg, .gon, .cache, .media, .tracts, .drift, .sec] e { e with regs := v0, a := v1, b := v2, tether := v3, launch := v4, gpio := v5, keel := v6, log := v7, cores := v8, sems := v9, images := v10, pmc := v11, bst := v12, dbg := v13, gon := v14, cache := v15, media := v16, tracts := v17, drift := v18, sec := v19 } :=
  ⟨fun p hp => by cases p <;> first | rfl | exact absurd (by decide) hp⟩

theorem Touches.put_regs_a_b_tether_launch_gpio_keel_log_cores_sems_images_pmc_bst_dbg_gon_cache_media_tracts_drift_sec_str (e : Dev) (v0) (v1) (v2) (v3) (v4) (v5) (v6) (v7) (v8) (v9) (v10) (v11) (v12) (v13) (v14) (v15) (v16) (v17) (v18) (v19) (v20) : Touches [.regs, .a, .b, .tether, .launch, .gpio, .keel, .log, .cores, .sems, .images, .pmc, .bst, .dbg, .gon, .cache, .media, .tracts, .drift, .sec, .str] e { e with regs := v0, a := v1, b := v2, tether := v3, launch := v4, gpio := v5, keel := v6, log := v7, cores := v8, sems := v9, images := v10, pmc := v11, bst := v12, dbg := v13, gon := v14, cache := v15, media := v16, tracts := v17, drift := v18, sec := v19, str := v20 } :=
  ⟨fun p hp => by cases p <;> first | rfl | exact absurd (by decide) hp⟩

theorem Touches.put_regs_a_b_tether_launch_gpio_keel_log_cores_sems_images_pmc_bst_dbg_gon_cache_media_tracts_drift_sec_str_lci (e : Dev) (v0) (v1) (v2) (v3) (v4) (v5) (v6) (v7) (v8) (v9) (v10) (v11) (v12) (v13) (v14) (v15) (v16) (v17) (v18) (v19) (v20) (v21) : Touches [.regs, .a, .b, .tether, .launch, .gpio, .keel, .log, .cores, .sems, .images, .pmc, .bst, .dbg, .gon, .cache, .media, .tracts, .drift, .sec, .str, .lci] e { e with regs := v0, a := v1, b := v2, tether := v3, launch := v4, gpio := v5, keel := v6, log := v7, cores := v8, sems := v9, images := v10, pmc := v11, bst := v12, dbg := v13, gon := v14, cache := v15, media := v16, tracts := v17, drift := v18, sec := v19, str := v20, lci := v21 } :=
  ⟨fun p hp => by cases p <;> first | rfl | exact absurd (by decide) hp⟩

theorem Touches.put_regs_a_b_tether_launch_gpio_keel_log_cores_sems_images_pmc_bst_dbg_gon_cache_media_tracts_drift_sec_str_lci_therm (e : Dev) (v0) (v1) (v2) (v3) (v4) (v5) (v6) (v7) (v8) (v9) (v10) (v11) (v12) (v13) (v14) (v15) (v16) (v17) (v18) (v19) (v20) (v21) (v22) : Touches [.regs, .a, .b, .tether, .launch, .gpio, .keel, .log, .cores, .sems, .images, .pmc, .bst, .dbg, .gon, .cache, .media, .tracts, .drift, .sec, .str, .lci, .therm] e { e with regs := v0, a := v1, b := v2, tether := v3, launch := v4, gpio := v5, keel := v6, log := v7, cores := v8, sems := v9, images := v10, pmc := v11, bst := v12, dbg := v13, gon := v14, cache := v15, media := v16, tracts := v17, drift := v18, sec := v19, str := v20, lci := v21, therm := v22 } :=
  ⟨fun p hp => by cases p <;> first | rfl | exact absurd (by decide) hp⟩

theorem Touches.put_regs_pmc (e : Dev) (v0) (v1) : Touches [.regs, .pmc] e { e with regs := v0, pmc := v1 } :=
  ⟨fun p hp => by cases p <;> first | rfl | exact absurd (by decide) hp⟩

theorem Touches.put_sec (e : Dev) (v0) : Touches [.sec] e { e with sec := v0 } :=
  ⟨fun p hp => by cases p <;> first | rfl | exact absurd (by decide) hp⟩

theorem Touches.put_sems (e : Dev) (v0) : Touches [.sems] e { e with sems := v0 } :=
  ⟨fun p hp => by cases p <;> first | rfl | exact absurd (by decide) hp⟩

theorem Touches.put_str (e : Dev) (v0) : Touches [.str] e { e with str := v0 } :=
  ⟨fun p hp => by cases p <;> first | rfl | exact absurd (by decide) hp⟩

theorem Touches.put_str_lci (e : Dev) (v0) (v1) : Touches [.str, .lci] e { e with str := v0, lci := v1 } :=
  ⟨fun p hp => by cases p <;> first | rfl | exact absurd (by decide) hp⟩

theorem Touches.put_tether (e : Dev) (v0) : Touches [.tether] e { e with tether := v0 } :=
  ⟨fun p hp => by cases p <;> first | rfl | exact absurd (by decide) hp⟩

theorem Touches.put_tether_keel (e : Dev) (v0) (v1) : Touches [.tether, .keel] e { e with tether := v0, keel := v1 } :=
  ⟨fun p hp => by cases p <;> first | rfl | exact absurd (by decide) hp⟩

theorem Touches.put_tether_lci (e : Dev) (v0) (v1) : Touches [.tether, .lci] e { e with tether := v0, lci := v1 } :=
  ⟨fun p hp => by cases p <;> first | rfl | exact absurd (by decide) hp⟩

theorem Touches.put_tether_lci_pwr (e : Dev) (v0) (v1) (v2) : Touches [.tether, .lci, .pwr] e { e with tether := v0, lci := v1, pwr := v2 } :=
  ⟨fun p hp => by cases p <;> first | rfl | exact absurd (by decide) hp⟩

theorem Touches.put_tether_media (e : Dev) (v0) (v1) : Touches [.tether, .media] e { e with tether := v0, media := v1 } :=
  ⟨fun p hp => by cases p <;> first | rfl | exact absurd (by decide) hp⟩

theorem Touches.put_tether_pwr (e : Dev) (v0) (v1) : Touches [.tether, .pwr] e { e with tether := v0, pwr := v1 } :=
  ⟨fun p hp => by cases p <;> first | rfl | exact absurd (by decide) hp⟩

theorem Touches.put_therm (e : Dev) (v0) : Touches [.therm] e { e with therm := v0 } :=
  ⟨fun p hp => by cases p <;> first | rfl | exact absurd (by decide) hp⟩

theorem Touches.put_tracts (e : Dev) (v0) : Touches [.tracts] e { e with tracts := v0 } :=
  ⟨fun p hp => by cases p <;> first | rfl | exact absurd (by decide) hp⟩

theorem Touches.put_tracts_pwr (e : Dev) (v0) (v1) : Touches [.tracts, .pwr] e { e with tracts := v0, pwr := v1 } :=
  ⟨fun p hp => by cases p <;> first | rfl | exact absurd (by decide) hp⟩

theorem Touches.put_tracts_sec (e : Dev) (v0) (v1) : Touches [.tracts, .sec] e { e with tracts := v0, sec := v1 } :=
  ⟨fun p hp => by cases p <;> first | rfl | exact absurd (by decide) hp⟩

theorem Touches.put_tracts_sec_str (e : Dev) (v0) (v1) (v2) : Touches [.tracts, .sec, .str] e { e with tracts := v0, sec := v1, str := v2 } :=
  ⟨fun p hp => by cases p <;> first | rfl | exact absurd (by decide) hp⟩

theorem Frames.next {l : List Part} {s : State} {e : Dev} (h : Touches l s.dev e) : Frames l s (.next { s with dev := e }) := ⟨e, rfl, h⟩

theorem Frames.same (l : List Part) (s : State) : Frames l s (.next s) := ⟨s.dev, rfl, Touches.refl _ _⟩

end Sys2Proof
end

