-- ==== Sys2Proof/Laws/FrameBase.lean ====
section
/-!
SUPPORT. What each shared operation can change: registers, events, the Keel store, translation, the store of lines and the clean stores.
-/
namespace Sys2Proof.Machine

theorem Dev.reach_touches (d) (u) : Touches [.tether, .media] d (Dev.reach d u) := by
  unfold Dev.reach
  refine Touches.ite ?_ ?_
  · refine Touches.comp (Touches.put_tether ..) (by decide) ?_
    exact Touches.refl _ _
  · refine Touches.comp (Touches.put_tether_media ..) (by decide) ?_
    exact Touches.refl _ _

theorem Dev.setReg_touches (d) (off) (v) : Touches [.regs] d (Dev.setReg d off v) := by
  unfold Dev.setReg
  refine Touches.comp (Touches.put_regs ..) (by decide) ?_
  exact Touches.refl _ _

theorem Dev.setFld_touches (d) (off) (hi) (lo) (v) : Touches [.regs] d (Dev.setFld d off hi lo v) := by
  unfold Dev.setFld
  refine Touches.comp (Dev.setReg_touches ..) (by decide) ?_
  exact Touches.refl _ _

theorem Dev.setRbit_touches (d) (off) (k) (b) : Touches [.regs] d (Dev.setRbit d off k b) := by
  unfold Dev.setRbit
  refine Touches.comp (Dev.setFld_touches ..) (by decide) ?_
  exact Touches.refl _ _

theorem Dev.icu_touches (d) (n) : Touches [.regs] d (Dev.icu d n) := by
  unfold Dev.icu
  refine Touches.ite ?_ ?_
  · exact Touches.refl _ _
  · refine Touches.ite ?_ ?_
    · refine Touches.comp (Dev.setRbit_touches ..) (by decide) ?_
      exact Touches.refl _ _
    · refine Touches.comp (Dev.setRbit_touches ..) (by decide) ?_
      exact Touches.refl _ _

theorem Dev.addCnt_touches (d) (i) (n) : Touches [.regs, .pmc] d (Dev.addCnt d i n) := by
  unfold Dev.addCnt
  conv => zeta
  refine Touches.ite ?_ ?_
  · refine Touches.comp (Dev.icu_touches ..) (by decide) ?_
    refine Touches.comp (Touches.put_pmc ..) (by decide) ?_
    exact Touches.refl _ _
  · refine Touches.comp (Touches.put_pmc ..) (by decide) ?_
    exact Touches.refl _ _

theorem Dev.countAt_touches (d) (ev) (n) (head) : Touches [.regs, .pmc] d (Dev.countAt d ev n head) := by
  unfold Dev.countAt
  refine Touches.foldl (fun _ _ => ?_) ?_
  · refine Touches.comp (Dev.addCnt_touches ..) (by decide) ?_
    exact Touches.refl _ _
  · exact Touches.refl _ _

theorem Dev.count_touches (d) (ev) (n) : Touches [.regs, .pmc] d (Dev.count d ev n) := by
  unfold Dev.count
  refine Touches.comp (Dev.countAt_touches ..) (by decide) ?_
  exact Touches.refl _ _

theorem Dev.countH_touches (d) (ev) (h) (n) : Touches [.regs, .pmc] d (Dev.countH d ev h n) := by
  unfold Dev.countH
  refine Touches.comp (Dev.countAt_touches ..) (by decide) ?_
  exact Touches.refl _ _

theorem Dev.passed_touches (x0) (x1) (x2) : Touches [.regs, .pmc] x0 (Dev.passed x0 x1 x2) := by
  unfold Dev.passed
  refine Touches.ite (Touches.refl ..) ?_
  extract_lets on up withheld d1
  have hon : ∀ b ev (d : Dev), Touches [.regs, .pmc] d (on b ev d) := fun b ev d => Touches.ite (Dev.count_touches ..) (Touches.refl ..)
  have hw : ∀ h (d : Dev), Touches [.regs, .pmc] d (withheld h d) := fun h d =>
    Touches.ite (Touches.comp (Dev.countH_touches ..) (by decide) (Touches.ite (Dev.countH_touches ..) (Touches.refl ..)))
      (Touches.ite (Dev.countH_touches ..) (Touches.refl ..))
  have h1 : Touches [.regs, .pmc] x0 d1 := Touches.comp (Dev.count_touches ..) (by decide) (Dev.count_touches ..)
  iterate 5 refine Touches.comp (hon ..) (by decide) ?_
  exact Touches.comp (hw ..) (by decide) (Touches.comp (hw ..) (by decide) h1)

theorem Dev.advance_touches (d) (t) : Touches [.regs, .tether, .pmc, .media] d (Dev.advance d t) := by
  unfold Dev.advance
  conv => zeta
  refine Touches.ite ?_ ?_
  · exact Touches.refl _ _
  · refine Touches.comp (Dev.reach_touches ..) (by decide) ?_
    refine Touches.comp (Dev.passed_touches ..) (by decide) ?_
    exact Touches.refl _ _

theorem Dev.tick_touches (d) (id) (p) : Touches [.regs, .tether, .pmc, .media] d (Dev.tick d id p) := by
  unfold Dev.tick
  refine Touches.comp (Touches.put_tether ..) (by decide) ?_
  refine Touches.comp (Dev.advance_touches ..) (by decide) ?_
  exact Touches.refl _ _

theorem Dev.setCache_touches (d) (c) : Touches [.cache] d (Dev.setCache d c) := by
  unfold Dev.setCache
  refine Touches.comp (Touches.put_cache ..) (by decide) ?_
  exact Touches.refl _ _

theorem Dev.setChan_touches (d) (n) (x) : Touches [.media] d (Dev.setChan d n x) := by
  unfold Dev.setChan
  refine Touches.comp (Touches.put_media ..) (by decide) ?_
  exact Touches.refl _ _

theorem Dev.setGrp_touches (d) (g) (x) : Touches [.media] d (Dev.setGrp d g x) := by
  unfold Dev.setGrp
  refine Touches.comp (Touches.put_media ..) (by decide) ?_
  exact Touches.refl _ _

theorem Dev.setCtl_touches (d) (m) (x) : Touches [.media] d (Dev.setCtl d m x) := by
  unfold Dev.setCtl
  refine Touches.comp (Touches.put_media ..) (by decide) ?_
  exact Touches.refl _ _

theorem Dev.setDie_touches (d) (m) (x) : Touches [.media] d (Dev.setDie d m x) := by
  unfold Dev.setDie
  refine Touches.comp (Touches.put_media ..) (by decide) ?_
  exact Touches.refl _ _

theorem Dev.restoreCfg_touches (d) : Touches [.regs] d (Dev.restoreCfg d) := by
  unfold Dev.restoreCfg
  refine Touches.foldl (fun _ _ => ?_) ?_
  · split
    · refine Touches.comp (Dev.setReg_touches ..) (by decide) ?_
      exact Touches.refl _ _
    · exact Touches.refl _ _
  · exact Touches.refl _ _

theorem Dev.keelPut_touches (d) (w) : Touches [.keel] d (Dev.keelPut d w) := by
  unfold Dev.keelPut
  refine Touches.comp (Touches.put_keel ..) (by decide) ?_
  exact Touches.refl _ _

theorem Dev.logPush_touches (d) (code) (arg) (tether) : Touches [.regs, .log] d (Dev.logPush d code arg tether) := by
  unfold Dev.logPush
  conv => zeta
  refine Touches.ite ?_ ?_
  · refine Touches.comp (Touches.put_log ..) (by decide) ?_
    exact Touches.refl _ _
  · refine Touches.ite ?_ ?_
    · refine Touches.comp (Dev.icu_touches ..) (by decide) ?_
      refine Touches.comp (Touches.put_log ..) (by decide) ?_
      exact Touches.refl _ _
    · refine Touches.comp (Touches.put_log ..) (by decide) ?_
      exact Touches.refl _ _

theorem Dev.rateEnd_touches (d) : Touches [.regs, .log] d (Dev.rateEnd d) := by
  unfold Dev.rateEnd
  refine Touches.comp (Touches.put_log ..) (by decide) ?_
  refine Touches.ite ?_ ?_
  · refine Touches.foldl (fun _ _ => ?_) ?_
    · refine Touches.comp (Dev.logPush_touches ..) (by decide) ?_
      exact Touches.refl _ _
    · exact Touches.refl _ _
  · refine Touches.comp (Dev.logPush_touches ..) (by decide) ?_
    refine Touches.foldl (fun _ _ => ?_) ?_
    · refine Touches.comp (Dev.logPush_touches ..) (by decide) ?_
      exact Touches.refl _ _
    · exact Touches.refl _ _

theorem Dev.recordIn_touches (F) (d) (code) (arg) (tether) : Touches [.regs, .log] d (Dev.recordIn F d code arg tether) := by
  unfold Dev.recordIn
  conv => zeta
  refine Touches.ite ?_ ?_
  · refine Touches.ite ?_ ?_
    · refine Touches.comp (Touches.put_log ..) (by decide) ?_
      refine Touches.ite ?_ ?_
      · exact Touches.refl _ _
      · refine Touches.comp (Dev.rateEnd_touches ..) (by decide) ?_
        exact Touches.refl _ _
    · refine Touches.comp (Dev.logPush_touches ..) (by decide) ?_
      refine Touches.comp (Touches.put_log ..) (by decide) ?_
      refine Touches.ite ?_ ?_
      · exact Touches.refl _ _
      · refine Touches.comp (Dev.rateEnd_touches ..) (by decide) ?_
        exact Touches.refl _ _
  · refine Touches.ite ?_ ?_
    · refine Touches.comp (Touches.put_log ..) (by decide) ?_
      exact Touches.refl _ _
    · refine Touches.comp (Dev.logPush_touches ..) (by decide) ?_
      exact Touches.refl _ _

theorem Dev.event_touches (F) (d) (code) (arg) : Touches [.regs, .log, .aon] d (Dev.event F d code arg) := by
  unfold Dev.event
  refine Touches.ite ?_ ?_
  · refine Touches.comp (Dev.recordIn_touches ..) (by decide) ?_
    exact Touches.refl _ _
  · refine Touches.ite ?_ ?_
    · refine Touches.comp (Touches.put_aon ..) (by decide) ?_
      exact Touches.refl _ _
    · refine Touches.comp (Touches.put_aon ..) (by decide) ?_
      exact Touches.refl _ _

theorem Dev.emit_touches (d) (o) : Touches [.out] d (Dev.emit d o) := by
  unfold Dev.emit
  refine Touches.comp (Touches.put_out ..) (by decide) ?_
  exact Touches.refl _ _

theorem Dev.ringPut_touches (d) (r) (body) (owner) : Touches [.keel] d (Dev.ringPut d r body owner) := by
  unfold Dev.ringPut
  refine Touches.comp (Dev.keelPut_touches ..) (by decide) ?_
  refine Touches.comp (Touches.put_keel ..) (by decide) ?_
  exact Touches.refl _ _

theorem Dev.lifePut_touches (d) : Touches [.tether, .keel] d (Dev.lifePut d) := by
  unfold Dev.lifePut
  refine Touches.comp (Touches.put_tether_keel ..) (by decide) ?_
  refine Touches.comp (Dev.ringPut_touches ..) (by decide) ?_
  exact Touches.refl _ _

theorem Dev.flushLog_touches (F) (d) : Touches [.regs, .keel, .log] d (Dev.flushLog F d) := by
  unfold Dev.flushLog
  conv => zeta
  split
  · refine Touches.ite ?_ ?_
    · refine Touches.comp (Touches.put_log ..) (by decide) ?_
      refine Touches.ite ?_ ?_
      · refine Touches.foldl (fun _ _ => ?_) ?_
        · refine Touches.comp (Dev.keelPut_touches ..) (by decide) ?_
          exact Touches.refl _ _
        · exact Touches.refl _ _
      · refine Touches.comp (Dev.ringPut_touches ..) (by decide) ?_
        refine Touches.foldl (fun _ _ => ?_) ?_
        · refine Touches.comp (Dev.keelPut_touches ..) (by decide) ?_
          exact Touches.refl _ _
        · exact Touches.refl _ _
    · refine Touches.comp (Dev.logPush_touches ..) (by decide) ?_
      refine Touches.comp (Touches.put_log ..) (by decide) ?_
      refine Touches.ite ?_ ?_
      · refine Touches.foldl (fun _ _ => ?_) ?_
        · refine Touches.comp (Dev.keelPut_touches ..) (by decide) ?_
          exact Touches.refl _ _
        · exact Touches.refl _ _
      · refine Touches.comp (Dev.ringPut_touches ..) (by decide) ?_
        refine Touches.foldl (fun _ _ => ?_) ?_
        · refine Touches.comp (Dev.keelPut_touches ..) (by decide) ?_
          exact Touches.refl _ _
        · exact Touches.refl _ _

theorem Dev.forceFlush_touches (F) (d) : Touches [.regs, .keel, .log] d (Dev.forceFlush F d) := by
  unfold Dev.forceFlush
  refine Touches.comp (Dev.flushLog_touches ..) (by decide) ?_
  refine Touches.comp (Touches.put_log ..) (by decide) ?_
  exact Touches.refl _ _

theorem Dev.msixOut_touches (d) (h) (vec) : Touches [.out] d (Dev.msixOut d h vec) := by
  unfold Dev.msixOut
  refine Touches.comp (Dev.emit_touches ..) (by decide) ?_
  exact Touches.refl _ _

theorem Dev.msixSend_touches (d) (h) (vec) : Touches [.regs, .out] d (Dev.msixSend d h vec) := by
  unfold Dev.msixSend
  refine Touches.ite ?_ ?_
  · refine Touches.comp (Dev.msixOut_touches ..) (by decide) ?_
    exact Touches.refl _ _
  · refine Touches.comp (Dev.setRbit_touches ..) (by decide) ?_
    exact Touches.refl _ _

theorem Dev.notice_touches (F) (d) : Touches [.regs, .out] d (Dev.notice F d) := by
  unfold Dev.notice
  conv => zeta
  refine Touches.foldl (fun _ _ => ?_) ?_
  · refine Touches.ite ?_ ?_
    · refine Touches.comp (Dev.msixSend_touches ..) (by decide) ?_
      exact Touches.refl _ _
    · exact Touches.refl _ _
  · exact Touches.refl _ _

theorem Dev.thaw_touches (F) (d) : Touches [.regs, .keel, .log] d (Dev.thaw F d) := by
  unfold Dev.thaw
  conv => zeta
  refine Touches.ite ?_ ?_
  · refine Touches.ite ?_ ?_
    · refine Touches.comp (Dev.flushLog_touches ..) (by decide) ?_
      refine Touches.comp (Touches.put_log ..) (by decide) ?_
      exact Touches.refl _ _
    · refine Touches.comp (Touches.put_log ..) (by decide) ?_
      exact Touches.refl _ _
  · exact Touches.refl _ _

theorem Dev.setSvc_touches (F) (d) (v) : Touches [.regs, .keel, .log, .pwr, .out] d (Dev.setSvc F d v) := by
  unfold Dev.setSvc
  conv => zeta
  refine Touches.ite ?_ ?_
  · exact Touches.refl _ _
  · refine Touches.ite ?_ ?_
    · refine Touches.comp (Dev.notice_touches ..) (by decide) ?_
      refine Touches.comp (Touches.put_pwr ..) (by decide) ?_
      exact Touches.refl _ _
    · refine Touches.comp (Dev.thaw_touches ..) (by decide) ?_
      refine Touches.comp (Dev.notice_touches ..) (by decide) ?_
      refine Touches.comp (Touches.put_pwr ..) (by decide) ?_
      exact Touches.refl _ _

theorem Dev.free_touches {x0} {r e} (h : Dev.free x0 = (r, e)) : Touches [.fresh] x0 e := by
  cases h; exact Touches.put_fresh ..

theorem Dev.mapPhys_touches (d) (e) (f) : Touches [.tracts] d (Dev.mapPhys d e f) := by
  unfold Dev.mapPhys
  refine Touches.comp (Touches.put_tracts ..) (by decide) ?_
  exact Touches.refl _ _

theorem Dev.bump_touches (d) (off) (n) : Touches [.regs] d (Dev.bump d off n) := by
  unfold Dev.bump
  refine Touches.comp (Dev.setReg_touches ..) (by decide) ?_
  exact Touches.refl _ _

theorem Dev.migQueue_touches (d) (tract) (why) : Touches [.tracts] d (Dev.migQueue d tract why) := by
  unfold Dev.migQueue
  conv => zeta
  refine Touches.ite ?_ ?_
  · exact Touches.refl _ _
  · refine Touches.comp (Touches.put_tracts ..) (by decide) ?_
    exact Touches.refl _ _

theorem Dev.dropTarget_touches (d) (e) : Touches [.tracts] d (Dev.dropTarget d e) := by
  unfold Dev.dropTarget
  refine Touches.comp (Dev.mapPhys_touches ..) (by decide) ?_
  exact Touches.refl _ _

theorem Dev.migAbort_touches (d) (x) : Touches [.regs, .media, .tracts] d (Dev.migAbort d x) := by
  unfold Dev.migAbort
  refine Touches.comp (Dev.bump_touches ..) (by decide) ?_
  refine Touches.comp (Dev.migQueue_touches ..) (by decide) ?_
  refine Touches.comp (Dev.dropTarget_touches ..) (by decide) ?_
  refine Touches.comp (Touches.put_media_tracts ..) (by decide) ?_
  exact Touches.refl _ _

theorem Dev.badTarget_touches (d) (m) : Touches [.regs, .media, .tracts] d (Dev.badTarget d m) := by
  unfold Dev.badTarget
  refine Touches.comp (Dev.mapPhys_touches ..) (by decide) ?_
  refine Touches.comp (Dev.migAbort_touches ..) (by decide) ?_
  exact Touches.refl _ _

theorem Dev.setHead_touches (d) (h) (x) : Touches [.a, .b] d (Dev.setHead d h x) := by
  unfold Dev.setHead
  split
  · refine Touches.comp (Touches.put_a ..) (by decide) ?_
    exact Touches.refl _ _
  · refine Touches.comp (Touches.put_b ..) (by decide) ?_
    exact Touches.refl _ _

theorem Dev.post_touches (d) (h) (n) (k) (arg) : Touches [.regs, .a, .b, .out] d (Dev.post d h n k arg) := by
  unfold Dev.post
  conv => zeta
  refine Touches.ite ?_ ?_
  · refine Touches.comp (Dev.msixSend_touches ..) (by decide) ?_
    refine Touches.comp (Dev.setHead_touches ..) (by decide) ?_
    exact Touches.refl _ _
  · refine Touches.comp (Dev.setHead_touches ..) (by decide) ?_
    exact Touches.refl _ _

theorem Dev.postAll_touches (F) (d) (n) (k) (arg) : Touches [.regs, .a, .b, .out] d (Dev.postAll F d n k arg) := by
  unfold Dev.postAll
  refine Touches.foldl (fun _ _ => ?_) ?_
  · refine Touches.comp (Dev.post_touches ..) (by decide) ?_
    exact Touches.refl _ _
  · exact Touches.refl _ _

theorem Dev.memberPut_touches (d) : Touches [.keel] d (Dev.memberPut d) := by
  unfold Dev.memberPut
  refine Touches.comp (Dev.ringPut_touches ..) (by decide) ?_
  exact Touches.refl _ _

theorem Dev.groupSettle_touches (F) (d) (g) : Touches [.regs, .keel, .log, .aon, .media] d (Dev.groupSettle F d g) := by
  unfold Dev.groupSettle
  conv => zeta
  refine Touches.ite ?_ ?_
  · refine Touches.comp (Dev.icu_touches ..) (by decide) ?_
    refine Touches.comp (Dev.memberPut_touches ..) (by decide) ?_
    refine Touches.comp (Dev.event_touches ..) (by decide) ?_
    refine Touches.comp (Dev.setGrp_touches ..) (by decide) ?_
    exact Touches.refl _ _
  · exact Touches.refl _ _

theorem Dev.narrowOnce_touches (F) (d) (g) : Touches [.regs, .a, .b, .keel, .log, .aon, .media, .tracts, .out] d (Dev.narrowOnce F d g) := by
  unfold Dev.narrowOnce
  conv => zeta
  split
  · exact Touches.refl _ _
  · refine Touches.ite ?_ ?_
    · exact Touches.refl _ _
    · refine Touches.comp (Dev.icu_touches ..) (by decide) ?_
      refine Touches.comp (Dev.postAll_touches ..) (by decide) ?_
      refine Touches.comp (Dev.event_touches ..) (by decide) ?_
      refine Touches.comp (Dev.memberPut_touches ..) (by decide) ?_
      refine Touches.comp (Dev.setGrp_touches ..) (by decide) ?_
      refine Touches.comp (Touches.put_tracts ..) (by decide) ?_
      exact Touches.refl _ _

theorem Dev.narrowSettle_touches (F) (d) (g) : Touches [.regs, .a, .b, .keel, .log, .aon, .media, .tracts, .out] d (Dev.narrowSettle F d g) := by
  unfold Dev.narrowSettle
  refine Touches.comp (Dev.groupSettle_touches ..) (by decide) ?_
  refine Touches.comp (Dev.narrowOnce_touches ..) (by decide) ?_
  refine Touches.comp (Dev.narrowOnce_touches ..) (by decide) ?_
  exact Touches.refl _ _

theorem Dev.queueGroup_touches (d) (g) : Touches [.tracts] d (Dev.queueGroup d g) := by
  unfold Dev.queueGroup
  refine Touches.foldl (fun _ _ => ?_) ?_
  · refine Touches.comp (Dev.migQueue_touches ..) (by decide) ?_
    exact Touches.refl _ _
  · exact Touches.refl _ _

theorem Dev.meet_touches (d) (q) : Touches [.cache] d (Dev.meet d q) := by
  unfold Dev.meet
  refine Touches.comp (Touches.put_cache ..) (by decide) ?_
  exact Touches.refl _ _

theorem Dev.windowAbort_touches (d) (q) : Touches [.regs, .tether, .cache, .media] d (Dev.windowAbort d q) := by
  unfold Dev.windowAbort
  refine Touches.ite ?_ ?_
  · refine Touches.comp (Dev.icu_touches ..) (by decide) ?_
    refine Touches.comp (Dev.meet_touches ..) (by decide) ?_
    refine Touches.comp (Touches.put_tether ..) (by decide) ?_
    refine Touches.ite ?_ ?_
    · refine Touches.comp (Dev.setChan_touches ..) (by decide) ?_
      exact Touches.refl _ _
    · exact Touches.refl _ _
  · exact Touches.refl _ _

theorem Dev.unitConsumed_touches (F) (d) (g) (before) : Touches [.regs, .a, .b, .tether, .keel, .log, .aon, .cache, .media, .tracts, .out] d (Dev.unitConsumed F d g before) := by
  unfold Dev.unitConsumed
  refine Touches.comp (Dev.narrowSettle_touches ..) (by decide) ?_
  refine Touches.comp (Dev.queueGroup_touches ..) (by decide) ?_
  refine Touches.comp (Dev.windowAbort_touches ..) (by decide) ?_
  refine Touches.foldl (fun _ _ => ?_) ?_
  · refine Touches.comp (Dev.migAbort_touches ..) (by decide) ?_
    exact Touches.refl _ _
  · refine Touches.ite ?_ ?_
    · refine Touches.comp (Dev.postAll_touches ..) (by decide) ?_
      refine Touches.comp (Dev.postAll_touches ..) (by decide) ?_
      refine Touches.ite ?_ ?_
      · exact Touches.refl _ _
      · refine Touches.comp (Dev.event_touches ..) (by decide) ?_
        exact Touches.refl _ _
    · refine Touches.comp (Dev.postAll_touches ..) (by decide) ?_
      refine Touches.comp (Dev.postAll_touches ..) (by decide) ?_
      refine Touches.ite ?_ ?_
      · exact Touches.refl _ _
      · refine Touches.comp (Dev.event_touches ..) (by decide) ?_
        exact Touches.refl _ _

theorem Dev.consume_touches (F) (d) (m) : Touches [.regs, .a, .b, .tether, .keel, .log, .aon, .cache, .media, .tracts, .out] d (Dev.consume F d m) := by
  unfold Dev.consume
  conv => zeta
  refine Touches.ite ?_ ?_
  · exact Touches.refl _ _
  · refine Touches.comp (Dev.unitConsumed_touches ..) (by decide) ?_
    refine Touches.comp (Touches.put_media_tracts ..) (by decide) ?_
    refine Touches.comp (Dev.setGrp_touches ..) (by decide) ?_
    exact Touches.refl _ _

theorem Dev.powerDown_touches (d) (m) : Touches [.media] d (Dev.powerDown d m) := by
  unfold Dev.powerDown
  refine Touches.ite ?_ ?_
  · exact Touches.refl _ _
  · refine Touches.comp (Dev.setDie_touches ..) (by decide) ?_
    exact Touches.refl _ _

theorem Dev.declareChan_touches (F) (d) (n) (cause) : Touches [.regs, .a, .b, .tether, .keel, .log, .aon, .cache, .media, .tracts, .out] d (Dev.declareChan F d n cause) := by
  unfold Dev.declareChan
  refine Touches.ite ?_ ?_
  · exact Touches.refl _ _
  · refine Touches.comp (Dev.icu_touches ..) (by decide) ?_
    refine Touches.comp (Dev.memberPut_touches ..) (by decide) ?_
    refine Touches.foldl (fun _ _ => ?_) ?_
    · refine Touches.comp (Dev.powerDown_touches ..) (by decide) ?_
      refine Touches.comp (Dev.consume_touches ..) (by decide) ?_
      refine Touches.comp (Dev.setCtl_touches ..) (by decide) ?_
      exact Touches.refl _ _
    · refine Touches.comp (Dev.event_touches ..) (by decide) ?_
      refine Touches.comp (Dev.setChan_touches ..) (by decide) ?_
      exact Touches.refl _ _

theorem Dev.declareDie_touches (F) (d) (m) (cause) : Touches [.regs, .a, .b, .tether, .keel, .log, .aon, .cache, .media, .tracts, .out] d (Dev.declareDie F d m cause) := by
  unfold Dev.declareDie
  refine Touches.ite ?_ ?_
  · exact Touches.refl _ _
  · refine Touches.comp (Dev.icu_touches ..) (by decide) ?_
    refine Touches.comp (Dev.memberPut_touches ..) (by decide) ?_
    refine Touches.comp (Dev.powerDown_touches ..) (by decide) ?_
    refine Touches.comp (Dev.consume_touches ..) (by decide) ?_
    refine Touches.comp (Dev.event_touches ..) (by decide) ?_
    refine Touches.comp (Dev.setCtl_touches ..) (by decide) ?_
    exact Touches.refl _ _

theorem Dev.setCmp_touches (d) (n) (x) : Touches [.cache] d (Dev.setCmp d n x) := by
  unfold Dev.setCmp
  refine Touches.comp (Dev.setCache_touches ..) (by decide) ?_
  exact Touches.refl _ _

theorem Dev.useCmp_touches (d) (n) : Touches [.cache] d (Dev.useCmp d n) := by
  unfold Dev.useCmp
  refine Touches.comp (Dev.setCache_touches ..) (by decide) ?_
  refine Touches.comp (Dev.setCmp_touches ..) (by decide) ?_
  exact Touches.refl _ _

theorem Dev.evict_touches (d) (s) : Touches [.cache] d (Dev.evict d s) := by
  unfold Dev.evict
  refine Touches.ite ?_ ?_
  · exact Touches.refl _ _
  · refine Touches.comp (Dev.setCache_touches ..) (by decide) ?_
    exact Touches.refl _ _

theorem Dev.setWay_touches (d) (set) (w) (x) : Touches [.cache] d (Dev.setWay d set w x) := by
  unfold Dev.setWay
  refine Touches.comp (Dev.setCache_touches ..) (by decide) ?_
  exact Touches.refl _ _

theorem Dev.takeWay_touches (d) (s) (w) : Touches [.cache] d (Dev.takeWay d s w) := by
  unfold Dev.takeWay
  refine Touches.comp (Dev.setWay_touches ..) (by decide) ?_
  refine Touches.ite ?_ ?_
  · refine Touches.comp (Dev.evict_touches ..) (by decide) ?_
    exact Touches.refl _ _
  · exact Touches.refl _ _

theorem Dev.placeSector_touches (d) (s) : Touches [.cache] d (Dev.placeSector d s) := by
  unfold Dev.placeSector
  conv => zeta
  split
  · refine Touches.comp (Dev.evict_touches ..) (by decide) ?_
    exact Touches.refl _ _
  · refine Touches.comp (Dev.takeWay_touches ..) (by decide) ?_
    exact Touches.refl _ _

theorem Dev.placeCmp_touches (d) (s) (fill) : Touches [.cache] d (Dev.placeCmp d s fill) := by
  unfold Dev.placeCmp
  conv => zeta
  split
  · refine Touches.comp (Dev.useCmp_touches ..) (by decide) ?_
    refine Touches.comp (Dev.setCmp_touches ..) (by decide) ?_
    exact Touches.refl _ _
  · refine Touches.comp (Dev.useCmp_touches ..) (by decide) ?_
    refine Touches.comp (Dev.setCmp_touches ..) (by decide) ?_
    refine Touches.ite ?_ ?_
    · exact Touches.refl _ _
    · refine Touches.comp (Dev.placeSector_touches ..) (by decide) ?_
      exact Touches.refl _ _
  · exact Touches.refl _ _

theorem Dev.allocSector_touches (d) (sec) : Touches [.cache] d (Dev.allocSector d sec) := by
  unfold Dev.allocSector
  refine Touches.ite ?_ ?_
  · refine Touches.ite ?_ ?_
    · exact Touches.refl _ _
    · refine Touches.comp (Dev.placeCmp_touches ..) (by decide) ?_
      exact Touches.refl _ _
  · refine Touches.ite ?_ ?_
    · exact Touches.refl _ _
    · refine Touches.comp (Dev.placeSector_touches ..) (by decide) ?_
      exact Touches.refl _ _

theorem Dev.returnSector_touches (d) (s) : Touches [.cache] d (Dev.returnSector d s) := by
  unfold Dev.returnSector
  conv => zeta
  split
  · refine Touches.comp (Dev.placeSector_touches ..) (by decide) ?_
    exact Touches.refl _ _
  · refine Touches.comp (Dev.takeWay_touches ..) (by decide) ?_
    exact Touches.refl _ _

theorem Dev.touchWay_touches (d) (set) (w) : Touches [.cache] d (Dev.touchWay d set w) := by
  unfold Dev.touchWay
  conv => zeta
  refine Touches.ite ?_ ?_
  · refine Touches.foldl (fun _ _ => ?_) ?_
    · refine Touches.ite ?_ ?_
      · exact Touches.refl _ _
      · refine Touches.comp (Dev.setWay_touches ..) (by decide) ?_
        exact Touches.refl _ _
    · refine Touches.comp (Dev.setWay_touches ..) (by decide) ?_
      exact Touches.refl _ _
  · refine Touches.comp (Dev.setWay_touches ..) (by decide) ?_
    exact Touches.refl _ _

theorem Dev.recall_touches (d) (hit) (s) (line) : Touches [.cache] d (Dev.recall d hit s line) := by
  unfold Dev.recall
  conv => zeta
  split
  · refine Touches.comp (Dev.useCmp_touches ..) (by decide) ?_
    exact Touches.refl _ _
  · refine Touches.ite ?_ ?_
    · refine Touches.comp (Dev.placeCmp_touches ..) (by decide) ?_
      refine Touches.comp (Dev.setWay_touches ..) (by decide) ?_
      exact Touches.refl _ _
    · refine Touches.ite ?_ ?_
      · refine Touches.comp (Dev.touchWay_touches ..) (by decide) ?_
        exact Touches.refl _ _
      · exact Touches.refl _ _
  · refine Touches.ite ?_ ?_
    · refine Touches.comp (Dev.placeCmp_touches ..) (by decide) ?_
      refine Touches.comp (Dev.setCache_touches ..) (by decide) ?_
      exact Touches.refl _ _
    · split
      · refine Touches.comp (Dev.touchWay_touches ..) (by decide) ?_
        refine Touches.comp (Dev.returnSector_touches ..) (by decide) ?_
        refine Touches.comp (Dev.setCache_touches ..) (by decide) ?_
        exact Touches.refl _ _
      · refine Touches.comp (Dev.returnSector_touches ..) (by decide) ?_
        refine Touches.comp (Dev.setCache_touches ..) (by decide) ?_
        exact Touches.refl _ _
  · refine Touches.ite ?_ ?_
    · refine Touches.comp (Dev.placeCmp_touches ..) (by decide) ?_
      refine Touches.comp (Dev.setCache_touches ..) (by decide) ?_
      exact Touches.refl _ _
    · split
      · refine Touches.comp (Dev.touchWay_touches ..) (by decide) ?_
        refine Touches.comp (Dev.returnSector_touches ..) (by decide) ?_
        refine Touches.comp (Dev.setCache_touches ..) (by decide) ?_
        exact Touches.refl _ _
      · refine Touches.comp (Dev.returnSector_touches ..) (by decide) ?_
        refine Touches.comp (Dev.setCache_touches ..) (by decide) ?_
        exact Touches.refl _ _

theorem Dev.bring_touches (d) (line) : Touches [.cache] d (Dev.bring d line) := by
  unfold Dev.bring
  split
  · refine Touches.comp (Dev.recall_touches ..) (by decide) ?_
    exact Touches.refl _ _
  · refine Touches.comp (Dev.allocSector_touches ..) (by decide) ?_
    exact Touches.refl _ _

theorem Dev.install_touches (d) (line) (x) : Touches [.cache] d (Dev.install d line x) := by
  unfold Dev.install
  conv => zeta
  split
  · refine Touches.comp (Dev.setCmp_touches ..) (by decide) ?_
    exact Touches.refl _ _
  · split
    · refine Touches.comp (Dev.touchWay_touches ..) (by decide) ?_
      refine Touches.comp (Dev.setWay_touches ..) (by decide) ?_
      exact Touches.refl _ _
    · exact Touches.refl _ _

theorem Dev.invalidate_touches (d) (lo) (hi) : Touches [.cache] d (Dev.invalidate d lo hi) := by
  unfold Dev.invalidate
  refine Touches.comp (Dev.setCache_touches ..) (by decide) ?_
  exact Touches.refl _ _

theorem Dev.useHit_touches (d) (line) : Touches [.cache] d (Dev.useHit d line) := by
  unfold Dev.useHit
  split
  · refine Touches.ite ?_ ?_
    · refine Touches.comp (Dev.useCmp_touches ..) (by decide) ?_
      exact Touches.refl _ _
    · exact Touches.refl _ _
  · refine Touches.ite ?_ ?_
    · refine Touches.comp (Dev.touchWay_touches ..) (by decide) ?_
      exact Touches.refl _ _
    · exact Touches.refl _ _
  · exact Touches.refl _ _

theorem Dev.writeClears_touches (d) (line) : Touches [.cache] d (Dev.writeClears d line) := by
  unfold Dev.writeClears
  refine Touches.comp (Dev.setCache_touches ..) (by decide) ?_
  exact Touches.refl _ _

theorem Dev.frameSent_touches (d) (f) (a) (again) : Touches [.media, .out, .fresh] d (Dev.frameSent d f a again) := by
  unfold Dev.frameSent
  conv => zeta
  refine Touches.ite ?_ ?_
  · refine Touches.ite ?_ ?_
    · refine Touches.comp (Dev.setCtl_touches ..) (by decide) ?_
      refine Touches.ite ?_ ?_
      · refine Touches.comp (Dev.emit_touches ..) (by decide) ?_
        refine Touches.comp (Dev.setChan_touches ..) (by decide) ?_
        refine Touches.comp (Touches.put_fresh ..) (by decide) ?_
        refine Touches.comp (Dev.setDie_touches ..) (by decide) ?_
        exact Touches.refl _ _
      · refine Touches.comp (Dev.emit_touches ..) (by decide) ?_
        refine Touches.comp (Dev.emit_touches ..) (by decide) ?_
        refine Touches.comp (Dev.setChan_touches ..) (by decide) ?_
        refine Touches.comp (Touches.put_fresh ..) (by decide) ?_
        refine Touches.comp (Dev.setDie_touches ..) (by decide) ?_
        exact Touches.refl _ _
    · refine Touches.ite ?_ ?_
      · refine Touches.comp (Dev.emit_touches ..) (by decide) ?_
        refine Touches.comp (Dev.setChan_touches ..) (by decide) ?_
        refine Touches.comp (Touches.put_fresh ..) (by decide) ?_
        refine Touches.comp (Dev.setDie_touches ..) (by decide) ?_
        exact Touches.refl _ _
      · refine Touches.comp (Dev.emit_touches ..) (by decide) ?_
        refine Touches.comp (Dev.emit_touches ..) (by decide) ?_
        refine Touches.comp (Dev.setChan_touches ..) (by decide) ?_
        refine Touches.comp (Touches.put_fresh ..) (by decide) ?_
        refine Touches.comp (Dev.setDie_touches ..) (by decide) ?_
        exact Touches.refl _ _
  · refine Touches.comp (Dev.emit_touches ..) (by decide) ?_
    refine Touches.ite ?_ ?_
    · refine Touches.comp (Dev.setCtl_touches ..) (by decide) ?_
      refine Touches.ite ?_ ?_
      · refine Touches.comp (Dev.emit_touches ..) (by decide) ?_
        refine Touches.comp (Dev.setChan_touches ..) (by decide) ?_
        refine Touches.comp (Touches.put_fresh ..) (by decide) ?_
        refine Touches.comp (Dev.setDie_touches ..) (by decide) ?_
        exact Touches.refl _ _
      · refine Touches.comp (Dev.emit_touches ..) (by decide) ?_
        refine Touches.comp (Dev.emit_touches ..) (by decide) ?_
        refine Touches.comp (Dev.setChan_touches ..) (by decide) ?_
        refine Touches.comp (Touches.put_fresh ..) (by decide) ?_
        refine Touches.comp (Dev.setDie_touches ..) (by decide) ?_
        exact Touches.refl _ _
    · refine Touches.ite ?_ ?_
      · refine Touches.comp (Dev.emit_touches ..) (by decide) ?_
        refine Touches.comp (Dev.setChan_touches ..) (by decide) ?_
        refine Touches.comp (Touches.put_fresh ..) (by decide) ?_
        refine Touches.comp (Dev.setDie_touches ..) (by decide) ?_
        exact Touches.refl _ _
      · refine Touches.comp (Dev.emit_touches ..) (by decide) ?_
        refine Touches.comp (Dev.emit_touches ..) (by decide) ?_
        refine Touches.comp (Dev.setChan_touches ..) (by decide) ?_
        refine Touches.comp (Touches.put_fresh ..) (by decide) ?_
        refine Touches.comp (Dev.setDie_touches ..) (by decide) ?_
        exact Touches.refl _ _

theorem Dev.sendFrame_touches (d) (f) (err) : Touches [.media, .out, .fresh] d (Dev.sendFrame d f err) := by
  unfold Dev.sendFrame
  refine Touches.comp (Dev.frameSent_touches ..) (by decide) ?_
  exact Touches.refl _ _

theorem Dev.alertSet_touches (d) (m) (thr) : Touches [.media, .out, .fresh] d (Dev.alertSet d m thr) := by
  unfold Dev.alertSet
  refine Touches.ite ?_ ?_
  · refine Touches.comp (Dev.setCtl_touches ..) (by decide) ?_
    exact Touches.refl _ _
  · refine Touches.comp (Dev.sendFrame_touches ..) (by decide) ?_
    refine Touches.comp (Dev.setCtl_touches ..) (by decide) ?_
    exact Touches.refl _ _

theorem Dev.dropCmd_touches (d) (h) : Touches [.lci] d (Dev.dropCmd d h) := by
  unfold Dev.dropCmd
  refine Touches.comp (Touches.put_lci ..) (by decide) ?_
  exact Touches.refl _ _

theorem Dev.mapCmd_touches (d) (h) (f) : Touches [.lci] d (Dev.mapCmd d h f) := by
  unfold Dev.mapCmd
  refine Touches.comp (Touches.put_lci ..) (by decide) ?_
  exact Touches.refl _ _

theorem Dev.setQp_touches (d) (n) (x) : Touches [.lci] d (Dev.setQp d n x) := by
  unfold Dev.setQp
  refine Touches.comp (Touches.put_lci ..) (by decide) ?_
  exact Touches.refl _ _

theorem Dev.finishOne_touches (d) (h) (status) (progress) (result) : Touches [.regs, .pmc, .lci] d (Dev.finishOne d h status progress result) := by
  unfold Dev.finishOne
  conv => zeta
  split
  · exact Touches.refl _ _
  · refine Touches.ite ?_ ?_
    · refine Touches.comp (Dev.mapCmd_touches ..) (by decide) ?_
      exact Touches.refl _ _
    · refine Touches.comp (Dev.setQp_touches ..) (by decide) ?_
      refine Touches.ite ?_ ?_
      · refine Touches.comp (Dev.count_touches ..) (by decide) ?_
        refine Touches.comp (Dev.mapCmd_touches ..) (by decide) ?_
        exact Touches.refl _ _
      · refine Touches.comp (Dev.mapCmd_touches ..) (by decide) ?_
        exact Touches.refl _ _

theorem Dev.finish_touches (d) (h) (status) (progress) (result) : Touches [.regs, .pmc, .lci] d (Dev.finish d h status progress result) := by
  unfold Dev.finish
  split
  · exact Touches.refl _ _
  · refine Touches.foldl (fun _ _ => ?_) ?_
    · refine Touches.comp (Dev.finishOne_touches ..) (by decide) ?_
      exact Touches.refl _ _
    · refine Touches.comp (Dev.finishOne_touches ..) (by decide) ?_
      exact Touches.refl _ _

theorem uwlPage_touches (F) (cause) (d) (l) : Touches [.regs, .keel, .log, .aon] d (uwlPage F cause d l) := by
  unfold uwlPage
  conv => zeta
  refine Touches.ite ?_ ?_
  · refine Touches.comp (Dev.keelPut_touches ..) (by decide) ?_
    refine Touches.comp (Touches.put_keel ..) (by decide) ?_
    exact Touches.refl _ _
  · refine Touches.comp (Dev.event_touches ..) (by decide) ?_
    refine Touches.comp (Dev.keelPut_touches ..) (by decide) ?_
    refine Touches.comp (Touches.put_keel ..) (by decide) ?_
    exact Touches.refl _ _

theorem uwlAdd_touches (F) (d) (cause) (l) : Touches [.regs, .keel, .log, .aon] d (uwlAdd F d cause l) := by
  unfold uwlAdd
  refine Touches.ite ?_ ?_
  · exact Touches.refl _ _
  · refine Touches.comp (Dev.event_touches ..) (by decide) ?_
    refine Touches.foldl (fun _ _ => (uwlPage_touches ..).mono (by decide)) ?_
    exact Touches.refl _ _

theorem silentOut_touches (F) (d) : Touches [.regs, .keel, .log, .aon, .lci] d (silentOut F d) := by
  unfold silentOut
  refine Touches.foldl (fun _ _ => ?_) ?_
  · refine Touches.comp (uwlAdd_touches ..) (by decide) ?_
    exact Touches.refl _ _
  · refine Touches.comp (Touches.put_lci ..) (by decide) ?_
    exact Touches.refl _ _

theorem Dev.setReg64_touches (d) (lo) (v) : Touches [.regs] d (Dev.setReg64 d lo v) := by
  unfold Dev.setReg64
  refine Touches.comp (Dev.setReg_touches ..) (by decide) ?_
  refine Touches.comp (Dev.setReg_touches ..) (by decide) ?_
  exact Touches.refl _ _

theorem Dev.latency_touches (d) (src) (head) (ns) : Touches [.regs, .pmc] d (Dev.latency d src head ns) := by
  unfold Dev.latency
  conv => zeta
  refine Touches.foldl (fun _ _ => ?_) ?_
  · refine Touches.ite ?_ ?_
    · refine Touches.ite ?_ ?_
      · refine Touches.comp (Dev.icu_touches ..) (by decide) ?_
        refine Touches.comp (Touches.put_pmc ..) (by decide) ?_
        exact Touches.refl _ _
      · refine Touches.comp (Touches.put_pmc ..) (by decide) ?_
        exact Touches.refl _ _
    · exact Touches.refl _ _
  · exact Touches.refl _ _

theorem Dev.reencSettle_touches (d) : Touches [.regs, .sec] d (Dev.reencSettle d) := by
  unfold Dev.reencSettle
  conv => zeta
  refine Touches.ite ?_ ?_
  · exact Touches.refl _ _
  · refine Touches.comp (Dev.icu_touches ..) (by decide) ?_
    refine Touches.comp (Touches.put_sec ..) (by decide) ?_
    exact Touches.refl _ _

theorem Dev.setMeta_touches (d) (m) : Touches [.tracts] d (Dev.setMeta d m) := by
  unfold Dev.setMeta
  refine Touches.comp (Touches.put_tracts ..) (by decide) ?_
  exact Touches.refl _ _

theorem Dev.tcTouch_touches (d) (id) (dirty) : Touches [.tracts] d (Dev.tcTouch d id dirty) := by
  unfold Dev.tcTouch
  conv => zeta
  split
  · refine Touches.comp (Touches.put_tracts ..) (by decide) ?_
    exact Touches.refl _ _
  · refine Touches.comp (Touches.put_tracts ..) (by decide) ?_
    exact Touches.refl _ _

theorem Dev.setEnt_touches (d) (t) (e) : Touches [.tracts] d (Dev.setEnt d t e) := by
  unfold Dev.setEnt
  refine Touches.comp (Dev.tcTouch_touches ..) (by decide) ?_
  refine Touches.comp (Dev.setMeta_touches ..) (by decide) ?_
  exact Touches.refl _ _

theorem Dev.fixHdr_touches (d) (t) : Touches [.tracts] d (Dev.fixHdr d t) := by
  unfold Dev.fixHdr
  conv => zeta
  refine Touches.ite ?_ ?_
  · exact Touches.refl _ _
  · refine Touches.comp (Dev.setEnt_touches ..) (by decide) ?_
    exact Touches.refl _ _

theorem Dev.setHdr_touches (d) (t) (h) : Touches [.tracts] d (Dev.setHdr d t h) := by
  unfold Dev.setHdr
  refine Touches.comp (Dev.fixHdr_touches ..) (by decide) ?_
  refine Touches.comp (Dev.tcTouch_touches ..) (by decide) ?_
  refine Touches.comp (Dev.setMeta_touches ..) (by decide) ?_
  exact Touches.refl _ _

theorem Dev.ctrForget_touches (d) (b) : Touches [.sec] d (Dev.ctrForget d b) := by
  unfold Dev.ctrForget
  refine Touches.comp (Touches.put_sec ..) (by decide) ?_
  exact Touches.refl _ _

theorem Dev.setPhys_touches (d) (g) (i) (r) : Touches [.tracts] d (Dev.setPhys d g i r) := by
  unfold Dev.setPhys
  refine Touches.comp (Dev.tcTouch_touches ..) (by decide) ?_
  refine Touches.comp (Dev.setMeta_touches ..) (by decide) ?_
  exact Touches.refl _ _

theorem Dev.tagFail_touches {x0} {r e} (h : Dev.tagFail x0 = (r, e)) : Touches [.regs, .pmc] x0 e := by
  cases h
  exact Touches.comp (Dev.icu_touches ..) (by decide) (Touches.comp (Dev.count_touches ..) (by decide) ((Dev.bump_touches ..).mono (by decide)))

theorem Dev.ctrSave_touches (d) (p) : Touches [.sec] d (Dev.ctrSave d p) := by
  unfold Dev.ctrSave
  split
  · exact Touches.refl _ _
  · refine Touches.ite ?_ ?_
    · exact Touches.refl _ _
    · refine Touches.comp (Touches.put_sec ..) (by decide) ?_
      exact Touches.refl _ _

theorem Dev.ctrEvict_touches (d) (p) : Touches [.sec] d (Dev.ctrEvict d p) := by
  unfold Dev.ctrEvict
  refine Touches.comp (Touches.put_sec ..) (by decide) ?_
  refine Touches.comp (Dev.ctrSave_touches ..) (by decide) ?_
  exact Touches.refl _ _

theorem Dev.ctrEnter_touches (d) (p) (c) : Touches [.sec] d (Dev.ctrEnter d p c) := by
  unfold Dev.ctrEnter
  refine Touches.comp (Touches.put_sec ..) (by decide) ?_
  refine Touches.ite ?_ ?_
  · exact Touches.refl _ _
  · split
    · refine Touches.comp (Dev.ctrEvict_touches ..) (by decide) ?_
      exact Touches.refl _ _
    · exact Touches.refl _ _

theorem Dev.ctrGet_touches {x0} {x1} {x2} {x3} {r e} (h : Dev.ctrGet x0 x1 x2 x3 = (r, e)) : Touches [.regs, .pmc, .sec] x0 e := by
  have miss : ∀ f : Dev, Touches [.regs, .pmc, .sec] f ((f.count 0x204).bump SEC_CTR_MISS_CNT) := fun f =>
    Touches.comp (Dev.bump_touches ..) (by decide) ((Dev.count_touches ..).mono (by decide))
  unfold Dev.ctrGet at h
  split at h
  · cases h; exact miss _
  · extract_lets fetch at h
    have hf : ∀ (f : Dev) r e, fetch f = (r, e) → Touches [.regs, .pmc, .sec] f e := by
      intro f r e he
      simp only [fetch] at he
      split at he
      · cases he; exact miss _
      · split at he
        · cases he; exact miss _
        · cases he; exact Touches.comp (Dev.ctrEnter_touches ..) (by decide) (miss _)
    split at h
    · split at h
      · cases h; exact Touches.comp (Dev.count_touches ..) (by decide) ((Dev.ctrEnter_touches ..).mono (by decide))
      · exact Touches.comp (hf _ _ _ h) (by decide) ((Dev.ctrEvict_touches ..).mono (by decide))
    · exact hf _ _ _ h

theorem Dev.exhaust_touches (F) (d) (page) : Touches [.regs, .a, .b, .log, .aon, .sec, .out] d (Dev.exhaust F d page) := by
  unfold Dev.exhaust
  refine Touches.ite ?_ ?_
  · exact Touches.refl _ _
  · refine Touches.comp (Dev.postAll_touches ..) (by decide) ?_
    refine Touches.comp (Dev.event_touches ..) (by decide) ?_
    refine Touches.comp (Touches.put_sec ..) (by decide) ?_
    exact Touches.refl _ _

theorem Dev.ctrPut_touches (d) (page) (key) (base) (c) : Touches [.sec] d (Dev.ctrPut d page key base c) := by
  unfold Dev.ctrPut
  split
  · exact Touches.refl _ _
  · refine Touches.comp (Dev.ctrEnter_touches ..) (by decide) ?_
    exact Touches.refl _ _

theorem Dev.startReenc_touches (F) (d) (k) (base) (line) (old) (minor) : Touches [.regs, .a, .b, .log, .aon, .sec, .out] d (Dev.startReenc F d k base line old minor) := by
  unfold Dev.startReenc
  conv => zeta
  refine Touches.ite ?_ ?_
  · refine Touches.comp (Dev.exhaust_touches ..) (by decide) ?_
    refine Touches.comp (Dev.ctrPut_touches ..) (by decide) ?_
    refine Touches.comp (Touches.put_sec ..) (by decide) ?_
    exact Touches.refl _ _
  · refine Touches.comp (Dev.ctrPut_touches ..) (by decide) ?_
    refine Touches.comp (Touches.put_sec ..) (by decide) ?_
    exact Touches.refl _ _

theorem Dev.openCounter_touches {x0} {x1} {x2} {x3} {x4} {x5} {r e} (h : Dev.openCounter x0 x1 x2 x3 x4 x5 = (r, e)) :
    Touches [.regs, .a, .b, .log, .aon, .pmc, .sec, .out] x1 e := by
  unfold Dev.openCounter at h
  extract_lets a page mt minor ok at h
  have hok : ∀ (d : Dev) mj mn r e, ok d mj mn = (r, e) → Touches [.regs, .pmc] d e := by
    intro d mj mn r e he
    simp only [ok] at he
    cases he
    exact (Dev.count_touches ..).mono (by decide)
  have hft : ∀ (d : Dev) r e, d.tagFail = (r, e) → Touches [.regs, .pmc] d e := fun d r e he => Dev.tagFail_touches he
  split at h
  · rename_i hq
    cases h
    exact Touches.comp (Dev.exhaust_touches ..) (by decide) ((Dev.ctrGet_touches hq).mono (by decide))
  · rename_i c d1 hq
    have h1 : Touches [.regs, .a, .b, .log, .aon, .pmc, .sec, .out] x1 d1 := (Dev.ctrGet_touches hq).mono (by decide)
    extract_lets cur at h
    have h2 : ∀ (mj mn : Nat) r e, ok d1 mj mn = (r, e) → Touches [.regs, .a, .b, .log, .aon, .pmc, .sec, .out] x1 e :=
      fun mj mn r e he => Touches.comp (hok _ _ _ _ _ he) (by decide) h1
    have h3 : ∀ r e, d1.tagFail = (r, e) → Touches [.regs, .a, .b, .log, .aon, .pmc, .sec, .out] x1 e :=
      fun r e he => Touches.comp (hft _ _ _ he) (by decide) h1
    split at h
    · split at h
      · split at h
        · exact h2 _ _ _ _ h
        · exact h3 _ _ h
      · split at h
        · split at h
          · exact Touches.comp (hok _ _ _ _ _ h) (by decide) (Touches.comp (Dev.icu_touches ..) (by decide)
              (Touches.comp (Dev.event_touches ..) (by decide) (Touches.comp (Dev.bump_touches ..) (by decide)
              (Touches.comp (Dev.ctrPut_touches ..) (by decide) h1))))
          · exact h3 _ _ h
        · exact h3 _ _ h
    · split at h
      · extract_lets mn at h
        split at h
        · exact h2 _ _ _ _ h
        · exact h3 _ _ h
      · split at h
        · exact Touches.comp (hok _ _ _ _ _ h) (by decide) (Touches.comp (Dev.startReenc_touches ..) (by decide) h1)
        · exact h3 _ _ h

theorem Dev.openLineFor_touches {x0} {x1} {x2} {x3} {x4} {x5} {x6} {r e} (h : Dev.openLineFor x0 x1 x2 x3 x4 x5 x6 = (r, e)) :
    Touches [.regs, .a, .b, .log, .aon, .pmc, .sec, .out] x1 e := by
  unfold Dev.openLineFor at h
  extract_lets at h
  split at h
  · cases h; exact Touches.refl ..
  · split at h
    · exact (Dev.tagFail_touches h).mono (by decide)
    · split at h
      · exact (Dev.tagFail_touches h).mono (by decide)
      · split at h
        · exact Dev.openCounter_touches h
        · split at h
          · cases h
            exact Touches.ite (Touches.refl ..) ((Dev.count_touches ..).mono (by decide))
          · exact (Dev.tagFail_touches h).mono (by decide)

theorem recordPoison_touches (F) (d) (line) (origin) : Touches [.regs, .a, .b] d (recordPoison F d line origin) := by
  unfold recordPoison
  refine Touches.ite ?_ ?_
  · exact Touches.refl _ _
  · refine Touches.foldl (fun _ _ => ?_) ?_
    · refine Touches.comp (Dev.setHead_touches ..) (by decide) ?_
      exact Touches.refl _ _
    · refine Touches.comp (Dev.icu_touches ..) (by decide) ?_
      refine Touches.comp (Dev.bump_touches ..) (by decide) ?_
      refine Touches.comp (Dev.setReg_touches ..) (by decide) ?_
      refine Touches.comp (Dev.setReg_touches ..) (by decide) ?_
      exact Touches.refl _ _

theorem postAt_touches (F) (d) (n) (k) (dpa) : Touches [.regs, .a, .b, .out] d (postAt F d n k dpa) := by
  unfold postAt
  refine Touches.foldl (fun _ _ => ?_) ?_
  · refine Touches.comp (Dev.post_touches ..) (by decide) ?_
    exact Touches.refl _ _
  · exact Touches.refl _ _

theorem Dev.setSlot_touches (d) (k) (x) : Touches [.sec] d (Dev.setSlot d k x) := by
  unfold Dev.setSlot
  refine Touches.comp (Touches.put_sec ..) (by decide) ?_
  exact Touches.refl _ _

theorem Dev.emptySlot_touches (d) (k) : Touches [.sec] d (Dev.emptySlot d k) := by
  unfold Dev.emptySlot
  refine Touches.comp (Touches.put_sec ..) (by decide) ?_
  refine Touches.comp (Dev.setSlot_touches ..) (by decide) ?_
  exact Touches.refl _ _

theorem Dev.clearSlot_touches (d) (k) : Touches [.sec] d (Dev.clearSlot d k) := by
  unfold Dev.clearSlot
  refine Touches.ite ?_ ?_
  · exact Touches.refl _ _
  · refine Touches.ite ?_ ?_
    · refine Touches.comp (Dev.setSlot_touches ..) (by decide) ?_
      exact Touches.refl _ _
    · refine Touches.comp (Dev.emptySlot_touches ..) (by decide) ?_
      exact Touches.refl _ _

theorem Dev.rand_touches {x0} {r e} (h : Dev.rand x0 = (r, e)) : Touches [.fresh] x0 e := by
  cases h; exact Touches.put_fresh ..

theorem Dev.statePut_touches (d) (owner) : Touches [.keel] d (Dev.statePut d owner) := by
  unfold Dev.statePut
  refine Touches.comp (Dev.ringPut_touches ..) (by decide) ?_
  exact Touches.refl _ _

theorem Dev.freeze_touches (F) (d) : Touches [.log] d (Dev.freeze F d) := by
  unfold Dev.freeze
  refine Touches.comp (Touches.put_log ..) (by decide) ?_
  exact Touches.refl _ _

theorem Dev.uwlClear_touches (d) (n) (owner) : Touches [.keel] d (Dev.uwlClear d n owner) := by
  unfold Dev.uwlClear
  conv => zeta
  split
  · refine Touches.comp (Dev.statePut_touches ..) (by decide) ?_
    refine Touches.comp (Touches.put_keel ..) (by decide) ?_
    exact Touches.refl _ _

theorem Dev.markPhys_touches (d) (g) (i) (slc) (state) (refs) : Touches [.tracts] d (Dev.markPhys d g i slc state refs) := by
  unfold Dev.markPhys
  conv => zeta
  refine Touches.ite ?_ ?_
  · refine Touches.comp (Dev.setPhys_touches ..) (by decide) ?_
    refine Touches.comp (Dev.setPhys_touches ..) (by decide) ?_
    exact Touches.refl _ _
  · refine Touches.comp (Dev.setPhys_touches ..) (by decide) ?_
    exact Touches.refl _ _

theorem Dev.newClass_touches (d) (g) (i) (slc) : Touches [.drift] d (Dev.newClass d g i slc) := by
  unfold Dev.newClass
  conv => zeta
  refine Touches.ite ?_ ?_
  · refine Touches.comp (Touches.put_drift ..) (by decide) ?_
    refine Touches.comp (Touches.put_drift ..) (by decide) ?_
    exact Touches.refl _ _
  · refine Touches.comp (Touches.put_drift ..) (by decide) ?_
    exact Touches.refl _ _

theorem Dev.take_touches {x0} {x1} {x2} {x3} {x4} {r e} (h : Dev.take x0 x1 x2 x3 x4 = some (r, e)) : Touches [.tracts, .drift] x0 e := by
  unfold Dev.take at h
  split at h
  · cases h
  · cases h
    exact Touches.comp (Dev.newClass_touches ..) (by decide) (Touches.comp (Touches.put_tracts ..) (by decide) ((Dev.markPhys_touches ..).mono (by decide)))

theorem Dev.pokePage_touches (d) (m) (pa) (slot) (slc) (x) : Touches [.media] d (Dev.pokePage d m pa slot slc x) := by
  unfold Dev.pokePage
  refine Touches.comp (Dev.setDie_touches ..) (by decide) ?_
  exact Touches.refl _ _

theorem Dev.putStripe_touches (d) (l) (ds) : Touches [.media] d (Dev.putStripe d l ds) := by
  unfold Dev.putStripe
  conv => zeta
  refine Touches.ite ?_ ?_
  · refine Touches.ite ?_ ?_
    · refine Touches.foldl (fun _ _ => ?_) ?_
      · refine Touches.ite ?_ ?_
        · exact Touches.refl _ _
        · refine Touches.comp (Dev.pokePage_touches ..) (by decide) ?_
          exact Touches.refl _ _
      · exact Touches.refl _ _
    · refine Touches.comp (Dev.pokePage_touches ..) (by decide) ?_
      refine Touches.foldl (fun _ _ => ?_) ?_
      · refine Touches.ite ?_ ?_
        · exact Touches.refl _ _
        · refine Touches.comp (Dev.pokePage_touches ..) (by decide) ?_
          exact Touches.refl _ _
      · exact Touches.refl _ _
  · refine Touches.comp (Dev.pokePage_touches ..) (by decide) ?_
    refine Touches.ite ?_ ?_
    · refine Touches.foldl (fun _ _ => ?_) ?_
      · refine Touches.ite ?_ ?_
        · exact Touches.refl _ _
        · refine Touches.comp (Dev.pokePage_touches ..) (by decide) ?_
          exact Touches.refl _ _
      · exact Touches.refl _ _
    · refine Touches.comp (Dev.pokePage_touches ..) (by decide) ?_
      refine Touches.foldl (fun _ _ => ?_) ?_
      · refine Touches.ite ?_ ?_
        · exact Touches.refl _ _
        · refine Touches.comp (Dev.pokePage_touches ..) (by decide) ?_
          exact Touches.refl _ _
      · exact Touches.refl _ _

theorem Dev.putLoc_touches (d) (l) (x) : Touches [.regs, .pmc, .media, .sec] d (Dev.putLoc d l x) := by
  unfold Dev.putLoc
  refine Touches.comp (Dev.putStripe_touches ..) (by decide) ?_
  refine Touches.ite ?_ ?_
  · exact Touches.refl _ _
  · refine Touches.foldl (fun _ _ => ?_) ?_
    · refine Touches.comp (Dev.putStripe_touches ..) (by decide) ?_
      exact Touches.refl _ _
    · exact Touches.refl _ _

theorem Dev.fillVoid_touches (d) (t) (except) : Touches [.regs, .pmc, .media, .sec] d (Dev.fillVoid d t except) := by
  unfold Dev.fillVoid
  refine Touches.foldl (fun _ _ => ?_) ?_
  · refine Touches.ite ?_ ?_
    · refine Touches.comp (Dev.putLoc_touches ..) (by decide) ?_
      exact Touches.refl _ _
    · exact Touches.refl _ _
  · exact Touches.refl _ _

theorem Dev.firstHome_touches {x0} {x1} {x2} {x3} {e} (h : Dev.firstHome x0 x1 x2 x3 = some e) : Touches [.regs, .pmc, .media, .tracts, .drift, .sec] x0 e := by
  unfold Dev.firstHome at h
  extract_lets slc got at h
  have hg : ∀ y, got = some y → Touches [.tracts, .drift] x0 y.2 := by
    intro y hy
    simp only [got] at hy
    split at hy
    · rename_i hq
      cases hy
      split at hq
      · exact Dev.take_touches hq
      · cases hq
    · exact Dev.take_touches hy
  rcases hq : got with _ | ⟨e1, d1⟩
  · rw [hq] at h; cases h
  · rw [hq] at h
    have h1 := hg _ hq
    obtain rfl := Option.some.inj h
    have h2 : Touches [.regs, .pmc, .media, .tracts, .drift, .sec] x0 ((d1.setEnt x1 e1).setHdr x1 { d1.hdr x1 with gap := 16384, start := 0, wcnt := 0, part := true, voidMeta := false }) :=
      Touches.comp (Dev.setHdr_touches ..) (by decide) (Touches.comp (Dev.setEnt_touches ..) (by decide) (h1.mono (by decide)))
    exact Touches.ite (Touches.comp (Dev.fillVoid_touches ..) (by decide) h2) h2

theorem Dev.wearPage_touches (d) (g) (pa) (mode) : Touches [.tracts] d (Dev.wearPage d g pa mode) := by
  unfold Dev.wearPage
  conv => zeta
  refine Touches.ite ?_ ?_
  · refine Touches.foldl (fun _ _ => ?_) ?_
    · refine Touches.comp (Dev.migQueue_touches ..) (by decide) ?_
      exact Touches.refl _ _
    · refine Touches.comp (Touches.put_tracts ..) (by decide) ?_
      exact Touches.refl _ _
  · refine Touches.comp (Touches.put_tracts ..) (by decide) ?_
    exact Touches.refl _ _

theorem Dev.wearRow_touches (d) (l) (full) : Touches [.tracts] d (Dev.wearRow d l full) := by
  unfold Dev.wearRow
  refine Touches.foldl (fun _ _ => ?_) ?_
  · refine Touches.comp (Dev.wearPage_touches ..) (by decide) ?_
    exact Touches.refl _ _
  · exact Touches.refl _ _

theorem Dev.setWritten_touches (d) (t) (i) (b) : Touches [.tracts] d (Dev.setWritten d t i b) := by
  unfold Dev.setWritten
  conv => zeta
  refine Touches.ite ?_ ?_
  · refine Touches.comp (Dev.tcTouch_touches ..) (by decide) ?_
    refine Touches.comp (Dev.setMeta_touches ..) (by decide) ?_
    exact Touches.refl _ _
  · refine Touches.comp (Dev.setHdr_touches ..) (by decide) ?_
    refine Touches.comp (Dev.tcTouch_touches ..) (by decide) ?_
    refine Touches.comp (Dev.setMeta_touches ..) (by decide) ?_
    exact Touches.refl _ _

theorem Dev.putLine_touches (d) (line) (x) : Touches [.regs, .pmc, .media, .tracts, .sec] d (Dev.putLine d line x) := by
  unfold Dev.putLine
  refine Touches.comp (Dev.setWritten_touches ..) (by decide) ?_
  refine Touches.comp (Dev.putLoc_touches ..) (by decide) ?_
  exact Touches.refl _ _

theorem Dev.alertOwed_touches (d) (m) : Touches [.media, .out, .fresh] d (Dev.alertOwed d m) := by
  unfold Dev.alertOwed
  refine Touches.ite ?_ ?_
  · refine Touches.comp (Dev.alertSet_touches ..) (by decide) ?_
    exact Touches.refl _ _
  · exact Touches.refl _ _

theorem Dev.pageLost_touches (d) (g) (pa) : Touches [.regs, .media, .tracts] d (Dev.pageLost d g pa) := by
  unfold Dev.pageLost
  refine Touches.foldl (fun _ _ => ?_) ?_
  · refine Touches.comp (Dev.badTarget_touches ..) (by decide) ?_
    exact Touches.refl _ _
  · refine Touches.foldl (fun _ _ => ?_) ?_
    · refine Touches.comp (Dev.migQueue_touches ..) (by decide) ?_
      exact Touches.refl _ _
    · exact Touches.refl _ _

theorem Dev.rowPage_touches (d) (g) (pa) (p) (ok) : Touches [.regs, .media, .tracts] d (Dev.rowPage d g pa p ok) := by
  unfold Dev.rowPage
  conv => zeta
  split
  · refine Touches.ite ?_ ?_
    · exact Touches.refl _ _
    · refine Touches.comp (Dev.pageLost_touches ..) (by decide) ?_
      exact Touches.refl _ _
  · refine Touches.ite ?_ ?_
    · refine Touches.comp (Touches.put_media ..) (by decide) ?_
      exact Touches.refl _ _
    · refine Touches.ite ?_ ?_
      · refine Touches.comp (Dev.pageLost_touches ..) (by decide) ?_
        refine Touches.comp (Touches.put_media ..) (by decide) ?_
        exact Touches.refl _ _
      · refine Touches.comp (Touches.put_media ..) (by decide) ?_
        exact Touches.refl _ _

theorem Dev.programEnd_touches (d) (m) (failMask) (fault) : Touches [.regs, .pmc, .media, .tracts, .out, .fresh] d (Dev.programEnd d m failMask fault) := by
  unfold Dev.programEnd
  conv => zeta
  split
  · exact Touches.refl _ _
  · refine Touches.ite ?_ ?_
    · refine Touches.ite ?_ ?_
      · refine Touches.comp (Dev.emit_touches ..) (by decide) ?_
        refine Touches.ite ?_ ?_
        · refine Touches.comp (Dev.powerDown_touches ..) (by decide) ?_
          refine Touches.comp (Dev.alertOwed_touches ..) (by decide) ?_
          refine Touches.comp (Dev.count_touches ..) (by decide) ?_
          refine Touches.foldl (fun _ _ => ?_) ?_
          · split
            · refine Touches.comp (Dev.rowPage_touches ..) (by decide) ?_
              refine Touches.comp (Dev.wearPage_touches ..) (by decide) ?_
              exact Touches.refl _ _
            · exact Touches.refl _ _
          · refine Touches.comp (Dev.setDie_touches ..) (by decide) ?_
            exact Touches.refl _ _
        · refine Touches.comp (Dev.alertOwed_touches ..) (by decide) ?_
          refine Touches.comp (Dev.count_touches ..) (by decide) ?_
          refine Touches.foldl (fun _ _ => ?_) ?_
          · split
            · refine Touches.comp (Dev.rowPage_touches ..) (by decide) ?_
              refine Touches.comp (Dev.wearPage_touches ..) (by decide) ?_
              exact Touches.refl _ _
            · exact Touches.refl _ _
          · refine Touches.comp (Dev.setDie_touches ..) (by decide) ?_
            exact Touches.refl _ _
      · refine Touches.ite ?_ ?_
        · refine Touches.comp (Dev.powerDown_touches ..) (by decide) ?_
          refine Touches.comp (Dev.alertOwed_touches ..) (by decide) ?_
          refine Touches.comp (Dev.count_touches ..) (by decide) ?_
          refine Touches.foldl (fun _ _ => ?_) ?_
          · split
            · refine Touches.comp (Dev.rowPage_touches ..) (by decide) ?_
              refine Touches.comp (Dev.wearPage_touches ..) (by decide) ?_
              exact Touches.refl _ _
            · exact Touches.refl _ _
          · refine Touches.comp (Dev.setDie_touches ..) (by decide) ?_
            exact Touches.refl _ _
        · refine Touches.comp (Dev.alertOwed_touches ..) (by decide) ?_
          refine Touches.comp (Dev.count_touches ..) (by decide) ?_
          refine Touches.foldl (fun _ _ => ?_) ?_
          · split
            · refine Touches.comp (Dev.rowPage_touches ..) (by decide) ?_
              refine Touches.comp (Dev.wearPage_touches ..) (by decide) ?_
              exact Touches.refl _ _
            · exact Touches.refl _ _
          · refine Touches.comp (Dev.setDie_touches ..) (by decide) ?_
            exact Touches.refl _ _
    · refine Touches.comp (Dev.emit_touches ..) (by decide) ?_
      refine Touches.comp (Dev.bump_touches ..) (by decide) ?_
      refine Touches.comp (Dev.setCtl_touches ..) (by decide) ?_
      refine Touches.ite ?_ ?_
      · refine Touches.comp (Dev.emit_touches ..) (by decide) ?_
        refine Touches.ite ?_ ?_
        · refine Touches.comp (Dev.powerDown_touches ..) (by decide) ?_
          refine Touches.comp (Dev.alertOwed_touches ..) (by decide) ?_
          refine Touches.comp (Dev.count_touches ..) (by decide) ?_
          refine Touches.foldl (fun _ _ => ?_) ?_
          · split
            · refine Touches.comp (Dev.rowPage_touches ..) (by decide) ?_
              refine Touches.comp (Dev.wearPage_touches ..) (by decide) ?_
              exact Touches.refl _ _
            · exact Touches.refl _ _
          · refine Touches.comp (Dev.setDie_touches ..) (by decide) ?_
            exact Touches.refl _ _
        · refine Touches.comp (Dev.alertOwed_touches ..) (by decide) ?_
          refine Touches.comp (Dev.count_touches ..) (by decide) ?_
          refine Touches.foldl (fun _ _ => ?_) ?_
          · split
            · refine Touches.comp (Dev.rowPage_touches ..) (by decide) ?_
              refine Touches.comp (Dev.wearPage_touches ..) (by decide) ?_
              exact Touches.refl _ _
            · exact Touches.refl _ _
          · refine Touches.comp (Dev.setDie_touches ..) (by decide) ?_
            exact Touches.refl _ _
      · refine Touches.ite ?_ ?_
        · refine Touches.comp (Dev.powerDown_touches ..) (by decide) ?_
          refine Touches.comp (Dev.alertOwed_touches ..) (by decide) ?_
          refine Touches.comp (Dev.count_touches ..) (by decide) ?_
          refine Touches.foldl (fun _ _ => ?_) ?_
          · split
            · refine Touches.comp (Dev.rowPage_touches ..) (by decide) ?_
              refine Touches.comp (Dev.wearPage_touches ..) (by decide) ?_
              exact Touches.refl _ _
            · exact Touches.refl _ _
          · refine Touches.comp (Dev.setDie_touches ..) (by decide) ?_
            exact Touches.refl _ _
        · refine Touches.comp (Dev.alertOwed_touches ..) (by decide) ?_
          refine Touches.comp (Dev.count_touches ..) (by decide) ?_
          refine Touches.foldl (fun _ _ => ?_) ?_
          · split
            · refine Touches.comp (Dev.rowPage_touches ..) (by decide) ?_
              refine Touches.comp (Dev.wearPage_touches ..) (by decide) ?_
              exact Touches.refl _ _
            · exact Touches.refl _ _
          · refine Touches.comp (Dev.setDie_touches ..) (by decide) ?_
            exact Touches.refl _ _

theorem Dev.sharesCount_touches (d) (m) (buf) : Touches [.media] d (Dev.sharesCount d m buf) := by
  unfold Dev.sharesCount
  refine Touches.comp (Dev.setCtl_touches ..) (by decide) ?_
  refine Touches.comp (Dev.setGrp_touches ..) (by decide) ?_
  exact Touches.refl _ _

theorem Dev.programGate_touches (F) (d) (m) (mode) (buf) (last) (err) : Touches [.media, .out, .fresh] d (Dev.programGate F d m mode buf last err) := by
  unfold Dev.programGate
  conv => zeta
  refine Touches.ite ?_ ?_
  · refine Touches.comp (Dev.sendFrame_touches ..) (by decide) ?_
    refine Touches.comp (Dev.sharesCount_touches ..) (by decide) ?_
    exact Touches.refl _ _
  · exact Touches.refl _ _

theorem Dev.freePhys_touches (d) (g) (i) (slc) : Touches [.tracts, .drift] d (Dev.freePhys d g i slc) := by
  unfold Dev.freePhys
  conv => zeta
  refine Touches.ite ?_ ?_
  · refine Touches.comp (Touches.put_drift ..) (by decide) ?_
    refine Touches.comp (Dev.setPhys_touches ..) (by decide) ?_
    refine Touches.comp (Touches.put_drift ..) (by decide) ?_
    refine Touches.comp (Dev.setPhys_touches ..) (by decide) ?_
    exact Touches.refl _ _
  · refine Touches.comp (Touches.put_drift ..) (by decide) ?_
    refine Touches.comp (Dev.setPhys_touches ..) (by decide) ?_
    exact Touches.refl _ _

theorem Dev.msixDrain_touches (d) (h) : Touches [.regs, .out] d (Dev.msixDrain d h) := by
  unfold Dev.msixDrain
  refine Touches.foldl (fun _ _ => ?_) ?_
  · refine Touches.ite ?_ ?_
    · refine Touches.comp (Dev.msixOut_touches ..) (by decide) ?_
      refine Touches.comp (Dev.setRbit_touches ..) (by decide) ?_
      exact Touches.refl _ _
    · exact Touches.refl _ _
  · exact Touches.refl _ _

theorem Dev.settingPut_touches (d) (item) (value) : Touches [.keel] d (Dev.settingPut d item value) := by
  unfold Dev.settingPut
  refine Touches.comp (Dev.ringPut_touches ..) (by decide) ?_
  refine Touches.comp (Touches.put_keel ..) (by decide) ?_
  exact Touches.refl _ _

theorem Dev.keepCfg_touches (d) (old) (off) : Touches [.keel] d (Dev.keepCfg d old off) := by
  unfold Dev.keepCfg
  split
  · refine Touches.ite ?_ ?_
    · exact Touches.refl _ _
    · refine Touches.comp (Dev.settingPut_touches ..) (by decide) ?_
      exact Touches.refl _ _
  · exact Touches.refl _ _

theorem Dev.metaRead_touches (d) (t) (i) : Touches [.regs] d (Dev.metaRead d t i) := by
  unfold Dev.metaRead
  conv => zeta
  refine Touches.ite ?_ ?_
  · refine Touches.comp (Dev.bump_touches ..) (by decide) ?_
    exact Touches.refl _ _
  · exact Touches.refl _ _

theorem Dev.tcLookup_touches (d) (t) (i) : Touches [.regs, .pmc, .tracts] d (Dev.tcLookup d t i) := by
  unfold Dev.tcLookup
  conv => zeta
  refine Touches.ite ?_ ?_
  · refine Touches.comp (Dev.count_touches ..) (by decide) ?_
    refine Touches.foldl (fun _ _ => ?_) ?_
    · refine Touches.comp (Dev.tcTouch_touches ..) (by decide) ?_
      exact Touches.refl _ _
    · exact Touches.refl _ _
  · refine Touches.comp (Dev.bump_touches ..) (by decide) ?_
    refine Touches.comp (Dev.count_touches ..) (by decide) ?_
    refine Touches.foldl (fun _ _ => ?_) ?_
    · refine Touches.comp (Dev.tcTouch_touches ..) (by decide) ?_
      exact Touches.refl _ _
    · exact Touches.refl _ _

theorem Dev.openLine_touches {x0} {x1} {x2} {x3} {x4} {x5} {r e} (h : Dev.openLine x0 x1 x2 x3 x4 x5 = (r, e)) :
    Touches [.regs, .a, .b, .log, .aon, .pmc, .sec, .out] x1 e := by
  unfold Dev.openLine at h
  exact Dev.openLineFor_touches h

theorem Dev.resetRange_touches (d) (lo) (hi) : Touches [.regs] d (Dev.resetRange d lo hi) := by
  unfold Dev.resetRange
  refine Touches.comp (Touches.put_regs ..) (by decide) ?_
  exact Touches.refl _ _

theorem Dev.reencClear_touches (d) (line) : Touches [.regs, .sec] d (Dev.reencClear d line) := by
  unfold Dev.reencClear
  refine Touches.comp (Dev.reencSettle_touches ..) (by decide) ?_
  refine Touches.comp (Touches.put_sec ..) (by decide) ?_
  exact Touches.refl _ _

theorem Dev.counterPair_touches {x0} {x1} {r e} (h : Dev.counterPair x0 x1 = some (r, e)) : Touches [.tracts, .drift] x0 e := by
  unfold Dev.counterPair at h
  split at h
  · cases h; exact Touches.comp (Dev.newClass_touches ..) (by decide) ((Dev.markPhys_touches ..).mono (by decide))
  · split at h
    · cases h
      exact Touches.comp (Dev.newClass_touches ..) (by decide) (Touches.comp (Touches.put_tracts ..) (by decide) ((Dev.markPhys_touches ..).mono (by decide)))
    · cases h

theorem Dev.newBlock_touches {x0} {r e} (h : Dev.newBlock x0 = some (r, e)) : Touches [.tracts, .drift] x0 e := by
  unfold Dev.newBlock at h
  dsimp only at h
  split at h
  · cases h; exact Touches.refl ..
  · obtain ⟨x, hx, hy⟩ := Option.map_eq_some_iff.mp h
    cases hy; exact Dev.counterPair_touches hx

theorem Dev.allocCtr_touches {x0} {x1} {x2} {x3} {e} (h : Dev.allocCtr x0 x1 x2 x3 = some e) : Touches [.tracts, .drift, .sec, .fresh] x0 e := by
  unfold Dev.allocCtr at h
  split at h
  · cases h
  · rename_i hq
    obtain rfl := Option.some.inj h
    refine Touches.foldl (fun a x => ?_) ?_
    · exact Touches.comp (Dev.ctrPut_touches ..) (by decide) ((Dev.rand_touches rfl).mono (by decide))
    · exact Touches.comp (Dev.setHdr_touches ..) (by decide) ((Dev.newBlock_touches hq).mono (by decide))

theorem Dev.rowNote_touches (d) (line) : Touches [.media] d (Dev.rowNote d line) := by
  unfold Dev.rowNote
  refine Touches.comp (Touches.put_media ..) (by decide) ?_
  exact Touches.refl _ _

theorem Dev.sealLine_touches {x0} {x1} {x2} {x3} {x4} {x5} {r e} (h : Dev.sealLine x0 x1 x2 x3 x4 x5 = some (r, e)) :
    Touches [.regs, .a, .b, .log, .aon, .pmc, .tracts, .drift, .sec, .out, .fresh] x1 e := by
  unfold Dev.sealLine at h
  extract_lets a page ready at h
  split at h
  · obtain rfl := (Prod.mk.inj (Option.some.inj h)).2; exact Touches.ite (Touches.refl ..) ((Dev.count_touches ..).mono (by decide))
  · have hr : ∀ y, ready = some y → Touches [.regs, .pmc, .tracts, .drift, .sec, .fresh] x1 y := by
      intro y hy
      simp only [ready] at hy
      split at hy
      · cases hy; exact Touches.refl ..
      · exact (Dev.allocCtr_touches hy).mono (by decide)
    rcases hq : ready with _ | d0
    · rw [hq] at h; cases h
    · rw [hq] at h
      dsimp only at h
      have h0 := hr _ hq
      split at h
      · rename_i hg
        obtain rfl := (Prod.mk.inj (Option.some.inj h)).2
        exact Touches.comp (Dev.exhaust_touches ..) (by decide) (Touches.comp (Dev.ctrGet_touches hg) (by decide) (h0.mono (by decide)))
      · rename_i c d1 hg
        have h1 : Touches [.regs, .a, .b, .log, .aon, .pmc, .tracts, .drift, .sec, .out, .fresh] x1 d1 :=
          Touches.comp (Dev.ctrGet_touches hg) (by decide) (h0.mono (by decide))
        split at h
        · obtain rfl := (Prod.mk.inj (Option.some.inj h)).2
          exact Touches.comp (Dev.count_touches ..) (by decide) (Touches.comp (Dev.reencClear_touches ..) (by decide)
            (Touches.comp (Dev.ctrPut_touches ..) (by decide) h1))
        · split at h
          · cases h
          · obtain rfl := (Prod.mk.inj (Option.some.inj h)).2
            exact Touches.comp (Dev.count_touches ..) (by decide) (Touches.comp (Dev.startReenc_touches ..) (by decide) h1)

end Sys2Proof.Machine
end

