-- ==== Sys2Proof/Laws/FrameLine.lean ====
section
/-!
SUPPORT. What each shared operation can change: Gondola, host reads and writes, write-backs.
-/
namespace Sys2Proof.Machine

theorem Dev.faultLevel_touches (F) (d) : Touches [.regs, .keel, .log, .pwr, .out] d (Dev.faultLevel F d) := by
  unfold Dev.faultLevel
  refine Touches.comp (Dev.forceFlush_touches ..) (by decide) ?_
  refine Touches.comp (Dev.emit_touches ..) (by decide) ?_
  refine Touches.comp (Touches.put_pwr ..) (by decide) ?_
  exact Touches.refl _ _

theorem ackDone_touches (F) (d) (a) : Touches [.regs, .a, .b, .pmc, .str, .out] d (ackDone F d a) := by
  unfold ackDone
  split
  · refine Touches.comp (Dev.emit_touches ..) (by decide) ?_
    refine Touches.comp (Dev.latency_touches ..) (by decide) ?_
    refine Touches.comp (Dev.setHead_touches ..) (by decide) ?_
    exact Touches.refl _ _
  · refine Touches.comp (Touches.put_str ..) (by decide) ?_
    exact Touches.refl _ _

theorem ackAll_touches (F) (d) (l) : Touches [.regs, .a, .b, .pmc, .str, .out] d (ackAll F d l) := by
  unfold ackAll
  refine Touches.foldl (fun _ _ => (ackDone_touches ..).mono (by decide)) ?_
  exact Touches.refl _ _

theorem mergeNow_touches {x0} {x1} {x2} {x3} {x4} {r e} (h : mergeNow x0 x1 x2 x3 x4 = (r, e)) :
    Touches [.regs, .a, .b, .log, .aon, .pmc, .sec, .out] x1 e := by
  unfold mergeNow at h
  split at h
  · cases h; exact Touches.refl ..
  · split at h
    rename_i v d1 hq
    have h1 : Touches [.regs, .a, .b, .log, .aon, .pmc, .sec, .out] x1 d1 := by
      split at hq
      · cases hq; exact Touches.refl ..
      · split at hq
        · exact Dev.openLineFor_touches hq
        · cases hq; exact Touches.refl ..
    split at h
    · cases h; exact Touches.comp (Dev.count_touches ..) (by decide) h1
    · cases h; exact h1

theorem Dev.setWb_touches (d) (line) (e) : Touches [.gon] d (Dev.setWb d line e) := by
  unfold Dev.setWb
  refine Touches.comp (Touches.put_gon ..) (by decide) ?_
  exact Touches.refl _ _

theorem Dev.setStaged_touches (d) (line) (e) : Touches [.gon] d (Dev.setStaged d line e) := by
  unfold Dev.setStaged
  refine Touches.comp (Touches.put_gon ..) (by decide) ?_
  exact Touches.refl _ _

theorem partialLoss_touches (F) (d) (line) : Touches [.regs, .a, .b, .log, .aon, .out] d (partialLoss F d line) := by
  unfold partialLoss
  refine Touches.comp (recordPoison_touches ..) (by decide) ?_
  refine Touches.comp (postAt_touches ..) (by decide) ?_
  refine Touches.comp (Dev.event_touches ..) (by decide) ?_
  refine Touches.comp (Dev.bump_touches ..) (by decide) ?_
  refine Touches.comp (Dev.setReg_touches ..) (by decide) ?_
  refine Touches.comp (Dev.setReg_touches ..) (by decide) ?_
  exact Touches.refl _ _

theorem dropPartial_touches (F) (d) (line) (wb) (e) : Touches [.regs, .a, .b, .log, .aon, .pmc, .gon, .str, .out] d (dropPartial F d line wb e) := by
  unfold dropPartial
  refine Touches.comp (ackAll_touches ..) (by decide) ?_
  refine Touches.comp (partialLoss_touches ..) (by decide) ?_
  refine Touches.ite ?_ ?_
  · refine Touches.comp (Dev.setWb_touches ..) (by decide) ?_
    exact Touches.refl _ _
  · refine Touches.comp (Dev.setStaged_touches ..) (by decide) ?_
    exact Touches.refl _ _

theorem selectOne_touches (F) (raised) (d) (line) : Touches [.regs, .a, .b, .log, .aon, .pmc, .gon, .sec, .str, .out] d (selectOne F raised d line) := by
  unfold selectOne
  split
  · split
    · rename_i hq4
      refine Touches.comp (Dev.setWb_touches ..) (by decide) ?_
      refine Touches.comp (Dev.setStaged_touches ..) (by decide) ?_
      refine Touches.comp (mergeNow_touches hq4) (by decide) ?_
      exact Touches.refl _ _
    · rename_i hq4
      refine Touches.comp (dropPartial_touches ..) (by decide) ?_
      refine Touches.comp (mergeNow_touches hq4) (by decide) ?_
      exact Touches.refl _ _
  · exact Touches.refl _ _

theorem Dev.unlose_touches (d) (line) : Touches [.gon] d (Dev.unlose d line) := by
  unfold Dev.unlose
  refine Touches.comp (Touches.put_gon ..) (by decide) ?_
  exact Touches.refl _ _

theorem Dev.preLaunchMove_touches {x0} {x1} {r e} (h : Dev.preLaunchMove x0 x1 = (r, e)) : Touches [.gon] x0 e := by
  unfold Dev.preLaunchMove at h
  split at h
  · cases h; exact Touches.refl ..
  · split at h
    · cases h; exact Touches.refl ..
    · split at h
      · cases h; exact Touches.refl ..
      · extract_lets d1 at h
        split at h
        · cases h; exact Touches.comp (Dev.setWb_touches ..) (by decide) (Dev.setStaged_touches ..)
        · cases h; exact Touches.comp (Dev.setStaged_touches ..) (by decide) (Dev.setStaged_touches ..)

theorem Dev.passOrder_touches (d) (line) (rewrite) : Touches [.keel, .cache, .drift] d (Dev.passOrder d line rewrite) := by
  unfold Dev.passOrder
  conv => zeta
  refine Touches.ite ?_ ?_
  · refine Touches.ite ?_ ?_
    · exact Touches.refl _ _
    · refine Touches.comp (Touches.put_drift ..) (by decide) ?_
      refine Touches.comp (Dev.writeClears_touches ..) (by decide) ?_
      exact Touches.refl _ _
  · refine Touches.comp (Dev.statePut_touches ..) (by decide) ?_
    refine Touches.comp (Touches.put_keel ..) (by decide) ?_
    refine Touches.ite ?_ ?_
    · exact Touches.refl _ _
    · refine Touches.comp (Touches.put_drift ..) (by decide) ?_
      refine Touches.comp (Dev.writeClears_touches ..) (by decide) ?_
      exact Touches.refl _ _

theorem keepStaged_touches (F) (d) (line) (e) (acks) (direct) : Touches [.regs, .a, .b, .pmc, .gon, .str, .out] d (keepStaged F d line e acks direct) := by
  unfold keepStaged
  refine Touches.ite ?_ ?_
  · refine Touches.comp (Dev.setStaged_touches ..) (by decide) ?_
    exact Touches.refl _ _
  · refine Touches.ite ?_ ?_
    · refine Touches.comp (ackAll_touches ..) (by decide) ?_
      refine Touches.comp (Dev.setStaged_touches ..) (by decide) ?_
      exact Touches.refl _ _
    · refine Touches.ite ?_ ?_
      · refine Touches.comp (Dev.setStaged_touches ..) (by decide) ?_
        exact Touches.refl _ _
      · refine Touches.comp (Dev.setWb_touches ..) (by decide) ?_
        refine Touches.comp (Dev.setStaged_touches ..) (by decide) ?_
        exact Touches.refl _ _

theorem stageWrite_touches (F) (w) (pre) (d1) : Touches [.regs, .a, .b, .log, .aon, .pmc, .gon, .str, .out] d1 (stageWrite F w pre d1) := by
  unfold stageWrite
  conv => zeta
  split
  · split
    · refine Touches.comp (keepStaged_touches ..) (by decide) ?_
      refine Touches.comp (partialLoss_touches ..) (by decide) ?_
      refine Touches.comp (Touches.put_gon ..) (by decide) ?_
      exact Touches.refl _ _
    · refine Touches.comp (keepStaged_touches ..) (by decide) ?_
      refine Touches.comp (Touches.put_gon ..) (by decide) ?_
      exact Touches.refl _ _
  · refine Touches.ite ?_ ?_
    · refine Touches.comp (ackAll_touches ..) (by decide) ?_
      refine Touches.comp (Dev.setStaged_touches ..) (by decide) ?_
      refine Touches.ite ?_ ?_
      · refine Touches.comp (partialLoss_touches ..) (by decide) ?_
        refine Touches.comp (Touches.put_gon ..) (by decide) ?_
        exact Touches.refl _ _
      · refine Touches.comp (Touches.put_gon ..) (by decide) ?_
        exact Touches.refl _ _
    · refine Touches.ite ?_ ?_
      · refine Touches.comp (Dev.setStaged_touches ..) (by decide) ?_
        refine Touches.ite ?_ ?_
        · refine Touches.comp (partialLoss_touches ..) (by decide) ?_
          refine Touches.comp (Touches.put_gon ..) (by decide) ?_
          exact Touches.refl _ _
        · refine Touches.comp (Touches.put_gon ..) (by decide) ?_
          exact Touches.refl _ _
      · refine Touches.comp (Dev.setWb_touches ..) (by decide) ?_
        refine Touches.ite ?_ ?_
        · refine Touches.comp (partialLoss_touches ..) (by decide) ?_
          refine Touches.comp (Touches.put_gon ..) (by decide) ?_
          exact Touches.refl _ _
        · refine Touches.comp (Touches.put_gon ..) (by decide) ?_
          exact Touches.refl _ _

theorem acceptWrite_touches (F) (d) (w) : Touches [.regs, .a, .b, .keel, .log, .aon, .pmc, .gon, .cache, .drift, .str, .out] d (acceptWrite F d w) := by
  unfold acceptWrite
  split
  · rename_i hq2
    refine Touches.comp (stageWrite_touches ..) (by decide) ?_
    refine Touches.comp (Dev.preLaunchMove_touches hq2) (by decide) ?_
    refine Touches.comp (Dev.passOrder_touches ..) (by decide) ?_
    exact Touches.refl _ _

theorem sealedNote_touches (F) (d) (h) (line) : Touches [.regs, .a, .b, .log, .aon, .pmc, .out] d (sealedNote F d h line) := by
  unfold sealedNote
  refine Touches.comp (recordPoison_touches ..) (by decide) ?_
  refine Touches.comp (Dev.countH_touches ..) (by decide) ?_
  refine Touches.ite ?_ ?_
  · refine Touches.comp (Dev.setReg_touches ..) (by decide) ?_
    refine Touches.comp (Dev.setReg_touches ..) (by decide) ?_
    refine Touches.comp (Dev.bump_touches ..) (by decide) ?_
    exact Touches.refl _ _
  · refine Touches.comp (Dev.event_touches ..) (by decide) ?_
    refine Touches.comp (Dev.post_touches ..) (by decide) ?_
    refine Touches.comp (Dev.setReg_touches ..) (by decide) ?_
    refine Touches.comp (Dev.setReg_touches ..) (by decide) ?_
    refine Touches.comp (Dev.bump_touches ..) (by decide) ?_
    exact Touches.refl _ _

theorem Dev.confirmAdd_touches (d) (line) (key) (base) : Touches [.drift] d (Dev.confirmAdd d line key base) := by
  unfold Dev.confirmAdd
  refine Touches.ite ?_ ?_
  · exact Touches.refl _ _
  · refine Touches.comp (Touches.put_drift ..) (by decide) ?_
    exact Touches.refl _ _

theorem Dev.resurveyAdd_touches (d) (line) : Touches [.drift] d (Dev.resurveyAdd d line) := by
  unfold Dev.resurveyAdd
  conv => zeta
  refine Touches.ite ?_ ?_
  · exact Touches.refl _ _
  · refine Touches.comp (Touches.put_drift ..) (by decide) ?_
    exact Touches.refl _ _

theorem Dev.toBallast_touches (d) (s) : Touches [.cache] d (Dev.toBallast d s) := by
  unfold Dev.toBallast
  refine Touches.ite ?_ ?_
  · exact Touches.refl _ _
  · refine Touches.comp (Dev.setCache_touches ..) (by decide) ?_
    exact Touches.refl _ _

theorem compatOn_touches (F) (d) (h) : Touches [.regs, .log, .aon, .cache] d (compatOn F d h) := by
  unfold compatOn
  refine Touches.ite ?_ ?_
  · refine Touches.comp (Dev.event_touches ..) (by decide) ?_
    exact Touches.refl _ _
  · refine Touches.ite ?_ ?_
    · exact Touches.refl _ _
    · refine Touches.comp (Dev.setCache_touches ..) (by decide) ?_
      refine Touches.foldl (fun _ _ => ?_) ?_
      · refine Touches.comp (Dev.toBallast_touches ..) (by decide) ?_
        exact Touches.refl _ _
      · refine Touches.comp (Dev.setRbit_touches ..) (by decide) ?_
        exact Touches.refl _ _

theorem Dev.emptyCmp_touches (d) : Touches [.cache] d (Dev.emptyCmp d) := by
  unfold Dev.emptyCmp
  refine Touches.comp (Dev.setCache_touches ..) (by decide) ?_
  refine Touches.foldl (fun _ _ => ?_) ?_
  · refine Touches.comp (Dev.toBallast_touches ..) (by decide) ?_
    exact Touches.refl _ _
  · exact Touches.refl _ _

theorem Dev.compatOff_touches (d) : Touches [.regs, .cache] d (Dev.compatOff d) := by
  unfold Dev.compatOff
  refine Touches.ite ?_ ?_
  · exact Touches.refl _ _
  · refine Touches.comp (Dev.setCache_touches ..) (by decide) ?_
    refine Touches.comp (Dev.emptyCmp_touches ..) (by decide) ?_
    refine Touches.comp (Dev.setRbit_touches ..) (by decide) ?_
    exact Touches.refl _ _

theorem scratchWriteCtl_touches (F) (d) (v) : Touches [.regs, .cache] d (scratchWriteCtl F d v) := by
  unfold scratchWriteCtl
  conv => zeta
  refine Touches.ite ?_ ?_
  · exact Touches.refl _ _
  · refine Touches.comp (Dev.setCache_touches ..) (by decide) ?_
    refine Touches.comp (Dev.setReg_touches ..) (by decide) ?_
    exact Touches.refl _ _

theorem Dev.invGo_touches (d) : Touches [.cache] d (Dev.invGo d) := by
  unfold Dev.invGo
  conv => zeta
  refine Touches.ite ?_ ?_
  · exact Touches.refl _ _
  · refine Touches.comp (Dev.setCache_touches ..) (by decide) ?_
    refine Touches.comp (Dev.invalidate_touches ..) (by decide) ?_
    exact Touches.refl _ _

theorem Dev.cmpPin_touches (d) (n) (on) : Touches [.cache] d (Dev.cmpPin d n on) := by
  unfold Dev.cmpPin
  conv => zeta
  refine Touches.ite ?_ ?_
  · exact Touches.refl _ _
  · refine Touches.ite ?_ ?_
    · exact Touches.refl _ _
    · refine Touches.comp (Dev.setCmp_touches ..) (by decide) ?_
      exact Touches.refl _ _

theorem Dev.gpfSettle_touches (d) : Touches [.gon, .out] d (Dev.gpfSettle d) := by
  unfold Dev.gpfSettle
  refine Touches.foldl (fun _ _ => ?_) ?_
  · refine Touches.comp (Dev.emit_touches ..) (by decide) ?_
    exact Touches.refl _ _
  · refine Touches.comp (Touches.put_gon ..) (by decide) ?_
    exact Touches.refl _ _

theorem promoteHeld_touches (F) (d) (line) : Touches [.regs, .a, .b, .log, .aon, .pmc, .gon, .sec, .str, .out] d (promoteHeld F d line) := by
  unfold promoteHeld
  split
  · refine Touches.ite ?_ ?_
    · split
      · rename_i hq6
        refine Touches.comp (Dev.setWb_touches ..) (by decide) ?_
        refine Touches.comp (Dev.setStaged_touches ..) (by decide) ?_
        refine Touches.comp (mergeNow_touches hq6) (by decide) ?_
        exact Touches.refl _ _
      · rename_i hq6
        refine Touches.comp (dropPartial_touches ..) (by decide) ?_
        refine Touches.comp (mergeNow_touches hq6) (by decide) ?_
        exact Touches.refl _ _
    · exact Touches.refl _ _
  · exact Touches.refl _ _

theorem dropEntry_touches (F) (d) (line) (wb) (e) : Touches [.regs, .a, .b, .log, .aon, .pmc, .gon, .sec, .str, .out] d (dropEntry F d line wb e) := by
  unfold dropEntry
  conv => zeta
  refine Touches.ite ?_ ?_
  · refine Touches.comp (promoteHeld_touches ..) (by decide) ?_
    refine Touches.comp (dropPartial_touches ..) (by decide) ?_
    exact Touches.refl _ _
  · refine Touches.comp (dropPartial_touches ..) (by decide) ?_
    exact Touches.refl _ _

theorem Dev.fetchFor_touches (d) (line) (key) (base) (w) (fill) : Touches [.regs, .pmc, .cache, .tracts] d (Dev.fetchFor d line key base w fill) := by
  unfold Dev.fetchFor
  conv => zeta
  refine Touches.ite ?_ ?_
  · refine Touches.comp (Dev.setCache_touches ..) (by decide) ?_
    exact Touches.refl _ _
  · refine Touches.comp (Dev.setCache_touches ..) (by decide) ?_
    refine Touches.comp (Dev.count_touches ..) (by decide) ?_
    refine Touches.comp (Dev.tcLookup_touches ..) (by decide) ?_
    refine Touches.comp (Touches.put_tracts ..) (by decide) ?_
    refine Touches.comp (Dev.metaRead_touches ..) (by decide) ?_
    exact Touches.refl _ _

theorem Dev.fillEntry_touches (F) (d) (n) : Touches [.regs, .pmc, .cache, .tracts] d (Dev.fillEntry F d n) := by
  unfold Dev.fillEntry
  conv => zeta
  refine Touches.foldl (fun _ _ => ?_) ?_
  · refine Touches.ite ?_ ?_
    · refine Touches.comp (Dev.setCmp_touches ..) (by decide) ?_
      exact Touches.refl _ _
    · split
      · split
        · refine Touches.comp (Dev.setCmp_touches ..) (by decide) ?_
          refine Touches.comp (Dev.install_touches ..) (by decide) ?_
          exact Touches.refl _ _
        · refine Touches.comp (Dev.setCmp_touches ..) (by decide) ?_
          exact Touches.refl _ _
        · refine Touches.ite ?_ ?_
          · exact Touches.refl _ _
          · refine Touches.comp (Dev.setCmp_touches ..) (by decide) ?_
            refine Touches.comp (Dev.fetchFor_touches ..) (by decide) ?_
            exact Touches.refl _ _
  · exact Touches.refl _ _

theorem Dev.fillsGo_touches (F) (d) : Touches [.regs, .pmc, .cache, .tracts] d (Dev.fillsGo F d) := by
  unfold Dev.fillsGo
  refine Touches.foldl (fun _ _ => ?_) ?_
  · refine Touches.comp (Dev.fillEntry_touches ..) (by decide) ?_
    exact Touches.refl _ _
  · exact Touches.refl _ _

theorem Dev.mapFetch_touches (d) (f) (g) : Touches [.cache] d (Dev.mapFetch d f g) := by
  unfold Dev.mapFetch
  refine Touches.comp (Dev.setCache_touches ..) (by decide) ?_
  exact Touches.refl _ _

theorem Dev.pageFill_touches (F) (d) (h) (line) : Touches [.regs, .pmc, .cache, .tracts] d (Dev.pageFill F d h line) := by
  unfold Dev.pageFill
  split
  · exact Touches.refl _ _
  · refine Touches.comp (Dev.fillEntry_touches ..) (by decide) ?_
    refine Touches.comp (Dev.setCmp_touches ..) (by decide) ?_
    exact Touches.refl _ _

theorem Dev.quadCount_touches (d) (l) (e) : Touches [.regs, .pmc] d (Dev.quadCount d l e) := by
  unfold Dev.quadCount
  refine Touches.comp (Dev.count_touches ..) (by decide) ?_
  exact Touches.refl _ _

theorem Dev.trackIn_touches (d) (h) : Touches [.a, .b] d (Dev.trackIn d h) := by
  unfold Dev.trackIn
  refine Touches.comp (Dev.setHead_touches ..) (by decide) ?_
  exact Touches.refl _ _

theorem Dev.trackOut_touches (d) (h) : Touches [.a, .b] d (Dev.trackOut d h) := by
  unfold Dev.trackOut
  refine Touches.comp (Dev.setHead_touches ..) (by decide) ?_
  exact Touches.refl _ _

theorem Dev.transient_touches (d) (l) : Touches [.regs] d (Dev.transient d l) := by
  unfold Dev.transient
  refine Touches.ite ?_ ?_
  · exact Touches.refl _ _
  · refine Touches.comp (Dev.bump_touches ..) (by decide) ?_
    exact Touches.refl _ _

theorem Dev.useReq_touches (d) (h) : Touches [.a, .b] d (Dev.useReq d h) := by
  unfold Dev.useReq
  refine Touches.comp (Dev.setHead_touches ..) (by decide) ?_
  exact Touches.refl _ _

theorem Dev.useRwd_touches (d) (h) : Touches [.a, .b] d (Dev.useRwd d h) := by
  unfold Dev.useRwd
  refine Touches.comp (Dev.setHead_touches ..) (by decide) ?_
  exact Touches.refl _ _

theorem Dev.weakMatch_touches (d) (m) (pa) (bytes) : Touches [.media] d (Dev.weakMatch d m pa bytes) := by
  unfold Dev.weakMatch
  refine Touches.comp (Dev.setCtl_touches ..) (by decide) ?_
  exact Touches.refl _ _

theorem respond_touches (F) (d) (h) (tag) (line) (t) (v) : Touches [.regs, .a, .b, .pmc, .out, .fresh] d (respond F d h tag line t v) := by
  unfold respond
  conv => zeta
  split
  · refine Touches.comp (Dev.emit_touches ..) (by decide) ?_
    refine Touches.comp (Dev.latency_touches ..) (by decide) ?_
    exact Touches.refl _ _
  · split
    · rename_i hq4
      refine Touches.comp (Dev.emit_touches ..) (by decide) ?_
      refine Touches.comp (Dev.free_touches hq4) (by decide) ?_
      refine Touches.ite ?_ ?_
      · refine Touches.comp (recordPoison_touches ..) (by decide) ?_
        refine Touches.comp (postAt_touches ..) (by decide) ?_
        refine Touches.comp (Dev.countH_touches ..) (by decide) ?_
        refine Touches.comp (Dev.latency_touches ..) (by decide) ?_
        exact Touches.refl _ _
      · refine Touches.comp (postAt_touches ..) (by decide) ?_
        refine Touches.comp (Dev.countH_touches ..) (by decide) ?_
        refine Touches.comp (Dev.latency_touches ..) (by decide) ?_
        exact Touches.refl _ _

theorem answerWaiter_touches (F) (src) (line) (v) (d) (w) : Touches [.regs, .a, .b, .log, .aon, .pmc, .gon, .sec, .str, .out, .fresh] d (answerWaiter F src line v d w) := by
  unfold answerWaiter
  conv => zeta
  split
  · split
    · refine Touches.comp (respond_touches ..) (by decide) ?_
      refine Touches.comp (Dev.latency_touches ..) (by decide) ?_
      refine Touches.comp (Dev.trackOut_touches ..) (by decide) ?_
      exact Touches.refl _ _
    · refine Touches.comp (respond_touches ..) (by decide) ?_
      refine Touches.comp (Dev.latency_touches ..) (by decide) ?_
      refine Touches.comp (Dev.trackOut_touches ..) (by decide) ?_
      exact Touches.refl _ _
  · refine Touches.comp (Dev.trackOut_touches ..) (by decide) ?_
    exact Touches.refl _ _
  · split
    · refine Touches.ite ?_ ?_
      · refine Touches.ite ?_ ?_
        · exact Touches.refl _ _
        · split
          · exact Touches.refl _ _
          · split
            · refine Touches.comp (Dev.count_touches ..) (by decide) ?_
              refine Touches.ite ?_ ?_
              · refine Touches.comp (Dev.setWb_touches ..) (by decide) ?_
                exact Touches.refl _ _
              · refine Touches.comp (Dev.setStaged_touches ..) (by decide) ?_
                exact Touches.refl _ _
            · refine Touches.comp (dropEntry_touches ..) (by decide) ?_
              exact Touches.refl _ _
      · refine Touches.ite ?_ ?_
        · exact Touches.refl _ _
        · split
          · exact Touches.refl _ _
          · split
            · refine Touches.comp (Dev.count_touches ..) (by decide) ?_
              refine Touches.ite ?_ ?_
              · refine Touches.comp (Dev.setWb_touches ..) (by decide) ?_
                exact Touches.refl _ _
              · refine Touches.comp (Dev.setStaged_touches ..) (by decide) ?_
                exact Touches.refl _ _
            · refine Touches.comp (dropEntry_touches ..) (by decide) ?_
              exact Touches.refl _ _
    · refine Touches.ite ?_ ?_
      · exact Touches.refl _ _
      · split
        · exact Touches.refl _ _
        · split
          · refine Touches.comp (Dev.count_touches ..) (by decide) ?_
            refine Touches.ite ?_ ?_
            · refine Touches.comp (Dev.setWb_touches ..) (by decide) ?_
              exact Touches.refl _ _
            · refine Touches.comp (Dev.setStaged_touches ..) (by decide) ?_
              exact Touches.refl _ _
          · refine Touches.comp (dropEntry_touches ..) (by decide) ?_
            exact Touches.refl _ _
    · refine Touches.ite ?_ ?_
      · exact Touches.refl _ _
      · split
        · exact Touches.refl _ _
        · split
          · refine Touches.comp (Dev.count_touches ..) (by decide) ?_
            refine Touches.ite ?_ ?_
            · refine Touches.comp (Dev.setWb_touches ..) (by decide) ?_
              exact Touches.refl _ _
            · refine Touches.comp (Dev.setStaged_touches ..) (by decide) ?_
              exact Touches.refl _ _
          · refine Touches.comp (dropEntry_touches ..) (by decide) ?_
            exact Touches.refl _ _
    · exact Touches.refl _ _

theorem codeFixed_touches (d) (f) (l) : Touches [.regs, .media, .drift] d (codeFixed d f l) := by
  unfold codeFixed
  conv => zeta
  refine Touches.ite ?_ ?_
  · refine Touches.comp (Dev.transient_touches ..) (by decide) ?_
    refine Touches.comp (Dev.resurveyAdd_touches ..) (by decide) ?_
    refine Touches.comp (Touches.put_drift ..) (by decide) ?_
    refine Touches.comp (Dev.setCtl_touches ..) (by decide) ?_
    refine Touches.comp (Dev.bump_touches ..) (by decide) ?_
    exact Touches.refl _ _
  · refine Touches.comp (Dev.resurveyAdd_touches ..) (by decide) ?_
    refine Touches.comp (Touches.put_drift ..) (by decide) ?_
    refine Touches.comp (Dev.setCtl_touches ..) (by decide) ?_
    refine Touches.comp (Dev.bump_touches ..) (by decide) ?_
    exact Touches.refl _ _

theorem endFetch_touches (F) (d) (f) (src) (v) : Touches [.regs, .a, .b, .log, .aon, .pmc, .gon, .cache, .tracts, .drift, .sec, .str, .out, .fresh] d (endFetch F d f src v) := by
  unfold endFetch
  conv => zeta
  split
  · refine Touches.comp (Dev.fillsGo_touches ..) (by decide) ?_
    refine Touches.foldl (fun _ _ => (answerWaiter_touches ..).mono (by decide)) ?_
    split
    · refine Touches.ite ?_ ?_
      · refine Touches.comp (Dev.confirmAdd_touches ..) (by decide) ?_
        refine Touches.comp (Dev.setCache_touches ..) (by decide) ?_
        exact Touches.refl _ _
      · refine Touches.comp (Dev.setCache_touches ..) (by decide) ?_
        exact Touches.refl _ _
    · refine Touches.comp (Dev.setCache_touches ..) (by decide) ?_
      exact Touches.refl _ _
  · refine Touches.ite ?_ ?_
    · refine Touches.comp (Dev.fillsGo_touches ..) (by decide) ?_
      refine Touches.foldl (fun _ _ => (answerWaiter_touches ..).mono (by decide)) ?_
      split
      · refine Touches.ite ?_ ?_
        · refine Touches.comp (Dev.confirmAdd_touches ..) (by decide) ?_
          refine Touches.comp (Dev.setCache_touches ..) (by decide) ?_
          exact Touches.refl _ _
        · refine Touches.comp (Dev.setCache_touches ..) (by decide) ?_
          exact Touches.refl _ _
      · refine Touches.comp (Dev.setCache_touches ..) (by decide) ?_
        exact Touches.refl _ _
    · refine Touches.ite ?_ ?_
      · refine Touches.comp (Dev.install_touches ..) (by decide) ?_
        refine Touches.comp (Dev.fillsGo_touches ..) (by decide) ?_
        refine Touches.foldl (fun _ _ => (answerWaiter_touches ..).mono (by decide)) ?_
        split
        · refine Touches.ite ?_ ?_
          · refine Touches.comp (Dev.confirmAdd_touches ..) (by decide) ?_
            refine Touches.comp (Dev.setCache_touches ..) (by decide) ?_
            exact Touches.refl _ _
          · refine Touches.comp (Dev.setCache_touches ..) (by decide) ?_
            exact Touches.refl _ _
        · refine Touches.comp (Dev.setCache_touches ..) (by decide) ?_
          exact Touches.refl _ _
      · refine Touches.comp (Dev.count_touches ..) (by decide) ?_
        refine Touches.comp (Dev.fillsGo_touches ..) (by decide) ?_
        refine Touches.foldl (fun _ _ => (answerWaiter_touches ..).mono (by decide)) ?_
        split
        · refine Touches.ite ?_ ?_
          · refine Touches.comp (Dev.confirmAdd_touches ..) (by decide) ?_
            refine Touches.comp (Dev.setCache_touches ..) (by decide) ?_
            exact Touches.refl _ _
          · refine Touches.comp (Dev.setCache_touches ..) (by decide) ?_
            exact Touches.refl _ _
        · refine Touches.comp (Dev.setCache_touches ..) (by decide) ?_
          exact Touches.refl _ _

theorem openFetch_touches (F) (d) (f) (src) (m) : Touches [.regs, .a, .b, .log, .aon, .pmc, .gon, .cache, .tracts, .drift, .sec, .str, .out, .fresh] d (openFetch F d f src m) := by
  unfold openFetch
  split
  · rename_i hq2
    refine Touches.comp (endFetch_touches ..) (by decide) ?_
    refine Touches.comp (Dev.openLine_touches hq2) (by decide) ?_
    exact Touches.refl _ _

theorem aroundDone_touches (F) (d) (f) (l) (m) : Touches [.regs, .a, .b, .log, .aon, .pmc, .gon, .cache, .media, .tracts, .drift, .sec, .str, .out, .fresh] d (aroundDone F d f l m) := by
  unfold aroundDone
  refine Touches.comp (openFetch_touches ..) (by decide) ?_
  refine Touches.comp (Dev.quadCount_touches ..) (by decide) ?_
  refine Touches.ite ?_ ?_
  · refine Touches.comp (codeFixed_touches ..) (by decide) ?_
    exact Touches.refl _ _
  · refine Touches.ite ?_ ?_
    · refine Touches.comp (Dev.bump_touches ..) (by decide) ?_
      exact Touches.refl _ _
    · exact Touches.refl _ _

theorem fallback_touches (F) (d) (f) (l) (unk) : Touches [.regs, .a, .b, .log, .aon, .pmc, .gon, .cache, .media, .tracts, .drift, .sec, .str, .out, .fresh] d (fallback F d f l unk) := by
  unfold fallback
  split
  · refine Touches.comp (aroundDone_touches ..) (by decide) ?_
    exact Touches.refl _ _
  · refine Touches.ite ?_ ?_
    · refine Touches.comp (Dev.mapFetch_touches ..) (by decide) ?_
      exact Touches.refl _ _
    · refine Touches.comp (endFetch_touches ..) (by decide) ?_
      exact Touches.refl _ _

theorem heavyDone_touches (F) (d) (line) (v) (bytes) : Touches [.regs, .a, .b, .log, .aon, .pmc, .gon, .cache, .media, .tracts, .drift, .sec, .str, .out, .fresh] d (heavyDone F d line v bytes) := by
  unfold heavyDone
  conv => zeta
  split
  · exact Touches.refl _ _
  · refine Touches.ite ?_ ?_
    · exact Touches.refl _ _
    · refine Touches.ite ?_ ?_
      · refine Touches.comp (fallback_touches ..) (by decide) ?_
        refine Touches.comp (Dev.mapFetch_touches ..) (by decide) ?_
        refine Touches.comp (Dev.mapFetch_touches ..) (by decide) ?_
        exact Touches.refl _ _
      · split
        · refine Touches.comp (openFetch_touches ..) (by decide) ?_
          refine Touches.comp (postAt_touches ..) (by decide) ?_
          refine Touches.comp (Dev.weakMatch_touches ..) (by decide) ?_
          refine Touches.comp (Dev.resurveyAdd_touches ..) (by decide) ?_
          refine Touches.comp (Dev.bump_touches ..) (by decide) ?_
          refine Touches.comp (Dev.quadCount_touches ..) (by decide) ?_
          refine Touches.comp (Dev.mapFetch_touches ..) (by decide) ?_
          exact Touches.refl _ _
        · refine Touches.comp (fallback_touches ..) (by decide) ?_
          refine Touches.comp (Dev.quadCount_touches ..) (by decide) ?_
          refine Touches.comp (Dev.mapFetch_touches ..) (by decide) ?_
          exact Touches.refl _ _

theorem unmapped_touches (F) (d) (h) (tag) : Touches [.regs, .log, .aon, .out] d (unmapped F d h tag) := by
  unfold unmapped
  refine Touches.comp (Dev.emit_touches ..) (by decide) ?_
  refine Touches.comp (Dev.event_touches ..) (by decide) ?_
  exact Touches.refl _ _

theorem readEntry_touches (F) (d) (h) (tag) (line) (key) (base) (e) (isStaged) : Touches [.regs, .a, .b, .log, .aon, .pmc, .gon, .cache, .tracts, .sec, .str, .out, .fresh] d (readEntry F d h tag line key base e isStaged) := by
  unfold readEntry
  conv => zeta
  refine Touches.ite ?_ ?_
  · refine Touches.comp (respond_touches ..) (by decide) ?_
    refine Touches.comp (Dev.count_touches ..) (by decide) ?_
    exact Touches.refl _ _
  · refine Touches.ite ?_ ?_
    · refine Touches.comp (respond_touches ..) (by decide) ?_
      refine Touches.comp (Dev.count_touches ..) (by decide) ?_
      exact Touches.refl _ _
    · split
      · split
        · refine Touches.comp (respond_touches ..) (by decide) ?_
          refine Touches.comp (Dev.count_touches ..) (by decide) ?_
          refine Touches.comp (Dev.count_touches ..) (by decide) ?_
          refine Touches.ite ?_ ?_
          · refine Touches.comp (Dev.setStaged_touches ..) (by decide) ?_
            exact Touches.refl _ _
          · refine Touches.comp (Dev.setWb_touches ..) (by decide) ?_
            exact Touches.refl _ _
        · refine Touches.comp (respond_touches ..) (by decide) ?_
          refine Touches.comp (dropEntry_touches ..) (by decide) ?_
          exact Touches.refl _ _
      · refine Touches.comp (Dev.fetchFor_touches ..) (by decide) ?_
        refine Touches.comp (Dev.trackIn_touches ..) (by decide) ?_
        exact Touches.refl _ _

theorem readPersist_touches (F) (d) (h) (tag) (dpa) : Touches [.regs, .a, .b, .log, .aon, .pmc, .gon, .cache, .tracts, .sec, .str, .out, .fresh] d (readPersist F d h tag dpa) := by
  unfold readPersist
  conv => zeta
  split
  · split
    · refine Touches.comp (readEntry_touches ..) (by decide) ?_
      exact Touches.refl _ _
    · refine Touches.comp (readEntry_touches ..) (by decide) ?_
      exact Touches.refl _ _
    · split
      · refine Touches.comp (respond_touches ..) (by decide) ?_
        refine Touches.comp (Dev.count_touches ..) (by decide) ?_
        refine Touches.comp (Dev.recall_touches ..) (by decide) ?_
        exact Touches.refl _ _
      · split
        · refine Touches.comp (respond_touches ..) (by decide) ?_
          refine Touches.comp (Dev.count_touches ..) (by decide) ?_
          refine Touches.comp (Dev.pageFill_touches ..) (by decide) ?_
          refine Touches.comp (Dev.install_touches ..) (by decide) ?_
          refine Touches.comp (Dev.bring_touches ..) (by decide) ?_
          exact Touches.refl _ _
        · refine Touches.comp (respond_touches ..) (by decide) ?_
          split
          · refine Touches.comp (Dev.recall_touches ..) (by decide) ?_
            exact Touches.refl _ _
          · exact Touches.refl _ _
        · refine Touches.comp (Dev.pageFill_touches ..) (by decide) ?_
          refine Touches.comp (Dev.fetchFor_touches ..) (by decide) ?_
          refine Touches.comp (Dev.trackIn_touches ..) (by decide) ?_
          refine Touches.comp (Dev.bring_touches ..) (by decide) ?_
          exact Touches.refl _ _

theorem hostRead_touches (F) (d) (h) (tag) (dpa) : Touches [.regs, .a, .b, .log, .aon, .pmc, .gon, .cache, .tracts, .sec, .str, .out, .fresh] d (hostRead F d h tag dpa) := by
  unfold hostRead
  conv => zeta
  refine Touches.ite ?_ ?_
  · exact Touches.refl _ _
  · refine Touches.ite ?_ ?_
    · refine Touches.comp (unmapped_touches ..) (by decide) ?_
      refine Touches.comp (Dev.useReq_touches ..) (by decide) ?_
      exact Touches.refl _ _
    · split
      · refine Touches.comp (readPersist_touches ..) (by decide) ?_
        refine Touches.comp (Dev.countH_touches ..) (by decide) ?_
        refine Touches.comp (Dev.useReq_touches ..) (by decide) ?_
        exact Touches.refl _ _
      · refine Touches.ite ?_ ?_
        · refine Touches.comp (respond_touches ..) (by decide) ?_
          refine Touches.comp (Dev.countH_touches ..) (by decide) ?_
          refine Touches.comp (Dev.useReq_touches ..) (by decide) ?_
          exact Touches.refl _ _
        · refine Touches.comp (respond_touches ..) (by decide) ?_
          refine Touches.comp (Dev.count_touches ..) (by decide) ?_
          refine Touches.comp (Dev.countH_touches ..) (by decide) ?_
          refine Touches.comp (Dev.useReq_touches ..) (by decide) ?_
          exact Touches.refl _ _
      · refine Touches.comp (respond_touches ..) (by decide) ?_
        refine Touches.comp (Dev.countH_touches ..) (by decide) ?_
        refine Touches.comp (Dev.useReq_touches ..) (by decide) ?_
        exact Touches.refl _ _

theorem ladderAround_touches (F) (d) (f) (l) (unk) : Touches [.regs, .a, .b, .tether, .log, .aon, .pmc, .gon, .cache, .media, .tracts, .drift, .sec, .str, .out, .fresh] d (ladderAround F d f l unk) := by
  unfold ladderAround
  split
  · refine Touches.comp (aroundDone_touches ..) (by decide) ?_
    exact Touches.refl _ _
  · refine Touches.ite ?_ ?_
    · refine Touches.ite ?_ ?_
      · exact Touches.refl _ _
      · refine Touches.comp (endFetch_touches ..) (by decide) ?_
        exact Touches.refl _ _
    · refine Touches.ite ?_ ?_
      · refine Touches.comp (Dev.windowAbort_touches ..) (by decide) ?_
        exact Touches.refl _ _
      · exact Touches.refl _ _

theorem ladderStep_touches (F) (d) (f) (l) (v) (unk) : Touches [.regs, .a, .b, .log, .aon, .pmc, .gon, .cache, .media, .tracts, .drift, .sec, .str, .out, .fresh] d (ladderStep F d f l v unk) := by
  unfold ladderStep
  conv => zeta
  split
  · refine Touches.ite ?_ ?_
    · refine Touches.comp (openFetch_touches ..) (by decide) ?_
      refine Touches.comp (Dev.quadCount_touches ..) (by decide) ?_
      exact Touches.refl _ _
    · exact Touches.refl _ _
  · refine Touches.ite ?_ ?_
    · refine Touches.comp (Dev.mapFetch_touches ..) (by decide) ?_
      refine Touches.comp (Dev.quadCount_touches ..) (by decide) ?_
      exact Touches.refl _ _
    · split
      · refine Touches.comp (aroundDone_touches ..) (by decide) ?_
        refine Touches.comp (Dev.quadCount_touches ..) (by decide) ?_
        exact Touches.refl _ _
      · refine Touches.comp (endFetch_touches ..) (by decide) ?_
        refine Touches.comp (Dev.quadCount_touches ..) (by decide) ?_
        exact Touches.refl _ _

theorem mediaReturn_touches (x0) (x1) (x2) (x3) (x4) :
    Touches [.regs, .a, .b, .tether, .log, .aon, .pmc, .gon, .cache, .media, .tracts, .drift, .sec, .str, .out, .fresh] x1 (mediaReturn x0 x1 x2 x3 x4) := by
  unfold mediaReturn
  split
  · exact Touches.refl ..
  · split
    · exact (endFetch_touches ..).mono (by decide)
    · exact (endFetch_touches ..).mono (by decide)
    · have h1 : ∀ l, Touches [.regs, .a, .b, .tether, .log, .aon, .pmc, .gon, .cache, .media, .tracts, .drift, .sec, .str, .out, .fresh] x1 (((x1.quadCount l 0).quadCount l 7).quadCount l 9) := fun l =>
        Touches.comp (Dev.quadCount_touches ..) (by decide) (Touches.comp (Dev.quadCount_touches ..) (by decide) ((Dev.quadCount_touches ..).mono (by decide)))
      refine Touches.ite (Touches.ite ?_ ?_) (Touches.ite ?_ ?_)
      · exact (ladderAround_touches ..).mono (by decide)
      · exact (ladderStep_touches ..).mono (by decide)
      · exact Touches.refl ..
      generalize Dev.readLoc _ _ _ _ = q
      cases q with
      | direct m => exact Touches.comp (openFetch_touches ..) (by decide) ((Dev.quadCount_touches ..).mono (by decide))
      | lost => exact (endFetch_touches ..).mono (by decide)
      | around m =>
        refine Touches.ite ?_ (Touches.ite ?_ ?_)
        · exact (fallback_touches ..).mono (by decide)
        · exact Touches.comp (Dev.mapFetch_touches ..) (by decide) (h1 _)
        · exact Touches.comp (fallback_touches ..) (by decide) (h1 _)
      | unknown =>
        refine Touches.ite ?_ (Touches.ite ?_ ?_)
        · exact (fallback_touches ..).mono (by decide)
        · exact Touches.comp (Dev.mapFetch_touches ..) (by decide) (h1 _)
        · exact Touches.comp (fallback_touches ..) (by decide) (h1 _)

theorem retryRead_touches (F) (d) (line) (v) (unk) : Touches [.regs, .a, .b, .log, .aon, .pmc, .gon, .cache, .media, .tracts, .drift, .sec, .str, .out, .fresh] d (retryRead F d line v unk) := by
  unfold retryRead
  conv => zeta
  split
  · exact Touches.refl _ _
  · refine Touches.ite ?_ ?_
    · exact Touches.refl _ _
    · split
      · refine Touches.comp (openFetch_touches ..) (by decide) ?_
        refine Touches.comp (Dev.transient_touches ..) (by decide) ?_
        exact Touches.refl _ _
      · refine Touches.comp (aroundDone_touches ..) (by decide) ?_
        refine Touches.comp (Dev.transient_touches ..) (by decide) ?_
        exact Touches.refl _ _
      · refine Touches.comp (endFetch_touches ..) (by decide) ?_
        exact Touches.refl _ _
      · refine Touches.ite ?_ ?_
        · exact Touches.refl _ _
        · refine Touches.comp (endFetch_touches ..) (by decide) ?_
          exact Touches.refl _ _

theorem specRead_touches (F) (d) (h) (dpa) : Touches [.regs, .a, .b, .log, .aon, .pmc, .cache, .tracts] d (specRead F d h dpa) := by
  unfold specRead
  conv => zeta
  refine Touches.ite ?_ ?_
  · exact Touches.refl _ _
  · refine Touches.ite ?_ ?_
    · refine Touches.comp (Dev.event_touches ..) (by decide) ?_
      refine Touches.comp (Dev.countH_touches ..) (by decide) ?_
      refine Touches.comp (Dev.useReq_touches ..) (by decide) ?_
      exact Touches.refl _ _
    · refine Touches.ite ?_ ?_
      · refine Touches.comp (Dev.countH_touches ..) (by decide) ?_
        refine Touches.comp (Dev.useReq_touches ..) (by decide) ?_
        exact Touches.refl _ _
      · refine Touches.ite ?_ ?_
        · refine Touches.comp (Dev.countH_touches ..) (by decide) ?_
          refine Touches.comp (Dev.countH_touches ..) (by decide) ?_
          refine Touches.comp (Dev.useReq_touches ..) (by decide) ?_
          exact Touches.refl _ _
        · refine Touches.ite ?_ ?_
          · refine Touches.comp (Dev.countH_touches ..) (by decide) ?_
            refine Touches.comp (Dev.useReq_touches ..) (by decide) ?_
            exact Touches.refl _ _
          · split
            · split
              · refine Touches.comp (Dev.pageFill_touches ..) (by decide) ?_
                refine Touches.comp (Dev.install_touches ..) (by decide) ?_
                refine Touches.comp (Dev.bring_touches ..) (by decide) ?_
                refine Touches.comp (Dev.countH_touches ..) (by decide) ?_
                refine Touches.comp (Dev.useReq_touches ..) (by decide) ?_
                exact Touches.refl _ _
              · refine Touches.comp (Dev.countH_touches ..) (by decide) ?_
                refine Touches.comp (Dev.useReq_touches ..) (by decide) ?_
                exact Touches.refl _ _
              · refine Touches.comp (Dev.pageFill_touches ..) (by decide) ?_
                refine Touches.comp (Dev.fetchFor_touches ..) (by decide) ?_
                refine Touches.comp (Dev.trackIn_touches ..) (by decide) ?_
                refine Touches.comp (Dev.bring_touches ..) (by decide) ?_
                refine Touches.comp (Dev.countH_touches ..) (by decide) ?_
                refine Touches.comp (Dev.useReq_touches ..) (by decide) ?_
                exact Touches.refl _ _

theorem Dev.armedRecord_touches (d) (h) (k) (tract) : Touches [.regs, .a, .b, .out] d (Dev.armedRecord d h k tract) := by
  unfold Dev.armedRecord
  refine Touches.ite ?_ ?_
  · exact Touches.refl _ _
  · refine Touches.comp (Dev.post_touches ..) (by decide) ?_
    exact Touches.refl _ _

theorem Dev.cacheMacro_touches (d) (w) : Touches [.regs, .cache, .drift] d (Dev.cacheMacro d w) := by
  unfold Dev.cacheMacro
  refine Touches.ite ?_ ?_
  · exact Touches.refl _ _
  · refine Touches.comp (Dev.icu_touches ..) (by decide) ?_
    refine Touches.comp (Touches.put_drift ..) (by decide) ?_
    refine Touches.comp (Dev.setCache_touches ..) (by decide) ?_
    exact Touches.refl _ _

theorem Dev.compatDone_touches (d) : Touches [.cache] d (Dev.compatDone d) := by
  unfold Dev.compatDone
  refine Touches.ite ?_ ?_
  · exact Touches.refl _ _
  · refine Touches.comp (Dev.setCache_touches ..) (by decide) ?_
    refine Touches.comp (Dev.emptyCmp_touches ..) (by decide) ?_
    exact Touches.refl _ _

theorem Dev.compatStop_touches (d) : Touches [.regs, .cache] d (Dev.compatStop d) := by
  unfold Dev.compatStop
  refine Touches.comp (Dev.compatOff_touches ..) (by decide) ?_
  refine Touches.comp (Dev.compatDone_touches ..) (by decide) ?_
  exact Touches.refl _ _

theorem Dev.faultPulse_touches (d) : Touches [.pwr, .out] d (Dev.faultPulse d) := by
  unfold Dev.faultPulse
  refine Touches.comp (Dev.emit_touches ..) (by decide) ?_
  refine Touches.comp (Touches.put_pwr ..) (by decide) ?_
  exact Touches.refl _ _

theorem Dev.scratchDone_touches (d) : Touches [.cache] d (Dev.scratchDone d) := by
  unfold Dev.scratchDone
  refine Touches.ite ?_ ?_
  · refine Touches.comp (Dev.setCache_touches ..) (by decide) ?_
    exact Touches.refl _ _
  · exact Touches.refl _ _

theorem Dev.voidTract_touches (d) (t) : Touches [.tracts] d (Dev.voidTract d t) := by
  unfold Dev.voidTract
  refine Touches.comp (Dev.setHdr_touches ..) (by decide) ?_
  refine Touches.comp (Dev.setMeta_touches ..) (by decide) ?_
  refine Touches.comp (Dev.setEnt_touches ..) (by decide) ?_
  exact Touches.refl _ _

theorem discardHost_touches (F) (d) (h) (tag) (tract) : Touches [.regs, .a, .b, .pmc, .out] d (discardHost F d h tag tract) := by
  unfold discardHost
  refine Touches.comp (Dev.emit_touches ..) (by decide) ?_
  split
  · refine Touches.comp (Dev.armedRecord_touches ..) (by decide) ?_
    refine Touches.comp (Dev.countH_touches ..) (by decide) ?_
    refine Touches.comp (Dev.bump_touches ..) (by decide) ?_
    exact Touches.refl _ _
  · refine Touches.comp (Dev.countH_touches ..) (by decide) ?_
    refine Touches.comp (Dev.bump_touches ..) (by decide) ?_
    exact Touches.refl _ _

theorem drainBank_touches (F) (d) (b) : Touches [.regs, .a, .b, .log, .aon, .pmc, .gon, .sec, .str, .out] d (drainBank F d b) := by
  unfold drainBank
  refine Touches.foldl (fun _ _ => ?_) ?_
  · refine Touches.comp (Dev.setStaged_touches ..) (by decide) ?_
    exact Touches.refl _ _
  · refine Touches.foldl (fun _ _ => (selectOne_touches ..).mono (by decide)) ?_
    exact Touches.refl _ _

theorem lostLine_touches (F) (d) (line) : Touches [.regs, .a, .b, .log, .aon, .pmc, .gon, .media, .tracts, .sec] d (lostLine F d line) := by
  unfold lostLine
  refine Touches.comp (recordPoison_touches ..) (by decide) ?_
  refine Touches.comp (Dev.event_touches ..) (by decide) ?_
  refine Touches.ite ?_ ?_
  · refine Touches.comp (Dev.putLine_touches ..) (by decide) ?_
    exact Touches.refl _ _
  · refine Touches.comp (Touches.put_gon ..) (by decide) ?_
    exact Touches.refl _ _

theorem loseLine_touches (F) (inB) (d) (line) : Touches [.regs, .a, .b, .log, .aon, .pmc, .gon, .media, .tracts, .sec, .str, .out] d (loseLine F inB d line) := by
  unfold loseLine
  conv => zeta
  split
  · exact Touches.refl _ _
  · refine Touches.comp (lostLine_touches ..) (by decide) ?_
    refine Touches.comp (ackAll_touches ..) (by decide) ?_
    refine Touches.comp (Dev.setWb_touches ..) (by decide) ?_
    refine Touches.comp (Dev.setStaged_touches ..) (by decide) ?_
    exact Touches.refl _ _
  · refine Touches.comp (promoteHeld_touches ..) (by decide) ?_
    refine Touches.ite ?_ ?_
    · refine Touches.comp (ackAll_touches ..) (by decide) ?_
      refine Touches.comp (Dev.setWb_touches ..) (by decide) ?_
      exact Touches.refl _ _
    · refine Touches.comp (lostLine_touches ..) (by decide) ?_
      refine Touches.comp (ackAll_touches ..) (by decide) ?_
      refine Touches.comp (Dev.setWb_touches ..) (by decide) ?_
      exact Touches.refl _ _
  · refine Touches.comp (lostLine_touches ..) (by decide) ?_
    refine Touches.comp (ackAll_touches ..) (by decide) ?_
    refine Touches.comp (Dev.setWb_touches ..) (by decide) ?_
    refine Touches.comp (Dev.setStaged_touches ..) (by decide) ?_
    exact Touches.refl _ _

theorem gondolaMacro_touches (F) (d) (b) (m) (lost) : Touches [.regs, .a, .b, .log, .aon, .pmc, .gon, .media, .tracts, .drift, .sec, .str, .pwr, .out] d (gondolaMacro F d b m lost) := by
  unfold gondolaMacro
  conv => zeta
  refine Touches.ite ?_ ?_
  · exact Touches.refl _ _
  · refine Touches.ite ?_ ?_
    · refine Touches.comp (Dev.icu_touches ..) (by decide) ?_
      refine Touches.comp (Dev.event_touches ..) (by decide) ?_
      refine Touches.comp (Touches.put_drift ..) (by decide) ?_
      refine Touches.comp (Touches.put_gon ..) (by decide) ?_
      exact Touches.refl _ _
    · refine Touches.comp (drainBank_touches ..) (by decide) ?_
      refine Touches.comp (Dev.faultPulse_touches ..) (by decide) ?_
      refine Touches.foldl (fun _ _ => (loseLine_touches ..).mono (by decide)) ?_
      refine Touches.comp (Dev.postAll_touches ..) (by decide) ?_
      refine Touches.comp (Dev.icu_touches ..) (by decide) ?_
      refine Touches.comp (Dev.event_touches ..) (by decide) ?_
      refine Touches.comp (Touches.put_drift ..) (by decide) ?_
      refine Touches.comp (Touches.put_gon ..) (by decide) ?_
      exact Touches.refl _ _

theorem writePersist_touches (F) (d) (h) (tag) (dpa) (data) (be) (poison) : Touches [.regs, .a, .b, .keel, .log, .aon, .pmc, .gon, .cache, .drift, .str, .out] d (writePersist F d h tag dpa data be poison) := by
  unfold writePersist
  conv => zeta
  refine Touches.ite ?_ ?_
  · refine Touches.comp (discardHost_touches ..) (by decide) ?_
    exact Touches.refl _ _
  · split
    · refine Touches.ite ?_ ?_
      · refine Touches.comp (acceptWrite_touches ..) (by decide) ?_
        refine Touches.comp (Dev.trackIn_touches ..) (by decide) ?_
        refine Touches.comp (sealedNote_touches ..) (by decide) ?_
        exact Touches.refl _ _
      · refine Touches.ite ?_ ?_
        · refine Touches.comp (acceptWrite_touches ..) (by decide) ?_
          refine Touches.comp (Dev.trackIn_touches ..) (by decide) ?_
          refine Touches.comp (recordPoison_touches ..) (by decide) ?_
          exact Touches.refl _ _
        · refine Touches.comp (acceptWrite_touches ..) (by decide) ?_
          refine Touches.comp (Dev.trackIn_touches ..) (by decide) ?_
          exact Touches.refl _ _

theorem scratchWrite_touches (F) (d) (h) (tag) (line) (i) (data) (be) (poison) : Touches [.regs, .a, .b, .log, .aon, .cache, .out] d (scratchWrite F d h tag line i data be poison) := by
  unfold scratchWrite
  conv => zeta
  refine Touches.ite ?_ ?_
  · refine Touches.comp (Dev.emit_touches ..) (by decide) ?_
    refine Touches.comp (Dev.setCache_touches ..) (by decide) ?_
    refine Touches.comp (recordPoison_touches ..) (by decide) ?_
    exact Touches.refl _ _
  · refine Touches.ite ?_ ?_
    · refine Touches.comp (Dev.emit_touches ..) (by decide) ?_
      refine Touches.comp (Dev.setCache_touches ..) (by decide) ?_
      exact Touches.refl _ _
    · refine Touches.ite ?_ ?_
      · refine Touches.comp (Dev.emit_touches ..) (by decide) ?_
        refine Touches.comp (partialLoss_touches ..) (by decide) ?_
        exact Touches.refl _ _
      · refine Touches.comp (Dev.emit_touches ..) (by decide) ?_
        refine Touches.comp (Dev.setCache_touches ..) (by decide) ?_
        exact Touches.refl _ _

theorem hostWrite_touches (F) (d) (h) (tag) (dpa) (data) (be) (poison) : Touches [.regs, .a, .b, .keel, .log, .aon, .pmc, .gon, .cache, .drift, .str, .out] d (hostWrite F d h tag dpa data be poison) := by
  unfold hostWrite
  conv => zeta
  refine Touches.ite ?_ ?_
  · exact Touches.refl _ _
  · refine Touches.ite ?_ ?_
    · refine Touches.comp (unmapped_touches ..) (by decide) ?_
      refine Touches.comp (Dev.useRwd_touches ..) (by decide) ?_
      exact Touches.refl _ _
    · split
      · refine Touches.comp (writePersist_touches ..) (by decide) ?_
        refine Touches.comp (Dev.countH_touches ..) (by decide) ?_
        refine Touches.comp (Dev.useRwd_touches ..) (by decide) ?_
        exact Touches.refl _ _
      · refine Touches.comp (scratchWrite_touches ..) (by decide) ?_
        refine Touches.comp (Dev.count_touches ..) (by decide) ?_
        refine Touches.comp (Dev.countH_touches ..) (by decide) ?_
        refine Touches.comp (Dev.useRwd_touches ..) (by decide) ?_
        exact Touches.refl _ _
      · refine Touches.comp (discardHost_touches ..) (by decide) ?_
        refine Touches.comp (Dev.countH_touches ..) (by decide) ?_
        refine Touches.comp (Dev.useRwd_touches ..) (by decide) ?_
        exact Touches.refl _ _
      · refine Touches.comp (discardHost_touches ..) (by decide) ?_
        refine Touches.ite ?_ ?_
        · refine Touches.comp (Dev.bump_touches ..) (by decide) ?_
          refine Touches.comp (Dev.countH_touches ..) (by decide) ?_
          refine Touches.comp (Dev.useRwd_touches ..) (by decide) ?_
          exact Touches.refl _ _
        · refine Touches.comp (Dev.countH_touches ..) (by decide) ?_
          refine Touches.comp (Dev.useRwd_touches ..) (by decide) ?_
          exact Touches.refl _ _

theorem metaLost_touches (F) (d) (id) : Touches [.regs, .a, .b, .log, .aon, .tracts] d (metaLost F d id) := by
  unfold metaLost
  conv => zeta
  refine Touches.ite ?_ ?_
  · refine Touches.foldl (fun _ _ => ?_) ?_
    · refine Touches.comp (recordPoison_touches ..) (by decide) ?_
      refine Touches.comp (Dev.voidTract_touches ..) (by decide) ?_
      exact Touches.refl _ _
    · refine Touches.foldl (fun _ _ => ?_) ?_
      · refine Touches.comp (Dev.event_touches ..) (by decide) ?_
        exact Touches.refl _ _
      · exact Touches.refl _ _
  · refine Touches.ite ?_ ?_
    · refine Touches.comp (Dev.tcTouch_touches ..) (by decide) ?_
      refine Touches.comp (Dev.setMeta_touches ..) (by decide) ?_
      refine Touches.foldl (fun _ _ => ?_) ?_
      · refine Touches.comp (Dev.event_touches ..) (by decide) ?_
        exact Touches.refl _ _
      · exact Touches.refl _ _
    · refine Touches.foldl (fun _ _ => ?_) ?_
      · refine Touches.comp (Dev.event_touches ..) (by decide) ?_
        exact Touches.refl _ _
      · exact Touches.refl _ _

theorem sramBad_touches (F) (d) (st) (a) : Touches [.regs, .a, .b, .keel, .log, .aon, .pmc, .gon, .cache, .media, .tracts, .drift, .sec, .str, .lci, .pwr, .out, .fresh] d (sramBad F d st a) := by
  unfold sramBad
  conv => zeta
  split
  · refine Touches.ite ?_ ?_
    · refine Touches.comp (loseLine_touches ..) (by decide) ?_
      refine Touches.comp (Dev.faultPulse_touches ..) (by decide) ?_
      refine Touches.comp (Dev.forceFlush_touches ..) (by decide) ?_
      refine Touches.comp (Dev.icu_touches ..) (by decide) ?_
      refine Touches.comp (Dev.event_touches ..) (by decide) ?_
      refine Touches.comp (Touches.put_drift ..) (by decide) ?_
      exact Touches.refl _ _
    · refine Touches.comp (Dev.forceFlush_touches ..) (by decide) ?_
      refine Touches.comp (Dev.icu_touches ..) (by decide) ?_
      refine Touches.comp (Dev.event_touches ..) (by decide) ?_
      refine Touches.comp (Touches.put_drift ..) (by decide) ?_
      exact Touches.refl _ _
  · refine Touches.ite ?_ ?_
    · refine Touches.comp (Dev.setCache_touches ..) (by decide) ?_
      refine Touches.comp (Dev.forceFlush_touches ..) (by decide) ?_
      refine Touches.comp (Dev.icu_touches ..) (by decide) ?_
      refine Touches.comp (Dev.event_touches ..) (by decide) ?_
      refine Touches.comp (Touches.put_drift ..) (by decide) ?_
      exact Touches.refl _ _
    · refine Touches.comp (Dev.writeClears_touches ..) (by decide) ?_
      refine Touches.comp (Dev.forceFlush_touches ..) (by decide) ?_
      refine Touches.comp (Dev.icu_touches ..) (by decide) ?_
      refine Touches.comp (Dev.event_touches ..) (by decide) ?_
      refine Touches.comp (Touches.put_drift ..) (by decide) ?_
      exact Touches.refl _ _
  · refine Touches.ite ?_ ?_
    · refine Touches.comp (Dev.setCache_touches ..) (by decide) ?_
      refine Touches.comp (Dev.forceFlush_touches ..) (by decide) ?_
      refine Touches.comp (Dev.icu_touches ..) (by decide) ?_
      refine Touches.comp (Dev.event_touches ..) (by decide) ?_
      refine Touches.comp (Touches.put_drift ..) (by decide) ?_
      exact Touches.refl _ _
    · refine Touches.comp (Dev.writeClears_touches ..) (by decide) ?_
      refine Touches.comp (Dev.forceFlush_touches ..) (by decide) ?_
      refine Touches.comp (Dev.icu_touches ..) (by decide) ?_
      refine Touches.comp (Dev.event_touches ..) (by decide) ?_
      refine Touches.comp (Touches.put_drift ..) (by decide) ?_
      exact Touches.refl _ _
  · refine Touches.ite ?_ ?_
    · refine Touches.comp (Dev.setCache_touches ..) (by decide) ?_
      refine Touches.comp (Dev.forceFlush_touches ..) (by decide) ?_
      refine Touches.comp (Dev.icu_touches ..) (by decide) ?_
      refine Touches.comp (Dev.event_touches ..) (by decide) ?_
      refine Touches.comp (Touches.put_drift ..) (by decide) ?_
      exact Touches.refl _ _
    · refine Touches.comp (Dev.writeClears_touches ..) (by decide) ?_
      refine Touches.comp (Dev.forceFlush_touches ..) (by decide) ?_
      refine Touches.comp (Dev.icu_touches ..) (by decide) ?_
      refine Touches.comp (Dev.event_touches ..) (by decide) ?_
      refine Touches.comp (Touches.put_drift ..) (by decide) ?_
      exact Touches.refl _ _
  · refine Touches.comp (Touches.put_lci ..) (by decide) ?_
    refine Touches.comp (Dev.icu_touches ..) (by decide) ?_
    refine Touches.comp (Dev.event_touches ..) (by decide) ?_
    refine Touches.comp (Dev.forceFlush_touches ..) (by decide) ?_
    refine Touches.comp (Dev.icu_touches ..) (by decide) ?_
    refine Touches.comp (Dev.event_touches ..) (by decide) ?_
    refine Touches.comp (Touches.put_drift ..) (by decide) ?_
    exact Touches.refl _ _
  · split
    · split
      · refine Touches.ite ?_ ?_
        · refine Touches.comp (Dev.exhaust_touches ..) (by decide) ?_
          refine Touches.comp (Touches.put_sec ..) (by decide) ?_
          refine Touches.comp (Dev.forceFlush_touches ..) (by decide) ?_
          refine Touches.comp (Dev.icu_touches ..) (by decide) ?_
          refine Touches.comp (Dev.event_touches ..) (by decide) ?_
          refine Touches.comp (Touches.put_drift ..) (by decide) ?_
          exact Touches.refl _ _
        · refine Touches.comp (Touches.put_sec ..) (by decide) ?_
          refine Touches.comp (Dev.forceFlush_touches ..) (by decide) ?_
          refine Touches.comp (Dev.icu_touches ..) (by decide) ?_
          refine Touches.comp (Dev.event_touches ..) (by decide) ?_
          refine Touches.comp (Touches.put_drift ..) (by decide) ?_
          exact Touches.refl _ _
      · refine Touches.comp (Dev.forceFlush_touches ..) (by decide) ?_
        refine Touches.comp (Dev.icu_touches ..) (by decide) ?_
        refine Touches.comp (Dev.event_touches ..) (by decide) ?_
        refine Touches.comp (Touches.put_drift ..) (by decide) ?_
        exact Touches.refl _ _
    · refine Touches.comp (Dev.forceFlush_touches ..) (by decide) ?_
      refine Touches.comp (Dev.icu_touches ..) (by decide) ?_
      refine Touches.comp (Dev.event_touches ..) (by decide) ?_
      refine Touches.comp (Touches.put_drift ..) (by decide) ?_
      exact Touches.refl _ _
  · split
    · refine Touches.ite ?_ ?_
      · refine Touches.comp (metaLost_touches ..) (by decide) ?_
        refine Touches.comp (Dev.forceFlush_touches ..) (by decide) ?_
        refine Touches.comp (Dev.icu_touches ..) (by decide) ?_
        refine Touches.comp (Dev.event_touches ..) (by decide) ?_
        refine Touches.comp (Touches.put_drift ..) (by decide) ?_
        exact Touches.refl _ _
      · refine Touches.comp (Touches.put_tracts ..) (by decide) ?_
        refine Touches.comp (Dev.forceFlush_touches ..) (by decide) ?_
        refine Touches.comp (Dev.icu_touches ..) (by decide) ?_
        refine Touches.comp (Dev.event_touches ..) (by decide) ?_
        refine Touches.comp (Touches.put_drift ..) (by decide) ?_
        exact Touches.refl _ _
    · refine Touches.comp (Dev.forceFlush_touches ..) (by decide) ?_
      refine Touches.comp (Dev.icu_touches ..) (by decide) ?_
      refine Touches.comp (Dev.event_touches ..) (by decide) ?_
      refine Touches.comp (Touches.put_drift ..) (by decide) ?_
      exact Touches.refl _ _
  · refine Touches.comp (Touches.put_drift ..) (by decide) ?_
    refine Touches.comp (Dev.forceFlush_touches ..) (by decide) ?_
    refine Touches.comp (Dev.icu_touches ..) (by decide) ?_
    refine Touches.comp (Dev.event_touches ..) (by decide) ?_
    refine Touches.comp (Touches.put_drift ..) (by decide) ?_
    exact Touches.refl _ _
  · split
    · refine Touches.comp (endFetch_touches ..) (by decide) ?_
      refine Touches.comp (Dev.forceFlush_touches ..) (by decide) ?_
      refine Touches.comp (Dev.icu_touches ..) (by decide) ?_
      refine Touches.comp (Dev.event_touches ..) (by decide) ?_
      refine Touches.comp (Touches.put_drift ..) (by decide) ?_
      exact Touches.refl _ _
    · refine Touches.comp (Dev.forceFlush_touches ..) (by decide) ?_
      refine Touches.comp (Dev.icu_touches ..) (by decide) ?_
      refine Touches.comp (Dev.event_touches ..) (by decide) ?_
      refine Touches.comp (Touches.put_drift ..) (by decide) ?_
      exact Touches.refl _ _
  · refine Touches.comp (Dev.forceFlush_touches ..) (by decide) ?_
    refine Touches.comp (Dev.icu_touches ..) (by decide) ?_
    refine Touches.comp (Dev.event_touches ..) (by decide) ?_
    refine Touches.comp (Touches.put_drift ..) (by decide) ?_
    exact Touches.refl _ _
  · refine Touches.comp (Dev.forceFlush_touches ..) (by decide) ?_
    refine Touches.comp (Dev.icu_touches ..) (by decide) ?_
    refine Touches.comp (Dev.event_touches ..) (by decide) ?_
    refine Touches.comp (Touches.put_drift ..) (by decide) ?_
    exact Touches.refl _ _
  · refine Touches.comp (Dev.forceFlush_touches ..) (by decide) ?_
    refine Touches.comp (Dev.icu_touches ..) (by decide) ?_
    refine Touches.comp (Dev.event_touches ..) (by decide) ?_
    refine Touches.comp (Touches.put_drift ..) (by decide) ?_
    exact Touches.refl _ _

theorem Dev.promote_touches (d) (t) : Touches [.tracts] d (Dev.promote d t) := by
  unfold Dev.promote
  refine Touches.ite ?_ ?_
  · refine Touches.comp (Dev.migQueue_touches ..) (by decide) ?_
    exact Touches.refl _ _
  · exact Touches.refl _ _

theorem Dev.sealReenc_touches {x0} {x1} {x2} {x3} {x4} {r e} (h : Dev.sealReenc x0 x1 x2 x3 x4 = some (r, e)) :
    Touches [.regs, .pmc, .sec] x0 e := by
  unfold Dev.sealReenc at h
  split at h
  · rename_i hq
    obtain rfl := (Prod.mk.inj (Option.some.inj h)).2
    exact Touches.comp (Dev.count_touches ..) (by decide) (Touches.comp (Dev.reencClear_touches ..) (by decide) (Dev.ctrGet_touches hq))
  · cases h

theorem Dev.toImage_touches (d) (pre) (line) : Touches [.tracts] d (Dev.toImage d pre line) := by
  unfold Dev.toImage
  conv => zeta
  split
  · exact Touches.refl _ _
  · refine Touches.ite ?_ ?_
    · exact Touches.refl _ _
    · refine Touches.ite ?_ ?_
      · refine Touches.comp (Dev.setMeta_touches ..) (by decide) ?_
        refine Touches.comp (Dev.setHdr_touches ..) (by decide) ?_
        refine Touches.comp (Dev.setEnt_touches ..) (by decide) ?_
        refine Touches.comp (Dev.setEnt_touches ..) (by decide) ?_
        refine Touches.comp (Dev.setPhys_touches ..) (by decide) ?_
        exact Touches.refl _ _
      · refine Touches.comp (Dev.setWritten_touches ..) (by decide) ?_
        refine Touches.comp (Dev.setHdr_touches ..) (by decide) ?_
        exact Touches.refl _ _

theorem Dev.wroteBack_touches (d) (line) : Touches [.tracts] d (Dev.wroteBack d line) := by
  unfold Dev.wroteBack
  refine Touches.comp (Touches.put_tracts ..) (by decide) ?_
  refine Touches.comp (Dev.setHdr_touches ..) (by decide) ?_
  exact Touches.refl _ _

theorem freeWb_touches (F) (d) (line) (e) : Touches [.regs, .a, .b, .log, .aon, .pmc, .gon, .sec, .str, .out] d (freeWb F d line e) := by
  unfold freeWb
  refine Touches.comp (promoteHeld_touches ..) (by decide) ?_
  refine Touches.comp (ackAll_touches ..) (by decide) ?_
  refine Touches.comp (Dev.setWb_touches ..) (by decide) ?_
  exact Touches.refl _ _

theorem finishWb_touches (F) (d) (line) (e) (m) : Touches [.regs, .a, .b, .log, .aon, .pmc, .gon, .cache, .media, .tracts, .sec, .str, .out] d (finishWb F d line e m) := by
  unfold finishWb
  refine Touches.comp (freeWb_touches ..) (by decide) ?_
  refine Touches.ite ?_ ?_
  · refine Touches.comp (Dev.install_touches ..) (by decide) ?_
    refine Touches.comp (Dev.promote_touches ..) (by decide) ?_
    refine Touches.comp (Dev.count_touches ..) (by decide) ?_
    refine Touches.comp (Dev.unlose_touches ..) (by decide) ?_
    refine Touches.comp (Dev.wroteBack_touches ..) (by decide) ?_
    refine Touches.comp (Dev.wearRow_touches ..) (by decide) ?_
    refine Touches.comp (Dev.putLine_touches ..) (by decide) ?_
    refine Touches.comp (Dev.rowNote_touches ..) (by decide) ?_
    refine Touches.ite ?_ ?_
    · refine Touches.comp (Dev.count_touches ..) (by decide) ?_
      exact Touches.refl _ _
    · exact Touches.refl _ _
  · refine Touches.comp (Dev.promote_touches ..) (by decide) ?_
    refine Touches.comp (Dev.count_touches ..) (by decide) ?_
    refine Touches.comp (Dev.unlose_touches ..) (by decide) ?_
    refine Touches.comp (Dev.wroteBack_touches ..) (by decide) ?_
    refine Touches.comp (Dev.wearRow_touches ..) (by decide) ?_
    refine Touches.comp (Dev.putLine_touches ..) (by decide) ?_
    refine Touches.comp (Dev.rowNote_touches ..) (by decide) ?_
    refine Touches.ite ?_ ?_
    · refine Touches.comp (Dev.count_touches ..) (by decide) ?_
      exact Touches.refl _ _
    · exact Touches.refl _ _

theorem writeBackDone_touches (x0) (x1) (x2) :
    Touches [.regs, .a, .b, .log, .aon, .pmc, .gon, .cache, .media, .tracts, .drift, .sec, .str, .out, .fresh] x1 (writeBackDone x0 x1 x2) := by
  unfold writeBackDone
  split
  · exact Touches.refl ..
  · rename_i e0 _
    extract_lets t
    refine Touches.ite ((freeWb_touches ..).mono (by decide)) (Touches.ite (Touches.refl ..) ?_)
    split
    · rename_i hq
      exact Touches.comp (dropEntry_touches ..) (by decide) ((mergeNow_touches hq).mono (by decide))
    · rename_i e d0 hq
      have h0 : Touches [.regs, .a, .b, .log, .aon, .pmc, .gon, .cache, .media, .tracts, .drift, .sec, .str, .out, .fresh] x1 d0 :=
        (mergeNow_touches hq).mono (by decide)
      extract_lets en src d1 homed
      refine Touches.ite (Touches.comp (Dev.migQueue_touches ..) (by decide) h0) (Touches.ite (Touches.comp (Dev.migQueue_touches ..) (by decide) h0) (Touches.ite ?_ ?_))
      · exact Touches.comp (freeWb_touches ..) (by decide) (Touches.comp (Dev.count_touches ..) (by decide) (Touches.comp (Dev.setWritten_touches ..) (by decide)
          (Touches.ite h0 (Touches.comp (Dev.setHdr_touches ..) (by decide) (Touches.comp (Dev.setEnt_touches ..) (by decide) h0)))))
      · have hh : ∀ y, homed = some y → Touches [.regs, .a, .b, .log, .aon, .pmc, .gon, .cache, .media, .tracts, .drift, .sec, .str, .out, .fresh] x1 y := by
          intro y hy
          simp only [homed] at hy
          split at hy
          · cases hy; exact h0
          · exact Touches.comp (Dev.firstHome_touches hy) (by decide) h0
        generalize homed = hm at hh
        split
        · exact h0
        · rename_i d1
          have h1 := hh _ rfl
          refine Touches.ite (Touches.comp (Dev.toImage_touches ..) (by decide) (Touches.comp (finishWb_touches ..) (by decide) h1)) ?_
          split
          · exact h0
          · rename_i m d2 hq2
            have h2 : Touches [.regs, .a, .b, .log, .aon, .pmc, .gon, .cache, .media, .tracts, .drift, .sec, .str, .out, .fresh] x1 d2 := by
              split at hq2
              · exact Touches.comp (Dev.sealReenc_touches hq2) (by decide) h1
              · exact Touches.comp (Dev.sealLine_touches hq2) (by decide) h1
            exact Touches.comp (Dev.toImage_touches ..) (by decide) (Touches.comp (finishWb_touches ..) (by decide) h2)

theorem writebackSelect_touches (F) (d) : Touches [.regs, .a, .b, .log, .aon, .pmc, .gon, .sec, .str, .out] d (writebackSelect F d) := by
  unfold writebackSelect
  conv => zeta
  refine Touches.ite ?_ ?_
  · exact Touches.refl _ _
  · split
    · exact Touches.refl _ _
    · refine Touches.foldl (fun _ _ => (selectOne_touches ..).mono (by decide)) ?_
      exact Touches.refl _ _

end Sys2Proof.Machine
end

