-- ==== Sys2Proof/Laws/FrameMedia.lean ====
section
/-!
SUPPORT. What each shared operation can change: Tether, channels, rows, drift, tracts.
-/
namespace Sys2Proof.Machine

theorem Dev.rootPut_touches (d) : Touches [.keel] d (Dev.rootPut d) := by
  unfold Dev.rootPut
  refine Touches.foldl (fun _ _ => ?_) ?_
  · refine Touches.comp (Dev.keelPut_touches ..) (by decide) ?_
    exact Touches.refl _ _
  · refine Touches.comp (Dev.keelPut_touches ..) (by decide) ?_
    refine Touches.comp (Touches.put_keel ..) (by decide) ?_
    exact Touches.refl _ _

theorem Dev.alertLong_touches (d) (n) : Touches [.media, .out, .fresh] d (Dev.alertLong d n) := by
  unfold Dev.alertLong
  refine Touches.foldl (fun _ _ => ?_) ?_
  · refine Touches.comp (Dev.sendFrame_touches ..) (by decide) ?_
    exact Touches.refl _ _
  · exact Touches.refl _ _

theorem Dev.readMet_touches (d) (f) : Touches [.cache] d (Dev.readMet d f) := by
  unfold Dev.readMet
  conv => zeta
  refine Touches.ite ?_ ?_
  · exact Touches.refl _ _
  · refine Touches.comp (Dev.setCache_touches ..) (by decide) ?_
    exact Touches.refl _ _

theorem Dev.readRefused_touches (d) (f) : Touches [.cache, .media] d (Dev.readRefused d f) := by
  unfold Dev.readRefused
  conv => zeta
  refine Touches.ite ?_ ?_
  · exact Touches.refl _ _
  · refine Touches.ite ?_ ?_
    · refine Touches.comp (Dev.setCache_touches ..) (by decide) ?_
      exact Touches.refl _ _
    · refine Touches.ite ?_ ?_
      · refine Touches.comp (Dev.setChan_touches ..) (by decide) ?_
        exact Touches.refl _ _
      · exact Touches.refl _ _

theorem Dev.reissue_touches (d) (s) (err) : Touches [.cache, .media, .out, .fresh] d (Dev.reissue d s err) := by
  unfold Dev.reissue
  conv => zeta
  refine Touches.ite ?_ ?_
  · refine Touches.comp (Dev.readMet_touches ..) (by decide) ?_
    refine Touches.comp (Dev.frameSent_touches ..) (by decide) ?_
    exact Touches.refl _ _
  · refine Touches.comp (Dev.readRefused_touches ..) (by decide) ?_
    refine Touches.comp (Dev.readMet_touches ..) (by decide) ?_
    refine Touches.comp (Dev.frameSent_touches ..) (by decide) ?_
    exact Touches.refl _ _

theorem Dev.alertLow_touches (d) (n) (errs) : Touches [.regs, .pmc, .cache, .media, .out, .fresh] d (Dev.alertLow d n errs) := by
  unfold Dev.alertLow
  refine Touches.foldl (fun _ _ => ?_) ?_
  · refine Touches.comp (Dev.reissue_touches ..) (by decide) ?_
    exact Touches.refl _ _
  · refine Touches.comp (Dev.count_touches ..) (by decide) ?_
    refine Touches.comp (Dev.bump_touches ..) (by decide) ?_
    refine Touches.comp (Dev.setChan_touches ..) (by decide) ?_
    exact Touches.refl _ _

theorem Dev.latencyFound_touches {x0} {x1} {r e} (h : Dev.latencyFound x0 x1 = (r, e)) : Touches [.media, .fresh] x0 e := by
  cases h
  exact Touches.foldl (fun _ _ => (Dev.setDie_touches ..).mono (by decide)) ((Dev.free_touches rfl).mono (by decide))

theorem Dev.noteTrain_touches (d) (n) : Touches [.media] d (Dev.noteTrain d n) := by
  unfold Dev.noteTrain
  refine Touches.foldl (fun _ _ => ?_) ?_
  · refine Touches.comp (Dev.setCtl_touches ..) (by decide) ?_
    exact Touches.refl _ _
  · exact Touches.refl _ _

theorem Dev.retrainAsk_touches (d) (n) : Touches [.media] d (Dev.retrainAsk d n) := by
  unfold Dev.retrainAsk
  conv => zeta
  refine Touches.ite ?_ ?_
  · refine Touches.comp (Dev.setChan_touches ..) (by decide) ?_
    exact Touches.refl _ _
  · exact Touches.refl _ _

theorem Dev.retrained_touches (d) (n) (rd) (wr) (code) : Touches [.regs, .tether, .pmc, .media, .fresh] d (Dev.retrained d n rd wr code) := by
  unfold Dev.retrained
  conv => zeta
  refine Touches.ite ?_ ?_
  · split
    · rename_i hq4
      refine Touches.comp (Dev.setReg_touches ..) (by decide) ?_
      refine Touches.comp (Dev.setChan_touches ..) (by decide) ?_
      refine Touches.comp (Dev.latencyFound_touches hq4) (by decide) ?_
      refine Touches.comp (Dev.noteTrain_touches ..) (by decide) ?_
      refine Touches.comp (Dev.advance_touches ..) (by decide) ?_
      exact Touches.refl _ _
  · exact Touches.refl _ _

theorem Dev.dutySet_touches (d) (q) : Touches [.tether] d (Dev.dutySet d q) := by
  unfold Dev.dutySet
  refine Touches.ite ?_ ?_
  · refine Touches.comp (Touches.put_tether ..) (by decide) ?_
    exact Touches.refl _ _
  · exact Touches.refl _ _

theorem setHm_touches (F) (d) (q) (h) : Touches [.regs, .tether, .log, .aon, .therm] d (setHm F d q h) := by
  unfold setHm
  conv => zeta
  refine Touches.ite ?_ ?_
  · refine Touches.comp (Dev.dutySet_touches ..) (by decide) ?_
    refine Touches.comp (Touches.put_therm ..) (by decide) ?_
    exact Touches.refl _ _
  · refine Touches.ite ?_ ?_
    · refine Touches.comp (Dev.event_touches ..) (by decide) ?_
      refine Touches.comp (Dev.icu_touches ..) (by decide) ?_
      refine Touches.comp (Dev.dutySet_touches ..) (by decide) ?_
      refine Touches.comp (Touches.put_therm ..) (by decide) ?_
      exact Touches.refl _ _
    · refine Touches.ite ?_ ?_
      · refine Touches.comp (Dev.event_touches ..) (by decide) ?_
        refine Touches.comp (Dev.icu_touches ..) (by decide) ?_
        refine Touches.comp (Dev.dutySet_touches ..) (by decide) ?_
        refine Touches.comp (Touches.put_therm ..) (by decide) ?_
        exact Touches.refl _ _
      · refine Touches.comp (Dev.icu_touches ..) (by decide) ?_
        refine Touches.comp (Dev.dutySet_touches ..) (by decide) ?_
        refine Touches.comp (Touches.put_therm ..) (by decide) ?_
        exact Touches.refl _ _

theorem quadEval_touches (F) (d) (q) : Touches [.regs, .tether, .log, .aon, .therm] d (quadEval F d q) := by
  unfold quadEval
  conv => zeta
  refine Touches.ite ?_ ?_
  · exact Touches.refl _ _
  · refine Touches.ite ?_ ?_
    · refine Touches.comp (setHm_touches ..) (by decide) ?_
      refine Touches.comp (Touches.put_therm ..) (by decide) ?_
      exact Touches.refl _ _
    · split
      · refine Touches.comp (Dev.dutySet_touches ..) (by decide) ?_
        exact Touches.refl _ _
      · refine Touches.comp (setHm_touches ..) (by decide) ?_
        refine Touches.comp (Touches.put_therm ..) (by decide) ?_
        exact Touches.refl _ _

theorem alertStatus_touches (F) (d) (m) (st) : Touches [.regs, .tether, .log, .aon, .media, .therm, .out, .fresh] d (alertStatus F d m st) := by
  unfold alertStatus
  conv => zeta
  refine Touches.ite ?_ ?_
  · refine Touches.comp (Dev.setCtl_touches ..) (by decide) ?_
    refine Touches.ite ?_ ?_
    · refine Touches.comp (Dev.alertSet_touches ..) (by decide) ?_
      refine Touches.comp (quadEval_touches ..) (by decide) ?_
      refine Touches.comp (Touches.put_therm ..) (by decide) ?_
      refine Touches.ite ?_ ?_
      · refine Touches.comp (Dev.bump_touches ..) (by decide) ?_
        refine Touches.comp (Dev.setCtl_touches ..) (by decide) ?_
        exact Touches.refl _ _
      · refine Touches.comp (Dev.setCtl_touches ..) (by decide) ?_
        exact Touches.refl _ _
    · refine Touches.ite ?_ ?_
      · refine Touches.comp (Dev.bump_touches ..) (by decide) ?_
        refine Touches.comp (Dev.setCtl_touches ..) (by decide) ?_
        exact Touches.refl _ _
      · refine Touches.comp (Dev.setCtl_touches ..) (by decide) ?_
        exact Touches.refl _ _
  · refine Touches.ite ?_ ?_
    · refine Touches.comp (Dev.alertSet_touches ..) (by decide) ?_
      refine Touches.comp (quadEval_touches ..) (by decide) ?_
      refine Touches.comp (Touches.put_therm ..) (by decide) ?_
      refine Touches.ite ?_ ?_
      · refine Touches.comp (Dev.bump_touches ..) (by decide) ?_
        refine Touches.comp (Dev.setCtl_touches ..) (by decide) ?_
        exact Touches.refl _ _
      · refine Touches.comp (Dev.setCtl_touches ..) (by decide) ?_
        exact Touches.refl _ _
    · refine Touches.ite ?_ ?_
      · refine Touches.comp (Dev.bump_touches ..) (by decide) ?_
        refine Touches.comp (Dev.setCtl_touches ..) (by decide) ?_
        exact Touches.refl _ _
      · refine Touches.comp (Dev.setCtl_touches ..) (by decide) ?_
        exact Touches.refl _ _

theorem failDie_touches (F) (d) (m) (cause) : Touches [.regs, .a, .b, .tether, .keel, .log, .aon, .cache, .media, .tracts, .out] d (failDie F d m cause) := by
  unfold failDie
  conv => zeta
  refine Touches.ite ?_ ?_
  · refine Touches.comp (Dev.declareChan_touches ..) (by decide) ?_
    refine Touches.comp (Dev.declareDie_touches ..) (by decide) ?_
    exact Touches.refl _ _
  · refine Touches.comp (Dev.declareDie_touches ..) (by decide) ?_
    exact Touches.refl _ _

theorem channelTrained_touches (F) (d) (n) (rd) (wr) (passed) : Touches [.regs, .a, .b, .tether, .keel, .log, .aon, .cache, .media, .tracts, .out, .fresh] d (channelTrained F d n rd wr passed) := by
  unfold channelTrained
  conv => zeta
  refine Touches.ite ?_ ?_
  · exact Touches.refl _ _
  · refine Touches.ite ?_ ?_
    · refine Touches.ite ?_ ?_
      · refine Touches.comp (Dev.declareChan_touches ..) (by decide) ?_
        exact Touches.refl _ _
      · refine Touches.comp (Dev.setChan_touches ..) (by decide) ?_
        exact Touches.refl _ _
    · split
      · rename_i hq6
        split
        · rename_i hq8
          split
          · rename_i hq10
            refine Touches.comp (Dev.setChan_touches ..) (by decide) ?_
            refine Touches.comp (Dev.noteTrain_touches ..) (by decide) ?_
            refine Touches.foldl (fun _ _ => ?_) ?_
            · refine Touches.comp (Dev.setCtl_touches ..) (by decide) ?_
              refine Touches.comp (Dev.setDie_touches ..) (by decide) ?_
              exact Touches.refl _ _
            · refine Touches.comp (Dev.free_touches hq10) (by decide) ?_
              refine Touches.comp (Dev.free_touches hq8) (by decide) ?_
              refine Touches.comp (Dev.latencyFound_touches hq6) (by decide) ?_
              refine Touches.foldl (fun _ _ => ?_) ?_
              · refine Touches.comp (failDie_touches ..) (by decide) ?_
                exact Touches.refl _ _
              · exact Touches.refl _ _

theorem discoverDie_touches (F) (d) (m) (ans) : Touches [.regs, .a, .b, .tether, .keel, .log, .aon, .cache, .media, .tracts, .out] d (discoverDie F d m ans) := by
  unfold discoverDie
  conv => zeta
  refine Touches.ite ?_ ?_
  · refine Touches.comp (Dev.powerDown_touches ..) (by decide) ?_
    refine Touches.comp (Dev.setCtl_touches ..) (by decide) ?_
    refine Touches.comp (Dev.setDie_touches ..) (by decide) ?_
    refine Touches.comp (Dev.setCtl_touches ..) (by decide) ?_
    exact Touches.refl _ _
  · refine Touches.ite ?_ ?_
    · refine Touches.comp (Dev.setDie_touches ..) (by decide) ?_
      refine Touches.comp (Dev.setCtl_touches ..) (by decide) ?_
      exact Touches.refl _ _
    · refine Touches.comp (failDie_touches ..) (by decide) ?_
      refine Touches.comp (Dev.setDie_touches ..) (by decide) ?_
      refine Touches.comp (Dev.setCtl_touches ..) (by decide) ?_
      exact Touches.refl _ _

theorem discover_touches (F) (d) (n) (ids) (stuck) : Touches [.regs, .a, .b, .tether, .keel, .log, .aon, .cache, .media, .tracts, .out] d (discover F d n ids stuck) := by
  unfold discover
  conv => zeta
  refine Touches.ite ?_ ?_
  · refine Touches.foldl (fun _ _ => ?_) ?_
    · refine Touches.comp (Dev.setDie_touches ..) (by decide) ?_
      refine Touches.comp (Dev.event_touches ..) (by decide) ?_
      exact Touches.refl _ _
    · refine Touches.comp (Dev.setChan_touches ..) (by decide) ?_
      refine Touches.foldl (fun _ _ => ?_) ?_
      · refine Touches.comp (Dev.powerDown_touches ..) (by decide) ?_
        refine Touches.comp (Dev.setCtl_touches ..) (by decide) ?_
        exact Touches.refl _ _
      · exact Touches.refl _ _
  · refine Touches.ite ?_ ?_
    · refine Touches.foldl (fun _ _ => ?_) ?_
      · refine Touches.comp (Dev.setDie_touches ..) (by decide) ?_
        refine Touches.comp (Dev.event_touches ..) (by decide) ?_
        exact Touches.refl _ _
      · refine Touches.comp (Dev.declareChan_touches ..) (by decide) ?_
        exact Touches.refl _ _
    · refine Touches.foldl (fun _ _ => ?_) ?_
      · refine Touches.comp (Dev.setDie_touches ..) (by decide) ?_
        refine Touches.comp (Dev.event_touches ..) (by decide) ?_
        exact Touches.refl _ _
      · refine Touches.foldl (fun _ _ => ?_) ?_
        · refine Touches.comp (discoverDie_touches ..) (by decide) ?_
          exact Touches.refl _ _
        · exact Touches.refl _ _

theorem channelTraining_touches (F) (d) (n) (ids) (stuck) : Touches [.regs, .a, .b, .tether, .keel, .log, .aon, .cache, .media, .tracts, .out] d (channelTraining F d n ids stuck) := by
  unfold channelTraining
  conv => zeta
  refine Touches.ite ?_ ?_
  · exact Touches.refl _ _
  · refine Touches.comp (discover_touches ..) (by decide) ?_
    refine Touches.foldl (fun _ _ => ?_) ?_
    · refine Touches.comp (Dev.setDie_touches ..) (by decide) ?_
      exact Touches.refl _ _
    · refine Touches.comp (Dev.setChan_touches ..) (by decide) ?_
      exact Touches.refl _ _

theorem Dev.unshare_touches (d) (e) : Touches [.tracts] d (Dev.unshare d e) := by
  unfold Dev.unshare
  conv => zeta
  refine Touches.ite ?_ ?_
  · refine Touches.foldl (fun _ _ => ?_) ?_
    · refine Touches.comp (Dev.setEnt_touches ..) (by decide) ?_
      exact Touches.refl _ _
    · refine Touches.comp (Dev.setPhys_touches ..) (by decide) ?_
      exact Touches.refl _ _
  · refine Touches.comp (Dev.setPhys_touches ..) (by decide) ?_
    exact Touches.refl _ _

theorem Dev.rekeyPump_touches (d) : Touches [.regs, .pmc, .tracts, .sec, .lci] d (Dev.rekeyPump d) := by
  unfold Dev.rekeyPump
  conv => zeta
  split
  · exact Touches.refl _ _
  · refine Touches.ite ?_ ?_
    · exact Touches.refl _ _
    · split
      · refine Touches.comp (Dev.migQueue_touches ..) (by decide) ?_
        refine Touches.comp (Touches.put_sec ..) (by decide) ?_
        exact Touches.refl _ _
      · refine Touches.comp (Dev.finish_touches ..) (by decide) ?_
        refine Touches.comp (Touches.put_sec ..) (by decide) ?_
        refine Touches.comp (Dev.setFld_touches ..) (by decide) ?_
        exact Touches.refl _ _

theorem Dev.rekeyResume_touches (d) : Touches [.regs, .pmc, .tracts, .sec, .lci] d (Dev.rekeyResume d) := by
  unfold Dev.rekeyResume
  conv => zeta
  split
  · exact Touches.refl _ _
  · refine Touches.ite ?_ ?_
    · refine Touches.comp (Dev.rekeyPump_touches ..) (by decide) ?_
      exact Touches.refl _ _
    · exact Touches.refl _ _

theorem Dev.freeOrphans_touches (d) : Touches [.tracts, .drift] d (Dev.freeOrphans d) := by
  unfold Dev.freeOrphans
  refine Touches.foldl (fun _ _ => ?_) ?_
  · refine Touches.comp (Dev.freePhys_touches ..) (by decide) ?_
    exact Touches.refl _ _
  · exact Touches.refl _ _

theorem Dev.ledgerSave_touches (d) : Touches [.drift] d (Dev.ledgerSave d) := by
  unfold Dev.ledgerSave
  refine Touches.comp (Touches.put_drift ..) (by decide) ?_
  exact Touches.refl _ _

theorem Dev.repairAt_touches {x0} {x1} {x2} {x3} {e} (h : Dev.repairAt x0 x1 x2 x3 = some e) : Touches [.regs, .pmc, .media, .sec] x0 e := by
  unfold Dev.repairAt at h
  split at h
  · cases h
  · cases h; exact (Touches.put_media ..).mono (by decide)

theorem Dev.repairPage_touches {x0} {x1} {x2} {e} (h : Dev.repairPage x0 x1 x2 = some e) : Touches [.regs, .pmc, .media, .sec] x0 e := by
  unfold Dev.repairPage at h
  exact Dev.repairAt_touches h

theorem Dev.lineRepair_touches (d) (line) : Touches [.regs, .pmc, .media, .drift, .sec] d (Dev.lineRepair d line) := by
  unfold Dev.lineRepair
  conv => zeta
  refine Touches.ite ?_ ?_
  · exact Touches.refl _ _
  · split
    · split
      · split
        · rename_i hq8
          refine Touches.comp (Touches.put_drift ..) (by decide) ?_
          refine Touches.comp (Dev.repairPage_touches hq8) (by decide) ?_
          exact Touches.refl _ _
        · refine Touches.ite ?_ ?_
          · refine Touches.comp (Touches.put_drift ..) (by decide) ?_
            exact Touches.refl _ _
          · exact Touches.refl _ _
      · refine Touches.comp (Touches.put_drift ..) (by decide) ?_
        exact Touches.refl _ _
    · refine Touches.comp (Touches.put_drift ..) (by decide) ?_
      exact Touches.refl _ _

theorem Dev.passSettle_touches (d) : Touches [.drift] d (Dev.passSettle d) := by
  unfold Dev.passSettle
  conv => zeta
  refine Touches.ite ?_ ?_
  · exact Touches.refl _ _
  · refine Touches.comp (Touches.put_drift ..) (by decide) ?_
    exact Touches.refl _ _

theorem Dev.repairAsk_touches (d) (line) : Touches [.drift] d (Dev.repairAsk d line) := by
  unfold Dev.repairAsk
  refine Touches.comp (Touches.put_drift ..) (by decide) ?_
  exact Touches.refl _ _

theorem Dev.sampled_touches (d) (g) (i) (samples) : Touches [.tracts, .drift] d (Dev.sampled d g i samples) := by
  unfold Dev.sampled
  conv => zeta
  refine Touches.ite ?_ ?_
  · refine Touches.foldl (fun _ _ => ?_) ?_
    · refine Touches.comp (Dev.migQueue_touches ..) (by decide) ?_
      exact Touches.refl _ _
    · refine Touches.comp (Touches.put_drift ..) (by decide) ?_
      exact Touches.refl _ _
  · refine Touches.comp (Touches.put_drift ..) (by decide) ?_
    exact Touches.refl _ _

theorem Dev.resurveyTract_touches (d) (g) (i) (samples) : Touches [.tracts, .drift] d (Dev.resurveyTract d g i samples) := by
  unfold Dev.resurveyTract
  conv => zeta
  refine Touches.ite ?_ ?_
  · refine Touches.comp (Dev.passSettle_touches ..) (by decide) ?_
    refine Touches.comp (Dev.sampled_touches ..) (by decide) ?_
    refine Touches.comp (Touches.put_drift ..) (by decide) ?_
    exact Touches.refl _ _
  · exact Touches.refl _ _

theorem Dev.surveySettle_touches (d) : Touches [.drift] d (Dev.surveySettle d) := by
  unfold Dev.surveySettle
  refine Touches.ite ?_ ?_
  · refine Touches.comp (Touches.put_drift ..) (by decide) ?_
    exact Touches.refl _ _
  · exact Touches.refl _ _

theorem Dev.surveyBegin_touches (d) : Touches [.drift] d (Dev.surveyBegin d) := by
  unfold Dev.surveyBegin
  refine Touches.comp (Dev.surveySettle_touches ..) (by decide) ?_
  refine Touches.comp (Touches.put_drift ..) (by decide) ?_
  exact Touches.refl _ _

theorem Dev.surveyTract_touches (d) (g) (i) (samples) : Touches [.tracts, .drift] d (Dev.surveyTract d g i samples) := by
  unfold Dev.surveyTract
  conv => zeta
  refine Touches.ite ?_ ?_
  · refine Touches.comp (Dev.surveySettle_touches ..) (by decide) ?_
    refine Touches.comp (Dev.sampled_touches ..) (by decide) ?_
    exact Touches.refl _ _
  · exact Touches.refl _ _

theorem Dev.thresholds_touches (x0) (x1) (x2) : Touches [.media] x0 (Dev.thresholds x0 x1 x2) := by
  unfold Dev.thresholds
  exact Touches.ite (Touches.refl ..) (Touches.comp (Dev.setCtl_touches ..) (by decide) ((Dev.setDie_touches ..).mono (by decide)))

theorem Dev.weakAdd_touches (d) (m) (bank) (byte) : Touches [.media] d (Dev.weakAdd d m bank byte) := by
  unfold Dev.weakAdd
  conv => zeta
  refine Touches.ite ?_ ?_
  · exact Touches.refl _ _
  · refine Touches.comp (Dev.setCtl_touches ..) (by decide) ?_
    exact Touches.refl _ _

theorem Dev.weakSeen_touches (d) (g) (pa) (corr) : Touches [.media, .drift] d (Dev.weakSeen d g pa corr) := by
  unfold Dev.weakSeen
  conv => zeta
  refine Touches.foldl (fun _ _ => ?_) ?_
  · refine Touches.ite ?_ ?_
    · refine Touches.comp (Dev.weakAdd_touches ..) (by decide) ?_
      refine Touches.comp (Touches.put_drift ..) (by decide) ?_
      exact Touches.refl _ _
    · refine Touches.comp (Touches.put_drift ..) (by decide) ?_
      exact Touches.refl _ _
  · exact Touches.refl _ _

theorem confirmLine_touches (x0) (x1) (x2) (x3) : Touches [.regs, .a, .b, .log, .aon, .pmc, .media, .drift, .sec, .out] x1 (confirmLine x0 x1 x2 x3) := by
  unfold confirmLine
  split
  · exact Touches.refl ..
  · extract_lets s0 d0 e l p home re fix lose
    have h0 : Touches [.drift] x1 d0 := Touches.put_drift ..
    refine Touches.ite (h0.mono (by decide)) (Touches.ite (Touches.refl ..) ?_)
    have hf : ∀ y, Touches [.regs, .a, .b, .log, .aon, .pmc, .media, .drift, .sec, .out] x1 (fix y) := by
      intro y
      simp only [fix]
      clear_value d0
      rcases hq : d0.repairPage l y with _ | z
      · exact h0.mono (by decide)
      · exact Touches.comp (Dev.repairPage_touches hq) (by decide) (h0.mono (by decide))
    have hl : ∀ o, Touches [.regs, .a, .b, .log, .aon, .pmc, .media, .drift, .sec, .out] x1 (lose o) := fun o =>
      Touches.comp (recordPoison_touches ..) (by decide) (Touches.comp (Dev.event_touches ..) (by decide)
        (Touches.comp (Dev.putLoc_touches ..) (by decide) (h0.mono (by decide))))
    clear_value fix lose home re
    rcases home with _ | x <;> rcases re with _ | y
    · exact hl _
    · exact Touches.ite (hf _) (hl _)
    · exact Touches.ite (hf _) (hl _)
    · exact Touches.ite (hf _) (Touches.ite (hf _) (hl _))

theorem scrubLine_touches (F) (d) (line) : Touches [.regs, .a, .b, .log, .aon, .pmc, .drift, .sec, .out] d (scrubLine F d line) := by
  unfold scrubLine
  conv => zeta
  split
  · split
    · split
      · refine Touches.ite ?_ ?_
        · refine Touches.comp (Dev.repairAsk_touches ..) (by decide) ?_
          exact Touches.refl _ _
        · refine Touches.comp (Dev.confirmAdd_touches ..) (by decide) ?_
          exact Touches.refl _ _
      · refine Touches.comp (Dev.confirmAdd_touches ..) (by decide) ?_
        exact Touches.refl _ _
    · exact Touches.refl _ _

theorem scrubParity_touches (x0) (x1) (x2) : Touches [.regs, .pmc, .media, .drift, .sec] x0 (scrubParity x0 x1 x2) := by
  unfold scrubParity
  refine Touches.foldl (fun d j => ?_) (Touches.refl ..)
  extract_lets l
  split
  · exact Touches.refl ..
  · rename_i x _
    rcases hq : d.repairAt l x.1 x.2 with _ | y
    · exact Touches.refl ..
    · exact (Dev.repairAt_touches hq).mono (by decide)
  · exact Touches.foldl (fun _ _ => (Dev.confirmAdd_touches ..).mono (by decide)) (Touches.refl ..)

theorem scrubRow_touches (F) (d) (t) (row) (worst) (corr) (unc) (parityBad) : Touches [.regs, .a, .b, .log, .aon, .pmc, .media, .tracts, .drift, .sec, .out] d (scrubRow F d t row worst corr unc parityBad) := by
  unfold scrubRow
  conv => zeta
  refine Touches.ite ?_ ?_
  · exact Touches.refl _ _
  · refine Touches.comp (Touches.put_drift ..) (by decide) ?_
    refine Touches.ite ?_ ?_
    · refine Touches.comp (Dev.freeOrphans_touches ..) (by decide) ?_
      refine Touches.ite ?_ ?_
      · refine Touches.comp (scrubParity_touches ..) (by decide) ?_
        refine Touches.foldl (fun _ _ => (scrubLine_touches ..).mono (by decide)) ?_
        refine Touches.ite ?_ ?_
        · refine Touches.comp (Dev.resurveyAdd_touches ..) (by decide) ?_
          refine Touches.comp (Dev.weakSeen_touches ..) (by decide) ?_
          refine Touches.ite ?_ ?_
          · refine Touches.comp (Dev.migQueue_touches ..) (by decide) ?_
            exact Touches.refl _ _
          · exact Touches.refl _ _
        · refine Touches.comp (Dev.weakSeen_touches ..) (by decide) ?_
          refine Touches.ite ?_ ?_
          · refine Touches.comp (Dev.migQueue_touches ..) (by decide) ?_
            exact Touches.refl _ _
          · exact Touches.refl _ _
      · refine Touches.foldl (fun _ _ => (scrubLine_touches ..).mono (by decide)) ?_
        refine Touches.ite ?_ ?_
        · refine Touches.comp (Dev.resurveyAdd_touches ..) (by decide) ?_
          refine Touches.comp (Dev.weakSeen_touches ..) (by decide) ?_
          refine Touches.ite ?_ ?_
          · refine Touches.comp (Dev.migQueue_touches ..) (by decide) ?_
            exact Touches.refl _ _
          · exact Touches.refl _ _
        · refine Touches.comp (Dev.weakSeen_touches ..) (by decide) ?_
          refine Touches.ite ?_ ?_
          · refine Touches.comp (Dev.migQueue_touches ..) (by decide) ?_
            exact Touches.refl _ _
          · exact Touches.refl _ _
    · refine Touches.ite ?_ ?_
      · refine Touches.comp (scrubParity_touches ..) (by decide) ?_
        refine Touches.foldl (fun _ _ => (scrubLine_touches ..).mono (by decide)) ?_
        refine Touches.ite ?_ ?_
        · refine Touches.comp (Dev.resurveyAdd_touches ..) (by decide) ?_
          refine Touches.comp (Dev.weakSeen_touches ..) (by decide) ?_
          refine Touches.ite ?_ ?_
          · refine Touches.comp (Dev.migQueue_touches ..) (by decide) ?_
            exact Touches.refl _ _
          · exact Touches.refl _ _
        · refine Touches.comp (Dev.weakSeen_touches ..) (by decide) ?_
          refine Touches.ite ?_ ?_
          · refine Touches.comp (Dev.migQueue_touches ..) (by decide) ?_
            exact Touches.refl _ _
          · exact Touches.refl _ _
      · refine Touches.foldl (fun _ _ => (scrubLine_touches ..).mono (by decide)) ?_
        refine Touches.ite ?_ ?_
        · refine Touches.comp (Dev.resurveyAdd_touches ..) (by decide) ?_
          refine Touches.comp (Dev.weakSeen_touches ..) (by decide) ?_
          refine Touches.ite ?_ ?_
          · refine Touches.comp (Dev.migQueue_touches ..) (by decide) ?_
            exact Touches.refl _ _
          · exact Touches.refl _ _
        · refine Touches.comp (Dev.weakSeen_touches ..) (by decide) ?_
          refine Touches.ite ?_ ?_
          · refine Touches.comp (Dev.migQueue_touches ..) (by decide) ?_
            exact Touches.refl _ _
          · exact Touches.refl _ _

theorem Dev.rateWrite_touches (d) (v) : Touches [.tether] d (Dev.rateWrite d v) := by
  unfold Dev.rateWrite
  refine Touches.ite ?_ ?_
  · exact Touches.refl _ _
  · refine Touches.comp (Touches.put_tether ..) (by decide) ?_
    exact Touches.refl _ _

theorem Dev.setSrc_touches (d) (x) : Touches [.regs, .tether] d (Dev.setSrc d x) := by
  unfold Dev.setSrc
  refine Touches.ite ?_ ?_
  · exact Touches.refl _ _
  · refine Touches.comp (Dev.icu_touches ..) (by decide) ?_
    refine Touches.comp (Touches.put_tether ..) (by decide) ?_
    exact Touches.refl _ _

theorem Dev.rankWrite_touches (d) (q) (v) : Touches [.regs] d (Dev.rankWrite d q v) := by
  unfold Dev.rankWrite
  conv => zeta
  refine Touches.foldl (fun _ _ => ?_) ?_
  · refine Touches.ite ?_ ?_
    · exact Touches.refl _ _
    · refine Touches.comp (Dev.setFld_touches ..) (by decide) ?_
      exact Touches.refl _ _
  · exact Touches.refl _ _

theorem Dev.ctrBack_touches (d) (page) : Touches [.sec] d (Dev.ctrBack d page) := by
  unfold Dev.ctrBack
  split
  · exact Touches.refl _ _
  · refine Touches.comp (Dev.ctrSave_touches ..) (by decide) ?_
    exact Touches.refl _ _

theorem Dev.unask_touches (d) (who) : Touches [.media] d (Dev.unask d who) := by
  unfold Dev.unask
  refine Touches.comp (Touches.put_media ..) (by decide) ?_
  exact Touches.refl _ _

theorem Dev.rowDone_touches (d) (g) (pa) : Touches [.media] d (Dev.rowDone d g pa) := by
  unfold Dev.rowDone
  conv => zeta
  split
  · exact Touches.refl _ _
  · refine Touches.ite ?_ ?_
    · exact Touches.refl _ _
    · refine Touches.comp (Dev.unask_touches ..) (by decide) ?_
      refine Touches.comp (Touches.put_media ..) (by decide) ?_
      refine Touches.foldl (fun _ _ => ?_) ?_
      · refine Touches.ite ?_ ?_
        · exact Touches.refl _ _
        · refine Touches.comp (Dev.pokePage_touches ..) (by decide) ?_
          exact Touches.refl _ _
      · exact Touches.refl _ _

theorem Dev.rowStart_touches (d) (g) (pa) (mode) (lines) : Touches [.regs, .pmc, .media, .sec] d (Dev.rowStart d g pa mode lines) := by
  unfold Dev.rowStart
  refine Touches.ite ?_ ?_
  · exact Touches.refl _ _
  · refine Touches.comp (Touches.put_media ..) (by decide) ?_
    exact Touches.refl _ _

theorem Dev.slotDrained_touches (d) (k) : Touches [.regs, .pmc, .sec, .lci] d (Dev.slotDrained d k) := by
  unfold Dev.slotDrained
  refine Touches.ite ?_ ?_
  · exact Touches.refl _ _
  · refine Touches.foldl (fun _ _ => ?_) ?_
    · refine Touches.comp (Dev.finish_touches ..) (by decide) ?_
      exact Touches.refl _ _
    · refine Touches.comp (Touches.put_sec ..) (by decide) ?_
      refine Touches.comp (Dev.emptySlot_touches ..) (by decide) ?_
      exact Touches.refl _ _

theorem reencRewrite_touches (x0) (x1) (x2) :
    Touches [.regs, .a, .b, .keel, .log, .aon, .pmc, .gon, .cache, .drift, .sec, .str, .out] x1 (reencRewrite x0 x1 x2) := by
  unfold reencRewrite
  split
  · exact Touches.refl ..
  · extract_lets t
    split
    refine Touches.ite (Touches.refl ..) ?_
    split
    rename_i v d1 hq
    have h1 : Touches [.regs, .a, .b, .keel, .log, .aon, .pmc, .gon, .cache, .drift, .sec, .str, .out] x1 d1 := by
      split at hq
      · cases hq; exact Touches.refl ..
      · split at hq
        · exact (Dev.openLine_touches hq).mono (by decide)
        · cases hq; exact Touches.refl ..
    split
    · exact Touches.comp (acceptWrite_touches ..) (by decide) h1
    · exact Touches.ite (Touches.comp (Dev.reencClear_touches ..) (by decide) h1) (Touches.comp (Dev.confirmAdd_touches ..) (by decide) h1)

theorem Dev.clockReturn_touches (d) : Touches [.tether] d (Dev.clockReturn d) := by
  unfold Dev.clockReturn
  refine Touches.ite ?_ ?_
  · refine Touches.comp (Touches.put_tether ..) (by decide) ?_
    exact Touches.refl _ _
  · exact Touches.refl _ _

theorem Dev.frameBegin_touches (d) : Touches [.regs, .tether, .pmc, .media] d (Dev.frameBegin d) := by
  unfold Dev.frameBegin
  conv => zeta
  refine Touches.foldl (fun _ _ => ?_) ?_
  · refine Touches.ite ?_ ?_
    · refine Touches.comp (Dev.count_touches ..) (by decide) ?_
      refine Touches.ite ?_ ?_
      · exact Touches.refl _ _
      · refine Touches.comp (Dev.count_touches ..) (by decide) ?_
        exact Touches.refl _ _
    · refine Touches.ite ?_ ?_
      · exact Touches.refl _ _
      · refine Touches.comp (Dev.count_touches ..) (by decide) ?_
        exact Touches.refl _ _
  · refine Touches.comp (Touches.put_tether ..) (by decide) ?_
    refine Touches.comp (Dev.advance_touches ..) (by decide) ?_
    exact Touches.refl _ _

theorem Dev.overrun_touches (F) (d) (m) : Touches [.regs, .tether, .log, .aon, .pmc, .media] d (Dev.overrun F d m) := by
  unfold Dev.overrun
  split
  · exact Touches.refl _ _
  · refine Touches.ite ?_ ?_
    · exact Touches.refl _ _
    · refine Touches.comp (Dev.count_touches ..) (by decide) ?_
      refine Touches.comp (Dev.event_touches ..) (by decide) ?_
      refine Touches.comp (Dev.bump_touches ..) (by decide) ?_
      refine Touches.comp (Dev.setCtl_touches ..) (by decide) ?_
      refine Touches.comp (Dev.advance_touches ..) (by decide) ?_
      exact Touches.refl _ _

theorem Dev.redue_touches (d) : Touches [.launch] d (Dev.redue d) := by
  unfold Dev.redue
  refine Touches.foldl (fun _ _ => ?_) ?_
  · refine Touches.ite ?_ ?_
    · refine Touches.comp (Touches.put_launch ..) (by decide) ?_
      exact Touches.refl _ _
    · exact Touches.refl _ _
  · exact Touches.refl _ _

theorem Dev.ptmGot_touches (d) (host) : Touches [.regs, .a, .b, .tether, .launch] d (Dev.ptmGot d host) := by
  unfold Dev.ptmGot
  refine Touches.ite ?_ ?_
  · exact Touches.refl _ _
  · refine Touches.comp (Dev.redue_touches ..) (by decide) ?_
    refine Touches.ite ?_ ?_
    · refine Touches.comp (Dev.setSrc_touches ..) (by decide) ?_
      refine Touches.comp (Dev.setHead_touches ..) (by decide) ?_
      refine Touches.comp (Touches.put_tether ..) (by decide) ?_
      exact Touches.refl _ _
    · refine Touches.ite ?_ ?_
      · refine Touches.comp (Dev.setSrc_touches ..) (by decide) ?_
        refine Touches.comp (Dev.setHead_touches ..) (by decide) ?_
        refine Touches.comp (Touches.put_tether ..) (by decide) ?_
        exact Touches.refl _ _
      · refine Touches.comp (Dev.setHead_touches ..) (by decide) ?_
        refine Touches.comp (Touches.put_tether ..) (by decide) ?_
        exact Touches.refl _ _

theorem Dev.ptmHold_touches (d) : Touches [.regs, .tether, .pmc, .media] d (Dev.ptmHold d) := by
  unfold Dev.ptmHold
  refine Touches.ite ?_ ?_
  · refine Touches.comp (Dev.setSrc_touches ..) (by decide) ?_
    refine Touches.ite ?_ ?_
    · refine Touches.comp (Dev.advance_touches ..) (by decide) ?_
      exact Touches.refl _ _
    · exact Touches.refl _ _
  · exact Touches.refl _ _

theorem Dev.ptmTimer_touches (d) : Touches [.regs, .tether, .pmc, .media, .out] d (Dev.ptmTimer d) := by
  unfold Dev.ptmTimer
  refine Touches.ite ?_ ?_
  · refine Touches.comp (Dev.emit_touches ..) (by decide) ?_
    refine Touches.comp (Touches.put_tether ..) (by decide) ?_
    refine Touches.comp (Dev.advance_touches ..) (by decide) ?_
    exact Touches.refl _ _
  · exact Touches.refl _ _

theorem Dev.windowShut_touches (d) : Touches [.regs, .tether, .pmc, .media] d (Dev.windowShut d) := by
  unfold Dev.windowShut
  refine Touches.ite ?_ ?_
  · refine Touches.comp (Dev.icu_touches ..) (by decide) ?_
    refine Touches.comp (Touches.put_tether ..) (by decide) ?_
    refine Touches.comp (Dev.advance_touches ..) (by decide) ?_
    exact Touches.refl _ _
  · exact Touches.refl _ _

theorem narrowEyeStep_touches (F) (d) (n) (narrowEye) (die) : Touches [.regs, .a, .b, .tether, .keel, .log, .aon, .cache, .media, .tracts, .out] d (narrowEyeStep F d n narrowEye die) := by
  unfold narrowEyeStep
  conv => zeta
  refine Touches.ite ?_ ?_
  · exact Touches.refl _ _
  · refine Touches.ite ?_ ?_
    · refine Touches.comp (Dev.setChan_touches ..) (by decide) ?_
      exact Touches.refl _ _
    · refine Touches.ite ?_ ?_
      · refine Touches.comp (Dev.setChan_touches ..) (by decide) ?_
        exact Touches.refl _ _
      · split
        · refine Touches.comp (failDie_touches ..) (by decide) ?_
          refine Touches.comp (Dev.setChan_touches ..) (by decide) ?_
          exact Touches.refl _ _
        · refine Touches.comp (Dev.declareChan_touches ..) (by decide) ?_
          refine Touches.comp (Dev.setChan_touches ..) (by decide) ?_
          exact Touches.refl _ _

theorem windowOpen_touches (F) (d) (narrowEye) (die) : Touches [.regs, .a, .b, .tether, .keel, .log, .aon, .pmc, .cache, .media, .tracts, .out] d (windowOpen F d narrowEye die) := by
  unfold windowOpen
  conv => zeta
  refine Touches.ite ?_ ?_
  · refine Touches.comp (Touches.put_tether ..) (by decide) ?_
    refine Touches.comp (Dev.advance_touches ..) (by decide) ?_
    exact Touches.refl _ _
  · split
    · refine Touches.comp (Touches.put_tether ..) (by decide) ?_
      refine Touches.comp (Dev.advance_touches ..) (by decide) ?_
      exact Touches.refl _ _
    · refine Touches.comp (narrowEyeStep_touches ..) (by decide) ?_
      refine Touches.comp (Dev.icu_touches ..) (by decide) ?_
      refine Touches.comp (Touches.put_tether ..) (by decide) ?_
      refine Touches.comp (Touches.put_tether ..) (by decide) ?_
      refine Touches.comp (Dev.advance_touches ..) (by decide) ?_
      exact Touches.refl _ _

theorem Dev.unqueue_touches (d) (t) : Touches [.tracts] d (Dev.unqueue d t) := by
  unfold Dev.unqueue
  refine Touches.comp (Touches.put_tracts ..) (by decide) ?_
  exact Touches.refl _ _

theorem Dev.areaMove_touches (d) (g) (a) : Touches [.regs, .keel, .pmc, .media, .tracts, .sec] d (Dev.areaMove d g a) := by
  unfold Dev.areaMove
  split
  · refine Touches.comp (Dev.unqueue_touches ..) (by decide) ?_
    exact Touches.refl _ _
  · split
    · exact Touches.refl _ _
    · refine Touches.comp (Dev.rootPut_touches ..) (by decide) ?_
      refine Touches.foldl (fun _ _ => ?_) ?_
      · refine Touches.comp (Dev.putLoc_touches ..) (by decide) ?_
        exact Touches.refl _ _
      · refine Touches.comp (Touches.put_tracts ..) (by decide) ?_
        refine Touches.foldl (fun _ _ => ?_) ?_
        · refine Touches.ite ?_ ?_
          · refine Touches.comp (Dev.markPhys_touches ..) (by decide) ?_
            exact Touches.refl _ _
          · exact Touches.refl _ _
        · refine Touches.comp (Dev.unqueue_touches ..) (by decide) ?_
          exact Touches.refl _ _

theorem Dev.ctrMove_touches (x0) (x1) (x2) : Touches [.tracts, .drift, .sec] x0 (Dev.ctrMove x0 x1 x2) := by
  unfold Dev.ctrMove
  split
  · exact Touches.refl ..
  · rename_i g' i' d1 hq
    extract_lets old new key hs d2 d3
    have h1 : Touches [.tracts, .drift, .sec] x0 d1 := by
      rcases hp : x0.counterPair (if x0.usable x1 then some x1 else none) with _ | y
      · rw [hp] at hq; exact (Dev.counterPair_touches hq).mono (by decide)
      · rw [hp] at hq; cases hq; exact (Dev.counterPair_touches hp).mono (by decide)
    have h2 : Touches [.tracts, .drift, .sec] x0 d2 := Touches.foldl (fun _ _ => (Dev.setHdr_touches ..).mono (by decide)) h1
    exact Touches.comp (Touches.put_tracts_sec ..) (by decide) (Touches.comp (Dev.unqueue_touches ..) (by decide) h2)

theorem Dev.gapMove_touches (d) (t) : Touches [.tracts] d (Dev.gapMove d t) := by
  unfold Dev.gapMove
  refine Touches.ite ?_ ?_
  · refine Touches.comp (Touches.put_tracts ..) (by decide) ?_
    exact Touches.refl _ _
  · exact Touches.refl _ _

theorem Dev.heatNext_touches (d) : Touches [.regs, .tether, .pmc, .media, .tracts] d (Dev.heatNext d) := by
  unfold Dev.heatNext
  refine Touches.foldl (fun _ _ => ?_) ?_
  · refine Touches.comp (Dev.setHdr_touches ..) (by decide) ?_
    exact Touches.refl _ _
  · refine Touches.comp (Touches.put_tracts ..) (by decide) ?_
    refine Touches.comp (Dev.tick_touches ..) (by decide) ?_
    exact Touches.refl _ _

theorem Dev.holdSettle_touches (d) : Touches [.regs, .tracts] d (Dev.holdSettle d) := by
  unfold Dev.holdSettle
  refine Touches.ite ?_ ?_
  · refine Touches.comp (Dev.icu_touches ..) (by decide) ?_
    refine Touches.comp (Touches.put_tracts ..) (by decide) ?_
    exact Touches.refl _ _
  · exact Touches.refl _ _

theorem Dev.mapMig_touches (d) (t) (f) : Touches [.tracts] d (Dev.mapMig d t f) := by
  unfold Dev.mapMig
  refine Touches.comp (Touches.put_tracts ..) (by decide) ?_
  exact Touches.refl _ _

theorem Dev.metaBack_touches (d) (id) : Touches [.tracts, .pwr] d (Dev.metaBack d id) := by
  unfold Dev.metaBack
  conv => zeta
  refine Touches.ite ?_ ?_
  · refine Touches.comp (Touches.put_tracts_pwr ..) (by decide) ?_
    exact Touches.refl _ _
  · exact Touches.refl _ _

theorem Dev.migAsk_touches (d) (x) (n) : Touches [.media] d (Dev.migAsk d x n) := by
  unfold Dev.migAsk
  conv => zeta
  refine Touches.ite ?_ ?_
  · exact Touches.refl _ _
  · refine Touches.foldl (fun _ _ => ?_) ?_
    · refine Touches.comp (Touches.put_media ..) (by decide) ?_
      exact Touches.refl _ _
    · refine Touches.foldl (fun _ _ => ?_) ?_
      · refine Touches.comp (Touches.put_media ..) (by decide) ?_
        exact Touches.refl _ _
      · exact Touches.refl _ _

theorem Dev.rekeyEnd_touches (d) (status) : Touches [.regs, .pmc, .tracts, .sec, .lci] d (Dev.rekeyEnd d status) := by
  unfold Dev.rekeyEnd
  split
  · exact Touches.refl _ _
  · refine Touches.ite ?_ ?_
    · exact Touches.refl _ _
    · refine Touches.comp (Dev.finish_touches ..) (by decide) ?_
      refine Touches.comp (Touches.put_tracts_sec ..) (by decide) ?_
      refine Touches.foldl (fun _ _ => ?_) ?_
      · refine Touches.comp (Dev.dropTarget_touches ..) (by decide) ?_
        refine Touches.comp (Touches.put_tracts ..) (by decide) ?_
        exact Touches.refl _ _
      · exact Touches.refl _ _

theorem Dev.rekeyOn_touches (d) : Touches [.regs, .pmc, .tracts, .sec, .lci] d (Dev.rekeyOn d) := by
  unfold Dev.rekeyOn
  split
  · exact Touches.refl _ _
  · refine Touches.ite ?_ ?_
    · refine Touches.comp (Dev.rekeyEnd_touches ..) (by decide) ?_
      exact Touches.refl _ _
    · refine Touches.comp (Dev.rekeyPump_touches ..) (by decide) ?_
      exact Touches.refl _ _

theorem Dev.takeHomes_touches (x0) : Touches [.regs, .pmc, .media, .tracts, .drift, .sec] x0 (Dev.takeHomes x0) := by
  unfold Dev.takeHomes
  refine Touches.foldl (fun a t => ?_) (Touches.refl ..)
  rcases hc : a.firstHome t 16384 false with _ | e
  · exact Touches.refl ..
  · exact Dev.firstHome_touches hc

theorem Dev.wearCheck_touches (d) : Touches [.tracts] d (Dev.wearCheck d) := by
  unfold Dev.wearCheck
  conv => zeta
  split
  · exact Touches.refl _ _
  · split
    · refine Touches.ite ?_ ?_
      · exact Touches.refl _ _
      · refine Touches.comp (Dev.migQueue_touches ..) (by decide) ?_
        exact Touches.refl _ _
    · exact Touches.refl _ _

theorem auxMove_touches (F) (d) (t) : Touches [.regs, .a, .b, .keel, .log, .aon, .pmc, .media, .tracts, .drift, .sec, .out] d (auxMove F d t) := by
  unfold auxMove
  refine Touches.comp (Dev.narrowSettle_touches ..) (by decide) ?_
  refine Touches.ite ?_ ?_
  · refine Touches.comp (Dev.areaMove_touches ..) (by decide) ?_
    exact Touches.refl _ _
  · refine Touches.comp (Dev.ctrMove_touches ..) (by decide) ?_
    exact Touches.refl _ _

theorem copyRow_touches (F) (m) (d) (r) : Touches [.regs, .a, .b, .media, .tracts] d (copyRow F m d r) := by
  unfold copyRow
  refine Touches.foldl (fun _ _ => ?_) ?_
  · refine Touches.foldl (fun _ _ => ?_) ?_
    · refine Touches.ite ?_ ?_
      · refine Touches.comp (recordPoison_touches ..) (by decide) ?_
        exact Touches.refl _ _
      · exact Touches.refl _ _
    · refine Touches.comp (Dev.putStripe_touches ..) (by decide) ?_
      refine Touches.ite ?_ ?_
      · refine Touches.comp (Dev.wearRow_touches ..) (by decide) ?_
        exact Touches.refl _ _
      · exact Touches.refl _ _
  · exact Touches.refl _ _

theorem floorCheck_touches (F) (d) : Touches [.regs, .a, .b, .log, .aon, .tracts, .out] d (floorCheck F d) := by
  unfold floorCheck
  conv => zeta
  refine Touches.ite ?_ ?_
  · refine Touches.comp (Dev.notice_touches ..) (by decide) ?_
    refine Touches.comp (Dev.icu_touches ..) (by decide) ?_
    refine Touches.comp (Dev.postAll_touches ..) (by decide) ?_
    refine Touches.comp (Dev.event_touches ..) (by decide) ?_
    refine Touches.comp (Touches.put_tracts ..) (by decide) ?_
    exact Touches.refl _ _
  · refine Touches.ite ?_ ?_
    · refine Touches.comp (Dev.notice_touches ..) (by decide) ?_
      refine Touches.comp (Dev.icu_touches ..) (by decide) ?_
      refine Touches.comp (Dev.event_touches ..) (by decide) ?_
      refine Touches.comp (Touches.put_tracts ..) (by decide) ?_
      exact Touches.refl _ _
    · exact Touches.refl _ _

theorem floorRepeat_touches (F) (d) : Touches [.regs, .a, .b, .tether, .pmc, .media, .tracts, .out] d (floorRepeat F d) := by
  unfold floorRepeat
  refine Touches.ite ?_ ?_
  · refine Touches.comp (Dev.postAll_touches ..) (by decide) ?_
    refine Touches.comp (Touches.put_tracts ..) (by decide) ?_
    refine Touches.comp (Dev.advance_touches ..) (by decide) ?_
    exact Touches.refl _ _
  · exact Touches.refl _ _

theorem sealLift_touches (F) (d) : Touches [.regs, .a, .b, .keel, .log, .aon, .tracts, .out] d (sealLift F d) := by
  unfold sealLift
  refine Touches.ite ?_ ?_
  · refine Touches.comp (Dev.notice_touches ..) (by decide) ?_
    refine Touches.comp (Dev.icu_touches ..) (by decide) ?_
    refine Touches.comp (Dev.postAll_touches ..) (by decide) ?_
    refine Touches.comp (Dev.statePut_touches ..) (by decide) ?_
    refine Touches.comp (Dev.event_touches ..) (by decide) ?_
    refine Touches.comp (Touches.put_tracts ..) (by decide) ?_
    exact Touches.refl _ _
  · exact Touches.refl _ _

theorem freeDue_touches (F) (d) : Touches [.regs, .a, .b, .keel, .log, .aon, .tracts, .drift, .out] d (freeDue F d) := by
  unfold freeDue
  refine Touches.comp (sealLift_touches ..) (by decide) ?_
  refine Touches.foldl (fun _ _ => ?_) ?_
  · refine Touches.comp (Dev.freePhys_touches ..) (by decide) ?_
    exact Touches.refl _ _
  · refine Touches.comp (Touches.put_tracts ..) (by decide) ?_
    exact Touches.refl _ _

theorem gapDone_touches (F) (d) (t) : Touches [.regs, .a, .b, .pmc, .media, .tracts, .sec] d (gapDone F d t) := by
  unfold gapDone
  conv => zeta
  refine Touches.ite ?_ ?_
  · exact Touches.refl _ _
  · refine Touches.comp (Dev.count_touches ..) (by decide) ?_
    refine Touches.comp (Dev.setHdr_touches ..) (by decide) ?_
    split
    · refine Touches.ite ?_ ?_
      · refine Touches.comp (Touches.put_tracts ..) (by decide) ?_
        exact Touches.refl _ _
      · split
        · refine Touches.comp (Dev.putLoc_touches ..) (by decide) ?_
          refine Touches.comp (Dev.wearRow_touches ..) (by decide) ?_
          refine Touches.comp (Touches.put_tracts ..) (by decide) ?_
          exact Touches.refl _ _
        · refine Touches.comp (recordPoison_touches ..) (by decide) ?_
          refine Touches.comp (Dev.putLoc_touches ..) (by decide) ?_
          refine Touches.comp (Dev.wearRow_touches ..) (by decide) ?_
          refine Touches.comp (Touches.put_tracts ..) (by decide) ?_
          exact Touches.refl _ _
    · refine Touches.comp (Touches.put_tracts ..) (by decide) ?_
      exact Touches.refl _ _

theorem holdEmpty_touches (F) (d) : Touches [.regs, .a, .b, .log, .aon, .tracts, .out] d (holdEmpty F d) := by
  unfold holdEmpty
  refine Touches.ite ?_ ?_
  · exact Touches.refl _ _
  · refine Touches.comp (Dev.icu_touches ..) (by decide) ?_
    refine Touches.comp (Dev.postAll_touches ..) (by decide) ?_
    refine Touches.comp (Dev.event_touches ..) (by decide) ?_
    refine Touches.comp (Touches.put_tracts ..) (by decide) ?_
    exact Touches.refl _ _

theorem migCopied_touches (F) (d) (t) : Touches [.regs, .a, .b, .media, .tracts] d (migCopied F d t) := by
  unfold migCopied
  conv => zeta
  split
  · exact Touches.refl _ _
  · refine Touches.ite ?_ ?_
    · refine Touches.comp (Dev.mapMig_touches ..) (by decide) ?_
      refine Touches.comp (Dev.migAsk_touches ..) (by decide) ?_
      refine Touches.comp (Dev.unask_touches ..) (by decide) ?_
      refine Touches.ite ?_ ?_
      · exact Touches.refl _ _
      · refine Touches.foldl (fun _ _ => (copyRow_touches ..).mono (by decide)) ?_
        exact Touches.refl _ _
    · refine Touches.ite ?_ ?_
      · refine Touches.comp (Dev.mapMig_touches ..) (by decide) ?_
        refine Touches.comp (Dev.unask_touches ..) (by decide) ?_
        refine Touches.ite ?_ ?_
        · exact Touches.refl _ _
        · refine Touches.foldl (fun _ _ => (copyRow_touches ..).mono (by decide)) ?_
          exact Touches.refl _ _
      · exact Touches.refl _ _

theorem migRelease_touches (F) (d) (t) : Touches [.regs, .a, .b, .tether, .keel, .log, .aon, .pmc, .media, .tracts, .drift, .out] d (migRelease F d t) := by
  unfold migRelease
  split
  · refine Touches.comp (freeDue_touches ..) (by decide) ?_
    exact Touches.refl _ _
  · refine Touches.comp (Dev.narrowSettle_touches ..) (by decide) ?_
    refine Touches.comp (freeDue_touches ..) (by decide) ?_
    refine Touches.ite ?_ ?_
    · refine Touches.comp (Touches.put_tracts ..) (by decide) ?_
      refine Touches.comp (Dev.advance_touches ..) (by decide) ?_
      exact Touches.refl _ _
    · refine Touches.ite ?_ ?_
      · refine Touches.comp (Dev.mapPhys_touches ..) (by decide) ?_
        refine Touches.comp (Dev.freePhys_touches ..) (by decide) ?_
        refine Touches.comp (Touches.put_tracts ..) (by decide) ?_
        refine Touches.comp (Dev.advance_touches ..) (by decide) ?_
        exact Touches.refl _ _
      · refine Touches.comp (Dev.freePhys_touches ..) (by decide) ?_
        refine Touches.comp (Touches.put_tracts ..) (by decide) ?_
        refine Touches.comp (Dev.advance_touches ..) (by decide) ?_
        exact Touches.refl _ _

theorem migStart_touches (F) (d) (t) (why) : Touches [.regs, .a, .b, .keel, .log, .aon, .pmc, .media, .tracts, .drift, .sec, .out] d (migStart F d t why) := by
  unfold migStart
  conv => zeta
  refine Touches.ite ?_ ?_
  · exact Touches.refl _ _
  · refine Touches.ite ?_ ?_
    · exact Touches.refl _ _
    · refine Touches.ite ?_ ?_
      · refine Touches.comp (auxMove_touches ..) (by decide) ?_
        exact Touches.refl _ _
      · refine Touches.ite ?_ ?_
        · refine Touches.comp (Dev.unqueue_touches ..) (by decide) ?_
          exact Touches.refl _ _
        · refine Touches.ite ?_ ?_
          · exact Touches.refl _ _
          · refine Touches.ite ?_ ?_
            · exact Touches.refl _ _
            · split
              · split
                · refine Touches.ite ?_ ?_
                  · exact Touches.refl _ _
                  · refine Touches.comp (holdEmpty_touches ..) (by decide) ?_
                    exact Touches.refl _ _
                · rename_i hq16
                  refine Touches.comp (Dev.migAsk_touches ..) (by decide) ?_
                  refine Touches.comp (Dev.count_touches ..) (by decide) ?_
                  refine Touches.comp (Dev.holdSettle_touches ..) (by decide) ?_
                  refine Touches.comp (Touches.put_tracts ..) (by decide) ?_
                  refine Touches.comp (Dev.unqueue_touches ..) (by decide) ?_
                  refine Touches.comp (Dev.take_touches hq16) (by decide) ?_
                  exact Touches.refl _ _

theorem recryptLine_touches (F) (old) (new) (base) (t) (old0) (d) (i) : Touches [.regs, .a, .b, .log, .aon, .pmc, .media, .sec, .out] d (recryptLine F old new base t old0 d i) := by
  unfold recryptLine
  conv => zeta
  refine Touches.ite ?_ ?_
  · exact Touches.refl _ _
  · split
    · refine Touches.comp (recordPoison_touches ..) (by decide) ?_
      refine Touches.comp (Dev.putLoc_touches ..) (by decide) ?_
      exact Touches.refl _ _
    · split
      · refine Touches.comp (recordPoison_touches ..) (by decide) ?_
        refine Touches.comp (Dev.putLoc_touches ..) (by decide) ?_
        exact Touches.refl _ _
      · refine Touches.comp (Dev.putLoc_touches ..) (by decide) ?_
        exact Touches.refl _ _

theorem recryptTract_touches (x0) (x1) (x2) (x3) (x4) (x5) (x6) :
    Touches [.regs, .a, .b, .log, .aon, .pmc, .media, .tracts, .drift, .sec, .out, .fresh] x6 (recryptTract x0 x1 x2 x3 x4 x5 x6) := by
  unfold recryptTract
  extract_lets s0 hh d1 e w d2
  have h1 : Touches [.regs, .a, .b, .log, .aon, .pmc, .media, .tracts, .drift, .sec, .out, .fresh] x6 d1 := by
    refine Touches.ite ?_ (Touches.refl ..)
    rcases hc : hh.allocCtr x2 x3 x4 with _ | e
    · exact (Dev.setHdr_touches ..).mono (by decide)
    · exact Touches.comp (Dev.allocCtr_touches hc) (by decide) (Touches.mono (k := [.tracts]) (Dev.setHdr_touches ..) (by decide))
  have h2 : Touches [.regs, .a, .b, .log, .aon, .pmc, .media, .tracts, .drift, .sec, .out, .fresh] x6 d2 := Touches.foldl (fun _ _ => (Dev.wearRow_touches ..).mono (by decide)) h1
  exact Touches.foldl (fun _ _ => (recryptLine_touches ..).mono (by decide)) h2

theorem migSwitch_touches (x0) (x1) (x2) :
    Touches [.regs, .a, .b, .keel, .log, .aon, .pmc, .media, .tracts, .drift, .sec, .lci, .out, .fresh] x1 (migSwitch x0 x1 x2) := by
  unfold migSwitch
  split
  · exact Touches.refl ..
  · rename_i m _
    extract_lets e cow who refs src d1 d2 d3 d4 d5 d6 d7
    refine Touches.ite (Touches.refl ..) ?_
    have h1 : Touches [.regs, .pmc, .tracts] x1 d1 := Touches.foldl (fun _ _ => Touches.comp (Dev.setHdr_touches ..) (by decide) ((Dev.setEnt_touches ..).mono (by decide))) (Touches.refl ..)
    have h2 : Touches [.regs, .pmc, .tracts] x1 d2 := Touches.comp (Dev.markPhys_touches ..) (by decide) h1
    have h3 : Touches [.regs, .pmc, .tracts] x1 d3 := Touches.ite (Touches.comp (Dev.unshare_touches ..) (by decide) h2) h2
    have h4 : Touches [.regs, .pmc, .tracts] x1 d4 := Touches.comp (Dev.mapMig_touches ..) (by decide) h3
    have h5 : Touches [.regs, .pmc, .tracts] x1 d5 := Touches.ite (Touches.comp (Dev.bump_touches ..) (by decide) h4) h4
    have h6 : Touches [.regs, .pmc, .tracts] x1 d6 := Touches.ite (Touches.comp (Dev.count_touches ..) (by decide) h5)
      (Touches.ite (Touches.comp (Dev.count_touches ..) (by decide) h5) h5)
    have h7 : Touches [.regs, .pmc, .tracts] x1 d7 := Touches.comp (Dev.count_touches ..) (by decide) h6
    clear_value d7
    split
    · extract_lets w r1 d8 d9
      have h8 : Touches [.regs, .pmc, .tracts, .sec] x1 d8 := Touches.comp (Touches.put_sec ..) (by decide) (h7.mono (by decide))
      have h9 : Touches [.regs, .a, .b, .keel, .log, .aon, .pmc, .media, .tracts, .drift, .sec, .lci, .out, .fresh] x1 d9 :=
        Touches.comp (Dev.mapCmd_touches ..) (by decide) (Touches.comp (recryptTract_touches ..) (by decide) (h8.mono (by decide)))
      refine Touches.comp (Dev.narrowSettle_touches ..) (by decide) (Touches.comp (Dev.icu_touches ..) (by decide) ?_)
      split
      · exact Touches.ite h9 (Touches.comp (Dev.ctrForget_touches ..) (by decide) h9)
      · exact h9
    · have h8 : Touches [.regs, .a, .b, .keel, .log, .aon, .pmc, .media, .tracts, .drift, .sec, .lci, .out, .fresh] x1 (d7.narrowSettle x0 m.source.group) := Touches.comp (Dev.narrowSettle_touches ..) (by decide) (h7.mono (by decide))
      refine Touches.ite ?_ h8
      split
      exact Touches.comp (recryptTract_touches ..) (by decide) h8

theorem migVerify_touches (F) (d) (t) (bad) (badAgain) : Touches [.regs, .a, .b, .media, .tracts] d (migVerify F d t bad badAgain) := by
  unfold migVerify
  split
  · exact Touches.refl _ _
  · refine Touches.ite ?_ ?_
    · exact Touches.refl _ _
    · refine Touches.ite ?_ ?_
      · refine Touches.comp (Dev.mapMig_touches ..) (by decide) ?_
        exact Touches.refl _ _
      · refine Touches.ite ?_ ?_
        · refine Touches.comp (Dev.badTarget_touches ..) (by decide) ?_
          exact Touches.refl _ _
        · refine Touches.comp (Dev.mapMig_touches ..) (by decide) ?_
          refine Touches.ite ?_ ?_
          · exact Touches.refl _ _
          · refine Touches.foldl (fun _ _ => (copyRow_touches ..).mono (by decide)) ?_
            exact Touches.refl _ _

theorem sealDevice_touches (F) (d) : Touches [.regs, .a, .b, .keel, .log, .aon, .pmc, .media, .tracts, .drift, .sec, .lci, .out] d (sealDevice F d) := by
  unfold sealDevice
  refine Touches.ite ?_ ?_
  · exact Touches.refl _ _
  · refine Touches.comp (silentOut_touches ..) (by decide) ?_
    refine Touches.comp (Dev.rekeyEnd_touches ..) (by decide) ?_
    refine Touches.comp (Dev.notice_touches ..) (by decide) ?_
    refine Touches.comp (Dev.icu_touches ..) (by decide) ?_
    refine Touches.comp (Dev.postAll_touches ..) (by decide) ?_
    refine Touches.comp (Dev.statePut_touches ..) (by decide) ?_
    refine Touches.comp (Dev.event_touches ..) (by decide) ?_
    refine Touches.comp (Touches.put_tracts ..) (by decide) ?_
    refine Touches.comp (Dev.takeHomes_touches ..) (by decide) ?_
    exact Touches.refl _ _

theorem zoneRecompute_touches (F) (d) : Touches [.regs, .a, .b, .tether, .keel, .log, .aon, .pmc, .media, .tracts, .drift, .out] d (zoneRecompute F d) := by
  unfold zoneRecompute
  refine Touches.foldl (fun _ _ => ?_) ?_
  · refine Touches.comp (Dev.migQueue_touches ..) (by decide) ?_
    exact Touches.refl _ _
  · refine Touches.comp (Touches.put_tracts ..) (by decide) ?_
    refine Touches.comp (floorCheck_touches ..) (by decide) ?_
    refine Touches.comp (freeDue_touches ..) (by decide) ?_
    refine Touches.comp (Dev.tick_touches ..) (by decide) ?_
    exact Touches.refl _ _

end Sys2Proof.Machine
end

