-- ==== Sys2Proof/Laws/FrameStream.lean ====
section
/-!
SUPPORT. What each shared operation can change: streams, counters, launch slots, queues, windows.
-/
namespace Sys2Proof.Machine

theorem Dev.roundReads_touches (d) (n) (t) : Touches [.cache] d (Dev.roundReads d n t) := by
  unfold Dev.roundReads
  refine Touches.comp (Dev.setCache_touches ..) (by decide) ?_
  exact Touches.refl _ _

theorem Dev.occupy_touches (d) (n) (t) (s) (bank) (host) : Touches [.media] d (Dev.occupy d n t s bank host) := by
  unfold Dev.occupy
  refine Touches.comp (Dev.setChan_touches ..) (by decide) ?_
  exact Touches.refl _ _

theorem Dev.grantRead_touches (d) (n) (t) (e) : Touches [.cache, .media] d (Dev.grantRead d n t e) := by
  unfold Dev.grantRead
  refine Touches.comp (Dev.setCache_touches ..) (by decide) ?_
  refine Touches.comp (Dev.occupy_touches ..) (by decide) ?_
  exact Touches.refl _ _

theorem Dev.unitDone_touches (d) (n) (b) : Touches [.media] d (Dev.unitDone d n b) := by
  unfold Dev.unitDone
  refine Touches.comp (Touches.put_media ..) (by decide) ?_
  exact Touches.refl _ _

theorem Dev.bridleBeat_touches (d) (n) : Touches [.regs, .tether, .pmc, .cache, .media, .str] d (Dev.bridleBeat d n) := by
  unfold Dev.bridleBeat
  conv => zeta
  refine Touches.ite ?_ ?_
  · refine Touches.comp (Dev.tick_touches ..) (by decide) ?_
    exact Touches.refl _ _
  · split
    · refine Touches.comp (Dev.roundReads_touches ..) (by decide) ?_
      refine Touches.comp (Dev.tick_touches ..) (by decide) ?_
      exact Touches.refl _ _
    · refine Touches.comp (Dev.grantRead_touches ..) (by decide) ?_
      refine Touches.comp (Dev.roundReads_touches ..) (by decide) ?_
      refine Touches.comp (Dev.tick_touches ..) (by decide) ?_
      exact Touches.refl _ _
    · refine Touches.comp (Touches.put_str ..) (by decide) ?_
      refine Touches.comp (Dev.occupy_touches ..) (by decide) ?_
      refine Touches.comp (Dev.roundReads_touches ..) (by decide) ?_
      refine Touches.comp (Dev.tick_touches ..) (by decide) ?_
      exact Touches.refl _ _
    · refine Touches.comp (Dev.unitDone_touches ..) (by decide) ?_
      refine Touches.comp (Dev.occupy_touches ..) (by decide) ?_
      refine Touches.comp (Dev.roundReads_touches ..) (by decide) ?_
      refine Touches.comp (Dev.tick_touches ..) (by decide) ?_
      exact Touches.refl _ _

theorem Dev.invClose_touches (d) (r) : Touches [.cache] d (Dev.invClose d r) := by
  unfold Dev.invClose
  refine Touches.comp (Dev.setCache_touches ..) (by decide) ?_
  exact Touches.refl _ _

theorem Dev.slotState_touches (d) (n) (v) : Touches [.regs] d (Dev.slotState d n v) := by
  unfold Dev.slotState
  refine Touches.comp (Dev.setFld_touches ..) (by decide) ?_
  exact Touches.refl _ _

theorem Dev.setDue_touches (d) (n) (t) : Touches [.launch] d (Dev.setDue d n t) := by
  unfold Dev.setDue
  refine Touches.comp (Touches.put_launch ..) (by decide) ?_
  exact Touches.refl _ _

theorem Dev.setSchan_touches (d) (c) (x) : Touches [.str] d (Dev.setSchan d c x) := by
  unfold Dev.setSchan
  refine Touches.comp (Touches.put_str ..) (by decide) ?_
  exact Touches.refl _ _

theorem Dev.stopChan_touches (d) (c) : Touches [.str, .fresh] d (Dev.stopChan d c) := by
  unfold Dev.stopChan
  conv => zeta
  split
  · split
    · rename_i hq4
      refine Touches.comp (Dev.setSchan_touches ..) (by decide) ?_
      refine Touches.comp (Dev.free_touches hq4) (by decide) ?_
      exact Touches.refl _ _
  · split
    · rename_i hq4
      refine Touches.comp (Dev.setSchan_touches ..) (by decide) ?_
      refine Touches.comp (Dev.free_touches hq4) (by decide) ?_
      exact Touches.refl _ _
  · exact Touches.refl _ _

theorem Dev.streamFire_touches (d) (c) : Touches [.str, .lci, .fresh] d (Dev.streamFire d c) := by
  unfold Dev.streamFire
  conv => zeta
  refine Touches.ite ?_ ?_
  · exact Touches.refl _ _
  · refine Touches.ite ?_ ?_
    · refine Touches.comp (Dev.stopChan_touches ..) (by decide) ?_
      refine Touches.comp (Dev.mapCmd_touches ..) (by decide) ?_
      exact Touches.refl _ _
    · refine Touches.comp (Dev.mapCmd_touches ..) (by decide) ?_
      refine Touches.comp (Dev.setSchan_touches ..) (by decide) ?_
      exact Touches.refl _ _

theorem Dev.dropSnap_touches (d) (h) : Touches [.str] d (Dev.dropSnap d h) := by
  unfold Dev.dropSnap
  refine Touches.comp (Touches.put_str ..) (by decide) ?_
  exact Touches.refl _ _

theorem Dev.markPre_touches (d) (s) : Touches [.gon] d (Dev.markPre d s) := by
  unfold Dev.markPre
  refine Touches.comp (Touches.put_gon ..) (by decide) ?_
  exact Touches.refl _ _

theorem Dev.mapSnap_touches (d) (h) (f) : Touches [.str] d (Dev.mapSnap d h f) := by
  unfold Dev.mapSnap
  refine Touches.comp (Touches.put_str ..) (by decide) ?_
  exact Touches.refl _ _

theorem Dev.snapFire_touches (d) (h) (t) : Touches [.regs, .pmc, .gon, .str, .lci] d (Dev.snapFire d h t) := by
  unfold Dev.snapFire
  split
  · exact Touches.refl _ _
  · refine Touches.ite ?_ ?_
    · refine Touches.comp (Dev.finish_touches ..) (by decide) ?_
      refine Touches.comp (Dev.dropSnap_touches ..) (by decide) ?_
      exact Touches.refl _ _
    · refine Touches.comp (Dev.mapCmd_touches ..) (by decide) ?_
      refine Touches.comp (Dev.markPre_touches ..) (by decide) ?_
      refine Touches.comp (Dev.mapSnap_touches ..) (by decide) ?_
      exact Touches.refl _ _

theorem Dev.snapCounters_touches (d) (who) : Touches [.pmc] d (Dev.snapCounters d who) := by
  unfold Dev.snapCounters
  refine Touches.comp (Touches.put_pmc ..) (by decide) ?_
  exact Touches.refl _ _

theorem Dev.snapHist_touches (d) (who) : Touches [.pmc] d (Dev.snapHist d who) := by
  unfold Dev.snapHist
  refine Touches.comp (Touches.put_pmc ..) (by decide) ?_
  exact Touches.refl _ _

theorem Dev.gpioEdge_touches (d) (pin) (kind) : Touches [.gpio, .out] d (Dev.gpioEdge d pin kind) := by
  unfold Dev.gpioEdge
  refine Touches.comp (Dev.emit_touches ..) (by decide) ?_
  refine Touches.comp (Touches.put_gpio ..) (by decide) ?_
  exact Touches.refl _ _

theorem slotAct_touches {x0} {x1} {x2} {e r} (h : slotAct x0 x1 x2 = (e, r)) :
    Touches [.regs, .gpio, .pmc, .bst, .gon, .str, .lci, .out, .fresh] x1 e := by
  unfold slotAct at h
  extract_lets arg at h
  split at h
  · cases h; exact (Dev.streamFire_touches ..).mono (by decide)
  · cases h
    split
    · exact (Dev.snapFire_touches ..).mono (by decide)
    · exact Touches.refl ..
  · cases h
    refine Touches.ite ?_ ?_
    · refine Touches.comp (Dev.snapHist_touches ..) (by decide) ?_
      exact Touches.ite ((Dev.snapCounters_touches ..).mono (by decide)) (Touches.refl ..)
    · exact Touches.ite ((Dev.snapCounters_touches ..).mono (by decide)) (Touches.refl ..)
  · cases h; exact (Touches.put_bst ..).mono (by decide)
  · split at h
    · cases h; exact Touches.refl ..
    · cases h; exact (Dev.msixSend_touches ..).mono (by decide)
  · split at h
    · cases h; exact (Dev.gpioEdge_touches ..).mono (by decide)
    · cases h; exact Touches.refl ..
  · cases h; exact Touches.refl ..

theorem Dev.slotNext_touches (d) (n) (stop) : Touches [.regs, .launch] d (Dev.slotNext d n stop) := by
  unfold Dev.slotNext
  conv => zeta
  refine Touches.ite ?_ ?_
  · refine Touches.comp (Dev.slotState_touches ..) (by decide) ?_
    refine Touches.comp (Dev.setRbit_touches ..) (by decide) ?_
    exact Touches.refl _ _
  · refine Touches.comp (Dev.slotState_touches ..) (by decide) ?_
    refine Touches.comp (Dev.setDue_touches ..) (by decide) ?_
    refine Touches.comp (Dev.setFld_touches ..) (by decide) ?_
    refine Touches.comp (Dev.setReg64_touches ..) (by decide) ?_
    refine Touches.comp (Dev.setReg64_touches ..) (by decide) ?_
    exact Touches.refl _ _

theorem slotFire_touches (F) (d) (n) (late) (stop) : Touches [.regs, .launch, .gpio, .pmc, .bst, .gon, .str, .lci, .out, .fresh] d (slotFire F d n late stop) := by
  unfold slotFire
  conv => zeta
  split
  · rename_i hq2
    refine Touches.ite ?_ ?_
    · refine Touches.comp (Dev.icu_touches ..) (by decide) ?_
      refine Touches.comp (Touches.put_lci ..) (by decide) ?_
      refine Touches.comp (Dev.slotNext_touches ..) (by decide) ?_
      refine Touches.comp (Dev.setReg64_touches ..) (by decide) ?_
      refine Touches.comp (Dev.setFld_touches ..) (by decide) ?_
      refine Touches.comp (slotAct_touches hq2) (by decide) ?_
      exact Touches.refl _ _
    · refine Touches.comp (Dev.slotNext_touches ..) (by decide) ?_
      refine Touches.comp (Dev.setReg64_touches ..) (by decide) ?_
      refine Touches.comp (Dev.setFld_touches ..) (by decide) ?_
      refine Touches.comp (slotAct_touches hq2) (by decide) ?_
      exact Touches.refl _ _

theorem slotArm_touches (F) (d) (n) (v) : Touches [.regs, .launch, .gpio, .pmc, .bst, .gon, .str, .lci, .out, .fresh] d (slotArm F d n v) := by
  unfold slotArm
  conv => zeta
  refine Touches.ite ?_ ?_
  · exact Touches.refl _ _
  · refine Touches.ite ?_ ?_
    · refine Touches.comp (slotFire_touches ..) (by decide) ?_
      refine Touches.comp (Dev.setDue_touches ..) (by decide) ?_
      refine Touches.comp (Dev.slotState_touches ..) (by decide) ?_
      refine Touches.comp (Dev.setReg_touches ..) (by decide) ?_
      refine Touches.comp (Dev.setReg_touches ..) (by decide) ?_
      exact Touches.refl _ _
    · refine Touches.comp (Dev.setDue_touches ..) (by decide) ?_
      refine Touches.comp (Dev.slotState_touches ..) (by decide) ?_
      refine Touches.comp (Dev.setReg_touches ..) (by decide) ?_
      refine Touches.comp (Dev.setReg_touches ..) (by decide) ?_
      exact Touches.refl _ _

theorem Dev.slotCancel_touches (d) (n) : Touches [.regs] d (Dev.slotCancel d n) := by
  unfold Dev.slotCancel
  conv => zeta
  refine Touches.ite ?_ ?_
  · refine Touches.ite ?_ ?_
    · refine Touches.comp (Dev.icu_touches ..) (by decide) ?_
      refine Touches.comp (Dev.slotState_touches ..) (by decide) ?_
      refine Touches.comp (Dev.setRbit_touches ..) (by decide) ?_
      exact Touches.refl _ _
    · refine Touches.comp (Dev.slotState_touches ..) (by decide) ?_
      refine Touches.comp (Dev.setRbit_touches ..) (by decide) ?_
      exact Touches.refl _ _
  · exact Touches.refl _ _

theorem Dev.unwait_touches (d) (h) : Touches [.lci] d (Dev.unwait d h) := by
  unfold Dev.unwait
  refine Touches.comp (Touches.put_lci ..) (by decide) ?_
  exact Touches.refl _ _

theorem Dev.unslice_touches (d) (h) : Touches [.bst] d (Dev.unslice d h) := by
  unfold Dev.unslice
  refine Touches.comp (Touches.put_bst ..) (by decide) ?_
  exact Touches.refl _ _

theorem Dev.stopCmd_touches (d) (c) (status) : Touches [.regs, .pmc, .bst, .sec, .str, .lci, .fresh] d (Dev.stopCmd d c status) := by
  unfold Dev.stopCmd
  conv => zeta
  split
  · refine Touches.ite ?_ ?_
    · split
      · refine Touches.comp (Dev.slotCancel_touches ..) (by decide) ?_
        refine Touches.comp (Dev.stopChan_touches ..) (by decide) ?_
        refine Touches.comp (Dev.mapCmd_touches ..) (by decide) ?_
        exact Touches.refl _ _
      · refine Touches.comp (Dev.stopChan_touches ..) (by decide) ?_
        refine Touches.comp (Dev.mapCmd_touches ..) (by decide) ?_
        exact Touches.refl _ _
    · refine Touches.comp (Dev.stopChan_touches ..) (by decide) ?_
      refine Touches.comp (Dev.mapCmd_touches ..) (by decide) ?_
      exact Touches.refl _ _
  · refine Touches.ite ?_ ?_
    · refine Touches.comp (Dev.finish_touches ..) (by decide) ?_
      refine Touches.comp (Dev.dropSnap_touches ..) (by decide) ?_
      split
      · refine Touches.comp (Dev.slotCancel_touches ..) (by decide) ?_
        exact Touches.refl _ _
      · exact Touches.refl _ _
    · refine Touches.ite ?_ ?_
      · refine Touches.comp (Touches.put_sec ..) (by decide) ?_
        refine Touches.comp (Dev.mapCmd_touches ..) (by decide) ?_
        exact Touches.refl _ _
      · refine Touches.ite ?_ ?_
        · refine Touches.comp (Dev.finish_touches ..) (by decide) ?_
          refine Touches.comp (Dev.unwait_touches ..) (by decide) ?_
          exact Touches.refl _ _
        · refine Touches.ite ?_ ?_
          · refine Touches.comp (Dev.finish_touches ..) (by decide) ?_
            refine Touches.comp (Dev.unslice_touches ..) (by decide) ?_
            exact Touches.refl _ _
          · refine Touches.comp (Dev.finish_touches ..) (by decide) ?_
            exact Touches.refl _ _

theorem sendBack_touches (F) (d) (lo) (hi) : Touches [.regs, .a, .b, .log, .aon, .pmc, .gon, .sec, .str, .out] d (sendBack F d lo hi) := by
  unfold sendBack
  refine Touches.foldl (fun _ _ => (selectOne_touches ..).mono (by decide)) ?_
  exact Touches.refl _ _

theorem Dev.invalidateFor_touches (d) (r) (lo) (hi) : Touches [.cache] d (Dev.invalidateFor d r lo hi) := by
  unfold Dev.invalidateFor
  refine Touches.comp (Dev.setCache_touches ..) (by decide) ?_
  refine Touches.comp (Dev.invalidate_touches ..) (by decide) ?_
  exact Touches.refl _ _

theorem twinOff_touches (F) (d) (n) : Touches [.regs, .a, .b, .log, .aon, .pmc, .gon, .cache, .sec, .str, .out] d (twinOff F d n) := by
  unfold twinOff
  conv => zeta
  refine Touches.ite ?_ ?_
  · exact Touches.refl _ _
  · refine Touches.comp (sendBack_touches ..) (by decide) ?_
    refine Touches.comp (Dev.invalidateFor_touches ..) (by decide) ?_
    refine Touches.comp (Dev.setRbit_touches ..) (by decide) ?_
    refine Touches.comp (Dev.setRbit_touches ..) (by decide) ?_
    exact Touches.refl _ _

theorem Dev.grantNext_touches (d) (k) : Touches [.regs, .pmc, .lci] d (Dev.grantNext d k) := by
  unfold Dev.grantNext
  conv => zeta
  split
  · refine Touches.comp (Dev.finish_touches ..) (by decide) ?_
    refine Touches.comp (Touches.put_lci ..) (by decide) ?_
    exact Touches.refl _ _
  · exact Touches.refl _ _

theorem installRead_touches (d) (c) (x) (r) : Touches [.out] d (installRead d c x r) := by
  unfold installRead
  conv => zeta
  refine Touches.ite ?_ ?_
  · exact Touches.refl _ _
  · refine Touches.comp (Dev.emit_touches ..) (by decide) ?_
    exact Touches.refl _ _

theorem Dev.settle_touches (d) (c) : Touches [.regs, .pmc, .str] d (Dev.settle d c) := by
  unfold Dev.settle
  conv => zeta
  split
  · refine Touches.ite ?_ ?_
    · exact Touches.refl _ _
    · refine Touches.ite ?_ ?_
      · refine Touches.comp (Dev.setSchan_touches ..) (by decide) ?_
        exact Touches.refl _ _
      · refine Touches.comp (Dev.count_touches ..) (by decide) ?_
        refine Touches.comp (Dev.setSchan_touches ..) (by decide) ?_
        exact Touches.refl _ _

theorem Dev.markRow_touches (d) (line) : Touches [.tracts] d (Dev.markRow d line) := by
  unfold Dev.markRow
  refine Touches.comp (Touches.put_tracts ..) (by decide) ?_
  exact Touches.refl _ _

theorem installLine_touches {x0} {x1} {x2} {x3} {e} (h : installLine x0 x1 x2 x3 = some e) :
    Touches [.regs, .pmc, .gon, .cache, .media, .tracts, .drift, .sec] x0 e := by
  unfold installLine at h
  extract_lets t en at h
  split at h
  · cases h
  · split at h
    · cases h
    · split at h
      · cases h
      · rename_i d1 hq
        have h1 : Touches [.regs, .pmc, .media, .tracts, .drift, .sec] x0 d1 := by
          split at hq
          · cases hq; exact Touches.refl ..
          · exact Dev.firstHome_touches hq
        extract_lets plain mm l dw d2 at h
        have hw : Touches [.regs, .pmc, .gon, .cache, .media, .tracts, .drift, .sec] x0 dw := Touches.ite (h1.mono (by decide)) (Touches.comp (Dev.wearRow_touches ..) (by decide) (h1.mono (by decide)))
        clear_value dw
        cases h
        exact Touches.comp (Touches.put_drift ..) (by decide) (Touches.comp (Dev.unlose_touches ..) (by decide)
          (Touches.comp (Dev.markRow_touches ..) (by decide) (Touches.comp (Dev.putLine_touches ..) (by decide)
          (Touches.comp (Dev.writeClears_touches ..) (by decide) (Touches.comp (Dev.count_touches ..) (by decide) hw)))))

theorem installOut_touches (d) (c) (r) : Touches [.regs, .pmc, .gon, .cache, .media, .tracts, .drift, .sec, .str, .fresh] d (installOut d c r) := by
  unfold installOut
  conv => zeta
  refine Touches.foldl (fun _ _ => ?_) ?_
  · split
    · exact Touches.refl _ _
    · refine Touches.ite ?_ ?_
      · exact Touches.refl _ _
      · split
        · rename_i hq8
          split
          · refine Touches.ite ?_ ?_
            · refine Touches.comp (Dev.migQueue_touches ..) (by decide) ?_
              exact Touches.refl _ _
            · refine Touches.ite ?_ ?_
              · refine Touches.comp (Dev.migQueue_touches ..) (by decide) ?_
                exact Touches.refl _ _
              · exact Touches.refl _ _
          · rename_i hq10
            refine Touches.comp (Dev.setSchan_touches ..) (by decide) ?_
            refine Touches.comp (installLine_touches hq10) (by decide) ?_
            refine Touches.comp (Dev.free_touches hq8) (by decide) ?_
            exact Touches.refl _ _
  · exact Touches.refl _ _

theorem installNext_touches (d0) (c) : Touches [.regs, .pmc, .gon, .cache, .media, .tracts, .drift, .sec, .str, .fresh] d0 (installNext d0 c) := by
  unfold installNext
  conv => zeta
  split
  · refine Touches.comp (installOut_touches ..) (by decide) ?_
    refine Touches.comp (Dev.settle_touches ..) (by decide) ?_
    exact Touches.refl _ _
  · refine Touches.comp (Dev.settle_touches ..) (by decide) ?_
    exact Touches.refl _ _

theorem installData_touches (d) (c) (data) (st) : Touches [.regs, .pmc, .gon, .cache, .media, .tracts, .drift, .sec, .str, .out, .fresh] d (installData d c data st) := by
  unfold installData
  conv => zeta
  split
  · exact Touches.refl _ _
  · refine Touches.ite ?_ ?_
    · exact Touches.refl _ _
    · refine Touches.ite ?_ ?_
      · refine Touches.comp (Dev.setSchan_touches ..) (by decide) ?_
        refine Touches.comp (Dev.emit_touches ..) (by decide) ?_
        exact Touches.refl _ _
      · refine Touches.ite ?_ ?_
        · exact Touches.refl _ _
        · refine Touches.comp (installNext_touches ..) (by decide) ?_
          refine Touches.comp (installRead_touches ..) (by decide) ?_
          refine Touches.comp (Dev.setSchan_touches ..) (by decide) ?_
          exact Touches.refl _ _

theorem twinRange_touches (F) (d) (h) (n) (off) (v) : Touches [.regs] d (twinRange F d h n off v) := by
  unfold twinRange
  conv => zeta
  refine Touches.ite ?_ ?_
  · exact Touches.refl _ _
  · refine Touches.ite ?_ ?_
    · refine Touches.comp (Dev.setReg_touches ..) (by decide) ?_
      exact Touches.refl _ _
    · refine Touches.comp (Dev.setReg_touches ..) (by decide) ?_
      exact Touches.refl _ _

theorem twinRefuse_touches (F) (d) (w) (reason) : Touches [.regs, .a, .b, .out] d (twinRefuse F d w reason) := by
  unfold twinRefuse
  refine Touches.comp (postAt_touches ..) (by decide) ?_
  refine Touches.ite ?_ ?_
  · exact Touches.refl _ _
  · refine Touches.comp (Dev.setReg_touches ..) (by decide) ?_
    exact Touches.refl _ _

theorem twinWrite_touches (x0) (x1) (x2) (x3) (x4) :
    Touches [.regs, .a, .b, .log, .aon, .pmc, .gon, .cache, .tracts, .sec, .str, .lci, .out] x1 (twinWrite x0 x1 x2 x3 x4) := by
  unfold twinWrite
  extract_lets off fresh lock mode word d1
  have hl : ∀ d : Dev, Touches [.regs, .a, .b, .log, .aon, .pmc, .gon, .cache, .tracts, .sec, .str, .lci, .out] d (lock d) := fun d =>
    Touches.ite (Touches.comp (Touches.put_a_b ..) (by decide) ((Dev.setRbit_touches ..).mono (by decide))) (Touches.refl ..)
  have h1 : Touches [.regs] x1 d1 := Dev.setReg_touches ..
  refine Touches.ite (Touches.refl ..) (Touches.ite (hl _) (Touches.ite ?_ (Touches.ite ?_ ?_)))
  · exact Touches.comp (hl _) (by decide) (Touches.ite (Touches.refl ..) ((twinOff_touches ..).mono (by decide)))
  · exact Touches.comp (hl _) (by decide) (h1.mono (by decide))
  · split
    · exact Touches.comp (hl _) (by decide) (Touches.comp (twinRefuse_touches ..) (by decide) (h1.mono (by decide)))
    · exact Touches.comp (hl _) (by decide) (Touches.comp (Dev.rekeyResume_touches ..) (by decide) (Touches.comp (Dev.setRbit_touches ..) (by decide) (h1.mono (by decide))))

theorem Dev.abandon_touches (d) (k) : Touches [.lci] d (Dev.abandon d k) := by
  unfold Dev.abandon
  refine Touches.comp (Touches.put_lci ..) (by decide) ?_
  exact Touches.refl _ _

theorem Dev.abandonLocks_touches (d) (n) : Touches [.regs, .pmc, .lci] d (Dev.abandonLocks d n) := by
  unfold Dev.abandonLocks
  refine Touches.foldl (fun _ _ => ?_) ?_
  · refine Touches.comp (Dev.grantNext_touches ..) (by decide) ?_
    refine Touches.comp (Dev.abandon_touches ..) (by decide) ?_
    exact Touches.refl _ _
  · exact Touches.refl _ _

theorem qpOff_touches (d) (n) : Touches [.regs, .pmc, .bst, .sec, .str, .lci, .fresh] d (qpOff d n) := by
  unfold qpOff
  refine Touches.foldl (fun _ _ => ?_) ?_
  · split
    · refine Touches.ite ?_ ?_
      · refine Touches.comp (Dev.stopCmd_touches ..) (by decide) ?_
        exact Touches.refl _ _
      · exact Touches.refl _ _
    · exact Touches.refl _ _
  · refine Touches.comp (Dev.abandonLocks_touches ..) (by decide) ?_
    refine Touches.comp (Dev.setRbit_touches ..) (by decide) ?_
    exact Touches.refl _ _

theorem qpWrite_touches (F) (d) (n) (v) : Touches [.regs, .lci] d (qpWrite F d n v) := by
  unfold qpWrite
  conv => zeta
  refine Touches.ite ?_ ?_
  · refine Touches.comp (Dev.setQp_touches ..) (by decide) ?_
    refine Touches.comp (Dev.setReg_touches ..) (by decide) ?_
    refine Touches.comp (Dev.setReg_touches ..) (by decide) ?_
    refine Touches.comp (Dev.setReg_touches ..) (by decide) ?_
    exact Touches.refl _ _
  · refine Touches.comp (Dev.setReg_touches ..) (by decide) ?_
    exact Touches.refl _ _

theorem qpCfgWrite_touches (F) (d) (h) (n) (v) : Touches [.regs, .pmc, .bst, .sec, .str, .lci, .fresh] d (qpCfgWrite F d h n v) := by
  unfold qpCfgWrite
  refine Touches.ite ?_ ?_
  · exact Touches.refl _ _
  · refine Touches.ite ?_ ?_
    · refine Touches.ite ?_ ?_
      · exact Touches.refl _ _
      · refine Touches.comp (qpOff_touches ..) (by decide) ?_
        exact Touches.refl _ _
    · refine Touches.ite ?_ ?_
      · refine Touches.comp (qpWrite_touches ..) (by decide) ?_
        exact Touches.refl _ _
      · exact Touches.refl _ _

theorem Dev.dbErr_touches (d) (n) : Touches [.lci] d (Dev.dbErr d n) := by
  unfold Dev.dbErr
  refine Touches.comp (Dev.setQp_touches ..) (by decide) ?_
  exact Touches.refl _ _

theorem sqDoor_touches (F) (d) (h) (n) (v) : Touches [.regs, .lci] d (sqDoor F d h n v) := by
  unfold sqDoor
  conv => zeta
  refine Touches.ite ?_ ?_
  · exact Touches.refl _ _
  · refine Touches.ite ?_ ?_
    · refine Touches.comp (Dev.dbErr_touches ..) (by decide) ?_
      exact Touches.refl _ _
    · refine Touches.comp (Dev.setReg_touches ..) (by decide) ?_
      exact Touches.refl _ _

theorem cqDoor_touches (F) (d) (h) (n) (v) : Touches [.regs, .lci] d (cqDoor F d h n v) := by
  unfold cqDoor
  conv => zeta
  refine Touches.ite ?_ ?_
  · exact Touches.refl _ _
  · refine Touches.ite ?_ ?_
    · refine Touches.comp (Dev.dbErr_touches ..) (by decide) ?_
      exact Touches.refl _ _
    · refine Touches.ite ?_ ?_
      · refine Touches.comp (Dev.setReg_touches ..) (by decide) ?_
        exact Touches.refl _ _
      · refine Touches.comp (Dev.icu_touches ..) (by decide) ?_
        refine Touches.comp (Dev.setReg_touches ..) (by decide) ?_
        exact Touches.refl _ _

theorem slotDisarm_touches (F) (d) (n) (v) : Touches [.regs, .launch, .gpio, .pmc, .bst, .gon, .str, .lci, .out, .fresh] d (slotDisarm F d n v) := by
  unfold slotDisarm
  refine Touches.ite ?_ ?_
  · refine Touches.ite ?_ ?_
    · refine Touches.comp (slotFire_touches ..) (by decide) ?_
      exact Touches.refl _ _
    · refine Touches.comp (Dev.slotState_touches ..) (by decide) ?_
      refine Touches.comp (Dev.setRbit_touches ..) (by decide) ?_
      exact Touches.refl _ _
  · refine Touches.comp (Dev.setReg_touches ..) (by decide) ?_
    exact Touches.refl _ _

theorem slotWrite_touches (F) (d) (h) (n) (v) : Touches [.regs, .launch, .gpio, .pmc, .bst, .gon, .str, .lci, .out, .fresh] d (slotWrite F d h n v) := by
  unfold slotWrite
  refine Touches.ite ?_ ?_
  · exact Touches.refl _ _
  · refine Touches.ite ?_ ?_
    · refine Touches.comp (slotArm_touches ..) (by decide) ?_
      exact Touches.refl _ _
    · refine Touches.comp (slotDisarm_touches ..) (by decide) ?_
      exact Touches.refl _ _

theorem cntWrite_touches (F) (d) (h) (n) (v) : Touches [.regs, .pmc] d (cntWrite F d h n v) := by
  unfold cntWrite
  refine Touches.ite ?_ ?_
  · exact Touches.refl _ _
  · refine Touches.comp (Touches.put_pmc ..) (by decide) ?_
    refine Touches.comp (Dev.setReg_touches ..) (by decide) ?_
    exact Touches.refl _ _

theorem histWrite_touches (F) (d) (h) (i) (v) : Touches [.regs, .pmc] d (histWrite F d h i v) := by
  unfold histWrite
  conv => zeta
  refine Touches.ite ?_ ?_
  · exact Touches.refl _ _
  · refine Touches.ite ?_ ?_
    · refine Touches.comp (Touches.put_pmc ..) (by decide) ?_
      refine Touches.comp (Dev.setReg_touches ..) (by decide) ?_
      exact Touches.refl _ _
    · refine Touches.comp (Dev.setReg_touches ..) (by decide) ?_
      exact Touches.refl _ _

theorem pmcCtl_touches (F) (d) (h) (v) : Touches [.regs, .pmc] d (pmcCtl F d h v) := by
  unfold pmcCtl
  conv => zeta
  refine Touches.ite ?_ ?_
  · refine Touches.comp (Dev.snapHist_touches ..) (by decide) ?_
    refine Touches.ite ?_ ?_
    · refine Touches.comp (Dev.snapCounters_touches ..) (by decide) ?_
      refine Touches.comp (Dev.setFld_touches ..) (by decide) ?_
      exact Touches.refl _ _
    · refine Touches.comp (Dev.setFld_touches ..) (by decide) ?_
      exact Touches.refl _ _
  · refine Touches.ite ?_ ?_
    · refine Touches.comp (Dev.snapCounters_touches ..) (by decide) ?_
      refine Touches.comp (Dev.setFld_touches ..) (by decide) ?_
      exact Touches.refl _ _
    · refine Touches.comp (Dev.setFld_touches ..) (by decide) ?_
      exact Touches.refl _ _

theorem Dev.gpioEnd_touches (d) (pin) : Touches [.regs, .tether, .gpio, .pmc, .media, .out] d (Dev.gpioEnd d pin) := by
  unfold Dev.gpioEnd
  conv => zeta
  split
  · exact Touches.refl _ _
  · refine Touches.comp (Dev.emit_touches ..) (by decide) ?_
    refine Touches.comp (Touches.put_gpio ..) (by decide) ?_
    refine Touches.comp (Dev.advance_touches ..) (by decide) ?_
    exact Touches.refl _ _

theorem Dev.slotClear_touches (d) (n) : Touches [.regs, .launch] d (Dev.slotClear d n) := by
  unfold Dev.slotClear
  refine Touches.comp (Touches.put_launch ..) (by decide) ?_
  refine Touches.comp (Dev.resetRange_touches ..) (by decide) ?_
  exact Touches.refl _ _

theorem Dev.snapBuild_touches (d) (h) : Touches [.tracts, .str] d (Dev.snapBuild d h) := by
  unfold Dev.snapBuild
  conv => zeta
  split
  · exact Touches.refl _ _
  · refine Touches.ite ?_ ?_
    · exact Touches.refl _ _
    · refine Touches.ite ?_ ?_
      · refine Touches.foldl (fun _ _ => ?_) ?_
        · refine Touches.comp (Dev.tcTouch_touches ..) (by decide) ?_
          exact Touches.refl _ _
        · refine Touches.comp (Dev.setMeta_touches ..) (by decide) ?_
          refine Touches.comp (Dev.setHdr_touches ..) (by decide) ?_
          refine Touches.comp (Dev.setEnt_touches ..) (by decide) ?_
          refine Touches.comp (Dev.setEnt_touches ..) (by decide) ?_
          refine Touches.comp (Dev.setPhys_touches ..) (by decide) ?_
          refine Touches.comp (Dev.mapSnap_touches ..) (by decide) ?_
          exact Touches.refl _ _
      · refine Touches.ite ?_ ?_
        · refine Touches.comp (Dev.setMeta_touches ..) (by decide) ?_
          refine Touches.comp (Dev.setHdr_touches ..) (by decide) ?_
          refine Touches.comp (Dev.setEnt_touches ..) (by decide) ?_
          refine Touches.comp (Dev.mapSnap_touches ..) (by decide) ?_
          exact Touches.refl _ _
        · refine Touches.comp (Dev.mapSnap_touches ..) (by decide) ?_
          exact Touches.refl _ _

theorem Dev.snapDone_touches (d) (h) : Touches [.regs, .pmc, .str, .lci] d (Dev.snapDone d h) := by
  unfold Dev.snapDone
  split
  · exact Touches.refl _ _
  · split
    · exact Touches.refl _ _
    · refine Touches.ite ?_ ?_
      · exact Touches.refl _ _
      · refine Touches.comp (Dev.finish_touches ..) (by decide) ?_
        refine Touches.comp (Dev.icu_touches ..) (by decide) ?_
        refine Touches.comp (Dev.dropSnap_touches ..) (by decide) ?_
        exact Touches.refl _ _

theorem slotDue_touches (F) (d) (n) : Touches [.regs, .tether, .launch, .gpio, .pmc, .bst, .gon, .media, .str, .lci, .out, .fresh] d (slotDue F d n) := by
  unfold slotDue
  refine Touches.ite ?_ ?_
  · exact Touches.refl _ _
  · refine Touches.ite ?_ ?_
    · refine Touches.comp (slotFire_touches ..) (by decide) ?_
      refine Touches.comp (Dev.advance_touches ..) (by decide) ?_
      refine Touches.comp (Dev.setDue_touches ..) (by decide) ?_
      refine Touches.comp (Dev.setFld_touches ..) (by decide) ?_
      refine Touches.comp (Dev.setReg64_touches ..) (by decide) ?_
      exact Touches.refl _ _
    · refine Touches.comp (slotFire_touches ..) (by decide) ?_
      refine Touches.comp (Dev.advance_touches ..) (by decide) ?_
      exact Touches.refl _ _

theorem clearCmd_touches (cause) (d) (c) : Touches [.regs, .str, .lci, .fresh] d (clearCmd cause d c) := by
  unfold clearCmd
  conv => zeta
  refine Touches.ite ?_ ?_
  · refine Touches.comp (Dev.dropCmd_touches ..) (by decide) ?_
    refine Touches.comp (Dev.dropSnap_touches ..) (by decide) ?_
    refine Touches.comp (Dev.unwait_touches ..) (by decide) ?_
    split
    · refine Touches.comp (Dev.setSchan_touches ..) (by decide) ?_
      split
      · refine Touches.comp (Dev.slotCancel_touches ..) (by decide) ?_
        exact Touches.refl _ _
      · exact Touches.refl _ _
    · split
      · refine Touches.comp (Dev.slotCancel_touches ..) (by decide) ?_
        exact Touches.refl _ _
      · exact Touches.refl _ _
  · split
    · refine Touches.comp (Dev.stopChan_touches ..) (by decide) ?_
      refine Touches.comp (Dev.mapCmd_touches ..) (by decide) ?_
      refine Touches.comp (Dev.mapCmd_touches ..) (by decide) ?_
      exact Touches.refl _ _
    · refine Touches.comp (Dev.mapCmd_touches ..) (by decide) ?_
      exact Touches.refl _ _

theorem clearPairs_touches (F) (d) (pairs) (cause) : Touches [.regs, .keel, .log, .aon, .pmc, .str, .lci, .fresh] d (clearPairs F d pairs cause) := by
  unfold clearPairs
  refine Touches.comp (uwlAdd_touches ..) (by decide) ?_
  refine Touches.foldl (fun _ _ => ?_) ?_
  · refine Touches.comp (Dev.abandonLocks_touches ..) (by decide) ?_
    refine Touches.comp (Dev.setQp_touches ..) (by decide) ?_
    refine Touches.comp (Dev.setRbit_touches ..) (by decide) ?_
    exact Touches.refl _ _
  · refine Touches.foldl (fun _ _ => (clearCmd_touches ..).mono (by decide)) ?_
    exact Touches.refl _ _

theorem peekLow_touches {x0} {x1} {x2} {x3} {x4} {x5} {r e} (h : peekLow x0 x1 x2 x3 x4 x5 = (r, e)) :
    Touches [.regs, .a, .b, .log, .aon, .pmc, .cache, .sec, .out] x1 e := by
  unfold peekLow at h
  split at h
  · cases h; exact (Dev.useHit_touches ..).mono (by decide)
  · split at h
    · cases h; exact Touches.refl ..
    · cases h; exact Touches.refl ..
    · split at h
      · exact (Dev.openLine_touches h).mono (by decide)
      · exact (Dev.openLine_touches h).mono (by decide)
      · cases h; exact Touches.refl ..
      · cases h; exact Touches.refl ..

theorem peekLine_touches {x0} {x1} {x2} {x3} {x4} {x5} {r e} (h : peekLine x0 x1 x2 x3 x4 x5 = (r, e)) :
    Touches [.regs, .a, .b, .log, .aon, .pmc, .gon, .cache, .sec, .str, .out] x1 e := by
  have hE : ∀ w g (o : Val × Dev), Touches [.regs, .a, .b, .log, .aon, .pmc, .gon, .cache, .sec, .str, .out] x1 o.2 → Touches [.regs, .a, .b, .log, .aon, .pmc, .gon, .cache, .sec, .str, .out] x1 (peekEntry x0 x4 w g o).2 := by
    intro w g o ho
    unfold peekEntry
    split
    · refine Touches.comp (Dev.count_touches ..) (by decide) ?_
      exact Touches.ite (Touches.comp (Dev.setWb_touches ..) (by decide) ho) (Touches.comp (Dev.setStaged_touches ..) (by decide) ho)
    · exact Touches.comp (dropEntry_touches ..) (by decide) ho
  unfold peekLine at h
  extract_lets whole under at h
  have hu : Touches [.regs, .a, .b, .log, .aon, .pmc, .gon, .cache, .sec, .str, .out] x1 under.2 := by
    simp only [under]
    split
    · exact (peekLow_touches rfl).mono (by decide)
    · split
      · exact Touches.refl ..
      · exact hE _ _ _ ((peekLow_touches rfl).mono (by decide))
  clear_value under
  split at h
  · cases h; exact Touches.refl ..
  · split at h
    · cases h; exact hu
    · rename_i g _
      have := hE false g _ hu
      rw [h] at this; exact this

theorem peekAddr_touches {x0} {x1} {x2} {x3} {x4} {x5} {x6} {r e} (h : peekAddr x0 x1 x2 x3 x4 x5 x6 = (r, e)) :
    Touches [.regs, .a, .b, .log, .aon, .pmc, .gon, .cache, .sec, .str, .out] x1 e := by
  unfold peekAddr at h
  split at h
  · cases h; exact Touches.refl ..
  · cases h; exact Touches.refl ..
  · exact peekLine_touches h

theorem Dev.ctrWindow_touches (d) (w) : Touches [.sec] d (Dev.ctrWindow d w) := by
  unfold Dev.ctrWindow
  refine Touches.foldl (fun _ _ => ?_) ?_
  · refine Touches.foldl (fun _ _ => ?_) ?_
    · refine Touches.comp (Dev.ctrBack_touches ..) (by decide) ?_
      exact Touches.refl _ _
    · exact Touches.refl _ _
  · exact Touches.refl _ _

theorem Dev.freeChan_touches (d) (h) : Touches [.str] d (Dev.freeChan d h) := by
  unfold Dev.freeChan
  refine Touches.comp (Touches.put_str ..) (by decide) ?_
  exact Touches.refl _ _

theorem Dev.qpIdle_touches (d) (n) : Touches [.lci] d (Dev.qpIdle d n) := by
  unfold Dev.qpIdle
  refine Touches.ite ?_ ?_
  · refine Touches.comp (Dev.setQp_touches ..) (by decide) ?_
    exact Touches.refl _ _
  · exact Touches.refl _ _

theorem cqWrite_touches (F) (d) (h) (parity) : Touches [.regs, .log, .aon, .pmc, .str, .lci, .out] d (cqWrite F d h parity) := by
  unfold cqWrite
  conv => zeta
  split
  · exact Touches.refl _ _
  · refine Touches.ite ?_ ?_
    · exact Touches.refl _ _
    · refine Touches.ite ?_ ?_
      · refine Touches.comp (Dev.setQp_touches ..) (by decide) ?_
        refine Touches.ite ?_ ?_
        · refine Touches.comp (Dev.msixSend_touches ..) (by decide) ?_
          refine Touches.comp (Dev.emit_touches ..) (by decide) ?_
          refine Touches.comp (Dev.count_touches ..) (by decide) ?_
          refine Touches.comp (Dev.latency_touches ..) (by decide) ?_
          refine Touches.comp (Dev.freeChan_touches ..) (by decide) ?_
          refine Touches.comp (Dev.dropCmd_touches ..) (by decide) ?_
          refine Touches.comp (Dev.setQp_touches ..) (by decide) ?_
          refine Touches.ite ?_ ?_
          · refine Touches.comp (Touches.put_lci ..) (by decide) ?_
            refine Touches.comp (Dev.icu_touches ..) (by decide) ?_
            refine Touches.comp (Dev.event_touches ..) (by decide) ?_
            exact Touches.refl _ _
          · exact Touches.refl _ _
        · refine Touches.comp (Dev.emit_touches ..) (by decide) ?_
          refine Touches.comp (Dev.count_touches ..) (by decide) ?_
          refine Touches.comp (Dev.latency_touches ..) (by decide) ?_
          refine Touches.comp (Dev.freeChan_touches ..) (by decide) ?_
          refine Touches.comp (Dev.dropCmd_touches ..) (by decide) ?_
          refine Touches.comp (Dev.setQp_touches ..) (by decide) ?_
          refine Touches.ite ?_ ?_
          · refine Touches.comp (Touches.put_lci ..) (by decide) ?_
            refine Touches.comp (Dev.icu_touches ..) (by decide) ?_
            refine Touches.comp (Dev.event_touches ..) (by decide) ?_
            exact Touches.refl _ _
          · exact Touches.refl _ _
      · refine Touches.ite ?_ ?_
        · refine Touches.comp (Dev.msixSend_touches ..) (by decide) ?_
          refine Touches.comp (Dev.emit_touches ..) (by decide) ?_
          refine Touches.comp (Dev.count_touches ..) (by decide) ?_
          refine Touches.comp (Dev.latency_touches ..) (by decide) ?_
          refine Touches.comp (Dev.freeChan_touches ..) (by decide) ?_
          refine Touches.comp (Dev.dropCmd_touches ..) (by decide) ?_
          refine Touches.comp (Dev.setQp_touches ..) (by decide) ?_
          refine Touches.ite ?_ ?_
          · refine Touches.comp (Touches.put_lci ..) (by decide) ?_
            refine Touches.comp (Dev.icu_touches ..) (by decide) ?_
            refine Touches.comp (Dev.event_touches ..) (by decide) ?_
            exact Touches.refl _ _
          · exact Touches.refl _ _
        · refine Touches.comp (Dev.emit_touches ..) (by decide) ?_
          refine Touches.comp (Dev.count_touches ..) (by decide) ?_
          refine Touches.comp (Dev.latency_touches ..) (by decide) ?_
          refine Touches.comp (Dev.freeChan_touches ..) (by decide) ?_
          refine Touches.comp (Dev.dropCmd_touches ..) (by decide) ?_
          refine Touches.comp (Dev.setQp_touches ..) (by decide) ?_
          refine Touches.ite ?_ ?_
          · refine Touches.comp (Touches.put_lci ..) (by decide) ?_
            refine Touches.comp (Dev.icu_touches ..) (by decide) ?_
            refine Touches.comp (Dev.event_touches ..) (by decide) ?_
            exact Touches.refl _ _
          · exact Touches.refl _ _

theorem sqTake_touches (F) (d) (n) (entry) (parity) : Touches [.regs, .log, .aon, .pmc, .lci] d (sqTake F d n entry parity) := by
  unfold sqTake
  conv => zeta
  refine Touches.ite ?_ ?_
  · exact Touches.refl _ _
  · refine Touches.ite ?_ ?_
    · refine Touches.comp (Touches.put_lci ..) (by decide) ?_
      refine Touches.comp (Dev.finish_touches ..) (by decide) ?_
      refine Touches.comp (Dev.icu_touches ..) (by decide) ?_
      refine Touches.comp (Dev.event_touches ..) (by decide) ?_
      refine Touches.ite ?_ ?_
      · refine Touches.comp (Dev.icu_touches ..) (by decide) ?_
        refine Touches.comp (Dev.count_touches ..) (by decide) ?_
        refine Touches.comp (Dev.setQp_touches ..) (by decide) ?_
        refine Touches.comp (Touches.put_lci ..) (by decide) ?_
        exact Touches.refl _ _
      · refine Touches.ite ?_ ?_
        · refine Touches.comp (Dev.count_touches ..) (by decide) ?_
          refine Touches.comp (Dev.count_touches ..) (by decide) ?_
          refine Touches.comp (Dev.setQp_touches ..) (by decide) ?_
          refine Touches.comp (Touches.put_lci ..) (by decide) ?_
          exact Touches.refl _ _
        · refine Touches.comp (Dev.count_touches ..) (by decide) ?_
          refine Touches.comp (Dev.setQp_touches ..) (by decide) ?_
          refine Touches.comp (Touches.put_lci ..) (by decide) ?_
          exact Touches.refl _ _
    · refine Touches.ite ?_ ?_
      · refine Touches.comp (Dev.icu_touches ..) (by decide) ?_
        refine Touches.comp (Dev.count_touches ..) (by decide) ?_
        refine Touches.comp (Dev.setQp_touches ..) (by decide) ?_
        refine Touches.comp (Touches.put_lci ..) (by decide) ?_
        exact Touches.refl _ _
      · refine Touches.ite ?_ ?_
        · refine Touches.comp (Dev.count_touches ..) (by decide) ?_
          refine Touches.comp (Dev.count_touches ..) (by decide) ?_
          refine Touches.comp (Dev.setQp_touches ..) (by decide) ?_
          refine Touches.comp (Touches.put_lci ..) (by decide) ?_
          exact Touches.refl _ _
        · refine Touches.comp (Dev.count_touches ..) (by decide) ?_
          refine Touches.comp (Dev.setQp_touches ..) (by decide) ?_
          refine Touches.comp (Touches.put_lci ..) (by decide) ?_
          exact Touches.refl _ _

theorem Dev.finishList_touches (d) (c) : Touches [.regs, .pmc, .str, .lci] d (Dev.finishList d c) := by
  unfold Dev.finishList
  conv => zeta
  refine Touches.ite ?_ ?_
  · refine Touches.comp (Dev.setSchan_touches ..) (by decide) ?_
    refine Touches.comp (Dev.finish_touches ..) (by decide) ?_
    exact Touches.refl _ _
  · refine Touches.comp (Dev.finish_touches ..) (by decide) ?_
    exact Touches.refl _ _

theorem Dev.laneTurn_touches (d) (c) (got) : Touches [.str] d (Dev.laneTurn d c got) := by
  unfold Dev.laneTurn
  refine Touches.comp (Touches.put_str ..) (by decide) ?_
  exact Touches.refl _ _

theorem Dev.listRead_touches (d) (h) (a) (c) : Touches [.out] d (Dev.listRead d h a c) := by
  unfold Dev.listRead
  conv => zeta
  refine Touches.ite ?_ ?_
  · refine Touches.comp (Dev.emit_touches ..) (by decide) ?_
    refine Touches.comp (Dev.emit_touches ..) (by decide) ?_
    exact Touches.refl _ _
  · refine Touches.comp (Dev.emit_touches ..) (by decide) ?_
    exact Touches.refl _ _

theorem Dev.pump_touches (d) (c) : Touches [.str] d (Dev.pump d c) := by
  unfold Dev.pump
  refine Touches.comp (Dev.setSchan_touches ..) (by decide) ?_
  exact Touches.refl _ _

theorem confirmed_touches (d) (c) : Touches [.regs, .pmc, .str] d (confirmed d c) := by
  unfold confirmed
  conv => zeta
  split
  · exact Touches.refl _ _
  · refine Touches.ite ?_ ?_
    · refine Touches.comp (Dev.settle_touches ..) (by decide) ?_
      refine Touches.comp (Dev.count_touches ..) (by decide) ?_
      refine Touches.comp (Dev.setSchan_touches ..) (by decide) ?_
      exact Touches.refl _ _
    · refine Touches.comp (Dev.setSchan_touches ..) (by decide) ?_
      exact Touches.refl _ _

theorem copyPut_touches {x0} {x1} {x2} {x3} {x4} {e} (h : copyPut x0 x1 x2 x3 x4 = some e) :
    Touches [.regs, .a, .b, .keel, .log, .aon, .pmc, .gon, .cache, .drift, .str, .out] x1 e := by
  obtain ⟨line, v, m, bad⟩ := x4
  unfold copyPut at h
  dsimp only at h
  split at h
  · cases h
  · split at h
    · cases h
    · split at h
      · split at h
        · obtain rfl := Option.some.inj h
          refine Touches.comp (Dev.setSchan_touches ..) (by decide) ?_
          refine Touches.ite (Touches.comp (Dev.setCache_touches ..) (by decide) ((recordPoison_touches ..).mono (by decide))) (Touches.ite ((Dev.setCache_touches ..).mono (by decide))
            (Touches.ite ((partialLoss_touches ..).mono (by decide)) ((Dev.setCache_touches ..).mono (by decide))))
        · obtain rfl := Option.some.inj h; exact (Dev.setSchan_touches ..).mono (by decide)
      · split at h
        · obtain rfl := Option.some.inj h; exact (Dev.setSchan_touches ..).mono (by decide)
        · split at h
          · obtain rfl := Option.some.inj h; exact (Dev.setSchan_touches ..).mono (by decide)
          · split at h
            · cases h
            · obtain rfl := Option.some.inj h
              refine Touches.comp (acceptWrite_touches ..) (by decide) (Touches.comp (Dev.setSchan_touches ..) (by decide) ?_)
              exact Touches.ite ((recordPoison_touches ..).mono (by decide)) (Touches.refl ..)

theorem copyOut_touches (x0) (x1) (x2) (x3) :
    Touches [.regs, .a, .b, .keel, .log, .aon, .pmc, .gon, .cache, .drift, .str, .out] x1 (copyOut x0 x1 x2 x3) := by
  unfold copyOut
  extract_lets x q out n d1
  have h1 : Touches [.regs, .a, .b, .keel, .log, .aon, .pmc, .gon, .cache, .drift, .str, .out] x1 d1 := by
    refine Touches.foldl (fun a j => ?_) (Touches.refl ..)
    split
    · refine Touches.ite ?_ (Touches.refl ..)
      rcases hc : copyPut x0 a x2 x3.idx (copyLine q.dst out j) with _ | e
      · exact Touches.refl ..
      · exact copyPut_touches hc
    · exact Touches.refl ..
  split
  · exact Touches.ite h1 (Touches.comp (Dev.setSchan_touches ..) (by decide) h1)
  · exact h1

theorem descFetch_touches (F) (d) (c) (host) (fail) : Touches [.regs, .a, .b, .log, .aon, .pmc, .gon, .cache, .sec, .str, .out, .fresh] d (descFetch F d c host fail) := by
  unfold descFetch
  conv => zeta
  refine Touches.ite ?_ ?_
  · exact Touches.refl _ _
  · refine Touches.ite ?_ ?_
    · split
      · refine Touches.comp (Dev.setSchan_touches ..) (by decide) ?_
        exact Touches.refl _ _
      · split
        · rename_i hq8
          refine Touches.comp (Dev.setSchan_touches ..) (by decide) ?_
          refine Touches.comp (Dev.free_touches hq8) (by decide) ?_
          exact Touches.refl _ _
    · refine Touches.ite ?_ ?_
      · split
        · rename_i hq8
          refine Touches.comp (Dev.setSchan_touches ..) (by decide) ?_
          refine Touches.comp (Dev.free_touches hq8) (by decide) ?_
          refine Touches.comp (Dev.emit_touches ..) (by decide) ?_
          refine Touches.comp (Dev.listRead_touches ..) (by decide) ?_
          exact Touches.refl _ _
      · refine Touches.comp (Dev.setSchan_touches ..) (by decide) ?_
        refine Touches.comp (Dev.listRead_touches ..) (by decide) ?_
        exact Touches.refl _ _

theorem descStart_touches (F) (d0) (c) : Touches [.regs, .pmc, .str, .out] d0 (descStart F d0 c) := by
  unfold descStart
  conv => zeta
  refine Touches.ite ?_ ?_
  · refine Touches.comp (Dev.settle_touches ..) (by decide) ?_
    exact Touches.refl _ _
  · split
    · refine Touches.comp (Dev.settle_touches ..) (by decide) ?_
      exact Touches.refl _ _
    · refine Touches.ite ?_ ?_
      · refine Touches.comp (Dev.setSchan_touches ..) (by decide) ?_
        refine Touches.comp (Dev.settle_touches ..) (by decide) ?_
        exact Touches.refl _ _
      · refine Touches.ite ?_ ?_
        · refine Touches.ite ?_ ?_
          · refine Touches.comp (Dev.setSchan_touches ..) (by decide) ?_
            refine Touches.comp (Dev.settle_touches ..) (by decide) ?_
            exact Touches.refl _ _
          · refine Touches.comp (Dev.setSchan_touches ..) (by decide) ?_
            refine Touches.comp (Dev.settle_touches ..) (by decide) ?_
            exact Touches.refl _ _
        · refine Touches.ite ?_ ?_
          · refine Touches.comp (Dev.setSchan_touches ..) (by decide) ?_
            refine Touches.comp (Dev.settle_touches ..) (by decide) ?_
            exact Touches.refl _ _
          · refine Touches.ite ?_ ?_
            · refine Touches.comp (Dev.setSchan_touches ..) (by decide) ?_
              refine Touches.comp (Dev.settle_touches ..) (by decide) ?_
              exact Touches.refl _ _
            · refine Touches.ite ?_ ?_
              · refine Touches.comp (Dev.setSchan_touches ..) (by decide) ?_
                refine Touches.comp (Dev.settle_touches ..) (by decide) ?_
                exact Touches.refl _ _
              · refine Touches.ite ?_ ?_
                · refine Touches.comp (Dev.settle_touches ..) (by decide) ?_
                  exact Touches.refl _ _
                · refine Touches.ite ?_ ?_
                  · refine Touches.comp (Dev.laneTurn_touches ..) (by decide) ?_
                    refine Touches.comp (Dev.settle_touches ..) (by decide) ?_
                    exact Touches.refl _ _
                  · refine Touches.ite ?_ ?_
                    · refine Touches.comp (installRead_touches ..) (by decide) ?_
                      refine Touches.comp (Dev.setSchan_touches ..) (by decide) ?_
                      refine Touches.comp (Dev.settle_touches ..) (by decide) ?_
                      exact Touches.refl _ _
                    · refine Touches.ite ?_ ?_
                      · refine Touches.comp (Dev.pump_touches ..) (by decide) ?_
                        refine Touches.comp (Dev.laneTurn_touches ..) (by decide) ?_
                        refine Touches.comp (Dev.setSchan_touches ..) (by decide) ?_
                        refine Touches.comp (Dev.settle_touches ..) (by decide) ?_
                        exact Touches.refl _ _
                      · refine Touches.comp (Dev.pump_touches ..) (by decide) ?_
                        refine Touches.comp (Dev.setSchan_touches ..) (by decide) ?_
                        refine Touches.comp (Dev.settle_touches ..) (by decide) ?_
                        exact Touches.refl _ _

theorem expandCheck_touches (F) (d) (c) (r) : Touches [.str] d (expandCheck F d c r) := by
  unfold expandCheck
  conv => zeta
  split
  · refine Touches.ite ?_ ?_
    · refine Touches.comp (Dev.setSchan_touches ..) (by decide) ?_
      exact Touches.refl _ _
    · exact Touches.refl _ _

theorem listEnd_touches (d0) (c) : Touches [.regs, .pmc, .str, .lci] d0 (listEnd d0 c) := by
  unfold listEnd
  conv => zeta
  refine Touches.ite ?_ ?_
  · refine Touches.comp (Dev.settle_touches ..) (by decide) ?_
    exact Touches.refl _ _
  · split
    · refine Touches.comp (Dev.finishList_touches ..) (by decide) ?_
      refine Touches.ite ?_ ?_
      · refine Touches.ite ?_ ?_
        · refine Touches.comp (Dev.icu_touches ..) (by decide) ?_
          refine Touches.comp (Dev.count_touches ..) (by decide) ?_
          refine Touches.comp (Dev.setSchan_touches ..) (by decide) ?_
          refine Touches.comp (Dev.settle_touches ..) (by decide) ?_
          exact Touches.refl _ _
        · refine Touches.comp (Dev.count_touches ..) (by decide) ?_
          refine Touches.comp (Dev.icu_touches ..) (by decide) ?_
          refine Touches.comp (Dev.count_touches ..) (by decide) ?_
          refine Touches.comp (Dev.setSchan_touches ..) (by decide) ?_
          refine Touches.comp (Dev.settle_touches ..) (by decide) ?_
          exact Touches.refl _ _
      · refine Touches.comp (Dev.bump_touches ..) (by decide) ?_
        refine Touches.ite ?_ ?_
        · refine Touches.comp (Dev.icu_touches ..) (by decide) ?_
          refine Touches.comp (Dev.count_touches ..) (by decide) ?_
          refine Touches.comp (Dev.setSchan_touches ..) (by decide) ?_
          refine Touches.comp (Dev.settle_touches ..) (by decide) ?_
          exact Touches.refl _ _
        · refine Touches.comp (Dev.count_touches ..) (by decide) ?_
          refine Touches.comp (Dev.icu_touches ..) (by decide) ?_
          refine Touches.comp (Dev.count_touches ..) (by decide) ?_
          refine Touches.comp (Dev.setSchan_touches ..) (by decide) ?_
          refine Touches.comp (Dev.settle_touches ..) (by decide) ?_
          exact Touches.refl _ _

theorem outFail_touches (d) (c) (why) : Touches [.str, .out, .fresh] d (outFail d c why) := by
  unfold outFail
  conv => zeta
  refine Touches.ite ?_ ?_
  · exact Touches.refl _ _
  · split
    · refine Touches.comp (Dev.setSchan_touches ..) (by decide) ?_
      refine Touches.comp (Dev.emit_touches ..) (by decide) ?_
      exact Touches.refl _ _
    · split
      · refine Touches.comp (Dev.setSchan_touches ..) (by decide) ?_
        refine Touches.comp (Dev.emit_touches ..) (by decide) ?_
        exact Touches.refl _ _
      · refine Touches.ite ?_ ?_
        · exact Touches.refl _ _
        · split
          · rename_i hq10
            refine Touches.comp (Dev.setSchan_touches ..) (by decide) ?_
            refine Touches.comp (Dev.emit_touches ..) (by decide) ?_
            refine Touches.comp (Dev.free_touches hq10) (by decide) ?_
            exact Touches.refl _ _

theorem outWrite_touches (F) (d) (c) (idx) : Touches [.regs, .pmc, .str, .out] d (outWrite F d c idx) := by
  unfold outWrite
  conv => zeta
  split
  · exact Touches.refl _ _
  · refine Touches.ite ?_ ?_
    · exact Touches.refl _ _
    · refine Touches.ite ?_ ?_
      · exact Touches.refl _ _
      · refine Touches.ite ?_ ?_
        · refine Touches.ite ?_ ?_
          · exact Touches.refl _ _
          · refine Touches.comp (Dev.count_touches ..) (by decide) ?_
            refine Touches.comp (Dev.countH_touches ..) (by decide) ?_
            refine Touches.comp (Dev.emit_touches ..) (by decide) ?_
            refine Touches.comp (Dev.setSchan_touches ..) (by decide) ?_
            exact Touches.refl _ _
        · refine Touches.ite ?_ ?_
          · refine Touches.comp (Dev.setSchan_touches ..) (by decide) ?_
            refine Touches.ite ?_ ?_
            · exact Touches.refl _ _
            · refine Touches.comp (Dev.count_touches ..) (by decide) ?_
              refine Touches.comp (Dev.countH_touches ..) (by decide) ?_
              refine Touches.comp (Dev.emit_touches ..) (by decide) ?_
              refine Touches.comp (Dev.setSchan_touches ..) (by decide) ?_
              exact Touches.refl _ _
          · refine Touches.ite ?_ ?_
            · refine Touches.ite ?_ ?_
              · exact Touches.refl _ _
              · refine Touches.comp (Dev.count_touches ..) (by decide) ?_
                refine Touches.comp (Dev.countH_touches ..) (by decide) ?_
                refine Touches.comp (Dev.emit_touches ..) (by decide) ?_
                refine Touches.comp (Dev.setSchan_touches ..) (by decide) ?_
                exact Touches.refl _ _
            · refine Touches.comp (Dev.emit_touches ..) (by decide) ?_
              refine Touches.comp (Dev.setSchan_touches ..) (by decide) ?_
              refine Touches.ite ?_ ?_
              · exact Touches.refl _ _
              · refine Touches.comp (Dev.count_touches ..) (by decide) ?_
                refine Touches.comp (Dev.countH_touches ..) (by decide) ?_
                refine Touches.comp (Dev.emit_touches ..) (by decide) ?_
                refine Touches.comp (Dev.setSchan_touches ..) (by decide) ?_
                exact Touches.refl _ _

theorem sourceNext_touches (F) (d0) (c) (v) : Touches [.regs, .a, .b, .keel, .log, .aon, .pmc, .gon, .cache, .drift, .sec, .str, .out] d0 (sourceNext F d0 c v) := by
  unfold sourceNext
  conv => zeta
  split
  · split
    · refine Touches.ite ?_ ?_
      · refine Touches.comp (copyOut_touches ..) (by decide) ?_
        refine Touches.comp (Dev.settle_touches ..) (by decide) ?_
        exact Touches.refl _ _
      · refine Touches.comp (Dev.settle_touches ..) (by decide) ?_
        exact Touches.refl _ _
    · refine Touches.comp (Dev.settle_touches ..) (by decide) ?_
      exact Touches.refl _ _
  · split
    · rename_i hq4
      refine Touches.ite ?_ ?_
      · refine Touches.comp (Dev.setSchan_touches ..) (by decide) ?_
        split
        · refine Touches.ite ?_ ?_
          · refine Touches.comp (Dev.confirmAdd_touches ..) (by decide) ?_
            refine Touches.ite ?_ ?_
            · refine Touches.comp (recordPoison_touches ..) (by decide) ?_
              refine Touches.comp (Dev.count_touches ..) (by decide) ?_
              refine Touches.comp (peekAddr_touches hq4) (by decide) ?_
              refine Touches.comp (Dev.settle_touches ..) (by decide) ?_
              exact Touches.refl _ _
            · refine Touches.comp (Dev.count_touches ..) (by decide) ?_
              refine Touches.comp (peekAddr_touches hq4) (by decide) ?_
              refine Touches.comp (Dev.settle_touches ..) (by decide) ?_
              exact Touches.refl _ _
          · refine Touches.ite ?_ ?_
            · refine Touches.comp (recordPoison_touches ..) (by decide) ?_
              refine Touches.comp (Dev.count_touches ..) (by decide) ?_
              refine Touches.comp (peekAddr_touches hq4) (by decide) ?_
              refine Touches.comp (Dev.settle_touches ..) (by decide) ?_
              exact Touches.refl _ _
            · refine Touches.comp (Dev.count_touches ..) (by decide) ?_
              refine Touches.comp (peekAddr_touches hq4) (by decide) ?_
              refine Touches.comp (Dev.settle_touches ..) (by decide) ?_
              exact Touches.refl _ _
        · refine Touches.comp (Dev.count_touches ..) (by decide) ?_
          refine Touches.comp (peekAddr_touches hq4) (by decide) ?_
          refine Touches.comp (Dev.settle_touches ..) (by decide) ?_
          exact Touches.refl _ _
      · refine Touches.ite ?_ ?_
        · refine Touches.comp (copyOut_touches ..) (by decide) ?_
          refine Touches.comp (expandCheck_touches ..) (by decide) ?_
          refine Touches.comp (Dev.setSchan_touches ..) (by decide) ?_
          split
          · refine Touches.ite ?_ ?_
            · refine Touches.comp (Dev.confirmAdd_touches ..) (by decide) ?_
              refine Touches.ite ?_ ?_
              · refine Touches.comp (recordPoison_touches ..) (by decide) ?_
                refine Touches.comp (Dev.count_touches ..) (by decide) ?_
                refine Touches.comp (peekAddr_touches hq4) (by decide) ?_
                refine Touches.comp (Dev.settle_touches ..) (by decide) ?_
                exact Touches.refl _ _
              · refine Touches.comp (Dev.count_touches ..) (by decide) ?_
                refine Touches.comp (peekAddr_touches hq4) (by decide) ?_
                refine Touches.comp (Dev.settle_touches ..) (by decide) ?_
                exact Touches.refl _ _
            · refine Touches.ite ?_ ?_
              · refine Touches.comp (recordPoison_touches ..) (by decide) ?_
                refine Touches.comp (Dev.count_touches ..) (by decide) ?_
                refine Touches.comp (peekAddr_touches hq4) (by decide) ?_
                refine Touches.comp (Dev.settle_touches ..) (by decide) ?_
                exact Touches.refl _ _
              · refine Touches.comp (Dev.count_touches ..) (by decide) ?_
                refine Touches.comp (peekAddr_touches hq4) (by decide) ?_
                refine Touches.comp (Dev.settle_touches ..) (by decide) ?_
                exact Touches.refl _ _
          · refine Touches.comp (Dev.count_touches ..) (by decide) ?_
            refine Touches.comp (peekAddr_touches hq4) (by decide) ?_
            refine Touches.comp (Dev.settle_touches ..) (by decide) ?_
            exact Touches.refl _ _
        · refine Touches.comp (expandCheck_touches ..) (by decide) ?_
          refine Touches.comp (Dev.setSchan_touches ..) (by decide) ?_
          split
          · refine Touches.ite ?_ ?_
            · refine Touches.comp (Dev.confirmAdd_touches ..) (by decide) ?_
              refine Touches.ite ?_ ?_
              · refine Touches.comp (recordPoison_touches ..) (by decide) ?_
                refine Touches.comp (Dev.count_touches ..) (by decide) ?_
                refine Touches.comp (peekAddr_touches hq4) (by decide) ?_
                refine Touches.comp (Dev.settle_touches ..) (by decide) ?_
                exact Touches.refl _ _
              · refine Touches.comp (Dev.count_touches ..) (by decide) ?_
                refine Touches.comp (peekAddr_touches hq4) (by decide) ?_
                refine Touches.comp (Dev.settle_touches ..) (by decide) ?_
                exact Touches.refl _ _
            · refine Touches.ite ?_ ?_
              · refine Touches.comp (recordPoison_touches ..) (by decide) ?_
                refine Touches.comp (Dev.count_touches ..) (by decide) ?_
                refine Touches.comp (peekAddr_touches hq4) (by decide) ?_
                refine Touches.comp (Dev.settle_touches ..) (by decide) ?_
                exact Touches.refl _ _
              · refine Touches.comp (Dev.count_touches ..) (by decide) ?_
                refine Touches.comp (peekAddr_touches hq4) (by decide) ?_
                refine Touches.comp (Dev.settle_touches ..) (by decide) ?_
                exact Touches.refl _ _
          · refine Touches.comp (Dev.count_touches ..) (by decide) ?_
            refine Touches.comp (peekAddr_touches hq4) (by decide) ?_
            refine Touches.comp (Dev.settle_touches ..) (by decide) ?_
            exact Touches.refl _ _

theorem verifyNext_touches (F) (d) (c) (v) : Touches [.regs, .a, .b, .log, .aon, .pmc, .gon, .cache, .sec, .str, .out] d (verifyNext F d c v) := by
  unfold verifyNext
  conv => zeta
  refine Touches.ite ?_ ?_
  · exact Touches.refl _ _
  · split
    · rename_i hq4
      refine Touches.comp (Dev.setSchan_touches ..) (by decide) ?_
      refine Touches.comp (Dev.count_touches ..) (by decide) ?_
      split
      · refine Touches.ite ?_ ?_
        · refine Touches.comp (recordPoison_touches ..) (by decide) ?_
          refine Touches.comp (peekAddr_touches hq4) (by decide) ?_
          exact Touches.refl _ _
        · refine Touches.comp (peekAddr_touches hq4) (by decide) ?_
          exact Touches.refl _ _
      · refine Touches.comp (peekAddr_touches hq4) (by decide) ?_
        exact Touches.refl _ _

theorem sourceReturn_touches (F) (d0) (c) (v) : Touches [.regs, .a, .b, .keel, .log, .aon, .pmc, .gon, .cache, .media, .tracts, .drift, .sec, .str, .out, .fresh] d0 (sourceReturn F d0 c v) := by
  unfold sourceReturn
  conv => zeta
  refine Touches.ite ?_ ?_
  · exact Touches.refl _ _
  · split
    · refine Touches.ite ?_ ?_
      · refine Touches.comp (Dev.pump_touches ..) (by decide) ?_
        refine Touches.comp (verifyNext_touches ..) (by decide) ?_
        refine Touches.comp (Dev.setSchan_touches ..) (by decide) ?_
        refine Touches.comp (Dev.pump_touches ..) (by decide) ?_
        exact Touches.refl _ _
      · exact Touches.refl _ _
    · refine Touches.comp (installNext_touches ..) (by decide) ?_
      refine Touches.comp (Dev.setSchan_touches ..) (by decide) ?_
      refine Touches.comp (Dev.pump_touches ..) (by decide) ?_
      exact Touches.refl _ _
    · refine Touches.comp (Dev.pump_touches ..) (by decide) ?_
      refine Touches.comp (sourceNext_touches ..) (by decide) ?_
      refine Touches.comp (Dev.setSchan_touches ..) (by decide) ?_
      refine Touches.comp (Dev.pump_touches ..) (by decide) ?_
      exact Touches.refl _ _

theorem twinDone_touches (F) (d) (n) : Touches [.regs, .a, .b, .log, .aon, .pmc, .gon, .sec, .str, .out] d (twinDone F d n) := by
  unfold twinDone
  conv => zeta
  refine Touches.ite ?_ ?_
  · exact Touches.refl _ _
  · refine Touches.ite ?_ ?_
    · refine Touches.comp (sendBack_touches ..) (by decide) ?_
      exact Touches.refl _ _
    · refine Touches.ite ?_ ?_
      · exact Touches.refl _ _
      · refine Touches.comp (Dev.setRbit_touches ..) (by decide) ?_
        refine Touches.comp (Dev.ctrWindow_touches ..) (by decide) ?_
        exact Touches.refl _ _

end Sys2Proof.Machine
end

