-- ==== Sys2Proof/Laws/FrameCommand.lean ====
section
/-!
SUPPORT. What each shared operation can change: the commands of the queues, the core pairs and the Keel store.
-/
namespace Sys2Proof.Machine

theorem keelScan_touches (F) (d) : Touches [.keel, .log, .lci] d (keelScan F d) := by
  unfold keelScan
  refine Touches.comp (Touches.put_keel_log_lci ..) (by decide) ?_
  exact Touches.refl _ _

theorem Dev.writeOut_touches (d) (h) (a) (b) : Touches [.out] d (Dev.writeOut d h a b) := by
  unfold Dev.writeOut
  conv => zeta
  refine Touches.ite ?_ ?_
  · refine Touches.comp (Dev.emit_touches ..) (by decide) ?_
    exact Touches.refl _ _
  · refine Touches.comp (Dev.emit_touches ..) (by decide) ?_
    refine Touches.comp (Dev.emit_touches ..) (by decide) ?_
    exact Touches.refl _ _

theorem Dev.copyOutward_touches (d) (h) (buf) (l) : Touches [.out] d (Dev.copyOutward d h buf l) := by
  unfold Dev.copyOutward
  conv => zeta
  refine Touches.ite ?_ ?_
  · refine Touches.foldl (fun _ _ => ?_) ?_
    · refine Touches.comp (Dev.writeOut_touches ..) (by decide) ?_
      exact Touches.refl _ _
    · exact Touches.refl _ _
  · refine Touches.comp (Dev.emit_touches ..) (by decide) ?_
    refine Touches.foldl (fun _ _ => ?_) ?_
    · refine Touches.comp (Dev.writeOut_touches ..) (by decide) ?_
      exact Touches.refl _ _
    · exact Touches.refl _ _

theorem Dev.invDone_touches (d) (r) : Touches [.regs, .pmc, .cache, .lci] d (Dev.invDone d r) := by
  unfold Dev.invDone
  conv => zeta
  refine Touches.ite ?_ ?_
  · exact Touches.refl _ _
  · split
    · split
      · refine Touches.comp (Dev.invClose_touches ..) (by decide) ?_
        exact Touches.refl _ _
      · refine Touches.ite ?_ ?_
        · refine Touches.comp (Dev.finish_touches ..) (by decide) ?_
          refine Touches.comp (Dev.invClose_touches ..) (by decide) ?_
          exact Touches.refl _ _
        · refine Touches.comp (Dev.finish_touches ..) (by decide) ?_
          refine Touches.comp (Dev.invClose_touches ..) (by decide) ?_
          exact Touches.refl _ _
    · refine Touches.comp (Dev.invClose_touches ..) (by decide) ?_
      exact Touches.refl _ _

theorem Dev.invalidateCmd_touches (d) (h) (lo) (hi) : Touches [.cache] d (Dev.invalidateCmd d h lo hi) := by
  unfold Dev.invalidateCmd
  refine Touches.comp (Dev.setCache_touches ..) (by decide) ?_
  refine Touches.comp (Dev.invalidate_touches ..) (by decide) ?_
  exact Touches.refl _ _

theorem Dev.readPiece_touches (d) (h) : Touches [.lci, .out] d (Dev.readPiece d h) := by
  unfold Dev.readPiece
  split
  · exact Touches.refl _ _
  · refine Touches.comp (Dev.emit_touches ..) (by decide) ?_
    refine Touches.comp (Dev.mapCmd_touches ..) (by decide) ?_
    exact Touches.refl _ _

theorem armSlot_touches (F) (d) (n) (act) (arg) (c) : Touches [.regs, .launch, .gpio, .pmc, .bst, .gon, .str, .lci, .out, .fresh] d (armSlot F d n act arg c) := by
  unfold armSlot
  refine Touches.comp (slotArm_touches ..) (by decide) ?_
  refine Touches.comp (Dev.setReg_touches ..) (by decide) ?_
  refine Touches.comp (Dev.setReg64_touches ..) (by decide) ?_
  exact Touches.refl _ _

theorem armSnap_touches (F) (d) (c) (k) : Touches [.regs, .launch, .gpio, .pmc, .bst, .gon, .str, .lci, .out, .fresh] d (armSnap F d c k) := by
  unfold armSnap
  refine Touches.comp (armSlot_touches ..) (by decide) ?_
  refine Touches.comp (Dev.mapCmd_touches ..) (by decide) ?_
  refine Touches.comp (Touches.put_str ..) (by decide) ?_
  exact Touches.refl _ _

theorem armStream_touches (F) (d) (c) (n) (k) : Touches [.regs, .launch, .gpio, .pmc, .bst, .gon, .str, .lci, .out, .fresh] d (armStream F d c n k) := by
  unfold armStream
  refine Touches.comp (armSlot_touches ..) (by decide) ?_
  refine Touches.comp (Dev.mapCmd_touches ..) (by decide) ?_
  refine Touches.comp (Dev.setSchan_touches ..) (by decide) ?_
  exact Touches.refl _ _

theorem startStop_touches (d) (c) : Touches [.regs, .pmc, .bst, .sec, .str, .lci, .fresh] d (startStop d c) := by
  unfold startStop
  conv => zeta
  split
  · refine Touches.comp (Dev.finish_touches ..) (by decide) ?_
    exact Touches.refl _ _
  · refine Touches.ite ?_ ?_
    · refine Touches.comp (Dev.mapCmd_touches ..) (by decide) ?_
      exact Touches.refl _ _
    · refine Touches.ite ?_ ?_
      · refine Touches.comp (Dev.finish_touches ..) (by decide) ?_
        exact Touches.refl _ _
      · split
        · refine Touches.comp (Dev.stopCmd_touches ..) (by decide) ?_
          refine Touches.comp (Dev.mapCmd_touches ..) (by decide) ?_
          exact Touches.refl _ _
        · exact Touches.refl _ _

theorem dictStore_touches (F) (d) (h) (id) (bytes) : Touches [.str] d (dictStore F d h id bytes) := by
  unfold dictStore
  refine Touches.comp (Touches.put_str ..) (by decide) ?_
  exact Touches.refl _ _

theorem startDict_touches (F) (d) (c) : Touches [.regs, .a, .b, .log, .aon, .pmc, .gon, .cache, .sec, .str, .lci, .out] d (startDict F d c) := by
  unfold startDict
  conv => zeta
  refine Touches.ite ?_ ?_
  · refine Touches.comp (Dev.finish_touches ..) (by decide) ?_
    exact Touches.refl _ _
  · refine Touches.ite ?_ ?_
    · refine Touches.comp (Dev.finish_touches ..) (by decide) ?_
      refine Touches.comp (dictStore_touches ..) (by decide) ?_
      exact Touches.refl _ _
    · refine Touches.ite ?_ ?_
      · split
        · refine Touches.comp (Dev.finish_touches ..) (by decide) ?_
          refine Touches.comp (dictStore_touches ..) (by decide) ?_
          exact Touches.refl _ _
        · refine Touches.comp (Dev.finish_touches ..) (by decide) ?_
          exact Touches.refl _ _
      · refine Touches.comp (Dev.readPiece_touches ..) (by decide) ?_
        exact Touches.refl _ _

theorem startDrop_touches (d) (c) : Touches [.regs, .pmc, .cache, .lci] d (startDrop d c) := by
  unfold startDrop
  conv => zeta
  refine Touches.ite ?_ ?_
  · refine Touches.comp (Dev.finish_touches ..) (by decide) ?_
    exact Touches.refl _ _
  · refine Touches.comp (Dev.invalidateCmd_touches ..) (by decide) ?_
    exact Touches.refl _ _

theorem Dev.discardGondola_touches (F) (d) (lo) (hi) : Touches [.regs, .a, .b, .pmc, .gon, .str, .out] d (Dev.discardGondola F d lo hi) := by
  unfold Dev.discardGondola
  refine Touches.comp (ackAll_touches ..) (by decide) ?_
  refine Touches.comp (Touches.put_gon ..) (by decide) ?_
  exact Touches.refl _ _

theorem Dev.emptyTract_touches (d) (t) : Touches [.tracts, .sec] d (Dev.emptyTract d t) := by
  unfold Dev.emptyTract
  conv => zeta
  refine Touches.ite ?_ ?_
  · split
    · refine Touches.ite ?_ ?_
      · refine Touches.comp (Dev.setEnt_touches ..) (by decide) ?_
        refine Touches.comp (Dev.setHdr_touches ..) (by decide) ?_
        refine Touches.comp (Touches.put_tracts ..) (by decide) ?_
        refine Touches.foldl (fun _ _ => ?_) ?_
        · refine Touches.comp (Dev.dropTarget_touches ..) (by decide) ?_
          refine Touches.comp (Touches.put_tracts ..) (by decide) ?_
          exact Touches.refl _ _
        · exact Touches.refl _ _
      · refine Touches.comp (Dev.ctrForget_touches ..) (by decide) ?_
        refine Touches.comp (Dev.setEnt_touches ..) (by decide) ?_
        refine Touches.comp (Dev.setHdr_touches ..) (by decide) ?_
        refine Touches.comp (Touches.put_tracts ..) (by decide) ?_
        refine Touches.foldl (fun _ _ => ?_) ?_
        · refine Touches.comp (Dev.dropTarget_touches ..) (by decide) ?_
          refine Touches.comp (Touches.put_tracts ..) (by decide) ?_
          exact Touches.refl _ _
        · exact Touches.refl _ _
    · refine Touches.comp (Dev.setEnt_touches ..) (by decide) ?_
      refine Touches.comp (Dev.setHdr_touches ..) (by decide) ?_
      refine Touches.comp (Touches.put_tracts ..) (by decide) ?_
      refine Touches.foldl (fun _ _ => ?_) ?_
      · refine Touches.comp (Dev.dropTarget_touches ..) (by decide) ?_
        refine Touches.comp (Touches.put_tracts ..) (by decide) ?_
        exact Touches.refl _ _
      · exact Touches.refl _ _
  · refine Touches.ite ?_ ?_
    · refine Touches.comp (Dev.unshare_touches ..) (by decide) ?_
      split
      · refine Touches.ite ?_ ?_
        · refine Touches.comp (Dev.setEnt_touches ..) (by decide) ?_
          refine Touches.comp (Dev.setHdr_touches ..) (by decide) ?_
          refine Touches.comp (Touches.put_tracts ..) (by decide) ?_
          refine Touches.foldl (fun _ _ => ?_) ?_
          · refine Touches.comp (Dev.dropTarget_touches ..) (by decide) ?_
            refine Touches.comp (Touches.put_tracts ..) (by decide) ?_
            exact Touches.refl _ _
          · exact Touches.refl _ _
        · refine Touches.comp (Dev.ctrForget_touches ..) (by decide) ?_
          refine Touches.comp (Dev.setEnt_touches ..) (by decide) ?_
          refine Touches.comp (Dev.setHdr_touches ..) (by decide) ?_
          refine Touches.comp (Touches.put_tracts ..) (by decide) ?_
          refine Touches.foldl (fun _ _ => ?_) ?_
          · refine Touches.comp (Dev.dropTarget_touches ..) (by decide) ?_
            refine Touches.comp (Touches.put_tracts ..) (by decide) ?_
            exact Touches.refl _ _
          · exact Touches.refl _ _
      · refine Touches.comp (Dev.setEnt_touches ..) (by decide) ?_
        refine Touches.comp (Dev.setHdr_touches ..) (by decide) ?_
        refine Touches.comp (Touches.put_tracts ..) (by decide) ?_
        refine Touches.foldl (fun _ _ => ?_) ?_
        · refine Touches.comp (Dev.dropTarget_touches ..) (by decide) ?_
          refine Touches.comp (Touches.put_tracts ..) (by decide) ?_
          exact Touches.refl _ _
        · exact Touches.refl _ _
    · refine Touches.comp (Touches.put_tracts ..) (by decide) ?_
      refine Touches.comp (Dev.setPhys_touches ..) (by decide) ?_
      split
      · refine Touches.ite ?_ ?_
        · refine Touches.comp (Dev.setEnt_touches ..) (by decide) ?_
          refine Touches.comp (Dev.setHdr_touches ..) (by decide) ?_
          refine Touches.comp (Touches.put_tracts ..) (by decide) ?_
          refine Touches.foldl (fun _ _ => ?_) ?_
          · refine Touches.comp (Dev.dropTarget_touches ..) (by decide) ?_
            refine Touches.comp (Touches.put_tracts ..) (by decide) ?_
            exact Touches.refl _ _
          · exact Touches.refl _ _
        · refine Touches.comp (Dev.ctrForget_touches ..) (by decide) ?_
          refine Touches.comp (Dev.setEnt_touches ..) (by decide) ?_
          refine Touches.comp (Dev.setHdr_touches ..) (by decide) ?_
          refine Touches.comp (Touches.put_tracts ..) (by decide) ?_
          refine Touches.foldl (fun _ _ => ?_) ?_
          · refine Touches.comp (Dev.dropTarget_touches ..) (by decide) ?_
            refine Touches.comp (Touches.put_tracts ..) (by decide) ?_
            exact Touches.refl _ _
          · exact Touches.refl _ _
      · refine Touches.comp (Dev.setEnt_touches ..) (by decide) ?_
        refine Touches.comp (Dev.setHdr_touches ..) (by decide) ?_
        refine Touches.comp (Touches.put_tracts ..) (by decide) ?_
        refine Touches.foldl (fun _ _ => ?_) ?_
        · refine Touches.comp (Dev.dropTarget_touches ..) (by decide) ?_
          refine Touches.comp (Touches.put_tracts ..) (by decide) ?_
          exact Touches.refl _ _
        · exact Touches.refl _ _

theorem Dev.discardTract_touches (lo) (hi) (d) (t) : Touches [.tracts, .sec] d (Dev.discardTract lo hi d t) := by
  unfold Dev.discardTract
  conv => zeta
  refine Touches.ite ?_ ?_
  · refine Touches.comp (Dev.emptyTract_touches ..) (by decide) ?_
    refine Touches.foldl (fun _ _ => ?_) ?_
    · refine Touches.comp (Dev.tcTouch_touches ..) (by decide) ?_
      exact Touches.refl _ _
    · refine Touches.comp (Dev.setMeta_touches ..) (by decide) ?_
      exact Touches.refl _ _
  · refine Touches.ite ?_ ?_
    · refine Touches.foldl (fun _ _ => ?_) ?_
      · refine Touches.comp (Dev.tcTouch_touches ..) (by decide) ?_
        exact Touches.refl _ _
      · refine Touches.comp (Dev.setMeta_touches ..) (by decide) ?_
        exact Touches.refl _ _
    · refine Touches.comp (Dev.setHdr_touches ..) (by decide) ?_
      refine Touches.foldl (fun _ _ => ?_) ?_
      · refine Touches.comp (Dev.tcTouch_touches ..) (by decide) ?_
        exact Touches.refl _ _
      · refine Touches.comp (Dev.setMeta_touches ..) (by decide) ?_
        exact Touches.refl _ _

theorem discardLines_touches (F) (d) (lo) (hi) : Touches [.regs, .a, .b, .keel, .log, .aon, .pmc, .gon, .media, .tracts, .drift, .sec, .str, .out] d (discardLines F d lo hi) := by
  unfold discardLines
  refine Touches.foldl (fun _ _ => ?_) ?_
  · refine Touches.comp (Dev.narrowSettle_touches ..) (by decide) ?_
    exact Touches.refl _ _
  · refine Touches.comp (Dev.reencSettle_touches ..) (by decide) ?_
    refine Touches.foldl (fun _ _ => (Dev.discardTract_touches ..).mono (by decide)) ?_
    refine Touches.comp (Touches.put_drift_sec ..) (by decide) ?_
    refine Touches.comp (Dev.discardGondola_touches ..) (by decide) ?_
    exact Touches.refl _ _

theorem startDiscard_touches (F) (d) (c) : Touches [.regs, .a, .b, .keel, .log, .aon, .pmc, .gon, .cache, .media, .tracts, .drift, .sec, .str, .out] d (startDiscard F d c) := by
  unfold startDiscard
  refine Touches.comp (Dev.invalidateCmd_touches ..) (by decide) ?_
  refine Touches.comp (discardLines_touches ..) (by decide) ?_
  exact Touches.refl _ _

theorem Dev.eraseRecord_touches (d) (n) (owner) : Touches [.keel, .fresh] d (Dev.eraseRecord d n owner) := by
  unfold Dev.eraseRecord
  conv => zeta
  split
  · rename_i hq2
    split
    · rename_i hq4
      refine Touches.comp (Dev.ringPut_touches ..) (by decide) ?_
      refine Touches.comp (Touches.put_keel ..) (by decide) ?_
      refine Touches.comp (Dev.keelPut_touches ..) (by decide) ?_
      refine Touches.comp (Dev.keelPut_touches ..) (by decide) ?_
      refine Touches.comp (Dev.rand_touches hq4) (by decide) ?_
      refine Touches.comp (Dev.rand_touches hq2) (by decide) ?_
      exact Touches.refl _ _

theorem sanAdvance_touches (x0) (x1) (x2) (x3) :
    Touches [.regs, .a, .b, .keel, .log, .aon, .pmc, .gon, .cache, .media, .tracts, .drift, .sec, .str, .lci, .out, .fresh] x2 (sanAdvance x0 x1 x2 x3) := by
  induction x3 generalizing x2 with
  | zero => exact Touches.refl ..
  | succ fuel ih =>
    unfold sanAdvance
    split
    · exact Touches.refl ..
    · extract_lets e ks lo n at_
      have ha : ∀ p (d : Dev), Touches [.regs, .a, .b, .keel, .log, .aon, .pmc, .gon, .cache, .media, .tracts, .drift, .sec, .str, .lci, .out, .fresh] d (at_ p d) :=
        fun p d => Touches.comp (ih _) (by decide) ((Dev.mapCmd_touches ..).mono (by decide))
      split
      · refine Touches.ite ?_ (Touches.ite (Touches.refl ..) (ha _ _))
        exact Touches.foldl (fun _ _ => (twinOff_touches ..).mono (by decide)) (Touches.refl ..)
      · have h1 : Touches [.regs, .a, .b, .keel, .log, .aon, .pmc, .gon, .cache, .media, .tracts, .drift, .sec, .str, .lci, .out, .fresh] x2 (ks.foldl (fun d k => d.clearSlot k) x2) :=
          Touches.foldl (fun _ _ => (Dev.clearSlot_touches ..).mono (by decide)) (Touches.refl ..)
        exact Touches.ite (Touches.comp (ha _ _) (by decide) h1) h1
      · exact Touches.ite (ha _ _) (Touches.ite (Touches.refl ..) ((Dev.eraseRecord_touches ..).mono (by decide)))
      · refine Touches.ite ((Dev.finish_touches ..).mono (by decide)) (Touches.ite (Touches.refl ..) ?_)
        exact Touches.comp (Dev.setCache_touches ..) (by decide) (Touches.comp (Dev.invalidate_touches ..) (by decide)
          ((discardLines_touches ..).mono (by decide)))
      · exact Touches.refl ..

theorem startEvict_touches (d) (c) : Touches [.regs, .pmc, .sec, .lci] d (startEvict d c) := by
  unfold startEvict
  conv => zeta
  refine Touches.ite ?_ ?_
  · refine Touches.comp (Touches.put_sec ..) (by decide) ?_
    exact Touches.refl _ _
  · refine Touches.ite ?_ ?_
    · refine Touches.comp (Dev.finish_touches ..) (by decide) ?_
      exact Touches.refl _ _
    · refine Touches.ite ?_ ?_
      · refine Touches.comp (Dev.finish_touches ..) (by decide) ?_
        refine Touches.comp (Dev.clearSlot_touches ..) (by decide) ?_
        exact Touches.refl _ _
      · refine Touches.comp (Touches.put_sec ..) (by decide) ?_
        refine Touches.comp (Dev.clearSlot_touches ..) (by decide) ?_
        exact Touches.refl _ _

theorem startGenerate_touches (F) (d) (c) : Touches [.regs, .keel, .pmc, .sec, .lci, .out, .fresh] d (startGenerate F d c) := by
  unfold startGenerate
  conv => zeta
  split
  · refine Touches.comp (Dev.finish_touches ..) (by decide) ?_
    exact Touches.refl _ _
  · split
    · rename_i hq4
      refine Touches.comp (Dev.emit_touches ..) (by decide) ?_
      refine Touches.comp (Dev.writeOut_touches ..) (by decide) ?_
      refine Touches.comp (Dev.mapCmd_touches ..) (by decide) ?_
      refine Touches.comp (Dev.ringPut_touches ..) (by decide) ?_
      refine Touches.comp (Dev.setSlot_touches ..) (by decide) ?_
      refine Touches.comp (Touches.put_keel ..) (by decide) ?_
      refine Touches.comp (Dev.rand_touches hq4) (by decide) ?_
      exact Touches.refl _ _

theorem startEpoch_touches (d) (c) : Touches [.keel, .lci] d (startEpoch d c) := by
  unfold startEpoch
  refine Touches.comp (Dev.statePut_touches ..) (by decide) ?_
  refine Touches.comp (Touches.put_keel ..) (by decide) ?_
  refine Touches.comp (Dev.mapCmd_touches ..) (by decide) ?_
  exact Touches.refl _ _

theorem startRekey_touches (d) (c) : Touches [.regs, .pmc, .tracts, .sec, .lci] d (startRekey d c) := by
  unfold startRekey
  refine Touches.comp (Dev.rekeyPump_touches ..) (by decide) ?_
  refine Touches.comp (Touches.put_sec ..) (by decide) ?_
  exact Touches.refl _ _

theorem startAcquire_touches (d) (c) : Touches [.regs, .pmc, .lci] d (startAcquire d c) := by
  unfold startAcquire
  conv => zeta
  split
  · refine Touches.comp (Dev.finish_touches ..) (by decide) ?_
    refine Touches.comp (Touches.put_lci ..) (by decide) ?_
    exact Touches.refl _ _
  · refine Touches.ite ?_ ?_
    · refine Touches.comp (Dev.finish_touches ..) (by decide) ?_
      exact Touches.refl _ _
    · refine Touches.comp (Touches.put_lci ..) (by decide) ?_
      exact Touches.refl _ _

theorem startRelease_touches (d) (c) : Touches [.regs, .pmc, .lci] d (startRelease d c) := by
  unfold startRelease
  conv => zeta
  refine Touches.ite ?_ ?_
  · refine Touches.comp (Dev.finish_touches ..) (by decide) ?_
    refine Touches.comp (Dev.grantNext_touches ..) (by decide) ?_
    refine Touches.comp (Touches.put_lci ..) (by decide) ?_
    exact Touches.refl _ _
  · refine Touches.comp (Dev.finish_touches ..) (by decide) ?_
    exact Touches.refl _ _

theorem startQuery_touches (d) (c) : Touches [.regs, .pmc, .lci] d (startQuery d c) := by
  unfold startQuery
  split
  · refine Touches.comp (Dev.finish_touches ..) (by decide) ?_
    exact Touches.refl _ _
  · refine Touches.comp (Dev.finish_touches ..) (by decide) ?_
    exact Touches.refl _ _

theorem startTest_touches (F) (d) (c) : Touches [.regs, .keel, .log, .bst, .lci] d (startTest F d c) := by
  unfold startTest
  refine Touches.comp (Dev.mapCmd_touches ..) (by decide) ?_
  refine Touches.comp (Touches.put_bst ..) (by decide) ?_
  refine Touches.comp (Dev.thaw_touches ..) (by decide) ?_
  exact Touches.refl _ _

theorem startFreeze_touches (F) (d) (c) : Touches [.regs, .keel, .log, .pmc, .lci] d (startFreeze F d c) := by
  unfold startFreeze
  refine Touches.ite ?_ ?_
  · refine Touches.comp (Dev.finish_touches ..) (by decide) ?_
    refine Touches.comp (Dev.thaw_touches ..) (by decide) ?_
    exact Touches.refl _ _
  · refine Touches.ite ?_ ?_
    · refine Touches.comp (Dev.finish_touches ..) (by decide) ?_
      refine Touches.comp (Dev.freeze_touches ..) (by decide) ?_
      exact Touches.refl _ _
    · refine Touches.comp (Dev.finish_touches ..) (by decide) ?_
      exact Touches.refl _ _

theorem runLogRead_touches (F) (d) (c) (st) : Touches [.regs, .pmc, .lci, .out] d (runLogRead F d c st) := by
  unfold runLogRead
  conv => zeta
  refine Touches.ite ?_ ?_
  · refine Touches.comp (Dev.finish_touches ..) (by decide) ?_
    refine Touches.comp (Dev.copyOutward_touches ..) (by decide) ?_
    exact Touches.refl _ _
  · refine Touches.comp (Dev.finish_touches ..) (by decide) ?_
    refine Touches.comp (Dev.emit_touches ..) (by decide) ?_
    refine Touches.comp (Dev.copyOutward_touches ..) (by decide) ?_
    exact Touches.refl _ _

theorem runUnfinished_touches (d) (c) (st) : Touches [.regs, .keel, .pmc, .lci, .out] d (runUnfinished d c st) := by
  unfold runUnfinished
  conv => zeta
  refine Touches.ite ?_ ?_
  · refine Touches.comp (Dev.finish_touches ..) (by decide) ?_
    refine Touches.comp (Dev.emit_touches ..) (by decide) ?_
    refine Touches.comp (Dev.copyOutward_touches ..) (by decide) ?_
    exact Touches.refl _ _
  · refine Touches.ite ?_ ?_
    · refine Touches.comp (Dev.uwlClear_touches ..) (by decide) ?_
      refine Touches.comp (Dev.mapCmd_touches ..) (by decide) ?_
      refine Touches.comp (Dev.copyOutward_touches ..) (by decide) ?_
      exact Touches.refl _ _
    · refine Touches.comp (Dev.finish_touches ..) (by decide) ?_
      refine Touches.comp (Dev.copyOutward_touches ..) (by decide) ?_
      exact Touches.refl _ _

theorem beginCmd_touches (F) (d0) (c) (st) : Touches [.regs, .a, .b, .keel, .log, .aon, .pmc, .bst, .gon, .cache, .media, .tracts, .drift, .sec, .str, .lci, .out, .fresh] d0 (beginCmd F d0 c st) := by
  unfold beginCmd
  conv => zeta
  split
  · refine Touches.comp (startStop_touches ..) (by decide) ?_
    refine Touches.comp (Dev.mapCmd_touches ..) (by decide) ?_
    exact Touches.refl _ _
  · refine Touches.comp (startDict_touches ..) (by decide) ?_
    refine Touches.comp (Dev.mapCmd_touches ..) (by decide) ?_
    exact Touches.refl _ _
  · refine Touches.comp (startDrop_touches ..) (by decide) ?_
    refine Touches.comp (Dev.mapCmd_touches ..) (by decide) ?_
    exact Touches.refl _ _
  · refine Touches.comp (startDiscard_touches ..) (by decide) ?_
    refine Touches.comp (Dev.mapCmd_touches ..) (by decide) ?_
    exact Touches.refl _ _
  · refine Touches.comp (sanAdvance_touches ..) (by decide) ?_
    refine Touches.comp (Dev.mapCmd_touches ..) (by decide) ?_
    exact Touches.refl _ _
  · refine Touches.comp (Dev.readPiece_touches ..) (by decide) ?_
    refine Touches.comp (Dev.mapCmd_touches ..) (by decide) ?_
    exact Touches.refl _ _
  · refine Touches.comp (startEvict_touches ..) (by decide) ?_
    refine Touches.comp (Dev.mapCmd_touches ..) (by decide) ?_
    exact Touches.refl _ _
  · refine Touches.comp (startGenerate_touches ..) (by decide) ?_
    refine Touches.comp (Dev.mapCmd_touches ..) (by decide) ?_
    exact Touches.refl _ _
  · refine Touches.comp (startEpoch_touches ..) (by decide) ?_
    refine Touches.comp (Dev.mapCmd_touches ..) (by decide) ?_
    exact Touches.refl _ _
  · refine Touches.comp (startRekey_touches ..) (by decide) ?_
    refine Touches.comp (Dev.mapCmd_touches ..) (by decide) ?_
    exact Touches.refl _ _
  · refine Touches.comp (startAcquire_touches ..) (by decide) ?_
    refine Touches.comp (Dev.mapCmd_touches ..) (by decide) ?_
    exact Touches.refl _ _
  · refine Touches.comp (startRelease_touches ..) (by decide) ?_
    refine Touches.comp (Dev.mapCmd_touches ..) (by decide) ?_
    exact Touches.refl _ _
  · refine Touches.comp (Dev.finish_touches ..) (by decide) ?_
    refine Touches.comp (Dev.mapCmd_touches ..) (by decide) ?_
    exact Touches.refl _ _
  · refine Touches.comp (startQuery_touches ..) (by decide) ?_
    refine Touches.comp (Dev.mapCmd_touches ..) (by decide) ?_
    exact Touches.refl _ _
  · refine Touches.comp (startTest_touches ..) (by decide) ?_
    refine Touches.comp (Dev.mapCmd_touches ..) (by decide) ?_
    exact Touches.refl _ _
  · refine Touches.comp (startFreeze_touches ..) (by decide) ?_
    refine Touches.comp (Dev.mapCmd_touches ..) (by decide) ?_
    exact Touches.refl _ _
  · refine Touches.comp (runLogRead_touches ..) (by decide) ?_
    refine Touches.comp (Dev.mapCmd_touches ..) (by decide) ?_
    exact Touches.refl _ _
  · refine Touches.comp (runUnfinished_touches ..) (by decide) ?_
    refine Touches.comp (Dev.mapCmd_touches ..) (by decide) ?_
    exact Touches.refl _ _
  · refine Touches.comp (Dev.mapCmd_touches ..) (by decide) ?_
    exact Touches.refl _ _

theorem keyLoad_touches (F) (d) (c) (blob) : Touches [.regs, .pmc, .tracts, .sec, .lci] d (keyLoad F d c blob) := by
  unfold keyLoad
  conv => zeta
  refine Touches.ite ?_ ?_
  · refine Touches.comp (Dev.finish_touches ..) (by decide) ?_
    exact Touches.refl _ _
  · split
    · refine Touches.comp (Dev.finish_touches ..) (by decide) ?_
      exact Touches.refl _ _
    · refine Touches.ite ?_ ?_
      · refine Touches.comp (Dev.finish_touches ..) (by decide) ?_
        exact Touches.refl _ _
      · refine Touches.comp (Dev.finish_touches ..) (by decide) ?_
        refine Touches.comp (Dev.rekeyResume_touches ..) (by decide) ?_
        refine Touches.comp (Dev.setSlot_touches ..) (by decide) ?_
        exact Touches.refl _ _

theorem cmdData_touches (F) (d) (h) (data) (st) : Touches [.regs, .pmc, .tracts, .sec, .str, .lci, .out] d (cmdData F d h data st) := by
  unfold cmdData
  conv => zeta
  split
  · exact Touches.refl _ _
  · refine Touches.ite ?_ ?_
    · refine Touches.ite ?_ ?_
      · refine Touches.comp (Dev.finish_touches ..) (by decide) ?_
        exact Touches.refl _ _
      · refine Touches.comp (Dev.finish_touches ..) (by decide) ?_
        refine Touches.comp (Dev.clearSlot_touches ..) (by decide) ?_
        refine Touches.comp (Dev.emit_touches ..) (by decide) ?_
        exact Touches.refl _ _
    · refine Touches.ite ?_ ?_
      · refine Touches.comp (Dev.finish_touches ..) (by decide) ?_
        refine Touches.comp (Dev.emit_touches ..) (by decide) ?_
        exact Touches.refl _ _
      · refine Touches.ite ?_ ?_
        · exact Touches.refl _ _
        · refine Touches.ite ?_ ?_
          · refine Touches.comp (Dev.readPiece_touches ..) (by decide) ?_
            refine Touches.comp (Dev.mapCmd_touches ..) (by decide) ?_
            exact Touches.refl _ _
          · refine Touches.ite ?_ ?_
            · refine Touches.ite ?_ ?_
              · refine Touches.comp (Dev.finish_touches ..) (by decide) ?_
                refine Touches.comp (Dev.mapCmd_touches ..) (by decide) ?_
                exact Touches.refl _ _
              · refine Touches.comp (Dev.finish_touches ..) (by decide) ?_
                refine Touches.comp (dictStore_touches ..) (by decide) ?_
                refine Touches.comp (Dev.mapCmd_touches ..) (by decide) ?_
                exact Touches.refl _ _
            · refine Touches.comp (keyLoad_touches ..) (by decide) ?_
              refine Touches.comp (Dev.mapCmd_touches ..) (by decide) ?_
              exact Touches.refl _ _

theorem startList_touches (d) (c) (n) : Touches [.str, .lci] d (startList d c n) := by
  unfold startList
  refine Touches.comp (Dev.mapCmd_touches ..) (by decide) ?_
  refine Touches.comp (Dev.setSchan_touches ..) (by decide) ?_
  exact Touches.refl _ _

theorem tryStart_touches (F) (d) (c) (st) : Touches [.regs, .a, .b, .launch, .gpio, .keel, .log, .aon, .pmc, .bst, .gon, .cache, .media, .tracts, .drift, .sec, .str, .lci, .out, .fresh] d (tryStart F d c st) := by
  unfold tryStart
  conv => zeta
  refine Touches.ite ?_ ?_
  · exact Touches.refl _ _
  · refine Touches.ite ?_ ?_
    · refine Touches.comp (Dev.finish_touches ..) (by decide) ?_
      exact Touches.refl _ _
    · refine Touches.ite ?_ ?_
      · split
        · refine Touches.ite ?_ ?_
          · refine Touches.comp (armStream_touches ..) (by decide) ?_
            exact Touches.refl _ _
          · refine Touches.comp (startList_touches ..) (by decide) ?_
            refine Touches.comp (Dev.mapCmd_touches ..) (by decide) ?_
            exact Touches.refl _ _
        · refine Touches.ite ?_ ?_
          · exact Touches.refl _ _
          · refine Touches.comp (startList_touches ..) (by decide) ?_
            refine Touches.comp (Dev.mapCmd_touches ..) (by decide) ?_
            exact Touches.refl _ _
        · exact Touches.refl _ _
      · refine Touches.ite ?_ ?_
        · split
          · refine Touches.comp (armSnap_touches ..) (by decide) ?_
            exact Touches.refl _ _
          · exact Touches.refl _ _
        · refine Touches.ite ?_ ?_
          · exact Touches.refl _ _
          · refine Touches.comp (beginCmd_touches ..) (by decide) ?_
            exact Touches.refl _ _

theorem heldStart_touches (F) (d) (h) : Touches [.regs, .a, .b, .launch, .gpio, .keel, .log, .aon, .pmc, .bst, .gon, .cache, .media, .tracts, .drift, .sec, .str, .lci, .out, .fresh] d (heldStart F d h) := by
  unfold heldStart
  split
  · exact Touches.refl _ _
  · refine Touches.ite ?_ ?_
    · exact Touches.refl _ _
    · refine Touches.ite ?_ ?_
      · refine Touches.comp (tryStart_touches ..) (by decide) ?_
        exact Touches.refl _ _
      · refine Touches.ite ?_ ?_
        · refine Touches.comp (sanAdvance_touches ..) (by decide) ?_
          exact Touches.refl _ _
        · exact Touches.refl _ _

theorem lciTake_touches (F) (d) (h) (op) (st) : Touches [.regs, .a, .b, .launch, .gpio, .keel, .log, .aon, .pmc, .bst, .gon, .cache, .media, .tracts, .drift, .sec, .str, .lci, .out, .fresh] d (lciTake F d h op st) := by
  unfold lciTake
  conv => zeta
  split
  · exact Touches.refl _ _
  · refine Touches.ite ?_ ?_
    · exact Touches.refl _ _
    · refine Touches.ite ?_ ?_
      · refine Touches.comp (Dev.finish_touches ..) (by decide) ?_
        exact Touches.refl _ _
      · refine Touches.comp (tryStart_touches ..) (by decide) ?_
        refine Touches.comp (Dev.mapCmd_touches ..) (by decide) ?_
        exact Touches.refl _ _

theorem readDone_touches (F) (d) (h) (tag) (data) (st) : Touches [.regs, .pmc, .gon, .cache, .media, .tracts, .drift, .sec, .str, .lci, .out, .fresh] d (readDone F d h tag data st) := by
  unfold readDone
  refine Touches.ite ?_ ?_
  · exact Touches.refl _ _
  · refine Touches.ite ?_ ?_
    · refine Touches.ite ?_ ?_
      · refine Touches.comp (installData_touches ..) (by decide) ?_
        exact Touches.refl _ _
      · exact Touches.refl _ _
    · split
      · refine Touches.comp (cmdData_touches ..) (by decide) ?_
        exact Touches.refl _ _
      · exact Touches.refl _ _

theorem Dev.unlockSettle_touches (d) : Touches [.dbg] d (Dev.unlockSettle d) := by
  unfold Dev.unlockSettle
  conv => zeta
  refine Touches.ite ?_ ?_
  · refine Touches.comp (Touches.put_dbg ..) (by decide) ?_
    exact Touches.refl _ _
  · exact Touches.refl _ _

theorem sanPump_touches (F) (d) : Touches [.regs, .a, .b, .keel, .log, .aon, .pmc, .gon, .cache, .media, .tracts, .drift, .sec, .str, .lci, .out, .fresh] d (sanPump F d) := by
  unfold sanPump
  refine Touches.foldl (fun _ _ => ?_) ?_
  · refine Touches.comp (sanAdvance_touches ..) (by decide) ?_
    exact Touches.refl _ _
  · exact Touches.refl _ _

theorem Dev.keelWritten_touches (d) (w) : Touches [.keel] d (Dev.keelWritten d w) := by
  unfold Dev.keelWritten
  refine Touches.comp (Touches.put_keel ..) (by decide) ?_
  exact Touches.refl _ _

theorem Dev.keelDrain_touches (d) : Touches [.keel] d (Dev.keelDrain d) := by
  unfold Dev.keelDrain
  refine Touches.foldl (fun _ _ => ?_) ?_
  · refine Touches.comp (Dev.keelWritten_touches ..) (by decide) ?_
    exact Touches.refl _ _
  · refine Touches.comp (Touches.put_keel ..) (by decide) ?_
    exact Touches.refl _ _

theorem Dev.setPair_touches (d) (p) (x) : Touches [.cores] d (Dev.setPair d p x) := by
  unfold Dev.setPair
  split
  · refine Touches.comp (Touches.put_cores ..) (by decide) ?_
    exact Touches.refl _ _
  · refine Touches.comp (Touches.put_cores ..) (by decide) ?_
    exact Touches.refl _ _

theorem Dev.semsAbandon_touches (d) (who) : Touches [.sems] d (Dev.semsAbandon d who) := by
  unfold Dev.semsAbandon
  refine Touches.comp (Touches.put_sems ..) (by decide) ?_
  exact Touches.refl _ _

theorem Dev.semAcquire_touches {x0} {x1} {x2} {r e} (h : Dev.semAcquire x0 x1 x2 = (r, e)) : Touches [.sems] x0 e := by
  unfold Dev.semAcquire at h
  dsimp only at h
  split at h <;> obtain rfl := (Prod.mk.inj h).2
  · exact Touches.put_sems ..
  · exact Touches.refl ..

theorem Dev.srcWrite_touches (d) (n) (v) : Touches [.regs] d (Dev.srcWrite d n v) := by
  unfold Dev.srcWrite
  conv => zeta
  refine Touches.ite ?_ ?_
  · refine Touches.ite ?_ ?_
    · refine Touches.comp (Dev.setRbit_touches ..) (by decide) ?_
      refine Touches.comp (Dev.setRbit_touches ..) (by decide) ?_
      exact Touches.refl _ _
    · refine Touches.comp (Dev.setRbit_touches ..) (by decide) ?_
      exact Touches.refl _ _
  · refine Touches.ite ?_ ?_
    · refine Touches.comp (Dev.setRbit_touches ..) (by decide) ?_
      refine Touches.ite ?_ ?_
      · refine Touches.comp (Dev.setRbit_touches ..) (by decide) ?_
        refine Touches.comp (Dev.setRbit_touches ..) (by decide) ?_
        exact Touches.refl _ _
      · refine Touches.comp (Dev.setRbit_touches ..) (by decide) ?_
        exact Touches.refl _ _
    · refine Touches.comp (Dev.setFld_touches ..) (by decide) ?_
      refine Touches.comp (Dev.setRbit_touches ..) (by decide) ?_
      refine Touches.ite ?_ ?_
      · refine Touches.comp (Dev.setRbit_touches ..) (by decide) ?_
        refine Touches.comp (Dev.setRbit_touches ..) (by decide) ?_
        exact Touches.refl _ _
      · refine Touches.comp (Dev.setRbit_touches ..) (by decide) ?_
        exact Touches.refl _ _

theorem Dev.semRelease_touches (d) (n) (who) : Touches [.regs, .sems] d (Dev.semRelease d n who) := by
  unfold Dev.semRelease
  conv => zeta
  refine Touches.ite ?_ ?_
  · refine Touches.comp (Touches.put_sems ..) (by decide) ?_
    exact Touches.refl _ _
  · refine Touches.comp (Dev.setRbit_touches ..) (by decide) ?_
    exact Touches.refl _ _

theorem eoi_touches (F) (d) (p) (src) : Touches [.regs, .log, .aon, .cores] d (eoi F d p src) := by
  unfold eoi
  conv => zeta
  split
  · refine Touches.ite ?_ ?_
    · refine Touches.comp (Dev.setPair_touches ..) (by decide) ?_
      exact Touches.refl _ _
    · refine Touches.comp (Dev.event_touches ..) (by decide) ?_
      refine Touches.comp (Dev.setRbit_touches ..) (by decide) ?_
      exact Touches.refl _ _
  · refine Touches.comp (Dev.event_touches ..) (by decide) ?_
    refine Touches.comp (Dev.setRbit_touches ..) (by decide) ?_
    exact Touches.refl _ _

theorem Dev.pet_touches (d) (p) (v) : Touches [.cores] d (Dev.pet d p v) := by
  unfold Dev.pet
  refine Touches.ite ?_ ?_
  · refine Touches.comp (Dev.setPair_touches ..) (by decide) ?_
    exact Touches.refl _ _
  · exact Touches.refl _ _

theorem Dev.gctlWrite_touches (d) (v) : Touches [.regs] d (Dev.gctlWrite d v) := by
  unfold Dev.gctlWrite
  conv => zeta
  refine Touches.ite ?_ ?_
  · refine Touches.comp (Dev.setRbit_touches ..) (by decide) ?_
    refine Touches.comp (Dev.setFld_touches ..) (by decide) ?_
    exact Touches.refl _ _
  · refine Touches.comp (Dev.setFld_touches ..) (by decide) ?_
    exact Touches.refl _ _

theorem Dev.swiWrite_touches (d) (v) : Touches [.regs] d (Dev.swiWrite d v) := by
  unfold Dev.swiWrite
  refine Touches.foldl (fun _ _ => ?_) ?_
  · refine Touches.comp (Dev.icu_touches ..) (by decide) ?_
    exact Touches.refl _ _
  · exact Touches.refl _ _

theorem Dev.checkpoint_touches (d) : Touches [.regs, .cores] d (Dev.checkpoint d) := by
  unfold Dev.checkpoint
  conv => zeta
  refine Touches.ite ?_ ?_
  · exact Touches.refl _ _
  · refine Touches.comp (Touches.put_cores ..) (by decide) ?_
    refine Touches.ite ?_ ?_
    · refine Touches.comp (Dev.icu_touches ..) (by decide) ?_
      exact Touches.refl _ _
    · exact Touches.refl _ _

theorem Dev.commit_touches (d) (p) : Touches [.regs, .cores, .pmc] d (Dev.commit d p) := by
  unfold Dev.commit
  conv => zeta
  refine Touches.ite ?_ ?_
  · exact Touches.refl _ _
  · split
    · refine Touches.ite ?_ ?_
      · refine Touches.comp (Dev.count_touches ..) (by decide) ?_
        refine Touches.comp (Dev.setPair_touches ..) (by decide) ?_
        exact Touches.refl _ _
      · refine Touches.comp (Dev.setPair_touches ..) (by decide) ?_
        exact Touches.refl _ _
    · exact Touches.refl _ _

theorem Dev.fence_touches (d) (p) : Touches [.regs, .cores, .sems] d (Dev.fence d p) := by
  unfold Dev.fence
  refine Touches.foldl (fun _ _ => ?_) ?_
  · refine Touches.comp (Dev.setRbit_touches ..) (by decide) ?_
    exact Touches.refl _ _
  · refine Touches.comp (Dev.semsAbandon_touches ..) (by decide) ?_
    refine Touches.comp (Dev.setPair_touches ..) (by decide) ?_
    exact Touches.refl _ _

theorem Dev.standbyFail_touches (d) : Touches [.regs, .cores] d (Dev.standbyFail d) := by
  unfold Dev.standbyFail
  refine Touches.ite ?_ ?_
  · refine Touches.comp (Dev.icu_touches ..) (by decide) ?_
    refine Touches.comp (Touches.put_cores ..) (by decide) ?_
    exact Touches.refl _ _
  · exact Touches.refl _ _

theorem pairFail_touches (F) (d) (p) (cause) : Touches [.regs, .keel, .log, .aon, .cores, .sems, .pwr, .out] d (pairFail F d p cause) := by
  unfold pairFail
  conv => zeta
  refine Touches.ite ?_ ?_
  · exact Touches.refl _ _
  · refine Touches.ite ?_ ?_
    · refine Touches.ite ?_ ?_
      · refine Touches.comp (Touches.put_cores ..) (by decide) ?_
        refine Touches.comp (Dev.event_touches ..) (by decide) ?_
        refine Touches.comp (Dev.fence_touches ..) (by decide) ?_
        exact Touches.refl _ _
      · refine Touches.comp (Dev.faultLevel_touches ..) (by decide) ?_
        refine Touches.comp (Touches.put_cores ..) (by decide) ?_
        refine Touches.comp (Dev.event_touches ..) (by decide) ?_
        refine Touches.comp (Dev.fence_touches ..) (by decide) ?_
        exact Touches.refl _ _
    · refine Touches.ite ?_ ?_
      · refine Touches.comp (Dev.faultLevel_touches ..) (by decide) ?_
        refine Touches.comp (Touches.put_cores ..) (by decide) ?_
        refine Touches.comp (Dev.event_touches ..) (by decide) ?_
        refine Touches.comp (Dev.fence_touches ..) (by decide) ?_
        exact Touches.refl _ _
      · refine Touches.comp (Touches.put_cores ..) (by decide) ?_
        refine Touches.comp (Dev.event_touches ..) (by decide) ?_
        refine Touches.comp (Dev.fence_touches ..) (by decide) ?_
        exact Touches.refl _ _

theorem takeover_touches (F) (d) : Touches [.regs, .a, .b, .cores, .out] d (takeover F d) := by
  unfold takeover
  conv => zeta
  refine Touches.ite ?_ ?_
  · refine Touches.comp (Dev.postAll_touches ..) (by decide) ?_
    refine Touches.comp (Touches.put_cores ..) (by decide) ?_
    exact Touches.refl _ _
  · exact Touches.refl _ _

theorem wdogExpire_touches (F) (d) (p) : Touches [.regs, .tether, .keel, .log, .aon, .cores, .sems, .pmc, .media, .pwr, .out] d (wdogExpire F d p) := by
  unfold wdogExpire
  conv => zeta
  refine Touches.ite ?_ ?_
  · exact Touches.refl _ _
  · refine Touches.comp (pairFail_touches ..) (by decide) ?_
    refine Touches.comp (Dev.advance_touches ..) (by decide) ?_
    exact Touches.refl _ _

theorem Dev.opSecond_touches (d) : Touches [.regs, .tether, .keel, .pmc, .media] d (Dev.opSecond d) := by
  unfold Dev.opSecond
  refine Touches.ite ?_ ?_
  · exact Touches.refl _ _
  · refine Touches.comp (Touches.put_keel ..) (by decide) ?_
    refine Touches.comp (Dev.tick_touches ..) (by decide) ?_
    exact Touches.refl _ _

theorem Dev.ringMove_touches (d) (r) (w) (seq) : Touches [.keel] d (Dev.ringMove d r w seq) := by
  unfold Dev.ringMove
  conv => zeta
  split
  · refine Touches.comp (Dev.rootPut_touches ..) (by decide) ?_
    refine Touches.comp (Touches.put_keel ..) (by decide) ?_
    exact Touches.refl _ _
  · refine Touches.comp (Touches.put_keel ..) (by decide) ?_
    exact Touches.refl _ _

theorem acceptStart_touches (F) (d) : Touches [.regs, .log, .aon] d (acceptStart F d) := by
  unfold acceptStart
  conv => zeta
  refine Touches.ite ?_ ?_
  · refine Touches.foldl (fun _ _ => ?_) ?_
    · refine Touches.comp (Dev.recordIn_touches ..) (by decide) ?_
      exact Touches.refl _ _
    · refine Touches.comp (Touches.put_log_aon ..) (by decide) ?_
      exact Touches.refl _ _
  · refine Touches.comp (Dev.recordIn_touches ..) (by decide) ?_
    refine Touches.foldl (fun _ _ => ?_) ?_
    · refine Touches.comp (Dev.recordIn_touches ..) (by decide) ?_
      exact Touches.refl _ _
    · refine Touches.comp (Touches.put_log_aon ..) (by decide) ?_
      exact Touches.refl _ _

theorem keelOwner_touches (F) (d) (o) : Touches [.regs, .a, .b, .keel, .log, .aon, .pmc, .gon, .cache, .media, .tracts, .drift, .sec, .str, .lci, .out, .fresh] d (keelOwner F d o) := by
  unfold keelOwner
  refine Touches.ite ?_ ?_
  · exact Touches.refl _ _
  · refine Touches.ite ?_ ?_
    · refine Touches.comp (Touches.put_lci ..) (by decide) ?_
      exact Touches.refl _ _
    · refine Touches.ite ?_ ?_
      · refine Touches.comp (Dev.emit_touches ..) (by decide) ?_
        exact Touches.refl _ _
      · refine Touches.ite ?_ ?_
        · refine Touches.comp (Dev.emit_touches ..) (by decide) ?_
          exact Touches.refl _ _
        · split
          · exact Touches.refl _ _
          · refine Touches.comp (silentOut_touches ..) (by decide) ?_
            split
            · refine Touches.ite ?_ ?_
              · refine Touches.comp (sanPump_touches ..) (by decide) ?_
                refine Touches.comp (Dev.mapCmd_touches ..) (by decide) ?_
                exact Touches.refl _ _
              · exact Touches.refl _ _
            · refine Touches.comp (Dev.finish_touches ..) (by decide) ?_
              exact Touches.refl _ _
            · refine Touches.comp (Dev.finish_touches ..) (by decide) ?_
              exact Touches.refl _ _

theorem keelDone_touches (F) (d) (page) (ok) : Touches [.regs, .a, .b, .keel, .log, .aon, .pmc, .gon, .cache, .media, .tracts, .drift, .sec, .str, .lci, .out, .fresh] d (keelDone F d page ok) := by
  unfold keelDone
  conv => zeta
  split
  · exact Touches.refl _ _
  · refine Touches.ite ?_ ?_
    · split
      · refine Touches.comp (keelOwner_touches ..) (by decide) ?_
        split
        · refine Touches.ite ?_ ?_
          · refine Touches.comp (acceptStart_touches ..) (by decide) ?_
            refine Touches.comp (Dev.icu_touches ..) (by decide) ?_
            refine Touches.comp (Dev.keelWritten_touches ..) (by decide) ?_
            exact Touches.refl _ _
          · refine Touches.comp (Dev.icu_touches ..) (by decide) ?_
            refine Touches.comp (Dev.keelWritten_touches ..) (by decide) ?_
            exact Touches.refl _ _
        · refine Touches.comp (Dev.icu_touches ..) (by decide) ?_
          refine Touches.comp (Dev.keelWritten_touches ..) (by decide) ?_
          exact Touches.refl _ _
      · split
        · refine Touches.ite ?_ ?_
          · refine Touches.comp (acceptStart_touches ..) (by decide) ?_
            refine Touches.comp (Dev.icu_touches ..) (by decide) ?_
            refine Touches.comp (Dev.keelWritten_touches ..) (by decide) ?_
            exact Touches.refl _ _
          · refine Touches.comp (Dev.icu_touches ..) (by decide) ?_
            refine Touches.comp (Dev.keelWritten_touches ..) (by decide) ?_
            exact Touches.refl _ _
        · refine Touches.comp (Dev.icu_touches ..) (by decide) ?_
          refine Touches.comp (Dev.keelWritten_touches ..) (by decide) ?_
          exact Touches.refl _ _
    · refine Touches.ite ?_ ?_
      · refine Touches.comp (Touches.put_keel ..) (by decide) ?_
        exact Touches.refl _ _
      · split
        · refine Touches.comp (Dev.ringMove_touches ..) (by decide) ?_
          refine Touches.comp (Dev.icu_touches ..) (by decide) ?_
          refine Touches.comp (Dev.event_touches ..) (by decide) ?_
          refine Touches.comp (Touches.put_keel ..) (by decide) ?_
          exact Touches.refl _ _
        · refine Touches.comp (Touches.put_keel ..) (by decide) ?_
          refine Touches.comp (Dev.icu_touches ..) (by decide) ?_
          refine Touches.comp (Dev.event_touches ..) (by decide) ?_
          refine Touches.comp (Touches.put_keel ..) (by decide) ?_
          exact Touches.refl _ _
        · refine Touches.comp (Touches.put_keel ..) (by decide) ?_
          refine Touches.comp (Dev.icu_touches ..) (by decide) ?_
          refine Touches.comp (Dev.event_touches ..) (by decide) ?_
          refine Touches.comp (Touches.put_keel ..) (by decide) ?_
          exact Touches.refl _ _

theorem keelStart_touches (F) (d) : Touches [.keel] d (keelStart F d) := by
  unfold keelStart
  conv => zeta
  split
  · exact Touches.refl _ _
  · refine Touches.ite ?_ ?_
    · refine Touches.comp (Touches.put_keel ..) (by decide) ?_
      exact Touches.refl _ _
    · exact Touches.refl _ _

end Sys2Proof.Machine
end

