-- ==== Sys2Proof/Laws/FramePower.lean ====
section
/-!
SUPPORT. What each shared operation can change: power, bring-up, temperatures, self-test.
-/
namespace Sys2Proof.Machine

theorem Dev.coldStart_touches (d) : Touches [.tether, .pwr] d (Dev.coldStart d) := by
  unfold Dev.coldStart
  refine Touches.comp (Touches.put_tether_pwr ..) (by decide) ?_
  exact Touches.refl _ _

theorem Dev.groupsLoad_touches (d) : Touches [.media] d (Dev.groupsLoad d) := by
  unfold Dev.groupsLoad
  refine Touches.foldl (fun _ _ => ?_) ?_
  · refine Touches.ite ?_ ?_
    · split
      · refine Touches.comp (Dev.setGrp_touches ..) (by decide) ?_
        exact Touches.refl _ _
      · refine Touches.comp (Dev.setGrp_touches ..) (by decide) ?_
        exact Touches.refl _ _
    · exact Touches.refl _ _
  · exact Touches.refl _ _

theorem Dev.ledgerLoad_touches (d) : Touches [.media, .drift] d (Dev.ledgerLoad d) := by
  unfold Dev.ledgerLoad
  refine Touches.comp (Touches.put_drift ..) (by decide) ?_
  refine Touches.foldl (fun _ _ => ?_) ?_
  · refine Touches.comp (Dev.setDie_touches ..) (by decide) ?_
    exact Touches.refl _ _
  · refine Touches.foldl (fun _ _ => ?_) ?_
    · refine Touches.comp (Dev.setCtl_touches ..) (by decide) ?_
      exact Touches.refl _ _
    · exact Touches.refl _ _

theorem Dev.mediaLoad_touches (d) : Touches [.regs, .keel, .media, .tracts, .drift] d (Dev.mediaLoad d) := by
  unfold Dev.mediaLoad
  conv => zeta
  refine Touches.ite ?_ ?_
  · refine Touches.comp (Dev.rootPut_touches ..) (by decide) ?_
    refine Touches.comp (Touches.put_tracts ..) (by decide) ?_
    refine Touches.comp (Dev.restoreCfg_touches ..) (by decide) ?_
    refine Touches.comp (Dev.ledgerLoad_touches ..) (by decide) ?_
    exact Touches.refl _ _
  · refine Touches.comp (Dev.restoreCfg_touches ..) (by decide) ?_
    refine Touches.comp (Dev.ledgerLoad_touches ..) (by decide) ?_
    exact Touches.refl _ _

theorem Dev.restoreMail_touches (d) : Touches [.a, .b] d (Dev.restoreMail d) := by
  unfold Dev.restoreMail
  refine Touches.comp (Touches.put_a_b ..) (by decide) ?_
  exact Touches.refl _ _

theorem bcTake_touches (F) (d) (b) : Touches [.regs, .gpio, .log, .aon, .media, .pwr] d (bcTake F d b) := by
  unfold bcTake
  conv => zeta
  refine Touches.ite ?_ ?_
  · refine Touches.comp (Dev.event_touches ..) (by decide) ?_
    refine Touches.comp (Touches.put_gpio_media_pwr ..) (by decide) ?_
    exact Touches.refl _ _
  · refine Touches.comp (Touches.put_gpio_media_pwr ..) (by decide) ?_
    exact Touches.refl _ _

theorem Dev.faultRelease_touches (d) : Touches [.pwr, .out] d (Dev.faultRelease d) := by
  unfold Dev.faultRelease
  refine Touches.ite ?_ ?_
  · refine Touches.comp (Dev.emit_touches ..) (by decide) ?_
    refine Touches.comp (Touches.put_pwr ..) (by decide) ?_
    exact Touches.refl _ _
  · exact Touches.refl _ _

theorem stallStep_touches (F) (d) (cause) : Touches [.regs, .keel, .log, .pwr, .out] d (stallStep F d cause) := by
  unfold stallStep
  refine Touches.comp (Dev.faultLevel_touches ..) (by decide) ?_
  refine Touches.comp (Touches.put_pwr ..) (by decide) ?_
  exact Touches.refl _ _

theorem stepFuses_touches (F) (d) (inp) : Touches [.regs, .a, .b, .tether, .keel, .log, .aon, .cache, .drift, .sec, .lci, .pwr, .out] d (stepFuses F d inp) := by
  unfold stepFuses
  conv => zeta
  refine Touches.ite ?_ ?_
  · refine Touches.comp (Touches.put_pwr ..) (by decide) ?_
    refine Touches.comp (Dev.faultRelease_touches ..) (by decide) ?_
    refine Touches.ite ?_ ?_
    · refine Touches.comp (Dev.lifePut_touches ..) (by decide) ?_
      refine Touches.comp (Touches.put_keel_cache_drift_sec ..) (by decide) ?_
      refine Touches.ite ?_ ?_
      · refine Touches.comp (Dev.coldStart_touches ..) (by decide) ?_
        refine Touches.comp (Dev.restoreMail_touches ..) (by decide) ?_
        refine Touches.comp (keelScan_touches ..) (by decide) ?_
        exact Touches.refl _ _
      · refine Touches.comp (Dev.restoreMail_touches ..) (by decide) ?_
        refine Touches.comp (keelScan_touches ..) (by decide) ?_
        exact Touches.refl _ _
    · refine Touches.comp (Dev.ringPut_touches ..) (by decide) ?_
      refine Touches.comp (Dev.lifePut_touches ..) (by decide) ?_
      refine Touches.comp (Touches.put_keel_cache_drift_sec ..) (by decide) ?_
      refine Touches.ite ?_ ?_
      · refine Touches.comp (Dev.coldStart_touches ..) (by decide) ?_
        refine Touches.comp (Dev.restoreMail_touches ..) (by decide) ?_
        refine Touches.comp (keelScan_touches ..) (by decide) ?_
        exact Touches.refl _ _
      · refine Touches.comp (Dev.restoreMail_touches ..) (by decide) ?_
        refine Touches.comp (keelScan_touches ..) (by decide) ?_
        exact Touches.refl _ _
  · refine Touches.comp (stallStep_touches ..) (by decide) ?_
    refine Touches.comp (Dev.event_touches ..) (by decide) ?_
    refine Touches.comp (Dev.faultRelease_touches ..) (by decide) ?_
    refine Touches.ite ?_ ?_
    · refine Touches.comp (Dev.lifePut_touches ..) (by decide) ?_
      refine Touches.comp (Touches.put_keel_cache_drift_sec ..) (by decide) ?_
      refine Touches.ite ?_ ?_
      · refine Touches.comp (Dev.coldStart_touches ..) (by decide) ?_
        refine Touches.comp (Dev.restoreMail_touches ..) (by decide) ?_
        refine Touches.comp (keelScan_touches ..) (by decide) ?_
        exact Touches.refl _ _
      · refine Touches.comp (Dev.restoreMail_touches ..) (by decide) ?_
        refine Touches.comp (keelScan_touches ..) (by decide) ?_
        exact Touches.refl _ _
    · refine Touches.comp (Dev.ringPut_touches ..) (by decide) ?_
      refine Touches.comp (Dev.lifePut_touches ..) (by decide) ?_
      refine Touches.comp (Touches.put_keel_cache_drift_sec ..) (by decide) ?_
      refine Touches.ite ?_ ?_
      · refine Touches.comp (Dev.coldStart_touches ..) (by decide) ?_
        refine Touches.comp (Dev.restoreMail_touches ..) (by decide) ?_
        refine Touches.comp (keelScan_touches ..) (by decide) ?_
        exact Touches.refl _ _
      · refine Touches.comp (Dev.restoreMail_touches ..) (by decide) ?_
        refine Touches.comp (keelScan_touches ..) (by decide) ?_
        exact Touches.refl _ _

theorem stepCores_touches (F) (d) (aOk) (bOk) : Touches [.regs, .keel, .log, .cores, .lci, .pwr, .out] d (stepCores F d aOk bOk) := by
  unfold stepCores
  conv => zeta
  refine Touches.ite ?_ ?_
  · refine Touches.comp (Touches.put_pwr ..) (by decide) ?_
    refine Touches.comp (Touches.put_cores_lci ..) (by decide) ?_
    exact Touches.refl _ _
  · refine Touches.comp (stallStep_touches ..) (by decide) ?_
    refine Touches.comp (Touches.put_cores_lci ..) (by decide) ?_
    exact Touches.refl _ _

theorem stepConfig_touches (F) (d) (inp) : Touches [.regs, .gpio, .keel, .log, .aon, .media, .pwr, .out] d (stepConfig F d inp) := by
  unfold stepConfig
  conv => zeta
  split
  · refine Touches.comp (Touches.put_pwr ..) (by decide) ?_
    refine Touches.comp (bcTake_touches ..) (by decide) ?_
    exact Touches.refl _ _
  · refine Touches.comp (stallStep_touches ..) (by decide) ?_
    refine Touches.comp (Dev.event_touches ..) (by decide) ?_
    refine Touches.comp (Touches.put_pwr ..) (by decide) ?_
    exact Touches.refl _ _

theorem imageStart_touches (F) (d) (slot) : Touches [.regs, .log, .aon, .cores, .images, .lci] d (imageStart F d slot) := by
  unfold imageStart
  conv => zeta
  refine Touches.ite ?_ ?_
  · refine Touches.comp (Dev.event_touches ..) (by decide) ?_
    refine Touches.comp (Touches.put_cores_images_lci ..) (by decide) ?_
    exact Touches.refl _ _
  · refine Touches.comp (Touches.put_cores_images_lci ..) (by decide) ?_
    exact Touches.refl _ _

theorem stepImage_touches (F) (d) : Touches [.regs, .keel, .log, .aon, .cores, .images, .lci, .pwr, .out] d (stepImage F d) := by
  unfold stepImage
  split
  · refine Touches.comp (Touches.put_pwr ..) (by decide) ?_
    refine Touches.comp (Dev.icu_touches ..) (by decide) ?_
    refine Touches.comp (imageStart_touches ..) (by decide) ?_
    exact Touches.refl _ _
  · refine Touches.comp (stallStep_touches ..) (by decide) ?_
    exact Touches.refl _ _

theorem stepWork_touches (F) (d) (inp) : Touches [.regs, .a, .b, .tether, .gpio, .keel, .log, .aon, .cores, .images, .cache, .media, .tracts, .drift, .sec, .lci, .pwr, .out] d (stepWork F d inp) := by
  unfold stepWork
  conv => zeta
  split
  · refine Touches.ite ?_ ?_
    · refine Touches.comp (Touches.put_pwr ..) (by decide) ?_
      refine Touches.comp (Dev.faultRelease_touches ..) (by decide) ?_
      exact Touches.refl _ _
    · exact Touches.refl _ _
  · refine Touches.comp (stepFuses_touches ..) (by decide) ?_
    exact Touches.refl _ _
  · refine Touches.comp (stepCores_touches ..) (by decide) ?_
    exact Touches.refl _ _
  · refine Touches.comp (stepConfig_touches ..) (by decide) ?_
    exact Touches.refl _ _
  · refine Touches.comp (stepImage_touches ..) (by decide) ?_
    exact Touches.refl _ _
  · refine Touches.ite ?_ ?_
    · refine Touches.comp (Touches.put_pwr ..) (by decide) ?_
      refine Touches.comp (Dev.groupsLoad_touches ..) (by decide) ?_
      exact Touches.refl _ _
    · exact Touches.refl _ _
  · refine Touches.ite ?_ ?_
    · refine Touches.comp (Touches.put_pwr ..) (by decide) ?_
      refine Touches.comp (Dev.mediaLoad_touches ..) (by decide) ?_
      exact Touches.refl _ _
    · exact Touches.refl _ _
  · refine Touches.ite ?_ ?_
    · refine Touches.comp (Touches.put_pwr ..) (by decide) ?_
      refine Touches.comp (Dev.setSvc_touches ..) (by decide) ?_
      exact Touches.refl _ _
    · exact Touches.refl _ _
  · exact Touches.refl _ _

theorem Dev.setSeq_touches (d) (n) (x) : Touches [.pwr] d (Dev.setSeq d n x) := by
  unfold Dev.setSeq
  refine Touches.comp (Touches.put_pwr ..) (by decide) ?_
  exact Touches.refl _ _

theorem Dev.sense_touches (d) (n) : Touches [.pwr, .fresh] d (Dev.sense d n) := by
  unfold Dev.sense
  split
  · rename_i hq2
    refine Touches.comp (Dev.setSeq_touches ..) (by decide) ?_
    refine Touches.comp (Dev.free_touches hq2) (by decide) ?_
    exact Touches.refl _ _

theorem Dev.drive_touches (d) (on) (n) : Touches [.pwr, .out, .fresh] d (Dev.drive d on n) := by
  unfold Dev.drive
  refine Touches.comp (Dev.emit_touches ..) (by decide) ?_
  refine Touches.comp (Dev.sense_touches ..) (by decide) ?_
  refine Touches.comp (Dev.setSeq_touches ..) (by decide) ?_
  exact Touches.refl _ _

theorem Dev.measureStop_touches (d) : Touches [.pwr, .out, .fresh] d (Dev.measureStop d) := by
  unfold Dev.measureStop
  split
  · refine Touches.ite ?_ ?_
    · refine Touches.comp (Dev.drive_touches ..) (by decide) ?_
      refine Touches.comp (Dev.drive_touches ..) (by decide) ?_
      refine Touches.comp (Touches.put_pwr ..) (by decide) ?_
      exact Touches.refl _ _
    · exact Touches.refl _ _
  · exact Touches.refl _ _

theorem Dev.marginEnd_touches (d) : Touches [.regs, .pwr, .out] d (Dev.marginEnd d) := by
  unfold Dev.marginEnd
  split
  · refine Touches.comp (Dev.emit_touches ..) (by decide) ?_
    refine Touches.comp (Touches.put_pwr ..) (by decide) ?_
    refine Touches.comp (Dev.setFld_touches ..) (by decide) ?_
    exact Touches.refl _ _
  · exact Touches.refl _ _

theorem Dev.downEntry_touches (d) (why) (out) : Touches [.regs, .pwr, .out, .fresh] d (Dev.downEntry d why out) := by
  unfold Dev.downEntry
  refine Touches.comp (Touches.put_pwr ..) (by decide) ?_
  refine Touches.comp (Dev.measureStop_touches ..) (by decide) ?_
  refine Touches.comp (Dev.marginEnd_touches ..) (by decide) ?_
  exact Touches.refl _ _

theorem bringupStep_touches (F) (d) (inp) : Touches [.regs, .a, .b, .tether, .gpio, .keel, .log, .aon, .cores, .images, .cache, .media, .tracts, .drift, .sec, .lci, .pwr, .out, .fresh] d (bringupStep F d inp) := by
  unfold bringupStep
  conv => zeta
  refine Touches.ite ?_ ?_
  · exact Touches.refl _ _
  · refine Touches.ite ?_ ?_
    · refine Touches.comp (Dev.downEntry_touches ..) (by decide) ?_
      refine Touches.comp (stepWork_touches ..) (by decide) ?_
      exact Touches.refl _ _
    · refine Touches.comp (stepWork_touches ..) (by decide) ?_
      exact Touches.refl _ _

theorem Dev.linkNoted_touches (d) (h) (was) : Touches [.regs] d (Dev.linkNoted d h was) := by
  unfold Dev.linkNoted
  refine Touches.ite ?_ ?_
  · exact Touches.refl _ _
  · refine Touches.comp (Dev.icu_touches ..) (by decide) ?_
    exact Touches.refl _ _

theorem Dev.blank_touches (d) (off) : Touches [.regs, .a, .b, .tether, .launch, .gpio, .keel, .log, .cores, .sems, .images, .pmc, .bst, .dbg, .gon, .cache, .media, .tracts, .drift, .sec, .str, .lci, .therm] d (Dev.blank d off) := by
  unfold Dev.blank
  refine Touches.comp (Touches.put_regs_a_b_tether_launch_gpio_keel_log_cores_sems_images_pmc_bst_dbg_gon_cache_media_tracts_drift_sec_str_lci_therm ..) (by decide) ?_
  exact Touches.refl _ _

theorem Dev.wake_touches (d) (h) (low) : Touches [.a, .b, .out] d (Dev.wake d h low) := by
  unfold Dev.wake
  refine Touches.comp (Dev.emit_touches ..) (by decide) ?_
  refine Touches.comp (Dev.setHead_touches ..) (by decide) ?_
  exact Touches.refl _ _

theorem Dev.icuLive_touches (d) (n) : Touches [.regs] d (Dev.icuLive d n) := by
  unfold Dev.icuLive
  refine Touches.ite ?_ ?_
  · refine Touches.comp (Dev.icu_touches ..) (by decide) ?_
    exact Touches.refl _ _
  · exact Touches.refl _ _

theorem Dev.bringup_touches (d) (step) : Touches [.regs, .a, .b, .tether, .launch, .gpio, .keel, .log, .cores, .sems, .images, .pmc, .bst, .dbg, .gon, .cache, .media, .tracts, .drift, .sec, .str, .lci, .pwr, .therm] d (Dev.bringup d step) := by
  unfold Dev.bringup
  refine Touches.comp (Touches.put_pwr ..) (by decide) ?_
  refine Touches.comp (Dev.blank_touches ..) (by decide) ?_
  exact Touches.refl _ _

theorem Dev.safePoint_touches (d) : Touches [.regs, .a, .b, .tether, .launch, .gpio, .keel, .log, .cores, .sems, .images, .pmc, .bst, .dbg, .gon, .cache, .media, .tracts, .drift, .sec, .str, .lci, .pwr, .therm] d (Dev.safePoint d) := by
  unfold Dev.safePoint
  refine Touches.comp (Dev.bringup_touches ..) (by decide) ?_
  exact Touches.refl _ _

theorem Dev.lower_touches (d) (l) : Touches [.pwr, .out, .fresh] d (Dev.lower d l) := by
  unfold Dev.lower
  refine Touches.foldl (fun _ _ => ?_) ?_
  · refine Touches.comp (Dev.drive_touches ..) (by decide) ?_
    exact Touches.refl _ _
  · exact Touches.refl _ _

theorem countReset_touches (F) (d) : Touches [.regs, .log, .aon, .pwr, .out] d (countReset F d) := by
  unfold countReset
  conv => zeta
  refine Touches.ite ?_ ?_
  · refine Touches.comp (Touches.put_pwr ..) (by decide) ?_
    exact Touches.refl _ _
  · refine Touches.comp (Dev.emit_touches ..) (by decide) ?_
    refine Touches.comp (Touches.put_pwr ..) (by decide) ?_
    refine Touches.comp (Dev.event_touches ..) (by decide) ?_
    refine Touches.comp (Touches.put_pwr ..) (by decide) ?_
    refine Touches.comp (Touches.put_pwr ..) (by decide) ?_
    exact Touches.refl _ _

theorem offEnter_touches (F) (d) (why) (rip) : Touches [.regs, .a, .b, .tether, .launch, .gpio, .keel, .log, .aon, .cores, .sems, .images, .pmc, .bst, .dbg, .gon, .cache, .media, .tracts, .drift, .sec, .str, .lci, .pwr, .therm, .out] d (offEnter F d why rip) := by
  unfold offEnter
  conv => zeta
  refine Touches.ite ?_ ?_
  · refine Touches.comp (Dev.bringup_touches ..) (by decide) ?_
    refine Touches.comp (Touches.put_dbg_sec ..) (by decide) ?_
    refine Touches.ite ?_ ?_
    · refine Touches.comp (countReset_touches ..) (by decide) ?_
      refine Touches.ite ?_ ?_
      · refine Touches.comp (Touches.put_pwr ..) (by decide) ?_
        refine Touches.comp (Dev.blank_touches ..) (by decide) ?_
        refine Touches.foldl (fun _ _ => ?_) ?_
        · refine Touches.comp (Dev.keelWritten_touches ..) (by decide) ?_
          exact Touches.refl _ _
        · exact Touches.refl _ _
      · refine Touches.comp (Dev.faultRelease_touches ..) (by decide) ?_
        refine Touches.comp (Touches.put_pwr ..) (by decide) ?_
        refine Touches.comp (Dev.blank_touches ..) (by decide) ?_
        refine Touches.foldl (fun _ _ => ?_) ?_
        · refine Touches.comp (Dev.keelWritten_touches ..) (by decide) ?_
          exact Touches.refl _ _
        · exact Touches.refl _ _
    · refine Touches.ite ?_ ?_
      · refine Touches.comp (Touches.put_pwr ..) (by decide) ?_
        refine Touches.comp (Dev.blank_touches ..) (by decide) ?_
        refine Touches.foldl (fun _ _ => ?_) ?_
        · refine Touches.comp (Dev.keelWritten_touches ..) (by decide) ?_
          exact Touches.refl _ _
        · exact Touches.refl _ _
      · refine Touches.comp (Dev.faultRelease_touches ..) (by decide) ?_
        refine Touches.comp (Touches.put_pwr ..) (by decide) ?_
        refine Touches.comp (Dev.blank_touches ..) (by decide) ?_
        refine Touches.foldl (fun _ _ => ?_) ?_
        · refine Touches.comp (Dev.keelWritten_touches ..) (by decide) ?_
          exact Touches.refl _ _
        · exact Touches.refl _ _
  · refine Touches.ite ?_ ?_
    · refine Touches.foldl (fun _ _ => ?_) ?_
      · refine Touches.comp (Dev.wake_touches ..) (by decide) ?_
        exact Touches.refl _ _
      · refine Touches.ite ?_ ?_
        · refine Touches.comp (countReset_touches ..) (by decide) ?_
          refine Touches.ite ?_ ?_
          · refine Touches.comp (Touches.put_pwr ..) (by decide) ?_
            refine Touches.comp (Dev.blank_touches ..) (by decide) ?_
            refine Touches.foldl (fun _ _ => ?_) ?_
            · refine Touches.comp (Dev.keelWritten_touches ..) (by decide) ?_
              exact Touches.refl _ _
            · exact Touches.refl _ _
          · refine Touches.comp (Dev.faultRelease_touches ..) (by decide) ?_
            refine Touches.comp (Touches.put_pwr ..) (by decide) ?_
            refine Touches.comp (Dev.blank_touches ..) (by decide) ?_
            refine Touches.foldl (fun _ _ => ?_) ?_
            · refine Touches.comp (Dev.keelWritten_touches ..) (by decide) ?_
              exact Touches.refl _ _
            · exact Touches.refl _ _
        · refine Touches.ite ?_ ?_
          · refine Touches.comp (Touches.put_pwr ..) (by decide) ?_
            refine Touches.comp (Dev.blank_touches ..) (by decide) ?_
            refine Touches.foldl (fun _ _ => ?_) ?_
            · refine Touches.comp (Dev.keelWritten_touches ..) (by decide) ?_
              exact Touches.refl _ _
            · exact Touches.refl _ _
          · refine Touches.comp (Dev.faultRelease_touches ..) (by decide) ?_
            refine Touches.comp (Touches.put_pwr ..) (by decide) ?_
            refine Touches.comp (Dev.blank_touches ..) (by decide) ?_
            refine Touches.foldl (fun _ _ => ?_) ?_
            · refine Touches.comp (Dev.keelWritten_touches ..) (by decide) ?_
              exact Touches.refl _ _
            · exact Touches.refl _ _
    · refine Touches.ite ?_ ?_
      · refine Touches.ite ?_ ?_
        · refine Touches.comp (Touches.put_pwr ..) (by decide) ?_
          refine Touches.ite ?_ ?_
          · refine Touches.comp (countReset_touches ..) (by decide) ?_
            refine Touches.ite ?_ ?_
            · refine Touches.comp (Touches.put_pwr ..) (by decide) ?_
              refine Touches.comp (Dev.blank_touches ..) (by decide) ?_
              refine Touches.foldl (fun _ _ => ?_) ?_
              · refine Touches.comp (Dev.keelWritten_touches ..) (by decide) ?_
                exact Touches.refl _ _
              · exact Touches.refl _ _
            · refine Touches.comp (Dev.faultRelease_touches ..) (by decide) ?_
              refine Touches.comp (Touches.put_pwr ..) (by decide) ?_
              refine Touches.comp (Dev.blank_touches ..) (by decide) ?_
              refine Touches.foldl (fun _ _ => ?_) ?_
              · refine Touches.comp (Dev.keelWritten_touches ..) (by decide) ?_
                exact Touches.refl _ _
              · exact Touches.refl _ _
          · refine Touches.ite ?_ ?_
            · refine Touches.comp (Touches.put_pwr ..) (by decide) ?_
              refine Touches.comp (Dev.blank_touches ..) (by decide) ?_
              refine Touches.foldl (fun _ _ => ?_) ?_
              · refine Touches.comp (Dev.keelWritten_touches ..) (by decide) ?_
                exact Touches.refl _ _
              · exact Touches.refl _ _
            · refine Touches.comp (Dev.faultRelease_touches ..) (by decide) ?_
              refine Touches.comp (Touches.put_pwr ..) (by decide) ?_
              refine Touches.comp (Dev.blank_touches ..) (by decide) ?_
              refine Touches.foldl (fun _ _ => ?_) ?_
              · refine Touches.comp (Dev.keelWritten_touches ..) (by decide) ?_
                exact Touches.refl _ _
              · exact Touches.refl _ _
        · refine Touches.ite ?_ ?_
          · refine Touches.comp (countReset_touches ..) (by decide) ?_
            refine Touches.ite ?_ ?_
            · refine Touches.comp (Touches.put_pwr ..) (by decide) ?_
              refine Touches.comp (Dev.blank_touches ..) (by decide) ?_
              refine Touches.foldl (fun _ _ => ?_) ?_
              · refine Touches.comp (Dev.keelWritten_touches ..) (by decide) ?_
                exact Touches.refl _ _
              · exact Touches.refl _ _
            · refine Touches.comp (Dev.faultRelease_touches ..) (by decide) ?_
              refine Touches.comp (Touches.put_pwr ..) (by decide) ?_
              refine Touches.comp (Dev.blank_touches ..) (by decide) ?_
              refine Touches.foldl (fun _ _ => ?_) ?_
              · refine Touches.comp (Dev.keelWritten_touches ..) (by decide) ?_
                exact Touches.refl _ _
              · exact Touches.refl _ _
          · refine Touches.ite ?_ ?_
            · refine Touches.comp (Touches.put_pwr ..) (by decide) ?_
              refine Touches.comp (Dev.blank_touches ..) (by decide) ?_
              refine Touches.foldl (fun _ _ => ?_) ?_
              · refine Touches.comp (Dev.keelWritten_touches ..) (by decide) ?_
                exact Touches.refl _ _
              · exact Touches.refl _ _
            · refine Touches.comp (Dev.faultRelease_touches ..) (by decide) ?_
              refine Touches.comp (Touches.put_pwr ..) (by decide) ?_
              refine Touches.comp (Dev.blank_touches ..) (by decide) ?_
              refine Touches.foldl (fun _ _ => ?_) ?_
              · refine Touches.comp (Dev.keelWritten_touches ..) (by decide) ?_
                exact Touches.refl _ _
              · exact Touches.refl _ _
      · refine Touches.ite ?_ ?_
        · refine Touches.comp (countReset_touches ..) (by decide) ?_
          refine Touches.ite ?_ ?_
          · refine Touches.comp (Touches.put_pwr ..) (by decide) ?_
            refine Touches.comp (Dev.blank_touches ..) (by decide) ?_
            refine Touches.foldl (fun _ _ => ?_) ?_
            · refine Touches.comp (Dev.keelWritten_touches ..) (by decide) ?_
              exact Touches.refl _ _
            · exact Touches.refl _ _
          · refine Touches.comp (Dev.faultRelease_touches ..) (by decide) ?_
            refine Touches.comp (Touches.put_pwr ..) (by decide) ?_
            refine Touches.comp (Dev.blank_touches ..) (by decide) ?_
            refine Touches.foldl (fun _ _ => ?_) ?_
            · refine Touches.comp (Dev.keelWritten_touches ..) (by decide) ?_
              exact Touches.refl _ _
            · exact Touches.refl _ _
        · refine Touches.ite ?_ ?_
          · refine Touches.comp (Touches.put_pwr ..) (by decide) ?_
            refine Touches.comp (Dev.blank_touches ..) (by decide) ?_
            refine Touches.foldl (fun _ _ => ?_) ?_
            · refine Touches.comp (Dev.keelWritten_touches ..) (by decide) ?_
              exact Touches.refl _ _
            · exact Touches.refl _ _
          · refine Touches.comp (Dev.faultRelease_touches ..) (by decide) ?_
            refine Touches.comp (Touches.put_pwr ..) (by decide) ?_
            refine Touches.comp (Dev.blank_touches ..) (by decide) ?_
            refine Touches.foldl (fun _ _ => ?_) ?_
            · refine Touches.comp (Dev.keelWritten_touches ..) (by decide) ?_
              exact Touches.refl _ _
            · exact Touches.refl _ _

theorem cutAll_touches (F) (d) (cause) : Touches [.regs, .keel, .log, .aon, .str, .lci] d (cutAll F d cause) := by
  unfold cutAll
  refine Touches.comp (Touches.put_str_lci ..) (by decide) ?_
  refine Touches.foldl (fun _ _ => ?_) ?_
  · refine Touches.comp (Dev.setRbit_touches ..) (by decide) ?_
    exact Touches.refl _ _
  · refine Touches.foldl (fun _ _ => ?_) ?_
    · refine Touches.comp (uwlAdd_touches ..) (by decide) ?_
      exact Touches.refl _ _
    · refine Touches.comp (uwlAdd_touches ..) (by decide) ?_
      exact Touches.refl _ _

theorem flushEntry_touches (F) (d) (why) (rip) : Touches [.regs, .a, .b, .tether, .keel, .log, .aon, .cache, .media, .str, .lci, .pwr, .out, .fresh] d (flushEntry F d why rip) := by
  unfold flushEntry
  conv => zeta
  refine Touches.ite ?_ ?_
  · refine Touches.comp (Dev.linkNoted_touches ..) (by decide) ?_
    refine Touches.comp (Dev.linkNoted_touches ..) (by decide) ?_
    refine Touches.comp (Touches.put_a_b ..) (by decide) ?_
    refine Touches.comp (cutAll_touches ..) (by decide) ?_
    refine Touches.foldl (fun _ _ => ?_) ?_
    · refine Touches.comp (Dev.slotCancel_touches ..) (by decide) ?_
      exact Touches.refl _ _
    · refine Touches.ite ?_ ?_
      · refine Touches.comp (Dev.windowAbort_touches ..) (by decide) ?_
        refine Touches.ite ?_ ?_
        · refine Touches.comp (Dev.icu_touches ..) (by decide) ?_
          refine Touches.comp (Touches.put_pwr ..) (by decide) ?_
          refine Touches.comp (Dev.setSvc_touches ..) (by decide) ?_
          refine Touches.comp (Dev.measureStop_touches ..) (by decide) ?_
          refine Touches.comp (Dev.marginEnd_touches ..) (by decide) ?_
          exact Touches.refl _ _
        · refine Touches.comp (Touches.put_pwr ..) (by decide) ?_
          refine Touches.comp (Dev.setSvc_touches ..) (by decide) ?_
          refine Touches.comp (Dev.measureStop_touches ..) (by decide) ?_
          refine Touches.comp (Dev.marginEnd_touches ..) (by decide) ?_
          exact Touches.refl _ _
      · refine Touches.ite ?_ ?_
        · refine Touches.comp (Dev.icu_touches ..) (by decide) ?_
          refine Touches.comp (Touches.put_pwr ..) (by decide) ?_
          refine Touches.comp (Dev.setSvc_touches ..) (by decide) ?_
          refine Touches.comp (Dev.measureStop_touches ..) (by decide) ?_
          refine Touches.comp (Dev.marginEnd_touches ..) (by decide) ?_
          exact Touches.refl _ _
        · refine Touches.comp (Touches.put_pwr ..) (by decide) ?_
          refine Touches.comp (Dev.setSvc_touches ..) (by decide) ?_
          refine Touches.comp (Dev.measureStop_touches ..) (by decide) ?_
          refine Touches.comp (Dev.marginEnd_touches ..) (by decide) ?_
          exact Touches.refl _ _
  · refine Touches.comp (cutAll_touches ..) (by decide) ?_
    refine Touches.foldl (fun _ _ => ?_) ?_
    · refine Touches.comp (Dev.slotCancel_touches ..) (by decide) ?_
      exact Touches.refl _ _
    · refine Touches.ite ?_ ?_
      · refine Touches.comp (Dev.windowAbort_touches ..) (by decide) ?_
        refine Touches.ite ?_ ?_
        · refine Touches.comp (Dev.icu_touches ..) (by decide) ?_
          refine Touches.comp (Touches.put_pwr ..) (by decide) ?_
          refine Touches.comp (Dev.setSvc_touches ..) (by decide) ?_
          refine Touches.comp (Dev.measureStop_touches ..) (by decide) ?_
          refine Touches.comp (Dev.marginEnd_touches ..) (by decide) ?_
          exact Touches.refl _ _
        · refine Touches.comp (Touches.put_pwr ..) (by decide) ?_
          refine Touches.comp (Dev.setSvc_touches ..) (by decide) ?_
          refine Touches.comp (Dev.measureStop_touches ..) (by decide) ?_
          refine Touches.comp (Dev.marginEnd_touches ..) (by decide) ?_
          exact Touches.refl _ _
      · refine Touches.ite ?_ ?_
        · refine Touches.comp (Dev.icu_touches ..) (by decide) ?_
          refine Touches.comp (Touches.put_pwr ..) (by decide) ?_
          refine Touches.comp (Dev.setSvc_touches ..) (by decide) ?_
          refine Touches.comp (Dev.measureStop_touches ..) (by decide) ?_
          refine Touches.comp (Dev.marginEnd_touches ..) (by decide) ?_
          exact Touches.refl _ _
        · refine Touches.comp (Touches.put_pwr ..) (by decide) ?_
          refine Touches.comp (Dev.setSvc_touches ..) (by decide) ?_
          refine Touches.comp (Dev.measureStop_touches ..) (by decide) ?_
          refine Touches.comp (Dev.marginEnd_touches ..) (by decide) ?_
          exact Touches.refl _ _

theorem Dev.rcRead_touches (d) (off) (hi) (lo) : Touches [.regs] d (Dev.rcRead d off hi lo) := by
  unfold Dev.rcRead
  refine Touches.foldl (fun _ _ => ?_) ?_
  · refine Touches.comp (Dev.setFld_touches ..) (by decide) ?_
    exact Touches.refl _ _
  · exact Touches.refl _ _

theorem Dev.rcClear_touches (d) (off) : Touches [.regs] d (Dev.rcClear d off) := by
  unfold Dev.rcClear
  refine Touches.comp (Dev.rcRead_touches ..) (by decide) ?_
  exact Touches.refl _ _

theorem Dev.setArmed_touches (d) (on) : Touches [.regs, .gon] d (Dev.setArmed d on) := by
  unfold Dev.setArmed
  refine Touches.ite ?_ ?_
  · exact Touches.refl _ _
  · refine Touches.comp (Dev.icu_touches ..) (by decide) ?_
    refine Touches.comp (Touches.put_gon ..) (by decide) ?_
    exact Touches.refl _ _

theorem marginWrite_touches (d) (v) : Touches [.regs, .tether, .pmc, .gon, .media, .pwr, .out] d (marginWrite d v) := by
  unfold marginWrite
  conv => zeta
  refine Touches.ite ?_ ?_
  · exact Touches.refl _ _
  · refine Touches.ite ?_ ?_
    · split
      · refine Touches.comp (Touches.put_pwr ..) (by decide) ?_
        refine Touches.comp (Dev.advance_touches ..) (by decide) ?_
        refine Touches.comp (Dev.emit_touches ..) (by decide) ?_
        refine Touches.comp (Dev.setReg_touches ..) (by decide) ?_
        exact Touches.refl _ _
      · refine Touches.comp (Dev.setReg_touches ..) (by decide) ?_
        exact Touches.refl _ _
    · refine Touches.comp (Dev.emit_touches ..) (by decide) ?_
      refine Touches.comp (Touches.put_pwr ..) (by decide) ?_
      refine Touches.comp (Dev.setArmed_touches ..) (by decide) ?_
      refine Touches.comp (Dev.setReg_touches ..) (by decide) ?_
      exact Touches.refl _ _

theorem Dev.tryUp_touches (d) : Touches [.regs, .a, .b, .tether, .launch, .gpio, .keel, .log, .cores, .sems, .images, .pmc, .bst, .dbg, .gon, .cache, .media, .tracts, .drift, .sec, .str, .lci, .pwr, .therm] d (Dev.tryUp d) := by
  unfold Dev.tryUp
  refine Touches.ite ?_ ?_
  · refine Touches.comp (Dev.bringup_touches ..) (by decide) ?_
    exact Touches.refl _ _
  · exact Touches.refl _ _

theorem systemReset_touches (F) (d) (bare) : Touches [.regs, .a, .b, .tether, .keel, .log, .aon, .cache, .media, .str, .lci, .pwr, .out, .fresh] d (systemReset F d bare) := by
  unfold systemReset
  conv => zeta
  refine Touches.ite ?_ ?_
  · exact Touches.refl _ _
  · split
    · refine Touches.ite ?_ ?_
      · refine Touches.comp (Touches.put_pwr ..) (by decide) ?_
        refine Touches.comp (Dev.faultLevel_touches ..) (by decide) ?_
        exact Touches.refl _ _
      · refine Touches.comp (Touches.put_pwr ..) (by decide) ?_
        refine Touches.comp (Dev.faultLevel_touches ..) (by decide) ?_
        exact Touches.refl _ _
    · refine Touches.ite ?_ ?_
      · refine Touches.comp (Dev.downEntry_touches ..) (by decide) ?_
        refine Touches.comp (Dev.faultLevel_touches ..) (by decide) ?_
        exact Touches.refl _ _
      · refine Touches.ite ?_ ?_
        · refine Touches.comp (flushEntry_touches ..) (by decide) ?_
          refine Touches.comp (Dev.faultLevel_touches ..) (by decide) ?_
          exact Touches.refl _ _
        · refine Touches.comp (Dev.downEntry_touches ..) (by decide) ?_
          refine Touches.comp (Dev.faultLevel_touches ..) (by decide) ?_
          exact Touches.refl _ _

theorem Dev.side_touches (d) (payload) : Touches [.out] d (Dev.side d payload) := by
  unfold Dev.side
  refine Touches.comp (Dev.emit_touches ..) (by decide) ?_
  exact Touches.refl _ _

theorem Dev.arp_touches (d) (addr) : Touches [.therm, .out] d (Dev.arp d addr) := by
  unfold Dev.arp
  refine Touches.comp (Dev.side_touches ..) (by decide) ?_
  refine Touches.comp (Touches.put_therm ..) (by decide) ?_
  exact Touches.refl _ _

theorem Dev.mctp_touches (d) : Touches [.regs] d (Dev.mctp d) := by
  unfold Dev.mctp
  refine Touches.comp (Dev.icuLive_touches ..) (by decide) ?_
  exact Touches.refl _ _

theorem Dev.mctpVersion_touches (d) (type) : Touches [.out] d (Dev.mctpVersion d type) := by
  unfold Dev.mctpVersion
  refine Touches.ite ?_ ?_
  · refine Touches.comp (Dev.side_touches ..) (by decide) ?_
    exact Touches.refl _ _
  · refine Touches.comp (Dev.side_touches ..) (by decide) ?_
    exact Touches.refl _ _

theorem Dev.setEid_touches (d) (eid) (op) : Touches [.therm, .out] d (Dev.setEid d eid op) := by
  unfold Dev.setEid
  refine Touches.ite ?_ ?_
  · refine Touches.comp (Dev.side_touches ..) (by decide) ?_
    exact Touches.refl _ _
  · refine Touches.comp (Dev.side_touches ..) (by decide) ?_
    refine Touches.comp (Touches.put_therm ..) (by decide) ?_
    exact Touches.refl _ _

theorem sliceEnd_touches (d) (x) (cov) (dur) (fault) (skipped) : Touches [.regs, .pmc, .bst, .lci] d (sliceEnd d x cov dur fault skipped) := by
  unfold sliceEnd
  conv => zeta
  split
  · refine Touches.comp (Touches.put_bst ..) (by decide) ?_
    exact Touches.refl _ _
  · split
    · refine Touches.comp (Touches.put_bst ..) (by decide) ?_
      exact Touches.refl _ _
    · refine Touches.ite ?_ ?_
      · refine Touches.comp (Dev.finish_touches ..) (by decide) ?_
        refine Touches.comp (Touches.put_bst ..) (by decide) ?_
        refine Touches.comp (Touches.put_bst ..) (by decide) ?_
        exact Touches.refl _ _
      · refine Touches.comp (Dev.mapCmd_touches ..) (by decide) ?_
        refine Touches.comp (Touches.put_bst ..) (by decide) ?_
        refine Touches.comp (Touches.put_bst ..) (by decide) ?_
        exact Touches.refl _ _

theorem Dev.setSensor_touches (d) (i) (x) : Touches [.therm] d (Dev.setSensor d i x) := by
  unfold Dev.setSensor
  refine Touches.comp (Touches.put_therm ..) (by decide) ?_
  exact Touches.refl _ _

theorem sliceFault_touches (F) (d) (x) : Touches [.regs, .log, .aon, .bst, .media, .therm] d (sliceFault F d x) := by
  unfold sliceFault
  conv => zeta
  split
  · refine Touches.ite ?_ ?_
    · refine Touches.comp (Dev.retrainAsk_touches ..) (by decide) ?_
      refine Touches.comp (Dev.event_touches ..) (by decide) ?_
      refine Touches.comp (Touches.put_bst ..) (by decide) ?_
      exact Touches.refl _ _
    · refine Touches.comp (Touches.put_bst ..) (by decide) ?_
      refine Touches.comp (Dev.event_touches ..) (by decide) ?_
      refine Touches.comp (Touches.put_bst ..) (by decide) ?_
      exact Touches.refl _ _
  · refine Touches.ite ?_ ?_
    · refine Touches.comp (Dev.icu_touches ..) (by decide) ?_
      refine Touches.comp (Dev.event_touches ..) (by decide) ?_
      refine Touches.comp (Dev.setSensor_touches ..) (by decide) ?_
      refine Touches.comp (Dev.event_touches ..) (by decide) ?_
      refine Touches.comp (Touches.put_bst ..) (by decide) ?_
      exact Touches.refl _ _
    · refine Touches.ite ?_ ?_
      · refine Touches.comp (Dev.event_touches ..) (by decide) ?_
        refine Touches.comp (Touches.put_bst ..) (by decide) ?_
        exact Touches.refl _ _
      · refine Touches.comp (Touches.put_bst ..) (by decide) ?_
        refine Touches.comp (Dev.event_touches ..) (by decide) ?_
        refine Touches.comp (Touches.put_bst ..) (by decide) ?_
        exact Touches.refl _ _
  · refine Touches.comp (Dev.event_touches ..) (by decide) ?_
    refine Touches.comp (Touches.put_bst ..) (by decide) ?_
    exact Touches.refl _ _

theorem sliceRun_touches (F) (d) (n) (fault) (lock) : Touches [.regs, .tether, .log, .aon, .pmc, .bst, .media, .lci, .therm] d (sliceRun F d n fault lock) := by
  unfold sliceRun
  conv => zeta
  split
  · exact Touches.refl _ _
  · refine Touches.ite ?_ ?_
    · refine Touches.comp (sliceEnd_touches ..) (by decide) ?_
      exact Touches.refl _ _
    · refine Touches.ite ?_ ?_
      · exact Touches.refl _ _
      · split
        · refine Touches.ite ?_ ?_
          · refine Touches.ite ?_ ?_
            · refine Touches.comp (sliceEnd_touches ..) (by decide) ?_
              refine Touches.comp (Touches.put_bst ..) (by decide) ?_
              exact Touches.refl _ _
            · refine Touches.comp (Touches.put_bst ..) (by decide) ?_
              refine Touches.comp (Touches.put_bst ..) (by decide) ?_
              exact Touches.refl _ _
          · refine Touches.ite ?_ ?_
            · refine Touches.comp (sliceFault_touches ..) (by decide) ?_
              refine Touches.comp (Dev.icu_touches ..) (by decide) ?_
              refine Touches.comp (sliceEnd_touches ..) (by decide) ?_
              refine Touches.ite ?_ ?_
              · refine Touches.comp (Dev.advance_touches ..) (by decide) ?_
                refine Touches.comp (Touches.put_bst ..) (by decide) ?_
                exact Touches.refl _ _
              · refine Touches.comp (Touches.put_bst ..) (by decide) ?_
                exact Touches.refl _ _
            · refine Touches.comp (Dev.icu_touches ..) (by decide) ?_
              refine Touches.comp (sliceEnd_touches ..) (by decide) ?_
              refine Touches.ite ?_ ?_
              · refine Touches.comp (Dev.advance_touches ..) (by decide) ?_
                refine Touches.comp (Touches.put_bst ..) (by decide) ?_
                exact Touches.refl _ _
              · refine Touches.comp (Touches.put_bst ..) (by decide) ?_
                exact Touches.refl _ _

theorem slicesQueue_touches (F) (d) : Touches [.bst] d (slicesQueue F d) := by
  unfold slicesQueue
  refine Touches.ite ?_ ?_
  · exact Touches.refl _ _
  · refine Touches.comp (Touches.put_bst ..) (by decide) ?_
    exact Touches.refl _ _

theorem Dev.unlimit_touches (d) : Touches [.pwr, .out] d (Dev.unlimit d) := by
  unfold Dev.unlimit
  refine Touches.ite ?_ ?_
  · refine Touches.comp (Dev.faultRelease_touches ..) (by decide) ?_
    refine Touches.comp (Touches.put_pwr ..) (by decide) ?_
    exact Touches.refl _ _
  · exact Touches.refl _ _

theorem armEval_touches (F) (d) (vh) : Touches [.regs, .a, .b, .tether, .keel, .log, .aon, .pmc, .gon, .cache, .media, .str, .lci, .pwr, .out, .fresh] d (armEval F d vh) := by
  unfold armEval
  conv => zeta
  refine Touches.ite ?_ ?_
  · refine Touches.comp (flushEntry_touches ..) (by decide) ?_
    refine Touches.comp (Dev.icu_touches ..) (by decide) ?_
    refine Touches.ite ?_ ?_
    · refine Touches.comp (Touches.put_gon ..) (by decide) ?_
      refine Touches.ite ?_ ?_
      · refine Touches.comp (Dev.setArmed_touches ..) (by decide) ?_
        refine Touches.ite ?_ ?_
        · refine Touches.comp (Dev.measureStop_touches ..) (by decide) ?_
          refine Touches.comp (Touches.put_pwr ..) (by decide) ?_
          refine Touches.comp (Dev.tick_touches ..) (by decide) ?_
          exact Touches.refl _ _
        · refine Touches.comp (Touches.put_pwr ..) (by decide) ?_
          refine Touches.comp (Dev.tick_touches ..) (by decide) ?_
          exact Touches.refl _ _
      · refine Touches.ite ?_ ?_
        · refine Touches.comp (Dev.setArmed_touches ..) (by decide) ?_
          refine Touches.ite ?_ ?_
          · refine Touches.comp (Dev.measureStop_touches ..) (by decide) ?_
            refine Touches.comp (Touches.put_pwr ..) (by decide) ?_
            refine Touches.comp (Dev.tick_touches ..) (by decide) ?_
            exact Touches.refl _ _
          · refine Touches.comp (Touches.put_pwr ..) (by decide) ?_
            refine Touches.comp (Dev.tick_touches ..) (by decide) ?_
            exact Touches.refl _ _
        · refine Touches.ite ?_ ?_
          · refine Touches.comp (Dev.measureStop_touches ..) (by decide) ?_
            refine Touches.comp (Touches.put_pwr ..) (by decide) ?_
            refine Touches.comp (Dev.tick_touches ..) (by decide) ?_
            exact Touches.refl _ _
          · refine Touches.comp (Touches.put_pwr ..) (by decide) ?_
            refine Touches.comp (Dev.tick_touches ..) (by decide) ?_
            exact Touches.refl _ _
    · refine Touches.ite ?_ ?_
      · refine Touches.comp (Dev.setArmed_touches ..) (by decide) ?_
        refine Touches.ite ?_ ?_
        · refine Touches.comp (Dev.measureStop_touches ..) (by decide) ?_
          refine Touches.comp (Touches.put_pwr ..) (by decide) ?_
          refine Touches.comp (Dev.tick_touches ..) (by decide) ?_
          exact Touches.refl _ _
        · refine Touches.comp (Touches.put_pwr ..) (by decide) ?_
          refine Touches.comp (Dev.tick_touches ..) (by decide) ?_
          exact Touches.refl _ _
      · refine Touches.ite ?_ ?_
        · refine Touches.comp (Dev.setArmed_touches ..) (by decide) ?_
          refine Touches.ite ?_ ?_
          · refine Touches.comp (Dev.measureStop_touches ..) (by decide) ?_
            refine Touches.comp (Touches.put_pwr ..) (by decide) ?_
            refine Touches.comp (Dev.tick_touches ..) (by decide) ?_
            exact Touches.refl _ _
          · refine Touches.comp (Touches.put_pwr ..) (by decide) ?_
            refine Touches.comp (Dev.tick_touches ..) (by decide) ?_
            exact Touches.refl _ _
        · refine Touches.ite ?_ ?_
          · refine Touches.comp (Dev.measureStop_touches ..) (by decide) ?_
            refine Touches.comp (Touches.put_pwr ..) (by decide) ?_
            refine Touches.comp (Dev.tick_touches ..) (by decide) ?_
            exact Touches.refl _ _
          · refine Touches.comp (Touches.put_pwr ..) (by decide) ?_
            refine Touches.comp (Dev.tick_touches ..) (by decide) ?_
            exact Touches.refl _ _
  · refine Touches.ite ?_ ?_
    · refine Touches.comp (Touches.put_gon ..) (by decide) ?_
      refine Touches.ite ?_ ?_
      · refine Touches.comp (Dev.setArmed_touches ..) (by decide) ?_
        refine Touches.ite ?_ ?_
        · refine Touches.comp (Dev.measureStop_touches ..) (by decide) ?_
          refine Touches.comp (Touches.put_pwr ..) (by decide) ?_
          refine Touches.comp (Dev.tick_touches ..) (by decide) ?_
          exact Touches.refl _ _
        · refine Touches.comp (Touches.put_pwr ..) (by decide) ?_
          refine Touches.comp (Dev.tick_touches ..) (by decide) ?_
          exact Touches.refl _ _
      · refine Touches.ite ?_ ?_
        · refine Touches.comp (Dev.setArmed_touches ..) (by decide) ?_
          refine Touches.ite ?_ ?_
          · refine Touches.comp (Dev.measureStop_touches ..) (by decide) ?_
            refine Touches.comp (Touches.put_pwr ..) (by decide) ?_
            refine Touches.comp (Dev.tick_touches ..) (by decide) ?_
            exact Touches.refl _ _
          · refine Touches.comp (Touches.put_pwr ..) (by decide) ?_
            refine Touches.comp (Dev.tick_touches ..) (by decide) ?_
            exact Touches.refl _ _
        · refine Touches.ite ?_ ?_
          · refine Touches.comp (Dev.measureStop_touches ..) (by decide) ?_
            refine Touches.comp (Touches.put_pwr ..) (by decide) ?_
            refine Touches.comp (Dev.tick_touches ..) (by decide) ?_
            exact Touches.refl _ _
          · refine Touches.comp (Touches.put_pwr ..) (by decide) ?_
            refine Touches.comp (Dev.tick_touches ..) (by decide) ?_
            exact Touches.refl _ _
    · refine Touches.ite ?_ ?_
      · refine Touches.comp (Dev.setArmed_touches ..) (by decide) ?_
        refine Touches.ite ?_ ?_
        · refine Touches.comp (Dev.measureStop_touches ..) (by decide) ?_
          refine Touches.comp (Touches.put_pwr ..) (by decide) ?_
          refine Touches.comp (Dev.tick_touches ..) (by decide) ?_
          exact Touches.refl _ _
        · refine Touches.comp (Touches.put_pwr ..) (by decide) ?_
          refine Touches.comp (Dev.tick_touches ..) (by decide) ?_
          exact Touches.refl _ _
      · refine Touches.ite ?_ ?_
        · refine Touches.comp (Dev.setArmed_touches ..) (by decide) ?_
          refine Touches.ite ?_ ?_
          · refine Touches.comp (Dev.measureStop_touches ..) (by decide) ?_
            refine Touches.comp (Touches.put_pwr ..) (by decide) ?_
            refine Touches.comp (Dev.tick_touches ..) (by decide) ?_
            exact Touches.refl _ _
          · refine Touches.comp (Touches.put_pwr ..) (by decide) ?_
            refine Touches.comp (Dev.tick_touches ..) (by decide) ?_
            exact Touches.refl _ _
        · refine Touches.ite ?_ ?_
          · refine Touches.comp (Dev.measureStop_touches ..) (by decide) ?_
            refine Touches.comp (Touches.put_pwr ..) (by decide) ?_
            refine Touches.comp (Dev.tick_touches ..) (by decide) ?_
            exact Touches.refl _ _
          · refine Touches.comp (Touches.put_pwr ..) (by decide) ?_
            refine Touches.comp (Dev.tick_touches ..) (by decide) ?_
            exact Touches.refl _ _

theorem faultGone_touches (d) : Touches [.pwr] d (faultGone d) := by
  unfold faultGone
  refine Touches.comp (Touches.put_pwr ..) (by decide) ?_
  exact Touches.refl _ _

theorem faultSeen_touches (F) (d) : Touches [.regs, .a, .b, .tether, .keel, .log, .aon, .cache, .media, .str, .lci, .pwr, .out, .fresh] d (faultSeen F d) := by
  unfold faultSeen
  conv => zeta
  refine Touches.ite ?_ ?_
  · exact Touches.refl _ _
  · split
    · split
      · refine Touches.comp (Dev.downEntry_touches ..) (by decide) ?_
        refine Touches.comp (Touches.put_pwr ..) (by decide) ?_
        refine Touches.comp (Dev.icu_touches ..) (by decide) ?_
        refine Touches.comp (Dev.event_touches ..) (by decide) ?_
        refine Touches.comp (Touches.put_pwr ..) (by decide) ?_
        exact Touches.refl _ _
      · refine Touches.comp (flushEntry_touches ..) (by decide) ?_
        refine Touches.comp (Touches.put_pwr ..) (by decide) ?_
        refine Touches.comp (Dev.icu_touches ..) (by decide) ?_
        refine Touches.comp (Dev.event_touches ..) (by decide) ?_
        refine Touches.comp (Touches.put_pwr ..) (by decide) ?_
        exact Touches.refl _ _
      · refine Touches.comp (flushEntry_touches ..) (by decide) ?_
        refine Touches.comp (Touches.put_pwr ..) (by decide) ?_
        refine Touches.comp (Dev.icu_touches ..) (by decide) ?_
        refine Touches.comp (Dev.event_touches ..) (by decide) ?_
        refine Touches.comp (Touches.put_pwr ..) (by decide) ?_
        exact Touches.refl _ _
      · refine Touches.comp (Touches.put_pwr ..) (by decide) ?_
        refine Touches.comp (Dev.icu_touches ..) (by decide) ?_
        refine Touches.comp (Dev.event_touches ..) (by decide) ?_
        refine Touches.comp (Touches.put_pwr ..) (by decide) ?_
        exact Touches.refl _ _
    · refine Touches.comp (systemReset_touches ..) (by decide) ?_
      refine Touches.comp (Dev.icu_touches ..) (by decide) ?_
      refine Touches.comp (Dev.event_touches ..) (by decide) ?_
      refine Touches.comp (Touches.put_pwr ..) (by decide) ?_
      exact Touches.refl _ _
    · refine Touches.comp (Dev.icu_touches ..) (by decide) ?_
      refine Touches.comp (Dev.event_touches ..) (by decide) ?_
      refine Touches.comp (Touches.put_pwr ..) (by decide) ?_
      exact Touches.refl _ _

theorem groupDown_touches (F) (d) (n) : Touches [.pwr, .out, .fresh] d (groupDown F d n) := by
  unfold groupDown
  refine Touches.foldl (fun _ _ => ?_) ?_
  · refine Touches.comp (Dev.setSeq_touches ..) (by decide) ?_
    refine Touches.ite ?_ ?_
    · refine Touches.comp (Dev.drive_touches ..) (by decide) ?_
      exact Touches.refl _ _
    · exact Touches.refl _ _
  · exact Touches.refl _ _

theorem inputBad_touches (d) (vin) : Touches [.regs, .pwr, .out, .fresh] d (inputBad d vin) := by
  unfold inputBad
  conv => zeta
  refine Touches.ite ?_ ?_
  · refine Touches.comp (Touches.put_pwr ..) (by decide) ?_
    exact Touches.refl _ _
  · split
    · refine Touches.comp (Dev.unlimit_touches ..) (by decide) ?_
      refine Touches.comp (Dev.measureStop_touches ..) (by decide) ?_
      refine Touches.comp (Touches.put_pwr ..) (by decide) ?_
      refine Touches.comp (Touches.put_pwr ..) (by decide) ?_
      exact Touches.refl _ _
    · refine Touches.comp (Touches.put_pwr ..) (by decide) ?_
      refine Touches.comp (Dev.measureStop_touches ..) (by decide) ?_
      refine Touches.comp (Touches.put_pwr ..) (by decide) ?_
      refine Touches.comp (Touches.put_pwr ..) (by decide) ?_
      exact Touches.refl _ _
    · refine Touches.ite ?_ ?_
      · refine Touches.comp (Dev.measureStop_touches ..) (by decide) ?_
        refine Touches.comp (Touches.put_pwr ..) (by decide) ?_
        refine Touches.comp (Touches.put_pwr ..) (by decide) ?_
        exact Touches.refl _ _
      · refine Touches.comp (Dev.icu_touches ..) (by decide) ?_
        refine Touches.comp (Touches.put_pwr ..) (by decide) ?_
        refine Touches.comp (Dev.measureStop_touches ..) (by decide) ?_
        refine Touches.comp (Touches.put_pwr ..) (by decide) ?_
        refine Touches.comp (Touches.put_pwr ..) (by decide) ?_
        exact Touches.refl _ _
    · refine Touches.comp (Dev.measureStop_touches ..) (by decide) ?_
      refine Touches.comp (Touches.put_pwr ..) (by decide) ?_
      refine Touches.comp (Touches.put_pwr ..) (by decide) ?_
      exact Touches.refl _ _

theorem inputGood_touches (d) (vin) : Touches [.regs, .a, .b, .tether, .launch, .gpio, .keel, .log, .cores, .sems, .images, .pmc, .bst, .dbg, .gon, .cache, .media, .tracts, .drift, .sec, .str, .lci, .pwr, .therm] d (inputGood d vin) := by
  unfold inputGood
  conv => zeta
  refine Touches.ite ?_ ?_
  · refine Touches.comp (Dev.tryUp_touches ..) (by decide) ?_
    refine Touches.comp (Touches.put_pwr ..) (by decide) ?_
    refine Touches.comp (Touches.put_pwr ..) (by decide) ?_
    exact Touches.refl _ _
  · refine Touches.comp (Touches.put_pwr ..) (by decide) ?_
    exact Touches.refl _ _

theorem measureEnd_touches (d) (ns) (completed) : Touches [.regs, .tether, .pmc, .media, .pwr, .out, .fresh] d (measureEnd d ns completed) := by
  unfold measureEnd
  conv => zeta
  refine Touches.ite ?_ ?_
  · exact Touches.refl _ _
  · refine Touches.ite ?_ ?_
    · refine Touches.comp (Touches.put_pwr ..) (by decide) ?_
      refine Touches.comp (Dev.advance_touches ..) (by decide) ?_
      refine Touches.comp (Dev.measureStop_touches ..) (by decide) ?_
      exact Touches.refl _ _
    · refine Touches.comp (Dev.measureStop_touches ..) (by decide) ?_
      exact Touches.refl _ _

theorem measureStart_touches (d) (vh) : Touches [.pwr, .out, .fresh] d (measureStart d vh) := by
  unfold measureStart
  conv => zeta
  split
  · refine Touches.ite ?_ ?_
    · refine Touches.comp (Dev.drive_touches ..) (by decide) ?_
      refine Touches.comp (Dev.drive_touches ..) (by decide) ?_
      refine Touches.comp (Touches.put_pwr ..) (by decide) ?_
      exact Touches.refl _ _
    · exact Touches.refl _ _
  · exact Touches.refl _ _

theorem noticeSeen_touches (F) (d) : Touches [.regs, .log, .aon, .pwr] d (noticeSeen F d) := by
  unfold noticeSeen
  refine Touches.ite ?_ ?_
  · exact Touches.refl _ _
  · refine Touches.comp (Dev.icu_touches ..) (by decide) ?_
    refine Touches.comp (Dev.event_touches ..) (by decide) ?_
    refine Touches.comp (Touches.put_pwr ..) (by decide) ?_
    exact Touches.refl _ _

theorem pulseEnd_touches (d) (still) : Touches [.regs, .tether, .pmc, .media, .pwr, .out] d (pulseEnd d still) := by
  unfold pulseEnd
  refine Touches.ite ?_ ?_
  · refine Touches.comp (Touches.put_pwr ..) (by decide) ?_
    refine Touches.comp (Dev.emit_touches ..) (by decide) ?_
    refine Touches.comp (Dev.advance_touches ..) (by decide) ?_
    exact Touches.refl _ _
  · exact Touches.refl _ _

theorem railReact_touches (F) (d) (n) (code) : Touches [.regs, .a, .b, .tether, .keel, .log, .aon, .cache, .media, .str, .lci, .pwr, .out, .fresh] d (railReact F d n code) := by
  unfold railReact
  conv => zeta
  refine Touches.ite ?_ ?_
  · refine Touches.comp (Touches.put_pwr ..) (by decide) ?_
    refine Touches.comp (Dev.postAll_touches ..) (by decide) ?_
    refine Touches.comp (Dev.faultLevel_touches ..) (by decide) ?_
    refine Touches.comp (Dev.icu_touches ..) (by decide) ?_
    refine Touches.comp (Dev.event_touches ..) (by decide) ?_
    refine Touches.comp (Dev.setSeq_touches ..) (by decide) ?_
    exact Touches.refl _ _
  · refine Touches.ite ?_ ?_
    · refine Touches.ite ?_ ?_
      · refine Touches.comp (Touches.put_pwr ..) (by decide) ?_
        refine Touches.comp (systemReset_touches ..) (by decide) ?_
        refine Touches.comp (Dev.icu_touches ..) (by decide) ?_
        refine Touches.comp (Dev.event_touches ..) (by decide) ?_
        refine Touches.comp (Dev.setSeq_touches ..) (by decide) ?_
        exact Touches.refl _ _
      · refine Touches.comp (systemReset_touches ..) (by decide) ?_
        refine Touches.comp (Dev.icu_touches ..) (by decide) ?_
        refine Touches.comp (Dev.event_touches ..) (by decide) ?_
        refine Touches.comp (Dev.setSeq_touches ..) (by decide) ?_
        exact Touches.refl _ _
    · refine Touches.ite ?_ ?_
      · refine Touches.comp (Dev.setSeq_touches ..) (by decide) ?_
        refine Touches.comp (Dev.drive_touches ..) (by decide) ?_
        refine Touches.comp (Dev.icu_touches ..) (by decide) ?_
        refine Touches.comp (Dev.event_touches ..) (by decide) ?_
        refine Touches.comp (Dev.setSeq_touches ..) (by decide) ?_
        exact Touches.refl _ _
      · refine Touches.ite ?_ ?_
        · refine Touches.ite ?_ ?_
          · refine Touches.comp (stallStep_touches ..) (by decide) ?_
            refine Touches.comp (Dev.faultPulse_touches ..) (by decide) ?_
            refine Touches.comp (groupDown_touches ..) (by decide) ?_
            refine Touches.comp (Dev.icu_touches ..) (by decide) ?_
            refine Touches.comp (Dev.event_touches ..) (by decide) ?_
            refine Touches.comp (Dev.setSeq_touches ..) (by decide) ?_
            exact Touches.refl _ _
          · refine Touches.comp (Dev.faultPulse_touches ..) (by decide) ?_
            refine Touches.comp (groupDown_touches ..) (by decide) ?_
            refine Touches.comp (Dev.icu_touches ..) (by decide) ?_
            refine Touches.comp (Dev.event_touches ..) (by decide) ?_
            refine Touches.comp (Dev.setSeq_touches ..) (by decide) ?_
            exact Touches.refl _ _
        · refine Touches.ite ?_ ?_
          · refine Touches.ite ?_ ?_
            · refine Touches.comp (Touches.put_pwr ..) (by decide) ?_
              refine Touches.comp (systemReset_touches ..) (by decide) ?_
              refine Touches.comp (Dev.icu_touches ..) (by decide) ?_
              refine Touches.comp (Dev.event_touches ..) (by decide) ?_
              refine Touches.comp (Dev.setSeq_touches ..) (by decide) ?_
              exact Touches.refl _ _
            · refine Touches.comp (systemReset_touches ..) (by decide) ?_
              refine Touches.comp (Dev.icu_touches ..) (by decide) ?_
              refine Touches.comp (Dev.event_touches ..) (by decide) ?_
              refine Touches.comp (Dev.setSeq_touches ..) (by decide) ?_
              exact Touches.refl _ _
          · refine Touches.ite ?_ ?_
            · refine Touches.comp (stallStep_touches ..) (by decide) ?_
              refine Touches.comp (Dev.icu_touches ..) (by decide) ?_
              refine Touches.comp (Dev.event_touches ..) (by decide) ?_
              refine Touches.comp (Dev.setSeq_touches ..) (by decide) ?_
              exact Touches.refl _ _
            · refine Touches.comp (Dev.icu_touches ..) (by decide) ?_
              refine Touches.comp (Dev.event_touches ..) (by decide) ?_
              refine Touches.comp (Dev.setSeq_touches ..) (by decide) ?_
              exact Touches.refl _ _

theorem railFault_touches (F) (d) (n) (kind) : Touches [.regs, .a, .b, .tether, .keel, .log, .aon, .cache, .media, .str, .lci, .pwr, .out, .fresh] d (railFault F d n kind) := by
  unfold railFault
  conv => zeta
  refine Touches.ite ?_ ?_
  · exact Touches.refl _ _
  · split
    · refine Touches.ite ?_ ?_
      · refine Touches.comp (railReact_touches ..) (by decide) ?_
        exact Touches.refl _ _
      · exact Touches.refl _ _
    · refine Touches.ite ?_ ?_
      · refine Touches.comp (railReact_touches ..) (by decide) ?_
        exact Touches.refl _ _
      · exact Touches.refl _ _
    · refine Touches.ite ?_ ?_
      · refine Touches.comp (railReact_touches ..) (by decide) ?_
        exact Touches.refl _ _
      · exact Touches.refl _ _

theorem railRamp_touches (F) (d) (n) : Touches [.regs, .a, .b, .tether, .keel, .log, .aon, .cache, .media, .str, .lci, .pwr, .out, .fresh] d (railRamp F d n) := by
  unfold railRamp
  refine Touches.ite ?_ ?_
  · refine Touches.comp (railReact_touches ..) (by decide) ?_
    exact Touches.refl _ _
  · exact Touches.refl _ _

theorem railRetry_touches (d) (n) : Touches [.regs, .tether, .pmc, .media, .pwr, .out, .fresh] d (railRetry d n) := by
  unfold railRetry
  conv => zeta
  refine Touches.ite ?_ ?_
  · refine Touches.comp (Dev.drive_touches ..) (by decide) ?_
    refine Touches.comp (Dev.advance_touches ..) (by decide) ?_
    exact Touches.refl _ _
  · exact Touches.refl _ _

theorem railValid_touches (F) (d) (n) : Touches [.pwr, .fresh] d (railValid F d n) := by
  unfold railValid
  refine Touches.ite ?_ ?_
  · refine Touches.comp (Touches.put_pwr ..) (by decide) ?_
    refine Touches.comp (Dev.setSeq_touches ..) (by decide) ?_
    refine Touches.comp (Dev.sense_touches ..) (by decide) ?_
    exact Touches.refl _ _
  · exact Touches.refl _ _

theorem reqDown_touches (F) (d) : Touches [.regs, .a, .b, .tether, .keel, .log, .aon, .cache, .media, .str, .lci, .pwr, .out, .fresh] d (reqDown F d) := by
  unfold reqDown
  conv => zeta
  refine Touches.ite ?_ ?_
  · exact Touches.refl _ _
  · split
    · refine Touches.ite ?_ ?_
      · refine Touches.comp (Dev.downEntry_touches ..) (by decide) ?_
        refine Touches.comp (Dev.icuLive_touches ..) (by decide) ?_
        refine Touches.comp (Touches.put_pwr ..) (by decide) ?_
        exact Touches.refl _ _
      · refine Touches.comp (Touches.put_pwr ..) (by decide) ?_
        refine Touches.comp (Dev.icuLive_touches ..) (by decide) ?_
        refine Touches.comp (Touches.put_pwr ..) (by decide) ?_
        exact Touches.refl _ _
    · refine Touches.comp (flushEntry_touches ..) (by decide) ?_
      refine Touches.comp (Dev.icuLive_touches ..) (by decide) ?_
      refine Touches.comp (Touches.put_pwr ..) (by decide) ?_
      exact Touches.refl _ _
    · refine Touches.comp (flushEntry_touches ..) (by decide) ?_
      refine Touches.comp (Dev.icuLive_touches ..) (by decide) ?_
      refine Touches.comp (Touches.put_pwr ..) (by decide) ?_
      exact Touches.refl _ _
    · refine Touches.comp (Touches.put_pwr ..) (by decide) ?_
      refine Touches.comp (Dev.icuLive_touches ..) (by decide) ?_
      refine Touches.comp (Touches.put_pwr ..) (by decide) ?_
      exact Touches.refl _ _
    · refine Touches.comp (Touches.put_pwr ..) (by decide) ?_
      refine Touches.comp (Dev.icuLive_touches ..) (by decide) ?_
      refine Touches.comp (Touches.put_pwr ..) (by decide) ?_
      exact Touches.refl _ _
    · refine Touches.comp (Dev.icuLive_touches ..) (by decide) ?_
      refine Touches.comp (Touches.put_pwr ..) (by decide) ?_
      exact Touches.refl _ _

theorem reqUp_touches (d) : Touches [.regs, .a, .b, .tether, .launch, .gpio, .keel, .log, .cores, .sems, .images, .pmc, .bst, .dbg, .gon, .cache, .media, .tracts, .drift, .sec, .str, .lci, .pwr, .therm, .out] d (reqUp d) := by
  unfold reqUp
  conv => zeta
  refine Touches.ite ?_ ?_
  · exact Touches.refl _ _
  · split
    · refine Touches.comp (Dev.tryUp_touches ..) (by decide) ?_
      refine Touches.comp (Dev.unlimit_touches ..) (by decide) ?_
      refine Touches.comp (Dev.icuLive_touches ..) (by decide) ?_
      refine Touches.comp (Touches.put_pwr ..) (by decide) ?_
      exact Touches.refl _ _
    · refine Touches.ite ?_ ?_
      · refine Touches.comp (Dev.icuLive_touches ..) (by decide) ?_
        refine Touches.comp (Touches.put_pwr ..) (by decide) ?_
        exact Touches.refl _ _
      · refine Touches.comp (Touches.put_pwr ..) (by decide) ?_
        refine Touches.comp (Dev.icuLive_touches ..) (by decide) ?_
        refine Touches.comp (Touches.put_pwr ..) (by decide) ?_
        exact Touches.refl _ _
    · refine Touches.comp (Dev.icuLive_touches ..) (by decide) ?_
      refine Touches.comp (Touches.put_pwr ..) (by decide) ?_
      exact Touches.refl _ _

theorem restartNow_touches (d) : Touches [.regs, .a, .b, .tether, .launch, .gpio, .keel, .log, .cores, .sems, .images, .pmc, .bst, .dbg, .gon, .cache, .media, .tracts, .drift, .sec, .str, .lci, .pwr, .therm] d (restartNow d) := by
  unfold restartNow
  split
  · refine Touches.ite ?_ ?_
    · refine Touches.comp (Dev.bringup_touches ..) (by decide) ?_
      refine Touches.comp (Dev.advance_touches ..) (by decide) ?_
      exact Touches.refl _ _
    · exact Touches.refl _ _
  · exact Touches.refl _ _

theorem sequenceStep_touches (F) (d) : Touches [.regs, .a, .b, .tether, .launch, .gpio, .keel, .log, .aon, .cores, .sems, .images, .pmc, .bst, .dbg, .gon, .cache, .media, .tracts, .drift, .sec, .str, .lci, .pwr, .therm, .out, .fresh] d (sequenceStep F d) := by
  unfold sequenceStep
  conv => zeta
  split
  · refine Touches.ite ?_ ?_
    · refine Touches.comp (Dev.safePoint_touches ..) (by decide) ?_
      exact Touches.refl _ _
    · split
      · refine Touches.foldl (fun _ _ => ?_) ?_
        · refine Touches.comp (Dev.drive_touches ..) (by decide) ?_
          exact Touches.refl _ _
        · exact Touches.refl _ _
      · refine Touches.ite ?_ ?_
        · refine Touches.comp (Dev.tryUp_touches ..) (by decide) ?_
          refine Touches.comp (offEnter_touches ..) (by decide) ?_
          refine Touches.foldl (fun _ _ => ?_) ?_
          · refine Touches.comp (Dev.drive_touches ..) (by decide) ?_
            exact Touches.refl _ _
          · exact Touches.refl _ _
        · refine Touches.comp (offEnter_touches ..) (by decide) ?_
          refine Touches.foldl (fun _ _ => ?_) ?_
          · refine Touches.comp (Dev.drive_touches ..) (by decide) ?_
            exact Touches.refl _ _
          · exact Touches.refl _ _
  · split
    · exact Touches.refl _ _
    · refine Touches.ite ?_ ?_
      · refine Touches.foldl (fun _ _ => ?_) ?_
        · refine Touches.comp (Dev.drive_touches ..) (by decide) ?_
          exact Touches.refl _ _
        · refine Touches.ite ?_ ?_
          · exact Touches.refl _ _
          · refine Touches.comp (Dev.advance_touches ..) (by decide) ?_
            exact Touches.refl _ _
      · exact Touches.refl _ _

theorem viaHead_touches {l : List Part} (x0 x1 x2 x3) (hf : ∀ e, Touches l e (x3 e)) : Touches l x1 (viaHead x0 x1 x2 x3) := by
  unfold viaHead
  exact Touches.ite (hf _) (Touches.refl ..)

theorem Dev.dieRead_touches (d) (m) (code) : Touches [.therm] d (Dev.dieRead d m code) := by
  unfold Dev.dieRead
  refine Touches.comp (Touches.put_therm ..) (by decide) ?_
  exact Touches.refl _ _

theorem Dev.dieTemp_touches (d) (m) (code) : Touches [.media, .out] d (Dev.dieTemp d m code) := by
  unfold Dev.dieTemp
  conv => zeta
  refine Touches.ite ?_ ?_
  · refine Touches.comp (Dev.emit_touches ..) (by decide) ?_
    refine Touches.comp (Dev.setDie_touches ..) (by decide) ?_
    exact Touches.refl _ _
  · refine Touches.comp (Dev.setDie_touches ..) (by decide) ?_
    exact Touches.refl _ _

theorem Dev.junction_touches {x0} {r e} (h : Dev.junction x0 = (r, e)) : Touches [.fresh] x0 e := by
  unfold Dev.junction at h
  dsimp only at h
  split at h <;> obtain rfl := (Prod.mk.inj h).2
  · exact Dev.free_touches rfl
  · exact Touches.refl ..

theorem Dev.setTshut_touches (d) : Touches [.keel] d (Dev.setTshut d) := by
  unfold Dev.setTshut
  refine Touches.comp (Dev.statePut_touches ..) (by decide) ?_
  refine Touches.comp (Touches.put_keel ..) (by decide) ?_
  exact Touches.refl _ _

theorem dieRound_touches (d) (m) (ans) : Touches [.regs, .media, .therm, .out, .fresh] d (dieRound d m ans) := by
  unfold dieRound
  conv => zeta
  split
  · refine Touches.comp (Dev.bump_touches ..) (by decide) ?_
    refine Touches.comp (Dev.emit_touches ..) (by decide) ?_
    exact Touches.refl _ _
  · refine Touches.ite ?_ ?_
    · refine Touches.comp (Dev.setChan_touches ..) (by decide) ?_
      refine Touches.ite ?_ ?_
      · refine Touches.comp (Dev.alertSet_touches ..) (by decide) ?_
        refine Touches.comp (Dev.setCtl_touches ..) (by decide) ?_
        refine Touches.comp (Dev.dieRead_touches ..) (by decide) ?_
        refine Touches.comp (Dev.sendFrame_touches ..) (by decide) ?_
        refine Touches.comp (Dev.dieTemp_touches ..) (by decide) ?_
        exact Touches.refl _ _
      · refine Touches.comp (Dev.setCtl_touches ..) (by decide) ?_
        refine Touches.comp (Dev.dieRead_touches ..) (by decide) ?_
        refine Touches.comp (Dev.sendFrame_touches ..) (by decide) ?_
        refine Touches.comp (Dev.dieTemp_touches ..) (by decide) ?_
        exact Touches.refl _ _
    · refine Touches.ite ?_ ?_
      · refine Touches.comp (Dev.alertSet_touches ..) (by decide) ?_
        refine Touches.comp (Dev.setCtl_touches ..) (by decide) ?_
        refine Touches.comp (Dev.dieRead_touches ..) (by decide) ?_
        refine Touches.comp (Dev.sendFrame_touches ..) (by decide) ?_
        refine Touches.comp (Dev.dieTemp_touches ..) (by decide) ?_
        exact Touches.refl _ _
      · refine Touches.comp (Dev.setCtl_touches ..) (by decide) ?_
        refine Touches.comp (Dev.dieRead_touches ..) (by decide) ?_
        refine Touches.comp (Dev.sendFrame_touches ..) (by decide) ?_
        refine Touches.comp (Dev.dieTemp_touches ..) (by decide) ?_
        exact Touches.refl _ _

theorem junctionConds_touches (F) (d) (oldH) : Touches [.regs, .a, .b, .log, .aon, .therm, .out] d (junctionConds F d oldH) := by
  unfold junctionConds
  conv => zeta
  refine Touches.ite ?_ ?_
  · refine Touches.ite ?_ ?_
    · refine Touches.comp (Dev.icu_touches ..) (by decide) ?_
      refine Touches.comp (Dev.event_touches ..) (by decide) ?_
      refine Touches.comp (Dev.postAll_touches ..) (by decide) ?_
      refine Touches.comp (Touches.put_therm ..) (by decide) ?_
      exact Touches.refl _ _
    · refine Touches.ite ?_ ?_
      · refine Touches.comp (Dev.event_touches ..) (by decide) ?_
        refine Touches.comp (Touches.put_therm ..) (by decide) ?_
        exact Touches.refl _ _
      · exact Touches.refl _ _
  · refine Touches.ite ?_ ?_
    · refine Touches.comp (Dev.event_touches ..) (by decide) ?_
      refine Touches.comp (Dev.postAll_touches ..) (by decide) ?_
      refine Touches.comp (Dev.icu_touches ..) (by decide) ?_
      refine Touches.ite ?_ ?_
      · refine Touches.comp (Dev.icu_touches ..) (by decide) ?_
        refine Touches.comp (Dev.event_touches ..) (by decide) ?_
        refine Touches.comp (Dev.postAll_touches ..) (by decide) ?_
        refine Touches.comp (Touches.put_therm ..) (by decide) ?_
        exact Touches.refl _ _
      · refine Touches.ite ?_ ?_
        · refine Touches.comp (Dev.event_touches ..) (by decide) ?_
          refine Touches.comp (Touches.put_therm ..) (by decide) ?_
          exact Touches.refl _ _
        · exact Touches.refl _ _
    · refine Touches.ite ?_ ?_
      · refine Touches.comp (Dev.event_touches ..) (by decide) ?_
        refine Touches.comp (Dev.icu_touches ..) (by decide) ?_
        refine Touches.ite ?_ ?_
        · refine Touches.comp (Dev.icu_touches ..) (by decide) ?_
          refine Touches.comp (Dev.event_touches ..) (by decide) ?_
          refine Touches.comp (Dev.postAll_touches ..) (by decide) ?_
          refine Touches.comp (Touches.put_therm ..) (by decide) ?_
          exact Touches.refl _ _
        · refine Touches.ite ?_ ?_
          · refine Touches.comp (Dev.event_touches ..) (by decide) ?_
            refine Touches.comp (Touches.put_therm ..) (by decide) ?_
            exact Touches.refl _ _
          · exact Touches.refl _ _
      · refine Touches.comp (Dev.icu_touches ..) (by decide) ?_
        refine Touches.ite ?_ ?_
        · refine Touches.comp (Dev.icu_touches ..) (by decide) ?_
          refine Touches.comp (Dev.event_touches ..) (by decide) ?_
          refine Touches.comp (Dev.postAll_touches ..) (by decide) ?_
          refine Touches.comp (Touches.put_therm ..) (by decide) ?_
          exact Touches.refl _ _
        · refine Touches.ite ?_ ?_
          · refine Touches.comp (Dev.event_touches ..) (by decide) ?_
            refine Touches.comp (Touches.put_therm ..) (by decide) ?_
            exact Touches.refl _ _
          · exact Touches.refl _ _

theorem junctionEval_touches (F) (d) : Touches [.regs, .a, .b, .log, .aon, .therm, .out, .fresh] d (junctionEval F d) := by
  unfold junctionEval
  refine Touches.ite ?_ ?_
  · split
    · rename_i hq4
      refine Touches.comp (junctionConds_touches ..) (by decide) ?_
      refine Touches.comp (Touches.put_therm ..) (by decide) ?_
      refine Touches.comp (Dev.junction_touches hq4) (by decide) ?_
      exact Touches.refl _ _
  · exact Touches.refl _ _

theorem roundEval_touches (F) (d) : Touches [.regs, .a, .b, .tether, .log, .aon, .pmc, .media, .therm, .out, .fresh] d (roundEval F d) := by
  unfold roundEval
  refine Touches.ite ?_ ?_
  · exact Touches.refl _ _
  · refine Touches.foldl (fun _ _ => ?_) ?_
    · refine Touches.comp (quadEval_touches ..) (by decide) ?_
      exact Touches.refl _ _
    · refine Touches.comp (junctionEval_touches ..) (by decide) ?_
      refine Touches.foldl (fun _ _ => ?_) ?_
      · refine Touches.comp (Dev.icu_touches ..) (by decide) ?_
        refine Touches.comp (Dev.event_touches ..) (by decide) ?_
        refine Touches.comp (Touches.put_therm ..) (by decide) ?_
        exact Touches.refl _ _
      · refine Touches.foldl (fun _ _ => ?_) ?_
        · refine Touches.comp (Dev.icu_touches ..) (by decide) ?_
          refine Touches.comp (Dev.event_touches ..) (by decide) ?_
          refine Touches.comp (Dev.setSensor_touches ..) (by decide) ?_
          exact Touches.refl _ _
        · refine Touches.comp (Touches.put_therm ..) (by decide) ?_
          refine Touches.comp (Dev.advance_touches ..) (by decide) ?_
          exact Touches.refl _ _

theorem roundStart_touches (F) (d) (rds) (dies) : Touches [.regs, .tether, .pmc, .media, .therm, .out, .fresh] d (roundStart F d rds dies) := by
  unfold roundStart
  conv => zeta
  refine Touches.ite ?_ ?_
  · exact Touches.refl _ _
  · refine Touches.comp (Touches.put_therm ..) (by decide) ?_
    refine Touches.foldl (fun _ _ => ?_) ?_
    · refine Touches.comp (dieRound_touches ..) (by decide) ?_
      exact Touches.refl _ _
    · refine Touches.foldl (fun _ _ => ?_) ?_
      · refine Touches.comp (Touches.put_therm ..) (by decide) ?_
        exact Touches.refl _ _
      · refine Touches.foldl (fun _ _ => ?_) ?_
        · refine Touches.ite ?_ ?_
          · refine Touches.comp (Dev.setSensor_touches ..) (by decide) ?_
            exact Touches.refl _ _
          · exact Touches.refl _ _
        · refine Touches.comp (Dev.tick_touches ..) (by decide) ?_
          exact Touches.refl _ _

theorem thermalDown_touches (F) (d) (code) : Touches [.regs, .a, .b, .tether, .keel, .log, .aon, .cache, .media, .str, .lci, .pwr, .out, .fresh] d (thermalDown F d code) := by
  unfold thermalDown
  conv => zeta
  split
  · refine Touches.comp (Touches.put_pwr ..) (by decide) ?_
    exact Touches.refl _ _
  · refine Touches.ite ?_ ?_
    · refine Touches.comp (flushEntry_touches ..) (by decide) ?_
      refine Touches.comp (Dev.setTshut_touches ..) (by decide) ?_
      refine Touches.comp (Dev.event_touches ..) (by decide) ?_
      refine Touches.comp (Dev.postAll_touches ..) (by decide) ?_
      exact Touches.refl _ _
    · refine Touches.comp (Dev.downEntry_touches ..) (by decide) ?_
      refine Touches.comp (Dev.setTshut_touches ..) (by decide) ?_
      refine Touches.comp (Dev.event_touches ..) (by decide) ?_
      refine Touches.comp (Dev.postAll_touches ..) (by decide) ?_
      exact Touches.refl _ _
  · refine Touches.ite ?_ ?_
    · refine Touches.comp (flushEntry_touches ..) (by decide) ?_
      refine Touches.comp (Dev.setTshut_touches ..) (by decide) ?_
      refine Touches.comp (Dev.event_touches ..) (by decide) ?_
      refine Touches.comp (Dev.postAll_touches ..) (by decide) ?_
      exact Touches.refl _ _
    · refine Touches.comp (Dev.downEntry_touches ..) (by decide) ?_
      refine Touches.comp (Dev.setTshut_touches ..) (by decide) ?_
      refine Touches.comp (Dev.event_touches ..) (by decide) ?_
      refine Touches.comp (Dev.postAll_touches ..) (by decide) ?_
      exact Touches.refl _ _
  · refine Touches.ite ?_ ?_
    · refine Touches.comp (flushEntry_touches ..) (by decide) ?_
      refine Touches.comp (Dev.setTshut_touches ..) (by decide) ?_
      refine Touches.comp (Dev.event_touches ..) (by decide) ?_
      refine Touches.comp (Dev.postAll_touches ..) (by decide) ?_
      exact Touches.refl _ _
    · refine Touches.comp (Dev.downEntry_touches ..) (by decide) ?_
      refine Touches.comp (Dev.setTshut_touches ..) (by decide) ?_
      refine Touches.comp (Dev.event_touches ..) (by decide) ?_
      refine Touches.comp (Dev.postAll_touches ..) (by decide) ?_
      exact Touches.refl _ _
  · exact Touches.refl _ _

theorem sensorStep_touches (F) (d) (i) (code) (ok) : Touches [.regs, .a, .b, .tether, .keel, .log, .aon, .cache, .media, .str, .lci, .pwr, .therm, .out, .fresh] d (sensorStep F d i code ok) := by
  unfold sensorStep
  conv => zeta
  refine Touches.ite ?_ ?_
  · exact Touches.refl _ _
  · refine Touches.ite ?_ ?_
    · refine Touches.comp (thermalDown_touches ..) (by decide) ?_
      refine Touches.comp (Dev.setSensor_touches ..) (by decide) ?_
      exact Touches.refl _ _
    · refine Touches.comp (Dev.setSensor_touches ..) (by decide) ?_
      exact Touches.refl _ _

theorem thermalUp_touches (d) (code) : Touches [.regs, .a, .b, .tether, .launch, .gpio, .keel, .log, .cores, .sems, .images, .pmc, .bst, .dbg, .gon, .cache, .media, .tracts, .drift, .sec, .str, .lci, .pwr, .therm] d (thermalUp d code) := by
  unfold thermalUp
  conv => zeta
  refine Touches.ite ?_ ?_
  · split
    · refine Touches.comp (restartNow_touches ..) (by decide) ?_
      refine Touches.comp (Touches.put_pwr_therm ..) (by decide) ?_
      exact Touches.refl _ _
    · refine Touches.comp (Dev.tryUp_touches ..) (by decide) ?_
      refine Touches.comp (Touches.put_pwr_therm ..) (by decide) ?_
      exact Touches.refl _ _
  · exact Touches.refl _ _

end Sys2Proof.Machine
end

