-- ==== Sys2Proof/Laws/FrameHost.lean ====
section
/-!
SUPPORT. What each shared operation can change: mailboxes, Ripcord and replay, ports, register writes, the debug port.
-/
namespace Sys2Proof.Machine

theorem Dev.mail_touches (d) (h) (code) (payload) : Touches [.out] d (Dev.mail d h code payload) := by
  unfold Dev.mail
  refine Touches.comp (Dev.emit_touches ..) (by decide) ?_
  exact Touches.refl _ _

theorem clearEvents_touches (d) (h) (log) (all) (handles) : Touches [.a, .b, .out] d (clearEvents d h log all handles) := by
  unfold clearEvents
  conv => zeta
  refine Touches.ite ?_ ?_
  · refine Touches.comp (Dev.mail_touches ..) (by decide) ?_
    refine Touches.comp (Dev.setHead_touches ..) (by decide) ?_
    exact Touches.refl _ _
  · refine Touches.ite ?_ ?_
    · refine Touches.comp (Dev.mail_touches ..) (by decide) ?_
      refine Touches.comp (Dev.setHead_touches ..) (by decide) ?_
      exact Touches.refl _ _
    · refine Touches.comp (Dev.mail_touches ..) (by decide) ?_
      exact Touches.refl _ _

theorem Dev.selectImage_touches (d) (slot) (owner) : Touches [.keel] d (Dev.selectImage d slot owner) := by
  unfold Dev.selectImage
  refine Touches.comp (Dev.statePut_touches ..) (by decide) ?_
  refine Touches.comp (Touches.put_keel ..) (by decide) ?_
  exact Touches.refl _ _

theorem fwActivate_touches (F) (d) (h) (slot) : Touches [.keel, .out] d (fwActivate F d h slot) := by
  unfold fwActivate
  refine Touches.ite ?_ ?_
  · refine Touches.comp (Dev.selectImage_touches ..) (by decide) ?_
    exact Touches.refl _ _
  · refine Touches.comp (Dev.mail_touches ..) (by decide) ?_
    exact Touches.refl _ _

theorem Dev.imagePoke_touches (d) (slot) (off) (b) : Touches [.images] d (Dev.imagePoke d slot off b) := by
  unfold Dev.imagePoke
  conv => zeta
  refine Touches.ite ?_ ?_
  · refine Touches.comp (Touches.put_images ..) (by decide) ?_
    exact Touches.refl _ _
  · refine Touches.comp (Touches.put_images ..) (by decide) ?_
    exact Touches.refl _ _

theorem fwTransfer_touches (d) (h) (slot) (off) (data) : Touches [.regs, .images, .lci, .out] d (fwTransfer d h slot off data) := by
  unfold fwTransfer
  refine Touches.ite ?_ ?_
  · refine Touches.comp (Dev.mail_touches ..) (by decide) ?_
    exact Touches.refl _ _
  · refine Touches.ite ?_ ?_
    · refine Touches.comp (Dev.mail_touches ..) (by decide) ?_
      exact Touches.refl _ _
    · refine Touches.comp (Dev.mail_touches ..) (by decide) ?_
      refine Touches.comp (Dev.icu_touches ..) (by decide) ?_
      refine Touches.comp (Touches.put_lci ..) (by decide) ?_
      refine Touches.comp (Dev.imagePoke_touches ..) (by decide) ?_
      exact Touches.refl _ _

theorem healthInfo_touches (d) (h) : Touches [.out, .fresh] d (healthInfo d h) := by
  unfold healthInfo
  split
  · rename_i hq2
    split
    · rename_i hq4
      split
      · rename_i hq6
        split
        · rename_i hq8
          split
          · rename_i hq10
            refine Touches.comp (Dev.mail_touches ..) (by decide) ?_
            refine Touches.comp (Dev.free_touches hq10) (by decide) ?_
            refine Touches.comp (Dev.free_touches hq8) (by decide) ?_
            refine Touches.comp (Dev.free_touches hq6) (by decide) ?_
            refine Touches.comp (Dev.free_touches hq4) (by decide) ?_
            refine Touches.comp (Dev.free_touches hq2) (by decide) ?_
            exact Touches.refl _ _

theorem lsaGet_touches (d) (h) (off) (n) : Touches [.out] d (lsaGet d h off n) := by
  unfold lsaGet
  refine Touches.ite ?_ ?_
  · refine Touches.comp (Dev.mail_touches ..) (by decide) ?_
    exact Touches.refl _ _
  · refine Touches.comp (Dev.mail_touches ..) (by decide) ?_
    exact Touches.refl _ _

theorem lsaSet_touches (d) (h) (off) (b) : Touches [.keel, .out] d (lsaSet d h off b) := by
  unfold lsaSet
  refine Touches.ite ?_ ?_
  · refine Touches.comp (Dev.mail_touches ..) (by decide) ?_
    exact Touches.refl _ _
  · refine Touches.ite ?_ ?_
    · refine Touches.comp (Dev.mail_touches ..) (by decide) ?_
      exact Touches.refl _ _
    · refine Touches.foldl (fun _ _ => (Dev.keelPut_touches ..).mono (by decide)) ?_
      exact Touches.refl _ _

theorem mailRun_touches {l : List Part} (x0 x1 x2 x3) (s : [Part.regs] ⊆ l) (hf : ∀ e, Touches l e (x3 e)) : Touches l x1 (mailRun x0 x1 x2 x3) := by
  unfold mailRun
  exact Touches.ite (Touches.refl ..) (Touches.comp (hf _) (fun _ m => m) ((Dev.icu_touches ..).mono s))

theorem mailWrite_touches (F) (d) (h) (dpa) (data) (poison) : Touches [.regs, .a, .b, .keel, .log, .aon, .pmc, .gon, .cache, .drift, .str, .out] d (mailWrite F d h dpa data poison) := by
  unfold mailWrite
  conv => zeta
  split
  · refine Touches.comp (Dev.mail_touches ..) (by decide) ?_
    exact Touches.refl _ _
  · refine Touches.comp (Dev.mail_touches ..) (by decide) ?_
    exact Touches.refl _ _
  · refine Touches.ite ?_ ?_
    · refine Touches.comp (Dev.mail_touches ..) (by decide) ?_
      refine Touches.comp (Dev.setCache_touches ..) (by decide) ?_
      refine Touches.comp (recordPoison_touches ..) (by decide) ?_
      exact Touches.refl _ _
    · refine Touches.comp (Dev.mail_touches ..) (by decide) ?_
      refine Touches.comp (Dev.setCache_touches ..) (by decide) ?_
      exact Touches.refl _ _
  · refine Touches.ite ?_ ?_
    · refine Touches.comp (Dev.mail_touches ..) (by decide) ?_
      exact Touches.refl _ _
    · refine Touches.ite ?_ ?_
      · refine Touches.comp (Dev.mail_touches ..) (by decide) ?_
        exact Touches.refl _ _
      · split
        · refine Touches.ite ?_ ?_
          · refine Touches.comp (Dev.mail_touches ..) (by decide) ?_
            refine Touches.comp (acceptWrite_touches ..) (by decide) ?_
            refine Touches.comp (sealedNote_touches ..) (by decide) ?_
            exact Touches.refl _ _
          · refine Touches.ite ?_ ?_
            · refine Touches.comp (Dev.mail_touches ..) (by decide) ?_
              refine Touches.comp (acceptWrite_touches ..) (by decide) ?_
              refine Touches.comp (recordPoison_touches ..) (by decide) ?_
              exact Touches.refl _ _
            · refine Touches.comp (Dev.mail_touches ..) (by decide) ?_
              refine Touches.comp (acceptWrite_touches ..) (by decide) ?_
              exact Touches.refl _ _

theorem poisonGet_touches (d) (h) : Touches [.out, .fresh] d (poisonGet d h) := by
  unfold poisonGet
  refine Touches.ite ?_ ?_
  · split
    · rename_i hq4
      refine Touches.comp (Dev.mail_touches ..) (by decide) ?_
      refine Touches.comp (Dev.free_touches hq4) (by decide) ?_
      exact Touches.refl _ _
  · refine Touches.comp (Dev.mail_touches ..) (by decide) ?_
    exact Touches.refl _ _

theorem Dev.allDown_touches (d) : Touches [.media] d (Dev.allDown d) := by
  unfold Dev.allDown
  refine Touches.comp (Touches.put_media ..) (by decide) ?_
  exact Touches.refl _ _

theorem Dev.flushAt_touches (d) (f) (n) : Touches [.pwr] d (Dev.flushAt d f n) := by
  unfold Dev.flushAt
  refine Touches.comp (Touches.put_pwr ..) (by decide) ?_
  exact Touches.refl _ _

theorem Dev.linksDown_touches (d) : Touches [.regs, .a, .b] d (Dev.linksDown d) := by
  unfold Dev.linksDown
  refine Touches.comp (Dev.linkNoted_touches ..) (by decide) ?_
  refine Touches.comp (Dev.linkNoted_touches ..) (by decide) ?_
  refine Touches.comp (Touches.put_a_b ..) (by decide) ?_
  exact Touches.refl _ _

theorem aonUp_touches (x0) : Touches [.regs, .a, .b, .tether, .launch, .gpio, .keel, .log, .aon, .cores, .sems, .images, .pmc, .bst, .dbg, .gon, .cache, .media, .tracts, .drift, .sec, .str, .lci, .pwr, .therm, .fresh] x0 (aonUp x0) := by
  unfold aonUp
  extract_lets cutWrite d0 p outcome d1
  refine Touches.comp (Touches.put_regs_a_b_tether_gpio_keel_aon_media_pwr_therm ..) (by decide) (Touches.comp (Dev.blank_touches ..) (by decide) ?_)
  refine Touches.foldl (fun a w => ?_) (Touches.refl ..)
  have ho : ∀ (xs : List Nat) (acc : List Nat × Dev), Touches [.fresh] a acc.2 →
      Touches [.fresh] a (xs.foldl (fun (acc : List Nat × Dev) _ => (acc.1 ++ [acc.2.free.1 % 256], acc.2.free.2)) acc).2 := by
    intro xs
    induction xs with
    | nil => exact fun _ h => h
    | cons j r ih => exact fun acc h => ih _ (Touches.comp (Dev.free_touches rfl) (by decide) h)
  exact Touches.comp (Dev.keelWritten_touches ..) (by decide) ((ho w.data ([], a) (Touches.refl ..)).mono (by decide))

theorem flushKeel_touches (F) (d) : Touches [.regs, .tether, .keel, .log, .pwr] d (flushKeel F d) := by
  unfold flushKeel
  split
  · refine Touches.ite ?_ ?_
    · refine Touches.comp (Dev.flushAt_touches ..) (by decide) ?_
      refine Touches.comp (Touches.put_log ..) (by decide) ?_
      refine Touches.comp (Dev.keelDrain_touches ..) (by decide) ?_
      refine Touches.comp (Dev.forceFlush_touches ..) (by decide) ?_
      refine Touches.comp (Dev.rootPut_touches ..) (by decide) ?_
      refine Touches.comp (Touches.put_pwr ..) (by decide) ?_
      refine Touches.comp (Dev.statePut_touches ..) (by decide) ?_
      refine Touches.comp (Touches.put_keel ..) (by decide) ?_
      refine Touches.comp (Dev.lifePut_touches ..) (by decide) ?_
      refine Touches.comp (Dev.memberPut_touches ..) (by decide) ?_
      refine Touches.comp (Dev.ringPut_touches ..) (by decide) ?_
      exact Touches.refl _ _
    · exact Touches.refl _ _
  · exact Touches.refl _ _

theorem flushSaves_touches (d) : Touches [.keel, .drift, .pwr] d (flushSaves d) := by
  unfold flushSaves
  split
  · refine Touches.ite ?_ ?_
    · refine Touches.comp (Dev.flushAt_touches ..) (by decide) ?_
      refine Touches.comp (Dev.ringPut_touches ..) (by decide) ?_
      refine Touches.comp (Dev.ledgerSave_touches ..) (by decide) ?_
      exact Touches.refl _ _
    · exact Touches.refl _ _
  · exact Touches.refl _ _

theorem lateEnd_touches (d) : Touches [.regs, .a, .b, .tether, .pmc, .media, .pwr] d (lateEnd d) := by
  unfold lateEnd
  conv => zeta
  split
  · refine Touches.ite ?_ ?_
    · refine Touches.ite ?_ ?_
      · refine Touches.comp (Dev.flushAt_touches ..) (by decide) ?_
        refine Touches.comp (Dev.advance_touches ..) (by decide) ?_
        exact Touches.refl _ _
      · refine Touches.comp (Dev.linksDown_touches ..) (by decide) ?_
        refine Touches.comp (Dev.flushAt_touches ..) (by decide) ?_
        refine Touches.comp (Dev.advance_touches ..) (by decide) ?_
        exact Touches.refl _ _
    · exact Touches.refl _ _
  · exact Touches.refl _ _

theorem perstUp_touches (F) (d) (h) : Touches [.regs, .a, .b, .tether, .launch, .gpio, .keel, .log, .cores, .sems, .images, .pmc, .bst, .dbg, .gon, .cache, .media, .tracts, .drift, .sec, .str, .lci, .pwr, .therm, .out] d (perstUp F d h) := by
  unfold perstUp
  conv => zeta
  refine Touches.ite ?_ ?_
  · exact Touches.refl _ _
  · split
    · refine Touches.ite ?_ ?_
      · refine Touches.comp (Dev.bringup_touches ..) (by decide) ?_
        refine Touches.ite ?_ ?_
        · refine Touches.comp (Dev.icuLive_touches ..) (by decide) ?_
          refine Touches.ite ?_ ?_
          · refine Touches.comp (Dev.wake_touches ..) (by decide) ?_
            refine Touches.comp (Dev.setHead_touches ..) (by decide) ?_
            exact Touches.refl _ _
          · refine Touches.comp (Dev.setHead_touches ..) (by decide) ?_
            exact Touches.refl _ _
        · refine Touches.ite ?_ ?_
          · refine Touches.comp (Dev.wake_touches ..) (by decide) ?_
            refine Touches.comp (Dev.setHead_touches ..) (by decide) ?_
            exact Touches.refl _ _
          · refine Touches.comp (Dev.setHead_touches ..) (by decide) ?_
            exact Touches.refl _ _
      · refine Touches.ite ?_ ?_
        · refine Touches.comp (Dev.icuLive_touches ..) (by decide) ?_
          refine Touches.ite ?_ ?_
          · refine Touches.comp (Dev.wake_touches ..) (by decide) ?_
            refine Touches.comp (Dev.setHead_touches ..) (by decide) ?_
            exact Touches.refl _ _
          · refine Touches.comp (Dev.setHead_touches ..) (by decide) ?_
            exact Touches.refl _ _
        · refine Touches.ite ?_ ?_
          · refine Touches.comp (Dev.wake_touches ..) (by decide) ?_
            refine Touches.comp (Dev.setHead_touches ..) (by decide) ?_
            exact Touches.refl _ _
          · refine Touches.comp (Dev.setHead_touches ..) (by decide) ?_
            exact Touches.refl _ _
    · refine Touches.ite ?_ ?_
      · refine Touches.comp (Touches.put_pwr ..) (by decide) ?_
        refine Touches.ite ?_ ?_
        · refine Touches.comp (Dev.icuLive_touches ..) (by decide) ?_
          refine Touches.ite ?_ ?_
          · refine Touches.comp (Dev.wake_touches ..) (by decide) ?_
            refine Touches.comp (Dev.setHead_touches ..) (by decide) ?_
            exact Touches.refl _ _
          · refine Touches.comp (Dev.setHead_touches ..) (by decide) ?_
            exact Touches.refl _ _
        · refine Touches.ite ?_ ?_
          · refine Touches.comp (Dev.wake_touches ..) (by decide) ?_
            refine Touches.comp (Dev.setHead_touches ..) (by decide) ?_
            exact Touches.refl _ _
          · refine Touches.comp (Dev.setHead_touches ..) (by decide) ?_
            exact Touches.refl _ _
      · refine Touches.ite ?_ ?_
        · refine Touches.comp (Dev.icuLive_touches ..) (by decide) ?_
          refine Touches.ite ?_ ?_
          · refine Touches.comp (Dev.wake_touches ..) (by decide) ?_
            refine Touches.comp (Dev.setHead_touches ..) (by decide) ?_
            exact Touches.refl _ _
          · refine Touches.comp (Dev.setHead_touches ..) (by decide) ?_
            exact Touches.refl _ _
        · refine Touches.ite ?_ ?_
          · refine Touches.comp (Dev.wake_touches ..) (by decide) ?_
            refine Touches.comp (Dev.setHead_touches ..) (by decide) ?_
            exact Touches.refl _ _
          · refine Touches.comp (Dev.setHead_touches ..) (by decide) ?_
            exact Touches.refl _ _
    · refine Touches.ite ?_ ?_
      · refine Touches.comp (Dev.icuLive_touches ..) (by decide) ?_
        refine Touches.ite ?_ ?_
        · refine Touches.comp (Dev.wake_touches ..) (by decide) ?_
          refine Touches.comp (Dev.setHead_touches ..) (by decide) ?_
          exact Touches.refl _ _
        · refine Touches.comp (Dev.setHead_touches ..) (by decide) ?_
          exact Touches.refl _ _
      · refine Touches.ite ?_ ?_
        · refine Touches.comp (Dev.wake_touches ..) (by decide) ?_
          refine Touches.comp (Dev.setHead_touches ..) (by decide) ?_
          exact Touches.refl _ _
        · refine Touches.comp (Dev.setHead_touches ..) (by decide) ?_
          exact Touches.refl _ _

theorem railsDown_touches (F) (d) : Touches [.regs, .a, .b, .tether, .launch, .gpio, .keel, .log, .aon, .cores, .sems, .images, .pmc, .bst, .dbg, .gon, .cache, .media, .tracts, .drift, .sec, .str, .lci, .pwr, .therm, .out, .fresh] d (railsDown F d) := by
  unfold railsDown
  conv => zeta
  split
  · refine Touches.ite ?_ ?_
    · exact Touches.refl _ _
    · refine Touches.ite ?_ ?_
      · refine Touches.comp (Dev.safePoint_touches ..) (by decide) ?_
        refine Touches.comp (Dev.lower_touches ..) (by decide) ?_
        refine Touches.comp (Dev.event_touches ..) (by decide) ?_
        refine Touches.comp (Touches.put_log ..) (by decide) ?_
        refine Touches.comp (Touches.put_pwr ..) (by decide) ?_
        exact Touches.refl _ _
      · refine Touches.comp (offEnter_touches ..) (by decide) ?_
        refine Touches.comp (Dev.lower_touches ..) (by decide) ?_
        refine Touches.comp (Dev.event_touches ..) (by decide) ?_
        refine Touches.comp (Touches.put_log ..) (by decide) ?_
        refine Touches.comp (Touches.put_pwr ..) (by decide) ?_
        exact Touches.refl _ _
  · exact Touches.refl _ _

theorem restEntry_touches (F) (d) : Touches [.regs, .a, .b, .tether, .keel, .log, .aon, .cache, .media, .str, .lci, .pwr, .out, .fresh] d (restEntry F d) := by
  unfold restEntry
  refine Touches.ite ?_ ?_
  · refine Touches.comp (flushEntry_touches ..) (by decide) ?_
    exact Touches.refl _ _
  · exact Touches.refl _ _

theorem ripcordEntry_touches (F) (d) : Touches [.regs, .a, .b, .tether, .keel, .log, .aon, .cache, .media, .str, .lci, .pwr, .out, .fresh] d (ripcordEntry F d) := by
  unfold ripcordEntry
  split
  · refine Touches.ite ?_ ?_
    · exact Touches.refl _ _
    · refine Touches.comp (flushEntry_touches ..) (by decide) ?_
      exact Touches.refl _ _
  · refine Touches.ite ?_ ?_
    · exact Touches.refl _ _
    · refine Touches.comp (flushEntry_touches ..) (by decide) ?_
      exact Touches.refl _ _
  · refine Touches.ite ?_ ?_
    · exact Touches.refl _ _
    · refine Touches.comp (flushEntry_touches ..) (by decide) ?_
      exact Touches.refl _ _
  · exact Touches.refl _ _

theorem scheduleStop_touches (d) : Touches [.regs, .a, .b, .tether, .pwr] d (scheduleStop d) := by
  unfold scheduleStop
  split
  · refine Touches.ite ?_ ?_
    · refine Touches.comp (Touches.put_tether ..) (by decide) ?_
      refine Touches.comp (Dev.flushAt_touches ..) (by decide) ?_
      refine Touches.comp (Dev.linksDown_touches ..) (by decide) ?_
      exact Touches.refl _ _
    · exact Touches.refl _ _
  · exact Touches.refl _ _

theorem segWritten_touches (F) (d) (ok) : Touches [.media, .pwr, .fresh] d (segWritten F d ok) := by
  unfold segWritten
  conv => zeta
  split
  · split
    · refine Touches.ite ?_ ?_
      · exact Touches.refl _ _
      · split
        · rename_i hq8
          refine Touches.ite ?_ ?_
          · refine Touches.comp (Dev.flushAt_touches ..) (by decide) ?_
            refine Touches.comp (Dev.allDown_touches ..) (by decide) ?_
            refine Touches.comp (Touches.put_pwr ..) (by decide) ?_
            refine Touches.comp (Dev.free_touches hq8) (by decide) ?_
            exact Touches.refl _ _
          · refine Touches.comp (Dev.flushAt_touches ..) (by decide) ?_
            refine Touches.comp (Touches.put_pwr ..) (by decide) ?_
            refine Touches.comp (Dev.free_touches hq8) (by decide) ?_
            exact Touches.refl _ _
    · exact Touches.refl _ _
  · exact Touches.refl _ _

theorem wakeSeen_touches (F) (d) (pin) (rising) : Touches [.regs, .a, .b, .gpio, .out] d (wakeSeen F d pin rising) := by
  unfold wakeSeen
  conv => zeta
  refine Touches.ite ?_ ?_
  · exact Touches.refl _ _
  · refine Touches.ite ?_ ?_
    · refine Touches.foldl (fun _ _ => ?_) ?_
      · refine Touches.comp (Dev.wake_touches ..) (by decide) ?_
        exact Touches.refl _ _
      · refine Touches.comp (Dev.icuLive_touches ..) (by decide) ?_
        refine Touches.comp (Touches.put_gpio ..) (by decide) ?_
        exact Touches.refl _ _
    · refine Touches.comp (Dev.icuLive_touches ..) (by decide) ?_
      refine Touches.comp (Touches.put_gpio ..) (by decide) ?_
      exact Touches.refl _ _

theorem Dev.resumePair_touches (d) (p) : Touches [.cores] d (Dev.resumePair d p) := by
  unfold Dev.resumePair
  conv => zeta
  refine Touches.ite ?_ ?_
  · exact Touches.refl _ _
  · refine Touches.ite ?_ ?_
    · refine Touches.comp (Dev.setPair_touches ..) (by decide) ?_
      exact Touches.refl _ _
    · refine Touches.comp (Touches.put_cores ..) (by decide) ?_
      refine Touches.comp (Dev.setPair_touches ..) (by decide) ?_
      exact Touches.refl _ _

theorem Dev.fxClose_touches (d) : Touches [.cores, .sems, .dbg] d (Dev.fxClose d) := by
  unfold Dev.fxClose
  refine Touches.comp (Touches.put_dbg ..) (by decide) ?_
  refine Touches.comp (Dev.semsAbandon_touches ..) (by decide) ?_
  refine Touches.comp (Touches.put_cores ..) (by decide) ?_
  refine Touches.comp (Dev.resumePair_touches ..) (by decide) ?_
  refine Touches.comp (Dev.resumePair_touches ..) (by decide) ?_
  exact Touches.refl _ _

theorem Dev.fxErr_touches (d) (e) : Touches [.dbg] d (Dev.fxErr d e) := by
  unfold Dev.fxErr
  refine Touches.comp (Touches.put_dbg ..) (by decide) ?_
  exact Touches.refl _ _

theorem Dev.tdo_touches (d) (width) (v) : Touches [.out] d (Dev.tdo d width v) := by
  unfold Dev.tdo
  refine Touches.comp (Dev.emit_touches ..) (by decide) ?_
  exact Touches.refl _ _

theorem Dev.fxOut_touches (d) (v) : Touches [.dbg, .out] d (Dev.fxOut d v) := by
  unfold Dev.fxOut
  refine Touches.comp (Dev.tdo_touches ..) (by decide) ?_
  refine Touches.comp (Touches.put_dbg ..) (by decide) ?_
  exact Touches.refl _ _

theorem Dev.irLoad_touches (d) (code) : Touches [.dbg] d (Dev.irLoad d code) := by
  unfold Dev.irLoad
  refine Touches.comp (Touches.put_dbg ..) (by decide) ?_
  exact Touches.refl _ _

theorem Dev.fxRefuse_touches (d) : Touches [.dbg, .out] d (Dev.fxRefuse d) := by
  unfold Dev.fxRefuse
  refine Touches.comp (Dev.tdo_touches ..) (by decide) ?_
  refine Touches.comp (Dev.fxErr_touches ..) (by decide) ?_
  refine Touches.comp (Dev.irLoad_touches ..) (by decide) ?_
  exact Touches.refl _ _

theorem Dev.haltPair_touches (d) (p) : Touches [.cores] d (Dev.haltPair d p) := by
  unfold Dev.haltPair
  conv => zeta
  refine Touches.ite ?_ ?_
  · exact Touches.refl _ _
  · refine Touches.ite ?_ ?_
    · refine Touches.comp (Dev.setPair_touches ..) (by decide) ?_
      exact Touches.refl _ _
    · refine Touches.comp (Touches.put_cores ..) (by decide) ?_
      refine Touches.comp (Dev.setPair_touches ..) (by decide) ?_
      exact Touches.refl _ _

theorem Dev.onHalted_touches {l : List Part} (x0 x1 x2) (s : [Part.regs, Part.dbg] ⊆ l) (hf : ∀ e, Touches l e (x2 e)) : Touches l x0 (Dev.onHalted x0 x1 x2) := by
  unfold Dev.onHalted
  exact Touches.ite (hf _) ((Touches.mono (k := [.regs, .dbg]) ((Dev.fxErr_touches ..).mono (by decide))) s)

theorem Dev.setBkpt_touches (d) (p) (i) (a) : Touches [.cores] d (Dev.setBkpt d p i a) := by
  unfold Dev.setBkpt
  refine Touches.comp (Dev.setPair_touches ..) (by decide) ?_
  exact Touches.refl _ _

theorem Dev.stepPair_touches (d) (p) (after) : Touches [.cores] d (Dev.stepPair d p after) := by
  unfold Dev.stepPair
  refine Touches.comp (Dev.setPair_touches ..) (by decide) ?_
  exact Touches.refl _ _

theorem bkptHit_touches (d) (p) (i) : Touches [.cores] d (bkptHit d p i) := by
  unfold bkptHit
  refine Touches.ite ?_ ?_
  · refine Touches.comp (Dev.haltPair_touches ..) (by decide) ?_
    exact Touches.refl _ _
  · exact Touches.refl _ _

theorem fxChallenge_touches (F) (d) : Touches [.dbg, .out, .fresh] d (fxChallenge F d) := by
  unfold fxChallenge
  refine Touches.ite ?_ ?_
  · exact Touches.refl _ _
  · refine Touches.ite ?_ ?_
    · refine Touches.comp (Dev.tdo_touches ..) (by decide) ?_
      refine Touches.comp (Dev.irLoad_touches ..) (by decide) ?_
      exact Touches.refl _ _
    · split
      · rename_i hq6
        refine Touches.comp (Dev.tdo_touches ..) (by decide) ?_
        refine Touches.comp (Dev.irLoad_touches ..) (by decide) ?_
        refine Touches.comp (Touches.put_dbg ..) (by decide) ?_
        refine Touches.comp (Dev.rand_touches hq6) (by decide) ?_
        exact Touches.refl _ _

theorem fxReg_touches {x0} {x1} {x2} {x3} {r e} (h : fxReg x0 x1 x2 x3 = (r, e)) : Touches [.regs, .sems] x1 e := by
  unfold fxReg at h
  split at h
  · cases h; exact Touches.refl ..
  · split at h
    · exact (Dev.semAcquire_touches h).mono (by decide)
    · cases h; exact (Dev.rcClear_touches ..).mono (by decide)

theorem fxLoad_touches (x0) (x1) (x2) (x3) : Touches [.regs, .sems, .dbg, .out] x1 (fxLoad x0 x1 x2 x3) := by
  unfold fxLoad
  split
  · split
    rename_i hq1
    split
    rename_i hq2
    refine Touches.comp (Dev.fxOut_touches ..) (by decide) ?_
    have h1 := fxReg_touches hq1
    split at hq2
    · exact Touches.comp (fxReg_touches hq2) (by decide) (h1.mono (by decide))
    · cases hq2; exact h1.mono (by decide)
  · exact (Dev.fxOut_touches ..).mono (by decide)
  · exact Touches.comp (Dev.fxOut_touches ..) (by decide) ((Dev.fxErr_touches ..).mono (by decide))

theorem unlockWork_touches (F) (d) : Touches [.regs, .a, .b, .log, .aon, .pmc, .dbg, .gon, .cache, .sec, .str, .out] d (unlockWork F d) := by
  unfold unlockWork
  refine Touches.comp (Dev.unlockSettle_touches ..) (by decide) ?_
  refine Touches.comp (Touches.put_dbg_sec ..) (by decide) ?_
  refine Touches.foldl (fun _ _ => ?_) ?_
  · refine Touches.comp (twinOff_touches ..) (by decide) ?_
    exact Touches.refl _ _
  · exact Touches.refl _ _

theorem fxResponse_touches (F) (d) (r) (s) : Touches [.regs, .a, .b, .log, .aon, .pmc, .dbg, .gon, .cache, .sec, .str, .out] d (fxResponse F d r s) := by
  unfold fxResponse
  conv => zeta
  refine Touches.ite ?_ ?_
  · exact Touches.refl _ _
  · refine Touches.ite ?_ ?_
    · refine Touches.comp (unlockWork_touches ..) (by decide) ?_
      refine Touches.comp (Dev.irLoad_touches ..) (by decide) ?_
      exact Touches.refl _ _
    · refine Touches.comp (Touches.put_dbg ..) (by decide) ?_
      refine Touches.comp (Dev.irLoad_touches ..) (by decide) ?_
      exact Touches.refl _ _

theorem fxRun_touches {l : List Part} (x0 x1) (s : [Part.regs, Part.dbg, Part.out] ⊆ l) (hf : ∀ e, Touches l e (x1 e)) : Touches l x0 (fxRun x0 x1) := by
  unfold fxRun
  refine Touches.ite (Touches.refl ..) (Touches.ite ((Touches.mono (k := [.regs, .dbg, .out]) ((Dev.fxErr_touches ..).mono (by decide))) s)
    (Touches.ite ((Touches.mono (k := [.regs, .dbg, .out]) ((Dev.fxRefuse_touches ..).mono (by decide))) s) ?_))
  refine Touches.comp (hf _) (fun _ m => m) (Touches.mono (k := [.regs, .dbg, .out]) ?_ s)
  exact Touches.comp (Dev.icu_touches ..) (by decide) (Touches.comp (Dev.irLoad_touches ..) (by decide) ((Touches.put_dbg ..).mono (by decide)))

theorem Dev.msixWrite_touches (d) (h) (off) (v) : Touches [.regs, .out] d (Dev.msixWrite d h off v) := by
  unfold Dev.msixWrite
  refine Touches.comp (Dev.msixDrain_touches ..) (by decide) ?_
  refine Touches.comp (Dev.setReg_touches ..) (by decide) ?_
  exact Touches.refl _ _

theorem rstWrite_touches (F) (d) (h) (v) : Touches [.regs, .a, .b, .tether, .keel, .log, .aon, .cache, .media, .str, .lci, .pwr, .out, .fresh] d (rstWrite F d h v) := by
  unfold rstWrite
  refine Touches.ite ?_ ?_
  · split
    · refine Touches.comp (flushEntry_touches ..) (by decide) ?_
      exact Touches.refl _ _
    · refine Touches.comp (flushEntry_touches ..) (by decide) ?_
      exact Touches.refl _ _
    · refine Touches.comp (flushEntry_touches ..) (by decide) ?_
      exact Touches.refl _ _
    · exact Touches.refl _ _
  · exact Touches.refl _ _

theorem Dev.plainWrite_touches (d) (off) (v) : Touches [.regs] d (Dev.plainWrite d off v) := by
  unfold Dev.plainWrite
  refine Touches.comp (Dev.setReg_touches ..) (by decide) ?_
  exact Touches.refl _ _

theorem glbWrite_touches (F) (d) (who) (off) (v) : Touches [.regs, .a, .b, .tether, .keel, .log, .aon, .pmc, .gon, .cache, .media, .tracts, .sec, .str, .lci, .pwr, .out, .fresh] d (glbWrite F d who off v) := by
  unfold glbWrite
  conv => zeta
  refine Touches.ite ?_ ?_
  · refine Touches.comp (Dev.msixWrite_touches ..) (by decide) ?_
    exact Touches.refl _ _
  · refine Touches.ite ?_ ?_
    · split
      · refine Touches.comp (twinRange_touches ..) (by decide) ?_
        exact Touches.refl _ _
      · refine Touches.comp (twinRange_touches ..) (by decide) ?_
        exact Touches.refl _ _
      · refine Touches.comp (twinRange_touches ..) (by decide) ?_
        exact Touches.refl _ _
      · refine Touches.comp (twinRange_touches ..) (by decide) ?_
        exact Touches.refl _ _
      · refine Touches.comp (twinWrite_touches ..) (by decide) ?_
        exact Touches.refl _ _
      · exact Touches.refl _ _
    · refine Touches.ite ?_ ?_
      · refine Touches.comp (rstWrite_touches ..) (by decide) ?_
        exact Touches.refl _ _
      · refine Touches.ite ?_ ?_
        · refine Touches.comp (Dev.setReg_touches ..) (by decide) ?_
          exact Touches.refl _ _
        · refine Touches.comp (Dev.plainWrite_touches ..) (by decide) ?_
          exact Touches.refl _ _

theorem Dev.rmEnd_touches (d) (status) : Touches [.lci] d (Dev.rmEnd d status) := by
  unfold Dev.rmEnd
  refine Touches.comp (Touches.put_lci ..) (by decide) ?_
  exact Touches.refl _ _

theorem Dev.rmGo_touches (d) (h) (op) : Touches [.regs, .lci] d (Dev.rmGo d h op) := by
  unfold Dev.rmGo
  refine Touches.ite ?_ ?_
  · exact Touches.refl _ _
  · refine Touches.comp (Dev.icu_touches ..) (by decide) ?_
    refine Touches.comp (Dev.setFld_touches ..) (by decide) ?_
    refine Touches.comp (Touches.put_lci ..) (by decide) ?_
    exact Touches.refl _ _

theorem rmWrite_touches (F) (d) (h) (off) (v) : Touches [.regs, .lci] d (rmWrite F d h off v) := by
  unfold rmWrite
  conv => zeta
  refine Touches.ite ?_ ?_
  · exact Touches.refl _ _
  · refine Touches.ite ?_ ?_
    · refine Touches.ite ?_ ?_
      · exact Touches.refl _ _
      · refine Touches.ite ?_ ?_
        · refine Touches.comp (Dev.plainWrite_touches ..) (by decide) ?_
          exact Touches.refl _ _
        · refine Touches.ite ?_ ?_
          · refine Touches.comp (Dev.rmEnd_touches ..) (by decide) ?_
            refine Touches.comp (Dev.rmGo_touches ..) (by decide) ?_
            refine Touches.comp (Dev.plainWrite_touches ..) (by decide) ?_
            exact Touches.refl _ _
          · refine Touches.comp (Dev.rmGo_touches ..) (by decide) ?_
            refine Touches.comp (Dev.plainWrite_touches ..) (by decide) ?_
            exact Touches.refl _ _
    · refine Touches.comp (Dev.plainWrite_touches ..) (by decide) ?_
      exact Touches.refl _ _

theorem mbxWrite_touches (F) (d) (who) (off) (v) : Touches [.regs, .pmc, .bst, .sec, .str, .lci, .fresh] d (mbxWrite F d who off v) := by
  unfold mbxWrite
  conv => zeta
  refine Touches.ite ?_ ?_
  · split
    · refine Touches.ite ?_ ?_
      · refine Touches.comp (Dev.setReg_touches ..) (by decide) ?_
        exact Touches.refl _ _
      · exact Touches.refl _ _
    · refine Touches.ite ?_ ?_
      · refine Touches.comp (Dev.setReg_touches ..) (by decide) ?_
        exact Touches.refl _ _
      · exact Touches.refl _ _
    · refine Touches.ite ?_ ?_
      · refine Touches.comp (Dev.setReg_touches ..) (by decide) ?_
        exact Touches.refl _ _
      · exact Touches.refl _ _
    · refine Touches.ite ?_ ?_
      · refine Touches.comp (Dev.setReg_touches ..) (by decide) ?_
        exact Touches.refl _ _
      · exact Touches.refl _ _
    · refine Touches.comp (qpCfgWrite_touches ..) (by decide) ?_
      exact Touches.refl _ _
    · refine Touches.ite ?_ ?_
      · refine Touches.comp (Dev.setQp_touches ..) (by decide) ?_
        exact Touches.refl _ _
      · exact Touches.refl _ _
    · exact Touches.refl _ _
  · refine Touches.ite ?_ ?_
    · refine Touches.ite ?_ ?_
      · refine Touches.comp (sqDoor_touches ..) (by decide) ?_
        exact Touches.refl _ _
      · refine Touches.comp (cqDoor_touches ..) (by decide) ?_
        exact Touches.refl _ _
    · refine Touches.comp (rmWrite_touches ..) (by decide) ?_
      exact Touches.refl _ _

theorem slotSet_touches (F) (d) (who) (n) (off) (v) : Touches [.regs] d (slotSet F d who n off v) := by
  unfold slotSet
  refine Touches.ite ?_ ?_
  · refine Touches.comp (Dev.setReg_touches ..) (by decide) ?_
    exact Touches.refl _ _
  · exact Touches.refl _ _

theorem Dev.ordered_touches (old) (d) (off) (uh) (ul) (lh) (ll) : Touches [.regs] d (Dev.ordered old d off uh ul lh ll) := by
  unfold Dev.ordered
  refine Touches.ite ?_ ?_
  · exact Touches.refl _ _
  · refine Touches.comp (Dev.setFld_touches ..) (by decide) ?_
    refine Touches.comp (Dev.setFld_touches ..) (by decide) ?_
    exact Touches.refl _ _

theorem Dev.cfgWrite_touches (d) (off) (v) : Touches [.regs, .keel] d (Dev.cfgWrite d off v) := by
  unfold Dev.cfgWrite
  refine Touches.comp (Dev.keepCfg_touches ..) (by decide) ?_
  refine Touches.ite ?_ ?_
  · refine Touches.comp (Dev.ordered_touches ..) (by decide) ?_
    refine Touches.comp (Dev.plainWrite_touches ..) (by decide) ?_
    exact Touches.refl _ _
  · refine Touches.ite ?_ ?_
    · refine Touches.comp (Dev.ordered_touches ..) (by decide) ?_
      refine Touches.comp (Dev.plainWrite_touches ..) (by decide) ?_
      exact Touches.refl _ _
    · refine Touches.comp (Dev.plainWrite_touches ..) (by decide) ?_
      exact Touches.refl _ _

theorem tthWrite_touches (F) (d) (who) (off) (v) : Touches [.regs, .tether, .launch, .gpio, .keel, .pmc, .bst, .gon, .str, .lci, .out, .fresh] d (tthWrite F d who off v) := by
  unfold tthWrite
  conv => zeta
  refine Touches.ite ?_ ?_
  · split
    · refine Touches.comp (slotSet_touches ..) (by decide) ?_
      exact Touches.refl _ _
    · refine Touches.comp (slotSet_touches ..) (by decide) ?_
      exact Touches.refl _ _
    · refine Touches.comp (slotSet_touches ..) (by decide) ?_
      exact Touches.refl _ _
    · refine Touches.comp (slotWrite_touches ..) (by decide) ?_
      exact Touches.refl _ _
    · exact Touches.refl _ _
  · refine Touches.ite ?_ ?_
    · refine Touches.comp (Dev.rateWrite_touches ..) (by decide) ?_
      exact Touches.refl _ _
    · refine Touches.ite ?_ ?_
      · refine Touches.comp (Dev.setSrc_touches ..) (by decide) ?_
        refine Touches.comp (Dev.cfgWrite_touches ..) (by decide) ?_
        exact Touches.refl _ _
      · refine Touches.comp (Dev.cfgWrite_touches ..) (by decide) ?_
        exact Touches.refl _ _

theorem linWrite_touches (F) (d) (who) (off) (v) : Touches [.regs, .keel, .log, .aon, .cache] d (linWrite F d who off v) := by
  unfold linWrite
  conv => zeta
  refine Touches.ite ?_ ?_
  · refine Touches.ite ?_ ?_
    · refine Touches.comp (compatOn_touches ..) (by decide) ?_
      refine Touches.comp (Dev.setFld_touches ..) (by decide) ?_
      exact Touches.refl _ _
    · refine Touches.comp (Dev.compatOff_touches ..) (by decide) ?_
      refine Touches.comp (Dev.setFld_touches ..) (by decide) ?_
      exact Touches.refl _ _
  · refine Touches.ite ?_ ?_
    · refine Touches.comp (scratchWriteCtl_touches ..) (by decide) ?_
      exact Touches.refl _ _
    · refine Touches.ite ?_ ?_
      · refine Touches.ite ?_ ?_
        · refine Touches.comp (Dev.invGo_touches ..) (by decide) ?_
          exact Touches.refl _ _
        · exact Touches.refl _ _
      · split
        · refine Touches.comp (Dev.cmpPin_touches ..) (by decide) ?_
          exact Touches.refl _ _
        · refine Touches.comp (Dev.cfgWrite_touches ..) (by decide) ?_
          exact Touches.refl _ _

theorem mchWrite_touches (F) (d) (off) (v) : Touches [.regs, .keel, .media] d (mchWrite F d off v) := by
  unfold mchWrite
  split
  · refine Touches.ite ?_ ?_
    · refine Touches.comp (Dev.retrainAsk_touches ..) (by decide) ?_
      exact Touches.refl _ _
    · exact Touches.refl _ _
  · refine Touches.ite ?_ ?_
    · refine Touches.comp (Dev.keepCfg_touches ..) (by decide) ?_
      refine Touches.comp (Dev.rankWrite_touches ..) (by decide) ?_
      exact Touches.refl _ _
    · exact Touches.refl _ _
  · refine Touches.comp (Dev.cfgWrite_touches ..) (by decide) ?_
    exact Touches.refl _ _

theorem psvWrite_touches (d) (off) (v) : Touches [.regs, .tether, .pmc, .gon, .media, .pwr, .out] d (psvWrite d off v) := by
  unfold psvWrite
  refine Touches.ite ?_ ?_
  · refine Touches.comp (marginWrite_touches ..) (by decide) ?_
    exact Touches.refl _ _
  · refine Touches.ite ?_ ?_
    · refine Touches.comp (Touches.put_pwr ..) (by decide) ?_
      exact Touches.refl _ _
    · exact Touches.refl _ _

theorem thkWrite_touches (d) (off) (v) : Touches [.keel] d (thkWrite d off v) := by
  unfold thkWrite
  refine Touches.ite ?_ ?_
  · refine Touches.comp (Dev.statePut_touches ..) (by decide) ?_
    refine Touches.comp (Touches.put_keel ..) (by decide) ?_
    exact Touches.refl _ _
  · exact Touches.refl _ _

theorem pmcWrite_touches (F) (d) (who) (off) (v) : Touches [.regs, .pmc] d (pmcWrite F d who off v) := by
  unfold pmcWrite
  split
  · refine Touches.comp (cntWrite_touches ..) (by decide) ?_
    exact Touches.refl _ _
  · refine Touches.comp (histWrite_touches ..) (by decide) ?_
    exact Touches.refl _ _
  · refine Touches.ite ?_ ?_
    · refine Touches.comp (pmcCtl_touches ..) (by decide) ?_
      exact Touches.refl _ _
    · exact Touches.refl _ _

theorem icuWrite_touches (F) (d) (off) (v) : Touches [.regs, .log, .aon, .cores, .sems] d (icuWrite F d off v) := by
  unfold icuWrite
  conv => zeta
  split
  · refine Touches.comp (Dev.srcWrite_touches ..) (by decide) ?_
    exact Touches.refl _ _
  · refine Touches.ite ?_ ?_
    · refine Touches.comp (Dev.semRelease_touches ..) (by decide) ?_
      exact Touches.refl _ _
    · exact Touches.refl _ _
  · refine Touches.comp (eoi_touches ..) (by decide) ?_
    exact Touches.refl _ _
  · refine Touches.comp (Dev.pet_touches ..) (by decide) ?_
    exact Touches.refl _ _
  · refine Touches.ite ?_ ?_
    · refine Touches.comp (Dev.gctlWrite_touches ..) (by decide) ?_
      exact Touches.refl _ _
    · refine Touches.ite ?_ ?_
      · refine Touches.comp (Dev.swiWrite_touches ..) (by decide) ?_
        exact Touches.refl _ _
      · refine Touches.comp (Dev.plainWrite_touches ..) (by decide) ?_
        exact Touches.refl _ _

theorem regWrite_touches (F) (d) (who) (off) (v) : Touches [.regs, .a, .b, .tether, .launch, .gpio, .keel, .log, .aon, .cores, .sems, .pmc, .bst, .gon, .cache, .media, .tracts, .sec, .str, .lci, .pwr, .out, .fresh] d (regWrite F d who off v) := by
  unfold regWrite
  split
  · refine Touches.comp (glbWrite_touches ..) (by decide) ?_
    exact Touches.refl _ _
  · refine Touches.comp (mbxWrite_touches ..) (by decide) ?_
    exact Touches.refl _ _
  · refine Touches.comp (tthWrite_touches ..) (by decide) ?_
    exact Touches.refl _ _
  · refine Touches.comp (linWrite_touches ..) (by decide) ?_
    exact Touches.refl _ _
  · refine Touches.comp (mchWrite_touches ..) (by decide) ?_
    exact Touches.refl _ _
  · refine Touches.comp (psvWrite_touches ..) (by decide) ?_
    exact Touches.refl _ _
  · refine Touches.comp (thkWrite_touches ..) (by decide) ?_
    exact Touches.refl _ _
  · refine Touches.comp (pmcWrite_touches ..) (by decide) ?_
    exact Touches.refl _ _
  · refine Touches.comp (icuWrite_touches ..) (by decide) ?_
    exact Touches.refl _ _
  · exact Touches.refl _ _
  · refine Touches.comp (Dev.cfgWrite_touches ..) (by decide) ?_
    exact Touches.refl _ _

theorem regWriteWide_touches (F) (d) (who) (off) (wide) (v) : Touches [.regs, .a, .b, .tether, .launch, .gpio, .keel, .log, .aon, .cores, .sems, .pmc, .bst, .gon, .cache, .media, .tracts, .sec, .str, .lci, .pwr, .out, .fresh] d (regWriteWide F d who off wide v) := by
  unfold regWriteWide
  conv => zeta
  refine Touches.ite ?_ ?_
  · refine Touches.comp (regWrite_touches ..) (by decide) ?_
    refine Touches.comp (regWrite_touches ..) (by decide) ?_
    exact Touches.refl _ _
  · refine Touches.comp (regWrite_touches ..) (by decide) ?_
    exact Touches.refl _ _

theorem fxStore_touches (F) (d) (a) (v) : Touches [.regs, .a, .b, .tether, .launch, .gpio, .keel, .log, .aon, .cores, .sems, .pmc, .bst, .dbg, .gon, .cache, .media, .tracts, .sec, .str, .lci, .pwr, .out, .fresh] d (fxStore F d a v) := by
  unfold fxStore
  conv => zeta
  split
  · refine Touches.comp (silentOut_touches ..) (by decide) ?_
    refine Touches.comp (regWriteWide_touches ..) (by decide) ?_
    refine Touches.comp (Touches.put_dbg ..) (by decide) ?_
    exact Touches.refl _ _
  · refine Touches.comp (Dev.setPair_touches ..) (by decide) ?_
    refine Touches.comp (Touches.put_dbg ..) (by decide) ?_
    exact Touches.refl _ _
  · refine Touches.comp (Dev.fxErr_touches ..) (by decide) ?_
    refine Touches.comp (Touches.put_dbg ..) (by decide) ?_
    exact Touches.refl _ _

theorem Dev.regError_touches (d) (h) (kind) (off) : Touches [.regs] d (Dev.regError d h kind off) := by
  unfold Dev.regError
  conv => zeta
  refine Touches.ite ?_ ?_
  · refine Touches.comp (Dev.bump_touches ..) (by decide) ?_
    exact Touches.refl _ _
  · refine Touches.comp (Dev.setReg_touches ..) (by decide) ?_
    refine Touches.comp (Dev.bump_touches ..) (by decide) ?_
    exact Touches.refl _ _

theorem readWord_touches {x0} {x1} {x2} {x3} {x4} {x5} {r e} (h : readWord x0 x1 x2 x3 x4 x5 = (r, e)) : Touches [.regs] x1 e := by
  cases h
  exact Touches.ite (Touches.refl _ _) (Dev.rcRead_touches ..)

theorem hostRegRead_touches {x0} {x1} {x2} {x3} {x4} {r e} (h : hostRegRead x0 x1 x2 x3 x4 = (r, e)) : Touches [.regs] x1 e := by
  unfold hostRegRead at h
  split at h
  · cases h; exact Touches.refl _ _
  · split at h
    · cases h; exact Dev.regError_touches ..
    · split at h
      · cases h; exact Dev.regError_touches ..
      · split at h
        · cases h; exact Touches.comp (k := [.regs]) (readWord_touches (r := (readWord x0 (readWord x0 x1 x2 x3 31 0).2 x2 (x3 + 4) 31 0).1) rfl) (by decide) (readWord_touches (r := (readWord x0 x1 x2 x3 31 0).1) rfl)
        · exact readWord_touches h

theorem scanHold_touches (d) (code) (width) (v) : Touches [.dbg, .out] d (scanHold d code width v) := by
  unfold scanHold
  refine Touches.ite ?_ ?_
  · exact Touches.refl _ _
  · refine Touches.ite ?_ ?_
    · refine Touches.comp (Dev.tdo_touches ..) (by decide) ?_
      refine Touches.comp (Dev.irLoad_touches ..) (by decide) ?_
      refine Touches.comp (Touches.put_dbg ..) (by decide) ?_
      exact Touches.refl _ _
    · refine Touches.comp (Dev.fxRefuse_touches ..) (by decide) ?_
      exact Touches.refl _ _

theorem scanSample_touches (d) (pins) : Touches [.dbg, .out] d (scanSample d pins) := by
  unfold scanSample
  refine Touches.ite ?_ ?_
  · refine Touches.comp (Dev.tdo_touches ..) (by decide) ?_
    refine Touches.comp (Dev.irLoad_touches ..) (by decide) ?_
    refine Touches.comp (Touches.put_dbg ..) (by decide) ?_
    exact Touches.refl _ _
  · exact Touches.refl _ _

theorem tapOff_touches (d) : Touches [.cores, .sems, .dbg] d (tapOff d) := by
  unfold tapOff
  refine Touches.comp (Touches.put_dbg ..) (by decide) ?_
  refine Touches.comp (Dev.fxClose_touches ..) (by decide) ?_
  exact Touches.refl _ _

theorem Dev.putWords_touches (d) (base) (b) : Touches [.regs] d (Dev.putWords d base b) := by
  unfold Dev.putWords
  refine Touches.foldl (fun _ _ => ?_) ?_
  · refine Touches.comp (Dev.setReg_touches ..) (by decide) ?_
    exact Touches.refl _ _
  · exact Touches.refl _ _

theorem Dev.rmRes_touches (d) (k) (v) : Touches [.regs] d (Dev.rmRes d k v) := by
  unfold Dev.rmRes
  refine Touches.comp (Dev.setReg_touches ..) (by decide) ?_
  exact Touches.refl _ _

theorem rmClear_touches (F) (d) (h) : Touches [.regs, .keel, .log, .aon, .pmc, .str, .lci, .fresh] d (rmClear F d h) := by
  unfold rmClear
  refine Touches.comp (silentOut_touches ..) (by decide) ?_
  refine Touches.comp (Dev.rmEnd_touches ..) (by decide) ?_
  refine Touches.comp (clearPairs_touches ..) (by decide) ?_
  exact Touches.refl _ _

theorem rmIdent_touches (F) (d) (h) : Touches [.regs, .lci] d (rmIdent F d h) := by
  unfold rmIdent
  refine Touches.comp (Dev.rmEnd_touches ..) (by decide) ?_
  refine Touches.comp (Dev.putWords_touches ..) (by decide) ?_
  exact Touches.refl _ _

theorem rmImage_touches (d) : Touches [.regs, .images, .lci] d (rmImage d) := by
  unfold rmImage
  conv => zeta
  refine Touches.ite ?_ ?_
  · refine Touches.comp (Dev.rmEnd_touches ..) (by decide) ?_
    exact Touches.refl _ _
  · refine Touches.ite ?_ ?_
    · refine Touches.comp (Dev.rmEnd_touches ..) (by decide) ?_
      exact Touches.refl _ _
    · refine Touches.comp (Dev.rmEnd_touches ..) (by decide) ?_
      refine Touches.comp (Dev.icu_touches ..) (by decide) ?_
      refine Touches.comp (Dev.imagePoke_touches ..) (by decide) ?_
      exact Touches.refl _ _

theorem rmLog_touches (F) (d) : Touches [.regs, .lci] d (rmLog F d) := by
  unfold rmLog
  conv => zeta
  refine Touches.ite ?_ ?_
  · refine Touches.comp (Dev.rmEnd_touches ..) (by decide) ?_
    exact Touches.refl _ _
  · refine Touches.comp (Dev.rmEnd_touches ..) (by decide) ?_
    refine Touches.comp (Dev.putWords_touches ..) (by decide) ?_
    exact Touches.refl _ _

theorem rmRun_touches {l : List Part} (x0 x1 x2 x3 x4) (s : [Part.regs, Part.lci] ⊆ l) (hf : ∀ e, Touches l e (x4 e)) : Touches l x1 (rmRun x0 x1 x2 x3 x4) := by
  unfold rmRun
  refine Touches.ite (Touches.refl ..) (Touches.ite (Touches.mono (k := [.regs, .lci]) ?_ s) (Touches.comp (hf _) (fun _ m => m) (Touches.mono (k := [.regs, .lci]) ?_ s)))
  · exact Touches.comp (Dev.rmEnd_touches ..) (by decide) ((Dev.rmGo_touches ..).mono (by decide))
  · exact (Dev.rmGo_touches ..).mono (by decide)

theorem rmSelect_touches (F) (d) : Touches [.regs, .keel, .lci] d (rmSelect F d) := by
  unfold rmSelect
  conv => zeta
  refine Touches.ite ?_ ?_
  · refine Touches.comp (Dev.rmEnd_touches ..) (by decide) ?_
    exact Touches.refl _ _
  · refine Touches.ite ?_ ?_
    · refine Touches.comp (Dev.rmEnd_touches ..) (by decide) ?_
      refine Touches.comp (Dev.rmRes_touches ..) (by decide) ?_
      exact Touches.refl _ _
    · refine Touches.comp (Dev.selectImage_touches ..) (by decide) ?_
      refine Touches.comp (Dev.rmRes_touches ..) (by decide) ?_
      refine Touches.comp (Touches.put_lci ..) (by decide) ?_
      exact Touches.refl _ _

theorem rmStatusOf_touches (F) (d) : Touches [.regs, .lci] d (rmStatusOf F d) := by
  unfold rmStatusOf
  refine Touches.comp (Dev.rmEnd_touches ..) (by decide) ?_
  refine Touches.comp (Dev.rmRes_touches ..) (by decide) ?_
  refine Touches.comp (Dev.rmRes_touches ..) (by decide) ?_
  refine Touches.comp (Dev.rmRes_touches ..) (by decide) ?_
  refine Touches.comp (Dev.rmRes_touches ..) (by decide) ?_
  exact Touches.refl _ _

theorem rmUnfinished_touches (d) : Touches [.regs, .lci] d (rmUnfinished d) := by
  unfold rmUnfinished
  conv => zeta
  refine Touches.ite ?_ ?_
  · refine Touches.comp (Dev.rmEnd_touches ..) (by decide) ?_
    exact Touches.refl _ _
  · refine Touches.comp (Dev.rmEnd_touches ..) (by decide) ?_
    refine Touches.comp (Dev.rmRes_touches ..) (by decide) ?_
    refine Touches.comp (Dev.putWords_touches ..) (by decide) ?_
    exact Touches.refl _ _

theorem Dev.functionClear_touches (d) (h) : Touches [.regs, .a, .b] d (Dev.functionClear d h) := by
  unfold Dev.functionClear
  refine Touches.comp (Dev.setHead_touches ..) (by decide) ?_
  refine Touches.comp (Dev.resetRange_touches ..) (by decide) ?_
  refine Touches.comp (Dev.resetRange_touches ..) (by decide) ?_
  refine Touches.comp (Dev.resetRange_touches ..) (by decide) ?_
  exact Touches.refl _ _

theorem Dev.linkDown_touches (d) (h) : Touches [.regs, .a, .b, .gon, .cache] d (Dev.linkDown d h) := by
  unfold Dev.linkDown
  refine Touches.comp (Dev.linkNoted_touches ..) (by decide) ?_
  refine Touches.comp (Touches.put_gon_cache ..) (by decide) ?_
  refine Touches.comp (Dev.setHead_touches ..) (by decide) ?_
  exact Touches.refl _ _

theorem Dev.portFound_touches (d) (h) : Touches [.a, .b, .pwr, .out] d (Dev.portFound d h) := by
  unfold Dev.portFound
  conv => zeta
  refine Touches.ite ?_ ?_
  · refine Touches.comp (Dev.faultRelease_touches ..) (by decide) ?_
    refine Touches.comp (Dev.setHead_touches ..) (by decide) ?_
    exact Touches.refl _ _
  · refine Touches.comp (Dev.setHead_touches ..) (by decide) ?_
    exact Touches.refl _ _

theorem Dev.portHeal_touches (F) (d) : Touches [.regs, .pwr, .out] d (Dev.portHeal F d) := by
  unfold Dev.portHeal
  conv => zeta
  refine Touches.ite ?_ ?_
  · refine Touches.comp (Dev.notice_touches ..) (by decide) ?_
    refine Touches.comp (Touches.put_pwr ..) (by decide) ?_
    exact Touches.refl _ _
  · exact Touches.refl _ _

theorem Dev.slotsClear_touches (d) (h) : Touches [.sec] d (Dev.slotsClear d h) := by
  unfold Dev.slotsClear
  refine Touches.foldl (fun _ _ => ?_) ?_
  · refine Touches.comp (Dev.clearSlot_touches ..) (by decide) ?_
    exact Touches.refl _ _
  · exact Touches.refl _ _

theorem scratchClear_touches (F) (d) (h) : Touches [.regs, .cache] d (scratchClear F d h) := by
  unfold scratchClear
  refine Touches.comp (Dev.scratchDone_touches ..) (by decide) ?_
  refine Touches.comp (scratchWriteCtl_touches ..) (by decide) ?_
  refine Touches.comp (Dev.scratchDone_touches ..) (by decide) ?_
  exact Touches.refl _ _

theorem hostSlotsClear_touches (F) (d) (h) : Touches [.regs, .launch] d (hostSlotsClear F d h) := by
  unfold hostSlotsClear
  refine Touches.foldl (fun _ _ => ?_) ?_
  · refine Touches.comp (Dev.slotClear_touches ..) (by decide) ?_
    exact Touches.refl _ _
  · exact Touches.refl _ _

theorem locksOpen_touches (F) (d) (h) (cxl) : Touches [.regs, .a, .b] d (locksOpen F d h cxl) := by
  unfold locksOpen
  conv => zeta
  refine Touches.foldl (fun _ _ => ?_) ?_
  · refine Touches.ite ?_ ?_
    · exact Touches.refl _ _
    · refine Touches.ite ?_ ?_
      · refine Touches.foldl (fun _ _ => ?_) ?_
        · refine Touches.comp (Dev.setHead_touches ..) (by decide) ?_
          exact Touches.refl _ _
        · refine Touches.comp (Dev.setRbit_touches ..) (by decide) ?_
          refine Touches.comp (Dev.setHead_touches ..) (by decide) ?_
          exact Touches.refl _ _
      · refine Touches.comp (Dev.setHead_touches ..) (by decide) ?_
        exact Touches.refl _ _
  · exact Touches.refl _ _

theorem windowsClear_touches (F) (d) (h) : Touches [.regs, .cache, .sec] d (windowsClear F d h) := by
  unfold windowsClear
  conv => zeta
  refine Touches.foldl (fun _ _ => ?_) ?_
  · refine Touches.ite ?_ ?_
    · refine Touches.comp (Dev.resetRange_touches ..) (by decide) ?_
      refine Touches.ite ?_ ?_
      · refine Touches.comp (Dev.invalidate_touches ..) (by decide) ?_
        refine Touches.comp (Dev.ctrWindow_touches ..) (by decide) ?_
        exact Touches.refl _ _
      · exact Touches.refl _ _
    · exact Touches.refl _ _
  · exact Touches.refl _ _

theorem headReset_touches (F) (d) (h) (cause) : Touches [.regs, .a, .b, .launch, .keel, .log, .aon, .pmc, .gon, .cache, .sec, .str, .lci, .fresh] d (headReset F d h cause) := by
  unfold headReset
  refine Touches.comp (Dev.setHead_touches ..) (by decide) ?_
  refine Touches.comp (Dev.functionClear_touches ..) (by decide) ?_
  refine Touches.comp (Dev.slotsClear_touches ..) (by decide) ?_
  refine Touches.comp (hostSlotsClear_touches ..) (by decide) ?_
  refine Touches.comp (locksOpen_touches ..) (by decide) ?_
  refine Touches.comp (windowsClear_touches ..) (by decide) ?_
  refine Touches.comp (scratchClear_touches ..) (by decide) ?_
  refine Touches.comp (Dev.linkDown_touches ..) (by decide) ?_
  refine Touches.comp (clearPairs_touches ..) (by decide) ?_
  exact Touches.refl _ _

theorem conventional_touches (F) (d) (h) : Touches [.regs, .a, .b, .launch, .keel, .log, .aon, .pmc, .gon, .cache, .sec, .str, .lci, .fresh] d (conventional F d h) := by
  unfold conventional
  refine Touches.ite ?_ ?_
  · refine Touches.comp (silentOut_touches ..) (by decide) ?_
    refine Touches.comp (Dev.icu_touches ..) (by decide) ?_
    refine Touches.comp (headReset_touches ..) (by decide) ?_
    exact Touches.refl _ _
  · exact Touches.refl _ _

theorem cxlResetHead_touches (F) (d) (h) : Touches [.regs, .a, .b, .launch, .keel, .log, .aon, .pmc, .cache, .sec, .str, .lci, .fresh] d (cxlResetHead F d h) := by
  unfold cxlResetHead
  refine Touches.ite ?_ ?_
  · refine Touches.comp (silentOut_touches ..) (by decide) ?_
    refine Touches.comp (Dev.icu_touches ..) (by decide) ?_
    refine Touches.comp (Dev.slotsClear_touches ..) (by decide) ?_
    refine Touches.comp (hostSlotsClear_touches ..) (by decide) ?_
    refine Touches.comp (locksOpen_touches ..) (by decide) ?_
    refine Touches.comp (windowsClear_touches ..) (by decide) ?_
    refine Touches.comp (scratchClear_touches ..) (by decide) ?_
    refine Touches.comp (clearPairs_touches ..) (by decide) ?_
    exact Touches.refl _ _
  · exact Touches.refl _ _

theorem d0Back_touches (F) (d) (h) : Touches [.regs, .a, .b, .out] d (d0Back F d h) := by
  unfold d0Back
  conv => zeta
  refine Touches.ite ?_ ?_
  · exact Touches.refl _ _
  · refine Touches.ite ?_ ?_
    · refine Touches.comp (Dev.msixDrain_touches ..) (by decide) ?_
      refine Touches.comp (Dev.setHead_touches ..) (by decide) ?_
      exact Touches.refl _ _
    · refine Touches.comp (Dev.icu_touches ..) (by decide) ?_
      refine Touches.comp (Dev.msixDrain_touches ..) (by decide) ?_
      refine Touches.comp (Dev.setHead_touches ..) (by decide) ?_
      exact Touches.refl _ _

theorem d3coldIn_touches (F) (d) (h) : Touches [.regs, .a, .b, .launch, .keel, .log, .aon, .pmc, .gon, .cache, .sec, .str, .lci, .fresh] d (d3coldIn F d h) := by
  unfold d3coldIn
  conv => zeta
  refine Touches.ite ?_ ?_
  · exact Touches.refl _ _
  · refine Touches.ite ?_ ?_
    · refine Touches.comp (Dev.compatStop_touches ..) (by decide) ?_
      refine Touches.comp (Dev.icu_touches ..) (by decide) ?_
      refine Touches.comp (Touches.put_regs_pmc ..) (by decide) ?_
      refine Touches.comp (Dev.setHead_touches ..) (by decide) ?_
      refine Touches.comp (Touches.put_str ..) (by decide) ?_
      refine Touches.comp (headReset_touches ..) (by decide) ?_
      refine Touches.foldl (fun _ _ => ?_) ?_
      · refine Touches.comp (Dev.dropCmd_touches ..) (by decide) ?_
        split
        · refine Touches.comp (Dev.setSchan_touches ..) (by decide) ?_
          split
          · refine Touches.comp (Dev.slotCancel_touches ..) (by decide) ?_
            exact Touches.refl _ _
          · exact Touches.refl _ _
        · split
          · refine Touches.comp (Dev.slotCancel_touches ..) (by decide) ?_
            exact Touches.refl _ _
          · exact Touches.refl _ _
      · refine Touches.comp (uwlAdd_touches ..) (by decide) ?_
        exact Touches.refl _ _
    · refine Touches.comp (Dev.icu_touches ..) (by decide) ?_
      refine Touches.comp (Touches.put_regs_pmc ..) (by decide) ?_
      refine Touches.comp (Dev.setHead_touches ..) (by decide) ?_
      refine Touches.comp (Touches.put_str ..) (by decide) ?_
      refine Touches.comp (headReset_touches ..) (by decide) ?_
      refine Touches.foldl (fun _ _ => ?_) ?_
      · refine Touches.comp (Dev.dropCmd_touches ..) (by decide) ?_
        split
        · refine Touches.comp (Dev.setSchan_touches ..) (by decide) ?_
          split
          · refine Touches.comp (Dev.slotCancel_touches ..) (by decide) ?_
            exact Touches.refl _ _
          · exact Touches.refl _ _
        · split
          · refine Touches.comp (Dev.slotCancel_touches ..) (by decide) ?_
            exact Touches.refl _ _
          · exact Touches.refl _ _
      · refine Touches.comp (uwlAdd_touches ..) (by decide) ?_
        exact Touches.refl _ _

theorem d3hot_touches (F) (d) (h) : Touches [.regs, .a, .b, .str, .lci, .fresh] d (d3hot F d h) := by
  unfold d3hot
  conv => zeta
  refine Touches.ite ?_ ?_
  · exact Touches.refl _ _
  · refine Touches.foldl (fun _ _ => ?_) ?_
    · refine Touches.ite ?_ ?_
      · refine Touches.comp (Dev.stopChan_touches ..) (by decide) ?_
        refine Touches.comp (Dev.mapCmd_touches ..) (by decide) ?_
        exact Touches.refl _ _
      · exact Touches.refl _ _
    · refine Touches.comp (Dev.icu_touches ..) (by decide) ?_
      refine Touches.comp (Dev.setHead_touches ..) (by decide) ?_
      exact Touches.refl _ _

theorem decoderCommit_touches (F) (d) (h) (i) (base) (size) (skip) (lock) (ways) (gran) (pos) : Touches [.regs, .a, .b, .log, .aon] d (decoderCommit F d h i base size skip lock ways gran pos) := by
  unfold decoderCommit
  conv => zeta
  refine Touches.ite ?_ ?_
  · exact Touches.refl _ _
  · refine Touches.ite ?_ ?_
    · refine Touches.comp (Dev.event_touches ..) (by decide) ?_
      refine Touches.comp (Dev.setHead_touches ..) (by decide) ?_
      exact Touches.refl _ _
    · refine Touches.ite ?_ ?_
      · refine Touches.comp (Dev.event_touches ..) (by decide) ?_
        refine Touches.comp (Touches.put_a_b ..) (by decide) ?_
        refine Touches.comp (Dev.setHead_touches ..) (by decide) ?_
        exact Touches.refl _ _
      · refine Touches.comp (Dev.setHead_touches ..) (by decide) ?_
        exact Touches.refl _ _

theorem decoderUncommit_touches (d) (h) (i) : Touches [.a, .b] d (decoderUncommit d h i) := by
  unfold decoderUncommit
  conv => zeta
  refine Touches.ite ?_ ?_
  · exact Touches.refl _ _
  · refine Touches.comp (Dev.setHead_touches ..) (by decide) ?_
    exact Touches.refl _ _

theorem doeAnswer_touches (F) (d0) (h) (k) (arg) : Touches [.regs, .a, .b, .out] d0 (doeAnswer F d0 h k arg) := by
  unfold doeAnswer
  conv => zeta
  refine Touches.ite ?_ ?_
  · exact Touches.refl _ _
  · split
    · split
      · refine Touches.comp (Dev.emit_touches ..) (by decide) ?_
        refine Touches.comp (Dev.icu_touches ..) (by decide) ?_
        exact Touches.refl _ _
      · refine Touches.comp (Dev.emit_touches ..) (by decide) ?_
        refine Touches.comp (Dev.icu_touches ..) (by decide) ?_
        exact Touches.refl _ _
    · refine Touches.comp (Dev.emit_touches ..) (by decide) ?_
      refine Touches.comp (Dev.icu_touches ..) (by decide) ?_
      exact Touches.refl _ _
    · refine Touches.ite ?_ ?_
      · refine Touches.comp (Dev.emit_touches ..) (by decide) ?_
        refine Touches.comp (Dev.setHead_touches ..) (by decide) ?_
        refine Touches.comp (Dev.icu_touches ..) (by decide) ?_
        exact Touches.refl _ _
      · refine Touches.ite ?_ ?_
        · refine Touches.comp (Dev.icu_touches ..) (by decide) ?_
          exact Touches.refl _ _
        · refine Touches.ite ?_ ?_
          · refine Touches.comp (Dev.emit_touches ..) (by decide) ?_
            refine Touches.comp (Dev.setHead_touches ..) (by decide) ?_
            refine Touches.comp (Dev.icu_touches ..) (by decide) ?_
            exact Touches.refl _ _
          · refine Touches.comp (Dev.emit_touches ..) (by decide) ?_
            refine Touches.comp (Dev.icu_touches ..) (by decide) ?_
            exact Touches.refl _ _
    · split
      · refine Touches.comp (Dev.emit_touches ..) (by decide) ?_
        refine Touches.comp (Dev.icu_touches ..) (by decide) ?_
        exact Touches.refl _ _
    · refine Touches.ite ?_ ?_
      · refine Touches.comp (Dev.emit_touches ..) (by decide) ?_
        refine Touches.comp (Dev.icu_touches ..) (by decide) ?_
        exact Touches.refl _ _
      · refine Touches.comp (Dev.icu_touches ..) (by decide) ?_
        exact Touches.refl _ _
    · refine Touches.comp (Dev.icu_touches ..) (by decide) ?_
      exact Touches.refl _ _

theorem functionReset_touches (F) (d) (h) : Touches [.regs, .a, .b, .keel, .log, .aon, .pmc, .str, .lci, .fresh] d (functionReset F d h) := by
  unfold functionReset
  refine Touches.ite ?_ ?_
  · refine Touches.comp (silentOut_touches ..) (by decide) ?_
    refine Touches.comp (Dev.icu_touches ..) (by decide) ?_
    refine Touches.comp (Dev.functionClear_touches ..) (by decide) ?_
    refine Touches.comp (clearPairs_touches ..) (by decide) ?_
    exact Touches.refl _ _
  · exact Touches.refl _ _

theorem gpfPhase2_touches (d) (h) : Touches [.gon, .out] d (gpfPhase2 d h) := by
  unfold gpfPhase2
  refine Touches.ite ?_ ?_
  · exact Touches.refl _ _
  · refine Touches.comp (Dev.gpfSettle_touches ..) (by decide) ?_
    refine Touches.comp (Touches.put_gon ..) (by decide) ?_
    exact Touches.refl _ _

theorem portLost_touches (F) (d) (h) : Touches [.regs, .a, .b, .log, .aon, .gon, .cache, .lci, .pwr, .out] d (portLost F d h) := by
  unfold portLost
  conv => zeta
  refine Touches.ite ?_ ?_
  · exact Touches.refl _ _
  · refine Touches.comp (Dev.notice_touches ..) (by decide) ?_
    refine Touches.comp (Touches.put_a_b_pwr ..) (by decide) ?_
    refine Touches.foldl (fun _ _ => ?_) ?_
    · refine Touches.comp (Dev.emit_touches ..) (by decide) ?_
      exact Touches.refl _ _
    · refine Touches.foldl (fun _ _ => ?_) ?_
      · refine Touches.comp (Dev.setQp_touches ..) (by decide) ?_
        exact Touches.refl _ _
      · refine Touches.comp (Dev.post_touches ..) (by decide) ?_
        refine Touches.comp (Dev.event_touches ..) (by decide) ?_
        refine Touches.comp (Dev.linkDown_touches ..) (by decide) ?_
        exact Touches.refl _ _

theorem ideFail_touches (F) (d) (h) (stream) : Touches [.regs, .a, .b, .log, .aon, .gon, .cache, .lci, .pwr, .out] d (ideFail F d h stream) := by
  unfold ideFail
  conv => zeta
  refine Touches.ite ?_ ?_
  · exact Touches.refl _ _
  · refine Touches.ite ?_ ?_
    · refine Touches.comp (portLost_touches ..) (by decide) ?_
      refine Touches.comp (Dev.event_touches ..) (by decide) ?_
      refine Touches.comp (Dev.setHead_touches ..) (by decide) ?_
      exact Touches.refl _ _
    · refine Touches.comp (Dev.linkDown_touches ..) (by decide) ?_
      refine Touches.comp (Dev.event_touches ..) (by decide) ?_
      refine Touches.comp (Dev.setHead_touches ..) (by decide) ?_
      exact Touches.refl _ _

theorem ideKm_touches (d) (h) (set) (stream) : Touches [.a, .b] d (ideKm d h set stream) := by
  unfold ideKm
  conv => zeta
  refine Touches.ite ?_ ?_
  · exact Touches.refl _ _
  · refine Touches.comp (Dev.setHead_touches ..) (by decide) ?_
    exact Touches.refl _ _

theorem portDown_touches (F) (d) (h) : Touches [.regs, .a, .b, .keel, .log, .aon, .gon, .cache, .lci, .pwr, .out] d (portDown F d h) := by
  unfold portDown
  refine Touches.ite ?_ ?_
  · refine Touches.comp (portLost_touches ..) (by decide) ?_
    exact Touches.refl _ _
  · refine Touches.comp (Dev.faultLevel_touches ..) (by decide) ?_
    refine Touches.comp (Dev.setHead_touches ..) (by decide) ?_
    refine Touches.comp (Dev.post_touches ..) (by decide) ?_
    refine Touches.comp (Dev.event_touches ..) (by decide) ?_
    refine Touches.comp (Dev.linkDown_touches ..) (by decide) ?_
    exact Touches.refl _ _

theorem linkState_touches (F) (d) (h) (st) : Touches [.regs, .a, .b, .keel, .log, .aon, .gon, .cache, .lci, .pwr, .out] d (linkState F d h st) := by
  unfold linkState
  conv => zeta
  refine Touches.ite ?_ ?_
  · exact Touches.refl _ _
  · split
    · refine Touches.comp (Dev.linkNoted_touches ..) (by decide) ?_
      refine Touches.comp (Dev.portHeal_touches ..) (by decide) ?_
      refine Touches.comp (Dev.setHead_touches ..) (by decide) ?_
      exact Touches.refl _ _
    · refine Touches.ite ?_ ?_
      · refine Touches.comp (Dev.linkNoted_touches ..) (by decide) ?_
        refine Touches.comp (Dev.setHead_touches ..) (by decide) ?_
        exact Touches.refl _ _
      · exact Touches.refl _ _
    · refine Touches.comp (Dev.linkNoted_touches ..) (by decide) ?_
      refine Touches.comp (Dev.setHead_touches ..) (by decide) ?_
      exact Touches.refl _ _
    · refine Touches.comp (Dev.linkNoted_touches ..) (by decide) ?_
      refine Touches.comp (Dev.setHead_touches ..) (by decide) ?_
      exact Touches.refl _ _
    · refine Touches.comp (portDown_touches ..) (by decide) ?_
      exact Touches.refl _ _

theorem linkTrained_touches (F) (d) (h) (rate) (width) : Touches [.regs, .a, .b, .log, .aon, .pwr, .out] d (linkTrained F d h rate width) := by
  unfold linkTrained
  refine Touches.ite ?_ ?_
  · exact Touches.refl _ _
  · refine Touches.comp (Dev.linkNoted_touches ..) (by decide) ?_
    refine Touches.comp (Dev.portFound_touches ..) (by decide) ?_
    refine Touches.comp (Dev.portHeal_touches ..) (by decide) ?_
    refine Touches.ite ?_ ?_
    · refine Touches.comp (Dev.post_touches ..) (by decide) ?_
      refine Touches.comp (Dev.event_touches ..) (by decide) ?_
      refine Touches.comp (Dev.setHead_touches ..) (by decide) ?_
      exact Touches.refl _ _
    · refine Touches.comp (Dev.setHead_touches ..) (by decide) ?_
      exact Touches.refl _ _

theorem hostRegWrite_touches (F) (d) (h) (off) (wide) (v) : Touches [.regs, .a, .b, .tether, .launch, .gpio, .keel, .log, .aon, .cores, .sems, .pmc, .bst, .gon, .cache, .media, .tracts, .sec, .str, .lci, .pwr, .out, .fresh] d (hostRegWrite F d h off wide v) := by
  unfold hostRegWrite
  refine Touches.ite ?_ ?_
  · exact Touches.refl _ _
  · refine Touches.ite ?_ ?_
    · refine Touches.comp (Dev.regError_touches ..) (by decide) ?_
      exact Touches.refl _ _
    · refine Touches.ite ?_ ?_
      · refine Touches.comp (Dev.regError_touches ..) (by decide) ?_
        exact Touches.refl _ _
      · refine Touches.comp (silentOut_touches ..) (by decide) ?_
        refine Touches.comp (regWriteWide_touches ..) (by decide) ?_
        exact Touches.refl _ _

theorem Dev.migAgain_touches (d) (m) : Touches [.tracts] d (Dev.migAgain d m) := by
  unfold Dev.migAgain
  refine Touches.ite ?_ ?_
  · refine Touches.comp (Touches.put_tracts ..) (by decide) ?_
    exact Touches.refl _ _
  · refine Touches.ite ?_ ?_
    · refine Touches.comp (Dev.dropTarget_touches ..) (by decide) ?_
      exact Touches.refl _ _
    · refine Touches.comp (Dev.migQueue_touches ..) (by decide) ?_
      refine Touches.comp (Dev.dropTarget_touches ..) (by decide) ?_
      exact Touches.refl _ _

theorem Dev.rowAgain_touches (d) (r) : Touches [.regs, .media, .tracts] d (Dev.rowAgain d r) := by
  unfold Dev.rowAgain
  refine Touches.comp (Dev.rowDone_touches ..) (by decide) ?_
  refine Touches.foldl (fun _ _ => ?_) ?_
  · refine Touches.comp (Dev.rowPage_touches ..) (by decide) ?_
    exact Touches.refl _ _
  · exact Touches.refl _ _

theorem Dev.snapAgain_touches (d) (s) : Touches [.regs, .pmc, .tracts, .str, .lci] d (Dev.snapAgain d s) := by
  unfold Dev.snapAgain
  refine Touches.comp (Dev.snapDone_touches ..) (by decide) ?_
  refine Touches.foldl (fun _ _ => ?_) ?_
  · refine Touches.comp (Dev.snapBuild_touches ..) (by decide) ?_
    exact Touches.refl _ _
  · exact Touches.refl _ _

theorem countersBack_touches (F) (d) (s) (readable) : Touches [.regs, .a, .b, .log, .aon, .sec, .out] d (countersBack F d s readable) := by
  unfold countersBack
  refine Touches.ite ?_ ?_
  · refine Touches.comp (Touches.put_sec ..) (by decide) ?_
    exact Touches.refl _ _
  · refine Touches.foldl (fun _ _ => ?_) ?_
    · split
      · refine Touches.comp (Dev.exhaust_touches ..) (by decide) ?_
        exact Touches.refl _ _
      · exact Touches.refl _ _
    · exact Touches.refl _ _

theorem lostEntry_touches (F) (d) (line) : Touches [.regs, .a, .b, .gon] d (lostEntry F d line) := by
  unfold lostEntry
  refine Touches.comp (recordPoison_touches ..) (by decide) ?_
  refine Touches.comp (Touches.put_gon ..) (by decide) ?_
  exact Touches.refl _ _

theorem entriesBack_touches (F) (d) (s) (parts) (lost) : Touches [.regs, .a, .b, .gon, .sec] d (entriesBack F d s parts lost) := by
  unfold entriesBack
  conv => zeta
  refine Touches.ite ?_ ?_
  · exact Touches.refl _ _
  · refine Touches.foldl (fun _ _ => (lostEntry_touches ..).mono (by decide)) ?_
    refine Touches.foldl (fun _ _ => ?_) ?_
    · split
      · refine Touches.comp (Dev.setSlot_touches ..) (by decide) ?_
        exact Touches.refl _ _
      · exact Touches.refl _ _
    · refine Touches.comp (Touches.put_gon ..) (by decide) ?_
      exact Touches.refl _ _

theorem metaBackIn_touches (F) (d) (s) (readable) : Touches [.regs, .a, .b, .log, .aon, .tracts, .pwr] d (metaBackIn F d s readable) := by
  unfold metaBackIn
  conv => zeta
  refine Touches.ite ?_ ?_
  · refine Touches.comp (Touches.put_pwr ..) (by decide) ?_
    refine Touches.foldl (fun _ _ => ?_) ?_
    · refine Touches.comp (Dev.tcTouch_touches ..) (by decide) ?_
      refine Touches.comp (Dev.setMeta_touches ..) (by decide) ?_
      exact Touches.refl _ _
    · exact Touches.refl _ _
  · refine Touches.foldl (fun _ _ => (metaLost_touches ..).mono (by decide)) ?_
    exact Touches.refl _ _

theorem outcomeRecord_touches (F) (d) : Touches [.regs, .a, .b, .tether, .keel, .pwr, .out] d (outcomeRecord F d) := by
  unfold outcomeRecord
  refine Touches.comp (Dev.lifePut_touches ..) (by decide) ?_
  refine Touches.comp (Dev.statePut_touches ..) (by decide) ?_
  refine Touches.ite ?_ ?_
  · refine Touches.comp (Dev.postAll_touches ..) (by decide) ?_
    refine Touches.comp (Touches.put_keel_pwr ..) (by decide) ?_
    exact Touches.refl _ _
  · refine Touches.comp (Touches.put_keel_pwr ..) (by decide) ?_
    exact Touches.refl _ _

theorem reducedEntry_touches (F) (d) : Touches [.regs, .tether, .keel, .log, .lci, .pwr, .out] d (reducedEntry F d) := by
  unfold reducedEntry
  refine Touches.comp (Dev.notice_touches ..) (by decide) ?_
  refine Touches.comp (Touches.put_tether_lci_pwr ..) (by decide) ?_
  refine Touches.comp (Dev.setSvc_touches ..) (by decide) ?_
  exact Touches.refl _ _

theorem replayRepair_touches (d) : Touches [.regs, .pmc, .media, .tracts, .drift, .str, .lci, .pwr] d (replayRepair d) := by
  unfold replayRepair
  refine Touches.ite ?_ ?_
  · exact Touches.refl _ _
  · refine Touches.comp (Dev.surveyBegin_touches ..) (by decide) ?_
    refine Touches.comp (Touches.put_pwr ..) (by decide) ?_
    refine Touches.foldl (fun _ _ => ?_) ?_
    · refine Touches.comp (Dev.snapAgain_touches ..) (by decide) ?_
      exact Touches.refl _ _
    · refine Touches.foldl (fun _ _ => ?_) ?_
      · refine Touches.comp (Dev.queueGroup_touches ..) (by decide) ?_
        exact Touches.refl _ _
      · refine Touches.foldl (fun _ _ => ?_) ?_
        · refine Touches.comp (Dev.dropTarget_touches ..) (by decide) ?_
          exact Touches.refl _ _
        · refine Touches.foldl (fun _ _ => ?_) ?_
          · refine Touches.comp (Dev.migAgain_touches ..) (by decide) ?_
            exact Touches.refl _ _
          · refine Touches.comp (Touches.put_tracts ..) (by decide) ?_
            refine Touches.foldl (fun _ _ => ?_) ?_
            · refine Touches.comp (Dev.rowAgain_touches ..) (by decide) ?_
              exact Touches.refl _ _
            · exact Touches.refl _ _

theorem unitsBack_touches (d) (s) : Touches [.tracts, .sec, .str] d (unitsBack d s) := by
  unfold unitsBack
  refine Touches.comp (Touches.put_tracts_sec_str ..) (by decide) ?_
  exact Touches.refl _ _

theorem rowLost_touches (x0) (x1) (x2) : Touches [.regs, .a, .b, .media] x1 (rowLost x0 x1 x2) := by
  unfold rowLost
  extract_lets w l bad unk data one
  refine Touches.ite (Touches.refl ..) ?_
  split
  rename_i d1 holes hq
  extract_lets lines
  have ho : ∀ (xs : List Nat) (acc : Dev × List (Nat × Nat)), Touches [.regs, .a, .b, .media] x1 acc.1 → Touches [.regs, .a, .b, .media] x1 (xs.foldl one acc).1 := by
    intro xs
    induction xs with
    | nil => exact fun _ h => h
    | cons j r ih =>
      intro acc h
      refine ih _ ?_
      simp only [one]
      split <;> exact Touches.comp (Dev.putStripe_touches ..) (by decide) h
  have h1 := ho (List.range 8) (x1, []) (Touches.refl ..)
  rw [hq] at h1
  exact Touches.foldl (fun _ _ => (recordPoison_touches ..).mono (by decide)) h1

theorem rowsBack_touches (F) (d) (s) (parts) : Touches [.regs, .a, .b, .media] d (rowsBack F d s parts) := by
  unfold rowsBack
  refine Touches.ite ?_ ?_
  · refine Touches.comp (Touches.put_media ..) (by decide) ?_
    exact Touches.refl _ _
  · refine Touches.ite ?_ ?_
    · refine Touches.foldl (fun _ _ => (rowLost_touches ..).mono (by decide)) ?_
      exact Touches.refl _ _
    · exact Touches.refl _ _

theorem segRestore_touches (F) (d) (s) (parts) (lost) : Touches [.regs, .a, .b, .log, .aon, .gon, .media, .tracts, .sec, .str, .pwr, .out] d (segRestore F d s parts lost) := by
  unfold segRestore
  refine Touches.comp (Touches.put_pwr ..) (by decide) ?_
  refine Touches.comp (entriesBack_touches ..) (by decide) ?_
  refine Touches.comp (countersBack_touches ..) (by decide) ?_
  refine Touches.comp (rowsBack_touches ..) (by decide) ?_
  refine Touches.ite ?_ ?_
  · refine Touches.comp (unitsBack_touches ..) (by decide) ?_
    refine Touches.comp (metaBackIn_touches ..) (by decide) ?_
    exact Touches.refl _ _
  · refine Touches.comp (metaBackIn_touches ..) (by decide) ?_
    exact Touches.refl _ _

theorem replayRestore_touches (F) (d) (parts) (lost) : Touches [.regs, .a, .b, .tether, .keel, .log, .aon, .gon, .media, .tracts, .sec, .str, .lci, .pwr, .out, .fresh] d (replayRestore F d parts lost) := by
  unfold replayRestore
  conv => zeta
  refine Touches.ite ?_ ?_
  · exact Touches.refl _ _
  · split
    · refine Touches.ite ?_ ?_
      · refine Touches.comp (Dev.downEntry_touches ..) (by decide) ?_
        refine Touches.comp (outcomeRecord_touches ..) (by decide) ?_
        refine Touches.comp (Touches.put_tracts_pwr ..) (by decide) ?_
        split
        · refine Touches.comp (segRestore_touches ..) (by decide) ?_
          exact Touches.refl _ _
        · exact Touches.refl _ _
      · refine Touches.comp (reducedEntry_touches ..) (by decide) ?_
        refine Touches.comp (outcomeRecord_touches ..) (by decide) ?_
        refine Touches.comp (Touches.put_tracts_pwr ..) (by decide) ?_
        split
        · refine Touches.comp (segRestore_touches ..) (by decide) ?_
          exact Touches.refl _ _
        · exact Touches.refl _ _

theorem segRelease_touches (d) : Touches [.keel, .pwr] d (segRelease d) := by
  unfold segRelease
  split
  · exact Touches.refl _ _
  · refine Touches.ite ?_ ?_
    · refine Touches.comp (Dev.rootPut_touches ..) (by decide) ?_
      refine Touches.comp (Touches.put_pwr ..) (by decide) ?_
      exact Touches.refl _ _
    · exact Touches.refl _ _

end Sys2Proof.Machine
end

