-- ==== Sys2Proof/Laws/FrameExec.lean ====
section
/-!
SUPPORT. What each command can change.
-/
namespace Sys2Proof.Machine

theorem execCreditGrant_frame (h) (rwd) (s) : Frames [.a, .b, .out] s (execCreditGrant h rwd s) := by
  unfold execCreditGrant
  conv => zeta
  split
  · split
    · refine Frames.next ?_
      refine Touches.comp (Dev.emit_touches ..) (by decide) ?_
      refine Touches.comp (Dev.setHead_touches ..) (by decide) ?_
      exact Touches.refl _ _
    · exact Frames.same _ _
  · split
    · refine Frames.next ?_
      refine Touches.comp (Dev.emit_touches ..) (by decide) ?_
      refine Touches.comp (Dev.setHead_touches ..) (by decide) ?_
      exact Touches.refl _ _
    · exact Frames.same _ _

theorem execMemrd_frame (h) (tag) (dpa) (s) : Frames [.regs, .a, .b, .log, .aon, .pmc, .gon, .cache, .tracts, .sec, .str, .out, .fresh] s (execMemrd h tag dpa s) := by
  unfold execMemrd
  refine Frames.next ?_
  refine Touches.comp (hostRead_touches ..) (by decide) ?_
  exact Touches.refl _ _

theorem execMemspecrd_frame (h) (dpa) (s) : Frames [.regs, .a, .b, .log, .aon, .pmc, .cache, .tracts] s (execMemspecrd h dpa s) := by
  unfold execMemspecrd
  refine Frames.next ?_
  refine Touches.comp (specRead_touches ..) (by decide) ?_
  exact Touches.refl _ _

theorem execMeminv_frame (h) (tag) (dpa) (_nt) (s) : Frames [.regs, .a, .b, .log, .aon, .out] s (execMeminv h tag dpa _nt s) := by
  unfold execMeminv
  conv => zeta
  split
  · exact Frames.same _ _
  · refine Frames.next ?_
    refine Touches.ite ?_ ?_
    · refine Touches.comp (Dev.emit_touches ..) (by decide) ?_
      refine Touches.comp (Dev.useReq_touches ..) (by decide) ?_
      exact Touches.refl _ _
    · refine Touches.comp (unmapped_touches ..) (by decide) ?_
      refine Touches.comp (Dev.useReq_touches ..) (by decide) ?_
      exact Touches.refl _ _

theorem execMemwr_frame (h) (tag) (dpa) (data) (poison) (s) : Frames [.regs, .a, .b, .keel, .log, .aon, .pmc, .gon, .cache, .drift, .str, .out] s (execMemwr h tag dpa data poison s) := by
  unfold execMemwr
  refine Frames.next ?_
  refine Touches.comp (hostWrite_touches ..) (by decide) ?_
  exact Touches.refl _ _

theorem execMemwrptl_frame (h) (tag) (dpa) (data) (be) (poison) (s) : Frames [.regs, .a, .b, .keel, .log, .aon, .pmc, .gon, .cache, .drift, .str, .out] s (execMemwrptl h tag dpa data be poison s) := by
  unfold execMemwrptl
  refine Frames.next ?_
  refine Touches.comp (hostWrite_touches ..) (by decide) ?_
  exact Touches.refl _ _

theorem execSectorTransitEnd_frame (dpa) (s) : Frames [.cache] s (execSectorTransitEnd dpa s) := by
  unfold execSectorTransitEnd
  conv => zeta
  split
  · refine Frames.next ?_
    refine Touches.comp (Dev.toBallast_touches ..) (by decide) ?_
    refine Touches.comp (Dev.setCache_touches ..) (by decide) ?_
    exact Touches.refl _ _
  · exact Frames.same _ _

theorem execMediaLineReturn_frame (dpa) (v) (unk) (s) : Frames [.regs, .a, .b, .tether, .log, .aon, .pmc, .gon, .cache, .media, .tracts, .drift, .sec, .str, .out, .fresh] s (execMediaLineReturn dpa v unk s) := by
  unfold execMediaLineReturn
  refine Frames.next ?_
  refine Touches.comp (mediaReturn_touches ..) (by decide) ?_
  exact Touches.refl _ _

theorem execHeavyDecodeDone_frame (dpa) (v) (s) : Frames [.regs, .a, .b, .log, .aon, .pmc, .gon, .cache, .media, .tracts, .drift, .sec, .str, .out, .fresh] s (execHeavyDecodeDone dpa v s) := by
  unfold execHeavyDecodeDone
  refine Frames.next ?_
  refine Touches.comp (heavyDone_touches ..) (by decide) ?_
  exact Touches.refl _ _

theorem execReadRetryAfterProgram_frame (dpa) (v) (unk) (s) : Frames [.regs, .a, .b, .log, .aon, .pmc, .gon, .cache, .media, .tracts, .drift, .sec, .str, .out, .fresh] s (execReadRetryAfterProgram dpa v unk s) := by
  unfold execReadRetryAfterProgram
  refine Frames.next ?_
  refine Touches.comp (retryRead_touches ..) (by decide) ?_
  exact Touches.refl _ _

theorem execWriteBackDone_frame (dpa) (s) : Frames [.regs, .a, .b, .log, .aon, .pmc, .gon, .cache, .media, .tracts, .drift, .sec, .str, .out, .fresh] s (execWriteBackDone dpa s) := by
  unfold execWriteBackDone
  refine Frames.next ?_
  refine Touches.comp (Dev.gpfSettle_touches ..) (by decide) ?_
  refine Touches.comp (writeBackDone_touches ..) (by decide) ?_
  exact Touches.refl _ _

theorem execStagedEntryTranslate_frame (dpa) (s) : Frames [.regs, .pmc, .gon, .tracts] s (execStagedEntryTranslate dpa s) := by
  unfold execStagedEntryTranslate
  conv => zeta
  split
  · refine Frames.next ?_
    refine Touches.comp (Dev.setStaged_touches ..) (by decide) ?_
    refine Touches.comp (Dev.tcLookup_touches ..) (by decide) ?_
    exact Touches.refl _ _
  · exact Frames.same _ _

theorem execGondolaMacroFail_frame (bank) (macroNo) (lost) (s) : Frames [.regs, .a, .b, .log, .aon, .pmc, .gon, .media, .tracts, .drift, .sec, .str, .pwr, .out] s (execGondolaMacroFail bank macroNo lost s) := by
  unfold execGondolaMacroFail
  refine Frames.next ?_
  refine Touches.comp (Dev.gpfSettle_touches ..) (by decide) ?_
  refine Touches.comp (gondolaMacro_touches ..) (by decide) ?_
  exact Touches.refl _ _

theorem execSramUncorrectable_frame (store) (dpa) (s) : Frames [.regs, .a, .b, .keel, .log, .aon, .pmc, .gon, .cache, .media, .tracts, .drift, .sec, .str, .lci, .pwr, .out, .fresh] s (execSramUncorrectable store dpa s) := by
  unfold execSramUncorrectable
  refine Frames.next ?_
  refine Touches.comp (Dev.gpfSettle_touches ..) (by decide) ?_
  refine Touches.comp (sramBad_touches ..) (by decide) ?_
  exact Touches.refl _ _

theorem execScratchConversionWrite_frame (_h) (value) (s) : Frames [.regs, .cache] s (execScratchConversionWrite _h value s) := by
  unfold execScratchConversionWrite
  refine Frames.next ?_
  refine Touches.comp (scratchWriteCtl_touches ..) (by decide) ?_
  exact Touches.refl _ _

theorem execCompatEnable_frame (h) (s) : Frames [.regs, .log, .aon, .cache] s (execCompatEnable h s) := by
  unfold execCompatEnable
  refine Frames.next ?_
  refine Touches.comp (compatOn_touches ..) (by decide) ?_
  exact Touches.refl _ _

theorem execCompatDisable_frame (_h) (s) : Frames [.regs, .cache] s (execCompatDisable _h s) := by
  unfold execCompatDisable
  refine Frames.next ?_
  refine Touches.comp (Dev.compatOff_touches ..) (by decide) ?_
  exact Touches.refl _ _

theorem execCompatPagePin_frame (_h) (n) (s) : Frames [.cache] s (execCompatPagePin _h n s) := by
  unfold execCompatPagePin
  refine Frames.next ?_
  refine Touches.comp (Dev.cmpPin_touches ..) (by decide) ?_
  exact Touches.refl _ _

theorem execCompatPageUnpin_frame (_h) (n) (s) : Frames [.cache] s (execCompatPageUnpin _h n s) := by
  unfold execCompatPageUnpin
  refine Frames.next ?_
  refine Touches.comp (Dev.cmpPin_touches ..) (by decide) ?_
  exact Touches.refl _ _

theorem execInvalidationGo_frame (_h) (s) : Frames [.cache] s (execInvalidationGo _h s) := by
  unfold execInvalidationGo
  refine Frames.next ?_
  refine Touches.comp (Dev.invGo_touches ..) (by decide) ?_
  exact Touches.refl _ _

theorem execInvalidationDone_frame (r) (s) : Frames [.regs, .keel, .log, .aon, .pmc, .cache, .lci] s (execInvalidationDone r s) := by
  unfold execInvalidationDone
  refine Frames.next ?_
  refine Touches.comp (silentOut_touches ..) (by decide) ?_
  refine Touches.comp (Dev.invDone_touches ..) (by decide) ?_
  exact Touches.refl _ _

theorem execTthRateWrite_frame (_h) (value) (s) : Frames [.tether] s (execTthRateWrite _h value s) := by
  unfold execTthRateWrite
  refine Frames.next ?_
  refine Touches.comp (Dev.rateWrite_touches ..) (by decide) ?_
  exact Touches.refl _ _

theorem execPtmResult_frame (hostTime) (s) : Frames [.regs, .a, .b, .tether, .launch] s (execPtmResult hostTime s) := by
  unfold execPtmResult
  refine Frames.next ?_
  refine Touches.comp (Dev.ptmGot_touches ..) (by decide) ?_
  exact Touches.refl _ _

theorem execProgramStartGate_frame (m) (mode) (buf) (last) (s) : Frames [.media, .out, .fresh] s (execProgramStartGate m mode buf last s) := by
  unfold execProgramStartGate
  refine Frames.next ?_
  refine Touches.comp (Dev.programGate_touches ..) (by decide) ?_
  exact Touches.refl _ _

theorem execProgramOverrun_frame (m) (s) : Frames [.regs, .tether, .log, .aon, .pmc, .media] s (execProgramOverrun m s) := by
  unfold execProgramOverrun
  refine Frames.next ?_
  refine Touches.comp (Dev.overrun_touches ..) (by decide) ?_
  exact Touches.refl _ _

theorem execTestWindowOpen_frame (narrowEye) (narrowDie) (s) : Frames [.regs, .a, .b, .tether, .keel, .log, .aon, .pmc, .cache, .media, .tracts, .out] s (execTestWindowOpen narrowEye narrowDie s) := by
  unfold execTestWindowOpen
  refine Frames.next ?_
  refine Touches.comp (windowOpen_touches ..) (by decide) ?_
  exact Touches.refl _ _

theorem execLaunchSlotArm_frame (h) (n) (value) (s) : Frames [.regs, .launch, .gpio, .pmc, .bst, .gon, .str, .lci, .out, .fresh] s (execLaunchSlotArm h n value s) := by
  unfold execLaunchSlotArm
  refine Frames.next ?_
  refine Touches.comp (slotWrite_touches ..) (by decide) ?_
  exact Touches.refl _ _

theorem execLaunchSlotDisarm_frame (h) (n) (value) (s) : Frames [.regs, .launch, .gpio, .pmc, .bst, .gon, .str, .lci, .out, .fresh] s (execLaunchSlotDisarm h n value s) := by
  unfold execLaunchSlotDisarm
  refine Frames.next ?_
  refine Touches.comp (slotWrite_touches ..) (by decide) ?_
  exact Touches.refl _ _

theorem execLaunchSlotFire_frame (n) (s) : Frames [.regs, .tether, .launch, .gpio, .keel, .log, .aon, .pmc, .bst, .gon, .media, .str, .lci, .out, .fresh] s (execLaunchSlotFire n s) := by
  unfold execLaunchSlotFire
  refine Frames.next ?_
  refine Touches.comp (silentOut_touches ..) (by decide) ?_
  refine Touches.comp (slotDue_touches ..) (by decide) ?_
  exact Touches.refl _ _

theorem execGpioPulseEnd_frame (pin) (s) : Frames [.regs, .tether, .gpio, .pmc, .media, .out] s (execGpioPulseEnd pin s) := by
  unfold execGpioPulseEnd
  refine Frames.next ?_
  refine Touches.comp (Dev.gpioEnd_touches ..) (by decide) ?_
  exact Touches.refl _ _

theorem execNop_frame (m) (err) (s) : Frames [.media, .out, .fresh] s (execNop m err s) := by
  unfold execNop frameTo
  split
  · refine Frames.next ?_
    refine Touches.comp (Dev.sendFrame_touches ..) (by decide) ?_
    exact Touches.refl _ _
  · exact Frames.same _ _

theorem execRdLine_frame (m) (err) (pa) (slot) (set) (mode) (s) : Frames [.media, .out, .fresh] s (execRdLine m err pa slot set mode s) := by
  unfold execRdLine frameTo
  split
  · refine Frames.next ?_
    refine Touches.comp (Dev.sendFrame_touches ..) (by decide) ?_
    exact Touches.refl _ _
  · exact Frames.same _ _

theorem execRdLineSoft_frame (m) (err) (pa) (slot) (set) (mode) (mask) (s) : Frames [.media, .out, .fresh] s (execRdLineSoft m err pa slot set mode mask s) := by
  unfold execRdLineSoft frameLong
  conv => zeta
  split
  · refine Frames.next ?_
    refine Touches.comp (Dev.sendFrame_touches ..) (by decide) ?_
    refine Touches.comp (Dev.setCtl_touches ..) (by decide) ?_
    exact Touches.refl _ _
  · exact Frames.same _ _

theorem execRdPage_frame (m) (err) (pa) (set) (mode) (s) : Frames [.regs, .pmc, .media, .out, .fresh] s (execRdPage m err pa set mode s) := by
  unfold execRdPage
  conv => zeta
  split
  · refine Frames.next ?_
    refine Touches.comp (Dev.sendFrame_touches ..) (by decide) ?_
    refine Touches.comp (Dev.count_touches ..) (by decide) ?_
    exact Touches.refl _ _
  · exact Frames.same _ _

theorem execRdRef_frame (m) (err) (pa) (mode) (sweep) (s) : Frames [.media, .out, .fresh] s (execRdRef m err pa mode sweep s) := by
  unfold execRdRef frameLong
  conv => zeta
  split
  · refine Frames.next ?_
    refine Touches.comp (Dev.sendFrame_touches ..) (by decide) ?_
    refine Touches.comp (Dev.setCtl_touches ..) (by decide) ?_
    exact Touches.refl _ _
  · exact Frames.same _ _

theorem execLoad_frame (m) (err) (pa) (buf) (entry) (data) (crc) (s) : Frames [.regs, .pmc, .media, .out, .fresh] s (execLoad m err pa buf entry data crc s) := by
  unfold execLoad
  conv => zeta
  split
  · refine Frames.next ?_
    refine Touches.comp (Dev.sendFrame_touches ..) (by decide) ?_
    refine Touches.comp (Dev.count_touches ..) (by decide) ?_
    refine Touches.comp (Dev.setChan_touches ..) (by decide) ?_
    exact Touches.refl _ _
  · exact Frames.same _ _

theorem execProgSlc_frame (m) (err) (buf) (last) (s) : Frames [.media, .out, .fresh] s (execProgSlc m err buf last s) := by
  unfold execProgSlc
  refine Frames.next ?_
  refine Touches.comp (Dev.programGate_touches ..) (by decide) ?_
  exact Touches.refl _ _

theorem execProgMlc_frame (m) (err) (buf) (last) (s) : Frames [.media, .out, .fresh] s (execProgMlc m err buf last s) := by
  unfold execProgMlc
  refine Frames.next ?_
  refine Touches.comp (Dev.programGate_touches ..) (by decide) ?_
  exact Touches.refl _ _

theorem execDieProgramEnd_frame (m) (res) (s) : Frames [.regs, .pmc, .media, .tracts, .out, .fresh] s (execDieProgramEnd m res s) := by
  unfold execDieProgramEnd
  refine Frames.next ?_
  refine Touches.comp (Dev.programEnd_touches ..) (by decide) ?_
  exact Touches.refl _ _

theorem execStatus_frame (m) (err) (s) : Frames [.media, .out, .fresh] s (execStatus m err s) := by
  unfold execStatus frameTo
  split
  · refine Frames.next ?_
    refine Touches.comp (Dev.sendFrame_touches ..) (by decide) ?_
    exact Touches.refl _ _
  · exact Frames.same _ _

theorem execTemp_frame (m) (err) (s) : Frames [.media, .out, .fresh] s (execTemp m err s) := by
  unfold execTemp frameTo
  split
  · refine Frames.next ?_
    refine Touches.comp (Dev.sendFrame_touches ..) (by decide) ?_
    exact Touches.refl _ _
  · exact Frames.same _ _

theorem execReadId_frame (m) (err) (s) : Frames [.media, .out, .fresh] s (execReadId m err s) := by
  unfold execReadId frameTrain
  split
  · unfold Sys2Proof.Machine.frameTo
    split
    · refine Frames.next ?_
      refine Touches.comp (Dev.sendFrame_touches ..) (by decide) ?_
      exact Touches.refl _ _
    · exact Frames.same _ _
  · exact Frames.same _ _

theorem execSetFeature_frame (dies) (err) (addr) (value) (s) : Frames [.media, .out, .fresh] s (execSetFeature dies err addr value s) := by
  unfold execSetFeature frameAll
  conv => zeta
  split
  · refine Frames.next ?_
    refine Touches.foldl (fun _ _ => ?_) ?_
    · refine Touches.comp (Dev.sendFrame_touches ..) (by decide) ?_
      exact Touches.refl _ _
    · exact Touches.refl _ _
  · exact Frames.same _ _

theorem execGetFeature_frame (m) (err) (addr) (s) : Frames [.media, .out, .fresh] s (execGetFeature m err addr s) := by
  unfold execGetFeature frameTo
  split
  · refine Frames.next ?_
    refine Touches.comp (Dev.sendFrame_touches ..) (by decide) ?_
    exact Touches.refl _ _
  · exact Frames.same _ _

theorem execTrainCa_frame (m) (err) (s) : Frames [.media, .out, .fresh] s (execTrainCa m err s) := by
  unfold execTrainCa frameTrain
  split
  · unfold Sys2Proof.Machine.frameTo
    split
    · refine Frames.next ?_
      refine Touches.comp (Dev.sendFrame_touches ..) (by decide) ?_
      exact Touches.refl _ _
    · exact Frames.same _ _
  · exact Frames.same _ _

theorem execTrainRd_frame (m) (err) (pattern) (s) : Frames [.media, .out, .fresh] s (execTrainRd m err pattern s) := by
  unfold execTrainRd frameTrain
  split
  · unfold Sys2Proof.Machine.frameTo
    split
    · refine Frames.next ?_
      refine Touches.comp (Dev.sendFrame_touches ..) (by decide) ?_
      exact Touches.refl _ _
    · exact Frames.same _ _
  · exact Frames.same _ _

theorem execTrainWr_frame (m) (err) (data) (s) : Frames [.media, .out, .fresh] s (execTrainWr m err data s) := by
  unfold execTrainWr frameTrain
  split
  · unfold Sys2Proof.Machine.frameTo
    split
    · refine Frames.next ?_
      refine Touches.comp (Dev.sendFrame_touches ..) (by decide) ?_
      exact Touches.refl _ _
    · exact Frames.same _ _
  · exact Frames.same _ _

theorem execZqCal_frame (m) (err) (s) : Frames [.media, .out, .fresh] s (execZqCal m err s) := by
  unfold execZqCal frameTrain
  split
  · unfold Sys2Proof.Machine.frameTo
    split
    · refine Frames.next ?_
      refine Touches.comp (Dev.sendFrame_touches ..) (by decide) ?_
      exact Touches.refl _ _
    · exact Frames.same _ _
  · exact Frames.same _ _

theorem execPdEnter_frame (dies) (err) (s) : Frames [.media, .out, .fresh] s (execPdEnter dies err s) := by
  unfold execPdEnter frameAll
  conv => zeta
  split
  · refine Frames.next ?_
    refine Touches.foldl (fun _ _ => ?_) ?_
    · refine Touches.comp (Dev.sendFrame_touches ..) (by decide) ?_
      exact Touches.refl _ _
    · exact Touches.refl _ _
  · exact Frames.same _ _

theorem execPdExit_frame (dies) (err) (s) : Frames [.media, .out, .fresh] s (execPdExit dies err s) := by
  unfold execPdExit frameAll
  conv => zeta
  split
  · refine Frames.next ?_
    refine Touches.foldl (fun _ _ => ?_) ?_
    · refine Touches.comp (Dev.sendFrame_touches ..) (by decide) ?_
      exact Touches.refl _ _
    · exact Touches.refl _ _
  · exact Frames.same _ _

theorem execReset_frame (dies) (err) (s) : Frames [.media, .out, .fresh] s (execReset dies err s) := by
  unfold execReset frameAll
  conv => zeta
  split
  · refine Frames.next ?_
    refine Touches.foldl (fun _ _ => ?_) ?_
    · refine Touches.comp (Dev.sendFrame_touches ..) (by decide) ?_
      exact Touches.refl _ _
    · exact Touches.refl _ _
  · exact Frames.same _ _

theorem execDieInitDone_frame (m) (s) : Frames [.media] s (execDieInitDone m s) := by
  unfold execDieInitDone
  refine Frames.next ?_
  refine Touches.comp (Dev.setDie_touches ..) (by decide) ?_
  exact Touches.refl _ _

theorem execAlertConditionRepeat_frame (m) (s) : Frames [.regs, .tether, .pmc, .media, .out] s (execAlertConditionRepeat m s) := by
  unfold execAlertConditionRepeat
  conv => zeta
  split
  · refine Frames.next ?_
    refine Touches.comp (Dev.emit_touches ..) (by decide) ?_
    refine Touches.comp (Dev.advance_touches ..) (by decide) ?_
    exact Touches.refl _ _
  · exact Frames.same _ _

theorem execAlertNLow_frame (low) (s) : Frames [.regs, .pmc, .cache, .media, .out, .fresh] s (execAlertNLow low s) := by
  unfold execAlertNLow
  refine Frames.next ?_
  refine Touches.comp (Dev.alertLow_touches ..) (by decide) ?_
  exact Touches.refl _ _

theorem execAlertLongLow_frame (n) (s) : Frames [.media, .out, .fresh] s (execAlertLongLow n s) := by
  unfold execAlertLongLow
  refine Frames.next ?_
  refine Touches.comp (Dev.alertLong_touches ..) (by decide) ?_
  exact Touches.refl _ _

theorem execAlertStatusResponse_frame (m) (st) (s) : Frames [.regs, .tether, .log, .aon, .media, .therm, .out, .fresh] s (execAlertStatusResponse m st s) := by
  unfold execAlertStatusResponse
  split
  · refine Frames.next ?_
    refine Touches.comp (alertStatus_touches ..) (by decide) ?_
    exact Touches.refl _ _
  · exact Frames.same _ _

theorem execAlertStuck_frame (n) (s) : Frames [.regs, .a, .b, .tether, .keel, .log, .aon, .cache, .media, .tracts, .out] s (execAlertStuck n s) := by
  unfold execAlertStuck
  split
  · refine Frames.next ?_
    refine Touches.comp (Dev.declareChan_touches ..) (by decide) ?_
    exact Touches.refl _ _
  · exact Frames.same _ _

theorem execChannelTraining_frame (n) (found) (s) : Frames [.regs, .a, .b, .tether, .keel, .log, .aon, .cache, .media, .tracts, .out] s (execChannelTraining n found s) := by
  unfold execChannelTraining
  refine Frames.next ?_
  refine Touches.comp (channelTraining_touches ..) (by decide) ?_
  exact Touches.refl _ _

theorem execChannelTrained_frame (n) (eyeRd) (eyeWr) (passed) (s) : Frames [.regs, .a, .b, .tether, .keel, .log, .aon, .cache, .media, .tracts, .out, .fresh] s (execChannelTrained n eyeRd eyeWr passed s) := by
  unfold execChannelTrained
  refine Frames.next ?_
  refine Touches.comp (channelTrained_touches ..) (by decide) ?_
  exact Touches.refl _ _

theorem execRetrainRequest_frame (_h) (n) (s) : Frames [.regs, .media] s (execRetrainRequest _h n s) := by
  unfold execRetrainRequest
  conv => zeta
  split
  · refine Frames.next ?_
    refine Touches.comp (Dev.setReg_touches ..) (by decide) ?_
    refine Touches.comp (Dev.retrainAsk_touches ..) (by decide) ?_
    exact Touches.refl _ _
  · exact Frames.same _ _

theorem execRetrainTimer_frame (n) (s) : Frames [.regs, .tether, .pmc, .media] s (execRetrainTimer n s) := by
  unfold execRetrainTimer
  conv => zeta
  split
  · refine Frames.next ?_
    refine Touches.comp (Dev.retrainAsk_touches ..) (by decide) ?_
    refine Touches.comp (Dev.advance_touches ..) (by decide) ?_
    exact Touches.refl _ _
  · exact Frames.same _ _

theorem execRetrainComplete_frame (n) (eyeRd) (eyeWr) (code) (s) : Frames [.regs, .tether, .pmc, .media, .fresh] s (execRetrainComplete n eyeRd eyeWr code s) := by
  unfold execRetrainComplete
  refine Frames.next ?_
  refine Touches.comp (Dev.retrained_touches ..) (by decide) ?_
  exact Touches.refl _ _

theorem execRowUpdateStart_frame (g) (row) (mode) (lines) (s) : Frames [.regs, .pmc, .media, .sec] s (execRowUpdateStart g row mode lines s) := by
  unfold execRowUpdateStart
  refine Frames.next ?_
  refine Touches.comp (Dev.rowStart_touches ..) (by decide) ?_
  exact Touches.refl _ _

theorem execRowUpdateDone_frame (g) (row) (s) : Frames [.media] s (execRowUpdateDone g row s) := by
  unfold execRowUpdateDone
  refine Frames.next ?_
  refine Touches.comp (Dev.rowDone_touches ..) (by decide) ?_
  exact Touches.refl _ _

theorem execBridleGrant_frame (n) (s) : Frames [.regs, .tether, .pmc, .cache, .media, .str] s (execBridleGrant n s) := by
  unfold execBridleGrant
  refine Frames.next ?_
  refine Touches.comp (Dev.bridleBeat_touches ..) (by decide) ?_
  exact Touches.refl _ _

theorem execBridleRankWrite_frame (_h) (q) (value) (s) : Frames [.regs, .keel] s (execBridleRankWrite _h q value s) := by
  unfold execBridleRankWrite
  refine Frames.next ?_
  refine Touches.comp (Dev.keepCfg_touches ..) (by decide) ?_
  refine Touches.comp (Dev.rankWrite_touches ..) (by decide) ?_
  exact Touches.refl _ _

theorem execDieDeclaredFailed_frame (m) (cause) (s) : Frames [.regs, .a, .b, .tether, .keel, .log, .aon, .cache, .media, .tracts, .out] s (execDieDeclaredFailed m cause s) := by
  unfold execDieDeclaredFailed
  split
  · refine Frames.next ?_
    refine Touches.comp (failDie_touches ..) (by decide) ?_
    exact Touches.refl _ _
  · exact Frames.same _ _

theorem execChannelDeclaredFailed_frame (n) (cause) (s) : Frames [.regs, .a, .b, .tether, .keel, .log, .aon, .cache, .media, .tracts, .out] s (execChannelDeclaredFailed n cause s) := by
  unfold execChannelDeclaredFailed
  split
  · refine Frames.next ?_
    refine Touches.comp (Dev.declareChan_touches ..) (by decide) ?_
    exact Touches.refl _ _
  · exact Frames.same _ _

theorem execFaultDieReset_frame (m) (s) : Frames [.media, .out, .fresh] s (execFaultDieReset m s) := by
  unfold execFaultDieReset
  conv => zeta
  split
  · refine Frames.next ?_
    refine Touches.comp (Dev.sendFrame_touches ..) (by decide) ?_
    refine Touches.comp (Dev.setCtl_touches ..) (by decide) ?_
    exact Touches.refl _ _
  · exact Frames.same _ _

theorem execLineRepair_frame (dpa) (s) : Frames [.regs, .pmc, .media, .drift, .sec] s (execLineRepair dpa s) := by
  unfold execLineRepair
  refine Frames.next ?_
  refine Touches.comp (Dev.lineRepair_touches ..) (by decide) ?_
  exact Touches.refl _ _

theorem execPoisonConfirmation_frame (dpa) (good) (s) : Frames [.regs, .a, .b, .log, .aon, .pmc, .media, .drift, .sec, .out] s (execPoisonConfirmation dpa good s) := by
  unfold execPoisonConfirmation
  refine Frames.next ?_
  refine Touches.comp (confirmLine_touches ..) (by decide) ?_
  exact Touches.refl _ _

theorem execSurveyTract_frame (g) (index) (pos) (codes) (s) : Frames [.tracts, .drift] s (execSurveyTract g index pos codes s) := by
  unfold execSurveyTract
  refine Frames.next ?_
  refine Touches.comp (Dev.surveyTract_touches ..) (by decide) ?_
  exact Touches.refl _ _

theorem execThresholdRecompute_frame (r) (s) : Frames [.media] s (execThresholdRecompute r s) := by
  unfold execThresholdRecompute
  split
  · refine Frames.next ?_
    refine Touches.comp (Dev.thresholds_touches ..) (by decide) ?_
    exact Touches.refl _ _
  · exact Frames.same _ _

theorem execResurveyTract_frame (g) (index) (pos) (codes) (s) : Frames [.tracts, .drift] s (execResurveyTract g index pos codes s) := by
  unfold execResurveyTract
  refine Frames.next ?_
  refine Touches.comp (Dev.resurveyTract_touches ..) (by decide) ?_
  exact Touches.refl _ _

theorem execRefreshStart_frame (tract) (s) : Frames [.regs, .a, .b, .keel, .log, .aon, .pmc, .media, .tracts, .drift, .sec, .out] s (execRefreshStart tract s) := by
  unfold execRefreshStart
  refine Frames.next ?_
  refine Touches.comp (migStart_touches ..) (by decide) ?_
  exact Touches.refl _ _

theorem execScrubRow_frame (tract) (row) (worst) (found) (parityBad) (s) : Frames [.regs, .a, .b, .log, .aon, .pmc, .media, .tracts, .drift, .sec, .out] s (execScrubRow tract row worst found parityBad s) := by
  unfold execScrubRow
  refine Frames.next ?_
  refine Touches.comp (scrubRow_touches ..) (by decide) ?_
  exact Touches.refl _ _

theorem execMetadataWriteback_frame (line) (s) : Frames [.tracts, .pwr] s (execMetadataWriteback line s) := by
  unfold execMetadataWriteback
  refine Frames.next ?_
  refine Touches.comp (Dev.metaBack_touches ..) (by decide) ?_
  exact Touches.refl _ _

theorem execCounterLineWriteback_frame (page) (s) : Frames [.sec] s (execCounterLineWriteback page s) := by
  unfold execCounterLineWriteback
  refine Frames.next ?_
  refine Touches.comp (Dev.ctrBack_touches ..) (by decide) ?_
  exact Touches.refl _ _

theorem execGapMove_frame (tract) (s) : Frames [.tracts] s (execGapMove tract s) := by
  unfold execGapMove
  refine Frames.next ?_
  refine Touches.comp (Dev.gapMove_touches ..) (by decide) ?_
  exact Touches.refl _ _

theorem execGapMoveDone_frame (tract) (s) : Frames [.regs, .a, .b, .pmc, .media, .tracts, .sec] s (execGapMoveDone tract s) := by
  unfold execGapMoveDone
  refine Frames.next ?_
  refine Touches.comp (gapDone_touches ..) (by decide) ?_
  exact Touches.refl _ _

theorem execMigrationStart_frame (tract) (why) (s) : Frames [.regs, .a, .b, .keel, .log, .aon, .pmc, .media, .tracts, .drift, .sec, .lci, .out] s (execMigrationStart tract why s) := by
  unfold execMigrationStart
  conv => zeta
  refine Frames.next ?_
  refine Touches.comp (silentOut_touches ..) (by decide) ?_
  refine Touches.ite ?_ ?_
  · refine Touches.comp (Dev.rekeyEnd_touches ..) (by decide) ?_
    refine Touches.comp (migStart_touches ..) (by decide) ?_
    exact Touches.refl _ _
  · refine Touches.comp (Dev.rekeyPump_touches ..) (by decide) ?_
    refine Touches.comp (migStart_touches ..) (by decide) ?_
    exact Touches.refl _ _

theorem execMigrationCopyDone_frame (tract) (s) : Frames [.regs, .a, .b, .media, .tracts] s (execMigrationCopyDone tract s) := by
  unfold execMigrationCopyDone
  refine Frames.next ?_
  refine Touches.comp (migCopied_touches ..) (by decide) ?_
  exact Touches.refl _ _

theorem execMigrationVerify_frame (tract) (bad) (badAgain) (s) : Frames [.regs, .a, .b, .media, .tracts] s (execMigrationVerify tract bad badAgain s) := by
  unfold execMigrationVerify
  refine Frames.next ?_
  refine Touches.comp (migVerify_touches ..) (by decide) ?_
  exact Touches.refl _ _

theorem execMigrationSwitch_frame (tract) (s) : Frames [.regs, .a, .b, .keel, .log, .aon, .pmc, .media, .tracts, .drift, .sec, .lci, .out, .fresh] s (execMigrationSwitch tract s) := by
  unfold execMigrationSwitch
  refine Frames.next ?_
  refine Touches.comp (silentOut_touches ..) (by decide) ?_
  refine Touches.comp (Dev.rekeyOn_touches ..) (by decide) ?_
  refine Touches.comp (migSwitch_touches ..) (by decide) ?_
  exact Touches.refl _ _

theorem execMigrationRelease_frame (tract) (s) : Frames [.regs, .a, .b, .tether, .keel, .log, .aon, .pmc, .media, .tracts, .drift, .sec, .lci, .out] s (execMigrationRelease tract s) := by
  unfold execMigrationRelease
  refine Frames.next ?_
  refine Touches.comp (silentOut_touches ..) (by decide) ?_
  refine Touches.comp (Dev.rekeyPump_touches ..) (by decide) ?_
  refine Touches.comp (migRelease_touches ..) (by decide) ?_
  exact Touches.refl _ _

theorem execReencryptionRewrite_frame (dpa) (s) : Frames [.regs, .a, .b, .keel, .log, .aon, .pmc, .gon, .cache, .drift, .sec, .str, .out] s (execReencryptionRewrite dpa s) := by
  unfold execReencryptionRewrite
  refine Frames.next ?_
  refine Touches.comp (reencRewrite_touches ..) (by decide) ?_
  exact Touches.refl _ _

theorem execSlotDrainComplete_frame (slot) (s) : Frames [.regs, .a, .b, .keel, .log, .aon, .pmc, .dbg, .gon, .cache, .media, .tracts, .drift, .sec, .str, .lci, .out, .fresh] s (execSlotDrainComplete slot s) := by
  unfold execSlotDrainComplete
  refine Frames.next ?_
  refine Touches.comp (Dev.unlockSettle_touches ..) (by decide) ?_
  refine Touches.comp (silentOut_touches ..) (by decide) ?_
  refine Touches.comp (sanPump_touches ..) (by decide) ?_
  refine Touches.comp (Dev.slotDrained_touches ..) (by decide) ?_
  exact Touches.refl _ _

theorem execDescriptorFetch_frame (c) (descs) (fail) (s) : Frames [.regs, .a, .b, .log, .aon, .pmc, .gon, .cache, .sec, .str, .out, .fresh] s (execDescriptorFetch c descs fail s) := by
  unfold execDescriptorFetch
  refine Frames.next ?_
  refine Touches.comp (descFetch_touches ..) (by decide) ?_
  exact Touches.refl _ _

theorem execDescriptorStart_frame (c) (s) : Frames [.regs, .pmc, .str, .out] s (execDescriptorStart c s) := by
  unfold execDescriptorStart
  refine Frames.next ?_
  refine Touches.comp (descStart_touches ..) (by decide) ?_
  exact Touches.refl _ _

theorem execSourceLineReturn_frame (c) (v) (s) : Frames [.regs, .a, .b, .keel, .log, .aon, .pmc, .gon, .cache, .media, .tracts, .drift, .sec, .str, .out, .fresh] s (execSourceLineReturn c v s) := by
  unfold execSourceLineReturn
  refine Frames.next ?_
  refine Touches.comp (sourceReturn_touches ..) (by decide) ?_
  exact Touches.refl _ _

theorem execOutboundWrite_frame (c) (n) (s) : Frames [.regs, .pmc, .str, .out] s (execOutboundWrite c n s) := by
  unfold execOutboundWrite
  refine Frames.next ?_
  refine Touches.comp (outWrite_touches ..) (by decide) ?_
  exact Touches.refl _ _

theorem execConfirmationComplete_frame (c) (s) : Frames [.regs, .pmc, .str] s (execConfirmationComplete c s) := by
  unfold execConfirmationComplete
  refine Frames.next ?_
  refine Touches.comp (confirmed_touches ..) (by decide) ?_
  exact Touches.refl _ _

theorem execOutboundCompletionTimeout_frame (c) (why) (s) : Frames [.str, .out, .fresh] s (execOutboundCompletionTimeout c why s) := by
  unfold execOutboundCompletionTimeout
  refine Frames.next ?_
  refine Touches.comp (outFail_touches ..) (by decide) ?_
  exact Touches.refl _ _

theorem execListEnd_frame (c) (s) : Frames [.regs, .keel, .log, .aon, .pmc, .str, .lci] s (execListEnd c s) := by
  unfold execListEnd
  refine Frames.next ?_
  refine Touches.comp (silentOut_touches ..) (by decide) ?_
  refine Touches.comp (listEnd_touches ..) (by decide) ?_
  exact Touches.refl _ _

theorem execSnapshotBuildTract_frame (h) (s) : Frames [.tracts, .str] s (execSnapshotBuildTract h s) := by
  unfold execSnapshotBuildTract
  refine Frames.next ?_
  refine Touches.comp (Dev.snapBuild_touches ..) (by decide) ?_
  exact Touches.refl _ _

theorem execSnapshotComplete_frame (h) (s) : Frames [.regs, .keel, .log, .aon, .pmc, .str, .lci] s (execSnapshotComplete h s) := by
  unfold execSnapshotComplete
  refine Frames.next ?_
  refine Touches.comp (silentOut_touches ..) (by decide) ?_
  refine Touches.comp (Dev.snapDone_touches ..) (by decide) ?_
  exact Touches.refl _ _

theorem execQpEnable_frame (h) (n) (value) (s) : Frames [.regs, .pmc, .bst, .sec, .str, .lci, .fresh] s (execQpEnable h n value s) := by
  unfold execQpEnable
  refine Frames.next ?_
  refine Touches.comp (qpCfgWrite_touches ..) (by decide) ?_
  exact Touches.refl _ _

theorem execQpDisable_frame (h) (n) (value) (s) : Frames [.regs, .pmc, .bst, .sec, .str, .lci, .fresh] s (execQpDisable h n value s) := by
  unfold execQpDisable
  refine Frames.next ?_
  refine Touches.comp (qpCfgWrite_touches ..) (by decide) ?_
  exact Touches.refl _ _

theorem execQpIdle_frame (n) (s) : Frames [.lci] s (execQpIdle n s) := by
  unfold execQpIdle
  refine Frames.next ?_
  refine Touches.comp (Dev.qpIdle_touches ..) (by decide) ?_
  exact Touches.refl _ _

theorem execSqDoorbell_frame (h) (n) (value) (s) : Frames [.regs, .lci] s (execSqDoorbell h n value s) := by
  unfold execSqDoorbell
  refine Frames.next ?_
  refine Touches.comp (sqDoor_touches ..) (by decide) ?_
  exact Touches.refl _ _

theorem execCqDoorbell_frame (h) (n) (value) (s) : Frames [.regs, .lci] s (execCqDoorbell h n value s) := by
  unfold execCqDoorbell
  refine Frames.next ?_
  refine Touches.comp (cqDoor_touches ..) (by decide) ?_
  exact Touches.refl _ _

theorem execSqFetch_frame (n) (entry) (parity) (s) : Frames [.regs, .log, .aon, .pmc, .lci] s (execSqFetch n entry parity s) := by
  unfold execSqFetch
  refine Frames.next ?_
  refine Touches.comp (sqTake_touches ..) (by decide) ?_
  exact Touches.refl _ _

theorem execCqEntryWrite_frame (h) (parity) (s) : Frames [.regs, .log, .aon, .pmc, .str, .lci, .out] s (execCqEntryWrite h parity s) := by
  unfold execCqEntryWrite
  refine Frames.next ?_
  refine Touches.comp (cqWrite_touches ..) (by decide) ?_
  exact Touches.refl _ _

theorem execHeldCommandStart_frame (h) (s) : Frames [.regs, .a, .b, .launch, .gpio, .keel, .log, .aon, .pmc, .bst, .gon, .cache, .media, .tracts, .drift, .sec, .str, .lci, .out, .fresh] s (execHeldCommandStart h s) := by
  unfold execHeldCommandStart
  refine Frames.next ?_
  refine Touches.comp (silentOut_touches ..) (by decide) ?_
  refine Touches.comp (heldStart_touches ..) (by decide) ?_
  exact Touches.refl _ _

theorem execInvalidOpcode_frame (h) (s) : Frames [.regs, .pmc, .lci] s (execInvalidOpcode h s) := by
  unfold execInvalidOpcode
  conv => zeta
  split
  · exact Frames.same _ _
  · split
    · exact Frames.same _ _
    · refine Frames.next ?_
      refine Touches.comp (Dev.finish_touches ..) (by decide) ?_
      exact Touches.refl _ _

theorem execStream_frame (h) (s) : Frames [.regs, .a, .b, .launch, .gpio, .keel, .log, .aon, .pmc, .bst, .gon, .cache, .media, .tracts, .drift, .sec, .str, .lci, .out, .fresh] s (execStream h s) := by
  unfold execStream
  refine Frames.next ?_
  refine Touches.comp (silentOut_touches ..) (by decide) ?_
  refine Touches.comp (lciTake_touches ..) (by decide) ?_
  exact Touches.refl _ _

theorem execCopy_frame (h) (s) : Frames [.regs, .a, .b, .launch, .gpio, .keel, .log, .aon, .pmc, .bst, .gon, .cache, .media, .tracts, .drift, .sec, .str, .lci, .out, .fresh] s (execCopy h s) := by
  unfold execCopy
  refine Frames.next ?_
  refine Touches.comp (silentOut_touches ..) (by decide) ?_
  refine Touches.comp (lciTake_touches ..) (by decide) ?_
  exact Touches.refl _ _

theorem execInstall_frame (h) (s) : Frames [.regs, .a, .b, .launch, .gpio, .keel, .log, .aon, .pmc, .bst, .gon, .cache, .media, .tracts, .drift, .sec, .str, .lci, .out, .fresh] s (execInstall h s) := by
  unfold execInstall
  refine Frames.next ?_
  refine Touches.comp (silentOut_touches ..) (by decide) ?_
  refine Touches.comp (lciTake_touches ..) (by decide) ?_
  exact Touches.refl _ _

theorem execVerify_frame (h) (s) : Frames [.regs, .a, .b, .launch, .gpio, .keel, .log, .aon, .pmc, .bst, .gon, .cache, .media, .tracts, .drift, .sec, .str, .lci, .out, .fresh] s (execVerify h s) := by
  unfold execVerify
  refine Frames.next ?_
  refine Touches.comp (silentOut_touches ..) (by decide) ?_
  refine Touches.comp (lciTake_touches ..) (by decide) ?_
  exact Touches.refl _ _

theorem execSnapshot_frame (h) (s) : Frames [.regs, .a, .b, .launch, .gpio, .keel, .log, .aon, .pmc, .bst, .gon, .cache, .media, .tracts, .drift, .sec, .str, .lci, .out, .fresh] s (execSnapshot h s) := by
  unfold execSnapshot
  refine Frames.next ?_
  refine Touches.comp (silentOut_touches ..) (by decide) ?_
  refine Touches.comp (lciTake_touches ..) (by decide) ?_
  exact Touches.refl _ _

theorem execStop_frame (h) (s) : Frames [.regs, .a, .b, .launch, .gpio, .keel, .log, .aon, .pmc, .bst, .gon, .cache, .media, .tracts, .drift, .sec, .str, .lci, .out, .fresh] s (execStop h s) := by
  unfold execStop
  refine Frames.next ?_
  refine Touches.comp (silentOut_touches ..) (by decide) ?_
  refine Touches.comp (lciTake_touches ..) (by decide) ?_
  exact Touches.refl _ _

theorem execDictionaryRegister_frame (h) (s) : Frames [.regs, .a, .b, .launch, .gpio, .keel, .log, .aon, .pmc, .bst, .gon, .cache, .media, .tracts, .drift, .sec, .str, .lci, .out, .fresh] s (execDictionaryRegister h s) := by
  unfold execDictionaryRegister
  refine Frames.next ?_
  refine Touches.comp (silentOut_touches ..) (by decide) ?_
  refine Touches.comp (lciTake_touches ..) (by decide) ?_
  exact Touches.refl _ _

theorem execDrop_frame (h) (s) : Frames [.regs, .a, .b, .launch, .gpio, .keel, .log, .aon, .pmc, .bst, .gon, .cache, .media, .tracts, .drift, .sec, .str, .lci, .out, .fresh] s (execDrop h s) := by
  unfold execDrop
  refine Frames.next ?_
  refine Touches.comp (silentOut_touches ..) (by decide) ?_
  refine Touches.comp (lciTake_touches ..) (by decide) ?_
  exact Touches.refl _ _

theorem execDiscard_frame (h) (s) : Frames [.regs, .a, .b, .launch, .gpio, .keel, .log, .aon, .pmc, .bst, .gon, .cache, .media, .tracts, .drift, .sec, .str, .lci, .out, .fresh] s (execDiscard h s) := by
  unfold execDiscard
  refine Frames.next ?_
  refine Touches.comp (silentOut_touches ..) (by decide) ?_
  refine Touches.comp (lciTake_touches ..) (by decide) ?_
  exact Touches.refl _ _

theorem execSanitize_frame (h) (s) : Frames [.regs, .a, .b, .launch, .gpio, .keel, .log, .aon, .pmc, .bst, .gon, .cache, .media, .tracts, .drift, .sec, .str, .lci, .out, .fresh] s (execSanitize h s) := by
  unfold execSanitize
  refine Frames.next ?_
  refine Touches.comp (silentOut_touches ..) (by decide) ?_
  refine Touches.comp (lciTake_touches ..) (by decide) ?_
  exact Touches.refl _ _

theorem execKeyLoad_frame (h) (s) : Frames [.regs, .a, .b, .launch, .gpio, .keel, .log, .aon, .pmc, .bst, .gon, .cache, .media, .tracts, .drift, .sec, .str, .lci, .out, .fresh] s (execKeyLoad h s) := by
  unfold execKeyLoad
  refine Frames.next ?_
  refine Touches.comp (silentOut_touches ..) (by decide) ?_
  refine Touches.comp (lciTake_touches ..) (by decide) ?_
  exact Touches.refl _ _

theorem execKeyEvict_frame (h) (s) : Frames [.regs, .a, .b, .launch, .gpio, .keel, .log, .aon, .pmc, .bst, .gon, .cache, .media, .tracts, .drift, .sec, .str, .lci, .out, .fresh] s (execKeyEvict h s) := by
  unfold execKeyEvict
  refine Frames.next ?_
  refine Touches.comp (silentOut_touches ..) (by decide) ?_
  refine Touches.comp (lciTake_touches ..) (by decide) ?_
  exact Touches.refl _ _

theorem execKeyGenerate_frame (h) (s) : Frames [.regs, .a, .b, .launch, .gpio, .keel, .log, .aon, .pmc, .bst, .gon, .cache, .media, .tracts, .drift, .sec, .str, .lci, .out, .fresh] s (execKeyGenerate h s) := by
  unfold execKeyGenerate
  refine Frames.next ?_
  refine Touches.comp (silentOut_touches ..) (by decide) ?_
  refine Touches.comp (lciTake_touches ..) (by decide) ?_
  exact Touches.refl _ _

theorem execEpochAdvance_frame (h) (s) : Frames [.regs, .a, .b, .launch, .gpio, .keel, .log, .aon, .pmc, .bst, .gon, .cache, .media, .tracts, .drift, .sec, .str, .lci, .out, .fresh] s (execEpochAdvance h s) := by
  unfold execEpochAdvance
  refine Frames.next ?_
  refine Touches.comp (silentOut_touches ..) (by decide) ?_
  refine Touches.comp (lciTake_touches ..) (by decide) ?_
  exact Touches.refl _ _

theorem execRekey_frame (h) (s) : Frames [.regs, .a, .b, .launch, .gpio, .keel, .log, .aon, .pmc, .bst, .gon, .cache, .media, .tracts, .drift, .sec, .str, .lci, .out, .fresh] s (execRekey h s) := by
  unfold execRekey
  refine Frames.next ?_
  refine Touches.comp (silentOut_touches ..) (by decide) ?_
  refine Touches.comp (lciTake_touches ..) (by decide) ?_
  exact Touches.refl _ _

theorem execLockAcquire_frame (h) (s) : Frames [.regs, .a, .b, .launch, .gpio, .keel, .log, .aon, .pmc, .bst, .gon, .cache, .media, .tracts, .drift, .sec, .str, .lci, .out, .fresh] s (execLockAcquire h s) := by
  unfold execLockAcquire
  refine Frames.next ?_
  refine Touches.comp (silentOut_touches ..) (by decide) ?_
  refine Touches.comp (lciTake_touches ..) (by decide) ?_
  exact Touches.refl _ _

theorem execLockRelease_frame (h) (s) : Frames [.regs, .a, .b, .launch, .gpio, .keel, .log, .aon, .pmc, .bst, .gon, .cache, .media, .tracts, .drift, .sec, .str, .lci, .out, .fresh] s (execLockRelease h s) := by
  unfold execLockRelease
  refine Frames.next ?_
  refine Touches.comp (silentOut_touches ..) (by decide) ?_
  refine Touches.comp (lciTake_touches ..) (by decide) ?_
  exact Touches.refl _ _

theorem execIdentify_frame (h) (s) : Frames [.regs, .a, .b, .launch, .gpio, .keel, .log, .aon, .pmc, .bst, .gon, .cache, .media, .tracts, .drift, .sec, .str, .lci, .out, .fresh] s (execIdentify h s) := by
  unfold execIdentify
  refine Frames.next ?_
  refine Touches.comp (silentOut_touches ..) (by decide) ?_
  refine Touches.comp (lciTake_touches ..) (by decide) ?_
  exact Touches.refl _ _

theorem execQuery_frame (h) (s) : Frames [.regs, .a, .b, .launch, .gpio, .keel, .log, .aon, .pmc, .bst, .gon, .cache, .media, .tracts, .drift, .sec, .str, .lci, .out, .fresh] s (execQuery h s) := by
  unfold execQuery
  refine Frames.next ?_
  refine Touches.comp (silentOut_touches ..) (by decide) ?_
  refine Touches.comp (lciTake_touches ..) (by decide) ?_
  exact Touches.refl _ _

theorem execSelfTest_frame (h) (s) : Frames [.regs, .a, .b, .launch, .gpio, .keel, .log, .aon, .pmc, .bst, .gon, .cache, .media, .tracts, .drift, .sec, .str, .lci, .out, .fresh] s (execSelfTest h s) := by
  unfold execSelfTest
  refine Frames.next ?_
  refine Touches.comp (silentOut_touches ..) (by decide) ?_
  refine Touches.comp (lciTake_touches ..) (by decide) ?_
  exact Touches.refl _ _

theorem execLogFreeze_frame (h) (s) : Frames [.regs, .a, .b, .launch, .gpio, .keel, .log, .aon, .pmc, .bst, .gon, .cache, .media, .tracts, .drift, .sec, .str, .lci, .out, .fresh] s (execLogFreeze h s) := by
  unfold execLogFreeze
  split
  · exact Frames.same _ _
  · refine Frames.next ?_
    refine Touches.comp (silentOut_touches ..) (by decide) ?_
    refine Touches.comp (lciTake_touches ..) (by decide) ?_
    exact Touches.refl _ _

theorem execLogThaw_frame (h) (s) : Frames [.regs, .a, .b, .launch, .gpio, .keel, .log, .aon, .pmc, .bst, .gon, .cache, .media, .tracts, .drift, .sec, .str, .lci, .out, .fresh] s (execLogThaw h s) := by
  unfold execLogThaw
  split
  · refine Frames.next ?_
    refine Touches.comp (silentOut_touches ..) (by decide) ?_
    refine Touches.comp (lciTake_touches ..) (by decide) ?_
    exact Touches.refl _ _
  · exact Frames.same _ _

theorem execLogRead_frame (h) (confirm) (s) : Frames [.regs, .a, .b, .launch, .gpio, .keel, .log, .aon, .pmc, .bst, .gon, .cache, .media, .tracts, .drift, .sec, .str, .lci, .out, .fresh] s (execLogRead h confirm s) := by
  unfold execLogRead
  refine Frames.next ?_
  refine Touches.comp (silentOut_touches ..) (by decide) ?_
  refine Touches.comp (lciTake_touches ..) (by decide) ?_
  exact Touches.refl _ _

theorem execUnfinishedRead_frame (h) (confirm) (s) : Frames [.regs, .a, .b, .launch, .gpio, .keel, .log, .aon, .pmc, .bst, .gon, .cache, .media, .tracts, .drift, .sec, .str, .lci, .out, .fresh] s (execUnfinishedRead h confirm s) := by
  unfold execUnfinishedRead
  refine Frames.next ?_
  refine Touches.comp (silentOut_touches ..) (by decide) ?_
  refine Touches.comp (lciTake_touches ..) (by decide) ?_
  exact Touches.refl _ _

theorem execGetStatus_frame (h) (s) : Frames [.regs, .lci] s (execGetStatus h s) := by
  unfold execGetStatus
  refine Frames.next ?_
  refine rmRun_touches _ _ _ _ _ (by decide) (fun _ => ?_)
  exact Touches.mono (rmStatusOf_touches ..) (by decide)

theorem execReadLog_frame (h) (s) : Frames [.regs, .lci] s (execReadLog h s) := by
  unfold execReadLog
  refine Frames.next ?_
  refine rmRun_touches _ _ _ _ _ (by decide) (fun _ => ?_)
  exact Touches.mono (rmLog_touches ..) (by decide)

theorem execReadUnfinished_frame (h) (s) : Frames [.regs, .lci] s (execReadUnfinished h s) := by
  unfold execReadUnfinished
  refine Frames.next ?_
  refine rmRun_touches _ _ _ _ _ (by decide) (fun _ => ?_)
  exact Touches.mono (rmUnfinished_touches ..) (by decide)

theorem execImageWrite_frame (h) (s) : Frames [.regs, .images, .lci] s (execImageWrite h s) := by
  unfold execImageWrite
  refine Frames.next ?_
  refine rmRun_touches _ _ _ _ _ (by decide) (fun _ => ?_)
  exact Touches.mono (rmImage_touches ..) (by decide)

theorem execImageSelect_frame (h) (s) : Frames [.regs, .keel, .lci] s (execImageSelect h s) := by
  unfold execImageSelect
  split
  · refine Frames.next ?_
    refine rmRun_touches _ _ _ _ _ (by decide) (fun _ => ?_)
    exact Touches.mono (rmSelect_touches ..) (by decide)
  · exact Frames.same _ _

theorem execRmIdentify_frame (h) (s) : Frames [.regs, .lci] s (execRmIdentify h s) := by
  unfold execRmIdentify
  refine Frames.next ?_
  refine rmRun_touches _ _ _ _ _ (by decide) (fun _ => ?_)
  refine Touches.comp (rmIdent_touches ..) (by decide) ?_
  exact Touches.refl _ _

theorem execQueueClear_frame (h) (s) : Frames [.regs, .keel, .log, .aon, .pmc, .str, .lci, .fresh] s (execQueueClear h s) := by
  unfold execQueueClear
  refine Frames.next ?_
  refine rmRun_touches _ _ _ _ _ (by decide) (fun _ => ?_)
  refine Touches.comp (rmClear_touches ..) (by decide) ?_
  exact Touches.refl _ _

theorem execCxlIdentify_frame (h) (s) : Frames [.regs, .out] s (execCxlIdentify h s) := by
  unfold execCxlIdentify
  refine Frames.next ?_
  refine mailRun_touches _ _ _ _ (by decide) (fun _ => ?_)
  refine Touches.comp (Dev.mail_touches ..) (by decide) ?_
  exact Touches.refl _ _

theorem execBackgroundOperationStatus_frame (h) (s) : Frames [.regs, .out] s (execBackgroundOperationStatus h s) := by
  unfold execBackgroundOperationStatus
  refine Frames.next ?_
  refine mailRun_touches _ _ _ _ (by decide) (fun _ => ?_)
  refine Touches.comp (Dev.mail_touches ..) (by decide) ?_
  exact Touches.refl _ _

theorem execGetEventRecords_frame (h) (log) (s) : Frames [.regs, .out] s (execGetEventRecords h log s) := by
  unfold execGetEventRecords
  refine Frames.next ?_
  refine mailRun_touches _ _ _ _ (by decide) (fun _ => ?_)
  refine Touches.comp (Dev.mail_touches ..) (by decide) ?_
  exact Touches.refl _ _

theorem execClearEventRecords_frame (h) (log) (all) (handles) (s) : Frames [.regs, .a, .b, .out] s (execClearEventRecords h log all handles s) := by
  unfold execClearEventRecords
  refine Frames.next ?_
  refine mailRun_touches _ _ _ _ (by decide) (fun _ => ?_)
  refine Touches.comp (clearEvents_touches ..) (by decide) ?_
  exact Touches.refl _ _

theorem execGetEventInterruptPolicy_frame (h) (s) : Frames [.regs, .out] s (execGetEventInterruptPolicy h s) := by
  unfold execGetEventInterruptPolicy
  refine Frames.next ?_
  refine mailRun_touches _ _ _ _ (by decide) (fun _ => ?_)
  refine Touches.comp (Dev.mail_touches ..) (by decide) ?_
  exact Touches.refl _ _

theorem execSetEventInterruptPolicy_frame (h) (policy) (s) : Frames [.regs, .a, .b, .out] s (execSetEventInterruptPolicy h policy s) := by
  unfold execSetEventInterruptPolicy
  refine Frames.next ?_
  refine mailRun_touches _ _ _ _ (by decide) (fun _ => ?_)
  refine Touches.comp (Dev.mail_touches ..) (by decide) ?_
  refine Touches.comp (Dev.setHead_touches ..) (by decide) ?_
  exact Touches.refl _ _

theorem execGetFwInfo_frame (h) (s) : Frames [.regs, .out] s (execGetFwInfo h s) := by
  unfold execGetFwInfo
  refine Frames.next ?_
  refine mailRun_touches _ _ _ _ (by decide) (fun _ => ?_)
  refine Touches.comp (Dev.mail_touches ..) (by decide) ?_
  exact Touches.refl _ _

theorem execTransferFw_frame (h) (slot) (offset) (data) (s) : Frames [.regs, .images, .lci, .out] s (execTransferFw h slot offset data s) := by
  unfold execTransferFw
  refine Frames.next ?_
  refine mailRun_touches _ _ _ _ (by decide) (fun _ => ?_)
  refine Touches.comp (fwTransfer_touches ..) (by decide) ?_
  exact Touches.refl _ _

theorem execActivateFw_frame (h) (slot) (s) : Frames [.regs, .keel, .out] s (execActivateFw h slot s) := by
  unfold execActivateFw
  refine Frames.next ?_
  refine mailRun_touches _ _ _ _ (by decide) (fun _ => ?_)
  refine Touches.comp (fwActivate_touches ..) (by decide) ?_
  exact Touches.refl _ _

theorem execGetTimestamp_frame (h) (s) : Frames [.regs, .out] s (execGetTimestamp h s) := by
  unfold execGetTimestamp
  conv => zeta
  refine Frames.next ?_
  refine mailRun_touches _ _ _ _ (by decide) (fun _ => ?_)
  refine Touches.comp (Dev.mail_touches ..) (by decide) ?_
  exact Touches.refl _ _

theorem execSetTimestamp_frame (h) (value) (s) : Frames [.regs, .a, .b, .out] s (execSetTimestamp h value s) := by
  unfold execSetTimestamp
  conv => zeta
  refine Frames.next ?_
  refine mailRun_touches _ _ _ _ (by decide) (fun _ => ?_)
  refine Touches.comp (Dev.mail_touches ..) (by decide) ?_
  refine Touches.comp (Dev.setHead_touches ..) (by decide) ?_
  exact Touches.refl _ _

theorem execGetSupportedLogs_frame (h) (s) : Frames [.regs, .out] s (execGetSupportedLogs h s) := by
  unfold execGetSupportedLogs
  refine Frames.next ?_
  refine mailRun_touches _ _ _ _ (by decide) (fun _ => ?_)
  refine Touches.comp (Dev.mail_touches ..) (by decide) ?_
  exact Touches.refl _ _

theorem execGetLog_frame (h) (s) : Frames [.regs, .out] s (execGetLog h s) := by
  unfold execGetLog
  refine Frames.next ?_
  refine mailRun_touches _ _ _ _ (by decide) (fun _ => ?_)
  refine Touches.comp (Dev.mail_touches ..) (by decide) ?_
  exact Touches.refl _ _

theorem execIdentifyMemoryDevice_frame (h) (s) : Frames [.regs, .out] s (execIdentifyMemoryDevice h s) := by
  unfold execIdentifyMemoryDevice
  refine Frames.next ?_
  refine mailRun_touches _ _ _ _ (by decide) (fun _ => ?_)
  refine Touches.comp (Dev.mail_touches ..) (by decide) ?_
  exact Touches.refl _ _

theorem execGetPartitionInfo_frame (h) (s) : Frames [.regs, .out] s (execGetPartitionInfo h s) := by
  unfold execGetPartitionInfo
  refine Frames.next ?_
  refine mailRun_touches _ _ _ _ (by decide) (fun _ => ?_)
  refine Touches.comp (Dev.mail_touches ..) (by decide) ?_
  exact Touches.refl _ _

theorem execGetLsa_frame (h) (offset) (len) (s) : Frames [.regs, .out] s (execGetLsa h offset len s) := by
  unfold execGetLsa
  refine Frames.next ?_
  refine mailRun_touches _ _ _ _ (by decide) (fun _ => ?_)
  refine Touches.comp (lsaGet_touches ..) (by decide) ?_
  exact Touches.refl _ _

theorem execSetLsa_frame (h) (offset) (data) (s) : Frames [.regs, .keel, .out] s (execSetLsa h offset data s) := by
  unfold execSetLsa
  refine Frames.next ?_
  refine mailRun_touches _ _ _ _ (by decide) (fun _ => ?_)
  refine Touches.comp (lsaSet_touches ..) (by decide) ?_
  exact Touches.refl _ _

theorem execGetHealthInfo_frame (h) (s) : Frames [.regs, .out, .fresh] s (execGetHealthInfo h s) := by
  unfold execGetHealthInfo
  refine Frames.next ?_
  refine mailRun_touches _ _ _ _ (by decide) (fun _ => ?_)
  refine Touches.comp (healthInfo_touches ..) (by decide) ?_
  exact Touches.refl _ _

theorem execGetAlertConfiguration_frame (h) (s) : Frames [.regs, .out] s (execGetAlertConfiguration h s) := by
  unfold execGetAlertConfiguration
  refine Frames.next ?_
  refine mailRun_touches _ _ _ _ (by decide) (fun _ => ?_)
  refine Touches.comp (Dev.mail_touches ..) (by decide) ?_
  exact Touches.refl _ _

theorem execSetAlertConfiguration_frame (h) (value) (s) : Frames [.regs, .a, .b, .keel, .out] s (execSetAlertConfiguration h value s) := by
  unfold execSetAlertConfiguration
  conv => zeta
  refine Frames.next ?_
  refine mailRun_touches _ _ _ _ (by decide) (fun _ => ?_)
  refine Touches.comp (Dev.mail_touches ..) (by decide) ?_
  refine Touches.comp (Dev.settingPut_touches ..) (by decide) ?_
  refine Touches.comp (Dev.setHead_touches ..) (by decide) ?_
  exact Touches.refl _ _

theorem execGetShutdownState_frame (h) (s) : Frames [.regs, .out] s (execGetShutdownState h s) := by
  unfold execGetShutdownState
  refine Frames.next ?_
  refine mailRun_touches _ _ _ _ (by decide) (fun _ => ?_)
  refine Touches.comp (Dev.mail_touches ..) (by decide) ?_
  exact Touches.refl _ _

theorem execSetShutdownState_frame (h) (value) (s) : Frames [.regs, .a, .b, .keel, .out] s (execSetShutdownState h value s) := by
  unfold execSetShutdownState
  conv => zeta
  refine Frames.next ?_
  refine mailRun_touches _ _ _ _ (by decide) (fun _ => ?_)
  refine Touches.comp (Dev.mail_touches ..) (by decide) ?_
  refine Touches.comp (Dev.settingPut_touches ..) (by decide) ?_
  refine Touches.comp (Dev.setHead_touches ..) (by decide) ?_
  exact Touches.refl _ _

theorem execGetPoisonList_frame (h) (s) : Frames [.regs, .out, .fresh] s (execGetPoisonList h s) := by
  unfold execGetPoisonList
  refine Frames.next ?_
  refine mailRun_touches _ _ _ _ (by decide) (fun _ => ?_)
  refine Touches.comp (poisonGet_touches ..) (by decide) ?_
  exact Touches.refl _ _

theorem execInjectPoison_frame (h) (dpa) (s) : Frames [.regs, .a, .b, .keel, .log, .aon, .pmc, .gon, .cache, .drift, .str, .out] s (execInjectPoison h dpa s) := by
  unfold execInjectPoison
  refine Frames.next ?_
  refine mailRun_touches _ _ _ _ (by decide) (fun _ => ?_)
  refine Touches.comp (mailWrite_touches ..) (by decide) ?_
  exact Touches.refl _ _

theorem execClearPoison_frame (h) (dpa) (data) (s) : Frames [.regs, .a, .b, .keel, .log, .aon, .pmc, .gon, .cache, .drift, .str, .out] s (execClearPoison h dpa data s) := by
  unfold execClearPoison
  refine Frames.next ?_
  refine mailRun_touches _ _ _ _ (by decide) (fun _ => ?_)
  refine Touches.comp (mailWrite_touches ..) (by decide) ?_
  exact Touches.refl _ _

theorem execLinkTrained_frame (h) (rate) (width) (s) : Frames [.regs, .a, .b, .log, .aon, .pwr, .out] s (execLinkTrained h rate width s) := by
  unfold execLinkTrained
  refine Frames.next ?_
  refine Touches.comp (linkTrained_touches ..) (by decide) ?_
  exact Touches.refl _ _

theorem execLinkStateChange_frame (h) (st) (s) : Frames [.regs, .a, .b, .keel, .log, .aon, .gon, .cache, .lci, .pwr, .out] s (execLinkStateChange h st s) := by
  unfold execLinkStateChange
  refine Frames.next ?_
  refine Touches.comp (linkState_touches ..) (by decide) ?_
  exact Touches.refl _ _

theorem execBondedPortLost_frame (h) (s) : Frames [.regs, .a, .b, .log, .aon, .gon, .cache, .lci, .pwr, .out] s (execBondedPortLost h s) := by
  unfold execBondedPortLost
  refine Frames.next ?_
  refine Touches.comp (portLost_touches ..) (by decide) ?_
  exact Touches.refl _ _

theorem execHdmDecoderCommit_frame (h) (i) (base) (size) (skip) (lock) (form) (s) : Frames [.regs, .a, .b, .log, .aon] s (execHdmDecoderCommit h i base size skip lock form s) := by
  unfold execHdmDecoderCommit
  refine Frames.next ?_
  refine Touches.comp (decoderCommit_touches ..) (by decide) ?_
  exact Touches.refl _ _

theorem execHdmDecoderUncommit_frame (h) (i) (s) : Frames [.a, .b] s (execHdmDecoderUncommit h i s) := by
  unfold execHdmDecoderUncommit
  refine Frames.next ?_
  refine Touches.comp (decoderUncommit_touches ..) (by decide) ?_
  exact Touches.refl _ _

theorem execTwinEnable_frame (h) (n) (value) (s) : Frames [.regs, .a, .b, .log, .aon, .pmc, .gon, .cache, .tracts, .sec, .str, .lci, .out] s (execTwinEnable h n value s) := by
  unfold execTwinEnable
  refine Frames.next ?_
  refine Touches.comp (twinWrite_touches ..) (by decide) ?_
  exact Touches.refl _ _

theorem execTwinDisable_frame (h) (n) (value) (s) : Frames [.regs, .a, .b, .log, .aon, .pmc, .gon, .cache, .tracts, .sec, .str, .lci, .out] s (execTwinDisable h n value s) := by
  unfold execTwinDisable
  refine Frames.next ?_
  refine Touches.comp (twinWrite_touches ..) (by decide) ?_
  exact Touches.refl _ _

theorem execTwinDisableDone_frame (n) (s) : Frames [.regs, .a, .b, .keel, .log, .aon, .pmc, .dbg, .gon, .cache, .media, .tracts, .drift, .sec, .str, .lci, .out, .fresh] s (execTwinDisableDone n s) := by
  unfold execTwinDisableDone
  refine Frames.next ?_
  refine Touches.comp (Dev.unlockSettle_touches ..) (by decide) ?_
  refine Touches.comp (silentOut_touches ..) (by decide) ?_
  refine Touches.comp (sanPump_touches ..) (by decide) ?_
  refine Touches.comp (twinDone_touches ..) (by decide) ?_
  exact Touches.refl _ _

theorem execTwinLock_frame (h) (n) (value) (s) : Frames [.regs, .a, .b, .log, .aon, .pmc, .gon, .cache, .tracts, .sec, .str, .lci, .out] s (execTwinLock h n value s) := by
  unfold execTwinLock
  refine Frames.next ?_
  refine Touches.comp (twinWrite_touches ..) (by decide) ?_
  exact Touches.refl _ _

theorem execGpfPhase2Request_frame (h) (s) : Frames [.gon, .out] s (execGpfPhase2Request h s) := by
  unfold execGpfPhase2Request
  refine Frames.next ?_
  refine Touches.comp (gpfPhase2_touches ..) (by decide) ?_
  exact Touches.refl _ _

theorem execIdeKmMessage_frame (h) (keySet) (stream) (s) : Frames [.a, .b] s (execIdeKmMessage h keySet stream s) := by
  unfold execIdeKmMessage
  refine Frames.next ?_
  refine Touches.comp (ideKm_touches ..) (by decide) ?_
  exact Touches.refl _ _

theorem execDoeRequest_frame (h) (k) (arg) (s) : Frames [.regs, .a, .b, .out] s (execDoeRequest h k arg s) := by
  unfold execDoeRequest
  refine Frames.next ?_
  refine Touches.comp (doeAnswer_touches ..) (by decide) ?_
  exact Touches.refl _ _

theorem execD3hotEntry_frame (h) (s) : Frames [.regs, .a, .b, .str, .lci, .fresh] s (execD3hotEntry h s) := by
  unfold execD3hotEntry
  refine Frames.next ?_
  refine Touches.comp (d3hot_touches ..) (by decide) ?_
  exact Touches.refl _ _

theorem execD0Return_frame (h) (s) : Frames [.regs, .a, .b, .out] s (execD0Return h s) := by
  unfold execD0Return
  refine Frames.next ?_
  refine Touches.comp (d0Back_touches ..) (by decide) ?_
  exact Touches.refl _ _

theorem execD3coldEntry_frame (h) (s) : Frames [.regs, .a, .b, .launch, .keel, .log, .aon, .pmc, .gon, .cache, .sec, .str, .lci, .fresh] s (execD3coldEntry h s) := by
  unfold execD3coldEntry
  refine Frames.next ?_
  refine Touches.comp (silentOut_touches ..) (by decide) ?_
  refine Touches.comp (d3coldIn_touches ..) (by decide) ?_
  exact Touches.refl _ _

theorem execConventionalReset_frame (h) (s) : Frames [.regs, .a, .b, .launch, .keel, .log, .aon, .pmc, .gon, .cache, .sec, .str, .lci, .fresh] s (execConventionalReset h s) := by
  unfold execConventionalReset
  refine Frames.next ?_
  refine Touches.comp (conventional_touches ..) (by decide) ?_
  exact Touches.refl _ _

theorem execFlr_frame (h) (s) : Frames [.regs, .a, .b, .keel, .log, .aon, .pmc, .str, .lci, .fresh] s (execFlr h s) := by
  unfold execFlr
  refine Frames.next ?_
  refine Touches.comp (functionReset_touches ..) (by decide) ?_
  exact Touches.refl _ _

theorem execCxlReset_frame (h) (s) : Frames [.regs, .a, .b, .launch, .keel, .log, .aon, .pmc, .cache, .sec, .str, .lci, .fresh] s (execCxlReset h s) := by
  unfold execCxlReset
  refine Frames.next ?_
  refine Touches.comp (cxlResetHead_touches ..) (by decide) ?_
  exact Touches.refl _ _

theorem execDeviceReset_frame (h) (value) (s) : Frames [.regs, .a, .b, .tether, .keel, .log, .aon, .cache, .media, .str, .lci, .pwr, .out, .fresh] s (execDeviceReset h value s) := by
  unfold execDeviceReset
  refine Frames.next ?_
  refine Touches.comp (rstWrite_touches ..) (by decide) ?_
  exact Touches.refl _ _

theorem execLockstepMismatch_frame (p) (s) : Frames [.regs, .keel, .log, .aon, .cores, .sems, .pwr, .out] s (execLockstepMismatch p s) := by
  unfold execLockstepMismatch
  refine Frames.next ?_
  refine Touches.comp (pairFail_touches ..) (by decide) ?_
  exact Touches.refl _ _

theorem execCoreMemoryUncorrectable_frame (p) (s) : Frames [.regs, .keel, .log, .aon, .cores, .sems, .pwr, .out] s (execCoreMemoryUncorrectable p s) := by
  unfold execCoreMemoryUncorrectable
  refine Frames.next ?_
  refine Touches.comp (pairFail_touches ..) (by decide) ?_
  exact Touches.refl _ _

theorem execWatchdogPet_frame (p) (value) (s) : Frames [.cores] s (execWatchdogPet p value s) := by
  unfold execWatchdogPet
  refine Frames.next ?_
  refine Touches.comp (Dev.pet_touches ..) (by decide) ?_
  exact Touches.refl _ _

theorem execWatchdogExpiry_frame (p) (s) : Frames [.regs, .tether, .keel, .log, .aon, .cores, .sems, .pmc, .media, .pwr, .out] s (execWatchdogExpiry p s) := by
  unfold execWatchdogExpiry
  refine Frames.next ?_
  refine Touches.comp (wdogExpire_touches ..) (by decide) ?_
  exact Touches.refl _ _

theorem execSemaphoreAcquire_frame (p) (n) (s) : Frames [.sems] s (execSemaphoreAcquire p n s) := by
  unfold execSemaphoreAcquire
  split
  · refine Frames.next ?_
    refine Touches.comp (Dev.semAcquire_touches rfl) (by decide) ?_
    exact Touches.refl _ _
  · exact Frames.same _ _

theorem execSemaphoreRelease_frame (p) (n) (s) : Frames [.regs, .sems] s (execSemaphoreRelease p n s) := by
  unfold execSemaphoreRelease
  split
  · refine Frames.next ?_
    refine Touches.comp (Dev.semRelease_touches ..) (by decide) ?_
    exact Touches.refl _ _
  · exact Frames.same _ _

theorem execIcuSourceEdge_frame (src) (s) : Frames [.regs] s (execIcuSourceEdge src s) := by
  unfold execIcuSourceEdge
  refine Frames.next ?_
  refine Touches.comp (Dev.icu_touches ..) (by decide) ?_
  exact Touches.refl _ _

theorem execIcuPendingClear_frame (k) (value) (s) : Frames [.regs] s (execIcuPendingClear k value s) := by
  unfold execIcuPendingClear
  refine Frames.next ?_
  refine Touches.comp (Dev.setReg_touches ..) (by decide) ?_
  exact Touches.refl _ _

theorem execIcuSoftwareInterrupt_frame (value) (s) : Frames [.regs] s (execIcuSoftwareInterrupt value s) := by
  unfold execIcuSoftwareInterrupt
  refine Frames.next ?_
  refine Touches.comp (Dev.swiWrite_touches ..) (by decide) ?_
  exact Touches.refl _ _

theorem execIcuEoi_frame (p) (value) (s) : Frames [.regs, .log, .aon, .cores] s (execIcuEoi p value s) := by
  unfold execIcuEoi
  refine Frames.next ?_
  refine Touches.comp (eoi_touches ..) (by decide) ?_
  exact Touches.refl _ _

theorem execIcuEnableChange_frame (target) (value) (s) : Frames [.regs] s (execIcuEnableChange target value s) := by
  unfold execIcuEnableChange
  refine Frames.next ?_
  split
  · refine Touches.comp (Dev.srcWrite_touches ..) (by decide) ?_
    exact Touches.refl _ _
  · refine Touches.comp (Dev.gctlWrite_touches ..) (by decide) ?_
    exact Touches.refl _ _

theorem execIcuCfgLock_frame (value) (s) : Frames [.regs] s (execIcuCfgLock value s) := by
  unfold execIcuCfgLock
  refine Frames.next ?_
  refine Touches.comp (Dev.gctlWrite_touches ..) (by decide) ?_
  exact Touches.refl _ _

theorem execMsixMessage_frame (h) (vec) (s) : Frames [.regs, .out] s (execMsixMessage h vec s) := by
  unfold execMsixMessage
  split
  · refine Frames.next ?_
    refine Touches.comp (Dev.msixSend_touches ..) (by decide) ?_
    exact Touches.refl _ _
  · exact Frames.same _ _

theorem execMsixUnmask_frame (h) (vec) (s) : Frames [.regs, .a, .b, .out] s (execMsixUnmask h vec s) := by
  unfold execMsixUnmask
  conv => zeta
  refine Frames.next ?_
  refine Touches.comp (Dev.msixDrain_touches ..) (by decide) ?_
  split
  · refine Touches.comp (Dev.setRbit_touches ..) (by decide) ?_
    exact Touches.refl _ _
  · refine Touches.comp (Dev.setHead_touches ..) (by decide) ?_
    exact Touches.refl _ _

theorem execRailValid_frame (ch) (s) : Frames [.pwr, .fresh] s (execRailValid ch s) := by
  unfold execRailValid
  refine Frames.next ?_
  refine Touches.comp (railValid_touches ..) (by decide) ?_
  exact Touches.refl _ _

theorem execRailFault_frame (ch) (kind) (s) : Frames [.regs, .a, .b, .tether, .keel, .log, .aon, .cache, .media, .str, .lci, .pwr, .out, .fresh] s (execRailFault ch kind s) := by
  unfold execRailFault
  refine Frames.next ?_
  refine Touches.comp (railFault_touches ..) (by decide) ?_
  exact Touches.refl _ _

theorem execRailRampTimeout_frame (ch) (s) : Frames [.regs, .a, .b, .tether, .keel, .log, .aon, .cache, .media, .str, .lci, .pwr, .out, .fresh] s (execRailRampTimeout ch s) := by
  unfold execRailRampTimeout
  refine Frames.next ?_
  refine Touches.comp (railRamp_touches ..) (by decide) ?_
  exact Touches.refl _ _

theorem execRailRetry_frame (ch) (s) : Frames [.regs, .tether, .pmc, .media, .pwr, .out, .fresh] s (execRailRetry ch s) := by
  unfold execRailRetry
  refine Frames.next ?_
  refine Touches.comp (railRetry_touches ..) (by decide) ?_
  exact Touches.refl _ _

theorem execFaultNPulseEnd_frame (stillLow) (s) : Frames [.regs, .tether, .pmc, .media, .pwr, .out] s (execFaultNPulseEnd stillLow s) := by
  unfold execFaultNPulseEnd
  refine Frames.next ?_
  refine Touches.comp (pulseEnd_touches ..) (by decide) ?_
  exact Touches.refl _ _

theorem execMarginSet_frame (h) (value) (s) : Frames [.regs, .tether, .pmc, .gon, .media, .pwr, .out] s (execMarginSet h value s) := by
  unfold execMarginSet
  refine Frames.next ?_
  refine viaHead_touches _ _ _ _ (fun _ => ?_)
  refine Touches.comp (marginWrite_touches ..) (by decide) ?_
  exact Touches.refl _ _

theorem execMarginClear_frame (h) (value) (s) : Frames [.regs, .tether, .pmc, .gon, .media, .pwr, .out] s (execMarginClear h value s) := by
  unfold execMarginClear
  refine Frames.next ?_
  refine viaHead_touches _ _ _ _ (fun _ => ?_)
  refine Touches.comp (marginWrite_touches ..) (by decide) ?_
  exact Touches.refl _ _

theorem execInputValid_frame (vin) (s) : Frames [.regs, .a, .b, .tether, .launch, .gpio, .keel, .log, .cores, .sems, .images, .pmc, .bst, .dbg, .gon, .cache, .media, .tracts, .drift, .sec, .str, .lci, .pwr, .therm] s (execInputValid vin s) := by
  unfold execInputValid
  refine Frames.next ?_
  refine Touches.comp (inputGood_touches ..) (by decide) ?_
  exact Touches.refl _ _

theorem execInputFail_frame (vin) (s) : Frames [.regs, .pwr, .out, .fresh] s (execInputFail vin s) := by
  unfold execInputFail
  refine Frames.next ?_
  refine Touches.comp (inputBad_touches ..) (by decide) ?_
  exact Touches.refl _ _

theorem execHoldupMeasureStart_frame (vhMv) (s) : Frames [.pwr, .out, .fresh] s (execHoldupMeasureStart vhMv s) := by
  unfold execHoldupMeasureStart
  refine Frames.next ?_
  refine Touches.comp (measureStart_touches ..) (by decide) ?_
  exact Touches.refl _ _

theorem execHoldupMeasureEnd_frame (fallNs) (completed) (s) : Frames [.regs, .tether, .pmc, .media, .pwr, .out, .fresh] s (execHoldupMeasureEnd fallNs completed s) := by
  unfold execHoldupMeasureEnd
  refine Frames.next ?_
  refine Touches.comp (measureEnd_touches ..) (by decide) ?_
  exact Touches.refl _ _

theorem execArmingEvaluation_frame (vhMv) (s) : Frames [.regs, .a, .b, .tether, .keel, .log, .aon, .pmc, .gon, .cache, .media, .str, .lci, .pwr, .out, .fresh] s (execArmingEvaluation vhMv s) := by
  unfold execArmingEvaluation
  refine Frames.next ?_
  refine Touches.comp (armEval_touches ..) (by decide) ?_
  exact Touches.refl _ _

theorem execBringupStep_frame (inp) (s) : Frames [.regs, .a, .b, .tether, .gpio, .keel, .log, .aon, .cores, .images, .cache, .media, .tracts, .drift, .sec, .lci, .pwr, .out, .fresh] s (execBringupStep inp s) := by
  unfold execBringupStep
  refine Frames.next ?_
  refine Touches.comp (bringupStep_touches ..) (by decide) ?_
  exact Touches.refl _ _

theorem execReplayRestore_frame (parts) (lost) (s) : Frames [.regs, .a, .b, .tether, .keel, .log, .aon, .gon, .media, .tracts, .sec, .str, .lci, .pwr, .out, .fresh] s (execReplayRestore parts lost s) := by
  unfold execReplayRestore
  refine Frames.next ?_
  refine Touches.comp (replayRestore_touches ..) (by decide) ?_
  exact Touches.refl _ _

theorem execSegmentPartsProgrammed_frame (ok) (s) : Frames [.media, .pwr, .fresh] s (execSegmentPartsProgrammed ok s) := by
  unfold execSegmentPartsProgrammed
  refine Frames.next ?_
  refine Touches.comp (segWritten_touches ..) (by decide) ?_
  exact Touches.refl _ _

theorem execWakeEdge_frame (pin) (rising) (s) : Frames [.regs, .a, .b, .gpio, .out] s (execWakeEdge pin rising s) := by
  unfold execWakeEdge
  refine Frames.next ?_
  refine Touches.comp (wakeSeen_touches ..) (by decide) ?_
  exact Touches.refl _ _

theorem execRestExit_frame (h) (s) : Frames [.regs, .a, .b, .tether, .launch, .gpio, .keel, .log, .cores, .sems, .images, .pmc, .bst, .dbg, .gon, .cache, .media, .tracts, .drift, .sec, .str, .lci, .pwr, .therm, .out] s (execRestExit h s) := by
  unfold execRestExit
  split
  · refine Frames.next ?_
    refine Touches.comp (perstUp_touches ..) (by decide) ?_
    exact Touches.refl _ _
  · exact Frames.same _ _

theorem execSensorConversion_frame (i) (code) (ok) (s) : Frames [.regs, .a, .b, .tether, .keel, .log, .aon, .cache, .media, .str, .lci, .pwr, .therm, .out, .fresh] s (execSensorConversion i code ok s) := by
  unfold execSensorConversion
  refine Frames.next ?_
  refine Touches.comp (sensorStep_touches ..) (by decide) ?_
  exact Touches.refl _ _

theorem execThermalRestart_frame (code) (s) : Frames [.regs, .a, .b, .tether, .launch, .gpio, .keel, .log, .cores, .sems, .images, .pmc, .bst, .dbg, .gon, .cache, .media, .tracts, .drift, .sec, .str, .lci, .pwr, .therm] s (execThermalRestart code s) := by
  unfold execThermalRestart
  refine Frames.next ?_
  refine Touches.comp (thermalUp_touches ..) (by decide) ?_
  exact Touches.refl _ _

theorem execHousekeepingRound_frame (rd0) (rd1) (dies) (s) : Frames [.regs, .tether, .pmc, .media, .therm, .out, .fresh] s (execHousekeepingRound rd0 rd1 dies s) := by
  unfold execHousekeepingRound
  refine Frames.next ?_
  refine Touches.comp (roundStart_touches ..) (by decide) ?_
  exact Touches.refl _ _

theorem execAonTempRead_frame (code) (s) : Frames [.regs, .tether, .pmc, .media, .therm] s (execAonTempRead code s) := by
  unfold execAonTempRead
  conv => zeta
  split
  · refine Frames.next ?_
    refine Touches.comp (Touches.put_therm ..) (by decide) ?_
    refine Touches.comp (Dev.tick_touches ..) (by decide) ?_
    exact Touches.refl _ _
  · exact Frames.same _ _

theorem execSmbusArp_frame (addr) (s) : Frames [.therm, .out] s (execSmbusArp addr s) := by
  unfold execSmbusArp
  refine Frames.next ?_
  refine Touches.comp (Dev.arp_touches ..) (by decide) ?_
  exact Touches.refl _ _

theorem execSetEndpointId_frame (eid) (op) (s) : Frames [.regs, .therm, .out] s (execSetEndpointId eid op s) := by
  unfold execSetEndpointId
  refine Frames.next ?_
  refine Touches.comp (Dev.setEid_touches ..) (by decide) ?_
  refine Touches.comp (Dev.mctp_touches ..) (by decide) ?_
  exact Touches.refl _ _

theorem execGetMctpVersionSupport_frame (type) (s) : Frames [.regs, .out] s (execGetMctpVersionSupport type s) := by
  unfold execGetMctpVersionSupport
  refine Frames.next ?_
  refine Touches.comp (Dev.mctpVersion_touches ..) (by decide) ?_
  refine Touches.comp (Dev.mctp_touches ..) (by decide) ?_
  exact Touches.refl _ _

theorem execGetSensor_frame (idx) (s) : Frames [.regs, .out] s (execGetSensor idx s) := by
  unfold execGetSensor
  refine Frames.next ?_
  refine Touches.comp (Dev.side_touches ..) (by decide) ?_
  refine Touches.comp (Dev.mctp_touches ..) (by decide) ?_
  exact Touches.refl _ _

theorem execKeelWriteDone_frame (page) (ok) (s) : Frames [.regs, .a, .b, .keel, .log, .aon, .pmc, .gon, .cache, .media, .tracts, .drift, .sec, .str, .lci, .out, .fresh] s (execKeelWriteDone page ok s) := by
  unfold execKeelWriteDone
  refine Frames.next ?_
  refine Touches.comp (keelDone_touches ..) (by decide) ?_
  exact Touches.refl _ _

theorem execEventRecord_frame (code) (arg) (s) : Frames [.regs, .log, .aon] s (execEventRecord code arg s) := by
  unfold execEventRecord
  refine Frames.next ?_
  refine Touches.comp (Dev.event_touches ..) (by decide) ?_
  exact Touches.refl _ _

theorem execCounterClear_frame (h) (n) (value) (s) : Frames [.regs, .pmc] s (execCounterClear h n value s) := by
  unfold execCounterClear
  refine Frames.next ?_
  refine Touches.comp (cntWrite_touches ..) (by decide) ?_
  exact Touches.refl _ _

theorem execCounterSnapshot_frame (h) (s) : Frames [.pmc] s (execCounterSnapshot h s) := by
  unfold execCounterSnapshot
  refine Frames.next ?_
  refine Touches.comp (Dev.snapCounters_touches ..) (by decide) ?_
  exact Touches.refl _ _

theorem execHistogramSnapshot_frame (h) (s) : Frames [.pmc] s (execHistogramSnapshot h s) := by
  unfold execHistogramSnapshot
  refine Frames.next ?_
  refine Touches.comp (Dev.snapHist_touches ..) (by decide) ?_
  exact Touches.refl _ _

theorem execHistogramClear_frame (h) (i) (value) (s) : Frames [.regs, .pmc] s (execHistogramClear h i value s) := by
  unfold execHistogramClear
  refine Frames.next ?_
  refine Touches.comp (histWrite_touches ..) (by decide) ?_
  exact Touches.refl _ _

theorem execSelfTestSliceRun_frame (slice) (fault) (condition) (s) : Frames [.regs, .tether, .keel, .log, .aon, .pmc, .bst, .media, .lci, .therm] s (execSelfTestSliceRun slice fault condition s) := by
  unfold execSelfTestSliceRun
  refine Frames.next ?_
  refine Touches.comp (silentOut_touches ..) (by decide) ?_
  refine Touches.comp (sliceRun_touches ..) (by decide) ?_
  exact Touches.refl _ _

theorem execSamplePreload_frame (pins) (s) : Frames [.dbg, .out] s (execSamplePreload pins s) := by
  unfold execSamplePreload
  refine Frames.next ?_
  refine Touches.comp (scanSample_touches ..) (by decide) ?_
  exact Touches.refl _ _

theorem execBypass_frame (code) (s) : Frames [.dbg, .out] s (execBypass code s) := by
  unfold execBypass
  split
  · refine Frames.next ?_
    refine Touches.comp (Dev.tdo_touches ..) (by decide) ?_
    refine Touches.comp (Dev.irLoad_touches ..) (by decide) ?_
    exact Touches.refl _ _
  · exact Frames.same _ _

theorem execFxResp_frame (r) (t) (s) : Frames [.regs, .a, .b, .log, .aon, .pmc, .dbg, .gon, .cache, .sec, .str, .out] s (execFxResp r t s) := by
  unfold execFxResp
  refine Frames.next ?_
  refine Touches.comp (fxResponse_touches ..) (by decide) ?_
  exact Touches.refl _ _

theorem execFxHalt_frame (p) (s) : Frames [.regs, .cores, .dbg, .out] s (execFxHalt p s) := by
  unfold execFxHalt
  refine Frames.next ?_
  refine fxRun_touches _ _ (by decide) (fun _ => ?_)
  refine Touches.comp (Dev.haltPair_touches ..) (by decide) ?_
  exact Touches.refl _ _

theorem execFxResume_frame (p) (s) : Frames [.regs, .cores, .dbg, .out] s (execFxResume p s) := by
  unfold execFxResume
  refine Frames.next ?_
  refine fxRun_touches _ _ (by decide) (fun _ => ?_)
  refine Touches.comp (Dev.resumePair_touches ..) (by decide) ?_
  exact Touches.refl _ _

theorem execFxStep_frame (p) (after) (s) : Frames [.regs, .cores, .dbg, .out] s (execFxStep p after s) := by
  unfold execFxStep
  refine Frames.next ?_
  refine fxRun_touches _ _ (by decide) (fun _ => ?_)
  refine Dev.onHalted_touches _ _ _ (by decide) (fun _ => ?_)
  refine Touches.comp (Dev.stepPair_touches ..) (by decide) ?_
  exact Touches.refl _ _

theorem execFxSetBreakpoint_frame (p) (i) (addr) (s) : Frames [.regs, .cores, .dbg, .out] s (execFxSetBreakpoint p i addr s) := by
  unfold execFxSetBreakpoint
  refine Frames.next ?_
  refine fxRun_touches _ _ (by decide) (fun _ => ?_)
  refine Touches.comp (Dev.setBkpt_touches ..) (by decide) ?_
  exact Touches.refl _ _

theorem execFxClearBreakpoint_frame (p) (i) (s) : Frames [.regs, .cores, .dbg, .out] s (execFxClearBreakpoint p i s) := by
  unfold execFxClearBreakpoint
  refine Frames.next ?_
  refine fxRun_touches _ _ (by decide) (fun _ => ?_)
  refine Touches.comp (Dev.setBkpt_touches ..) (by decide) ?_
  exact Touches.refl _ _

theorem execFxRead_frame (raw) (addr) (s) : Frames [.regs, .sems, .dbg, .out] s (execFxRead raw addr s) := by
  unfold execFxRead
  refine Frames.next ?_
  refine fxRun_touches _ _ (by decide) (fun _ => ?_)
  refine Touches.comp (fxLoad_touches ..) (by decide) ?_
  exact Touches.refl _ _

theorem execFxWrite_frame (addr) (data) (s) : Frames [.regs, .a, .b, .tether, .launch, .gpio, .keel, .log, .aon, .cores, .sems, .pmc, .bst, .dbg, .gon, .cache, .media, .tracts, .sec, .str, .lci, .pwr, .out, .fresh] s (execFxWrite addr data s) := by
  unfold execFxWrite
  refine Frames.next ?_
  refine fxRun_touches _ _ (by decide) (fun _ => ?_)
  refine Touches.comp (fxStore_touches ..) (by decide) ?_
  exact Touches.refl _ _

theorem execFxReadRegister_frame (p) (i) (s) : Frames [.regs, .dbg, .out] s (execFxReadRegister p i s) := by
  unfold execFxReadRegister
  refine Frames.next ?_
  refine fxRun_touches _ _ (by decide) (fun _ => ?_)
  refine Dev.onHalted_touches _ _ _ (by decide) (fun _ => ?_)
  refine Touches.comp (Dev.fxOut_touches ..) (by decide) ?_
  exact Touches.refl _ _

theorem execFxWriteRegister_frame (p) (i) (data) (s) : Frames [.regs, .cores, .dbg, .out] s (execFxWriteRegister p i data s) := by
  unfold execFxWriteRegister
  conv => zeta
  refine Frames.next ?_
  refine fxRun_touches _ _ (by decide) (fun _ => ?_)
  refine Dev.onHalted_touches _ _ _ (by decide) (fun _ => ?_)
  refine Touches.comp (Dev.stepPair_touches ..) (by decide) ?_
  refine Touches.comp (Touches.put_dbg ..) (by decide) ?_
  exact Touches.refl _ _

theorem execFxSemaphoreAcquire_frame (i) (s) : Frames [.regs, .sems, .dbg, .out] s (execFxSemaphoreAcquire i s) := by
  unfold execFxSemaphoreAcquire
  refine Frames.next ?_
  refine fxRun_touches _ _ (by decide) (fun _ => ?_)
  refine Touches.comp (Dev.fxOut_touches ..) (by decide) ?_
  refine Touches.comp (Dev.semAcquire_touches rfl) (by decide) ?_
  exact Touches.refl _ _

theorem execFxSemaphoreRelease_frame (i) (s) : Frames [.regs, .sems, .dbg, .out] s (execFxSemaphoreRelease i s) := by
  unfold execFxSemaphoreRelease
  refine Frames.next ?_
  refine fxRun_touches _ _ (by decide) (fun _ => ?_)
  refine Touches.comp (Dev.semRelease_touches ..) (by decide) ?_
  exact Touches.refl _ _

theorem execBreakpointHit_frame (p) (i) (s) : Frames [.cores] s (execBreakpointHit p i s) := by
  unfold execBreakpointHit
  refine Frames.next ?_
  refine Touches.comp (bkptHit_touches ..) (by decide) ?_
  exact Touches.refl _ _

theorem execRegisterAccessError_frame (h) (kind) (off) (s) : Frames [.regs] s (execRegisterAccessError h kind off s) := by
  unfold execRegisterAccessError
  split
  · refine Frames.next ?_
    refine Touches.comp (Dev.regError_touches ..) (by decide) ?_
    exact Touches.refl _ _
  · exact Frames.same _ _

theorem execRegisterWrite_frame (h) (off) (wide) (value) (s) : Frames [.regs, .a, .b, .tether, .launch, .gpio, .keel, .log, .aon, .cores, .sems, .pmc, .bst, .gon, .cache, .media, .tracts, .sec, .str, .lci, .pwr, .out, .fresh] s (execRegisterWrite h off wide value s) := by
  unfold execRegisterWrite
  refine Frames.next ?_
  refine Touches.comp (hostRegWrite_touches ..) (by decide) ?_
  exact Touches.refl _ _

theorem execPerstNDeasserted_frame (h) (s) : Frames [.regs, .a, .b, .tether, .launch, .gpio, .keel, .log, .cores, .sems, .images, .pmc, .bst, .dbg, .gon, .cache, .media, .tracts, .drift, .sec, .str, .lci, .pwr, .therm, .out] s (execPerstNDeasserted h s) := by
  unfold execPerstNDeasserted
  refine Frames.next ?_
  refine Touches.comp (perstUp_touches ..) (by decide) ?_
  exact Touches.refl _ _

theorem execOutboundReadCompletion_frame (h) (tag) (data) (st) (s) : Frames [.regs, .keel, .log, .aon, .pmc, .gon, .cache, .media, .tracts, .drift, .sec, .str, .lci, .out, .fresh] s (execOutboundReadCompletion h tag data st s) := by
  unfold execOutboundReadCompletion
  refine Frames.next ?_
  refine Touches.comp (silentOut_touches ..) (by decide) ?_
  refine Touches.comp (readDone_touches ..) (by decide) ?_
  exact Touches.refl _ _

theorem execUnsupportedM2sOpcode_frame (h) (tag) (op) (s) : Frames [.regs, .a, .b, .log, .aon, .out] s (execUnsupportedM2sOpcode h tag op s) := by
  unfold execUnsupportedM2sOpcode
  conv => zeta
  split
  · exact Frames.same _ _
  · refine Frames.next ?_
    refine Touches.comp (Dev.emit_touches ..) (by decide) ?_
    refine Touches.comp (Dev.event_touches ..) (by decide) ?_
    refine Touches.comp (Dev.useReq_touches ..) (by decide) ?_
    exact Touches.refl _ _

theorem execSramWordCorrected_frame (w) (s) : Frames [.regs, .cache, .drift] s (execSramWordCorrected w s) := by
  unfold execSramWordCorrected
  conv => zeta
  refine Frames.next ?_
  split
  · refine Touches.comp (Dev.cacheMacro_touches ..) (by decide) ?_
    refine Touches.comp (Dev.bump_touches ..) (by decide) ?_
    exact Touches.refl _ _
  · refine Touches.comp (Dev.bump_touches ..) (by decide) ?_
    exact Touches.refl _ _

theorem execUnsupportedMailboxCommand_frame (h) (op) (s) : Frames [.regs, .out] s (execUnsupportedMailboxCommand h op s) := by
  unfold execUnsupportedMailboxCommand
  split
  · exact Frames.same _ _
  · refine Frames.next ?_
    refine mailRun_touches _ _ _ _ (by decide) (fun _ => ?_)
    refine Touches.comp (Dev.mail_touches ..) (by decide) ?_
    exact Touches.refl _ _

theorem execIdeMacFailure_frame (x) (s) : Frames [.regs, .a, .b, .log, .aon, .gon, .cache, .lci, .pwr, .out] s (execIdeMacFailure x s) := by
  unfold execIdeMacFailure
  refine Frames.next ?_
  refine Touches.comp (ideFail_touches ..) (by decide) ?_
  exact Touches.refl _ _

theorem execUnusedDStateWrite_frame (_h) (_d) (s) : Frames [] s (execUnusedDStateWrite _h _d s) := by
  unfold execUnusedDStateWrite
  exact Frames.same _ _

theorem execWritebackSelect_frame (s) : Frames [.regs, .a, .b, .log, .aon, .pmc, .gon, .sec, .str, .out] s (execWritebackSelect s) := by
  unfold execWritebackSelect
  refine Frames.next ?_
  refine Touches.comp (writebackSelect_touches ..) (by decide) ?_
  exact Touches.refl _ _

theorem execScratchChangeDone_frame (s) : Frames [.cache] s (execScratchChangeDone s) := by
  unfold execScratchChangeDone
  refine Frames.next ?_
  refine Touches.comp (Dev.scratchDone_touches ..) (by decide) ?_
  exact Touches.refl _ _

theorem execCompatChangeDone_frame (s) : Frames [.cache] s (execCompatChangeDone s) := by
  unfold execCompatChangeDone
  refine Frames.next ?_
  refine Touches.comp (Dev.compatDone_touches ..) (by decide) ?_
  exact Touches.refl _ _

theorem execFastClockReturn_frame (s) : Frames [.tether] s (execFastClockReturn s) := by
  unfold execFastClockReturn
  refine Frames.next ?_
  refine Touches.comp (Dev.clockReturn_touches ..) (by decide) ?_
  exact Touches.refl _ _

theorem execTetherSave_frame (s) : Frames [.regs, .tether, .keel, .pmc, .media] s (execTetherSave s) := by
  unfold execTetherSave
  conv => zeta
  split
  · refine Frames.next ?_
    refine Touches.comp (Dev.lifePut_touches ..) (by decide) ?_
    refine Touches.comp (Dev.advance_touches ..) (by decide) ?_
    exact Touches.refl _ _
  · exact Frames.same _ _

theorem execPtmRequestTimer_frame (s) : Frames [.regs, .tether, .pmc, .media, .out] s (execPtmRequestTimer s) := by
  unfold execPtmRequestTimer
  refine Frames.next ?_
  refine Touches.comp (Dev.ptmTimer_touches ..) (by decide) ?_
  exact Touches.refl _ _

theorem execPtmHoldover_frame (s) : Frames [.regs, .tether, .pmc, .media] s (execPtmHoldover s) := by
  unfold execPtmHoldover
  refine Frames.next ?_
  refine Touches.comp (Dev.ptmHold_touches ..) (by decide) ?_
  exact Touches.refl _ _

theorem execPhaseStart_frame (s) : Frames [.regs, .tether, .pmc, .media] s (execPhaseStart s) := by
  unfold execPhaseStart
  refine Frames.next ?_
  refine Touches.comp (Dev.tick_touches ..) (by decide) ?_
  exact Touches.refl _ _

theorem execFrameStart_frame (s) : Frames [.regs, .tether, .pmc, .media] s (execFrameStart s) := by
  unfold execFrameStart
  refine Frames.next ?_
  refine Touches.comp (Dev.frameBegin_touches ..) (by decide) ?_
  exact Touches.refl _ _

theorem execTestWindowClose_frame (s) : Frames [.regs, .tether, .pmc, .media] s (execTestWindowClose s) := by
  unfold execTestWindowClose
  refine Frames.next ?_
  refine Touches.comp (Dev.windowShut_touches ..) (by decide) ?_
  exact Touches.refl _ _

theorem execTestWindowEarlyClose_frame (s) : Frames [.regs, .tether, .cache, .media] s (execTestWindowEarlyClose s) := by
  unfold execTestWindowEarlyClose
  refine Frames.next ?_
  refine Touches.comp (Dev.windowAbort_touches ..) (by decide) ?_
  exact Touches.refl _ _

theorem execDriftLedgerSave_frame (s) : Frames [.drift] s (execDriftLedgerSave s) := by
  unfold execDriftLedgerSave
  split
  · refine Frames.next ?_
    refine Touches.comp (Dev.ledgerSave_touches ..) (by decide) ?_
    exact Touches.refl _ _
  · exact Frames.same _ _

theorem execHeatPeriodAdvance_frame (s) : Frames [.regs, .tether, .pmc, .media, .tracts] s (execHeatPeriodAdvance s) := by
  unfold execHeatPeriodAdvance
  refine Frames.next ?_
  refine Touches.comp (Dev.heatNext_touches ..) (by decide) ?_
  exact Touches.refl _ _

theorem execZoneTargetRecompute_frame (s) : Frames [.regs, .a, .b, .tether, .keel, .log, .aon, .pmc, .media, .tracts, .drift, .out] s (execZoneTargetRecompute s) := by
  unfold execZoneTargetRecompute
  refine Frames.next ?_
  refine Touches.comp (zoneRecompute_touches ..) (by decide) ?_
  exact Touches.refl _ _

theorem execWearSummarySave_frame (s) : Frames [.keel] s (execWearSummarySave s) := by
  unfold execWearSummarySave
  conv => zeta
  split
  · refine Frames.next ?_
    refine Touches.comp (Dev.ringPut_touches ..) (by decide) ?_
    exact Touches.refl _ _
  · exact Frames.same _ _

theorem execWearLevelCheck_frame (s) : Frames [.tracts] s (execWearLevelCheck s) := by
  unfold execWearLevelCheck
  refine Frames.next ?_
  refine Touches.comp (Dev.wearCheck_touches ..) (by decide) ?_
  exact Touches.refl _ _

theorem execFloorWarnRepeat_frame (s) : Frames [.regs, .a, .b, .tether, .pmc, .media, .tracts, .out] s (execFloorWarnRepeat s) := by
  unfold execFloorWarnRepeat
  refine Frames.next ?_
  refine Touches.comp (floorRepeat_touches ..) (by decide) ?_
  exact Touches.refl _ _

theorem execSealDevice_frame (s) : Frames [.regs, .a, .b, .keel, .log, .aon, .pmc, .media, .tracts, .drift, .sec, .lci, .out] s (execSealDevice s) := by
  unfold execSealDevice
  refine Frames.next ?_
  refine Touches.comp (sealDevice_touches ..) (by decide) ?_
  exact Touches.refl _ _

theorem execFailoverTakeover_frame (s) : Frames [.regs, .a, .b, .cores, .out] s (execFailoverTakeover s) := by
  unfold execFailoverTakeover
  refine Frames.next ?_
  refine Touches.comp (takeover_touches ..) (by decide) ?_
  exact Touches.refl _ _

theorem execStandbyPairFail_frame (s) : Frames [.regs, .cores] s (execStandbyPairFail s) := by
  unfold execStandbyPairFail
  refine Frames.next ?_
  refine Touches.comp (Dev.standbyFail_touches ..) (by decide) ?_
  exact Touches.refl _ _

theorem execCheckpoint_frame (s) : Frames [.regs, .cores] s (execCheckpoint s) := by
  unfold execCheckpoint
  refine Frames.next ?_
  refine Touches.comp (Dev.checkpoint_touches ..) (by decide) ?_
  exact Touches.refl _ _

theorem execIcuCommit_frame (s) : Frames [.regs, .cores, .pmc] s (execIcuCommit s) := by
  unfold execIcuCommit
  refine Frames.next ?_
  refine Touches.comp (Dev.commit_touches ..) (by decide) ?_
  refine Touches.comp (Dev.commit_touches ..) (by decide) ?_
  exact Touches.refl _ _

theorem execFuseFloorRaise_frame (s) : Frames [.images] s (execFuseFloorRaise s) := by
  unfold execFuseFloorRaise
  conv => zeta
  split
  · refine Frames.next ?_
    refine Touches.comp (Touches.put_images ..) (by decide) ?_
    exact Touches.refl _ _
  · exact Frames.same _ _

theorem execSequenceStep_frame (s) : Frames [.regs, .a, .b, .tether, .launch, .gpio, .keel, .log, .aon, .cores, .sems, .images, .pmc, .bst, .dbg, .gon, .cache, .media, .tracts, .drift, .sec, .str, .lci, .pwr, .therm, .out, .fresh] s (execSequenceStep s) := by
  unfold execSequenceStep
  refine Frames.next ?_
  refine Touches.comp (sequenceStep_touches ..) (by decide) ?_
  exact Touches.refl _ _

theorem execSystemReset_frame (s) : Frames [.regs, .a, .b, .tether, .keel, .log, .aon, .cache, .media, .str, .lci, .pwr, .out, .fresh] s (execSystemReset s) := by
  unfold execSystemReset
  refine Frames.next ?_
  refine Touches.comp (systemReset_touches ..) (by decide) ?_
  exact Touches.refl _ _

theorem execRestartAfterOff_frame (s) : Frames [.regs, .a, .b, .tether, .launch, .gpio, .keel, .log, .cores, .sems, .images, .pmc, .bst, .dbg, .gon, .cache, .media, .tracts, .drift, .sec, .str, .lci, .pwr, .therm] s (execRestartAfterOff s) := by
  unfold execRestartAfterOff
  refine Frames.next ?_
  refine Touches.comp (restartNow_touches ..) (by decide) ?_
  exact Touches.refl _ _

theorem execFaultNNotice_frame (s) : Frames [.regs, .log, .aon, .pwr] s (execFaultNNotice s) := by
  unfold execFaultNNotice
  refine Frames.next ?_
  refine Touches.comp (noticeSeen_touches ..) (by decide) ?_
  exact Touches.refl _ _

theorem execFaultNFault_frame (s) : Frames [.regs, .a, .b, .tether, .keel, .log, .aon, .cache, .media, .str, .lci, .pwr, .out, .fresh] s (execFaultNFault s) := by
  unfold execFaultNFault
  refine Frames.next ?_
  refine Touches.comp (faultSeen_touches ..) (by decide) ?_
  exact Touches.refl _ _

theorem execFaultNReleased_frame (s) : Frames [.pwr] s (execFaultNReleased s) := by
  unfold execFaultNReleased
  refine Frames.next ?_
  refine Touches.comp (faultGone_touches ..) (by decide) ?_
  exact Touches.refl _ _

theorem execPwrReqAssert_frame (s) : Frames [.regs, .a, .b, .tether, .launch, .gpio, .keel, .log, .cores, .sems, .images, .pmc, .bst, .dbg, .gon, .cache, .media, .tracts, .drift, .sec, .str, .lci, .pwr, .therm, .out] s (execPwrReqAssert s) := by
  unfold execPwrReqAssert
  refine Frames.next ?_
  refine Touches.comp (reqUp_touches ..) (by decide) ?_
  exact Touches.refl _ _

theorem execPwrReqDeassert_frame (s) : Frames [.regs, .a, .b, .tether, .keel, .log, .aon, .cache, .media, .str, .lci, .pwr, .out, .fresh] s (execPwrReqDeassert s) := by
  unfold execPwrReqDeassert
  refine Frames.next ?_
  refine Touches.comp (reqDown_touches ..) (by decide) ?_
  exact Touches.refl _ _

theorem execReplayRepair_frame (s) : Frames [.regs, .pmc, .media, .tracts, .drift, .str, .lci, .pwr] s (execReplayRepair s) := by
  unfold execReplayRepair
  refine Frames.next ?_
  refine Touches.comp (replayRepair_touches ..) (by decide) ?_
  exact Touches.refl _ _

theorem execSegmentRelease_frame (s) : Frames [.keel, .pwr] s (execSegmentRelease s) := by
  unfold execSegmentRelease
  refine Frames.next ?_
  refine Touches.comp (segRelease_touches ..) (by decide) ?_
  exact Touches.refl _ _

theorem execRipcordEntry_frame (s) : Frames [.regs, .a, .b, .tether, .keel, .log, .aon, .cache, .media, .str, .lci, .pwr, .out, .fresh] s (execRipcordEntry s) := by
  unfold execRipcordEntry
  refine Frames.next ?_
  refine Touches.comp (ripcordEntry_touches ..) (by decide) ?_
  exact Touches.refl _ _

theorem execLateArrivalWindowEnd_frame (s) : Frames [.regs, .a, .b, .tether, .pmc, .media, .pwr] s (execLateArrivalWindowEnd s) := by
  unfold execLateArrivalWindowEnd
  refine Frames.next ?_
  refine Touches.comp (lateEnd_touches ..) (by decide) ?_
  exact Touches.refl _ _

theorem execPhaseScheduleSuspend_frame (s) : Frames [.regs, .a, .b, .tether, .pwr] s (execPhaseScheduleSuspend s) := by
  unfold execPhaseScheduleSuspend
  refine Frames.next ?_
  refine Touches.comp (scheduleStop_touches ..) (by decide) ?_
  exact Touches.refl _ _

theorem execFlushKeelWrites_frame (s) : Frames [.regs, .tether, .keel, .log, .pwr] s (execFlushKeelWrites s) := by
  unfold execFlushKeelWrites
  refine Frames.next ?_
  refine Touches.comp (flushKeel_touches ..) (by decide) ?_
  exact Touches.refl _ _

theorem execFlushRailsDown_frame (s) : Frames [.regs, .a, .b, .tether, .launch, .gpio, .keel, .log, .aon, .cores, .sems, .images, .pmc, .bst, .dbg, .gon, .cache, .media, .tracts, .drift, .sec, .str, .lci, .pwr, .therm, .out, .fresh] s (execFlushRailsDown s) := by
  unfold execFlushRailsDown
  refine Frames.next ?_
  refine Touches.comp (railsDown_touches ..) (by decide) ?_
  exact Touches.refl _ _

theorem execShutdownFlush_frame (s) : Frames [.keel, .drift, .pwr] s (execShutdownFlush s) := by
  unfold execShutdownFlush
  refine Frames.next ?_
  refine Touches.comp (flushSaves_touches ..) (by decide) ?_
  exact Touches.refl _ _

theorem execRestEntry_frame (s) : Frames [.regs, .a, .b, .tether, .keel, .log, .aon, .cache, .media, .str, .lci, .pwr, .out, .fresh] s (execRestEntry s) := by
  unfold execRestEntry
  refine Frames.next ?_
  refine Touches.comp (restEntry_touches ..) (by decide) ?_
  exact Touches.refl _ _

theorem execRoundEvaluate_frame (s) : Frames [.regs, .a, .b, .tether, .log, .aon, .pmc, .media, .therm, .out, .fresh] s (execRoundEvaluate s) := by
  unfold execRoundEvaluate
  refine Frames.next ?_
  refine Touches.comp (roundEval_touches ..) (by decide) ?_
  exact Touches.refl _ _

theorem execGetEndpointId_frame (s) : Frames [.regs, .out] s (execGetEndpointId s) := by
  unfold execGetEndpointId
  refine Frames.next ?_
  refine Touches.comp (Dev.side_touches ..) (by decide) ?_
  refine Touches.comp (Dev.mctp_touches ..) (by decide) ?_
  exact Touches.refl _ _

theorem execGetMessageTypeSupport_frame (s) : Frames [.regs, .out] s (execGetMessageTypeSupport s) := by
  unfold execGetMessageTypeSupport
  refine Frames.next ?_
  refine Touches.comp (Dev.side_touches ..) (by decide) ?_
  refine Touches.comp (Dev.mctp_touches ..) (by decide) ?_
  exact Touches.refl _ _

theorem execGetHealth_frame (s) : Frames [.regs, .out] s (execGetHealth s) := by
  unfold execGetHealth
  refine Frames.next ?_
  refine Touches.comp (Dev.side_touches ..) (by decide) ?_
  refine Touches.comp (Dev.mctp_touches ..) (by decide) ?_
  exact Touches.refl _ _

theorem execGetIdentity_frame (s) : Frames [.regs, .out] s (execGetIdentity s) := by
  unfold execGetIdentity
  refine Frames.next ?_
  refine Touches.comp (Dev.side_touches ..) (by decide) ?_
  refine Touches.comp (Dev.mctp_touches ..) (by decide) ?_
  exact Touches.refl _ _

theorem execKeelWriteStart_frame (s) : Frames [.keel] s (execKeelWriteStart s) := by
  unfold execKeelWriteStart
  refine Frames.next ?_
  refine Touches.comp (keelStart_touches ..) (by decide) ?_
  exact Touches.refl _ _

theorem execLifeRecordWrite_frame (s) : Frames [.tether, .keel] s (execLifeRecordWrite s) := by
  unfold execLifeRecordWrite
  split
  · refine Frames.next ?_
    refine Touches.comp (Dev.lifePut_touches ..) (by decide) ?_
    exact Touches.refl _ _
  · exact Frames.same _ _

theorem execOperatingSecond_frame (s) : Frames [.regs, .tether, .keel, .pmc, .media] s (execOperatingSecond s) := by
  unfold execOperatingSecond
  refine Frames.next ?_
  refine Touches.comp (Dev.opSecond_touches ..) (by decide) ?_
  exact Touches.refl _ _

theorem execRateLimitSecondEnd_frame (s) : Frames [.regs, .tether, .log, .pmc, .media] s (execRateLimitSecondEnd s) := by
  unfold execRateLimitSecondEnd
  conv => zeta
  split
  · refine Frames.next ?_
    refine Touches.comp (Dev.rateEnd_touches ..) (by decide) ?_
    refine Touches.comp (Dev.tick_touches ..) (by decide) ?_
    exact Touches.refl _ _
  · exact Frames.same _ _

theorem execLogbookFlush_frame (s) : Frames [.regs, .keel, .log] s (execLogbookFlush s) := by
  unfold execLogbookFlush
  split
  · exact Frames.same _ _
  · refine Frames.next ?_
    refine Touches.comp (Dev.flushLog_touches ..) (by decide) ?_
    exact Touches.refl _ _

theorem execFreezeTimeout_frame (s) : Frames [.regs, .tether, .keel, .log, .pmc, .media] s (execFreezeTimeout s) := by
  unfold execFreezeTimeout
  conv => zeta
  split
  · exact Frames.same _ _
  · split
    · refine Frames.next ?_
      refine Touches.comp (Dev.thaw_touches ..) (by decide) ?_
      exact Touches.refl _ _
    · refine Frames.next ?_
      refine Touches.comp (Dev.thaw_touches ..) (by decide) ?_
      refine Touches.comp (Dev.advance_touches ..) (by decide) ?_
      exact Touches.refl _ _

theorem execUnitWindow_frame (s) : Frames [.regs, .tether, .pmc, .bst, .media] s (execUnitWindow s) := by
  unfold execUnitWindow
  conv => zeta
  split
  · refine Frames.next ?_
    refine Touches.comp (Touches.put_bst ..) (by decide) ?_
    refine Touches.comp (Dev.tick_touches ..) (by decide) ?_
    exact Touches.refl _ _
  · exact Frames.same _ _

theorem execPeriodicSliceQueue_frame (s) : Frames [.bst] s (execPeriodicSliceQueue s) := by
  unfold execPeriodicSliceQueue
  refine Frames.next ?_
  refine Touches.comp (slicesQueue_touches ..) (by decide) ?_
  exact Touches.refl _ _

theorem execExtest_frame (s) : Frames [.dbg, .out] s (execExtest s) := by
  unfold execExtest
  refine Frames.next ?_
  refine Touches.comp (scanHold_touches ..) (by decide) ?_
  exact Touches.refl _ _

theorem execIdcode_frame (s) : Frames [.dbg, .out] s (execIdcode s) := by
  unfold execIdcode
  split
  · refine Frames.next ?_
    refine Touches.comp (Dev.tdo_touches ..) (by decide) ?_
    refine Touches.comp (Dev.irLoad_touches ..) (by decide) ?_
    exact Touches.refl _ _
  · exact Frames.same _ _

theorem execClamp_frame (s) : Frames [.dbg, .out] s (execClamp s) := by
  unfold execClamp
  refine Frames.next ?_
  refine Touches.comp (scanHold_touches ..) (by decide) ?_
  exact Touches.refl _ _

theorem execHighz_frame (s) : Frames [.dbg, .out] s (execHighz s) := by
  unfold execHighz
  refine Frames.next ?_
  refine Touches.comp (scanHold_touches ..) (by decide) ?_
  exact Touches.refl _ _

theorem execFxStatus_frame (s) : Frames [.dbg, .out] s (execFxStatus s) := by
  unfold execFxStatus
  split
  · refine Frames.next ?_
    refine Touches.comp (Dev.tdo_touches ..) (by decide) ?_
    refine Touches.comp (Dev.irLoad_touches ..) (by decide) ?_
    exact Touches.refl _ _
  · exact Frames.same _ _

theorem execFxChal_frame (s) : Frames [.dbg, .out, .fresh] s (execFxChal s) := by
  unfold execFxChal
  refine Frames.next ?_
  refine Touches.comp (fxChallenge_touches ..) (by decide) ?_
  exact Touches.refl _ _

theorem execFxCloseSession_frame (s) : Frames [.regs, .cores, .sems, .dbg, .out] s (execFxCloseSession s) := by
  unfold execFxCloseSession
  refine Frames.next ?_
  refine fxRun_touches _ _ (by decide) (fun _ => ?_)
  exact Touches.mono (Dev.fxClose_touches ..) (by decide)

theorem execTapReset_frame (s) : Frames [.cores, .sems, .dbg] s (execTapReset s) := by
  unfold execTapReset
  split
  · refine Frames.next ?_
    refine Touches.comp (tapOff_touches ..) (by decide) ?_
    exact Touches.refl _ _
  · exact Frames.same _ _

theorem execAonPowerUp_frame (s) : Frames [.regs, .a, .b, .tether, .launch, .gpio, .keel, .log, .aon, .cores, .sems, .images, .pmc, .bst, .dbg, .gon, .cache, .media, .tracts, .drift, .sec, .str, .lci, .pwr, .therm, .fresh] s (execAonPowerUp s) := by
  unfold execAonPowerUp
  refine Frames.next ?_
  refine Touches.comp (aonUp_touches ..) (by decide) ?_
  exact Touches.refl _ _

end Sys2Proof.Machine
end

