-- ==== Sys2Proof/Laws/Table.lean ====
section
/-!
SUPPORT. Laws of the sparse tables: read after write, and the canonical form kept.
-/
namespace Sys2Proof

variable {α : Type} [DecidableEq α]

omit [DecidableEq α] in
theorem Tbl.look_eq_of_absent (d : α) (t : Tbl α) (k : Nat) (h : ∀ e ∈ t, e.1 ≠ k) :
    Tbl.look d t k = d := by
  induction t with
  | nil => rfl
  | cons e r ih =>
    obtain ⟨j, v⟩ := e
    have hj : j ≠ k := h (j, v) (by simp)
    simp only [Tbl.look, hj, if_false]
    exact ih fun e he => h e (by simp [he])

theorem Tbl.look_ins_same (d : α) (k : Nat) (v : α) (t : Tbl α) (h : ∀ e ∈ t, e.1 ≠ k) :
    Tbl.look d (Tbl.ins d k v t) k = v := by
  induction t with
  | nil => by_cases hv : v = d <;> simp [Tbl.ins, Tbl.look, hv]
  | cons e r ih =>
    obtain ⟨j, w⟩ := e
    have hj : j ≠ k := h (j, w) (by simp)
    have hr : ∀ e ∈ r, e.1 ≠ k := fun e he => h e (by simp [he])
    by_cases hv : v = d
    · subst hv
      simp [Tbl.ins, Tbl.look, hj, Tbl.look_eq_of_absent v r k hr]
    · by_cases hk : k < j
      · simp [Tbl.ins, hv, hk, Tbl.look]
      · simp [Tbl.ins, hv, hk, Tbl.look, hj, ih hr]

theorem Tbl.look_ins_other (d : α) (k i : Nat) (v : α) (t : Tbl α) (h : i ≠ k) :
    Tbl.look d (Tbl.ins d k v t) i = Tbl.look d t i := by
  induction t with
  | nil => by_cases hv : v = d <;> simp [Tbl.ins, Tbl.look, hv, h.symm]
  | cons e r ih =>
    obtain ⟨j, w⟩ := e
    by_cases hv : v = d
    · simp [Tbl.ins, hv]
    · by_cases hk : k < j
      · simp [Tbl.ins, hv, hk, Tbl.look, h.symm]
      · by_cases hj : j = i
        · subst hj
          simp [Tbl.ins, hv, hk, Tbl.look]
        · simp [Tbl.ins, hv, hk, Tbl.look, hj, ih]

omit [DecidableEq α] in
theorem Tbl.look_filter_other (d : α) (t : Tbl α) (k i : Nat) (h : i ≠ k) :
    Tbl.look d (t.filter fun e => e.1 != k) i = Tbl.look d t i := by
  induction t with
  | nil => rfl
  | cons e r ih =>
    obtain ⟨j, v⟩ := e
    by_cases hj : j = k
    · subst hj
      simp [Tbl.look, h.symm, ih]
    · by_cases hi : j = i <;> simp [hj, Tbl.look, hi, ih, h]

/-- Reading the index just written gives the value written. -/
@[simp] theorem Tbl.look_put_same (d : α) (t : Tbl α) (k : Nat) (v : α) :
    Tbl.look d (Tbl.put d t k v) k = v := by
  apply Tbl.look_ins_same
  intro e he
  simpa using (List.mem_filter.mp he).2

/-- A write leaves every other index alone. -/
theorem Tbl.look_put_other (d : α) (t : Tbl α) (k i : Nat) (v : α) (h : i ≠ k) :
    Tbl.look d (Tbl.put d t k v) i = Tbl.look d t i := by
  rw [Tbl.put, Tbl.look_ins_other d k i v _ h, Tbl.look_filter_other d t k i h]

/-- Read after write, both cases. -/
theorem Tbl.look_put (d : α) (t : Tbl α) (k i : Nat) (v : α) :
    Tbl.look d (Tbl.put d t k v) i = if i = k then v else Tbl.look d t i := by
  by_cases h : i = k
  · subst h; simp
  · simp [h, Tbl.look_put_other d t k i v h]

omit [DecidableEq α] in
@[simp] theorem Tbl.look_nil (d : α) (k : Nat) : Tbl.look d ([] : Tbl α) k = d := rfl

theorem Tbl.wf_iff (d : α) (t : Tbl α) :
    Tbl.wf d t = true ↔ t.Pairwise (fun a b => a.1 < b.1) ∧ ∀ e ∈ t, e.2 ≠ d := by
  simp [Tbl.wf, List.all_eq_true]

theorem Tbl.ins_mem (d : α) (k : Nat) (v : α) (t : Tbl α) :
    ∀ e ∈ Tbl.ins d k v t, e ∈ t ∨ (e = (k, v) ∧ v ≠ d) := by
  induction t with
  | nil => by_cases hv : v = d <;> simp [Tbl.ins, hv]
  | cons e r ih =>
    obtain ⟨j, w⟩ := e
    intro e he
    by_cases hv : v = d
    · left; simpa [Tbl.ins, hv] using he
    · by_cases hk : k < j
      · simp [Tbl.ins, hv, hk] at he
        rcases he with h | h | h <;> simp [h, hv]
      · simp [Tbl.ins, hv, hk] at he
        rcases he with h | h
        · simp [h]
        · rcases ih e h with h' | h' <;> simp [h']

theorem Tbl.ins_sorted (d : α) (k : Nat) (v : α) (t : Tbl α)
    (hs : t.Pairwise fun a b => a.1 < b.1) (hk : ∀ e ∈ t, e.1 ≠ k) :
    (Tbl.ins d k v t).Pairwise fun a b => a.1 < b.1 := by
  induction t with
  | nil => by_cases hv : v = d <;> simp [Tbl.ins, hv]
  | cons e r ih =>
    obtain ⟨j, w⟩ := e
    rw [List.pairwise_cons] at hs
    have hj : j ≠ k := hk (j, w) (by simp)
    have hr : ∀ e ∈ r, e.1 ≠ k := fun e he => hk e (by simp [he])
    by_cases hv : v = d
    · simp only [Tbl.ins, hv, if_true]
      exact List.pairwise_cons.mpr hs
    · by_cases hlt : k < j
      · simp only [Tbl.ins, hv, hlt, if_true, if_false]
        refine List.pairwise_cons.mpr ⟨?_, List.pairwise_cons.mpr hs⟩
        intro e he
        rcases List.mem_cons.mp he with h | h
        · simpa [h] using hlt
        · exact Nat.lt_trans hlt (hs.1 e h)
      · simp only [Tbl.ins, hv, hlt, if_false]
        refine List.pairwise_cons.mpr ⟨?_, ih hs.2 hr⟩
        intro e he
        rcases Tbl.ins_mem d k v r e he with h | ⟨h, -⟩
        · exact hs.1 e h
        · simp only [h]; omega

/-- A write keeps the canonical form. -/
theorem Tbl.put_wf (d : α) (t : Tbl α) (k : Nat) (v : α) (h : Tbl.wf d t = true) :
    Tbl.wf d (Tbl.put d t k v) = true := by
  rw [Tbl.wf_iff] at h ⊢
  have hf : ∀ e ∈ t.filter (fun e => e.1 != k), e.1 ≠ k := fun e he => by
    simpa using (List.mem_filter.mp he).2
  refine ⟨Tbl.ins_sorted d k v _ (h.1.filter _) hf, fun e he => ?_⟩
  rcases Tbl.ins_mem d k v _ e he with h' | ⟨h', hv⟩
  · exact h.2 e (List.mem_filter.mp h').1
  · simpa [h'] using hv

theorem Tbl.upd_wf (d : α) (t : Tbl α) (k : Nat) (f : α → α) (h : Tbl.wf d t = true) :
    Tbl.wf d (Tbl.upd d t k f) = true := Tbl.put_wf d t k _ h

theorem Tbl.look_upd (d : α) (t : Tbl α) (k i : Nat) (f : α → α) :
    Tbl.look d (Tbl.upd d t k f) i = if i = k then f (Tbl.look d t k) else Tbl.look d t i :=
  Tbl.look_put d t k i _

theorem Tbl.mapAll_wf (d : α) (t : Tbl α) (f : Nat → α → α) (h : Tbl.wf d t = true) :
    Tbl.wf d (Tbl.mapAll d t f) = true := by
  rw [Tbl.wf_iff] at h ⊢
  constructor
  · apply List.Pairwise.filter
    exact List.pairwise_map.mpr h.1
  · intro e he
    simpa using (List.mem_filter.mp he).2

theorem Tbl.filter_wf (d : α) (t : Tbl α) (f : Nat × α → Bool) (h : Tbl.wf d t = true) : Tbl.wf d (t.filter f) = true := by
  rw [Tbl.wf_iff] at h ⊢
  exact ⟨h.1.filter _, fun e he => h.2 e (List.mem_filter.mp he).1⟩

/-- A run of writes keeps the canonical form. -/
theorem Tbl.foldl_put_wf {d : α} (l : List (α × Nat)) (t : Tbl α) (h : Tbl.wf d t = true) :
    Tbl.wf d (l.foldl (fun t e => Tbl.put d t e.2 e.1) t) = true :=
  List.foldlRecOn (motive := fun t => Tbl.wf d t = true) l _ h fun t ht e _ => Tbl.put_wf d t e.2 e.1 ht

omit [DecidableEq α] in
/-- What every entry and the default satisfy, every read satisfies. -/
theorem Tbl.look_prop {P : α → Prop} (d : α) (t : Tbl α) (hd : P d) (h : ∀ e ∈ t, P e.2) (k : Nat) : P (Tbl.look d t k) := by
  induction t with
  | nil => exact hd
  | cons e r ih =>
    obtain ⟨j, v⟩ := e
    simp only [Tbl.look]
    split
    · exact h (j, v) (by simp)
    · exact ih fun e he => h e (by simp [he])

omit [DecidableEq α] in
/-- An entry of a table in canonical form is what its index reads as. -/
theorem Tbl.look_mem (d : α) (t : Tbl α) (h : t.Pairwise fun a b => a.1 < b.1) (e : Nat × α) (he : e ∈ t) : Tbl.look d t e.1 = e.2 := by
  induction t with
  | nil => cases he
  | cons x r ih =>
    obtain ⟨j, v⟩ := x
    rw [List.pairwise_cons] at h
    simp only [Tbl.look]
    rcases List.mem_cons.mp he with rfl | he
    · simp
    · have := h.1 e he
      rw [if_neg (by simp only at this; omega)]
      exact ih h.2 he

/-- A property of every value read is kept by a map that keeps it. -/
theorem Tbl.mapAll_prop {P : α → Prop} (d : α) (t : Tbl α) (f : Nat → α → α) (h : Tbl.wf d t = true) (hd : P d)
    (hf : ∀ k x, P x → P (f k x)) (ht : ∀ k, P (Tbl.look d t k)) (k : Nat) : P (Tbl.look d (Tbl.mapAll d t f) k) := by
  rw [Tbl.wf_iff] at h
  refine Tbl.look_prop d _ hd (fun e he => ?_) k
  obtain ⟨x, hx, rfl⟩ := List.mem_map.mp (List.mem_filter.mp he).1
  have := ht x.1
  rw [Tbl.look_mem d t h.1 x hx] at this
  exact hf _ _ this

end Sys2Proof
end

