-- ==== Sys2Proof/Laws/Regs.lean ====
section
/-!
SUPPORT. Laws of bit fields and of the register file: a field reads what was written to it, and every other register and bit is
left alone.
-/
namespace Sys2Proof

theorem bits_lt (x hi lo : Nat) : bits x hi lo < 2 ^ (hi + 1 - lo) := Nat.mod_lt _ (by positivity)

theorem bits_le (x hi lo : Nat) : bits x hi lo * 2 ^ lo ≤ x := by
  unfold bits
  calc x / 2 ^ lo % 2 ^ (hi + 1 - lo) * 2 ^ lo ≤ x / 2 ^ lo * 2 ^ lo := Nat.mul_le_mul_right _ (Nat.mod_le _ _)
    _ ≤ x := Nat.div_mul_le_self x _

/-- A number is what lies above a field, the field, and what lies below it. -/
theorem split_field (x hi lo : Nat) (h : lo ≤ hi + 1) :
    x = x / 2 ^ (hi + 1) * 2 ^ (hi + 1) + bits x hi lo * 2 ^ lo + x % 2 ^ lo := by
  have e : (2 : Nat) ^ (hi + 1) = 2 ^ lo * 2 ^ (hi + 1 - lo) := by rw [← pow_add]; congr 1; omega
  have h1 := Nat.div_add_mod x (2 ^ lo)
  have h2 := Nat.div_add_mod (x / 2 ^ lo) (2 ^ (hi + 1 - lo))
  have h3 : x / 2 ^ lo / 2 ^ (hi + 1 - lo) = x / 2 ^ (hi + 1) := by rw [Nat.div_div_eq_div_mul, ← e]
  unfold bits
  rw [h3] at h2
  rw [e]
  rw [e] at h2
  generalize x / (2 ^ lo * 2 ^ (hi + 1 - lo)) = q at *
  generalize x / 2 ^ lo % 2 ^ (hi + 1 - lo) = f at *
  calc x = 2 ^ lo * (x / 2 ^ lo) + x % 2 ^ lo := h1.symm
    _ = 2 ^ lo * (2 ^ (hi + 1 - lo) * q + f) + x % 2 ^ lo := by rw [h2]
    _ = _ := by ring

/-- `setBits` puts the field between what lies above and below it. -/
theorem setBits_eq (x hi lo v : Nat) (h : lo ≤ hi + 1) :
    setBits x hi lo v = x / 2 ^ (hi + 1) * 2 ^ (hi + 1) + v % 2 ^ (hi + 1 - lo) * 2 ^ lo + x % 2 ^ lo := by
  have s := split_field x hi lo h
  unfold setBits
  omega

theorem setBits_div (x hi lo v : Nat) (h : lo ≤ hi + 1) : setBits x hi lo v / 2 ^ (hi + 1) = x / 2 ^ (hi + 1) := by
  rw [setBits_eq x hi lo v h]
  have e : (2 : Nat) ^ (hi + 1) = 2 ^ lo * 2 ^ (hi + 1 - lo) := by rw [← pow_add]; congr 1; omega
  have a : v % 2 ^ (hi + 1 - lo) * 2 ^ lo + x % 2 ^ lo < 2 ^ (hi + 1) := by
    have h1 := Nat.mod_lt v (show 0 < 2 ^ (hi + 1 - lo) by positivity)
    have h2 := Nat.mod_lt x (show 0 < 2 ^ lo by positivity)
    rw [e]
    have h3 : (v % 2 ^ (hi + 1 - lo) + 1) * 2 ^ lo ≤ 2 ^ (hi + 1 - lo) * 2 ^ lo := Nat.mul_le_mul_right _ h1
    rw [Nat.mul_comm (2 ^ lo)]
    linarith
  rw [Nat.add_assoc, Nat.mul_comm, Nat.mul_add_div (by positivity), Nat.div_eq_of_lt a, Nat.add_zero]

/-- The field written. -/
theorem bits_setBits_same (x hi lo v : Nat) (h : lo ≤ hi + 1) : bits (setBits x hi lo v) hi lo = v % 2 ^ (hi + 1 - lo) := by
  rw [setBits_eq x hi lo v h]
  have e : (2 : Nat) ^ (hi + 1) = 2 ^ lo * 2 ^ (hi + 1 - lo) := by rw [← pow_add]; congr 1; omega
  unfold bits
  have : x / 2 ^ (hi + 1) * 2 ^ (hi + 1) + v % 2 ^ (hi + 1 - lo) * 2 ^ lo + x % 2 ^ lo
      = 2 ^ lo * (x / 2 ^ (hi + 1) * 2 ^ (hi + 1 - lo) + v % 2 ^ (hi + 1 - lo)) + x % 2 ^ lo := by rw [e]; ring
  rw [this, Nat.mul_add_div (by positivity), Nat.div_eq_of_lt (Nat.mod_lt _ (by positivity)), Nat.add_zero,
    Nat.mul_add_mod_self_right, Nat.mod_mod]

/-- A field above or below the one written. -/
theorem bits_setBits_other (x hi lo v hi' lo' : Nat) (h : lo ≤ hi + 1) (h' : lo' ≤ hi' + 1) (hd : hi < lo' ∨ hi' < lo) :
    bits (setBits x hi lo v) hi' lo' = bits x hi' lo' := by
  rcases hd with hd | hd
  · have e : (2 : Nat) ^ lo' = 2 ^ (hi + 1) * 2 ^ (lo' - (hi + 1)) := by rw [← pow_add]; congr 1; omega
    unfold bits
    rw [e, ← Nat.div_div_eq_div_mul, ← Nat.div_div_eq_div_mul, setBits_div x hi lo v h]
  · have hm : setBits x hi lo v % 2 ^ lo = x % 2 ^ lo := by
      rw [setBits_eq x hi lo v h]
      have e : (2 : Nat) ^ (hi + 1) = 2 ^ lo * 2 ^ (hi + 1 - lo) := by rw [← pow_add]; congr 1; omega
      have : x / 2 ^ (hi + 1) * 2 ^ (hi + 1) + v % 2 ^ (hi + 1 - lo) * 2 ^ lo + x % 2 ^ lo
          = 2 ^ lo * (x / 2 ^ (hi + 1) * 2 ^ (hi + 1 - lo) + v % 2 ^ (hi + 1 - lo)) + x % 2 ^ lo := by rw [e]; ring
      rw [this, Nat.mul_add_mod, Nat.mod_mod]
    have key (y : Nat) : bits y hi' lo' = bits (y % 2 ^ lo) hi' lo' := by
      have e : (2 : Nat) ^ lo = 2 ^ lo' * 2 ^ (hi' + 1 - lo') * 2 ^ (lo - (hi' + 1)) := by
        rw [← pow_add, ← pow_add]; congr 1; omega
      unfold bits
      rw [e, Nat.mul_assoc, Nat.mod_mul_right_div_self, Nat.mod_mod_of_dvd _ (Dvd.intro _ rfl)]
    rw [key, hm, ← key]

/-- A field's write keeps a word within 32 bits. -/
theorem setBits_lt (x hi lo v : Nat) (h : lo ≤ hi + 1) (hh : hi < 32) (hx : x < 2 ^ 32) : setBits x hi lo v < 2 ^ 32 := by
  have d := setBits_div x hi lo v h
  have e : (2 : Nat) ^ 32 = 2 ^ (hi + 1) * 2 ^ (31 - hi) := by rw [← pow_add]; congr 1; omega
  have a : x / 2 ^ (hi + 1) < 2 ^ (31 - hi) := Nat.div_lt_of_lt_mul (by rw [← e]; exact hx)
  rw [← d] at a
  have b := (Nat.div_lt_iff_lt_mul (show 0 < 2 ^ (hi + 1) by positivity)).mp a
  rw [e, Nat.mul_comm]
  exact b

namespace Machine

/-- Read after write. -/
@[simp] theorem Dev.reg_setReg (d : Dev) (off off' : Nat) (v : Reg32) : (d.setReg off v).reg off' = if off' = off then v else d.reg off' := by
  unfold Dev.reg Dev.setReg
  by_cases h : off' = off
  · subst h
    by_cases hv : v = resetOf off' <;> simp [hv]
  · simp [h, Tbl.look_put_other]

/-- The field written, and the fields of the same register that lie elsewhere. -/
theorem Dev.fld_setFld_same (d : Dev) (off hi lo v : Nat) (h : lo ≤ hi + 1) (hh : hi < 32) :
    (d.setFld off hi lo v).fld off hi lo = v % 2 ^ (hi + 1 - lo) := by
  unfold Dev.fld Dev.setFld
  rw [Dev.reg_setReg, if_pos rfl, BitVec.toNat_ofNat, Nat.mod_eq_of_lt (setBits_lt _ _ _ _ h hh (d.reg off).isLt)]
  exact bits_setBits_same _ _ _ _ h

theorem Dev.fld_setFld_other (d : Dev) (off hi lo v off' hi' lo' : Nat) (h : lo ≤ hi + 1) (hh : hi < 32) (h' : lo' ≤ hi' + 1)
    (hd : off' ≠ off ∨ hi < lo' ∨ hi' < lo) : (d.setFld off hi lo v).fld off' hi' lo' = d.fld off' hi' lo' := by
  unfold Dev.fld Dev.setFld
  rw [Dev.reg_setReg]
  by_cases e : off' = off
  · subst e
    rw [if_pos rfl, BitVec.toNat_ofNat, Nat.mod_eq_of_lt (setBits_lt _ _ _ _ h hh (d.reg off').isLt)]
    exact bits_setBits_other _ _ _ _ _ _ h h' (by simpa using hd)
  · rw [if_neg e]

theorem bit_eq (x k : Nat) : bit x k = decide (bits x k k = 1) := rfl

theorem Dev.rbit_eq (d : Dev) (off k : Nat) : d.rbit off k = decide (d.fld off k k = 1) := rfl

/-- One bit written, and another bit. -/
theorem Dev.rbit_setRbit_same (d : Dev) (off k : Nat) (b : Bool) (h : k < 32) : (d.setRbit off k b).rbit off k = b := by
  rw [Dev.rbit_eq, Dev.setRbit, Dev.fld_setFld_same d off k k _ (by omega) h]
  cases b <;> simp [b2n]

theorem Dev.rbit_setRbit_other (d : Dev) (off k off' k' : Nat) (b : Bool) (h : k < 32) (hd : off' ≠ off ∨ k' ≠ k) :
    (d.setRbit off k b).rbit off' k' = d.rbit off' k' := by
  rw [Dev.rbit_eq, Dev.rbit_eq, Dev.setRbit, Dev.fld_setFld_other d off k k _ off' k' k' (by omega) h (by omega)]
  rcases hd with h1 | h1
  · exact .inl h1
  · right; omega

/-- A register elsewhere. -/
theorem Dev.reg_setFld_other (d : Dev) (off hi lo v off' : Nat) (h : off' ≠ off) : (d.setFld off hi lo v).reg off' = d.reg off' := by
  unfold Dev.setFld
  rw [Dev.reg_setReg, if_neg h]

theorem Dev.reg_setRbit_other (d : Dev) (off k off' : Nat) (b : Bool) (h : off' ≠ off) : (d.setRbit off k b).reg off' = d.reg off' :=
  Dev.reg_setFld_other d off k k _ off' h

/-- An RC counter saturates (R7). -/
theorem Dev.reg_bump (d : Dev) (off n : Nat) : ((d.bump off n).reg off).toNat = min ((d.reg off).toNat + n) 0xFFFFFFFF := by
  unfold Dev.bump satAdd
  rw [Dev.reg_setReg, if_pos rfl, BitVec.toNat_ofNat]
  omega

theorem Dev.reg_bump_other (d : Dev) (off n off' : Nat) (h : off' ≠ off) : (d.bump off n).reg off' = d.reg off' := by
  unfold Dev.bump
  rw [Dev.reg_setReg, if_neg h]

/-- Everything else of the device is left alone by a register write. -/
theorem Dev.setReg_frame (d : Dev) (off : Nat) (v : Reg32) : d.setReg off v = { d with regs := (d.setReg off v).regs } := rfl
theorem Dev.setFld_frame (d : Dev) (off hi lo v : Nat) : d.setFld off hi lo v = { d with regs := (d.setFld off hi lo v).regs } := rfl
theorem Dev.setRbit_frame (d : Dev) (off k : Nat) (b : Bool) : d.setRbit off k b = { d with regs := (d.setRbit off k b).regs } := rfl
theorem Dev.bump_frame (d : Dev) (off n : Nat) : d.bump off n = { d with regs := (d.bump off n).regs } := rfl

end Machine
end Sys2Proof
end

