-- ==== Sys2Proof/Laws/Keep.lean ====
section
/-!
SUPPORT. The relation `Keeps`: what is sound before is sound after. It composes, and an update keeps soundness where it touches no part
that `Dev.Sound` speaks of, or where the new parts are sound.
-/
namespace Sys2Proof

open Machine

/-- Soundness is kept. -/
structure Keeps (d e : Dev) : Prop where
  sound : d.Sound → e.Sound

/-- The parts that `Dev.Sound` speaks of. -/
def soundParts : List Part := [.regs, .keel, .images, .media, .cache, .log, .aon, .a, .b]

theorem Keeps.refl (d : Dev) : Keeps d d := ⟨id⟩

theorem Keeps.comp {d e f : Dev} (g : Keeps e f) (h : Keeps d e) : Keeps d f := ⟨fun x => g.sound (h.sound x)⟩

theorem Keeps.ite {d e f : Dev} {c : Prop} [Decidable c] (h : Keeps d e) (g : Keeps d f) : Keeps d (if c then e else f) := by
  split <;> assumption

theorem Keeps.foldl {α : Type} {d e : Dev} {f : Dev → α → Dev} {xs : List α} (hf : ∀ a x, Keeps a (f a x)) (h : Keeps d e) :
    Keeps d (xs.foldl f e) := List.foldlRecOn xs f h fun a g x _ => (hf a x).comp g

theorem Keeps.of {l : List Part} {d e : Dev} (h : Touches l d e) (s : ∀ p ∈ soundParts, p ∉ l) : Keeps d e := by
  have q : ∀ p ∈ soundParts, p.same d e := fun p m => h.same p (s p m)
  have hr : e.regs = d.regs := q .regs (by decide)
  have hk : e.keel = d.keel := q .keel (by decide)
  have hi : e.images = d.images := q .images (by decide)
  have hm : e.media = d.media := q .media (by decide)
  have hc : e.cache = d.cache := q .cache (by decide)
  have hl : e.log = d.log := q .log (by decide)
  have ho : e.aon = d.aon := q .aon (by decide)
  have ha : e.a = d.a := q .a (by decide)
  have hb : e.b = d.b := q .b (by decide)
  refine ⟨fun x => ⟨hr ▸ x.regs, hk ▸ x.keel, hk ▸ x.keelByte, hi ▸ x.norA, hi ▸ x.norB, hm ▸ x.table, fun m => ?_, hc ▸ x.scratch, hl ▸ x.log, ho ▸ x.held,
    ha ▸ x.headA, hb ▸ x.headB⟩⟩
  have := x.dies m
  unfold Dev.die at this ⊢
  rw [hm]
  exact this

theorem Keeps.put_a {e : Dev} {v0} (h0 : e.Sound → v0.Bounded) :
    Keeps e { e with a := v0 } :=
  ⟨fun x => ⟨x.regs, x.keel, x.keelByte, x.norA, x.norB, x.table, x.dies, x.scratch, x.log, x.held, h0 x, x.headB⟩⟩

theorem Keeps.put_a_b {e : Dev} {v0} {v1} (h0 : e.Sound → v0.Bounded) (h1 : e.Sound → v1.Bounded) :
    Keeps e { e with a := v0, b := v1 } :=
  ⟨fun x => ⟨x.regs, x.keel, x.keelByte, x.norA, x.norB, x.table, x.dies, x.scratch, x.log, x.held, h0 x, h1 x⟩⟩

theorem Keeps.put_a_b_pwr {e : Dev} {v0} {v1} {v2} (h0 : e.Sound → v0.Bounded) (h1 : e.Sound → v1.Bounded) :
    Keeps e { e with a := v0, b := v1, pwr := v2 } :=
  ⟨fun x => ⟨x.regs, x.keel, x.keelByte, x.norA, x.norB, x.table, x.dies, x.scratch, x.log, x.held, h0 x, h1 x⟩⟩

theorem Keeps.put_aon {e : Dev} {v0} (h0 : e.Sound → v0.events.length ≤ 8) :
    Keeps e { e with aon := v0 } :=
  ⟨fun x => ⟨x.regs, x.keel, x.keelByte, x.norA, x.norB, x.table, x.dies, x.scratch, x.log, h0 x, x.headA, x.headB⟩⟩

theorem Keeps.put_b {e : Dev} {v0} (h0 : e.Sound → v0.Bounded) :
    Keeps e { e with b := v0 } :=
  ⟨fun x => ⟨x.regs, x.keel, x.keelByte, x.norA, x.norB, x.table, x.dies, x.scratch, x.log, x.held, x.headA, h0 x⟩⟩

theorem Keeps.put_cache {e : Dev} {v0} (h0 : e.Sound → Tbl.wf 0 v0.scr = true) :
    Keeps e { e with cache := v0 } :=
  ⟨fun x => ⟨x.regs, x.keel, x.keelByte, x.norA, x.norB, x.table, x.dies, h0 x, x.log, x.held, x.headA, x.headB⟩⟩

theorem Keeps.put_cores_images {e : Dev} {v0} {v1} (h0 : e.Sound → Tbl.wf 0 v1.a = true) (h1 : e.Sound → Tbl.wf 0 v1.b = true) :
    Keeps e { e with cores := v0, images := v1 } :=
  ⟨fun x => ⟨x.regs, x.keel, x.keelByte, h0 x, h1 x, x.table, x.dies, x.scratch, x.log, x.held, x.headA, x.headB⟩⟩

theorem Keeps.put_cores_images_lci {e : Dev} {v0} {v1} {v2} (h0 : e.Sound → Tbl.wf 0 v1.a = true) (h1 : e.Sound → Tbl.wf 0 v1.b = true) :
    Keeps e { e with cores := v0, images := v1, lci := v2 } :=
  ⟨fun x => ⟨x.regs, x.keel, x.keelByte, h0 x, h1 x, x.table, x.dies, x.scratch, x.log, x.held, x.headA, x.headB⟩⟩

theorem Keeps.put_gon_cache {e : Dev} {v0} {v1} (h0 : e.Sound → Tbl.wf 0 v1.scr = true) :
    Keeps e { e with gon := v0, cache := v1 } :=
  ⟨fun x => ⟨x.regs, x.keel, x.keelByte, x.norA, x.norB, x.table, x.dies, h0 x, x.log, x.held, x.headA, x.headB⟩⟩

theorem Keeps.put_gpio_media {e : Dev} {v0} {v1} (h0 : e.Sound → Tbl.wf {} v1.die = true) (h1 : e.Sound → ∀ m, (Tbl.look {} v1.die m).Canonical) :
    Keeps e { e with gpio := v0, media := v1 } :=
  ⟨fun x => ⟨x.regs, x.keel, x.keelByte, x.norA, x.norB, h0 x, h1 x, x.scratch, x.log, x.held, x.headA, x.headB⟩⟩

theorem Keeps.put_gpio_media_pwr {e : Dev} {v0} {v1} {v2} (h0 : e.Sound → Tbl.wf {} v1.die = true) (h1 : e.Sound → ∀ m, (Tbl.look {} v1.die m).Canonical) :
    Keeps e { e with gpio := v0, media := v1, pwr := v2 } :=
  ⟨fun x => ⟨x.regs, x.keel, x.keelByte, x.norA, x.norB, h0 x, h1 x, x.scratch, x.log, x.held, x.headA, x.headB⟩⟩

theorem Keeps.put_images {e : Dev} {v0} (h0 : e.Sound → Tbl.wf 0 v0.a = true) (h1 : e.Sound → Tbl.wf 0 v0.b = true) :
    Keeps e { e with images := v0 } :=
  ⟨fun x => ⟨x.regs, x.keel, x.keelByte, h0 x, h1 x, x.table, x.dies, x.scratch, x.log, x.held, x.headA, x.headB⟩⟩

theorem Keeps.put_keel {e : Dev} {v0} (h0 : e.Sound → Tbl.wf 0 v0.bytes = true) (h1 : e.Sound → ∀ c ∈ v0.bytes, c.2 < 256) :
    Keeps e { e with keel := v0 } :=
  ⟨fun x => ⟨x.regs, h0 x, h1 x, x.norA, x.norB, x.table, x.dies, x.scratch, x.log, x.held, x.headA, x.headB⟩⟩

theorem Keeps.put_keel_cache {e : Dev} {v0} {v1} (h0 : e.Sound → Tbl.wf 0 v0.bytes = true) (h1 : e.Sound → ∀ c ∈ v0.bytes, c.2 < 256) (h2 : e.Sound → Tbl.wf 0 v1.scr = true) :
    Keeps e { e with keel := v0, cache := v1 } :=
  ⟨fun x => ⟨x.regs, h0 x, h1 x, x.norA, x.norB, x.table, x.dies, h2 x, x.log, x.held, x.headA, x.headB⟩⟩

theorem Keeps.put_keel_cache_drift {e : Dev} {v0} {v1} {v2} (h0 : e.Sound → Tbl.wf 0 v0.bytes = true) (h1 : e.Sound → ∀ c ∈ v0.bytes, c.2 < 256) (h2 : e.Sound → Tbl.wf 0 v1.scr = true) :
    Keeps e { e with keel := v0, cache := v1, drift := v2 } :=
  ⟨fun x => ⟨x.regs, h0 x, h1 x, x.norA, x.norB, x.table, x.dies, h2 x, x.log, x.held, x.headA, x.headB⟩⟩

theorem Keeps.put_keel_cache_drift_sec {e : Dev} {v0} {v1} {v2} {v3} (h0 : e.Sound → Tbl.wf 0 v0.bytes = true) (h1 : e.Sound → ∀ c ∈ v0.bytes, c.2 < 256) (h2 : e.Sound → Tbl.wf 0 v1.scr = true) :
    Keeps e { e with keel := v0, cache := v1, drift := v2, sec := v3 } :=
  ⟨fun x => ⟨x.regs, h0 x, h1 x, x.norA, x.norB, x.table, x.dies, h2 x, x.log, x.held, x.headA, x.headB⟩⟩

theorem Keeps.put_keel_log {e : Dev} {v0} {v1} (h0 : e.Sound → Tbl.wf 0 v0.bytes = true) (h1 : e.Sound → ∀ c ∈ v0.bytes, c.2 < 256) (h2 : e.Sound → v1.buf.length ≤ 1024) :
    Keeps e { e with keel := v0, log := v1 } :=
  ⟨fun x => ⟨x.regs, h0 x, h1 x, x.norA, x.norB, x.table, x.dies, x.scratch, h2 x, x.held, x.headA, x.headB⟩⟩

theorem Keeps.put_keel_log_lci {e : Dev} {v0} {v1} {v2} (h0 : e.Sound → Tbl.wf 0 v0.bytes = true) (h1 : e.Sound → ∀ c ∈ v0.bytes, c.2 < 256) (h2 : e.Sound → v1.buf.length ≤ 1024) :
    Keeps e { e with keel := v0, log := v1, lci := v2 } :=
  ⟨fun x => ⟨x.regs, h0 x, h1 x, x.norA, x.norB, x.table, x.dies, x.scratch, h2 x, x.held, x.headA, x.headB⟩⟩

theorem Keeps.put_keel_pwr {e : Dev} {v0} {v1} (h0 : e.Sound → Tbl.wf 0 v0.bytes = true) (h1 : e.Sound → ∀ c ∈ v0.bytes, c.2 < 256) :
    Keeps e { e with keel := v0, pwr := v1 } :=
  ⟨fun x => ⟨x.regs, h0 x, h1 x, x.norA, x.norB, x.table, x.dies, x.scratch, x.log, x.held, x.headA, x.headB⟩⟩

theorem Keeps.put_log {e : Dev} {v0} (h0 : e.Sound → v0.buf.length ≤ 1024) :
    Keeps e { e with log := v0 } :=
  ⟨fun x => ⟨x.regs, x.keel, x.keelByte, x.norA, x.norB, x.table, x.dies, x.scratch, h0 x, x.held, x.headA, x.headB⟩⟩

theorem Keeps.put_log_aon {e : Dev} {v0} {v1} (h0 : e.Sound → v0.buf.length ≤ 1024) (h1 : e.Sound → v1.events.length ≤ 8) :
    Keeps e { e with log := v0, aon := v1 } :=
  ⟨fun x => ⟨x.regs, x.keel, x.keelByte, x.norA, x.norB, x.table, x.dies, x.scratch, h0 x, h1 x, x.headA, x.headB⟩⟩

theorem Keeps.put_media {e : Dev} {v0} (h0 : e.Sound → Tbl.wf {} v0.die = true) (h1 : e.Sound → ∀ m, (Tbl.look {} v0.die m).Canonical) :
    Keeps e { e with media := v0 } :=
  ⟨fun x => ⟨x.regs, x.keel, x.keelByte, x.norA, x.norB, h0 x, h1 x, x.scratch, x.log, x.held, x.headA, x.headB⟩⟩

theorem Keeps.put_media_tracts {e : Dev} {v0} {v1} (h0 : e.Sound → Tbl.wf {} v0.die = true) (h1 : e.Sound → ∀ m, (Tbl.look {} v0.die m).Canonical) :
    Keeps e { e with media := v0, tracts := v1 } :=
  ⟨fun x => ⟨x.regs, x.keel, x.keelByte, x.norA, x.norB, h0 x, h1 x, x.scratch, x.log, x.held, x.headA, x.headB⟩⟩

theorem Keeps.put_regs {e : Dev} {v0} (h0 : e.Sound → Tbl.wf none v0 = true) :
    Keeps e { e with regs := v0 } :=
  ⟨fun x => ⟨h0 x, x.keel, x.keelByte, x.norA, x.norB, x.table, x.dies, x.scratch, x.log, x.held, x.headA, x.headB⟩⟩

theorem Keeps.put_regs_a {e : Dev} {v0} {v1} (h0 : e.Sound → Tbl.wf none v0 = true) (h1 : e.Sound → v1.Bounded) :
    Keeps e { e with regs := v0, a := v1 } :=
  ⟨fun x => ⟨h0 x, x.keel, x.keelByte, x.norA, x.norB, x.table, x.dies, x.scratch, x.log, x.held, h1 x, x.headB⟩⟩

theorem Keeps.put_regs_a_b {e : Dev} {v0} {v1} {v2} (h0 : e.Sound → Tbl.wf none v0 = true) (h1 : e.Sound → v1.Bounded) (h2 : e.Sound → v2.Bounded) :
    Keeps e { e with regs := v0, a := v1, b := v2 } :=
  ⟨fun x => ⟨h0 x, x.keel, x.keelByte, x.norA, x.norB, x.table, x.dies, x.scratch, x.log, x.held, h1 x, h2 x⟩⟩

theorem Keeps.put_regs_a_b_tether {e : Dev} {v0} {v1} {v2} {v3} (h0 : e.Sound → Tbl.wf none v0 = true) (h1 : e.Sound → v1.Bounded) (h2 : e.Sound → v2.Bounded) :
    Keeps e { e with regs := v0, a := v1, b := v2, tether := v3 } :=
  ⟨fun x => ⟨h0 x, x.keel, x.keelByte, x.norA, x.norB, x.table, x.dies, x.scratch, x.log, x.held, h1 x, h2 x⟩⟩

theorem Keeps.put_regs_a_b_tether_gpio {e : Dev} {v0} {v1} {v2} {v3} {v4} (h0 : e.Sound → Tbl.wf none v0 = true) (h1 : e.Sound → v1.Bounded) (h2 : e.Sound → v2.Bounded) :
    Keeps e { e with regs := v0, a := v1, b := v2, tether := v3, gpio := v4 } :=
  ⟨fun x => ⟨h0 x, x.keel, x.keelByte, x.norA, x.norB, x.table, x.dies, x.scratch, x.log, x.held, h1 x, h2 x⟩⟩

theorem Keeps.put_regs_a_b_tether_gpio_keel {e : Dev} {v0} {v1} {v2} {v3} {v4} {v5} (h0 : e.Sound → Tbl.wf none v0 = true) (h1 : e.Sound → v1.Bounded) (h2 : e.Sound → v2.Bounded) (h3 : e.Sound → Tbl.wf 0 v5.bytes = true) (h4 : e.Sound → ∀ c ∈ v5.bytes, c.2 < 256) :
    Keeps e { e with regs := v0, a := v1, b := v2, tether := v3, gpio := v4, keel := v5 } :=
  ⟨fun x => ⟨h0 x, h3 x, h4 x, x.norA, x.norB, x.table, x.dies, x.scratch, x.log, x.held, h1 x, h2 x⟩⟩

theorem Keeps.put_regs_a_b_tether_gpio_keel_aon {e : Dev} {v0} {v1} {v2} {v3} {v4} {v5} {v6} (h0 : e.Sound → Tbl.wf none v0 = true) (h1 : e.Sound → v1.Bounded) (h2 : e.Sound → v2.Bounded) (h3 : e.Sound → Tbl.wf 0 v5.bytes = true) (h4 : e.Sound → ∀ c ∈ v5.bytes, c.2 < 256) (h5 : e.Sound → v6.events.length ≤ 8) :
    Keeps e { e with regs := v0, a := v1, b := v2, tether := v3, gpio := v4, keel := v5, aon := v6 } :=
  ⟨fun x => ⟨h0 x, h3 x, h4 x, x.norA, x.norB, x.table, x.dies, x.scratch, x.log, h5 x, h1 x, h2 x⟩⟩

theorem Keeps.put_regs_a_b_tether_gpio_keel_aon_media {e : Dev} {v0} {v1} {v2} {v3} {v4} {v5} {v6} {v7} (h0 : e.Sound → Tbl.wf none v0 = true) (h1 : e.Sound → v1.Bounded) (h2 : e.Sound → v2.Bounded) (h3 : e.Sound → Tbl.wf 0 v5.bytes = true) (h4 : e.Sound → ∀ c ∈ v5.bytes, c.2 < 256) (h5 : e.Sound → v6.events.length ≤ 8) (h6 : e.Sound → Tbl.wf {} v7.die = true) (h7 : e.Sound → ∀ m, (Tbl.look {} v7.die m).Canonical) :
    Keeps e { e with regs := v0, a := v1, b := v2, tether := v3, gpio := v4, keel := v5, aon := v6, media := v7 } :=
  ⟨fun x => ⟨h0 x, h3 x, h4 x, x.norA, x.norB, h6 x, h7 x, x.scratch, x.log, h5 x, h1 x, h2 x⟩⟩

theorem Keeps.put_regs_a_b_tether_gpio_keel_aon_media_pwr {e : Dev} {v0} {v1} {v2} {v3} {v4} {v5} {v6} {v7} {v8} (h0 : e.Sound → Tbl.wf none v0 = true) (h1 : e.Sound → v1.Bounded) (h2 : e.Sound → v2.Bounded) (h3 : e.Sound → Tbl.wf 0 v5.bytes = true) (h4 : e.Sound → ∀ c ∈ v5.bytes, c.2 < 256) (h5 : e.Sound → v6.events.length ≤ 8) (h6 : e.Sound → Tbl.wf {} v7.die = true) (h7 : e.Sound → ∀ m, (Tbl.look {} v7.die m).Canonical) :
    Keeps e { e with regs := v0, a := v1, b := v2, tether := v3, gpio := v4, keel := v5, aon := v6, media := v7, pwr := v8 } :=
  ⟨fun x => ⟨h0 x, h3 x, h4 x, x.norA, x.norB, h6 x, h7 x, x.scratch, x.log, h5 x, h1 x, h2 x⟩⟩

theorem Keeps.put_regs_a_b_tether_gpio_keel_aon_media_pwr_therm {e : Dev} {v0} {v1} {v2} {v3} {v4} {v5} {v6} {v7} {v8} {v9} (h0 : e.Sound → Tbl.wf none v0 = true) (h1 : e.Sound → v1.Bounded) (h2 : e.Sound → v2.Bounded) (h3 : e.Sound → Tbl.wf 0 v5.bytes = true) (h4 : e.Sound → ∀ c ∈ v5.bytes, c.2 < 256) (h5 : e.Sound → v6.events.length ≤ 8) (h6 : e.Sound → Tbl.wf {} v7.die = true) (h7 : e.Sound → ∀ m, (Tbl.look {} v7.die m).Canonical) :
    Keeps e { e with regs := v0, a := v1, b := v2, tether := v3, gpio := v4, keel := v5, aon := v6, media := v7, pwr := v8, therm := v9 } :=
  ⟨fun x => ⟨h0 x, h3 x, h4 x, x.norA, x.norB, h6 x, h7 x, x.scratch, x.log, h5 x, h1 x, h2 x⟩⟩

theorem Keeps.put_regs_a_b_tether_launch {e : Dev} {v0} {v1} {v2} {v3} {v4} (h0 : e.Sound → Tbl.wf none v0 = true) (h1 : e.Sound → v1.Bounded) (h2 : e.Sound → v2.Bounded) :
    Keeps e { e with regs := v0, a := v1, b := v2, tether := v3, launch := v4 } :=
  ⟨fun x => ⟨h0 x, x.keel, x.keelByte, x.norA, x.norB, x.table, x.dies, x.scratch, x.log, x.held, h1 x, h2 x⟩⟩

theorem Keeps.put_regs_a_b_tether_launch_gpio {e : Dev} {v0} {v1} {v2} {v3} {v4} {v5} (h0 : e.Sound → Tbl.wf none v0 = true) (h1 : e.Sound → v1.Bounded) (h2 : e.Sound → v2.Bounded) :
    Keeps e { e with regs := v0, a := v1, b := v2, tether := v3, launch := v4, gpio := v5 } :=
  ⟨fun x => ⟨h0 x, x.keel, x.keelByte, x.norA, x.norB, x.table, x.dies, x.scratch, x.log, x.held, h1 x, h2 x⟩⟩

theorem Keeps.put_regs_a_b_tether_launch_gpio_keel {e : Dev} {v0} {v1} {v2} {v3} {v4} {v5} {v6} (h0 : e.Sound → Tbl.wf none v0 = true) (h1 : e.Sound → v1.Bounded) (h2 : e.Sound → v2.Bounded) (h3 : e.Sound → Tbl.wf 0 v6.bytes = true) (h4 : e.Sound → ∀ c ∈ v6.bytes, c.2 < 256) :
    Keeps e { e with regs := v0, a := v1, b := v2, tether := v3, launch := v4, gpio := v5, keel := v6 } :=
  ⟨fun x => ⟨h0 x, h3 x, h4 x, x.norA, x.norB, x.table, x.dies, x.scratch, x.log, x.held, h1 x, h2 x⟩⟩

theorem Keeps.put_regs_a_b_tether_launch_gpio_keel_log {e : Dev} {v0} {v1} {v2} {v3} {v4} {v5} {v6} {v7} (h0 : e.Sound → Tbl.wf none v0 = true) (h1 : e.Sound → v1.Bounded) (h2 : e.Sound → v2.Bounded) (h3 : e.Sound → Tbl.wf 0 v6.bytes = true) (h4 : e.Sound → ∀ c ∈ v6.bytes, c.2 < 256) (h5 : e.Sound → v7.buf.length ≤ 1024) :
    Keeps e { e with regs := v0, a := v1, b := v2, tether := v3, launch := v4, gpio := v5, keel := v6, log := v7 } :=
  ⟨fun x => ⟨h0 x, h3 x, h4 x, x.norA, x.norB, x.table, x.dies, x.scratch, h5 x, x.held, h1 x, h2 x⟩⟩

theorem Keeps.put_regs_a_b_tether_launch_gpio_keel_log_cores {e : Dev} {v0} {v1} {v2} {v3} {v4} {v5} {v6} {v7} {v8} (h0 : e.Sound → Tbl.wf none v0 = true) (h1 : e.Sound → v1.Bounded) (h2 : e.Sound → v2.Bounded) (h3 : e.Sound → Tbl.wf 0 v6.bytes = true) (h4 : e.Sound → ∀ c ∈ v6.bytes, c.2 < 256) (h5 : e.Sound → v7.buf.length ≤ 1024) :
    Keeps e { e with regs := v0, a := v1, b := v2, tether := v3, launch := v4, gpio := v5, keel := v6, log := v7, cores := v8 } :=
  ⟨fun x => ⟨h0 x, h3 x, h4 x, x.norA, x.norB, x.table, x.dies, x.scratch, h5 x, x.held, h1 x, h2 x⟩⟩

theorem Keeps.put_regs_a_b_tether_launch_gpio_keel_log_cores_sems {e : Dev} {v0} {v1} {v2} {v3} {v4} {v5} {v6} {v7} {v8} {v9} (h0 : e.Sound → Tbl.wf none v0 = true) (h1 : e.Sound → v1.Bounded) (h2 : e.Sound → v2.Bounded) (h3 : e.Sound → Tbl.wf 0 v6.bytes = true) (h4 : e.Sound → ∀ c ∈ v6.bytes, c.2 < 256) (h5 : e.Sound → v7.buf.length ≤ 1024) :
    Keeps e { e with regs := v0, a := v1, b := v2, tether := v3, launch := v4, gpio := v5, keel := v6, log := v7, cores := v8, sems := v9 } :=
  ⟨fun x => ⟨h0 x, h3 x, h4 x, x.norA, x.norB, x.table, x.dies, x.scratch, h5 x, x.held, h1 x, h2 x⟩⟩

theorem Keeps.put_regs_a_b_tether_launch_gpio_keel_log_cores_sems_images {e : Dev} {v0} {v1} {v2} {v3} {v4} {v5} {v6} {v7} {v8} {v9} {v10} (h0 : e.Sound → Tbl.wf none v0 = true) (h1 : e.Sound → v1.Bounded) (h2 : e.Sound → v2.Bounded) (h3 : e.Sound → Tbl.wf 0 v6.bytes = true) (h4 : e.Sound → ∀ c ∈ v6.bytes, c.2 < 256) (h5 : e.Sound → v7.buf.length ≤ 1024) (h6 : e.Sound → Tbl.wf 0 v10.a = true) (h7 : e.Sound → Tbl.wf 0 v10.b = true) :
    Keeps e { e with regs := v0, a := v1, b := v2, tether := v3, launch := v4, gpio := v5, keel := v6, log := v7, cores := v8, sems := v9, images := v10 } :=
  ⟨fun x => ⟨h0 x, h3 x, h4 x, h6 x, h7 x, x.table, x.dies, x.scratch, h5 x, x.held, h1 x, h2 x⟩⟩

theorem Keeps.put_regs_a_b_tether_launch_gpio_keel_log_cores_sems_images_pmc {e : Dev} {v0} {v1} {v2} {v3} {v4} {v5} {v6} {v7} {v8} {v9} {v10} {v11} (h0 : e.Sound → Tbl.wf none v0 = true) (h1 : e.Sound → v1.Bounded) (h2 : e.Sound → v2.Bounded) (h3 : e.Sound → Tbl.wf 0 v6.bytes = true) (h4 : e.Sound → ∀ c ∈ v6.bytes, c.2 < 256) (h5 : e.Sound → v7.buf.length ≤ 1024) (h6 : e.Sound → Tbl.wf 0 v10.a = true) (h7 : e.Sound → Tbl.wf 0 v10.b = true) :
    Keeps e { e with regs := v0, a := v1, b := v2, tether := v3, launch := v4, gpio := v5, keel := v6, log := v7, cores := v8, sems := v9, images := v10, pmc := v11 } :=
  ⟨fun x => ⟨h0 x, h3 x, h4 x, h6 x, h7 x, x.table, x.dies, x.scratch, h5 x, x.held, h1 x, h2 x⟩⟩

theorem Keeps.put_regs_a_b_tether_launch_gpio_keel_log_cores_sems_images_pmc_bst {e : Dev} {v0} {v1} {v2} {v3} {v4} {v5} {v6} {v7} {v8} {v9} {v10} {v11} {v12} (h0 : e.Sound → Tbl.wf none v0 = true) (h1 : e.Sound → v1.Bounded) (h2 : e.Sound → v2.Bounded) (h3 : e.Sound → Tbl.wf 0 v6.bytes = true) (h4 : e.Sound → ∀ c ∈ v6.bytes, c.2 < 256) (h5 : e.Sound → v7.buf.length ≤ 1024) (h6 : e.Sound → Tbl.wf 0 v10.a = true) (h7 : e.Sound → Tbl.wf 0 v10.b = true) :
    Keeps e { e with regs := v0, a := v1, b := v2, tether := v3, launch := v4, gpio := v5, keel := v6, log := v7, cores := v8, sems := v9, images := v10, pmc := v11, bst := v12 } :=
  ⟨fun x => ⟨h0 x, h3 x, h4 x, h6 x, h7 x, x.table, x.dies, x.scratch, h5 x, x.held, h1 x, h2 x⟩⟩

theorem Keeps.put_regs_a_b_tether_launch_gpio_keel_log_cores_sems_images_pmc_bst_dbg {e : Dev} {v0} {v1} {v2} {v3} {v4} {v5} {v6} {v7} {v8} {v9} {v10} {v11} {v12} {v13} (h0 : e.Sound → Tbl.wf none v0 = true) (h1 : e.Sound → v1.Bounded) (h2 : e.Sound → v2.Bounded) (h3 : e.Sound → Tbl.wf 0 v6.bytes = true) (h4 : e.Sound → ∀ c ∈ v6.bytes, c.2 < 256) (h5 : e.Sound → v7.buf.length ≤ 1024) (h6 : e.Sound → Tbl.wf 0 v10.a = true) (h7 : e.Sound → Tbl.wf 0 v10.b = true) :
    Keeps e { e with regs := v0, a := v1, b := v2, tether := v3, launch := v4, gpio := v5, keel := v6, log := v7, cores := v8, sems := v9, images := v10, pmc := v11, bst := v12, dbg := v13 } :=
  ⟨fun x => ⟨h0 x, h3 x, h4 x, h6 x, h7 x, x.table, x.dies, x.scratch, h5 x, x.held, h1 x, h2 x⟩⟩

theorem Keeps.put_regs_a_b_tether_launch_gpio_keel_log_cores_sems_images_pmc_bst_dbg_gon {e : Dev} {v0} {v1} {v2} {v3} {v4} {v5} {v6} {v7} {v8} {v9} {v10} {v11} {v12} {v13} {v14} (h0 : e.Sound → Tbl.wf none v0 = true) (h1 : e.Sound → v1.Bounded) (h2 : e.Sound → v2.Bounded) (h3 : e.Sound → Tbl.wf 0 v6.bytes = true) (h4 : e.Sound → ∀ c ∈ v6.bytes, c.2 < 256) (h5 : e.Sound → v7.buf.length ≤ 1024) (h6 : e.Sound → Tbl.wf 0 v10.a = true) (h7 : e.Sound → Tbl.wf 0 v10.b = true) :
    Keeps e { e with regs := v0, a := v1, b := v2, tether := v3, launch := v4, gpio := v5, keel := v6, log := v7, cores := v8, sems := v9, images := v10, pmc := v11, bst := v12, dbg := v13, gon := v14 } :=
  ⟨fun x => ⟨h0 x, h3 x, h4 x, h6 x, h7 x, x.table, x.dies, x.scratch, h5 x, x.held, h1 x, h2 x⟩⟩

theorem Keeps.put_regs_a_b_tether_launch_gpio_keel_log_cores_sems_images_pmc_bst_dbg_gon_cache {e : Dev} {v0} {v1} {v2} {v3} {v4} {v5} {v6} {v7} {v8} {v9} {v10} {v11} {v12} {v13} {v14} {v15} (h0 : e.Sound → Tbl.wf none v0 = true) (h1 : e.Sound → v1.Bounded) (h2 : e.Sound → v2.Bounded) (h3 : e.Sound → Tbl.wf 0 v6.bytes = true) (h4 : e.Sound → ∀ c ∈ v6.bytes, c.2 < 256) (h5 : e.Sound → v7.buf.length ≤ 1024) (h6 : e.Sound → Tbl.wf 0 v10.a = true) (h7 : e.Sound → Tbl.wf 0 v10.b = true) (h8 : e.Sound → Tbl.wf 0 v15.scr = true) :
    Keeps e { e with regs := v0, a := v1, b := v2, tether := v3, launch := v4, gpio := v5, keel := v6, log := v7, cores := v8, sems := v9, images := v10, pmc := v11, bst := v12, dbg := v13, gon := v14, cache := v15 } :=
  ⟨fun x => ⟨h0 x, h3 x, h4 x, h6 x, h7 x, x.table, x.dies, h8 x, h5 x, x.held, h1 x, h2 x⟩⟩

theorem Keeps.put_regs_a_b_tether_launch_gpio_keel_log_cores_sems_images_pmc_bst_dbg_gon_cache_media {e : Dev} {v0} {v1} {v2} {v3} {v4} {v5} {v6} {v7} {v8} {v9} {v10} {v11} {v12} {v13} {v14} {v15} {v16} (h0 : e.Sound → Tbl.wf none v0 = true) (h1 : e.Sound → v1.Bounded) (h2 : e.Sound → v2.Bounded) (h3 : e.Sound → Tbl.wf 0 v6.bytes = true) (h4 : e.Sound → ∀ c ∈ v6.bytes, c.2 < 256) (h5 : e.Sound → v7.buf.length ≤ 1024) (h6 : e.Sound → Tbl.wf 0 v10.a = true) (h7 : e.Sound → Tbl.wf 0 v10.b = true) (h8 : e.Sound → Tbl.wf 0 v15.scr = true) (h9 : e.Sound → Tbl.wf {} v16.die = true) (h10 : e.Sound → ∀ m, (Tbl.look {} v16.die m).Canonical) :
    Keeps e { e with regs := v0, a := v1, b := v2, tether := v3, launch := v4, gpio := v5, keel := v6, log := v7, cores := v8, sems := v9, images := v10, pmc := v11, bst := v12, dbg := v13, gon := v14, cache := v15, media := v16 } :=
  ⟨fun x => ⟨h0 x, h3 x, h4 x, h6 x, h7 x, h9 x, h10 x, h8 x, h5 x, x.held, h1 x, h2 x⟩⟩

theorem Keeps.put_regs_a_b_tether_launch_gpio_keel_log_cores_sems_images_pmc_bst_dbg_gon_cache_media_tracts {e : Dev} {v0} {v1} {v2} {v3} {v4} {v5} {v6} {v7} {v8} {v9} {v10} {v11} {v12} {v13} {v14} {v15} {v16} {v17} (h0 : e.Sound → Tbl.wf none v0 = true) (h1 : e.Sound → v1.Bounded) (h2 : e.Sound → v2.Bounded) (h3 : e.Sound → Tbl.wf 0 v6.bytes = true) (h4 : e.Sound → ∀ c ∈ v6.bytes, c.2 < 256) (h5 : e.Sound → v7.buf.length ≤ 1024) (h6 : e.Sound → Tbl.wf 0 v10.a = true) (h7 : e.Sound → Tbl.wf 0 v10.b = true) (h8 : e.Sound → Tbl.wf 0 v15.scr = true) (h9 : e.Sound → Tbl.wf {} v16.die = true) (h10 : e.Sound → ∀ m, (Tbl.look {} v16.die m).Canonical) :
    Keeps e { e with regs := v0, a := v1, b := v2, tether := v3, launch := v4, gpio := v5, keel := v6, log := v7, cores := v8, sems := v9, images := v10, pmc := v11, bst := v12, dbg := v13, gon := v14, cache := v15, media := v16, tracts := v17 } :=
  ⟨fun x => ⟨h0 x, h3 x, h4 x, h6 x, h7 x, h9 x, h10 x, h8 x, h5 x, x.held, h1 x, h2 x⟩⟩

theorem Keeps.put_regs_a_b_tether_launch_gpio_keel_log_cores_sems_images_pmc_bst_dbg_gon_cache_media_tracts_drift {e : Dev} {v0} {v1} {v2} {v3} {v4} {v5} {v6} {v7} {v8} {v9} {v10} {v11} {v12} {v13} {v14} {v15} {v16} {v17} {v18} (h0 : e.Sound → Tbl.wf none v0 = true) (h1 : e.Sound → v1.Bounded) (h2 : e.Sound → v2.Bounded) (h3 : e.Sound → Tbl.wf 0 v6.bytes = true) (h4 : e.Sound → ∀ c ∈ v6.bytes, c.2 < 256) (h5 : e.Sound → v7.buf.length ≤ 1024) (h6 : e.Sound → Tbl.wf 0 v10.a = true) (h7 : e.Sound → Tbl.wf 0 v10.b = true) (h8 : e.Sound → Tbl.wf 0 v15.scr = true) (h9 : e.Sound → Tbl.wf {} v16.die = true) (h10 : e.Sound → ∀ m, (Tbl.look {} v16.die m).Canonical) :
    Keeps e { e with regs := v0, a := v1, b := v2, tether := v3, launch := v4, gpio := v5, keel := v6, log := v7, cores := v8, sems := v9, images := v10, pmc := v11, bst := v12, dbg := v13, gon := v14, cache := v15, media := v16, tracts := v17, drift := v18 } :=
  ⟨fun x => ⟨h0 x, h3 x, h4 x, h6 x, h7 x, h9 x, h10 x, h8 x, h5 x, x.held, h1 x, h2 x⟩⟩

theorem Keeps.put_regs_a_b_tether_launch_gpio_keel_log_cores_sems_images_pmc_bst_dbg_gon_cache_media_tracts_drift_sec {e : Dev} {v0} {v1} {v2} {v3} {v4} {v5} {v6} {v7} {v8} {v9} {v10} {v11} {v12} {v13} {v14} {v15} {v16} {v17} {v18} {v19} (h0 : e.Sound → Tbl.wf none v0 = true) (h1 : e.Sound → v1.Bounded) (h2 : e.Sound → v2.Bounded) (h3 : e.Sound → Tbl.wf 0 v6.bytes = true) (h4 : e.Sound → ∀ c ∈ v6.bytes, c.2 < 256) (h5 : e.Sound → v7.buf.length ≤ 1024) (h6 : e.Sound → Tbl.wf 0 v10.a = true) (h7 : e.Sound → Tbl.wf 0 v10.b = true) (h8 : e.Sound → Tbl.wf 0 v15.scr = true) (h9 : e.Sound → Tbl.wf {} v16.die = true) (h10 : e.Sound → ∀ m, (Tbl.look {} v16.die m).Canonical) :
    Keeps e { e with regs := v0, a := v1, b := v2, tether := v3, launch := v4, gpio := v5, keel := v6, log := v7, cores := v8, sems := v9, images := v10, pmc := v11, bst := v12, dbg := v13, gon := v14, cache := v15, media := v16, tracts := v17, drift := v18, sec := v19 } :=
  ⟨fun x => ⟨h0 x, h3 x, h4 x, h6 x, h7 x, h9 x, h10 x, h8 x, h5 x, x.held, h1 x, h2 x⟩⟩

theorem Keeps.put_regs_a_b_tether_launch_gpio_keel_log_cores_sems_images_pmc_bst_dbg_gon_cache_media_tracts_drift_sec_str {e : Dev} {v0} {v1} {v2} {v3} {v4} {v5} {v6} {v7} {v8} {v9} {v10} {v11} {v12} {v13} {v14} {v15} {v16} {v17} {v18} {v19} {v20} (h0 : e.Sound → Tbl.wf none v0 = true) (h1 : e.Sound → v1.Bounded) (h2 : e.Sound → v2.Bounded) (h3 : e.Sound → Tbl.wf 0 v6.bytes = true) (h4 : e.Sound → ∀ c ∈ v6.bytes, c.2 < 256) (h5 : e.Sound → v7.buf.length ≤ 1024) (h6 : e.Sound → Tbl.wf 0 v10.a = true) (h7 : e.Sound → Tbl.wf 0 v10.b = true) (h8 : e.Sound → Tbl.wf 0 v15.scr = true) (h9 : e.Sound → Tbl.wf {} v16.die = true) (h10 : e.Sound → ∀ m, (Tbl.look {} v16.die m).Canonical) :
    Keeps e { e with regs := v0, a := v1, b := v2, tether := v3, launch := v4, gpio := v5, keel := v6, log := v7, cores := v8, sems := v9, images := v10, pmc := v11, bst := v12, dbg := v13, gon := v14, cache := v15, media := v16, tracts := v17, drift := v18, sec := v19, str := v20 } :=
  ⟨fun x => ⟨h0 x, h3 x, h4 x, h6 x, h7 x, h9 x, h10 x, h8 x, h5 x, x.held, h1 x, h2 x⟩⟩

theorem Keeps.put_regs_a_b_tether_launch_gpio_keel_log_cores_sems_images_pmc_bst_dbg_gon_cache_media_tracts_drift_sec_str_lci {e : Dev} {v0} {v1} {v2} {v3} {v4} {v5} {v6} {v7} {v8} {v9} {v10} {v11} {v12} {v13} {v14} {v15} {v16} {v17} {v18} {v19} {v20} {v21} (h0 : e.Sound → Tbl.wf none v0 = true) (h1 : e.Sound → v1.Bounded) (h2 : e.Sound → v2.Bounded) (h3 : e.Sound → Tbl.wf 0 v6.bytes = true) (h4 : e.Sound → ∀ c ∈ v6.bytes, c.2 < 256) (h5 : e.Sound → v7.buf.length ≤ 1024) (h6 : e.Sound → Tbl.wf 0 v10.a = true) (h7 : e.Sound → Tbl.wf 0 v10.b = true) (h8 : e.Sound → Tbl.wf 0 v15.scr = true) (h9 : e.Sound → Tbl.wf {} v16.die = true) (h10 : e.Sound → ∀ m, (Tbl.look {} v16.die m).Canonical) :
    Keeps e { e with regs := v0, a := v1, b := v2, tether := v3, launch := v4, gpio := v5, keel := v6, log := v7, cores := v8, sems := v9, images := v10, pmc := v11, bst := v12, dbg := v13, gon := v14, cache := v15, media := v16, tracts := v17, drift := v18, sec := v19, str := v20, lci := v21 } :=
  ⟨fun x => ⟨h0 x, h3 x, h4 x, h6 x, h7 x, h9 x, h10 x, h8 x, h5 x, x.held, h1 x, h2 x⟩⟩

theorem Keeps.put_regs_a_b_tether_launch_gpio_keel_log_cores_sems_images_pmc_bst_dbg_gon_cache_media_tracts_drift_sec_str_lci_therm {e : Dev} {v0} {v1} {v2} {v3} {v4} {v5} {v6} {v7} {v8} {v9} {v10} {v11} {v12} {v13} {v14} {v15} {v16} {v17} {v18} {v19} {v20} {v21} {v22} (h0 : e.Sound → Tbl.wf none v0 = true) (h1 : e.Sound → v1.Bounded) (h2 : e.Sound → v2.Bounded) (h3 : e.Sound → Tbl.wf 0 v6.bytes = true) (h4 : e.Sound → ∀ c ∈ v6.bytes, c.2 < 256) (h5 : e.Sound → v7.buf.length ≤ 1024) (h6 : e.Sound → Tbl.wf 0 v10.a = true) (h7 : e.Sound → Tbl.wf 0 v10.b = true) (h8 : e.Sound → Tbl.wf 0 v15.scr = true) (h9 : e.Sound → Tbl.wf {} v16.die = true) (h10 : e.Sound → ∀ m, (Tbl.look {} v16.die m).Canonical) :
    Keeps e { e with regs := v0, a := v1, b := v2, tether := v3, launch := v4, gpio := v5, keel := v6, log := v7, cores := v8, sems := v9, images := v10, pmc := v11, bst := v12, dbg := v13, gon := v14, cache := v15, media := v16, tracts := v17, drift := v18, sec := v19, str := v20, lci := v21, therm := v22 } :=
  ⟨fun x => ⟨h0 x, h3 x, h4 x, h6 x, h7 x, h9 x, h10 x, h8 x, h5 x, x.held, h1 x, h2 x⟩⟩

theorem Keeps.put_regs_pmc {e : Dev} {v0} {v1} (h0 : e.Sound → Tbl.wf none v0 = true) :
    Keeps e { e with regs := v0, pmc := v1 } :=
  ⟨fun x => ⟨h0 x, x.keel, x.keelByte, x.norA, x.norB, x.table, x.dies, x.scratch, x.log, x.held, x.headA, x.headB⟩⟩

theorem Keeps.put_tether_keel {e : Dev} {v0} {v1} (h0 : e.Sound → Tbl.wf 0 v1.bytes = true) (h1 : e.Sound → ∀ c ∈ v1.bytes, c.2 < 256) :
    Keeps e { e with tether := v0, keel := v1 } :=
  ⟨fun x => ⟨x.regs, h0 x, h1 x, x.norA, x.norB, x.table, x.dies, x.scratch, x.log, x.held, x.headA, x.headB⟩⟩

theorem Keeps.put_tether_media {e : Dev} {v0} {v1} (h0 : e.Sound → Tbl.wf {} v1.die = true) (h1 : e.Sound → ∀ m, (Tbl.look {} v1.die m).Canonical) :
    Keeps e { e with tether := v0, media := v1 } :=
  ⟨fun x => ⟨x.regs, x.keel, x.keelByte, x.norA, x.norB, h0 x, h1 x, x.scratch, x.log, x.held, x.headA, x.headB⟩⟩

/-- The outcome is a next state that is sound if the state was. -/
def KeepsNext (s : State) (o : Host.Outcome State Fault Refusal) : Prop := ∃ e, o = .next { s with dev := e } ∧ Keeps s.dev e

theorem KeepsNext.next {s : State} {e : Dev} (h : Keeps s.dev e) : KeepsNext s (.next { s with dev := e }) := ⟨e, rfl, h⟩

theorem KeepsNext.same (s : State) : KeepsNext s (.next s) := ⟨s.dev, rfl, Keeps.refl _⟩

theorem KeepsNext.of {l : List Part} {s : State} {o : Host.Outcome State Fault Refusal} (h : Frames l s o)
    (k : ∀ p ∈ soundParts, p ∉ l) : KeepsNext s o := h.elim fun e q => ⟨e, q.1, Keeps.of q.2 k⟩

namespace Machine

theorem Dev.Sound.head {d : Dev} (x : d.Sound) (h : Head) : (d.head h).Bounded := by cases h; exacts [x.headA, x.headB]

theorem Dev.setHead_keeps {d : Dev} {h : Head} {x : HeadState} (hx : d.Sound → x.Bounded) : Keeps d (d.setHead h x) := by
  cases h
  · exact Keeps.put_a hx
  · exact Keeps.put_b hx

theorem Dev.setCache_keeps {d : Dev} {c : Cache} (hc : d.Sound → Tbl.wf 0 c.scr = true) : Keeps d (d.setCache c) := Keeps.put_cache hc

theorem Keeps.scratch {d e : Dev} {c : Cache} (h : Keeps d e) (hc : d.Sound → Tbl.wf 0 c.scr = true) : Keeps d (e.setCache c) :=
  ⟨fun s => (Dev.setCache_keeps fun _ => hc s).sound (h.sound s)⟩

theorem Dev.setDie_keeps {d : Dev} {m : Nat} {x : Die} (hx : d.Sound → x.Canonical) : Keeps d (d.setDie m x) := by
  refine Keeps.put_media (fun s => Tbl.put_wf _ _ _ _ s.table) (fun s k => ?_)
  rw [Tbl.look_put]
  split
  · exact hx s
  · exact s.dies k

theorem Die.canonical_default : Die.Canonical {} := ⟨rfl, fun _ => rfl⟩

/-- A page written keeps the cells canonical. -/
theorem Die.put_canonical {x : Die} {pa : Nat} {p : Page} (h : x.Canonical) (hp : Tbl.wf 0 p.slots = true) :
    Die.Canonical { x with pages := Tbl.put {} x.pages pa p } := by
  refine ⟨Tbl.put_wf _ _ _ _ h.pages, fun k => ?_⟩
  rw [Tbl.look_put]
  split
  · exact hp
  · exact h.slots k

theorem Die.upd_canonical {x : Die} {pa : Nat} {f : Page → Page} (h : x.Canonical)
    (hf : ∀ p : Page, Tbl.wf 0 p.slots = true → Tbl.wf 0 (f p).slots = true) : Die.Canonical { x with pages := Tbl.upd {} x.pages pa f } := by
  refine ⟨Tbl.upd_wf _ _ _ _ h.pages, fun k => ?_⟩
  rw [Tbl.look_upd]
  split
  · exact hf _ (h.slots pa)
  · exact h.slots k

theorem Die.program_canonical {x : Die} {b : BufEntry} {mode : ProgMode} {ok : Bool} (h : x.Canonical) : (x.program b mode ok).Canonical := by
  have hp : ∀ l : List (MediaLine × Nat), Tbl.wf 0 (l.foldl (fun t e => Tbl.put 0 t e.2 e.1) ([] : Tbl MediaLine)) = true :=
    fun l => Tbl.foldl_put_wf l _ rfl
  have h1 : ∀ pg : Page, Tbl.wf 0 pg.slots = true → Die.Canonical { x with pages := Tbl.put {} x.pages b.pa pg } := fun pg q => Die.put_canonical h q
  unfold Die.program
  extract_lets sl pg o ps
  have h2 := h1 pg (hp _)
  split
  · exact Die.put_canonical (x := { x with pages := ps }) h2 (h.slots _)
  · exact h2

theorem Die.abandon_canonical {x : Die} {p : Option Prog} (h : x.Canonical) : (x.abandon p).Canonical := by
  unfold Die.abandon
  split
  · exact h
  · rename_i r
    generalize x.entries r.buf r.last = l
    revert h
    induction l generalizing x with
    | nil => exact id
    | cons e l ih =>
      intro hy
      rw [List.foldl_cons]
      refine ih ?_
      rcases e with _ | b
      · exact hy
      · have h2 : Die.Canonical { x with pages := Tbl.upd {} x.pages b.pa fun g =>
            { g with programmed := true, undef := true, slc := decide (r.mode = .slc) } } := Die.upd_canonical hy fun _ q => q
        dsimp only
        split
        · exact Die.put_canonical h2 (hy.slots _)
        · exact h2

theorem Die.reset_canonical {x : Die} (h : x.Canonical) : x.reset.Canonical := by
  have := Die.abandon_canonical (p := (x.abandon x.running).queued) (Die.abandon_canonical (p := x.running) h)
  have h2 := Die.abandon_canonical (p := x.queued) (Die.abandon_canonical (p := x.running) h)
  unfold Die.reset
  exact ⟨h2.pages, h2.slots⟩

/-- A frame leaves the cells of the die that took it, or not, canonical. -/
theorem dieTake_canonical (x : Die) (now fresh : Nat) (f : Frame) (w : Nat) (h : x.Canonical) : (dieTake x now fresh f w).die.Canonical := by
  have same : ∀ y : Die, y.pages = x.pages → y.Canonical := fun y e => ⟨e ▸ h.pages, e ▸ h.slots⟩
  have hno : ∀ y : Die, y.pages = x.pages → (dieNo y).die.Canonical := fun y e => same _ e
  have ex : ∀ y : Die, y.pages = x.pages → ∀ p, (dieExec y now fresh f p).die.Canonical := by
    intro y e p
    have hy := same y e
    have hr : ∀ pa trc b, (dieRead y now pa trc b).die.Canonical := by
      intro pa trc b
      unfold dieRead
      split
      · exact hno _ e
      · split
        · exact hno _ e
        · exact same _ e
    have hg : ∀ mode b l, (dieProg y now mode b l).die.Canonical := by
      intro mode b l
      unfold dieProg
      split
      · exact hno _ e
      · split <;> exact same _ e
    have hl : ∀ pa en b, (dieLoad y f pa en b).die.Canonical := by
      intro pa en b
      unfold dieLoad
      dsimp only
      split
      · exact hno _ e
      · split <;> exact same _ e
    have hn : ∀ z : DieAns, z.die.pages = x.pages → (if y.busy then dieNo y else z).die.Canonical := by
      intro z q
      split
      · exact hno _ e
      · exact same _ q
    unfold dieExec
    extract_lets pa mode no
    split
    · exact hr ..
    · exact hr ..
    · exact hr ..
    · exact hr ..
    · exact hl ..
    · exact hg ..
    · exact hg ..
    · exact same _ e
    · exact same _ e
    · exact hn _ e
    · exact hn _ (by unfold Die.setFeature; split <;> exact e)
    · exact hy
    · exact hn _ e
    · exact hn _ e
    · exact hn _ e
    · exact hn _ e
    · exact hn _ e
    · exact same _ e
    · exact Die.reset_canonical hy
    · exact hy
  unfold dieTake
  split
  · exact same _ rfl
  · split
    · split
      · exact h
      · exact hno _ rfl
    · extract_lets op
      split
      · exact h
      · split
        · exact h
        · exact ex { x with echo := false } rfl _

theorem keelPoke_wf (t : Tbl Nat) (page off : Nat) (l : List Nat) (h : Tbl.wf 0 t = true) : Tbl.wf 0 (keelPoke t page off l) = true := by
  induction l generalizing t off with
  | nil => exact h
  | cons b r ih => exact ih _ _ (Tbl.put_wf _ _ _ _ h)

theorem keelPoke_byte (t : Tbl Nat) (page off : Nat) (l : List Nat) (h : ∀ e ∈ t, e.2 < 256) : ∀ e ∈ keelPoke t page off l, e.2 < 256 := by
  induction l generalizing t off with
  | nil => exact h
  | cons b r ih =>
    refine ih _ _ fun e he => ?_
    rcases Tbl.ins_mem _ _ _ _ e he with h' | ⟨rfl, -⟩
    · exact h e (List.mem_filter.mp h').1
    · exact Nat.mod_lt _ (by decide)

/-- What a flush leaves of the records is no more than there were. -/
theorem logSplit_rest (F : Fuses) (next fuel : Nat) (l : List LogRec) : (logSplit F next fuel l).2.length ≤ l.length := by
  induction fuel generalizing l with
  | zero => exact Nat.le_refl _
  | succ n ih =>
    unfold logSplit
    split
    · exact Nat.le_refl _
    · split
      · dsimp only
        split
        · exact Nat.le_refl _
        · exact Nat.le_trans (ih _) (List.length_filter_le _ _)

theorem keelPeek_byte (t : Tbl Nat) (page off n : Nat) (h : ∀ e ∈ t, e.2 < 256) : ∀ b ∈ keelPeek t page off n, b < 256 := by
  induction n generalizing off with
  | zero => intro b hb; cases hb
  | succ n ih =>
    intro b hb
    rcases List.mem_cons.mp hb with rfl | hb
    · exact Tbl.look_prop (P := fun b => b < 256) _ _ (by decide) h _
    · exact ih _ b hb

/-- The records that the staging record holds: at most 255. -/
theorem scanLog_bound (F : Fuses) (d : Dev) (h : ∀ e ∈ d.keel.bytes, e.2 < 256) : (scanLog F d).buf.length ≤ 1024 := by
  have hn : ∀ (l : List (List Nat)) b, newestOf l = some b → b ∈ l := by
    have gen : ∀ (l : List (List Nat)) acc b, l.foldl (fun acc b => match acc with
        | none => some b
        | some a => if newer (leNat (b.take 4)) (leNat (a.take 4)) then some b else some a) acc = some b → b ∈ l ∨ acc = some b := by
      intro l
      induction l with
      | nil => intro acc b e; exact .inr e
      | cons x l ih =>
        intro acc b e
        rcases ih _ b e with m | m
        · exact .inl (List.mem_cons_of_mem _ m)
        · rcases acc with _ | a
          · cases m; exact .inl List.mem_cons_self
          · dsimp only at m
            split at m
            · cases m; exact .inl List.mem_cons_self
            · exact .inr m
    intro l b e
    rcases gen l none b e with m | m
    · exact m
    · cases m
  have hb : ∀ b, d.ringRead .staging = some b → b.getD 5 0 < 256 := by
    intro b e
    have m := (List.mem_filter.mp (hn _ _ e)).1
    have q : ∀ x ∈ b, x < 256 := by
      simp only [List.mem_cons, List.not_mem_nil, or_false] at m
      rcases m with rfl | rfl <;> exact keelPeek_byte _ _ _ _ h
    rcases hx : b[5]? with _ | v
    · simp [List.getD, hx]
    · simp only [List.getD, hx, Option.getD_some]
      exact q v (List.mem_of_getElem? hx)
  unfold scanLog
  dsimp only
  refine Nat.le_trans (List.length_filter_le _ _) ?_
  rcases e : d.ringRead .staging with _ | b
  · simp
  · have := hb b e
    simp only [recsOf, List.length_map, List.length_range]
    omega

theorem Die.setFeature_canonical {x : Die} {a v : Nat} (h : x.Canonical) : (x.setFeature a v).Canonical := by
  unfold Die.setFeature
  split
  · exact h
  · exact ⟨h.pages, h.slots⟩

theorem Die.setThresholds_canonical {x : Die} {b : Bool} {l : List (Nat × List (Int × Nat))} (h : x.Canonical) :
    (x.setThresholds b l).Canonical := by
  unfold Die.setThresholds
  extract_lets base levels have' y
  have hy : y.Canonical := by
    have go : ∀ (ks : List Nat) (z : Die), z.Canonical → (ks.foldl (fun y k => match setOfClass have' k with
        | some s => y.setFeature (base + k) (setValue s s.2)
        | none => y) z).Canonical := by
      intro ks
      induction ks with
      | nil => exact fun _ h => h
      | cons k ks ih =>
        intro z hz
        rw [List.foldl_cons]
        refine ih _ ?_
        split
        · exact Die.setFeature_canonical hz
        · exact hz
    exact go _ _ h
  split
  · exact Die.setFeature_canonical hy
  · exact hy

theorem Die.trained_canonical {x : Die} {trl drive odt : Nat} (h : x.Canonical) : (x.trained trl drive odt).Canonical :=
  Die.setFeature_canonical (Die.setFeature_canonical (Die.setFeature_canonical (Die.setFeature_canonical (Die.setFeature_canonical h))))

theorem Dev.onHalted_keeps (d : Dev) (p : PairId) (f : Dev → Dev) (hf : ∀ e, Keeps e (f e)) : Keeps d (d.onHalted p f) := by
  unfold Dev.onHalted
  exact Keeps.ite (hf _) (Keeps.of (Dev.fxErr_touches ..) (by decide))

theorem viaHead_keeps (F : Fuses) (d : Dev) (h : Head) (f : Dev → Dev) (hf : ∀ e, Keeps e (f e)) : Keeps d (viaHead F d h f) := by
  unfold viaHead
  exact Keeps.ite (hf _) (Keeps.refl _)

end Machine
end Sys2Proof
end

