-- ==== Sys2Proof/Laws/KeepBase.lean ====
section
/-!
SUPPORT. The shared operations keep soundness: registers, events, the Keel store, translation, the store of lines and the clean stores.
-/
namespace Sys2Proof.Machine

theorem Dev.reach_keeps (d) (u) : Keeps d (Dev.reach d u) := by
  unfold Dev.reach
  refine Keeps.ite ?_ ?_
  · refine Keeps.comp (Keeps.of (Touches.put_tether ..) (by decide)) ?_
    exact Keeps.refl _
  · refine Keeps.comp (Keeps.put_tether_media ?_ ?_) ?_
    · exact fun h => h.table
    · exact fun h => h.dies
    exact Keeps.refl _

theorem Dev.setReg_keeps (d) (off) (v) : Keeps d (Dev.setReg d off v) := by
  exact Keeps.put_regs fun s => Tbl.put_wf _ _ _ _ s.regs

theorem Dev.setFld_keeps (d) (off) (hi) (lo) (v) : Keeps d (Dev.setFld d off hi lo v) := by
  unfold Dev.setFld
  refine Keeps.comp (Dev.setReg_keeps ..) ?_
  exact Keeps.refl _

theorem Dev.setRbit_keeps (d) (off) (k) (b) : Keeps d (Dev.setRbit d off k b) := by
  unfold Dev.setRbit
  refine Keeps.comp (Dev.setFld_keeps ..) ?_
  exact Keeps.refl _

theorem Dev.icu_keeps (d) (n) : Keeps d (Dev.icu d n) := by
  unfold Dev.icu
  refine Keeps.ite ?_ ?_
  · exact Keeps.refl _
  · refine Keeps.ite ?_ ?_
    · refine Keeps.comp (Dev.setRbit_keeps ..) ?_
      exact Keeps.refl _
    · refine Keeps.comp (Dev.setRbit_keeps ..) ?_
      exact Keeps.refl _

theorem Dev.addCnt_keeps (d) (i) (n) : Keeps d (Dev.addCnt d i n) := by
  unfold Dev.addCnt
  conv => zeta
  refine Keeps.ite ?_ ?_
  · refine Keeps.comp (Dev.icu_keeps ..) ?_
    refine Keeps.comp (Keeps.of (Touches.put_pmc ..) (by decide)) ?_
    exact Keeps.refl _
  · refine Keeps.comp (Keeps.of (Touches.put_pmc ..) (by decide)) ?_
    exact Keeps.refl _

theorem Dev.countAt_keeps (d) (ev) (n) (head) : Keeps d (Dev.countAt d ev n head) := by
  unfold Dev.countAt
  refine Keeps.foldl (fun _ _ => ?_) ?_
  · refine Keeps.comp (Dev.addCnt_keeps ..) ?_
    exact Keeps.refl _
  · exact Keeps.refl _

theorem Dev.count_keeps (d) (ev) (n) : Keeps d (Dev.count d ev n) := by
  unfold Dev.count
  refine Keeps.comp (Dev.countAt_keeps ..) ?_
  exact Keeps.refl _

theorem Dev.countH_keeps (d) (ev) (h) (n) : Keeps d (Dev.countH d ev h n) := by
  unfold Dev.countH
  refine Keeps.comp (Dev.countAt_keeps ..) ?_
  exact Keeps.refl _

theorem Dev.passed_keeps (x0) (x1) (x2) : Keeps x0 (Dev.passed x0 x1 x2) := by
  unfold Dev.passed
  refine Keeps.ite (Keeps.refl _) ?_
  extract_lets on up withheld d1
  have hon : ∀ b ev (d : Dev), Keeps d (on b ev d) := fun b ev d => Keeps.ite (Dev.count_keeps ..) (Keeps.refl _)
  have hw : ∀ h (d : Dev), Keeps d (withheld h d) := fun h d =>
    Keeps.ite (Keeps.comp (Dev.countH_keeps ..) (Keeps.ite (Dev.countH_keeps ..) (Keeps.refl _)))
      (Keeps.ite (Dev.countH_keeps ..) (Keeps.refl _))
  have h1 : Keeps x0 d1 := Keeps.comp (Dev.count_keeps ..) (Dev.count_keeps ..)
  iterate 5 refine Keeps.comp (hon ..) ?_
  exact Keeps.comp (hw ..) (Keeps.comp (hw ..) h1)

theorem Dev.advance_keeps (d) (t) : Keeps d (Dev.advance d t) := by
  unfold Dev.advance
  conv => zeta
  refine Keeps.ite ?_ ?_
  · exact Keeps.refl _
  · refine Keeps.comp (Dev.reach_keeps ..) ?_
    refine Keeps.comp (Dev.passed_keeps ..) ?_
    exact Keeps.refl _

theorem Dev.tick_keeps (d) (id) (p) : Keeps d (Dev.tick d id p) := by
  unfold Dev.tick
  refine Keeps.comp (Keeps.of (Touches.put_tether ..) (by decide)) ?_
  refine Keeps.comp (Dev.advance_keeps ..) ?_
  exact Keeps.refl _

theorem Dev.setChan_keeps (d) (n) (x) : Keeps d (Dev.setChan d n x) := by
  unfold Dev.setChan
  refine Keeps.comp (Keeps.put_media ?_ ?_) ?_
  · exact fun h => h.table
  · exact fun h => h.dies
  exact Keeps.refl _

theorem Dev.setGrp_keeps (d) (g) (x) : Keeps d (Dev.setGrp d g x) := by
  unfold Dev.setGrp
  refine Keeps.comp (Keeps.put_media ?_ ?_) ?_
  · exact fun h => h.table
  · exact fun h => h.dies
  exact Keeps.refl _

theorem Dev.setCtl_keeps (d) (m) (x) : Keeps d (Dev.setCtl d m x) := by
  unfold Dev.setCtl
  refine Keeps.comp (Keeps.put_media ?_ ?_) ?_
  · exact fun h => h.table
  · exact fun h => h.dies
  exact Keeps.refl _

theorem Dev.restoreCfg_keeps (d) : Keeps d (Dev.restoreCfg d) := by
  unfold Dev.restoreCfg
  refine Keeps.foldl (fun _ _ => ?_) ?_
  · split
    · refine Keeps.comp (Dev.setReg_keeps ..) ?_
      exact Keeps.refl _
    · exact Keeps.refl _
  · exact Keeps.refl _

theorem Dev.keelPut_keeps (d) (w) : Keeps d (Dev.keelPut d w) := by
  unfold Dev.keelPut
  refine Keeps.comp (Keeps.put_keel ?_ ?_) ?_
  · exact fun h => h.keel
  · exact fun h => h.keelByte
  exact Keeps.refl _

theorem Dev.logPush_keeps (d) (code) (arg) (tether) : Keeps d (Dev.logPush d code arg tether) := by
  unfold Dev.logPush
  extract_lets l r d1
  split
  · exact Keeps.put_log fun h => h.log
  · rename_i hl
    have h1 : Keeps d d1 := Keeps.put_log fun _ => by simp only [List.length_append, List.length_singleton]; omega
    exact Keeps.ite ((Dev.icu_keeps ..).comp h1) h1

theorem Dev.rateEnd_keeps (d) : Keeps d (Dev.rateEnd d) := by
  unfold Dev.rateEnd
  refine Keeps.comp (Keeps.put_log ?_) ?_
  · exact fun h => h.log
  refine Keeps.ite ?_ ?_
  · refine Keeps.foldl (fun _ _ => ?_) ?_
    · refine Keeps.comp (Dev.logPush_keeps ..) ?_
      exact Keeps.refl _
    · exact Keeps.refl _
  · refine Keeps.comp (Dev.logPush_keeps ..) ?_
    refine Keeps.foldl (fun _ _ => ?_) ?_
    · refine Keeps.comp (Dev.logPush_keeps ..) ?_
      exact Keeps.refl _
    · exact Keeps.refl _

theorem Dev.recordIn_keeps (F) (d) (code) (arg) (tether) : Keeps d (Dev.recordIn F d code arg tether) := by
  unfold Dev.recordIn
  split
  · extract_lets d1 n
    have h1 : Keeps d d1 := Keeps.ite (Keeps.refl _) (Dev.rateEnd_keeps ..)
    refine Keeps.ite ?_ ?_
    · exact Keeps.comp (Keeps.put_log fun h => h.log) h1
    · exact Keeps.comp (Dev.logPush_keeps ..) (Keeps.comp (Keeps.put_log fun h => h.log) h1)
  · refine Keeps.ite (Keeps.put_log fun h => ?_) (Dev.logPush_keeps ..)
    have hb := h.log
    unfold mergeLast
    rcases hg : d.log.buf.getLast? with _ | r
    · exact hb
    · have hn : d.log.buf ≠ [] := by rintro e; rw [e] at hg; cases hg
      have := List.length_pos_iff.mpr hn
      simp only [List.length_append, List.length_dropLast, List.length_singleton]
      omega

theorem Dev.event_keeps (F) (d) (code) (arg) : Keeps d (Dev.event F d code arg) := by
  unfold Dev.event
  split
  · exact Dev.recordIn_keeps ..
  · split
    · exact Keeps.put_aon fun h => by simp only [List.length_append, List.length_singleton]; omega
    · exact Keeps.put_aon fun h => h.held

theorem Dev.ringPut_keeps (d) (r) (body) (owner) : Keeps d (Dev.ringPut d r body owner) := by
  unfold Dev.ringPut
  refine Keeps.comp (Dev.keelPut_keeps ..) ?_
  refine Keeps.comp (Keeps.put_keel ?_ ?_) ?_
  · exact fun h => h.keel
  · exact fun h => h.keelByte
  exact Keeps.refl _

theorem Dev.lifePut_keeps (d) : Keeps d (Dev.lifePut d) := by
  unfold Dev.lifePut
  refine Keeps.comp (Keeps.put_tether_keel ?_ ?_) ?_
  · exact fun h => h.keel
  · exact fun h => h.keelByte
  refine Keeps.comp (Dev.ringPut_keeps ..) ?_
  exact Keeps.refl _

theorem Dev.flushLog_keeps (F) (d) : Keeps d (Dev.flushLog F d) := by
  unfold Dev.flushLog
  split
  rename_i ps rest hq
  extract_lets d1 d2 n src d3
  have h1 : Keeps d d1 := Keeps.foldl (fun _ _ => Dev.keelPut_keeps ..) (Keeps.refl _)
  have h2 : Keeps d d2 := Keeps.ite h1 (Keeps.comp (Dev.ringPut_keeps ..) h1)
  have h3 : Keeps d d3 := ⟨fun s => by
    have hr := logSplit_rest F d.log.next d.log.buf.length d.log.buf
    rw [hq] at hr
    replace hr : rest.length ≤ d.log.buf.length := hr
    have := s.log
    exact (Keeps.put_log (e := d2) (v0 := d3.log) fun _ => by show rest.length ≤ 1024; omega).sound (h2.sound s)⟩
  exact Keeps.ite h3 (Keeps.comp (Dev.logPush_keeps ..) h3)

theorem Dev.forceFlush_keeps (F) (d) : Keeps d (Dev.forceFlush F d) := by
  unfold Dev.forceFlush
  refine Keeps.comp (Dev.flushLog_keeps ..) ?_
  refine Keeps.comp (Keeps.put_log ?_) ?_
  · exact fun h => h.log
  exact Keeps.refl _

theorem Dev.msixSend_keeps (d) (h) (vec) : Keeps d (Dev.msixSend d h vec) := by
  unfold Dev.msixSend
  refine Keeps.ite ?_ ?_
  · refine Keeps.comp (Keeps.of (Dev.msixOut_touches ..) (by decide)) ?_
    exact Keeps.refl _
  · refine Keeps.comp (Dev.setRbit_keeps ..) ?_
    exact Keeps.refl _

theorem Dev.notice_keeps (F) (d) : Keeps d (Dev.notice F d) := by
  unfold Dev.notice
  conv => zeta
  refine Keeps.foldl (fun _ _ => ?_) ?_
  · refine Keeps.ite ?_ ?_
    · refine Keeps.comp (Dev.msixSend_keeps ..) ?_
      exact Keeps.refl _
    · exact Keeps.refl _
  · exact Keeps.refl _

theorem Dev.thaw_keeps (F) (d) : Keeps d (Dev.thaw F d) := by
  unfold Dev.thaw
  conv => zeta
  refine Keeps.ite ?_ ?_
  · refine Keeps.ite ?_ ?_
    · refine Keeps.comp (Dev.flushLog_keeps ..) ?_
      refine Keeps.comp (Keeps.put_log ?_) ?_
      · exact fun h => h.log
      exact Keeps.refl _
    · refine Keeps.comp (Keeps.put_log ?_) ?_
      · exact fun h => h.log
      exact Keeps.refl _
  · exact Keeps.refl _

theorem Dev.setSvc_keeps (F) (d) (v) : Keeps d (Dev.setSvc F d v) := by
  unfold Dev.setSvc
  conv => zeta
  refine Keeps.ite ?_ ?_
  · exact Keeps.refl _
  · refine Keeps.ite ?_ ?_
    · refine Keeps.comp (Dev.notice_keeps ..) ?_
      refine Keeps.comp (Keeps.of (Touches.put_pwr ..) (by decide)) ?_
      exact Keeps.refl _
    · refine Keeps.comp (Dev.thaw_keeps ..) ?_
      refine Keeps.comp (Dev.notice_keeps ..) ?_
      refine Keeps.comp (Keeps.of (Touches.put_pwr ..) (by decide)) ?_
      exact Keeps.refl _

theorem Dev.bump_keeps (d) (off) (n) : Keeps d (Dev.bump d off n) := by
  unfold Dev.bump
  refine Keeps.comp (Dev.setReg_keeps ..) ?_
  exact Keeps.refl _

theorem Dev.migAbort_keeps (d) (x) : Keeps d (Dev.migAbort d x) := by
  unfold Dev.migAbort
  refine Keeps.comp (Dev.bump_keeps ..) ?_
  refine Keeps.comp (Keeps.of (Dev.migQueue_touches ..) (by decide)) ?_
  refine Keeps.comp (Keeps.of (Dev.dropTarget_touches ..) (by decide)) ?_
  refine Keeps.comp (Keeps.put_media_tracts ?_ ?_) ?_
  · exact fun h => h.table
  · exact fun h => h.dies
  exact Keeps.refl _

theorem Dev.badTarget_keeps (d) (m) : Keeps d (Dev.badTarget d m) := by
  unfold Dev.badTarget
  refine Keeps.comp (Keeps.of (Dev.mapPhys_touches ..) (by decide)) ?_
  refine Keeps.comp (Dev.migAbort_keeps ..) ?_
  exact Keeps.refl _

theorem Dev.post_keeps (d) (h) (n) (k) (arg) : Keeps d (Dev.post d h n k arg) := by
  unfold Dev.post
  extract_lets x d1 i p
  have h1 : Keeps d d1 := Dev.setHead_keeps fun s => by
    have hb := s.head h
    have ha : ∀ l : EvLog, l.recs.length ≤ 64 → (l.add k arg d.tether.now).recs.length ≤ 64 := by
      intro l hl
      unfold EvLog.add
      dsimp only
      split
      · simp only [List.length_append, List.length_singleton]; omega
      · simp only [List.length_append, List.length_drop, List.length_singleton]; omega
    cases n
    · exact ⟨ha _ hb.info, hb.warn, hb.fail, hb.fatal⟩
    · exact ⟨hb.info, ha _ hb.warn, hb.fail, hb.fatal⟩
    · exact ⟨hb.info, hb.warn, ha _ hb.fail, hb.fatal⟩
    · exact ⟨hb.info, hb.warn, hb.fail, ha _ hb.fatal⟩
  exact Keeps.ite (Keeps.comp (Dev.msixSend_keeps ..) h1) h1

theorem Dev.postAll_keeps (F) (d) (n) (k) (arg) : Keeps d (Dev.postAll F d n k arg) := by
  unfold Dev.postAll
  refine Keeps.foldl (fun _ _ => ?_) ?_
  · refine Keeps.comp (Dev.post_keeps ..) ?_
    exact Keeps.refl _
  · exact Keeps.refl _

theorem Dev.memberPut_keeps (d) : Keeps d (Dev.memberPut d) := by
  unfold Dev.memberPut
  refine Keeps.comp (Dev.ringPut_keeps ..) ?_
  exact Keeps.refl _

theorem Dev.groupSettle_keeps (F) (d) (g) : Keeps d (Dev.groupSettle F d g) := by
  unfold Dev.groupSettle
  conv => zeta
  refine Keeps.ite ?_ ?_
  · refine Keeps.comp (Dev.icu_keeps ..) ?_
    refine Keeps.comp (Dev.memberPut_keeps ..) ?_
    refine Keeps.comp (Dev.event_keeps ..) ?_
    refine Keeps.comp (Dev.setGrp_keeps ..) ?_
    exact Keeps.refl _
  · exact Keeps.refl _

theorem Dev.narrowOnce_keeps (F) (d) (g) : Keeps d (Dev.narrowOnce F d g) := by
  unfold Dev.narrowOnce
  conv => zeta
  split
  · exact Keeps.refl _
  · refine Keeps.ite ?_ ?_
    · exact Keeps.refl _
    · refine Keeps.comp (Dev.icu_keeps ..) ?_
      refine Keeps.comp (Dev.postAll_keeps ..) ?_
      refine Keeps.comp (Dev.event_keeps ..) ?_
      refine Keeps.comp (Dev.memberPut_keeps ..) ?_
      refine Keeps.comp (Dev.setGrp_keeps ..) ?_
      refine Keeps.comp (Keeps.of (Touches.put_tracts ..) (by decide)) ?_
      exact Keeps.refl _

theorem Dev.narrowSettle_keeps (F) (d) (g) : Keeps d (Dev.narrowSettle F d g) := by
  unfold Dev.narrowSettle
  refine Keeps.comp (Dev.groupSettle_keeps ..) ?_
  refine Keeps.comp (Dev.narrowOnce_keeps ..) ?_
  refine Keeps.comp (Dev.narrowOnce_keeps ..) ?_
  exact Keeps.refl _

theorem Dev.meet_keeps (d) (q) : Keeps d (Dev.meet d q) := by
  unfold Dev.meet
  refine Keeps.comp (Keeps.put_cache ?_) ?_
  · exact fun h => h.scratch
  exact Keeps.refl _

theorem Dev.windowAbort_keeps (d) (q) : Keeps d (Dev.windowAbort d q) := by
  unfold Dev.windowAbort
  refine Keeps.ite ?_ ?_
  · refine Keeps.comp (Dev.icu_keeps ..) ?_
    refine Keeps.comp (Dev.meet_keeps ..) ?_
    refine Keeps.comp (Keeps.of (Touches.put_tether ..) (by decide)) ?_
    refine Keeps.ite ?_ ?_
    · refine Keeps.comp (Dev.setChan_keeps ..) ?_
      exact Keeps.refl _
    · exact Keeps.refl _
  · exact Keeps.refl _

theorem Dev.unitConsumed_keeps (F) (d) (g) (before) : Keeps d (Dev.unitConsumed F d g before) := by
  unfold Dev.unitConsumed
  refine Keeps.comp (Dev.narrowSettle_keeps ..) ?_
  refine Keeps.comp (Keeps.of (Dev.queueGroup_touches ..) (by decide)) ?_
  refine Keeps.comp (Dev.windowAbort_keeps ..) ?_
  refine Keeps.foldl (fun _ _ => ?_) ?_
  · refine Keeps.comp (Dev.migAbort_keeps ..) ?_
    exact Keeps.refl _
  · refine Keeps.ite ?_ ?_
    · refine Keeps.comp (Dev.postAll_keeps ..) ?_
      refine Keeps.comp (Dev.postAll_keeps ..) ?_
      refine Keeps.ite ?_ ?_
      · exact Keeps.refl _
      · refine Keeps.comp (Dev.event_keeps ..) ?_
        exact Keeps.refl _
    · refine Keeps.comp (Dev.postAll_keeps ..) ?_
      refine Keeps.comp (Dev.postAll_keeps ..) ?_
      refine Keeps.ite ?_ ?_
      · exact Keeps.refl _
      · refine Keeps.comp (Dev.event_keeps ..) ?_
        exact Keeps.refl _

theorem Dev.consume_keeps (F) (d) (m) : Keeps d (Dev.consume F d m) := by
  unfold Dev.consume
  conv => zeta
  refine Keeps.ite ?_ ?_
  · exact Keeps.refl _
  · refine Keeps.comp (Dev.unitConsumed_keeps ..) ?_
    refine Keeps.comp (Keeps.put_media_tracts ?_ ?_) ?_
    · exact fun h => h.table
    · exact fun h => h.dies
    refine Keeps.comp (Dev.setGrp_keeps ..) ?_
    exact Keeps.refl _

theorem Dev.powerDown_keeps (d) (m) : Keeps d (Dev.powerDown d m) := by
  unfold Dev.powerDown
  refine Keeps.ite ?_ ?_
  · exact Keeps.refl _
  · refine Keeps.comp (Dev.setDie_keeps ?_) ?_
    · exact fun h => ⟨(h.dies _).pages, (h.dies _).slots⟩
    exact Keeps.refl _

theorem Dev.declareChan_keeps (F) (d) (n) (cause) : Keeps d (Dev.declareChan F d n cause) := by
  unfold Dev.declareChan
  refine Keeps.ite ?_ ?_
  · exact Keeps.refl _
  · refine Keeps.comp (Dev.icu_keeps ..) ?_
    refine Keeps.comp (Dev.memberPut_keeps ..) ?_
    refine Keeps.foldl (fun _ _ => ?_) ?_
    · refine Keeps.comp (Dev.powerDown_keeps ..) ?_
      refine Keeps.comp (Dev.consume_keeps ..) ?_
      refine Keeps.comp (Dev.setCtl_keeps ..) ?_
      exact Keeps.refl _
    · refine Keeps.comp (Dev.event_keeps ..) ?_
      refine Keeps.comp (Dev.setChan_keeps ..) ?_
      exact Keeps.refl _

theorem Dev.declareDie_keeps (F) (d) (m) (cause) : Keeps d (Dev.declareDie F d m cause) := by
  unfold Dev.declareDie
  refine Keeps.ite ?_ ?_
  · exact Keeps.refl _
  · refine Keeps.comp (Dev.icu_keeps ..) ?_
    refine Keeps.comp (Dev.memberPut_keeps ..) ?_
    refine Keeps.comp (Dev.powerDown_keeps ..) ?_
    refine Keeps.comp (Dev.consume_keeps ..) ?_
    refine Keeps.comp (Dev.event_keeps ..) ?_
    refine Keeps.comp (Dev.setCtl_keeps ..) ?_
    exact Keeps.refl _

theorem Dev.setCmp_keeps (d) (n) (x) : Keeps d (Dev.setCmp d n x) := by
  unfold Dev.setCmp
  refine Keeps.comp (Dev.setCache_keeps ?_) ?_
  · exact fun h => h.scratch
  exact Keeps.refl _

theorem Dev.useCmp_keeps (d) (n) : Keeps d (Dev.useCmp d n) := by
  unfold Dev.useCmp
  refine Keeps.comp (Dev.setCache_keeps ?_) ?_
  · exact fun h => h.scratch
  refine Keeps.comp (Dev.setCmp_keeps ..) ?_
  exact Keeps.refl _

theorem Dev.evict_keeps (d) (s) : Keeps d (Dev.evict d s) := by
  unfold Dev.evict
  refine Keeps.ite ?_ ?_
  · exact Keeps.refl _
  · refine Keeps.comp (Dev.setCache_keeps ?_) ?_
    · exact fun h => h.scratch
    exact Keeps.refl _

theorem Dev.setWay_keeps (d) (set) (w) (x) : Keeps d (Dev.setWay d set w x) := by
  unfold Dev.setWay
  refine Keeps.comp (Dev.setCache_keeps ?_) ?_
  · exact fun h => h.scratch
  exact Keeps.refl _

theorem Dev.takeWay_keeps (d) (s) (w) : Keeps d (Dev.takeWay d s w) := by
  unfold Dev.takeWay
  refine Keeps.comp (Dev.setWay_keeps ..) ?_
  refine Keeps.ite ?_ ?_
  · refine Keeps.comp (Dev.evict_keeps ..) ?_
    exact Keeps.refl _
  · exact Keeps.refl _

theorem Dev.placeSector_keeps (d) (s) : Keeps d (Dev.placeSector d s) := by
  unfold Dev.placeSector
  conv => zeta
  split
  · refine Keeps.comp (Dev.evict_keeps ..) ?_
    exact Keeps.refl _
  · refine Keeps.comp (Dev.takeWay_keeps ..) ?_
    exact Keeps.refl _

theorem Dev.placeCmp_keeps (d) (s) (fill) : Keeps d (Dev.placeCmp d s fill) := by
  unfold Dev.placeCmp
  conv => zeta
  split
  · refine Keeps.comp (Dev.useCmp_keeps ..) ?_
    refine Keeps.comp (Dev.setCmp_keeps ..) ?_
    exact Keeps.refl _
  · refine Keeps.comp (Dev.useCmp_keeps ..) ?_
    refine Keeps.comp (Dev.setCmp_keeps ..) ?_
    refine Keeps.ite ?_ ?_
    · exact Keeps.refl _
    · refine Keeps.comp (Dev.placeSector_keeps ..) ?_
      exact Keeps.refl _
  · exact Keeps.refl _

theorem Dev.allocSector_keeps (d) (sec) : Keeps d (Dev.allocSector d sec) := by
  unfold Dev.allocSector
  refine Keeps.ite ?_ ?_
  · refine Keeps.ite ?_ ?_
    · exact Keeps.refl _
    · refine Keeps.comp (Dev.placeCmp_keeps ..) ?_
      exact Keeps.refl _
  · refine Keeps.ite ?_ ?_
    · exact Keeps.refl _
    · refine Keeps.comp (Dev.placeSector_keeps ..) ?_
      exact Keeps.refl _

theorem Dev.returnSector_keeps (d) (s) : Keeps d (Dev.returnSector d s) := by
  unfold Dev.returnSector
  conv => zeta
  split
  · refine Keeps.comp (Dev.placeSector_keeps ..) ?_
    exact Keeps.refl _
  · refine Keeps.comp (Dev.takeWay_keeps ..) ?_
    exact Keeps.refl _

theorem Dev.touchWay_keeps (d) (set) (w) : Keeps d (Dev.touchWay d set w) := by
  unfold Dev.touchWay
  conv => zeta
  refine Keeps.ite ?_ ?_
  · refine Keeps.foldl (fun _ _ => ?_) ?_
    · refine Keeps.ite ?_ ?_
      · exact Keeps.refl _
      · refine Keeps.comp (Dev.setWay_keeps ..) ?_
        exact Keeps.refl _
    · refine Keeps.comp (Dev.setWay_keeps ..) ?_
      exact Keeps.refl _
  · refine Keeps.comp (Dev.setWay_keeps ..) ?_
    exact Keeps.refl _

theorem Dev.recall_keeps (d) (hit) (s) (line) : Keeps d (Dev.recall d hit s line) := by
  unfold Dev.recall
  conv => zeta
  split
  · refine Keeps.comp (Dev.useCmp_keeps ..) ?_
    exact Keeps.refl _
  · refine Keeps.ite ?_ ?_
    · refine Keeps.comp (Dev.placeCmp_keeps ..) ?_
      refine Keeps.comp (Dev.setWay_keeps ..) ?_
      exact Keeps.refl _
    · refine Keeps.ite ?_ ?_
      · refine Keeps.comp (Dev.touchWay_keeps ..) ?_
        exact Keeps.refl _
      · exact Keeps.refl _
  · refine Keeps.ite ?_ ?_
    · refine Keeps.comp (Dev.placeCmp_keeps ..) ?_
      refine Keeps.comp (Dev.setCache_keeps ?_) ?_
      · exact fun h => h.scratch
      exact Keeps.refl _
    · split
      · refine Keeps.comp (Dev.touchWay_keeps ..) ?_
        refine Keeps.comp (Dev.returnSector_keeps ..) ?_
        refine Keeps.comp (Dev.setCache_keeps ?_) ?_
        · exact fun h => h.scratch
        exact Keeps.refl _
      · refine Keeps.comp (Dev.returnSector_keeps ..) ?_
        refine Keeps.comp (Dev.setCache_keeps ?_) ?_
        · exact fun h => h.scratch
        exact Keeps.refl _
  · refine Keeps.ite ?_ ?_
    · refine Keeps.comp (Dev.placeCmp_keeps ..) ?_
      refine Keeps.comp (Dev.setCache_keeps ?_) ?_
      · exact fun h => h.scratch
      exact Keeps.refl _
    · split
      · refine Keeps.comp (Dev.touchWay_keeps ..) ?_
        refine Keeps.comp (Dev.returnSector_keeps ..) ?_
        refine Keeps.comp (Dev.setCache_keeps ?_) ?_
        · exact fun h => h.scratch
        exact Keeps.refl _
      · refine Keeps.comp (Dev.returnSector_keeps ..) ?_
        refine Keeps.comp (Dev.setCache_keeps ?_) ?_
        · exact fun h => h.scratch
        exact Keeps.refl _

theorem Dev.bring_keeps (d) (line) : Keeps d (Dev.bring d line) := by
  unfold Dev.bring
  split
  · refine Keeps.comp (Dev.recall_keeps ..) ?_
    exact Keeps.refl _
  · refine Keeps.comp (Dev.allocSector_keeps ..) ?_
    exact Keeps.refl _

theorem Dev.install_keeps (d) (line) (x) : Keeps d (Dev.install d line x) := by
  unfold Dev.install
  conv => zeta
  split
  · refine Keeps.comp (Dev.setCmp_keeps ..) ?_
    exact Keeps.refl _
  · split
    · refine Keeps.comp (Dev.touchWay_keeps ..) ?_
      refine Keeps.comp (Dev.setWay_keeps ..) ?_
      exact Keeps.refl _
    · exact Keeps.refl _

theorem Dev.invalidate_keeps (d) (lo) (hi) : Keeps d (Dev.invalidate d lo hi) := by
  unfold Dev.invalidate
  refine Keeps.comp (Dev.setCache_keeps ?_) ?_
  · exact fun h => h.scratch
  exact Keeps.refl _

theorem Dev.useHit_keeps (d) (line) : Keeps d (Dev.useHit d line) := by
  unfold Dev.useHit
  split
  · refine Keeps.ite ?_ ?_
    · refine Keeps.comp (Dev.useCmp_keeps ..) ?_
      exact Keeps.refl _
    · exact Keeps.refl _
  · refine Keeps.ite ?_ ?_
    · refine Keeps.comp (Dev.touchWay_keeps ..) ?_
      exact Keeps.refl _
    · exact Keeps.refl _
  · exact Keeps.refl _

theorem Dev.writeClears_keeps (d) (line) : Keeps d (Dev.writeClears d line) := by
  unfold Dev.writeClears
  refine Keeps.comp (Dev.setCache_keeps ?_) ?_
  · exact fun h => h.scratch
  exact Keeps.refl _

theorem Dev.frameSent_keeps (d) (f) (a) (again) (ha : Dev.Sound d → Die.Canonical a.die) : Keeps d (Dev.frameSent d f a again) := by
  unfold Dev.frameSent
  conv => zeta
  refine Keeps.ite ?_ ?_
  · refine Keeps.ite ?_ ?_
    · refine Keeps.comp (Dev.setCtl_keeps ..) ?_
      refine Keeps.ite ?_ ?_
      · refine Keeps.comp (Keeps.of (Dev.emit_touches ..) (by decide)) ?_
        refine Keeps.comp (Dev.setChan_keeps ..) ?_
        refine Keeps.comp (Keeps.of (Touches.put_fresh ..) (by decide)) ?_
        refine Keeps.comp (Dev.setDie_keeps ?_) ?_
        · exact ha
        exact Keeps.refl _
      · refine Keeps.comp (Keeps.of (Dev.emit_touches ..) (by decide)) ?_
        refine Keeps.comp (Keeps.of (Dev.emit_touches ..) (by decide)) ?_
        refine Keeps.comp (Dev.setChan_keeps ..) ?_
        refine Keeps.comp (Keeps.of (Touches.put_fresh ..) (by decide)) ?_
        refine Keeps.comp (Dev.setDie_keeps ?_) ?_
        · exact ha
        exact Keeps.refl _
    · refine Keeps.ite ?_ ?_
      · refine Keeps.comp (Keeps.of (Dev.emit_touches ..) (by decide)) ?_
        refine Keeps.comp (Dev.setChan_keeps ..) ?_
        refine Keeps.comp (Keeps.of (Touches.put_fresh ..) (by decide)) ?_
        refine Keeps.comp (Dev.setDie_keeps ?_) ?_
        · exact ha
        exact Keeps.refl _
      · refine Keeps.comp (Keeps.of (Dev.emit_touches ..) (by decide)) ?_
        refine Keeps.comp (Keeps.of (Dev.emit_touches ..) (by decide)) ?_
        refine Keeps.comp (Dev.setChan_keeps ..) ?_
        refine Keeps.comp (Keeps.of (Touches.put_fresh ..) (by decide)) ?_
        refine Keeps.comp (Dev.setDie_keeps ?_) ?_
        · exact ha
        exact Keeps.refl _
  · refine Keeps.comp (Keeps.of (Dev.emit_touches ..) (by decide)) ?_
    refine Keeps.ite ?_ ?_
    · refine Keeps.comp (Dev.setCtl_keeps ..) ?_
      refine Keeps.ite ?_ ?_
      · refine Keeps.comp (Keeps.of (Dev.emit_touches ..) (by decide)) ?_
        refine Keeps.comp (Dev.setChan_keeps ..) ?_
        refine Keeps.comp (Keeps.of (Touches.put_fresh ..) (by decide)) ?_
        refine Keeps.comp (Dev.setDie_keeps ?_) ?_
        · exact ha
        exact Keeps.refl _
      · refine Keeps.comp (Keeps.of (Dev.emit_touches ..) (by decide)) ?_
        refine Keeps.comp (Keeps.of (Dev.emit_touches ..) (by decide)) ?_
        refine Keeps.comp (Dev.setChan_keeps ..) ?_
        refine Keeps.comp (Keeps.of (Touches.put_fresh ..) (by decide)) ?_
        refine Keeps.comp (Dev.setDie_keeps ?_) ?_
        · exact ha
        exact Keeps.refl _
    · refine Keeps.ite ?_ ?_
      · refine Keeps.comp (Keeps.of (Dev.emit_touches ..) (by decide)) ?_
        refine Keeps.comp (Dev.setChan_keeps ..) ?_
        refine Keeps.comp (Keeps.of (Touches.put_fresh ..) (by decide)) ?_
        refine Keeps.comp (Dev.setDie_keeps ?_) ?_
        · exact ha
        exact Keeps.refl _
      · refine Keeps.comp (Keeps.of (Dev.emit_touches ..) (by decide)) ?_
        refine Keeps.comp (Keeps.of (Dev.emit_touches ..) (by decide)) ?_
        refine Keeps.comp (Dev.setChan_keeps ..) ?_
        refine Keeps.comp (Keeps.of (Touches.put_fresh ..) (by decide)) ?_
        refine Keeps.comp (Dev.setDie_keeps ?_) ?_
        · exact ha
        exact Keeps.refl _

theorem Dev.sendFrame_keeps (d) (f) (err) : Keeps d (Dev.sendFrame d f err) := by
  unfold Dev.sendFrame
  refine Keeps.comp (Dev.frameSent_keeps (ha := fun h => dieTake_canonical _ _ _ _ _ (h.dies _)) ..) ?_
  exact Keeps.refl _

theorem Dev.alertSet_keeps (d) (m) (thr) : Keeps d (Dev.alertSet d m thr) := by
  unfold Dev.alertSet
  refine Keeps.ite ?_ ?_
  · refine Keeps.comp (Dev.setCtl_keeps ..) ?_
    exact Keeps.refl _
  · refine Keeps.comp (Dev.sendFrame_keeps ..) ?_
    refine Keeps.comp (Dev.setCtl_keeps ..) ?_
    exact Keeps.refl _

theorem Dev.finishOne_keeps (d) (h) (status) (progress) (result) : Keeps d (Dev.finishOne d h status progress result) := by
  unfold Dev.finishOne
  conv => zeta
  split
  · exact Keeps.refl _
  · refine Keeps.ite ?_ ?_
    · refine Keeps.comp (Keeps.of (Dev.mapCmd_touches ..) (by decide)) ?_
      exact Keeps.refl _
    · refine Keeps.comp (Keeps.of (Dev.setQp_touches ..) (by decide)) ?_
      refine Keeps.ite ?_ ?_
      · refine Keeps.comp (Dev.count_keeps ..) ?_
        refine Keeps.comp (Keeps.of (Dev.mapCmd_touches ..) (by decide)) ?_
        exact Keeps.refl _
      · refine Keeps.comp (Keeps.of (Dev.mapCmd_touches ..) (by decide)) ?_
        exact Keeps.refl _

theorem Dev.finish_keeps (d) (h) (status) (progress) (result) : Keeps d (Dev.finish d h status progress result) := by
  unfold Dev.finish
  split
  · exact Keeps.refl _
  · refine Keeps.foldl (fun _ _ => ?_) ?_
    · refine Keeps.comp (Dev.finishOne_keeps ..) ?_
      exact Keeps.refl _
    · refine Keeps.comp (Dev.finishOne_keeps ..) ?_
      exact Keeps.refl _

theorem uwlPage_keeps (F) (cause) (d) (l) : Keeps d (uwlPage F cause d l) := by
  unfold uwlPage
  conv => zeta
  refine Keeps.ite ?_ ?_
  · refine Keeps.comp (Dev.keelPut_keeps ..) ?_
    refine Keeps.comp (Keeps.put_keel ?_ ?_) ?_
    · exact fun h => h.keel
    · exact fun h => h.keelByte
    exact Keeps.refl _
  · refine Keeps.comp (Dev.event_keeps ..) ?_
    refine Keeps.comp (Dev.keelPut_keeps ..) ?_
    refine Keeps.comp (Keeps.put_keel ?_ ?_) ?_
    · exact fun h => h.keel
    · exact fun h => h.keelByte
    exact Keeps.refl _

theorem uwlAdd_keeps (F) (d) (cause) (l) : Keeps d (uwlAdd F d cause l) := by
  unfold uwlAdd
  refine Keeps.ite ?_ ?_
  · exact Keeps.refl _
  · refine Keeps.comp (Dev.event_keeps ..) ?_
    refine Keeps.foldl (fun _ _ => uwlPage_keeps ..) ?_
    exact Keeps.refl _

theorem silentOut_keeps (F) (d) : Keeps d (silentOut F d) := by
  unfold silentOut
  refine Keeps.foldl (fun _ _ => ?_) ?_
  · refine Keeps.comp (uwlAdd_keeps ..) ?_
    exact Keeps.refl _
  · refine Keeps.comp (Keeps.of (Touches.put_lci ..) (by decide)) ?_
    exact Keeps.refl _

theorem Dev.setReg64_keeps (d) (lo) (v) : Keeps d (Dev.setReg64 d lo v) := by
  unfold Dev.setReg64
  refine Keeps.comp (Dev.setReg_keeps ..) ?_
  refine Keeps.comp (Dev.setReg_keeps ..) ?_
  exact Keeps.refl _

theorem Dev.latency_keeps (d) (src) (head) (ns) : Keeps d (Dev.latency d src head ns) := by
  unfold Dev.latency
  conv => zeta
  refine Keeps.foldl (fun _ _ => ?_) ?_
  · refine Keeps.ite ?_ ?_
    · refine Keeps.ite ?_ ?_
      · refine Keeps.comp (Dev.icu_keeps ..) ?_
        refine Keeps.comp (Keeps.of (Touches.put_pmc ..) (by decide)) ?_
        exact Keeps.refl _
      · refine Keeps.comp (Keeps.of (Touches.put_pmc ..) (by decide)) ?_
        exact Keeps.refl _
    · exact Keeps.refl _
  · exact Keeps.refl _

theorem Dev.reencSettle_keeps (d) : Keeps d (Dev.reencSettle d) := by
  unfold Dev.reencSettle
  conv => zeta
  refine Keeps.ite ?_ ?_
  · exact Keeps.refl _
  · refine Keeps.comp (Dev.icu_keeps ..) ?_
    refine Keeps.comp (Keeps.of (Touches.put_sec ..) (by decide)) ?_
    exact Keeps.refl _

theorem Dev.tagFail_keeps {x0} {r e} (h : Dev.tagFail x0 = (r, e)) : Keeps x0 e := by
  cases h
  exact Keeps.comp (Dev.icu_keeps ..) (Keeps.comp (Dev.count_keeps ..) ((Dev.bump_keeps ..)))

theorem Dev.ctrGet_keeps {x0} {x1} {x2} {x3} {r e} (h : Dev.ctrGet x0 x1 x2 x3 = (r, e)) : Keeps x0 e := by
  have miss : ∀ f : Dev, Keeps f ((f.count 0x204).bump SEC_CTR_MISS_CNT) := fun f =>
    Keeps.comp (Dev.bump_keeps ..) ((Dev.count_keeps ..))
  unfold Dev.ctrGet at h
  split at h
  · cases h; exact miss _
  · extract_lets fetch at h
    have hf : ∀ (f : Dev) r e, fetch f = (r, e) → Keeps f e := by
      intro f r e he
      simp only [fetch] at he
      split at he
      · cases he; exact miss _
      · split at he
        · cases he; exact miss _
        · cases he; exact Keeps.comp (Keeps.of (Dev.ctrEnter_touches ..) (by decide)) (miss _)
    split at h
    · split at h
      · cases h; exact Keeps.comp (Dev.count_keeps ..) ((Keeps.of (Dev.ctrEnter_touches ..) (by decide)))
      · exact Keeps.comp (hf _ _ _ h) ((Keeps.of (Dev.ctrEvict_touches ..) (by decide)))
    · exact hf _ _ _ h

theorem Dev.exhaust_keeps (F) (d) (page) : Keeps d (Dev.exhaust F d page) := by
  unfold Dev.exhaust
  refine Keeps.ite ?_ ?_
  · exact Keeps.refl _
  · refine Keeps.comp (Dev.postAll_keeps ..) ?_
    refine Keeps.comp (Dev.event_keeps ..) ?_
    refine Keeps.comp (Keeps.of (Touches.put_sec ..) (by decide)) ?_
    exact Keeps.refl _

theorem Dev.startReenc_keeps (F) (d) (k) (base) (line) (old) (minor) : Keeps d (Dev.startReenc F d k base line old minor) := by
  unfold Dev.startReenc
  conv => zeta
  refine Keeps.ite ?_ ?_
  · refine Keeps.comp (Dev.exhaust_keeps ..) ?_
    refine Keeps.comp (Keeps.of (Dev.ctrPut_touches ..) (by decide)) ?_
    refine Keeps.comp (Keeps.of (Touches.put_sec ..) (by decide)) ?_
    exact Keeps.refl _
  · refine Keeps.comp (Keeps.of (Dev.ctrPut_touches ..) (by decide)) ?_
    refine Keeps.comp (Keeps.of (Touches.put_sec ..) (by decide)) ?_
    exact Keeps.refl _

theorem Dev.openCounter_keeps {x0} {x1} {x2} {x3} {x4} {x5} {r e} (h : Dev.openCounter x0 x1 x2 x3 x4 x5 = (r, e)) :
    Keeps x1 e := by
  unfold Dev.openCounter at h
  extract_lets a page mt minor ok at h
  have hok : ∀ (d : Dev) mj mn r e, ok d mj mn = (r, e) → Keeps d e := by
    intro d mj mn r e he
    simp only [ok] at he
    cases he
    exact (Dev.count_keeps ..)
  have hft : ∀ (d : Dev) r e, d.tagFail = (r, e) → Keeps d e := fun d r e he => (Dev.tagFail_keeps he)
  split at h
  · rename_i hq
    cases h
    exact Keeps.comp (Dev.exhaust_keeps ..) ((Dev.ctrGet_keeps hq))
  · rename_i c d1 hq
    have h1 : Keeps x1 d1 := (Dev.ctrGet_keeps hq)
    extract_lets cur at h
    have h2 : ∀ (mj mn : Nat) r e, ok d1 mj mn = (r, e) → Keeps x1 e :=
      fun mj mn r e he => Keeps.comp (hok _ _ _ _ _ he) h1
    have h3 : ∀ r e, d1.tagFail = (r, e) → Keeps x1 e :=
      fun r e he => Keeps.comp (hft _ _ _ he) h1
    split at h
    · split at h
      · split at h
        · exact h2 _ _ _ _ h
        · exact h3 _ _ h
      · split at h
        · split at h
          · exact Keeps.comp (hok _ _ _ _ _ h) (Keeps.comp (Dev.icu_keeps ..)
              (Keeps.comp (Dev.event_keeps ..) (Keeps.comp (Dev.bump_keeps ..)
              (Keeps.comp (Keeps.of (Dev.ctrPut_touches ..) (by decide)) h1))))
          · exact h3 _ _ h
        · exact h3 _ _ h
    · split at h
      · extract_lets mn at h
        split at h
        · exact h2 _ _ _ _ h
        · exact h3 _ _ h
      · split at h
        · exact Keeps.comp (hok _ _ _ _ _ h) (Keeps.comp (Dev.startReenc_keeps ..) h1)
        · exact h3 _ _ h

theorem Dev.openLineFor_keeps {x0} {x1} {x2} {x3} {x4} {x5} {x6} {r e} (h : Dev.openLineFor x0 x1 x2 x3 x4 x5 x6 = (r, e)) :
    Keeps x1 e := by
  unfold Dev.openLineFor at h
  extract_lets at h
  split at h
  · cases h; exact Keeps.refl _
  · split at h
    · exact (Dev.tagFail_keeps h)
    · split at h
      · exact (Dev.tagFail_keeps h)
      · split at h
        · exact (Dev.openCounter_keeps h)
        · split at h
          · cases h
            exact Keeps.ite (Keeps.refl _) ((Dev.count_keeps ..))
          · exact (Dev.tagFail_keeps h)

theorem recordPoison_keeps (F) (d) (line) (origin) : Keeps d (recordPoison F d line origin) := by
  unfold recordPoison
  refine Keeps.ite ?_ ?_
  · exact Keeps.refl _
  · refine Keeps.foldl (fun _ _ => ?_) ?_
    · refine Keeps.comp (Dev.setHead_keeps ?_) ?_
      · exact fun h => ⟨(h.head _).info, (h.head _).warn, (h.head _).fail, (h.head _).fatal⟩
      exact Keeps.refl _
    · refine Keeps.comp (Dev.icu_keeps ..) ?_
      refine Keeps.comp (Dev.bump_keeps ..) ?_
      refine Keeps.comp (Dev.setReg_keeps ..) ?_
      refine Keeps.comp (Dev.setReg_keeps ..) ?_
      exact Keeps.refl _

theorem postAt_keeps (F) (d) (n) (k) (dpa) : Keeps d (postAt F d n k dpa) := by
  unfold postAt
  refine Keeps.foldl (fun _ _ => ?_) ?_
  · refine Keeps.comp (Dev.post_keeps ..) ?_
    exact Keeps.refl _
  · exact Keeps.refl _

theorem Dev.statePut_keeps (d) (owner) : Keeps d (Dev.statePut d owner) := by
  unfold Dev.statePut
  refine Keeps.comp (Dev.ringPut_keeps ..) ?_
  exact Keeps.refl _

theorem Dev.freeze_keeps (F) (d) : Keeps d (Dev.freeze F d) := by
  unfold Dev.freeze
  exact Keeps.put_log fun h => by rw [List.length_map]; exact h.log

theorem Dev.uwlClear_keeps (d) (n) (owner) : Keeps d (Dev.uwlClear d n owner) := by
  unfold Dev.uwlClear
  conv => zeta
  split
  · refine Keeps.comp (Dev.statePut_keeps ..) ?_
    refine Keeps.comp (Keeps.put_keel ?_ ?_) ?_
    · exact fun h => h.keel
    · exact fun h => h.keelByte
    exact Keeps.refl _

theorem Dev.pokePage_keeps (d) (m) (pa) (slot) (slc) (x) : Keeps d (Dev.pokePage d m pa slot slc x) := by
  unfold Dev.pokePage
  refine Dev.setDie_keeps fun s => ?_
  have h := s.dies m
  refine Die.put_canonical h ?_
  dsimp only
  refine Tbl.put_wf _ _ _ _ ?_
  split
  · exact h.slots pa
  · rfl

theorem Dev.putStripe_keeps (d) (l) (ds) : Keeps d (Dev.putStripe d l ds) := by
  unfold Dev.putStripe
  conv => zeta
  refine Keeps.ite ?_ ?_
  · refine Keeps.ite ?_ ?_
    · refine Keeps.foldl (fun _ _ => ?_) ?_
      · refine Keeps.ite ?_ ?_
        · exact Keeps.refl _
        · refine Keeps.comp (Dev.pokePage_keeps ..) ?_
          exact Keeps.refl _
      · exact Keeps.refl _
    · refine Keeps.comp (Dev.pokePage_keeps ..) ?_
      refine Keeps.foldl (fun _ _ => ?_) ?_
      · refine Keeps.ite ?_ ?_
        · exact Keeps.refl _
        · refine Keeps.comp (Dev.pokePage_keeps ..) ?_
          exact Keeps.refl _
      · exact Keeps.refl _
  · refine Keeps.comp (Dev.pokePage_keeps ..) ?_
    refine Keeps.ite ?_ ?_
    · refine Keeps.foldl (fun _ _ => ?_) ?_
      · refine Keeps.ite ?_ ?_
        · exact Keeps.refl _
        · refine Keeps.comp (Dev.pokePage_keeps ..) ?_
          exact Keeps.refl _
      · exact Keeps.refl _
    · refine Keeps.comp (Dev.pokePage_keeps ..) ?_
      refine Keeps.foldl (fun _ _ => ?_) ?_
      · refine Keeps.ite ?_ ?_
        · exact Keeps.refl _
        · refine Keeps.comp (Dev.pokePage_keeps ..) ?_
          exact Keeps.refl _
      · exact Keeps.refl _

theorem Dev.putLoc_keeps (d) (l) (x) : Keeps d (Dev.putLoc d l x) := by
  unfold Dev.putLoc
  refine Keeps.comp (Dev.putStripe_keeps ..) ?_
  refine Keeps.ite ?_ ?_
  · exact Keeps.refl _
  · refine Keeps.foldl (fun _ _ => ?_) ?_
    · refine Keeps.comp (Dev.putStripe_keeps ..) ?_
      exact Keeps.refl _
    · exact Keeps.refl _

theorem Dev.fillVoid_keeps (d) (t) (except) : Keeps d (Dev.fillVoid d t except) := by
  unfold Dev.fillVoid
  refine Keeps.foldl (fun _ _ => ?_) ?_
  · refine Keeps.ite ?_ ?_
    · refine Keeps.comp (Dev.putLoc_keeps ..) ?_
      exact Keeps.refl _
    · exact Keeps.refl _
  · exact Keeps.refl _

theorem Dev.firstHome_keeps {x0} {x1} {x2} {x3} {e} (h : Dev.firstHome x0 x1 x2 x3 = some e) : Keeps x0 e := by
  unfold Dev.firstHome at h
  extract_lets slc got at h
  have hg : ∀ y, got = some y → Keeps x0 y.2 := by
    intro y hy
    simp only [got] at hy
    split at hy
    · rename_i hq
      cases hy
      split at hq
      · exact (Keeps.of (Dev.take_touches hq) (by decide))
      · cases hq
    · exact (Keeps.of (Dev.take_touches hy) (by decide))
  rcases hq : got with _ | ⟨e1, d1⟩
  · rw [hq] at h; cases h
  · rw [hq] at h
    have h1 := hg _ hq
    obtain rfl := Option.some.inj h
    have h2 : Keeps x0 ((d1.setEnt x1 e1).setHdr x1 { d1.hdr x1 with gap := 16384, start := 0, wcnt := 0, part := true, voidMeta := false }) :=
      Keeps.comp (Keeps.of (Dev.setHdr_touches ..) (by decide)) (Keeps.comp (Keeps.of (Dev.setEnt_touches ..) (by decide)) h1)
    exact Keeps.ite (Keeps.comp (Dev.fillVoid_keeps ..) h2) h2

theorem Dev.putLine_keeps (d) (line) (x) : Keeps d (Dev.putLine d line x) := by
  unfold Dev.putLine
  refine Keeps.comp (Keeps.of (Dev.setWritten_touches ..) (by decide)) ?_
  refine Keeps.comp (Dev.putLoc_keeps ..) ?_
  exact Keeps.refl _

theorem Dev.alertOwed_keeps (d) (m) : Keeps d (Dev.alertOwed d m) := by
  unfold Dev.alertOwed
  refine Keeps.ite ?_ ?_
  · refine Keeps.comp (Dev.alertSet_keeps ..) ?_
    exact Keeps.refl _
  · exact Keeps.refl _

theorem Dev.pageLost_keeps (d) (g) (pa) : Keeps d (Dev.pageLost d g pa) := by
  unfold Dev.pageLost
  refine Keeps.foldl (fun _ _ => ?_) ?_
  · refine Keeps.comp (Dev.badTarget_keeps ..) ?_
    exact Keeps.refl _
  · refine Keeps.foldl (fun _ _ => ?_) ?_
    · refine Keeps.comp (Keeps.of (Dev.migQueue_touches ..) (by decide)) ?_
      exact Keeps.refl _
    · exact Keeps.refl _

theorem Dev.rowPage_keeps (d) (g) (pa) (p) (ok) : Keeps d (Dev.rowPage d g pa p ok) := by
  unfold Dev.rowPage
  conv => zeta
  split
  · refine Keeps.ite ?_ ?_
    · exact Keeps.refl _
    · refine Keeps.comp (Dev.pageLost_keeps ..) ?_
      exact Keeps.refl _
  · refine Keeps.ite ?_ ?_
    · refine Keeps.comp (Keeps.put_media ?_ ?_) ?_
      · exact fun h => h.table
      · exact fun h => h.dies
      exact Keeps.refl _
    · refine Keeps.ite ?_ ?_
      · refine Keeps.comp (Dev.pageLost_keeps ..) ?_
        refine Keeps.comp (Keeps.put_media ?_ ?_) ?_
        · exact fun h => h.table
        · exact fun h => h.dies
        exact Keeps.refl _
      · refine Keeps.comp (Keeps.put_media ?_ ?_) ?_
        · exact fun h => h.table
        · exact fun h => h.dies
        exact Keeps.refl _

theorem Dev.programEnd_keeps (d) (m) (failMask) (fault) : Keeps d (Dev.programEnd d m failMask fault) := by
  unfold Dev.programEnd
  extract_lets x
  split
  · exact Keeps.refl _
  · rename_i r hr
    extract_lets es x1 fails emptied follow x2 d1 d2 d2a d2b d3 c recent c1
    have hx : d.Sound → x1.Canonical := fun s => by
      have : ∀ (l : List (Option BufEntry × Nat)) (y : Die), y.Canonical → (l.foldl (fun x e => match e.1 with
          | some b => x.program b r.mode (!bit failMask e.2)
          | none => x) y).Canonical := by
        intro l
        induction l with
        | nil => exact fun _ h => h
        | cons e l ih =>
          intro y hy
          refine ih _ ?_
          obtain ⟨_ | b, i⟩ := e
          · exact hy
          · exact Die.program_canonical hy
      exact this _ _ (s.dies m)
    clear_value x1
    have h1 : Keeps d d1 := Dev.setDie_keeps fun s => ⟨(hx s).pages, (hx s).slots⟩
    have h2 : Keeps d d2 := by
      refine Keeps.foldl (fun a e => ?_) h1
      split
      · exact Keeps.comp (Dev.rowPage_keeps ..) (Keeps.of (Dev.wearPage_touches ..) (by decide))
      · exact Keeps.refl _
    have h2a : Keeps d d2a := Keeps.comp (Dev.alertOwed_keeps ..) (Keeps.comp (Dev.count_keeps ..) h2)
    have h2b : Keeps d d2b := Keeps.ite (Keeps.comp (Dev.powerDown_keeps ..) h2a) h2a
    have h3 : Keeps d d3 := Keeps.ite (Keeps.comp (Keeps.of (Dev.emit_touches ..) (by decide)) h2b) h2b
    refine Keeps.ite h3 ?_
    exact Keeps.comp (Keeps.of (Dev.emit_touches ..) (by decide)) (Keeps.comp (Dev.bump_keeps ..) (Keeps.comp (Dev.setCtl_keeps ..) h3))

theorem Dev.sharesCount_keeps (d) (m) (buf) : Keeps d (Dev.sharesCount d m buf) := by
  unfold Dev.sharesCount
  refine Keeps.comp (Dev.setCtl_keeps ..) ?_
  refine Keeps.comp (Dev.setGrp_keeps ..) ?_
  exact Keeps.refl _

theorem Dev.programGate_keeps (F) (d) (m) (mode) (buf) (last) (err) : Keeps d (Dev.programGate F d m mode buf last err) := by
  unfold Dev.programGate
  conv => zeta
  refine Keeps.ite ?_ ?_
  · refine Keeps.comp (Dev.sendFrame_keeps ..) ?_
    refine Keeps.comp (Dev.sharesCount_keeps ..) ?_
    exact Keeps.refl _
  · exact Keeps.refl _

theorem Dev.msixDrain_keeps (d) (h) : Keeps d (Dev.msixDrain d h) := by
  unfold Dev.msixDrain
  refine Keeps.foldl (fun _ _ => ?_) ?_
  · refine Keeps.ite ?_ ?_
    · refine Keeps.comp (Keeps.of (Dev.msixOut_touches ..) (by decide)) ?_
      refine Keeps.comp (Dev.setRbit_keeps ..) ?_
      exact Keeps.refl _
    · exact Keeps.refl _
  · exact Keeps.refl _

theorem Dev.settingPut_keeps (d) (item) (value) : Keeps d (Dev.settingPut d item value) := by
  unfold Dev.settingPut
  refine Keeps.comp (Dev.ringPut_keeps ..) ?_
  refine Keeps.comp (Keeps.put_keel ?_ ?_) ?_
  · exact fun h => h.keel
  · exact fun h => h.keelByte
  exact Keeps.refl _

theorem Dev.keepCfg_keeps (d) (old) (off) : Keeps d (Dev.keepCfg d old off) := by
  unfold Dev.keepCfg
  split
  · refine Keeps.ite ?_ ?_
    · exact Keeps.refl _
    · refine Keeps.comp (Dev.settingPut_keeps ..) ?_
      exact Keeps.refl _
  · exact Keeps.refl _

theorem Dev.metaRead_keeps (d) (t) (i) : Keeps d (Dev.metaRead d t i) := by
  unfold Dev.metaRead
  conv => zeta
  refine Keeps.ite ?_ ?_
  · refine Keeps.comp (Dev.bump_keeps ..) ?_
    exact Keeps.refl _
  · exact Keeps.refl _

theorem Dev.tcLookup_keeps (d) (t) (i) : Keeps d (Dev.tcLookup d t i) := by
  unfold Dev.tcLookup
  conv => zeta
  refine Keeps.ite ?_ ?_
  · refine Keeps.comp (Dev.count_keeps ..) ?_
    refine Keeps.foldl (fun _ _ => ?_) ?_
    · refine Keeps.comp (Keeps.of (Dev.tcTouch_touches ..) (by decide)) ?_
      exact Keeps.refl _
    · exact Keeps.refl _
  · refine Keeps.comp (Dev.bump_keeps ..) ?_
    refine Keeps.comp (Dev.count_keeps ..) ?_
    refine Keeps.foldl (fun _ _ => ?_) ?_
    · refine Keeps.comp (Keeps.of (Dev.tcTouch_touches ..) (by decide)) ?_
      exact Keeps.refl _
    · exact Keeps.refl _

theorem Dev.openLine_keeps {x0} {x1} {x2} {x3} {x4} {x5} {r e} (h : Dev.openLine x0 x1 x2 x3 x4 x5 = (r, e)) :
    Keeps x1 e := by
  unfold Dev.openLine at h
  exact (Dev.openLineFor_keeps h)

theorem Dev.resetRange_keeps (d) (lo) (hi) : Keeps d (Dev.resetRange d lo hi) := by
  exact Keeps.put_regs fun s => Tbl.filter_wf _ _ _ s.regs

theorem Dev.reencClear_keeps (d) (line) : Keeps d (Dev.reencClear d line) := by
  unfold Dev.reencClear
  refine Keeps.comp (Dev.reencSettle_keeps ..) ?_
  refine Keeps.comp (Keeps.of (Touches.put_sec ..) (by decide)) ?_
  exact Keeps.refl _

theorem Dev.rowNote_keeps (d) (line) : Keeps d (Dev.rowNote d line) := by
  unfold Dev.rowNote
  refine Keeps.comp (Keeps.put_media ?_ ?_) ?_
  · exact fun h => h.table
  · exact fun h => h.dies
  exact Keeps.refl _

theorem Dev.sealLine_keeps {x0} {x1} {x2} {x3} {x4} {x5} {r e} (h : Dev.sealLine x0 x1 x2 x3 x4 x5 = some (r, e)) :
    Keeps x1 e := by
  unfold Dev.sealLine at h
  extract_lets a page ready at h
  split at h
  · obtain rfl := (Prod.mk.inj (Option.some.inj h)).2; exact Keeps.ite (Keeps.refl _) ((Dev.count_keeps ..))
  · have hr : ∀ y, ready = some y → Keeps x1 y := by
      intro y hy
      simp only [ready] at hy
      split at hy
      · cases hy; exact Keeps.refl _
      · exact (Keeps.of (Dev.allocCtr_touches hy) (by decide))
    rcases hq : ready with _ | d0
    · rw [hq] at h; cases h
    · rw [hq] at h
      dsimp only at h
      have h0 := hr _ hq
      split at h
      · rename_i hg
        obtain rfl := (Prod.mk.inj (Option.some.inj h)).2
        exact Keeps.comp (Dev.exhaust_keeps ..) (Keeps.comp (Dev.ctrGet_keeps hg) h0)
      · rename_i c d1 hg
        have h1 : Keeps x1 d1 :=
          Keeps.comp (Dev.ctrGet_keeps hg) h0
        split at h
        · obtain rfl := (Prod.mk.inj (Option.some.inj h)).2
          exact Keeps.comp (Dev.count_keeps ..) (Keeps.comp (Dev.reencClear_keeps ..)
            (Keeps.comp (Keeps.of (Dev.ctrPut_touches ..) (by decide)) h1))
        · split at h
          · cases h
          · obtain rfl := (Prod.mk.inj (Option.some.inj h)).2
            exact Keeps.comp (Dev.count_keeps ..) (Keeps.comp (Dev.startReenc_keeps ..) h1)

end Sys2Proof.Machine
end

