-- ==== Sys2Proof/Laws/KeepLine.lean ====
section
/-!
SUPPORT. The shared operations keep soundness: Gondola, host reads and writes, write-backs.
-/
namespace Sys2Proof.Machine

theorem Dev.faultLevel_keeps (F) (d) : Keeps d (Dev.faultLevel F d) := by
  unfold Dev.faultLevel
  refine Keeps.comp (Dev.forceFlush_keeps ..) ?_
  refine Keeps.comp (Keeps.of (Dev.emit_touches ..) (by decide)) ?_
  refine Keeps.comp (Keeps.of (Touches.put_pwr ..) (by decide)) ?_
  exact Keeps.refl _

theorem ackDone_keeps (F) (d) (a) : Keeps d (ackDone F d a) := by
  unfold ackDone
  split
  · refine Keeps.comp (Keeps.of (Dev.emit_touches ..) (by decide)) ?_
    refine Keeps.comp (Dev.latency_keeps ..) ?_
    refine Keeps.comp (Dev.setHead_keeps ?_) ?_
    · exact fun h => ⟨(h.head _).info, (h.head _).warn, (h.head _).fail, (h.head _).fatal⟩
    exact Keeps.refl _
  · refine Keeps.comp (Keeps.of (Touches.put_str ..) (by decide)) ?_
    exact Keeps.refl _

theorem ackAll_keeps (F) (d) (l) : Keeps d (ackAll F d l) := by
  unfold ackAll
  refine Keeps.foldl (fun _ _ => ackDone_keeps ..) ?_
  exact Keeps.refl _

theorem mergeNow_keeps {x0} {x1} {x2} {x3} {x4} {r e} (h : mergeNow x0 x1 x2 x3 x4 = (r, e)) :
    Keeps x1 e := by
  unfold mergeNow at h
  split at h
  · cases h; exact Keeps.refl _
  · split at h
    rename_i v d1 hq
    have h1 : Keeps x1 d1 := by
      split at hq
      · cases hq; exact Keeps.refl _
      · split at hq
        · exact (Dev.openLineFor_keeps hq)
        · cases hq; exact Keeps.refl _
    split at h
    · cases h; exact Keeps.comp (Dev.count_keeps ..) h1
    · cases h; exact h1

theorem partialLoss_keeps (F) (d) (line) : Keeps d (partialLoss F d line) := by
  unfold partialLoss
  refine Keeps.comp (recordPoison_keeps ..) ?_
  refine Keeps.comp (postAt_keeps ..) ?_
  refine Keeps.comp (Dev.event_keeps ..) ?_
  refine Keeps.comp (Dev.bump_keeps ..) ?_
  refine Keeps.comp (Dev.setReg_keeps ..) ?_
  refine Keeps.comp (Dev.setReg_keeps ..) ?_
  exact Keeps.refl _

theorem dropPartial_keeps (F) (d) (line) (wb) (e) : Keeps d (dropPartial F d line wb e) := by
  unfold dropPartial
  refine Keeps.comp (ackAll_keeps ..) ?_
  refine Keeps.comp (partialLoss_keeps ..) ?_
  refine Keeps.ite ?_ ?_
  · refine Keeps.comp (Keeps.of (Dev.setWb_touches ..) (by decide)) ?_
    exact Keeps.refl _
  · refine Keeps.comp (Keeps.of (Dev.setStaged_touches ..) (by decide)) ?_
    exact Keeps.refl _

theorem selectOne_keeps (F) (raised) (d) (line) : Keeps d (selectOne F raised d line) := by
  unfold selectOne
  split
  · split
    · rename_i hq4
      refine Keeps.comp (Keeps.of (Dev.setWb_touches ..) (by decide)) ?_
      refine Keeps.comp (Keeps.of (Dev.setStaged_touches ..) (by decide)) ?_
      refine Keeps.comp (mergeNow_keeps hq4) ?_
      exact Keeps.refl _
    · rename_i hq4
      refine Keeps.comp (dropPartial_keeps ..) ?_
      refine Keeps.comp (mergeNow_keeps hq4) ?_
      exact Keeps.refl _
  · exact Keeps.refl _

theorem Dev.passOrder_keeps (d) (line) (rewrite) : Keeps d (Dev.passOrder d line rewrite) := by
  unfold Dev.passOrder
  conv => zeta
  refine Keeps.ite ?_ ?_
  · refine Keeps.ite ?_ ?_
    · exact Keeps.refl _
    · refine Keeps.comp (Keeps.of (Touches.put_drift ..) (by decide)) ?_
      refine Keeps.comp (Dev.writeClears_keeps ..) ?_
      exact Keeps.refl _
  · refine Keeps.comp (Dev.statePut_keeps ..) ?_
    refine Keeps.comp (Keeps.put_keel ?_ ?_) ?_
    · exact fun h => h.keel
    · exact fun h => h.keelByte
    refine Keeps.ite ?_ ?_
    · exact Keeps.refl _
    · refine Keeps.comp (Keeps.of (Touches.put_drift ..) (by decide)) ?_
      refine Keeps.comp (Dev.writeClears_keeps ..) ?_
      exact Keeps.refl _

theorem keepStaged_keeps (F) (d) (line) (e) (acks) (direct) : Keeps d (keepStaged F d line e acks direct) := by
  unfold keepStaged
  refine Keeps.ite ?_ ?_
  · refine Keeps.comp (Keeps.of (Dev.setStaged_touches ..) (by decide)) ?_
    exact Keeps.refl _
  · refine Keeps.ite ?_ ?_
    · refine Keeps.comp (ackAll_keeps ..) ?_
      refine Keeps.comp (Keeps.of (Dev.setStaged_touches ..) (by decide)) ?_
      exact Keeps.refl _
    · refine Keeps.ite ?_ ?_
      · refine Keeps.comp (Keeps.of (Dev.setStaged_touches ..) (by decide)) ?_
        exact Keeps.refl _
      · refine Keeps.comp (Keeps.of (Dev.setWb_touches ..) (by decide)) ?_
        refine Keeps.comp (Keeps.of (Dev.setStaged_touches ..) (by decide)) ?_
        exact Keeps.refl _

theorem stageWrite_keeps (F) (w) (pre) (d1) : Keeps d1 (stageWrite F w pre d1) := by
  unfold stageWrite
  conv => zeta
  split
  · split
    · refine Keeps.comp (keepStaged_keeps ..) ?_
      refine Keeps.comp (partialLoss_keeps ..) ?_
      refine Keeps.comp (Keeps.of (Touches.put_gon ..) (by decide)) ?_
      exact Keeps.refl _
    · refine Keeps.comp (keepStaged_keeps ..) ?_
      refine Keeps.comp (Keeps.of (Touches.put_gon ..) (by decide)) ?_
      exact Keeps.refl _
  · refine Keeps.ite ?_ ?_
    · refine Keeps.comp (ackAll_keeps ..) ?_
      refine Keeps.comp (Keeps.of (Dev.setStaged_touches ..) (by decide)) ?_
      refine Keeps.ite ?_ ?_
      · refine Keeps.comp (partialLoss_keeps ..) ?_
        refine Keeps.comp (Keeps.of (Touches.put_gon ..) (by decide)) ?_
        exact Keeps.refl _
      · refine Keeps.comp (Keeps.of (Touches.put_gon ..) (by decide)) ?_
        exact Keeps.refl _
    · refine Keeps.ite ?_ ?_
      · refine Keeps.comp (Keeps.of (Dev.setStaged_touches ..) (by decide)) ?_
        refine Keeps.ite ?_ ?_
        · refine Keeps.comp (partialLoss_keeps ..) ?_
          refine Keeps.comp (Keeps.of (Touches.put_gon ..) (by decide)) ?_
          exact Keeps.refl _
        · refine Keeps.comp (Keeps.of (Touches.put_gon ..) (by decide)) ?_
          exact Keeps.refl _
      · refine Keeps.comp (Keeps.of (Dev.setWb_touches ..) (by decide)) ?_
        refine Keeps.ite ?_ ?_
        · refine Keeps.comp (partialLoss_keeps ..) ?_
          refine Keeps.comp (Keeps.of (Touches.put_gon ..) (by decide)) ?_
          exact Keeps.refl _
        · refine Keeps.comp (Keeps.of (Touches.put_gon ..) (by decide)) ?_
          exact Keeps.refl _

theorem acceptWrite_keeps (F) (d) (w) : Keeps d (acceptWrite F d w) := by
  unfold acceptWrite
  split
  · rename_i hq2
    refine Keeps.comp (stageWrite_keeps ..) ?_
    refine Keeps.comp (Keeps.of (Dev.preLaunchMove_touches hq2) (by decide)) ?_
    refine Keeps.comp (Dev.passOrder_keeps ..) ?_
    exact Keeps.refl _

theorem sealedNote_keeps (F) (d) (h) (line) : Keeps d (sealedNote F d h line) := by
  unfold sealedNote
  refine Keeps.comp (recordPoison_keeps ..) ?_
  refine Keeps.comp (Dev.countH_keeps ..) ?_
  refine Keeps.ite ?_ ?_
  · refine Keeps.comp (Dev.setReg_keeps ..) ?_
    refine Keeps.comp (Dev.setReg_keeps ..) ?_
    refine Keeps.comp (Dev.bump_keeps ..) ?_
    exact Keeps.refl _
  · refine Keeps.comp (Dev.event_keeps ..) ?_
    refine Keeps.comp (Dev.post_keeps ..) ?_
    refine Keeps.comp (Dev.setReg_keeps ..) ?_
    refine Keeps.comp (Dev.setReg_keeps ..) ?_
    refine Keeps.comp (Dev.bump_keeps ..) ?_
    exact Keeps.refl _

theorem Dev.toBallast_keeps (d) (s) : Keeps d (Dev.toBallast d s) := by
  unfold Dev.toBallast
  refine Keeps.ite ?_ ?_
  · exact Keeps.refl _
  · refine Keeps.comp (Dev.setCache_keeps ?_) ?_
    · exact fun h => h.scratch
    exact Keeps.refl _

theorem compatOn_keeps (F) (d) (h) : Keeps d (compatOn F d h) := by
  unfold compatOn
  refine Keeps.ite ?_ ?_
  · refine Keeps.comp (Dev.event_keeps ..) ?_
    exact Keeps.refl _
  · refine Keeps.ite ?_ ?_
    · exact Keeps.refl _
    · refine Keeps.comp (Dev.setCache_keeps ?_) ?_
      · exact fun h => h.scratch
      refine Keeps.foldl (fun _ _ => ?_) ?_
      · refine Keeps.comp (Dev.toBallast_keeps ..) ?_
        exact Keeps.refl _
      · refine Keeps.comp (Dev.setRbit_keeps ..) ?_
        exact Keeps.refl _

theorem Dev.emptyCmp_keeps (d) : Keeps d (Dev.emptyCmp d) := by
  unfold Dev.emptyCmp
  refine Keeps.comp (Dev.setCache_keeps ?_) ?_
  · exact fun h => h.scratch
  refine Keeps.foldl (fun _ _ => ?_) ?_
  · refine Keeps.comp (Dev.toBallast_keeps ..) ?_
    exact Keeps.refl _
  · exact Keeps.refl _

theorem Dev.compatOff_keeps (d) : Keeps d (Dev.compatOff d) := by
  unfold Dev.compatOff
  refine Keeps.ite ?_ ?_
  · exact Keeps.refl _
  · refine Keeps.comp (Dev.setCache_keeps ?_) ?_
    · exact fun h => h.scratch
    refine Keeps.comp (Dev.emptyCmp_keeps ..) ?_
    refine Keeps.comp (Dev.setRbit_keeps ..) ?_
    exact Keeps.refl _

theorem scratchWriteCtl_keeps (F) (d) (v) : Keeps d (scratchWriteCtl F d v) := by
  unfold scratchWriteCtl
  extract_lets c en hb dual changed lostWays gone c1
  refine Keeps.ite (Keeps.refl _) ⟨fun s => ?_⟩
  exact (Dev.setCache_keeps fun _ => Tbl.filter_wf _ _ _ s.scratch).sound ((Dev.setReg_keeps ..).sound s)

theorem Dev.invGo_keeps (d) : Keeps d (Dev.invGo d) := by
  unfold Dev.invGo
  conv => zeta
  refine Keeps.ite ?_ ?_
  · exact Keeps.refl _
  · refine Keeps.comp (Dev.setCache_keeps ?_) ?_
    · exact fun h => h.scratch
    refine Keeps.comp (Dev.invalidate_keeps ..) ?_
    exact Keeps.refl _

theorem Dev.cmpPin_keeps (d) (n) (on) : Keeps d (Dev.cmpPin d n on) := by
  unfold Dev.cmpPin
  conv => zeta
  refine Keeps.ite ?_ ?_
  · exact Keeps.refl _
  · refine Keeps.ite ?_ ?_
    · exact Keeps.refl _
    · refine Keeps.comp (Dev.setCmp_keeps ..) ?_
      exact Keeps.refl _

theorem promoteHeld_keeps (F) (d) (line) : Keeps d (promoteHeld F d line) := by
  unfold promoteHeld
  split
  · refine Keeps.ite ?_ ?_
    · split
      · rename_i hq6
        refine Keeps.comp (Keeps.of (Dev.setWb_touches ..) (by decide)) ?_
        refine Keeps.comp (Keeps.of (Dev.setStaged_touches ..) (by decide)) ?_
        refine Keeps.comp (mergeNow_keeps hq6) ?_
        exact Keeps.refl _
      · rename_i hq6
        refine Keeps.comp (dropPartial_keeps ..) ?_
        refine Keeps.comp (mergeNow_keeps hq6) ?_
        exact Keeps.refl _
    · exact Keeps.refl _
  · exact Keeps.refl _

theorem dropEntry_keeps (F) (d) (line) (wb) (e) : Keeps d (dropEntry F d line wb e) := by
  unfold dropEntry
  conv => zeta
  refine Keeps.ite ?_ ?_
  · refine Keeps.comp (promoteHeld_keeps ..) ?_
    refine Keeps.comp (dropPartial_keeps ..) ?_
    exact Keeps.refl _
  · refine Keeps.comp (dropPartial_keeps ..) ?_
    exact Keeps.refl _

theorem Dev.fetchFor_keeps (d) (line) (key) (base) (w) (fill) : Keeps d (Dev.fetchFor d line key base w fill) := by
  unfold Dev.fetchFor
  conv => zeta
  refine Keeps.ite ?_ ?_
  · refine Keeps.comp (Dev.setCache_keeps ?_) ?_
    · exact fun h => h.scratch
    exact Keeps.refl _
  · refine Keeps.comp (Dev.setCache_keeps ?_) ?_
    · exact fun h => h.scratch
    refine Keeps.comp (Dev.count_keeps ..) ?_
    refine Keeps.comp (Dev.tcLookup_keeps ..) ?_
    refine Keeps.comp (Keeps.of (Touches.put_tracts ..) (by decide)) ?_
    refine Keeps.comp (Dev.metaRead_keeps ..) ?_
    exact Keeps.refl _

theorem Dev.fillEntry_keeps (F) (d) (n) : Keeps d (Dev.fillEntry F d n) := by
  unfold Dev.fillEntry
  conv => zeta
  refine Keeps.foldl (fun _ _ => ?_) ?_
  · refine Keeps.ite ?_ ?_
    · refine Keeps.comp (Dev.setCmp_keeps ..) ?_
      exact Keeps.refl _
    · split
      · split
        · refine Keeps.comp (Dev.setCmp_keeps ..) ?_
          refine Keeps.comp (Dev.install_keeps ..) ?_
          exact Keeps.refl _
        · refine Keeps.comp (Dev.setCmp_keeps ..) ?_
          exact Keeps.refl _
        · refine Keeps.ite ?_ ?_
          · exact Keeps.refl _
          · refine Keeps.comp (Dev.setCmp_keeps ..) ?_
            refine Keeps.comp (Dev.fetchFor_keeps ..) ?_
            exact Keeps.refl _
  · exact Keeps.refl _

theorem Dev.fillsGo_keeps (F) (d) : Keeps d (Dev.fillsGo F d) := by
  unfold Dev.fillsGo
  refine Keeps.foldl (fun _ _ => ?_) ?_
  · refine Keeps.comp (Dev.fillEntry_keeps ..) ?_
    exact Keeps.refl _
  · exact Keeps.refl _

theorem Dev.mapFetch_keeps (d) (f) (g) : Keeps d (Dev.mapFetch d f g) := by
  unfold Dev.mapFetch
  refine Keeps.comp (Dev.setCache_keeps ?_) ?_
  · exact fun h => h.scratch
  exact Keeps.refl _

theorem Dev.pageFill_keeps (F) (d) (h) (line) : Keeps d (Dev.pageFill F d h line) := by
  unfold Dev.pageFill
  split
  · exact Keeps.refl _
  · refine Keeps.comp (Dev.fillEntry_keeps ..) ?_
    refine Keeps.comp (Dev.setCmp_keeps ..) ?_
    exact Keeps.refl _

theorem Dev.quadCount_keeps (d) (l) (e) : Keeps d (Dev.quadCount d l e) := by
  unfold Dev.quadCount
  refine Keeps.comp (Dev.count_keeps ..) ?_
  exact Keeps.refl _

theorem Dev.trackIn_keeps (d) (h) : Keeps d (Dev.trackIn d h) := by
  unfold Dev.trackIn
  refine Keeps.comp (Dev.setHead_keeps ?_) ?_
  · exact fun h => ⟨(h.head _).info, (h.head _).warn, (h.head _).fail, (h.head _).fatal⟩
  exact Keeps.refl _

theorem Dev.trackOut_keeps (d) (h) : Keeps d (Dev.trackOut d h) := by
  unfold Dev.trackOut
  refine Keeps.comp (Dev.setHead_keeps ?_) ?_
  · exact fun h => ⟨(h.head _).info, (h.head _).warn, (h.head _).fail, (h.head _).fatal⟩
  exact Keeps.refl _

theorem Dev.transient_keeps (d) (l) : Keeps d (Dev.transient d l) := by
  unfold Dev.transient
  refine Keeps.ite ?_ ?_
  · exact Keeps.refl _
  · refine Keeps.comp (Dev.bump_keeps ..) ?_
    exact Keeps.refl _

theorem Dev.useReq_keeps (d) (h) : Keeps d (Dev.useReq d h) := by
  unfold Dev.useReq
  refine Keeps.comp (Dev.setHead_keeps ?_) ?_
  · exact fun h => ⟨(h.head _).info, (h.head _).warn, (h.head _).fail, (h.head _).fatal⟩
  exact Keeps.refl _

theorem Dev.useRwd_keeps (d) (h) : Keeps d (Dev.useRwd d h) := by
  unfold Dev.useRwd
  refine Keeps.comp (Dev.setHead_keeps ?_) ?_
  · exact fun h => ⟨(h.head _).info, (h.head _).warn, (h.head _).fail, (h.head _).fatal⟩
  exact Keeps.refl _

theorem Dev.weakMatch_keeps (d) (m) (pa) (bytes) : Keeps d (Dev.weakMatch d m pa bytes) := by
  unfold Dev.weakMatch
  refine Keeps.comp (Dev.setCtl_keeps ..) ?_
  exact Keeps.refl _

theorem respond_keeps (F) (d) (h) (tag) (line) (t) (v) : Keeps d (respond F d h tag line t v) := by
  unfold respond
  conv => zeta
  split
  · refine Keeps.comp (Keeps.of (Dev.emit_touches ..) (by decide)) ?_
    refine Keeps.comp (Dev.latency_keeps ..) ?_
    exact Keeps.refl _
  · split
    · rename_i hq4
      refine Keeps.comp (Keeps.of (Dev.emit_touches ..) (by decide)) ?_
      refine Keeps.comp (Keeps.of (Dev.free_touches hq4) (by decide)) ?_
      refine Keeps.ite ?_ ?_
      · refine Keeps.comp (recordPoison_keeps ..) ?_
        refine Keeps.comp (postAt_keeps ..) ?_
        refine Keeps.comp (Dev.countH_keeps ..) ?_
        refine Keeps.comp (Dev.latency_keeps ..) ?_
        exact Keeps.refl _
      · refine Keeps.comp (postAt_keeps ..) ?_
        refine Keeps.comp (Dev.countH_keeps ..) ?_
        refine Keeps.comp (Dev.latency_keeps ..) ?_
        exact Keeps.refl _

theorem answerWaiter_keeps (F) (src) (line) (v) (d) (w) : Keeps d (answerWaiter F src line v d w) := by
  unfold answerWaiter
  conv => zeta
  split
  · split
    · refine Keeps.comp (respond_keeps ..) ?_
      refine Keeps.comp (Dev.latency_keeps ..) ?_
      refine Keeps.comp (Dev.trackOut_keeps ..) ?_
      exact Keeps.refl _
    · refine Keeps.comp (respond_keeps ..) ?_
      refine Keeps.comp (Dev.latency_keeps ..) ?_
      refine Keeps.comp (Dev.trackOut_keeps ..) ?_
      exact Keeps.refl _
  · refine Keeps.comp (Dev.trackOut_keeps ..) ?_
    exact Keeps.refl _
  · split
    · refine Keeps.ite ?_ ?_
      · refine Keeps.ite ?_ ?_
        · exact Keeps.refl _
        · split
          · exact Keeps.refl _
          · split
            · refine Keeps.comp (Dev.count_keeps ..) ?_
              refine Keeps.ite ?_ ?_
              · refine Keeps.comp (Keeps.of (Dev.setWb_touches ..) (by decide)) ?_
                exact Keeps.refl _
              · refine Keeps.comp (Keeps.of (Dev.setStaged_touches ..) (by decide)) ?_
                exact Keeps.refl _
            · refine Keeps.comp (dropEntry_keeps ..) ?_
              exact Keeps.refl _
      · refine Keeps.ite ?_ ?_
        · exact Keeps.refl _
        · split
          · exact Keeps.refl _
          · split
            · refine Keeps.comp (Dev.count_keeps ..) ?_
              refine Keeps.ite ?_ ?_
              · refine Keeps.comp (Keeps.of (Dev.setWb_touches ..) (by decide)) ?_
                exact Keeps.refl _
              · refine Keeps.comp (Keeps.of (Dev.setStaged_touches ..) (by decide)) ?_
                exact Keeps.refl _
            · refine Keeps.comp (dropEntry_keeps ..) ?_
              exact Keeps.refl _
    · refine Keeps.ite ?_ ?_
      · exact Keeps.refl _
      · split
        · exact Keeps.refl _
        · split
          · refine Keeps.comp (Dev.count_keeps ..) ?_
            refine Keeps.ite ?_ ?_
            · refine Keeps.comp (Keeps.of (Dev.setWb_touches ..) (by decide)) ?_
              exact Keeps.refl _
            · refine Keeps.comp (Keeps.of (Dev.setStaged_touches ..) (by decide)) ?_
              exact Keeps.refl _
          · refine Keeps.comp (dropEntry_keeps ..) ?_
            exact Keeps.refl _
    · refine Keeps.ite ?_ ?_
      · exact Keeps.refl _
      · split
        · exact Keeps.refl _
        · split
          · refine Keeps.comp (Dev.count_keeps ..) ?_
            refine Keeps.ite ?_ ?_
            · refine Keeps.comp (Keeps.of (Dev.setWb_touches ..) (by decide)) ?_
              exact Keeps.refl _
            · refine Keeps.comp (Keeps.of (Dev.setStaged_touches ..) (by decide)) ?_
              exact Keeps.refl _
          · refine Keeps.comp (dropEntry_keeps ..) ?_
            exact Keeps.refl _
    · exact Keeps.refl _

theorem codeFixed_keeps (d) (f) (l) : Keeps d (codeFixed d f l) := by
  unfold codeFixed
  conv => zeta
  refine Keeps.ite ?_ ?_
  · refine Keeps.comp (Dev.transient_keeps ..) ?_
    refine Keeps.comp (Keeps.of (Dev.resurveyAdd_touches ..) (by decide)) ?_
    refine Keeps.comp (Keeps.of (Touches.put_drift ..) (by decide)) ?_
    refine Keeps.comp (Dev.setCtl_keeps ..) ?_
    refine Keeps.comp (Dev.bump_keeps ..) ?_
    exact Keeps.refl _
  · refine Keeps.comp (Keeps.of (Dev.resurveyAdd_touches ..) (by decide)) ?_
    refine Keeps.comp (Keeps.of (Touches.put_drift ..) (by decide)) ?_
    refine Keeps.comp (Dev.setCtl_keeps ..) ?_
    refine Keeps.comp (Dev.bump_keeps ..) ?_
    exact Keeps.refl _

theorem endFetch_keeps (F) (d) (f) (src) (v) : Keeps d (endFetch F d f src v) := by
  unfold endFetch
  conv => zeta
  split
  · refine Keeps.comp (Dev.fillsGo_keeps ..) ?_
    refine Keeps.foldl (fun _ _ => answerWaiter_keeps ..) ?_
    split
    · refine Keeps.ite ?_ ?_
      · refine Keeps.comp (Keeps.of (Dev.confirmAdd_touches ..) (by decide)) ?_
        refine Keeps.comp (Dev.setCache_keeps ?_) ?_
        · exact fun h => h.scratch
        exact Keeps.refl _
      · refine Keeps.comp (Dev.setCache_keeps ?_) ?_
        · exact fun h => h.scratch
        exact Keeps.refl _
    · refine Keeps.comp (Dev.setCache_keeps ?_) ?_
      · exact fun h => h.scratch
      exact Keeps.refl _
  · refine Keeps.ite ?_ ?_
    · refine Keeps.comp (Dev.fillsGo_keeps ..) ?_
      refine Keeps.foldl (fun _ _ => answerWaiter_keeps ..) ?_
      split
      · refine Keeps.ite ?_ ?_
        · refine Keeps.comp (Keeps.of (Dev.confirmAdd_touches ..) (by decide)) ?_
          refine Keeps.comp (Dev.setCache_keeps ?_) ?_
          · exact fun h => h.scratch
          exact Keeps.refl _
        · refine Keeps.comp (Dev.setCache_keeps ?_) ?_
          · exact fun h => h.scratch
          exact Keeps.refl _
      · refine Keeps.comp (Dev.setCache_keeps ?_) ?_
        · exact fun h => h.scratch
        exact Keeps.refl _
    · refine Keeps.ite ?_ ?_
      · refine Keeps.comp (Dev.install_keeps ..) ?_
        refine Keeps.comp (Dev.fillsGo_keeps ..) ?_
        refine Keeps.foldl (fun _ _ => answerWaiter_keeps ..) ?_
        split
        · refine Keeps.ite ?_ ?_
          · refine Keeps.comp (Keeps.of (Dev.confirmAdd_touches ..) (by decide)) ?_
            refine Keeps.comp (Dev.setCache_keeps ?_) ?_
            · exact fun h => h.scratch
            exact Keeps.refl _
          · refine Keeps.comp (Dev.setCache_keeps ?_) ?_
            · exact fun h => h.scratch
            exact Keeps.refl _
        · refine Keeps.comp (Dev.setCache_keeps ?_) ?_
          · exact fun h => h.scratch
          exact Keeps.refl _
      · refine Keeps.comp (Dev.count_keeps ..) ?_
        refine Keeps.comp (Dev.fillsGo_keeps ..) ?_
        refine Keeps.foldl (fun _ _ => answerWaiter_keeps ..) ?_
        split
        · refine Keeps.ite ?_ ?_
          · refine Keeps.comp (Keeps.of (Dev.confirmAdd_touches ..) (by decide)) ?_
            refine Keeps.comp (Dev.setCache_keeps ?_) ?_
            · exact fun h => h.scratch
            exact Keeps.refl _
          · refine Keeps.comp (Dev.setCache_keeps ?_) ?_
            · exact fun h => h.scratch
            exact Keeps.refl _
        · refine Keeps.comp (Dev.setCache_keeps ?_) ?_
          · exact fun h => h.scratch
          exact Keeps.refl _

theorem openFetch_keeps (F) (d) (f) (src) (m) : Keeps d (openFetch F d f src m) := by
  unfold openFetch
  split
  · rename_i hq2
    refine Keeps.comp (endFetch_keeps ..) ?_
    refine Keeps.comp (Dev.openLine_keeps hq2) ?_
    exact Keeps.refl _

theorem aroundDone_keeps (F) (d) (f) (l) (m) : Keeps d (aroundDone F d f l m) := by
  unfold aroundDone
  refine Keeps.comp (openFetch_keeps ..) ?_
  refine Keeps.comp (Dev.quadCount_keeps ..) ?_
  refine Keeps.ite ?_ ?_
  · refine Keeps.comp (codeFixed_keeps ..) ?_
    exact Keeps.refl _
  · refine Keeps.ite ?_ ?_
    · refine Keeps.comp (Dev.bump_keeps ..) ?_
      exact Keeps.refl _
    · exact Keeps.refl _

theorem fallback_keeps (F) (d) (f) (l) (unk) : Keeps d (fallback F d f l unk) := by
  unfold fallback
  split
  · refine Keeps.comp (aroundDone_keeps ..) ?_
    exact Keeps.refl _
  · refine Keeps.ite ?_ ?_
    · refine Keeps.comp (Dev.mapFetch_keeps ..) ?_
      exact Keeps.refl _
    · refine Keeps.comp (endFetch_keeps ..) ?_
      exact Keeps.refl _

theorem heavyDone_keeps (F) (d) (line) (v) (bytes) : Keeps d (heavyDone F d line v bytes) := by
  unfold heavyDone
  conv => zeta
  split
  · exact Keeps.refl _
  · refine Keeps.ite ?_ ?_
    · exact Keeps.refl _
    · refine Keeps.ite ?_ ?_
      · refine Keeps.comp (fallback_keeps ..) ?_
        refine Keeps.comp (Dev.mapFetch_keeps ..) ?_
        refine Keeps.comp (Dev.mapFetch_keeps ..) ?_
        exact Keeps.refl _
      · split
        · refine Keeps.comp (openFetch_keeps ..) ?_
          refine Keeps.comp (postAt_keeps ..) ?_
          refine Keeps.comp (Dev.weakMatch_keeps ..) ?_
          refine Keeps.comp (Keeps.of (Dev.resurveyAdd_touches ..) (by decide)) ?_
          refine Keeps.comp (Dev.bump_keeps ..) ?_
          refine Keeps.comp (Dev.quadCount_keeps ..) ?_
          refine Keeps.comp (Dev.mapFetch_keeps ..) ?_
          exact Keeps.refl _
        · refine Keeps.comp (fallback_keeps ..) ?_
          refine Keeps.comp (Dev.quadCount_keeps ..) ?_
          refine Keeps.comp (Dev.mapFetch_keeps ..) ?_
          exact Keeps.refl _

theorem unmapped_keeps (F) (d) (h) (tag) : Keeps d (unmapped F d h tag) := by
  unfold unmapped
  refine Keeps.comp (Keeps.of (Dev.emit_touches ..) (by decide)) ?_
  refine Keeps.comp (Dev.event_keeps ..) ?_
  exact Keeps.refl _

theorem readEntry_keeps (F) (d) (h) (tag) (line) (key) (base) (e) (isStaged) : Keeps d (readEntry F d h tag line key base e isStaged) := by
  unfold readEntry
  conv => zeta
  refine Keeps.ite ?_ ?_
  · refine Keeps.comp (respond_keeps ..) ?_
    refine Keeps.comp (Dev.count_keeps ..) ?_
    exact Keeps.refl _
  · refine Keeps.ite ?_ ?_
    · refine Keeps.comp (respond_keeps ..) ?_
      refine Keeps.comp (Dev.count_keeps ..) ?_
      exact Keeps.refl _
    · split
      · split
        · refine Keeps.comp (respond_keeps ..) ?_
          refine Keeps.comp (Dev.count_keeps ..) ?_
          refine Keeps.comp (Dev.count_keeps ..) ?_
          refine Keeps.ite ?_ ?_
          · refine Keeps.comp (Keeps.of (Dev.setStaged_touches ..) (by decide)) ?_
            exact Keeps.refl _
          · refine Keeps.comp (Keeps.of (Dev.setWb_touches ..) (by decide)) ?_
            exact Keeps.refl _
        · refine Keeps.comp (respond_keeps ..) ?_
          refine Keeps.comp (dropEntry_keeps ..) ?_
          exact Keeps.refl _
      · refine Keeps.comp (Dev.fetchFor_keeps ..) ?_
        refine Keeps.comp (Dev.trackIn_keeps ..) ?_
        exact Keeps.refl _

theorem readPersist_keeps (F) (d) (h) (tag) (dpa) : Keeps d (readPersist F d h tag dpa) := by
  unfold readPersist
  conv => zeta
  split
  · split
    · refine Keeps.comp (readEntry_keeps ..) ?_
      exact Keeps.refl _
    · refine Keeps.comp (readEntry_keeps ..) ?_
      exact Keeps.refl _
    · split
      · refine Keeps.comp (respond_keeps ..) ?_
        refine Keeps.comp (Dev.count_keeps ..) ?_
        refine Keeps.comp (Dev.recall_keeps ..) ?_
        exact Keeps.refl _
      · split
        · refine Keeps.comp (respond_keeps ..) ?_
          refine Keeps.comp (Dev.count_keeps ..) ?_
          refine Keeps.comp (Dev.pageFill_keeps ..) ?_
          refine Keeps.comp (Dev.install_keeps ..) ?_
          refine Keeps.comp (Dev.bring_keeps ..) ?_
          exact Keeps.refl _
        · refine Keeps.comp (respond_keeps ..) ?_
          split
          · refine Keeps.comp (Dev.recall_keeps ..) ?_
            exact Keeps.refl _
          · exact Keeps.refl _
        · refine Keeps.comp (Dev.pageFill_keeps ..) ?_
          refine Keeps.comp (Dev.fetchFor_keeps ..) ?_
          refine Keeps.comp (Dev.trackIn_keeps ..) ?_
          refine Keeps.comp (Dev.bring_keeps ..) ?_
          exact Keeps.refl _

theorem hostRead_keeps (F) (d) (h) (tag) (dpa) : Keeps d (hostRead F d h tag dpa) := by
  unfold hostRead
  conv => zeta
  refine Keeps.ite ?_ ?_
  · exact Keeps.refl _
  · refine Keeps.ite ?_ ?_
    · refine Keeps.comp (unmapped_keeps ..) ?_
      refine Keeps.comp (Dev.useReq_keeps ..) ?_
      exact Keeps.refl _
    · split
      · refine Keeps.comp (readPersist_keeps ..) ?_
        refine Keeps.comp (Dev.countH_keeps ..) ?_
        refine Keeps.comp (Dev.useReq_keeps ..) ?_
        exact Keeps.refl _
      · refine Keeps.ite ?_ ?_
        · refine Keeps.comp (respond_keeps ..) ?_
          refine Keeps.comp (Dev.countH_keeps ..) ?_
          refine Keeps.comp (Dev.useReq_keeps ..) ?_
          exact Keeps.refl _
        · refine Keeps.comp (respond_keeps ..) ?_
          refine Keeps.comp (Dev.count_keeps ..) ?_
          refine Keeps.comp (Dev.countH_keeps ..) ?_
          refine Keeps.comp (Dev.useReq_keeps ..) ?_
          exact Keeps.refl _
      · refine Keeps.comp (respond_keeps ..) ?_
        refine Keeps.comp (Dev.countH_keeps ..) ?_
        refine Keeps.comp (Dev.useReq_keeps ..) ?_
        exact Keeps.refl _

theorem ladderAround_keeps (F) (d) (f) (l) (unk) : Keeps d (ladderAround F d f l unk) := by
  unfold ladderAround
  split
  · refine Keeps.comp (aroundDone_keeps ..) ?_
    exact Keeps.refl _
  · refine Keeps.ite ?_ ?_
    · refine Keeps.ite ?_ ?_
      · exact Keeps.refl _
      · refine Keeps.comp (endFetch_keeps ..) ?_
        exact Keeps.refl _
    · refine Keeps.ite ?_ ?_
      · refine Keeps.comp (Dev.windowAbort_keeps ..) ?_
        exact Keeps.refl _
      · exact Keeps.refl _

theorem ladderStep_keeps (F) (d) (f) (l) (v) (unk) : Keeps d (ladderStep F d f l v unk) := by
  unfold ladderStep
  conv => zeta
  split
  · refine Keeps.ite ?_ ?_
    · refine Keeps.comp (openFetch_keeps ..) ?_
      refine Keeps.comp (Dev.quadCount_keeps ..) ?_
      exact Keeps.refl _
    · exact Keeps.refl _
  · refine Keeps.ite ?_ ?_
    · refine Keeps.comp (Dev.mapFetch_keeps ..) ?_
      refine Keeps.comp (Dev.quadCount_keeps ..) ?_
      exact Keeps.refl _
    · split
      · refine Keeps.comp (aroundDone_keeps ..) ?_
        refine Keeps.comp (Dev.quadCount_keeps ..) ?_
        exact Keeps.refl _
      · refine Keeps.comp (endFetch_keeps ..) ?_
        refine Keeps.comp (Dev.quadCount_keeps ..) ?_
        exact Keeps.refl _

theorem mediaReturn_keeps (x0) (x1) (x2) (x3) (x4) :
    Keeps x1 (mediaReturn x0 x1 x2 x3 x4) := by
  unfold mediaReturn
  split
  · exact Keeps.refl _
  · split
    · exact (endFetch_keeps ..)
    · exact (endFetch_keeps ..)
    · have h1 : ∀ l, Keeps x1 (((x1.quadCount l 0).quadCount l 7).quadCount l 9) := fun l =>
        Keeps.comp (Dev.quadCount_keeps ..) (Keeps.comp (Dev.quadCount_keeps ..) ((Dev.quadCount_keeps ..)))
      refine Keeps.ite (Keeps.ite ?_ ?_) (Keeps.ite ?_ ?_)
      · exact (ladderAround_keeps ..)
      · exact (ladderStep_keeps ..)
      · exact Keeps.refl _
      generalize Dev.readLoc _ _ _ _ = q
      cases q with
      | direct m => exact Keeps.comp (openFetch_keeps ..) ((Dev.quadCount_keeps ..))
      | lost => exact (endFetch_keeps ..)
      | around m =>
        refine Keeps.ite ?_ (Keeps.ite ?_ ?_)
        · exact (fallback_keeps ..)
        · exact Keeps.comp (Dev.mapFetch_keeps ..) (h1 _)
        · exact Keeps.comp (fallback_keeps ..) (h1 _)
      | unknown =>
        refine Keeps.ite ?_ (Keeps.ite ?_ ?_)
        · exact (fallback_keeps ..)
        · exact Keeps.comp (Dev.mapFetch_keeps ..) (h1 _)
        · exact Keeps.comp (fallback_keeps ..) (h1 _)

theorem retryRead_keeps (F) (d) (line) (v) (unk) : Keeps d (retryRead F d line v unk) := by
  unfold retryRead
  conv => zeta
  split
  · exact Keeps.refl _
  · refine Keeps.ite ?_ ?_
    · exact Keeps.refl _
    · split
      · refine Keeps.comp (openFetch_keeps ..) ?_
        refine Keeps.comp (Dev.transient_keeps ..) ?_
        exact Keeps.refl _
      · refine Keeps.comp (aroundDone_keeps ..) ?_
        refine Keeps.comp (Dev.transient_keeps ..) ?_
        exact Keeps.refl _
      · refine Keeps.comp (endFetch_keeps ..) ?_
        exact Keeps.refl _
      · refine Keeps.ite ?_ ?_
        · exact Keeps.refl _
        · refine Keeps.comp (endFetch_keeps ..) ?_
          exact Keeps.refl _

theorem specRead_keeps (F) (d) (h) (dpa) : Keeps d (specRead F d h dpa) := by
  unfold specRead
  conv => zeta
  refine Keeps.ite ?_ ?_
  · exact Keeps.refl _
  · refine Keeps.ite ?_ ?_
    · refine Keeps.comp (Dev.event_keeps ..) ?_
      refine Keeps.comp (Dev.countH_keeps ..) ?_
      refine Keeps.comp (Dev.useReq_keeps ..) ?_
      exact Keeps.refl _
    · refine Keeps.ite ?_ ?_
      · refine Keeps.comp (Dev.countH_keeps ..) ?_
        refine Keeps.comp (Dev.useReq_keeps ..) ?_
        exact Keeps.refl _
      · refine Keeps.ite ?_ ?_
        · refine Keeps.comp (Dev.countH_keeps ..) ?_
          refine Keeps.comp (Dev.countH_keeps ..) ?_
          refine Keeps.comp (Dev.useReq_keeps ..) ?_
          exact Keeps.refl _
        · refine Keeps.ite ?_ ?_
          · refine Keeps.comp (Dev.countH_keeps ..) ?_
            refine Keeps.comp (Dev.useReq_keeps ..) ?_
            exact Keeps.refl _
          · split
            · split
              · refine Keeps.comp (Dev.pageFill_keeps ..) ?_
                refine Keeps.comp (Dev.install_keeps ..) ?_
                refine Keeps.comp (Dev.bring_keeps ..) ?_
                refine Keeps.comp (Dev.countH_keeps ..) ?_
                refine Keeps.comp (Dev.useReq_keeps ..) ?_
                exact Keeps.refl _
              · refine Keeps.comp (Dev.countH_keeps ..) ?_
                refine Keeps.comp (Dev.useReq_keeps ..) ?_
                exact Keeps.refl _
              · refine Keeps.comp (Dev.pageFill_keeps ..) ?_
                refine Keeps.comp (Dev.fetchFor_keeps ..) ?_
                refine Keeps.comp (Dev.trackIn_keeps ..) ?_
                refine Keeps.comp (Dev.bring_keeps ..) ?_
                refine Keeps.comp (Dev.countH_keeps ..) ?_
                refine Keeps.comp (Dev.useReq_keeps ..) ?_
                exact Keeps.refl _

theorem Dev.armedRecord_keeps (d) (h) (k) (tract) : Keeps d (Dev.armedRecord d h k tract) := by
  unfold Dev.armedRecord
  refine Keeps.ite ?_ ?_
  · exact Keeps.refl _
  · refine Keeps.comp (Dev.post_keeps ..) ?_
    exact Keeps.refl _

theorem Dev.cacheMacro_keeps (d) (w) : Keeps d (Dev.cacheMacro d w) := by
  unfold Dev.cacheMacro
  refine Keeps.ite ?_ ?_
  · exact Keeps.refl _
  · refine Keeps.comp (Dev.icu_keeps ..) ?_
    refine Keeps.comp (Keeps.of (Touches.put_drift ..) (by decide)) ?_
    refine Keeps.comp (Dev.setCache_keeps ?_) ?_
    · exact fun h => h.scratch
    exact Keeps.refl _

theorem Dev.compatDone_keeps (d) : Keeps d (Dev.compatDone d) := by
  unfold Dev.compatDone
  refine Keeps.ite ?_ ?_
  · exact Keeps.refl _
  · refine Keeps.comp (Dev.setCache_keeps ?_) ?_
    · exact fun h => h.scratch
    refine Keeps.comp (Dev.emptyCmp_keeps ..) ?_
    exact Keeps.refl _

theorem Dev.compatStop_keeps (d) : Keeps d (Dev.compatStop d) := by
  unfold Dev.compatStop
  refine Keeps.comp (Dev.compatOff_keeps ..) ?_
  refine Keeps.comp (Dev.compatDone_keeps ..) ?_
  exact Keeps.refl _

theorem Dev.scratchDone_keeps (d) : Keeps d (Dev.scratchDone d) := by
  unfold Dev.scratchDone
  refine Keeps.ite ?_ ?_
  · refine Keeps.comp (Dev.setCache_keeps ?_) ?_
    · exact fun h => h.scratch
    exact Keeps.refl _
  · exact Keeps.refl _

theorem discardHost_keeps (F) (d) (h) (tag) (tract) : Keeps d (discardHost F d h tag tract) := by
  unfold discardHost
  refine Keeps.comp (Keeps.of (Dev.emit_touches ..) (by decide)) ?_
  split
  · refine Keeps.comp (Dev.armedRecord_keeps ..) ?_
    refine Keeps.comp (Dev.countH_keeps ..) ?_
    refine Keeps.comp (Dev.bump_keeps ..) ?_
    exact Keeps.refl _
  · refine Keeps.comp (Dev.countH_keeps ..) ?_
    refine Keeps.comp (Dev.bump_keeps ..) ?_
    exact Keeps.refl _

theorem drainBank_keeps (F) (d) (b) : Keeps d (drainBank F d b) := by
  unfold drainBank
  refine Keeps.foldl (fun _ _ => ?_) ?_
  · refine Keeps.comp (Keeps.of (Dev.setStaged_touches ..) (by decide)) ?_
    exact Keeps.refl _
  · refine Keeps.foldl (fun _ _ => selectOne_keeps ..) ?_
    exact Keeps.refl _

theorem lostLine_keeps (F) (d) (line) : Keeps d (lostLine F d line) := by
  unfold lostLine
  refine Keeps.comp (recordPoison_keeps ..) ?_
  refine Keeps.comp (Dev.event_keeps ..) ?_
  refine Keeps.ite ?_ ?_
  · refine Keeps.comp (Dev.putLine_keeps ..) ?_
    exact Keeps.refl _
  · refine Keeps.comp (Keeps.of (Touches.put_gon ..) (by decide)) ?_
    exact Keeps.refl _

theorem loseLine_keeps (F) (inB) (d) (line) : Keeps d (loseLine F inB d line) := by
  unfold loseLine
  conv => zeta
  split
  · exact Keeps.refl _
  · refine Keeps.comp (lostLine_keeps ..) ?_
    refine Keeps.comp (ackAll_keeps ..) ?_
    refine Keeps.comp (Keeps.of (Dev.setWb_touches ..) (by decide)) ?_
    refine Keeps.comp (Keeps.of (Dev.setStaged_touches ..) (by decide)) ?_
    exact Keeps.refl _
  · refine Keeps.comp (promoteHeld_keeps ..) ?_
    refine Keeps.ite ?_ ?_
    · refine Keeps.comp (ackAll_keeps ..) ?_
      refine Keeps.comp (Keeps.of (Dev.setWb_touches ..) (by decide)) ?_
      exact Keeps.refl _
    · refine Keeps.comp (lostLine_keeps ..) ?_
      refine Keeps.comp (ackAll_keeps ..) ?_
      refine Keeps.comp (Keeps.of (Dev.setWb_touches ..) (by decide)) ?_
      exact Keeps.refl _
  · refine Keeps.comp (lostLine_keeps ..) ?_
    refine Keeps.comp (ackAll_keeps ..) ?_
    refine Keeps.comp (Keeps.of (Dev.setWb_touches ..) (by decide)) ?_
    refine Keeps.comp (Keeps.of (Dev.setStaged_touches ..) (by decide)) ?_
    exact Keeps.refl _

theorem gondolaMacro_keeps (F) (d) (b) (m) (lost) : Keeps d (gondolaMacro F d b m lost) := by
  unfold gondolaMacro
  conv => zeta
  refine Keeps.ite ?_ ?_
  · exact Keeps.refl _
  · refine Keeps.ite ?_ ?_
    · refine Keeps.comp (Dev.icu_keeps ..) ?_
      refine Keeps.comp (Dev.event_keeps ..) ?_
      refine Keeps.comp (Keeps.of (Touches.put_drift ..) (by decide)) ?_
      refine Keeps.comp (Keeps.of (Touches.put_gon ..) (by decide)) ?_
      exact Keeps.refl _
    · refine Keeps.comp (drainBank_keeps ..) ?_
      refine Keeps.comp (Keeps.of (Dev.faultPulse_touches ..) (by decide)) ?_
      refine Keeps.foldl (fun _ _ => loseLine_keeps ..) ?_
      refine Keeps.comp (Dev.postAll_keeps ..) ?_
      refine Keeps.comp (Dev.icu_keeps ..) ?_
      refine Keeps.comp (Dev.event_keeps ..) ?_
      refine Keeps.comp (Keeps.of (Touches.put_drift ..) (by decide)) ?_
      refine Keeps.comp (Keeps.of (Touches.put_gon ..) (by decide)) ?_
      exact Keeps.refl _

theorem writePersist_keeps (F) (d) (h) (tag) (dpa) (data) (be) (poison) : Keeps d (writePersist F d h tag dpa data be poison) := by
  unfold writePersist
  conv => zeta
  refine Keeps.ite ?_ ?_
  · refine Keeps.comp (discardHost_keeps ..) ?_
    exact Keeps.refl _
  · split
    · refine Keeps.ite ?_ ?_
      · refine Keeps.comp (acceptWrite_keeps ..) ?_
        refine Keeps.comp (Dev.trackIn_keeps ..) ?_
        refine Keeps.comp (sealedNote_keeps ..) ?_
        exact Keeps.refl _
      · refine Keeps.ite ?_ ?_
        · refine Keeps.comp (acceptWrite_keeps ..) ?_
          refine Keeps.comp (Dev.trackIn_keeps ..) ?_
          refine Keeps.comp (recordPoison_keeps ..) ?_
          exact Keeps.refl _
        · refine Keeps.comp (acceptWrite_keeps ..) ?_
          refine Keeps.comp (Dev.trackIn_keeps ..) ?_
          exact Keeps.refl _

theorem scratchWrite_keeps (F) (d) (h) (tag) (line) (i) (data) (be) (poison) : Keeps d (scratchWrite F d h tag line i data be poison) := by
  unfold scratchWrite
  extract_lets c done
  have hd : ∀ d : Dev, Keeps d (done d) := fun d => Keeps.of (Dev.emit_touches ..) (by decide)
  refine Keeps.ite (Keeps.comp (hd _) ?_) (Keeps.ite (Keeps.comp (hd _) ?_) (Keeps.ite (Keeps.comp (hd _) (partialLoss_keeps ..)) (Keeps.comp (hd _) ?_)))
  · exact Keeps.scratch (recordPoison_keeps ..) fun s => Tbl.put_wf _ _ _ _ s.scratch
  · exact Dev.setCache_keeps fun s => Tbl.put_wf _ _ _ _ s.scratch
  · exact Dev.setCache_keeps fun s => by dsimp only; exact Tbl.upd_wf _ _ _ _ s.scratch

theorem hostWrite_keeps (F) (d) (h) (tag) (dpa) (data) (be) (poison) : Keeps d (hostWrite F d h tag dpa data be poison) := by
  unfold hostWrite
  conv => zeta
  refine Keeps.ite ?_ ?_
  · exact Keeps.refl _
  · refine Keeps.ite ?_ ?_
    · refine Keeps.comp (unmapped_keeps ..) ?_
      refine Keeps.comp (Dev.useRwd_keeps ..) ?_
      exact Keeps.refl _
    · split
      · refine Keeps.comp (writePersist_keeps ..) ?_
        refine Keeps.comp (Dev.countH_keeps ..) ?_
        refine Keeps.comp (Dev.useRwd_keeps ..) ?_
        exact Keeps.refl _
      · refine Keeps.comp (scratchWrite_keeps ..) ?_
        refine Keeps.comp (Dev.count_keeps ..) ?_
        refine Keeps.comp (Dev.countH_keeps ..) ?_
        refine Keeps.comp (Dev.useRwd_keeps ..) ?_
        exact Keeps.refl _
      · refine Keeps.comp (discardHost_keeps ..) ?_
        refine Keeps.comp (Dev.countH_keeps ..) ?_
        refine Keeps.comp (Dev.useRwd_keeps ..) ?_
        exact Keeps.refl _
      · refine Keeps.comp (discardHost_keeps ..) ?_
        refine Keeps.ite ?_ ?_
        · refine Keeps.comp (Dev.bump_keeps ..) ?_
          refine Keeps.comp (Dev.countH_keeps ..) ?_
          refine Keeps.comp (Dev.useRwd_keeps ..) ?_
          exact Keeps.refl _
        · refine Keeps.comp (Dev.countH_keeps ..) ?_
          refine Keeps.comp (Dev.useRwd_keeps ..) ?_
          exact Keeps.refl _

theorem metaLost_keeps (F) (d) (id) : Keeps d (metaLost F d id) := by
  unfold metaLost
  conv => zeta
  refine Keeps.ite ?_ ?_
  · refine Keeps.foldl (fun _ _ => ?_) ?_
    · refine Keeps.comp (recordPoison_keeps ..) ?_
      refine Keeps.comp (Keeps.of (Dev.voidTract_touches ..) (by decide)) ?_
      exact Keeps.refl _
    · refine Keeps.foldl (fun _ _ => ?_) ?_
      · refine Keeps.comp (Dev.event_keeps ..) ?_
        exact Keeps.refl _
      · exact Keeps.refl _
  · refine Keeps.ite ?_ ?_
    · refine Keeps.comp (Keeps.of (Dev.tcTouch_touches ..) (by decide)) ?_
      refine Keeps.comp (Keeps.of (Dev.setMeta_touches ..) (by decide)) ?_
      refine Keeps.foldl (fun _ _ => ?_) ?_
      · refine Keeps.comp (Dev.event_keeps ..) ?_
        exact Keeps.refl _
      · exact Keeps.refl _
    · refine Keeps.foldl (fun _ _ => ?_) ?_
      · refine Keeps.comp (Dev.event_keeps ..) ?_
        exact Keeps.refl _
      · exact Keeps.refl _

theorem sramBad_keeps (F) (d) (st) (a) : Keeps d (sramBad F d st a) := by
  unfold sramBad
  conv => zeta
  split
  · refine Keeps.ite ?_ ?_
    · refine Keeps.comp (loseLine_keeps ..) ?_
      refine Keeps.comp (Keeps.of (Dev.faultPulse_touches ..) (by decide)) ?_
      refine Keeps.comp (Dev.forceFlush_keeps ..) ?_
      refine Keeps.comp (Dev.icu_keeps ..) ?_
      refine Keeps.comp (Dev.event_keeps ..) ?_
      refine Keeps.comp (Keeps.of (Touches.put_drift ..) (by decide)) ?_
      exact Keeps.refl _
    · refine Keeps.comp (Dev.forceFlush_keeps ..) ?_
      refine Keeps.comp (Dev.icu_keeps ..) ?_
      refine Keeps.comp (Dev.event_keeps ..) ?_
      refine Keeps.comp (Keeps.of (Touches.put_drift ..) (by decide)) ?_
      exact Keeps.refl _
  · refine Keeps.ite ?_ ?_
    · refine Keeps.comp (Dev.setCache_keeps ?_) ?_
      · exact fun h => h.scratch
      refine Keeps.comp (Dev.forceFlush_keeps ..) ?_
      refine Keeps.comp (Dev.icu_keeps ..) ?_
      refine Keeps.comp (Dev.event_keeps ..) ?_
      refine Keeps.comp (Keeps.of (Touches.put_drift ..) (by decide)) ?_
      exact Keeps.refl _
    · refine Keeps.comp (Dev.writeClears_keeps ..) ?_
      refine Keeps.comp (Dev.forceFlush_keeps ..) ?_
      refine Keeps.comp (Dev.icu_keeps ..) ?_
      refine Keeps.comp (Dev.event_keeps ..) ?_
      refine Keeps.comp (Keeps.of (Touches.put_drift ..) (by decide)) ?_
      exact Keeps.refl _
  · refine Keeps.ite ?_ ?_
    · refine Keeps.comp (Dev.setCache_keeps ?_) ?_
      · exact fun h => h.scratch
      refine Keeps.comp (Dev.forceFlush_keeps ..) ?_
      refine Keeps.comp (Dev.icu_keeps ..) ?_
      refine Keeps.comp (Dev.event_keeps ..) ?_
      refine Keeps.comp (Keeps.of (Touches.put_drift ..) (by decide)) ?_
      exact Keeps.refl _
    · refine Keeps.comp (Dev.writeClears_keeps ..) ?_
      refine Keeps.comp (Dev.forceFlush_keeps ..) ?_
      refine Keeps.comp (Dev.icu_keeps ..) ?_
      refine Keeps.comp (Dev.event_keeps ..) ?_
      refine Keeps.comp (Keeps.of (Touches.put_drift ..) (by decide)) ?_
      exact Keeps.refl _
  · refine Keeps.ite ?_ ?_
    · refine Keeps.comp (Dev.setCache_keeps ?_) ?_
      · exact fun h => h.scratch
      refine Keeps.comp (Dev.forceFlush_keeps ..) ?_
      refine Keeps.comp (Dev.icu_keeps ..) ?_
      refine Keeps.comp (Dev.event_keeps ..) ?_
      refine Keeps.comp (Keeps.of (Touches.put_drift ..) (by decide)) ?_
      exact Keeps.refl _
    · refine Keeps.comp (Dev.writeClears_keeps ..) ?_
      refine Keeps.comp (Dev.forceFlush_keeps ..) ?_
      refine Keeps.comp (Dev.icu_keeps ..) ?_
      refine Keeps.comp (Dev.event_keeps ..) ?_
      refine Keeps.comp (Keeps.of (Touches.put_drift ..) (by decide)) ?_
      exact Keeps.refl _
  · refine Keeps.comp (Keeps.of (Touches.put_lci ..) (by decide)) ?_
    refine Keeps.comp (Dev.icu_keeps ..) ?_
    refine Keeps.comp (Dev.event_keeps ..) ?_
    refine Keeps.comp (Dev.forceFlush_keeps ..) ?_
    refine Keeps.comp (Dev.icu_keeps ..) ?_
    refine Keeps.comp (Dev.event_keeps ..) ?_
    refine Keeps.comp (Keeps.of (Touches.put_drift ..) (by decide)) ?_
    exact Keeps.refl _
  · split
    · split
      · refine Keeps.ite ?_ ?_
        · refine Keeps.comp (Dev.exhaust_keeps ..) ?_
          refine Keeps.comp (Keeps.of (Touches.put_sec ..) (by decide)) ?_
          refine Keeps.comp (Dev.forceFlush_keeps ..) ?_
          refine Keeps.comp (Dev.icu_keeps ..) ?_
          refine Keeps.comp (Dev.event_keeps ..) ?_
          refine Keeps.comp (Keeps.of (Touches.put_drift ..) (by decide)) ?_
          exact Keeps.refl _
        · refine Keeps.comp (Keeps.of (Touches.put_sec ..) (by decide)) ?_
          refine Keeps.comp (Dev.forceFlush_keeps ..) ?_
          refine Keeps.comp (Dev.icu_keeps ..) ?_
          refine Keeps.comp (Dev.event_keeps ..) ?_
          refine Keeps.comp (Keeps.of (Touches.put_drift ..) (by decide)) ?_
          exact Keeps.refl _
      · refine Keeps.comp (Dev.forceFlush_keeps ..) ?_
        refine Keeps.comp (Dev.icu_keeps ..) ?_
        refine Keeps.comp (Dev.event_keeps ..) ?_
        refine Keeps.comp (Keeps.of (Touches.put_drift ..) (by decide)) ?_
        exact Keeps.refl _
    · refine Keeps.comp (Dev.forceFlush_keeps ..) ?_
      refine Keeps.comp (Dev.icu_keeps ..) ?_
      refine Keeps.comp (Dev.event_keeps ..) ?_
      refine Keeps.comp (Keeps.of (Touches.put_drift ..) (by decide)) ?_
      exact Keeps.refl _
  · split
    · refine Keeps.ite ?_ ?_
      · refine Keeps.comp (metaLost_keeps ..) ?_
        refine Keeps.comp (Dev.forceFlush_keeps ..) ?_
        refine Keeps.comp (Dev.icu_keeps ..) ?_
        refine Keeps.comp (Dev.event_keeps ..) ?_
        refine Keeps.comp (Keeps.of (Touches.put_drift ..) (by decide)) ?_
        exact Keeps.refl _
      · refine Keeps.comp (Keeps.of (Touches.put_tracts ..) (by decide)) ?_
        refine Keeps.comp (Dev.forceFlush_keeps ..) ?_
        refine Keeps.comp (Dev.icu_keeps ..) ?_
        refine Keeps.comp (Dev.event_keeps ..) ?_
        refine Keeps.comp (Keeps.of (Touches.put_drift ..) (by decide)) ?_
        exact Keeps.refl _
    · refine Keeps.comp (Dev.forceFlush_keeps ..) ?_
      refine Keeps.comp (Dev.icu_keeps ..) ?_
      refine Keeps.comp (Dev.event_keeps ..) ?_
      refine Keeps.comp (Keeps.of (Touches.put_drift ..) (by decide)) ?_
      exact Keeps.refl _
  · refine Keeps.comp (Keeps.of (Touches.put_drift ..) (by decide)) ?_
    refine Keeps.comp (Dev.forceFlush_keeps ..) ?_
    refine Keeps.comp (Dev.icu_keeps ..) ?_
    refine Keeps.comp (Dev.event_keeps ..) ?_
    refine Keeps.comp (Keeps.of (Touches.put_drift ..) (by decide)) ?_
    exact Keeps.refl _
  · split
    · refine Keeps.comp (endFetch_keeps ..) ?_
      refine Keeps.comp (Dev.forceFlush_keeps ..) ?_
      refine Keeps.comp (Dev.icu_keeps ..) ?_
      refine Keeps.comp (Dev.event_keeps ..) ?_
      refine Keeps.comp (Keeps.of (Touches.put_drift ..) (by decide)) ?_
      exact Keeps.refl _
    · refine Keeps.comp (Dev.forceFlush_keeps ..) ?_
      refine Keeps.comp (Dev.icu_keeps ..) ?_
      refine Keeps.comp (Dev.event_keeps ..) ?_
      refine Keeps.comp (Keeps.of (Touches.put_drift ..) (by decide)) ?_
      exact Keeps.refl _
  · refine Keeps.comp (Dev.forceFlush_keeps ..) ?_
    refine Keeps.comp (Dev.icu_keeps ..) ?_
    refine Keeps.comp (Dev.event_keeps ..) ?_
    refine Keeps.comp (Keeps.of (Touches.put_drift ..) (by decide)) ?_
    exact Keeps.refl _
  · refine Keeps.comp (Dev.forceFlush_keeps ..) ?_
    refine Keeps.comp (Dev.icu_keeps ..) ?_
    refine Keeps.comp (Dev.event_keeps ..) ?_
    refine Keeps.comp (Keeps.of (Touches.put_drift ..) (by decide)) ?_
    exact Keeps.refl _
  · refine Keeps.comp (Dev.forceFlush_keeps ..) ?_
    refine Keeps.comp (Dev.icu_keeps ..) ?_
    refine Keeps.comp (Dev.event_keeps ..) ?_
    refine Keeps.comp (Keeps.of (Touches.put_drift ..) (by decide)) ?_
    exact Keeps.refl _

theorem Dev.sealReenc_keeps {x0} {x1} {x2} {x3} {x4} {r e} (h : Dev.sealReenc x0 x1 x2 x3 x4 = some (r, e)) :
    Keeps x0 e := by
  unfold Dev.sealReenc at h
  split at h
  · rename_i hq
    obtain rfl := (Prod.mk.inj (Option.some.inj h)).2
    exact Keeps.comp (Dev.count_keeps ..) (Keeps.comp (Dev.reencClear_keeps ..) (Dev.ctrGet_keeps hq))
  · cases h

theorem freeWb_keeps (F) (d) (line) (e) : Keeps d (freeWb F d line e) := by
  unfold freeWb
  refine Keeps.comp (promoteHeld_keeps ..) ?_
  refine Keeps.comp (ackAll_keeps ..) ?_
  refine Keeps.comp (Keeps.of (Dev.setWb_touches ..) (by decide)) ?_
  exact Keeps.refl _

theorem finishWb_keeps (F) (d) (line) (e) (m) : Keeps d (finishWb F d line e m) := by
  unfold finishWb
  refine Keeps.comp (freeWb_keeps ..) ?_
  refine Keeps.ite ?_ ?_
  · refine Keeps.comp (Dev.install_keeps ..) ?_
    refine Keeps.comp (Keeps.of (Dev.promote_touches ..) (by decide)) ?_
    refine Keeps.comp (Dev.count_keeps ..) ?_
    refine Keeps.comp (Keeps.of (Dev.unlose_touches ..) (by decide)) ?_
    refine Keeps.comp (Keeps.of (Dev.wroteBack_touches ..) (by decide)) ?_
    refine Keeps.comp (Keeps.of (Dev.wearRow_touches ..) (by decide)) ?_
    refine Keeps.comp (Dev.putLine_keeps ..) ?_
    refine Keeps.comp (Dev.rowNote_keeps ..) ?_
    refine Keeps.ite ?_ ?_
    · refine Keeps.comp (Dev.count_keeps ..) ?_
      exact Keeps.refl _
    · exact Keeps.refl _
  · refine Keeps.comp (Keeps.of (Dev.promote_touches ..) (by decide)) ?_
    refine Keeps.comp (Dev.count_keeps ..) ?_
    refine Keeps.comp (Keeps.of (Dev.unlose_touches ..) (by decide)) ?_
    refine Keeps.comp (Keeps.of (Dev.wroteBack_touches ..) (by decide)) ?_
    refine Keeps.comp (Keeps.of (Dev.wearRow_touches ..) (by decide)) ?_
    refine Keeps.comp (Dev.putLine_keeps ..) ?_
    refine Keeps.comp (Dev.rowNote_keeps ..) ?_
    refine Keeps.ite ?_ ?_
    · refine Keeps.comp (Dev.count_keeps ..) ?_
      exact Keeps.refl _
    · exact Keeps.refl _

theorem writeBackDone_keeps (x0) (x1) (x2) :
    Keeps x1 (writeBackDone x0 x1 x2) := by
  unfold writeBackDone
  split
  · exact Keeps.refl _
  · rename_i e0 _
    extract_lets t
    refine Keeps.ite ((freeWb_keeps ..)) (Keeps.ite (Keeps.refl _) ?_)
    split
    · rename_i hq
      exact Keeps.comp (dropEntry_keeps ..) ((mergeNow_keeps hq))
    · rename_i e d0 hq
      have h0 : Keeps x1 d0 :=
        (mergeNow_keeps hq)
      extract_lets en src d1 homed
      refine Keeps.ite (Keeps.comp (Keeps.of (Dev.migQueue_touches ..) (by decide)) h0) (Keeps.ite (Keeps.comp (Keeps.of (Dev.migQueue_touches ..) (by decide)) h0) (Keeps.ite ?_ ?_))
      · exact Keeps.comp (freeWb_keeps ..) (Keeps.comp (Dev.count_keeps ..) (Keeps.comp (Keeps.of (Dev.setWritten_touches ..) (by decide))
          (Keeps.ite h0 (Keeps.comp (Keeps.of (Dev.setHdr_touches ..) (by decide)) (Keeps.comp (Keeps.of (Dev.setEnt_touches ..) (by decide)) h0)))))
      · have hh : ∀ y, homed = some y → Keeps x1 y := by
          intro y hy
          simp only [homed] at hy
          split at hy
          · cases hy; exact h0
          · exact Keeps.comp (Dev.firstHome_keeps hy) h0
        generalize homed = hm at hh
        split
        · exact h0
        · rename_i d1
          have h1 := hh _ rfl
          refine Keeps.ite (Keeps.comp (Keeps.of (Dev.toImage_touches ..) (by decide)) (Keeps.comp (finishWb_keeps ..) h1)) ?_
          split
          · exact h0
          · rename_i m d2 hq2
            have h2 : Keeps x1 d2 := by
              split at hq2
              · exact Keeps.comp (Dev.sealReenc_keeps hq2) h1
              · exact Keeps.comp (Dev.sealLine_keeps hq2) h1
            exact Keeps.comp (Keeps.of (Dev.toImage_touches ..) (by decide)) (Keeps.comp (finishWb_keeps ..) h2)

theorem writebackSelect_keeps (F) (d) : Keeps d (writebackSelect F d) := by
  unfold writebackSelect
  conv => zeta
  refine Keeps.ite ?_ ?_
  · exact Keeps.refl _
  · split
    · exact Keeps.refl _
    · refine Keeps.foldl (fun _ _ => selectOne_keeps ..) ?_
      exact Keeps.refl _

end Sys2Proof.Machine
end

