-- ==== Sys2Proof/Laws/KeepMedia.lean ====
section
/-!
SUPPORT. The shared operations keep soundness: Tether, channels, rows, drift, tracts.
-/
namespace Sys2Proof.Machine

theorem Dev.rootPut_keeps (d) : Keeps d (Dev.rootPut d) := by
  unfold Dev.rootPut
  refine Keeps.foldl (fun _ _ => ?_) ?_
  · refine Keeps.comp (Dev.keelPut_keeps ..) ?_
    exact Keeps.refl _
  · refine Keeps.comp (Dev.keelPut_keeps ..) ?_
    refine Keeps.comp (Keeps.put_keel ?_ ?_) ?_
    · exact fun h => h.keel
    · exact fun h => h.keelByte
    exact Keeps.refl _

theorem Dev.alertLong_keeps (d) (n) : Keeps d (Dev.alertLong d n) := by
  unfold Dev.alertLong
  refine Keeps.foldl (fun _ _ => ?_) ?_
  · refine Keeps.comp (Dev.sendFrame_keeps ..) ?_
    exact Keeps.refl _
  · exact Keeps.refl _

theorem Dev.readMet_keeps (d) (f) : Keeps d (Dev.readMet d f) := by
  unfold Dev.readMet
  conv => zeta
  refine Keeps.ite ?_ ?_
  · exact Keeps.refl _
  · refine Keeps.comp (Dev.setCache_keeps ?_) ?_
    · exact fun h => h.scratch
    exact Keeps.refl _

theorem Dev.readRefused_keeps (d) (f) : Keeps d (Dev.readRefused d f) := by
  unfold Dev.readRefused
  conv => zeta
  refine Keeps.ite ?_ ?_
  · exact Keeps.refl _
  · refine Keeps.ite ?_ ?_
    · refine Keeps.comp (Dev.setCache_keeps ?_) ?_
      · exact fun h => h.scratch
      exact Keeps.refl _
    · refine Keeps.ite ?_ ?_
      · refine Keeps.comp (Dev.setChan_keeps ..) ?_
        exact Keeps.refl _
      · exact Keeps.refl _

theorem Dev.reissue_keeps (d) (s) (err) : Keeps d (Dev.reissue d s err) := by
  unfold Dev.reissue
  conv => zeta
  refine Keeps.ite ?_ ?_
  · refine Keeps.comp (Dev.readMet_keeps ..) ?_
    refine Keeps.comp (Dev.frameSent_keeps (ha := fun h => dieTake_canonical _ _ _ _ _ (h.dies _)) ..) ?_
    exact Keeps.refl _
  · refine Keeps.comp (Dev.readRefused_keeps ..) ?_
    refine Keeps.comp (Dev.readMet_keeps ..) ?_
    refine Keeps.comp (Dev.frameSent_keeps (ha := fun h => dieTake_canonical _ _ _ _ _ (h.dies _)) ..) ?_
    exact Keeps.refl _

theorem Dev.alertLow_keeps (d) (n) (errs) : Keeps d (Dev.alertLow d n errs) := by
  unfold Dev.alertLow
  refine Keeps.foldl (fun _ _ => ?_) ?_
  · refine Keeps.comp (Dev.reissue_keeps ..) ?_
    exact Keeps.refl _
  · refine Keeps.comp (Dev.count_keeps ..) ?_
    refine Keeps.comp (Dev.bump_keeps ..) ?_
    refine Keeps.comp (Dev.setChan_keeps ..) ?_
    exact Keeps.refl _

theorem Dev.latencyFound_keeps {x0} {x1} {r e} (h : Dev.latencyFound x0 x1 = (r, e)) : Keeps x0 e := by
  cases h
  exact Keeps.foldl (fun _ _ => (Dev.setDie_keeps fun h => ⟨(h.dies _).pages, (h.dies _).slots⟩)) ((Keeps.of (Dev.free_touches rfl) (by decide)))

theorem Dev.noteTrain_keeps (d) (n) : Keeps d (Dev.noteTrain d n) := by
  unfold Dev.noteTrain
  refine Keeps.foldl (fun _ _ => ?_) ?_
  · refine Keeps.comp (Dev.setCtl_keeps ..) ?_
    exact Keeps.refl _
  · exact Keeps.refl _

theorem Dev.retrainAsk_keeps (d) (n) : Keeps d (Dev.retrainAsk d n) := by
  unfold Dev.retrainAsk
  conv => zeta
  refine Keeps.ite ?_ ?_
  · refine Keeps.comp (Dev.setChan_keeps ..) ?_
    exact Keeps.refl _
  · exact Keeps.refl _

theorem Dev.retrained_keeps (d) (n) (rd) (wr) (code) : Keeps d (Dev.retrained d n rd wr code) := by
  unfold Dev.retrained
  conv => zeta
  refine Keeps.ite ?_ ?_
  · split
    · rename_i hq4
      refine Keeps.comp (Dev.setReg_keeps ..) ?_
      refine Keeps.comp (Dev.setChan_keeps ..) ?_
      refine Keeps.comp (Dev.latencyFound_keeps hq4) ?_
      refine Keeps.comp (Dev.noteTrain_keeps ..) ?_
      refine Keeps.comp (Dev.advance_keeps ..) ?_
      exact Keeps.refl _
  · exact Keeps.refl _

theorem setHm_keeps (F) (d) (q) (h) : Keeps d (setHm F d q h) := by
  unfold setHm
  conv => zeta
  refine Keeps.ite ?_ ?_
  · refine Keeps.comp (Keeps.of (Dev.dutySet_touches ..) (by decide)) ?_
    refine Keeps.comp (Keeps.of (Touches.put_therm ..) (by decide)) ?_
    exact Keeps.refl _
  · refine Keeps.ite ?_ ?_
    · refine Keeps.comp (Dev.event_keeps ..) ?_
      refine Keeps.comp (Dev.icu_keeps ..) ?_
      refine Keeps.comp (Keeps.of (Dev.dutySet_touches ..) (by decide)) ?_
      refine Keeps.comp (Keeps.of (Touches.put_therm ..) (by decide)) ?_
      exact Keeps.refl _
    · refine Keeps.ite ?_ ?_
      · refine Keeps.comp (Dev.event_keeps ..) ?_
        refine Keeps.comp (Dev.icu_keeps ..) ?_
        refine Keeps.comp (Keeps.of (Dev.dutySet_touches ..) (by decide)) ?_
        refine Keeps.comp (Keeps.of (Touches.put_therm ..) (by decide)) ?_
        exact Keeps.refl _
      · refine Keeps.comp (Dev.icu_keeps ..) ?_
        refine Keeps.comp (Keeps.of (Dev.dutySet_touches ..) (by decide)) ?_
        refine Keeps.comp (Keeps.of (Touches.put_therm ..) (by decide)) ?_
        exact Keeps.refl _

theorem quadEval_keeps (F) (d) (q) : Keeps d (quadEval F d q) := by
  unfold quadEval
  conv => zeta
  refine Keeps.ite ?_ ?_
  · exact Keeps.refl _
  · refine Keeps.ite ?_ ?_
    · refine Keeps.comp (setHm_keeps ..) ?_
      refine Keeps.comp (Keeps.of (Touches.put_therm ..) (by decide)) ?_
      exact Keeps.refl _
    · split
      · refine Keeps.comp (Keeps.of (Dev.dutySet_touches ..) (by decide)) ?_
        exact Keeps.refl _
      · refine Keeps.comp (setHm_keeps ..) ?_
        refine Keeps.comp (Keeps.of (Touches.put_therm ..) (by decide)) ?_
        exact Keeps.refl _

theorem alertStatus_keeps (F) (d) (m) (st) : Keeps d (alertStatus F d m st) := by
  unfold alertStatus
  conv => zeta
  refine Keeps.ite ?_ ?_
  · refine Keeps.comp (Dev.setCtl_keeps ..) ?_
    refine Keeps.ite ?_ ?_
    · refine Keeps.comp (Dev.alertSet_keeps ..) ?_
      refine Keeps.comp (quadEval_keeps ..) ?_
      refine Keeps.comp (Keeps.of (Touches.put_therm ..) (by decide)) ?_
      refine Keeps.ite ?_ ?_
      · refine Keeps.comp (Dev.bump_keeps ..) ?_
        refine Keeps.comp (Dev.setCtl_keeps ..) ?_
        exact Keeps.refl _
      · refine Keeps.comp (Dev.setCtl_keeps ..) ?_
        exact Keeps.refl _
    · refine Keeps.ite ?_ ?_
      · refine Keeps.comp (Dev.bump_keeps ..) ?_
        refine Keeps.comp (Dev.setCtl_keeps ..) ?_
        exact Keeps.refl _
      · refine Keeps.comp (Dev.setCtl_keeps ..) ?_
        exact Keeps.refl _
  · refine Keeps.ite ?_ ?_
    · refine Keeps.comp (Dev.alertSet_keeps ..) ?_
      refine Keeps.comp (quadEval_keeps ..) ?_
      refine Keeps.comp (Keeps.of (Touches.put_therm ..) (by decide)) ?_
      refine Keeps.ite ?_ ?_
      · refine Keeps.comp (Dev.bump_keeps ..) ?_
        refine Keeps.comp (Dev.setCtl_keeps ..) ?_
        exact Keeps.refl _
      · refine Keeps.comp (Dev.setCtl_keeps ..) ?_
        exact Keeps.refl _
    · refine Keeps.ite ?_ ?_
      · refine Keeps.comp (Dev.bump_keeps ..) ?_
        refine Keeps.comp (Dev.setCtl_keeps ..) ?_
        exact Keeps.refl _
      · refine Keeps.comp (Dev.setCtl_keeps ..) ?_
        exact Keeps.refl _

theorem failDie_keeps (F) (d) (m) (cause) : Keeps d (failDie F d m cause) := by
  unfold failDie
  conv => zeta
  refine Keeps.ite ?_ ?_
  · refine Keeps.comp (Dev.declareChan_keeps ..) ?_
    refine Keeps.comp (Dev.declareDie_keeps ..) ?_
    exact Keeps.refl _
  · refine Keeps.comp (Dev.declareDie_keeps ..) ?_
    exact Keeps.refl _

theorem channelTrained_keeps (F) (d) (n) (rd) (wr) (passed) : Keeps d (channelTrained F d n rd wr passed) := by
  unfold channelTrained
  conv => zeta
  refine Keeps.ite ?_ ?_
  · exact Keeps.refl _
  · refine Keeps.ite ?_ ?_
    · refine Keeps.ite ?_ ?_
      · refine Keeps.comp (Dev.declareChan_keeps ..) ?_
        exact Keeps.refl _
      · refine Keeps.comp (Dev.setChan_keeps ..) ?_
        exact Keeps.refl _
    · split
      · rename_i hq6
        split
        · rename_i hq8
          split
          · rename_i hq10
            refine Keeps.comp (Dev.setChan_keeps ..) ?_
            refine Keeps.comp (Dev.noteTrain_keeps ..) ?_
            refine Keeps.foldl (fun _ _ => ?_) ?_
            · refine Keeps.comp (Dev.setCtl_keeps ..) ?_
              refine Keeps.comp (Dev.setDie_keeps ?_) ?_
              · exact fun h => Die.trained_canonical (h.dies _)
              exact Keeps.refl _
            · refine Keeps.comp (Keeps.of (Dev.free_touches hq10) (by decide)) ?_
              refine Keeps.comp (Keeps.of (Dev.free_touches hq8) (by decide)) ?_
              refine Keeps.comp (Dev.latencyFound_keeps hq6) ?_
              refine Keeps.foldl (fun _ _ => ?_) ?_
              · refine Keeps.comp (failDie_keeps ..) ?_
                exact Keeps.refl _
              · exact Keeps.refl _

theorem discoverDie_keeps (F) (d) (m) (ans) : Keeps d (discoverDie F d m ans) := by
  unfold discoverDie
  conv => zeta
  refine Keeps.ite ?_ ?_
  · refine Keeps.comp (Dev.powerDown_keeps ..) ?_
    refine Keeps.comp (Dev.setCtl_keeps ..) ?_
    refine Keeps.comp (Dev.setDie_keeps ?_) ?_
    · exact fun h => ⟨(h.dies _).pages, (h.dies _).slots⟩
    refine Keeps.comp (Dev.setCtl_keeps ..) ?_
    exact Keeps.refl _
  · refine Keeps.ite ?_ ?_
    · refine Keeps.comp (Dev.setDie_keeps ?_) ?_
      · exact fun h => ⟨(h.dies _).pages, (h.dies _).slots⟩
      refine Keeps.comp (Dev.setCtl_keeps ..) ?_
      exact Keeps.refl _
    · refine Keeps.comp (failDie_keeps ..) ?_
      refine Keeps.comp (Dev.setDie_keeps ?_) ?_
      · exact fun h => ⟨(h.dies _).pages, (h.dies _).slots⟩
      refine Keeps.comp (Dev.setCtl_keeps ..) ?_
      exact Keeps.refl _

theorem discover_keeps (F) (d) (n) (ids) (stuck) : Keeps d (discover F d n ids stuck) := by
  unfold discover
  extract_lets k ans excess carried d1
  have he : ∀ a, Keeps a (excess a) := fun a => Keeps.foldl (fun a i => ⟨fun s => by
    have hd := s.dies (8 * n + i)
    exact (Dev.setDie_keeps (x := { a.die (8 * n + i) with pd := true }) fun _ => ⟨hd.pages, hd.slots⟩).sound ((Dev.event_keeps ..).sound s)⟩) (Keeps.refl _)
  clear_value excess
  refine Keeps.ite ?_ (Keeps.ite (Keeps.comp (he _) (Dev.declareChan_keeps ..)) ?_)
  · exact Keeps.comp (he _) (Keeps.comp (Dev.setChan_keeps ..) (Keeps.foldl (fun _ _ => Keeps.comp (Dev.powerDown_keeps ..) (Dev.setCtl_keeps ..)) (Keeps.refl _)))
  · exact Keeps.comp (he _) (Keeps.foldl (fun _ _ => discoverDie_keeps ..) (Keeps.refl _))

theorem channelTraining_keeps (F) (d) (n) (ids) (stuck) : Keeps d (channelTraining F d n ids stuck) := by
  unfold channelTraining
  extract_lets c d1 d2
  refine Keeps.ite (Keeps.refl _) (Keeps.comp (discover_keeps ..) ?_)
  refine Keeps.foldl (fun a i => Dev.setDie_keeps fun s => ?_) (Dev.setChan_keeps ..)
  have := Die.reset_canonical (s.dies (8 * n + i))
  exact ⟨this.pages, this.slots⟩

theorem Dev.rekeyPump_keeps (d) : Keeps d (Dev.rekeyPump d) := by
  unfold Dev.rekeyPump
  conv => zeta
  split
  · exact Keeps.refl _
  · refine Keeps.ite ?_ ?_
    · exact Keeps.refl _
    · split
      · refine Keeps.comp (Keeps.of (Dev.migQueue_touches ..) (by decide)) ?_
        refine Keeps.comp (Keeps.of (Touches.put_sec ..) (by decide)) ?_
        exact Keeps.refl _
      · refine Keeps.comp (Dev.finish_keeps ..) ?_
        refine Keeps.comp (Keeps.of (Touches.put_sec ..) (by decide)) ?_
        refine Keeps.comp (Dev.setFld_keeps ..) ?_
        exact Keeps.refl _

theorem Dev.rekeyResume_keeps (d) : Keeps d (Dev.rekeyResume d) := by
  unfold Dev.rekeyResume
  conv => zeta
  split
  · exact Keeps.refl _
  · refine Keeps.ite ?_ ?_
    · refine Keeps.comp (Dev.rekeyPump_keeps ..) ?_
      exact Keeps.refl _
    · exact Keeps.refl _

theorem Dev.repairAt_keeps {x0} {x1} {x2} {x3} {e} (h : Dev.repairAt x0 x1 x2 x3 = some e) : Keeps x0 e := by
  unfold Dev.repairAt at h
  split at h
  · cases h
  · cases h
    exact Keeps.put_media (fun h => h.table) (fun h => h.dies)

theorem Dev.repairPage_keeps {x0} {x1} {x2} {e} (h : Dev.repairPage x0 x1 x2 = some e) : Keeps x0 e := by
  unfold Dev.repairPage at h
  exact (Dev.repairAt_keeps h)

theorem Dev.lineRepair_keeps (d) (line) : Keeps d (Dev.lineRepair d line) := by
  unfold Dev.lineRepair
  conv => zeta
  refine Keeps.ite ?_ ?_
  · exact Keeps.refl _
  · split
    · split
      · split
        · rename_i hq8
          refine Keeps.comp (Keeps.of (Touches.put_drift ..) (by decide)) ?_
          refine Keeps.comp (Dev.repairPage_keeps hq8) ?_
          exact Keeps.refl _
        · refine Keeps.ite ?_ ?_
          · refine Keeps.comp (Keeps.of (Touches.put_drift ..) (by decide)) ?_
            exact Keeps.refl _
          · exact Keeps.refl _
      · refine Keeps.comp (Keeps.of (Touches.put_drift ..) (by decide)) ?_
        exact Keeps.refl _
    · refine Keeps.comp (Keeps.of (Touches.put_drift ..) (by decide)) ?_
      exact Keeps.refl _

theorem Dev.thresholds_keeps (x0) (x1) (x2) : Keeps x0 (Dev.thresholds x0 x1 x2) := by
  unfold Dev.thresholds
  refine Keeps.ite (Keeps.refl _) (Keeps.comp (Dev.setCtl_keeps ..) ?_)
  refine Dev.setDie_keeps ?_
  exact fun h => Die.setThresholds_canonical (Die.setThresholds_canonical (h.dies _))

theorem Dev.weakAdd_keeps (d) (m) (bank) (byte) : Keeps d (Dev.weakAdd d m bank byte) := by
  unfold Dev.weakAdd
  conv => zeta
  refine Keeps.ite ?_ ?_
  · exact Keeps.refl _
  · refine Keeps.comp (Dev.setCtl_keeps ..) ?_
    exact Keeps.refl _

theorem Dev.weakSeen_keeps (d) (g) (pa) (corr) : Keeps d (Dev.weakSeen d g pa corr) := by
  unfold Dev.weakSeen
  conv => zeta
  refine Keeps.foldl (fun _ _ => ?_) ?_
  · refine Keeps.ite ?_ ?_
    · refine Keeps.comp (Dev.weakAdd_keeps ..) ?_
      refine Keeps.comp (Keeps.of (Touches.put_drift ..) (by decide)) ?_
      exact Keeps.refl _
    · refine Keeps.comp (Keeps.of (Touches.put_drift ..) (by decide)) ?_
      exact Keeps.refl _
  · exact Keeps.refl _

theorem confirmLine_keeps (x0) (x1) (x2) (x3) : Keeps x1 (confirmLine x0 x1 x2 x3) := by
  unfold confirmLine
  split
  · exact Keeps.refl _
  · extract_lets s0 d0 e l p home re fix lose
    have h0 : Keeps x1 d0 := (Keeps.of (Touches.put_drift ..) (by decide))
    refine Keeps.ite h0 (Keeps.ite (Keeps.refl _) ?_)
    have hf : ∀ y, Keeps x1 (fix y) := by
      intro y
      simp only [fix]
      clear_value d0
      rcases hq : d0.repairPage l y with _ | z
      · exact h0
      · exact Keeps.comp (Dev.repairPage_keeps hq) h0
    have hl : ∀ o, Keeps x1 (lose o) := fun o =>
      Keeps.comp (recordPoison_keeps ..) (Keeps.comp (Dev.event_keeps ..)
        (Keeps.comp (Dev.putLoc_keeps ..) h0))
    clear_value fix lose home re
    rcases home with _ | x <;> rcases re with _ | y
    · exact hl _
    · exact Keeps.ite (hf _) (hl _)
    · exact Keeps.ite (hf _) (hl _)
    · exact Keeps.ite (hf _) (Keeps.ite (hf _) (hl _))

theorem scrubLine_keeps (F) (d) (line) : Keeps d (scrubLine F d line) := by
  unfold scrubLine
  conv => zeta
  split
  · split
    · split
      · refine Keeps.ite ?_ ?_
        · refine Keeps.comp (Keeps.of (Dev.repairAsk_touches ..) (by decide)) ?_
          exact Keeps.refl _
        · refine Keeps.comp (Keeps.of (Dev.confirmAdd_touches ..) (by decide)) ?_
          exact Keeps.refl _
      · refine Keeps.comp (Keeps.of (Dev.confirmAdd_touches ..) (by decide)) ?_
        exact Keeps.refl _
    · exact Keeps.refl _

theorem scrubParity_keeps (x0) (x1) (x2) : Keeps x0 (scrubParity x0 x1 x2) := by
  unfold scrubParity
  refine Keeps.foldl (fun d j => ?_) (Keeps.refl _)
  extract_lets l
  split
  · exact Keeps.refl _
  · rename_i x _
    rcases hq : d.repairAt l x.1 x.2 with _ | y
    · exact Keeps.refl _
    · exact (Dev.repairAt_keeps hq)
  · exact Keeps.foldl (fun _ _ => (Keeps.of (Dev.confirmAdd_touches ..) (by decide))) (Keeps.refl _)

theorem scrubRow_keeps (F) (d) (t) (row) (worst) (corr) (unc) (parityBad) : Keeps d (scrubRow F d t row worst corr unc parityBad) := by
  unfold scrubRow
  conv => zeta
  refine Keeps.ite ?_ ?_
  · exact Keeps.refl _
  · refine Keeps.comp (Keeps.of (Touches.put_drift ..) (by decide)) ?_
    refine Keeps.ite ?_ ?_
    · refine Keeps.comp (Keeps.of (Dev.freeOrphans_touches ..) (by decide)) ?_
      refine Keeps.ite ?_ ?_
      · refine Keeps.comp (scrubParity_keeps ..) ?_
        refine Keeps.foldl (fun _ _ => scrubLine_keeps ..) ?_
        refine Keeps.ite ?_ ?_
        · refine Keeps.comp (Keeps.of (Dev.resurveyAdd_touches ..) (by decide)) ?_
          refine Keeps.comp (Dev.weakSeen_keeps ..) ?_
          refine Keeps.ite ?_ ?_
          · refine Keeps.comp (Keeps.of (Dev.migQueue_touches ..) (by decide)) ?_
            exact Keeps.refl _
          · exact Keeps.refl _
        · refine Keeps.comp (Dev.weakSeen_keeps ..) ?_
          refine Keeps.ite ?_ ?_
          · refine Keeps.comp (Keeps.of (Dev.migQueue_touches ..) (by decide)) ?_
            exact Keeps.refl _
          · exact Keeps.refl _
      · refine Keeps.foldl (fun _ _ => scrubLine_keeps ..) ?_
        refine Keeps.ite ?_ ?_
        · refine Keeps.comp (Keeps.of (Dev.resurveyAdd_touches ..) (by decide)) ?_
          refine Keeps.comp (Dev.weakSeen_keeps ..) ?_
          refine Keeps.ite ?_ ?_
          · refine Keeps.comp (Keeps.of (Dev.migQueue_touches ..) (by decide)) ?_
            exact Keeps.refl _
          · exact Keeps.refl _
        · refine Keeps.comp (Dev.weakSeen_keeps ..) ?_
          refine Keeps.ite ?_ ?_
          · refine Keeps.comp (Keeps.of (Dev.migQueue_touches ..) (by decide)) ?_
            exact Keeps.refl _
          · exact Keeps.refl _
    · refine Keeps.ite ?_ ?_
      · refine Keeps.comp (scrubParity_keeps ..) ?_
        refine Keeps.foldl (fun _ _ => scrubLine_keeps ..) ?_
        refine Keeps.ite ?_ ?_
        · refine Keeps.comp (Keeps.of (Dev.resurveyAdd_touches ..) (by decide)) ?_
          refine Keeps.comp (Dev.weakSeen_keeps ..) ?_
          refine Keeps.ite ?_ ?_
          · refine Keeps.comp (Keeps.of (Dev.migQueue_touches ..) (by decide)) ?_
            exact Keeps.refl _
          · exact Keeps.refl _
        · refine Keeps.comp (Dev.weakSeen_keeps ..) ?_
          refine Keeps.ite ?_ ?_
          · refine Keeps.comp (Keeps.of (Dev.migQueue_touches ..) (by decide)) ?_
            exact Keeps.refl _
          · exact Keeps.refl _
      · refine Keeps.foldl (fun _ _ => scrubLine_keeps ..) ?_
        refine Keeps.ite ?_ ?_
        · refine Keeps.comp (Keeps.of (Dev.resurveyAdd_touches ..) (by decide)) ?_
          refine Keeps.comp (Dev.weakSeen_keeps ..) ?_
          refine Keeps.ite ?_ ?_
          · refine Keeps.comp (Keeps.of (Dev.migQueue_touches ..) (by decide)) ?_
            exact Keeps.refl _
          · exact Keeps.refl _
        · refine Keeps.comp (Dev.weakSeen_keeps ..) ?_
          refine Keeps.ite ?_ ?_
          · refine Keeps.comp (Keeps.of (Dev.migQueue_touches ..) (by decide)) ?_
            exact Keeps.refl _
          · exact Keeps.refl _

theorem Dev.setSrc_keeps (d) (x) : Keeps d (Dev.setSrc d x) := by
  unfold Dev.setSrc
  refine Keeps.ite ?_ ?_
  · exact Keeps.refl _
  · refine Keeps.comp (Dev.icu_keeps ..) ?_
    refine Keeps.comp (Keeps.of (Touches.put_tether ..) (by decide)) ?_
    exact Keeps.refl _

theorem Dev.rankWrite_keeps (d) (q) (v) : Keeps d (Dev.rankWrite d q v) := by
  unfold Dev.rankWrite
  conv => zeta
  refine Keeps.foldl (fun _ _ => ?_) ?_
  · refine Keeps.ite ?_ ?_
    · exact Keeps.refl _
    · refine Keeps.comp (Dev.setFld_keeps ..) ?_
      exact Keeps.refl _
  · exact Keeps.refl _

theorem Dev.unask_keeps (d) (who) : Keeps d (Dev.unask d who) := by
  unfold Dev.unask
  refine Keeps.comp (Keeps.put_media ?_ ?_) ?_
  · exact fun h => h.table
  · exact fun h => h.dies
  exact Keeps.refl _

theorem Dev.rowDone_keeps (d) (g) (pa) : Keeps d (Dev.rowDone d g pa) := by
  unfold Dev.rowDone
  conv => zeta
  split
  · exact Keeps.refl _
  · refine Keeps.ite ?_ ?_
    · exact Keeps.refl _
    · refine Keeps.comp (Dev.unask_keeps ..) ?_
      refine Keeps.comp (Keeps.put_media ?_ ?_) ?_
      · exact fun h => h.table
      · exact fun h => h.dies
      refine Keeps.foldl (fun _ _ => ?_) ?_
      · refine Keeps.ite ?_ ?_
        · exact Keeps.refl _
        · refine Keeps.comp (Dev.pokePage_keeps ..) ?_
          exact Keeps.refl _
      · exact Keeps.refl _

theorem Dev.rowStart_keeps (d) (g) (pa) (mode) (lines) : Keeps d (Dev.rowStart d g pa mode lines) := by
  unfold Dev.rowStart
  refine Keeps.ite ?_ ?_
  · exact Keeps.refl _
  · refine Keeps.comp (Keeps.put_media ?_ ?_) ?_
    · exact fun h => h.table
    · exact fun h => h.dies
    exact Keeps.refl _

theorem Dev.slotDrained_keeps (d) (k) : Keeps d (Dev.slotDrained d k) := by
  unfold Dev.slotDrained
  refine Keeps.ite ?_ ?_
  · exact Keeps.refl _
  · refine Keeps.foldl (fun _ _ => ?_) ?_
    · refine Keeps.comp (Dev.finish_keeps ..) ?_
      exact Keeps.refl _
    · refine Keeps.comp (Keeps.of (Touches.put_sec ..) (by decide)) ?_
      refine Keeps.comp (Keeps.of (Dev.emptySlot_touches ..) (by decide)) ?_
      exact Keeps.refl _

theorem reencRewrite_keeps (x0) (x1) (x2) :
    Keeps x1 (reencRewrite x0 x1 x2) := by
  unfold reencRewrite
  split
  · exact Keeps.refl _
  · extract_lets t
    split
    refine Keeps.ite (Keeps.refl _) ?_
    split
    rename_i v d1 hq
    have h1 : Keeps x1 d1 := by
      split at hq
      · cases hq; exact Keeps.refl _
      · split at hq
        · exact (Dev.openLine_keeps hq)
        · cases hq; exact Keeps.refl _
    split
    · exact Keeps.comp (acceptWrite_keeps ..) h1
    · exact Keeps.ite (Keeps.comp (Dev.reencClear_keeps ..) h1) (Keeps.comp (Keeps.of (Dev.confirmAdd_touches ..) (by decide)) h1)

theorem Dev.frameBegin_keeps (d) : Keeps d (Dev.frameBegin d) := by
  unfold Dev.frameBegin
  conv => zeta
  refine Keeps.foldl (fun _ _ => ?_) ?_
  · refine Keeps.ite ?_ ?_
    · refine Keeps.comp (Dev.count_keeps ..) ?_
      refine Keeps.ite ?_ ?_
      · exact Keeps.refl _
      · refine Keeps.comp (Dev.count_keeps ..) ?_
        exact Keeps.refl _
    · refine Keeps.ite ?_ ?_
      · exact Keeps.refl _
      · refine Keeps.comp (Dev.count_keeps ..) ?_
        exact Keeps.refl _
  · refine Keeps.comp (Keeps.of (Touches.put_tether ..) (by decide)) ?_
    refine Keeps.comp (Dev.advance_keeps ..) ?_
    exact Keeps.refl _

theorem Dev.overrun_keeps (F) (d) (m) : Keeps d (Dev.overrun F d m) := by
  unfold Dev.overrun
  split
  · exact Keeps.refl _
  · refine Keeps.ite ?_ ?_
    · exact Keeps.refl _
    · refine Keeps.comp (Dev.count_keeps ..) ?_
      refine Keeps.comp (Dev.event_keeps ..) ?_
      refine Keeps.comp (Dev.bump_keeps ..) ?_
      refine Keeps.comp (Dev.setCtl_keeps ..) ?_
      refine Keeps.comp (Dev.advance_keeps ..) ?_
      exact Keeps.refl _

theorem Dev.ptmGot_keeps (d) (host) : Keeps d (Dev.ptmGot d host) := by
  unfold Dev.ptmGot
  refine Keeps.ite ?_ ?_
  · exact Keeps.refl _
  · refine Keeps.comp (Keeps.of (Dev.redue_touches ..) (by decide)) ?_
    refine Keeps.ite ?_ ?_
    · refine Keeps.comp (Dev.setSrc_keeps ..) ?_
      refine Keeps.comp (Dev.setHead_keeps ?_) ?_
      · exact fun h => ⟨(h.head _).info, (h.head _).warn, (h.head _).fail, (h.head _).fatal⟩
      refine Keeps.comp (Keeps.of (Touches.put_tether ..) (by decide)) ?_
      exact Keeps.refl _
    · refine Keeps.ite ?_ ?_
      · refine Keeps.comp (Dev.setSrc_keeps ..) ?_
        refine Keeps.comp (Dev.setHead_keeps ?_) ?_
        · exact fun h => ⟨(h.head _).info, (h.head _).warn, (h.head _).fail, (h.head _).fatal⟩
        refine Keeps.comp (Keeps.of (Touches.put_tether ..) (by decide)) ?_
        exact Keeps.refl _
      · refine Keeps.comp (Dev.setHead_keeps ?_) ?_
        · exact fun h => ⟨(h.head _).info, (h.head _).warn, (h.head _).fail, (h.head _).fatal⟩
        refine Keeps.comp (Keeps.of (Touches.put_tether ..) (by decide)) ?_
        exact Keeps.refl _

theorem Dev.ptmHold_keeps (d) : Keeps d (Dev.ptmHold d) := by
  unfold Dev.ptmHold
  refine Keeps.ite ?_ ?_
  · refine Keeps.comp (Dev.setSrc_keeps ..) ?_
    refine Keeps.ite ?_ ?_
    · refine Keeps.comp (Dev.advance_keeps ..) ?_
      exact Keeps.refl _
    · exact Keeps.refl _
  · exact Keeps.refl _

theorem Dev.ptmTimer_keeps (d) : Keeps d (Dev.ptmTimer d) := by
  unfold Dev.ptmTimer
  refine Keeps.ite ?_ ?_
  · refine Keeps.comp (Keeps.of (Dev.emit_touches ..) (by decide)) ?_
    refine Keeps.comp (Keeps.of (Touches.put_tether ..) (by decide)) ?_
    refine Keeps.comp (Dev.advance_keeps ..) ?_
    exact Keeps.refl _
  · exact Keeps.refl _

theorem Dev.windowShut_keeps (d) : Keeps d (Dev.windowShut d) := by
  unfold Dev.windowShut
  refine Keeps.ite ?_ ?_
  · refine Keeps.comp (Dev.icu_keeps ..) ?_
    refine Keeps.comp (Keeps.of (Touches.put_tether ..) (by decide)) ?_
    refine Keeps.comp (Dev.advance_keeps ..) ?_
    exact Keeps.refl _
  · exact Keeps.refl _

theorem narrowEyeStep_keeps (F) (d) (n) (narrowEye) (die) : Keeps d (narrowEyeStep F d n narrowEye die) := by
  unfold narrowEyeStep
  conv => zeta
  refine Keeps.ite ?_ ?_
  · exact Keeps.refl _
  · refine Keeps.ite ?_ ?_
    · refine Keeps.comp (Dev.setChan_keeps ..) ?_
      exact Keeps.refl _
    · refine Keeps.ite ?_ ?_
      · refine Keeps.comp (Dev.setChan_keeps ..) ?_
        exact Keeps.refl _
      · split
        · refine Keeps.comp (failDie_keeps ..) ?_
          refine Keeps.comp (Dev.setChan_keeps ..) ?_
          exact Keeps.refl _
        · refine Keeps.comp (Dev.declareChan_keeps ..) ?_
          refine Keeps.comp (Dev.setChan_keeps ..) ?_
          exact Keeps.refl _

theorem windowOpen_keeps (F) (d) (narrowEye) (die) : Keeps d (windowOpen F d narrowEye die) := by
  unfold windowOpen
  conv => zeta
  refine Keeps.ite ?_ ?_
  · refine Keeps.comp (Keeps.of (Touches.put_tether ..) (by decide)) ?_
    refine Keeps.comp (Dev.advance_keeps ..) ?_
    exact Keeps.refl _
  · split
    · refine Keeps.comp (Keeps.of (Touches.put_tether ..) (by decide)) ?_
      refine Keeps.comp (Dev.advance_keeps ..) ?_
      exact Keeps.refl _
    · refine Keeps.comp (narrowEyeStep_keeps ..) ?_
      refine Keeps.comp (Dev.icu_keeps ..) ?_
      refine Keeps.comp (Keeps.of (Touches.put_tether ..) (by decide)) ?_
      refine Keeps.comp (Keeps.of (Touches.put_tether ..) (by decide)) ?_
      refine Keeps.comp (Dev.advance_keeps ..) ?_
      exact Keeps.refl _

theorem Dev.areaMove_keeps (d) (g) (a) : Keeps d (Dev.areaMove d g a) := by
  unfold Dev.areaMove
  split
  · refine Keeps.comp (Keeps.of (Dev.unqueue_touches ..) (by decide)) ?_
    exact Keeps.refl _
  · split
    · exact Keeps.refl _
    · refine Keeps.comp (Dev.rootPut_keeps ..) ?_
      refine Keeps.foldl (fun _ _ => ?_) ?_
      · refine Keeps.comp (Dev.putLoc_keeps ..) ?_
        exact Keeps.refl _
      · refine Keeps.comp (Keeps.of (Touches.put_tracts ..) (by decide)) ?_
        refine Keeps.foldl (fun _ _ => ?_) ?_
        · refine Keeps.ite ?_ ?_
          · refine Keeps.comp (Keeps.of (Dev.markPhys_touches ..) (by decide)) ?_
            exact Keeps.refl _
          · exact Keeps.refl _
        · refine Keeps.comp (Keeps.of (Dev.unqueue_touches ..) (by decide)) ?_
          exact Keeps.refl _

theorem Dev.heatNext_keeps (d) : Keeps d (Dev.heatNext d) := by
  unfold Dev.heatNext
  refine Keeps.foldl (fun _ _ => ?_) ?_
  · refine Keeps.comp (Keeps.of (Dev.setHdr_touches ..) (by decide)) ?_
    exact Keeps.refl _
  · refine Keeps.comp (Keeps.of (Touches.put_tracts ..) (by decide)) ?_
    refine Keeps.comp (Dev.tick_keeps ..) ?_
    exact Keeps.refl _

theorem Dev.holdSettle_keeps (d) : Keeps d (Dev.holdSettle d) := by
  unfold Dev.holdSettle
  refine Keeps.ite ?_ ?_
  · refine Keeps.comp (Dev.icu_keeps ..) ?_
    refine Keeps.comp (Keeps.of (Touches.put_tracts ..) (by decide)) ?_
    exact Keeps.refl _
  · exact Keeps.refl _

theorem Dev.migAsk_keeps (d) (x) (n) : Keeps d (Dev.migAsk d x n) := by
  unfold Dev.migAsk
  conv => zeta
  refine Keeps.ite ?_ ?_
  · exact Keeps.refl _
  · refine Keeps.foldl (fun _ _ => ?_) ?_
    · refine Keeps.comp (Keeps.put_media ?_ ?_) ?_
      · exact fun h => h.table
      · exact fun h => h.dies
      exact Keeps.refl _
    · refine Keeps.foldl (fun _ _ => ?_) ?_
      · refine Keeps.comp (Keeps.put_media ?_ ?_) ?_
        · exact fun h => h.table
        · exact fun h => h.dies
        exact Keeps.refl _
      · exact Keeps.refl _

theorem Dev.rekeyEnd_keeps (d) (status) : Keeps d (Dev.rekeyEnd d status) := by
  unfold Dev.rekeyEnd
  split
  · exact Keeps.refl _
  · refine Keeps.ite ?_ ?_
    · exact Keeps.refl _
    · refine Keeps.comp (Dev.finish_keeps ..) ?_
      refine Keeps.comp (Keeps.of (Touches.put_tracts_sec ..) (by decide)) ?_
      refine Keeps.foldl (fun _ _ => ?_) ?_
      · refine Keeps.comp (Keeps.of (Dev.dropTarget_touches ..) (by decide)) ?_
        refine Keeps.comp (Keeps.of (Touches.put_tracts ..) (by decide)) ?_
        exact Keeps.refl _
      · exact Keeps.refl _

theorem Dev.rekeyOn_keeps (d) : Keeps d (Dev.rekeyOn d) := by
  unfold Dev.rekeyOn
  split
  · exact Keeps.refl _
  · refine Keeps.ite ?_ ?_
    · refine Keeps.comp (Dev.rekeyEnd_keeps ..) ?_
      exact Keeps.refl _
    · refine Keeps.comp (Dev.rekeyPump_keeps ..) ?_
      exact Keeps.refl _

theorem Dev.takeHomes_keeps (x0) : Keeps x0 (Dev.takeHomes x0) := by
  unfold Dev.takeHomes
  refine Keeps.foldl (fun a t => ?_) (Keeps.refl _)
  rcases hc : a.firstHome t 16384 false with _ | e
  · exact Keeps.refl _
  · exact (Dev.firstHome_keeps hc)

theorem auxMove_keeps (F) (d) (t) : Keeps d (auxMove F d t) := by
  unfold auxMove
  refine Keeps.comp (Dev.narrowSettle_keeps ..) ?_
  refine Keeps.ite ?_ ?_
  · refine Keeps.comp (Dev.areaMove_keeps ..) ?_
    exact Keeps.refl _
  · refine Keeps.comp (Keeps.of (Dev.ctrMove_touches ..) (by decide)) ?_
    exact Keeps.refl _

theorem copyRow_keeps (F) (m) (d) (r) : Keeps d (copyRow F m d r) := by
  unfold copyRow
  refine Keeps.foldl (fun _ _ => ?_) ?_
  · refine Keeps.foldl (fun _ _ => ?_) ?_
    · refine Keeps.ite ?_ ?_
      · refine Keeps.comp (recordPoison_keeps ..) ?_
        exact Keeps.refl _
      · exact Keeps.refl _
    · refine Keeps.comp (Dev.putStripe_keeps ..) ?_
      refine Keeps.ite ?_ ?_
      · refine Keeps.comp (Keeps.of (Dev.wearRow_touches ..) (by decide)) ?_
        exact Keeps.refl _
      · exact Keeps.refl _
  · exact Keeps.refl _

theorem floorCheck_keeps (F) (d) : Keeps d (floorCheck F d) := by
  unfold floorCheck
  conv => zeta
  refine Keeps.ite ?_ ?_
  · refine Keeps.comp (Dev.notice_keeps ..) ?_
    refine Keeps.comp (Dev.icu_keeps ..) ?_
    refine Keeps.comp (Dev.postAll_keeps ..) ?_
    refine Keeps.comp (Dev.event_keeps ..) ?_
    refine Keeps.comp (Keeps.of (Touches.put_tracts ..) (by decide)) ?_
    exact Keeps.refl _
  · refine Keeps.ite ?_ ?_
    · refine Keeps.comp (Dev.notice_keeps ..) ?_
      refine Keeps.comp (Dev.icu_keeps ..) ?_
      refine Keeps.comp (Dev.event_keeps ..) ?_
      refine Keeps.comp (Keeps.of (Touches.put_tracts ..) (by decide)) ?_
      exact Keeps.refl _
    · exact Keeps.refl _

theorem floorRepeat_keeps (F) (d) : Keeps d (floorRepeat F d) := by
  unfold floorRepeat
  refine Keeps.ite ?_ ?_
  · refine Keeps.comp (Dev.postAll_keeps ..) ?_
    refine Keeps.comp (Keeps.of (Touches.put_tracts ..) (by decide)) ?_
    refine Keeps.comp (Dev.advance_keeps ..) ?_
    exact Keeps.refl _
  · exact Keeps.refl _

theorem sealLift_keeps (F) (d) : Keeps d (sealLift F d) := by
  unfold sealLift
  refine Keeps.ite ?_ ?_
  · refine Keeps.comp (Dev.notice_keeps ..) ?_
    refine Keeps.comp (Dev.icu_keeps ..) ?_
    refine Keeps.comp (Dev.postAll_keeps ..) ?_
    refine Keeps.comp (Dev.statePut_keeps ..) ?_
    refine Keeps.comp (Dev.event_keeps ..) ?_
    refine Keeps.comp (Keeps.of (Touches.put_tracts ..) (by decide)) ?_
    exact Keeps.refl _
  · exact Keeps.refl _

theorem freeDue_keeps (F) (d) : Keeps d (freeDue F d) := by
  unfold freeDue
  refine Keeps.comp (sealLift_keeps ..) ?_
  refine Keeps.foldl (fun _ _ => ?_) ?_
  · refine Keeps.comp (Keeps.of (Dev.freePhys_touches ..) (by decide)) ?_
    exact Keeps.refl _
  · refine Keeps.comp (Keeps.of (Touches.put_tracts ..) (by decide)) ?_
    exact Keeps.refl _

theorem gapDone_keeps (F) (d) (t) : Keeps d (gapDone F d t) := by
  unfold gapDone
  conv => zeta
  refine Keeps.ite ?_ ?_
  · exact Keeps.refl _
  · refine Keeps.comp (Dev.count_keeps ..) ?_
    refine Keeps.comp (Keeps.of (Dev.setHdr_touches ..) (by decide)) ?_
    split
    · refine Keeps.ite ?_ ?_
      · refine Keeps.comp (Keeps.of (Touches.put_tracts ..) (by decide)) ?_
        exact Keeps.refl _
      · split
        · refine Keeps.comp (Dev.putLoc_keeps ..) ?_
          refine Keeps.comp (Keeps.of (Dev.wearRow_touches ..) (by decide)) ?_
          refine Keeps.comp (Keeps.of (Touches.put_tracts ..) (by decide)) ?_
          exact Keeps.refl _
        · refine Keeps.comp (recordPoison_keeps ..) ?_
          refine Keeps.comp (Dev.putLoc_keeps ..) ?_
          refine Keeps.comp (Keeps.of (Dev.wearRow_touches ..) (by decide)) ?_
          refine Keeps.comp (Keeps.of (Touches.put_tracts ..) (by decide)) ?_
          exact Keeps.refl _
    · refine Keeps.comp (Keeps.of (Touches.put_tracts ..) (by decide)) ?_
      exact Keeps.refl _

theorem holdEmpty_keeps (F) (d) : Keeps d (holdEmpty F d) := by
  unfold holdEmpty
  refine Keeps.ite ?_ ?_
  · exact Keeps.refl _
  · refine Keeps.comp (Dev.icu_keeps ..) ?_
    refine Keeps.comp (Dev.postAll_keeps ..) ?_
    refine Keeps.comp (Dev.event_keeps ..) ?_
    refine Keeps.comp (Keeps.of (Touches.put_tracts ..) (by decide)) ?_
    exact Keeps.refl _

theorem migCopied_keeps (F) (d) (t) : Keeps d (migCopied F d t) := by
  unfold migCopied
  conv => zeta
  split
  · exact Keeps.refl _
  · refine Keeps.ite ?_ ?_
    · refine Keeps.comp (Keeps.of (Dev.mapMig_touches ..) (by decide)) ?_
      refine Keeps.comp (Dev.migAsk_keeps ..) ?_
      refine Keeps.comp (Dev.unask_keeps ..) ?_
      refine Keeps.ite ?_ ?_
      · exact Keeps.refl _
      · refine Keeps.foldl (fun _ _ => copyRow_keeps ..) ?_
        exact Keeps.refl _
    · refine Keeps.ite ?_ ?_
      · refine Keeps.comp (Keeps.of (Dev.mapMig_touches ..) (by decide)) ?_
        refine Keeps.comp (Dev.unask_keeps ..) ?_
        refine Keeps.ite ?_ ?_
        · exact Keeps.refl _
        · refine Keeps.foldl (fun _ _ => copyRow_keeps ..) ?_
          exact Keeps.refl _
      · exact Keeps.refl _

theorem migRelease_keeps (F) (d) (t) : Keeps d (migRelease F d t) := by
  unfold migRelease
  split
  · refine Keeps.comp (freeDue_keeps ..) ?_
    exact Keeps.refl _
  · refine Keeps.comp (Dev.narrowSettle_keeps ..) ?_
    refine Keeps.comp (freeDue_keeps ..) ?_
    refine Keeps.ite ?_ ?_
    · refine Keeps.comp (Keeps.of (Touches.put_tracts ..) (by decide)) ?_
      refine Keeps.comp (Dev.advance_keeps ..) ?_
      exact Keeps.refl _
    · refine Keeps.ite ?_ ?_
      · refine Keeps.comp (Keeps.of (Dev.mapPhys_touches ..) (by decide)) ?_
        refine Keeps.comp (Keeps.of (Dev.freePhys_touches ..) (by decide)) ?_
        refine Keeps.comp (Keeps.of (Touches.put_tracts ..) (by decide)) ?_
        refine Keeps.comp (Dev.advance_keeps ..) ?_
        exact Keeps.refl _
      · refine Keeps.comp (Keeps.of (Dev.freePhys_touches ..) (by decide)) ?_
        refine Keeps.comp (Keeps.of (Touches.put_tracts ..) (by decide)) ?_
        refine Keeps.comp (Dev.advance_keeps ..) ?_
        exact Keeps.refl _

theorem migStart_keeps (F) (d) (t) (why) : Keeps d (migStart F d t why) := by
  unfold migStart
  conv => zeta
  refine Keeps.ite ?_ ?_
  · exact Keeps.refl _
  · refine Keeps.ite ?_ ?_
    · exact Keeps.refl _
    · refine Keeps.ite ?_ ?_
      · refine Keeps.comp (auxMove_keeps ..) ?_
        exact Keeps.refl _
      · refine Keeps.ite ?_ ?_
        · refine Keeps.comp (Keeps.of (Dev.unqueue_touches ..) (by decide)) ?_
          exact Keeps.refl _
        · refine Keeps.ite ?_ ?_
          · exact Keeps.refl _
          · refine Keeps.ite ?_ ?_
            · exact Keeps.refl _
            · split
              · split
                · refine Keeps.ite ?_ ?_
                  · exact Keeps.refl _
                  · refine Keeps.comp (holdEmpty_keeps ..) ?_
                    exact Keeps.refl _
                · rename_i hq16
                  refine Keeps.comp (Dev.migAsk_keeps ..) ?_
                  refine Keeps.comp (Dev.count_keeps ..) ?_
                  refine Keeps.comp (Dev.holdSettle_keeps ..) ?_
                  refine Keeps.comp (Keeps.of (Touches.put_tracts ..) (by decide)) ?_
                  refine Keeps.comp (Keeps.of (Dev.unqueue_touches ..) (by decide)) ?_
                  refine Keeps.comp (Keeps.of (Dev.take_touches hq16) (by decide)) ?_
                  exact Keeps.refl _

theorem recryptLine_keeps (F) (old) (new) (base) (t) (old0) (d) (i) : Keeps d (recryptLine F old new base t old0 d i) := by
  unfold recryptLine
  conv => zeta
  refine Keeps.ite ?_ ?_
  · exact Keeps.refl _
  · split
    · refine Keeps.comp (recordPoison_keeps ..) ?_
      refine Keeps.comp (Dev.putLoc_keeps ..) ?_
      exact Keeps.refl _
    · split
      · refine Keeps.comp (recordPoison_keeps ..) ?_
        refine Keeps.comp (Dev.putLoc_keeps ..) ?_
        exact Keeps.refl _
      · refine Keeps.comp (Dev.putLoc_keeps ..) ?_
        exact Keeps.refl _

theorem recryptTract_keeps (x0) (x1) (x2) (x3) (x4) (x5) (x6) :
    Keeps x6 (recryptTract x0 x1 x2 x3 x4 x5 x6) := by
  unfold recryptTract
  extract_lets s0 hh d1 e w d2
  have h1 : Keeps x6 d1 := by
    refine Keeps.ite ?_ (Keeps.refl _)
    rcases hc : hh.allocCtr x2 x3 x4 with _ | e
    · exact (Keeps.of (Dev.setHdr_touches ..) (by decide))
    · exact Keeps.comp (Keeps.of (Dev.allocCtr_touches hc) (by decide)) (Keeps.of (Dev.setHdr_touches ..) (by decide))
  have h2 : Keeps x6 d2 := Keeps.foldl (fun _ _ => (Keeps.of (Dev.wearRow_touches ..) (by decide))) h1
  exact Keeps.foldl (fun _ _ => (recryptLine_keeps ..)) h2

theorem migSwitch_keeps (x0) (x1) (x2) :
    Keeps x1 (migSwitch x0 x1 x2) := by
  unfold migSwitch
  split
  · exact Keeps.refl _
  · rename_i m _
    extract_lets e cow who refs src d1 d2 d3 d4 d5 d6 d7
    refine Keeps.ite (Keeps.refl _) ?_
    have h1 : Keeps x1 d1 := Keeps.foldl (fun _ _ => Keeps.comp (Keeps.of (Dev.setHdr_touches ..) (by decide)) ((Keeps.of (Dev.setEnt_touches ..) (by decide)))) (Keeps.refl _)
    have h2 : Keeps x1 d2 := Keeps.comp (Keeps.of (Dev.markPhys_touches ..) (by decide)) h1
    have h3 : Keeps x1 d3 := Keeps.ite (Keeps.comp (Keeps.of (Dev.unshare_touches ..) (by decide)) h2) h2
    have h4 : Keeps x1 d4 := Keeps.comp (Keeps.of (Dev.mapMig_touches ..) (by decide)) h3
    have h5 : Keeps x1 d5 := Keeps.ite (Keeps.comp (Dev.bump_keeps ..) h4) h4
    have h6 : Keeps x1 d6 := Keeps.ite (Keeps.comp (Dev.count_keeps ..) h5)
      (Keeps.ite (Keeps.comp (Dev.count_keeps ..) h5) h5)
    have h7 : Keeps x1 d7 := Keeps.comp (Dev.count_keeps ..) h6
    clear_value d7
    split
    · extract_lets w r1 d8 d9
      have h8 : Keeps x1 d8 := Keeps.comp (Keeps.of (Touches.put_sec ..) (by decide)) h7
      have h9 : Keeps x1 d9 :=
        Keeps.comp (Keeps.of (Dev.mapCmd_touches ..) (by decide)) (Keeps.comp (recryptTract_keeps ..) h8)
      refine Keeps.comp (Dev.narrowSettle_keeps ..) (Keeps.comp (Dev.icu_keeps ..) ?_)
      split
      · exact Keeps.ite h9 (Keeps.comp (Keeps.of (Dev.ctrForget_touches ..) (by decide)) h9)
      · exact h9
    · have h8 : Keeps x1 (d7.narrowSettle x0 m.source.group) := Keeps.comp (Dev.narrowSettle_keeps ..) h7
      refine Keeps.ite ?_ h8
      split
      exact Keeps.comp (recryptTract_keeps ..) h8

theorem migVerify_keeps (F) (d) (t) (bad) (badAgain) : Keeps d (migVerify F d t bad badAgain) := by
  unfold migVerify
  split
  · exact Keeps.refl _
  · refine Keeps.ite ?_ ?_
    · exact Keeps.refl _
    · refine Keeps.ite ?_ ?_
      · refine Keeps.comp (Keeps.of (Dev.mapMig_touches ..) (by decide)) ?_
        exact Keeps.refl _
      · refine Keeps.ite ?_ ?_
        · refine Keeps.comp (Dev.badTarget_keeps ..) ?_
          exact Keeps.refl _
        · refine Keeps.comp (Keeps.of (Dev.mapMig_touches ..) (by decide)) ?_
          refine Keeps.ite ?_ ?_
          · exact Keeps.refl _
          · refine Keeps.foldl (fun _ _ => copyRow_keeps ..) ?_
            exact Keeps.refl _

theorem sealDevice_keeps (F) (d) : Keeps d (sealDevice F d) := by
  unfold sealDevice
  refine Keeps.ite ?_ ?_
  · exact Keeps.refl _
  · refine Keeps.comp (silentOut_keeps ..) ?_
    refine Keeps.comp (Dev.rekeyEnd_keeps ..) ?_
    refine Keeps.comp (Dev.notice_keeps ..) ?_
    refine Keeps.comp (Dev.icu_keeps ..) ?_
    refine Keeps.comp (Dev.postAll_keeps ..) ?_
    refine Keeps.comp (Dev.statePut_keeps ..) ?_
    refine Keeps.comp (Dev.event_keeps ..) ?_
    refine Keeps.comp (Keeps.of (Touches.put_tracts ..) (by decide)) ?_
    refine Keeps.comp (Dev.takeHomes_keeps ..) ?_
    exact Keeps.refl _

theorem zoneRecompute_keeps (F) (d) : Keeps d (zoneRecompute F d) := by
  unfold zoneRecompute
  refine Keeps.foldl (fun _ _ => ?_) ?_
  · refine Keeps.comp (Keeps.of (Dev.migQueue_touches ..) (by decide)) ?_
    exact Keeps.refl _
  · refine Keeps.comp (Keeps.of (Touches.put_tracts ..) (by decide)) ?_
    refine Keeps.comp (floorCheck_keeps ..) ?_
    refine Keeps.comp (freeDue_keeps ..) ?_
    refine Keeps.comp (Dev.tick_keeps ..) ?_
    exact Keeps.refl _

end Sys2Proof.Machine
end

