-- ==== Sys2Proof/Laws/KeepStream.lean ====
section
/-!
SUPPORT. The shared operations keep soundness: streams, counters, launch slots, queues, windows.
-/
namespace Sys2Proof.Machine

theorem Dev.roundReads_keeps (d) (n) (t) : Keeps d (Dev.roundReads d n t) := by
  unfold Dev.roundReads
  refine Keeps.comp (Dev.setCache_keeps ?_) ?_
  · exact fun h => h.scratch
  exact Keeps.refl _

theorem Dev.occupy_keeps (d) (n) (t) (s) (bank) (host) : Keeps d (Dev.occupy d n t s bank host) := by
  unfold Dev.occupy
  refine Keeps.comp (Dev.setChan_keeps ..) ?_
  exact Keeps.refl _

theorem Dev.grantRead_keeps (d) (n) (t) (e) : Keeps d (Dev.grantRead d n t e) := by
  unfold Dev.grantRead
  refine Keeps.comp (Dev.setCache_keeps ?_) ?_
  · exact fun h => h.scratch
  refine Keeps.comp (Dev.occupy_keeps ..) ?_
  exact Keeps.refl _

theorem Dev.unitDone_keeps (d) (n) (b) : Keeps d (Dev.unitDone d n b) := by
  unfold Dev.unitDone
  refine Keeps.comp (Keeps.put_media ?_ ?_) ?_
  · exact fun h => h.table
  · exact fun h => h.dies
  exact Keeps.refl _

theorem Dev.bridleBeat_keeps (d) (n) : Keeps d (Dev.bridleBeat d n) := by
  unfold Dev.bridleBeat
  conv => zeta
  refine Keeps.ite ?_ ?_
  · refine Keeps.comp (Dev.tick_keeps ..) ?_
    exact Keeps.refl _
  · split
    · refine Keeps.comp (Dev.roundReads_keeps ..) ?_
      refine Keeps.comp (Dev.tick_keeps ..) ?_
      exact Keeps.refl _
    · refine Keeps.comp (Dev.grantRead_keeps ..) ?_
      refine Keeps.comp (Dev.roundReads_keeps ..) ?_
      refine Keeps.comp (Dev.tick_keeps ..) ?_
      exact Keeps.refl _
    · refine Keeps.comp (Keeps.of (Touches.put_str ..) (by decide)) ?_
      refine Keeps.comp (Dev.occupy_keeps ..) ?_
      refine Keeps.comp (Dev.roundReads_keeps ..) ?_
      refine Keeps.comp (Dev.tick_keeps ..) ?_
      exact Keeps.refl _
    · refine Keeps.comp (Dev.unitDone_keeps ..) ?_
      refine Keeps.comp (Dev.occupy_keeps ..) ?_
      refine Keeps.comp (Dev.roundReads_keeps ..) ?_
      refine Keeps.comp (Dev.tick_keeps ..) ?_
      exact Keeps.refl _

theorem Dev.invClose_keeps (d) (r) : Keeps d (Dev.invClose d r) := by
  unfold Dev.invClose
  refine Keeps.comp (Dev.setCache_keeps ?_) ?_
  · exact fun h => h.scratch
  exact Keeps.refl _

theorem Dev.slotState_keeps (d) (n) (v) : Keeps d (Dev.slotState d n v) := by
  unfold Dev.slotState
  refine Keeps.comp (Dev.setFld_keeps ..) ?_
  exact Keeps.refl _

theorem Dev.snapFire_keeps (d) (h) (t) : Keeps d (Dev.snapFire d h t) := by
  unfold Dev.snapFire
  split
  · exact Keeps.refl _
  · refine Keeps.ite ?_ ?_
    · refine Keeps.comp (Dev.finish_keeps ..) ?_
      refine Keeps.comp (Keeps.of (Dev.dropSnap_touches ..) (by decide)) ?_
      exact Keeps.refl _
    · refine Keeps.comp (Keeps.of (Dev.mapCmd_touches ..) (by decide)) ?_
      refine Keeps.comp (Keeps.of (Dev.markPre_touches ..) (by decide)) ?_
      refine Keeps.comp (Keeps.of (Dev.mapSnap_touches ..) (by decide)) ?_
      exact Keeps.refl _

theorem slotAct_keeps {x0} {x1} {x2} {e r} (h : slotAct x0 x1 x2 = (e, r)) :
    Keeps x1 e := by
  unfold slotAct at h
  extract_lets arg at h
  split at h
  · cases h; exact (Keeps.of (Dev.streamFire_touches ..) (by decide))
  · cases h
    split
    · exact (Dev.snapFire_keeps ..)
    · exact Keeps.refl _
  · cases h
    refine Keeps.ite ?_ ?_
    · refine Keeps.comp (Keeps.of (Dev.snapHist_touches ..) (by decide)) ?_
      exact Keeps.ite ((Keeps.of (Dev.snapCounters_touches ..) (by decide))) (Keeps.refl _)
    · exact Keeps.ite ((Keeps.of (Dev.snapCounters_touches ..) (by decide))) (Keeps.refl _)
  · cases h; exact (Keeps.of (Touches.put_bst ..) (by decide))
  · split at h
    · cases h; exact Keeps.refl _
    · cases h; exact (Dev.msixSend_keeps ..)
  · split at h
    · cases h; exact (Keeps.of (Dev.gpioEdge_touches ..) (by decide))
    · cases h; exact Keeps.refl _
  · cases h; exact Keeps.refl _

theorem Dev.slotNext_keeps (d) (n) (stop) : Keeps d (Dev.slotNext d n stop) := by
  unfold Dev.slotNext
  conv => zeta
  refine Keeps.ite ?_ ?_
  · refine Keeps.comp (Dev.slotState_keeps ..) ?_
    refine Keeps.comp (Dev.setRbit_keeps ..) ?_
    exact Keeps.refl _
  · refine Keeps.comp (Dev.slotState_keeps ..) ?_
    refine Keeps.comp (Keeps.of (Dev.setDue_touches ..) (by decide)) ?_
    refine Keeps.comp (Dev.setFld_keeps ..) ?_
    refine Keeps.comp (Dev.setReg64_keeps ..) ?_
    refine Keeps.comp (Dev.setReg64_keeps ..) ?_
    exact Keeps.refl _

theorem slotFire_keeps (F) (d) (n) (late) (stop) : Keeps d (slotFire F d n late stop) := by
  unfold slotFire
  conv => zeta
  split
  · rename_i hq2
    refine Keeps.ite ?_ ?_
    · refine Keeps.comp (Dev.icu_keeps ..) ?_
      refine Keeps.comp (Keeps.of (Touches.put_lci ..) (by decide)) ?_
      refine Keeps.comp (Dev.slotNext_keeps ..) ?_
      refine Keeps.comp (Dev.setReg64_keeps ..) ?_
      refine Keeps.comp (Dev.setFld_keeps ..) ?_
      refine Keeps.comp (slotAct_keeps hq2) ?_
      exact Keeps.refl _
    · refine Keeps.comp (Dev.slotNext_keeps ..) ?_
      refine Keeps.comp (Dev.setReg64_keeps ..) ?_
      refine Keeps.comp (Dev.setFld_keeps ..) ?_
      refine Keeps.comp (slotAct_keeps hq2) ?_
      exact Keeps.refl _

theorem slotArm_keeps (F) (d) (n) (v) : Keeps d (slotArm F d n v) := by
  unfold slotArm
  conv => zeta
  refine Keeps.ite ?_ ?_
  · exact Keeps.refl _
  · refine Keeps.ite ?_ ?_
    · refine Keeps.comp (slotFire_keeps ..) ?_
      refine Keeps.comp (Keeps.of (Dev.setDue_touches ..) (by decide)) ?_
      refine Keeps.comp (Dev.slotState_keeps ..) ?_
      refine Keeps.comp (Dev.setReg_keeps ..) ?_
      refine Keeps.comp (Dev.setReg_keeps ..) ?_
      exact Keeps.refl _
    · refine Keeps.comp (Keeps.of (Dev.setDue_touches ..) (by decide)) ?_
      refine Keeps.comp (Dev.slotState_keeps ..) ?_
      refine Keeps.comp (Dev.setReg_keeps ..) ?_
      refine Keeps.comp (Dev.setReg_keeps ..) ?_
      exact Keeps.refl _

theorem Dev.slotCancel_keeps (d) (n) : Keeps d (Dev.slotCancel d n) := by
  unfold Dev.slotCancel
  conv => zeta
  refine Keeps.ite ?_ ?_
  · refine Keeps.ite ?_ ?_
    · refine Keeps.comp (Dev.icu_keeps ..) ?_
      refine Keeps.comp (Dev.slotState_keeps ..) ?_
      refine Keeps.comp (Dev.setRbit_keeps ..) ?_
      exact Keeps.refl _
    · refine Keeps.comp (Dev.slotState_keeps ..) ?_
      refine Keeps.comp (Dev.setRbit_keeps ..) ?_
      exact Keeps.refl _
  · exact Keeps.refl _

theorem Dev.stopCmd_keeps (d) (c) (status) : Keeps d (Dev.stopCmd d c status) := by
  unfold Dev.stopCmd
  conv => zeta
  split
  · refine Keeps.ite ?_ ?_
    · split
      · refine Keeps.comp (Dev.slotCancel_keeps ..) ?_
        refine Keeps.comp (Keeps.of (Dev.stopChan_touches ..) (by decide)) ?_
        refine Keeps.comp (Keeps.of (Dev.mapCmd_touches ..) (by decide)) ?_
        exact Keeps.refl _
      · refine Keeps.comp (Keeps.of (Dev.stopChan_touches ..) (by decide)) ?_
        refine Keeps.comp (Keeps.of (Dev.mapCmd_touches ..) (by decide)) ?_
        exact Keeps.refl _
    · refine Keeps.comp (Keeps.of (Dev.stopChan_touches ..) (by decide)) ?_
      refine Keeps.comp (Keeps.of (Dev.mapCmd_touches ..) (by decide)) ?_
      exact Keeps.refl _
  · refine Keeps.ite ?_ ?_
    · refine Keeps.comp (Dev.finish_keeps ..) ?_
      refine Keeps.comp (Keeps.of (Dev.dropSnap_touches ..) (by decide)) ?_
      split
      · refine Keeps.comp (Dev.slotCancel_keeps ..) ?_
        exact Keeps.refl _
      · exact Keeps.refl _
    · refine Keeps.ite ?_ ?_
      · refine Keeps.comp (Keeps.of (Touches.put_sec ..) (by decide)) ?_
        refine Keeps.comp (Keeps.of (Dev.mapCmd_touches ..) (by decide)) ?_
        exact Keeps.refl _
      · refine Keeps.ite ?_ ?_
        · refine Keeps.comp (Dev.finish_keeps ..) ?_
          refine Keeps.comp (Keeps.of (Dev.unwait_touches ..) (by decide)) ?_
          exact Keeps.refl _
        · refine Keeps.ite ?_ ?_
          · refine Keeps.comp (Dev.finish_keeps ..) ?_
            refine Keeps.comp (Keeps.of (Dev.unslice_touches ..) (by decide)) ?_
            exact Keeps.refl _
          · refine Keeps.comp (Dev.finish_keeps ..) ?_
            exact Keeps.refl _

theorem sendBack_keeps (F) (d) (lo) (hi) : Keeps d (sendBack F d lo hi) := by
  unfold sendBack
  refine Keeps.foldl (fun _ _ => selectOne_keeps ..) ?_
  exact Keeps.refl _

theorem Dev.invalidateFor_keeps (d) (r) (lo) (hi) : Keeps d (Dev.invalidateFor d r lo hi) := by
  unfold Dev.invalidateFor
  refine Keeps.comp (Dev.setCache_keeps ?_) ?_
  · exact fun h => h.scratch
  refine Keeps.comp (Dev.invalidate_keeps ..) ?_
  exact Keeps.refl _

theorem twinOff_keeps (F) (d) (n) : Keeps d (twinOff F d n) := by
  unfold twinOff
  conv => zeta
  refine Keeps.ite ?_ ?_
  · exact Keeps.refl _
  · refine Keeps.comp (sendBack_keeps ..) ?_
    refine Keeps.comp (Dev.invalidateFor_keeps ..) ?_
    refine Keeps.comp (Dev.setRbit_keeps ..) ?_
    refine Keeps.comp (Dev.setRbit_keeps ..) ?_
    exact Keeps.refl _

theorem Dev.grantNext_keeps (d) (k) : Keeps d (Dev.grantNext d k) := by
  unfold Dev.grantNext
  conv => zeta
  split
  · refine Keeps.comp (Dev.finish_keeps ..) ?_
    refine Keeps.comp (Keeps.of (Touches.put_lci ..) (by decide)) ?_
    exact Keeps.refl _
  · exact Keeps.refl _

theorem Dev.settle_keeps (d) (c) : Keeps d (Dev.settle d c) := by
  unfold Dev.settle
  conv => zeta
  split
  · refine Keeps.ite ?_ ?_
    · exact Keeps.refl _
    · refine Keeps.ite ?_ ?_
      · refine Keeps.comp (Keeps.of (Dev.setSchan_touches ..) (by decide)) ?_
        exact Keeps.refl _
      · refine Keeps.comp (Dev.count_keeps ..) ?_
        refine Keeps.comp (Keeps.of (Dev.setSchan_touches ..) (by decide)) ?_
        exact Keeps.refl _

theorem installLine_keeps {x0} {x1} {x2} {x3} {e} (h : installLine x0 x1 x2 x3 = some e) :
    Keeps x0 e := by
  unfold installLine at h
  extract_lets t en at h
  split at h
  · cases h
  · split at h
    · cases h
    · split at h
      · cases h
      · rename_i d1 hq
        have h1 : Keeps x0 d1 := by
          split at hq
          · cases hq; exact Keeps.refl _
          · exact (Dev.firstHome_keeps hq)
        extract_lets plain mm l dw d2 at h
        have hw : Keeps x0 dw := Keeps.ite h1 (Keeps.comp (Keeps.of (Dev.wearRow_touches ..) (by decide)) h1)
        clear_value dw
        cases h
        exact Keeps.comp (Keeps.of (Touches.put_drift ..) (by decide)) (Keeps.comp (Keeps.of (Dev.unlose_touches ..) (by decide))
          (Keeps.comp (Keeps.of (Dev.markRow_touches ..) (by decide)) (Keeps.comp (Dev.putLine_keeps ..)
          (Keeps.comp (Dev.writeClears_keeps ..) (Keeps.comp (Dev.count_keeps ..) hw)))))

theorem installOut_keeps (d) (c) (r) : Keeps d (installOut d c r) := by
  unfold installOut
  conv => zeta
  refine Keeps.foldl (fun _ _ => ?_) ?_
  · split
    · exact Keeps.refl _
    · refine Keeps.ite ?_ ?_
      · exact Keeps.refl _
      · split
        · rename_i hq8
          split
          · refine Keeps.ite ?_ ?_
            · refine Keeps.comp (Keeps.of (Dev.migQueue_touches ..) (by decide)) ?_
              exact Keeps.refl _
            · refine Keeps.ite ?_ ?_
              · refine Keeps.comp (Keeps.of (Dev.migQueue_touches ..) (by decide)) ?_
                exact Keeps.refl _
              · exact Keeps.refl _
          · rename_i hq10
            refine Keeps.comp (Keeps.of (Dev.setSchan_touches ..) (by decide)) ?_
            refine Keeps.comp (installLine_keeps hq10) ?_
            refine Keeps.comp (Keeps.of (Dev.free_touches hq8) (by decide)) ?_
            exact Keeps.refl _
  · exact Keeps.refl _

theorem installNext_keeps (d0) (c) : Keeps d0 (installNext d0 c) := by
  unfold installNext
  conv => zeta
  split
  · refine Keeps.comp (installOut_keeps ..) ?_
    refine Keeps.comp (Dev.settle_keeps ..) ?_
    exact Keeps.refl _
  · refine Keeps.comp (Dev.settle_keeps ..) ?_
    exact Keeps.refl _

theorem installData_keeps (d) (c) (data) (st) : Keeps d (installData d c data st) := by
  unfold installData
  conv => zeta
  split
  · exact Keeps.refl _
  · refine Keeps.ite ?_ ?_
    · exact Keeps.refl _
    · refine Keeps.ite ?_ ?_
      · refine Keeps.comp (Keeps.of (Dev.setSchan_touches ..) (by decide)) ?_
        refine Keeps.comp (Keeps.of (Dev.emit_touches ..) (by decide)) ?_
        exact Keeps.refl _
      · refine Keeps.ite ?_ ?_
        · exact Keeps.refl _
        · refine Keeps.comp (installNext_keeps ..) ?_
          refine Keeps.comp (Keeps.of (installRead_touches ..) (by decide)) ?_
          refine Keeps.comp (Keeps.of (Dev.setSchan_touches ..) (by decide)) ?_
          exact Keeps.refl _

theorem twinRange_keeps (F) (d) (h) (n) (off) (v) : Keeps d (twinRange F d h n off v) := by
  unfold twinRange
  conv => zeta
  refine Keeps.ite ?_ ?_
  · exact Keeps.refl _
  · refine Keeps.ite ?_ ?_
    · refine Keeps.comp (Dev.setReg_keeps ..) ?_
      exact Keeps.refl _
    · refine Keeps.comp (Dev.setReg_keeps ..) ?_
      exact Keeps.refl _

theorem twinRefuse_keeps (F) (d) (w) (reason) : Keeps d (twinRefuse F d w reason) := by
  unfold twinRefuse
  refine Keeps.comp (postAt_keeps ..) ?_
  refine Keeps.ite ?_ ?_
  · exact Keeps.refl _
  · refine Keeps.comp (Dev.setReg_keeps ..) ?_
    exact Keeps.refl _

theorem twinWrite_keeps (x0) (x1) (x2) (x3) (x4) :
    Keeps x1 (twinWrite x0 x1 x2 x3 x4) := by
  unfold twinWrite
  extract_lets off fresh lock mode word d1
  have hl : ∀ d : Dev, Keeps d (lock d) := fun d =>
    Keeps.ite (Keeps.comp (Keeps.put_a_b (fun s => ⟨s.headA.info, s.headA.warn, s.headA.fail, s.headA.fatal⟩)
      (fun s => ⟨s.headB.info, s.headB.warn, s.headB.fail, s.headB.fatal⟩)) (Dev.setRbit_keeps ..)) (Keeps.refl _)
  have h1 : Keeps x1 d1 := (Dev.setReg_keeps ..)
  refine Keeps.ite (Keeps.refl _) (Keeps.ite (hl _) (Keeps.ite ?_ (Keeps.ite ?_ ?_)))
  · exact Keeps.comp (hl _) (Keeps.ite (Keeps.refl _) ((twinOff_keeps ..)))
  · exact Keeps.comp (hl _) h1
  · split
    · exact Keeps.comp (hl _) (Keeps.comp (twinRefuse_keeps ..) h1)
    · exact Keeps.comp (hl _) (Keeps.comp (Dev.rekeyResume_keeps ..) (Keeps.comp (Dev.setRbit_keeps ..) h1))

theorem Dev.abandonLocks_keeps (d) (n) : Keeps d (Dev.abandonLocks d n) := by
  unfold Dev.abandonLocks
  refine Keeps.foldl (fun _ _ => ?_) ?_
  · refine Keeps.comp (Dev.grantNext_keeps ..) ?_
    refine Keeps.comp (Keeps.of (Dev.abandon_touches ..) (by decide)) ?_
    exact Keeps.refl _
  · exact Keeps.refl _

theorem qpOff_keeps (d) (n) : Keeps d (qpOff d n) := by
  unfold qpOff
  refine Keeps.foldl (fun _ _ => ?_) ?_
  · split
    · refine Keeps.ite ?_ ?_
      · refine Keeps.comp (Dev.stopCmd_keeps ..) ?_
        exact Keeps.refl _
      · exact Keeps.refl _
    · exact Keeps.refl _
  · refine Keeps.comp (Dev.abandonLocks_keeps ..) ?_
    refine Keeps.comp (Dev.setRbit_keeps ..) ?_
    exact Keeps.refl _

theorem qpWrite_keeps (F) (d) (n) (v) : Keeps d (qpWrite F d n v) := by
  unfold qpWrite
  conv => zeta
  refine Keeps.ite ?_ ?_
  · refine Keeps.comp (Keeps.of (Dev.setQp_touches ..) (by decide)) ?_
    refine Keeps.comp (Dev.setReg_keeps ..) ?_
    refine Keeps.comp (Dev.setReg_keeps ..) ?_
    refine Keeps.comp (Dev.setReg_keeps ..) ?_
    exact Keeps.refl _
  · refine Keeps.comp (Dev.setReg_keeps ..) ?_
    exact Keeps.refl _

theorem qpCfgWrite_keeps (F) (d) (h) (n) (v) : Keeps d (qpCfgWrite F d h n v) := by
  unfold qpCfgWrite
  refine Keeps.ite ?_ ?_
  · exact Keeps.refl _
  · refine Keeps.ite ?_ ?_
    · refine Keeps.ite ?_ ?_
      · exact Keeps.refl _
      · refine Keeps.comp (qpOff_keeps ..) ?_
        exact Keeps.refl _
    · refine Keeps.ite ?_ ?_
      · refine Keeps.comp (qpWrite_keeps ..) ?_
        exact Keeps.refl _
      · exact Keeps.refl _

theorem sqDoor_keeps (F) (d) (h) (n) (v) : Keeps d (sqDoor F d h n v) := by
  unfold sqDoor
  conv => zeta
  refine Keeps.ite ?_ ?_
  · exact Keeps.refl _
  · refine Keeps.ite ?_ ?_
    · refine Keeps.comp (Keeps.of (Dev.dbErr_touches ..) (by decide)) ?_
      exact Keeps.refl _
    · refine Keeps.comp (Dev.setReg_keeps ..) ?_
      exact Keeps.refl _

theorem cqDoor_keeps (F) (d) (h) (n) (v) : Keeps d (cqDoor F d h n v) := by
  unfold cqDoor
  conv => zeta
  refine Keeps.ite ?_ ?_
  · exact Keeps.refl _
  · refine Keeps.ite ?_ ?_
    · refine Keeps.comp (Keeps.of (Dev.dbErr_touches ..) (by decide)) ?_
      exact Keeps.refl _
    · refine Keeps.ite ?_ ?_
      · refine Keeps.comp (Dev.setReg_keeps ..) ?_
        exact Keeps.refl _
      · refine Keeps.comp (Dev.icu_keeps ..) ?_
        refine Keeps.comp (Dev.setReg_keeps ..) ?_
        exact Keeps.refl _

theorem slotDisarm_keeps (F) (d) (n) (v) : Keeps d (slotDisarm F d n v) := by
  unfold slotDisarm
  refine Keeps.ite ?_ ?_
  · refine Keeps.ite ?_ ?_
    · refine Keeps.comp (slotFire_keeps ..) ?_
      exact Keeps.refl _
    · refine Keeps.comp (Dev.slotState_keeps ..) ?_
      refine Keeps.comp (Dev.setRbit_keeps ..) ?_
      exact Keeps.refl _
  · refine Keeps.comp (Dev.setReg_keeps ..) ?_
    exact Keeps.refl _

theorem slotWrite_keeps (F) (d) (h) (n) (v) : Keeps d (slotWrite F d h n v) := by
  unfold slotWrite
  refine Keeps.ite ?_ ?_
  · exact Keeps.refl _
  · refine Keeps.ite ?_ ?_
    · refine Keeps.comp (slotArm_keeps ..) ?_
      exact Keeps.refl _
    · refine Keeps.comp (slotDisarm_keeps ..) ?_
      exact Keeps.refl _

theorem cntWrite_keeps (F) (d) (h) (n) (v) : Keeps d (cntWrite F d h n v) := by
  unfold cntWrite
  refine Keeps.ite ?_ ?_
  · exact Keeps.refl _
  · refine Keeps.comp (Keeps.of (Touches.put_pmc ..) (by decide)) ?_
    refine Keeps.comp (Dev.setReg_keeps ..) ?_
    exact Keeps.refl _

theorem histWrite_keeps (F) (d) (h) (i) (v) : Keeps d (histWrite F d h i v) := by
  unfold histWrite
  conv => zeta
  refine Keeps.ite ?_ ?_
  · exact Keeps.refl _
  · refine Keeps.ite ?_ ?_
    · refine Keeps.comp (Keeps.of (Touches.put_pmc ..) (by decide)) ?_
      refine Keeps.comp (Dev.setReg_keeps ..) ?_
      exact Keeps.refl _
    · refine Keeps.comp (Dev.setReg_keeps ..) ?_
      exact Keeps.refl _

theorem pmcCtl_keeps (F) (d) (h) (v) : Keeps d (pmcCtl F d h v) := by
  unfold pmcCtl
  conv => zeta
  refine Keeps.ite ?_ ?_
  · refine Keeps.comp (Keeps.of (Dev.snapHist_touches ..) (by decide)) ?_
    refine Keeps.ite ?_ ?_
    · refine Keeps.comp (Keeps.of (Dev.snapCounters_touches ..) (by decide)) ?_
      refine Keeps.comp (Dev.setFld_keeps ..) ?_
      exact Keeps.refl _
    · refine Keeps.comp (Dev.setFld_keeps ..) ?_
      exact Keeps.refl _
  · refine Keeps.ite ?_ ?_
    · refine Keeps.comp (Keeps.of (Dev.snapCounters_touches ..) (by decide)) ?_
      refine Keeps.comp (Dev.setFld_keeps ..) ?_
      exact Keeps.refl _
    · refine Keeps.comp (Dev.setFld_keeps ..) ?_
      exact Keeps.refl _

theorem Dev.gpioEnd_keeps (d) (pin) : Keeps d (Dev.gpioEnd d pin) := by
  unfold Dev.gpioEnd
  conv => zeta
  split
  · exact Keeps.refl _
  · refine Keeps.comp (Keeps.of (Dev.emit_touches ..) (by decide)) ?_
    refine Keeps.comp (Keeps.of (Touches.put_gpio ..) (by decide)) ?_
    refine Keeps.comp (Dev.advance_keeps ..) ?_
    exact Keeps.refl _

theorem Dev.slotClear_keeps (d) (n) : Keeps d (Dev.slotClear d n) := by
  unfold Dev.slotClear
  refine Keeps.comp (Keeps.of (Touches.put_launch ..) (by decide)) ?_
  refine Keeps.comp (Dev.resetRange_keeps ..) ?_
  exact Keeps.refl _

theorem Dev.snapDone_keeps (d) (h) : Keeps d (Dev.snapDone d h) := by
  unfold Dev.snapDone
  split
  · exact Keeps.refl _
  · split
    · exact Keeps.refl _
    · refine Keeps.ite ?_ ?_
      · exact Keeps.refl _
      · refine Keeps.comp (Dev.finish_keeps ..) ?_
        refine Keeps.comp (Dev.icu_keeps ..) ?_
        refine Keeps.comp (Keeps.of (Dev.dropSnap_touches ..) (by decide)) ?_
        exact Keeps.refl _

theorem slotDue_keeps (F) (d) (n) : Keeps d (slotDue F d n) := by
  unfold slotDue
  refine Keeps.ite ?_ ?_
  · exact Keeps.refl _
  · refine Keeps.ite ?_ ?_
    · refine Keeps.comp (slotFire_keeps ..) ?_
      refine Keeps.comp (Dev.advance_keeps ..) ?_
      refine Keeps.comp (Keeps.of (Dev.setDue_touches ..) (by decide)) ?_
      refine Keeps.comp (Dev.setFld_keeps ..) ?_
      refine Keeps.comp (Dev.setReg64_keeps ..) ?_
      exact Keeps.refl _
    · refine Keeps.comp (slotFire_keeps ..) ?_
      refine Keeps.comp (Dev.advance_keeps ..) ?_
      exact Keeps.refl _

theorem clearCmd_keeps (cause) (d) (c) : Keeps d (clearCmd cause d c) := by
  unfold clearCmd
  conv => zeta
  refine Keeps.ite ?_ ?_
  · refine Keeps.comp (Keeps.of (Dev.dropCmd_touches ..) (by decide)) ?_
    refine Keeps.comp (Keeps.of (Dev.dropSnap_touches ..) (by decide)) ?_
    refine Keeps.comp (Keeps.of (Dev.unwait_touches ..) (by decide)) ?_
    split
    · refine Keeps.comp (Keeps.of (Dev.setSchan_touches ..) (by decide)) ?_
      split
      · refine Keeps.comp (Dev.slotCancel_keeps ..) ?_
        exact Keeps.refl _
      · exact Keeps.refl _
    · split
      · refine Keeps.comp (Dev.slotCancel_keeps ..) ?_
        exact Keeps.refl _
      · exact Keeps.refl _
  · split
    · refine Keeps.comp (Keeps.of (Dev.stopChan_touches ..) (by decide)) ?_
      refine Keeps.comp (Keeps.of (Dev.mapCmd_touches ..) (by decide)) ?_
      refine Keeps.comp (Keeps.of (Dev.mapCmd_touches ..) (by decide)) ?_
      exact Keeps.refl _
    · refine Keeps.comp (Keeps.of (Dev.mapCmd_touches ..) (by decide)) ?_
      exact Keeps.refl _

theorem clearPairs_keeps (F) (d) (pairs) (cause) : Keeps d (clearPairs F d pairs cause) := by
  unfold clearPairs
  refine Keeps.comp (uwlAdd_keeps ..) ?_
  refine Keeps.foldl (fun _ _ => ?_) ?_
  · refine Keeps.comp (Dev.abandonLocks_keeps ..) ?_
    refine Keeps.comp (Keeps.of (Dev.setQp_touches ..) (by decide)) ?_
    refine Keeps.comp (Dev.setRbit_keeps ..) ?_
    exact Keeps.refl _
  · refine Keeps.foldl (fun _ _ => clearCmd_keeps ..) ?_
    exact Keeps.refl _

theorem peekLow_keeps {x0} {x1} {x2} {x3} {x4} {x5} {r e} (h : peekLow x0 x1 x2 x3 x4 x5 = (r, e)) :
    Keeps x1 e := by
  unfold peekLow at h
  split at h
  · cases h; exact (Dev.useHit_keeps ..)
  · split at h
    · cases h; exact Keeps.refl _
    · cases h; exact Keeps.refl _
    · split at h
      · exact (Dev.openLine_keeps h)
      · exact (Dev.openLine_keeps h)
      · cases h; exact Keeps.refl _
      · cases h; exact Keeps.refl _

theorem peekLine_keeps {x0} {x1} {x2} {x3} {x4} {x5} {r e} (h : peekLine x0 x1 x2 x3 x4 x5 = (r, e)) :
    Keeps x1 e := by
  have hE : ∀ w g (o : Val × Dev), Keeps x1 o.2 → Keeps x1 (peekEntry x0 x4 w g o).2 := by
    intro w g o ho
    unfold peekEntry
    split
    · refine Keeps.comp (Dev.count_keeps ..) ?_
      exact Keeps.ite (Keeps.comp (Keeps.of (Dev.setWb_touches ..) (by decide)) ho) (Keeps.comp (Keeps.of (Dev.setStaged_touches ..) (by decide)) ho)
    · exact Keeps.comp (dropEntry_keeps ..) ho
  unfold peekLine at h
  extract_lets whole under at h
  have hu : Keeps x1 under.2 := by
    simp only [under]
    split
    · exact (peekLow_keeps rfl)
    · split
      · exact Keeps.refl _
      · exact hE _ _ _ ((peekLow_keeps rfl))
  clear_value under
  split at h
  · cases h; exact Keeps.refl _
  · split at h
    · cases h; exact hu
    · rename_i g _
      have := hE false g _ hu
      rw [h] at this; exact this

theorem peekAddr_keeps {x0} {x1} {x2} {x3} {x4} {x5} {x6} {r e} (h : peekAddr x0 x1 x2 x3 x4 x5 x6 = (r, e)) :
    Keeps x1 e := by
  unfold peekAddr at h
  split at h
  · cases h; exact Keeps.refl _
  · cases h; exact Keeps.refl _
  · exact (peekLine_keeps h)

theorem cqWrite_keeps (F) (d) (h) (parity) : Keeps d (cqWrite F d h parity) := by
  unfold cqWrite
  conv => zeta
  split
  · exact Keeps.refl _
  · refine Keeps.ite ?_ ?_
    · exact Keeps.refl _
    · refine Keeps.ite ?_ ?_
      · refine Keeps.comp (Keeps.of (Dev.setQp_touches ..) (by decide)) ?_
        refine Keeps.ite ?_ ?_
        · refine Keeps.comp (Dev.msixSend_keeps ..) ?_
          refine Keeps.comp (Keeps.of (Dev.emit_touches ..) (by decide)) ?_
          refine Keeps.comp (Dev.count_keeps ..) ?_
          refine Keeps.comp (Dev.latency_keeps ..) ?_
          refine Keeps.comp (Keeps.of (Dev.freeChan_touches ..) (by decide)) ?_
          refine Keeps.comp (Keeps.of (Dev.dropCmd_touches ..) (by decide)) ?_
          refine Keeps.comp (Keeps.of (Dev.setQp_touches ..) (by decide)) ?_
          refine Keeps.ite ?_ ?_
          · refine Keeps.comp (Keeps.of (Touches.put_lci ..) (by decide)) ?_
            refine Keeps.comp (Dev.icu_keeps ..) ?_
            refine Keeps.comp (Dev.event_keeps ..) ?_
            exact Keeps.refl _
          · exact Keeps.refl _
        · refine Keeps.comp (Keeps.of (Dev.emit_touches ..) (by decide)) ?_
          refine Keeps.comp (Dev.count_keeps ..) ?_
          refine Keeps.comp (Dev.latency_keeps ..) ?_
          refine Keeps.comp (Keeps.of (Dev.freeChan_touches ..) (by decide)) ?_
          refine Keeps.comp (Keeps.of (Dev.dropCmd_touches ..) (by decide)) ?_
          refine Keeps.comp (Keeps.of (Dev.setQp_touches ..) (by decide)) ?_
          refine Keeps.ite ?_ ?_
          · refine Keeps.comp (Keeps.of (Touches.put_lci ..) (by decide)) ?_
            refine Keeps.comp (Dev.icu_keeps ..) ?_
            refine Keeps.comp (Dev.event_keeps ..) ?_
            exact Keeps.refl _
          · exact Keeps.refl _
      · refine Keeps.ite ?_ ?_
        · refine Keeps.comp (Dev.msixSend_keeps ..) ?_
          refine Keeps.comp (Keeps.of (Dev.emit_touches ..) (by decide)) ?_
          refine Keeps.comp (Dev.count_keeps ..) ?_
          refine Keeps.comp (Dev.latency_keeps ..) ?_
          refine Keeps.comp (Keeps.of (Dev.freeChan_touches ..) (by decide)) ?_
          refine Keeps.comp (Keeps.of (Dev.dropCmd_touches ..) (by decide)) ?_
          refine Keeps.comp (Keeps.of (Dev.setQp_touches ..) (by decide)) ?_
          refine Keeps.ite ?_ ?_
          · refine Keeps.comp (Keeps.of (Touches.put_lci ..) (by decide)) ?_
            refine Keeps.comp (Dev.icu_keeps ..) ?_
            refine Keeps.comp (Dev.event_keeps ..) ?_
            exact Keeps.refl _
          · exact Keeps.refl _
        · refine Keeps.comp (Keeps.of (Dev.emit_touches ..) (by decide)) ?_
          refine Keeps.comp (Dev.count_keeps ..) ?_
          refine Keeps.comp (Dev.latency_keeps ..) ?_
          refine Keeps.comp (Keeps.of (Dev.freeChan_touches ..) (by decide)) ?_
          refine Keeps.comp (Keeps.of (Dev.dropCmd_touches ..) (by decide)) ?_
          refine Keeps.comp (Keeps.of (Dev.setQp_touches ..) (by decide)) ?_
          refine Keeps.ite ?_ ?_
          · refine Keeps.comp (Keeps.of (Touches.put_lci ..) (by decide)) ?_
            refine Keeps.comp (Dev.icu_keeps ..) ?_
            refine Keeps.comp (Dev.event_keeps ..) ?_
            exact Keeps.refl _
          · exact Keeps.refl _

theorem sqTake_keeps (F) (d) (n) (entry) (parity) : Keeps d (sqTake F d n entry parity) := by
  unfold sqTake
  conv => zeta
  refine Keeps.ite ?_ ?_
  · exact Keeps.refl _
  · refine Keeps.ite ?_ ?_
    · refine Keeps.comp (Keeps.of (Touches.put_lci ..) (by decide)) ?_
      refine Keeps.comp (Dev.finish_keeps ..) ?_
      refine Keeps.comp (Dev.icu_keeps ..) ?_
      refine Keeps.comp (Dev.event_keeps ..) ?_
      refine Keeps.ite ?_ ?_
      · refine Keeps.comp (Dev.icu_keeps ..) ?_
        refine Keeps.comp (Dev.count_keeps ..) ?_
        refine Keeps.comp (Keeps.of (Dev.setQp_touches ..) (by decide)) ?_
        refine Keeps.comp (Keeps.of (Touches.put_lci ..) (by decide)) ?_
        exact Keeps.refl _
      · refine Keeps.ite ?_ ?_
        · refine Keeps.comp (Dev.count_keeps ..) ?_
          refine Keeps.comp (Dev.count_keeps ..) ?_
          refine Keeps.comp (Keeps.of (Dev.setQp_touches ..) (by decide)) ?_
          refine Keeps.comp (Keeps.of (Touches.put_lci ..) (by decide)) ?_
          exact Keeps.refl _
        · refine Keeps.comp (Dev.count_keeps ..) ?_
          refine Keeps.comp (Keeps.of (Dev.setQp_touches ..) (by decide)) ?_
          refine Keeps.comp (Keeps.of (Touches.put_lci ..) (by decide)) ?_
          exact Keeps.refl _
    · refine Keeps.ite ?_ ?_
      · refine Keeps.comp (Dev.icu_keeps ..) ?_
        refine Keeps.comp (Dev.count_keeps ..) ?_
        refine Keeps.comp (Keeps.of (Dev.setQp_touches ..) (by decide)) ?_
        refine Keeps.comp (Keeps.of (Touches.put_lci ..) (by decide)) ?_
        exact Keeps.refl _
      · refine Keeps.ite ?_ ?_
        · refine Keeps.comp (Dev.count_keeps ..) ?_
          refine Keeps.comp (Dev.count_keeps ..) ?_
          refine Keeps.comp (Keeps.of (Dev.setQp_touches ..) (by decide)) ?_
          refine Keeps.comp (Keeps.of (Touches.put_lci ..) (by decide)) ?_
          exact Keeps.refl _
        · refine Keeps.comp (Dev.count_keeps ..) ?_
          refine Keeps.comp (Keeps.of (Dev.setQp_touches ..) (by decide)) ?_
          refine Keeps.comp (Keeps.of (Touches.put_lci ..) (by decide)) ?_
          exact Keeps.refl _

theorem Dev.finishList_keeps (d) (c) : Keeps d (Dev.finishList d c) := by
  unfold Dev.finishList
  conv => zeta
  refine Keeps.ite ?_ ?_
  · refine Keeps.comp (Keeps.of (Dev.setSchan_touches ..) (by decide)) ?_
    refine Keeps.comp (Dev.finish_keeps ..) ?_
    exact Keeps.refl _
  · refine Keeps.comp (Dev.finish_keeps ..) ?_
    exact Keeps.refl _

theorem confirmed_keeps (d) (c) : Keeps d (confirmed d c) := by
  unfold confirmed
  conv => zeta
  split
  · exact Keeps.refl _
  · refine Keeps.ite ?_ ?_
    · refine Keeps.comp (Dev.settle_keeps ..) ?_
      refine Keeps.comp (Dev.count_keeps ..) ?_
      refine Keeps.comp (Keeps.of (Dev.setSchan_touches ..) (by decide)) ?_
      exact Keeps.refl _
    · refine Keeps.comp (Keeps.of (Dev.setSchan_touches ..) (by decide)) ?_
      exact Keeps.refl _

theorem copyPut_keeps {x0} {x1} {x2} {x3} {x4} {e} (h : copyPut x0 x1 x2 x3 x4 = some e) :
    Keeps x1 e := by
  obtain ⟨line, v, m, bad⟩ := x4
  unfold copyPut at h
  dsimp only at h
  split at h
  · cases h
  · split at h
    · cases h
    · split at h
      · split at h
        · obtain rfl := Option.some.inj h
          refine Keeps.comp (Keeps.of (Dev.setSchan_touches ..) (by decide)) ?_
          refine Keeps.ite (Keeps.scratch (recordPoison_keeps ..) fun h => Tbl.put_wf _ _ _ _ h.scratch)
            (Keeps.ite (Dev.setCache_keeps fun h => ?_) (Keeps.ite (partialLoss_keeps ..) (Dev.setCache_keeps fun h => ?_)))
          · exact Tbl.put_wf _ _ _ _ h.scratch
          · dsimp only; exact Tbl.upd_wf _ _ _ _ h.scratch
        · obtain rfl := Option.some.inj h; exact (Keeps.of (Dev.setSchan_touches ..) (by decide))
      · split at h
        · obtain rfl := Option.some.inj h; exact (Keeps.of (Dev.setSchan_touches ..) (by decide))
        · split at h
          · obtain rfl := Option.some.inj h; exact (Keeps.of (Dev.setSchan_touches ..) (by decide))
          · split at h
            · cases h
            · obtain rfl := Option.some.inj h
              refine Keeps.comp (acceptWrite_keeps ..) (Keeps.comp (Keeps.of (Dev.setSchan_touches ..) (by decide)) ?_)
              exact Keeps.ite ((recordPoison_keeps ..)) (Keeps.refl _)

theorem copyOut_keeps (x0) (x1) (x2) (x3) :
    Keeps x1 (copyOut x0 x1 x2 x3) := by
  unfold copyOut
  extract_lets x q out n d1
  have h1 : Keeps x1 d1 := by
    refine Keeps.foldl (fun a j => ?_) (Keeps.refl _)
    split
    · refine Keeps.ite ?_ (Keeps.refl _)
      rcases hc : copyPut x0 a x2 x3.idx (copyLine q.dst out j) with _ | e
      · exact Keeps.refl _
      · exact (copyPut_keeps hc)
    · exact Keeps.refl _
  split
  · exact Keeps.ite h1 (Keeps.comp (Keeps.of (Dev.setSchan_touches ..) (by decide)) h1)
  · exact h1

theorem descFetch_keeps (F) (d) (c) (host) (fail) : Keeps d (descFetch F d c host fail) := by
  unfold descFetch
  conv => zeta
  refine Keeps.ite ?_ ?_
  · exact Keeps.refl _
  · refine Keeps.ite ?_ ?_
    · split
      · refine Keeps.comp (Keeps.of (Dev.setSchan_touches ..) (by decide)) ?_
        exact Keeps.refl _
      · split
        · rename_i hq8
          refine Keeps.comp (Keeps.of (Dev.setSchan_touches ..) (by decide)) ?_
          refine Keeps.comp (Keeps.of (Dev.free_touches hq8) (by decide)) ?_
          exact Keeps.refl _
    · refine Keeps.ite ?_ ?_
      · split
        · rename_i hq8
          refine Keeps.comp (Keeps.of (Dev.setSchan_touches ..) (by decide)) ?_
          refine Keeps.comp (Keeps.of (Dev.free_touches hq8) (by decide)) ?_
          refine Keeps.comp (Keeps.of (Dev.emit_touches ..) (by decide)) ?_
          refine Keeps.comp (Keeps.of (Dev.listRead_touches ..) (by decide)) ?_
          exact Keeps.refl _
      · refine Keeps.comp (Keeps.of (Dev.setSchan_touches ..) (by decide)) ?_
        refine Keeps.comp (Keeps.of (Dev.listRead_touches ..) (by decide)) ?_
        exact Keeps.refl _

theorem descStart_keeps (F) (d0) (c) : Keeps d0 (descStart F d0 c) := by
  unfold descStart
  conv => zeta
  refine Keeps.ite ?_ ?_
  · refine Keeps.comp (Dev.settle_keeps ..) ?_
    exact Keeps.refl _
  · split
    · refine Keeps.comp (Dev.settle_keeps ..) ?_
      exact Keeps.refl _
    · refine Keeps.ite ?_ ?_
      · refine Keeps.comp (Keeps.of (Dev.setSchan_touches ..) (by decide)) ?_
        refine Keeps.comp (Dev.settle_keeps ..) ?_
        exact Keeps.refl _
      · refine Keeps.ite ?_ ?_
        · refine Keeps.ite ?_ ?_
          · refine Keeps.comp (Keeps.of (Dev.setSchan_touches ..) (by decide)) ?_
            refine Keeps.comp (Dev.settle_keeps ..) ?_
            exact Keeps.refl _
          · refine Keeps.comp (Keeps.of (Dev.setSchan_touches ..) (by decide)) ?_
            refine Keeps.comp (Dev.settle_keeps ..) ?_
            exact Keeps.refl _
        · refine Keeps.ite ?_ ?_
          · refine Keeps.comp (Keeps.of (Dev.setSchan_touches ..) (by decide)) ?_
            refine Keeps.comp (Dev.settle_keeps ..) ?_
            exact Keeps.refl _
          · refine Keeps.ite ?_ ?_
            · refine Keeps.comp (Keeps.of (Dev.setSchan_touches ..) (by decide)) ?_
              refine Keeps.comp (Dev.settle_keeps ..) ?_
              exact Keeps.refl _
            · refine Keeps.ite ?_ ?_
              · refine Keeps.comp (Keeps.of (Dev.setSchan_touches ..) (by decide)) ?_
                refine Keeps.comp (Dev.settle_keeps ..) ?_
                exact Keeps.refl _
              · refine Keeps.ite ?_ ?_
                · refine Keeps.comp (Dev.settle_keeps ..) ?_
                  exact Keeps.refl _
                · refine Keeps.ite ?_ ?_
                  · refine Keeps.comp (Keeps.of (Dev.laneTurn_touches ..) (by decide)) ?_
                    refine Keeps.comp (Dev.settle_keeps ..) ?_
                    exact Keeps.refl _
                  · refine Keeps.ite ?_ ?_
                    · refine Keeps.comp (Keeps.of (installRead_touches ..) (by decide)) ?_
                      refine Keeps.comp (Keeps.of (Dev.setSchan_touches ..) (by decide)) ?_
                      refine Keeps.comp (Dev.settle_keeps ..) ?_
                      exact Keeps.refl _
                    · refine Keeps.ite ?_ ?_
                      · refine Keeps.comp (Keeps.of (Dev.pump_touches ..) (by decide)) ?_
                        refine Keeps.comp (Keeps.of (Dev.laneTurn_touches ..) (by decide)) ?_
                        refine Keeps.comp (Keeps.of (Dev.setSchan_touches ..) (by decide)) ?_
                        refine Keeps.comp (Dev.settle_keeps ..) ?_
                        exact Keeps.refl _
                      · refine Keeps.comp (Keeps.of (Dev.pump_touches ..) (by decide)) ?_
                        refine Keeps.comp (Keeps.of (Dev.setSchan_touches ..) (by decide)) ?_
                        refine Keeps.comp (Dev.settle_keeps ..) ?_
                        exact Keeps.refl _

theorem listEnd_keeps (d0) (c) : Keeps d0 (listEnd d0 c) := by
  unfold listEnd
  conv => zeta
  refine Keeps.ite ?_ ?_
  · refine Keeps.comp (Dev.settle_keeps ..) ?_
    exact Keeps.refl _
  · split
    · refine Keeps.comp (Dev.finishList_keeps ..) ?_
      refine Keeps.ite ?_ ?_
      · refine Keeps.ite ?_ ?_
        · refine Keeps.comp (Dev.icu_keeps ..) ?_
          refine Keeps.comp (Dev.count_keeps ..) ?_
          refine Keeps.comp (Keeps.of (Dev.setSchan_touches ..) (by decide)) ?_
          refine Keeps.comp (Dev.settle_keeps ..) ?_
          exact Keeps.refl _
        · refine Keeps.comp (Dev.count_keeps ..) ?_
          refine Keeps.comp (Dev.icu_keeps ..) ?_
          refine Keeps.comp (Dev.count_keeps ..) ?_
          refine Keeps.comp (Keeps.of (Dev.setSchan_touches ..) (by decide)) ?_
          refine Keeps.comp (Dev.settle_keeps ..) ?_
          exact Keeps.refl _
      · refine Keeps.comp (Dev.bump_keeps ..) ?_
        refine Keeps.ite ?_ ?_
        · refine Keeps.comp (Dev.icu_keeps ..) ?_
          refine Keeps.comp (Dev.count_keeps ..) ?_
          refine Keeps.comp (Keeps.of (Dev.setSchan_touches ..) (by decide)) ?_
          refine Keeps.comp (Dev.settle_keeps ..) ?_
          exact Keeps.refl _
        · refine Keeps.comp (Dev.count_keeps ..) ?_
          refine Keeps.comp (Dev.icu_keeps ..) ?_
          refine Keeps.comp (Dev.count_keeps ..) ?_
          refine Keeps.comp (Keeps.of (Dev.setSchan_touches ..) (by decide)) ?_
          refine Keeps.comp (Dev.settle_keeps ..) ?_
          exact Keeps.refl _

theorem outWrite_keeps (F) (d) (c) (idx) : Keeps d (outWrite F d c idx) := by
  unfold outWrite
  conv => zeta
  split
  · exact Keeps.refl _
  · refine Keeps.ite ?_ ?_
    · exact Keeps.refl _
    · refine Keeps.ite ?_ ?_
      · exact Keeps.refl _
      · refine Keeps.ite ?_ ?_
        · refine Keeps.ite ?_ ?_
          · exact Keeps.refl _
          · refine Keeps.comp (Dev.count_keeps ..) ?_
            refine Keeps.comp (Dev.countH_keeps ..) ?_
            refine Keeps.comp (Keeps.of (Dev.emit_touches ..) (by decide)) ?_
            refine Keeps.comp (Keeps.of (Dev.setSchan_touches ..) (by decide)) ?_
            exact Keeps.refl _
        · refine Keeps.ite ?_ ?_
          · refine Keeps.comp (Keeps.of (Dev.setSchan_touches ..) (by decide)) ?_
            refine Keeps.ite ?_ ?_
            · exact Keeps.refl _
            · refine Keeps.comp (Dev.count_keeps ..) ?_
              refine Keeps.comp (Dev.countH_keeps ..) ?_
              refine Keeps.comp (Keeps.of (Dev.emit_touches ..) (by decide)) ?_
              refine Keeps.comp (Keeps.of (Dev.setSchan_touches ..) (by decide)) ?_
              exact Keeps.refl _
          · refine Keeps.ite ?_ ?_
            · refine Keeps.ite ?_ ?_
              · exact Keeps.refl _
              · refine Keeps.comp (Dev.count_keeps ..) ?_
                refine Keeps.comp (Dev.countH_keeps ..) ?_
                refine Keeps.comp (Keeps.of (Dev.emit_touches ..) (by decide)) ?_
                refine Keeps.comp (Keeps.of (Dev.setSchan_touches ..) (by decide)) ?_
                exact Keeps.refl _
            · refine Keeps.comp (Keeps.of (Dev.emit_touches ..) (by decide)) ?_
              refine Keeps.comp (Keeps.of (Dev.setSchan_touches ..) (by decide)) ?_
              refine Keeps.ite ?_ ?_
              · exact Keeps.refl _
              · refine Keeps.comp (Dev.count_keeps ..) ?_
                refine Keeps.comp (Dev.countH_keeps ..) ?_
                refine Keeps.comp (Keeps.of (Dev.emit_touches ..) (by decide)) ?_
                refine Keeps.comp (Keeps.of (Dev.setSchan_touches ..) (by decide)) ?_
                exact Keeps.refl _

theorem sourceNext_keeps (F) (d0) (c) (v) : Keeps d0 (sourceNext F d0 c v) := by
  unfold sourceNext
  conv => zeta
  split
  · split
    · refine Keeps.ite ?_ ?_
      · refine Keeps.comp (copyOut_keeps ..) ?_
        refine Keeps.comp (Dev.settle_keeps ..) ?_
        exact Keeps.refl _
      · refine Keeps.comp (Dev.settle_keeps ..) ?_
        exact Keeps.refl _
    · refine Keeps.comp (Dev.settle_keeps ..) ?_
      exact Keeps.refl _
  · split
    · rename_i hq4
      refine Keeps.ite ?_ ?_
      · refine Keeps.comp (Keeps.of (Dev.setSchan_touches ..) (by decide)) ?_
        split
        · refine Keeps.ite ?_ ?_
          · refine Keeps.comp (Keeps.of (Dev.confirmAdd_touches ..) (by decide)) ?_
            refine Keeps.ite ?_ ?_
            · refine Keeps.comp (recordPoison_keeps ..) ?_
              refine Keeps.comp (Dev.count_keeps ..) ?_
              refine Keeps.comp (peekAddr_keeps hq4) ?_
              refine Keeps.comp (Dev.settle_keeps ..) ?_
              exact Keeps.refl _
            · refine Keeps.comp (Dev.count_keeps ..) ?_
              refine Keeps.comp (peekAddr_keeps hq4) ?_
              refine Keeps.comp (Dev.settle_keeps ..) ?_
              exact Keeps.refl _
          · refine Keeps.ite ?_ ?_
            · refine Keeps.comp (recordPoison_keeps ..) ?_
              refine Keeps.comp (Dev.count_keeps ..) ?_
              refine Keeps.comp (peekAddr_keeps hq4) ?_
              refine Keeps.comp (Dev.settle_keeps ..) ?_
              exact Keeps.refl _
            · refine Keeps.comp (Dev.count_keeps ..) ?_
              refine Keeps.comp (peekAddr_keeps hq4) ?_
              refine Keeps.comp (Dev.settle_keeps ..) ?_
              exact Keeps.refl _
        · refine Keeps.comp (Dev.count_keeps ..) ?_
          refine Keeps.comp (peekAddr_keeps hq4) ?_
          refine Keeps.comp (Dev.settle_keeps ..) ?_
          exact Keeps.refl _
      · refine Keeps.ite ?_ ?_
        · refine Keeps.comp (copyOut_keeps ..) ?_
          refine Keeps.comp (Keeps.of (expandCheck_touches ..) (by decide)) ?_
          refine Keeps.comp (Keeps.of (Dev.setSchan_touches ..) (by decide)) ?_
          split
          · refine Keeps.ite ?_ ?_
            · refine Keeps.comp (Keeps.of (Dev.confirmAdd_touches ..) (by decide)) ?_
              refine Keeps.ite ?_ ?_
              · refine Keeps.comp (recordPoison_keeps ..) ?_
                refine Keeps.comp (Dev.count_keeps ..) ?_
                refine Keeps.comp (peekAddr_keeps hq4) ?_
                refine Keeps.comp (Dev.settle_keeps ..) ?_
                exact Keeps.refl _
              · refine Keeps.comp (Dev.count_keeps ..) ?_
                refine Keeps.comp (peekAddr_keeps hq4) ?_
                refine Keeps.comp (Dev.settle_keeps ..) ?_
                exact Keeps.refl _
            · refine Keeps.ite ?_ ?_
              · refine Keeps.comp (recordPoison_keeps ..) ?_
                refine Keeps.comp (Dev.count_keeps ..) ?_
                refine Keeps.comp (peekAddr_keeps hq4) ?_
                refine Keeps.comp (Dev.settle_keeps ..) ?_
                exact Keeps.refl _
              · refine Keeps.comp (Dev.count_keeps ..) ?_
                refine Keeps.comp (peekAddr_keeps hq4) ?_
                refine Keeps.comp (Dev.settle_keeps ..) ?_
                exact Keeps.refl _
          · refine Keeps.comp (Dev.count_keeps ..) ?_
            refine Keeps.comp (peekAddr_keeps hq4) ?_
            refine Keeps.comp (Dev.settle_keeps ..) ?_
            exact Keeps.refl _
        · refine Keeps.comp (Keeps.of (expandCheck_touches ..) (by decide)) ?_
          refine Keeps.comp (Keeps.of (Dev.setSchan_touches ..) (by decide)) ?_
          split
          · refine Keeps.ite ?_ ?_
            · refine Keeps.comp (Keeps.of (Dev.confirmAdd_touches ..) (by decide)) ?_
              refine Keeps.ite ?_ ?_
              · refine Keeps.comp (recordPoison_keeps ..) ?_
                refine Keeps.comp (Dev.count_keeps ..) ?_
                refine Keeps.comp (peekAddr_keeps hq4) ?_
                refine Keeps.comp (Dev.settle_keeps ..) ?_
                exact Keeps.refl _
              · refine Keeps.comp (Dev.count_keeps ..) ?_
                refine Keeps.comp (peekAddr_keeps hq4) ?_
                refine Keeps.comp (Dev.settle_keeps ..) ?_
                exact Keeps.refl _
            · refine Keeps.ite ?_ ?_
              · refine Keeps.comp (recordPoison_keeps ..) ?_
                refine Keeps.comp (Dev.count_keeps ..) ?_
                refine Keeps.comp (peekAddr_keeps hq4) ?_
                refine Keeps.comp (Dev.settle_keeps ..) ?_
                exact Keeps.refl _
              · refine Keeps.comp (Dev.count_keeps ..) ?_
                refine Keeps.comp (peekAddr_keeps hq4) ?_
                refine Keeps.comp (Dev.settle_keeps ..) ?_
                exact Keeps.refl _
          · refine Keeps.comp (Dev.count_keeps ..) ?_
            refine Keeps.comp (peekAddr_keeps hq4) ?_
            refine Keeps.comp (Dev.settle_keeps ..) ?_
            exact Keeps.refl _

theorem verifyNext_keeps (F) (d) (c) (v) : Keeps d (verifyNext F d c v) := by
  unfold verifyNext
  conv => zeta
  refine Keeps.ite ?_ ?_
  · exact Keeps.refl _
  · split
    · rename_i hq4
      refine Keeps.comp (Keeps.of (Dev.setSchan_touches ..) (by decide)) ?_
      refine Keeps.comp (Dev.count_keeps ..) ?_
      split
      · refine Keeps.ite ?_ ?_
        · refine Keeps.comp (recordPoison_keeps ..) ?_
          refine Keeps.comp (peekAddr_keeps hq4) ?_
          exact Keeps.refl _
        · refine Keeps.comp (peekAddr_keeps hq4) ?_
          exact Keeps.refl _
      · refine Keeps.comp (peekAddr_keeps hq4) ?_
        exact Keeps.refl _

theorem sourceReturn_keeps (F) (d0) (c) (v) : Keeps d0 (sourceReturn F d0 c v) := by
  unfold sourceReturn
  conv => zeta
  refine Keeps.ite ?_ ?_
  · exact Keeps.refl _
  · split
    · refine Keeps.ite ?_ ?_
      · refine Keeps.comp (Keeps.of (Dev.pump_touches ..) (by decide)) ?_
        refine Keeps.comp (verifyNext_keeps ..) ?_
        refine Keeps.comp (Keeps.of (Dev.setSchan_touches ..) (by decide)) ?_
        refine Keeps.comp (Keeps.of (Dev.pump_touches ..) (by decide)) ?_
        exact Keeps.refl _
      · exact Keeps.refl _
    · refine Keeps.comp (installNext_keeps ..) ?_
      refine Keeps.comp (Keeps.of (Dev.setSchan_touches ..) (by decide)) ?_
      refine Keeps.comp (Keeps.of (Dev.pump_touches ..) (by decide)) ?_
      exact Keeps.refl _
    · refine Keeps.comp (Keeps.of (Dev.pump_touches ..) (by decide)) ?_
      refine Keeps.comp (sourceNext_keeps ..) ?_
      refine Keeps.comp (Keeps.of (Dev.setSchan_touches ..) (by decide)) ?_
      refine Keeps.comp (Keeps.of (Dev.pump_touches ..) (by decide)) ?_
      exact Keeps.refl _

theorem twinDone_keeps (F) (d) (n) : Keeps d (twinDone F d n) := by
  unfold twinDone
  conv => zeta
  refine Keeps.ite ?_ ?_
  · exact Keeps.refl _
  · refine Keeps.ite ?_ ?_
    · refine Keeps.comp (sendBack_keeps ..) ?_
      exact Keeps.refl _
    · refine Keeps.ite ?_ ?_
      · exact Keeps.refl _
      · refine Keeps.comp (Dev.setRbit_keeps ..) ?_
        refine Keeps.comp (Keeps.of (Dev.ctrWindow_touches ..) (by decide)) ?_
        exact Keeps.refl _

end Sys2Proof.Machine
end

