-- ==== Sys2Proof/Laws/KeepCommand.lean ====
section
/-!
SUPPORT. The shared operations keep soundness: the commands of the queues, the core pairs and the Keel store.
-/
namespace Sys2Proof.Machine

theorem keelScan_keeps (F) (d) : Keeps d (keelScan F d) := by
  unfold keelScan
  extract_lets f pages first live next list words rings k k1 held locks
  have hb : k1.bytes = d.keel.bytes := rfl
  clear_value k1 locks
  refine Keeps.put_keel_log_lci (fun h => ?_) (fun h => ?_) (fun h => scanLog_bound F d h.keelByte)
  · rw [hb]; exact h.keel
  · rw [hb]; exact h.keelByte

theorem Dev.invDone_keeps (d) (r) : Keeps d (Dev.invDone d r) := by
  unfold Dev.invDone
  conv => zeta
  refine Keeps.ite ?_ ?_
  · exact Keeps.refl _
  · split
    · split
      · refine Keeps.comp (Dev.invClose_keeps ..) ?_
        exact Keeps.refl _
      · refine Keeps.ite ?_ ?_
        · refine Keeps.comp (Dev.finish_keeps ..) ?_
          refine Keeps.comp (Dev.invClose_keeps ..) ?_
          exact Keeps.refl _
        · refine Keeps.comp (Dev.finish_keeps ..) ?_
          refine Keeps.comp (Dev.invClose_keeps ..) ?_
          exact Keeps.refl _
    · refine Keeps.comp (Dev.invClose_keeps ..) ?_
      exact Keeps.refl _

theorem Dev.invalidateCmd_keeps (d) (h) (lo) (hi) : Keeps d (Dev.invalidateCmd d h lo hi) := by
  unfold Dev.invalidateCmd
  refine Keeps.comp (Dev.setCache_keeps ?_) ?_
  · exact fun h => h.scratch
  refine Keeps.comp (Dev.invalidate_keeps ..) ?_
  exact Keeps.refl _

theorem armSlot_keeps (F) (d) (n) (act) (arg) (c) : Keeps d (armSlot F d n act arg c) := by
  unfold armSlot
  refine Keeps.comp (slotArm_keeps ..) ?_
  refine Keeps.comp (Dev.setReg_keeps ..) ?_
  refine Keeps.comp (Dev.setReg64_keeps ..) ?_
  exact Keeps.refl _

theorem armSnap_keeps (F) (d) (c) (k) : Keeps d (armSnap F d c k) := by
  unfold armSnap
  refine Keeps.comp (armSlot_keeps ..) ?_
  refine Keeps.comp (Keeps.of (Dev.mapCmd_touches ..) (by decide)) ?_
  refine Keeps.comp (Keeps.of (Touches.put_str ..) (by decide)) ?_
  exact Keeps.refl _

theorem armStream_keeps (F) (d) (c) (n) (k) : Keeps d (armStream F d c n k) := by
  unfold armStream
  refine Keeps.comp (armSlot_keeps ..) ?_
  refine Keeps.comp (Keeps.of (Dev.mapCmd_touches ..) (by decide)) ?_
  refine Keeps.comp (Keeps.of (Dev.setSchan_touches ..) (by decide)) ?_
  exact Keeps.refl _

theorem startStop_keeps (d) (c) : Keeps d (startStop d c) := by
  unfold startStop
  conv => zeta
  split
  · refine Keeps.comp (Dev.finish_keeps ..) ?_
    exact Keeps.refl _
  · refine Keeps.ite ?_ ?_
    · refine Keeps.comp (Keeps.of (Dev.mapCmd_touches ..) (by decide)) ?_
      exact Keeps.refl _
    · refine Keeps.ite ?_ ?_
      · refine Keeps.comp (Dev.finish_keeps ..) ?_
        exact Keeps.refl _
      · split
        · refine Keeps.comp (Dev.stopCmd_keeps ..) ?_
          refine Keeps.comp (Keeps.of (Dev.mapCmd_touches ..) (by decide)) ?_
          exact Keeps.refl _
        · exact Keeps.refl _

theorem startDict_keeps (F) (d) (c) : Keeps d (startDict F d c) := by
  unfold startDict
  conv => zeta
  refine Keeps.ite ?_ ?_
  · refine Keeps.comp (Dev.finish_keeps ..) ?_
    exact Keeps.refl _
  · refine Keeps.ite ?_ ?_
    · refine Keeps.comp (Dev.finish_keeps ..) ?_
      refine Keeps.comp (Keeps.of (dictStore_touches ..) (by decide)) ?_
      exact Keeps.refl _
    · refine Keeps.ite ?_ ?_
      · split
        · refine Keeps.comp (Dev.finish_keeps ..) ?_
          refine Keeps.comp (Keeps.of (dictStore_touches ..) (by decide)) ?_
          exact Keeps.refl _
        · refine Keeps.comp (Dev.finish_keeps ..) ?_
          exact Keeps.refl _
      · refine Keeps.comp (Keeps.of (Dev.readPiece_touches ..) (by decide)) ?_
        exact Keeps.refl _

theorem startDrop_keeps (d) (c) : Keeps d (startDrop d c) := by
  unfold startDrop
  conv => zeta
  refine Keeps.ite ?_ ?_
  · refine Keeps.comp (Dev.finish_keeps ..) ?_
    exact Keeps.refl _
  · refine Keeps.comp (Dev.invalidateCmd_keeps ..) ?_
    exact Keeps.refl _

theorem Dev.discardGondola_keeps (F) (d) (lo) (hi) : Keeps d (Dev.discardGondola F d lo hi) := by
  unfold Dev.discardGondola
  refine Keeps.comp (ackAll_keeps ..) ?_
  refine Keeps.comp (Keeps.of (Touches.put_gon ..) (by decide)) ?_
  exact Keeps.refl _

theorem discardLines_keeps (F) (d) (lo) (hi) : Keeps d (discardLines F d lo hi) := by
  unfold discardLines
  refine Keeps.foldl (fun _ _ => ?_) ?_
  · refine Keeps.comp (Dev.narrowSettle_keeps ..) ?_
    exact Keeps.refl _
  · refine Keeps.comp (Dev.reencSettle_keeps ..) ?_
    refine Keeps.foldl (fun _ _ => Keeps.of (Dev.discardTract_touches ..) (by decide)) ?_
    refine Keeps.comp (Keeps.of (Touches.put_drift_sec ..) (by decide)) ?_
    refine Keeps.comp (Dev.discardGondola_keeps ..) ?_
    exact Keeps.refl _

theorem startDiscard_keeps (F) (d) (c) : Keeps d (startDiscard F d c) := by
  unfold startDiscard
  refine Keeps.comp (Dev.invalidateCmd_keeps ..) ?_
  refine Keeps.comp (discardLines_keeps ..) ?_
  exact Keeps.refl _

theorem Dev.eraseRecord_keeps (d) (n) (owner) : Keeps d (Dev.eraseRecord d n owner) := by
  unfold Dev.eraseRecord
  conv => zeta
  split
  · rename_i hq2
    split
    · rename_i hq4
      refine Keeps.comp (Dev.ringPut_keeps ..) ?_
      refine Keeps.comp (Keeps.put_keel ?_ ?_) ?_
      · exact fun h => h.keel
      · exact fun h => h.keelByte
      refine Keeps.comp (Dev.keelPut_keeps ..) ?_
      refine Keeps.comp (Dev.keelPut_keeps ..) ?_
      refine Keeps.comp (Keeps.of (Dev.rand_touches hq4) (by decide)) ?_
      refine Keeps.comp (Keeps.of (Dev.rand_touches hq2) (by decide)) ?_
      exact Keeps.refl _

theorem sanAdvance_keeps (x0) (x1) (x2) (x3) :
    Keeps x2 (sanAdvance x0 x1 x2 x3) := by
  induction x3 generalizing x2 with
  | zero => exact Keeps.refl _
  | succ fuel ih =>
    unfold sanAdvance
    split
    · exact Keeps.refl _
    · extract_lets e ks lo n at_ names open_ dA dB dC
      have ha : ∀ p (d : Dev), Keeps d (at_ p d) :=
        fun p d => Keeps.comp (ih _) ((Keeps.of (Dev.mapCmd_touches ..) (by decide)))
      split
      · refine Keeps.ite ?_ (Keeps.ite (Keeps.refl _) (ha _ _))
        exact Keeps.foldl (fun _ _ => (twinOff_keeps ..)) (Keeps.refl _)
      · have h1 : Keeps x2 (ks.foldl (fun d k => d.clearSlot k) x2) :=
          Keeps.foldl (fun _ _ => (Keeps.of (Dev.clearSlot_touches ..) (by decide))) (Keeps.refl _)
        exact Keeps.ite (Keeps.comp (ha _ _) h1) h1
      · exact Keeps.ite (ha _ _) (Keeps.ite (Keeps.refl _) ((Dev.eraseRecord_keeps ..)))
      · refine Keeps.ite ((Dev.finish_keeps ..)) (Keeps.ite (Keeps.refl _) ?_)
        have hC : Keeps x2 dC := Keeps.comp (Dev.invalidate_keeps ..) (discardLines_keeps ..)
        clear_value dC
        refine Keeps.comp (Dev.setCache_keeps ?_) hC
        exact fun h => h.scratch
      · exact Keeps.refl _

theorem startEvict_keeps (d) (c) : Keeps d (startEvict d c) := by
  unfold startEvict
  conv => zeta
  refine Keeps.ite ?_ ?_
  · refine Keeps.comp (Keeps.of (Touches.put_sec ..) (by decide)) ?_
    exact Keeps.refl _
  · refine Keeps.ite ?_ ?_
    · refine Keeps.comp (Dev.finish_keeps ..) ?_
      exact Keeps.refl _
    · refine Keeps.ite ?_ ?_
      · refine Keeps.comp (Dev.finish_keeps ..) ?_
        refine Keeps.comp (Keeps.of (Dev.clearSlot_touches ..) (by decide)) ?_
        exact Keeps.refl _
      · refine Keeps.comp (Keeps.of (Touches.put_sec ..) (by decide)) ?_
        refine Keeps.comp (Keeps.of (Dev.clearSlot_touches ..) (by decide)) ?_
        exact Keeps.refl _

theorem startGenerate_keeps (F) (d) (c) : Keeps d (startGenerate F d c) := by
  unfold startGenerate
  conv => zeta
  split
  · refine Keeps.comp (Dev.finish_keeps ..) ?_
    exact Keeps.refl _
  · split
    · rename_i hq4
      refine Keeps.comp (Keeps.of (Dev.emit_touches ..) (by decide)) ?_
      refine Keeps.comp (Keeps.of (Dev.writeOut_touches ..) (by decide)) ?_
      refine Keeps.comp (Keeps.of (Dev.mapCmd_touches ..) (by decide)) ?_
      refine Keeps.comp (Dev.ringPut_keeps ..) ?_
      refine Keeps.comp (Keeps.of (Dev.setSlot_touches ..) (by decide)) ?_
      refine Keeps.comp (Keeps.put_keel ?_ ?_) ?_
      · exact fun h => h.keel
      · exact fun h => h.keelByte
      refine Keeps.comp (Keeps.of (Dev.rand_touches hq4) (by decide)) ?_
      exact Keeps.refl _

theorem startEpoch_keeps (d) (c) : Keeps d (startEpoch d c) := by
  unfold startEpoch
  refine Keeps.comp (Dev.statePut_keeps ..) ?_
  refine Keeps.comp (Keeps.put_keel ?_ ?_) ?_
  · exact fun h => h.keel
  · exact fun h => h.keelByte
  refine Keeps.comp (Keeps.of (Dev.mapCmd_touches ..) (by decide)) ?_
  exact Keeps.refl _

theorem startRekey_keeps (d) (c) : Keeps d (startRekey d c) := by
  unfold startRekey
  refine Keeps.comp (Dev.rekeyPump_keeps ..) ?_
  refine Keeps.comp (Keeps.of (Touches.put_sec ..) (by decide)) ?_
  exact Keeps.refl _

theorem startAcquire_keeps (d) (c) : Keeps d (startAcquire d c) := by
  unfold startAcquire
  conv => zeta
  split
  · refine Keeps.comp (Dev.finish_keeps ..) ?_
    refine Keeps.comp (Keeps.of (Touches.put_lci ..) (by decide)) ?_
    exact Keeps.refl _
  · refine Keeps.ite ?_ ?_
    · refine Keeps.comp (Dev.finish_keeps ..) ?_
      exact Keeps.refl _
    · refine Keeps.comp (Keeps.of (Touches.put_lci ..) (by decide)) ?_
      exact Keeps.refl _

theorem startRelease_keeps (d) (c) : Keeps d (startRelease d c) := by
  unfold startRelease
  conv => zeta
  refine Keeps.ite ?_ ?_
  · refine Keeps.comp (Dev.finish_keeps ..) ?_
    refine Keeps.comp (Dev.grantNext_keeps ..) ?_
    refine Keeps.comp (Keeps.of (Touches.put_lci ..) (by decide)) ?_
    exact Keeps.refl _
  · refine Keeps.comp (Dev.finish_keeps ..) ?_
    exact Keeps.refl _

theorem startQuery_keeps (d) (c) : Keeps d (startQuery d c) := by
  unfold startQuery
  split
  · refine Keeps.comp (Dev.finish_keeps ..) ?_
    exact Keeps.refl _
  · refine Keeps.comp (Dev.finish_keeps ..) ?_
    exact Keeps.refl _

theorem startTest_keeps (F) (d) (c) : Keeps d (startTest F d c) := by
  unfold startTest
  refine Keeps.comp (Keeps.of (Dev.mapCmd_touches ..) (by decide)) ?_
  refine Keeps.comp (Keeps.of (Touches.put_bst ..) (by decide)) ?_
  refine Keeps.comp (Dev.thaw_keeps ..) ?_
  exact Keeps.refl _

theorem startFreeze_keeps (F) (d) (c) : Keeps d (startFreeze F d c) := by
  unfold startFreeze
  refine Keeps.ite ?_ ?_
  · refine Keeps.comp (Dev.finish_keeps ..) ?_
    refine Keeps.comp (Dev.thaw_keeps ..) ?_
    exact Keeps.refl _
  · refine Keeps.ite ?_ ?_
    · refine Keeps.comp (Dev.finish_keeps ..) ?_
      refine Keeps.comp (Dev.freeze_keeps ..) ?_
      exact Keeps.refl _
    · refine Keeps.comp (Dev.finish_keeps ..) ?_
      exact Keeps.refl _

theorem runLogRead_keeps (F) (d) (c) (st) : Keeps d (runLogRead F d c st) := by
  unfold runLogRead
  conv => zeta
  refine Keeps.ite ?_ ?_
  · refine Keeps.comp (Dev.finish_keeps ..) ?_
    refine Keeps.comp (Keeps.of (Dev.copyOutward_touches ..) (by decide)) ?_
    exact Keeps.refl _
  · refine Keeps.comp (Dev.finish_keeps ..) ?_
    refine Keeps.comp (Keeps.of (Dev.emit_touches ..) (by decide)) ?_
    refine Keeps.comp (Keeps.of (Dev.copyOutward_touches ..) (by decide)) ?_
    exact Keeps.refl _

theorem runUnfinished_keeps (d) (c) (st) : Keeps d (runUnfinished d c st) := by
  unfold runUnfinished
  conv => zeta
  refine Keeps.ite ?_ ?_
  · refine Keeps.comp (Dev.finish_keeps ..) ?_
    refine Keeps.comp (Keeps.of (Dev.emit_touches ..) (by decide)) ?_
    refine Keeps.comp (Keeps.of (Dev.copyOutward_touches ..) (by decide)) ?_
    exact Keeps.refl _
  · refine Keeps.ite ?_ ?_
    · refine Keeps.comp (Dev.uwlClear_keeps ..) ?_
      refine Keeps.comp (Keeps.of (Dev.mapCmd_touches ..) (by decide)) ?_
      refine Keeps.comp (Keeps.of (Dev.copyOutward_touches ..) (by decide)) ?_
      exact Keeps.refl _
    · refine Keeps.comp (Dev.finish_keeps ..) ?_
      refine Keeps.comp (Keeps.of (Dev.copyOutward_touches ..) (by decide)) ?_
      exact Keeps.refl _

theorem beginCmd_keeps (F) (d0) (c) (st) : Keeps d0 (beginCmd F d0 c st) := by
  unfold beginCmd
  conv => zeta
  split
  · refine Keeps.comp (startStop_keeps ..) ?_
    refine Keeps.comp (Keeps.of (Dev.mapCmd_touches ..) (by decide)) ?_
    exact Keeps.refl _
  · refine Keeps.comp (startDict_keeps ..) ?_
    refine Keeps.comp (Keeps.of (Dev.mapCmd_touches ..) (by decide)) ?_
    exact Keeps.refl _
  · refine Keeps.comp (startDrop_keeps ..) ?_
    refine Keeps.comp (Keeps.of (Dev.mapCmd_touches ..) (by decide)) ?_
    exact Keeps.refl _
  · refine Keeps.comp (startDiscard_keeps ..) ?_
    refine Keeps.comp (Keeps.of (Dev.mapCmd_touches ..) (by decide)) ?_
    exact Keeps.refl _
  · refine Keeps.comp (sanAdvance_keeps ..) ?_
    refine Keeps.comp (Keeps.of (Dev.mapCmd_touches ..) (by decide)) ?_
    exact Keeps.refl _
  · refine Keeps.comp (Keeps.of (Dev.readPiece_touches ..) (by decide)) ?_
    refine Keeps.comp (Keeps.of (Dev.mapCmd_touches ..) (by decide)) ?_
    exact Keeps.refl _
  · refine Keeps.comp (startEvict_keeps ..) ?_
    refine Keeps.comp (Keeps.of (Dev.mapCmd_touches ..) (by decide)) ?_
    exact Keeps.refl _
  · refine Keeps.comp (startGenerate_keeps ..) ?_
    refine Keeps.comp (Keeps.of (Dev.mapCmd_touches ..) (by decide)) ?_
    exact Keeps.refl _
  · refine Keeps.comp (startEpoch_keeps ..) ?_
    refine Keeps.comp (Keeps.of (Dev.mapCmd_touches ..) (by decide)) ?_
    exact Keeps.refl _
  · refine Keeps.comp (startRekey_keeps ..) ?_
    refine Keeps.comp (Keeps.of (Dev.mapCmd_touches ..) (by decide)) ?_
    exact Keeps.refl _
  · refine Keeps.comp (startAcquire_keeps ..) ?_
    refine Keeps.comp (Keeps.of (Dev.mapCmd_touches ..) (by decide)) ?_
    exact Keeps.refl _
  · refine Keeps.comp (startRelease_keeps ..) ?_
    refine Keeps.comp (Keeps.of (Dev.mapCmd_touches ..) (by decide)) ?_
    exact Keeps.refl _
  · refine Keeps.comp (Dev.finish_keeps ..) ?_
    refine Keeps.comp (Keeps.of (Dev.mapCmd_touches ..) (by decide)) ?_
    exact Keeps.refl _
  · refine Keeps.comp (startQuery_keeps ..) ?_
    refine Keeps.comp (Keeps.of (Dev.mapCmd_touches ..) (by decide)) ?_
    exact Keeps.refl _
  · refine Keeps.comp (startTest_keeps ..) ?_
    refine Keeps.comp (Keeps.of (Dev.mapCmd_touches ..) (by decide)) ?_
    exact Keeps.refl _
  · refine Keeps.comp (startFreeze_keeps ..) ?_
    refine Keeps.comp (Keeps.of (Dev.mapCmd_touches ..) (by decide)) ?_
    exact Keeps.refl _
  · refine Keeps.comp (runLogRead_keeps ..) ?_
    refine Keeps.comp (Keeps.of (Dev.mapCmd_touches ..) (by decide)) ?_
    exact Keeps.refl _
  · refine Keeps.comp (runUnfinished_keeps ..) ?_
    refine Keeps.comp (Keeps.of (Dev.mapCmd_touches ..) (by decide)) ?_
    exact Keeps.refl _
  · refine Keeps.comp (Keeps.of (Dev.mapCmd_touches ..) (by decide)) ?_
    exact Keeps.refl _

theorem keyLoad_keeps (F) (d) (c) (blob) : Keeps d (keyLoad F d c blob) := by
  unfold keyLoad
  conv => zeta
  refine Keeps.ite ?_ ?_
  · refine Keeps.comp (Dev.finish_keeps ..) ?_
    exact Keeps.refl _
  · split
    · refine Keeps.comp (Dev.finish_keeps ..) ?_
      exact Keeps.refl _
    · refine Keeps.ite ?_ ?_
      · refine Keeps.comp (Dev.finish_keeps ..) ?_
        exact Keeps.refl _
      · refine Keeps.comp (Dev.finish_keeps ..) ?_
        refine Keeps.comp (Dev.rekeyResume_keeps ..) ?_
        refine Keeps.comp (Keeps.of (Dev.setSlot_touches ..) (by decide)) ?_
        exact Keeps.refl _

theorem cmdData_keeps (F) (d) (h) (data) (st) : Keeps d (cmdData F d h data st) := by
  unfold cmdData
  conv => zeta
  split
  · exact Keeps.refl _
  · refine Keeps.ite ?_ ?_
    · refine Keeps.ite ?_ ?_
      · refine Keeps.comp (Dev.finish_keeps ..) ?_
        exact Keeps.refl _
      · refine Keeps.comp (Dev.finish_keeps ..) ?_
        refine Keeps.comp (Keeps.of (Dev.clearSlot_touches ..) (by decide)) ?_
        refine Keeps.comp (Keeps.of (Dev.emit_touches ..) (by decide)) ?_
        exact Keeps.refl _
    · refine Keeps.ite ?_ ?_
      · refine Keeps.comp (Dev.finish_keeps ..) ?_
        refine Keeps.comp (Keeps.of (Dev.emit_touches ..) (by decide)) ?_
        exact Keeps.refl _
      · refine Keeps.ite ?_ ?_
        · exact Keeps.refl _
        · refine Keeps.ite ?_ ?_
          · refine Keeps.comp (Keeps.of (Dev.readPiece_touches ..) (by decide)) ?_
            refine Keeps.comp (Keeps.of (Dev.mapCmd_touches ..) (by decide)) ?_
            exact Keeps.refl _
          · refine Keeps.ite ?_ ?_
            · refine Keeps.ite ?_ ?_
              · refine Keeps.comp (Dev.finish_keeps ..) ?_
                refine Keeps.comp (Keeps.of (Dev.mapCmd_touches ..) (by decide)) ?_
                exact Keeps.refl _
              · refine Keeps.comp (Dev.finish_keeps ..) ?_
                refine Keeps.comp (Keeps.of (dictStore_touches ..) (by decide)) ?_
                refine Keeps.comp (Keeps.of (Dev.mapCmd_touches ..) (by decide)) ?_
                exact Keeps.refl _
            · refine Keeps.comp (keyLoad_keeps ..) ?_
              refine Keeps.comp (Keeps.of (Dev.mapCmd_touches ..) (by decide)) ?_
              exact Keeps.refl _

theorem tryStart_keeps (F) (d) (c) (st) : Keeps d (tryStart F d c st) := by
  unfold tryStart
  conv => zeta
  refine Keeps.ite ?_ ?_
  · exact Keeps.refl _
  · refine Keeps.ite ?_ ?_
    · refine Keeps.comp (Dev.finish_keeps ..) ?_
      exact Keeps.refl _
    · refine Keeps.ite ?_ ?_
      · split
        · refine Keeps.ite ?_ ?_
          · refine Keeps.comp (armStream_keeps ..) ?_
            exact Keeps.refl _
          · refine Keeps.comp (Keeps.of (startList_touches ..) (by decide)) ?_
            refine Keeps.comp (Keeps.of (Dev.mapCmd_touches ..) (by decide)) ?_
            exact Keeps.refl _
        · refine Keeps.ite ?_ ?_
          · exact Keeps.refl _
          · refine Keeps.comp (Keeps.of (startList_touches ..) (by decide)) ?_
            refine Keeps.comp (Keeps.of (Dev.mapCmd_touches ..) (by decide)) ?_
            exact Keeps.refl _
        · exact Keeps.refl _
      · refine Keeps.ite ?_ ?_
        · split
          · refine Keeps.comp (armSnap_keeps ..) ?_
            exact Keeps.refl _
          · exact Keeps.refl _
        · refine Keeps.ite ?_ ?_
          · exact Keeps.refl _
          · refine Keeps.comp (beginCmd_keeps ..) ?_
            exact Keeps.refl _

theorem heldStart_keeps (F) (d) (h) : Keeps d (heldStart F d h) := by
  unfold heldStart
  split
  · exact Keeps.refl _
  · refine Keeps.ite ?_ ?_
    · exact Keeps.refl _
    · refine Keeps.ite ?_ ?_
      · refine Keeps.comp (tryStart_keeps ..) ?_
        exact Keeps.refl _
      · refine Keeps.ite ?_ ?_
        · refine Keeps.comp (sanAdvance_keeps ..) ?_
          exact Keeps.refl _
        · exact Keeps.refl _

theorem lciTake_keeps (F) (d) (h) (op) (st) : Keeps d (lciTake F d h op st) := by
  unfold lciTake
  conv => zeta
  split
  · exact Keeps.refl _
  · refine Keeps.ite ?_ ?_
    · exact Keeps.refl _
    · refine Keeps.ite ?_ ?_
      · refine Keeps.comp (Dev.finish_keeps ..) ?_
        exact Keeps.refl _
      · refine Keeps.comp (tryStart_keeps ..) ?_
        refine Keeps.comp (Keeps.of (Dev.mapCmd_touches ..) (by decide)) ?_
        exact Keeps.refl _

theorem readDone_keeps (F) (d) (h) (tag) (data) (st) : Keeps d (readDone F d h tag data st) := by
  unfold readDone
  refine Keeps.ite ?_ ?_
  · exact Keeps.refl _
  · refine Keeps.ite ?_ ?_
    · refine Keeps.ite ?_ ?_
      · refine Keeps.comp (installData_keeps ..) ?_
        exact Keeps.refl _
      · exact Keeps.refl _
    · split
      · refine Keeps.comp (cmdData_keeps ..) ?_
        exact Keeps.refl _
      · exact Keeps.refl _

theorem sanPump_keeps (F) (d) : Keeps d (sanPump F d) := by
  unfold sanPump
  refine Keeps.foldl (fun _ _ => ?_) ?_
  · refine Keeps.comp (sanAdvance_keeps ..) ?_
    exact Keeps.refl _
  · exact Keeps.refl _

theorem Dev.keelWritten_keeps (d) (w) : Keeps d (Dev.keelWritten d w) := by
  unfold Dev.keelWritten
  refine Keeps.put_keel (fun s => ?_) (fun s => ?_)
  · exact keelPoke_wf _ _ _ _ s.keel
  · exact keelPoke_byte _ _ _ _ s.keelByte

theorem Dev.keelDrain_keeps (d) : Keeps d (Dev.keelDrain d) := by
  unfold Dev.keelDrain
  refine Keeps.foldl (fun _ _ => ?_) ?_
  · refine Keeps.comp (Dev.keelWritten_keeps ..) ?_
    exact Keeps.refl _
  · refine Keeps.comp (Keeps.put_keel ?_ ?_) ?_
    · exact fun h => h.keel
    · exact fun h => h.keelByte
    exact Keeps.refl _

theorem Dev.srcWrite_keeps (d) (n) (v) : Keeps d (Dev.srcWrite d n v) := by
  unfold Dev.srcWrite
  conv => zeta
  refine Keeps.ite ?_ ?_
  · refine Keeps.ite ?_ ?_
    · refine Keeps.comp (Dev.setRbit_keeps ..) ?_
      refine Keeps.comp (Dev.setRbit_keeps ..) ?_
      exact Keeps.refl _
    · refine Keeps.comp (Dev.setRbit_keeps ..) ?_
      exact Keeps.refl _
  · refine Keeps.ite ?_ ?_
    · refine Keeps.comp (Dev.setRbit_keeps ..) ?_
      refine Keeps.ite ?_ ?_
      · refine Keeps.comp (Dev.setRbit_keeps ..) ?_
        refine Keeps.comp (Dev.setRbit_keeps ..) ?_
        exact Keeps.refl _
      · refine Keeps.comp (Dev.setRbit_keeps ..) ?_
        exact Keeps.refl _
    · refine Keeps.comp (Dev.setFld_keeps ..) ?_
      refine Keeps.comp (Dev.setRbit_keeps ..) ?_
      refine Keeps.ite ?_ ?_
      · refine Keeps.comp (Dev.setRbit_keeps ..) ?_
        refine Keeps.comp (Dev.setRbit_keeps ..) ?_
        exact Keeps.refl _
      · refine Keeps.comp (Dev.setRbit_keeps ..) ?_
        exact Keeps.refl _

theorem Dev.semRelease_keeps (d) (n) (who) : Keeps d (Dev.semRelease d n who) := by
  unfold Dev.semRelease
  conv => zeta
  refine Keeps.ite ?_ ?_
  · refine Keeps.comp (Keeps.of (Touches.put_sems ..) (by decide)) ?_
    exact Keeps.refl _
  · refine Keeps.comp (Dev.setRbit_keeps ..) ?_
    exact Keeps.refl _

theorem eoi_keeps (F) (d) (p) (src) : Keeps d (eoi F d p src) := by
  unfold eoi
  conv => zeta
  split
  · refine Keeps.ite ?_ ?_
    · refine Keeps.comp (Keeps.of (Dev.setPair_touches ..) (by decide)) ?_
      exact Keeps.refl _
    · refine Keeps.comp (Dev.event_keeps ..) ?_
      refine Keeps.comp (Dev.setRbit_keeps ..) ?_
      exact Keeps.refl _
  · refine Keeps.comp (Dev.event_keeps ..) ?_
    refine Keeps.comp (Dev.setRbit_keeps ..) ?_
    exact Keeps.refl _

theorem Dev.gctlWrite_keeps (d) (v) : Keeps d (Dev.gctlWrite d v) := by
  unfold Dev.gctlWrite
  conv => zeta
  refine Keeps.ite ?_ ?_
  · refine Keeps.comp (Dev.setRbit_keeps ..) ?_
    refine Keeps.comp (Dev.setFld_keeps ..) ?_
    exact Keeps.refl _
  · refine Keeps.comp (Dev.setFld_keeps ..) ?_
    exact Keeps.refl _

theorem Dev.swiWrite_keeps (d) (v) : Keeps d (Dev.swiWrite d v) := by
  unfold Dev.swiWrite
  refine Keeps.foldl (fun _ _ => ?_) ?_
  · refine Keeps.comp (Dev.icu_keeps ..) ?_
    exact Keeps.refl _
  · exact Keeps.refl _

theorem Dev.checkpoint_keeps (d) : Keeps d (Dev.checkpoint d) := by
  unfold Dev.checkpoint
  conv => zeta
  refine Keeps.ite ?_ ?_
  · exact Keeps.refl _
  · refine Keeps.comp (Keeps.of (Touches.put_cores ..) (by decide)) ?_
    refine Keeps.ite ?_ ?_
    · refine Keeps.comp (Dev.icu_keeps ..) ?_
      exact Keeps.refl _
    · exact Keeps.refl _

theorem Dev.commit_keeps (d) (p) : Keeps d (Dev.commit d p) := by
  unfold Dev.commit
  conv => zeta
  refine Keeps.ite ?_ ?_
  · exact Keeps.refl _
  · split
    · refine Keeps.ite ?_ ?_
      · refine Keeps.comp (Dev.count_keeps ..) ?_
        refine Keeps.comp (Keeps.of (Dev.setPair_touches ..) (by decide)) ?_
        exact Keeps.refl _
      · refine Keeps.comp (Keeps.of (Dev.setPair_touches ..) (by decide)) ?_
        exact Keeps.refl _
    · exact Keeps.refl _

theorem Dev.fence_keeps (d) (p) : Keeps d (Dev.fence d p) := by
  unfold Dev.fence
  refine Keeps.foldl (fun _ _ => ?_) ?_
  · refine Keeps.comp (Dev.setRbit_keeps ..) ?_
    exact Keeps.refl _
  · refine Keeps.comp (Keeps.of (Dev.semsAbandon_touches ..) (by decide)) ?_
    refine Keeps.comp (Keeps.of (Dev.setPair_touches ..) (by decide)) ?_
    exact Keeps.refl _

theorem Dev.standbyFail_keeps (d) : Keeps d (Dev.standbyFail d) := by
  unfold Dev.standbyFail
  refine Keeps.ite ?_ ?_
  · refine Keeps.comp (Dev.icu_keeps ..) ?_
    refine Keeps.comp (Keeps.of (Touches.put_cores ..) (by decide)) ?_
    exact Keeps.refl _
  · exact Keeps.refl _

theorem pairFail_keeps (F) (d) (p) (cause) : Keeps d (pairFail F d p cause) := by
  unfold pairFail
  conv => zeta
  refine Keeps.ite ?_ ?_
  · exact Keeps.refl _
  · refine Keeps.ite ?_ ?_
    · refine Keeps.ite ?_ ?_
      · refine Keeps.comp (Keeps.of (Touches.put_cores ..) (by decide)) ?_
        refine Keeps.comp (Dev.event_keeps ..) ?_
        refine Keeps.comp (Dev.fence_keeps ..) ?_
        exact Keeps.refl _
      · refine Keeps.comp (Dev.faultLevel_keeps ..) ?_
        refine Keeps.comp (Keeps.of (Touches.put_cores ..) (by decide)) ?_
        refine Keeps.comp (Dev.event_keeps ..) ?_
        refine Keeps.comp (Dev.fence_keeps ..) ?_
        exact Keeps.refl _
    · refine Keeps.ite ?_ ?_
      · refine Keeps.comp (Dev.faultLevel_keeps ..) ?_
        refine Keeps.comp (Keeps.of (Touches.put_cores ..) (by decide)) ?_
        refine Keeps.comp (Dev.event_keeps ..) ?_
        refine Keeps.comp (Dev.fence_keeps ..) ?_
        exact Keeps.refl _
      · refine Keeps.comp (Keeps.of (Touches.put_cores ..) (by decide)) ?_
        refine Keeps.comp (Dev.event_keeps ..) ?_
        refine Keeps.comp (Dev.fence_keeps ..) ?_
        exact Keeps.refl _

theorem takeover_keeps (F) (d) : Keeps d (takeover F d) := by
  unfold takeover
  conv => zeta
  refine Keeps.ite ?_ ?_
  · refine Keeps.comp (Dev.postAll_keeps ..) ?_
    refine Keeps.comp (Keeps.of (Touches.put_cores ..) (by decide)) ?_
    exact Keeps.refl _
  · exact Keeps.refl _

theorem wdogExpire_keeps (F) (d) (p) : Keeps d (wdogExpire F d p) := by
  unfold wdogExpire
  conv => zeta
  refine Keeps.ite ?_ ?_
  · exact Keeps.refl _
  · refine Keeps.comp (pairFail_keeps ..) ?_
    refine Keeps.comp (Dev.advance_keeps ..) ?_
    exact Keeps.refl _

theorem Dev.opSecond_keeps (d) : Keeps d (Dev.opSecond d) := by
  unfold Dev.opSecond
  extract_lets d1 k k1
  have hk : k1.bytes = d1.keel.bytes := by simp only [k1]; split <;> rfl
  clear_value k1
  refine Keeps.ite (Keeps.refl _) (Keeps.comp (Keeps.put_keel (fun s => ?_) (fun s => ?_)) (Dev.tick_keeps ..))
  · show Tbl.wf 0 k1.bytes = true
    rw [hk]; exact s.keel
  · show ∀ c ∈ k1.bytes, c.2 < 256
    rw [hk]; exact s.keelByte

theorem Dev.ringMove_keeps (d) (r) (w) (seq) : Keeps d (Dev.ringMove d r w seq) := by
  unfold Dev.ringMove
  conv => zeta
  split
  · refine Keeps.comp (Dev.rootPut_keeps ..) ?_
    refine Keeps.comp (Keeps.put_keel ?_ ?_) ?_
    · exact fun h => h.keel
    · exact fun h => h.keelByte
    exact Keeps.refl _
  · refine Keeps.comp (Keeps.put_keel ?_ ?_) ?_
    · exact fun h => h.keel
    · exact fun h => h.keelByte
    exact Keeps.refl _

theorem acceptStart_keeps (F) (d) : Keeps d (acceptStart F d) := by
  unfold acceptStart
  extract_lets src d1 d2
  have h1 : Keeps d d1 := Keeps.put_log_aon (fun h => h.log) (fun _ => Nat.zero_le _)
  have h2 : Keeps d d2 := Keeps.foldl (fun _ _ => Dev.recordIn_keeps ..) h1
  exact Keeps.ite h2 (Keeps.comp (Dev.recordIn_keeps ..) h2)

theorem keelOwner_keeps (F) (d) (o) : Keeps d (keelOwner F d o) := by
  unfold keelOwner
  refine Keeps.ite ?_ ?_
  · exact Keeps.refl _
  · refine Keeps.ite ?_ ?_
    · refine Keeps.comp (Keeps.of (Touches.put_lci ..) (by decide)) ?_
      exact Keeps.refl _
    · refine Keeps.ite ?_ ?_
      · refine Keeps.comp (Keeps.of (Dev.emit_touches ..) (by decide)) ?_
        exact Keeps.refl _
      · refine Keeps.ite ?_ ?_
        · refine Keeps.comp (Keeps.of (Dev.emit_touches ..) (by decide)) ?_
          exact Keeps.refl _
        · split
          · exact Keeps.refl _
          · refine Keeps.comp (silentOut_keeps ..) ?_
            split
            · refine Keeps.ite ?_ ?_
              · refine Keeps.comp (sanPump_keeps ..) ?_
                refine Keeps.comp (Keeps.of (Dev.mapCmd_touches ..) (by decide)) ?_
                exact Keeps.refl _
              · exact Keeps.refl _
            · refine Keeps.comp (Dev.finish_keeps ..) ?_
              exact Keeps.refl _
            · refine Keeps.comp (Dev.finish_keeps ..) ?_
              exact Keeps.refl _

theorem keelDone_keeps (F) (d) (page) (ok) : Keeps d (keelDone F d page ok) := by
  unfold keelDone
  conv => zeta
  split
  · exact Keeps.refl _
  · refine Keeps.ite ?_ ?_
    · split
      · refine Keeps.comp (keelOwner_keeps ..) ?_
        split
        · refine Keeps.ite ?_ ?_
          · refine Keeps.comp (acceptStart_keeps ..) ?_
            refine Keeps.comp (Dev.icu_keeps ..) ?_
            refine Keeps.comp (Dev.keelWritten_keeps ..) ?_
            exact Keeps.refl _
          · refine Keeps.comp (Dev.icu_keeps ..) ?_
            refine Keeps.comp (Dev.keelWritten_keeps ..) ?_
            exact Keeps.refl _
        · refine Keeps.comp (Dev.icu_keeps ..) ?_
          refine Keeps.comp (Dev.keelWritten_keeps ..) ?_
          exact Keeps.refl _
      · split
        · refine Keeps.ite ?_ ?_
          · refine Keeps.comp (acceptStart_keeps ..) ?_
            refine Keeps.comp (Dev.icu_keeps ..) ?_
            refine Keeps.comp (Dev.keelWritten_keeps ..) ?_
            exact Keeps.refl _
          · refine Keeps.comp (Dev.icu_keeps ..) ?_
            refine Keeps.comp (Dev.keelWritten_keeps ..) ?_
            exact Keeps.refl _
        · refine Keeps.comp (Dev.icu_keeps ..) ?_
          refine Keeps.comp (Dev.keelWritten_keeps ..) ?_
          exact Keeps.refl _
    · refine Keeps.ite ?_ ?_
      · refine Keeps.comp (Keeps.put_keel ?_ ?_) ?_
        · exact fun h => h.keel
        · exact fun h => h.keelByte
        exact Keeps.refl _
      · split
        · refine Keeps.comp (Dev.ringMove_keeps ..) ?_
          refine Keeps.comp (Dev.icu_keeps ..) ?_
          refine Keeps.comp (Dev.event_keeps ..) ?_
          refine Keeps.comp (Keeps.put_keel ?_ ?_) ?_
          · exact fun h => h.keel
          · exact fun h => h.keelByte
          exact Keeps.refl _
        · refine Keeps.comp (Keeps.put_keel ?_ ?_) ?_
          · exact fun h => h.keel
          · exact fun h => h.keelByte
          refine Keeps.comp (Dev.icu_keeps ..) ?_
          refine Keeps.comp (Dev.event_keeps ..) ?_
          refine Keeps.comp (Keeps.put_keel ?_ ?_) ?_
          · exact fun h => h.keel
          · exact fun h => h.keelByte
          exact Keeps.refl _
        · refine Keeps.comp (Keeps.put_keel ?_ ?_) ?_
          · exact fun h => h.keel
          · exact fun h => h.keelByte
          refine Keeps.comp (Dev.icu_keeps ..) ?_
          refine Keeps.comp (Dev.event_keeps ..) ?_
          refine Keeps.comp (Keeps.put_keel ?_ ?_) ?_
          · exact fun h => h.keel
          · exact fun h => h.keelByte
          exact Keeps.refl _

theorem keelStart_keeps (F) (d) : Keeps d (keelStart F d) := by
  unfold keelStart
  conv => zeta
  split
  · exact Keeps.refl _
  · refine Keeps.ite ?_ ?_
    · refine Keeps.comp (Keeps.put_keel ?_ ?_) ?_
      · exact fun h => h.keel
      · exact fun h => h.keelByte
      exact Keeps.refl _
    · exact Keeps.refl _

end Sys2Proof.Machine
end

