-- ==== Sys2Proof/Laws/KeepPower.lean ====
section
/-!
SUPPORT. The shared operations keep soundness: power, bring-up, temperatures, self-test.
-/
namespace Sys2Proof.Machine

theorem Dev.groupsLoad_keeps (d) : Keeps d (Dev.groupsLoad d) := by
  unfold Dev.groupsLoad
  refine Keeps.foldl (fun _ _ => ?_) ?_
  · refine Keeps.ite ?_ ?_
    · split
      · refine Keeps.comp (Dev.setGrp_keeps ..) ?_
        exact Keeps.refl _
      · refine Keeps.comp (Dev.setGrp_keeps ..) ?_
        exact Keeps.refl _
    · exact Keeps.refl _
  · exact Keeps.refl _

theorem Dev.ledgerLoad_keeps (d) : Keeps d (Dev.ledgerLoad d) := by
  unfold Dev.ledgerLoad
  refine Keeps.comp (Keeps.of (Touches.put_drift ..) (by decide)) ?_
  refine Keeps.foldl (fun _ _ => ?_) ?_
  · refine Keeps.comp (Dev.setDie_keeps ?_) ?_
    · exact fun h => ⟨(h.dies _).pages, (h.dies _).slots⟩
    exact Keeps.refl _
  · refine Keeps.foldl (fun _ _ => ?_) ?_
    · refine Keeps.comp (Dev.setCtl_keeps ..) ?_
      exact Keeps.refl _
    · exact Keeps.refl _

theorem Dev.mediaLoad_keeps (d) : Keeps d (Dev.mediaLoad d) := by
  unfold Dev.mediaLoad
  conv => zeta
  refine Keeps.ite ?_ ?_
  · refine Keeps.comp (Dev.rootPut_keeps ..) ?_
    refine Keeps.comp (Keeps.of (Touches.put_tracts ..) (by decide)) ?_
    refine Keeps.comp (Dev.restoreCfg_keeps ..) ?_
    refine Keeps.comp (Dev.ledgerLoad_keeps ..) ?_
    exact Keeps.refl _
  · refine Keeps.comp (Dev.restoreCfg_keeps ..) ?_
    refine Keeps.comp (Dev.ledgerLoad_keeps ..) ?_
    exact Keeps.refl _

theorem Dev.restoreMail_keeps (d) : Keeps d (Dev.restoreMail d) := by
  unfold Dev.restoreMail
  refine Keeps.comp (Keeps.put_a_b ?_ ?_) ?_
  · exact fun h => ⟨h.headA.info, h.headA.warn, h.headA.fail, h.headA.fatal⟩
  · exact fun h => ⟨h.headB.info, h.headB.warn, h.headB.fail, h.headB.fatal⟩
  exact Keeps.refl _

theorem bcTake_keeps (F) (d) (b) : Keeps d (bcTake F d b) := by
  unfold bcTake
  conv => zeta
  refine Keeps.ite ?_ ?_
  · refine Keeps.comp (Dev.event_keeps ..) ?_
    refine Keeps.comp (Keeps.put_gpio_media_pwr ?_ ?_) ?_
    · exact fun h => h.table
    · exact fun h => h.dies
    exact Keeps.refl _
  · refine Keeps.comp (Keeps.put_gpio_media_pwr ?_ ?_) ?_
    · exact fun h => h.table
    · exact fun h => h.dies
    exact Keeps.refl _

theorem stallStep_keeps (F) (d) (cause) : Keeps d (stallStep F d cause) := by
  unfold stallStep
  refine Keeps.comp (Dev.faultLevel_keeps ..) ?_
  refine Keeps.comp (Keeps.of (Touches.put_pwr ..) (by decide)) ?_
  exact Keeps.refl _

theorem stepFuses_keeps (F) (d) (inp) : Keeps d (stepFuses F d inp) := by
  unfold stepFuses
  conv => zeta
  refine Keeps.ite ?_ ?_
  · refine Keeps.comp (Keeps.of (Touches.put_pwr ..) (by decide)) ?_
    refine Keeps.comp (Keeps.of (Dev.faultRelease_touches ..) (by decide)) ?_
    refine Keeps.ite ?_ ?_
    · refine Keeps.comp (Dev.lifePut_keeps ..) ?_
      refine Keeps.comp (Keeps.put_keel_cache_drift_sec ?_ ?_ ?_) ?_
      · exact fun h => h.keel
      · exact fun h => h.keelByte
      · exact fun h => h.scratch
      refine Keeps.ite ?_ ?_
      · refine Keeps.comp (Keeps.of (Dev.coldStart_touches ..) (by decide)) ?_
        refine Keeps.comp (Dev.restoreMail_keeps ..) ?_
        refine Keeps.comp (keelScan_keeps ..) ?_
        exact Keeps.refl _
      · refine Keeps.comp (Dev.restoreMail_keeps ..) ?_
        refine Keeps.comp (keelScan_keeps ..) ?_
        exact Keeps.refl _
    · refine Keeps.comp (Dev.ringPut_keeps ..) ?_
      refine Keeps.comp (Dev.lifePut_keeps ..) ?_
      refine Keeps.comp (Keeps.put_keel_cache_drift_sec ?_ ?_ ?_) ?_
      · exact fun h => h.keel
      · exact fun h => h.keelByte
      · exact fun h => h.scratch
      refine Keeps.ite ?_ ?_
      · refine Keeps.comp (Keeps.of (Dev.coldStart_touches ..) (by decide)) ?_
        refine Keeps.comp (Dev.restoreMail_keeps ..) ?_
        refine Keeps.comp (keelScan_keeps ..) ?_
        exact Keeps.refl _
      · refine Keeps.comp (Dev.restoreMail_keeps ..) ?_
        refine Keeps.comp (keelScan_keeps ..) ?_
        exact Keeps.refl _
  · refine Keeps.comp (stallStep_keeps ..) ?_
    refine Keeps.comp (Dev.event_keeps ..) ?_
    refine Keeps.comp (Keeps.of (Dev.faultRelease_touches ..) (by decide)) ?_
    refine Keeps.ite ?_ ?_
    · refine Keeps.comp (Dev.lifePut_keeps ..) ?_
      refine Keeps.comp (Keeps.put_keel_cache_drift_sec ?_ ?_ ?_) ?_
      · exact fun h => h.keel
      · exact fun h => h.keelByte
      · exact fun h => h.scratch
      refine Keeps.ite ?_ ?_
      · refine Keeps.comp (Keeps.of (Dev.coldStart_touches ..) (by decide)) ?_
        refine Keeps.comp (Dev.restoreMail_keeps ..) ?_
        refine Keeps.comp (keelScan_keeps ..) ?_
        exact Keeps.refl _
      · refine Keeps.comp (Dev.restoreMail_keeps ..) ?_
        refine Keeps.comp (keelScan_keeps ..) ?_
        exact Keeps.refl _
    · refine Keeps.comp (Dev.ringPut_keeps ..) ?_
      refine Keeps.comp (Dev.lifePut_keeps ..) ?_
      refine Keeps.comp (Keeps.put_keel_cache_drift_sec ?_ ?_ ?_) ?_
      · exact fun h => h.keel
      · exact fun h => h.keelByte
      · exact fun h => h.scratch
      refine Keeps.ite ?_ ?_
      · refine Keeps.comp (Keeps.of (Dev.coldStart_touches ..) (by decide)) ?_
        refine Keeps.comp (Dev.restoreMail_keeps ..) ?_
        refine Keeps.comp (keelScan_keeps ..) ?_
        exact Keeps.refl _
      · refine Keeps.comp (Dev.restoreMail_keeps ..) ?_
        refine Keeps.comp (keelScan_keeps ..) ?_
        exact Keeps.refl _

theorem stepCores_keeps (F) (d) (aOk) (bOk) : Keeps d (stepCores F d aOk bOk) := by
  unfold stepCores
  conv => zeta
  refine Keeps.ite ?_ ?_
  · refine Keeps.comp (Keeps.of (Touches.put_pwr ..) (by decide)) ?_
    refine Keeps.comp (Keeps.of (Touches.put_cores_lci ..) (by decide)) ?_
    exact Keeps.refl _
  · refine Keeps.comp (stallStep_keeps ..) ?_
    refine Keeps.comp (Keeps.of (Touches.put_cores_lci ..) (by decide)) ?_
    exact Keeps.refl _

theorem stepConfig_keeps (F) (d) (inp) : Keeps d (stepConfig F d inp) := by
  unfold stepConfig
  conv => zeta
  split
  · refine Keeps.comp (Keeps.of (Touches.put_pwr ..) (by decide)) ?_
    refine Keeps.comp (bcTake_keeps ..) ?_
    exact Keeps.refl _
  · refine Keeps.comp (stallStep_keeps ..) ?_
    refine Keeps.comp (Dev.event_keeps ..) ?_
    refine Keeps.comp (Keeps.of (Touches.put_pwr ..) (by decide)) ?_
    exact Keeps.refl _

theorem imageStart_keeps (F) (d) (slot) : Keeps d (imageStart F d slot) := by
  unfold imageStart
  conv => zeta
  refine Keeps.ite ?_ ?_
  · refine Keeps.comp (Dev.event_keeps ..) ?_
    refine Keeps.comp (Keeps.put_cores_images_lci ?_ ?_) ?_
    · exact fun h => h.norA
    · exact fun h => h.norB
    exact Keeps.refl _
  · refine Keeps.comp (Keeps.put_cores_images_lci ?_ ?_) ?_
    · exact fun h => h.norA
    · exact fun h => h.norB
    exact Keeps.refl _

theorem stepImage_keeps (F) (d) : Keeps d (stepImage F d) := by
  unfold stepImage
  split
  · refine Keeps.comp (Keeps.of (Touches.put_pwr ..) (by decide)) ?_
    refine Keeps.comp (Dev.icu_keeps ..) ?_
    refine Keeps.comp (imageStart_keeps ..) ?_
    exact Keeps.refl _
  · refine Keeps.comp (stallStep_keeps ..) ?_
    exact Keeps.refl _

theorem stepWork_keeps (F) (d) (inp) : Keeps d (stepWork F d inp) := by
  unfold stepWork
  conv => zeta
  split
  · refine Keeps.ite ?_ ?_
    · refine Keeps.comp (Keeps.of (Touches.put_pwr ..) (by decide)) ?_
      refine Keeps.comp (Keeps.of (Dev.faultRelease_touches ..) (by decide)) ?_
      exact Keeps.refl _
    · exact Keeps.refl _
  · refine Keeps.comp (stepFuses_keeps ..) ?_
    exact Keeps.refl _
  · refine Keeps.comp (stepCores_keeps ..) ?_
    exact Keeps.refl _
  · refine Keeps.comp (stepConfig_keeps ..) ?_
    exact Keeps.refl _
  · refine Keeps.comp (stepImage_keeps ..) ?_
    exact Keeps.refl _
  · refine Keeps.ite ?_ ?_
    · refine Keeps.comp (Keeps.of (Touches.put_pwr ..) (by decide)) ?_
      refine Keeps.comp (Dev.groupsLoad_keeps ..) ?_
      exact Keeps.refl _
    · exact Keeps.refl _
  · refine Keeps.ite ?_ ?_
    · refine Keeps.comp (Keeps.of (Touches.put_pwr ..) (by decide)) ?_
      refine Keeps.comp (Dev.mediaLoad_keeps ..) ?_
      exact Keeps.refl _
    · exact Keeps.refl _
  · refine Keeps.ite ?_ ?_
    · refine Keeps.comp (Keeps.of (Touches.put_pwr ..) (by decide)) ?_
      refine Keeps.comp (Dev.setSvc_keeps ..) ?_
      exact Keeps.refl _
    · exact Keeps.refl _
  · exact Keeps.refl _

theorem Dev.marginEnd_keeps (d) : Keeps d (Dev.marginEnd d) := by
  unfold Dev.marginEnd
  split
  · refine Keeps.comp (Keeps.of (Dev.emit_touches ..) (by decide)) ?_
    refine Keeps.comp (Keeps.of (Touches.put_pwr ..) (by decide)) ?_
    refine Keeps.comp (Dev.setFld_keeps ..) ?_
    exact Keeps.refl _
  · exact Keeps.refl _

theorem Dev.downEntry_keeps (d) (why) (out) : Keeps d (Dev.downEntry d why out) := by
  unfold Dev.downEntry
  refine Keeps.comp (Keeps.of (Touches.put_pwr ..) (by decide)) ?_
  refine Keeps.comp (Keeps.of (Dev.measureStop_touches ..) (by decide)) ?_
  refine Keeps.comp (Dev.marginEnd_keeps ..) ?_
  exact Keeps.refl _

theorem bringupStep_keeps (F) (d) (inp) : Keeps d (bringupStep F d inp) := by
  unfold bringupStep
  conv => zeta
  refine Keeps.ite ?_ ?_
  · exact Keeps.refl _
  · refine Keeps.ite ?_ ?_
    · refine Keeps.comp (Dev.downEntry_keeps ..) ?_
      refine Keeps.comp (stepWork_keeps ..) ?_
      exact Keeps.refl _
    · refine Keeps.comp (stepWork_keeps ..) ?_
      exact Keeps.refl _

theorem Dev.linkNoted_keeps (d) (h) (was) : Keeps d (Dev.linkNoted d h was) := by
  unfold Dev.linkNoted
  refine Keeps.ite ?_ ?_
  · exact Keeps.refl _
  · refine Keeps.comp (Dev.icu_keeps ..) ?_
    exact Keeps.refl _

theorem Dev.blank_keeps (d) (off) : Keeps d (Dev.blank d off) := by
  unfold Dev.blank
  refine ⟨fun s => ⟨Tbl.filter_wf _ _ _ s.regs, s.keel, s.keelByte, s.norA, s.norB, by dsimp only; exact Tbl.mapAll_wf _ _ _ s.table, fun m => ?_, rfl, by simp, s.held,
    ⟨by simp [HeadState.blank], by simp [HeadState.blank], by simp [HeadState.blank], by simp [HeadState.blank]⟩,
    ⟨by simp [HeadState.blank], by simp [HeadState.blank], by simp [HeadState.blank], by simp [HeadState.blank]⟩⟩⟩
  have hb : ∀ x : Die, x.Canonical → x.blank.Canonical := fun x hx => by
    have h := Die.abandon_canonical (p := x.queued) (Die.abandon_canonical (p := x.running) hx)
    unfold Die.blank
    exact ⟨h.pages, h.slots⟩
  exact Tbl.mapAll_prop (P := Die.Canonical) {} d.media.die (fun _ x => x.blank) s.table Die.canonical_default (fun _ x hx => hb x hx) s.dies m

theorem Dev.wake_keeps (d) (h) (low) : Keeps d (Dev.wake d h low) := by
  unfold Dev.wake
  refine Keeps.comp (Keeps.of (Dev.emit_touches ..) (by decide)) ?_
  refine Keeps.comp (Dev.setHead_keeps ?_) ?_
  · exact fun h => ⟨(h.head _).info, (h.head _).warn, (h.head _).fail, (h.head _).fatal⟩
  exact Keeps.refl _

theorem Dev.icuLive_keeps (d) (n) : Keeps d (Dev.icuLive d n) := by
  unfold Dev.icuLive
  refine Keeps.ite ?_ ?_
  · refine Keeps.comp (Dev.icu_keeps ..) ?_
    exact Keeps.refl _
  · exact Keeps.refl _

theorem Dev.bringup_keeps (d) (step) : Keeps d (Dev.bringup d step) := by
  unfold Dev.bringup
  refine Keeps.comp (Keeps.of (Touches.put_pwr ..) (by decide)) ?_
  refine Keeps.comp (Dev.blank_keeps ..) ?_
  exact Keeps.refl _

theorem Dev.safePoint_keeps (d) : Keeps d (Dev.safePoint d) := by
  unfold Dev.safePoint
  refine Keeps.comp (Dev.bringup_keeps ..) ?_
  exact Keeps.refl _

theorem countReset_keeps (F) (d) : Keeps d (countReset F d) := by
  unfold countReset
  conv => zeta
  refine Keeps.ite ?_ ?_
  · refine Keeps.comp (Keeps.of (Touches.put_pwr ..) (by decide)) ?_
    exact Keeps.refl _
  · refine Keeps.comp (Keeps.of (Dev.emit_touches ..) (by decide)) ?_
    refine Keeps.comp (Keeps.of (Touches.put_pwr ..) (by decide)) ?_
    refine Keeps.comp (Dev.event_keeps ..) ?_
    refine Keeps.comp (Keeps.of (Touches.put_pwr ..) (by decide)) ?_
    refine Keeps.comp (Keeps.of (Touches.put_pwr ..) (by decide)) ?_
    exact Keeps.refl _

theorem offEnter_keeps (F) (d) (why) (rip) : Keeps d (offEnter F d why rip) := by
  unfold offEnter
  conv => zeta
  refine Keeps.ite ?_ ?_
  · refine Keeps.comp (Dev.bringup_keeps ..) ?_
    refine Keeps.comp (Keeps.of (Touches.put_dbg_sec ..) (by decide)) ?_
    refine Keeps.ite ?_ ?_
    · refine Keeps.comp (countReset_keeps ..) ?_
      refine Keeps.ite ?_ ?_
      · refine Keeps.comp (Keeps.of (Touches.put_pwr ..) (by decide)) ?_
        refine Keeps.comp (Dev.blank_keeps ..) ?_
        refine Keeps.foldl (fun _ _ => ?_) ?_
        · refine Keeps.comp (Dev.keelWritten_keeps ..) ?_
          exact Keeps.refl _
        · exact Keeps.refl _
      · refine Keeps.comp (Keeps.of (Dev.faultRelease_touches ..) (by decide)) ?_
        refine Keeps.comp (Keeps.of (Touches.put_pwr ..) (by decide)) ?_
        refine Keeps.comp (Dev.blank_keeps ..) ?_
        refine Keeps.foldl (fun _ _ => ?_) ?_
        · refine Keeps.comp (Dev.keelWritten_keeps ..) ?_
          exact Keeps.refl _
        · exact Keeps.refl _
    · refine Keeps.ite ?_ ?_
      · refine Keeps.comp (Keeps.of (Touches.put_pwr ..) (by decide)) ?_
        refine Keeps.comp (Dev.blank_keeps ..) ?_
        refine Keeps.foldl (fun _ _ => ?_) ?_
        · refine Keeps.comp (Dev.keelWritten_keeps ..) ?_
          exact Keeps.refl _
        · exact Keeps.refl _
      · refine Keeps.comp (Keeps.of (Dev.faultRelease_touches ..) (by decide)) ?_
        refine Keeps.comp (Keeps.of (Touches.put_pwr ..) (by decide)) ?_
        refine Keeps.comp (Dev.blank_keeps ..) ?_
        refine Keeps.foldl (fun _ _ => ?_) ?_
        · refine Keeps.comp (Dev.keelWritten_keeps ..) ?_
          exact Keeps.refl _
        · exact Keeps.refl _
  · refine Keeps.ite ?_ ?_
    · refine Keeps.foldl (fun _ _ => ?_) ?_
      · refine Keeps.comp (Dev.wake_keeps ..) ?_
        exact Keeps.refl _
      · refine Keeps.ite ?_ ?_
        · refine Keeps.comp (countReset_keeps ..) ?_
          refine Keeps.ite ?_ ?_
          · refine Keeps.comp (Keeps.of (Touches.put_pwr ..) (by decide)) ?_
            refine Keeps.comp (Dev.blank_keeps ..) ?_
            refine Keeps.foldl (fun _ _ => ?_) ?_
            · refine Keeps.comp (Dev.keelWritten_keeps ..) ?_
              exact Keeps.refl _
            · exact Keeps.refl _
          · refine Keeps.comp (Keeps.of (Dev.faultRelease_touches ..) (by decide)) ?_
            refine Keeps.comp (Keeps.of (Touches.put_pwr ..) (by decide)) ?_
            refine Keeps.comp (Dev.blank_keeps ..) ?_
            refine Keeps.foldl (fun _ _ => ?_) ?_
            · refine Keeps.comp (Dev.keelWritten_keeps ..) ?_
              exact Keeps.refl _
            · exact Keeps.refl _
        · refine Keeps.ite ?_ ?_
          · refine Keeps.comp (Keeps.of (Touches.put_pwr ..) (by decide)) ?_
            refine Keeps.comp (Dev.blank_keeps ..) ?_
            refine Keeps.foldl (fun _ _ => ?_) ?_
            · refine Keeps.comp (Dev.keelWritten_keeps ..) ?_
              exact Keeps.refl _
            · exact Keeps.refl _
          · refine Keeps.comp (Keeps.of (Dev.faultRelease_touches ..) (by decide)) ?_
            refine Keeps.comp (Keeps.of (Touches.put_pwr ..) (by decide)) ?_
            refine Keeps.comp (Dev.blank_keeps ..) ?_
            refine Keeps.foldl (fun _ _ => ?_) ?_
            · refine Keeps.comp (Dev.keelWritten_keeps ..) ?_
              exact Keeps.refl _
            · exact Keeps.refl _
    · refine Keeps.ite ?_ ?_
      · refine Keeps.ite ?_ ?_
        · refine Keeps.comp (Keeps.of (Touches.put_pwr ..) (by decide)) ?_
          refine Keeps.ite ?_ ?_
          · refine Keeps.comp (countReset_keeps ..) ?_
            refine Keeps.ite ?_ ?_
            · refine Keeps.comp (Keeps.of (Touches.put_pwr ..) (by decide)) ?_
              refine Keeps.comp (Dev.blank_keeps ..) ?_
              refine Keeps.foldl (fun _ _ => ?_) ?_
              · refine Keeps.comp (Dev.keelWritten_keeps ..) ?_
                exact Keeps.refl _
              · exact Keeps.refl _
            · refine Keeps.comp (Keeps.of (Dev.faultRelease_touches ..) (by decide)) ?_
              refine Keeps.comp (Keeps.of (Touches.put_pwr ..) (by decide)) ?_
              refine Keeps.comp (Dev.blank_keeps ..) ?_
              refine Keeps.foldl (fun _ _ => ?_) ?_
              · refine Keeps.comp (Dev.keelWritten_keeps ..) ?_
                exact Keeps.refl _
              · exact Keeps.refl _
          · refine Keeps.ite ?_ ?_
            · refine Keeps.comp (Keeps.of (Touches.put_pwr ..) (by decide)) ?_
              refine Keeps.comp (Dev.blank_keeps ..) ?_
              refine Keeps.foldl (fun _ _ => ?_) ?_
              · refine Keeps.comp (Dev.keelWritten_keeps ..) ?_
                exact Keeps.refl _
              · exact Keeps.refl _
            · refine Keeps.comp (Keeps.of (Dev.faultRelease_touches ..) (by decide)) ?_
              refine Keeps.comp (Keeps.of (Touches.put_pwr ..) (by decide)) ?_
              refine Keeps.comp (Dev.blank_keeps ..) ?_
              refine Keeps.foldl (fun _ _ => ?_) ?_
              · refine Keeps.comp (Dev.keelWritten_keeps ..) ?_
                exact Keeps.refl _
              · exact Keeps.refl _
        · refine Keeps.ite ?_ ?_
          · refine Keeps.comp (countReset_keeps ..) ?_
            refine Keeps.ite ?_ ?_
            · refine Keeps.comp (Keeps.of (Touches.put_pwr ..) (by decide)) ?_
              refine Keeps.comp (Dev.blank_keeps ..) ?_
              refine Keeps.foldl (fun _ _ => ?_) ?_
              · refine Keeps.comp (Dev.keelWritten_keeps ..) ?_
                exact Keeps.refl _
              · exact Keeps.refl _
            · refine Keeps.comp (Keeps.of (Dev.faultRelease_touches ..) (by decide)) ?_
              refine Keeps.comp (Keeps.of (Touches.put_pwr ..) (by decide)) ?_
              refine Keeps.comp (Dev.blank_keeps ..) ?_
              refine Keeps.foldl (fun _ _ => ?_) ?_
              · refine Keeps.comp (Dev.keelWritten_keeps ..) ?_
                exact Keeps.refl _
              · exact Keeps.refl _
          · refine Keeps.ite ?_ ?_
            · refine Keeps.comp (Keeps.of (Touches.put_pwr ..) (by decide)) ?_
              refine Keeps.comp (Dev.blank_keeps ..) ?_
              refine Keeps.foldl (fun _ _ => ?_) ?_
              · refine Keeps.comp (Dev.keelWritten_keeps ..) ?_
                exact Keeps.refl _
              · exact Keeps.refl _
            · refine Keeps.comp (Keeps.of (Dev.faultRelease_touches ..) (by decide)) ?_
              refine Keeps.comp (Keeps.of (Touches.put_pwr ..) (by decide)) ?_
              refine Keeps.comp (Dev.blank_keeps ..) ?_
              refine Keeps.foldl (fun _ _ => ?_) ?_
              · refine Keeps.comp (Dev.keelWritten_keeps ..) ?_
                exact Keeps.refl _
              · exact Keeps.refl _
      · refine Keeps.ite ?_ ?_
        · refine Keeps.comp (countReset_keeps ..) ?_
          refine Keeps.ite ?_ ?_
          · refine Keeps.comp (Keeps.of (Touches.put_pwr ..) (by decide)) ?_
            refine Keeps.comp (Dev.blank_keeps ..) ?_
            refine Keeps.foldl (fun _ _ => ?_) ?_
            · refine Keeps.comp (Dev.keelWritten_keeps ..) ?_
              exact Keeps.refl _
            · exact Keeps.refl _
          · refine Keeps.comp (Keeps.of (Dev.faultRelease_touches ..) (by decide)) ?_
            refine Keeps.comp (Keeps.of (Touches.put_pwr ..) (by decide)) ?_
            refine Keeps.comp (Dev.blank_keeps ..) ?_
            refine Keeps.foldl (fun _ _ => ?_) ?_
            · refine Keeps.comp (Dev.keelWritten_keeps ..) ?_
              exact Keeps.refl _
            · exact Keeps.refl _
        · refine Keeps.ite ?_ ?_
          · refine Keeps.comp (Keeps.of (Touches.put_pwr ..) (by decide)) ?_
            refine Keeps.comp (Dev.blank_keeps ..) ?_
            refine Keeps.foldl (fun _ _ => ?_) ?_
            · refine Keeps.comp (Dev.keelWritten_keeps ..) ?_
              exact Keeps.refl _
            · exact Keeps.refl _
          · refine Keeps.comp (Keeps.of (Dev.faultRelease_touches ..) (by decide)) ?_
            refine Keeps.comp (Keeps.of (Touches.put_pwr ..) (by decide)) ?_
            refine Keeps.comp (Dev.blank_keeps ..) ?_
            refine Keeps.foldl (fun _ _ => ?_) ?_
            · refine Keeps.comp (Dev.keelWritten_keeps ..) ?_
              exact Keeps.refl _
            · exact Keeps.refl _

theorem cutAll_keeps (F) (d) (cause) : Keeps d (cutAll F d cause) := by
  unfold cutAll
  refine Keeps.comp (Keeps.of (Touches.put_str_lci ..) (by decide)) ?_
  refine Keeps.foldl (fun _ _ => ?_) ?_
  · refine Keeps.comp (Dev.setRbit_keeps ..) ?_
    exact Keeps.refl _
  · refine Keeps.foldl (fun _ _ => ?_) ?_
    · refine Keeps.comp (uwlAdd_keeps ..) ?_
      exact Keeps.refl _
    · refine Keeps.comp (uwlAdd_keeps ..) ?_
      exact Keeps.refl _

theorem flushEntry_keeps (F) (d) (why) (rip) : Keeps d (flushEntry F d why rip) := by
  unfold flushEntry
  conv => zeta
  refine Keeps.ite ?_ ?_
  · refine Keeps.comp (Dev.linkNoted_keeps ..) ?_
    refine Keeps.comp (Dev.linkNoted_keeps ..) ?_
    refine Keeps.comp (Keeps.put_a_b ?_ ?_) ?_
    · exact fun h => ⟨h.headA.info, h.headA.warn, h.headA.fail, h.headA.fatal⟩
    · exact fun h => ⟨h.headB.info, h.headB.warn, h.headB.fail, h.headB.fatal⟩
    refine Keeps.comp (cutAll_keeps ..) ?_
    refine Keeps.foldl (fun _ _ => ?_) ?_
    · refine Keeps.comp (Dev.slotCancel_keeps ..) ?_
      exact Keeps.refl _
    · refine Keeps.ite ?_ ?_
      · refine Keeps.comp (Dev.windowAbort_keeps ..) ?_
        refine Keeps.ite ?_ ?_
        · refine Keeps.comp (Dev.icu_keeps ..) ?_
          refine Keeps.comp (Keeps.of (Touches.put_pwr ..) (by decide)) ?_
          refine Keeps.comp (Dev.setSvc_keeps ..) ?_
          refine Keeps.comp (Keeps.of (Dev.measureStop_touches ..) (by decide)) ?_
          refine Keeps.comp (Dev.marginEnd_keeps ..) ?_
          exact Keeps.refl _
        · refine Keeps.comp (Keeps.of (Touches.put_pwr ..) (by decide)) ?_
          refine Keeps.comp (Dev.setSvc_keeps ..) ?_
          refine Keeps.comp (Keeps.of (Dev.measureStop_touches ..) (by decide)) ?_
          refine Keeps.comp (Dev.marginEnd_keeps ..) ?_
          exact Keeps.refl _
      · refine Keeps.ite ?_ ?_
        · refine Keeps.comp (Dev.icu_keeps ..) ?_
          refine Keeps.comp (Keeps.of (Touches.put_pwr ..) (by decide)) ?_
          refine Keeps.comp (Dev.setSvc_keeps ..) ?_
          refine Keeps.comp (Keeps.of (Dev.measureStop_touches ..) (by decide)) ?_
          refine Keeps.comp (Dev.marginEnd_keeps ..) ?_
          exact Keeps.refl _
        · refine Keeps.comp (Keeps.of (Touches.put_pwr ..) (by decide)) ?_
          refine Keeps.comp (Dev.setSvc_keeps ..) ?_
          refine Keeps.comp (Keeps.of (Dev.measureStop_touches ..) (by decide)) ?_
          refine Keeps.comp (Dev.marginEnd_keeps ..) ?_
          exact Keeps.refl _
  · refine Keeps.comp (cutAll_keeps ..) ?_
    refine Keeps.foldl (fun _ _ => ?_) ?_
    · refine Keeps.comp (Dev.slotCancel_keeps ..) ?_
      exact Keeps.refl _
    · refine Keeps.ite ?_ ?_
      · refine Keeps.comp (Dev.windowAbort_keeps ..) ?_
        refine Keeps.ite ?_ ?_
        · refine Keeps.comp (Dev.icu_keeps ..) ?_
          refine Keeps.comp (Keeps.of (Touches.put_pwr ..) (by decide)) ?_
          refine Keeps.comp (Dev.setSvc_keeps ..) ?_
          refine Keeps.comp (Keeps.of (Dev.measureStop_touches ..) (by decide)) ?_
          refine Keeps.comp (Dev.marginEnd_keeps ..) ?_
          exact Keeps.refl _
        · refine Keeps.comp (Keeps.of (Touches.put_pwr ..) (by decide)) ?_
          refine Keeps.comp (Dev.setSvc_keeps ..) ?_
          refine Keeps.comp (Keeps.of (Dev.measureStop_touches ..) (by decide)) ?_
          refine Keeps.comp (Dev.marginEnd_keeps ..) ?_
          exact Keeps.refl _
      · refine Keeps.ite ?_ ?_
        · refine Keeps.comp (Dev.icu_keeps ..) ?_
          refine Keeps.comp (Keeps.of (Touches.put_pwr ..) (by decide)) ?_
          refine Keeps.comp (Dev.setSvc_keeps ..) ?_
          refine Keeps.comp (Keeps.of (Dev.measureStop_touches ..) (by decide)) ?_
          refine Keeps.comp (Dev.marginEnd_keeps ..) ?_
          exact Keeps.refl _
        · refine Keeps.comp (Keeps.of (Touches.put_pwr ..) (by decide)) ?_
          refine Keeps.comp (Dev.setSvc_keeps ..) ?_
          refine Keeps.comp (Keeps.of (Dev.measureStop_touches ..) (by decide)) ?_
          refine Keeps.comp (Dev.marginEnd_keeps ..) ?_
          exact Keeps.refl _

theorem Dev.rcRead_keeps (d) (off) (hi) (lo) : Keeps d (Dev.rcRead d off hi lo) := by
  unfold Dev.rcRead
  refine Keeps.foldl (fun _ _ => ?_) ?_
  · refine Keeps.comp (Dev.setFld_keeps ..) ?_
    exact Keeps.refl _
  · exact Keeps.refl _

theorem Dev.rcClear_keeps (d) (off) : Keeps d (Dev.rcClear d off) := by
  unfold Dev.rcClear
  refine Keeps.comp (Dev.rcRead_keeps ..) ?_
  exact Keeps.refl _

theorem Dev.setArmed_keeps (d) (on) : Keeps d (Dev.setArmed d on) := by
  unfold Dev.setArmed
  refine Keeps.ite ?_ ?_
  · exact Keeps.refl _
  · refine Keeps.comp (Dev.icu_keeps ..) ?_
    refine Keeps.comp (Keeps.of (Touches.put_gon ..) (by decide)) ?_
    exact Keeps.refl _

theorem marginWrite_keeps (d) (v) : Keeps d (marginWrite d v) := by
  unfold marginWrite
  conv => zeta
  refine Keeps.ite ?_ ?_
  · exact Keeps.refl _
  · refine Keeps.ite ?_ ?_
    · split
      · refine Keeps.comp (Keeps.of (Touches.put_pwr ..) (by decide)) ?_
        refine Keeps.comp (Dev.advance_keeps ..) ?_
        refine Keeps.comp (Keeps.of (Dev.emit_touches ..) (by decide)) ?_
        refine Keeps.comp (Dev.setReg_keeps ..) ?_
        exact Keeps.refl _
      · refine Keeps.comp (Dev.setReg_keeps ..) ?_
        exact Keeps.refl _
    · refine Keeps.comp (Keeps.of (Dev.emit_touches ..) (by decide)) ?_
      refine Keeps.comp (Keeps.of (Touches.put_pwr ..) (by decide)) ?_
      refine Keeps.comp (Dev.setArmed_keeps ..) ?_
      refine Keeps.comp (Dev.setReg_keeps ..) ?_
      exact Keeps.refl _

theorem Dev.tryUp_keeps (d) : Keeps d (Dev.tryUp d) := by
  unfold Dev.tryUp
  refine Keeps.ite ?_ ?_
  · refine Keeps.comp (Dev.bringup_keeps ..) ?_
    exact Keeps.refl _
  · exact Keeps.refl _

theorem systemReset_keeps (F) (d) (bare) : Keeps d (systemReset F d bare) := by
  unfold systemReset
  conv => zeta
  refine Keeps.ite ?_ ?_
  · exact Keeps.refl _
  · split
    · refine Keeps.ite ?_ ?_
      · refine Keeps.comp (Keeps.of (Touches.put_pwr ..) (by decide)) ?_
        refine Keeps.comp (Dev.faultLevel_keeps ..) ?_
        exact Keeps.refl _
      · refine Keeps.comp (Keeps.of (Touches.put_pwr ..) (by decide)) ?_
        refine Keeps.comp (Dev.faultLevel_keeps ..) ?_
        exact Keeps.refl _
    · refine Keeps.ite ?_ ?_
      · refine Keeps.comp (Dev.downEntry_keeps ..) ?_
        refine Keeps.comp (Dev.faultLevel_keeps ..) ?_
        exact Keeps.refl _
      · refine Keeps.ite ?_ ?_
        · refine Keeps.comp (flushEntry_keeps ..) ?_
          refine Keeps.comp (Dev.faultLevel_keeps ..) ?_
          exact Keeps.refl _
        · refine Keeps.comp (Dev.downEntry_keeps ..) ?_
          refine Keeps.comp (Dev.faultLevel_keeps ..) ?_
          exact Keeps.refl _

theorem Dev.mctp_keeps (d) : Keeps d (Dev.mctp d) := by
  unfold Dev.mctp
  refine Keeps.comp (Dev.icuLive_keeps ..) ?_
  exact Keeps.refl _

theorem sliceEnd_keeps (d) (x) (cov) (dur) (fault) (skipped) : Keeps d (sliceEnd d x cov dur fault skipped) := by
  unfold sliceEnd
  conv => zeta
  split
  · refine Keeps.comp (Keeps.of (Touches.put_bst ..) (by decide)) ?_
    exact Keeps.refl _
  · split
    · refine Keeps.comp (Keeps.of (Touches.put_bst ..) (by decide)) ?_
      exact Keeps.refl _
    · refine Keeps.ite ?_ ?_
      · refine Keeps.comp (Dev.finish_keeps ..) ?_
        refine Keeps.comp (Keeps.of (Touches.put_bst ..) (by decide)) ?_
        refine Keeps.comp (Keeps.of (Touches.put_bst ..) (by decide)) ?_
        exact Keeps.refl _
      · refine Keeps.comp (Keeps.of (Dev.mapCmd_touches ..) (by decide)) ?_
        refine Keeps.comp (Keeps.of (Touches.put_bst ..) (by decide)) ?_
        refine Keeps.comp (Keeps.of (Touches.put_bst ..) (by decide)) ?_
        exact Keeps.refl _

theorem sliceFault_keeps (F) (d) (x) : Keeps d (sliceFault F d x) := by
  unfold sliceFault
  conv => zeta
  split
  · refine Keeps.ite ?_ ?_
    · refine Keeps.comp (Dev.retrainAsk_keeps ..) ?_
      refine Keeps.comp (Dev.event_keeps ..) ?_
      refine Keeps.comp (Keeps.of (Touches.put_bst ..) (by decide)) ?_
      exact Keeps.refl _
    · refine Keeps.comp (Keeps.of (Touches.put_bst ..) (by decide)) ?_
      refine Keeps.comp (Dev.event_keeps ..) ?_
      refine Keeps.comp (Keeps.of (Touches.put_bst ..) (by decide)) ?_
      exact Keeps.refl _
  · refine Keeps.ite ?_ ?_
    · refine Keeps.comp (Dev.icu_keeps ..) ?_
      refine Keeps.comp (Dev.event_keeps ..) ?_
      refine Keeps.comp (Keeps.of (Dev.setSensor_touches ..) (by decide)) ?_
      refine Keeps.comp (Dev.event_keeps ..) ?_
      refine Keeps.comp (Keeps.of (Touches.put_bst ..) (by decide)) ?_
      exact Keeps.refl _
    · refine Keeps.ite ?_ ?_
      · refine Keeps.comp (Dev.event_keeps ..) ?_
        refine Keeps.comp (Keeps.of (Touches.put_bst ..) (by decide)) ?_
        exact Keeps.refl _
      · refine Keeps.comp (Keeps.of (Touches.put_bst ..) (by decide)) ?_
        refine Keeps.comp (Dev.event_keeps ..) ?_
        refine Keeps.comp (Keeps.of (Touches.put_bst ..) (by decide)) ?_
        exact Keeps.refl _
  · refine Keeps.comp (Dev.event_keeps ..) ?_
    refine Keeps.comp (Keeps.of (Touches.put_bst ..) (by decide)) ?_
    exact Keeps.refl _

theorem sliceRun_keeps (F) (d) (n) (fault) (lock) : Keeps d (sliceRun F d n fault lock) := by
  unfold sliceRun
  conv => zeta
  split
  · exact Keeps.refl _
  · refine Keeps.ite ?_ ?_
    · refine Keeps.comp (sliceEnd_keeps ..) ?_
      exact Keeps.refl _
    · refine Keeps.ite ?_ ?_
      · exact Keeps.refl _
      · split
        · refine Keeps.ite ?_ ?_
          · refine Keeps.ite ?_ ?_
            · refine Keeps.comp (sliceEnd_keeps ..) ?_
              refine Keeps.comp (Keeps.of (Touches.put_bst ..) (by decide)) ?_
              exact Keeps.refl _
            · refine Keeps.comp (Keeps.of (Touches.put_bst ..) (by decide)) ?_
              refine Keeps.comp (Keeps.of (Touches.put_bst ..) (by decide)) ?_
              exact Keeps.refl _
          · refine Keeps.ite ?_ ?_
            · refine Keeps.comp (sliceFault_keeps ..) ?_
              refine Keeps.comp (Dev.icu_keeps ..) ?_
              refine Keeps.comp (sliceEnd_keeps ..) ?_
              refine Keeps.ite ?_ ?_
              · refine Keeps.comp (Dev.advance_keeps ..) ?_
                refine Keeps.comp (Keeps.of (Touches.put_bst ..) (by decide)) ?_
                exact Keeps.refl _
              · refine Keeps.comp (Keeps.of (Touches.put_bst ..) (by decide)) ?_
                exact Keeps.refl _
            · refine Keeps.comp (Dev.icu_keeps ..) ?_
              refine Keeps.comp (sliceEnd_keeps ..) ?_
              refine Keeps.ite ?_ ?_
              · refine Keeps.comp (Dev.advance_keeps ..) ?_
                refine Keeps.comp (Keeps.of (Touches.put_bst ..) (by decide)) ?_
                exact Keeps.refl _
              · refine Keeps.comp (Keeps.of (Touches.put_bst ..) (by decide)) ?_
                exact Keeps.refl _

theorem armEval_keeps (F) (d) (vh) : Keeps d (armEval F d vh) := by
  unfold armEval
  conv => zeta
  refine Keeps.ite ?_ ?_
  · refine Keeps.comp (flushEntry_keeps ..) ?_
    refine Keeps.comp (Dev.icu_keeps ..) ?_
    refine Keeps.ite ?_ ?_
    · refine Keeps.comp (Keeps.of (Touches.put_gon ..) (by decide)) ?_
      refine Keeps.ite ?_ ?_
      · refine Keeps.comp (Dev.setArmed_keeps ..) ?_
        refine Keeps.ite ?_ ?_
        · refine Keeps.comp (Keeps.of (Dev.measureStop_touches ..) (by decide)) ?_
          refine Keeps.comp (Keeps.of (Touches.put_pwr ..) (by decide)) ?_
          refine Keeps.comp (Dev.tick_keeps ..) ?_
          exact Keeps.refl _
        · refine Keeps.comp (Keeps.of (Touches.put_pwr ..) (by decide)) ?_
          refine Keeps.comp (Dev.tick_keeps ..) ?_
          exact Keeps.refl _
      · refine Keeps.ite ?_ ?_
        · refine Keeps.comp (Dev.setArmed_keeps ..) ?_
          refine Keeps.ite ?_ ?_
          · refine Keeps.comp (Keeps.of (Dev.measureStop_touches ..) (by decide)) ?_
            refine Keeps.comp (Keeps.of (Touches.put_pwr ..) (by decide)) ?_
            refine Keeps.comp (Dev.tick_keeps ..) ?_
            exact Keeps.refl _
          · refine Keeps.comp (Keeps.of (Touches.put_pwr ..) (by decide)) ?_
            refine Keeps.comp (Dev.tick_keeps ..) ?_
            exact Keeps.refl _
        · refine Keeps.ite ?_ ?_
          · refine Keeps.comp (Keeps.of (Dev.measureStop_touches ..) (by decide)) ?_
            refine Keeps.comp (Keeps.of (Touches.put_pwr ..) (by decide)) ?_
            refine Keeps.comp (Dev.tick_keeps ..) ?_
            exact Keeps.refl _
          · refine Keeps.comp (Keeps.of (Touches.put_pwr ..) (by decide)) ?_
            refine Keeps.comp (Dev.tick_keeps ..) ?_
            exact Keeps.refl _
    · refine Keeps.ite ?_ ?_
      · refine Keeps.comp (Dev.setArmed_keeps ..) ?_
        refine Keeps.ite ?_ ?_
        · refine Keeps.comp (Keeps.of (Dev.measureStop_touches ..) (by decide)) ?_
          refine Keeps.comp (Keeps.of (Touches.put_pwr ..) (by decide)) ?_
          refine Keeps.comp (Dev.tick_keeps ..) ?_
          exact Keeps.refl _
        · refine Keeps.comp (Keeps.of (Touches.put_pwr ..) (by decide)) ?_
          refine Keeps.comp (Dev.tick_keeps ..) ?_
          exact Keeps.refl _
      · refine Keeps.ite ?_ ?_
        · refine Keeps.comp (Dev.setArmed_keeps ..) ?_
          refine Keeps.ite ?_ ?_
          · refine Keeps.comp (Keeps.of (Dev.measureStop_touches ..) (by decide)) ?_
            refine Keeps.comp (Keeps.of (Touches.put_pwr ..) (by decide)) ?_
            refine Keeps.comp (Dev.tick_keeps ..) ?_
            exact Keeps.refl _
          · refine Keeps.comp (Keeps.of (Touches.put_pwr ..) (by decide)) ?_
            refine Keeps.comp (Dev.tick_keeps ..) ?_
            exact Keeps.refl _
        · refine Keeps.ite ?_ ?_
          · refine Keeps.comp (Keeps.of (Dev.measureStop_touches ..) (by decide)) ?_
            refine Keeps.comp (Keeps.of (Touches.put_pwr ..) (by decide)) ?_
            refine Keeps.comp (Dev.tick_keeps ..) ?_
            exact Keeps.refl _
          · refine Keeps.comp (Keeps.of (Touches.put_pwr ..) (by decide)) ?_
            refine Keeps.comp (Dev.tick_keeps ..) ?_
            exact Keeps.refl _
  · refine Keeps.ite ?_ ?_
    · refine Keeps.comp (Keeps.of (Touches.put_gon ..) (by decide)) ?_
      refine Keeps.ite ?_ ?_
      · refine Keeps.comp (Dev.setArmed_keeps ..) ?_
        refine Keeps.ite ?_ ?_
        · refine Keeps.comp (Keeps.of (Dev.measureStop_touches ..) (by decide)) ?_
          refine Keeps.comp (Keeps.of (Touches.put_pwr ..) (by decide)) ?_
          refine Keeps.comp (Dev.tick_keeps ..) ?_
          exact Keeps.refl _
        · refine Keeps.comp (Keeps.of (Touches.put_pwr ..) (by decide)) ?_
          refine Keeps.comp (Dev.tick_keeps ..) ?_
          exact Keeps.refl _
      · refine Keeps.ite ?_ ?_
        · refine Keeps.comp (Dev.setArmed_keeps ..) ?_
          refine Keeps.ite ?_ ?_
          · refine Keeps.comp (Keeps.of (Dev.measureStop_touches ..) (by decide)) ?_
            refine Keeps.comp (Keeps.of (Touches.put_pwr ..) (by decide)) ?_
            refine Keeps.comp (Dev.tick_keeps ..) ?_
            exact Keeps.refl _
          · refine Keeps.comp (Keeps.of (Touches.put_pwr ..) (by decide)) ?_
            refine Keeps.comp (Dev.tick_keeps ..) ?_
            exact Keeps.refl _
        · refine Keeps.ite ?_ ?_
          · refine Keeps.comp (Keeps.of (Dev.measureStop_touches ..) (by decide)) ?_
            refine Keeps.comp (Keeps.of (Touches.put_pwr ..) (by decide)) ?_
            refine Keeps.comp (Dev.tick_keeps ..) ?_
            exact Keeps.refl _
          · refine Keeps.comp (Keeps.of (Touches.put_pwr ..) (by decide)) ?_
            refine Keeps.comp (Dev.tick_keeps ..) ?_
            exact Keeps.refl _
    · refine Keeps.ite ?_ ?_
      · refine Keeps.comp (Dev.setArmed_keeps ..) ?_
        refine Keeps.ite ?_ ?_
        · refine Keeps.comp (Keeps.of (Dev.measureStop_touches ..) (by decide)) ?_
          refine Keeps.comp (Keeps.of (Touches.put_pwr ..) (by decide)) ?_
          refine Keeps.comp (Dev.tick_keeps ..) ?_
          exact Keeps.refl _
        · refine Keeps.comp (Keeps.of (Touches.put_pwr ..) (by decide)) ?_
          refine Keeps.comp (Dev.tick_keeps ..) ?_
          exact Keeps.refl _
      · refine Keeps.ite ?_ ?_
        · refine Keeps.comp (Dev.setArmed_keeps ..) ?_
          refine Keeps.ite ?_ ?_
          · refine Keeps.comp (Keeps.of (Dev.measureStop_touches ..) (by decide)) ?_
            refine Keeps.comp (Keeps.of (Touches.put_pwr ..) (by decide)) ?_
            refine Keeps.comp (Dev.tick_keeps ..) ?_
            exact Keeps.refl _
          · refine Keeps.comp (Keeps.of (Touches.put_pwr ..) (by decide)) ?_
            refine Keeps.comp (Dev.tick_keeps ..) ?_
            exact Keeps.refl _
        · refine Keeps.ite ?_ ?_
          · refine Keeps.comp (Keeps.of (Dev.measureStop_touches ..) (by decide)) ?_
            refine Keeps.comp (Keeps.of (Touches.put_pwr ..) (by decide)) ?_
            refine Keeps.comp (Dev.tick_keeps ..) ?_
            exact Keeps.refl _
          · refine Keeps.comp (Keeps.of (Touches.put_pwr ..) (by decide)) ?_
            refine Keeps.comp (Dev.tick_keeps ..) ?_
            exact Keeps.refl _

theorem faultSeen_keeps (F) (d) : Keeps d (faultSeen F d) := by
  unfold faultSeen
  conv => zeta
  refine Keeps.ite ?_ ?_
  · exact Keeps.refl _
  · split
    · split
      · refine Keeps.comp (Dev.downEntry_keeps ..) ?_
        refine Keeps.comp (Keeps.of (Touches.put_pwr ..) (by decide)) ?_
        refine Keeps.comp (Dev.icu_keeps ..) ?_
        refine Keeps.comp (Dev.event_keeps ..) ?_
        refine Keeps.comp (Keeps.of (Touches.put_pwr ..) (by decide)) ?_
        exact Keeps.refl _
      · refine Keeps.comp (flushEntry_keeps ..) ?_
        refine Keeps.comp (Keeps.of (Touches.put_pwr ..) (by decide)) ?_
        refine Keeps.comp (Dev.icu_keeps ..) ?_
        refine Keeps.comp (Dev.event_keeps ..) ?_
        refine Keeps.comp (Keeps.of (Touches.put_pwr ..) (by decide)) ?_
        exact Keeps.refl _
      · refine Keeps.comp (flushEntry_keeps ..) ?_
        refine Keeps.comp (Keeps.of (Touches.put_pwr ..) (by decide)) ?_
        refine Keeps.comp (Dev.icu_keeps ..) ?_
        refine Keeps.comp (Dev.event_keeps ..) ?_
        refine Keeps.comp (Keeps.of (Touches.put_pwr ..) (by decide)) ?_
        exact Keeps.refl _
      · refine Keeps.comp (Keeps.of (Touches.put_pwr ..) (by decide)) ?_
        refine Keeps.comp (Dev.icu_keeps ..) ?_
        refine Keeps.comp (Dev.event_keeps ..) ?_
        refine Keeps.comp (Keeps.of (Touches.put_pwr ..) (by decide)) ?_
        exact Keeps.refl _
    · refine Keeps.comp (systemReset_keeps ..) ?_
      refine Keeps.comp (Dev.icu_keeps ..) ?_
      refine Keeps.comp (Dev.event_keeps ..) ?_
      refine Keeps.comp (Keeps.of (Touches.put_pwr ..) (by decide)) ?_
      exact Keeps.refl _
    · refine Keeps.comp (Dev.icu_keeps ..) ?_
      refine Keeps.comp (Dev.event_keeps ..) ?_
      refine Keeps.comp (Keeps.of (Touches.put_pwr ..) (by decide)) ?_
      exact Keeps.refl _

theorem inputBad_keeps (d) (vin) : Keeps d (inputBad d vin) := by
  unfold inputBad
  conv => zeta
  refine Keeps.ite ?_ ?_
  · refine Keeps.comp (Keeps.of (Touches.put_pwr ..) (by decide)) ?_
    exact Keeps.refl _
  · split
    · refine Keeps.comp (Keeps.of (Dev.unlimit_touches ..) (by decide)) ?_
      refine Keeps.comp (Keeps.of (Dev.measureStop_touches ..) (by decide)) ?_
      refine Keeps.comp (Keeps.of (Touches.put_pwr ..) (by decide)) ?_
      refine Keeps.comp (Keeps.of (Touches.put_pwr ..) (by decide)) ?_
      exact Keeps.refl _
    · refine Keeps.comp (Keeps.of (Touches.put_pwr ..) (by decide)) ?_
      refine Keeps.comp (Keeps.of (Dev.measureStop_touches ..) (by decide)) ?_
      refine Keeps.comp (Keeps.of (Touches.put_pwr ..) (by decide)) ?_
      refine Keeps.comp (Keeps.of (Touches.put_pwr ..) (by decide)) ?_
      exact Keeps.refl _
    · refine Keeps.ite ?_ ?_
      · refine Keeps.comp (Keeps.of (Dev.measureStop_touches ..) (by decide)) ?_
        refine Keeps.comp (Keeps.of (Touches.put_pwr ..) (by decide)) ?_
        refine Keeps.comp (Keeps.of (Touches.put_pwr ..) (by decide)) ?_
        exact Keeps.refl _
      · refine Keeps.comp (Dev.icu_keeps ..) ?_
        refine Keeps.comp (Keeps.of (Touches.put_pwr ..) (by decide)) ?_
        refine Keeps.comp (Keeps.of (Dev.measureStop_touches ..) (by decide)) ?_
        refine Keeps.comp (Keeps.of (Touches.put_pwr ..) (by decide)) ?_
        refine Keeps.comp (Keeps.of (Touches.put_pwr ..) (by decide)) ?_
        exact Keeps.refl _
    · refine Keeps.comp (Keeps.of (Dev.measureStop_touches ..) (by decide)) ?_
      refine Keeps.comp (Keeps.of (Touches.put_pwr ..) (by decide)) ?_
      refine Keeps.comp (Keeps.of (Touches.put_pwr ..) (by decide)) ?_
      exact Keeps.refl _

theorem inputGood_keeps (d) (vin) : Keeps d (inputGood d vin) := by
  unfold inputGood
  conv => zeta
  refine Keeps.ite ?_ ?_
  · refine Keeps.comp (Dev.tryUp_keeps ..) ?_
    refine Keeps.comp (Keeps.of (Touches.put_pwr ..) (by decide)) ?_
    refine Keeps.comp (Keeps.of (Touches.put_pwr ..) (by decide)) ?_
    exact Keeps.refl _
  · refine Keeps.comp (Keeps.of (Touches.put_pwr ..) (by decide)) ?_
    exact Keeps.refl _

theorem measureEnd_keeps (d) (ns) (completed) : Keeps d (measureEnd d ns completed) := by
  unfold measureEnd
  conv => zeta
  refine Keeps.ite ?_ ?_
  · exact Keeps.refl _
  · refine Keeps.ite ?_ ?_
    · refine Keeps.comp (Keeps.of (Touches.put_pwr ..) (by decide)) ?_
      refine Keeps.comp (Dev.advance_keeps ..) ?_
      refine Keeps.comp (Keeps.of (Dev.measureStop_touches ..) (by decide)) ?_
      exact Keeps.refl _
    · refine Keeps.comp (Keeps.of (Dev.measureStop_touches ..) (by decide)) ?_
      exact Keeps.refl _

theorem noticeSeen_keeps (F) (d) : Keeps d (noticeSeen F d) := by
  unfold noticeSeen
  refine Keeps.ite ?_ ?_
  · exact Keeps.refl _
  · refine Keeps.comp (Dev.icu_keeps ..) ?_
    refine Keeps.comp (Dev.event_keeps ..) ?_
    refine Keeps.comp (Keeps.of (Touches.put_pwr ..) (by decide)) ?_
    exact Keeps.refl _

theorem pulseEnd_keeps (d) (still) : Keeps d (pulseEnd d still) := by
  unfold pulseEnd
  refine Keeps.ite ?_ ?_
  · refine Keeps.comp (Keeps.of (Touches.put_pwr ..) (by decide)) ?_
    refine Keeps.comp (Keeps.of (Dev.emit_touches ..) (by decide)) ?_
    refine Keeps.comp (Dev.advance_keeps ..) ?_
    exact Keeps.refl _
  · exact Keeps.refl _

theorem railReact_keeps (F) (d) (n) (code) : Keeps d (railReact F d n code) := by
  unfold railReact
  conv => zeta
  refine Keeps.ite ?_ ?_
  · refine Keeps.comp (Keeps.of (Touches.put_pwr ..) (by decide)) ?_
    refine Keeps.comp (Dev.postAll_keeps ..) ?_
    refine Keeps.comp (Dev.faultLevel_keeps ..) ?_
    refine Keeps.comp (Dev.icu_keeps ..) ?_
    refine Keeps.comp (Dev.event_keeps ..) ?_
    refine Keeps.comp (Keeps.of (Dev.setSeq_touches ..) (by decide)) ?_
    exact Keeps.refl _
  · refine Keeps.ite ?_ ?_
    · refine Keeps.ite ?_ ?_
      · refine Keeps.comp (Keeps.of (Touches.put_pwr ..) (by decide)) ?_
        refine Keeps.comp (systemReset_keeps ..) ?_
        refine Keeps.comp (Dev.icu_keeps ..) ?_
        refine Keeps.comp (Dev.event_keeps ..) ?_
        refine Keeps.comp (Keeps.of (Dev.setSeq_touches ..) (by decide)) ?_
        exact Keeps.refl _
      · refine Keeps.comp (systemReset_keeps ..) ?_
        refine Keeps.comp (Dev.icu_keeps ..) ?_
        refine Keeps.comp (Dev.event_keeps ..) ?_
        refine Keeps.comp (Keeps.of (Dev.setSeq_touches ..) (by decide)) ?_
        exact Keeps.refl _
    · refine Keeps.ite ?_ ?_
      · refine Keeps.comp (Keeps.of (Dev.setSeq_touches ..) (by decide)) ?_
        refine Keeps.comp (Keeps.of (Dev.drive_touches ..) (by decide)) ?_
        refine Keeps.comp (Dev.icu_keeps ..) ?_
        refine Keeps.comp (Dev.event_keeps ..) ?_
        refine Keeps.comp (Keeps.of (Dev.setSeq_touches ..) (by decide)) ?_
        exact Keeps.refl _
      · refine Keeps.ite ?_ ?_
        · refine Keeps.ite ?_ ?_
          · refine Keeps.comp (stallStep_keeps ..) ?_
            refine Keeps.comp (Keeps.of (Dev.faultPulse_touches ..) (by decide)) ?_
            refine Keeps.comp (Keeps.of (groupDown_touches ..) (by decide)) ?_
            refine Keeps.comp (Dev.icu_keeps ..) ?_
            refine Keeps.comp (Dev.event_keeps ..) ?_
            refine Keeps.comp (Keeps.of (Dev.setSeq_touches ..) (by decide)) ?_
            exact Keeps.refl _
          · refine Keeps.comp (Keeps.of (Dev.faultPulse_touches ..) (by decide)) ?_
            refine Keeps.comp (Keeps.of (groupDown_touches ..) (by decide)) ?_
            refine Keeps.comp (Dev.icu_keeps ..) ?_
            refine Keeps.comp (Dev.event_keeps ..) ?_
            refine Keeps.comp (Keeps.of (Dev.setSeq_touches ..) (by decide)) ?_
            exact Keeps.refl _
        · refine Keeps.ite ?_ ?_
          · refine Keeps.ite ?_ ?_
            · refine Keeps.comp (Keeps.of (Touches.put_pwr ..) (by decide)) ?_
              refine Keeps.comp (systemReset_keeps ..) ?_
              refine Keeps.comp (Dev.icu_keeps ..) ?_
              refine Keeps.comp (Dev.event_keeps ..) ?_
              refine Keeps.comp (Keeps.of (Dev.setSeq_touches ..) (by decide)) ?_
              exact Keeps.refl _
            · refine Keeps.comp (systemReset_keeps ..) ?_
              refine Keeps.comp (Dev.icu_keeps ..) ?_
              refine Keeps.comp (Dev.event_keeps ..) ?_
              refine Keeps.comp (Keeps.of (Dev.setSeq_touches ..) (by decide)) ?_
              exact Keeps.refl _
          · refine Keeps.ite ?_ ?_
            · refine Keeps.comp (stallStep_keeps ..) ?_
              refine Keeps.comp (Dev.icu_keeps ..) ?_
              refine Keeps.comp (Dev.event_keeps ..) ?_
              refine Keeps.comp (Keeps.of (Dev.setSeq_touches ..) (by decide)) ?_
              exact Keeps.refl _
            · refine Keeps.comp (Dev.icu_keeps ..) ?_
              refine Keeps.comp (Dev.event_keeps ..) ?_
              refine Keeps.comp (Keeps.of (Dev.setSeq_touches ..) (by decide)) ?_
              exact Keeps.refl _

theorem railFault_keeps (F) (d) (n) (kind) : Keeps d (railFault F d n kind) := by
  unfold railFault
  conv => zeta
  refine Keeps.ite ?_ ?_
  · exact Keeps.refl _
  · split
    · refine Keeps.ite ?_ ?_
      · refine Keeps.comp (railReact_keeps ..) ?_
        exact Keeps.refl _
      · exact Keeps.refl _
    · refine Keeps.ite ?_ ?_
      · refine Keeps.comp (railReact_keeps ..) ?_
        exact Keeps.refl _
      · exact Keeps.refl _
    · refine Keeps.ite ?_ ?_
      · refine Keeps.comp (railReact_keeps ..) ?_
        exact Keeps.refl _
      · exact Keeps.refl _

theorem railRamp_keeps (F) (d) (n) : Keeps d (railRamp F d n) := by
  unfold railRamp
  refine Keeps.ite ?_ ?_
  · refine Keeps.comp (railReact_keeps ..) ?_
    exact Keeps.refl _
  · exact Keeps.refl _

theorem railRetry_keeps (d) (n) : Keeps d (railRetry d n) := by
  unfold railRetry
  conv => zeta
  refine Keeps.ite ?_ ?_
  · refine Keeps.comp (Keeps.of (Dev.drive_touches ..) (by decide)) ?_
    refine Keeps.comp (Dev.advance_keeps ..) ?_
    exact Keeps.refl _
  · exact Keeps.refl _

theorem reqDown_keeps (F) (d) : Keeps d (reqDown F d) := by
  unfold reqDown
  conv => zeta
  refine Keeps.ite ?_ ?_
  · exact Keeps.refl _
  · split
    · refine Keeps.ite ?_ ?_
      · refine Keeps.comp (Dev.downEntry_keeps ..) ?_
        refine Keeps.comp (Dev.icuLive_keeps ..) ?_
        refine Keeps.comp (Keeps.of (Touches.put_pwr ..) (by decide)) ?_
        exact Keeps.refl _
      · refine Keeps.comp (Keeps.of (Touches.put_pwr ..) (by decide)) ?_
        refine Keeps.comp (Dev.icuLive_keeps ..) ?_
        refine Keeps.comp (Keeps.of (Touches.put_pwr ..) (by decide)) ?_
        exact Keeps.refl _
    · refine Keeps.comp (flushEntry_keeps ..) ?_
      refine Keeps.comp (Dev.icuLive_keeps ..) ?_
      refine Keeps.comp (Keeps.of (Touches.put_pwr ..) (by decide)) ?_
      exact Keeps.refl _
    · refine Keeps.comp (flushEntry_keeps ..) ?_
      refine Keeps.comp (Dev.icuLive_keeps ..) ?_
      refine Keeps.comp (Keeps.of (Touches.put_pwr ..) (by decide)) ?_
      exact Keeps.refl _
    · refine Keeps.comp (Keeps.of (Touches.put_pwr ..) (by decide)) ?_
      refine Keeps.comp (Dev.icuLive_keeps ..) ?_
      refine Keeps.comp (Keeps.of (Touches.put_pwr ..) (by decide)) ?_
      exact Keeps.refl _
    · refine Keeps.comp (Keeps.of (Touches.put_pwr ..) (by decide)) ?_
      refine Keeps.comp (Dev.icuLive_keeps ..) ?_
      refine Keeps.comp (Keeps.of (Touches.put_pwr ..) (by decide)) ?_
      exact Keeps.refl _
    · refine Keeps.comp (Dev.icuLive_keeps ..) ?_
      refine Keeps.comp (Keeps.of (Touches.put_pwr ..) (by decide)) ?_
      exact Keeps.refl _

theorem reqUp_keeps (d) : Keeps d (reqUp d) := by
  unfold reqUp
  conv => zeta
  refine Keeps.ite ?_ ?_
  · exact Keeps.refl _
  · split
    · refine Keeps.comp (Dev.tryUp_keeps ..) ?_
      refine Keeps.comp (Keeps.of (Dev.unlimit_touches ..) (by decide)) ?_
      refine Keeps.comp (Dev.icuLive_keeps ..) ?_
      refine Keeps.comp (Keeps.of (Touches.put_pwr ..) (by decide)) ?_
      exact Keeps.refl _
    · refine Keeps.ite ?_ ?_
      · refine Keeps.comp (Dev.icuLive_keeps ..) ?_
        refine Keeps.comp (Keeps.of (Touches.put_pwr ..) (by decide)) ?_
        exact Keeps.refl _
      · refine Keeps.comp (Keeps.of (Touches.put_pwr ..) (by decide)) ?_
        refine Keeps.comp (Dev.icuLive_keeps ..) ?_
        refine Keeps.comp (Keeps.of (Touches.put_pwr ..) (by decide)) ?_
        exact Keeps.refl _
    · refine Keeps.comp (Dev.icuLive_keeps ..) ?_
      refine Keeps.comp (Keeps.of (Touches.put_pwr ..) (by decide)) ?_
      exact Keeps.refl _

theorem restartNow_keeps (d) : Keeps d (restartNow d) := by
  unfold restartNow
  split
  · refine Keeps.ite ?_ ?_
    · refine Keeps.comp (Dev.bringup_keeps ..) ?_
      refine Keeps.comp (Dev.advance_keeps ..) ?_
      exact Keeps.refl _
    · exact Keeps.refl _
  · exact Keeps.refl _

theorem sequenceStep_keeps (F) (d) : Keeps d (sequenceStep F d) := by
  unfold sequenceStep
  conv => zeta
  split
  · refine Keeps.ite ?_ ?_
    · refine Keeps.comp (Dev.safePoint_keeps ..) ?_
      exact Keeps.refl _
    · split
      · refine Keeps.foldl (fun _ _ => ?_) ?_
        · refine Keeps.comp (Keeps.of (Dev.drive_touches ..) (by decide)) ?_
          exact Keeps.refl _
        · exact Keeps.refl _
      · refine Keeps.ite ?_ ?_
        · refine Keeps.comp (Dev.tryUp_keeps ..) ?_
          refine Keeps.comp (offEnter_keeps ..) ?_
          refine Keeps.foldl (fun _ _ => ?_) ?_
          · refine Keeps.comp (Keeps.of (Dev.drive_touches ..) (by decide)) ?_
            exact Keeps.refl _
          · exact Keeps.refl _
        · refine Keeps.comp (offEnter_keeps ..) ?_
          refine Keeps.foldl (fun _ _ => ?_) ?_
          · refine Keeps.comp (Keeps.of (Dev.drive_touches ..) (by decide)) ?_
            exact Keeps.refl _
          · exact Keeps.refl _
  · split
    · exact Keeps.refl _
    · refine Keeps.ite ?_ ?_
      · refine Keeps.foldl (fun _ _ => ?_) ?_
        · refine Keeps.comp (Keeps.of (Dev.drive_touches ..) (by decide)) ?_
          exact Keeps.refl _
        · refine Keeps.ite ?_ ?_
          · exact Keeps.refl _
          · refine Keeps.comp (Dev.advance_keeps ..) ?_
            exact Keeps.refl _
      · exact Keeps.refl _

theorem Dev.dieTemp_keeps (d) (m) (code) : Keeps d (Dev.dieTemp d m code) := by
  unfold Dev.dieTemp
  conv => zeta
  refine Keeps.ite ?_ ?_
  · refine Keeps.comp (Keeps.of (Dev.emit_touches ..) (by decide)) ?_
    refine Keeps.comp (Dev.setDie_keeps ?_) ?_
    · exact fun h => ⟨(h.dies _).pages, (h.dies _).slots⟩
    exact Keeps.refl _
  · refine Keeps.comp (Dev.setDie_keeps ?_) ?_
    · exact fun h => ⟨(h.dies _).pages, (h.dies _).slots⟩
    exact Keeps.refl _

theorem Dev.setTshut_keeps (d) : Keeps d (Dev.setTshut d) := by
  unfold Dev.setTshut
  refine Keeps.comp (Dev.statePut_keeps ..) ?_
  refine Keeps.comp (Keeps.put_keel ?_ ?_) ?_
  · exact fun h => h.keel
  · exact fun h => h.keelByte
  exact Keeps.refl _

theorem dieRound_keeps (d) (m) (ans) : Keeps d (dieRound d m ans) := by
  unfold dieRound
  conv => zeta
  split
  · refine Keeps.comp (Dev.bump_keeps ..) ?_
    refine Keeps.comp (Keeps.of (Dev.emit_touches ..) (by decide)) ?_
    exact Keeps.refl _
  · refine Keeps.ite ?_ ?_
    · refine Keeps.comp (Dev.setChan_keeps ..) ?_
      refine Keeps.ite ?_ ?_
      · refine Keeps.comp (Dev.alertSet_keeps ..) ?_
        refine Keeps.comp (Dev.setCtl_keeps ..) ?_
        refine Keeps.comp (Keeps.of (Dev.dieRead_touches ..) (by decide)) ?_
        refine Keeps.comp (Dev.sendFrame_keeps ..) ?_
        refine Keeps.comp (Dev.dieTemp_keeps ..) ?_
        exact Keeps.refl _
      · refine Keeps.comp (Dev.setCtl_keeps ..) ?_
        refine Keeps.comp (Keeps.of (Dev.dieRead_touches ..) (by decide)) ?_
        refine Keeps.comp (Dev.sendFrame_keeps ..) ?_
        refine Keeps.comp (Dev.dieTemp_keeps ..) ?_
        exact Keeps.refl _
    · refine Keeps.ite ?_ ?_
      · refine Keeps.comp (Dev.alertSet_keeps ..) ?_
        refine Keeps.comp (Dev.setCtl_keeps ..) ?_
        refine Keeps.comp (Keeps.of (Dev.dieRead_touches ..) (by decide)) ?_
        refine Keeps.comp (Dev.sendFrame_keeps ..) ?_
        refine Keeps.comp (Dev.dieTemp_keeps ..) ?_
        exact Keeps.refl _
      · refine Keeps.comp (Dev.setCtl_keeps ..) ?_
        refine Keeps.comp (Keeps.of (Dev.dieRead_touches ..) (by decide)) ?_
        refine Keeps.comp (Dev.sendFrame_keeps ..) ?_
        refine Keeps.comp (Dev.dieTemp_keeps ..) ?_
        exact Keeps.refl _

theorem junctionConds_keeps (F) (d) (oldH) : Keeps d (junctionConds F d oldH) := by
  unfold junctionConds
  conv => zeta
  refine Keeps.ite ?_ ?_
  · refine Keeps.ite ?_ ?_
    · refine Keeps.comp (Dev.icu_keeps ..) ?_
      refine Keeps.comp (Dev.event_keeps ..) ?_
      refine Keeps.comp (Dev.postAll_keeps ..) ?_
      refine Keeps.comp (Keeps.of (Touches.put_therm ..) (by decide)) ?_
      exact Keeps.refl _
    · refine Keeps.ite ?_ ?_
      · refine Keeps.comp (Dev.event_keeps ..) ?_
        refine Keeps.comp (Keeps.of (Touches.put_therm ..) (by decide)) ?_
        exact Keeps.refl _
      · exact Keeps.refl _
  · refine Keeps.ite ?_ ?_
    · refine Keeps.comp (Dev.event_keeps ..) ?_
      refine Keeps.comp (Dev.postAll_keeps ..) ?_
      refine Keeps.comp (Dev.icu_keeps ..) ?_
      refine Keeps.ite ?_ ?_
      · refine Keeps.comp (Dev.icu_keeps ..) ?_
        refine Keeps.comp (Dev.event_keeps ..) ?_
        refine Keeps.comp (Dev.postAll_keeps ..) ?_
        refine Keeps.comp (Keeps.of (Touches.put_therm ..) (by decide)) ?_
        exact Keeps.refl _
      · refine Keeps.ite ?_ ?_
        · refine Keeps.comp (Dev.event_keeps ..) ?_
          refine Keeps.comp (Keeps.of (Touches.put_therm ..) (by decide)) ?_
          exact Keeps.refl _
        · exact Keeps.refl _
    · refine Keeps.ite ?_ ?_
      · refine Keeps.comp (Dev.event_keeps ..) ?_
        refine Keeps.comp (Dev.icu_keeps ..) ?_
        refine Keeps.ite ?_ ?_
        · refine Keeps.comp (Dev.icu_keeps ..) ?_
          refine Keeps.comp (Dev.event_keeps ..) ?_
          refine Keeps.comp (Dev.postAll_keeps ..) ?_
          refine Keeps.comp (Keeps.of (Touches.put_therm ..) (by decide)) ?_
          exact Keeps.refl _
        · refine Keeps.ite ?_ ?_
          · refine Keeps.comp (Dev.event_keeps ..) ?_
            refine Keeps.comp (Keeps.of (Touches.put_therm ..) (by decide)) ?_
            exact Keeps.refl _
          · exact Keeps.refl _
      · refine Keeps.comp (Dev.icu_keeps ..) ?_
        refine Keeps.ite ?_ ?_
        · refine Keeps.comp (Dev.icu_keeps ..) ?_
          refine Keeps.comp (Dev.event_keeps ..) ?_
          refine Keeps.comp (Dev.postAll_keeps ..) ?_
          refine Keeps.comp (Keeps.of (Touches.put_therm ..) (by decide)) ?_
          exact Keeps.refl _
        · refine Keeps.ite ?_ ?_
          · refine Keeps.comp (Dev.event_keeps ..) ?_
            refine Keeps.comp (Keeps.of (Touches.put_therm ..) (by decide)) ?_
            exact Keeps.refl _
          · exact Keeps.refl _

theorem junctionEval_keeps (F) (d) : Keeps d (junctionEval F d) := by
  unfold junctionEval
  refine Keeps.ite ?_ ?_
  · split
    · rename_i hq4
      refine Keeps.comp (junctionConds_keeps ..) ?_
      refine Keeps.comp (Keeps.of (Touches.put_therm ..) (by decide)) ?_
      refine Keeps.comp (Keeps.of (Dev.junction_touches hq4) (by decide)) ?_
      exact Keeps.refl _
  · exact Keeps.refl _

theorem roundEval_keeps (F) (d) : Keeps d (roundEval F d) := by
  unfold roundEval
  refine Keeps.ite ?_ ?_
  · exact Keeps.refl _
  · refine Keeps.foldl (fun _ _ => ?_) ?_
    · refine Keeps.comp (quadEval_keeps ..) ?_
      exact Keeps.refl _
    · refine Keeps.comp (junctionEval_keeps ..) ?_
      refine Keeps.foldl (fun _ _ => ?_) ?_
      · refine Keeps.comp (Dev.icu_keeps ..) ?_
        refine Keeps.comp (Dev.event_keeps ..) ?_
        refine Keeps.comp (Keeps.of (Touches.put_therm ..) (by decide)) ?_
        exact Keeps.refl _
      · refine Keeps.foldl (fun _ _ => ?_) ?_
        · refine Keeps.comp (Dev.icu_keeps ..) ?_
          refine Keeps.comp (Dev.event_keeps ..) ?_
          refine Keeps.comp (Keeps.of (Dev.setSensor_touches ..) (by decide)) ?_
          exact Keeps.refl _
        · refine Keeps.comp (Keeps.of (Touches.put_therm ..) (by decide)) ?_
          refine Keeps.comp (Dev.advance_keeps ..) ?_
          exact Keeps.refl _

theorem roundStart_keeps (F) (d) (rds) (dies) : Keeps d (roundStart F d rds dies) := by
  unfold roundStart
  conv => zeta
  refine Keeps.ite ?_ ?_
  · exact Keeps.refl _
  · refine Keeps.comp (Keeps.of (Touches.put_therm ..) (by decide)) ?_
    refine Keeps.foldl (fun _ _ => ?_) ?_
    · refine Keeps.comp (dieRound_keeps ..) ?_
      exact Keeps.refl _
    · refine Keeps.foldl (fun _ _ => ?_) ?_
      · refine Keeps.comp (Keeps.of (Touches.put_therm ..) (by decide)) ?_
        exact Keeps.refl _
      · refine Keeps.foldl (fun _ _ => ?_) ?_
        · refine Keeps.ite ?_ ?_
          · refine Keeps.comp (Keeps.of (Dev.setSensor_touches ..) (by decide)) ?_
            exact Keeps.refl _
          · exact Keeps.refl _
        · refine Keeps.comp (Dev.tick_keeps ..) ?_
          exact Keeps.refl _

theorem thermalDown_keeps (F) (d) (code) : Keeps d (thermalDown F d code) := by
  unfold thermalDown
  conv => zeta
  split
  · refine Keeps.comp (Keeps.of (Touches.put_pwr ..) (by decide)) ?_
    exact Keeps.refl _
  · refine Keeps.ite ?_ ?_
    · refine Keeps.comp (flushEntry_keeps ..) ?_
      refine Keeps.comp (Dev.setTshut_keeps ..) ?_
      refine Keeps.comp (Dev.event_keeps ..) ?_
      refine Keeps.comp (Dev.postAll_keeps ..) ?_
      exact Keeps.refl _
    · refine Keeps.comp (Dev.downEntry_keeps ..) ?_
      refine Keeps.comp (Dev.setTshut_keeps ..) ?_
      refine Keeps.comp (Dev.event_keeps ..) ?_
      refine Keeps.comp (Dev.postAll_keeps ..) ?_
      exact Keeps.refl _
  · refine Keeps.ite ?_ ?_
    · refine Keeps.comp (flushEntry_keeps ..) ?_
      refine Keeps.comp (Dev.setTshut_keeps ..) ?_
      refine Keeps.comp (Dev.event_keeps ..) ?_
      refine Keeps.comp (Dev.postAll_keeps ..) ?_
      exact Keeps.refl _
    · refine Keeps.comp (Dev.downEntry_keeps ..) ?_
      refine Keeps.comp (Dev.setTshut_keeps ..) ?_
      refine Keeps.comp (Dev.event_keeps ..) ?_
      refine Keeps.comp (Dev.postAll_keeps ..) ?_
      exact Keeps.refl _
  · refine Keeps.ite ?_ ?_
    · refine Keeps.comp (flushEntry_keeps ..) ?_
      refine Keeps.comp (Dev.setTshut_keeps ..) ?_
      refine Keeps.comp (Dev.event_keeps ..) ?_
      refine Keeps.comp (Dev.postAll_keeps ..) ?_
      exact Keeps.refl _
    · refine Keeps.comp (Dev.downEntry_keeps ..) ?_
      refine Keeps.comp (Dev.setTshut_keeps ..) ?_
      refine Keeps.comp (Dev.event_keeps ..) ?_
      refine Keeps.comp (Dev.postAll_keeps ..) ?_
      exact Keeps.refl _
  · exact Keeps.refl _

theorem sensorStep_keeps (F) (d) (i) (code) (ok) : Keeps d (sensorStep F d i code ok) := by
  unfold sensorStep
  conv => zeta
  refine Keeps.ite ?_ ?_
  · exact Keeps.refl _
  · refine Keeps.ite ?_ ?_
    · refine Keeps.comp (thermalDown_keeps ..) ?_
      refine Keeps.comp (Keeps.of (Dev.setSensor_touches ..) (by decide)) ?_
      exact Keeps.refl _
    · refine Keeps.comp (Keeps.of (Dev.setSensor_touches ..) (by decide)) ?_
      exact Keeps.refl _

theorem thermalUp_keeps (d) (code) : Keeps d (thermalUp d code) := by
  unfold thermalUp
  conv => zeta
  refine Keeps.ite ?_ ?_
  · split
    · refine Keeps.comp (restartNow_keeps ..) ?_
      refine Keeps.comp (Keeps.of (Touches.put_pwr_therm ..) (by decide)) ?_
      exact Keeps.refl _
    · refine Keeps.comp (Dev.tryUp_keeps ..) ?_
      refine Keeps.comp (Keeps.of (Touches.put_pwr_therm ..) (by decide)) ?_
      exact Keeps.refl _
  · exact Keeps.refl _

end Sys2Proof.Machine
end

