-- ==== Sys2Proof/Laws/KeepHost.lean ====
section
/-!
SUPPORT. The shared operations keep soundness: mailboxes, Ripcord and replay, ports, register writes, the debug port.
-/
namespace Sys2Proof.Machine

theorem clearEvents_keeps (d) (h) (log) (all) (handles) : Keeps d (clearEvents d h log all handles) := by
  unfold clearEvents
  extract_lets x l
  have hx : ∀ (r : List EvRec) (o : Nat), r.length ≤ l.recs.length → Keeps d (d.setHead h (x.setLog (logName log) { l with recs := r, overflow := o })) := by
    intro r o hr
    refine Dev.setHead_keeps fun s => ?_
    have hb := s.head h
    simp only [l] at hr ⊢
    cases hn : logName log <;> rw [hn] at hr
    · exact ⟨Nat.le_trans hr hb.info, hb.warn, hb.fail, hb.fatal⟩
    · exact ⟨hb.info, Nat.le_trans hr hb.warn, hb.fail, hb.fatal⟩
    · exact ⟨hb.info, hb.warn, Nat.le_trans hr hb.fail, hb.fatal⟩
    · exact ⟨hb.info, hb.warn, hb.fail, Nat.le_trans hr hb.fatal⟩
  refine Keeps.ite ?_ (Keeps.ite ?_ (Keeps.of (Dev.mail_touches ..) (by decide)))
  · exact Keeps.comp (Keeps.of (Dev.mail_touches ..) (by decide)) (hx [] 0 (Nat.zero_le _))
  · exact Keeps.comp (Keeps.of (Dev.mail_touches ..) (by decide)) (hx _ 0 (by rw [List.length_drop]; omega))

theorem Dev.selectImage_keeps (d) (slot) (owner) : Keeps d (Dev.selectImage d slot owner) := by
  unfold Dev.selectImage
  refine Keeps.comp (Dev.statePut_keeps ..) ?_
  refine Keeps.comp (Keeps.put_keel ?_ ?_) ?_
  · exact fun h => h.keel
  · exact fun h => h.keelByte
  exact Keeps.refl _

theorem fwActivate_keeps (F) (d) (h) (slot) : Keeps d (fwActivate F d h slot) := by
  unfold fwActivate
  refine Keeps.ite ?_ ?_
  · refine Keeps.comp (Dev.selectImage_keeps ..) ?_
    exact Keeps.refl _
  · refine Keeps.comp (Keeps.of (Dev.mail_touches ..) (by decide)) ?_
    exact Keeps.refl _

theorem Dev.imagePoke_keeps (d) (slot) (off) (b) : Keeps d (Dev.imagePoke d slot off b) := by
  unfold Dev.imagePoke
  extract_lets put
  have hp : ∀ (t : Tbl Nat), Tbl.wf 0 t = true → Tbl.wf 0 (put t) = true := fun t h => Tbl.foldl_put_wf _ _ h
  refine Keeps.ite ?_ ?_
  · exact Keeps.put_images (fun h => hp _ h.norA) (fun h => h.norB)
  · exact Keeps.put_images (fun h => h.norA) (fun h => hp _ h.norB)

theorem fwTransfer_keeps (d) (h) (slot) (off) (data) : Keeps d (fwTransfer d h slot off data) := by
  unfold fwTransfer
  refine Keeps.ite ?_ ?_
  · refine Keeps.comp (Keeps.of (Dev.mail_touches ..) (by decide)) ?_
    exact Keeps.refl _
  · refine Keeps.ite ?_ ?_
    · refine Keeps.comp (Keeps.of (Dev.mail_touches ..) (by decide)) ?_
      exact Keeps.refl _
    · refine Keeps.comp (Keeps.of (Dev.mail_touches ..) (by decide)) ?_
      refine Keeps.comp (Dev.icu_keeps ..) ?_
      refine Keeps.comp (Keeps.of (Touches.put_lci ..) (by decide)) ?_
      refine Keeps.comp (Dev.imagePoke_keeps ..) ?_
      exact Keeps.refl _

theorem lsaSet_keeps (d) (h) (off) (b) : Keeps d (lsaSet d h off b) := by
  unfold lsaSet
  refine Keeps.ite ?_ ?_
  · refine Keeps.comp (Keeps.of (Dev.mail_touches ..) (by decide)) ?_
    exact Keeps.refl _
  · refine Keeps.ite ?_ ?_
    · refine Keeps.comp (Keeps.of (Dev.mail_touches ..) (by decide)) ?_
      exact Keeps.refl _
    · refine Keeps.foldl (fun _ _ => Dev.keelPut_keeps ..) ?_
      exact Keeps.refl _

theorem mailRun_keeps (x0 x1 x2 x3) (hf : ∀ e, Keeps e (x3 e)) : Keeps x1 (mailRun x0 x1 x2 x3) := by
  unfold mailRun
  exact Keeps.ite (Keeps.refl _) (Keeps.comp (hf _) ((Dev.icu_keeps ..)))

theorem mailWrite_keeps (F) (d) (h) (dpa) (data) (poison) : Keeps d (mailWrite F d h dpa data poison) := by
  unfold mailWrite
  extract_lets line w
  split
  · exact Keeps.of (Dev.mail_touches ..) (by decide)
  · exact Keeps.of (Dev.mail_touches ..) (by decide)
  · refine Keeps.ite ?_ ?_
    · exact Keeps.comp (Keeps.of (Dev.mail_touches ..) (by decide)) (Keeps.scratch (recordPoison_keeps ..) fun s => Tbl.put_wf _ _ _ _ s.scratch)
    · exact Keeps.comp (Keeps.of (Dev.mail_touches ..) (by decide)) (Dev.setCache_keeps fun s => Tbl.put_wf _ _ _ _ s.scratch)
  · refine Keeps.ite (Keeps.of (Dev.mail_touches ..) (by decide)) (Keeps.ite (Keeps.of (Dev.mail_touches ..) (by decide)) ?_)
    split
    extract_lets r
    refine Keeps.ite (Keeps.comp (Keeps.of (Dev.mail_touches ..) (by decide)) (Keeps.comp (acceptWrite_keeps ..) (sealedNote_keeps ..)))
      (Keeps.ite (Keeps.comp (Keeps.of (Dev.mail_touches ..) (by decide)) (Keeps.comp (acceptWrite_keeps ..) (recordPoison_keeps ..)))
        (Keeps.comp (Keeps.of (Dev.mail_touches ..) (by decide)) (acceptWrite_keeps ..)))

theorem Dev.allDown_keeps (d) : Keeps d (Dev.allDown d) := by
  unfold Dev.allDown
  refine Keeps.put_media (fun s => by dsimp only; exact Tbl.mapAll_wf _ _ _ s.table) (fun s m => ?_)
  exact Tbl.mapAll_prop (P := Die.Canonical) {} d.media.die (fun _ x => { x with pd := true }) s.table Die.canonical_default
    (fun k x hx => ⟨hx.pages, hx.slots⟩) s.dies m

theorem Dev.linksDown_keeps (d) : Keeps d (Dev.linksDown d) := by
  unfold Dev.linksDown
  refine Keeps.comp (Dev.linkNoted_keeps ..) ?_
  refine Keeps.comp (Dev.linkNoted_keeps ..) ?_
  refine Keeps.comp (Keeps.put_a_b ?_ ?_) ?_
  · exact fun h => ⟨h.headA.info, h.headA.warn, h.headA.fail, h.headA.fatal⟩
  · exact fun h => ⟨h.headB.info, h.headB.warn, h.headB.fail, h.headB.fatal⟩
  exact Keeps.refl _

theorem aonUp_keeps (x0) : Keeps x0 (aonUp x0) := by
  unfold aonUp
  extract_lets cutWrite d0 p outcome d1
  have h0 : Keeps x0 d0 := Keeps.foldl (fun a w => by
    have ho : ∀ (xs : List Nat) (acc : List Nat × Dev), Keeps a acc.2 →
        Keeps a (xs.foldl (fun (acc : List Nat × Dev) _ => (acc.1 ++ [acc.2.free.1 % 256], acc.2.free.2)) acc).2 := by
      intro xs
      induction xs with
      | nil => exact fun _ h => h
      | cons j r ih => exact fun acc h => ih _ (Keeps.comp (Keeps.of (Dev.free_touches rfl) (by decide)) h)
    exact Keeps.comp (Dev.keelWritten_keeps ..) (ho w.data ([], a) (Keeps.refl _))) (Keeps.refl _)
  have h1 : Keeps x0 d1 := Keeps.comp (Dev.blank_keeps ..) h0
  have he : HeadState.Bounded {} := ⟨Nat.zero_le _, Nat.zero_le _, Nat.zero_le _, Nat.zero_le _⟩
  clear_value d1
  refine ⟨fun s => ?_⟩
  have t := h1.sound s
  have t0 := h0.sound s
  exact ⟨rfl, t0.keel, t0.keelByte, t.norA, t.norB, t.table, t.dies, t.scratch, t.log, Nat.zero_le _, he, he⟩

theorem flushKeel_keeps (F) (d) : Keeps d (flushKeel F d) := by
  unfold flushKeel
  split
  · refine Keeps.ite ?_ ?_
    · refine Keeps.comp (Keeps.of (Dev.flushAt_touches ..) (by decide)) ?_
      refine Keeps.comp (Keeps.put_log ?_) ?_
      · exact fun h => h.log
      refine Keeps.comp (Dev.keelDrain_keeps ..) ?_
      refine Keeps.comp (Dev.forceFlush_keeps ..) ?_
      refine Keeps.comp (Dev.rootPut_keeps ..) ?_
      refine Keeps.comp (Keeps.of (Touches.put_pwr ..) (by decide)) ?_
      refine Keeps.comp (Dev.statePut_keeps ..) ?_
      refine Keeps.comp (Keeps.put_keel ?_ ?_) ?_
      · exact fun h => h.keel
      · exact fun h => h.keelByte
      refine Keeps.comp (Dev.lifePut_keeps ..) ?_
      refine Keeps.comp (Dev.memberPut_keeps ..) ?_
      refine Keeps.comp (Dev.ringPut_keeps ..) ?_
      exact Keeps.refl _
    · exact Keeps.refl _
  · exact Keeps.refl _

theorem flushSaves_keeps (d) : Keeps d (flushSaves d) := by
  unfold flushSaves
  split
  · refine Keeps.ite ?_ ?_
    · refine Keeps.comp (Keeps.of (Dev.flushAt_touches ..) (by decide)) ?_
      refine Keeps.comp (Dev.ringPut_keeps ..) ?_
      refine Keeps.comp (Keeps.of (Dev.ledgerSave_touches ..) (by decide)) ?_
      exact Keeps.refl _
    · exact Keeps.refl _
  · exact Keeps.refl _

theorem lateEnd_keeps (d) : Keeps d (lateEnd d) := by
  unfold lateEnd
  conv => zeta
  split
  · refine Keeps.ite ?_ ?_
    · refine Keeps.ite ?_ ?_
      · refine Keeps.comp (Keeps.of (Dev.flushAt_touches ..) (by decide)) ?_
        refine Keeps.comp (Dev.advance_keeps ..) ?_
        exact Keeps.refl _
      · refine Keeps.comp (Dev.linksDown_keeps ..) ?_
        refine Keeps.comp (Keeps.of (Dev.flushAt_touches ..) (by decide)) ?_
        refine Keeps.comp (Dev.advance_keeps ..) ?_
        exact Keeps.refl _
    · exact Keeps.refl _
  · exact Keeps.refl _

theorem perstUp_keeps (F) (d) (h) : Keeps d (perstUp F d h) := by
  unfold perstUp
  conv => zeta
  refine Keeps.ite ?_ ?_
  · exact Keeps.refl _
  · split
    · refine Keeps.ite ?_ ?_
      · refine Keeps.comp (Dev.bringup_keeps ..) ?_
        refine Keeps.ite ?_ ?_
        · refine Keeps.comp (Dev.icuLive_keeps ..) ?_
          refine Keeps.ite ?_ ?_
          · refine Keeps.comp (Dev.wake_keeps ..) ?_
            refine Keeps.comp (Dev.setHead_keeps ?_) ?_
            · exact fun h => ⟨(h.head _).info, (h.head _).warn, (h.head _).fail, (h.head _).fatal⟩
            exact Keeps.refl _
          · refine Keeps.comp (Dev.setHead_keeps ?_) ?_
            · exact fun h => ⟨(h.head _).info, (h.head _).warn, (h.head _).fail, (h.head _).fatal⟩
            exact Keeps.refl _
        · refine Keeps.ite ?_ ?_
          · refine Keeps.comp (Dev.wake_keeps ..) ?_
            refine Keeps.comp (Dev.setHead_keeps ?_) ?_
            · exact fun h => ⟨(h.head _).info, (h.head _).warn, (h.head _).fail, (h.head _).fatal⟩
            exact Keeps.refl _
          · refine Keeps.comp (Dev.setHead_keeps ?_) ?_
            · exact fun h => ⟨(h.head _).info, (h.head _).warn, (h.head _).fail, (h.head _).fatal⟩
            exact Keeps.refl _
      · refine Keeps.ite ?_ ?_
        · refine Keeps.comp (Dev.icuLive_keeps ..) ?_
          refine Keeps.ite ?_ ?_
          · refine Keeps.comp (Dev.wake_keeps ..) ?_
            refine Keeps.comp (Dev.setHead_keeps ?_) ?_
            · exact fun h => ⟨(h.head _).info, (h.head _).warn, (h.head _).fail, (h.head _).fatal⟩
            exact Keeps.refl _
          · refine Keeps.comp (Dev.setHead_keeps ?_) ?_
            · exact fun h => ⟨(h.head _).info, (h.head _).warn, (h.head _).fail, (h.head _).fatal⟩
            exact Keeps.refl _
        · refine Keeps.ite ?_ ?_
          · refine Keeps.comp (Dev.wake_keeps ..) ?_
            refine Keeps.comp (Dev.setHead_keeps ?_) ?_
            · exact fun h => ⟨(h.head _).info, (h.head _).warn, (h.head _).fail, (h.head _).fatal⟩
            exact Keeps.refl _
          · refine Keeps.comp (Dev.setHead_keeps ?_) ?_
            · exact fun h => ⟨(h.head _).info, (h.head _).warn, (h.head _).fail, (h.head _).fatal⟩
            exact Keeps.refl _
    · refine Keeps.ite ?_ ?_
      · refine Keeps.comp (Keeps.of (Touches.put_pwr ..) (by decide)) ?_
        refine Keeps.ite ?_ ?_
        · refine Keeps.comp (Dev.icuLive_keeps ..) ?_
          refine Keeps.ite ?_ ?_
          · refine Keeps.comp (Dev.wake_keeps ..) ?_
            refine Keeps.comp (Dev.setHead_keeps ?_) ?_
            · exact fun h => ⟨(h.head _).info, (h.head _).warn, (h.head _).fail, (h.head _).fatal⟩
            exact Keeps.refl _
          · refine Keeps.comp (Dev.setHead_keeps ?_) ?_
            · exact fun h => ⟨(h.head _).info, (h.head _).warn, (h.head _).fail, (h.head _).fatal⟩
            exact Keeps.refl _
        · refine Keeps.ite ?_ ?_
          · refine Keeps.comp (Dev.wake_keeps ..) ?_
            refine Keeps.comp (Dev.setHead_keeps ?_) ?_
            · exact fun h => ⟨(h.head _).info, (h.head _).warn, (h.head _).fail, (h.head _).fatal⟩
            exact Keeps.refl _
          · refine Keeps.comp (Dev.setHead_keeps ?_) ?_
            · exact fun h => ⟨(h.head _).info, (h.head _).warn, (h.head _).fail, (h.head _).fatal⟩
            exact Keeps.refl _
      · refine Keeps.ite ?_ ?_
        · refine Keeps.comp (Dev.icuLive_keeps ..) ?_
          refine Keeps.ite ?_ ?_
          · refine Keeps.comp (Dev.wake_keeps ..) ?_
            refine Keeps.comp (Dev.setHead_keeps ?_) ?_
            · exact fun h => ⟨(h.head _).info, (h.head _).warn, (h.head _).fail, (h.head _).fatal⟩
            exact Keeps.refl _
          · refine Keeps.comp (Dev.setHead_keeps ?_) ?_
            · exact fun h => ⟨(h.head _).info, (h.head _).warn, (h.head _).fail, (h.head _).fatal⟩
            exact Keeps.refl _
        · refine Keeps.ite ?_ ?_
          · refine Keeps.comp (Dev.wake_keeps ..) ?_
            refine Keeps.comp (Dev.setHead_keeps ?_) ?_
            · exact fun h => ⟨(h.head _).info, (h.head _).warn, (h.head _).fail, (h.head _).fatal⟩
            exact Keeps.refl _
          · refine Keeps.comp (Dev.setHead_keeps ?_) ?_
            · exact fun h => ⟨(h.head _).info, (h.head _).warn, (h.head _).fail, (h.head _).fatal⟩
            exact Keeps.refl _
    · refine Keeps.ite ?_ ?_
      · refine Keeps.comp (Dev.icuLive_keeps ..) ?_
        refine Keeps.ite ?_ ?_
        · refine Keeps.comp (Dev.wake_keeps ..) ?_
          refine Keeps.comp (Dev.setHead_keeps ?_) ?_
          · exact fun h => ⟨(h.head _).info, (h.head _).warn, (h.head _).fail, (h.head _).fatal⟩
          exact Keeps.refl _
        · refine Keeps.comp (Dev.setHead_keeps ?_) ?_
          · exact fun h => ⟨(h.head _).info, (h.head _).warn, (h.head _).fail, (h.head _).fatal⟩
          exact Keeps.refl _
      · refine Keeps.ite ?_ ?_
        · refine Keeps.comp (Dev.wake_keeps ..) ?_
          refine Keeps.comp (Dev.setHead_keeps ?_) ?_
          · exact fun h => ⟨(h.head _).info, (h.head _).warn, (h.head _).fail, (h.head _).fatal⟩
          exact Keeps.refl _
        · refine Keeps.comp (Dev.setHead_keeps ?_) ?_
          · exact fun h => ⟨(h.head _).info, (h.head _).warn, (h.head _).fail, (h.head _).fatal⟩
          exact Keeps.refl _

theorem railsDown_keeps (F) (d) : Keeps d (railsDown F d) := by
  unfold railsDown
  conv => zeta
  split
  · refine Keeps.ite ?_ ?_
    · exact Keeps.refl _
    · refine Keeps.ite ?_ ?_
      · refine Keeps.comp (Dev.safePoint_keeps ..) ?_
        refine Keeps.comp (Keeps.of (Dev.lower_touches ..) (by decide)) ?_
        refine Keeps.comp (Dev.event_keeps ..) ?_
        refine Keeps.comp (Keeps.put_log ?_) ?_
        · exact fun h => h.log
        refine Keeps.comp (Keeps.of (Touches.put_pwr ..) (by decide)) ?_
        exact Keeps.refl _
      · refine Keeps.comp (offEnter_keeps ..) ?_
        refine Keeps.comp (Keeps.of (Dev.lower_touches ..) (by decide)) ?_
        refine Keeps.comp (Dev.event_keeps ..) ?_
        refine Keeps.comp (Keeps.put_log ?_) ?_
        · exact fun h => h.log
        refine Keeps.comp (Keeps.of (Touches.put_pwr ..) (by decide)) ?_
        exact Keeps.refl _
  · exact Keeps.refl _

theorem restEntry_keeps (F) (d) : Keeps d (restEntry F d) := by
  unfold restEntry
  refine Keeps.ite ?_ ?_
  · refine Keeps.comp (flushEntry_keeps ..) ?_
    exact Keeps.refl _
  · exact Keeps.refl _

theorem ripcordEntry_keeps (F) (d) : Keeps d (ripcordEntry F d) := by
  unfold ripcordEntry
  split
  · refine Keeps.ite ?_ ?_
    · exact Keeps.refl _
    · refine Keeps.comp (flushEntry_keeps ..) ?_
      exact Keeps.refl _
  · refine Keeps.ite ?_ ?_
    · exact Keeps.refl _
    · refine Keeps.comp (flushEntry_keeps ..) ?_
      exact Keeps.refl _
  · refine Keeps.ite ?_ ?_
    · exact Keeps.refl _
    · refine Keeps.comp (flushEntry_keeps ..) ?_
      exact Keeps.refl _
  · exact Keeps.refl _

theorem scheduleStop_keeps (d) : Keeps d (scheduleStop d) := by
  unfold scheduleStop
  split
  · refine Keeps.ite ?_ ?_
    · refine Keeps.comp (Keeps.of (Touches.put_tether ..) (by decide)) ?_
      refine Keeps.comp (Keeps.of (Dev.flushAt_touches ..) (by decide)) ?_
      refine Keeps.comp (Dev.linksDown_keeps ..) ?_
      exact Keeps.refl _
    · exact Keeps.refl _
  · exact Keeps.refl _

theorem segWritten_keeps (F) (d) (ok) : Keeps d (segWritten F d ok) := by
  unfold segWritten
  conv => zeta
  split
  · split
    · refine Keeps.ite ?_ ?_
      · exact Keeps.refl _
      · split
        · rename_i hq8
          refine Keeps.ite ?_ ?_
          · refine Keeps.comp (Keeps.of (Dev.flushAt_touches ..) (by decide)) ?_
            refine Keeps.comp (Dev.allDown_keeps ..) ?_
            refine Keeps.comp (Keeps.of (Touches.put_pwr ..) (by decide)) ?_
            refine Keeps.comp (Keeps.of (Dev.free_touches hq8) (by decide)) ?_
            exact Keeps.refl _
          · refine Keeps.comp (Keeps.of (Dev.flushAt_touches ..) (by decide)) ?_
            refine Keeps.comp (Keeps.of (Touches.put_pwr ..) (by decide)) ?_
            refine Keeps.comp (Keeps.of (Dev.free_touches hq8) (by decide)) ?_
            exact Keeps.refl _
    · exact Keeps.refl _
  · exact Keeps.refl _

theorem wakeSeen_keeps (F) (d) (pin) (rising) : Keeps d (wakeSeen F d pin rising) := by
  unfold wakeSeen
  conv => zeta
  refine Keeps.ite ?_ ?_
  · exact Keeps.refl _
  · refine Keeps.ite ?_ ?_
    · refine Keeps.foldl (fun _ _ => ?_) ?_
      · refine Keeps.comp (Dev.wake_keeps ..) ?_
        exact Keeps.refl _
      · refine Keeps.comp (Dev.icuLive_keeps ..) ?_
        refine Keeps.comp (Keeps.of (Touches.put_gpio ..) (by decide)) ?_
        exact Keeps.refl _
    · refine Keeps.comp (Dev.icuLive_keeps ..) ?_
      refine Keeps.comp (Keeps.of (Touches.put_gpio ..) (by decide)) ?_
      exact Keeps.refl _

theorem fxReg_keeps {x0} {x1} {x2} {x3} {r e} (h : fxReg x0 x1 x2 x3 = (r, e)) : Keeps x1 e := by
  unfold fxReg at h
  split at h
  · cases h; exact Keeps.refl _
  · split at h
    · exact (Keeps.of (Dev.semAcquire_touches h) (by decide))
    · cases h; exact (Dev.rcClear_keeps ..)

theorem fxLoad_keeps (x0) (x1) (x2) (x3) : Keeps x1 (fxLoad x0 x1 x2 x3) := by
  unfold fxLoad
  split
  · split
    rename_i hq1
    split
    rename_i hq2
    refine Keeps.comp (Keeps.of (Dev.fxOut_touches ..) (by decide)) ?_
    have h1 := (fxReg_keeps hq1)
    split at hq2
    · exact Keeps.comp (fxReg_keeps hq2) h1
    · cases hq2; exact h1
  · exact (Keeps.of (Dev.fxOut_touches ..) (by decide))
  · exact Keeps.comp (Keeps.of (Dev.fxOut_touches ..) (by decide)) ((Keeps.of (Dev.fxErr_touches ..) (by decide)))

theorem unlockWork_keeps (F) (d) : Keeps d (unlockWork F d) := by
  unfold unlockWork
  refine Keeps.comp (Keeps.of (Dev.unlockSettle_touches ..) (by decide)) ?_
  refine Keeps.comp (Keeps.of (Touches.put_dbg_sec ..) (by decide)) ?_
  refine Keeps.foldl (fun _ _ => ?_) ?_
  · refine Keeps.comp (twinOff_keeps ..) ?_
    exact Keeps.refl _
  · exact Keeps.refl _

theorem fxResponse_keeps (F) (d) (r) (s) : Keeps d (fxResponse F d r s) := by
  unfold fxResponse
  conv => zeta
  refine Keeps.ite ?_ ?_
  · exact Keeps.refl _
  · refine Keeps.ite ?_ ?_
    · refine Keeps.comp (unlockWork_keeps ..) ?_
      refine Keeps.comp (Keeps.of (Dev.irLoad_touches ..) (by decide)) ?_
      exact Keeps.refl _
    · refine Keeps.comp (Keeps.of (Touches.put_dbg ..) (by decide)) ?_
      refine Keeps.comp (Keeps.of (Dev.irLoad_touches ..) (by decide)) ?_
      exact Keeps.refl _

theorem fxRun_keeps (x0 x1) (hf : ∀ e, Keeps e (x1 e)) : Keeps x0 (fxRun x0 x1) := by
  unfold fxRun
  refine Keeps.ite (Keeps.refl _) (Keeps.ite (Keeps.of (Dev.fxErr_touches ..) (by decide)) (Keeps.ite (Keeps.of (Dev.fxRefuse_touches ..) (by decide)) ?_))
  refine Keeps.comp (hf _) (Keeps.comp (Dev.icu_keeps ..) (Keeps.comp (Keeps.of (Dev.irLoad_touches ..) (by decide)) ?_))
  exact Keeps.of (Touches.put_dbg ..) (by decide)

theorem Dev.msixWrite_keeps (d) (h) (off) (v) : Keeps d (Dev.msixWrite d h off v) := by
  unfold Dev.msixWrite
  refine Keeps.comp (Dev.msixDrain_keeps ..) ?_
  refine Keeps.comp (Dev.setReg_keeps ..) ?_
  exact Keeps.refl _

theorem rstWrite_keeps (F) (d) (h) (v) : Keeps d (rstWrite F d h v) := by
  unfold rstWrite
  refine Keeps.ite ?_ ?_
  · split
    · refine Keeps.comp (flushEntry_keeps ..) ?_
      exact Keeps.refl _
    · refine Keeps.comp (flushEntry_keeps ..) ?_
      exact Keeps.refl _
    · refine Keeps.comp (flushEntry_keeps ..) ?_
      exact Keeps.refl _
    · exact Keeps.refl _
  · exact Keeps.refl _

theorem Dev.plainWrite_keeps (d) (off) (v) : Keeps d (Dev.plainWrite d off v) := by
  unfold Dev.plainWrite
  refine Keeps.comp (Dev.setReg_keeps ..) ?_
  exact Keeps.refl _

theorem glbWrite_keeps (F) (d) (who) (off) (v) : Keeps d (glbWrite F d who off v) := by
  unfold glbWrite
  conv => zeta
  refine Keeps.ite ?_ ?_
  · refine Keeps.comp (Dev.msixWrite_keeps ..) ?_
    exact Keeps.refl _
  · refine Keeps.ite ?_ ?_
    · split
      · refine Keeps.comp (twinRange_keeps ..) ?_
        exact Keeps.refl _
      · refine Keeps.comp (twinRange_keeps ..) ?_
        exact Keeps.refl _
      · refine Keeps.comp (twinRange_keeps ..) ?_
        exact Keeps.refl _
      · refine Keeps.comp (twinRange_keeps ..) ?_
        exact Keeps.refl _
      · refine Keeps.comp (twinWrite_keeps ..) ?_
        exact Keeps.refl _
      · exact Keeps.refl _
    · refine Keeps.ite ?_ ?_
      · refine Keeps.comp (rstWrite_keeps ..) ?_
        exact Keeps.refl _
      · refine Keeps.ite ?_ ?_
        · refine Keeps.comp (Dev.setReg_keeps ..) ?_
          exact Keeps.refl _
        · refine Keeps.comp (Dev.plainWrite_keeps ..) ?_
          exact Keeps.refl _

theorem Dev.rmGo_keeps (d) (h) (op) : Keeps d (Dev.rmGo d h op) := by
  unfold Dev.rmGo
  refine Keeps.ite ?_ ?_
  · exact Keeps.refl _
  · refine Keeps.comp (Dev.icu_keeps ..) ?_
    refine Keeps.comp (Dev.setFld_keeps ..) ?_
    refine Keeps.comp (Keeps.of (Touches.put_lci ..) (by decide)) ?_
    exact Keeps.refl _

theorem rmWrite_keeps (F) (d) (h) (off) (v) : Keeps d (rmWrite F d h off v) := by
  unfold rmWrite
  conv => zeta
  refine Keeps.ite ?_ ?_
  · exact Keeps.refl _
  · refine Keeps.ite ?_ ?_
    · refine Keeps.ite ?_ ?_
      · exact Keeps.refl _
      · refine Keeps.ite ?_ ?_
        · refine Keeps.comp (Dev.plainWrite_keeps ..) ?_
          exact Keeps.refl _
        · refine Keeps.ite ?_ ?_
          · refine Keeps.comp (Keeps.of (Dev.rmEnd_touches ..) (by decide)) ?_
            refine Keeps.comp (Dev.rmGo_keeps ..) ?_
            refine Keeps.comp (Dev.plainWrite_keeps ..) ?_
            exact Keeps.refl _
          · refine Keeps.comp (Dev.rmGo_keeps ..) ?_
            refine Keeps.comp (Dev.plainWrite_keeps ..) ?_
            exact Keeps.refl _
    · refine Keeps.comp (Dev.plainWrite_keeps ..) ?_
      exact Keeps.refl _

theorem mbxWrite_keeps (F) (d) (who) (off) (v) : Keeps d (mbxWrite F d who off v) := by
  unfold mbxWrite
  conv => zeta
  refine Keeps.ite ?_ ?_
  · split
    · refine Keeps.ite ?_ ?_
      · refine Keeps.comp (Dev.setReg_keeps ..) ?_
        exact Keeps.refl _
      · exact Keeps.refl _
    · refine Keeps.ite ?_ ?_
      · refine Keeps.comp (Dev.setReg_keeps ..) ?_
        exact Keeps.refl _
      · exact Keeps.refl _
    · refine Keeps.ite ?_ ?_
      · refine Keeps.comp (Dev.setReg_keeps ..) ?_
        exact Keeps.refl _
      · exact Keeps.refl _
    · refine Keeps.ite ?_ ?_
      · refine Keeps.comp (Dev.setReg_keeps ..) ?_
        exact Keeps.refl _
      · exact Keeps.refl _
    · refine Keeps.comp (qpCfgWrite_keeps ..) ?_
      exact Keeps.refl _
    · refine Keeps.ite ?_ ?_
      · refine Keeps.comp (Keeps.of (Dev.setQp_touches ..) (by decide)) ?_
        exact Keeps.refl _
      · exact Keeps.refl _
    · exact Keeps.refl _
  · refine Keeps.ite ?_ ?_
    · refine Keeps.ite ?_ ?_
      · refine Keeps.comp (sqDoor_keeps ..) ?_
        exact Keeps.refl _
      · refine Keeps.comp (cqDoor_keeps ..) ?_
        exact Keeps.refl _
    · refine Keeps.comp (rmWrite_keeps ..) ?_
      exact Keeps.refl _

theorem slotSet_keeps (F) (d) (who) (n) (off) (v) : Keeps d (slotSet F d who n off v) := by
  unfold slotSet
  refine Keeps.ite ?_ ?_
  · refine Keeps.comp (Dev.setReg_keeps ..) ?_
    exact Keeps.refl _
  · exact Keeps.refl _

theorem Dev.ordered_keeps (old) (d) (off) (uh) (ul) (lh) (ll) : Keeps d (Dev.ordered old d off uh ul lh ll) := by
  unfold Dev.ordered
  refine Keeps.ite ?_ ?_
  · exact Keeps.refl _
  · refine Keeps.comp (Dev.setFld_keeps ..) ?_
    refine Keeps.comp (Dev.setFld_keeps ..) ?_
    exact Keeps.refl _

theorem Dev.cfgWrite_keeps (d) (off) (v) : Keeps d (Dev.cfgWrite d off v) := by
  unfold Dev.cfgWrite
  refine Keeps.comp (Dev.keepCfg_keeps ..) ?_
  refine Keeps.ite ?_ ?_
  · refine Keeps.comp (Dev.ordered_keeps ..) ?_
    refine Keeps.comp (Dev.plainWrite_keeps ..) ?_
    exact Keeps.refl _
  · refine Keeps.ite ?_ ?_
    · refine Keeps.comp (Dev.ordered_keeps ..) ?_
      refine Keeps.comp (Dev.plainWrite_keeps ..) ?_
      exact Keeps.refl _
    · refine Keeps.comp (Dev.plainWrite_keeps ..) ?_
      exact Keeps.refl _

theorem tthWrite_keeps (F) (d) (who) (off) (v) : Keeps d (tthWrite F d who off v) := by
  unfold tthWrite
  conv => zeta
  refine Keeps.ite ?_ ?_
  · split
    · refine Keeps.comp (slotSet_keeps ..) ?_
      exact Keeps.refl _
    · refine Keeps.comp (slotSet_keeps ..) ?_
      exact Keeps.refl _
    · refine Keeps.comp (slotSet_keeps ..) ?_
      exact Keeps.refl _
    · refine Keeps.comp (slotWrite_keeps ..) ?_
      exact Keeps.refl _
    · exact Keeps.refl _
  · refine Keeps.ite ?_ ?_
    · refine Keeps.comp (Keeps.of (Dev.rateWrite_touches ..) (by decide)) ?_
      exact Keeps.refl _
    · refine Keeps.ite ?_ ?_
      · refine Keeps.comp (Dev.setSrc_keeps ..) ?_
        refine Keeps.comp (Dev.cfgWrite_keeps ..) ?_
        exact Keeps.refl _
      · refine Keeps.comp (Dev.cfgWrite_keeps ..) ?_
        exact Keeps.refl _

theorem linWrite_keeps (F) (d) (who) (off) (v) : Keeps d (linWrite F d who off v) := by
  unfold linWrite
  conv => zeta
  refine Keeps.ite ?_ ?_
  · refine Keeps.ite ?_ ?_
    · refine Keeps.comp (compatOn_keeps ..) ?_
      refine Keeps.comp (Dev.setFld_keeps ..) ?_
      exact Keeps.refl _
    · refine Keeps.comp (Dev.compatOff_keeps ..) ?_
      refine Keeps.comp (Dev.setFld_keeps ..) ?_
      exact Keeps.refl _
  · refine Keeps.ite ?_ ?_
    · refine Keeps.comp (scratchWriteCtl_keeps ..) ?_
      exact Keeps.refl _
    · refine Keeps.ite ?_ ?_
      · refine Keeps.ite ?_ ?_
        · refine Keeps.comp (Dev.invGo_keeps ..) ?_
          exact Keeps.refl _
        · exact Keeps.refl _
      · split
        · refine Keeps.comp (Dev.cmpPin_keeps ..) ?_
          exact Keeps.refl _
        · refine Keeps.comp (Dev.cfgWrite_keeps ..) ?_
          exact Keeps.refl _

theorem mchWrite_keeps (F) (d) (off) (v) : Keeps d (mchWrite F d off v) := by
  unfold mchWrite
  split
  · refine Keeps.ite ?_ ?_
    · refine Keeps.comp (Dev.retrainAsk_keeps ..) ?_
      exact Keeps.refl _
    · exact Keeps.refl _
  · refine Keeps.ite ?_ ?_
    · refine Keeps.comp (Dev.keepCfg_keeps ..) ?_
      refine Keeps.comp (Dev.rankWrite_keeps ..) ?_
      exact Keeps.refl _
    · exact Keeps.refl _
  · refine Keeps.comp (Dev.cfgWrite_keeps ..) ?_
    exact Keeps.refl _

theorem psvWrite_keeps (d) (off) (v) : Keeps d (psvWrite d off v) := by
  unfold psvWrite
  refine Keeps.ite ?_ ?_
  · refine Keeps.comp (marginWrite_keeps ..) ?_
    exact Keeps.refl _
  · refine Keeps.ite ?_ ?_
    · refine Keeps.comp (Keeps.of (Touches.put_pwr ..) (by decide)) ?_
      exact Keeps.refl _
    · exact Keeps.refl _

theorem thkWrite_keeps (d) (off) (v) : Keeps d (thkWrite d off v) := by
  unfold thkWrite
  refine Keeps.ite ?_ ?_
  · refine Keeps.comp (Dev.statePut_keeps ..) ?_
    refine Keeps.comp (Keeps.put_keel ?_ ?_) ?_
    · exact fun h => h.keel
    · exact fun h => h.keelByte
    exact Keeps.refl _
  · exact Keeps.refl _

theorem pmcWrite_keeps (F) (d) (who) (off) (v) : Keeps d (pmcWrite F d who off v) := by
  unfold pmcWrite
  split
  · refine Keeps.comp (cntWrite_keeps ..) ?_
    exact Keeps.refl _
  · refine Keeps.comp (histWrite_keeps ..) ?_
    exact Keeps.refl _
  · refine Keeps.ite ?_ ?_
    · refine Keeps.comp (pmcCtl_keeps ..) ?_
      exact Keeps.refl _
    · exact Keeps.refl _

theorem icuWrite_keeps (F) (d) (off) (v) : Keeps d (icuWrite F d off v) := by
  unfold icuWrite
  conv => zeta
  split
  · refine Keeps.comp (Dev.srcWrite_keeps ..) ?_
    exact Keeps.refl _
  · refine Keeps.ite ?_ ?_
    · refine Keeps.comp (Dev.semRelease_keeps ..) ?_
      exact Keeps.refl _
    · exact Keeps.refl _
  · refine Keeps.comp (eoi_keeps ..) ?_
    exact Keeps.refl _
  · refine Keeps.comp (Keeps.of (Dev.pet_touches ..) (by decide)) ?_
    exact Keeps.refl _
  · refine Keeps.ite ?_ ?_
    · refine Keeps.comp (Dev.gctlWrite_keeps ..) ?_
      exact Keeps.refl _
    · refine Keeps.ite ?_ ?_
      · refine Keeps.comp (Dev.swiWrite_keeps ..) ?_
        exact Keeps.refl _
      · refine Keeps.comp (Dev.plainWrite_keeps ..) ?_
        exact Keeps.refl _

theorem regWrite_keeps (F) (d) (who) (off) (v) : Keeps d (regWrite F d who off v) := by
  unfold regWrite
  split
  · refine Keeps.comp (glbWrite_keeps ..) ?_
    exact Keeps.refl _
  · refine Keeps.comp (mbxWrite_keeps ..) ?_
    exact Keeps.refl _
  · refine Keeps.comp (tthWrite_keeps ..) ?_
    exact Keeps.refl _
  · refine Keeps.comp (linWrite_keeps ..) ?_
    exact Keeps.refl _
  · refine Keeps.comp (mchWrite_keeps ..) ?_
    exact Keeps.refl _
  · refine Keeps.comp (psvWrite_keeps ..) ?_
    exact Keeps.refl _
  · refine Keeps.comp (thkWrite_keeps ..) ?_
    exact Keeps.refl _
  · refine Keeps.comp (pmcWrite_keeps ..) ?_
    exact Keeps.refl _
  · refine Keeps.comp (icuWrite_keeps ..) ?_
    exact Keeps.refl _
  · exact Keeps.refl _
  · refine Keeps.comp (Dev.cfgWrite_keeps ..) ?_
    exact Keeps.refl _

theorem regWriteWide_keeps (F) (d) (who) (off) (wide) (v) : Keeps d (regWriteWide F d who off wide v) := by
  unfold regWriteWide
  conv => zeta
  refine Keeps.ite ?_ ?_
  · refine Keeps.comp (regWrite_keeps ..) ?_
    refine Keeps.comp (regWrite_keeps ..) ?_
    exact Keeps.refl _
  · refine Keeps.comp (regWrite_keeps ..) ?_
    exact Keeps.refl _

theorem fxStore_keeps (F) (d) (a) (v) : Keeps d (fxStore F d a v) := by
  unfold fxStore
  conv => zeta
  split
  · refine Keeps.comp (silentOut_keeps ..) ?_
    refine Keeps.comp (regWriteWide_keeps ..) ?_
    refine Keeps.comp (Keeps.of (Touches.put_dbg ..) (by decide)) ?_
    exact Keeps.refl _
  · refine Keeps.comp (Keeps.of (Dev.setPair_touches ..) (by decide)) ?_
    refine Keeps.comp (Keeps.of (Touches.put_dbg ..) (by decide)) ?_
    exact Keeps.refl _
  · refine Keeps.comp (Keeps.of (Dev.fxErr_touches ..) (by decide)) ?_
    refine Keeps.comp (Keeps.of (Touches.put_dbg ..) (by decide)) ?_
    exact Keeps.refl _

theorem Dev.regError_keeps (d) (h) (kind) (off) : Keeps d (Dev.regError d h kind off) := by
  unfold Dev.regError
  conv => zeta
  refine Keeps.ite ?_ ?_
  · refine Keeps.comp (Dev.bump_keeps ..) ?_
    exact Keeps.refl _
  · refine Keeps.comp (Dev.setReg_keeps ..) ?_
    refine Keeps.comp (Dev.bump_keeps ..) ?_
    exact Keeps.refl _

theorem readWord_keeps {x0} {x1} {x2} {x3} {x4} {x5} {r e} (h : readWord x0 x1 x2 x3 x4 x5 = (r, e)) : Keeps x1 e := by
  cases h
  exact Keeps.ite (Keeps.refl _) (Dev.rcRead_keeps ..)

theorem hostRegRead_keeps {x0} {x1} {x2} {x3} {x4} {r e} (h : hostRegRead x0 x1 x2 x3 x4 = (r, e)) : Keeps x1 e := by
  unfold hostRegRead at h
  split at h
  · cases h; exact Keeps.refl _
  · split at h
    · cases h; exact (Dev.regError_keeps ..)
    · split at h
      · cases h; exact (Dev.regError_keeps ..)
      · split at h
        · cases h; exact Keeps.comp (readWord_keeps (r := (readWord x0 (readWord x0 x1 x2 x3 31 0).2 x2 (x3 + 4) 31 0).1) rfl) (readWord_keeps (r := (readWord x0 x1 x2 x3 31 0).1) rfl)
        · exact (readWord_keeps h)

theorem Dev.putWords_keeps (d) (base) (b) : Keeps d (Dev.putWords d base b) := by
  unfold Dev.putWords
  refine Keeps.foldl (fun _ _ => ?_) ?_
  · refine Keeps.comp (Dev.setReg_keeps ..) ?_
    exact Keeps.refl _
  · exact Keeps.refl _

theorem Dev.rmRes_keeps (d) (k) (v) : Keeps d (Dev.rmRes d k v) := by
  unfold Dev.rmRes
  refine Keeps.comp (Dev.setReg_keeps ..) ?_
  exact Keeps.refl _

theorem rmClear_keeps (F) (d) (h) : Keeps d (rmClear F d h) := by
  unfold rmClear
  refine Keeps.comp (silentOut_keeps ..) ?_
  refine Keeps.comp (Keeps.of (Dev.rmEnd_touches ..) (by decide)) ?_
  refine Keeps.comp (clearPairs_keeps ..) ?_
  exact Keeps.refl _

theorem rmIdent_keeps (F) (d) (h) : Keeps d (rmIdent F d h) := by
  unfold rmIdent
  refine Keeps.comp (Keeps.of (Dev.rmEnd_touches ..) (by decide)) ?_
  refine Keeps.comp (Dev.putWords_keeps ..) ?_
  exact Keeps.refl _

theorem rmImage_keeps (d) : Keeps d (rmImage d) := by
  unfold rmImage
  conv => zeta
  refine Keeps.ite ?_ ?_
  · refine Keeps.comp (Keeps.of (Dev.rmEnd_touches ..) (by decide)) ?_
    exact Keeps.refl _
  · refine Keeps.ite ?_ ?_
    · refine Keeps.comp (Keeps.of (Dev.rmEnd_touches ..) (by decide)) ?_
      exact Keeps.refl _
    · refine Keeps.comp (Keeps.of (Dev.rmEnd_touches ..) (by decide)) ?_
      refine Keeps.comp (Dev.icu_keeps ..) ?_
      refine Keeps.comp (Dev.imagePoke_keeps ..) ?_
      exact Keeps.refl _

theorem rmLog_keeps (F) (d) : Keeps d (rmLog F d) := by
  unfold rmLog
  conv => zeta
  refine Keeps.ite ?_ ?_
  · refine Keeps.comp (Keeps.of (Dev.rmEnd_touches ..) (by decide)) ?_
    exact Keeps.refl _
  · refine Keeps.comp (Keeps.of (Dev.rmEnd_touches ..) (by decide)) ?_
    refine Keeps.comp (Dev.putWords_keeps ..) ?_
    exact Keeps.refl _

theorem rmRun_keeps (x0 x1 x2 x3 x4) (hf : ∀ e, Keeps e (x4 e)) : Keeps x1 (rmRun x0 x1 x2 x3 x4) := by
  unfold rmRun
  refine Keeps.ite (Keeps.refl _) (Keeps.ite ?_ (Keeps.comp (hf _) (Dev.rmGo_keeps ..)))
  exact Keeps.comp (Keeps.of (Dev.rmEnd_touches ..) (by decide)) (Dev.rmGo_keeps ..)

theorem rmSelect_keeps (F) (d) : Keeps d (rmSelect F d) := by
  unfold rmSelect
  conv => zeta
  refine Keeps.ite ?_ ?_
  · refine Keeps.comp (Keeps.of (Dev.rmEnd_touches ..) (by decide)) ?_
    exact Keeps.refl _
  · refine Keeps.ite ?_ ?_
    · refine Keeps.comp (Keeps.of (Dev.rmEnd_touches ..) (by decide)) ?_
      refine Keeps.comp (Dev.rmRes_keeps ..) ?_
      exact Keeps.refl _
    · refine Keeps.comp (Dev.selectImage_keeps ..) ?_
      refine Keeps.comp (Dev.rmRes_keeps ..) ?_
      refine Keeps.comp (Keeps.of (Touches.put_lci ..) (by decide)) ?_
      exact Keeps.refl _

theorem rmStatusOf_keeps (F) (d) : Keeps d (rmStatusOf F d) := by
  unfold rmStatusOf
  refine Keeps.comp (Keeps.of (Dev.rmEnd_touches ..) (by decide)) ?_
  refine Keeps.comp (Dev.rmRes_keeps ..) ?_
  refine Keeps.comp (Dev.rmRes_keeps ..) ?_
  refine Keeps.comp (Dev.rmRes_keeps ..) ?_
  refine Keeps.comp (Dev.rmRes_keeps ..) ?_
  exact Keeps.refl _

theorem rmUnfinished_keeps (d) : Keeps d (rmUnfinished d) := by
  unfold rmUnfinished
  conv => zeta
  refine Keeps.ite ?_ ?_
  · refine Keeps.comp (Keeps.of (Dev.rmEnd_touches ..) (by decide)) ?_
    exact Keeps.refl _
  · refine Keeps.comp (Keeps.of (Dev.rmEnd_touches ..) (by decide)) ?_
    refine Keeps.comp (Dev.rmRes_keeps ..) ?_
    refine Keeps.comp (Dev.putWords_keeps ..) ?_
    exact Keeps.refl _

theorem Dev.functionClear_keeps (d) (h) : Keeps d (Dev.functionClear d h) := by
  unfold Dev.functionClear
  refine Keeps.comp (Dev.setHead_keeps ?_) ?_
  · exact fun h => ⟨(h.head _).info, (h.head _).warn, (h.head _).fail, (h.head _).fatal⟩
  refine Keeps.comp (Dev.resetRange_keeps ..) ?_
  refine Keeps.comp (Dev.resetRange_keeps ..) ?_
  refine Keeps.comp (Dev.resetRange_keeps ..) ?_
  exact Keeps.refl _

theorem Dev.linkDown_keeps (d) (h) : Keeps d (Dev.linkDown d h) := by
  unfold Dev.linkDown
  refine Keeps.comp (Dev.linkNoted_keeps ..) ?_
  refine Keeps.comp (Keeps.put_gon_cache ?_) ?_
  · exact fun h => h.scratch
  refine Keeps.comp (Dev.setHead_keeps ?_) ?_
  · exact fun h => ⟨(h.head _).info, (h.head _).warn, (h.head _).fail, (h.head _).fatal⟩
  exact Keeps.refl _

theorem Dev.portFound_keeps (d) (h) : Keeps d (Dev.portFound d h) := by
  unfold Dev.portFound
  conv => zeta
  refine Keeps.ite ?_ ?_
  · refine Keeps.comp (Keeps.of (Dev.faultRelease_touches ..) (by decide)) ?_
    refine Keeps.comp (Dev.setHead_keeps ?_) ?_
    · exact fun h => ⟨(h.head _).info, (h.head _).warn, (h.head _).fail, (h.head _).fatal⟩
    exact Keeps.refl _
  · refine Keeps.comp (Dev.setHead_keeps ?_) ?_
    · exact fun h => ⟨(h.head _).info, (h.head _).warn, (h.head _).fail, (h.head _).fatal⟩
    exact Keeps.refl _

theorem Dev.portHeal_keeps (F) (d) : Keeps d (Dev.portHeal F d) := by
  unfold Dev.portHeal
  conv => zeta
  refine Keeps.ite ?_ ?_
  · refine Keeps.comp (Dev.notice_keeps ..) ?_
    refine Keeps.comp (Keeps.of (Touches.put_pwr ..) (by decide)) ?_
    exact Keeps.refl _
  · exact Keeps.refl _

theorem scratchClear_keeps (F) (d) (h) : Keeps d (scratchClear F d h) := by
  unfold scratchClear
  refine Keeps.comp (Dev.scratchDone_keeps ..) ?_
  refine Keeps.comp (scratchWriteCtl_keeps ..) ?_
  refine Keeps.comp (Dev.scratchDone_keeps ..) ?_
  exact Keeps.refl _

theorem hostSlotsClear_keeps (F) (d) (h) : Keeps d (hostSlotsClear F d h) := by
  unfold hostSlotsClear
  refine Keeps.foldl (fun _ _ => ?_) ?_
  · refine Keeps.comp (Dev.slotClear_keeps ..) ?_
    exact Keeps.refl _
  · exact Keeps.refl _

theorem locksOpen_keeps (F) (d) (h) (cxl) : Keeps d (locksOpen F d h cxl) := by
  unfold locksOpen
  conv => zeta
  refine Keeps.foldl (fun _ _ => ?_) ?_
  · refine Keeps.ite ?_ ?_
    · exact Keeps.refl _
    · refine Keeps.ite ?_ ?_
      · refine Keeps.foldl (fun _ _ => ?_) ?_
        · refine Keeps.comp (Dev.setHead_keeps ?_) ?_
          · exact fun h => ⟨(h.head _).info, (h.head _).warn, (h.head _).fail, (h.head _).fatal⟩
          exact Keeps.refl _
        · refine Keeps.comp (Dev.setRbit_keeps ..) ?_
          refine Keeps.comp (Dev.setHead_keeps ?_) ?_
          · exact fun h => ⟨(h.head _).info, (h.head _).warn, (h.head _).fail, (h.head _).fatal⟩
          exact Keeps.refl _
      · refine Keeps.comp (Dev.setHead_keeps ?_) ?_
        · exact fun h => ⟨(h.head _).info, (h.head _).warn, (h.head _).fail, (h.head _).fatal⟩
        exact Keeps.refl _
  · exact Keeps.refl _

theorem windowsClear_keeps (F) (d) (h) : Keeps d (windowsClear F d h) := by
  unfold windowsClear
  conv => zeta
  refine Keeps.foldl (fun _ _ => ?_) ?_
  · refine Keeps.ite ?_ ?_
    · refine Keeps.comp (Dev.resetRange_keeps ..) ?_
      refine Keeps.ite ?_ ?_
      · refine Keeps.comp (Dev.invalidate_keeps ..) ?_
        refine Keeps.comp (Keeps.of (Dev.ctrWindow_touches ..) (by decide)) ?_
        exact Keeps.refl _
      · exact Keeps.refl _
    · exact Keeps.refl _
  · exact Keeps.refl _

theorem headReset_keeps (F) (d) (h) (cause) : Keeps d (headReset F d h cause) := by
  unfold headReset
  refine Keeps.comp (Dev.setHead_keeps ?_) ?_
  · exact fun h => ⟨(h.head _).info, (h.head _).warn, (h.head _).fail, (h.head _).fatal⟩
  refine Keeps.comp (Dev.functionClear_keeps ..) ?_
  refine Keeps.comp (Keeps.of (Dev.slotsClear_touches ..) (by decide)) ?_
  refine Keeps.comp (hostSlotsClear_keeps ..) ?_
  refine Keeps.comp (locksOpen_keeps ..) ?_
  refine Keeps.comp (windowsClear_keeps ..) ?_
  refine Keeps.comp (scratchClear_keeps ..) ?_
  refine Keeps.comp (Dev.linkDown_keeps ..) ?_
  refine Keeps.comp (clearPairs_keeps ..) ?_
  exact Keeps.refl _

theorem conventional_keeps (F) (d) (h) : Keeps d (conventional F d h) := by
  unfold conventional
  refine Keeps.ite ?_ ?_
  · refine Keeps.comp (silentOut_keeps ..) ?_
    refine Keeps.comp (Dev.icu_keeps ..) ?_
    refine Keeps.comp (headReset_keeps ..) ?_
    exact Keeps.refl _
  · exact Keeps.refl _

theorem cxlResetHead_keeps (F) (d) (h) : Keeps d (cxlResetHead F d h) := by
  unfold cxlResetHead
  refine Keeps.ite ?_ ?_
  · refine Keeps.comp (silentOut_keeps ..) ?_
    refine Keeps.comp (Dev.icu_keeps ..) ?_
    refine Keeps.comp (Keeps.of (Dev.slotsClear_touches ..) (by decide)) ?_
    refine Keeps.comp (hostSlotsClear_keeps ..) ?_
    refine Keeps.comp (locksOpen_keeps ..) ?_
    refine Keeps.comp (windowsClear_keeps ..) ?_
    refine Keeps.comp (scratchClear_keeps ..) ?_
    refine Keeps.comp (clearPairs_keeps ..) ?_
    exact Keeps.refl _
  · exact Keeps.refl _

theorem d0Back_keeps (F) (d) (h) : Keeps d (d0Back F d h) := by
  unfold d0Back
  conv => zeta
  refine Keeps.ite ?_ ?_
  · exact Keeps.refl _
  · refine Keeps.ite ?_ ?_
    · refine Keeps.comp (Dev.msixDrain_keeps ..) ?_
      refine Keeps.comp (Dev.setHead_keeps ?_) ?_
      · exact fun h => ⟨(h.head _).info, (h.head _).warn, (h.head _).fail, (h.head _).fatal⟩
      exact Keeps.refl _
    · refine Keeps.comp (Dev.icu_keeps ..) ?_
      refine Keeps.comp (Dev.msixDrain_keeps ..) ?_
      refine Keeps.comp (Dev.setHead_keeps ?_) ?_
      · exact fun h => ⟨(h.head _).info, (h.head _).warn, (h.head _).fail, (h.head _).fatal⟩
      exact Keeps.refl _

theorem d3coldIn_keeps (F) (d) (h) : Keeps d (d3coldIn F d h) := by
  unfold d3coldIn
  extract_lets x mine d0 cut d1 s1 d2 s2 d3 dual last half p sel pm regs d4 d5
  refine Keeps.ite (Keeps.refl _) ?_
  have hc : Keeps d cut := by
    refine Keeps.foldl (fun a c => ?_) (uwlAdd_keeps ..)
    extract_lets e e1
    have he : Keeps a e := by
      simp only [e]
      split
      · exact Dev.slotCancel_keeps ..
      · exact Keeps.refl _
    refine Keeps.comp (Keeps.of (Dev.dropCmd_touches ..) (by decide)) ?_
    simp only [e1]
    split
    · exact Keeps.comp (Keeps.of (Dev.setSchan_touches ..) (by decide)) he
    · exact he
  have h1 : Keeps d d1 := Keeps.comp (headReset_keeps ..) hc
  have h2 : Keeps d d2 := Keeps.comp (Keeps.of (Touches.put_str ..) (by decide)) h1
  have h3 : Keeps d d3 := Keeps.comp (Dev.setHead_keeps fun s => ⟨(s.head h).info, (s.head h).warn, (s.head h).fail, (s.head h).fatal⟩) h2
  clear_value d3
  have h4 : Keeps d d4 := Keeps.comp (Keeps.put_regs_pmc fun s => Tbl.filter_wf _ _ _ s.regs) h3
  have h5 : Keeps d d5 := Keeps.comp (Dev.icu_keeps ..) h4
  exact Keeps.ite (Keeps.comp (Dev.compatStop_keeps ..) h5) h5

theorem d3hot_keeps (F) (d) (h) : Keeps d (d3hot F d h) := by
  unfold d3hot
  conv => zeta
  refine Keeps.ite ?_ ?_
  · exact Keeps.refl _
  · refine Keeps.foldl (fun _ _ => ?_) ?_
    · refine Keeps.ite ?_ ?_
      · refine Keeps.comp (Keeps.of (Dev.stopChan_touches ..) (by decide)) ?_
        refine Keeps.comp (Keeps.of (Dev.mapCmd_touches ..) (by decide)) ?_
        exact Keeps.refl _
      · exact Keeps.refl _
    · refine Keeps.comp (Dev.icu_keeps ..) ?_
      refine Keeps.comp (Dev.setHead_keeps ?_) ?_
      · exact fun h => ⟨(h.head _).info, (h.head _).warn, (h.head _).fail, (h.head _).fatal⟩
      exact Keeps.refl _

theorem decoderCommit_keeps (F) (d) (h) (i) (base) (size) (skip) (lock) (ways) (gran) (pos) : Keeps d (decoderCommit F d h i base size skip lock ways gran pos) := by
  unfold decoderCommit
  conv => zeta
  refine Keeps.ite ?_ ?_
  · exact Keeps.refl _
  · refine Keeps.ite ?_ ?_
    · refine Keeps.comp (Dev.event_keeps ..) ?_
      refine Keeps.comp (Dev.setHead_keeps ?_) ?_
      · exact fun h => ⟨(h.head _).info, (h.head _).warn, (h.head _).fail, (h.head _).fatal⟩
      exact Keeps.refl _
    · refine Keeps.ite ?_ ?_
      · refine Keeps.comp (Dev.event_keeps ..) ?_
        refine Keeps.comp (Keeps.put_a_b ?_ ?_) ?_
        · exact fun h => ⟨h.headA.info, h.headA.warn, h.headA.fail, h.headA.fatal⟩
        · exact fun h => ⟨h.headB.info, h.headB.warn, h.headB.fail, h.headB.fatal⟩
        refine Keeps.comp (Dev.setHead_keeps ?_) ?_
        · exact fun h => ⟨(h.head _).info, (h.head _).warn, (h.head _).fail, (h.head _).fatal⟩
        exact Keeps.refl _
      · refine Keeps.comp (Dev.setHead_keeps ?_) ?_
        · exact fun h => ⟨(h.head _).info, (h.head _).warn, (h.head _).fail, (h.head _).fatal⟩
        exact Keeps.refl _

theorem decoderUncommit_keeps (d) (h) (i) : Keeps d (decoderUncommit d h i) := by
  unfold decoderUncommit
  conv => zeta
  refine Keeps.ite ?_ ?_
  · exact Keeps.refl _
  · refine Keeps.comp (Dev.setHead_keeps ?_) ?_
    · exact fun h => ⟨(h.head _).info, (h.head _).warn, (h.head _).fail, (h.head _).fatal⟩
    exact Keeps.refl _

theorem doeAnswer_keeps (F) (d0) (h) (k) (arg) : Keeps d0 (doeAnswer F d0 h k arg) := by
  unfold doeAnswer
  conv => zeta
  refine Keeps.ite ?_ ?_
  · exact Keeps.refl _
  · split
    · split
      · refine Keeps.comp (Keeps.of (Dev.emit_touches ..) (by decide)) ?_
        refine Keeps.comp (Dev.icu_keeps ..) ?_
        exact Keeps.refl _
      · refine Keeps.comp (Keeps.of (Dev.emit_touches ..) (by decide)) ?_
        refine Keeps.comp (Dev.icu_keeps ..) ?_
        exact Keeps.refl _
    · refine Keeps.comp (Keeps.of (Dev.emit_touches ..) (by decide)) ?_
      refine Keeps.comp (Dev.icu_keeps ..) ?_
      exact Keeps.refl _
    · refine Keeps.ite ?_ ?_
      · refine Keeps.comp (Keeps.of (Dev.emit_touches ..) (by decide)) ?_
        refine Keeps.comp (Dev.setHead_keeps ?_) ?_
        · exact fun h => ⟨(h.head _).info, (h.head _).warn, (h.head _).fail, (h.head _).fatal⟩
        refine Keeps.comp (Dev.icu_keeps ..) ?_
        exact Keeps.refl _
      · refine Keeps.ite ?_ ?_
        · refine Keeps.comp (Dev.icu_keeps ..) ?_
          exact Keeps.refl _
        · refine Keeps.ite ?_ ?_
          · refine Keeps.comp (Keeps.of (Dev.emit_touches ..) (by decide)) ?_
            refine Keeps.comp (Dev.setHead_keeps ?_) ?_
            · exact fun h => ⟨(h.head _).info, (h.head _).warn, (h.head _).fail, (h.head _).fatal⟩
            refine Keeps.comp (Dev.icu_keeps ..) ?_
            exact Keeps.refl _
          · refine Keeps.comp (Keeps.of (Dev.emit_touches ..) (by decide)) ?_
            refine Keeps.comp (Dev.icu_keeps ..) ?_
            exact Keeps.refl _
    · split
      · refine Keeps.comp (Keeps.of (Dev.emit_touches ..) (by decide)) ?_
        refine Keeps.comp (Dev.icu_keeps ..) ?_
        exact Keeps.refl _
    · refine Keeps.ite ?_ ?_
      · refine Keeps.comp (Keeps.of (Dev.emit_touches ..) (by decide)) ?_
        refine Keeps.comp (Dev.icu_keeps ..) ?_
        exact Keeps.refl _
      · refine Keeps.comp (Dev.icu_keeps ..) ?_
        exact Keeps.refl _
    · refine Keeps.comp (Dev.icu_keeps ..) ?_
      exact Keeps.refl _

theorem functionReset_keeps (F) (d) (h) : Keeps d (functionReset F d h) := by
  unfold functionReset
  refine Keeps.ite ?_ ?_
  · refine Keeps.comp (silentOut_keeps ..) ?_
    refine Keeps.comp (Dev.icu_keeps ..) ?_
    refine Keeps.comp (Dev.functionClear_keeps ..) ?_
    refine Keeps.comp (clearPairs_keeps ..) ?_
    exact Keeps.refl _
  · exact Keeps.refl _

theorem portLost_keeps (F) (d) (h) : Keeps d (portLost F d h) := by
  unfold portLost
  conv => zeta
  refine Keeps.ite ?_ ?_
  · exact Keeps.refl _
  · refine Keeps.comp (Dev.notice_keeps ..) ?_
    refine Keeps.comp (Keeps.put_a_b_pwr ?_ ?_) ?_
    · exact fun h => ⟨h.headA.info, h.headA.warn, h.headA.fail, h.headA.fatal⟩
    · exact fun h => ⟨h.headB.info, h.headB.warn, h.headB.fail, h.headB.fatal⟩
    refine Keeps.foldl (fun _ _ => ?_) ?_
    · refine Keeps.comp (Keeps.of (Dev.emit_touches ..) (by decide)) ?_
      exact Keeps.refl _
    · refine Keeps.foldl (fun _ _ => ?_) ?_
      · refine Keeps.comp (Keeps.of (Dev.setQp_touches ..) (by decide)) ?_
        exact Keeps.refl _
      · refine Keeps.comp (Dev.post_keeps ..) ?_
        refine Keeps.comp (Dev.event_keeps ..) ?_
        refine Keeps.comp (Dev.linkDown_keeps ..) ?_
        exact Keeps.refl _

theorem ideFail_keeps (F) (d) (h) (stream) : Keeps d (ideFail F d h stream) := by
  unfold ideFail
  conv => zeta
  refine Keeps.ite ?_ ?_
  · exact Keeps.refl _
  · refine Keeps.ite ?_ ?_
    · refine Keeps.comp (portLost_keeps ..) ?_
      refine Keeps.comp (Dev.event_keeps ..) ?_
      refine Keeps.comp (Dev.setHead_keeps ?_) ?_
      · exact fun h => ⟨(h.head _).info, (h.head _).warn, (h.head _).fail, (h.head _).fatal⟩
      exact Keeps.refl _
    · refine Keeps.comp (Dev.linkDown_keeps ..) ?_
      refine Keeps.comp (Dev.event_keeps ..) ?_
      refine Keeps.comp (Dev.setHead_keeps ?_) ?_
      · exact fun h => ⟨(h.head _).info, (h.head _).warn, (h.head _).fail, (h.head _).fatal⟩
      exact Keeps.refl _

theorem ideKm_keeps (d) (h) (set) (stream) : Keeps d (ideKm d h set stream) := by
  unfold ideKm
  conv => zeta
  refine Keeps.ite ?_ ?_
  · exact Keeps.refl _
  · refine Keeps.comp (Dev.setHead_keeps ?_) ?_
    · exact fun h => ⟨(h.head _).info, (h.head _).warn, (h.head _).fail, (h.head _).fatal⟩
    exact Keeps.refl _

theorem portDown_keeps (F) (d) (h) : Keeps d (portDown F d h) := by
  unfold portDown
  refine Keeps.ite ?_ ?_
  · refine Keeps.comp (portLost_keeps ..) ?_
    exact Keeps.refl _
  · refine Keeps.comp (Dev.faultLevel_keeps ..) ?_
    refine Keeps.comp (Dev.setHead_keeps ?_) ?_
    · exact fun h => ⟨(h.head _).info, (h.head _).warn, (h.head _).fail, (h.head _).fatal⟩
    refine Keeps.comp (Dev.post_keeps ..) ?_
    refine Keeps.comp (Dev.event_keeps ..) ?_
    refine Keeps.comp (Dev.linkDown_keeps ..) ?_
    exact Keeps.refl _

theorem linkState_keeps (F) (d) (h) (st) : Keeps d (linkState F d h st) := by
  unfold linkState
  conv => zeta
  refine Keeps.ite ?_ ?_
  · exact Keeps.refl _
  · split
    · refine Keeps.comp (Dev.linkNoted_keeps ..) ?_
      refine Keeps.comp (Dev.portHeal_keeps ..) ?_
      refine Keeps.comp (Dev.setHead_keeps ?_) ?_
      · exact fun h => ⟨(h.head _).info, (h.head _).warn, (h.head _).fail, (h.head _).fatal⟩
      exact Keeps.refl _
    · refine Keeps.ite ?_ ?_
      · refine Keeps.comp (Dev.linkNoted_keeps ..) ?_
        refine Keeps.comp (Dev.setHead_keeps ?_) ?_
        · exact fun h => ⟨(h.head _).info, (h.head _).warn, (h.head _).fail, (h.head _).fatal⟩
        exact Keeps.refl _
      · exact Keeps.refl _
    · refine Keeps.comp (Dev.linkNoted_keeps ..) ?_
      refine Keeps.comp (Dev.setHead_keeps ?_) ?_
      · exact fun h => ⟨(h.head _).info, (h.head _).warn, (h.head _).fail, (h.head _).fatal⟩
      exact Keeps.refl _
    · refine Keeps.comp (Dev.linkNoted_keeps ..) ?_
      refine Keeps.comp (Dev.setHead_keeps ?_) ?_
      · exact fun h => ⟨(h.head _).info, (h.head _).warn, (h.head _).fail, (h.head _).fatal⟩
      exact Keeps.refl _
    · refine Keeps.comp (portDown_keeps ..) ?_
      exact Keeps.refl _

theorem linkTrained_keeps (F) (d) (h) (rate) (width) : Keeps d (linkTrained F d h rate width) := by
  unfold linkTrained
  refine Keeps.ite ?_ ?_
  · exact Keeps.refl _
  · refine Keeps.comp (Dev.linkNoted_keeps ..) ?_
    refine Keeps.comp (Dev.portFound_keeps ..) ?_
    refine Keeps.comp (Dev.portHeal_keeps ..) ?_
    refine Keeps.ite ?_ ?_
    · refine Keeps.comp (Dev.post_keeps ..) ?_
      refine Keeps.comp (Dev.event_keeps ..) ?_
      refine Keeps.comp (Dev.setHead_keeps ?_) ?_
      · exact fun h => ⟨(h.head _).info, (h.head _).warn, (h.head _).fail, (h.head _).fatal⟩
      exact Keeps.refl _
    · refine Keeps.comp (Dev.setHead_keeps ?_) ?_
      · exact fun h => ⟨(h.head _).info, (h.head _).warn, (h.head _).fail, (h.head _).fatal⟩
      exact Keeps.refl _

theorem hostRegWrite_keeps (F) (d) (h) (off) (wide) (v) : Keeps d (hostRegWrite F d h off wide v) := by
  unfold hostRegWrite
  refine Keeps.ite ?_ ?_
  · exact Keeps.refl _
  · refine Keeps.ite ?_ ?_
    · refine Keeps.comp (Dev.regError_keeps ..) ?_
      exact Keeps.refl _
    · refine Keeps.ite ?_ ?_
      · refine Keeps.comp (Dev.regError_keeps ..) ?_
        exact Keeps.refl _
      · refine Keeps.comp (silentOut_keeps ..) ?_
        refine Keeps.comp (regWriteWide_keeps ..) ?_
        exact Keeps.refl _

theorem Dev.rowAgain_keeps (d) (r) : Keeps d (Dev.rowAgain d r) := by
  unfold Dev.rowAgain
  refine Keeps.comp (Dev.rowDone_keeps ..) ?_
  refine Keeps.foldl (fun _ _ => ?_) ?_
  · refine Keeps.comp (Dev.rowPage_keeps ..) ?_
    exact Keeps.refl _
  · exact Keeps.refl _

theorem Dev.snapAgain_keeps (d) (s) : Keeps d (Dev.snapAgain d s) := by
  unfold Dev.snapAgain
  refine Keeps.comp (Dev.snapDone_keeps ..) ?_
  refine Keeps.foldl (fun _ _ => ?_) ?_
  · refine Keeps.comp (Keeps.of (Dev.snapBuild_touches ..) (by decide)) ?_
    exact Keeps.refl _
  · exact Keeps.refl _

theorem countersBack_keeps (F) (d) (s) (readable) : Keeps d (countersBack F d s readable) := by
  unfold countersBack
  refine Keeps.ite ?_ ?_
  · refine Keeps.comp (Keeps.of (Touches.put_sec ..) (by decide)) ?_
    exact Keeps.refl _
  · refine Keeps.foldl (fun _ _ => ?_) ?_
    · split
      · refine Keeps.comp (Dev.exhaust_keeps ..) ?_
        exact Keeps.refl _
      · exact Keeps.refl _
    · exact Keeps.refl _

theorem lostEntry_keeps (F) (d) (line) : Keeps d (lostEntry F d line) := by
  unfold lostEntry
  refine Keeps.comp (recordPoison_keeps ..) ?_
  refine Keeps.comp (Keeps.of (Touches.put_gon ..) (by decide)) ?_
  exact Keeps.refl _

theorem entriesBack_keeps (F) (d) (s) (parts) (lost) : Keeps d (entriesBack F d s parts lost) := by
  unfold entriesBack
  conv => zeta
  refine Keeps.ite ?_ ?_
  · exact Keeps.refl _
  · refine Keeps.foldl (fun _ _ => lostEntry_keeps ..) ?_
    refine Keeps.foldl (fun _ _ => ?_) ?_
    · split
      · refine Keeps.comp (Keeps.of (Dev.setSlot_touches ..) (by decide)) ?_
        exact Keeps.refl _
      · exact Keeps.refl _
    · refine Keeps.comp (Keeps.of (Touches.put_gon ..) (by decide)) ?_
      exact Keeps.refl _

theorem metaBackIn_keeps (F) (d) (s) (readable) : Keeps d (metaBackIn F d s readable) := by
  unfold metaBackIn
  conv => zeta
  refine Keeps.ite ?_ ?_
  · refine Keeps.comp (Keeps.of (Touches.put_pwr ..) (by decide)) ?_
    refine Keeps.foldl (fun _ _ => ?_) ?_
    · refine Keeps.comp (Keeps.of (Dev.tcTouch_touches ..) (by decide)) ?_
      refine Keeps.comp (Keeps.of (Dev.setMeta_touches ..) (by decide)) ?_
      exact Keeps.refl _
    · exact Keeps.refl _
  · refine Keeps.foldl (fun _ _ => metaLost_keeps ..) ?_
    exact Keeps.refl _

theorem outcomeRecord_keeps (F) (d) : Keeps d (outcomeRecord F d) := by
  unfold outcomeRecord
  refine Keeps.comp (Dev.lifePut_keeps ..) ?_
  refine Keeps.comp (Dev.statePut_keeps ..) ?_
  refine Keeps.ite ?_ ?_
  · refine Keeps.comp (Dev.postAll_keeps ..) ?_
    refine Keeps.comp (Keeps.put_keel_pwr ?_ ?_) ?_
    · exact fun h => h.keel
    · exact fun h => h.keelByte
    exact Keeps.refl _
  · refine Keeps.comp (Keeps.put_keel_pwr ?_ ?_) ?_
    · exact fun h => h.keel
    · exact fun h => h.keelByte
    exact Keeps.refl _

theorem reducedEntry_keeps (F) (d) : Keeps d (reducedEntry F d) := by
  unfold reducedEntry
  refine Keeps.comp (Dev.notice_keeps ..) ?_
  refine Keeps.comp (Keeps.of (Touches.put_tether_lci_pwr ..) (by decide)) ?_
  refine Keeps.comp (Dev.setSvc_keeps ..) ?_
  exact Keeps.refl _

theorem replayRepair_keeps (d) : Keeps d (replayRepair d) := by
  unfold replayRepair
  refine Keeps.ite ?_ ?_
  · exact Keeps.refl _
  · refine Keeps.comp (Keeps.of (Dev.surveyBegin_touches ..) (by decide)) ?_
    refine Keeps.comp (Keeps.of (Touches.put_pwr ..) (by decide)) ?_
    refine Keeps.foldl (fun _ _ => ?_) ?_
    · refine Keeps.comp (Dev.snapAgain_keeps ..) ?_
      exact Keeps.refl _
    · refine Keeps.foldl (fun _ _ => ?_) ?_
      · refine Keeps.comp (Keeps.of (Dev.queueGroup_touches ..) (by decide)) ?_
        exact Keeps.refl _
      · refine Keeps.foldl (fun _ _ => ?_) ?_
        · refine Keeps.comp (Keeps.of (Dev.dropTarget_touches ..) (by decide)) ?_
          exact Keeps.refl _
        · refine Keeps.foldl (fun _ _ => ?_) ?_
          · refine Keeps.comp (Keeps.of (Dev.migAgain_touches ..) (by decide)) ?_
            exact Keeps.refl _
          · refine Keeps.comp (Keeps.of (Touches.put_tracts ..) (by decide)) ?_
            refine Keeps.foldl (fun _ _ => ?_) ?_
            · refine Keeps.comp (Dev.rowAgain_keeps ..) ?_
              exact Keeps.refl _
            · exact Keeps.refl _

theorem rowLost_keeps (x0) (x1) (x2) : Keeps x1 (rowLost x0 x1 x2) := by
  unfold rowLost
  extract_lets w l bad unk data one
  refine Keeps.ite (Keeps.refl _) ?_
  split
  rename_i d1 holes hq
  extract_lets lines
  have ho : ∀ (xs : List Nat) (acc : Dev × List (Nat × Nat)), Keeps x1 acc.1 → Keeps x1 (xs.foldl one acc).1 := by
    intro xs
    induction xs with
    | nil => exact fun _ h => h
    | cons j r ih =>
      intro acc h
      refine ih _ ?_
      simp only [one]
      split <;> exact Keeps.comp (Dev.putStripe_keeps ..) h
  have h1 := ho (List.range 8) (x1, []) (Keeps.refl _)
  rw [hq] at h1
  exact Keeps.foldl (fun _ _ => (recordPoison_keeps ..)) h1

theorem rowsBack_keeps (F) (d) (s) (parts) : Keeps d (rowsBack F d s parts) := by
  unfold rowsBack
  refine Keeps.ite ?_ ?_
  · refine Keeps.comp (Keeps.put_media ?_ ?_) ?_
    · exact fun h => h.table
    · exact fun h => h.dies
    exact Keeps.refl _
  · refine Keeps.ite ?_ ?_
    · refine Keeps.foldl (fun _ _ => rowLost_keeps ..) ?_
      exact Keeps.refl _
    · exact Keeps.refl _

theorem segRestore_keeps (F) (d) (s) (parts) (lost) : Keeps d (segRestore F d s parts lost) := by
  unfold segRestore
  refine Keeps.comp (Keeps.of (Touches.put_pwr ..) (by decide)) ?_
  refine Keeps.comp (entriesBack_keeps ..) ?_
  refine Keeps.comp (countersBack_keeps ..) ?_
  refine Keeps.comp (rowsBack_keeps ..) ?_
  refine Keeps.ite ?_ ?_
  · refine Keeps.comp (Keeps.of (unitsBack_touches ..) (by decide)) ?_
    refine Keeps.comp (metaBackIn_keeps ..) ?_
    exact Keeps.refl _
  · refine Keeps.comp (metaBackIn_keeps ..) ?_
    exact Keeps.refl _

theorem replayRestore_keeps (F) (d) (parts) (lost) : Keeps d (replayRestore F d parts lost) := by
  unfold replayRestore
  conv => zeta
  refine Keeps.ite ?_ ?_
  · exact Keeps.refl _
  · split
    · refine Keeps.ite ?_ ?_
      · refine Keeps.comp (Dev.downEntry_keeps ..) ?_
        refine Keeps.comp (outcomeRecord_keeps ..) ?_
        refine Keeps.comp (Keeps.of (Touches.put_tracts_pwr ..) (by decide)) ?_
        split
        · refine Keeps.comp (segRestore_keeps ..) ?_
          exact Keeps.refl _
        · exact Keeps.refl _
      · refine Keeps.comp (reducedEntry_keeps ..) ?_
        refine Keeps.comp (outcomeRecord_keeps ..) ?_
        refine Keeps.comp (Keeps.of (Touches.put_tracts_pwr ..) (by decide)) ?_
        split
        · refine Keeps.comp (segRestore_keeps ..) ?_
          exact Keeps.refl _
        · exact Keeps.refl _

theorem segRelease_keeps (d) : Keeps d (segRelease d) := by
  unfold segRelease
  split
  · exact Keeps.refl _
  · refine Keeps.ite ?_ ?_
    · refine Keeps.comp (Dev.rootPut_keeps ..) ?_
      refine Keeps.comp (Keeps.of (Touches.put_pwr ..) (by decide)) ?_
      exact Keeps.refl _
    · exact Keeps.refl _

end Sys2Proof.Machine
end

