-- ==== Sys2Proof/Laws/KeepExec.lean ====
section
/-!
SUPPORT. Each command keeps soundness.
-/
namespace Sys2Proof.Machine

theorem execCreditGrant_keeps (h) (rwd) (s) : KeepsNext s (execCreditGrant h rwd s) := by
  unfold execCreditGrant
  conv => zeta
  split
  · split
    · refine KeepsNext.next ?_
      refine Keeps.comp (Keeps.of (Dev.emit_touches ..) (by decide)) ?_
      refine Keeps.comp (Dev.setHead_keeps ?_) ?_
      · exact fun h => ⟨(h.head _).info, (h.head _).warn, (h.head _).fail, (h.head _).fatal⟩
      exact Keeps.refl _
    · exact KeepsNext.same _
  · split
    · refine KeepsNext.next ?_
      refine Keeps.comp (Keeps.of (Dev.emit_touches ..) (by decide)) ?_
      refine Keeps.comp (Dev.setHead_keeps ?_) ?_
      · exact fun h => ⟨(h.head _).info, (h.head _).warn, (h.head _).fail, (h.head _).fatal⟩
      exact Keeps.refl _
    · exact KeepsNext.same _

theorem execMemrd_keeps (h) (tag) (dpa) (s) : KeepsNext s (execMemrd h tag dpa s) := by
  unfold execMemrd
  refine KeepsNext.next ?_
  refine Keeps.comp (hostRead_keeps ..) ?_
  exact Keeps.refl _

theorem execMemspecrd_keeps (h) (dpa) (s) : KeepsNext s (execMemspecrd h dpa s) := by
  unfold execMemspecrd
  refine KeepsNext.next ?_
  refine Keeps.comp (specRead_keeps ..) ?_
  exact Keeps.refl _

theorem execMeminv_keeps (h) (tag) (dpa) (_nt) (s) : KeepsNext s (execMeminv h tag dpa _nt s) := by
  unfold execMeminv
  conv => zeta
  split
  · exact KeepsNext.same _
  · refine KeepsNext.next ?_
    refine Keeps.ite ?_ ?_
    · refine Keeps.comp (Keeps.of (Dev.emit_touches ..) (by decide)) ?_
      refine Keeps.comp (Dev.useReq_keeps ..) ?_
      exact Keeps.refl _
    · refine Keeps.comp (unmapped_keeps ..) ?_
      refine Keeps.comp (Dev.useReq_keeps ..) ?_
      exact Keeps.refl _

theorem execMemwr_keeps (h) (tag) (dpa) (data) (poison) (s) : KeepsNext s (execMemwr h tag dpa data poison s) := by
  unfold execMemwr
  refine KeepsNext.next ?_
  refine Keeps.comp (hostWrite_keeps ..) ?_
  exact Keeps.refl _

theorem execMemwrptl_keeps (h) (tag) (dpa) (data) (be) (poison) (s) : KeepsNext s (execMemwrptl h tag dpa data be poison s) := by
  unfold execMemwrptl
  refine KeepsNext.next ?_
  refine Keeps.comp (hostWrite_keeps ..) ?_
  exact Keeps.refl _

theorem execSectorTransitEnd_keeps (dpa) (s) : KeepsNext s (execSectorTransitEnd dpa s) := by
  unfold execSectorTransitEnd
  conv => zeta
  split
  · refine KeepsNext.next ?_
    refine Keeps.comp (Dev.toBallast_keeps ..) ?_
    refine Keeps.comp (Dev.setCache_keeps ?_) ?_
    · exact fun h => h.scratch
    exact Keeps.refl _
  · exact KeepsNext.same _

theorem execMediaLineReturn_keeps (dpa) (v) (unk) (s) : KeepsNext s (execMediaLineReturn dpa v unk s) := by
  unfold execMediaLineReturn
  refine KeepsNext.next ?_
  refine Keeps.comp (mediaReturn_keeps ..) ?_
  exact Keeps.refl _

theorem execHeavyDecodeDone_keeps (dpa) (v) (s) : KeepsNext s (execHeavyDecodeDone dpa v s) := by
  unfold execHeavyDecodeDone
  refine KeepsNext.next ?_
  refine Keeps.comp (heavyDone_keeps ..) ?_
  exact Keeps.refl _

theorem execReadRetryAfterProgram_keeps (dpa) (v) (unk) (s) : KeepsNext s (execReadRetryAfterProgram dpa v unk s) := by
  unfold execReadRetryAfterProgram
  refine KeepsNext.next ?_
  refine Keeps.comp (retryRead_keeps ..) ?_
  exact Keeps.refl _

theorem execWriteBackDone_keeps (dpa) (s) : KeepsNext s (execWriteBackDone dpa s) := by
  unfold execWriteBackDone
  refine KeepsNext.next ?_
  refine Keeps.comp (Keeps.of (Dev.gpfSettle_touches ..) (by decide)) ?_
  refine Keeps.comp (writeBackDone_keeps ..) ?_
  exact Keeps.refl _

theorem execStagedEntryTranslate_keeps (dpa) (s) : KeepsNext s (execStagedEntryTranslate dpa s) := by
  unfold execStagedEntryTranslate
  conv => zeta
  split
  · refine KeepsNext.next ?_
    refine Keeps.comp (Keeps.of (Dev.setStaged_touches ..) (by decide)) ?_
    refine Keeps.comp (Dev.tcLookup_keeps ..) ?_
    exact Keeps.refl _
  · exact KeepsNext.same _

theorem execGondolaMacroFail_keeps (bank) (macroNo) (lost) (s) : KeepsNext s (execGondolaMacroFail bank macroNo lost s) := by
  unfold execGondolaMacroFail
  refine KeepsNext.next ?_
  refine Keeps.comp (Keeps.of (Dev.gpfSettle_touches ..) (by decide)) ?_
  refine Keeps.comp (gondolaMacro_keeps ..) ?_
  exact Keeps.refl _

theorem execSramUncorrectable_keeps (store) (dpa) (s) : KeepsNext s (execSramUncorrectable store dpa s) := by
  unfold execSramUncorrectable
  refine KeepsNext.next ?_
  refine Keeps.comp (Keeps.of (Dev.gpfSettle_touches ..) (by decide)) ?_
  refine Keeps.comp (sramBad_keeps ..) ?_
  exact Keeps.refl _

theorem execScratchConversionWrite_keeps (_h) (value) (s) : KeepsNext s (execScratchConversionWrite _h value s) := by
  unfold execScratchConversionWrite
  refine KeepsNext.next ?_
  refine Keeps.comp (scratchWriteCtl_keeps ..) ?_
  exact Keeps.refl _

theorem execCompatEnable_keeps (h) (s) : KeepsNext s (execCompatEnable h s) := by
  unfold execCompatEnable
  refine KeepsNext.next ?_
  refine Keeps.comp (compatOn_keeps ..) ?_
  exact Keeps.refl _

theorem execCompatDisable_keeps (_h) (s) : KeepsNext s (execCompatDisable _h s) := by
  unfold execCompatDisable
  refine KeepsNext.next ?_
  refine Keeps.comp (Dev.compatOff_keeps ..) ?_
  exact Keeps.refl _

theorem execCompatPagePin_keeps (_h) (n) (s) : KeepsNext s (execCompatPagePin _h n s) := by
  unfold execCompatPagePin
  refine KeepsNext.next ?_
  refine Keeps.comp (Dev.cmpPin_keeps ..) ?_
  exact Keeps.refl _

theorem execCompatPageUnpin_keeps (_h) (n) (s) : KeepsNext s (execCompatPageUnpin _h n s) := by
  unfold execCompatPageUnpin
  refine KeepsNext.next ?_
  refine Keeps.comp (Dev.cmpPin_keeps ..) ?_
  exact Keeps.refl _

theorem execInvalidationGo_keeps (_h) (s) : KeepsNext s (execInvalidationGo _h s) := by
  unfold execInvalidationGo
  refine KeepsNext.next ?_
  refine Keeps.comp (Dev.invGo_keeps ..) ?_
  exact Keeps.refl _

theorem execInvalidationDone_keeps (r) (s) : KeepsNext s (execInvalidationDone r s) := by
  unfold execInvalidationDone
  refine KeepsNext.next ?_
  refine Keeps.comp (silentOut_keeps ..) ?_
  refine Keeps.comp (Dev.invDone_keeps ..) ?_
  exact Keeps.refl _

theorem execTthRateWrite_keeps (_h) (value) (s) : KeepsNext s (execTthRateWrite _h value s) := by
  exact KeepsNext.of (execTthRateWrite_frame _ _ _) (by decide)

theorem execPtmResult_keeps (hostTime) (s) : KeepsNext s (execPtmResult hostTime s) := by
  unfold execPtmResult
  refine KeepsNext.next ?_
  refine Keeps.comp (Dev.ptmGot_keeps ..) ?_
  exact Keeps.refl _

theorem execProgramStartGate_keeps (m) (mode) (buf) (last) (s) : KeepsNext s (execProgramStartGate m mode buf last s) := by
  unfold execProgramStartGate
  refine KeepsNext.next ?_
  refine Keeps.comp (Dev.programGate_keeps ..) ?_
  exact Keeps.refl _

theorem execProgramOverrun_keeps (m) (s) : KeepsNext s (execProgramOverrun m s) := by
  unfold execProgramOverrun
  refine KeepsNext.next ?_
  refine Keeps.comp (Dev.overrun_keeps ..) ?_
  exact Keeps.refl _

theorem execTestWindowOpen_keeps (narrowEye) (narrowDie) (s) : KeepsNext s (execTestWindowOpen narrowEye narrowDie s) := by
  unfold execTestWindowOpen
  refine KeepsNext.next ?_
  refine Keeps.comp (windowOpen_keeps ..) ?_
  exact Keeps.refl _

theorem execLaunchSlotArm_keeps (h) (n) (value) (s) : KeepsNext s (execLaunchSlotArm h n value s) := by
  unfold execLaunchSlotArm
  refine KeepsNext.next ?_
  refine Keeps.comp (slotWrite_keeps ..) ?_
  exact Keeps.refl _

theorem execLaunchSlotDisarm_keeps (h) (n) (value) (s) : KeepsNext s (execLaunchSlotDisarm h n value s) := by
  unfold execLaunchSlotDisarm
  refine KeepsNext.next ?_
  refine Keeps.comp (slotWrite_keeps ..) ?_
  exact Keeps.refl _

theorem execLaunchSlotFire_keeps (n) (s) : KeepsNext s (execLaunchSlotFire n s) := by
  unfold execLaunchSlotFire
  refine KeepsNext.next ?_
  refine Keeps.comp (silentOut_keeps ..) ?_
  refine Keeps.comp (slotDue_keeps ..) ?_
  exact Keeps.refl _

theorem execGpioPulseEnd_keeps (pin) (s) : KeepsNext s (execGpioPulseEnd pin s) := by
  unfold execGpioPulseEnd
  refine KeepsNext.next ?_
  refine Keeps.comp (Dev.gpioEnd_keeps ..) ?_
  exact Keeps.refl _

theorem execNop_keeps (m) (err) (s) : KeepsNext s (execNop m err s) := by
  unfold execNop frameTo
  split
  · refine KeepsNext.next ?_
    refine Keeps.comp (Dev.sendFrame_keeps ..) ?_
    exact Keeps.refl _
  · exact KeepsNext.same _

theorem execRdLine_keeps (m) (err) (pa) (slot) (set) (mode) (s) : KeepsNext s (execRdLine m err pa slot set mode s) := by
  unfold execRdLine frameTo
  split
  · refine KeepsNext.next ?_
    refine Keeps.comp (Dev.sendFrame_keeps ..) ?_
    exact Keeps.refl _
  · exact KeepsNext.same _

theorem execRdLineSoft_keeps (m) (err) (pa) (slot) (set) (mode) (mask) (s) : KeepsNext s (execRdLineSoft m err pa slot set mode mask s) := by
  unfold execRdLineSoft frameLong
  conv => zeta
  split
  · refine KeepsNext.next ?_
    refine Keeps.comp (Dev.sendFrame_keeps ..) ?_
    refine Keeps.comp (Dev.setCtl_keeps ..) ?_
    exact Keeps.refl _
  · exact KeepsNext.same _

theorem execRdPage_keeps (m) (err) (pa) (set) (mode) (s) : KeepsNext s (execRdPage m err pa set mode s) := by
  unfold execRdPage
  conv => zeta
  split
  · refine KeepsNext.next ?_
    refine Keeps.comp (Dev.sendFrame_keeps ..) ?_
    refine Keeps.comp (Dev.count_keeps ..) ?_
    exact Keeps.refl _
  · exact KeepsNext.same _

theorem execRdRef_keeps (m) (err) (pa) (mode) (sweep) (s) : KeepsNext s (execRdRef m err pa mode sweep s) := by
  unfold execRdRef frameLong
  conv => zeta
  split
  · refine KeepsNext.next ?_
    refine Keeps.comp (Dev.sendFrame_keeps ..) ?_
    refine Keeps.comp (Dev.setCtl_keeps ..) ?_
    exact Keeps.refl _
  · exact KeepsNext.same _

theorem execLoad_keeps (m) (err) (pa) (buf) (entry) (data) (crc) (s) : KeepsNext s (execLoad m err pa buf entry data crc s) := by
  unfold execLoad
  conv => zeta
  split
  · refine KeepsNext.next ?_
    refine Keeps.comp (Dev.sendFrame_keeps ..) ?_
    refine Keeps.comp (Dev.count_keeps ..) ?_
    refine Keeps.comp (Dev.setChan_keeps ..) ?_
    exact Keeps.refl _
  · exact KeepsNext.same _

theorem execProgSlc_keeps (m) (err) (buf) (last) (s) : KeepsNext s (execProgSlc m err buf last s) := by
  unfold execProgSlc
  refine KeepsNext.next ?_
  refine Keeps.comp (Dev.programGate_keeps ..) ?_
  exact Keeps.refl _

theorem execProgMlc_keeps (m) (err) (buf) (last) (s) : KeepsNext s (execProgMlc m err buf last s) := by
  unfold execProgMlc
  refine KeepsNext.next ?_
  refine Keeps.comp (Dev.programGate_keeps ..) ?_
  exact Keeps.refl _

theorem execDieProgramEnd_keeps (m) (res) (s) : KeepsNext s (execDieProgramEnd m res s) := by
  unfold execDieProgramEnd
  refine KeepsNext.next ?_
  refine Keeps.comp (Dev.programEnd_keeps ..) ?_
  exact Keeps.refl _

theorem execStatus_keeps (m) (err) (s) : KeepsNext s (execStatus m err s) := by
  unfold execStatus frameTo
  split
  · refine KeepsNext.next ?_
    refine Keeps.comp (Dev.sendFrame_keeps ..) ?_
    exact Keeps.refl _
  · exact KeepsNext.same _

theorem execTemp_keeps (m) (err) (s) : KeepsNext s (execTemp m err s) := by
  unfold execTemp frameTo
  split
  · refine KeepsNext.next ?_
    refine Keeps.comp (Dev.sendFrame_keeps ..) ?_
    exact Keeps.refl _
  · exact KeepsNext.same _

theorem execReadId_keeps (m) (err) (s) : KeepsNext s (execReadId m err s) := by
  unfold execReadId frameTrain
  split
  · unfold Sys2Proof.Machine.frameTo
    split
    · refine KeepsNext.next ?_
      refine Keeps.comp (Dev.sendFrame_keeps ..) ?_
      exact Keeps.refl _
    · exact KeepsNext.same _
  · exact KeepsNext.same _

theorem execSetFeature_keeps (dies) (err) (addr) (value) (s) : KeepsNext s (execSetFeature dies err addr value s) := by
  unfold execSetFeature frameAll
  conv => zeta
  split
  · refine KeepsNext.next ?_
    refine Keeps.foldl (fun _ _ => ?_) ?_
    · refine Keeps.comp (Dev.sendFrame_keeps ..) ?_
      exact Keeps.refl _
    · exact Keeps.refl _
  · exact KeepsNext.same _

theorem execGetFeature_keeps (m) (err) (addr) (s) : KeepsNext s (execGetFeature m err addr s) := by
  unfold execGetFeature frameTo
  split
  · refine KeepsNext.next ?_
    refine Keeps.comp (Dev.sendFrame_keeps ..) ?_
    exact Keeps.refl _
  · exact KeepsNext.same _

theorem execTrainCa_keeps (m) (err) (s) : KeepsNext s (execTrainCa m err s) := by
  unfold execTrainCa frameTrain
  split
  · unfold Sys2Proof.Machine.frameTo
    split
    · refine KeepsNext.next ?_
      refine Keeps.comp (Dev.sendFrame_keeps ..) ?_
      exact Keeps.refl _
    · exact KeepsNext.same _
  · exact KeepsNext.same _

theorem execTrainRd_keeps (m) (err) (pattern) (s) : KeepsNext s (execTrainRd m err pattern s) := by
  unfold execTrainRd frameTrain
  split
  · unfold Sys2Proof.Machine.frameTo
    split
    · refine KeepsNext.next ?_
      refine Keeps.comp (Dev.sendFrame_keeps ..) ?_
      exact Keeps.refl _
    · exact KeepsNext.same _
  · exact KeepsNext.same _

theorem execTrainWr_keeps (m) (err) (data) (s) : KeepsNext s (execTrainWr m err data s) := by
  unfold execTrainWr frameTrain
  split
  · unfold Sys2Proof.Machine.frameTo
    split
    · refine KeepsNext.next ?_
      refine Keeps.comp (Dev.sendFrame_keeps ..) ?_
      exact Keeps.refl _
    · exact KeepsNext.same _
  · exact KeepsNext.same _

theorem execZqCal_keeps (m) (err) (s) : KeepsNext s (execZqCal m err s) := by
  unfold execZqCal frameTrain
  split
  · unfold Sys2Proof.Machine.frameTo
    split
    · refine KeepsNext.next ?_
      refine Keeps.comp (Dev.sendFrame_keeps ..) ?_
      exact Keeps.refl _
    · exact KeepsNext.same _
  · exact KeepsNext.same _

theorem execPdEnter_keeps (dies) (err) (s) : KeepsNext s (execPdEnter dies err s) := by
  unfold execPdEnter frameAll
  conv => zeta
  split
  · refine KeepsNext.next ?_
    refine Keeps.foldl (fun _ _ => ?_) ?_
    · refine Keeps.comp (Dev.sendFrame_keeps ..) ?_
      exact Keeps.refl _
    · exact Keeps.refl _
  · exact KeepsNext.same _

theorem execPdExit_keeps (dies) (err) (s) : KeepsNext s (execPdExit dies err s) := by
  unfold execPdExit frameAll
  conv => zeta
  split
  · refine KeepsNext.next ?_
    refine Keeps.foldl (fun _ _ => ?_) ?_
    · refine Keeps.comp (Dev.sendFrame_keeps ..) ?_
      exact Keeps.refl _
    · exact Keeps.refl _
  · exact KeepsNext.same _

theorem execReset_keeps (dies) (err) (s) : KeepsNext s (execReset dies err s) := by
  unfold execReset frameAll
  conv => zeta
  split
  · refine KeepsNext.next ?_
    refine Keeps.foldl (fun _ _ => ?_) ?_
    · refine Keeps.comp (Dev.sendFrame_keeps ..) ?_
      exact Keeps.refl _
    · exact Keeps.refl _
  · exact KeepsNext.same _

theorem execDieInitDone_keeps (m) (s) : KeepsNext s (execDieInitDone m s) := by
  unfold execDieInitDone
  refine KeepsNext.next ?_
  refine Keeps.comp (Dev.setDie_keeps ?_) ?_
  · exact fun h => ⟨(h.dies _).pages, (h.dies _).slots⟩
  exact Keeps.refl _

theorem execAlertConditionRepeat_keeps (m) (s) : KeepsNext s (execAlertConditionRepeat m s) := by
  unfold execAlertConditionRepeat
  conv => zeta
  split
  · refine KeepsNext.next ?_
    refine Keeps.comp (Keeps.of (Dev.emit_touches ..) (by decide)) ?_
    refine Keeps.comp (Dev.advance_keeps ..) ?_
    exact Keeps.refl _
  · exact KeepsNext.same _

theorem execAlertNLow_keeps (low) (s) : KeepsNext s (execAlertNLow low s) := by
  unfold execAlertNLow
  refine KeepsNext.next ?_
  refine Keeps.comp (Dev.alertLow_keeps ..) ?_
  exact Keeps.refl _

theorem execAlertLongLow_keeps (n) (s) : KeepsNext s (execAlertLongLow n s) := by
  unfold execAlertLongLow
  refine KeepsNext.next ?_
  refine Keeps.comp (Dev.alertLong_keeps ..) ?_
  exact Keeps.refl _

theorem execAlertStatusResponse_keeps (m) (st) (s) : KeepsNext s (execAlertStatusResponse m st s) := by
  unfold execAlertStatusResponse
  split
  · refine KeepsNext.next ?_
    refine Keeps.comp (alertStatus_keeps ..) ?_
    exact Keeps.refl _
  · exact KeepsNext.same _

theorem execAlertStuck_keeps (n) (s) : KeepsNext s (execAlertStuck n s) := by
  unfold execAlertStuck
  split
  · refine KeepsNext.next ?_
    refine Keeps.comp (Dev.declareChan_keeps ..) ?_
    exact Keeps.refl _
  · exact KeepsNext.same _

theorem execChannelTraining_keeps (n) (found) (s) : KeepsNext s (execChannelTraining n found s) := by
  unfold execChannelTraining
  refine KeepsNext.next ?_
  refine Keeps.comp (channelTraining_keeps ..) ?_
  exact Keeps.refl _

theorem execChannelTrained_keeps (n) (eyeRd) (eyeWr) (passed) (s) : KeepsNext s (execChannelTrained n eyeRd eyeWr passed s) := by
  unfold execChannelTrained
  refine KeepsNext.next ?_
  refine Keeps.comp (channelTrained_keeps ..) ?_
  exact Keeps.refl _

theorem execRetrainRequest_keeps (_h) (n) (s) : KeepsNext s (execRetrainRequest _h n s) := by
  unfold execRetrainRequest
  conv => zeta
  split
  · refine KeepsNext.next ?_
    refine Keeps.comp (Dev.setReg_keeps ..) ?_
    refine Keeps.comp (Dev.retrainAsk_keeps ..) ?_
    exact Keeps.refl _
  · exact KeepsNext.same _

theorem execRetrainTimer_keeps (n) (s) : KeepsNext s (execRetrainTimer n s) := by
  unfold execRetrainTimer
  conv => zeta
  split
  · refine KeepsNext.next ?_
    refine Keeps.comp (Dev.retrainAsk_keeps ..) ?_
    refine Keeps.comp (Dev.advance_keeps ..) ?_
    exact Keeps.refl _
  · exact KeepsNext.same _

theorem execRetrainComplete_keeps (n) (eyeRd) (eyeWr) (code) (s) : KeepsNext s (execRetrainComplete n eyeRd eyeWr code s) := by
  unfold execRetrainComplete
  refine KeepsNext.next ?_
  refine Keeps.comp (Dev.retrained_keeps ..) ?_
  exact Keeps.refl _

theorem execRowUpdateStart_keeps (g) (row) (mode) (lines) (s) : KeepsNext s (execRowUpdateStart g row mode lines s) := by
  unfold execRowUpdateStart
  refine KeepsNext.next ?_
  refine Keeps.comp (Dev.rowStart_keeps ..) ?_
  exact Keeps.refl _

theorem execRowUpdateDone_keeps (g) (row) (s) : KeepsNext s (execRowUpdateDone g row s) := by
  unfold execRowUpdateDone
  refine KeepsNext.next ?_
  refine Keeps.comp (Dev.rowDone_keeps ..) ?_
  exact Keeps.refl _

theorem execBridleGrant_keeps (n) (s) : KeepsNext s (execBridleGrant n s) := by
  unfold execBridleGrant
  refine KeepsNext.next ?_
  refine Keeps.comp (Dev.bridleBeat_keeps ..) ?_
  exact Keeps.refl _

theorem execBridleRankWrite_keeps (_h) (q) (value) (s) : KeepsNext s (execBridleRankWrite _h q value s) := by
  unfold execBridleRankWrite
  refine KeepsNext.next ?_
  refine Keeps.comp (Dev.keepCfg_keeps ..) ?_
  refine Keeps.comp (Dev.rankWrite_keeps ..) ?_
  exact Keeps.refl _

theorem execDieDeclaredFailed_keeps (m) (cause) (s) : KeepsNext s (execDieDeclaredFailed m cause s) := by
  unfold execDieDeclaredFailed
  split
  · refine KeepsNext.next ?_
    refine Keeps.comp (failDie_keeps ..) ?_
    exact Keeps.refl _
  · exact KeepsNext.same _

theorem execChannelDeclaredFailed_keeps (n) (cause) (s) : KeepsNext s (execChannelDeclaredFailed n cause s) := by
  unfold execChannelDeclaredFailed
  split
  · refine KeepsNext.next ?_
    refine Keeps.comp (Dev.declareChan_keeps ..) ?_
    exact Keeps.refl _
  · exact KeepsNext.same _

theorem execFaultDieReset_keeps (m) (s) : KeepsNext s (execFaultDieReset m s) := by
  unfold execFaultDieReset
  conv => zeta
  split
  · refine KeepsNext.next ?_
    refine Keeps.comp (Dev.sendFrame_keeps ..) ?_
    refine Keeps.comp (Dev.setCtl_keeps ..) ?_
    exact Keeps.refl _
  · exact KeepsNext.same _

theorem execLineRepair_keeps (dpa) (s) : KeepsNext s (execLineRepair dpa s) := by
  unfold execLineRepair
  refine KeepsNext.next ?_
  refine Keeps.comp (Dev.lineRepair_keeps ..) ?_
  exact Keeps.refl _

theorem execPoisonConfirmation_keeps (dpa) (good) (s) : KeepsNext s (execPoisonConfirmation dpa good s) := by
  unfold execPoisonConfirmation
  refine KeepsNext.next ?_
  refine Keeps.comp (confirmLine_keeps ..) ?_
  exact Keeps.refl _

theorem execSurveyTract_keeps (g) (index) (pos) (codes) (s) : KeepsNext s (execSurveyTract g index pos codes s) := by
  exact KeepsNext.of (execSurveyTract_frame _ _ _ _ _) (by decide)

theorem execThresholdRecompute_keeps (r) (s) : KeepsNext s (execThresholdRecompute r s) := by
  unfold execThresholdRecompute
  split
  · refine KeepsNext.next ?_
    refine Keeps.comp (Dev.thresholds_keeps ..) ?_
    exact Keeps.refl _
  · exact KeepsNext.same _

theorem execResurveyTract_keeps (g) (index) (pos) (codes) (s) : KeepsNext s (execResurveyTract g index pos codes s) := by
  exact KeepsNext.of (execResurveyTract_frame _ _ _ _ _) (by decide)

theorem execRefreshStart_keeps (tract) (s) : KeepsNext s (execRefreshStart tract s) := by
  unfold execRefreshStart
  refine KeepsNext.next ?_
  refine Keeps.comp (migStart_keeps ..) ?_
  exact Keeps.refl _

theorem execScrubRow_keeps (tract) (row) (worst) (found) (parityBad) (s) : KeepsNext s (execScrubRow tract row worst found parityBad s) := by
  unfold execScrubRow
  refine KeepsNext.next ?_
  refine Keeps.comp (scrubRow_keeps ..) ?_
  exact Keeps.refl _

theorem execMetadataWriteback_keeps (line) (s) : KeepsNext s (execMetadataWriteback line s) := by
  exact KeepsNext.of (execMetadataWriteback_frame _ _) (by decide)

theorem execCounterLineWriteback_keeps (page) (s) : KeepsNext s (execCounterLineWriteback page s) := by
  exact KeepsNext.of (execCounterLineWriteback_frame _ _) (by decide)

theorem execGapMove_keeps (tract) (s) : KeepsNext s (execGapMove tract s) := by
  exact KeepsNext.of (execGapMove_frame _ _) (by decide)

theorem execGapMoveDone_keeps (tract) (s) : KeepsNext s (execGapMoveDone tract s) := by
  unfold execGapMoveDone
  refine KeepsNext.next ?_
  refine Keeps.comp (gapDone_keeps ..) ?_
  exact Keeps.refl _

theorem execMigrationStart_keeps (tract) (why) (s) : KeepsNext s (execMigrationStart tract why s) := by
  unfold execMigrationStart
  conv => zeta
  refine KeepsNext.next ?_
  refine Keeps.comp (silentOut_keeps ..) ?_
  refine Keeps.ite ?_ ?_
  · refine Keeps.comp (Dev.rekeyEnd_keeps ..) ?_
    refine Keeps.comp (migStart_keeps ..) ?_
    exact Keeps.refl _
  · refine Keeps.comp (Dev.rekeyPump_keeps ..) ?_
    refine Keeps.comp (migStart_keeps ..) ?_
    exact Keeps.refl _

theorem execMigrationCopyDone_keeps (tract) (s) : KeepsNext s (execMigrationCopyDone tract s) := by
  unfold execMigrationCopyDone
  refine KeepsNext.next ?_
  refine Keeps.comp (migCopied_keeps ..) ?_
  exact Keeps.refl _

theorem execMigrationVerify_keeps (tract) (bad) (badAgain) (s) : KeepsNext s (execMigrationVerify tract bad badAgain s) := by
  unfold execMigrationVerify
  refine KeepsNext.next ?_
  refine Keeps.comp (migVerify_keeps ..) ?_
  exact Keeps.refl _

theorem execMigrationSwitch_keeps (tract) (s) : KeepsNext s (execMigrationSwitch tract s) := by
  unfold execMigrationSwitch
  refine KeepsNext.next ?_
  refine Keeps.comp (silentOut_keeps ..) ?_
  refine Keeps.comp (Dev.rekeyOn_keeps ..) ?_
  refine Keeps.comp (migSwitch_keeps ..) ?_
  exact Keeps.refl _

theorem execMigrationRelease_keeps (tract) (s) : KeepsNext s (execMigrationRelease tract s) := by
  unfold execMigrationRelease
  refine KeepsNext.next ?_
  refine Keeps.comp (silentOut_keeps ..) ?_
  refine Keeps.comp (Dev.rekeyPump_keeps ..) ?_
  refine Keeps.comp (migRelease_keeps ..) ?_
  exact Keeps.refl _

theorem execReencryptionRewrite_keeps (dpa) (s) : KeepsNext s (execReencryptionRewrite dpa s) := by
  unfold execReencryptionRewrite
  refine KeepsNext.next ?_
  refine Keeps.comp (reencRewrite_keeps ..) ?_
  exact Keeps.refl _

theorem execSlotDrainComplete_keeps (slot) (s) : KeepsNext s (execSlotDrainComplete slot s) := by
  unfold execSlotDrainComplete
  refine KeepsNext.next ?_
  refine Keeps.comp (Keeps.of (Dev.unlockSettle_touches ..) (by decide)) ?_
  refine Keeps.comp (silentOut_keeps ..) ?_
  refine Keeps.comp (sanPump_keeps ..) ?_
  refine Keeps.comp (Dev.slotDrained_keeps ..) ?_
  exact Keeps.refl _

theorem execDescriptorFetch_keeps (c) (descs) (fail) (s) : KeepsNext s (execDescriptorFetch c descs fail s) := by
  unfold execDescriptorFetch
  refine KeepsNext.next ?_
  refine Keeps.comp (descFetch_keeps ..) ?_
  exact Keeps.refl _

theorem execDescriptorStart_keeps (c) (s) : KeepsNext s (execDescriptorStart c s) := by
  unfold execDescriptorStart
  refine KeepsNext.next ?_
  refine Keeps.comp (descStart_keeps ..) ?_
  exact Keeps.refl _

theorem execSourceLineReturn_keeps (c) (v) (s) : KeepsNext s (execSourceLineReturn c v s) := by
  unfold execSourceLineReturn
  refine KeepsNext.next ?_
  refine Keeps.comp (sourceReturn_keeps ..) ?_
  exact Keeps.refl _

theorem execOutboundWrite_keeps (c) (n) (s) : KeepsNext s (execOutboundWrite c n s) := by
  unfold execOutboundWrite
  refine KeepsNext.next ?_
  refine Keeps.comp (outWrite_keeps ..) ?_
  exact Keeps.refl _

theorem execConfirmationComplete_keeps (c) (s) : KeepsNext s (execConfirmationComplete c s) := by
  unfold execConfirmationComplete
  refine KeepsNext.next ?_
  refine Keeps.comp (confirmed_keeps ..) ?_
  exact Keeps.refl _

theorem execOutboundCompletionTimeout_keeps (c) (why) (s) : KeepsNext s (execOutboundCompletionTimeout c why s) := by
  exact KeepsNext.of (execOutboundCompletionTimeout_frame _ _ _) (by decide)

theorem execListEnd_keeps (c) (s) : KeepsNext s (execListEnd c s) := by
  unfold execListEnd
  refine KeepsNext.next ?_
  refine Keeps.comp (silentOut_keeps ..) ?_
  refine Keeps.comp (listEnd_keeps ..) ?_
  exact Keeps.refl _

theorem execSnapshotBuildTract_keeps (h) (s) : KeepsNext s (execSnapshotBuildTract h s) := by
  exact KeepsNext.of (execSnapshotBuildTract_frame _ _) (by decide)

theorem execSnapshotComplete_keeps (h) (s) : KeepsNext s (execSnapshotComplete h s) := by
  unfold execSnapshotComplete
  refine KeepsNext.next ?_
  refine Keeps.comp (silentOut_keeps ..) ?_
  refine Keeps.comp (Dev.snapDone_keeps ..) ?_
  exact Keeps.refl _

theorem execQpEnable_keeps (h) (n) (value) (s) : KeepsNext s (execQpEnable h n value s) := by
  unfold execQpEnable
  refine KeepsNext.next ?_
  refine Keeps.comp (qpCfgWrite_keeps ..) ?_
  exact Keeps.refl _

theorem execQpDisable_keeps (h) (n) (value) (s) : KeepsNext s (execQpDisable h n value s) := by
  unfold execQpDisable
  refine KeepsNext.next ?_
  refine Keeps.comp (qpCfgWrite_keeps ..) ?_
  exact Keeps.refl _

theorem execQpIdle_keeps (n) (s) : KeepsNext s (execQpIdle n s) := by
  exact KeepsNext.of (execQpIdle_frame _ _) (by decide)

theorem execSqDoorbell_keeps (h) (n) (value) (s) : KeepsNext s (execSqDoorbell h n value s) := by
  unfold execSqDoorbell
  refine KeepsNext.next ?_
  refine Keeps.comp (sqDoor_keeps ..) ?_
  exact Keeps.refl _

theorem execCqDoorbell_keeps (h) (n) (value) (s) : KeepsNext s (execCqDoorbell h n value s) := by
  unfold execCqDoorbell
  refine KeepsNext.next ?_
  refine Keeps.comp (cqDoor_keeps ..) ?_
  exact Keeps.refl _

theorem execSqFetch_keeps (n) (entry) (parity) (s) : KeepsNext s (execSqFetch n entry parity s) := by
  unfold execSqFetch
  refine KeepsNext.next ?_
  refine Keeps.comp (sqTake_keeps ..) ?_
  exact Keeps.refl _

theorem execCqEntryWrite_keeps (h) (parity) (s) : KeepsNext s (execCqEntryWrite h parity s) := by
  unfold execCqEntryWrite
  refine KeepsNext.next ?_
  refine Keeps.comp (cqWrite_keeps ..) ?_
  exact Keeps.refl _

theorem execHeldCommandStart_keeps (h) (s) : KeepsNext s (execHeldCommandStart h s) := by
  unfold execHeldCommandStart
  refine KeepsNext.next ?_
  refine Keeps.comp (silentOut_keeps ..) ?_
  refine Keeps.comp (heldStart_keeps ..) ?_
  exact Keeps.refl _

theorem execInvalidOpcode_keeps (h) (s) : KeepsNext s (execInvalidOpcode h s) := by
  unfold execInvalidOpcode
  conv => zeta
  split
  · exact KeepsNext.same _
  · split
    · exact KeepsNext.same _
    · refine KeepsNext.next ?_
      refine Keeps.comp (Dev.finish_keeps ..) ?_
      exact Keeps.refl _

theorem execStream_keeps (h) (s) : KeepsNext s (execStream h s) := by
  unfold execStream
  refine KeepsNext.next ?_
  refine Keeps.comp (silentOut_keeps ..) ?_
  refine Keeps.comp (lciTake_keeps ..) ?_
  exact Keeps.refl _

theorem execCopy_keeps (h) (s) : KeepsNext s (execCopy h s) := by
  unfold execCopy
  refine KeepsNext.next ?_
  refine Keeps.comp (silentOut_keeps ..) ?_
  refine Keeps.comp (lciTake_keeps ..) ?_
  exact Keeps.refl _

theorem execInstall_keeps (h) (s) : KeepsNext s (execInstall h s) := by
  unfold execInstall
  refine KeepsNext.next ?_
  refine Keeps.comp (silentOut_keeps ..) ?_
  refine Keeps.comp (lciTake_keeps ..) ?_
  exact Keeps.refl _

theorem execVerify_keeps (h) (s) : KeepsNext s (execVerify h s) := by
  unfold execVerify
  refine KeepsNext.next ?_
  refine Keeps.comp (silentOut_keeps ..) ?_
  refine Keeps.comp (lciTake_keeps ..) ?_
  exact Keeps.refl _

theorem execSnapshot_keeps (h) (s) : KeepsNext s (execSnapshot h s) := by
  unfold execSnapshot
  refine KeepsNext.next ?_
  refine Keeps.comp (silentOut_keeps ..) ?_
  refine Keeps.comp (lciTake_keeps ..) ?_
  exact Keeps.refl _

theorem execStop_keeps (h) (s) : KeepsNext s (execStop h s) := by
  unfold execStop
  refine KeepsNext.next ?_
  refine Keeps.comp (silentOut_keeps ..) ?_
  refine Keeps.comp (lciTake_keeps ..) ?_
  exact Keeps.refl _

theorem execDictionaryRegister_keeps (h) (s) : KeepsNext s (execDictionaryRegister h s) := by
  unfold execDictionaryRegister
  refine KeepsNext.next ?_
  refine Keeps.comp (silentOut_keeps ..) ?_
  refine Keeps.comp (lciTake_keeps ..) ?_
  exact Keeps.refl _

theorem execDrop_keeps (h) (s) : KeepsNext s (execDrop h s) := by
  unfold execDrop
  refine KeepsNext.next ?_
  refine Keeps.comp (silentOut_keeps ..) ?_
  refine Keeps.comp (lciTake_keeps ..) ?_
  exact Keeps.refl _

theorem execDiscard_keeps (h) (s) : KeepsNext s (execDiscard h s) := by
  unfold execDiscard
  refine KeepsNext.next ?_
  refine Keeps.comp (silentOut_keeps ..) ?_
  refine Keeps.comp (lciTake_keeps ..) ?_
  exact Keeps.refl _

theorem execSanitize_keeps (h) (s) : KeepsNext s (execSanitize h s) := by
  unfold execSanitize
  refine KeepsNext.next ?_
  refine Keeps.comp (silentOut_keeps ..) ?_
  refine Keeps.comp (lciTake_keeps ..) ?_
  exact Keeps.refl _

theorem execKeyLoad_keeps (h) (s) : KeepsNext s (execKeyLoad h s) := by
  unfold execKeyLoad
  refine KeepsNext.next ?_
  refine Keeps.comp (silentOut_keeps ..) ?_
  refine Keeps.comp (lciTake_keeps ..) ?_
  exact Keeps.refl _

theorem execKeyEvict_keeps (h) (s) : KeepsNext s (execKeyEvict h s) := by
  unfold execKeyEvict
  refine KeepsNext.next ?_
  refine Keeps.comp (silentOut_keeps ..) ?_
  refine Keeps.comp (lciTake_keeps ..) ?_
  exact Keeps.refl _

theorem execKeyGenerate_keeps (h) (s) : KeepsNext s (execKeyGenerate h s) := by
  unfold execKeyGenerate
  refine KeepsNext.next ?_
  refine Keeps.comp (silentOut_keeps ..) ?_
  refine Keeps.comp (lciTake_keeps ..) ?_
  exact Keeps.refl _

theorem execEpochAdvance_keeps (h) (s) : KeepsNext s (execEpochAdvance h s) := by
  unfold execEpochAdvance
  refine KeepsNext.next ?_
  refine Keeps.comp (silentOut_keeps ..) ?_
  refine Keeps.comp (lciTake_keeps ..) ?_
  exact Keeps.refl _

theorem execRekey_keeps (h) (s) : KeepsNext s (execRekey h s) := by
  unfold execRekey
  refine KeepsNext.next ?_
  refine Keeps.comp (silentOut_keeps ..) ?_
  refine Keeps.comp (lciTake_keeps ..) ?_
  exact Keeps.refl _

theorem execLockAcquire_keeps (h) (s) : KeepsNext s (execLockAcquire h s) := by
  unfold execLockAcquire
  refine KeepsNext.next ?_
  refine Keeps.comp (silentOut_keeps ..) ?_
  refine Keeps.comp (lciTake_keeps ..) ?_
  exact Keeps.refl _

theorem execLockRelease_keeps (h) (s) : KeepsNext s (execLockRelease h s) := by
  unfold execLockRelease
  refine KeepsNext.next ?_
  refine Keeps.comp (silentOut_keeps ..) ?_
  refine Keeps.comp (lciTake_keeps ..) ?_
  exact Keeps.refl _

theorem execIdentify_keeps (h) (s) : KeepsNext s (execIdentify h s) := by
  unfold execIdentify
  refine KeepsNext.next ?_
  refine Keeps.comp (silentOut_keeps ..) ?_
  refine Keeps.comp (lciTake_keeps ..) ?_
  exact Keeps.refl _

theorem execQuery_keeps (h) (s) : KeepsNext s (execQuery h s) := by
  unfold execQuery
  refine KeepsNext.next ?_
  refine Keeps.comp (silentOut_keeps ..) ?_
  refine Keeps.comp (lciTake_keeps ..) ?_
  exact Keeps.refl _

theorem execSelfTest_keeps (h) (s) : KeepsNext s (execSelfTest h s) := by
  unfold execSelfTest
  refine KeepsNext.next ?_
  refine Keeps.comp (silentOut_keeps ..) ?_
  refine Keeps.comp (lciTake_keeps ..) ?_
  exact Keeps.refl _

theorem execLogFreeze_keeps (h) (s) : KeepsNext s (execLogFreeze h s) := by
  unfold execLogFreeze
  split
  · exact KeepsNext.same _
  · refine KeepsNext.next ?_
    refine Keeps.comp (silentOut_keeps ..) ?_
    refine Keeps.comp (lciTake_keeps ..) ?_
    exact Keeps.refl _

theorem execLogThaw_keeps (h) (s) : KeepsNext s (execLogThaw h s) := by
  unfold execLogThaw
  split
  · refine KeepsNext.next ?_
    refine Keeps.comp (silentOut_keeps ..) ?_
    refine Keeps.comp (lciTake_keeps ..) ?_
    exact Keeps.refl _
  · exact KeepsNext.same _

theorem execLogRead_keeps (h) (confirm) (s) : KeepsNext s (execLogRead h confirm s) := by
  unfold execLogRead
  refine KeepsNext.next ?_
  refine Keeps.comp (silentOut_keeps ..) ?_
  refine Keeps.comp (lciTake_keeps ..) ?_
  exact Keeps.refl _

theorem execUnfinishedRead_keeps (h) (confirm) (s) : KeepsNext s (execUnfinishedRead h confirm s) := by
  unfold execUnfinishedRead
  refine KeepsNext.next ?_
  refine Keeps.comp (silentOut_keeps ..) ?_
  refine Keeps.comp (lciTake_keeps ..) ?_
  exact Keeps.refl _

theorem execGetStatus_keeps (h) (s) : KeepsNext s (execGetStatus h s) := by
  unfold execGetStatus
  refine KeepsNext.next ?_
  refine rmRun_keeps _ _ _ _ _ (fun _ => ?_)
  exact rmStatusOf_keeps ..

theorem execReadLog_keeps (h) (s) : KeepsNext s (execReadLog h s) := by
  unfold execReadLog
  refine KeepsNext.next ?_
  refine rmRun_keeps _ _ _ _ _ (fun _ => ?_)
  exact rmLog_keeps ..

theorem execReadUnfinished_keeps (h) (s) : KeepsNext s (execReadUnfinished h s) := by
  unfold execReadUnfinished
  refine KeepsNext.next ?_
  refine rmRun_keeps _ _ _ _ _ (fun _ => ?_)
  exact rmUnfinished_keeps ..

theorem execImageWrite_keeps (h) (s) : KeepsNext s (execImageWrite h s) := by
  unfold execImageWrite
  refine KeepsNext.next ?_
  refine rmRun_keeps _ _ _ _ _ (fun _ => ?_)
  exact rmImage_keeps ..

theorem execImageSelect_keeps (h) (s) : KeepsNext s (execImageSelect h s) := by
  unfold execImageSelect
  split
  · refine KeepsNext.next ?_
    refine rmRun_keeps _ _ _ _ _ (fun _ => ?_)
    exact rmSelect_keeps ..
  · exact KeepsNext.same _

theorem execRmIdentify_keeps (h) (s) : KeepsNext s (execRmIdentify h s) := by
  unfold execRmIdentify
  refine KeepsNext.next ?_
  refine rmRun_keeps _ _ _ _ _ (fun _ => ?_)
  refine Keeps.comp (rmIdent_keeps ..) ?_
  exact Keeps.refl _

theorem execQueueClear_keeps (h) (s) : KeepsNext s (execQueueClear h s) := by
  unfold execQueueClear
  refine KeepsNext.next ?_
  refine rmRun_keeps _ _ _ _ _ (fun _ => ?_)
  refine Keeps.comp (rmClear_keeps ..) ?_
  exact Keeps.refl _

theorem execCxlIdentify_keeps (h) (s) : KeepsNext s (execCxlIdentify h s) := by
  unfold execCxlIdentify
  refine KeepsNext.next ?_
  refine mailRun_keeps _ _ _ _ (fun _ => ?_)
  refine Keeps.comp (Keeps.of (Dev.mail_touches ..) (by decide)) ?_
  exact Keeps.refl _

theorem execBackgroundOperationStatus_keeps (h) (s) : KeepsNext s (execBackgroundOperationStatus h s) := by
  unfold execBackgroundOperationStatus
  refine KeepsNext.next ?_
  refine mailRun_keeps _ _ _ _ (fun _ => ?_)
  refine Keeps.comp (Keeps.of (Dev.mail_touches ..) (by decide)) ?_
  exact Keeps.refl _

theorem execGetEventRecords_keeps (h) (log) (s) : KeepsNext s (execGetEventRecords h log s) := by
  unfold execGetEventRecords
  refine KeepsNext.next ?_
  refine mailRun_keeps _ _ _ _ (fun _ => ?_)
  refine Keeps.comp (Keeps.of (Dev.mail_touches ..) (by decide)) ?_
  exact Keeps.refl _

theorem execClearEventRecords_keeps (h) (log) (all) (handles) (s) : KeepsNext s (execClearEventRecords h log all handles s) := by
  unfold execClearEventRecords
  refine KeepsNext.next ?_
  refine mailRun_keeps _ _ _ _ (fun _ => ?_)
  refine Keeps.comp (clearEvents_keeps ..) ?_
  exact Keeps.refl _

theorem execGetEventInterruptPolicy_keeps (h) (s) : KeepsNext s (execGetEventInterruptPolicy h s) := by
  unfold execGetEventInterruptPolicy
  refine KeepsNext.next ?_
  refine mailRun_keeps _ _ _ _ (fun _ => ?_)
  refine Keeps.comp (Keeps.of (Dev.mail_touches ..) (by decide)) ?_
  exact Keeps.refl _

theorem execSetEventInterruptPolicy_keeps (h) (policy) (s) : KeepsNext s (execSetEventInterruptPolicy h policy s) := by
  unfold execSetEventInterruptPolicy
  refine KeepsNext.next ?_
  refine mailRun_keeps _ _ _ _ (fun _ => ?_)
  refine Keeps.comp (Keeps.of (Dev.mail_touches ..) (by decide)) ?_
  refine Keeps.comp (Dev.setHead_keeps ?_) ?_
  · exact fun h => ⟨(h.head _).info, (h.head _).warn, (h.head _).fail, (h.head _).fatal⟩
  exact Keeps.refl _

theorem execGetFwInfo_keeps (h) (s) : KeepsNext s (execGetFwInfo h s) := by
  unfold execGetFwInfo
  refine KeepsNext.next ?_
  refine mailRun_keeps _ _ _ _ (fun _ => ?_)
  refine Keeps.comp (Keeps.of (Dev.mail_touches ..) (by decide)) ?_
  exact Keeps.refl _

theorem execTransferFw_keeps (h) (slot) (offset) (data) (s) : KeepsNext s (execTransferFw h slot offset data s) := by
  unfold execTransferFw
  refine KeepsNext.next ?_
  refine mailRun_keeps _ _ _ _ (fun _ => ?_)
  refine Keeps.comp (fwTransfer_keeps ..) ?_
  exact Keeps.refl _

theorem execActivateFw_keeps (h) (slot) (s) : KeepsNext s (execActivateFw h slot s) := by
  unfold execActivateFw
  refine KeepsNext.next ?_
  refine mailRun_keeps _ _ _ _ (fun _ => ?_)
  refine Keeps.comp (fwActivate_keeps ..) ?_
  exact Keeps.refl _

theorem execGetTimestamp_keeps (h) (s) : KeepsNext s (execGetTimestamp h s) := by
  unfold execGetTimestamp
  conv => zeta
  refine KeepsNext.next ?_
  refine mailRun_keeps _ _ _ _ (fun _ => ?_)
  refine Keeps.comp (Keeps.of (Dev.mail_touches ..) (by decide)) ?_
  exact Keeps.refl _

theorem execSetTimestamp_keeps (h) (value) (s) : KeepsNext s (execSetTimestamp h value s) := by
  unfold execSetTimestamp
  conv => zeta
  refine KeepsNext.next ?_
  refine mailRun_keeps _ _ _ _ (fun _ => ?_)
  refine Keeps.comp (Keeps.of (Dev.mail_touches ..) (by decide)) ?_
  refine Keeps.comp (Dev.setHead_keeps ?_) ?_
  · exact fun h => ⟨(h.head _).info, (h.head _).warn, (h.head _).fail, (h.head _).fatal⟩
  exact Keeps.refl _

theorem execGetSupportedLogs_keeps (h) (s) : KeepsNext s (execGetSupportedLogs h s) := by
  unfold execGetSupportedLogs
  refine KeepsNext.next ?_
  refine mailRun_keeps _ _ _ _ (fun _ => ?_)
  refine Keeps.comp (Keeps.of (Dev.mail_touches ..) (by decide)) ?_
  exact Keeps.refl _

theorem execGetLog_keeps (h) (s) : KeepsNext s (execGetLog h s) := by
  unfold execGetLog
  refine KeepsNext.next ?_
  refine mailRun_keeps _ _ _ _ (fun _ => ?_)
  refine Keeps.comp (Keeps.of (Dev.mail_touches ..) (by decide)) ?_
  exact Keeps.refl _

theorem execIdentifyMemoryDevice_keeps (h) (s) : KeepsNext s (execIdentifyMemoryDevice h s) := by
  unfold execIdentifyMemoryDevice
  refine KeepsNext.next ?_
  refine mailRun_keeps _ _ _ _ (fun _ => ?_)
  refine Keeps.comp (Keeps.of (Dev.mail_touches ..) (by decide)) ?_
  exact Keeps.refl _

theorem execGetPartitionInfo_keeps (h) (s) : KeepsNext s (execGetPartitionInfo h s) := by
  unfold execGetPartitionInfo
  refine KeepsNext.next ?_
  refine mailRun_keeps _ _ _ _ (fun _ => ?_)
  refine Keeps.comp (Keeps.of (Dev.mail_touches ..) (by decide)) ?_
  exact Keeps.refl _

theorem execGetLsa_keeps (h) (offset) (len) (s) : KeepsNext s (execGetLsa h offset len s) := by
  unfold execGetLsa
  refine KeepsNext.next ?_
  refine mailRun_keeps _ _ _ _ (fun _ => ?_)
  refine Keeps.comp (Keeps.of (lsaGet_touches ..) (by decide)) ?_
  exact Keeps.refl _

theorem execSetLsa_keeps (h) (offset) (data) (s) : KeepsNext s (execSetLsa h offset data s) := by
  unfold execSetLsa
  refine KeepsNext.next ?_
  refine mailRun_keeps _ _ _ _ (fun _ => ?_)
  refine Keeps.comp (lsaSet_keeps ..) ?_
  exact Keeps.refl _

theorem execGetHealthInfo_keeps (h) (s) : KeepsNext s (execGetHealthInfo h s) := by
  unfold execGetHealthInfo
  refine KeepsNext.next ?_
  refine mailRun_keeps _ _ _ _ (fun _ => ?_)
  refine Keeps.comp (Keeps.of (healthInfo_touches ..) (by decide)) ?_
  exact Keeps.refl _

theorem execGetAlertConfiguration_keeps (h) (s) : KeepsNext s (execGetAlertConfiguration h s) := by
  unfold execGetAlertConfiguration
  refine KeepsNext.next ?_
  refine mailRun_keeps _ _ _ _ (fun _ => ?_)
  refine Keeps.comp (Keeps.of (Dev.mail_touches ..) (by decide)) ?_
  exact Keeps.refl _

theorem execSetAlertConfiguration_keeps (h) (value) (s) : KeepsNext s (execSetAlertConfiguration h value s) := by
  unfold execSetAlertConfiguration
  conv => zeta
  refine KeepsNext.next ?_
  refine mailRun_keeps _ _ _ _ (fun _ => ?_)
  refine Keeps.comp (Keeps.of (Dev.mail_touches ..) (by decide)) ?_
  refine Keeps.comp (Dev.settingPut_keeps ..) ?_
  refine Keeps.comp (Dev.setHead_keeps ?_) ?_
  · exact fun h => ⟨(h.head _).info, (h.head _).warn, (h.head _).fail, (h.head _).fatal⟩
  exact Keeps.refl _

theorem execGetShutdownState_keeps (h) (s) : KeepsNext s (execGetShutdownState h s) := by
  unfold execGetShutdownState
  refine KeepsNext.next ?_
  refine mailRun_keeps _ _ _ _ (fun _ => ?_)
  refine Keeps.comp (Keeps.of (Dev.mail_touches ..) (by decide)) ?_
  exact Keeps.refl _

theorem execSetShutdownState_keeps (h) (value) (s) : KeepsNext s (execSetShutdownState h value s) := by
  unfold execSetShutdownState
  conv => zeta
  refine KeepsNext.next ?_
  refine mailRun_keeps _ _ _ _ (fun _ => ?_)
  refine Keeps.comp (Keeps.of (Dev.mail_touches ..) (by decide)) ?_
  refine Keeps.comp (Dev.settingPut_keeps ..) ?_
  refine Keeps.comp (Dev.setHead_keeps ?_) ?_
  · exact fun h => ⟨(h.head _).info, (h.head _).warn, (h.head _).fail, (h.head _).fatal⟩
  exact Keeps.refl _

theorem execGetPoisonList_keeps (h) (s) : KeepsNext s (execGetPoisonList h s) := by
  unfold execGetPoisonList
  refine KeepsNext.next ?_
  refine mailRun_keeps _ _ _ _ (fun _ => ?_)
  refine Keeps.comp (Keeps.of (poisonGet_touches ..) (by decide)) ?_
  exact Keeps.refl _

theorem execInjectPoison_keeps (h) (dpa) (s) : KeepsNext s (execInjectPoison h dpa s) := by
  unfold execInjectPoison
  refine KeepsNext.next ?_
  refine mailRun_keeps _ _ _ _ (fun _ => ?_)
  refine Keeps.comp (mailWrite_keeps ..) ?_
  exact Keeps.refl _

theorem execClearPoison_keeps (h) (dpa) (data) (s) : KeepsNext s (execClearPoison h dpa data s) := by
  unfold execClearPoison
  refine KeepsNext.next ?_
  refine mailRun_keeps _ _ _ _ (fun _ => ?_)
  refine Keeps.comp (mailWrite_keeps ..) ?_
  exact Keeps.refl _

theorem execLinkTrained_keeps (h) (rate) (width) (s) : KeepsNext s (execLinkTrained h rate width s) := by
  unfold execLinkTrained
  refine KeepsNext.next ?_
  refine Keeps.comp (linkTrained_keeps ..) ?_
  exact Keeps.refl _

theorem execLinkStateChange_keeps (h) (st) (s) : KeepsNext s (execLinkStateChange h st s) := by
  unfold execLinkStateChange
  refine KeepsNext.next ?_
  refine Keeps.comp (linkState_keeps ..) ?_
  exact Keeps.refl _

theorem execBondedPortLost_keeps (h) (s) : KeepsNext s (execBondedPortLost h s) := by
  unfold execBondedPortLost
  refine KeepsNext.next ?_
  refine Keeps.comp (portLost_keeps ..) ?_
  exact Keeps.refl _

theorem execHdmDecoderCommit_keeps (h) (i) (base) (size) (skip) (lock) (form) (s) : KeepsNext s (execHdmDecoderCommit h i base size skip lock form s) := by
  unfold execHdmDecoderCommit
  refine KeepsNext.next ?_
  refine Keeps.comp (decoderCommit_keeps ..) ?_
  exact Keeps.refl _

theorem execHdmDecoderUncommit_keeps (h) (i) (s) : KeepsNext s (execHdmDecoderUncommit h i s) := by
  unfold execHdmDecoderUncommit
  refine KeepsNext.next ?_
  refine Keeps.comp (decoderUncommit_keeps ..) ?_
  exact Keeps.refl _

theorem execTwinEnable_keeps (h) (n) (value) (s) : KeepsNext s (execTwinEnable h n value s) := by
  unfold execTwinEnable
  refine KeepsNext.next ?_
  refine Keeps.comp (twinWrite_keeps ..) ?_
  exact Keeps.refl _

theorem execTwinDisable_keeps (h) (n) (value) (s) : KeepsNext s (execTwinDisable h n value s) := by
  unfold execTwinDisable
  refine KeepsNext.next ?_
  refine Keeps.comp (twinWrite_keeps ..) ?_
  exact Keeps.refl _

theorem execTwinDisableDone_keeps (n) (s) : KeepsNext s (execTwinDisableDone n s) := by
  unfold execTwinDisableDone
  refine KeepsNext.next ?_
  refine Keeps.comp (Keeps.of (Dev.unlockSettle_touches ..) (by decide)) ?_
  refine Keeps.comp (silentOut_keeps ..) ?_
  refine Keeps.comp (sanPump_keeps ..) ?_
  refine Keeps.comp (twinDone_keeps ..) ?_
  exact Keeps.refl _

theorem execTwinLock_keeps (h) (n) (value) (s) : KeepsNext s (execTwinLock h n value s) := by
  unfold execTwinLock
  refine KeepsNext.next ?_
  refine Keeps.comp (twinWrite_keeps ..) ?_
  exact Keeps.refl _

theorem execGpfPhase2Request_keeps (h) (s) : KeepsNext s (execGpfPhase2Request h s) := by
  exact KeepsNext.of (execGpfPhase2Request_frame _ _) (by decide)

theorem execIdeKmMessage_keeps (h) (keySet) (stream) (s) : KeepsNext s (execIdeKmMessage h keySet stream s) := by
  unfold execIdeKmMessage
  refine KeepsNext.next ?_
  refine Keeps.comp (ideKm_keeps ..) ?_
  exact Keeps.refl _

theorem execDoeRequest_keeps (h) (k) (arg) (s) : KeepsNext s (execDoeRequest h k arg s) := by
  unfold execDoeRequest
  refine KeepsNext.next ?_
  refine Keeps.comp (doeAnswer_keeps ..) ?_
  exact Keeps.refl _

theorem execD3hotEntry_keeps (h) (s) : KeepsNext s (execD3hotEntry h s) := by
  unfold execD3hotEntry
  refine KeepsNext.next ?_
  refine Keeps.comp (d3hot_keeps ..) ?_
  exact Keeps.refl _

theorem execD0Return_keeps (h) (s) : KeepsNext s (execD0Return h s) := by
  unfold execD0Return
  refine KeepsNext.next ?_
  refine Keeps.comp (d0Back_keeps ..) ?_
  exact Keeps.refl _

theorem execD3coldEntry_keeps (h) (s) : KeepsNext s (execD3coldEntry h s) := by
  unfold execD3coldEntry
  refine KeepsNext.next ?_
  refine Keeps.comp (silentOut_keeps ..) ?_
  refine Keeps.comp (d3coldIn_keeps ..) ?_
  exact Keeps.refl _

theorem execConventionalReset_keeps (h) (s) : KeepsNext s (execConventionalReset h s) := by
  unfold execConventionalReset
  refine KeepsNext.next ?_
  refine Keeps.comp (conventional_keeps ..) ?_
  exact Keeps.refl _

theorem execFlr_keeps (h) (s) : KeepsNext s (execFlr h s) := by
  unfold execFlr
  refine KeepsNext.next ?_
  refine Keeps.comp (functionReset_keeps ..) ?_
  exact Keeps.refl _

theorem execCxlReset_keeps (h) (s) : KeepsNext s (execCxlReset h s) := by
  unfold execCxlReset
  refine KeepsNext.next ?_
  refine Keeps.comp (cxlResetHead_keeps ..) ?_
  exact Keeps.refl _

theorem execDeviceReset_keeps (h) (value) (s) : KeepsNext s (execDeviceReset h value s) := by
  unfold execDeviceReset
  refine KeepsNext.next ?_
  refine Keeps.comp (rstWrite_keeps ..) ?_
  exact Keeps.refl _

theorem execLockstepMismatch_keeps (p) (s) : KeepsNext s (execLockstepMismatch p s) := by
  unfold execLockstepMismatch
  refine KeepsNext.next ?_
  refine Keeps.comp (pairFail_keeps ..) ?_
  exact Keeps.refl _

theorem execCoreMemoryUncorrectable_keeps (p) (s) : KeepsNext s (execCoreMemoryUncorrectable p s) := by
  unfold execCoreMemoryUncorrectable
  refine KeepsNext.next ?_
  refine Keeps.comp (pairFail_keeps ..) ?_
  exact Keeps.refl _

theorem execWatchdogPet_keeps (p) (value) (s) : KeepsNext s (execWatchdogPet p value s) := by
  exact KeepsNext.of (execWatchdogPet_frame _ _ _) (by decide)

theorem execWatchdogExpiry_keeps (p) (s) : KeepsNext s (execWatchdogExpiry p s) := by
  unfold execWatchdogExpiry
  refine KeepsNext.next ?_
  refine Keeps.comp (wdogExpire_keeps ..) ?_
  exact Keeps.refl _

theorem execSemaphoreAcquire_keeps (p) (n) (s) : KeepsNext s (execSemaphoreAcquire p n s) := by
  exact KeepsNext.of (execSemaphoreAcquire_frame _ _ _) (by decide)

theorem execSemaphoreRelease_keeps (p) (n) (s) : KeepsNext s (execSemaphoreRelease p n s) := by
  unfold execSemaphoreRelease
  split
  · refine KeepsNext.next ?_
    refine Keeps.comp (Dev.semRelease_keeps ..) ?_
    exact Keeps.refl _
  · exact KeepsNext.same _

theorem execIcuSourceEdge_keeps (src) (s) : KeepsNext s (execIcuSourceEdge src s) := by
  unfold execIcuSourceEdge
  refine KeepsNext.next ?_
  refine Keeps.comp (Dev.icu_keeps ..) ?_
  exact Keeps.refl _

theorem execIcuPendingClear_keeps (k) (value) (s) : KeepsNext s (execIcuPendingClear k value s) := by
  unfold execIcuPendingClear
  refine KeepsNext.next ?_
  refine Keeps.comp (Dev.setReg_keeps ..) ?_
  exact Keeps.refl _

theorem execIcuSoftwareInterrupt_keeps (value) (s) : KeepsNext s (execIcuSoftwareInterrupt value s) := by
  unfold execIcuSoftwareInterrupt
  refine KeepsNext.next ?_
  refine Keeps.comp (Dev.swiWrite_keeps ..) ?_
  exact Keeps.refl _

theorem execIcuEoi_keeps (p) (value) (s) : KeepsNext s (execIcuEoi p value s) := by
  unfold execIcuEoi
  refine KeepsNext.next ?_
  refine Keeps.comp (eoi_keeps ..) ?_
  exact Keeps.refl _

theorem execIcuEnableChange_keeps (target) (value) (s) : KeepsNext s (execIcuEnableChange target value s) := by
  unfold execIcuEnableChange
  refine KeepsNext.next ?_
  split
  · refine Keeps.comp (Dev.srcWrite_keeps ..) ?_
    exact Keeps.refl _
  · refine Keeps.comp (Dev.gctlWrite_keeps ..) ?_
    exact Keeps.refl _

theorem execIcuCfgLock_keeps (value) (s) : KeepsNext s (execIcuCfgLock value s) := by
  unfold execIcuCfgLock
  refine KeepsNext.next ?_
  refine Keeps.comp (Dev.gctlWrite_keeps ..) ?_
  exact Keeps.refl _

theorem execMsixMessage_keeps (h) (vec) (s) : KeepsNext s (execMsixMessage h vec s) := by
  unfold execMsixMessage
  split
  · refine KeepsNext.next ?_
    refine Keeps.comp (Dev.msixSend_keeps ..) ?_
    exact Keeps.refl _
  · exact KeepsNext.same _

theorem execMsixUnmask_keeps (h) (vec) (s) : KeepsNext s (execMsixUnmask h vec s) := by
  unfold execMsixUnmask
  conv => zeta
  refine KeepsNext.next ?_
  refine Keeps.comp (Dev.msixDrain_keeps ..) ?_
  split
  · refine Keeps.comp (Dev.setRbit_keeps ..) ?_
    exact Keeps.refl _
  · refine Keeps.comp (Dev.setHead_keeps ?_) ?_
    · exact fun h => ⟨(h.head _).info, (h.head _).warn, (h.head _).fail, (h.head _).fatal⟩
    exact Keeps.refl _

theorem execRailValid_keeps (ch) (s) : KeepsNext s (execRailValid ch s) := by
  exact KeepsNext.of (execRailValid_frame _ _) (by decide)

theorem execRailFault_keeps (ch) (kind) (s) : KeepsNext s (execRailFault ch kind s) := by
  unfold execRailFault
  refine KeepsNext.next ?_
  refine Keeps.comp (railFault_keeps ..) ?_
  exact Keeps.refl _

theorem execRailRampTimeout_keeps (ch) (s) : KeepsNext s (execRailRampTimeout ch s) := by
  unfold execRailRampTimeout
  refine KeepsNext.next ?_
  refine Keeps.comp (railRamp_keeps ..) ?_
  exact Keeps.refl _

theorem execRailRetry_keeps (ch) (s) : KeepsNext s (execRailRetry ch s) := by
  unfold execRailRetry
  refine KeepsNext.next ?_
  refine Keeps.comp (railRetry_keeps ..) ?_
  exact Keeps.refl _

theorem execFaultNPulseEnd_keeps (stillLow) (s) : KeepsNext s (execFaultNPulseEnd stillLow s) := by
  unfold execFaultNPulseEnd
  refine KeepsNext.next ?_
  refine Keeps.comp (pulseEnd_keeps ..) ?_
  exact Keeps.refl _

theorem execMarginSet_keeps (h) (value) (s) : KeepsNext s (execMarginSet h value s) := by
  unfold execMarginSet
  refine KeepsNext.next ?_
  refine viaHead_keeps _ _ _ _ (fun _ => ?_)
  refine Keeps.comp (marginWrite_keeps ..) ?_
  exact Keeps.refl _

theorem execMarginClear_keeps (h) (value) (s) : KeepsNext s (execMarginClear h value s) := by
  unfold execMarginClear
  refine KeepsNext.next ?_
  refine viaHead_keeps _ _ _ _ (fun _ => ?_)
  refine Keeps.comp (marginWrite_keeps ..) ?_
  exact Keeps.refl _

theorem execInputValid_keeps (vin) (s) : KeepsNext s (execInputValid vin s) := by
  unfold execInputValid
  refine KeepsNext.next ?_
  refine Keeps.comp (inputGood_keeps ..) ?_
  exact Keeps.refl _

theorem execInputFail_keeps (vin) (s) : KeepsNext s (execInputFail vin s) := by
  unfold execInputFail
  refine KeepsNext.next ?_
  refine Keeps.comp (inputBad_keeps ..) ?_
  exact Keeps.refl _

theorem execHoldupMeasureStart_keeps (vhMv) (s) : KeepsNext s (execHoldupMeasureStart vhMv s) := by
  exact KeepsNext.of (execHoldupMeasureStart_frame _ _) (by decide)

theorem execHoldupMeasureEnd_keeps (fallNs) (completed) (s) : KeepsNext s (execHoldupMeasureEnd fallNs completed s) := by
  unfold execHoldupMeasureEnd
  refine KeepsNext.next ?_
  refine Keeps.comp (measureEnd_keeps ..) ?_
  exact Keeps.refl _

theorem execArmingEvaluation_keeps (vhMv) (s) : KeepsNext s (execArmingEvaluation vhMv s) := by
  unfold execArmingEvaluation
  refine KeepsNext.next ?_
  refine Keeps.comp (armEval_keeps ..) ?_
  exact Keeps.refl _

theorem execBringupStep_keeps (inp) (s) : KeepsNext s (execBringupStep inp s) := by
  unfold execBringupStep
  refine KeepsNext.next ?_
  refine Keeps.comp (bringupStep_keeps ..) ?_
  exact Keeps.refl _

theorem execReplayRestore_keeps (parts) (lost) (s) : KeepsNext s (execReplayRestore parts lost s) := by
  unfold execReplayRestore
  refine KeepsNext.next ?_
  refine Keeps.comp (replayRestore_keeps ..) ?_
  exact Keeps.refl _

theorem execSegmentPartsProgrammed_keeps (ok) (s) : KeepsNext s (execSegmentPartsProgrammed ok s) := by
  unfold execSegmentPartsProgrammed
  refine KeepsNext.next ?_
  refine Keeps.comp (segWritten_keeps ..) ?_
  exact Keeps.refl _

theorem execWakeEdge_keeps (pin) (rising) (s) : KeepsNext s (execWakeEdge pin rising s) := by
  unfold execWakeEdge
  refine KeepsNext.next ?_
  refine Keeps.comp (wakeSeen_keeps ..) ?_
  exact Keeps.refl _

theorem execRestExit_keeps (h) (s) : KeepsNext s (execRestExit h s) := by
  unfold execRestExit
  split
  · refine KeepsNext.next ?_
    refine Keeps.comp (perstUp_keeps ..) ?_
    exact Keeps.refl _
  · exact KeepsNext.same _

theorem execSensorConversion_keeps (i) (code) (ok) (s) : KeepsNext s (execSensorConversion i code ok s) := by
  unfold execSensorConversion
  refine KeepsNext.next ?_
  refine Keeps.comp (sensorStep_keeps ..) ?_
  exact Keeps.refl _

theorem execThermalRestart_keeps (code) (s) : KeepsNext s (execThermalRestart code s) := by
  unfold execThermalRestart
  refine KeepsNext.next ?_
  refine Keeps.comp (thermalUp_keeps ..) ?_
  exact Keeps.refl _

theorem execHousekeepingRound_keeps (rd0) (rd1) (dies) (s) : KeepsNext s (execHousekeepingRound rd0 rd1 dies s) := by
  unfold execHousekeepingRound
  refine KeepsNext.next ?_
  refine Keeps.comp (roundStart_keeps ..) ?_
  exact Keeps.refl _

theorem execAonTempRead_keeps (code) (s) : KeepsNext s (execAonTempRead code s) := by
  unfold execAonTempRead
  conv => zeta
  split
  · refine KeepsNext.next ?_
    refine Keeps.comp (Keeps.of (Touches.put_therm ..) (by decide)) ?_
    refine Keeps.comp (Dev.tick_keeps ..) ?_
    exact Keeps.refl _
  · exact KeepsNext.same _

theorem execSmbusArp_keeps (addr) (s) : KeepsNext s (execSmbusArp addr s) := by
  exact KeepsNext.of (execSmbusArp_frame _ _) (by decide)

theorem execSetEndpointId_keeps (eid) (op) (s) : KeepsNext s (execSetEndpointId eid op s) := by
  unfold execSetEndpointId
  refine KeepsNext.next ?_
  refine Keeps.comp (Keeps.of (Dev.setEid_touches ..) (by decide)) ?_
  refine Keeps.comp (Dev.mctp_keeps ..) ?_
  exact Keeps.refl _

theorem execGetMctpVersionSupport_keeps (type) (s) : KeepsNext s (execGetMctpVersionSupport type s) := by
  unfold execGetMctpVersionSupport
  refine KeepsNext.next ?_
  refine Keeps.comp (Keeps.of (Dev.mctpVersion_touches ..) (by decide)) ?_
  refine Keeps.comp (Dev.mctp_keeps ..) ?_
  exact Keeps.refl _

theorem execGetSensor_keeps (idx) (s) : KeepsNext s (execGetSensor idx s) := by
  unfold execGetSensor
  refine KeepsNext.next ?_
  refine Keeps.comp (Keeps.of (Dev.side_touches ..) (by decide)) ?_
  refine Keeps.comp (Dev.mctp_keeps ..) ?_
  exact Keeps.refl _

theorem execKeelWriteDone_keeps (page) (ok) (s) : KeepsNext s (execKeelWriteDone page ok s) := by
  unfold execKeelWriteDone
  refine KeepsNext.next ?_
  refine Keeps.comp (keelDone_keeps ..) ?_
  exact Keeps.refl _

theorem execEventRecord_keeps (code) (arg) (s) : KeepsNext s (execEventRecord code arg s) := by
  unfold execEventRecord
  refine KeepsNext.next ?_
  refine Keeps.comp (Dev.event_keeps ..) ?_
  exact Keeps.refl _

theorem execCounterClear_keeps (h) (n) (value) (s) : KeepsNext s (execCounterClear h n value s) := by
  unfold execCounterClear
  refine KeepsNext.next ?_
  refine Keeps.comp (cntWrite_keeps ..) ?_
  exact Keeps.refl _

theorem execCounterSnapshot_keeps (h) (s) : KeepsNext s (execCounterSnapshot h s) := by
  exact KeepsNext.of (execCounterSnapshot_frame _ _) (by decide)

theorem execHistogramSnapshot_keeps (h) (s) : KeepsNext s (execHistogramSnapshot h s) := by
  exact KeepsNext.of (execHistogramSnapshot_frame _ _) (by decide)

theorem execHistogramClear_keeps (h) (i) (value) (s) : KeepsNext s (execHistogramClear h i value s) := by
  unfold execHistogramClear
  refine KeepsNext.next ?_
  refine Keeps.comp (histWrite_keeps ..) ?_
  exact Keeps.refl _

theorem execSelfTestSliceRun_keeps (slice) (fault) (condition) (s) : KeepsNext s (execSelfTestSliceRun slice fault condition s) := by
  unfold execSelfTestSliceRun
  refine KeepsNext.next ?_
  refine Keeps.comp (silentOut_keeps ..) ?_
  refine Keeps.comp (sliceRun_keeps ..) ?_
  exact Keeps.refl _

theorem execSamplePreload_keeps (pins) (s) : KeepsNext s (execSamplePreload pins s) := by
  exact KeepsNext.of (execSamplePreload_frame _ _) (by decide)

theorem execBypass_keeps (code) (s) : KeepsNext s (execBypass code s) := by
  exact KeepsNext.of (execBypass_frame _ _) (by decide)

theorem execFxResp_keeps (r) (t) (s) : KeepsNext s (execFxResp r t s) := by
  unfold execFxResp
  refine KeepsNext.next ?_
  refine Keeps.comp (fxResponse_keeps ..) ?_
  exact Keeps.refl _

theorem execFxHalt_keeps (p) (s) : KeepsNext s (execFxHalt p s) := by
  unfold execFxHalt
  refine KeepsNext.next ?_
  refine fxRun_keeps _ _ (fun _ => ?_)
  refine Keeps.comp (Keeps.of (Dev.haltPair_touches ..) (by decide)) ?_
  exact Keeps.refl _

theorem execFxResume_keeps (p) (s) : KeepsNext s (execFxResume p s) := by
  unfold execFxResume
  refine KeepsNext.next ?_
  refine fxRun_keeps _ _ (fun _ => ?_)
  refine Keeps.comp (Keeps.of (Dev.resumePair_touches ..) (by decide)) ?_
  exact Keeps.refl _

theorem execFxStep_keeps (p) (after) (s) : KeepsNext s (execFxStep p after s) := by
  unfold execFxStep
  refine KeepsNext.next ?_
  refine fxRun_keeps _ _ (fun _ => ?_)
  refine Dev.onHalted_keeps _ _ _ (fun _ => ?_)
  refine Keeps.comp (Keeps.of (Dev.stepPair_touches ..) (by decide)) ?_
  exact Keeps.refl _

theorem execFxSetBreakpoint_keeps (p) (i) (addr) (s) : KeepsNext s (execFxSetBreakpoint p i addr s) := by
  unfold execFxSetBreakpoint
  refine KeepsNext.next ?_
  refine fxRun_keeps _ _ (fun _ => ?_)
  refine Keeps.comp (Keeps.of (Dev.setBkpt_touches ..) (by decide)) ?_
  exact Keeps.refl _

theorem execFxClearBreakpoint_keeps (p) (i) (s) : KeepsNext s (execFxClearBreakpoint p i s) := by
  unfold execFxClearBreakpoint
  refine KeepsNext.next ?_
  refine fxRun_keeps _ _ (fun _ => ?_)
  refine Keeps.comp (Keeps.of (Dev.setBkpt_touches ..) (by decide)) ?_
  exact Keeps.refl _

theorem execFxRead_keeps (raw) (addr) (s) : KeepsNext s (execFxRead raw addr s) := by
  unfold execFxRead
  refine KeepsNext.next ?_
  refine fxRun_keeps _ _ (fun _ => ?_)
  refine Keeps.comp (fxLoad_keeps ..) ?_
  exact Keeps.refl _

theorem execFxWrite_keeps (addr) (data) (s) : KeepsNext s (execFxWrite addr data s) := by
  unfold execFxWrite
  refine KeepsNext.next ?_
  refine fxRun_keeps _ _ (fun _ => ?_)
  refine Keeps.comp (fxStore_keeps ..) ?_
  exact Keeps.refl _

theorem execFxReadRegister_keeps (p) (i) (s) : KeepsNext s (execFxReadRegister p i s) := by
  unfold execFxReadRegister
  refine KeepsNext.next ?_
  refine fxRun_keeps _ _ (fun _ => ?_)
  refine Dev.onHalted_keeps _ _ _ (fun _ => ?_)
  refine Keeps.comp (Keeps.of (Dev.fxOut_touches ..) (by decide)) ?_
  exact Keeps.refl _

theorem execFxWriteRegister_keeps (p) (i) (data) (s) : KeepsNext s (execFxWriteRegister p i data s) := by
  unfold execFxWriteRegister
  conv => zeta
  refine KeepsNext.next ?_
  refine fxRun_keeps _ _ (fun _ => ?_)
  refine Dev.onHalted_keeps _ _ _ (fun _ => ?_)
  refine Keeps.comp (Keeps.of (Dev.stepPair_touches ..) (by decide)) ?_
  refine Keeps.comp (Keeps.of (Touches.put_dbg ..) (by decide)) ?_
  exact Keeps.refl _

theorem execFxSemaphoreAcquire_keeps (i) (s) : KeepsNext s (execFxSemaphoreAcquire i s) := by
  unfold execFxSemaphoreAcquire
  refine KeepsNext.next ?_
  refine fxRun_keeps _ _ (fun _ => ?_)
  refine Keeps.comp (Keeps.of (Dev.fxOut_touches ..) (by decide)) ?_
  refine Keeps.comp (Keeps.of (Dev.semAcquire_touches rfl) (by decide)) ?_
  exact Keeps.refl _

theorem execFxSemaphoreRelease_keeps (i) (s) : KeepsNext s (execFxSemaphoreRelease i s) := by
  unfold execFxSemaphoreRelease
  refine KeepsNext.next ?_
  refine fxRun_keeps _ _ (fun _ => ?_)
  refine Keeps.comp (Dev.semRelease_keeps ..) ?_
  exact Keeps.refl _

theorem execBreakpointHit_keeps (p) (i) (s) : KeepsNext s (execBreakpointHit p i s) := by
  exact KeepsNext.of (execBreakpointHit_frame _ _ _) (by decide)

theorem execRegisterAccessError_keeps (h) (kind) (off) (s) : KeepsNext s (execRegisterAccessError h kind off s) := by
  unfold execRegisterAccessError
  split
  · refine KeepsNext.next ?_
    refine Keeps.comp (Dev.regError_keeps ..) ?_
    exact Keeps.refl _
  · exact KeepsNext.same _

theorem execRegisterWrite_keeps (h) (off) (wide) (value) (s) : KeepsNext s (execRegisterWrite h off wide value s) := by
  unfold execRegisterWrite
  refine KeepsNext.next ?_
  refine Keeps.comp (hostRegWrite_keeps ..) ?_
  exact Keeps.refl _

theorem execPerstNDeasserted_keeps (h) (s) : KeepsNext s (execPerstNDeasserted h s) := by
  unfold execPerstNDeasserted
  refine KeepsNext.next ?_
  refine Keeps.comp (perstUp_keeps ..) ?_
  exact Keeps.refl _

theorem execOutboundReadCompletion_keeps (h) (tag) (data) (st) (s) : KeepsNext s (execOutboundReadCompletion h tag data st s) := by
  unfold execOutboundReadCompletion
  refine KeepsNext.next ?_
  refine Keeps.comp (silentOut_keeps ..) ?_
  refine Keeps.comp (readDone_keeps ..) ?_
  exact Keeps.refl _

theorem execUnsupportedM2sOpcode_keeps (h) (tag) (op) (s) : KeepsNext s (execUnsupportedM2sOpcode h tag op s) := by
  unfold execUnsupportedM2sOpcode
  conv => zeta
  split
  · exact KeepsNext.same _
  · refine KeepsNext.next ?_
    refine Keeps.comp (Keeps.of (Dev.emit_touches ..) (by decide)) ?_
    refine Keeps.comp (Dev.event_keeps ..) ?_
    refine Keeps.comp (Dev.useReq_keeps ..) ?_
    exact Keeps.refl _

theorem execSramWordCorrected_keeps (w) (s) : KeepsNext s (execSramWordCorrected w s) := by
  unfold execSramWordCorrected
  conv => zeta
  refine KeepsNext.next ?_
  split
  · refine Keeps.comp (Dev.cacheMacro_keeps ..) ?_
    refine Keeps.comp (Dev.bump_keeps ..) ?_
    exact Keeps.refl _
  · refine Keeps.comp (Dev.bump_keeps ..) ?_
    exact Keeps.refl _

theorem execUnsupportedMailboxCommand_keeps (h) (op) (s) : KeepsNext s (execUnsupportedMailboxCommand h op s) := by
  unfold execUnsupportedMailboxCommand
  split
  · exact KeepsNext.same _
  · refine KeepsNext.next ?_
    refine mailRun_keeps _ _ _ _ (fun _ => ?_)
    refine Keeps.comp (Keeps.of (Dev.mail_touches ..) (by decide)) ?_
    exact Keeps.refl _

theorem execIdeMacFailure_keeps (x) (s) : KeepsNext s (execIdeMacFailure x s) := by
  unfold execIdeMacFailure
  refine KeepsNext.next ?_
  refine Keeps.comp (ideFail_keeps ..) ?_
  exact Keeps.refl _

theorem execUnusedDStateWrite_keeps (_h) (_d) (s) : KeepsNext s (execUnusedDStateWrite _h _d s) := by
  exact KeepsNext.of (execUnusedDStateWrite_frame _ _ _) (by decide)

theorem execWritebackSelect_keeps (s) : KeepsNext s (execWritebackSelect s) := by
  unfold execWritebackSelect
  refine KeepsNext.next ?_
  refine Keeps.comp (writebackSelect_keeps ..) ?_
  exact Keeps.refl _

theorem execScratchChangeDone_keeps (s) : KeepsNext s (execScratchChangeDone s) := by
  unfold execScratchChangeDone
  refine KeepsNext.next ?_
  refine Keeps.comp (Dev.scratchDone_keeps ..) ?_
  exact Keeps.refl _

theorem execCompatChangeDone_keeps (s) : KeepsNext s (execCompatChangeDone s) := by
  unfold execCompatChangeDone
  refine KeepsNext.next ?_
  refine Keeps.comp (Dev.compatDone_keeps ..) ?_
  exact Keeps.refl _

theorem execFastClockReturn_keeps (s) : KeepsNext s (execFastClockReturn s) := by
  exact KeepsNext.of (execFastClockReturn_frame _) (by decide)

theorem execTetherSave_keeps (s) : KeepsNext s (execTetherSave s) := by
  unfold execTetherSave
  conv => zeta
  split
  · refine KeepsNext.next ?_
    refine Keeps.comp (Dev.lifePut_keeps ..) ?_
    refine Keeps.comp (Dev.advance_keeps ..) ?_
    exact Keeps.refl _
  · exact KeepsNext.same _

theorem execPtmRequestTimer_keeps (s) : KeepsNext s (execPtmRequestTimer s) := by
  unfold execPtmRequestTimer
  refine KeepsNext.next ?_
  refine Keeps.comp (Dev.ptmTimer_keeps ..) ?_
  exact Keeps.refl _

theorem execPtmHoldover_keeps (s) : KeepsNext s (execPtmHoldover s) := by
  unfold execPtmHoldover
  refine KeepsNext.next ?_
  refine Keeps.comp (Dev.ptmHold_keeps ..) ?_
  exact Keeps.refl _

theorem execPhaseStart_keeps (s) : KeepsNext s (execPhaseStart s) := by
  unfold execPhaseStart
  refine KeepsNext.next ?_
  refine Keeps.comp (Dev.tick_keeps ..) ?_
  exact Keeps.refl _

theorem execFrameStart_keeps (s) : KeepsNext s (execFrameStart s) := by
  unfold execFrameStart
  refine KeepsNext.next ?_
  refine Keeps.comp (Dev.frameBegin_keeps ..) ?_
  exact Keeps.refl _

theorem execTestWindowClose_keeps (s) : KeepsNext s (execTestWindowClose s) := by
  unfold execTestWindowClose
  refine KeepsNext.next ?_
  refine Keeps.comp (Dev.windowShut_keeps ..) ?_
  exact Keeps.refl _

theorem execTestWindowEarlyClose_keeps (s) : KeepsNext s (execTestWindowEarlyClose s) := by
  unfold execTestWindowEarlyClose
  refine KeepsNext.next ?_
  refine Keeps.comp (Dev.windowAbort_keeps ..) ?_
  exact Keeps.refl _

theorem execDriftLedgerSave_keeps (s) : KeepsNext s (execDriftLedgerSave s) := by
  exact KeepsNext.of (execDriftLedgerSave_frame _) (by decide)

theorem execHeatPeriodAdvance_keeps (s) : KeepsNext s (execHeatPeriodAdvance s) := by
  unfold execHeatPeriodAdvance
  refine KeepsNext.next ?_
  refine Keeps.comp (Dev.heatNext_keeps ..) ?_
  exact Keeps.refl _

theorem execZoneTargetRecompute_keeps (s) : KeepsNext s (execZoneTargetRecompute s) := by
  unfold execZoneTargetRecompute
  refine KeepsNext.next ?_
  refine Keeps.comp (zoneRecompute_keeps ..) ?_
  exact Keeps.refl _

theorem execWearSummarySave_keeps (s) : KeepsNext s (execWearSummarySave s) := by
  unfold execWearSummarySave
  conv => zeta
  split
  · refine KeepsNext.next ?_
    refine Keeps.comp (Dev.ringPut_keeps ..) ?_
    exact Keeps.refl _
  · exact KeepsNext.same _

theorem execWearLevelCheck_keeps (s) : KeepsNext s (execWearLevelCheck s) := by
  exact KeepsNext.of (execWearLevelCheck_frame _) (by decide)

theorem execFloorWarnRepeat_keeps (s) : KeepsNext s (execFloorWarnRepeat s) := by
  unfold execFloorWarnRepeat
  refine KeepsNext.next ?_
  refine Keeps.comp (floorRepeat_keeps ..) ?_
  exact Keeps.refl _

theorem execSealDevice_keeps (s) : KeepsNext s (execSealDevice s) := by
  unfold execSealDevice
  refine KeepsNext.next ?_
  refine Keeps.comp (sealDevice_keeps ..) ?_
  exact Keeps.refl _

theorem execFailoverTakeover_keeps (s) : KeepsNext s (execFailoverTakeover s) := by
  unfold execFailoverTakeover
  refine KeepsNext.next ?_
  refine Keeps.comp (takeover_keeps ..) ?_
  exact Keeps.refl _

theorem execStandbyPairFail_keeps (s) : KeepsNext s (execStandbyPairFail s) := by
  unfold execStandbyPairFail
  refine KeepsNext.next ?_
  refine Keeps.comp (Dev.standbyFail_keeps ..) ?_
  exact Keeps.refl _

theorem execCheckpoint_keeps (s) : KeepsNext s (execCheckpoint s) := by
  unfold execCheckpoint
  refine KeepsNext.next ?_
  refine Keeps.comp (Dev.checkpoint_keeps ..) ?_
  exact Keeps.refl _

theorem execIcuCommit_keeps (s) : KeepsNext s (execIcuCommit s) := by
  unfold execIcuCommit
  refine KeepsNext.next ?_
  refine Keeps.comp (Dev.commit_keeps ..) ?_
  refine Keeps.comp (Dev.commit_keeps ..) ?_
  exact Keeps.refl _

theorem execFuseFloorRaise_keeps (s) : KeepsNext s (execFuseFloorRaise s) := by
  unfold execFuseFloorRaise
  conv => zeta
  split
  · refine KeepsNext.next ?_
    refine Keeps.comp (Keeps.put_images ?_ ?_) ?_
    · exact fun h => h.norA
    · exact fun h => h.norB
    exact Keeps.refl _
  · exact KeepsNext.same _

theorem execSequenceStep_keeps (s) : KeepsNext s (execSequenceStep s) := by
  unfold execSequenceStep
  refine KeepsNext.next ?_
  refine Keeps.comp (sequenceStep_keeps ..) ?_
  exact Keeps.refl _

theorem execSystemReset_keeps (s) : KeepsNext s (execSystemReset s) := by
  unfold execSystemReset
  refine KeepsNext.next ?_
  refine Keeps.comp (systemReset_keeps ..) ?_
  exact Keeps.refl _

theorem execRestartAfterOff_keeps (s) : KeepsNext s (execRestartAfterOff s) := by
  unfold execRestartAfterOff
  refine KeepsNext.next ?_
  refine Keeps.comp (restartNow_keeps ..) ?_
  exact Keeps.refl _

theorem execFaultNNotice_keeps (s) : KeepsNext s (execFaultNNotice s) := by
  unfold execFaultNNotice
  refine KeepsNext.next ?_
  refine Keeps.comp (noticeSeen_keeps ..) ?_
  exact Keeps.refl _

theorem execFaultNFault_keeps (s) : KeepsNext s (execFaultNFault s) := by
  unfold execFaultNFault
  refine KeepsNext.next ?_
  refine Keeps.comp (faultSeen_keeps ..) ?_
  exact Keeps.refl _

theorem execFaultNReleased_keeps (s) : KeepsNext s (execFaultNReleased s) := by
  exact KeepsNext.of (execFaultNReleased_frame _) (by decide)

theorem execPwrReqAssert_keeps (s) : KeepsNext s (execPwrReqAssert s) := by
  unfold execPwrReqAssert
  refine KeepsNext.next ?_
  refine Keeps.comp (reqUp_keeps ..) ?_
  exact Keeps.refl _

theorem execPwrReqDeassert_keeps (s) : KeepsNext s (execPwrReqDeassert s) := by
  unfold execPwrReqDeassert
  refine KeepsNext.next ?_
  refine Keeps.comp (reqDown_keeps ..) ?_
  exact Keeps.refl _

theorem execReplayRepair_keeps (s) : KeepsNext s (execReplayRepair s) := by
  unfold execReplayRepair
  refine KeepsNext.next ?_
  refine Keeps.comp (replayRepair_keeps ..) ?_
  exact Keeps.refl _

theorem execSegmentRelease_keeps (s) : KeepsNext s (execSegmentRelease s) := by
  unfold execSegmentRelease
  refine KeepsNext.next ?_
  refine Keeps.comp (segRelease_keeps ..) ?_
  exact Keeps.refl _

theorem execRipcordEntry_keeps (s) : KeepsNext s (execRipcordEntry s) := by
  unfold execRipcordEntry
  refine KeepsNext.next ?_
  refine Keeps.comp (ripcordEntry_keeps ..) ?_
  exact Keeps.refl _

theorem execLateArrivalWindowEnd_keeps (s) : KeepsNext s (execLateArrivalWindowEnd s) := by
  unfold execLateArrivalWindowEnd
  refine KeepsNext.next ?_
  refine Keeps.comp (lateEnd_keeps ..) ?_
  exact Keeps.refl _

theorem execPhaseScheduleSuspend_keeps (s) : KeepsNext s (execPhaseScheduleSuspend s) := by
  unfold execPhaseScheduleSuspend
  refine KeepsNext.next ?_
  refine Keeps.comp (scheduleStop_keeps ..) ?_
  exact Keeps.refl _

theorem execFlushKeelWrites_keeps (s) : KeepsNext s (execFlushKeelWrites s) := by
  unfold execFlushKeelWrites
  refine KeepsNext.next ?_
  refine Keeps.comp (flushKeel_keeps ..) ?_
  exact Keeps.refl _

theorem execFlushRailsDown_keeps (s) : KeepsNext s (execFlushRailsDown s) := by
  unfold execFlushRailsDown
  refine KeepsNext.next ?_
  refine Keeps.comp (railsDown_keeps ..) ?_
  exact Keeps.refl _

theorem execShutdownFlush_keeps (s) : KeepsNext s (execShutdownFlush s) := by
  unfold execShutdownFlush
  refine KeepsNext.next ?_
  refine Keeps.comp (flushSaves_keeps ..) ?_
  exact Keeps.refl _

theorem execRestEntry_keeps (s) : KeepsNext s (execRestEntry s) := by
  unfold execRestEntry
  refine KeepsNext.next ?_
  refine Keeps.comp (restEntry_keeps ..) ?_
  exact Keeps.refl _

theorem execRoundEvaluate_keeps (s) : KeepsNext s (execRoundEvaluate s) := by
  unfold execRoundEvaluate
  refine KeepsNext.next ?_
  refine Keeps.comp (roundEval_keeps ..) ?_
  exact Keeps.refl _

theorem execGetEndpointId_keeps (s) : KeepsNext s (execGetEndpointId s) := by
  unfold execGetEndpointId
  refine KeepsNext.next ?_
  refine Keeps.comp (Keeps.of (Dev.side_touches ..) (by decide)) ?_
  refine Keeps.comp (Dev.mctp_keeps ..) ?_
  exact Keeps.refl _

theorem execGetMessageTypeSupport_keeps (s) : KeepsNext s (execGetMessageTypeSupport s) := by
  unfold execGetMessageTypeSupport
  refine KeepsNext.next ?_
  refine Keeps.comp (Keeps.of (Dev.side_touches ..) (by decide)) ?_
  refine Keeps.comp (Dev.mctp_keeps ..) ?_
  exact Keeps.refl _

theorem execGetHealth_keeps (s) : KeepsNext s (execGetHealth s) := by
  unfold execGetHealth
  refine KeepsNext.next ?_
  refine Keeps.comp (Keeps.of (Dev.side_touches ..) (by decide)) ?_
  refine Keeps.comp (Dev.mctp_keeps ..) ?_
  exact Keeps.refl _

theorem execGetIdentity_keeps (s) : KeepsNext s (execGetIdentity s) := by
  unfold execGetIdentity
  refine KeepsNext.next ?_
  refine Keeps.comp (Keeps.of (Dev.side_touches ..) (by decide)) ?_
  refine Keeps.comp (Dev.mctp_keeps ..) ?_
  exact Keeps.refl _

theorem execKeelWriteStart_keeps (s) : KeepsNext s (execKeelWriteStart s) := by
  unfold execKeelWriteStart
  refine KeepsNext.next ?_
  refine Keeps.comp (keelStart_keeps ..) ?_
  exact Keeps.refl _

theorem execLifeRecordWrite_keeps (s) : KeepsNext s (execLifeRecordWrite s) := by
  unfold execLifeRecordWrite
  split
  · refine KeepsNext.next ?_
    refine Keeps.comp (Dev.lifePut_keeps ..) ?_
    exact Keeps.refl _
  · exact KeepsNext.same _

theorem execOperatingSecond_keeps (s) : KeepsNext s (execOperatingSecond s) := by
  unfold execOperatingSecond
  refine KeepsNext.next ?_
  refine Keeps.comp (Dev.opSecond_keeps ..) ?_
  exact Keeps.refl _

theorem execRateLimitSecondEnd_keeps (s) : KeepsNext s (execRateLimitSecondEnd s) := by
  unfold execRateLimitSecondEnd
  conv => zeta
  split
  · refine KeepsNext.next ?_
    refine Keeps.comp (Dev.rateEnd_keeps ..) ?_
    refine Keeps.comp (Dev.tick_keeps ..) ?_
    exact Keeps.refl _
  · exact KeepsNext.same _

theorem execLogbookFlush_keeps (s) : KeepsNext s (execLogbookFlush s) := by
  unfold execLogbookFlush
  split
  · exact KeepsNext.same _
  · refine KeepsNext.next ?_
    refine Keeps.comp (Dev.flushLog_keeps ..) ?_
    exact Keeps.refl _

theorem execFreezeTimeout_keeps (s) : KeepsNext s (execFreezeTimeout s) := by
  unfold execFreezeTimeout
  conv => zeta
  split
  · exact KeepsNext.same _
  · split
    · refine KeepsNext.next ?_
      refine Keeps.comp (Dev.thaw_keeps ..) ?_
      exact Keeps.refl _
    · refine KeepsNext.next ?_
      refine Keeps.comp (Dev.thaw_keeps ..) ?_
      refine Keeps.comp (Dev.advance_keeps ..) ?_
      exact Keeps.refl _

theorem execUnitWindow_keeps (s) : KeepsNext s (execUnitWindow s) := by
  unfold execUnitWindow
  conv => zeta
  split
  · refine KeepsNext.next ?_
    refine Keeps.comp (Keeps.of (Touches.put_bst ..) (by decide)) ?_
    refine Keeps.comp (Dev.tick_keeps ..) ?_
    exact Keeps.refl _
  · exact KeepsNext.same _

theorem execPeriodicSliceQueue_keeps (s) : KeepsNext s (execPeriodicSliceQueue s) := by
  exact KeepsNext.of (execPeriodicSliceQueue_frame _) (by decide)

theorem execExtest_keeps (s) : KeepsNext s (execExtest s) := by
  exact KeepsNext.of (execExtest_frame _) (by decide)

theorem execIdcode_keeps (s) : KeepsNext s (execIdcode s) := by
  exact KeepsNext.of (execIdcode_frame _) (by decide)

theorem execClamp_keeps (s) : KeepsNext s (execClamp s) := by
  exact KeepsNext.of (execClamp_frame _) (by decide)

theorem execHighz_keeps (s) : KeepsNext s (execHighz s) := by
  exact KeepsNext.of (execHighz_frame _) (by decide)

theorem execFxStatus_keeps (s) : KeepsNext s (execFxStatus s) := by
  exact KeepsNext.of (execFxStatus_frame _) (by decide)

theorem execFxChal_keeps (s) : KeepsNext s (execFxChal s) := by
  exact KeepsNext.of (execFxChal_frame _) (by decide)

theorem execFxCloseSession_keeps (s) : KeepsNext s (execFxCloseSession s) := by
  unfold execFxCloseSession
  refine KeepsNext.next ?_
  refine fxRun_keeps _ _ (fun _ => ?_)
  exact Keeps.of (Dev.fxClose_touches ..) (by decide)

theorem execTapReset_keeps (s) : KeepsNext s (execTapReset s) := by
  exact KeepsNext.of (execTapReset_frame _) (by decide)

theorem execAonPowerUp_keeps (s) : KeepsNext s (execAonPowerUp s) := by
  unfold execAonPowerUp
  refine KeepsNext.next ?_
  refine Keeps.comp (aonUp_keeps ..) ?_
  exact Keeps.refl _

end Sys2Proof.Machine
end

