-- ==== Sys2Proof/Laws/State.lean ====
section
/-!
SUPPORT. One lemma per field and shared update: a field that the update leaves alone reads as before. Each follows from the
update's `_touches` lemma; the pure record updates hold by computation.
-/
namespace Sys2Proof.Machine

theorem Dev.head_same {d e : Dev} (h : Head) (p : e.a = d.a) (q : e.b = d.b) : e.head h = d.head h := by
  cases h
  · exact p
  · exact q

theorem Dev.reg_same {d e : Dev} (off : Nat) (p : e.regs = d.regs) : e.reg off = d.reg off := by unfold Dev.reg; rw [p]

@[simp] theorem Dev.setHead_head (d : Dev) (h k : Head) (x : HeadState) : (d.setHead h x).head k = if k = h then x else d.head k := by
  cases h <;> cases k <;> rfl


@[simp] theorem Dev.setCache_cache (d : Dev) (c : Cache) : (d.setCache c).cache = c := rfl

@[simp] theorem Dev.setMeta_tracts (d : Dev) (m : Meta) : (d.setMeta m).tracts = { d.tracts with cur := m } := rfl

@[simp] theorem Dev.setPair_pair (d : Dev) (p q : PairId) (x : Pair) : (d.setPair p x).pair q = if q = p then x else d.pair q := by
  cases p <;> cases q <;> rfl

@[simp] theorem Dev.setCmp_cmpEnt (d : Dev) (n k' : Nat) (x : CmpEntry) : (d.setCmp n x).cmpEnt k' = if k' = n then x else d.cmpEnt k' :=
  Tbl.look_put ..

@[simp] theorem Dev.setStaged_staged (d : Dev) (l k' : Nat) (x : Option GEntry) : (d.setStaged l x).staged k' = if k' = l then x else d.staged k' :=
  Tbl.look_put ..

@[simp] theorem Dev.setWb_wbEnt (d : Dev) (l k' : Nat) (x : Option GEntry) : (d.setWb l x).wbEnt k' = if k' = l then x else d.wbEnt k' :=
  Tbl.look_put ..

@[simp] theorem Dev.setDie_die (d : Dev) (m k' : Nat) (x : Die) : (d.setDie m x).die k' = if k' = m then x else d.die k' :=
  Tbl.look_put ..

@[simp] theorem Dev.setCtl_ctl (d : Dev) (m k' : Nat) (x : DieCtl) : (d.setCtl m x).ctl k' = if k' = m then x else d.ctl k' :=
  Tbl.look_put ..

@[simp] theorem Dev.setChan_chan (d : Dev) (n k' : Nat) (x : Channel) : (d.setChan n x).chan k' = if k' = n then x else d.chan k' :=
  Tbl.look_put ..

@[simp] theorem Dev.setGrp_grp (d : Dev) (g k' : Nat) (x : Group) : (d.setGrp g x).grp k' = if k' = g then x else d.grp k' :=
  Tbl.look_put ..

@[simp] theorem Dev.setQp_qp (d : Dev) (n k' : Nat) (x : Qp) : (d.setQp n x).qp k' = if k' = n then x else d.qp k' :=
  Tbl.look_put ..

@[simp] theorem Dev.setSchan_schan (d : Dev) (c k' : Nat) (x : SChan) : (d.setSchan c x).schan k' = if k' = c then x else d.schan k' :=
  Tbl.look_put ..

@[simp] theorem Dev.setSlot_slot (d : Dev) (k k' : Nat) (x : Slot) : (d.setSlot k x).slot k' = if k' = k then x else d.slot k' :=
  Tbl.look_put ..

@[simp] theorem Dev.setSeq_seqCh (d : Dev) (n k' : Nat) (x : SeqCh) : (d.setSeq n x).seqCh k' = if k' = n then x else d.seqCh k' :=
  Tbl.look_put ..

@[simp] theorem Dev.setSensor_sensor (d : Dev) (i k' : Nat) (x : Sensor) : (d.setSensor i x).sensor k' = if k' = i then x else d.sensor k' :=
  Tbl.look_put ..

@[simp] theorem Dev.setDie_ctl (d : Dev) (m k' : Nat) (x : Die) : (d.setDie m x).ctl k' = d.ctl k' := rfl

@[simp] theorem Dev.setDie_chan (d : Dev) (m k' : Nat) (x : Die) : (d.setDie m x).chan k' = d.chan k' := rfl

@[simp] theorem Dev.setDie_grp (d : Dev) (m k' : Nat) (x : Die) : (d.setDie m x).grp k' = d.grp k' := rfl

@[simp] theorem Dev.setCtl_die (d : Dev) (m k' : Nat) (x : DieCtl) : (d.setCtl m x).die k' = d.die k' := rfl

@[simp] theorem Dev.setCtl_chan (d : Dev) (m k' : Nat) (x : DieCtl) : (d.setCtl m x).chan k' = d.chan k' := rfl

@[simp] theorem Dev.setCtl_grp (d : Dev) (m k' : Nat) (x : DieCtl) : (d.setCtl m x).grp k' = d.grp k' := rfl

@[simp] theorem Dev.setChan_die (d : Dev) (n k' : Nat) (x : Channel) : (d.setChan n x).die k' = d.die k' := rfl

@[simp] theorem Dev.setChan_ctl (d : Dev) (n k' : Nat) (x : Channel) : (d.setChan n x).ctl k' = d.ctl k' := rfl

@[simp] theorem Dev.setChan_grp (d : Dev) (n k' : Nat) (x : Channel) : (d.setChan n x).grp k' = d.grp k' := rfl

@[simp] theorem Dev.setGrp_die (d : Dev) (g k' : Nat) (x : Group) : (d.setGrp g x).die k' = d.die k' := rfl

@[simp] theorem Dev.setGrp_ctl (d : Dev) (g k' : Nat) (x : Group) : (d.setGrp g x).ctl k' = d.ctl k' := rfl

@[simp] theorem Dev.setGrp_chan (d : Dev) (g k' : Nat) (x : Group) : (d.setGrp g x).chan k' = d.chan k' := rfl

@[simp] theorem Dev.setStaged_wbEnt (d : Dev) (l k' : Nat) (x : Option GEntry) : (d.setStaged l x).wbEnt k' = d.wbEnt k' := rfl

@[simp] theorem Dev.setWb_staged (d : Dev) (l k' : Nat) (x : Option GEntry) : (d.setWb l x).staged k' = d.staged k' := rfl

@[simp] theorem Dev.emit_out (d : Dev) (o : Out) : (d.emit o).out = o :: d.out := rfl

theorem Dev.chan_same {d e : Dev} (oo : Nat) (p : e.media = d.media) : e.chan oo = d.chan oo := by unfold Dev.chan; rw [p]
theorem Dev.die_same {d e : Dev} (oo : Nat) (p : e.media = d.media) : e.die oo = d.die oo := by unfold Dev.die; rw [p]
theorem Dev.ctl_same {d e : Dev} (oo : Nat) (p : e.media = d.media) : e.ctl oo = d.ctl oo := by unfold Dev.ctl; rw [p]
theorem Dev.grp_same {d e : Dev} (oo : Nat) (p : e.media = d.media) : e.grp oo = d.grp oo := by unfold Dev.grp; rw [p]
theorem Dev.qp_same {d e : Dev} (oo : Nat) (p : e.lci = d.lci) : e.qp oo = d.qp oo := by unfold Dev.qp; rw [p]
theorem Dev.cmd_same {d e : Dev} (oo : Nat) (p : e.lci = d.lci) : e.cmd oo = d.cmd oo := by unfold Dev.cmd; rw [p]
theorem Dev.ent_same {d e : Dev} (oo : Nat) (p : e.tracts = d.tracts) : e.ent oo = d.ent oo := by unfold Dev.ent; rw [p]
theorem Dev.hdr_same {d e : Dev} (oo : Nat) (p : e.tracts = d.tracts) : e.hdr oo = d.hdr oo := by unfold Dev.hdr; rw [p]
theorem Dev.phys_same {d e : Dev} (oo : Nat) (ii : Nat) (p : e.tracts = d.tracts) : e.phys oo ii = d.phys oo ii := by unfold Dev.phys; rw [p]
theorem Dev.slot_same {d e : Dev} (oo : Nat) (p : e.sec = d.sec) : e.slot oo = d.slot oo := by unfold Dev.slot; rw [p]
theorem Dev.schan_same {d e : Dev} (oo : Nat) (p : e.str = d.str) : e.schan oo = d.schan oo := by unfold Dev.schan; rw [p]
@[simp] theorem Dev.lifePut_regs (d) : (Dev.lifePut d).regs = d.regs := (Dev.lifePut_touches d).same .regs (by decide)
@[simp] theorem Dev.lifePut_a (d) : (Dev.lifePut d).a = d.a := (Dev.lifePut_touches d).same .a (by decide)
@[simp] theorem Dev.lifePut_b (d) : (Dev.lifePut d).b = d.b := (Dev.lifePut_touches d).same .b (by decide)
@[simp] theorem Dev.lifePut_launch (d) : (Dev.lifePut d).launch = d.launch := (Dev.lifePut_touches d).same .launch (by decide)
@[simp] theorem Dev.lifePut_gpio (d) : (Dev.lifePut d).gpio = d.gpio := (Dev.lifePut_touches d).same .gpio (by decide)
@[simp] theorem Dev.lifePut_log (d) : (Dev.lifePut d).log = d.log := (Dev.lifePut_touches d).same .log (by decide)
@[simp] theorem Dev.lifePut_aon (d) : (Dev.lifePut d).aon = d.aon := (Dev.lifePut_touches d).same .aon (by decide)
@[simp] theorem Dev.lifePut_cores (d) : (Dev.lifePut d).cores = d.cores := (Dev.lifePut_touches d).same .cores (by decide)
@[simp] theorem Dev.lifePut_sems (d) : (Dev.lifePut d).sems = d.sems := (Dev.lifePut_touches d).same .sems (by decide)
@[simp] theorem Dev.lifePut_images (d) : (Dev.lifePut d).images = d.images := (Dev.lifePut_touches d).same .images (by decide)
@[simp] theorem Dev.lifePut_pmc (d) : (Dev.lifePut d).pmc = d.pmc := (Dev.lifePut_touches d).same .pmc (by decide)
@[simp] theorem Dev.lifePut_bst (d) : (Dev.lifePut d).bst = d.bst := (Dev.lifePut_touches d).same .bst (by decide)
@[simp] theorem Dev.lifePut_dbg (d) : (Dev.lifePut d).dbg = d.dbg := (Dev.lifePut_touches d).same .dbg (by decide)
@[simp] theorem Dev.lifePut_gon (d) : (Dev.lifePut d).gon = d.gon := (Dev.lifePut_touches d).same .gon (by decide)
@[simp] theorem Dev.lifePut_cache (d) : (Dev.lifePut d).cache = d.cache := (Dev.lifePut_touches d).same .cache (by decide)
@[simp] theorem Dev.lifePut_media (d) : (Dev.lifePut d).media = d.media := (Dev.lifePut_touches d).same .media (by decide)
@[simp] theorem Dev.lifePut_tracts (d) : (Dev.lifePut d).tracts = d.tracts := (Dev.lifePut_touches d).same .tracts (by decide)
@[simp] theorem Dev.lifePut_drift (d) : (Dev.lifePut d).drift = d.drift := (Dev.lifePut_touches d).same .drift (by decide)
@[simp] theorem Dev.lifePut_sec (d) : (Dev.lifePut d).sec = d.sec := (Dev.lifePut_touches d).same .sec (by decide)
@[simp] theorem Dev.lifePut_str (d) : (Dev.lifePut d).str = d.str := (Dev.lifePut_touches d).same .str (by decide)
@[simp] theorem Dev.lifePut_lci (d) : (Dev.lifePut d).lci = d.lci := (Dev.lifePut_touches d).same .lci (by decide)
@[simp] theorem Dev.lifePut_pwr (d) : (Dev.lifePut d).pwr = d.pwr := (Dev.lifePut_touches d).same .pwr (by decide)
@[simp] theorem Dev.lifePut_therm (d) : (Dev.lifePut d).therm = d.therm := (Dev.lifePut_touches d).same .therm (by decide)
@[simp] theorem Dev.lifePut_out (d) : (Dev.lifePut d).out = d.out := (Dev.lifePut_touches d).same .out (by decide)
@[simp] theorem Dev.lifePut_fresh (d) : (Dev.lifePut d).fresh = d.fresh := (Dev.lifePut_touches d).same .fresh (by decide)
@[simp] theorem Dev.lifePut_head (d) (hd) : (Dev.lifePut d).head hd = d.head hd := Dev.head_same hd (Dev.lifePut_a d) (Dev.lifePut_b d)
@[simp] theorem Dev.lifePut_reg (d) (oo) : (Dev.lifePut d).reg oo = d.reg oo := Dev.reg_same oo (Dev.lifePut_regs d)
@[simp] theorem Dev.lifePut_chan (d) (oo) : (Dev.lifePut d).chan oo = d.chan oo := Dev.chan_same oo (Dev.lifePut_media d)
@[simp] theorem Dev.lifePut_die (d) (oo) : (Dev.lifePut d).die oo = d.die oo := Dev.die_same oo (Dev.lifePut_media d)
@[simp] theorem Dev.lifePut_ctl (d) (oo) : (Dev.lifePut d).ctl oo = d.ctl oo := Dev.ctl_same oo (Dev.lifePut_media d)
@[simp] theorem Dev.lifePut_grp (d) (oo) : (Dev.lifePut d).grp oo = d.grp oo := Dev.grp_same oo (Dev.lifePut_media d)
@[simp] theorem Dev.lifePut_qp (d) (oo) : (Dev.lifePut d).qp oo = d.qp oo := Dev.qp_same oo (Dev.lifePut_lci d)
@[simp] theorem Dev.lifePut_cmd (d) (oo) : (Dev.lifePut d).cmd oo = d.cmd oo := Dev.cmd_same oo (Dev.lifePut_lci d)
@[simp] theorem Dev.lifePut_ent (d) (oo) : (Dev.lifePut d).ent oo = d.ent oo := Dev.ent_same oo (Dev.lifePut_tracts d)
@[simp] theorem Dev.lifePut_hdr (d) (oo) : (Dev.lifePut d).hdr oo = d.hdr oo := Dev.hdr_same oo (Dev.lifePut_tracts d)
@[simp] theorem Dev.lifePut_phys (d) (oo) (ii) : (Dev.lifePut d).phys oo ii = d.phys oo ii := Dev.phys_same oo ii (Dev.lifePut_tracts d)
@[simp] theorem Dev.lifePut_slot (d) (oo) : (Dev.lifePut d).slot oo = d.slot oo := Dev.slot_same oo (Dev.lifePut_sec d)
@[simp] theorem Dev.lifePut_schan (d) (oo) : (Dev.lifePut d).schan oo = d.schan oo := Dev.schan_same oo (Dev.lifePut_str d)
@[simp] theorem Dev.tcTouch_regs (d) (id) (dirty) : (Dev.tcTouch d id dirty).regs = d.regs := (Dev.tcTouch_touches d id dirty).same .regs (by decide)
@[simp] theorem Dev.tcTouch_a (d) (id) (dirty) : (Dev.tcTouch d id dirty).a = d.a := (Dev.tcTouch_touches d id dirty).same .a (by decide)
@[simp] theorem Dev.tcTouch_b (d) (id) (dirty) : (Dev.tcTouch d id dirty).b = d.b := (Dev.tcTouch_touches d id dirty).same .b (by decide)
@[simp] theorem Dev.tcTouch_tether (d) (id) (dirty) : (Dev.tcTouch d id dirty).tether = d.tether := (Dev.tcTouch_touches d id dirty).same .tether (by decide)
@[simp] theorem Dev.tcTouch_launch (d) (id) (dirty) : (Dev.tcTouch d id dirty).launch = d.launch := (Dev.tcTouch_touches d id dirty).same .launch (by decide)
@[simp] theorem Dev.tcTouch_gpio (d) (id) (dirty) : (Dev.tcTouch d id dirty).gpio = d.gpio := (Dev.tcTouch_touches d id dirty).same .gpio (by decide)
@[simp] theorem Dev.tcTouch_keel (d) (id) (dirty) : (Dev.tcTouch d id dirty).keel = d.keel := (Dev.tcTouch_touches d id dirty).same .keel (by decide)
@[simp] theorem Dev.tcTouch_log (d) (id) (dirty) : (Dev.tcTouch d id dirty).log = d.log := (Dev.tcTouch_touches d id dirty).same .log (by decide)
@[simp] theorem Dev.tcTouch_aon (d) (id) (dirty) : (Dev.tcTouch d id dirty).aon = d.aon := (Dev.tcTouch_touches d id dirty).same .aon (by decide)
@[simp] theorem Dev.tcTouch_cores (d) (id) (dirty) : (Dev.tcTouch d id dirty).cores = d.cores := (Dev.tcTouch_touches d id dirty).same .cores (by decide)
@[simp] theorem Dev.tcTouch_sems (d) (id) (dirty) : (Dev.tcTouch d id dirty).sems = d.sems := (Dev.tcTouch_touches d id dirty).same .sems (by decide)
@[simp] theorem Dev.tcTouch_images (d) (id) (dirty) : (Dev.tcTouch d id dirty).images = d.images := (Dev.tcTouch_touches d id dirty).same .images (by decide)
@[simp] theorem Dev.tcTouch_pmc (d) (id) (dirty) : (Dev.tcTouch d id dirty).pmc = d.pmc := (Dev.tcTouch_touches d id dirty).same .pmc (by decide)
@[simp] theorem Dev.tcTouch_bst (d) (id) (dirty) : (Dev.tcTouch d id dirty).bst = d.bst := (Dev.tcTouch_touches d id dirty).same .bst (by decide)
@[simp] theorem Dev.tcTouch_dbg (d) (id) (dirty) : (Dev.tcTouch d id dirty).dbg = d.dbg := (Dev.tcTouch_touches d id dirty).same .dbg (by decide)
@[simp] theorem Dev.tcTouch_gon (d) (id) (dirty) : (Dev.tcTouch d id dirty).gon = d.gon := (Dev.tcTouch_touches d id dirty).same .gon (by decide)
@[simp] theorem Dev.tcTouch_cache (d) (id) (dirty) : (Dev.tcTouch d id dirty).cache = d.cache := (Dev.tcTouch_touches d id dirty).same .cache (by decide)
@[simp] theorem Dev.tcTouch_media (d) (id) (dirty) : (Dev.tcTouch d id dirty).media = d.media := (Dev.tcTouch_touches d id dirty).same .media (by decide)
@[simp] theorem Dev.tcTouch_drift (d) (id) (dirty) : (Dev.tcTouch d id dirty).drift = d.drift := (Dev.tcTouch_touches d id dirty).same .drift (by decide)
@[simp] theorem Dev.tcTouch_sec (d) (id) (dirty) : (Dev.tcTouch d id dirty).sec = d.sec := (Dev.tcTouch_touches d id dirty).same .sec (by decide)
@[simp] theorem Dev.tcTouch_str (d) (id) (dirty) : (Dev.tcTouch d id dirty).str = d.str := (Dev.tcTouch_touches d id dirty).same .str (by decide)
@[simp] theorem Dev.tcTouch_lci (d) (id) (dirty) : (Dev.tcTouch d id dirty).lci = d.lci := (Dev.tcTouch_touches d id dirty).same .lci (by decide)
@[simp] theorem Dev.tcTouch_pwr (d) (id) (dirty) : (Dev.tcTouch d id dirty).pwr = d.pwr := (Dev.tcTouch_touches d id dirty).same .pwr (by decide)
@[simp] theorem Dev.tcTouch_therm (d) (id) (dirty) : (Dev.tcTouch d id dirty).therm = d.therm := (Dev.tcTouch_touches d id dirty).same .therm (by decide)
@[simp] theorem Dev.tcTouch_out (d) (id) (dirty) : (Dev.tcTouch d id dirty).out = d.out := (Dev.tcTouch_touches d id dirty).same .out (by decide)
@[simp] theorem Dev.tcTouch_fresh (d) (id) (dirty) : (Dev.tcTouch d id dirty).fresh = d.fresh := (Dev.tcTouch_touches d id dirty).same .fresh (by decide)
@[simp] theorem Dev.tcTouch_head (d) (id) (dirty) (hd) : (Dev.tcTouch d id dirty).head hd = d.head hd := Dev.head_same hd (Dev.tcTouch_a d id dirty) (Dev.tcTouch_b d id dirty)
@[simp] theorem Dev.tcTouch_reg (d) (id) (dirty) (oo) : (Dev.tcTouch d id dirty).reg oo = d.reg oo := Dev.reg_same oo (Dev.tcTouch_regs d id dirty)
@[simp] theorem Dev.tcTouch_chan (d) (id) (dirty) (oo) : (Dev.tcTouch d id dirty).chan oo = d.chan oo := Dev.chan_same oo (Dev.tcTouch_media d id dirty)
@[simp] theorem Dev.tcTouch_die (d) (id) (dirty) (oo) : (Dev.tcTouch d id dirty).die oo = d.die oo := Dev.die_same oo (Dev.tcTouch_media d id dirty)
@[simp] theorem Dev.tcTouch_ctl (d) (id) (dirty) (oo) : (Dev.tcTouch d id dirty).ctl oo = d.ctl oo := Dev.ctl_same oo (Dev.tcTouch_media d id dirty)
@[simp] theorem Dev.tcTouch_grp (d) (id) (dirty) (oo) : (Dev.tcTouch d id dirty).grp oo = d.grp oo := Dev.grp_same oo (Dev.tcTouch_media d id dirty)
@[simp] theorem Dev.tcTouch_qp (d) (id) (dirty) (oo) : (Dev.tcTouch d id dirty).qp oo = d.qp oo := Dev.qp_same oo (Dev.tcTouch_lci d id dirty)
@[simp] theorem Dev.tcTouch_cmd (d) (id) (dirty) (oo) : (Dev.tcTouch d id dirty).cmd oo = d.cmd oo := Dev.cmd_same oo (Dev.tcTouch_lci d id dirty)
@[simp] theorem Dev.tcTouch_slot (d) (id) (dirty) (oo) : (Dev.tcTouch d id dirty).slot oo = d.slot oo := Dev.slot_same oo (Dev.tcTouch_sec d id dirty)
@[simp] theorem Dev.tcTouch_schan (d) (id) (dirty) (oo) : (Dev.tcTouch d id dirty).schan oo = d.schan oo := Dev.schan_same oo (Dev.tcTouch_str d id dirty)
@[simp] theorem Dev.ringPut_regs (d) (r) (body) (owner) : (Dev.ringPut d r body owner).regs = d.regs := (Dev.ringPut_touches d r body owner).same .regs (by decide)
@[simp] theorem Dev.ringPut_a (d) (r) (body) (owner) : (Dev.ringPut d r body owner).a = d.a := (Dev.ringPut_touches d r body owner).same .a (by decide)
@[simp] theorem Dev.ringPut_b (d) (r) (body) (owner) : (Dev.ringPut d r body owner).b = d.b := (Dev.ringPut_touches d r body owner).same .b (by decide)
@[simp] theorem Dev.ringPut_tether (d) (r) (body) (owner) : (Dev.ringPut d r body owner).tether = d.tether := (Dev.ringPut_touches d r body owner).same .tether (by decide)
@[simp] theorem Dev.ringPut_launch (d) (r) (body) (owner) : (Dev.ringPut d r body owner).launch = d.launch := (Dev.ringPut_touches d r body owner).same .launch (by decide)
@[simp] theorem Dev.ringPut_gpio (d) (r) (body) (owner) : (Dev.ringPut d r body owner).gpio = d.gpio := (Dev.ringPut_touches d r body owner).same .gpio (by decide)
@[simp] theorem Dev.ringPut_log (d) (r) (body) (owner) : (Dev.ringPut d r body owner).log = d.log := (Dev.ringPut_touches d r body owner).same .log (by decide)
@[simp] theorem Dev.ringPut_aon (d) (r) (body) (owner) : (Dev.ringPut d r body owner).aon = d.aon := (Dev.ringPut_touches d r body owner).same .aon (by decide)
@[simp] theorem Dev.ringPut_cores (d) (r) (body) (owner) : (Dev.ringPut d r body owner).cores = d.cores := (Dev.ringPut_touches d r body owner).same .cores (by decide)
@[simp] theorem Dev.ringPut_sems (d) (r) (body) (owner) : (Dev.ringPut d r body owner).sems = d.sems := (Dev.ringPut_touches d r body owner).same .sems (by decide)
@[simp] theorem Dev.ringPut_images (d) (r) (body) (owner) : (Dev.ringPut d r body owner).images = d.images := (Dev.ringPut_touches d r body owner).same .images (by decide)
@[simp] theorem Dev.ringPut_pmc (d) (r) (body) (owner) : (Dev.ringPut d r body owner).pmc = d.pmc := (Dev.ringPut_touches d r body owner).same .pmc (by decide)
@[simp] theorem Dev.ringPut_bst (d) (r) (body) (owner) : (Dev.ringPut d r body owner).bst = d.bst := (Dev.ringPut_touches d r body owner).same .bst (by decide)
@[simp] theorem Dev.ringPut_dbg (d) (r) (body) (owner) : (Dev.ringPut d r body owner).dbg = d.dbg := (Dev.ringPut_touches d r body owner).same .dbg (by decide)
@[simp] theorem Dev.ringPut_gon (d) (r) (body) (owner) : (Dev.ringPut d r body owner).gon = d.gon := (Dev.ringPut_touches d r body owner).same .gon (by decide)
@[simp] theorem Dev.ringPut_cache (d) (r) (body) (owner) : (Dev.ringPut d r body owner).cache = d.cache := (Dev.ringPut_touches d r body owner).same .cache (by decide)
@[simp] theorem Dev.ringPut_media (d) (r) (body) (owner) : (Dev.ringPut d r body owner).media = d.media := (Dev.ringPut_touches d r body owner).same .media (by decide)
@[simp] theorem Dev.ringPut_tracts (d) (r) (body) (owner) : (Dev.ringPut d r body owner).tracts = d.tracts := (Dev.ringPut_touches d r body owner).same .tracts (by decide)
@[simp] theorem Dev.ringPut_drift (d) (r) (body) (owner) : (Dev.ringPut d r body owner).drift = d.drift := (Dev.ringPut_touches d r body owner).same .drift (by decide)
@[simp] theorem Dev.ringPut_sec (d) (r) (body) (owner) : (Dev.ringPut d r body owner).sec = d.sec := (Dev.ringPut_touches d r body owner).same .sec (by decide)
@[simp] theorem Dev.ringPut_str (d) (r) (body) (owner) : (Dev.ringPut d r body owner).str = d.str := (Dev.ringPut_touches d r body owner).same .str (by decide)
@[simp] theorem Dev.ringPut_lci (d) (r) (body) (owner) : (Dev.ringPut d r body owner).lci = d.lci := (Dev.ringPut_touches d r body owner).same .lci (by decide)
@[simp] theorem Dev.ringPut_pwr (d) (r) (body) (owner) : (Dev.ringPut d r body owner).pwr = d.pwr := (Dev.ringPut_touches d r body owner).same .pwr (by decide)
@[simp] theorem Dev.ringPut_therm (d) (r) (body) (owner) : (Dev.ringPut d r body owner).therm = d.therm := (Dev.ringPut_touches d r body owner).same .therm (by decide)
@[simp] theorem Dev.ringPut_out (d) (r) (body) (owner) : (Dev.ringPut d r body owner).out = d.out := (Dev.ringPut_touches d r body owner).same .out (by decide)
@[simp] theorem Dev.ringPut_fresh (d) (r) (body) (owner) : (Dev.ringPut d r body owner).fresh = d.fresh := (Dev.ringPut_touches d r body owner).same .fresh (by decide)
@[simp] theorem Dev.ringPut_head (d) (r) (body) (owner) (hd) : (Dev.ringPut d r body owner).head hd = d.head hd := Dev.head_same hd (Dev.ringPut_a d r body owner) (Dev.ringPut_b d r body owner)
@[simp] theorem Dev.ringPut_reg (d) (r) (body) (owner) (oo) : (Dev.ringPut d r body owner).reg oo = d.reg oo := Dev.reg_same oo (Dev.ringPut_regs d r body owner)
@[simp] theorem Dev.ringPut_chan (d) (r) (body) (owner) (oo) : (Dev.ringPut d r body owner).chan oo = d.chan oo := Dev.chan_same oo (Dev.ringPut_media d r body owner)
@[simp] theorem Dev.ringPut_die (d) (r) (body) (owner) (oo) : (Dev.ringPut d r body owner).die oo = d.die oo := Dev.die_same oo (Dev.ringPut_media d r body owner)
@[simp] theorem Dev.ringPut_ctl (d) (r) (body) (owner) (oo) : (Dev.ringPut d r body owner).ctl oo = d.ctl oo := Dev.ctl_same oo (Dev.ringPut_media d r body owner)
@[simp] theorem Dev.ringPut_grp (d) (r) (body) (owner) (oo) : (Dev.ringPut d r body owner).grp oo = d.grp oo := Dev.grp_same oo (Dev.ringPut_media d r body owner)
@[simp] theorem Dev.ringPut_qp (d) (r) (body) (owner) (oo) : (Dev.ringPut d r body owner).qp oo = d.qp oo := Dev.qp_same oo (Dev.ringPut_lci d r body owner)
@[simp] theorem Dev.ringPut_cmd (d) (r) (body) (owner) (oo) : (Dev.ringPut d r body owner).cmd oo = d.cmd oo := Dev.cmd_same oo (Dev.ringPut_lci d r body owner)
@[simp] theorem Dev.ringPut_ent (d) (r) (body) (owner) (oo) : (Dev.ringPut d r body owner).ent oo = d.ent oo := Dev.ent_same oo (Dev.ringPut_tracts d r body owner)
@[simp] theorem Dev.ringPut_hdr (d) (r) (body) (owner) (oo) : (Dev.ringPut d r body owner).hdr oo = d.hdr oo := Dev.hdr_same oo (Dev.ringPut_tracts d r body owner)
@[simp] theorem Dev.ringPut_phys (d) (r) (body) (owner) (oo) (ii) : (Dev.ringPut d r body owner).phys oo ii = d.phys oo ii := Dev.phys_same oo ii (Dev.ringPut_tracts d r body owner)
@[simp] theorem Dev.ringPut_slot (d) (r) (body) (owner) (oo) : (Dev.ringPut d r body owner).slot oo = d.slot oo := Dev.slot_same oo (Dev.ringPut_sec d r body owner)
@[simp] theorem Dev.ringPut_schan (d) (r) (body) (owner) (oo) : (Dev.ringPut d r body owner).schan oo = d.schan oo := Dev.schan_same oo (Dev.ringPut_str d r body owner)
@[simp] theorem Dev.keepCfg_regs (d) (old) (off) : (Dev.keepCfg d old off).regs = d.regs := (Dev.keepCfg_touches d old off).same .regs (by decide)
@[simp] theorem Dev.keepCfg_a (d) (old) (off) : (Dev.keepCfg d old off).a = d.a := (Dev.keepCfg_touches d old off).same .a (by decide)
@[simp] theorem Dev.keepCfg_b (d) (old) (off) : (Dev.keepCfg d old off).b = d.b := (Dev.keepCfg_touches d old off).same .b (by decide)
@[simp] theorem Dev.keepCfg_tether (d) (old) (off) : (Dev.keepCfg d old off).tether = d.tether := (Dev.keepCfg_touches d old off).same .tether (by decide)
@[simp] theorem Dev.keepCfg_launch (d) (old) (off) : (Dev.keepCfg d old off).launch = d.launch := (Dev.keepCfg_touches d old off).same .launch (by decide)
@[simp] theorem Dev.keepCfg_gpio (d) (old) (off) : (Dev.keepCfg d old off).gpio = d.gpio := (Dev.keepCfg_touches d old off).same .gpio (by decide)
@[simp] theorem Dev.keepCfg_log (d) (old) (off) : (Dev.keepCfg d old off).log = d.log := (Dev.keepCfg_touches d old off).same .log (by decide)
@[simp] theorem Dev.keepCfg_aon (d) (old) (off) : (Dev.keepCfg d old off).aon = d.aon := (Dev.keepCfg_touches d old off).same .aon (by decide)
@[simp] theorem Dev.keepCfg_cores (d) (old) (off) : (Dev.keepCfg d old off).cores = d.cores := (Dev.keepCfg_touches d old off).same .cores (by decide)
@[simp] theorem Dev.keepCfg_sems (d) (old) (off) : (Dev.keepCfg d old off).sems = d.sems := (Dev.keepCfg_touches d old off).same .sems (by decide)
@[simp] theorem Dev.keepCfg_images (d) (old) (off) : (Dev.keepCfg d old off).images = d.images := (Dev.keepCfg_touches d old off).same .images (by decide)
@[simp] theorem Dev.keepCfg_pmc (d) (old) (off) : (Dev.keepCfg d old off).pmc = d.pmc := (Dev.keepCfg_touches d old off).same .pmc (by decide)
@[simp] theorem Dev.keepCfg_bst (d) (old) (off) : (Dev.keepCfg d old off).bst = d.bst := (Dev.keepCfg_touches d old off).same .bst (by decide)
@[simp] theorem Dev.keepCfg_dbg (d) (old) (off) : (Dev.keepCfg d old off).dbg = d.dbg := (Dev.keepCfg_touches d old off).same .dbg (by decide)
@[simp] theorem Dev.keepCfg_gon (d) (old) (off) : (Dev.keepCfg d old off).gon = d.gon := (Dev.keepCfg_touches d old off).same .gon (by decide)
@[simp] theorem Dev.keepCfg_cache (d) (old) (off) : (Dev.keepCfg d old off).cache = d.cache := (Dev.keepCfg_touches d old off).same .cache (by decide)
@[simp] theorem Dev.keepCfg_media (d) (old) (off) : (Dev.keepCfg d old off).media = d.media := (Dev.keepCfg_touches d old off).same .media (by decide)
@[simp] theorem Dev.keepCfg_tracts (d) (old) (off) : (Dev.keepCfg d old off).tracts = d.tracts := (Dev.keepCfg_touches d old off).same .tracts (by decide)
@[simp] theorem Dev.keepCfg_drift (d) (old) (off) : (Dev.keepCfg d old off).drift = d.drift := (Dev.keepCfg_touches d old off).same .drift (by decide)
@[simp] theorem Dev.keepCfg_sec (d) (old) (off) : (Dev.keepCfg d old off).sec = d.sec := (Dev.keepCfg_touches d old off).same .sec (by decide)
@[simp] theorem Dev.keepCfg_str (d) (old) (off) : (Dev.keepCfg d old off).str = d.str := (Dev.keepCfg_touches d old off).same .str (by decide)
@[simp] theorem Dev.keepCfg_lci (d) (old) (off) : (Dev.keepCfg d old off).lci = d.lci := (Dev.keepCfg_touches d old off).same .lci (by decide)
@[simp] theorem Dev.keepCfg_pwr (d) (old) (off) : (Dev.keepCfg d old off).pwr = d.pwr := (Dev.keepCfg_touches d old off).same .pwr (by decide)
@[simp] theorem Dev.keepCfg_therm (d) (old) (off) : (Dev.keepCfg d old off).therm = d.therm := (Dev.keepCfg_touches d old off).same .therm (by decide)
@[simp] theorem Dev.keepCfg_out (d) (old) (off) : (Dev.keepCfg d old off).out = d.out := (Dev.keepCfg_touches d old off).same .out (by decide)
@[simp] theorem Dev.keepCfg_fresh (d) (old) (off) : (Dev.keepCfg d old off).fresh = d.fresh := (Dev.keepCfg_touches d old off).same .fresh (by decide)
@[simp] theorem Dev.keepCfg_head (d) (old) (off) (hd) : (Dev.keepCfg d old off).head hd = d.head hd := Dev.head_same hd (Dev.keepCfg_a d old off) (Dev.keepCfg_b d old off)
@[simp] theorem Dev.keepCfg_reg (d) (old) (off) (oo) : (Dev.keepCfg d old off).reg oo = d.reg oo := Dev.reg_same oo (Dev.keepCfg_regs d old off)
@[simp] theorem Dev.keepCfg_chan (d) (old) (off) (oo) : (Dev.keepCfg d old off).chan oo = d.chan oo := Dev.chan_same oo (Dev.keepCfg_media d old off)
@[simp] theorem Dev.keepCfg_die (d) (old) (off) (oo) : (Dev.keepCfg d old off).die oo = d.die oo := Dev.die_same oo (Dev.keepCfg_media d old off)
@[simp] theorem Dev.keepCfg_ctl (d) (old) (off) (oo) : (Dev.keepCfg d old off).ctl oo = d.ctl oo := Dev.ctl_same oo (Dev.keepCfg_media d old off)
@[simp] theorem Dev.keepCfg_grp (d) (old) (off) (oo) : (Dev.keepCfg d old off).grp oo = d.grp oo := Dev.grp_same oo (Dev.keepCfg_media d old off)
@[simp] theorem Dev.keepCfg_qp (d) (old) (off) (oo) : (Dev.keepCfg d old off).qp oo = d.qp oo := Dev.qp_same oo (Dev.keepCfg_lci d old off)
@[simp] theorem Dev.keepCfg_cmd (d) (old) (off) (oo) : (Dev.keepCfg d old off).cmd oo = d.cmd oo := Dev.cmd_same oo (Dev.keepCfg_lci d old off)
@[simp] theorem Dev.keepCfg_ent (d) (old) (off) (oo) : (Dev.keepCfg d old off).ent oo = d.ent oo := Dev.ent_same oo (Dev.keepCfg_tracts d old off)
@[simp] theorem Dev.keepCfg_hdr (d) (old) (off) (oo) : (Dev.keepCfg d old off).hdr oo = d.hdr oo := Dev.hdr_same oo (Dev.keepCfg_tracts d old off)
@[simp] theorem Dev.keepCfg_phys (d) (old) (off) (oo) (ii) : (Dev.keepCfg d old off).phys oo ii = d.phys oo ii := Dev.phys_same oo ii (Dev.keepCfg_tracts d old off)
@[simp] theorem Dev.keepCfg_slot (d) (old) (off) (oo) : (Dev.keepCfg d old off).slot oo = d.slot oo := Dev.slot_same oo (Dev.keepCfg_sec d old off)
@[simp] theorem Dev.keepCfg_schan (d) (old) (off) (oo) : (Dev.keepCfg d old off).schan oo = d.schan oo := Dev.schan_same oo (Dev.keepCfg_str d old off)
@[simp] theorem Dev.setRbit_a (d) (off) (k) (b) : (Dev.setRbit d off k b).a = d.a := (Dev.setRbit_touches d off k b).same .a (by decide)
@[simp] theorem Dev.setRbit_b (d) (off) (k) (b) : (Dev.setRbit d off k b).b = d.b := (Dev.setRbit_touches d off k b).same .b (by decide)
@[simp] theorem Dev.setRbit_tether (d) (off) (k) (b) : (Dev.setRbit d off k b).tether = d.tether := (Dev.setRbit_touches d off k b).same .tether (by decide)
@[simp] theorem Dev.setRbit_launch (d) (off) (k) (b) : (Dev.setRbit d off k b).launch = d.launch := (Dev.setRbit_touches d off k b).same .launch (by decide)
@[simp] theorem Dev.setRbit_gpio (d) (off) (k) (b) : (Dev.setRbit d off k b).gpio = d.gpio := (Dev.setRbit_touches d off k b).same .gpio (by decide)
@[simp] theorem Dev.setRbit_keel (d) (off) (k) (b) : (Dev.setRbit d off k b).keel = d.keel := (Dev.setRbit_touches d off k b).same .keel (by decide)
@[simp] theorem Dev.setRbit_log (d) (off) (k) (b) : (Dev.setRbit d off k b).log = d.log := (Dev.setRbit_touches d off k b).same .log (by decide)
@[simp] theorem Dev.setRbit_aon (d) (off) (k) (b) : (Dev.setRbit d off k b).aon = d.aon := (Dev.setRbit_touches d off k b).same .aon (by decide)
@[simp] theorem Dev.setRbit_cores (d) (off) (k) (b) : (Dev.setRbit d off k b).cores = d.cores := (Dev.setRbit_touches d off k b).same .cores (by decide)
@[simp] theorem Dev.setRbit_sems (d) (off) (k) (b) : (Dev.setRbit d off k b).sems = d.sems := (Dev.setRbit_touches d off k b).same .sems (by decide)
@[simp] theorem Dev.setRbit_images (d) (off) (k) (b) : (Dev.setRbit d off k b).images = d.images := (Dev.setRbit_touches d off k b).same .images (by decide)
@[simp] theorem Dev.setRbit_pmc (d) (off) (k) (b) : (Dev.setRbit d off k b).pmc = d.pmc := (Dev.setRbit_touches d off k b).same .pmc (by decide)
@[simp] theorem Dev.setRbit_bst (d) (off) (k) (b) : (Dev.setRbit d off k b).bst = d.bst := (Dev.setRbit_touches d off k b).same .bst (by decide)
@[simp] theorem Dev.setRbit_dbg (d) (off) (k) (b) : (Dev.setRbit d off k b).dbg = d.dbg := (Dev.setRbit_touches d off k b).same .dbg (by decide)
@[simp] theorem Dev.setRbit_gon (d) (off) (k) (b) : (Dev.setRbit d off k b).gon = d.gon := (Dev.setRbit_touches d off k b).same .gon (by decide)
@[simp] theorem Dev.setRbit_cache (d) (off) (k) (b) : (Dev.setRbit d off k b).cache = d.cache := (Dev.setRbit_touches d off k b).same .cache (by decide)
@[simp] theorem Dev.setRbit_media (d) (off) (k) (b) : (Dev.setRbit d off k b).media = d.media := (Dev.setRbit_touches d off k b).same .media (by decide)
@[simp] theorem Dev.setRbit_tracts (d) (off) (k) (b) : (Dev.setRbit d off k b).tracts = d.tracts := (Dev.setRbit_touches d off k b).same .tracts (by decide)
@[simp] theorem Dev.setRbit_drift (d) (off) (k) (b) : (Dev.setRbit d off k b).drift = d.drift := (Dev.setRbit_touches d off k b).same .drift (by decide)
@[simp] theorem Dev.setRbit_sec (d) (off) (k) (b) : (Dev.setRbit d off k b).sec = d.sec := (Dev.setRbit_touches d off k b).same .sec (by decide)
@[simp] theorem Dev.setRbit_str (d) (off) (k) (b) : (Dev.setRbit d off k b).str = d.str := (Dev.setRbit_touches d off k b).same .str (by decide)
@[simp] theorem Dev.setRbit_lci (d) (off) (k) (b) : (Dev.setRbit d off k b).lci = d.lci := (Dev.setRbit_touches d off k b).same .lci (by decide)
@[simp] theorem Dev.setRbit_pwr (d) (off) (k) (b) : (Dev.setRbit d off k b).pwr = d.pwr := (Dev.setRbit_touches d off k b).same .pwr (by decide)
@[simp] theorem Dev.setRbit_therm (d) (off) (k) (b) : (Dev.setRbit d off k b).therm = d.therm := (Dev.setRbit_touches d off k b).same .therm (by decide)
@[simp] theorem Dev.setRbit_out (d) (off) (k) (b) : (Dev.setRbit d off k b).out = d.out := (Dev.setRbit_touches d off k b).same .out (by decide)
@[simp] theorem Dev.setRbit_fresh (d) (off) (k) (b) : (Dev.setRbit d off k b).fresh = d.fresh := (Dev.setRbit_touches d off k b).same .fresh (by decide)
@[simp] theorem Dev.setRbit_head (d) (off) (k) (b) (hd) : (Dev.setRbit d off k b).head hd = d.head hd := Dev.head_same hd (Dev.setRbit_a d off k b) (Dev.setRbit_b d off k b)
@[simp] theorem Dev.setRbit_chan (d) (off) (k) (b) (oo) : (Dev.setRbit d off k b).chan oo = d.chan oo := Dev.chan_same oo (Dev.setRbit_media d off k b)
@[simp] theorem Dev.setRbit_die (d) (off) (k) (b) (oo) : (Dev.setRbit d off k b).die oo = d.die oo := Dev.die_same oo (Dev.setRbit_media d off k b)
@[simp] theorem Dev.setRbit_ctl (d) (off) (k) (b) (oo) : (Dev.setRbit d off k b).ctl oo = d.ctl oo := Dev.ctl_same oo (Dev.setRbit_media d off k b)
@[simp] theorem Dev.setRbit_grp (d) (off) (k) (b) (oo) : (Dev.setRbit d off k b).grp oo = d.grp oo := Dev.grp_same oo (Dev.setRbit_media d off k b)
@[simp] theorem Dev.setRbit_qp (d) (off) (k) (b) (oo) : (Dev.setRbit d off k b).qp oo = d.qp oo := Dev.qp_same oo (Dev.setRbit_lci d off k b)
@[simp] theorem Dev.setRbit_cmd (d) (off) (k) (b) (oo) : (Dev.setRbit d off k b).cmd oo = d.cmd oo := Dev.cmd_same oo (Dev.setRbit_lci d off k b)
@[simp] theorem Dev.setRbit_ent (d) (off) (k) (b) (oo) : (Dev.setRbit d off k b).ent oo = d.ent oo := Dev.ent_same oo (Dev.setRbit_tracts d off k b)
@[simp] theorem Dev.setRbit_hdr (d) (off) (k) (b) (oo) : (Dev.setRbit d off k b).hdr oo = d.hdr oo := Dev.hdr_same oo (Dev.setRbit_tracts d off k b)
@[simp] theorem Dev.setRbit_phys (d) (off) (k) (b) (oo) (ii) : (Dev.setRbit d off k b).phys oo ii = d.phys oo ii := Dev.phys_same oo ii (Dev.setRbit_tracts d off k b)
@[simp] theorem Dev.setRbit_slot (d) (off) (k) (b) (oo) : (Dev.setRbit d off k b).slot oo = d.slot oo := Dev.slot_same oo (Dev.setRbit_sec d off k b)
@[simp] theorem Dev.setRbit_schan (d) (off) (k) (b) (oo) : (Dev.setRbit d off k b).schan oo = d.schan oo := Dev.schan_same oo (Dev.setRbit_str d off k b)
@[simp] theorem postAt_tether (F) (d) (n) (k) (dpa) : (postAt F d n k dpa).tether = d.tether := (postAt_touches F d n k dpa).same .tether (by decide)
@[simp] theorem postAt_launch (F) (d) (n) (k) (dpa) : (postAt F d n k dpa).launch = d.launch := (postAt_touches F d n k dpa).same .launch (by decide)
@[simp] theorem postAt_gpio (F) (d) (n) (k) (dpa) : (postAt F d n k dpa).gpio = d.gpio := (postAt_touches F d n k dpa).same .gpio (by decide)
@[simp] theorem postAt_keel (F) (d) (n) (k) (dpa) : (postAt F d n k dpa).keel = d.keel := (postAt_touches F d n k dpa).same .keel (by decide)
@[simp] theorem postAt_log (F) (d) (n) (k) (dpa) : (postAt F d n k dpa).log = d.log := (postAt_touches F d n k dpa).same .log (by decide)
@[simp] theorem postAt_aon (F) (d) (n) (k) (dpa) : (postAt F d n k dpa).aon = d.aon := (postAt_touches F d n k dpa).same .aon (by decide)
@[simp] theorem postAt_cores (F) (d) (n) (k) (dpa) : (postAt F d n k dpa).cores = d.cores := (postAt_touches F d n k dpa).same .cores (by decide)
@[simp] theorem postAt_sems (F) (d) (n) (k) (dpa) : (postAt F d n k dpa).sems = d.sems := (postAt_touches F d n k dpa).same .sems (by decide)
@[simp] theorem postAt_images (F) (d) (n) (k) (dpa) : (postAt F d n k dpa).images = d.images := (postAt_touches F d n k dpa).same .images (by decide)
@[simp] theorem postAt_pmc (F) (d) (n) (k) (dpa) : (postAt F d n k dpa).pmc = d.pmc := (postAt_touches F d n k dpa).same .pmc (by decide)
@[simp] theorem postAt_bst (F) (d) (n) (k) (dpa) : (postAt F d n k dpa).bst = d.bst := (postAt_touches F d n k dpa).same .bst (by decide)
@[simp] theorem postAt_dbg (F) (d) (n) (k) (dpa) : (postAt F d n k dpa).dbg = d.dbg := (postAt_touches F d n k dpa).same .dbg (by decide)
@[simp] theorem postAt_gon (F) (d) (n) (k) (dpa) : (postAt F d n k dpa).gon = d.gon := (postAt_touches F d n k dpa).same .gon (by decide)
@[simp] theorem postAt_cache (F) (d) (n) (k) (dpa) : (postAt F d n k dpa).cache = d.cache := (postAt_touches F d n k dpa).same .cache (by decide)
@[simp] theorem postAt_media (F) (d) (n) (k) (dpa) : (postAt F d n k dpa).media = d.media := (postAt_touches F d n k dpa).same .media (by decide)
@[simp] theorem postAt_tracts (F) (d) (n) (k) (dpa) : (postAt F d n k dpa).tracts = d.tracts := (postAt_touches F d n k dpa).same .tracts (by decide)
@[simp] theorem postAt_drift (F) (d) (n) (k) (dpa) : (postAt F d n k dpa).drift = d.drift := (postAt_touches F d n k dpa).same .drift (by decide)
@[simp] theorem postAt_sec (F) (d) (n) (k) (dpa) : (postAt F d n k dpa).sec = d.sec := (postAt_touches F d n k dpa).same .sec (by decide)
@[simp] theorem postAt_str (F) (d) (n) (k) (dpa) : (postAt F d n k dpa).str = d.str := (postAt_touches F d n k dpa).same .str (by decide)
@[simp] theorem postAt_lci (F) (d) (n) (k) (dpa) : (postAt F d n k dpa).lci = d.lci := (postAt_touches F d n k dpa).same .lci (by decide)
@[simp] theorem postAt_pwr (F) (d) (n) (k) (dpa) : (postAt F d n k dpa).pwr = d.pwr := (postAt_touches F d n k dpa).same .pwr (by decide)
@[simp] theorem postAt_therm (F) (d) (n) (k) (dpa) : (postAt F d n k dpa).therm = d.therm := (postAt_touches F d n k dpa).same .therm (by decide)
@[simp] theorem postAt_fresh (F) (d) (n) (k) (dpa) : (postAt F d n k dpa).fresh = d.fresh := (postAt_touches F d n k dpa).same .fresh (by decide)
@[simp] theorem postAt_chan (F) (d) (n) (k) (dpa) (oo) : (postAt F d n k dpa).chan oo = d.chan oo := Dev.chan_same oo (postAt_media F d n k dpa)
@[simp] theorem postAt_die (F) (d) (n) (k) (dpa) (oo) : (postAt F d n k dpa).die oo = d.die oo := Dev.die_same oo (postAt_media F d n k dpa)
@[simp] theorem postAt_ctl (F) (d) (n) (k) (dpa) (oo) : (postAt F d n k dpa).ctl oo = d.ctl oo := Dev.ctl_same oo (postAt_media F d n k dpa)
@[simp] theorem postAt_grp (F) (d) (n) (k) (dpa) (oo) : (postAt F d n k dpa).grp oo = d.grp oo := Dev.grp_same oo (postAt_media F d n k dpa)
@[simp] theorem postAt_qp (F) (d) (n) (k) (dpa) (oo) : (postAt F d n k dpa).qp oo = d.qp oo := Dev.qp_same oo (postAt_lci F d n k dpa)
@[simp] theorem postAt_cmd (F) (d) (n) (k) (dpa) (oo) : (postAt F d n k dpa).cmd oo = d.cmd oo := Dev.cmd_same oo (postAt_lci F d n k dpa)
@[simp] theorem postAt_ent (F) (d) (n) (k) (dpa) (oo) : (postAt F d n k dpa).ent oo = d.ent oo := Dev.ent_same oo (postAt_tracts F d n k dpa)
@[simp] theorem postAt_hdr (F) (d) (n) (k) (dpa) (oo) : (postAt F d n k dpa).hdr oo = d.hdr oo := Dev.hdr_same oo (postAt_tracts F d n k dpa)
@[simp] theorem postAt_phys (F) (d) (n) (k) (dpa) (oo) (ii) : (postAt F d n k dpa).phys oo ii = d.phys oo ii := Dev.phys_same oo ii (postAt_tracts F d n k dpa)
@[simp] theorem postAt_slot (F) (d) (n) (k) (dpa) (oo) : (postAt F d n k dpa).slot oo = d.slot oo := Dev.slot_same oo (postAt_sec F d n k dpa)
@[simp] theorem postAt_schan (F) (d) (n) (k) (dpa) (oo) : (postAt F d n k dpa).schan oo = d.schan oo := Dev.schan_same oo (postAt_str F d n k dpa)
@[simp] theorem Dev.countAt_a (d) (ev) (n) (head) : (Dev.countAt d ev n head).a = d.a := (Dev.countAt_touches d ev n head).same .a (by decide)
@[simp] theorem Dev.countAt_b (d) (ev) (n) (head) : (Dev.countAt d ev n head).b = d.b := (Dev.countAt_touches d ev n head).same .b (by decide)
@[simp] theorem Dev.countAt_tether (d) (ev) (n) (head) : (Dev.countAt d ev n head).tether = d.tether := (Dev.countAt_touches d ev n head).same .tether (by decide)
@[simp] theorem Dev.countAt_launch (d) (ev) (n) (head) : (Dev.countAt d ev n head).launch = d.launch := (Dev.countAt_touches d ev n head).same .launch (by decide)
@[simp] theorem Dev.countAt_gpio (d) (ev) (n) (head) : (Dev.countAt d ev n head).gpio = d.gpio := (Dev.countAt_touches d ev n head).same .gpio (by decide)
@[simp] theorem Dev.countAt_keel (d) (ev) (n) (head) : (Dev.countAt d ev n head).keel = d.keel := (Dev.countAt_touches d ev n head).same .keel (by decide)
@[simp] theorem Dev.countAt_log (d) (ev) (n) (head) : (Dev.countAt d ev n head).log = d.log := (Dev.countAt_touches d ev n head).same .log (by decide)
@[simp] theorem Dev.countAt_aon (d) (ev) (n) (head) : (Dev.countAt d ev n head).aon = d.aon := (Dev.countAt_touches d ev n head).same .aon (by decide)
@[simp] theorem Dev.countAt_cores (d) (ev) (n) (head) : (Dev.countAt d ev n head).cores = d.cores := (Dev.countAt_touches d ev n head).same .cores (by decide)
@[simp] theorem Dev.countAt_sems (d) (ev) (n) (head) : (Dev.countAt d ev n head).sems = d.sems := (Dev.countAt_touches d ev n head).same .sems (by decide)
@[simp] theorem Dev.countAt_images (d) (ev) (n) (head) : (Dev.countAt d ev n head).images = d.images := (Dev.countAt_touches d ev n head).same .images (by decide)
@[simp] theorem Dev.countAt_bst (d) (ev) (n) (head) : (Dev.countAt d ev n head).bst = d.bst := (Dev.countAt_touches d ev n head).same .bst (by decide)
@[simp] theorem Dev.countAt_dbg (d) (ev) (n) (head) : (Dev.countAt d ev n head).dbg = d.dbg := (Dev.countAt_touches d ev n head).same .dbg (by decide)
@[simp] theorem Dev.countAt_gon (d) (ev) (n) (head) : (Dev.countAt d ev n head).gon = d.gon := (Dev.countAt_touches d ev n head).same .gon (by decide)
@[simp] theorem Dev.countAt_cache (d) (ev) (n) (head) : (Dev.countAt d ev n head).cache = d.cache := (Dev.countAt_touches d ev n head).same .cache (by decide)
@[simp] theorem Dev.countAt_media (d) (ev) (n) (head) : (Dev.countAt d ev n head).media = d.media := (Dev.countAt_touches d ev n head).same .media (by decide)
@[simp] theorem Dev.countAt_tracts (d) (ev) (n) (head) : (Dev.countAt d ev n head).tracts = d.tracts := (Dev.countAt_touches d ev n head).same .tracts (by decide)
@[simp] theorem Dev.countAt_drift (d) (ev) (n) (head) : (Dev.countAt d ev n head).drift = d.drift := (Dev.countAt_touches d ev n head).same .drift (by decide)
@[simp] theorem Dev.countAt_sec (d) (ev) (n) (head) : (Dev.countAt d ev n head).sec = d.sec := (Dev.countAt_touches d ev n head).same .sec (by decide)
@[simp] theorem Dev.countAt_str (d) (ev) (n) (head) : (Dev.countAt d ev n head).str = d.str := (Dev.countAt_touches d ev n head).same .str (by decide)
@[simp] theorem Dev.countAt_lci (d) (ev) (n) (head) : (Dev.countAt d ev n head).lci = d.lci := (Dev.countAt_touches d ev n head).same .lci (by decide)
@[simp] theorem Dev.countAt_pwr (d) (ev) (n) (head) : (Dev.countAt d ev n head).pwr = d.pwr := (Dev.countAt_touches d ev n head).same .pwr (by decide)
@[simp] theorem Dev.countAt_therm (d) (ev) (n) (head) : (Dev.countAt d ev n head).therm = d.therm := (Dev.countAt_touches d ev n head).same .therm (by decide)
@[simp] theorem Dev.countAt_out (d) (ev) (n) (head) : (Dev.countAt d ev n head).out = d.out := (Dev.countAt_touches d ev n head).same .out (by decide)
@[simp] theorem Dev.countAt_fresh (d) (ev) (n) (head) : (Dev.countAt d ev n head).fresh = d.fresh := (Dev.countAt_touches d ev n head).same .fresh (by decide)
@[simp] theorem Dev.countAt_head (d) (ev) (n) (head) (hd) : (Dev.countAt d ev n head).head hd = d.head hd := Dev.head_same hd (Dev.countAt_a d ev n head) (Dev.countAt_b d ev n head)
@[simp] theorem Dev.countAt_chan (d) (ev) (n) (head) (oo) : (Dev.countAt d ev n head).chan oo = d.chan oo := Dev.chan_same oo (Dev.countAt_media d ev n head)
@[simp] theorem Dev.countAt_die (d) (ev) (n) (head) (oo) : (Dev.countAt d ev n head).die oo = d.die oo := Dev.die_same oo (Dev.countAt_media d ev n head)
@[simp] theorem Dev.countAt_ctl (d) (ev) (n) (head) (oo) : (Dev.countAt d ev n head).ctl oo = d.ctl oo := Dev.ctl_same oo (Dev.countAt_media d ev n head)
@[simp] theorem Dev.countAt_grp (d) (ev) (n) (head) (oo) : (Dev.countAt d ev n head).grp oo = d.grp oo := Dev.grp_same oo (Dev.countAt_media d ev n head)
@[simp] theorem Dev.countAt_qp (d) (ev) (n) (head) (oo) : (Dev.countAt d ev n head).qp oo = d.qp oo := Dev.qp_same oo (Dev.countAt_lci d ev n head)
@[simp] theorem Dev.countAt_cmd (d) (ev) (n) (head) (oo) : (Dev.countAt d ev n head).cmd oo = d.cmd oo := Dev.cmd_same oo (Dev.countAt_lci d ev n head)
@[simp] theorem Dev.countAt_ent (d) (ev) (n) (head) (oo) : (Dev.countAt d ev n head).ent oo = d.ent oo := Dev.ent_same oo (Dev.countAt_tracts d ev n head)
@[simp] theorem Dev.countAt_hdr (d) (ev) (n) (head) (oo) : (Dev.countAt d ev n head).hdr oo = d.hdr oo := Dev.hdr_same oo (Dev.countAt_tracts d ev n head)
@[simp] theorem Dev.countAt_phys (d) (ev) (n) (head) (oo) (ii) : (Dev.countAt d ev n head).phys oo ii = d.phys oo ii := Dev.phys_same oo ii (Dev.countAt_tracts d ev n head)
@[simp] theorem Dev.countAt_slot (d) (ev) (n) (head) (oo) : (Dev.countAt d ev n head).slot oo = d.slot oo := Dev.slot_same oo (Dev.countAt_sec d ev n head)
@[simp] theorem Dev.countAt_schan (d) (ev) (n) (head) (oo) : (Dev.countAt d ev n head).schan oo = d.schan oo := Dev.schan_same oo (Dev.countAt_str d ev n head)
@[simp] theorem Dev.advance_a (d) (t) : (Dev.advance d t).a = d.a := (Dev.advance_touches d t).same .a (by decide)
@[simp] theorem Dev.advance_b (d) (t) : (Dev.advance d t).b = d.b := (Dev.advance_touches d t).same .b (by decide)
@[simp] theorem Dev.advance_launch (d) (t) : (Dev.advance d t).launch = d.launch := (Dev.advance_touches d t).same .launch (by decide)
@[simp] theorem Dev.advance_gpio (d) (t) : (Dev.advance d t).gpio = d.gpio := (Dev.advance_touches d t).same .gpio (by decide)
@[simp] theorem Dev.advance_keel (d) (t) : (Dev.advance d t).keel = d.keel := (Dev.advance_touches d t).same .keel (by decide)
@[simp] theorem Dev.advance_log (d) (t) : (Dev.advance d t).log = d.log := (Dev.advance_touches d t).same .log (by decide)
@[simp] theorem Dev.advance_aon (d) (t) : (Dev.advance d t).aon = d.aon := (Dev.advance_touches d t).same .aon (by decide)
@[simp] theorem Dev.advance_cores (d) (t) : (Dev.advance d t).cores = d.cores := (Dev.advance_touches d t).same .cores (by decide)
@[simp] theorem Dev.advance_sems (d) (t) : (Dev.advance d t).sems = d.sems := (Dev.advance_touches d t).same .sems (by decide)
@[simp] theorem Dev.advance_images (d) (t) : (Dev.advance d t).images = d.images := (Dev.advance_touches d t).same .images (by decide)
@[simp] theorem Dev.advance_bst (d) (t) : (Dev.advance d t).bst = d.bst := (Dev.advance_touches d t).same .bst (by decide)
@[simp] theorem Dev.advance_dbg (d) (t) : (Dev.advance d t).dbg = d.dbg := (Dev.advance_touches d t).same .dbg (by decide)
@[simp] theorem Dev.advance_gon (d) (t) : (Dev.advance d t).gon = d.gon := (Dev.advance_touches d t).same .gon (by decide)
@[simp] theorem Dev.advance_cache (d) (t) : (Dev.advance d t).cache = d.cache := (Dev.advance_touches d t).same .cache (by decide)
@[simp] theorem Dev.advance_tracts (d) (t) : (Dev.advance d t).tracts = d.tracts := (Dev.advance_touches d t).same .tracts (by decide)
@[simp] theorem Dev.advance_drift (d) (t) : (Dev.advance d t).drift = d.drift := (Dev.advance_touches d t).same .drift (by decide)
@[simp] theorem Dev.advance_sec (d) (t) : (Dev.advance d t).sec = d.sec := (Dev.advance_touches d t).same .sec (by decide)
@[simp] theorem Dev.advance_str (d) (t) : (Dev.advance d t).str = d.str := (Dev.advance_touches d t).same .str (by decide)
@[simp] theorem Dev.advance_lci (d) (t) : (Dev.advance d t).lci = d.lci := (Dev.advance_touches d t).same .lci (by decide)
@[simp] theorem Dev.advance_pwr (d) (t) : (Dev.advance d t).pwr = d.pwr := (Dev.advance_touches d t).same .pwr (by decide)
@[simp] theorem Dev.advance_therm (d) (t) : (Dev.advance d t).therm = d.therm := (Dev.advance_touches d t).same .therm (by decide)
@[simp] theorem Dev.advance_out (d) (t) : (Dev.advance d t).out = d.out := (Dev.advance_touches d t).same .out (by decide)
@[simp] theorem Dev.advance_fresh (d) (t) : (Dev.advance d t).fresh = d.fresh := (Dev.advance_touches d t).same .fresh (by decide)
@[simp] theorem Dev.advance_head (d) (t) (hd) : (Dev.advance d t).head hd = d.head hd := Dev.head_same hd (Dev.advance_a d t) (Dev.advance_b d t)
@[simp] theorem Dev.advance_qp (d) (t) (oo) : (Dev.advance d t).qp oo = d.qp oo := Dev.qp_same oo (Dev.advance_lci d t)
@[simp] theorem Dev.advance_cmd (d) (t) (oo) : (Dev.advance d t).cmd oo = d.cmd oo := Dev.cmd_same oo (Dev.advance_lci d t)
@[simp] theorem Dev.advance_ent (d) (t) (oo) : (Dev.advance d t).ent oo = d.ent oo := Dev.ent_same oo (Dev.advance_tracts d t)
@[simp] theorem Dev.advance_hdr (d) (t) (oo) : (Dev.advance d t).hdr oo = d.hdr oo := Dev.hdr_same oo (Dev.advance_tracts d t)
@[simp] theorem Dev.advance_phys (d) (t) (oo) (ii) : (Dev.advance d t).phys oo ii = d.phys oo ii := Dev.phys_same oo ii (Dev.advance_tracts d t)
@[simp] theorem Dev.advance_slot (d) (t) (oo) : (Dev.advance d t).slot oo = d.slot oo := Dev.slot_same oo (Dev.advance_sec d t)
@[simp] theorem Dev.advance_schan (d) (t) (oo) : (Dev.advance d t).schan oo = d.schan oo := Dev.schan_same oo (Dev.advance_str d t)
@[simp] theorem Dev.metaRead_a (d) (t) (i) : (Dev.metaRead d t i).a = d.a := (Dev.metaRead_touches d t i).same .a (by decide)
@[simp] theorem Dev.metaRead_b (d) (t) (i) : (Dev.metaRead d t i).b = d.b := (Dev.metaRead_touches d t i).same .b (by decide)
@[simp] theorem Dev.metaRead_tether (d) (t) (i) : (Dev.metaRead d t i).tether = d.tether := (Dev.metaRead_touches d t i).same .tether (by decide)
@[simp] theorem Dev.metaRead_launch (d) (t) (i) : (Dev.metaRead d t i).launch = d.launch := (Dev.metaRead_touches d t i).same .launch (by decide)
@[simp] theorem Dev.metaRead_gpio (d) (t) (i) : (Dev.metaRead d t i).gpio = d.gpio := (Dev.metaRead_touches d t i).same .gpio (by decide)
@[simp] theorem Dev.metaRead_keel (d) (t) (i) : (Dev.metaRead d t i).keel = d.keel := (Dev.metaRead_touches d t i).same .keel (by decide)
@[simp] theorem Dev.metaRead_log (d) (t) (i) : (Dev.metaRead d t i).log = d.log := (Dev.metaRead_touches d t i).same .log (by decide)
@[simp] theorem Dev.metaRead_aon (d) (t) (i) : (Dev.metaRead d t i).aon = d.aon := (Dev.metaRead_touches d t i).same .aon (by decide)
@[simp] theorem Dev.metaRead_cores (d) (t) (i) : (Dev.metaRead d t i).cores = d.cores := (Dev.metaRead_touches d t i).same .cores (by decide)
@[simp] theorem Dev.metaRead_sems (d) (t) (i) : (Dev.metaRead d t i).sems = d.sems := (Dev.metaRead_touches d t i).same .sems (by decide)
@[simp] theorem Dev.metaRead_images (d) (t) (i) : (Dev.metaRead d t i).images = d.images := (Dev.metaRead_touches d t i).same .images (by decide)
@[simp] theorem Dev.metaRead_pmc (d) (t) (i) : (Dev.metaRead d t i).pmc = d.pmc := (Dev.metaRead_touches d t i).same .pmc (by decide)
@[simp] theorem Dev.metaRead_bst (d) (t) (i) : (Dev.metaRead d t i).bst = d.bst := (Dev.metaRead_touches d t i).same .bst (by decide)
@[simp] theorem Dev.metaRead_dbg (d) (t) (i) : (Dev.metaRead d t i).dbg = d.dbg := (Dev.metaRead_touches d t i).same .dbg (by decide)
@[simp] theorem Dev.metaRead_gon (d) (t) (i) : (Dev.metaRead d t i).gon = d.gon := (Dev.metaRead_touches d t i).same .gon (by decide)
@[simp] theorem Dev.metaRead_cache (d) (t) (i) : (Dev.metaRead d t i).cache = d.cache := (Dev.metaRead_touches d t i).same .cache (by decide)
@[simp] theorem Dev.metaRead_media (d) (t) (i) : (Dev.metaRead d t i).media = d.media := (Dev.metaRead_touches d t i).same .media (by decide)
@[simp] theorem Dev.metaRead_tracts (d) (t) (i) : (Dev.metaRead d t i).tracts = d.tracts := (Dev.metaRead_touches d t i).same .tracts (by decide)
@[simp] theorem Dev.metaRead_drift (d) (t) (i) : (Dev.metaRead d t i).drift = d.drift := (Dev.metaRead_touches d t i).same .drift (by decide)
@[simp] theorem Dev.metaRead_sec (d) (t) (i) : (Dev.metaRead d t i).sec = d.sec := (Dev.metaRead_touches d t i).same .sec (by decide)
@[simp] theorem Dev.metaRead_str (d) (t) (i) : (Dev.metaRead d t i).str = d.str := (Dev.metaRead_touches d t i).same .str (by decide)
@[simp] theorem Dev.metaRead_lci (d) (t) (i) : (Dev.metaRead d t i).lci = d.lci := (Dev.metaRead_touches d t i).same .lci (by decide)
@[simp] theorem Dev.metaRead_pwr (d) (t) (i) : (Dev.metaRead d t i).pwr = d.pwr := (Dev.metaRead_touches d t i).same .pwr (by decide)
@[simp] theorem Dev.metaRead_therm (d) (t) (i) : (Dev.metaRead d t i).therm = d.therm := (Dev.metaRead_touches d t i).same .therm (by decide)
@[simp] theorem Dev.metaRead_out (d) (t) (i) : (Dev.metaRead d t i).out = d.out := (Dev.metaRead_touches d t i).same .out (by decide)
@[simp] theorem Dev.metaRead_fresh (d) (t) (i) : (Dev.metaRead d t i).fresh = d.fresh := (Dev.metaRead_touches d t i).same .fresh (by decide)
@[simp] theorem Dev.metaRead_head (d) (t) (i) (hd) : (Dev.metaRead d t i).head hd = d.head hd := Dev.head_same hd (Dev.metaRead_a d t i) (Dev.metaRead_b d t i)
@[simp] theorem Dev.metaRead_chan (d) (t) (i) (oo) : (Dev.metaRead d t i).chan oo = d.chan oo := Dev.chan_same oo (Dev.metaRead_media d t i)
@[simp] theorem Dev.metaRead_die (d) (t) (i) (oo) : (Dev.metaRead d t i).die oo = d.die oo := Dev.die_same oo (Dev.metaRead_media d t i)
@[simp] theorem Dev.metaRead_ctl (d) (t) (i) (oo) : (Dev.metaRead d t i).ctl oo = d.ctl oo := Dev.ctl_same oo (Dev.metaRead_media d t i)
@[simp] theorem Dev.metaRead_grp (d) (t) (i) (oo) : (Dev.metaRead d t i).grp oo = d.grp oo := Dev.grp_same oo (Dev.metaRead_media d t i)
@[simp] theorem Dev.metaRead_qp (d) (t) (i) (oo) : (Dev.metaRead d t i).qp oo = d.qp oo := Dev.qp_same oo (Dev.metaRead_lci d t i)
@[simp] theorem Dev.metaRead_cmd (d) (t) (i) (oo) : (Dev.metaRead d t i).cmd oo = d.cmd oo := Dev.cmd_same oo (Dev.metaRead_lci d t i)
@[simp] theorem Dev.metaRead_ent (d) (t) (i) (oo) : (Dev.metaRead d t i).ent oo = d.ent oo := Dev.ent_same oo (Dev.metaRead_tracts d t i)
@[simp] theorem Dev.metaRead_hdr (d) (t) (i) (oo) : (Dev.metaRead d t i).hdr oo = d.hdr oo := Dev.hdr_same oo (Dev.metaRead_tracts d t i)
@[simp] theorem Dev.metaRead_phys (d) (t) (i) (oo) (ii) : (Dev.metaRead d t i).phys oo ii = d.phys oo ii := Dev.phys_same oo ii (Dev.metaRead_tracts d t i)
@[simp] theorem Dev.metaRead_slot (d) (t) (i) (oo) : (Dev.metaRead d t i).slot oo = d.slot oo := Dev.slot_same oo (Dev.metaRead_sec d t i)
@[simp] theorem Dev.metaRead_schan (d) (t) (i) (oo) : (Dev.metaRead d t i).schan oo = d.schan oo := Dev.schan_same oo (Dev.metaRead_str d t i)
@[simp] theorem Dev.post_tether (d) (h) (n) (k) (arg) : (Dev.post d h n k arg).tether = d.tether := (Dev.post_touches d h n k arg).same .tether (by decide)
@[simp] theorem Dev.post_launch (d) (h) (n) (k) (arg) : (Dev.post d h n k arg).launch = d.launch := (Dev.post_touches d h n k arg).same .launch (by decide)
@[simp] theorem Dev.post_gpio (d) (h) (n) (k) (arg) : (Dev.post d h n k arg).gpio = d.gpio := (Dev.post_touches d h n k arg).same .gpio (by decide)
@[simp] theorem Dev.post_keel (d) (h) (n) (k) (arg) : (Dev.post d h n k arg).keel = d.keel := (Dev.post_touches d h n k arg).same .keel (by decide)
@[simp] theorem Dev.post_log (d) (h) (n) (k) (arg) : (Dev.post d h n k arg).log = d.log := (Dev.post_touches d h n k arg).same .log (by decide)
@[simp] theorem Dev.post_aon (d) (h) (n) (k) (arg) : (Dev.post d h n k arg).aon = d.aon := (Dev.post_touches d h n k arg).same .aon (by decide)
@[simp] theorem Dev.post_cores (d) (h) (n) (k) (arg) : (Dev.post d h n k arg).cores = d.cores := (Dev.post_touches d h n k arg).same .cores (by decide)
@[simp] theorem Dev.post_sems (d) (h) (n) (k) (arg) : (Dev.post d h n k arg).sems = d.sems := (Dev.post_touches d h n k arg).same .sems (by decide)
@[simp] theorem Dev.post_images (d) (h) (n) (k) (arg) : (Dev.post d h n k arg).images = d.images := (Dev.post_touches d h n k arg).same .images (by decide)
@[simp] theorem Dev.post_pmc (d) (h) (n) (k) (arg) : (Dev.post d h n k arg).pmc = d.pmc := (Dev.post_touches d h n k arg).same .pmc (by decide)
@[simp] theorem Dev.post_bst (d) (h) (n) (k) (arg) : (Dev.post d h n k arg).bst = d.bst := (Dev.post_touches d h n k arg).same .bst (by decide)
@[simp] theorem Dev.post_dbg (d) (h) (n) (k) (arg) : (Dev.post d h n k arg).dbg = d.dbg := (Dev.post_touches d h n k arg).same .dbg (by decide)
@[simp] theorem Dev.post_gon (d) (h) (n) (k) (arg) : (Dev.post d h n k arg).gon = d.gon := (Dev.post_touches d h n k arg).same .gon (by decide)
@[simp] theorem Dev.post_cache (d) (h) (n) (k) (arg) : (Dev.post d h n k arg).cache = d.cache := (Dev.post_touches d h n k arg).same .cache (by decide)
@[simp] theorem Dev.post_media (d) (h) (n) (k) (arg) : (Dev.post d h n k arg).media = d.media := (Dev.post_touches d h n k arg).same .media (by decide)
@[simp] theorem Dev.post_tracts (d) (h) (n) (k) (arg) : (Dev.post d h n k arg).tracts = d.tracts := (Dev.post_touches d h n k arg).same .tracts (by decide)
@[simp] theorem Dev.post_drift (d) (h) (n) (k) (arg) : (Dev.post d h n k arg).drift = d.drift := (Dev.post_touches d h n k arg).same .drift (by decide)
@[simp] theorem Dev.post_sec (d) (h) (n) (k) (arg) : (Dev.post d h n k arg).sec = d.sec := (Dev.post_touches d h n k arg).same .sec (by decide)
@[simp] theorem Dev.post_str (d) (h) (n) (k) (arg) : (Dev.post d h n k arg).str = d.str := (Dev.post_touches d h n k arg).same .str (by decide)
@[simp] theorem Dev.post_lci (d) (h) (n) (k) (arg) : (Dev.post d h n k arg).lci = d.lci := (Dev.post_touches d h n k arg).same .lci (by decide)
@[simp] theorem Dev.post_pwr (d) (h) (n) (k) (arg) : (Dev.post d h n k arg).pwr = d.pwr := (Dev.post_touches d h n k arg).same .pwr (by decide)
@[simp] theorem Dev.post_therm (d) (h) (n) (k) (arg) : (Dev.post d h n k arg).therm = d.therm := (Dev.post_touches d h n k arg).same .therm (by decide)
@[simp] theorem Dev.post_fresh (d) (h) (n) (k) (arg) : (Dev.post d h n k arg).fresh = d.fresh := (Dev.post_touches d h n k arg).same .fresh (by decide)
@[simp] theorem Dev.post_chan (d) (h) (n) (k) (arg) (oo) : (Dev.post d h n k arg).chan oo = d.chan oo := Dev.chan_same oo (Dev.post_media d h n k arg)
@[simp] theorem Dev.post_die (d) (h) (n) (k) (arg) (oo) : (Dev.post d h n k arg).die oo = d.die oo := Dev.die_same oo (Dev.post_media d h n k arg)
@[simp] theorem Dev.post_ctl (d) (h) (n) (k) (arg) (oo) : (Dev.post d h n k arg).ctl oo = d.ctl oo := Dev.ctl_same oo (Dev.post_media d h n k arg)
@[simp] theorem Dev.post_grp (d) (h) (n) (k) (arg) (oo) : (Dev.post d h n k arg).grp oo = d.grp oo := Dev.grp_same oo (Dev.post_media d h n k arg)
@[simp] theorem Dev.post_qp (d) (h) (n) (k) (arg) (oo) : (Dev.post d h n k arg).qp oo = d.qp oo := Dev.qp_same oo (Dev.post_lci d h n k arg)
@[simp] theorem Dev.post_cmd (d) (h) (n) (k) (arg) (oo) : (Dev.post d h n k arg).cmd oo = d.cmd oo := Dev.cmd_same oo (Dev.post_lci d h n k arg)
@[simp] theorem Dev.post_ent (d) (h) (n) (k) (arg) (oo) : (Dev.post d h n k arg).ent oo = d.ent oo := Dev.ent_same oo (Dev.post_tracts d h n k arg)
@[simp] theorem Dev.post_hdr (d) (h) (n) (k) (arg) (oo) : (Dev.post d h n k arg).hdr oo = d.hdr oo := Dev.hdr_same oo (Dev.post_tracts d h n k arg)
@[simp] theorem Dev.post_phys (d) (h) (n) (k) (arg) (oo) (ii) : (Dev.post d h n k arg).phys oo ii = d.phys oo ii := Dev.phys_same oo ii (Dev.post_tracts d h n k arg)
@[simp] theorem Dev.post_slot (d) (h) (n) (k) (arg) (oo) : (Dev.post d h n k arg).slot oo = d.slot oo := Dev.slot_same oo (Dev.post_sec d h n k arg)
@[simp] theorem Dev.post_schan (d) (h) (n) (k) (arg) (oo) : (Dev.post d h n k arg).schan oo = d.schan oo := Dev.schan_same oo (Dev.post_str d h n k arg)
@[simp] theorem Dev.notice_a (F) (d) : (Dev.notice F d).a = d.a := (Dev.notice_touches F d).same .a (by decide)
@[simp] theorem Dev.notice_b (F) (d) : (Dev.notice F d).b = d.b := (Dev.notice_touches F d).same .b (by decide)
@[simp] theorem Dev.notice_tether (F) (d) : (Dev.notice F d).tether = d.tether := (Dev.notice_touches F d).same .tether (by decide)
@[simp] theorem Dev.notice_launch (F) (d) : (Dev.notice F d).launch = d.launch := (Dev.notice_touches F d).same .launch (by decide)
@[simp] theorem Dev.notice_gpio (F) (d) : (Dev.notice F d).gpio = d.gpio := (Dev.notice_touches F d).same .gpio (by decide)
@[simp] theorem Dev.notice_keel (F) (d) : (Dev.notice F d).keel = d.keel := (Dev.notice_touches F d).same .keel (by decide)
@[simp] theorem Dev.notice_log (F) (d) : (Dev.notice F d).log = d.log := (Dev.notice_touches F d).same .log (by decide)
@[simp] theorem Dev.notice_aon (F) (d) : (Dev.notice F d).aon = d.aon := (Dev.notice_touches F d).same .aon (by decide)
@[simp] theorem Dev.notice_cores (F) (d) : (Dev.notice F d).cores = d.cores := (Dev.notice_touches F d).same .cores (by decide)
@[simp] theorem Dev.notice_sems (F) (d) : (Dev.notice F d).sems = d.sems := (Dev.notice_touches F d).same .sems (by decide)
@[simp] theorem Dev.notice_images (F) (d) : (Dev.notice F d).images = d.images := (Dev.notice_touches F d).same .images (by decide)
@[simp] theorem Dev.notice_pmc (F) (d) : (Dev.notice F d).pmc = d.pmc := (Dev.notice_touches F d).same .pmc (by decide)
@[simp] theorem Dev.notice_bst (F) (d) : (Dev.notice F d).bst = d.bst := (Dev.notice_touches F d).same .bst (by decide)
@[simp] theorem Dev.notice_dbg (F) (d) : (Dev.notice F d).dbg = d.dbg := (Dev.notice_touches F d).same .dbg (by decide)
@[simp] theorem Dev.notice_gon (F) (d) : (Dev.notice F d).gon = d.gon := (Dev.notice_touches F d).same .gon (by decide)
@[simp] theorem Dev.notice_cache (F) (d) : (Dev.notice F d).cache = d.cache := (Dev.notice_touches F d).same .cache (by decide)
@[simp] theorem Dev.notice_media (F) (d) : (Dev.notice F d).media = d.media := (Dev.notice_touches F d).same .media (by decide)
@[simp] theorem Dev.notice_tracts (F) (d) : (Dev.notice F d).tracts = d.tracts := (Dev.notice_touches F d).same .tracts (by decide)
@[simp] theorem Dev.notice_drift (F) (d) : (Dev.notice F d).drift = d.drift := (Dev.notice_touches F d).same .drift (by decide)
@[simp] theorem Dev.notice_sec (F) (d) : (Dev.notice F d).sec = d.sec := (Dev.notice_touches F d).same .sec (by decide)
@[simp] theorem Dev.notice_str (F) (d) : (Dev.notice F d).str = d.str := (Dev.notice_touches F d).same .str (by decide)
@[simp] theorem Dev.notice_lci (F) (d) : (Dev.notice F d).lci = d.lci := (Dev.notice_touches F d).same .lci (by decide)
@[simp] theorem Dev.notice_pwr (F) (d) : (Dev.notice F d).pwr = d.pwr := (Dev.notice_touches F d).same .pwr (by decide)
@[simp] theorem Dev.notice_therm (F) (d) : (Dev.notice F d).therm = d.therm := (Dev.notice_touches F d).same .therm (by decide)
@[simp] theorem Dev.notice_fresh (F) (d) : (Dev.notice F d).fresh = d.fresh := (Dev.notice_touches F d).same .fresh (by decide)
@[simp] theorem Dev.notice_head (F) (d) (hd) : (Dev.notice F d).head hd = d.head hd := Dev.head_same hd (Dev.notice_a F d) (Dev.notice_b F d)
@[simp] theorem Dev.notice_chan (F) (d) (oo) : (Dev.notice F d).chan oo = d.chan oo := Dev.chan_same oo (Dev.notice_media F d)
@[simp] theorem Dev.notice_die (F) (d) (oo) : (Dev.notice F d).die oo = d.die oo := Dev.die_same oo (Dev.notice_media F d)
@[simp] theorem Dev.notice_ctl (F) (d) (oo) : (Dev.notice F d).ctl oo = d.ctl oo := Dev.ctl_same oo (Dev.notice_media F d)
@[simp] theorem Dev.notice_grp (F) (d) (oo) : (Dev.notice F d).grp oo = d.grp oo := Dev.grp_same oo (Dev.notice_media F d)
@[simp] theorem Dev.notice_qp (F) (d) (oo) : (Dev.notice F d).qp oo = d.qp oo := Dev.qp_same oo (Dev.notice_lci F d)
@[simp] theorem Dev.notice_cmd (F) (d) (oo) : (Dev.notice F d).cmd oo = d.cmd oo := Dev.cmd_same oo (Dev.notice_lci F d)
@[simp] theorem Dev.notice_ent (F) (d) (oo) : (Dev.notice F d).ent oo = d.ent oo := Dev.ent_same oo (Dev.notice_tracts F d)
@[simp] theorem Dev.notice_hdr (F) (d) (oo) : (Dev.notice F d).hdr oo = d.hdr oo := Dev.hdr_same oo (Dev.notice_tracts F d)
@[simp] theorem Dev.notice_phys (F) (d) (oo) (ii) : (Dev.notice F d).phys oo ii = d.phys oo ii := Dev.phys_same oo ii (Dev.notice_tracts F d)
@[simp] theorem Dev.notice_slot (F) (d) (oo) : (Dev.notice F d).slot oo = d.slot oo := Dev.slot_same oo (Dev.notice_sec F d)
@[simp] theorem Dev.notice_schan (F) (d) (oo) : (Dev.notice F d).schan oo = d.schan oo := Dev.schan_same oo (Dev.notice_str F d)
@[simp] theorem Dev.logPush_a (d) (code) (arg) (tether) : (Dev.logPush d code arg tether).a = d.a := (Dev.logPush_touches d code arg tether).same .a (by decide)
@[simp] theorem Dev.logPush_b (d) (code) (arg) (tether) : (Dev.logPush d code arg tether).b = d.b := (Dev.logPush_touches d code arg tether).same .b (by decide)
@[simp] theorem Dev.logPush_tether (d) (code) (arg) (tether) : (Dev.logPush d code arg tether).tether = d.tether := (Dev.logPush_touches d code arg tether).same .tether (by decide)
@[simp] theorem Dev.logPush_launch (d) (code) (arg) (tether) : (Dev.logPush d code arg tether).launch = d.launch := (Dev.logPush_touches d code arg tether).same .launch (by decide)
@[simp] theorem Dev.logPush_gpio (d) (code) (arg) (tether) : (Dev.logPush d code arg tether).gpio = d.gpio := (Dev.logPush_touches d code arg tether).same .gpio (by decide)
@[simp] theorem Dev.logPush_keel (d) (code) (arg) (tether) : (Dev.logPush d code arg tether).keel = d.keel := (Dev.logPush_touches d code arg tether).same .keel (by decide)
@[simp] theorem Dev.logPush_aon (d) (code) (arg) (tether) : (Dev.logPush d code arg tether).aon = d.aon := (Dev.logPush_touches d code arg tether).same .aon (by decide)
@[simp] theorem Dev.logPush_cores (d) (code) (arg) (tether) : (Dev.logPush d code arg tether).cores = d.cores := (Dev.logPush_touches d code arg tether).same .cores (by decide)
@[simp] theorem Dev.logPush_sems (d) (code) (arg) (tether) : (Dev.logPush d code arg tether).sems = d.sems := (Dev.logPush_touches d code arg tether).same .sems (by decide)
@[simp] theorem Dev.logPush_images (d) (code) (arg) (tether) : (Dev.logPush d code arg tether).images = d.images := (Dev.logPush_touches d code arg tether).same .images (by decide)
@[simp] theorem Dev.logPush_pmc (d) (code) (arg) (tether) : (Dev.logPush d code arg tether).pmc = d.pmc := (Dev.logPush_touches d code arg tether).same .pmc (by decide)
@[simp] theorem Dev.logPush_bst (d) (code) (arg) (tether) : (Dev.logPush d code arg tether).bst = d.bst := (Dev.logPush_touches d code arg tether).same .bst (by decide)
@[simp] theorem Dev.logPush_dbg (d) (code) (arg) (tether) : (Dev.logPush d code arg tether).dbg = d.dbg := (Dev.logPush_touches d code arg tether).same .dbg (by decide)
@[simp] theorem Dev.logPush_gon (d) (code) (arg) (tether) : (Dev.logPush d code arg tether).gon = d.gon := (Dev.logPush_touches d code arg tether).same .gon (by decide)
@[simp] theorem Dev.logPush_cache (d) (code) (arg) (tether) : (Dev.logPush d code arg tether).cache = d.cache := (Dev.logPush_touches d code arg tether).same .cache (by decide)
@[simp] theorem Dev.logPush_media (d) (code) (arg) (tether) : (Dev.logPush d code arg tether).media = d.media := (Dev.logPush_touches d code arg tether).same .media (by decide)
@[simp] theorem Dev.logPush_tracts (d) (code) (arg) (tether) : (Dev.logPush d code arg tether).tracts = d.tracts := (Dev.logPush_touches d code arg tether).same .tracts (by decide)
@[simp] theorem Dev.logPush_drift (d) (code) (arg) (tether) : (Dev.logPush d code arg tether).drift = d.drift := (Dev.logPush_touches d code arg tether).same .drift (by decide)
@[simp] theorem Dev.logPush_sec (d) (code) (arg) (tether) : (Dev.logPush d code arg tether).sec = d.sec := (Dev.logPush_touches d code arg tether).same .sec (by decide)
@[simp] theorem Dev.logPush_str (d) (code) (arg) (tether) : (Dev.logPush d code arg tether).str = d.str := (Dev.logPush_touches d code arg tether).same .str (by decide)
@[simp] theorem Dev.logPush_lci (d) (code) (arg) (tether) : (Dev.logPush d code arg tether).lci = d.lci := (Dev.logPush_touches d code arg tether).same .lci (by decide)
@[simp] theorem Dev.logPush_pwr (d) (code) (arg) (tether) : (Dev.logPush d code arg tether).pwr = d.pwr := (Dev.logPush_touches d code arg tether).same .pwr (by decide)
@[simp] theorem Dev.logPush_therm (d) (code) (arg) (tether) : (Dev.logPush d code arg tether).therm = d.therm := (Dev.logPush_touches d code arg tether).same .therm (by decide)
@[simp] theorem Dev.logPush_out (d) (code) (arg) (tether) : (Dev.logPush d code arg tether).out = d.out := (Dev.logPush_touches d code arg tether).same .out (by decide)
@[simp] theorem Dev.logPush_fresh (d) (code) (arg) (tether) : (Dev.logPush d code arg tether).fresh = d.fresh := (Dev.logPush_touches d code arg tether).same .fresh (by decide)
@[simp] theorem Dev.logPush_head (d) (code) (arg) (tether) (hd) : (Dev.logPush d code arg tether).head hd = d.head hd := Dev.head_same hd (Dev.logPush_a d code arg tether) (Dev.logPush_b d code arg tether)
@[simp] theorem Dev.logPush_chan (d) (code) (arg) (tether) (oo) : (Dev.logPush d code arg tether).chan oo = d.chan oo := Dev.chan_same oo (Dev.logPush_media d code arg tether)
@[simp] theorem Dev.logPush_die (d) (code) (arg) (tether) (oo) : (Dev.logPush d code arg tether).die oo = d.die oo := Dev.die_same oo (Dev.logPush_media d code arg tether)
@[simp] theorem Dev.logPush_ctl (d) (code) (arg) (tether) (oo) : (Dev.logPush d code arg tether).ctl oo = d.ctl oo := Dev.ctl_same oo (Dev.logPush_media d code arg tether)
@[simp] theorem Dev.logPush_grp (d) (code) (arg) (tether) (oo) : (Dev.logPush d code arg tether).grp oo = d.grp oo := Dev.grp_same oo (Dev.logPush_media d code arg tether)
@[simp] theorem Dev.logPush_qp (d) (code) (arg) (tether) (oo) : (Dev.logPush d code arg tether).qp oo = d.qp oo := Dev.qp_same oo (Dev.logPush_lci d code arg tether)
@[simp] theorem Dev.logPush_cmd (d) (code) (arg) (tether) (oo) : (Dev.logPush d code arg tether).cmd oo = d.cmd oo := Dev.cmd_same oo (Dev.logPush_lci d code arg tether)
@[simp] theorem Dev.logPush_ent (d) (code) (arg) (tether) (oo) : (Dev.logPush d code arg tether).ent oo = d.ent oo := Dev.ent_same oo (Dev.logPush_tracts d code arg tether)
@[simp] theorem Dev.logPush_hdr (d) (code) (arg) (tether) (oo) : (Dev.logPush d code arg tether).hdr oo = d.hdr oo := Dev.hdr_same oo (Dev.logPush_tracts d code arg tether)
@[simp] theorem Dev.logPush_phys (d) (code) (arg) (tether) (oo) (ii) : (Dev.logPush d code arg tether).phys oo ii = d.phys oo ii := Dev.phys_same oo ii (Dev.logPush_tracts d code arg tether)
@[simp] theorem Dev.logPush_slot (d) (code) (arg) (tether) (oo) : (Dev.logPush d code arg tether).slot oo = d.slot oo := Dev.slot_same oo (Dev.logPush_sec d code arg tether)
@[simp] theorem Dev.logPush_schan (d) (code) (arg) (tether) (oo) : (Dev.logPush d code arg tether).schan oo = d.schan oo := Dev.schan_same oo (Dev.logPush_str d code arg tether)
@[simp] theorem Dev.keelPut_regs (d) (w) : (Dev.keelPut d w).regs = d.regs := (Dev.keelPut_touches d w).same .regs (by decide)
@[simp] theorem Dev.keelPut_a (d) (w) : (Dev.keelPut d w).a = d.a := (Dev.keelPut_touches d w).same .a (by decide)
@[simp] theorem Dev.keelPut_b (d) (w) : (Dev.keelPut d w).b = d.b := (Dev.keelPut_touches d w).same .b (by decide)
@[simp] theorem Dev.keelPut_tether (d) (w) : (Dev.keelPut d w).tether = d.tether := (Dev.keelPut_touches d w).same .tether (by decide)
@[simp] theorem Dev.keelPut_launch (d) (w) : (Dev.keelPut d w).launch = d.launch := (Dev.keelPut_touches d w).same .launch (by decide)
@[simp] theorem Dev.keelPut_gpio (d) (w) : (Dev.keelPut d w).gpio = d.gpio := (Dev.keelPut_touches d w).same .gpio (by decide)
@[simp] theorem Dev.keelPut_log (d) (w) : (Dev.keelPut d w).log = d.log := (Dev.keelPut_touches d w).same .log (by decide)
@[simp] theorem Dev.keelPut_aon (d) (w) : (Dev.keelPut d w).aon = d.aon := (Dev.keelPut_touches d w).same .aon (by decide)
@[simp] theorem Dev.keelPut_cores (d) (w) : (Dev.keelPut d w).cores = d.cores := (Dev.keelPut_touches d w).same .cores (by decide)
@[simp] theorem Dev.keelPut_sems (d) (w) : (Dev.keelPut d w).sems = d.sems := (Dev.keelPut_touches d w).same .sems (by decide)
@[simp] theorem Dev.keelPut_images (d) (w) : (Dev.keelPut d w).images = d.images := (Dev.keelPut_touches d w).same .images (by decide)
@[simp] theorem Dev.keelPut_pmc (d) (w) : (Dev.keelPut d w).pmc = d.pmc := (Dev.keelPut_touches d w).same .pmc (by decide)
@[simp] theorem Dev.keelPut_bst (d) (w) : (Dev.keelPut d w).bst = d.bst := (Dev.keelPut_touches d w).same .bst (by decide)
@[simp] theorem Dev.keelPut_dbg (d) (w) : (Dev.keelPut d w).dbg = d.dbg := (Dev.keelPut_touches d w).same .dbg (by decide)
@[simp] theorem Dev.keelPut_gon (d) (w) : (Dev.keelPut d w).gon = d.gon := (Dev.keelPut_touches d w).same .gon (by decide)
@[simp] theorem Dev.keelPut_cache (d) (w) : (Dev.keelPut d w).cache = d.cache := (Dev.keelPut_touches d w).same .cache (by decide)
@[simp] theorem Dev.keelPut_media (d) (w) : (Dev.keelPut d w).media = d.media := (Dev.keelPut_touches d w).same .media (by decide)
@[simp] theorem Dev.keelPut_tracts (d) (w) : (Dev.keelPut d w).tracts = d.tracts := (Dev.keelPut_touches d w).same .tracts (by decide)
@[simp] theorem Dev.keelPut_drift (d) (w) : (Dev.keelPut d w).drift = d.drift := (Dev.keelPut_touches d w).same .drift (by decide)
@[simp] theorem Dev.keelPut_sec (d) (w) : (Dev.keelPut d w).sec = d.sec := (Dev.keelPut_touches d w).same .sec (by decide)
@[simp] theorem Dev.keelPut_str (d) (w) : (Dev.keelPut d w).str = d.str := (Dev.keelPut_touches d w).same .str (by decide)
@[simp] theorem Dev.keelPut_lci (d) (w) : (Dev.keelPut d w).lci = d.lci := (Dev.keelPut_touches d w).same .lci (by decide)
@[simp] theorem Dev.keelPut_pwr (d) (w) : (Dev.keelPut d w).pwr = d.pwr := (Dev.keelPut_touches d w).same .pwr (by decide)
@[simp] theorem Dev.keelPut_therm (d) (w) : (Dev.keelPut d w).therm = d.therm := (Dev.keelPut_touches d w).same .therm (by decide)
@[simp] theorem Dev.keelPut_out (d) (w) : (Dev.keelPut d w).out = d.out := (Dev.keelPut_touches d w).same .out (by decide)
@[simp] theorem Dev.keelPut_fresh (d) (w) : (Dev.keelPut d w).fresh = d.fresh := (Dev.keelPut_touches d w).same .fresh (by decide)
@[simp] theorem Dev.keelPut_head (d) (w) (hd) : (Dev.keelPut d w).head hd = d.head hd := Dev.head_same hd (Dev.keelPut_a d w) (Dev.keelPut_b d w)
@[simp] theorem Dev.keelPut_reg (d) (w) (oo) : (Dev.keelPut d w).reg oo = d.reg oo := Dev.reg_same oo (Dev.keelPut_regs d w)
@[simp] theorem Dev.keelPut_chan (d) (w) (oo) : (Dev.keelPut d w).chan oo = d.chan oo := Dev.chan_same oo (Dev.keelPut_media d w)
@[simp] theorem Dev.keelPut_die (d) (w) (oo) : (Dev.keelPut d w).die oo = d.die oo := Dev.die_same oo (Dev.keelPut_media d w)
@[simp] theorem Dev.keelPut_ctl (d) (w) (oo) : (Dev.keelPut d w).ctl oo = d.ctl oo := Dev.ctl_same oo (Dev.keelPut_media d w)
@[simp] theorem Dev.keelPut_grp (d) (w) (oo) : (Dev.keelPut d w).grp oo = d.grp oo := Dev.grp_same oo (Dev.keelPut_media d w)
@[simp] theorem Dev.keelPut_qp (d) (w) (oo) : (Dev.keelPut d w).qp oo = d.qp oo := Dev.qp_same oo (Dev.keelPut_lci d w)
@[simp] theorem Dev.keelPut_cmd (d) (w) (oo) : (Dev.keelPut d w).cmd oo = d.cmd oo := Dev.cmd_same oo (Dev.keelPut_lci d w)
@[simp] theorem Dev.keelPut_ent (d) (w) (oo) : (Dev.keelPut d w).ent oo = d.ent oo := Dev.ent_same oo (Dev.keelPut_tracts d w)
@[simp] theorem Dev.keelPut_hdr (d) (w) (oo) : (Dev.keelPut d w).hdr oo = d.hdr oo := Dev.hdr_same oo (Dev.keelPut_tracts d w)
@[simp] theorem Dev.keelPut_phys (d) (w) (oo) (ii) : (Dev.keelPut d w).phys oo ii = d.phys oo ii := Dev.phys_same oo ii (Dev.keelPut_tracts d w)
@[simp] theorem Dev.keelPut_slot (d) (w) (oo) : (Dev.keelPut d w).slot oo = d.slot oo := Dev.slot_same oo (Dev.keelPut_sec d w)
@[simp] theorem Dev.keelPut_schan (d) (w) (oo) : (Dev.keelPut d w).schan oo = d.schan oo := Dev.schan_same oo (Dev.keelPut_str d w)
@[simp] theorem Dev.recordIn_a (F) (d) (code) (arg) (tether) : (Dev.recordIn F d code arg tether).a = d.a := (Dev.recordIn_touches F d code arg tether).same .a (by decide)
@[simp] theorem Dev.recordIn_b (F) (d) (code) (arg) (tether) : (Dev.recordIn F d code arg tether).b = d.b := (Dev.recordIn_touches F d code arg tether).same .b (by decide)
@[simp] theorem Dev.recordIn_tether (F) (d) (code) (arg) (tether) : (Dev.recordIn F d code arg tether).tether = d.tether := (Dev.recordIn_touches F d code arg tether).same .tether (by decide)
@[simp] theorem Dev.recordIn_launch (F) (d) (code) (arg) (tether) : (Dev.recordIn F d code arg tether).launch = d.launch := (Dev.recordIn_touches F d code arg tether).same .launch (by decide)
@[simp] theorem Dev.recordIn_gpio (F) (d) (code) (arg) (tether) : (Dev.recordIn F d code arg tether).gpio = d.gpio := (Dev.recordIn_touches F d code arg tether).same .gpio (by decide)
@[simp] theorem Dev.recordIn_keel (F) (d) (code) (arg) (tether) : (Dev.recordIn F d code arg tether).keel = d.keel := (Dev.recordIn_touches F d code arg tether).same .keel (by decide)
@[simp] theorem Dev.recordIn_aon (F) (d) (code) (arg) (tether) : (Dev.recordIn F d code arg tether).aon = d.aon := (Dev.recordIn_touches F d code arg tether).same .aon (by decide)
@[simp] theorem Dev.recordIn_cores (F) (d) (code) (arg) (tether) : (Dev.recordIn F d code arg tether).cores = d.cores := (Dev.recordIn_touches F d code arg tether).same .cores (by decide)
@[simp] theorem Dev.recordIn_sems (F) (d) (code) (arg) (tether) : (Dev.recordIn F d code arg tether).sems = d.sems := (Dev.recordIn_touches F d code arg tether).same .sems (by decide)
@[simp] theorem Dev.recordIn_images (F) (d) (code) (arg) (tether) : (Dev.recordIn F d code arg tether).images = d.images := (Dev.recordIn_touches F d code arg tether).same .images (by decide)
@[simp] theorem Dev.recordIn_pmc (F) (d) (code) (arg) (tether) : (Dev.recordIn F d code arg tether).pmc = d.pmc := (Dev.recordIn_touches F d code arg tether).same .pmc (by decide)
@[simp] theorem Dev.recordIn_bst (F) (d) (code) (arg) (tether) : (Dev.recordIn F d code arg tether).bst = d.bst := (Dev.recordIn_touches F d code arg tether).same .bst (by decide)
@[simp] theorem Dev.recordIn_dbg (F) (d) (code) (arg) (tether) : (Dev.recordIn F d code arg tether).dbg = d.dbg := (Dev.recordIn_touches F d code arg tether).same .dbg (by decide)
@[simp] theorem Dev.recordIn_gon (F) (d) (code) (arg) (tether) : (Dev.recordIn F d code arg tether).gon = d.gon := (Dev.recordIn_touches F d code arg tether).same .gon (by decide)
@[simp] theorem Dev.recordIn_cache (F) (d) (code) (arg) (tether) : (Dev.recordIn F d code arg tether).cache = d.cache := (Dev.recordIn_touches F d code arg tether).same .cache (by decide)
@[simp] theorem Dev.recordIn_media (F) (d) (code) (arg) (tether) : (Dev.recordIn F d code arg tether).media = d.media := (Dev.recordIn_touches F d code arg tether).same .media (by decide)
@[simp] theorem Dev.recordIn_tracts (F) (d) (code) (arg) (tether) : (Dev.recordIn F d code arg tether).tracts = d.tracts := (Dev.recordIn_touches F d code arg tether).same .tracts (by decide)
@[simp] theorem Dev.recordIn_drift (F) (d) (code) (arg) (tether) : (Dev.recordIn F d code arg tether).drift = d.drift := (Dev.recordIn_touches F d code arg tether).same .drift (by decide)
@[simp] theorem Dev.recordIn_sec (F) (d) (code) (arg) (tether) : (Dev.recordIn F d code arg tether).sec = d.sec := (Dev.recordIn_touches F d code arg tether).same .sec (by decide)
@[simp] theorem Dev.recordIn_str (F) (d) (code) (arg) (tether) : (Dev.recordIn F d code arg tether).str = d.str := (Dev.recordIn_touches F d code arg tether).same .str (by decide)
@[simp] theorem Dev.recordIn_lci (F) (d) (code) (arg) (tether) : (Dev.recordIn F d code arg tether).lci = d.lci := (Dev.recordIn_touches F d code arg tether).same .lci (by decide)
@[simp] theorem Dev.recordIn_pwr (F) (d) (code) (arg) (tether) : (Dev.recordIn F d code arg tether).pwr = d.pwr := (Dev.recordIn_touches F d code arg tether).same .pwr (by decide)
@[simp] theorem Dev.recordIn_therm (F) (d) (code) (arg) (tether) : (Dev.recordIn F d code arg tether).therm = d.therm := (Dev.recordIn_touches F d code arg tether).same .therm (by decide)
@[simp] theorem Dev.recordIn_out (F) (d) (code) (arg) (tether) : (Dev.recordIn F d code arg tether).out = d.out := (Dev.recordIn_touches F d code arg tether).same .out (by decide)
@[simp] theorem Dev.recordIn_fresh (F) (d) (code) (arg) (tether) : (Dev.recordIn F d code arg tether).fresh = d.fresh := (Dev.recordIn_touches F d code arg tether).same .fresh (by decide)
@[simp] theorem Dev.recordIn_head (F) (d) (code) (arg) (tether) (hd) : (Dev.recordIn F d code arg tether).head hd = d.head hd := Dev.head_same hd (Dev.recordIn_a F d code arg tether) (Dev.recordIn_b F d code arg tether)
@[simp] theorem Dev.recordIn_chan (F) (d) (code) (arg) (tether) (oo) : (Dev.recordIn F d code arg tether).chan oo = d.chan oo := Dev.chan_same oo (Dev.recordIn_media F d code arg tether)
@[simp] theorem Dev.recordIn_die (F) (d) (code) (arg) (tether) (oo) : (Dev.recordIn F d code arg tether).die oo = d.die oo := Dev.die_same oo (Dev.recordIn_media F d code arg tether)
@[simp] theorem Dev.recordIn_ctl (F) (d) (code) (arg) (tether) (oo) : (Dev.recordIn F d code arg tether).ctl oo = d.ctl oo := Dev.ctl_same oo (Dev.recordIn_media F d code arg tether)
@[simp] theorem Dev.recordIn_grp (F) (d) (code) (arg) (tether) (oo) : (Dev.recordIn F d code arg tether).grp oo = d.grp oo := Dev.grp_same oo (Dev.recordIn_media F d code arg tether)
@[simp] theorem Dev.recordIn_qp (F) (d) (code) (arg) (tether) (oo) : (Dev.recordIn F d code arg tether).qp oo = d.qp oo := Dev.qp_same oo (Dev.recordIn_lci F d code arg tether)
@[simp] theorem Dev.recordIn_cmd (F) (d) (code) (arg) (tether) (oo) : (Dev.recordIn F d code arg tether).cmd oo = d.cmd oo := Dev.cmd_same oo (Dev.recordIn_lci F d code arg tether)
@[simp] theorem Dev.recordIn_ent (F) (d) (code) (arg) (tether) (oo) : (Dev.recordIn F d code arg tether).ent oo = d.ent oo := Dev.ent_same oo (Dev.recordIn_tracts F d code arg tether)
@[simp] theorem Dev.recordIn_hdr (F) (d) (code) (arg) (tether) (oo) : (Dev.recordIn F d code arg tether).hdr oo = d.hdr oo := Dev.hdr_same oo (Dev.recordIn_tracts F d code arg tether)
@[simp] theorem Dev.recordIn_phys (F) (d) (code) (arg) (tether) (oo) (ii) : (Dev.recordIn F d code arg tether).phys oo ii = d.phys oo ii := Dev.phys_same oo ii (Dev.recordIn_tracts F d code arg tether)
@[simp] theorem Dev.recordIn_slot (F) (d) (code) (arg) (tether) (oo) : (Dev.recordIn F d code arg tether).slot oo = d.slot oo := Dev.slot_same oo (Dev.recordIn_sec F d code arg tether)
@[simp] theorem Dev.recordIn_schan (F) (d) (code) (arg) (tether) (oo) : (Dev.recordIn F d code arg tether).schan oo = d.schan oo := Dev.schan_same oo (Dev.recordIn_str F d code arg tether)
@[simp] theorem Dev.tick_a (d) (id) (p) : (Dev.tick d id p).a = d.a := (Dev.tick_touches d id p).same .a (by decide)
@[simp] theorem Dev.tick_b (d) (id) (p) : (Dev.tick d id p).b = d.b := (Dev.tick_touches d id p).same .b (by decide)
@[simp] theorem Dev.tick_launch (d) (id) (p) : (Dev.tick d id p).launch = d.launch := (Dev.tick_touches d id p).same .launch (by decide)
@[simp] theorem Dev.tick_gpio (d) (id) (p) : (Dev.tick d id p).gpio = d.gpio := (Dev.tick_touches d id p).same .gpio (by decide)
@[simp] theorem Dev.tick_keel (d) (id) (p) : (Dev.tick d id p).keel = d.keel := (Dev.tick_touches d id p).same .keel (by decide)
@[simp] theorem Dev.tick_log (d) (id) (p) : (Dev.tick d id p).log = d.log := (Dev.tick_touches d id p).same .log (by decide)
@[simp] theorem Dev.tick_aon (d) (id) (p) : (Dev.tick d id p).aon = d.aon := (Dev.tick_touches d id p).same .aon (by decide)
@[simp] theorem Dev.tick_cores (d) (id) (p) : (Dev.tick d id p).cores = d.cores := (Dev.tick_touches d id p).same .cores (by decide)
@[simp] theorem Dev.tick_sems (d) (id) (p) : (Dev.tick d id p).sems = d.sems := (Dev.tick_touches d id p).same .sems (by decide)
@[simp] theorem Dev.tick_images (d) (id) (p) : (Dev.tick d id p).images = d.images := (Dev.tick_touches d id p).same .images (by decide)
@[simp] theorem Dev.tick_bst (d) (id) (p) : (Dev.tick d id p).bst = d.bst := (Dev.tick_touches d id p).same .bst (by decide)
@[simp] theorem Dev.tick_dbg (d) (id) (p) : (Dev.tick d id p).dbg = d.dbg := (Dev.tick_touches d id p).same .dbg (by decide)
@[simp] theorem Dev.tick_gon (d) (id) (p) : (Dev.tick d id p).gon = d.gon := (Dev.tick_touches d id p).same .gon (by decide)
@[simp] theorem Dev.tick_cache (d) (id) (p) : (Dev.tick d id p).cache = d.cache := (Dev.tick_touches d id p).same .cache (by decide)
@[simp] theorem Dev.tick_tracts (d) (id) (p) : (Dev.tick d id p).tracts = d.tracts := (Dev.tick_touches d id p).same .tracts (by decide)
@[simp] theorem Dev.tick_drift (d) (id) (p) : (Dev.tick d id p).drift = d.drift := (Dev.tick_touches d id p).same .drift (by decide)
@[simp] theorem Dev.tick_sec (d) (id) (p) : (Dev.tick d id p).sec = d.sec := (Dev.tick_touches d id p).same .sec (by decide)
@[simp] theorem Dev.tick_str (d) (id) (p) : (Dev.tick d id p).str = d.str := (Dev.tick_touches d id p).same .str (by decide)
@[simp] theorem Dev.tick_lci (d) (id) (p) : (Dev.tick d id p).lci = d.lci := (Dev.tick_touches d id p).same .lci (by decide)
@[simp] theorem Dev.tick_pwr (d) (id) (p) : (Dev.tick d id p).pwr = d.pwr := (Dev.tick_touches d id p).same .pwr (by decide)
@[simp] theorem Dev.tick_therm (d) (id) (p) : (Dev.tick d id p).therm = d.therm := (Dev.tick_touches d id p).same .therm (by decide)
@[simp] theorem Dev.tick_out (d) (id) (p) : (Dev.tick d id p).out = d.out := (Dev.tick_touches d id p).same .out (by decide)
@[simp] theorem Dev.tick_fresh (d) (id) (p) : (Dev.tick d id p).fresh = d.fresh := (Dev.tick_touches d id p).same .fresh (by decide)
@[simp] theorem Dev.tick_head (d) (id) (p) (hd) : (Dev.tick d id p).head hd = d.head hd := Dev.head_same hd (Dev.tick_a d id p) (Dev.tick_b d id p)
@[simp] theorem Dev.tick_qp (d) (id) (p) (oo) : (Dev.tick d id p).qp oo = d.qp oo := Dev.qp_same oo (Dev.tick_lci d id p)
@[simp] theorem Dev.tick_cmd (d) (id) (p) (oo) : (Dev.tick d id p).cmd oo = d.cmd oo := Dev.cmd_same oo (Dev.tick_lci d id p)
@[simp] theorem Dev.tick_ent (d) (id) (p) (oo) : (Dev.tick d id p).ent oo = d.ent oo := Dev.ent_same oo (Dev.tick_tracts d id p)
@[simp] theorem Dev.tick_hdr (d) (id) (p) (oo) : (Dev.tick d id p).hdr oo = d.hdr oo := Dev.hdr_same oo (Dev.tick_tracts d id p)
@[simp] theorem Dev.tick_phys (d) (id) (p) (oo) (ii) : (Dev.tick d id p).phys oo ii = d.phys oo ii := Dev.phys_same oo ii (Dev.tick_tracts d id p)
@[simp] theorem Dev.tick_slot (d) (id) (p) (oo) : (Dev.tick d id p).slot oo = d.slot oo := Dev.slot_same oo (Dev.tick_sec d id p)
@[simp] theorem Dev.tick_schan (d) (id) (p) (oo) : (Dev.tick d id p).schan oo = d.schan oo := Dev.schan_same oo (Dev.tick_str d id p)
@[simp] theorem Dev.setReg_a (d) (off) (v) : (Dev.setReg d off v).a = d.a := (Dev.setReg_touches d off v).same .a (by decide)
@[simp] theorem Dev.setReg_b (d) (off) (v) : (Dev.setReg d off v).b = d.b := (Dev.setReg_touches d off v).same .b (by decide)
@[simp] theorem Dev.setReg_tether (d) (off) (v) : (Dev.setReg d off v).tether = d.tether := (Dev.setReg_touches d off v).same .tether (by decide)
@[simp] theorem Dev.setReg_launch (d) (off) (v) : (Dev.setReg d off v).launch = d.launch := (Dev.setReg_touches d off v).same .launch (by decide)
@[simp] theorem Dev.setReg_gpio (d) (off) (v) : (Dev.setReg d off v).gpio = d.gpio := (Dev.setReg_touches d off v).same .gpio (by decide)
@[simp] theorem Dev.setReg_keel (d) (off) (v) : (Dev.setReg d off v).keel = d.keel := (Dev.setReg_touches d off v).same .keel (by decide)
@[simp] theorem Dev.setReg_log (d) (off) (v) : (Dev.setReg d off v).log = d.log := (Dev.setReg_touches d off v).same .log (by decide)
@[simp] theorem Dev.setReg_aon (d) (off) (v) : (Dev.setReg d off v).aon = d.aon := (Dev.setReg_touches d off v).same .aon (by decide)
@[simp] theorem Dev.setReg_cores (d) (off) (v) : (Dev.setReg d off v).cores = d.cores := (Dev.setReg_touches d off v).same .cores (by decide)
@[simp] theorem Dev.setReg_sems (d) (off) (v) : (Dev.setReg d off v).sems = d.sems := (Dev.setReg_touches d off v).same .sems (by decide)
@[simp] theorem Dev.setReg_images (d) (off) (v) : (Dev.setReg d off v).images = d.images := (Dev.setReg_touches d off v).same .images (by decide)
@[simp] theorem Dev.setReg_pmc (d) (off) (v) : (Dev.setReg d off v).pmc = d.pmc := (Dev.setReg_touches d off v).same .pmc (by decide)
@[simp] theorem Dev.setReg_bst (d) (off) (v) : (Dev.setReg d off v).bst = d.bst := (Dev.setReg_touches d off v).same .bst (by decide)
@[simp] theorem Dev.setReg_dbg (d) (off) (v) : (Dev.setReg d off v).dbg = d.dbg := (Dev.setReg_touches d off v).same .dbg (by decide)
@[simp] theorem Dev.setReg_gon (d) (off) (v) : (Dev.setReg d off v).gon = d.gon := (Dev.setReg_touches d off v).same .gon (by decide)
@[simp] theorem Dev.setReg_cache (d) (off) (v) : (Dev.setReg d off v).cache = d.cache := (Dev.setReg_touches d off v).same .cache (by decide)
@[simp] theorem Dev.setReg_media (d) (off) (v) : (Dev.setReg d off v).media = d.media := (Dev.setReg_touches d off v).same .media (by decide)
@[simp] theorem Dev.setReg_tracts (d) (off) (v) : (Dev.setReg d off v).tracts = d.tracts := (Dev.setReg_touches d off v).same .tracts (by decide)
@[simp] theorem Dev.setReg_drift (d) (off) (v) : (Dev.setReg d off v).drift = d.drift := (Dev.setReg_touches d off v).same .drift (by decide)
@[simp] theorem Dev.setReg_sec (d) (off) (v) : (Dev.setReg d off v).sec = d.sec := (Dev.setReg_touches d off v).same .sec (by decide)
@[simp] theorem Dev.setReg_str (d) (off) (v) : (Dev.setReg d off v).str = d.str := (Dev.setReg_touches d off v).same .str (by decide)
@[simp] theorem Dev.setReg_lci (d) (off) (v) : (Dev.setReg d off v).lci = d.lci := (Dev.setReg_touches d off v).same .lci (by decide)
@[simp] theorem Dev.setReg_pwr (d) (off) (v) : (Dev.setReg d off v).pwr = d.pwr := (Dev.setReg_touches d off v).same .pwr (by decide)
@[simp] theorem Dev.setReg_therm (d) (off) (v) : (Dev.setReg d off v).therm = d.therm := (Dev.setReg_touches d off v).same .therm (by decide)
@[simp] theorem Dev.setReg_out (d) (off) (v) : (Dev.setReg d off v).out = d.out := (Dev.setReg_touches d off v).same .out (by decide)
@[simp] theorem Dev.setReg_fresh (d) (off) (v) : (Dev.setReg d off v).fresh = d.fresh := (Dev.setReg_touches d off v).same .fresh (by decide)
@[simp] theorem Dev.setReg_head (d) (off) (v) (hd) : (Dev.setReg d off v).head hd = d.head hd := Dev.head_same hd (Dev.setReg_a d off v) (Dev.setReg_b d off v)
@[simp] theorem Dev.setReg_chan (d) (off) (v) (oo) : (Dev.setReg d off v).chan oo = d.chan oo := Dev.chan_same oo (Dev.setReg_media d off v)
@[simp] theorem Dev.setReg_die (d) (off) (v) (oo) : (Dev.setReg d off v).die oo = d.die oo := Dev.die_same oo (Dev.setReg_media d off v)
@[simp] theorem Dev.setReg_ctl (d) (off) (v) (oo) : (Dev.setReg d off v).ctl oo = d.ctl oo := Dev.ctl_same oo (Dev.setReg_media d off v)
@[simp] theorem Dev.setReg_grp (d) (off) (v) (oo) : (Dev.setReg d off v).grp oo = d.grp oo := Dev.grp_same oo (Dev.setReg_media d off v)
@[simp] theorem Dev.setReg_qp (d) (off) (v) (oo) : (Dev.setReg d off v).qp oo = d.qp oo := Dev.qp_same oo (Dev.setReg_lci d off v)
@[simp] theorem Dev.setReg_cmd (d) (off) (v) (oo) : (Dev.setReg d off v).cmd oo = d.cmd oo := Dev.cmd_same oo (Dev.setReg_lci d off v)
@[simp] theorem Dev.setReg_ent (d) (off) (v) (oo) : (Dev.setReg d off v).ent oo = d.ent oo := Dev.ent_same oo (Dev.setReg_tracts d off v)
@[simp] theorem Dev.setReg_hdr (d) (off) (v) (oo) : (Dev.setReg d off v).hdr oo = d.hdr oo := Dev.hdr_same oo (Dev.setReg_tracts d off v)
@[simp] theorem Dev.setReg_phys (d) (off) (v) (oo) (ii) : (Dev.setReg d off v).phys oo ii = d.phys oo ii := Dev.phys_same oo ii (Dev.setReg_tracts d off v)
@[simp] theorem Dev.setReg_slot (d) (off) (v) (oo) : (Dev.setReg d off v).slot oo = d.slot oo := Dev.slot_same oo (Dev.setReg_sec d off v)
@[simp] theorem Dev.setReg_schan (d) (off) (v) (oo) : (Dev.setReg d off v).schan oo = d.schan oo := Dev.schan_same oo (Dev.setReg_str d off v)
@[simp] theorem recordPoison_tether (F) (d) (line) (origin) : (recordPoison F d line origin).tether = d.tether := (recordPoison_touches F d line origin).same .tether (by decide)
@[simp] theorem recordPoison_launch (F) (d) (line) (origin) : (recordPoison F d line origin).launch = d.launch := (recordPoison_touches F d line origin).same .launch (by decide)
@[simp] theorem recordPoison_gpio (F) (d) (line) (origin) : (recordPoison F d line origin).gpio = d.gpio := (recordPoison_touches F d line origin).same .gpio (by decide)
@[simp] theorem recordPoison_keel (F) (d) (line) (origin) : (recordPoison F d line origin).keel = d.keel := (recordPoison_touches F d line origin).same .keel (by decide)
@[simp] theorem recordPoison_log (F) (d) (line) (origin) : (recordPoison F d line origin).log = d.log := (recordPoison_touches F d line origin).same .log (by decide)
@[simp] theorem recordPoison_aon (F) (d) (line) (origin) : (recordPoison F d line origin).aon = d.aon := (recordPoison_touches F d line origin).same .aon (by decide)
@[simp] theorem recordPoison_cores (F) (d) (line) (origin) : (recordPoison F d line origin).cores = d.cores := (recordPoison_touches F d line origin).same .cores (by decide)
@[simp] theorem recordPoison_sems (F) (d) (line) (origin) : (recordPoison F d line origin).sems = d.sems := (recordPoison_touches F d line origin).same .sems (by decide)
@[simp] theorem recordPoison_images (F) (d) (line) (origin) : (recordPoison F d line origin).images = d.images := (recordPoison_touches F d line origin).same .images (by decide)
@[simp] theorem recordPoison_pmc (F) (d) (line) (origin) : (recordPoison F d line origin).pmc = d.pmc := (recordPoison_touches F d line origin).same .pmc (by decide)
@[simp] theorem recordPoison_bst (F) (d) (line) (origin) : (recordPoison F d line origin).bst = d.bst := (recordPoison_touches F d line origin).same .bst (by decide)
@[simp] theorem recordPoison_dbg (F) (d) (line) (origin) : (recordPoison F d line origin).dbg = d.dbg := (recordPoison_touches F d line origin).same .dbg (by decide)
@[simp] theorem recordPoison_gon (F) (d) (line) (origin) : (recordPoison F d line origin).gon = d.gon := (recordPoison_touches F d line origin).same .gon (by decide)
@[simp] theorem recordPoison_cache (F) (d) (line) (origin) : (recordPoison F d line origin).cache = d.cache := (recordPoison_touches F d line origin).same .cache (by decide)
@[simp] theorem recordPoison_media (F) (d) (line) (origin) : (recordPoison F d line origin).media = d.media := (recordPoison_touches F d line origin).same .media (by decide)
@[simp] theorem recordPoison_tracts (F) (d) (line) (origin) : (recordPoison F d line origin).tracts = d.tracts := (recordPoison_touches F d line origin).same .tracts (by decide)
@[simp] theorem recordPoison_drift (F) (d) (line) (origin) : (recordPoison F d line origin).drift = d.drift := (recordPoison_touches F d line origin).same .drift (by decide)
@[simp] theorem recordPoison_sec (F) (d) (line) (origin) : (recordPoison F d line origin).sec = d.sec := (recordPoison_touches F d line origin).same .sec (by decide)
@[simp] theorem recordPoison_str (F) (d) (line) (origin) : (recordPoison F d line origin).str = d.str := (recordPoison_touches F d line origin).same .str (by decide)
@[simp] theorem recordPoison_lci (F) (d) (line) (origin) : (recordPoison F d line origin).lci = d.lci := (recordPoison_touches F d line origin).same .lci (by decide)
@[simp] theorem recordPoison_pwr (F) (d) (line) (origin) : (recordPoison F d line origin).pwr = d.pwr := (recordPoison_touches F d line origin).same .pwr (by decide)
@[simp] theorem recordPoison_therm (F) (d) (line) (origin) : (recordPoison F d line origin).therm = d.therm := (recordPoison_touches F d line origin).same .therm (by decide)
@[simp] theorem recordPoison_out (F) (d) (line) (origin) : (recordPoison F d line origin).out = d.out := (recordPoison_touches F d line origin).same .out (by decide)
@[simp] theorem recordPoison_fresh (F) (d) (line) (origin) : (recordPoison F d line origin).fresh = d.fresh := (recordPoison_touches F d line origin).same .fresh (by decide)
@[simp] theorem recordPoison_chan (F) (d) (line) (origin) (oo) : (recordPoison F d line origin).chan oo = d.chan oo := Dev.chan_same oo (recordPoison_media F d line origin)
@[simp] theorem recordPoison_die (F) (d) (line) (origin) (oo) : (recordPoison F d line origin).die oo = d.die oo := Dev.die_same oo (recordPoison_media F d line origin)
@[simp] theorem recordPoison_ctl (F) (d) (line) (origin) (oo) : (recordPoison F d line origin).ctl oo = d.ctl oo := Dev.ctl_same oo (recordPoison_media F d line origin)
@[simp] theorem recordPoison_grp (F) (d) (line) (origin) (oo) : (recordPoison F d line origin).grp oo = d.grp oo := Dev.grp_same oo (recordPoison_media F d line origin)
@[simp] theorem recordPoison_qp (F) (d) (line) (origin) (oo) : (recordPoison F d line origin).qp oo = d.qp oo := Dev.qp_same oo (recordPoison_lci F d line origin)
@[simp] theorem recordPoison_cmd (F) (d) (line) (origin) (oo) : (recordPoison F d line origin).cmd oo = d.cmd oo := Dev.cmd_same oo (recordPoison_lci F d line origin)
@[simp] theorem recordPoison_ent (F) (d) (line) (origin) (oo) : (recordPoison F d line origin).ent oo = d.ent oo := Dev.ent_same oo (recordPoison_tracts F d line origin)
@[simp] theorem recordPoison_hdr (F) (d) (line) (origin) (oo) : (recordPoison F d line origin).hdr oo = d.hdr oo := Dev.hdr_same oo (recordPoison_tracts F d line origin)
@[simp] theorem recordPoison_phys (F) (d) (line) (origin) (oo) (ii) : (recordPoison F d line origin).phys oo ii = d.phys oo ii := Dev.phys_same oo ii (recordPoison_tracts F d line origin)
@[simp] theorem recordPoison_slot (F) (d) (line) (origin) (oo) : (recordPoison F d line origin).slot oo = d.slot oo := Dev.slot_same oo (recordPoison_sec F d line origin)
@[simp] theorem recordPoison_schan (F) (d) (line) (origin) (oo) : (recordPoison F d line origin).schan oo = d.schan oo := Dev.schan_same oo (recordPoison_str F d line origin)
@[simp] theorem Dev.icu_a (d) (n) : (Dev.icu d n).a = d.a := (Dev.icu_touches d n).same .a (by decide)
@[simp] theorem Dev.icu_b (d) (n) : (Dev.icu d n).b = d.b := (Dev.icu_touches d n).same .b (by decide)
@[simp] theorem Dev.icu_tether (d) (n) : (Dev.icu d n).tether = d.tether := (Dev.icu_touches d n).same .tether (by decide)
@[simp] theorem Dev.icu_launch (d) (n) : (Dev.icu d n).launch = d.launch := (Dev.icu_touches d n).same .launch (by decide)
@[simp] theorem Dev.icu_gpio (d) (n) : (Dev.icu d n).gpio = d.gpio := (Dev.icu_touches d n).same .gpio (by decide)
@[simp] theorem Dev.icu_keel (d) (n) : (Dev.icu d n).keel = d.keel := (Dev.icu_touches d n).same .keel (by decide)
@[simp] theorem Dev.icu_log (d) (n) : (Dev.icu d n).log = d.log := (Dev.icu_touches d n).same .log (by decide)
@[simp] theorem Dev.icu_aon (d) (n) : (Dev.icu d n).aon = d.aon := (Dev.icu_touches d n).same .aon (by decide)
@[simp] theorem Dev.icu_cores (d) (n) : (Dev.icu d n).cores = d.cores := (Dev.icu_touches d n).same .cores (by decide)
@[simp] theorem Dev.icu_sems (d) (n) : (Dev.icu d n).sems = d.sems := (Dev.icu_touches d n).same .sems (by decide)
@[simp] theorem Dev.icu_images (d) (n) : (Dev.icu d n).images = d.images := (Dev.icu_touches d n).same .images (by decide)
@[simp] theorem Dev.icu_pmc (d) (n) : (Dev.icu d n).pmc = d.pmc := (Dev.icu_touches d n).same .pmc (by decide)
@[simp] theorem Dev.icu_bst (d) (n) : (Dev.icu d n).bst = d.bst := (Dev.icu_touches d n).same .bst (by decide)
@[simp] theorem Dev.icu_dbg (d) (n) : (Dev.icu d n).dbg = d.dbg := (Dev.icu_touches d n).same .dbg (by decide)
@[simp] theorem Dev.icu_gon (d) (n) : (Dev.icu d n).gon = d.gon := (Dev.icu_touches d n).same .gon (by decide)
@[simp] theorem Dev.icu_cache (d) (n) : (Dev.icu d n).cache = d.cache := (Dev.icu_touches d n).same .cache (by decide)
@[simp] theorem Dev.icu_media (d) (n) : (Dev.icu d n).media = d.media := (Dev.icu_touches d n).same .media (by decide)
@[simp] theorem Dev.icu_tracts (d) (n) : (Dev.icu d n).tracts = d.tracts := (Dev.icu_touches d n).same .tracts (by decide)
@[simp] theorem Dev.icu_drift (d) (n) : (Dev.icu d n).drift = d.drift := (Dev.icu_touches d n).same .drift (by decide)
@[simp] theorem Dev.icu_sec (d) (n) : (Dev.icu d n).sec = d.sec := (Dev.icu_touches d n).same .sec (by decide)
@[simp] theorem Dev.icu_str (d) (n) : (Dev.icu d n).str = d.str := (Dev.icu_touches d n).same .str (by decide)
@[simp] theorem Dev.icu_lci (d) (n) : (Dev.icu d n).lci = d.lci := (Dev.icu_touches d n).same .lci (by decide)
@[simp] theorem Dev.icu_pwr (d) (n) : (Dev.icu d n).pwr = d.pwr := (Dev.icu_touches d n).same .pwr (by decide)
@[simp] theorem Dev.icu_therm (d) (n) : (Dev.icu d n).therm = d.therm := (Dev.icu_touches d n).same .therm (by decide)
@[simp] theorem Dev.icu_out (d) (n) : (Dev.icu d n).out = d.out := (Dev.icu_touches d n).same .out (by decide)
@[simp] theorem Dev.icu_fresh (d) (n) : (Dev.icu d n).fresh = d.fresh := (Dev.icu_touches d n).same .fresh (by decide)
@[simp] theorem Dev.icu_head (d) (n) (hd) : (Dev.icu d n).head hd = d.head hd := Dev.head_same hd (Dev.icu_a d n) (Dev.icu_b d n)
@[simp] theorem Dev.icu_chan (d) (n) (oo) : (Dev.icu d n).chan oo = d.chan oo := Dev.chan_same oo (Dev.icu_media d n)
@[simp] theorem Dev.icu_die (d) (n) (oo) : (Dev.icu d n).die oo = d.die oo := Dev.die_same oo (Dev.icu_media d n)
@[simp] theorem Dev.icu_ctl (d) (n) (oo) : (Dev.icu d n).ctl oo = d.ctl oo := Dev.ctl_same oo (Dev.icu_media d n)
@[simp] theorem Dev.icu_grp (d) (n) (oo) : (Dev.icu d n).grp oo = d.grp oo := Dev.grp_same oo (Dev.icu_media d n)
@[simp] theorem Dev.icu_qp (d) (n) (oo) : (Dev.icu d n).qp oo = d.qp oo := Dev.qp_same oo (Dev.icu_lci d n)
@[simp] theorem Dev.icu_cmd (d) (n) (oo) : (Dev.icu d n).cmd oo = d.cmd oo := Dev.cmd_same oo (Dev.icu_lci d n)
@[simp] theorem Dev.icu_ent (d) (n) (oo) : (Dev.icu d n).ent oo = d.ent oo := Dev.ent_same oo (Dev.icu_tracts d n)
@[simp] theorem Dev.icu_hdr (d) (n) (oo) : (Dev.icu d n).hdr oo = d.hdr oo := Dev.hdr_same oo (Dev.icu_tracts d n)
@[simp] theorem Dev.icu_phys (d) (n) (oo) (ii) : (Dev.icu d n).phys oo ii = d.phys oo ii := Dev.phys_same oo ii (Dev.icu_tracts d n)
@[simp] theorem Dev.icu_slot (d) (n) (oo) : (Dev.icu d n).slot oo = d.slot oo := Dev.slot_same oo (Dev.icu_sec d n)
@[simp] theorem Dev.icu_schan (d) (n) (oo) : (Dev.icu d n).schan oo = d.schan oo := Dev.schan_same oo (Dev.icu_str d n)
@[simp] theorem Dev.count_a (d) (ev) (n) : (Dev.count d ev n).a = d.a := (Dev.count_touches d ev n).same .a (by decide)
@[simp] theorem Dev.count_b (d) (ev) (n) : (Dev.count d ev n).b = d.b := (Dev.count_touches d ev n).same .b (by decide)
@[simp] theorem Dev.count_tether (d) (ev) (n) : (Dev.count d ev n).tether = d.tether := (Dev.count_touches d ev n).same .tether (by decide)
@[simp] theorem Dev.count_launch (d) (ev) (n) : (Dev.count d ev n).launch = d.launch := (Dev.count_touches d ev n).same .launch (by decide)
@[simp] theorem Dev.count_gpio (d) (ev) (n) : (Dev.count d ev n).gpio = d.gpio := (Dev.count_touches d ev n).same .gpio (by decide)
@[simp] theorem Dev.count_keel (d) (ev) (n) : (Dev.count d ev n).keel = d.keel := (Dev.count_touches d ev n).same .keel (by decide)
@[simp] theorem Dev.count_log (d) (ev) (n) : (Dev.count d ev n).log = d.log := (Dev.count_touches d ev n).same .log (by decide)
@[simp] theorem Dev.count_aon (d) (ev) (n) : (Dev.count d ev n).aon = d.aon := (Dev.count_touches d ev n).same .aon (by decide)
@[simp] theorem Dev.count_cores (d) (ev) (n) : (Dev.count d ev n).cores = d.cores := (Dev.count_touches d ev n).same .cores (by decide)
@[simp] theorem Dev.count_sems (d) (ev) (n) : (Dev.count d ev n).sems = d.sems := (Dev.count_touches d ev n).same .sems (by decide)
@[simp] theorem Dev.count_images (d) (ev) (n) : (Dev.count d ev n).images = d.images := (Dev.count_touches d ev n).same .images (by decide)
@[simp] theorem Dev.count_bst (d) (ev) (n) : (Dev.count d ev n).bst = d.bst := (Dev.count_touches d ev n).same .bst (by decide)
@[simp] theorem Dev.count_dbg (d) (ev) (n) : (Dev.count d ev n).dbg = d.dbg := (Dev.count_touches d ev n).same .dbg (by decide)
@[simp] theorem Dev.count_gon (d) (ev) (n) : (Dev.count d ev n).gon = d.gon := (Dev.count_touches d ev n).same .gon (by decide)
@[simp] theorem Dev.count_cache (d) (ev) (n) : (Dev.count d ev n).cache = d.cache := (Dev.count_touches d ev n).same .cache (by decide)
@[simp] theorem Dev.count_media (d) (ev) (n) : (Dev.count d ev n).media = d.media := (Dev.count_touches d ev n).same .media (by decide)
@[simp] theorem Dev.count_tracts (d) (ev) (n) : (Dev.count d ev n).tracts = d.tracts := (Dev.count_touches d ev n).same .tracts (by decide)
@[simp] theorem Dev.count_drift (d) (ev) (n) : (Dev.count d ev n).drift = d.drift := (Dev.count_touches d ev n).same .drift (by decide)
@[simp] theorem Dev.count_sec (d) (ev) (n) : (Dev.count d ev n).sec = d.sec := (Dev.count_touches d ev n).same .sec (by decide)
@[simp] theorem Dev.count_str (d) (ev) (n) : (Dev.count d ev n).str = d.str := (Dev.count_touches d ev n).same .str (by decide)
@[simp] theorem Dev.count_lci (d) (ev) (n) : (Dev.count d ev n).lci = d.lci := (Dev.count_touches d ev n).same .lci (by decide)
@[simp] theorem Dev.count_pwr (d) (ev) (n) : (Dev.count d ev n).pwr = d.pwr := (Dev.count_touches d ev n).same .pwr (by decide)
@[simp] theorem Dev.count_therm (d) (ev) (n) : (Dev.count d ev n).therm = d.therm := (Dev.count_touches d ev n).same .therm (by decide)
@[simp] theorem Dev.count_out (d) (ev) (n) : (Dev.count d ev n).out = d.out := (Dev.count_touches d ev n).same .out (by decide)
@[simp] theorem Dev.count_fresh (d) (ev) (n) : (Dev.count d ev n).fresh = d.fresh := (Dev.count_touches d ev n).same .fresh (by decide)
@[simp] theorem Dev.count_head (d) (ev) (n) (hd) : (Dev.count d ev n).head hd = d.head hd := Dev.head_same hd (Dev.count_a d ev n) (Dev.count_b d ev n)
@[simp] theorem Dev.count_chan (d) (ev) (n) (oo) : (Dev.count d ev n).chan oo = d.chan oo := Dev.chan_same oo (Dev.count_media d ev n)
@[simp] theorem Dev.count_die (d) (ev) (n) (oo) : (Dev.count d ev n).die oo = d.die oo := Dev.die_same oo (Dev.count_media d ev n)
@[simp] theorem Dev.count_ctl (d) (ev) (n) (oo) : (Dev.count d ev n).ctl oo = d.ctl oo := Dev.ctl_same oo (Dev.count_media d ev n)
@[simp] theorem Dev.count_grp (d) (ev) (n) (oo) : (Dev.count d ev n).grp oo = d.grp oo := Dev.grp_same oo (Dev.count_media d ev n)
@[simp] theorem Dev.count_qp (d) (ev) (n) (oo) : (Dev.count d ev n).qp oo = d.qp oo := Dev.qp_same oo (Dev.count_lci d ev n)
@[simp] theorem Dev.count_cmd (d) (ev) (n) (oo) : (Dev.count d ev n).cmd oo = d.cmd oo := Dev.cmd_same oo (Dev.count_lci d ev n)
@[simp] theorem Dev.count_ent (d) (ev) (n) (oo) : (Dev.count d ev n).ent oo = d.ent oo := Dev.ent_same oo (Dev.count_tracts d ev n)
@[simp] theorem Dev.count_hdr (d) (ev) (n) (oo) : (Dev.count d ev n).hdr oo = d.hdr oo := Dev.hdr_same oo (Dev.count_tracts d ev n)
@[simp] theorem Dev.count_phys (d) (ev) (n) (oo) (ii) : (Dev.count d ev n).phys oo ii = d.phys oo ii := Dev.phys_same oo ii (Dev.count_tracts d ev n)
@[simp] theorem Dev.count_slot (d) (ev) (n) (oo) : (Dev.count d ev n).slot oo = d.slot oo := Dev.slot_same oo (Dev.count_sec d ev n)
@[simp] theorem Dev.count_schan (d) (ev) (n) (oo) : (Dev.count d ev n).schan oo = d.schan oo := Dev.schan_same oo (Dev.count_str d ev n)
@[simp] theorem Dev.setPhys_regs (d) (g) (i) (r) : (Dev.setPhys d g i r).regs = d.regs := (Dev.setPhys_touches d g i r).same .regs (by decide)
@[simp] theorem Dev.setPhys_a (d) (g) (i) (r) : (Dev.setPhys d g i r).a = d.a := (Dev.setPhys_touches d g i r).same .a (by decide)
@[simp] theorem Dev.setPhys_b (d) (g) (i) (r) : (Dev.setPhys d g i r).b = d.b := (Dev.setPhys_touches d g i r).same .b (by decide)
@[simp] theorem Dev.setPhys_tether (d) (g) (i) (r) : (Dev.setPhys d g i r).tether = d.tether := (Dev.setPhys_touches d g i r).same .tether (by decide)
@[simp] theorem Dev.setPhys_launch (d) (g) (i) (r) : (Dev.setPhys d g i r).launch = d.launch := (Dev.setPhys_touches d g i r).same .launch (by decide)
@[simp] theorem Dev.setPhys_gpio (d) (g) (i) (r) : (Dev.setPhys d g i r).gpio = d.gpio := (Dev.setPhys_touches d g i r).same .gpio (by decide)
@[simp] theorem Dev.setPhys_keel (d) (g) (i) (r) : (Dev.setPhys d g i r).keel = d.keel := (Dev.setPhys_touches d g i r).same .keel (by decide)
@[simp] theorem Dev.setPhys_log (d) (g) (i) (r) : (Dev.setPhys d g i r).log = d.log := (Dev.setPhys_touches d g i r).same .log (by decide)
@[simp] theorem Dev.setPhys_aon (d) (g) (i) (r) : (Dev.setPhys d g i r).aon = d.aon := (Dev.setPhys_touches d g i r).same .aon (by decide)
@[simp] theorem Dev.setPhys_cores (d) (g) (i) (r) : (Dev.setPhys d g i r).cores = d.cores := (Dev.setPhys_touches d g i r).same .cores (by decide)
@[simp] theorem Dev.setPhys_sems (d) (g) (i) (r) : (Dev.setPhys d g i r).sems = d.sems := (Dev.setPhys_touches d g i r).same .sems (by decide)
@[simp] theorem Dev.setPhys_images (d) (g) (i) (r) : (Dev.setPhys d g i r).images = d.images := (Dev.setPhys_touches d g i r).same .images (by decide)
@[simp] theorem Dev.setPhys_pmc (d) (g) (i) (r) : (Dev.setPhys d g i r).pmc = d.pmc := (Dev.setPhys_touches d g i r).same .pmc (by decide)
@[simp] theorem Dev.setPhys_bst (d) (g) (i) (r) : (Dev.setPhys d g i r).bst = d.bst := (Dev.setPhys_touches d g i r).same .bst (by decide)
@[simp] theorem Dev.setPhys_dbg (d) (g) (i) (r) : (Dev.setPhys d g i r).dbg = d.dbg := (Dev.setPhys_touches d g i r).same .dbg (by decide)
@[simp] theorem Dev.setPhys_gon (d) (g) (i) (r) : (Dev.setPhys d g i r).gon = d.gon := (Dev.setPhys_touches d g i r).same .gon (by decide)
@[simp] theorem Dev.setPhys_cache (d) (g) (i) (r) : (Dev.setPhys d g i r).cache = d.cache := (Dev.setPhys_touches d g i r).same .cache (by decide)
@[simp] theorem Dev.setPhys_media (d) (g) (i) (r) : (Dev.setPhys d g i r).media = d.media := (Dev.setPhys_touches d g i r).same .media (by decide)
@[simp] theorem Dev.setPhys_drift (d) (g) (i) (r) : (Dev.setPhys d g i r).drift = d.drift := (Dev.setPhys_touches d g i r).same .drift (by decide)
@[simp] theorem Dev.setPhys_sec (d) (g) (i) (r) : (Dev.setPhys d g i r).sec = d.sec := (Dev.setPhys_touches d g i r).same .sec (by decide)
@[simp] theorem Dev.setPhys_str (d) (g) (i) (r) : (Dev.setPhys d g i r).str = d.str := (Dev.setPhys_touches d g i r).same .str (by decide)
@[simp] theorem Dev.setPhys_lci (d) (g) (i) (r) : (Dev.setPhys d g i r).lci = d.lci := (Dev.setPhys_touches d g i r).same .lci (by decide)
@[simp] theorem Dev.setPhys_pwr (d) (g) (i) (r) : (Dev.setPhys d g i r).pwr = d.pwr := (Dev.setPhys_touches d g i r).same .pwr (by decide)
@[simp] theorem Dev.setPhys_therm (d) (g) (i) (r) : (Dev.setPhys d g i r).therm = d.therm := (Dev.setPhys_touches d g i r).same .therm (by decide)
@[simp] theorem Dev.setPhys_out (d) (g) (i) (r) : (Dev.setPhys d g i r).out = d.out := (Dev.setPhys_touches d g i r).same .out (by decide)
@[simp] theorem Dev.setPhys_fresh (d) (g) (i) (r) : (Dev.setPhys d g i r).fresh = d.fresh := (Dev.setPhys_touches d g i r).same .fresh (by decide)
@[simp] theorem Dev.setPhys_head (d) (g) (i) (r) (hd) : (Dev.setPhys d g i r).head hd = d.head hd := Dev.head_same hd (Dev.setPhys_a d g i r) (Dev.setPhys_b d g i r)
@[simp] theorem Dev.setPhys_reg (d) (g) (i) (r) (oo) : (Dev.setPhys d g i r).reg oo = d.reg oo := Dev.reg_same oo (Dev.setPhys_regs d g i r)
@[simp] theorem Dev.setPhys_chan (d) (g) (i) (r) (oo) : (Dev.setPhys d g i r).chan oo = d.chan oo := Dev.chan_same oo (Dev.setPhys_media d g i r)
@[simp] theorem Dev.setPhys_die (d) (g) (i) (r) (oo) : (Dev.setPhys d g i r).die oo = d.die oo := Dev.die_same oo (Dev.setPhys_media d g i r)
@[simp] theorem Dev.setPhys_ctl (d) (g) (i) (r) (oo) : (Dev.setPhys d g i r).ctl oo = d.ctl oo := Dev.ctl_same oo (Dev.setPhys_media d g i r)
@[simp] theorem Dev.setPhys_grp (d) (g) (i) (r) (oo) : (Dev.setPhys d g i r).grp oo = d.grp oo := Dev.grp_same oo (Dev.setPhys_media d g i r)
@[simp] theorem Dev.setPhys_qp (d) (g) (i) (r) (oo) : (Dev.setPhys d g i r).qp oo = d.qp oo := Dev.qp_same oo (Dev.setPhys_lci d g i r)
@[simp] theorem Dev.setPhys_cmd (d) (g) (i) (r) (oo) : (Dev.setPhys d g i r).cmd oo = d.cmd oo := Dev.cmd_same oo (Dev.setPhys_lci d g i r)
@[simp] theorem Dev.setPhys_slot (d) (g) (i) (r) (oo) : (Dev.setPhys d g i r).slot oo = d.slot oo := Dev.slot_same oo (Dev.setPhys_sec d g i r)
@[simp] theorem Dev.setPhys_schan (d) (g) (i) (r) (oo) : (Dev.setPhys d g i r).schan oo = d.schan oo := Dev.schan_same oo (Dev.setPhys_str d g i r)
@[simp] theorem Dev.fixHdr_regs (d) (t) : (Dev.fixHdr d t).regs = d.regs := (Dev.fixHdr_touches d t).same .regs (by decide)
@[simp] theorem Dev.fixHdr_a (d) (t) : (Dev.fixHdr d t).a = d.a := (Dev.fixHdr_touches d t).same .a (by decide)
@[simp] theorem Dev.fixHdr_b (d) (t) : (Dev.fixHdr d t).b = d.b := (Dev.fixHdr_touches d t).same .b (by decide)
@[simp] theorem Dev.fixHdr_tether (d) (t) : (Dev.fixHdr d t).tether = d.tether := (Dev.fixHdr_touches d t).same .tether (by decide)
@[simp] theorem Dev.fixHdr_launch (d) (t) : (Dev.fixHdr d t).launch = d.launch := (Dev.fixHdr_touches d t).same .launch (by decide)
@[simp] theorem Dev.fixHdr_gpio (d) (t) : (Dev.fixHdr d t).gpio = d.gpio := (Dev.fixHdr_touches d t).same .gpio (by decide)
@[simp] theorem Dev.fixHdr_keel (d) (t) : (Dev.fixHdr d t).keel = d.keel := (Dev.fixHdr_touches d t).same .keel (by decide)
@[simp] theorem Dev.fixHdr_log (d) (t) : (Dev.fixHdr d t).log = d.log := (Dev.fixHdr_touches d t).same .log (by decide)
@[simp] theorem Dev.fixHdr_aon (d) (t) : (Dev.fixHdr d t).aon = d.aon := (Dev.fixHdr_touches d t).same .aon (by decide)
@[simp] theorem Dev.fixHdr_cores (d) (t) : (Dev.fixHdr d t).cores = d.cores := (Dev.fixHdr_touches d t).same .cores (by decide)
@[simp] theorem Dev.fixHdr_sems (d) (t) : (Dev.fixHdr d t).sems = d.sems := (Dev.fixHdr_touches d t).same .sems (by decide)
@[simp] theorem Dev.fixHdr_images (d) (t) : (Dev.fixHdr d t).images = d.images := (Dev.fixHdr_touches d t).same .images (by decide)
@[simp] theorem Dev.fixHdr_pmc (d) (t) : (Dev.fixHdr d t).pmc = d.pmc := (Dev.fixHdr_touches d t).same .pmc (by decide)
@[simp] theorem Dev.fixHdr_bst (d) (t) : (Dev.fixHdr d t).bst = d.bst := (Dev.fixHdr_touches d t).same .bst (by decide)
@[simp] theorem Dev.fixHdr_dbg (d) (t) : (Dev.fixHdr d t).dbg = d.dbg := (Dev.fixHdr_touches d t).same .dbg (by decide)
@[simp] theorem Dev.fixHdr_gon (d) (t) : (Dev.fixHdr d t).gon = d.gon := (Dev.fixHdr_touches d t).same .gon (by decide)
@[simp] theorem Dev.fixHdr_cache (d) (t) : (Dev.fixHdr d t).cache = d.cache := (Dev.fixHdr_touches d t).same .cache (by decide)
@[simp] theorem Dev.fixHdr_media (d) (t) : (Dev.fixHdr d t).media = d.media := (Dev.fixHdr_touches d t).same .media (by decide)
@[simp] theorem Dev.fixHdr_drift (d) (t) : (Dev.fixHdr d t).drift = d.drift := (Dev.fixHdr_touches d t).same .drift (by decide)
@[simp] theorem Dev.fixHdr_sec (d) (t) : (Dev.fixHdr d t).sec = d.sec := (Dev.fixHdr_touches d t).same .sec (by decide)
@[simp] theorem Dev.fixHdr_str (d) (t) : (Dev.fixHdr d t).str = d.str := (Dev.fixHdr_touches d t).same .str (by decide)
@[simp] theorem Dev.fixHdr_lci (d) (t) : (Dev.fixHdr d t).lci = d.lci := (Dev.fixHdr_touches d t).same .lci (by decide)
@[simp] theorem Dev.fixHdr_pwr (d) (t) : (Dev.fixHdr d t).pwr = d.pwr := (Dev.fixHdr_touches d t).same .pwr (by decide)
@[simp] theorem Dev.fixHdr_therm (d) (t) : (Dev.fixHdr d t).therm = d.therm := (Dev.fixHdr_touches d t).same .therm (by decide)
@[simp] theorem Dev.fixHdr_out (d) (t) : (Dev.fixHdr d t).out = d.out := (Dev.fixHdr_touches d t).same .out (by decide)
@[simp] theorem Dev.fixHdr_fresh (d) (t) : (Dev.fixHdr d t).fresh = d.fresh := (Dev.fixHdr_touches d t).same .fresh (by decide)
@[simp] theorem Dev.fixHdr_head (d) (t) (hd) : (Dev.fixHdr d t).head hd = d.head hd := Dev.head_same hd (Dev.fixHdr_a d t) (Dev.fixHdr_b d t)
@[simp] theorem Dev.fixHdr_reg (d) (t) (oo) : (Dev.fixHdr d t).reg oo = d.reg oo := Dev.reg_same oo (Dev.fixHdr_regs d t)
@[simp] theorem Dev.fixHdr_chan (d) (t) (oo) : (Dev.fixHdr d t).chan oo = d.chan oo := Dev.chan_same oo (Dev.fixHdr_media d t)
@[simp] theorem Dev.fixHdr_die (d) (t) (oo) : (Dev.fixHdr d t).die oo = d.die oo := Dev.die_same oo (Dev.fixHdr_media d t)
@[simp] theorem Dev.fixHdr_ctl (d) (t) (oo) : (Dev.fixHdr d t).ctl oo = d.ctl oo := Dev.ctl_same oo (Dev.fixHdr_media d t)
@[simp] theorem Dev.fixHdr_grp (d) (t) (oo) : (Dev.fixHdr d t).grp oo = d.grp oo := Dev.grp_same oo (Dev.fixHdr_media d t)
@[simp] theorem Dev.fixHdr_qp (d) (t) (oo) : (Dev.fixHdr d t).qp oo = d.qp oo := Dev.qp_same oo (Dev.fixHdr_lci d t)
@[simp] theorem Dev.fixHdr_cmd (d) (t) (oo) : (Dev.fixHdr d t).cmd oo = d.cmd oo := Dev.cmd_same oo (Dev.fixHdr_lci d t)
@[simp] theorem Dev.fixHdr_slot (d) (t) (oo) : (Dev.fixHdr d t).slot oo = d.slot oo := Dev.slot_same oo (Dev.fixHdr_sec d t)
@[simp] theorem Dev.fixHdr_schan (d) (t) (oo) : (Dev.fixHdr d t).schan oo = d.schan oo := Dev.schan_same oo (Dev.fixHdr_str d t)
@[simp] theorem Dev.statePut_regs (d) (owner) : (Dev.statePut d owner).regs = d.regs := (Dev.statePut_touches d owner).same .regs (by decide)
@[simp] theorem Dev.statePut_a (d) (owner) : (Dev.statePut d owner).a = d.a := (Dev.statePut_touches d owner).same .a (by decide)
@[simp] theorem Dev.statePut_b (d) (owner) : (Dev.statePut d owner).b = d.b := (Dev.statePut_touches d owner).same .b (by decide)
@[simp] theorem Dev.statePut_tether (d) (owner) : (Dev.statePut d owner).tether = d.tether := (Dev.statePut_touches d owner).same .tether (by decide)
@[simp] theorem Dev.statePut_launch (d) (owner) : (Dev.statePut d owner).launch = d.launch := (Dev.statePut_touches d owner).same .launch (by decide)
@[simp] theorem Dev.statePut_gpio (d) (owner) : (Dev.statePut d owner).gpio = d.gpio := (Dev.statePut_touches d owner).same .gpio (by decide)
@[simp] theorem Dev.statePut_log (d) (owner) : (Dev.statePut d owner).log = d.log := (Dev.statePut_touches d owner).same .log (by decide)
@[simp] theorem Dev.statePut_aon (d) (owner) : (Dev.statePut d owner).aon = d.aon := (Dev.statePut_touches d owner).same .aon (by decide)
@[simp] theorem Dev.statePut_cores (d) (owner) : (Dev.statePut d owner).cores = d.cores := (Dev.statePut_touches d owner).same .cores (by decide)
@[simp] theorem Dev.statePut_sems (d) (owner) : (Dev.statePut d owner).sems = d.sems := (Dev.statePut_touches d owner).same .sems (by decide)
@[simp] theorem Dev.statePut_images (d) (owner) : (Dev.statePut d owner).images = d.images := (Dev.statePut_touches d owner).same .images (by decide)
@[simp] theorem Dev.statePut_pmc (d) (owner) : (Dev.statePut d owner).pmc = d.pmc := (Dev.statePut_touches d owner).same .pmc (by decide)
@[simp] theorem Dev.statePut_bst (d) (owner) : (Dev.statePut d owner).bst = d.bst := (Dev.statePut_touches d owner).same .bst (by decide)
@[simp] theorem Dev.statePut_dbg (d) (owner) : (Dev.statePut d owner).dbg = d.dbg := (Dev.statePut_touches d owner).same .dbg (by decide)
@[simp] theorem Dev.statePut_gon (d) (owner) : (Dev.statePut d owner).gon = d.gon := (Dev.statePut_touches d owner).same .gon (by decide)
@[simp] theorem Dev.statePut_cache (d) (owner) : (Dev.statePut d owner).cache = d.cache := (Dev.statePut_touches d owner).same .cache (by decide)
@[simp] theorem Dev.statePut_media (d) (owner) : (Dev.statePut d owner).media = d.media := (Dev.statePut_touches d owner).same .media (by decide)
@[simp] theorem Dev.statePut_tracts (d) (owner) : (Dev.statePut d owner).tracts = d.tracts := (Dev.statePut_touches d owner).same .tracts (by decide)
@[simp] theorem Dev.statePut_drift (d) (owner) : (Dev.statePut d owner).drift = d.drift := (Dev.statePut_touches d owner).same .drift (by decide)
@[simp] theorem Dev.statePut_sec (d) (owner) : (Dev.statePut d owner).sec = d.sec := (Dev.statePut_touches d owner).same .sec (by decide)
@[simp] theorem Dev.statePut_str (d) (owner) : (Dev.statePut d owner).str = d.str := (Dev.statePut_touches d owner).same .str (by decide)
@[simp] theorem Dev.statePut_lci (d) (owner) : (Dev.statePut d owner).lci = d.lci := (Dev.statePut_touches d owner).same .lci (by decide)
@[simp] theorem Dev.statePut_pwr (d) (owner) : (Dev.statePut d owner).pwr = d.pwr := (Dev.statePut_touches d owner).same .pwr (by decide)
@[simp] theorem Dev.statePut_therm (d) (owner) : (Dev.statePut d owner).therm = d.therm := (Dev.statePut_touches d owner).same .therm (by decide)
@[simp] theorem Dev.statePut_out (d) (owner) : (Dev.statePut d owner).out = d.out := (Dev.statePut_touches d owner).same .out (by decide)
@[simp] theorem Dev.statePut_fresh (d) (owner) : (Dev.statePut d owner).fresh = d.fresh := (Dev.statePut_touches d owner).same .fresh (by decide)
@[simp] theorem Dev.statePut_head (d) (owner) (hd) : (Dev.statePut d owner).head hd = d.head hd := Dev.head_same hd (Dev.statePut_a d owner) (Dev.statePut_b d owner)
@[simp] theorem Dev.statePut_reg (d) (owner) (oo) : (Dev.statePut d owner).reg oo = d.reg oo := Dev.reg_same oo (Dev.statePut_regs d owner)
@[simp] theorem Dev.statePut_chan (d) (owner) (oo) : (Dev.statePut d owner).chan oo = d.chan oo := Dev.chan_same oo (Dev.statePut_media d owner)
@[simp] theorem Dev.statePut_die (d) (owner) (oo) : (Dev.statePut d owner).die oo = d.die oo := Dev.die_same oo (Dev.statePut_media d owner)
@[simp] theorem Dev.statePut_ctl (d) (owner) (oo) : (Dev.statePut d owner).ctl oo = d.ctl oo := Dev.ctl_same oo (Dev.statePut_media d owner)
@[simp] theorem Dev.statePut_grp (d) (owner) (oo) : (Dev.statePut d owner).grp oo = d.grp oo := Dev.grp_same oo (Dev.statePut_media d owner)
@[simp] theorem Dev.statePut_qp (d) (owner) (oo) : (Dev.statePut d owner).qp oo = d.qp oo := Dev.qp_same oo (Dev.statePut_lci d owner)
@[simp] theorem Dev.statePut_cmd (d) (owner) (oo) : (Dev.statePut d owner).cmd oo = d.cmd oo := Dev.cmd_same oo (Dev.statePut_lci d owner)
@[simp] theorem Dev.statePut_ent (d) (owner) (oo) : (Dev.statePut d owner).ent oo = d.ent oo := Dev.ent_same oo (Dev.statePut_tracts d owner)
@[simp] theorem Dev.statePut_hdr (d) (owner) (oo) : (Dev.statePut d owner).hdr oo = d.hdr oo := Dev.hdr_same oo (Dev.statePut_tracts d owner)
@[simp] theorem Dev.statePut_phys (d) (owner) (oo) (ii) : (Dev.statePut d owner).phys oo ii = d.phys oo ii := Dev.phys_same oo ii (Dev.statePut_tracts d owner)
@[simp] theorem Dev.statePut_slot (d) (owner) (oo) : (Dev.statePut d owner).slot oo = d.slot oo := Dev.slot_same oo (Dev.statePut_sec d owner)
@[simp] theorem Dev.statePut_schan (d) (owner) (oo) : (Dev.statePut d owner).schan oo = d.schan oo := Dev.schan_same oo (Dev.statePut_str d owner)
@[simp] theorem Dev.setMeta_regs (d) (m) : (Dev.setMeta d m).regs = d.regs := (Dev.setMeta_touches d m).same .regs (by decide)
@[simp] theorem Dev.setMeta_a (d) (m) : (Dev.setMeta d m).a = d.a := (Dev.setMeta_touches d m).same .a (by decide)
@[simp] theorem Dev.setMeta_b (d) (m) : (Dev.setMeta d m).b = d.b := (Dev.setMeta_touches d m).same .b (by decide)
@[simp] theorem Dev.setMeta_tether (d) (m) : (Dev.setMeta d m).tether = d.tether := (Dev.setMeta_touches d m).same .tether (by decide)
@[simp] theorem Dev.setMeta_launch (d) (m) : (Dev.setMeta d m).launch = d.launch := (Dev.setMeta_touches d m).same .launch (by decide)
@[simp] theorem Dev.setMeta_gpio (d) (m) : (Dev.setMeta d m).gpio = d.gpio := (Dev.setMeta_touches d m).same .gpio (by decide)
@[simp] theorem Dev.setMeta_keel (d) (m) : (Dev.setMeta d m).keel = d.keel := (Dev.setMeta_touches d m).same .keel (by decide)
@[simp] theorem Dev.setMeta_log (d) (m) : (Dev.setMeta d m).log = d.log := (Dev.setMeta_touches d m).same .log (by decide)
@[simp] theorem Dev.setMeta_aon (d) (m) : (Dev.setMeta d m).aon = d.aon := (Dev.setMeta_touches d m).same .aon (by decide)
@[simp] theorem Dev.setMeta_cores (d) (m) : (Dev.setMeta d m).cores = d.cores := (Dev.setMeta_touches d m).same .cores (by decide)
@[simp] theorem Dev.setMeta_sems (d) (m) : (Dev.setMeta d m).sems = d.sems := (Dev.setMeta_touches d m).same .sems (by decide)
@[simp] theorem Dev.setMeta_images (d) (m) : (Dev.setMeta d m).images = d.images := (Dev.setMeta_touches d m).same .images (by decide)
@[simp] theorem Dev.setMeta_pmc (d) (m) : (Dev.setMeta d m).pmc = d.pmc := (Dev.setMeta_touches d m).same .pmc (by decide)
@[simp] theorem Dev.setMeta_bst (d) (m) : (Dev.setMeta d m).bst = d.bst := (Dev.setMeta_touches d m).same .bst (by decide)
@[simp] theorem Dev.setMeta_dbg (d) (m) : (Dev.setMeta d m).dbg = d.dbg := (Dev.setMeta_touches d m).same .dbg (by decide)
@[simp] theorem Dev.setMeta_gon (d) (m) : (Dev.setMeta d m).gon = d.gon := (Dev.setMeta_touches d m).same .gon (by decide)
@[simp] theorem Dev.setMeta_cache (d) (m) : (Dev.setMeta d m).cache = d.cache := (Dev.setMeta_touches d m).same .cache (by decide)
@[simp] theorem Dev.setMeta_media (d) (m) : (Dev.setMeta d m).media = d.media := (Dev.setMeta_touches d m).same .media (by decide)
@[simp] theorem Dev.setMeta_drift (d) (m) : (Dev.setMeta d m).drift = d.drift := (Dev.setMeta_touches d m).same .drift (by decide)
@[simp] theorem Dev.setMeta_sec (d) (m) : (Dev.setMeta d m).sec = d.sec := (Dev.setMeta_touches d m).same .sec (by decide)
@[simp] theorem Dev.setMeta_str (d) (m) : (Dev.setMeta d m).str = d.str := (Dev.setMeta_touches d m).same .str (by decide)
@[simp] theorem Dev.setMeta_lci (d) (m) : (Dev.setMeta d m).lci = d.lci := (Dev.setMeta_touches d m).same .lci (by decide)
@[simp] theorem Dev.setMeta_pwr (d) (m) : (Dev.setMeta d m).pwr = d.pwr := (Dev.setMeta_touches d m).same .pwr (by decide)
@[simp] theorem Dev.setMeta_therm (d) (m) : (Dev.setMeta d m).therm = d.therm := (Dev.setMeta_touches d m).same .therm (by decide)
@[simp] theorem Dev.setMeta_out (d) (m) : (Dev.setMeta d m).out = d.out := (Dev.setMeta_touches d m).same .out (by decide)
@[simp] theorem Dev.setMeta_fresh (d) (m) : (Dev.setMeta d m).fresh = d.fresh := (Dev.setMeta_touches d m).same .fresh (by decide)
@[simp] theorem Dev.setMeta_head (d) (m) (hd) : (Dev.setMeta d m).head hd = d.head hd := Dev.head_same hd (Dev.setMeta_a d m) (Dev.setMeta_b d m)
@[simp] theorem Dev.setMeta_reg (d) (m) (oo) : (Dev.setMeta d m).reg oo = d.reg oo := Dev.reg_same oo (Dev.setMeta_regs d m)
@[simp] theorem Dev.setMeta_chan (d) (m) (oo) : (Dev.setMeta d m).chan oo = d.chan oo := Dev.chan_same oo (Dev.setMeta_media d m)
@[simp] theorem Dev.setMeta_die (d) (m) (oo) : (Dev.setMeta d m).die oo = d.die oo := Dev.die_same oo (Dev.setMeta_media d m)
@[simp] theorem Dev.setMeta_ctl (d) (m) (oo) : (Dev.setMeta d m).ctl oo = d.ctl oo := Dev.ctl_same oo (Dev.setMeta_media d m)
@[simp] theorem Dev.setMeta_grp (d) (m) (oo) : (Dev.setMeta d m).grp oo = d.grp oo := Dev.grp_same oo (Dev.setMeta_media d m)
@[simp] theorem Dev.setMeta_qp (d) (m) (oo) : (Dev.setMeta d m).qp oo = d.qp oo := Dev.qp_same oo (Dev.setMeta_lci d m)
@[simp] theorem Dev.setMeta_cmd (d) (m) (oo) : (Dev.setMeta d m).cmd oo = d.cmd oo := Dev.cmd_same oo (Dev.setMeta_lci d m)
@[simp] theorem Dev.setMeta_slot (d) (m) (oo) : (Dev.setMeta d m).slot oo = d.slot oo := Dev.slot_same oo (Dev.setMeta_sec d m)
@[simp] theorem Dev.setMeta_schan (d) (m) (oo) : (Dev.setMeta d m).schan oo = d.schan oo := Dev.schan_same oo (Dev.setMeta_str d m)
@[simp] theorem Dev.setHdr_regs (d) (t) (h) : (Dev.setHdr d t h).regs = d.regs := (Dev.setHdr_touches d t h).same .regs (by decide)
@[simp] theorem Dev.setHdr_a (d) (t) (h) : (Dev.setHdr d t h).a = d.a := (Dev.setHdr_touches d t h).same .a (by decide)
@[simp] theorem Dev.setHdr_b (d) (t) (h) : (Dev.setHdr d t h).b = d.b := (Dev.setHdr_touches d t h).same .b (by decide)
@[simp] theorem Dev.setHdr_tether (d) (t) (h) : (Dev.setHdr d t h).tether = d.tether := (Dev.setHdr_touches d t h).same .tether (by decide)
@[simp] theorem Dev.setHdr_launch (d) (t) (h) : (Dev.setHdr d t h).launch = d.launch := (Dev.setHdr_touches d t h).same .launch (by decide)
@[simp] theorem Dev.setHdr_gpio (d) (t) (h) : (Dev.setHdr d t h).gpio = d.gpio := (Dev.setHdr_touches d t h).same .gpio (by decide)
@[simp] theorem Dev.setHdr_keel (d) (t) (h) : (Dev.setHdr d t h).keel = d.keel := (Dev.setHdr_touches d t h).same .keel (by decide)
@[simp] theorem Dev.setHdr_log (d) (t) (h) : (Dev.setHdr d t h).log = d.log := (Dev.setHdr_touches d t h).same .log (by decide)
@[simp] theorem Dev.setHdr_aon (d) (t) (h) : (Dev.setHdr d t h).aon = d.aon := (Dev.setHdr_touches d t h).same .aon (by decide)
@[simp] theorem Dev.setHdr_cores (d) (t) (h) : (Dev.setHdr d t h).cores = d.cores := (Dev.setHdr_touches d t h).same .cores (by decide)
@[simp] theorem Dev.setHdr_sems (d) (t) (h) : (Dev.setHdr d t h).sems = d.sems := (Dev.setHdr_touches d t h).same .sems (by decide)
@[simp] theorem Dev.setHdr_images (d) (t) (h) : (Dev.setHdr d t h).images = d.images := (Dev.setHdr_touches d t h).same .images (by decide)
@[simp] theorem Dev.setHdr_pmc (d) (t) (h) : (Dev.setHdr d t h).pmc = d.pmc := (Dev.setHdr_touches d t h).same .pmc (by decide)
@[simp] theorem Dev.setHdr_bst (d) (t) (h) : (Dev.setHdr d t h).bst = d.bst := (Dev.setHdr_touches d t h).same .bst (by decide)
@[simp] theorem Dev.setHdr_dbg (d) (t) (h) : (Dev.setHdr d t h).dbg = d.dbg := (Dev.setHdr_touches d t h).same .dbg (by decide)
@[simp] theorem Dev.setHdr_gon (d) (t) (h) : (Dev.setHdr d t h).gon = d.gon := (Dev.setHdr_touches d t h).same .gon (by decide)
@[simp] theorem Dev.setHdr_cache (d) (t) (h) : (Dev.setHdr d t h).cache = d.cache := (Dev.setHdr_touches d t h).same .cache (by decide)
@[simp] theorem Dev.setHdr_media (d) (t) (h) : (Dev.setHdr d t h).media = d.media := (Dev.setHdr_touches d t h).same .media (by decide)
@[simp] theorem Dev.setHdr_drift (d) (t) (h) : (Dev.setHdr d t h).drift = d.drift := (Dev.setHdr_touches d t h).same .drift (by decide)
@[simp] theorem Dev.setHdr_sec (d) (t) (h) : (Dev.setHdr d t h).sec = d.sec := (Dev.setHdr_touches d t h).same .sec (by decide)
@[simp] theorem Dev.setHdr_str (d) (t) (h) : (Dev.setHdr d t h).str = d.str := (Dev.setHdr_touches d t h).same .str (by decide)
@[simp] theorem Dev.setHdr_lci (d) (t) (h) : (Dev.setHdr d t h).lci = d.lci := (Dev.setHdr_touches d t h).same .lci (by decide)
@[simp] theorem Dev.setHdr_pwr (d) (t) (h) : (Dev.setHdr d t h).pwr = d.pwr := (Dev.setHdr_touches d t h).same .pwr (by decide)
@[simp] theorem Dev.setHdr_therm (d) (t) (h) : (Dev.setHdr d t h).therm = d.therm := (Dev.setHdr_touches d t h).same .therm (by decide)
@[simp] theorem Dev.setHdr_out (d) (t) (h) : (Dev.setHdr d t h).out = d.out := (Dev.setHdr_touches d t h).same .out (by decide)
@[simp] theorem Dev.setHdr_fresh (d) (t) (h) : (Dev.setHdr d t h).fresh = d.fresh := (Dev.setHdr_touches d t h).same .fresh (by decide)
@[simp] theorem Dev.setHdr_head (d) (t) (h) (hd) : (Dev.setHdr d t h).head hd = d.head hd := Dev.head_same hd (Dev.setHdr_a d t h) (Dev.setHdr_b d t h)
@[simp] theorem Dev.setHdr_reg (d) (t) (h) (oo) : (Dev.setHdr d t h).reg oo = d.reg oo := Dev.reg_same oo (Dev.setHdr_regs d t h)
@[simp] theorem Dev.setHdr_chan (d) (t) (h) (oo) : (Dev.setHdr d t h).chan oo = d.chan oo := Dev.chan_same oo (Dev.setHdr_media d t h)
@[simp] theorem Dev.setHdr_die (d) (t) (h) (oo) : (Dev.setHdr d t h).die oo = d.die oo := Dev.die_same oo (Dev.setHdr_media d t h)
@[simp] theorem Dev.setHdr_ctl (d) (t) (h) (oo) : (Dev.setHdr d t h).ctl oo = d.ctl oo := Dev.ctl_same oo (Dev.setHdr_media d t h)
@[simp] theorem Dev.setHdr_grp (d) (t) (h) (oo) : (Dev.setHdr d t h).grp oo = d.grp oo := Dev.grp_same oo (Dev.setHdr_media d t h)
@[simp] theorem Dev.setHdr_qp (d) (t) (h) (oo) : (Dev.setHdr d t h).qp oo = d.qp oo := Dev.qp_same oo (Dev.setHdr_lci d t h)
@[simp] theorem Dev.setHdr_cmd (d) (t) (h) (oo) : (Dev.setHdr d t h).cmd oo = d.cmd oo := Dev.cmd_same oo (Dev.setHdr_lci d t h)
@[simp] theorem Dev.setHdr_slot (d) (t) (h) (oo) : (Dev.setHdr d t h).slot oo = d.slot oo := Dev.slot_same oo (Dev.setHdr_sec d t h)
@[simp] theorem Dev.setHdr_schan (d) (t) (h) (oo) : (Dev.setHdr d t h).schan oo = d.schan oo := Dev.schan_same oo (Dev.setHdr_str d t h)
@[simp] theorem Dev.tcLookup_a (d) (t) (i) : (Dev.tcLookup d t i).a = d.a := (Dev.tcLookup_touches d t i).same .a (by decide)
@[simp] theorem Dev.tcLookup_b (d) (t) (i) : (Dev.tcLookup d t i).b = d.b := (Dev.tcLookup_touches d t i).same .b (by decide)
@[simp] theorem Dev.tcLookup_tether (d) (t) (i) : (Dev.tcLookup d t i).tether = d.tether := (Dev.tcLookup_touches d t i).same .tether (by decide)
@[simp] theorem Dev.tcLookup_launch (d) (t) (i) : (Dev.tcLookup d t i).launch = d.launch := (Dev.tcLookup_touches d t i).same .launch (by decide)
@[simp] theorem Dev.tcLookup_gpio (d) (t) (i) : (Dev.tcLookup d t i).gpio = d.gpio := (Dev.tcLookup_touches d t i).same .gpio (by decide)
@[simp] theorem Dev.tcLookup_keel (d) (t) (i) : (Dev.tcLookup d t i).keel = d.keel := (Dev.tcLookup_touches d t i).same .keel (by decide)
@[simp] theorem Dev.tcLookup_log (d) (t) (i) : (Dev.tcLookup d t i).log = d.log := (Dev.tcLookup_touches d t i).same .log (by decide)
@[simp] theorem Dev.tcLookup_aon (d) (t) (i) : (Dev.tcLookup d t i).aon = d.aon := (Dev.tcLookup_touches d t i).same .aon (by decide)
@[simp] theorem Dev.tcLookup_cores (d) (t) (i) : (Dev.tcLookup d t i).cores = d.cores := (Dev.tcLookup_touches d t i).same .cores (by decide)
@[simp] theorem Dev.tcLookup_sems (d) (t) (i) : (Dev.tcLookup d t i).sems = d.sems := (Dev.tcLookup_touches d t i).same .sems (by decide)
@[simp] theorem Dev.tcLookup_images (d) (t) (i) : (Dev.tcLookup d t i).images = d.images := (Dev.tcLookup_touches d t i).same .images (by decide)
@[simp] theorem Dev.tcLookup_bst (d) (t) (i) : (Dev.tcLookup d t i).bst = d.bst := (Dev.tcLookup_touches d t i).same .bst (by decide)
@[simp] theorem Dev.tcLookup_dbg (d) (t) (i) : (Dev.tcLookup d t i).dbg = d.dbg := (Dev.tcLookup_touches d t i).same .dbg (by decide)
@[simp] theorem Dev.tcLookup_gon (d) (t) (i) : (Dev.tcLookup d t i).gon = d.gon := (Dev.tcLookup_touches d t i).same .gon (by decide)
@[simp] theorem Dev.tcLookup_cache (d) (t) (i) : (Dev.tcLookup d t i).cache = d.cache := (Dev.tcLookup_touches d t i).same .cache (by decide)
@[simp] theorem Dev.tcLookup_media (d) (t) (i) : (Dev.tcLookup d t i).media = d.media := (Dev.tcLookup_touches d t i).same .media (by decide)
@[simp] theorem Dev.tcLookup_drift (d) (t) (i) : (Dev.tcLookup d t i).drift = d.drift := (Dev.tcLookup_touches d t i).same .drift (by decide)
@[simp] theorem Dev.tcLookup_sec (d) (t) (i) : (Dev.tcLookup d t i).sec = d.sec := (Dev.tcLookup_touches d t i).same .sec (by decide)
@[simp] theorem Dev.tcLookup_str (d) (t) (i) : (Dev.tcLookup d t i).str = d.str := (Dev.tcLookup_touches d t i).same .str (by decide)
@[simp] theorem Dev.tcLookup_lci (d) (t) (i) : (Dev.tcLookup d t i).lci = d.lci := (Dev.tcLookup_touches d t i).same .lci (by decide)
@[simp] theorem Dev.tcLookup_pwr (d) (t) (i) : (Dev.tcLookup d t i).pwr = d.pwr := (Dev.tcLookup_touches d t i).same .pwr (by decide)
@[simp] theorem Dev.tcLookup_therm (d) (t) (i) : (Dev.tcLookup d t i).therm = d.therm := (Dev.tcLookup_touches d t i).same .therm (by decide)
@[simp] theorem Dev.tcLookup_out (d) (t) (i) : (Dev.tcLookup d t i).out = d.out := (Dev.tcLookup_touches d t i).same .out (by decide)
@[simp] theorem Dev.tcLookup_fresh (d) (t) (i) : (Dev.tcLookup d t i).fresh = d.fresh := (Dev.tcLookup_touches d t i).same .fresh (by decide)
@[simp] theorem Dev.tcLookup_head (d) (t) (i) (hd) : (Dev.tcLookup d t i).head hd = d.head hd := Dev.head_same hd (Dev.tcLookup_a d t i) (Dev.tcLookup_b d t i)
@[simp] theorem Dev.tcLookup_chan (d) (t) (i) (oo) : (Dev.tcLookup d t i).chan oo = d.chan oo := Dev.chan_same oo (Dev.tcLookup_media d t i)
@[simp] theorem Dev.tcLookup_die (d) (t) (i) (oo) : (Dev.tcLookup d t i).die oo = d.die oo := Dev.die_same oo (Dev.tcLookup_media d t i)
@[simp] theorem Dev.tcLookup_ctl (d) (t) (i) (oo) : (Dev.tcLookup d t i).ctl oo = d.ctl oo := Dev.ctl_same oo (Dev.tcLookup_media d t i)
@[simp] theorem Dev.tcLookup_grp (d) (t) (i) (oo) : (Dev.tcLookup d t i).grp oo = d.grp oo := Dev.grp_same oo (Dev.tcLookup_media d t i)
@[simp] theorem Dev.tcLookup_qp (d) (t) (i) (oo) : (Dev.tcLookup d t i).qp oo = d.qp oo := Dev.qp_same oo (Dev.tcLookup_lci d t i)
@[simp] theorem Dev.tcLookup_cmd (d) (t) (i) (oo) : (Dev.tcLookup d t i).cmd oo = d.cmd oo := Dev.cmd_same oo (Dev.tcLookup_lci d t i)
@[simp] theorem Dev.tcLookup_slot (d) (t) (i) (oo) : (Dev.tcLookup d t i).slot oo = d.slot oo := Dev.slot_same oo (Dev.tcLookup_sec d t i)
@[simp] theorem Dev.tcLookup_schan (d) (t) (i) (oo) : (Dev.tcLookup d t i).schan oo = d.schan oo := Dev.schan_same oo (Dev.tcLookup_str d t i)
@[simp] theorem Dev.emit_regs (d) (o) : (Dev.emit d o).regs = d.regs := (Dev.emit_touches d o).same .regs (by decide)
@[simp] theorem Dev.emit_a (d) (o) : (Dev.emit d o).a = d.a := (Dev.emit_touches d o).same .a (by decide)
@[simp] theorem Dev.emit_b (d) (o) : (Dev.emit d o).b = d.b := (Dev.emit_touches d o).same .b (by decide)
@[simp] theorem Dev.emit_tether (d) (o) : (Dev.emit d o).tether = d.tether := (Dev.emit_touches d o).same .tether (by decide)
@[simp] theorem Dev.emit_launch (d) (o) : (Dev.emit d o).launch = d.launch := (Dev.emit_touches d o).same .launch (by decide)
@[simp] theorem Dev.emit_gpio (d) (o) : (Dev.emit d o).gpio = d.gpio := (Dev.emit_touches d o).same .gpio (by decide)
@[simp] theorem Dev.emit_keel (d) (o) : (Dev.emit d o).keel = d.keel := (Dev.emit_touches d o).same .keel (by decide)
@[simp] theorem Dev.emit_log (d) (o) : (Dev.emit d o).log = d.log := (Dev.emit_touches d o).same .log (by decide)
@[simp] theorem Dev.emit_aon (d) (o) : (Dev.emit d o).aon = d.aon := (Dev.emit_touches d o).same .aon (by decide)
@[simp] theorem Dev.emit_cores (d) (o) : (Dev.emit d o).cores = d.cores := (Dev.emit_touches d o).same .cores (by decide)
@[simp] theorem Dev.emit_sems (d) (o) : (Dev.emit d o).sems = d.sems := (Dev.emit_touches d o).same .sems (by decide)
@[simp] theorem Dev.emit_images (d) (o) : (Dev.emit d o).images = d.images := (Dev.emit_touches d o).same .images (by decide)
@[simp] theorem Dev.emit_pmc (d) (o) : (Dev.emit d o).pmc = d.pmc := (Dev.emit_touches d o).same .pmc (by decide)
@[simp] theorem Dev.emit_bst (d) (o) : (Dev.emit d o).bst = d.bst := (Dev.emit_touches d o).same .bst (by decide)
@[simp] theorem Dev.emit_dbg (d) (o) : (Dev.emit d o).dbg = d.dbg := (Dev.emit_touches d o).same .dbg (by decide)
@[simp] theorem Dev.emit_gon (d) (o) : (Dev.emit d o).gon = d.gon := (Dev.emit_touches d o).same .gon (by decide)
@[simp] theorem Dev.emit_cache (d) (o) : (Dev.emit d o).cache = d.cache := (Dev.emit_touches d o).same .cache (by decide)
@[simp] theorem Dev.emit_media (d) (o) : (Dev.emit d o).media = d.media := (Dev.emit_touches d o).same .media (by decide)
@[simp] theorem Dev.emit_tracts (d) (o) : (Dev.emit d o).tracts = d.tracts := (Dev.emit_touches d o).same .tracts (by decide)
@[simp] theorem Dev.emit_drift (d) (o) : (Dev.emit d o).drift = d.drift := (Dev.emit_touches d o).same .drift (by decide)
@[simp] theorem Dev.emit_sec (d) (o) : (Dev.emit d o).sec = d.sec := (Dev.emit_touches d o).same .sec (by decide)
@[simp] theorem Dev.emit_str (d) (o) : (Dev.emit d o).str = d.str := (Dev.emit_touches d o).same .str (by decide)
@[simp] theorem Dev.emit_lci (d) (o) : (Dev.emit d o).lci = d.lci := (Dev.emit_touches d o).same .lci (by decide)
@[simp] theorem Dev.emit_pwr (d) (o) : (Dev.emit d o).pwr = d.pwr := (Dev.emit_touches d o).same .pwr (by decide)
@[simp] theorem Dev.emit_therm (d) (o) : (Dev.emit d o).therm = d.therm := (Dev.emit_touches d o).same .therm (by decide)
@[simp] theorem Dev.emit_fresh (d) (o) : (Dev.emit d o).fresh = d.fresh := (Dev.emit_touches d o).same .fresh (by decide)
@[simp] theorem Dev.emit_head (d) (o) (hd) : (Dev.emit d o).head hd = d.head hd := Dev.head_same hd (Dev.emit_a d o) (Dev.emit_b d o)
@[simp] theorem Dev.emit_reg (d) (o) (oo) : (Dev.emit d o).reg oo = d.reg oo := Dev.reg_same oo (Dev.emit_regs d o)
@[simp] theorem Dev.emit_chan (d) (o) (oo) : (Dev.emit d o).chan oo = d.chan oo := Dev.chan_same oo (Dev.emit_media d o)
@[simp] theorem Dev.emit_die (d) (o) (oo) : (Dev.emit d o).die oo = d.die oo := Dev.die_same oo (Dev.emit_media d o)
@[simp] theorem Dev.emit_ctl (d) (o) (oo) : (Dev.emit d o).ctl oo = d.ctl oo := Dev.ctl_same oo (Dev.emit_media d o)
@[simp] theorem Dev.emit_grp (d) (o) (oo) : (Dev.emit d o).grp oo = d.grp oo := Dev.grp_same oo (Dev.emit_media d o)
@[simp] theorem Dev.emit_qp (d) (o) (oo) : (Dev.emit d o).qp oo = d.qp oo := Dev.qp_same oo (Dev.emit_lci d o)
@[simp] theorem Dev.emit_cmd (d) (o) (oo) : (Dev.emit d o).cmd oo = d.cmd oo := Dev.cmd_same oo (Dev.emit_lci d o)
@[simp] theorem Dev.emit_ent (d) (o) (oo) : (Dev.emit d o).ent oo = d.ent oo := Dev.ent_same oo (Dev.emit_tracts d o)
@[simp] theorem Dev.emit_hdr (d) (o) (oo) : (Dev.emit d o).hdr oo = d.hdr oo := Dev.hdr_same oo (Dev.emit_tracts d o)
@[simp] theorem Dev.emit_phys (d) (o) (oo) (ii) : (Dev.emit d o).phys oo ii = d.phys oo ii := Dev.phys_same oo ii (Dev.emit_tracts d o)
@[simp] theorem Dev.emit_slot (d) (o) (oo) : (Dev.emit d o).slot oo = d.slot oo := Dev.slot_same oo (Dev.emit_sec d o)
@[simp] theorem Dev.emit_schan (d) (o) (oo) : (Dev.emit d o).schan oo = d.schan oo := Dev.schan_same oo (Dev.emit_str d o)
@[simp] theorem Dev.memberPut_regs (d) : (Dev.memberPut d).regs = d.regs := (Dev.memberPut_touches d).same .regs (by decide)
@[simp] theorem Dev.memberPut_a (d) : (Dev.memberPut d).a = d.a := (Dev.memberPut_touches d).same .a (by decide)
@[simp] theorem Dev.memberPut_b (d) : (Dev.memberPut d).b = d.b := (Dev.memberPut_touches d).same .b (by decide)
@[simp] theorem Dev.memberPut_tether (d) : (Dev.memberPut d).tether = d.tether := (Dev.memberPut_touches d).same .tether (by decide)
@[simp] theorem Dev.memberPut_launch (d) : (Dev.memberPut d).launch = d.launch := (Dev.memberPut_touches d).same .launch (by decide)
@[simp] theorem Dev.memberPut_gpio (d) : (Dev.memberPut d).gpio = d.gpio := (Dev.memberPut_touches d).same .gpio (by decide)
@[simp] theorem Dev.memberPut_log (d) : (Dev.memberPut d).log = d.log := (Dev.memberPut_touches d).same .log (by decide)
@[simp] theorem Dev.memberPut_aon (d) : (Dev.memberPut d).aon = d.aon := (Dev.memberPut_touches d).same .aon (by decide)
@[simp] theorem Dev.memberPut_cores (d) : (Dev.memberPut d).cores = d.cores := (Dev.memberPut_touches d).same .cores (by decide)
@[simp] theorem Dev.memberPut_sems (d) : (Dev.memberPut d).sems = d.sems := (Dev.memberPut_touches d).same .sems (by decide)
@[simp] theorem Dev.memberPut_images (d) : (Dev.memberPut d).images = d.images := (Dev.memberPut_touches d).same .images (by decide)
@[simp] theorem Dev.memberPut_pmc (d) : (Dev.memberPut d).pmc = d.pmc := (Dev.memberPut_touches d).same .pmc (by decide)
@[simp] theorem Dev.memberPut_bst (d) : (Dev.memberPut d).bst = d.bst := (Dev.memberPut_touches d).same .bst (by decide)
@[simp] theorem Dev.memberPut_dbg (d) : (Dev.memberPut d).dbg = d.dbg := (Dev.memberPut_touches d).same .dbg (by decide)
@[simp] theorem Dev.memberPut_gon (d) : (Dev.memberPut d).gon = d.gon := (Dev.memberPut_touches d).same .gon (by decide)
@[simp] theorem Dev.memberPut_cache (d) : (Dev.memberPut d).cache = d.cache := (Dev.memberPut_touches d).same .cache (by decide)
@[simp] theorem Dev.memberPut_media (d) : (Dev.memberPut d).media = d.media := (Dev.memberPut_touches d).same .media (by decide)
@[simp] theorem Dev.memberPut_tracts (d) : (Dev.memberPut d).tracts = d.tracts := (Dev.memberPut_touches d).same .tracts (by decide)
@[simp] theorem Dev.memberPut_drift (d) : (Dev.memberPut d).drift = d.drift := (Dev.memberPut_touches d).same .drift (by decide)
@[simp] theorem Dev.memberPut_sec (d) : (Dev.memberPut d).sec = d.sec := (Dev.memberPut_touches d).same .sec (by decide)
@[simp] theorem Dev.memberPut_str (d) : (Dev.memberPut d).str = d.str := (Dev.memberPut_touches d).same .str (by decide)
@[simp] theorem Dev.memberPut_lci (d) : (Dev.memberPut d).lci = d.lci := (Dev.memberPut_touches d).same .lci (by decide)
@[simp] theorem Dev.memberPut_pwr (d) : (Dev.memberPut d).pwr = d.pwr := (Dev.memberPut_touches d).same .pwr (by decide)
@[simp] theorem Dev.memberPut_therm (d) : (Dev.memberPut d).therm = d.therm := (Dev.memberPut_touches d).same .therm (by decide)
@[simp] theorem Dev.memberPut_out (d) : (Dev.memberPut d).out = d.out := (Dev.memberPut_touches d).same .out (by decide)
@[simp] theorem Dev.memberPut_fresh (d) : (Dev.memberPut d).fresh = d.fresh := (Dev.memberPut_touches d).same .fresh (by decide)
@[simp] theorem Dev.memberPut_head (d) (hd) : (Dev.memberPut d).head hd = d.head hd := Dev.head_same hd (Dev.memberPut_a d) (Dev.memberPut_b d)
@[simp] theorem Dev.memberPut_reg (d) (oo) : (Dev.memberPut d).reg oo = d.reg oo := Dev.reg_same oo (Dev.memberPut_regs d)
@[simp] theorem Dev.memberPut_chan (d) (oo) : (Dev.memberPut d).chan oo = d.chan oo := Dev.chan_same oo (Dev.memberPut_media d)
@[simp] theorem Dev.memberPut_die (d) (oo) : (Dev.memberPut d).die oo = d.die oo := Dev.die_same oo (Dev.memberPut_media d)
@[simp] theorem Dev.memberPut_ctl (d) (oo) : (Dev.memberPut d).ctl oo = d.ctl oo := Dev.ctl_same oo (Dev.memberPut_media d)
@[simp] theorem Dev.memberPut_grp (d) (oo) : (Dev.memberPut d).grp oo = d.grp oo := Dev.grp_same oo (Dev.memberPut_media d)
@[simp] theorem Dev.memberPut_qp (d) (oo) : (Dev.memberPut d).qp oo = d.qp oo := Dev.qp_same oo (Dev.memberPut_lci d)
@[simp] theorem Dev.memberPut_cmd (d) (oo) : (Dev.memberPut d).cmd oo = d.cmd oo := Dev.cmd_same oo (Dev.memberPut_lci d)
@[simp] theorem Dev.memberPut_ent (d) (oo) : (Dev.memberPut d).ent oo = d.ent oo := Dev.ent_same oo (Dev.memberPut_tracts d)
@[simp] theorem Dev.memberPut_hdr (d) (oo) : (Dev.memberPut d).hdr oo = d.hdr oo := Dev.hdr_same oo (Dev.memberPut_tracts d)
@[simp] theorem Dev.memberPut_phys (d) (oo) (ii) : (Dev.memberPut d).phys oo ii = d.phys oo ii := Dev.phys_same oo ii (Dev.memberPut_tracts d)
@[simp] theorem Dev.memberPut_slot (d) (oo) : (Dev.memberPut d).slot oo = d.slot oo := Dev.slot_same oo (Dev.memberPut_sec d)
@[simp] theorem Dev.memberPut_schan (d) (oo) : (Dev.memberPut d).schan oo = d.schan oo := Dev.schan_same oo (Dev.memberPut_str d)
@[simp] theorem Dev.passed_a (d) (ns) (cycles) : (Dev.passed d ns cycles).a = d.a := (Dev.passed_touches d ns cycles).same .a (by decide)
@[simp] theorem Dev.passed_b (d) (ns) (cycles) : (Dev.passed d ns cycles).b = d.b := (Dev.passed_touches d ns cycles).same .b (by decide)
@[simp] theorem Dev.passed_tether (d) (ns) (cycles) : (Dev.passed d ns cycles).tether = d.tether := (Dev.passed_touches d ns cycles).same .tether (by decide)
@[simp] theorem Dev.passed_launch (d) (ns) (cycles) : (Dev.passed d ns cycles).launch = d.launch := (Dev.passed_touches d ns cycles).same .launch (by decide)
@[simp] theorem Dev.passed_gpio (d) (ns) (cycles) : (Dev.passed d ns cycles).gpio = d.gpio := (Dev.passed_touches d ns cycles).same .gpio (by decide)
@[simp] theorem Dev.passed_keel (d) (ns) (cycles) : (Dev.passed d ns cycles).keel = d.keel := (Dev.passed_touches d ns cycles).same .keel (by decide)
@[simp] theorem Dev.passed_log (d) (ns) (cycles) : (Dev.passed d ns cycles).log = d.log := (Dev.passed_touches d ns cycles).same .log (by decide)
@[simp] theorem Dev.passed_aon (d) (ns) (cycles) : (Dev.passed d ns cycles).aon = d.aon := (Dev.passed_touches d ns cycles).same .aon (by decide)
@[simp] theorem Dev.passed_cores (d) (ns) (cycles) : (Dev.passed d ns cycles).cores = d.cores := (Dev.passed_touches d ns cycles).same .cores (by decide)
@[simp] theorem Dev.passed_sems (d) (ns) (cycles) : (Dev.passed d ns cycles).sems = d.sems := (Dev.passed_touches d ns cycles).same .sems (by decide)
@[simp] theorem Dev.passed_images (d) (ns) (cycles) : (Dev.passed d ns cycles).images = d.images := (Dev.passed_touches d ns cycles).same .images (by decide)
@[simp] theorem Dev.passed_bst (d) (ns) (cycles) : (Dev.passed d ns cycles).bst = d.bst := (Dev.passed_touches d ns cycles).same .bst (by decide)
@[simp] theorem Dev.passed_dbg (d) (ns) (cycles) : (Dev.passed d ns cycles).dbg = d.dbg := (Dev.passed_touches d ns cycles).same .dbg (by decide)
@[simp] theorem Dev.passed_gon (d) (ns) (cycles) : (Dev.passed d ns cycles).gon = d.gon := (Dev.passed_touches d ns cycles).same .gon (by decide)
@[simp] theorem Dev.passed_cache (d) (ns) (cycles) : (Dev.passed d ns cycles).cache = d.cache := (Dev.passed_touches d ns cycles).same .cache (by decide)
@[simp] theorem Dev.passed_media (d) (ns) (cycles) : (Dev.passed d ns cycles).media = d.media := (Dev.passed_touches d ns cycles).same .media (by decide)
@[simp] theorem Dev.passed_tracts (d) (ns) (cycles) : (Dev.passed d ns cycles).tracts = d.tracts := (Dev.passed_touches d ns cycles).same .tracts (by decide)
@[simp] theorem Dev.passed_drift (d) (ns) (cycles) : (Dev.passed d ns cycles).drift = d.drift := (Dev.passed_touches d ns cycles).same .drift (by decide)
@[simp] theorem Dev.passed_sec (d) (ns) (cycles) : (Dev.passed d ns cycles).sec = d.sec := (Dev.passed_touches d ns cycles).same .sec (by decide)
@[simp] theorem Dev.passed_str (d) (ns) (cycles) : (Dev.passed d ns cycles).str = d.str := (Dev.passed_touches d ns cycles).same .str (by decide)
@[simp] theorem Dev.passed_lci (d) (ns) (cycles) : (Dev.passed d ns cycles).lci = d.lci := (Dev.passed_touches d ns cycles).same .lci (by decide)
@[simp] theorem Dev.passed_pwr (d) (ns) (cycles) : (Dev.passed d ns cycles).pwr = d.pwr := (Dev.passed_touches d ns cycles).same .pwr (by decide)
@[simp] theorem Dev.passed_therm (d) (ns) (cycles) : (Dev.passed d ns cycles).therm = d.therm := (Dev.passed_touches d ns cycles).same .therm (by decide)
@[simp] theorem Dev.passed_out (d) (ns) (cycles) : (Dev.passed d ns cycles).out = d.out := (Dev.passed_touches d ns cycles).same .out (by decide)
@[simp] theorem Dev.passed_fresh (d) (ns) (cycles) : (Dev.passed d ns cycles).fresh = d.fresh := (Dev.passed_touches d ns cycles).same .fresh (by decide)
@[simp] theorem Dev.passed_head (d) (ns) (cycles) (hd) : (Dev.passed d ns cycles).head hd = d.head hd := Dev.head_same hd (Dev.passed_a d ns cycles) (Dev.passed_b d ns cycles)
@[simp] theorem Dev.passed_chan (d) (ns) (cycles) (oo) : (Dev.passed d ns cycles).chan oo = d.chan oo := Dev.chan_same oo (Dev.passed_media d ns cycles)
@[simp] theorem Dev.passed_die (d) (ns) (cycles) (oo) : (Dev.passed d ns cycles).die oo = d.die oo := Dev.die_same oo (Dev.passed_media d ns cycles)
@[simp] theorem Dev.passed_ctl (d) (ns) (cycles) (oo) : (Dev.passed d ns cycles).ctl oo = d.ctl oo := Dev.ctl_same oo (Dev.passed_media d ns cycles)
@[simp] theorem Dev.passed_grp (d) (ns) (cycles) (oo) : (Dev.passed d ns cycles).grp oo = d.grp oo := Dev.grp_same oo (Dev.passed_media d ns cycles)
@[simp] theorem Dev.passed_qp (d) (ns) (cycles) (oo) : (Dev.passed d ns cycles).qp oo = d.qp oo := Dev.qp_same oo (Dev.passed_lci d ns cycles)
@[simp] theorem Dev.passed_cmd (d) (ns) (cycles) (oo) : (Dev.passed d ns cycles).cmd oo = d.cmd oo := Dev.cmd_same oo (Dev.passed_lci d ns cycles)
@[simp] theorem Dev.passed_ent (d) (ns) (cycles) (oo) : (Dev.passed d ns cycles).ent oo = d.ent oo := Dev.ent_same oo (Dev.passed_tracts d ns cycles)
@[simp] theorem Dev.passed_hdr (d) (ns) (cycles) (oo) : (Dev.passed d ns cycles).hdr oo = d.hdr oo := Dev.hdr_same oo (Dev.passed_tracts d ns cycles)
@[simp] theorem Dev.passed_phys (d) (ns) (cycles) (oo) (ii) : (Dev.passed d ns cycles).phys oo ii = d.phys oo ii := Dev.phys_same oo ii (Dev.passed_tracts d ns cycles)
@[simp] theorem Dev.passed_slot (d) (ns) (cycles) (oo) : (Dev.passed d ns cycles).slot oo = d.slot oo := Dev.slot_same oo (Dev.passed_sec d ns cycles)
@[simp] theorem Dev.passed_schan (d) (ns) (cycles) (oo) : (Dev.passed d ns cycles).schan oo = d.schan oo := Dev.schan_same oo (Dev.passed_str d ns cycles)
@[simp] theorem Dev.setFld_a (d) (off) (hi) (lo) (v) : (Dev.setFld d off hi lo v).a = d.a := (Dev.setFld_touches d off hi lo v).same .a (by decide)
@[simp] theorem Dev.setFld_b (d) (off) (hi) (lo) (v) : (Dev.setFld d off hi lo v).b = d.b := (Dev.setFld_touches d off hi lo v).same .b (by decide)
@[simp] theorem Dev.setFld_tether (d) (off) (hi) (lo) (v) : (Dev.setFld d off hi lo v).tether = d.tether := (Dev.setFld_touches d off hi lo v).same .tether (by decide)
@[simp] theorem Dev.setFld_launch (d) (off) (hi) (lo) (v) : (Dev.setFld d off hi lo v).launch = d.launch := (Dev.setFld_touches d off hi lo v).same .launch (by decide)
@[simp] theorem Dev.setFld_gpio (d) (off) (hi) (lo) (v) : (Dev.setFld d off hi lo v).gpio = d.gpio := (Dev.setFld_touches d off hi lo v).same .gpio (by decide)
@[simp] theorem Dev.setFld_keel (d) (off) (hi) (lo) (v) : (Dev.setFld d off hi lo v).keel = d.keel := (Dev.setFld_touches d off hi lo v).same .keel (by decide)
@[simp] theorem Dev.setFld_log (d) (off) (hi) (lo) (v) : (Dev.setFld d off hi lo v).log = d.log := (Dev.setFld_touches d off hi lo v).same .log (by decide)
@[simp] theorem Dev.setFld_aon (d) (off) (hi) (lo) (v) : (Dev.setFld d off hi lo v).aon = d.aon := (Dev.setFld_touches d off hi lo v).same .aon (by decide)
@[simp] theorem Dev.setFld_cores (d) (off) (hi) (lo) (v) : (Dev.setFld d off hi lo v).cores = d.cores := (Dev.setFld_touches d off hi lo v).same .cores (by decide)
@[simp] theorem Dev.setFld_sems (d) (off) (hi) (lo) (v) : (Dev.setFld d off hi lo v).sems = d.sems := (Dev.setFld_touches d off hi lo v).same .sems (by decide)
@[simp] theorem Dev.setFld_images (d) (off) (hi) (lo) (v) : (Dev.setFld d off hi lo v).images = d.images := (Dev.setFld_touches d off hi lo v).same .images (by decide)
@[simp] theorem Dev.setFld_pmc (d) (off) (hi) (lo) (v) : (Dev.setFld d off hi lo v).pmc = d.pmc := (Dev.setFld_touches d off hi lo v).same .pmc (by decide)
@[simp] theorem Dev.setFld_bst (d) (off) (hi) (lo) (v) : (Dev.setFld d off hi lo v).bst = d.bst := (Dev.setFld_touches d off hi lo v).same .bst (by decide)
@[simp] theorem Dev.setFld_dbg (d) (off) (hi) (lo) (v) : (Dev.setFld d off hi lo v).dbg = d.dbg := (Dev.setFld_touches d off hi lo v).same .dbg (by decide)
@[simp] theorem Dev.setFld_gon (d) (off) (hi) (lo) (v) : (Dev.setFld d off hi lo v).gon = d.gon := (Dev.setFld_touches d off hi lo v).same .gon (by decide)
@[simp] theorem Dev.setFld_cache (d) (off) (hi) (lo) (v) : (Dev.setFld d off hi lo v).cache = d.cache := (Dev.setFld_touches d off hi lo v).same .cache (by decide)
@[simp] theorem Dev.setFld_media (d) (off) (hi) (lo) (v) : (Dev.setFld d off hi lo v).media = d.media := (Dev.setFld_touches d off hi lo v).same .media (by decide)
@[simp] theorem Dev.setFld_tracts (d) (off) (hi) (lo) (v) : (Dev.setFld d off hi lo v).tracts = d.tracts := (Dev.setFld_touches d off hi lo v).same .tracts (by decide)
@[simp] theorem Dev.setFld_drift (d) (off) (hi) (lo) (v) : (Dev.setFld d off hi lo v).drift = d.drift := (Dev.setFld_touches d off hi lo v).same .drift (by decide)
@[simp] theorem Dev.setFld_sec (d) (off) (hi) (lo) (v) : (Dev.setFld d off hi lo v).sec = d.sec := (Dev.setFld_touches d off hi lo v).same .sec (by decide)
@[simp] theorem Dev.setFld_str (d) (off) (hi) (lo) (v) : (Dev.setFld d off hi lo v).str = d.str := (Dev.setFld_touches d off hi lo v).same .str (by decide)
@[simp] theorem Dev.setFld_lci (d) (off) (hi) (lo) (v) : (Dev.setFld d off hi lo v).lci = d.lci := (Dev.setFld_touches d off hi lo v).same .lci (by decide)
@[simp] theorem Dev.setFld_pwr (d) (off) (hi) (lo) (v) : (Dev.setFld d off hi lo v).pwr = d.pwr := (Dev.setFld_touches d off hi lo v).same .pwr (by decide)
@[simp] theorem Dev.setFld_therm (d) (off) (hi) (lo) (v) : (Dev.setFld d off hi lo v).therm = d.therm := (Dev.setFld_touches d off hi lo v).same .therm (by decide)
@[simp] theorem Dev.setFld_out (d) (off) (hi) (lo) (v) : (Dev.setFld d off hi lo v).out = d.out := (Dev.setFld_touches d off hi lo v).same .out (by decide)
@[simp] theorem Dev.setFld_fresh (d) (off) (hi) (lo) (v) : (Dev.setFld d off hi lo v).fresh = d.fresh := (Dev.setFld_touches d off hi lo v).same .fresh (by decide)
@[simp] theorem Dev.setFld_head (d) (off) (hi) (lo) (v) (hd) : (Dev.setFld d off hi lo v).head hd = d.head hd := Dev.head_same hd (Dev.setFld_a d off hi lo v) (Dev.setFld_b d off hi lo v)
@[simp] theorem Dev.setFld_chan (d) (off) (hi) (lo) (v) (oo) : (Dev.setFld d off hi lo v).chan oo = d.chan oo := Dev.chan_same oo (Dev.setFld_media d off hi lo v)
@[simp] theorem Dev.setFld_die (d) (off) (hi) (lo) (v) (oo) : (Dev.setFld d off hi lo v).die oo = d.die oo := Dev.die_same oo (Dev.setFld_media d off hi lo v)
@[simp] theorem Dev.setFld_ctl (d) (off) (hi) (lo) (v) (oo) : (Dev.setFld d off hi lo v).ctl oo = d.ctl oo := Dev.ctl_same oo (Dev.setFld_media d off hi lo v)
@[simp] theorem Dev.setFld_grp (d) (off) (hi) (lo) (v) (oo) : (Dev.setFld d off hi lo v).grp oo = d.grp oo := Dev.grp_same oo (Dev.setFld_media d off hi lo v)
@[simp] theorem Dev.setFld_qp (d) (off) (hi) (lo) (v) (oo) : (Dev.setFld d off hi lo v).qp oo = d.qp oo := Dev.qp_same oo (Dev.setFld_lci d off hi lo v)
@[simp] theorem Dev.setFld_cmd (d) (off) (hi) (lo) (v) (oo) : (Dev.setFld d off hi lo v).cmd oo = d.cmd oo := Dev.cmd_same oo (Dev.setFld_lci d off hi lo v)
@[simp] theorem Dev.setFld_ent (d) (off) (hi) (lo) (v) (oo) : (Dev.setFld d off hi lo v).ent oo = d.ent oo := Dev.ent_same oo (Dev.setFld_tracts d off hi lo v)
@[simp] theorem Dev.setFld_hdr (d) (off) (hi) (lo) (v) (oo) : (Dev.setFld d off hi lo v).hdr oo = d.hdr oo := Dev.hdr_same oo (Dev.setFld_tracts d off hi lo v)
@[simp] theorem Dev.setFld_phys (d) (off) (hi) (lo) (v) (oo) (ii) : (Dev.setFld d off hi lo v).phys oo ii = d.phys oo ii := Dev.phys_same oo ii (Dev.setFld_tracts d off hi lo v)
@[simp] theorem Dev.setFld_slot (d) (off) (hi) (lo) (v) (oo) : (Dev.setFld d off hi lo v).slot oo = d.slot oo := Dev.slot_same oo (Dev.setFld_sec d off hi lo v)
@[simp] theorem Dev.setFld_schan (d) (off) (hi) (lo) (v) (oo) : (Dev.setFld d off hi lo v).schan oo = d.schan oo := Dev.schan_same oo (Dev.setFld_str d off hi lo v)
@[simp] theorem Dev.reach_regs (d) (u) : (Dev.reach d u).regs = d.regs := (Dev.reach_touches d u).same .regs (by decide)
@[simp] theorem Dev.reach_a (d) (u) : (Dev.reach d u).a = d.a := (Dev.reach_touches d u).same .a (by decide)
@[simp] theorem Dev.reach_b (d) (u) : (Dev.reach d u).b = d.b := (Dev.reach_touches d u).same .b (by decide)
@[simp] theorem Dev.reach_launch (d) (u) : (Dev.reach d u).launch = d.launch := (Dev.reach_touches d u).same .launch (by decide)
@[simp] theorem Dev.reach_gpio (d) (u) : (Dev.reach d u).gpio = d.gpio := (Dev.reach_touches d u).same .gpio (by decide)
@[simp] theorem Dev.reach_keel (d) (u) : (Dev.reach d u).keel = d.keel := (Dev.reach_touches d u).same .keel (by decide)
@[simp] theorem Dev.reach_log (d) (u) : (Dev.reach d u).log = d.log := (Dev.reach_touches d u).same .log (by decide)
@[simp] theorem Dev.reach_aon (d) (u) : (Dev.reach d u).aon = d.aon := (Dev.reach_touches d u).same .aon (by decide)
@[simp] theorem Dev.reach_cores (d) (u) : (Dev.reach d u).cores = d.cores := (Dev.reach_touches d u).same .cores (by decide)
@[simp] theorem Dev.reach_sems (d) (u) : (Dev.reach d u).sems = d.sems := (Dev.reach_touches d u).same .sems (by decide)
@[simp] theorem Dev.reach_images (d) (u) : (Dev.reach d u).images = d.images := (Dev.reach_touches d u).same .images (by decide)
@[simp] theorem Dev.reach_pmc (d) (u) : (Dev.reach d u).pmc = d.pmc := (Dev.reach_touches d u).same .pmc (by decide)
@[simp] theorem Dev.reach_bst (d) (u) : (Dev.reach d u).bst = d.bst := (Dev.reach_touches d u).same .bst (by decide)
@[simp] theorem Dev.reach_dbg (d) (u) : (Dev.reach d u).dbg = d.dbg := (Dev.reach_touches d u).same .dbg (by decide)
@[simp] theorem Dev.reach_gon (d) (u) : (Dev.reach d u).gon = d.gon := (Dev.reach_touches d u).same .gon (by decide)
@[simp] theorem Dev.reach_cache (d) (u) : (Dev.reach d u).cache = d.cache := (Dev.reach_touches d u).same .cache (by decide)
@[simp] theorem Dev.reach_tracts (d) (u) : (Dev.reach d u).tracts = d.tracts := (Dev.reach_touches d u).same .tracts (by decide)
@[simp] theorem Dev.reach_drift (d) (u) : (Dev.reach d u).drift = d.drift := (Dev.reach_touches d u).same .drift (by decide)
@[simp] theorem Dev.reach_sec (d) (u) : (Dev.reach d u).sec = d.sec := (Dev.reach_touches d u).same .sec (by decide)
@[simp] theorem Dev.reach_str (d) (u) : (Dev.reach d u).str = d.str := (Dev.reach_touches d u).same .str (by decide)
@[simp] theorem Dev.reach_lci (d) (u) : (Dev.reach d u).lci = d.lci := (Dev.reach_touches d u).same .lci (by decide)
@[simp] theorem Dev.reach_pwr (d) (u) : (Dev.reach d u).pwr = d.pwr := (Dev.reach_touches d u).same .pwr (by decide)
@[simp] theorem Dev.reach_therm (d) (u) : (Dev.reach d u).therm = d.therm := (Dev.reach_touches d u).same .therm (by decide)
@[simp] theorem Dev.reach_out (d) (u) : (Dev.reach d u).out = d.out := (Dev.reach_touches d u).same .out (by decide)
@[simp] theorem Dev.reach_fresh (d) (u) : (Dev.reach d u).fresh = d.fresh := (Dev.reach_touches d u).same .fresh (by decide)
@[simp] theorem Dev.reach_head (d) (u) (hd) : (Dev.reach d u).head hd = d.head hd := Dev.head_same hd (Dev.reach_a d u) (Dev.reach_b d u)
@[simp] theorem Dev.reach_reg (d) (u) (oo) : (Dev.reach d u).reg oo = d.reg oo := Dev.reg_same oo (Dev.reach_regs d u)
@[simp] theorem Dev.reach_qp (d) (u) (oo) : (Dev.reach d u).qp oo = d.qp oo := Dev.qp_same oo (Dev.reach_lci d u)
@[simp] theorem Dev.reach_cmd (d) (u) (oo) : (Dev.reach d u).cmd oo = d.cmd oo := Dev.cmd_same oo (Dev.reach_lci d u)
@[simp] theorem Dev.reach_ent (d) (u) (oo) : (Dev.reach d u).ent oo = d.ent oo := Dev.ent_same oo (Dev.reach_tracts d u)
@[simp] theorem Dev.reach_hdr (d) (u) (oo) : (Dev.reach d u).hdr oo = d.hdr oo := Dev.hdr_same oo (Dev.reach_tracts d u)
@[simp] theorem Dev.reach_phys (d) (u) (oo) (ii) : (Dev.reach d u).phys oo ii = d.phys oo ii := Dev.phys_same oo ii (Dev.reach_tracts d u)
@[simp] theorem Dev.reach_slot (d) (u) (oo) : (Dev.reach d u).slot oo = d.slot oo := Dev.slot_same oo (Dev.reach_sec d u)
@[simp] theorem Dev.reach_schan (d) (u) (oo) : (Dev.reach d u).schan oo = d.schan oo := Dev.schan_same oo (Dev.reach_str d u)
@[simp] theorem Dev.msixOut_regs (d) (h) (vec) : (Dev.msixOut d h vec).regs = d.regs := (Dev.msixOut_touches d h vec).same .regs (by decide)
@[simp] theorem Dev.msixOut_a (d) (h) (vec) : (Dev.msixOut d h vec).a = d.a := (Dev.msixOut_touches d h vec).same .a (by decide)
@[simp] theorem Dev.msixOut_b (d) (h) (vec) : (Dev.msixOut d h vec).b = d.b := (Dev.msixOut_touches d h vec).same .b (by decide)
@[simp] theorem Dev.msixOut_tether (d) (h) (vec) : (Dev.msixOut d h vec).tether = d.tether := (Dev.msixOut_touches d h vec).same .tether (by decide)
@[simp] theorem Dev.msixOut_launch (d) (h) (vec) : (Dev.msixOut d h vec).launch = d.launch := (Dev.msixOut_touches d h vec).same .launch (by decide)
@[simp] theorem Dev.msixOut_gpio (d) (h) (vec) : (Dev.msixOut d h vec).gpio = d.gpio := (Dev.msixOut_touches d h vec).same .gpio (by decide)
@[simp] theorem Dev.msixOut_keel (d) (h) (vec) : (Dev.msixOut d h vec).keel = d.keel := (Dev.msixOut_touches d h vec).same .keel (by decide)
@[simp] theorem Dev.msixOut_log (d) (h) (vec) : (Dev.msixOut d h vec).log = d.log := (Dev.msixOut_touches d h vec).same .log (by decide)
@[simp] theorem Dev.msixOut_aon (d) (h) (vec) : (Dev.msixOut d h vec).aon = d.aon := (Dev.msixOut_touches d h vec).same .aon (by decide)
@[simp] theorem Dev.msixOut_cores (d) (h) (vec) : (Dev.msixOut d h vec).cores = d.cores := (Dev.msixOut_touches d h vec).same .cores (by decide)
@[simp] theorem Dev.msixOut_sems (d) (h) (vec) : (Dev.msixOut d h vec).sems = d.sems := (Dev.msixOut_touches d h vec).same .sems (by decide)
@[simp] theorem Dev.msixOut_images (d) (h) (vec) : (Dev.msixOut d h vec).images = d.images := (Dev.msixOut_touches d h vec).same .images (by decide)
@[simp] theorem Dev.msixOut_pmc (d) (h) (vec) : (Dev.msixOut d h vec).pmc = d.pmc := (Dev.msixOut_touches d h vec).same .pmc (by decide)
@[simp] theorem Dev.msixOut_bst (d) (h) (vec) : (Dev.msixOut d h vec).bst = d.bst := (Dev.msixOut_touches d h vec).same .bst (by decide)
@[simp] theorem Dev.msixOut_dbg (d) (h) (vec) : (Dev.msixOut d h vec).dbg = d.dbg := (Dev.msixOut_touches d h vec).same .dbg (by decide)
@[simp] theorem Dev.msixOut_gon (d) (h) (vec) : (Dev.msixOut d h vec).gon = d.gon := (Dev.msixOut_touches d h vec).same .gon (by decide)
@[simp] theorem Dev.msixOut_cache (d) (h) (vec) : (Dev.msixOut d h vec).cache = d.cache := (Dev.msixOut_touches d h vec).same .cache (by decide)
@[simp] theorem Dev.msixOut_media (d) (h) (vec) : (Dev.msixOut d h vec).media = d.media := (Dev.msixOut_touches d h vec).same .media (by decide)
@[simp] theorem Dev.msixOut_tracts (d) (h) (vec) : (Dev.msixOut d h vec).tracts = d.tracts := (Dev.msixOut_touches d h vec).same .tracts (by decide)
@[simp] theorem Dev.msixOut_drift (d) (h) (vec) : (Dev.msixOut d h vec).drift = d.drift := (Dev.msixOut_touches d h vec).same .drift (by decide)
@[simp] theorem Dev.msixOut_sec (d) (h) (vec) : (Dev.msixOut d h vec).sec = d.sec := (Dev.msixOut_touches d h vec).same .sec (by decide)
@[simp] theorem Dev.msixOut_str (d) (h) (vec) : (Dev.msixOut d h vec).str = d.str := (Dev.msixOut_touches d h vec).same .str (by decide)
@[simp] theorem Dev.msixOut_lci (d) (h) (vec) : (Dev.msixOut d h vec).lci = d.lci := (Dev.msixOut_touches d h vec).same .lci (by decide)
@[simp] theorem Dev.msixOut_pwr (d) (h) (vec) : (Dev.msixOut d h vec).pwr = d.pwr := (Dev.msixOut_touches d h vec).same .pwr (by decide)
@[simp] theorem Dev.msixOut_therm (d) (h) (vec) : (Dev.msixOut d h vec).therm = d.therm := (Dev.msixOut_touches d h vec).same .therm (by decide)
@[simp] theorem Dev.msixOut_fresh (d) (h) (vec) : (Dev.msixOut d h vec).fresh = d.fresh := (Dev.msixOut_touches d h vec).same .fresh (by decide)
@[simp] theorem Dev.msixOut_head (d) (h) (vec) (hd) : (Dev.msixOut d h vec).head hd = d.head hd := Dev.head_same hd (Dev.msixOut_a d h vec) (Dev.msixOut_b d h vec)
@[simp] theorem Dev.msixOut_reg (d) (h) (vec) (oo) : (Dev.msixOut d h vec).reg oo = d.reg oo := Dev.reg_same oo (Dev.msixOut_regs d h vec)
@[simp] theorem Dev.msixOut_chan (d) (h) (vec) (oo) : (Dev.msixOut d h vec).chan oo = d.chan oo := Dev.chan_same oo (Dev.msixOut_media d h vec)
@[simp] theorem Dev.msixOut_die (d) (h) (vec) (oo) : (Dev.msixOut d h vec).die oo = d.die oo := Dev.die_same oo (Dev.msixOut_media d h vec)
@[simp] theorem Dev.msixOut_ctl (d) (h) (vec) (oo) : (Dev.msixOut d h vec).ctl oo = d.ctl oo := Dev.ctl_same oo (Dev.msixOut_media d h vec)
@[simp] theorem Dev.msixOut_grp (d) (h) (vec) (oo) : (Dev.msixOut d h vec).grp oo = d.grp oo := Dev.grp_same oo (Dev.msixOut_media d h vec)
@[simp] theorem Dev.msixOut_qp (d) (h) (vec) (oo) : (Dev.msixOut d h vec).qp oo = d.qp oo := Dev.qp_same oo (Dev.msixOut_lci d h vec)
@[simp] theorem Dev.msixOut_cmd (d) (h) (vec) (oo) : (Dev.msixOut d h vec).cmd oo = d.cmd oo := Dev.cmd_same oo (Dev.msixOut_lci d h vec)
@[simp] theorem Dev.msixOut_ent (d) (h) (vec) (oo) : (Dev.msixOut d h vec).ent oo = d.ent oo := Dev.ent_same oo (Dev.msixOut_tracts d h vec)
@[simp] theorem Dev.msixOut_hdr (d) (h) (vec) (oo) : (Dev.msixOut d h vec).hdr oo = d.hdr oo := Dev.hdr_same oo (Dev.msixOut_tracts d h vec)
@[simp] theorem Dev.msixOut_phys (d) (h) (vec) (oo) (ii) : (Dev.msixOut d h vec).phys oo ii = d.phys oo ii := Dev.phys_same oo ii (Dev.msixOut_tracts d h vec)
@[simp] theorem Dev.msixOut_slot (d) (h) (vec) (oo) : (Dev.msixOut d h vec).slot oo = d.slot oo := Dev.slot_same oo (Dev.msixOut_sec d h vec)
@[simp] theorem Dev.msixOut_schan (d) (h) (vec) (oo) : (Dev.msixOut d h vec).schan oo = d.schan oo := Dev.schan_same oo (Dev.msixOut_str d h vec)
@[simp] theorem Dev.event_a (F) (d) (code) (arg) : (Dev.event F d code arg).a = d.a := (Dev.event_touches F d code arg).same .a (by decide)
@[simp] theorem Dev.event_b (F) (d) (code) (arg) : (Dev.event F d code arg).b = d.b := (Dev.event_touches F d code arg).same .b (by decide)
@[simp] theorem Dev.event_tether (F) (d) (code) (arg) : (Dev.event F d code arg).tether = d.tether := (Dev.event_touches F d code arg).same .tether (by decide)
@[simp] theorem Dev.event_launch (F) (d) (code) (arg) : (Dev.event F d code arg).launch = d.launch := (Dev.event_touches F d code arg).same .launch (by decide)
@[simp] theorem Dev.event_gpio (F) (d) (code) (arg) : (Dev.event F d code arg).gpio = d.gpio := (Dev.event_touches F d code arg).same .gpio (by decide)
@[simp] theorem Dev.event_keel (F) (d) (code) (arg) : (Dev.event F d code arg).keel = d.keel := (Dev.event_touches F d code arg).same .keel (by decide)
@[simp] theorem Dev.event_cores (F) (d) (code) (arg) : (Dev.event F d code arg).cores = d.cores := (Dev.event_touches F d code arg).same .cores (by decide)
@[simp] theorem Dev.event_sems (F) (d) (code) (arg) : (Dev.event F d code arg).sems = d.sems := (Dev.event_touches F d code arg).same .sems (by decide)
@[simp] theorem Dev.event_images (F) (d) (code) (arg) : (Dev.event F d code arg).images = d.images := (Dev.event_touches F d code arg).same .images (by decide)
@[simp] theorem Dev.event_pmc (F) (d) (code) (arg) : (Dev.event F d code arg).pmc = d.pmc := (Dev.event_touches F d code arg).same .pmc (by decide)
@[simp] theorem Dev.event_bst (F) (d) (code) (arg) : (Dev.event F d code arg).bst = d.bst := (Dev.event_touches F d code arg).same .bst (by decide)
@[simp] theorem Dev.event_dbg (F) (d) (code) (arg) : (Dev.event F d code arg).dbg = d.dbg := (Dev.event_touches F d code arg).same .dbg (by decide)
@[simp] theorem Dev.event_gon (F) (d) (code) (arg) : (Dev.event F d code arg).gon = d.gon := (Dev.event_touches F d code arg).same .gon (by decide)
@[simp] theorem Dev.event_cache (F) (d) (code) (arg) : (Dev.event F d code arg).cache = d.cache := (Dev.event_touches F d code arg).same .cache (by decide)
@[simp] theorem Dev.event_media (F) (d) (code) (arg) : (Dev.event F d code arg).media = d.media := (Dev.event_touches F d code arg).same .media (by decide)
@[simp] theorem Dev.event_tracts (F) (d) (code) (arg) : (Dev.event F d code arg).tracts = d.tracts := (Dev.event_touches F d code arg).same .tracts (by decide)
@[simp] theorem Dev.event_drift (F) (d) (code) (arg) : (Dev.event F d code arg).drift = d.drift := (Dev.event_touches F d code arg).same .drift (by decide)
@[simp] theorem Dev.event_sec (F) (d) (code) (arg) : (Dev.event F d code arg).sec = d.sec := (Dev.event_touches F d code arg).same .sec (by decide)
@[simp] theorem Dev.event_str (F) (d) (code) (arg) : (Dev.event F d code arg).str = d.str := (Dev.event_touches F d code arg).same .str (by decide)
@[simp] theorem Dev.event_lci (F) (d) (code) (arg) : (Dev.event F d code arg).lci = d.lci := (Dev.event_touches F d code arg).same .lci (by decide)
@[simp] theorem Dev.event_pwr (F) (d) (code) (arg) : (Dev.event F d code arg).pwr = d.pwr := (Dev.event_touches F d code arg).same .pwr (by decide)
@[simp] theorem Dev.event_therm (F) (d) (code) (arg) : (Dev.event F d code arg).therm = d.therm := (Dev.event_touches F d code arg).same .therm (by decide)
@[simp] theorem Dev.event_out (F) (d) (code) (arg) : (Dev.event F d code arg).out = d.out := (Dev.event_touches F d code arg).same .out (by decide)
@[simp] theorem Dev.event_fresh (F) (d) (code) (arg) : (Dev.event F d code arg).fresh = d.fresh := (Dev.event_touches F d code arg).same .fresh (by decide)
@[simp] theorem Dev.event_head (F) (d) (code) (arg) (hd) : (Dev.event F d code arg).head hd = d.head hd := Dev.head_same hd (Dev.event_a F d code arg) (Dev.event_b F d code arg)
@[simp] theorem Dev.event_chan (F) (d) (code) (arg) (oo) : (Dev.event F d code arg).chan oo = d.chan oo := Dev.chan_same oo (Dev.event_media F d code arg)
@[simp] theorem Dev.event_die (F) (d) (code) (arg) (oo) : (Dev.event F d code arg).die oo = d.die oo := Dev.die_same oo (Dev.event_media F d code arg)
@[simp] theorem Dev.event_ctl (F) (d) (code) (arg) (oo) : (Dev.event F d code arg).ctl oo = d.ctl oo := Dev.ctl_same oo (Dev.event_media F d code arg)
@[simp] theorem Dev.event_grp (F) (d) (code) (arg) (oo) : (Dev.event F d code arg).grp oo = d.grp oo := Dev.grp_same oo (Dev.event_media F d code arg)
@[simp] theorem Dev.event_qp (F) (d) (code) (arg) (oo) : (Dev.event F d code arg).qp oo = d.qp oo := Dev.qp_same oo (Dev.event_lci F d code arg)
@[simp] theorem Dev.event_cmd (F) (d) (code) (arg) (oo) : (Dev.event F d code arg).cmd oo = d.cmd oo := Dev.cmd_same oo (Dev.event_lci F d code arg)
@[simp] theorem Dev.event_ent (F) (d) (code) (arg) (oo) : (Dev.event F d code arg).ent oo = d.ent oo := Dev.ent_same oo (Dev.event_tracts F d code arg)
@[simp] theorem Dev.event_hdr (F) (d) (code) (arg) (oo) : (Dev.event F d code arg).hdr oo = d.hdr oo := Dev.hdr_same oo (Dev.event_tracts F d code arg)
@[simp] theorem Dev.event_phys (F) (d) (code) (arg) (oo) (ii) : (Dev.event F d code arg).phys oo ii = d.phys oo ii := Dev.phys_same oo ii (Dev.event_tracts F d code arg)
@[simp] theorem Dev.event_slot (F) (d) (code) (arg) (oo) : (Dev.event F d code arg).slot oo = d.slot oo := Dev.slot_same oo (Dev.event_sec F d code arg)
@[simp] theorem Dev.event_schan (F) (d) (code) (arg) (oo) : (Dev.event F d code arg).schan oo = d.schan oo := Dev.schan_same oo (Dev.event_str F d code arg)
@[simp] theorem Dev.addCnt_a (d) (i) (n) : (Dev.addCnt d i n).a = d.a := (Dev.addCnt_touches d i n).same .a (by decide)
@[simp] theorem Dev.addCnt_b (d) (i) (n) : (Dev.addCnt d i n).b = d.b := (Dev.addCnt_touches d i n).same .b (by decide)
@[simp] theorem Dev.addCnt_tether (d) (i) (n) : (Dev.addCnt d i n).tether = d.tether := (Dev.addCnt_touches d i n).same .tether (by decide)
@[simp] theorem Dev.addCnt_launch (d) (i) (n) : (Dev.addCnt d i n).launch = d.launch := (Dev.addCnt_touches d i n).same .launch (by decide)
@[simp] theorem Dev.addCnt_gpio (d) (i) (n) : (Dev.addCnt d i n).gpio = d.gpio := (Dev.addCnt_touches d i n).same .gpio (by decide)
@[simp] theorem Dev.addCnt_keel (d) (i) (n) : (Dev.addCnt d i n).keel = d.keel := (Dev.addCnt_touches d i n).same .keel (by decide)
@[simp] theorem Dev.addCnt_log (d) (i) (n) : (Dev.addCnt d i n).log = d.log := (Dev.addCnt_touches d i n).same .log (by decide)
@[simp] theorem Dev.addCnt_aon (d) (i) (n) : (Dev.addCnt d i n).aon = d.aon := (Dev.addCnt_touches d i n).same .aon (by decide)
@[simp] theorem Dev.addCnt_cores (d) (i) (n) : (Dev.addCnt d i n).cores = d.cores := (Dev.addCnt_touches d i n).same .cores (by decide)
@[simp] theorem Dev.addCnt_sems (d) (i) (n) : (Dev.addCnt d i n).sems = d.sems := (Dev.addCnt_touches d i n).same .sems (by decide)
@[simp] theorem Dev.addCnt_images (d) (i) (n) : (Dev.addCnt d i n).images = d.images := (Dev.addCnt_touches d i n).same .images (by decide)
@[simp] theorem Dev.addCnt_bst (d) (i) (n) : (Dev.addCnt d i n).bst = d.bst := (Dev.addCnt_touches d i n).same .bst (by decide)
@[simp] theorem Dev.addCnt_dbg (d) (i) (n) : (Dev.addCnt d i n).dbg = d.dbg := (Dev.addCnt_touches d i n).same .dbg (by decide)
@[simp] theorem Dev.addCnt_gon (d) (i) (n) : (Dev.addCnt d i n).gon = d.gon := (Dev.addCnt_touches d i n).same .gon (by decide)
@[simp] theorem Dev.addCnt_cache (d) (i) (n) : (Dev.addCnt d i n).cache = d.cache := (Dev.addCnt_touches d i n).same .cache (by decide)
@[simp] theorem Dev.addCnt_media (d) (i) (n) : (Dev.addCnt d i n).media = d.media := (Dev.addCnt_touches d i n).same .media (by decide)
@[simp] theorem Dev.addCnt_tracts (d) (i) (n) : (Dev.addCnt d i n).tracts = d.tracts := (Dev.addCnt_touches d i n).same .tracts (by decide)
@[simp] theorem Dev.addCnt_drift (d) (i) (n) : (Dev.addCnt d i n).drift = d.drift := (Dev.addCnt_touches d i n).same .drift (by decide)
@[simp] theorem Dev.addCnt_sec (d) (i) (n) : (Dev.addCnt d i n).sec = d.sec := (Dev.addCnt_touches d i n).same .sec (by decide)
@[simp] theorem Dev.addCnt_str (d) (i) (n) : (Dev.addCnt d i n).str = d.str := (Dev.addCnt_touches d i n).same .str (by decide)
@[simp] theorem Dev.addCnt_lci (d) (i) (n) : (Dev.addCnt d i n).lci = d.lci := (Dev.addCnt_touches d i n).same .lci (by decide)
@[simp] theorem Dev.addCnt_pwr (d) (i) (n) : (Dev.addCnt d i n).pwr = d.pwr := (Dev.addCnt_touches d i n).same .pwr (by decide)
@[simp] theorem Dev.addCnt_therm (d) (i) (n) : (Dev.addCnt d i n).therm = d.therm := (Dev.addCnt_touches d i n).same .therm (by decide)
@[simp] theorem Dev.addCnt_out (d) (i) (n) : (Dev.addCnt d i n).out = d.out := (Dev.addCnt_touches d i n).same .out (by decide)
@[simp] theorem Dev.addCnt_fresh (d) (i) (n) : (Dev.addCnt d i n).fresh = d.fresh := (Dev.addCnt_touches d i n).same .fresh (by decide)
@[simp] theorem Dev.addCnt_head (d) (i) (n) (hd) : (Dev.addCnt d i n).head hd = d.head hd := Dev.head_same hd (Dev.addCnt_a d i n) (Dev.addCnt_b d i n)
@[simp] theorem Dev.addCnt_chan (d) (i) (n) (oo) : (Dev.addCnt d i n).chan oo = d.chan oo := Dev.chan_same oo (Dev.addCnt_media d i n)
@[simp] theorem Dev.addCnt_die (d) (i) (n) (oo) : (Dev.addCnt d i n).die oo = d.die oo := Dev.die_same oo (Dev.addCnt_media d i n)
@[simp] theorem Dev.addCnt_ctl (d) (i) (n) (oo) : (Dev.addCnt d i n).ctl oo = d.ctl oo := Dev.ctl_same oo (Dev.addCnt_media d i n)
@[simp] theorem Dev.addCnt_grp (d) (i) (n) (oo) : (Dev.addCnt d i n).grp oo = d.grp oo := Dev.grp_same oo (Dev.addCnt_media d i n)
@[simp] theorem Dev.addCnt_qp (d) (i) (n) (oo) : (Dev.addCnt d i n).qp oo = d.qp oo := Dev.qp_same oo (Dev.addCnt_lci d i n)
@[simp] theorem Dev.addCnt_cmd (d) (i) (n) (oo) : (Dev.addCnt d i n).cmd oo = d.cmd oo := Dev.cmd_same oo (Dev.addCnt_lci d i n)
@[simp] theorem Dev.addCnt_ent (d) (i) (n) (oo) : (Dev.addCnt d i n).ent oo = d.ent oo := Dev.ent_same oo (Dev.addCnt_tracts d i n)
@[simp] theorem Dev.addCnt_hdr (d) (i) (n) (oo) : (Dev.addCnt d i n).hdr oo = d.hdr oo := Dev.hdr_same oo (Dev.addCnt_tracts d i n)
@[simp] theorem Dev.addCnt_phys (d) (i) (n) (oo) (ii) : (Dev.addCnt d i n).phys oo ii = d.phys oo ii := Dev.phys_same oo ii (Dev.addCnt_tracts d i n)
@[simp] theorem Dev.addCnt_slot (d) (i) (n) (oo) : (Dev.addCnt d i n).slot oo = d.slot oo := Dev.slot_same oo (Dev.addCnt_sec d i n)
@[simp] theorem Dev.addCnt_schan (d) (i) (n) (oo) : (Dev.addCnt d i n).schan oo = d.schan oo := Dev.schan_same oo (Dev.addCnt_str d i n)
@[simp] theorem Dev.settingPut_regs (d) (item) (value) : (Dev.settingPut d item value).regs = d.regs := (Dev.settingPut_touches d item value).same .regs (by decide)
@[simp] theorem Dev.settingPut_a (d) (item) (value) : (Dev.settingPut d item value).a = d.a := (Dev.settingPut_touches d item value).same .a (by decide)
@[simp] theorem Dev.settingPut_b (d) (item) (value) : (Dev.settingPut d item value).b = d.b := (Dev.settingPut_touches d item value).same .b (by decide)
@[simp] theorem Dev.settingPut_tether (d) (item) (value) : (Dev.settingPut d item value).tether = d.tether := (Dev.settingPut_touches d item value).same .tether (by decide)
@[simp] theorem Dev.settingPut_launch (d) (item) (value) : (Dev.settingPut d item value).launch = d.launch := (Dev.settingPut_touches d item value).same .launch (by decide)
@[simp] theorem Dev.settingPut_gpio (d) (item) (value) : (Dev.settingPut d item value).gpio = d.gpio := (Dev.settingPut_touches d item value).same .gpio (by decide)
@[simp] theorem Dev.settingPut_log (d) (item) (value) : (Dev.settingPut d item value).log = d.log := (Dev.settingPut_touches d item value).same .log (by decide)
@[simp] theorem Dev.settingPut_aon (d) (item) (value) : (Dev.settingPut d item value).aon = d.aon := (Dev.settingPut_touches d item value).same .aon (by decide)
@[simp] theorem Dev.settingPut_cores (d) (item) (value) : (Dev.settingPut d item value).cores = d.cores := (Dev.settingPut_touches d item value).same .cores (by decide)
@[simp] theorem Dev.settingPut_sems (d) (item) (value) : (Dev.settingPut d item value).sems = d.sems := (Dev.settingPut_touches d item value).same .sems (by decide)
@[simp] theorem Dev.settingPut_images (d) (item) (value) : (Dev.settingPut d item value).images = d.images := (Dev.settingPut_touches d item value).same .images (by decide)
@[simp] theorem Dev.settingPut_pmc (d) (item) (value) : (Dev.settingPut d item value).pmc = d.pmc := (Dev.settingPut_touches d item value).same .pmc (by decide)
@[simp] theorem Dev.settingPut_bst (d) (item) (value) : (Dev.settingPut d item value).bst = d.bst := (Dev.settingPut_touches d item value).same .bst (by decide)
@[simp] theorem Dev.settingPut_dbg (d) (item) (value) : (Dev.settingPut d item value).dbg = d.dbg := (Dev.settingPut_touches d item value).same .dbg (by decide)
@[simp] theorem Dev.settingPut_gon (d) (item) (value) : (Dev.settingPut d item value).gon = d.gon := (Dev.settingPut_touches d item value).same .gon (by decide)
@[simp] theorem Dev.settingPut_cache (d) (item) (value) : (Dev.settingPut d item value).cache = d.cache := (Dev.settingPut_touches d item value).same .cache (by decide)
@[simp] theorem Dev.settingPut_media (d) (item) (value) : (Dev.settingPut d item value).media = d.media := (Dev.settingPut_touches d item value).same .media (by decide)
@[simp] theorem Dev.settingPut_tracts (d) (item) (value) : (Dev.settingPut d item value).tracts = d.tracts := (Dev.settingPut_touches d item value).same .tracts (by decide)
@[simp] theorem Dev.settingPut_drift (d) (item) (value) : (Dev.settingPut d item value).drift = d.drift := (Dev.settingPut_touches d item value).same .drift (by decide)
@[simp] theorem Dev.settingPut_sec (d) (item) (value) : (Dev.settingPut d item value).sec = d.sec := (Dev.settingPut_touches d item value).same .sec (by decide)
@[simp] theorem Dev.settingPut_str (d) (item) (value) : (Dev.settingPut d item value).str = d.str := (Dev.settingPut_touches d item value).same .str (by decide)
@[simp] theorem Dev.settingPut_lci (d) (item) (value) : (Dev.settingPut d item value).lci = d.lci := (Dev.settingPut_touches d item value).same .lci (by decide)
@[simp] theorem Dev.settingPut_pwr (d) (item) (value) : (Dev.settingPut d item value).pwr = d.pwr := (Dev.settingPut_touches d item value).same .pwr (by decide)
@[simp] theorem Dev.settingPut_therm (d) (item) (value) : (Dev.settingPut d item value).therm = d.therm := (Dev.settingPut_touches d item value).same .therm (by decide)
@[simp] theorem Dev.settingPut_out (d) (item) (value) : (Dev.settingPut d item value).out = d.out := (Dev.settingPut_touches d item value).same .out (by decide)
@[simp] theorem Dev.settingPut_fresh (d) (item) (value) : (Dev.settingPut d item value).fresh = d.fresh := (Dev.settingPut_touches d item value).same .fresh (by decide)
@[simp] theorem Dev.settingPut_head (d) (item) (value) (hd) : (Dev.settingPut d item value).head hd = d.head hd := Dev.head_same hd (Dev.settingPut_a d item value) (Dev.settingPut_b d item value)
@[simp] theorem Dev.settingPut_reg (d) (item) (value) (oo) : (Dev.settingPut d item value).reg oo = d.reg oo := Dev.reg_same oo (Dev.settingPut_regs d item value)
@[simp] theorem Dev.settingPut_chan (d) (item) (value) (oo) : (Dev.settingPut d item value).chan oo = d.chan oo := Dev.chan_same oo (Dev.settingPut_media d item value)
@[simp] theorem Dev.settingPut_die (d) (item) (value) (oo) : (Dev.settingPut d item value).die oo = d.die oo := Dev.die_same oo (Dev.settingPut_media d item value)
@[simp] theorem Dev.settingPut_ctl (d) (item) (value) (oo) : (Dev.settingPut d item value).ctl oo = d.ctl oo := Dev.ctl_same oo (Dev.settingPut_media d item value)
@[simp] theorem Dev.settingPut_grp (d) (item) (value) (oo) : (Dev.settingPut d item value).grp oo = d.grp oo := Dev.grp_same oo (Dev.settingPut_media d item value)
@[simp] theorem Dev.settingPut_qp (d) (item) (value) (oo) : (Dev.settingPut d item value).qp oo = d.qp oo := Dev.qp_same oo (Dev.settingPut_lci d item value)
@[simp] theorem Dev.settingPut_cmd (d) (item) (value) (oo) : (Dev.settingPut d item value).cmd oo = d.cmd oo := Dev.cmd_same oo (Dev.settingPut_lci d item value)
@[simp] theorem Dev.settingPut_ent (d) (item) (value) (oo) : (Dev.settingPut d item value).ent oo = d.ent oo := Dev.ent_same oo (Dev.settingPut_tracts d item value)
@[simp] theorem Dev.settingPut_hdr (d) (item) (value) (oo) : (Dev.settingPut d item value).hdr oo = d.hdr oo := Dev.hdr_same oo (Dev.settingPut_tracts d item value)
@[simp] theorem Dev.settingPut_phys (d) (item) (value) (oo) (ii) : (Dev.settingPut d item value).phys oo ii = d.phys oo ii := Dev.phys_same oo ii (Dev.settingPut_tracts d item value)
@[simp] theorem Dev.settingPut_slot (d) (item) (value) (oo) : (Dev.settingPut d item value).slot oo = d.slot oo := Dev.slot_same oo (Dev.settingPut_sec d item value)
@[simp] theorem Dev.settingPut_schan (d) (item) (value) (oo) : (Dev.settingPut d item value).schan oo = d.schan oo := Dev.schan_same oo (Dev.settingPut_str d item value)
@[simp] theorem Dev.setEnt_regs (d) (t) (e) : (Dev.setEnt d t e).regs = d.regs := (Dev.setEnt_touches d t e).same .regs (by decide)
@[simp] theorem Dev.setEnt_a (d) (t) (e) : (Dev.setEnt d t e).a = d.a := (Dev.setEnt_touches d t e).same .a (by decide)
@[simp] theorem Dev.setEnt_b (d) (t) (e) : (Dev.setEnt d t e).b = d.b := (Dev.setEnt_touches d t e).same .b (by decide)
@[simp] theorem Dev.setEnt_tether (d) (t) (e) : (Dev.setEnt d t e).tether = d.tether := (Dev.setEnt_touches d t e).same .tether (by decide)
@[simp] theorem Dev.setEnt_launch (d) (t) (e) : (Dev.setEnt d t e).launch = d.launch := (Dev.setEnt_touches d t e).same .launch (by decide)
@[simp] theorem Dev.setEnt_gpio (d) (t) (e) : (Dev.setEnt d t e).gpio = d.gpio := (Dev.setEnt_touches d t e).same .gpio (by decide)
@[simp] theorem Dev.setEnt_keel (d) (t) (e) : (Dev.setEnt d t e).keel = d.keel := (Dev.setEnt_touches d t e).same .keel (by decide)
@[simp] theorem Dev.setEnt_log (d) (t) (e) : (Dev.setEnt d t e).log = d.log := (Dev.setEnt_touches d t e).same .log (by decide)
@[simp] theorem Dev.setEnt_aon (d) (t) (e) : (Dev.setEnt d t e).aon = d.aon := (Dev.setEnt_touches d t e).same .aon (by decide)
@[simp] theorem Dev.setEnt_cores (d) (t) (e) : (Dev.setEnt d t e).cores = d.cores := (Dev.setEnt_touches d t e).same .cores (by decide)
@[simp] theorem Dev.setEnt_sems (d) (t) (e) : (Dev.setEnt d t e).sems = d.sems := (Dev.setEnt_touches d t e).same .sems (by decide)
@[simp] theorem Dev.setEnt_images (d) (t) (e) : (Dev.setEnt d t e).images = d.images := (Dev.setEnt_touches d t e).same .images (by decide)
@[simp] theorem Dev.setEnt_pmc (d) (t) (e) : (Dev.setEnt d t e).pmc = d.pmc := (Dev.setEnt_touches d t e).same .pmc (by decide)
@[simp] theorem Dev.setEnt_bst (d) (t) (e) : (Dev.setEnt d t e).bst = d.bst := (Dev.setEnt_touches d t e).same .bst (by decide)
@[simp] theorem Dev.setEnt_dbg (d) (t) (e) : (Dev.setEnt d t e).dbg = d.dbg := (Dev.setEnt_touches d t e).same .dbg (by decide)
@[simp] theorem Dev.setEnt_gon (d) (t) (e) : (Dev.setEnt d t e).gon = d.gon := (Dev.setEnt_touches d t e).same .gon (by decide)
@[simp] theorem Dev.setEnt_cache (d) (t) (e) : (Dev.setEnt d t e).cache = d.cache := (Dev.setEnt_touches d t e).same .cache (by decide)
@[simp] theorem Dev.setEnt_media (d) (t) (e) : (Dev.setEnt d t e).media = d.media := (Dev.setEnt_touches d t e).same .media (by decide)
@[simp] theorem Dev.setEnt_drift (d) (t) (e) : (Dev.setEnt d t e).drift = d.drift := (Dev.setEnt_touches d t e).same .drift (by decide)
@[simp] theorem Dev.setEnt_sec (d) (t) (e) : (Dev.setEnt d t e).sec = d.sec := (Dev.setEnt_touches d t e).same .sec (by decide)
@[simp] theorem Dev.setEnt_str (d) (t) (e) : (Dev.setEnt d t e).str = d.str := (Dev.setEnt_touches d t e).same .str (by decide)
@[simp] theorem Dev.setEnt_lci (d) (t) (e) : (Dev.setEnt d t e).lci = d.lci := (Dev.setEnt_touches d t e).same .lci (by decide)
@[simp] theorem Dev.setEnt_pwr (d) (t) (e) : (Dev.setEnt d t e).pwr = d.pwr := (Dev.setEnt_touches d t e).same .pwr (by decide)
@[simp] theorem Dev.setEnt_therm (d) (t) (e) : (Dev.setEnt d t e).therm = d.therm := (Dev.setEnt_touches d t e).same .therm (by decide)
@[simp] theorem Dev.setEnt_out (d) (t) (e) : (Dev.setEnt d t e).out = d.out := (Dev.setEnt_touches d t e).same .out (by decide)
@[simp] theorem Dev.setEnt_fresh (d) (t) (e) : (Dev.setEnt d t e).fresh = d.fresh := (Dev.setEnt_touches d t e).same .fresh (by decide)
@[simp] theorem Dev.setEnt_head (d) (t) (e) (hd) : (Dev.setEnt d t e).head hd = d.head hd := Dev.head_same hd (Dev.setEnt_a d t e) (Dev.setEnt_b d t e)
@[simp] theorem Dev.setEnt_reg (d) (t) (e) (oo) : (Dev.setEnt d t e).reg oo = d.reg oo := Dev.reg_same oo (Dev.setEnt_regs d t e)
@[simp] theorem Dev.setEnt_chan (d) (t) (e) (oo) : (Dev.setEnt d t e).chan oo = d.chan oo := Dev.chan_same oo (Dev.setEnt_media d t e)
@[simp] theorem Dev.setEnt_die (d) (t) (e) (oo) : (Dev.setEnt d t e).die oo = d.die oo := Dev.die_same oo (Dev.setEnt_media d t e)
@[simp] theorem Dev.setEnt_ctl (d) (t) (e) (oo) : (Dev.setEnt d t e).ctl oo = d.ctl oo := Dev.ctl_same oo (Dev.setEnt_media d t e)
@[simp] theorem Dev.setEnt_grp (d) (t) (e) (oo) : (Dev.setEnt d t e).grp oo = d.grp oo := Dev.grp_same oo (Dev.setEnt_media d t e)
@[simp] theorem Dev.setEnt_qp (d) (t) (e) (oo) : (Dev.setEnt d t e).qp oo = d.qp oo := Dev.qp_same oo (Dev.setEnt_lci d t e)
@[simp] theorem Dev.setEnt_cmd (d) (t) (e) (oo) : (Dev.setEnt d t e).cmd oo = d.cmd oo := Dev.cmd_same oo (Dev.setEnt_lci d t e)
@[simp] theorem Dev.setEnt_slot (d) (t) (e) (oo) : (Dev.setEnt d t e).slot oo = d.slot oo := Dev.slot_same oo (Dev.setEnt_sec d t e)
@[simp] theorem Dev.setEnt_schan (d) (t) (e) (oo) : (Dev.setEnt d t e).schan oo = d.schan oo := Dev.schan_same oo (Dev.setEnt_str d t e)
@[simp] theorem Dev.latency_a (d) (src) (head) (ns) : (Dev.latency d src head ns).a = d.a := (Dev.latency_touches d src head ns).same .a (by decide)
@[simp] theorem Dev.latency_b (d) (src) (head) (ns) : (Dev.latency d src head ns).b = d.b := (Dev.latency_touches d src head ns).same .b (by decide)
@[simp] theorem Dev.latency_tether (d) (src) (head) (ns) : (Dev.latency d src head ns).tether = d.tether := (Dev.latency_touches d src head ns).same .tether (by decide)
@[simp] theorem Dev.latency_launch (d) (src) (head) (ns) : (Dev.latency d src head ns).launch = d.launch := (Dev.latency_touches d src head ns).same .launch (by decide)
@[simp] theorem Dev.latency_gpio (d) (src) (head) (ns) : (Dev.latency d src head ns).gpio = d.gpio := (Dev.latency_touches d src head ns).same .gpio (by decide)
@[simp] theorem Dev.latency_keel (d) (src) (head) (ns) : (Dev.latency d src head ns).keel = d.keel := (Dev.latency_touches d src head ns).same .keel (by decide)
@[simp] theorem Dev.latency_log (d) (src) (head) (ns) : (Dev.latency d src head ns).log = d.log := (Dev.latency_touches d src head ns).same .log (by decide)
@[simp] theorem Dev.latency_aon (d) (src) (head) (ns) : (Dev.latency d src head ns).aon = d.aon := (Dev.latency_touches d src head ns).same .aon (by decide)
@[simp] theorem Dev.latency_cores (d) (src) (head) (ns) : (Dev.latency d src head ns).cores = d.cores := (Dev.latency_touches d src head ns).same .cores (by decide)
@[simp] theorem Dev.latency_sems (d) (src) (head) (ns) : (Dev.latency d src head ns).sems = d.sems := (Dev.latency_touches d src head ns).same .sems (by decide)
@[simp] theorem Dev.latency_images (d) (src) (head) (ns) : (Dev.latency d src head ns).images = d.images := (Dev.latency_touches d src head ns).same .images (by decide)
@[simp] theorem Dev.latency_bst (d) (src) (head) (ns) : (Dev.latency d src head ns).bst = d.bst := (Dev.latency_touches d src head ns).same .bst (by decide)
@[simp] theorem Dev.latency_dbg (d) (src) (head) (ns) : (Dev.latency d src head ns).dbg = d.dbg := (Dev.latency_touches d src head ns).same .dbg (by decide)
@[simp] theorem Dev.latency_gon (d) (src) (head) (ns) : (Dev.latency d src head ns).gon = d.gon := (Dev.latency_touches d src head ns).same .gon (by decide)
@[simp] theorem Dev.latency_cache (d) (src) (head) (ns) : (Dev.latency d src head ns).cache = d.cache := (Dev.latency_touches d src head ns).same .cache (by decide)
@[simp] theorem Dev.latency_media (d) (src) (head) (ns) : (Dev.latency d src head ns).media = d.media := (Dev.latency_touches d src head ns).same .media (by decide)
@[simp] theorem Dev.latency_tracts (d) (src) (head) (ns) : (Dev.latency d src head ns).tracts = d.tracts := (Dev.latency_touches d src head ns).same .tracts (by decide)
@[simp] theorem Dev.latency_drift (d) (src) (head) (ns) : (Dev.latency d src head ns).drift = d.drift := (Dev.latency_touches d src head ns).same .drift (by decide)
@[simp] theorem Dev.latency_sec (d) (src) (head) (ns) : (Dev.latency d src head ns).sec = d.sec := (Dev.latency_touches d src head ns).same .sec (by decide)
@[simp] theorem Dev.latency_str (d) (src) (head) (ns) : (Dev.latency d src head ns).str = d.str := (Dev.latency_touches d src head ns).same .str (by decide)
@[simp] theorem Dev.latency_lci (d) (src) (head) (ns) : (Dev.latency d src head ns).lci = d.lci := (Dev.latency_touches d src head ns).same .lci (by decide)
@[simp] theorem Dev.latency_pwr (d) (src) (head) (ns) : (Dev.latency d src head ns).pwr = d.pwr := (Dev.latency_touches d src head ns).same .pwr (by decide)
@[simp] theorem Dev.latency_therm (d) (src) (head) (ns) : (Dev.latency d src head ns).therm = d.therm := (Dev.latency_touches d src head ns).same .therm (by decide)
@[simp] theorem Dev.latency_out (d) (src) (head) (ns) : (Dev.latency d src head ns).out = d.out := (Dev.latency_touches d src head ns).same .out (by decide)
@[simp] theorem Dev.latency_fresh (d) (src) (head) (ns) : (Dev.latency d src head ns).fresh = d.fresh := (Dev.latency_touches d src head ns).same .fresh (by decide)
@[simp] theorem Dev.latency_head (d) (src) (head) (ns) (hd) : (Dev.latency d src head ns).head hd = d.head hd := Dev.head_same hd (Dev.latency_a d src head ns) (Dev.latency_b d src head ns)
@[simp] theorem Dev.latency_chan (d) (src) (head) (ns) (oo) : (Dev.latency d src head ns).chan oo = d.chan oo := Dev.chan_same oo (Dev.latency_media d src head ns)
@[simp] theorem Dev.latency_die (d) (src) (head) (ns) (oo) : (Dev.latency d src head ns).die oo = d.die oo := Dev.die_same oo (Dev.latency_media d src head ns)
@[simp] theorem Dev.latency_ctl (d) (src) (head) (ns) (oo) : (Dev.latency d src head ns).ctl oo = d.ctl oo := Dev.ctl_same oo (Dev.latency_media d src head ns)
@[simp] theorem Dev.latency_grp (d) (src) (head) (ns) (oo) : (Dev.latency d src head ns).grp oo = d.grp oo := Dev.grp_same oo (Dev.latency_media d src head ns)
@[simp] theorem Dev.latency_qp (d) (src) (head) (ns) (oo) : (Dev.latency d src head ns).qp oo = d.qp oo := Dev.qp_same oo (Dev.latency_lci d src head ns)
@[simp] theorem Dev.latency_cmd (d) (src) (head) (ns) (oo) : (Dev.latency d src head ns).cmd oo = d.cmd oo := Dev.cmd_same oo (Dev.latency_lci d src head ns)
@[simp] theorem Dev.latency_ent (d) (src) (head) (ns) (oo) : (Dev.latency d src head ns).ent oo = d.ent oo := Dev.ent_same oo (Dev.latency_tracts d src head ns)
@[simp] theorem Dev.latency_hdr (d) (src) (head) (ns) (oo) : (Dev.latency d src head ns).hdr oo = d.hdr oo := Dev.hdr_same oo (Dev.latency_tracts d src head ns)
@[simp] theorem Dev.latency_phys (d) (src) (head) (ns) (oo) (ii) : (Dev.latency d src head ns).phys oo ii = d.phys oo ii := Dev.phys_same oo ii (Dev.latency_tracts d src head ns)
@[simp] theorem Dev.latency_slot (d) (src) (head) (ns) (oo) : (Dev.latency d src head ns).slot oo = d.slot oo := Dev.slot_same oo (Dev.latency_sec d src head ns)
@[simp] theorem Dev.latency_schan (d) (src) (head) (ns) (oo) : (Dev.latency d src head ns).schan oo = d.schan oo := Dev.schan_same oo (Dev.latency_str d src head ns)
@[simp] theorem Dev.bump_a (d) (off) (n) : (Dev.bump d off n).a = d.a := (Dev.bump_touches d off n).same .a (by decide)
@[simp] theorem Dev.bump_b (d) (off) (n) : (Dev.bump d off n).b = d.b := (Dev.bump_touches d off n).same .b (by decide)
@[simp] theorem Dev.bump_tether (d) (off) (n) : (Dev.bump d off n).tether = d.tether := (Dev.bump_touches d off n).same .tether (by decide)
@[simp] theorem Dev.bump_launch (d) (off) (n) : (Dev.bump d off n).launch = d.launch := (Dev.bump_touches d off n).same .launch (by decide)
@[simp] theorem Dev.bump_gpio (d) (off) (n) : (Dev.bump d off n).gpio = d.gpio := (Dev.bump_touches d off n).same .gpio (by decide)
@[simp] theorem Dev.bump_keel (d) (off) (n) : (Dev.bump d off n).keel = d.keel := (Dev.bump_touches d off n).same .keel (by decide)
@[simp] theorem Dev.bump_log (d) (off) (n) : (Dev.bump d off n).log = d.log := (Dev.bump_touches d off n).same .log (by decide)
@[simp] theorem Dev.bump_aon (d) (off) (n) : (Dev.bump d off n).aon = d.aon := (Dev.bump_touches d off n).same .aon (by decide)
@[simp] theorem Dev.bump_cores (d) (off) (n) : (Dev.bump d off n).cores = d.cores := (Dev.bump_touches d off n).same .cores (by decide)
@[simp] theorem Dev.bump_sems (d) (off) (n) : (Dev.bump d off n).sems = d.sems := (Dev.bump_touches d off n).same .sems (by decide)
@[simp] theorem Dev.bump_images (d) (off) (n) : (Dev.bump d off n).images = d.images := (Dev.bump_touches d off n).same .images (by decide)
@[simp] theorem Dev.bump_pmc (d) (off) (n) : (Dev.bump d off n).pmc = d.pmc := (Dev.bump_touches d off n).same .pmc (by decide)
@[simp] theorem Dev.bump_bst (d) (off) (n) : (Dev.bump d off n).bst = d.bst := (Dev.bump_touches d off n).same .bst (by decide)
@[simp] theorem Dev.bump_dbg (d) (off) (n) : (Dev.bump d off n).dbg = d.dbg := (Dev.bump_touches d off n).same .dbg (by decide)
@[simp] theorem Dev.bump_gon (d) (off) (n) : (Dev.bump d off n).gon = d.gon := (Dev.bump_touches d off n).same .gon (by decide)
@[simp] theorem Dev.bump_cache (d) (off) (n) : (Dev.bump d off n).cache = d.cache := (Dev.bump_touches d off n).same .cache (by decide)
@[simp] theorem Dev.bump_media (d) (off) (n) : (Dev.bump d off n).media = d.media := (Dev.bump_touches d off n).same .media (by decide)
@[simp] theorem Dev.bump_tracts (d) (off) (n) : (Dev.bump d off n).tracts = d.tracts := (Dev.bump_touches d off n).same .tracts (by decide)
@[simp] theorem Dev.bump_drift (d) (off) (n) : (Dev.bump d off n).drift = d.drift := (Dev.bump_touches d off n).same .drift (by decide)
@[simp] theorem Dev.bump_sec (d) (off) (n) : (Dev.bump d off n).sec = d.sec := (Dev.bump_touches d off n).same .sec (by decide)
@[simp] theorem Dev.bump_str (d) (off) (n) : (Dev.bump d off n).str = d.str := (Dev.bump_touches d off n).same .str (by decide)
@[simp] theorem Dev.bump_lci (d) (off) (n) : (Dev.bump d off n).lci = d.lci := (Dev.bump_touches d off n).same .lci (by decide)
@[simp] theorem Dev.bump_pwr (d) (off) (n) : (Dev.bump d off n).pwr = d.pwr := (Dev.bump_touches d off n).same .pwr (by decide)
@[simp] theorem Dev.bump_therm (d) (off) (n) : (Dev.bump d off n).therm = d.therm := (Dev.bump_touches d off n).same .therm (by decide)
@[simp] theorem Dev.bump_out (d) (off) (n) : (Dev.bump d off n).out = d.out := (Dev.bump_touches d off n).same .out (by decide)
@[simp] theorem Dev.bump_fresh (d) (off) (n) : (Dev.bump d off n).fresh = d.fresh := (Dev.bump_touches d off n).same .fresh (by decide)
@[simp] theorem Dev.bump_head (d) (off) (n) (hd) : (Dev.bump d off n).head hd = d.head hd := Dev.head_same hd (Dev.bump_a d off n) (Dev.bump_b d off n)
@[simp] theorem Dev.bump_chan (d) (off) (n) (oo) : (Dev.bump d off n).chan oo = d.chan oo := Dev.chan_same oo (Dev.bump_media d off n)
@[simp] theorem Dev.bump_die (d) (off) (n) (oo) : (Dev.bump d off n).die oo = d.die oo := Dev.die_same oo (Dev.bump_media d off n)
@[simp] theorem Dev.bump_ctl (d) (off) (n) (oo) : (Dev.bump d off n).ctl oo = d.ctl oo := Dev.ctl_same oo (Dev.bump_media d off n)
@[simp] theorem Dev.bump_grp (d) (off) (n) (oo) : (Dev.bump d off n).grp oo = d.grp oo := Dev.grp_same oo (Dev.bump_media d off n)
@[simp] theorem Dev.bump_qp (d) (off) (n) (oo) : (Dev.bump d off n).qp oo = d.qp oo := Dev.qp_same oo (Dev.bump_lci d off n)
@[simp] theorem Dev.bump_cmd (d) (off) (n) (oo) : (Dev.bump d off n).cmd oo = d.cmd oo := Dev.cmd_same oo (Dev.bump_lci d off n)
@[simp] theorem Dev.bump_ent (d) (off) (n) (oo) : (Dev.bump d off n).ent oo = d.ent oo := Dev.ent_same oo (Dev.bump_tracts d off n)
@[simp] theorem Dev.bump_hdr (d) (off) (n) (oo) : (Dev.bump d off n).hdr oo = d.hdr oo := Dev.hdr_same oo (Dev.bump_tracts d off n)
@[simp] theorem Dev.bump_phys (d) (off) (n) (oo) (ii) : (Dev.bump d off n).phys oo ii = d.phys oo ii := Dev.phys_same oo ii (Dev.bump_tracts d off n)
@[simp] theorem Dev.bump_slot (d) (off) (n) (oo) : (Dev.bump d off n).slot oo = d.slot oo := Dev.slot_same oo (Dev.bump_sec d off n)
@[simp] theorem Dev.bump_schan (d) (off) (n) (oo) : (Dev.bump d off n).schan oo = d.schan oo := Dev.schan_same oo (Dev.bump_str d off n)
@[simp] theorem Dev.setWritten_regs (d) (t) (i) (b) : (Dev.setWritten d t i b).regs = d.regs := (Dev.setWritten_touches d t i b).same .regs (by decide)
@[simp] theorem Dev.setWritten_a (d) (t) (i) (b) : (Dev.setWritten d t i b).a = d.a := (Dev.setWritten_touches d t i b).same .a (by decide)
@[simp] theorem Dev.setWritten_b (d) (t) (i) (b) : (Dev.setWritten d t i b).b = d.b := (Dev.setWritten_touches d t i b).same .b (by decide)
@[simp] theorem Dev.setWritten_tether (d) (t) (i) (b) : (Dev.setWritten d t i b).tether = d.tether := (Dev.setWritten_touches d t i b).same .tether (by decide)
@[simp] theorem Dev.setWritten_launch (d) (t) (i) (b) : (Dev.setWritten d t i b).launch = d.launch := (Dev.setWritten_touches d t i b).same .launch (by decide)
@[simp] theorem Dev.setWritten_gpio (d) (t) (i) (b) : (Dev.setWritten d t i b).gpio = d.gpio := (Dev.setWritten_touches d t i b).same .gpio (by decide)
@[simp] theorem Dev.setWritten_keel (d) (t) (i) (b) : (Dev.setWritten d t i b).keel = d.keel := (Dev.setWritten_touches d t i b).same .keel (by decide)
@[simp] theorem Dev.setWritten_log (d) (t) (i) (b) : (Dev.setWritten d t i b).log = d.log := (Dev.setWritten_touches d t i b).same .log (by decide)
@[simp] theorem Dev.setWritten_aon (d) (t) (i) (b) : (Dev.setWritten d t i b).aon = d.aon := (Dev.setWritten_touches d t i b).same .aon (by decide)
@[simp] theorem Dev.setWritten_cores (d) (t) (i) (b) : (Dev.setWritten d t i b).cores = d.cores := (Dev.setWritten_touches d t i b).same .cores (by decide)
@[simp] theorem Dev.setWritten_sems (d) (t) (i) (b) : (Dev.setWritten d t i b).sems = d.sems := (Dev.setWritten_touches d t i b).same .sems (by decide)
@[simp] theorem Dev.setWritten_images (d) (t) (i) (b) : (Dev.setWritten d t i b).images = d.images := (Dev.setWritten_touches d t i b).same .images (by decide)
@[simp] theorem Dev.setWritten_pmc (d) (t) (i) (b) : (Dev.setWritten d t i b).pmc = d.pmc := (Dev.setWritten_touches d t i b).same .pmc (by decide)
@[simp] theorem Dev.setWritten_bst (d) (t) (i) (b) : (Dev.setWritten d t i b).bst = d.bst := (Dev.setWritten_touches d t i b).same .bst (by decide)
@[simp] theorem Dev.setWritten_dbg (d) (t) (i) (b) : (Dev.setWritten d t i b).dbg = d.dbg := (Dev.setWritten_touches d t i b).same .dbg (by decide)
@[simp] theorem Dev.setWritten_gon (d) (t) (i) (b) : (Dev.setWritten d t i b).gon = d.gon := (Dev.setWritten_touches d t i b).same .gon (by decide)
@[simp] theorem Dev.setWritten_cache (d) (t) (i) (b) : (Dev.setWritten d t i b).cache = d.cache := (Dev.setWritten_touches d t i b).same .cache (by decide)
@[simp] theorem Dev.setWritten_media (d) (t) (i) (b) : (Dev.setWritten d t i b).media = d.media := (Dev.setWritten_touches d t i b).same .media (by decide)
@[simp] theorem Dev.setWritten_drift (d) (t) (i) (b) : (Dev.setWritten d t i b).drift = d.drift := (Dev.setWritten_touches d t i b).same .drift (by decide)
@[simp] theorem Dev.setWritten_sec (d) (t) (i) (b) : (Dev.setWritten d t i b).sec = d.sec := (Dev.setWritten_touches d t i b).same .sec (by decide)
@[simp] theorem Dev.setWritten_str (d) (t) (i) (b) : (Dev.setWritten d t i b).str = d.str := (Dev.setWritten_touches d t i b).same .str (by decide)
@[simp] theorem Dev.setWritten_lci (d) (t) (i) (b) : (Dev.setWritten d t i b).lci = d.lci := (Dev.setWritten_touches d t i b).same .lci (by decide)
@[simp] theorem Dev.setWritten_pwr (d) (t) (i) (b) : (Dev.setWritten d t i b).pwr = d.pwr := (Dev.setWritten_touches d t i b).same .pwr (by decide)
@[simp] theorem Dev.setWritten_therm (d) (t) (i) (b) : (Dev.setWritten d t i b).therm = d.therm := (Dev.setWritten_touches d t i b).same .therm (by decide)
@[simp] theorem Dev.setWritten_out (d) (t) (i) (b) : (Dev.setWritten d t i b).out = d.out := (Dev.setWritten_touches d t i b).same .out (by decide)
@[simp] theorem Dev.setWritten_fresh (d) (t) (i) (b) : (Dev.setWritten d t i b).fresh = d.fresh := (Dev.setWritten_touches d t i b).same .fresh (by decide)
@[simp] theorem Dev.setWritten_head (d) (t) (i) (b) (hd) : (Dev.setWritten d t i b).head hd = d.head hd := Dev.head_same hd (Dev.setWritten_a d t i b) (Dev.setWritten_b d t i b)
@[simp] theorem Dev.setWritten_reg (d) (t) (i) (b) (oo) : (Dev.setWritten d t i b).reg oo = d.reg oo := Dev.reg_same oo (Dev.setWritten_regs d t i b)
@[simp] theorem Dev.setWritten_chan (d) (t) (i) (b) (oo) : (Dev.setWritten d t i b).chan oo = d.chan oo := Dev.chan_same oo (Dev.setWritten_media d t i b)
@[simp] theorem Dev.setWritten_die (d) (t) (i) (b) (oo) : (Dev.setWritten d t i b).die oo = d.die oo := Dev.die_same oo (Dev.setWritten_media d t i b)
@[simp] theorem Dev.setWritten_ctl (d) (t) (i) (b) (oo) : (Dev.setWritten d t i b).ctl oo = d.ctl oo := Dev.ctl_same oo (Dev.setWritten_media d t i b)
@[simp] theorem Dev.setWritten_grp (d) (t) (i) (b) (oo) : (Dev.setWritten d t i b).grp oo = d.grp oo := Dev.grp_same oo (Dev.setWritten_media d t i b)
@[simp] theorem Dev.setWritten_qp (d) (t) (i) (b) (oo) : (Dev.setWritten d t i b).qp oo = d.qp oo := Dev.qp_same oo (Dev.setWritten_lci d t i b)
@[simp] theorem Dev.setWritten_cmd (d) (t) (i) (b) (oo) : (Dev.setWritten d t i b).cmd oo = d.cmd oo := Dev.cmd_same oo (Dev.setWritten_lci d t i b)
@[simp] theorem Dev.setWritten_slot (d) (t) (i) (b) (oo) : (Dev.setWritten d t i b).slot oo = d.slot oo := Dev.slot_same oo (Dev.setWritten_sec d t i b)
@[simp] theorem Dev.setWritten_schan (d) (t) (i) (b) (oo) : (Dev.setWritten d t i b).schan oo = d.schan oo := Dev.schan_same oo (Dev.setWritten_str d t i b)
@[simp] theorem Dev.msixSend_a (d) (h) (vec) : (Dev.msixSend d h vec).a = d.a := (Dev.msixSend_touches d h vec).same .a (by decide)
@[simp] theorem Dev.msixSend_b (d) (h) (vec) : (Dev.msixSend d h vec).b = d.b := (Dev.msixSend_touches d h vec).same .b (by decide)
@[simp] theorem Dev.msixSend_tether (d) (h) (vec) : (Dev.msixSend d h vec).tether = d.tether := (Dev.msixSend_touches d h vec).same .tether (by decide)
@[simp] theorem Dev.msixSend_launch (d) (h) (vec) : (Dev.msixSend d h vec).launch = d.launch := (Dev.msixSend_touches d h vec).same .launch (by decide)
@[simp] theorem Dev.msixSend_gpio (d) (h) (vec) : (Dev.msixSend d h vec).gpio = d.gpio := (Dev.msixSend_touches d h vec).same .gpio (by decide)
@[simp] theorem Dev.msixSend_keel (d) (h) (vec) : (Dev.msixSend d h vec).keel = d.keel := (Dev.msixSend_touches d h vec).same .keel (by decide)
@[simp] theorem Dev.msixSend_log (d) (h) (vec) : (Dev.msixSend d h vec).log = d.log := (Dev.msixSend_touches d h vec).same .log (by decide)
@[simp] theorem Dev.msixSend_aon (d) (h) (vec) : (Dev.msixSend d h vec).aon = d.aon := (Dev.msixSend_touches d h vec).same .aon (by decide)
@[simp] theorem Dev.msixSend_cores (d) (h) (vec) : (Dev.msixSend d h vec).cores = d.cores := (Dev.msixSend_touches d h vec).same .cores (by decide)
@[simp] theorem Dev.msixSend_sems (d) (h) (vec) : (Dev.msixSend d h vec).sems = d.sems := (Dev.msixSend_touches d h vec).same .sems (by decide)
@[simp] theorem Dev.msixSend_images (d) (h) (vec) : (Dev.msixSend d h vec).images = d.images := (Dev.msixSend_touches d h vec).same .images (by decide)
@[simp] theorem Dev.msixSend_pmc (d) (h) (vec) : (Dev.msixSend d h vec).pmc = d.pmc := (Dev.msixSend_touches d h vec).same .pmc (by decide)
@[simp] theorem Dev.msixSend_bst (d) (h) (vec) : (Dev.msixSend d h vec).bst = d.bst := (Dev.msixSend_touches d h vec).same .bst (by decide)
@[simp] theorem Dev.msixSend_dbg (d) (h) (vec) : (Dev.msixSend d h vec).dbg = d.dbg := (Dev.msixSend_touches d h vec).same .dbg (by decide)
@[simp] theorem Dev.msixSend_gon (d) (h) (vec) : (Dev.msixSend d h vec).gon = d.gon := (Dev.msixSend_touches d h vec).same .gon (by decide)
@[simp] theorem Dev.msixSend_cache (d) (h) (vec) : (Dev.msixSend d h vec).cache = d.cache := (Dev.msixSend_touches d h vec).same .cache (by decide)
@[simp] theorem Dev.msixSend_media (d) (h) (vec) : (Dev.msixSend d h vec).media = d.media := (Dev.msixSend_touches d h vec).same .media (by decide)
@[simp] theorem Dev.msixSend_tracts (d) (h) (vec) : (Dev.msixSend d h vec).tracts = d.tracts := (Dev.msixSend_touches d h vec).same .tracts (by decide)
@[simp] theorem Dev.msixSend_drift (d) (h) (vec) : (Dev.msixSend d h vec).drift = d.drift := (Dev.msixSend_touches d h vec).same .drift (by decide)
@[simp] theorem Dev.msixSend_sec (d) (h) (vec) : (Dev.msixSend d h vec).sec = d.sec := (Dev.msixSend_touches d h vec).same .sec (by decide)
@[simp] theorem Dev.msixSend_str (d) (h) (vec) : (Dev.msixSend d h vec).str = d.str := (Dev.msixSend_touches d h vec).same .str (by decide)
@[simp] theorem Dev.msixSend_lci (d) (h) (vec) : (Dev.msixSend d h vec).lci = d.lci := (Dev.msixSend_touches d h vec).same .lci (by decide)
@[simp] theorem Dev.msixSend_pwr (d) (h) (vec) : (Dev.msixSend d h vec).pwr = d.pwr := (Dev.msixSend_touches d h vec).same .pwr (by decide)
@[simp] theorem Dev.msixSend_therm (d) (h) (vec) : (Dev.msixSend d h vec).therm = d.therm := (Dev.msixSend_touches d h vec).same .therm (by decide)
@[simp] theorem Dev.msixSend_fresh (d) (h) (vec) : (Dev.msixSend d h vec).fresh = d.fresh := (Dev.msixSend_touches d h vec).same .fresh (by decide)
@[simp] theorem Dev.msixSend_head (d) (h) (vec) (hd) : (Dev.msixSend d h vec).head hd = d.head hd := Dev.head_same hd (Dev.msixSend_a d h vec) (Dev.msixSend_b d h vec)
@[simp] theorem Dev.msixSend_chan (d) (h) (vec) (oo) : (Dev.msixSend d h vec).chan oo = d.chan oo := Dev.chan_same oo (Dev.msixSend_media d h vec)
@[simp] theorem Dev.msixSend_die (d) (h) (vec) (oo) : (Dev.msixSend d h vec).die oo = d.die oo := Dev.die_same oo (Dev.msixSend_media d h vec)
@[simp] theorem Dev.msixSend_ctl (d) (h) (vec) (oo) : (Dev.msixSend d h vec).ctl oo = d.ctl oo := Dev.ctl_same oo (Dev.msixSend_media d h vec)
@[simp] theorem Dev.msixSend_grp (d) (h) (vec) (oo) : (Dev.msixSend d h vec).grp oo = d.grp oo := Dev.grp_same oo (Dev.msixSend_media d h vec)
@[simp] theorem Dev.msixSend_qp (d) (h) (vec) (oo) : (Dev.msixSend d h vec).qp oo = d.qp oo := Dev.qp_same oo (Dev.msixSend_lci d h vec)
@[simp] theorem Dev.msixSend_cmd (d) (h) (vec) (oo) : (Dev.msixSend d h vec).cmd oo = d.cmd oo := Dev.cmd_same oo (Dev.msixSend_lci d h vec)
@[simp] theorem Dev.msixSend_ent (d) (h) (vec) (oo) : (Dev.msixSend d h vec).ent oo = d.ent oo := Dev.ent_same oo (Dev.msixSend_tracts d h vec)
@[simp] theorem Dev.msixSend_hdr (d) (h) (vec) (oo) : (Dev.msixSend d h vec).hdr oo = d.hdr oo := Dev.hdr_same oo (Dev.msixSend_tracts d h vec)
@[simp] theorem Dev.msixSend_phys (d) (h) (vec) (oo) (ii) : (Dev.msixSend d h vec).phys oo ii = d.phys oo ii := Dev.phys_same oo ii (Dev.msixSend_tracts d h vec)
@[simp] theorem Dev.msixSend_slot (d) (h) (vec) (oo) : (Dev.msixSend d h vec).slot oo = d.slot oo := Dev.slot_same oo (Dev.msixSend_sec d h vec)
@[simp] theorem Dev.msixSend_schan (d) (h) (vec) (oo) : (Dev.msixSend d h vec).schan oo = d.schan oo := Dev.schan_same oo (Dev.msixSend_str d h vec)
@[simp] theorem Dev.setReg64_a (d) (lo) (v) : (Dev.setReg64 d lo v).a = d.a := (Dev.setReg64_touches d lo v).same .a (by decide)
@[simp] theorem Dev.setReg64_b (d) (lo) (v) : (Dev.setReg64 d lo v).b = d.b := (Dev.setReg64_touches d lo v).same .b (by decide)
@[simp] theorem Dev.setReg64_tether (d) (lo) (v) : (Dev.setReg64 d lo v).tether = d.tether := (Dev.setReg64_touches d lo v).same .tether (by decide)
@[simp] theorem Dev.setReg64_launch (d) (lo) (v) : (Dev.setReg64 d lo v).launch = d.launch := (Dev.setReg64_touches d lo v).same .launch (by decide)
@[simp] theorem Dev.setReg64_gpio (d) (lo) (v) : (Dev.setReg64 d lo v).gpio = d.gpio := (Dev.setReg64_touches d lo v).same .gpio (by decide)
@[simp] theorem Dev.setReg64_keel (d) (lo) (v) : (Dev.setReg64 d lo v).keel = d.keel := (Dev.setReg64_touches d lo v).same .keel (by decide)
@[simp] theorem Dev.setReg64_log (d) (lo) (v) : (Dev.setReg64 d lo v).log = d.log := (Dev.setReg64_touches d lo v).same .log (by decide)
@[simp] theorem Dev.setReg64_aon (d) (lo) (v) : (Dev.setReg64 d lo v).aon = d.aon := (Dev.setReg64_touches d lo v).same .aon (by decide)
@[simp] theorem Dev.setReg64_cores (d) (lo) (v) : (Dev.setReg64 d lo v).cores = d.cores := (Dev.setReg64_touches d lo v).same .cores (by decide)
@[simp] theorem Dev.setReg64_sems (d) (lo) (v) : (Dev.setReg64 d lo v).sems = d.sems := (Dev.setReg64_touches d lo v).same .sems (by decide)
@[simp] theorem Dev.setReg64_images (d) (lo) (v) : (Dev.setReg64 d lo v).images = d.images := (Dev.setReg64_touches d lo v).same .images (by decide)
@[simp] theorem Dev.setReg64_pmc (d) (lo) (v) : (Dev.setReg64 d lo v).pmc = d.pmc := (Dev.setReg64_touches d lo v).same .pmc (by decide)
@[simp] theorem Dev.setReg64_bst (d) (lo) (v) : (Dev.setReg64 d lo v).bst = d.bst := (Dev.setReg64_touches d lo v).same .bst (by decide)
@[simp] theorem Dev.setReg64_dbg (d) (lo) (v) : (Dev.setReg64 d lo v).dbg = d.dbg := (Dev.setReg64_touches d lo v).same .dbg (by decide)
@[simp] theorem Dev.setReg64_gon (d) (lo) (v) : (Dev.setReg64 d lo v).gon = d.gon := (Dev.setReg64_touches d lo v).same .gon (by decide)
@[simp] theorem Dev.setReg64_cache (d) (lo) (v) : (Dev.setReg64 d lo v).cache = d.cache := (Dev.setReg64_touches d lo v).same .cache (by decide)
@[simp] theorem Dev.setReg64_media (d) (lo) (v) : (Dev.setReg64 d lo v).media = d.media := (Dev.setReg64_touches d lo v).same .media (by decide)
@[simp] theorem Dev.setReg64_tracts (d) (lo) (v) : (Dev.setReg64 d lo v).tracts = d.tracts := (Dev.setReg64_touches d lo v).same .tracts (by decide)
@[simp] theorem Dev.setReg64_drift (d) (lo) (v) : (Dev.setReg64 d lo v).drift = d.drift := (Dev.setReg64_touches d lo v).same .drift (by decide)
@[simp] theorem Dev.setReg64_sec (d) (lo) (v) : (Dev.setReg64 d lo v).sec = d.sec := (Dev.setReg64_touches d lo v).same .sec (by decide)
@[simp] theorem Dev.setReg64_str (d) (lo) (v) : (Dev.setReg64 d lo v).str = d.str := (Dev.setReg64_touches d lo v).same .str (by decide)
@[simp] theorem Dev.setReg64_lci (d) (lo) (v) : (Dev.setReg64 d lo v).lci = d.lci := (Dev.setReg64_touches d lo v).same .lci (by decide)
@[simp] theorem Dev.setReg64_pwr (d) (lo) (v) : (Dev.setReg64 d lo v).pwr = d.pwr := (Dev.setReg64_touches d lo v).same .pwr (by decide)
@[simp] theorem Dev.setReg64_therm (d) (lo) (v) : (Dev.setReg64 d lo v).therm = d.therm := (Dev.setReg64_touches d lo v).same .therm (by decide)
@[simp] theorem Dev.setReg64_out (d) (lo) (v) : (Dev.setReg64 d lo v).out = d.out := (Dev.setReg64_touches d lo v).same .out (by decide)
@[simp] theorem Dev.setReg64_fresh (d) (lo) (v) : (Dev.setReg64 d lo v).fresh = d.fresh := (Dev.setReg64_touches d lo v).same .fresh (by decide)
@[simp] theorem Dev.setReg64_head (d) (lo) (v) (hd) : (Dev.setReg64 d lo v).head hd = d.head hd := Dev.head_same hd (Dev.setReg64_a d lo v) (Dev.setReg64_b d lo v)
@[simp] theorem Dev.setReg64_chan (d) (lo) (v) (oo) : (Dev.setReg64 d lo v).chan oo = d.chan oo := Dev.chan_same oo (Dev.setReg64_media d lo v)
@[simp] theorem Dev.setReg64_die (d) (lo) (v) (oo) : (Dev.setReg64 d lo v).die oo = d.die oo := Dev.die_same oo (Dev.setReg64_media d lo v)
@[simp] theorem Dev.setReg64_ctl (d) (lo) (v) (oo) : (Dev.setReg64 d lo v).ctl oo = d.ctl oo := Dev.ctl_same oo (Dev.setReg64_media d lo v)
@[simp] theorem Dev.setReg64_grp (d) (lo) (v) (oo) : (Dev.setReg64 d lo v).grp oo = d.grp oo := Dev.grp_same oo (Dev.setReg64_media d lo v)
@[simp] theorem Dev.setReg64_qp (d) (lo) (v) (oo) : (Dev.setReg64 d lo v).qp oo = d.qp oo := Dev.qp_same oo (Dev.setReg64_lci d lo v)
@[simp] theorem Dev.setReg64_cmd (d) (lo) (v) (oo) : (Dev.setReg64 d lo v).cmd oo = d.cmd oo := Dev.cmd_same oo (Dev.setReg64_lci d lo v)
@[simp] theorem Dev.setReg64_ent (d) (lo) (v) (oo) : (Dev.setReg64 d lo v).ent oo = d.ent oo := Dev.ent_same oo (Dev.setReg64_tracts d lo v)
@[simp] theorem Dev.setReg64_hdr (d) (lo) (v) (oo) : (Dev.setReg64 d lo v).hdr oo = d.hdr oo := Dev.hdr_same oo (Dev.setReg64_tracts d lo v)
@[simp] theorem Dev.setReg64_phys (d) (lo) (v) (oo) (ii) : (Dev.setReg64 d lo v).phys oo ii = d.phys oo ii := Dev.phys_same oo ii (Dev.setReg64_tracts d lo v)
@[simp] theorem Dev.setReg64_slot (d) (lo) (v) (oo) : (Dev.setReg64 d lo v).slot oo = d.slot oo := Dev.slot_same oo (Dev.setReg64_sec d lo v)
@[simp] theorem Dev.setReg64_schan (d) (lo) (v) (oo) : (Dev.setReg64 d lo v).schan oo = d.schan oo := Dev.schan_same oo (Dev.setReg64_str d lo v)
@[simp] theorem Dev.setHead_regs (d) (h) (x) : (Dev.setHead d h x).regs = d.regs := (Dev.setHead_touches d h x).same .regs (by decide)
@[simp] theorem Dev.setHead_tether (d) (h) (x) : (Dev.setHead d h x).tether = d.tether := (Dev.setHead_touches d h x).same .tether (by decide)
@[simp] theorem Dev.setHead_launch (d) (h) (x) : (Dev.setHead d h x).launch = d.launch := (Dev.setHead_touches d h x).same .launch (by decide)
@[simp] theorem Dev.setHead_gpio (d) (h) (x) : (Dev.setHead d h x).gpio = d.gpio := (Dev.setHead_touches d h x).same .gpio (by decide)
@[simp] theorem Dev.setHead_keel (d) (h) (x) : (Dev.setHead d h x).keel = d.keel := (Dev.setHead_touches d h x).same .keel (by decide)
@[simp] theorem Dev.setHead_log (d) (h) (x) : (Dev.setHead d h x).log = d.log := (Dev.setHead_touches d h x).same .log (by decide)
@[simp] theorem Dev.setHead_aon (d) (h) (x) : (Dev.setHead d h x).aon = d.aon := (Dev.setHead_touches d h x).same .aon (by decide)
@[simp] theorem Dev.setHead_cores (d) (h) (x) : (Dev.setHead d h x).cores = d.cores := (Dev.setHead_touches d h x).same .cores (by decide)
@[simp] theorem Dev.setHead_sems (d) (h) (x) : (Dev.setHead d h x).sems = d.sems := (Dev.setHead_touches d h x).same .sems (by decide)
@[simp] theorem Dev.setHead_images (d) (h) (x) : (Dev.setHead d h x).images = d.images := (Dev.setHead_touches d h x).same .images (by decide)
@[simp] theorem Dev.setHead_pmc (d) (h) (x) : (Dev.setHead d h x).pmc = d.pmc := (Dev.setHead_touches d h x).same .pmc (by decide)
@[simp] theorem Dev.setHead_bst (d) (h) (x) : (Dev.setHead d h x).bst = d.bst := (Dev.setHead_touches d h x).same .bst (by decide)
@[simp] theorem Dev.setHead_dbg (d) (h) (x) : (Dev.setHead d h x).dbg = d.dbg := (Dev.setHead_touches d h x).same .dbg (by decide)
@[simp] theorem Dev.setHead_gon (d) (h) (x) : (Dev.setHead d h x).gon = d.gon := (Dev.setHead_touches d h x).same .gon (by decide)
@[simp] theorem Dev.setHead_cache (d) (h) (x) : (Dev.setHead d h x).cache = d.cache := (Dev.setHead_touches d h x).same .cache (by decide)
@[simp] theorem Dev.setHead_media (d) (h) (x) : (Dev.setHead d h x).media = d.media := (Dev.setHead_touches d h x).same .media (by decide)
@[simp] theorem Dev.setHead_tracts (d) (h) (x) : (Dev.setHead d h x).tracts = d.tracts := (Dev.setHead_touches d h x).same .tracts (by decide)
@[simp] theorem Dev.setHead_drift (d) (h) (x) : (Dev.setHead d h x).drift = d.drift := (Dev.setHead_touches d h x).same .drift (by decide)
@[simp] theorem Dev.setHead_sec (d) (h) (x) : (Dev.setHead d h x).sec = d.sec := (Dev.setHead_touches d h x).same .sec (by decide)
@[simp] theorem Dev.setHead_str (d) (h) (x) : (Dev.setHead d h x).str = d.str := (Dev.setHead_touches d h x).same .str (by decide)
@[simp] theorem Dev.setHead_lci (d) (h) (x) : (Dev.setHead d h x).lci = d.lci := (Dev.setHead_touches d h x).same .lci (by decide)
@[simp] theorem Dev.setHead_pwr (d) (h) (x) : (Dev.setHead d h x).pwr = d.pwr := (Dev.setHead_touches d h x).same .pwr (by decide)
@[simp] theorem Dev.setHead_therm (d) (h) (x) : (Dev.setHead d h x).therm = d.therm := (Dev.setHead_touches d h x).same .therm (by decide)
@[simp] theorem Dev.setHead_out (d) (h) (x) : (Dev.setHead d h x).out = d.out := (Dev.setHead_touches d h x).same .out (by decide)
@[simp] theorem Dev.setHead_fresh (d) (h) (x) : (Dev.setHead d h x).fresh = d.fresh := (Dev.setHead_touches d h x).same .fresh (by decide)
@[simp] theorem Dev.setHead_reg (d) (h) (x) (oo) : (Dev.setHead d h x).reg oo = d.reg oo := Dev.reg_same oo (Dev.setHead_regs d h x)
@[simp] theorem Dev.setHead_chan (d) (h) (x) (oo) : (Dev.setHead d h x).chan oo = d.chan oo := Dev.chan_same oo (Dev.setHead_media d h x)
@[simp] theorem Dev.setHead_die (d) (h) (x) (oo) : (Dev.setHead d h x).die oo = d.die oo := Dev.die_same oo (Dev.setHead_media d h x)
@[simp] theorem Dev.setHead_ctl (d) (h) (x) (oo) : (Dev.setHead d h x).ctl oo = d.ctl oo := Dev.ctl_same oo (Dev.setHead_media d h x)
@[simp] theorem Dev.setHead_grp (d) (h) (x) (oo) : (Dev.setHead d h x).grp oo = d.grp oo := Dev.grp_same oo (Dev.setHead_media d h x)
@[simp] theorem Dev.setHead_qp (d) (h) (x) (oo) : (Dev.setHead d h x).qp oo = d.qp oo := Dev.qp_same oo (Dev.setHead_lci d h x)
@[simp] theorem Dev.setHead_cmd (d) (h) (x) (oo) : (Dev.setHead d h x).cmd oo = d.cmd oo := Dev.cmd_same oo (Dev.setHead_lci d h x)
@[simp] theorem Dev.setHead_ent (d) (h) (x) (oo) : (Dev.setHead d h x).ent oo = d.ent oo := Dev.ent_same oo (Dev.setHead_tracts d h x)
@[simp] theorem Dev.setHead_hdr (d) (h) (x) (oo) : (Dev.setHead d h x).hdr oo = d.hdr oo := Dev.hdr_same oo (Dev.setHead_tracts d h x)
@[simp] theorem Dev.setHead_phys (d) (h) (x) (oo) (ii) : (Dev.setHead d h x).phys oo ii = d.phys oo ii := Dev.phys_same oo ii (Dev.setHead_tracts d h x)
@[simp] theorem Dev.setHead_slot (d) (h) (x) (oo) : (Dev.setHead d h x).slot oo = d.slot oo := Dev.slot_same oo (Dev.setHead_sec d h x)
@[simp] theorem Dev.setHead_schan (d) (h) (x) (oo) : (Dev.setHead d h x).schan oo = d.schan oo := Dev.schan_same oo (Dev.setHead_str d h x)
@[simp] theorem Dev.postAll_tether (F) (d) (n) (k) (arg) : (Dev.postAll F d n k arg).tether = d.tether := (Dev.postAll_touches F d n k arg).same .tether (by decide)
@[simp] theorem Dev.postAll_launch (F) (d) (n) (k) (arg) : (Dev.postAll F d n k arg).launch = d.launch := (Dev.postAll_touches F d n k arg).same .launch (by decide)
@[simp] theorem Dev.postAll_gpio (F) (d) (n) (k) (arg) : (Dev.postAll F d n k arg).gpio = d.gpio := (Dev.postAll_touches F d n k arg).same .gpio (by decide)
@[simp] theorem Dev.postAll_keel (F) (d) (n) (k) (arg) : (Dev.postAll F d n k arg).keel = d.keel := (Dev.postAll_touches F d n k arg).same .keel (by decide)
@[simp] theorem Dev.postAll_log (F) (d) (n) (k) (arg) : (Dev.postAll F d n k arg).log = d.log := (Dev.postAll_touches F d n k arg).same .log (by decide)
@[simp] theorem Dev.postAll_aon (F) (d) (n) (k) (arg) : (Dev.postAll F d n k arg).aon = d.aon := (Dev.postAll_touches F d n k arg).same .aon (by decide)
@[simp] theorem Dev.postAll_cores (F) (d) (n) (k) (arg) : (Dev.postAll F d n k arg).cores = d.cores := (Dev.postAll_touches F d n k arg).same .cores (by decide)
@[simp] theorem Dev.postAll_sems (F) (d) (n) (k) (arg) : (Dev.postAll F d n k arg).sems = d.sems := (Dev.postAll_touches F d n k arg).same .sems (by decide)
@[simp] theorem Dev.postAll_images (F) (d) (n) (k) (arg) : (Dev.postAll F d n k arg).images = d.images := (Dev.postAll_touches F d n k arg).same .images (by decide)
@[simp] theorem Dev.postAll_pmc (F) (d) (n) (k) (arg) : (Dev.postAll F d n k arg).pmc = d.pmc := (Dev.postAll_touches F d n k arg).same .pmc (by decide)
@[simp] theorem Dev.postAll_bst (F) (d) (n) (k) (arg) : (Dev.postAll F d n k arg).bst = d.bst := (Dev.postAll_touches F d n k arg).same .bst (by decide)
@[simp] theorem Dev.postAll_dbg (F) (d) (n) (k) (arg) : (Dev.postAll F d n k arg).dbg = d.dbg := (Dev.postAll_touches F d n k arg).same .dbg (by decide)
@[simp] theorem Dev.postAll_gon (F) (d) (n) (k) (arg) : (Dev.postAll F d n k arg).gon = d.gon := (Dev.postAll_touches F d n k arg).same .gon (by decide)
@[simp] theorem Dev.postAll_cache (F) (d) (n) (k) (arg) : (Dev.postAll F d n k arg).cache = d.cache := (Dev.postAll_touches F d n k arg).same .cache (by decide)
@[simp] theorem Dev.postAll_media (F) (d) (n) (k) (arg) : (Dev.postAll F d n k arg).media = d.media := (Dev.postAll_touches F d n k arg).same .media (by decide)
@[simp] theorem Dev.postAll_tracts (F) (d) (n) (k) (arg) : (Dev.postAll F d n k arg).tracts = d.tracts := (Dev.postAll_touches F d n k arg).same .tracts (by decide)
@[simp] theorem Dev.postAll_drift (F) (d) (n) (k) (arg) : (Dev.postAll F d n k arg).drift = d.drift := (Dev.postAll_touches F d n k arg).same .drift (by decide)
@[simp] theorem Dev.postAll_sec (F) (d) (n) (k) (arg) : (Dev.postAll F d n k arg).sec = d.sec := (Dev.postAll_touches F d n k arg).same .sec (by decide)
@[simp] theorem Dev.postAll_str (F) (d) (n) (k) (arg) : (Dev.postAll F d n k arg).str = d.str := (Dev.postAll_touches F d n k arg).same .str (by decide)
@[simp] theorem Dev.postAll_lci (F) (d) (n) (k) (arg) : (Dev.postAll F d n k arg).lci = d.lci := (Dev.postAll_touches F d n k arg).same .lci (by decide)
@[simp] theorem Dev.postAll_pwr (F) (d) (n) (k) (arg) : (Dev.postAll F d n k arg).pwr = d.pwr := (Dev.postAll_touches F d n k arg).same .pwr (by decide)
@[simp] theorem Dev.postAll_therm (F) (d) (n) (k) (arg) : (Dev.postAll F d n k arg).therm = d.therm := (Dev.postAll_touches F d n k arg).same .therm (by decide)
@[simp] theorem Dev.postAll_fresh (F) (d) (n) (k) (arg) : (Dev.postAll F d n k arg).fresh = d.fresh := (Dev.postAll_touches F d n k arg).same .fresh (by decide)
@[simp] theorem Dev.postAll_chan (F) (d) (n) (k) (arg) (oo) : (Dev.postAll F d n k arg).chan oo = d.chan oo := Dev.chan_same oo (Dev.postAll_media F d n k arg)
@[simp] theorem Dev.postAll_die (F) (d) (n) (k) (arg) (oo) : (Dev.postAll F d n k arg).die oo = d.die oo := Dev.die_same oo (Dev.postAll_media F d n k arg)
@[simp] theorem Dev.postAll_ctl (F) (d) (n) (k) (arg) (oo) : (Dev.postAll F d n k arg).ctl oo = d.ctl oo := Dev.ctl_same oo (Dev.postAll_media F d n k arg)
@[simp] theorem Dev.postAll_grp (F) (d) (n) (k) (arg) (oo) : (Dev.postAll F d n k arg).grp oo = d.grp oo := Dev.grp_same oo (Dev.postAll_media F d n k arg)
@[simp] theorem Dev.postAll_qp (F) (d) (n) (k) (arg) (oo) : (Dev.postAll F d n k arg).qp oo = d.qp oo := Dev.qp_same oo (Dev.postAll_lci F d n k arg)
@[simp] theorem Dev.postAll_cmd (F) (d) (n) (k) (arg) (oo) : (Dev.postAll F d n k arg).cmd oo = d.cmd oo := Dev.cmd_same oo (Dev.postAll_lci F d n k arg)
@[simp] theorem Dev.postAll_ent (F) (d) (n) (k) (arg) (oo) : (Dev.postAll F d n k arg).ent oo = d.ent oo := Dev.ent_same oo (Dev.postAll_tracts F d n k arg)
@[simp] theorem Dev.postAll_hdr (F) (d) (n) (k) (arg) (oo) : (Dev.postAll F d n k arg).hdr oo = d.hdr oo := Dev.hdr_same oo (Dev.postAll_tracts F d n k arg)
@[simp] theorem Dev.postAll_phys (F) (d) (n) (k) (arg) (oo) (ii) : (Dev.postAll F d n k arg).phys oo ii = d.phys oo ii := Dev.phys_same oo ii (Dev.postAll_tracts F d n k arg)
@[simp] theorem Dev.postAll_slot (F) (d) (n) (k) (arg) (oo) : (Dev.postAll F d n k arg).slot oo = d.slot oo := Dev.slot_same oo (Dev.postAll_sec F d n k arg)
@[simp] theorem Dev.postAll_schan (F) (d) (n) (k) (arg) (oo) : (Dev.postAll F d n k arg).schan oo = d.schan oo := Dev.schan_same oo (Dev.postAll_str F d n k arg)
@[simp] theorem Dev.countH_a (d) (ev) (h) (n) : (Dev.countH d ev h n).a = d.a := (Dev.countH_touches d ev h n).same .a (by decide)
@[simp] theorem Dev.countH_b (d) (ev) (h) (n) : (Dev.countH d ev h n).b = d.b := (Dev.countH_touches d ev h n).same .b (by decide)
@[simp] theorem Dev.countH_tether (d) (ev) (h) (n) : (Dev.countH d ev h n).tether = d.tether := (Dev.countH_touches d ev h n).same .tether (by decide)
@[simp] theorem Dev.countH_launch (d) (ev) (h) (n) : (Dev.countH d ev h n).launch = d.launch := (Dev.countH_touches d ev h n).same .launch (by decide)
@[simp] theorem Dev.countH_gpio (d) (ev) (h) (n) : (Dev.countH d ev h n).gpio = d.gpio := (Dev.countH_touches d ev h n).same .gpio (by decide)
@[simp] theorem Dev.countH_keel (d) (ev) (h) (n) : (Dev.countH d ev h n).keel = d.keel := (Dev.countH_touches d ev h n).same .keel (by decide)
@[simp] theorem Dev.countH_log (d) (ev) (h) (n) : (Dev.countH d ev h n).log = d.log := (Dev.countH_touches d ev h n).same .log (by decide)
@[simp] theorem Dev.countH_aon (d) (ev) (h) (n) : (Dev.countH d ev h n).aon = d.aon := (Dev.countH_touches d ev h n).same .aon (by decide)
@[simp] theorem Dev.countH_cores (d) (ev) (h) (n) : (Dev.countH d ev h n).cores = d.cores := (Dev.countH_touches d ev h n).same .cores (by decide)
@[simp] theorem Dev.countH_sems (d) (ev) (h) (n) : (Dev.countH d ev h n).sems = d.sems := (Dev.countH_touches d ev h n).same .sems (by decide)
@[simp] theorem Dev.countH_images (d) (ev) (h) (n) : (Dev.countH d ev h n).images = d.images := (Dev.countH_touches d ev h n).same .images (by decide)
@[simp] theorem Dev.countH_bst (d) (ev) (h) (n) : (Dev.countH d ev h n).bst = d.bst := (Dev.countH_touches d ev h n).same .bst (by decide)
@[simp] theorem Dev.countH_dbg (d) (ev) (h) (n) : (Dev.countH d ev h n).dbg = d.dbg := (Dev.countH_touches d ev h n).same .dbg (by decide)
@[simp] theorem Dev.countH_gon (d) (ev) (h) (n) : (Dev.countH d ev h n).gon = d.gon := (Dev.countH_touches d ev h n).same .gon (by decide)
@[simp] theorem Dev.countH_cache (d) (ev) (h) (n) : (Dev.countH d ev h n).cache = d.cache := (Dev.countH_touches d ev h n).same .cache (by decide)
@[simp] theorem Dev.countH_media (d) (ev) (h) (n) : (Dev.countH d ev h n).media = d.media := (Dev.countH_touches d ev h n).same .media (by decide)
@[simp] theorem Dev.countH_tracts (d) (ev) (h) (n) : (Dev.countH d ev h n).tracts = d.tracts := (Dev.countH_touches d ev h n).same .tracts (by decide)
@[simp] theorem Dev.countH_drift (d) (ev) (h) (n) : (Dev.countH d ev h n).drift = d.drift := (Dev.countH_touches d ev h n).same .drift (by decide)
@[simp] theorem Dev.countH_sec (d) (ev) (h) (n) : (Dev.countH d ev h n).sec = d.sec := (Dev.countH_touches d ev h n).same .sec (by decide)
@[simp] theorem Dev.countH_str (d) (ev) (h) (n) : (Dev.countH d ev h n).str = d.str := (Dev.countH_touches d ev h n).same .str (by decide)
@[simp] theorem Dev.countH_lci (d) (ev) (h) (n) : (Dev.countH d ev h n).lci = d.lci := (Dev.countH_touches d ev h n).same .lci (by decide)
@[simp] theorem Dev.countH_pwr (d) (ev) (h) (n) : (Dev.countH d ev h n).pwr = d.pwr := (Dev.countH_touches d ev h n).same .pwr (by decide)
@[simp] theorem Dev.countH_therm (d) (ev) (h) (n) : (Dev.countH d ev h n).therm = d.therm := (Dev.countH_touches d ev h n).same .therm (by decide)
@[simp] theorem Dev.countH_out (d) (ev) (h) (n) : (Dev.countH d ev h n).out = d.out := (Dev.countH_touches d ev h n).same .out (by decide)
@[simp] theorem Dev.countH_fresh (d) (ev) (h) (n) : (Dev.countH d ev h n).fresh = d.fresh := (Dev.countH_touches d ev h n).same .fresh (by decide)
@[simp] theorem Dev.countH_head (d) (ev) (h) (n) (hd) : (Dev.countH d ev h n).head hd = d.head hd := Dev.head_same hd (Dev.countH_a d ev h n) (Dev.countH_b d ev h n)
@[simp] theorem Dev.countH_chan (d) (ev) (h) (n) (oo) : (Dev.countH d ev h n).chan oo = d.chan oo := Dev.chan_same oo (Dev.countH_media d ev h n)
@[simp] theorem Dev.countH_die (d) (ev) (h) (n) (oo) : (Dev.countH d ev h n).die oo = d.die oo := Dev.die_same oo (Dev.countH_media d ev h n)
@[simp] theorem Dev.countH_ctl (d) (ev) (h) (n) (oo) : (Dev.countH d ev h n).ctl oo = d.ctl oo := Dev.ctl_same oo (Dev.countH_media d ev h n)
@[simp] theorem Dev.countH_grp (d) (ev) (h) (n) (oo) : (Dev.countH d ev h n).grp oo = d.grp oo := Dev.grp_same oo (Dev.countH_media d ev h n)
@[simp] theorem Dev.countH_qp (d) (ev) (h) (n) (oo) : (Dev.countH d ev h n).qp oo = d.qp oo := Dev.qp_same oo (Dev.countH_lci d ev h n)
@[simp] theorem Dev.countH_cmd (d) (ev) (h) (n) (oo) : (Dev.countH d ev h n).cmd oo = d.cmd oo := Dev.cmd_same oo (Dev.countH_lci d ev h n)
@[simp] theorem Dev.countH_ent (d) (ev) (h) (n) (oo) : (Dev.countH d ev h n).ent oo = d.ent oo := Dev.ent_same oo (Dev.countH_tracts d ev h n)
@[simp] theorem Dev.countH_hdr (d) (ev) (h) (n) (oo) : (Dev.countH d ev h n).hdr oo = d.hdr oo := Dev.hdr_same oo (Dev.countH_tracts d ev h n)
@[simp] theorem Dev.countH_phys (d) (ev) (h) (n) (oo) (ii) : (Dev.countH d ev h n).phys oo ii = d.phys oo ii := Dev.phys_same oo ii (Dev.countH_tracts d ev h n)
@[simp] theorem Dev.countH_slot (d) (ev) (h) (n) (oo) : (Dev.countH d ev h n).slot oo = d.slot oo := Dev.slot_same oo (Dev.countH_sec d ev h n)
@[simp] theorem Dev.countH_schan (d) (ev) (h) (n) (oo) : (Dev.countH d ev h n).schan oo = d.schan oo := Dev.schan_same oo (Dev.countH_str d ev h n)
@[simp] theorem Dev.setCache_regs (d) (c) : (Dev.setCache d c).regs = d.regs := (Dev.setCache_touches d c).same .regs (by decide)
@[simp] theorem Dev.setCache_a (d) (c) : (Dev.setCache d c).a = d.a := (Dev.setCache_touches d c).same .a (by decide)
@[simp] theorem Dev.setCache_b (d) (c) : (Dev.setCache d c).b = d.b := (Dev.setCache_touches d c).same .b (by decide)
@[simp] theorem Dev.setCache_tether (d) (c) : (Dev.setCache d c).tether = d.tether := (Dev.setCache_touches d c).same .tether (by decide)
@[simp] theorem Dev.setCache_launch (d) (c) : (Dev.setCache d c).launch = d.launch := (Dev.setCache_touches d c).same .launch (by decide)
@[simp] theorem Dev.setCache_gpio (d) (c) : (Dev.setCache d c).gpio = d.gpio := (Dev.setCache_touches d c).same .gpio (by decide)
@[simp] theorem Dev.setCache_keel (d) (c) : (Dev.setCache d c).keel = d.keel := (Dev.setCache_touches d c).same .keel (by decide)
@[simp] theorem Dev.setCache_log (d) (c) : (Dev.setCache d c).log = d.log := (Dev.setCache_touches d c).same .log (by decide)
@[simp] theorem Dev.setCache_aon (d) (c) : (Dev.setCache d c).aon = d.aon := (Dev.setCache_touches d c).same .aon (by decide)
@[simp] theorem Dev.setCache_cores (d) (c) : (Dev.setCache d c).cores = d.cores := (Dev.setCache_touches d c).same .cores (by decide)
@[simp] theorem Dev.setCache_sems (d) (c) : (Dev.setCache d c).sems = d.sems := (Dev.setCache_touches d c).same .sems (by decide)
@[simp] theorem Dev.setCache_images (d) (c) : (Dev.setCache d c).images = d.images := (Dev.setCache_touches d c).same .images (by decide)
@[simp] theorem Dev.setCache_pmc (d) (c) : (Dev.setCache d c).pmc = d.pmc := (Dev.setCache_touches d c).same .pmc (by decide)
@[simp] theorem Dev.setCache_bst (d) (c) : (Dev.setCache d c).bst = d.bst := (Dev.setCache_touches d c).same .bst (by decide)
@[simp] theorem Dev.setCache_dbg (d) (c) : (Dev.setCache d c).dbg = d.dbg := (Dev.setCache_touches d c).same .dbg (by decide)
@[simp] theorem Dev.setCache_gon (d) (c) : (Dev.setCache d c).gon = d.gon := (Dev.setCache_touches d c).same .gon (by decide)
@[simp] theorem Dev.setCache_media (d) (c) : (Dev.setCache d c).media = d.media := (Dev.setCache_touches d c).same .media (by decide)
@[simp] theorem Dev.setCache_tracts (d) (c) : (Dev.setCache d c).tracts = d.tracts := (Dev.setCache_touches d c).same .tracts (by decide)
@[simp] theorem Dev.setCache_drift (d) (c) : (Dev.setCache d c).drift = d.drift := (Dev.setCache_touches d c).same .drift (by decide)
@[simp] theorem Dev.setCache_sec (d) (c) : (Dev.setCache d c).sec = d.sec := (Dev.setCache_touches d c).same .sec (by decide)
@[simp] theorem Dev.setCache_str (d) (c) : (Dev.setCache d c).str = d.str := (Dev.setCache_touches d c).same .str (by decide)
@[simp] theorem Dev.setCache_lci (d) (c) : (Dev.setCache d c).lci = d.lci := (Dev.setCache_touches d c).same .lci (by decide)
@[simp] theorem Dev.setCache_pwr (d) (c) : (Dev.setCache d c).pwr = d.pwr := (Dev.setCache_touches d c).same .pwr (by decide)
@[simp] theorem Dev.setCache_therm (d) (c) : (Dev.setCache d c).therm = d.therm := (Dev.setCache_touches d c).same .therm (by decide)
@[simp] theorem Dev.setCache_out (d) (c) : (Dev.setCache d c).out = d.out := (Dev.setCache_touches d c).same .out (by decide)
@[simp] theorem Dev.setCache_fresh (d) (c) : (Dev.setCache d c).fresh = d.fresh := (Dev.setCache_touches d c).same .fresh (by decide)
@[simp] theorem Dev.setCache_head (d) (c) (hd) : (Dev.setCache d c).head hd = d.head hd := Dev.head_same hd (Dev.setCache_a d c) (Dev.setCache_b d c)
@[simp] theorem Dev.setCache_reg (d) (c) (oo) : (Dev.setCache d c).reg oo = d.reg oo := Dev.reg_same oo (Dev.setCache_regs d c)
@[simp] theorem Dev.setCache_chan (d) (c) (oo) : (Dev.setCache d c).chan oo = d.chan oo := Dev.chan_same oo (Dev.setCache_media d c)
@[simp] theorem Dev.setCache_die (d) (c) (oo) : (Dev.setCache d c).die oo = d.die oo := Dev.die_same oo (Dev.setCache_media d c)
@[simp] theorem Dev.setCache_ctl (d) (c) (oo) : (Dev.setCache d c).ctl oo = d.ctl oo := Dev.ctl_same oo (Dev.setCache_media d c)
@[simp] theorem Dev.setCache_grp (d) (c) (oo) : (Dev.setCache d c).grp oo = d.grp oo := Dev.grp_same oo (Dev.setCache_media d c)
@[simp] theorem Dev.setCache_qp (d) (c) (oo) : (Dev.setCache d c).qp oo = d.qp oo := Dev.qp_same oo (Dev.setCache_lci d c)
@[simp] theorem Dev.setCache_cmd (d) (c) (oo) : (Dev.setCache d c).cmd oo = d.cmd oo := Dev.cmd_same oo (Dev.setCache_lci d c)
@[simp] theorem Dev.setCache_ent (d) (c) (oo) : (Dev.setCache d c).ent oo = d.ent oo := Dev.ent_same oo (Dev.setCache_tracts d c)
@[simp] theorem Dev.setCache_hdr (d) (c) (oo) : (Dev.setCache d c).hdr oo = d.hdr oo := Dev.hdr_same oo (Dev.setCache_tracts d c)
@[simp] theorem Dev.setCache_phys (d) (c) (oo) (ii) : (Dev.setCache d c).phys oo ii = d.phys oo ii := Dev.phys_same oo ii (Dev.setCache_tracts d c)
@[simp] theorem Dev.setCache_slot (d) (c) (oo) : (Dev.setCache d c).slot oo = d.slot oo := Dev.slot_same oo (Dev.setCache_sec d c)
@[simp] theorem Dev.setCache_schan (d) (c) (oo) : (Dev.setCache d c).schan oo = d.schan oo := Dev.schan_same oo (Dev.setCache_str d c)
@[simp] theorem Dev.writeClears_regs (d) (line) : (Dev.writeClears d line).regs = d.regs := (Dev.writeClears_touches d line).same .regs (by decide)
@[simp] theorem Dev.writeClears_a (d) (line) : (Dev.writeClears d line).a = d.a := (Dev.writeClears_touches d line).same .a (by decide)
@[simp] theorem Dev.writeClears_b (d) (line) : (Dev.writeClears d line).b = d.b := (Dev.writeClears_touches d line).same .b (by decide)
@[simp] theorem Dev.writeClears_tether (d) (line) : (Dev.writeClears d line).tether = d.tether := (Dev.writeClears_touches d line).same .tether (by decide)
@[simp] theorem Dev.writeClears_launch (d) (line) : (Dev.writeClears d line).launch = d.launch := (Dev.writeClears_touches d line).same .launch (by decide)
@[simp] theorem Dev.writeClears_gpio (d) (line) : (Dev.writeClears d line).gpio = d.gpio := (Dev.writeClears_touches d line).same .gpio (by decide)
@[simp] theorem Dev.writeClears_keel (d) (line) : (Dev.writeClears d line).keel = d.keel := (Dev.writeClears_touches d line).same .keel (by decide)
@[simp] theorem Dev.writeClears_log (d) (line) : (Dev.writeClears d line).log = d.log := (Dev.writeClears_touches d line).same .log (by decide)
@[simp] theorem Dev.writeClears_aon (d) (line) : (Dev.writeClears d line).aon = d.aon := (Dev.writeClears_touches d line).same .aon (by decide)
@[simp] theorem Dev.writeClears_cores (d) (line) : (Dev.writeClears d line).cores = d.cores := (Dev.writeClears_touches d line).same .cores (by decide)
@[simp] theorem Dev.writeClears_sems (d) (line) : (Dev.writeClears d line).sems = d.sems := (Dev.writeClears_touches d line).same .sems (by decide)
@[simp] theorem Dev.writeClears_images (d) (line) : (Dev.writeClears d line).images = d.images := (Dev.writeClears_touches d line).same .images (by decide)
@[simp] theorem Dev.writeClears_pmc (d) (line) : (Dev.writeClears d line).pmc = d.pmc := (Dev.writeClears_touches d line).same .pmc (by decide)
@[simp] theorem Dev.writeClears_bst (d) (line) : (Dev.writeClears d line).bst = d.bst := (Dev.writeClears_touches d line).same .bst (by decide)
@[simp] theorem Dev.writeClears_dbg (d) (line) : (Dev.writeClears d line).dbg = d.dbg := (Dev.writeClears_touches d line).same .dbg (by decide)
@[simp] theorem Dev.writeClears_gon (d) (line) : (Dev.writeClears d line).gon = d.gon := (Dev.writeClears_touches d line).same .gon (by decide)
@[simp] theorem Dev.writeClears_media (d) (line) : (Dev.writeClears d line).media = d.media := (Dev.writeClears_touches d line).same .media (by decide)
@[simp] theorem Dev.writeClears_tracts (d) (line) : (Dev.writeClears d line).tracts = d.tracts := (Dev.writeClears_touches d line).same .tracts (by decide)
@[simp] theorem Dev.writeClears_drift (d) (line) : (Dev.writeClears d line).drift = d.drift := (Dev.writeClears_touches d line).same .drift (by decide)
@[simp] theorem Dev.writeClears_sec (d) (line) : (Dev.writeClears d line).sec = d.sec := (Dev.writeClears_touches d line).same .sec (by decide)
@[simp] theorem Dev.writeClears_str (d) (line) : (Dev.writeClears d line).str = d.str := (Dev.writeClears_touches d line).same .str (by decide)
@[simp] theorem Dev.writeClears_lci (d) (line) : (Dev.writeClears d line).lci = d.lci := (Dev.writeClears_touches d line).same .lci (by decide)
@[simp] theorem Dev.writeClears_pwr (d) (line) : (Dev.writeClears d line).pwr = d.pwr := (Dev.writeClears_touches d line).same .pwr (by decide)
@[simp] theorem Dev.writeClears_therm (d) (line) : (Dev.writeClears d line).therm = d.therm := (Dev.writeClears_touches d line).same .therm (by decide)
@[simp] theorem Dev.writeClears_out (d) (line) : (Dev.writeClears d line).out = d.out := (Dev.writeClears_touches d line).same .out (by decide)
@[simp] theorem Dev.writeClears_fresh (d) (line) : (Dev.writeClears d line).fresh = d.fresh := (Dev.writeClears_touches d line).same .fresh (by decide)
@[simp] theorem Dev.writeClears_head (d) (line) (hd) : (Dev.writeClears d line).head hd = d.head hd := Dev.head_same hd (Dev.writeClears_a d line) (Dev.writeClears_b d line)
@[simp] theorem Dev.writeClears_reg (d) (line) (oo) : (Dev.writeClears d line).reg oo = d.reg oo := Dev.reg_same oo (Dev.writeClears_regs d line)
@[simp] theorem Dev.writeClears_chan (d) (line) (oo) : (Dev.writeClears d line).chan oo = d.chan oo := Dev.chan_same oo (Dev.writeClears_media d line)
@[simp] theorem Dev.writeClears_die (d) (line) (oo) : (Dev.writeClears d line).die oo = d.die oo := Dev.die_same oo (Dev.writeClears_media d line)
@[simp] theorem Dev.writeClears_ctl (d) (line) (oo) : (Dev.writeClears d line).ctl oo = d.ctl oo := Dev.ctl_same oo (Dev.writeClears_media d line)
@[simp] theorem Dev.writeClears_grp (d) (line) (oo) : (Dev.writeClears d line).grp oo = d.grp oo := Dev.grp_same oo (Dev.writeClears_media d line)
@[simp] theorem Dev.writeClears_qp (d) (line) (oo) : (Dev.writeClears d line).qp oo = d.qp oo := Dev.qp_same oo (Dev.writeClears_lci d line)
@[simp] theorem Dev.writeClears_cmd (d) (line) (oo) : (Dev.writeClears d line).cmd oo = d.cmd oo := Dev.cmd_same oo (Dev.writeClears_lci d line)
@[simp] theorem Dev.writeClears_ent (d) (line) (oo) : (Dev.writeClears d line).ent oo = d.ent oo := Dev.ent_same oo (Dev.writeClears_tracts d line)
@[simp] theorem Dev.writeClears_hdr (d) (line) (oo) : (Dev.writeClears d line).hdr oo = d.hdr oo := Dev.hdr_same oo (Dev.writeClears_tracts d line)
@[simp] theorem Dev.writeClears_phys (d) (line) (oo) (ii) : (Dev.writeClears d line).phys oo ii = d.phys oo ii := Dev.phys_same oo ii (Dev.writeClears_tracts d line)
@[simp] theorem Dev.writeClears_slot (d) (line) (oo) : (Dev.writeClears d line).slot oo = d.slot oo := Dev.slot_same oo (Dev.writeClears_sec d line)
@[simp] theorem Dev.writeClears_schan (d) (line) (oo) : (Dev.writeClears d line).schan oo = d.schan oo := Dev.schan_same oo (Dev.writeClears_str d line)
@[simp] theorem Dev.setStaged_regs (d) (line) (e) : (Dev.setStaged d line e).regs = d.regs := (Dev.setStaged_touches d line e).same .regs (by decide)
@[simp] theorem Dev.setStaged_a (d) (line) (e) : (Dev.setStaged d line e).a = d.a := (Dev.setStaged_touches d line e).same .a (by decide)
@[simp] theorem Dev.setStaged_b (d) (line) (e) : (Dev.setStaged d line e).b = d.b := (Dev.setStaged_touches d line e).same .b (by decide)
@[simp] theorem Dev.setStaged_tether (d) (line) (e) : (Dev.setStaged d line e).tether = d.tether := (Dev.setStaged_touches d line e).same .tether (by decide)
@[simp] theorem Dev.setStaged_launch (d) (line) (e) : (Dev.setStaged d line e).launch = d.launch := (Dev.setStaged_touches d line e).same .launch (by decide)
@[simp] theorem Dev.setStaged_gpio (d) (line) (e) : (Dev.setStaged d line e).gpio = d.gpio := (Dev.setStaged_touches d line e).same .gpio (by decide)
@[simp] theorem Dev.setStaged_keel (d) (line) (e) : (Dev.setStaged d line e).keel = d.keel := (Dev.setStaged_touches d line e).same .keel (by decide)
@[simp] theorem Dev.setStaged_log (d) (line) (e) : (Dev.setStaged d line e).log = d.log := (Dev.setStaged_touches d line e).same .log (by decide)
@[simp] theorem Dev.setStaged_aon (d) (line) (e) : (Dev.setStaged d line e).aon = d.aon := (Dev.setStaged_touches d line e).same .aon (by decide)
@[simp] theorem Dev.setStaged_cores (d) (line) (e) : (Dev.setStaged d line e).cores = d.cores := (Dev.setStaged_touches d line e).same .cores (by decide)
@[simp] theorem Dev.setStaged_sems (d) (line) (e) : (Dev.setStaged d line e).sems = d.sems := (Dev.setStaged_touches d line e).same .sems (by decide)
@[simp] theorem Dev.setStaged_images (d) (line) (e) : (Dev.setStaged d line e).images = d.images := (Dev.setStaged_touches d line e).same .images (by decide)
@[simp] theorem Dev.setStaged_pmc (d) (line) (e) : (Dev.setStaged d line e).pmc = d.pmc := (Dev.setStaged_touches d line e).same .pmc (by decide)
@[simp] theorem Dev.setStaged_bst (d) (line) (e) : (Dev.setStaged d line e).bst = d.bst := (Dev.setStaged_touches d line e).same .bst (by decide)
@[simp] theorem Dev.setStaged_dbg (d) (line) (e) : (Dev.setStaged d line e).dbg = d.dbg := (Dev.setStaged_touches d line e).same .dbg (by decide)
@[simp] theorem Dev.setStaged_cache (d) (line) (e) : (Dev.setStaged d line e).cache = d.cache := (Dev.setStaged_touches d line e).same .cache (by decide)
@[simp] theorem Dev.setStaged_media (d) (line) (e) : (Dev.setStaged d line e).media = d.media := (Dev.setStaged_touches d line e).same .media (by decide)
@[simp] theorem Dev.setStaged_tracts (d) (line) (e) : (Dev.setStaged d line e).tracts = d.tracts := (Dev.setStaged_touches d line e).same .tracts (by decide)
@[simp] theorem Dev.setStaged_drift (d) (line) (e) : (Dev.setStaged d line e).drift = d.drift := (Dev.setStaged_touches d line e).same .drift (by decide)
@[simp] theorem Dev.setStaged_sec (d) (line) (e) : (Dev.setStaged d line e).sec = d.sec := (Dev.setStaged_touches d line e).same .sec (by decide)
@[simp] theorem Dev.setStaged_str (d) (line) (e) : (Dev.setStaged d line e).str = d.str := (Dev.setStaged_touches d line e).same .str (by decide)
@[simp] theorem Dev.setStaged_lci (d) (line) (e) : (Dev.setStaged d line e).lci = d.lci := (Dev.setStaged_touches d line e).same .lci (by decide)
@[simp] theorem Dev.setStaged_pwr (d) (line) (e) : (Dev.setStaged d line e).pwr = d.pwr := (Dev.setStaged_touches d line e).same .pwr (by decide)
@[simp] theorem Dev.setStaged_therm (d) (line) (e) : (Dev.setStaged d line e).therm = d.therm := (Dev.setStaged_touches d line e).same .therm (by decide)
@[simp] theorem Dev.setStaged_out (d) (line) (e) : (Dev.setStaged d line e).out = d.out := (Dev.setStaged_touches d line e).same .out (by decide)
@[simp] theorem Dev.setStaged_fresh (d) (line) (e) : (Dev.setStaged d line e).fresh = d.fresh := (Dev.setStaged_touches d line e).same .fresh (by decide)
@[simp] theorem Dev.setStaged_head (d) (line) (e) (hd) : (Dev.setStaged d line e).head hd = d.head hd := Dev.head_same hd (Dev.setStaged_a d line e) (Dev.setStaged_b d line e)
@[simp] theorem Dev.setStaged_reg (d) (line) (e) (oo) : (Dev.setStaged d line e).reg oo = d.reg oo := Dev.reg_same oo (Dev.setStaged_regs d line e)
@[simp] theorem Dev.setStaged_chan (d) (line) (e) (oo) : (Dev.setStaged d line e).chan oo = d.chan oo := Dev.chan_same oo (Dev.setStaged_media d line e)
@[simp] theorem Dev.setStaged_die (d) (line) (e) (oo) : (Dev.setStaged d line e).die oo = d.die oo := Dev.die_same oo (Dev.setStaged_media d line e)
@[simp] theorem Dev.setStaged_ctl (d) (line) (e) (oo) : (Dev.setStaged d line e).ctl oo = d.ctl oo := Dev.ctl_same oo (Dev.setStaged_media d line e)
@[simp] theorem Dev.setStaged_grp (d) (line) (e) (oo) : (Dev.setStaged d line e).grp oo = d.grp oo := Dev.grp_same oo (Dev.setStaged_media d line e)
@[simp] theorem Dev.setStaged_qp (d) (line) (e) (oo) : (Dev.setStaged d line e).qp oo = d.qp oo := Dev.qp_same oo (Dev.setStaged_lci d line e)
@[simp] theorem Dev.setStaged_cmd (d) (line) (e) (oo) : (Dev.setStaged d line e).cmd oo = d.cmd oo := Dev.cmd_same oo (Dev.setStaged_lci d line e)
@[simp] theorem Dev.setStaged_ent (d) (line) (e) (oo) : (Dev.setStaged d line e).ent oo = d.ent oo := Dev.ent_same oo (Dev.setStaged_tracts d line e)
@[simp] theorem Dev.setStaged_hdr (d) (line) (e) (oo) : (Dev.setStaged d line e).hdr oo = d.hdr oo := Dev.hdr_same oo (Dev.setStaged_tracts d line e)
@[simp] theorem Dev.setStaged_phys (d) (line) (e) (oo) (ii) : (Dev.setStaged d line e).phys oo ii = d.phys oo ii := Dev.phys_same oo ii (Dev.setStaged_tracts d line e)
@[simp] theorem Dev.setStaged_slot (d) (line) (e) (oo) : (Dev.setStaged d line e).slot oo = d.slot oo := Dev.slot_same oo (Dev.setStaged_sec d line e)
@[simp] theorem Dev.setStaged_schan (d) (line) (e) (oo) : (Dev.setStaged d line e).schan oo = d.schan oo := Dev.schan_same oo (Dev.setStaged_str d line e)
@[simp] theorem Dev.setWb_regs (d) (line) (e) : (Dev.setWb d line e).regs = d.regs := (Dev.setWb_touches d line e).same .regs (by decide)
@[simp] theorem Dev.setWb_a (d) (line) (e) : (Dev.setWb d line e).a = d.a := (Dev.setWb_touches d line e).same .a (by decide)
@[simp] theorem Dev.setWb_b (d) (line) (e) : (Dev.setWb d line e).b = d.b := (Dev.setWb_touches d line e).same .b (by decide)
@[simp] theorem Dev.setWb_tether (d) (line) (e) : (Dev.setWb d line e).tether = d.tether := (Dev.setWb_touches d line e).same .tether (by decide)
@[simp] theorem Dev.setWb_launch (d) (line) (e) : (Dev.setWb d line e).launch = d.launch := (Dev.setWb_touches d line e).same .launch (by decide)
@[simp] theorem Dev.setWb_gpio (d) (line) (e) : (Dev.setWb d line e).gpio = d.gpio := (Dev.setWb_touches d line e).same .gpio (by decide)
@[simp] theorem Dev.setWb_keel (d) (line) (e) : (Dev.setWb d line e).keel = d.keel := (Dev.setWb_touches d line e).same .keel (by decide)
@[simp] theorem Dev.setWb_log (d) (line) (e) : (Dev.setWb d line e).log = d.log := (Dev.setWb_touches d line e).same .log (by decide)
@[simp] theorem Dev.setWb_aon (d) (line) (e) : (Dev.setWb d line e).aon = d.aon := (Dev.setWb_touches d line e).same .aon (by decide)
@[simp] theorem Dev.setWb_cores (d) (line) (e) : (Dev.setWb d line e).cores = d.cores := (Dev.setWb_touches d line e).same .cores (by decide)
@[simp] theorem Dev.setWb_sems (d) (line) (e) : (Dev.setWb d line e).sems = d.sems := (Dev.setWb_touches d line e).same .sems (by decide)
@[simp] theorem Dev.setWb_images (d) (line) (e) : (Dev.setWb d line e).images = d.images := (Dev.setWb_touches d line e).same .images (by decide)
@[simp] theorem Dev.setWb_pmc (d) (line) (e) : (Dev.setWb d line e).pmc = d.pmc := (Dev.setWb_touches d line e).same .pmc (by decide)
@[simp] theorem Dev.setWb_bst (d) (line) (e) : (Dev.setWb d line e).bst = d.bst := (Dev.setWb_touches d line e).same .bst (by decide)
@[simp] theorem Dev.setWb_dbg (d) (line) (e) : (Dev.setWb d line e).dbg = d.dbg := (Dev.setWb_touches d line e).same .dbg (by decide)
@[simp] theorem Dev.setWb_cache (d) (line) (e) : (Dev.setWb d line e).cache = d.cache := (Dev.setWb_touches d line e).same .cache (by decide)
@[simp] theorem Dev.setWb_media (d) (line) (e) : (Dev.setWb d line e).media = d.media := (Dev.setWb_touches d line e).same .media (by decide)
@[simp] theorem Dev.setWb_tracts (d) (line) (e) : (Dev.setWb d line e).tracts = d.tracts := (Dev.setWb_touches d line e).same .tracts (by decide)
@[simp] theorem Dev.setWb_drift (d) (line) (e) : (Dev.setWb d line e).drift = d.drift := (Dev.setWb_touches d line e).same .drift (by decide)
@[simp] theorem Dev.setWb_sec (d) (line) (e) : (Dev.setWb d line e).sec = d.sec := (Dev.setWb_touches d line e).same .sec (by decide)
@[simp] theorem Dev.setWb_str (d) (line) (e) : (Dev.setWb d line e).str = d.str := (Dev.setWb_touches d line e).same .str (by decide)
@[simp] theorem Dev.setWb_lci (d) (line) (e) : (Dev.setWb d line e).lci = d.lci := (Dev.setWb_touches d line e).same .lci (by decide)
@[simp] theorem Dev.setWb_pwr (d) (line) (e) : (Dev.setWb d line e).pwr = d.pwr := (Dev.setWb_touches d line e).same .pwr (by decide)
@[simp] theorem Dev.setWb_therm (d) (line) (e) : (Dev.setWb d line e).therm = d.therm := (Dev.setWb_touches d line e).same .therm (by decide)
@[simp] theorem Dev.setWb_out (d) (line) (e) : (Dev.setWb d line e).out = d.out := (Dev.setWb_touches d line e).same .out (by decide)
@[simp] theorem Dev.setWb_fresh (d) (line) (e) : (Dev.setWb d line e).fresh = d.fresh := (Dev.setWb_touches d line e).same .fresh (by decide)
@[simp] theorem Dev.setWb_head (d) (line) (e) (hd) : (Dev.setWb d line e).head hd = d.head hd := Dev.head_same hd (Dev.setWb_a d line e) (Dev.setWb_b d line e)
@[simp] theorem Dev.setWb_reg (d) (line) (e) (oo) : (Dev.setWb d line e).reg oo = d.reg oo := Dev.reg_same oo (Dev.setWb_regs d line e)
@[simp] theorem Dev.setWb_chan (d) (line) (e) (oo) : (Dev.setWb d line e).chan oo = d.chan oo := Dev.chan_same oo (Dev.setWb_media d line e)
@[simp] theorem Dev.setWb_die (d) (line) (e) (oo) : (Dev.setWb d line e).die oo = d.die oo := Dev.die_same oo (Dev.setWb_media d line e)
@[simp] theorem Dev.setWb_ctl (d) (line) (e) (oo) : (Dev.setWb d line e).ctl oo = d.ctl oo := Dev.ctl_same oo (Dev.setWb_media d line e)
@[simp] theorem Dev.setWb_grp (d) (line) (e) (oo) : (Dev.setWb d line e).grp oo = d.grp oo := Dev.grp_same oo (Dev.setWb_media d line e)
@[simp] theorem Dev.setWb_qp (d) (line) (e) (oo) : (Dev.setWb d line e).qp oo = d.qp oo := Dev.qp_same oo (Dev.setWb_lci d line e)
@[simp] theorem Dev.setWb_cmd (d) (line) (e) (oo) : (Dev.setWb d line e).cmd oo = d.cmd oo := Dev.cmd_same oo (Dev.setWb_lci d line e)
@[simp] theorem Dev.setWb_ent (d) (line) (e) (oo) : (Dev.setWb d line e).ent oo = d.ent oo := Dev.ent_same oo (Dev.setWb_tracts d line e)
@[simp] theorem Dev.setWb_hdr (d) (line) (e) (oo) : (Dev.setWb d line e).hdr oo = d.hdr oo := Dev.hdr_same oo (Dev.setWb_tracts d line e)
@[simp] theorem Dev.setWb_phys (d) (line) (e) (oo) (ii) : (Dev.setWb d line e).phys oo ii = d.phys oo ii := Dev.phys_same oo ii (Dev.setWb_tracts d line e)
@[simp] theorem Dev.setWb_slot (d) (line) (e) (oo) : (Dev.setWb d line e).slot oo = d.slot oo := Dev.slot_same oo (Dev.setWb_sec d line e)
@[simp] theorem Dev.setWb_schan (d) (line) (e) (oo) : (Dev.setWb d line e).schan oo = d.schan oo := Dev.schan_same oo (Dev.setWb_str d line e)
@[simp] theorem ackDone_tether (F) (d) (a) : (ackDone F d a).tether = d.tether := (ackDone_touches F d a).same .tether (by decide)
@[simp] theorem ackDone_launch (F) (d) (a) : (ackDone F d a).launch = d.launch := (ackDone_touches F d a).same .launch (by decide)
@[simp] theorem ackDone_gpio (F) (d) (a) : (ackDone F d a).gpio = d.gpio := (ackDone_touches F d a).same .gpio (by decide)
@[simp] theorem ackDone_keel (F) (d) (a) : (ackDone F d a).keel = d.keel := (ackDone_touches F d a).same .keel (by decide)
@[simp] theorem ackDone_log (F) (d) (a) : (ackDone F d a).log = d.log := (ackDone_touches F d a).same .log (by decide)
@[simp] theorem ackDone_aon (F) (d) (a) : (ackDone F d a).aon = d.aon := (ackDone_touches F d a).same .aon (by decide)
@[simp] theorem ackDone_cores (F) (d) (a) : (ackDone F d a).cores = d.cores := (ackDone_touches F d a).same .cores (by decide)
@[simp] theorem ackDone_sems (F) (d) (a) : (ackDone F d a).sems = d.sems := (ackDone_touches F d a).same .sems (by decide)
@[simp] theorem ackDone_images (F) (d) (a) : (ackDone F d a).images = d.images := (ackDone_touches F d a).same .images (by decide)
@[simp] theorem ackDone_bst (F) (d) (a) : (ackDone F d a).bst = d.bst := (ackDone_touches F d a).same .bst (by decide)
@[simp] theorem ackDone_dbg (F) (d) (a) : (ackDone F d a).dbg = d.dbg := (ackDone_touches F d a).same .dbg (by decide)
@[simp] theorem ackDone_gon (F) (d) (a) : (ackDone F d a).gon = d.gon := (ackDone_touches F d a).same .gon (by decide)
@[simp] theorem ackDone_cache (F) (d) (a) : (ackDone F d a).cache = d.cache := (ackDone_touches F d a).same .cache (by decide)
@[simp] theorem ackDone_media (F) (d) (a) : (ackDone F d a).media = d.media := (ackDone_touches F d a).same .media (by decide)
@[simp] theorem ackDone_tracts (F) (d) (a) : (ackDone F d a).tracts = d.tracts := (ackDone_touches F d a).same .tracts (by decide)
@[simp] theorem ackDone_drift (F) (d) (a) : (ackDone F d a).drift = d.drift := (ackDone_touches F d a).same .drift (by decide)
@[simp] theorem ackDone_sec (F) (d) (a) : (ackDone F d a).sec = d.sec := (ackDone_touches F d a).same .sec (by decide)
@[simp] theorem ackDone_lci (F) (d) (a) : (ackDone F d a).lci = d.lci := (ackDone_touches F d a).same .lci (by decide)
@[simp] theorem ackDone_pwr (F) (d) (a) : (ackDone F d a).pwr = d.pwr := (ackDone_touches F d a).same .pwr (by decide)
@[simp] theorem ackDone_therm (F) (d) (a) : (ackDone F d a).therm = d.therm := (ackDone_touches F d a).same .therm (by decide)
@[simp] theorem ackDone_fresh (F) (d) (a) : (ackDone F d a).fresh = d.fresh := (ackDone_touches F d a).same .fresh (by decide)
@[simp] theorem ackDone_chan (F) (d) (a) (oo) : (ackDone F d a).chan oo = d.chan oo := Dev.chan_same oo (ackDone_media F d a)
@[simp] theorem ackDone_die (F) (d) (a) (oo) : (ackDone F d a).die oo = d.die oo := Dev.die_same oo (ackDone_media F d a)
@[simp] theorem ackDone_ctl (F) (d) (a) (oo) : (ackDone F d a).ctl oo = d.ctl oo := Dev.ctl_same oo (ackDone_media F d a)
@[simp] theorem ackDone_grp (F) (d) (a) (oo) : (ackDone F d a).grp oo = d.grp oo := Dev.grp_same oo (ackDone_media F d a)
@[simp] theorem ackDone_qp (F) (d) (a) (oo) : (ackDone F d a).qp oo = d.qp oo := Dev.qp_same oo (ackDone_lci F d a)
@[simp] theorem ackDone_cmd (F) (d) (a) (oo) : (ackDone F d a).cmd oo = d.cmd oo := Dev.cmd_same oo (ackDone_lci F d a)
@[simp] theorem ackDone_ent (F) (d) (a) (oo) : (ackDone F d a).ent oo = d.ent oo := Dev.ent_same oo (ackDone_tracts F d a)
@[simp] theorem ackDone_hdr (F) (d) (a) (oo) : (ackDone F d a).hdr oo = d.hdr oo := Dev.hdr_same oo (ackDone_tracts F d a)
@[simp] theorem ackDone_phys (F) (d) (a) (oo) (ii) : (ackDone F d a).phys oo ii = d.phys oo ii := Dev.phys_same oo ii (ackDone_tracts F d a)
@[simp] theorem ackDone_slot (F) (d) (a) (oo) : (ackDone F d a).slot oo = d.slot oo := Dev.slot_same oo (ackDone_sec F d a)
@[simp] theorem ackAll_tether (F) (d) (l) : (ackAll F d l).tether = d.tether := (ackAll_touches F d l).same .tether (by decide)
@[simp] theorem ackAll_launch (F) (d) (l) : (ackAll F d l).launch = d.launch := (ackAll_touches F d l).same .launch (by decide)
@[simp] theorem ackAll_gpio (F) (d) (l) : (ackAll F d l).gpio = d.gpio := (ackAll_touches F d l).same .gpio (by decide)
@[simp] theorem ackAll_keel (F) (d) (l) : (ackAll F d l).keel = d.keel := (ackAll_touches F d l).same .keel (by decide)
@[simp] theorem ackAll_log (F) (d) (l) : (ackAll F d l).log = d.log := (ackAll_touches F d l).same .log (by decide)
@[simp] theorem ackAll_aon (F) (d) (l) : (ackAll F d l).aon = d.aon := (ackAll_touches F d l).same .aon (by decide)
@[simp] theorem ackAll_cores (F) (d) (l) : (ackAll F d l).cores = d.cores := (ackAll_touches F d l).same .cores (by decide)
@[simp] theorem ackAll_sems (F) (d) (l) : (ackAll F d l).sems = d.sems := (ackAll_touches F d l).same .sems (by decide)
@[simp] theorem ackAll_images (F) (d) (l) : (ackAll F d l).images = d.images := (ackAll_touches F d l).same .images (by decide)
@[simp] theorem ackAll_bst (F) (d) (l) : (ackAll F d l).bst = d.bst := (ackAll_touches F d l).same .bst (by decide)
@[simp] theorem ackAll_dbg (F) (d) (l) : (ackAll F d l).dbg = d.dbg := (ackAll_touches F d l).same .dbg (by decide)
@[simp] theorem ackAll_gon (F) (d) (l) : (ackAll F d l).gon = d.gon := (ackAll_touches F d l).same .gon (by decide)
@[simp] theorem ackAll_cache (F) (d) (l) : (ackAll F d l).cache = d.cache := (ackAll_touches F d l).same .cache (by decide)
@[simp] theorem ackAll_media (F) (d) (l) : (ackAll F d l).media = d.media := (ackAll_touches F d l).same .media (by decide)
@[simp] theorem ackAll_tracts (F) (d) (l) : (ackAll F d l).tracts = d.tracts := (ackAll_touches F d l).same .tracts (by decide)
@[simp] theorem ackAll_drift (F) (d) (l) : (ackAll F d l).drift = d.drift := (ackAll_touches F d l).same .drift (by decide)
@[simp] theorem ackAll_sec (F) (d) (l) : (ackAll F d l).sec = d.sec := (ackAll_touches F d l).same .sec (by decide)
@[simp] theorem ackAll_lci (F) (d) (l) : (ackAll F d l).lci = d.lci := (ackAll_touches F d l).same .lci (by decide)
@[simp] theorem ackAll_pwr (F) (d) (l) : (ackAll F d l).pwr = d.pwr := (ackAll_touches F d l).same .pwr (by decide)
@[simp] theorem ackAll_therm (F) (d) (l) : (ackAll F d l).therm = d.therm := (ackAll_touches F d l).same .therm (by decide)
@[simp] theorem ackAll_fresh (F) (d) (l) : (ackAll F d l).fresh = d.fresh := (ackAll_touches F d l).same .fresh (by decide)
@[simp] theorem ackAll_chan (F) (d) (l) (oo) : (ackAll F d l).chan oo = d.chan oo := Dev.chan_same oo (ackAll_media F d l)
@[simp] theorem ackAll_die (F) (d) (l) (oo) : (ackAll F d l).die oo = d.die oo := Dev.die_same oo (ackAll_media F d l)
@[simp] theorem ackAll_ctl (F) (d) (l) (oo) : (ackAll F d l).ctl oo = d.ctl oo := Dev.ctl_same oo (ackAll_media F d l)
@[simp] theorem ackAll_grp (F) (d) (l) (oo) : (ackAll F d l).grp oo = d.grp oo := Dev.grp_same oo (ackAll_media F d l)
@[simp] theorem ackAll_qp (F) (d) (l) (oo) : (ackAll F d l).qp oo = d.qp oo := Dev.qp_same oo (ackAll_lci F d l)
@[simp] theorem ackAll_cmd (F) (d) (l) (oo) : (ackAll F d l).cmd oo = d.cmd oo := Dev.cmd_same oo (ackAll_lci F d l)
@[simp] theorem ackAll_ent (F) (d) (l) (oo) : (ackAll F d l).ent oo = d.ent oo := Dev.ent_same oo (ackAll_tracts F d l)
@[simp] theorem ackAll_hdr (F) (d) (l) (oo) : (ackAll F d l).hdr oo = d.hdr oo := Dev.hdr_same oo (ackAll_tracts F d l)
@[simp] theorem ackAll_phys (F) (d) (l) (oo) (ii) : (ackAll F d l).phys oo ii = d.phys oo ii := Dev.phys_same oo ii (ackAll_tracts F d l)
@[simp] theorem ackAll_slot (F) (d) (l) (oo) : (ackAll F d l).slot oo = d.slot oo := Dev.slot_same oo (ackAll_sec F d l)
@[simp] theorem partialLoss_tether (F) (d) (line) : (partialLoss F d line).tether = d.tether := (partialLoss_touches F d line).same .tether (by decide)
@[simp] theorem partialLoss_launch (F) (d) (line) : (partialLoss F d line).launch = d.launch := (partialLoss_touches F d line).same .launch (by decide)
@[simp] theorem partialLoss_gpio (F) (d) (line) : (partialLoss F d line).gpio = d.gpio := (partialLoss_touches F d line).same .gpio (by decide)
@[simp] theorem partialLoss_keel (F) (d) (line) : (partialLoss F d line).keel = d.keel := (partialLoss_touches F d line).same .keel (by decide)
@[simp] theorem partialLoss_cores (F) (d) (line) : (partialLoss F d line).cores = d.cores := (partialLoss_touches F d line).same .cores (by decide)
@[simp] theorem partialLoss_sems (F) (d) (line) : (partialLoss F d line).sems = d.sems := (partialLoss_touches F d line).same .sems (by decide)
@[simp] theorem partialLoss_images (F) (d) (line) : (partialLoss F d line).images = d.images := (partialLoss_touches F d line).same .images (by decide)
@[simp] theorem partialLoss_pmc (F) (d) (line) : (partialLoss F d line).pmc = d.pmc := (partialLoss_touches F d line).same .pmc (by decide)
@[simp] theorem partialLoss_bst (F) (d) (line) : (partialLoss F d line).bst = d.bst := (partialLoss_touches F d line).same .bst (by decide)
@[simp] theorem partialLoss_dbg (F) (d) (line) : (partialLoss F d line).dbg = d.dbg := (partialLoss_touches F d line).same .dbg (by decide)
@[simp] theorem partialLoss_gon (F) (d) (line) : (partialLoss F d line).gon = d.gon := (partialLoss_touches F d line).same .gon (by decide)
@[simp] theorem partialLoss_cache (F) (d) (line) : (partialLoss F d line).cache = d.cache := (partialLoss_touches F d line).same .cache (by decide)
@[simp] theorem partialLoss_media (F) (d) (line) : (partialLoss F d line).media = d.media := (partialLoss_touches F d line).same .media (by decide)
@[simp] theorem partialLoss_tracts (F) (d) (line) : (partialLoss F d line).tracts = d.tracts := (partialLoss_touches F d line).same .tracts (by decide)
@[simp] theorem partialLoss_drift (F) (d) (line) : (partialLoss F d line).drift = d.drift := (partialLoss_touches F d line).same .drift (by decide)
@[simp] theorem partialLoss_sec (F) (d) (line) : (partialLoss F d line).sec = d.sec := (partialLoss_touches F d line).same .sec (by decide)
@[simp] theorem partialLoss_str (F) (d) (line) : (partialLoss F d line).str = d.str := (partialLoss_touches F d line).same .str (by decide)
@[simp] theorem partialLoss_lci (F) (d) (line) : (partialLoss F d line).lci = d.lci := (partialLoss_touches F d line).same .lci (by decide)
@[simp] theorem partialLoss_pwr (F) (d) (line) : (partialLoss F d line).pwr = d.pwr := (partialLoss_touches F d line).same .pwr (by decide)
@[simp] theorem partialLoss_therm (F) (d) (line) : (partialLoss F d line).therm = d.therm := (partialLoss_touches F d line).same .therm (by decide)
@[simp] theorem partialLoss_fresh (F) (d) (line) : (partialLoss F d line).fresh = d.fresh := (partialLoss_touches F d line).same .fresh (by decide)
@[simp] theorem partialLoss_chan (F) (d) (line) (oo) : (partialLoss F d line).chan oo = d.chan oo := Dev.chan_same oo (partialLoss_media F d line)
@[simp] theorem partialLoss_die (F) (d) (line) (oo) : (partialLoss F d line).die oo = d.die oo := Dev.die_same oo (partialLoss_media F d line)
@[simp] theorem partialLoss_ctl (F) (d) (line) (oo) : (partialLoss F d line).ctl oo = d.ctl oo := Dev.ctl_same oo (partialLoss_media F d line)
@[simp] theorem partialLoss_grp (F) (d) (line) (oo) : (partialLoss F d line).grp oo = d.grp oo := Dev.grp_same oo (partialLoss_media F d line)
@[simp] theorem partialLoss_qp (F) (d) (line) (oo) : (partialLoss F d line).qp oo = d.qp oo := Dev.qp_same oo (partialLoss_lci F d line)
@[simp] theorem partialLoss_cmd (F) (d) (line) (oo) : (partialLoss F d line).cmd oo = d.cmd oo := Dev.cmd_same oo (partialLoss_lci F d line)
@[simp] theorem partialLoss_ent (F) (d) (line) (oo) : (partialLoss F d line).ent oo = d.ent oo := Dev.ent_same oo (partialLoss_tracts F d line)
@[simp] theorem partialLoss_hdr (F) (d) (line) (oo) : (partialLoss F d line).hdr oo = d.hdr oo := Dev.hdr_same oo (partialLoss_tracts F d line)
@[simp] theorem partialLoss_phys (F) (d) (line) (oo) (ii) : (partialLoss F d line).phys oo ii = d.phys oo ii := Dev.phys_same oo ii (partialLoss_tracts F d line)
@[simp] theorem partialLoss_slot (F) (d) (line) (oo) : (partialLoss F d line).slot oo = d.slot oo := Dev.slot_same oo (partialLoss_sec F d line)
@[simp] theorem partialLoss_schan (F) (d) (line) (oo) : (partialLoss F d line).schan oo = d.schan oo := Dev.schan_same oo (partialLoss_str F d line)
@[simp] theorem Dev.gpfSettle_regs (d) : (Dev.gpfSettle d).regs = d.regs := (Dev.gpfSettle_touches d).same .regs (by decide)
@[simp] theorem Dev.gpfSettle_a (d) : (Dev.gpfSettle d).a = d.a := (Dev.gpfSettle_touches d).same .a (by decide)
@[simp] theorem Dev.gpfSettle_b (d) : (Dev.gpfSettle d).b = d.b := (Dev.gpfSettle_touches d).same .b (by decide)
@[simp] theorem Dev.gpfSettle_tether (d) : (Dev.gpfSettle d).tether = d.tether := (Dev.gpfSettle_touches d).same .tether (by decide)
@[simp] theorem Dev.gpfSettle_launch (d) : (Dev.gpfSettle d).launch = d.launch := (Dev.gpfSettle_touches d).same .launch (by decide)
@[simp] theorem Dev.gpfSettle_gpio (d) : (Dev.gpfSettle d).gpio = d.gpio := (Dev.gpfSettle_touches d).same .gpio (by decide)
@[simp] theorem Dev.gpfSettle_keel (d) : (Dev.gpfSettle d).keel = d.keel := (Dev.gpfSettle_touches d).same .keel (by decide)
@[simp] theorem Dev.gpfSettle_log (d) : (Dev.gpfSettle d).log = d.log := (Dev.gpfSettle_touches d).same .log (by decide)
@[simp] theorem Dev.gpfSettle_aon (d) : (Dev.gpfSettle d).aon = d.aon := (Dev.gpfSettle_touches d).same .aon (by decide)
@[simp] theorem Dev.gpfSettle_cores (d) : (Dev.gpfSettle d).cores = d.cores := (Dev.gpfSettle_touches d).same .cores (by decide)
@[simp] theorem Dev.gpfSettle_sems (d) : (Dev.gpfSettle d).sems = d.sems := (Dev.gpfSettle_touches d).same .sems (by decide)
@[simp] theorem Dev.gpfSettle_images (d) : (Dev.gpfSettle d).images = d.images := (Dev.gpfSettle_touches d).same .images (by decide)
@[simp] theorem Dev.gpfSettle_pmc (d) : (Dev.gpfSettle d).pmc = d.pmc := (Dev.gpfSettle_touches d).same .pmc (by decide)
@[simp] theorem Dev.gpfSettle_bst (d) : (Dev.gpfSettle d).bst = d.bst := (Dev.gpfSettle_touches d).same .bst (by decide)
@[simp] theorem Dev.gpfSettle_dbg (d) : (Dev.gpfSettle d).dbg = d.dbg := (Dev.gpfSettle_touches d).same .dbg (by decide)
@[simp] theorem Dev.gpfSettle_cache (d) : (Dev.gpfSettle d).cache = d.cache := (Dev.gpfSettle_touches d).same .cache (by decide)
@[simp] theorem Dev.gpfSettle_media (d) : (Dev.gpfSettle d).media = d.media := (Dev.gpfSettle_touches d).same .media (by decide)
@[simp] theorem Dev.gpfSettle_tracts (d) : (Dev.gpfSettle d).tracts = d.tracts := (Dev.gpfSettle_touches d).same .tracts (by decide)
@[simp] theorem Dev.gpfSettle_drift (d) : (Dev.gpfSettle d).drift = d.drift := (Dev.gpfSettle_touches d).same .drift (by decide)
@[simp] theorem Dev.gpfSettle_sec (d) : (Dev.gpfSettle d).sec = d.sec := (Dev.gpfSettle_touches d).same .sec (by decide)
@[simp] theorem Dev.gpfSettle_str (d) : (Dev.gpfSettle d).str = d.str := (Dev.gpfSettle_touches d).same .str (by decide)
@[simp] theorem Dev.gpfSettle_lci (d) : (Dev.gpfSettle d).lci = d.lci := (Dev.gpfSettle_touches d).same .lci (by decide)
@[simp] theorem Dev.gpfSettle_pwr (d) : (Dev.gpfSettle d).pwr = d.pwr := (Dev.gpfSettle_touches d).same .pwr (by decide)
@[simp] theorem Dev.gpfSettle_therm (d) : (Dev.gpfSettle d).therm = d.therm := (Dev.gpfSettle_touches d).same .therm (by decide)
@[simp] theorem Dev.gpfSettle_fresh (d) : (Dev.gpfSettle d).fresh = d.fresh := (Dev.gpfSettle_touches d).same .fresh (by decide)
@[simp] theorem Dev.gpfSettle_head (d) (hd) : (Dev.gpfSettle d).head hd = d.head hd := Dev.head_same hd (Dev.gpfSettle_a d) (Dev.gpfSettle_b d)
@[simp] theorem Dev.gpfSettle_reg (d) (oo) : (Dev.gpfSettle d).reg oo = d.reg oo := Dev.reg_same oo (Dev.gpfSettle_regs d)
@[simp] theorem Dev.gpfSettle_chan (d) (oo) : (Dev.gpfSettle d).chan oo = d.chan oo := Dev.chan_same oo (Dev.gpfSettle_media d)
@[simp] theorem Dev.gpfSettle_die (d) (oo) : (Dev.gpfSettle d).die oo = d.die oo := Dev.die_same oo (Dev.gpfSettle_media d)
@[simp] theorem Dev.gpfSettle_ctl (d) (oo) : (Dev.gpfSettle d).ctl oo = d.ctl oo := Dev.ctl_same oo (Dev.gpfSettle_media d)
@[simp] theorem Dev.gpfSettle_grp (d) (oo) : (Dev.gpfSettle d).grp oo = d.grp oo := Dev.grp_same oo (Dev.gpfSettle_media d)
@[simp] theorem Dev.gpfSettle_qp (d) (oo) : (Dev.gpfSettle d).qp oo = d.qp oo := Dev.qp_same oo (Dev.gpfSettle_lci d)
@[simp] theorem Dev.gpfSettle_cmd (d) (oo) : (Dev.gpfSettle d).cmd oo = d.cmd oo := Dev.cmd_same oo (Dev.gpfSettle_lci d)
@[simp] theorem Dev.gpfSettle_ent (d) (oo) : (Dev.gpfSettle d).ent oo = d.ent oo := Dev.ent_same oo (Dev.gpfSettle_tracts d)
@[simp] theorem Dev.gpfSettle_hdr (d) (oo) : (Dev.gpfSettle d).hdr oo = d.hdr oo := Dev.hdr_same oo (Dev.gpfSettle_tracts d)
@[simp] theorem Dev.gpfSettle_phys (d) (oo) (ii) : (Dev.gpfSettle d).phys oo ii = d.phys oo ii := Dev.phys_same oo ii (Dev.gpfSettle_tracts d)
@[simp] theorem Dev.gpfSettle_slot (d) (oo) : (Dev.gpfSettle d).slot oo = d.slot oo := Dev.slot_same oo (Dev.gpfSettle_sec d)
@[simp] theorem Dev.gpfSettle_schan (d) (oo) : (Dev.gpfSettle d).schan oo = d.schan oo := Dev.schan_same oo (Dev.gpfSettle_str d)
@[simp] theorem Dev.passOrder_regs (d) (line) (rewrite) : (Dev.passOrder d line rewrite).regs = d.regs := (Dev.passOrder_touches d line rewrite).same .regs (by decide)
@[simp] theorem Dev.passOrder_a (d) (line) (rewrite) : (Dev.passOrder d line rewrite).a = d.a := (Dev.passOrder_touches d line rewrite).same .a (by decide)
@[simp] theorem Dev.passOrder_b (d) (line) (rewrite) : (Dev.passOrder d line rewrite).b = d.b := (Dev.passOrder_touches d line rewrite).same .b (by decide)
@[simp] theorem Dev.passOrder_tether (d) (line) (rewrite) : (Dev.passOrder d line rewrite).tether = d.tether := (Dev.passOrder_touches d line rewrite).same .tether (by decide)
@[simp] theorem Dev.passOrder_launch (d) (line) (rewrite) : (Dev.passOrder d line rewrite).launch = d.launch := (Dev.passOrder_touches d line rewrite).same .launch (by decide)
@[simp] theorem Dev.passOrder_gpio (d) (line) (rewrite) : (Dev.passOrder d line rewrite).gpio = d.gpio := (Dev.passOrder_touches d line rewrite).same .gpio (by decide)
@[simp] theorem Dev.passOrder_log (d) (line) (rewrite) : (Dev.passOrder d line rewrite).log = d.log := (Dev.passOrder_touches d line rewrite).same .log (by decide)
@[simp] theorem Dev.passOrder_aon (d) (line) (rewrite) : (Dev.passOrder d line rewrite).aon = d.aon := (Dev.passOrder_touches d line rewrite).same .aon (by decide)
@[simp] theorem Dev.passOrder_cores (d) (line) (rewrite) : (Dev.passOrder d line rewrite).cores = d.cores := (Dev.passOrder_touches d line rewrite).same .cores (by decide)
@[simp] theorem Dev.passOrder_sems (d) (line) (rewrite) : (Dev.passOrder d line rewrite).sems = d.sems := (Dev.passOrder_touches d line rewrite).same .sems (by decide)
@[simp] theorem Dev.passOrder_images (d) (line) (rewrite) : (Dev.passOrder d line rewrite).images = d.images := (Dev.passOrder_touches d line rewrite).same .images (by decide)
@[simp] theorem Dev.passOrder_pmc (d) (line) (rewrite) : (Dev.passOrder d line rewrite).pmc = d.pmc := (Dev.passOrder_touches d line rewrite).same .pmc (by decide)
@[simp] theorem Dev.passOrder_bst (d) (line) (rewrite) : (Dev.passOrder d line rewrite).bst = d.bst := (Dev.passOrder_touches d line rewrite).same .bst (by decide)
@[simp] theorem Dev.passOrder_dbg (d) (line) (rewrite) : (Dev.passOrder d line rewrite).dbg = d.dbg := (Dev.passOrder_touches d line rewrite).same .dbg (by decide)
@[simp] theorem Dev.passOrder_gon (d) (line) (rewrite) : (Dev.passOrder d line rewrite).gon = d.gon := (Dev.passOrder_touches d line rewrite).same .gon (by decide)
@[simp] theorem Dev.passOrder_media (d) (line) (rewrite) : (Dev.passOrder d line rewrite).media = d.media := (Dev.passOrder_touches d line rewrite).same .media (by decide)
@[simp] theorem Dev.passOrder_tracts (d) (line) (rewrite) : (Dev.passOrder d line rewrite).tracts = d.tracts := (Dev.passOrder_touches d line rewrite).same .tracts (by decide)
@[simp] theorem Dev.passOrder_sec (d) (line) (rewrite) : (Dev.passOrder d line rewrite).sec = d.sec := (Dev.passOrder_touches d line rewrite).same .sec (by decide)
@[simp] theorem Dev.passOrder_str (d) (line) (rewrite) : (Dev.passOrder d line rewrite).str = d.str := (Dev.passOrder_touches d line rewrite).same .str (by decide)
@[simp] theorem Dev.passOrder_lci (d) (line) (rewrite) : (Dev.passOrder d line rewrite).lci = d.lci := (Dev.passOrder_touches d line rewrite).same .lci (by decide)
@[simp] theorem Dev.passOrder_pwr (d) (line) (rewrite) : (Dev.passOrder d line rewrite).pwr = d.pwr := (Dev.passOrder_touches d line rewrite).same .pwr (by decide)
@[simp] theorem Dev.passOrder_therm (d) (line) (rewrite) : (Dev.passOrder d line rewrite).therm = d.therm := (Dev.passOrder_touches d line rewrite).same .therm (by decide)
@[simp] theorem Dev.passOrder_out (d) (line) (rewrite) : (Dev.passOrder d line rewrite).out = d.out := (Dev.passOrder_touches d line rewrite).same .out (by decide)
@[simp] theorem Dev.passOrder_fresh (d) (line) (rewrite) : (Dev.passOrder d line rewrite).fresh = d.fresh := (Dev.passOrder_touches d line rewrite).same .fresh (by decide)
@[simp] theorem Dev.passOrder_head (d) (line) (rewrite) (hd) : (Dev.passOrder d line rewrite).head hd = d.head hd := Dev.head_same hd (Dev.passOrder_a d line rewrite) (Dev.passOrder_b d line rewrite)
@[simp] theorem Dev.passOrder_reg (d) (line) (rewrite) (oo) : (Dev.passOrder d line rewrite).reg oo = d.reg oo := Dev.reg_same oo (Dev.passOrder_regs d line rewrite)
@[simp] theorem Dev.passOrder_chan (d) (line) (rewrite) (oo) : (Dev.passOrder d line rewrite).chan oo = d.chan oo := Dev.chan_same oo (Dev.passOrder_media d line rewrite)
@[simp] theorem Dev.passOrder_die (d) (line) (rewrite) (oo) : (Dev.passOrder d line rewrite).die oo = d.die oo := Dev.die_same oo (Dev.passOrder_media d line rewrite)
@[simp] theorem Dev.passOrder_ctl (d) (line) (rewrite) (oo) : (Dev.passOrder d line rewrite).ctl oo = d.ctl oo := Dev.ctl_same oo (Dev.passOrder_media d line rewrite)
@[simp] theorem Dev.passOrder_grp (d) (line) (rewrite) (oo) : (Dev.passOrder d line rewrite).grp oo = d.grp oo := Dev.grp_same oo (Dev.passOrder_media d line rewrite)
@[simp] theorem Dev.passOrder_qp (d) (line) (rewrite) (oo) : (Dev.passOrder d line rewrite).qp oo = d.qp oo := Dev.qp_same oo (Dev.passOrder_lci d line rewrite)
@[simp] theorem Dev.passOrder_cmd (d) (line) (rewrite) (oo) : (Dev.passOrder d line rewrite).cmd oo = d.cmd oo := Dev.cmd_same oo (Dev.passOrder_lci d line rewrite)
@[simp] theorem Dev.passOrder_ent (d) (line) (rewrite) (oo) : (Dev.passOrder d line rewrite).ent oo = d.ent oo := Dev.ent_same oo (Dev.passOrder_tracts d line rewrite)
@[simp] theorem Dev.passOrder_hdr (d) (line) (rewrite) (oo) : (Dev.passOrder d line rewrite).hdr oo = d.hdr oo := Dev.hdr_same oo (Dev.passOrder_tracts d line rewrite)
@[simp] theorem Dev.passOrder_phys (d) (line) (rewrite) (oo) (ii) : (Dev.passOrder d line rewrite).phys oo ii = d.phys oo ii := Dev.phys_same oo ii (Dev.passOrder_tracts d line rewrite)
@[simp] theorem Dev.passOrder_slot (d) (line) (rewrite) (oo) : (Dev.passOrder d line rewrite).slot oo = d.slot oo := Dev.slot_same oo (Dev.passOrder_sec d line rewrite)
@[simp] theorem Dev.passOrder_schan (d) (line) (rewrite) (oo) : (Dev.passOrder d line rewrite).schan oo = d.schan oo := Dev.schan_same oo (Dev.passOrder_str d line rewrite)
@[simp] theorem stageWrite_tether (F) (w) (pre) (d1) : (stageWrite F w pre d1).tether = d1.tether := (stageWrite_touches F w pre d1).same .tether (by decide)
@[simp] theorem stageWrite_launch (F) (w) (pre) (d1) : (stageWrite F w pre d1).launch = d1.launch := (stageWrite_touches F w pre d1).same .launch (by decide)
@[simp] theorem stageWrite_gpio (F) (w) (pre) (d1) : (stageWrite F w pre d1).gpio = d1.gpio := (stageWrite_touches F w pre d1).same .gpio (by decide)
@[simp] theorem stageWrite_keel (F) (w) (pre) (d1) : (stageWrite F w pre d1).keel = d1.keel := (stageWrite_touches F w pre d1).same .keel (by decide)
@[simp] theorem stageWrite_cores (F) (w) (pre) (d1) : (stageWrite F w pre d1).cores = d1.cores := (stageWrite_touches F w pre d1).same .cores (by decide)
@[simp] theorem stageWrite_sems (F) (w) (pre) (d1) : (stageWrite F w pre d1).sems = d1.sems := (stageWrite_touches F w pre d1).same .sems (by decide)
@[simp] theorem stageWrite_images (F) (w) (pre) (d1) : (stageWrite F w pre d1).images = d1.images := (stageWrite_touches F w pre d1).same .images (by decide)
@[simp] theorem stageWrite_bst (F) (w) (pre) (d1) : (stageWrite F w pre d1).bst = d1.bst := (stageWrite_touches F w pre d1).same .bst (by decide)
@[simp] theorem stageWrite_dbg (F) (w) (pre) (d1) : (stageWrite F w pre d1).dbg = d1.dbg := (stageWrite_touches F w pre d1).same .dbg (by decide)
@[simp] theorem stageWrite_cache (F) (w) (pre) (d1) : (stageWrite F w pre d1).cache = d1.cache := (stageWrite_touches F w pre d1).same .cache (by decide)
@[simp] theorem stageWrite_media (F) (w) (pre) (d1) : (stageWrite F w pre d1).media = d1.media := (stageWrite_touches F w pre d1).same .media (by decide)
@[simp] theorem stageWrite_tracts (F) (w) (pre) (d1) : (stageWrite F w pre d1).tracts = d1.tracts := (stageWrite_touches F w pre d1).same .tracts (by decide)
@[simp] theorem stageWrite_drift (F) (w) (pre) (d1) : (stageWrite F w pre d1).drift = d1.drift := (stageWrite_touches F w pre d1).same .drift (by decide)
@[simp] theorem stageWrite_sec (F) (w) (pre) (d1) : (stageWrite F w pre d1).sec = d1.sec := (stageWrite_touches F w pre d1).same .sec (by decide)
@[simp] theorem stageWrite_lci (F) (w) (pre) (d1) : (stageWrite F w pre d1).lci = d1.lci := (stageWrite_touches F w pre d1).same .lci (by decide)
@[simp] theorem stageWrite_pwr (F) (w) (pre) (d1) : (stageWrite F w pre d1).pwr = d1.pwr := (stageWrite_touches F w pre d1).same .pwr (by decide)
@[simp] theorem stageWrite_therm (F) (w) (pre) (d1) : (stageWrite F w pre d1).therm = d1.therm := (stageWrite_touches F w pre d1).same .therm (by decide)
@[simp] theorem stageWrite_fresh (F) (w) (pre) (d1) : (stageWrite F w pre d1).fresh = d1.fresh := (stageWrite_touches F w pre d1).same .fresh (by decide)
@[simp] theorem stageWrite_chan (F) (w) (pre) (d1) (oo) : (stageWrite F w pre d1).chan oo = d1.chan oo := Dev.chan_same oo (stageWrite_media F w pre d1)
@[simp] theorem stageWrite_die (F) (w) (pre) (d1) (oo) : (stageWrite F w pre d1).die oo = d1.die oo := Dev.die_same oo (stageWrite_media F w pre d1)
@[simp] theorem stageWrite_ctl (F) (w) (pre) (d1) (oo) : (stageWrite F w pre d1).ctl oo = d1.ctl oo := Dev.ctl_same oo (stageWrite_media F w pre d1)
@[simp] theorem stageWrite_grp (F) (w) (pre) (d1) (oo) : (stageWrite F w pre d1).grp oo = d1.grp oo := Dev.grp_same oo (stageWrite_media F w pre d1)
@[simp] theorem stageWrite_qp (F) (w) (pre) (d1) (oo) : (stageWrite F w pre d1).qp oo = d1.qp oo := Dev.qp_same oo (stageWrite_lci F w pre d1)
@[simp] theorem stageWrite_cmd (F) (w) (pre) (d1) (oo) : (stageWrite F w pre d1).cmd oo = d1.cmd oo := Dev.cmd_same oo (stageWrite_lci F w pre d1)
@[simp] theorem stageWrite_ent (F) (w) (pre) (d1) (oo) : (stageWrite F w pre d1).ent oo = d1.ent oo := Dev.ent_same oo (stageWrite_tracts F w pre d1)
@[simp] theorem stageWrite_hdr (F) (w) (pre) (d1) (oo) : (stageWrite F w pre d1).hdr oo = d1.hdr oo := Dev.hdr_same oo (stageWrite_tracts F w pre d1)
@[simp] theorem stageWrite_phys (F) (w) (pre) (d1) (oo) (ii) : (stageWrite F w pre d1).phys oo ii = d1.phys oo ii := Dev.phys_same oo ii (stageWrite_tracts F w pre d1)
@[simp] theorem stageWrite_slot (F) (w) (pre) (d1) (oo) : (stageWrite F w pre d1).slot oo = d1.slot oo := Dev.slot_same oo (stageWrite_sec F w pre d1)
@[simp] theorem acceptWrite_tether (F) (d) (w) : (acceptWrite F d w).tether = d.tether := (acceptWrite_touches F d w).same .tether (by decide)
@[simp] theorem acceptWrite_launch (F) (d) (w) : (acceptWrite F d w).launch = d.launch := (acceptWrite_touches F d w).same .launch (by decide)
@[simp] theorem acceptWrite_gpio (F) (d) (w) : (acceptWrite F d w).gpio = d.gpio := (acceptWrite_touches F d w).same .gpio (by decide)
@[simp] theorem acceptWrite_cores (F) (d) (w) : (acceptWrite F d w).cores = d.cores := (acceptWrite_touches F d w).same .cores (by decide)
@[simp] theorem acceptWrite_sems (F) (d) (w) : (acceptWrite F d w).sems = d.sems := (acceptWrite_touches F d w).same .sems (by decide)
@[simp] theorem acceptWrite_images (F) (d) (w) : (acceptWrite F d w).images = d.images := (acceptWrite_touches F d w).same .images (by decide)
@[simp] theorem acceptWrite_bst (F) (d) (w) : (acceptWrite F d w).bst = d.bst := (acceptWrite_touches F d w).same .bst (by decide)
@[simp] theorem acceptWrite_dbg (F) (d) (w) : (acceptWrite F d w).dbg = d.dbg := (acceptWrite_touches F d w).same .dbg (by decide)
@[simp] theorem acceptWrite_media (F) (d) (w) : (acceptWrite F d w).media = d.media := (acceptWrite_touches F d w).same .media (by decide)
@[simp] theorem acceptWrite_tracts (F) (d) (w) : (acceptWrite F d w).tracts = d.tracts := (acceptWrite_touches F d w).same .tracts (by decide)
@[simp] theorem acceptWrite_sec (F) (d) (w) : (acceptWrite F d w).sec = d.sec := (acceptWrite_touches F d w).same .sec (by decide)
@[simp] theorem acceptWrite_lci (F) (d) (w) : (acceptWrite F d w).lci = d.lci := (acceptWrite_touches F d w).same .lci (by decide)
@[simp] theorem acceptWrite_pwr (F) (d) (w) : (acceptWrite F d w).pwr = d.pwr := (acceptWrite_touches F d w).same .pwr (by decide)
@[simp] theorem acceptWrite_therm (F) (d) (w) : (acceptWrite F d w).therm = d.therm := (acceptWrite_touches F d w).same .therm (by decide)
@[simp] theorem acceptWrite_fresh (F) (d) (w) : (acceptWrite F d w).fresh = d.fresh := (acceptWrite_touches F d w).same .fresh (by decide)
@[simp] theorem acceptWrite_chan (F) (d) (w) (oo) : (acceptWrite F d w).chan oo = d.chan oo := Dev.chan_same oo (acceptWrite_media F d w)
@[simp] theorem acceptWrite_die (F) (d) (w) (oo) : (acceptWrite F d w).die oo = d.die oo := Dev.die_same oo (acceptWrite_media F d w)
@[simp] theorem acceptWrite_ctl (F) (d) (w) (oo) : (acceptWrite F d w).ctl oo = d.ctl oo := Dev.ctl_same oo (acceptWrite_media F d w)
@[simp] theorem acceptWrite_grp (F) (d) (w) (oo) : (acceptWrite F d w).grp oo = d.grp oo := Dev.grp_same oo (acceptWrite_media F d w)
@[simp] theorem acceptWrite_qp (F) (d) (w) (oo) : (acceptWrite F d w).qp oo = d.qp oo := Dev.qp_same oo (acceptWrite_lci F d w)
@[simp] theorem acceptWrite_cmd (F) (d) (w) (oo) : (acceptWrite F d w).cmd oo = d.cmd oo := Dev.cmd_same oo (acceptWrite_lci F d w)
@[simp] theorem acceptWrite_ent (F) (d) (w) (oo) : (acceptWrite F d w).ent oo = d.ent oo := Dev.ent_same oo (acceptWrite_tracts F d w)
@[simp] theorem acceptWrite_hdr (F) (d) (w) (oo) : (acceptWrite F d w).hdr oo = d.hdr oo := Dev.hdr_same oo (acceptWrite_tracts F d w)
@[simp] theorem acceptWrite_phys (F) (d) (w) (oo) (ii) : (acceptWrite F d w).phys oo ii = d.phys oo ii := Dev.phys_same oo ii (acceptWrite_tracts F d w)
@[simp] theorem acceptWrite_slot (F) (d) (w) (oo) : (acceptWrite F d w).slot oo = d.slot oo := Dev.slot_same oo (acceptWrite_sec F d w)
@[simp] theorem Dev.setDie_regs (d) (m) (x) : (Dev.setDie d m x).regs = d.regs := (Dev.setDie_touches d m x).same .regs (by decide)
@[simp] theorem Dev.setDie_a (d) (m) (x) : (Dev.setDie d m x).a = d.a := (Dev.setDie_touches d m x).same .a (by decide)
@[simp] theorem Dev.setDie_b (d) (m) (x) : (Dev.setDie d m x).b = d.b := (Dev.setDie_touches d m x).same .b (by decide)
@[simp] theorem Dev.setDie_tether (d) (m) (x) : (Dev.setDie d m x).tether = d.tether := (Dev.setDie_touches d m x).same .tether (by decide)
@[simp] theorem Dev.setDie_launch (d) (m) (x) : (Dev.setDie d m x).launch = d.launch := (Dev.setDie_touches d m x).same .launch (by decide)
@[simp] theorem Dev.setDie_gpio (d) (m) (x) : (Dev.setDie d m x).gpio = d.gpio := (Dev.setDie_touches d m x).same .gpio (by decide)
@[simp] theorem Dev.setDie_keel (d) (m) (x) : (Dev.setDie d m x).keel = d.keel := (Dev.setDie_touches d m x).same .keel (by decide)
@[simp] theorem Dev.setDie_log (d) (m) (x) : (Dev.setDie d m x).log = d.log := (Dev.setDie_touches d m x).same .log (by decide)
@[simp] theorem Dev.setDie_aon (d) (m) (x) : (Dev.setDie d m x).aon = d.aon := (Dev.setDie_touches d m x).same .aon (by decide)
@[simp] theorem Dev.setDie_cores (d) (m) (x) : (Dev.setDie d m x).cores = d.cores := (Dev.setDie_touches d m x).same .cores (by decide)
@[simp] theorem Dev.setDie_sems (d) (m) (x) : (Dev.setDie d m x).sems = d.sems := (Dev.setDie_touches d m x).same .sems (by decide)
@[simp] theorem Dev.setDie_images (d) (m) (x) : (Dev.setDie d m x).images = d.images := (Dev.setDie_touches d m x).same .images (by decide)
@[simp] theorem Dev.setDie_pmc (d) (m) (x) : (Dev.setDie d m x).pmc = d.pmc := (Dev.setDie_touches d m x).same .pmc (by decide)
@[simp] theorem Dev.setDie_bst (d) (m) (x) : (Dev.setDie d m x).bst = d.bst := (Dev.setDie_touches d m x).same .bst (by decide)
@[simp] theorem Dev.setDie_dbg (d) (m) (x) : (Dev.setDie d m x).dbg = d.dbg := (Dev.setDie_touches d m x).same .dbg (by decide)
@[simp] theorem Dev.setDie_gon (d) (m) (x) : (Dev.setDie d m x).gon = d.gon := (Dev.setDie_touches d m x).same .gon (by decide)
@[simp] theorem Dev.setDie_cache (d) (m) (x) : (Dev.setDie d m x).cache = d.cache := (Dev.setDie_touches d m x).same .cache (by decide)
@[simp] theorem Dev.setDie_tracts (d) (m) (x) : (Dev.setDie d m x).tracts = d.tracts := (Dev.setDie_touches d m x).same .tracts (by decide)
@[simp] theorem Dev.setDie_drift (d) (m) (x) : (Dev.setDie d m x).drift = d.drift := (Dev.setDie_touches d m x).same .drift (by decide)
@[simp] theorem Dev.setDie_sec (d) (m) (x) : (Dev.setDie d m x).sec = d.sec := (Dev.setDie_touches d m x).same .sec (by decide)
@[simp] theorem Dev.setDie_str (d) (m) (x) : (Dev.setDie d m x).str = d.str := (Dev.setDie_touches d m x).same .str (by decide)
@[simp] theorem Dev.setDie_lci (d) (m) (x) : (Dev.setDie d m x).lci = d.lci := (Dev.setDie_touches d m x).same .lci (by decide)
@[simp] theorem Dev.setDie_pwr (d) (m) (x) : (Dev.setDie d m x).pwr = d.pwr := (Dev.setDie_touches d m x).same .pwr (by decide)
@[simp] theorem Dev.setDie_therm (d) (m) (x) : (Dev.setDie d m x).therm = d.therm := (Dev.setDie_touches d m x).same .therm (by decide)
@[simp] theorem Dev.setDie_out (d) (m) (x) : (Dev.setDie d m x).out = d.out := (Dev.setDie_touches d m x).same .out (by decide)
@[simp] theorem Dev.setDie_fresh (d) (m) (x) : (Dev.setDie d m x).fresh = d.fresh := (Dev.setDie_touches d m x).same .fresh (by decide)
@[simp] theorem Dev.setDie_head (d) (m) (x) (hd) : (Dev.setDie d m x).head hd = d.head hd := Dev.head_same hd (Dev.setDie_a d m x) (Dev.setDie_b d m x)
@[simp] theorem Dev.setDie_reg (d) (m) (x) (oo) : (Dev.setDie d m x).reg oo = d.reg oo := Dev.reg_same oo (Dev.setDie_regs d m x)
@[simp] theorem Dev.setDie_qp (d) (m) (x) (oo) : (Dev.setDie d m x).qp oo = d.qp oo := Dev.qp_same oo (Dev.setDie_lci d m x)
@[simp] theorem Dev.setDie_cmd (d) (m) (x) (oo) : (Dev.setDie d m x).cmd oo = d.cmd oo := Dev.cmd_same oo (Dev.setDie_lci d m x)
@[simp] theorem Dev.setDie_ent (d) (m) (x) (oo) : (Dev.setDie d m x).ent oo = d.ent oo := Dev.ent_same oo (Dev.setDie_tracts d m x)
@[simp] theorem Dev.setDie_hdr (d) (m) (x) (oo) : (Dev.setDie d m x).hdr oo = d.hdr oo := Dev.hdr_same oo (Dev.setDie_tracts d m x)
@[simp] theorem Dev.setDie_phys (d) (m) (x) (oo) (ii) : (Dev.setDie d m x).phys oo ii = d.phys oo ii := Dev.phys_same oo ii (Dev.setDie_tracts d m x)
@[simp] theorem Dev.setDie_slot (d) (m) (x) (oo) : (Dev.setDie d m x).slot oo = d.slot oo := Dev.slot_same oo (Dev.setDie_sec d m x)
@[simp] theorem Dev.setDie_schan (d) (m) (x) (oo) : (Dev.setDie d m x).schan oo = d.schan oo := Dev.schan_same oo (Dev.setDie_str d m x)
@[simp] theorem Dev.setCtl_regs (d) (m) (x) : (Dev.setCtl d m x).regs = d.regs := (Dev.setCtl_touches d m x).same .regs (by decide)
@[simp] theorem Dev.setCtl_a (d) (m) (x) : (Dev.setCtl d m x).a = d.a := (Dev.setCtl_touches d m x).same .a (by decide)
@[simp] theorem Dev.setCtl_b (d) (m) (x) : (Dev.setCtl d m x).b = d.b := (Dev.setCtl_touches d m x).same .b (by decide)
@[simp] theorem Dev.setCtl_tether (d) (m) (x) : (Dev.setCtl d m x).tether = d.tether := (Dev.setCtl_touches d m x).same .tether (by decide)
@[simp] theorem Dev.setCtl_launch (d) (m) (x) : (Dev.setCtl d m x).launch = d.launch := (Dev.setCtl_touches d m x).same .launch (by decide)
@[simp] theorem Dev.setCtl_gpio (d) (m) (x) : (Dev.setCtl d m x).gpio = d.gpio := (Dev.setCtl_touches d m x).same .gpio (by decide)
@[simp] theorem Dev.setCtl_keel (d) (m) (x) : (Dev.setCtl d m x).keel = d.keel := (Dev.setCtl_touches d m x).same .keel (by decide)
@[simp] theorem Dev.setCtl_log (d) (m) (x) : (Dev.setCtl d m x).log = d.log := (Dev.setCtl_touches d m x).same .log (by decide)
@[simp] theorem Dev.setCtl_aon (d) (m) (x) : (Dev.setCtl d m x).aon = d.aon := (Dev.setCtl_touches d m x).same .aon (by decide)
@[simp] theorem Dev.setCtl_cores (d) (m) (x) : (Dev.setCtl d m x).cores = d.cores := (Dev.setCtl_touches d m x).same .cores (by decide)
@[simp] theorem Dev.setCtl_sems (d) (m) (x) : (Dev.setCtl d m x).sems = d.sems := (Dev.setCtl_touches d m x).same .sems (by decide)
@[simp] theorem Dev.setCtl_images (d) (m) (x) : (Dev.setCtl d m x).images = d.images := (Dev.setCtl_touches d m x).same .images (by decide)
@[simp] theorem Dev.setCtl_pmc (d) (m) (x) : (Dev.setCtl d m x).pmc = d.pmc := (Dev.setCtl_touches d m x).same .pmc (by decide)
@[simp] theorem Dev.setCtl_bst (d) (m) (x) : (Dev.setCtl d m x).bst = d.bst := (Dev.setCtl_touches d m x).same .bst (by decide)
@[simp] theorem Dev.setCtl_dbg (d) (m) (x) : (Dev.setCtl d m x).dbg = d.dbg := (Dev.setCtl_touches d m x).same .dbg (by decide)
@[simp] theorem Dev.setCtl_gon (d) (m) (x) : (Dev.setCtl d m x).gon = d.gon := (Dev.setCtl_touches d m x).same .gon (by decide)
@[simp] theorem Dev.setCtl_cache (d) (m) (x) : (Dev.setCtl d m x).cache = d.cache := (Dev.setCtl_touches d m x).same .cache (by decide)
@[simp] theorem Dev.setCtl_tracts (d) (m) (x) : (Dev.setCtl d m x).tracts = d.tracts := (Dev.setCtl_touches d m x).same .tracts (by decide)
@[simp] theorem Dev.setCtl_drift (d) (m) (x) : (Dev.setCtl d m x).drift = d.drift := (Dev.setCtl_touches d m x).same .drift (by decide)
@[simp] theorem Dev.setCtl_sec (d) (m) (x) : (Dev.setCtl d m x).sec = d.sec := (Dev.setCtl_touches d m x).same .sec (by decide)
@[simp] theorem Dev.setCtl_str (d) (m) (x) : (Dev.setCtl d m x).str = d.str := (Dev.setCtl_touches d m x).same .str (by decide)
@[simp] theorem Dev.setCtl_lci (d) (m) (x) : (Dev.setCtl d m x).lci = d.lci := (Dev.setCtl_touches d m x).same .lci (by decide)
@[simp] theorem Dev.setCtl_pwr (d) (m) (x) : (Dev.setCtl d m x).pwr = d.pwr := (Dev.setCtl_touches d m x).same .pwr (by decide)
@[simp] theorem Dev.setCtl_therm (d) (m) (x) : (Dev.setCtl d m x).therm = d.therm := (Dev.setCtl_touches d m x).same .therm (by decide)
@[simp] theorem Dev.setCtl_out (d) (m) (x) : (Dev.setCtl d m x).out = d.out := (Dev.setCtl_touches d m x).same .out (by decide)
@[simp] theorem Dev.setCtl_fresh (d) (m) (x) : (Dev.setCtl d m x).fresh = d.fresh := (Dev.setCtl_touches d m x).same .fresh (by decide)
@[simp] theorem Dev.setCtl_head (d) (m) (x) (hd) : (Dev.setCtl d m x).head hd = d.head hd := Dev.head_same hd (Dev.setCtl_a d m x) (Dev.setCtl_b d m x)
@[simp] theorem Dev.setCtl_reg (d) (m) (x) (oo) : (Dev.setCtl d m x).reg oo = d.reg oo := Dev.reg_same oo (Dev.setCtl_regs d m x)
@[simp] theorem Dev.setCtl_qp (d) (m) (x) (oo) : (Dev.setCtl d m x).qp oo = d.qp oo := Dev.qp_same oo (Dev.setCtl_lci d m x)
@[simp] theorem Dev.setCtl_cmd (d) (m) (x) (oo) : (Dev.setCtl d m x).cmd oo = d.cmd oo := Dev.cmd_same oo (Dev.setCtl_lci d m x)
@[simp] theorem Dev.setCtl_ent (d) (m) (x) (oo) : (Dev.setCtl d m x).ent oo = d.ent oo := Dev.ent_same oo (Dev.setCtl_tracts d m x)
@[simp] theorem Dev.setCtl_hdr (d) (m) (x) (oo) : (Dev.setCtl d m x).hdr oo = d.hdr oo := Dev.hdr_same oo (Dev.setCtl_tracts d m x)
@[simp] theorem Dev.setCtl_phys (d) (m) (x) (oo) (ii) : (Dev.setCtl d m x).phys oo ii = d.phys oo ii := Dev.phys_same oo ii (Dev.setCtl_tracts d m x)
@[simp] theorem Dev.setCtl_slot (d) (m) (x) (oo) : (Dev.setCtl d m x).slot oo = d.slot oo := Dev.slot_same oo (Dev.setCtl_sec d m x)
@[simp] theorem Dev.setCtl_schan (d) (m) (x) (oo) : (Dev.setCtl d m x).schan oo = d.schan oo := Dev.schan_same oo (Dev.setCtl_str d m x)
@[simp] theorem Dev.setChan_regs (d) (n) (x) : (Dev.setChan d n x).regs = d.regs := (Dev.setChan_touches d n x).same .regs (by decide)
@[simp] theorem Dev.setChan_a (d) (n) (x) : (Dev.setChan d n x).a = d.a := (Dev.setChan_touches d n x).same .a (by decide)
@[simp] theorem Dev.setChan_b (d) (n) (x) : (Dev.setChan d n x).b = d.b := (Dev.setChan_touches d n x).same .b (by decide)
@[simp] theorem Dev.setChan_tether (d) (n) (x) : (Dev.setChan d n x).tether = d.tether := (Dev.setChan_touches d n x).same .tether (by decide)
@[simp] theorem Dev.setChan_launch (d) (n) (x) : (Dev.setChan d n x).launch = d.launch := (Dev.setChan_touches d n x).same .launch (by decide)
@[simp] theorem Dev.setChan_gpio (d) (n) (x) : (Dev.setChan d n x).gpio = d.gpio := (Dev.setChan_touches d n x).same .gpio (by decide)
@[simp] theorem Dev.setChan_keel (d) (n) (x) : (Dev.setChan d n x).keel = d.keel := (Dev.setChan_touches d n x).same .keel (by decide)
@[simp] theorem Dev.setChan_log (d) (n) (x) : (Dev.setChan d n x).log = d.log := (Dev.setChan_touches d n x).same .log (by decide)
@[simp] theorem Dev.setChan_aon (d) (n) (x) : (Dev.setChan d n x).aon = d.aon := (Dev.setChan_touches d n x).same .aon (by decide)
@[simp] theorem Dev.setChan_cores (d) (n) (x) : (Dev.setChan d n x).cores = d.cores := (Dev.setChan_touches d n x).same .cores (by decide)
@[simp] theorem Dev.setChan_sems (d) (n) (x) : (Dev.setChan d n x).sems = d.sems := (Dev.setChan_touches d n x).same .sems (by decide)
@[simp] theorem Dev.setChan_images (d) (n) (x) : (Dev.setChan d n x).images = d.images := (Dev.setChan_touches d n x).same .images (by decide)
@[simp] theorem Dev.setChan_pmc (d) (n) (x) : (Dev.setChan d n x).pmc = d.pmc := (Dev.setChan_touches d n x).same .pmc (by decide)
@[simp] theorem Dev.setChan_bst (d) (n) (x) : (Dev.setChan d n x).bst = d.bst := (Dev.setChan_touches d n x).same .bst (by decide)
@[simp] theorem Dev.setChan_dbg (d) (n) (x) : (Dev.setChan d n x).dbg = d.dbg := (Dev.setChan_touches d n x).same .dbg (by decide)
@[simp] theorem Dev.setChan_gon (d) (n) (x) : (Dev.setChan d n x).gon = d.gon := (Dev.setChan_touches d n x).same .gon (by decide)
@[simp] theorem Dev.setChan_cache (d) (n) (x) : (Dev.setChan d n x).cache = d.cache := (Dev.setChan_touches d n x).same .cache (by decide)
@[simp] theorem Dev.setChan_tracts (d) (n) (x) : (Dev.setChan d n x).tracts = d.tracts := (Dev.setChan_touches d n x).same .tracts (by decide)
@[simp] theorem Dev.setChan_drift (d) (n) (x) : (Dev.setChan d n x).drift = d.drift := (Dev.setChan_touches d n x).same .drift (by decide)
@[simp] theorem Dev.setChan_sec (d) (n) (x) : (Dev.setChan d n x).sec = d.sec := (Dev.setChan_touches d n x).same .sec (by decide)
@[simp] theorem Dev.setChan_str (d) (n) (x) : (Dev.setChan d n x).str = d.str := (Dev.setChan_touches d n x).same .str (by decide)
@[simp] theorem Dev.setChan_lci (d) (n) (x) : (Dev.setChan d n x).lci = d.lci := (Dev.setChan_touches d n x).same .lci (by decide)
@[simp] theorem Dev.setChan_pwr (d) (n) (x) : (Dev.setChan d n x).pwr = d.pwr := (Dev.setChan_touches d n x).same .pwr (by decide)
@[simp] theorem Dev.setChan_therm (d) (n) (x) : (Dev.setChan d n x).therm = d.therm := (Dev.setChan_touches d n x).same .therm (by decide)
@[simp] theorem Dev.setChan_out (d) (n) (x) : (Dev.setChan d n x).out = d.out := (Dev.setChan_touches d n x).same .out (by decide)
@[simp] theorem Dev.setChan_fresh (d) (n) (x) : (Dev.setChan d n x).fresh = d.fresh := (Dev.setChan_touches d n x).same .fresh (by decide)
@[simp] theorem Dev.setChan_head (d) (n) (x) (hd) : (Dev.setChan d n x).head hd = d.head hd := Dev.head_same hd (Dev.setChan_a d n x) (Dev.setChan_b d n x)
@[simp] theorem Dev.setChan_reg (d) (n) (x) (oo) : (Dev.setChan d n x).reg oo = d.reg oo := Dev.reg_same oo (Dev.setChan_regs d n x)
@[simp] theorem Dev.setChan_qp (d) (n) (x) (oo) : (Dev.setChan d n x).qp oo = d.qp oo := Dev.qp_same oo (Dev.setChan_lci d n x)
@[simp] theorem Dev.setChan_cmd (d) (n) (x) (oo) : (Dev.setChan d n x).cmd oo = d.cmd oo := Dev.cmd_same oo (Dev.setChan_lci d n x)
@[simp] theorem Dev.setChan_ent (d) (n) (x) (oo) : (Dev.setChan d n x).ent oo = d.ent oo := Dev.ent_same oo (Dev.setChan_tracts d n x)
@[simp] theorem Dev.setChan_hdr (d) (n) (x) (oo) : (Dev.setChan d n x).hdr oo = d.hdr oo := Dev.hdr_same oo (Dev.setChan_tracts d n x)
@[simp] theorem Dev.setChan_phys (d) (n) (x) (oo) (ii) : (Dev.setChan d n x).phys oo ii = d.phys oo ii := Dev.phys_same oo ii (Dev.setChan_tracts d n x)
@[simp] theorem Dev.setChan_slot (d) (n) (x) (oo) : (Dev.setChan d n x).slot oo = d.slot oo := Dev.slot_same oo (Dev.setChan_sec d n x)
@[simp] theorem Dev.setChan_schan (d) (n) (x) (oo) : (Dev.setChan d n x).schan oo = d.schan oo := Dev.schan_same oo (Dev.setChan_str d n x)
@[simp] theorem Dev.setGrp_regs (d) (g) (x) : (Dev.setGrp d g x).regs = d.regs := (Dev.setGrp_touches d g x).same .regs (by decide)
@[simp] theorem Dev.setGrp_a (d) (g) (x) : (Dev.setGrp d g x).a = d.a := (Dev.setGrp_touches d g x).same .a (by decide)
@[simp] theorem Dev.setGrp_b (d) (g) (x) : (Dev.setGrp d g x).b = d.b := (Dev.setGrp_touches d g x).same .b (by decide)
@[simp] theorem Dev.setGrp_tether (d) (g) (x) : (Dev.setGrp d g x).tether = d.tether := (Dev.setGrp_touches d g x).same .tether (by decide)
@[simp] theorem Dev.setGrp_launch (d) (g) (x) : (Dev.setGrp d g x).launch = d.launch := (Dev.setGrp_touches d g x).same .launch (by decide)
@[simp] theorem Dev.setGrp_gpio (d) (g) (x) : (Dev.setGrp d g x).gpio = d.gpio := (Dev.setGrp_touches d g x).same .gpio (by decide)
@[simp] theorem Dev.setGrp_keel (d) (g) (x) : (Dev.setGrp d g x).keel = d.keel := (Dev.setGrp_touches d g x).same .keel (by decide)
@[simp] theorem Dev.setGrp_log (d) (g) (x) : (Dev.setGrp d g x).log = d.log := (Dev.setGrp_touches d g x).same .log (by decide)
@[simp] theorem Dev.setGrp_aon (d) (g) (x) : (Dev.setGrp d g x).aon = d.aon := (Dev.setGrp_touches d g x).same .aon (by decide)
@[simp] theorem Dev.setGrp_cores (d) (g) (x) : (Dev.setGrp d g x).cores = d.cores := (Dev.setGrp_touches d g x).same .cores (by decide)
@[simp] theorem Dev.setGrp_sems (d) (g) (x) : (Dev.setGrp d g x).sems = d.sems := (Dev.setGrp_touches d g x).same .sems (by decide)
@[simp] theorem Dev.setGrp_images (d) (g) (x) : (Dev.setGrp d g x).images = d.images := (Dev.setGrp_touches d g x).same .images (by decide)
@[simp] theorem Dev.setGrp_pmc (d) (g) (x) : (Dev.setGrp d g x).pmc = d.pmc := (Dev.setGrp_touches d g x).same .pmc (by decide)
@[simp] theorem Dev.setGrp_bst (d) (g) (x) : (Dev.setGrp d g x).bst = d.bst := (Dev.setGrp_touches d g x).same .bst (by decide)
@[simp] theorem Dev.setGrp_dbg (d) (g) (x) : (Dev.setGrp d g x).dbg = d.dbg := (Dev.setGrp_touches d g x).same .dbg (by decide)
@[simp] theorem Dev.setGrp_gon (d) (g) (x) : (Dev.setGrp d g x).gon = d.gon := (Dev.setGrp_touches d g x).same .gon (by decide)
@[simp] theorem Dev.setGrp_cache (d) (g) (x) : (Dev.setGrp d g x).cache = d.cache := (Dev.setGrp_touches d g x).same .cache (by decide)
@[simp] theorem Dev.setGrp_tracts (d) (g) (x) : (Dev.setGrp d g x).tracts = d.tracts := (Dev.setGrp_touches d g x).same .tracts (by decide)
@[simp] theorem Dev.setGrp_drift (d) (g) (x) : (Dev.setGrp d g x).drift = d.drift := (Dev.setGrp_touches d g x).same .drift (by decide)
@[simp] theorem Dev.setGrp_sec (d) (g) (x) : (Dev.setGrp d g x).sec = d.sec := (Dev.setGrp_touches d g x).same .sec (by decide)
@[simp] theorem Dev.setGrp_str (d) (g) (x) : (Dev.setGrp d g x).str = d.str := (Dev.setGrp_touches d g x).same .str (by decide)
@[simp] theorem Dev.setGrp_lci (d) (g) (x) : (Dev.setGrp d g x).lci = d.lci := (Dev.setGrp_touches d g x).same .lci (by decide)
@[simp] theorem Dev.setGrp_pwr (d) (g) (x) : (Dev.setGrp d g x).pwr = d.pwr := (Dev.setGrp_touches d g x).same .pwr (by decide)
@[simp] theorem Dev.setGrp_therm (d) (g) (x) : (Dev.setGrp d g x).therm = d.therm := (Dev.setGrp_touches d g x).same .therm (by decide)
@[simp] theorem Dev.setGrp_out (d) (g) (x) : (Dev.setGrp d g x).out = d.out := (Dev.setGrp_touches d g x).same .out (by decide)
@[simp] theorem Dev.setGrp_fresh (d) (g) (x) : (Dev.setGrp d g x).fresh = d.fresh := (Dev.setGrp_touches d g x).same .fresh (by decide)
@[simp] theorem Dev.setGrp_head (d) (g) (x) (hd) : (Dev.setGrp d g x).head hd = d.head hd := Dev.head_same hd (Dev.setGrp_a d g x) (Dev.setGrp_b d g x)
@[simp] theorem Dev.setGrp_reg (d) (g) (x) (oo) : (Dev.setGrp d g x).reg oo = d.reg oo := Dev.reg_same oo (Dev.setGrp_regs d g x)
@[simp] theorem Dev.setGrp_qp (d) (g) (x) (oo) : (Dev.setGrp d g x).qp oo = d.qp oo := Dev.qp_same oo (Dev.setGrp_lci d g x)
@[simp] theorem Dev.setGrp_cmd (d) (g) (x) (oo) : (Dev.setGrp d g x).cmd oo = d.cmd oo := Dev.cmd_same oo (Dev.setGrp_lci d g x)
@[simp] theorem Dev.setGrp_ent (d) (g) (x) (oo) : (Dev.setGrp d g x).ent oo = d.ent oo := Dev.ent_same oo (Dev.setGrp_tracts d g x)
@[simp] theorem Dev.setGrp_hdr (d) (g) (x) (oo) : (Dev.setGrp d g x).hdr oo = d.hdr oo := Dev.hdr_same oo (Dev.setGrp_tracts d g x)
@[simp] theorem Dev.setGrp_phys (d) (g) (x) (oo) (ii) : (Dev.setGrp d g x).phys oo ii = d.phys oo ii := Dev.phys_same oo ii (Dev.setGrp_tracts d g x)
@[simp] theorem Dev.setGrp_slot (d) (g) (x) (oo) : (Dev.setGrp d g x).slot oo = d.slot oo := Dev.slot_same oo (Dev.setGrp_sec d g x)
@[simp] theorem Dev.setGrp_schan (d) (g) (x) (oo) : (Dev.setGrp d g x).schan oo = d.schan oo := Dev.schan_same oo (Dev.setGrp_str d g x)
@[simp] theorem Dev.setPair_regs (d) (p) (x) : (Dev.setPair d p x).regs = d.regs := (Dev.setPair_touches d p x).same .regs (by decide)
@[simp] theorem Dev.setPair_a (d) (p) (x) : (Dev.setPair d p x).a = d.a := (Dev.setPair_touches d p x).same .a (by decide)
@[simp] theorem Dev.setPair_b (d) (p) (x) : (Dev.setPair d p x).b = d.b := (Dev.setPair_touches d p x).same .b (by decide)
@[simp] theorem Dev.setPair_tether (d) (p) (x) : (Dev.setPair d p x).tether = d.tether := (Dev.setPair_touches d p x).same .tether (by decide)
@[simp] theorem Dev.setPair_launch (d) (p) (x) : (Dev.setPair d p x).launch = d.launch := (Dev.setPair_touches d p x).same .launch (by decide)
@[simp] theorem Dev.setPair_gpio (d) (p) (x) : (Dev.setPair d p x).gpio = d.gpio := (Dev.setPair_touches d p x).same .gpio (by decide)
@[simp] theorem Dev.setPair_keel (d) (p) (x) : (Dev.setPair d p x).keel = d.keel := (Dev.setPair_touches d p x).same .keel (by decide)
@[simp] theorem Dev.setPair_log (d) (p) (x) : (Dev.setPair d p x).log = d.log := (Dev.setPair_touches d p x).same .log (by decide)
@[simp] theorem Dev.setPair_aon (d) (p) (x) : (Dev.setPair d p x).aon = d.aon := (Dev.setPair_touches d p x).same .aon (by decide)
@[simp] theorem Dev.setPair_sems (d) (p) (x) : (Dev.setPair d p x).sems = d.sems := (Dev.setPair_touches d p x).same .sems (by decide)
@[simp] theorem Dev.setPair_images (d) (p) (x) : (Dev.setPair d p x).images = d.images := (Dev.setPair_touches d p x).same .images (by decide)
@[simp] theorem Dev.setPair_pmc (d) (p) (x) : (Dev.setPair d p x).pmc = d.pmc := (Dev.setPair_touches d p x).same .pmc (by decide)
@[simp] theorem Dev.setPair_bst (d) (p) (x) : (Dev.setPair d p x).bst = d.bst := (Dev.setPair_touches d p x).same .bst (by decide)
@[simp] theorem Dev.setPair_dbg (d) (p) (x) : (Dev.setPair d p x).dbg = d.dbg := (Dev.setPair_touches d p x).same .dbg (by decide)
@[simp] theorem Dev.setPair_gon (d) (p) (x) : (Dev.setPair d p x).gon = d.gon := (Dev.setPair_touches d p x).same .gon (by decide)
@[simp] theorem Dev.setPair_cache (d) (p) (x) : (Dev.setPair d p x).cache = d.cache := (Dev.setPair_touches d p x).same .cache (by decide)
@[simp] theorem Dev.setPair_media (d) (p) (x) : (Dev.setPair d p x).media = d.media := (Dev.setPair_touches d p x).same .media (by decide)
@[simp] theorem Dev.setPair_tracts (d) (p) (x) : (Dev.setPair d p x).tracts = d.tracts := (Dev.setPair_touches d p x).same .tracts (by decide)
@[simp] theorem Dev.setPair_drift (d) (p) (x) : (Dev.setPair d p x).drift = d.drift := (Dev.setPair_touches d p x).same .drift (by decide)
@[simp] theorem Dev.setPair_sec (d) (p) (x) : (Dev.setPair d p x).sec = d.sec := (Dev.setPair_touches d p x).same .sec (by decide)
@[simp] theorem Dev.setPair_str (d) (p) (x) : (Dev.setPair d p x).str = d.str := (Dev.setPair_touches d p x).same .str (by decide)
@[simp] theorem Dev.setPair_lci (d) (p) (x) : (Dev.setPair d p x).lci = d.lci := (Dev.setPair_touches d p x).same .lci (by decide)
@[simp] theorem Dev.setPair_pwr (d) (p) (x) : (Dev.setPair d p x).pwr = d.pwr := (Dev.setPair_touches d p x).same .pwr (by decide)
@[simp] theorem Dev.setPair_therm (d) (p) (x) : (Dev.setPair d p x).therm = d.therm := (Dev.setPair_touches d p x).same .therm (by decide)
@[simp] theorem Dev.setPair_out (d) (p) (x) : (Dev.setPair d p x).out = d.out := (Dev.setPair_touches d p x).same .out (by decide)
@[simp] theorem Dev.setPair_fresh (d) (p) (x) : (Dev.setPair d p x).fresh = d.fresh := (Dev.setPair_touches d p x).same .fresh (by decide)
@[simp] theorem Dev.setPair_head (d) (p) (x) (hd) : (Dev.setPair d p x).head hd = d.head hd := Dev.head_same hd (Dev.setPair_a d p x) (Dev.setPair_b d p x)
@[simp] theorem Dev.setPair_reg (d) (p) (x) (oo) : (Dev.setPair d p x).reg oo = d.reg oo := Dev.reg_same oo (Dev.setPair_regs d p x)
@[simp] theorem Dev.setPair_chan (d) (p) (x) (oo) : (Dev.setPair d p x).chan oo = d.chan oo := Dev.chan_same oo (Dev.setPair_media d p x)
@[simp] theorem Dev.setPair_die (d) (p) (x) (oo) : (Dev.setPair d p x).die oo = d.die oo := Dev.die_same oo (Dev.setPair_media d p x)
@[simp] theorem Dev.setPair_ctl (d) (p) (x) (oo) : (Dev.setPair d p x).ctl oo = d.ctl oo := Dev.ctl_same oo (Dev.setPair_media d p x)
@[simp] theorem Dev.setPair_grp (d) (p) (x) (oo) : (Dev.setPair d p x).grp oo = d.grp oo := Dev.grp_same oo (Dev.setPair_media d p x)
@[simp] theorem Dev.setPair_qp (d) (p) (x) (oo) : (Dev.setPair d p x).qp oo = d.qp oo := Dev.qp_same oo (Dev.setPair_lci d p x)
@[simp] theorem Dev.setPair_cmd (d) (p) (x) (oo) : (Dev.setPair d p x).cmd oo = d.cmd oo := Dev.cmd_same oo (Dev.setPair_lci d p x)
@[simp] theorem Dev.setPair_ent (d) (p) (x) (oo) : (Dev.setPair d p x).ent oo = d.ent oo := Dev.ent_same oo (Dev.setPair_tracts d p x)
@[simp] theorem Dev.setPair_hdr (d) (p) (x) (oo) : (Dev.setPair d p x).hdr oo = d.hdr oo := Dev.hdr_same oo (Dev.setPair_tracts d p x)
@[simp] theorem Dev.setPair_phys (d) (p) (x) (oo) (ii) : (Dev.setPair d p x).phys oo ii = d.phys oo ii := Dev.phys_same oo ii (Dev.setPair_tracts d p x)
@[simp] theorem Dev.setPair_slot (d) (p) (x) (oo) : (Dev.setPair d p x).slot oo = d.slot oo := Dev.slot_same oo (Dev.setPair_sec d p x)
@[simp] theorem Dev.setPair_schan (d) (p) (x) (oo) : (Dev.setPair d p x).schan oo = d.schan oo := Dev.schan_same oo (Dev.setPair_str d p x)
@[simp] theorem Dev.setSchan_regs (d) (c) (x) : (Dev.setSchan d c x).regs = d.regs := (Dev.setSchan_touches d c x).same .regs (by decide)
@[simp] theorem Dev.setSchan_a (d) (c) (x) : (Dev.setSchan d c x).a = d.a := (Dev.setSchan_touches d c x).same .a (by decide)
@[simp] theorem Dev.setSchan_b (d) (c) (x) : (Dev.setSchan d c x).b = d.b := (Dev.setSchan_touches d c x).same .b (by decide)
@[simp] theorem Dev.setSchan_tether (d) (c) (x) : (Dev.setSchan d c x).tether = d.tether := (Dev.setSchan_touches d c x).same .tether (by decide)
@[simp] theorem Dev.setSchan_launch (d) (c) (x) : (Dev.setSchan d c x).launch = d.launch := (Dev.setSchan_touches d c x).same .launch (by decide)
@[simp] theorem Dev.setSchan_gpio (d) (c) (x) : (Dev.setSchan d c x).gpio = d.gpio := (Dev.setSchan_touches d c x).same .gpio (by decide)
@[simp] theorem Dev.setSchan_keel (d) (c) (x) : (Dev.setSchan d c x).keel = d.keel := (Dev.setSchan_touches d c x).same .keel (by decide)
@[simp] theorem Dev.setSchan_log (d) (c) (x) : (Dev.setSchan d c x).log = d.log := (Dev.setSchan_touches d c x).same .log (by decide)
@[simp] theorem Dev.setSchan_aon (d) (c) (x) : (Dev.setSchan d c x).aon = d.aon := (Dev.setSchan_touches d c x).same .aon (by decide)
@[simp] theorem Dev.setSchan_cores (d) (c) (x) : (Dev.setSchan d c x).cores = d.cores := (Dev.setSchan_touches d c x).same .cores (by decide)
@[simp] theorem Dev.setSchan_sems (d) (c) (x) : (Dev.setSchan d c x).sems = d.sems := (Dev.setSchan_touches d c x).same .sems (by decide)
@[simp] theorem Dev.setSchan_images (d) (c) (x) : (Dev.setSchan d c x).images = d.images := (Dev.setSchan_touches d c x).same .images (by decide)
@[simp] theorem Dev.setSchan_pmc (d) (c) (x) : (Dev.setSchan d c x).pmc = d.pmc := (Dev.setSchan_touches d c x).same .pmc (by decide)
@[simp] theorem Dev.setSchan_bst (d) (c) (x) : (Dev.setSchan d c x).bst = d.bst := (Dev.setSchan_touches d c x).same .bst (by decide)
@[simp] theorem Dev.setSchan_dbg (d) (c) (x) : (Dev.setSchan d c x).dbg = d.dbg := (Dev.setSchan_touches d c x).same .dbg (by decide)
@[simp] theorem Dev.setSchan_gon (d) (c) (x) : (Dev.setSchan d c x).gon = d.gon := (Dev.setSchan_touches d c x).same .gon (by decide)
@[simp] theorem Dev.setSchan_cache (d) (c) (x) : (Dev.setSchan d c x).cache = d.cache := (Dev.setSchan_touches d c x).same .cache (by decide)
@[simp] theorem Dev.setSchan_media (d) (c) (x) : (Dev.setSchan d c x).media = d.media := (Dev.setSchan_touches d c x).same .media (by decide)
@[simp] theorem Dev.setSchan_tracts (d) (c) (x) : (Dev.setSchan d c x).tracts = d.tracts := (Dev.setSchan_touches d c x).same .tracts (by decide)
@[simp] theorem Dev.setSchan_drift (d) (c) (x) : (Dev.setSchan d c x).drift = d.drift := (Dev.setSchan_touches d c x).same .drift (by decide)
@[simp] theorem Dev.setSchan_sec (d) (c) (x) : (Dev.setSchan d c x).sec = d.sec := (Dev.setSchan_touches d c x).same .sec (by decide)
@[simp] theorem Dev.setSchan_lci (d) (c) (x) : (Dev.setSchan d c x).lci = d.lci := (Dev.setSchan_touches d c x).same .lci (by decide)
@[simp] theorem Dev.setSchan_pwr (d) (c) (x) : (Dev.setSchan d c x).pwr = d.pwr := (Dev.setSchan_touches d c x).same .pwr (by decide)
@[simp] theorem Dev.setSchan_therm (d) (c) (x) : (Dev.setSchan d c x).therm = d.therm := (Dev.setSchan_touches d c x).same .therm (by decide)
@[simp] theorem Dev.setSchan_out (d) (c) (x) : (Dev.setSchan d c x).out = d.out := (Dev.setSchan_touches d c x).same .out (by decide)
@[simp] theorem Dev.setSchan_fresh (d) (c) (x) : (Dev.setSchan d c x).fresh = d.fresh := (Dev.setSchan_touches d c x).same .fresh (by decide)
@[simp] theorem Dev.setSchan_head (d) (c) (x) (hd) : (Dev.setSchan d c x).head hd = d.head hd := Dev.head_same hd (Dev.setSchan_a d c x) (Dev.setSchan_b d c x)
@[simp] theorem Dev.setSchan_reg (d) (c) (x) (oo) : (Dev.setSchan d c x).reg oo = d.reg oo := Dev.reg_same oo (Dev.setSchan_regs d c x)
@[simp] theorem Dev.setSchan_chan (d) (c) (x) (oo) : (Dev.setSchan d c x).chan oo = d.chan oo := Dev.chan_same oo (Dev.setSchan_media d c x)
@[simp] theorem Dev.setSchan_die (d) (c) (x) (oo) : (Dev.setSchan d c x).die oo = d.die oo := Dev.die_same oo (Dev.setSchan_media d c x)
@[simp] theorem Dev.setSchan_ctl (d) (c) (x) (oo) : (Dev.setSchan d c x).ctl oo = d.ctl oo := Dev.ctl_same oo (Dev.setSchan_media d c x)
@[simp] theorem Dev.setSchan_grp (d) (c) (x) (oo) : (Dev.setSchan d c x).grp oo = d.grp oo := Dev.grp_same oo (Dev.setSchan_media d c x)
@[simp] theorem Dev.setSchan_qp (d) (c) (x) (oo) : (Dev.setSchan d c x).qp oo = d.qp oo := Dev.qp_same oo (Dev.setSchan_lci d c x)
@[simp] theorem Dev.setSchan_cmd (d) (c) (x) (oo) : (Dev.setSchan d c x).cmd oo = d.cmd oo := Dev.cmd_same oo (Dev.setSchan_lci d c x)
@[simp] theorem Dev.setSchan_ent (d) (c) (x) (oo) : (Dev.setSchan d c x).ent oo = d.ent oo := Dev.ent_same oo (Dev.setSchan_tracts d c x)
@[simp] theorem Dev.setSchan_hdr (d) (c) (x) (oo) : (Dev.setSchan d c x).hdr oo = d.hdr oo := Dev.hdr_same oo (Dev.setSchan_tracts d c x)
@[simp] theorem Dev.setSchan_phys (d) (c) (x) (oo) (ii) : (Dev.setSchan d c x).phys oo ii = d.phys oo ii := Dev.phys_same oo ii (Dev.setSchan_tracts d c x)
@[simp] theorem Dev.setSchan_slot (d) (c) (x) (oo) : (Dev.setSchan d c x).slot oo = d.slot oo := Dev.slot_same oo (Dev.setSchan_sec d c x)
@[simp] theorem Dev.setQp_regs (d) (n) (x) : (Dev.setQp d n x).regs = d.regs := (Dev.setQp_touches d n x).same .regs (by decide)
@[simp] theorem Dev.setQp_a (d) (n) (x) : (Dev.setQp d n x).a = d.a := (Dev.setQp_touches d n x).same .a (by decide)
@[simp] theorem Dev.setQp_b (d) (n) (x) : (Dev.setQp d n x).b = d.b := (Dev.setQp_touches d n x).same .b (by decide)
@[simp] theorem Dev.setQp_tether (d) (n) (x) : (Dev.setQp d n x).tether = d.tether := (Dev.setQp_touches d n x).same .tether (by decide)
@[simp] theorem Dev.setQp_launch (d) (n) (x) : (Dev.setQp d n x).launch = d.launch := (Dev.setQp_touches d n x).same .launch (by decide)
@[simp] theorem Dev.setQp_gpio (d) (n) (x) : (Dev.setQp d n x).gpio = d.gpio := (Dev.setQp_touches d n x).same .gpio (by decide)
@[simp] theorem Dev.setQp_keel (d) (n) (x) : (Dev.setQp d n x).keel = d.keel := (Dev.setQp_touches d n x).same .keel (by decide)
@[simp] theorem Dev.setQp_log (d) (n) (x) : (Dev.setQp d n x).log = d.log := (Dev.setQp_touches d n x).same .log (by decide)
@[simp] theorem Dev.setQp_aon (d) (n) (x) : (Dev.setQp d n x).aon = d.aon := (Dev.setQp_touches d n x).same .aon (by decide)
@[simp] theorem Dev.setQp_cores (d) (n) (x) : (Dev.setQp d n x).cores = d.cores := (Dev.setQp_touches d n x).same .cores (by decide)
@[simp] theorem Dev.setQp_sems (d) (n) (x) : (Dev.setQp d n x).sems = d.sems := (Dev.setQp_touches d n x).same .sems (by decide)
@[simp] theorem Dev.setQp_images (d) (n) (x) : (Dev.setQp d n x).images = d.images := (Dev.setQp_touches d n x).same .images (by decide)
@[simp] theorem Dev.setQp_pmc (d) (n) (x) : (Dev.setQp d n x).pmc = d.pmc := (Dev.setQp_touches d n x).same .pmc (by decide)
@[simp] theorem Dev.setQp_bst (d) (n) (x) : (Dev.setQp d n x).bst = d.bst := (Dev.setQp_touches d n x).same .bst (by decide)
@[simp] theorem Dev.setQp_dbg (d) (n) (x) : (Dev.setQp d n x).dbg = d.dbg := (Dev.setQp_touches d n x).same .dbg (by decide)
@[simp] theorem Dev.setQp_gon (d) (n) (x) : (Dev.setQp d n x).gon = d.gon := (Dev.setQp_touches d n x).same .gon (by decide)
@[simp] theorem Dev.setQp_cache (d) (n) (x) : (Dev.setQp d n x).cache = d.cache := (Dev.setQp_touches d n x).same .cache (by decide)
@[simp] theorem Dev.setQp_media (d) (n) (x) : (Dev.setQp d n x).media = d.media := (Dev.setQp_touches d n x).same .media (by decide)
@[simp] theorem Dev.setQp_tracts (d) (n) (x) : (Dev.setQp d n x).tracts = d.tracts := (Dev.setQp_touches d n x).same .tracts (by decide)
@[simp] theorem Dev.setQp_drift (d) (n) (x) : (Dev.setQp d n x).drift = d.drift := (Dev.setQp_touches d n x).same .drift (by decide)
@[simp] theorem Dev.setQp_sec (d) (n) (x) : (Dev.setQp d n x).sec = d.sec := (Dev.setQp_touches d n x).same .sec (by decide)
@[simp] theorem Dev.setQp_str (d) (n) (x) : (Dev.setQp d n x).str = d.str := (Dev.setQp_touches d n x).same .str (by decide)
@[simp] theorem Dev.setQp_pwr (d) (n) (x) : (Dev.setQp d n x).pwr = d.pwr := (Dev.setQp_touches d n x).same .pwr (by decide)
@[simp] theorem Dev.setQp_therm (d) (n) (x) : (Dev.setQp d n x).therm = d.therm := (Dev.setQp_touches d n x).same .therm (by decide)
@[simp] theorem Dev.setQp_out (d) (n) (x) : (Dev.setQp d n x).out = d.out := (Dev.setQp_touches d n x).same .out (by decide)
@[simp] theorem Dev.setQp_fresh (d) (n) (x) : (Dev.setQp d n x).fresh = d.fresh := (Dev.setQp_touches d n x).same .fresh (by decide)
@[simp] theorem Dev.setQp_head (d) (n) (x) (hd) : (Dev.setQp d n x).head hd = d.head hd := Dev.head_same hd (Dev.setQp_a d n x) (Dev.setQp_b d n x)
@[simp] theorem Dev.setQp_reg (d) (n) (x) (oo) : (Dev.setQp d n x).reg oo = d.reg oo := Dev.reg_same oo (Dev.setQp_regs d n x)
@[simp] theorem Dev.setQp_chan (d) (n) (x) (oo) : (Dev.setQp d n x).chan oo = d.chan oo := Dev.chan_same oo (Dev.setQp_media d n x)
@[simp] theorem Dev.setQp_die (d) (n) (x) (oo) : (Dev.setQp d n x).die oo = d.die oo := Dev.die_same oo (Dev.setQp_media d n x)
@[simp] theorem Dev.setQp_ctl (d) (n) (x) (oo) : (Dev.setQp d n x).ctl oo = d.ctl oo := Dev.ctl_same oo (Dev.setQp_media d n x)
@[simp] theorem Dev.setQp_grp (d) (n) (x) (oo) : (Dev.setQp d n x).grp oo = d.grp oo := Dev.grp_same oo (Dev.setQp_media d n x)
@[simp] theorem Dev.setQp_ent (d) (n) (x) (oo) : (Dev.setQp d n x).ent oo = d.ent oo := Dev.ent_same oo (Dev.setQp_tracts d n x)
@[simp] theorem Dev.setQp_hdr (d) (n) (x) (oo) : (Dev.setQp d n x).hdr oo = d.hdr oo := Dev.hdr_same oo (Dev.setQp_tracts d n x)
@[simp] theorem Dev.setQp_phys (d) (n) (x) (oo) (ii) : (Dev.setQp d n x).phys oo ii = d.phys oo ii := Dev.phys_same oo ii (Dev.setQp_tracts d n x)
@[simp] theorem Dev.setQp_slot (d) (n) (x) (oo) : (Dev.setQp d n x).slot oo = d.slot oo := Dev.slot_same oo (Dev.setQp_sec d n x)
@[simp] theorem Dev.setQp_schan (d) (n) (x) (oo) : (Dev.setQp d n x).schan oo = d.schan oo := Dev.schan_same oo (Dev.setQp_str d n x)
@[simp] theorem Dev.mapCmd_regs (d) (h) (f) : (Dev.mapCmd d h f).regs = d.regs := (Dev.mapCmd_touches d h f).same .regs (by decide)
@[simp] theorem Dev.mapCmd_a (d) (h) (f) : (Dev.mapCmd d h f).a = d.a := (Dev.mapCmd_touches d h f).same .a (by decide)
@[simp] theorem Dev.mapCmd_b (d) (h) (f) : (Dev.mapCmd d h f).b = d.b := (Dev.mapCmd_touches d h f).same .b (by decide)
@[simp] theorem Dev.mapCmd_tether (d) (h) (f) : (Dev.mapCmd d h f).tether = d.tether := (Dev.mapCmd_touches d h f).same .tether (by decide)
@[simp] theorem Dev.mapCmd_launch (d) (h) (f) : (Dev.mapCmd d h f).launch = d.launch := (Dev.mapCmd_touches d h f).same .launch (by decide)
@[simp] theorem Dev.mapCmd_gpio (d) (h) (f) : (Dev.mapCmd d h f).gpio = d.gpio := (Dev.mapCmd_touches d h f).same .gpio (by decide)
@[simp] theorem Dev.mapCmd_keel (d) (h) (f) : (Dev.mapCmd d h f).keel = d.keel := (Dev.mapCmd_touches d h f).same .keel (by decide)
@[simp] theorem Dev.mapCmd_log (d) (h) (f) : (Dev.mapCmd d h f).log = d.log := (Dev.mapCmd_touches d h f).same .log (by decide)
@[simp] theorem Dev.mapCmd_aon (d) (h) (f) : (Dev.mapCmd d h f).aon = d.aon := (Dev.mapCmd_touches d h f).same .aon (by decide)
@[simp] theorem Dev.mapCmd_cores (d) (h) (f) : (Dev.mapCmd d h f).cores = d.cores := (Dev.mapCmd_touches d h f).same .cores (by decide)
@[simp] theorem Dev.mapCmd_sems (d) (h) (f) : (Dev.mapCmd d h f).sems = d.sems := (Dev.mapCmd_touches d h f).same .sems (by decide)
@[simp] theorem Dev.mapCmd_images (d) (h) (f) : (Dev.mapCmd d h f).images = d.images := (Dev.mapCmd_touches d h f).same .images (by decide)
@[simp] theorem Dev.mapCmd_pmc (d) (h) (f) : (Dev.mapCmd d h f).pmc = d.pmc := (Dev.mapCmd_touches d h f).same .pmc (by decide)
@[simp] theorem Dev.mapCmd_bst (d) (h) (f) : (Dev.mapCmd d h f).bst = d.bst := (Dev.mapCmd_touches d h f).same .bst (by decide)
@[simp] theorem Dev.mapCmd_dbg (d) (h) (f) : (Dev.mapCmd d h f).dbg = d.dbg := (Dev.mapCmd_touches d h f).same .dbg (by decide)
@[simp] theorem Dev.mapCmd_gon (d) (h) (f) : (Dev.mapCmd d h f).gon = d.gon := (Dev.mapCmd_touches d h f).same .gon (by decide)
@[simp] theorem Dev.mapCmd_cache (d) (h) (f) : (Dev.mapCmd d h f).cache = d.cache := (Dev.mapCmd_touches d h f).same .cache (by decide)
@[simp] theorem Dev.mapCmd_media (d) (h) (f) : (Dev.mapCmd d h f).media = d.media := (Dev.mapCmd_touches d h f).same .media (by decide)
@[simp] theorem Dev.mapCmd_tracts (d) (h) (f) : (Dev.mapCmd d h f).tracts = d.tracts := (Dev.mapCmd_touches d h f).same .tracts (by decide)
@[simp] theorem Dev.mapCmd_drift (d) (h) (f) : (Dev.mapCmd d h f).drift = d.drift := (Dev.mapCmd_touches d h f).same .drift (by decide)
@[simp] theorem Dev.mapCmd_sec (d) (h) (f) : (Dev.mapCmd d h f).sec = d.sec := (Dev.mapCmd_touches d h f).same .sec (by decide)
@[simp] theorem Dev.mapCmd_str (d) (h) (f) : (Dev.mapCmd d h f).str = d.str := (Dev.mapCmd_touches d h f).same .str (by decide)
@[simp] theorem Dev.mapCmd_pwr (d) (h) (f) : (Dev.mapCmd d h f).pwr = d.pwr := (Dev.mapCmd_touches d h f).same .pwr (by decide)
@[simp] theorem Dev.mapCmd_therm (d) (h) (f) : (Dev.mapCmd d h f).therm = d.therm := (Dev.mapCmd_touches d h f).same .therm (by decide)
@[simp] theorem Dev.mapCmd_out (d) (h) (f) : (Dev.mapCmd d h f).out = d.out := (Dev.mapCmd_touches d h f).same .out (by decide)
@[simp] theorem Dev.mapCmd_fresh (d) (h) (f) : (Dev.mapCmd d h f).fresh = d.fresh := (Dev.mapCmd_touches d h f).same .fresh (by decide)
@[simp] theorem Dev.mapCmd_head (d) (h) (f) (hd) : (Dev.mapCmd d h f).head hd = d.head hd := Dev.head_same hd (Dev.mapCmd_a d h f) (Dev.mapCmd_b d h f)
@[simp] theorem Dev.mapCmd_reg (d) (h) (f) (oo) : (Dev.mapCmd d h f).reg oo = d.reg oo := Dev.reg_same oo (Dev.mapCmd_regs d h f)
@[simp] theorem Dev.mapCmd_chan (d) (h) (f) (oo) : (Dev.mapCmd d h f).chan oo = d.chan oo := Dev.chan_same oo (Dev.mapCmd_media d h f)
@[simp] theorem Dev.mapCmd_die (d) (h) (f) (oo) : (Dev.mapCmd d h f).die oo = d.die oo := Dev.die_same oo (Dev.mapCmd_media d h f)
@[simp] theorem Dev.mapCmd_ctl (d) (h) (f) (oo) : (Dev.mapCmd d h f).ctl oo = d.ctl oo := Dev.ctl_same oo (Dev.mapCmd_media d h f)
@[simp] theorem Dev.mapCmd_grp (d) (h) (f) (oo) : (Dev.mapCmd d h f).grp oo = d.grp oo := Dev.grp_same oo (Dev.mapCmd_media d h f)
@[simp] theorem Dev.mapCmd_ent (d) (h) (f) (oo) : (Dev.mapCmd d h f).ent oo = d.ent oo := Dev.ent_same oo (Dev.mapCmd_tracts d h f)
@[simp] theorem Dev.mapCmd_hdr (d) (h) (f) (oo) : (Dev.mapCmd d h f).hdr oo = d.hdr oo := Dev.hdr_same oo (Dev.mapCmd_tracts d h f)
@[simp] theorem Dev.mapCmd_phys (d) (h) (f) (oo) (ii) : (Dev.mapCmd d h f).phys oo ii = d.phys oo ii := Dev.phys_same oo ii (Dev.mapCmd_tracts d h f)
@[simp] theorem Dev.mapCmd_slot (d) (h) (f) (oo) : (Dev.mapCmd d h f).slot oo = d.slot oo := Dev.slot_same oo (Dev.mapCmd_sec d h f)
@[simp] theorem Dev.mapCmd_schan (d) (h) (f) (oo) : (Dev.mapCmd d h f).schan oo = d.schan oo := Dev.schan_same oo (Dev.mapCmd_str d h f)
@[simp] theorem Dev.dropCmd_regs (d) (h) : (Dev.dropCmd d h).regs = d.regs := (Dev.dropCmd_touches d h).same .regs (by decide)
@[simp] theorem Dev.dropCmd_a (d) (h) : (Dev.dropCmd d h).a = d.a := (Dev.dropCmd_touches d h).same .a (by decide)
@[simp] theorem Dev.dropCmd_b (d) (h) : (Dev.dropCmd d h).b = d.b := (Dev.dropCmd_touches d h).same .b (by decide)
@[simp] theorem Dev.dropCmd_tether (d) (h) : (Dev.dropCmd d h).tether = d.tether := (Dev.dropCmd_touches d h).same .tether (by decide)
@[simp] theorem Dev.dropCmd_launch (d) (h) : (Dev.dropCmd d h).launch = d.launch := (Dev.dropCmd_touches d h).same .launch (by decide)
@[simp] theorem Dev.dropCmd_gpio (d) (h) : (Dev.dropCmd d h).gpio = d.gpio := (Dev.dropCmd_touches d h).same .gpio (by decide)
@[simp] theorem Dev.dropCmd_keel (d) (h) : (Dev.dropCmd d h).keel = d.keel := (Dev.dropCmd_touches d h).same .keel (by decide)
@[simp] theorem Dev.dropCmd_log (d) (h) : (Dev.dropCmd d h).log = d.log := (Dev.dropCmd_touches d h).same .log (by decide)
@[simp] theorem Dev.dropCmd_aon (d) (h) : (Dev.dropCmd d h).aon = d.aon := (Dev.dropCmd_touches d h).same .aon (by decide)
@[simp] theorem Dev.dropCmd_cores (d) (h) : (Dev.dropCmd d h).cores = d.cores := (Dev.dropCmd_touches d h).same .cores (by decide)
@[simp] theorem Dev.dropCmd_sems (d) (h) : (Dev.dropCmd d h).sems = d.sems := (Dev.dropCmd_touches d h).same .sems (by decide)
@[simp] theorem Dev.dropCmd_images (d) (h) : (Dev.dropCmd d h).images = d.images := (Dev.dropCmd_touches d h).same .images (by decide)
@[simp] theorem Dev.dropCmd_pmc (d) (h) : (Dev.dropCmd d h).pmc = d.pmc := (Dev.dropCmd_touches d h).same .pmc (by decide)
@[simp] theorem Dev.dropCmd_bst (d) (h) : (Dev.dropCmd d h).bst = d.bst := (Dev.dropCmd_touches d h).same .bst (by decide)
@[simp] theorem Dev.dropCmd_dbg (d) (h) : (Dev.dropCmd d h).dbg = d.dbg := (Dev.dropCmd_touches d h).same .dbg (by decide)
@[simp] theorem Dev.dropCmd_gon (d) (h) : (Dev.dropCmd d h).gon = d.gon := (Dev.dropCmd_touches d h).same .gon (by decide)
@[simp] theorem Dev.dropCmd_cache (d) (h) : (Dev.dropCmd d h).cache = d.cache := (Dev.dropCmd_touches d h).same .cache (by decide)
@[simp] theorem Dev.dropCmd_media (d) (h) : (Dev.dropCmd d h).media = d.media := (Dev.dropCmd_touches d h).same .media (by decide)
@[simp] theorem Dev.dropCmd_tracts (d) (h) : (Dev.dropCmd d h).tracts = d.tracts := (Dev.dropCmd_touches d h).same .tracts (by decide)
@[simp] theorem Dev.dropCmd_drift (d) (h) : (Dev.dropCmd d h).drift = d.drift := (Dev.dropCmd_touches d h).same .drift (by decide)
@[simp] theorem Dev.dropCmd_sec (d) (h) : (Dev.dropCmd d h).sec = d.sec := (Dev.dropCmd_touches d h).same .sec (by decide)
@[simp] theorem Dev.dropCmd_str (d) (h) : (Dev.dropCmd d h).str = d.str := (Dev.dropCmd_touches d h).same .str (by decide)
@[simp] theorem Dev.dropCmd_pwr (d) (h) : (Dev.dropCmd d h).pwr = d.pwr := (Dev.dropCmd_touches d h).same .pwr (by decide)
@[simp] theorem Dev.dropCmd_therm (d) (h) : (Dev.dropCmd d h).therm = d.therm := (Dev.dropCmd_touches d h).same .therm (by decide)
@[simp] theorem Dev.dropCmd_out (d) (h) : (Dev.dropCmd d h).out = d.out := (Dev.dropCmd_touches d h).same .out (by decide)
@[simp] theorem Dev.dropCmd_fresh (d) (h) : (Dev.dropCmd d h).fresh = d.fresh := (Dev.dropCmd_touches d h).same .fresh (by decide)
@[simp] theorem Dev.dropCmd_head (d) (h) (hd) : (Dev.dropCmd d h).head hd = d.head hd := Dev.head_same hd (Dev.dropCmd_a d h) (Dev.dropCmd_b d h)
@[simp] theorem Dev.dropCmd_reg (d) (h) (oo) : (Dev.dropCmd d h).reg oo = d.reg oo := Dev.reg_same oo (Dev.dropCmd_regs d h)
@[simp] theorem Dev.dropCmd_chan (d) (h) (oo) : (Dev.dropCmd d h).chan oo = d.chan oo := Dev.chan_same oo (Dev.dropCmd_media d h)
@[simp] theorem Dev.dropCmd_die (d) (h) (oo) : (Dev.dropCmd d h).die oo = d.die oo := Dev.die_same oo (Dev.dropCmd_media d h)
@[simp] theorem Dev.dropCmd_ctl (d) (h) (oo) : (Dev.dropCmd d h).ctl oo = d.ctl oo := Dev.ctl_same oo (Dev.dropCmd_media d h)
@[simp] theorem Dev.dropCmd_grp (d) (h) (oo) : (Dev.dropCmd d h).grp oo = d.grp oo := Dev.grp_same oo (Dev.dropCmd_media d h)
@[simp] theorem Dev.dropCmd_ent (d) (h) (oo) : (Dev.dropCmd d h).ent oo = d.ent oo := Dev.ent_same oo (Dev.dropCmd_tracts d h)
@[simp] theorem Dev.dropCmd_hdr (d) (h) (oo) : (Dev.dropCmd d h).hdr oo = d.hdr oo := Dev.hdr_same oo (Dev.dropCmd_tracts d h)
@[simp] theorem Dev.dropCmd_phys (d) (h) (oo) (ii) : (Dev.dropCmd d h).phys oo ii = d.phys oo ii := Dev.phys_same oo ii (Dev.dropCmd_tracts d h)
@[simp] theorem Dev.dropCmd_slot (d) (h) (oo) : (Dev.dropCmd d h).slot oo = d.slot oo := Dev.slot_same oo (Dev.dropCmd_sec d h)
@[simp] theorem Dev.dropCmd_schan (d) (h) (oo) : (Dev.dropCmd d h).schan oo = d.schan oo := Dev.schan_same oo (Dev.dropCmd_str d h)
@[simp] theorem Dev.setSlot_regs (d) (k) (x) : (Dev.setSlot d k x).regs = d.regs := (Dev.setSlot_touches d k x).same .regs (by decide)
@[simp] theorem Dev.setSlot_a (d) (k) (x) : (Dev.setSlot d k x).a = d.a := (Dev.setSlot_touches d k x).same .a (by decide)
@[simp] theorem Dev.setSlot_b (d) (k) (x) : (Dev.setSlot d k x).b = d.b := (Dev.setSlot_touches d k x).same .b (by decide)
@[simp] theorem Dev.setSlot_tether (d) (k) (x) : (Dev.setSlot d k x).tether = d.tether := (Dev.setSlot_touches d k x).same .tether (by decide)
@[simp] theorem Dev.setSlot_launch (d) (k) (x) : (Dev.setSlot d k x).launch = d.launch := (Dev.setSlot_touches d k x).same .launch (by decide)
@[simp] theorem Dev.setSlot_gpio (d) (k) (x) : (Dev.setSlot d k x).gpio = d.gpio := (Dev.setSlot_touches d k x).same .gpio (by decide)
@[simp] theorem Dev.setSlot_keel (d) (k) (x) : (Dev.setSlot d k x).keel = d.keel := (Dev.setSlot_touches d k x).same .keel (by decide)
@[simp] theorem Dev.setSlot_log (d) (k) (x) : (Dev.setSlot d k x).log = d.log := (Dev.setSlot_touches d k x).same .log (by decide)
@[simp] theorem Dev.setSlot_aon (d) (k) (x) : (Dev.setSlot d k x).aon = d.aon := (Dev.setSlot_touches d k x).same .aon (by decide)
@[simp] theorem Dev.setSlot_cores (d) (k) (x) : (Dev.setSlot d k x).cores = d.cores := (Dev.setSlot_touches d k x).same .cores (by decide)
@[simp] theorem Dev.setSlot_sems (d) (k) (x) : (Dev.setSlot d k x).sems = d.sems := (Dev.setSlot_touches d k x).same .sems (by decide)
@[simp] theorem Dev.setSlot_images (d) (k) (x) : (Dev.setSlot d k x).images = d.images := (Dev.setSlot_touches d k x).same .images (by decide)
@[simp] theorem Dev.setSlot_pmc (d) (k) (x) : (Dev.setSlot d k x).pmc = d.pmc := (Dev.setSlot_touches d k x).same .pmc (by decide)
@[simp] theorem Dev.setSlot_bst (d) (k) (x) : (Dev.setSlot d k x).bst = d.bst := (Dev.setSlot_touches d k x).same .bst (by decide)
@[simp] theorem Dev.setSlot_dbg (d) (k) (x) : (Dev.setSlot d k x).dbg = d.dbg := (Dev.setSlot_touches d k x).same .dbg (by decide)
@[simp] theorem Dev.setSlot_gon (d) (k) (x) : (Dev.setSlot d k x).gon = d.gon := (Dev.setSlot_touches d k x).same .gon (by decide)
@[simp] theorem Dev.setSlot_cache (d) (k) (x) : (Dev.setSlot d k x).cache = d.cache := (Dev.setSlot_touches d k x).same .cache (by decide)
@[simp] theorem Dev.setSlot_media (d) (k) (x) : (Dev.setSlot d k x).media = d.media := (Dev.setSlot_touches d k x).same .media (by decide)
@[simp] theorem Dev.setSlot_tracts (d) (k) (x) : (Dev.setSlot d k x).tracts = d.tracts := (Dev.setSlot_touches d k x).same .tracts (by decide)
@[simp] theorem Dev.setSlot_drift (d) (k) (x) : (Dev.setSlot d k x).drift = d.drift := (Dev.setSlot_touches d k x).same .drift (by decide)
@[simp] theorem Dev.setSlot_str (d) (k) (x) : (Dev.setSlot d k x).str = d.str := (Dev.setSlot_touches d k x).same .str (by decide)
@[simp] theorem Dev.setSlot_lci (d) (k) (x) : (Dev.setSlot d k x).lci = d.lci := (Dev.setSlot_touches d k x).same .lci (by decide)
@[simp] theorem Dev.setSlot_pwr (d) (k) (x) : (Dev.setSlot d k x).pwr = d.pwr := (Dev.setSlot_touches d k x).same .pwr (by decide)
@[simp] theorem Dev.setSlot_therm (d) (k) (x) : (Dev.setSlot d k x).therm = d.therm := (Dev.setSlot_touches d k x).same .therm (by decide)
@[simp] theorem Dev.setSlot_out (d) (k) (x) : (Dev.setSlot d k x).out = d.out := (Dev.setSlot_touches d k x).same .out (by decide)
@[simp] theorem Dev.setSlot_fresh (d) (k) (x) : (Dev.setSlot d k x).fresh = d.fresh := (Dev.setSlot_touches d k x).same .fresh (by decide)
@[simp] theorem Dev.setSlot_head (d) (k) (x) (hd) : (Dev.setSlot d k x).head hd = d.head hd := Dev.head_same hd (Dev.setSlot_a d k x) (Dev.setSlot_b d k x)
@[simp] theorem Dev.setSlot_reg (d) (k) (x) (oo) : (Dev.setSlot d k x).reg oo = d.reg oo := Dev.reg_same oo (Dev.setSlot_regs d k x)
@[simp] theorem Dev.setSlot_chan (d) (k) (x) (oo) : (Dev.setSlot d k x).chan oo = d.chan oo := Dev.chan_same oo (Dev.setSlot_media d k x)
@[simp] theorem Dev.setSlot_die (d) (k) (x) (oo) : (Dev.setSlot d k x).die oo = d.die oo := Dev.die_same oo (Dev.setSlot_media d k x)
@[simp] theorem Dev.setSlot_ctl (d) (k) (x) (oo) : (Dev.setSlot d k x).ctl oo = d.ctl oo := Dev.ctl_same oo (Dev.setSlot_media d k x)
@[simp] theorem Dev.setSlot_grp (d) (k) (x) (oo) : (Dev.setSlot d k x).grp oo = d.grp oo := Dev.grp_same oo (Dev.setSlot_media d k x)
@[simp] theorem Dev.setSlot_qp (d) (k) (x) (oo) : (Dev.setSlot d k x).qp oo = d.qp oo := Dev.qp_same oo (Dev.setSlot_lci d k x)
@[simp] theorem Dev.setSlot_cmd (d) (k) (x) (oo) : (Dev.setSlot d k x).cmd oo = d.cmd oo := Dev.cmd_same oo (Dev.setSlot_lci d k x)
@[simp] theorem Dev.setSlot_ent (d) (k) (x) (oo) : (Dev.setSlot d k x).ent oo = d.ent oo := Dev.ent_same oo (Dev.setSlot_tracts d k x)
@[simp] theorem Dev.setSlot_hdr (d) (k) (x) (oo) : (Dev.setSlot d k x).hdr oo = d.hdr oo := Dev.hdr_same oo (Dev.setSlot_tracts d k x)
@[simp] theorem Dev.setSlot_phys (d) (k) (x) (oo) (ii) : (Dev.setSlot d k x).phys oo ii = d.phys oo ii := Dev.phys_same oo ii (Dev.setSlot_tracts d k x)
@[simp] theorem Dev.setSlot_schan (d) (k) (x) (oo) : (Dev.setSlot d k x).schan oo = d.schan oo := Dev.schan_same oo (Dev.setSlot_str d k x)
@[simp] theorem Dev.setSeq_regs (d) (n) (x) : (Dev.setSeq d n x).regs = d.regs := (Dev.setSeq_touches d n x).same .regs (by decide)
@[simp] theorem Dev.setSeq_a (d) (n) (x) : (Dev.setSeq d n x).a = d.a := (Dev.setSeq_touches d n x).same .a (by decide)
@[simp] theorem Dev.setSeq_b (d) (n) (x) : (Dev.setSeq d n x).b = d.b := (Dev.setSeq_touches d n x).same .b (by decide)
@[simp] theorem Dev.setSeq_tether (d) (n) (x) : (Dev.setSeq d n x).tether = d.tether := (Dev.setSeq_touches d n x).same .tether (by decide)
@[simp] theorem Dev.setSeq_launch (d) (n) (x) : (Dev.setSeq d n x).launch = d.launch := (Dev.setSeq_touches d n x).same .launch (by decide)
@[simp] theorem Dev.setSeq_gpio (d) (n) (x) : (Dev.setSeq d n x).gpio = d.gpio := (Dev.setSeq_touches d n x).same .gpio (by decide)
@[simp] theorem Dev.setSeq_keel (d) (n) (x) : (Dev.setSeq d n x).keel = d.keel := (Dev.setSeq_touches d n x).same .keel (by decide)
@[simp] theorem Dev.setSeq_log (d) (n) (x) : (Dev.setSeq d n x).log = d.log := (Dev.setSeq_touches d n x).same .log (by decide)
@[simp] theorem Dev.setSeq_aon (d) (n) (x) : (Dev.setSeq d n x).aon = d.aon := (Dev.setSeq_touches d n x).same .aon (by decide)
@[simp] theorem Dev.setSeq_cores (d) (n) (x) : (Dev.setSeq d n x).cores = d.cores := (Dev.setSeq_touches d n x).same .cores (by decide)
@[simp] theorem Dev.setSeq_sems (d) (n) (x) : (Dev.setSeq d n x).sems = d.sems := (Dev.setSeq_touches d n x).same .sems (by decide)
@[simp] theorem Dev.setSeq_images (d) (n) (x) : (Dev.setSeq d n x).images = d.images := (Dev.setSeq_touches d n x).same .images (by decide)
@[simp] theorem Dev.setSeq_pmc (d) (n) (x) : (Dev.setSeq d n x).pmc = d.pmc := (Dev.setSeq_touches d n x).same .pmc (by decide)
@[simp] theorem Dev.setSeq_bst (d) (n) (x) : (Dev.setSeq d n x).bst = d.bst := (Dev.setSeq_touches d n x).same .bst (by decide)
@[simp] theorem Dev.setSeq_dbg (d) (n) (x) : (Dev.setSeq d n x).dbg = d.dbg := (Dev.setSeq_touches d n x).same .dbg (by decide)
@[simp] theorem Dev.setSeq_gon (d) (n) (x) : (Dev.setSeq d n x).gon = d.gon := (Dev.setSeq_touches d n x).same .gon (by decide)
@[simp] theorem Dev.setSeq_cache (d) (n) (x) : (Dev.setSeq d n x).cache = d.cache := (Dev.setSeq_touches d n x).same .cache (by decide)
@[simp] theorem Dev.setSeq_media (d) (n) (x) : (Dev.setSeq d n x).media = d.media := (Dev.setSeq_touches d n x).same .media (by decide)
@[simp] theorem Dev.setSeq_tracts (d) (n) (x) : (Dev.setSeq d n x).tracts = d.tracts := (Dev.setSeq_touches d n x).same .tracts (by decide)
@[simp] theorem Dev.setSeq_drift (d) (n) (x) : (Dev.setSeq d n x).drift = d.drift := (Dev.setSeq_touches d n x).same .drift (by decide)
@[simp] theorem Dev.setSeq_sec (d) (n) (x) : (Dev.setSeq d n x).sec = d.sec := (Dev.setSeq_touches d n x).same .sec (by decide)
@[simp] theorem Dev.setSeq_str (d) (n) (x) : (Dev.setSeq d n x).str = d.str := (Dev.setSeq_touches d n x).same .str (by decide)
@[simp] theorem Dev.setSeq_lci (d) (n) (x) : (Dev.setSeq d n x).lci = d.lci := (Dev.setSeq_touches d n x).same .lci (by decide)
@[simp] theorem Dev.setSeq_therm (d) (n) (x) : (Dev.setSeq d n x).therm = d.therm := (Dev.setSeq_touches d n x).same .therm (by decide)
@[simp] theorem Dev.setSeq_out (d) (n) (x) : (Dev.setSeq d n x).out = d.out := (Dev.setSeq_touches d n x).same .out (by decide)
@[simp] theorem Dev.setSeq_fresh (d) (n) (x) : (Dev.setSeq d n x).fresh = d.fresh := (Dev.setSeq_touches d n x).same .fresh (by decide)
@[simp] theorem Dev.setSeq_head (d) (n) (x) (hd) : (Dev.setSeq d n x).head hd = d.head hd := Dev.head_same hd (Dev.setSeq_a d n x) (Dev.setSeq_b d n x)
@[simp] theorem Dev.setSeq_reg (d) (n) (x) (oo) : (Dev.setSeq d n x).reg oo = d.reg oo := Dev.reg_same oo (Dev.setSeq_regs d n x)
@[simp] theorem Dev.setSeq_chan (d) (n) (x) (oo) : (Dev.setSeq d n x).chan oo = d.chan oo := Dev.chan_same oo (Dev.setSeq_media d n x)
@[simp] theorem Dev.setSeq_die (d) (n) (x) (oo) : (Dev.setSeq d n x).die oo = d.die oo := Dev.die_same oo (Dev.setSeq_media d n x)
@[simp] theorem Dev.setSeq_ctl (d) (n) (x) (oo) : (Dev.setSeq d n x).ctl oo = d.ctl oo := Dev.ctl_same oo (Dev.setSeq_media d n x)
@[simp] theorem Dev.setSeq_grp (d) (n) (x) (oo) : (Dev.setSeq d n x).grp oo = d.grp oo := Dev.grp_same oo (Dev.setSeq_media d n x)
@[simp] theorem Dev.setSeq_qp (d) (n) (x) (oo) : (Dev.setSeq d n x).qp oo = d.qp oo := Dev.qp_same oo (Dev.setSeq_lci d n x)
@[simp] theorem Dev.setSeq_cmd (d) (n) (x) (oo) : (Dev.setSeq d n x).cmd oo = d.cmd oo := Dev.cmd_same oo (Dev.setSeq_lci d n x)
@[simp] theorem Dev.setSeq_ent (d) (n) (x) (oo) : (Dev.setSeq d n x).ent oo = d.ent oo := Dev.ent_same oo (Dev.setSeq_tracts d n x)
@[simp] theorem Dev.setSeq_hdr (d) (n) (x) (oo) : (Dev.setSeq d n x).hdr oo = d.hdr oo := Dev.hdr_same oo (Dev.setSeq_tracts d n x)
@[simp] theorem Dev.setSeq_phys (d) (n) (x) (oo) (ii) : (Dev.setSeq d n x).phys oo ii = d.phys oo ii := Dev.phys_same oo ii (Dev.setSeq_tracts d n x)
@[simp] theorem Dev.setSeq_slot (d) (n) (x) (oo) : (Dev.setSeq d n x).slot oo = d.slot oo := Dev.slot_same oo (Dev.setSeq_sec d n x)
@[simp] theorem Dev.setSeq_schan (d) (n) (x) (oo) : (Dev.setSeq d n x).schan oo = d.schan oo := Dev.schan_same oo (Dev.setSeq_str d n x)
@[simp] theorem Dev.setSensor_regs (d) (i) (x) : (Dev.setSensor d i x).regs = d.regs := (Dev.setSensor_touches d i x).same .regs (by decide)
@[simp] theorem Dev.setSensor_a (d) (i) (x) : (Dev.setSensor d i x).a = d.a := (Dev.setSensor_touches d i x).same .a (by decide)
@[simp] theorem Dev.setSensor_b (d) (i) (x) : (Dev.setSensor d i x).b = d.b := (Dev.setSensor_touches d i x).same .b (by decide)
@[simp] theorem Dev.setSensor_tether (d) (i) (x) : (Dev.setSensor d i x).tether = d.tether := (Dev.setSensor_touches d i x).same .tether (by decide)
@[simp] theorem Dev.setSensor_launch (d) (i) (x) : (Dev.setSensor d i x).launch = d.launch := (Dev.setSensor_touches d i x).same .launch (by decide)
@[simp] theorem Dev.setSensor_gpio (d) (i) (x) : (Dev.setSensor d i x).gpio = d.gpio := (Dev.setSensor_touches d i x).same .gpio (by decide)
@[simp] theorem Dev.setSensor_keel (d) (i) (x) : (Dev.setSensor d i x).keel = d.keel := (Dev.setSensor_touches d i x).same .keel (by decide)
@[simp] theorem Dev.setSensor_log (d) (i) (x) : (Dev.setSensor d i x).log = d.log := (Dev.setSensor_touches d i x).same .log (by decide)
@[simp] theorem Dev.setSensor_aon (d) (i) (x) : (Dev.setSensor d i x).aon = d.aon := (Dev.setSensor_touches d i x).same .aon (by decide)
@[simp] theorem Dev.setSensor_cores (d) (i) (x) : (Dev.setSensor d i x).cores = d.cores := (Dev.setSensor_touches d i x).same .cores (by decide)
@[simp] theorem Dev.setSensor_sems (d) (i) (x) : (Dev.setSensor d i x).sems = d.sems := (Dev.setSensor_touches d i x).same .sems (by decide)
@[simp] theorem Dev.setSensor_images (d) (i) (x) : (Dev.setSensor d i x).images = d.images := (Dev.setSensor_touches d i x).same .images (by decide)
@[simp] theorem Dev.setSensor_pmc (d) (i) (x) : (Dev.setSensor d i x).pmc = d.pmc := (Dev.setSensor_touches d i x).same .pmc (by decide)
@[simp] theorem Dev.setSensor_bst (d) (i) (x) : (Dev.setSensor d i x).bst = d.bst := (Dev.setSensor_touches d i x).same .bst (by decide)
@[simp] theorem Dev.setSensor_dbg (d) (i) (x) : (Dev.setSensor d i x).dbg = d.dbg := (Dev.setSensor_touches d i x).same .dbg (by decide)
@[simp] theorem Dev.setSensor_gon (d) (i) (x) : (Dev.setSensor d i x).gon = d.gon := (Dev.setSensor_touches d i x).same .gon (by decide)
@[simp] theorem Dev.setSensor_cache (d) (i) (x) : (Dev.setSensor d i x).cache = d.cache := (Dev.setSensor_touches d i x).same .cache (by decide)
@[simp] theorem Dev.setSensor_media (d) (i) (x) : (Dev.setSensor d i x).media = d.media := (Dev.setSensor_touches d i x).same .media (by decide)
@[simp] theorem Dev.setSensor_tracts (d) (i) (x) : (Dev.setSensor d i x).tracts = d.tracts := (Dev.setSensor_touches d i x).same .tracts (by decide)
@[simp] theorem Dev.setSensor_drift (d) (i) (x) : (Dev.setSensor d i x).drift = d.drift := (Dev.setSensor_touches d i x).same .drift (by decide)
@[simp] theorem Dev.setSensor_sec (d) (i) (x) : (Dev.setSensor d i x).sec = d.sec := (Dev.setSensor_touches d i x).same .sec (by decide)
@[simp] theorem Dev.setSensor_str (d) (i) (x) : (Dev.setSensor d i x).str = d.str := (Dev.setSensor_touches d i x).same .str (by decide)
@[simp] theorem Dev.setSensor_lci (d) (i) (x) : (Dev.setSensor d i x).lci = d.lci := (Dev.setSensor_touches d i x).same .lci (by decide)
@[simp] theorem Dev.setSensor_pwr (d) (i) (x) : (Dev.setSensor d i x).pwr = d.pwr := (Dev.setSensor_touches d i x).same .pwr (by decide)
@[simp] theorem Dev.setSensor_out (d) (i) (x) : (Dev.setSensor d i x).out = d.out := (Dev.setSensor_touches d i x).same .out (by decide)
@[simp] theorem Dev.setSensor_fresh (d) (i) (x) : (Dev.setSensor d i x).fresh = d.fresh := (Dev.setSensor_touches d i x).same .fresh (by decide)
@[simp] theorem Dev.setSensor_head (d) (i) (x) (hd) : (Dev.setSensor d i x).head hd = d.head hd := Dev.head_same hd (Dev.setSensor_a d i x) (Dev.setSensor_b d i x)
@[simp] theorem Dev.setSensor_reg (d) (i) (x) (oo) : (Dev.setSensor d i x).reg oo = d.reg oo := Dev.reg_same oo (Dev.setSensor_regs d i x)
@[simp] theorem Dev.setSensor_chan (d) (i) (x) (oo) : (Dev.setSensor d i x).chan oo = d.chan oo := Dev.chan_same oo (Dev.setSensor_media d i x)
@[simp] theorem Dev.setSensor_die (d) (i) (x) (oo) : (Dev.setSensor d i x).die oo = d.die oo := Dev.die_same oo (Dev.setSensor_media d i x)
@[simp] theorem Dev.setSensor_ctl (d) (i) (x) (oo) : (Dev.setSensor d i x).ctl oo = d.ctl oo := Dev.ctl_same oo (Dev.setSensor_media d i x)
@[simp] theorem Dev.setSensor_grp (d) (i) (x) (oo) : (Dev.setSensor d i x).grp oo = d.grp oo := Dev.grp_same oo (Dev.setSensor_media d i x)
@[simp] theorem Dev.setSensor_qp (d) (i) (x) (oo) : (Dev.setSensor d i x).qp oo = d.qp oo := Dev.qp_same oo (Dev.setSensor_lci d i x)
@[simp] theorem Dev.setSensor_cmd (d) (i) (x) (oo) : (Dev.setSensor d i x).cmd oo = d.cmd oo := Dev.cmd_same oo (Dev.setSensor_lci d i x)
@[simp] theorem Dev.setSensor_ent (d) (i) (x) (oo) : (Dev.setSensor d i x).ent oo = d.ent oo := Dev.ent_same oo (Dev.setSensor_tracts d i x)
@[simp] theorem Dev.setSensor_hdr (d) (i) (x) (oo) : (Dev.setSensor d i x).hdr oo = d.hdr oo := Dev.hdr_same oo (Dev.setSensor_tracts d i x)
@[simp] theorem Dev.setSensor_phys (d) (i) (x) (oo) (ii) : (Dev.setSensor d i x).phys oo ii = d.phys oo ii := Dev.phys_same oo ii (Dev.setSensor_tracts d i x)
@[simp] theorem Dev.setSensor_slot (d) (i) (x) (oo) : (Dev.setSensor d i x).slot oo = d.slot oo := Dev.slot_same oo (Dev.setSensor_sec d i x)
@[simp] theorem Dev.setSensor_schan (d) (i) (x) (oo) : (Dev.setSensor d i x).schan oo = d.schan oo := Dev.schan_same oo (Dev.setSensor_str d i x)
@[simp] theorem Dev.setDue_regs (d) (n) (t) : (Dev.setDue d n t).regs = d.regs := (Dev.setDue_touches d n t).same .regs (by decide)
@[simp] theorem Dev.setDue_a (d) (n) (t) : (Dev.setDue d n t).a = d.a := (Dev.setDue_touches d n t).same .a (by decide)
@[simp] theorem Dev.setDue_b (d) (n) (t) : (Dev.setDue d n t).b = d.b := (Dev.setDue_touches d n t).same .b (by decide)
@[simp] theorem Dev.setDue_tether (d) (n) (t) : (Dev.setDue d n t).tether = d.tether := (Dev.setDue_touches d n t).same .tether (by decide)
@[simp] theorem Dev.setDue_gpio (d) (n) (t) : (Dev.setDue d n t).gpio = d.gpio := (Dev.setDue_touches d n t).same .gpio (by decide)
@[simp] theorem Dev.setDue_keel (d) (n) (t) : (Dev.setDue d n t).keel = d.keel := (Dev.setDue_touches d n t).same .keel (by decide)
@[simp] theorem Dev.setDue_log (d) (n) (t) : (Dev.setDue d n t).log = d.log := (Dev.setDue_touches d n t).same .log (by decide)
@[simp] theorem Dev.setDue_aon (d) (n) (t) : (Dev.setDue d n t).aon = d.aon := (Dev.setDue_touches d n t).same .aon (by decide)
@[simp] theorem Dev.setDue_cores (d) (n) (t) : (Dev.setDue d n t).cores = d.cores := (Dev.setDue_touches d n t).same .cores (by decide)
@[simp] theorem Dev.setDue_sems (d) (n) (t) : (Dev.setDue d n t).sems = d.sems := (Dev.setDue_touches d n t).same .sems (by decide)
@[simp] theorem Dev.setDue_images (d) (n) (t) : (Dev.setDue d n t).images = d.images := (Dev.setDue_touches d n t).same .images (by decide)
@[simp] theorem Dev.setDue_pmc (d) (n) (t) : (Dev.setDue d n t).pmc = d.pmc := (Dev.setDue_touches d n t).same .pmc (by decide)
@[simp] theorem Dev.setDue_bst (d) (n) (t) : (Dev.setDue d n t).bst = d.bst := (Dev.setDue_touches d n t).same .bst (by decide)
@[simp] theorem Dev.setDue_dbg (d) (n) (t) : (Dev.setDue d n t).dbg = d.dbg := (Dev.setDue_touches d n t).same .dbg (by decide)
@[simp] theorem Dev.setDue_gon (d) (n) (t) : (Dev.setDue d n t).gon = d.gon := (Dev.setDue_touches d n t).same .gon (by decide)
@[simp] theorem Dev.setDue_cache (d) (n) (t) : (Dev.setDue d n t).cache = d.cache := (Dev.setDue_touches d n t).same .cache (by decide)
@[simp] theorem Dev.setDue_media (d) (n) (t) : (Dev.setDue d n t).media = d.media := (Dev.setDue_touches d n t).same .media (by decide)
@[simp] theorem Dev.setDue_tracts (d) (n) (t) : (Dev.setDue d n t).tracts = d.tracts := (Dev.setDue_touches d n t).same .tracts (by decide)
@[simp] theorem Dev.setDue_drift (d) (n) (t) : (Dev.setDue d n t).drift = d.drift := (Dev.setDue_touches d n t).same .drift (by decide)
@[simp] theorem Dev.setDue_sec (d) (n) (t) : (Dev.setDue d n t).sec = d.sec := (Dev.setDue_touches d n t).same .sec (by decide)
@[simp] theorem Dev.setDue_str (d) (n) (t) : (Dev.setDue d n t).str = d.str := (Dev.setDue_touches d n t).same .str (by decide)
@[simp] theorem Dev.setDue_lci (d) (n) (t) : (Dev.setDue d n t).lci = d.lci := (Dev.setDue_touches d n t).same .lci (by decide)
@[simp] theorem Dev.setDue_pwr (d) (n) (t) : (Dev.setDue d n t).pwr = d.pwr := (Dev.setDue_touches d n t).same .pwr (by decide)
@[simp] theorem Dev.setDue_therm (d) (n) (t) : (Dev.setDue d n t).therm = d.therm := (Dev.setDue_touches d n t).same .therm (by decide)
@[simp] theorem Dev.setDue_out (d) (n) (t) : (Dev.setDue d n t).out = d.out := (Dev.setDue_touches d n t).same .out (by decide)
@[simp] theorem Dev.setDue_fresh (d) (n) (t) : (Dev.setDue d n t).fresh = d.fresh := (Dev.setDue_touches d n t).same .fresh (by decide)
@[simp] theorem Dev.setDue_head (d) (n) (t) (hd) : (Dev.setDue d n t).head hd = d.head hd := Dev.head_same hd (Dev.setDue_a d n t) (Dev.setDue_b d n t)
@[simp] theorem Dev.setDue_reg (d) (n) (t) (oo) : (Dev.setDue d n t).reg oo = d.reg oo := Dev.reg_same oo (Dev.setDue_regs d n t)
@[simp] theorem Dev.setDue_chan (d) (n) (t) (oo) : (Dev.setDue d n t).chan oo = d.chan oo := Dev.chan_same oo (Dev.setDue_media d n t)
@[simp] theorem Dev.setDue_die (d) (n) (t) (oo) : (Dev.setDue d n t).die oo = d.die oo := Dev.die_same oo (Dev.setDue_media d n t)
@[simp] theorem Dev.setDue_ctl (d) (n) (t) (oo) : (Dev.setDue d n t).ctl oo = d.ctl oo := Dev.ctl_same oo (Dev.setDue_media d n t)
@[simp] theorem Dev.setDue_grp (d) (n) (t) (oo) : (Dev.setDue d n t).grp oo = d.grp oo := Dev.grp_same oo (Dev.setDue_media d n t)
@[simp] theorem Dev.setDue_qp (d) (n) (t) (oo) : (Dev.setDue d n t).qp oo = d.qp oo := Dev.qp_same oo (Dev.setDue_lci d n t)
@[simp] theorem Dev.setDue_cmd (d) (n) (t) (oo) : (Dev.setDue d n t).cmd oo = d.cmd oo := Dev.cmd_same oo (Dev.setDue_lci d n t)
@[simp] theorem Dev.setDue_ent (d) (n) (t) (oo) : (Dev.setDue d n t).ent oo = d.ent oo := Dev.ent_same oo (Dev.setDue_tracts d n t)
@[simp] theorem Dev.setDue_hdr (d) (n) (t) (oo) : (Dev.setDue d n t).hdr oo = d.hdr oo := Dev.hdr_same oo (Dev.setDue_tracts d n t)
@[simp] theorem Dev.setDue_phys (d) (n) (t) (oo) (ii) : (Dev.setDue d n t).phys oo ii = d.phys oo ii := Dev.phys_same oo ii (Dev.setDue_tracts d n t)
@[simp] theorem Dev.setDue_slot (d) (n) (t) (oo) : (Dev.setDue d n t).slot oo = d.slot oo := Dev.slot_same oo (Dev.setDue_sec d n t)
@[simp] theorem Dev.setDue_schan (d) (n) (t) (oo) : (Dev.setDue d n t).schan oo = d.schan oo := Dev.schan_same oo (Dev.setDue_str d n t)
@[simp] theorem Dev.unlose_regs (d) (line) : (Dev.unlose d line).regs = d.regs := (Dev.unlose_touches d line).same .regs (by decide)
@[simp] theorem Dev.unlose_a (d) (line) : (Dev.unlose d line).a = d.a := (Dev.unlose_touches d line).same .a (by decide)
@[simp] theorem Dev.unlose_b (d) (line) : (Dev.unlose d line).b = d.b := (Dev.unlose_touches d line).same .b (by decide)
@[simp] theorem Dev.unlose_tether (d) (line) : (Dev.unlose d line).tether = d.tether := (Dev.unlose_touches d line).same .tether (by decide)
@[simp] theorem Dev.unlose_launch (d) (line) : (Dev.unlose d line).launch = d.launch := (Dev.unlose_touches d line).same .launch (by decide)
@[simp] theorem Dev.unlose_gpio (d) (line) : (Dev.unlose d line).gpio = d.gpio := (Dev.unlose_touches d line).same .gpio (by decide)
@[simp] theorem Dev.unlose_keel (d) (line) : (Dev.unlose d line).keel = d.keel := (Dev.unlose_touches d line).same .keel (by decide)
@[simp] theorem Dev.unlose_log (d) (line) : (Dev.unlose d line).log = d.log := (Dev.unlose_touches d line).same .log (by decide)
@[simp] theorem Dev.unlose_aon (d) (line) : (Dev.unlose d line).aon = d.aon := (Dev.unlose_touches d line).same .aon (by decide)
@[simp] theorem Dev.unlose_cores (d) (line) : (Dev.unlose d line).cores = d.cores := (Dev.unlose_touches d line).same .cores (by decide)
@[simp] theorem Dev.unlose_sems (d) (line) : (Dev.unlose d line).sems = d.sems := (Dev.unlose_touches d line).same .sems (by decide)
@[simp] theorem Dev.unlose_images (d) (line) : (Dev.unlose d line).images = d.images := (Dev.unlose_touches d line).same .images (by decide)
@[simp] theorem Dev.unlose_pmc (d) (line) : (Dev.unlose d line).pmc = d.pmc := (Dev.unlose_touches d line).same .pmc (by decide)
@[simp] theorem Dev.unlose_bst (d) (line) : (Dev.unlose d line).bst = d.bst := (Dev.unlose_touches d line).same .bst (by decide)
@[simp] theorem Dev.unlose_dbg (d) (line) : (Dev.unlose d line).dbg = d.dbg := (Dev.unlose_touches d line).same .dbg (by decide)
@[simp] theorem Dev.unlose_cache (d) (line) : (Dev.unlose d line).cache = d.cache := (Dev.unlose_touches d line).same .cache (by decide)
@[simp] theorem Dev.unlose_media (d) (line) : (Dev.unlose d line).media = d.media := (Dev.unlose_touches d line).same .media (by decide)
@[simp] theorem Dev.unlose_tracts (d) (line) : (Dev.unlose d line).tracts = d.tracts := (Dev.unlose_touches d line).same .tracts (by decide)
@[simp] theorem Dev.unlose_drift (d) (line) : (Dev.unlose d line).drift = d.drift := (Dev.unlose_touches d line).same .drift (by decide)
@[simp] theorem Dev.unlose_sec (d) (line) : (Dev.unlose d line).sec = d.sec := (Dev.unlose_touches d line).same .sec (by decide)
@[simp] theorem Dev.unlose_str (d) (line) : (Dev.unlose d line).str = d.str := (Dev.unlose_touches d line).same .str (by decide)
@[simp] theorem Dev.unlose_lci (d) (line) : (Dev.unlose d line).lci = d.lci := (Dev.unlose_touches d line).same .lci (by decide)
@[simp] theorem Dev.unlose_pwr (d) (line) : (Dev.unlose d line).pwr = d.pwr := (Dev.unlose_touches d line).same .pwr (by decide)
@[simp] theorem Dev.unlose_therm (d) (line) : (Dev.unlose d line).therm = d.therm := (Dev.unlose_touches d line).same .therm (by decide)
@[simp] theorem Dev.unlose_out (d) (line) : (Dev.unlose d line).out = d.out := (Dev.unlose_touches d line).same .out (by decide)
@[simp] theorem Dev.unlose_fresh (d) (line) : (Dev.unlose d line).fresh = d.fresh := (Dev.unlose_touches d line).same .fresh (by decide)
@[simp] theorem Dev.unlose_head (d) (line) (hd) : (Dev.unlose d line).head hd = d.head hd := Dev.head_same hd (Dev.unlose_a d line) (Dev.unlose_b d line)
@[simp] theorem Dev.unlose_reg (d) (line) (oo) : (Dev.unlose d line).reg oo = d.reg oo := Dev.reg_same oo (Dev.unlose_regs d line)
@[simp] theorem Dev.unlose_chan (d) (line) (oo) : (Dev.unlose d line).chan oo = d.chan oo := Dev.chan_same oo (Dev.unlose_media d line)
@[simp] theorem Dev.unlose_die (d) (line) (oo) : (Dev.unlose d line).die oo = d.die oo := Dev.die_same oo (Dev.unlose_media d line)
@[simp] theorem Dev.unlose_ctl (d) (line) (oo) : (Dev.unlose d line).ctl oo = d.ctl oo := Dev.ctl_same oo (Dev.unlose_media d line)
@[simp] theorem Dev.unlose_grp (d) (line) (oo) : (Dev.unlose d line).grp oo = d.grp oo := Dev.grp_same oo (Dev.unlose_media d line)
@[simp] theorem Dev.unlose_qp (d) (line) (oo) : (Dev.unlose d line).qp oo = d.qp oo := Dev.qp_same oo (Dev.unlose_lci d line)
@[simp] theorem Dev.unlose_cmd (d) (line) (oo) : (Dev.unlose d line).cmd oo = d.cmd oo := Dev.cmd_same oo (Dev.unlose_lci d line)
@[simp] theorem Dev.unlose_ent (d) (line) (oo) : (Dev.unlose d line).ent oo = d.ent oo := Dev.ent_same oo (Dev.unlose_tracts d line)
@[simp] theorem Dev.unlose_hdr (d) (line) (oo) : (Dev.unlose d line).hdr oo = d.hdr oo := Dev.hdr_same oo (Dev.unlose_tracts d line)
@[simp] theorem Dev.unlose_phys (d) (line) (oo) (ii) : (Dev.unlose d line).phys oo ii = d.phys oo ii := Dev.phys_same oo ii (Dev.unlose_tracts d line)
@[simp] theorem Dev.unlose_slot (d) (line) (oo) : (Dev.unlose d line).slot oo = d.slot oo := Dev.slot_same oo (Dev.unlose_sec d line)
@[simp] theorem Dev.unlose_schan (d) (line) (oo) : (Dev.unlose d line).schan oo = d.schan oo := Dev.schan_same oo (Dev.unlose_str d line)
@[simp] theorem Dev.migQueue_regs (d) (tract) (why) : (Dev.migQueue d tract why).regs = d.regs := (Dev.migQueue_touches d tract why).same .regs (by decide)
@[simp] theorem Dev.migQueue_a (d) (tract) (why) : (Dev.migQueue d tract why).a = d.a := (Dev.migQueue_touches d tract why).same .a (by decide)
@[simp] theorem Dev.migQueue_b (d) (tract) (why) : (Dev.migQueue d tract why).b = d.b := (Dev.migQueue_touches d tract why).same .b (by decide)
@[simp] theorem Dev.migQueue_tether (d) (tract) (why) : (Dev.migQueue d tract why).tether = d.tether := (Dev.migQueue_touches d tract why).same .tether (by decide)
@[simp] theorem Dev.migQueue_launch (d) (tract) (why) : (Dev.migQueue d tract why).launch = d.launch := (Dev.migQueue_touches d tract why).same .launch (by decide)
@[simp] theorem Dev.migQueue_gpio (d) (tract) (why) : (Dev.migQueue d tract why).gpio = d.gpio := (Dev.migQueue_touches d tract why).same .gpio (by decide)
@[simp] theorem Dev.migQueue_keel (d) (tract) (why) : (Dev.migQueue d tract why).keel = d.keel := (Dev.migQueue_touches d tract why).same .keel (by decide)
@[simp] theorem Dev.migQueue_log (d) (tract) (why) : (Dev.migQueue d tract why).log = d.log := (Dev.migQueue_touches d tract why).same .log (by decide)
@[simp] theorem Dev.migQueue_aon (d) (tract) (why) : (Dev.migQueue d tract why).aon = d.aon := (Dev.migQueue_touches d tract why).same .aon (by decide)
@[simp] theorem Dev.migQueue_cores (d) (tract) (why) : (Dev.migQueue d tract why).cores = d.cores := (Dev.migQueue_touches d tract why).same .cores (by decide)
@[simp] theorem Dev.migQueue_sems (d) (tract) (why) : (Dev.migQueue d tract why).sems = d.sems := (Dev.migQueue_touches d tract why).same .sems (by decide)
@[simp] theorem Dev.migQueue_images (d) (tract) (why) : (Dev.migQueue d tract why).images = d.images := (Dev.migQueue_touches d tract why).same .images (by decide)
@[simp] theorem Dev.migQueue_pmc (d) (tract) (why) : (Dev.migQueue d tract why).pmc = d.pmc := (Dev.migQueue_touches d tract why).same .pmc (by decide)
@[simp] theorem Dev.migQueue_bst (d) (tract) (why) : (Dev.migQueue d tract why).bst = d.bst := (Dev.migQueue_touches d tract why).same .bst (by decide)
@[simp] theorem Dev.migQueue_dbg (d) (tract) (why) : (Dev.migQueue d tract why).dbg = d.dbg := (Dev.migQueue_touches d tract why).same .dbg (by decide)
@[simp] theorem Dev.migQueue_gon (d) (tract) (why) : (Dev.migQueue d tract why).gon = d.gon := (Dev.migQueue_touches d tract why).same .gon (by decide)
@[simp] theorem Dev.migQueue_cache (d) (tract) (why) : (Dev.migQueue d tract why).cache = d.cache := (Dev.migQueue_touches d tract why).same .cache (by decide)
@[simp] theorem Dev.migQueue_media (d) (tract) (why) : (Dev.migQueue d tract why).media = d.media := (Dev.migQueue_touches d tract why).same .media (by decide)
@[simp] theorem Dev.migQueue_drift (d) (tract) (why) : (Dev.migQueue d tract why).drift = d.drift := (Dev.migQueue_touches d tract why).same .drift (by decide)
@[simp] theorem Dev.migQueue_sec (d) (tract) (why) : (Dev.migQueue d tract why).sec = d.sec := (Dev.migQueue_touches d tract why).same .sec (by decide)
@[simp] theorem Dev.migQueue_str (d) (tract) (why) : (Dev.migQueue d tract why).str = d.str := (Dev.migQueue_touches d tract why).same .str (by decide)
@[simp] theorem Dev.migQueue_lci (d) (tract) (why) : (Dev.migQueue d tract why).lci = d.lci := (Dev.migQueue_touches d tract why).same .lci (by decide)
@[simp] theorem Dev.migQueue_pwr (d) (tract) (why) : (Dev.migQueue d tract why).pwr = d.pwr := (Dev.migQueue_touches d tract why).same .pwr (by decide)
@[simp] theorem Dev.migQueue_therm (d) (tract) (why) : (Dev.migQueue d tract why).therm = d.therm := (Dev.migQueue_touches d tract why).same .therm (by decide)
@[simp] theorem Dev.migQueue_out (d) (tract) (why) : (Dev.migQueue d tract why).out = d.out := (Dev.migQueue_touches d tract why).same .out (by decide)
@[simp] theorem Dev.migQueue_fresh (d) (tract) (why) : (Dev.migQueue d tract why).fresh = d.fresh := (Dev.migQueue_touches d tract why).same .fresh (by decide)
@[simp] theorem Dev.migQueue_head (d) (tract) (why) (hd) : (Dev.migQueue d tract why).head hd = d.head hd := Dev.head_same hd (Dev.migQueue_a d tract why) (Dev.migQueue_b d tract why)
@[simp] theorem Dev.migQueue_reg (d) (tract) (why) (oo) : (Dev.migQueue d tract why).reg oo = d.reg oo := Dev.reg_same oo (Dev.migQueue_regs d tract why)
@[simp] theorem Dev.migQueue_chan (d) (tract) (why) (oo) : (Dev.migQueue d tract why).chan oo = d.chan oo := Dev.chan_same oo (Dev.migQueue_media d tract why)
@[simp] theorem Dev.migQueue_die (d) (tract) (why) (oo) : (Dev.migQueue d tract why).die oo = d.die oo := Dev.die_same oo (Dev.migQueue_media d tract why)
@[simp] theorem Dev.migQueue_ctl (d) (tract) (why) (oo) : (Dev.migQueue d tract why).ctl oo = d.ctl oo := Dev.ctl_same oo (Dev.migQueue_media d tract why)
@[simp] theorem Dev.migQueue_grp (d) (tract) (why) (oo) : (Dev.migQueue d tract why).grp oo = d.grp oo := Dev.grp_same oo (Dev.migQueue_media d tract why)
@[simp] theorem Dev.migQueue_qp (d) (tract) (why) (oo) : (Dev.migQueue d tract why).qp oo = d.qp oo := Dev.qp_same oo (Dev.migQueue_lci d tract why)
@[simp] theorem Dev.migQueue_cmd (d) (tract) (why) (oo) : (Dev.migQueue d tract why).cmd oo = d.cmd oo := Dev.cmd_same oo (Dev.migQueue_lci d tract why)
@[simp] theorem Dev.migQueue_slot (d) (tract) (why) (oo) : (Dev.migQueue d tract why).slot oo = d.slot oo := Dev.slot_same oo (Dev.migQueue_sec d tract why)
@[simp] theorem Dev.migQueue_schan (d) (tract) (why) (oo) : (Dev.migQueue d tract why).schan oo = d.schan oo := Dev.schan_same oo (Dev.migQueue_str d tract why)
@[simp] theorem Dev.markPhys_regs (d) (g) (i) (slc) (state) (refs) : (Dev.markPhys d g i slc state refs).regs = d.regs := (Dev.markPhys_touches d g i slc state refs).same .regs (by decide)
@[simp] theorem Dev.markPhys_a (d) (g) (i) (slc) (state) (refs) : (Dev.markPhys d g i slc state refs).a = d.a := (Dev.markPhys_touches d g i slc state refs).same .a (by decide)
@[simp] theorem Dev.markPhys_b (d) (g) (i) (slc) (state) (refs) : (Dev.markPhys d g i slc state refs).b = d.b := (Dev.markPhys_touches d g i slc state refs).same .b (by decide)
@[simp] theorem Dev.markPhys_tether (d) (g) (i) (slc) (state) (refs) : (Dev.markPhys d g i slc state refs).tether = d.tether := (Dev.markPhys_touches d g i slc state refs).same .tether (by decide)
@[simp] theorem Dev.markPhys_launch (d) (g) (i) (slc) (state) (refs) : (Dev.markPhys d g i slc state refs).launch = d.launch := (Dev.markPhys_touches d g i slc state refs).same .launch (by decide)
@[simp] theorem Dev.markPhys_gpio (d) (g) (i) (slc) (state) (refs) : (Dev.markPhys d g i slc state refs).gpio = d.gpio := (Dev.markPhys_touches d g i slc state refs).same .gpio (by decide)
@[simp] theorem Dev.markPhys_keel (d) (g) (i) (slc) (state) (refs) : (Dev.markPhys d g i slc state refs).keel = d.keel := (Dev.markPhys_touches d g i slc state refs).same .keel (by decide)
@[simp] theorem Dev.markPhys_log (d) (g) (i) (slc) (state) (refs) : (Dev.markPhys d g i slc state refs).log = d.log := (Dev.markPhys_touches d g i slc state refs).same .log (by decide)
@[simp] theorem Dev.markPhys_aon (d) (g) (i) (slc) (state) (refs) : (Dev.markPhys d g i slc state refs).aon = d.aon := (Dev.markPhys_touches d g i slc state refs).same .aon (by decide)
@[simp] theorem Dev.markPhys_cores (d) (g) (i) (slc) (state) (refs) : (Dev.markPhys d g i slc state refs).cores = d.cores := (Dev.markPhys_touches d g i slc state refs).same .cores (by decide)
@[simp] theorem Dev.markPhys_sems (d) (g) (i) (slc) (state) (refs) : (Dev.markPhys d g i slc state refs).sems = d.sems := (Dev.markPhys_touches d g i slc state refs).same .sems (by decide)
@[simp] theorem Dev.markPhys_images (d) (g) (i) (slc) (state) (refs) : (Dev.markPhys d g i slc state refs).images = d.images := (Dev.markPhys_touches d g i slc state refs).same .images (by decide)
@[simp] theorem Dev.markPhys_pmc (d) (g) (i) (slc) (state) (refs) : (Dev.markPhys d g i slc state refs).pmc = d.pmc := (Dev.markPhys_touches d g i slc state refs).same .pmc (by decide)
@[simp] theorem Dev.markPhys_bst (d) (g) (i) (slc) (state) (refs) : (Dev.markPhys d g i slc state refs).bst = d.bst := (Dev.markPhys_touches d g i slc state refs).same .bst (by decide)
@[simp] theorem Dev.markPhys_dbg (d) (g) (i) (slc) (state) (refs) : (Dev.markPhys d g i slc state refs).dbg = d.dbg := (Dev.markPhys_touches d g i slc state refs).same .dbg (by decide)
@[simp] theorem Dev.markPhys_gon (d) (g) (i) (slc) (state) (refs) : (Dev.markPhys d g i slc state refs).gon = d.gon := (Dev.markPhys_touches d g i slc state refs).same .gon (by decide)
@[simp] theorem Dev.markPhys_cache (d) (g) (i) (slc) (state) (refs) : (Dev.markPhys d g i slc state refs).cache = d.cache := (Dev.markPhys_touches d g i slc state refs).same .cache (by decide)
@[simp] theorem Dev.markPhys_media (d) (g) (i) (slc) (state) (refs) : (Dev.markPhys d g i slc state refs).media = d.media := (Dev.markPhys_touches d g i slc state refs).same .media (by decide)
@[simp] theorem Dev.markPhys_drift (d) (g) (i) (slc) (state) (refs) : (Dev.markPhys d g i slc state refs).drift = d.drift := (Dev.markPhys_touches d g i slc state refs).same .drift (by decide)
@[simp] theorem Dev.markPhys_sec (d) (g) (i) (slc) (state) (refs) : (Dev.markPhys d g i slc state refs).sec = d.sec := (Dev.markPhys_touches d g i slc state refs).same .sec (by decide)
@[simp] theorem Dev.markPhys_str (d) (g) (i) (slc) (state) (refs) : (Dev.markPhys d g i slc state refs).str = d.str := (Dev.markPhys_touches d g i slc state refs).same .str (by decide)
@[simp] theorem Dev.markPhys_lci (d) (g) (i) (slc) (state) (refs) : (Dev.markPhys d g i slc state refs).lci = d.lci := (Dev.markPhys_touches d g i slc state refs).same .lci (by decide)
@[simp] theorem Dev.markPhys_pwr (d) (g) (i) (slc) (state) (refs) : (Dev.markPhys d g i slc state refs).pwr = d.pwr := (Dev.markPhys_touches d g i slc state refs).same .pwr (by decide)
@[simp] theorem Dev.markPhys_therm (d) (g) (i) (slc) (state) (refs) : (Dev.markPhys d g i slc state refs).therm = d.therm := (Dev.markPhys_touches d g i slc state refs).same .therm (by decide)
@[simp] theorem Dev.markPhys_out (d) (g) (i) (slc) (state) (refs) : (Dev.markPhys d g i slc state refs).out = d.out := (Dev.markPhys_touches d g i slc state refs).same .out (by decide)
@[simp] theorem Dev.markPhys_fresh (d) (g) (i) (slc) (state) (refs) : (Dev.markPhys d g i slc state refs).fresh = d.fresh := (Dev.markPhys_touches d g i slc state refs).same .fresh (by decide)
@[simp] theorem Dev.markPhys_head (d) (g) (i) (slc) (state) (refs) (hd) : (Dev.markPhys d g i slc state refs).head hd = d.head hd := Dev.head_same hd (Dev.markPhys_a d g i slc state refs) (Dev.markPhys_b d g i slc state refs)
@[simp] theorem Dev.markPhys_reg (d) (g) (i) (slc) (state) (refs) (oo) : (Dev.markPhys d g i slc state refs).reg oo = d.reg oo := Dev.reg_same oo (Dev.markPhys_regs d g i slc state refs)
@[simp] theorem Dev.markPhys_chan (d) (g) (i) (slc) (state) (refs) (oo) : (Dev.markPhys d g i slc state refs).chan oo = d.chan oo := Dev.chan_same oo (Dev.markPhys_media d g i slc state refs)
@[simp] theorem Dev.markPhys_die (d) (g) (i) (slc) (state) (refs) (oo) : (Dev.markPhys d g i slc state refs).die oo = d.die oo := Dev.die_same oo (Dev.markPhys_media d g i slc state refs)
@[simp] theorem Dev.markPhys_ctl (d) (g) (i) (slc) (state) (refs) (oo) : (Dev.markPhys d g i slc state refs).ctl oo = d.ctl oo := Dev.ctl_same oo (Dev.markPhys_media d g i slc state refs)
@[simp] theorem Dev.markPhys_grp (d) (g) (i) (slc) (state) (refs) (oo) : (Dev.markPhys d g i slc state refs).grp oo = d.grp oo := Dev.grp_same oo (Dev.markPhys_media d g i slc state refs)
@[simp] theorem Dev.markPhys_qp (d) (g) (i) (slc) (state) (refs) (oo) : (Dev.markPhys d g i slc state refs).qp oo = d.qp oo := Dev.qp_same oo (Dev.markPhys_lci d g i slc state refs)
@[simp] theorem Dev.markPhys_cmd (d) (g) (i) (slc) (state) (refs) (oo) : (Dev.markPhys d g i slc state refs).cmd oo = d.cmd oo := Dev.cmd_same oo (Dev.markPhys_lci d g i slc state refs)
@[simp] theorem Dev.markPhys_slot (d) (g) (i) (slc) (state) (refs) (oo) : (Dev.markPhys d g i slc state refs).slot oo = d.slot oo := Dev.slot_same oo (Dev.markPhys_sec d g i slc state refs)
@[simp] theorem Dev.markPhys_schan (d) (g) (i) (slc) (state) (refs) (oo) : (Dev.markPhys d g i slc state refs).schan oo = d.schan oo := Dev.schan_same oo (Dev.markPhys_str d g i slc state refs)
@[simp] theorem Dev.mapMig_regs (d) (t) (f) : (Dev.mapMig d t f).regs = d.regs := (Dev.mapMig_touches d t f).same .regs (by decide)
@[simp] theorem Dev.mapMig_a (d) (t) (f) : (Dev.mapMig d t f).a = d.a := (Dev.mapMig_touches d t f).same .a (by decide)
@[simp] theorem Dev.mapMig_b (d) (t) (f) : (Dev.mapMig d t f).b = d.b := (Dev.mapMig_touches d t f).same .b (by decide)
@[simp] theorem Dev.mapMig_tether (d) (t) (f) : (Dev.mapMig d t f).tether = d.tether := (Dev.mapMig_touches d t f).same .tether (by decide)
@[simp] theorem Dev.mapMig_launch (d) (t) (f) : (Dev.mapMig d t f).launch = d.launch := (Dev.mapMig_touches d t f).same .launch (by decide)
@[simp] theorem Dev.mapMig_gpio (d) (t) (f) : (Dev.mapMig d t f).gpio = d.gpio := (Dev.mapMig_touches d t f).same .gpio (by decide)
@[simp] theorem Dev.mapMig_keel (d) (t) (f) : (Dev.mapMig d t f).keel = d.keel := (Dev.mapMig_touches d t f).same .keel (by decide)
@[simp] theorem Dev.mapMig_log (d) (t) (f) : (Dev.mapMig d t f).log = d.log := (Dev.mapMig_touches d t f).same .log (by decide)
@[simp] theorem Dev.mapMig_aon (d) (t) (f) : (Dev.mapMig d t f).aon = d.aon := (Dev.mapMig_touches d t f).same .aon (by decide)
@[simp] theorem Dev.mapMig_cores (d) (t) (f) : (Dev.mapMig d t f).cores = d.cores := (Dev.mapMig_touches d t f).same .cores (by decide)
@[simp] theorem Dev.mapMig_sems (d) (t) (f) : (Dev.mapMig d t f).sems = d.sems := (Dev.mapMig_touches d t f).same .sems (by decide)
@[simp] theorem Dev.mapMig_images (d) (t) (f) : (Dev.mapMig d t f).images = d.images := (Dev.mapMig_touches d t f).same .images (by decide)
@[simp] theorem Dev.mapMig_pmc (d) (t) (f) : (Dev.mapMig d t f).pmc = d.pmc := (Dev.mapMig_touches d t f).same .pmc (by decide)
@[simp] theorem Dev.mapMig_bst (d) (t) (f) : (Dev.mapMig d t f).bst = d.bst := (Dev.mapMig_touches d t f).same .bst (by decide)
@[simp] theorem Dev.mapMig_dbg (d) (t) (f) : (Dev.mapMig d t f).dbg = d.dbg := (Dev.mapMig_touches d t f).same .dbg (by decide)
@[simp] theorem Dev.mapMig_gon (d) (t) (f) : (Dev.mapMig d t f).gon = d.gon := (Dev.mapMig_touches d t f).same .gon (by decide)
@[simp] theorem Dev.mapMig_cache (d) (t) (f) : (Dev.mapMig d t f).cache = d.cache := (Dev.mapMig_touches d t f).same .cache (by decide)
@[simp] theorem Dev.mapMig_media (d) (t) (f) : (Dev.mapMig d t f).media = d.media := (Dev.mapMig_touches d t f).same .media (by decide)
@[simp] theorem Dev.mapMig_drift (d) (t) (f) : (Dev.mapMig d t f).drift = d.drift := (Dev.mapMig_touches d t f).same .drift (by decide)
@[simp] theorem Dev.mapMig_sec (d) (t) (f) : (Dev.mapMig d t f).sec = d.sec := (Dev.mapMig_touches d t f).same .sec (by decide)
@[simp] theorem Dev.mapMig_str (d) (t) (f) : (Dev.mapMig d t f).str = d.str := (Dev.mapMig_touches d t f).same .str (by decide)
@[simp] theorem Dev.mapMig_lci (d) (t) (f) : (Dev.mapMig d t f).lci = d.lci := (Dev.mapMig_touches d t f).same .lci (by decide)
@[simp] theorem Dev.mapMig_pwr (d) (t) (f) : (Dev.mapMig d t f).pwr = d.pwr := (Dev.mapMig_touches d t f).same .pwr (by decide)
@[simp] theorem Dev.mapMig_therm (d) (t) (f) : (Dev.mapMig d t f).therm = d.therm := (Dev.mapMig_touches d t f).same .therm (by decide)
@[simp] theorem Dev.mapMig_out (d) (t) (f) : (Dev.mapMig d t f).out = d.out := (Dev.mapMig_touches d t f).same .out (by decide)
@[simp] theorem Dev.mapMig_fresh (d) (t) (f) : (Dev.mapMig d t f).fresh = d.fresh := (Dev.mapMig_touches d t f).same .fresh (by decide)
@[simp] theorem Dev.mapMig_head (d) (t) (f) (hd) : (Dev.mapMig d t f).head hd = d.head hd := Dev.head_same hd (Dev.mapMig_a d t f) (Dev.mapMig_b d t f)
@[simp] theorem Dev.mapMig_reg (d) (t) (f) (oo) : (Dev.mapMig d t f).reg oo = d.reg oo := Dev.reg_same oo (Dev.mapMig_regs d t f)
@[simp] theorem Dev.mapMig_chan (d) (t) (f) (oo) : (Dev.mapMig d t f).chan oo = d.chan oo := Dev.chan_same oo (Dev.mapMig_media d t f)
@[simp] theorem Dev.mapMig_die (d) (t) (f) (oo) : (Dev.mapMig d t f).die oo = d.die oo := Dev.die_same oo (Dev.mapMig_media d t f)
@[simp] theorem Dev.mapMig_ctl (d) (t) (f) (oo) : (Dev.mapMig d t f).ctl oo = d.ctl oo := Dev.ctl_same oo (Dev.mapMig_media d t f)
@[simp] theorem Dev.mapMig_grp (d) (t) (f) (oo) : (Dev.mapMig d t f).grp oo = d.grp oo := Dev.grp_same oo (Dev.mapMig_media d t f)
@[simp] theorem Dev.mapMig_qp (d) (t) (f) (oo) : (Dev.mapMig d t f).qp oo = d.qp oo := Dev.qp_same oo (Dev.mapMig_lci d t f)
@[simp] theorem Dev.mapMig_cmd (d) (t) (f) (oo) : (Dev.mapMig d t f).cmd oo = d.cmd oo := Dev.cmd_same oo (Dev.mapMig_lci d t f)
@[simp] theorem Dev.mapMig_slot (d) (t) (f) (oo) : (Dev.mapMig d t f).slot oo = d.slot oo := Dev.slot_same oo (Dev.mapMig_sec d t f)
@[simp] theorem Dev.mapMig_schan (d) (t) (f) (oo) : (Dev.mapMig d t f).schan oo = d.schan oo := Dev.schan_same oo (Dev.mapMig_str d t f)
@[simp] theorem Dev.rmEnd_regs (d) (status) : (Dev.rmEnd d status).regs = d.regs := (Dev.rmEnd_touches d status).same .regs (by decide)
@[simp] theorem Dev.rmEnd_a (d) (status) : (Dev.rmEnd d status).a = d.a := (Dev.rmEnd_touches d status).same .a (by decide)
@[simp] theorem Dev.rmEnd_b (d) (status) : (Dev.rmEnd d status).b = d.b := (Dev.rmEnd_touches d status).same .b (by decide)
@[simp] theorem Dev.rmEnd_tether (d) (status) : (Dev.rmEnd d status).tether = d.tether := (Dev.rmEnd_touches d status).same .tether (by decide)
@[simp] theorem Dev.rmEnd_launch (d) (status) : (Dev.rmEnd d status).launch = d.launch := (Dev.rmEnd_touches d status).same .launch (by decide)
@[simp] theorem Dev.rmEnd_gpio (d) (status) : (Dev.rmEnd d status).gpio = d.gpio := (Dev.rmEnd_touches d status).same .gpio (by decide)
@[simp] theorem Dev.rmEnd_keel (d) (status) : (Dev.rmEnd d status).keel = d.keel := (Dev.rmEnd_touches d status).same .keel (by decide)
@[simp] theorem Dev.rmEnd_log (d) (status) : (Dev.rmEnd d status).log = d.log := (Dev.rmEnd_touches d status).same .log (by decide)
@[simp] theorem Dev.rmEnd_aon (d) (status) : (Dev.rmEnd d status).aon = d.aon := (Dev.rmEnd_touches d status).same .aon (by decide)
@[simp] theorem Dev.rmEnd_cores (d) (status) : (Dev.rmEnd d status).cores = d.cores := (Dev.rmEnd_touches d status).same .cores (by decide)
@[simp] theorem Dev.rmEnd_sems (d) (status) : (Dev.rmEnd d status).sems = d.sems := (Dev.rmEnd_touches d status).same .sems (by decide)
@[simp] theorem Dev.rmEnd_images (d) (status) : (Dev.rmEnd d status).images = d.images := (Dev.rmEnd_touches d status).same .images (by decide)
@[simp] theorem Dev.rmEnd_pmc (d) (status) : (Dev.rmEnd d status).pmc = d.pmc := (Dev.rmEnd_touches d status).same .pmc (by decide)
@[simp] theorem Dev.rmEnd_bst (d) (status) : (Dev.rmEnd d status).bst = d.bst := (Dev.rmEnd_touches d status).same .bst (by decide)
@[simp] theorem Dev.rmEnd_dbg (d) (status) : (Dev.rmEnd d status).dbg = d.dbg := (Dev.rmEnd_touches d status).same .dbg (by decide)
@[simp] theorem Dev.rmEnd_gon (d) (status) : (Dev.rmEnd d status).gon = d.gon := (Dev.rmEnd_touches d status).same .gon (by decide)
@[simp] theorem Dev.rmEnd_cache (d) (status) : (Dev.rmEnd d status).cache = d.cache := (Dev.rmEnd_touches d status).same .cache (by decide)
@[simp] theorem Dev.rmEnd_media (d) (status) : (Dev.rmEnd d status).media = d.media := (Dev.rmEnd_touches d status).same .media (by decide)
@[simp] theorem Dev.rmEnd_tracts (d) (status) : (Dev.rmEnd d status).tracts = d.tracts := (Dev.rmEnd_touches d status).same .tracts (by decide)
@[simp] theorem Dev.rmEnd_drift (d) (status) : (Dev.rmEnd d status).drift = d.drift := (Dev.rmEnd_touches d status).same .drift (by decide)
@[simp] theorem Dev.rmEnd_sec (d) (status) : (Dev.rmEnd d status).sec = d.sec := (Dev.rmEnd_touches d status).same .sec (by decide)
@[simp] theorem Dev.rmEnd_str (d) (status) : (Dev.rmEnd d status).str = d.str := (Dev.rmEnd_touches d status).same .str (by decide)
@[simp] theorem Dev.rmEnd_pwr (d) (status) : (Dev.rmEnd d status).pwr = d.pwr := (Dev.rmEnd_touches d status).same .pwr (by decide)
@[simp] theorem Dev.rmEnd_therm (d) (status) : (Dev.rmEnd d status).therm = d.therm := (Dev.rmEnd_touches d status).same .therm (by decide)
@[simp] theorem Dev.rmEnd_out (d) (status) : (Dev.rmEnd d status).out = d.out := (Dev.rmEnd_touches d status).same .out (by decide)
@[simp] theorem Dev.rmEnd_fresh (d) (status) : (Dev.rmEnd d status).fresh = d.fresh := (Dev.rmEnd_touches d status).same .fresh (by decide)
@[simp] theorem Dev.rmEnd_head (d) (status) (hd) : (Dev.rmEnd d status).head hd = d.head hd := Dev.head_same hd (Dev.rmEnd_a d status) (Dev.rmEnd_b d status)
@[simp] theorem Dev.rmEnd_reg (d) (status) (oo) : (Dev.rmEnd d status).reg oo = d.reg oo := Dev.reg_same oo (Dev.rmEnd_regs d status)
@[simp] theorem Dev.rmEnd_chan (d) (status) (oo) : (Dev.rmEnd d status).chan oo = d.chan oo := Dev.chan_same oo (Dev.rmEnd_media d status)
@[simp] theorem Dev.rmEnd_die (d) (status) (oo) : (Dev.rmEnd d status).die oo = d.die oo := Dev.die_same oo (Dev.rmEnd_media d status)
@[simp] theorem Dev.rmEnd_ctl (d) (status) (oo) : (Dev.rmEnd d status).ctl oo = d.ctl oo := Dev.ctl_same oo (Dev.rmEnd_media d status)
@[simp] theorem Dev.rmEnd_grp (d) (status) (oo) : (Dev.rmEnd d status).grp oo = d.grp oo := Dev.grp_same oo (Dev.rmEnd_media d status)
@[simp] theorem Dev.rmEnd_ent (d) (status) (oo) : (Dev.rmEnd d status).ent oo = d.ent oo := Dev.ent_same oo (Dev.rmEnd_tracts d status)
@[simp] theorem Dev.rmEnd_hdr (d) (status) (oo) : (Dev.rmEnd d status).hdr oo = d.hdr oo := Dev.hdr_same oo (Dev.rmEnd_tracts d status)
@[simp] theorem Dev.rmEnd_phys (d) (status) (oo) (ii) : (Dev.rmEnd d status).phys oo ii = d.phys oo ii := Dev.phys_same oo ii (Dev.rmEnd_tracts d status)
@[simp] theorem Dev.rmEnd_slot (d) (status) (oo) : (Dev.rmEnd d status).slot oo = d.slot oo := Dev.slot_same oo (Dev.rmEnd_sec d status)
@[simp] theorem Dev.rmEnd_schan (d) (status) (oo) : (Dev.rmEnd d status).schan oo = d.schan oo := Dev.schan_same oo (Dev.rmEnd_str d status)
@[simp] theorem Dev.mapSnap_regs (d) (h) (f) : (Dev.mapSnap d h f).regs = d.regs := (Dev.mapSnap_touches d h f).same .regs (by decide)
@[simp] theorem Dev.mapSnap_a (d) (h) (f) : (Dev.mapSnap d h f).a = d.a := (Dev.mapSnap_touches d h f).same .a (by decide)
@[simp] theorem Dev.mapSnap_b (d) (h) (f) : (Dev.mapSnap d h f).b = d.b := (Dev.mapSnap_touches d h f).same .b (by decide)
@[simp] theorem Dev.mapSnap_tether (d) (h) (f) : (Dev.mapSnap d h f).tether = d.tether := (Dev.mapSnap_touches d h f).same .tether (by decide)
@[simp] theorem Dev.mapSnap_launch (d) (h) (f) : (Dev.mapSnap d h f).launch = d.launch := (Dev.mapSnap_touches d h f).same .launch (by decide)
@[simp] theorem Dev.mapSnap_gpio (d) (h) (f) : (Dev.mapSnap d h f).gpio = d.gpio := (Dev.mapSnap_touches d h f).same .gpio (by decide)
@[simp] theorem Dev.mapSnap_keel (d) (h) (f) : (Dev.mapSnap d h f).keel = d.keel := (Dev.mapSnap_touches d h f).same .keel (by decide)
@[simp] theorem Dev.mapSnap_log (d) (h) (f) : (Dev.mapSnap d h f).log = d.log := (Dev.mapSnap_touches d h f).same .log (by decide)
@[simp] theorem Dev.mapSnap_aon (d) (h) (f) : (Dev.mapSnap d h f).aon = d.aon := (Dev.mapSnap_touches d h f).same .aon (by decide)
@[simp] theorem Dev.mapSnap_cores (d) (h) (f) : (Dev.mapSnap d h f).cores = d.cores := (Dev.mapSnap_touches d h f).same .cores (by decide)
@[simp] theorem Dev.mapSnap_sems (d) (h) (f) : (Dev.mapSnap d h f).sems = d.sems := (Dev.mapSnap_touches d h f).same .sems (by decide)
@[simp] theorem Dev.mapSnap_images (d) (h) (f) : (Dev.mapSnap d h f).images = d.images := (Dev.mapSnap_touches d h f).same .images (by decide)
@[simp] theorem Dev.mapSnap_pmc (d) (h) (f) : (Dev.mapSnap d h f).pmc = d.pmc := (Dev.mapSnap_touches d h f).same .pmc (by decide)
@[simp] theorem Dev.mapSnap_bst (d) (h) (f) : (Dev.mapSnap d h f).bst = d.bst := (Dev.mapSnap_touches d h f).same .bst (by decide)
@[simp] theorem Dev.mapSnap_dbg (d) (h) (f) : (Dev.mapSnap d h f).dbg = d.dbg := (Dev.mapSnap_touches d h f).same .dbg (by decide)
@[simp] theorem Dev.mapSnap_gon (d) (h) (f) : (Dev.mapSnap d h f).gon = d.gon := (Dev.mapSnap_touches d h f).same .gon (by decide)
@[simp] theorem Dev.mapSnap_cache (d) (h) (f) : (Dev.mapSnap d h f).cache = d.cache := (Dev.mapSnap_touches d h f).same .cache (by decide)
@[simp] theorem Dev.mapSnap_media (d) (h) (f) : (Dev.mapSnap d h f).media = d.media := (Dev.mapSnap_touches d h f).same .media (by decide)
@[simp] theorem Dev.mapSnap_tracts (d) (h) (f) : (Dev.mapSnap d h f).tracts = d.tracts := (Dev.mapSnap_touches d h f).same .tracts (by decide)
@[simp] theorem Dev.mapSnap_drift (d) (h) (f) : (Dev.mapSnap d h f).drift = d.drift := (Dev.mapSnap_touches d h f).same .drift (by decide)
@[simp] theorem Dev.mapSnap_sec (d) (h) (f) : (Dev.mapSnap d h f).sec = d.sec := (Dev.mapSnap_touches d h f).same .sec (by decide)
@[simp] theorem Dev.mapSnap_lci (d) (h) (f) : (Dev.mapSnap d h f).lci = d.lci := (Dev.mapSnap_touches d h f).same .lci (by decide)
@[simp] theorem Dev.mapSnap_pwr (d) (h) (f) : (Dev.mapSnap d h f).pwr = d.pwr := (Dev.mapSnap_touches d h f).same .pwr (by decide)
@[simp] theorem Dev.mapSnap_therm (d) (h) (f) : (Dev.mapSnap d h f).therm = d.therm := (Dev.mapSnap_touches d h f).same .therm (by decide)
@[simp] theorem Dev.mapSnap_out (d) (h) (f) : (Dev.mapSnap d h f).out = d.out := (Dev.mapSnap_touches d h f).same .out (by decide)
@[simp] theorem Dev.mapSnap_fresh (d) (h) (f) : (Dev.mapSnap d h f).fresh = d.fresh := (Dev.mapSnap_touches d h f).same .fresh (by decide)
@[simp] theorem Dev.mapSnap_head (d) (h) (f) (hd) : (Dev.mapSnap d h f).head hd = d.head hd := Dev.head_same hd (Dev.mapSnap_a d h f) (Dev.mapSnap_b d h f)
@[simp] theorem Dev.mapSnap_reg (d) (h) (f) (oo) : (Dev.mapSnap d h f).reg oo = d.reg oo := Dev.reg_same oo (Dev.mapSnap_regs d h f)
@[simp] theorem Dev.mapSnap_chan (d) (h) (f) (oo) : (Dev.mapSnap d h f).chan oo = d.chan oo := Dev.chan_same oo (Dev.mapSnap_media d h f)
@[simp] theorem Dev.mapSnap_die (d) (h) (f) (oo) : (Dev.mapSnap d h f).die oo = d.die oo := Dev.die_same oo (Dev.mapSnap_media d h f)
@[simp] theorem Dev.mapSnap_ctl (d) (h) (f) (oo) : (Dev.mapSnap d h f).ctl oo = d.ctl oo := Dev.ctl_same oo (Dev.mapSnap_media d h f)
@[simp] theorem Dev.mapSnap_grp (d) (h) (f) (oo) : (Dev.mapSnap d h f).grp oo = d.grp oo := Dev.grp_same oo (Dev.mapSnap_media d h f)
@[simp] theorem Dev.mapSnap_qp (d) (h) (f) (oo) : (Dev.mapSnap d h f).qp oo = d.qp oo := Dev.qp_same oo (Dev.mapSnap_lci d h f)
@[simp] theorem Dev.mapSnap_cmd (d) (h) (f) (oo) : (Dev.mapSnap d h f).cmd oo = d.cmd oo := Dev.cmd_same oo (Dev.mapSnap_lci d h f)
@[simp] theorem Dev.mapSnap_ent (d) (h) (f) (oo) : (Dev.mapSnap d h f).ent oo = d.ent oo := Dev.ent_same oo (Dev.mapSnap_tracts d h f)
@[simp] theorem Dev.mapSnap_hdr (d) (h) (f) (oo) : (Dev.mapSnap d h f).hdr oo = d.hdr oo := Dev.hdr_same oo (Dev.mapSnap_tracts d h f)
@[simp] theorem Dev.mapSnap_phys (d) (h) (f) (oo) (ii) : (Dev.mapSnap d h f).phys oo ii = d.phys oo ii := Dev.phys_same oo ii (Dev.mapSnap_tracts d h f)
@[simp] theorem Dev.mapSnap_slot (d) (h) (f) (oo) : (Dev.mapSnap d h f).slot oo = d.slot oo := Dev.slot_same oo (Dev.mapSnap_sec d h f)
@[simp] theorem Dev.useReq_regs (d) (h) : (Dev.useReq d h).regs = d.regs := (Dev.useReq_touches d h).same .regs (by decide)
@[simp] theorem Dev.useReq_tether (d) (h) : (Dev.useReq d h).tether = d.tether := (Dev.useReq_touches d h).same .tether (by decide)
@[simp] theorem Dev.useReq_launch (d) (h) : (Dev.useReq d h).launch = d.launch := (Dev.useReq_touches d h).same .launch (by decide)
@[simp] theorem Dev.useReq_gpio (d) (h) : (Dev.useReq d h).gpio = d.gpio := (Dev.useReq_touches d h).same .gpio (by decide)
@[simp] theorem Dev.useReq_keel (d) (h) : (Dev.useReq d h).keel = d.keel := (Dev.useReq_touches d h).same .keel (by decide)
@[simp] theorem Dev.useReq_log (d) (h) : (Dev.useReq d h).log = d.log := (Dev.useReq_touches d h).same .log (by decide)
@[simp] theorem Dev.useReq_aon (d) (h) : (Dev.useReq d h).aon = d.aon := (Dev.useReq_touches d h).same .aon (by decide)
@[simp] theorem Dev.useReq_cores (d) (h) : (Dev.useReq d h).cores = d.cores := (Dev.useReq_touches d h).same .cores (by decide)
@[simp] theorem Dev.useReq_sems (d) (h) : (Dev.useReq d h).sems = d.sems := (Dev.useReq_touches d h).same .sems (by decide)
@[simp] theorem Dev.useReq_images (d) (h) : (Dev.useReq d h).images = d.images := (Dev.useReq_touches d h).same .images (by decide)
@[simp] theorem Dev.useReq_pmc (d) (h) : (Dev.useReq d h).pmc = d.pmc := (Dev.useReq_touches d h).same .pmc (by decide)
@[simp] theorem Dev.useReq_bst (d) (h) : (Dev.useReq d h).bst = d.bst := (Dev.useReq_touches d h).same .bst (by decide)
@[simp] theorem Dev.useReq_dbg (d) (h) : (Dev.useReq d h).dbg = d.dbg := (Dev.useReq_touches d h).same .dbg (by decide)
@[simp] theorem Dev.useReq_gon (d) (h) : (Dev.useReq d h).gon = d.gon := (Dev.useReq_touches d h).same .gon (by decide)
@[simp] theorem Dev.useReq_cache (d) (h) : (Dev.useReq d h).cache = d.cache := (Dev.useReq_touches d h).same .cache (by decide)
@[simp] theorem Dev.useReq_media (d) (h) : (Dev.useReq d h).media = d.media := (Dev.useReq_touches d h).same .media (by decide)
@[simp] theorem Dev.useReq_tracts (d) (h) : (Dev.useReq d h).tracts = d.tracts := (Dev.useReq_touches d h).same .tracts (by decide)
@[simp] theorem Dev.useReq_drift (d) (h) : (Dev.useReq d h).drift = d.drift := (Dev.useReq_touches d h).same .drift (by decide)
@[simp] theorem Dev.useReq_sec (d) (h) : (Dev.useReq d h).sec = d.sec := (Dev.useReq_touches d h).same .sec (by decide)
@[simp] theorem Dev.useReq_str (d) (h) : (Dev.useReq d h).str = d.str := (Dev.useReq_touches d h).same .str (by decide)
@[simp] theorem Dev.useReq_lci (d) (h) : (Dev.useReq d h).lci = d.lci := (Dev.useReq_touches d h).same .lci (by decide)
@[simp] theorem Dev.useReq_pwr (d) (h) : (Dev.useReq d h).pwr = d.pwr := (Dev.useReq_touches d h).same .pwr (by decide)
@[simp] theorem Dev.useReq_therm (d) (h) : (Dev.useReq d h).therm = d.therm := (Dev.useReq_touches d h).same .therm (by decide)
@[simp] theorem Dev.useReq_out (d) (h) : (Dev.useReq d h).out = d.out := (Dev.useReq_touches d h).same .out (by decide)
@[simp] theorem Dev.useReq_fresh (d) (h) : (Dev.useReq d h).fresh = d.fresh := (Dev.useReq_touches d h).same .fresh (by decide)
@[simp] theorem Dev.useReq_reg (d) (h) (oo) : (Dev.useReq d h).reg oo = d.reg oo := Dev.reg_same oo (Dev.useReq_regs d h)
@[simp] theorem Dev.useReq_chan (d) (h) (oo) : (Dev.useReq d h).chan oo = d.chan oo := Dev.chan_same oo (Dev.useReq_media d h)
@[simp] theorem Dev.useReq_die (d) (h) (oo) : (Dev.useReq d h).die oo = d.die oo := Dev.die_same oo (Dev.useReq_media d h)
@[simp] theorem Dev.useReq_ctl (d) (h) (oo) : (Dev.useReq d h).ctl oo = d.ctl oo := Dev.ctl_same oo (Dev.useReq_media d h)
@[simp] theorem Dev.useReq_grp (d) (h) (oo) : (Dev.useReq d h).grp oo = d.grp oo := Dev.grp_same oo (Dev.useReq_media d h)
@[simp] theorem Dev.useReq_qp (d) (h) (oo) : (Dev.useReq d h).qp oo = d.qp oo := Dev.qp_same oo (Dev.useReq_lci d h)
@[simp] theorem Dev.useReq_cmd (d) (h) (oo) : (Dev.useReq d h).cmd oo = d.cmd oo := Dev.cmd_same oo (Dev.useReq_lci d h)
@[simp] theorem Dev.useReq_ent (d) (h) (oo) : (Dev.useReq d h).ent oo = d.ent oo := Dev.ent_same oo (Dev.useReq_tracts d h)
@[simp] theorem Dev.useReq_hdr (d) (h) (oo) : (Dev.useReq d h).hdr oo = d.hdr oo := Dev.hdr_same oo (Dev.useReq_tracts d h)
@[simp] theorem Dev.useReq_phys (d) (h) (oo) (ii) : (Dev.useReq d h).phys oo ii = d.phys oo ii := Dev.phys_same oo ii (Dev.useReq_tracts d h)
@[simp] theorem Dev.useReq_slot (d) (h) (oo) : (Dev.useReq d h).slot oo = d.slot oo := Dev.slot_same oo (Dev.useReq_sec d h)
@[simp] theorem Dev.useReq_schan (d) (h) (oo) : (Dev.useReq d h).schan oo = d.schan oo := Dev.schan_same oo (Dev.useReq_str d h)
@[simp] theorem Dev.useRwd_regs (d) (h) : (Dev.useRwd d h).regs = d.regs := (Dev.useRwd_touches d h).same .regs (by decide)
@[simp] theorem Dev.useRwd_tether (d) (h) : (Dev.useRwd d h).tether = d.tether := (Dev.useRwd_touches d h).same .tether (by decide)
@[simp] theorem Dev.useRwd_launch (d) (h) : (Dev.useRwd d h).launch = d.launch := (Dev.useRwd_touches d h).same .launch (by decide)
@[simp] theorem Dev.useRwd_gpio (d) (h) : (Dev.useRwd d h).gpio = d.gpio := (Dev.useRwd_touches d h).same .gpio (by decide)
@[simp] theorem Dev.useRwd_keel (d) (h) : (Dev.useRwd d h).keel = d.keel := (Dev.useRwd_touches d h).same .keel (by decide)
@[simp] theorem Dev.useRwd_log (d) (h) : (Dev.useRwd d h).log = d.log := (Dev.useRwd_touches d h).same .log (by decide)
@[simp] theorem Dev.useRwd_aon (d) (h) : (Dev.useRwd d h).aon = d.aon := (Dev.useRwd_touches d h).same .aon (by decide)
@[simp] theorem Dev.useRwd_cores (d) (h) : (Dev.useRwd d h).cores = d.cores := (Dev.useRwd_touches d h).same .cores (by decide)
@[simp] theorem Dev.useRwd_sems (d) (h) : (Dev.useRwd d h).sems = d.sems := (Dev.useRwd_touches d h).same .sems (by decide)
@[simp] theorem Dev.useRwd_images (d) (h) : (Dev.useRwd d h).images = d.images := (Dev.useRwd_touches d h).same .images (by decide)
@[simp] theorem Dev.useRwd_pmc (d) (h) : (Dev.useRwd d h).pmc = d.pmc := (Dev.useRwd_touches d h).same .pmc (by decide)
@[simp] theorem Dev.useRwd_bst (d) (h) : (Dev.useRwd d h).bst = d.bst := (Dev.useRwd_touches d h).same .bst (by decide)
@[simp] theorem Dev.useRwd_dbg (d) (h) : (Dev.useRwd d h).dbg = d.dbg := (Dev.useRwd_touches d h).same .dbg (by decide)
@[simp] theorem Dev.useRwd_gon (d) (h) : (Dev.useRwd d h).gon = d.gon := (Dev.useRwd_touches d h).same .gon (by decide)
@[simp] theorem Dev.useRwd_cache (d) (h) : (Dev.useRwd d h).cache = d.cache := (Dev.useRwd_touches d h).same .cache (by decide)
@[simp] theorem Dev.useRwd_media (d) (h) : (Dev.useRwd d h).media = d.media := (Dev.useRwd_touches d h).same .media (by decide)
@[simp] theorem Dev.useRwd_tracts (d) (h) : (Dev.useRwd d h).tracts = d.tracts := (Dev.useRwd_touches d h).same .tracts (by decide)
@[simp] theorem Dev.useRwd_drift (d) (h) : (Dev.useRwd d h).drift = d.drift := (Dev.useRwd_touches d h).same .drift (by decide)
@[simp] theorem Dev.useRwd_sec (d) (h) : (Dev.useRwd d h).sec = d.sec := (Dev.useRwd_touches d h).same .sec (by decide)
@[simp] theorem Dev.useRwd_str (d) (h) : (Dev.useRwd d h).str = d.str := (Dev.useRwd_touches d h).same .str (by decide)
@[simp] theorem Dev.useRwd_lci (d) (h) : (Dev.useRwd d h).lci = d.lci := (Dev.useRwd_touches d h).same .lci (by decide)
@[simp] theorem Dev.useRwd_pwr (d) (h) : (Dev.useRwd d h).pwr = d.pwr := (Dev.useRwd_touches d h).same .pwr (by decide)
@[simp] theorem Dev.useRwd_therm (d) (h) : (Dev.useRwd d h).therm = d.therm := (Dev.useRwd_touches d h).same .therm (by decide)
@[simp] theorem Dev.useRwd_out (d) (h) : (Dev.useRwd d h).out = d.out := (Dev.useRwd_touches d h).same .out (by decide)
@[simp] theorem Dev.useRwd_fresh (d) (h) : (Dev.useRwd d h).fresh = d.fresh := (Dev.useRwd_touches d h).same .fresh (by decide)
@[simp] theorem Dev.useRwd_reg (d) (h) (oo) : (Dev.useRwd d h).reg oo = d.reg oo := Dev.reg_same oo (Dev.useRwd_regs d h)
@[simp] theorem Dev.useRwd_chan (d) (h) (oo) : (Dev.useRwd d h).chan oo = d.chan oo := Dev.chan_same oo (Dev.useRwd_media d h)
@[simp] theorem Dev.useRwd_die (d) (h) (oo) : (Dev.useRwd d h).die oo = d.die oo := Dev.die_same oo (Dev.useRwd_media d h)
@[simp] theorem Dev.useRwd_ctl (d) (h) (oo) : (Dev.useRwd d h).ctl oo = d.ctl oo := Dev.ctl_same oo (Dev.useRwd_media d h)
@[simp] theorem Dev.useRwd_grp (d) (h) (oo) : (Dev.useRwd d h).grp oo = d.grp oo := Dev.grp_same oo (Dev.useRwd_media d h)
@[simp] theorem Dev.useRwd_qp (d) (h) (oo) : (Dev.useRwd d h).qp oo = d.qp oo := Dev.qp_same oo (Dev.useRwd_lci d h)
@[simp] theorem Dev.useRwd_cmd (d) (h) (oo) : (Dev.useRwd d h).cmd oo = d.cmd oo := Dev.cmd_same oo (Dev.useRwd_lci d h)
@[simp] theorem Dev.useRwd_ent (d) (h) (oo) : (Dev.useRwd d h).ent oo = d.ent oo := Dev.ent_same oo (Dev.useRwd_tracts d h)
@[simp] theorem Dev.useRwd_hdr (d) (h) (oo) : (Dev.useRwd d h).hdr oo = d.hdr oo := Dev.hdr_same oo (Dev.useRwd_tracts d h)
@[simp] theorem Dev.useRwd_phys (d) (h) (oo) (ii) : (Dev.useRwd d h).phys oo ii = d.phys oo ii := Dev.phys_same oo ii (Dev.useRwd_tracts d h)
@[simp] theorem Dev.useRwd_slot (d) (h) (oo) : (Dev.useRwd d h).slot oo = d.slot oo := Dev.slot_same oo (Dev.useRwd_sec d h)
@[simp] theorem Dev.useRwd_schan (d) (h) (oo) : (Dev.useRwd d h).schan oo = d.schan oo := Dev.schan_same oo (Dev.useRwd_str d h)
@[simp] theorem Dev.trackIn_regs (d) (h) : (Dev.trackIn d h).regs = d.regs := (Dev.trackIn_touches d h).same .regs (by decide)
@[simp] theorem Dev.trackIn_tether (d) (h) : (Dev.trackIn d h).tether = d.tether := (Dev.trackIn_touches d h).same .tether (by decide)
@[simp] theorem Dev.trackIn_launch (d) (h) : (Dev.trackIn d h).launch = d.launch := (Dev.trackIn_touches d h).same .launch (by decide)
@[simp] theorem Dev.trackIn_gpio (d) (h) : (Dev.trackIn d h).gpio = d.gpio := (Dev.trackIn_touches d h).same .gpio (by decide)
@[simp] theorem Dev.trackIn_keel (d) (h) : (Dev.trackIn d h).keel = d.keel := (Dev.trackIn_touches d h).same .keel (by decide)
@[simp] theorem Dev.trackIn_log (d) (h) : (Dev.trackIn d h).log = d.log := (Dev.trackIn_touches d h).same .log (by decide)
@[simp] theorem Dev.trackIn_aon (d) (h) : (Dev.trackIn d h).aon = d.aon := (Dev.trackIn_touches d h).same .aon (by decide)
@[simp] theorem Dev.trackIn_cores (d) (h) : (Dev.trackIn d h).cores = d.cores := (Dev.trackIn_touches d h).same .cores (by decide)
@[simp] theorem Dev.trackIn_sems (d) (h) : (Dev.trackIn d h).sems = d.sems := (Dev.trackIn_touches d h).same .sems (by decide)
@[simp] theorem Dev.trackIn_images (d) (h) : (Dev.trackIn d h).images = d.images := (Dev.trackIn_touches d h).same .images (by decide)
@[simp] theorem Dev.trackIn_pmc (d) (h) : (Dev.trackIn d h).pmc = d.pmc := (Dev.trackIn_touches d h).same .pmc (by decide)
@[simp] theorem Dev.trackIn_bst (d) (h) : (Dev.trackIn d h).bst = d.bst := (Dev.trackIn_touches d h).same .bst (by decide)
@[simp] theorem Dev.trackIn_dbg (d) (h) : (Dev.trackIn d h).dbg = d.dbg := (Dev.trackIn_touches d h).same .dbg (by decide)
@[simp] theorem Dev.trackIn_gon (d) (h) : (Dev.trackIn d h).gon = d.gon := (Dev.trackIn_touches d h).same .gon (by decide)
@[simp] theorem Dev.trackIn_cache (d) (h) : (Dev.trackIn d h).cache = d.cache := (Dev.trackIn_touches d h).same .cache (by decide)
@[simp] theorem Dev.trackIn_media (d) (h) : (Dev.trackIn d h).media = d.media := (Dev.trackIn_touches d h).same .media (by decide)
@[simp] theorem Dev.trackIn_tracts (d) (h) : (Dev.trackIn d h).tracts = d.tracts := (Dev.trackIn_touches d h).same .tracts (by decide)
@[simp] theorem Dev.trackIn_drift (d) (h) : (Dev.trackIn d h).drift = d.drift := (Dev.trackIn_touches d h).same .drift (by decide)
@[simp] theorem Dev.trackIn_sec (d) (h) : (Dev.trackIn d h).sec = d.sec := (Dev.trackIn_touches d h).same .sec (by decide)
@[simp] theorem Dev.trackIn_str (d) (h) : (Dev.trackIn d h).str = d.str := (Dev.trackIn_touches d h).same .str (by decide)
@[simp] theorem Dev.trackIn_lci (d) (h) : (Dev.trackIn d h).lci = d.lci := (Dev.trackIn_touches d h).same .lci (by decide)
@[simp] theorem Dev.trackIn_pwr (d) (h) : (Dev.trackIn d h).pwr = d.pwr := (Dev.trackIn_touches d h).same .pwr (by decide)
@[simp] theorem Dev.trackIn_therm (d) (h) : (Dev.trackIn d h).therm = d.therm := (Dev.trackIn_touches d h).same .therm (by decide)
@[simp] theorem Dev.trackIn_out (d) (h) : (Dev.trackIn d h).out = d.out := (Dev.trackIn_touches d h).same .out (by decide)
@[simp] theorem Dev.trackIn_fresh (d) (h) : (Dev.trackIn d h).fresh = d.fresh := (Dev.trackIn_touches d h).same .fresh (by decide)
@[simp] theorem Dev.trackIn_reg (d) (h) (oo) : (Dev.trackIn d h).reg oo = d.reg oo := Dev.reg_same oo (Dev.trackIn_regs d h)
@[simp] theorem Dev.trackIn_chan (d) (h) (oo) : (Dev.trackIn d h).chan oo = d.chan oo := Dev.chan_same oo (Dev.trackIn_media d h)
@[simp] theorem Dev.trackIn_die (d) (h) (oo) : (Dev.trackIn d h).die oo = d.die oo := Dev.die_same oo (Dev.trackIn_media d h)
@[simp] theorem Dev.trackIn_ctl (d) (h) (oo) : (Dev.trackIn d h).ctl oo = d.ctl oo := Dev.ctl_same oo (Dev.trackIn_media d h)
@[simp] theorem Dev.trackIn_grp (d) (h) (oo) : (Dev.trackIn d h).grp oo = d.grp oo := Dev.grp_same oo (Dev.trackIn_media d h)
@[simp] theorem Dev.trackIn_qp (d) (h) (oo) : (Dev.trackIn d h).qp oo = d.qp oo := Dev.qp_same oo (Dev.trackIn_lci d h)
@[simp] theorem Dev.trackIn_cmd (d) (h) (oo) : (Dev.trackIn d h).cmd oo = d.cmd oo := Dev.cmd_same oo (Dev.trackIn_lci d h)
@[simp] theorem Dev.trackIn_ent (d) (h) (oo) : (Dev.trackIn d h).ent oo = d.ent oo := Dev.ent_same oo (Dev.trackIn_tracts d h)
@[simp] theorem Dev.trackIn_hdr (d) (h) (oo) : (Dev.trackIn d h).hdr oo = d.hdr oo := Dev.hdr_same oo (Dev.trackIn_tracts d h)
@[simp] theorem Dev.trackIn_phys (d) (h) (oo) (ii) : (Dev.trackIn d h).phys oo ii = d.phys oo ii := Dev.phys_same oo ii (Dev.trackIn_tracts d h)
@[simp] theorem Dev.trackIn_slot (d) (h) (oo) : (Dev.trackIn d h).slot oo = d.slot oo := Dev.slot_same oo (Dev.trackIn_sec d h)
@[simp] theorem Dev.trackIn_schan (d) (h) (oo) : (Dev.trackIn d h).schan oo = d.schan oo := Dev.schan_same oo (Dev.trackIn_str d h)
@[simp] theorem Dev.trackOut_regs (d) (h) : (Dev.trackOut d h).regs = d.regs := (Dev.trackOut_touches d h).same .regs (by decide)
@[simp] theorem Dev.trackOut_tether (d) (h) : (Dev.trackOut d h).tether = d.tether := (Dev.trackOut_touches d h).same .tether (by decide)
@[simp] theorem Dev.trackOut_launch (d) (h) : (Dev.trackOut d h).launch = d.launch := (Dev.trackOut_touches d h).same .launch (by decide)
@[simp] theorem Dev.trackOut_gpio (d) (h) : (Dev.trackOut d h).gpio = d.gpio := (Dev.trackOut_touches d h).same .gpio (by decide)
@[simp] theorem Dev.trackOut_keel (d) (h) : (Dev.trackOut d h).keel = d.keel := (Dev.trackOut_touches d h).same .keel (by decide)
@[simp] theorem Dev.trackOut_log (d) (h) : (Dev.trackOut d h).log = d.log := (Dev.trackOut_touches d h).same .log (by decide)
@[simp] theorem Dev.trackOut_aon (d) (h) : (Dev.trackOut d h).aon = d.aon := (Dev.trackOut_touches d h).same .aon (by decide)
@[simp] theorem Dev.trackOut_cores (d) (h) : (Dev.trackOut d h).cores = d.cores := (Dev.trackOut_touches d h).same .cores (by decide)
@[simp] theorem Dev.trackOut_sems (d) (h) : (Dev.trackOut d h).sems = d.sems := (Dev.trackOut_touches d h).same .sems (by decide)
@[simp] theorem Dev.trackOut_images (d) (h) : (Dev.trackOut d h).images = d.images := (Dev.trackOut_touches d h).same .images (by decide)
@[simp] theorem Dev.trackOut_pmc (d) (h) : (Dev.trackOut d h).pmc = d.pmc := (Dev.trackOut_touches d h).same .pmc (by decide)
@[simp] theorem Dev.trackOut_bst (d) (h) : (Dev.trackOut d h).bst = d.bst := (Dev.trackOut_touches d h).same .bst (by decide)
@[simp] theorem Dev.trackOut_dbg (d) (h) : (Dev.trackOut d h).dbg = d.dbg := (Dev.trackOut_touches d h).same .dbg (by decide)
@[simp] theorem Dev.trackOut_gon (d) (h) : (Dev.trackOut d h).gon = d.gon := (Dev.trackOut_touches d h).same .gon (by decide)
@[simp] theorem Dev.trackOut_cache (d) (h) : (Dev.trackOut d h).cache = d.cache := (Dev.trackOut_touches d h).same .cache (by decide)
@[simp] theorem Dev.trackOut_media (d) (h) : (Dev.trackOut d h).media = d.media := (Dev.trackOut_touches d h).same .media (by decide)
@[simp] theorem Dev.trackOut_tracts (d) (h) : (Dev.trackOut d h).tracts = d.tracts := (Dev.trackOut_touches d h).same .tracts (by decide)
@[simp] theorem Dev.trackOut_drift (d) (h) : (Dev.trackOut d h).drift = d.drift := (Dev.trackOut_touches d h).same .drift (by decide)
@[simp] theorem Dev.trackOut_sec (d) (h) : (Dev.trackOut d h).sec = d.sec := (Dev.trackOut_touches d h).same .sec (by decide)
@[simp] theorem Dev.trackOut_str (d) (h) : (Dev.trackOut d h).str = d.str := (Dev.trackOut_touches d h).same .str (by decide)
@[simp] theorem Dev.trackOut_lci (d) (h) : (Dev.trackOut d h).lci = d.lci := (Dev.trackOut_touches d h).same .lci (by decide)
@[simp] theorem Dev.trackOut_pwr (d) (h) : (Dev.trackOut d h).pwr = d.pwr := (Dev.trackOut_touches d h).same .pwr (by decide)
@[simp] theorem Dev.trackOut_therm (d) (h) : (Dev.trackOut d h).therm = d.therm := (Dev.trackOut_touches d h).same .therm (by decide)
@[simp] theorem Dev.trackOut_out (d) (h) : (Dev.trackOut d h).out = d.out := (Dev.trackOut_touches d h).same .out (by decide)
@[simp] theorem Dev.trackOut_fresh (d) (h) : (Dev.trackOut d h).fresh = d.fresh := (Dev.trackOut_touches d h).same .fresh (by decide)
@[simp] theorem Dev.trackOut_reg (d) (h) (oo) : (Dev.trackOut d h).reg oo = d.reg oo := Dev.reg_same oo (Dev.trackOut_regs d h)
@[simp] theorem Dev.trackOut_chan (d) (h) (oo) : (Dev.trackOut d h).chan oo = d.chan oo := Dev.chan_same oo (Dev.trackOut_media d h)
@[simp] theorem Dev.trackOut_die (d) (h) (oo) : (Dev.trackOut d h).die oo = d.die oo := Dev.die_same oo (Dev.trackOut_media d h)
@[simp] theorem Dev.trackOut_ctl (d) (h) (oo) : (Dev.trackOut d h).ctl oo = d.ctl oo := Dev.ctl_same oo (Dev.trackOut_media d h)
@[simp] theorem Dev.trackOut_grp (d) (h) (oo) : (Dev.trackOut d h).grp oo = d.grp oo := Dev.grp_same oo (Dev.trackOut_media d h)
@[simp] theorem Dev.trackOut_qp (d) (h) (oo) : (Dev.trackOut d h).qp oo = d.qp oo := Dev.qp_same oo (Dev.trackOut_lci d h)
@[simp] theorem Dev.trackOut_cmd (d) (h) (oo) : (Dev.trackOut d h).cmd oo = d.cmd oo := Dev.cmd_same oo (Dev.trackOut_lci d h)
@[simp] theorem Dev.trackOut_ent (d) (h) (oo) : (Dev.trackOut d h).ent oo = d.ent oo := Dev.ent_same oo (Dev.trackOut_tracts d h)
@[simp] theorem Dev.trackOut_hdr (d) (h) (oo) : (Dev.trackOut d h).hdr oo = d.hdr oo := Dev.hdr_same oo (Dev.trackOut_tracts d h)
@[simp] theorem Dev.trackOut_phys (d) (h) (oo) (ii) : (Dev.trackOut d h).phys oo ii = d.phys oo ii := Dev.phys_same oo ii (Dev.trackOut_tracts d h)
@[simp] theorem Dev.trackOut_slot (d) (h) (oo) : (Dev.trackOut d h).slot oo = d.slot oo := Dev.slot_same oo (Dev.trackOut_sec d h)
@[simp] theorem Dev.trackOut_schan (d) (h) (oo) : (Dev.trackOut d h).schan oo = d.schan oo := Dev.schan_same oo (Dev.trackOut_str d h)
@[simp] theorem Dev.forceFlush_a (F) (d) : (Dev.forceFlush F d).a = d.a := (Dev.forceFlush_touches F d).same .a (by decide)
@[simp] theorem Dev.forceFlush_b (F) (d) : (Dev.forceFlush F d).b = d.b := (Dev.forceFlush_touches F d).same .b (by decide)
@[simp] theorem Dev.forceFlush_tether (F) (d) : (Dev.forceFlush F d).tether = d.tether := (Dev.forceFlush_touches F d).same .tether (by decide)
@[simp] theorem Dev.forceFlush_launch (F) (d) : (Dev.forceFlush F d).launch = d.launch := (Dev.forceFlush_touches F d).same .launch (by decide)
@[simp] theorem Dev.forceFlush_gpio (F) (d) : (Dev.forceFlush F d).gpio = d.gpio := (Dev.forceFlush_touches F d).same .gpio (by decide)
@[simp] theorem Dev.forceFlush_aon (F) (d) : (Dev.forceFlush F d).aon = d.aon := (Dev.forceFlush_touches F d).same .aon (by decide)
@[simp] theorem Dev.forceFlush_cores (F) (d) : (Dev.forceFlush F d).cores = d.cores := (Dev.forceFlush_touches F d).same .cores (by decide)
@[simp] theorem Dev.forceFlush_sems (F) (d) : (Dev.forceFlush F d).sems = d.sems := (Dev.forceFlush_touches F d).same .sems (by decide)
@[simp] theorem Dev.forceFlush_images (F) (d) : (Dev.forceFlush F d).images = d.images := (Dev.forceFlush_touches F d).same .images (by decide)
@[simp] theorem Dev.forceFlush_pmc (F) (d) : (Dev.forceFlush F d).pmc = d.pmc := (Dev.forceFlush_touches F d).same .pmc (by decide)
@[simp] theorem Dev.forceFlush_bst (F) (d) : (Dev.forceFlush F d).bst = d.bst := (Dev.forceFlush_touches F d).same .bst (by decide)
@[simp] theorem Dev.forceFlush_dbg (F) (d) : (Dev.forceFlush F d).dbg = d.dbg := (Dev.forceFlush_touches F d).same .dbg (by decide)
@[simp] theorem Dev.forceFlush_gon (F) (d) : (Dev.forceFlush F d).gon = d.gon := (Dev.forceFlush_touches F d).same .gon (by decide)
@[simp] theorem Dev.forceFlush_cache (F) (d) : (Dev.forceFlush F d).cache = d.cache := (Dev.forceFlush_touches F d).same .cache (by decide)
@[simp] theorem Dev.forceFlush_media (F) (d) : (Dev.forceFlush F d).media = d.media := (Dev.forceFlush_touches F d).same .media (by decide)
@[simp] theorem Dev.forceFlush_tracts (F) (d) : (Dev.forceFlush F d).tracts = d.tracts := (Dev.forceFlush_touches F d).same .tracts (by decide)
@[simp] theorem Dev.forceFlush_drift (F) (d) : (Dev.forceFlush F d).drift = d.drift := (Dev.forceFlush_touches F d).same .drift (by decide)
@[simp] theorem Dev.forceFlush_sec (F) (d) : (Dev.forceFlush F d).sec = d.sec := (Dev.forceFlush_touches F d).same .sec (by decide)
@[simp] theorem Dev.forceFlush_str (F) (d) : (Dev.forceFlush F d).str = d.str := (Dev.forceFlush_touches F d).same .str (by decide)
@[simp] theorem Dev.forceFlush_lci (F) (d) : (Dev.forceFlush F d).lci = d.lci := (Dev.forceFlush_touches F d).same .lci (by decide)
@[simp] theorem Dev.forceFlush_pwr (F) (d) : (Dev.forceFlush F d).pwr = d.pwr := (Dev.forceFlush_touches F d).same .pwr (by decide)
@[simp] theorem Dev.forceFlush_therm (F) (d) : (Dev.forceFlush F d).therm = d.therm := (Dev.forceFlush_touches F d).same .therm (by decide)
@[simp] theorem Dev.forceFlush_out (F) (d) : (Dev.forceFlush F d).out = d.out := (Dev.forceFlush_touches F d).same .out (by decide)
@[simp] theorem Dev.forceFlush_fresh (F) (d) : (Dev.forceFlush F d).fresh = d.fresh := (Dev.forceFlush_touches F d).same .fresh (by decide)
@[simp] theorem Dev.forceFlush_head (F) (d) (hd) : (Dev.forceFlush F d).head hd = d.head hd := Dev.head_same hd (Dev.forceFlush_a F d) (Dev.forceFlush_b F d)
@[simp] theorem Dev.forceFlush_chan (F) (d) (oo) : (Dev.forceFlush F d).chan oo = d.chan oo := Dev.chan_same oo (Dev.forceFlush_media F d)
@[simp] theorem Dev.forceFlush_die (F) (d) (oo) : (Dev.forceFlush F d).die oo = d.die oo := Dev.die_same oo (Dev.forceFlush_media F d)
@[simp] theorem Dev.forceFlush_ctl (F) (d) (oo) : (Dev.forceFlush F d).ctl oo = d.ctl oo := Dev.ctl_same oo (Dev.forceFlush_media F d)
@[simp] theorem Dev.forceFlush_grp (F) (d) (oo) : (Dev.forceFlush F d).grp oo = d.grp oo := Dev.grp_same oo (Dev.forceFlush_media F d)
@[simp] theorem Dev.forceFlush_qp (F) (d) (oo) : (Dev.forceFlush F d).qp oo = d.qp oo := Dev.qp_same oo (Dev.forceFlush_lci F d)
@[simp] theorem Dev.forceFlush_cmd (F) (d) (oo) : (Dev.forceFlush F d).cmd oo = d.cmd oo := Dev.cmd_same oo (Dev.forceFlush_lci F d)
@[simp] theorem Dev.forceFlush_ent (F) (d) (oo) : (Dev.forceFlush F d).ent oo = d.ent oo := Dev.ent_same oo (Dev.forceFlush_tracts F d)
@[simp] theorem Dev.forceFlush_hdr (F) (d) (oo) : (Dev.forceFlush F d).hdr oo = d.hdr oo := Dev.hdr_same oo (Dev.forceFlush_tracts F d)
@[simp] theorem Dev.forceFlush_phys (F) (d) (oo) (ii) : (Dev.forceFlush F d).phys oo ii = d.phys oo ii := Dev.phys_same oo ii (Dev.forceFlush_tracts F d)
@[simp] theorem Dev.forceFlush_slot (F) (d) (oo) : (Dev.forceFlush F d).slot oo = d.slot oo := Dev.slot_same oo (Dev.forceFlush_sec F d)
@[simp] theorem Dev.forceFlush_schan (F) (d) (oo) : (Dev.forceFlush F d).schan oo = d.schan oo := Dev.schan_same oo (Dev.forceFlush_str F d)
@[simp] theorem Dev.confirmAdd_regs (d) (line) (key) (base) : (Dev.confirmAdd d line key base).regs = d.regs := (Dev.confirmAdd_touches d line key base).same .regs (by decide)
@[simp] theorem Dev.confirmAdd_a (d) (line) (key) (base) : (Dev.confirmAdd d line key base).a = d.a := (Dev.confirmAdd_touches d line key base).same .a (by decide)
@[simp] theorem Dev.confirmAdd_b (d) (line) (key) (base) : (Dev.confirmAdd d line key base).b = d.b := (Dev.confirmAdd_touches d line key base).same .b (by decide)
@[simp] theorem Dev.confirmAdd_tether (d) (line) (key) (base) : (Dev.confirmAdd d line key base).tether = d.tether := (Dev.confirmAdd_touches d line key base).same .tether (by decide)
@[simp] theorem Dev.confirmAdd_launch (d) (line) (key) (base) : (Dev.confirmAdd d line key base).launch = d.launch := (Dev.confirmAdd_touches d line key base).same .launch (by decide)
@[simp] theorem Dev.confirmAdd_gpio (d) (line) (key) (base) : (Dev.confirmAdd d line key base).gpio = d.gpio := (Dev.confirmAdd_touches d line key base).same .gpio (by decide)
@[simp] theorem Dev.confirmAdd_keel (d) (line) (key) (base) : (Dev.confirmAdd d line key base).keel = d.keel := (Dev.confirmAdd_touches d line key base).same .keel (by decide)
@[simp] theorem Dev.confirmAdd_log (d) (line) (key) (base) : (Dev.confirmAdd d line key base).log = d.log := (Dev.confirmAdd_touches d line key base).same .log (by decide)
@[simp] theorem Dev.confirmAdd_aon (d) (line) (key) (base) : (Dev.confirmAdd d line key base).aon = d.aon := (Dev.confirmAdd_touches d line key base).same .aon (by decide)
@[simp] theorem Dev.confirmAdd_cores (d) (line) (key) (base) : (Dev.confirmAdd d line key base).cores = d.cores := (Dev.confirmAdd_touches d line key base).same .cores (by decide)
@[simp] theorem Dev.confirmAdd_sems (d) (line) (key) (base) : (Dev.confirmAdd d line key base).sems = d.sems := (Dev.confirmAdd_touches d line key base).same .sems (by decide)
@[simp] theorem Dev.confirmAdd_images (d) (line) (key) (base) : (Dev.confirmAdd d line key base).images = d.images := (Dev.confirmAdd_touches d line key base).same .images (by decide)
@[simp] theorem Dev.confirmAdd_pmc (d) (line) (key) (base) : (Dev.confirmAdd d line key base).pmc = d.pmc := (Dev.confirmAdd_touches d line key base).same .pmc (by decide)
@[simp] theorem Dev.confirmAdd_bst (d) (line) (key) (base) : (Dev.confirmAdd d line key base).bst = d.bst := (Dev.confirmAdd_touches d line key base).same .bst (by decide)
@[simp] theorem Dev.confirmAdd_dbg (d) (line) (key) (base) : (Dev.confirmAdd d line key base).dbg = d.dbg := (Dev.confirmAdd_touches d line key base).same .dbg (by decide)
@[simp] theorem Dev.confirmAdd_gon (d) (line) (key) (base) : (Dev.confirmAdd d line key base).gon = d.gon := (Dev.confirmAdd_touches d line key base).same .gon (by decide)
@[simp] theorem Dev.confirmAdd_cache (d) (line) (key) (base) : (Dev.confirmAdd d line key base).cache = d.cache := (Dev.confirmAdd_touches d line key base).same .cache (by decide)
@[simp] theorem Dev.confirmAdd_media (d) (line) (key) (base) : (Dev.confirmAdd d line key base).media = d.media := (Dev.confirmAdd_touches d line key base).same .media (by decide)
@[simp] theorem Dev.confirmAdd_tracts (d) (line) (key) (base) : (Dev.confirmAdd d line key base).tracts = d.tracts := (Dev.confirmAdd_touches d line key base).same .tracts (by decide)
@[simp] theorem Dev.confirmAdd_sec (d) (line) (key) (base) : (Dev.confirmAdd d line key base).sec = d.sec := (Dev.confirmAdd_touches d line key base).same .sec (by decide)
@[simp] theorem Dev.confirmAdd_str (d) (line) (key) (base) : (Dev.confirmAdd d line key base).str = d.str := (Dev.confirmAdd_touches d line key base).same .str (by decide)
@[simp] theorem Dev.confirmAdd_lci (d) (line) (key) (base) : (Dev.confirmAdd d line key base).lci = d.lci := (Dev.confirmAdd_touches d line key base).same .lci (by decide)
@[simp] theorem Dev.confirmAdd_pwr (d) (line) (key) (base) : (Dev.confirmAdd d line key base).pwr = d.pwr := (Dev.confirmAdd_touches d line key base).same .pwr (by decide)
@[simp] theorem Dev.confirmAdd_therm (d) (line) (key) (base) : (Dev.confirmAdd d line key base).therm = d.therm := (Dev.confirmAdd_touches d line key base).same .therm (by decide)
@[simp] theorem Dev.confirmAdd_out (d) (line) (key) (base) : (Dev.confirmAdd d line key base).out = d.out := (Dev.confirmAdd_touches d line key base).same .out (by decide)
@[simp] theorem Dev.confirmAdd_fresh (d) (line) (key) (base) : (Dev.confirmAdd d line key base).fresh = d.fresh := (Dev.confirmAdd_touches d line key base).same .fresh (by decide)
@[simp] theorem Dev.confirmAdd_head (d) (line) (key) (base) (hd) : (Dev.confirmAdd d line key base).head hd = d.head hd := Dev.head_same hd (Dev.confirmAdd_a d line key base) (Dev.confirmAdd_b d line key base)
@[simp] theorem Dev.confirmAdd_reg (d) (line) (key) (base) (oo) : (Dev.confirmAdd d line key base).reg oo = d.reg oo := Dev.reg_same oo (Dev.confirmAdd_regs d line key base)
@[simp] theorem Dev.confirmAdd_chan (d) (line) (key) (base) (oo) : (Dev.confirmAdd d line key base).chan oo = d.chan oo := Dev.chan_same oo (Dev.confirmAdd_media d line key base)
@[simp] theorem Dev.confirmAdd_die (d) (line) (key) (base) (oo) : (Dev.confirmAdd d line key base).die oo = d.die oo := Dev.die_same oo (Dev.confirmAdd_media d line key base)
@[simp] theorem Dev.confirmAdd_ctl (d) (line) (key) (base) (oo) : (Dev.confirmAdd d line key base).ctl oo = d.ctl oo := Dev.ctl_same oo (Dev.confirmAdd_media d line key base)
@[simp] theorem Dev.confirmAdd_grp (d) (line) (key) (base) (oo) : (Dev.confirmAdd d line key base).grp oo = d.grp oo := Dev.grp_same oo (Dev.confirmAdd_media d line key base)
@[simp] theorem Dev.confirmAdd_qp (d) (line) (key) (base) (oo) : (Dev.confirmAdd d line key base).qp oo = d.qp oo := Dev.qp_same oo (Dev.confirmAdd_lci d line key base)
@[simp] theorem Dev.confirmAdd_cmd (d) (line) (key) (base) (oo) : (Dev.confirmAdd d line key base).cmd oo = d.cmd oo := Dev.cmd_same oo (Dev.confirmAdd_lci d line key base)
@[simp] theorem Dev.confirmAdd_ent (d) (line) (key) (base) (oo) : (Dev.confirmAdd d line key base).ent oo = d.ent oo := Dev.ent_same oo (Dev.confirmAdd_tracts d line key base)
@[simp] theorem Dev.confirmAdd_hdr (d) (line) (key) (base) (oo) : (Dev.confirmAdd d line key base).hdr oo = d.hdr oo := Dev.hdr_same oo (Dev.confirmAdd_tracts d line key base)
@[simp] theorem Dev.confirmAdd_phys (d) (line) (key) (base) (oo) (ii) : (Dev.confirmAdd d line key base).phys oo ii = d.phys oo ii := Dev.phys_same oo ii (Dev.confirmAdd_tracts d line key base)
@[simp] theorem Dev.confirmAdd_slot (d) (line) (key) (base) (oo) : (Dev.confirmAdd d line key base).slot oo = d.slot oo := Dev.slot_same oo (Dev.confirmAdd_sec d line key base)
@[simp] theorem Dev.confirmAdd_schan (d) (line) (key) (base) (oo) : (Dev.confirmAdd d line key base).schan oo = d.schan oo := Dev.schan_same oo (Dev.confirmAdd_str d line key base)
@[simp] theorem Dev.resurveyAdd_regs (d) (line) : (Dev.resurveyAdd d line).regs = d.regs := (Dev.resurveyAdd_touches d line).same .regs (by decide)
@[simp] theorem Dev.resurveyAdd_a (d) (line) : (Dev.resurveyAdd d line).a = d.a := (Dev.resurveyAdd_touches d line).same .a (by decide)
@[simp] theorem Dev.resurveyAdd_b (d) (line) : (Dev.resurveyAdd d line).b = d.b := (Dev.resurveyAdd_touches d line).same .b (by decide)
@[simp] theorem Dev.resurveyAdd_tether (d) (line) : (Dev.resurveyAdd d line).tether = d.tether := (Dev.resurveyAdd_touches d line).same .tether (by decide)
@[simp] theorem Dev.resurveyAdd_launch (d) (line) : (Dev.resurveyAdd d line).launch = d.launch := (Dev.resurveyAdd_touches d line).same .launch (by decide)
@[simp] theorem Dev.resurveyAdd_gpio (d) (line) : (Dev.resurveyAdd d line).gpio = d.gpio := (Dev.resurveyAdd_touches d line).same .gpio (by decide)
@[simp] theorem Dev.resurveyAdd_keel (d) (line) : (Dev.resurveyAdd d line).keel = d.keel := (Dev.resurveyAdd_touches d line).same .keel (by decide)
@[simp] theorem Dev.resurveyAdd_log (d) (line) : (Dev.resurveyAdd d line).log = d.log := (Dev.resurveyAdd_touches d line).same .log (by decide)
@[simp] theorem Dev.resurveyAdd_aon (d) (line) : (Dev.resurveyAdd d line).aon = d.aon := (Dev.resurveyAdd_touches d line).same .aon (by decide)
@[simp] theorem Dev.resurveyAdd_cores (d) (line) : (Dev.resurveyAdd d line).cores = d.cores := (Dev.resurveyAdd_touches d line).same .cores (by decide)
@[simp] theorem Dev.resurveyAdd_sems (d) (line) : (Dev.resurveyAdd d line).sems = d.sems := (Dev.resurveyAdd_touches d line).same .sems (by decide)
@[simp] theorem Dev.resurveyAdd_images (d) (line) : (Dev.resurveyAdd d line).images = d.images := (Dev.resurveyAdd_touches d line).same .images (by decide)
@[simp] theorem Dev.resurveyAdd_pmc (d) (line) : (Dev.resurveyAdd d line).pmc = d.pmc := (Dev.resurveyAdd_touches d line).same .pmc (by decide)
@[simp] theorem Dev.resurveyAdd_bst (d) (line) : (Dev.resurveyAdd d line).bst = d.bst := (Dev.resurveyAdd_touches d line).same .bst (by decide)
@[simp] theorem Dev.resurveyAdd_dbg (d) (line) : (Dev.resurveyAdd d line).dbg = d.dbg := (Dev.resurveyAdd_touches d line).same .dbg (by decide)
@[simp] theorem Dev.resurveyAdd_gon (d) (line) : (Dev.resurveyAdd d line).gon = d.gon := (Dev.resurveyAdd_touches d line).same .gon (by decide)
@[simp] theorem Dev.resurveyAdd_cache (d) (line) : (Dev.resurveyAdd d line).cache = d.cache := (Dev.resurveyAdd_touches d line).same .cache (by decide)
@[simp] theorem Dev.resurveyAdd_media (d) (line) : (Dev.resurveyAdd d line).media = d.media := (Dev.resurveyAdd_touches d line).same .media (by decide)
@[simp] theorem Dev.resurveyAdd_tracts (d) (line) : (Dev.resurveyAdd d line).tracts = d.tracts := (Dev.resurveyAdd_touches d line).same .tracts (by decide)
@[simp] theorem Dev.resurveyAdd_sec (d) (line) : (Dev.resurveyAdd d line).sec = d.sec := (Dev.resurveyAdd_touches d line).same .sec (by decide)
@[simp] theorem Dev.resurveyAdd_str (d) (line) : (Dev.resurveyAdd d line).str = d.str := (Dev.resurveyAdd_touches d line).same .str (by decide)
@[simp] theorem Dev.resurveyAdd_lci (d) (line) : (Dev.resurveyAdd d line).lci = d.lci := (Dev.resurveyAdd_touches d line).same .lci (by decide)
@[simp] theorem Dev.resurveyAdd_pwr (d) (line) : (Dev.resurveyAdd d line).pwr = d.pwr := (Dev.resurveyAdd_touches d line).same .pwr (by decide)
@[simp] theorem Dev.resurveyAdd_therm (d) (line) : (Dev.resurveyAdd d line).therm = d.therm := (Dev.resurveyAdd_touches d line).same .therm (by decide)
@[simp] theorem Dev.resurveyAdd_out (d) (line) : (Dev.resurveyAdd d line).out = d.out := (Dev.resurveyAdd_touches d line).same .out (by decide)
@[simp] theorem Dev.resurveyAdd_fresh (d) (line) : (Dev.resurveyAdd d line).fresh = d.fresh := (Dev.resurveyAdd_touches d line).same .fresh (by decide)
@[simp] theorem Dev.resurveyAdd_head (d) (line) (hd) : (Dev.resurveyAdd d line).head hd = d.head hd := Dev.head_same hd (Dev.resurveyAdd_a d line) (Dev.resurveyAdd_b d line)
@[simp] theorem Dev.resurveyAdd_reg (d) (line) (oo) : (Dev.resurveyAdd d line).reg oo = d.reg oo := Dev.reg_same oo (Dev.resurveyAdd_regs d line)
@[simp] theorem Dev.resurveyAdd_chan (d) (line) (oo) : (Dev.resurveyAdd d line).chan oo = d.chan oo := Dev.chan_same oo (Dev.resurveyAdd_media d line)
@[simp] theorem Dev.resurveyAdd_die (d) (line) (oo) : (Dev.resurveyAdd d line).die oo = d.die oo := Dev.die_same oo (Dev.resurveyAdd_media d line)
@[simp] theorem Dev.resurveyAdd_ctl (d) (line) (oo) : (Dev.resurveyAdd d line).ctl oo = d.ctl oo := Dev.ctl_same oo (Dev.resurveyAdd_media d line)
@[simp] theorem Dev.resurveyAdd_grp (d) (line) (oo) : (Dev.resurveyAdd d line).grp oo = d.grp oo := Dev.grp_same oo (Dev.resurveyAdd_media d line)
@[simp] theorem Dev.resurveyAdd_qp (d) (line) (oo) : (Dev.resurveyAdd d line).qp oo = d.qp oo := Dev.qp_same oo (Dev.resurveyAdd_lci d line)
@[simp] theorem Dev.resurveyAdd_cmd (d) (line) (oo) : (Dev.resurveyAdd d line).cmd oo = d.cmd oo := Dev.cmd_same oo (Dev.resurveyAdd_lci d line)
@[simp] theorem Dev.resurveyAdd_ent (d) (line) (oo) : (Dev.resurveyAdd d line).ent oo = d.ent oo := Dev.ent_same oo (Dev.resurveyAdd_tracts d line)
@[simp] theorem Dev.resurveyAdd_hdr (d) (line) (oo) : (Dev.resurveyAdd d line).hdr oo = d.hdr oo := Dev.hdr_same oo (Dev.resurveyAdd_tracts d line)
@[simp] theorem Dev.resurveyAdd_phys (d) (line) (oo) (ii) : (Dev.resurveyAdd d line).phys oo ii = d.phys oo ii := Dev.phys_same oo ii (Dev.resurveyAdd_tracts d line)
@[simp] theorem Dev.resurveyAdd_slot (d) (line) (oo) : (Dev.resurveyAdd d line).slot oo = d.slot oo := Dev.slot_same oo (Dev.resurveyAdd_sec d line)
@[simp] theorem Dev.resurveyAdd_schan (d) (line) (oo) : (Dev.resurveyAdd d line).schan oo = d.schan oo := Dev.schan_same oo (Dev.resurveyAdd_str d line)
@[simp] theorem Dev.install_regs (d) (line) (x) : (Dev.install d line x).regs = d.regs := (Dev.install_touches d line x).same .regs (by decide)
@[simp] theorem Dev.install_a (d) (line) (x) : (Dev.install d line x).a = d.a := (Dev.install_touches d line x).same .a (by decide)
@[simp] theorem Dev.install_b (d) (line) (x) : (Dev.install d line x).b = d.b := (Dev.install_touches d line x).same .b (by decide)
@[simp] theorem Dev.install_tether (d) (line) (x) : (Dev.install d line x).tether = d.tether := (Dev.install_touches d line x).same .tether (by decide)
@[simp] theorem Dev.install_launch (d) (line) (x) : (Dev.install d line x).launch = d.launch := (Dev.install_touches d line x).same .launch (by decide)
@[simp] theorem Dev.install_gpio (d) (line) (x) : (Dev.install d line x).gpio = d.gpio := (Dev.install_touches d line x).same .gpio (by decide)
@[simp] theorem Dev.install_keel (d) (line) (x) : (Dev.install d line x).keel = d.keel := (Dev.install_touches d line x).same .keel (by decide)
@[simp] theorem Dev.install_log (d) (line) (x) : (Dev.install d line x).log = d.log := (Dev.install_touches d line x).same .log (by decide)
@[simp] theorem Dev.install_aon (d) (line) (x) : (Dev.install d line x).aon = d.aon := (Dev.install_touches d line x).same .aon (by decide)
@[simp] theorem Dev.install_cores (d) (line) (x) : (Dev.install d line x).cores = d.cores := (Dev.install_touches d line x).same .cores (by decide)
@[simp] theorem Dev.install_sems (d) (line) (x) : (Dev.install d line x).sems = d.sems := (Dev.install_touches d line x).same .sems (by decide)
@[simp] theorem Dev.install_images (d) (line) (x) : (Dev.install d line x).images = d.images := (Dev.install_touches d line x).same .images (by decide)
@[simp] theorem Dev.install_pmc (d) (line) (x) : (Dev.install d line x).pmc = d.pmc := (Dev.install_touches d line x).same .pmc (by decide)
@[simp] theorem Dev.install_bst (d) (line) (x) : (Dev.install d line x).bst = d.bst := (Dev.install_touches d line x).same .bst (by decide)
@[simp] theorem Dev.install_dbg (d) (line) (x) : (Dev.install d line x).dbg = d.dbg := (Dev.install_touches d line x).same .dbg (by decide)
@[simp] theorem Dev.install_gon (d) (line) (x) : (Dev.install d line x).gon = d.gon := (Dev.install_touches d line x).same .gon (by decide)
@[simp] theorem Dev.install_media (d) (line) (x) : (Dev.install d line x).media = d.media := (Dev.install_touches d line x).same .media (by decide)
@[simp] theorem Dev.install_tracts (d) (line) (x) : (Dev.install d line x).tracts = d.tracts := (Dev.install_touches d line x).same .tracts (by decide)
@[simp] theorem Dev.install_drift (d) (line) (x) : (Dev.install d line x).drift = d.drift := (Dev.install_touches d line x).same .drift (by decide)
@[simp] theorem Dev.install_sec (d) (line) (x) : (Dev.install d line x).sec = d.sec := (Dev.install_touches d line x).same .sec (by decide)
@[simp] theorem Dev.install_str (d) (line) (x) : (Dev.install d line x).str = d.str := (Dev.install_touches d line x).same .str (by decide)
@[simp] theorem Dev.install_lci (d) (line) (x) : (Dev.install d line x).lci = d.lci := (Dev.install_touches d line x).same .lci (by decide)
@[simp] theorem Dev.install_pwr (d) (line) (x) : (Dev.install d line x).pwr = d.pwr := (Dev.install_touches d line x).same .pwr (by decide)
@[simp] theorem Dev.install_therm (d) (line) (x) : (Dev.install d line x).therm = d.therm := (Dev.install_touches d line x).same .therm (by decide)
@[simp] theorem Dev.install_out (d) (line) (x) : (Dev.install d line x).out = d.out := (Dev.install_touches d line x).same .out (by decide)
@[simp] theorem Dev.install_fresh (d) (line) (x) : (Dev.install d line x).fresh = d.fresh := (Dev.install_touches d line x).same .fresh (by decide)
@[simp] theorem Dev.install_head (d) (line) (x) (hd) : (Dev.install d line x).head hd = d.head hd := Dev.head_same hd (Dev.install_a d line x) (Dev.install_b d line x)
@[simp] theorem Dev.install_reg (d) (line) (x) (oo) : (Dev.install d line x).reg oo = d.reg oo := Dev.reg_same oo (Dev.install_regs d line x)
@[simp] theorem Dev.install_chan (d) (line) (x) (oo) : (Dev.install d line x).chan oo = d.chan oo := Dev.chan_same oo (Dev.install_media d line x)
@[simp] theorem Dev.install_die (d) (line) (x) (oo) : (Dev.install d line x).die oo = d.die oo := Dev.die_same oo (Dev.install_media d line x)
@[simp] theorem Dev.install_ctl (d) (line) (x) (oo) : (Dev.install d line x).ctl oo = d.ctl oo := Dev.ctl_same oo (Dev.install_media d line x)
@[simp] theorem Dev.install_grp (d) (line) (x) (oo) : (Dev.install d line x).grp oo = d.grp oo := Dev.grp_same oo (Dev.install_media d line x)
@[simp] theorem Dev.install_qp (d) (line) (x) (oo) : (Dev.install d line x).qp oo = d.qp oo := Dev.qp_same oo (Dev.install_lci d line x)
@[simp] theorem Dev.install_cmd (d) (line) (x) (oo) : (Dev.install d line x).cmd oo = d.cmd oo := Dev.cmd_same oo (Dev.install_lci d line x)
@[simp] theorem Dev.install_ent (d) (line) (x) (oo) : (Dev.install d line x).ent oo = d.ent oo := Dev.ent_same oo (Dev.install_tracts d line x)
@[simp] theorem Dev.install_hdr (d) (line) (x) (oo) : (Dev.install d line x).hdr oo = d.hdr oo := Dev.hdr_same oo (Dev.install_tracts d line x)
@[simp] theorem Dev.install_phys (d) (line) (x) (oo) (ii) : (Dev.install d line x).phys oo ii = d.phys oo ii := Dev.phys_same oo ii (Dev.install_tracts d line x)
@[simp] theorem Dev.install_slot (d) (line) (x) (oo) : (Dev.install d line x).slot oo = d.slot oo := Dev.slot_same oo (Dev.install_sec d line x)
@[simp] theorem Dev.install_schan (d) (line) (x) (oo) : (Dev.install d line x).schan oo = d.schan oo := Dev.schan_same oo (Dev.install_str d line x)
@[simp] theorem Dev.allocSector_regs (d) (sec) : (Dev.allocSector d sec).regs = d.regs := (Dev.allocSector_touches d sec).same .regs (by decide)
@[simp] theorem Dev.allocSector_a (d) (sec) : (Dev.allocSector d sec).a = d.a := (Dev.allocSector_touches d sec).same .a (by decide)
@[simp] theorem Dev.allocSector_b (d) (sec) : (Dev.allocSector d sec).b = d.b := (Dev.allocSector_touches d sec).same .b (by decide)
@[simp] theorem Dev.allocSector_tether (d) (sec) : (Dev.allocSector d sec).tether = d.tether := (Dev.allocSector_touches d sec).same .tether (by decide)
@[simp] theorem Dev.allocSector_launch (d) (sec) : (Dev.allocSector d sec).launch = d.launch := (Dev.allocSector_touches d sec).same .launch (by decide)
@[simp] theorem Dev.allocSector_gpio (d) (sec) : (Dev.allocSector d sec).gpio = d.gpio := (Dev.allocSector_touches d sec).same .gpio (by decide)
@[simp] theorem Dev.allocSector_keel (d) (sec) : (Dev.allocSector d sec).keel = d.keel := (Dev.allocSector_touches d sec).same .keel (by decide)
@[simp] theorem Dev.allocSector_log (d) (sec) : (Dev.allocSector d sec).log = d.log := (Dev.allocSector_touches d sec).same .log (by decide)
@[simp] theorem Dev.allocSector_aon (d) (sec) : (Dev.allocSector d sec).aon = d.aon := (Dev.allocSector_touches d sec).same .aon (by decide)
@[simp] theorem Dev.allocSector_cores (d) (sec) : (Dev.allocSector d sec).cores = d.cores := (Dev.allocSector_touches d sec).same .cores (by decide)
@[simp] theorem Dev.allocSector_sems (d) (sec) : (Dev.allocSector d sec).sems = d.sems := (Dev.allocSector_touches d sec).same .sems (by decide)
@[simp] theorem Dev.allocSector_images (d) (sec) : (Dev.allocSector d sec).images = d.images := (Dev.allocSector_touches d sec).same .images (by decide)
@[simp] theorem Dev.allocSector_pmc (d) (sec) : (Dev.allocSector d sec).pmc = d.pmc := (Dev.allocSector_touches d sec).same .pmc (by decide)
@[simp] theorem Dev.allocSector_bst (d) (sec) : (Dev.allocSector d sec).bst = d.bst := (Dev.allocSector_touches d sec).same .bst (by decide)
@[simp] theorem Dev.allocSector_dbg (d) (sec) : (Dev.allocSector d sec).dbg = d.dbg := (Dev.allocSector_touches d sec).same .dbg (by decide)
@[simp] theorem Dev.allocSector_gon (d) (sec) : (Dev.allocSector d sec).gon = d.gon := (Dev.allocSector_touches d sec).same .gon (by decide)
@[simp] theorem Dev.allocSector_media (d) (sec) : (Dev.allocSector d sec).media = d.media := (Dev.allocSector_touches d sec).same .media (by decide)
@[simp] theorem Dev.allocSector_tracts (d) (sec) : (Dev.allocSector d sec).tracts = d.tracts := (Dev.allocSector_touches d sec).same .tracts (by decide)
@[simp] theorem Dev.allocSector_drift (d) (sec) : (Dev.allocSector d sec).drift = d.drift := (Dev.allocSector_touches d sec).same .drift (by decide)
@[simp] theorem Dev.allocSector_sec (d) (sec) : (Dev.allocSector d sec).sec = d.sec := (Dev.allocSector_touches d sec).same .sec (by decide)
@[simp] theorem Dev.allocSector_str (d) (sec) : (Dev.allocSector d sec).str = d.str := (Dev.allocSector_touches d sec).same .str (by decide)
@[simp] theorem Dev.allocSector_lci (d) (sec) : (Dev.allocSector d sec).lci = d.lci := (Dev.allocSector_touches d sec).same .lci (by decide)
@[simp] theorem Dev.allocSector_pwr (d) (sec) : (Dev.allocSector d sec).pwr = d.pwr := (Dev.allocSector_touches d sec).same .pwr (by decide)
@[simp] theorem Dev.allocSector_therm (d) (sec) : (Dev.allocSector d sec).therm = d.therm := (Dev.allocSector_touches d sec).same .therm (by decide)
@[simp] theorem Dev.allocSector_out (d) (sec) : (Dev.allocSector d sec).out = d.out := (Dev.allocSector_touches d sec).same .out (by decide)
@[simp] theorem Dev.allocSector_fresh (d) (sec) : (Dev.allocSector d sec).fresh = d.fresh := (Dev.allocSector_touches d sec).same .fresh (by decide)
@[simp] theorem Dev.allocSector_head (d) (sec) (hd) : (Dev.allocSector d sec).head hd = d.head hd := Dev.head_same hd (Dev.allocSector_a d sec) (Dev.allocSector_b d sec)
@[simp] theorem Dev.allocSector_reg (d) (sec) (oo) : (Dev.allocSector d sec).reg oo = d.reg oo := Dev.reg_same oo (Dev.allocSector_regs d sec)
@[simp] theorem Dev.allocSector_chan (d) (sec) (oo) : (Dev.allocSector d sec).chan oo = d.chan oo := Dev.chan_same oo (Dev.allocSector_media d sec)
@[simp] theorem Dev.allocSector_die (d) (sec) (oo) : (Dev.allocSector d sec).die oo = d.die oo := Dev.die_same oo (Dev.allocSector_media d sec)
@[simp] theorem Dev.allocSector_ctl (d) (sec) (oo) : (Dev.allocSector d sec).ctl oo = d.ctl oo := Dev.ctl_same oo (Dev.allocSector_media d sec)
@[simp] theorem Dev.allocSector_grp (d) (sec) (oo) : (Dev.allocSector d sec).grp oo = d.grp oo := Dev.grp_same oo (Dev.allocSector_media d sec)
@[simp] theorem Dev.allocSector_qp (d) (sec) (oo) : (Dev.allocSector d sec).qp oo = d.qp oo := Dev.qp_same oo (Dev.allocSector_lci d sec)
@[simp] theorem Dev.allocSector_cmd (d) (sec) (oo) : (Dev.allocSector d sec).cmd oo = d.cmd oo := Dev.cmd_same oo (Dev.allocSector_lci d sec)
@[simp] theorem Dev.allocSector_ent (d) (sec) (oo) : (Dev.allocSector d sec).ent oo = d.ent oo := Dev.ent_same oo (Dev.allocSector_tracts d sec)
@[simp] theorem Dev.allocSector_hdr (d) (sec) (oo) : (Dev.allocSector d sec).hdr oo = d.hdr oo := Dev.hdr_same oo (Dev.allocSector_tracts d sec)
@[simp] theorem Dev.allocSector_phys (d) (sec) (oo) (ii) : (Dev.allocSector d sec).phys oo ii = d.phys oo ii := Dev.phys_same oo ii (Dev.allocSector_tracts d sec)
@[simp] theorem Dev.allocSector_slot (d) (sec) (oo) : (Dev.allocSector d sec).slot oo = d.slot oo := Dev.slot_same oo (Dev.allocSector_sec d sec)
@[simp] theorem Dev.allocSector_schan (d) (sec) (oo) : (Dev.allocSector d sec).schan oo = d.schan oo := Dev.schan_same oo (Dev.allocSector_str d sec)
@[simp] theorem Dev.icuLive_a (d) (n) : (Dev.icuLive d n).a = d.a := (Dev.icuLive_touches d n).same .a (by decide)
@[simp] theorem Dev.icuLive_b (d) (n) : (Dev.icuLive d n).b = d.b := (Dev.icuLive_touches d n).same .b (by decide)
@[simp] theorem Dev.icuLive_tether (d) (n) : (Dev.icuLive d n).tether = d.tether := (Dev.icuLive_touches d n).same .tether (by decide)
@[simp] theorem Dev.icuLive_launch (d) (n) : (Dev.icuLive d n).launch = d.launch := (Dev.icuLive_touches d n).same .launch (by decide)
@[simp] theorem Dev.icuLive_gpio (d) (n) : (Dev.icuLive d n).gpio = d.gpio := (Dev.icuLive_touches d n).same .gpio (by decide)
@[simp] theorem Dev.icuLive_keel (d) (n) : (Dev.icuLive d n).keel = d.keel := (Dev.icuLive_touches d n).same .keel (by decide)
@[simp] theorem Dev.icuLive_log (d) (n) : (Dev.icuLive d n).log = d.log := (Dev.icuLive_touches d n).same .log (by decide)
@[simp] theorem Dev.icuLive_aon (d) (n) : (Dev.icuLive d n).aon = d.aon := (Dev.icuLive_touches d n).same .aon (by decide)
@[simp] theorem Dev.icuLive_cores (d) (n) : (Dev.icuLive d n).cores = d.cores := (Dev.icuLive_touches d n).same .cores (by decide)
@[simp] theorem Dev.icuLive_sems (d) (n) : (Dev.icuLive d n).sems = d.sems := (Dev.icuLive_touches d n).same .sems (by decide)
@[simp] theorem Dev.icuLive_images (d) (n) : (Dev.icuLive d n).images = d.images := (Dev.icuLive_touches d n).same .images (by decide)
@[simp] theorem Dev.icuLive_pmc (d) (n) : (Dev.icuLive d n).pmc = d.pmc := (Dev.icuLive_touches d n).same .pmc (by decide)
@[simp] theorem Dev.icuLive_bst (d) (n) : (Dev.icuLive d n).bst = d.bst := (Dev.icuLive_touches d n).same .bst (by decide)
@[simp] theorem Dev.icuLive_dbg (d) (n) : (Dev.icuLive d n).dbg = d.dbg := (Dev.icuLive_touches d n).same .dbg (by decide)
@[simp] theorem Dev.icuLive_gon (d) (n) : (Dev.icuLive d n).gon = d.gon := (Dev.icuLive_touches d n).same .gon (by decide)
@[simp] theorem Dev.icuLive_cache (d) (n) : (Dev.icuLive d n).cache = d.cache := (Dev.icuLive_touches d n).same .cache (by decide)
@[simp] theorem Dev.icuLive_media (d) (n) : (Dev.icuLive d n).media = d.media := (Dev.icuLive_touches d n).same .media (by decide)
@[simp] theorem Dev.icuLive_tracts (d) (n) : (Dev.icuLive d n).tracts = d.tracts := (Dev.icuLive_touches d n).same .tracts (by decide)
@[simp] theorem Dev.icuLive_drift (d) (n) : (Dev.icuLive d n).drift = d.drift := (Dev.icuLive_touches d n).same .drift (by decide)
@[simp] theorem Dev.icuLive_sec (d) (n) : (Dev.icuLive d n).sec = d.sec := (Dev.icuLive_touches d n).same .sec (by decide)
@[simp] theorem Dev.icuLive_str (d) (n) : (Dev.icuLive d n).str = d.str := (Dev.icuLive_touches d n).same .str (by decide)
@[simp] theorem Dev.icuLive_lci (d) (n) : (Dev.icuLive d n).lci = d.lci := (Dev.icuLive_touches d n).same .lci (by decide)
@[simp] theorem Dev.icuLive_pwr (d) (n) : (Dev.icuLive d n).pwr = d.pwr := (Dev.icuLive_touches d n).same .pwr (by decide)
@[simp] theorem Dev.icuLive_therm (d) (n) : (Dev.icuLive d n).therm = d.therm := (Dev.icuLive_touches d n).same .therm (by decide)
@[simp] theorem Dev.icuLive_out (d) (n) : (Dev.icuLive d n).out = d.out := (Dev.icuLive_touches d n).same .out (by decide)
@[simp] theorem Dev.icuLive_fresh (d) (n) : (Dev.icuLive d n).fresh = d.fresh := (Dev.icuLive_touches d n).same .fresh (by decide)
@[simp] theorem Dev.icuLive_head (d) (n) (hd) : (Dev.icuLive d n).head hd = d.head hd := Dev.head_same hd (Dev.icuLive_a d n) (Dev.icuLive_b d n)
@[simp] theorem Dev.icuLive_chan (d) (n) (oo) : (Dev.icuLive d n).chan oo = d.chan oo := Dev.chan_same oo (Dev.icuLive_media d n)
@[simp] theorem Dev.icuLive_die (d) (n) (oo) : (Dev.icuLive d n).die oo = d.die oo := Dev.die_same oo (Dev.icuLive_media d n)
@[simp] theorem Dev.icuLive_ctl (d) (n) (oo) : (Dev.icuLive d n).ctl oo = d.ctl oo := Dev.ctl_same oo (Dev.icuLive_media d n)
@[simp] theorem Dev.icuLive_grp (d) (n) (oo) : (Dev.icuLive d n).grp oo = d.grp oo := Dev.grp_same oo (Dev.icuLive_media d n)
@[simp] theorem Dev.icuLive_qp (d) (n) (oo) : (Dev.icuLive d n).qp oo = d.qp oo := Dev.qp_same oo (Dev.icuLive_lci d n)
@[simp] theorem Dev.icuLive_cmd (d) (n) (oo) : (Dev.icuLive d n).cmd oo = d.cmd oo := Dev.cmd_same oo (Dev.icuLive_lci d n)
@[simp] theorem Dev.icuLive_ent (d) (n) (oo) : (Dev.icuLive d n).ent oo = d.ent oo := Dev.ent_same oo (Dev.icuLive_tracts d n)
@[simp] theorem Dev.icuLive_hdr (d) (n) (oo) : (Dev.icuLive d n).hdr oo = d.hdr oo := Dev.hdr_same oo (Dev.icuLive_tracts d n)
@[simp] theorem Dev.icuLive_phys (d) (n) (oo) (ii) : (Dev.icuLive d n).phys oo ii = d.phys oo ii := Dev.phys_same oo ii (Dev.icuLive_tracts d n)
@[simp] theorem Dev.icuLive_slot (d) (n) (oo) : (Dev.icuLive d n).slot oo = d.slot oo := Dev.slot_same oo (Dev.icuLive_sec d n)
@[simp] theorem Dev.icuLive_schan (d) (n) (oo) : (Dev.icuLive d n).schan oo = d.schan oo := Dev.schan_same oo (Dev.icuLive_str d n)
@[simp] theorem Dev.linkNoted_a (d) (h) (was) : (Dev.linkNoted d h was).a = d.a := (Dev.linkNoted_touches d h was).same .a (by decide)
@[simp] theorem Dev.linkNoted_b (d) (h) (was) : (Dev.linkNoted d h was).b = d.b := (Dev.linkNoted_touches d h was).same .b (by decide)
@[simp] theorem Dev.linkNoted_tether (d) (h) (was) : (Dev.linkNoted d h was).tether = d.tether := (Dev.linkNoted_touches d h was).same .tether (by decide)
@[simp] theorem Dev.linkNoted_launch (d) (h) (was) : (Dev.linkNoted d h was).launch = d.launch := (Dev.linkNoted_touches d h was).same .launch (by decide)
@[simp] theorem Dev.linkNoted_gpio (d) (h) (was) : (Dev.linkNoted d h was).gpio = d.gpio := (Dev.linkNoted_touches d h was).same .gpio (by decide)
@[simp] theorem Dev.linkNoted_keel (d) (h) (was) : (Dev.linkNoted d h was).keel = d.keel := (Dev.linkNoted_touches d h was).same .keel (by decide)
@[simp] theorem Dev.linkNoted_log (d) (h) (was) : (Dev.linkNoted d h was).log = d.log := (Dev.linkNoted_touches d h was).same .log (by decide)
@[simp] theorem Dev.linkNoted_aon (d) (h) (was) : (Dev.linkNoted d h was).aon = d.aon := (Dev.linkNoted_touches d h was).same .aon (by decide)
@[simp] theorem Dev.linkNoted_cores (d) (h) (was) : (Dev.linkNoted d h was).cores = d.cores := (Dev.linkNoted_touches d h was).same .cores (by decide)
@[simp] theorem Dev.linkNoted_sems (d) (h) (was) : (Dev.linkNoted d h was).sems = d.sems := (Dev.linkNoted_touches d h was).same .sems (by decide)
@[simp] theorem Dev.linkNoted_images (d) (h) (was) : (Dev.linkNoted d h was).images = d.images := (Dev.linkNoted_touches d h was).same .images (by decide)
@[simp] theorem Dev.linkNoted_pmc (d) (h) (was) : (Dev.linkNoted d h was).pmc = d.pmc := (Dev.linkNoted_touches d h was).same .pmc (by decide)
@[simp] theorem Dev.linkNoted_bst (d) (h) (was) : (Dev.linkNoted d h was).bst = d.bst := (Dev.linkNoted_touches d h was).same .bst (by decide)
@[simp] theorem Dev.linkNoted_dbg (d) (h) (was) : (Dev.linkNoted d h was).dbg = d.dbg := (Dev.linkNoted_touches d h was).same .dbg (by decide)
@[simp] theorem Dev.linkNoted_gon (d) (h) (was) : (Dev.linkNoted d h was).gon = d.gon := (Dev.linkNoted_touches d h was).same .gon (by decide)
@[simp] theorem Dev.linkNoted_cache (d) (h) (was) : (Dev.linkNoted d h was).cache = d.cache := (Dev.linkNoted_touches d h was).same .cache (by decide)
@[simp] theorem Dev.linkNoted_media (d) (h) (was) : (Dev.linkNoted d h was).media = d.media := (Dev.linkNoted_touches d h was).same .media (by decide)
@[simp] theorem Dev.linkNoted_tracts (d) (h) (was) : (Dev.linkNoted d h was).tracts = d.tracts := (Dev.linkNoted_touches d h was).same .tracts (by decide)
@[simp] theorem Dev.linkNoted_drift (d) (h) (was) : (Dev.linkNoted d h was).drift = d.drift := (Dev.linkNoted_touches d h was).same .drift (by decide)
@[simp] theorem Dev.linkNoted_sec (d) (h) (was) : (Dev.linkNoted d h was).sec = d.sec := (Dev.linkNoted_touches d h was).same .sec (by decide)
@[simp] theorem Dev.linkNoted_str (d) (h) (was) : (Dev.linkNoted d h was).str = d.str := (Dev.linkNoted_touches d h was).same .str (by decide)
@[simp] theorem Dev.linkNoted_lci (d) (h) (was) : (Dev.linkNoted d h was).lci = d.lci := (Dev.linkNoted_touches d h was).same .lci (by decide)
@[simp] theorem Dev.linkNoted_pwr (d) (h) (was) : (Dev.linkNoted d h was).pwr = d.pwr := (Dev.linkNoted_touches d h was).same .pwr (by decide)
@[simp] theorem Dev.linkNoted_therm (d) (h) (was) : (Dev.linkNoted d h was).therm = d.therm := (Dev.linkNoted_touches d h was).same .therm (by decide)
@[simp] theorem Dev.linkNoted_out (d) (h) (was) : (Dev.linkNoted d h was).out = d.out := (Dev.linkNoted_touches d h was).same .out (by decide)
@[simp] theorem Dev.linkNoted_fresh (d) (h) (was) : (Dev.linkNoted d h was).fresh = d.fresh := (Dev.linkNoted_touches d h was).same .fresh (by decide)
@[simp] theorem Dev.linkNoted_head (d) (h) (was) (hd) : (Dev.linkNoted d h was).head hd = d.head hd := Dev.head_same hd (Dev.linkNoted_a d h was) (Dev.linkNoted_b d h was)
@[simp] theorem Dev.linkNoted_chan (d) (h) (was) (oo) : (Dev.linkNoted d h was).chan oo = d.chan oo := Dev.chan_same oo (Dev.linkNoted_media d h was)
@[simp] theorem Dev.linkNoted_die (d) (h) (was) (oo) : (Dev.linkNoted d h was).die oo = d.die oo := Dev.die_same oo (Dev.linkNoted_media d h was)
@[simp] theorem Dev.linkNoted_ctl (d) (h) (was) (oo) : (Dev.linkNoted d h was).ctl oo = d.ctl oo := Dev.ctl_same oo (Dev.linkNoted_media d h was)
@[simp] theorem Dev.linkNoted_grp (d) (h) (was) (oo) : (Dev.linkNoted d h was).grp oo = d.grp oo := Dev.grp_same oo (Dev.linkNoted_media d h was)
@[simp] theorem Dev.linkNoted_qp (d) (h) (was) (oo) : (Dev.linkNoted d h was).qp oo = d.qp oo := Dev.qp_same oo (Dev.linkNoted_lci d h was)
@[simp] theorem Dev.linkNoted_cmd (d) (h) (was) (oo) : (Dev.linkNoted d h was).cmd oo = d.cmd oo := Dev.cmd_same oo (Dev.linkNoted_lci d h was)
@[simp] theorem Dev.linkNoted_ent (d) (h) (was) (oo) : (Dev.linkNoted d h was).ent oo = d.ent oo := Dev.ent_same oo (Dev.linkNoted_tracts d h was)
@[simp] theorem Dev.linkNoted_hdr (d) (h) (was) (oo) : (Dev.linkNoted d h was).hdr oo = d.hdr oo := Dev.hdr_same oo (Dev.linkNoted_tracts d h was)
@[simp] theorem Dev.linkNoted_phys (d) (h) (was) (oo) (ii) : (Dev.linkNoted d h was).phys oo ii = d.phys oo ii := Dev.phys_same oo ii (Dev.linkNoted_tracts d h was)
@[simp] theorem Dev.linkNoted_slot (d) (h) (was) (oo) : (Dev.linkNoted d h was).slot oo = d.slot oo := Dev.slot_same oo (Dev.linkNoted_sec d h was)
@[simp] theorem Dev.linkNoted_schan (d) (h) (was) (oo) : (Dev.linkNoted d h was).schan oo = d.schan oo := Dev.schan_same oo (Dev.linkNoted_str d h was)
@[simp] theorem Dev.measureStop_regs (d) : (Dev.measureStop d).regs = d.regs := (Dev.measureStop_touches d).same .regs (by decide)
@[simp] theorem Dev.measureStop_a (d) : (Dev.measureStop d).a = d.a := (Dev.measureStop_touches d).same .a (by decide)
@[simp] theorem Dev.measureStop_b (d) : (Dev.measureStop d).b = d.b := (Dev.measureStop_touches d).same .b (by decide)
@[simp] theorem Dev.measureStop_tether (d) : (Dev.measureStop d).tether = d.tether := (Dev.measureStop_touches d).same .tether (by decide)
@[simp] theorem Dev.measureStop_launch (d) : (Dev.measureStop d).launch = d.launch := (Dev.measureStop_touches d).same .launch (by decide)
@[simp] theorem Dev.measureStop_gpio (d) : (Dev.measureStop d).gpio = d.gpio := (Dev.measureStop_touches d).same .gpio (by decide)
@[simp] theorem Dev.measureStop_keel (d) : (Dev.measureStop d).keel = d.keel := (Dev.measureStop_touches d).same .keel (by decide)
@[simp] theorem Dev.measureStop_log (d) : (Dev.measureStop d).log = d.log := (Dev.measureStop_touches d).same .log (by decide)
@[simp] theorem Dev.measureStop_aon (d) : (Dev.measureStop d).aon = d.aon := (Dev.measureStop_touches d).same .aon (by decide)
@[simp] theorem Dev.measureStop_cores (d) : (Dev.measureStop d).cores = d.cores := (Dev.measureStop_touches d).same .cores (by decide)
@[simp] theorem Dev.measureStop_sems (d) : (Dev.measureStop d).sems = d.sems := (Dev.measureStop_touches d).same .sems (by decide)
@[simp] theorem Dev.measureStop_images (d) : (Dev.measureStop d).images = d.images := (Dev.measureStop_touches d).same .images (by decide)
@[simp] theorem Dev.measureStop_pmc (d) : (Dev.measureStop d).pmc = d.pmc := (Dev.measureStop_touches d).same .pmc (by decide)
@[simp] theorem Dev.measureStop_bst (d) : (Dev.measureStop d).bst = d.bst := (Dev.measureStop_touches d).same .bst (by decide)
@[simp] theorem Dev.measureStop_dbg (d) : (Dev.measureStop d).dbg = d.dbg := (Dev.measureStop_touches d).same .dbg (by decide)
@[simp] theorem Dev.measureStop_gon (d) : (Dev.measureStop d).gon = d.gon := (Dev.measureStop_touches d).same .gon (by decide)
@[simp] theorem Dev.measureStop_cache (d) : (Dev.measureStop d).cache = d.cache := (Dev.measureStop_touches d).same .cache (by decide)
@[simp] theorem Dev.measureStop_media (d) : (Dev.measureStop d).media = d.media := (Dev.measureStop_touches d).same .media (by decide)
@[simp] theorem Dev.measureStop_tracts (d) : (Dev.measureStop d).tracts = d.tracts := (Dev.measureStop_touches d).same .tracts (by decide)
@[simp] theorem Dev.measureStop_drift (d) : (Dev.measureStop d).drift = d.drift := (Dev.measureStop_touches d).same .drift (by decide)
@[simp] theorem Dev.measureStop_sec (d) : (Dev.measureStop d).sec = d.sec := (Dev.measureStop_touches d).same .sec (by decide)
@[simp] theorem Dev.measureStop_str (d) : (Dev.measureStop d).str = d.str := (Dev.measureStop_touches d).same .str (by decide)
@[simp] theorem Dev.measureStop_lci (d) : (Dev.measureStop d).lci = d.lci := (Dev.measureStop_touches d).same .lci (by decide)
@[simp] theorem Dev.measureStop_therm (d) : (Dev.measureStop d).therm = d.therm := (Dev.measureStop_touches d).same .therm (by decide)
@[simp] theorem Dev.measureStop_head (d) (hd) : (Dev.measureStop d).head hd = d.head hd := Dev.head_same hd (Dev.measureStop_a d) (Dev.measureStop_b d)
@[simp] theorem Dev.measureStop_reg (d) (oo) : (Dev.measureStop d).reg oo = d.reg oo := Dev.reg_same oo (Dev.measureStop_regs d)
@[simp] theorem Dev.measureStop_chan (d) (oo) : (Dev.measureStop d).chan oo = d.chan oo := Dev.chan_same oo (Dev.measureStop_media d)
@[simp] theorem Dev.measureStop_die (d) (oo) : (Dev.measureStop d).die oo = d.die oo := Dev.die_same oo (Dev.measureStop_media d)
@[simp] theorem Dev.measureStop_ctl (d) (oo) : (Dev.measureStop d).ctl oo = d.ctl oo := Dev.ctl_same oo (Dev.measureStop_media d)
@[simp] theorem Dev.measureStop_grp (d) (oo) : (Dev.measureStop d).grp oo = d.grp oo := Dev.grp_same oo (Dev.measureStop_media d)
@[simp] theorem Dev.measureStop_qp (d) (oo) : (Dev.measureStop d).qp oo = d.qp oo := Dev.qp_same oo (Dev.measureStop_lci d)
@[simp] theorem Dev.measureStop_cmd (d) (oo) : (Dev.measureStop d).cmd oo = d.cmd oo := Dev.cmd_same oo (Dev.measureStop_lci d)
@[simp] theorem Dev.measureStop_ent (d) (oo) : (Dev.measureStop d).ent oo = d.ent oo := Dev.ent_same oo (Dev.measureStop_tracts d)
@[simp] theorem Dev.measureStop_hdr (d) (oo) : (Dev.measureStop d).hdr oo = d.hdr oo := Dev.hdr_same oo (Dev.measureStop_tracts d)
@[simp] theorem Dev.measureStop_phys (d) (oo) (ii) : (Dev.measureStop d).phys oo ii = d.phys oo ii := Dev.phys_same oo ii (Dev.measureStop_tracts d)
@[simp] theorem Dev.measureStop_slot (d) (oo) : (Dev.measureStop d).slot oo = d.slot oo := Dev.slot_same oo (Dev.measureStop_sec d)
@[simp] theorem Dev.measureStop_schan (d) (oo) : (Dev.measureStop d).schan oo = d.schan oo := Dev.schan_same oo (Dev.measureStop_str d)
@[simp] theorem Dev.marginEnd_a (d) : (Dev.marginEnd d).a = d.a := (Dev.marginEnd_touches d).same .a (by decide)
@[simp] theorem Dev.marginEnd_b (d) : (Dev.marginEnd d).b = d.b := (Dev.marginEnd_touches d).same .b (by decide)
@[simp] theorem Dev.marginEnd_tether (d) : (Dev.marginEnd d).tether = d.tether := (Dev.marginEnd_touches d).same .tether (by decide)
@[simp] theorem Dev.marginEnd_launch (d) : (Dev.marginEnd d).launch = d.launch := (Dev.marginEnd_touches d).same .launch (by decide)
@[simp] theorem Dev.marginEnd_gpio (d) : (Dev.marginEnd d).gpio = d.gpio := (Dev.marginEnd_touches d).same .gpio (by decide)
@[simp] theorem Dev.marginEnd_keel (d) : (Dev.marginEnd d).keel = d.keel := (Dev.marginEnd_touches d).same .keel (by decide)
@[simp] theorem Dev.marginEnd_log (d) : (Dev.marginEnd d).log = d.log := (Dev.marginEnd_touches d).same .log (by decide)
@[simp] theorem Dev.marginEnd_aon (d) : (Dev.marginEnd d).aon = d.aon := (Dev.marginEnd_touches d).same .aon (by decide)
@[simp] theorem Dev.marginEnd_cores (d) : (Dev.marginEnd d).cores = d.cores := (Dev.marginEnd_touches d).same .cores (by decide)
@[simp] theorem Dev.marginEnd_sems (d) : (Dev.marginEnd d).sems = d.sems := (Dev.marginEnd_touches d).same .sems (by decide)
@[simp] theorem Dev.marginEnd_images (d) : (Dev.marginEnd d).images = d.images := (Dev.marginEnd_touches d).same .images (by decide)
@[simp] theorem Dev.marginEnd_pmc (d) : (Dev.marginEnd d).pmc = d.pmc := (Dev.marginEnd_touches d).same .pmc (by decide)
@[simp] theorem Dev.marginEnd_bst (d) : (Dev.marginEnd d).bst = d.bst := (Dev.marginEnd_touches d).same .bst (by decide)
@[simp] theorem Dev.marginEnd_dbg (d) : (Dev.marginEnd d).dbg = d.dbg := (Dev.marginEnd_touches d).same .dbg (by decide)
@[simp] theorem Dev.marginEnd_gon (d) : (Dev.marginEnd d).gon = d.gon := (Dev.marginEnd_touches d).same .gon (by decide)
@[simp] theorem Dev.marginEnd_cache (d) : (Dev.marginEnd d).cache = d.cache := (Dev.marginEnd_touches d).same .cache (by decide)
@[simp] theorem Dev.marginEnd_media (d) : (Dev.marginEnd d).media = d.media := (Dev.marginEnd_touches d).same .media (by decide)
@[simp] theorem Dev.marginEnd_tracts (d) : (Dev.marginEnd d).tracts = d.tracts := (Dev.marginEnd_touches d).same .tracts (by decide)
@[simp] theorem Dev.marginEnd_drift (d) : (Dev.marginEnd d).drift = d.drift := (Dev.marginEnd_touches d).same .drift (by decide)
@[simp] theorem Dev.marginEnd_sec (d) : (Dev.marginEnd d).sec = d.sec := (Dev.marginEnd_touches d).same .sec (by decide)
@[simp] theorem Dev.marginEnd_str (d) : (Dev.marginEnd d).str = d.str := (Dev.marginEnd_touches d).same .str (by decide)
@[simp] theorem Dev.marginEnd_lci (d) : (Dev.marginEnd d).lci = d.lci := (Dev.marginEnd_touches d).same .lci (by decide)
@[simp] theorem Dev.marginEnd_therm (d) : (Dev.marginEnd d).therm = d.therm := (Dev.marginEnd_touches d).same .therm (by decide)
@[simp] theorem Dev.marginEnd_fresh (d) : (Dev.marginEnd d).fresh = d.fresh := (Dev.marginEnd_touches d).same .fresh (by decide)
@[simp] theorem Dev.marginEnd_head (d) (hd) : (Dev.marginEnd d).head hd = d.head hd := Dev.head_same hd (Dev.marginEnd_a d) (Dev.marginEnd_b d)
@[simp] theorem Dev.marginEnd_chan (d) (oo) : (Dev.marginEnd d).chan oo = d.chan oo := Dev.chan_same oo (Dev.marginEnd_media d)
@[simp] theorem Dev.marginEnd_die (d) (oo) : (Dev.marginEnd d).die oo = d.die oo := Dev.die_same oo (Dev.marginEnd_media d)
@[simp] theorem Dev.marginEnd_ctl (d) (oo) : (Dev.marginEnd d).ctl oo = d.ctl oo := Dev.ctl_same oo (Dev.marginEnd_media d)
@[simp] theorem Dev.marginEnd_grp (d) (oo) : (Dev.marginEnd d).grp oo = d.grp oo := Dev.grp_same oo (Dev.marginEnd_media d)
@[simp] theorem Dev.marginEnd_qp (d) (oo) : (Dev.marginEnd d).qp oo = d.qp oo := Dev.qp_same oo (Dev.marginEnd_lci d)
@[simp] theorem Dev.marginEnd_cmd (d) (oo) : (Dev.marginEnd d).cmd oo = d.cmd oo := Dev.cmd_same oo (Dev.marginEnd_lci d)
@[simp] theorem Dev.marginEnd_ent (d) (oo) : (Dev.marginEnd d).ent oo = d.ent oo := Dev.ent_same oo (Dev.marginEnd_tracts d)
@[simp] theorem Dev.marginEnd_hdr (d) (oo) : (Dev.marginEnd d).hdr oo = d.hdr oo := Dev.hdr_same oo (Dev.marginEnd_tracts d)
@[simp] theorem Dev.marginEnd_phys (d) (oo) (ii) : (Dev.marginEnd d).phys oo ii = d.phys oo ii := Dev.phys_same oo ii (Dev.marginEnd_tracts d)
@[simp] theorem Dev.marginEnd_slot (d) (oo) : (Dev.marginEnd d).slot oo = d.slot oo := Dev.slot_same oo (Dev.marginEnd_sec d)
@[simp] theorem Dev.marginEnd_schan (d) (oo) : (Dev.marginEnd d).schan oo = d.schan oo := Dev.schan_same oo (Dev.marginEnd_str d)
@[simp] theorem Dev.setSvc_a (F) (d) (v) : (Dev.setSvc F d v).a = d.a := (Dev.setSvc_touches F d v).same .a (by decide)
@[simp] theorem Dev.setSvc_b (F) (d) (v) : (Dev.setSvc F d v).b = d.b := (Dev.setSvc_touches F d v).same .b (by decide)
@[simp] theorem Dev.setSvc_tether (F) (d) (v) : (Dev.setSvc F d v).tether = d.tether := (Dev.setSvc_touches F d v).same .tether (by decide)
@[simp] theorem Dev.setSvc_launch (F) (d) (v) : (Dev.setSvc F d v).launch = d.launch := (Dev.setSvc_touches F d v).same .launch (by decide)
@[simp] theorem Dev.setSvc_gpio (F) (d) (v) : (Dev.setSvc F d v).gpio = d.gpio := (Dev.setSvc_touches F d v).same .gpio (by decide)
@[simp] theorem Dev.setSvc_aon (F) (d) (v) : (Dev.setSvc F d v).aon = d.aon := (Dev.setSvc_touches F d v).same .aon (by decide)
@[simp] theorem Dev.setSvc_cores (F) (d) (v) : (Dev.setSvc F d v).cores = d.cores := (Dev.setSvc_touches F d v).same .cores (by decide)
@[simp] theorem Dev.setSvc_sems (F) (d) (v) : (Dev.setSvc F d v).sems = d.sems := (Dev.setSvc_touches F d v).same .sems (by decide)
@[simp] theorem Dev.setSvc_images (F) (d) (v) : (Dev.setSvc F d v).images = d.images := (Dev.setSvc_touches F d v).same .images (by decide)
@[simp] theorem Dev.setSvc_pmc (F) (d) (v) : (Dev.setSvc F d v).pmc = d.pmc := (Dev.setSvc_touches F d v).same .pmc (by decide)
@[simp] theorem Dev.setSvc_bst (F) (d) (v) : (Dev.setSvc F d v).bst = d.bst := (Dev.setSvc_touches F d v).same .bst (by decide)
@[simp] theorem Dev.setSvc_dbg (F) (d) (v) : (Dev.setSvc F d v).dbg = d.dbg := (Dev.setSvc_touches F d v).same .dbg (by decide)
@[simp] theorem Dev.setSvc_gon (F) (d) (v) : (Dev.setSvc F d v).gon = d.gon := (Dev.setSvc_touches F d v).same .gon (by decide)
@[simp] theorem Dev.setSvc_cache (F) (d) (v) : (Dev.setSvc F d v).cache = d.cache := (Dev.setSvc_touches F d v).same .cache (by decide)
@[simp] theorem Dev.setSvc_media (F) (d) (v) : (Dev.setSvc F d v).media = d.media := (Dev.setSvc_touches F d v).same .media (by decide)
@[simp] theorem Dev.setSvc_tracts (F) (d) (v) : (Dev.setSvc F d v).tracts = d.tracts := (Dev.setSvc_touches F d v).same .tracts (by decide)
@[simp] theorem Dev.setSvc_drift (F) (d) (v) : (Dev.setSvc F d v).drift = d.drift := (Dev.setSvc_touches F d v).same .drift (by decide)
@[simp] theorem Dev.setSvc_sec (F) (d) (v) : (Dev.setSvc F d v).sec = d.sec := (Dev.setSvc_touches F d v).same .sec (by decide)
@[simp] theorem Dev.setSvc_str (F) (d) (v) : (Dev.setSvc F d v).str = d.str := (Dev.setSvc_touches F d v).same .str (by decide)
@[simp] theorem Dev.setSvc_lci (F) (d) (v) : (Dev.setSvc F d v).lci = d.lci := (Dev.setSvc_touches F d v).same .lci (by decide)
@[simp] theorem Dev.setSvc_therm (F) (d) (v) : (Dev.setSvc F d v).therm = d.therm := (Dev.setSvc_touches F d v).same .therm (by decide)
@[simp] theorem Dev.setSvc_fresh (F) (d) (v) : (Dev.setSvc F d v).fresh = d.fresh := (Dev.setSvc_touches F d v).same .fresh (by decide)
@[simp] theorem Dev.setSvc_head (F) (d) (v) (hd) : (Dev.setSvc F d v).head hd = d.head hd := Dev.head_same hd (Dev.setSvc_a F d v) (Dev.setSvc_b F d v)
@[simp] theorem Dev.setSvc_chan (F) (d) (v) (oo) : (Dev.setSvc F d v).chan oo = d.chan oo := Dev.chan_same oo (Dev.setSvc_media F d v)
@[simp] theorem Dev.setSvc_die (F) (d) (v) (oo) : (Dev.setSvc F d v).die oo = d.die oo := Dev.die_same oo (Dev.setSvc_media F d v)
@[simp] theorem Dev.setSvc_ctl (F) (d) (v) (oo) : (Dev.setSvc F d v).ctl oo = d.ctl oo := Dev.ctl_same oo (Dev.setSvc_media F d v)
@[simp] theorem Dev.setSvc_grp (F) (d) (v) (oo) : (Dev.setSvc F d v).grp oo = d.grp oo := Dev.grp_same oo (Dev.setSvc_media F d v)
@[simp] theorem Dev.setSvc_qp (F) (d) (v) (oo) : (Dev.setSvc F d v).qp oo = d.qp oo := Dev.qp_same oo (Dev.setSvc_lci F d v)
@[simp] theorem Dev.setSvc_cmd (F) (d) (v) (oo) : (Dev.setSvc F d v).cmd oo = d.cmd oo := Dev.cmd_same oo (Dev.setSvc_lci F d v)
@[simp] theorem Dev.setSvc_ent (F) (d) (v) (oo) : (Dev.setSvc F d v).ent oo = d.ent oo := Dev.ent_same oo (Dev.setSvc_tracts F d v)
@[simp] theorem Dev.setSvc_hdr (F) (d) (v) (oo) : (Dev.setSvc F d v).hdr oo = d.hdr oo := Dev.hdr_same oo (Dev.setSvc_tracts F d v)
@[simp] theorem Dev.setSvc_phys (F) (d) (v) (oo) (ii) : (Dev.setSvc F d v).phys oo ii = d.phys oo ii := Dev.phys_same oo ii (Dev.setSvc_tracts F d v)
@[simp] theorem Dev.setSvc_slot (F) (d) (v) (oo) : (Dev.setSvc F d v).slot oo = d.slot oo := Dev.slot_same oo (Dev.setSvc_sec F d v)
@[simp] theorem Dev.setSvc_schan (F) (d) (v) (oo) : (Dev.setSvc F d v).schan oo = d.schan oo := Dev.schan_same oo (Dev.setSvc_str F d v)
@[simp] theorem uwlAdd_a (F) (d) (cause) (l) : (uwlAdd F d cause l).a = d.a := (uwlAdd_touches F d cause l).same .a (by decide)
@[simp] theorem uwlAdd_b (F) (d) (cause) (l) : (uwlAdd F d cause l).b = d.b := (uwlAdd_touches F d cause l).same .b (by decide)
@[simp] theorem uwlAdd_tether (F) (d) (cause) (l) : (uwlAdd F d cause l).tether = d.tether := (uwlAdd_touches F d cause l).same .tether (by decide)
@[simp] theorem uwlAdd_launch (F) (d) (cause) (l) : (uwlAdd F d cause l).launch = d.launch := (uwlAdd_touches F d cause l).same .launch (by decide)
@[simp] theorem uwlAdd_gpio (F) (d) (cause) (l) : (uwlAdd F d cause l).gpio = d.gpio := (uwlAdd_touches F d cause l).same .gpio (by decide)
@[simp] theorem uwlAdd_cores (F) (d) (cause) (l) : (uwlAdd F d cause l).cores = d.cores := (uwlAdd_touches F d cause l).same .cores (by decide)
@[simp] theorem uwlAdd_sems (F) (d) (cause) (l) : (uwlAdd F d cause l).sems = d.sems := (uwlAdd_touches F d cause l).same .sems (by decide)
@[simp] theorem uwlAdd_images (F) (d) (cause) (l) : (uwlAdd F d cause l).images = d.images := (uwlAdd_touches F d cause l).same .images (by decide)
@[simp] theorem uwlAdd_pmc (F) (d) (cause) (l) : (uwlAdd F d cause l).pmc = d.pmc := (uwlAdd_touches F d cause l).same .pmc (by decide)
@[simp] theorem uwlAdd_bst (F) (d) (cause) (l) : (uwlAdd F d cause l).bst = d.bst := (uwlAdd_touches F d cause l).same .bst (by decide)
@[simp] theorem uwlAdd_dbg (F) (d) (cause) (l) : (uwlAdd F d cause l).dbg = d.dbg := (uwlAdd_touches F d cause l).same .dbg (by decide)
@[simp] theorem uwlAdd_gon (F) (d) (cause) (l) : (uwlAdd F d cause l).gon = d.gon := (uwlAdd_touches F d cause l).same .gon (by decide)
@[simp] theorem uwlAdd_cache (F) (d) (cause) (l) : (uwlAdd F d cause l).cache = d.cache := (uwlAdd_touches F d cause l).same .cache (by decide)
@[simp] theorem uwlAdd_media (F) (d) (cause) (l) : (uwlAdd F d cause l).media = d.media := (uwlAdd_touches F d cause l).same .media (by decide)
@[simp] theorem uwlAdd_tracts (F) (d) (cause) (l) : (uwlAdd F d cause l).tracts = d.tracts := (uwlAdd_touches F d cause l).same .tracts (by decide)
@[simp] theorem uwlAdd_drift (F) (d) (cause) (l) : (uwlAdd F d cause l).drift = d.drift := (uwlAdd_touches F d cause l).same .drift (by decide)
@[simp] theorem uwlAdd_sec (F) (d) (cause) (l) : (uwlAdd F d cause l).sec = d.sec := (uwlAdd_touches F d cause l).same .sec (by decide)
@[simp] theorem uwlAdd_str (F) (d) (cause) (l) : (uwlAdd F d cause l).str = d.str := (uwlAdd_touches F d cause l).same .str (by decide)
@[simp] theorem uwlAdd_lci (F) (d) (cause) (l) : (uwlAdd F d cause l).lci = d.lci := (uwlAdd_touches F d cause l).same .lci (by decide)
@[simp] theorem uwlAdd_pwr (F) (d) (cause) (l) : (uwlAdd F d cause l).pwr = d.pwr := (uwlAdd_touches F d cause l).same .pwr (by decide)
@[simp] theorem uwlAdd_therm (F) (d) (cause) (l) : (uwlAdd F d cause l).therm = d.therm := (uwlAdd_touches F d cause l).same .therm (by decide)
@[simp] theorem uwlAdd_out (F) (d) (cause) (l) : (uwlAdd F d cause l).out = d.out := (uwlAdd_touches F d cause l).same .out (by decide)
@[simp] theorem uwlAdd_fresh (F) (d) (cause) (l) : (uwlAdd F d cause l).fresh = d.fresh := (uwlAdd_touches F d cause l).same .fresh (by decide)
@[simp] theorem uwlAdd_head (F) (d) (cause) (l) (hd) : (uwlAdd F d cause l).head hd = d.head hd := Dev.head_same hd (uwlAdd_a F d cause l) (uwlAdd_b F d cause l)
@[simp] theorem uwlAdd_chan (F) (d) (cause) (l) (oo) : (uwlAdd F d cause l).chan oo = d.chan oo := Dev.chan_same oo (uwlAdd_media F d cause l)
@[simp] theorem uwlAdd_die (F) (d) (cause) (l) (oo) : (uwlAdd F d cause l).die oo = d.die oo := Dev.die_same oo (uwlAdd_media F d cause l)
@[simp] theorem uwlAdd_ctl (F) (d) (cause) (l) (oo) : (uwlAdd F d cause l).ctl oo = d.ctl oo := Dev.ctl_same oo (uwlAdd_media F d cause l)
@[simp] theorem uwlAdd_grp (F) (d) (cause) (l) (oo) : (uwlAdd F d cause l).grp oo = d.grp oo := Dev.grp_same oo (uwlAdd_media F d cause l)
@[simp] theorem uwlAdd_qp (F) (d) (cause) (l) (oo) : (uwlAdd F d cause l).qp oo = d.qp oo := Dev.qp_same oo (uwlAdd_lci F d cause l)
@[simp] theorem uwlAdd_cmd (F) (d) (cause) (l) (oo) : (uwlAdd F d cause l).cmd oo = d.cmd oo := Dev.cmd_same oo (uwlAdd_lci F d cause l)
@[simp] theorem uwlAdd_ent (F) (d) (cause) (l) (oo) : (uwlAdd F d cause l).ent oo = d.ent oo := Dev.ent_same oo (uwlAdd_tracts F d cause l)
@[simp] theorem uwlAdd_hdr (F) (d) (cause) (l) (oo) : (uwlAdd F d cause l).hdr oo = d.hdr oo := Dev.hdr_same oo (uwlAdd_tracts F d cause l)
@[simp] theorem uwlAdd_phys (F) (d) (cause) (l) (oo) (ii) : (uwlAdd F d cause l).phys oo ii = d.phys oo ii := Dev.phys_same oo ii (uwlAdd_tracts F d cause l)
@[simp] theorem uwlAdd_slot (F) (d) (cause) (l) (oo) : (uwlAdd F d cause l).slot oo = d.slot oo := Dev.slot_same oo (uwlAdd_sec F d cause l)
@[simp] theorem uwlAdd_schan (F) (d) (cause) (l) (oo) : (uwlAdd F d cause l).schan oo = d.schan oo := Dev.schan_same oo (uwlAdd_str F d cause l)
@[simp] theorem silentOut_a (F) (d) : (silentOut F d).a = d.a := (silentOut_touches F d).same .a (by decide)
@[simp] theorem silentOut_b (F) (d) : (silentOut F d).b = d.b := (silentOut_touches F d).same .b (by decide)
@[simp] theorem silentOut_tether (F) (d) : (silentOut F d).tether = d.tether := (silentOut_touches F d).same .tether (by decide)
@[simp] theorem silentOut_launch (F) (d) : (silentOut F d).launch = d.launch := (silentOut_touches F d).same .launch (by decide)
@[simp] theorem silentOut_gpio (F) (d) : (silentOut F d).gpio = d.gpio := (silentOut_touches F d).same .gpio (by decide)
@[simp] theorem silentOut_cores (F) (d) : (silentOut F d).cores = d.cores := (silentOut_touches F d).same .cores (by decide)
@[simp] theorem silentOut_sems (F) (d) : (silentOut F d).sems = d.sems := (silentOut_touches F d).same .sems (by decide)
@[simp] theorem silentOut_images (F) (d) : (silentOut F d).images = d.images := (silentOut_touches F d).same .images (by decide)
@[simp] theorem silentOut_pmc (F) (d) : (silentOut F d).pmc = d.pmc := (silentOut_touches F d).same .pmc (by decide)
@[simp] theorem silentOut_bst (F) (d) : (silentOut F d).bst = d.bst := (silentOut_touches F d).same .bst (by decide)
@[simp] theorem silentOut_dbg (F) (d) : (silentOut F d).dbg = d.dbg := (silentOut_touches F d).same .dbg (by decide)
@[simp] theorem silentOut_gon (F) (d) : (silentOut F d).gon = d.gon := (silentOut_touches F d).same .gon (by decide)
@[simp] theorem silentOut_cache (F) (d) : (silentOut F d).cache = d.cache := (silentOut_touches F d).same .cache (by decide)
@[simp] theorem silentOut_media (F) (d) : (silentOut F d).media = d.media := (silentOut_touches F d).same .media (by decide)
@[simp] theorem silentOut_tracts (F) (d) : (silentOut F d).tracts = d.tracts := (silentOut_touches F d).same .tracts (by decide)
@[simp] theorem silentOut_drift (F) (d) : (silentOut F d).drift = d.drift := (silentOut_touches F d).same .drift (by decide)
@[simp] theorem silentOut_sec (F) (d) : (silentOut F d).sec = d.sec := (silentOut_touches F d).same .sec (by decide)
@[simp] theorem silentOut_str (F) (d) : (silentOut F d).str = d.str := (silentOut_touches F d).same .str (by decide)
@[simp] theorem silentOut_pwr (F) (d) : (silentOut F d).pwr = d.pwr := (silentOut_touches F d).same .pwr (by decide)
@[simp] theorem silentOut_therm (F) (d) : (silentOut F d).therm = d.therm := (silentOut_touches F d).same .therm (by decide)
@[simp] theorem silentOut_out (F) (d) : (silentOut F d).out = d.out := (silentOut_touches F d).same .out (by decide)
@[simp] theorem silentOut_fresh (F) (d) : (silentOut F d).fresh = d.fresh := (silentOut_touches F d).same .fresh (by decide)
@[simp] theorem silentOut_head (F) (d) (hd) : (silentOut F d).head hd = d.head hd := Dev.head_same hd (silentOut_a F d) (silentOut_b F d)
@[simp] theorem silentOut_chan (F) (d) (oo) : (silentOut F d).chan oo = d.chan oo := Dev.chan_same oo (silentOut_media F d)
@[simp] theorem silentOut_die (F) (d) (oo) : (silentOut F d).die oo = d.die oo := Dev.die_same oo (silentOut_media F d)
@[simp] theorem silentOut_ctl (F) (d) (oo) : (silentOut F d).ctl oo = d.ctl oo := Dev.ctl_same oo (silentOut_media F d)
@[simp] theorem silentOut_grp (F) (d) (oo) : (silentOut F d).grp oo = d.grp oo := Dev.grp_same oo (silentOut_media F d)
@[simp] theorem silentOut_ent (F) (d) (oo) : (silentOut F d).ent oo = d.ent oo := Dev.ent_same oo (silentOut_tracts F d)
@[simp] theorem silentOut_hdr (F) (d) (oo) : (silentOut F d).hdr oo = d.hdr oo := Dev.hdr_same oo (silentOut_tracts F d)
@[simp] theorem silentOut_phys (F) (d) (oo) (ii) : (silentOut F d).phys oo ii = d.phys oo ii := Dev.phys_same oo ii (silentOut_tracts F d)
@[simp] theorem silentOut_slot (F) (d) (oo) : (silentOut F d).slot oo = d.slot oo := Dev.slot_same oo (silentOut_sec F d)
@[simp] theorem silentOut_schan (F) (d) (oo) : (silentOut F d).schan oo = d.schan oo := Dev.schan_same oo (silentOut_str F d)
@[simp] theorem Dev.linkDown_tether (d) (h) : (Dev.linkDown d h).tether = d.tether := (Dev.linkDown_touches d h).same .tether (by decide)
@[simp] theorem Dev.linkDown_launch (d) (h) : (Dev.linkDown d h).launch = d.launch := (Dev.linkDown_touches d h).same .launch (by decide)
@[simp] theorem Dev.linkDown_gpio (d) (h) : (Dev.linkDown d h).gpio = d.gpio := (Dev.linkDown_touches d h).same .gpio (by decide)
@[simp] theorem Dev.linkDown_keel (d) (h) : (Dev.linkDown d h).keel = d.keel := (Dev.linkDown_touches d h).same .keel (by decide)
@[simp] theorem Dev.linkDown_log (d) (h) : (Dev.linkDown d h).log = d.log := (Dev.linkDown_touches d h).same .log (by decide)
@[simp] theorem Dev.linkDown_aon (d) (h) : (Dev.linkDown d h).aon = d.aon := (Dev.linkDown_touches d h).same .aon (by decide)
@[simp] theorem Dev.linkDown_cores (d) (h) : (Dev.linkDown d h).cores = d.cores := (Dev.linkDown_touches d h).same .cores (by decide)
@[simp] theorem Dev.linkDown_sems (d) (h) : (Dev.linkDown d h).sems = d.sems := (Dev.linkDown_touches d h).same .sems (by decide)
@[simp] theorem Dev.linkDown_images (d) (h) : (Dev.linkDown d h).images = d.images := (Dev.linkDown_touches d h).same .images (by decide)
@[simp] theorem Dev.linkDown_pmc (d) (h) : (Dev.linkDown d h).pmc = d.pmc := (Dev.linkDown_touches d h).same .pmc (by decide)
@[simp] theorem Dev.linkDown_bst (d) (h) : (Dev.linkDown d h).bst = d.bst := (Dev.linkDown_touches d h).same .bst (by decide)
@[simp] theorem Dev.linkDown_dbg (d) (h) : (Dev.linkDown d h).dbg = d.dbg := (Dev.linkDown_touches d h).same .dbg (by decide)
@[simp] theorem Dev.linkDown_media (d) (h) : (Dev.linkDown d h).media = d.media := (Dev.linkDown_touches d h).same .media (by decide)
@[simp] theorem Dev.linkDown_tracts (d) (h) : (Dev.linkDown d h).tracts = d.tracts := (Dev.linkDown_touches d h).same .tracts (by decide)
@[simp] theorem Dev.linkDown_drift (d) (h) : (Dev.linkDown d h).drift = d.drift := (Dev.linkDown_touches d h).same .drift (by decide)
@[simp] theorem Dev.linkDown_sec (d) (h) : (Dev.linkDown d h).sec = d.sec := (Dev.linkDown_touches d h).same .sec (by decide)
@[simp] theorem Dev.linkDown_str (d) (h) : (Dev.linkDown d h).str = d.str := (Dev.linkDown_touches d h).same .str (by decide)
@[simp] theorem Dev.linkDown_lci (d) (h) : (Dev.linkDown d h).lci = d.lci := (Dev.linkDown_touches d h).same .lci (by decide)
@[simp] theorem Dev.linkDown_pwr (d) (h) : (Dev.linkDown d h).pwr = d.pwr := (Dev.linkDown_touches d h).same .pwr (by decide)
@[simp] theorem Dev.linkDown_therm (d) (h) : (Dev.linkDown d h).therm = d.therm := (Dev.linkDown_touches d h).same .therm (by decide)
@[simp] theorem Dev.linkDown_out (d) (h) : (Dev.linkDown d h).out = d.out := (Dev.linkDown_touches d h).same .out (by decide)
@[simp] theorem Dev.linkDown_fresh (d) (h) : (Dev.linkDown d h).fresh = d.fresh := (Dev.linkDown_touches d h).same .fresh (by decide)
@[simp] theorem Dev.linkDown_chan (d) (h) (oo) : (Dev.linkDown d h).chan oo = d.chan oo := Dev.chan_same oo (Dev.linkDown_media d h)
@[simp] theorem Dev.linkDown_die (d) (h) (oo) : (Dev.linkDown d h).die oo = d.die oo := Dev.die_same oo (Dev.linkDown_media d h)
@[simp] theorem Dev.linkDown_ctl (d) (h) (oo) : (Dev.linkDown d h).ctl oo = d.ctl oo := Dev.ctl_same oo (Dev.linkDown_media d h)
@[simp] theorem Dev.linkDown_grp (d) (h) (oo) : (Dev.linkDown d h).grp oo = d.grp oo := Dev.grp_same oo (Dev.linkDown_media d h)
@[simp] theorem Dev.linkDown_qp (d) (h) (oo) : (Dev.linkDown d h).qp oo = d.qp oo := Dev.qp_same oo (Dev.linkDown_lci d h)
@[simp] theorem Dev.linkDown_cmd (d) (h) (oo) : (Dev.linkDown d h).cmd oo = d.cmd oo := Dev.cmd_same oo (Dev.linkDown_lci d h)
@[simp] theorem Dev.linkDown_ent (d) (h) (oo) : (Dev.linkDown d h).ent oo = d.ent oo := Dev.ent_same oo (Dev.linkDown_tracts d h)
@[simp] theorem Dev.linkDown_hdr (d) (h) (oo) : (Dev.linkDown d h).hdr oo = d.hdr oo := Dev.hdr_same oo (Dev.linkDown_tracts d h)
@[simp] theorem Dev.linkDown_phys (d) (h) (oo) (ii) : (Dev.linkDown d h).phys oo ii = d.phys oo ii := Dev.phys_same oo ii (Dev.linkDown_tracts d h)
@[simp] theorem Dev.linkDown_slot (d) (h) (oo) : (Dev.linkDown d h).slot oo = d.slot oo := Dev.slot_same oo (Dev.linkDown_sec d h)
@[simp] theorem Dev.linkDown_schan (d) (h) (oo) : (Dev.linkDown d h).schan oo = d.schan oo := Dev.schan_same oo (Dev.linkDown_str d h)
@[simp] theorem clearPairs_a (F) (d) (pairs) (cause) : (clearPairs F d pairs cause).a = d.a := (clearPairs_touches F d pairs cause).same .a (by decide)
@[simp] theorem clearPairs_b (F) (d) (pairs) (cause) : (clearPairs F d pairs cause).b = d.b := (clearPairs_touches F d pairs cause).same .b (by decide)
@[simp] theorem clearPairs_tether (F) (d) (pairs) (cause) : (clearPairs F d pairs cause).tether = d.tether := (clearPairs_touches F d pairs cause).same .tether (by decide)
@[simp] theorem clearPairs_launch (F) (d) (pairs) (cause) : (clearPairs F d pairs cause).launch = d.launch := (clearPairs_touches F d pairs cause).same .launch (by decide)
@[simp] theorem clearPairs_gpio (F) (d) (pairs) (cause) : (clearPairs F d pairs cause).gpio = d.gpio := (clearPairs_touches F d pairs cause).same .gpio (by decide)
@[simp] theorem clearPairs_cores (F) (d) (pairs) (cause) : (clearPairs F d pairs cause).cores = d.cores := (clearPairs_touches F d pairs cause).same .cores (by decide)
@[simp] theorem clearPairs_sems (F) (d) (pairs) (cause) : (clearPairs F d pairs cause).sems = d.sems := (clearPairs_touches F d pairs cause).same .sems (by decide)
@[simp] theorem clearPairs_images (F) (d) (pairs) (cause) : (clearPairs F d pairs cause).images = d.images := (clearPairs_touches F d pairs cause).same .images (by decide)
@[simp] theorem clearPairs_bst (F) (d) (pairs) (cause) : (clearPairs F d pairs cause).bst = d.bst := (clearPairs_touches F d pairs cause).same .bst (by decide)
@[simp] theorem clearPairs_dbg (F) (d) (pairs) (cause) : (clearPairs F d pairs cause).dbg = d.dbg := (clearPairs_touches F d pairs cause).same .dbg (by decide)
@[simp] theorem clearPairs_gon (F) (d) (pairs) (cause) : (clearPairs F d pairs cause).gon = d.gon := (clearPairs_touches F d pairs cause).same .gon (by decide)
@[simp] theorem clearPairs_cache (F) (d) (pairs) (cause) : (clearPairs F d pairs cause).cache = d.cache := (clearPairs_touches F d pairs cause).same .cache (by decide)
@[simp] theorem clearPairs_media (F) (d) (pairs) (cause) : (clearPairs F d pairs cause).media = d.media := (clearPairs_touches F d pairs cause).same .media (by decide)
@[simp] theorem clearPairs_tracts (F) (d) (pairs) (cause) : (clearPairs F d pairs cause).tracts = d.tracts := (clearPairs_touches F d pairs cause).same .tracts (by decide)
@[simp] theorem clearPairs_drift (F) (d) (pairs) (cause) : (clearPairs F d pairs cause).drift = d.drift := (clearPairs_touches F d pairs cause).same .drift (by decide)
@[simp] theorem clearPairs_sec (F) (d) (pairs) (cause) : (clearPairs F d pairs cause).sec = d.sec := (clearPairs_touches F d pairs cause).same .sec (by decide)
@[simp] theorem clearPairs_pwr (F) (d) (pairs) (cause) : (clearPairs F d pairs cause).pwr = d.pwr := (clearPairs_touches F d pairs cause).same .pwr (by decide)
@[simp] theorem clearPairs_therm (F) (d) (pairs) (cause) : (clearPairs F d pairs cause).therm = d.therm := (clearPairs_touches F d pairs cause).same .therm (by decide)
@[simp] theorem clearPairs_out (F) (d) (pairs) (cause) : (clearPairs F d pairs cause).out = d.out := (clearPairs_touches F d pairs cause).same .out (by decide)
@[simp] theorem clearPairs_head (F) (d) (pairs) (cause) (hd) : (clearPairs F d pairs cause).head hd = d.head hd := Dev.head_same hd (clearPairs_a F d pairs cause) (clearPairs_b F d pairs cause)
@[simp] theorem clearPairs_chan (F) (d) (pairs) (cause) (oo) : (clearPairs F d pairs cause).chan oo = d.chan oo := Dev.chan_same oo (clearPairs_media F d pairs cause)
@[simp] theorem clearPairs_die (F) (d) (pairs) (cause) (oo) : (clearPairs F d pairs cause).die oo = d.die oo := Dev.die_same oo (clearPairs_media F d pairs cause)
@[simp] theorem clearPairs_ctl (F) (d) (pairs) (cause) (oo) : (clearPairs F d pairs cause).ctl oo = d.ctl oo := Dev.ctl_same oo (clearPairs_media F d pairs cause)
@[simp] theorem clearPairs_grp (F) (d) (pairs) (cause) (oo) : (clearPairs F d pairs cause).grp oo = d.grp oo := Dev.grp_same oo (clearPairs_media F d pairs cause)
@[simp] theorem clearPairs_ent (F) (d) (pairs) (cause) (oo) : (clearPairs F d pairs cause).ent oo = d.ent oo := Dev.ent_same oo (clearPairs_tracts F d pairs cause)
@[simp] theorem clearPairs_hdr (F) (d) (pairs) (cause) (oo) : (clearPairs F d pairs cause).hdr oo = d.hdr oo := Dev.hdr_same oo (clearPairs_tracts F d pairs cause)
@[simp] theorem clearPairs_phys (F) (d) (pairs) (cause) (oo) (ii) : (clearPairs F d pairs cause).phys oo ii = d.phys oo ii := Dev.phys_same oo ii (clearPairs_tracts F d pairs cause)
@[simp] theorem clearPairs_slot (F) (d) (pairs) (cause) (oo) : (clearPairs F d pairs cause).slot oo = d.slot oo := Dev.slot_same oo (clearPairs_sec F d pairs cause)
@[simp] theorem Dev.downEntry_a (d) (why) (out) : (Dev.downEntry d why out).a = d.a := (Dev.downEntry_touches d why out).same .a (by decide)
@[simp] theorem Dev.downEntry_b (d) (why) (out) : (Dev.downEntry d why out).b = d.b := (Dev.downEntry_touches d why out).same .b (by decide)
@[simp] theorem Dev.downEntry_tether (d) (why) (out) : (Dev.downEntry d why out).tether = d.tether := (Dev.downEntry_touches d why out).same .tether (by decide)
@[simp] theorem Dev.downEntry_launch (d) (why) (out) : (Dev.downEntry d why out).launch = d.launch := (Dev.downEntry_touches d why out).same .launch (by decide)
@[simp] theorem Dev.downEntry_gpio (d) (why) (out) : (Dev.downEntry d why out).gpio = d.gpio := (Dev.downEntry_touches d why out).same .gpio (by decide)
@[simp] theorem Dev.downEntry_keel (d) (why) (out) : (Dev.downEntry d why out).keel = d.keel := (Dev.downEntry_touches d why out).same .keel (by decide)
@[simp] theorem Dev.downEntry_log (d) (why) (out) : (Dev.downEntry d why out).log = d.log := (Dev.downEntry_touches d why out).same .log (by decide)
@[simp] theorem Dev.downEntry_aon (d) (why) (out) : (Dev.downEntry d why out).aon = d.aon := (Dev.downEntry_touches d why out).same .aon (by decide)
@[simp] theorem Dev.downEntry_cores (d) (why) (out) : (Dev.downEntry d why out).cores = d.cores := (Dev.downEntry_touches d why out).same .cores (by decide)
@[simp] theorem Dev.downEntry_sems (d) (why) (out) : (Dev.downEntry d why out).sems = d.sems := (Dev.downEntry_touches d why out).same .sems (by decide)
@[simp] theorem Dev.downEntry_images (d) (why) (out) : (Dev.downEntry d why out).images = d.images := (Dev.downEntry_touches d why out).same .images (by decide)
@[simp] theorem Dev.downEntry_pmc (d) (why) (out) : (Dev.downEntry d why out).pmc = d.pmc := (Dev.downEntry_touches d why out).same .pmc (by decide)
@[simp] theorem Dev.downEntry_bst (d) (why) (out) : (Dev.downEntry d why out).bst = d.bst := (Dev.downEntry_touches d why out).same .bst (by decide)
@[simp] theorem Dev.downEntry_dbg (d) (why) (out) : (Dev.downEntry d why out).dbg = d.dbg := (Dev.downEntry_touches d why out).same .dbg (by decide)
@[simp] theorem Dev.downEntry_gon (d) (why) (out) : (Dev.downEntry d why out).gon = d.gon := (Dev.downEntry_touches d why out).same .gon (by decide)
@[simp] theorem Dev.downEntry_cache (d) (why) (out) : (Dev.downEntry d why out).cache = d.cache := (Dev.downEntry_touches d why out).same .cache (by decide)
@[simp] theorem Dev.downEntry_media (d) (why) (out) : (Dev.downEntry d why out).media = d.media := (Dev.downEntry_touches d why out).same .media (by decide)
@[simp] theorem Dev.downEntry_tracts (d) (why) (out) : (Dev.downEntry d why out).tracts = d.tracts := (Dev.downEntry_touches d why out).same .tracts (by decide)
@[simp] theorem Dev.downEntry_drift (d) (why) (out) : (Dev.downEntry d why out).drift = d.drift := (Dev.downEntry_touches d why out).same .drift (by decide)
@[simp] theorem Dev.downEntry_sec (d) (why) (out) : (Dev.downEntry d why out).sec = d.sec := (Dev.downEntry_touches d why out).same .sec (by decide)
@[simp] theorem Dev.downEntry_str (d) (why) (out) : (Dev.downEntry d why out).str = d.str := (Dev.downEntry_touches d why out).same .str (by decide)
@[simp] theorem Dev.downEntry_lci (d) (why) (out) : (Dev.downEntry d why out).lci = d.lci := (Dev.downEntry_touches d why out).same .lci (by decide)
@[simp] theorem Dev.downEntry_therm (d) (why) (out) : (Dev.downEntry d why out).therm = d.therm := (Dev.downEntry_touches d why out).same .therm (by decide)
@[simp] theorem Dev.downEntry_head (d) (why) (out) (hd) : (Dev.downEntry d why out).head hd = d.head hd := Dev.head_same hd (Dev.downEntry_a d why out) (Dev.downEntry_b d why out)
@[simp] theorem Dev.downEntry_chan (d) (why) (out) (oo) : (Dev.downEntry d why out).chan oo = d.chan oo := Dev.chan_same oo (Dev.downEntry_media d why out)
@[simp] theorem Dev.downEntry_die (d) (why) (out) (oo) : (Dev.downEntry d why out).die oo = d.die oo := Dev.die_same oo (Dev.downEntry_media d why out)
@[simp] theorem Dev.downEntry_ctl (d) (why) (out) (oo) : (Dev.downEntry d why out).ctl oo = d.ctl oo := Dev.ctl_same oo (Dev.downEntry_media d why out)
@[simp] theorem Dev.downEntry_grp (d) (why) (out) (oo) : (Dev.downEntry d why out).grp oo = d.grp oo := Dev.grp_same oo (Dev.downEntry_media d why out)
@[simp] theorem Dev.downEntry_qp (d) (why) (out) (oo) : (Dev.downEntry d why out).qp oo = d.qp oo := Dev.qp_same oo (Dev.downEntry_lci d why out)
@[simp] theorem Dev.downEntry_cmd (d) (why) (out) (oo) : (Dev.downEntry d why out).cmd oo = d.cmd oo := Dev.cmd_same oo (Dev.downEntry_lci d why out)
@[simp] theorem Dev.downEntry_ent (d) (why) (out) (oo) : (Dev.downEntry d why out).ent oo = d.ent oo := Dev.ent_same oo (Dev.downEntry_tracts d why out)
@[simp] theorem Dev.downEntry_hdr (d) (why) (out) (oo) : (Dev.downEntry d why out).hdr oo = d.hdr oo := Dev.hdr_same oo (Dev.downEntry_tracts d why out)
@[simp] theorem Dev.downEntry_phys (d) (why) (out) (oo) (ii) : (Dev.downEntry d why out).phys oo ii = d.phys oo ii := Dev.phys_same oo ii (Dev.downEntry_tracts d why out)
@[simp] theorem Dev.downEntry_slot (d) (why) (out) (oo) : (Dev.downEntry d why out).slot oo = d.slot oo := Dev.slot_same oo (Dev.downEntry_sec d why out)
@[simp] theorem Dev.downEntry_schan (d) (why) (out) (oo) : (Dev.downEntry d why out).schan oo = d.schan oo := Dev.schan_same oo (Dev.downEntry_str d why out)
@[simp] theorem Dev.keelWritten_regs (d) (w) : (Dev.keelWritten d w).regs = d.regs := (Dev.keelWritten_touches d w).same .regs (by decide)
@[simp] theorem Dev.keelWritten_a (d) (w) : (Dev.keelWritten d w).a = d.a := (Dev.keelWritten_touches d w).same .a (by decide)
@[simp] theorem Dev.keelWritten_b (d) (w) : (Dev.keelWritten d w).b = d.b := (Dev.keelWritten_touches d w).same .b (by decide)
@[simp] theorem Dev.keelWritten_tether (d) (w) : (Dev.keelWritten d w).tether = d.tether := (Dev.keelWritten_touches d w).same .tether (by decide)
@[simp] theorem Dev.keelWritten_launch (d) (w) : (Dev.keelWritten d w).launch = d.launch := (Dev.keelWritten_touches d w).same .launch (by decide)
@[simp] theorem Dev.keelWritten_gpio (d) (w) : (Dev.keelWritten d w).gpio = d.gpio := (Dev.keelWritten_touches d w).same .gpio (by decide)
@[simp] theorem Dev.keelWritten_log (d) (w) : (Dev.keelWritten d w).log = d.log := (Dev.keelWritten_touches d w).same .log (by decide)
@[simp] theorem Dev.keelWritten_aon (d) (w) : (Dev.keelWritten d w).aon = d.aon := (Dev.keelWritten_touches d w).same .aon (by decide)
@[simp] theorem Dev.keelWritten_cores (d) (w) : (Dev.keelWritten d w).cores = d.cores := (Dev.keelWritten_touches d w).same .cores (by decide)
@[simp] theorem Dev.keelWritten_sems (d) (w) : (Dev.keelWritten d w).sems = d.sems := (Dev.keelWritten_touches d w).same .sems (by decide)
@[simp] theorem Dev.keelWritten_images (d) (w) : (Dev.keelWritten d w).images = d.images := (Dev.keelWritten_touches d w).same .images (by decide)
@[simp] theorem Dev.keelWritten_pmc (d) (w) : (Dev.keelWritten d w).pmc = d.pmc := (Dev.keelWritten_touches d w).same .pmc (by decide)
@[simp] theorem Dev.keelWritten_bst (d) (w) : (Dev.keelWritten d w).bst = d.bst := (Dev.keelWritten_touches d w).same .bst (by decide)
@[simp] theorem Dev.keelWritten_dbg (d) (w) : (Dev.keelWritten d w).dbg = d.dbg := (Dev.keelWritten_touches d w).same .dbg (by decide)
@[simp] theorem Dev.keelWritten_gon (d) (w) : (Dev.keelWritten d w).gon = d.gon := (Dev.keelWritten_touches d w).same .gon (by decide)
@[simp] theorem Dev.keelWritten_cache (d) (w) : (Dev.keelWritten d w).cache = d.cache := (Dev.keelWritten_touches d w).same .cache (by decide)
@[simp] theorem Dev.keelWritten_media (d) (w) : (Dev.keelWritten d w).media = d.media := (Dev.keelWritten_touches d w).same .media (by decide)
@[simp] theorem Dev.keelWritten_tracts (d) (w) : (Dev.keelWritten d w).tracts = d.tracts := (Dev.keelWritten_touches d w).same .tracts (by decide)
@[simp] theorem Dev.keelWritten_drift (d) (w) : (Dev.keelWritten d w).drift = d.drift := (Dev.keelWritten_touches d w).same .drift (by decide)
@[simp] theorem Dev.keelWritten_sec (d) (w) : (Dev.keelWritten d w).sec = d.sec := (Dev.keelWritten_touches d w).same .sec (by decide)
@[simp] theorem Dev.keelWritten_str (d) (w) : (Dev.keelWritten d w).str = d.str := (Dev.keelWritten_touches d w).same .str (by decide)
@[simp] theorem Dev.keelWritten_lci (d) (w) : (Dev.keelWritten d w).lci = d.lci := (Dev.keelWritten_touches d w).same .lci (by decide)
@[simp] theorem Dev.keelWritten_pwr (d) (w) : (Dev.keelWritten d w).pwr = d.pwr := (Dev.keelWritten_touches d w).same .pwr (by decide)
@[simp] theorem Dev.keelWritten_therm (d) (w) : (Dev.keelWritten d w).therm = d.therm := (Dev.keelWritten_touches d w).same .therm (by decide)
@[simp] theorem Dev.keelWritten_out (d) (w) : (Dev.keelWritten d w).out = d.out := (Dev.keelWritten_touches d w).same .out (by decide)
@[simp] theorem Dev.keelWritten_fresh (d) (w) : (Dev.keelWritten d w).fresh = d.fresh := (Dev.keelWritten_touches d w).same .fresh (by decide)
@[simp] theorem Dev.keelWritten_head (d) (w) (hd) : (Dev.keelWritten d w).head hd = d.head hd := Dev.head_same hd (Dev.keelWritten_a d w) (Dev.keelWritten_b d w)
@[simp] theorem Dev.keelWritten_reg (d) (w) (oo) : (Dev.keelWritten d w).reg oo = d.reg oo := Dev.reg_same oo (Dev.keelWritten_regs d w)
@[simp] theorem Dev.keelWritten_chan (d) (w) (oo) : (Dev.keelWritten d w).chan oo = d.chan oo := Dev.chan_same oo (Dev.keelWritten_media d w)
@[simp] theorem Dev.keelWritten_die (d) (w) (oo) : (Dev.keelWritten d w).die oo = d.die oo := Dev.die_same oo (Dev.keelWritten_media d w)
@[simp] theorem Dev.keelWritten_ctl (d) (w) (oo) : (Dev.keelWritten d w).ctl oo = d.ctl oo := Dev.ctl_same oo (Dev.keelWritten_media d w)
@[simp] theorem Dev.keelWritten_grp (d) (w) (oo) : (Dev.keelWritten d w).grp oo = d.grp oo := Dev.grp_same oo (Dev.keelWritten_media d w)
@[simp] theorem Dev.keelWritten_qp (d) (w) (oo) : (Dev.keelWritten d w).qp oo = d.qp oo := Dev.qp_same oo (Dev.keelWritten_lci d w)
@[simp] theorem Dev.keelWritten_cmd (d) (w) (oo) : (Dev.keelWritten d w).cmd oo = d.cmd oo := Dev.cmd_same oo (Dev.keelWritten_lci d w)
@[simp] theorem Dev.keelWritten_ent (d) (w) (oo) : (Dev.keelWritten d w).ent oo = d.ent oo := Dev.ent_same oo (Dev.keelWritten_tracts d w)
@[simp] theorem Dev.keelWritten_hdr (d) (w) (oo) : (Dev.keelWritten d w).hdr oo = d.hdr oo := Dev.hdr_same oo (Dev.keelWritten_tracts d w)
@[simp] theorem Dev.keelWritten_phys (d) (w) (oo) (ii) : (Dev.keelWritten d w).phys oo ii = d.phys oo ii := Dev.phys_same oo ii (Dev.keelWritten_tracts d w)
@[simp] theorem Dev.keelWritten_slot (d) (w) (oo) : (Dev.keelWritten d w).slot oo = d.slot oo := Dev.slot_same oo (Dev.keelWritten_sec d w)
@[simp] theorem Dev.keelWritten_schan (d) (w) (oo) : (Dev.keelWritten d w).schan oo = d.schan oo := Dev.schan_same oo (Dev.keelWritten_str d w)
@[simp] theorem Dev.slotCancel_a (d) (n) : (Dev.slotCancel d n).a = d.a := (Dev.slotCancel_touches d n).same .a (by decide)
@[simp] theorem Dev.slotCancel_b (d) (n) : (Dev.slotCancel d n).b = d.b := (Dev.slotCancel_touches d n).same .b (by decide)
@[simp] theorem Dev.slotCancel_tether (d) (n) : (Dev.slotCancel d n).tether = d.tether := (Dev.slotCancel_touches d n).same .tether (by decide)
@[simp] theorem Dev.slotCancel_launch (d) (n) : (Dev.slotCancel d n).launch = d.launch := (Dev.slotCancel_touches d n).same .launch (by decide)
@[simp] theorem Dev.slotCancel_gpio (d) (n) : (Dev.slotCancel d n).gpio = d.gpio := (Dev.slotCancel_touches d n).same .gpio (by decide)
@[simp] theorem Dev.slotCancel_keel (d) (n) : (Dev.slotCancel d n).keel = d.keel := (Dev.slotCancel_touches d n).same .keel (by decide)
@[simp] theorem Dev.slotCancel_log (d) (n) : (Dev.slotCancel d n).log = d.log := (Dev.slotCancel_touches d n).same .log (by decide)
@[simp] theorem Dev.slotCancel_aon (d) (n) : (Dev.slotCancel d n).aon = d.aon := (Dev.slotCancel_touches d n).same .aon (by decide)
@[simp] theorem Dev.slotCancel_cores (d) (n) : (Dev.slotCancel d n).cores = d.cores := (Dev.slotCancel_touches d n).same .cores (by decide)
@[simp] theorem Dev.slotCancel_sems (d) (n) : (Dev.slotCancel d n).sems = d.sems := (Dev.slotCancel_touches d n).same .sems (by decide)
@[simp] theorem Dev.slotCancel_images (d) (n) : (Dev.slotCancel d n).images = d.images := (Dev.slotCancel_touches d n).same .images (by decide)
@[simp] theorem Dev.slotCancel_pmc (d) (n) : (Dev.slotCancel d n).pmc = d.pmc := (Dev.slotCancel_touches d n).same .pmc (by decide)
@[simp] theorem Dev.slotCancel_bst (d) (n) : (Dev.slotCancel d n).bst = d.bst := (Dev.slotCancel_touches d n).same .bst (by decide)
@[simp] theorem Dev.slotCancel_dbg (d) (n) : (Dev.slotCancel d n).dbg = d.dbg := (Dev.slotCancel_touches d n).same .dbg (by decide)
@[simp] theorem Dev.slotCancel_gon (d) (n) : (Dev.slotCancel d n).gon = d.gon := (Dev.slotCancel_touches d n).same .gon (by decide)
@[simp] theorem Dev.slotCancel_cache (d) (n) : (Dev.slotCancel d n).cache = d.cache := (Dev.slotCancel_touches d n).same .cache (by decide)
@[simp] theorem Dev.slotCancel_media (d) (n) : (Dev.slotCancel d n).media = d.media := (Dev.slotCancel_touches d n).same .media (by decide)
@[simp] theorem Dev.slotCancel_tracts (d) (n) : (Dev.slotCancel d n).tracts = d.tracts := (Dev.slotCancel_touches d n).same .tracts (by decide)
@[simp] theorem Dev.slotCancel_drift (d) (n) : (Dev.slotCancel d n).drift = d.drift := (Dev.slotCancel_touches d n).same .drift (by decide)
@[simp] theorem Dev.slotCancel_sec (d) (n) : (Dev.slotCancel d n).sec = d.sec := (Dev.slotCancel_touches d n).same .sec (by decide)
@[simp] theorem Dev.slotCancel_str (d) (n) : (Dev.slotCancel d n).str = d.str := (Dev.slotCancel_touches d n).same .str (by decide)
@[simp] theorem Dev.slotCancel_lci (d) (n) : (Dev.slotCancel d n).lci = d.lci := (Dev.slotCancel_touches d n).same .lci (by decide)
@[simp] theorem Dev.slotCancel_pwr (d) (n) : (Dev.slotCancel d n).pwr = d.pwr := (Dev.slotCancel_touches d n).same .pwr (by decide)
@[simp] theorem Dev.slotCancel_therm (d) (n) : (Dev.slotCancel d n).therm = d.therm := (Dev.slotCancel_touches d n).same .therm (by decide)
@[simp] theorem Dev.slotCancel_out (d) (n) : (Dev.slotCancel d n).out = d.out := (Dev.slotCancel_touches d n).same .out (by decide)
@[simp] theorem Dev.slotCancel_fresh (d) (n) : (Dev.slotCancel d n).fresh = d.fresh := (Dev.slotCancel_touches d n).same .fresh (by decide)
@[simp] theorem Dev.slotCancel_head (d) (n) (hd) : (Dev.slotCancel d n).head hd = d.head hd := Dev.head_same hd (Dev.slotCancel_a d n) (Dev.slotCancel_b d n)
@[simp] theorem Dev.slotCancel_chan (d) (n) (oo) : (Dev.slotCancel d n).chan oo = d.chan oo := Dev.chan_same oo (Dev.slotCancel_media d n)
@[simp] theorem Dev.slotCancel_die (d) (n) (oo) : (Dev.slotCancel d n).die oo = d.die oo := Dev.die_same oo (Dev.slotCancel_media d n)
@[simp] theorem Dev.slotCancel_ctl (d) (n) (oo) : (Dev.slotCancel d n).ctl oo = d.ctl oo := Dev.ctl_same oo (Dev.slotCancel_media d n)
@[simp] theorem Dev.slotCancel_grp (d) (n) (oo) : (Dev.slotCancel d n).grp oo = d.grp oo := Dev.grp_same oo (Dev.slotCancel_media d n)
@[simp] theorem Dev.slotCancel_qp (d) (n) (oo) : (Dev.slotCancel d n).qp oo = d.qp oo := Dev.qp_same oo (Dev.slotCancel_lci d n)
@[simp] theorem Dev.slotCancel_cmd (d) (n) (oo) : (Dev.slotCancel d n).cmd oo = d.cmd oo := Dev.cmd_same oo (Dev.slotCancel_lci d n)
@[simp] theorem Dev.slotCancel_ent (d) (n) (oo) : (Dev.slotCancel d n).ent oo = d.ent oo := Dev.ent_same oo (Dev.slotCancel_tracts d n)
@[simp] theorem Dev.slotCancel_hdr (d) (n) (oo) : (Dev.slotCancel d n).hdr oo = d.hdr oo := Dev.hdr_same oo (Dev.slotCancel_tracts d n)
@[simp] theorem Dev.slotCancel_phys (d) (n) (oo) (ii) : (Dev.slotCancel d n).phys oo ii = d.phys oo ii := Dev.phys_same oo ii (Dev.slotCancel_tracts d n)
@[simp] theorem Dev.slotCancel_slot (d) (n) (oo) : (Dev.slotCancel d n).slot oo = d.slot oo := Dev.slot_same oo (Dev.slotCancel_sec d n)
@[simp] theorem Dev.slotCancel_schan (d) (n) (oo) : (Dev.slotCancel d n).schan oo = d.schan oo := Dev.schan_same oo (Dev.slotCancel_str d n)
@[simp] theorem respond_tether (F) (d) (h) (tag) (line) (t) (v) : (respond F d h tag line t v).tether = d.tether := (respond_touches F d h tag line t v).same .tether (by decide)
@[simp] theorem respond_launch (F) (d) (h) (tag) (line) (t) (v) : (respond F d h tag line t v).launch = d.launch := (respond_touches F d h tag line t v).same .launch (by decide)
@[simp] theorem respond_gpio (F) (d) (h) (tag) (line) (t) (v) : (respond F d h tag line t v).gpio = d.gpio := (respond_touches F d h tag line t v).same .gpio (by decide)
@[simp] theorem respond_keel (F) (d) (h) (tag) (line) (t) (v) : (respond F d h tag line t v).keel = d.keel := (respond_touches F d h tag line t v).same .keel (by decide)
@[simp] theorem respond_log (F) (d) (h) (tag) (line) (t) (v) : (respond F d h tag line t v).log = d.log := (respond_touches F d h tag line t v).same .log (by decide)
@[simp] theorem respond_aon (F) (d) (h) (tag) (line) (t) (v) : (respond F d h tag line t v).aon = d.aon := (respond_touches F d h tag line t v).same .aon (by decide)
@[simp] theorem respond_cores (F) (d) (h) (tag) (line) (t) (v) : (respond F d h tag line t v).cores = d.cores := (respond_touches F d h tag line t v).same .cores (by decide)
@[simp] theorem respond_sems (F) (d) (h) (tag) (line) (t) (v) : (respond F d h tag line t v).sems = d.sems := (respond_touches F d h tag line t v).same .sems (by decide)
@[simp] theorem respond_images (F) (d) (h) (tag) (line) (t) (v) : (respond F d h tag line t v).images = d.images := (respond_touches F d h tag line t v).same .images (by decide)
@[simp] theorem respond_bst (F) (d) (h) (tag) (line) (t) (v) : (respond F d h tag line t v).bst = d.bst := (respond_touches F d h tag line t v).same .bst (by decide)
@[simp] theorem respond_dbg (F) (d) (h) (tag) (line) (t) (v) : (respond F d h tag line t v).dbg = d.dbg := (respond_touches F d h tag line t v).same .dbg (by decide)
@[simp] theorem respond_gon (F) (d) (h) (tag) (line) (t) (v) : (respond F d h tag line t v).gon = d.gon := (respond_touches F d h tag line t v).same .gon (by decide)
@[simp] theorem respond_cache (F) (d) (h) (tag) (line) (t) (v) : (respond F d h tag line t v).cache = d.cache := (respond_touches F d h tag line t v).same .cache (by decide)
@[simp] theorem respond_media (F) (d) (h) (tag) (line) (t) (v) : (respond F d h tag line t v).media = d.media := (respond_touches F d h tag line t v).same .media (by decide)
@[simp] theorem respond_tracts (F) (d) (h) (tag) (line) (t) (v) : (respond F d h tag line t v).tracts = d.tracts := (respond_touches F d h tag line t v).same .tracts (by decide)
@[simp] theorem respond_drift (F) (d) (h) (tag) (line) (t) (v) : (respond F d h tag line t v).drift = d.drift := (respond_touches F d h tag line t v).same .drift (by decide)
@[simp] theorem respond_sec (F) (d) (h) (tag) (line) (t) (v) : (respond F d h tag line t v).sec = d.sec := (respond_touches F d h tag line t v).same .sec (by decide)
@[simp] theorem respond_str (F) (d) (h) (tag) (line) (t) (v) : (respond F d h tag line t v).str = d.str := (respond_touches F d h tag line t v).same .str (by decide)
@[simp] theorem respond_lci (F) (d) (h) (tag) (line) (t) (v) : (respond F d h tag line t v).lci = d.lci := (respond_touches F d h tag line t v).same .lci (by decide)
@[simp] theorem respond_pwr (F) (d) (h) (tag) (line) (t) (v) : (respond F d h tag line t v).pwr = d.pwr := (respond_touches F d h tag line t v).same .pwr (by decide)
@[simp] theorem respond_therm (F) (d) (h) (tag) (line) (t) (v) : (respond F d h tag line t v).therm = d.therm := (respond_touches F d h tag line t v).same .therm (by decide)
@[simp] theorem respond_chan (F) (d) (h) (tag) (line) (t) (v) (oo) : (respond F d h tag line t v).chan oo = d.chan oo := Dev.chan_same oo (respond_media F d h tag line t v)
@[simp] theorem respond_die (F) (d) (h) (tag) (line) (t) (v) (oo) : (respond F d h tag line t v).die oo = d.die oo := Dev.die_same oo (respond_media F d h tag line t v)
@[simp] theorem respond_ctl (F) (d) (h) (tag) (line) (t) (v) (oo) : (respond F d h tag line t v).ctl oo = d.ctl oo := Dev.ctl_same oo (respond_media F d h tag line t v)
@[simp] theorem respond_grp (F) (d) (h) (tag) (line) (t) (v) (oo) : (respond F d h tag line t v).grp oo = d.grp oo := Dev.grp_same oo (respond_media F d h tag line t v)
@[simp] theorem respond_qp (F) (d) (h) (tag) (line) (t) (v) (oo) : (respond F d h tag line t v).qp oo = d.qp oo := Dev.qp_same oo (respond_lci F d h tag line t v)
@[simp] theorem respond_cmd (F) (d) (h) (tag) (line) (t) (v) (oo) : (respond F d h tag line t v).cmd oo = d.cmd oo := Dev.cmd_same oo (respond_lci F d h tag line t v)
@[simp] theorem respond_ent (F) (d) (h) (tag) (line) (t) (v) (oo) : (respond F d h tag line t v).ent oo = d.ent oo := Dev.ent_same oo (respond_tracts F d h tag line t v)
@[simp] theorem respond_hdr (F) (d) (h) (tag) (line) (t) (v) (oo) : (respond F d h tag line t v).hdr oo = d.hdr oo := Dev.hdr_same oo (respond_tracts F d h tag line t v)
@[simp] theorem respond_phys (F) (d) (h) (tag) (line) (t) (v) (oo) (ii) : (respond F d h tag line t v).phys oo ii = d.phys oo ii := Dev.phys_same oo ii (respond_tracts F d h tag line t v)
@[simp] theorem respond_slot (F) (d) (h) (tag) (line) (t) (v) (oo) : (respond F d h tag line t v).slot oo = d.slot oo := Dev.slot_same oo (respond_sec F d h tag line t v)
@[simp] theorem respond_schan (F) (d) (h) (tag) (line) (t) (v) (oo) : (respond F d h tag line t v).schan oo = d.schan oo := Dev.schan_same oo (respond_str F d h tag line t v)
@[simp] theorem Dev.faultPulse_regs (d) : (Dev.faultPulse d).regs = d.regs := (Dev.faultPulse_touches d).same .regs (by decide)
@[simp] theorem Dev.faultPulse_a (d) : (Dev.faultPulse d).a = d.a := (Dev.faultPulse_touches d).same .a (by decide)
@[simp] theorem Dev.faultPulse_b (d) : (Dev.faultPulse d).b = d.b := (Dev.faultPulse_touches d).same .b (by decide)
@[simp] theorem Dev.faultPulse_tether (d) : (Dev.faultPulse d).tether = d.tether := (Dev.faultPulse_touches d).same .tether (by decide)
@[simp] theorem Dev.faultPulse_launch (d) : (Dev.faultPulse d).launch = d.launch := (Dev.faultPulse_touches d).same .launch (by decide)
@[simp] theorem Dev.faultPulse_gpio (d) : (Dev.faultPulse d).gpio = d.gpio := (Dev.faultPulse_touches d).same .gpio (by decide)
@[simp] theorem Dev.faultPulse_keel (d) : (Dev.faultPulse d).keel = d.keel := (Dev.faultPulse_touches d).same .keel (by decide)
@[simp] theorem Dev.faultPulse_log (d) : (Dev.faultPulse d).log = d.log := (Dev.faultPulse_touches d).same .log (by decide)
@[simp] theorem Dev.faultPulse_aon (d) : (Dev.faultPulse d).aon = d.aon := (Dev.faultPulse_touches d).same .aon (by decide)
@[simp] theorem Dev.faultPulse_cores (d) : (Dev.faultPulse d).cores = d.cores := (Dev.faultPulse_touches d).same .cores (by decide)
@[simp] theorem Dev.faultPulse_sems (d) : (Dev.faultPulse d).sems = d.sems := (Dev.faultPulse_touches d).same .sems (by decide)
@[simp] theorem Dev.faultPulse_images (d) : (Dev.faultPulse d).images = d.images := (Dev.faultPulse_touches d).same .images (by decide)
@[simp] theorem Dev.faultPulse_pmc (d) : (Dev.faultPulse d).pmc = d.pmc := (Dev.faultPulse_touches d).same .pmc (by decide)
@[simp] theorem Dev.faultPulse_bst (d) : (Dev.faultPulse d).bst = d.bst := (Dev.faultPulse_touches d).same .bst (by decide)
@[simp] theorem Dev.faultPulse_dbg (d) : (Dev.faultPulse d).dbg = d.dbg := (Dev.faultPulse_touches d).same .dbg (by decide)
@[simp] theorem Dev.faultPulse_gon (d) : (Dev.faultPulse d).gon = d.gon := (Dev.faultPulse_touches d).same .gon (by decide)
@[simp] theorem Dev.faultPulse_cache (d) : (Dev.faultPulse d).cache = d.cache := (Dev.faultPulse_touches d).same .cache (by decide)
@[simp] theorem Dev.faultPulse_media (d) : (Dev.faultPulse d).media = d.media := (Dev.faultPulse_touches d).same .media (by decide)
@[simp] theorem Dev.faultPulse_tracts (d) : (Dev.faultPulse d).tracts = d.tracts := (Dev.faultPulse_touches d).same .tracts (by decide)
@[simp] theorem Dev.faultPulse_drift (d) : (Dev.faultPulse d).drift = d.drift := (Dev.faultPulse_touches d).same .drift (by decide)
@[simp] theorem Dev.faultPulse_sec (d) : (Dev.faultPulse d).sec = d.sec := (Dev.faultPulse_touches d).same .sec (by decide)
@[simp] theorem Dev.faultPulse_str (d) : (Dev.faultPulse d).str = d.str := (Dev.faultPulse_touches d).same .str (by decide)
@[simp] theorem Dev.faultPulse_lci (d) : (Dev.faultPulse d).lci = d.lci := (Dev.faultPulse_touches d).same .lci (by decide)
@[simp] theorem Dev.faultPulse_therm (d) : (Dev.faultPulse d).therm = d.therm := (Dev.faultPulse_touches d).same .therm (by decide)
@[simp] theorem Dev.faultPulse_fresh (d) : (Dev.faultPulse d).fresh = d.fresh := (Dev.faultPulse_touches d).same .fresh (by decide)
@[simp] theorem Dev.faultPulse_head (d) (hd) : (Dev.faultPulse d).head hd = d.head hd := Dev.head_same hd (Dev.faultPulse_a d) (Dev.faultPulse_b d)
@[simp] theorem Dev.faultPulse_reg (d) (oo) : (Dev.faultPulse d).reg oo = d.reg oo := Dev.reg_same oo (Dev.faultPulse_regs d)
@[simp] theorem Dev.faultPulse_chan (d) (oo) : (Dev.faultPulse d).chan oo = d.chan oo := Dev.chan_same oo (Dev.faultPulse_media d)
@[simp] theorem Dev.faultPulse_die (d) (oo) : (Dev.faultPulse d).die oo = d.die oo := Dev.die_same oo (Dev.faultPulse_media d)
@[simp] theorem Dev.faultPulse_ctl (d) (oo) : (Dev.faultPulse d).ctl oo = d.ctl oo := Dev.ctl_same oo (Dev.faultPulse_media d)
@[simp] theorem Dev.faultPulse_grp (d) (oo) : (Dev.faultPulse d).grp oo = d.grp oo := Dev.grp_same oo (Dev.faultPulse_media d)
@[simp] theorem Dev.faultPulse_qp (d) (oo) : (Dev.faultPulse d).qp oo = d.qp oo := Dev.qp_same oo (Dev.faultPulse_lci d)
@[simp] theorem Dev.faultPulse_cmd (d) (oo) : (Dev.faultPulse d).cmd oo = d.cmd oo := Dev.cmd_same oo (Dev.faultPulse_lci d)
@[simp] theorem Dev.faultPulse_ent (d) (oo) : (Dev.faultPulse d).ent oo = d.ent oo := Dev.ent_same oo (Dev.faultPulse_tracts d)
@[simp] theorem Dev.faultPulse_hdr (d) (oo) : (Dev.faultPulse d).hdr oo = d.hdr oo := Dev.hdr_same oo (Dev.faultPulse_tracts d)
@[simp] theorem Dev.faultPulse_phys (d) (oo) (ii) : (Dev.faultPulse d).phys oo ii = d.phys oo ii := Dev.phys_same oo ii (Dev.faultPulse_tracts d)
@[simp] theorem Dev.faultPulse_slot (d) (oo) : (Dev.faultPulse d).slot oo = d.slot oo := Dev.slot_same oo (Dev.faultPulse_sec d)
@[simp] theorem Dev.faultPulse_schan (d) (oo) : (Dev.faultPulse d).schan oo = d.schan oo := Dev.schan_same oo (Dev.faultPulse_str d)
@[simp] theorem Dev.faultLevel_a (F) (d) : (Dev.faultLevel F d).a = d.a := (Dev.faultLevel_touches F d).same .a (by decide)
@[simp] theorem Dev.faultLevel_b (F) (d) : (Dev.faultLevel F d).b = d.b := (Dev.faultLevel_touches F d).same .b (by decide)
@[simp] theorem Dev.faultLevel_tether (F) (d) : (Dev.faultLevel F d).tether = d.tether := (Dev.faultLevel_touches F d).same .tether (by decide)
@[simp] theorem Dev.faultLevel_launch (F) (d) : (Dev.faultLevel F d).launch = d.launch := (Dev.faultLevel_touches F d).same .launch (by decide)
@[simp] theorem Dev.faultLevel_gpio (F) (d) : (Dev.faultLevel F d).gpio = d.gpio := (Dev.faultLevel_touches F d).same .gpio (by decide)
@[simp] theorem Dev.faultLevel_aon (F) (d) : (Dev.faultLevel F d).aon = d.aon := (Dev.faultLevel_touches F d).same .aon (by decide)
@[simp] theorem Dev.faultLevel_cores (F) (d) : (Dev.faultLevel F d).cores = d.cores := (Dev.faultLevel_touches F d).same .cores (by decide)
@[simp] theorem Dev.faultLevel_sems (F) (d) : (Dev.faultLevel F d).sems = d.sems := (Dev.faultLevel_touches F d).same .sems (by decide)
@[simp] theorem Dev.faultLevel_images (F) (d) : (Dev.faultLevel F d).images = d.images := (Dev.faultLevel_touches F d).same .images (by decide)
@[simp] theorem Dev.faultLevel_pmc (F) (d) : (Dev.faultLevel F d).pmc = d.pmc := (Dev.faultLevel_touches F d).same .pmc (by decide)
@[simp] theorem Dev.faultLevel_bst (F) (d) : (Dev.faultLevel F d).bst = d.bst := (Dev.faultLevel_touches F d).same .bst (by decide)
@[simp] theorem Dev.faultLevel_dbg (F) (d) : (Dev.faultLevel F d).dbg = d.dbg := (Dev.faultLevel_touches F d).same .dbg (by decide)
@[simp] theorem Dev.faultLevel_gon (F) (d) : (Dev.faultLevel F d).gon = d.gon := (Dev.faultLevel_touches F d).same .gon (by decide)
@[simp] theorem Dev.faultLevel_cache (F) (d) : (Dev.faultLevel F d).cache = d.cache := (Dev.faultLevel_touches F d).same .cache (by decide)
@[simp] theorem Dev.faultLevel_media (F) (d) : (Dev.faultLevel F d).media = d.media := (Dev.faultLevel_touches F d).same .media (by decide)
@[simp] theorem Dev.faultLevel_tracts (F) (d) : (Dev.faultLevel F d).tracts = d.tracts := (Dev.faultLevel_touches F d).same .tracts (by decide)
@[simp] theorem Dev.faultLevel_drift (F) (d) : (Dev.faultLevel F d).drift = d.drift := (Dev.faultLevel_touches F d).same .drift (by decide)
@[simp] theorem Dev.faultLevel_sec (F) (d) : (Dev.faultLevel F d).sec = d.sec := (Dev.faultLevel_touches F d).same .sec (by decide)
@[simp] theorem Dev.faultLevel_str (F) (d) : (Dev.faultLevel F d).str = d.str := (Dev.faultLevel_touches F d).same .str (by decide)
@[simp] theorem Dev.faultLevel_lci (F) (d) : (Dev.faultLevel F d).lci = d.lci := (Dev.faultLevel_touches F d).same .lci (by decide)
@[simp] theorem Dev.faultLevel_therm (F) (d) : (Dev.faultLevel F d).therm = d.therm := (Dev.faultLevel_touches F d).same .therm (by decide)
@[simp] theorem Dev.faultLevel_fresh (F) (d) : (Dev.faultLevel F d).fresh = d.fresh := (Dev.faultLevel_touches F d).same .fresh (by decide)
@[simp] theorem Dev.faultLevel_head (F) (d) (hd) : (Dev.faultLevel F d).head hd = d.head hd := Dev.head_same hd (Dev.faultLevel_a F d) (Dev.faultLevel_b F d)
@[simp] theorem Dev.faultLevel_chan (F) (d) (oo) : (Dev.faultLevel F d).chan oo = d.chan oo := Dev.chan_same oo (Dev.faultLevel_media F d)
@[simp] theorem Dev.faultLevel_die (F) (d) (oo) : (Dev.faultLevel F d).die oo = d.die oo := Dev.die_same oo (Dev.faultLevel_media F d)
@[simp] theorem Dev.faultLevel_ctl (F) (d) (oo) : (Dev.faultLevel F d).ctl oo = d.ctl oo := Dev.ctl_same oo (Dev.faultLevel_media F d)
@[simp] theorem Dev.faultLevel_grp (F) (d) (oo) : (Dev.faultLevel F d).grp oo = d.grp oo := Dev.grp_same oo (Dev.faultLevel_media F d)
@[simp] theorem Dev.faultLevel_qp (F) (d) (oo) : (Dev.faultLevel F d).qp oo = d.qp oo := Dev.qp_same oo (Dev.faultLevel_lci F d)
@[simp] theorem Dev.faultLevel_cmd (F) (d) (oo) : (Dev.faultLevel F d).cmd oo = d.cmd oo := Dev.cmd_same oo (Dev.faultLevel_lci F d)
@[simp] theorem Dev.faultLevel_ent (F) (d) (oo) : (Dev.faultLevel F d).ent oo = d.ent oo := Dev.ent_same oo (Dev.faultLevel_tracts F d)
@[simp] theorem Dev.faultLevel_hdr (F) (d) (oo) : (Dev.faultLevel F d).hdr oo = d.hdr oo := Dev.hdr_same oo (Dev.faultLevel_tracts F d)
@[simp] theorem Dev.faultLevel_phys (F) (d) (oo) (ii) : (Dev.faultLevel F d).phys oo ii = d.phys oo ii := Dev.phys_same oo ii (Dev.faultLevel_tracts F d)
@[simp] theorem Dev.faultLevel_slot (F) (d) (oo) : (Dev.faultLevel F d).slot oo = d.slot oo := Dev.slot_same oo (Dev.faultLevel_sec F d)
@[simp] theorem Dev.faultLevel_schan (F) (d) (oo) : (Dev.faultLevel F d).schan oo = d.schan oo := Dev.schan_same oo (Dev.faultLevel_str F d)
@[simp] theorem Dev.unqueue_regs (d) (t) : (Dev.unqueue d t).regs = d.regs := (Dev.unqueue_touches d t).same .regs (by decide)
@[simp] theorem Dev.unqueue_a (d) (t) : (Dev.unqueue d t).a = d.a := (Dev.unqueue_touches d t).same .a (by decide)
@[simp] theorem Dev.unqueue_b (d) (t) : (Dev.unqueue d t).b = d.b := (Dev.unqueue_touches d t).same .b (by decide)
@[simp] theorem Dev.unqueue_tether (d) (t) : (Dev.unqueue d t).tether = d.tether := (Dev.unqueue_touches d t).same .tether (by decide)
@[simp] theorem Dev.unqueue_launch (d) (t) : (Dev.unqueue d t).launch = d.launch := (Dev.unqueue_touches d t).same .launch (by decide)
@[simp] theorem Dev.unqueue_gpio (d) (t) : (Dev.unqueue d t).gpio = d.gpio := (Dev.unqueue_touches d t).same .gpio (by decide)
@[simp] theorem Dev.unqueue_keel (d) (t) : (Dev.unqueue d t).keel = d.keel := (Dev.unqueue_touches d t).same .keel (by decide)
@[simp] theorem Dev.unqueue_log (d) (t) : (Dev.unqueue d t).log = d.log := (Dev.unqueue_touches d t).same .log (by decide)
@[simp] theorem Dev.unqueue_aon (d) (t) : (Dev.unqueue d t).aon = d.aon := (Dev.unqueue_touches d t).same .aon (by decide)
@[simp] theorem Dev.unqueue_cores (d) (t) : (Dev.unqueue d t).cores = d.cores := (Dev.unqueue_touches d t).same .cores (by decide)
@[simp] theorem Dev.unqueue_sems (d) (t) : (Dev.unqueue d t).sems = d.sems := (Dev.unqueue_touches d t).same .sems (by decide)
@[simp] theorem Dev.unqueue_images (d) (t) : (Dev.unqueue d t).images = d.images := (Dev.unqueue_touches d t).same .images (by decide)
@[simp] theorem Dev.unqueue_pmc (d) (t) : (Dev.unqueue d t).pmc = d.pmc := (Dev.unqueue_touches d t).same .pmc (by decide)
@[simp] theorem Dev.unqueue_bst (d) (t) : (Dev.unqueue d t).bst = d.bst := (Dev.unqueue_touches d t).same .bst (by decide)
@[simp] theorem Dev.unqueue_dbg (d) (t) : (Dev.unqueue d t).dbg = d.dbg := (Dev.unqueue_touches d t).same .dbg (by decide)
@[simp] theorem Dev.unqueue_gon (d) (t) : (Dev.unqueue d t).gon = d.gon := (Dev.unqueue_touches d t).same .gon (by decide)
@[simp] theorem Dev.unqueue_cache (d) (t) : (Dev.unqueue d t).cache = d.cache := (Dev.unqueue_touches d t).same .cache (by decide)
@[simp] theorem Dev.unqueue_media (d) (t) : (Dev.unqueue d t).media = d.media := (Dev.unqueue_touches d t).same .media (by decide)
@[simp] theorem Dev.unqueue_drift (d) (t) : (Dev.unqueue d t).drift = d.drift := (Dev.unqueue_touches d t).same .drift (by decide)
@[simp] theorem Dev.unqueue_sec (d) (t) : (Dev.unqueue d t).sec = d.sec := (Dev.unqueue_touches d t).same .sec (by decide)
@[simp] theorem Dev.unqueue_str (d) (t) : (Dev.unqueue d t).str = d.str := (Dev.unqueue_touches d t).same .str (by decide)
@[simp] theorem Dev.unqueue_lci (d) (t) : (Dev.unqueue d t).lci = d.lci := (Dev.unqueue_touches d t).same .lci (by decide)
@[simp] theorem Dev.unqueue_pwr (d) (t) : (Dev.unqueue d t).pwr = d.pwr := (Dev.unqueue_touches d t).same .pwr (by decide)
@[simp] theorem Dev.unqueue_therm (d) (t) : (Dev.unqueue d t).therm = d.therm := (Dev.unqueue_touches d t).same .therm (by decide)
@[simp] theorem Dev.unqueue_out (d) (t) : (Dev.unqueue d t).out = d.out := (Dev.unqueue_touches d t).same .out (by decide)
@[simp] theorem Dev.unqueue_fresh (d) (t) : (Dev.unqueue d t).fresh = d.fresh := (Dev.unqueue_touches d t).same .fresh (by decide)
@[simp] theorem Dev.unqueue_head (d) (t) (hd) : (Dev.unqueue d t).head hd = d.head hd := Dev.head_same hd (Dev.unqueue_a d t) (Dev.unqueue_b d t)
@[simp] theorem Dev.unqueue_reg (d) (t) (oo) : (Dev.unqueue d t).reg oo = d.reg oo := Dev.reg_same oo (Dev.unqueue_regs d t)
@[simp] theorem Dev.unqueue_chan (d) (t) (oo) : (Dev.unqueue d t).chan oo = d.chan oo := Dev.chan_same oo (Dev.unqueue_media d t)
@[simp] theorem Dev.unqueue_die (d) (t) (oo) : (Dev.unqueue d t).die oo = d.die oo := Dev.die_same oo (Dev.unqueue_media d t)
@[simp] theorem Dev.unqueue_ctl (d) (t) (oo) : (Dev.unqueue d t).ctl oo = d.ctl oo := Dev.ctl_same oo (Dev.unqueue_media d t)
@[simp] theorem Dev.unqueue_grp (d) (t) (oo) : (Dev.unqueue d t).grp oo = d.grp oo := Dev.grp_same oo (Dev.unqueue_media d t)
@[simp] theorem Dev.unqueue_qp (d) (t) (oo) : (Dev.unqueue d t).qp oo = d.qp oo := Dev.qp_same oo (Dev.unqueue_lci d t)
@[simp] theorem Dev.unqueue_cmd (d) (t) (oo) : (Dev.unqueue d t).cmd oo = d.cmd oo := Dev.cmd_same oo (Dev.unqueue_lci d t)
@[simp] theorem Dev.unqueue_slot (d) (t) (oo) : (Dev.unqueue d t).slot oo = d.slot oo := Dev.slot_same oo (Dev.unqueue_sec d t)
@[simp] theorem Dev.unqueue_schan (d) (t) (oo) : (Dev.unqueue d t).schan oo = d.schan oo := Dev.schan_same oo (Dev.unqueue_str d t)
@[simp] theorem Dev.fxErr_regs (d) (e) : (Dev.fxErr d e).regs = d.regs := (Dev.fxErr_touches d e).same .regs (by decide)
@[simp] theorem Dev.fxErr_a (d) (e) : (Dev.fxErr d e).a = d.a := (Dev.fxErr_touches d e).same .a (by decide)
@[simp] theorem Dev.fxErr_b (d) (e) : (Dev.fxErr d e).b = d.b := (Dev.fxErr_touches d e).same .b (by decide)
@[simp] theorem Dev.fxErr_tether (d) (e) : (Dev.fxErr d e).tether = d.tether := (Dev.fxErr_touches d e).same .tether (by decide)
@[simp] theorem Dev.fxErr_launch (d) (e) : (Dev.fxErr d e).launch = d.launch := (Dev.fxErr_touches d e).same .launch (by decide)
@[simp] theorem Dev.fxErr_gpio (d) (e) : (Dev.fxErr d e).gpio = d.gpio := (Dev.fxErr_touches d e).same .gpio (by decide)
@[simp] theorem Dev.fxErr_keel (d) (e) : (Dev.fxErr d e).keel = d.keel := (Dev.fxErr_touches d e).same .keel (by decide)
@[simp] theorem Dev.fxErr_log (d) (e) : (Dev.fxErr d e).log = d.log := (Dev.fxErr_touches d e).same .log (by decide)
@[simp] theorem Dev.fxErr_aon (d) (e) : (Dev.fxErr d e).aon = d.aon := (Dev.fxErr_touches d e).same .aon (by decide)
@[simp] theorem Dev.fxErr_cores (d) (e) : (Dev.fxErr d e).cores = d.cores := (Dev.fxErr_touches d e).same .cores (by decide)
@[simp] theorem Dev.fxErr_sems (d) (e) : (Dev.fxErr d e).sems = d.sems := (Dev.fxErr_touches d e).same .sems (by decide)
@[simp] theorem Dev.fxErr_images (d) (e) : (Dev.fxErr d e).images = d.images := (Dev.fxErr_touches d e).same .images (by decide)
@[simp] theorem Dev.fxErr_pmc (d) (e) : (Dev.fxErr d e).pmc = d.pmc := (Dev.fxErr_touches d e).same .pmc (by decide)
@[simp] theorem Dev.fxErr_bst (d) (e) : (Dev.fxErr d e).bst = d.bst := (Dev.fxErr_touches d e).same .bst (by decide)
@[simp] theorem Dev.fxErr_gon (d) (e) : (Dev.fxErr d e).gon = d.gon := (Dev.fxErr_touches d e).same .gon (by decide)
@[simp] theorem Dev.fxErr_cache (d) (e) : (Dev.fxErr d e).cache = d.cache := (Dev.fxErr_touches d e).same .cache (by decide)
@[simp] theorem Dev.fxErr_media (d) (e) : (Dev.fxErr d e).media = d.media := (Dev.fxErr_touches d e).same .media (by decide)
@[simp] theorem Dev.fxErr_tracts (d) (e) : (Dev.fxErr d e).tracts = d.tracts := (Dev.fxErr_touches d e).same .tracts (by decide)
@[simp] theorem Dev.fxErr_drift (d) (e) : (Dev.fxErr d e).drift = d.drift := (Dev.fxErr_touches d e).same .drift (by decide)
@[simp] theorem Dev.fxErr_sec (d) (e) : (Dev.fxErr d e).sec = d.sec := (Dev.fxErr_touches d e).same .sec (by decide)
@[simp] theorem Dev.fxErr_str (d) (e) : (Dev.fxErr d e).str = d.str := (Dev.fxErr_touches d e).same .str (by decide)
@[simp] theorem Dev.fxErr_lci (d) (e) : (Dev.fxErr d e).lci = d.lci := (Dev.fxErr_touches d e).same .lci (by decide)
@[simp] theorem Dev.fxErr_pwr (d) (e) : (Dev.fxErr d e).pwr = d.pwr := (Dev.fxErr_touches d e).same .pwr (by decide)
@[simp] theorem Dev.fxErr_therm (d) (e) : (Dev.fxErr d e).therm = d.therm := (Dev.fxErr_touches d e).same .therm (by decide)
@[simp] theorem Dev.fxErr_out (d) (e) : (Dev.fxErr d e).out = d.out := (Dev.fxErr_touches d e).same .out (by decide)
@[simp] theorem Dev.fxErr_fresh (d) (e) : (Dev.fxErr d e).fresh = d.fresh := (Dev.fxErr_touches d e).same .fresh (by decide)
@[simp] theorem Dev.fxErr_head (d) (e) (hd) : (Dev.fxErr d e).head hd = d.head hd := Dev.head_same hd (Dev.fxErr_a d e) (Dev.fxErr_b d e)
@[simp] theorem Dev.fxErr_reg (d) (e) (oo) : (Dev.fxErr d e).reg oo = d.reg oo := Dev.reg_same oo (Dev.fxErr_regs d e)
@[simp] theorem Dev.fxErr_chan (d) (e) (oo) : (Dev.fxErr d e).chan oo = d.chan oo := Dev.chan_same oo (Dev.fxErr_media d e)
@[simp] theorem Dev.fxErr_die (d) (e) (oo) : (Dev.fxErr d e).die oo = d.die oo := Dev.die_same oo (Dev.fxErr_media d e)
@[simp] theorem Dev.fxErr_ctl (d) (e) (oo) : (Dev.fxErr d e).ctl oo = d.ctl oo := Dev.ctl_same oo (Dev.fxErr_media d e)
@[simp] theorem Dev.fxErr_grp (d) (e) (oo) : (Dev.fxErr d e).grp oo = d.grp oo := Dev.grp_same oo (Dev.fxErr_media d e)
@[simp] theorem Dev.fxErr_qp (d) (e) (oo) : (Dev.fxErr d e).qp oo = d.qp oo := Dev.qp_same oo (Dev.fxErr_lci d e)
@[simp] theorem Dev.fxErr_cmd (d) (e) (oo) : (Dev.fxErr d e).cmd oo = d.cmd oo := Dev.cmd_same oo (Dev.fxErr_lci d e)
@[simp] theorem Dev.fxErr_ent (d) (e) (oo) : (Dev.fxErr d e).ent oo = d.ent oo := Dev.ent_same oo (Dev.fxErr_tracts d e)
@[simp] theorem Dev.fxErr_hdr (d) (e) (oo) : (Dev.fxErr d e).hdr oo = d.hdr oo := Dev.hdr_same oo (Dev.fxErr_tracts d e)
@[simp] theorem Dev.fxErr_phys (d) (e) (oo) (ii) : (Dev.fxErr d e).phys oo ii = d.phys oo ii := Dev.phys_same oo ii (Dev.fxErr_tracts d e)
@[simp] theorem Dev.fxErr_slot (d) (e) (oo) : (Dev.fxErr d e).slot oo = d.slot oo := Dev.slot_same oo (Dev.fxErr_sec d e)
@[simp] theorem Dev.fxErr_schan (d) (e) (oo) : (Dev.fxErr d e).schan oo = d.schan oo := Dev.schan_same oo (Dev.fxErr_str d e)
@[simp] theorem Dev.irLoad_regs (d) (code) : (Dev.irLoad d code).regs = d.regs := (Dev.irLoad_touches d code).same .regs (by decide)
@[simp] theorem Dev.irLoad_a (d) (code) : (Dev.irLoad d code).a = d.a := (Dev.irLoad_touches d code).same .a (by decide)
@[simp] theorem Dev.irLoad_b (d) (code) : (Dev.irLoad d code).b = d.b := (Dev.irLoad_touches d code).same .b (by decide)
@[simp] theorem Dev.irLoad_tether (d) (code) : (Dev.irLoad d code).tether = d.tether := (Dev.irLoad_touches d code).same .tether (by decide)
@[simp] theorem Dev.irLoad_launch (d) (code) : (Dev.irLoad d code).launch = d.launch := (Dev.irLoad_touches d code).same .launch (by decide)
@[simp] theorem Dev.irLoad_gpio (d) (code) : (Dev.irLoad d code).gpio = d.gpio := (Dev.irLoad_touches d code).same .gpio (by decide)
@[simp] theorem Dev.irLoad_keel (d) (code) : (Dev.irLoad d code).keel = d.keel := (Dev.irLoad_touches d code).same .keel (by decide)
@[simp] theorem Dev.irLoad_log (d) (code) : (Dev.irLoad d code).log = d.log := (Dev.irLoad_touches d code).same .log (by decide)
@[simp] theorem Dev.irLoad_aon (d) (code) : (Dev.irLoad d code).aon = d.aon := (Dev.irLoad_touches d code).same .aon (by decide)
@[simp] theorem Dev.irLoad_cores (d) (code) : (Dev.irLoad d code).cores = d.cores := (Dev.irLoad_touches d code).same .cores (by decide)
@[simp] theorem Dev.irLoad_sems (d) (code) : (Dev.irLoad d code).sems = d.sems := (Dev.irLoad_touches d code).same .sems (by decide)
@[simp] theorem Dev.irLoad_images (d) (code) : (Dev.irLoad d code).images = d.images := (Dev.irLoad_touches d code).same .images (by decide)
@[simp] theorem Dev.irLoad_pmc (d) (code) : (Dev.irLoad d code).pmc = d.pmc := (Dev.irLoad_touches d code).same .pmc (by decide)
@[simp] theorem Dev.irLoad_bst (d) (code) : (Dev.irLoad d code).bst = d.bst := (Dev.irLoad_touches d code).same .bst (by decide)
@[simp] theorem Dev.irLoad_gon (d) (code) : (Dev.irLoad d code).gon = d.gon := (Dev.irLoad_touches d code).same .gon (by decide)
@[simp] theorem Dev.irLoad_cache (d) (code) : (Dev.irLoad d code).cache = d.cache := (Dev.irLoad_touches d code).same .cache (by decide)
@[simp] theorem Dev.irLoad_media (d) (code) : (Dev.irLoad d code).media = d.media := (Dev.irLoad_touches d code).same .media (by decide)
@[simp] theorem Dev.irLoad_tracts (d) (code) : (Dev.irLoad d code).tracts = d.tracts := (Dev.irLoad_touches d code).same .tracts (by decide)
@[simp] theorem Dev.irLoad_drift (d) (code) : (Dev.irLoad d code).drift = d.drift := (Dev.irLoad_touches d code).same .drift (by decide)
@[simp] theorem Dev.irLoad_sec (d) (code) : (Dev.irLoad d code).sec = d.sec := (Dev.irLoad_touches d code).same .sec (by decide)
@[simp] theorem Dev.irLoad_str (d) (code) : (Dev.irLoad d code).str = d.str := (Dev.irLoad_touches d code).same .str (by decide)
@[simp] theorem Dev.irLoad_lci (d) (code) : (Dev.irLoad d code).lci = d.lci := (Dev.irLoad_touches d code).same .lci (by decide)
@[simp] theorem Dev.irLoad_pwr (d) (code) : (Dev.irLoad d code).pwr = d.pwr := (Dev.irLoad_touches d code).same .pwr (by decide)
@[simp] theorem Dev.irLoad_therm (d) (code) : (Dev.irLoad d code).therm = d.therm := (Dev.irLoad_touches d code).same .therm (by decide)
@[simp] theorem Dev.irLoad_out (d) (code) : (Dev.irLoad d code).out = d.out := (Dev.irLoad_touches d code).same .out (by decide)
@[simp] theorem Dev.irLoad_fresh (d) (code) : (Dev.irLoad d code).fresh = d.fresh := (Dev.irLoad_touches d code).same .fresh (by decide)
@[simp] theorem Dev.irLoad_head (d) (code) (hd) : (Dev.irLoad d code).head hd = d.head hd := Dev.head_same hd (Dev.irLoad_a d code) (Dev.irLoad_b d code)
@[simp] theorem Dev.irLoad_reg (d) (code) (oo) : (Dev.irLoad d code).reg oo = d.reg oo := Dev.reg_same oo (Dev.irLoad_regs d code)
@[simp] theorem Dev.irLoad_chan (d) (code) (oo) : (Dev.irLoad d code).chan oo = d.chan oo := Dev.chan_same oo (Dev.irLoad_media d code)
@[simp] theorem Dev.irLoad_die (d) (code) (oo) : (Dev.irLoad d code).die oo = d.die oo := Dev.die_same oo (Dev.irLoad_media d code)
@[simp] theorem Dev.irLoad_ctl (d) (code) (oo) : (Dev.irLoad d code).ctl oo = d.ctl oo := Dev.ctl_same oo (Dev.irLoad_media d code)
@[simp] theorem Dev.irLoad_grp (d) (code) (oo) : (Dev.irLoad d code).grp oo = d.grp oo := Dev.grp_same oo (Dev.irLoad_media d code)
@[simp] theorem Dev.irLoad_qp (d) (code) (oo) : (Dev.irLoad d code).qp oo = d.qp oo := Dev.qp_same oo (Dev.irLoad_lci d code)
@[simp] theorem Dev.irLoad_cmd (d) (code) (oo) : (Dev.irLoad d code).cmd oo = d.cmd oo := Dev.cmd_same oo (Dev.irLoad_lci d code)
@[simp] theorem Dev.irLoad_ent (d) (code) (oo) : (Dev.irLoad d code).ent oo = d.ent oo := Dev.ent_same oo (Dev.irLoad_tracts d code)
@[simp] theorem Dev.irLoad_hdr (d) (code) (oo) : (Dev.irLoad d code).hdr oo = d.hdr oo := Dev.hdr_same oo (Dev.irLoad_tracts d code)
@[simp] theorem Dev.irLoad_phys (d) (code) (oo) (ii) : (Dev.irLoad d code).phys oo ii = d.phys oo ii := Dev.phys_same oo ii (Dev.irLoad_tracts d code)
@[simp] theorem Dev.irLoad_slot (d) (code) (oo) : (Dev.irLoad d code).slot oo = d.slot oo := Dev.slot_same oo (Dev.irLoad_sec d code)
@[simp] theorem Dev.irLoad_schan (d) (code) (oo) : (Dev.irLoad d code).schan oo = d.schan oo := Dev.schan_same oo (Dev.irLoad_str d code)
@[simp] theorem Dev.freeChan_regs (d) (h) : (Dev.freeChan d h).regs = d.regs := (Dev.freeChan_touches d h).same .regs (by decide)
@[simp] theorem Dev.freeChan_a (d) (h) : (Dev.freeChan d h).a = d.a := (Dev.freeChan_touches d h).same .a (by decide)
@[simp] theorem Dev.freeChan_b (d) (h) : (Dev.freeChan d h).b = d.b := (Dev.freeChan_touches d h).same .b (by decide)
@[simp] theorem Dev.freeChan_tether (d) (h) : (Dev.freeChan d h).tether = d.tether := (Dev.freeChan_touches d h).same .tether (by decide)
@[simp] theorem Dev.freeChan_launch (d) (h) : (Dev.freeChan d h).launch = d.launch := (Dev.freeChan_touches d h).same .launch (by decide)
@[simp] theorem Dev.freeChan_gpio (d) (h) : (Dev.freeChan d h).gpio = d.gpio := (Dev.freeChan_touches d h).same .gpio (by decide)
@[simp] theorem Dev.freeChan_keel (d) (h) : (Dev.freeChan d h).keel = d.keel := (Dev.freeChan_touches d h).same .keel (by decide)
@[simp] theorem Dev.freeChan_log (d) (h) : (Dev.freeChan d h).log = d.log := (Dev.freeChan_touches d h).same .log (by decide)
@[simp] theorem Dev.freeChan_aon (d) (h) : (Dev.freeChan d h).aon = d.aon := (Dev.freeChan_touches d h).same .aon (by decide)
@[simp] theorem Dev.freeChan_cores (d) (h) : (Dev.freeChan d h).cores = d.cores := (Dev.freeChan_touches d h).same .cores (by decide)
@[simp] theorem Dev.freeChan_sems (d) (h) : (Dev.freeChan d h).sems = d.sems := (Dev.freeChan_touches d h).same .sems (by decide)
@[simp] theorem Dev.freeChan_images (d) (h) : (Dev.freeChan d h).images = d.images := (Dev.freeChan_touches d h).same .images (by decide)
@[simp] theorem Dev.freeChan_pmc (d) (h) : (Dev.freeChan d h).pmc = d.pmc := (Dev.freeChan_touches d h).same .pmc (by decide)
@[simp] theorem Dev.freeChan_bst (d) (h) : (Dev.freeChan d h).bst = d.bst := (Dev.freeChan_touches d h).same .bst (by decide)
@[simp] theorem Dev.freeChan_dbg (d) (h) : (Dev.freeChan d h).dbg = d.dbg := (Dev.freeChan_touches d h).same .dbg (by decide)
@[simp] theorem Dev.freeChan_gon (d) (h) : (Dev.freeChan d h).gon = d.gon := (Dev.freeChan_touches d h).same .gon (by decide)
@[simp] theorem Dev.freeChan_cache (d) (h) : (Dev.freeChan d h).cache = d.cache := (Dev.freeChan_touches d h).same .cache (by decide)
@[simp] theorem Dev.freeChan_media (d) (h) : (Dev.freeChan d h).media = d.media := (Dev.freeChan_touches d h).same .media (by decide)
@[simp] theorem Dev.freeChan_tracts (d) (h) : (Dev.freeChan d h).tracts = d.tracts := (Dev.freeChan_touches d h).same .tracts (by decide)
@[simp] theorem Dev.freeChan_drift (d) (h) : (Dev.freeChan d h).drift = d.drift := (Dev.freeChan_touches d h).same .drift (by decide)
@[simp] theorem Dev.freeChan_sec (d) (h) : (Dev.freeChan d h).sec = d.sec := (Dev.freeChan_touches d h).same .sec (by decide)
@[simp] theorem Dev.freeChan_lci (d) (h) : (Dev.freeChan d h).lci = d.lci := (Dev.freeChan_touches d h).same .lci (by decide)
@[simp] theorem Dev.freeChan_pwr (d) (h) : (Dev.freeChan d h).pwr = d.pwr := (Dev.freeChan_touches d h).same .pwr (by decide)
@[simp] theorem Dev.freeChan_therm (d) (h) : (Dev.freeChan d h).therm = d.therm := (Dev.freeChan_touches d h).same .therm (by decide)
@[simp] theorem Dev.freeChan_out (d) (h) : (Dev.freeChan d h).out = d.out := (Dev.freeChan_touches d h).same .out (by decide)
@[simp] theorem Dev.freeChan_fresh (d) (h) : (Dev.freeChan d h).fresh = d.fresh := (Dev.freeChan_touches d h).same .fresh (by decide)
@[simp] theorem Dev.freeChan_head (d) (h) (hd) : (Dev.freeChan d h).head hd = d.head hd := Dev.head_same hd (Dev.freeChan_a d h) (Dev.freeChan_b d h)
@[simp] theorem Dev.freeChan_reg (d) (h) (oo) : (Dev.freeChan d h).reg oo = d.reg oo := Dev.reg_same oo (Dev.freeChan_regs d h)
@[simp] theorem Dev.freeChan_chan (d) (h) (oo) : (Dev.freeChan d h).chan oo = d.chan oo := Dev.chan_same oo (Dev.freeChan_media d h)
@[simp] theorem Dev.freeChan_die (d) (h) (oo) : (Dev.freeChan d h).die oo = d.die oo := Dev.die_same oo (Dev.freeChan_media d h)
@[simp] theorem Dev.freeChan_ctl (d) (h) (oo) : (Dev.freeChan d h).ctl oo = d.ctl oo := Dev.ctl_same oo (Dev.freeChan_media d h)
@[simp] theorem Dev.freeChan_grp (d) (h) (oo) : (Dev.freeChan d h).grp oo = d.grp oo := Dev.grp_same oo (Dev.freeChan_media d h)
@[simp] theorem Dev.freeChan_qp (d) (h) (oo) : (Dev.freeChan d h).qp oo = d.qp oo := Dev.qp_same oo (Dev.freeChan_lci d h)
@[simp] theorem Dev.freeChan_cmd (d) (h) (oo) : (Dev.freeChan d h).cmd oo = d.cmd oo := Dev.cmd_same oo (Dev.freeChan_lci d h)
@[simp] theorem Dev.freeChan_ent (d) (h) (oo) : (Dev.freeChan d h).ent oo = d.ent oo := Dev.ent_same oo (Dev.freeChan_tracts d h)
@[simp] theorem Dev.freeChan_hdr (d) (h) (oo) : (Dev.freeChan d h).hdr oo = d.hdr oo := Dev.hdr_same oo (Dev.freeChan_tracts d h)
@[simp] theorem Dev.freeChan_phys (d) (h) (oo) (ii) : (Dev.freeChan d h).phys oo ii = d.phys oo ii := Dev.phys_same oo ii (Dev.freeChan_tracts d h)
@[simp] theorem Dev.freeChan_slot (d) (h) (oo) : (Dev.freeChan d h).slot oo = d.slot oo := Dev.slot_same oo (Dev.freeChan_sec d h)

end Sys2Proof.Machine
end

