-- ==== Sys2Proof/Tests/Slice0.lean ====
section
/-!
SUPPORT. The model's own tests: an ill-formed command for each check of WellFormed.lean; small tests whose expected results are
worked by hand from the rules named; and, for every obligation with hypotheses, a state and operands that meet them.
-/
namespace Sys2Proof.Tests
open Sys2Proof Sys2Proof.Machine

set_option Elab.async false

/-! Ill-formed commands, one for each check. -/

theorem test_wf_load : Instr.wf (.load 0 0 0 false 0 [] 0) = false := by decide
theorem test_wf_row_update : Instr.wf (.rowUpdateStart 0 0 .slc [(3, 0), (3, 1)]) = false := by decide
theorem test_wf_housekeeping_code : Instr.wf (.housekeepingRound none none [(0, 1024)]) = false := by decide
theorem test_wf_housekeeping_twice : Instr.wf (.housekeepingRound none none [(5, 1), (5, 2)]) = false := by decide
theorem test_wf_fx_step : Instr.wf (.fxStep .a [(256, 0)]) = false := by decide
theorem test_wf_transfer_fw : Instr.wf (.transferFw .a 0 0 []) = false := by decide
theorem test_wf_set_lsa : Instr.wf (.setLsa .a 0 []) = false := by decide
theorem test_wf_decoder : Instr.wf (.hdmDecoderCommit .a 0 (2 ^ 64 - 1) 2 0 false ⟨1, 256, 0⟩) = false := by decide +kernel
theorem test_wf_access_error : Instr.wf (.registerAccessError .a 2 0) = false := by decide
theorem test_wf_accepts : Instr.wf (.registerAccessError .a 2 0xD0000) = true := by decide

/-! Small tests. -/

/-- R23: the device is Off when the always-on supply first comes up. -/
theorem test_reset_off : State.reset.dev.pwr.svc = .off := by decide

/-- R100: an edge of the 32.768 kHz clock is 30,517 + 37/64 ns: from zero, 30,517 ns. -/
theorem test_idle_edge : (idle State.reset).dev.tether.now = 30517 := by decide +kernel

/-- CRC-32C's published check value, of the digits 1 to 9 (R374). -/
theorem test_crc32c : crc32c [0x31, 0x32, 0x33, 0x34, 0x35, 0x36, 0x37, 0x38, 0x39] = 0xE3069283 := by decide +kernel

/-- R144: x^8 = x^4 + x^3 + x^2 + 1 in the field of 0x11D, and an element times its inverse is 1. -/
theorem test_gf_reduce : gfPow 2 8 = 0x1D := by decide +kernel
theorem test_gf_inverse : gfMul 0x53 (gfInv 0x53) = 1 := by decide +kernel

/-- The device of a next state; otherwise the empty device. -/
def devOf (o : Host.Outcome State Fault Refusal) : Dev :=
  match o with
  | .next t => t.dev
  | _ => {}

/-- A device of class L in full service: head A up in L0 with a decoder over all of its DPA space, both core pairs running, the quadrants
populated, group 0 in use. -/
def sv : Dev :=
  { a := { linkUp := true, rate := 4, width := 3, fullWidth := 3, flit256 := true, cxlMem := true, lstate := 0, perstHigh := true, reqOut := 1, rwdOut := 1,
           decoders := [(0, { size := 2 ^ 44, committed := true })] }
    tether := { slow := false, now := 1000000, schedule := true }
    keel := { ready := true, eraseUse := 1 }
    log := { accepting := true }
    cores := { a := { ok := true }, b := { ok := true }, standbyOk := true }
    images := { running := 0 }
    gon := { armed := true }
    media := { dies := [(0, 8), (1, 8), (2, 8), (3, 8)], group := [(0, { populated := true })] }
    lci := { ready := true, rmBoot := false }
    pwr := { svc := .full, step := 11, inputOk := true, pwrReq := true, replayDone := true, restored := true, cap := some 10000,
             board := { valid := true, split := 100, share := 200, chan := [(12, { used := true, react := 1, retries := 3, role := 1, after := 10 }),
               (13, { used := true, role := 2, after := 10 })], vhFull := 1000, rTest := 100, eta := 90, armPct := 110 }
             seq := [(0, { en := true, valid := true }), (1, { en := true, valid := true }), (2, { en := true, valid := true }),
               (3, { en := true, valid := true }), (4, { en := true, valid := true })] } }

/-- A state with this device. -/
def st (d : Dev) : State := { State.reset with dev := d }

/-- Registers at these words. -/
def rg (l : List (Nat × Nat)) (d : Dev) : Dev := l.foldl (fun d x => d.setReg x.1 (BitVec.ofNat 32 x.2)) d

/-- An SQ entry with fields at these bytes. -/
def sq (op : Nat) (l : List (Nat × Nat)) : LineData := BitVec.ofNat 512 (l.foldl (fun n x => n + x.2 * 2 ^ (8 * x.1)) op)

/-- The same device with these commands in its table. -/
def cs (l : List Cmd) (d : Dev) : Dev := { d with lci := { d.lci with cmds := l } }

/-- The same device with die 0 as given. -/
def dd (x : Die) (d : Dev) : Dev := { d with media := { d.media with die := [(0, x)] } }

/-- The same device with channel 0 as given. -/
def dc (x : Channel) (d : Dev) : Dev := { d with media := { d.media with chan := [(0, x)] } }

/-- The same device with tract 0 in physical tract 0 of group 0 and lines 0 and 1 written. -/
def dt (d : Dev) : Dev :=
  { d with tracts := { d.tracts with cur := { ent := [(0, { kind := 1 })], bits := [(0, 3)], phys := [(0, { state := 1, refs := 1 })] } } }

/-- The same device with these migrations and this queue of tracts to move. -/
def dm (l : List Mig) (q : List (Nat × MigWhy)) (d : Dev) : Dev := { d with tracts := { d.tracts with migs := l, queued := q } }

/-- The same device with this stream channel 0. -/
def dx (x : SChan) (d : Dev) : Dev := { d with str := { d.str with chan := [(0, x)] } }

/-- The same device in a port mode. -/
def md (m : PortMode) (d : Dev) : Dev := { d with pwr := { d.pwr with board := { d.pwr.board with mode := m } } }

/-- The same device in a device state and at a step. -/
def sp (s : Svc) (n : Nat) (d : Dev) : Dev := { d with pwr := { d.pwr with svc := s, step := n } }

/-- The same device in a flush. -/
def fl (f : Flush) (d : Dev) : Dev := { d with pwr := { d.pwr with svc := .flush, flush := some f } }

/-- A good copy of the board configuration block. -/
def bc : List Nat :=
  let tail := leBytes 4 1 ++ [0, 0] ++ leBytes 2 0x8888 ++ List.replicate 14 0 ++ leBytes 2 1050 ++ leBytes 2 1100 ++ List.replicate 2 0 ++
    leBytes 2 1000 ++ leBytes 2 500 ++ List.replicate 2 0 ++ [90, 110, 105] ++ List.replicate 195 0
  [0x43, 0x56, 0x42, 0x43, 1, 0, 244, 0] ++ leBytes 4 (crc32c tail) ++ tail

/-! States and operands that meet the hypotheses of the obligations. Clauses whose hypothesis asks for one value of a constant of
Config (what a NOR slot's signature check or boot choice answers, what an unwrap or a signature check answers) have no concrete
witness, since those constants have no value: their states are met whichever way the constant answers, and are left out here. -/

/-- States and operands that meet the hypotheses of `Obligations.HOST_LINK_ANSWERS`, clause by clause. -/
theorem witness_HOST_LINK_ANSWERS :
    (∃ (h : _) (s : State), rwdFree s.fuse s.dev h = true) ∧
    (∃ (h : _) (s : State), reqFree s.fuse s.dev h = true) ∧
    (∃ (h : _) (s : State), reqFree s.fuse s.dev h = false) ∧
    (∃ (h : _) (dpa : Dpa) (s : State), s.dev.arrives h = true ∧ s.dev.mapped s.fuse h dpa.toNat = true) ∧
    (∃ (h : _) (s : State), s.dev.arrives h = true) :=
  ⟨⟨.a, st sv, by decide +kernel⟩,
   ⟨.a, st sv, by decide +kernel⟩,
   ⟨.b, st sv, by decide +kernel⟩,
   ⟨.a, 0, st sv, by decide +kernel⟩,
   ⟨.a, st sv, by decide +kernel⟩⟩

/-- States and operands that meet the hypotheses of `Obligations.HOST_READ_RETURNS`, clause by clause. -/
theorem witness_HOST_READ_RETURNS :
    (∃ (h : _) (dpa : Dpa) (s : State) (i : _), s.dev.arrives h = true ∧ s.dev.mapped s.fuse h dpa.toNat = true ∧ placeOf s.fuse ((s.dev.useReq
    h).countH 0x040 h) h dpa.toNat = .scratch i ∧ i ∉ s.dev.cache.scrPoison) ∧
    (∃ (h : _) (dpa : Dpa) (s : State) (i : _), s.dev.arrives h = true ∧ s.dev.mapped s.fuse h dpa.toNat = true ∧ placeOf s.fuse ((s.dev.useReq
    h).countH 0x040 h) h dpa.toNat = .scratch i ∧ i ∈ s.dev.cache.scrPoison) ∧
    (∃ (h : _) (dpa : Dpa) (s : State) (g : _), s.dev.arrives h = true ∧ s.dev.mapped s.fuse h dpa.toNat = true ∧ placeOf s.fuse ((s.dev.useReq
    h).countH 0x040 h) h dpa.toNat = .persist ∧ s.dev.staged (dpa.toNat / 64) = some g ∧ g.poison = false ∧ g.mask = fullMask) ∧
    (∃ (h : _) (dpa : Dpa) (s : State), s.dev.arrives h = true ∧ s.dev.mapped s.fuse h dpa.toNat = false) :=
  ⟨⟨.a, 0xF0000000000, st ({ sv with cache := { scrAct := 1, scr := [(524288, 5)] } }), 524288, by decide +kernel⟩,
   ⟨.a, 0xF0000000000, st ({ sv with cache := { scrAct := 1, scrPoison := [524288] } }), 524288, by decide +kernel⟩,
   ⟨.a, 0, st ({ sv with gon := { sv.gon with staged := [(0, some { data := 7, mask := fullMask })] } }), { data := 7, mask := fullMask },
    by decide +kernel⟩,
   ⟨.a, 0, st ({ sv with a := { sv.a with decoders := [] } }), by decide +kernel⟩⟩

/-- States and operands that meet the hypotheses of `Obligations.HOST_WRITE_TAKES_EFFECT`, clause by clause. -/
theorem witness_HOST_WRITE_TAKES_EFFECT :
    (∃ (h : _) (dpa : Dpa) (s : State), s.dev.arrivesW h = true ∧ s.dev.mapped s.fuse h dpa.toNat = true ∧ placeOf s.fuse ((s.dev.useRwd
    h).countH 0x041 h) h dpa.toNat = .persist ∧ ((s.dev.useRwd h).countH 0x041 h).readOnly (windowAt s.fuse ((s.dev.useRwd h).countH 0x041
    h) h dpa.toNat) dpa.toNat = false ∧ (∀ w ∈ windowAt s.fuse ((s.dev.useRwd h).countH 0x041 h) h dpa.toNat, w.wt = false) ∧
    s.dev.tracts.sealed = false ∧ s.dev.gon.armed = true ∧ (∀ g ∈ s.dev.staged (dpa.toNat / 64), g.state = .staged ∧ g.preLaunch = none)) ∧
    (∃ (h : _) (dpa : Dpa) (s : State) (i : _), s.dev.arrivesW h = true ∧ s.dev.mapped s.fuse h dpa.toNat = true ∧ placeOf s.fuse
    ((s.dev.useRwd h).countH 0x041 h) h dpa.toNat = .scratch i ∧ i ∉ s.dev.cache.scrPoison) ∧
    (∃ (h : _) (dpa : Dpa) (s : State), s.dev.arrivesW h = true ∧ s.dev.mapped s.fuse h dpa.toNat = false) :=
  ⟨⟨.a, 0, st sv, by decide +kernel⟩,
   ⟨.a, 0xF0000000000, st ({ sv with cache := { scrAct := 1, scr := [(524288, 0x0201)] } }), 524288, by decide +kernel⟩,
   ⟨.a, 0, st ({ sv with a := { sv.a with decoders := [] } }), by decide +kernel⟩⟩

/-- A state and operands that meet the hypotheses of `Obligations.READ_RETURNS_LAST_WRITE`. -/
theorem witness_READ_RETURNS_LAST_WRITE :
    ∃ (h : _) (tag : _) (dpa : Dpa) (data : _) (s : State) (t : _), exec (.memwr h tag dpa data false) s = .next t ∧ s.dev.arrivesW h = true ∧
    s.dev.mapped s.fuse h dpa.toNat = true ∧ placeOf s.fuse ((s.dev.useRwd h).countH 0x041 h) h dpa.toNat = .persist ∧ ((s.dev.useRwd
    h).countH 0x041 h).readOnly (windowAt s.fuse ((s.dev.useRwd h).countH 0x041 h) h dpa.toNat) dpa.toNat = false ∧ (∀ w ∈ windowAt s.fuse
    ((s.dev.useRwd h).countH 0x041 h) h dpa.toNat, w.wt = false) ∧ s.dev.tracts.sealed = false ∧ s.dev.gon.armed = true ∧ (∀ g ∈
    s.dev.staged (dpa.toNat / 64), g.state = .staged ∧ g.preLaunch = none) ∧ t.dev.arrives h = true ∧ t.dev.mapped t.fuse h dpa.toNat =
    true ∧ placeOf t.fuse ((t.dev.useReq h).countH 0x040 h) h dpa.toNat = .persist :=
  ⟨.a, 0, 0, 7, st sv, { st sv with dev := devOf (exec (.memwr .a 0 0 7 false) (st sv)) }, ⟨rfl, by decide +kernel⟩⟩

/-- States and operands that meet the hypotheses of `Obligations.LINE_FETCH_PROGRESS`, clause by clause. -/
theorem witness_LINE_FETCH_PROGRESS :
    (∃ (h : _) (dpa : Dpa) (s : State), s.dev.arrives h = true ∧ ((s.dev.useReq h).countH 0x042 h).mapped s.fuse h dpa.toNat = true ∧ placeOf
    s.fuse ((s.dev.useReq h).countH 0x042 h) h dpa.toNat = .persist ∧ ((s.dev.useReq h).countH 0x042 h).pwr.svc = .full ∧ ((s.dev.useReq
    h).countH 0x042 h).drogue = false ∧ ((s.dev.useReq h).countH 0x042 h).degraded (dpa.toNat / 64) = false ∧ ((s.dev.useReq h).countH
    0x042 h).rbit LIN_CACHE_CFG 2 = true ∧ ((s.dev.useReq h).countH 0x042 h).staged (dpa.toNat / 64) = none ∧ ((s.dev.useReq h).countH
    0x042 h).wbSeen (dpa.toNat / 64) = none ∧ ((s.dev.useReq h).countH 0x042 h).cleanLine (dpa.toNat / 64) = none ∧ ((s.dev.useReq
    h).countH 0x042 h).below (dpa.toNat / 64) = .fetch) ∧
    (∃ (dpa : Dpa) (v : _) (unk : StripeMask) (s : State) (f : _) (m : _), s.dev.cache.fetches.find? (fun f => f.line == dpa.toNat / 64 &&
    !f.fallback && !f.retry) = some f ∧ (if f.stale then s.dev.belowMedia (dpa.toNat / 64) else s.dev.below (dpa.toNat / 64)) = .fetch ∧
    s.dev.driftClass (s.dev.ent (dpa.toNat / 64 / 16384)).group (s.dev.ent (dpa.toNat / 64 / 16384)).index ≠ 15 ∧ fastOk v = true ∧
    s.dev.readLoc (s.dev.lineLoc (dpa.toNat / 64)) (if f.around then .bad else v) unk.toNat = .direct m) ∧
    (∃ (dpa : Dpa) (n : Fin 11) (bytes : List (Fin 80)) (s : State) (f : _) (l : _) (home : _) (er : _) (d : _), s.dev.cache.fetches.find? (fun
    f => f.line == dpa.toNat / 64 && f.fallback) = some f ∧ l = s.dev.lineLoc (dpa.toNat / 64) ∧ home = s.dev.dataPos l l.idx ∧
    s.dev.posOut l.g home = false ∧ er = s.dev.erasures (dieOf l.g home) l.pa ∧ n.val ≤ er + (10 - er) / 2 ∧ d = ((((s.dev.mapFetch f fun
    _ => { f with fallback := false }).quadCount l 8).bump MCH_DEC_HEAVY_CNT).resurveyAdd (dpa.toNat / 64)).weakMatch
(dieOf l.g home)
    l.pa (bytes.map (·.val))) ∧
    (∃ (dpa : Dpa) (n : Fin 11) (s : State) (f : _) (l : _) (home : _) (er : _), s.dev.cache.fetches.find? (fun f => f.line == dpa.toNat / 64
    && f.fallback) = some f ∧ l = s.dev.lineLoc (dpa.toNat / 64) ∧ home = s.dev.dataPos l l.idx ∧ s.dev.posOut l.g home = false ∧ er =
    s.dev.erasures (dieOf l.g home) l.pa ∧ er + (10 - er) / 2 < n.val) ∧
    (∃ (dpa : Dpa) (v : _) (unk : StripeMask) (s : State) (f : _) (m : _), s.dev.cache.fetches.find? (fun f => f.line == dpa.toNat / 64 &&
    f.retry) = some f ∧ fastOk v = true ∧ s.dev.readLoc (s.dev.lineLoc (dpa.toNat / 64)) (if f.code ∨ f.around then .bad else v) unk.toNat
    = .direct m) :=
  ⟨⟨.a, 0, st (rg [(LIN_CACHE_CFG, 4)] (dt sv)), by decide +kernel⟩,
   ⟨0, .good 0, 0, st
    ({ dt sv with cache := { fetches := [{ line := 0, token := 0, waiters := [.host .a 1 0 0 0] }] }, drift := { cls := [(0, 3)] } }),
    { line := 0, token := 0, waiters := [.host .a 1 0 0 0] }, _, ⟨by decide +kernel, by decide +kernel, by decide +kernel,
    by decide +kernel, rfl⟩⟩,
   ⟨0, 5, [], st ({ dt sv with cache := { fetches := [{ line := 0, token := 0, fallback := true }] } }),
    { line := 0, token := 0, fallback := true }, _, _, _, _, ⟨by decide +kernel, rfl, rfl, by decide +kernel, rfl, by decide +kernel,
    rfl⟩⟩,
   ⟨0, 6, st ({ dt sv with cache := { fetches := [{ line := 0, token := 0, fallback := true }] } }),
    { line := 0, token := 0, fallback := true }, _, _, _, ⟨by decide +kernel, rfl, rfl, by decide +kernel, rfl, by decide +kernel⟩⟩,
   ⟨0, .good 0, 0, st ({ dt sv with cache := { fetches := [{ line := 0, token := 0, retry := true }] } }),
    { line := 0, token := 0, retry := true }, _, ⟨by decide +kernel, by decide +kernel, rfl⟩⟩⟩

/-- A state and operands that meet the hypotheses of `Obligations.FETCH_END_ANSWERS_HOSTS`. -/
theorem witness_FETCH_END_ANSWERS_HOSTS :
    ∃ (f : Fetch) (h : _) (tag : _) (t : _) (data : _) (mask : _), Waiter.host h tag t data mask ∈ f.waiters :=
  ⟨{ line := 0, token := 0, waiters := [.host .a 1 0 0 0] }, .a, 1, 0, 0, 0, by decide +kernel⟩

/-- States and operands that meet the hypotheses of `Obligations.GONDOLA_EVENTS`, clause by clause. -/
theorem witness_GONDOLA_EVENTS :
    (∃ (s : State) (l : _) (g : _), s.dev.pwr.svc ≠ .flush ∧ s.dev.raisedNow = true ∧ (s.dev.stagedList.filter s.dev.selectable).filter (fun e
    => e.2.preLaunch.isSome) = [] ∧ oldest (s.dev.stagedList.filter s.dev.selectable) = some (l, g) ∧ (s.dev.stagedList.filter
    s.dev.selectable).filter (fun e => e.1 != l && s.dev.samePage e.1 l) = [] ∧ s.dev.staged l = some g ∧ s.dev.wbEnt l = none ∧ g.mask =
    fullMask) ∧
    (∃ (bank : Fin 8) (m : Fin 10) (s : State), m.val ∉ Tbl.look [] s.dev.gon.macros bank.val) ∧
    (∃ (bank : Fin 8) (m : Fin 10) (s : State), m.val ∈ Tbl.look [] s.dev.gon.macros bank.val) ∧
    (∃ (dpa : Dpa) (s : State) (x : _), s.dev.cache.transit.find? (fun x => x.num == dpa.toNat / 4096) = some x ∧ s.dev.cache.transit.length ≤
    128 ∧ s.dev.cache.ballast.length ≤ 128) ∧
    (∃ (dpa : Dpa) (s : State), s.dev.cache.transit.find? (fun x => x.num == dpa.toNat / 4096) = none) ∧
    (∃ (w : Fin 12) (s : State), w.val ∉ s.dev.cache.badWays) ∧
    (∃ (dpa : Dpa), volBase ≤ dpa.toNat) ∧
    (∃ (st : SramStore), st ≠ .other ∧ st ≠ .gondola) ∧
    (∃ (st : SramStore) (dpa : Dpa) (s : State), (st = .other ∨ st = .gondola) ∧ (s.dev.cache.fetches.find? fun f => f.line == dpa.toNat / 64)
    = none ∧ s.dev.staged (dpa.toNat / 64) = none ∧ s.dev.wbEnt (dpa.toNat / 64) = none) :=
  ⟨⟨st (rg [(LIN_GND_CFG, 0)] { sv with gon := { staged := [(0, some { mask := fullMask })], withdrawn := true } }), 0, { mask := fullMask },
    by decide +kernel⟩,
   ⟨0, 0, st sv, by decide +kernel⟩,
   ⟨0, 0, st ({ sv with gon := { macros := [(0, [0])] } }), by decide +kernel⟩,
   ⟨0, st ({ sv with cache := { transit := [{ num := 0, valid := 1 }] } }), { num := 0, valid := 1 }, by decide +kernel⟩,
   ⟨0, st sv, by decide +kernel⟩,
   ⟨3, st sv, by decide +kernel⟩,
   ⟨0xF0000000000, by decide +kernel⟩,
   ⟨.cache, by decide +kernel⟩,
   ⟨.other, 0, st sv, by decide +kernel⟩⟩

/-- States and operands that meet the hypotheses of `Obligations.WRITE_BACK_COMPLETES`, clause by clause. -/
theorem witness_WRITE_BACK_COMPLETES :
    (∃ (dpa : Dpa) (s : State) (g : _), s.dev.wbEnt (dpa.toNat / 64) = some g ∧ g.gone = true) ∧
    (∃ (dpa : Dpa) (s : State) (g : _), s.dev.wbEnt (dpa.toNat / 64) = some g ∧ g.gone = false ∧ s.dev.wbHeld (dpa.toNat / 64) = true) ∧
    (∃ (dpa : Dpa) (s : State) (g : _), s.dev.wbEnt (dpa.toNat / 64) = some g ∧ g.gone = false ∧ s.dev.wbRoom (dpa.toNat / 64) = false) ∧
    (∃ (dpa : Dpa) (s : State) (g : GEntry) (m : _) (d2 : _), s.dev.sealLine s.fuse (s.dev.wbKey g.key (dpa.toNat / 64 * 64)) g.base (dpa.toNat
    / 64) g.data = some (m, d2) ∧ s.dev.wbEnt (dpa.toNat / 64) = some g ∧ g.gone = false ∧ s.dev.wbHeld (dpa.toNat / 64) = false ∧
    s.dev.wbRoom (dpa.toNat / 64) = true ∧ s.dev.snapHolds (dpa.toNat / 64 / 16384) = false ∧ g.mask = fullMask ∧ g.poison = false ∧
    g.reenc = false ∧ (s.dev.ent (dpa.toNat / 64 / 16384)).kind ∈ [1, 2] ∧ (s.dev.ent (dpa.toNat / 64 / 16384)).shr = false ∧ s.dev.mixed
    (dpa.toNat / 64 / 16384) = false) :=
  ⟨⟨0, st ({ sv with gon := { wb := [(0, some { mask := fullMask, gone := true })] } }), { mask := fullMask, gone := true },
    by decide +kernel⟩,
   ⟨0, st
    ({ dm [{ tract := 0, why := .wear, target := {}, source := {}, step := 4 }] [] sv with gon := { wb := [(0, some { mask := fullMask })] } }),
    { mask := fullMask }, by decide +kernel⟩,
   ⟨0, st
    ({ dt sv with gon := { wb := [(0, some { mask := fullMask })] }, media := { group := [(0, { populated := true, failedM := 7 })] } }),
    { mask := fullMask }, by decide +kernel⟩,
   ⟨0, st ({ dt sv with gon := { wb := [(0, some { data := 7, mask := fullMask })] } }), { data := 7, mask := fullMask }, _, _, ⟨rfl,
    by decide +kernel⟩⟩⟩

/-- States and operands that meet the hypotheses of `Obligations.SCRATCH_CHANGE`, clause by clause. -/
theorem witness_SCRATCH_CHANGE :
    (∃ (s : State), s.dev.cache.scrBusy = false) ∧
    (∃ (s : State), s.dev.cache.scrBusy = true) :=
  ⟨⟨st sv, by decide +kernel⟩,
   ⟨st ({ sv with cache := { scrBusy := true } }), by decide +kernel⟩⟩

/-- States and operands that meet the hypotheses of `Obligations.COMPATIBILITY_AND_INVALIDATION`, clause by clause. -/
theorem witness_COMPATIBILITY_AND_INVALIDATION :
    (∃ (s : State), portMode s.fuse s.dev ≠ .dualHead ∧ s.dev.cache.compatBusy = false ∧ s.dev.rbit LIN_CACHE_CFG 0 = false) ∧
    (∃ (s : State), portMode s.fuse s.dev = .dualHead) ∧
    (∃ (s : State), s.dev.cache.compatBusy = false ∧ s.dev.rbit LIN_CACHE_CFG 0 = true) ∧
    (∃ (s : State), s.dev.cache.compatBusy = true) ∧
    (∃ (n : Fin 48) (s : State), s.dev.cache.compatAct = true ∧ (s.dev.cmpEnt n.val).used = true ∧ s.dev.pinned < 40) ∧
    (∃ (n : Fin 48) (s : State), s.dev.cache.compatAct = true ∧ (s.dev.cmpEnt n.val).used = true) ∧
    (∃ (s : State), s.dev.cache.invBusy = false ∧ s.dev.reg LIN_INV_LEN ≠ 0) ∧
    (∃ (s : State), s.dev.cache.invOpen = [.host] ∧ (∀ c ∈ s.dev.lci.cmds, c.silent = false)) :=
  ⟨⟨st sv, by decide +kernel⟩,
   ⟨st (md .dualHead sv), by decide +kernel⟩,
   ⟨st (rg [(LIN_CACHE_CFG, 5)] { sv with cache := { compatAct := true } }), by decide +kernel⟩,
   ⟨st ({ sv with cache := { compatBusy := true } }), by decide +kernel⟩,
   ⟨3, st ({ sv with cache := { compatAct := true, cmp := [(3, { used := true })] } }), by decide +kernel⟩,
   ⟨3, st ({ sv with cache := { compatAct := true, cmp := [(3, { used := true, pin := true })] } }), by decide +kernel⟩,
   ⟨st (rg [(LIN_INV_LEN, 1)] { sv with cache := { ballast := [{ num := 0, valid := 1 }] } }), by decide +kernel⟩,
   ⟨st ({ sv with cache := { invOpen := [.host], invBusy := true } }), by decide +kernel⟩⟩

/-- States and operands that meet the hypotheses of `Obligations.TETHER_SOURCES`, clause by clause. -/
theorem witness_TETHER_SOURCES :
    (∃ (v : Reg32) (s : State), s.dev.rbit TTH_PTM_CFG 0 = false ∧ -2147484 ≤ v.toInt ∧ v.toInt ≤ 2147484) ∧
    (∃ (s : State), s.dev.rbit TTH_PTM_CFG 0 = true) ∧
    (∃ (s : State), s.dev.tether.slow = true) ∧
    (∃ (s : State), s.dev.inService = true) ∧
    (∃ (s : State), s.dev.tether.slow = false ∧ s.dev.rbit TTH_PTM_CFG 0 = true ∧ s.dev.ptmUp = true) ∧
    (∃ (s : State), (s.dev.tether.src = .acquiring ∨ s.dev.tether.src = .locked)) :=
  ⟨⟨2147484, st (rg [(TTH_PTM_CFG, 0)] sv), by decide +kernel⟩,
   ⟨st (rg [(TTH_PTM_CFG, 1)] sv), by decide +kernel⟩,
   ⟨st ({ sv with tether := { slow := true, acc64 := 63 } }), by decide +kernel⟩,
   ⟨st sv, by decide +kernel⟩,
   ⟨st (rg [(TTH_PTM_CFG, 1)] sv), by decide +kernel⟩,
   ⟨st ({ sv with tether := { sv.tether with src := .locked } }), by decide +kernel⟩⟩

/-- States and operands that meet the hypotheses of `Obligations.SCHEDULE_AND_TEST_WINDOWS`, clause by clause. -/
theorem witness_SCHEDULE_AND_TEST_WINDOWS :
    (∃ (s : State), s.dev.tether.now + 2000 < 2 ^ 64) ∧
    (∃ (s : State), s.dev.tether.now + 10000 < 2 ^ 64) ∧
    (∃ (m : DieId) (mode : _) (buf : _) (sent : _) (t : _) (s : State), sent = max s.dev.tether.now (s.dev.chan (m.val / 8)).caUntil + 4 ∧ t =
    (s.dev.die m.val).running.elim sent (fun p => max sent (p.start + tProg p.mode)) ∧ s.dev.populated s.fuse m.val = true ∧ s.dev.gate
    m.val t (tProg mode) = true ∧ s.dev.sharesAdmit m.val buf = true) ∧
    (∃ (m : DieId) (mode : _) (buf : _) (sent : _) (t : _) (s : State), sent = max s.dev.tether.now (s.dev.chan (m.val / 8)).caUntil + 4 ∧ t =
    (s.dev.die m.val).running.elim sent (fun p => max sent (p.start + tProg p.mode)) ∧ (s.dev.populated s.fuse m.val = false ∨ s.dev.gate
    m.val t (tProg mode) = false ∨ s.dev.sharesAdmit m.val buf = false)) ∧
    (∃ (m : DieId) (s : State) (p : _), (s.dev.die m.val).running = some p ∧ s.dev.tether.schedule = true) ∧
    (∃ (s : State) (n : _), s.dev.inService = true ∧
    ({ (s.dev.advance (dueMultiple s.dev.tether.now 1000000 s.dev.tether.winDone)) with tether := { (s.dev.advance (dueMultiple s.dev.tether.now 1000000 s.dev.tether.winDone)).tether with winDone := (s.dev.advance (dueMultiple s.dev.tether.now 1000000 s.dev.tether.winDone)).tether.now / 1000000 + 1 } }).rbit
    TTH_TWIN_CFG 0 = true ∧ s.dev.tether.twOpen = false ∧
    ({ (s.dev.advance (dueMultiple s.dev.tether.now 1000000 s.dev.tether.winDone)) with tether := { (s.dev.advance (dueMultiple s.dev.tether.now 1000000 s.dev.tether.winDone)).tether with winDone := (s.dev.advance (dueMultiple s.dev.tether.now 1000000 s.dev.tether.winDone)).tether.now / 1000000 + 1 } }).windowNext
    s.fuse = some n) ∧
    (∃ (s : State), s.dev.tether.twOpen = true) ∧
    (∃ (s : State), s.dev.tether.twOpen = false) :=
  ⟨⟨st sv, by decide +kernel⟩,
   ⟨st sv, by decide +kernel⟩,
   ⟨0, .slc, false, _, _, st (sp .flush 11 { sv with tether := { sv.tether with schedule := false } }), ⟨rfl, rfl, by decide +kernel⟩⟩,
   ⟨0, .slc, false, _, _, st ({ sv with tether := { sv.tether with now := 1950 } }), ⟨rfl, rfl, by decide +kernel⟩⟩,
   ⟨0, st (dd { running := some { buf := false, last := 0, mode := .slc, start := 1000000 } } sv),
    { buf := false, last := 0, mode := .slc, start := 1000000 }, by decide +kernel⟩,
   ⟨st (rg [(TTH_TWIN_CFG, 1)] (dc { trained := true, pending := true } sv)), 0, by decide +kernel⟩,
   ⟨st ({ sv with tether := { sv.tether with twOpen := true, twEnd := 1020000 } }), by decide +kernel⟩,
   ⟨st sv, by decide +kernel⟩⟩

/-- States and operands that meet the hypotheses of `Obligations.IDLE_STEP_TIME`, clause by clause. -/
theorem witness_IDLE_STEP_TIME :
    (∃ (s : State), s.pending = [] ∧ s.dev.tether.slow = false ∧ s.dev.tether.rate = 0 ∧ s.dev.tether.acc < 2 ^ 32 ∧ s.dev.tether.now < 2 ^ 64
    - 1) ∧
    (∃ (s : State), s.pending = [] ∧ s.dev.tether.slow = true ∧ s.dev.tether.acc64 < 64 ∧ s.dev.tether.now + 30518 < 2 ^ 64) ∧
    (∃ (s : State), s.pending = [] ∧ s.dev.tether.now < 2 ^ 64) :=
  ⟨⟨st sv, by decide +kernel⟩,
   ⟨{}, by decide +kernel⟩,
   ⟨st sv, by decide +kernel⟩⟩

/-- States and operands that meet the hypotheses of `Obligations.LAUNCH_SLOT_EVENTS`, clause by clause. -/
theorem witness_LAUNCH_SLOT_EVENTS :
    (∃ (h : _) (n : Fin 64) (v : Reg32) (s : State), s.dev.live = true ∧ slotWriter s.fuse s.dev h n.val = true ∧ bit v.toNat 31 = true ∧ bit
    v.toNat 30 = false ∧ s.dev.rbit (TTH_LAUNCH_ACT n.val) 31 = false ∧ s.dev.tether.now + 100 ≤ s.dev.reg64 (TTH_LAUNCH_TIME_LO n.val)) ∧
    (∃ (h : _) (n : Fin 64) (v : Reg32) (s : State), s.dev.live = true ∧ slotWriter s.fuse s.dev h n.val = true ∧ bit v.toNat 31 = false ∧
    s.dev.rbit (TTH_LAUNCH_ACT n.val) 31 = true ∧ (s.dev.tether.now : Int) < s.dev.due n.val) ∧
    (∃ (h : _) (n : Fin 64) (s : State), slotWriter s.fuse s.dev h n.val = false) ∧
    (∃ (n : Fin 64) (s : State), s.dev.live = true ∧ s.dev.rbit (TTH_LAUNCH_ACT n.val) 31 = true ∧ s.dev.slotFirst n.val = true ∧
    (s.dev.tether.now : Int) ≤ s.dev.due n.val) ∧
    (∃ (pin : Fin 8) (s : State) (t : _), (Tbl.look {} s.dev.gpio pin.val).pulseEnd = some t) :=
  ⟨⟨some .a, 0, 0x80000000, st (rg [(TTH_LAUNCH_TIME_LO 0, 1000100)] sv), by decide +kernel⟩,
   ⟨some .a, 0, 0, st ({ rg [(TTH_LAUNCH_ACT 0, 0x80000000)] sv with launch := [(0, { due := 1000100 })] }), by decide +kernel⟩,
   ⟨some .a, 32, st sv, by decide +kernel⟩,
   ⟨0, st ({ rg [(TTH_LAUNCH_ACT 0, 0x80000000)] sv with launch := [(0, { due := 1000100 })] }), by decide +kernel⟩,
   ⟨0, st ({ sv with gpio := [(0, { role := 1, high := true, pulseEnd := some 1001000 })] }), 1001000, by decide +kernel⟩⟩

/-- States and operands that meet the hypotheses of `Obligations.SNAPSHOT_EVENTS`, clause by clause. -/
theorem witness_SNAPSHOT_EVENTS :
    (∃ (h : Handle) (s : State) (x : _), s.dev.str.snaps.find? (fun y => y.handle == h.toNat) = some x ∧ x.fired.isSome = true ∧ x.built <
    x.size / 2 ^ 20 ∧ ((s.dev.ent (x.src / 2 ^ 20 + x.built)).kind = 1 ∨ (s.dev.ent (x.src / 2 ^ 20 + x.built)).kind = 2)) ∧
    (∃ (h : Handle) (s : State) (x : _) (t : _) (c : _), s.dev.str.snaps.find? (fun y => y.handle == h.toNat) = some x ∧ x.fired = some t ∧
    x.size / 2 ^ 20 ≤ x.built ∧ s.dev.preLeft h.toNat = false ∧ s.dev.cmd h.toNat = some c ∧ s.dev.Loud) :=
  ⟨⟨0, st
    ({ dt sv with str := { snaps := [{ handle := 0, win := 0, src := 0, size := 0x100000, dst := 0x100000, key := 0, fired := some 7 }] } }),
    { handle := 0, win := 0, src := 0, size := 0x100000, dst := 0x100000, key := 0, fired := some 7 }, by decide +kernel⟩,
   ⟨0, st
    ({ cs [{ entry := sq 5 [], state := 2 }] (dt sv) with str := { snaps := [{ handle := 0, win := 0, src := 0, size := 0x100000, dst := 0x100000, key := 0, fired := some 7, built := 1 }] } }),
    { handle := 0, win := 0, src := 0, size := 0x100000, dst := 0x100000, key := 0, fired := some 7, built := 1 }, 7,
    { entry := sq 5 [], state := 2 }, by decide +kernel⟩⟩

/-- States and operands that meet the hypotheses of `Obligations.FRAME_CODE_CORRECTS`, clause by clause. -/
theorem witness_FRAME_CODE_CORRECTS :
    (∃ (p : _), p < 2 ^ 49) ∧
    (∃ (p : _) (i : _), p < 2 ^ 49 ∧ i < 56) ∧
    (∃ (p : _) (i : _) (j : _), p < 2 ^ 49 ∧ i < j ∧ j < 56) :=
  ⟨⟨0x1ffffffffffff, by decide +kernel⟩,
   ⟨0x1ffffffffffff, 55, by decide +kernel⟩,
   ⟨0x1ffffffffffff, 0, 55, by decide +kernel⟩⟩

/-- States and operands that meet the hypotheses of `Obligations.DIE_READ_FRAMES`, clause by clause. -/
theorem witness_DIE_READ_FRAMES :
    (∃ (m : DieId) (pa : BitVec 27) (s : State), s.dev.populated s.fuse m.val = true ∧ (s.dev.die m.val).Listens s.dev.tether.now ∧ (s.dev.die
    m.val).busy = false ∧ Tbl.look 0 (s.dev.die m.val).bankUntil (bankOf pa.toNat) ≤ s.dev.tether.now) ∧
    (∃ (m : DieId) (pa : BitVec 27) (s : State), s.dev.populated s.fuse m.val = true ∧ (s.dev.die m.val).Listens s.dev.tether.now ∧ (s.dev.die
    m.val).busy = false ∧ Tbl.look 0 (s.dev.die m.val).bankUntil (bankOf pa.toNat) ≤ s.dev.tether.now ∧ s.dev.gate m.val (s.dev.tether.now
    + 4) 230 = true) ∧
    (∃ (m : DieId) (pa : BitVec 27) (s : State), s.dev.populated s.fuse m.val = true ∧ (s.dev.die m.val).Listens s.dev.tether.now ∧ (s.dev.die
    m.val).busy = false ∧ Tbl.look 0 (s.dev.die m.val).bankUntil (bankOf pa.toNat) ≤ s.dev.tether.now ∧ s.dev.gate m.val (s.dev.tether.now
    + 4) 400 = true) ∧
    (∃ (m : DieId) (s : State), s.dev.populated s.fuse m.val = true ∧ (s.dev.die m.val).Listens s.dev.tether.now ∧ (s.dev.die m.val).busy =
    true ∧ (s.dev.die m.val).refusedCnt < 255) ∧
    (∃ (m : DieId) (s : State), s.dev.gate m.val (s.dev.tether.now + 4) 230 = false ∧ s.dev.gate m.val (s.dev.tether.now + 4) 400 = false) :=
  ⟨⟨0, 2, st (dd { init := false } sv), by decide +kernel⟩,
   ⟨0, 2, st (dd { init := false } sv), by decide +kernel⟩,
   ⟨0, 2, st (dd { init := false } sv), by decide +kernel⟩,
   ⟨0, st (dd { init := false, running := some { buf := false, last := 0, mode := .slc, start := 0 } } sv), by decide +kernel⟩,
   ⟨16, st sv, by decide +kernel⟩⟩

/-- States and operands that meet the hypotheses of `Obligations.DIE_PROGRAM_FRAMES`, clause by clause. -/
theorem witness_DIE_PROGRAM_FRAMES :
    (∃ (m : DieId) (data : List MediaLine) (crc : BitVec 16) (s : State), s.dev.populated s.fuse m.val = true ∧ (s.dev.die m.val).Listens
    s.dev.tether.now ∧ (s.dev.pwr.svc = .flush ∨ (s.dev.chan (m.val / 8)).loaded < s.dev.fld MCH_BRIDLE_CFG 7 0) ∧ (s.dev.die
    m.val).running = none ∧ (s.dev.die m.val).queued = none ∧ crc16 (data.flatMap Sys2Proof.lineBytes) = crc.toNat) ∧
    (∃ (m : DieId) (buf : _) (last : Fin 16) (s : State), s.dev.populated s.fuse m.val = true ∧ (s.dev.die m.val).Listens s.dev.tether.now ∧
    s.dev.gate m.val (max s.dev.tether.now (s.dev.chan (m.val / 8)).caUntil + 4) (tProg .slc) = true ∧ s.dev.sharesAdmit m.val buf = true
    ∧ (s.dev.die m.val).running = none ∧ progRefused { s.dev.die m.val with echo := false } .slc buf last.val = false) ∧
    (∃ (m : DieId) (buf : _) (last : Fin 16) (s : State), s.dev.populated s.fuse m.val = true ∧ (s.dev.die m.val).Listens s.dev.tether.now ∧
    s.dev.gate m.val (max s.dev.tether.now (s.dev.chan (m.val / 8)).caUntil + 4) (tProg .mlc) = true ∧ s.dev.sharesAdmit m.val buf = true
    ∧ (s.dev.die m.val).running = none ∧ progRefused { s.dev.die m.val with echo := false } .mlc buf last.val = false) ∧
    (∃ (m : DieId) (buf : _) (last : Fin 16) (s : State) (r : _), s.dev.populated s.fuse m.val = true ∧ (s.dev.die m.val).Listens
    s.dev.tether.now ∧ s.dev.gate m.val (max (max s.dev.tether.now (s.dev.chan (m.val / 8)).caUntil + 4) (r.start + tProg r.mode)) (tProg
    .mlc) = true ∧ s.dev.sharesAdmit m.val buf = true ∧ (s.dev.die m.val).running = some r ∧ progRefused
    { s.dev.die m.val with echo := false } .mlc buf last.val = false) ∧
    (∃ (m : DieId) (buf : _) (s : State), (s.dev.sharesAdmit m.val buf = false ∨ s.dev.populated s.fuse m.val = false)) :=
  ⟨⟨0, [], 0xFFFF, st (dd { init := false } sv), by decide +kernel⟩,
   ⟨0, false, 0, st (dd { init := false, buf := [(0, some { pa := 2, data := [], valid := true })] } sv), by decide +kernel⟩,
   ⟨0, false, 0, st (dd { init := false, buf := [(0, some { pa := 2, data := [], valid := true })] } sv), by decide +kernel⟩,
   ⟨0, false, 0, st (dd
    { init := false, buf := [(0, some { pa := 2, data := [], valid := true })], running := some { buf := true, last := 0, mode := .mlc, start := 0 } }
    sv), { buf := true, last := 0, mode := .mlc, start := 0 }, by decide +kernel⟩,
   ⟨0, false, st ({ sv with media := {} }), by decide +kernel⟩⟩

/-- States and operands that meet the hypotheses of `Obligations.DIE_STATUS_FRAMES`, clause by clause. -/
theorem witness_DIE_STATUS_FRAMES :
    (∃ (m : DieId) (s : State), s.dev.populated s.fuse m.val = true ∧ (s.dev.die m.val).Listens s.dev.tether.now) ∧
    (∃ (m : DieId) (s : State), s.dev.populated s.fuse m.val = true ∧ (s.dev.die m.val).Listens s.dev.tether.now ∧ s.dev.trainTime (m.val / 8)
    = true ∧ (s.dev.die m.val).busy = false) ∧
    (∃ (m : DieId) (others : _) (addr : Byte) (s : State) (k : _), Addressed s.fuse s.dev m.val others k ∧ (s.dev.die k).Listens
    s.dev.tether.now ∧ (s.dev.die k).busy = false ∧ featMask addr.toNat ≠ 0) :=
  ⟨⟨0, st (dd { init := false, progFail := true, refusedCnt := 3 } sv), by decide +kernel⟩,
   ⟨0, st (sp .bringup 7 (dd { init := false } sv)), by decide +kernel⟩,
   ⟨0, 2, 0x1E, st ({ sv with media := { sv.media with die := [(1, { init := false })] } }), 1, by decide +kernel⟩⟩

/-- States and operands that meet the hypotheses of `Obligations.DIE_CONTROL_FRAMES`, clause by clause. -/
theorem witness_DIE_CONTROL_FRAMES :
    (∃ (m : DieId) (s : State), s.dev.populated s.fuse m.val = true ∧ (s.dev.die m.val).Listens s.dev.tether.now) ∧
    (∃ (m : DieId) (s : State), s.dev.populated s.fuse m.val = true ∧ (s.dev.die m.val).Listens s.dev.tether.now ∧ s.dev.trainTime (m.val / 8)
    = true ∧ (s.dev.die m.val).busy = false) ∧
    (∃ (m : DieId) (others : _) (s : State) (k : _), Addressed s.fuse s.dev m.val others k ∧ (∀ j, Addressed s.fuse s.dev m.val others j →
    s.dev.mayDown j = true) ∧ (s.dev.die k).Listens s.dev.tether.now) ∧
    (∃ (m : DieId) (others : _) (s : State) (k : _), Addressed s.fuse s.dev m.val others k ∧ (s.dev.die k).init = false ∧ (s.dev.die k).echo =
    false) ∧
    (∃ (m : DieId) (others : _) (s : State) (k : _), Addressed s.fuse s.dev m.val others k ∧ (s.dev.die k).echo = false ∧ (∀ j, Addressed
    s.fuse s.dev m.val others j → (s.dev.die j).busy = false ∨ (s.dev.ctl j).failed = true)) ∧
    (∃ (m : DieId) (s : State), s.dev.populated s.fuse m.val = true ∧ (s.dev.die m.val).init = false ∧ (s.dev.die m.val).echo = false ∧
    (s.dev.die m.val).pd = true) ∧
    (∃ (m : DieId) (s : State), s.dev.populated s.fuse m.val = true ∧ (s.dev.die m.val).echo = true ∧ s.dev.tether.now ≤ (s.dev.die
    m.val).ceHigh + 1000) :=
  ⟨⟨0, st (dd { init := false } sv), by decide +kernel⟩,
   ⟨0, st (sp .bringup 7 (dd { init := false } sv)), by decide +kernel⟩,
   ⟨0, 0, st (sp .flush 11 (dd { init := false } sv)), 0, ⟨by decide +kernel, fun j h => h.2.elim (fun e => e ▸ by decide +kernel) fun e =>
    absurd e.2 (by simp), by decide +kernel⟩⟩,
   ⟨0, 2, st ({ sv with media := { sv.media with die := [(1, { init := false, pd := true })] } }), 1, by decide +kernel⟩,
   ⟨0, 0, st (dd { init := false, pd := true } sv), 0, ⟨by decide +kernel, by decide +kernel, fun j h => h.2.elim (fun e => e ▸
    by decide +kernel) fun e => absurd e.2 (by simp)⟩⟩,
   ⟨0, st (dd { init := false, pd := true } sv), by decide +kernel⟩,
   ⟨0, st (dd { init := false, echo := true, ceHigh := 1000000 } sv), by decide +kernel⟩⟩

/-- States and operands that meet the hypotheses of `Obligations.TRAINING`, clause by clause. -/
theorem witness_TRAINING :
    (∃ (n : ChannelId) (s : State), (s.dev.chan n.val).trained = true ∧ (s.dev.chan n.val).failed = false) ∧
    (∃ (n : ChannelId) (s : State), (s.dev.chan n.val).trained = true ∧ (s.dev.chan n.val).failed = false ∧ (s.dev.chan n.val).lastRetrain + 10
    ^ 9 < 2 ^ 64) ∧
    (∃ (n : ChannelId) (s : State), s.dev.tether.twOpen = true ∧ s.dev.tether.twChan = n.val ∧ (s.dev.chan n.val).pending = true ∧ (s.dev.chan
    n.val).retrains < 65535) ∧
    (∃ (n : ChannelId) (s : State), s.dev.tether.twOpen = true ∧ s.dev.tether.twChan = n.val ∧ (s.dev.chan n.val).pending = true) ∧
    (∃ (n : ChannelId) (s : State), presentChan s.fuse n.val = true ∧ s.dev.diesPer (n.val / 10) ≠ 0 ∧ (s.dev.chan n.val).failed = false ∧
    (s.dev.chan n.val).trained = false ∧ s.dev.pwr.svc = .bringup ∧ s.dev.pwr.step = 7 ∧ bit s.dev.drift.badChan n.val = false) ∧
    (∃ (n : ChannelId) (passed : BitVec 8) (s : State), (s.dev.chan n.val).training = true ∧ ((s.dev.liveDies n.val).all fun m => !bit
    passed.toNat (m % 8)) = false) ∧
    (∃ (n : ChannelId) (passed : BitVec 8) (s : State), (s.dev.chan n.val).training = true ∧ (s.dev.chan n.val).attempts < 2 ∧ ((s.dev.liveDies
    n.val).all fun m => !bit passed.toNat (m % 8)) = true) ∧
    (∃ (n : ChannelId) (passed : BitVec 8) (s : State), (s.dev.chan n.val).training = true ∧ (s.dev.chan n.val).attempts = 2 ∧ (s.dev.chan
    n.val).failed = false ∧ presentChan s.fuse n.val = true ∧ s.dev.diesPer (n.val / 10) ≠ 0 ∧ ((s.dev.liveDies n.val).all fun m => !bit
    passed.toNat (m % 8)) = true) :=
  ⟨⟨0, st (dc { trained := true } sv), by decide +kernel⟩,
   ⟨0, st (dc { trained := true } sv), by decide +kernel⟩,
   ⟨0, st ({ sv with tether := { sv.tether with twOpen := true }, media := { chan := [(0, { trained := true, pending := true })] } }),
    by decide +kernel⟩,
   ⟨0, st ({ dc { trained := true, pending := true } sv with tether := { sv.tether with twOpen := true } }), by decide +kernel⟩,
   ⟨0, st (sp .bringup 7 sv), by decide +kernel⟩,
   ⟨0, 1, st ({ dc { training := true } sv with media := { (dc { training := true } sv).media with ctl := [(0, { present := true })] } }),
    by decide +kernel⟩,
   ⟨0, 0, st
    ({ dc { training := true, attempts := 1 } sv with media := { (dc { training := true, attempts := 1 } sv).media with ctl := [(0, { present := true })] } }),
    by decide +kernel⟩,
   ⟨0, 0, st
    ({ dc { training := true, attempts := 2 } sv with media := { (dc { training := true, attempts := 2 } sv).media with ctl := [(0, { present := true })] } }),
    by decide +kernel⟩⟩

/-- States and operands that meet the hypotheses of `Obligations.MEDIA_FAILURES`, clause by clause. -/
theorem witness_MEDIA_FAILURES :
    (∃ (n : ChannelId) (s : State), s.dev.inService = true ∧ (s.dev.chan n.val).failed = false ∧ presentChan s.fuse n.val = true ∧
    s.dev.diesPer (n.val / 10) ≠ 0) ∧
    (∃ (n : ChannelId) (cause : FailCause) (s : State), (s.dev.chan n.val).failed = false ∧ presentChan s.fuse n.val = true ∧ s.dev.diesPer
    (n.val / 10) ≠ 0 ∧ s.dev.chanCause n.val cause.val = true) ∧
    (∃ (m : DieId) (cause : FailCause) (s : State), (s.dev.ctl m.val).failed = false ∧ s.dev.populated s.fuse m.val = true ∧ s.dev.dieCause
    m.val cause.val = true) ∧
    (∃ (m : DieId) (n : ChannelId) (cause : FailCause) (s : State), s.dev.dieCause m.val cause.val = false ∧ s.dev.chanCause n.val cause.val =
    false) ∧
    (∃ (m : DieId) (st : BitVec 128) (s : State), bit st.toNat 4 = false ∧ bit st.toNat 5 = false ∧ bit st.toNat 6 = true ∧ (s.dev.ctl
    m.val).faultReset = none ∧ (s.dev.ctl m.val).statusGot = some st.toNat) ∧
    (∃ (m : DieId) (s : State), (s.dev.ctl m.val).faultPending = true ∧ (s.dev.die m.val).busy = false ∧ (s.dev.die m.val).echo = false) :=
  ⟨⟨0, st sv, by decide +kernel⟩,
   ⟨0, 3, st (dc { trained := true, twice := true } sv), by decide +kernel⟩,
   ⟨0, 5, st ({ sv with media := { sv.media with ctl := [(0, { present := true, faultAgain := true })] } }), by decide +kernel⟩,
   ⟨0, 0, 0, st sv, by decide +kernel⟩,
   ⟨0, 64, st ({ sv with media := { sv.media with ctl := [(0, { present := true, statusGot := some 64 })] } }), by decide +kernel⟩,
   ⟨0, st
    ({ dd { init := false, fault := true } sv with media := { (dd { init := false, fault := true } sv).media with ctl := [(0, { faultPending := true })] } }),
    by decide +kernel⟩⟩

/-- States and operands that meet the hypotheses of `Obligations.ALERTS_AND_PROGRAM_ENDS`, clause by clause. -/
theorem witness_ALERTS_AND_PROGRAM_ENDS :
    (∃ (n : ChannelId) (s : State), (s.dev.chan n.val).sent = []) ∧
    (∃ (n : ChannelId) (x : _) (s : State), (s.dev.chan n.val).sent = [x] ∧ ((x.time ≤ s.dev.tether.now ∧ s.dev.tether.now ≤ x.time + 12) ∨ (∃
    t, x.burst = some t ∧ t ≤ s.dev.tether.now ∧ s.dev.tether.now ≤ t + 12))) ∧
    (∃ (m : DieId) (s : State), (s.dev.die m.val).progFail = true ∧ s.dev.tether.now + 1000 < 2 ^ 64) ∧
    (∃ (m : DieId) (r : _) (s : State), (s.dev.die m.val).running = some r ∧ (s.dev.ctl m.val).thrOwed = false) ∧
    (∃ (m : DieId) (r : _) (mask : BitVec 16) (s : State), (s.dev.die m.val).running = some r ∧ (s.dev.ctl m.val).thrOwed = false ∧ bit
    mask.toNat 0 = true) :=
  ⟨⟨0, st sv, by decide +kernel⟩,
   ⟨0, ⟨999990, { m := 0, payload := pay 0x43 [] }, none, false⟩, st (dc
    { sent := [⟨999990, { m := 0, payload := pay 0x43 [] }, none, false⟩] } sv), ⟨by decide +kernel, .inl (by decide +kernel)⟩⟩,
   ⟨0, st (dd { progFail := true } sv), by decide +kernel⟩,
   ⟨0, { buf := false, last := 0, mode := .mlc, start := 0 }, st (dd
    { init := false, buf := [(0, some { pa := 2, data := [], valid := true })], running := some { buf := false, last := 0, mode := .mlc, start := 0 } }
    sv), by decide +kernel⟩,
   ⟨0, { buf := false, last := 0, mode := .mlc, start := 0 }, 1, st (dd
    { init := false, buf := [(0, some { pa := 2, data := [], valid := true })], running := some { buf := false, last := 0, mode := .mlc, start := 0 } }
    sv), by decide +kernel⟩⟩

/-- States and operands that meet the hypotheses of `Obligations.ROWS_AND_BRIDLE`, clause by clause. -/
theorem witness_ROWS_AND_BRIDLE :
    (∃ (g : GroupId) (row : BitVec 27) (s : State), s.dev.rowFree g.val row.toNat = true ∧ (s.dev.grp g.val).populated = true ∧ (s.dev.grp
    g.val).absent = false ∧ (s.dev.grp g.val).units < 3) ∧
    (∃ (g : GroupId) (row : BitVec 27) (s : State), (s.dev.rowFree g.val row.toNat = false ∨ 3 ≤ (s.dev.grp g.val).units)) ∧
    (∃ (g : GroupId) (row : BitVec 27) (s : State) (r : _), r ∈ s.dev.media.rows ∧ r.g = g.val ∧ r.pa = row.toNat) ∧
    (∃ (g : GroupId) (row : BitVec 27) (s : State) (r : _), s.dev.media.rows.find? (fun r => r.g == g.val && r.pa == row.toNat) = some r ∧
    r.left = 0) ∧
    (∃ (g : GroupId) (row : BitVec 27) (s : State) (r : _), s.dev.media.rows.find? (fun r => r.g == g.val && r.pa == row.toNat) = some r ∧
    r.left ≠ Nat.land r.left r.lost) ∧
    (∃ (d : Dev) (q : _) (l : _) (c : _), d.winner q l = some c) ∧
    (∃ (n : ChannelId) (b : _) (s : State), (s.dev.tick (100 + n.val) 4).tether.twOpen = false ∧ ((s.dev.tick (100 + n.val) 4).chan
    n.val).failed = false ∧ ((s.dev.tick (100 + n.val) 4).roundReads n.val (s.dev.tick (100 + n.val) 4).tether.now).winner (n.val / 10)
    (((s.dev.tick (100 + n.val) 4).roundReads n.val (s.dev.tick (100 + n.val) 4).tether.now).cands n.val (s.dev.tick (100 + n.val)
    4).tether.now) = some (.queued b) ∧ Tbl.look [] s.dev.media.bridle n.val = [b]) ∧
    (∃ (n : ChannelId) (s : State), (s.dev.tick (100 + n.val) 4).tether.twOpen = true ∧ (s.dev.tick (100 + n.val) 4).tether.twChan = n.val) ∧
    (∃ (i : _), i < 7) :=
  ⟨⟨0, 4, st sv, by decide +kernel⟩,
   ⟨0, 4, st ({ sv with media := { sv.media with group := [(0, { populated := true, failedM := 7 })] } }), by decide +kernel⟩,
   ⟨0, 4, st ({ sv with media := { sv.media with rows := [{ g := 0, pa := 4, mode := .slc }] } }), { g := 0, pa := 4, mode := .slc },
    by decide +kernel⟩,
   ⟨0, 4, st ({ sv with media := { sv.media with rows := [{ g := 0, pa := 4, mode := .slc }] } }), { g := 0, pa := 4, mode := .slc },
    by decide +kernel⟩,
   ⟨0, 4, st ({ sv with media := { sv.media with rows := [{ g := 0, pa := 4, mode := .slc, left := 1 }] } }),
    { g := 0, pa := 4, mode := .slc, left := 1 }, by decide +kernel⟩,
   ⟨{}, 0, [.queued { req := 0, seq := 0, units := 1 }], .queued { req := 0, seq := 0, units := 1 }, rfl⟩,
   ⟨0, { req := 0, seq := 0, units := 1 }, st ({ sv with media := { sv.media with bridle := [(0, [{ req := 0, seq := 0, units := 1 }])] } }),
    ⟨by decide +kernel, by decide +kernel, rfl, by decide +kernel⟩⟩,
   ⟨0, st ({ sv with tether := { sv.tether with twOpen := true } }), by decide +kernel⟩,
   ⟨6, by decide +kernel⟩⟩

/-- States and operands that meet the hypotheses of `Obligations.DRIFT_AND_SCRUB`, clause by clause. -/
theorem witness_DRIFT_AND_SCRUB :
    (∃ (dpa : Dpa) (x : _) (s : State), s.dev.drift.repair.contains (dpa.toNat / 64) = true ∧ s.dev.below (dpa.toNat / 64) = .fetch ∧
    (s.dev.rebuild (s.dev.lineLoc (dpa.toNat / 64)) 0).or (s.dev.mediaLine (dpa.toNat / 64)) = some x ∧ bit (s.dev.grp (s.dev.lineLoc
    (dpa.toNat / 64)).g).failedM (s.dev.dataPos (s.dev.lineLoc (dpa.toNat / 64)) (s.dev.lineLoc (dpa.toNat / 64)).idx) = false ∧
    s.dev.rowsOfQuad ((s.dev.lineLoc (dpa.toNat / 64)).g / 8) < 256 ∧ (∀ r ∈ s.dev.media.rows, ¬ (r.g = (s.dev.lineLoc (dpa.toNat / 64)).g
    ∧ r.pa = (s.dev.lineLoc (dpa.toNat / 64)).pa))) ∧
    (∃ (dpa : Dpa) (s : State), s.dev.drift.repair.contains (dpa.toNat / 64) = false) ∧
    (∃ (dpa : Dpa) (good : StripeMask) (c : _) (s : State), s.dev.drift.confirm.find? (fun c => c.line == dpa.toNat / 64) = some c ∧ (s.dev.ent
    (dpa.toNat / 64 / 16384)).kind = 1 ∧ s.dev.wbRoom (dpa.toNat / 64) = true ∧ bit good.toNat (s.dev.dataPos (s.dev.lineLoc (dpa.toNat /
    64)) (s.dev.lineLoc (dpa.toNat / 64)).idx) = true ∧ bit (s.dev.grp (s.dev.lineLoc (dpa.toNat / 64)).g).failedM (s.dev.dataPos
    (s.dev.lineLoc (dpa.toNat / 64)) (s.dev.lineLoc (dpa.toNat / 64)).idx) = false ∧ confirmGood s.fuse s.dev c (s.dev.stored
    (s.dev.lineLoc (dpa.toNat / 64)) (s.dev.dataPos (s.dev.lineLoc (dpa.toNat / 64)) (s.dev.lineLoc (dpa.toNat / 64)).idx)) = true) ∧
    (∃ (g : GroupId) (index : _) (pos : _) (codes : _) (s : State), s.dev.drift.surveying = true ∧ s.dev.holdsData g.val index = true ∧ 0 <
    s.dev.internFree .survey ∧ (∀ k ∈ s.dev.dataTracts, k / 2 ^ 19 < g.val → Tbl.look 0 s.dev.drift.cls k ≠ 0) ∧ s.dev.sampledAll g.val
    index (sampleList pos codes) = true) ∧
    (∃ (g : GroupId) (index : _) (pos : _) (codes : _) (s : State), s.dev.holdsData g.val index = true ∧ 0 < s.dev.internFree .survey ∧
    s.dev.drift.resurvey.contains (physKey g.val index) = true ∧ s.dev.sampledAll g.val index (sampleList pos codes) = true) ∧
    (∃ (m : DieId) (s : State), s.dev.populated s.fuse m.val = true ∧ (s.dev.die m.val).busy = false ∧ (s.dev.die m.val).pd = false) ∧
    (∃ (l : List (Nat × List (Int × Nat))), (∃ e ∈ l, e.1 < 15)) ∧
    (∃ (s : State), s.dev.pwr.replayDone = true ∧ s.dev.drift.saveDue = true) ∧
    (∃ (s : State), s.dev.drift.saveDue = false) ∧
    (∃ (tract : _) (row : Fin 512) (s : State), (s.dev.ent tract).kind = 1 ∧ s.dev.fld MCH_DRF_CFG 23 16 ≠ 0 ∧ 0 < s.dev.internFree .scrub ∧ (∀
    x ∈ (s.dev.rowLines tract row.val).filter s.dev.isWritten, tagBad s.fuse s.dev x = false)) :=
  ⟨⟨0, _, st ({ dt sv with drift := { repair := [0] } }), ⟨by decide +kernel, by decide +kernel, rfl, by decide +kernel⟩⟩,
   ⟨0, st sv, by decide +kernel⟩,
   ⟨0, 0xFF, { line := 0, key := 1, base := 0 }, st ({ dt sv with drift := { confirm := [{ line := 0, key := 1, base := 0 }] } }),
    by decide +kernel⟩,
   ⟨0, 0, ((List.range 10).flatMap fun p => [Fin.ofNat 10 p, Fin.ofNat 10 p]), (List.replicate 20 0), st
    ({ dt sv with drift := { surveying := true } }), by decide +kernel⟩,
   ⟨0, 0, ((List.range 10).flatMap fun p => [Fin.ofNat 10 p, Fin.ofNat 10 p]), (List.replicate 20 0), st
    ({ dt sv with drift := { resurvey := [0] } }), by decide +kernel⟩,
   ⟨0, st (dd { init := false } sv), by decide +kernel⟩,
   ⟨[(3, [])], by decide +kernel⟩,
   ⟨st ({ sv with drift := { cls := [(0, 3)], saveDue := true } }), by decide +kernel⟩,
   ⟨st sv, by decide +kernel⟩,
   ⟨0, 255, st (rg [(MCH_DRF_CFG, 0x10000 + 0x8)] (dt sv)), by decide +kernel⟩⟩

/-- States and operands that meet the hypotheses of `Obligations.MIGRATION_STEPS`, clause by clause. -/
theorem witness_MIGRATION_STEPS :
    (∃ (tract : _) (why : Fin 9) (x : _) (d1 : _) (s : State), s.dev.take (s.dev.migNeed tract (whyOf why.val)).1 3 (s.dev.migNeed tract (whyOf
    why.val)).2 (if whyOf why.val = .rebuild ∧ s.dev.usable (s.dev.ent tract).group then some (s.dev.ent tract).group else none) = some
    (x, d1) ∧ s.dev.tracts.queued.any (fun q => q.1 == tract && decide (q.2 = whyOf why.val)) = true ∧ s.dev.migTurn tract (whyOf why.val)
    = true ∧ s.dev.internFree .migration ≠ 0 ∧ tract < 2 ^ 24 ∧ (s.dev.ent tract).kind = 1 ∧ (∀ m ∈ s.dev.tracts.migs, m.tract ≠ tract) ∧
    (waitsHold (whyOf why.val) = false ∨ 1024 + s.dev.pHome < s.dev.availU) ∧ whyOf why.val ≠ .rekey ∧ s.dev.sec.rekey = none ∧ (∀ c ∈
    s.dev.lci.cmds, c.silent = false)) ∧
    (∃ (tract : _) (s : State), (s.dev.migTurn tract .refresh = false ∨ s.dev.internFree .migration = 0)) ∧
    (∃ (tract : _) (x : _) (d1 : _) (s : State), s.dev.take (s.dev.migNeed tract .refresh).1 3 (s.dev.migNeed tract .refresh).2 none = some (x,
    d1) ∧ (tract, MigWhy.refresh) ∈ s.dev.tracts.queued ∧ s.dev.migTurn tract .refresh = true ∧ s.dev.internFree .migration ≠ 0 ∧ tract <
    2 ^ 24 ∧ (s.dev.ent tract).kind = 1 ∧ (∀ m ∈ s.dev.tracts.migs, m.tract ≠ tract)) ∧
    (∃ (tract : _) (m : _) (s : State), s.dev.tracts.migs = [m] ∧ m.tract = tract ∧ m.step = 2 ∧ m.why = .rekey ∧ m.marked = []) ∧
    (∃ (tract : _) (m : _) (s : State), s.dev.tracts.migs = [m] ∧ m.tract = tract ∧ m.step = 2 ∧ m.why ≠ .rekey) ∧
    (∃ (tract : _) (m : _) (s : State), s.dev.tracts.migs = [m] ∧ m.tract = tract ∧ m.step = 5) ∧
    (∃ (tract : _) (m : _) (s : State), s.dev.tracts.migs = [m] ∧ m.tract = tract ∧ m.step = 6 ∧ m.why = .relocate ∧ s.dev.snapHolds tract =
    false ∧ (s.dev.ent tract).shr = false ∧ s.dev.sec.rekey = none ∧ (∀ c ∈ s.dev.lci.cmds, c.silent = false)) ∧
    (∃ (tract : _) (m : _) (s : State), s.dev.tracts.migs = [m] ∧ m.tract = tract ∧ m.step = 7 ∧ s.dev.sec.rekey = none ∧ (∀ c ∈
    s.dev.lci.cmds, c.silent = false) ∧ m.releaseAt < 2 ^ 64) :=
  ⟨⟨0, 2, _, _, st (dm [] [(0, .wear)] (dt sv)), ⟨rfl, by decide +kernel⟩⟩,
   ⟨1, st (dm [] [(0, .rebuild)] { dt sv with media := { group := [(0, { populated := true, failedM := 3 })] } }), by decide +kernel⟩,
   ⟨0, _, _, st (dm [] [(0, .refresh)] (dt sv)), ⟨rfl, by decide +kernel⟩⟩,
   ⟨0, { tract := 0, why := .rekey, target := {}, source := {} }, st (dm [{ tract := 0, why := .rekey, target := {}, source := {} }] [] (dt
    sv)), by decide +kernel⟩,
   ⟨0, { tract := 0, why := .wear, target := { kind := 1, index := 2 }, source := { kind := 1 } }, st (dm
    [{ tract := 0, why := .wear, target := { kind := 1, index := 2 }, source := { kind := 1 } }] [] (dt sv)), by decide +kernel⟩,
   ⟨0, { tract := 0, why := .wear, target := { kind := 1, index := 2 }, source := { kind := 1 }, step := 5 }, st (dm
    [{ tract := 0, why := .wear, target := { kind := 1, index := 2 }, source := { kind := 1 }, step := 5 }] [] (dt sv)),
    by decide +kernel⟩,
   ⟨0, { tract := 0, why := .relocate, target := { kind := 1, index := 2 }, source := { kind := 1 }, step := 6 }, st (dm
    [{ tract := 0, why := .relocate, target := { kind := 1, index := 2 }, source := { kind := 1 }, step := 6 }] [] (dt sv)),
    by decide +kernel⟩,
   ⟨0, { tract := 0, why := .relocate, target := { kind := 1, index := 2 }, source := { kind := 1 }, step := 7, releaseAt := 1010000 }, st
    (dm [{ tract := 0, why := .relocate, target := { kind := 1, index := 2 }, source := { kind := 1 }, step := 7, releaseAt := 1010000 }]
    [] (dt sv)), by decide +kernel⟩⟩

/-- States and operands that meet the hypotheses of `Obligations.TRACT_UPKEEP_AND_WEAR`, clause by clause. -/
theorem witness_TRACT_UPKEEP_AND_WEAR :
    (∃ (line : _) (l : _) (s : State), l ∈ s.dev.tracts.tc ∧ l.id = line ∧ l.dirty.isSome = true) ∧
    (∃ (page : _) (p : _) (c : _) (s : State), s.dev.ctrPlace page = some p ∧ Tbl.look none s.dev.sec.ctr p = some c ∧ c.dirty.isSome = true) ∧
    (∃ (tract : _) (s : State), s.dev.gapReady tract = true ∧ 0 < s.dev.internFree .other) ∧
    (∃ (tract : _) (s : State), s.dev.gapReady tract = false) ∧
    (∃ (tract : _) (s : State), s.dev.tracts.gaps.contains tract = true ∧ s.dev.locRoom (s.dev.homeLoc (s.dev.ent tract) (gapStep (s.dev.hdr
    tract)).2) = true) ∧
    (∃ (due : _) (s : State), due = dueMultiple s.dev.tether.now (s.dev.fld MTL_HEAT_CFG 7 0 * 10 ^ 9) (Tbl.look 0 s.dev.tether.ticks 8) ∧ due
    < 2 ^ 64 ∧ 0 < s.dev.fld MTL_HEAT_CFG 7 0) ∧
    (∃ (s : State) (d : _), d = s.dev.tick 9 10000000 ∧ s.dev.tracts.freeing = [] ∧ s.dev.tracts.sealed = false ∧ s.dev.tracts.floorWarn =
    false ∧ d.floorOf ≤ d.availU) ∧
    (∃ (s : State), s.dev.keel.ready = true ∧ s.dev.pwr.restored = true) ∧
    (∃ (f : _) (x : _) (far : _) (s : State), far = (((s.dev.tracts.cur.ent.filter fun e => e.2.kind == 1).map fun e => ((s.dev.phys e.2.group
    e.2.index).wear, e.1)).filter fun y => decide (s.dev.fld MTL_WL_CFG 15 0 ≠ 0 ∧ y.1 + s.dev.fld MTL_WL_CFG 15 0 < f.1)) ∧ leastOf
    (s.dev.allocGroups.flatMap fun g => s.dev.freeCands g) = some f ∧ leastOf far = some x ∧ (∀ y ∈ far, (s.dev.phys (s.dev.ent y.2).group
    ((s.dev.ent y.2).index + 1 - 2 * ((s.dev.ent y.2).index % 2))).state ≠ 8) ∧ s.dev.wearBusy ((s.dev.ent x.2).group / 8) = false ∧ (∀ q
    ∈ s.dev.tracts.queued, q.1 ≠ x.2) ∧ (∀ m ∈ s.dev.tracts.migs, m.tract ≠ x.2)) ∧
    (∃ (s : State), s.dev.fld MTL_WL_CFG 15 0 = 0) ∧
    (∃ (s : State), s.dev.tracts.floorWarn = true ∧ s.dev.tracts.floorPosted + 24 * 3600 * 10 ^ 9 < 2 ^ 64) ∧
    (∃ (s : State), s.dev.tracts.sealed = false ∧ s.dev.availU ≤ 1024 + s.dev.pHome ∧ s.dev.stagedList.all (fun e => e.2.translated) = true ∧
    s.dev.pwr.replayDone = true ∧ (∀ c ∈ s.dev.lci.cmds, c.silent = false)) ∧
    (∃ (s : State), 1024 + s.dev.pHome < s.dev.availU) :=
  ⟨⟨0, { id := 0, dirty := some 1 }, st ({ dt sv with tracts := { (dt sv).tracts with tc := [{ id := 0, dirty := some 1 }] } }),
    by decide +kernel⟩,
   ⟨0, _, { line := {}, dirty := some 1 }, st
    ({ rg [(LNK_TWIN_CTL 0, 0x115), (LNK_TWIN_LIMIT_LO 0, 0)] sv with tracts := { cur := { ent := [(0, { kind := 1 })], hdr := [(0, { ctr := some { group := 0, pair := 0, block := 0 } })] } }, sec := { slots := [(1, { state := 1, kind := 2 })], ctr := [(ctrKey { group := 0, pair := 0, block := 0 } 0, some { line := {}, dirty := some 1 })] } }),
    ⟨rfl, by decide +kernel⟩⟩,
   ⟨0, st (rg [(MTL_GAP_CFG, 1)]
    { dt sv with tracts := { (dt sv).tracts with cur := { (dt sv).tracts.cur with hdr := [(0, { wcnt := 16 })] } } }), by decide +kernel⟩,
   ⟨0, st sv, by decide +kernel⟩,
   ⟨0, st ({ dt sv with tracts := { (dt sv).tracts with gaps := [0] } }), by decide +kernel⟩,
   ⟨_, st (rg [(MTL_HEAT_CFG, 1)] sv), ⟨rfl, by decide +kernel⟩⟩,
   ⟨st sv, _, ⟨rfl, by decide +kernel⟩⟩,
   ⟨st sv, by decide +kernel⟩,
   ⟨(500, 524287), (0, 0), _, st (rg [(MTL_WL_CFG, 400)]
    { sv with tracts := { areas := [⟨0, 0, 10, 0, 262143⟩], cur := { ent := [(0, { kind := 1, index := 524286 })], phys := [(524286, { state := 1, refs := 1 }), (524287, { wear := 500 })] } } }),
    ⟨rfl, by decide +kernel⟩⟩,
   ⟨st (rg [(MTL_WL_CFG, 0)] sv), by decide +kernel⟩,
   ⟨st ({ sv with tracts := { floorWarn := true } }), by decide +kernel⟩,
   ⟨st ({ sv with media := {} }), by decide +kernel⟩,
   ⟨st sv, by decide +kernel⟩⟩

/-- States and operands that meet the hypotheses of `Obligations.QUEUE_PAIRS`, clause by clause. -/
theorem witness_QUEUE_PAIRS :
    (∃ (h : _) (n : Fin 64) (v : Reg32) (s : State), s.dev.live = true ∧ pairMine s.fuse s.dev h n.val = true ∧ s.dev.qpOn n.val = false ∧
    (s.dev.qp n.val).idle = true ∧ bit v.toNat 31 = true ∧ bits v.toNat 15 0 ≠ 0) ∧
    (∃ (h : _) (n : Fin 64) (v : Reg32) (s : State), s.dev.live = true ∧ pairMine s.fuse s.dev h n.val = true ∧ s.dev.qpOn n.val = false ∧
    (s.dev.qp n.val).idle = true ∧ bit v.toNat 31 = true ∧ bits v.toNat 15 0 = 0) ∧
    (∃ (h : _) (n : Fin 64) (v : Reg32) (s : State), s.dev.live = true ∧ pairMine s.fuse s.dev h n.val = true ∧ s.dev.qpOn n.val = true ∧ bit
    v.toNat 31 = false ∧ s.dev.lci.cmds = [] ∧ s.dev.lci.locks = []) ∧
    (∃ (n : Fin 64) (s : State), s.dev.pairCmds n.val = [] ∧ (s.dev.qp n.val).out = []) ∧
    (∃ (h : _) (n : Fin 64) (v : Reg32) (s : State) (k : _) (old : _) (hd : _), s.dev.live = true ∧ pairMine s.fuse s.dev h n.val = true ∧ k =
    s.dev.depth n.val ∧ old = s.dev.fld (MBX_SQ_DB n.val) 15 0 ∧ hd = (s.dev.qp n.val).sqHead ∧ bits v.toNat 15 0 < k ∧ (old + k - hd) % k
    ≤ (bits v.toNat 15 0 + k - hd) % k) ∧
    (∃ (h : _) (n : Fin 64) (v : Reg32) (s : State), s.dev.live = true ∧ pairMine s.fuse s.dev h n.val = true ∧ s.dev.depth n.val ≤ bits
    v.toNat 15 0) ∧
    (∃ (h : _) (n : Fin 64) (v : Reg32) (s : State) (k : _) (old : _), s.dev.live = true ∧ pairMine s.fuse s.dev h n.val = true ∧ k =
    s.dev.depth n.val ∧ old = s.dev.fld (MBX_CQ_DB n.val) 15 0 ∧ bits v.toNat 15 0 < k ∧ (s.dev.qp n.val).out = [] ∧ (bits v.toNat 15 0 +
    k - old) % k ≤ ((s.dev.qp n.val).cqTail + k - old) % k) ∧
    (∃ (n : Fin 64) (s : State), turnOf s.fuse s.dev n.val = true ∧ (s.dev.qp n.val).sqHead + 1 < s.dev.depth n.val) ∧
    (∃ (h : Handle) (c : _) (hd : _) (q : _) (a : _) (s : State), hd = pairHead s.fuse s.dev (qpOf h.toNat) ∧ q = s.dev.qp (qpOf h.toNat) ∧
    s.dev.lci.cmds.find? (fun c => c.handle == h.toNat && c.state == 4) = some c ∧ q.out.head? = some h.toNat ∧ s.dev.fwRuns = true ∧
    s.dev.cqRoom (qpOf h.toNat) = true ∧ (s.dev.head hd).dstate = 0 ∧ (s.dev.head hd).linkUp = true ∧ c.d3hold = false ∧ q.cqTail + 1 <
    s.dev.depth (qpOf h.toNat) ∧ a = s.dev.reg64 (MBX_QP_CQ_BASE_LO (qpOf h.toNat)) + 64 * q.cqTail) :=
  ⟨⟨.a, 0, 0x80000003, st sv, by decide +kernel⟩,
   ⟨.a, 0, 0x80000000, st sv, by decide +kernel⟩,
   ⟨.a, 0, 0, st (rg [(MBX_QP_CFG 0, 0x80000003)] sv), by decide +kernel⟩,
   ⟨0, st ({ sv with lci := { sv.lci with qp := [(0, { idle := false })] } }), by decide +kernel⟩,
   ⟨.a, 0, 3, st (rg [(MBX_QP_CFG 0, 0x80000003), (MBX_SQ_DB 0, 1)] sv), 4, 1, 0, by decide +kernel⟩,
   ⟨.a, 0, 4, st (rg [(MBX_QP_CFG 0, 0x80000003)] sv), by decide +kernel⟩,
   ⟨.a, 0, 1, st (rg [(MBX_QP_CFG 0, 0x80000003)] { sv with lci := { sv.lci with qp := [(0, { cqTail := 2 })] } }), 4, 0, by decide +kernel⟩,
   ⟨0, st (rg [(MBX_QP_CFG 0, 0x80000003), (MBX_SQ_DB 0, 1)] sv), by decide +kernel⟩,
   ⟨0, { entry := sq 0x40 [], state := 4, status := 0 }, .a, { out := [0] }, 4096, st
    ({ cs [{ entry := sq 0x40 [], state := 4, status := 0 }] (rg [(MBX_QP_CFG 0, 0x80000003), (MBX_QP_CQ_BASE_LO 0, 4096)] sv) with lci := { sv.lci with qp := [(0, { out := [0] })], cmds := [{ entry := sq 0x40 [], state := 4, status := 0 }] } }),
    by decide +kernel⟩⟩

/-- States and operands that meet the hypotheses of `Obligations.STREAM_LISTS`, clause by clause. -/
theorem witness_STREAM_LISTS :
    (∃ (c : Fin 64) (s : State), (s.dev.schan c.val).state = .running ∧ (s.dev.schan c.val).kind ≠ .verify ∧ (s.dev.schan c.val).lastSeen =
    false ∧ (s.dev.schan c.val).ahead = [] ∧ (s.dev.schan c.val).listDev = false) ∧
    (∃ (c : Fin 64) (why : OutEnd) (s : State), (s.dev.schan c.val).state = .running ∧ (s.dev.schan c.val).kind ≠ .verify ∧ (s.dev.schan
    c.val).lastSeen = false ∧ (s.dev.schan c.val).ahead = [] ∧ (s.dev.schan c.val).listDev = false ∧ (s.dev.schan c.val).pendFault = none
    ∧ why ≠ .ok ∧ s.dev.noTimeout (s.dev.schan c.val).head why = false) ∧
    (∃ (c : Fin 64) (a : _) (b : _) (l : _) (s : State), (s.dev.schan c.val).runs = [] ∧ (s.dev.schan c.val).state = .running ∧ (s.dev.schan
    c.val).lastSeen = false ∧ (s.dev.schan c.val).ahead = (a, b) :: l ∧ (descOf b).link = true ∧ linkOk (descOf b) = true ∧ (s.dev.schan
    c.val).executed + 1 < (s.dev.schan c.val).limit) ∧
    (∃ (c : Fin 64) (a : _) (b : _) (l : _) (s : State), (s.dev.schan c.val).runs = [] ∧ (s.dev.schan c.val).state = .running ∧ (s.dev.schan
    c.val).lastSeen = false ∧ (s.dev.schan c.val).ahead = (a, b) :: l ∧ (descOf b).link = false ∧ ((s.dev.schan c.val).executed + 1 <
    (s.dev.schan c.val).limit ∨ (descOf b).last = true) ∧ dataOk s.fuse s.dev (s.dev.schan c.val) (descOf b) = true ∧ rightsOk s.fuse
    s.dev (s.dev.schan c.val) (descOf b) = true ∧ s.dev.windowBreak (s.dev.schan c.val) (descOf b) = false ∧ copyWaits (s.dev.schan c.val)
    (descOf b) = false ∧ s.dev.listRoom (s.dev.schan c.val) = true ∧ ((s.dev.schan c.val).lanes = true → s.dev.laneFree c.val (descOf b) =
    true) ∧ (s.dev.schan c.val).kind ≠ .install) ∧
    (∃ (c : Fin 64) (a : _) (b : _) (l : _) (s : State), (s.dev.schan c.val).runs = [] ∧ (s.dev.schan c.val).state = .running ∧ (s.dev.schan
    c.val).lastSeen = false ∧ (s.dev.schan c.val).ahead = (a, b) :: l ∧ (s.dev.schan c.val).limit ≤ (s.dev.schan c.val).executed + 1 ∧
    ((descOf b).link = true ∨ (descOf b).last = false) ∧ (s.dev.schan c.val).pendFault = none) ∧
    (∃ (c : Fin 64) (a : _) (b : _) (l : _) (s : State), (s.dev.schan c.val).runs = [] ∧ (s.dev.schan c.val).state = .running ∧ (s.dev.schan
    c.val).lastSeen = false ∧ (s.dev.schan c.val).ahead = (a, b) :: l ∧ (descOf b).link = false ∧ ((s.dev.schan c.val).executed + 1 <
    (s.dev.schan c.val).limit ∨ (descOf b).last = true) ∧ dataOk s.fuse s.dev (s.dev.schan c.val) (descOf b) = false ∧ (s.dev.schan
    c.val).pendFault = none) ∧
    (∃ (c : Fin 64) (s : State), (s.dev.schan c.val).kind = .verify ∧ (s.dev.schan c.val).state = .running ∧ (s.dev.schan c.val).vDone <
    (s.dev.schan c.val).vLines ∧ 0 < (s.dev.schan c.val).reads + s.dev.internFree .stream) ∧
    (∃ (c : Fin 64) (v : _) (r : _) (x : _) (y : _) (z : _) (d : _) (d1 : _) (s : State), x = s.dev.schan c.val ∧ x.kind = .stream ∧ x.state =
    .running ∧ x.runs = [r] ∧ r.ended = false ∧ x.srcDone r = false ∧ y = (s.dev.pump c.val).schan c.val ∧ 0 < y.reads ∧ d = (s.dev.pump
    c.val).setSchan c.val { y with reads := y.reads - 1 } ∧ peekAddr s.fuse d x.head x.key x.base ((descOf r.desc).src / 64 * 64 + 64 *
    r.src.length) v = (.data z, d1) ∧ (d1.schan c.val).srcDone { r with src := r.src ++ [some z] } = false) ∧
    (∃ (c : Fin 64) (r : _) (a : _) (s : State), (s.dev.schan c.val).kind = .stream ∧ (s.dev.schan c.val).runs = [r] ∧ r.ended = false ∧
    r.confirming = false ∧ a = (descOf r.desc).dst + r.sent ∧ min (a - a % 64 + 512) (a - a % 4096 + 4096) - a ≤ (goodBytes (runOut s.fuse
    s.dev (s.dev.schan c.val) r)).length - r.sent ∧ (s.dev.schan c.val).srcDone r = false) ∧
    (∃ (c : Fin 64) (r : _) (s : State), (s.dev.schan c.val).kind = .stream ∧ (s.dev.schan c.val).runs = [r] ∧ r.ended = false ∧ r.confirming =
    true ∧ r.fault = 0) ∧
    (∃ (c : Fin 64) (why : OutEnd) (r : _) (s : State), (s.dev.schan c.val).state = .running ∧ (s.dev.schan c.val).runs = [r] ∧ r.ended = false
    ∧ r.confirming = true ∧ why ≠ .ok ∧ s.dev.noTimeout (descOf r.desc).head why = false ∧ (s.dev.schan c.val).pendFault = none) ∧
    (∃ (c : Fin 64) (m : _) (s : State), (s.dev.schan c.val).state = .running ∧ (s.dev.schan c.val).kind = .stream ∧ (s.dev.schan c.val).runs =
    [] ∧ (s.dev.schan c.val).lastSeen = true ∧ (s.dev.schan c.val).pendFault = none ∧ s.dev.cmd (s.dev.schan c.val).handle = some m ∧ (∀ c
    ∈ s.dev.lci.cmds, c.silent = false)) :=
  ⟨⟨0, st (dx { state := .running, next := 4096, limit := 9 } sv), by decide +kernel⟩,
   ⟨0, .timeout, st (dx { state := .running, next := 4096, limit := 9 } sv), by decide +kernel⟩,
   ⟨0, 4096, BitVec.ofNat 256 (8192 + 2 ^ 192), [], st (dx
    { state := .running, ahead := [(4096, BitVec.ofNat 256 (8192 + 2 ^ 192))], limit := 9 } sv), by decide +kernel⟩,
   ⟨0, 4096, BitVec.ofNat 256 (4096 + 2 ^ 64 * 8192 + 2 ^ 128 * 64), [], st (dx
    { state := .running, ahead := [(4096, BitVec.ofNat 256 (4096 + 2 ^ 64 * 8192 + 2 ^ 128 * 64))], limit := 9 } sv), by decide +kernel⟩,
   ⟨0, 4096, 0, [], st (dx { state := .running, ahead := [(4096, 0)], limit := 1 } sv), by decide +kernel⟩,
   ⟨0, 4096, 0, [], st (dx { state := .running, ahead := [(4096, 0)], limit := 9 } sv), by decide +kernel⟩,
   ⟨0, st (dx { kind := .verify, state := .running, vLines := 2 } sv), by decide +kernel⟩,
   ⟨0, .good 0, { idx := 0, addr := 0, desc := BitVec.ofNat 256 (2 ^ 128 * 128) }, _, _, _, _, _, st (dx
    { state := .running, runs := [{ idx := 0, addr := 0, desc := BitVec.ofNat 256 (2 ^ 128 * 128) }] } sv), ⟨rfl, by decide +kernel,
    by decide +kernel, by decide +kernel, by decide +kernel, by decide +kernel, rfl, by decide +kernel, rfl, rfl, by decide +kernel⟩⟩,
   ⟨0, { idx := 0, addr := 0, desc := BitVec.ofNat 256 (2 ^ 64 * 4096 + 2 ^ 128 * 1024), src := List.replicate 8 (some 7) }, 4096, st (dx
    { state := .running, runs := [{ idx := 0, addr := 0, desc := BitVec.ofNat 256 (2 ^ 64 * 4096 + 2 ^ 128 * 1024), src := List.replicate 8 (some 7) }] }
    sv), by decide +kernel⟩,
   ⟨0, { idx := 0, addr := 0, desc := BitVec.ofNat 256 (2 ^ 128 * 64), sent := 64, confirming := true }, st (dx
    { state := .running, runs := [{ idx := 0, addr := 0, desc := BitVec.ofNat 256 (2 ^ 128 * 64), sent := 64, confirming := true }] } sv),
    by decide +kernel⟩,
   ⟨0, .timeout, { idx := 0, addr := 0, desc := BitVec.ofNat 256 (2 ^ 128 * 64), sent := 64, confirming := true }, st (dx
    { state := .running, runs := [{ idx := 0, addr := 0, desc := BitVec.ofNat 256 (2 ^ 128 * 64), sent := 64, confirming := true }] } sv),
    by decide +kernel⟩,
   ⟨0, { entry := sq 1 [], state := 2 }, st (cs [{ entry := sq 1 [], state := 2 }] (dx { state := .running, lastSeen := true } sv)),
    by decide +kernel⟩⟩

/-- A state and operands that meet the hypotheses of `Obligations.REENCRYPTION`. -/
theorem witness_REENCRYPTION :
    ∃ (dpa : Dpa) (line : _) (r : _) (x : _) (s : State), line = dpa.toNat / 64 ∧ s.dev.reencOf (line / 64) = some r ∧ bit r.mask (line % 64)
    = true ∧ s.dev.staged line = none ∧ s.dev.wbEnt line = none ∧ gondolaRoom s.fuse s.dev none = true ∧ s.dev.cleanLine line = some x :=
  ⟨0, 0, { page := 0, old := {}, mask := 1 }, 7, st
    ({ dt sv with sec := { reenc := [{ page := 0, old := {}, mask := 1 }] }, cache := { ways := [(0, { used := true, sec := { valid := 1, data := [(0, 7)] } })] } }),
    by decide +kernel⟩

/-- States and operands that meet the hypotheses of `Obligations.LIST_COMMANDS`, clause by clause. -/
theorem witness_LIST_COMMANDS :
    (∃ (h : Handle) (c : _) (n : _) (s : State), s.dev.Startable s.fuse h.toNat 1 c ∧ bit (sqFlags c.entry) 0 = false ∧ s.dev.freeChannel =
    some n) ∧
    (∃ (h : Handle) (c : _) (n : _) (k : _) (s : State), s.dev.Startable s.fuse h.toNat 1 c ∧ bit (sqFlags c.entry) 0 = true ∧
    s.dev.freeChannel = some n ∧ s.dev.freeSlot = some k) ∧
    (∃ (h : Handle) (c : _) (n : _) (s : State), s.dev.Startable s.fuse h.toNat 2 c ∧ s.dev.freeChannel = some n) ∧
    (∃ (h : Handle) (c : _) (n : _) (s : State), s.dev.Startable s.fuse h.toNat 3 c ∧ s.dev.freeChannel = some n) ∧
    (∃ (h : Handle) (c : _) (n : _) (s : State), s.dev.Startable s.fuse h.toNat 4 c ∧ s.dev.freeChannel = some n) ∧
    (∃ (h : Handle) (c : _) (k : _) (s : State), s.dev.Startable s.fuse h.toNat 5 c ∧ s.dev.freeSlot = some k) :=
  ⟨⟨0, { entry := sq 1 [] }, 0, st (cs [{ entry := sq 1 [] }] (sv)), ⟨by constructor <;> decide +kernel, by decide +kernel⟩⟩,
   ⟨0, { entry := sq 1 [(1, 1), (8, 2000000)] }, 0, 32, st (cs [{ entry := sq 1 [(1, 1), (8, 2000000)] }] (sv)),
    ⟨by constructor <;> decide +kernel, by decide +kernel⟩⟩,
   ⟨0, { entry := sq 2 [] }, 0, st (cs [{ entry := sq 2 [] }] (sv)), ⟨by constructor <;> decide +kernel, by decide +kernel⟩⟩,
   ⟨0, { entry := sq 3 [(24, 1)] }, 0, st (cs [{ entry := sq 3 [(24, 1)] }]
    ({ sv with sec := { slots := [(1, { state := 1, kind := 1, rights := 4 })] } })), ⟨by constructor <;> decide +kernel,
    by decide +kernel⟩⟩,
   ⟨0, { entry := sq 4 [(24, 1), (32, 1)] }, 0, st (cs [{ entry := sq 4 [(24, 1), (32, 1)] }]
    ({ sv with sec := { slots := [(1, { state := 1, kind := 1, rights := 8 })] } })), ⟨by constructor <;> decide +kernel,
    by decide +kernel⟩⟩,
   ⟨0, { entry := sq 5 [(24, 0x100000)] }, 32, st (cs [{ entry := sq 5 [(24, 0x100000)] }] (rg [(LNK_TWIN_CTL 0, 0x115)]
    { sv with sec := { slots := [(1, { state := 1, kind := 2 })] } })), ⟨by constructor <;> decide +kernel, by decide +kernel⟩⟩⟩

/-- States and operands that meet the hypotheses of `Obligations.RANGE_COMMANDS`, clause by clause. -/
theorem witness_RANGE_COMMANDS :
    (∃ (h : Handle) (c : _) (x : _) (s : State), s.dev.Startable s.fuse h.toNat 6 c ∧ s.dev.lci.cmds.find? (fun x => x.handle == sqField
    c.entry 16 4 && !x.silent) = some x ∧ x.handle ≠ h.toNat ∧ x.state = 1 ∧ x.chan = none ∧ x.slot = none ∧ x.stops = [] ∧ sqOpcode
    x.entry = 2) ∧
    (∃ (h : Handle) (c : _) (s : State), s.dev.Startable s.fuse h.toNat 6 c ∧ s.dev.lci.cmds.find? (fun x => x.handle == sqField c.entry 16 4
    && !x.silent) = none) ∧
    (∃ (h : Handle) (c : _) (s : State), s.dev.Startable s.fuse h.toNat 7 c ∧ sqField c.entry 24 4 = 0 ∧ dictErr s.fuse s.dev c.head (sqField
    c.entry 32 4) 0 = 0) ∧
    (∃ (h : Handle) (c : _) (s : State), s.dev.Startable s.fuse h.toNat 7 c ∧ 0 < sqField c.entry 24 4 ∧ bit (sqField c.entry 28 1) 0 = false ∧
    dictErr s.fuse s.dev c.head (sqField c.entry 32 4) (sqField c.entry 24 4) = 0) ∧
    (∃ (h : Handle) (c : _) (s : State), s.dev.Startable s.fuse h.toNat 0x10 c ∧ 0 < sqField c.entry 24 8) ∧
    (∃ (h : Handle) (c : _) (lo : _) (hi : _) (s : State), s.dev.Startable s.fuse h.toNat 0x11 c ∧ lo = sqField c.entry 16 8 / 64 ∧ hi = lo +
    sqField c.entry 24 8 - 1 ∧ s.dev.discardHeld lo hi = false) ∧
    (∃ (h : Handle) (c : _) (s : State), s.dev.Startable s.fuse h.toNat 0x12 c ∧ s.dev.sanSlots c.entry = [] ∧ bit (sqField c.entry 34 1) 0 =
    false ∧ sqField c.entry 24 8 = 0) :=
  ⟨⟨0, { entry := sq 6 [(16, 1)] }, { entry := sq 2 [], handle := 1, state := 1, seq := 1 }, st (cs ({ entry := sq 6 [(16, 1)] } ::
    [{ entry := sq 2 [], handle := 1, state := 1, seq := 1 }]) (sv)), ⟨by constructor <;> decide +kernel, by decide +kernel⟩⟩,
   ⟨0, { entry := sq 6 [(16, 1)] }, st (cs [{ entry := sq 6 [(16, 1)] }] (sv)), ⟨by constructor <;> decide +kernel, by decide +kernel⟩⟩,
   ⟨0, { entry := sq 7 [(32, 5)] }, st (cs [{ entry := sq 7 [(32, 5)] }]
    ({ sv with str := { dicts := [{ id := 5, bytes := [1], head := .a }] } })), ⟨by constructor <;> decide +kernel, by decide +kernel⟩⟩,
   ⟨0, { entry := sq 7 [(16, 4092), (24, 8), (32, 5)] }, st (cs [{ entry := sq 7 [(16, 4092), (24, 8), (32, 5)] }] (sv)),
    ⟨by constructor <;> decide +kernel, by decide +kernel⟩⟩,
   ⟨0, { entry := sq 0x10 [(24, 1)] }, st (cs [{ entry := sq 0x10 [(24, 1)] }] (sv)), ⟨by constructor <;> decide +kernel, by decide +kernel⟩⟩,
   ⟨0, { entry := sq 0x11 [(24, 1)] }, 0, 0, st (cs [{ entry := sq 0x11 [(24, 1)] }] (dt sv)), ⟨by constructor <;> decide +kernel,
    by decide +kernel⟩⟩,
   ⟨0, { entry := sq 0x12 [] }, st (cs [{ entry := sq 0x12 [] }] (sv)), ⟨by constructor <;> decide +kernel, by decide +kernel⟩⟩⟩

/-- States and operands that meet the hypotheses of `Obligations.KEY_COMMANDS`, clause by clause. -/
theorem witness_KEY_COMMANDS :
    (∃ (h : Handle) (c : _) (s : State), s.dev.Startable s.fuse h.toNat 0x20 c) ∧
    (∃ (hd : Head) (tag : BitVec 16) (data : List Byte) (c : _) (k : _) (s : State), s.dev.lci.cmds.find? (fun c => c.tag == some tag.toNat &&
    decide (c.head = hd) && decide (c.state < 4)) = some c ∧ 64 ≤ tag.toNat ∧ s.dev.cmd c.handle = some c ∧ sqOpcode c.entry = 0x20 ∧
    c.data = [] ∧ c.piece = 84 ∧ c.stops = [] ∧ data.length = 84 ∧ s.dev.Loud ∧ k = sqField c.entry 16 2 ∧ (s.dev.slot k).state = 0 ∧
    s.dev.sec.rekey = none) ∧
    (∃ (h : Handle) (c : _) (k : _) (s : State), s.dev.Startable s.fuse h.toNat 0x21 c ∧ k = sqField c.entry 16 2 ∧ (s.dev.slot k).state = 1 ∧
    s.dev.gondolaUses k = false ∧ (∀ w ∈ s.dev.wins, w.key ≠ k) ∧ (∀ x ∈ s.dev.lci.cmds, x.handle ≠ h.toNat → k ∉ x.slots) ∧
    s.dev.sec.rekey = none) ∧
    (∃ (slot : Fin 4096) (h : _) (c : _) (s : State), (s.dev.slot slot.val).state = 2 ∧ s.dev.gondolaUses slot.val = false ∧ s.dev.sec.evicting
    = [(slot.val, h)] ∧ s.dev.cmd h = some c ∧ s.dev.Loud ∧ s.dev.dbg.busy = false ∧ (∀ c ∈ s.dev.lci.cmds, sqOpcode c.entry ≠ 0x12) ∧
    c.stops = []) ∧
    (∃ (h : Handle) (c : _) (k : _) (s : State), s.dev.Startable s.fuse h.toNat 0x22 c ∧ k = sqField c.entry 16 2 ∧ bit (sqField c.entry 18 1)
    0 = false) ∧
    (∃ (h : Handle) (c : _) (s : State), s.dev.Startable s.fuse h.toNat 0x23 c) ∧
    (∃ (h : Handle) (c : _) (n : _) (k : _) (t : _) (s : State), s.dev.Startable s.fuse h.toNat 0x24 c ∧ n = sqField c.entry 16 1 % 64 ∧ k =
    sqField c.entry 18 2 ∧ s.dev.sec.rekey = none ∧ s.dev.tracts.cur.ent.find? (fun e => decide ((s.dev.win n).base / 2 ^ 20 ≤ e.1 ∧ e.1 ≤
    (s.dev.win n).hi ∧ (e.2.kind = 1 ∨ e.2.kind = 2))) = some t) :=
  ⟨⟨0, { entry := sq 0x20 [(16, 1), (18, 1), (24, 4096)] }, st (cs [{ entry := sq 0x20 [(16, 1), (18, 1), (24, 4096)] }] (sv)),
    by constructor <;> decide +kernel⟩,
   ⟨.a, 64, List.replicate 84 0, { entry := sq 0x20 [(16, 1), (18, 1), (24, 4096)], state := 2, tag := some 64 }, 1, st (cs
    [{ entry := sq 0x20 [(16, 1), (18, 1), (24, 4096)], state := 2, tag := some 64 }] sv), by decide +kernel⟩,
   ⟨0, { entry := sq 0x21 [(16, 1)] }, 1, st (cs [{ entry := sq 0x21 [(16, 1)] }]
    ({ sv with sec := { slots := [(1, { state := 1, kind := 1 })] } })), ⟨by constructor <;> decide +kernel, by decide +kernel⟩⟩,
   ⟨1, 0, { entry := sq 0x21 [(16, 1)], state := 2 }, st (cs [{ entry := sq 0x21 [(16, 1)], state := 2 }]
    { sv with sec := { slots := [(1, { state := 2, kind := 1 })], evicting := [(1, 0)] } }), by decide +kernel⟩,
   ⟨0, { entry := sq 0x22 [(16, 1), (24, 4096), (32, 9)] }, 1, st (cs [{ entry := sq 0x22 [(16, 1), (24, 4096), (32, 9)] }] (sv)),
    ⟨by constructor <;> decide +kernel, by decide +kernel⟩⟩,
   ⟨0, { entry := sq 0x23 [] }, st (cs [{ entry := sq 0x23 [] }] (sv)), by constructor <;> decide +kernel⟩,
   ⟨0, { entry := sq 0x24 [(18, 2)] }, 0, 2, (0, { kind := 1 }), st (cs [{ entry := sq 0x24 [(18, 2)] }] (rg [(LNK_TWIN_CTL 0, 0x115)]
    { dt sv with sec := { slots := [(1, { state := 1, kind := 2 }), (2, { state := 1, kind := 2, rights := 32 })] } })),
    ⟨by constructor <;> decide +kernel, by decide +kernel⟩⟩⟩

/-- States and operands that meet the hypotheses of `Obligations.REPORT_COMMANDS`, clause by clause. -/
theorem witness_REPORT_COMMANDS :
    (∃ (h : Handle) (c : _) (l : _) (s : State), s.dev.Startable s.fuse h.toNat 0x30 c ∧ l = Tbl.look {} s.dev.lci.locks (sqField c.entry 16 2)
    ∧ l.owner = none) ∧
    (∃ (h : Handle) (c : _) (l : _) (q : _) (s : State), s.dev.Startable s.fuse h.toNat 0x30 c ∧ l = Tbl.look {} s.dev.lci.locks (sqField
    c.entry 16 2) ∧ l.owner = some q ∧ bit (sqField c.entry 18 1) 0 = true) ∧
    (∃ (h : Handle) (c : _) (l : _) (s : State), s.dev.Startable s.fuse h.toNat 0x31 c ∧ l = Tbl.look {} s.dev.lci.locks (sqField c.entry 16 2)
    ∧ l.owner = some (qpOf h.toNat) ∧ l.waiters = []) ∧
    (∃ (h : Handle) (c : _) (s : State), s.dev.Startable s.fuse h.toNat 0x40 c) ∧
    (∃ (h : Handle) (c : _) (x : _) (s : State), s.dev.Startable s.fuse h.toNat 0x41 c ∧ s.dev.lci.cmds.find? (fun x => x.handle == sqField
    c.entry 16 4 && !x.silent) = some x ∧ x.handle ≠ h.toNat ∧ x.state = 1 ∧ x.chan = none ∧ sqOpcode x.entry ≠ 0x24) ∧
    (∃ (h : Handle) (c : _) (s : State), s.dev.Startable s.fuse h.toNat 0x42 c) ∧
    (∃ (h : Handle) (c : _) (s : State), s.dev.Startable s.fuse h.toNat 0x43 c ∧ sqField c.entry 16 1 = 1 ∧ s.dev.pwr.svc = .full ∧
    s.dev.testing = false) ∧
    (∃ (h : Handle) (c : _) (s : State), s.dev.Startable s.fuse h.toNat 0x43 c ∧ sqField c.entry 16 1 = 2) ∧
    (∃ (h : Handle) (c : _) (l : _) (s : State), s.dev.Startable s.fuse h.toNat 0x44 c ∧ l = logRecords s.fuse s.dev (sqField c.entry 24 4)
    (sqField c.entry 28 4)) ∧
    (∃ (h : Handle) (c : _) (l : _) (s : State), s.dev.Startable s.fuse h.toNat 0x45 c ∧ l = s.dev.uwlRecords 0 (sqField c.entry 28 4) ∧ bit
    (sqField c.entry 32 1) 0 = false) :=
  ⟨⟨0, { entry := sq 0x30 [(16, 255)] }, {}, st (cs [{ entry := sq 0x30 [(16, 255)] }] (sv)), ⟨by constructor <;> decide +kernel,
    by decide +kernel⟩⟩,
   ⟨0, { entry := sq 0x30 [(16, 5), (18, 1)] }, { owner := some 3 }, 3, st (cs [{ entry := sq 0x30 [(16, 5), (18, 1)] }]
    ({ sv with lci := { sv.lci with locks := [(5, { owner := some 3 })] } })), ⟨by constructor <;> decide +kernel, by decide +kernel⟩⟩,
   ⟨0, { entry := sq 0x31 [(16, 5)] }, { owner := some 0 }, st (cs [{ entry := sq 0x31 [(16, 5)] }]
    ({ sv with lci := { sv.lci with locks := [(5, { owner := some 0 })] } })), ⟨by constructor <;> decide +kernel, by decide +kernel⟩⟩,
   ⟨0, { entry := sq 0x40 [] }, st (cs [{ entry := sq 0x40 [] }] (sv)), by constructor <;> decide +kernel⟩,
   ⟨0, { entry := sq 0x41 [(16, 1)] }, { entry := sq 2 [], handle := 1, state := 1, seq := 1 }, st (cs ({ entry := sq 0x41 [(16, 1)] } ::
    [{ entry := sq 2 [], handle := 1, state := 1, seq := 1 }]) (sv)), ⟨by constructor <;> decide +kernel, by decide +kernel⟩⟩,
   ⟨0, { entry := sq 0x42 [(16, 0x300)] }, st (cs [{ entry := sq 0x42 [(16, 0x300)] }] (sv)), by constructor <;> decide +kernel⟩,
   ⟨0, { entry := sq 0x43 [(16, 1)] }, st (cs [{ entry := sq 0x43 [(16, 1)] }] (sv)), ⟨by constructor <;> decide +kernel, by decide +kernel⟩⟩,
   ⟨0, { entry := sq 0x43 [(16, 2)] }, st (cs [{ entry := sq 0x43 [(16, 2)] }] ({ sv with log := { sv.log with frozen := true } })),
    ⟨by constructor <;> decide +kernel, by decide +kernel⟩⟩,
   ⟨0, { entry := sq 0x44 [(28, 4)] }, _, st (cs [{ entry := sq 0x44 [(28, 4)] }] (sv)), ⟨by constructor <;> decide +kernel, rfl⟩⟩,
   ⟨0, { entry := sq 0x45 [(28, 4)] }, _, st (cs [{ entry := sq 0x45 [(28, 4)] }] (sv)), ⟨by constructor <;> decide +kernel, rfl,
    by decide +kernel⟩⟩⟩

/-- States and operands that meet the hypotheses of `Obligations.COMMAND_EVENTS`, clause by clause. -/
theorem witness_COMMAND_EVENTS :
    (∃ (h : Handle) (c : _) (s : State), s.dev.cmd h.toNat = some c ∧ s.dev.lci.ready = true ∧ s.dev.fwRuns = true ∧ c.state = 1 ∧ c.chan =
    none ∧ c.slot = none ∧ c.stops = [] ∧ sqOpcode c.entry = 0x40 ∧ s.dev.heldBack c = false ∧ startErr s.fuse s.dev c.head c.entry = 0 ∧
    s.dev.Loud) ∧
    (∃ (h : Handle) (c : _) (s : State), s.dev.cmd h.toNat = some c ∧ c.state = 1 ∧ s.dev.heldBack c = true ∧ s.dev.Loud) ∧
    (∃ (h : Handle) (c : _) (s : State), s.dev.cmd h.toNat = some c ∧ s.dev.lci.ready = true ∧ s.dev.fwRuns = true ∧ c.state = 0 ∧ sqOpcode
    c.entry ∉ opcodes ∧ c.silent = false) ∧
    (∃ (h : Handle) (c : _) (s : State), .command h ∈ s.dev.cache.invOpen ∧ s.dev.cmd h.toNat = some c ∧ sqOpcode c.entry = 0x10 ∧ c.stops = []
    ∧ s.dev.Loud) :=
  ⟨⟨0, { entry := sq 0x40 [], state := 1 }, st (cs [{ entry := sq 0x40 [], state := 1 }] sv), by decide +kernel⟩,
   ⟨0, { entry := sq 1 [], state := 1 }, st (sp .reduced 9 (cs [{ entry := sq 1 [], state := 1 }] sv)), by decide +kernel⟩,
   ⟨0, { entry := sq 0x50 [] }, st (cs [{ entry := sq 0x50 [] }] sv), by decide +kernel⟩,
   ⟨0, { entry := sq 0x10 [(24, 1)], state := 2 }, st
    ({ cs [{ entry := sq 0x10 [(24, 1)], state := 2 }] sv with cache := { invOpen := [.command 0] } }), by decide +kernel⟩⟩

/-- States and operands that meet the hypotheses of `Obligations.TITLE_WINDOWS`, clause by clause. -/
theorem witness_TITLE_WINDOWS :
    (∃ (h : _) (n : Fin 64) (v : Reg32) (d : _) (s : State), d = s.dev.setReg (LNK_TWIN_CTL n.val) (BitVec.ofNat 32 (2 ^ 8 * bits v.toNat 19 8
    + 2 ^ 4 * bits v.toNat 5 4 + 2 ^ 3 * bits v.toNat 3 3 + 2 * bits v.toNat 2 1)) ∧ s.dev.live = true ∧ activeHead s.fuse s.dev h = true
    ∧ s.dev.rbit (LNK_TWIN_CTL n.val) 31 = false ∧ s.dev.rbit (LNK_TWIN_CTL n.val) 30 = false ∧ s.dev.rbit (LNK_TWIN_CTL n.val) 0 = false
    ∧ bit v.toNat 0 = true ∧ bit v.toNat 31 = false ∧ bits v.toNat 2 1 ≠ 3 ∧ s.dev.sec.rekey = none ∧ twinCheck s.fuse d (d.win n.val) =
    none) ∧
    (∃ (h : _) (n : Fin 64) (v : Reg32) (d : _) (r : _) (s : State), d = s.dev.setReg (LNK_TWIN_CTL n.val) (BitVec.ofNat 32 (2 ^ 8 * bits
    v.toNat 19 8 + 2 ^ 4 * bits v.toNat 5 4 + 2 ^ 3 * bits v.toNat 3 3 + 2 * bits v.toNat 2 1)) ∧ s.dev.live = true ∧ activeHead s.fuse
    s.dev h = true ∧ s.dev.rbit (LNK_TWIN_CTL n.val) 31 = false ∧ s.dev.rbit (LNK_TWIN_CTL n.val) 30 = false ∧ s.dev.rbit (LNK_TWIN_CTL
    n.val) 0 = false ∧ bit v.toNat 0 = true ∧ bit v.toNat 31 = false ∧ bits v.toNat 2 1 ≠ 3 ∧ twinCheck s.fuse d (d.win n.val) = some r) ∧
    (∃ (h : _) (n : Fin 64) (v : Reg32) (s : State), s.dev.live = true ∧ activeHead s.fuse s.dev h = true ∧ s.dev.rbit (LNK_TWIN_CTL n.val) 31
    = false ∧ s.dev.rbit (LNK_TWIN_CTL n.val) 30 = false ∧ s.dev.rbit (LNK_TWIN_CTL n.val) 0 = true ∧ bit v.toNat 0 = false ∧ bit v.toNat
    31 = false ∧ s.dev.gon.staged = []) ∧
    (∃ (h : _) (n : Fin 64) (v : Reg32) (s : State), s.dev.live = true ∧ activeHead s.fuse s.dev h = true ∧ s.dev.rbit (LNK_TWIN_CTL n.val) 31
    = false ∧ s.dev.rbit (LNK_TWIN_CTL n.val) 30 = false ∧ s.dev.rbit (LNK_TWIN_CTL n.val) 0 = true ∧ bit v.toNat 0 = true ∧ bit v.toNat
    31 = true) ∧
    (∃ (n : Fin 64) (s : State), s.dev.rbit (LNK_TWIN_CTL n.val) 31 = true) ∧
    (∃ (n : Fin 64) (s : State), s.dev.rbit (LNK_TWIN_CTL n.val) 30 = true ∧ s.dev.gondolaIn (s.dev.win n.val).lo (s.dev.win n.val).hi = false
    ∧ s.dev.cache.invOpen.contains (.window n) = false ∧ s.dev.dbg.busy = false ∧ (∀ c ∈ s.dev.lci.cmds, sqOpcode c.entry ≠ 0x12) ∧
    s.dev.Loud) :=
  ⟨⟨.a, 0, 0x11, _, st sv, ⟨rfl, by decide +kernel⟩⟩,
   ⟨.a, 0, 0x01, _, 0, st sv, ⟨rfl, by decide +kernel⟩⟩,
   ⟨.a, 0, 0, st (rg [(LNK_TWIN_CTL 0, 0x11)] sv), by decide +kernel⟩,
   ⟨.a, 0, 0x80000001, st (rg [(LNK_TWIN_CTL 0, 0x11)] sv), by decide +kernel⟩,
   ⟨0, st (rg [(LNK_TWIN_CTL 0, 0x80000011)] sv), by decide +kernel⟩,
   ⟨0, st (rg [(LNK_TWIN_CTL 0, 0x40000010)] sv), by decide +kernel⟩⟩

/-- States and operands that meet the hypotheses of `Obligations.REGISTER_MAILBOX`, clause by clause. -/
theorem witness_REGISTER_MAILBOX :
    (∃ (h : _) (d : _) (s : State), s.dev.MailboxFree s.fuse h ∧ d = s.dev.rmGo h 1) ∧
    (∃ (h : _) (d : _) (s : State), s.dev.MailboxFree s.fuse h ∧ d = s.dev.rmGo h 2 ∧ 0 < d.rmArg 1 ∧ d.rmArg 1 ≤ 4) ∧
    (∃ (h : _) (d : _) (s : State), s.dev.MailboxFree s.fuse h ∧ d = s.dev.rmGo h 2 ∧ d.rmArg 1 = 0) ∧
    (∃ (h : _) (d : _) (s : State), s.dev.MailboxFree s.fuse h ∧ d = s.dev.rmGo h 3 ∧ 0 < d.rmArg 1 ∧ d.rmArg 1 ≤ 4) ∧
    (∃ (h : _) (d : _) (s : State), s.dev.MailboxFree s.fuse h ∧ d = s.dev.rmGo h 4 ∧ d.rmArg 0 < 2 ∧ d.rmArg 0 ≠ d.images.running ∧ d.rmArg 1
    % 256 = 0 ∧ d.rmArg 1 < 2 ^ 23) ∧
    (∃ (h : _) (d : _) (s : State), s.dev.MailboxFree s.fuse h ∧ d = s.dev.rmGo h 4 ∧ d.rmArg 0 = d.images.running) ∧
    (∃ (h : _) (d : _) (s : State), s.dev.MailboxFree s.fuse h ∧ d = s.dev.rmGo h 6) ∧
    (∃ (h : _) (d : _) (s : State), s.dev.MailboxFree s.fuse h ∧ d = s.dev.rmGo h 7) :=
  ⟨⟨.a, _, st sv, ⟨by decide +kernel, rfl⟩⟩,
   ⟨.a, _, st (rg [(MBX_RM_ARG 1, 4)] sv), ⟨by decide +kernel, rfl, by decide +kernel⟩⟩,
   ⟨.a, _, st sv, ⟨by decide +kernel, rfl, by decide +kernel⟩⟩,
   ⟨.a, _, st (rg [(MBX_RM_ARG 1, 4)] sv), ⟨by decide +kernel, rfl, by decide +kernel⟩⟩,
   ⟨.a, _, st (rg [(MBX_RM_ARG 0, 1), (MBX_RM_ARG 1, 256)] sv), ⟨by decide +kernel, rfl, by decide +kernel⟩⟩,
   ⟨.a, _, st sv, ⟨by decide +kernel, rfl, rfl⟩⟩,
   ⟨.a, _, st sv, ⟨by decide +kernel, rfl⟩⟩,
   ⟨.a, _, st sv, ⟨by decide +kernel, rfl⟩⟩⟩

/-- States and operands that meet the hypotheses of `Obligations.CXL_MAILBOX_READS`, clause by clause. -/
theorem witness_CXL_MAILBOX_READS :
    (∃ (h : _) (s : State), s.dev.MailOpen s.fuse h) ∧
    (∃ (h : _) (s : State) (off : _) (len : _), s.dev.MailOpen s.fuse h ∧ off + len ≤ 16384) ∧
    (∃ (h : _) (s : State) (off : _) (len : _), s.dev.MailOpen s.fuse h ∧ 16384 < off + len) ∧
    (∃ (h : _) (s : State), s.dev.MailOpen s.fuse h ∧ (s.dev.head h).poisonMore = false) ∧
    (∃ (h : _) (s : State) (op : BitVec 16), s.dev.MailOpen s.fuse h ∧ op.toNat ∉ mailOpcodes) :=
  ⟨⟨.a, st sv, by decide +kernel⟩,
   ⟨.a, st sv, 0, 16384, by decide +kernel⟩,
   ⟨.a, st sv, 1, 16384, by decide +kernel⟩,
   ⟨.a, st sv, by decide +kernel⟩,
   ⟨.a, st sv, 0x9999, by decide +kernel⟩⟩

/-- States and operands that meet the hypotheses of `Obligations.CXL_MAILBOX_WRITES`, clause by clause. -/
theorem witness_CXL_MAILBOX_WRITES :
    (∃ (h : _) (s : State), s.dev.MailOpen s.fuse h) ∧
    (∃ (h : _) (s : State) (slot : Fin 2) (off : _) (data : List Byte), s.dev.MailOpen s.fuse h ∧ slot.val ≠ s.dev.images.running ∧ off +
    data.length ≤ 2 ^ 23) ∧
    (∃ (h : _) (s : State) (slot : Fin 2), s.dev.MailOpen s.fuse h ∧ slot.val = s.dev.images.running) ∧
    (∃ (h : _) (s : State) (off : _) (data : List Byte), s.dev.MailOpen s.fuse h ∧ off + data.length ≤ 16384 ∧ data ≠ []) ∧
    (∃ (h : _) (s : State) (dpa : Dpa) (i : _), s.dev.MailOpen s.fuse h ∧ placeOf s.fuse s.dev h dpa.toNat = .scratch i) ∧
    (∃ (h : _) (s : State) (dpa : Dpa), s.dev.MailOpen s.fuse h ∧ placeOf s.fuse s.dev h dpa.toNat = .nothing) :=
  ⟨⟨.a, st ({ sv with a := { sv.a with warn := { recs := [⟨1, .other, 0, 0⟩] } } }), by decide +kernel⟩,
   ⟨.a, st sv, 1, 8388606, [1, 2], by decide +kernel⟩,
   ⟨.a, st sv, 0, by decide +kernel⟩,
   ⟨.a, st sv, 16382, [1, 2], by decide +kernel⟩,
   ⟨.a, st ({ sv with cache := { scrAct := 1 } }), 0xF0000000000, 524288, by decide +kernel⟩,
   ⟨.a, st sv, 0xF0000000000, by decide +kernel⟩⟩

/-- States and operands that meet the hypotheses of `Obligations.LINKS_AND_DECODERS`, clause by clause. -/
theorem witness_LINKS_AND_DECODERS :
    (∃ (h : _) (rate : Fin 8) (width : Fin 32) (s : State), s.dev.live = true ∧ presentHead s.fuse h = true ∧ activeHead s.fuse s.dev h = true
    ∧ s.dev.pwr.downing = none ∧ s.dev.pwr.flush = none ∧ (s.dev.head h).d3cold = false ∧ 2 ≤ rate.val ∧ rate.val ≤ 5 ∧ widthCode
    width.val ≠ 0 ∧ width.val ≤ s.dev.maxWidth h) ∧
    (∃ (h : _) (s : State), (s.dev.head h).linkUp = true ∧ s.dev.pwr.portLost = false) ∧
    (∃ (h : _) (s : State), portMode s.fuse s.dev = .bonded ∧ (s.dev.head (otherHead h)).linkUp = true ∧ s.dev.pwr.portLost = false) ∧
    (∃ (h : _) (k : Fin 4) (base : _) (size : _) (skip : _) (ways : _) (gran : _) (pos : _) (s : State), s.dev.live = true ∧ presentHead s.fuse
    h = true ∧ (Tbl.look {} (s.dev.head h).decoders k.val).committed = false ∧ ways ∈ [1, 2, 4, 8] ∧ gran ∈ [256, 512, 1024, 2048, 4096,
    8192, 16384] ∧ pos < ways ∧ base % 2 ^ 28 = 0 ∧ size % 2 ^ 28 = 0 ∧ size ≠ 0 ∧ (∀ e ∈ (s.dev.head h).decoders, e.1 ≠ k.val →
    e.2.committed = true → base + size ≤ e.2.base ∨ e.2.base + e.2.size ≤ base) ∧ reachesOther s.fuse s.dev h (decoderDpa s.fuse s.dev h
    k.val skip) (decoderDpa s.fuse s.dev h k.val skip + size / ways) = false) ∧
    (∃ (h : _) (k : Fin 4) (base : _) (size : _) (ways : _) (gran : _) (pos : _) (s : State), s.dev.live = true ∧ presentHead s.fuse h = true ∧
    (Tbl.look {} (s.dev.head h).decoders k.val).committed = false ∧ (base % 2 ^ 28 ≠ 0 ∨ size % 2 ^ 28 ≠ 0 ∨ size = 0 ∨ ways ∉ [1, 2, 4,
    8] ∨ gran ∉ [256, 512, 1024, 2048, 4096, 8192, 16384] ∨ ways ≤ pos)) ∧
    (∃ (h : _) (k : Fin 4) (x : _) (s : State), Tbl.look {} (s.dev.head h).decoders k.val = x ∧ x.committed = true ∧ x.lock = false) ∧
    (∃ (h : _) (k : Fin 4) (s : State), (Tbl.look {} (s.dev.head h).decoders k.val).lock = true) ∧
    (∃ (h : _) (s : State), (s.dev.head h).linkUp = true ∧ s.dev.gon.staged = [] ∧ s.dev.gon.wb = [] ∧ s.dev.gon.gpfWait = []) ∧
    (∃ (h : _) (x : _) (n : _) (u : _) (g : _) (t : _) (s : State), (s.dev.head h).linkUp = true ∧ (n, some g) ∈ s.dev.gon.staged ++
    s.dev.gon.wb ∧ .host x t u ∈ g.acks ∧ u ≤ s.dev.tether.now) ∧
    (∃ (h : _) (stream : Byte) (s : State), (s.dev.head h).linkUp = true ∧ (s.dev.head h).doeOpen = true ∧ stream.toNat ≤ 5) ∧
    (∃ (h : _) (s : State), (s.dev.head h).doeOpen = false) ∧
    (∃ (h : _) (stream : Byte) (k : _) (s : State), (s.dev.head h).linkUp = true ∧ k ∈ (s.dev.head h).ideKeys ∧ k / 2 = stream.toNat) ∧
    (∃ (h : _) (s : State), (s.dev.head h).linkUp = true) :=
  ⟨⟨.a, 5, 16, st sv, by decide +kernel⟩,
   ⟨.a, st sv, by decide +kernel⟩,
   ⟨.a, st ({ md .bonded sv with b := sv.a }), by decide +kernel⟩,
   ⟨.a, 1, 0x100000000000, 0x10000000, 0, 1, 256, 0, st sv, by decide +kernel⟩,
   ⟨.a, 1, 0x100000000000, 0x10000000, 3, 256, 0, st sv, by decide +kernel⟩,
   ⟨.a, 0, { size := 2 ^ 44, committed := true }, st sv, by decide +kernel⟩,
   ⟨.a, 0, st ({ sv with a := { sv.a with decoders := [(0, { size := 2 ^ 44, committed := true, lock := true })] } }), by decide +kernel⟩,
   ⟨.a, st sv, by decide +kernel⟩,
   ⟨.a, .a, 0, 5, { mask := fullMask, acks := [.host .a 1 5] }, 1, st
    ({ sv with gon := { staged := [(0, some { mask := fullMask, acks := [.host .a 1 5] })] } }), by decide +kernel⟩,
   ⟨.a, 0, st ({ sv with a := { sv.a with doeOpen := true } }), by decide +kernel⟩,
   ⟨.a, st sv, by decide +kernel⟩,
   ⟨.a, 0, 1, st ({ sv with a := { sv.a with ideOn := true, ideKeys := [1] } }), by decide +kernel⟩,
   ⟨.a, st sv, by decide +kernel⟩⟩

/-- States and operands that meet the hypotheses of `Obligations.HEAD_STATES_AND_RESETS`, clause by clause. -/
theorem witness_HEAD_STATES_AND_RESETS :
    (∃ (h : _) (s : State), activeHead s.fuse s.dev h = true ∧ (s.dev.head h).dstate = 0 ∧ (s.dev.head h).d3cold = false) ∧
    (∃ (h : _) (s : State), activeHead s.fuse s.dev h = true ∧ (s.dev.head h).d3cold = false) ∧
    (∃ (h : _) (s : State), activeHead s.fuse s.dev h = true ∧ (s.dev.head h).dstate = 3 ∧ (s.dev.head h).d3cold = false) ∧
    (∃ (h : _) (s : State), s.dev.live = true ∧ presentHead s.fuse h = true ∧ (s.dev.head h).d3cold = false) ∧
    (∃ (h : _) (v : Reg32) (s : State), presentHead s.fuse h = true ∧ bits v.toNat 31 16 = 0x5D2A ∧ bit v.toNat 0 = true ∧ s.dev.pwr.downing =
    none ∧ (s.dev.pwr.svc = .bringup ∨ s.dev.pwr.svc = .reduced ∨ s.dev.pwr.svc = .full)) ∧
    (∃ (v : Reg32), ¬ (bits v.toNat 31 16 = 0x5D2A ∧ bit v.toNat 0 = true)) :=
  ⟨⟨.a, st sv, by decide +kernel⟩,
   ⟨.a, st ({ sv with a := { sv.a with dstate := 3 } }), by decide +kernel⟩,
   ⟨.a, st ({ sv with a := { sv.a with dstate := 3 } }), by decide +kernel⟩,
   ⟨.a, st sv, by decide +kernel⟩,
   ⟨.a, 0x5D2A0001, st sv, by decide +kernel⟩,
   ⟨0x5D2A0000, by decide +kernel⟩⟩

/-- States and operands that meet the hypotheses of `Obligations.CORE_PAIRS_AND_SEMAPHORES`, clause by clause. -/
theorem witness_CORE_PAIRS_AND_SEMAPHORES :
    (∃ (p : _) (s : State), (s.dev.pair p).runs = true) ∧
    (∃ (p : _) (s : State), (s.dev.pair p).runs = true ∧ (s.dev.pair p).halted = false ∧ s.dev.live = true ∧ (s.dev.pair p).pet + 16000 < 2 ^
    64) ∧
    (∃ (p : _) (s : State), p = s.dev.cores.active ∧ (s.dev.pair p).runs = true ∧ s.dev.cores.standbyOk = true ∧ (s.dev.pair (otherPair
    p)).runs = true) ∧
    (∃ (p : _) (s : State), p = s.dev.cores.active ∧ (s.dev.pair p).runs = true ∧ (s.dev.pair (otherPair p)).runs = false) ∧
    (∃ (p : _) (v : Reg32) (s : State), bits v.toNat 31 16 = 0x7A31 ∧ bit v.toNat 0 = true ∧ (s.dev.pair p).runs = true) ∧
    (∃ (v : Reg32), bits v.toNat 31 16 ≠ 0x7A31) ∧
    (∃ (p : _) (s : State), p = s.dev.cores.active ∧ s.dev.cores.takeover = true ∧ (s.dev.pair (otherPair p)).halted = false) ∧
    (∃ (s : State), s.dev.cores.standbyOk = true ∧ (s.dev.pair (otherPair s.dev.cores.active)).runs = false) ∧
    (∃ (s : State), s.dev.fwRuns = true ∧ s.dev.live = true ∧ (s.dev.pair (otherPair s.dev.cores.active)).runs = true ∧ (s.dev.pair (otherPair
    s.dev.cores.active)).halted = false) ∧
    (∃ (p : _) (n : Fin 64) (s : State), (s.dev.pair p).runs = true ∧ (s.dev.sem n.val).owner = pIdx p + 1) ∧
    (∃ (p : _) (n : Fin 64) (s : State), (s.dev.pair p).runs = true ∧ (s.dev.sem n.val).owner ≠ pIdx p + 1) :=
  ⟨⟨.a, st sv, by decide +kernel⟩,
   ⟨.a, st sv, by decide +kernel⟩,
   ⟨.a, st sv, by decide +kernel⟩,
   ⟨.a, st ({ sv with cores := { a := { ok := true } } }), by decide +kernel⟩,
   ⟨.a, 0x7A310001, st sv, by decide +kernel⟩,
   ⟨1, by decide +kernel⟩,
   ⟨.a, st ({ sv with cores := { a := { ok := true, fenced := true }, b := { ok := true }, standbyOk := true, takeover := true } }),
    by decide +kernel⟩,
   ⟨st ({ sv with cores := { a := { ok := true }, b := { ok := true, fenced := true }, standbyOk := true } }), by decide +kernel⟩,
   ⟨st sv, by decide +kernel⟩,
   ⟨.a, 63, st ({ sv with sems := [(63, ⟨1, false⟩)] }), by decide +kernel⟩,
   ⟨.a, 63, st ({ sv with sems := [(63, ⟨3, false⟩)] }), by decide +kernel⟩⟩

/-- States and operands that meet the hypotheses of `Obligations.INTERRUPTS`, clause by clause. -/
theorem witness_INTERRUPTS :
    (∃ (n : Fin 128) (s : State), (n.val < 103 ∨ 111 < n.val) ∧ s.dev.rbit (ICU_PEND (n.val / 32)) (n.val % 32) = false) ∧
    (∃ (n : Fin 128) (s : State), (n.val < 103 ∨ 111 < n.val) ∧ s.dev.rbit (ICU_PEND (n.val / 32)) (n.val % 32) = true) ∧
    (∃ (n : Fin 128), 103 ≤ n.val ∧ n.val ≤ 111) ∧
    (∃ (v : Reg32) (j : Fin 16), bit v.toNat j.val = true) ∧
    (∃ (n : _) (s : State), (s.dev.pair .a).runs = true ∧ s.dev.bestSource .a = some n ∧ (s.dev.pair .b).runs = false) ∧
    (∃ (p : _) (v : Reg32) (t : _) (r : _) (s : State), (s.dev.pair p).stack = t :: r ∧ t = bits v.toNat 6 0) ∧
    (∃ (p : _) (v : Reg32) (t : _) (r : _) (s : State), (s.dev.pair p).stack = t :: r ∧ t ≠ bits v.toNat 6 0) ∧
    (∃ (s : State), s.dev.rbit ICU_GCTL 31 = true) ∧
    (∃ (n : Fin 128) (s : State), s.dev.rbit ICU_GCTL 31 = false ∧ (n.val < 103 ∨ 111 < n.val)) ∧
    (∃ (h : _) (k : Fin 64) (s : State), activeHead s.fuse s.dev h = true ∧ s.dev.msixOpen h k.val = true) ∧
    (∃ (h : _) (k : Fin 64) (s : State), activeHead s.fuse s.dev h = true ∧ s.dev.msixOpen h k.val = false) ∧
    (∃ (h : _) (s : State), (s.dev.head h).msixOn = true ∧ (s.dev.head h).dstate = 0 ∧ (∀ k, k < 64 → s.dev.rbit (pbaOff h k) (k % 32) = false)) ∧
    (∃ (h : _) (k : Fin 64) (s : State), (s.dev.head h).msixOn = true ∧ (s.dev.head h).dstate = 0 ∧ bit (s.dev.msixWord h k.val 3) 0 = false ∧
    s.dev.rbit (pbaOff h k.val) (k.val % 32) = true) ∧
    (∃ (s : State), s.dev.images.raiseFloor = true ∧ s.dev.images.running < 2 ∧ s.dev.pwr.svc = .full) :=
  ⟨⟨112, st sv, by decide +kernel⟩,
   ⟨102, st (rg [(ICU_PEND 3, 64)] sv), by decide +kernel⟩,
   ⟨103, by decide +kernel⟩,
   ⟨0x8000, 15, by decide +kernel⟩,
   ⟨4, st (rg [(ICU_PEND 0, 16), (ICU_SRC_CFG 4, 0x51), (ICU_GCTL, 1)] { sv with cores := { a := { ok := true } } }), by decide +kernel⟩,
   ⟨.a, 4, 4, [7], st ({ sv with cores := { a := { ok := true, stack := [4, 7] } } }), by decide +kernel⟩,
   ⟨.a, 7, 4, [7], st ({ sv with cores := { a := { ok := true, stack := [4, 7] } } }), by decide +kernel⟩,
   ⟨st (rg [(ICU_GCTL, 0x80000000)] sv), by decide +kernel⟩,
   ⟨0, st sv, by decide +kernel⟩,
   ⟨.a, 0, st (rg [(0x400C, 0)] sv), by decide +kernel⟩,
   ⟨.a, 0, st sv, by decide +kernel⟩,
   ⟨.a, st ({ sv with a := { sv.a with funcMask := true } }), by decide +kernel⟩,
   ⟨.a, 0, st (rg [(0x400C, 0), (pbaOff .a 0, 1)] { sv with a := { sv.a with funcMask := true } }), by decide +kernel⟩,
   ⟨st ({ sv with images := { running := 1, raiseFloor := true, floor := 2, svn := 3 } }), by decide +kernel⟩⟩

/-- States and operands that meet the hypotheses of `Obligations.RAILS`, clause by clause. -/
theorem witness_RAILS :
    (∃ (n : Fin 16) (s : State), seqPresent s.fuse s.dev n.val = true ∧ s.dev.watched n.val = true ∧ (s.dev.seqCh n.val).valid = false) ∧
    (∃ (n : Fin 16) (s : State), n.val ≤ 10 ∧ seqPresent s.fuse s.dev n.val = true ∧ (s.dev.seqCh n.val).valid = true ∧ s.dev.live = true ∧
    s.dev.pwr.downing = none) ∧
    (∃ (n : Fin 16) (s : State), n.val ≤ 10 ∧ seqPresent s.fuse s.dev n.val = true ∧ (s.dev.seqCh n.val).valid = true ∧ s.dev.live = true ∧
    s.dev.pwr.downing = none ∧ s.dev.pwr.flush = none) ∧
    (∃ (n : Fin 16) (c : _) (s : State), c = Tbl.look {} s.dev.pwr.board.chan n.val ∧ 12 ≤ n.val ∧ seqPresent s.fuse s.dev n.val = true ∧
    (s.dev.seqCh n.val).valid = true ∧ c.react = 1 ∧ (s.dev.seqCh n.val).tries < c.retries ∧ s.dev.tether.now < (s.dev.seqCh n.val).since
    + 10 ^ 9) ∧
    (∃ (n : Fin 16) (s : State), seqPresent s.fuse s.dev n.val = true ∧ (s.dev.seqCh n.val).en = true ∧ (s.dev.seqCh n.val).valid = false) ∧
    (∃ (s : State), s.dev.pwr.svc = .bringup ∧ s.dev.pwr.step = 1 ∧ s.dev.pwr.downing = none ∧ s.dev.pwr.flush = none ∧ s.dev.rises 0 = true) ∧
    (∃ (s : State), s.dev.pwr.downing = some .reset ∧ s.dev.pwr.upAgain = false ∧ (∀ n, (s.dev.seqCh n).en = false)) ∧
    (∃ (n : Fin 16) (s : State), 12 ≤ n.val ∧ (s.dev.seqCh n.val).en = false ∧ (s.dev.seqCh n.val).down = false ∧ 0 < (s.dev.seqCh n.val).tries
    ∧ s.dev.live = true ∧ s.dev.pwr.downing = none ∧ (s.dev.seqCh n.val).offAt + 10000000 < 2 ^ 64) ∧
    (∃ (s : State), s.dev.live = true ∧ s.dev.pwr.downing = none ∧ s.dev.pwr.flush = none) ∧
    (∃ (t : _) (s : State), s.dev.pwr.restartAt = some t ∧ s.dev.pwr.svc = .off ∧ s.dev.pwr.inputOk = true ∧ s.dev.pwr.pwrReq = true ∧
    s.dev.pwr.limited = false ∧ s.dev.pwr.tsHold = false ∧ s.dev.pwr.extHold = false ∧ t < 2 ^ 64) :=
  ⟨⟨11, st sv, by decide +kernel⟩,
   ⟨0, st sv, by decide +kernel⟩,
   ⟨0, st sv, by decide +kernel⟩,
   ⟨12, { used := true, react := 1, retries := 3, role := 1, after := 10 }, st
    ({ sv with pwr := { sv.pwr with seq := (12, { en := true, valid := true }) :: [] } }), by decide +kernel⟩,
   ⟨5, st ({ sv with pwr := { sv.pwr with seq := [(5, { en := true })] } }), by decide +kernel⟩,
   ⟨st ({ sp .bringup 1 sv with pwr := { svc := .bringup, step := 1 } }), by decide +kernel⟩,
   ⟨st ({ sv with pwr := { svc := .flush, downing := some .reset } }), ⟨by decide +kernel, by decide +kernel, fun _ => rfl⟩⟩,
   ⟨12, st ({ sv with pwr := { sv.pwr with seq := [(12, { tries := 1, offAt := 5 })] } }), by decide +kernel⟩,
   ⟨st sv, by decide +kernel⟩,
   ⟨5, st ({ sv with pwr := { svc := .off, restartAt := some 5, inputOk := true, pwrReq := true } }), by decide +kernel⟩⟩

/-- States and operands that meet the hypotheses of `Obligations.POWER_INPUTS`, clause by clause. -/
theorem witness_POWER_INPUTS :
    (∃ (s : State), s.dev.pwr.pulse = true) ∧
    (∃ (s : State), s.dev.pwr.drive = false ∧ s.dev.pwr.pulse = false) ∧
    (∃ (h : _) (v : Reg32) (s : State), presentHead s.fuse h = true ∧ s.dev.pwr.svc = .full ∧ s.dev.pwr.board.valid = true ∧
    s.dev.pwr.board.marginCh = some (bits v.toNat 3 0) ∧ bits v.toNat 11 8 ≤ 10 ∧ s.dev.pwr.margin = none ∧ (bits v.toNat 5 4 = 1 ∨ bits
    v.toNat 5 4 = 2)) ∧
    (∃ (v : Reg32), 10 < bits v.toNat 11 8) ∧
    (∃ (h : _) (v : Reg32) (b : _) (c : _) (s : State), presentHead s.fuse h = true ∧ s.dev.pwr.svc = .full ∧ s.dev.pwr.board.valid = true ∧
    s.dev.pwr.board.marginCh = some (bits v.toNat 3 0) ∧ bits v.toNat 11 8 ≤ 10 ∧ s.dev.pwr.margin = some (bits v.toNat 3 0, b, c) ∧ bits
    v.toNat 5 4 = 0) ∧
    (∃ (vin : _) (s : State), s.dev.vinOk ≤ vin) ∧
    (∃ (vin : _) (s : State), vin < s.dev.vinFail) ∧
    (∃ (vin : _) (s : State), s.dev.vinFail ≤ vin) ∧
    (∃ (s : State), s.dev.pwr.pwrReq = false) ∧
    (∃ (s : State), s.dev.pwr.pwrReq = true) ∧
    (∃ (vh : _) (ch : _) (ld : _) (s : State), s.dev.roleChan 1 = some ch ∧ s.dev.roleChan 2 = some ld ∧ s.dev.live = true ∧ s.dev.pwr.downing
    = none ∧ s.dev.pwr.flush = none ∧ s.dev.pwr.inputOk = true ∧ s.dev.pwr.measuring = false ∧ 10 * s.dev.pwr.board.vhFull ≤ vh ∧
    s.dev.pwr.cap = none) ∧
    (∃ (ns : _) (ch : _) (ld : _) (s : State), s.dev.roleChan 1 = some ch ∧ s.dev.roleChan 2 = some ld ∧ s.dev.pwr.measuring = true ∧ ns ≤
    500000000 ∧ s.dev.pwr.inputOk = true ∧ 0 < s.dev.pwr.board.rTest) ∧
    (∃ (vh : _) (c : _) (s : State), s.dev.pwr.inputOk = true ∧ s.dev.pwr.replayDone = true ∧ s.dev.pwr.cap = some c ∧ s.dev.pwr.margin = none
    ∧ s.dev.pwr.board.valid = true ∧ (s.dev.pwr.svc = .reduced ∨ s.dev.pwr.svc = .full) ∧ s.dev.pwr.measuring = false ∧
    s.dev.pwr.board.armPct * eRip s.fuse * (2 * 10 ^ 10) ≤ c * s.dev.pwr.board.eta * (vh * vh - 10 * s.dev.pwr.board.vhMin * (10 *
    s.dev.pwr.board.vhMin))) ∧
    (∃ (s : State), s.dev.pwr.replayDone = false) :=
  ⟨⟨st ({ sv with pwr := { sv.pwr with pulse := true, pinLow := true } }), by decide +kernel⟩,
   ⟨st sv, by decide +kernel⟩,
   ⟨.a, 0x0A1C, st ({ sv with pwr := { sv.pwr with board := { sv.pwr.board with marginCh := some 12 } } }), by decide +kernel⟩,
   ⟨0x0B1C, by decide +kernel⟩,
   ⟨.a, 0x000C, 1, 5, st ({ sv with pwr := { sv.pwr with margin := some (12, 1, 5), board := { sv.pwr.board with marginCh := some 12 } } }),
    by decide +kernel⟩,
   ⟨1100, st sv, by decide +kernel⟩,
   ⟨1049, st sv, by decide +kernel⟩,
   ⟨1050, st sv, by decide +kernel⟩,
   ⟨st ({ sv with pwr := { svc := .off, inputOk := true } }), by decide +kernel⟩,
   ⟨st sv, by decide +kernel⟩,
   ⟨10000, 12, 13, st ({ sv with pwr := { sv.pwr with cap := none } }), by decide +kernel⟩,
   ⟨500000000, 12, 13, st ({ sv with pwr := { sv.pwr with measuring := true } }), by decide +kernel⟩,
   ⟨14000, 10000, st sv, by decide +kernel⟩,
   ⟨st ({ sv with pwr := { sv.pwr with replayDone := false } }), by decide +kernel⟩⟩

/-- States and operands that meet the hypotheses of `Obligations.BRINGUP_AND_REPLAY`, clause by clause. -/
theorem witness_BRINGUP_AND_REPLAY :
    (∃ (s : State), s.dev.pwr.svc = .bringup ∧ s.dev.dbg.hold = false ∧ s.dev.pwr.flush = none ∧ s.dev.pwr.stopUp = false ∧ s.dev.pwr.step = 1
    ∧ (s.dev.phaseA.flatten.all fun n => (s.dev.seqCh n).valid) = true) ∧
    (∃ (s : State), s.dev.pwr.svc = .bringup ∧ s.dev.dbg.hold = false ∧ s.dev.pwr.flush = none ∧ s.dev.pwr.stopUp = false ∧ s.dev.pwr.step = 1
    ∧ (s.dev.phaseA.flatten.all fun n => (s.dev.seqCh n).valid) = false) ∧
    (∃ (inp : List Nat) (s : State), s.dev.pwr.svc = .bringup ∧ s.dev.dbg.hold = false ∧ s.dev.pwr.flush = none ∧ s.dev.pwr.stopUp = false ∧
    s.dev.pwr.step = 2 ∧ inp = []) ∧
    (∃ (inp : List Nat) (s : State), s.dev.pwr.svc = .bringup ∧ s.dev.dbg.hold = false ∧ s.dev.pwr.flush = none ∧ s.dev.pwr.stopUp = false ∧
    s.dev.pwr.step = 2 ∧ 0 < inp.headD 0) ∧
    (∃ (inp : List Nat) (s : State), s.dev.pwr.svc = .bringup ∧ s.dev.dbg.hold = false ∧ s.dev.pwr.flush = none ∧ s.dev.pwr.stopUp = false ∧
    s.dev.pwr.step = 3 ∧ inp = [1, 1]) ∧
    (∃ (inp : List Nat) (s : State), s.dev.pwr.svc = .bringup ∧ s.dev.dbg.hold = false ∧ s.dev.pwr.flush = none ∧ s.dev.pwr.stopUp = false ∧
    s.dev.pwr.step = 3 ∧ inp = [0, 1]) ∧
    (∃ (inp : List Nat) (s : State), s.dev.pwr.svc = .bringup ∧ s.dev.dbg.hold = false ∧ s.dev.pwr.flush = none ∧ s.dev.pwr.stopUp = false ∧
    s.dev.pwr.step = 3 ∧ inp = [0, 0]) ∧
    (∃ (inp : List Nat) (s : State) (p : _) (q : _) (b : _), s.dev.pwr.svc = .bringup ∧ s.dev.dbg.hold = false ∧ s.dev.pwr.flush = none ∧
    s.dev.pwr.stopUp = false ∧ s.dev.pwr.step = 4 ∧ inp = p.length :: p ++ q ∧ bcPick s.fuse p q = some b) ∧
    (∃ (inp : List Nat) (s : State) (p : _) (q : _), s.dev.pwr.svc = .bringup ∧ s.dev.dbg.hold = false ∧ s.dev.pwr.flush = none ∧
    s.dev.pwr.stopUp = false ∧ s.dev.pwr.step = 4 ∧ inp = p.length :: p ++ q ∧ bcPick s.fuse p q = none) ∧
    (∃ (s : State), s.dev.pwr.svc = .bringup ∧ s.dev.dbg.hold = false ∧ s.dev.pwr.flush = none ∧ s.dev.pwr.stopUp = false ∧ s.dev.pwr.step = 5
    ∧ bootSlot s.fuse s.dev = none) ∧
    (∃ (s : State), s.dev.pwr.svc = .bringup ∧ s.dev.dbg.hold = false ∧ s.dev.pwr.flush = none ∧ s.dev.pwr.stopUp = false ∧ s.dev.pwr.step = 6
    ∧ ((s.dev.phaseA ++ phaseB s.fuse s.dev).flatten.all fun n => (s.dev.seqCh n).valid) = true) ∧
    (∃ (s : State), s.dev.pwr.svc = .bringup ∧ s.dev.dbg.hold = false ∧ s.dev.pwr.flush = none ∧ s.dev.pwr.stopUp = false ∧ s.dev.pwr.step = 7
    ∧ mediaReady s.fuse s.dev = true) ∧
    (∃ (s : State), s.dev.pwr.svc = .reduced ∧ s.dev.pwr.step = 10 ∧ s.dev.dbg.hold = false ∧ s.dev.pwr.flush = none ∧ s.dev.drift.surveyDone =
    true ∧ s.dev.pwr.scrubFirst = false) ∧
    (∃ (s : State), s.dev.pwr.svc = .bringup ∧ s.dev.pwr.step = 8 ∧ s.dev.dbg.hold = false ∧ s.dev.pwr.downing = none ∧ s.dev.pwr.stopUp =
    false) ∧
    (∃ (x : _) (l : _) (n : _) (g : _) (s : State), s.dev.pwr.svc = .bringup ∧ s.dev.pwr.step = 8 ∧ s.dev.dbg.hold = false ∧ s.dev.pwr.downing
    = none ∧ s.dev.pwr.stopUp = false ∧ s.dev.pwr.segs = x :: l ∧ x.complete = true ∧ x.released = false ∧ s.dev.pwr.ended = 2 ∧ x.staged
    = [(n, some g)] ∧ x.wb = [] ∧ g.key = 0) ∧
    (∃ (s : State), s.dev.pwr.svc = .reduced ∧ s.dev.pwr.step = 9) ∧
    (∃ (n : _) (s : State), s.dev.pwr.segUsed = some n ∧ s.dev.pwr.replayDone = true ∧ s.dev.segDrained n = true) :=
  ⟨⟨st (sp .bringup 1 sv), by decide +kernel⟩,
   ⟨st ({ sp .bringup 1 sv with pwr := { svc := .bringup, step := 1 } }), by decide +kernel⟩,
   ⟨[], st (sp .bringup 2 sv), by decide +kernel⟩,
   ⟨[1], st (sp .bringup 2 sv), by decide +kernel⟩,
   ⟨[1, 1], st (sp .bringup 3 sv), by decide +kernel⟩,
   ⟨[0, 1], st (sp .bringup 3 sv), by decide +kernel⟩,
   ⟨[0, 0], st (sp .bringup 3 sv), by decide +kernel⟩,
   ⟨bc.length :: bc ++ [], st (sp .bringup 4 sv), bc, [], bc, by decide +kernel⟩,
   ⟨[0], st (sp .bringup 4 sv), [], [], by decide +kernel⟩,
   ⟨st (sp .bringup 5 sv), by decide +kernel⟩,
   ⟨st
    ({ sp .bringup 6 sv with pwr := { svc := .bringup, step := 6, seq := [0, 1, 2, 3, 4, 5, 6, 7, 8, 9, 10].map fun n => (n, { en := true, valid := true }) } }),
    by decide +kernel⟩,
   ⟨st ({ sp .bringup 7 sv with media := {} }), by decide +kernel⟩,
   ⟨st ({ sp .reduced 10 sv with drift := { surveyDone := true } }), by decide +kernel⟩,
   ⟨st ({ sp .bringup 8 sv with pwr := { svc := .bringup, step := 8, ended := 1 } }), by decide +kernel⟩,
   ⟨{ num := 3, staged := [(0, some { data := 7, mask := fullMask })], complete := true }, [], 0, { data := 7, mask := fullMask }, st
    ({ sv with pwr := { svc := .bringup, step := 8, ended := 2, segs := [{ num := 3, staged := [(0, some { data := 7, mask := fullMask })], complete := true }] } }),
    by decide +kernel⟩,
   ⟨st (sp .reduced 9 sv), by decide +kernel⟩,
   ⟨3, st ({ sv with pwr := { sv.pwr with segUsed := some 3, segs := [{ num := 3, complete := true }] } }), by decide +kernel⟩⟩

/-- States and operands that meet the hypotheses of `Obligations.FLUSH_AND_REST`, clause by clause. -/
theorem witness_FLUSH_AND_REST :
    (∃ (s : State), (s.dev.pwr.svc = .bringup ∨ s.dev.pwr.svc = .reduced ∨ s.dev.pwr.svc = .full) ∧ s.dev.pwr.inputOk = false) ∧
    (∃ (f : _) (s : State), s.dev.pwr.flush = some f ∧ f.step = 2 ∧ f.start + 10000 < 2 ^ 64) ∧
    (∃ (f : _) (s : State), s.dev.pwr.flush = some f ∧ f.step = 3 ∧ s.dev.readsLeft = false) ∧
    (∃ (f : _) (n : _) (s : State), s.dev.pwr.flush = some f ∧ f.seg = some n ∧ f.step = 4 ∧ s.dev.anyBusy = false) ∧
    (∃ (f : _) (n : _) (s : State), s.dev.pwr.flush = some f ∧ f.seg = some n ∧ f.step = 4) ∧
    (∃ (f : _) (s : State), s.dev.pwr.flush = some f ∧ f.step = 5 ∧ f.ripcord = false ∧ f.ledgerSaved = false) ∧
    (∃ (f : _) (x : _) (l : _) (s : State), s.dev.pwr.flush = some f ∧ f.step = 5 ∧ s.dev.pwr.inputOk = true ∧ (f.ripcord = true ∨
    f.ledgerSaved = true) ∧ s.dev.pwr.segs = x :: l) ∧
    (∃ (f : _) (n : _) (s : State), s.dev.pwr.flush = some f ∧ f.step = 6 ∧ f.seg = some n ∧ (s.dev.pwr.segs.any fun x => x.num == n &&
    x.complete) = true ∧ f.ripcord = false ∧ f.why = .pwrReq ∧ s.dev.pwr.upAgain = false ∧ s.dev.diesQuiet = true) ∧
    (∃ (f : _) (s : State), s.dev.pwr.flush = some f ∧ f.step = 6 ∧ f.ripcord = false ∧ f.why = .rest ∧ s.dev.pwr.upAgain = false ∧
    s.dev.diesQuiet = true ∧ s.dev.pwr.inputOk = true ∧ s.dev.pwr.pwrReq = true) ∧
    (∃ (s : State), (s.dev.pwr.svc = .reduced ∨ s.dev.pwr.svc = .full) ∧ s.dev.pwr.inputOk = true ∧ s.dev.pwr.pwrReq = true ∧ (∀ h, activeHead
    s.fuse s.dev h = true → (s.dev.head h).d3cold = true)) ∧
    (∃ (pin : Fin 8) (s : State), (Tbl.look {} s.dev.gpio pin.val).role ≠ 1) ∧
    (∃ (h : _) (s : State), s.dev.pwr.svc = .rest ∧ presentHead s.fuse h = true ∧ activeHead s.fuse s.dev h = true) ∧
    (∃ (h : _) (s : State), presentHead s.fuse h = true) ∧
    (∃ (s : State), s.dev.keel.active = []) :=
  ⟨⟨st ({ sv with pwr := { sv.pwr with inputOk := false } }), by decide +kernel⟩,
   ⟨{ why := .input, ripcord := true, step := 2, start := 5 }, st (fl { why := .input, ripcord := true, step := 2, start := 5 } sv),
    by decide +kernel⟩,
   ⟨{ why := .input, ripcord := true, step := 3 }, st (fl { why := .input, ripcord := true, step := 3 } sv), by decide +kernel⟩,
   ⟨{ why := .input, ripcord := true, step := 4, seg := some 3 }, 3, st (fl { why := .input, ripcord := true, step := 4, seg := some 3 } (dd
    { init := false } sv)), by decide +kernel⟩,
   ⟨{ why := .input, ripcord := true, step := 4, seg := some 3 }, 3, st (fl { why := .input, ripcord := true, step := 4, seg := some 3 } sv),
    by decide +kernel⟩,
   ⟨{ why := .pwrReq, ripcord := false, step := 5 }, st (fl { why := .pwrReq, ripcord := false, step := 5 } sv), by decide +kernel⟩,
   ⟨{ why := .pwrReq, ripcord := false, step := 5, seg := some 3, programmed := true, ledgerSaved := true }, { num := 3 }, [], st (fl
    { why := .pwrReq, ripcord := false, step := 5, seg := some 3, programmed := true, ledgerSaved := true }
    { sv with pwr := { sv.pwr with segs := [{ num := 3 }] } }), by decide +kernel⟩,
   ⟨{ why := .pwrReq, ripcord := false, step := 6, seg := some 3, programmed := true, ledgerSaved := true }, 3, st (fl
    { why := .pwrReq, ripcord := false, step := 6, seg := some 3, programmed := true, ledgerSaved := true }
    { sv with pwr := { sv.pwr with segs := [{ num := 3, complete := true }] } }), by decide +kernel⟩,
   ⟨{ why := .rest, ripcord := false, step := 6, seg := some 3, programmed := true, ledgerSaved := true }, st (fl
    { why := .rest, ripcord := false, step := 6, seg := some 3, programmed := true, ledgerSaved := true }
    { sv with pwr := { sv.pwr with segs := [{ num := 3, complete := true }] } }), by decide +kernel⟩,
   ⟨st ({ sv with a := { sv.a with dstate := 3, d3cold := true } }), ⟨by decide +kernel, by decide +kernel, by decide +kernel, fun h => by
    cases h <;> decide +kernel⟩⟩,
   ⟨0, st ({ sv with gpio := [(0, { role := 3 })], pwr := { sv.pwr with svc := .rest } }), by decide +kernel⟩,
   ⟨.a, st ({ sv with pwr := { sv.pwr with svc := .rest } }), by decide +kernel⟩,
   ⟨.a, st ({ sv with a := { d3cold := true, dstate := 3 } }), by decide +kernel⟩,
   ⟨st sv, by decide +kernel⟩⟩

/-- States and operands that meet the hypotheses of `Obligations.TEMPERATURE_AND_SIDEBAND`, clause by clause. -/
theorem witness_TEMPERATURE_AND_SIDEBAND :
    (∃ (i : Fin 14) (code : Fin 1024) (s : State), s.dev.keel.ready = true ∧ s.dev.live = true ∧ s.dev.tooHot i.val code.val = false) ∧
    (∃ (s : State), s.dev.keel.ready = true ∧ s.dev.live = true) ∧
    (∃ (i : Fin 14) (code : Fin 1024) (s : State), s.dev.keel.ready = true ∧ s.dev.tooHot i.val code.val = true ∧ (s.dev.pwr.svc = .bringup ∨
    s.dev.pwr.svc = .reduced ∨ s.dev.pwr.svc = .full)) ∧
    (∃ (code : Fin 1024) (s : State), s.dev.pwr.svc = .off ∧ s.dev.pwr.tsHold = true ∧ code.val ≤ 708) ∧
    (∃ (code : Fin 1024), 708 < code.val) ∧
    (∃ (s : State), s.dev.keel.ready = true ∧ s.dev.live = true ∧ dueMultiple s.dev.tether.now 8000000 (Tbl.look 0 s.dev.tether.ticks 6) < 2 ^
    64) ∧
    (∃ (i : _) (s : State), s.dev.therm.due = true ∧ i < 14 ∧ (s.dev.sensor i).seen = true) ∧
    (∃ (s : State), s.dev.therm.due = false) ∧
    (∃ (s : State), (s.dev.pwr.svc = .off ∨ s.dev.pwr.svc = .rest)) ∧
    (∃ (eid : Byte) (op : Fin 4), op.val < 2 ∧ eid ≠ 0 ∧ eid ≠ 0xFF) ∧
    (∃ (eid : Byte) (op : Fin 4), (2 ≤ op.val ∨ eid = 0 ∨ eid = 0xFF)) ∧
    (∃ (idx : BitVec 16) (s : State), s.dev.live = true ∧ idx.toNat < 14) :=
  ⟨⟨13, 727, st sv, by decide +kernel⟩,
   ⟨st sv, by decide +kernel⟩,
   ⟨0, 728, st ({ sv with therm := { sns := (List.range 14).map fun i => (i, { seen := true, conv := 728, hot := true }) } }),
    by decide +kernel⟩,
   ⟨708, st ({ sv with pwr := { svc := .off, tsHold := true } }), by decide +kernel⟩,
   ⟨709, by decide +kernel⟩,
   ⟨st ({ sv with therm := { sns := [(2, { seen := true, conv := 500 })] } }), by decide +kernel⟩,
   ⟨2, st ({ sv with therm := { due := true, sns := [(2, { seen := true, valid := true, code := 500 })] } }), by decide +kernel⟩,
   ⟨st sv, by decide +kernel⟩,
   ⟨st ({ sv with pwr := { svc := .rest } }), by decide +kernel⟩,
   ⟨254, 1, by decide +kernel⟩,
   ⟨255, 1, by decide +kernel⟩,
   ⟨13, st ({ sv with therm := { sns := [(13, { valid := true, code := 400 })] } }), by decide +kernel⟩⟩

/-- States and operands that meet the hypotheses of `Obligations.KEEL_AND_LOGBOOK`, clause by clause. -/
theorem witness_KEEL_AND_LOGBOOK :
    (∃ (w : _) (s : State), s.dev.keel.pickStart [] s.dev.keel.waiting = some w ∧ s.dev.pwr.inputOk = true ∧ s.dev.live = true) ∧
    (∃ (page : Fin 1024) (w : _) (s : State), (s.dev.keel.active.find? fun w => w.page == page.val) = some w) ∧
    (∃ (page : Fin 1024) (w : _) (s : State), (s.dev.keel.active.find? fun w => w.page == page.val) = some w ∧ w.tries = 0) ∧
    (∃ (page : Fin 1024) (w : _) (s : State), (s.dev.keel.active.find? fun w => w.page == page.val) = some w ∧ w.tries ≠ 0 ∧ s.dev.keel.vfail <
    0xFFFF) ∧
    (∃ (s : State), s.dev.operating = true ∧ 60 ≤ s.dev.keel.sinceSave) ∧
    (∃ (s : State), s.dev.operating = true ∧ s.dev.keel.opsec < 59) ∧
    (∃ (s : State), s.dev.operating = true ∧ s.dev.keel.opsec = 59) ∧
    (∃ (s : State), s.dev.log.accepting = false ∧ s.dev.aon.events.length < 8) ∧
    (∃ (s : State), s.fuse.cls = .s ∧ s.dev.log.accepting = true) ∧
    (∃ (s : State), s.dev.log.frozen = false ∧ s.dev.log.accepting = true ∧ s.dev.log.lostNew = 0) ∧
    (∃ (s : State), s.dev.log.frozen = true) ∧
    (∃ (s : State), s.dev.log.frozen = false) :=
  ⟨⟨{ page := 3, off := 0, data := [1], kind := .raw }, st
    ({ sv with keel := { waiting := [{ page := 3, off := 0, data := [1], kind := .raw }] } }), by decide +kernel⟩,
   ⟨3, { page := 3, off := 255, data := [1], kind := .raw }, st
    ({ sv with keel := { active := [{ page := 3, off := 255, data := [1], kind := .raw }] } }), by decide +kernel⟩,
   ⟨3, { page := 3, off := 0, data := [1], kind := .raw }, st
    ({ sv with keel := { active := [{ page := 3, off := 0, data := [1], kind := .raw }] } }), by decide +kernel⟩,
   ⟨3, { page := 3, off := 0, data := [1], kind := .raw, tries := 1 }, st
    ({ sv with keel := { active := [{ page := 3, off := 0, data := [1], kind := .raw, tries := 1 }] } }), by decide +kernel⟩,
   ⟨st ({ sv with keel := { ready := true, sinceSave := 60 } }), by decide +kernel⟩,
   ⟨st ({ sv with keel := { ready := true, opsec := 58 } }), by decide +kernel⟩,
   ⟨st ({ sv with keel := { ready := true, opsec := 59 } }), by decide +kernel⟩,
   ⟨st ({ sv with log := {} }), by decide +kernel⟩,
   ⟨{ st (sv) with fuse := { cls := .s } }, by decide +kernel⟩,
   ⟨st ({ sv with log := { accepting := true, buf := [{ number := 0, code := 1 }], next := 1 } }), by decide +kernel⟩,
   ⟨st ({ sv with log := { accepting := true, frozen := true } }), by decide +kernel⟩,
   ⟨st sv, by decide +kernel⟩⟩

/-- States and operands that meet the hypotheses of `Obligations.COUNTERS_AND_SLICES`, clause by clause. -/
theorem witness_COUNTERS_AND_SLICES :
    (∃ (h : _) (n : Fin 64) (v : Reg32) (s : State), ownsPmc s.fuse s.dev h n.val 64 = true ∧ bit v.toNat 30 = true) ∧
    (∃ (h : _) (n : Fin 64) (s : State), ownsPmc s.fuse s.dev h n.val 64 = false) ∧
    (∃ (s : State), portMode s.fuse s.dev ≠ .dualHead) ∧
    (∃ (s : State), portMode s.fuse s.dev = .dualHead) ∧
    (∃ (h : _) (i : Fin 8) (v : Reg32) (s : State), ownsPmc s.fuse s.dev h i.val 8 = true ∧ bit v.toNat 30 = true) ∧
    (∃ (s : State), s.dev.live = true) ∧
    (∃ (s : State), s.dev.fld BST_CFG 15 0 ≠ 0 ∧ s.dev.inService = true ∧ s.dev.fwRuns = true) ∧
    (∃ (n : BitVec 12) (x : _) (lock : _) (s : State), (s.dev.bst.queue.find? fun x => x.num == n.toNat) = some x ∧ slicePresent s.fuse s.dev
    n.toNat = true ∧ sliceOpen s.dev x = true ∧ sliceReady s.dev n.toNat lock = true ∧ x.owner = none ∧ s.dev.Loud) ∧
    (∃ (n : BitVec 12) (x : _) (lock : _) (s : State), (s.dev.bst.queue.find? fun x => x.num == n.toNat) = some x ∧ slicePresent s.fuse s.dev
    n.toNat = true ∧ sliceOpen s.dev x = true ∧ sliceReady s.dev n.toNat lock = true ∧ x.owner = none ∧ s.dev.Loud ∧ s.dev.bst.faults <
    0xFFF) ∧
    (∃ (n : BitVec 12) (x : _) (lock : _) (s : State), (s.dev.bst.queue.find? fun x => x.num == n.toNat) = some x ∧ slicePresent s.fuse s.dev
    n.toNat = true ∧ sliceOpen s.dev x = true ∧ sliceReady s.dev n.toNat lock = false ∧ x.deferrals < 8 ∧ s.dev.Loud) :=
  ⟨⟨.a, 31, 0x40000000, st ({ md .dualHead sv with pmc := { cnt := [(31, { v := 5 })] } }), by decide +kernel⟩,
   ⟨.a, 32, st (md .dualHead sv), by decide +kernel⟩,
   ⟨st ({ sv with pmc := { cnt := [(31, { v := 5 })] } }), by decide +kernel⟩,
   ⟨st ({ md .dualHead sv with pmc := { cnt := [(31, { v := 5 })] } }), by decide +kernel⟩,
   ⟨.a, 3, 0x40000000, st ({ md .dualHead sv with pmc := { bin := [(127, { v := 5 })] } }), by decide +kernel⟩,
   ⟨st sv, by decide +kernel⟩,
   ⟨st (rg [(BST_CFG, 5)] sv), by decide +kernel⟩,
   ⟨0x300, { num := 0x300 }, true, st ({ sv with bst := { queue := [{ num := 0x300 }], unitOpen := [2, 3] } }), by decide +kernel⟩,
   ⟨0x300, { num := 0x300 }, true, st ({ sv with bst := { queue := [{ num := 0x300 }], unitOpen := [2, 3] } }), by decide +kernel⟩,
   ⟨0x300, { num := 0x300 }, false, st ({ sv with bst := { queue := [{ num := 0x300 }], unitOpen := [2, 3] } }), by decide +kernel⟩⟩

/-- States and operands that meet the hypotheses of `Obligations.DEBUG_PORT`, clause by clause. -/
theorem witness_DEBUG_PORT :
    (∃ (s : State), s.dev.tap = false) ∧
    (∃ (s : State), s.dev.tap = true) ∧
    (∃ (s : State) (code : Fin 64), s.dev.tap = true ∧ code.val ∉ irCodes) ∧
    (∃ (s : State), s.dev.tap = true ∧ s.dev.dbg.fails < 4) ∧
    (∃ (s : State), s.dev.tap = true ∧ 4 ≤ s.dev.dbg.fails) ∧
    (∃ (c : _) (s : State), s.dev.tap = true ∧ s.dev.dbg.unlocked = false ∧ s.dev.dbg.busy = false ∧ s.dev.dbg.fails < 4 ∧ s.dev.dbg.chal =
    some c) ∧
    (∃ (s : State), s.dev.tap = true ∧ s.dev.dbg.busy = false ∧ s.dev.dbg.unlocked = false) ∧
    (∃ (s : State) (p : _), s.dev.tap = true ∧ s.dev.dbg.busy = false ∧ s.dev.dbg.unlocked = true ∧ (s.dev.pair p).runs = true ∧ (s.dev.pair
    p).halted = false) ∧
    (∃ (s : State) (p : _), s.dev.tap = true ∧ s.dev.dbg.busy = false ∧ s.dev.dbg.unlocked = true ∧ (s.dev.pair p).halted = true) ∧
    (∃ (s : State) (p : _), s.dev.tap = true ∧ s.dev.dbg.busy = false ∧ s.dev.dbg.unlocked = true ∧ (s.dev.pair p).halted = false) ∧
    (∃ (s : State), s.dev.tap = true ∧ s.dev.dbg.busy = false ∧ s.dev.dbg.unlocked = true) ∧
    (∃ (s : State) (p : _) (a : BitVec 48) (off : _), s.dev.tap = true ∧ s.dev.dbg.busy = false ∧ s.dev.dbg.unlocked = true ∧ fxPlace a.toNat =
    .memory p off) ∧
    (∃ (s : State) (p : _) (a : BitVec 48) (off : _) (i : _), s.dev.tap = true ∧ s.dev.dbg.busy = false ∧ s.dev.dbg.unlocked = true ∧ fxPlace
    a.toNat = .memory p off ∧ i < 8) ∧
    (∃ (s : State) (a : BitVec 48), s.dev.tap = true ∧ s.dev.dbg.busy = false ∧ s.dev.dbg.unlocked = true ∧ fxPlace a.toNat = .none) ∧
    (∃ (s : State) (i : Fin 64), s.dev.tap = true ∧ s.dev.dbg.busy = false ∧ s.dev.dbg.unlocked = true ∧ (s.dev.sem i.val).owner = 0) ∧
    (∃ (s : State) (i : Fin 64), s.dev.tap = true ∧ s.dev.dbg.busy = false ∧ s.dev.dbg.unlocked = true ∧ (s.dev.sem i.val).owner = 3) ∧
    (∃ (p : _) (i : Fin 8) (a : _) (s : State), Tbl.look none (s.dev.pair p).bkpt i.val = some a ∧ (s.dev.pair p).runs = true ∧ (s.dev.pair
    p).halted = false) :=
  ⟨⟨st ({ sv with pwr := {} }), by decide +kernel⟩,
   ⟨st sv, by decide +kernel⟩,
   ⟨st sv, 63, by decide +kernel⟩,
   ⟨st sv, by decide +kernel⟩,
   ⟨st ({ sv with dbg := { fails := 4 } }), by decide +kernel⟩,
   ⟨7, st ({ sv with dbg := { chal := some 7 } }), by decide +kernel⟩,
   ⟨st sv, by decide +kernel⟩,
   ⟨st ({ sv with dbg := { unlocked := true } }), .a, by decide +kernel⟩,
   ⟨st ({ sv with dbg := { unlocked := true }, cores := { a := { ok := true, halted := true, haltAt := 5, pet := 3 } } }), .a,
    by decide +kernel⟩,
   ⟨st ({ sv with dbg := { unlocked := true } }), .a, by decide +kernel⟩,
   ⟨st ({ sv with dbg := { unlocked := true } }), by decide +kernel⟩,
   ⟨st ({ sv with dbg := { unlocked := true } }), .b, 0x11000004, 4, by decide +kernel⟩,
   ⟨st ({ sv with dbg := { unlocked := true } }), .a, 0x10FFFFF8, 0xFFFFF8, 7, by decide +kernel⟩,
   ⟨st ({ sv with dbg := { unlocked := true } }), 0x12000000, by decide +kernel⟩,
   ⟨st ({ sv with dbg := { unlocked := true } }), 63, by decide +kernel⟩,
   ⟨st ({ sv with dbg := { unlocked := true }, sems := [(63, ⟨3, false⟩)] }), 63, by decide +kernel⟩,
   ⟨.a, 7, 4096, st ({ sv with cores := { a := { ok := true, bkpt := [(7, some 4096)] } } }), by decide +kernel⟩⟩

/-- States and operands that meet the hypotheses of `Obligations.REGISTER_WRITES`, clause by clause. -/
theorem witness_REGISTER_WRITES :
    (∃ (h : _) (s : State), Dev.answers s.fuse s.dev h = false) ∧
    (∃ (h : _) (s : State), Dev.answers s.fuse s.dev h = true ∧ s.dev.rbit GLB_REG_ERR 31 = false) ∧
    (∃ (h : _) (s : State), Dev.answers s.fuse s.dev h = true ∧ s.dev.rbit GLB_REG_ERR 31 = true) ∧
    (∃ (h : _) (off : BitVec 20) (s : State), Dev.answers s.fuse s.dev h = true ∧ off.toNat % 4 ≠ 0) ∧
    (∃ (h : _) (off : BitVec 20) (s : State), Dev.answers s.fuse s.dev h = true ∧ off.toNat % 4 = 0 ∧ off.toNat / 0x10000 = 13) ∧
    (∃ (h : _) (off : BitVec 20) (s : State), Dev.answers s.fuse s.dev h = true ∧ off.toNat % 4 = 0 ∧ s.dev.Loud ∧ off.toNat / 0x10000 ∈ [3, 5,
    7, 10, 12, 14] ∧ off.toNat ≠ MTL_HEAT_CFG) ∧
    (∃ (h : _) (s : State), Dev.answers s.fuse s.dev h = true ∧ s.dev.Loud) :=
  ⟨⟨.b, st sv, by decide +kernel⟩,
   ⟨.a, st sv, by decide +kernel⟩,
   ⟨.a, st (rg [(GLB_REG_ERR, 0x80000000)] sv), by decide +kernel⟩,
   ⟨.a, 1, st sv, by decide +kernel⟩,
   ⟨.a, 0xD0000, st sv, by decide +kernel⟩,
   ⟨.a, 0x30000, st sv, by decide +kernel⟩,
   ⟨.a, st ({ sv with pwr := { sv.pwr with extLevel := true } }), by decide +kernel⟩⟩

/-- States and operands that meet the hypotheses of `Obligations.LOW_RATE_LINK`, clause by clause. -/
theorem witness_LOW_RATE_LINK :
    (∃ (h : _) (rate : Fin 8) (width : Fin 32) (s : State), s.dev.live = true ∧ presentHead s.fuse h = true ∧ activeHead s.fuse s.dev h = true
    ∧ s.dev.pwr.downing = none ∧ s.dev.pwr.flush = none ∧ (s.dev.head h).d3cold = false ∧ rate.val ≤ 5 ∧ widthCode width.val ≠ 0 ∧
    width.val ≤ s.dev.maxWidth h ∧ rate.val < 2) ∧
    (∃ (h : _) (rate : Fin 8) (width : Fin 32) (s : State), s.dev.live = true ∧ presentHead s.fuse h = true ∧ activeHead s.fuse s.dev h = true
    ∧ s.dev.pwr.downing = none ∧ s.dev.pwr.flush = none ∧ (s.dev.head h).d3cold = false ∧ rate.val ≤ 5 ∧ widthCode width.val ≠ 0 ∧
    width.val ≤ s.dev.maxWidth h ∧ 2 ≤ rate.val) :=
  ⟨⟨.a, 1, 16, st sv, by decide +kernel⟩,
   ⟨.a, 2, 16, st sv, by decide +kernel⟩⟩

/-- States and operands that meet the hypotheses of `Obligations.SCRATCH_WAYS_BACK_VOLATILE`, clause by clause. -/
theorem witness_SCRATCH_WAYS_BACK_VOLATILE :
    (∃ (F : Fuses) (d : Dev) (h : Head) (conv : Nat → Bool) (w : _) (i : _) (off : _), (∀ w, conv w = (bit d.cache.scrAct (w - 8) && (!decide
    (portMode F d = .dualHead) || decide (bit d.cache.scrHeadB (w - 8) = decide (h = .b))))) ∧ d.scrChanging F h = false ∧ w ∈ [8, 9, 10]
    ∧ conv w = true ∧ i = (([8, 9, 10].filter fun k => decide (k < w) && conv k).length) ∧ off < 0x400000) ∧
    (∃ (s : State), s.dev.cache.scrBusy = true) :=
  ⟨⟨{}, { cache := { scrAct := 6 } }, .a, fun w => bit 6 (w - 8), 10, 1, 0x3FFFFF, ⟨fun w => by simp [portMode], by decide +kernel⟩⟩,
   ⟨st ({ sv with cache := { scrBusy := true } }), by decide +kernel⟩⟩

/-- States and operands that meet the hypotheses of `Obligations.EVENT_MERGING`, clause by clause. -/
theorem witness_EVENT_MERGING :
    (∃ (code : BitVec 16) (arg : BitVec 64) (l : _) (r : _) (s : State), s.dev.log.accepting = true ∧ s.fuse.cls ≠ .s ∧ s.dev.log.buf = l ++
    [r] ∧ r.code = code.toNat ∧ r.arg = arg.toNat ∧ r.count < 0xFFFF ∧ r.closed = false) ∧
    (∃ (code : BitVec 16) (arg : BitVec 64) (s : State), s.dev.log.accepting = true ∧ s.fuse.cls ≠ .s ∧ s.dev.log.buf.length < 1024 ∧ (∀ r ∈
    s.dev.log.buf.getLast?, ¬ (r.code = code.toNat ∧ r.arg = arg.toNat ∧ r.count < 0xFFFF ∧ r.closed = false))) :=
  ⟨⟨5, 6, [], { code := 5, arg := 6 }, st ({ sv with log := { accepting := true, next := 1, buf := [{ code := 5, arg := 6 }] } }),
    by decide +kernel⟩,
   ⟨5, 6, st ({ sv with log := { accepting := true, next := 1, buf := [{ code := 5, arg := 6, count := 0xFFFF }] } }), by decide +kernel⟩⟩

/-- States and operands that meet the hypotheses of `Obligations.SCAN_HOLDS_BRINGUP`, clause by clause. -/
theorem witness_SCAN_HOLDS_BRINGUP :
    (∃ (i : _) (k : _) (s : State), (i, k) ∈ [(Instr.extest, 0), (.clamp, 3), (.highz, 4)] ∧ s.dev.tap = true ∧ s.dev.pwr.svc = .bringup ∧
    (s.dev.pwr.step ≤ 4 ∨ s.dev.pwr.step = 0xF)) ∧
    (∃ (i : _) (k : _) (s : State), (i, k) ∈ [(Instr.extest, 0), (.clamp, 3), (.highz, 4)] ∧ s.dev.tap = true ∧ ¬ (s.dev.pwr.svc = .bringup ∧
    (s.dev.pwr.step ≤ 4 ∨ s.dev.pwr.step = 0xF))) ∧
    (∃ (s : State), s.dev.dbg.hold = true) ∧
    (∃ (s : State), s.dev.tap = true) :=
  ⟨⟨.clamp, 3, st (sp .bringup 4 sv), by decide +kernel⟩,
   ⟨.highz, 4, st sv, by decide +kernel⟩,
   ⟨st ({ sv with dbg := { hold := true } }), by decide +kernel⟩,
   ⟨st sv, by decide +kernel⟩⟩

end Sys2Proof.Tests
end

/-!
PROOFS. O57 (R31): a link that trains below 8.0 GT/s. The one subtle point is the logbook: the model records the event on the device whose
head has already changed, the statement on the device before; `Dev.SameRecorder` says why the two logbooks agree.
-/
namespace Sys2Proof.Machine

/-! ## The event recorder reads the registers, the logbook, the Keel counts and Tether only -/

/-- Two devices that the event recorder cannot tell apart (R386, R387): they may differ in everything it does not read. -/
structure Dev.SameRecorder (d e : Dev) : Prop where
  regs : e.regs = d.regs
  log : e.log = d.log
  keel : e.keel = d.keel
  tether : e.tether = d.tether

/-- The record that an event starts (R386). -/
def Dev.newRec (d : Dev) (code arg t : Nat) : LogRec :=
  { number := d.log.next, code := code, count := 1, opmin := d.keel.opmin, pcyc := d.keel.pcyc, tether := t % 2 ^ 32, arg := arg, closed := false }

namespace Dev.SameRecorder

variable {d e : Dev}

theorem reg (s : d.SameRecorder e) (off : Nat) : e.reg off = d.reg off := Dev.reg_same off s.regs

theorem setLog (s : d.SameRecorder e) {l k : Logbook} (hl : k = l) : Dev.SameRecorder { d with log := l } { e with log := k } :=
  ⟨s.regs, hl, s.keel, s.tether⟩

theorem ite {d' e' : Dev} {p q : Prop} [Decidable p] [Decidable q] (hc : q ↔ p) (s : d.SameRecorder e) (s' : d'.SameRecorder e') :
    (if p then d else d').SameRecorder (if q then e else e') := by
  by_cases hp : p
  · rwa [if_pos hp, if_pos (hc.mpr hp)]
  · rwa [if_neg hp, if_neg (mt hc.mp hp)]

theorem setRbit (s : d.SameRecorder e) (off k : Nat) (b : Bool) : (d.setRbit off k b).SameRecorder (e.setRbit off k b) := by
  refine ⟨?_, by simpa using s.log, by simpa using s.keel, by simpa using s.tether⟩
  simp only [Dev.setRbit, Dev.setFld, Dev.setReg, s.reg, s.regs]

theorem icu (s : d.SameRecorder e) (n : Nat) : (d.icu n).SameRecorder (e.icu n) := by
  have hPend : e.rbit (ICU_PEND (n / 32)) (n % 32) = d.rbit (ICU_PEND (n / 32)) (n % 32) := by simp only [Dev.rbit, s.reg]
  exact ite Iff.rfl s (ite (by rw [hPend]) (s.setRbit ..) (s.setRbit ..))

theorem logPush (s : d.SameRecorder e) (code arg t : Nat) : (d.logPush code arg t).SameRecorder (e.logPush code arg t) := by
  have hNew := s.setLog (l := { d.log with next := d.log.next + 1, buf := d.log.buf ++ [d.newRec code arg t] })
    (k := { e.log with next := e.log.next + 1, buf := e.log.buf ++ [e.newRec code arg t] }) (by simp only [Dev.newRec, s.log, s.keel])
  exact ite (by rw [s.log]) (s.setLog (by rw [s.log])) (ite (by simp only [s.log, List.length_append, List.length_singleton]) (hNew.icu 94) hNew)

theorem foldl_logPush (s : d.SameRecorder e) (code : Nat) (arg : Nat × Nat → Nat) (l : List (Nat × Nat)) :
    (l.foldl (fun x p => x.logPush code (arg p) x.tether.now) d).SameRecorder (l.foldl (fun x p => x.logPush code (arg p) x.tether.now) e) :=
  List.foldl_rel s fun p _ x y sx => by
    rw [sx.tether]
    exact sx.logPush code (arg p) x.tether.now

theorem rateEnd (s : d.SameRecorder e) : d.rateEnd.SameRecorder e.rateEnd := by
  unfold Dev.rateEnd
  rw [s.log, s.tether]
  generalize d.log.suppressed.mergeSort _ = sup
  have hTop := s.foldl_logPush 0xF001 (fun p => p.1 + p.2 * 2 ^ 16) (sup.take 8)
  have hRest := ite (p := sup.length ≤ 8) Iff.rfl hTop (hTop.logPush 0xF002 ((sup.drop 8).foldl (fun n p => n + p.2) 0) d.tether.now)
  exact hRest.setLog (by rw [hRest.log])

theorem recordIn (s : d.SameRecorder e) (F : Fuses) (code arg t : Nat) : (d.recordIn F code arg t).SameRecorder (e.recordIn F code arg t) := by
  have hSecond := ite (p := d.log.second = d.tether.now / 10 ^ 9) (q := e.log.second = e.tether.now / 10 ^ 9) (by rw [s.log, s.tether]) s s.rateEnd
  exact ite Iff.rfl
    (ite (by simp only [Dev.fld, hSecond.log, hSecond.reg]) (hSecond.setLog (by rw [hSecond.log]))
      ((hSecond.setLog (by rw [hSecond.log])).logPush ..))
    (ite (by rw [s.log]) (s.setLog (by rw [s.log])) (s.logPush ..))

end Dev.SameRecorder

theorem Dev.sameRecorder_setHead (d : Dev) (h : Head) (x : HeadState) : d.SameRecorder (d.setHead h x) :=
  ⟨d.setHead_regs h x, d.setHead_log h x, d.setHead_keel h x, d.setHead_tether h x⟩

/-! ## Where an event goes (R444), and what a posted record does to its head (R49) -/

theorem Dev.event_log_of_accepting {d : Dev} (ha : d.log.accepting = true) (F : Fuses) (code arg : Nat) :
    (d.event F code arg).log = (d.recordIn F code arg d.tether.now).log := by
  simp only [Dev.event, ha, if_true]

theorem Dev.event_aon_of_held {d : Dev} (ha : d.log.accepting = false) (hroom : d.aon.events.length < 8) (F : Fuses) (code arg : Nat) :
    (d.event F code arg).aon.events = d.aon.events ++ [⟨code, arg, d.tether.now % 2 ^ 32⟩] := by
  simp [Dev.event, ha, hroom]

theorem Dev.post_head_same (d : Dev) (h : Head) (n : LogName) (k : EvKind) (arg : Nat) :
    (d.post h n k arg).head h = (d.head h).setLog n (((d.head h).log n).add k arg d.tether.now) := by
  simp only [Dev.post, apply_ite (Dev.head · h), Dev.msixSend_head, Dev.setHead_head, if_true, ite_self]

/-! ## A trained link (R29, R31) -/

@[simp] theorem Dev.portHeal_head (F : Fuses) (d : Dev) (k : Head) : (d.portHeal F).head k = d.head k :=
  Dev.head_same k ((Dev.portHeal_touches F d).same .a (by decide)) ((Dev.portHeal_touches F d).same .b (by decide))

@[simp] theorem Dev.portHeal_log (F : Fuses) (d : Dev) : (d.portHeal F).log = d.log := (Dev.portHeal_touches F d).same .log (by decide)

@[simp] theorem Dev.portHeal_aon (F : Fuses) (d : Dev) : (d.portHeal F).aon = d.aon := (Dev.portHeal_touches F d).same .aon (by decide)

@[simp] theorem Dev.faultRelease_head (d : Dev) (k : Head) : d.faultRelease.head k = d.head k :=
  Dev.head_same k ((Dev.faultRelease_touches d).same .a (by decide)) ((Dev.faultRelease_touches d).same .b (by decide))

@[simp] theorem Dev.portFound_log (d : Dev) (h : Head) : (d.portFound h).log = d.log := (Dev.portFound_touches d h).same .log (by decide)

@[simp] theorem Dev.portFound_aon (d : Dev) (h : Head) : (d.portFound h).aon = d.aon := (Dev.portFound_touches d h).same .aon (by decide)

@[simp] theorem Dev.portFound_head_same (d : Dev) (h : Head) : (d.portFound h).head h = { d.head h with lost := false } := by
  simp only [Dev.portFound, apply_ite (Dev.head · h), Dev.faultRelease_head, Dev.setHead_head, if_true, ite_self]

/-- A head whose link has trained: CXL.mem is offered at 8.0 GT/s (rate code 2) or above only. -/
def HeadState.trained (x : HeadState) (rate width : Nat) : HeadState :=
  { x with linkUp := true, rate := rate, width := widthCode width, fullWidth := widthCode width, flit256 := decide (4 ≤ rate), lstate := 0,
           cxlMem := decide (2 ≤ rate), msixOn := true }

/-- A device whose link has trained below 8.0 GT/s, with both records of R31; 0x2001 is the model's number for the event (log entry 10). -/
def Dev.slowLink (F : Fuses) (d : Dev) (h : Head) : Dev := (d.event F 0x2001 (hIdx h)).post h .warn .linkSlow 0x2001

/-- The link of the head can train at this rate and width: `linkTrained` has an effect. -/
structure Dev.CanTrain (F : Fuses) (d : Dev) (h : Head) (rate width : Nat) : Prop where
  live : d.live = true
  present : presentHead F h = true
  active : activeHead F d h = true
  up : d.pwr.downing = none
  quiet : d.pwr.flush = none
  warm : (d.head h).d3cold = false
  rate_le : rate ≤ 5
  width_ok : widthCode width ≠ 0
  width_le : width ≤ d.maxWidth h

section
variable {F : Fuses} {d : Dev} {h : Head} {rate width : Nat}

theorem linkTrained_eq (c : d.CanTrain F h rate width) :
    linkTrained F d h rate width =
      (((if rate < 2 then (d.setHead h ((d.head h).trained rate width)).slowLink F h
          else d.setHead h ((d.head h).trained rate width)).portHeal F).portFound h).linkNoted h (d.head h).lstate := by
  unfold linkTrained
  rw [if_neg]
  · rfl
  · simp [c.live, c.present, c.active, c.up, c.quiet, c.warm, c.rate_le, c.width_ok, c.width_le]

theorem linkTrained_slow (c : d.CanTrain F h rate width) (hr : rate < 2) :
    ((linkTrained F d h rate width).head h).linkUp = true ∧ ((linkTrained F d h rate width).head h).cxlMem = false ∧
      ((linkTrained F d h rate width).head h).warn = (d.head h).warn.add .linkSlow 0x2001 d.tether.now := by
  simp [linkTrained_eq c, hr, Dev.slowLink, Dev.post_head_same, HeadState.trained, HeadState.setLog, HeadState.log]

theorem linkTrained_slow_log (c : d.CanTrain F h rate width) (hr : rate < 2) (ha : d.log.accepting = true) :
    (linkTrained F d h rate width).log = (d.recordIn F 0x2001 (hIdx h) d.tether.now).log := by
  have hrec := ((d.sameRecorder_setHead h ((d.head h).trained rate width)).recordIn F 0x2001 (hIdx h) d.tether.now).log
  simpa [linkTrained_eq c, hr, Dev.slowLink, Dev.event_log_of_accepting, ha] using hrec

theorem linkTrained_slow_aon (c : d.CanTrain F h rate width) (hr : rate < 2) (ha : d.log.accepting = false) (hroom : d.aon.events.length < 8) :
    (linkTrained F d h rate width).aon.events = d.aon.events ++ [⟨0x2001, hIdx h, d.tether.now % 2 ^ 32⟩] := by
  simp [linkTrained_eq c, hr, Dev.slowLink, Dev.event_aon_of_held, ha, hroom]

theorem linkTrained_fast (c : d.CanTrain F h rate width) (hr : 2 ≤ rate) :
    ((linkTrained F d h rate width).head h).linkUp = true ∧ ((linkTrained F d h rate width).head h).cxlMem = true ∧
      ((linkTrained F d h rate width).head h).warn = (d.head h).warn := by
  simp [linkTrained_eq c, hr, Nat.not_lt.mpr hr, HeadState.trained]

end

theorem exec_linkTrained (h : Head) (rate : Fin 8) (width : Fin 32) (s : State) :
    exec (.linkTrained h rate width) s = .next { s with dev := linkTrained s.fuse s.dev h rate.val width.val } := rfl

/-- Settles O57: a training below 8.0 GT/s takes the `slowLink` branch, which writes both records; one at or above it takes neither. -/
theorem lowRateLink : Obligations.LOW_RATE_LINK := by
  intro h rate width s live present active up quiet warm rateLe widthOk widthLe
  have c : s.dev.CanTrain s.fuse h rate.val width.val := ⟨live, present, active, up, quiet, warm, rateLe, widthOk, widthLe⟩
  refine ⟨fun hr => ⟨_, exec_linkTrained h rate width s, ?_⟩, fun hr => ⟨_, exec_linkTrained h rate width s, linkTrained_fast c hr⟩⟩
  obtain ⟨hup, hmem, hwarn⟩ := linkTrained_slow c hr
  exact ⟨hup, hmem, hwarn, linkTrained_slow_log c hr, linkTrained_slow_aon c hr⟩

end Sys2Proof.Machine

/-!
PROOFS. O58 (R83): which scratch way backs which volatile address. A way's index in the head's list is the number of converted ways below it,
because the list is ascending; the persistent space ends far below the volatile partition whatever the configuration, so `placeOf` reaches
the scratch ways there.
-/
namespace Sys2Proof

/-! ## Ascending lists and bit fields -/

/-- In an ascending list, an element that a filter keeps stands there at the number of smaller elements that it keeps. -/
theorem getElem?_filter_of_ascending {p : Nat → Bool} {w : Nat} (hp : p w = true) {l : List Nat} (hl : l.Pairwise (· < ·)) (hw : w ∈ l) :
    (l.filter p)[(l.filter fun k => decide (k < w) && p k).length]? = some w := by
  induction l with
  | nil => cases hw
  | cons x xs ih =>
    obtain ⟨hx, hxs⟩ := List.pairwise_cons.mp hl
    rcases List.mem_cons.mp hw with rfl | hmem
    · have hnone : xs.filter (fun k => decide (k < w) && p k) = [] :=
        List.filter_eq_nil_iff.mpr fun k hk => by simp [Nat.le_of_lt (hx k hk)]
      simp [hp, hnone]
    · have hlt := hx w hmem
      cases hpx : p x <;> simp [hpx, hlt, ih hxs hmem]

theorem bit_eq_testBit (x k : Nat) : bit x k = x.testBit k := by
  simp [bit, bits, Nat.testBit_eq_decide_div_mod_eq]

/-- A bit of a field is a bit of the number. -/
theorem bit_bits {hi lo k : Nat} (x : Nat) (hk : lo + k ≤ hi) : bit (bits x hi lo) k = bit x (k + lo) := by
  have hin : k < hi + 1 - lo := by omega
  simp [bit_eq_testBit, bits, Nat.testBit_mod_two_pow, Nat.testBit_div_two_pow, hin]

namespace Machine

/-! ## The scratch ways of a head -/

/-- The user space ends below the volatile partition: at most 32 groups are populated (R38, R196). -/
theorem Dev.lUser_mul_lt_volBase (d : Dev) : d.lUser * 2 ^ 20 < volBase := by
  have hgroups : d.popGroups.length ≤ 32 := (List.length_filter_le _ _).trans_eq List.length_range
  unfold Dev.lUser Dev.pTotal volBase
  omega

/-- `placeOf` within the volatile partition, for a head whose way set is not changing (R38, R83). -/
theorem placeOf_volatile {F : Fuses} {d : Dev} {h : Head} (hquiet : d.scrChanging F h = false) {o w : Nat} (ho : o < 2 ^ 28)
    (hw : (d.scrWays F h)[o / 2 ^ 22]? = some w) : placeOf F d h (volBase + o) = .scratch (w * 65536 + o % 2 ^ 22 / 64) := by
  have huser : ¬ (volBase + o) / 2 ^ 20 < d.lUser := by
    have := d.lUser_mul_lt_volBase
    omega
  have hvol : volBase ≤ volBase + o ∧ volBase + o < volBase + 2 ^ 28 := by omega
  rw [placeOf, if_neg huser, if_pos hvol, Nat.add_sub_cancel_left]
  simp [hquiet, hw, -Nat.reducePow]

/-- Is a way converted, and this head's (R83)? In the single and bonded modes `head_b` is ignored. -/
def Dev.wayBacks (F : Fuses) (d : Dev) (h : Head) (w : Nat) : Bool :=
  bit d.cache.scrAct (w - 8) &&
    (!decide (portMode F d = .dualHead) || decide (bit d.cache.scrHeadB (w - 8) = decide (h = .b)))

theorem b2n_eq_hIdx_iff (b : Bool) (h : Head) : b2n b = hIdx h ↔ b = decide (h = .b) := by
  cases b <;> cases h <;> decide

theorem Dev.scrWays_eq (F : Fuses) (d : Dev) (h : Head) : d.scrWays F h = [8, 9, 10].filter (d.wayBacks F h) :=
  List.filter_congr fun w _ => by simp only [Dev.wayBacks, b2n_eq_hIdx_iff, ne_eq, decide_not]

/-- A way's index among the head's ways is the number of them below it (R83). -/
theorem Dev.scrWays_getElem? {F : Fuses} {d : Dev} {h : Head} {w : Nat} (hmem : w ∈ [8, 9, 10]) (hw : d.wayBacks F h w = true) :
    (d.scrWays F h)[([8, 9, 10].filter fun k => decide (k < w) && d.wayBacks F h k).length]? = some w := by
  rw [Dev.scrWays_eq]
  exact getElem?_filter_of_ascending hw (by decide) hmem

/-! ## The end of a change (R84) -/

theorem Dev.scratchDone_cache {d : Dev} (hbusy : d.cache.scrBusy = true) :
    d.scratchDone.cache = { d.cache with scrBusy := false, scrChgA := false, scrChgB := false,
                                         scrAct := d.fld LIN_SCR_CTL 2 0, scrHeadB := d.fld LIN_SCR_CTL 6 4 } := by
  rw [Dev.scratchDone, if_pos hbusy, Dev.setCache_cache]

theorem Dev.bit_fld {hi lo k : Nat} (d : Dev) (off : Nat) (hk : lo + k ≤ hi) : bit (d.fld off hi lo) k = d.rbit off (k + lo) :=
  bit_bits _ hk

theorem exec_scratchChangeDone (s : State) : exec .scratchChangeDone s = .next { s with dev := s.dev.scratchDone } := rfl

/-- Settles O58: the address i × 4 MiB above the volatile base has index i, and the way with i converted ways below it stands at index i of
the head's ascending list; a change ends with both fields of LIN_SCR_CTL copied to the mapping in force. -/
theorem scratchWaysBackVolatile : Obligations.SCRATCH_WAYS_BACK_VOLATILE := by
  refine ⟨?place, ?inForce⟩
  case place =>
    intro F d h conv hconv hquiet w i off hmem hw hi hoff
    obtain rfl : conv = d.wayBacks F h := funext hconv
    have hway : (d.scrWays F h)[i]? = some w := hi ▸ Dev.scrWays_getElem? hmem hw
    have hi3 : i ≤ 3 := hi ▸ List.length_filter_le _ _
    have hdiv : (i * 0x400000 + off) / 2 ^ 22 = i := by omega
    have hmod : (i * 0x400000 + off) % 2 ^ 22 = off := by omega
    have hplace := placeOf_volatile hquiet (o := i * 0x400000 + off) (by omega) (hdiv.symm ▸ hway)
    rwa [hmod, ← Nat.add_assoc] at hplace
  case inForce =>
    intro s hbusy
    refine ⟨_, exec_scratchChangeDone s, fun w hw => ?_⟩
    have hle : w - 8 ≤ 2 := by
      simp only [List.mem_cons, List.not_mem_nil, or_false] at hw
      omega
    rw [Dev.scratchDone_cache hbusy]
    exact ⟨Dev.bit_fld _ _ (by omega), Dev.bit_fld _ _ (by omega)⟩

end Machine
end Sys2Proof

/-!
PROOFS. O59 (R386): an event merges into the newest record that can take it, and starts a new record otherwise. Outside class S the recorder
has these two branches only; `canMerge_iff` ties the one it takes to the rule's four conditions on the newest record.
-/
namespace Sys2Proof.Machine

/-! ## The newest record, and the two ways it leaves the buffer -/

/-- The record can take one more occurrence of the event (R386). -/
def LogRec.Takes (r : LogRec) (code arg : Nat) : Prop :=
  r.code = code ∧ r.arg = arg ∧ r.count < 0xFFFF ∧ r.closed = false

theorem canMerge_iff {l : Logbook} {code arg : Nat} : canMerge l code arg = true ↔ ∃ r ∈ l.buf.getLast?, r.Takes code arg := by
  unfold canMerge LogRec.Takes
  cases l.buf.getLast? with
  | none => simp
  | some r => simp [and_assoc]

theorem mergeLast_concat (l : List LogRec) (r : LogRec) : mergeLast (l ++ [r]) = l ++ [{ r with count := r.count + 1 }] := by
  simp [mergeLast]

/-- With room in the buffer the event's record is its newest, whether or not a flush falls due (R388). -/
theorem Dev.logPush_log_of_room {d : Dev} (hroom : d.log.buf.length < 1024) (code arg t : Nat) :
    (d.logPush code arg t).log = { d.log with next := d.log.next + 1, buf := d.log.buf ++ [d.newRec code arg t] } := by
  simp only [Dev.logPush, if_neg (Nat.not_le.mpr hroom), apply_ite Dev.log, Dev.icu_log, ite_self, Dev.newRec]

/-! ## The recorder outside class S -/

theorem Dev.recordIn_of_merge {F : Fuses} {d : Dev} {code arg : Nat} (hcls : F.cls ≠ .s) (hm : canMerge d.log code arg = true) (t : Nat) :
    d.recordIn F code arg t = { d with log := { d.log with buf := mergeLast d.log.buf } } := by
  rw [Dev.recordIn, if_neg hcls, if_pos hm]

theorem Dev.recordIn_of_not_merge {F : Fuses} {d : Dev} {code arg : Nat} (hcls : F.cls ≠ .s) (hm : ¬ canMerge d.log code arg = true) (t : Nat) :
    d.recordIn F code arg t = d.logPush code arg t := by
  rw [Dev.recordIn, if_neg hcls, if_neg hm]

theorem exec_eventRecord (code : BitVec 16) (arg : BitVec 64) (s : State) :
    exec (.eventRecord code arg) s = .next { s with dev := s.dev.event s.fuse code.toNat arg.toNat } := rfl

/-- Settles O59: the newest record decides which branch the recorder takes, the merge or the push of a new record. -/
theorem eventMerging : Obligations.EVENT_MERGING := by
  refine ⟨?merged, ?started⟩
  case merged =>
    intro code arg l r s hacc hcls hbuf hcode harg hcount hopen
    have hm : canMerge s.dev.log code.toNat arg.toNat = true :=
      canMerge_iff.mpr ⟨r, by simp [hbuf], hcode, harg, hcount, hopen⟩
    refine ⟨_, exec_eventRecord code arg s, ?_⟩
    rw [Dev.event_log_of_accepting hacc, Dev.recordIn_of_merge hcls hm, hbuf, mergeLast_concat]
  case started =>
    intro code arg s hacc hcls hroom hnone
    have hm : ¬ canMerge s.dev.log code.toNat arg.toNat = true := fun h =>
      have ⟨r, hr, htakes⟩ := canMerge_iff.mp h
      hnone r hr htakes
    have hlog : (s.dev.event s.fuse code.toNat arg.toNat).log =
        { s.dev.log with next := s.dev.log.next + 1, buf := s.dev.log.buf ++ [s.dev.newRec code.toNat arg.toNat s.dev.tether.now] } := by
      rw [Dev.event_log_of_accepting hacc, Dev.recordIn_of_not_merge hcls hm, Dev.logPush_log_of_room hroom]
    exact ⟨_, exec_eventRecord code arg s, congrArg Logbook.next hlog, congrArg Logbook.buf hlog⟩

end Sys2Proof.Machine

/-!
PROOFS. O60 (R411): the boundary-scan instructions and bring-up. EXTEST, CLAMP and HIGHZ are one operation, `scanHold`, which takes the
instruction or refuses it by `Dev.scanMay`; `hold` is the only thing that bring-up's two rows ask of the port, and only Test-Logic-Reset
clears it (log entry 55).
-/
namespace Sys2Proof.Machine

/-! ## The three instructions: taken, or refused (R410, R411) -/

theorem Dev.scanMay_iff {d : Dev} : d.scanMay = true ↔ d.pwr.svc = .bringup ∧ (d.pwr.step ≤ 4 ∨ d.pwr.step = 0xF) := decide_eq_true_iff

theorem Dev.fxRefuse_dbg (d : Dev) : d.fxRefuse.dbg = { d.dbg with ir := 0x3F, err := 1 } := rfl

theorem Dev.fxRefuse_out (d : Dev) : d.fxRefuse.out = .tdo 1 0 :: d.out := rfl

theorem scanHold_pwr (d : Dev) (code width v : Nat) : (scanHold d code width v).pwr = d.pwr := (scanHold_touches d code width v).same .pwr (by decide)

theorem scanHold_dbg_of_may {d : Dev} (ht : d.tap = true) (hm : d.scanMay = true) (code width v : Nat) :
    (scanHold d code width v).dbg = { d.dbg with hold := true, ir := code } := by
  rw [scanHold, ht, if_neg (by decide), if_pos hm]
  rfl

theorem scanHold_of_not_may {d : Dev} (ht : d.tap = true) (hm : ¬ d.scanMay = true) (code width v : Nat) :
    scanHold d code width v = d.fxRefuse := by
  rw [scanHold, ht, if_neg (by decide), if_neg hm]

/-- EXTEST shifts the boundary-scan register, CLAMP and HIGHZ the bypass register; in all else they are one operation. -/
theorem exec_scanHold {i : Instr} {k : Nat} (hi : (i, k) ∈ [(Instr.extest, 0), (.clamp, 3), (.highz, 4)]) (s : State) :
    ∃ width v, exec i s = .next { s with dev := scanHold s.dev k width v } := by
  simp only [List.mem_cons, Prod.mk.injEq, List.not_mem_nil, or_false] at hi
  obtain ⟨rfl, rfl⟩ | ⟨rfl, rfl⟩ | ⟨rfl, rfl⟩ := hi
  · exact ⟨s.dev.dbg.scan.length, boolsNat s.dev.dbg.scan, rfl⟩
  · exact ⟨1, 0, rfl⟩
  · exact ⟨1, 0, rfl⟩

/-! ## While the port holds, neither row of bring-up does any work; Test-Logic-Reset lets go -/

theorem bringupStep_of_hold {d : Dev} (hh : d.dbg.hold = true) (F : Fuses) (inp : List Nat) : bringupStep F d inp = d := by
  simp [bringupStep, hh]

theorem replayRestore_of_hold {d : Dev} (hh : d.dbg.hold = true) (F : Fuses) (parts : Nat) (lost : List Nat) :
    replayRestore F d parts lost = d :=
  if_pos (.inr (.inr (.inl hh)))

theorem exec_bringupStep (inp : List Nat) (s : State) :
    exec (.bringupStep inp) s = .next { s with dev := bringupStep s.fuse s.dev inp } := rfl

theorem exec_replayRestore (parts : BitVec 7) (lost : List Dpa) (s : State) :
    exec (.replayRestore parts lost) s = .next { s with dev := replayRestore s.fuse s.dev parts.toNat (lost.map fun a => a.toNat / 64) } := rfl

theorem tapOff_pwr (d : Dev) : (tapOff d).pwr = d.pwr := (tapOff_touches d).same .pwr (by decide)

theorem exec_tapReset_of_tap {s : State} (ht : s.dev.tap = true) : exec .tapReset s = .next { s with dev := tapOff s.dev } :=
  congrArg Host.Outcome.next (if_pos ht)

/-- Settles O60: `Dev.scanMay` decides between the hold and the refusal; both rows of bring-up read `hold` first, and `tapOff` clears it. -/
theorem scanHoldsBringup : Obligations.SCAN_HOLDS_BRINGUP := by
  refine ⟨?loaded, ?held, ?reset⟩
  case loaded =>
    intro i k s hi ht
    obtain ⟨width, v, hexec⟩ := exec_scanHold hi s
    refine ⟨fun hsvc hstep => ?taken, fun hlate => ?refused⟩
    case taken =>
      exact ⟨_, hexec, scanHold_dbg_of_may ht (Dev.scanMay_iff.mpr ⟨hsvc, hstep⟩) k width v, scanHold_pwr s.dev k width v⟩
    case refused =>
      rw [scanHold_of_not_may ht (mt Dev.scanMay_iff.mp hlate)] at hexec
      exact ⟨_, hexec, s.dev.fxRefuse_dbg, s.dev.fxRefuse_out⟩
  case held =>
    intro inp parts lost s hh
    exact ⟨by rw [exec_bringupStep, bringupStep_of_hold hh], by rw [exec_replayRestore, replayRestore_of_hold hh]⟩
  case reset =>
    intro s ht
    exact ⟨tapOff s.dev, exec_tapReset_of_tap ht, rfl, rfl, tapOff_pwr s.dev⟩

end Sys2Proof.Machine

/-!
PROOFS. O54, O55, O56 and O1: what each command and each step keeps. The laws state it once for each meaning (`_frame`, `_keeps`); the two
theorems here gather them along the constructors of `Instr`, and the idle step adds its own case.
-/
namespace Sys2Proof.Machine

/-- A command changes the parts that `Instr.parts` lists for it, and answers a next state. -/
theorem exec_frame (s : State) : (i : Instr) → Frames i.parts s (exec i s)
  | .creditGrant h rwd => execCreditGrant_frame h rwd s
  | .memrd h tag dpa => execMemrd_frame h tag dpa s
  | .memspecrd h dpa => execMemspecrd_frame h dpa s
  | .meminv h tag dpa nt => execMeminv_frame h tag dpa nt s
  | .memwr h tag dpa data poison => execMemwr_frame h tag dpa data poison s
  | .memwrptl h tag dpa data be poison => execMemwrptl_frame h tag dpa data be poison s
  | .sectorTransitEnd dpa => execSectorTransitEnd_frame dpa s
  | .mediaLineReturn dpa v unk => execMediaLineReturn_frame dpa v unk s
  | .heavyDecodeDone dpa v => execHeavyDecodeDone_frame dpa v s
  | .readRetryAfterProgram dpa v unk => execReadRetryAfterProgram_frame dpa v unk s
  | .writeBackDone dpa => execWriteBackDone_frame dpa s
  | .stagedEntryTranslate dpa => execStagedEntryTranslate_frame dpa s
  | .gondolaMacroFail bank macroNo lost => execGondolaMacroFail_frame bank macroNo lost s
  | .sramUncorrectable store dpa => execSramUncorrectable_frame store dpa s
  | .scratchConversionWrite h value => execScratchConversionWrite_frame h value s
  | .compatEnable h => execCompatEnable_frame h s
  | .compatDisable h => execCompatDisable_frame h s
  | .compatPagePin h n => execCompatPagePin_frame h n s
  | .compatPageUnpin h n => execCompatPageUnpin_frame h n s
  | .invalidationGo h => execInvalidationGo_frame h s
  | .invalidationDone r => execInvalidationDone_frame r s
  | .tthRateWrite h value => execTthRateWrite_frame h value s
  | .ptmResult hostTime => execPtmResult_frame hostTime s
  | .programStartGate m mode buf last => execProgramStartGate_frame m mode buf last s
  | .programOverrun m => execProgramOverrun_frame m s
  | .testWindowOpen narrowEye narrowDie => execTestWindowOpen_frame narrowEye narrowDie s
  | .launchSlotArm h n value => execLaunchSlotArm_frame h n value s
  | .launchSlotDisarm h n value => execLaunchSlotDisarm_frame h n value s
  | .launchSlotFire n => execLaunchSlotFire_frame n s
  | .gpioPulseEnd pin => execGpioPulseEnd_frame pin s
  | .nop m err => execNop_frame m err s
  | .rdLine m err pa slot set mode => execRdLine_frame m err pa slot set mode s
  | .rdLineSoft m err pa slot set mode mask => execRdLineSoft_frame m err pa slot set mode mask s
  | .rdPage m err pa set mode => execRdPage_frame m err pa set mode s
  | .rdRef m err pa mode sweep => execRdRef_frame m err pa mode sweep s
  | .load m err pa buf entry data crc => execLoad_frame m err pa buf entry data crc s
  | .progSlc m err buf last => execProgSlc_frame m err buf last s
  | .progMlc m err buf last => execProgMlc_frame m err buf last s
  | .dieProgramEnd m res => execDieProgramEnd_frame m res s
  | .status m err => execStatus_frame m err s
  | .temp m err => execTemp_frame m err s
  | .readId m err => execReadId_frame m err s
  | .setFeature dies err addr value => execSetFeature_frame dies err addr value s
  | .getFeature m err addr => execGetFeature_frame m err addr s
  | .trainCa m err => execTrainCa_frame m err s
  | .trainRd m err pattern => execTrainRd_frame m err pattern s
  | .trainWr m err data => execTrainWr_frame m err data s
  | .zqCal m err => execZqCal_frame m err s
  | .pdEnter dies err => execPdEnter_frame dies err s
  | .pdExit dies err => execPdExit_frame dies err s
  | .reset dies err => execReset_frame dies err s
  | .dieInitDone m => execDieInitDone_frame m s
  | .alertConditionRepeat m => execAlertConditionRepeat_frame m s
  | .alertNLow low => execAlertNLow_frame low s
  | .alertLongLow n => execAlertLongLow_frame n s
  | .alertStatusResponse m st => execAlertStatusResponse_frame m st s
  | .alertStuck n => execAlertStuck_frame n s
  | .channelTraining n found => execChannelTraining_frame n found s
  | .channelTrained n eyeRd eyeWr passed => execChannelTrained_frame n eyeRd eyeWr passed s
  | .retrainRequest h n => execRetrainRequest_frame h n s
  | .retrainTimer n => execRetrainTimer_frame n s
  | .retrainComplete n eyeRd eyeWr code => execRetrainComplete_frame n eyeRd eyeWr code s
  | .rowUpdateStart g row mode lines => execRowUpdateStart_frame g row mode lines s
  | .rowUpdateDone g row => execRowUpdateDone_frame g row s
  | .bridleGrant n => execBridleGrant_frame n s
  | .bridleRankWrite h q value => execBridleRankWrite_frame h q value s
  | .dieDeclaredFailed m cause => execDieDeclaredFailed_frame m cause s
  | .channelDeclaredFailed n cause => execChannelDeclaredFailed_frame n cause s
  | .faultDieReset m => execFaultDieReset_frame m s
  | .lineRepair dpa => execLineRepair_frame dpa s
  | .poisonConfirmation dpa good => execPoisonConfirmation_frame dpa good s
  | .surveyTract g index pos codes => execSurveyTract_frame g index pos codes s
  | .thresholdRecompute r => execThresholdRecompute_frame r s
  | .resurveyTract g index pos codes => execResurveyTract_frame g index pos codes s
  | .refreshStart tract => execRefreshStart_frame tract s
  | .scrubRow tract row worst found parityBad => execScrubRow_frame tract row worst found parityBad s
  | .metadataWriteback line => execMetadataWriteback_frame line s
  | .counterLineWriteback page => execCounterLineWriteback_frame page s
  | .gapMove tract => execGapMove_frame tract s
  | .gapMoveDone tract => execGapMoveDone_frame tract s
  | .migrationStart tract why => execMigrationStart_frame tract why s
  | .migrationCopyDone tract => execMigrationCopyDone_frame tract s
  | .migrationVerify tract bad badAgain => execMigrationVerify_frame tract bad badAgain s
  | .migrationSwitch tract => execMigrationSwitch_frame tract s
  | .migrationRelease tract => execMigrationRelease_frame tract s
  | .reencryptionRewrite dpa => execReencryptionRewrite_frame dpa s
  | .slotDrainComplete slot => execSlotDrainComplete_frame slot s
  | .descriptorFetch c descs fail => execDescriptorFetch_frame c descs fail s
  | .descriptorStart c => execDescriptorStart_frame c s
  | .sourceLineReturn c v => execSourceLineReturn_frame c v s
  | .outboundWrite c n => execOutboundWrite_frame c n s
  | .confirmationComplete c => execConfirmationComplete_frame c s
  | .outboundCompletionTimeout c why => execOutboundCompletionTimeout_frame c why s
  | .listEnd c => execListEnd_frame c s
  | .snapshotBuildTract h => execSnapshotBuildTract_frame h s
  | .snapshotComplete h => execSnapshotComplete_frame h s
  | .qpEnable h n value => execQpEnable_frame h n value s
  | .qpDisable h n value => execQpDisable_frame h n value s
  | .qpIdle n => execQpIdle_frame n s
  | .sqDoorbell h n value => execSqDoorbell_frame h n value s
  | .cqDoorbell h n value => execCqDoorbell_frame h n value s
  | .sqFetch n entry parity => execSqFetch_frame n entry parity s
  | .cqEntryWrite h parity => execCqEntryWrite_frame h parity s
  | .heldCommandStart h => execHeldCommandStart_frame h s
  | .invalidOpcode h => execInvalidOpcode_frame h s
  | .stream h => execStream_frame h s
  | .copy h => execCopy_frame h s
  | .install h => execInstall_frame h s
  | .verify h => execVerify_frame h s
  | .snapshot h => execSnapshot_frame h s
  | .stop h => execStop_frame h s
  | .dictionaryRegister h => execDictionaryRegister_frame h s
  | .drop h => execDrop_frame h s
  | .discard h => execDiscard_frame h s
  | .sanitize h => execSanitize_frame h s
  | .keyLoad h => execKeyLoad_frame h s
  | .keyEvict h => execKeyEvict_frame h s
  | .keyGenerate h => execKeyGenerate_frame h s
  | .epochAdvance h => execEpochAdvance_frame h s
  | .rekey h => execRekey_frame h s
  | .lockAcquire h => execLockAcquire_frame h s
  | .lockRelease h => execLockRelease_frame h s
  | .identify h => execIdentify_frame h s
  | .query h => execQuery_frame h s
  | .selfTest h => execSelfTest_frame h s
  | .logFreeze h => execLogFreeze_frame h s
  | .logThaw h => execLogThaw_frame h s
  | .logRead h confirm => execLogRead_frame h confirm s
  | .unfinishedRead h confirm => execUnfinishedRead_frame h confirm s
  | .getStatus h => execGetStatus_frame h s
  | .readLog h => execReadLog_frame h s
  | .readUnfinished h => execReadUnfinished_frame h s
  | .imageWrite h => execImageWrite_frame h s
  | .imageSelect h => execImageSelect_frame h s
  | .rmIdentify h => execRmIdentify_frame h s
  | .queueClear h => execQueueClear_frame h s
  | .cxlIdentify h => execCxlIdentify_frame h s
  | .backgroundOperationStatus h => execBackgroundOperationStatus_frame h s
  | .getEventRecords h log => execGetEventRecords_frame h log s
  | .clearEventRecords h log all handles => execClearEventRecords_frame h log all handles s
  | .getEventInterruptPolicy h => execGetEventInterruptPolicy_frame h s
  | .setEventInterruptPolicy h policy => execSetEventInterruptPolicy_frame h policy s
  | .getFwInfo h => execGetFwInfo_frame h s
  | .transferFw h slot offset data => execTransferFw_frame h slot offset data s
  | .activateFw h slot => execActivateFw_frame h slot s
  | .getTimestamp h => execGetTimestamp_frame h s
  | .setTimestamp h value => execSetTimestamp_frame h value s
  | .getSupportedLogs h => execGetSupportedLogs_frame h s
  | .getLog h => execGetLog_frame h s
  | .identifyMemoryDevice h => execIdentifyMemoryDevice_frame h s
  | .getPartitionInfo h => execGetPartitionInfo_frame h s
  | .getLsa h offset len => execGetLsa_frame h offset len s
  | .setLsa h offset data => execSetLsa_frame h offset data s
  | .getHealthInfo h => execGetHealthInfo_frame h s
  | .getAlertConfiguration h => execGetAlertConfiguration_frame h s
  | .setAlertConfiguration h value => execSetAlertConfiguration_frame h value s
  | .getShutdownState h => execGetShutdownState_frame h s
  | .setShutdownState h value => execSetShutdownState_frame h value s
  | .getPoisonList h => execGetPoisonList_frame h s
  | .injectPoison h dpa => execInjectPoison_frame h dpa s
  | .clearPoison h dpa data => execClearPoison_frame h dpa data s
  | .linkTrained h rate width => execLinkTrained_frame h rate width s
  | .linkStateChange h st => execLinkStateChange_frame h st s
  | .bondedPortLost h => execBondedPortLost_frame h s
  | .hdmDecoderCommit h k base size skip lock form => execHdmDecoderCommit_frame h k base size skip lock form s
  | .hdmDecoderUncommit h k => execHdmDecoderUncommit_frame h k s
  | .twinEnable h n value => execTwinEnable_frame h n value s
  | .twinDisable h n value => execTwinDisable_frame h n value s
  | .twinDisableDone n => execTwinDisableDone_frame n s
  | .twinLock h n value => execTwinLock_frame h n value s
  | .gpfPhase2Request h => execGpfPhase2Request_frame h s
  | .ideKmMessage h keySet stream => execIdeKmMessage_frame h keySet stream s
  | .doeRequest h k arg => execDoeRequest_frame h k arg s
  | .d3hotEntry h => execD3hotEntry_frame h s
  | .d0Return h => execD0Return_frame h s
  | .d3coldEntry h => execD3coldEntry_frame h s
  | .conventionalReset h => execConventionalReset_frame h s
  | .flr h => execFlr_frame h s
  | .cxlReset h => execCxlReset_frame h s
  | .deviceReset h value => execDeviceReset_frame h value s
  | .lockstepMismatch p => execLockstepMismatch_frame p s
  | .coreMemoryUncorrectable p => execCoreMemoryUncorrectable_frame p s
  | .watchdogPet p value => execWatchdogPet_frame p value s
  | .watchdogExpiry p => execWatchdogExpiry_frame p s
  | .semaphoreAcquire p n => execSemaphoreAcquire_frame p n s
  | .semaphoreRelease p n => execSemaphoreRelease_frame p n s
  | .icuSourceEdge src => execIcuSourceEdge_frame src s
  | .icuPendingClear k value => execIcuPendingClear_frame k value s
  | .icuSoftwareInterrupt value => execIcuSoftwareInterrupt_frame value s
  | .icuEoi p value => execIcuEoi_frame p value s
  | .icuEnableChange target value => execIcuEnableChange_frame target value s
  | .icuCfgLock value => execIcuCfgLock_frame value s
  | .msixMessage h vec => execMsixMessage_frame h vec s
  | .msixUnmask h vec => execMsixUnmask_frame h vec s
  | .railValid ch => execRailValid_frame ch s
  | .railFault ch kind => execRailFault_frame ch kind s
  | .railRampTimeout ch => execRailRampTimeout_frame ch s
  | .railRetry ch => execRailRetry_frame ch s
  | .faultNPulseEnd stillLow => execFaultNPulseEnd_frame stillLow s
  | .marginSet h value => execMarginSet_frame h value s
  | .marginClear h value => execMarginClear_frame h value s
  | .inputValid vin => execInputValid_frame vin s
  | .inputFail vin => execInputFail_frame vin s
  | .holdupMeasureStart vhMv => execHoldupMeasureStart_frame vhMv s
  | .holdupMeasureEnd fallNs completed => execHoldupMeasureEnd_frame fallNs completed s
  | .armingEvaluation vhMv => execArmingEvaluation_frame vhMv s
  | .bringupStep inp => execBringupStep_frame inp s
  | .replayRestore parts lost => execReplayRestore_frame parts lost s
  | .segmentPartsProgrammed ok => execSegmentPartsProgrammed_frame ok s
  | .wakeEdge pin rising => execWakeEdge_frame pin rising s
  | .restExit h => execRestExit_frame h s
  | .sensorConversion k code ok => execSensorConversion_frame k code ok s
  | .thermalRestart code => execThermalRestart_frame code s
  | .housekeepingRound rd0 rd1 dies => execHousekeepingRound_frame rd0 rd1 dies s
  | .aonTempRead code => execAonTempRead_frame code s
  | .smbusArp addr => execSmbusArp_frame addr s
  | .setEndpointId eid forceOp => execSetEndpointId_frame eid forceOp s
  | .getMctpVersionSupport msgType => execGetMctpVersionSupport_frame msgType s
  | .getSensor idx => execGetSensor_frame idx s
  | .keelWriteDone page ok => execKeelWriteDone_frame page ok s
  | .eventRecord code arg => execEventRecord_frame code arg s
  | .counterClear h n value => execCounterClear_frame h n value s
  | .counterSnapshot h => execCounterSnapshot_frame h s
  | .histogramSnapshot h => execHistogramSnapshot_frame h s
  | .histogramClear h k value => execHistogramClear_frame h k value s
  | .selfTestSliceRun slice fault condition => execSelfTestSliceRun_frame slice fault condition s
  | .samplePreload pins => execSamplePreload_frame pins s
  | .bypass code => execBypass_frame code s
  | .fxResp r t => execFxResp_frame r t s
  | .fxHalt p => execFxHalt_frame p s
  | .fxResume p => execFxResume_frame p s
  | .fxStep p after => execFxStep_frame p after s
  | .fxSetBreakpoint p k addr => execFxSetBreakpoint_frame p k addr s
  | .fxClearBreakpoint p k => execFxClearBreakpoint_frame p k s
  | .fxRead raw addr => execFxRead_frame raw addr s
  | .fxWrite addr data => execFxWrite_frame addr data s
  | .fxReadRegister p k => execFxReadRegister_frame p k s
  | .fxWriteRegister p k data => execFxWriteRegister_frame p k data s
  | .fxSemaphoreAcquire k => execFxSemaphoreAcquire_frame k s
  | .fxSemaphoreRelease k => execFxSemaphoreRelease_frame k s
  | .breakpointHit p k => execBreakpointHit_frame p k s
  | .registerAccessError h kind off => execRegisterAccessError_frame h kind off s
  | .registerWrite h off wide value => execRegisterWrite_frame h off wide value s
  | .perstNDeasserted h => execPerstNDeasserted_frame h s
  | .outboundReadCompletion h tag data st => execOutboundReadCompletion_frame h tag data st s
  | .unsupportedM2sOpcode h tag op => execUnsupportedM2sOpcode_frame h tag op s
  | .sramWordCorrected w => execSramWordCorrected_frame w s
  | .unsupportedMailboxCommand h op => execUnsupportedMailboxCommand_frame h op s
  | .ideMacFailure x => execIdeMacFailure_frame x s
  | .unusedDStateWrite h d => execUnusedDStateWrite_frame h d s
  | .writebackSelect => execWritebackSelect_frame s
  | .scratchChangeDone => execScratchChangeDone_frame s
  | .compatChangeDone => execCompatChangeDone_frame s
  | .fastClockReturn => execFastClockReturn_frame s
  | .tetherSave => execTetherSave_frame s
  | .ptmRequestTimer => execPtmRequestTimer_frame s
  | .ptmHoldover => execPtmHoldover_frame s
  | .phaseStart => execPhaseStart_frame s
  | .frameStart => execFrameStart_frame s
  | .testWindowClose => execTestWindowClose_frame s
  | .testWindowEarlyClose => execTestWindowEarlyClose_frame s
  | .driftLedgerSave => execDriftLedgerSave_frame s
  | .heatPeriodAdvance => execHeatPeriodAdvance_frame s
  | .zoneTargetRecompute => execZoneTargetRecompute_frame s
  | .wearSummarySave => execWearSummarySave_frame s
  | .wearLevelCheck => execWearLevelCheck_frame s
  | .floorWarnRepeat => execFloorWarnRepeat_frame s
  | .sealDevice => execSealDevice_frame s
  | .failoverTakeover => execFailoverTakeover_frame s
  | .standbyPairFail => execStandbyPairFail_frame s
  | .checkpoint => execCheckpoint_frame s
  | .icuCommit => execIcuCommit_frame s
  | .fuseFloorRaise => execFuseFloorRaise_frame s
  | .sequenceStep => execSequenceStep_frame s
  | .systemReset => execSystemReset_frame s
  | .restartAfterOff => execRestartAfterOff_frame s
  | .faultNNotice => execFaultNNotice_frame s
  | .faultNFault => execFaultNFault_frame s
  | .faultNReleased => execFaultNReleased_frame s
  | .pwrReqAssert => execPwrReqAssert_frame s
  | .pwrReqDeassert => execPwrReqDeassert_frame s
  | .replayRepair => execReplayRepair_frame s
  | .segmentRelease => execSegmentRelease_frame s
  | .ripcordEntry => execRipcordEntry_frame s
  | .lateArrivalWindowEnd => execLateArrivalWindowEnd_frame s
  | .phaseScheduleSuspend => execPhaseScheduleSuspend_frame s
  | .flushKeelWrites => execFlushKeelWrites_frame s
  | .flushRailsDown => execFlushRailsDown_frame s
  | .shutdownFlush => execShutdownFlush_frame s
  | .restEntry => execRestEntry_frame s
  | .roundEvaluate => execRoundEvaluate_frame s
  | .getEndpointId => execGetEndpointId_frame s
  | .getMessageTypeSupport => execGetMessageTypeSupport_frame s
  | .getHealth => execGetHealth_frame s
  | .getIdentity => execGetIdentity_frame s
  | .keelWriteStart => execKeelWriteStart_frame s
  | .lifeRecordWrite => execLifeRecordWrite_frame s
  | .operatingSecond => execOperatingSecond_frame s
  | .rateLimitSecondEnd => execRateLimitSecondEnd_frame s
  | .logbookFlush => execLogbookFlush_frame s
  | .freezeTimeout => execFreezeTimeout_frame s
  | .unitWindow => execUnitWindow_frame s
  | .periodicSliceQueue => execPeriodicSliceQueue_frame s
  | .extest => execExtest_frame s
  | .idcode => execIdcode_frame s
  | .clamp => execClamp_frame s
  | .highz => execHighz_frame s
  | .fxStatus => execFxStatus_frame s
  | .fxChal => execFxChal_frame s
  | .fxCloseSession => execFxCloseSession_frame s
  | .tapReset => execTapReset_frame s
  | .aonPowerUp => execAonPowerUp_frame s

/-- A command keeps the invariant, and answers a next state. -/
theorem exec_keeps (s : State) : (i : Instr) → KeepsNext s (exec i s)
  | .creditGrant h rwd => execCreditGrant_keeps h rwd s
  | .memrd h tag dpa => execMemrd_keeps h tag dpa s
  | .memspecrd h dpa => execMemspecrd_keeps h dpa s
  | .meminv h tag dpa nt => execMeminv_keeps h tag dpa nt s
  | .memwr h tag dpa data poison => execMemwr_keeps h tag dpa data poison s
  | .memwrptl h tag dpa data be poison => execMemwrptl_keeps h tag dpa data be poison s
  | .sectorTransitEnd dpa => execSectorTransitEnd_keeps dpa s
  | .mediaLineReturn dpa v unk => execMediaLineReturn_keeps dpa v unk s
  | .heavyDecodeDone dpa v => execHeavyDecodeDone_keeps dpa v s
  | .readRetryAfterProgram dpa v unk => execReadRetryAfterProgram_keeps dpa v unk s
  | .writeBackDone dpa => execWriteBackDone_keeps dpa s
  | .stagedEntryTranslate dpa => execStagedEntryTranslate_keeps dpa s
  | .gondolaMacroFail bank macroNo lost => execGondolaMacroFail_keeps bank macroNo lost s
  | .sramUncorrectable store dpa => execSramUncorrectable_keeps store dpa s
  | .scratchConversionWrite h value => execScratchConversionWrite_keeps h value s
  | .compatEnable h => execCompatEnable_keeps h s
  | .compatDisable h => execCompatDisable_keeps h s
  | .compatPagePin h n => execCompatPagePin_keeps h n s
  | .compatPageUnpin h n => execCompatPageUnpin_keeps h n s
  | .invalidationGo h => execInvalidationGo_keeps h s
  | .invalidationDone r => execInvalidationDone_keeps r s
  | .tthRateWrite h value => execTthRateWrite_keeps h value s
  | .ptmResult hostTime => execPtmResult_keeps hostTime s
  | .programStartGate m mode buf last => execProgramStartGate_keeps m mode buf last s
  | .programOverrun m => execProgramOverrun_keeps m s
  | .testWindowOpen narrowEye narrowDie => execTestWindowOpen_keeps narrowEye narrowDie s
  | .launchSlotArm h n value => execLaunchSlotArm_keeps h n value s
  | .launchSlotDisarm h n value => execLaunchSlotDisarm_keeps h n value s
  | .launchSlotFire n => execLaunchSlotFire_keeps n s
  | .gpioPulseEnd pin => execGpioPulseEnd_keeps pin s
  | .nop m err => execNop_keeps m err s
  | .rdLine m err pa slot set mode => execRdLine_keeps m err pa slot set mode s
  | .rdLineSoft m err pa slot set mode mask => execRdLineSoft_keeps m err pa slot set mode mask s
  | .rdPage m err pa set mode => execRdPage_keeps m err pa set mode s
  | .rdRef m err pa mode sweep => execRdRef_keeps m err pa mode sweep s
  | .load m err pa buf entry data crc => execLoad_keeps m err pa buf entry data crc s
  | .progSlc m err buf last => execProgSlc_keeps m err buf last s
  | .progMlc m err buf last => execProgMlc_keeps m err buf last s
  | .dieProgramEnd m res => execDieProgramEnd_keeps m res s
  | .status m err => execStatus_keeps m err s
  | .temp m err => execTemp_keeps m err s
  | .readId m err => execReadId_keeps m err s
  | .setFeature dies err addr value => execSetFeature_keeps dies err addr value s
  | .getFeature m err addr => execGetFeature_keeps m err addr s
  | .trainCa m err => execTrainCa_keeps m err s
  | .trainRd m err pattern => execTrainRd_keeps m err pattern s
  | .trainWr m err data => execTrainWr_keeps m err data s
  | .zqCal m err => execZqCal_keeps m err s
  | .pdEnter dies err => execPdEnter_keeps dies err s
  | .pdExit dies err => execPdExit_keeps dies err s
  | .reset dies err => execReset_keeps dies err s
  | .dieInitDone m => execDieInitDone_keeps m s
  | .alertConditionRepeat m => execAlertConditionRepeat_keeps m s
  | .alertNLow low => execAlertNLow_keeps low s
  | .alertLongLow n => execAlertLongLow_keeps n s
  | .alertStatusResponse m st => execAlertStatusResponse_keeps m st s
  | .alertStuck n => execAlertStuck_keeps n s
  | .channelTraining n found => execChannelTraining_keeps n found s
  | .channelTrained n eyeRd eyeWr passed => execChannelTrained_keeps n eyeRd eyeWr passed s
  | .retrainRequest h n => execRetrainRequest_keeps h n s
  | .retrainTimer n => execRetrainTimer_keeps n s
  | .retrainComplete n eyeRd eyeWr code => execRetrainComplete_keeps n eyeRd eyeWr code s
  | .rowUpdateStart g row mode lines => execRowUpdateStart_keeps g row mode lines s
  | .rowUpdateDone g row => execRowUpdateDone_keeps g row s
  | .bridleGrant n => execBridleGrant_keeps n s
  | .bridleRankWrite h q value => execBridleRankWrite_keeps h q value s
  | .dieDeclaredFailed m cause => execDieDeclaredFailed_keeps m cause s
  | .channelDeclaredFailed n cause => execChannelDeclaredFailed_keeps n cause s
  | .faultDieReset m => execFaultDieReset_keeps m s
  | .lineRepair dpa => execLineRepair_keeps dpa s
  | .poisonConfirmation dpa good => execPoisonConfirmation_keeps dpa good s
  | .surveyTract g index pos codes => execSurveyTract_keeps g index pos codes s
  | .thresholdRecompute r => execThresholdRecompute_keeps r s
  | .resurveyTract g index pos codes => execResurveyTract_keeps g index pos codes s
  | .refreshStart tract => execRefreshStart_keeps tract s
  | .scrubRow tract row worst found parityBad => execScrubRow_keeps tract row worst found parityBad s
  | .metadataWriteback line => execMetadataWriteback_keeps line s
  | .counterLineWriteback page => execCounterLineWriteback_keeps page s
  | .gapMove tract => execGapMove_keeps tract s
  | .gapMoveDone tract => execGapMoveDone_keeps tract s
  | .migrationStart tract why => execMigrationStart_keeps tract why s
  | .migrationCopyDone tract => execMigrationCopyDone_keeps tract s
  | .migrationVerify tract bad badAgain => execMigrationVerify_keeps tract bad badAgain s
  | .migrationSwitch tract => execMigrationSwitch_keeps tract s
  | .migrationRelease tract => execMigrationRelease_keeps tract s
  | .reencryptionRewrite dpa => execReencryptionRewrite_keeps dpa s
  | .slotDrainComplete slot => execSlotDrainComplete_keeps slot s
  | .descriptorFetch c descs fail => execDescriptorFetch_keeps c descs fail s
  | .descriptorStart c => execDescriptorStart_keeps c s
  | .sourceLineReturn c v => execSourceLineReturn_keeps c v s
  | .outboundWrite c n => execOutboundWrite_keeps c n s
  | .confirmationComplete c => execConfirmationComplete_keeps c s
  | .outboundCompletionTimeout c why => execOutboundCompletionTimeout_keeps c why s
  | .listEnd c => execListEnd_keeps c s
  | .snapshotBuildTract h => execSnapshotBuildTract_keeps h s
  | .snapshotComplete h => execSnapshotComplete_keeps h s
  | .qpEnable h n value => execQpEnable_keeps h n value s
  | .qpDisable h n value => execQpDisable_keeps h n value s
  | .qpIdle n => execQpIdle_keeps n s
  | .sqDoorbell h n value => execSqDoorbell_keeps h n value s
  | .cqDoorbell h n value => execCqDoorbell_keeps h n value s
  | .sqFetch n entry parity => execSqFetch_keeps n entry parity s
  | .cqEntryWrite h parity => execCqEntryWrite_keeps h parity s
  | .heldCommandStart h => execHeldCommandStart_keeps h s
  | .invalidOpcode h => execInvalidOpcode_keeps h s
  | .stream h => execStream_keeps h s
  | .copy h => execCopy_keeps h s
  | .install h => execInstall_keeps h s
  | .verify h => execVerify_keeps h s
  | .snapshot h => execSnapshot_keeps h s
  | .stop h => execStop_keeps h s
  | .dictionaryRegister h => execDictionaryRegister_keeps h s
  | .drop h => execDrop_keeps h s
  | .discard h => execDiscard_keeps h s
  | .sanitize h => execSanitize_keeps h s
  | .keyLoad h => execKeyLoad_keeps h s
  | .keyEvict h => execKeyEvict_keeps h s
  | .keyGenerate h => execKeyGenerate_keeps h s
  | .epochAdvance h => execEpochAdvance_keeps h s
  | .rekey h => execRekey_keeps h s
  | .lockAcquire h => execLockAcquire_keeps h s
  | .lockRelease h => execLockRelease_keeps h s
  | .identify h => execIdentify_keeps h s
  | .query h => execQuery_keeps h s
  | .selfTest h => execSelfTest_keeps h s
  | .logFreeze h => execLogFreeze_keeps h s
  | .logThaw h => execLogThaw_keeps h s
  | .logRead h confirm => execLogRead_keeps h confirm s
  | .unfinishedRead h confirm => execUnfinishedRead_keeps h confirm s
  | .getStatus h => execGetStatus_keeps h s
  | .readLog h => execReadLog_keeps h s
  | .readUnfinished h => execReadUnfinished_keeps h s
  | .imageWrite h => execImageWrite_keeps h s
  | .imageSelect h => execImageSelect_keeps h s
  | .rmIdentify h => execRmIdentify_keeps h s
  | .queueClear h => execQueueClear_keeps h s
  | .cxlIdentify h => execCxlIdentify_keeps h s
  | .backgroundOperationStatus h => execBackgroundOperationStatus_keeps h s
  | .getEventRecords h log => execGetEventRecords_keeps h log s
  | .clearEventRecords h log all handles => execClearEventRecords_keeps h log all handles s
  | .getEventInterruptPolicy h => execGetEventInterruptPolicy_keeps h s
  | .setEventInterruptPolicy h policy => execSetEventInterruptPolicy_keeps h policy s
  | .getFwInfo h => execGetFwInfo_keeps h s
  | .transferFw h slot offset data => execTransferFw_keeps h slot offset data s
  | .activateFw h slot => execActivateFw_keeps h slot s
  | .getTimestamp h => execGetTimestamp_keeps h s
  | .setTimestamp h value => execSetTimestamp_keeps h value s
  | .getSupportedLogs h => execGetSupportedLogs_keeps h s
  | .getLog h => execGetLog_keeps h s
  | .identifyMemoryDevice h => execIdentifyMemoryDevice_keeps h s
  | .getPartitionInfo h => execGetPartitionInfo_keeps h s
  | .getLsa h offset len => execGetLsa_keeps h offset len s
  | .setLsa h offset data => execSetLsa_keeps h offset data s
  | .getHealthInfo h => execGetHealthInfo_keeps h s
  | .getAlertConfiguration h => execGetAlertConfiguration_keeps h s
  | .setAlertConfiguration h value => execSetAlertConfiguration_keeps h value s
  | .getShutdownState h => execGetShutdownState_keeps h s
  | .setShutdownState h value => execSetShutdownState_keeps h value s
  | .getPoisonList h => execGetPoisonList_keeps h s
  | .injectPoison h dpa => execInjectPoison_keeps h dpa s
  | .clearPoison h dpa data => execClearPoison_keeps h dpa data s
  | .linkTrained h rate width => execLinkTrained_keeps h rate width s
  | .linkStateChange h st => execLinkStateChange_keeps h st s
  | .bondedPortLost h => execBondedPortLost_keeps h s
  | .hdmDecoderCommit h k base size skip lock form => execHdmDecoderCommit_keeps h k base size skip lock form s
  | .hdmDecoderUncommit h k => execHdmDecoderUncommit_keeps h k s
  | .twinEnable h n value => execTwinEnable_keeps h n value s
  | .twinDisable h n value => execTwinDisable_keeps h n value s
  | .twinDisableDone n => execTwinDisableDone_keeps n s
  | .twinLock h n value => execTwinLock_keeps h n value s
  | .gpfPhase2Request h => execGpfPhase2Request_keeps h s
  | .ideKmMessage h keySet stream => execIdeKmMessage_keeps h keySet stream s
  | .doeRequest h k arg => execDoeRequest_keeps h k arg s
  | .d3hotEntry h => execD3hotEntry_keeps h s
  | .d0Return h => execD0Return_keeps h s
  | .d3coldEntry h => execD3coldEntry_keeps h s
  | .conventionalReset h => execConventionalReset_keeps h s
  | .flr h => execFlr_keeps h s
  | .cxlReset h => execCxlReset_keeps h s
  | .deviceReset h value => execDeviceReset_keeps h value s
  | .lockstepMismatch p => execLockstepMismatch_keeps p s
  | .coreMemoryUncorrectable p => execCoreMemoryUncorrectable_keeps p s
  | .watchdogPet p value => execWatchdogPet_keeps p value s
  | .watchdogExpiry p => execWatchdogExpiry_keeps p s
  | .semaphoreAcquire p n => execSemaphoreAcquire_keeps p n s
  | .semaphoreRelease p n => execSemaphoreRelease_keeps p n s
  | .icuSourceEdge src => execIcuSourceEdge_keeps src s
  | .icuPendingClear k value => execIcuPendingClear_keeps k value s
  | .icuSoftwareInterrupt value => execIcuSoftwareInterrupt_keeps value s
  | .icuEoi p value => execIcuEoi_keeps p value s
  | .icuEnableChange target value => execIcuEnableChange_keeps target value s
  | .icuCfgLock value => execIcuCfgLock_keeps value s
  | .msixMessage h vec => execMsixMessage_keeps h vec s
  | .msixUnmask h vec => execMsixUnmask_keeps h vec s
  | .railValid ch => execRailValid_keeps ch s
  | .railFault ch kind => execRailFault_keeps ch kind s
  | .railRampTimeout ch => execRailRampTimeout_keeps ch s
  | .railRetry ch => execRailRetry_keeps ch s
  | .faultNPulseEnd stillLow => execFaultNPulseEnd_keeps stillLow s
  | .marginSet h value => execMarginSet_keeps h value s
  | .marginClear h value => execMarginClear_keeps h value s
  | .inputValid vin => execInputValid_keeps vin s
  | .inputFail vin => execInputFail_keeps vin s
  | .holdupMeasureStart vhMv => execHoldupMeasureStart_keeps vhMv s
  | .holdupMeasureEnd fallNs completed => execHoldupMeasureEnd_keeps fallNs completed s
  | .armingEvaluation vhMv => execArmingEvaluation_keeps vhMv s
  | .bringupStep inp => execBringupStep_keeps inp s
  | .replayRestore parts lost => execReplayRestore_keeps parts lost s
  | .segmentPartsProgrammed ok => execSegmentPartsProgrammed_keeps ok s
  | .wakeEdge pin rising => execWakeEdge_keeps pin rising s
  | .restExit h => execRestExit_keeps h s
  | .sensorConversion k code ok => execSensorConversion_keeps k code ok s
  | .thermalRestart code => execThermalRestart_keeps code s
  | .housekeepingRound rd0 rd1 dies => execHousekeepingRound_keeps rd0 rd1 dies s
  | .aonTempRead code => execAonTempRead_keeps code s
  | .smbusArp addr => execSmbusArp_keeps addr s
  | .setEndpointId eid forceOp => execSetEndpointId_keeps eid forceOp s
  | .getMctpVersionSupport msgType => execGetMctpVersionSupport_keeps msgType s
  | .getSensor idx => execGetSensor_keeps idx s
  | .keelWriteDone page ok => execKeelWriteDone_keeps page ok s
  | .eventRecord code arg => execEventRecord_keeps code arg s
  | .counterClear h n value => execCounterClear_keeps h n value s
  | .counterSnapshot h => execCounterSnapshot_keeps h s
  | .histogramSnapshot h => execHistogramSnapshot_keeps h s
  | .histogramClear h k value => execHistogramClear_keeps h k value s
  | .selfTestSliceRun slice fault condition => execSelfTestSliceRun_keeps slice fault condition s
  | .samplePreload pins => execSamplePreload_keeps pins s
  | .bypass code => execBypass_keeps code s
  | .fxResp r t => execFxResp_keeps r t s
  | .fxHalt p => execFxHalt_keeps p s
  | .fxResume p => execFxResume_keeps p s
  | .fxStep p after => execFxStep_keeps p after s
  | .fxSetBreakpoint p k addr => execFxSetBreakpoint_keeps p k addr s
  | .fxClearBreakpoint p k => execFxClearBreakpoint_keeps p k s
  | .fxRead raw addr => execFxRead_keeps raw addr s
  | .fxWrite addr data => execFxWrite_keeps addr data s
  | .fxReadRegister p k => execFxReadRegister_keeps p k s
  | .fxWriteRegister p k data => execFxWriteRegister_keeps p k data s
  | .fxSemaphoreAcquire k => execFxSemaphoreAcquire_keeps k s
  | .fxSemaphoreRelease k => execFxSemaphoreRelease_keeps k s
  | .breakpointHit p k => execBreakpointHit_keeps p k s
  | .registerAccessError h kind off => execRegisterAccessError_keeps h kind off s
  | .registerWrite h off wide value => execRegisterWrite_keeps h off wide value s
  | .perstNDeasserted h => execPerstNDeasserted_keeps h s
  | .outboundReadCompletion h tag data st => execOutboundReadCompletion_keeps h tag data st s
  | .unsupportedM2sOpcode h tag op => execUnsupportedM2sOpcode_keeps h tag op s
  | .sramWordCorrected w => execSramWordCorrected_keeps w s
  | .unsupportedMailboxCommand h op => execUnsupportedMailboxCommand_keeps h op s
  | .ideMacFailure x => execIdeMacFailure_keeps x s
  | .unusedDStateWrite h d => execUnusedDStateWrite_keeps h d s
  | .writebackSelect => execWritebackSelect_keeps s
  | .scratchChangeDone => execScratchChangeDone_keeps s
  | .compatChangeDone => execCompatChangeDone_keeps s
  | .fastClockReturn => execFastClockReturn_keeps s
  | .tetherSave => execTetherSave_keeps s
  | .ptmRequestTimer => execPtmRequestTimer_keeps s
  | .ptmHoldover => execPtmHoldover_keeps s
  | .phaseStart => execPhaseStart_keeps s
  | .frameStart => execFrameStart_keeps s
  | .testWindowClose => execTestWindowClose_keeps s
  | .testWindowEarlyClose => execTestWindowEarlyClose_keeps s
  | .driftLedgerSave => execDriftLedgerSave_keeps s
  | .heatPeriodAdvance => execHeatPeriodAdvance_keeps s
  | .zoneTargetRecompute => execZoneTargetRecompute_keeps s
  | .wearSummarySave => execWearSummarySave_keeps s
  | .wearLevelCheck => execWearLevelCheck_keeps s
  | .floorWarnRepeat => execFloorWarnRepeat_keeps s
  | .sealDevice => execSealDevice_keeps s
  | .failoverTakeover => execFailoverTakeover_keeps s
  | .standbyPairFail => execStandbyPairFail_keeps s
  | .checkpoint => execCheckpoint_keeps s
  | .icuCommit => execIcuCommit_keeps s
  | .fuseFloorRaise => execFuseFloorRaise_keeps s
  | .sequenceStep => execSequenceStep_keeps s
  | .systemReset => execSystemReset_keeps s
  | .restartAfterOff => execRestartAfterOff_keeps s
  | .faultNNotice => execFaultNNotice_keeps s
  | .faultNFault => execFaultNFault_keeps s
  | .faultNReleased => execFaultNReleased_keeps s
  | .pwrReqAssert => execPwrReqAssert_keeps s
  | .pwrReqDeassert => execPwrReqDeassert_keeps s
  | .replayRepair => execReplayRepair_keeps s
  | .segmentRelease => execSegmentRelease_keeps s
  | .ripcordEntry => execRipcordEntry_keeps s
  | .lateArrivalWindowEnd => execLateArrivalWindowEnd_keeps s
  | .phaseScheduleSuspend => execPhaseScheduleSuspend_keeps s
  | .flushKeelWrites => execFlushKeelWrites_keeps s
  | .flushRailsDown => execFlushRailsDown_keeps s
  | .shutdownFlush => execShutdownFlush_keeps s
  | .restEntry => execRestEntry_keeps s
  | .roundEvaluate => execRoundEvaluate_keeps s
  | .getEndpointId => execGetEndpointId_keeps s
  | .getMessageTypeSupport => execGetMessageTypeSupport_keeps s
  | .getHealth => execGetHealth_keeps s
  | .getIdentity => execGetIdentity_keeps s
  | .keelWriteStart => execKeelWriteStart_keeps s
  | .lifeRecordWrite => execLifeRecordWrite_keeps s
  | .operatingSecond => execOperatingSecond_keeps s
  | .rateLimitSecondEnd => execRateLimitSecondEnd_keeps s
  | .logbookFlush => execLogbookFlush_keeps s
  | .freezeTimeout => execFreezeTimeout_keeps s
  | .unitWindow => execUnitWindow_keeps s
  | .periodicSliceQueue => execPeriodicSliceQueue_keeps s
  | .extest => execExtest_keeps s
  | .idcode => execIdcode_keeps s
  | .clamp => execClamp_keeps s
  | .highz => execHighz_keeps s
  | .fxStatus => execFxStatus_keeps s
  | .fxChal => execFxChal_keeps s
  | .fxCloseSession => execFxCloseSession_keeps s
  | .tapReset => execTapReset_keeps s
  | .aonPowerUp => execAonPowerUp_keeps s

theorem idle_keeps (s : State) : Keeps s.dev (idle s).dev :=
  Keeps.comp (Dev.reach_keeps ..) (Dev.passed_keeps ..)

/-- Settles O54: one frame for each constructor. -/
theorem commandFrames : Obligations.COMMAND_FRAMES := fun i s => exec_frame s i

/-- Settles O55: an idle step keeps the invariant, and so does the command at the front of the queue, on the state with the queue's rest. -/
theorem stepKeepsSound : Obligations.STEP_KEEPS_SOUND := by
  intro s t hsound hstep
  cases hq : s.pending with
  | nil =>
    have ht : idle s = t := by simpa [step, hq] using hstep
    exact ht ▸ (idle_keeps s).sound hsound
  | cons c rest =>
    obtain ⟨e, hexec, hkeeps⟩ := exec_keeps { s with pending := rest } c
    have ht : ({ s with pending := rest, dev := e } : State) = t := by simpa [step, hq, hexec] using hstep
    exact ht ▸ hkeeps.sound hsound

/-- Settles O1. -/
theorem stepRunsCommand : Obligations.STEP_RUNS_COMMAND := fun _ _ _ => rfl

end Sys2Proof.Machine

/-!
PROOFS. O17 (R121): the frame code. The syndrome and the parity of received bits are linear, so an error's syndrome and parity are those of the
received frame, and what is left is finite: the 56 columns are distinct, and each payload bit's column is its position.
-/
namespace Sys2Proof

theorem bits_xor (x y hi lo : Nat) : bits (x ^^^ y) hi lo = bits x hi lo ^^^ bits y hi lo := by
  simp only [bits, Nat.xor_div_two_pow, Nat.xor_mod_two_pow]

namespace Machine

/-! ## The code is linear -/

/-- One payload bit's share of the check. -/
def frameTerm (p acc : Nat) (e : Nat × Nat) : Nat := if bit p e.2 then acc ^^^ e.1 else acc

theorem frameCheck_eq (p : Nat) : frameCheck p = framePos.zipIdx.foldl (frameTerm p) 0 := rfl

theorem frameTerm_xor (p q a b : Nat) (e : Nat × Nat) : frameTerm (p ^^^ q) (a ^^^ b) e = frameTerm p a e ^^^ frameTerm q b e := by
  simp only [frameTerm, bit_eq_testBit, Nat.testBit_xor]
  cases p.testBit e.2 <;> cases q.testBit e.2 <;> simp [Nat.xor_left_comm, Nat.xor_comm]

theorem foldl_frameTerm_xor (p q : Nat) (l : List (Nat × Nat)) (a b : Nat) :
    l.foldl (frameTerm (p ^^^ q)) (a ^^^ b) = l.foldl (frameTerm p) a ^^^ l.foldl (frameTerm q) b := by
  induction l generalizing a b with
  | nil => rfl
  | cons e l ih => simp only [List.foldl_cons, frameTerm_xor, ih]

theorem frameCheck_xor (p q : Nat) : frameCheck (p ^^^ q) = frameCheck p ^^^ frameCheck q := by
  simpa only [frameCheck_eq, Nat.xor_self] using foldl_frameTerm_xor p q framePos.zipIdx 0 0

theorem parityN_xor (n x y : Nat) : parityN n (x ^^^ y) = (parityN n x + parityN n y) % 2 := by
  induction n generalizing x y with
  | zero => rfl
  | succ n ih =>
    have hlow : (x ^^^ y) % 2 = (x + y) % 2 := Nat.xor_mod_two_eq
    simp only [parityN, Nat.xor_div_two, ih]
    omega

/-- The syndrome of 56 received bits: their payload's check against the check bits they carry (R121). -/
def frameSyndrome (w : Nat) : Nat := frameCheck (w % 2 ^ 49) ^^^ bits w 54 49

theorem frameSyndrome_xor (w e : Nat) : frameSyndrome (w ^^^ e) = frameSyndrome w ^^^ frameSyndrome e := by
  simp only [frameSyndrome, Nat.xor_mod_two_pow, frameCheck_xor, bits_xor, Nat.xor_assoc, Nat.xor_left_comm]

/-! ## What the controller sends has syndrome 0 and even parity -/

theorem foldl_frameTerm_lt (p : Nat) (l : List (Nat × Nat)) (hl : ∀ e ∈ l, e.1 < 2 ^ 6) (a : Nat) (ha : a < 2 ^ 6) :
    l.foldl (frameTerm p) a < 2 ^ 6 :=
  List.foldlRecOn l (frameTerm p) (motive := (· < 2 ^ 6)) ha fun b hb e he => by
    unfold frameTerm
    split
    · exact Nat.xor_lt_two_pow hb (hl e he)
    · exact hb

theorem frameCheck_lt (p : Nat) : frameCheck p < 2 ^ 6 := foldl_frameTerm_lt p framePos.zipIdx (by decide) 0 (by decide)

/-- The parity of a word with one more bit on top. -/
theorem parityN_succ_add (n w b : Nat) (hw : w < 2 ^ n) : parityN (n + 1) (w + b * 2 ^ n) = (parityN n w + b) % 2 := by
  induction n generalizing w with
  | zero =>
    obtain rfl : w = 0 := by omega
    simp only [parityN]
    omega
  | succ n ih =>
    have hpow : b * 2 ^ (n + 1) = 2 * (b * 2 ^ n) := by ring
    have hdiv : (w + b * 2 ^ (n + 1)) / 2 = w / 2 + b * 2 ^ n := by omega
    have hmod : (w + b * 2 ^ (n + 1)) % 2 = w % 2 := by omega
    rw [parityN, hdiv, hmod, ih (w / 2) (by omega), parityN]
    omega

/-- A payload with its check bits above it. -/
def frameBody (p : Nat) : Nat := p + frameCheck p * 2 ^ 49

theorem encodeFrame_eq {p : Nat} (hp : p < 2 ^ 49) : encodeFrame p = frameBody p + parityN 55 (frameBody p) * 2 ^ 55 := by
  simp only [encodeFrame, Nat.mod_eq_of_lt hp, frameBody]

theorem frameBody_lt {p : Nat} (hp : p < 2 ^ 49) : frameBody p < 2 ^ 55 := by
  have := frameCheck_lt p
  unfold frameBody
  omega

theorem encodeFrame_payload {p : Nat} (hp : p < 2 ^ 49) : encodeFrame p % 2 ^ 49 = p := by
  rw [encodeFrame_eq hp, frameBody]
  omega

theorem frameSyndrome_encodeFrame {p : Nat} (hp : p < 2 ^ 49) : frameSyndrome (encodeFrame p) = 0 := by
  have hcheck : bits (encodeFrame p) 54 49 = frameCheck p := by
    have := frameCheck_lt p
    rw [encodeFrame_eq hp, bits, frameBody]
    omega
  rw [frameSyndrome, encodeFrame_payload hp, hcheck, Nat.xor_self]

theorem parityN_encodeFrame {p : Nat} (hp : p < 2 ^ 49) : parityN 56 (encodeFrame p) = 0 := by
  rw [encodeFrame_eq hp, parityN_succ_add 55 _ _ (frameBody_lt hp)]
  omega

/-! ## What the die makes of a syndrome and a parity -/

/-- The syndromes that name a check bit. -/
def checkColumns : List Nat := [1, 2, 4, 8, 16, 32]

theorem decodeFrame_of_syndrome_zero {w : Nat} (hs : frameSyndrome w = 0) : decodeFrame w = some (w % 2 ^ 49) := if_pos hs

theorem decodeFrame_of_even {w : Nat} (hs : frameSyndrome w ≠ 0) (hw : parityN 56 w = 0) : decodeFrame w = none :=
  (if_neg hs).trans (if_pos (by simp [hw]))

theorem decodeFrame_of_check {w : Nat} (hw : parityN 56 w = 1) (hs : frameSyndrome w ∈ checkColumns) : decodeFrame w = some (w % 2 ^ 49) := by
  have hcol : frameSyndrome w = 1 ∨ frameSyndrome w = 2 ∨ frameSyndrome w = 4 ∨ frameSyndrome w = 8 ∨ frameSyndrome w = 16 ∨
      frameSyndrome w = 32 := by simpa [checkColumns] using hs
  have hzero : frameSyndrome w ≠ 0 := by omega
  exact (if_neg hzero).trans ((if_neg (by simp [hw])).trans (if_pos hcol))

theorem decodeFrame_of_payload {w k : Nat} (hw : parityN 56 w = 1) (hzero : frameSyndrome w ≠ 0) (hs : frameSyndrome w ∉ checkColumns)
    (hk : framePos.zipIdx.find? (fun e => e.1 == frameSyndrome w) = some (frameSyndrome w, k)) :
    decodeFrame w = some (w % 2 ^ 49 ^^^ 2 ^ k) := by
  have hcol : ¬ (frameSyndrome w = 1 ∨ frameSyndrome w = 2 ∨ frameSyndrome w = 4 ∨ frameSyndrome w = 8 ∨ frameSyndrome w = 16 ∨
      frameSyndrome w = 32) := by simpa [checkColumns] using hs
  refine (if_neg hzero).trans ((if_neg (by simp [hw])).trans ((if_neg hcol).trans ?_))
  rw [show framePos.zipIdx.find? (fun e => e.1 == Nat.xor (frameCheck (w % 2 ^ 49)) (bits w 54 49)) = some (frameSyndrome w, k) from hk]
  rfl

/-! ## The 56 columns -/

theorem parityN_column : ∀ i < 56, parityN 56 (2 ^ i) = 1 := by decide +kernel

theorem frameSyndrome_parity_column : frameSyndrome (2 ^ 55) = 0 := by decide +kernel

theorem frameSyndrome_check_column : ∀ i < 55, 49 ≤ i → frameSyndrome (2 ^ i) ∈ checkColumns := by decide +kernel

theorem frameSyndrome_payload_column : ∀ i < 49, frameSyndrome (2 ^ i) ≠ 0 ∧ frameSyndrome (2 ^ i) ∉ checkColumns ∧
    framePos.zipIdx.find? (fun e => e.1 == frameSyndrome (2 ^ i)) = some (frameSyndrome (2 ^ i), i) := by decide +kernel

theorem frameSyndrome_columns_ne : ∀ j < 56, ∀ i < j, frameSyndrome (2 ^ i) ^^^ frameSyndrome (2 ^ j) ≠ 0 := by decide +kernel

theorem two_pow_mod_of_le {i n : Nat} (h : n ≤ i) : 2 ^ i % 2 ^ n = 0 := Nat.mod_eq_zero_of_dvd (Nat.pow_dvd_pow 2 h)

theorem two_pow_mod_of_lt {i n : Nat} (h : i < n) : 2 ^ i % 2 ^ n = 2 ^ i := Nat.mod_eq_of_lt (Nat.pow_lt_pow_right (by decide) h)

section
variable {p i j : Nat}

theorem decodeFrame_encodeFrame (hp : p < 2 ^ 49) : decodeFrame (encodeFrame p) = some p := by
  rw [decodeFrame_of_syndrome_zero (frameSyndrome_encodeFrame hp), encodeFrame_payload hp]

/-- A single error's column is the received syndrome, and the parity is odd. -/
theorem single_error (hp : p < 2 ^ 49) (hi : i < 56) :
    frameSyndrome (encodeFrame p ^^^ 2 ^ i) = frameSyndrome (2 ^ i) ∧ parityN 56 (encodeFrame p ^^^ 2 ^ i) = 1 ∧
      (encodeFrame p ^^^ 2 ^ i) % 2 ^ 49 = p ^^^ 2 ^ i % 2 ^ 49 := by
  refine ⟨?_, ?_, ?_⟩
  · rw [frameSyndrome_xor, frameSyndrome_encodeFrame hp, Nat.zero_xor]
  · rw [parityN_xor, parityN_encodeFrame hp, parityN_column i hi]
  · rw [Nat.xor_mod_two_pow, encodeFrame_payload hp]

theorem decodeFrame_single_error (hp : p < 2 ^ 49) (hi : i < 56) : decodeFrame (encodeFrame p ^^^ 2 ^ i) = some p := by
  obtain ⟨hs, hodd, hlow⟩ := single_error hp hi
  obtain hpay | hcheck | rfl : i < 49 ∨ (49 ≤ i ∧ i < 55) ∨ i = 55 := by omega
  · obtain ⟨hzero, hcol, hfind⟩ := frameSyndrome_payload_column i hpay
    rw [decodeFrame_of_payload hodd (hs ▸ hzero) (hs ▸ hcol) (hs ▸ hfind), hlow, two_pow_mod_of_lt hpay, Nat.xor_assoc, Nat.xor_self, Nat.xor_zero]
  · rw [decodeFrame_of_check hodd (hs ▸ frameSyndrome_check_column i hcheck.2 hcheck.1), hlow, two_pow_mod_of_le hcheck.1, Nat.xor_zero]
  · rw [decodeFrame_of_syndrome_zero (hs.trans frameSyndrome_parity_column), hlow, two_pow_mod_of_le (by decide), Nat.xor_zero]

theorem decodeFrame_double_error (hp : p < 2 ^ 49) (hij : i < j) (hj : j < 56) : decodeFrame (encodeFrame p ^^^ 2 ^ i ^^^ 2 ^ j) = none := by
  obtain ⟨hs, hodd, -⟩ := single_error hp (hij.trans hj)
  apply decodeFrame_of_even
  · rw [frameSyndrome_xor, hs]
    exact frameSyndrome_columns_ne j hj i hij
  · rw [parityN_xor, hodd, parityN_column j hj]

end

/-- Settles O17. -/
theorem frameCodeCorrects : Obligations.FRAME_CODE_CORRECTS := fun _ hp =>
  ⟨decodeFrame_encodeFrame hp, fun _ hi => decodeFrame_single_error hp hi, fun _ _ hij hj => decodeFrame_double_error hp hij hj⟩

end Machine
end Sys2Proof

/-!
PROOFS. O14 (R98, R100) and O56: time that passes with no command, and the machine after reset. An idle step is one value of Tether, `Tether.next`,
reached with everything else but the counters and the frame's own stores as it was.
-/
namespace Sys2Proof.Machine

/-! ## An idle step (R98, R100) -/

/-- Tether after an idle step. -/
def Tether.next (t : Tether) : Tether := if t.slow then t.edge else (t.cycle false).cycle true

theorem Dev.reach_now (d : Dev) (u : Tether) : (d.reach u).tether.now = u.now := by
  unfold Dev.reach
  split <;> rfl

theorem Dev.reach_acc (d : Dev) (u : Tether) : (d.reach u).tether.acc = u.acc := by
  unfold Dev.reach
  split <;> rfl

theorem Dev.reach_acc64 (d : Dev) (u : Tether) : (d.reach u).tether.acc64 = u.acc64 := by
  unfold Dev.reach
  split <;> rfl

theorem step_idle {s : State} (hq : s.pending = []) :
    step s = .next { s with dev := (s.dev.passed (s.dev.tether.next.now - s.dev.tether.now) 2).reach s.dev.tether.next } := by
  suffices h : step s = .next (idle s) from h
  rw [step, hq]

theorem Dev.passed_regs_of_slow {d : Dev} (hslow : d.tether.slow = true) (ns cycles : Nat) : (d.passed ns cycles).regs = d.regs := by
  rw [Dev.passed, if_pos hslow]

theorem Tether.cycle_at_rate_zero {t : Tether} (hrate : t.rate = 0) (b : Bool) :
    t.cycle b = { t with acc := (t.acc + 2 ^ 31) % 2 ^ 32, now := min (t.now + (t.acc + 2 ^ 31) / 2 ^ 32) (2 ^ 64 - 1) } := by
  have hstep : ((t.acc : Int) + 2 ^ 31 + (if b then t.rate - t.rate / 2 else t.rate / 2)).toNat = t.acc + 2 ^ 31 := by
    rw [hrate]
    cases b <;> omega
  rw [Tether.cycle, hstep]

/-- Two cycles at rate 0 add one nanosecond, and the accumulator comes back to its value: each adds half of its modulus. -/
theorem Tether.next_at_rate_zero {t : Tether} (hslow : t.slow = false) (hrate : t.rate = 0) (hacc : t.acc < 2 ^ 32) (hnow : t.now < 2 ^ 64 - 1) :
    t.next.now = t.now + 1 ∧ t.next.acc = t.acc := by
  rw [Tether.next, hslow, if_neg Bool.false_ne_true, Tether.cycle_at_rate_zero hrate false, Tether.cycle_at_rate_zero (by exact hrate) true]
  constructor <;> dsimp only <;> omega

theorem Tether.next_of_slow {t : Tether} (hslow : t.slow = true) (hacc : t.acc64 < 64) (hnow : t.now + 30518 < 2 ^ 64) :
    64 * t.next.now + t.next.acc64 = 64 * t.now + t.acc64 + 64 * 30517 + 37 := by
  simp only [Tether.next, hslow, if_true, Tether.edge]
  omega

theorem Tether.cycle_now_le {t : Tether} (hnow : t.now < 2 ^ 64) (b : Bool) : t.now ≤ (t.cycle b).now ∧ (t.cycle b).now < 2 ^ 64 := by
  simp only [Tether.cycle]
  omega

theorem Tether.next_now_le {t : Tether} (hnow : t.now < 2 ^ 64) : t.now ≤ t.next.now ∧ t.next.now < 2 ^ 64 := by
  unfold Tether.next
  split
  · simp only [Tether.edge]
    omega
  · obtain ⟨h1, hlt⟩ := Tether.cycle_now_le hnow false
    obtain ⟨h2, hlt2⟩ := Tether.cycle_now_le hlt true
    exact ⟨h1.trans h2, hlt2⟩

/-- Settles O14. -/
theorem idleStepTime : Obligations.IDLE_STEP_TIME := by
  refine ⟨fun s hq hslow hrate hacc hnow => ?_, fun s hq hslow hacc hnow => ?_, fun s hq hnow => ?_⟩
  · obtain ⟨hn, ha⟩ := Tether.next_at_rate_zero hslow hrate hacc hnow
    exact ⟨_, step_idle hq, by rw [Dev.reach_now, hn], by rw [Dev.reach_acc, ha]⟩
  · refine ⟨_, step_idle hq, ?_, ?_⟩
    · rw [Dev.reach_now, Dev.reach_acc64, Tether.next_of_slow hslow hacc hnow]
    · rw [Dev.reach_regs, Dev.passed_regs_of_slow hslow]
  · obtain ⟨hle, hlt⟩ := Tether.next_now_le hnow
    refine ⟨_, step_idle hq, ?_⟩
    rw [Dev.reach_now]
    exact ⟨hle, hlt⟩

/-! ## The machine after reset -/

theorem Die.canonical_reset : ({} : Die).Canonical := ⟨rfl, fun _ => rfl⟩

theorem HeadState.bounded_reset : ({} : HeadState).Bounded := ⟨by decide, by decide, by decide, by decide⟩

theorem Dev.sound_reset : ({} : Dev).Sound where
  regs := by decide
  keel := by decide
  keelByte := by decide
  norA := by decide
  norB := by decide
  table := by decide
  dies _ := Die.canonical_reset
  scratch := by decide
  log := by decide
  held := by decide
  headA := HeadState.bounded_reset
  headB := HeadState.bounded_reset

/-- Settles O56: every store of the device after reset is empty, which is canonical. -/
theorem resetState : Obligations.RESET_STATE := ⟨Dev.sound_reset, rfl, rfl, rfl, rfl, fun _ => rfl⟩

end Sys2Proof.Machine

/-!
PROOFS. O2 to O5 (R28, R32, R39, R45, R48, R63, R65, R70, R73): what a head's link asks of the device. A whole-line write that armed Gondola
takes leaves its line staged whole, and a read of a line that is staged whole answers with it: O5 is these two facts in a row.
-/
namespace Sys2Proof.Machine

/-! ## What a request's own counts leave alone -/

theorem Dev.staged_same {d e : Dev} (h : e.gon = d.gon) (l : Nat) : e.staged l = d.staged l := by rw [Dev.staged, Dev.staged, h]

theorem Dev.wbEnt_same {d e : Dev} (h : e.gon = d.gon) (l : Nat) : e.wbEnt l = d.wbEnt l := by rw [Dev.wbEnt, Dev.wbEnt, h]

theorem Dev.useReq_head (d : Dev) (h k : Head) :
    (d.useReq h).head k = if k = h then { d.head h with reqOut := (d.head h).reqOut - 1 } else d.head k := by simp [Dev.useReq]

theorem Dev.useRwd_head (d : Dev) (h k : Head) :
    (d.useRwd h).head k = if k = h then { d.head h with rwdOut := (d.head h).rwdOut - 1 } else d.head k := by simp [Dev.useRwd]

theorem portMode_same {d e : Dev} (F : Fuses) (h : e.pwr = d.pwr) : portMode F e = portMode F d := by rw [portMode, portMode, h]

theorem Dev.mapped_same {d e : Dev} {h : Head} (F : Fuses) (hp : e.pwr = d.pwr) (hd : (e.head h).decoders = (d.head h).decoders) (dpa : Nat) :
    e.mapped F h dpa = d.mapped F h dpa := by
  simp only [Dev.mapped, portMode_same F hp, hp, hd]

@[simp] theorem Dev.useReq_mapped (F : Fuses) (d : Dev) (h : Head) (dpa : Nat) : (d.useReq h).mapped F h dpa = d.mapped F h dpa :=
  Dev.mapped_same F (by simp) (by simp [Dev.useReq_head]) dpa

@[simp] theorem Dev.useRwd_mapped (F : Fuses) (d : Dev) (h : Head) (dpa : Nat) : (d.useRwd h).mapped F h dpa = d.mapped F h dpa :=
  Dev.mapped_same F (by simp) (by simp [Dev.useRwd_head]) dpa

theorem unmapped_out (F : Fuses) (d : Dev) (h : Head) (tag : BitVec 16) :
    ∃ n, (unmapped F d h tag).out = .unsupported h tag n :: d.out :=
  ⟨_, by rw [unmapped, Dev.emit_out, Dev.event_out]⟩

theorem respond_data_out (F : Fuses) (d : Dev) (h : Head) (tag : BitVec 16) (line t : Nat) (x : LineData) :
    ∃ n, (respond F d h tag line t (.data x)).out = .memData h tag x false n :: d.out :=
  ⟨_, by rw [respond, Dev.emit_out, Dev.latency_out]⟩

theorem respond_poison_out (F : Fuses) (d : Dev) (h : Head) (tag : BitVec 16) (line t o : Nat) :
    ∃ x n, (respond F d h tag line t (.poison o)).out.head? = some (.memData h tag x true n) := ⟨_, _, rfl⟩

/-! ## Credits and requests without a line (R32, R45) -/

section
variable {h : Head} {s : State}

theorem exec_creditGrant_rwd (hfree : rwdFree s.fuse s.dev h = true) : exec (.creditGrant h true) s =
    .next { s with dev := (s.dev.setHead h { s.dev.head h with rwdOut := (s.dev.head h).rwdOut + 1 }).emit (.credit h true) } :=
  congrArg Host.Outcome.next (if_pos hfree)

theorem exec_creditGrant_req (hfree : reqFree s.fuse s.dev h = true) : exec (.creditGrant h false) s =
    .next { s with dev := (s.dev.setHead h { s.dev.head h with reqOut := (s.dev.head h).reqOut + 1 }).emit (.credit h false) } :=
  congrArg Host.Outcome.next (if_pos hfree)

/-- Without a tracker entry for a request there is none for a write either. -/
theorem exec_creditGrant_withheld (hfree : reqFree s.fuse s.dev h = false) (rwd : Bool) : exec (.creditGrant h rwd) s = .next s := by
  have hrwd : rwdFree s.fuse s.dev h = false := by simp [rwdFree, hfree]
  cases rwd
  · exact congrArg Host.Outcome.next (if_neg (by simp [hfree]))
  · exact congrArg Host.Outcome.next (if_neg (by simp [hrwd]))

theorem exec_meminv (harr : s.dev.arrives h = true) (tag : BitVec 16) (dpa : Dpa) (nt : Bool) : exec (.meminv h tag dpa nt) s =
    .next { s with dev := if (s.dev.useReq h).mapped s.fuse h dpa.toNat then
                            (s.dev.useReq h).emit (.cmp h tag (devLoad s.fuse (s.dev.useReq h) h))
                          else unmapped s.fuse (s.dev.useReq h) h tag } :=
  congrArg Host.Outcome.next (if_neg (by simp [harr]))

/-- The request uses its credit, and the event of an unassigned opcode is recorded (R32). -/
def Dev.opcodeNoted (F : Fuses) (d : Dev) (h : Head) (op : BitVec 8) : Dev := (d.useReq h).event F 0x2008 (hIdx h + op.toNat * 2 ^ 8)

theorem exec_unsupportedM2sOpcode (harr : s.dev.arrives h = true) (tag : BitVec 16) (op : BitVec 8) :
    exec (.unsupportedM2sOpcode h tag op) s =
      .next { s with dev := (s.dev.opcodeNoted s.fuse h op).emit (.unsupported h tag (devLoad s.fuse (s.dev.opcodeNoted s.fuse h op) h)) } :=
  congrArg Host.Outcome.next (if_neg (by simp [harr]))

end

/-- Settles O2. -/
theorem hostLinkAnswers : Obligations.HOST_LINK_ANSWERS := by
  refine ⟨fun h s hfree => ⟨_, exec_creditGrant_rwd hfree, rfl⟩, fun h s hfree => ⟨_, exec_creditGrant_req hfree, rfl⟩,
    fun h rwd s hfree => exec_creditGrant_withheld hfree rwd, fun h tag dpa nt s harr hmap => ?meminv, fun h tag op s harr => ?unsupported⟩
  case meminv =>
    refine ⟨devLoad s.fuse (s.dev.useReq h) h, _, exec_meminv harr tag dpa nt, ?_⟩
    rw [Dev.useReq_mapped, hmap, if_pos rfl, Dev.emit_out, Dev.useReq_out]
    exact ⟨rfl, by simp, by simp, by simp⟩
  case unsupported =>
    exact ⟨_, _, exec_unsupportedM2sOpcode harr tag op, by rw [Dev.emit_out, Dev.opcodeNoted, Dev.event_out, Dev.useReq_out]⟩

/-! ## Reads (R28, R39, R48, R63) -/

theorem exec_memrd (h : Head) (tag : BitVec 16) (dpa : Dpa) (s : State) :
    exec (.memrd h tag dpa) s = .next { s with dev := hostRead s.fuse s.dev h tag dpa.toNat } := rfl

section
variable {F : Fuses} {d : Dev} {h : Head} {tag : BitVec 16} {dpa : Nat}

theorem hostRead_of_not_mapped (harr : d.arrives h = true) (hmap : d.mapped F h dpa = false) :
    hostRead F d h tag dpa = unmapped F (d.useReq h) h tag := by
  simp only [hostRead, harr, Dev.useReq_mapped, hmap, Bool.not_true, Bool.not_false, Bool.false_eq_true, if_false, if_true]

theorem hostRead_of_scratch {i : Nat} (harr : d.arrives h = true) (hmap : d.mapped F h dpa = true)
    (hplace : placeOf F ((d.useReq h).countH 0x040 h) h dpa = .scratch i) :
    hostRead F d h tag dpa =
      if d.cache.scrPoison.contains i then
        respond F ((d.useReq h).countH 0x040 h) h tag (dpa / 64) d.tether.now (.poison (d.cache.scrOrigin i))
      else respond F (((d.useReq h).countH 0x040 h).count 0x08A) h tag (dpa / 64) d.tether.now (.data (Tbl.look 0 d.cache.scr i)) := by
  simp only [hostRead, harr, Dev.useReq_mapped, hmap, hplace, Bool.not_true, Bool.false_eq_true, if_false, Dev.countH_cache, Dev.useReq_cache,
    Dev.countH_tether, Dev.useReq_tether]

theorem hostRead_of_persist (harr : d.arrives h = true) (hmap : d.mapped F h dpa = true)
    (hplace : placeOf F ((d.useReq h).countH 0x040 h) h dpa = .persist) :
    hostRead F d h tag dpa = readPersist F ((d.useReq h).countH 0x040 h) h tag dpa := by
  simp [hostRead, harr, hmap, hplace]

/-- A line that is staged whole is answered from Gondola (R63). -/
theorem readPersist_of_staged {g : GEntry} (hg : d.staged (dpa / 64) = some g) (hp : g.poison = false) (hm : g.mask = fullMask) :
    ∃ n, (readPersist F d h tag dpa).out = .memData h tag g.data false n :: d.out := by
  obtain ⟨n, hn⟩ := respond_data_out F (d.count 0x080) h tag (dpa / 64) d.tether.now g.data
  refine ⟨n, ?_⟩
  simpa [readPersist, hg, readEntry, hp, hm] using hn

end

theorem memrd_of_staged {h : Head} {tag : BitVec 16} {dpa : Dpa} {s : State} {g : GEntry} (harr : s.dev.arrives h = true)
    (hmap : s.dev.mapped s.fuse h dpa.toNat = true) (hplace : placeOf s.fuse ((s.dev.useReq h).countH 0x040 h) h dpa.toNat = .persist)
    (hg : s.dev.staged (dpa.toNat / 64) = some g) (hp : g.poison = false) (hm : g.mask = fullMask) :
    ∃ n e, exec (.memrd h tag dpa) s = .next { s with dev := e } ∧ e.out = .memData h tag g.data false n :: s.dev.out := by
  have hg' : ((s.dev.useReq h).countH 0x040 h).staged (dpa.toNat / 64) = some g := (Dev.staged_same (by simp) _).trans hg
  obtain ⟨n, hn⟩ := readPersist_of_staged (F := s.fuse) (h := h) (tag := tag) hg' hp hm
  exact ⟨n, _, exec_memrd h tag dpa s, by rw [hostRead_of_persist harr hmap hplace, hn]; simp⟩

/-- Settles O3. -/
theorem hostReadReturns : Obligations.HOST_READ_RETURNS := by
  refine ⟨?scratch, ?poisoned, ?staged, ?unmapped⟩
  case scratch =>
    intro h tag dpa s i harr hmap hplace hi
    obtain ⟨n, hn⟩ := respond_data_out s.fuse (((s.dev.useReq h).countH 0x040 h).count 0x08A) h tag (dpa.toNat / 64) s.dev.tether.now
      (Tbl.look 0 s.dev.cache.scr i)
    refine ⟨n, _, exec_memrd h tag dpa s, ?_⟩
    rw [hostRead_of_scratch harr hmap hplace, if_neg (by simpa using hi), hn]
    simp
  case poisoned =>
    intro h tag dpa s i harr hmap hplace hi
    obtain ⟨x, n, hn⟩ := respond_poison_out s.fuse ((s.dev.useReq h).countH 0x040 h) h tag (dpa.toNat / 64) s.dev.tether.now
      (s.dev.cache.scrOrigin i)
    exact ⟨x, n, _, exec_memrd h tag dpa s, by rw [hostRead_of_scratch harr hmap hplace, if_pos (by simpa using hi), hn]⟩
  case staged =>
    intro h tag dpa s g harr hmap hplace hg hp hm
    exact memrd_of_staged harr hmap hplace hg hp hm
  case unmapped =>
    intro h tag dpa s harr hmap
    obtain ⟨n, hn⟩ := unmapped_out s.fuse (s.dev.useReq h) h tag
    exact ⟨n, _, exec_memrd h tag dpa s, by rw [hostRead_of_not_mapped harr hmap, hn, Dev.useReq_out]⟩

/-! ## Writes (R28, R39, R70, R73) -/

theorem exec_memwr (h : Head) (tag : BitVec 16) (dpa : Dpa) (data : LineData) (poison : Bool) (s : State) :
    exec (.memwr h tag dpa data poison) s = .next { s with dev := hostWrite s.fuse s.dev h tag dpa.toNat data fullMask poison } := rfl

theorem exec_memwrptl (h : Head) (tag : BitVec 16) (dpa : Dpa) (data : LineData) (be : BitVec 64) (poison : Bool) (s : State) :
    exec (.memwrptl h tag dpa data be poison) s = .next { s with dev := hostWrite s.fuse s.dev h tag dpa.toNat data be poison } := rfl

theorem maskBits_fullMask : maskBits fullMask = BitVec.allOnes 512 := by decide +kernel

/-- An entry that holds a whole line of good data. -/
def GEntry.Whole (g : GEntry) (data : LineData) : Prop := g.poison = false ∧ g.mask = fullMask ∧ g.data = data

/-- A whole-line write without poison. -/
def WReq.whole (w : WReq) : Prop := w.poison = false ∧ w.mask = fullMask

theorem Dev.newEntry_whole (d : Dev) {w : WReq} (hw : w.whole) : (d.newEntry w).Whole w.data := by
  obtain ⟨hp, hm⟩ := hw
  exact ⟨hp, by simp [Dev.newEntry, hp, hm], by rw [Dev.newEntry, hm, maskBits_fullMask, BitVec.and_allOnes]⟩

theorem entryFrom_of_whole {w : WReq} (hw : w.whole) (start : Option GEntry) (fresh : GEntry) : entryFrom start fresh w = fresh := by
  cases start <;> simp [entryFrom, hw.2]

theorem lossyFrom_of_whole {w : WReq} (hw : w.whole) (start : Option GEntry) : lossyFrom start w = false := by
  cases start <;> simp [lossyFrom, hw.2]

theorem GEntry.mergeWrite_of_whole {w : WReq} (hw : w.whole) (e : GEntry) :
    ∃ g, e.mergeWrite w = some g ∧ g.Whole w.data ∧ g.state = e.state :=
  ⟨_, (if_neg (by simp [hw.1])).trans (if_pos hw.2), ⟨rfl, rfl, rfl⟩, rfl⟩

/-- One host's completion follows the entry into armed Gondola at once (R73). -/
theorem ackAll_host (F : Fuses) (d : Dev) (h : Head) (tag : BitVec 16) (t l : Nat) :
    (ackAll F d [.host h tag t]).staged l = d.staged l ∧ ∃ n, (ackAll F d [.host h tag t]).out = .cmp h tag n :: d.out :=
  ⟨Dev.staged_same (by simp) l, _, by simp [ackAll, ackDone]; rfl⟩

/-- A whole entry that takes its place in armed Gondola beside no held one: staged, and completed at once. -/
theorem ackAll_setStaged_whole {g : GEntry} {data : LineData} (hg : g.Whole data) (F : Fuses) (d : Dev) (l : Nat) (h : Head) (tag : BitVec 16) (t : Nat) :
    ∃ g' n, (ackAll F (d.setStaged l (some g)) [.host h tag t]).staged l = some g' ∧ g'.Whole data ∧
      (ackAll F (d.setStaged l (some g)) [.host h tag t]).out = .cmp h tag n :: d.out := by
  obtain ⟨hstaged, n, hout⟩ := ackAll_host F (d.setStaged l (some g)) h tag t l
  exact ⟨g, n, by simp [hstaged], hg, by simp [hout]⟩

/-- Gondola's next entry number is used. -/
def Dev.nextSeq (d : Dev) : Dev := { d with gon := { d.gon with seq := d.gon.seq + 1 } }

theorem Dev.nextSeq_staged (d : Dev) (l : Nat) : d.nextSeq.staged l = d.staged l := rfl

theorem Dev.nextSeq_out (d : Dev) : d.nextSeq.out = d.out := rfl

section
variable {F : Fuses} {d : Dev} {w : WReq} {pre : Option GEntry} {e e1 : GEntry}

/-- A write that merges with its line's staged entry (R70). -/
theorem stageWrite_of_staged (hst : d.staged w.line = some e) (hm : e.mergeWrite w = some e1) :
    stageWrite F w pre d = keepStaged F d.nextSeq w.line e1 w.ack.toList (w.wt || !d.gon.armed) := by
  have hseq : d.nextSeq.staged w.line = some e := hst
  rw [Dev.nextSeq] at hseq
  simp only [stageWrite, hseq, hm, Dev.nextSeq]

/-- A whole-line write of a line with no staged entry, where no write-back is due at once (R70, R73). -/
theorem stageWrite_of_new (hst : d.staged w.line = none) (hw : w.whole) (hdirect : (w.wt || !d.gon.armed) = false) :
    stageWrite F w pre d = ackAll F (d.nextSeq.setStaged w.line (some (d.nextSeq.newEntry w))) w.ack.toList := by
  have hseq : d.nextSeq.staged w.line = none := hst
  rw [Dev.nextSeq] at hseq
  simp only [stageWrite, hseq, lossyFrom_of_whole hw, entryFrom_of_whole hw, hdirect, Bool.not_false, if_true, Bool.false_eq_true, if_false, Dev.nextSeq]

end

/-- A whole-line write into armed Gondola: staged with its data, and completed at once (R70, R73). -/
theorem stageWrite_of_whole {F : Fuses} {d : Dev} {w : WReq} {h : Head} {tag : BitVec 16} {t : Nat} (hw : w.whole) (hwt : w.wt = false)
    (harmed : d.gon.armed = true) (hack : w.ack = some (.host h tag t)) (hstate : ∀ g ∈ d.staged w.line, g.state = .staged) (pre : Option GEntry) :
    ∃ g n, (stageWrite F w pre d).staged w.line = some g ∧ g.Whole w.data ∧ (stageWrite F w pre d).out = .cmp h tag n :: d.out := by
  have hdirect : (w.wt || !d.gon.armed) = false := by simp [hwt, harmed]
  cases hst : d.staged w.line with
  | some e =>
    obtain ⟨g, hmerge, hg, hgs⟩ := e.mergeWrite_of_whole hw
    have hnot : g.state ≠ .held := by simp [hgs, hstate e hst]
    rw [stageWrite_of_staged hst hmerge, hdirect, hack, keepStaged, if_neg hnot, if_pos Bool.not_false, Option.toList_some, ← d.nextSeq_out]
    have hcov : ({ g with covered := g.covered || !List.isEmpty [Ack.host h tag t] } : GEntry).Whole w.data := hg
    exact ackAll_setStaged_whole hcov F d.nextSeq w.line h tag t
  | none =>
    rw [stageWrite_of_new hst hw hdirect, hack, Option.toList_some, ← d.nextSeq_out]
    exact ackAll_setStaged_whole (d.nextSeq.newEntry_whole hw) F d.nextSeq w.line h tag t

theorem Dev.preLaunchMove_of_none {d : Dev} {l : Nat} (h : ∀ g ∈ d.staged l, g.preLaunch = none) : d.preLaunchMove l = (none, d) := by
  cases hst : d.staged l with
  | none => simp only [Dev.preLaunchMove, hst]
  | some e => simp only [Dev.preLaunchMove, hst, h e hst]

/-- The whole-line write of a host that Gondola takes at once: R70 and R73 ask this of its line and its window. -/
structure Dev.TakesWrite (F : Fuses) (d : Dev) (h : Head) (dpa : Nat) : Prop where
  writable : d.readOnly (windowAt F d h dpa) dpa = false
  staging : ∀ w ∈ windowAt F d h dpa, w.wt = false
  unsealed : d.tracts.sealed = false
  armed : d.gon.armed = true
  free : ∀ g ∈ d.staged (dpa / 64), g.state = .staged ∧ g.preLaunch = none

/-- The ordering point lets a whole-line write through to its line's staged entry (R66, R70, R73). -/
theorem acceptWrite_of_whole {F : Fuses} {d : Dev} {w : WReq} {h : Head} {tag : BitVec 16} {t : Nat} (hw : w.whole) (hwt : w.wt = false)
    (harmed : d.gon.armed = true) (hack : w.ack = some (.host h tag t))
    (hfree : ∀ g ∈ d.staged w.line, g.state = .staged ∧ g.preLaunch = none) :
    ∃ g n, (acceptWrite F d w).staged w.line = some g ∧ g.Whole w.data ∧ (acceptWrite F d w).out = .cmp h tag n :: d.out := by
  have hst : (d.passOrder w.line w.reenc).staged w.line = d.staged w.line := Dev.staged_same (by simp) _
  have hmove := Dev.preLaunchMove_of_none (d := d.passOrder w.line w.reenc) (l := w.line) (by rw [hst]; exact fun g hg => (hfree g hg).2)
  have hstage := stageWrite_of_whole (F := F) (d := d.passOrder w.line w.reenc) hw hwt (by simpa using harmed) hack
    (by rw [hst]; exact fun g hg => (hfree g hg).1) none
  simpa only [acceptWrite, hmove, Dev.passOrder_out] using hstage

theorem writePersist_of_whole {F : Fuses} {d : Dev} {h : Head} {dpa : Nat} (c : d.TakesWrite F h dpa) (tag : BitVec 16) (data : LineData) :
    ∃ g n, (writePersist F d h tag dpa data fullMask false).staged (dpa / 64) = some g ∧ g.Whole data ∧
      (writePersist F d h tag dpa data fullMask false).out = .cmp h tag n :: d.out := by
  have hwt : (match windowAt F d h dpa with
      | some x => x.wt
      | none => false) = false := by
    cases hw : windowAt F d h dpa with
    | none => rfl
    | some x => exact c.staging x hw
  have hfree : ∀ g ∈ (d.trackIn h).staged (dpa / 64), g.state = .staged ∧ g.preLaunch = none := by
    rw [Dev.staged_same (d.trackIn_gon h)]
    exact c.free
  unfold writePersist
  simp only [c.writable, c.unsealed, Bool.false_eq_true, if_false]
  obtain ⟨g, n, hst, hg, hout⟩ := acceptWrite_of_whole (F := F) (d := d.trackIn h) (h := h) (tag := tag) (t := d.tether.now) (w :=
    { line := dpa / 64, data := data, mask := fullMask, poison := false, key := (d.keyBase (windowAt F d h dpa) dpa).1,
      base := (d.keyBase (windowAt F d h dpa) dpa).2, wt := _, owner := .host h, ack := some (.host h tag d.tether.now) })
    ⟨rfl, rfl⟩ hwt (by simpa using c.armed) rfl hfree
  exact ⟨g, n, hst, hg, hout.trans (by rw [Dev.trackIn_out])⟩

section
variable {F : Fuses} {d : Dev} {h : Head} {tag : BitVec 16} {dpa : Nat} {data : LineData} {be : BitVec 64} {poison : Bool}

theorem hostWrite_of_not_mapped (harr : d.arrivesW h = true) (hmap : d.mapped F h dpa = false) :
    hostWrite F d h tag dpa data be poison = unmapped F (d.useRwd h) h tag := by
  simp [hostWrite, harr, hmap]

theorem hostWrite_of_persist (harr : d.arrivesW h = true) (hmap : d.mapped F h dpa = true)
    (hplace : placeOf F ((d.useRwd h).countH 0x041 h) h dpa = .persist) :
    hostWrite F d h tag dpa data be poison = writePersist F ((d.useRwd h).countH 0x041 h) h tag dpa data be poison := by
  simp [hostWrite, harr, hmap, hplace]

theorem hostWrite_of_scratch {i : Nat} (harr : d.arrivesW h = true) (hmap : d.mapped F h dpa = true)
    (hplace : placeOf F ((d.useRwd h).countH 0x041 h) h dpa = .scratch i) :
    hostWrite F d h tag dpa data be poison =
      scratchWrite F (((d.useRwd h).countH 0x041 h).count 0x08B) h tag (dpa / 64) i data be poison := by
  simp [hostWrite, harr, hmap, hplace]

theorem overlay_fullMask (old new : LineData) : overlay old new fullMask = new := by
  rw [overlay, maskBits_fullMask, BitVec.and_allOnes, BitVec.not_allOnes, BitVec.and_zero, BitVec.or_zero]

/-- A write to a scratch line that is not poisoned: its bytes, no other line's, and its completion (R28, R65). -/
theorem scratchWrite_of_good {line i : Nat} (hi : i ∉ d.cache.scrPoison) :
    ∃ n, Tbl.look 0 (scratchWrite F d h tag line i data be false).cache.scr i = overlay (Tbl.look 0 d.cache.scr i) data be ∧
      (∀ j, j ≠ i → Tbl.look 0 (scratchWrite F d h tag line i data be false).cache.scr j = Tbl.look 0 d.cache.scr j) ∧
      (scratchWrite F d h tag line i data be false).out = .cmp h tag n :: d.out := by
  by_cases hbe : be = fullMask
  · refine ⟨_, ?_, fun j hj => ?_, by rw [scratchWrite, if_neg Bool.false_ne_true, if_pos hbe, Dev.emit_out, Dev.setCache_out]⟩
    · simp [scratchWrite, hbe, overlay_fullMask]
    · simp [scratchWrite, hbe, Tbl.look_put_other, hj]
  · refine ⟨_, ?_, fun j hj => ?_, by rw [scratchWrite, if_neg Bool.false_ne_true, if_neg hbe, if_neg (by simpa using hi), Dev.emit_out, Dev.setCache_out]⟩
    · simp [scratchWrite, hbe, hi, Tbl.look_upd]
    · simp [scratchWrite, hbe, hi, Tbl.look_upd, hj]

end

/-- What R70 and R73 ask, of the device in which a host's write arrives. -/
theorem Dev.takesWrite_arriving {F : Fuses} {d : Dev} {h : Head} {dpa : Nat}
    (hro : ((d.useRwd h).countH 0x041 h).readOnly (windowAt F ((d.useRwd h).countH 0x041 h) h dpa) dpa = false)
    (hwt : ∀ w ∈ windowAt F ((d.useRwd h).countH 0x041 h) h dpa, w.wt = false) (hsealed : d.tracts.sealed = false) (harmed : d.gon.armed = true)
    (hfree : ∀ g ∈ d.staged (dpa / 64), g.state = .staged ∧ g.preLaunch = none) : ((d.useRwd h).countH 0x041 h).TakesWrite F h dpa where
  writable := hro
  staging := hwt
  unsealed := by simpa using hsealed
  armed := by simpa using harmed
  free := by
    rw [Dev.staged_same (d := d) (by simp)]
    exact hfree

/-- A whole-line write that arrives and that armed Gondola takes (R70, R73). -/
theorem hostWrite_of_whole {F : Fuses} {d : Dev} {h : Head} {dpa : Nat} (harr : d.arrivesW h = true) (hmap : d.mapped F h dpa = true)
    (hplace : placeOf F ((d.useRwd h).countH 0x041 h) h dpa = .persist) (c : ((d.useRwd h).countH 0x041 h).TakesWrite F h dpa)
    (tag : BitVec 16) (data : LineData) :
    ∃ g n, (hostWrite F d h tag dpa data fullMask false).staged (dpa / 64) = some g ∧ g.Whole data ∧
      (hostWrite F d h tag dpa data fullMask false).out = .cmp h tag n :: d.out := by
  obtain ⟨g, n, hst, hg, hout⟩ := writePersist_of_whole c tag data
  rw [hostWrite_of_persist harr hmap hplace]
  exact ⟨g, n, hst, hg, hout.trans (by simp)⟩

/-- Settles O4. -/
theorem hostWriteTakesEffect : Obligations.HOST_WRITE_TAKES_EFFECT := by
  refine ⟨?staged, ?scratch, ?unmapped⟩
  case staged =>
    intro h tag dpa data s harr hmap d hplace hro hwt hsealed harmed hfree
    obtain ⟨g, n, hst, ⟨hp, hm, hdata⟩, hout⟩ :=
      hostWrite_of_whole harr hmap hplace (Dev.takesWrite_arriving hro hwt hsealed harmed hfree) tag data
    exact ⟨g, n, _, exec_memwr h tag dpa data false s, hst, hp, hm, hdata, by rw [hout]; rfl⟩
  case scratch =>
    intro h tag dpa data be s i harr hmap hplace hi
    obtain ⟨n, hsame, hother, hout⟩ := scratchWrite_of_good (F := s.fuse) (d := ((s.dev.useRwd h).countH 0x041 h).count 0x08B) (h := h) (tag := tag)
      (data := data) (be := be) (line := dpa.toNat / 64) (i := i) (by simpa using hi)
    refine ⟨n, _, exec_memwrptl h tag dpa data be false s, ?_⟩
    simp only [Dev.count_cache, Dev.countH_cache, Dev.useRwd_cache, Dev.count_out, Dev.countH_out, Dev.useRwd_out] at hsame hother hout
    rw [hostWrite_of_scratch harr hmap hplace]
    exact ⟨hsame, hother, hout⟩
  case unmapped =>
    intro h tag dpa data be poison s harr hmap
    obtain ⟨n, hn⟩ := unmapped_out s.fuse (s.dev.useRwd h) h tag
    refine ⟨n, _, exec_memwrptl h tag dpa data be poison s, ?_⟩
    rw [hostWrite_of_not_mapped harr hmap]
    exact ⟨by simpa using hn, by simp [unmapped], by simp [unmapped]⟩


/-- Settles O5: the write leaves its line staged whole, and the read of a line that is staged whole answers with it. -/
theorem readReturnsLastWrite : Obligations.READ_RETURNS_LAST_WRITE := by
  intro h tag tag' dpa data s t hwrite harr hmap d hplace hro hwt hsealed harmed hfree harr' hmap' hplace'
  obtain ⟨g, -, hst, ⟨hp, hm, hdata⟩, -⟩ :=
    hostWrite_of_whole harr hmap hplace (Dev.takesWrite_arriving hro hwt hsealed harmed hfree) tag data
  have ht : { s with dev := hostWrite s.fuse s.dev h tag dpa.toNat data fullMask false } = t :=
    Host.Outcome.next.inj ((exec_memwr h tag dpa data false s).symm.trans hwrite)
  rw [← ht] at harr' hmap' hplace' ⊢
  obtain ⟨n, e, hread, hout⟩ := memrd_of_staged (tag := tag') harr' hmap' hplace' hst hp hm
  exact ⟨n, _, hread, by rw [hout, hdata]⟩

end Sys2Proof.Machine

/-!
PROOFS. O6 and O7 (R32, R71, R81, R171 to R174): fetches. `Dev.Awaits` says that a waiter waits on a fetch that will fill the cache; what follows
a fetch in the same step keeps it. The end of a fetch answers its waiters one after another, and none of what follows takes a response back.
-/
namespace Sys2Proof.Machine

/-! ## A waiter of a filling fetch -/

/-- A waiter waits on a fetch of the line that fills the cache (R81). -/
def Dev.Awaits (d : Dev) (line : Nat) (w : Waiter) : Prop := ∃ f ∈ d.cache.fetches, f.line = line ∧ f.fill = true ∧ w ∈ f.waiters

theorem Dev.Awaits.same {d e : Dev} {line : Nat} {w : Waiter} (ha : d.Awaits line w) (h : e.cache.fetches = d.cache.fetches) : e.Awaits line w := by
  rwa [Dev.Awaits, h]

theorem Dev.touchWay_fetches (d : Dev) (set w : Nat) : (d.touchWay set w).cache.fetches = d.cache.fetches := by
  simp only [Dev.touchWay]
  split
  · exact List.foldlRecOn _ _ (motive := fun e : Dev => e.cache.fetches = d.cache.fetches) rfl fun e he v _ => by
      split
      · exact he
      · exact he
  · rfl

theorem Dev.install_fetches (d : Dev) (line : Nat) (x : LineData) : (d.install line x).cache.fetches = d.cache.fetches := by
  simp only [Dev.install]
  split
  · rfl
  · split
    · exact Dev.touchWay_fetches ..
    · rfl

theorem Dev.setCmp_fetches (d : Dev) (n : Nat) (x : CmpEntry) : (d.setCmp n x).cache.fetches = d.cache.fetches := rfl

/-- A fetch joins or is added: it changes no other, and takes no waiter away (R81). -/
theorem Dev.Awaits.fetchFor {d : Dev} {line : Nat} {w : Waiter} (ha : d.Awaits line w) (l key base : Nat) (ws : List Waiter) (fill : Bool) :
    (d.fetchFor l key base ws fill).Awaits line w := by
  obtain ⟨f, hf, hline, hfill, hw⟩ := ha
  simp only [Dev.fetchFor]
  split
  · refine ⟨_, List.mem_map_of_mem hf, ?_⟩
    split
    · exact ⟨hline, by simp [hfill], by simp [hw]⟩
    · exact ⟨hline, hfill, hw⟩
  · exact ⟨f, by simp [hf], hline, hfill, hw⟩

/-- The waiters of a fetch that is asked to fill wait on one that fills (R81). -/
theorem Dev.fetchFor_awaits (d : Dev) (line key base : Nat) {ws : List Waiter} {w : Waiter} (hw : w ∈ ws) :
    (d.fetchFor line key base ws true).Awaits line w := by
  simp only [Dev.fetchFor]
  split
  next hjoin =>
    obtain ⟨f, hf, hj⟩ := List.any_eq_true.mp hjoin
    refine ⟨_, List.mem_map_of_mem hf, ?_⟩
    rw [if_pos hj]
    exact ⟨by simp at hj; exact hj.1.1, by simp, by simp [hw]⟩
  next => exact ⟨_, List.mem_append_right _ (List.mem_singleton_self _), rfl, rfl, hw⟩

/-- A page of the compatibility buffer is filled by fetches of its own (R87). -/
theorem Dev.Awaits.fillEntry {d : Dev} {line : Nat} {w : Waiter} (ha : d.Awaits line w) (F : Fuses) (n : Nat) : (d.fillEntry F n).Awaits line w := by
  refine List.foldlRecOn _ _ (motive := fun e : Dev => e.Awaits line w) ha fun e he i _ => ?_
  have hfetch := he.fetchFor
  dsimp only
  split
  · exact he.same (Dev.setCmp_fetches ..)
  · split
    · exact he.same ((Dev.setCmp_fetches ..).trans (Dev.install_fetches ..))
    · exact he.same (Dev.setCmp_fetches ..)
    · split
      · exact he
      · exact (hfetch ..).same (Dev.setCmp_fetches ..)

theorem Dev.Awaits.pageFill {d : Dev} {line : Nat} {w : Waiter} (ha : d.Awaits line w) (F : Fuses) (h : Head) (l : Nat) :
    (d.pageFill F h l).Awaits line w := by
  simp only [Dev.pageFill]
  split
  · exact ha
  · exact (ha.same (Dev.setCmp_fetches ..)).fillEntry F _

theorem exec_memspecrd (h : Head) (dpa : Dpa) (s : State) : exec (.memspecrd h dpa) s = .next { s with dev := specRead s.fuse s.dev h dpa.toNat } := rfl

/-! ## What ends a fetch (R171 to R174) -/

section
variable {F : Fuses} {d : Dev} {line unk : Nat} {v : Verdict} {f : Fetch} {m : MediaLine}

theorem mediaReturn_of_direct (hf : d.cache.fetches.find? (fun f => f.line == line && !f.fallback && !f.retry) = some f)
    (hb : (if f.stale then d.belowMedia line else d.below line) = .fetch)
    (hc : d.driftClass (d.ent (line / 16384)).group (d.ent (line / 16384)).index ≠ 15) (hv : fastOk v = true)
    (hm : d.readLoc (d.lineLoc line) (if f.around then .bad else v) unk = .direct m) :
    mediaReturn F d line v unk = openFetch F (d.quadCount (d.lineLoc line) 0) f 2 m := by
  simp [mediaReturn, hf, hb, hc, hv, hm]

theorem retryRead_of_direct (hf : d.cache.fetches.find? (fun f => f.line == line && f.retry) = some f) (hv : fastOk v = true)
    (hm : d.readLoc (d.lineLoc line) (if f.code ∨ f.around then .bad else v) unk = .direct m) :
    retryRead F d line v unk = openFetch F (d.transient (d.lineLoc line)) f 2 m := by
  simp [retryRead, hf, hv, hm]

end

theorem heavyOk_good_iff {d : Dev} {m pa : Nat} {n : Fin 11} :
    heavyOk (.good n) (d.erasures m pa) = true ↔ n.val ≤ d.erasures m pa + (10 - d.erasures m pa) / 2 := by
  have hle : d.erasures m pa ≤ 10 := Nat.min_le_left ..
  simp [heavyOk, hle]

theorem Dev.stored_same {d e : Dev} (hrows : e.media.rows = d.media.rows) (hdie : ∀ m, e.die m = d.die m) (hfresh : e.fresh = d.fresh) (l : Loc) (p : Nat) :
    e.stored l p = d.stored l p := by
  simp only [Dev.stored, Dev.rowLine, hrows, hdie, hfresh]

/-- What the heavy decoder counts and matches leaves the stored lines alone. -/
theorem Dev.stored_heavy (d : Dev) (f : Fetch) (g : Fetch → Fetch) (q k : Loc) (ev reg line m pa p : Nat) (bytes : List Nat) :
    (((((d.mapFetch f g).quadCount q ev).bump reg).resurveyAdd line).weakMatch m pa bytes).stored k p = d.stored k p := by
  refine Dev.stored_same ?_ (fun m => ?_) ?_ k p
  · simp [Dev.weakMatch, Dev.setCtl, Dev.quadCount, Dev.mapFetch]
  · simp [Dev.weakMatch, Dev.quadCount, Dev.mapFetch]
  · simp [Dev.weakMatch, Dev.quadCount, Dev.mapFetch]

/-- The heavy decoder corrects a home line in service (R171). -/
theorem heavyDone_of_good {F : Fuses} {d : Dev} {line : Nat} {n : Fin 11} {bytes : List Nat} {f : Fetch}
    (hf : d.cache.fetches.find? (fun f => f.line == line && f.fallback) = some f)
    (ho : d.posOut (d.lineLoc line).g (d.dataPos (d.lineLoc line) (d.lineLoc line).idx) = false)
    (hn : heavyOk (.good n) (d.erasures (dieOf (d.lineLoc line).g (d.dataPos (d.lineLoc line) (d.lineLoc line).idx)) (d.lineLoc line).pa) = true) :
    heavyDone F d line (.good n) bytes =
      openFetch F (postAt F (((((d.mapFetch f fun _ => { f with fallback := false }).quadCount (d.lineLoc line) 8).bump MCH_DEC_HEAVY_CNT).resurveyAdd
        line).weakMatch (dieOf (d.lineLoc line).g (d.dataPos (d.lineLoc line) (d.lineLoc line).idx)) (d.lineLoc line).pa bytes) .info .erasures (line * 64))
        { f with fallback := false } 2 (d.stored (d.lineLoc line) (d.dataPos (d.lineLoc line) (d.lineLoc line).idx)) := by
  simp only [heavyDone, hf, hn, ho, Bool.not_true, Bool.false_eq_true, if_false, Dev.stored_heavy]

theorem heavyDone_of_beyond {F : Fuses} {d : Dev} {line : Nat} {v : Verdict} {bytes : List Nat} {f : Fetch}
    (hf : d.cache.fetches.find? (fun f => f.line == line && f.fallback) = some f)
    (hn : heavyOk v (d.erasures (dieOf (d.lineLoc line).g (d.dataPos (d.lineLoc line) (d.lineLoc line).idx)) (d.lineLoc line).pa) = false) :
    heavyDone F d line v bytes = d := by
  simp only [heavyDone, hf, hn, Bool.not_false, if_true]

/-- A speculative read whose line comes from media: its fetch fills the cache (R32, R81). -/
theorem specRead_awaits {F : Fuses} {d e : Dev} {h : Head} {dpa : Nat} (harr : d.arrives h = true) (he : e = (d.useReq h).countH 0x042 h)
    (hmap : e.mapped F h dpa = true) (hplace : placeOf F e h dpa = .persist) (hsvc : e.pwr.svc = .full) (hdro : e.drogue = false)
    (hdeg : e.degraded (dpa / 64) = false) (hspec : e.rbit LIN_CACHE_CFG 2 = true) (hst : e.staged (dpa / 64) = none)
    (hwb : e.wbSeen (dpa / 64) = none) (hcl : e.cleanLine (dpa / 64) = none) (hb : e.below (dpa / 64) = .fetch) :
    (specRead F d h dpa).Awaits (dpa / 64) (.spec h) := by
  subst he
  simp only [specRead, harr, hmap, hplace, hsvc, hdro, hdeg, hspec, hst, hwb, hcl, hb, Bool.not_true, Bool.false_eq_true, ne_eq,
    not_true_eq_false, or_self, Option.isSome_none, if_false]
  exact (Dev.fetchFor_awaits _ _ _ _ (List.mem_singleton_self _)).pageFill F h _

/-- Settles O6. -/
theorem lineFetchProgress : Obligations.LINE_FETCH_PROGRESS := by
  refine ⟨?spec, ?returned, ?heavy, ?beyond, ?retry⟩
  case spec =>
    intro h dpa s harr d hmap hplace hsvc hdro hdeg hspec hst hwb hcl hb
    obtain ⟨e, hexec, htouch⟩ := execMemspecrd_frame h dpa s
    obtain rfl : specRead s.fuse s.dev h dpa.toNat = e := congrArg State.dev (Host.Outcome.next.inj hexec)
    exact ⟨_, hexec, htouch.same .out (by decide), specRead_awaits harr rfl hmap hplace hsvc hdro hdeg hspec hst hwb hcl hb⟩
  case returned =>
    intro dpa v unk s f m hf hb hc hv hm
    exact congrArg (fun e => Host.Outcome.next { s with dev := e }) (mediaReturn_of_direct hf hb hc hv hm)
  case heavy =>
    rintro dpa n bytes s f l home er d hf rfl rfl ho rfl hn rfl
    exact congrArg (fun e => Host.Outcome.next { s with dev := e }) (heavyDone_of_good hf ho (heavyOk_good_iff.mpr hn))
  case beyond =>
    rintro dpa n bytes s f l home er hf rfl rfl - rfl hn
    exact congrArg (fun e => Host.Outcome.next { s with dev := e }) (heavyDone_of_beyond hf (by simpa using mt heavyOk_good_iff.mp (Nat.not_le.mpr hn)))
  case retry =>
    intro dpa v unk s f m hf hv hm
    exact congrArg (fun e => Host.Outcome.next { s with dev := e }) (retryRead_of_direct hf hv hm)

/-! ## Outputs are not taken back -/

/-- What the first device has put out, the second has too (log entry 5). -/
def Dev.OutGrows (d e : Dev) : Prop := d.out ⊆ e.out

namespace Dev.OutGrows

theorem refl (d : Dev) : d.OutGrows d := List.Subset.refl _

theorem comp {d e f : Dev} (g : e.OutGrows f) (h : d.OutGrows e) : d.OutGrows f := List.Subset.trans h g

theorem of {l : List Part} {d e : Dev} (h : Touches l d e) (hl : Part.out ∉ l) : d.OutGrows e := by
  have hout : e.out = d.out := h.same .out hl
  rw [Dev.OutGrows, hout]
  exact List.Subset.refl _

theorem ite {d e f : Dev} {c : Prop} [Decidable c] (h : d.OutGrows e) (g : d.OutGrows f) : d.OutGrows (if c then e else f) := by
  split <;> assumption

theorem foldl {α : Type} {d e : Dev} {f : Dev → α → Dev} {l : List α} (hf : ∀ a x, Dev.OutGrows a (f a x)) (h : d.OutGrows e) :
    d.OutGrows (l.foldl f e) := List.foldlRecOn l f h fun a g x _ => (hf a x).comp g

theorem emit (d : Dev) (o : Out) : d.OutGrows (d.emit o) := List.subset_cons_self ..

theorem msixSend (d : Dev) (h : Head) (vec : Nat) : d.OutGrows (d.msixSend h vec) := ite (emit ..) (of (Dev.setRbit_touches ..) (by decide))

theorem post (d : Dev) (h : Head) (n : LogName) (k : EvKind) (arg : Nat) : d.OutGrows (d.post h n k arg) :=
  ite ((msixSend ..).comp (of (Dev.setHead_touches ..) (by decide))) (of (Dev.setHead_touches ..) (by decide))

theorem postAll (F : Fuses) (d : Dev) (n : LogName) (k : EvKind) (arg : Nat) : d.OutGrows (d.postAll F n k arg) :=
  foldl (fun a h => post a h n k arg) (refl d)

theorem postAt (F : Fuses) (d : Dev) (n : LogName) (k : EvKind) (dpa : Nat) : d.OutGrows (postAt F d n k dpa) :=
  foldl (fun a h => post a h n k dpa) (refl d)

theorem exhaust (F : Fuses) (d : Dev) (page : Nat) : d.OutGrows (d.exhaust F page) :=
  ite (refl d) ((postAll ..).comp ((of (Dev.event_touches ..) (by decide)).comp (of (Touches.put_sec ..) (by decide))))

theorem startReenc (F : Fuses) (d : Dev) (k base line : Nat) (old : CtrLine) (minor : Nat) : d.OutGrows (d.startReenc F k base line old minor) := by
  have hput : ∀ (x : Sec) (c : CtrLine), d.OutGrows (Dev.ctrPut { d with sec := x } (line / 64) k base c) := fun x _ =>
    (of (Dev.ctrPut_touches ..) (by decide)).comp (of (Touches.put_sec d x) (by decide))
  exact ite ((exhaust ..).comp (hput ..)) (hput ..)

theorem tagFail (d : Dev) : d.OutGrows d.tagFail.2 := of (Dev.tagFail_touches rfl) (by decide)

theorem openCounter (F : Fuses) (d : Dev) (k base line : Nat) (m : MediaLine) : d.OutGrows (d.openCounter F k base line m).2 := by
  have hok : ∀ {e : Dev}, d.OutGrows e → d.OutGrows (e.count 0x200) := (of (Dev.count_touches ..) (by decide)).comp
  unfold Dev.openCounter
  dsimp only
  split
  next hget => exact (exhaust ..).comp (of (Dev.ctrGet_touches hget) (by decide))
  next c d1 hget =>
    have h1 : d.OutGrows d1 := of (Dev.ctrGet_touches hget) (by decide)
    have hfail : d.OutGrows d1.tagFail.2 := (tagFail d1).comp h1
    have hroll : ∀ e, d.OutGrows (((((d1.ctrPut (line / 64) k base e).bump SEC_ROLLFWD_CNT).event F 0x3006 (line * 64)).icu 76).count 0x200) := fun e =>
      hok ((of (Dev.icu_touches ..) (by decide)).comp ((of (Dev.event_touches ..) (by decide)).comp ((of (Dev.bump_touches ..) (by decide)).comp
        ((of (Dev.ctrPut_touches ..) (by decide)).comp h1))))
    split
    · split
      · split
        · exact hok h1
        · exact hfail
      · split
        · split
          · exact hroll _
          · exact hfail
        · exact hfail
    · split
      · split
        · exact hok h1
        · exact hfail
      · split
        · exact hok ((startReenc ..).comp h1)
        · exact hfail

theorem openLineFor (F : Fuses) (d : Dev) (wb : Bool) (k base line : Nat) (m : MediaLine) : d.OutGrows (d.openLineFor F wb k base line m).2 := by
  unfold Dev.openLineFor
  dsimp only
  split_ifs
  · exact refl d
  · exact tagFail d
  · exact tagFail d
  · exact openCounter ..
  · exact refl d
  · exact of (Dev.count_touches ..) (by decide)
  · exact tagFail d

theorem mergeNow (F : Fuses) (d : Dev) (line : Nat) (e : GEntry) (wb : Bool) : d.OutGrows (mergeNow F d line e wb).2 := by
  unfold Sys2Proof.Machine.mergeNow
  split
  · exact refl d
  · split
    next v d1 hread =>
      have h1 : d.OutGrows d1 := by
        split at hread
        · cases hread
          exact refl d
        · split at hread
          next m _ =>
            have hopen := openLineFor F d wb (d.wbKey e.key (line * 64)) e.base line m
            rwa [hread] at hopen
          next =>
            cases hread
            exact refl d
      split
      · exact (of (Dev.count_touches ..) (by decide)).comp h1
      · exact h1

theorem partialLoss (F : Fuses) (d : Dev) (line : Nat) : d.OutGrows (partialLoss F d line) :=
  (of (recordPoison_touches ..) (by decide)).comp ((postAt ..).comp ((of (Dev.event_touches ..) (by decide)).comp ((of (Dev.bump_touches ..) (by decide)).comp
    ((of (Dev.setReg_touches ..) (by decide)).comp (of (Dev.setReg_touches ..) (by decide))))))

theorem ackDone (F : Fuses) (d : Dev) (a : Ack) : d.OutGrows (ackDone F d a) := by
  cases a with
  | host h tag t => exact (emit ..).comp ((of (Dev.latency_touches ..) (by decide)).comp (of (Dev.setHead_touches ..) (by decide)))
  | run c idx => exact refl d

theorem ackAll (F : Fuses) (d : Dev) (l : List Ack) : d.OutGrows (ackAll F d l) := foldl (ackDone F) (refl d)

theorem setStaged (d : Dev) (l : Nat) (e : Option GEntry) : d.OutGrows (d.setStaged l e) := refl d

theorem setWb (d : Dev) (l : Nat) (e : Option GEntry) : d.OutGrows (d.setWb l e) := refl d

theorem dropPartial (F : Fuses) (d : Dev) (line : Nat) (wb : Bool) (e : GEntry) : d.OutGrows (dropPartial F d line wb e) :=
  (ackAll ..).comp ((partialLoss ..).comp (ite (setWb ..) (setStaged ..)))

theorem promoteHeld (F : Fuses) (d : Dev) (line : Nat) : d.OutGrows (promoteHeld F d line) := by
  unfold Sys2Proof.Machine.promoteHeld
  split
  next e _ =>
    have hm : d.OutGrows (Sys2Proof.Machine.mergeNow F d line e true).2 := mergeNow ..
    split
    · split
      next hq =>
        rw [hq] at hm
        exact (setWb ..).comp ((setStaged ..).comp hm)
      next hq =>
        rw [hq] at hm
        exact (dropPartial ..).comp hm
    · exact refl d
  next => exact refl d

theorem dropEntry (F : Fuses) (d : Dev) (line : Nat) (wb : Bool) (e : GEntry) : d.OutGrows (dropEntry F d line wb e) :=
  ite ((promoteHeld ..).comp (dropPartial ..)) (dropPartial ..)

theorem respond (F : Fuses) (d : Dev) (h : Head) (tag : BitVec 16) (line t : Nat) (v : Val) : d.OutGrows (respond F d h tag line t v) := by
  have hlat : d.OutGrows (d.latency 0 (some h) (d.tether.now - t)) := of (Dev.latency_touches ..) (by decide)
  cases v with
  | data x => exact (emit ..).comp hlat
  | poison o =>
    have hpost := (postAt F ((d.latency 0 (some h) (d.tether.now - t)).countH 0x046 h) .fail .poison (line * 64)).comp
      ((of (Dev.countH_touches ..) (by decide)).comp hlat)
    exact (emit ..).comp (show Dev.OutGrows d _ from ite ((of (recordPoison_touches ..) (by decide)).comp hpost) hpost)

end Dev.OutGrows

/-! ## The end of a fetch (R71, R81) -/

/-- The entry that waits on a fetch is merged with its value, or dropped (R71, R72). -/
def mergeWaiting (F : Fuses) (line : Nat) (v : Val) (seq : Nat) (d : Dev) (e : GEntry) (wb : Bool) : Dev :=
  if e.seq ≠ seq ∨ e.poison ∨ e.mask = fullMask then d
  else match d.older line wb with
    | some _ => d
    | none =>
      let v1 : Val := match (if wb then none else d.wbSeen line), v with
        | some g, .data x => .data (overlay x g.data g.mask)
        | _, y => y
      match e.mergeOlder v1 with
      | some e1 => (if wb then d.setWb line (some e1) else d.setStaged line (some e1)).count 0x086
      | none => dropEntry F d line wb e

theorem answerWaiter_merge (F : Fuses) (src line : Nat) (v : Val) (d : Dev) (seq : Nat) :
    answerWaiter F src line v d (.merge seq) =
      match d.staged line, d.wbSeen line with
      | some e, some g => if e.seq = seq then mergeWaiting F line v seq d e false else mergeWaiting F line v seq d g true
      | some e, none => mergeWaiting F line v seq d e false
      | none, some g => mergeWaiting F line v seq d g true
      | none, none => d := rfl

theorem answerWaiter_host_data (F : Fuses) (src line : Nat) (x : LineData) (d : Dev) (h : Head) (tag : BitVec 16) (t : Nat) (data : LineData)
    (mask : BitVec 64) : answerWaiter F src line (.data x) d (.host h tag t data mask) =
      respond F ((d.trackOut h).latency src (some h) (d.tether.now - t)) h tag line t (.data (overlay x data mask)) := rfl

namespace Dev.OutGrows

theorem mergeWaiting (F : Fuses) (line : Nat) (v : Val) (seq : Nat) (d : Dev) (e : GEntry) (wb : Bool) :
    d.OutGrows (mergeWaiting F line v seq d e wb) := by
  unfold Sys2Proof.Machine.mergeWaiting
  split
  · exact refl d
  · split
    · exact refl d
    · dsimp only
      split
      · exact (of (Dev.count_touches ..) (by decide)).comp (ite (setWb ..) (setStaged ..))
      · exact dropEntry ..

theorem answerWaiter (F : Fuses) (src line : Nat) (v : Val) (d : Dev) (w : Waiter) : d.OutGrows (answerWaiter F src line v d w) := by
  cases w with
  | host h tag t data mask =>
    have hlat : d.OutGrows ((d.trackOut h).latency src (some h) (d.tether.now - t)) :=
      (of (Dev.latency_touches ..) (by decide)).comp (of (Dev.trackOut_touches ..) (by decide))
    cases v with
    | data x => exact (respond ..).comp hlat
    | poison o => exact (respond ..).comp hlat
  | spec h => exact of (Dev.trackOut_touches ..) (by decide)
  | merge seq =>
    rw [answerWaiter_merge]
    split
    · exact ite (mergeWaiting ..) (mergeWaiting ..)
    · exact mergeWaiting ..
    · exact mergeWaiting ..
    · exact refl d

theorem answerWaiters (F : Fuses) (src line : Nat) (v : Val) (d : Dev) (l : List Waiter) :
    d.OutGrows (l.foldl (Sys2Proof.Machine.answerWaiter F src line v) d) := foldl (answerWaiter F src line v) (refl d)

end Dev.OutGrows

/-- A host that waits gets the data under its entry's bytes, and keeps its response while the other waiters are answered (R71, R81). -/
theorem answerWaiters_host (F : Fuses) (src line : Nat) (x : LineData) (d : Dev) {l : List Waiter} {h : Head} {tag : BitVec 16} {t : Nat}
    {data : LineData} {mask : BitVec 64} (hw : .host h tag t data mask ∈ l) :
    ∃ n, Out.memData h tag (overlay x data mask) false n ∈ (l.foldl (answerWaiter F src line (.data x)) d).out := by
  obtain ⟨before, after, rfl⟩ := List.append_of_mem hw
  obtain ⟨n, hn⟩ := respond_data_out F (((before.foldl (answerWaiter F src line (.data x)) d).trackOut h).latency src (some h)
    ((before.foldl (answerWaiter F src line (.data x)) d).tether.now - t)) h tag line t (overlay x data mask)
  refine ⟨n, ?_⟩
  rw [List.foldl_append, List.foldl_cons, answerWaiter_host_data]
  exact Dev.OutGrows.answerWaiters F src line (.data x) _ after (hn ▸ List.mem_cons_self)

/-- What follows the answers of a fetch that ends with data: page fills go on, and the line is installed or not (R81, R82). -/
theorem endFetch_data_grows (F : Fuses) (d : Dev) (f : Fetch) (src : Nat) (x : LineData) :
    (f.waiters.foldl (answerWaiter F src f.line (.data x)) (d.setCache { d.cache with fetches := d.cache.fetches.filter fun y => y.id != f.id })).OutGrows
      (endFetch F d f src (.data x)) := by
  have hfill := Dev.OutGrows.of (Dev.fillsGo_touches F
    (f.waiters.foldl (answerWaiter F src f.line (.data x)) (d.setCache { d.cache with fetches := d.cache.fetches.filter fun y => y.id != f.id })))
    (by decide)
  exact .ite hfill (.ite ((Dev.OutGrows.of (Dev.install_touches ..) (by decide)).comp hfill) ((Dev.OutGrows.of (Dev.count_touches ..) (by decide)).comp hfill))

/-- Settles O7. -/
theorem fetchEndAnswersHosts : Obligations.FETCH_END_ANSWERS_HOSTS := by
  intro F d f src x h tag t data mask hw
  obtain ⟨n, hn⟩ := answerWaiters_host F src f.line x (d.setCache { d.cache with fetches := d.cache.fetches.filter fun y => y.id != f.id }) hw
  exact ⟨n, endFetch_data_grows F d f src x hn⟩

end Sys2Proof.Machine

/-!
PROOFS. Register bits and fields after a write, as one rule each: the laws' pairs `_same` and `_other` with the case as an `if`.
-/
namespace Sys2Proof.Machine

theorem Dev.rbit_same {d e : Dev} (h : e.regs = d.regs) (off k : Nat) : e.rbit off k = d.rbit off k := by
  rw [Dev.rbit, Dev.rbit, Dev.reg_same off h]

theorem Dev.fld_same {d e : Dev} (h : e.regs = d.regs) (off hi lo : Nat) : e.fld off hi lo = d.fld off hi lo := by
  rw [Dev.fld, Dev.fld, Dev.reg_same off h]

theorem Dev.rbit_setRbit (d : Dev) {off k : Nat} (b : Bool) (off' k' : Nat) (hk : k < 32) :
    (d.setRbit off k b).rbit off' k' = if off' = off ∧ k' = k then b else d.rbit off' k' := by
  split
  next h =>
    obtain ⟨rfl, rfl⟩ := h
    exact Dev.rbit_setRbit_same d off' k' b hk
  next h => exact Dev.rbit_setRbit_other d off k off' k' b hk (by tauto)

theorem Dev.rbit_setFld_other (d : Dev) {off hi lo v off' k : Nat} (hl : lo ≤ hi + 1) (hh : hi < 32) (hd : off' ≠ off ∨ hi < k ∨ k < lo) :
    (d.setFld off hi lo v).rbit off' k = d.rbit off' k := by
  rw [Dev.rbit_eq, Dev.rbit_eq, Dev.fld_setFld_other d off hi lo v off' k k hl hh (by omega) (by omega)]

theorem Dev.fld_setRbit_other (d : Dev) {off k off' hi lo : Nat} (b : Bool) (hk : k < 32) (hl : lo ≤ hi + 1) (hd : off' ≠ off ∨ k < lo ∨ hi < k) :
    (d.setRbit off k b).fld off' hi lo = d.fld off' hi lo :=
  Dev.fld_setFld_other d off k k _ off' hi lo (by omega) hk hl (by omega)

theorem Dev.reg_setRbit (d : Dev) {off k : Nat} (b : Bool) {off' : Nat} (h : off' ≠ off) : (d.setRbit off k b).reg off' = d.reg off' :=
  Dev.reg_setRbit_other d off k off' b h

/-! ## Registers that no event raises

An event that arises may set bits of the interrupt controller (R317), and a message that is masked sets a bit of a head's Pending Bit Array
(R323). Every other register reads as before whatever is counted, recorded, posted or sent. -/

/-- A register that is neither a source's pending bit or configuration nor a word of a Pending Bit Array. -/
abbrev QuietReg (off : Nat) : Prop :=
  ¬ (0xD0010 ≤ off ∧ off < 0xD0400) ∧ ¬ (0x4800 ≤ off % 0x100000 ∧ off % 0x100000 < 0x4810)

/-- The quiet registers read the same in both. -/
structure Dev.SameQuiet (d e : Dev) : Prop where
  reg : ∀ off, QuietReg off → e.reg off = d.reg off

namespace Dev.SameQuiet

theorem refl (d : Dev) : d.SameQuiet d := ⟨fun _ _ => rfl⟩

theorem comp {d e f : Dev} (g : e.SameQuiet f) (h : d.SameQuiet e) : d.SameQuiet f := ⟨fun off hq => (g.reg off hq).trans (h.reg off hq)⟩

theorem of_regs {d e : Dev} (h : e.regs = d.regs) : d.SameQuiet e := ⟨fun off _ => Dev.reg_same off h⟩

theorem ite {d e f : Dev} {c : Prop} [Decidable c] (h : d.SameQuiet e) (g : d.SameQuiet f) : d.SameQuiet (if c then e else f) := by
  split <;> assumption

theorem foldl {α : Type} {d e : Dev} {f : Dev → α → Dev} {l : List α} (hf : ∀ a, ∀ x ∈ l, Dev.SameQuiet a (f a x)) (h : d.SameQuiet e) :
    d.SameQuiet (l.foldl f e) := List.foldlRecOn l f h fun a g x hx => (hf a x hx).comp g

theorem rbit {d e : Dev} (h : d.SameQuiet e) {off : Nat} (hq : QuietReg off) (k : Nat) : e.rbit off k = d.rbit off k := by
  rw [Dev.rbit, Dev.rbit, h.reg off hq]

theorem fld {d e : Dev} (h : d.SameQuiet e) {off : Nat} (hq : QuietReg off) (hi lo : Nat) : e.fld off hi lo = d.fld off hi lo := by
  rw [Dev.fld, Dev.fld, h.reg off hq]

theorem setRbit (d : Dev) {off k : Nat} (b : Bool) (hl : ¬ QuietReg off) : d.SameQuiet (d.setRbit off k b) :=
  ⟨fun off' hq => Dev.reg_setRbit_other d off k off' b fun h => hl (h ▸ hq)⟩

theorem icu (d : Dev) {n : Nat} (hn : n < 128) : d.SameQuiet (d.icu n) := by
  have hpend : ¬ QuietReg (ICU_PEND (n / 32)) := by
    unfold QuietReg ICU_PEND
    omega
  have hcfg : ¬ QuietReg (ICU_SRC_CFG n) := by
    unfold QuietReg ICU_SRC_CFG
    omega
  exact ite (refl d) (ite (setRbit d true hcfg) (setRbit d true hpend))

theorem addCnt (d : Dev) (i n : Nat) : d.SameQuiet (d.addCnt i n) := ite ((icu _ (by decide)).comp (of_regs rfl)) (of_regs rfl)

theorem countAt (d : Dev) (ev n : Nat) (head : Option Head) : d.SameQuiet (d.countAt ev n head) := foldl (fun a _ _ => addCnt a _ n) (refl d)

theorem count (d : Dev) (ev n : Nat) : d.SameQuiet (d.count ev n) := countAt d ev n none

theorem countH (d : Dev) (ev : Nat) (h : Head) (n : Nat) : d.SameQuiet (d.countH ev h n) := countAt ..

theorem putLog (d : Dev) (l : Logbook) : d.SameQuiet { d with log := l } := of_regs rfl

theorem logPush (d : Dev) (code arg t : Nat) : d.SameQuiet (d.logPush code arg t) :=
  ite (of_regs rfl) (ite ((icu _ (by decide)).comp (of_regs rfl)) (of_regs rfl))

theorem rateEnd (d : Dev) : d.SameQuiet d.rateEnd := by
  have htop : ∀ l : List (Nat × Nat), d.SameQuiet (l.foldl (fun x e => x.logPush 0xF001 (e.1 + e.2 * 2 ^ 16) x.tether.now) d) := fun l =>
    foldl (fun a _ _ => logPush a ..) (refl d)
  unfold Dev.rateEnd
  exact (putLog ..).comp (ite (htop _) ((logPush ..).comp (htop _)))

theorem recordIn (F : Fuses) (d : Dev) (code arg t : Nat) : d.SameQuiet (d.recordIn F code arg t) := by
  have hsecond : ∀ c : Prop, [Decidable c] → d.SameQuiet (if c then d else d.rateEnd) := fun _ _ => ite (refl d) (rateEnd d)
  unfold Dev.recordIn
  exact ite (ite ((putLog ..).comp (hsecond _)) ((logPush ..).comp ((putLog ..).comp (hsecond _)))) (ite (putLog ..) (logPush ..))

theorem event (F : Fuses) (d : Dev) (code arg : Nat) : d.SameQuiet (d.event F code arg) :=
  ite (recordIn ..) (ite (of_regs rfl) (of_regs rfl))

theorem pbaOff_not_quiet {h : Head} {vec : Nat} (hv : vec < 64) : ¬ QuietReg (pbaOff h vec) := by
  unfold QuietReg pbaOff headOff
  split
  · omega
  · split <;> omega

theorem msixSend (d : Dev) (h : Head) {vec : Nat} (hv : vec < 64) : d.SameQuiet (d.msixSend h vec) :=
  ite (of_regs rfl) (setRbit d true (pbaOff_not_quiet hv))

theorem post (d : Dev) (h : Head) (n : LogName) (k : EvKind) (arg : Nat) : d.SameQuiet (d.post h n k arg) := by
  have hset : ∀ x : HeadState, d.SameQuiet (d.setHead h x) := fun x => of_regs (Dev.setHead_regs d h x)
  exact ite ((msixSend _ h ((bits_lt _ 7 4).trans (by decide))).comp (hset _)) (hset _)

theorem postAll (F : Fuses) (d : Dev) (n : LogName) (k : EvKind) (arg : Nat) : d.SameQuiet (d.postAll F n k arg) :=
  foldl (fun a h _ => post a h n k arg) (refl d)

theorem postAt (F : Fuses) (d : Dev) (n : LogName) (k : EvKind) (dpa : Nat) : d.SameQuiet (postAt F d n k dpa) :=
  foldl (fun a h _ => post a h n k dpa) (refl d)

theorem notice (F : Fuses) (d : Dev) : d.SameQuiet (d.notice F) :=
  foldl (fun a h _ => ite (msixSend a h (bits_lt _ 5 0)) (refl a)) (refl d)

theorem latency (d : Dev) (src : Nat) (head : Option Head) (ns : Nat) : d.SameQuiet (d.latency src head ns) :=
  foldl (fun a _ _ => ite (ite ((icu _ (by decide)).comp (of_regs rfl)) (of_regs rfl)) (refl a)) (refl d)

theorem countIf (d : Dev) (c : Prop) [Decidable c] (ev n : Nat) : d.SameQuiet (if c then d.count ev n else d) := ite (count ..) (refl d)

theorem countHIf (d : Dev) (c : Prop) [Decidable c] (ev : Nat) (h : Head) (n : Nat) : d.SameQuiet (if c then d.countH ev h n else d) :=
  ite (countH ..) (refl d)

theorem passed (d : Dev) (ns cycles : Nat) : d.SameQuiet (d.passed ns cycles) := by
  unfold Dev.passed
  split
  · exact refl d
  · extract_lets on up withheld d1
    have hon : ∀ (b : Bool) (ev : Nat) (e : Dev), e.SameQuiet (on b ev e) := fun b ev e => countIf e (b = true) ev cycles
    have hwith : ∀ (h : Head) (e : Dev), e.SameQuiet (withheld h e) := fun h e => (countHIf _ _ 0x045 h cycles).comp (countHIf e _ 0x044 h cycles)
    exact (hon ..).comp ((hon ..).comp ((hon ..).comp ((hon ..).comp ((hon ..).comp ((hwith ..).comp ((hwith ..).comp ((count ..).comp (count ..))))))))

theorem reach (d : Dev) (u : Tether) : d.SameQuiet (d.reach u) := of_regs (Dev.reach_regs ..)

theorem advance (d : Dev) (t : Nat) : d.SameQuiet (d.advance t) := ite (refl d) ((reach ..).comp (passed ..))

end Dev.SameQuiet

end Sys2Proof.Machine

/-!
PROOFS. O44 (R317 to R323, R327): the interrupt controller and MSI-X. The pick of R320 is a fold, so its rule is an invariant of the fold; an
unmasked head's messages leave one vector at a time, and a vector's pending bit is no other vector's business.
-/
namespace Sys2Proof.Machine

/-! ## Edges, clears and software interrupts (R317, R318) -/

section
variable {d : Dev} {n : Nat}

theorem Dev.icu_of_free (hn : n < 103 ∨ 111 < n) (hp : d.rbit (ICU_PEND (n / 32)) (n % 32) = false) :
    d.icu n = d.setRbit (ICU_PEND (n / 32)) (n % 32) true := by
  rw [Dev.icu, if_neg (by omega), if_neg (by simp [hp])]

theorem Dev.icu_of_pending (hn : n < 103 ∨ 111 < n) (hp : d.rbit (ICU_PEND (n / 32)) (n % 32) = true) :
    d.icu n = d.setRbit (ICU_SRC_CFG n) 31 true := by
  rw [Dev.icu, if_neg (by omega), if_pos hp]

theorem Dev.icu_of_unassigned (h1 : 103 ≤ n) (h2 : n ≤ 111) : d.icu n = d := if_pos ⟨h1, h2⟩

theorem icuPend_ne_srcCfg {k m : Nat} (hk : k < 4) : ICU_PEND k ≠ ICU_SRC_CFG m := by
  unfold ICU_PEND ICU_SRC_CFG
  omega

/-- An edge leaves the source pending, and no source's pending bit is cleared by one (R317). -/
theorem Dev.icu_pend (hn : n < 103 ∨ 111 < n) (hlt : n < 128) : (d.icu n).rbit (ICU_PEND (n / 32)) (n % 32) = true := by
  cases hp : d.rbit (ICU_PEND (n / 32)) (n % 32) with
  | true => rw [Dev.icu_of_pending hn hp, Dev.rbit_setRbit_other _ _ _ _ _ _ (by decide) (.inl (icuPend_ne_srcCfg (by omega))), hp]
  | false => rw [Dev.icu_of_free hn hp, Dev.rbit_setRbit_same _ _ _ _ (Nat.mod_lt _ (by decide))]

theorem Dev.icu_keeps_pend {k b : Nat} (hk : k < 4) (hp : d.rbit (ICU_PEND k) b = true) : (d.icu n).rbit (ICU_PEND k) b = true := by
  unfold Dev.icu
  split_ifs
  · exact hp
  · rw [Dev.rbit_setRbit_other _ _ _ _ _ _ (by decide) (.inl (icuPend_ne_srcCfg hk)), hp]
  · rw [Dev.rbit_setRbit _ _ _ _ (Nat.mod_lt _ (by decide)), hp, ite_self]

end

/-- Each bit of a write of ICU_SWI sets its source's pending bit (R318). -/
theorem Dev.swiWrite_pend (d : Dev) {v j : Nat} (hj : j < 16) (hv : bit v j = true) : (d.swiWrite v).rbit (ICU_PEND 3) (16 + j) = true := by
  obtain ⟨before, after, hl⟩ := List.append_of_mem (List.mem_filter.mpr ⟨List.mem_range.mpr hj, hv⟩)
  rw [Dev.swiWrite, hl, List.foldl_append, List.foldl_cons]
  refine List.foldlRecOn after _ (motive := fun e : Dev => e.rbit (ICU_PEND 3) (16 + j) = true) ?_ fun e he i _ => Dev.icu_keeps_pend (by decide) he
  have hpend := (before.foldl (fun d j => d.icu (112 + j)) d).icu_pend (n := 112 + j) (by omega) (by omega)
  rwa [show (112 + j) / 32 = 3 by omega, show (112 + j) % 32 = 16 + j by omega] at hpend

/-! ## The pick of R320 -/

/-- One source of the pick: a later one replaces an earlier one only with a higher priority. -/
def Dev.pick (d : Dev) (acc : Option Nat) (n : Nat) : Option Nat :=
  match acc with
  | none => some n
  | some m => if d.srcPrio m < d.srcPrio n then some n else some m

theorem Dev.bestSource_eq (d : Dev) (p : PairId) : d.bestSource p = ((List.range 128).filter (d.candidate p)).foldl d.pick none := rfl

/-- The source comes before the other by the rule of R320: higher priority, then lower number. -/
def Dev.Precedes (d : Dev) (n m : Nat) : Prop := d.srcPrio m < d.srcPrio n ∨ (d.srcPrio m = d.srcPrio n ∧ n ≤ m)

theorem Dev.foldl_pick {d : Dev} {l : List Nat} {a n : Nat} (hl : (a :: l).Pairwise (· < ·)) (h : l.foldl d.pick (some a) = some n) :
    n ∈ a :: l ∧ ∀ m ∈ a :: l, d.Precedes n m := by
  induction l generalizing a with
  | nil =>
    obtain rfl : a = n := by simpa using h
    simp [Dev.Precedes]
  | cons x l ih =>
    have hax : a < x := (List.pairwise_cons.mp hl).1 x List.mem_cons_self
    rw [List.foldl_cons, Dev.pick] at h
    split at h
    next hlt =>
      obtain ⟨hmem, hall⟩ := ih (List.pairwise_cons.mp hl).2 h
      refine ⟨List.mem_cons_of_mem _ hmem, fun m hm => ?_⟩
      rcases List.mem_cons.mp hm with rfl | hm
      · have hx := hall x List.mem_cons_self
        unfold Dev.Precedes at hx ⊢
        omega
      · exact hall m hm
    next hge =>
      have hl' : (a :: l).Pairwise (· < ·) := hl.sublist (List.sublist_cons_self x l |>.cons_cons a)
      obtain ⟨hmem, hall⟩ := ih hl' h
      refine ⟨by rcases List.mem_cons.mp hmem with rfl | hm <;> simp [*], fun m hm => ?_⟩
      rcases List.mem_cons.mp hm with rfl | hm
      · exact hall m List.mem_cons_self
      rcases List.mem_cons.mp hm with rfl | hm
      · have ha := hall a List.mem_cons_self
        unfold Dev.Precedes at ha ⊢
        omega
      · exact hall m (List.mem_cons_of_mem _ hm)

theorem Dev.bestSource_spec {d : Dev} {p : PairId} {n : Nat} (h : d.bestSource p = some n) :
    d.candidate p n = true ∧ ∀ m, m < 128 → d.candidate p m = true → d.Precedes n m := by
  have hsorted : ((List.range 128).filter (d.candidate p)).Pairwise (· < ·) := List.pairwise_lt_range.filter _
  have hmem : ∀ m, m ∈ (List.range 128).filter (d.candidate p) ↔ m < 128 ∧ d.candidate p m = true := by simp
  rw [Dev.bestSource_eq] at h
  cases hc : (List.range 128).filter (d.candidate p) with
  | nil => simp [hc] at h
  | cons a l =>
    rw [hc] at h hsorted hmem
    obtain ⟨hn, hall⟩ := Dev.foldl_pick hsorted h
    exact ⟨((hmem n).mp hn).2, fun m hm hcand => hall m ((hmem m).mpr ⟨hm, hcand⟩)⟩

/-- A source that may be committed is pending, and outranks the top of the stack (R320). -/
theorem Dev.candidate_spec {d : Dev} {p : PairId} {n : Nat} (h : d.candidate p n = true) :
    d.rbit (ICU_PEND (n / 32)) (n % 32) = true ∧ ∀ t ∈ (d.pair p).stack.head?, d.srcPrio t < d.srcPrio n := by
  simp only [Dev.candidate, Bool.and_eq_true] at h
  obtain ⟨⟨⟨⟨⟨hpend, -⟩, -⟩, -⟩, -⟩, htop⟩ := h
  refine ⟨hpend, fun t ht => ?_⟩
  cases hs : (d.pair p).stack with
  | nil => simp [hs] at ht
  | cons a r =>
    obtain rfl : a = t := by simpa [hs] using ht
    simpa [hs] using htop

theorem Dev.pair_same {d e : Dev} (h : e.cores = d.cores) (p : PairId) : e.pair p = d.pair p := by
  cases p <;> simp only [Dev.pair, h]

theorem Dev.commit_of_best {d : Dev} {p : PairId} {n : Nat} (hr : (d.pair p).runs = true) (hb : d.bestSource p = some n) (q : PairId) :
    (d.commit p).pair q = if q = p then { d.pair p with stack := n :: (d.pair p).stack } else d.pair q := by
  have hcommit : d.commit p = if p = d.cores.active then (d.setPair p { d.pair p with stack := n :: (d.pair p).stack }).count 0x283
      else d.setPair p { d.pair p with stack := n :: (d.pair p).stack } := by
    simp [Dev.commit, hr, hb]
  rw [hcommit]
  split
  · rw [Dev.pair_same (Dev.count_cores ..), Dev.setPair_pair]
  · rw [Dev.setPair_pair]

theorem Dev.commit_of_stopped {d : Dev} {p : PairId} (hr : (d.pair p).runs = false) : d.commit p = d := by
  simp [Dev.commit, hr]

/-! ## Writes of the enables, the priorities and the lock (R319, R321, R322) -/

theorem eoi_of_top {F : Fuses} {d : Dev} {p : PairId} {t : Nat} {r : List Nat} (hs : (d.pair p).stack = t :: r) :
    eoi F d p t = d.setPair p { d.pair p with stack := r } := by
  simp [eoi, hs]

theorem eoi_of_other {F : Fuses} {d : Dev} {p : PairId} {t src : Nat} {r : List Nat} (hs : (d.pair p).stack = t :: r) (hne : t ≠ src) :
    eoi F d p src = (d.setRbit ICU_STS 31 true).event F 0x6002 src := by
  simp [eoi, hs, hne]

theorem Dev.event_reg_icuSts (F : Fuses) (d : Dev) (code arg : Nat) : (d.event F code arg).rbit ICU_STS 31 = d.rbit ICU_STS 31 :=
  (SameQuiet.event F d code arg).rbit (by decide) 31

section
variable {d : Dev} {n v : Nat}

/-- A write of ICU_SRC_CFGn before the lock is looked at: the enable, and again cleared where the write says so (R322). -/
def Dev.srcEnable (d : Dev) (n v : Nat) : Dev :=
  if bit v 31 then (d.setRbit (ICU_SRC_CFG n) 0 (bit v 0)).setRbit (ICU_SRC_CFG n) 31 false else d.setRbit (ICU_SRC_CFG n) 0 (bit v 0)

theorem Dev.srcEnable_enable : (d.srcEnable n v).rbit (ICU_SRC_CFG n) 0 = bit v 0 := by
  unfold Dev.srcEnable
  split <;> simp [Dev.rbit_setRbit]

theorem Dev.srcEnable_rest (b : Nat) (hb : b ≠ 0 ∧ b ≠ 31) : (d.srcEnable n v).rbit (ICU_SRC_CFG n) b = d.rbit (ICU_SRC_CFG n) b := by
  unfold Dev.srcEnable
  split <;> simp [Dev.rbit_setRbit, hb]

theorem Dev.srcEnable_srcPrio : (d.srcEnable n v).srcPrio n = d.srcPrio n := by
  unfold Dev.srcEnable Dev.srcPrio
  split <;> simp [Dev.fld_setRbit_other]

theorem Dev.srcWrite_of_locked (hl : d.rbit ICU_GCTL 31 = true) : d.srcWrite n v = d.srcEnable n v := by
  rw [Dev.srcWrite, if_pos hl]
  rfl

theorem Dev.srcWrite_of_unlocked (hl : d.rbit ICU_GCTL 31 = false) (hn : n < 103 ∨ 111 < n) :
    d.srcWrite n v = ((d.srcEnable n v).setRbit (ICU_SRC_CFG n) 8 (bit v 8)).setFld (ICU_SRC_CFG n) 7 4 (bits v 7 4) := by
  rw [Dev.srcWrite, if_neg (by simp [hl]), if_neg (by omega)]
  rfl

theorem Dev.gctlWrite_lock : (d.gctlWrite v).rbit ICU_GCTL 31 = (d.rbit ICU_GCTL 31 || bit v 31) := by
  unfold Dev.gctlWrite
  split
  next h => simp [Dev.rbit_setRbit, h]
  next h => simp [Dev.rbit_setFld_other, h]

theorem Dev.gctlWrite_enables : (d.gctlWrite v).fld ICU_GCTL 1 0 = bits v 1 0 := by
  have hlt : bits v 1 0 < 2 ^ 2 := bits_lt v 1 0
  have hset : (d.setFld ICU_GCTL 1 0 (bits v 1 0)).fld ICU_GCTL 1 0 = bits v 1 0 := by
    rw [Dev.fld_setFld_same _ _ _ _ _ (by decide) (by decide), Nat.mod_eq_of_lt hlt]
  unfold Dev.gctlWrite
  split
  · rw [Dev.fld_setRbit_other _ _ (by decide) (by decide) (by decide), hset]
  · exact hset

end

/-! ## Messages (R323) -/

theorem Dev.msixSend_of_open {d : Dev} {h : Head} {vec : Nat} (ho : d.msixOpen h vec = true) : d.msixSend h vec = d.msixOut h vec := if_pos ho

theorem Dev.msixSend_of_masked {d : Dev} {h : Head} {vec : Nat} (ho : d.msixOpen h vec = false) :
    d.msixSend h vec = d.setRbit (pbaOff h vec) (vec % 32) true := if_neg (by simp [ho])

/-- One vector's turn when a head's messages may leave (R323). -/
def Dev.msixTurn (h : Head) (d : Dev) (v : Nat) : Dev :=
  if d.rbit (pbaOff h v) (v % 32) && d.msixOpen h v then (d.setRbit (pbaOff h v) (v % 32) false).msixOut h v else d

theorem Dev.msixDrain_eq (d : Dev) (h : Head) : d.msixDrain h = (List.range 64).foldl (Dev.msixTurn h) d := rfl

theorem pbaOff_ne_word {h : Head} {v w k : Nat} (hv : v < 64) (hw : w < 64) (hk : k < 4) : headOff h (0x4000 + 16 * w + 4 * k) ≠ pbaOff h v := by
  cases h with
  | a =>
    simp only [pbaOff, headOff]
    omega
  | b =>
    have hword : perHead (0x4000 + 16 * w + 4 * k) = true := by
      have : 0x4000 + 16 * w + 4 * k < 0x4810 := by omega
      have : 0x4000 ≤ 0x4000 + 16 * w + 4 * k := by omega
      simp [perHead, *]
    have hpba : perHead (0x4800 + 4 * (v / 32)) = true := by
      have : 0x4800 + 4 * (v / 32) < 0x4810 := by omega
      have : 0x4000 ≤ 0x4800 + 4 * (v / 32) := by omega
      simp [perHead, *]
    simp only [pbaOff, headOff, hword, hpba, if_true]
    omega

section
variable {d : Dev} {h : Head} {v w : Nat}

theorem Dev.msixOut_rbit (off k : Nat) : (d.msixOut h v).rbit off k = d.rbit off k := rfl

/-- A vector's turn clears no mask: another vector may leave as before (R323). -/
theorem Dev.msixTurn_open (hv : v < 64) (hw : w < 64) : (Dev.msixTurn h d v).msixOpen h w = d.msixOpen h w := by
  unfold Dev.msixTurn
  split
  · have hword : ((d.setRbit (pbaOff h v) (v % 32) false).msixOut h v).msixWord h w 3 = d.msixWord h w 3 :=
      congrArg BitVec.toNat (Dev.reg_setRbit d false (pbaOff_ne_word (k := 3) hv hw (by decide)))
    have hhead : ((d.setRbit (pbaOff h v) (v % 32) false).msixOut h v).head h = d.head h := by simp [Dev.msixOut]
    rw [Dev.msixOpen, Dev.msixOpen, hword, hhead]
  · rfl

theorem pbaOff_inj (hv : v < 64) (hw : w < 64) (hoff : pbaOff h w = pbaOff h v) (hbit : w % 32 = v % 32) : w = v := by
  have hper : ∀ u < 64, perHead (0x4800 + 4 * (u / 32)) = true := by decide
  cases h with
  | a =>
    simp only [pbaOff, headOff] at hoff
    omega
  | b =>
    simp only [pbaOff, headOff, hper v hv, hper w hw, if_true] at hoff
    omega

theorem Dev.msixTurn_other (hv : v < 64) (hw : w < 64) (hne : w ≠ v) :
    (Dev.msixTurn h d v).rbit (pbaOff h w) (w % 32) = d.rbit (pbaOff h w) (w % 32) := by
  unfold Dev.msixTurn
  split
  · rw [Dev.msixOut_rbit, Dev.rbit_setRbit _ _ _ _ (Nat.mod_lt _ (by decide)), if_neg fun hb => hne (pbaOff_inj hv hw hb.1 hb.2)]
  · rfl

theorem Dev.msixTurn_same (ho : d.msixOpen h v = true) : (Dev.msixTurn h d v).rbit (pbaOff h v) (v % 32) = false := by
  unfold Dev.msixTurn
  split
  · rw [Dev.msixOut_rbit, Dev.rbit_setRbit_same _ _ _ _ (Nat.mod_lt _ (by decide))]
  next hp => simpa [ho] using hp

theorem Dev.OutGrows.msixTurn : d.OutGrows (Dev.msixTurn h d v) := ite ((emit ..).comp (of (Dev.setRbit_touches ..) (by decide))) (refl d)

/-- Turns of other vectors leave a vector's pending bit and its mask alone. -/
theorem Dev.msixTurns_other {l : List Nat} (hl : ∀ v ∈ l, v < 64 ∧ v ≠ w) (hw : w < 64) :
    (l.foldl (Dev.msixTurn h) d).rbit (pbaOff h w) (w % 32) = d.rbit (pbaOff h w) (w % 32) ∧ (l.foldl (Dev.msixTurn h) d).msixOpen h w = d.msixOpen h w :=
  List.foldlRecOn l (Dev.msixTurn h) (motive := fun e : Dev => e.rbit (pbaOff h w) (w % 32) = d.rbit (pbaOff h w) (w % 32) ∧ e.msixOpen h w = d.msixOpen h w)
    ⟨rfl, rfl⟩ fun _ he v hv => ⟨(Dev.msixTurn_other (hl v hv).1 hw (hl v hv).2.symm).trans he.1, (Dev.msixTurn_open (hl v hv).1 hw).trans he.2⟩

/-- A pending message that nothing masks leaves, and its bit clears (R323). -/
theorem Dev.msixDrain_of_pending (hv : v < 64) (hp : d.rbit (pbaOff h v) (v % 32) = true) (ho : d.msixOpen h v = true) :
    (∃ a w, Out.msix h v a w ∈ (d.msixDrain h).out) ∧ (d.msixDrain h).rbit (pbaOff h v) (v % 32) = false := by
  obtain ⟨before, after, hl⟩ := List.append_of_mem (List.mem_range.mpr hv)
  have hnodup : (before ++ v :: after).Nodup := hl ▸ List.nodup_range
  have hlt : ∀ u ∈ before ++ v :: after, u < 64 := fun u hu => List.mem_range.mp (hl ▸ hu)
  have hbefore : ∀ u ∈ before, u < 64 ∧ u ≠ v := fun u hu =>
    ⟨hlt u (List.mem_append_left _ hu), List.nodup_append.mp hnodup |>.2.2 u hu v List.mem_cons_self⟩
  have hafter : ∀ u ∈ after, u < 64 ∧ u ≠ v := fun u hu =>
    ⟨hlt u (List.mem_append_right _ (List.mem_cons_of_mem _ hu)),
      fun he => (List.nodup_cons.mp (List.nodup_append.mp hnodup).2.1).1 (he ▸ hu)⟩
  obtain ⟨hpend, hopen⟩ := Dev.msixTurns_other (d := d) (h := h) (l := before) hbefore hv
  have hsent : Dev.msixTurn h (before.foldl (Dev.msixTurn h) d) v = _ := if_pos (by simp [hpend, hopen, hp, ho])
  have hgrow : Dev.OutGrows (Dev.msixTurn h (before.foldl (Dev.msixTurn h) d) v) (d.msixDrain h) := by
    rw [Dev.msixDrain_eq, hl, List.foldl_append, List.foldl_cons]
    exact .foldl (fun _ _ => .msixTurn) (.refl _)
  refine ⟨⟨_, _, hgrow (by rw [hsent]; exact List.mem_cons_self)⟩, ?_⟩
  rw [Dev.msixDrain_eq, hl, List.foldl_append, List.foldl_cons, (Dev.msixTurns_other hafter hv).1, Dev.msixTurn_same (hopen.trans ho)]

theorem Dev.msixDrain_of_quiet (hp : ∀ k, k < 64 → d.rbit (pbaOff h k) (k % 32) = false) : d.msixDrain h = d :=
  List.foldlRecOn (List.range 64) (Dev.msixTurn h) (motive := (· = d)) rfl fun e he v hv => by
    rw [he, Dev.msixTurn, hp v (List.mem_range.mp hv)]
    rfl

/-- Messages that leave touch no mask bit of the table. -/
theorem Dev.msixDrain_word (hw : w < 64) : (d.msixDrain h).rbit (headOff h (0x4000 + 16 * w + 12)) 0 = d.rbit (headOff h (0x4000 + 16 * w + 12)) 0 :=
  List.foldlRecOn (List.range 64) (Dev.msixTurn h) (motive := fun e : Dev => e.rbit (headOff h (0x4000 + 16 * w + 12)) 0 = _) rfl fun e he v hv => by
    rw [← he]
    unfold Dev.msixTurn
    split
    · rw [Dev.msixOut_rbit, Dev.rbit_setRbit_other _ _ _ _ _ _ (Nat.mod_lt _ (by decide)) (.inl (pbaOff_ne_word (k := 3) (List.mem_range.mp hv) hw (by decide)))]
    · rfl

end

theorem exec_msixMessage {h : Head} {s : State} (ha : activeHead s.fuse s.dev h = true) (k : Fin 64) :
    exec (.msixMessage h k) s = .next { s with dev := s.dev.msixSend h k.val } := congrArg Host.Outcome.next (if_pos ha)

theorem exec_msixUnmask_some (h : Head) (v : Fin 64) (s : State) : exec (.msixUnmask h (some v)) s =
    .next { s with dev := (s.dev.setRbit (headOff h (0x4000 + 16 * v.val + 12)) 0 false).msixDrain h } := rfl

theorem exec_msixUnmask_none (h : Head) (s : State) : exec (.msixUnmask h none) s =
    .next { s with dev := (s.dev.setHead h { s.dev.head h with funcMask := false }).msixDrain h } := rfl

theorem exec_icuEnableChange_some (n : Fin 128) (v : BitVec 32) (s : State) :
    exec (.icuEnableChange (some n) v) s = .next { s with dev := s.dev.srcWrite n.val v.toNat } := rfl

theorem exec_fuseFloorRaise {s : State} (hr : s.dev.images.raiseFloor = true) (hi : s.dev.images.running < 2) (hs : s.dev.pwr.svc = .full) :
    exec .fuseFloorRaise s =
      .next { s with dev := { s.dev with images := { s.dev.images with floor := max s.dev.images.floor s.dev.images.svn } } } :=
  congrArg Host.Outcome.next (if_pos ⟨hr, hi, hs⟩)

/-- A head whose function mask has cleared lets a vector's message leave where the vector's own mask bit is 0 (R323). -/
theorem Dev.msixOpen_unmasked {d : Dev} {h : Head} {v : Nat} (hon : (d.head h).msixOn = true) (hd : (d.head h).dstate = 0)
    (hm : bit (d.msixWord h v 3) 0 = false) : (d.setHead h { d.head h with funcMask := false }).msixOpen h v = true := by
  have hword (x : HeadState) : (d.setHead h x).msixWord h v 3 = d.msixWord h v 3 := by simp [Dev.msixWord]
  rw [Dev.msixOpen, hword, hm, Dev.setHead_head, if_pos rfl]
  simp [hon, hd]

/-- Settles O44. -/
theorem interrupts : Obligations.INTERRUPTS := by
  refine ⟨fun n s hn => ⟨fun hp => ?edgeFree, fun hp => ?edgeAgain⟩, fun n s h1 h2 => ?neverPending, fun k v s => ?clear, fun v j s hj => ?swi,
    fun n s hr hb hstop => ?commit, fun p v t r s hs => ⟨fun ht => ?eoiTop, fun ht => ?eoiOther⟩, fun n v s hl => ?locked, fun n v s hl hn => ?unlocked,
    fun v s => ?gctl, fun h k s ha ho => ?sent, fun h k s ha ho => ?pends, fun h s _ _ hp => ?quiet, fun h k s hon hd hm hp => ?drained,
    fun h v s => ?vector, fun s hr hi hs => ?floor⟩
  case edgeFree =>
    refine ⟨_, rfl, s.dev.icu_pend hn n.isLt, fun k hk _ => ?_⟩
    rw [Dev.icu_of_free hn hp, Dev.rbit_setRbit_other _ _ _ _ _ _ (Nat.mod_lt _ (by decide)) (.inr hk)]
  case edgeAgain =>
    refine ⟨_, rfl, ?_, s.dev.icu_pend hn n.isLt⟩
    rw [Dev.icu_of_pending hn hp, Dev.rbit_setRbit_same _ _ _ _ (by decide)]
  case neverPending => exact congrArg (fun e => Host.Outcome.next { s with dev := e }) (Dev.icu_of_unassigned h1 h2)
  case clear => exact ⟨_, rfl, by rw [Dev.reg_setReg, if_pos rfl], fun off ho => by rw [Dev.reg_setReg, if_neg ho]⟩
  case swi => exact ⟨_, rfl, s.dev.swiWrite_pend j.isLt hj⟩
  case commit =>
    obtain ⟨hcand, hfirst⟩ := Dev.bestSource_spec hb
    obtain ⟨hpend, htop⟩ := Dev.candidate_spec hcand
    have hpair := Dev.commit_of_best hr hb
    have hb2 : (s.dev.commit .a).commit .b = s.dev.commit .a := Dev.commit_of_stopped (by rw [hpair, if_neg (by decide), hstop])
    refine ⟨_, rfl, ?_, ?_, hpend, htop, hfirst⟩
    · rw [hb2, hpair, if_pos rfl]
    · rw [hb2, hpair, if_neg (by decide)]
  case eoiTop =>
    subst ht
    refine ⟨_, rfl, ?_, ?_⟩
    · rw [eoi_of_top hs, Dev.setPair_pair, if_pos rfl]
    · rw [eoi_of_top hs, Dev.setPair_regs]
  case eoiOther =>
    refine ⟨_, rfl, ?_, ?_⟩
    · rw [eoi_of_other hs ht, Dev.pair_same ((Dev.event_cores ..).trans (Dev.setRbit_cores ..))]
    · rw [eoi_of_other hs ht, Dev.event_reg_icuSts, Dev.rbit_setRbit_same _ _ _ _ (by decide)]
  case locked =>
    refine ⟨_, exec_icuEnableChange_some n v s, ?_, ?_, ?_⟩
    · rw [Dev.srcWrite_of_locked hl, Dev.srcEnable_enable]
    · rw [Dev.srcWrite_of_locked hl, Dev.srcEnable_srcPrio]
    · rw [Dev.srcWrite_of_locked hl, Dev.srcEnable_rest 8 (by decide)]
  case unlocked =>
    refine ⟨_, exec_icuEnableChange_some n v s, ?_, ?_, ?_⟩
    · rw [Dev.srcWrite_of_unlocked hl hn, Dev.rbit_setFld_other _ (by decide) (by decide) (.inr (by decide)),
        Dev.rbit_setRbit_other _ _ _ _ _ _ (by decide) (.inr (by decide)), Dev.srcEnable_enable]
    · rw [Dev.srcWrite_of_unlocked hl hn, Dev.srcPrio, Dev.fld_setFld_same _ _ _ _ _ (by decide) (by decide), Nat.mod_eq_of_lt (bits_lt _ 7 4)]
    · rw [Dev.srcWrite_of_unlocked hl hn, Dev.rbit_setFld_other _ (by decide) (by decide) (.inr (by decide)), Dev.rbit_setRbit_same _ _ _ _ (by decide)]
  case gctl => exact ⟨_, rfl, Dev.gctlWrite_lock, Dev.gctlWrite_enables⟩
  case sent => exact ⟨_, _, _, exec_msixMessage ha k, congrArg Dev.out (Dev.msixSend_of_open ho), (congrArg Dev.regs (Dev.msixSend_of_open ho)).trans rfl⟩
  case pends =>
    refine ⟨_, exec_msixMessage ha k, ?_⟩
    rw [Dev.msixSend_of_masked ho]
    exact ⟨Dev.setRbit_out .., Dev.rbit_setRbit_same _ _ _ _ (Nat.mod_lt _ (by decide))⟩
  case quiet =>
    have hp' : ∀ k, k < 64 → (s.dev.setHead h { s.dev.head h with funcMask := false }).rbit (pbaOff h k) (k % 32) = false := fun k hk => by
      rw [Dev.rbit_same (Dev.setHead_regs ..), hp k hk]
    refine ⟨_, exec_msixUnmask_none h s, ?_, ?_⟩
    · rw [Dev.msixDrain_of_quiet hp', Dev.setHead_head, if_pos rfl]
    · rw [Dev.msixDrain_of_quiet hp', Dev.setHead_out]
  case drained =>
    obtain ⟨⟨a, w, hout⟩, hclear⟩ := Dev.msixDrain_of_pending (d := s.dev.setHead h { s.dev.head h with funcMask := false }) k.isLt
      (by rw [Dev.rbit_same (Dev.setHead_regs ..), hp]) (Dev.msixOpen_unmasked hon hd hm)
    exact ⟨a, w, _, exec_msixUnmask_none h s, hout, hclear⟩
  case vector =>
    exact ⟨_, exec_msixUnmask_some h v s, by rw [Dev.msixDrain_word v.isLt, Dev.rbit_setRbit_same _ _ _ _ (by decide)]⟩
  case floor => exact ⟨_, exec_fuseFloorRaise hr hi hs, rfl⟩

end Sys2Proof.Machine

/-!
PROOFS. O10 (R84) and O11 (R86, R88, R92): the stores of the line engine that a host changes. A whole sector of an invalidated range keeps no
valid line, because clearing a range takes the sector's 64 lines one after another (`Sector.clearRange_valid`).
-/
namespace Sys2Proof.Machine

theorem next_congr (s : State) {d e : Dev} (h : d = e) :
    (Host.Outcome.next { s with dev := d } : Host.Outcome State Fault Refusal) = .next { s with dev := e } := by rw [h]

/-! ## The scratch ways (R84) -/

section
variable {F : Fuses} {d : Dev}

theorem scratchWriteCtl_of_busy (hb : d.cache.scrBusy = true) (v : Nat) : scratchWriteCtl F d v = d := if_pos hb

theorem scratchWriteCtl_cache (hb : d.cache.scrBusy = false) (v : Nat) :
    (scratchWriteCtl F d v).cache.scrBusy = true ∧ (scratchWriteCtl F d v).cache.scrAct = d.cache.scrAct := by
  simp [scratchWriteCtl, hb]

theorem scratchWriteCtl_reg (hb : d.cache.scrBusy = false) (v off : Nat) : (scratchWriteCtl F d v).reg off =
    if off = LIN_SCR_CTL then BitVec.ofNat 32 (bits v 2 0 + 16 * bits v 6 4) else d.reg off := by
  simp [scratchWriteCtl, hb, Dev.reg_setReg]

theorem scratchCtl_lt (v : Nat) : bits v 2 0 + 16 * bits v 6 4 < 2 ^ 32 := by
  have := bits_lt v 2 0
  have := bits_lt v 6 4
  omega

end

/-- Settles O10. -/
theorem scratchChange : Obligations.SCRATCH_CHANGE := by
  refine ⟨fun h v s hb => ?starts, fun h v s hb => ?ignored, fun s hb => ?ends⟩
  case starts =>
    obtain ⟨hbusy, hact⟩ := scratchWriteCtl_cache (F := s.fuse) hb v.toNat
    refine ⟨_, rfl, hbusy, ?_, fun off ho => ?_, hact⟩
    · rw [scratchWriteCtl_reg hb, if_pos rfl, BitVec.toNat_ofNat, Nat.mod_eq_of_lt (scratchCtl_lt _)]
    · rw [scratchWriteCtl_reg hb, if_neg ho]
  case ignored => exact next_congr s (scratchWriteCtl_of_busy hb v.toNat)
  case ends =>
    refine ⟨_, exec_scratchChangeDone s, ?_⟩
    simp [Dev.scratchDone, hb]

/-! ## Compatibility mode (R86, R88) -/

section
variable {F : Fuses} {d : Dev} {h : Head}

theorem compatOn_of_dual (hd : portMode F d = .dualHead) : compatOn F d h = d.event F 0x2007 (hIdx h) := if_pos hd

theorem compatOn_of_free (hp : portMode F d ≠ .dualHead) (hb : d.cache.compatBusy = false) (hc : d.rbit LIN_CACHE_CFG 0 = false) :
    ((compatOn F d h).cache.compatBusy = true ∧ (compatOn F d h).cache.cmp = []) ∧ (compatOn F d h).rbit LIN_CACHE_CFG 0 = true := by
  rw [compatOn, if_neg hp, if_neg (by simp [hb, hc])]
  refine ⟨⟨rfl, rfl⟩, ?_⟩
  have hregs := (Touches.foldl (xs := (d.setRbit LIN_CACHE_CFG 0 true).cache.ways.filter fun e => e.1 % 12 == 0)
    (fun d e => d.toBallast_touches e.2.sec) (.refl [.cache] (d.setRbit LIN_CACHE_CFG 0 true))).same .regs (by decide)
  rw [Dev.rbit_same (Dev.setCache_regs ..), Dev.rbit_same hregs, Dev.rbit_setRbit_same _ _ _ _ (by decide)]

theorem Dev.emptyCmp_cmp (d : Dev) : d.emptyCmp.cache.cmp = [] := rfl

theorem Dev.emptyCmp_regs (d : Dev) : d.emptyCmp.regs = d.regs := d.emptyCmp_touches.same .regs (by decide)

theorem Dev.compatOff_of_on (hb : d.cache.compatBusy = false) (hc : d.rbit LIN_CACHE_CFG 0 = true) : d.compatOff =
    (d.setRbit LIN_CACHE_CFG 0 false).emptyCmp.setCache { (d.setRbit LIN_CACHE_CFG 0 false).emptyCmp.cache with compatBusy := true } :=
  if_neg (by simp [hb, hc])

theorem Dev.compatDone_of_busy (hb : d.cache.compatBusy = true) : d.compatDone =
    d.emptyCmp.setCache { d.emptyCmp.cache with compatBusy := false, compatAct := d.rbit LIN_CACHE_CFG 0 } := if_neg (by simp [hb])

theorem Dev.cmpEnt_setCmp (d : Dev) (n k : Nat) (x : CmpEntry) : (d.setCmp n x).cmpEnt k = if k = n then x else d.cmpEnt k :=
  Tbl.look_put ..

theorem Dev.cmpPin_of_room {n : Nat} (ha : d.cache.compatAct = true) (hu : (d.cmpEnt n).used = true) {on : Bool} (hr : on = true → d.pinned < 40) :
    d.cmpPin n on = d.setCmp n { d.cmpEnt n with pin := on } := by
  rw [Dev.cmpPin, if_neg (by simp [ha, hu]), if_neg (fun hfull => absurd (hr hfull.1) (Nat.not_lt.mpr hfull.2.2))]

end

/-! ## Invalidation (R92) -/

theorem Sector.foldl_dropLine (k : Nat) (l : List Nat) (hl : ∀ i ∈ l, i < 64) {lo hi : Nat} (s : Sector)
    (hr : ∀ i ∈ l, lo ≤ 64 * s.num + i ∧ 64 * s.num + i ≤ hi) :
    ((l.foldl (fun s i => if lo ≤ 64 * s.num + i ∧ 64 * s.num + i ≤ hi then s.dropLine i else s) s).valid.getLsbD k =
      (s.valid.getLsbD k && !l.contains k)) := by
  induction l generalizing s with
  | nil => simp
  | cons i l ih =>
    have hi : i < 64 := hl i List.mem_cons_self
    rw [List.foldl_cons, if_pos (hr i List.mem_cons_self), ih (fun j hj => hl j (List.mem_cons_of_mem _ hj)) (s.dropLine i)
      (fun j hj => hr j (List.mem_cons_of_mem _ hj))]
    have hstep : (s.dropLine i).valid.getLsbD k = (s.valid.getLsbD k && !(k == i)) := by
      by_cases hk : k < 64
      · simp only [Sector.dropLine, BitVec.getLsbD_and, BitVec.getLsbD_not, BitVec.getLsbD_ofNat, Nat.mod_eq_of_lt hi, Nat.testBit_two_pow, hk]
        rw [decide_eq_decide.mpr (eq_comm (a := i)), beq_eq_decide]
        rfl
      · simp [BitVec.getLsbD_of_ge _ _ (Nat.not_lt.mp hk)]
    rw [hstep, List.contains_cons, Bool.not_or, Bool.and_assoc]

/-- A sector that lies in the range as a whole keeps no valid line. -/
theorem Sector.clearRange_valid {s : Sector} {lo hi : Nat} (hlo : lo ≤ 64 * s.num) (hhi : 64 * s.num + 63 ≤ hi) : (s.clearRange lo hi).valid = 0 := by
  refine BitVec.eq_of_getLsbD_eq fun k hk => ?_
  rw [Sector.clearRange, Sector.foldl_dropLine k _ (fun i hi => List.mem_range.mp hi) s
    (fun i hi => by have := List.mem_range.mp hi; omega)]
  simp [hk]

theorem Sector.clearRange_num (s : Sector) (lo hi : Nat) : (s.clearRange lo hi).num = s.num :=
  List.foldlRecOn (List.range 64) _ (motive := fun t : Sector => t.num = s.num) rfl fun t ht i _ => by
    split
    · exact ht
    · exact ht

section
variable {d : Dev}

theorem Dev.invGo_of_free (hb : d.cache.invBusy = false) (hl : d.reg LIN_INV_LEN ≠ 0) {first : Nat}
    (hf : first = d.reg64 LIN_INV_BASE_LO % 2 ^ 44 / 4096 * 64) {last : Nat} (hlast : last = first + 64 * (d.reg LIN_INV_LEN).toNat - 1) :
    d.invGo = (d.invalidate first last).setCache { (d.invalidate first last).cache with
      invBusy := true, invOpen := (d.invalidate first last).cache.invOpen ++ [.host] } := by
  have hn : (d.reg LIN_INV_LEN).toNat ≠ 0 := fun h0 => hl (BitVec.eq_of_toNat_eq h0)
  subst hf hlast
  exact if_neg (by simp [hb, hn])

/-- What an invalidated sector of Ballast or transit is (R92). -/
def Sector.invalidated (lo hi : Nat) (s : Sector) : Sector := if decide (lo / 64 ≤ s.num ∧ s.num ≤ hi / 64) then s.clearRange lo hi else s

theorem Dev.invalidate_stores (d : Dev) (lo hi : Nat) :
    (d.invalidate lo hi).cache.ballast ++ (d.invalidate lo hi).cache.transit = (d.cache.ballast ++ d.cache.transit).map (Sector.invalidated lo hi) := by
  rw [List.map_append]
  rfl

theorem Sector.invalidated_valid {s : Sector} {n c : Nat} (hlo : n ≤ (s.invalidated (n * 64) (n * 64 + 64 * c - 1)).num)
    (hhi : (s.invalidated (n * 64) (n * 64 + 64 * c - 1)).num < n + c) : (s.invalidated (n * 64) (n * 64 + 64 * c - 1)).valid = 0 := by
  have hnum : (s.invalidated (n * 64) (n * 64 + 64 * c - 1)).num = s.num := by
    unfold Sector.invalidated
    split
    · exact s.clearRange_num ..
    · rfl
  rw [hnum] at hlo hhi
  rw [Sector.invalidated, if_pos (by simp; omega)]
  exact Sector.clearRange_valid (by omega) (by omega)

theorem silentOut_of_none {F : Fuses} (hs : ∀ c ∈ d.lci.cmds, c.silent = false) : silentOut F d = d := by
  have hnone : (d.lci.cmds.filter fun c => c.silent && decide (c.state = 4)) = [] := by
    rw [List.filter_eq_nil_iff]
    intro c hc
    simp [hs c hc]
  have hall : (d.lci.cmds.filter fun c => !(c.silent && decide (c.state = 4))) = d.lci.cmds := by
    rw [List.filter_eq_self]
    intro c hc
    simp [hs c hc]
  rw [silentOut, hnone, hall]
  rfl

theorem Dev.invDone_host (d : Dev) : d.invDone .host = d.invClose .host := if_neg fun h => h.1 rfl

theorem exec_invalidationDone_host {s : State} (hs : ∀ c ∈ s.dev.lci.cmds, c.silent = false) :
    exec (.invalidationDone .host) s = .next { s with dev := s.dev.invClose .host } :=
  next_congr s
    ((congrArg (silentOut s.fuse) s.dev.invDone_host).trans (silentOut_of_none (d := s.dev.invClose .host) hs))

end

/-- Settles O11. -/
theorem compatibilityAndInvalidation : Obligations.COMPATIBILITY_AND_INVALIDATION := by
  refine ⟨⟨fun h s hp hb hc => ?on, fun h s hp => ?dual, fun h s hb hc => ?off, fun s hb => ?done, fun h n s ha hu hr => ?pin,
    fun h n s ha hu => ?unpin⟩, fun h s hb hl => ?go, fun s ho hs => ?invDone⟩
  case on =>
    obtain ⟨⟨hbusy, hcmp⟩, hcfg⟩ := compatOn_of_free (h := h) hp hb hc
    exact ⟨_, rfl, hbusy, hcmp, hcfg, (compatOn_touches ..).same .gon (by decide)⟩
  case dual => exact ⟨_, rfl, by rw [compatOn_of_dual hp, Dev.event_cache], by rw [compatOn_of_dual hp, Dev.event_gon]⟩
  case off =>
    refine ⟨_, rfl, ?_, ?_, ?_⟩ <;> rw [Dev.compatOff_of_on hb hc]
    · rfl
    · rfl
    · rw [Dev.rbit_same (Dev.setCache_regs ..), Dev.rbit_same (Dev.emptyCmp_regs _), Dev.rbit_setRbit_same _ _ _ _ (by decide)]
  case done =>
    refine ⟨_, rfl, ?_⟩
    rw [Dev.compatDone_of_busy hb]
    exact ⟨rfl, rfl, rfl, s.dev.emptyCmp_regs⟩
  case pin =>
    refine ⟨_, rfl, ?_, fun k hk => ?_⟩ <;> rw [Dev.cmpPin_of_room ha hu (fun _ => hr), Dev.cmpEnt_setCmp]
    · rw [if_pos rfl]
    · rw [if_neg hk]
  case unpin =>
    refine ⟨_, rfl, ?_, fun k hk => ?_⟩ <;> rw [Dev.cmpPin_of_room (on := false) ha hu nofun, Dev.cmpEnt_setCmp]
    · rw [if_pos rfl]
    · rw [if_neg hk]
  case go =>
    refine ⟨_, rfl, ?_⟩
    rw [Dev.invGo_of_free hb hl rfl rfl]
    refine ⟨rfl, List.mem_append_right _ (List.mem_singleton.mpr rfl), fun x hx hlo hhi => ?_, rfl⟩
    rw [Dev.setCache_cache, Dev.invalidate_stores] at hx
    obtain ⟨y, -, rfl⟩ := List.mem_map.mp hx
    exact Sector.invalidated_valid hlo hhi
  case invDone =>
    refine ⟨_, exec_invalidationDone_host hs, ?_, ?_, rfl⟩
    · simp [Dev.invClose]
    · simp [Dev.invClose, ho]

end Sys2Proof.Machine

/-!
PROOFS. O12 (R98 to R103), O13 (R104 to R110) and O15 (R111 to R115): Tether, its schedule and its launch slots. Going on to a later instant
(`Dev.advance`) changes the time and, where a frame begins in between, the duty in force: `Dev.advance_tether` says so once.
-/
namespace Sys2Proof.Machine

/-! ## Going on to a later instant (R98, R108) -/

theorem Dev.reach_tether (d : Dev) (u : Tether) :
    (d.reach u).tether = { u with duty := if u.now / 10000 = d.tether.now / 10000 then u.duty else u.dutyNext } := by
  unfold Dev.reach
  split <;> rfl

/-- The instant that `Dev.advance` goes on to. -/
def Tether.laterOf (t : Tether) (x : Nat) : Nat := min (max t.now x) (2 ^ 64 - 1)

theorem Dev.advance_tether (d : Dev) (t : Nat) : (d.advance t).tether = { d.tether with
    now := d.tether.laterOf t,
    duty := if d.tether.laterOf t / 10000 = d.tether.now / 10000 then d.tether.duty else d.tether.dutyNext } := by
  unfold Dev.advance
  dsimp only
  split
  next h => rw [show d.tether.laterOf t = d.tether.now from h, if_pos rfl]
  next => rw [Dev.reach_tether, Dev.passed_tether]; rfl

theorem Dev.advance_now (d : Dev) (t : Nat) : (d.advance t).tether.now = min (max d.tether.now t) (2 ^ 64 - 1) := by
  rw [Dev.advance_tether]
  rfl

/-- What passes between two instants changes nothing on the media but how much of a frame's load caps is used (R159). -/
theorem Dev.advance_media (d : Dev) (t : Nat) : ∃ c, (d.advance t).media = { d.media with chan := c } := by
  unfold Dev.advance Dev.reach
  dsimp only
  split
  · exact ⟨_, rfl⟩
  · split
    · exact ⟨_, Dev.passed_media ..⟩
    · exact ⟨_, by rw [Dev.passed_media]⟩

theorem Dev.advance_dies (d : Dev) (t : Nat) : (d.advance t).media.die = d.media.die := by
  obtain ⟨c, hc⟩ := d.advance_media t
  rw [hc]

/-! ## Tether's sources (R98 to R103) -/

section
variable {d : Dev}

theorem Dev.setSrc_tether (d : Dev) (x : TimeSrc) : (d.setSrc x).tether = { d.tether with src := x } := by
  unfold Dev.setSrc
  split
  next h => rw [← h]
  next => rw [Dev.icu_tether]

theorem Dev.redue_tether (d : Dev) : d.redue.tether = d.tether := d.redue_touches.same .tether (by decide)

theorem Dev.ptmGot_tether (hs : d.tether.slow = false) (hc : d.rbit TTH_PTM_CFG 0 = true) (hu : d.ptmUp = true) (host : Nat) :
    ∃ l x, (d.ptmGot host).tether = { d.tether with
      offset := (host : Int) - d.tether.now, offsets := l, lastPtm := d.tether.now, src := x,
      rate := if d.tether.src = .free ∨ d.tether.now ≤ d.tether.lastPtm then d.tether.rate
        else ptmRate d.tether.rate ((host : Int) - d.tether.now - d.tether.offset) (d.tether.now - d.tether.lastPtm) } ∧
      (d.tether.src = .free ∨ d.tether.src = .holdover → x = .acquiring) := by
  rw [Dev.ptmGot, if_neg (by simp [hs, hc, hu])]
  dsimp only
  rw [Dev.redue_tether]
  split
  next => exact ⟨_, _, by rw [Dev.setSrc_tether, Dev.setHead_tether], fun _ => rfl⟩
  next hf =>
    have hnot : ¬ (d.tether.src = .free ∨ d.tether.src = .holdover) := fun h => hf (decide_eq_true h)
    split
    · exact ⟨_, _, by rw [Dev.setSrc_tether, Dev.setHead_tether], fun h => absurd h hnot⟩
    · exact ⟨_, _, Dev.setHead_tether .., fun h => absurd h hnot⟩

theorem ptmRate_bounds (r moved : Int) (span : Nat) : -2147484 ≤ ptmRate r moved span ∧ ptmRate r moved span ≤ 2147484 := by
  unfold ptmRate
  omega

theorem Dev.ptmHold_tether (hs : d.tether.src = .acquiring ∨ d.tether.src = .locked) :
    (d.ptmHold).tether.src = .holdover ∧ d.ptmHold.tether.rate = d.tether.rate ∧ d.ptmHold.tether.offset = d.tether.offset := by
  rw [Dev.ptmHold, if_pos hs]
  dsimp only
  rw [Dev.setSrc_tether]
  split
  · rw [Dev.advance_tether]
    exact ⟨rfl, rfl, rfl⟩
  · exact ⟨rfl, rfl, rfl⟩

theorem exec_tetherSave {s : State} (hs : s.dev.inService = true) :
    exec .tetherSave s = .next { s with dev := (s.dev.advance (s.dev.tether.lastSave + 60000000000)).lifePut } := congrArg Host.Outcome.next (if_pos hs)

end

/-- Settles O12. -/
theorem tetherSources : Obligations.TETHER_SOURCES := by
  refine ⟨fun h v s hc hlo hhi => ?rate, fun h v s hc => ?locked, fun s hs => ?handover, fun s hs => ?save, fun s hs hc hu => ?request,
    fun v s hs hc hu => ?result, fun s hs => ?holdover⟩
  case rate => exact next_congr s (if_neg (by simp [hc]; omega))
  case locked => exact next_congr s (if_pos (.inl hc))
  case handover =>
    refine ⟨_, rfl, ?_⟩
    rw [Dev.clockReturn, if_pos hs]
    exact ⟨rfl, rfl, rfl, rfl⟩
  case save =>
    refine ⟨_, exec_tetherSave hs, Dev.advance_now .., rfl, rfl, ?_⟩
    rw [Dev.lifePut, Dev.ringPut, Dev.keelPut, Dev.advance_keel]
    exact List.length_append
  case request =>
    refine ⟨_, rfl, ?_⟩
    rw [Dev.ptmTimer, if_pos (by simp [hs, hc, hu])]
    exact ⟨congrArg _ (Dev.advance_out ..), rfl⟩
  case result =>
    obtain ⟨l, x, ht, hx⟩ := Dev.ptmGot_tether hs hc hu v.toNat
    refine ⟨_, rfl, ?_⟩
    rw [ht]
    refine ⟨rfl, rfl, fun hf hl => ?_, fun hf => if_pos (.inl hf), hx⟩
    rw [if_neg (not_or.mpr ⟨hf, Nat.not_le.mpr hl⟩)]
    exact ptmRate_bounds ..
  case holdover => exact ⟨_, rfl, Dev.ptmHold_tether hs⟩

/-! ## The phase schedule (R104 to R108) -/

theorem dueMultiple_cases (now p done : Nat) (hp : 0 < p) : dueMultiple now p done % p = 0 ∧ now ≤ dueMultiple now p done ∧
    dueMultiple now p done ≤ now + p := by
  unfold dueMultiple
  split
  next h => exact ⟨h.1, Nat.le_refl _, Nat.le_add_right _ _⟩
  next =>
    have hlt : now < (now / p + 1) * p := Nat.lt_mul_of_div_lt (Nat.lt_succ_self _) hp
    have hle : now / p * p ≤ now := Nat.div_mul_le_self ..
    exact ⟨Nat.mul_mod_left .., by omega, by rw [Nat.succ_mul]; omega⟩

theorem dueMultiple_now {now p done : Nat} (h : now % p = 0) (hd : done ≤ now / p) : dueMultiple now p done = now := if_pos ⟨h, hd⟩

theorem dueMultiple_next {now p done : Nat} (hd : now / p < done) : dueMultiple now p done = (now / p + 1) * p :=
  if_neg fun h => absurd h.2 (Nat.not_le.mpr hd)

section
variable {d : Dev}

theorem Dev.advance_to (d : Dev) {t : Nat} (ht : d.tether.now ≤ t) (hlt : t < 2 ^ 64) : (d.advance t).tether.now = t := by
  rw [Dev.advance_now]
  omega

theorem Dev.tick_now (d : Dev) (id : Nat) {p : Nat} (hp : 0 < p) (hlt : d.tether.now + p < 2 ^ 64) :
    (d.tick id p).tether.now = dueMultiple d.tether.now p (Tbl.look 0 d.tether.ticks id) := by
  obtain ⟨-, hle, hge⟩ := dueMultiple_cases d.tether.now p (Tbl.look 0 d.tether.ticks id) hp
  exact d.advance_to hle (Nat.lt_of_le_of_lt hge hlt)

theorem Dev.tick_ticks (d : Dev) (id p : Nat) : Tbl.look 0 (d.tick id p).tether.ticks id = (d.tick id p).tether.now / p + 1 := Tbl.look_put_same ..

/-- What a frame counts for each quadrant (R401). -/
def Dev.frameCount (f : Nat) (d : Dev) (q : Nat) : Dev :=
  let e := if dutyAdmits f (d.duty q) then d else d.count (0x10B + 0x40 * q)
  if e.windowOn q then e.count (0x10C + 0x40 * q) else e

theorem Dev.frameCount_touches (f : Nat) (d : Dev) (q : Nat) : Touches [.regs, .pmc] d (Dev.frameCount f d q) := by
  have h : Touches [.regs, .pmc] d (if dutyAdmits f (d.duty q) then d else d.count (0x10B + 0x40 * q)) := .ite (.refl ..) (Dev.count_touches ..)
  exact .ite (.comp (Dev.count_touches ..) (List.Subset.refl _) h) h

/-- A frame's start without what it counts. -/
def Dev.atFrame (d : Dev) : Dev :=
  let d1 := d.advance (dueMultiple d.tether.now 10000 d.tether.frameDone)
  { d1 with tether := { d1.tether with frameDone := d1.tether.now / 10000 + 1 } }

theorem Dev.frameBegin_counts (d : Dev) : Touches [.regs, .pmc] d.atFrame d.frameBegin :=
  .foldl (fun d q => Dev.frameCount_touches _ d q) (.refl ..)

theorem Dev.atFrame_duty (hlt : d.tether.now + 10000 < 2 ^ 64) (h : d.tether.now < d.atFrame.tether.now) :
    d.atFrame.tether.duty = d.tether.dutyNext := by
  obtain ⟨hmul, hle, hge⟩ := dueMultiple_cases d.tether.now 10000 d.tether.frameDone (by decide)
  have hnow : d.atFrame.tether.now = dueMultiple d.tether.now 10000 d.tether.frameDone := d.advance_to hle (by omega)
  have hlater : d.tether.laterOf (dueMultiple d.tether.now 10000 d.tether.frameDone) = dueMultiple d.tether.now 10000 d.tether.frameDone := by
    rw [Tether.laterOf]
    omega
  rw [Dev.atFrame, Dev.advance_tether, hlater]
  exact if_neg (by omega)

theorem Dev.atFrame_duty_now (h : d.atFrame.tether.now = d.tether.now) : d.atFrame.tether.duty = d.tether.duty := by
  have hlater : d.tether.laterOf (dueMultiple d.tether.now 10000 d.tether.frameDone) = d.tether.now :=
    (d.advance_now _).symm.trans h
  rw [Dev.atFrame, Dev.advance_tether, hlater]
  exact if_pos rfl

/-- When a program that is sent now can start (R126). -/
def Dev.startAfter (d : Dev) (m sent : Nat) : Nat := (d.die m).running.elim sent fun p => max sent (p.start + tProg p.mode)

theorem Dev.programGate_eq (F : Fuses) (d : Dev) (m : Nat) (mode : ProgMode) (buf : Bool) (last err : Nat) :
    d.programGate F m mode buf last err =
      if d.populated F m && d.gate m (d.startAfter m (max d.tether.now (d.chan (m / 8)).caUntil + 4)) (tProg mode) && d.sharesAdmit m buf then
        (d.sharesCount m buf).sendFrame { m := m, payload := payProg mode buf last } err
      else d := by
  unfold Dev.programGate Dev.startAfter
  dsimp only
  cases (d.die m).running <;> rfl

/-- A counted overrun on a device that has gone on to the phase's end. -/
def Dev.overrunNoted (F : Fuses) (d : Dev) (m : Nat) : Dev :=
  ((d.setCtl m { d.ctl m with overruns := d.tether.now :: (d.ctl m).overruns.filter fun t => decide (d.tether.now < t + 10 ^ 9) }).bump
    TTH_OVR_CNT |>.event F 0x4001 m).count (0x10A + 0x40 * (m / 80))

theorem Dev.overrun_of_running {F : Fuses} {m : Nat} {p : Prog} (hp : (d.die m).running = some p) (hs : d.tether.schedule = true) :
    d.overrun F m = (d.advance (nextMultiple p.start 2000)).overrunNoted F m := by
  rw [Dev.overrun, hp]
  exact if_neg (by simp [hs])

end

/-! ## Test windows (R109, R110) -/

section
variable {F : Fuses} {d : Dev}

theorem narrowEyeStep_false_tether (n : Nat) (die : Option (Fin 8)) : (narrowEyeStep F d n false die).tether = d.tether := by
  unfold narrowEyeStep
  dsimp only
  split
  · rfl
  · rfl

/-- The instant of a test window's start (R109). -/
def Dev.atWindow (d : Dev) : Dev :=
  let da := d.advance (dueMultiple d.tether.now 1000000 d.tether.winDone)
  { da with tether := { da.tether with winDone := da.tether.now / 1000000 + 1 } }

/-- The window that opens then on channel n. -/
def Dev.windowOpened (d : Dev) (n : Nat) : Dev :=
  { d with tether := { d.tether with twOpen := true, twIntr := false, twChan := n, twFirst := false,
                                     twCount := (d.tether.twCount + 1) % 65536, twEnd := d.tether.now + 20000 } }

theorem windowOpen_eq (F : Fuses) (d : Dev) (eye : Bool) (die : Option (Fin 8)) : windowOpen F d eye die =
    if !d.atWindow.inService || !d.atWindow.rbit TTH_TWIN_CFG 0 || d.atWindow.tether.twOpen then d.atWindow
    else match d.atWindow.windowNext F with
      | none => d.atWindow
      | some n => narrowEyeStep F ((d.atWindow.windowOpened n).icu 87) n eye die := rfl

theorem windowOpen_of_next {n : Nat} (hs : d.atWindow.inService = true) (hc : d.atWindow.rbit TTH_TWIN_CFG 0 = true)
    (ho : d.atWindow.tether.twOpen = false) (hn : d.atWindow.windowNext F = some n) (eye : Bool) (die : Option (Fin 8)) :
    windowOpen F d eye die = narrowEyeStep F ((d.atWindow.windowOpened n).icu 87) n eye die := by
  rw [windowOpen_eq, if_neg (by simp [hs, hc, ho]), hn]

theorem Dev.inService_same {e : Dev} (h : e.pwr = d.pwr) : e.inService = d.inService := by rw [Dev.inService, Dev.inService, h]

theorem Dev.windowShut_tether (ho : d.tether.twOpen = true) :
    d.windowShut.tether = { (d.advance d.tether.twEnd).tether with twOpen := false } := by
  rw [Dev.windowShut, if_pos ho]
  exact Dev.icu_tether ..

theorem Dev.windowAbort_tether (ho : d.tether.twOpen = true) :
    (d.windowAbort (d.tether.twChan / 10)).tether = { d.tether with twOpen := false, twIntr := true } := by
  rw [Dev.windowAbort, if_pos (by simp [Dev.windowOn, ho])]
  dsimp only
  rw [Dev.icu_tether, (Dev.meet_touches ..).same .tether (by decide)]
  split <;> rfl

theorem Dev.windowAbort_of_closed (ho : d.tether.twOpen = false) (q : Nat) : d.windowAbort q = d := if_neg (by simp [Dev.windowOn, ho])

end

/-- Settles O13. -/
theorem scheduleAndTestWindows : Obligations.SCHEDULE_AND_TEST_WINDOWS := by
  refine ⟨⟨fun s hlt => ?phase, fun s hlt => ?frame, fun m mode buf last sent t s hsent ht => ⟨fun hpop hgate hshare => ?admitted, fun hno => ?notSent⟩,
    fun m s p hp hs => ?overrun⟩, fun die s n => ?opens, fun s ho => ?closes, fun s ho => ?aborts, fun s ho => ⟨?shut, ?noAbort⟩⟩
  case phase =>
    have hnow : (s.dev.tick 1 2000).tether.now = _ := s.dev.tick_now 1 (by decide) hlt
    obtain ⟨hmul, hle, hge⟩ := dueMultiple_cases s.dev.tether.now 2000 (Tbl.look 0 s.dev.tether.ticks 1) (by decide)
    refine ⟨_, rfl, by rw [hnow, hmul], by rw [hnow]; exact hle, by rw [hnow]; exact hge, Dev.tick_ticks .., fun h0 hd => ?_, fun hd => ?_,
      Dev.advance_dies .., Dev.advance_out ..⟩
    · rw [hnow, dueMultiple_now h0 hd]
    · rw [hnow, dueMultiple_next hd]
  case frame =>
    have hsame := s.dev.frameBegin_counts
    obtain ⟨-, hle, hge⟩ := dueMultiple_cases s.dev.tether.now 10000 s.dev.tether.frameDone (by decide)
    refine ⟨_, rfl, ?_⟩
    rw [hsame.same .tether (by decide), hsame.same .media (by decide), hsame.same .out (by decide)]
    exact ⟨s.dev.advance_to hle (by omega), rfl, Dev.atFrame_duty hlt, Dev.atFrame_duty_now, Dev.advance_dies .., Dev.advance_out ..⟩
  case admitted =>
    subst hsent ht
    exact ⟨_, next_congr s ((Dev.programGate_eq ..).trans (if_pos (by simp [hpop, hshare]; exact hgate))), rfl⟩
  case notSent =>
    subst hsent ht
    refine next_congr s ((Dev.programGate_eq ..).trans (if_neg ?_))
    rcases hno with h | h | h
    · simp [h]
    · simp [show s.dev.gate m.val (s.dev.startAfter m.val _) (tProg mode) = false from h]
    · simp [h]
  case overrun =>
    refine ⟨_, next_congr s (Dev.overrun_of_running hp hs), ?_⟩
    simp [Dev.overrunNoted, Dev.advance_now, nextMultiple, Dev.setCtl, Dev.advance_dies, Dev.ctl]
  case opens =>
    intro da d hsvc hcfg ho hnext
    have hin : d.inService = true := by rw [Dev.inService_same (show d.pwr = s.dev.pwr from Dev.advance_pwr ..), hsvc]
    have hclosed : d.tether.twOpen = false := by
      show da.tether.twOpen = false
      rw [Dev.advance_tether, ho]
    refine ⟨_, next_congr s (windowOpen_of_next hin hcfg hclosed hnext false die), ?_⟩
    have hcount : s.dev.atWindow.tether.twCount = s.dev.tether.twCount := by
      show (s.dev.advance _).tether.twCount = _
      rw [Dev.advance_tether]
    rw [narrowEyeStep_false_tether, Dev.icu_tether]
    exact ⟨rfl, rfl, rfl, rfl, congrArg (fun c => (c + 1) % 65536) hcount⟩
  case closes =>
    refine ⟨_, rfl, ?_⟩
    rw [Dev.windowShut_tether ho]
    exact ⟨rfl, Dev.advance_now ..⟩
  case aborts =>
    refine ⟨_, rfl, ?_⟩
    rw [Dev.windowAbort_tether ho]
    exact ⟨rfl, rfl, rfl⟩
  case shut => exact next_congr s (if_neg (by simp [ho]))
  case noAbort => exact next_congr s (Dev.windowAbort_of_closed ho _)

/-! ## Launch slots (R111 to R115) -/

section
variable {F : Fuses} {d : Dev} {h : Option Head} {n v : Nat}

theorem slotWrite_of_writer (hl : d.live = true) (hw : slotWriter F d h n = true) :
    slotWrite F d h n v = if bit v 31 then slotArm F d n v else slotDisarm F d n v := if_neg (by simp [hl, hw])

theorem slotWrite_of_other (hw : slotWriter F d h n = false) : slotWrite F d h n v = d := if_pos (.inr (by simp [hw]))

/-- The armed word of a slot's action register keeps the rest of what was written below bit 31 (R111). -/
theorem slotWord_bits (old v n : Nat) : slotWord old v n / 2 ^ 30 = bits v 30 30 := by
  have ha : (if (decide (6 < bits v 3 0) || (decide (n < 32) && (bits v 3 0 == 1 || bits v 3 0 == 2 || bits v 3 0 == 4))) = true then
      bits old 3 0 else bits v 3 0) < 2 ^ 4 := by
    split
    · exact bits_lt old 3 0
    · exact bits_lt v 3 0
  have hb := bits_lt v 27 8
  unfold slotWord
  dsimp only
  omega

/-- A slot that has just been armed, before its due time is worked out. -/
def Dev.armed (d : Dev) (n v : Nat) : Dev :=
  ((d.setReg (TTH_LAUNCH_ACT n) (BitVec.ofNat 32 (slotWord (d.reg (TTH_LAUNCH_ACT n)).toNat v n + 2 ^ 31))).setReg (TTH_LAUNCH_STS n) 0).slotState n 1

theorem Dev.armed_act (hv : bit v 30 = false) :
    (d.armed n v).rbit (TTH_LAUNCH_ACT n) 31 = true ∧ (d.armed n v).rbit (TTH_LAUNCH_ACT n) 30 = false := by
  have hreg : (d.armed n v).reg (TTH_LAUNCH_ACT n) = BitVec.ofNat 32 (slotWord (d.reg (TTH_LAUNCH_ACT n)).toNat v n + 2 ^ 31) := by
    have hne : TTH_LAUNCH_ACT n ≠ TTH_LAUNCH_STS n := by unfold TTH_LAUNCH_ACT TTH_LAUNCH_STS; omega
    rw [Dev.armed, Dev.slotState, Dev.reg_setFld_other _ _ _ _ _ _ hne, Dev.reg_setReg, if_neg hne, Dev.reg_setReg, if_pos rfl]
  have hword := slotWord_bits (d.reg (TTH_LAUNCH_ACT n)).toNat v n
  have hlow : slotWord (d.reg (TTH_LAUNCH_ACT n)).toNat v n < 2 ^ 30 := by
    have hb : bits v 30 30 < 2 := bits_lt v 30 30
    have hne : bits v 30 30 ≠ 1 := of_decide_eq_false hv
    omega
  rw [Dev.rbit, Dev.rbit, hreg, BitVec.toNat_ofNat, bit_eq, bit_eq, bits, bits]
  exact ⟨decide_eq_true (by omega), decide_eq_false (by omega)⟩

/-- Arming writes no register of the slot's time (R111). -/
theorem Dev.armed_reg {off : Nat} (ha : off ≠ TTH_LAUNCH_ACT n) (hs : off ≠ TTH_LAUNCH_STS n) : (d.armed n v).reg off = d.reg off := by
  rw [Dev.armed, Dev.slotState, Dev.reg_setFld_other _ _ _ _ _ _ hs, Dev.reg_setReg, if_neg hs, Dev.reg_setReg, if_neg ha]

theorem Dev.armed_dueOf (hv : bit v 30 = false) : (d.armed n v).dueOf n = (d.reg64 (TTH_LAUNCH_TIME_LO n) : Int) := by
  have hne (k : Nat) (hk : k < 8) : TTH_LAUNCH_TIME_LO n + k ≠ TTH_LAUNCH_ACT n ∧ TTH_LAUNCH_TIME_LO n + k ≠ TTH_LAUNCH_STS n := by
    unfold TTH_LAUNCH_TIME_LO TTH_LAUNCH_ACT TTH_LAUNCH_STS
    omega
  have hlo : (d.armed n v).reg (TTH_LAUNCH_TIME_LO n) = d.reg (TTH_LAUNCH_TIME_LO n) := Dev.armed_reg (hne 0 (by decide)).1 (hne 0 (by decide)).2
  rw [Dev.dueOf, (Dev.armed_act hv).2, if_neg (by decide), Dev.reg64, Dev.reg64, hlo, Dev.armed_reg (hne 4 (by decide)).1 (hne 4 (by decide)).2]

theorem Dev.setDue_due (d : Dev) (n : Nat) (t : Int) : (d.setDue n t).due n = t := congrArg Launch.due (Tbl.look_put_same ..)

theorem slotArm_eq (F : Fuses) (d : Dev) (n v : Nat) : slotArm F d n v =
    if d.rbit (TTH_LAUNCH_ACT n) 31 then d
    else if ((d.armed n v).setDue n ((d.armed n v).dueOf n)).due n < d.tether.now + 100 then
      slotFire F ((d.armed n v).setDue n ((d.armed n v).dueOf n)) n true false
    else (d.armed n v).setDue n ((d.armed n v).dueOf n) := rfl

theorem slotArm_of_ahead (ha : d.rbit (TTH_LAUNCH_ACT n) 31 = false) (hv : bit v 30 = false)
    (ht : d.tether.now + 100 ≤ d.reg64 (TTH_LAUNCH_TIME_LO n)) :
    slotArm F d n v = (d.armed n v).setDue n (d.reg64 (TTH_LAUNCH_TIME_LO n)) := by
  have hdue : ((d.armed n v).setDue n ((d.armed n v).dueOf n)).due n = (d.reg64 (TTH_LAUNCH_TIME_LO n) : Int) := by
    rw [Dev.setDue_due, Dev.armed_dueOf hv]
  rw [slotArm_eq, if_neg (by simp [ha]), if_neg (by rw [hdue]; omega), Dev.armed_dueOf hv]

theorem slotDisarm_of_early (ha : d.rbit (TTH_LAUNCH_ACT n) 31 = true) (ht : (d.tether.now : Int) < d.due n) :
    slotDisarm F d n v = (d.setRbit (TTH_LAUNCH_ACT n) 31 false).slotState n 0 := by
  rw [slotDisarm, if_pos ha, if_neg (by omega)]

theorem slotDue_of_first (ha : d.rbit (TTH_LAUNCH_ACT n) 31 = true) (hl : d.live = true) (hf : d.slotFirst n = true)
    (ht : (d.tether.now : Int) ≤ d.due n) : slotDue F d n = slotFire F (d.advance (d.due n).toNat) n false false := by
  rw [slotDue, if_neg (by simp [ha, hl, hf]), if_neg (by omega), decide_eq_false (by omega)]

theorem Dev.gpioEnd_of_pulse {pin t : Nat} (hp : (Tbl.look {} d.gpio pin).pulseEnd = some t) : d.gpioEnd pin =
    ({ d.advance t with gpio := Tbl.put {} (d.advance t).gpio pin { Tbl.look ({} : Gpio) d.gpio pin with high := false, pulseEnd := none } }).emit
      (.gpio pin false) := by
  rw [Dev.gpioEnd, hp]

end

/-- Settles O15. -/
theorem launchSlotEvents : Obligations.LAUNCH_SLOT_EVENTS := by
  refine ⟨fun h n v s hl hw h31 h30 ha ht => ?arms, fun h n v s hl hw h31 ha ht => ?disarms, fun h n v s hw => ?notWriter,
    fun n s hl ha hf ht => ?fires, fun pin s t hp => ?pulse⟩
  case arms =>
    have heq : slotWrite s.fuse s.dev h n.val v.toNat = (s.dev.armed n v.toNat).setDue n (s.dev.reg64 (TTH_LAUNCH_TIME_LO n)) := by
      rw [slotWrite_of_writer hl hw, if_pos h31, slotArm_of_ahead ha h30 ht]
    refine ⟨_, next_congr s heq, ?_, ?_, Dev.setDue_due .., rfl, rfl⟩
    · rw [Dev.rbit_same (Dev.setDue_regs ..), (Dev.armed_act h30).1]
    · rw [Dev.fld_same (Dev.setDue_regs ..)]
      exact Dev.fld_setFld_same _ _ _ _ _ (by decide) (by decide)
  case disarms =>
    have heq : slotWrite s.fuse s.dev h n.val v.toNat = (s.dev.setRbit (TTH_LAUNCH_ACT n) 31 false).slotState n 0 := by
      rw [slotWrite_of_writer hl hw, if_neg (by simp [h31]), slotDisarm_of_early ha ht]
    refine ⟨_, next_congr s heq, ?_, Dev.fld_setFld_same _ _ _ _ _ (by decide) (by decide), rfl, rfl⟩
    rw [Dev.slotState, Dev.rbit_setFld_other _ (by decide) (by decide) (.inl (by unfold TTH_LAUNCH_ACT TTH_LAUNCH_STS; omega)),
      Dev.rbit_setRbit_same _ _ _ _ (by decide)]
  case notWriter => exact ⟨next_congr s (slotWrite_of_other hw), next_congr s (slotWrite_of_other hw)⟩
  case fires => exact next_congr s (congrArg (silentOut s.fuse) (slotDue_of_first ha hl hf ht))
  case pulse =>
    refine ⟨_, next_congr s (Dev.gpioEnd_of_pulse hp), congrArg _ (Dev.advance_out ..), ?_, ?_, Dev.advance_now ..⟩
    · exact congrArg Gpio.high (Tbl.look_put_same ..)
    · exact congrArg Gpio.pulseEnd (Tbl.look_put_same ..)

end Sys2Proof.Machine

/-!
PROOFS. Rules about the metadata of tracts and about commands, and O16 (R286, R288) and O31 (R248). A line that enters the metadata cache may push
a dirty line out to media, but never changes the metadata in force (`Dev.tcTouch_cur`); a header also keeps the header bit of its tract's entry
right (`Dev.ent_setHdr`). A command that has ended stays as it ended.
-/
namespace Sys2Proof.Machine

/-! ## The metadata in force (R198 to R203) -/

section
variable (d : Dev) (t u : Nat)

@[simp] theorem Dev.tcTouch_cur (id : Nat) (dirty : Bool) : (d.tcTouch id dirty).tracts.cur = d.tracts.cur := by
  unfold Dev.tcTouch
  dsimp only
  split <;> rfl

@[simp] theorem Dev.setMeta_cur (m : Meta) : (d.setMeta m).tracts.cur = m := rfl

theorem Dev.setEnt_cur (e : TEntry) : (d.setEnt t e).tracts.cur = { d.tracts.cur with ent := Tbl.put {} d.tracts.cur.ent t e } := Dev.tcTouch_cur ..

theorem Dev.setPhys_cur (g i : Nat) (r : PhysRec) :
    (d.setPhys g i r).tracts.cur = { d.tracts.cur with phys := Tbl.put {} d.tracts.cur.phys (physKey g i) r } := Dev.tcTouch_cur ..

theorem Dev.fixHdr_cur : ∃ b, (d.fixHdr t).tracts.cur = { d.tracts.cur with ent := b } ∧
    ∃ x, ∀ k, Tbl.look {} b k = if k = t then { d.ent t with hdr := x } else d.ent k := by
  unfold Dev.fixHdr
  dsimp only
  split
  next h =>
    refine ⟨_, rfl, (d.ent t).hdr, fun k => ?_⟩
    split
    next hk => rw [hk, Dev.ent]
    next => rfl
  next => exact ⟨_, Dev.setEnt_cur .., _, fun k => Tbl.look_put ..⟩

theorem Dev.setHdr_cur (h : THeader) : ∃ b, (d.setHdr t h).tracts.cur =
    { d.tracts.cur with hdr := Tbl.put {} d.tracts.cur.hdr t h, ent := b } ∧
    ∃ x, ∀ k, Tbl.look {} b k = if k = t then { d.ent t with hdr := x } else d.ent k := by
  obtain ⟨b, hb, x, hx⟩ := Dev.fixHdr_cur ((d.setMeta { d.tracts.cur with hdr := Tbl.put {} d.tracts.cur.hdr t h }).tcTouch (headerLine t) true) t
  refine ⟨b, by rw [Dev.setHdr, hb, Dev.tcTouch_cur, Dev.setMeta_cur], x, fun k => ?_⟩
  simpa [Dev.ent] using hx k

@[simp] theorem Dev.ent_setMeta (m : Meta) : (d.setMeta m).ent u = Tbl.look {} m.ent u := rfl

@[simp] theorem Dev.ent_tcTouch (id : Nat) (dirty : Bool) : (d.tcTouch id dirty).ent u = d.ent u := by rw [Dev.ent, Dev.tcTouch_cur, Dev.ent]

theorem Dev.ent_setEnt (e : TEntry) : (d.setEnt t e).ent u = if u = t then e else d.ent u := by
  rw [Dev.ent, Dev.setEnt_cur, Dev.ent]
  exact Tbl.look_put ..

theorem Dev.ent_setPhys (g i : Nat) (r : PhysRec) : (d.setPhys g i r).ent u = d.ent u := by
  rw [Dev.ent, Dev.setPhys_cur, Dev.ent]

/-- A written header changes only the header bit of its tract's entry (R203). -/
theorem Dev.ent_setHdr (h : THeader) : ∃ x, ∀ k, (d.setHdr t h).ent k = if k = t then { d.ent t with hdr := x } else d.ent k := by
  obtain ⟨b, hb, x, hx⟩ := d.setHdr_cur t h
  exact ⟨x, fun k => by rw [Dev.ent, hb, hx]⟩

theorem Dev.hdr_setHdr (h : THeader) : (d.setHdr t h).hdr u = if u = t then h else d.hdr u := by
  obtain ⟨b, hb, -⟩ := d.setHdr_cur t h
  rw [Dev.hdr, hb, Dev.hdr]
  exact Tbl.look_put ..

theorem Dev.hdr_setEnt (e : TEntry) : (d.setEnt t e).hdr u = d.hdr u := by rw [Dev.hdr, Dev.setEnt_cur, Dev.hdr]

theorem Dev.hdr_setPhys (g i : Nat) (r : PhysRec) : (d.setPhys g i r).hdr u = d.hdr u := by rw [Dev.hdr, Dev.setPhys_cur, Dev.hdr]

theorem Dev.phys_setEnt (e : TEntry) (g i : Nat) : (d.setEnt t e).phys g i = d.phys g i := by rw [Dev.phys, Dev.setEnt_cur, Dev.phys]

theorem Dev.phys_setHdr (h : THeader) (g i : Nat) : (d.setHdr t h).phys g i = d.phys g i := by
  obtain ⟨b, hb, -⟩ := d.setHdr_cur t h
  rw [Dev.phys, hb, Dev.phys]

theorem Dev.phys_setPhys_same (g i : Nat) (r : PhysRec) : (d.setPhys g i r).phys g i = r := by
  rw [Dev.phys, Dev.setPhys_cur]
  exact Tbl.look_put_same ..

theorem Dev.wbits_setEnt (e : TEntry) : (d.setEnt t e).wbits u = d.wbits u := by rw [Dev.wbits, Dev.setEnt_cur, Dev.wbits]

theorem Dev.wbits_setHdr (h : THeader) : (d.setHdr t h).wbits u = d.wbits u := by
  obtain ⟨b, hb, -⟩ := d.setHdr_cur t h
  rw [Dev.wbits, hb, Dev.wbits]

theorem Dev.wbits_setPhys (g i : Nat) (r : PhysRec) : (d.setPhys g i r).wbits u = d.wbits u := by rw [Dev.wbits, Dev.setPhys_cur, Dev.wbits]

theorem Dev.foldl_tcTouch_cur {α : Type} (l : List α) (id : α → Nat) (dirty : Bool) :
    (l.foldl (fun d i => d.tcTouch (id i) dirty) d).tracts.cur = d.tracts.cur :=
  List.foldlRecOn l _ (motive := fun e : Dev => e.tracts.cur = d.tracts.cur) rfl fun _ he _ _ => (Dev.tcTouch_cur ..).trans he

end

/-! ## Commands that end (R293, R294) -/

section
variable {d e : Dev} {h status progress : Nat} {result : List Nat}

/-- A command that has ended, and what a queue pair still has to post, stay (R293). -/
structure Dev.KeepsEnded (d e : Dev) : Prop where
  ended : ∀ c ∈ d.lci.cmds, c.state = 4 → c ∈ e.lci.cmds
  out : ∀ n, (d.qp n).out ⊆ (e.qp n).out

theorem Dev.KeepsEnded.refl (d : Dev) : d.KeepsEnded d := ⟨fun _ hc _ => hc, fun _ => List.Subset.refl _⟩

theorem Dev.KeepsEnded.comp {f : Dev} (g : e.KeepsEnded f) (h : d.KeepsEnded e) : d.KeepsEnded f :=
  ⟨fun c hc h4 => g.ended c (h.ended c hc h4) h4, fun n => List.Subset.trans (h.out n) (g.out n)⟩

theorem Dev.KeepsEnded.completed (k : d.KeepsEnded e) (hd : d.Completed h status progress result) : e.Completed h status progress result := by
  obtain ⟨⟨c, hc, hh, h4, hrest⟩, hout⟩ := hd
  exact ⟨⟨c, k.ended c hc h4, hh, h4, hrest⟩, k.out _ hout⟩

/-- A command with what it ended with (R293, R294). -/
def Cmd.ended (c : Cmd) (status progress : Nat) (result : List Nat) : Cmd :=
  { c with state := 4, status := status, progress := progress, result := result, slot := none, tag := none, data := [] }

/-- A handle whose completion its queue pair has to post (R293). -/
def Dev.posts (d : Dev) (h : Nat) : Dev :=
  let q := d.qp (qpOf h)
  (if 32 ≤ q.out.length then d.count 0x282 else d).setQp (qpOf h) { q with out := q.out ++ [h] }

theorem Dev.finishOne_eq (d : Dev) (h status progress : Nat) (result : List Nat) : d.finishOne h status progress result =
    match d.cmd h with
    | none => d
    | some c => if c.silent then d.mapCmd h (·.ended status progress result) else (d.mapCmd h (·.ended status progress result)).posts h := rfl

theorem Dev.posts_cmds (d : Dev) (h : Nat) : (d.posts h).lci.cmds = d.lci.cmds := by
  unfold Dev.posts
  dsimp only [Dev.setQp]
  split
  · rw [Dev.count_lci]
  · rfl

theorem Dev.posts_qp (d : Dev) (h n : Nat) :
    (d.posts h).qp n = if n = qpOf h then { d.qp (qpOf h) with out := (d.qp (qpOf h)).out ++ [h] } else d.qp n := by
  have hput : (d.posts h).lci.qp = Tbl.put {} d.lci.qp (qpOf h) { d.qp (qpOf h) with out := (d.qp (qpOf h)).out ++ [h] } := by
    unfold Dev.posts
    dsimp only [Dev.setQp]
    split
    · rw [Dev.count_lci]
    · rfl
  rw [Dev.qp, hput]
  exact Tbl.look_put ..

theorem Dev.KeepsEnded.posts (d : Dev) (h : Nat) : d.KeepsEnded (d.posts h) := by
  refine ⟨fun c hc _ => by rw [Dev.posts_cmds]; exact hc, fun n => ?_⟩
  rw [Dev.posts_qp]
  split
  next hn => subst hn; exact List.subset_append_left ..
  next => exact List.Subset.refl _

theorem Dev.KeepsEnded.mapCmd (d : Dev) (h : Nat) (f : Cmd → Cmd) : d.KeepsEnded (d.mapCmd h f) :=
  ⟨fun c hc h4 => List.mem_map.mpr ⟨c, hc, if_neg (by simp [h4])⟩, fun _ => List.Subset.refl _⟩

theorem Dev.KeepsEnded.finishOne (d : Dev) (h status progress : Nat) (result : List Nat) : d.KeepsEnded (d.finishOne h status progress result) := by
  rw [Dev.finishOne_eq]
  split
  · exact .refl d
  · split
    · exact .mapCmd ..
    · exact .comp (.posts ..) (.mapCmd ..)

theorem Dev.cmd_spec {c : Cmd} (hc : d.cmd h = some c) : c ∈ d.lci.cmds ∧ c.handle = h ∧ c.state < 4 := by
  have hp := List.find?_some hc
  rw [Bool.and_eq_true, beq_iff_eq, decide_eq_true_eq] at hp
  exact ⟨List.mem_of_find?_eq_some hc, hp⟩

theorem Dev.finishOne_completed {c : Cmd} (hc : d.cmd h = some c) (hs : c.silent = false) :
    (d.finishOne h status progress result).Completed h status progress result := by
  obtain ⟨hmem, hh, hstate⟩ := Dev.cmd_spec hc
  have heq : d.finishOne h status progress result = (d.mapCmd h (·.ended status progress result)).posts h := by
    rw [Dev.finishOne_eq, hc]
    exact if_neg (by simp [hs])
  rw [heq]
  refine ⟨⟨c.ended status progress result, ?_, hh, rfl, rfl, rfl, rfl⟩, ?_⟩
  · rw [Dev.posts_cmds]
    exact List.mem_map.mpr ⟨c, hmem, if_pos ⟨hh, hstate⟩⟩
  · rw [Dev.posts_qp, if_pos rfl]
    exact List.mem_append_right _ (List.mem_singleton.mpr rfl)

theorem Dev.finish_eq {c : Cmd} (hc : d.cmd h = some c) (status progress : Nat) (result : List Nat) : d.finish h status progress result =
    c.stops.foldl (fun d s => d.finishOne s 0 1 []) (d.finishOne h status progress result) := by
  rw [Dev.finish, hc]

theorem Dev.KeepsEnded.stops (l : List Nat) (d : Dev) : d.KeepsEnded (l.foldl (fun d s => d.finishOne s 0 1 []) d) :=
  List.foldlRecOn l _ (motive := fun e : Dev => d.KeepsEnded e) (.refl d) fun e he s _ => .comp (.finishOne e s 0 1 []) he

/-- A command that can post a completion ends with it (R293). -/
theorem Dev.finish_completed {c : Cmd} (hc : d.cmd h = some c) (hs : c.silent = false) (status progress : Nat) (result : List Nat) :
    (d.finish h status progress result).Completed h status progress result := by
  rw [Dev.finish_eq hc]
  exact (Dev.KeepsEnded.stops ..).completed (Dev.finishOne_completed hc hs)

/-! ## A device all of whose commands post (R293) -/

theorem Dev.Loud.of_lci (hl : d.Loud) (h : e.lci = d.lci) : e.Loud := by
  rw [Dev.Loud, h]
  exact hl

theorem Dev.Loud.of_cmds (hl : d.Loud) (h : e.lci.cmds = d.lci.cmds) : e.Loud := by
  rw [Dev.Loud, h]
  exact hl

theorem Dev.Loud.mapCmd (hl : d.Loud) (h : Nat) {f : Cmd → Cmd} (hf : ∀ c, (f c).silent = c.silent) : (d.mapCmd h f).Loud := by
  intro c hc
  obtain ⟨x, hx, rfl⟩ := List.mem_map.mp hc
  split
  · rw [hf, hl x hx]
  · exact hl x hx

theorem Dev.Loud.finishOne (hl : d.Loud) (h status progress : Nat) (result : List Nat) : (d.finishOne h status progress result).Loud := by
  have hmap : (d.mapCmd h (·.ended status progress result)).Loud := hl.mapCmd h fun _ => rfl
  rw [Dev.finishOne_eq]
  split
  · exact hl
  · split
    · exact hmap
    · exact hmap.of_cmds (Dev.posts_cmds ..)

theorem Dev.Loud.finish (hl : d.Loud) (h status progress : Nat) (result : List Nat) : (d.finish h status progress result).Loud := by
  unfold Dev.finish
  split
  · exact hl
  · exact List.foldlRecOn _ _ (motive := Dev.Loud) (hl.finishOne h status progress result) fun e he s _ => Dev.Loud.finishOne he s 0 1 []

theorem Dev.Loud.cmd {c : Cmd} (hl : d.Loud) (hc : d.cmd h = some c) : c.silent = false := hl c (Dev.cmd_spec hc).1

end

/-! ## Snapshots (R286, R288) -/

section
variable {d : Dev} {h : Nat} {x : Snap}

/-- The copy of a tract's bitmap and header that a snapshot makes once the home is shared (R286). -/
def Dev.snapShared (d : Dev) (t u : Nat) (e : TEntry) : Dev :=
  let r := d.phys e.group e.index
  (((d.setPhys e.group e.index { r with refs := r.refs + 1 }).setEnt t { e with shr := true }).setEnt u { e with shr := true })

theorem Dev.snapBuild_cur (hx : d.str.snaps.find? (fun y => y.handle == h) = some x) (hf : x.fired.isSome = true) (hb : x.built < x.size / 2 ^ 20)
    {t u : Nat} (ht : t = x.src / 2 ^ 20 + x.built) (hu : u = x.dst / 2 ^ 20 + x.built) (hk : (d.ent t).kind = 1 ∨ (d.ent t).kind = 2) :
    ∃ c : Dev, c.tracts.cur = d.tracts.cur ∧ (d.snapBuild h).tracts.cur =
      { ((c.snapShared t u (d.ent t)).setHdr u (d.hdr t)).tracts.cur with
        bits := Tbl.put 0 ((c.snapShared t u (d.ent t)).setHdr u (d.hdr t)).tracts.cur.bits u (d.wbits t) } := by
  subst ht hu
  refine ⟨d.mapSnap h fun x => { x with built := x.built + 1 }, rfl, ?_⟩
  rw [Dev.snapBuild, hx]
  dsimp only
  rw [if_neg (by simp [Option.isSome_iff_ne_none.mp hf]; omega), if_pos hk, Dev.foldl_tcTouch_cur]
  rfl

theorem Dev.ent_snapShared (d : Dev) (t u k : Nat) (e : TEntry) :
    (d.snapShared t u e).ent k = if k = u ∨ k = t then { e with shr := true } else d.ent k := by
  rw [Dev.snapShared, Dev.ent_setEnt, Dev.ent_setEnt, Dev.ent_setPhys]
  by_cases hu : k = u <;> simp [hu]

theorem Dev.phys_snapShared (d : Dev) (t u : Nat) (e : TEntry) : (d.snapShared t u e).phys e.group e.index =
    { d.phys e.group e.index with refs := (d.phys e.group e.index).refs + 1 } := by
  rw [Dev.snapShared, Dev.phys_setEnt, Dev.phys_setEnt, Dev.phys_setPhys_same]

/-- A tract of the image shares the home of its source tract (R286). -/
theorem Dev.snapBuild_shares (hx : d.str.snaps.find? (fun y => y.handle == h) = some x) (hf : x.fired.isSome = true) (hb : x.built < x.size / 2 ^ 20)
    {t u : Nat} (ht : t = x.src / 2 ^ 20 + x.built) (hu : u = x.dst / 2 ^ 20 + x.built) (hk : (d.ent t).kind = 1 ∨ (d.ent t).kind = 2) :
    (∃ b, (d.snapBuild h).ent u = { d.ent t with shr := true, hdr := b }) ∧ ((d.snapBuild h).ent t).shr = true ∧
      ((d.snapBuild h).phys (d.ent t).group (d.ent t).index).refs = (d.phys (d.ent t).group (d.ent t).index).refs + 1 ∧
      (d.snapBuild h).wbits u = d.wbits t := by
  obtain ⟨c, hc, hcur⟩ := Dev.snapBuild_cur hx hf hb ht hu hk
  obtain ⟨b, hent⟩ := (c.snapShared t u (d.ent t)).ent_setHdr u (d.hdr t)
  have hentOf (k : Nat) : (d.snapBuild h).ent k = ((c.snapShared t u (d.ent t)).setHdr u (d.hdr t)).ent k := by
    rw [Dev.ent, hcur]
    rfl
  refine ⟨⟨b, ?_⟩, ?_, ?_, ?_⟩
  · rw [hentOf, hent, if_pos rfl, Dev.ent_snapShared, if_pos (.inl rfl)]
  · rw [hentOf, hent]
    split
    · rw [Dev.ent_snapShared, if_pos (.inl rfl)]
    · rw [Dev.ent_snapShared, if_pos (.inr rfl)]
  · rw [Dev.phys, hcur]
    show (Dev.phys _ _ _).refs = _
    rw [Dev.phys_setHdr, Dev.phys_snapShared, Dev.phys, hc, Dev.phys]
  · rw [Dev.wbits, hcur]
    exact Tbl.look_put_same ..

theorem Dev.snapDone_of_built {t : Nat} (hx : d.str.snaps.find? (fun y => y.handle == h) = some x) (hf : x.fired = some t)
    (hb : x.size / 2 ^ 20 ≤ x.built) (hp : d.preLeft h = false) : d.snapDone h = ((d.dropSnap h).icu 72).finish h 0 2 (leBytes 8 t) := by
  rw [Dev.snapDone, hx]
  dsimp only
  rw [hf]
  exact if_neg (by simp [hp]; omega)

end

/-- Settles O16. -/
theorem snapshotEvents : Obligations.SNAPSHOT_EVENTS := by
  refine ⟨fun h s x => ?builds, fun h s x t c hx hf hb hp hc hl => ?completes⟩
  case builds =>
    intro t u hx hf hb hk
    obtain ⟨⟨b, hu⟩, ht, hphys, hbits⟩ := Dev.snapBuild_shares hx hf hb rfl rfl hk
    refine ⟨_, rfl, ?_, ht, ?_, ?_, ?_, hphys, hbits⟩ <;> rw [hu]
  case completes =>
    have hcmd : ((s.dev.dropSnap h.toNat).icu 72).cmd h.toNat = some c := by rw [Dev.icu_cmd]; exact hc
    have hloud : ((s.dev.dropSnap h.toNat).icu 72).Loud := hl.of_lci (Dev.icu_lci ..)
    have hrun := (congrArg (silentOut s.fuse) (Dev.snapDone_of_built hx hf hb hp)).trans (silentOut_of_none (hloud.finish _ _ _ _))
    refine ⟨_, next_congr s hrun, Dev.finish_completed hcmd (hl.cmd hc) .., ?_⟩
    rw [(Dev.finish_touches ..).same .str (by decide), Dev.icu_str]
    rfl

/-! ## A re-encryption rewrite (R248) -/

theorem reencRewrite_of_clean {F : Fuses} {d : Dev} {line : Nat} {r : Reenc} {x : LineData} (hr : d.reencOf (line / 64) = some r)
    (hb : bit r.mask (line % 64) = true) (hs : d.staged line = none) (hw : d.wbEnt line = none) (hg : gondolaRoom F d none = true)
    (hx : d.cleanLine line = some x) : reencRewrite F d line = acceptWrite F d
      { line := line, data := x, key := (d.tractKey (line / 16384)).1, base := (d.tractKey (line / 16384)).2, reenc := true } := by
  rw [reencRewrite, hr]
  dsimp only
  rw [if_neg (by simp [hb, hs, hw, hg]), hx]

/-- Settles O31. -/
theorem reencryption : Obligations.REENCRYPTION := by
  intro dpa line r x s hl hr hb hs hw hg hx
  subst hl
  exact ⟨_, _, next_congr s (reencRewrite_of_clean hr hb hs hw hg hx), rfl, rfl, rfl, rfl, rfl, rfl⟩

end Sys2Proof.Machine

/-!
PROOFS. How a command starts (R296, R299, R302), O32 and O36. Firmware takes the oldest command of its queue, marks it as taken and as started, and
lets it act: `Dev.Startable.take` and `Dev.Startable.begins` say so once, and every start of a command goes through them.
-/
namespace Sys2Proof.Machine

/-! ## Finding commands after they have been marked -/

section
variable {d : Dev} {h k : Nat} {f : Cmd → Cmd} {p : Cmd → Bool}

theorem Dev.find_mapCmd (hp : ∀ c, c.handle = h → c.state < 4 → p (f c) = p c) : (d.mapCmd h f).lci.cmds.find? p =
    (d.lci.cmds.find? p).map fun c => if c.handle = h ∧ c.state < 4 then f c else c := by
  have hpred : (p ∘ fun c : Cmd => if c.handle = h ∧ c.state < 4 then f c else c) = p := by
    funext c
    rw [Function.comp]
    split
    next hc => exact hp c hc.1 hc.2
    next => rfl
  show (d.lci.cmds.map _).find? p = _
  rw [List.find?_map, hpred]

/-- The command that was marked, found under its handle. -/
theorem Dev.cmd_mapCmd_same {c : Cmd} (hf : ∀ c, (f c).handle = c.handle ∧ (c.state < 4 → (f c).state < 4)) (hc : d.cmd h = some c) :
    (d.mapCmd h f).cmd h = some (f c) := by
  obtain ⟨-, hh, hstate⟩ := Dev.cmd_spec hc
  rw [Dev.cmd, Dev.find_mapCmd fun c _ h4 => by simp [hf c, h4], show d.lci.cmds.find? _ = _ from hc, Option.map_some, if_pos ⟨hh, hstate⟩]

theorem Dev.find_mapCmd_other (hf : ∀ c, (f c).handle = c.handle) (hk : k ≠ h) (q : Cmd → Bool) :
    (d.mapCmd h f).lci.cmds.find? (fun c => c.handle == k && q c) = d.lci.cmds.find? (fun c => c.handle == k && q c) := by
  rw [Dev.find_mapCmd fun c hc _ => by simp [hf c, hc, beq_false_of_ne (Ne.symm hk)]]
  cases hx : d.lci.cmds.find? fun c => c.handle == k && q c with
  | none => rfl
  | some x =>
    have hxk : x.handle = k := by
      have hq := List.find?_some hx
      simp only [Bool.and_eq_true, beq_iff_eq] at hq
      exact hq.1
    rw [Option.map_some, if_neg (by rw [hxk]; exact fun hh => hk hh.1)]

theorem Dev.cmd_mapCmd_other (hf : ∀ c, (f c).handle = c.handle) (hk : k ≠ h) : (d.mapCmd h f).cmd k = d.cmd k := Dev.find_mapCmd_other hf hk _

theorem Dev.cmd_posts (d : Dev) (h k : Nat) : (d.posts h).cmd k = d.cmd k := by rw [Dev.cmd, Dev.posts_cmds, Dev.cmd]

theorem Dev.cmd_finishOne_other (hk : k ≠ h) (status progress : Nat) (result : List Nat) : (d.finishOne h status progress result).cmd k = d.cmd k := by
  rw [Dev.finishOne_eq]
  split
  · rfl
  · split
    · exact Dev.cmd_mapCmd_other (fun _ => rfl) hk
    · rw [Dev.cmd_posts, Dev.cmd_mapCmd_other (f := (·.ended status progress result)) (fun _ => rfl) hk]

end

/-! ## A command is taken and starts (R296, R299, R302) -/

/-- A command as firmware has taken it from Spool (R299). -/
def Cmd.taken (c : Cmd) : Cmd := { c with state := 1 }

/-- A device on which firmware has taken a command. -/
def Dev.taken (d : Dev) (h : Nat) : Dev := d.mapCmd h Cmd.taken

/-- A command that has started (R302). -/
def Cmd.began (c : Cmd) : Cmd := { c with state := 2, started := true }

/-- A device on which a taken command has started. -/
def Dev.begun (d : Dev) (h : Nat) : Dev := (d.taken h).mapCmd h Cmd.began

section
variable {F : Fuses} {d : Dev} {h op : Nat} {c : Cmd} {st : OutEnd}

theorem Dev.Loud.begun (hl : d.Loud) (h : Nat) : (d.begun h).Loud := 
  Dev.Loud.mapCmd (f := Cmd.began) (Dev.Loud.mapCmd (f := Cmd.taken) hl h fun _ => rfl) h fun _ => rfl

theorem Dev.cmd_begun (hc : d.cmd h = some c) : (d.begun h).cmd h = some c.taken.began :=
  Dev.cmd_mapCmd_same (fun _ => ⟨rfl, fun _ => Nat.lt_of_sub_eq_succ rfl⟩)
    (Dev.cmd_mapCmd_same (f := Cmd.taken) (fun _ => ⟨rfl, fun _ => Nat.lt_of_sub_eq_succ rfl⟩) hc)

theorem Dev.cmd_begun_other {k : Nat} (hk : k ≠ h) : (d.begun h).cmd k = d.cmd k := by
  rw [Dev.begun, Dev.cmd_mapCmd_other (f := Cmd.began) (fun _ => rfl) hk, Dev.taken, Dev.cmd_mapCmd_other (f := Cmd.taken) (fun _ => rfl) hk]

theorem Dev.Startable.handle (hs : d.Startable F h op c) : c.handle = h := (Dev.cmd_spec hs.found).2.1

/-- Firmware takes a command that it can start (R299). -/
theorem Dev.Startable.take (hs : d.Startable F h op c) (ht : d.noTimeout c.head st = false) :
    lciTake F d h op st = tryStart F (d.taken h) c.taken st := by
  rw [lciTake, hs.found]
  dsimp only
  rw [if_neg (by simp [hs.ready, hs.runs, hs.spool, hs.opcode, ht]; exact hs.oldest), if_neg (by simp [hs.fields])]
  rfl

theorem Dev.noTimeout_ok (d : Dev) (h : Head) : d.noTimeout h .ok = false := rfl

/-- A command that nothing holds back and that is no list command acts (R302). -/
theorem tryStart_of_free (hc : c.chan = none) (hs : c.slot = none) (hh : d.heldBack c = false) (he : startErr F d c.head c.entry = 0)
    (hop : 5 < sqOpcode c.entry) (hd : sqOpcode c.entry = 0x11 →
      d.discardHeld (sqField c.entry 16 8 / 64) (sqField c.entry 16 8 / 64 + sqField c.entry 24 8 - 1) = false) :
    tryStart F d c st = beginCmd F d c st := by
  rw [tryStart, if_neg (by simp [hc, hs, hh])]
  dsimp only
  rw [he, if_neg (by decide), if_neg (by omega), if_neg (by omega)]
  refine if_neg fun hx => ?_
  rw [hd hx.1] at hx
  exact Bool.noConfusion hx.2

theorem Dev.Startable.begins (hs : d.Startable F h op c) (hop : 5 < op) (hd : op = 0x11 →
      (d.taken h).discardHeld (sqField c.entry 16 8 / 64) (sqField c.entry 16 8 / 64 + sqField c.entry 24 8 - 1) = false)
    (ht : d.noTimeout c.head st = false) : lciTake F d h op st = beginCmd F (d.taken h) c.taken st := by
  obtain ⟨hchan, hslot, -⟩ := hs.alone
  have hop' : sqOpcode c.taken.entry = op := hs.opcode
  rw [hs.take ht, tryStart_of_free (d := d.taken h) (c := c.taken) hchan hslot hs.free hs.needs (by rw [hop']; exact hop) (fun h11 => hd (hop'.symm.trans h11))]

/-- What firmware does when a list command has its channel, and, with a launch time, its slot (R302). -/
theorem Dev.Startable.starts_list {n : Nat} (hs : d.Startable F h op c) (hop : op ≤ 4) (hn : d.freeChannel = some n)
    (hnow : ¬ (op = 1 ∧ bit (sqFlags c.entry) 0 = true)) : lciTake F d h op .ok = startList (d.begun h) c.taken n := by
  obtain ⟨hchan, hslot, -⟩ := hs.alone
  have hop' : sqOpcode c.taken.entry = op := hs.opcode
  have hheld : (d.taken h).heldBack c.taken = false := hs.free
  have hfree : (d.taken h).freeChannel = some n := hn
  have hbegun : (d.taken h).mapCmd c.taken.handle (fun y => { y with state := 2, started := true }) = d.begun h :=
    congrArg (fun k => (d.taken h).mapCmd k _) hs.handle
  rw [hs.take rfl, tryStart, if_neg (by rw [hheld]; simp [Cmd.taken, hchan, hslot])]
  dsimp only
  rw [hop', show startErr F (d.taken h) c.taken.head c.taken.entry = 0 from hs.needs, if_neg (by decide), if_pos hop, hfree, hbegun]
  cases (d.taken h).freeSlot with
  | none => exact if_neg hnow
  | some k => exact if_neg hnow

theorem Dev.freeSlot_taken (d : Dev) (h : Nat) : (d.taken h).freeSlot = d.freeSlot := by
  have hslot (n : Nat) : ((d.taken h).slotCmd n).isNone = (d.slotCmd n).isNone := by
    rw [Dev.slotCmd, Dev.taken, Dev.find_mapCmd fun c _ h4 => by simp [Cmd.taken, h4], Option.isNone_map]
    rfl
  unfold Dev.freeSlot
  exact congrArg (List.find? · _) (funext fun n => by rw [hslot]; rfl)

theorem Dev.Startable.arms_stream {n k : Nat} (hs : d.Startable F h 1 c) (hn : d.freeChannel = some n) (hk : d.freeSlot = some k)
    (hl : bit (sqFlags c.entry) 0 = true) : lciTake F d h 1 .ok = armStream F (d.taken h) c.taken n k := by
  obtain ⟨hchan, hslot, -⟩ := hs.alone
  have hop' : sqOpcode c.taken.entry = 1 := hs.opcode
  have hheld : (d.taken h).heldBack c.taken = false := hs.free
  have hfree : (d.taken h).freeChannel = some n := hn
  rw [hs.take rfl, tryStart, if_neg (by rw [hheld]; simp [Cmd.taken, hchan, hslot])]
  dsimp only
  rw [hop', show startErr F (d.taken h) c.taken.head c.taken.entry = 0 from hs.needs, if_neg (by decide), if_pos (by decide), hfree,
    Dev.freeSlot_taken, hk]
  exact if_pos ⟨rfl, hl⟩

theorem Dev.Startable.arms_snap {k : Nat} (hs : d.Startable F h 5 c) (hk : d.freeSlot = some k) :
    lciTake F d h 5 .ok = armSnap F (d.taken h) c.taken k := by
  obtain ⟨hchan, hslot, -⟩ := hs.alone
  have hop' : sqOpcode c.taken.entry = 5 := hs.opcode
  have hheld : (d.taken h).heldBack c.taken = false := hs.free
  rw [hs.take rfl, tryStart, if_neg (by rw [hheld]; simp [Cmd.taken, hchan, hslot])]
  dsimp only
  rw [hop', show startErr F (d.taken h) c.taken.head c.taken.entry = 0 from hs.needs, if_neg (by decide), if_neg (by decide), if_pos rfl,
    Dev.freeSlot_taken, hk]

theorem startList_schan (n : Nat) : (startList d c n).schan n = chanOf d c := by
  rw [startList, Dev.mapCmd_schan, Dev.setSchan_schan, if_pos rfl]

/-- A list command that starts at once runs on a free channel with the fields of its entry (R302). -/
theorem Dev.Startable.list_channel {n : Nat} (hs : d.Startable F h op c) (hop : op ≤ 4) (hn : d.freeChannel = some n)
    (hnow : ¬ (op = 1 ∧ bit (sqFlags c.entry) 0 = true)) : (silentOut F (lciTake F d h op .ok)).schan n = chanOf d c := by
  rw [silentOut_schan, hs.starts_list hop hn hnow, startList_schan]
  rfl

end

/-! ## Channels of list commands (R253, R254, R302) -/

section
variable (d : Dev) {c : Cmd}

theorem chanOf_stream (h : sqOpcode c.entry = 1) : (chanOf d c).kind = .stream ∧ (chanOf d c).state = .running ∧ (chanOf d c).next = sqField c.entry 16 8 := by
  rw [chanOf, h]
  exact ⟨rfl, rfl, rfl⟩

theorem chanOf_copy (h : sqOpcode c.entry = 2) : (chanOf d c).kind = .copy := by
  rw [chanOf, h]
  rfl

theorem chanOf_install (h : sqOpcode c.entry = 3) : (chanOf d c).kind = .install := by
  rw [chanOf, h]
  rfl

theorem chanOf_verify (h : sqOpcode c.entry = 4) : (chanOf d c).kind = .verify ∧ (chanOf d c).vLines = sqField c.entry 24 8 := by
  rw [chanOf, h]
  exact ⟨rfl, rfl⟩

end

/-- Settles O32. -/
theorem listCommands : Obligations.LIST_COMMANDS := by
  refine ⟨fun h c n s hs hl hn => ?stream, fun h c n k s hs hl hn hk => ?timed, fun h c n s hs hn => ?copy, fun h c n s hs hn => ?install,
    fun h c n s hs hn => ?verify, fun h c k s hs hk => ?snapshot⟩
  case stream =>
    have hchan := hs.list_channel (by decide) hn (by simp [hl])
    obtain ⟨hkind, hstate, hnext⟩ := chanOf_stream s.dev hs.opcode
    exact ⟨_, rfl, hchan, hchan ▸ hkind, hchan ▸ hstate, hchan ▸ hnext⟩
  case timed => exact ⟨_, _, rfl, rfl, congrArg (silentOut s.fuse) (hs.arms_stream hn hk hl)⟩
  case copy =>
    have hchan := hs.list_channel (by decide) hn (by simp)
    exact ⟨_, rfl, hchan, hchan ▸ chanOf_copy s.dev hs.opcode⟩
  case install =>
    have hchan := hs.list_channel (by decide) hn (by simp)
    exact ⟨_, rfl, hchan, hchan ▸ chanOf_install s.dev hs.opcode⟩
  case verify =>
    have hchan := hs.list_channel (by decide) hn (by simp)
    obtain ⟨hkind, hlines⟩ := chanOf_verify s.dev hs.opcode
    exact ⟨_, rfl, hchan, hchan ▸ hkind, hchan ▸ hlines⟩
  case snapshot => exact ⟨_, _, rfl, rfl, congrArg (silentOut s.fuse) (hs.arms_snap hk)⟩

/-! ## Held commands, unlisted opcodes and the end of an invalidation (R92, R301, R302) -/

section
variable {F : Fuses} {d : Dev} {h : Nat} {c : Cmd}

theorem heldStart_of_taken (hc : d.cmd h = some c) (hr : d.lci.ready = true) (hf : d.fwRuns = true) (h1 : c.state = 1) :
    heldStart F d h = tryStart F d c .ok := by
  rw [heldStart, hc]
  dsimp only
  rw [if_neg (by simp [hr, hf]), if_pos h1]

theorem heldStart_of_held (hc : d.cmd h = some c) (h1 : c.state = 1) (hh : d.heldBack c = true) : heldStart F d h = d := by
  rw [heldStart, hc]
  dsimp only
  split
  · rfl
  · exact if_pos (.inr (.inr hh))

theorem identifyBytes_mapCmd (F : Fuses) (d : Dev) (h : Nat) (f : Cmd → Cmd) (x : Head) : identifyBytes F (d.mapCmd h f) x = identifyBytes F d x := rfl

theorem beginCmd_identify (h40 : sqOpcode c.entry = 0x40) (st : OutEnd) :
    beginCmd F d c st = (d.mapCmd c.handle Cmd.began).finish c.handle 0 0 (identifyBytes F d c.head) := by
  rw [beginCmd, h40]
  rfl

theorem exec_invalidOpcode {h : Handle} {s : State} (hc : s.dev.cmd h.toNat = some c) (hr : s.dev.lci.ready = true) (hf : s.dev.fwRuns = true)
    (h0 : c.state = 0) (hop : sqOpcode c.entry ∉ opcodes) :
    exec (.invalidOpcode h) s = .next { s with dev := s.dev.finish h.toNat 0x0101 0 } := by
  rw [show exec (.invalidOpcode h) s = execInvalidOpcode h s from rfl, execInvalidOpcode, hc]
  exact congrArg Host.Outcome.next (if_neg (by simp [hr, hf, h0, hop]))

theorem Dev.invDone_command {h : Handle} (ho : .command h ∈ d.cache.invOpen) (hc : d.cmd h.toNat = some c) (hop : sqOpcode c.entry = 0x10) :
    d.invDone (.command h) = (d.invClose (.command h)).finish h.toNat 0 (sqField c.entry 24 8) := by
  have hc' : (d.invClose (.command h)).cmd h.toNat = some c := hc
  rw [Dev.invDone, if_neg (by simp [ho])]
  dsimp only
  rw [hc']
  exact if_neg (by simp [hop])

end

/-- Settles O36. -/
theorem commandEvents : Obligations.COMMAND_EVENTS := by
  refine ⟨fun h c s hc hr hf h1 hch hsl _ hop hh he hl => ?starts, fun h c s hc h1 hh hl => ?held, fun h c s hc hr hf h0 hop hs => ?unlisted,
    fun h c s ho hc hop _ hl => ?invalidated, fun s => ?host⟩
  case starts =>
    obtain ⟨-, hhandle, hstate⟩ := Dev.cmd_spec hc
    have hrun : heldStart s.fuse s.dev h.toNat = (s.dev.mapCmd h.toNat Cmd.began).finish h.toNat 0 0 (identifyBytes s.fuse s.dev c.head) := by
      rw [heldStart_of_taken hc hr hf h1, tryStart_of_free hch hsl hh he (by rw [hop]; decide) (by rw [hop]; exact fun h => absurd h (by decide)),
        beginCmd_identify hop, hhandle]
    have hloud : (s.dev.mapCmd h.toNat Cmd.began).Loud := Dev.Loud.mapCmd (f := Cmd.began) hl h.toNat fun _ => rfl
    have hbegan : (s.dev.mapCmd h.toNat Cmd.began).cmd h.toNat = some c.began :=
      Dev.cmd_mapCmd_same (fun _ => ⟨rfl, fun _ => Nat.lt_of_sub_eq_succ rfl⟩) hc
    exact ⟨_, next_congr s ((congrArg (silentOut s.fuse) hrun).trans (silentOut_of_none (hloud.finish _ _ _ _))),
      Dev.finish_completed hbegan (hloud.cmd hbegan) ..⟩
  case held => exact next_congr s ((congrArg (silentOut s.fuse) (heldStart_of_held hc h1 hh)).trans (silentOut_of_none hl))
  case unlisted => exact ⟨_, exec_invalidOpcode hc hr hf h0 hop, Dev.finish_completed hc hs ..⟩
  case invalidated =>
    have hloud : (s.dev.invClose (.command h)).Loud := hl
    have hcmd : (s.dev.invClose (.command h)).cmd h.toNat = some c := hc
    refine ⟨_, next_congr s ((congrArg (silentOut s.fuse) (Dev.invDone_command ho hc hop)).trans (silentOut_of_none (hloud.finish _ _ _ _))), ?_,
      Dev.finish_completed hcmd (hl.cmd hc) ..⟩
    rw [(Dev.finish_touches ..).same .cache (by decide)]
    simp [Dev.invClose]
  case host =>
    refine ⟨s.dev.invClose .host, next_congr s (congrArg (silentOut s.fuse) s.dev.invDone_host), ?_⟩
    simp [Dev.invClose]

end Sys2Proof.Machine

/-!
PROOFS. O33 and the refutation of O35: commands that act and end within their start. Whatever a command does to the rest of the device, it ends
with the device's commands as its start left them, so its completion follows from `Dev.Startable.finishes`. O35 fails because a start marks every
command of its handle as started, and the statement does not say that a handle names one command.
-/
namespace Sys2Proof.Machine

/-! ## Commands that end within their start -/

section
variable {F : Fuses} {d e : Dev} {h op : Nat} {c : Cmd} {st : OutEnd} {status progress : Nat} {result : List Nat}

theorem Dev.cmd_of_cmds (he : e.lci.cmds = d.lci.cmds) (k : Nat) : e.cmd k = d.cmd k := by rw [Dev.cmd, he, Dev.cmd]

/-- A command that ends on a device whose commands are those of its start posts its completion (R293, R302). -/
theorem Dev.Startable.finishes (hs : d.Startable F h op c)
    (hrun : lciTake F d h op st = e.finish h status progress result) (he : e.lci.cmds = (d.begun h).lci.cmds) :
    silentOut F (lciTake F d h op st) = e.finish h status progress result ∧ (e.finish h status progress result).Completed h status progress result := by
  have hloud : e.Loud := Dev.Loud.of_cmds (Dev.Loud.begun hs.loud h) he
  have hcmd : e.cmd h = some c.taken.began := (Dev.cmd_of_cmds he h).trans (Dev.cmd_begun hs.found)
  exact ⟨by rw [hrun]; exact silentOut_of_none (hloud.finish _ _ _ _), Dev.finish_completed hcmd (hloud.cmd hcmd) ..⟩

/-- What a start does on the device on which the command has begun (R302). -/
theorem Dev.Startable.acts (hs : d.Startable F h op c) (hop : 5 < op) (h11 : op ≠ 0x11) {act : Dev → Cmd → Dev}
    (ht : d.noTimeout c.head st = false)
    (hact : ∀ d c, sqOpcode c.entry = op → beginCmd F d c st = act (d.mapCmd c.handle Cmd.began) c) :
    lciTake F d h op st = act (d.begun h) c.taken := by
  rw [hs.begins hop (fun h => absurd h h11) ht, hact _ _ (show sqOpcode c.taken.entry = op from hs.opcode),
    show c.taken.handle = h from hs.handle]
  rfl

end
/-! ## Stop (R302) -/

section
variable {F : Fuses} {d : Dev} {h k : Nat} {c x : Cmd}

/-- A command other than the one that starts is found as it was. -/
theorem Dev.find_begun_other (hx : d.lci.cmds.find? (fun x => x.handle == k && !x.silent) = some x) (hne : x.handle ≠ h) :
    (d.begun h).lci.cmds.find? (fun x => x.handle == k && !x.silent) = some x := by
  have hk : x.handle = k := by
    have hq := List.find?_some hx
    simp only [Bool.and_eq_true, beq_iff_eq] at hq
    exact hq.1
  have hkh : k ≠ h := hk ▸ hne
  rw [Dev.begun, Dev.find_mapCmd_other (f := Cmd.began) (fun _ => rfl) hkh, Dev.taken, Dev.find_mapCmd_other (f := Cmd.taken) (fun _ => rfl) hkh, hx]

theorem Dev.find_begun_none (hx : d.lci.cmds.find? (fun x => x.handle == k && !x.silent) = none) :
    (d.begun h).lci.cmds.find? (fun x => x.handle == k && !x.silent) = none := by
  rw [Dev.begun, Dev.find_mapCmd (f := Cmd.began) (fun _ _ _ => rfl), Dev.taken, Dev.find_mapCmd (f := Cmd.taken) (fun _ _ _ => rfl), hx]
  rfl

theorem find?_of_stronger {α : Type} {p q : α → Bool} {l : List α} {x : α} (hx : l.find? p = some x) (hq : q x = true)
    (hpq : ∀ y ∈ l, q y = true → p y = true) : l.find? q = some x := by
  induction l with
  | nil => exact absurd hx (by simp)
  | cons y l ih =>
    rw [List.find?_cons] at hx ⊢
    cases hp : p y with
    | true =>
      rw [hp] at hx
      obtain rfl : y = x := Option.some.inj hx
      rw [hq]
    | false =>
      rw [hp] at hx
      have hqy : q y = false := by
        by_contra h
        have := hpq y List.mem_cons_self (by simpa using h)
        rw [hp] at this
        exact Bool.noConfusion this
      rw [hqy]
      exact ih hx fun z hz => hpq z (List.mem_cons_of_mem _ hz)

theorem Dev.cmd_of_find (hx : d.lci.cmds.find? (fun x => x.handle == k && !x.silent) = some x) (hl : d.Loud) (h4 : x.state < 4) : d.cmd k = some x := by
  have hq := List.find?_some hx
  simp only [Bool.and_eq_true, beq_iff_eq] at hq
  refine find?_of_stronger hx (by simp [hq.1, h4]) fun y hy hyq => ?_
  simp only [Bool.and_eq_true] at hyq
  rw [hyq.1, hl y hy]
  rfl

/-- A device on which a Stop waits for the end of the command that it stops (R302). -/
def Dev.joined (d : Dev) (k h : Nat) : Dev := d.mapCmd k fun y => { y with stops := y.stops ++ [h] }

theorem Dev.cmd_joined (hx : d.cmd k = some x) : (d.joined k h).cmd k = some { x with stops := x.stops ++ [h] } :=
  Dev.cmd_mapCmd_same (fun _ => ⟨rfl, id⟩) hx

/-- The stopped command ends with the status of its stop, and the Stop after it (R302). -/
theorem joined_completed {status : Nat} (hl : d.Loud) (hx : d.cmd k = some x) (hst : x.stops = []) (hc : d.cmd h = some c) (hkh : k ≠ h) :
    (d.joined k h).Loud ∧ ((d.joined k h).finish k status 0).Completed k status 0 [] ∧ ((d.joined k h).finish k status 0).Completed h 0 1 [] := by
  have hloud : (d.joined k h).Loud := Dev.Loud.mapCmd hl k fun _ => rfl
  have hjoin := Dev.cmd_joined (h := h) hx
  have hcmd : ((d.joined k h).finishOne k status 0 []).cmd h = some c := by
    rw [Dev.cmd_finishOne_other (Ne.symm hkh)]
    exact (Dev.cmd_mapCmd_other (f := fun y => { y with stops := y.stops ++ [h] }) (fun _ => rfl) (Ne.symm hkh)).trans hc
  refine ⟨hloud, Dev.finish_completed hjoin (hloud.cmd hjoin) .., ?_⟩
  rw [Dev.finish_eq hjoin]
  dsimp only
  rw [hst]
  exact Dev.finishOne_completed hcmd (hl.cmd hc)

/-- A list command that has not yet got its channel ends at once when a Stop comes (R302). -/
theorem startStop_of_waiting (hx : d.lci.cmds.find? (fun x => x.handle == k && !x.silent) = some x) (hk : sqField c.entry 16 4 = k)
    (hxk : d.cmd k = some x) (h1 : x.state = 1) (hc : x.chan = none) (ho : sqOpcode x.entry = 2) :
    startStop d c = (d.joined k c.handle).finish k 0x0301 0 := by
  have hjoin := Dev.cmd_joined (h := c.handle) hxk
  rw [Dev.joined] at hjoin
  have hhandle : x.handle = k := (Dev.cmd_spec hxk).2.1
  rw [startStop, hk]
  dsimp only
  rw [hx]
  dsimp only
  rw [if_neg (by rw [h1]; decide), if_neg (by simp [h1, Dev.stoppable, ho]), hjoin]
  dsimp only
  rw [Dev.stopCmd]
  dsimp only
  rw [hc]
  dsimp only
  rw [ho, hhandle]
  rfl

end

/-! ## Dictionaries (R272) -/

section
variable {F : Fuses} {d : Dev} {h : Nat} {c : Cmd}

theorem startDict_remove (h0 : sqField c.entry 24 4 = 0) (he : dictErr F d c.head (sqField c.entry 32 4) 0 = 0) :
    startDict F d c = (dictStore F d c.head (sqField c.entry 32 4) []).finish c.handle 0 1 := by
  rw [startDict]
  rw [h0, he, if_neg (by decide), if_pos rfl]

theorem startDict_read (h0 : 0 < sqField c.entry 24 4) (hb : bit (sqField c.entry 28 1) 0 = false)
    (he : dictErr F d c.head (sqField c.entry 32 4) (sqField c.entry 24 4) = 0) : startDict F d c = d.readPiece c.handle := by
  rw [startDict]
  rw [he, if_neg (by decide), if_neg (by omega), if_neg (by simp [hb])]

/-- The first outbound read of a command (R60). -/
theorem Dev.readPiece_out (hc : d.cmd h = some c) (h0 : c.data = []) : ∃ tag, (d.readPiece h).out =
    .hostRead c.head c.source.1 (min c.source.2 (4096 - c.source.1 % 4096)) tag :: d.out := by
  have hpiece : c.piece = min c.source.2 (4096 - c.source.1 % 4096) := by simp [Cmd.piece, h0]
  refine ⟨c.tag.getD d.freeTag, ?_⟩
  rw [Dev.readPiece, hc]
  dsimp only
  rw [hpiece, h0]
  rfl

theorem Cmd.source_dict (h7 : sqOpcode c.entry = 7) : c.source = (sqField c.entry 16 8, sqField c.entry 24 4) := by
  rw [Cmd.source, h7]
  rfl

end

/-! ## Sanitize without a range, a slot and a record (R302) -/

section
variable {F : Fuses} {d : Dev} {h fuel : Nat} {c : Cmd}

/-- A Sanitize that has come to a step. -/
def Dev.atStep (d : Dev) (h p : Nat) : Dev := d.mapCmd h fun y => { y with progress := p }

theorem Dev.cmd_atStep (hc : d.cmd h = some c) (p : Nat) : (d.atStep h p).cmd h = some { c with progress := p } :=
  Dev.cmd_mapCmd_same (fun _ => ⟨rfl, id⟩) hc

theorem Dev.Loud.atStep (hl : d.Loud) (h p : Nat) : (d.atStep h p).Loud := Dev.Loud.mapCmd hl h fun _ => rfl

theorem sanAdvance_windows (hc : d.cmd h = some c) (hp : c.progress = 0) (hk : d.sanSlots c.entry = []) :
    sanAdvance F h d (fuel + 1) = sanAdvance F h (d.atStep h 1) fuel := by
  rw [sanAdvance, hc]
  dsimp only
  rw [hp, hk]
  cases d.sec.rekey <;> simp [Dev.atStep]

theorem sanAdvance_slots (hc : d.cmd h = some c) (hp : c.progress = 1) (hk : d.sanSlots c.entry = []) :
    sanAdvance F h d (fuel + 1) = sanAdvance F h (d.atStep h 2) fuel := by
  rw [sanAdvance, hc]
  dsimp only
  rw [hp, hk]
  rfl

theorem sanAdvance_record (hc : d.cmd h = some c) (hp : c.progress = 2) (hr : bit (sqField c.entry 34 1) 0 = false) :
    sanAdvance F h d (fuel + 1) = sanAdvance F h (d.atStep h 3) fuel := by
  rw [sanAdvance, hc]
  dsimp only
  rw [hp]
  exact if_pos (by simp [hr])

theorem sanAdvance_range (hc : d.cmd h = some c) (hp : c.progress = 3) (hn : sqField c.entry 24 8 = 0) :
    sanAdvance F h d (fuel + 1) = d.finish h 0 4 (leBytes 8 0) := by
  rw [sanAdvance, hc]
  dsimp only
  rw [hp]
  exact if_pos hn

/-- A Sanitize that names nothing passes its three steps and ends (R302). -/
theorem sanAdvance_nothing (hc : d.cmd h = some c) (hp : c.progress = 0) (hk : d.sanSlots c.entry = [])
    (hr : bit (sqField c.entry 34 1) 0 = false) (hn : sqField c.entry 24 8 = 0) :
    sanAdvance F h d 5 = (((d.atStep h 1).atStep h 2).atStep h 3).finish h 0 4 (leBytes 8 0) := by
  have h1 := Dev.cmd_atStep hc 1
  have h2 := Dev.cmd_atStep h1 2
  have h3 := Dev.cmd_atStep h2 3
  rw [sanAdvance_windows hc hp hk, sanAdvance_slots h1 rfl hk, sanAdvance_record h2 rfl hr, sanAdvance_range h3 rfl hn]

end

/-! ## The starts -/

section
variable {F : Fuses} {d : Dev} {h : Nat} {c : Cmd}

theorem Dev.Startable.stop (hs : d.Startable F h 6 c) : lciTake F d h 6 .ok = startStop (d.begun h) c.taken :=
  hs.acts (by decide) (by decide) rfl fun d c h6 => by rw [beginCmd, h6]; rfl

theorem Dev.Startable.dict (hs : d.Startable F h 7 c) : lciTake F d h 7 .ok = startDict F (d.begun h) c.taken :=
  hs.acts (by decide) (by decide) rfl fun d c h7 => by rw [beginCmd, h7]; rfl

theorem Dev.Startable.drop (hs : d.Startable F h 0x10 c) : lciTake F d h 0x10 .ok = startDrop (d.begun h) c.taken :=
  hs.acts (by decide) (by decide) rfl fun d c h10 => by rw [beginCmd, h10]; rfl

theorem Dev.Startable.discard (hs : d.Startable F h 0x11 c)
    (hd : d.discardHeld (sqField c.entry 16 8 / 64) (sqField c.entry 16 8 / 64 + sqField c.entry 24 8 - 1) = false) :
    lciTake F d h 0x11 .ok = startDiscard F (d.begun h) c.taken := by
  rw [hs.begins (by decide) (fun _ => hd) rfl, beginCmd, show sqOpcode c.taken.entry = 0x11 from hs.opcode, show c.taken.handle = h from hs.handle]
  rfl

theorem startDiscard_taken {lo n : Nat} (hlo : lo = sqField c.entry 16 8 / 64) (hn : n = sqField c.entry 24 8) (hh : c.handle = h) :
    startDiscard F d c.taken = (discardLines F d lo (lo + n - 1)).invalidateCmd h lo (lo + n - 1) := by
  subst hlo hn hh
  rfl

theorem Dev.Startable.sanitize (hs : d.Startable F h 0x12 c) : lciTake F d h 0x12 .ok = sanAdvance F h (d.begun h) 5 := by
  rw [hs.begins (by decide) (fun h => absurd h (by decide)) rfl, beginCmd, show sqOpcode c.taken.entry = 0x12 from hs.opcode,
    show c.taken.handle = h from hs.handle]
  rfl

end

/-- Settles O33. -/
theorem rangeCommands : Obligations.RANGE_COMMANDS := by
  refine ⟨fun h c x s hs hx hne h1 hch _ hst hop => ?stops, fun h c s hs hx => ?noTarget, fun h c s hs h0 he => ?removes,
    fun h c s hs h0 hb he => ?reads, fun h c s hs hn => ?drops, fun h c lo hi s hs hlo hhi hd => ?discards,
    fun h c s hs hk hr hn => ?sanitizes⟩
  case stops =>
    have hbegun := Dev.find_begun_other (h := h.toNat) hx hne
    have hloud := hs.loud.begun h.toNat
    have hx' : (s.dev.begun h.toNat).cmd (sqField c.entry 16 4) = some x := Dev.cmd_of_find hbegun hloud (by omega)
    have htarget : sqField c.entry 16 4 ≠ h.toNat := (Dev.cmd_spec hx').2.1 ▸ hne
    obtain ⟨hjoined, hstopped, hstopper⟩ := joined_completed hloud hx' hst (Dev.cmd_begun hs.found) htarget
    have hrun : lciTake s.fuse s.dev h.toNat 6 .ok = ((s.dev.begun h.toNat).joined (sqField c.entry 16 4) h.toNat).finish (sqField c.entry 16 4) 0x0301 0 := by
      rw [hs.stop, startStop_of_waiting (c := c.taken) hbegun rfl hx' h1 hch hop, show c.taken.handle = h.toNat from hs.handle]
    rw [(Dev.cmd_spec hx').2.1]
    exact ⟨_, next_congr s ((congrArg (silentOut s.fuse) hrun).trans (silentOut_of_none (hjoined.finish _ _ _ _))), hstopper, hstopped⟩
  case noTarget =>
    have hrun : lciTake s.fuse s.dev h.toNat 6 .ok = (s.dev.begun h.toNat).finish h.toNat 0x0107 0 := by
      rw [hs.stop, startStop, show sqField c.taken.entry 16 4 = sqField c.entry 16 4 from rfl, show c.taken.handle = h.toNat from hs.handle]
      dsimp only
      rw [Dev.find_begun_none hx]
    obtain ⟨heq, hdone⟩ := hs.finishes hrun rfl
    exact ⟨_, next_congr s heq, hdone⟩
  case removes =>
    have hrun : lciTake s.fuse s.dev h.toNat 7 .ok =
        (dictStore s.fuse (s.dev.begun h.toNat) c.head (sqField c.entry 32 4) []).finish h.toNat 0 1 := by
      rw [hs.dict, startDict_remove (d := s.dev.begun h.toNat) (c := c.taken) h0 he, show c.taken.handle = h.toNat from hs.handle]
      rfl
    obtain ⟨heq, hdone⟩ := hs.finishes hrun rfl
    refine ⟨_, next_congr s heq, hdone, ?_⟩
    rw [(Dev.finish_touches ..).same .str (by decide)]
    rfl
  case reads =>
    have hrun : lciTake s.fuse s.dev h.toNat 7 .ok = (s.dev.begun h.toNat).readPiece h.toNat := by
      rw [hs.dict, startDict_read (d := s.dev.begun h.toNat) (c := c.taken) h0 hb he, show c.taken.handle = h.toNat from hs.handle]
    have hdata : c.data = [] := hs.alone.2.2.2.1
    obtain ⟨tag, hout⟩ := Dev.readPiece_out (Dev.cmd_begun hs.found) hdata
    have hsource : c.taken.began.source = (sqField c.entry 16 8, sqField c.entry 24 4) := Cmd.source_dict hs.opcode
    refine ⟨tag, _, rfl, ?_⟩
    rw [silentOut_out, hrun, hout, hsource]
    exact List.mem_cons_self
  case drops =>
    have hrun : lciTake s.fuse s.dev h.toNat 0x10 .ok = (s.dev.begun h.toNat).invalidateCmd h.toNat (sqField c.entry 16 8 / 64)
        (sqField c.entry 16 8 / 64 + 64 * sqField c.entry 24 8 - 1) := by
      rw [hs.drop, startDrop, show c.taken.handle = h.toNat from hs.handle]
      exact if_neg (Nat.ne_of_gt hn)
    refine ⟨_, rfl, ?_, ?_, ?_⟩
    · rw [silentOut_cache, hrun]
      exact List.mem_append_right _ (List.mem_singleton.mpr rfl)
    · rw [silentOut_media, hrun, (Dev.invalidateCmd_touches ..).same .media (by decide)]
      rfl
    · rw [silentOut_gon, hrun, (Dev.invalidateCmd_touches ..).same .gon (by decide)]
      rfl
  case discards =>
    subst hlo hhi
    have hrun : lciTake s.fuse s.dev h.toNat 0x11 .ok = (discardLines s.fuse (s.dev.begun h.toNat) (sqField c.entry 16 8 / 64)
        (sqField c.entry 16 8 / 64 + sqField c.entry 24 8 - 1)).invalidateCmd h.toNat (sqField c.entry 16 8 / 64)
        (sqField c.entry 16 8 / 64 + sqField c.entry 24 8 - 1) := by
      rw [hs.discard hd, startDiscard_taken rfl rfl hs.handle]
    refine ⟨s.dev.begun h.toNat, _, rfl, ?_, rfl, ?_, ?_⟩
    · rw [silentOut_cache, hrun]
      exact List.mem_append_right _ (List.mem_singleton.mpr rfl)
    · rw [silentOut_gon, hrun, (Dev.invalidateCmd_touches ..).same .gon (by decide)]
    · rw [silentOut_tracts, hrun, (Dev.invalidateCmd_touches ..).same .tracts (by decide)]
  case sanitizes =>
    have hprog : c.progress = 0 := hs.alone.2.2.2.2.1
    have hrun := hs.sanitize.trans (sanAdvance_nothing (Dev.cmd_begun hs.found) hprog hk hr hn)
    have hloud := ((((hs.loud.begun h.toNat).atStep h.toNat 1).atStep h.toNat 2).atStep h.toNat 3)
    have hcmd := Dev.cmd_atStep (Dev.cmd_atStep (Dev.cmd_atStep (Dev.cmd_begun hs.found) 1) 2) 3
    exact ⟨_, next_congr s ((congrArg (silentOut s.fuse) hrun).trans (silentOut_of_none (hloud.finish _ _ _ _))),
      Dev.finish_completed hcmd (hloud.cmd hcmd) ..⟩

/-! ## Two commands of one handle (R302, R390) -/

/-- A Log Freeze that begins a freeze. -/
def freezeCmd : Cmd := { entry := BitVec.ofNat 512 (0x43 + 2 ^ 128) }

/-- A device in full service with that Log Freeze and, under the same handle, a Self-Test that firmware has not taken: no Self-Test runs. -/
def sharedHandle : State :=
  { State.reset with dev := { pwr := { svc := .full }, lci := { ready := true, rmBoot := false, cmds := [freezeCmd, { entry := 0x42, seq := 1 }] } } }

theorem sharedHandle_startable : Dev.Startable sharedHandle.fuse sharedHandle.dev (0 : Handle).toNat 0x43 freezeCmd := by
  constructor <;> decide +kernel

/-- Taking the Log Freeze marks the Self-Test as running too, so the freeze does not begin. -/
theorem sharedHandle_not_frozen :
    (silentOut sharedHandle.fuse (lciTake sharedHandle.fuse sharedHandle.dev (0 : Handle).toNat 0x43 .ok)).log.frozen = false := by decide +kernel

theorem next_inj (s : State) {d e : Dev} (h : (Host.Outcome.next { s with dev := d } : Host.Outcome State Fault Refusal) = .next { s with dev := e }) :
    d = e := congrArg State.dev (Host.Outcome.next.inj h)

theorem exec_logFreeze {h : Handle} {s : State} (ht : s.dev.thaws h.toNat = false) :
    exec (.logFreeze h) s = .next { s with dev := silentOut s.fuse (lciTake s.fuse s.dev h.toNat 0x43 .ok) } :=
  congrArg Host.Outcome.next (if_neg (by simp [ht]))

/-- Refutes O35: in `sharedHandle` no Self-Test runs, but the start of the Log Freeze marks the Self-Test of its handle as running, and the freeze
does not begin. -/
theorem not_reportCommands : ¬ Obligations.REPORT_COMMANDS := by
  unfold Obligations.REPORT_COMMANDS
  rintro ⟨-, -, -, -, -, -, hfreeze, -⟩
  obtain ⟨e, hrun, hfrozen, -⟩ := hfreeze 0 freezeCmd sharedHandle sharedHandle_startable (by decide +kernel) rfl (by decide +kernel)
  rw [exec_logFreeze (by decide +kernel)] at hrun
  rw [← next_inj _ hrun, sharedHandle_not_frozen] at hfrozen
  exact Bool.noConfusion hfrozen

end Sys2Proof.Machine

/-!
PROOFS. O34 (R233 to R237, R252): key commands. A key's blob is unwrapped under keys of the device that no command table entry touches, so the
marks of the command's start make no difference (`unwrapBlob_mapCmd`).
-/
namespace Sys2Proof.Machine

/-! ## The starts -/

section
variable {F : Fuses} {d e : Dev} {h k : Nat} {c : Cmd}

theorem Dev.Startable.keyLoad (hs : d.Startable F h 0x20 c) : lciTake F d h 0x20 .ok = (d.begun h).readPiece h := by
  have hrun : lciTake F d h 0x20 .ok = (d.begun h).readPiece c.taken.handle :=
    hs.acts (act := fun d c => d.readPiece c.handle) (by decide) (by decide) rfl fun d c h20 => by rw [beginCmd, h20]; rfl
  rw [hrun, show c.taken.handle = h from hs.handle]

theorem Dev.Startable.evict (hs : d.Startable F h 0x21 c) : lciTake F d h 0x21 .ok = startEvict (d.begun h) c.taken :=
  hs.acts (by decide) (by decide) rfl fun d c h21 => by rw [beginCmd, h21]; rfl

theorem Dev.Startable.generate (hs : d.Startable F h 0x22 c) : lciTake F d h 0x22 .ok = startGenerate F (d.begun h) c.taken :=
  hs.acts (by decide) (by decide) rfl fun d c h22 => by rw [beginCmd, h22]; rfl

theorem Dev.Startable.epoch (hs : d.Startable F h 0x23 c) : lciTake F d h 0x23 .ok = startEpoch (d.begun h) c.taken :=
  hs.acts (by decide) (by decide) rfl fun d c h23 => by rw [beginCmd, h23]; rfl

theorem Dev.Startable.rekey (hs : d.Startable F h 0x24 c) : lciTake F d h 0x24 .ok = startRekey (d.begun h) c.taken :=
  hs.acts (by decide) (by decide) rfl fun d c h24 => by rw [beginCmd, h24]; rfl

/-! ## Key Load (R233, R236) -/

theorem Cmd.source_blob (h20 : sqOpcode c.entry = 0x20) : c.source = (sqField c.entry 24 8, 84) := by
  rw [Cmd.source, h20]
  rfl

theorem Dev.readPiece_sec (d : Dev) (h : Nat) : (d.readPiece h).sec = d.sec := by
  unfold Dev.readPiece
  split <;> rfl

theorem unwrapBlob_mapCmd (F : Fuses) (d : Dev) (h : Nat) (f : Cmd → Cmd) (x : Head) (b : List Nat) :
    unwrapBlob F (d.mapCmd h f) x b = unwrapBlob F d x b := rfl

/-- A byte list as an outbound read brings it, taken whole. -/
theorem map_toNat_take {data : List Byte} {n : Nat} (hn : data.length = n) : ((data.map (·.toNat)).take n).map (· % 256) = data.map (·.toNat) := by
  rw [List.take_of_length_le (by simp [hn]), List.map_map]
  exact List.map_congr_left fun b _ => Nat.mod_eq_of_lt b.isLt

end
section
variable {F : Fuses} {d : Dev} {h k : Nat} {c : Cmd} {x : Slot}

/-- Completion data of a key's blob, whole in one piece (R60, R233). -/
theorem cmdData_blob {data : List Byte} (hc : d.cmd c.handle = some c) (hop : sqOpcode c.entry = 0x20) (h0 : c.data = []) (hp : c.piece = 84)
    (hlen : data.length = 84) : cmdData F d c.handle (data.map (·.toNat)) .ok =
      keyLoad F (d.mapCmd c.handle fun y => { y with data := data.map (·.toNat) }) c (data.map (·.toNat)) := by
  have hdata : c.data ++ ((data.map (·.toNat)).take c.piece).map (· % 256) = data.map (·.toNat) := by
    rw [h0, hp, map_toNat_take hlen, List.nil_append]
  rw [cmdData, hc]
  dsimp only
  rw [hop, if_neg (by decide), if_neg (by simp), if_neg (by simp [hlen, hp]), hdata, if_neg (by simp [Cmd.source_blob hop, hlen]), if_neg (by decide)]

theorem keyLoad_of_blob {blob : List Nat} (hk : k = sqField c.entry 16 2) (h0 : (d.slot k).state = 0) (hx : unwrapBlob F d c.head blob = some x)
    (hkind : x.kind = sqField c.entry 18 1) (hr : d.sec.rekey = none) :
    keyLoad F d c blob = (d.setSlot k x).finish c.handle 0 1 (leBytes 4 x.title ++ [x.rights]) := by
  have hresume : (d.setSlot k x).rekeyResume = d.setSlot k x := by
    rw [Dev.rekeyResume, show (d.setSlot k x).sec.rekey = none from hr]
  subst hk
  rw [keyLoad]
  rw [if_neg (by simp [h0]), hx]
  dsimp only
  rw [if_neg (by simp [hkind]), hresume]

/-! ## Key Evict (R237) -/

theorem Dev.emptySlot_slot (d : Dev) (k : Nat) : (d.emptySlot k).slot k = {} := Tbl.look_put_same ..

theorem Dev.clearSlot_of_unused (h1 : (d.slot k).state = 1) (hg : d.gondolaUses k = false) : d.clearSlot k = d.emptySlot k := by
  rw [Dev.clearSlot, if_neg (by rw [h1]; decide), if_neg (by simp [hg])]

theorem startEvict_of_unused (hk : k = sqField c.entry 16 2) (h1 : (d.slot k).state = 1) (hg : d.gondolaUses k = false)
    (hw : ∀ w ∈ d.wins, w.key ≠ k) (hu : ∀ x ∈ d.lci.cmds, x.handle ≠ c.handle → k ∉ x.slots) (hr : d.sec.rekey = none) :
    startEvict d c = (d.emptySlot k).finish c.handle 0 1 := by
  have hwins : (d.wins.any fun w => w.key == k) = false := by simpa using hw
  have huses : (d.lci.cmds.any fun x => x.handle != c.handle && decide (x.state < 4) && x.slots.contains k) = false := by
    rw [List.any_eq_false]
    intro x hx
    by_cases hne : x.handle = c.handle
    · simp [hne]
    · simp [hu x hx hne]
  have hempty : (d.clearSlot k).slot k = {} := by rw [Dev.clearSlot_of_unused h1 hg, Dev.emptySlot_slot]
  subst hk
  rw [startEvict]
  dsimp only
  rw [if_neg (by rw [h1]; decide), hwins, huses, hr, if_neg (by simp), hempty, if_pos rfl, Dev.clearSlot_of_unused h1 hg]

theorem Dev.mapCmd_forall {P : Cmd → Prop} {f : Cmd → Cmd} (hP : ∀ c, P c → P (f c)) (hd : ∀ x ∈ d.lci.cmds, P x) :
    ∀ x ∈ (d.mapCmd h f).lci.cmds, P x := by
  intro x hx
  obtain ⟨y, hy, rfl⟩ := List.mem_map.mp hx
  split
  · exact hP y (hd y hy)
  · exact hd y hy

theorem Dev.finishOne_forall {P : Cmd → Prop} (hP : ∀ c s p r, P c → P (c.ended s p r)) (hd : ∀ x ∈ d.lci.cmds, P x) (h status progress : Nat)
    (result : List Nat) : ∀ x ∈ (d.finishOne h status progress result).lci.cmds, P x := by
  have hmap := Dev.mapCmd_forall (h := h) (fun c => hP c status progress result) hd
  rw [Dev.finishOne_eq]
  split
  · exact hd
  · split
    · exact hmap
    · rw [Dev.posts_cmds]
      exact hmap

theorem Dev.finish_forall {P : Cmd → Prop} (hP : ∀ c s p r, P c → P (c.ended s p r)) (hd : ∀ x ∈ d.lci.cmds, P x) (h status progress : Nat)
    (result : List Nat) : ∀ x ∈ (d.finish h status progress result).lci.cmds, P x := by
  have hone := Dev.finishOne_forall hP hd h status progress result
  unfold Dev.finish
  split
  · exact hd
  · exact List.foldlRecOn _ _ (motive := fun e : Dev => ∀ x ∈ e.lci.cmds, P x) hone fun e he s _ => Dev.finishOne_forall hP he s 0 1 []

theorem sanPump_of_none {F : Fuses} (hd : ∀ c ∈ d.lci.cmds, sqOpcode c.entry ≠ 0x12) : sanPump F d = d := by
  have hnone : (d.lci.cmds.filter fun c => sqOpcode c.entry == 0x12 && c.state == 2) = [] := by
    rw [List.filter_eq_nil_iff]
    intro c hc
    simp [hd c hc]
  rw [sanPump, hnone]
  rfl

/-- An emptied slot leaves the list of those that wait for their lines (R237). -/
def Dev.drained (d : Dev) (k : Nat) : Dev :=
  let d1 := d.emptySlot k
  { d1 with sec := { d1.sec with evicting := d1.sec.evicting.filter fun e => e.1 != k } }

theorem Dev.slotDrained_of_waiting (h2 : (d.slot k).state = 2) (hg : d.gondolaUses k = false) (he : d.sec.evicting = [(k, h)]) :
    d.slotDrained k = (d.drained k).finish h 0 1 := by
  have hl : (d.sec.evicting.filter fun e => e.1 == k).map (·.2) = [h] := by simp [he]
  rw [Dev.slotDrained, if_neg (by simp [h2, hg])]
  dsimp only
  rw [hl]
  rfl

theorem Dev.unlockSettle_of_idle (hb : d.dbg.busy = false) : d.unlockSettle = d := if_neg (by simp [hb])

/-! ## Key Generate (R235) and Epoch Advance (R234) -/

/-- The slot that a generated key fills (R235). -/
theorem startGenerate_slot (hk : k = sqField c.entry 16 2) (hb : bit (sqField c.entry 18 1) 0 = false) :
    ((startGenerate F d c).slot k).state = 1 ∧ ((startGenerate F d c).slot k).kind = 2 ∧
      ((startGenerate F d c).slot k).rights = sqField c.entry 20 1 ∧ ((startGenerate F d c).slot k).record = sqField c.entry 19 1 ∧
      ((startGenerate F d c).slot k).title = sqField c.entry 32 4 := by
  subst hk
  rw [startGenerate]
  dsimp only
  rw [if_neg (by simp [hb])]
  dsimp only
  have hslot (d : Dev) (k : Nat) (x : Slot) : (d.setSlot k x).slot k = x := Tbl.look_put_same ..
  rw [Dev.emit_slot, Dev.slot_same _ ((Dev.writeOut_touches ..).same .sec (by decide)), Dev.mapCmd_slot, Dev.ringPut_slot, hslot]
  exact ⟨rfl, rfl, rfl, rfl, rfl⟩

theorem startEpoch_epoch (d : Dev) (c : Cmd) : (startEpoch d c).keel.epoch = d.keel.epoch + 1 := rfl

theorem startEpoch_lci (d : Dev) (c : Cmd) :
    (startEpoch d c).lci = (d.mapCmd c.handle fun y => { y with result := leBytes 4 (d.keel.epoch + 1) }).lci := Dev.statePut_lci ..

/-! ## Rekey (R252) -/

theorem startRekey_sec {n : Nat} {t : Nat × TEntry} (hn : n = sqField c.entry 16 1 % 64) (hk : k = sqField c.entry 18 2) (hr : d.sec.rekey = none)
    (ht : d.tracts.cur.ent.find? (fun e => decide ((d.win n).base / 2 ^ 20 ≤ e.1 ∧ e.1 ≤ (d.win n).hi ∧ (e.2.kind = 1 ∨ e.2.kind = 2))) = some t) :
    (startRekey d c).sec.rekey = some { win := n, slot := k, bnd := t.1 * 2 ^ 20, handle := c.handle } := by
  subst hn hk
  rw [startRekey]
  dsimp only
  rw [hr, Dev.rekeyPump]
  dsimp only
  rw [if_neg (by decide)]
  split
  next e he =>
    obtain rfl : e = t := Option.some.inj (he.symm.trans ht)
    rw [(Dev.migQueue_touches ..).same .sec (by decide)]
  next he => exact absurd (he.symm.trans ht) (by simp)

end

/-- Settles O34. -/
theorem keyCommands : Obligations.KEY_COMMANDS := by
  refine ⟨fun h c s hs => ?load, fun hd tag data c k x s hf htag hc hop h0 hp hst hlen hl hk hk0 hx hkind hr => ?blob,
    fun h c k s hs hk h1 hg hw hu hr => ?evict, fun slot h c s h2 hg he hc hl hb hop hst => ?drain, fun h c k s hs hk hb => ?generate,
    fun h c s hs => ?epoch, fun h c n k t s hs hn hk hr ht => ?rekey⟩
  case load =>
    have hdata : c.data = [] := hs.alone.2.2.2.1
    obtain ⟨tag, hout⟩ := Dev.readPiece_out (Dev.cmd_begun hs.found) hdata
    have hsource : c.taken.began.source = (sqField c.entry 24 8, 84) := Cmd.source_blob hs.opcode
    refine ⟨tag, _, rfl, ?_, ?_⟩
    · rw [silentOut_out, hs.keyLoad, hout, hsource]
      exact List.mem_cons_self
    · rw [silentOut_sec, hs.keyLoad, Dev.readPiece_sec]
      rfl
  case blob =>
    have hread : readDone s.fuse s.dev hd tag.toNat (data.map (·.toNat)) .ok = cmdData s.fuse s.dev c.handle (data.map (·.toNat)) .ok := by
      rw [readDone, Dev.noTimeout_ok, if_neg (by decide), if_neg (by omega), hf]
    have hloud : ((s.dev.mapCmd c.handle fun y => { y with data := data.map (·.toNat) }).setSlot k x).Loud :=
      Dev.Loud.mapCmd (f := fun y => { y with data := data.map (·.toNat) }) hl c.handle fun _ => rfl
    have hcmd : ((s.dev.mapCmd c.handle fun y => { y with data := data.map (·.toNat) }).setSlot k x).cmd c.handle =
      some { c with data := data.map (·.toNat) } := Dev.cmd_mapCmd_same (fun _ => ⟨rfl, id⟩) hc
    have hrun := hread.trans ((cmdData_blob hc hop h0 hp hlen).trans
      (keyLoad_of_blob (d := s.dev.mapCmd c.handle fun y => { y with data := data.map (·.toNat) }) hk hk0 ((unwrapBlob_mapCmd ..).trans hx) hkind hr))
    refine ⟨_, next_congr s ((congrArg (silentOut s.fuse) hrun).trans (silentOut_of_none (hloud.finish _ _ _ _))), ?_,
      Dev.finish_completed hcmd (hloud.cmd hcmd) ..⟩
    rw [Dev.slot_same _ ((Dev.finish_touches ..).same .sec (by decide))]
    exact Tbl.look_put_same ..
  case evict =>
    have hu' : ∀ x ∈ (s.dev.begun h.toNat).lci.cmds, x.handle ≠ h.toNat → k ∉ x.slots :=
      
      Dev.mapCmd_forall (P := fun x => x.handle ≠ h.toNat → k ∉ x.slots) (f := Cmd.began) (fun _ hc => hc)
        (Dev.mapCmd_forall (P := fun x => x.handle ≠ h.toNat → k ∉ x.slots) (f := Cmd.taken) (fun _ hc => hc) hu)
    have hrun : lciTake s.fuse s.dev h.toNat 0x21 .ok = ((s.dev.begun h.toNat).emptySlot k).finish h.toNat 0 1 := by
      rw [hs.evict, startEvict_of_unused (d := s.dev.begun h.toNat) (c := c.taken) hk h1 hg hw (by rw [show c.taken.handle = h.toNat from hs.handle]; exact hu') hr,
        show c.taken.handle = h.toNat from hs.handle]
    obtain ⟨heq, hdone⟩ := hs.finishes hrun rfl
    refine ⟨_, next_congr s heq, ?_, hdone⟩
    rw [Dev.slot_same _ ((Dev.finish_touches ..).same .sec (by decide)), Dev.emptySlot_slot]
  case drain =>
    have hcmd : (s.dev.drained slot.val).cmd h = some c := hc
    have hloud : (s.dev.drained slot.val).Loud := hl
    have hdone : s.dev.slotDrained slot.val = (s.dev.drained slot.val).finish h 0 1 := Dev.slotDrained_of_waiting h2 hg he
    have hops := Dev.finish_forall (d := s.dev.drained slot.val) (P := fun c => sqOpcode c.entry ≠ 0x12) (fun _ _ _ _ hc => hc) hop h 0 1 []
    have hrun : (silentOut s.fuse (sanPump s.fuse (s.dev.slotDrained slot.val))).unlockSettle = (s.dev.drained slot.val).finish h 0 1 := by
      rw [hdone, sanPump_of_none hops, silentOut_of_none (hloud.finish _ _ _ _)]
      exact Dev.unlockSettle_of_idle (by rw [(Dev.finish_touches ..).same .dbg (by decide)]; exact hb)
    refine ⟨_, next_congr s hrun, ?_, Dev.finish_completed hcmd (hl.cmd hc) ..⟩
    rw [Dev.slot_same _ ((Dev.finish_touches ..).same .sec (by decide))]
    exact Dev.emptySlot_slot ..
  case generate =>
    refine ⟨_, rfl, ?_⟩
    rw [silentOut_slot, hs.generate]
    exact startGenerate_slot hk hb
  case epoch =>
    have hloud : (startEpoch (s.dev.begun h.toNat) c.taken).Loud := by
      refine Dev.Loud.of_lci ?_ (startEpoch_lci ..)
      exact Dev.Loud.mapCmd (hs.loud.begun _) _ fun _ => rfl
    exact ⟨_, next_congr s ((congrArg (silentOut s.fuse) hs.epoch).trans (silentOut_of_none hloud)), startEpoch_epoch ..⟩
  case rekey =>
    have hrekey := startRekey_sec (d := s.dev.begun h.toNat) (c := c.taken) hn hk hr ht
    refine ⟨{ win := n, slot := k, bnd := t.1 * 2 ^ 20, handle := c.handle }, _, rfl, ?_, rfl, rfl, hs.handle, rfl, rfl⟩
    exact (congrArg Sec.rekey (silentOut_sec s.fuse _)).trans ((congrArg (fun e : Dev => e.sec.rekey) hs.rekey).trans hrekey)

end Sys2Proof.Machine

/-!
PROOFS. O37 (R41, R42): title windows. A write of LNK_TWIN_CTL is one function of the written word and of the window's bits 0, 30 and 31; its
outcomes are stated once (`twinWrite_of_locked`, `twinWrite_of_on`, `twinWrite_of_off`), and the obligation's clauses pick theirs.
-/
namespace Sys2Proof.Machine

/-! ## A write of LNK_TWIN_CTL -/

/-- What bit 31 of a write adds: the window is locked, and a notice of a refused write is due again (R41). -/
def Dev.twinLocked (d : Dev) (n v : Nat) : Dev :=
  if bit v 31 then { (d.setRbit (LNK_TWIN_CTL n) 31 true) with
    a := { d.a with lockSeen := d.a.lockSeen.filter (· != n) }, b := { d.b with lockSeen := d.b.lockSeen.filter (· != n) } } else d

/-- The configuration word of a window that is not enabled (R41). -/
def twinWord (v mode : Nat) : Nat := 2 ^ 8 * bits v 19 8 + 2 ^ 4 * bits v 5 4 + 2 ^ 3 * bits v 3 3 + 2 * mode

section
variable {F : Fuses} {d : Dev} {h : Head} {n : Fin 64} {v : Nat}

theorem twinWrite_of_locked (h31 : d.rbit (LNK_TWIN_CTL n.val) 31 = true) : twinWrite F d h n v = d := if_pos (.inr (.inr h31))

/-- A write of a window that is on, and that no disable holds (R41, R42). -/
theorem twinWrite_of_on (hl : d.live = true) (ha : activeHead F d h = true) (h31 : d.rbit (LNK_TWIN_CTL n.val) 31 = false)
    (h30 : d.rbit (LNK_TWIN_CTL n.val) 30 = false) (h0 : d.rbit (LNK_TWIN_CTL n.val) 0 = true) :
    twinWrite F d h n v = (if bit v 0 then d else twinOff F d n).twinLocked n.val v := by
  have hpass : twinWrite F d h n v = _ := if_neg (by simp [hl, ha, h31])
  rw [if_neg (by simp [h30]), if_pos h0] at hpass
  rw [hpass, Dev.twinLocked]

/-- A write that enables a window that is off, and that its check refuses or not (R41). -/
theorem twinWrite_of_off (hl : d.live = true) (ha : activeHead F d h = true) (h31 : d.rbit (LNK_TWIN_CTL n.val) 31 = false)
    (h30 : d.rbit (LNK_TWIN_CTL n.val) 30 = false) (h0 : d.rbit (LNK_TWIN_CTL n.val) 0 = false) (hv : bit v 0 = true)
    (hm : bits v 2 1 ≠ 3) {e : Dev} (he : e = d.setReg (LNK_TWIN_CTL n.val) (BitVec.ofNat 32 (twinWord v (bits v 2 1)))) :
    (∀ r, twinCheck F e (e.win n.val) = some r → twinWrite F d h n v = (twinRefuse F e (e.win n.val) r).twinLocked n.val v) ∧
      (twinCheck F e (e.win n.val) = none → twinWrite F d h n v = ((e.setRbit (LNK_TWIN_CTL n.val) 0 true).rekeyResume).twinLocked n.val v) := by
  rw [twinWord] at he
  have hpass : twinWrite F d h n v = _ := if_neg (by simp [hl, ha, h31])
  rw [if_neg (by simp [h30]), if_neg (by simp [h0]), if_neg hm, if_neg (by simp [hv]), ← he] at hpass
  refine ⟨fun r hr => ?_, fun hr => ?_⟩
  · rw [hpass, hr, Dev.twinLocked]
  · rw [hpass, hr, Dev.twinLocked]

theorem Dev.twinLocked_of_clear (d : Dev) (n : Nat) (h31 : bit v 31 = false) : d.twinLocked n v = d := if_neg (by simp [h31])

theorem Dev.twinLocked_rbit (d : Dev) (n : Nat) (h31 : bit v 31 = true) (off k : Nat) :
    (d.twinLocked n v).rbit off k = (d.setRbit (LNK_TWIN_CTL n) 31 true).rbit off k := by
  rw [Dev.twinLocked, if_pos h31]
  rfl

theorem twinWord_fields (v mode : Nat) (hm : mode < 4) : bits (twinWord v mode) 19 8 = bits v 19 8 ∧ bits (twinWord v mode) 2 1 = mode := by
  have hkey := bits_lt v 19 8
  have hmask := bits_lt v 5 4
  have hwt := bits_lt v 3 3
  unfold twinWord
  generalize bits v 19 8 = key at *
  generalize bits v 5 4 = mask at *
  generalize bits v 3 3 = wt at *
  rw [bits, bits]
  omega

theorem twinWord_lt (v mode : Nat) (hm : mode < 4) : twinWord v mode < 2 ^ 32 := by
  have hkey := bits_lt v 19 8
  have hmask := bits_lt v 5 4
  have hwt := bits_lt v 3 3
  unfold twinWord
  omega

theorem Dev.rekeyResume_of_none (hr : d.sec.rekey = none) : d.rekeyResume = d := by rw [Dev.rekeyResume, hr]

/-! ## A disable and its end (R42) -/

theorem Dev.win_en (d : Dev) (n : Nat) : (d.win n).en = d.rbit (LNK_TWIN_CTL n) 0 := rfl

theorem sendBack_of_empty (hs : d.gon.staged = []) (lo hi : Nat) : sendBack F d lo hi = d := by
  have hlist : d.stagedList = [] := by rw [Dev.stagedList, hs]; rfl
  rw [sendBack, hlist]
  rfl

/-- The window's enable is off and its disable in progress (R42). -/
def Dev.twinClosing (d : Dev) (n : Nat) : Dev := (d.setRbit (LNK_TWIN_CTL n) 0 false).setRbit (LNK_TWIN_CTL n) 30 true

theorem twinOff_of_on (h0 : d.rbit (LNK_TWIN_CTL n.val) 0 = true) (hs : d.gon.staged = []) :
    twinOff F d n = (d.twinClosing n.val).invalidateFor (.window n) (d.win n.val).lo (d.win n.val).hi := by
  have hg : ((d.twinClosing n.val).invalidateFor (.window n) (d.win n.val).lo (d.win n.val).hi).gon.staged = [] := by
    rw [(Dev.invalidateFor_touches ..).same .gon (by decide)]
    exact hs
  rw [twinOff, if_neg (by rw [Dev.win_en, h0]; decide)]
  exact sendBack_of_empty hg ..

theorem Dev.twinClosing_rbit (d : Dev) (n : Nat) :
    (d.twinClosing n).rbit (LNK_TWIN_CTL n) 0 = false ∧ (d.twinClosing n).rbit (LNK_TWIN_CTL n) 30 = true := by
  refine ⟨?_, Dev.rbit_setRbit_same _ _ _ _ (by decide)⟩
  rw [Dev.twinClosing, Dev.rbit_setRbit_other _ _ _ _ _ _ (by decide) (.inr (by decide)), Dev.rbit_setRbit_same _ _ _ _ (by decide)]

theorem twinDone_of_clear (h30 : d.rbit (LNK_TWIN_CTL n.val) 30 = true) (hg : d.gondolaIn (d.win n.val).lo (d.win n.val).hi = false)
    (hi : d.cache.invOpen.contains (.window n) = false) :
    twinDone F d n = (d.ctrWindow (d.win n.val)).setRbit (LNK_TWIN_CTL n.val) 30 false := by
  rw [twinDone, if_neg (by simp [h30])]
  dsimp only
  rw [hg, hi]
  rfl

end

/-- Settles O37. -/
theorem titleWindows : Obligations.TITLE_WINDOWS := by
  refine ⟨fun h n v d s hd hl ha h31 h30 h0 hv hv31 hm hr hc => ?enables, fun h n v d r s hd hl ha h31 h30 h0 hv hv31 hm hc => ?refuses,
    fun h n v s hl ha h31 h30 h0 hv hv31 hs => ?disables, fun h n v s hl ha h31 h30 h0 hv hv31 => ?locks, fun h n v s h31 => ?locked,
    fun n s h30 hg hi hb hop hloud => ?done⟩
  case enables =>
    have hmode : bits v.toNat 2 1 < 4 := bits_lt v.toNat 2 1
    obtain ⟨hkey, hmode'⟩ := twinWord_fields v.toNat _ hmode
    have hword : (d.reg (LNK_TWIN_CTL n.val)).toNat = twinWord v.toNat (bits v.toNat 2 1) := by
      rw [hd, Dev.reg_setReg, if_pos rfl, BitVec.toNat_ofNat]
      exact Nat.mod_eq_of_lt (twinWord_lt _ _ hmode)
    have hrun : twinWrite s.fuse s.dev h n v.toNat = d.setRbit (LNK_TWIN_CTL n.val) 0 true := by
      have hnone : (d.setRbit (LNK_TWIN_CTL n.val) 0 true).sec.rekey = none := by rw [Dev.setRbit_sec, hd]; exact hr
      rw [(twinWrite_of_off hl ha h31 h30 h0 hv hm hd).2 hc, Dev.rekeyResume_of_none hnone, Dev.twinLocked_of_clear _ _ hv31]
    refine ⟨_, next_congr s hrun, Dev.rbit_setRbit_same _ _ _ _ (by decide), ?_, ?_⟩
    · rw [Dev.fld_setRbit_other _ _ (by decide) (by decide) (.inr (.inl (by decide))), Dev.fld, hword, hkey]
    · rw [Dev.fld_setRbit_other _ _ (by decide) (by decide) (.inr (.inl (by decide))), Dev.fld, hword, hmode']
  case refuses =>
    refine next_congr s ?_
    rw [(twinWrite_of_off hl ha h31 h30 h0 hv hm hd).1 r hc]
    exact Dev.twinLocked_of_clear _ _ hv31
  case disables =>
    have hrun : twinWrite s.fuse s.dev h n v.toNat = (s.dev.twinClosing n.val).invalidateFor (.window n) (s.dev.win n.val).lo (s.dev.win n.val).hi := by
      rw [twinWrite_of_on hl ha h31 h30 h0, Dev.twinLocked_of_clear _ _ hv31, if_neg (by simp [hv]), twinOff_of_on h0 hs]
    obtain ⟨hen, hbusy⟩ := s.dev.twinClosing_rbit n.val
    refine ⟨_, next_congr s hrun, ?_, ?_, List.mem_append_right _ (List.mem_singleton.mpr rfl)⟩
    · rw [Dev.rbit_same ((Dev.invalidateFor_touches ..).same .regs (by decide)), hen]
    · rw [Dev.rbit_same ((Dev.invalidateFor_touches ..).same .regs (by decide)), hbusy]
  case locks =>
    have hrun : twinWrite s.fuse s.dev h n v.toNat = s.dev.twinLocked n.val v.toNat := by rw [twinWrite_of_on hl ha h31 h30 h0, if_pos hv]
    refine ⟨_, next_congr s hrun, ?_, ?_⟩
    · rw [Dev.twinLocked_rbit _ _ hv31, Dev.rbit_setRbit_same _ _ _ _ (by decide)]
    · rw [Dev.twinLocked_rbit _ _ hv31, Dev.rbit_setRbit_other _ _ _ _ _ _ (by decide) (.inr (by decide)), h0]
  case locked => exact ⟨next_congr s (twinWrite_of_locked h31), next_congr s (twinWrite_of_locked h31), next_congr s (twinWrite_of_locked h31)⟩
  case done =>
    have hdone : twinDone s.fuse s.dev n = (s.dev.ctrWindow (s.dev.win n.val)).setRbit (LNK_TWIN_CTL n.val) 30 false := twinDone_of_clear h30 hg hi
    have htouch : Touches [.regs, .sec] s.dev ((s.dev.ctrWindow (s.dev.win n.val)).setRbit (LNK_TWIN_CTL n.val) 30 false) :=
      .comp (Dev.setRbit_touches ..) (by decide) ((Dev.ctrWindow_touches ..).mono (by decide))
    have hlci := htouch.same .lci (by decide)
    have hrun : (silentOut s.fuse (sanPump s.fuse (twinDone s.fuse s.dev n))).unlockSettle =
        (s.dev.ctrWindow (s.dev.win n.val)).setRbit (LNK_TWIN_CTL n.val) 30 false := by
      rw [hdone, sanPump_of_none (by rw [hlci]; exact hop), silentOut_of_none (by rw [hlci]; exact hloud)]
      exact Dev.unlockSettle_of_idle (by rw [htouch.same .dbg (by decide)]; exact hb)
    exact ⟨_, next_congr s hrun, Dev.rbit_setRbit_same _ _ _ _ (by decide)⟩

end Sys2Proof.Machine

/-!
PROOFS. O29 (R290 to R297): queue pairs. The configuration word packs five fields; its two fields that the pair's behaviour rests on come back by
arithmetic (`qpWord_fields`).
-/
namespace Sys2Proof.Machine

/-! ## Pairs enabled and disabled (R290 to R293) -/

section
variable {F : Fuses} {d : Dev} {h : Head} {n v : Nat}

/-- A pair's configuration word (R290). -/
def qpWord (dp hd v : Nat) (on : Bool) : Nat := dp + 2 ^ 23 * hd + 2 ^ 24 * bits v 29 24 + 2 ^ 30 * bits v 30 30 + (if on then 2 ^ 31 else 0)

theorem qpWord_fields {dp hd : Nat} (hdp : dp < 2 ^ 16) (hhd : hd ≤ 1) (v : Nat) (on : Bool) :
    bits (qpWord dp hd v on) 15 0 = dp ∧ bit (qpWord dp hd v on) 31 = on ∧ qpWord dp hd v on < 2 ^ 32 := by
  have hvec := bits_lt v 29 24
  have hirq := bits_lt v 30 30
  unfold qpWord
  generalize bits v 29 24 = vec at *
  generalize bits v 30 30 = irq at *
  rw [bit_eq, bits, bits]
  cases on
  · exact ⟨by simp; omega, decide_eq_false (by simp; omega), by simp; omega⟩
  · exact ⟨by simp; omega, decide_eq_true (by simp; omega), by simp; omega⟩

/-- The head field of a pair's configuration (R290). -/
def qpHeadBit (F : Fuses) (d : Dev) (n v : Nat) : Nat := if portMode F d = .bonded then bits v 23 23 else b2n (decide (pairHeadOf F d n = .b))

theorem qpHeadBit_le (F : Fuses) (d : Dev) (n v : Nat) : qpHeadBit F d n v ≤ 1 := by
  unfold qpHeadBit
  split
  · exact Nat.le_of_lt_succ (bits_lt v 23 23)
  · cases decide (pairHeadOf F d n = .b) <;> decide

/-- A configured pair, before its doorbells and pointers are cleared. -/
def Dev.qpSet (d : Dev) (F : Fuses) (n v dp : Nat) (on : Bool) : Dev :=
  d.setReg (MBX_QP_CFG n) (BitVec.ofNat 32 (qpWord dp (qpHeadBit F d n v) v on))

theorem Dev.qpSet_cfg {dp : Nat} (hdp : dp < 2 ^ 16) (on : Bool) :
    (d.qpSet F n v dp on).depth n = dp + 1 ∧ (d.qpSet F n v dp on).qpOn n = on := by
  obtain ⟨hlow, hon, hlt⟩ := qpWord_fields hdp (qpHeadBit_le F d n v) v on
  have hreg : ((d.qpSet F n v dp on).reg (MBX_QP_CFG n)).toNat = qpWord dp (qpHeadBit F d n v) v on := by
    rw [Dev.qpSet, Dev.reg_setReg, if_pos rfl, BitVec.toNat_ofNat, Nat.mod_eq_of_lt hlt]
  exact ⟨by rw [Dev.depth, Dev.fld, hreg, hlow], by rw [Dev.qpOn, Dev.rbit, hreg, hon]⟩

/-- A pair that is enabled starts with its doorbells and pointers at 0 (R290). -/
def Dev.qpFresh (d : Dev) (n : Nat) (err : Bool) : Dev := ((d.setReg (MBX_SQ_DB n) 0).setReg (MBX_CQ_DB n) 0).setQp n { dbErr := err }

theorem Dev.qp_setQp (d : Dev) (n k : Nat) (x : Qp) : (d.setQp n x).qp k = if k = n then x else d.qp k := Tbl.look_put ..

theorem Dev.qpFresh_cfg (hn : n < 64) (err : Bool) : (d.qpFresh n err).reg (MBX_QP_CFG n) = d.reg (MBX_QP_CFG n) := by
  have hs : MBX_QP_CFG n ≠ MBX_SQ_DB n := by unfold MBX_QP_CFG MBX_SQ_DB; omega
  have hc : MBX_QP_CFG n ≠ MBX_CQ_DB n := by unfold MBX_QP_CFG MBX_CQ_DB; omega
  show ((d.setReg (MBX_SQ_DB n) 0).setReg (MBX_CQ_DB n) 0).reg _ = _
  rw [Dev.reg_setReg, if_neg hc, Dev.reg_setReg, if_neg hs]

theorem Dev.qpFresh_doorbells (d : Dev) (n : Nat) (err : Bool) : (d.qpFresh n err).reg (MBX_SQ_DB n) = 0 ∧ (d.qpFresh n err).reg (MBX_CQ_DB n) = 0 := by
  have hne : MBX_SQ_DB n ≠ MBX_CQ_DB n := by unfold MBX_SQ_DB MBX_CQ_DB; omega
  constructor
  · show ((d.setReg (MBX_SQ_DB n) 0).setReg (MBX_CQ_DB n) 0).reg _ = _
    rw [Dev.reg_setReg, if_neg hne, Dev.reg_setReg, if_pos rfl]
  · show ((d.setReg (MBX_SQ_DB n) 0).setReg (MBX_CQ_DB n) 0).reg _ = _
    rw [Dev.reg_setReg, if_pos rfl]

theorem qpWrite_eq {dp : Nat} {on : Bool} (hdp : (if bits v 15 0 = 0 then d.fld (MBX_QP_CFG n) 15 0 else bits v 15 0) = dp)
    (hon : (bit v 31 && decide (dp ≠ 0)) = on) :
    qpWrite F d n v = if on then (d.qpSet F n v dp on).qpFresh n (d.qp n).dbErr else d.qpSet F n v dp on := by
  subst hdp hon
  rfl

/-- A write that enables an idle pair (R11, R290). -/
theorem qpCfgWrite_of_idle (hl : d.live = true) (hm : pairMine F d h n = true) (ho : d.qpOn n = false) (hi : (d.qp n).idle = true)
    (hv : bit v 31 = true) {dp : Nat} (hdp : (if bits v 15 0 = 0 then d.fld (MBX_QP_CFG n) 15 0 else bits v 15 0) = dp) :
    qpCfgWrite F d h n v = if decide (dp ≠ 0) then (d.qpSet F n v dp (decide (dp ≠ 0))).qpFresh n (d.qp n).dbErr
      else d.qpSet F n v dp (decide (dp ≠ 0)) := by
  rw [qpCfgWrite, if_neg (by simp [hl, hm]), if_neg (by simp [ho]), if_pos hi, qpWrite_eq hdp rfl, hv, Bool.true_and]

theorem qpCfgWrite_of_off (hl : d.live = true) (hm : pairMine F d h n = true) (ho : d.qpOn n = true) (hv : bit v 31 = false) :
    qpCfgWrite F d h n v = qpOff d n := by
  rw [qpCfgWrite, if_neg (by simp [hl, hm]), if_pos ho, if_neg (by simp [hv])]

/-! ## Doorbells (R291, R295) -/

theorem sqDoor_of_range {k old hd : Nat} (hl : d.live = true) (hm : pairMine F d h n = true) (hk : k = d.depth n)
    (ho : old = d.fld (MBX_SQ_DB n) 15 0) (hh : hd = (d.qp n).sqHead) (ht : bits v 15 0 < k) (hr : (old + k - hd) % k ≤ (bits v 15 0 + k - hd) % k) :
    sqDoor F d h n v = d.setReg (MBX_SQ_DB n) (BitVec.ofNat 32 (bits v 15 0)) := by
  subst hk ho hh
  rw [sqDoor, if_neg (by simp [hl, hm])]
  exact if_neg (by omega)

theorem sqDoor_of_past (hl : d.live = true) (hm : pairMine F d h n = true) (ht : d.depth n ≤ bits v 15 0) : sqDoor F d h n v = d.dbErr n := by
  rw [sqDoor, if_neg (by simp [hl, hm])]
  exact if_pos (.inl ht)

theorem cqDoor_of_range {k old : Nat} (hl : d.live = true) (hm : pairMine F d h n = true) (hk : k = d.depth n)
    (ho : old = d.fld (MBX_CQ_DB n) 15 0) (ht : bits v 15 0 < k) (he : (d.qp n).out = [])
    (hr : (bits v 15 0 + k - old) % k ≤ ((d.qp n).cqTail + k - old) % k) :
    cqDoor F d h n v = d.setReg (MBX_CQ_DB n) (BitVec.ofNat 32 (bits v 15 0)) := by
  subst hk ho
  have he' : ((d.setReg (MBX_CQ_DB n) (BitVec.ofNat 32 (bits v 15 0))).qp n).out.isEmpty = true := by
    show (d.qp n).out.isEmpty = true
    rw [he]
    rfl
  rw [cqDoor, if_neg (by simp [hl, hm])]
  dsimp only
  rw [if_neg (by omega), he', if_pos rfl]

end

/-! ## A fetch (R294, R298) -/

section
variable {F : Fuses} {d : Dev} {n : Nat} {entry : LineData}

/-- The command that a fetch makes of an SQ entry (R298). -/
def Dev.fetched (d : Dev) (F : Fuses) (n : Nat) (entry : LineData) : Cmd :=
  { entry := entry, handle := n * 2 ^ 26 + (d.qp n).gen * 2 ^ 16 + (d.qp n).sqHead, head := pairHead F d n, seq := d.lci.seq, time := d.tether.now }

/-- The command table and the pair after a fetch that does not reach the end of the queue (R294). -/
def Dev.sqTaken (d : Dev) (F : Fuses) (n : Nat) (entry : LineData) : Dev :=
  let l := d.lci
  ({ d with lci := { l with cmds := l.cmds ++ [d.fetched F n entry], seq := l.seq + 1, turn := n,
                            taken := if n = l.turn then l.taken % 16 + 1 else 1 } }).setQp n
    { d.qp n with sqHead := (d.qp n).sqHead + 1, idle := false }

theorem sqTake_lci (ht : turnOf F d n = true) (hw : (d.qp n).sqHead + 1 < d.depth n) :
    (sqTake F d n entry false).lci = (d.sqTaken F n entry).lci := by
  have hwrap : decide ((d.qp n).sqHead + 1 = d.depth n) = false := decide_eq_false (by omega)
  rw [sqTake, if_neg (by simp [ht])]
  dsimp only
  rw [hwrap, if_neg (by decide)]
  split
  · rw [Dev.icu_lci, Dev.count_lci]
    rfl
  · split
    · rw [Dev.count_lci, Dev.count_lci]
      rfl
    · rw [Dev.count_lci]
      rfl

end

/-! ## A CQ entry (R296, R297) -/

section
variable {F : Fuses} {d : Dev} {h n : Nat} {c : Cmd}

/-- The pair after a CQ entry that does not reach the end of the queue (R297). -/
def Qp.posted (q : Qp) (recent : List (Nat × List Nat × Nat)) : Qp :=
  { q with cqTail := q.cqTail + 1, seq := (q.seq + 1) % 2 ^ 16, out := q.out.drop 1, recent := recent }

/-- A pair with nothing in flight becomes idle (R292). -/
def Dev.pairIdle (d : Dev) (n : Nat) : Dev := if d.qpOn n ∧ (d.pairCmds n).isEmpty then d.setQp n { d.qp n with idle := true } else d

theorem Dev.pairIdle_qp (d : Dev) (n : Nat) : ∃ b, (d.pairIdle n).qp n = { d.qp n with idle := b } := by
  unfold Dev.pairIdle
  split
  · exact ⟨true, by rw [Dev.qp_setQp, if_pos rfl]⟩
  · exact ⟨_, rfl⟩

/-- The message of a pair's vector, where it has one (R296). -/
def Dev.pairMsg (d : Dev) (hd : Head) (n : Nat) : Dev :=
  if d.rbit (MBX_QP_CFG n) 30 then d.msixSend hd (d.fld (MBX_QP_CFG n) 29 24) else d

theorem Dev.pairMsg_qp (d : Dev) (hd : Head) (n : Nat) : (d.pairMsg hd n).qp n = d.qp n := by
  unfold Dev.pairMsg
  split
  · rw [Dev.msixSend_qp]
  · rfl

theorem Dev.OutGrows.pairNotice (d : Dev) (hd : Head) (n : Nat) : d.OutGrows ((d.pairMsg hd n).pairIdle n) := by
  have hsend : d.OutGrows (d.pairMsg hd n) := .ite (.msixSend ..) (.refl d)
  exact .ite (.comp (.refl _) hsend) hsend

/-- A finished command's completion goes to the host's memory, and the command leaves the table (R296, R297). -/
def Dev.cqEntry (d : Dev) (h : Nat) (q : Qp) (hd : Head) (t a : Nat) (b : List Nat) : Dev :=
  (((((d.setQp (qpOf h) q).dropCmd h).freeChan h).latency 4 (some hd) t).count 0x281).emit (.hostWrite hd a b)

theorem Dev.cqEntry_qp (d : Dev) (h : Nat) (q : Qp) (hd : Head) (t a : Nat) (b : List Nat) : (d.cqEntry h q hd t a b).qp (qpOf h) = q := by
  rw [Dev.cqEntry, Dev.emit_qp, Dev.count_qp, Dev.latency_qp, Dev.freeChan_qp]
  exact Tbl.look_put_same ..

theorem cqWrite_of_room {hd : Head} {q : Qp} {a : Nat} (hh : hd = pairHead F d n) (hn : n = qpOf h) (hq : q = d.qp n)
    (hc : d.lci.cmds.find? (fun c => c.handle == h && c.state == 4) = some c) (ho : q.out.head? = some h) (hf : d.fwRuns = true)
    (hr : d.cqRoom n = true) (h0 : (d.head hd).dstate = 0) (hl : (d.head hd).linkUp = true) (h3 : c.d3hold = false)
    (hw : q.cqTail + 1 < d.depth n) (ha : a = d.reg64 (MBX_QP_CQ_BASE_LO n) + 64 * q.cqTail) :
    ∃ r, cqWrite F d h false = ((d.cqEntry h (q.posted r) hd (d.tether.now - c.time) a
      (cqBytes h c.status q.seq (sqCid c.entry) q.sqHead q.phase c.progress c.result)).pairMsg hd n).pairIdle n := by
  subst hh hn hq ha
  have hwrap : decide ((d.qp (qpOf h)).cqTail + 1 = d.depth (qpOf h)) = false := decide_eq_false (by omega)
  refine ⟨((d.qp (qpOf h)).recent.filter fun r => decide (d.tether.now < r.2.2 + 1000000)) ++
    [(d.reg64 (MBX_QP_CQ_BASE_LO (qpOf h)) + 64 * (d.qp (qpOf h)).cqTail, cqBytes h c.status (d.qp (qpOf h)).seq (sqCid c.entry)
      (d.qp (qpOf h)).sqHead (d.qp (qpOf h)).phase c.progress c.result, d.tether.now)], ?_⟩
  rw [cqWrite]
  dsimp only
  rw [hc]
  dsimp only
  rw [if_neg (by simp [ho, hf, hr, h0, hl, h3]), hwrap]
  rfl

end

/-- Settles O29. -/
theorem queuePairs : Obligations.QUEUE_PAIRS := by
  refine ⟨fun h n v s hl hm ho hi hv hd => ?enable, fun h n v s hl hm ho hi hv hd => ?keepsDepth, fun h n v s hl hm ho hv hc hk => ?disable,
    fun n s hc ho => ?idle, fun h n v s k old hd hl hm hk ho hh ht hr => ?door, fun h n v s hl hm ht => ?past,
    fun h n v s k old hl hm hk ho ht he hr => ?cqDoor, fun n entry s ht hw => ?fetch,
    fun h c hd q a s hh hq hc ho hf hr h0 hl h3 hw ha => ?posts⟩
  case enable =>
    have hlt : bits v.toNat 15 0 < 2 ^ 16 := bits_lt v.toNat 15 0
    have hrun : qpCfgWrite s.fuse s.dev h n.val v.toNat = (s.dev.qpSet s.fuse n.val v.toNat (bits v.toNat 15 0) true).qpFresh n.val (s.dev.qp n.val).dbErr := by
      rw [qpCfgWrite_of_idle hl hm ho hi hv (if_neg hd), decide_eq_true hd, if_pos rfl]
    obtain ⟨hdepth, hon⟩ := Dev.qpSet_cfg (F := s.fuse) (d := s.dev) (n := n.val) (v := v.toNat) hlt true
    have hcfg := Dev.qpFresh_cfg (d := s.dev.qpSet s.fuse n.val v.toNat (bits v.toNat 15 0) true) n.isLt (s.dev.qp n.val).dbErr
    refine ⟨_, next_congr s hrun, ?_, ?_, (Dev.qpFresh_doorbells ..).1, (Dev.qpFresh_doorbells ..).2, ?_⟩
    · rw [Dev.qpOn, Dev.rbit, hcfg]
      exact hon
    · rw [Dev.depth, Dev.fld, hcfg]
      exact hdepth
    · rw [Dev.qpFresh, Dev.qp_setQp, if_pos rfl]
  case keepsDepth =>
    have hlt : s.dev.fld (MBX_QP_CFG n.val) 15 0 < 2 ^ 16 := bits_lt _ 15 0
    obtain ⟨hdepth, hon⟩ := Dev.qpSet_cfg (F := s.fuse) (d := s.dev) (n := n.val) (v := v.toNat) hlt (decide (s.dev.fld (MBX_QP_CFG n.val) 15 0 ≠ 0))
    refine ⟨_, next_congr s (qpCfgWrite_of_idle hl hm ho hi hv (if_pos hd)), ?_⟩
    split
    · rw [Dev.depth, Dev.qpOn, Dev.fld, Dev.rbit, Dev.qpFresh_cfg n.isLt]
      exact ⟨hdepth, hon⟩
    · exact ⟨hdepth, hon⟩
  case disable =>
    have hlocks : (s.dev.setRbit (MBX_QP_CFG n.val) 31 false).abandonLocks n.val = s.dev.setRbit (MBX_QP_CFG n.val) 31 false := by
      rw [Dev.abandonLocks, Dev.setRbit_lci, hk]
      rfl
    have hnone : (s.dev.setRbit (MBX_QP_CFG n.val) 31 false).pairCmds n.val = [] := by
      rw [Dev.pairCmds, Dev.setRbit_lci, hc]
      rfl
    have hrun : qpCfgWrite s.fuse s.dev h n.val v.toNat = s.dev.setRbit (MBX_QP_CFG n.val) 31 false := by
      rw [qpCfgWrite_of_off hl hm ho hv, qpOff, hlocks, hnone]
      rfl
    exact ⟨_, next_congr s hrun, Dev.rbit_setRbit_same _ _ _ _ (by decide), Dev.setRbit_lci ..⟩
  case idle =>
    exact ⟨_, next_congr s (if_pos (by rw [hc, ho]; exact ⟨rfl, rfl⟩)), by rw [Dev.qp_setQp, if_pos rfl], rfl⟩
  case door =>
    exact ⟨_, next_congr s (sqDoor_of_range hl hm hk ho hh ht hr), by rw [Dev.reg_setReg, if_pos rfl], rfl⟩
  case past =>
    exact ⟨_, next_congr s (sqDoor_of_past hl hm ht), by rw [Dev.dbErr, Dev.qp_setQp, if_pos rfl], rfl⟩
  case cqDoor =>
    exact ⟨_, next_congr s (cqDoor_of_range hl hm hk ho ht he hr), by rw [Dev.reg_setReg, if_pos rfl]⟩
  case fetch =>
    have hlci := sqTake_lci (entry := entry) ht hw
    have hqp : (sqTake s.fuse s.dev n.val entry false).qp n.val = { s.dev.qp n.val with sqHead := (s.dev.qp n.val).sqHead + 1, idle := false } := by
      rw [Dev.qp_same _ hlci, Dev.sqTaken, Dev.qp_setQp, if_pos rfl]
    refine ⟨s.dev.fetched s.fuse n.val entry, _, rfl, congrArg Lci.cmds hlci, rfl, rfl, rfl, rfl, rfl, ?_⟩
    rw [hqp]
    exact ⟨rfl, rfl, rfl⟩
  case posts =>
    obtain ⟨r, hrun⟩ := cqWrite_of_room hh rfl hq hc ho hf hr h0 hl h3 hw ha
    refine ⟨_, next_congr s hrun, Dev.OutGrows.pairNotice _ _ _ List.mem_cons_self, ?_⟩
    obtain ⟨b, hqp⟩ := Dev.pairIdle_qp ((s.dev.cqEntry h.toNat (q.posted r) hd (s.dev.tether.now - c.time) a
      (cqBytes h.toNat c.status q.seq (sqCid c.entry) q.sqHead q.phase c.progress c.result)).pairMsg hd (qpOf h.toNat)) (qpOf h.toNat)
    rw [hqp, Dev.pairMsg_qp, Dev.cqEntry_qp]
    exact ⟨rfl, rfl, rfl, rfl⟩

end Sys2Proof.Machine

/-!
PROOFS. O38 (R307, R329, R391, R394): the register mailbox. A free mailbox runs its command on the device that `rmGo` makes of the state, which
differs from it in the registers and in the mailbox alone.
-/
namespace Sys2Proof

/-! ## A device that only a few parts tell apart -/

open Machine

theorem Touches.regs_lci_eq {d e : Dev} (h : Touches [.regs, .lci] d e) : e = { d with regs := e.regs, lci := e.lci } := by
  have hp := fun p hp => h.same p hp
  cases d
  cases e
  simp only [Dev.mk.injEq, true_and]
  exact ⟨hp .a (by decide), hp .b (by decide), hp .tether (by decide), hp .launch (by decide), hp .gpio (by decide), hp .keel (by decide),
    hp .log (by decide), hp .aon (by decide), hp .cores (by decide), hp .sems (by decide), hp .images (by decide), hp .pmc (by decide),
    hp .bst (by decide), hp .dbg (by decide), hp .gon (by decide), hp .cache (by decide), hp .media (by decide), hp .tracts (by decide),
    hp .drift (by decide), hp .sec (by decide), hp .str (by decide), hp .pwr (by decide), hp .therm (by decide), hp .out (by decide),
    hp .fresh (by decide)⟩

theorem Touches.regs_eq {d e : Dev} (h : Touches [.regs] d e) : e = { d with regs := e.regs } := by
  have heq := (h.mono (l := [.regs, .lci]) (by decide)).regs_lci_eq
  rwa [show e.lci = d.lci from h.same .lci (by decide)] at heq

end Sys2Proof

namespace Sys2Proof.Machine

/-! ## A command of the mailbox begins and ends -/

section
variable {F : Fuses} {d : Dev} {h : Head} {op : Nat}

theorem Dev.rmGo_eq (d : Dev) (h : Head) (op : Nat) : d.rmGo h op = { d with regs := (d.rmGo h op).regs, lci := (d.rmGo h op).lci } :=
  (Dev.rmGo_touches d h op).regs_lci_eq

theorem Dev.rmGo_busy (hb : d.lci.rmBusy = false) : (d.rmGo h op).lci.rmBusy = true := by
  rw [Dev.rmGo, if_neg (by simp [hb]), (Dev.icu_touches ..).same .lci (by decide), (Dev.setFld_touches ..).same .lci (by decide)]

/-- A free mailbox runs its command: the boot code's restriction does not hold (R307). -/
theorem rmRun_of_free (hm : d.MailboxFree F h) (f : Dev → Dev) : rmRun F d h op f = f (d.rmGo h op) := by
  obtain ⟨ha, hl, hs, hk, hb, hboot⟩ := hm
  rw [rmRun, if_neg (by simp [Dev.rmMay, ha, hl, hs, hk, hb]), if_neg (by simp [hboot])]

theorem svcState_rmGo (d : Dev) (h : Head) (op : Nat) : svcState (d.rmGo h op) = svcState d := by rw [Dev.rmGo_eq]; rfl

/-! ## The commands -/

theorem Dev.reg_rmRes (d : Dev) (k v j : Nat) :
    (d.rmRes k v).reg (MBX_RM_ARG j) = if j = k then BitVec.ofNat 32 v else d.reg (MBX_RM_ARG j) := by
  rw [Dev.rmRes, Dev.reg_setReg]
  by_cases hj : j = k
  · rw [if_pos hj, if_pos (by rw [hj])]
  · rw [if_neg hj, if_neg (by unfold MBX_RM_ARG; omega)]

theorem rmStatusOf_ends : (rmStatusOf F d).lci.rmBusy = false ∧ (rmStatusOf F d).lci.rmStatus = 0 := ⟨rfl, rfl⟩

theorem rmStatusOf_service : (rmStatusOf F d).reg (MBX_RM_ARG 0) = BitVec.ofNat 32 (svcState d) := by
  simp [rmStatusOf, Dev.reg_rmRes]

theorem rmStatusOf_step : (rmStatusOf F d).reg (MBX_RM_ARG 2) = BitVec.ofNat 32 d.pwr.step := by
  simp [rmStatusOf, Dev.reg_rmRes]

theorem rmStatusOf_image : (rmStatusOf F d).reg (MBX_RM_ARG 3) = BitVec.ofNat 32 (if d.images.running < 2 then d.images.running else 0xFF) := by
  simp [rmStatusOf, Dev.reg_rmRes]

theorem rmLog_of_count (h0 : 0 < d.rmArg 1) (h4 : d.rmArg 1 ≤ 4) :
    rmLog F d = (d.putWords (MBX_RM_DATA 0) (logRecords F d (d.rmArg 0) (d.rmArg 1)).flatten).rmEnd 0 := if_neg (by omega)

theorem rmLog_of_none (h0 : d.rmArg 1 = 0) : rmLog F d = d.rmEnd 0x0102 := if_pos (.inl h0)

theorem rmUnfinished_of_count (h0 : 0 < d.rmArg 1) (h4 : d.rmArg 1 ≤ 4) :
    rmUnfinished d = ((d.putWords (MBX_RM_DATA 0) (d.uwlRecords (d.rmArg 0) (d.rmArg 1)).flatten).rmRes 2 d.keel.uwlEntries.length).rmEnd 0 :=
  if_neg (by omega)

theorem rmImage_of_slot (hs : d.rmArg 0 < 2) (hr : d.rmArg 0 ≠ d.images.running) (ha : d.rmArg 1 % 256 = 0) (hlt : d.rmArg 1 < 2 ^ 23) :
    rmImage d = ((d.imagePoke (d.rmArg 0) (d.rmArg 1) d.rmData).icu 102).rmEnd 0 := by
  rw [rmImage, if_neg (by omega), if_neg (by omega)]

theorem rmImage_of_running (hr : d.rmArg 0 = d.images.running) : rmImage d = d.rmEnd 0x0102 := if_pos (.inr (.inr hr))

theorem rmSelect_of_ok (hs : d.rmArg 0 < 2) (hok : imageOk F d (d.rmArg 0) = true) :
    rmSelect F d = ({ d with lci := { d.lci with rmStatus := 0 } }.rmRes 1 1).selectImage (d.rmArg 0) rmOwner := by
  rw [rmSelect, if_neg (by omega), if_neg (by simp [hok])]

theorem Dev.selectImage_sel (d : Dev) (slot owner : Nat) : (d.selectImage slot owner).keel.sel = slot := by
  rw [Dev.selectImage, Dev.statePut, Dev.ringPut, Dev.keelPut]

theorem Dev.selectImage_lci (d : Dev) (slot owner : Nat) : (d.selectImage slot owner).lci = d.lci := by
  rw [Dev.selectImage, (Dev.statePut_touches ..).same .lci (by decide)]

theorem uwlAdd_foldl_lci (d : Dev) (l : List Nat) (f : Nat → List UwlEntry) : (l.foldl (fun d c => uwlAdd F d c (f c)) d).lci = d.lci :=
  (Touches.foldl (l := [.regs, .keel, .log, .aon]) (fun _ _ => uwlAdd_touches ..) (Touches.refl ..)).same .lci (by decide)

theorem silentOut_mailbox (d : Dev) : (silentOut F d).lci.rmBusy = d.lci.rmBusy ∧ (silentOut F d).lci.rmStatus = d.lci.rmStatus := by
  unfold silentOut
  rw [uwlAdd_foldl_lci]
  exact ⟨rfl, rfl⟩

end

/-- Settles O38. -/
theorem registerMailbox : Obligations.REGISTER_MAILBOX := by
  unfold Obligations.REGISTER_MAILBOX
  refine ⟨?_, ?_, ?_, ?_, ?_, ?_, ?_, ?_, ?_⟩
  case refine_1 =>
    rintro h d s hm rfl
    have hi : (s.dev.rmGo h 1).images = s.dev.images := (Dev.rmGo_touches ..).same .images (by decide)
    have hp : (s.dev.rmGo h 1).pwr = s.dev.pwr := (Dev.rmGo_touches ..).same .pwr (by decide)
    refine ⟨_, next_congr s (rmRun_of_free hm _), rmStatusOf_ends.1, rmStatusOf_ends.2, ?_, ?_, ?_⟩
    · rw [rmStatusOf_service, svcState_rmGo]
    · rw [rmStatusOf_step, hp]
    · rw [rmStatusOf_image, hi]
  case refine_2 =>
    rintro h d s hm rfl h0 h4
    exact ⟨_, next_congr s ((rmRun_of_free hm _).trans (rmLog_of_count h0 h4)), rfl, rfl, rfl⟩
  case refine_3 =>
    rintro h d s hm rfl h0
    exact ⟨_, next_congr s ((rmRun_of_free hm _).trans (rmLog_of_none h0)), rfl, rfl⟩
  case refine_4 =>
    rintro h d s hm rfl h0 h4
    exact ⟨_, next_congr s ((rmRun_of_free hm _).trans (rmUnfinished_of_count h0 h4)), rfl, rfl, rfl⟩
  case refine_5 =>
    rintro h d s hm rfl h0 h1 h2 h3
    refine ⟨_, next_congr s ((rmRun_of_free hm _).trans (rmImage_of_slot h0 h1 h2 h3)), rfl, rfl, ?_⟩
    exact (Dev.icu_touches _ 102).same .images (by decide)
  case refine_6 =>
    rintro h d s hm rfl hr
    refine ⟨_, next_congr s ((rmRun_of_free hm _).trans (rmImage_of_running hr)), rfl, ?_⟩
    exact (Dev.rmGo_touches ..).same .images (by decide)
  case refine_7 =>
    rintro h d s hm hk rfl hs hok
    refine ⟨_, (congrArg Host.Outcome.next (if_pos hk)).trans (next_congr s ((rmRun_of_free hm _).trans (rmSelect_of_ok hs hok))),
      Dev.selectImage_sel .., ?_, ?_⟩
    · rw [Dev.selectImage_lci]
      exact Dev.rmGo_busy hm.2.2.2.2.1
    · rw [Dev.selectImage_lci]
      rfl
  case refine_8 =>
    rintro h d s hm rfl
    exact ⟨_, next_congr s (rmRun_of_free hm _), rfl, rfl, rfl⟩
  case refine_9 =>
    rintro h d s hm rfl
    obtain ⟨hb, hs⟩ := silentOut_mailbox (F := s.fuse) ((clearPairs s.fuse (s.dev.rmGo h 7) (pairsOf s.fuse (s.dev.rmGo h 7) h) 8).rmEnd 0)
    exact ⟨_, next_congr s (rmRun_of_free hm _), hb, hs, rfl⟩

end Sys2Proof.Machine

/-!
PROOFS. O39 (R30, R38, R49, R308): what the CXL mailbox answers. An open mailbox runs its command on a device that differs from the state in the
registers alone, and no response reads a register.
-/
namespace Sys2Proof.Machine

section
variable {F : Fuses} {d : Dev} {h : Head}

/-- An open mailbox runs its command; what it runs on differs in the registers alone (R308). -/
theorem mailRun_of_open (hm : d.MailOpen F h) (f : Dev → Dev) :
    mailRun F d h f = f { d with regs := (d.icu (67 + hIdx h)).regs } := by
  obtain ⟨ha, hl, hs, hr, hk⟩ := hm
  rw [mailRun, if_neg (by simp [ha, hl, hs, hr, hk])]
  exact congrArg f (Dev.icu_touches ..).regs_eq

theorem headCapacity_regs (r : Tbl (Option Reg32)) : headCapacity F { d with regs := r } h = headCapacity F d h := rfl

theorem memoryBytes_regs (r : Tbl (Option Reg32)) : memoryBytes F { d with regs := r } h = memoryBytes F d h := by
  simp only [memoryBytes, persistUnits, headCapacity_regs, Dev.fwVer]

theorem partitionBytes_regs (r : Tbl (Option Reg32)) : partitionBytes F { d with regs := r } h = partitionBytes F d h := by
  simp only [partitionBytes, persistUnits, headCapacity_regs]

theorem bgStatus_regs (r : Tbl (Option Reg32)) : bgStatus { d with regs := r } = bgStatus d := rfl

theorem fwInfo_regs (r : Tbl (Option Reg32)) : fwInfo { d with regs := r } = fwInfo d := rfl

theorem wearMax_regs (r : Tbl (Option Reg32)) : ({ d with regs := r } : Dev).wearMax = d.wearMax := rfl

theorem Dev.mail_out (d : Dev) (h : Head) (code : Nat) (payload : List Nat) : (d.mail h code payload).out = .mailbox h code payload :: d.out := rfl

theorem lsaGet_within {off n : Nat} (hle : off + n ≤ 16384) : lsaGet d h off n = d.mail h 0 (lsaBytes d h off n) := if_neg (by omega)

theorem lsaGet_beyond {off n : Nat} (hlt : 16384 < off + n) : lsaGet d h off n = d.mail h 2 := if_pos hlt

theorem poisonGet_of_all (hp : (d.head h).poisonMore = false) : poisonGet d h = d.mail h 0 (poisonBytes (d.head h) 0) := if_neg (by simp [hp])

theorem exec_unsupportedMailboxCommand (s : State) {op : BitVec 16} (hop : op.toNat ∉ mailOpcodes) :
    exec (.unsupportedMailboxCommand h op) s = .next { s with dev := mailRun s.fuse s.dev h fun d => d.mail h 3 } :=
  congrArg Host.Outcome.next (if_neg (by simpa using hop))

end

/-- Settles O39. -/
theorem cxlMailboxReads : Obligations.CXL_MAILBOX_READS := by
  unfold Obligations.CXL_MAILBOX_READS
  intro h s hm
  have hrun := mailRun_of_open hm
  have hhead : ∀ r, ({ s.dev with regs := r } : Dev).head h = s.dev.head h := fun r => by cases h <;> rfl
  refine ⟨⟨_, next_congr s (hrun _), rfl⟩, ⟨_, next_congr s (hrun _), ?_⟩, fun log => ⟨_, next_congr s (hrun _), ?_, ?_⟩,
    ⟨_, next_congr s (hrun _), ?_⟩, ⟨_, next_congr s (hrun _), ?_⟩, ⟨_, next_congr s (hrun _), ?_⟩, ⟨_, next_congr s (hrun _), rfl⟩,
    ⟨_, next_congr s (hrun _), rfl⟩, ⟨_, next_congr s (hrun _), ?_⟩, ⟨_, next_congr s (hrun _), ?_⟩,
    fun off len hle => ⟨_, next_congr s ((hrun _).trans (lsaGet_within hle)), rfl⟩,
    fun off len hlt => ⟨_, next_congr s ((hrun _).trans (lsaGet_beyond hlt)), rfl⟩, ?_, ⟨_, next_congr s (hrun _), ?_⟩,
    ⟨_, next_congr s (hrun _), ?_⟩, fun hp => ⟨_, next_congr s ((hrun _).trans (poisonGet_of_all ?_)), ?_⟩,
    fun op hop => ⟨_, (exec_unsupportedMailboxCommand s hop).trans (next_congr s (hrun _)), rfl⟩⟩
  case refine_1 => rw [Dev.mail_out, bgStatus_regs]
  case refine_2 => rw [Dev.mail_out, hhead]
  case refine_3 => exact hhead (s.dev.icu (67 + hIdx h)).regs
  case refine_4 => rw [Dev.mail_out, hhead]
  case refine_5 => rw [Dev.mail_out, fwInfo_regs]
  case refine_6 => rw [Dev.mail_out, hhead]
  case refine_7 => rw [Dev.mail_out, memoryBytes_regs]
  case refine_8 => rw [Dev.mail_out, partitionBytes_regs]
  case refine_9 => exact ⟨_, _, _, _, _, _, next_congr s (hrun _), by rw [healthInfo]; rfl⟩
  case refine_10 => rw [Dev.mail_out, hhead]
  case refine_11 => rw [Dev.mail_out, hhead]
  case refine_12 => rw [hhead, hp]
  case refine_13 => rw [Dev.mail_out, hhead]

end Sys2Proof.Machine

/-!
PROOFS. O40 (R33, R49, R180, R308, R329, R379, R383): what the CXL mailbox changes. As for the answers, an open mailbox runs its command on the
device that its interrupt leaves, and the command's own effect is stated once for any device.
-/
namespace Sys2Proof.Machine

section
variable {F : Fuses} {d : Dev} {h : Head}

theorem clearEvents_all (log : Nat) (l : List Nat) :
    clearEvents d h log true l =
      (d.setHead h ((d.head h).setLog (logName log) { (d.head h).log (logName log) with recs := [], overflow := 0 })).mail h 0 := by rw [clearEvents, if_pos rfl]

theorem HeadState.log_setLog_same (x : HeadState) (n : LogName) (l : EvLog) : (x.setLog n l).log n = l := by cases n <;> rfl

theorem Dev.head_mail (d : Dev) (h g : Head) (code : Nat) (p : List Nat) : (d.mail h code p).head g = d.head g := by cases g <;> rfl

/-- What a change of one head's own values and its response with no payload leave. -/
theorem Dev.setHead_mail (d : Dev) (h : Head) (x : HeadState) :
    ((d.setHead h x).mail h 0).head h = x ∧ ((d.setHead h x).mail h 0).out = .mailbox h 0 [] :: d.out := by cases h <;> exact ⟨rfl, rfl⟩

/-- The same with a Keel setting written between them. -/
theorem Dev.setHead_setting_mail (d : Dev) (h : Head) (x : HeadState) (item v : Nat) :
    (((d.setHead h x).settingPut item v).mail h 0).head h = x ∧
      (((d.setHead h x).settingPut item v).mail h 0).out = .mailbox h 0 [] :: d.out := by
  rw [Dev.head_mail, Dev.settingPut_head, Dev.setHead_head, if_pos rfl, Dev.mail_out, Dev.settingPut_out, Dev.setHead_out]
  exact ⟨rfl, rfl⟩

theorem Dev.imagePoke_images_regs (r : Tbl (Option Reg32)) (slot off : Nat) (b : List Nat) :
    (Dev.imagePoke { d with regs := r } slot off b).images = (d.imagePoke slot off b).images := by
  unfold Dev.imagePoke
  split <;> rfl

theorem fwTransfer_into {slot off : Nat} {b : List Nat} (hs : slot ≠ d.images.running) (hb : off + b.length ≤ 2 ^ 23) :
    fwTransfer d h slot off b = ({ d.imagePoke slot off b with lci := { d.lci with bgOp := 0x0201 } }.icu 102).mail h 1 := by
  rw [fwTransfer, if_neg hs, if_neg (by omega)]

theorem fwTransfer_running {slot off : Nat} {b : List Nat} (hs : slot = d.images.running) : fwTransfer d h slot off b = d.mail h 0xB := if_pos hs

theorem fwActivate_of_ok {slot : Nat} (hok : imageOk F d slot = true) : fwActivate F d h slot = d.selectImage slot (mailOwner h) := if_pos hok

theorem imageOk_regs (r : Tbl (Option Reg32)) (slot : Nat) : imageOk F { d with regs := r } slot = imageOk F d slot := rfl

theorem lsaSet_within {off : Nat} {b : List Nat} (hle : off + b.length ≤ 16384) (hb : b ≠ []) :
    lsaSet d h off b = (lsaWrites h off b).foldl Dev.keelPut d := by
  rw [lsaSet, if_neg (by omega), if_neg (by simpa using hb)]

/-- Where an address is outside the persistent space, its place reads no register. -/
theorem placeOf_regs (r : Tbl (Option Reg32)) {dpa : Nat} {p : Place} (hp : placeOf F d h dpa = p) (h1 : p ≠ .persist) (h2 : p ≠ .sharedHidden) :
    placeOf F { d with regs := r } h dpa = p := by
  have hl : ¬ dpa / 2 ^ 20 < d.lUser := by
    intro hl
    rw [placeOf, if_pos hl] at hp
    split at hp
    · exact h2 hp.symm
    · exact h1 hp.symm
  rw [placeOf, if_neg hl] at hp
  exact (if_neg hl).trans hp

theorem mailWrite_of_nothing {dpa : Nat} {data : LineData} {poison : Bool} (hp : placeOf F d h dpa = .nothing) :
    mailWrite F d h dpa data poison = d.mail h 0xF := by rw [mailWrite, hp]

theorem mailWrite_of_scratch {dpa i : Nat} {data : LineData} (hp : placeOf F d h dpa = .scratch i) :
    mailWrite F d h dpa data false =
      (d.setCache { d.cache with scrPoison := d.cache.scrPoison.filter (· != i), scr := Tbl.put 0 d.cache.scr i data }).mail h 0 := by
  rw [mailWrite, hp]
  rfl

theorem mailWrite_of_scratch_poison {dpa i : Nat} {data : LineData} (hp : placeOf F d h dpa = .scratch i) :
    mailWrite F d h dpa data true =
      ((recordPoison F d (dpa / 64) 4).setCache { d.cache.scrMark i 4 with scr := Tbl.put 0 d.cache.scr i 0 }).mail h 0 := by
  rw [mailWrite, hp]
  rfl

theorem Cache.scrMark_marks (c : Cache) (i origin : Nat) : i ∈ (c.scrMark i origin).scrPoison ∧ Tbl.look 11 (c.scrMark i origin).scrCause i = origin :=
  ⟨List.mem_append_right _ (List.mem_singleton_self i), Tbl.look_put_same ..⟩

end

/-- Settles O40. -/
theorem cxlMailboxWrites : Obligations.CXL_MAILBOX_WRITES := by
  unfold Obligations.CXL_MAILBOX_WRITES
  intro h s hm
  have hrun := mailRun_of_open hm
  have hhead : ∀ r, ({ s.dev with regs := r } : Dev).head h = s.dev.head h := fun r => by cases h <;> rfl
  refine ⟨fun log => ?_, fun p => ?_, fun slot off data hs hb => ?_, fun slot off data hs => ?_, fun slot hok => ?_, fun v => ?_,
    fun off data hle hne => ?_, fun v => ?_, fun v => ?_, fun dpa i hp => ?_, fun dpa data i hp => ?_, fun dpa hp => ?_⟩
  case refine_1 =>
    refine ⟨_, next_congr s ((hrun _).trans (clearEvents_all ..)), ?_, (Dev.setHead_mail ..).2⟩
    rw [(Dev.setHead_mail ..).1, HeadState.log_setLog_same]
  case refine_2 =>
    refine ⟨_, next_congr s (hrun _), ?_, (Dev.setHead_mail ..).2⟩
    rw [(Dev.setHead_mail ..).1, hhead]
  case refine_3 =>
    refine ⟨_, next_congr s ((hrun _).trans (fwTransfer_into hs (by simpa using hb))), ?_, ?_, ?_⟩
    · rw [Dev.mail, Dev.emit, (Dev.icu_touches ..).same .lci (by decide)]
    · rw [Dev.mail, Dev.emit, (Dev.icu_touches ..).same .images (by decide), Dev.imagePoke_images_regs]
    · rw [Dev.mail_out, (Dev.icu_touches ..).same .out (by decide), (Dev.imagePoke_touches ..).same .out (by decide)]
  case refine_4 => exact ⟨_, next_congr s ((hrun _).trans (fwTransfer_running hs)), rfl, rfl⟩
  case refine_5 =>
    exact ⟨_, next_congr s ((hrun _).trans (fwActivate_of_ok ((imageOk_regs _ _).trans hok))), Dev.selectImage_sel ..⟩
  case refine_6 =>
    refine ⟨_, next_congr s (hrun _), ?_, ?_, (Dev.setHead_mail ..).2⟩
    · rw [(Dev.setHead_mail ..).1]
    · rw [(Dev.setHead_mail ..).1]
  case refine_7 =>
    refine ⟨_, _, next_congr s ((hrun _).trans (lsaSet_within (by simpa using hle) (by simpa using hne))), rfl, ?_⟩
    exact (Dev.icu_touches ..).regs_eq.symm
  case refine_8 =>
    refine ⟨_, next_congr s (hrun _), ?_, (Dev.setHead_setting_mail ..).2⟩
    rw [(Dev.setHead_setting_mail ..).1, hhead]
  case refine_9 =>
    refine ⟨_, next_congr s (hrun _), ?_, (Dev.setHead_setting_mail ..).2⟩
    rw [(Dev.setHead_setting_mail ..).1, hhead]
  case refine_10 =>
    obtain ⟨hmem, hcause⟩ := s.dev.cache.scrMark_marks i 4
    refine ⟨_, next_congr s ((hrun _).trans (mailWrite_of_scratch_poison (placeOf_regs _ hp (by simp) (by simp)))), hmem, hcause, ?_⟩
    rw [Dev.mail_out]
    exact congrArg _ ((recordPoison_touches ..).same .out (by decide))
  case refine_11 =>
    refine ⟨_, next_congr s ((hrun _).trans (mailWrite_of_scratch (placeOf_regs _ hp (by simp) (by simp)))), ?_, Tbl.look_put_same .., rfl⟩
    exact fun hmem => by simpa using (List.mem_filter.mp hmem).2
  case refine_12 => exact ⟨_, next_congr s ((hrun _).trans (mailWrite_of_nothing (placeOf_regs _ hp (by simp) (by simp)))), rfl, rfl⟩

end Sys2Proof.Machine

/-!
PROOFS. O8 (R69, R73, R75, R90, R194, R225): Gondola's events and the store events of the line engine.
-/
namespace Sys2Proof.Machine

/-! ## Selection -/

section
variable {F : Fuses} {d : Dev} {l : Nat} {g : GEntry}

/-- A whole entry needs no older bytes (R71). -/
theorem mergeNow_of_whole (hm : g.mask = fullMask) (wb : Bool) : mergeNow F d l g wb = (some g, d) := if_pos (.inr hm)

theorem selectOne_of_whole {raised : Bool} (hg : d.staged l = some g) (hw : d.wbEnt l = none) (hm : g.mask = fullMask) :
    selectOne F raised d l = (d.setStaged l none).setWb l (some { g with state := .writeback, raised := raised }) := by
  rw [selectOne, hg, hw]
  dsimp only
  rw [mergeNow_of_whole hm]

/-- While the fill raises the rate, every selectable entry is a candidate; the oldest goes, with those of its page (R75). -/
theorem writebackSelect_of_raised (hf : d.pwr.svc ≠ .flush) (hr : d.raisedNow = true)
    (hpre : (d.stagedList.filter d.selectable).filter (fun e => e.2.preLaunch.isSome) = [])
    (ho : oldest (d.stagedList.filter d.selectable) = some (l, g))
    (hpage : (d.stagedList.filter d.selectable).filter (fun e => e.1 != l && d.samePage e.1 l) = []) :
    writebackSelect F d = selectOne F true d l := by
  have hpass : writebackSelect F d = _ := if_neg hf
  dsimp only at hpass
  rw [hpre, hr, if_neg (by simp), if_pos (.inl rfl), ho] at hpass
  dsimp only at hpass
  rw [hpage] at hpass
  exact hpass

end

/-! ## What the end of a Global Persistent Flush leaves -/

theorem Dev.emit_foldl_gon {α : Type} (f : α → Out) (l : List α) (d : Dev) : (l.foldl (fun d a => d.emit (f a)) d).gon = d.gon := by
  induction l generalizing d with
  | nil => rfl
  | cons a l ih => exact ih _

/-- Settling GPF changes only what it waits for. -/
theorem Dev.gpfSettle_gon (d : Dev) : ∃ w p, d.gpfSettle.gon = { d.gon with gpfWait := w, gpf := p } := by
  rw [Dev.gpfSettle, Dev.emit_foldl_gon]
  exact ⟨_, _, rfl⟩

theorem Dev.gpfSettle_entries (d : Dev) :
    d.gpfSettle.gon.macros = d.gon.macros ∧ d.gpfSettle.gon.staged = d.gon.staged ∧ d.gpfSettle.gon.wb = d.gon.wb := by
  obtain ⟨w, p, h⟩ := d.gpfSettle_gon
  rw [h]
  exact ⟨rfl, rfl, rfl⟩

/-! ## The macros that have failed

Losing lines and draining a bank moves entries; no step of it changes which macros have failed. -/

/-- The same macros have failed in both. -/
structure Dev.SameMacros (d e : Dev) : Prop where
  macros : e.gon.macros = d.gon.macros

namespace Dev.SameMacros

variable {F : Fuses}

theorem refl (d : Dev) : d.SameMacros d := ⟨rfl⟩

theorem comp {d e f : Dev} (g : e.SameMacros f) (h : d.SameMacros e) : d.SameMacros f := ⟨g.macros.trans h.macros⟩

theorem of_gon {d e : Dev} (h : e.gon = d.gon) : d.SameMacros e := ⟨by rw [h]⟩

theorem of_touches {l : List Part} {d e : Dev} (h : Touches l d e) (hg : .gon ∉ l) : d.SameMacros e := of_gon (h.same .gon hg)

theorem foldl {α : Type} {f : Dev → α → Dev} (hf : ∀ (d : Dev) a, d.SameMacros (f d a)) (l : List α) (d : Dev) : d.SameMacros (l.foldl f d) := by
  induction l generalizing d with
  | nil => exact refl d
  | cons a l ih => exact (ih _).comp (hf d a)

theorem setStaged (d : Dev) (l : Nat) (x : Option GEntry) : d.SameMacros (d.setStaged l x) := ⟨rfl⟩

theorem setWb (d : Dev) (l : Nat) (x : Option GEntry) : d.SameMacros (d.setWb l x) := ⟨rfl⟩

theorem ackAll (d : Dev) (l : List Ack) : d.SameMacros (ackAll F d l) := of_touches (ackAll_touches ..) (by decide)

theorem dropPartial (d : Dev) (l : Nat) (wb : Bool) (g : GEntry) : d.SameMacros (dropPartial F d l wb g) := by
  refine (ackAll ..).comp ((of_touches (partialLoss_touches ..) (by decide)).comp ?_)
  cases wb
  · exact setStaged ..
  · exact setWb ..

/-- A merge, and what follows it with an entry and without one. -/
theorem merged {d : Dev} {l : Nat} {g : GEntry} {wb : Bool} {f : GEntry → GEntry} :
    d.SameMacros (match mergeNow F d l g wb with
      | (some e, d1) => (d1.setStaged l none).setWb l (some (f e))
      | (none, d1) => Machine.dropPartial F d1 l false g) := by
  rcases hm : mergeNow F d l g wb with ⟨r, d1⟩
  have h1 : d.SameMacros d1 := of_touches (mergeNow_touches hm) (by decide)
  cases r with
  | none => exact (dropPartial ..).comp h1
  | some e => exact (setWb ..).comp ((setStaged ..).comp h1)

theorem promoteHeld (d : Dev) (l : Nat) : d.SameMacros (promoteHeld F d l) := by
  rw [Machine.promoteHeld]
  split
  · split
    · exact merged (f := fun e => { e with state := .writeback })
    · exact refl d
  · exact refl d

theorem selectOne (raised : Bool) (d : Dev) (l : Nat) : d.SameMacros (selectOne F raised d l) := by
  rw [Machine.selectOne]
  split
  · exact merged (f := fun e => { e with state := .writeback, raised := raised })
  · exact refl d

theorem lostLine (d : Dev) (l : Nat) : d.SameMacros (lostLine F d l) := by
  rw [Machine.lostLine]
  refine (of_touches (recordPoison_touches ..) (by decide)).comp ((of_touches (Dev.event_touches ..) (by decide)).comp ?_)
  split
  · exact of_touches (Dev.putLine_touches ..) (by decide)
  · exact ⟨rfl⟩

theorem loseLine (inB : GEntry → Bool) (d : Dev) (l : Nat) : d.SameMacros (loseLine F inB d l) := by
  unfold Machine.loseLine
  dsimp only
  split
  · exact refl d
  · exact (lostLine ..).comp ((ackAll ..).comp ((setWb ..).comp (setStaged ..)))
  · refine (promoteHeld ..).comp ?_
    have hfree : ∀ g : GEntry, d.SameMacros (Machine.ackAll F (d.setWb l none) g.acks) := fun g => (ackAll ..).comp (setWb ..)
    split
    all_goals
      split
      · exact hfree _
      · exact (lostLine ..).comp (hfree _)
  · exact (lostLine ..).comp ((ackAll ..).comp ((setWb ..).comp (setStaged ..)))

theorem drainBank (d : Dev) (b : Nat) : d.SameMacros (drainBank F d b) :=
  (foldl (fun _ _ => setStaged ..) ..).comp (foldl (selectOne true) ..)

end Dev.SameMacros

section
variable {F : Fuses} {d : Dev} {b m : Nat}

/-- A first failure of a macro is recorded: it joins its bank's list, and one more macro runs on correction (R69). -/
def Dev.macroFailed (d : Dev) (b m : Nat) : Dev :=
  { d with
    gon := { d.gon with macros := Tbl.put [] d.gon.macros b (Tbl.look [] d.gon.macros b ++ [m]) },
    drift := { d.drift with onCorr := satAdd d.drift.onCorr 1 0xFF } }

theorem gondolaMacro_of_known (hm : m ∈ Tbl.look [] d.gon.macros b) (lost : List Nat) : gondolaMacro F d b m lost = d :=
  if_pos (by simpa using hm)

theorem gondolaMacro_of_new (hm : m ∉ Tbl.look [] d.gon.macros b) (lost : List Nat) :
    gondolaMacro F d b m lost = if (Tbl.look [] d.gon.macros b).isEmpty then (((d.macroFailed b m).event F 0x3001 (b + 8 * m)).icu 77) else
      drainBank F (lost.foldl (loseLine F fun g => g.bank == b)
        ((((d.macroFailed b m).event F 0x3001 (b + 8 * m)).icu 77).postAll F .fail .uncovered b)).faultPulse b :=
  if_neg (by simpa using hm)

theorem Dev.reported_gon (d : Dev) (code arg src : Nat) : ((d.event F code arg).icu src).gon = d.gon := by
  rw [(Dev.icu_touches ..).same .gon (by decide), (Dev.event_touches ..).same .gon (by decide)]

theorem Dev.reported_drift (d : Dev) (code arg src : Nat) : ((d.event F code arg).icu src).drift = d.drift := by
  rw [(Dev.icu_touches ..).same .drift (by decide), (Dev.event_touches ..).same .drift (by decide)]

theorem gondolaMacro_macros (hm : m ∉ Tbl.look [] d.gon.macros b) (lost : List Nat) :
    (d.macroFailed b m).SameMacros (gondolaMacro F d b m lost) := by
  have hrep : (d.macroFailed b m).SameMacros _ := .of_gon (Dev.reported_gon (F := F) (d.macroFailed b m) 0x3001 (b + 8 * m) 77)
  rw [gondolaMacro_of_new hm]
  split
  · exact hrep
  · refine (Dev.SameMacros.drainBank ..).comp ((Dev.SameMacros.of_touches (Dev.faultPulse_touches ..) (by decide)).comp ?_)
    exact (Dev.SameMacros.foldl (Dev.SameMacros.loseLine _) ..).comp ((Dev.SameMacros.of_touches (Dev.postAll_touches ..) (by decide)).comp hrep)

end

/-! ## Sectors and words of the cache -/

theorem Dev.toBallast_of_empty {d : Dev} {x : Sector} (hx : x.valid = 0) : d.toBallast x = d := if_pos hx

theorem Dev.toBallast_ballast {d : Dev} {x : Sector} (hx : x.valid ≠ 0) :
    (d.toBallast x).cache.ballast = (x :: d.cache.ballast.filter fun y => y.num != x.num).take d.cache.ballastRoom := by
  rw [Dev.toBallast, if_neg hx]
  rfl

theorem Dev.toBallast_transit (d : Dev) (x : Sector) : (d.toBallast x).cache.transit = d.cache.transit := by
  rw [Dev.toBallast]
  split <;> rfl

/-- A sector leaves the transit store (R90). -/
def Dev.transitTaken (d : Dev) (n : Nat) : Dev := d.setCache { d.cache with transit := d.cache.transit.filter fun y => y.num != n }

theorem exec_stagedEntryTranslate (s : State) (dpa : Dpa) {g : GEntry} (hg : s.dev.staged (dpa.toNat / 64) = some g) :
    exec (.stagedEntryTranslate dpa) s = .next { s with dev :=
      (s.dev.tcLookup (dpa.toNat / 64 / 16384) (dpa.toNat / 64 % 16384)).setStaged (dpa.toNat / 64) (some { g with translated := true }) } :=
  congrArg Host.Outcome.next (by rw [hg])

theorem exec_sectorTransitEnd (s : State) (dpa : Dpa) {x : Sector}
    (hx : s.dev.cache.transit.find? (fun x => x.num == dpa.toNat / 4096) = some x) :
    exec (.sectorTransitEnd dpa) s = .next { s with dev := (s.dev.transitTaken (dpa.toNat / 4096)).toBallast x } :=
  congrArg Host.Outcome.next (by rw [hx]; rfl)

theorem length_filter_of_find {α : Type} {p q : α → Bool} {l : List α} {x : α} (hx : l.find? p = some x) (hq : ∀ y, q y = !p y) :
    (l.filter q).length < l.length :=
  List.length_filter_lt_length_iff_exists.mpr ⟨x, List.mem_of_find?_eq_some hx, by simp [hq, List.find?_some hx]⟩

/-- A way whose macro fails holds nothing from then on, and no other store changes (R82). -/
theorem Dev.cacheMacro_of_new {d : Dev} {w : Nat} (hw : w < 12) (hb : w ∉ d.cache.badWays) :
    (d.cacheMacro w).cache.badWays = d.cache.badWays ++ [w] ∧ (∀ set, ((d.cacheMacro w).way set w).used = false) ∧
      (d.cacheMacro w).cache.ballast = d.cache.ballast := by
  have hpass : d.cacheMacro w = _ := if_neg (by simpa using hb)
  have hcache : (d.cacheMacro w).cache = { d.cache with
      badWays := d.cache.badWays ++ [w], ways := d.cache.ways.filter fun e => e.1 % 12 != w } := by
    rw [hpass, (Dev.icu_touches ..).same .cache (by decide)]
    rfl
  refine ⟨by rw [hcache], fun set => ?_, by rw [hcache]⟩
  rw [Dev.way, hcache, Tbl.look_eq_of_absent]
  intro e he hk
  obtain ⟨-, hne⟩ := List.mem_filter.mp he
  rw [hk, wayKey, Nat.mul_add_mod, Nat.mod_eq_of_lt hw] at hne
  simp at hne

/-! ## Uncorrectable words -/

section
variable {F : Fuses} {d : Dev}

/-- What every uncorrectable word leaves before its store's own handling (R194): it is recorded, reported, and the logbook is flushed. -/
def sramNoted (F : Fuses) (d : Dev) (st : SramStore) : Dev :=
  Dev.forceFlush F ((Dev.event F { d with drift := { d.drift with sramUe := true } } 0x3005 (storeNo st)).icu 77)

theorem sramNoted_touches (st : SramStore) : Touches [.regs, .keel, .log, .aon] { d with drift := { d.drift with sramUe := true } } (sramNoted F d st) :=
  (Touches.comp (Dev.forceFlush_touches ..) (by decide) (Touches.comp (Dev.icu_touches ..) (by decide) ((Dev.event_touches ..).mono (by decide))))

theorem sramNoted_drift (st : SramStore) : (sramNoted F d st).drift.sramUe = true := by rw [(sramNoted_touches st).same .drift (by decide)]

theorem sramBad_scratch {a : Nat} (ha : volBase ≤ a) :
    sramBad F d .cache a = (sramNoted F d .cache).setCache ((sramNoted F d .cache).cache.scrMark ((a - volBase) / 64) 11) := if_pos ha

theorem sramNoted_ue {l : List Part} {st : SramStore} {e : Dev} (h : Touches l (sramNoted F d st) e) (hl : .drift ∉ l) : e.drift.sramUe = true := by
  rw [h.same .drift hl, sramNoted_drift]

theorem cacheWord_ue {st : SramStore} (a : Nat) :
    (if volBase ≤ a then (sramNoted F d st).setCache ((sramNoted F d st).cache.scrMark ((a - volBase) / 64) 11)
      else (sramNoted F d st).writeClears (a / 64)).drift.sramUe = true := by
  split
  · exact sramNoted_ue (Dev.setCache_touches ..) (by decide)
  · exact sramNoted_ue (Dev.writeClears_touches ..) (by decide)

/-- The record of an uncorrectable word stays through its store's own handling (R194). -/
theorem sramBad_ue {st : SramStore} (ho : st ≠ .other) (hg : st ≠ .gondola) (a : Nat) : (sramBad F d st a).drift.sramUe = true := by
  have hself (st : SramStore) : (sramNoted F d st).drift.sramUe = true := sramNoted_drift st
  cases st with
  | gondola => exact absurd rfl hg
  | other => exact absurd rfl ho
  | cache => exact cacheWord_ue a
  | ballast => exact cacheWord_ue a
  | compat => exact cacheWord_ue a
  | spool => exact (congrArg Drift.sramUe (Dev.reported_drift ..)).trans (hself .spool)
  | counterCache =>
    have hrec := hself .counterCache
    rw [sramNoted] at hrec
    rw [sramBad]
    generalize Dev.forceFlush F _ = e at hrec ⊢
    dsimp only
    split
    · split
      · split
        · rwa [(Dev.exhaust_touches ..).same .drift (by decide)]
        · exact hrec
      · exact hrec
    · exact hrec
  | translationCache =>
    have hrec := hself .translationCache
    rw [sramNoted] at hrec
    rw [sramBad]
    generalize Dev.forceFlush F _ = e at hrec ⊢
    dsimp only
    split
    · split
      · rwa [(metaLost_touches ..).same .drift (by decide)]
      · exact hrec
    · exact hrec
  | driftLedger =>
    have hrec := hself .driftLedger
    rw [sramNoted] at hrec
    rw [sramBad]
    generalize Dev.forceFlush F _ = e at hrec ⊢
    exact hrec
  | commandTable => exact hself .commandTable
  | openRow => exact hself .openRow
  | logBuffer => exact hself .logBuffer

theorem sramBad_gondola_none {a : Nat} (hs : d.staged (a / 64) = none) (hw : d.wbEnt (a / 64) = none) :
    sramBad F d .gondola a = sramNoted F d .gondola := by
  have hgon : (sramNoted F d .gondola).gon = d.gon := (sramNoted_touches ..).same .gon (by decide)
  have hs' := (Dev.staged_same hgon (a / 64)).trans hs
  have hw' := (Dev.wbEnt_same hgon (a / 64)).trans hw
  rw [sramNoted] at hs' hw'
  rw [sramBad, sramNoted]
  exact if_neg (by simp [hs', hw'])

theorem sramBad_other_none {a : Nat} (hf : d.cache.fetches.find? (fun f => f.line == a / 64) = none) :
    sramBad F d .other a = sramNoted F d .other := by
  have hcache : (sramNoted F d .other).cache = d.cache := (sramNoted_touches ..).same .cache (by decide)
  rw [sramNoted] at hcache
  rw [sramBad, sramNoted]
  generalize Dev.forceFlush F _ = e at hcache ⊢
  rw [hcache, hf]

end

/-- Settles O8. -/
theorem gondolaEvents : Obligations.GONDOLA_EVENTS := by
  unfold Obligations.GONDOLA_EVENTS
  refine ⟨?_, ?_, ?_, ?_, ?_, ?_, fun st s => rfl, ?_, ?_, ?_, ?_⟩
  case refine_1 =>
    intro s l g hf hr hpre ho hpage hg hw hm
    refine ⟨_, next_congr s ((writebackSelect_of_raised hf hr hpre ho hpage).trans (selectOne_of_whole hg hw hm)), ?_, ?_, fun k hk => ?_⟩
    · simp
    · simp
    · simp [hk]
  case refine_2 =>
    intro dpa s
    cases hg : s.dev.staged (dpa.toNat / 64) with
    | none => exact ⟨s.dev, congrArg Host.Outcome.next (by rw [hg]), by rw [hg]; rfl, rfl, fun _ _ => rfl⟩
    | some g =>
      have ht := Dev.tcLookup_touches s.dev (dpa.toNat / 64 / 16384) (dpa.toNat / 64 % 16384)
      refine ⟨_, exec_stagedEntryTranslate s dpa hg, ?_, ht.same .cache (by decide), fun k hk => ?_⟩
      · rw [Dev.setStaged_staged, if_pos rfl]
        rfl
      · rw [Dev.setStaged_staged, if_neg hk, Dev.staged_same (ht.same .gon (by decide))]
  case refine_3 =>
    intro bank m lost s hm
    obtain ⟨hmac, hst, hwb⟩ := Dev.gpfSettle_entries (gondolaMacro s.fuse s.dev bank.val m.val (lost.map fun a => a.toNat / 64))
    refine ⟨_, rfl, ?_, fun hnone => ?_⟩
    · rw [hmac, (gondolaMacro_macros hm _).macros]
      exact Tbl.look_put_same ..
    · rw [hst, hwb, (Dev.gpfSettle_touches ..).same .drift (by decide), gondolaMacro_of_new hm, if_pos (by simp [hnone]), Dev.reported_gon,
        Dev.reported_drift]
      exact ⟨rfl, rfl, rfl⟩
  case refine_4 => exact fun bank m lost s hm => next_congr s (congrArg Dev.gpfSettle (gondolaMacro_of_known hm _))
  case refine_5 =>
    intro dpa s x hx htl hbl
    have hlen := length_filter_of_find (q := fun y => y.num != dpa.toNat / 4096) hx fun y => rfl
    refine ⟨_, exec_sectorTransitEnd s dpa hx, fun hv => ?_, fun hv => ?_, ?_, Dev.toBallast_transit ..⟩
    · have hroom : 0 < (s.dev.transitTaken (dpa.toNat / 4096)).cache.ballastRoom := Nat.sub_pos_of_lt (hlen.trans_le htl)
      rw [Dev.toBallast_ballast hv, List.head?_take, if_neg (by omega)]
      rfl
    · rw [Dev.toBallast_of_empty hv]
      rfl
    · by_cases hv : x.valid = 0
      · rw [Dev.toBallast_of_empty hv]
        exact hbl
      · rw [Dev.toBallast_ballast hv, List.length_take]
        exact (min_le_left ..).trans (Nat.sub_le ..)
  case refine_6 => exact fun dpa s hx => congrArg Host.Outcome.next (by rw [hx])
  case refine_7 => exact fun st w s hw => ⟨_, rfl, Dev.cacheMacro_of_new w.isLt hw⟩
  case refine_8 =>
    intro dpa s ha
    refine ⟨_, next_congr s (congrArg Dev.gpfSettle (sramBad_scratch ha)), ?_⟩
    rw [(Dev.gpfSettle_touches ..).same .cache (by decide)]
    exact Cache.scrMark_marks ..
  case refine_9 =>
    intro st dpa s ho hg
    refine ⟨_, rfl, ?_⟩
    rw [(Dev.gpfSettle_touches ..).same .drift (by decide), sramBad_ue ho hg]
  case refine_10 =>
    intro st dpa s hst hf hs hw
    rcases hst with rfl | rfl
    · refine ⟨_, next_congr s (congrArg Dev.gpfSettle (sramBad_other_none hf)), ?_⟩
      rw [(Dev.gpfSettle_touches ..).same .drift (by decide), sramNoted_drift]
    · refine ⟨_, next_congr s (congrArg Dev.gpfSettle (sramBad_gondola_none hs hw)), ?_⟩
      rw [(Dev.gpfSettle_touches ..).same .drift (by decide), sramNoted_drift]

end Sys2Proof.Machine

/-!
PROOFS. O9 (R25, R66, R76, R148, R149, R207, R211, R222): the end of a write-back.
-/
namespace Sys2Proof.Machine

section
variable {F : Fuses} {d : Dev} {l : Nat} {g : GEntry}

/-- An entry that was discarded is only freed (R222). -/
theorem writeBackDone_of_gone (hg : d.wbEnt l = some g) (hgone : g.gone = true) : writeBackDone F d l = freeWb F d l g := by
  rw [writeBackDone, hg]
  exact if_pos hgone

/-- What holds a write-back, or leaves its row no place in the open-row table, makes it wait. -/
theorem writeBackDone_of_waits (hg : d.wbEnt l = some g) (hgone : g.gone = false) (hw : d.wbHeld l = true ∨ d.wbRoom l = false) :
    writeBackDone F d l = d := by
  rw [writeBackDone, hg]
  dsimp only
  rw [if_neg (by simp [hgone]), if_pos]
  rcases hw with hw | hw
  · exact .inl hw
  · exact .inr (.inl (by simp [hw]))

/-- A whole unpoisoned line of a tract with an unshared home in service is sealed and stored (R76). -/
theorem writeBackDone_of_whole {m : MediaLine} {d2 : Dev} (hseal : d.sealLine F (d.wbKey g.key (l * 64)) g.base l g.data = some (m, d2))
    (hg : d.wbEnt l = some g) (hgone : g.gone = false) (hheld : d.wbHeld l = false) (hroom : d.wbRoom l = true)
    (hsnap : d.snapHolds (l / 16384) = false) (hm : g.mask = fullMask) (hp : g.poison = false) (hr : g.reenc = false)
    (hk : (d.ent (l / 16384)).kind = 1 ∨ (d.ent (l / 16384)).kind = 2) (hshr : (d.ent (l / 16384)).shr = false)
    (hmix : d.mixed (l / 16384) = false) : writeBackDone F d l = (finishWb F d2 l g m).toImage g.preLaunch l := by
  rw [writeBackDone, hg]
  dsimp only
  rw [if_neg (by simp [hgone]), if_neg (by simp [hheld, hroom, hsnap]), mergeNow_of_whole hm]
  dsimp only
  rw [if_neg (by simp [hshr]), if_neg (by simp [hmix]), if_neg (by omega), if_pos hk]
  dsimp only
  rw [if_neg (by simp [hp]), if_neg (by simp [hr]), hseal]

end

/-- Settles O9. -/
theorem writeBackCompletes : Obligations.WRITE_BACK_COMPLETES := by
  unfold Obligations.WRITE_BACK_COMPLETES
  refine ⟨?_, ?_, ?_, ?_⟩
  case refine_1 => exact fun dpa s g hg hgone => next_congr s (congrArg Dev.gpfSettle (writeBackDone_of_gone hg hgone))
  case refine_2 => exact fun dpa s g hg hgone hw => next_congr s (congrArg Dev.gpfSettle (writeBackDone_of_waits hg hgone (.inl hw)))
  case refine_3 => exact fun dpa s g hg hgone hw => next_congr s (congrArg Dev.gpfSettle (writeBackDone_of_waits hg hgone (.inr hw)))
  case refine_4 =>
    intro dpa s g m d2 hseal hg hgone hheld hroom hsnap hm hp hr hk hshr hmix
    exact next_congr s (congrArg Dev.gpfSettle
      (writeBackDone_of_whole hseal hg hgone hheld hroom hsnap hm hp hr (by simpa using hk) hshr hmix))

end Sys2Proof.Machine

/-!
PROOFS. The media bus at a die's pins: a frame that arrives without an error is executed as the controller sent it (R120, R121), and what its
answer leaves of the die and on the bus (R123).
-/
namespace Sys2Proof.Machine

/-! ## A frame on the bus -/

theorem encodeFrame_lt {p : Nat} (hp : p < 2 ^ 49) : encodeFrame p < 2 ^ 56 := by
  have hbody := frameBody_lt hp
  have hpar : parityN 55 (frameBody p) < 2 := Nat.mod_lt _ (by decide)
  rw [encodeFrame_eq hp]
  omega

/-- The eight beats carry the whole frame (R120). -/
theorem beatsFrame_caBeats {w : Nat} (hw : w < 2 ^ 56) : beatsFrame (caBeats w) = w := by
  have hr : List.range 8 = [0, 1, 2, 3, 4, 5, 6, 7] := rfl
  simp only [beatsFrame, caBeats, caBeat, hr, List.map_cons, List.map_nil, List.foldr_cons, List.foldr_nil, bits]
  omega

/-- What a die receives of a frame sent without an error. -/
theorem received_clean {p : Nat} (hp : p < 2 ^ 49) : beatsFrame (caBeats (Nat.xor (encodeFrame p) 0)) = encodeFrame p := by
  have hx : Nat.xor (encodeFrame p) 0 = encodeFrame p := Nat.xor_zero _
  rw [hx, beatsFrame_caBeats (encodeFrame_lt hp)]

/-! ## Taking a frame -/

/-- A die that has left echo mode (R137). -/
def Die.silent (x : Die) : Die := { x with echo := false }

section
variable {x : Die} {now fresh : Nat} {f : Frame} {p : Nat}

/-- A die that is not in echo mode, and whose initialisation and power-down admit the opcode, executes the frame. -/
theorem dieTake_exec (hp : p < 2 ^ 49) (he : x.echo = false ∨ x.ceHigh + 1000 < now) (hi : x.init = false ∨ bits p 6 0 = 0x7F)
    (hpd : x.pd = false ∨ bits p 6 0 = 0x51 ∨ bits p 6 0 = 0x7F) :
    dieTake x now fresh f (encodeFrame p) = dieExec x.silent now fresh f p := by
  have hecho : ¬ (x.echo && decide (now ≤ x.ceHigh + 1000)) = true := by
    rcases he with he | he
    · simp [he]
    · have hlate : ¬ now ≤ x.ceHigh + 1000 := by omega
      simp [hlate]
  rw [dieTake, if_neg hecho, decodeFrame_encodeFrame hp]
  dsimp only
  rw [if_neg (by rcases hi with hi | hi <;> simp [hi]), if_neg (by rcases hpd with hpd | hpd | hpd <;> simp [hpd]), Die.silent]

/-- A die in power-down lets every other frame pass (log entry 12). -/
theorem dieTake_pd (hp : p < 2 ^ 49) (he : x.echo = false) (hi : x.init = false) (hpd : x.pd = true) (h51 : bits p 6 0 ≠ 0x51)
    (h7f : bits p 6 0 ≠ 0x7F) : dieTake x now fresh f (encodeFrame p) = ⟨x, [], false, false⟩ := by
  rw [dieTake, if_neg (by simp [he]), decodeFrame_encodeFrame hp]
  dsimp only
  rw [if_neg (by simp [hi]), if_pos (by simp [hpd, h51, h7f])]

/-- A die in echo mode drives the CA bits of one beat (R137). -/
theorem dieTake_echo (he : x.echo = true) (hn : now ≤ x.ceHigh + 1000) (w : Nat) :
    dieTake x now fresh f w = ⟨{ x with ceHigh := now + 4 }, [caBeat w (x.feature 5)], true, false⟩ := if_pos (by simp [he, hn])

end

/-! ## What a frame leaves -/

section
variable {d : Dev} {f : Frame} {a : DieAns} {again : Bool}

/-- Only the die that the frame addresses is another (R120). -/
theorem Dev.frameSent_die (k : Nat) : (d.frameSent f a again).die k = if k = f.m then a.die else d.die k := by
  have hput : ({ d.setDie f.m a.die with fresh := d.fresh + 1 } : Dev).die k = if k = f.m then a.die else d.die k := Dev.setDie_die ..
  unfold Dev.frameSent
  dsimp only
  split <;> split <;> split
  all_goals
    simp
    exact hput

/-- What the bus shows of a frame, newest first: its fate, the die's response, and the pulse of a refusal (R121). -/
theorem Dev.frameSent_out : (d.frameSent f a again).out =
    (if a.taken || (d.die f.m).init || (d.die f.m).pd then [] else [.alert f.m]) ++
      (if a.bytes.isEmpty then [] else [.dieData f.m a.bytes]) ++ .frame f.m (bits f.payload 6 0) a.taken :: d.out := by
  unfold Dev.frameSent
  dsimp only
  split <;> split <;> split <;> simp [Dev.emit]

end

section
variable {d : Dev} {f : Frame}

/-- A frame without an error to a die that listens is executed (R121, R123). -/
theorem Dev.sendFrame_listens (hl : (d.die f.m).Listens d.tether.now) (hp : f.payload < 2 ^ 49) :
    d.sendFrame f 0 = d.frameSent f (dieExec (d.die f.m).silent d.tether.now d.fresh f f.payload) := by
  obtain ⟨hi, hpd, he⟩ := hl
  rw [Dev.sendFrame, received_clean hp, dieTake_exec hp he (.inl hi) (.inl hpd)]

/-- A frame to another die leaves a die alone, and the time. -/
theorem Dev.sendFrame_die_other {err k : Nat} (hk : k ≠ f.m) : (d.sendFrame f err).die k = d.die k := by
  rw [Dev.sendFrame, Dev.frameSent_die, if_neg hk]

theorem Dev.sendFrame_tether (err : Nat) : (d.sendFrame f err).tether = d.tether := (Dev.frameSent_touches ..).same .tether (by decide)

theorem Dev.mem_sendFrame_out (err : Nat) {o : Out} (ho : o ∈ d.out) : o ∈ (d.sendFrame f err).out := by
  rw [Dev.sendFrame, Dev.frameSent_out]
  exact List.mem_append_right _ (List.mem_cons_of_mem _ ho)

/-- A frame that the die takes, with its response. -/
theorem Dev.frameSent_taken_out {x : Die} {bytes : List Nat} (hb : bytes ≠ []) (again : Bool) :
    (d.frameSent f ⟨x, bytes, true, false⟩ again).out = .dieData f.m bytes :: .frame f.m (bits f.payload 6 0) true :: d.out := by
  simp [Dev.frameSent_out, hb]

/-- A frame that the die takes and that has no response. -/
theorem Dev.frameSent_silent_out (x : Die) (again : Bool) :
    (d.frameSent f ⟨x, [], true, false⟩ again).out = .frame f.m (bits f.payload 6 0) true :: d.out := by
  simp [Dev.frameSent_out]

end

/-! ## Payloads -/

/-- A field below what is added reads as before. -/
theorem bits_add_above (a b : Nat) {k hi lo : Nat} (hl : lo ≤ hi) (hk : hi < k) : bits (a + b * 2 ^ k) hi lo = bits a hi lo := by
  have h1 : b * 2 ^ k = 2 ^ lo * (b * 2 ^ (k - hi - 1) * 2 ^ (hi + 1 - lo)) := by
    rw [Nat.mul_assoc, ← Nat.pow_add, Nat.mul_left_comm, ← Nat.pow_add]
    congr 2
    omega
  rw [bits, bits, h1, Nat.add_mul_div_left _ _ (by positivity), Nat.add_mul_mod_self_right]

/-- A field added above a value reads as what was added. -/
theorem bits_add_at {a b k n hi : Nat} (ha : a < 2 ^ k) (hb : b < 2 ^ n) (hn : hi + 1 - k = n) : bits (a + b * 2 ^ k) hi k = b := by
  subst hn
  rw [bits, Nat.mul_comm, Nat.add_mul_div_left _ _ (by positivity), Nat.div_eq_of_lt ha, Nat.zero_add, Nat.mod_eq_of_lt hb]

theorem add_field_lt {a b k n m : Nat} (ha : a < 2 ^ k) (hb : b < 2 ^ n) (hm : m = k + n) : a + b * 2 ^ k < 2 ^ m := by
  subst hm
  calc a + b * 2 ^ k < 2 ^ k + b * 2 ^ k := by omega
    _ = (b + 1) * 2 ^ k := by ring
    _ ≤ 2 ^ n * 2 ^ k := Nat.mul_le_mul_right _ hb
    _ = 2 ^ (k + n) := by rw [Nat.pow_add, Nat.mul_comm]

theorem mode_lt (mode : ProgMode) : (if mode = .mlc then 1 else 0) < 2 ^ 1 := by split <;> decide

/-- The fields of a read frame (R123). -/
theorem payRead_fields {op : Nat} (pa : BitVec 27) {slot set : Nat} (mode : ProgMode) (hop : op < 2 ^ 7) (hslot : slot < 2 ^ 3) (hset : set < 2 ^ 4) :
    payRead op pa slot set mode < 2 ^ 49 ∧ bits (payRead op pa slot set mode) 6 0 = op ∧ bits (payRead op pa slot set mode) 33 7 = pa.toNat ∧
      bits (payRead op pa slot set mode) 36 34 = slot ∧ bits (payRead op pa slot set mode) 41 41 = if mode = .mlc then 1 else 0 := by
  have heq : payRead op pa slot set mode = op + pa.toNat * 2 ^ 7 + slot * 2 ^ 34 + set * 2 ^ 37 + (if mode = .mlc then 1 else 0) * 2 ^ 41 := by
    rw [payRead, pay, List.foldl_cons, List.foldl_cons, List.foldl_cons, List.foldl_cons, List.foldl_nil]
  have h34 : op + pa.toNat * 2 ^ 7 < 2 ^ 34 := add_field_lt hop pa.isLt rfl
  have h37 : op + pa.toNat * 2 ^ 7 + slot * 2 ^ 34 < 2 ^ 37 := add_field_lt h34 hslot rfl
  have h41 : op + pa.toNat * 2 ^ 7 + slot * 2 ^ 34 + set * 2 ^ 37 < 2 ^ 41 := add_field_lt h37 hset rfl
  have h49 := add_field_lt (m := 49) h41 ((mode_lt mode).trans (Nat.pow_lt_pow_right (by decide) (by decide : 1 < 8))) rfl
  rw [heq]
  refine ⟨h49, ?_, ?_, ?_, bits_add_at h41 (mode_lt mode) rfl⟩
  · rw [bits_add_above, bits_add_above, bits_add_above, bits_add_above, bits, pow_zero, Nat.div_one, Nat.mod_eq_of_lt hop] <;> decide
  · rw [bits_add_above, bits_add_above, bits_add_above, bits_add_at hop pa.isLt rfl] <;> decide
  · rw [bits_add_above, bits_add_above, bits_add_at h34 hslot rfl] <;> decide

theorem payRead_mode {op : Nat} (pa : BitVec 27) {slot set : Nat} (mode : ProgMode) (hop : op < 2 ^ 7) (hslot : slot < 2 ^ 3) (hset : set < 2 ^ 4) :
    (if bit (payRead op pa slot set mode) 41 then ProgMode.mlc else .slc) = mode := by
  obtain ⟨-, -, -, -, hm⟩ := payRead_fields pa mode hop hslot hset
  rw [bit_eq, hm]
  cases mode <;> rfl

end Sys2Proof.Machine

/-!
PROOFS. O18 (R123 to R125, R154): read frames to a die.
-/
namespace Sys2Proof.Machine

/-! ## Reads at the die -/

section
variable {x : Die} {now fresh pa trc p : Nat} {f : Frame} {bytes : List Nat}

/-- The mode that a read frame's payload names. -/
def modeOf (p : Nat) : ProgMode := if bit p 41 then .mlc else .slc

theorem dieExec_rdLine (hop : bits p 6 0 = 1) :
    dieExec x now fresh f p = dieRead x now (bits p 33 7) 120 (Sys2Proof.lineBytes (x.slot fresh f.m (bits p 33 7) (bits p 36 34) (modeOf p))) := by
  rw [dieExec, hop]
  rfl

theorem dieExec_rdLineSoft (hop : bits p 6 0 = 2) :
    dieExec x now fresh f p =
      dieRead x now (bits p 33 7) 230 (Sys2Proof.lineBytes (x.slot fresh f.m (bits p 33 7) (bits p 36 34) (modeOf p)) ++ Sys2Proof.lineBytes f.mask) := by
  rw [dieExec, hop]
  rfl

theorem dieExec_rdPage (hop : bits p 6 0 = 3) :
    dieExec x now fresh f p =
      dieRead x now (bits p 33 7) 120 ((List.range 8).flatMap fun k => Sys2Proof.lineBytes (x.slot fresh f.m (bits p 33 7) k (modeOf p))) := by
  rw [dieExec, hop]
  rfl

theorem dieExec_rdRef (hop : bits p 6 0 = 4) :
    dieExec x now fresh f p = dieRead x now (bits p 33 7) 400
      ((if modeOf p = .mlc then leBytes 8 f.sweep else leBytes 4 f.sweep ++ [0, 0, 0, 0]) ++ leBytes 2 (x.temp % 1024) ++
        leBytes 2 (x.progTemp fresh (bits p 33 7)) ++ [0, 0, 0, 0]) := by
  rw [dieExec, hop]
  rfl

/-- A die that does not program, with the bank's tRC over, takes a read (R124). -/
theorem dieRead_free (hb : x.busy = false) (hbank : Tbl.look 0 x.bankUntil (bankOf pa) ≤ now) :
    dieRead x now pa trc bytes = ⟨{ x with bankUntil := Tbl.put 0 x.bankUntil (bankOf pa) (now + trc) }, bytes, true, false⟩ := by
  rw [dieRead, if_neg (by simp [hb]), if_neg (by omega)]

theorem dieRead_busy (hb : x.busy = true) : dieRead x now pa trc bytes = dieNo x := if_pos hb

end

/-! ## Reads on the bus -/

section
variable {d : Dev} {f : Frame} {pa trc : Nat} {bytes : List Nat}

/-- A read that the die takes: the frame, then its data, and no page changes. -/
theorem Dev.sendFrame_read (hl : (d.die f.m).Listens d.tether.now) (hp : f.payload < 2 ^ 49)
    (hx : dieExec (d.die f.m).silent d.tether.now d.fresh f f.payload =
      Machine.dieRead (d.die f.m).silent d.tether.now pa trc bytes) (hne : bytes ≠ []) (hb : (d.die f.m).busy = false)
    (hbank : Tbl.look 0 (d.die f.m).bankUntil (bankOf pa) ≤ d.tether.now) :
    (d.sendFrame f 0).out = .dieData f.m bytes :: .frame f.m (bits f.payload 6 0) true :: d.out ∧
      ((d.sendFrame f 0).die f.m).pages = (d.die f.m).pages := by
  rw [Dev.sendFrame_listens hl hp, hx, dieRead_free (x := (d.die f.m).silent) hb hbank, Dev.frameSent_die, if_pos rfl]
  exact ⟨Dev.frameSent_taken_out hne _, rfl⟩

/-- A frame that a die refuses pulses ALERT_N (R121, R123). -/
theorem Dev.sendFrame_refused (hl : (d.die f.m).Listens d.tether.now) (hp : f.payload < 2 ^ 49)
    (hx : dieExec (d.die f.m).silent d.tether.now d.fresh f f.payload = dieNo (d.die f.m).silent) :
    (d.sendFrame f 0).out = .alert f.m :: .frame f.m (bits f.payload 6 0) false :: d.out ∧
      (d.sendFrame f 0).die f.m = (d.die f.m).refuse.silent := by
  rw [Dev.sendFrame_listens hl hp, hx, Dev.frameSent_die, if_pos rfl]
  obtain ⟨hi, hpd, -⟩ := hl
  exact ⟨by simp [Dev.frameSent_out, dieNo, hi, hpd], rfl⟩

theorem Die.refuse_counts {x : Die} (hc : x.refusedCnt < 255) : x.refuse.refused = true ∧ x.refuse.refusedCnt = x.refusedCnt + 1 :=
  ⟨rfl, Nat.min_eq_left hc⟩

end

section
variable {s : State} {m : DieId}

theorem frameTo_populated (hpop : s.dev.populated s.fuse m.val = true) (f : Frame) :
    frameTo s.fuse s m 0 f = .next { s with dev := s.dev.sendFrame f 0 } := congrArg Host.Outcome.next (if_pos hpop)

/-- The frame row of a long read: the die counts as unavailable until it ends (R154). -/
def Dev.longRead (d : Dev) (m len : Nat) : Dev := d.setCtl m { d.ctl m with opUntil := d.tether.now + 4 + len }

theorem frameLong_admitted {len : Nat} (hpop : s.dev.populated s.fuse m.val = true) (hb : (s.dev.die m.val).busy = false)
    (hg : s.dev.gate m.val (s.dev.tether.now + 4) len = true) (f : Frame) :
    frameLong s.fuse s m 0 f len = .next { s with dev := (s.dev.longRead m.val len).sendFrame f 0 } :=
  congrArg Host.Outcome.next (if_pos (by simp [hpop, hb, hg]))

theorem frameLong_closed {len : Nat} (hg : s.dev.gate m.val (s.dev.tether.now + 4) len = false) (err : FrameErr) (f : Frame) :
    frameLong s.fuse s m err f len = .next s := congrArg Host.Outcome.next (if_neg (by simp [hg]))

theorem exec_rdPage (hpop : s.dev.populated s.fuse m.val = true) (pa : BitVec 27) (set : Fin 16) (mode : ProgMode) :
    exec (.rdPage m 0 pa set mode) s = .next { s with dev :=
      (s.dev.count (0x104 + 0x40 * (m.val / 80))).sendFrame { m := m, payload := payRead 3 pa 0 set mode } 0 } :=
  congrArg Host.Outcome.next (if_pos hpop)

end

theorem lineBytes_ne_nil (l : MediaLine) : Sys2Proof.lineBytes l ≠ [] := List.cons_ne_nil _ _

/-- Settles O18. -/
theorem dieReadFrames : Obligations.DIE_READ_FRAMES := by
  unfold Obligations.DIE_READ_FRAMES
  refine ⟨?_, ?_, ?_, ?_, ?_, ?_⟩
  case refine_1 =>
    intro m pa slot set mode s hpop hl hb hbank
    obtain ⟨hlt, hop, hpa, hsl, -⟩ := payRead_fields (op := 1) pa mode (by decide) slot.isLt set.isLt
    have hmode : modeOf (payRead 1 pa slot set mode) = mode := payRead_mode pa mode (by decide) slot.isLt set.isLt
    have hread := Dev.sendFrame_read (d := s.dev) (f := { m := m, payload := payRead 1 pa slot set mode }) hl hlt (dieExec_rdLine hop)
      (lineBytes_ne_nil _) hb (hpa ▸ hbank)
    rw [hpa, hsl, hmode, hop] at hread
    exact ⟨_, frameTo_populated hpop _, hread⟩
  case refine_2 =>
    intro m pa slot set mode mask s hpop hl hb hbank hg
    obtain ⟨hlt, hop, hpa, hsl, -⟩ := payRead_fields (op := 2) pa mode (by decide) slot.isLt set.isLt
    have hmode : modeOf (payRead 2 pa slot set mode) = mode := payRead_mode pa mode (by decide) slot.isLt set.isLt
    have hread := Dev.sendFrame_read (d := s.dev.longRead m.val 230) (f := { m := m, payload := payRead 2 pa slot set mode, mask := mask })
      hl hlt (dieExec_rdLineSoft hop) (List.append_ne_nil_of_left_ne_nil (lineBytes_ne_nil _) _) hb (hpa ▸ hbank)
    rw [hpa, hsl, hmode, hop] at hread
    exact ⟨_, frameLong_admitted hpop hb hg _, hread.1⟩
  case refine_3 =>
    intro m pa set mode s hpop hl hb hbank
    obtain ⟨hlt, hop, hpa, -⟩ := payRead_fields (op := 3) (slot := 0) pa mode (by decide) (by decide) set.isLt
    have hmode : modeOf (payRead 3 pa 0 set mode) = mode := payRead_mode pa mode (by decide) (by decide) set.isLt
    have hdie := s.dev.count_die (0x104 + 0x40 * (m.val / 80)) 1 m.val
    have hnow := (s.dev.count_touches (0x104 + 0x40 * (m.val / 80)) 1).same .tether (by decide)
    have hfresh := (s.dev.count_touches (0x104 + 0x40 * (m.val / 80)) 1).same .fresh (by decide)
    have hout := (s.dev.count_touches (0x104 + 0x40 * (m.val / 80)) 1).same .out (by decide)
    have hread := Dev.sendFrame_read (d := s.dev.count (0x104 + 0x40 * (m.val / 80))) (f := { m := m, payload := payRead 3 pa 0 set mode })
      (by rw [hdie, hnow]; exact hl) hlt (dieExec_rdPage hop) (by simp [List.range_succ, lineBytes_ne_nil]) (by rw [hdie]; exact hb)
      (by rw [hpa, hdie, hnow]; exact hbank)
    rw [hpa, hmode, hop, hdie, hfresh, hout] at hread
    exact ⟨_, exec_rdPage hpop _ _ _, hread.1⟩
  case refine_4 =>
    intro m pa mode sweep s hpop hl hb hbank hg
    obtain ⟨hlt, hop, hpa, -⟩ := payRead_fields (op := 4) (slot := 0) (set := 0) pa mode (by decide) (by decide) (by decide)
    have hmode : modeOf (payRead 4 pa 0 0 mode) = mode := payRead_mode pa mode (by decide) (by decide) (by decide)
    have hread := Dev.sendFrame_read (d := s.dev.longRead m.val 400) (f := { m := m, payload := payRead 4 pa 0 0 mode, sweep := sweep.toNat })
      hl hlt (dieExec_rdRef hop) (List.append_ne_nil_of_right_ne_nil _ (List.cons_ne_nil _ _)) hb (hpa ▸ hbank)
    rw [hpa, hmode, hop] at hread
    exact ⟨_, frameLong_admitted hpop hb hg _, hread.1⟩
  case refine_5 =>
    intro m pa slot set mode s hpop hl hb hc
    obtain ⟨hlt, hop, -⟩ := payRead_fields (op := 1) pa mode (by decide) slot.isLt set.isLt
    obtain ⟨hout, hdie⟩ := Dev.sendFrame_refused (d := s.dev) (f := { m := m, payload := payRead 1 pa slot set mode }) hl hlt
      ((dieExec_rdLine hop).trans (dieRead_busy hb))
    rw [hop] at hout
    refine ⟨_, frameTo_populated hpop _, hout, ?_, ?_⟩
    · rw [hdie]
      exact (Die.refuse_counts hc).1
    · rw [hdie]
      exact (Die.refuse_counts hc).2
  case refine_6 =>
    exact fun m pa slot set mode mask sweep s h230 h400 => ⟨frameLong_closed h230 .., frameLong_closed h400 ..⟩

end Sys2Proof.Machine

/-!
PROOFS. O19 (R105, R126, R127, R159, R164): LOAD and PROG frames to a die.
-/
namespace Sys2Proof.Machine

/-! ## Payloads -/

theorem b2n_lt (b : Bool) : b2n b < 2 ^ 1 := by cases b <;> decide

theorem bit_of_bits {v k : Nat} {b : Bool} (h : bits v k k = b2n b) : bit v k = b := by
  rw [bit_eq, h]
  cases b <;> rfl

/-- The fields of a LOAD frame (R126). -/
theorem payLoad_fields (pa : BitVec 27) {entry : Nat} (buf : Bool) (he : entry < 2 ^ 4) {p : Nat}
    (hp : p = pay 0x10 [(7, pa.toNat), (34, entry), (38, b2n buf)]) :
    p < 2 ^ 49 ∧ bits p 6 0 = 0x10 ∧ bits p 33 7 = pa.toNat ∧ bits p 37 34 = entry ∧ bit p 38 = buf := by
  have heq : p = 0x10 + pa.toNat * 2 ^ 7 + entry * 2 ^ 34 + b2n buf * 2 ^ 38 := by
    rw [hp, pay, List.foldl_cons, List.foldl_cons, List.foldl_cons, List.foldl_nil]
  have h34 : 0x10 + pa.toNat * 2 ^ 7 < 2 ^ 34 := add_field_lt (by decide) pa.isLt rfl
  have h38 : 0x10 + pa.toNat * 2 ^ 7 + entry * 2 ^ 34 < 2 ^ 38 := add_field_lt h34 he rfl
  have h49 := add_field_lt (m := 49) h38 ((b2n_lt buf).trans (Nat.pow_lt_pow_right (by decide) (by decide : 1 < 11))) rfl
  rw [heq]
  refine ⟨h49, ?_, ?_, ?_, bit_of_bits (bits_add_at h38 (b2n_lt buf) rfl)⟩
  · rw [bits_add_above, bits_add_above, bits_add_above] <;> decide
  · rw [bits_add_above, bits_add_above, bits_add_at (by decide) pa.isLt rfl] <;> decide
  · rw [bits_add_above, bits_add_at h34 he rfl] <;> decide

/-- The opcode of a PROG frame (R127). -/
def progOp (mode : ProgMode) : Nat := if mode = .mlc then 0x12 else 0x11

theorem progOp_lt (mode : ProgMode) : progOp mode < 2 ^ 7 := by cases mode <;> decide

/-- The fields of a PROG frame (R127). -/
theorem payProg_fields (mode : ProgMode) (buf : Bool) {last : Nat} (hl : last < 2 ^ 4) :
    payProg mode buf last < 2 ^ 49 ∧ bits (payProg mode buf last) 6 0 = progOp mode ∧ bit (payProg mode buf last) 7 = buf ∧
      bits (payProg mode buf last) 11 8 = last := by
  have heq : payProg mode buf last = progOp mode + b2n buf * 2 ^ 7 + last * 2 ^ 8 := by
    rw [payProg, pay, List.foldl_cons, List.foldl_cons, List.foldl_nil]
    rfl
  have hop := progOp_lt mode
  have h8 : progOp mode + b2n buf * 2 ^ 7 < 2 ^ 8 := add_field_lt hop (b2n_lt buf) rfl
  have h49 := add_field_lt (m := 49) h8 (hl.trans (Nat.pow_lt_pow_right (by decide) (by decide : 4 < 41))) rfl
  rw [heq]
  refine ⟨h49, ?_, bit_of_bits ?_, bits_add_at h8 hl rfl⟩
  · rw [bits_add_above, bits_add_above, bits, pow_zero, Nat.div_one, Nat.mod_eq_of_lt hop] <;> decide
  · rw [bits_add_above, bits_add_at hop (b2n_lt buf) rfl] <;> decide

/-! ## LOAD and PROG at the die -/

section
variable {x : Die} {now fresh p : Nat} {f : Frame}

theorem dieExec_load (hop : bits p 6 0 = 0x10) : dieExec x now fresh f p = dieLoad x f (bits p 33 7) (bits p 37 34) (bit p 38) := by
  rw [dieExec, hop]
  rfl

theorem dieExec_prog (mode : ProgMode) (hop : bits p 6 0 = progOp mode) :
    dieExec x now fresh f p = dieProg x now mode (bit p 7) (bits p 11 8) := by
  rw [dieExec, hop]
  cases mode <;> rfl

/-- An entry whose CRC is good is held in its buffer (R126). -/
theorem dieLoad_good {pa entry : Nat} {buf : Bool} (hr : x.running = none) (hq : x.queued = none)
    (hc : crc16 (f.page.flatMap Sys2Proof.lineBytes) = f.crc) :
    dieLoad x f pa entry buf = ⟨{ x with buf := Tbl.put none x.buf (16 * b2n buf + entry) (some ⟨pa, f.page, true⟩) }, [], true, false⟩ := by
  have hpass : dieLoad x f pa entry buf = _ := if_neg (by simp [hr, hq])
  rw [hpass, if_pos (by simpa using hc), decide_eq_true hc]

theorem dieProg_idle {mode : ProgMode} {buf : Bool} {last : Nat} (hp : progRefused x mode buf last = false) (hr : x.running = none) :
    dieProg x now mode buf last = ⟨{ x with running := some ⟨buf, last, mode, now + 4⟩ }, [], true, false⟩ := by
  rw [dieProg, if_neg (by simp [hp]), hr]

theorem dieProg_follows {mode : ProgMode} {buf : Bool} {last : Nat} {r : Prog} (hp : progRefused x mode buf last = false)
    (hr : x.running = some r) :
    dieProg x now mode buf last = ⟨{ x with queued := some ⟨buf, last, mode, now + 4⟩ }, [], true, false⟩ := by
  rw [dieProg, if_neg (by simp [hp]), hr]

end

/-! ## LOAD and PROG frames -/

section
variable {s : State} {m : DieId} {buf : Bool}

/-- A frame that the die takes without a response leaves the die that its execution makes. -/
theorem Dev.sendFrame_silent {d : Dev} {f : Frame} {x : Die} (hl : (d.die f.m).Listens d.tether.now) (hp : f.payload < 2 ^ 49)
    (hx : dieExec (d.die f.m).silent d.tether.now d.fresh f f.payload = ⟨x, [], true, false⟩) :
    (d.sendFrame f 0).out = .frame f.m (bits f.payload 6 0) true :: d.out ∧ (d.sendFrame f 0).die f.m = x := by
  rw [Dev.sendFrame_listens hl hp, hx, Dev.frameSent_die, if_pos rfl]
  exact ⟨Dev.frameSent_silent_out .., rfl⟩

/-- A LOAD is counted against its channel's frame of the schedule (R159). -/
def Dev.loadCounted (d : Dev) (m : Nat) : Dev :=
  (d.setChan (m / 8) { d.chan (m / 8) with loaded := (d.chan (m / 8)).loaded + 1 }).count (0x105 + 0x40 * (m / 80))

theorem Dev.loadCounted_keeps (d : Dev) (m k : Nat) :
    (d.loadCounted m).die k = d.die k ∧ (d.loadCounted m).tether = d.tether ∧ (d.loadCounted m).out = d.out := by
  rw [Dev.loadCounted, Dev.count_die, Dev.setChan_die, (Dev.count_touches ..).same .tether (by decide), (Dev.count_touches ..).same .out (by decide)]
  exact ⟨rfl, rfl, rfl⟩

/-- The frame of a LOAD (R126). -/
def loadFrame (m : Nat) (pa : BitVec 27) (buf : Bool) (entry : Nat) (data : List MediaLine) (crc : BitVec 16) : Frame :=
  { m := m, payload := pay 0x10 [(7, pa.toNat), (34, entry), (38, b2n buf)], page := data, crc := crc.toNat }

theorem exec_load (hpop : s.dev.populated s.fuse m.val = true)
    (hcap : s.dev.pwr.svc = .flush ∨ (s.dev.chan (m.val / 8)).loaded < s.dev.fld MCH_BRIDLE_CFG 7 0) (pa : BitVec 27) (entry : Fin 16)
    (data : List MediaLine) (crc : BitVec 16) :
    exec (.load m 0 pa buf entry data crc) s = .next { s with dev := (s.dev.loadCounted m.val).sendFrame (loadFrame m pa buf entry data crc) 0 } :=
  congrArg Host.Outcome.next (if_pos (by simpa [hpop] using hcap))

/-- When a program that is sent now would start: at the end of its frame, or when the program before it on the die ends (R105). -/
def Dev.progStart (d : Dev) (m : Nat) : Nat :=
  match (d.die m).running with
  | some r => max (max d.tether.now (d.chan (m / 8)).caUntil + 4) (r.start + tProg r.mode)
  | none => max d.tether.now (d.chan (m / 8)).caUntil + 4

theorem programGate_admitted {F : Fuses} {d : Dev} {m last err : Nat} {mode : ProgMode} (hpop : d.populated F m = true)
    (hg : d.gate m (d.progStart m) (tProg mode) = true) (hs : d.sharesAdmit m buf = true) :
    d.programGate F m mode buf last err = (d.sharesCount m buf).sendFrame { m := m, payload := payProg mode buf last } err := by
  rw [Dev.programGate, if_pos]
  rw [Dev.progStart] at hg
  simp only [hpop, hs, Bool.true_and, Bool.and_true]
  exact hg

theorem programGate_closed {F : Fuses} {d : Dev} {m last err : Nat} {mode : ProgMode}
    (h : d.sharesAdmit m buf = false ∨ d.populated F m = false) : d.programGate F m mode buf last err = d := by
  rw [Dev.programGate, if_neg]
  rcases h with h | h <;> simp [h]

theorem Dev.sharesCount_die (d : Dev) (m : Nat) (buf : Bool) (k : Nat) : (d.sharesCount m buf).die k = d.die k := rfl

/-- A program frame that is admitted reaches its die (R127). -/
theorem programGate_sends {F : Fuses} {d : Dev} {m last : Nat} {mode : ProgMode} {x : Die} (hl : (d.die m).Listens d.tether.now)
    (hlast : last < 2 ^ 4) (hpop : d.populated F m = true) (hg : d.gate m (d.progStart m) (tProg mode) = true)
    (hs : d.sharesAdmit m buf = true) (hx : dieProg (d.die m).silent d.tether.now mode buf last = ⟨x, [], true, false⟩) :
    (d.programGate F m mode buf last 0).out = .frame m (progOp mode) true :: d.out ∧ (d.programGate F m mode buf last 0).die m = x := by
  obtain ⟨hlt, hop, hbuf, hent⟩ := payProg_fields mode buf hlast
  have hsent := Dev.sendFrame_silent (d := d.sharesCount m buf) (f := { m := m, payload := payProg mode buf last }) hl hlt
    ((dieExec_prog mode hop).trans (by rw [hbuf, hent]; exact hx))
  rw [hop] at hsent
  rw [programGate_admitted hpop hg hs]
  exact hsent

/-- A program that nothing refuses starts on an idle die at the end of its frame (R127). -/
theorem programGate_starts {F : Fuses} {d : Dev} {m last : Nat} {mode : ProgMode} (hl : (d.die m).Listens d.tether.now) (hlast : last < 2 ^ 4)
    (hpop : d.populated F m = true) (hg : d.gate m (max d.tether.now (d.chan (m / 8)).caUntil + 4) (tProg mode) = true)
    (hs : d.sharesAdmit m buf = true) (hr : (d.die m).running = none) (hp : progRefused (d.die m).silent mode buf last = false) :
    (d.programGate F m mode buf last 0).out = .frame m (progOp mode) true :: d.out ∧
      ((d.programGate F m mode buf last 0).die m).running = some ⟨buf, last, mode, d.tether.now + 4⟩ ∧
      ((d.programGate F m mode buf last 0).die m).pages = (d.die m).pages := by
  obtain ⟨hout, hdie⟩ := programGate_sends (F := F) hl hlast hpop (by rw [Dev.progStart, hr]; exact hg) hs (dieProg_idle hp hr)
  rw [hdie]
  exact ⟨hout, rfl, rfl⟩

end

/-- Settles O19. -/
theorem dieProgramFrames : Obligations.DIE_PROGRAM_FRAMES := by
  unfold Obligations.DIE_PROGRAM_FRAMES
  refine ⟨?_, ?_, ?_, ?_, ?_⟩
  case refine_1 =>
    intro m pa buf entry data crc s hpop hl hcap hr hq hcrc
    obtain ⟨hlt, hop, hpa, hent, hbuf⟩ := payLoad_fields pa buf entry.isLt (p := (loadFrame m pa buf entry data crc).payload) rfl
    obtain ⟨hdie, hteth, hout⟩ := s.dev.loadCounted_keeps m.val m.val
    rw [← hdie, ← hteth] at hl
    rw [← hdie] at hr hq
    have hsent := Dev.sendFrame_silent (d := s.dev.loadCounted m.val) (f := loadFrame m pa buf entry data crc) hl hlt
      ((dieExec_load hop).trans (dieLoad_good (x := ((s.dev.loadCounted m.val).die m.val).silent) hr hq hcrc))
    rw [hop, hout] at hsent
    refine ⟨_, exec_load hpop hcap pa entry data crc, hsent.1, ?_⟩
    rw [show ((s.dev.loadCounted m.val).sendFrame (loadFrame m pa buf entry data crc) 0).die m.val = _ from hsent.2, hpa, hent, hbuf]
    exact Tbl.look_put_same ..
  case refine_2 =>
    exact fun m buf last s hpop hl hg hs hr hp => ⟨_, rfl, programGate_starts (mode := .slc) hl last.isLt hpop hg hs hr hp⟩
  case refine_3 =>
    exact fun m buf last s hpop hl hg hs hr hp => ⟨_, rfl, programGate_starts (mode := .mlc) hl last.isLt hpop hg hs hr hp⟩
  case refine_4 =>
    intro m buf last s r hpop hl hg hs hr hp
    obtain ⟨-, hdie⟩ := programGate_sends (F := s.fuse) (mode := .mlc) hl last.isLt hpop (by rw [Dev.progStart, hr]; exact hg) hs
      (dieProg_follows hp hr)
    refine ⟨_, rfl, ?_, ?_⟩
    · exact (congrArg Die.running hdie).trans hr
    · exact congrArg Die.queued hdie
  case refine_5 =>
    exact fun m buf last s h => ⟨next_congr s (programGate_closed h), next_congr s (programGate_closed h)⟩

end Sys2Proof.Machine

/-!
PROOFS. O20 (R129 to R131) and O21 (R120, R123, R131, R133, R137, R154): the frames that read a die's status, set its features, train it, or put it
into power-down or reset. A frame with several CE_N low reaches each die addressed once.
-/
namespace Sys2Proof.Machine

/-! ## Dies addressed together -/

/-- The populated positions whose CE_N is low in a frame (R120). -/
def addressees (F : Fuses) (d : Dev) (m : Nat) (others : BitVec 8) : List Nat :=
  (m :: ((List.range 8).filter fun k => others.getLsbD k && k != m % 8).map (8 * (m / 8) + ·)).filter (d.populated F)

theorem mem_addressees {F : Fuses} {d : Dev} {m : Nat} {others : BitVec 8} {k : Nat} : k ∈ addressees F d m others ↔ Addressed F d m others k := by
  rw [addressees, List.mem_filter, and_comm, Addressed, List.mem_cons, List.mem_map]
  refine and_congr_right fun _ => ⟨fun h => ?_, fun h => ?_⟩
  · rcases h with rfl | ⟨i, hi, rfl⟩
    · exact .inl rfl
    · obtain ⟨hr, hb⟩ := List.mem_filter.mp hi
      have hi8 := List.mem_range.mp hr
      refine .inr ⟨by omega, ?_⟩
      rw [show (8 * (m / 8) + i) % 8 = i by omega]
      exact (Bool.and_eq_true_iff.mp hb).1
  · by_cases hk : k = m
    · exact .inl hk
    · obtain ⟨hdiv, hb⟩ := h.resolve_left hk
      refine .inr ⟨k % 8, List.mem_filter.mpr ⟨List.mem_range.mpr (Nat.mod_lt _ (by decide)), ?_⟩, by omega⟩
      have hne : k % 8 ≠ m % 8 := by omega
      simp [hb, hne]

theorem addressees_nodup (F : Fuses) (d : Dev) (m : Nat) (others : BitVec 8) : (addressees F d m others).Nodup := by
  refine List.Nodup.filter _ (List.nodup_cons.mpr ⟨fun hm => ?_, ?_⟩)
  · obtain ⟨i, hi, heq⟩ := List.mem_map.mp hm
    obtain ⟨hr, hb⟩ := List.mem_filter.mp hi
    have hne : i ≠ m % 8 := by simpa using (Bool.and_eq_true_iff.mp hb).2
    have hi8 := List.mem_range.mp hr
    omega
  · exact (List.nodup_range.filter _).map fun a b h => by simpa using h

/-! ## Frames to several dies -/

/-- A frame sent to each of a list of dies in turn. -/
def Dev.sendAll (d : Dev) (f : Frame) (err : Nat) (l : List Nat) : Dev := l.foldl (fun d k => d.sendFrame { f with m := k } err) d

section
variable {d : Dev} {f : Frame} {err : Nat} {l : List Nat} {k : Nat}

theorem Dev.sendAll_die_other (hk : k ∉ l) : (d.sendAll f err l).die k = d.die k := by
  induction l generalizing d with
  | nil => rfl
  | cons a l ih =>
    obtain ⟨hne, hl⟩ := List.ne_and_not_mem_of_not_mem_cons hk
    exact (ih hl).trans (Dev.sendFrame_die_other hne)

theorem Dev.sendAll_tether : (d.sendAll f err l).tether = d.tether := by
  induction l generalizing d with
  | nil => rfl
  | cons a l ih => exact ih.trans (Dev.sendFrame_tether err)

theorem Dev.mem_sendAll_out {o : Out} (ho : o ∈ d.out) : o ∈ (d.sendAll f err l).out := by
  induction l generalizing d with
  | nil => exact ho
  | cons a l ih => exact ih (Dev.mem_sendFrame_out err ho)

/-- Each die of the list takes the frame once, from the state that it had, at the same time. -/
theorem Dev.sendAll_die (hn : l.Nodup) (hk : k ∈ l) : ∃ e : Dev, e.die k = d.die k ∧ e.tether = d.tether ∧
    (d.sendAll f err l).die k = (e.sendFrame { f with m := k } err).die k ∧
      ∀ o ∈ (e.sendFrame { f with m := k } err).out, o ∈ (d.sendAll f err l).out := by
  induction l generalizing d with
  | nil => exact absurd hk List.not_mem_nil
  | cons a l ih =>
    obtain ⟨ha, hl⟩ := List.nodup_cons.mp hn
    rcases List.mem_cons.mp hk with rfl | hmem
    · exact ⟨d, rfl, rfl, Dev.sendAll_die_other ha, fun o ho => Dev.mem_sendAll_out (d := d.sendFrame _ err) ho⟩
    · obtain ⟨e, hdie, hteth, hlast, hout⟩ := ih (d := d.sendFrame { f with m := a } err) hl hmem
      have hne : k ≠ a := fun h => ha (h ▸ hmem)
      exact ⟨e, hdie.trans (Dev.sendFrame_die_other hne), hteth.trans (Dev.sendFrame_tether err), hlast, hout⟩

/-- A frame that the die executes, whatever else it reaches. -/
theorem Dev.sendFrame_executed {x : Die} (hl : (d.die f.m).echo = false ∨ (d.die f.m).ceHigh + 1000 < d.tether.now)
    (hi : (d.die f.m).init = false ∨ bits f.payload 6 0 = 0x7F)
    (hpd : (d.die f.m).pd = false ∨ bits f.payload 6 0 = 0x51 ∨ bits f.payload 6 0 = 0x7F) (hp : f.payload < 2 ^ 49)
    (hx : ∀ fresh, dieExec (d.die f.m).silent d.tether.now fresh f f.payload = ⟨x, [], true, false⟩) :
    (d.sendFrame f 0).die f.m = x ∧ .frame f.m (bits f.payload 6 0) true ∈ (d.sendFrame f 0).out := by
  rw [Dev.sendFrame, received_clean hp, dieTake_exec hp hl hi hpd, hx, Dev.frameSent_die, if_pos rfl, Dev.frameSent_silent_out]
  exact ⟨rfl, List.mem_cons_self⟩

/-- What a frame to several dies leaves of one that executes it without a response, and of the others. -/
theorem frameAll_executed {s : State} {m : DieId} {others : BitVec 8} {ok : Nat → Bool} {g : Die → Die}
    (hk : Addressed s.fuse s.dev m.val others k) (hok : ∀ j, Addressed s.fuse s.dev m.val others j → ok j = true)
    (hl : (s.dev.die k).echo = false ∨ (s.dev.die k).ceHigh + 1000 < s.dev.tether.now)
    (hi : (s.dev.die k).init = false ∨ bits f.payload 6 0 = 0x7F)
    (hpd : (s.dev.die k).pd = false ∨ bits f.payload 6 0 = 0x51 ∨ bits f.payload 6 0 = 0x7F) (hp : f.payload < 2 ^ 49)
    (hx : ∀ fresh, dieExec (s.dev.die k).silent s.dev.tether.now fresh { f with m := k } f.payload = ⟨g (s.dev.die k), [], true, false⟩) :
    ∃ e, frameAll s.fuse s m others 0 f ok = .next { s with dev := e } ∧ e.die k = g (s.dev.die k) ∧
      .frame k (bits f.payload 6 0) true ∈ e.out ∧ ∀ j, ¬ Addressed s.fuse s.dev m.val others j → e.die j = s.dev.die j := by
  obtain ⟨e, hdie, hteth, hlast, hout⟩ := Dev.sendAll_die (d := s.dev) (f := f) (err := 0) (addressees_nodup s.fuse s.dev m.val others)
    (mem_addressees.mpr hk)
  have hsent := Dev.sendFrame_executed (d := e) (f := { f with m := k }) (x := g (s.dev.die k)) (by rw [hdie, hteth]; exact hl)
    (by rw [hdie]; exact hi) (by rw [hdie]; exact hpd) hp (by rw [hdie, hteth]; exact hx)
  refine ⟨s.dev.sendAll f 0 (addressees s.fuse s.dev m.val others), ?_, hlast.trans hsent.1, hout _ hsent.2,
    fun j hj => Dev.sendAll_die_other fun h => hj (mem_addressees.mp h)⟩
  exact congrArg Host.Outcome.next (if_pos (List.all_eq_true.mpr fun j hj => hok j (mem_addressees.mp hj)))

end

/-! ## Payloads -/

theorem pay_op {op : Nat} (hop : op < 2 ^ 7) : pay op [] < 2 ^ 49 ∧ bits (pay op []) 6 0 = op := by
  have heq : pay op [] = op := by rw [pay, List.foldl_nil]
  rw [heq, bits, pow_zero, Nat.div_one]
  exact ⟨hop.trans (Nat.pow_lt_pow_right (by decide) (by decide)), Nat.mod_eq_of_lt hop⟩

/-- A payload with one argument at bit 7. -/
theorem pay_arg {op a n hi : Nat} (hop : op < 2 ^ 7) (ha : a < 2 ^ n) (hn : hi + 1 - 7 = n) (hle : n ≤ 42) :
    pay op [(7, a)] < 2 ^ 49 ∧ bits (pay op [(7, a)]) 6 0 = op ∧ bits (pay op [(7, a)]) hi 7 = a := by
  have heq : pay op [(7, a)] = op + a * 2 ^ 7 := by rw [pay, List.foldl_cons, List.foldl_nil]
  have h49 := add_field_lt (m := 49) (n := 42) hop (ha.trans_le (Nat.pow_le_pow_right (by decide) hle)) rfl
  rw [heq]
  refine ⟨h49, ?_, bits_add_at hop ha hn⟩
  rw [bits_add_above, bits, pow_zero, Nat.div_one, Nat.mod_eq_of_lt hop] <;> decide

/-- The fields of a SET_FEATURE frame (R131). -/
theorem paySet_fields (addr : Byte) (value : Reg32) {p : Nat} (hp : p = pay 0x30 [(7, addr.toNat), (15, value.toNat)]) :
    p < 2 ^ 49 ∧ bits p 6 0 = 0x30 ∧ bits p 14 7 = addr.toNat ∧ bits p 46 15 = value.toNat := by
  have heq : p = 0x30 + addr.toNat * 2 ^ 7 + value.toNat * 2 ^ 15 := by
    rw [hp, pay, List.foldl_cons, List.foldl_cons, List.foldl_nil]
  have h15 : 0x30 + addr.toNat * 2 ^ 7 < 2 ^ 15 := add_field_lt (by decide) addr.isLt rfl
  have h49 := add_field_lt (m := 49) h15 (value.isLt.trans (Nat.pow_lt_pow_right (by decide) (by decide : 32 < 34))) rfl
  rw [heq]
  refine ⟨h49, ?_, ?_, bits_add_at h15 value.isLt rfl⟩
  · rw [bits_add_above, bits_add_above] <;> decide
  · rw [bits_add_above, bits_add_at (by decide) addr.isLt rfl] <;> decide

/-! ## What the die makes of them -/

section
variable {x : Die} {now fresh p : Nat} {f : Frame}

theorem dieExec_status (hop : bits p 6 0 = 0x20) : dieExec x now fresh f p = ⟨x.statusClear, x.statusBytes, true, false⟩ := by
  rw [dieExec, hop]
  rfl

theorem dieExec_temp (hop : bits p 6 0 = 0x21) : dieExec x now fresh f p = ⟨{ x with maxTemp := x.temp },
    leBytes 2 (x.temp % 1024) ++ leBytes 2 (max x.maxTemp x.temp % 1024) ++ List.replicate 12 0, true, false⟩ := by
  rw [dieExec, hop]
  rfl

theorem dieExec_readId (hop : bits p 6 0 = 0x22) (hb : x.busy = false) : dieExec x now fresh f p = ⟨x, leBytes 32 x.ident.toNat, true, false⟩ := by
  rw [dieExec, hop]
  exact if_neg (by simp [hb])

theorem dieExec_setFeature (hop : bits p 6 0 = 0x30) (hb : x.busy = false) :
    dieExec x now fresh f p = ⟨x.setFeature (bits p 14 7) (bits p 46 15), [], true, false⟩ := by
  rw [dieExec, hop]
  exact if_neg (by simp [hb])

theorem dieExec_getFeature (hop : bits p 6 0 = 0x31) : dieExec x now fresh f p = ⟨x,
    leBytes 4 (if featMask (bits p 14 7) = 0 then 0 else x.feature (bits p 14 7)) ++ List.replicate 12 0, true, false⟩ := by
  rw [dieExec, hop]
  rfl

theorem dieExec_nop (hop : bits p 6 0 = 0) : dieExec x now fresh f p = ⟨x, [], true, false⟩ := by
  rw [dieExec, hop]
  rfl

theorem dieExec_trainCa (hop : bits p 6 0 = 0x40) (hb : x.busy = false) :
    dieExec x now fresh f p = ⟨{ x with echo := true, ceHigh := now + 4 }, [], true, false⟩ := by
  rw [dieExec, hop]
  exact if_neg (by simp [hb])

theorem dieExec_trainRd (hop : bits p 6 0 = 0x41) (hb : x.busy = false) (h7 : bit p 7 = true) :
    dieExec x now fresh f p = ⟨x, leBytes 64 x.pattern.toNat, true, false⟩ := by
  rw [dieExec, hop, h7]
  exact if_neg (by simp [hb])

theorem dieExec_trainWr (hop : bits p 6 0 = 0x42) (hb : x.busy = false) :
    dieExec x now fresh f p = ⟨{ x with pattern := f.word }, [], true, false⟩ := by
  rw [dieExec, hop]
  exact if_neg (by simp [hb])

theorem dieExec_zqCal (hop : bits p 6 0 = 0x43) (hb : x.busy = false) : dieExec x now fresh f p = ⟨x, [], true, false⟩ := by
  rw [dieExec, hop]
  exact if_neg (by simp [hb])

theorem dieExec_pdEnter (hop : bits p 6 0 = 0x50) (hb : x.busy = false) : dieExec x now fresh f p = ⟨{ x with pd := true }, [], true, false⟩ := by
  rw [dieExec, hop]
  exact if_neg (by simp [hb])

theorem dieExec_pdExit (hop : bits p 6 0 = 0x51) : dieExec x now fresh f p = ⟨{ x with pd := false }, [], true, false⟩ := by
  rw [dieExec, hop]
  rfl

theorem dieExec_reset (hop : bits p 6 0 = 0x7F) : dieExec x now fresh f p = ⟨x.reset, [], true, false⟩ := by
  rw [dieExec, hop]
  rfl

end

/-! ## Features -/

theorem Die.feature_setFeature_same (x : Die) {a : Nat} (v : Nat) (ha : featMask a ≠ 0) : (x.setFeature a v).feature a = Nat.land v (featMask a) := by
  rw [Die.setFeature, if_neg ha, Die.feature, Tbl.look_put_same]

theorem Die.feature_setFeature_other (x : Die) {a b : Nat} (v : Nat) (hb : b ≠ a) : (x.setFeature a v).feature b = x.feature b := by
  rw [Die.setFeature]
  split
  · rfl
  · rw [Die.feature, Die.feature, Tbl.look_put_other _ _ _ _ _ hb]

/-! ## One die answers -/

section
variable {s : State} {m : DieId} {f : Frame}

/-- A frame that the die takes, with its response. -/
theorem Dev.sendFrame_answers {d : Dev} {x : Die} {bytes : List Nat} (hl : (d.die f.m).Listens d.tether.now) (hp : f.payload < 2 ^ 49)
    (hx : dieExec (d.die f.m).silent d.tether.now d.fresh f f.payload = ⟨x, bytes, true, false⟩) (hne : bytes ≠ []) :
    (d.sendFrame f 0).out = .dieData f.m bytes :: .frame f.m (bits f.payload 6 0) true :: d.out ∧ (d.sendFrame f 0).die f.m = x := by
  rw [Dev.sendFrame_listens hl hp, hx, Dev.frameSent_die, if_pos rfl]
  exact ⟨Dev.frameSent_taken_out hne _, rfl⟩

/-- A frame that a die in power-down lets pass (log entry 12). -/
theorem Dev.sendFrame_passes {d : Dev} (hp : f.payload < 2 ^ 49) (he : (d.die f.m).echo = false) (hi : (d.die f.m).init = false)
    (hpd : (d.die f.m).pd = true) (h51 : bits f.payload 6 0 ≠ 0x51) (h7f : bits f.payload 6 0 ≠ 0x7F) :
    (d.sendFrame f 0).die f.m = d.die f.m ∧ (d.sendFrame f 0).out = .frame f.m (bits f.payload 6 0) false :: d.out := by
  rw [Dev.sendFrame, received_clean hp, dieTake_pd hp he hi hpd h51 h7f, Dev.frameSent_die, if_pos rfl]
  exact ⟨rfl, by simp [Dev.frameSent_out, hpd]⟩

/-- A frame to a die in echo mode comes back as one of its beats (R137). -/
theorem Dev.sendFrame_echoes {d : Dev} (hp : f.payload < 2 ^ 49) (he : (d.die f.m).echo = true) (hn : d.tether.now ≤ (d.die f.m).ceHigh + 1000) :
    (d.sendFrame f 0).die f.m = { d.die f.m with ceHigh := d.tether.now + 4 } ∧
      (d.sendFrame f 0).out =
        .dieData f.m [caBeat (encodeFrame f.payload) ((d.die f.m).feature 5)] :: .frame f.m (bits f.payload 6 0) true :: d.out := by
  rw [Dev.sendFrame, received_clean hp, dieTake_echo he hn, Dev.frameSent_die, if_pos rfl]
  exact ⟨rfl, Dev.frameSent_taken_out (List.cons_ne_nil _ _) _⟩

theorem frameTrain_populated (hpop : s.dev.populated s.fuse m.val = true) (ht : s.dev.trainTime (m.val / 8) = true) (f : Frame) :
    frameTrain s.fuse s m 0 f = .next { s with dev := s.dev.sendFrame f 0 } := (if_pos ht).trans (frameTo_populated hpop f)

end

/-- Settles O20. -/
theorem dieStatusFrames : Obligations.DIE_STATUS_FRAMES := by
  unfold Obligations.DIE_STATUS_FRAMES
  refine ⟨?_, ?_, ?_, ?_, ?_⟩
  case refine_1 =>
    intro m s hpop hl
    obtain ⟨hlt, hop⟩ := pay_op (op := 0x20) (by decide)
    obtain ⟨hout, hdie⟩ := Dev.sendFrame_answers (d := s.dev) (f := { m := m, payload := pay 0x20 [] }) hl hlt (dieExec_status hop)
      (List.cons_ne_nil _ _)
    refine ⟨_, _, frameTo_populated hpop _, by rw [hout]; exact List.mem_cons_self, rfl, ?_⟩
    rw [show (s.dev.sendFrame { m := m, payload := pay 0x20 [] } 0).die m.val = _ from hdie]
    exact ⟨rfl, rfl, rfl, rfl, rfl, rfl⟩
  case refine_2 =>
    intro m s hpop hl
    obtain ⟨hlt, hop⟩ := pay_op (op := 0x21) (by decide)
    obtain ⟨hout, -⟩ := Dev.sendFrame_answers (d := s.dev) (f := { m := m, payload := pay 0x21 [] }) hl hlt (dieExec_temp hop)
      (List.append_ne_nil_of_right_ne_nil _ (List.cons_ne_nil _ _))
    rw [hop] at hout
    exact ⟨_, frameTo_populated hpop _, hout⟩
  case refine_3 =>
    intro m s hpop hl ht hb
    obtain ⟨hlt, hop⟩ := pay_op (op := 0x22) (by decide)
    obtain ⟨hout, -⟩ := Dev.sendFrame_answers (d := s.dev) (f := { m := m, payload := pay 0x22 [] }) hl hlt (dieExec_readId hop hb)
      (List.cons_ne_nil _ _)
    rw [hop] at hout
    exact ⟨_, frameTrain_populated hpop ht _, hout⟩
  case refine_4 =>
    intro m others addr value s k hk hl hb hmask
    obtain ⟨hlt, hop, haddr, hval⟩ := paySet_fields addr value rfl
    obtain ⟨e, hexec, hdie, hout, hother⟩ := frameAll_executed (s := s) (m := m) (others := others) (ok := fun _ => true)
      (f := { m := m, payload := pay 0x30 [(7, addr.toNat), (15, value.toNat)] })
      (g := fun x => x.silent.setFeature addr.toNat value.toNat) hk (fun _ _ => rfl) hl.2.2 (.inl hl.1) (.inl hl.2.1) hlt
      fun _ => (dieExec_setFeature (x := (s.dev.die k).silent) hop hb).trans (by rw [haddr, hval])
    rw [hop] at hout
    refine ⟨e, hexec, hout, ?_, fun a ha => ?_, hother⟩
    · rw [hdie, Die.feature_setFeature_same _ _ hmask]
    · rw [hdie, Die.feature_setFeature_other _ _ ha]
      rfl
  case refine_5 =>
    intro m addr s hpop hl
    obtain ⟨hlt, hop, haddr⟩ := pay_arg (op := 0x31) (hi := 14) (by decide) addr.isLt rfl (by decide)
    obtain ⟨hout, -⟩ := Dev.sendFrame_answers (d := s.dev) (f := { m := m, payload := pay 0x31 [(7, addr.toNat)] }) hl hlt
      (dieExec_getFeature hop) (List.append_ne_nil_of_right_ne_nil _ (List.cons_ne_nil _ _))
    rw [hop, haddr] at hout
    exact ⟨_, frameTo_populated hpop _, hout⟩

/-- Settles O21. -/
theorem dieControlFrames : Obligations.DIE_CONTROL_FRAMES := by
  unfold Obligations.DIE_CONTROL_FRAMES
  refine ⟨?_, ?_, ?_, ?_, ?_, ?_, ?_, ?_, ?_, ?_⟩
  case refine_1 =>
    intro m s hpop hl
    obtain ⟨hlt, hop⟩ := pay_op (op := 0) (by decide)
    obtain ⟨hout, hdie⟩ := Dev.sendFrame_silent (d := s.dev) (f := { m := m, payload := pay 0 [] }) hl hlt (dieExec_nop hop)
    rw [hop] at hout
    exact ⟨_, frameTo_populated hpop _, hout, hdie⟩
  case refine_2 =>
    intro m s hpop hl ht hb
    obtain ⟨hlt, hop⟩ := pay_op (op := 0x40) (by decide)
    obtain ⟨hout, hdie⟩ := Dev.sendFrame_silent (d := s.dev) (f := { m := m, payload := pay 0x40 [] }) hl hlt (dieExec_trainCa hop hb)
    rw [hop] at hout
    exact ⟨_, frameTrain_populated hpop ht _, congrArg Die.echo hdie, hout⟩
  case refine_3 =>
    intro m s hpop hl ht hb
    obtain ⟨hlt, hop, h7⟩ := pay_arg (op := 0x41) (hi := 7) (by decide) (b2n_lt true) rfl (by decide)
    obtain ⟨hout, -⟩ := Dev.sendFrame_answers (d := s.dev) (f := { m := m, payload := pay 0x41 [(7, b2n true)] }) hl hlt
      (dieExec_trainRd hop hb (bit_of_bits h7)) (List.cons_ne_nil _ _)
    rw [hop] at hout
    exact ⟨_, frameTrain_populated hpop ht _, hout⟩
  case refine_4 =>
    intro m data s hpop hl ht hb
    obtain ⟨hlt, hop⟩ := pay_op (op := 0x42) (by decide)
    obtain ⟨-, hdie⟩ := Dev.sendFrame_silent (d := s.dev) (f := { m := m, payload := pay 0x42 [], word := data }) hl hlt (dieExec_trainWr hop hb)
    exact ⟨_, frameTrain_populated hpop ht _, congrArg Die.pattern hdie⟩
  case refine_5 =>
    intro m s hpop hl ht hb
    obtain ⟨hlt, hop⟩ := pay_op (op := 0x43) (by decide)
    obtain ⟨hout, hdie⟩ := Dev.sendFrame_silent (d := s.dev) (f := { m := m, payload := pay 0x43 [] }) hl hlt (dieExec_zqCal hop hb)
    rw [hop] at hout
    exact ⟨_, frameTrain_populated hpop ht _, hdie, hout⟩
  case refine_6 =>
    intro m others s k hk hdown hl
    obtain ⟨hlt, hop⟩ := pay_op (op := 0x50) (by decide)
    have hb : (s.dev.die k).busy = false := by
      have hmay := hdown k hk
      rw [Dev.mayDown, Bool.and_eq_true] at hmay
      simpa using hmay.1
    obtain ⟨e, hexec, hdie, -, hother⟩ := frameAll_executed (s := s) (m := m) (others := others) (ok := s.dev.mayDown)
      (f := { m := m, payload := pay 0x50 [] }) (g := fun x => { x.silent with pd := true }) hk hdown hl.2.2 (.inl hl.1) (.inl hl.2.1) hlt
      fun _ => dieExec_pdEnter hop hb
    exact ⟨e, hexec, by rw [hdie], by rw [hdie]; rfl, hother⟩
  case refine_7 =>
    intro m others s k hk hi he
    obtain ⟨hlt, hop⟩ := pay_op (op := 0x51) (by decide)
    obtain ⟨e, hexec, hdie, -, hother⟩ := frameAll_executed (s := s) (m := m) (others := others) (ok := fun _ => true)
      (f := { m := m, payload := pay 0x51 [] }) (g := fun x => { x.silent with pd := false }) hk (fun _ _ => rfl) (.inl he) (.inl hi)
      (.inr (.inl hop)) hlt fun _ => dieExec_pdExit hop
    exact ⟨e, hexec, by rw [hdie], by rw [hdie]; rfl, hother⟩
  case refine_8 =>
    intro m others s k hk he hfree
    obtain ⟨hlt, hop⟩ := pay_op (op := 0x7F) (by decide)
    obtain ⟨e, hexec, hdie, -, hother⟩ := frameAll_executed (s := s) (m := m) (others := others)
      (ok := fun k => !(s.dev.die k).busy || (s.dev.ctl k).failed) (f := { m := m, payload := pay 0x7F [] }) (g := fun x => x.silent.reset) hk
      (fun j hj => by rcases hfree j hj with h | h <;> simp [h]) (.inl he) (.inr hop) (.inr (.inr hop)) hlt fun _ => dieExec_reset hop
    refine ⟨e, hexec, ?_⟩
    rw [hdie]
    exact ⟨rfl, rfl, rfl, rfl, rfl, fun _ => rfl, hother⟩
  case refine_9 =>
    intro m s hpop hi he hpd
    obtain ⟨hlt, hop⟩ := pay_op (op := 0) (by decide)
    have hsent := Dev.sendFrame_passes (d := s.dev) (f := { m := m, payload := pay 0 [] }) hlt he hi hpd (by rw [hop]; decide) (by rw [hop]; decide)
    rw [hop] at hsent
    exact ⟨_, frameTo_populated hpop _, hsent⟩
  case refine_10 =>
    intro m s hpop he hn
    obtain ⟨hlt, hop⟩ := pay_op (op := 0) (by decide)
    have hsent := Dev.sendFrame_echoes (d := s.dev) (f := { m := m, payload := pay 0 [] }) hlt he hn
    rw [hop] at hsent
    exact ⟨_, frameTo_populated hpop _, hsent⟩

end Sys2Proof.Machine

/-!
PROOFS. The channels and dies: what a failure elsewhere on the media leaves of them (R139, R160), and O22 (R136 to R138), training.
-/
namespace Sys2Proof.Machine

/-! ## Steps that leave the channels and the dies alone

A unit that is lost changes groups, open rows, migrations and reports. Of the channels it changes only how far a retraining has come that its
window's end interrupts (R139). -/

/-- The dies and what the controller holds of them are the same, and of the channels all but the steps that a retraining has done. -/
structure Dev.SamePins (d e : Dev) : Prop where
  dies : e.media.die = d.media.die
  ctls : e.media.ctl = d.media.ctl
  counts : e.media.dies = d.media.dies
  chans : ∀ k, ∃ n, e.chan k = { d.chan k with stepsDone := n }

namespace Dev.SamePins

variable {F : Fuses}

theorem refl (d : Dev) : d.SamePins d := ⟨rfl, rfl, rfl, fun k => ⟨(d.chan k).stepsDone, rfl⟩⟩

theorem comp {d e f : Dev} (g : e.SamePins f) (h : d.SamePins e) : d.SamePins f := by
  refine ⟨g.dies.trans h.dies, g.ctls.trans h.ctls, g.counts.trans h.counts, fun k => ?_⟩
  obtain ⟨n, hn⟩ := g.chans k
  obtain ⟨m, hm⟩ := h.chans k
  exact ⟨n, by rw [hn, hm]⟩

theorem of_chan {d e : Dev} (hd : e.media.die = d.media.die) (hc : e.media.ctl = d.media.ctl) (hn : e.media.dies = d.media.dies)
    (h : e.media.chan = d.media.chan) : d.SamePins e :=
  ⟨hd, hc, hn, fun k => ⟨(d.chan k).stepsDone, by rw [Dev.chan, h]; rfl⟩⟩

theorem of_media {d e : Dev} (h : e.media = d.media) : d.SamePins e := of_chan (by rw [h]) (by rw [h]) (by rw [h]) (by rw [h])

theorem of_touches {l : List Part} {d e : Dev} (h : Touches l d e) (hm : .media ∉ l) : d.SamePins e := of_media (h.same .media hm)

theorem ite {d e f : Dev} {c : Prop} [Decidable c] (h : d.SamePins e) (g : d.SamePins f) : d.SamePins (if c then e else f) := by
  split <;> assumption

theorem foldl {α : Type} {f : Dev → α → Dev} (hf : ∀ (d : Dev) a, d.SamePins (f d a)) (l : List α) (d : Dev) : d.SamePins (l.foldl f d) := by
  induction l generalizing d with
  | nil => exact refl d
  | cons a l ih => exact (ih _).comp (hf d a)

theorem die {d e : Dev} (h : d.SamePins e) (m : Nat) : e.die m = d.die m := by rw [Dev.die, Dev.die, h.dies]

theorem ctl {d e : Dev} (h : d.SamePins e) (m : Nat) : e.ctl m = d.ctl m := by rw [Dev.ctl, Dev.ctl, h.ctls]

theorem diesPer {d e : Dev} (h : d.SamePins e) (q : Nat) : e.diesPer q = d.diesPer q := by rw [Dev.diesPer, Dev.diesPer, h.counts]

theorem setGrp (d : Dev) (g : Nat) (x : Group) : d.SamePins (d.setGrp g x) := of_chan rfl rfl rfl rfl

theorem event (d : Dev) (code arg : Nat) : d.SamePins (d.event F code arg) := of_touches (Dev.event_touches ..) (by decide)

theorem icu (d : Dev) (n : Nat) : d.SamePins (d.icu n) := of_touches (Dev.icu_touches ..) (by decide)

theorem postAll (d : Dev) (n : LogName) (k : EvKind) (arg : Nat) : d.SamePins (d.postAll F n k arg) :=
  of_touches (Dev.postAll_touches ..) (by decide)

theorem memberPut (d : Dev) : d.SamePins d.memberPut := of_touches (Dev.memberPut_touches ..) (by decide)

theorem migQueue (d : Dev) (t : Nat) (why : MigWhy) : d.SamePins (d.migQueue t why) := of_touches (Dev.migQueue_touches ..) (by decide)

theorem mapPhys (d : Dev) (e : TEntry) (f : PhysRec → PhysRec) : d.SamePins (d.mapPhys e f) := of_media rfl

theorem migAbort (d : Dev) (x : Mig) : d.SamePins (d.migAbort x) := by
  unfold Dev.migAbort Dev.dropTarget
  exact (of_touches (Dev.bump_touches ..) (by decide)).comp ((migQueue ..).comp ((mapPhys ..).comp (of_chan rfl rfl rfl rfl)))

theorem badTarget (d : Dev) (x : Mig) : d.SamePins (d.badTarget x) := (mapPhys ..).comp (migAbort ..)

theorem setSteps (d : Dev) (n s : Nat) : d.SamePins (d.setChan n { d.chan n with stepsDone := s }) := by
  refine ⟨rfl, rfl, rfl, fun k => ?_⟩
  rw [Dev.setChan_chan]
  split
  case isTrue hk => exact ⟨s, by rw [hk]⟩
  case isFalse => exact ⟨(d.chan k).stepsDone, rfl⟩

theorem windowAbort (d : Dev) (q : Nat) : d.SamePins (d.windowAbort q) := by
  have hsteps : ∀ s, d.SamePins (if (d.chan d.tether.twChan).pending then
      d.setChan d.tether.twChan { d.chan d.tether.twChan with stepsDone := s } else d) := fun s => ite (setSteps ..) (refl d)
  unfold Dev.windowAbort
  exact ite ((icu ..).comp ((of_touches (Dev.meet_touches ..) (by decide)).comp (comp (of_media (by rfl)) (hsteps _)))) (refl d)

theorem narrowOnce (d : Dev) (g : Nat) : d.SamePins (d.narrowOnce F g) := by
  unfold Dev.narrowOnce
  dsimp only
  split
  · exact refl d
  · refine ite (refl d) ?_
    exact (icu ..).comp ((postAll ..).comp ((event ..).comp ((memberPut ..).comp ((setGrp ..).comp (of_media rfl)))))

theorem groupSettle (d : Dev) (g : Nat) : d.SamePins (d.groupSettle F g) := by
  unfold Dev.groupSettle
  exact ite ((icu ..).comp ((memberPut ..).comp ((event ..).comp (setGrp ..)))) (refl d)

theorem unitConsumed (d : Dev) (g before : Nat) : d.SamePins (d.unitConsumed F g before) := by
  have hreport : ∀ e : Dev, ∀ n m j k, e.SamePins ((e.postAll F n j g).postAll F m k g) := fun e n m j k => (postAll ..).comp (postAll ..)
  unfold Dev.unitConsumed
  refine (groupSettle ..).comp ((narrowOnce ..).comp ((narrowOnce ..).comp ((of_touches (Dev.queueGroup_touches ..) (by decide)).comp ?_)))
  refine (windowAbort ..).comp ((foldl migAbort ..).comp ?_)
  exact ite ((hreport ..).comp (ite (refl d) (event ..))) ((hreport ..).comp (ite (refl d) (event ..)))

theorem consume (d : Dev) (m : Nat) : d.SamePins (d.consume F m) := by
  unfold Dev.consume
  exact ite (refl d) ((unitConsumed ..).comp (of_chan rfl rfl rfl rfl))

theorem pageLost (d : Dev) (g pa : Nat) : d.SamePins (d.pageLost g pa) := (foldl badTarget ..).comp (foldl (fun _ _ => migQueue ..) ..)

theorem rowPage (d : Dev) (g pa p : Nat) (ok : Bool) : d.SamePins (d.rowPage g pa p ok) := by
  unfold Dev.rowPage
  dsimp only
  split
  · exact ite (refl d) (pageLost ..)
  · exact ite (of_chan rfl rfl rfl rfl) (ite ((pageLost ..).comp (of_chan rfl rfl rfl rfl)) (of_chan rfl rfl rfl rfl))

end Dev.SamePins

/-! ## Declared failures -/

section
variable {F : Fuses} {d : Dev} {n cause : Nat}

/-- What each die of a channel that fails becomes (R160). -/
def Dev.dieOut (F : Fuses) (d : Dev) (m : Nat) : Dev := ((d.setCtl m { d.ctl m with failed := true, faultPending := false }).consume F m).powerDown m

theorem Dev.powerDown_ctl (d : Dev) (m k : Nat) : (d.powerDown m).ctl k = d.ctl k := by
  rw [Dev.powerDown]
  split <;> rfl

theorem Dev.powerDown_chan (d : Dev) (m k : Nat) : (d.powerDown m).chan k = d.chan k := by
  rw [Dev.powerDown]
  split <;> rfl

theorem Dev.dieOut_chan (m k : Nat) : ∃ j, (d.dieOut F m).chan k = { d.chan k with stepsDone := j } := by
  obtain ⟨j, hj⟩ := (Dev.SamePins.consume (F := F) (d.setCtl m { d.ctl m with failed := true, faultPending := false }) m).chans k
  exact ⟨j, by rw [Dev.dieOut, Dev.powerDown_chan, hj]; rfl⟩

theorem Dev.dieOut_ctl (m k : Nat) : (d.dieOut F m).ctl k = if k = m then { d.ctl m with failed := true, faultPending := false } else d.ctl k := by
  rw [Dev.dieOut, Dev.powerDown_ctl, (Dev.SamePins.consume ..).ctl, Dev.setCtl_ctl]

theorem Dev.foldl_dieOut_chan (l : List Nat) (k : Nat) : ∃ j, (l.foldl (Dev.dieOut F) d).chan k = { d.chan k with stepsDone := j } := by
  induction l generalizing d with
  | nil => exact ⟨(d.chan k).stepsDone, rfl⟩
  | cons m l ih =>
    obtain ⟨i, hi⟩ := ih (d := d.dieOut F m)
    obtain ⟨j, hj⟩ := Dev.dieOut_chan (F := F) (d := d) m k
    exact ⟨i, by rw [List.foldl_cons, hi, hj]⟩

theorem Dev.foldl_dieOut_failed (l : List Nat) (k : Nat) (hk : (d.ctl k).failed = true) : ((l.foldl (Dev.dieOut F) d).ctl k).failed = true := by
  induction l generalizing d with
  | nil => exact hk
  | cons m l ih =>
    refine ih (d := d.dieOut F m) ?_
    rw [Dev.dieOut_ctl]
    split
    · rfl
    · exact hk

/-- The first step of a channel's failure: it is failed with its cause, and no training or retraining is in progress or pending (R160). -/
def Dev.chanOut (F : Fuses) (d : Dev) (n cause : Nat) : Dev :=
  (d.setChan n { d.chan n with failed := true, cause := Machine.chanCause cause, pending := false, held := false, training := false }).event F 0x4003
    (n + cause * 2 ^ 8)

theorem Dev.declareChan_eq (hf : (d.chan n).failed = false) (hp : presentChan F n = true) (hd : d.diesPer (n / 10) ≠ 0) :
    d.declareChan F n cause =
      (((List.range (d.diesPer (n / 10))).map (8 * n + ·)).foldl (Dev.dieOut F) (d.chanOut F n cause)).memberPut.icu 74 := by
  have hpass : d.declareChan F n cause = _ := if_neg (by simp [hf, hp, hd])
  rw [hpass, List.foldl_map]
  rfl

theorem Dev.declareChan_chan (hf : (d.chan n).failed = false) (hp : presentChan F n = true) (hd : d.diesPer (n / 10) ≠ 0) :
    ((d.declareChan F n cause).chan n).failed = true ∧ ((d.declareChan F n cause).chan n).cause = Machine.chanCause cause ∧
      ((d.declareChan F n cause).chan n).pending = false := by
  rw [Dev.declareChan_eq hf hp hd]
  obtain ⟨i, hi⟩ := ((Dev.SamePins.icu _ 74).comp (Dev.SamePins.memberPut _)).chans n
  obtain ⟨j, hj⟩ := Dev.foldl_dieOut_chan (F := F) (d := d.chanOut F n cause) ((List.range (d.diesPer (n / 10))).map (8 * n + ·)) n
  have hout : (d.chanOut F n cause).chan n =
      { d.chan n with failed := true, cause := Machine.chanCause cause, pending := false, held := false, training := false } := by
    rw [Dev.chanOut, Dev.event_chan, Dev.setChan_chan, if_pos rfl]
  rw [hi, hj, hout]
  exact ⟨rfl, rfl, rfl⟩

theorem Dev.declareChan_ctl_failed {k : Nat} (hk : (d.ctl k).failed = true) : ((d.declareChan F n cause).ctl k).failed = true := by
  by_cases hc : (d.chan n).failed || !presentChan F n || d.diesPer (n / 10) == 0
  · rw [Dev.declareChan, if_pos hc]
    exact hk
  · obtain ⟨⟨hf, hp⟩, hd⟩ : ((d.chan n).failed = false ∧ presentChan F n = true) ∧ d.diesPer (n / 10) ≠ 0 := by simpa using hc
    rw [Dev.declareChan_eq hf hp hd, ((Dev.SamePins.icu _ 74).comp (Dev.SamePins.memberPut _)).ctl]
    refine Dev.foldl_dieOut_failed _ _ ?_
    rw [Dev.chanOut, Dev.event_ctl, Dev.setChan_ctl]
    exact hk

end

/-! ## Training

A channel whose training is in progress takes no second CHANNEL_TRAINING: the row then changes nothing. -/

section
variable {F : Fuses} {n : Nat}

/-- A die beyond the configured ones answers: it is reported and put into power-down (R136). -/
theorem Dev.foldl_excess_chan (l : List Nat) (d : Dev) :
    (l.foldl (fun d i => (d.event F 0x4005 (8 * n + i)).setDie (8 * n + i) { d.die (8 * n + i) with pd := true }) d).chan n = d.chan n := by
  induction l generalizing d with
  | nil => rfl
  | cons i l ih => exact (ih _).trans (by rw [Dev.setDie_chan, Dev.event_chan])

/-- Where ALERT_N stays low, discovery leaves a failed channel, whatever it met (R136). -/
theorem discover_stuck_failed (hp : presentChan F n = true) (d : Dev) (ids : List (BitVec 256)) : ((discover F d n ids true).chan n).failed = true := by
  unfold discover
  dsimp only
  split
  · rw [Dev.foldl_excess_chan, Dev.setChan_chan, if_pos rfl]
  case isFalse hcarried =>
    rw [if_pos (by simp), Dev.foldl_excess_chan]
    by_cases hf : (d.chan n).failed = true
    · rw [Dev.declareChan, if_pos (by simp [hf])]
      exact hf
    · have hd : d.diesPer (n / 10) ≠ 0 := fun h0 => hcarried (by simp [h0])
      exact (Dev.declareChan_chan (by simpa using hf) hp hd).1

theorem channelTraining_of_training {d : Dev} (ht : (d.chan n).training = true) (ids : List (BitVec 256)) (stuck : Bool) :
    channelTraining F d n ids stuck = d := if_pos (by simp [ht])

end

/-- A device in step 7 of bring-up whose channel 0 has one die configured and is being trained. -/
def inTraining : State :=
  { State.reset with dev := { State.reset.dev with
    media := { State.reset.dev.media with dies := [(0, 1)], chan := [(0, { training := true })] },
    pwr := { State.reset.dev.pwr with svc := .bringup, step := 7 } } }

theorem inTraining_waits : exec (.channelTraining 0 ⟨[], true⟩) inTraining = .next { inTraining with dev := inTraining.dev } :=
  next_congr inTraining (channelTraining_of_training (by decide +kernel) _ _)

/-- Refutes O22: CHANNEL_TRAINING is taken only by a channel that is not being trained already. In `inTraining` channel 0 is, and has not failed; the
row changes nothing, while a discovery that meets a stuck ALERT_N would have left the channel failed. -/
theorem not_training : ¬ Obligations.TRAINING := by
  unfold Obligations.TRAINING
  rintro ⟨-, h, -⟩
  obtain ⟨e, he, -⟩ := h 0 [] true inTraining (by decide +kernel) (by decide +kernel) (by decide +kernel) (by decide +kernel) rfl rfl (by decide +kernel)
  have heq := next_inj inTraining (inTraining_waits.symm.trans he)
  have hfail := discover_stuck_failed (F := inTraining.fuse) (n := 0) (by decide +kernel) e []
  rw [show discover inTraining.fuse e 0 [] true = inTraining.dev from heq.symm] at hfail
  exact absurd hfail (by decide +kernel)

end Sys2Proof.Machine

/-!
PROOFS. O23 (R134, R160): failures on the media.
-/
namespace Sys2Proof.Machine

section
variable {F : Fuses} {d : Dev} {m : Nat}

/-- A die that is declared failed (R160). -/
theorem Dev.declareDie_failed (hf : (d.ctl m).failed = false) (hp : d.populated F m = true) (cause : Nat) :
    ((d.declareDie F m cause).ctl m).failed = true := by
  have hpass : d.declareDie F m cause = _ := if_neg (by simp [hf, hp])
  rw [hpass, ((Dev.SamePins.icu _ 74).comp (Dev.SamePins.memberPut _)).ctl, Dev.powerDown_ctl, (Dev.SamePins.consume ..).ctl, Dev.event_ctl,
    Dev.setCtl_ctl, if_pos rfl]

theorem failDie_failed (hf : (d.ctl m).failed = false) (hp : d.populated F m = true) (cause : Nat) :
    ((failDie F d m cause).ctl m).failed = true := by
  unfold failDie
  dsimp only
  split
  · exact Dev.declareChan_ctl_failed (Dev.declareDie_failed hf hp cause)
  · exact Dev.declareDie_failed hf hp cause

/-- A STATUS that shows the fault alone asks for a RESET of the die (R134, R160). -/
theorem alertStatus_fault {st : Nat} (h4 : bit st 4 = false) (h5 : bit st 5 = false) (h6 : bit st 6 = true) (hr : (d.ctl m).faultReset = none) :
    (alertStatus F d m st).ctl m = { d.ctl m with faultPending := true, statusGot := none } := by
  have hr' : ((d.setCtl m { d.ctl m with statusGot := none }).ctl m).faultReset = none := by
    rw [Dev.setCtl_ctl, if_pos rfl]
    exact hr
  unfold alertStatus
  dsimp only
  rw [h4, h5, h6, if_neg Bool.false_ne_true, if_neg Bool.false_ne_true, if_pos rfl, Dev.setCtl_ctl, if_pos rfl, hr', Bool.or_false,
    Dev.setCtl_ctl, if_pos rfl]
  simp only [hr]

/-- A frame that is not STATUS leaves what the controller holds of the dies. -/
theorem Dev.frameSent_ctl {f : Frame} {a : DieAns} {again : Bool} (hop : bits f.payload 6 0 ≠ 0x20) (k : Nat) :
    (d.frameSent f a again).ctl k = d.ctl k := by
  unfold Dev.frameSent
  dsimp only
  have hno : ¬ (bits f.payload 6 0 = 0x20 ∧ (!a.bytes.isEmpty) = true) := fun h => hop h.1
  have hput : ({ d.setDie f.m a.die with fresh := d.fresh + 1 } : Dev).ctl k = d.ctl k := rfl
  simp only [if_neg hno]
  split <;> split
  all_goals
    simp only [Dev.emit_ctl, Dev.setChan_ctl]
    exact hput

end

section
variable {s : State} {n : ChannelId} {m : DieId}

theorem exec_alertStuck (hs : s.dev.inService = true) :
    exec (.alertStuck n) s = .next { s with dev := s.dev.declareChan s.fuse n.val 4 } := congrArg Host.Outcome.next (if_pos hs)

theorem exec_channelDeclaredFailed {cause : FailCause} (hc : s.dev.chanCause n.val cause.val = true) :
    exec (.channelDeclaredFailed n cause) s = .next { s with dev := s.dev.declareChan s.fuse n.val cause.val } :=
  congrArg Host.Outcome.next (if_pos hc)

theorem exec_dieDeclaredFailed {cause : FailCause} (hc : s.dev.dieCause m.val cause.val = true) :
    exec (.dieDeclaredFailed m cause) s = .next { s with dev := failDie s.fuse s.dev m.val cause.val } :=
  congrArg Host.Outcome.next (if_pos hc)

theorem exec_alertStatusResponse {st : BitVec 128} (hs : (s.dev.ctl m.val).statusGot = some st.toNat) :
    exec (.alertStatusResponse m st) s = .next { s with dev := alertStatus s.fuse s.dev m.val st.toNat } :=
  congrArg Host.Outcome.next (if_pos hs)

/-- The controller notes the RESET that it sends to a die with a fault (R160). -/
def Dev.faultAsked (d : Dev) (m : Nat) : Dev :=
  d.setCtl m { d.ctl m with faultPending := false, faultAgain := false, faultReset := some d.tether.now }

theorem exec_faultDieReset (hp : (s.dev.ctl m.val).faultPending = true) (hb : (s.dev.die m.val).busy = false) :
    exec (.faultDieReset m) s = .next { s with dev := (s.dev.faultAsked m.val).sendFrame { m := m.val, payload := pay 0x7F [] } 0 } :=
  congrArg Host.Outcome.next (if_pos (by simp [hp, hb]))

end

/-- Settles O23. -/
theorem mediaFailures : Obligations.MEDIA_FAILURES := by
  unfold Obligations.MEDIA_FAILURES
  refine ⟨?_, ?_, ?_, ?_, ?_, ?_⟩
  case refine_1 => exact fun n s hs hf hp hd => ⟨_, exec_alertStuck hs, Dev.declareChan_chan hf hp hd⟩
  case refine_2 =>
    intro n cause s hf hp hd hc
    obtain ⟨hfail, hcause, -⟩ := Dev.declareChan_chan (cause := cause.val) hf hp hd
    exact ⟨_, exec_channelDeclaredFailed hc, hfail, hcause⟩
  case refine_3 => exact fun m cause s hf hp hc => ⟨_, exec_dieDeclaredFailed hc, failDie_failed hf hp _⟩
  case refine_4 =>
    exact fun m n cause s hd hc => ⟨congrArg Host.Outcome.next (if_neg (by simp [hd])), congrArg Host.Outcome.next (if_neg (by simp [hc]))⟩
  case refine_5 => exact fun m st s h4 h5 h6 hr hs => ⟨_, exec_alertStatusResponse hs, alertStatus_fault h4 h5 h6 hr⟩
  case refine_6 =>
    intro m s hp hb he
    obtain ⟨hlt, hop⟩ := pay_op (op := 0x7F) (by decide)
    obtain ⟨hdie, -⟩ := Dev.sendFrame_executed (d := s.dev.faultAsked m.val) (f := { m := m.val, payload := pay 0x7F [] }) (.inl he) (.inr hop)
      (.inr (.inr hop)) hlt fun _ => dieExec_reset hop
    refine ⟨_, exec_faultDieReset hp hb, congrArg Die.init hdie, congrArg Die.fault hdie, ?_⟩
    rw [Dev.sendFrame, Dev.frameSent_ctl (by rw [hop]; decide), Dev.faultAsked, Dev.setCtl_ctl, if_pos rfl]

end Sys2Proof.Machine

/-!
PROOFS. O24 (R127 to R129, R133 to R135): ALERT_N, and the end of a program.
-/
namespace Sys2Proof.Machine

/-! ## ALERT_N -/

section
variable {d : Dev} {n : Nat}

/-- The low period is counted, and its channel keeps the frames that are not sent again (R134). -/
def Dev.lowNoted (d : Dev) (n k : Nat) (kept : List Sent) : Dev :=
  ((d.setChan n { d.chan n with sent := kept }).bump (MCH_CA_ERR n) k).count (0x106 + 0x40 * (n / 10)) k

/-- A frame that ended, or whose burst ended, within the 12 ns before now (R134). -/
def Sent.late (x : Sent) (now : Nat) : Bool := endedLately now x.time || (match x.burst with
  | some t => endedLately now t
  | none => false)

/-- The frames of a channel that a low period has sent again (R134). -/
def Dev.lowFrames (d : Dev) (n : Nat) : List Sent := (d.chan n).sent.filter fun s => s.late d.tether.now

theorem Dev.alertLow_eq (errs : List FrameErr) : d.alertLow n errs =
    (d.lowFrames n).zipIdx.foldl (fun d e => d.reissue e.1 (errs.getD e.2 0).toNat)
      (d.lowNoted n (d.lowFrames n).length ((d.chan n).sent.filter fun s => !(d.lowFrames n).contains s)) := rfl

theorem Dev.alertLow_of_none (errs : List FrameErr) (hs : (d.chan n).sent = []) : d.alertLow n errs = d.lowNoted n 0 [] := by
  rw [Dev.alertLow_eq, Dev.lowFrames, hs]
  rfl

/-- The one frame that a channel keeps ended within 12 ns: it is sent again (R134). -/
theorem Dev.alertLow_of_one {x : Sent} (err : FrameErr) (hs : (d.chan n).sent = [x])
    (hx : (x.time ≤ d.tether.now ∧ d.tether.now ≤ x.time + 12) ∨ ∃ t, x.burst = some t ∧ t ≤ d.tether.now ∧ d.tether.now ≤ t + 12) :
    d.alertLow n [err] = (d.lowNoted n 1 []).reissue x err.toNat := by
  have hlate : x.late d.tether.now = true := by
    rcases hx with hx | ⟨t, ht, hx⟩
    · simp [Sent.late, endedLately, hx]
    · simp [Sent.late, endedLately, ht, hx]
  have hl : d.lowFrames n = [x] := by
    rw [Dev.lowFrames, hs]
    exact List.filter_cons_of_pos hlate
  rw [Dev.alertLow_eq, hl, hs, show [x].filter (fun s => !([x] : List Sent).contains s) = [] by simp]
  rfl

theorem Dev.lowNoted_out (k : Nat) (kept : List Sent) : (d.lowNoted n k kept).out = d.out := by
  rw [Dev.lowNoted, (Dev.count_touches ..).same .out (by decide), (Dev.bump_touches ..).same .out (by decide), Dev.setChan_out]

theorem Dev.lowNoted_sent (k : Nat) (kept : List Sent) : ((d.lowNoted n k kept).chan n).sent = kept := by
  rw [Dev.lowNoted, Dev.count_chan, Dev.bump_chan, Dev.setChan_chan, if_pos rfl]

theorem Dev.lowNoted_err (hn : n < 40) (k : Nat) (kept : List Sent) :
    (d.lowNoted n k kept).reg (MCH_CA_ERR n) = BitVec.ofNat 32 (satAdd (d.reg (MCH_CA_ERR n)).toNat k 0xFFFFFFFF) := by
  have hq : QuietReg (MCH_CA_ERR n) := by unfold QuietReg MCH_CA_ERR; omega
  rw [Dev.lowNoted, (Dev.SameQuiet.count ..).reg _ hq, Dev.bump, Dev.reg_setReg, if_pos rfl]
  rfl

theorem exec_alertConditionRepeat {s : State} {m : DieId} (h : (s.dev.die m.val).progFail = true) :
    exec (.alertConditionRepeat m) s = .next { s with dev := (s.dev.advance (s.dev.tether.now + 1000)).emit (.alert m) } :=
  congrArg Host.Outcome.next (if_pos (by simp [h]))

end

/-! ## The end of a program -/

/-- Programming an entry changes only pages (R122, R125). -/
theorem Die.program_pages (x : Die) (b : BufEntry) (mode : ProgMode) (ok : Bool) : ∃ ps, x.program b mode ok = { x with pages := ps } := ⟨_, rfl⟩

/-- What is programmed of the entries of a buffer, each verified by the mask of failures (R128). -/
def Die.programs (x : Die) (mode : ProgMode) (mask : Nat) (es : List (Option BufEntry × Nat)) : Die :=
  es.foldl (fun x e => match e.1 with
    | some b => x.program b mode (!bit mask e.2)
    | none => x) x

theorem Die.programs_pages (x : Die) (mode : ProgMode) (mask : Nat) (es : List (Option BufEntry × Nat)) :
    ∃ ps, x.programs mode mask es = { x with pages := ps } := by
  induction es generalizing x with
  | nil => exact ⟨x.pages, rfl⟩
  | cons e es ih =>
    obtain ⟨ps, hps⟩ : ∃ ps, (match e.1 with
      | some b => x.program b mode (!bit mask e.2)
      | none => x) = { x with pages := ps } := by
      split
      · exact Die.program_pages ..
      · exact ⟨x.pages, rfl⟩
    obtain ⟨qs, hqs⟩ := ih { x with pages := ps }
    exact ⟨qs, by rw [Die.programs, List.foldl_cons, hps]; exact hqs⟩

/-- The entries of a program that failed verification. -/
def Die.fails (x : Die) (r : Prog) (mask : Nat) : Nat := ((x.entries r.buf r.last).zipIdx.filter fun e => bit mask e.2).length

/-- A die whose program has ended, but for its pages, the emptied buffer and power-down (R128, R129). -/
def Die.progEnded (x : Die) (r : Prog) (mask : Nat) (fault : Bool) (now : Nat) : Die :=
  { x with running := x.queued.map (fun q => { q with start := max q.start now }), queued := none,
           progFail := x.progFail || decide (0 < x.fails r mask), fault := x.fault || fault, noProg := x.noProg || fault,
           failMask := mask % 2 ^ (r.last + 1), failBuf := r.buf }

section
variable {d : Dev} {m : Nat} {r : Prog}

/-- Wear and open rows after a program: no die, no channel changes. -/
def Dev.progNoted (d : Dev) (m : Nat) (r : Prog) (mask : Nat) (es : List (Option BufEntry × Nat)) : Dev :=
  es.foldl (fun d e => match e.1 with
    | some b => (d.wearPage (groupOf m) b.pa r.mode).rowPage (groupOf m) b.pa (posOf m) (!bit mask e.2)
    | none => d) d

theorem Dev.progNoted_pins (mask : Nat) (es : List (Option BufEntry × Nat)) : d.SamePins (d.progNoted m r mask es) := by
  refine Dev.SamePins.foldl (fun e b => ?_) es d
  split
  · exact (Dev.SamePins.rowPage ..).comp (Dev.SamePins.of_touches (Dev.wearPage_touches ..) (by decide))
  · exact Dev.SamePins.refl e

/-- A die that failed enters power-down once its last program has ended (R140). -/
def Dev.progRested (d : Dev) (m : Nat) : Dev := if (d.ctl m).failed then d.powerDown m else d

theorem Dev.progRested_die : ∃ p, (d.progRested m).die m = { d.die m with pd := p } := by
  unfold Dev.progRested Dev.powerDown
  split
  · split
    · exact ⟨(d.die m).pd, rfl⟩
    · exact ⟨true, by rw [Dev.setDie_die, if_pos rfl]⟩
  · exact ⟨(d.die m).pd, rfl⟩

/-- Failed entries are counted and pulse ALERT_N (R128, R133). -/
def Dev.progFailed (d : Dev) (m fails now : Nat) : Dev :=
  if fails = 0 then d
  else ((d.setCtl m { d.ctl m with
    progFail := satAdd (d.ctl m).progFail fails 0xFFFF,
    vfails := List.replicate fails now ++ (d.ctl m).vfails.filter fun t => decide (now < t + 10 ^ 9) }).bump (MCH_PRG_FAIL (m / 8)) fails).emit (.alert m)

theorem Dev.progFailed_die (fails now k : Nat) : (d.progFailed m fails now).die k = d.die k := by
  unfold Dev.progFailed
  split
  · rfl
  · rw [Dev.emit_die, Dev.bump_die, Dev.setCtl_die]

theorem Dev.progFailed_out {fails : Nat} (hf : fails ≠ 0) (now : Nat) : .alert m ∈ (d.progFailed m fails now).out := by
  rw [Dev.progFailed, if_neg hf]
  exact List.mem_cons_self

/-- The die when its program has ended: its pages are programmed and its buffer is emptied. -/
def Die.progDone (x : Die) (r : Prog) (mask : Nat) (fault : Bool) (now : Nat) : Die :=
  let x1 := x.programs r.mode mask (x.entries r.buf r.last).zipIdx
  { x1.progEnded r mask fault now with
    progFail := x1.progFail || decide (0 < x.fails r mask),
    buf := (List.range 16).foldl (fun t e => Tbl.put none t (16 * b2n r.buf + e) none) x1.buf }

theorem Die.progDone_eq (x : Die) (mask : Nat) (fault : Bool) (now : Nat) :
    ∃ ps b, x.progDone r mask fault now = { x.progEnded r mask fault now with pages := ps, buf := b } := by
  obtain ⟨ps, hps⟩ := x.programs_pages r.mode mask (x.entries r.buf r.last).zipIdx
  rw [Die.progDone, hps]
  exact ⟨_, _, rfl⟩

/-- The media when a program has ended: the die, its group's wear and open rows, and the count of programs. -/
def Dev.progMedia (d : Dev) (m : Nat) (r : Prog) (mask : Nat) (fault : Bool) : Dev :=
  (Dev.progNoted (d.setDie m ((d.die m).progDone r mask fault d.tether.now)) m r mask ((d.die m).entries r.buf r.last).zipIdx).count
    (0x100 + 0x40 * (m / 80) + (if r.mode = .slc then 2 else 3)) ((d.die m).entries r.buf r.last).zipIdx.length

theorem Dev.progMedia_pins (mask : Nat) (fault : Bool) :
    (d.setDie m ((d.die m).progDone r mask fault d.tether.now)).SamePins (d.progMedia m r mask fault) :=
  (Dev.SamePins.of_touches (Dev.count_touches ..) (by decide)).comp (Dev.progNoted_pins ..)

/-- A program's end: the media, then power-down of a die that failed, the fault's pulse, and the failures (R128, R129, R140). -/
theorem Dev.programEnd_eq (hr : (d.die m).running = some r) (ht : (d.ctl m).thrOwed = false) (mask : Nat) (fault : Bool) :
    d.programEnd m mask fault = Dev.progFailed (if fault && !(d.die m).fault then ((d.progMedia m r mask fault).progRested m).emit (.alert m)
      else (d.progMedia m r mask fault).progRested m) m ((d.die m).fails r mask) d.tether.now := by
  have howed : (d.progMedia m r mask fault).alertOwed m = d.progMedia m r mask fault :=
    if_neg fun h => by rw [(Dev.progMedia_pins mask fault).ctl, Dev.setDie_ctl, ht] at h; exact absurd h.1 (by decide)
  have hpass : d.programEnd m mask fault =
      Dev.progFailed (if fault && !(d.die m).fault then (((d.progMedia m r mask fault).alertOwed m).progRested m).emit (.alert m)
        else ((d.progMedia m r mask fault).alertOwed m).progRested m) m ((d.die m).fails r mask) d.tether.now := by
    rw [Dev.programEnd, hr]
    rfl
  rw [hpass, howed]

theorem Dev.programEnd_die (hr : (d.die m).running = some r) (ht : (d.ctl m).thrOwed = false) (mask : Nat) (fault : Bool) :
    ∃ ps b p, (d.programEnd m mask fault).die m = { (d.die m).progEnded r mask fault d.tether.now with pages := ps, buf := b, pd := p } := by
  obtain ⟨ps, b, hdone⟩ := (d.die m).progDone_eq (r := r) mask fault d.tether.now
  obtain ⟨p, hp⟩ := Dev.progRested_die (d := d.progMedia m r mask fault) (m := m)
  have hdie : ((d.progMedia m r mask fault).progRested m).die m =
      { (d.die m).progEnded r mask fault d.tether.now with pages := ps, buf := b, pd := p } := by
    rw [hp, (Dev.progMedia_pins mask fault).die, Dev.setDie_die, if_pos rfl, hdone]
  refine ⟨ps, b, p, ?_⟩
  rw [Dev.programEnd_eq hr ht, Dev.progFailed_die]
  split
  · rw [Dev.emit_die, hdie]
  · exact hdie

/-- Without a set bit in the mask of failures nothing failed. -/
theorem Die.fails_zero (x : Die) (r : Prog) : x.fails r 0 = 0 := by
  rw [Die.fails, List.length_eq_zero_iff, List.filter_eq_nil_iff]
  intro e _
  simp [bit, bits]

theorem Die.fails_pos (x : Die) (r : Prog) {mask : Nat} (h0 : bit mask 0 = true) : 0 < x.fails r mask := by
  have hlen : 0 < (x.entries r.buf r.last).length := by simp [Die.entries]
  have hmem : ((x.entries r.buf r.last)[0], 0) ∈ (x.entries r.buf r.last).zipIdx := by
    rw [List.mem_zipIdx_iff_getElem?]
    exact List.getElem?_eq_getElem hlen
  exact List.length_pos_of_mem (List.mem_filter.mpr ⟨hmem, h0⟩)

end

/-- Settles O24. -/
theorem alertsAndProgramEnds : Obligations.ALERTS_AND_PROGRAM_ENDS := by
  unfold Obligations.ALERTS_AND_PROGRAM_ENDS
  refine ⟨?_, ?_, fun n s => ⟨_, rfl, rfl⟩, ?_, ?_, ?_, ?_, ?_⟩
  case refine_1 =>
    exact fun n errs s hs => ⟨_, next_congr s (Dev.alertLow_of_none errs hs), Dev.lowNoted_out .., Dev.lowNoted_sent ..⟩
  case refine_2 =>
    exact fun n x err s hs hx => ⟨_, next_congr s (Dev.alertLow_of_one err hs hx), Dev.lowNoted_out .., Dev.lowNoted_sent .., Dev.lowNoted_err n.isLt ..⟩
  case refine_3 =>
    intro m s hp ht
    refine ⟨_, exec_alertConditionRepeat hp, ?_, Dev.advance_to s.dev (by omega) ht⟩
    exact congrArg (_ :: ·) ((Dev.advance_touches ..).same .out (by decide))
  case refine_4 =>
    refine fun m s => ⟨_, rfl, ?_, fun k hk => ?_⟩
    · rw [Dev.setDie_die, if_pos rfl]
    · rw [Dev.setDie_die, if_neg hk]
  case refine_5 =>
    intro m r s hr ht
    obtain ⟨ps, b, p, hdie⟩ := Dev.programEnd_die hr ht 0 false
    refine ⟨_, rfl, ?_⟩
    rw [show (s.dev.programEnd m.val (BitVec.toNat (0 : BitVec 16)) false).die m.val = _ from hdie]
    refine ⟨rfl, rfl, ?_, Nat.zero_mod _⟩
    simp [Die.progEnded, Die.fails_zero]
  case refine_6 =>
    intro m r mask s hr ht h0
    have hpos := (s.dev.die m.val).fails_pos r h0
    obtain ⟨ps, b, p, hdie⟩ := Dev.programEnd_die hr ht mask.toNat false
    refine ⟨_, rfl, ?_, ?_, ?_, ?_⟩
    · simp [hdie, Die.progEnded, hpos]
    · rw [hdie]
      rfl
    · rw [hdie]
      rfl
    · rw [Dev.programEnd_eq hr ht]
      exact Dev.progFailed_out hpos.ne' _
  case refine_7 =>
    intro m r mask s hr ht
    obtain ⟨ps, b, p, hdie⟩ := Dev.programEnd_die hr ht mask.toNat true
    refine ⟨_, rfl, ?_⟩
    rw [hdie]
    exact ⟨Bool.or_true _, Bool.or_true _⟩

end Sys2Proof.Machine

/-!
PROOFS. O25 (R146 to R149, R155, R156, R158, R159) is refuted: the statement takes every state, also one whose table of channels lists a channel
twice.
-/
namespace Sys2Proof.Machine

/-- A queued request of one read unit. -/
def oneRead : BrReq := { req := 3, seq := 0, units := 1, reads := 1 }

/-- A device 1 ns before a frame of the schedule begins, with that request on channel 0. Its table of channels lists channel 0 twice: first with one
page loaded in this frame, then with seven units granted. Reading the table takes the first, and the frame's start, which clears the pages loaded,
leaves of it nothing that differs from a channel at reset. -/
def listedTwice : State :=
  { State.reset with dev := { State.reset.dev with
    tether := { State.reset.dev.tether with now := 9999 },
    media := { State.reset.dev.media with
      chan := [(0, { loaded := 1 }), (0, { granted := 7 })],
      bridle := [(0, [oneRead])] } } }

theorem listedTwice_winner :
    Dev.winner ((listedTwice.dev.tick 100 4).roundReads 0 (listedTwice.dev.tick 100 4).tether.now) 0
      (Dev.cands ((listedTwice.dev.tick 100 4).roundReads 0 (listedTwice.dev.tick 100 4).tether.now) 0 (listedTwice.dev.tick 100 4).tether.now) =
      some (.queued oneRead) := by
  rfl

/-- Refutes O25: in `listedTwice` channel 0 reads as granted 0 units before the beat, and as granted 8 after it. -/
theorem not_rowsAndBridle : ¬ Obligations.ROWS_AND_BRIDLE := by
  unfold Obligations.ROWS_AND_BRIDLE
  rintro ⟨-, -, -, -, -, -, h, -, -⟩
  obtain ⟨e, he, -, hgranted, -⟩ := h 0 oneRead listedTwice (by decide +kernel) (by decide +kernel) listedTwice_winner rfl
  have heq : listedTwice.dev.bridleBeat 0 = e := next_inj listedTwice he
  rw [← heq] at hgranted
  exact absurd hgranted (by decide +kernel)

end Sys2Proof.Machine

/-!
PROOFS. O26 (R172, R175, R181 to R187, R190): drift surveys, repair and scrub.
-/
namespace Sys2Proof.Machine

/-! ## Line repair and confirmation -/

section
variable {d : Dev}

theorem locIn_slot_lt (g t w : Nat) (slc : Bool) (n : Nat) : (locIn g t w slc n).slot < 8 := Nat.mod_lt _ (by decide)

theorem Dev.gapLoc_slot_lt (d : Dev) (g t : Nat) : (d.gapLoc g t).slot < 8 := by
  unfold Dev.gapLoc
  split
  · exact locIn_slot_lt ..
  · exact locIn_slot_lt ..

/-- A line lies in one of the eight slots of its page (R19). -/
theorem Dev.lineLoc_slot_lt (d : Dev) (line : Nat) : (d.lineLoc line).slot < 8 := by
  unfold Dev.lineLoc Dev.homeLoc
  dsimp only
  split
  · exact d.gapLoc_slot_lt ..
  · exact locIn_slot_lt ..

/-- Each slot of the page has its line. -/
theorem Dev.mem_pageLines (l : Loc) (p : Nat) {j : Nat} (hj : j < 8) : ∃ v, (8 * p + j, v) ∈ d.pageLines l p :=
  ⟨_, List.mem_map_of_mem (List.mem_range.2 hj)⟩

/-- The open-row entry of a repair (R175): its page's lines, the repaired one among them, with that page's program alone left to run. -/
theorem Dev.repairAt_some {l : Loc} {p : Nat} (x : MediaLine) (hf : bit (d.grp l.g).failedM p = false) (hq : d.rowsOfQuad (l.g / 8) < 256)
    (hrow : ∀ r ∈ d.media.rows, ¬ (r.g = l.g ∧ r.pa = l.pa)) (hl : l.slot < 8) :
    ∃ (r : OpenRow) (e : Dev), d.repairAt l p x = some e ∧ e.media.rows = d.media.rows ++ [r] ∧ r.g = l.g ∧ r.pa = l.pa ∧ r.left = 2 ^ p ∧
      (8 * p + l.slot, x) ∈ r.lines ∧ e.media.die = d.media.die ∧ e.drift = d.drift := by
  have hrow' : ¬ (d.media.rows.any fun r => r.g == l.g && r.pa == l.pa) = true := by simpa using hrow
  have hpass : d.repairAt l p x = _ := if_neg (not_or.2 ⟨by simp [hf], not_or.2 ⟨by omega, hrow'⟩⟩)
  obtain ⟨v, hv⟩ := d.mem_pageLines l p hl
  refine ⟨_, _, hpass, rfl, rfl, rfl, rfl, ?_, rfl, rfl⟩
  exact List.mem_map.2 ⟨_, hv, if_pos rfl⟩

/-- A queued repair takes its open-row entry and leaves the queue (R175). -/
theorem Dev.lineRepair_some {line : Nat} {x : MediaLine} {e : Dev} (hc : d.drift.repair.contains line = true) (hb : d.below line = .fetch)
    (hx : (d.rebuild (d.lineLoc line) 0).or (d.mediaLine line) = some x) (he : d.repairPage (d.lineLoc line) x = some e) :
    d.lineRepair line = { e with drift := { e.drift with repair := e.drift.repair.filter (· != line) } } := by
  rw [Dev.lineRepair, hc, if_neg (by decide)]
  dsimp only
  rw [hb]
  dsimp only
  rw [hx]
  dsimp only
  rw [he]

theorem Dev.lineRepair_idle {line : Nat} (hc : d.drift.repair.contains line = false) : d.lineRepair line = d := by
  rw [Dev.lineRepair, hc, if_pos (by decide)]

/-- A confirmation that reads a good line repairs its page (R181). -/
theorem confirmLine_good {F : Fuses} {line good : Nat} {c : Confirm} (hfind : d.drift.confirm.find? (fun c => c.line == line) = some c)
    (hk : (d.ent (line / 16384)).kind = 1) (hroom : d.wbRoom line = true)
    (hg : bit good (d.dataPos (d.lineLoc line) (d.lineLoc line).idx) = true)
    (hf : bit (d.grp (d.lineLoc line).g).failedM (d.dataPos (d.lineLoc line) (d.lineLoc line).idx) = false)
    (hgood : confirmGood F d c (d.stored (d.lineLoc line) (d.dataPos (d.lineLoc line) (d.lineLoc line).idx)) = true) :
    ∃ d0 : Dev, confirmLine F d line good =
        (d0.repairPage (d.lineLoc line) (d.stored (d.lineLoc line) (d.dataPos (d.lineLoc line) (d.lineLoc line).idx))).getD d0 ∧
      d0 = { d with drift := { d.drift with confirm := d.drift.confirm.filter fun x => x.line != line } } := by
  refine ⟨_, ?_, rfl⟩
  rw [confirmLine, hfind]
  dsimp only
  rw [if_neg (by simp [hk]), hroom, if_neg (by decide), if_pos (by simp [hg, hf])]
  dsimp only
  rw [if_pos hgood]

end

/-! ## Survey and resurvey -/

section
variable {d : Dev} {g i : Nat} {samples : List (Nat × Nat)}

theorem Dev.migQueueAll_drift (l : List Nat) (why : MigWhy) (d : Dev) : (l.foldl (fun d t => d.migQueue t why) d).drift = d.drift := by
  induction l generalizing d with
  | nil => rfl
  | cons t l ih => rw [List.foldl_cons, ih, Dev.migQueue_drift]

theorem Dev.sampled_drift_cls : (d.sampled g i samples).drift.cls =
    (let c := Tbl.put 0 d.drift.cls (physKey g i) (samples.foldl (fun n x => max n (classOf (sampleDelta ((d.phys g i).state == 2) x.2))) 0 + 1)
     if ((d.phys g i).state == 2) = true then
       Tbl.put 0 c (physKey g i + 1) (samples.foldl (fun n x => max n (classOf (sampleDelta ((d.phys g i).state == 2) x.2))) 0 + 1) else c) := by
  unfold Dev.sampled
  dsimp only
  split
  · rw [Dev.migQueueAll_drift]
  · rfl

/-- The samples of a visit give their tract the highest class among them (R182). -/
theorem Dev.sampled_cls : Tbl.look 0 (d.sampled g i samples).drift.cls (physKey g i) =
    samples.foldl (fun n x => max n (classOf (sampleDelta ((d.phys g i).state == 2) x.2))) 0 + 1 := by
  rw [Dev.sampled_drift_cls]
  dsimp only
  split
  · rw [Tbl.look_put_other _ _ _ _ _ (by omega), Tbl.look_put_same]
  · rw [Tbl.look_put_same]

theorem Dev.sampled_lastSurvey : Tbl.look 0 (d.sampled g i samples).drift.lastSurvey (physKey g i) = d.tether.now := by
  have h : (d.sampled g i samples).drift.lastSurvey = Tbl.put 0 d.drift.lastSurvey (physKey g i) d.tether.now := by
    unfold Dev.sampled
    dsimp only
    split
    · rw [Dev.migQueueAll_drift]
    · rfl
  rw [h, Tbl.look_put_same]

theorem Dev.sampled_resurvey : (d.sampled g i samples).drift.resurvey = d.drift.resurvey := by
  unfold Dev.sampled
  dsimp only
  split
  · rw [Dev.migQueueAll_drift]
  · rfl

theorem Dev.surveySettle_classes (d : Dev) : d.surveySettle.drift.cls = d.drift.cls ∧ d.surveySettle.drift.lastSurvey = d.drift.lastSurvey := by
  unfold Dev.surveySettle
  split
  · exact ⟨rfl, rfl⟩
  · exact ⟨rfl, rfl⟩

theorem Dev.passSettle_classes (d : Dev) : d.passSettle.drift.cls = d.drift.cls ∧ d.passSettle.drift.resurvey = d.drift.resurvey := by
  unfold Dev.passSettle
  dsimp only
  split
  · exact ⟨rfl, rfl⟩
  · exact ⟨rfl, rfl⟩

/-- A visit of the power-up survey that is due and has all its samples (R185). -/
theorem Dev.surveyTract_due (hs : d.drift.surveying = true) (hh : d.holdsData g i = true) (hfree : 0 < d.internFree .survey)
    (hlow : ∀ k ∈ d.dataTracts, k / 2 ^ 19 < g → Tbl.look 0 d.drift.cls k ≠ 0) (hall : d.sampledAll g i samples = true) :
    d.surveyTract g i samples = (d.sampled g i samples).surveySettle := by
  have hbefore : (d.dataTracts.any fun k => decide (k / 2 ^ 19 < g) && Tbl.look 0 d.drift.cls k == 0) = false := by
    rw [List.any_eq_false]
    intro k hk
    simpa using hlow k hk
  unfold Dev.surveyTract
  dsimp only
  rw [hbefore]
  exact if_pos (by simp [hs, hh, hfree, hall])

/-- The drift record as a resurvey of a tract begins: the tract leaves the queue and its sampled row moves on (R187). -/
def Dev.resurveyed (d : Dev) (g i : Nat) : Dev :=
  { d with drift := { d.drift with
      resurvey := d.drift.resurvey.filter (· != physKey g i)
      rot := Tbl.put 0 d.drift.rot (physKey g i) ((Tbl.look 0 d.drift.rot (physKey g i) + 37) % rowsOf (d.tractWidth g i)) } }

/-- The resurvey of a queued tract that has all its samples (R187). -/
theorem Dev.resurveyTract_queued (hh : d.holdsData g i = true) (hfree : 0 < d.internFree .survey)
    (hq : d.drift.resurvey.contains (physKey g i) = true) (hall : d.sampledAll g i samples = true) :
    d.resurveyTract g i samples = ((d.resurveyed g i).sampled g i samples).passSettle := by
  unfold Dev.resurveyTract
  dsimp only
  exact if_pos (by rw [hh, hq, hall, decide_eq_true hfree]; rfl)

end

/-! ## Threshold sets -/

theorem bits_land (a b hi lo : Nat) : bits (Nat.land a b) hi lo = Nat.land (bits a hi lo) (bits b hi lo) := by
  rw [bits, bits, bits]
  change ((a &&& b) / 2 ^ lo) % 2 ^ (hi + 1 - lo) = _
  rw [Nat.and_div_two_pow, Nat.and_mod_two_pow]
  rfl

/-- The offsets of a set, a byte each, lie below its soft width. -/
theorem offsetBytes_lt (l : List Int) (k n : Nat) (hn : n < 2 ^ (8 * k)) :
    (l.zipIdx k).foldl (fun n e => n + (e.1 % 256).toNat * 2 ^ (8 * e.2)) n < 2 ^ (8 * (k + l.length)) := by
  induction l generalizing k n with
  | nil => simpa using hn
  | cons x l ih =>
    rw [List.zipIdx_cons, List.foldl_cons, List.length_cons, show k + (l.length + 1) = k + 1 + l.length by omega]
    refine ih _ _ (add_field_lt hn (n := 8) ?_ (by omega))
    have := Int.emod_lt_of_pos x (show (0 : Int) < 256 by decide)
    omega

/-- A set's feature value holds its soft width above its offsets (R131). -/
theorem setValue_bits {s : List Int × Nat} (hs : s.1.length ≤ 3) (width : Nat) :
    bits (setValue s width) 31 24 = width % 256 ∧ bits (setValue s width) 23 0 = bits (setValue s 0) 23 0 := by
  have hlow : s.1.zipIdx.foldl (fun n e => n + (e.1 % 256).toNat * 2 ^ (8 * e.2)) 0 < 2 ^ 24 :=
    lt_of_lt_of_le (offsetBytes_lt s.1 0 0 (by decide)) (Nat.pow_le_pow_right (by decide) (by omega))
  constructor
  · exact bits_add_at hlow (n := 8) (Nat.mod_lt _ (by decide)) rfl
  · rw [setValue, setValue, bits_add_above _ _ (by decide) (by decide), bits_add_above _ _ (by decide) (by decide)]

theorem classSet_length (levels : Nat) (l : List (List (Int × Nat))) : (classSet levels l).1.length = levels - 1 := by
  rw [classSet, List.length_map, List.length_range]

/-- A class's set has as many offsets as the measured sets. -/
theorem setOfClass_length {m : Nat} {l : List (Nat × List Int × Nat)} (hl : ∀ e ∈ l, e.2.1.length = m) {k : Nat} {s : List Int × Nat}
    (hs : setOfClass l k = some s) : s.1.length = m := by
  unfold setOfClass at hs
  split at hs
  next => cases hs
  next h _ hf =>
    cases hs
    exact hl _ (List.mem_of_find?_eq_some hf)
  next e hg _ =>
    cases hs
    rw [List.length_map, List.length_zipIdx]
    exact hl _ (List.mem_of_mem_filter (List.mem_of_getLast? hg))
  next e h hg hf =>
    have he := hl _ (List.mem_of_mem_filter (List.mem_of_getLast? hg))
    split at hs
    · cases hs
      exact he
    · cases hs
      rw [List.length_map, List.length_zipIdx]
      exact he

/-- From one measured class on, every higher class has a set (R184). -/
theorem setOfClass_isSome {l : List (Nat × List Int × Nat)} {k : Nat} (hl : ∃ e ∈ l, e.1 ≤ k) : ∃ s, setOfClass l k = some s := by
  obtain ⟨e, he, hk⟩ := hl
  have hne : l.filter (fun e => decide (e.1 ≤ k)) ≠ [] := List.ne_nil_of_mem (List.mem_filter.2 ⟨he, decide_eq_true hk⟩)
  unfold setOfClass
  rw [List.getLast?_eq_some_getLast hne]
  cases l.find? fun e => decide (k ≤ e.1) with
  | none => exact ⟨_, rfl⟩
  | some h =>
    dsimp only
    split
    · exact ⟨_, rfl⟩
    · exact ⟨_, rfl⟩

/-- The classes of a mode that have samples, with the sets that these give (R184). -/
def measuredSets (slc : Bool) (l : List (Nat × List (Int × Nat))) : List (Nat × List Int × Nat) :=
  (List.range 15).filterMap fun k =>
    let mine := (l.filter fun e => e.1 == k).map (·.2)
    if mine.isEmpty then none else some (k, classSet (if slc then 2 else 4) mine)

theorem measuredSets_length {slc : Bool} {l : List (Nat × List (Int × Nat))} : ∀ e ∈ measuredSets slc l, e.2.1.length = if slc then 1 else 3 := by
  intro e he
  obtain ⟨k, -, hk⟩ := List.mem_filterMap.1 he
  dsimp only at hk
  split at hk
  · cases hk
  · cases hk
    rw [classSet_length]
    cases slc <;> rfl

theorem exists_measuredSets {slc : Bool} {l : List (Nat × List (Int × Nat))} (hl : ∃ e ∈ l, e.1 < 15) : ∃ e ∈ measuredSets slc l, e.1 ≤ 14 := by
  obtain ⟨e, he, hlt⟩ := hl
  refine ⟨_, List.mem_filterMap.2 ⟨e.1, List.mem_range.2 hlt, if_neg ?_⟩, Nat.le_of_lt_succ hlt⟩
  simp only [List.isEmpty_iff, List.map_eq_nil_iff, List.filter_eq_nil_iff, beq_iff_eq]
  exact fun h => h e he rfl

/-- The feature address of a mode's first threshold set (R131). -/
def setBase (slc : Bool) : Nat := if slc then 0x20 else 0x10

/-- The sets of the first classes written to a die (R184). -/
def Die.setClasses (x : Die) (slc : Bool) (l : List (Nat × List (Int × Nat))) (n : Nat) : Die :=
  (List.range n).foldl (fun y k => match setOfClass (measuredSets slc l) k with
    | some s => y.setFeature (setBase slc + k) (setValue s s.2)
    | none => y) x

theorem Die.setFeature_pages (x : Die) (a v : Nat) : (x.setFeature a v).pages = x.pages := by
  rw [Die.setFeature]
  split
  · rfl
  · rfl

theorem Die.setClasses_pages (x : Die) (slc : Bool) (l : List (Nat × List (Int × Nat))) (n : Nat) : (x.setClasses slc l n).pages = x.pages := by
  induction n with
  | zero => rfl
  | succ n ih =>
    rw [Die.setClasses, List.range_succ, List.foldl_append, List.foldl_cons, List.foldl_nil]
    split
    · rw [Die.setFeature_pages]
      exact ih
    · exact ih

/-- With a sample in a measured class, set 14 has a value, and set 15 is written after it (R184). -/
theorem Die.setThresholds_eq (x : Die) {slc : Bool} {l : List (Nat × List (Int × Nat))} {s : List Int × Nat}
    (hs : setOfClass (measuredSets slc l) 14 = some s) : x.setThresholds slc l =
      ((x.setClasses slc l 14).setFeature (setBase slc + 14) (setValue s s.2)).setFeature (setBase slc + 15) (setValue s 0x30) := by
  have hstep : x.setClasses slc l 15 = (x.setClasses slc l 14).setFeature (setBase slc + 14) (setValue s s.2) := by
    rw [Die.setClasses, show (15 : Nat) = 14 + 1 from rfl, List.range_succ, List.foldl_append, List.foldl_cons, List.foldl_nil, hs]
    rfl
  rw [← hstep]
  unfold Die.setThresholds
  dsimp only
  change (match setOfClass (measuredSets slc l) 14 with
    | some s => (x.setClasses slc l 15).setFeature (setBase slc + 15) (setValue s 0x30)
    | none => x.setClasses slc l 15) = _
  rw [hs]

/-- Set 15 is set 14 with a soft width of 0x30, in the bits that its feature holds (R131, R184). -/
theorem Die.setThresholds_last (x : Die) (slc : Bool) {l : List (Nat × List (Int × Nat))} (hl : ∃ e ∈ l, e.1 < 15) :
    bits ((x.setThresholds slc l).feature (setBase slc + 15)) 31 24 = 0x30 ∧
    bits ((x.setThresholds slc l).feature (setBase slc + 15)) 23 0 = bits ((x.setThresholds slc l).feature (setBase slc + 14)) 23 0 ∧
    (x.setThresholds slc l).pages = x.pages := by
  obtain ⟨s, hs⟩ := setOfClass_isSome (exists_measuredSets (slc := slc) hl)
  have hlen : s.1.length ≤ 3 := by
    rw [setOfClass_length measuredSets_length hs]
    cases slc <;> decide
  have hmask : featMask (setBase slc + 15) = featMask (setBase slc + 14) := by cases slc <;> decide
  have hne : featMask (setBase slc + 14) ≠ 0 := by cases slc <;> decide
  have hwide : Nat.land 0x30 (bits (featMask (setBase slc + 14)) 31 24) = 0x30 := by cases slc <;> decide
  rw [Die.setThresholds_eq x hs, Die.feature_setFeature_same _ _ (hmask ▸ hne), Die.feature_setFeature_other _ _ (by omega),
    Die.feature_setFeature_same _ _ hne, hmask, bits_land, bits_land, bits_land, (setValue_bits hlen 0x30).1, (setValue_bits hlen 0x30).2,
    (setValue_bits hlen s.2).2]
  refine ⟨hwide, rfl, ?_⟩
  rw [Die.setFeature_pages, Die.setFeature_pages, Die.setClasses_pages]

theorem Dev.thresholds_die {d : Dev} {m : Nat} (hb : (d.die m).busy = false) (hp : (d.die m).pd = false) :
    (d.thresholds m []).die m = ((d.die m).setThresholds false (d.dieSamples m false)).setThresholds true (d.dieSamples m true) := by
  have hpass : d.thresholds m [] = _ := if_neg (by simp [hb, hp])
  rw [hpass]
  exact Tbl.look_put_same ..

/-! ## Scrub -/

section
variable {d : Dev}

@[simp] theorem Dev.tcTouch_queued (d : Dev) (id : Nat) (dirty : Bool) : (d.tcTouch id dirty).tracts.queued = d.tracts.queued := by
  unfold Dev.tcTouch
  dsimp only
  split <;> rfl

@[simp] theorem Dev.setPhys_queued (d : Dev) (g i : Nat) (r : PhysRec) : (d.setPhys g i r).tracts.queued = d.tracts.queued := Dev.tcTouch_queued ..

/-- One physical tract is freed, and its drift class is unknown again (R222). -/
def Dev.freeOne (d : Dev) (g i : Nat) : Dev :=
  { d.setPhys g i (d.phys g i).freed with drift := { (d.setPhys g i (d.phys g i).freed).drift with
      cls := Tbl.put 0 (d.setPhys g i (d.phys g i).freed).drift.cls (physKey g i) 0 } }

theorem Dev.freePhys_eq (d : Dev) (g i : Nat) (slc : Bool) :
    d.freePhys g i slc = if slc then (d.freeOne g i).freeOne g (i + 1) else d.freeOne g i := rfl

theorem Dev.freeOne_tracts (d : Dev) (g i : Nat) : (d.freeOne g i).tracts = (d.setPhys g i (d.phys g i).freed).tracts := by
  rw [Dev.freeOne]

theorem Dev.freeOne_drift (d : Dev) (g i : Nat) : (d.freeOne g i).drift = { d.drift with cls := Tbl.put 0 d.drift.cls (physKey g i) 0 } := by
  rw [Dev.freeOne, Dev.setPhys_drift]

/-- A physical tract that is freed changes its class alone in the drift record, and nothing of what is queued. -/
theorem Dev.freePhys_one (d : Dev) (g i : Nat) : (∃ c, (d.freePhys g i false).drift = { d.drift with cls := c }) ∧
    (d.freePhys g i false).tracts.queued = d.tracts.queued := by
  rw [Dev.freePhys_eq, if_neg Bool.false_ne_true, Dev.freeOne_tracts, Dev.setPhys_queued]
  exact ⟨⟨_, Dev.freeOne_drift ..⟩, rfl⟩

theorem Dev.freeOrphans_keeps (d : Dev) : (∃ c, d.freeOrphans.drift = { d.drift with cls := c }) ∧ d.freeOrphans.tracts.queued = d.tracts.queued := by
  unfold Dev.freeOrphans
  dsimp only
  generalize d.tracts.cur.phys.filter _ = l
  induction l generalizing d with
  | nil => exact ⟨⟨_, rfl⟩, rfl⟩
  | cons x l ih =>
    obtain ⟨⟨c, hc⟩, hq⟩ := d.freePhys_one (x.1 / 2 ^ 19) (x.1 % 2 ^ 19)
    obtain ⟨⟨c', hc'⟩, hq'⟩ := ih (d.freePhys (x.1 / 2 ^ 19) (x.1 % 2 ^ 19) false)
    rw [List.foldl_cons]
    exact ⟨⟨c', by rw [hc', hc]⟩, hq'.trans hq⟩

/-- The device as scrub has read a row in which no line failed: a refresh is asked for, then a resurvey (R187, R190). -/
def Dev.scrubbed (d : Dev) (t worst : Nat) : Dev :=
  if 3 ≤ worst then (if d.refreshSym ≤ worst then d.migQueue t .refresh else d).resurveyAdd (16384 * t)
  else if d.refreshSym ≤ worst then d.migQueue t .refresh else d

/-- What scrub has recorded once it has read a row of a tract (R190). -/
def Dev.scrubMoved (e : Dev) (d : Dev) (t row : Nat) : Dev :=
  { e with drift := { e.drift with
      scrubPos := t * 512 + row
      scrubPass := if decide (t * 512 + row < d.drift.scrubPos) = true then (e.drift.scrubPass + 1) % 65536 else e.drift.scrubPass
      weakCnt := if decide (t * 512 + row < d.drift.scrubPos) = true then [] else e.drift.weakCnt } }

/-- Scrub of a row all of whose lines decode and verify, with no byte corrected in it. -/
theorem scrubRow_clean {F : Fuses} {t row worst : Nat} (hk : (d.ent t).kind = 1) (hcfg : d.fld MCH_DRF_CFG 23 16 ≠ 0)
    (hfree : 0 < d.internFree .scrub) (hgood : ∀ x ∈ (d.rowLines t row).filter d.isWritten, tagBad F d x = false) :
    scrubRow F d t row worst [] [] false =
      (if decide (t * 512 + row < d.drift.scrubPos) = true then (d.scrubbed t worst).freeOrphans else d.scrubbed t worst).scrubMoved d t row := by
  have hbad : ((d.rowLines t row).filter d.isWritten).filter (fun x => ([] : List Nat).contains x || tagBad F d x) = [] := by
    rw [List.filter_eq_nil_iff]
    intro x hx
    simp [hgood x hx]
  have hpass : scrubRow F d t row worst [] [] false = _ := if_neg (by simp [hk, hcfg, Nat.ne_of_gt hfree])
  rw [hpass, hbad, List.foldl_nil, if_neg Bool.false_ne_true]
  rfl

theorem Dev.resurveyAdd_pass (d : Dev) (line : Nat) : (d.resurveyAdd line).drift.scrubPass = d.drift.scrubPass := by
  unfold Dev.resurveyAdd
  dsimp only
  split
  · rfl
  · rfl

theorem Dev.scrubbed_pass (d : Dev) (t worst : Nat) : (d.scrubbed t worst).drift.scrubPass = d.drift.scrubPass := by
  have hq : (if d.refreshSym ≤ worst then d.migQueue t .refresh else d).drift = d.drift := by
    split
    · exact Dev.migQueue_drift ..
    · rfl
  unfold Dev.scrubbed
  split
  · rw [Dev.resurveyAdd_pass, hq]
  · rw [hq]

theorem Dev.scrubbed_resurvey (t : Nat) {worst : Nat} (hw : worst < 3) : (d.scrubbed t worst).drift.resurvey = d.drift.resurvey := by
  rw [Dev.scrubbed, if_neg (by omega)]
  split
  · rw [Dev.migQueue_drift]
  · rfl

/-- A tract of which scrub corrected enough symbols is queued for a refresh (R190). -/
theorem Dev.scrubbed_queued {t worst : Nat} (hw : d.refreshSym ≤ worst) (hq : ∀ q ∈ d.tracts.queued, q.1 ≠ t)
    (hm : ∀ x ∈ d.tracts.migs, x.tract ≠ t) : (d.scrubbed t worst).tracts.queued = d.tracts.queued ++ [(t, .refresh)] := by
  have hqueue : (d.migQueue t .refresh).tracts.queued = d.tracts.queued ++ [(t, .refresh)] := by
    have hpass : d.migQueue t .refresh = _ := if_neg (by simpa using ⟨fun a h => hq _ h rfl, hm⟩)
    rw [hpass]
  unfold Dev.scrubbed
  rw [if_pos hw]
  split
  · rw [(Dev.resurveyAdd_touches ..).same .tracts (by decide), hqueue]
  · exact hqueue

end

/-- Settles O26. -/
theorem driftAndScrub : Obligations.DRIFT_AND_SCRUB := by
  unfold Obligations.DRIFT_AND_SCRUB
  refine ⟨⟨?_, ?_, ?_⟩, ⟨?_, ?_, ?_, ?_, ?_, ?_⟩, ?_⟩
  case refine_1 =>
    intro dpa x s
    dsimp only
    intro hc hb hx hf hq hrow
    obtain ⟨r, e, he, hrows, hg, hpa, hleft, hline, hdie, hdrift⟩ := Dev.repairAt_some x hf hq hrow (s.dev.lineLoc_slot_lt _)
    exact ⟨r, _, next_congr s (Dev.lineRepair_some hc hb hx he), hrows, hg, hpa, hleft, hline, hdie, by dsimp only; rw [hdrift]⟩
  case refine_2 => exact fun dpa s hc => next_congr s (Dev.lineRepair_idle hc)
  case refine_3 =>
    intro dpa good c s
    dsimp only
    intro hfind hk hroom hg hf hgood
    obtain ⟨d0, heq, hd0⟩ := confirmLine_good hfind hk hroom hg hf hgood
    exact ⟨d0, _, next_congr s heq, rfl, hd0⟩
  case refine_4 =>
    intro g index pos codes s hs hh hfree hlow hall
    refine ⟨_, next_congr s (Dev.surveyTract_due hs hh hfree hlow hall), ?_, ?_⟩
    · rw [(Dev.surveySettle_classes _).1, Dev.sampled_cls]
    · rw [(Dev.surveySettle_classes _).2, Dev.sampled_lastSurvey]
  case refine_5 =>
    intro g index pos codes s hh hfree hq hall
    refine ⟨_, next_congr s (Dev.resurveyTract_queued hh hfree hq hall), ?_, ?_⟩
    · rw [(Dev.passSettle_classes _).1, Dev.sampled_cls]
      rfl
    · rw [(Dev.passSettle_classes _).2, Dev.sampled_resurvey]
      rfl
  case refine_6 =>
    intro m s hpop hb hp
    exact ⟨_, congrArg Host.Outcome.next (if_pos hpop), Dev.thresholds_die hb hp⟩
  case refine_7 =>
    intro x slc l hl
    have h := x.setThresholds_last slc hl
    cases slc with
    | false => exact h
    | true => exact h
  case refine_8 =>
    intro s hr hd
    exact ⟨_, congrArg Host.Outcome.next (if_pos ⟨hr, hd⟩), rfl, rfl, rfl, rfl⟩
  case refine_9 =>
    intro s hd
    exact congrArg Host.Outcome.next (if_neg (by simp [hd]))
  case refine_10 =>
    intro tract row worst s hk hcfg hfree hgood
    obtain ⟨⟨c, hc⟩, hq⟩ := (s.dev.scrubbed tract worst.val).freeOrphans_keeps
    refine ⟨_, next_congr s (scrubRow_clean hk hcfg hfree hgood), rfl, ?_, fun hw => ?_, fun hw hqueued hmigs => ?_⟩
    · rw [Dev.scrubMoved]
      dsimp only
      by_cases h : tract * 512 + row.val < s.dev.drift.scrubPos
      · rw [if_pos (decide_eq_true h), if_pos (decide_eq_true h), if_pos h, hc, Dev.scrubbed_pass]
      · rw [if_neg (by simpa using h), if_neg (by simpa using h), if_neg h, Dev.scrubbed_pass]
    · change (if _ then _ else _ : Dev).drift.resurvey = _
      split
      · rw [hc]
        exact Dev.scrubbed_resurvey tract hw
      · exact Dev.scrubbed_resurvey tract hw
    · change (if _ then _ else _ : Dev).tracts.queued = _
      split
      · rw [hq, Dev.scrubbed_queued hw hqueued hmigs]
      · exact Dev.scrubbed_queued hw hqueued hmigs

end Sys2Proof.Machine

/-!
PROOFS. O27 (R16, R24, R189, R211, R212): the steps of a migration.
-/
namespace Sys2Proof.Machine

/-! ## What leaves the migrations and the metadata in force as they are -/

section
variable {d : Dev} {F : Fuses}

@[simp] theorem Dev.tcTouch_migs (d : Dev) (id : Nat) (dirty : Bool) : (d.tcTouch id dirty).tracts.migs = d.tracts.migs := by
  unfold Dev.tcTouch
  dsimp only
  split <;> rfl

@[simp] theorem Dev.setEnt_migs (d : Dev) (t : Nat) (e : TEntry) : (d.setEnt t e).tracts.migs = d.tracts.migs := Dev.tcTouch_migs ..

@[simp] theorem Dev.setPhys_migs (d : Dev) (g i : Nat) (r : PhysRec) : (d.setPhys g i r).tracts.migs = d.tracts.migs := Dev.tcTouch_migs ..

@[simp] theorem Dev.setHdr_migs (d : Dev) (t : Nat) (h : THeader) : (d.setHdr t h).tracts.migs = d.tracts.migs := by
  unfold Dev.setHdr Dev.fixHdr
  dsimp only
  split
  · exact Dev.tcTouch_migs ..
  · exact (Dev.setEnt_migs ..).trans (Dev.tcTouch_migs ..)

@[simp] theorem Dev.freePhys_migs (d : Dev) (g i : Nat) (slc : Bool) : (d.freePhys g i slc).tracts.migs = d.tracts.migs := by
  rw [Dev.freePhys_eq]
  split
  · rw [Dev.freeOne_tracts, Dev.setPhys_migs, Dev.freeOne_tracts, Dev.setPhys_migs]
  · rw [Dev.freeOne_tracts, Dev.setPhys_migs]

/-- A record of physical tracts changes no entry, no header and no migration. -/
theorem Dev.markPhys_keeps (d : Dev) (g i : Nat) (slc : Bool) (state refs : Nat) : (d.markPhys g i slc state refs).tracts.migs = d.tracts.migs ∧
    ∀ u, (d.markPhys g i slc state refs).ent u = d.ent u ∧ (d.markPhys g i slc state refs).hdr u = d.hdr u := by
  unfold Dev.markPhys
  dsimp only
  split
  · exact ⟨(Dev.setPhys_migs ..).trans (Dev.setPhys_migs ..), fun u =>
      ⟨(Dev.ent_setPhys ..).trans (Dev.ent_setPhys ..), (Dev.hdr_setPhys ..).trans (Dev.hdr_setPhys ..)⟩⟩
  · exact ⟨Dev.setPhys_migs .., fun u => ⟨Dev.ent_setPhys .., Dev.hdr_setPhys ..⟩⟩

/-- A group that narrows changes, of what the tracts hold, the order of its failed members alone (R163). -/
theorem Dev.narrowOnce_tracts (d : Dev) (g : Nat) : ∃ f, (d.narrowOnce F g).tracts = { d.tracts with failOrder := f } := by
  unfold Dev.narrowOnce
  dsimp only
  split
  next => exact ⟨_, rfl⟩
  next p r _ =>
    split
    · exact ⟨_, rfl⟩
    · refine ⟨Tbl.put [] d.tracts.failOrder g r, ?_⟩
      rw [Dev.icu_tracts, Dev.postAll_tracts, Dev.event_tracts, Dev.memberPut_tracts, Dev.setGrp_tracts]

theorem Dev.narrowSettle_tracts (d : Dev) (g : Nat) : ∃ f, (d.narrowSettle F g).tracts = { d.tracts with failOrder := f } := by
  obtain ⟨f, hf⟩ := Dev.narrowOnce_tracts (F := F) d g
  obtain ⟨f', hf'⟩ := Dev.narrowOnce_tracts (F := F) (d.narrowOnce F g) g
  exact ⟨f', by rw [Dev.narrowSettle, (Dev.groupSettle_touches ..).same .tracts (by decide), hf', hf]⟩

theorem sealLift_migs (d : Dev) : (sealLift F d).tracts.migs = d.tracts.migs := by
  unfold sealLift
  dsimp only
  split
  · rw [Dev.notice_tracts, Dev.icu_tracts, Dev.postAll_tracts, Dev.statePut_tracts, Dev.event_tracts]
  · rfl

theorem Dev.freePhysAll_migs (l : List Freeing) (d : Dev) :
    (l.foldl (fun d f => d.freePhys f.group f.index f.slc) d).tracts.migs = d.tracts.migs := by
  induction l generalizing d with
  | nil => rfl
  | cons f l ih => rw [List.foldl_cons, ih, Dev.freePhys_migs]

theorem freeDue_migs (d : Dev) : (freeDue F d).tracts.migs = d.tracts.migs := by
  unfold freeDue
  dsimp only
  rw [sealLift_migs, Dev.freePhysAll_migs]

theorem Dev.mapMig_one {m : Mig} {t : Nat} (hm : d.tracts.migs = [m]) (ht : m.tract = t) (f : Mig → Mig) : (d.mapMig t f).tracts.migs = [f m] := by
  rw [Dev.mapMig, hm, List.map_cons, if_pos ht, List.map_nil]

theorem Dev.find_mig {m : Mig} {t : Nat} (hm : d.tracts.migs = [m]) (ht : m.tract = t) : (d.tracts.migs.find? fun x => x.tract == t) = some m := by
  rw [hm, List.find?_cons_of_pos (by simpa using ht)]

theorem Dev.rekeyPump_none (h : d.sec.rekey = none) : d.rekeyPump = d := by
  rw [Dev.rekeyPump, h]

theorem Dev.rekeyOn_none (h : d.sec.rekey = none) : d.rekeyOn = d := by
  rw [Dev.rekeyOn, h]

end

/-! ## Step 1: the start -/

section
variable {F : Fuses} {d d1 : Dev} {t : Nat} {why : MigWhy} {x : TEntry}

theorem Dev.holdSettle_queues (d : Dev) : d.holdSettle.tracts.migs = d.tracts.migs ∧ d.holdSettle.tracts.queued = d.tracts.queued := by
  unfold Dev.holdSettle
  split
  · exact ⟨by rw [Dev.icu_tracts], by rw [Dev.icu_tracts]⟩
  · exact ⟨rfl, rfl⟩

/-- The tract leaves the queue and its migration begins, once a target is taken (R211 step 1). -/
def Dev.migBegun (d1 : Dev) (m : Mig) : Dev :=
  { d1.unqueue m.tract with tracts := { (d1.unqueue m.tract).tracts with migs := d1.tracts.migs ++ [m] } }

/-- A queued migration whose turn has come starts with the target that was found for it (R211, R214, R219). -/
theorem migStart_starts (hq : (d.tracts.queued.any fun q => q.1 == t && decide (q.2 = why)) = true) (hturn : d.migTurn t why = true)
    (hfree : d.internFree .migration ≠ 0) (ht : t < 2 ^ 24) (hk : (d.ent t).kind = 1) (hm : ∀ m ∈ d.tracts.migs, m.tract ≠ t)
    (hhold : waitsHold why = false ∨ 1024 + d.pHome < d.availU)
    (htake : d.take (d.migNeed t why).1 3 (d.migNeed t why).2 (if why = .rebuild ∧ d.usable (d.ent t).group then some (d.ent t).group else none) =
      some (x, d1)) :
    (∀ q ∈ (migStart F d t why).tracts.queued, q.1 ≠ t) ∧
    { tract := t, why := why, target := { x with shr := false }, source := d.ent t : Mig } ∈ (migStart F d t why).tracts.migs ∧
    (migStart F d t why).sec = d.sec ∧ (migStart F d t why).lci = d.lci := by
  have hany : (d.tracts.migs.any fun x => x.tract == t) = false := by simpa using hm
  have hwait : ¬ (waitsHold why = true ∧ d.availU ≤ 1024 + d.pHome) := by
    rintro ⟨h1, h2⟩
    rcases hhold with h | h
    · rw [h] at h1
      cases h1
    · omega
  have hstart : migStart F d t why =
      (((d1.migBegun { tract := t, why := why, target := { x with shr := false }, source := d.ent t }).holdSettle).count 0x0C3).migAsk
        { tract := t, why := why, target := { x with shr := false }, source := d.ent t } (rowsOf (10 - x.wd)) := by
    rw [migStart]
    dsimp only
    rw [hq, hturn, hany, if_neg (by decide), if_neg (by simpa using hfree), if_neg (by omega), if_neg (by simp [hk]), if_neg (by decide),
      if_neg hwait, htake]
    rfl
  rw [hstart]
  refine ⟨fun q hq => ?_, ?_, ?_, ?_⟩
  · rw [(Dev.migAsk_touches ..).same .tracts (by decide), Dev.count_tracts, (Dev.holdSettle_queues _).2] at hq
    simpa using (List.mem_filter.1 hq).2
  · rw [(Dev.migAsk_touches ..).same .tracts (by decide), Dev.count_tracts, (Dev.holdSettle_queues _).1]
    exact List.mem_append_right _ (List.mem_singleton.2 rfl)
  · rw [(Dev.migAsk_touches ..).same .sec (by decide), Dev.count_sec, (Dev.holdSettle_touches ..).same .sec (by decide)]
    exact (Dev.take_touches htake).same .sec (by decide)
  · rw [(Dev.migAsk_touches ..).same .lci (by decide), Dev.count_lci, (Dev.holdSettle_touches ..).same .lci (by decide)]
    exact (Dev.take_touches htake).same .lci (by decide)

theorem migStart_waits (h : d.migTurn t why = false ∨ d.internFree .migration = 0) : migStart F d t why = d := by
  rw [migStart]
  dsimp only
  split
  · rfl
  · rw [if_pos (by simpa using h)]

/-- A start for another reason than a Rekey leaves the Rekey as it is. -/
theorem exec_migrationStart (why : Fin 9) (s : State) (hw : whyOf why.val ≠ .rekey) : exec (.migrationStart t why) s =
    .next { s with dev := silentOut s.fuse (migStart s.fuse s.dev t (whyOf why.val)).rekeyPump } := by
  refine next_congr s (congrArg (silentOut s.fuse) (if_neg ?_))
  simp [hw]

end

/-! ## Steps 2 to 5: copy and verification -/

section
variable {F : Fuses} {d : Dev} {t : Nat} {m : Mig}

theorem migCopied_first (hm : d.tracts.migs = [m]) (ht : m.tract = t) (hs : m.step = 2) : migCopied F d t =
    (((if m.why = .rekey then d else (List.range (rowsOf (10 - m.target.wd))).foldl (copyRow F m) d).unask (t + 1)).migAsk m
      m.marked.length).mapMig t fun x =>
        { x with marked := m.marked, recopies := m.recopies, step := (if m.marked.isEmpty ∨ 3 ≤ m.recopies then 4 else 3) } := by
  rw [migCopied, Dev.find_mig hm ht]
  dsimp only
  rw [hs, if_pos (Or.inl rfl), if_pos rfl, if_pos rfl, if_neg (show ¬ (2 : Nat) = 3 by decide)]

theorem migVerify_same (hm : d.tracts.migs = [m]) (ht : m.tract = t) (hs : m.step = 5) (again : Bool) :
    migVerify F d t false again = d.mapMig t fun x => { x with step := 6 } := by
  rw [migVerify, Dev.find_mig hm ht]
  dsimp only
  rw [hs, if_neg (by decide), if_pos (by decide)]

end

/-! ## Steps 6 and 7: switch and release -/

section
variable {F : Fuses} {d : Dev} {t : Nat} {m : Mig}

/-- A tract that moves without sharing its home takes the target as its entry, and its header starts anew (R211 step 6). -/
def Dev.moveTract (d : Dev) (t : Nat) (m : Mig) : Dev :=
  (d.setEnt t { m.target with shr := false }).setHdr t (d.hdr t).moved

theorem Dev.moveTract_keeps (d : Dev) (t : Nat) (m : Mig) : (d.moveTract t m).tracts.migs = d.tracts.migs ∧
    { (d.moveTract t m).ent t with hdr := false } = { m.target with shr := false, hdr := false } ∧ (d.moveTract t m).hdr t = (d.hdr t).moved := by
  obtain ⟨b, hb⟩ := (d.setEnt t { m.target with shr := false }).ent_setHdr t (d.hdr t).moved
  refine ⟨(Dev.setHdr_migs ..).trans (Dev.setEnt_migs ..), ?_, ?_⟩
  · rw [Dev.moveTract, hb, if_pos rfl, Dev.ent_setEnt, if_pos rfl]
  · rw [Dev.moveTract, Dev.hdr_setHdr, if_pos rfl]

/-- The switch of a migration that relocates a tract with a home of its own. -/
theorem migSwitch_relocate (hm : d.tracts.migs = [m]) (ht : m.tract = t) (hs : m.step = 6) (hw : m.why = .relocate)
    (hsnap : d.snapHolds t = false) (hshr : (d.ent t).shr = false) : migSwitch F d t =
    (((((d.moveTract t m).markPhys m.target.group m.target.index (decide (m.target.kind = 2)) m.target.kind
      (d.phys (d.ent t).group (d.ent t).index).refs).mapMig t fun x => { x with step := 7, releaseAt := d.tether.now + 10000 }).count
      0x0C4).narrowSettle F m.source.group) := by
  rw [migSwitch, Dev.find_mig hm ht]
  dsimp only
  simp only [hs, hw, hsnap, hshr, Dev.moveTract, reduceCtorEq, or_self, decide_false, Bool.false_eq_true, false_and, if_false,
    ne_eq, not_true_eq_false, Bool.and_false, List.foldl_cons, List.foldl_nil]

theorem migSwitch_parts (hm : d.tracts.migs = [m]) (ht : m.tract = t) (hs : m.step = 6) (hw : m.why = .relocate)
    (hsnap : d.snapHolds t = false) (hshr : (d.ent t).shr = false) :
    { (migSwitch F d t).ent t with hdr := false } = { m.target with shr := false, hdr := false } ∧
    (migSwitch F d t).hdr t = (d.hdr t).moved ∧ (migSwitch F d t).tracts.migs = [{ m with step := 7, releaseAt := d.tether.now + 10000 }] ∧
    (migSwitch F d t).sec = d.sec ∧ (migSwitch F d t).lci = d.lci := by
  obtain ⟨hmigs, hent, hhdr⟩ := d.moveTract_keeps t m
  obtain ⟨hmigs', hkeep⟩ := (d.moveTract t m).markPhys_keeps m.target.group m.target.index (decide (m.target.kind = 2)) m.target.kind
    (d.phys (d.ent t).group (d.ent t).index).refs
  obtain ⟨hent', hhdr'⟩ := hkeep t
  rw [migSwitch_relocate hm ht hs hw hsnap hshr]
  generalize hx : (d.moveTract t m).markPhys m.target.group m.target.index (decide (m.target.kind = 2)) m.target.kind
    (d.phys (d.ent t).group (d.ent t).index).refs = x at hmigs' hent' hhdr'
  have hold : x.sec = d.sec ∧ x.lci = d.lci := by
    rw [← hx]
    exact ⟨(((Dev.markPhys_touches ..).same .sec (by decide)).trans ((Dev.setHdr_touches ..).same .sec (by decide))).trans
        ((Dev.setEnt_touches ..).same .sec (by decide)),
      (((Dev.markPhys_touches ..).same .lci (by decide)).trans ((Dev.setHdr_touches ..).same .lci (by decide))).trans
        ((Dev.setEnt_touches ..).same .lci (by decide))⟩
  obtain ⟨f, hf⟩ := Dev.narrowSettle_tracts (F := F)
    ((x.mapMig t fun x => { x with step := 7, releaseAt := d.tether.now + 10000 }).count 0x0C4) m.source.group
  rw [Dev.count_tracts] at hf
  refine ⟨?_, ?_, ?_, ?_, ?_⟩
  · rw [← hent, ← hent', Dev.ent, hf]
    rfl
  · rw [← hhdr, ← hhdr', Dev.hdr, hf]
    rfl
  · rw [hf]
    exact Dev.mapMig_one (by rw [hmigs', hmigs, hm]) ht _
  · rw [(Dev.narrowSettle_touches ..).same .sec (by decide), Dev.count_sec]
    exact hold.1
  · rw [(Dev.narrowSettle_touches ..).same .lci (by decide), Dev.count_lci]
    exact hold.2

/-- A migration's release moves time on to its due time and ends the migration (R211 step 7). -/
def Dev.released (d : Dev) (t : Nat) (m : Mig) : Dev :=
  { d.advance m.releaseAt with tracts := { (d.advance m.releaseAt).tracts with
      migs := (d.advance m.releaseAt).tracts.migs.filter fun x => !(x.tract == t) } }

/-- The source of a released migration is freed, or its worn tract marked, where nobody shares it (R211 step 7, R218). -/
def Dev.sourceFreed (d : Dev) (m : Mig) : Dev :=
  if !(d.sharers m.source).isEmpty then d
  else if m.why = .relocate then
    (d.freePhys m.source.group m.source.index (decide (m.source.kind = 2))).mapPhys m.source (PhysRec.worn (decide (m.source.kind = 2)))
  else d.freePhys m.source.group m.source.index (decide (m.source.kind = 2))

theorem Dev.sourceFreed_migs (d : Dev) (m : Mig) : (d.sourceFreed m).tracts.migs = d.tracts.migs := by
  unfold Dev.sourceFreed
  split
  · rfl
  · split
    · exact Dev.freePhys_migs ..
    · exact Dev.freePhys_migs ..

theorem Dev.sourceFreed_touches (d : Dev) (m : Mig) : Touches [.tracts, .drift] d (d.sourceFreed m) := by
  unfold Dev.sourceFreed
  split
  · exact Touches.refl _ _
  · split
    · exact Touches.comp (Dev.mapPhys_touches ..) (by decide) (Dev.freePhys_touches ..)
    · exact Dev.freePhys_touches ..

theorem migRelease_switched (hm : d.tracts.migs = [m]) (ht : m.tract = t) (hs : m.step = 7) :
    migRelease F d t = (freeDue F ((d.released t m).sourceFreed m)).narrowSettle F m.source.group := by
  have hfind : (d.tracts.migs.find? fun x => x.tract == t && x.step == 7) = some m := by
    rw [hm, List.find?_cons_of_pos (by simp [ht, hs])]
  rw [migRelease, hfind]
  rfl

theorem migRelease_parts (hm : d.tracts.migs = [m]) (ht : m.tract = t) (hs : m.step = 7) (hlt : m.releaseAt < 2 ^ 64) :
    (∀ x ∈ (migRelease F d t).tracts.migs, x.tract ≠ t) ∧ m.releaseAt ≤ (migRelease F d t).tether.now ∧
    (migRelease F d t).sec = d.sec ∧ (migRelease F d t).lci = d.lci := by
  have htouch : Touches [.regs, .a, .b, .tether, .keel, .log, .aon, .pmc, .media, .tracts, .drift, .out] d (migRelease F d t) := migRelease_touches ..
  refine ⟨?_, ?_, htouch.same .sec (by decide), htouch.same .lci (by decide)⟩
  · obtain ⟨f, hf⟩ := Dev.narrowSettle_tracts (F := F) (freeDue F ((d.released t m).sourceFreed m)) m.source.group
    intro x hx
    rw [migRelease_switched hm ht hs, hf] at hx
    dsimp only at hx
    rw [freeDue_migs, Dev.sourceFreed_migs] at hx
    simpa using (List.mem_filter.1 hx).2
  · rw [migRelease_switched hm ht hs, (Dev.narrowSettle_touches ..).same .tether (by decide), (freeDue_touches ..).same .tether (by decide),
      (Dev.sourceFreed_touches ..).same .tether (by decide)]
    change m.releaseAt ≤ (d.advance m.releaseAt).tether.now
    rw [Dev.advance_now]
    omega

end

/-- Settles O27. -/
theorem migrationSteps : Obligations.MIGRATION_STEPS := by
  unfold Obligations.MIGRATION_STEPS
  refine ⟨?_, ?_, ?_, ?_, ?_, ?_, ?_, ?_⟩
  case refine_1 =>
    intro tract why x d1 s htake hq hturn hfree ht hk hm hhold hw hrekey hsilent
    obtain ⟨hqueue, hmig, hsec, hlci⟩ := migStart_starts (F := s.fuse) hq hturn hfree ht hk hm hhold htake
    refine ⟨_, (exec_migrationStart why s hw).trans (next_congr s ?_), hqueue, hmig⟩
    rw [Dev.rekeyPump_none (by rw [hsec, hrekey])]
    exact silentOut_of_none (by rw [hlci]; exact hsilent)
  case refine_2 => exact fun tract s h => next_congr s (migStart_waits h)
  case refine_3 =>
    intro tract x d1 s htake hq hturn hfree ht hk hm
    obtain ⟨hqueue, hmig, -, -⟩ := migStart_starts (F := s.fuse) (List.any_eq_true.2 ⟨_, hq, by simp⟩) hturn hfree ht hk hm (Or.inl rfl) htake
    exact ⟨_, rfl, hqueue, hmig⟩
  case refine_4 =>
    intro tract m s hm ht hs hw hmarked
    refine ⟨_, next_congr s ((migCopied_first hm ht hs).trans (by rw [if_pos hw, hmarked])), ?_⟩
    rw [Dev.mapMig_one (m := m) (by rw [(Dev.migAsk_touches ..).same .tracts (by decide), (Dev.unask_touches ..).same .tracts (by decide), hm]) ht, ← hmarked]
    simp [hmarked]
  case refine_5 =>
    intro tract m s hm ht hs hw
    exact ⟨_, _, next_congr s ((migCopied_first hm ht hs).trans (by rw [if_neg hw])), rfl, rfl⟩
  case refine_6 =>
    intro tract m s hm ht hs
    exact ⟨_, next_congr s (migVerify_same hm ht hs false), Dev.mapMig_one hm ht _, rfl⟩
  case refine_7 =>
    intro tract m s hm ht hs hw hsnap hshr hrekey hsilent
    obtain ⟨hent, hhdr, hmigs, hsec, hlci⟩ := migSwitch_parts (F := s.fuse) hm ht hs hw hsnap hshr
    refine ⟨_, next_congr s ?_, hent, hhdr, hmigs⟩
    rw [Dev.rekeyOn_none (by rw [hsec, hrekey])]
    exact silentOut_of_none (by rw [hlci]; exact hsilent)
  case refine_8 =>
    intro tract m s hm ht hs hrekey hsilent hlt
    obtain ⟨hmigs, hnow, hsec, hlci⟩ := migRelease_parts (F := s.fuse) hm ht hs hlt
    refine ⟨_, next_congr s ?_, hmigs, hnow⟩
    rw [Dev.rekeyPump_none (by rw [hsec, hrekey])]
    exact silentOut_of_none (by rw [hlci]; exact hsilent)

end Sys2Proof.Machine

/-!
PROOFS. O28 (R203, R207, R208, R210, R215, R220, R224, R226, R246): metadata, counters, gap moves, heat, wear, the floor and the seal.
-/
namespace Sys2Proof.Machine

/-! ## Metadata lines and counter lines -/

section
variable {d : Dev} {F : Fuses} {t : Nat}

/-- A dirty metadata line goes to both copies and is clean (R203). -/
theorem Dev.metaBack_dirty {line : Nat} {l : TcLine} (hl : l ∈ d.tracts.tc) (hid : l.id = line) (hd : l.dirty.isSome = true) :
    d.metaBack line = { d with
      tracts := { d.tracts with
        media := copyMeta d.tracts.cur d.tracts.media line
        tc := d.tracts.tc.map fun l => if l.id = line then { l with dirty := none } else l }
      pwr := { d.pwr with segMeta := d.pwr.segMeta.filter (· != line) } } :=
  if_pos (List.any_eq_true.2 ⟨l, hl, by simp [hid, hd]⟩)

/-- A dirty counter line goes to its place on media and is clean (R246). -/
theorem Dev.ctrBack_dirty {page p : Nat} {c : CtrCached} (hp : d.ctrPlace page = some p) (hc : Tbl.look none d.sec.ctr p = some c)
    (hd : c.dirty.isSome = true) : d.ctrBack page = { d with sec := { d.sec with
      ctrMedia := Tbl.put none d.sec.ctrMedia p (some c.kept)
      ctr := Tbl.put none d.sec.ctr p (some { c with dirty := none, segment := none }) } } := by
  have hdirty : ¬ c.dirty.isNone = true := by
    rw [Option.isSome_iff_exists] at hd
    obtain ⟨x, hx⟩ := hd
    simp [hx]
  rw [Dev.ctrBack, hp]
  dsimp only
  rw [Dev.ctrSave, hc]
  exact if_neg hdirty

/-! ## Gap moves -/

theorem Dev.gapMove_ready (hr : d.gapReady t = true) (hf : 0 < d.internFree .other) :
    d.gapMove t = { d with tracts := { d.tracts with gaps := d.tracts.gaps ++ [t] } } := if_pos (by simp [hr, hf])

theorem Dev.gapMove_idle (hr : d.gapReady t = false) : d.gapMove t = d := if_neg (by simp [hr])

/-- A touch of the metadata cache changes its lines and the media copies alone. -/
theorem Dev.tcTouch_shape (d : Dev) (id : Nat) (dirty : Bool) :
    ∃ tc m, (d.tcTouch id dirty).tracts = { d.tracts with tc := tc, media := m } := by
  unfold Dev.tcTouch
  dsimp only
  split
  · exact ⟨_, _, rfl⟩
  · exact ⟨_, _, rfl⟩

theorem Dev.setEnt_shape (d : Dev) (t : Nat) (e : TEntry) :
    ∃ c tc m, (d.setEnt t e).tracts = { d.tracts with cur := c, tc := tc, media := m } := by
  obtain ⟨tc, m, hx⟩ := (d.setMeta { d.tracts.cur with ent := Tbl.put {} d.tracts.cur.ent t e }).tcTouch_shape (tableLine t) true
  exact ⟨_, tc, m, hx⟩

theorem Dev.fixHdr_shape (d : Dev) (t : Nat) : ∃ c tc m, (d.fixHdr t).tracts = { d.tracts with cur := c, tc := tc, media := m } := by
  unfold Dev.fixHdr
  dsimp only
  split
  · exact ⟨_, _, _, rfl⟩
  · exact d.setEnt_shape ..

/-- A written header changes the metadata in force, its cache and its copies alone. -/
theorem Dev.setHdr_shape (d : Dev) (t : Nat) (h : THeader) :
    ∃ c tc m, (d.setHdr t h).tracts = { d.tracts with cur := c, tc := tc, media := m } := by
  obtain ⟨tc, m, hx⟩ := (d.setMeta { d.tracts.cur with hdr := Tbl.put {} d.tracts.cur.hdr t h }).tcTouch_shape (headerLine t) true
  obtain ⟨c, tc', m', hy⟩ := Dev.fixHdr_shape ((d.setMeta { d.tracts.cur with hdr := Tbl.put {} d.tracts.cur.hdr t h }).tcTouch (headerLine t) true) t
  exact ⟨c, tc', m', by rw [Dev.setHdr, hy, hx, Dev.setMeta]⟩

theorem Dev.setHdr_gaps (d : Dev) (t : Nat) (h : THeader) : (d.setHdr t h).tracts.gaps = d.tracts.gaps := by
  obtain ⟨c, tc, m, hx⟩ := d.setHdr_shape t h
  rw [hx]

theorem Dev.migQueueAll_keeps (l : List Nat) (why : MigWhy) (d : Dev) :
    ∃ q, (l.foldl (fun d t => d.migQueue t why) d).tracts = { d.tracts with queued := q } :=
  List.foldlRecOn (motive := fun e : Dev => ∃ q, e.tracts = { d.tracts with queued := q }) _ _ ⟨_, rfl⟩ fun a h x _ => by
    obtain ⟨q, hq⟩ := h
    unfold Dev.migQueue
    dsimp only
    split
    · exact ⟨q, hq⟩
    · exact ⟨_, by rw [hq]⟩

theorem Dev.wearPage_gaps (d : Dev) (g pa : Nat) (mode : ProgMode) : (d.wearPage g pa mode).tracts.gaps = d.tracts.gaps := by
  unfold Dev.wearPage
  dsimp only
  generalize (if mode = ProgMode.mlc then 1 else 2) = n
  split
  · obtain ⟨q, hq⟩ := Dev.migQueueAll_keeps _ .retire _
    rw [hq]
  · rfl

theorem Dev.wearRow_gaps (d : Dev) (l : Loc) (full : Bool) : (d.wearRow l full).tracts.gaps = d.tracts.gaps := by
  unfold Dev.wearRow
  dsimp only
  exact List.foldlRecOn (motive := fun e : Dev => e.tracts.gaps = d.tracts.gaps) _ _ rfl fun a h x _ => (Dev.wearPage_gaps ..).trans h

/-- The gap move of a tract is over (R207). -/
def Dev.gapOver (d : Dev) (t : Nat) : Dev := { d with tracts := { d.tracts with gaps := d.tracts.gaps.filter (· != t) } }

/-- The line that a gap move takes along, in its new slot (R179, R207). -/
def gapCarry (F : Fuses) (d : Dev) (t : Nat) : Dev :=
  match lineOfSlot (d.hdr t) (gapStep (d.hdr t)).1 with
  | some i =>
    if !d.isWritten (16384 * t + i) then d.gapOver t
    else
      let dst := d.homeLoc (d.ent t) (gapStep (d.hdr t)).2
      let dw := (d.gapOver t).wearRow dst (dst.slc || !d.rowLive dst)
      match d.mediaLine (16384 * t + i) with
      | some x => dw.putLoc dst x
      | none => recordPoison F (dw.putLoc dst poisonLine) (16384 * t + i) 10
  | none => d.gapOver t

theorem gapDone_moves (hg : d.tracts.gaps.contains t = true) (hroom : d.locRoom (d.homeLoc (d.ent t) (gapStep (d.hdr t)).2) = true) :
    gapDone F d t = ((gapCarry F d t).setHdr t (gapNext (d.hdr t))).count 0x0C2 := if_neg (by rw [hg, hroom]; decide)

theorem gapCarry_gaps (d : Dev) (t : Nat) : (gapCarry F d t).tracts.gaps = d.tracts.gaps.filter (· != t) := by
  unfold gapCarry
  dsimp only
  split
  · split
    · rfl
    · split
      · rw [(Dev.putLoc_touches ..).same .tracts (by decide), Dev.wearRow_gaps, Dev.gapOver]
      · rw [(recordPoison_touches ..).same .tracts (by decide), (Dev.putLoc_touches ..).same .tracts (by decide), Dev.wearRow_gaps, Dev.gapOver]
  · rfl

/-- A line that was never written moves with no change on the media (R207). -/
theorem gapCarry_unwritten (h : ∀ i, lineOfSlot (d.hdr t) (gapStep (d.hdr t)).1 = some i → d.isWritten (16384 * t + i) = false) :
    gapCarry F d t = d.gapOver t := by
  unfold gapCarry
  split
  next i hi => exact if_pos (by rw [h i hi]; rfl)
  next => rfl

/-! ## Heat and the zone -/

theorem Dev.setHdrAll_period (p : Nat) (l : Tbl THeader) (d : Dev) :
    (l.foldl (fun d e => d.setHdr e.1 (heatAt p e.2)) d).tracts.period = d.tracts.period :=
  List.foldlRecOn (motive := fun e : Dev => e.tracts.period = d.tracts.period) _ _ rfl fun a h x _ => by
    obtain ⟨c, tc, m, hx⟩ := a.setHdr_shape x.1 (heatAt p x.2)
    rw [hx]
    exact h

theorem Dev.setHdrAll_tether (p : Nat) (l : Tbl THeader) (d : Dev) :
    (l.foldl (fun d e => d.setHdr e.1 (heatAt p e.2)) d).tether = d.tether :=
  List.foldlRecOn (motive := fun e : Dev => e.tether = d.tether) _ _ rfl fun a h x _ => ((Dev.setHdr_touches ..).same .tether (by decide)).trans h

/-- The heat period's end comes at its due time (R208). -/
theorem Dev.heatNext_parts {due : Nat} (hdue : due = dueMultiple d.tether.now (d.fld MTL_HEAT_CFG 7 0 * 10 ^ 9) (Tbl.look 0 d.tether.ticks 8))
    (hlt : due < 2 ^ 64) (hp : 0 < d.fld MTL_HEAT_CFG 7 0) :
    d.heatNext.tracts.period = (d.tracts.period + 1) % 2 ^ 16 ∧ d.heatNext.tether.now = due := by
  have hnow : (d.tick 8 (d.fld MTL_HEAT_CFG 7 0 * 10 ^ 9)).tether.now = due := by
    rw [hdue] at hlt ⊢
    exact d.advance_to (dueMultiple_cases d.tether.now _ (Tbl.look 0 d.tether.ticks 8) (Nat.mul_pos hp (by decide))).2.1 hlt
  unfold Dev.heatNext
  dsimp only
  rw [Dev.setHdrAll_period, Dev.setHdrAll_tether, (Dev.tick_touches ..).same .tracts (by decide)]
  exact ⟨rfl, hnow⟩

theorem floorCheck_quiet (hw : d.tracts.floorWarn = false) (hu : d.floorOf ≤ d.availU) : floorCheck F d = d := by
  unfold floorCheck
  dsimp only
  rw [hw, if_neg (by simp; omega), if_neg (by simp)]

theorem freeDue_none (hf : d.tracts.freeing = []) (hs : d.tracts.sealed = false) : freeDue F d = d := by
  have hd : ({ d with tracts := { d.tracts with freeing := d.tracts.freeing.filter fun f => decide (d.tether.now < f.time) } } : Dev) = d := by
    rw [hf, List.filter_nil, ← hf]
  unfold freeDue
  dsimp only
  rw [hd, hf, List.filter_nil, List.foldl_nil, sealLift, hs, if_neg (by simp)]

/-- The zone target while nothing is freed and U is at the floor or above (R210). -/
theorem zoneRecompute_quiet {d' : Dev} (hd : d' = d.tick 9 10000000) (hf : d.tracts.freeing = []) (hs : d.tracts.sealed = false)
    (hw : d.tracts.floorWarn = false) (hu : d'.floorOf ≤ d'.availU) :
    (zoneRecompute F d).tracts.zt = d'.zoneTarget ∧ (zoneRecompute F d).tracts.migs = d.tracts.migs := by
  have ht : d'.tracts = d.tracts := by
    rw [hd]
    exact (Dev.tick_touches ..).same .tracts (by decide)
  unfold zoneRecompute
  dsimp only
  rw [← hd, freeDue_none (by rw [ht, hf]) (by rw [ht, hs]), floorCheck_quiet (by rw [ht, hw]) hu]
  obtain ⟨q, hq⟩ := Dev.migQueueAll_keeps (Dev.demotions { d' with tracts := { d'.tracts with zt := d'.zoneTarget } }) .demote
    { d' with tracts := { d'.tracts with zt := d'.zoneTarget } }
  rw [hq]
  exact ⟨rfl, by rw [ht]⟩

/-! ## Wear -/

/-- The far data tracts of the wear check: those whose wear lies below the least-worn free tract's by more than the spread (R220). -/
def Dev.wearFar (d : Dev) (f : Nat × Nat) : List (Nat × Nat) :=
  ((d.tracts.cur.ent.filter fun e => e.2.kind == 1).map fun e => ((d.phys e.2.group e.2.index).wear, e.1)).filter
    fun y => decide (d.fld MTL_WL_CFG 15 0 ≠ 0 ∧ y.1 + d.fld MTL_WL_CFG 15 0 < f.1)

/-- Is a data tract's partner free and demoted (R220)? -/
def Dev.mateFree (d : Dev) (t : Nat) : Bool :=
  (d.phys (d.ent t).group (if (d.ent t).index % 2 = 0 then (d.ent t).index + 1 else (d.ent t).index - 1)).state == 8

theorem Dev.wearCheck_eq (d : Dev) : d.wearCheck = match leastOf (d.allocGroups.flatMap fun g => d.freeCands g) with
    | none => d
    | some f => match (leastOf ((d.wearFar f).filter fun x => d.mateFree x.2)).or (leastOf (d.wearFar f)) with
      | some x => if d.wearBusy ((d.ent x.2).group / 8) then d else d.migQueue x.2 .wear
      | none => d := rfl

theorem mate_index (i : Nat) : (if i % 2 = 0 then i + 1 else i - 1) = i + 1 - 2 * (i % 2) := by
  split
  · omega
  · omega

/-- The wear check queues the least-worn far tract, where no tract's partner is free and demoted (R216, R220). -/
theorem Dev.wearCheck_queues {f x : Nat × Nat} (hf : leastOf (d.allocGroups.flatMap fun g => d.freeCands g) = some f)
    (hx : leastOf (d.wearFar f) = some x)
    (hmate : ∀ y ∈ d.wearFar f, (d.phys (d.ent y.2).group ((d.ent y.2).index + 1 - 2 * ((d.ent y.2).index % 2))).state ≠ 8)
    (hb : d.wearBusy ((d.ent x.2).group / 8) = false) : d.wearCheck = d.migQueue x.2 .wear := by
  have hnone : ((d.wearFar f).filter fun x => d.mateFree x.2) = [] := by
    rw [List.filter_eq_nil_iff]
    intro y hy
    rw [Dev.mateFree, mate_index]
    simpa using hmate y hy
  rw [Dev.wearCheck_eq, hf]
  dsimp only
  rw [hnone, show leastOf [] = none from rfl, Option.none_or, hx]
  exact if_neg (by simp [hb])

/-- With a spread of 0 no tract is far, so the wear check moves none. -/
theorem Dev.wearCheck_off (h : d.fld MTL_WL_CFG 15 0 = 0) : d.wearCheck = d := by
  have hnone (f : Nat × Nat) : d.wearFar f = [] := by
    rw [Dev.wearFar, List.filter_eq_nil_iff]
    simp [h]
  rw [Dev.wearCheck_eq]
  split
  · rfl
  · rw [hnone]
    rfl

theorem Dev.migQueue_new {why : MigWhy} (hq : ∀ q ∈ d.tracts.queued, q.1 ≠ t) (hm : ∀ m ∈ d.tracts.migs, m.tract ≠ t) :
    (d.migQueue t why).tracts.queued = d.tracts.queued ++ [(t, why)] := by
  have hpass : d.migQueue t why = _ := if_neg (by simpa using ⟨fun a h => hq _ h rfl, hm⟩)
  rw [hpass]

/-! ## The floor and the seal -/

/-- The floor's event is posted again a day after the last time (R224). -/
theorem floorRepeat_posts (hw : d.tracts.floorWarn = true) :
    (floorRepeat F d).tracts.floorPosted = (floorRepeat F d).tether.now ∧
    (floorRepeat F d).tether.now = (d.advance (d.tracts.floorPosted + 24 * 3600 * 10 ^ 9)).tether.now := by
  rw [floorRepeat, if_pos hw]
  dsimp only
  rw [Dev.postAll_tracts, Dev.postAll_tether]
  exact ⟨rfl, rfl⟩

theorem Dev.dropAll_sealed (l : List Mig) (d : Dev) : (l.foldl (fun d m => ({ d with tracts := { d.tracts with migs := d.tracts.migs.filter fun y =>
    !(y.tract == m.tract && decide (y.step ≤ 6)) } }).dropTarget m.target) d).tracts.sealed = d.tracts.sealed :=
  List.foldlRecOn (motive := fun e : Dev => e.tracts.sealed = d.tracts.sealed) _ _ rfl fun _ h _ _ => h

theorem Dev.rekeyEnd_sealed (d : Dev) (status : Nat) : (d.rekeyEnd status).tracts.sealed = d.tracts.sealed := by
  unfold Dev.rekeyEnd
  split
  · rfl
  · split
    · rfl
    · rw [(Dev.finish_touches ..).same .tracts (by decide)]
      exact Dev.dropAll_sealed ..

theorem sealDevice_seals (hs : d.tracts.sealed = false) (hu : d.availU ≤ 1024 + d.pHome)
    (hst : d.stagedList.all (fun e => e.2.translated) = true) (hr : d.pwr.replayDone = true) : (sealDevice F d).tracts.sealed = true := by
  have hany : ¬ (d.stagedList.any fun e => !e.2.translated) = true := by
    rw [List.all_eq_true] at hst
    simp only [List.any_eq_true, not_exists, not_and]
    intro e he
    simp [hst e he]
  have hpass : sealDevice F d = _ := if_neg (by
    rw [hs, hr]
    exact not_or.2 ⟨by decide, not_or.2 ⟨by omega, not_or.2 ⟨hany, by decide⟩⟩⟩)
  rw [hpass, (silentOut_touches ..).same .tracts (by decide), Dev.rekeyEnd_sealed, Dev.notice_tracts, Dev.icu_tracts, Dev.postAll_tracts,
    Dev.statePut_tracts, Dev.event_tracts]

end

/-- Settles O28. -/
theorem tractUpkeepAndWear : Obligations.TRACT_UPKEEP_AND_WEAR := by
  unfold Obligations.TRACT_UPKEEP_AND_WEAR
  refine ⟨⟨?_, ?_, ?_, ?_, ?_, ?_, ?_⟩, ⟨?_, ?_, ?_, ?_, ?_, ?_⟩⟩
  case refine_1 =>
    intro line l s hl hid hd
    refine ⟨_, next_congr s (Dev.metaBack_dirty hl hid hd), rfl, fun x hx hxid => ?_, rfl, by simp⟩
    obtain ⟨y, -, rfl⟩ := List.mem_map.1 hx
    split
    · rfl
    · rename_i hne
      rw [if_neg hne] at hxid
      exact absurd hxid hne
  case refine_2 =>
    intro page p c s hp hc hd
    exact ⟨_, next_congr s (Dev.ctrBack_dirty hp hc hd), Tbl.look_put_same .., Tbl.look_put_same ..⟩
  case refine_3 => exact fun tract s hr hf => ⟨_, next_congr s (Dev.gapMove_ready hr hf), rfl, rfl⟩
  case refine_4 => exact fun tract s hr => next_congr s (Dev.gapMove_idle hr)
  case refine_5 =>
    intro tract s hg hroom
    refine ⟨_, next_congr s (gapDone_moves hg hroom), ?_, ?_, fun i hi hw => ?_⟩
    · rw [Dev.count_tracts, Dev.setHdr_gaps, gapCarry_gaps]
    · rw [Dev.hdr, Dev.count_tracts]
      exact (Dev.hdr_setHdr ..).trans (if_pos rfl)
    · rw [Dev.count_media, (Dev.setHdr_touches ..).same .media (by decide), gapCarry_unwritten fun j hj => by
        rw [hi] at hj
        cases hj
        exact hw]
      rfl
  case refine_6 => exact fun due s hdue hlt hp => ⟨_, rfl, Dev.heatNext_parts hdue hlt hp⟩
  case refine_7 => exact fun s d hd hf hs hw hu => ⟨_, rfl, zoneRecompute_quiet hd hf hs hw hu⟩
  case refine_8 => exact fun s hk hr => ⟨_, congrArg Host.Outcome.next (if_pos ⟨hk, hr⟩), rfl⟩
  case refine_9 =>
    intro f x far s hfar hf hx hmate hb hq hm
    subst hfar
    exact ⟨_, next_congr s (Dev.wearCheck_queues hf hx hmate hb), Dev.migQueue_new hq hm⟩
  case refine_10 => exact fun s h => next_congr s (Dev.wearCheck_off h)
  case refine_11 =>
    intro s hw hlt
    obtain ⟨hposted, hnow⟩ := floorRepeat_posts (F := s.fuse) hw
    refine ⟨_, rfl, hposted, ?_⟩
    rw [hnow, Dev.advance_now]
    omega
  case refine_12 => exact fun s hs hu hst hr _ => ⟨_, rfl, sealDevice_seals hs hu hst hr⟩
  case refine_13 => exact fun s hu => next_congr s (if_pos (Or.inr (Or.inl hu)))

end Sys2Proof.Machine

/-!
PROOFS. O30 (R61, R254, R262 to R267, R274 to R279): lists on a stream channel.
-/
namespace Sys2Proof.Machine

section
variable {F : Fuses} {d : Dev} {c : Nat}

/-! ## Settling -/

theorem Dev.settle_of_none (h : settleRuns (d.schan c) (d.schan c).runs = (0, 0, (d.schan c).runs)) : d.settle c = d := by
  unfold Dev.settle
  dsimp only
  rw [h]
  rfl

theorem Dev.settle_nil (h : (d.schan c).runs = []) : d.settle c = d := Dev.settle_of_none (by rw [h]; rfl)

/-- A descriptor that goes on holds up the progress of its list (R268). -/
theorem Dev.settle_going {r : Run} (hk : (d.schan c).kind = .stream) (hr : (d.schan c).runs = [r]) (he : r.ended = false) : d.settle c = d := by
  refine Dev.settle_of_none ?_
  rw [hr, settleRuns, SChan.runDone, hk]
  simp [he]

/-- The one descriptor of a list ends with no fault: it counts toward progress (R268). -/
theorem Dev.settle_ended {r : Run} (hk : (d.schan c).kind = .stream) (hr : (d.schan c).runs = [r]) (he : r.ended = true) (hf : r.fault = 0) :
    d.settle c = d.setSchan c { d.schan c with runs := [], progress := (d.schan c).progress + 1, out := (d.schan c).out + 0 } := by
  have hs : settleRuns (d.schan c) (d.schan c).runs = (1, 0, []) := by
    rw [hr, settleRuns, SChan.runDone, hk]
    simp [he, hf, settleRuns]
  unfold Dev.settle
  dsimp only
  rw [hs]
  dsimp only
  rw [if_neg (by decide), if_pos hk]

theorem Dev.pump_schan : (d.pump c).schan c =
    { d.schan c with reads := min (min 256 (d.schan c).linesLeft) ((d.schan c).reads + d.internFree .stream) } := by
  rw [Dev.pump, Dev.setSchan_schan, if_pos rfl]

/-- The state of a running list as a fault stops it (R277 to R279). -/
theorem SChan.fault_running {x : SChan} (hs : x.state = .running) (hp : x.pendFault = none) (code addr : Nat) (dev : Bool) (tag : Nat) :
    (x.fault code addr dev tag).state = .stopping ∧ (x.fault code addr dev tag).pendFault = some (code, addr, dev, tag) := by
  rw [SChan.fault, hs, hp]
  exact ⟨rfl, rfl⟩

/-! ## Descriptors -/

theorem Dev.listRead_schan (h : Head) (a n : Nat) : (d.listRead h a n).schan c = d.schan c := by
  unfold Dev.listRead
  dsimp only
  split
  · rw [Dev.emit_schan, Dev.emit_schan]
  · rw [Dev.emit_schan]

theorem Dev.mem_listRead (h : Head) (a n : Nat) : .hostRead h a (min 512 (4096 - a % 4096)) n ∈ (d.listRead h a n).out := by
  unfold Dev.listRead
  dsimp only
  split
  · exact List.mem_cons_of_mem _ (List.mem_cons_self ..)
  · exact List.mem_cons_self ..

/-- A running host-resident list that holds no descriptor ahead fetches its next block (R262). -/
theorem descFetch_fetches {host : List (BitVec 256)} {fail : OutEnd} (hs : (d.schan c).state = .running) (hk : (d.schan c).kind ≠ .verify)
    (hl : (d.schan c).lastSeen = false) (ha : (d.schan c).ahead = []) (hd : (d.schan c).listDev = false)
    (hn : d.noTimeout (d.schan c).head fail = false) : descFetch F d c host fail =
      if fail ≠ .ok then
        (((d.listRead (d.schan c).head (d.schan c).next c).emit (.aer (d.schan c).head fail)).free.2).setSchan c
          ((d.schan c).fault 3 (d.schan c).next (d.schan c).listDev
            (((d.listRead (d.schan c).head (d.schan c).next c).emit (.aer (d.schan c).head fail)).free.1 % 2 ^ 32))
      else (d.listRead (d.schan c).head (d.schan c).next c).setSchan c { d.schan c with
        ahead := (d.schan c).ahead ++ (useful (host.take 16)).zipIdx.map fun e => ((d.schan c).next + 32 * e.2, e.1)
        next := (d.schan c).next + 32 * (useful (host.take 16)).length } := by
  unfold descFetch
  dsimp only
  rw [ha]
  have hpass : ¬ ((d.schan c).state ≠ .running ∨ (d.schan c).kind = .verify ∨ (d.schan c).lastSeen = true ∨ false = true ∨
      48 < ([] : List (Nat × BitVec 256)).length ∨ (!(d.schan c).listDev) = true ∧ d.noTimeout (d.schan c).head fail = true) := by
    simp [hs, hk, hl, hn]
  refine (if_neg hpass).trans ?_
  rw [if_neg (by simp [hd])]

theorem Dev.laneTurn_schan (got : Bool) : (d.laneTurn c got).schan c = d.schan c := rfl

section
variable {a : Nat} {b : BitVec 256} {l : List (Nat × BitVec 256)} (hr : (d.schan c).runs = []) (hs : (d.schan c).state = .running)
  (hl : (d.schan c).lastSeen = false) (ha : (d.schan c).ahead = (a, b) :: l)
include hr hs hl ha

/-- A well-formed link within the limit sends the list on to its address (R263). -/
theorem descStart_link (hlink : (descOf b).link = true) (hok : linkOk (descOf b) = true) (hn : (d.schan c).executed + 1 < (d.schan c).limit) :
    descStart F d c = d.setSchan c { d.schan c with next := (descOf b).src, ahead := [], executed := (d.schan c).executed + 1 } := by
  unfold descStart
  dsimp only
  rw [Dev.settle_nil hr, ha, if_neg (by simp [hs, hl])]
  dsimp only
  rw [if_neg (by omega), if_pos hlink, if_pos hok]

/-- A descriptor past the limit that does not end the list faults it with code 2 (R266). -/
theorem descStart_limit (hn : (d.schan c).limit ≤ (d.schan c).executed + 1) (hq : (descOf b).link = true ∨ (descOf b).last = false) :
    descStart F d c = d.setSchan c ((d.schan c).fault 2 a (d.schan c).listDev (descOf b).tag) := by
  unfold descStart
  dsimp only
  rw [Dev.settle_nil hr, ha, if_neg (by simp [hs, hl])]
  dsimp only
  rw [if_pos ⟨hn, by simpa using hq⟩]

/-- An invalid data descriptor faults the list with code 12 (R265). -/
theorem descStart_invalid (hlink : (descOf b).link = false)
    (hn : (d.schan c).executed + 1 < (d.schan c).limit ∨ (descOf b).last = true) (hok : dataOk F d (d.schan c) (descOf b) = false) :
    descStart F d c = d.setSchan c ((d.schan c).fault 12 a (d.schan c).listDev (descOf b).tag) := by
  have hlim : ¬ ((d.schan c).limit ≤ (d.schan c).executed + 1 ∧ ((descOf b).link = true ∨ (!(descOf b).last) = true)) := by
    rw [hlink]
    rcases hn with h | h
    · exact fun h' => by omega
    · simp [h]
  unfold descStart
  dsimp only
  rw [Dev.settle_nil hr, ha, if_neg (by simp [hs, hl])]
  dsimp only
  rw [if_neg (by simpa using hlim), hlink, if_neg Bool.false_ne_true, hok, if_pos (by decide)]

/-- A valid data descriptor that nothing holds up starts (R265 to R267, R273). -/
theorem descStart_data (hlink : (descOf b).link = false) (hn : (d.schan c).executed + 1 < (d.schan c).limit ∨ (descOf b).last = true)
    (hok : dataOk F d (d.schan c) (descOf b) = true) (hright : rightsOk F d (d.schan c) (descOf b) = true)
    (hwin : d.windowBreak (d.schan c) (descOf b) = false) (hwait : copyWaits (d.schan c) (descOf b) = false)
    (hroom : d.listRoom (d.schan c) = true) (hlane : (d.schan c).lanes = true → d.laneFree c (descOf b) = true)
    (hk : (d.schan c).kind ≠ .install) :
    ∃ r : Run, r.desc = b ∧ r.addr = a ∧ r.idx = (d.schan c).started ∧ ∃ n, (descStart F d c).schan c =
      { d.schan c with
        ahead := l
        executed := (d.schan c).executed + 1
        started := (d.schan c).started + 1
        lastSeen := (descOf b).last
        runs := [r]
        tag := (descOf b).tag
        reads := n } := by
  have hlim : ¬ ((d.schan c).limit ≤ (d.schan c).executed + 1 ∧ ((descOf b).link = true ∨ (!(descOf b).last) = true)) := by
    rw [hlink]
    rcases hn with h | h
    · exact fun h' => by omega
    · simp [h]
  refine ⟨{ idx := (d.schan c).started, addr := a, desc := b, hist := if (d.schan c).lanes then histOf (descOf b) else 0 }, rfl, rfl, rfl, ?_⟩
  unfold descStart
  dsimp only
  rw [Dev.settle_nil hr, ha, if_neg (by simp [hs, hl])]
  dsimp only
  rw [if_neg (by simpa using hlim), hlink, if_neg Bool.false_ne_true, hok, if_neg (by decide), hright, if_neg (by decide), hwin,
    if_neg Bool.false_ne_true, hwait, hroom, if_neg (by simp [hk]), if_neg (by simpa using hlane), if_neg hk, hr, List.nil_append]
  split
  · exact ⟨_, by rw [Dev.pump_schan, Dev.laneTurn_schan, Dev.setSchan_schan, if_pos rfl]⟩
  · exact ⟨_, by rw [Dev.pump_schan, Dev.setSchan_schan, if_pos rfl]⟩

end

/-! ## Source lines -/

/-- The channel as one of its outstanding reads returns (R261). -/
def Dev.readBack (d : Dev) (c : Nat) : Dev :=
  (d.pump c).setSchan c { (d.pump c).schan c with reads := ((d.pump c).schan c).reads - 1 }

theorem Dev.readBack_schan : (d.readBack c).schan c = { d.schan c with reads := ((d.pump c).schan c).reads - 1 } := by
  rw [Dev.readBack, Dev.setSchan_schan, if_pos rfl, Dev.pump_schan]

/-- A line of a Verify counts, whatever it holds (R254). -/
theorem verifyNext_counts {v : Verdict} (h : (d.schan c).vDone < (d.schan c).vLines) :
    ((verifyNext F d c v).schan c).vDone = (d.schan c).vDone + 1 ∧ ((verifyNext F d c v).schan c).progress = (d.schan c).vDone + 1 := by
  unfold verifyNext
  dsimp only
  rw [if_neg (by omega), Dev.setSchan_schan, if_pos rfl]
  split
  · exact ⟨rfl, rfl⟩
  · exact ⟨rfl, rfl⟩

theorem sourceReturn_eq (v : Verdict) : sourceReturn F d c v =
    if (((d.pump c).schan c).state ≠ .running ∧ ((d.pump c).schan c).state ≠ .stopping) ∨
      (0 < ((d.pump c).schan c).linesLeft ∧ ((d.pump c).schan c).reads = 0) then d
    else match ((d.pump c).schan c).kind with
      | .verify => if ((d.pump c).schan c).state = .running then (verifyNext F (d.readBack c) c v).pump c else d
      | .install => installNext (d.readBack c) c
      | _ => (sourceNext F (d.readBack c) c v).pump c := rfl

theorem sourceReturn_verify {v : Verdict} (hk : (d.schan c).kind = .verify) (hs : (d.schan c).state = .running)
    (hv : (d.schan c).vDone < (d.schan c).vLines) (hread : 0 < (d.schan c).reads + d.internFree .stream) :
    sourceReturn F d c v = (verifyNext F (d.readBack c) c v).pump c := by
  have hleft : (d.schan c).linesLeft = (d.schan c).vLines - (d.schan c).vDone := by
    rw [SChan.linesLeft, hk, hs]
    rfl
  have hreads : ((d.pump c).schan c).reads ≠ 0 := by
    rw [Dev.pump_schan, hleft]
    dsimp only
    omega
  have hkind : ((d.pump c).schan c).kind = .verify := by rw [Dev.pump_schan, ← hk]
  have hstate : ((d.pump c).schan c).state = .running := by rw [Dev.pump_schan, ← hs]
  rw [sourceReturn_eq, if_neg (by simp [hreads, hstate]), hkind]
  exact if_pos hstate

theorem SChan.mapRun_srcDone (x : SChan) (idx : Nat) (f : Run → Run) (r : Run) : (x.mapRun idx f).srcDone r = x.srcDone r := rfl

/-- A good source line of a Stream joins the descriptor that reads on (R269, R270). -/
theorem sourceNext_joins {v : Verdict} {r : Run} {z : LineData} {d1 : Dev} (hk : (d.schan c).kind = .stream) (hr : (d.schan c).runs = [r])
    (he : r.ended = false) (hsrc : (d.schan c).srcDone r = false)
    (hpeek : peekAddr F d (d.schan c).head (d.schan c).key (d.schan c).base ((descOf r.desc).src / 64 * 64 + 64 * r.src.length) v = (.data z, d1))
    (hmore : (d1.schan c).srcDone { r with src := r.src ++ [some z] } = false) :
    sourceNext F d c v = (d1.count 0x240).setSchan c ((d1.schan c).mapRun r.idx fun _ => { r with src := r.src ++ [some z] }) := by
  unfold sourceNext
  dsimp only
  rw [Dev.settle_going hk hr he, hr, List.find?_cons_of_pos (by simp [hsrc])]
  dsimp only
  rw [hpeek]
  dsimp only
  rw [Dev.count_schan, Option.isSome_some, if_pos rfl]
  exact if_pos (by rw [SChan.mapRun_srcDone, hmore]; rfl)

theorem sourceReturn_stream {v : Verdict} (hk : (d.schan c).kind = .stream) (hs : (d.schan c).state = .running)
    (hread : 0 < ((d.pump c).schan c).reads) : sourceReturn F d c v = (sourceNext F (d.readBack c) c v).pump c := by
  have hkind : ((d.pump c).schan c).kind = .stream := by rw [Dev.pump_schan, ← hk]
  have hstate : ((d.pump c).schan c).state = .running := by rw [Dev.pump_schan, ← hs]
  rw [sourceReturn_eq, if_neg (by simp [Nat.ne_of_gt hread, hstate]), hkind]

/-! ## Output and confirmation -/

theorem SChan.findRun_one {x : SChan} {r : Run} (hr : x.runs = [r]) {p : Run → Bool} (hp : p r = true) : x.runs.find? p = some r := by
  rw [hr, List.find?_cons_of_pos hp]

/-- A full posted write of a descriptor whose source goes on (R274). -/
theorem outWrite_full {r : Run} (hk : (d.schan c).kind = .stream) (hr : (d.schan c).runs = [r]) (he : r.ended = false)
    (hc : r.confirming = false) {a want : Nat} (ha : a = (descOf r.desc).dst + r.sent)
    (hwant : want = min (a - a % 64 + 512) (a - a % 4096 + 4096) - a)
    (hfull : want ≤ (goodBytes (runOut F d (d.schan c) r)).length - r.sent) (hsrc : (d.schan c).srcDone r = false) :
    .hostWrite (descOf r.desc).head a (((goodBytes (runOut F d (d.schan c) r)).drop r.sent).take want) true (descOf r.desc).noSnoop ∈
      (outWrite F d c r.idx).out := by
  have hpos : want ≠ 0 := by omega
  unfold outWrite
  dsimp only
  rw [SChan.findRun_one hr (by simp [he, hc])]
  dsimp only
  rw [if_neg (by simp [hk]), ← ha, ← hwant, Nat.min_eq_left hfull, if_neg (by omega), if_neg hpos, if_pos (Or.inl (by simp [hsrc])),
    Dev.count_out, Dev.countH_out]
  exact List.mem_cons_self ..

/-- A good confirmation ends its descriptor, which counts toward progress (R268, R275). -/
theorem confirmed_ends {r : Run} (hk : (d.schan c).kind = .stream) (hr : (d.schan c).runs = [r]) (he : r.ended = false)
    (hc : r.confirming = true) (hf : r.fault = 0) : (confirmed d c).schan c =
      { d.schan c with runs := [], progress := (d.schan c).progress + 1, out := (d.schan c).out + r.sent } := by
  have hmap : ((d.schan c).mapRun r.idx fun y => { y with ended := true, confirming := false }).runs = [{ r with ended := true, confirming := false }] := by
    rw [SChan.mapRun, hr, List.map_cons, if_pos rfl, List.map_nil]
  unfold confirmed
  dsimp only
  rw [SChan.findRun_one hr (by simp [he, hc])]
  dsimp only
  rw [if_pos hf]
  generalize hx : (d.schan c).mapRun r.idx (fun y => { y with ended := true, confirming := false }) = x at hmap ⊢
  have hy : ((d.setSchan c { x with out := x.out + r.sent }).count 0x242).schan c = { x with out := x.out + r.sent } := by
    rw [Dev.count_schan, Dev.setSchan_schan, if_pos rfl]
  rw [Dev.settle_ended (r := { r with ended := true, confirming := false }) (by rw [hy, ← hk, ← hx]; rfl) (by rw [hy, hmap]) rfl hf, Dev.setSchan_schan,
    if_pos rfl, hy, ← hx]
  rfl

/-- A confirmation that fails faults its list with code 5 (R61, R278). -/
theorem outFail_confirming {r : Run} {why : OutEnd} (hs : (d.schan c).state = .running) (hr : (d.schan c).runs = [r]) (he : r.ended = false)
    (hc : r.confirming = true) (hw : why ≠ .ok) (hn : d.noTimeout (descOf r.desc).head why = false) : outFail d c why =
      (d.emit (.aer (descOf r.desc).head why)).setSchan c
        (((d.schan c).runFault r 5 r.lastAddr false).headFault (descOf r.desc).head r.lastAddr) := by
  have hfind : (d.schan c).runs.find? (fun r => r.confirming && !r.ended) = some r := SChan.findRun_one hr (by simp [he, hc])
  unfold outFail
  dsimp only
  rw [hfind]
  dsimp only
  rw [if_neg (by simp [hs, hw, hn])]

/-! ## The end of a list -/

/-- A channel as its list ends with no fault (R276). -/
def SChan.endedWell (x : SChan) : SChan :=
  { x with state := .ended, status := 0, runs := [], ahead := [], done := true, reads := 0 }

theorem listEnd_ready (hs : (d.schan c).state = .running) (hk : (d.schan c).kind = .stream) (hr : (d.schan c).runs = [])
    (hl : (d.schan c).lastSeen = true) (hp : (d.schan c).pendFault = none) :
    listEnd d c = (((d.setSchan c (d.schan c).endedWell).count 0x242 0).icu c).finishList c := by
  have hready : (d.schan c).ready = true := by
    rw [SChan.ready, hs, hk, hl, hr]
    rfl
  unfold listEnd
  dsimp only
  rw [Dev.settle_nil hr, hready, if_neg (by decide), hp]
  dsimp only [Option.getD_none]
  rw [if_neg (show ¬ (d.schan c).kind = .copy by simp [hk]), if_pos hk, if_pos rfl, if_pos (Or.inl rfl), SChan.endedWell, hp]

/-- What firmware makes of a Stream that has ended with no fault (R300, R301). -/
theorem Dev.finishList_good {m : Cmd} (hs : (d.schan c).status = 0) (hk : (d.schan c).kind = .stream)
    (hm : d.cmd (d.schan c).handle = some m) (hsilent : m.silent = false) : d.finishList c = d.finish (d.schan c).handle
      (if 0 < (d.schan c).npoison then 1 else 0) (d.schan c).progress (listResult d (d.schan c)) := by
  unfold Dev.finishList
  dsimp only
  rw [hm, hk, hs]
  dsimp only
  rw [if_neg (by simp [hsilent]), if_neg (by simp), if_neg (by decide)]
  rfl

/-- A Stream whose descriptors have all ended finishes its command (R276, R300, R301). -/
theorem listEnd_done {m : Cmd} (hs : (d.schan c).state = .running) (hk : (d.schan c).kind = .stream) (hr : (d.schan c).runs = [])
    (hl : (d.schan c).lastSeen = true) (hp : (d.schan c).pendFault = none) (hm : d.cmd (d.schan c).handle = some m) (hsilent : m.silent = false) :
    ∃ result, listEnd d c = (((d.setSchan c (d.schan c).endedWell).count 0x242 0).icu c).finish (d.schan c).handle
      (if 0 < (d.schan c).npoison then 1 else 0) (d.schan c).progress result := by
  have hnew : ((((d.setSchan c (d.schan c).endedWell).count 0x242 0).icu c).schan c) = (d.schan c).endedWell := by
    rw [Dev.icu_schan, Dev.count_schan, Dev.setSchan_schan, if_pos rfl]
  have hcmd : (((d.setSchan c (d.schan c).endedWell).count 0x242 0).icu c).cmd (d.schan c).handle = some m := by
    rw [Dev.icu_cmd, Dev.count_cmd, Dev.setSchan_cmd, hm]
  refine ⟨listResult (((d.setSchan c (d.schan c).endedWell).count 0x242 0).icu c) (d.schan c).endedWell, ?_⟩
  rw [listEnd_ready hs hk hr hl hp, Dev.finishList_good (m := m) (by rw [hnew]; rfl) (by rw [hnew]; exact hk) (by rw [hnew]; exact hcmd) hsilent, hnew]
  rfl

end

/-- Settles O30. -/
theorem streamLists : Obligations.STREAM_LISTS := by
  unfold Obligations.STREAM_LISTS
  refine ⟨?_, ?_, ?_, ?_, ?_, ?_, ?_, ?_, ?_, ?_, ?_, ?_⟩
  case refine_1 =>
    intro c descs s hs hk hl ha hd
    refine ⟨_, next_congr s (descFetch_fetches hs hk hl ha hd rfl), ?_, ?_, Dev.mem_listRead ..⟩
    · rw [if_neg (by decide), Dev.setSchan_schan, if_pos rfl, ha]
      rfl
    · rw [if_neg (by decide), Dev.setSchan_schan, if_pos rfl]
  case refine_2 =>
    intro c descs why s hs hk hl ha hd hp hw hn
    let tag := ((s.dev.listRead (s.dev.schan c.val).head (s.dev.schan c.val).next c.val).emit (.aer (s.dev.schan c.val).head why)).free.1 % 2 ^ 32
    have hfault := SChan.fault_running hs hp 3 (s.dev.schan c.val).next (s.dev.schan c.val).listDev tag
    refine ⟨tag, _, next_congr s ((descFetch_fetches hs hk hl ha hd hn).trans (if_pos hw)), ?_, ?_, List.mem_cons_self ..⟩
    · rw [Dev.setSchan_schan, if_pos rfl]
      exact hfault.1
    · rw [Dev.setSchan_schan, if_pos rfl, hfault.2, hd]
  case refine_3 =>
    intro c a b l s hr hs hl ha hlink hok hn
    refine ⟨_, next_congr s (descStart_link hr hs hl ha hlink hok hn), ?_⟩
    rw [Dev.setSchan_schan, if_pos rfl]
    exact ⟨rfl, rfl, rfl, hr⟩
  case refine_4 =>
    intro c a b l s hr hs hl ha hlink hn hok hright hwin hwait hroom hlane hk
    obtain ⟨r, hb, haddr, hidx, n, hx⟩ := descStart_data hr hs hl ha hlink hn hok hright hwin hwait hroom hlane hk
    refine ⟨r, _, rfl, ?_⟩
    rw [hx]
    exact ⟨rfl, hb, haddr, hidx, rfl, rfl, rfl⟩
  case refine_5 =>
    intro c a b l s hr hs hl ha hn hq hp
    refine ⟨_, next_congr s (descStart_limit hr hs hl ha hn hq), ?_⟩
    rw [Dev.setSchan_schan, if_pos rfl]
    exact SChan.fault_running hs hp ..
  case refine_6 =>
    intro c a b l s hr hs hl ha hlink hn hok hp
    refine ⟨_, next_congr s (descStart_invalid hr hs hl ha hlink hn hok), ?_⟩
    rw [Dev.setSchan_schan, if_pos rfl]
    exact SChan.fault_running hs hp ..
  case refine_7 =>
    intro c v s hk hs hv hread
    have hcount := verifyNext_counts (F := s.fuse) (d := s.dev.readBack c.val) (c := c.val) (v := v) (by rw [Dev.readBack_schan]; exact hv)
    rw [Dev.readBack_schan] at hcount
    refine ⟨_, next_congr s (sourceReturn_verify hk hs hv hread), ?_⟩
    rw [Dev.pump_schan]
    exact hcount
  case refine_8 =>
    intro c v r x y z d d1 s hx hk hs hr he hsrc hy hread hd hpeek hmore
    subst hx hy
    have hd' : d = s.dev.readBack c.val := hd
    subst hd'
    refine ⟨_, next_congr s ((sourceReturn_stream hk hs hread).trans (congrArg (fun e : Dev => e.pump c.val)
      (sourceNext_joins (r := r) ?_ ?_ he ?_ ?_ hmore))), ?_⟩
    · rw [Dev.readBack_schan]
      exact hk
    · rw [Dev.readBack_schan]
      exact hr
    · rw [Dev.readBack_schan]
      exact hsrc
    · rw [Dev.readBack_schan]
      exact hpeek
    · rw [Dev.pump_schan, Dev.setSchan_schan, if_pos rfl]
      rfl
  case refine_9 =>
    intro c r a s hk hr he hc ha hfull hsrc
    exact ⟨_, rfl, outWrite_full hk hr he hc ha rfl hfull hsrc⟩
  case refine_10 =>
    intro c r s hk hr he hc hf
    refine ⟨_, rfl, ?_⟩
    rw [confirmed_ends hk hr he hc hf]
    exact ⟨rfl, rfl, rfl⟩
  case refine_11 =>
    intro c why r s hs hr he hc hw hn hp
    refine ⟨_, next_congr s (outFail_confirming hs hr he hc hw hn), ?_, ?_, rfl⟩
    · rw [Dev.setSchan_schan, if_pos rfl]
      exact (SChan.fault_running (x := (s.dev.schan c.val).mapRun r.idx _) hs hp 5 r.lastAddr false (descOf r.desc).tag).1
    · rw [Dev.setSchan_schan, if_pos rfl]
      exact (SChan.fault_running (x := (s.dev.schan c.val).mapRun r.idx _) hs hp 5 r.lastAddr false (descOf r.desc).tag).2
  case refine_12 =>
    intro c m s hs hk hr hl hp hm hsilent
    have hloud : s.dev.Loud := hsilent
    obtain ⟨result, hend⟩ := listEnd_done hs hk hr hl hp hm (hloud.cmd hm)
    have hbefore : (((s.dev.setSchan c.val (s.dev.schan c.val).endedWell).count 0x242 0).icu c.val).Loud :=
      hloud.of_lci (by rw [Dev.icu_lci, Dev.count_lci, Dev.setSchan_lci])
    have hcmd : (((s.dev.setSchan c.val (s.dev.schan c.val).endedWell).count 0x242 0).icu c.val).cmd (s.dev.schan c.val).handle = some m := by
      rw [Dev.icu_cmd, Dev.count_cmd, Dev.setSchan_cmd, hm]
    refine ⟨result, _, next_congr s ((congrArg (silentOut s.fuse) hend).trans (silentOut_of_none (hbefore.finish _ _ _ _))), ?_, ?_,
      Dev.finish_completed hcmd (hloud.cmd hm) ..⟩
    · rw [Dev.schan_same c.val ((Dev.finish_touches ..).same .str (by decide)), Dev.icu_schan, Dev.count_schan, Dev.setSchan_schan, if_pos rfl]
      rfl
    · rw [Dev.schan_same c.val ((Dev.finish_touches ..).same .str (by decide)), Dev.icu_schan, Dev.count_schan, Dev.setSchan_schan, if_pos rfl]
      rfl

end Sys2Proof.Machine

/-!
PROOFS. O41 (R29, R31, R36, R39, R50, R52, R55): links, decoders, GPF, IDE and DOE.
-/
namespace Sys2Proof.Machine

section
variable {F : Fuses} {d : Dev} {h : Head}

/-! ## Links -/

theorem HeadState.setLog_link (x : HeadState) (n : LogName) (l : EvLog) : (x.setLog n l).linkUp = x.linkUp ∧ (x.setLog n l).lstate = x.lstate ∧
    (x.setLog n l).cxlMem = x.cxlMem ∧ (x.setLog n l).ideOn = x.ideOn ∧ (x.setLog n l).ideSecure = x.ideSecure := by
  cases n <;> exact ⟨rfl, rfl, rfl, rfl, rfl⟩

/-- An event record changes the log of its own head alone (R308). -/
theorem Dev.post_head (d : Dev) (h : Head) (n : LogName) (k : EvKind) (arg : Nat) (g : Head) : (d.post h n k arg).head g =
    if g = h then (d.head h).setLog n (((d.head h).log n).add k arg d.tether.now) else d.head g := by
  unfold Dev.post
  dsimp only
  generalize byteOf (d.head h).evPolicy _ = p
  split
  · rw [Dev.head_same g ((Dev.msixSend_touches ..).same .a (by decide)) ((Dev.msixSend_touches ..).same .b (by decide)), Dev.setHead_head]
  · rw [Dev.setHead_head]

/-- What of a head's state a link that is down leaves (R36, R52). -/
def HeadState.Down (x : HeadState) : Prop :=
  x.linkUp = false ∧ x.lstate = 4 ∧ x.cxlMem = false ∧ x.ideOn = false ∧ x.ideSecure = []

theorem HeadState.Down.setLog {x : HeadState} (hx : x.Down) (n : LogName) (l : EvLog) : (x.setLog n l).Down := by
  obtain ⟨h1, h2, h3, h4, h5⟩ := x.setLog_link n l
  unfold HeadState.Down
  rw [h1, h2, h3, h4, h5]
  exact hx

theorem Dev.post_down (hd : (d.head h).Down) (g : Head) (n : LogName) (k : EvKind) (arg : Nat) : ((d.post g n k arg).head h).Down := by
  rw [Dev.post_head]
  split
  next hg =>
    subst hg
    exact hd.setLog ..
  next => exact hd

theorem Dev.linkDown_down (d : Dev) (h : Head) : ((d.linkDown h).head h).Down := by
  unfold Dev.linkDown
  dsimp only
  rw [Dev.linkNoted_head]
  cases h <;> exact ⟨rfl, rfl, rfl, rfl, rfl⟩

/-- The pairs of a head that is lost move to the other, and what their completions may have lost goes out again (R36, R293). -/
def Dev.pairsMoved (d e : Dev) (F : Fuses) (h : Head) : Dev :=
  ((((List.range 64).filter fun n => decide (pairHeadOf F d n = h) && !(d.qp n).moved && d.qpOn n).flatMap fun n =>
    (d.qp n).recent.filter fun r => decide (d.tether.now < r.2.2 + 1000000)).foldl (fun d r => d.emit (.hostWrite (otherHead h) r.1 r.2.1))
    (((List.range 64).filter fun n => decide (pairHeadOf F d n = h) && !(d.qp n).moved && d.qpOn n).foldl
      (fun d n => d.setQp n { d.qp n with moved := true }) e))

/-- A bonded pair's port is marked as lost until both heads have been reset (R36). -/
def Dev.lossNoted (d : Dev) : Dev :=
  { d with pwr := { d.pwr with portLost := true }, a := { d.a with resetSince := false }, b := { d.b with resetSince := false } }

theorem portLost_eq (hm : portMode F d = .bonded) (ho : (d.head (otherHead h)).linkUp = true) (hl : d.pwr.portLost = false) :
    portLost F d h = Dev.notice F (d.pairsMoved (((d.linkDown h).event F 0x2006 (hIdx h)).post (otherHead h) .warn .portLost (hIdx h)) F h).lossNoted :=
  if_neg (by simp [hm, ho, hl])

theorem Dev.pairsMoved_touches (d e : Dev) (h : Head) : Touches [.lci, .out] e (d.pairsMoved e F h) := by
  unfold Dev.pairsMoved
  refine Touches.foldl (fun _ _ => Touches.mono (Dev.emit_touches ..) (by decide)) ?_
  exact Touches.foldl (fun _ _ => Touches.mono (Dev.setQp_touches ..) (by decide)) (Touches.refl _ _)

theorem Dev.lossNoted_down (hd : (d.head h).Down) : (d.lossNoted.head h).Down := by
  cases h <;> exact hd

/-- A lost port of a bonded pair (R36). -/
theorem portLost_parts (hm : portMode F d = .bonded) (ho : (d.head (otherHead h)).linkUp = true) (hl : d.pwr.portLost = false) :
    (portLost F d h).pwr = { d.pwr with portLost := true } ∧ (portLost F d h).a.resetSince = false ∧ (portLost F d h).b.resetSince = false ∧
    ((portLost F d h).head h).Down := by
  rw [portLost_eq hm ho hl]
  generalize hx : ((d.linkDown h).event F 0x2006 (hIdx h)).post (otherHead h) .warn .portLost (hIdx h) = x
  have hpwr : x.pwr = d.pwr := by rw [← hx, Dev.post_pwr, Dev.event_pwr, (Dev.linkDown_touches ..).same .pwr (by decide)]
  have hdown : (x.head h).Down := by
    rw [← hx]
    refine Dev.post_down ?_ ..
    rw [Dev.event_head]
    exact d.linkDown_down h
  have hmoved := d.pairsMoved_touches (F := F) x h
  refine ⟨?_, ?_, ?_, ?_⟩
  · rw [Dev.notice_pwr, Dev.lossNoted, hmoved.same .pwr (by decide), hpwr]
  · rw [Dev.notice_a, Dev.lossNoted]
  · rw [Dev.notice_b, Dev.lossNoted]
  · rw [Dev.notice_head]
    refine Dev.lossNoted_down ?_
    rw [Dev.head_same h (hmoved.same .a (by decide)) (hmoved.same .b (by decide))]
    exact hdown

/-- A link that fails is down, whether the other head takes its traffic or not (R26, R36). -/
theorem portDown_down (d : Dev) (h : Head) : ((portDown F d h).head h).Down := by
  unfold portDown
  split
  next hb =>
    obtain ⟨hm, ho, hl⟩ := hb
    exact (portLost_parts hm ho (by simpa using hl)).2.2.2
  next =>
    dsimp only
    rw [Dev.head_same h ((Dev.faultLevel_touches ..).same .a (by decide)) ((Dev.faultLevel_touches ..).same .b (by decide)), Dev.setHead_head,
      if_pos rfl]
    exact Dev.post_down (by rw [Dev.event_head]; exact d.linkDown_down h) ..

theorem linkState_up (hu : (d.head h).linkUp = true) (st : LinkPower) : linkState F d h st = match st with
    | .l0 => ((d.setHead h { d.head h with lstate := 0, width := (d.head h).fullWidth }).portHeal F).linkNoted h (d.head h).lstate
    | .l0p w =>
      if (w.val = 8 ∨ w.val = 4) ∧ widthCode w.val < (d.head h).fullWidth then
        (d.setHead h { d.head h with lstate := 1, width := widthCode w.val }).linkNoted h (d.head h).lstate
      else d
    | .l11 => (d.setHead h { d.head h with lstate := 2 }).linkNoted h (d.head h).lstate
    | .l12 => (d.setHead h { d.head h with lstate := 3 }).linkNoted h (d.head h).lstate
    | .down => portDown F d h := if_neg (by simp [hu])

theorem Dev.portFound_head (d : Dev) (h : Head) : (d.portFound h).head h = { d.head h with lost := false } := by
  unfold Dev.portFound
  dsimp only
  split
  · rw [Dev.head_same h ((Dev.faultRelease_touches ..).same .a (by decide)) ((Dev.faultRelease_touches ..).same .b (by decide)), Dev.setHead_head,
      if_pos rfl]
  · rw [Dev.setHead_head, if_pos rfl]

/-- A link of at least 8.0 GT/s that trains is up in L0, at its rate and width, and carries CXL.mem (R29, R31). -/
theorem linkTrained_head {rate width : Nat} (hlive : d.live = true) (hpres : presentHead F h = true) (hact : activeHead F d h = true)
    (hdown : d.pwr.downing = none) (hflush : d.pwr.flush = none) (hcold : (d.head h).d3cold = false) (hlo : 2 ≤ rate) (hhi : rate ≤ 5)
    (hw : widthCode width ≠ 0) (hmax : width ≤ d.maxWidth h) : (linkTrained F d h rate width).head h =
      { d.head h with
        linkUp := true
        rate := rate
        width := widthCode width
        fullWidth := widthCode width
        flit256 := decide (4 ≤ rate)
        lstate := 0
        cxlMem := decide (2 ≤ rate)
        msixOn := true
        lost := false } := by
  have hpass : linkTrained F d h rate width = _ := if_neg (by
    rw [hlive, hpres, hact, hdown, hflush, hcold]
    simp [hw]
    omega)
  rw [hpass]
  dsimp only
  rw [if_neg (by omega), Dev.linkNoted_head, Dev.portFound_head, Dev.portHeal_head, Dev.setHead_head, if_pos rfl]

end

section
variable {F : Fuses} {d : Dev} {h : Head}

/-! ## HDM decoders -/

/-- The decoder that a commit leaves (R39). -/
def committedDecoder (F : Fuses) (d : Dev) (h : Head) (i base size skip : Nat) (lock : Bool) (ways gran pos : Nat) : Decoder :=
  let dpa := decoderDpa F d h i skip
  let overlap := ((d.head h).decoders.filter fun e => e.1 != i && e.2.committed).any fun e => decide (base < e.2.base + e.2.size ∧ e.2.base < base + size)
  let bad := decide (base % 2 ^ 28 ≠ 0 ∨ size % 2 ^ 28 ≠ 0 ∨ size = 0 ∨ ways ∉ decoderWays ∨ gran ∉ decoderGrans ∨ ways ≤ pos) || overlap
  let out := reachesOther F d h dpa (dpa + size / ways)
  { base := base, size := size, skip := skip, dpa := dpa, committed := !bad && !out, err := bad || out
    lock := lock && !bad && !out, ways := ways, gran := gran, pos := pos }

/-- Whatever a commit reports, the head's decoder is the one it leaves. -/
theorem decoderCommit_decoders {i : Nat} (hlive : d.live = true) (hpres : presentHead F h = true)
    (hold : (Tbl.look {} (d.head h).decoders i).committed = false) (base size skip : Nat) (lock : Bool) (ways gran pos : Nat) :
    ((decoderCommit F d h i base size skip lock ways gran pos).head h).decoders =
      Tbl.put {} (d.head h).decoders i (committedDecoder F d h i base size skip lock ways gran pos) := by
  have hpass : decoderCommit F d h i base size skip lock ways gran pos = _ := if_neg (by simp [hlive, hpres, hold])
  rw [hpass]
  split
  · rw [Dev.event_head, Dev.setHead_head, if_pos rfl]
    rfl
  · split
    · rw [Dev.event_head]
      cases h <;> rfl
    · rw [Dev.setHead_head, if_pos rfl]
      rfl

/-- A decoder that keeps the rules is committed with its range (R37, R39). -/
theorem committedDecoder_good {i base size skip ways gran pos : Nat} (lock : Bool) (hw : ways ∈ decoderWays) (hg : gran ∈ decoderGrans)
    (hp : pos < ways) (hb : base % 2 ^ 28 = 0) (hs : size % 2 ^ 28 = 0) (hne : size ≠ 0)
    (hover : ∀ e ∈ (d.head h).decoders, e.1 ≠ i → e.2.committed = true → base + size ≤ e.2.base ∨ e.2.base + e.2.size ≤ base)
    (hout : reachesOther F d h (decoderDpa F d h i skip) (decoderDpa F d h i skip + size / ways) = false) :
    committedDecoder F d h i base size skip lock ways gran pos = ⟨base, size, skip, decoderDpa F d h i skip, true, false, lock, ways, gran, pos⟩ := by
  have hoverlap : (((d.head h).decoders.filter fun e => e.1 != i && e.2.committed).any fun e =>
      decide (base < e.2.base + e.2.size ∧ e.2.base < base + size)) = false := by
    rw [List.any_eq_false]
    intro e he
    obtain ⟨hmem, hcond⟩ := List.mem_filter.1 he
    obtain ⟨h1, h2⟩ := Bool.and_eq_true_iff.1 hcond
    have := hover e hmem (by simpa using h1) h2
    simp only [decide_eq_true_eq, not_and]
    omega
  have hform : decide (base % 2 ^ 28 ≠ 0 ∨ size % 2 ^ 28 ≠ 0 ∨ size = 0 ∨ ways ∉ decoderWays ∨ gran ∉ decoderGrans ∨ ways ≤ pos) = false := by
    rw [decide_eq_false_iff_not]
    exact fun h' => by
      rcases h' with h' | h' | h' | h' | h' | h'
      · exact h' hb
      · exact h' hs
      · exact hne h'
      · exact h' hw
      · exact h' hg
      · omega
  unfold committedDecoder
  dsimp only
  rw [hoverlap, hform, hout]
  cases lock <;> rfl

/-- A decoder against the form that R39 requires ends in error. -/
theorem committedDecoder_bad {i base size skip ways gran pos : Nat} (lock : Bool) (hbad : base % 2 ^ 28 ≠ 0 ∨ size % 2 ^ 28 ≠ 0 ∨ size = 0 ∨
      ways ∉ decoderWays ∨ gran ∉ decoderGrans ∨ ways ≤ pos) :
    (committedDecoder F d h i base size skip lock ways gran pos).committed = false ∧
    (committedDecoder F d h i base size skip lock ways gran pos).err = true := by
  unfold committedDecoder
  dsimp only
  rw [decide_eq_true hbad]
  exact ⟨rfl, rfl⟩

theorem decoderUncommit_open {i : Nat} {x : Decoder} (hx : Tbl.look {} (d.head h).decoders i = x) (hc : x.committed = true) (hl : x.lock = false) :
    decoderUncommit d h i = d.setHead h { d.head h with decoders := Tbl.put {} (d.head h).decoders i { x with committed := false, err := false } } := by
  subst hx
  exact if_neg (by simp [hc, hl])

/-! ## GPF, IDE and DOE -/

/-- Does an entry of Gondola owe a host an answer for a write accepted by a time (R50)? -/
def Dev.owes (d : Dev) (t : Nat) : Bool := (d.gon.staged ++ d.gon.wb).any fun e => match e.2 with
  | some g => g.acks.any fun a => match a with
    | .host _ _ u => decide (u ≤ t)
    | .run _ _ => false
  | none => false

theorem Dev.gpfSettle_eq (d : Dev) : d.gpfSettle = (d.gon.gpfWait.filter fun w => !d.owes w.2).foldl (fun d w => d.emit (.gpfDone w.1))
    { d with gon := { d.gon with
        gpfWait := d.gon.gpfWait.filter fun w => d.owes w.2
        gpf := !(d.gon.gpfWait.filter fun w => d.owes w.2).isEmpty } } := rfl

/-- What waits for GPF once a head asks for phase 2 (R50). -/
def Dev.gpfAsked (d : Dev) (h : Head) : Dev :=
  { d with gon := { d.gon with gpfWait := d.gon.gpfWait ++ [(h, d.tether.now)], gpf := true } }

theorem gpfPhase2_up (hu : (d.head h).linkUp = true) : gpfPhase2 d h = (d.gpfAsked h).gpfSettle := if_neg (by simp [hu])

/-- With Gondola empty, phase 2 is answered at once (R50). -/
theorem Dev.gpfAsked_answered (hs : d.gon.staged = []) (hw : d.gon.wb = []) (hg : d.gon.gpfWait = []) :
    (d.gpfAsked h).gpfSettle.out = .gpfDone h :: d.out ∧ (d.gpfAsked h).gpfSettle.gon.gpfWait = [] := by
  have howes (t : Nat) : (d.gpfAsked h).owes t = false := by
    change ((d.gon.staged ++ d.gon.wb).any _) = false
    rw [hs, hw]
    rfl
  have hwait : (d.gpfAsked h).gon.gpfWait = [(h, d.tether.now)] := by
    rw [Dev.gpfAsked, hg]
    rfl
  rw [Dev.gpfSettle_eq, hwait]
  simp only [howes, Bool.not_false, List.filter_true, List.filter_false, List.foldl_cons, List.foldl_nil]
  exact ⟨rfl, rfl⟩

/-- While an earlier write waits, phase 2 waits too (R50). -/
theorem Dev.gpfAsked_waits {n u : Nat} {t : BitVec 16} {x : Head} {g : GEntry} (hmem : (n, some g) ∈ d.gon.staged ++ d.gon.wb) (hack : .host x t u ∈ g.acks)
    (hle : u ≤ d.tether.now) : (h, d.tether.now) ∈ (d.gpfAsked h).gpfSettle.gon.gpfWait ∧ (d.gpfAsked h).gpfSettle.gon.gpf = true := by
  have howes : (d.gpfAsked h).owes d.tether.now = true :=
    List.any_eq_true.2 ⟨_, hmem, List.any_eq_true.2 ⟨_, hack, decide_eq_true hle⟩⟩
  have hin : (h, d.tether.now) ∈ (d.gpfAsked h).gon.gpfWait.filter fun w => (d.gpfAsked h).owes w.2 :=
    List.mem_filter.2 ⟨List.mem_append_right _ (List.mem_singleton.2 rfl), howes⟩
  rw [Dev.gpfSettle_eq, Dev.emit_foldl_gon]
  exact ⟨hin, by simpa using List.ne_nil_of_mem hin⟩

/-- A key that is set over the Secured session of the head's DOE secures its stream (R52). -/
theorem ideKm_open {set : Bool} {stream : Nat} (hu : (d.head h).linkUp = true) (hopen : (d.head h).doeOpen = true) (hs : stream ≤ 5) :
    ideKm d h set stream = d.setHead h { d.head h with
      ideKeys := (d.head h).ideKeys.filter (· != 2 * stream + b2n set) ++ [2 * stream + b2n set]
      ideOn := (d.head h).ideOn || stream == 0
      ideSecure := if stream = 0 then (d.head h).ideSecure else (d.head h).ideSecure.filter (· != stream) ++ [stream] } :=
  if_neg (by
    rw [hu, hopen]
    exact not_or.2 ⟨by decide, not_or.2 ⟨by decide, by rw [show limits.linkStreams + limits.selectiveStreams = 5 from rfl]; omega⟩⟩)

/-- A MAC failure of a stream that has a key takes the link down, and no stream of it stays secure (R52). -/
theorem ideFail_down {stream k : Nat} (hu : (d.head h).linkUp = true) (hk : k ∈ (d.head h).ideKeys) (hs : k / 2 = stream) :
    ((ideFail F d h stream).head h).Down := by
  have hany : ((d.head h).ideKeys.any fun k => k / 2 == stream) = true := List.any_eq_true.2 ⟨k, hk, by simpa using hs⟩
  have hother : otherHead h ≠ h := by cases h <;> decide
  have hpass : ideFail F d h stream = _ := if_neg (by simp [hu, hany])
  rw [hpass]
  generalize hx : (d.setHead h { d.head h with
    ideOn := (d.head h).ideOn && decide (stream ≠ 0), ideSecure := (d.head h).ideSecure.filter (· != stream) }).event F 0x2005 (hIdx h) = x
  have hpwr : x.pwr = d.pwr := by rw [← hx, Dev.event_pwr, Dev.setHead_pwr]
  have hup : (x.head (otherHead h)).linkUp = (d.head (otherHead h)).linkUp := by
    rw [← hx, Dev.event_head, Dev.setHead_head, if_neg hother]
  split
  next hb =>
    obtain ⟨hm, ho, hl⟩ := hb
    exact (portLost_parts ((portMode_same F hpwr).trans hm) (hup.trans ho) (by rw [hpwr]; simpa using hl)).2.2.2
  next => exact x.linkDown_down h

/-- DOE's answer while the link is up (R29, R53, R328). -/
theorem doeAnswer_discovery (hu : (d.head h).linkUp = true) :
    doeAnswer F d h .discovery 0 = (d.icu (69 + hIdx h)).emit (.doe h .discovery [1, 0, 0, 1]) := by
  refine (if_neg ?_).trans rfl
  rw [Dev.icu_head, hu]
  decide

theorem doeAnswer_cmaSpdm (hu : (d.head h).linkUp = true) (arg : Nat) :
    doeAnswer F d h .cmaSpdm arg = (d.icu (69 + hIdx h)).emit (.doe h .cmaSpdm (measurement F (d.icu (69 + hIdx h)) arg)) := by
  refine (if_neg ?_).trans rfl
  rw [Dev.icu_head, hu]
  decide

theorem doeAnswer_other (hu : (d.head h).linkUp = true) (arg : Nat) : doeAnswer F d h .other arg = d.icu (69 + hIdx h) := by
  refine (if_neg ?_).trans rfl
  rw [Dev.icu_head, hu]
  decide

/-- Secured CMA/SPDM opens the head's session with argument 0, and argument 1 ends it. -/
theorem doeAnswer_session (hu : (d.head h).linkUp = true) :
    ((doeAnswer F d h .securedSpdm 0).head h).doeOpen = true ∧ ((doeAnswer F d h .securedSpdm 1).head h).doeOpen = false := by
  have hup : ¬ (!((d.icu (69 + hIdx h)).head h).linkUp) = true := by
    rw [Dev.icu_head, hu]
    decide
  constructor
  · have hpass : doeAnswer F d h .securedSpdm 0 = _ := if_neg hup
    rw [hpass]
    rw [if_pos rfl, Dev.emit_head, Dev.setHead_head, if_pos rfl]
  · have hpass : doeAnswer F d h .securedSpdm 1 = _ := if_neg hup
    rw [hpass]
    rw [if_neg (by decide)]
    split
    next hclosed => simpa using hclosed
    next => rw [if_pos rfl, Dev.emit_head, Dev.setHead_head, if_pos rfl]

end

/-- Settles O41. -/
theorem linksAndDecoders : Obligations.LINKS_AND_DECODERS := by
  unfold Obligations.LINKS_AND_DECODERS
  refine ⟨?_, ?_, ?_, ?_, ?_, ?_, ?_, ?_, ?_, ?_, ?_, ?_, ?_⟩
  case refine_1 =>
    intro h rate width s hlive hpres hact hdown hflush hcold hlo hhi hw hmax
    refine ⟨_, rfl, ?_⟩
    rw [linkTrained_head hlive hpres hact hdown hflush hcold hlo hhi hw hmax]
    exact ⟨rfl, rfl, rfl, rfl, decide_eq_true hlo, rfl⟩
  case refine_2 =>
    intro h s hu hl
    refine ⟨⟨_, next_congr s (linkState_up hu .l0), ?_⟩, ⟨_, next_congr s (linkState_up hu .l11), ?_⟩,
      ⟨_, next_congr s (linkState_up hu .l12), ?_⟩, ⟨_, next_congr s (linkState_up hu .down), ?_⟩⟩
    · rw [Dev.linkNoted_head, Dev.portHeal_head, Dev.setHead_head, if_pos rfl]
    · rw [Dev.linkNoted_head, Dev.setHead_head, if_pos rfl]
    · rw [Dev.linkNoted_head, Dev.setHead_head, if_pos rfl]
    · obtain ⟨hup, hst, hmem, -, -⟩ := portDown_down (F := s.fuse) s.dev h
      exact ⟨hup, hst, hmem⟩
  case refine_3 =>
    intro h s hm ho hl
    obtain ⟨hpwr, ha, hb, -⟩ := portLost_parts hm ho hl
    exact ⟨_, rfl, hpwr, ha, hb⟩
  case refine_4 =>
    intro h k base size skip lock ways gran pos s hlive hpres hold hw hg hp hb hs hne hover hout
    refine ⟨_, rfl, ?_⟩
    rw [decoderCommit_decoders hlive hpres hold, Tbl.look_put_same]
    exact committedDecoder_good lock hw hg hp hb hs hne hover hout
  case refine_5 =>
    intro h k base size skip lock ways gran pos s hlive hpres hold hbad
    refine ⟨_, rfl, ?_⟩
    rw [decoderCommit_decoders hlive hpres hold, Tbl.look_put_same]
    exact committedDecoder_bad lock hbad
  case refine_6 =>
    intro h k x s hx hc hl
    refine ⟨_, next_congr s (decoderUncommit_open hx hc hl), ?_⟩
    rw [Dev.setHead_head, if_pos rfl, Tbl.look_put_same]
  case refine_7 => exact fun h k s hl => next_congr s (if_pos (Or.inl hl))
  case refine_8 =>
    intro h s hu hs hw hg
    exact ⟨_, next_congr s (gpfPhase2_up hu), Dev.gpfAsked_answered hs hw hg⟩
  case refine_9 =>
    intro h x n u g t s hu hmem hack hle
    exact ⟨_, next_congr s (gpfPhase2_up hu), Dev.gpfAsked_waits hmem hack hle⟩
  case refine_10 =>
    intro h set stream s hu hopen hs
    refine ⟨_, next_congr s (ideKm_open hu hopen hs), ?_⟩
    rw [Dev.setHead_head, if_pos rfl]
    refine ⟨List.mem_append_right _ (List.mem_singleton.2 rfl), fun h0 => ?_, fun h0 => ?_⟩
    · rw [h0]
      exact Bool.or_true _
    · dsimp only
      rw [if_neg fun h' : stream.toNat = 0 => h0 (BitVec.eq_of_toNat_eq h')]
      exact List.mem_append_right _ (List.mem_singleton.2 rfl)
  case refine_11 => exact fun h set stream s hopen => next_congr s (if_pos (Or.inr (Or.inl (by rw [hopen]; rfl))))
  case refine_12 =>
    intro h stream k s hu hk hs
    obtain ⟨hup, -, -, hon, hsec⟩ := ideFail_down (F := s.fuse) hu hk hs
    exact ⟨_, rfl, hon, hsec, hup⟩
  case refine_13 =>
    intro h s hu
    refine ⟨⟨_, next_congr s (doeAnswer_discovery hu), ?_⟩, fun arg => ⟨_, measurement s.fuse (s.dev.icu (69 + hIdx h)) arg.toNat,
      next_congr s (doeAnswer_cmaSpdm hu arg.toNat), ?_, ?_⟩,
      ⟨_, rfl, (doeAnswer_session hu).1⟩, ⟨_, rfl, (doeAnswer_session hu).2⟩, fun arg => ⟨_, next_congr s (doeAnswer_other hu arg.toNat), Dev.icu_out ..⟩⟩
    · rw [Dev.emit, Dev.icu_out]
    · rw [Dev.emit, Dev.icu_out]
    · rw [Dev.emit_head, Dev.icu_head]

end Sys2Proof.Machine

/-!
PROOFS. O42 (R57): a CXL Reset of a head that has had a conventional reset since a lock was set on a window of both heads. The lock opens, and what the
head had recorded for it is cleared: the head's state does not stay as it was.
-/
namespace Sys2Proof.Machine

/-- Window 0 names both heads of a bonded pair and is locked; head A has had its conventional reset since. -/
def lockSeenByA : State :=
  { State.reset with
    fuse := { State.reset.fuse with cls := .l }
    dev := { State.reset.dev with
      pwr := { State.reset.dev.pwr with svc := .full, board := { State.reset.dev.pwr.board with mode := .bonded } }
      regs := [(LNK_TWIN_CTL 0, some 0x80000010)]
      a := { State.reset.dev.a with lockSeen := [0] } } }

theorem lockSeenByA_opened : (cxlResetHead lockSeenByA.fuse lockSeenByA.dev .a).a.lockSeen = [] := by decide +kernel

/-- Refutes O42: a CXL Reset opens the locks of the windows that name its head, and what the head had recorded toward them goes (R57). In `lockSeenByA`
head A has seen the lock of window 0, so its state changes. -/
theorem not_headStatesAndResets : ¬ Obligations.HEAD_STATES_AND_RESETS := by
  unfold Obligations.HEAD_STATES_AND_RESETS
  rintro ⟨-, -, -, h, -⟩
  obtain ⟨-, -, e, he, hhead, -⟩ := h .a lockSeenByA rfl rfl rfl
  have hdev : cxlResetHead lockSeenByA.fuse lockSeenByA.dev .a = e := next_inj lockSeenByA he
  have hseen : e.a.lockSeen = [0] := congrArg HeadState.lockSeen hhead
  rw [← hdev, lockSeenByA_opened] at hseen
  cases hseen

end Sys2Proof.Machine

/-!
PROOFS. O43 (R309 to R314, R316): core pairs, watchdogs, the failover and semaphores.
-/
namespace Sys2Proof.Machine

/-- A table changed throughout: the value of a key in it that changes to another than the default. -/
theorem Tbl.look_mapAll {α : Type} [DecidableEq α] (d : α) (f : Nat → α → α) {t : Tbl α} {k : Nat} {v : α} (hv : Tbl.look d t k = v) (hd : v ≠ d)
    (hf : f k v ≠ d) : Tbl.look d (Tbl.mapAll d t f) k = f k v := by
  induction t with
  | nil => exact absurd hv.symm hd
  | cons e t ih =>
    obtain ⟨j, w⟩ := e
    rw [Tbl.look] at hv
    rw [Tbl.mapAll, List.map_cons]
    split at hv
    next hj =>
      subst hj hv
      rw [List.filter_cons_of_pos (by simpa using hf), Tbl.look, if_pos rfl]
    next hj =>
      rw [List.filter_cons]
      split
      · rw [Tbl.look, if_neg hj]
        exact ih hv
      · exact ih hv

section
variable {F : Fuses} {d : Dev} {p : PairId}

theorem otherPair_ne (p : PairId) : otherPair p ≠ p := by cases p <;> decide

/-! ## The fence -/

theorem Dev.pendAll_touches (l : List Nat) (d : Dev) : Touches [.regs] d (l.foldl (fun d n => d.setRbit (ICU_PEND (n / 32)) (n % 32) true) d) :=
  Touches.foldl (fun _ _ => Dev.setRbit_touches ..) (Touches.refl _ _)

/-- The state of a pair once it is fenced (R311). -/
def Pair.out (x : Pair) : Pair := { x with ok := false, failed := true, fenced := true, stack := [] }

theorem Dev.fence_cores (d : Dev) (p : PairId) : (d.fence p).cores = (d.setPair p (d.pair p).out).cores :=
  (Dev.pendAll_touches ..).same .cores (by decide)

theorem Dev.fence_pair (d : Dev) (p q : PairId) : (d.fence p).pair q = if q = p then (d.pair p).out else d.pair q := by
  rw [← Dev.setPair_pair]
  cases q
  · exact congrArg Cores.a (d.fence_cores p)
  · exact congrArg Cores.b (d.fence_cores p)

/-- What a fence leaves of the record of the pairs. -/
theorem Dev.fence_rest (d : Dev) (p : PairId) : (d.fence p).cores.active = d.cores.active ∧ (d.fence p).cores.standbyOk = d.cores.standbyOk ∧
    (d.fence p).cores.dead = d.cores.dead := by
  rw [Dev.fence_cores]
  cases p <;> exact ⟨rfl, rfl, rfl⟩

/-- The semaphores of a fenced pair are free and marked abandoned (R311, R316). -/
theorem Dev.fence_sem {n : Nat} (h : (d.sem n).owner = pIdx p + 1) : (d.fence p).sem n = ⟨0, true⟩ := by
  have hsems : (d.fence p).sems = ((d.setPair p (d.pair p).out).semsAbandon (pIdx p + 1)).sems := (Dev.pendAll_touches ..).same .sems (by decide)
  have hne : d.sem n ≠ {} := by
    intro hd
    rw [hd] at h
    cases h
  have hset : (d.setPair p (d.pair p).out).sems = d.sems := (Dev.setPair_touches ..).same .sems (by decide)
  rw [Dev.sem, hsems, Dev.semsAbandon]
  dsimp only
  rw [hset, Tbl.look_mapAll {} _ (v := d.sem n) rfl hne (by rw [if_pos h]; decide), if_pos h]

/-! ## A pair fails -/

/-- The device as the failed pair is fenced and its failure recorded (R311). -/
def Dev.fenced (d : Dev) (F : Fuses) (p : PairId) (cause : Nat) : Dev := (d.fence p).event F 0x6001 (pIdx p + 2 * cause)

theorem pairFail_running (h : (d.pair p).runs = true) (cause : Nat) : pairFail F d p cause =
    if p = (d.fenced F p cause).cores.active then
      if ((d.fenced F p cause).cores.standbyOk ∨ ((d.fenced F p cause).pair (otherPair p)).halted) ∧ ((d.fenced F p cause).pair (otherPair p)).runs then
        { d.fenced F p cause with cores := { (d.fenced F p cause).cores with cause := cause, takeover := true } }
      else Dev.faultLevel F { d.fenced F p cause with cores := { (d.fenced F p cause).cores with cause := cause, dead := true, standbyOk := false } }
    else if (d.fenced F p cause).cores.takeover then
      Dev.faultLevel F { d.fenced F p cause with
        cores := { (d.fenced F p cause).cores with cause := cause, takeover := false, dead := true, standbyOk := false } }
    else { d.fenced F p cause with cores := { (d.fenced F p cause).cores with cause := cause } } := if_neg (by simp [h])

theorem Dev.pair_of_cores {d e : Dev} (h : e.cores = d.cores) (p : PairId) : e.pair p = d.pair p := by
  cases p
  · exact congrArg Cores.a h
  · exact congrArg Cores.b h

/-- However a failure ends, the device is the fenced one with a record of the pairs that names the cause. -/
theorem pairFail_fenced (h : (d.pair p).runs = true) (cause : Nat) : (pairFail F d p cause).cores.cause = cause ∧
    (∀ q, (pairFail F d p cause).pair q = (d.fenced F p cause).pair q) ∧ (pairFail F d p cause).sems = (d.fenced F p cause).sems ∧
    (pairFail F d p cause).tether = (d.fenced F p cause).tether := by
  rw [pairFail_running h]
  split
  · split
    · exact ⟨rfl, fun q => by cases q <;> rfl, rfl, rfl⟩
    · rw [Dev.faultLevel_sems, Dev.faultLevel_tether]
      exact ⟨by rw [Dev.faultLevel_cores], fun q => (Dev.pair_of_cores (Dev.faultLevel_cores ..) q).trans (by cases q <;> rfl), rfl, rfl⟩
  · split
    · rw [Dev.faultLevel_sems, Dev.faultLevel_tether]
      exact ⟨by rw [Dev.faultLevel_cores], fun q => (Dev.pair_of_cores (Dev.faultLevel_cores ..) q).trans (by cases q <;> rfl), rfl, rfl⟩
    · exact ⟨rfl, fun q => by cases q <;> rfl, rfl, rfl⟩

theorem Dev.fenced_cores (d : Dev) (p : PairId) (cause : Nat) : (d.fenced F p cause).cores = (d.fence p).cores := Dev.event_cores ..

/-- A failed pair is fenced, its semaphores are abandoned and the cause is recorded; time has not moved (R311). -/
theorem pairFail_parts (h : (d.pair p).runs = true) (cause : Nat) : (pairFail F d p cause).cores.cause = cause ∧
    (pairFail F d p cause).pair p = (d.pair p).out ∧ (∀ n, (d.sem n).owner = pIdx p + 1 → (pairFail F d p cause).sem n = ⟨0, true⟩) ∧
    (pairFail F d p cause).tether = d.tether := by
  obtain ⟨hcause, hpair, hsems, htether⟩ := pairFail_fenced (F := F) h cause
  refine ⟨hcause, ?_, fun n hn => ?_, ?_⟩
  · rw [hpair, Dev.pair_of_cores (d.fenced_cores p cause), Dev.fence_pair, if_pos rfl]
  · rw [Dev.sem, hsems, Dev.fenced, Dev.event_sems]
    exact Dev.fence_sem hn
  · rw [htether, Dev.fenced, Dev.event_tether]
    exact ((Dev.pendAll_touches ..).same .tether (by decide)).trans ((Dev.setPair_touches ..).same .tether (by decide))

/-- The active pair fails while the standby holds a checkpoint: the standby is to take over (R313). -/
theorem pairFail_standby (hact : p = d.cores.active) (h : (d.pair p).runs = true) (hok : d.cores.standbyOk = true)
    (ho : (d.pair (otherPair p)).runs = true) (cause : Nat) :
    (pairFail F d p cause).cores.takeover = true ∧ (pairFail F d p cause).cores.dead = d.cores.dead := by
  obtain ⟨hactive, hstandby, hdead⟩ := d.fence_rest p
  have hother : (d.fenced F p cause).pair (otherPair p) = d.pair (otherPair p) := by
    rw [Dev.pair_of_cores (d.fenced_cores p cause), Dev.fence_pair, if_neg (otherPair_ne p)]
  rw [pairFail_running h, if_pos (by rw [Dev.fenced_cores, hactive]; exact hact),
    if_pos ⟨Or.inl (by rw [Dev.fenced_cores, hstandby]; exact hok), by rw [hother]; exact ho⟩]
  exact ⟨rfl, by rw [Dev.fenced_cores, hdead]⟩

/-- The active pair fails and no other runs: firmware stops, and FAULT_N is driven low (R314). -/
theorem pairFail_last (hact : p = d.cores.active) (h : (d.pair p).runs = true) (ho : (d.pair (otherPair p)).runs = false) (cause : Nat) :
    (pairFail F d p cause).cores.dead = true ∧ (pairFail F d p cause).pwr.drive = true := by
  obtain ⟨hactive, -, -⟩ := d.fence_rest p
  have hother : (d.fenced F p cause).pair (otherPair p) = d.pair (otherPair p) := by
    rw [Dev.pair_of_cores (d.fenced_cores p cause), Dev.fence_pair, if_neg (otherPair_ne p)]
  rw [pairFail_running h, if_pos (by rw [Dev.fenced_cores, hactive]; exact hact), if_neg (by rw [hother, ho]; simp)]
  exact ⟨by rw [Dev.faultLevel_cores], by rw [Dev.faultLevel, Dev.forceFlush_pwr, Dev.emit_pwr]⟩

/-! ## Pets, the takeover and checkpoints -/

theorem wdogExpire_running (h : (d.pair p).runs = true) (hh : (d.pair p).halted = false) (hl : d.live = true) :
    wdogExpire F d p = pairFail F (d.advance ((d.pair p).pet + 16000)) p 3 := if_neg (by simp [h, hh, hl])

theorem takeover_ready (ht : d.cores.takeover = true) (hh : (d.pair (otherPair d.cores.active)).halted = false) :
    (takeover F d).cores = { d.cores with
      active := otherPair d.cores.active, standbyOk := false, takeover := false, failovers := min (d.cores.failovers + 1) 255 } := by
  have hpass : takeover F d = _ := if_pos (by simp [ht, hh])
  rw [hpass, Dev.postAll_cores]
  rfl

theorem Dev.checkpoint_saved (hf : d.fwRuns = true) (hl : d.live = true) (hr : (d.pair (otherPair d.cores.active)).runs = true)
    (hh : (d.pair (otherPair d.cores.active)).halted = false) :
    d.checkpoint.cores = { d.cores with lastCheckpoint := d.tether.now, standbyOk := true } := by
  have hpass : d.checkpoint = _ := if_neg (by simp [hf, hl])
  rw [hpass, hr, hh]
  rfl

end

/-- Settles O43. -/
theorem corePairsAndSemaphores : Obligations.CORE_PAIRS_AND_SEMAPHORES := by
  unfold Obligations.CORE_PAIRS_AND_SEMAPHORES
  refine ⟨?_, ?_, ?_, ?_, ?_, ?_, ?_, ?_, ?_, ?_, ?_⟩
  case refine_1 =>
    intro p s h
    obtain ⟨hcause, hpair, -, -⟩ := pairFail_parts (F := s.fuse) h 1
    obtain ⟨hcause', hpair', hsems, -⟩ := pairFail_parts (F := s.fuse) h 2
    refine ⟨⟨_, rfl, ?_, ?_, ?_, hcause⟩, ⟨_, rfl, ?_, ?_, hcause', hsems⟩⟩
    · rw [hpair]
      rfl
    · rw [hpair]
      rfl
    · rw [hpair]
      rfl
    · rw [hpair']
      rfl
    · rw [hpair']
      rfl
  case refine_2 =>
    intro p s h hh hl hlt
    have hrun : ((s.dev.advance ((s.dev.pair p).pet + 16000)).pair p).runs = true := by
      rw [Dev.pair_of_cores (Dev.advance_cores ..), h]
    obtain ⟨hcause, hpair, -, htether⟩ := pairFail_parts (F := s.fuse) hrun 3
    refine ⟨_, next_congr s (wdogExpire_running h hh hl), ?_, hcause, ?_⟩
    · rw [hpair]
      rfl
    · rw [htether, Dev.advance_now]
      omega
  case refine_3 => exact fun p s hact h hok ho => ⟨_, rfl, pairFail_standby hact h hok ho 1⟩
  case refine_4 => exact fun p s hact h ho => ⟨_, rfl, pairFail_last hact h ho 1⟩
  case refine_5 =>
    intro p v s hkey hbit h
    refine ⟨_, next_congr s (if_pos ⟨hkey, hbit, h⟩), ?_, ?_⟩
    · rw [Dev.setPair_pair, if_pos rfl]
    · rw [Dev.setPair_pair, if_neg (otherPair_ne p)]
  case refine_6 => exact fun p v s hkey => next_congr s (if_neg fun h => hkey h.1)
  case refine_7 =>
    intro p s hact ht hh
    subst hact
    exact ⟨_, rfl, takeover_ready ht hh⟩
  case refine_8 =>
    intro s hok hr
    exact ⟨_, next_congr s (if_pos ⟨hok, by rw [hr]; rfl⟩), Dev.icu_cores ..⟩
  case refine_9 => exact fun s hf hl hr hh => ⟨_, rfl, Dev.checkpoint_saved hf hl hr hh⟩
  case refine_10 =>
    intro p n s h
    refine ⟨_, congrArg Host.Outcome.next (if_pos h), ?_, fun m hm => ?_⟩
    · rw [Dev.semAcquire]
      split
      · exact Tbl.look_put_same ..
      · rfl
    · rw [Dev.semAcquire]
      split
      · exact Tbl.look_put_other _ _ _ _ _ hm
      · rfl
  case refine_11 =>
    intro p n s h
    refine ⟨fun ho => ⟨_, (congrArg Host.Outcome.next (if_pos h)).trans (next_congr s (if_pos ho)), ?_, rfl⟩,
      fun ho => ⟨_, (congrArg Host.Outcome.next (if_pos h)).trans (next_congr s (if_neg ho)), Dev.setRbit_sems .., ?_⟩⟩
    · rw [Dev.sem, Tbl.look_put_same]
    · rw [Dev.rbit_setRbit _ _ _ _ (by decide), if_pos ⟨rfl, rfl⟩]

end Sys2Proof.Machine

/-!
PROOFS. Rules about the power supervisor, and O45 (R331 to R336, R361): rails, their faults, the sequence and resets. A channel's fault code stays while
the channel is driven, and no drive makes a channel valid (`Dev.RailsKeep`).
-/
namespace Sys2Proof.Machine

/-! ## The supervisor's record, operation by operation -/

section
variable {F : Fuses} {d : Dev}

theorem Dev.seqCh_of_pwr {d e : Dev} (h : e.pwr = d.pwr) (n : Nat) : e.seqCh n = d.seqCh n := by rw [Dev.seqCh, h, Dev.seqCh]

theorem Dev.setSvc_pwr (d : Dev) (v : Svc) : (d.setSvc F v).pwr = { d.pwr with svc := v } := by
  unfold Dev.setSvc
  dsimp only
  split
  next h => rw [← h]
  next =>
    split
    · rw [Dev.notice_pwr]
    · rw [(Dev.thaw_touches ..).same .pwr (by decide), Dev.notice_pwr]

theorem Dev.faultLevel_pwr (d : Dev) : (d.faultLevel F).pwr = { d.pwr with drive := true, pinLow := true } := by
  rw [Dev.faultLevel, Dev.forceFlush_pwr, Dev.emit_pwr]

theorem Dev.marginEnd_pwr (d : Dev) : d.marginEnd.pwr = { d.pwr with margin := none } := by
  unfold Dev.marginEnd
  split
  next => rw [Dev.emit_pwr]
  next h => rw [← h]

/-- A channel's sense inputs read what the board's rail gives (log entry 3). -/
theorem Dev.sense_seq (d : Dev) (n : Nat) : ∃ t sns pg, (d.sense n).pwr = { d.pwr with seq := t } ∧
    ∀ k, (d.sense n).seqCh k = if k = n then { d.seqCh n with sns := sns, pg := pg } else d.seqCh k :=
  ⟨_, d.free.1 % 4096, decide (d.free.1 / 4096 % 2 = 1), rfl, fun k => Dev.setSeq_seqCh d.free.2 n k _⟩

theorem Dev.drive_seq (d : Dev) (on : Bool) (n : Nat) : ∃ t sns pg, (d.drive on n).pwr = { d.pwr with seq := t } ∧
    ∀ k, (d.drive on n).seqCh k = if k = n then { d.seqCh n with en := on, valid := false, sns := sns, pg := pg } else d.seqCh k := by
  obtain ⟨t, sns, pg, hpwr, hseq⟩ := (d.setSeq n { d.seqCh n with en := on, valid := false }).sense_seq n
  refine ⟨t, sns, pg, hpwr, fun k => ?_⟩
  refine (Dev.seqCh_of_pwr (Dev.emit_pwr ..) k).trans ((hseq k).trans ?_)
  rw [Dev.setSeq_seqCh, if_pos rfl]
  split
  · rfl
  next h => rw [Dev.setSeq_seqCh, if_neg h]

theorem Dev.drive_out (d : Dev) (on : Bool) (n : Nat) : (d.drive on n).out = .seqEn n on :: d.out := rfl

/-- No channel's fault code changes, and none that is not valid becomes so. -/
def Dev.RailsKeep (d e : Dev) : Prop :=
  ∀ k, (e.seqCh k).last = (d.seqCh k).last ∧ ((d.seqCh k).valid = false → (e.seqCh k).valid = false)

theorem Dev.RailsKeep.of_pwr {d e : Dev} (h : e.pwr.seq = d.pwr.seq) : d.RailsKeep e := fun k => by
  rw [Dev.seqCh, h, Dev.seqCh]
  exact ⟨rfl, id⟩

theorem Dev.RailsKeep.comp {d e f : Dev} (h : e.RailsKeep f) (g : d.RailsKeep e) : d.RailsKeep f := fun k =>
  ⟨(h k).1.trans (g k).1, fun hk => (h k).2 ((g k).2 hk)⟩

theorem Dev.RailsKeep.drive (d : Dev) (on : Bool) (n : Nat) : d.RailsKeep (d.drive on n) := by
  obtain ⟨t, sns, pg, -, hseq⟩ := d.drive_seq on n
  intro k
  rw [hseq]
  split
  next h =>
    subst h
    exact ⟨rfl, fun _ => rfl⟩
  next => exact ⟨rfl, id⟩

theorem Dev.RailsKeep.setSeq {n : Nat} {x : SeqCh} (hl : x.last = (d.seqCh n).last) (hv : x.valid = (d.seqCh n).valid) : d.RailsKeep (d.setSeq n x) := by
  intro k
  rw [Dev.setSeq_seqCh]
  split
  next h =>
    subst h
    exact ⟨hl, fun hk => hv.trans hk⟩
  next => exact ⟨rfl, id⟩

theorem Dev.measureStop_rails (d : Dev) : (∃ t m, d.measureStop.pwr = { d.pwr with seq := t, measuring := m }) ∧ d.RailsKeep d.measureStop := by
  unfold Dev.measureStop
  split
  next ch ld _ _ =>
    split
    · obtain ⟨t, -, -, hpwr, -⟩ := Dev.drive_seq { d with pwr := { d.pwr with measuring := false } } false ld
      obtain ⟨t', -, -, hpwr', -⟩ := Dev.drive_seq (Dev.drive { d with pwr := { d.pwr with measuring := false } } false ld) true ch
      refine ⟨⟨t', false, by rw [hpwr', hpwr]⟩, ?_⟩
      exact (Dev.RailsKeep.drive _ true ch).comp ((Dev.RailsKeep.drive _ false ld).comp (.of_pwr rfl))
    · exact ⟨⟨_, _, rfl⟩, .of_pwr rfl⟩
  next => exact ⟨⟨_, _, rfl⟩, .of_pwr rfl⟩

/-- The record of a flush as it begins (R22, R354). -/
def Dev.flushNew (d : Dev) (why : FlushWhy) (rip : Bool) : Flush :=
  { why := why, ripcord := rip, step := 2, start := d.tether.now, ripStart := d.tether.now, energy := d.energy,
    seg := if d.pwr.replayDone then some d.pwr.segNext else none }

/-- The device as a flush begins, before it cuts anything: the state and the record. -/
def Dev.flushBegun (d : Dev) (F : Fuses) (why : FlushWhy) (rip : Bool) : Dev :=
  { d.marginEnd.measureStop.setSvc F .flush with
    pwr := { (d.marginEnd.measureStop.setSvc F .flush).pwr with flush := some (d.flushNew why rip), stopUp := false } }

/-- The test window and the launch slots end as a flush begins (R354). -/
def Dev.flushQuiet (e : Dev) (rip : Bool) : Dev :=
  let d3 := if rip then e.icu 83 else e
  let d4 := if d3.tether.twOpen then d3.windowAbort (d3.tether.twChan / 10) else d3
  (List.range 64).foldl (fun d n => d.slotCancel n) d4

/-- Both links go down in a device reset (R59). -/
def Dev.linksOff (e : Dev) : Dev :=
  (Dev.linkNoted { e with a := { e.a with linkUp := false, lstate := 4 }, b := { e.b with linkUp := false, lstate := 4 } } .a e.a.lstate).linkNoted
    .b e.b.lstate

theorem flushEntry_eq (d : Dev) (why : FlushWhy) (rip : Bool) : flushEntry F d why rip =
    if why = .device then (cutAll F ((d.flushBegun F why rip).flushQuiet rip) (if rip then 1 else if why = .device then 7 else 2)).linksOff
    else cutAll F ((d.flushBegun F why rip).flushQuiet rip) (if rip then 1 else if why = .device then 7 else 2) := by
  unfold flushEntry Dev.linksOff Dev.flushQuiet Dev.flushBegun Dev.flushNew
  with_reducible rfl

theorem Dev.linksOff_pwr (e : Dev) : e.linksOff.pwr = e.pwr := by
  unfold Dev.linksOff
  rw [Dev.linkNoted_pwr, Dev.linkNoted_pwr]

theorem Dev.flushQuiet_pwr (e : Dev) (rip : Bool) : (e.flushQuiet rip).pwr = e.pwr := by
  have hcancel (d : Dev) : ((List.range 64).foldl (fun d n => d.slotCancel n) d).pwr = d.pwr :=
    List.foldlRecOn (motive := fun e : Dev => e.pwr = d.pwr) _ _ rfl fun _ h n _ => (Dev.slotCancel_pwr ..).trans h
  have hicu : (if rip then e.icu 83 else e).pwr = e.pwr := by
    split
    · exact Dev.icu_pwr ..
    · rfl
  unfold Dev.flushQuiet
  dsimp only
  rw [hcancel]
  generalize (if rip then e.icu 83 else e) = x at hicu ⊢
  split
  · rw [(Dev.windowAbort_touches ..).same .pwr (by decide), hicu]
  · exact hicu

/-- A flush begins: margining and a hold-up measurement end, and the record of the flush is there (R22, R354). -/
theorem flushEntry_pwr (d : Dev) (why : FlushWhy) (rip : Bool) : (flushEntry F d why rip).pwr =
    { d.marginEnd.measureStop.pwr with svc := .flush, flush := some (d.flushNew why rip), stopUp := false } := by
  have hbegun : (d.flushBegun F why rip).pwr =
      { d.marginEnd.measureStop.pwr with svc := .flush, flush := some (d.flushNew why rip), stopUp := false } := by
    rw [Dev.flushBegun, Dev.setSvc_pwr]
  rw [flushEntry_eq]
  split
  · rw [Dev.linksOff_pwr, (cutAll_touches ..).same .pwr (by decide), Dev.flushQuiet_pwr, hbegun]
  · rw [(cutAll_touches ..).same .pwr (by decide), Dev.flushQuiet_pwr, hbegun]

theorem Dev.marginEnd_rails (d : Dev) : d.RailsKeep d.marginEnd := .of_pwr (by rw [Dev.marginEnd_pwr])

theorem flushEntry_rails (d : Dev) (why : FlushWhy) (rip : Bool) : d.RailsKeep (flushEntry F d why rip) :=
  (Dev.RailsKeep.of_pwr (by rw [flushEntry_pwr])).comp (d.marginEnd.measureStop_rails.2.comp d.marginEnd_rails)

theorem Dev.downEntry_rails (d : Dev) (why : FlushWhy) (out : Option Nat) : d.RailsKeep (d.downEntry why out) :=
  (Dev.RailsKeep.of_pwr rfl).comp (d.marginEnd.measureStop_rails.2.comp d.marginEnd_rails)

/-- What margining and a measurement that end leave of the supervisor's record. -/
theorem Dev.measureEnded_pwr (d : Dev) : ∃ t m, d.marginEnd.measureStop.pwr = { d.pwr with margin := none, seq := t, measuring := m } := by
  obtain ⟨⟨t, m, h⟩, -⟩ := d.marginEnd.measureStop_rails
  exact ⟨t, m, by rw [h, Dev.marginEnd_pwr]⟩

/-! ## A system reset (R335) -/

theorem systemReset_idle {bare : Bool} (h : d.live = false ∨ d.pwr.downing.isSome = true) : systemReset F d bare = d :=
  if_pos (by simpa using h)

theorem systemReset_live (hl : d.live = true) (hd : d.pwr.downing = none) (bare : Bool) : systemReset F d bare =
    match (d.faultLevel F).pwr.flush with
    | some f =>
      if bare ∨ (!ripReady F (d.faultLevel F) ∧ f.step < 6) then
        { d.faultLevel F with pwr := { (d.faultLevel F).pwr with flush := some { { f with why := if f.ripcord then f.why else .reset } with step := 6 } } }
      else { d.faultLevel F with pwr := { (d.faultLevel F).pwr with flush := some { f with why := if f.ripcord then f.why else .reset } } }
    | none =>
      if bare then (d.faultLevel F).downEntry .reset (some 5)
      else if ripReady F (d.faultLevel F) then flushEntry F (d.faultLevel F) .reset false
      else (d.faultLevel F).downEntry .reset (some 4) := if_neg (by simp [hl, hd])

theorem Dev.faultLevel_rails (d : Dev) : d.RailsKeep (d.faultLevel F) := .of_pwr (by rw [Dev.faultLevel_pwr])

theorem systemReset_rails (d : Dev) (bare : Bool) : d.RailsKeep (systemReset F d bare) := by
  by_cases h : d.live = true ∧ d.pwr.downing = none
  · rw [systemReset_live h.1 h.2]
    refine .comp (e := d.faultLevel F) ?_ d.faultLevel_rails
    split
    · split
      · exact .of_pwr rfl
      · exact .of_pwr rfl
    · split
      · exact Dev.downEntry_rails _ _ _
      · split
        · exact flushEntry_rails _ _ _
        · exact Dev.downEntry_rails _ _ _
  · rw [systemReset_idle]
    · exact .of_pwr rfl
    · rw [not_and_or] at h
      simpa [Option.isSome_iff_ne_none] using h

theorem Dev.downEntry_drive (d : Dev) (why : FlushWhy) (out : Option Nat) : (d.downEntry why out).pwr.drive = d.pwr.drive := by
  obtain ⟨t, m, h⟩ := d.measureEnded_pwr
  rw [Dev.downEntry, h]

theorem flushEntry_drive (d : Dev) (why : FlushWhy) (rip : Bool) : (flushEntry F d why rip).pwr.drive = d.pwr.drive := by
  obtain ⟨t, m, h⟩ := d.measureEnded_pwr
  rw [flushEntry_pwr, h]

/-- A system reset drives FAULT_N low (R335, R336). -/
theorem systemReset_drive (hl : d.live = true) (hd : d.pwr.downing = none) (bare : Bool) : (systemReset F d bare).pwr.drive = true := by
  have hlevel : (d.faultLevel F).pwr.drive = true := by rw [Dev.faultLevel_pwr]
  rw [systemReset_live hl hd]
  split
  · split
    · exact hlevel
    · exact hlevel
  · split
    · rw [Dev.downEntry_drive, hlevel]
    · split
      · rw [flushEntry_drive, hlevel]
      · rw [Dev.downEntry_drive, hlevel]

theorem ripReady_of_pwr {e : Dev} (hs : e.pwr.seq = d.pwr.seq) (hb : e.pwr.board = d.pwr.board) : ripReady F e = ripReady F d := by
  have hpresent : seqPresent F e = seqPresent F d := by
    funext n
    rw [seqPresent, hb, seqPresent]
  rw [ripReady, ripRails, hpresent, ripReady, ripRails]
  congr 1
  funext n
  rw [Dev.seqCh, hs, Dev.seqCh]

theorem ripReady_faultLevel (d : Dev) : ripReady F (d.faultLevel F) = ripReady F d :=
  ripReady_of_pwr (by rw [Dev.faultLevel_pwr]) (by rw [Dev.faultLevel_pwr])

/-- A reset that is a reaction to an over-voltage lowers the rails with no flush (R334, R335). -/
theorem systemReset_bare (hl : d.live = true) (hd : d.pwr.downing = none) (hf : d.pwr.flush = none) :
    systemReset F d true = (d.faultLevel F).downEntry .reset (some 5) := by
  have hnone : (d.faultLevel F).pwr.flush = none := by rw [Dev.faultLevel_pwr, hf]
  rw [systemReset_live hl hd, hnone]
  exact if_pos rfl

/-- Any other reset flushes where the rails that Ripcord needs are valid, and else lowers the rails (R335). -/
theorem systemReset_flush (hl : d.live = true) (hd : d.pwr.downing = none) (hf : d.pwr.flush = none) : systemReset F d false =
    if ripReady F d then flushEntry F (d.faultLevel F) .reset false else (d.faultLevel F).downEntry .reset (some 4) := by
  have hnone : (d.faultLevel F).pwr.flush = none := by rw [Dev.faultLevel_pwr, hf]
  rw [systemReset_live hl hd, hnone]
  dsimp only
  rw [if_neg Bool.false_ne_true, ripReady_faultLevel]

/-! ## Faults of rails -/

/-- The channel of a rail that has faulted, and the report of the fault (R334). -/
def Dev.railLost (d : Dev) (F : Fuses) (n code : Nat) (esc : Bool) : Dev :=
  ((d.setSeq n { d.seqCh n with valid := false, pg := if code = 4 then false else (d.seqCh n).pg, last := code }).event F 0x1001
    (n + code * 16 + b2n esc * 256)).icu 81

theorem Dev.railLost_pwr (d : Dev) (n code : Nat) (esc : Bool) : (d.railLost F n code esc).pwr =
    (d.setSeq n { d.seqCh n with valid := false, pg := if code = 4 then false else (d.seqCh n).pg, last := code }).pwr := by
  rw [Dev.railLost, Dev.icu_pwr, Dev.event_pwr]

theorem Dev.railLost_seq (d : Dev) (n code : Nat) (esc : Bool) :
    ((d.railLost F n code esc).seqCh n).last = code ∧ ((d.railLost F n code esc).seqCh n).valid = false := by
  rw [Dev.seqCh_of_pwr (d.railLost_pwr n code esc), Dev.setSeq_seqCh, if_pos rfl]
  exact ⟨rfl, rfl⟩

/-- Bring-up's step, stalled by a fault of a rail in service of it (R334, R350). -/
def Dev.railStalled (d e : Dev) : Dev :=
  if (decide (d.pwr.svc = .bringup) && (d.pwr.step == 1 || d.pwr.step == 6)) = true then { e with pwr := { e.pwr with step := 0xF, cause := 5 } } else e

/-- A device rail that faults resets the system, with no flush after an over-voltage (R334). -/
theorem railReact_core {n : Nat} (hn : n ≤ 10) (code : Nat) :
    railReact F d n code = d.railStalled (systemReset F (d.railLost F n code false) (decide (code = 2))) := by
  have hesc (c : ChanCfg) (tries : Nat) : decide (12 ≤ n ∧ c.react = 1 ∧ c.retries ≤ tries) = false := by
    rw [decide_eq_false_iff_not]
    omega
  unfold railReact
  dsimp only
  rw [if_neg (by omega), if_pos hn, hesc]
  rfl

theorem groupDown_rails (d : Dev) (n : Nat) : d.RailsKeep (groupDown F d n) := by
  unfold groupDown
  dsimp only
  refine List.foldlRecOn (motive := fun e : Dev => d.RailsKeep e) _ _ (.of_pwr rfl) fun e h k _ => ?_
  refine .comp (.comp (.setSeq rfl rfl) ?_) h
  split
  · exact .drive _ _ _
  · exact .of_pwr rfl

theorem Dev.faultPulse_rails (d : Dev) : d.RailsKeep d.faultPulse := .of_pwr rfl

theorem stallStep_rails (d : Dev) (cause : Nat) : d.RailsKeep (stallStep F d cause) :=
  (Dev.faultLevel_rails _).comp (.of_pwr rfl)

/-- Whatever a fault's reaction, its channel stays faulted with the fault's code (R332, R334). -/
theorem railReact_seq (d : Dev) (n code : Nat) :
    ((railReact F d n code).seqCh n).last = code ∧ ((railReact F d n code).seqCh n).valid = false := by
  suffices h : ∃ esc, (d.railLost F n code esc).RailsKeep (railReact F d n code) by
    obtain ⟨esc, hkeep⟩ := h
    obtain ⟨hlast, hvalid⟩ := d.railLost_seq (F := F) n code esc
    exact ⟨(hkeep n).1.trans hlast, (hkeep n).2 hvalid⟩
  refine ⟨decide (12 ≤ n ∧ (Tbl.look {} d.pwr.board.chan n).react = 1 ∧ (Tbl.look {} d.pwr.board.chan n).retries ≤
    if decide ((d.seqCh n).since + 10 ^ 9 ≤ d.tether.now) = true then 0 else (d.seqCh n).tries), ?_⟩
  unfold railReact
  dsimp only
  generalize hx : Dev.icu (Dev.event F (Dev.setSeq d n _) 0x1001 _) 81 = x
  rw [show d.railLost F n code _ = x from hx]
  generalize (if decide ((d.seqCh n).since + 10 ^ 9 ≤ d.tether.now) = true then 0 else (d.seqCh n).tries) = tries
  split
  · exact .comp (.of_pwr rfl) x.faultLevel_rails
  · split
    · split
      · exact .comp (.of_pwr rfl) (systemReset_rails _ _)
      · exact systemReset_rails _ _
    · split
      · exact .comp (.setSeq rfl rfl) (.drive _ _ _)
      · split
        · split
          · exact .comp (stallStep_rails _ _) (.comp (Dev.faultPulse_rails _) (groupDown_rails _ _))
          · exact .comp (Dev.faultPulse_rails _) (groupDown_rails _ _)
        · split
          · split
            · exact .comp (.of_pwr rfl) (systemReset_rails _ _)
            · exact systemReset_rails _ _
          · split
            · exact stallStep_rails _ _
            · exact .of_pwr rfl

/-- A board channel that may be tried again goes down and keeps the count (R334). -/
theorem railReact_again {n : Nat} {c : ChanCfg} (hc : c = Tbl.look {} d.pwr.board.chan n) (hn : 12 ≤ n) (hr : c.react = 1)
    (ht : (d.seqCh n).tries < c.retries) (hsince : d.tether.now < (d.seqCh n).since + 10 ^ 9) : ∃ since, railReact F d n 1 =
      (Dev.drive (d.railLost F n 1 false) false n).setSeq n { (Dev.drive (d.railLost F n 1 false) false n).seqCh n with
        tries := (d.seqCh n).tries + 1, since := since, offAt := d.tether.now } := by
  subst hc
  refine ⟨if (d.seqCh n).tries = 0 then d.tether.now else (d.seqCh n).since, ?_⟩
  unfold railReact
  dsimp only
  rw [show decide ((d.seqCh n).since + 10 ^ 9 ≤ d.tether.now) = false from decide_eq_false (by omega), if_neg (by omega), if_neg (by omega),
    if_neg Bool.false_ne_true, if_pos (decide_eq_true ⟨hn, hr, ht⟩), decide_eq_false (fun h => by omega)]
  rfl

theorem railFault_present {n : Nat} {k : RailFaultKind} (hp : seqPresent F d n = true) (hv : (d.seqCh n).valid = true) (hk : k = .uv ∨ k = .ov) :
    railFault F d n k = railReact F d n (railCode k) := by
  rcases hk with rfl | rfl
  · exact (if_neg (by simp [hp])).trans (if_pos hv)
  · exact (if_neg (by simp [hp])).trans (if_pos hv)

theorem Dev.railLost_state (d : Dev) (n code : Nat) (esc : Bool) : (d.railLost F n code esc).live = d.live ∧
    (d.railLost F n code esc).pwr.downing = d.pwr.downing ∧ (d.railLost F n code esc).pwr.flush = d.pwr.flush := by
  rw [Dev.live, Dev.railLost_pwr]
  exact ⟨rfl, rfl, rfl⟩

theorem Dev.railStalled_state (d e : Dev) : (d.railStalled e).pwr.drive = e.pwr.drive ∧ (d.railStalled e).pwr.downing = e.pwr.downing ∧
    (d.railStalled e).pwr.ended = e.pwr.ended ∧ (d.railStalled e).pwr.svc = e.pwr.svc := by
  unfold Dev.railStalled
  split
  · exact ⟨rfl, rfl, rfl, rfl⟩
  · exact ⟨rfl, rfl, rfl, rfl⟩

/-! ## The sequence -/

/-- A rail that becomes valid: its channel, and the time that the next step counts from (R332, R333). -/
def Dev.railUp (d : Dev) (n : Nat) : Dev :=
  let d2 := (d.sense n).setSeq n { (d.sense n).seqCh n with
    valid := true, pg := ((d.sense n).seqCh n).pg || decide (n ≤ 10) || (Tbl.look {} (d.sense n).pwr.board.chan n).pgUse }
  { d2 with pwr := { d2.pwr with seqAt := d2.tether.now } }

theorem railValid_watched {n : Nat} (hp : seqPresent F d n = true) (hw : d.watched n = true) (hv : (d.seqCh n).valid = false) :
    railValid F d n = d.railUp n := by
  obtain ⟨t, sns, pg, hpwr, -⟩ := d.sense_seq n
  have hboard : (d.sense n).pwr.board = d.pwr.board := by rw [hpwr]
  have hpass : railValid F d n = _ := if_pos ⟨hp, hw, by simp [hv]⟩
  rw [hpass, Dev.railUp, hboard]

theorem Dev.railUp_seq (d : Dev) (n : Nat) : ((d.railUp n).seqCh n).valid = true ∧ (d.railUp n).pwr.seqAt = d.tether.now ∧
    ∀ k, k ≠ n → (d.railUp n).seqCh k = d.seqCh k := by
  obtain ⟨t, sns, pg, -, hseq⟩ := d.sense_seq n
  have hup (k : Nat) := (d.sense n).setSeq_seqCh n k { (d.sense n).seqCh n with
    valid := true, pg := ((d.sense n).seqCh n).pg || decide (n ≤ 10) || (Tbl.look {} (d.sense n).pwr.board.chan n).pgUse }
  refine ⟨congrArg SeqCh.valid ((hup n).trans (if_pos rfl)), rfl, fun k hk => ((hup k).trans (if_neg hk)).trans ((hseq k).trans (if_neg hk))⟩

/-- The first step of the sequence up enables channel 0 (R333). -/
theorem sequenceStep_first (hs : d.pwr.svc = .bringup) (hstep : d.pwr.step = 1) (hd : d.pwr.downing = none) (hf : d.pwr.flush = none)
    (hr : d.rises 0 = true) : sequenceStep F d = d.drive true 0 := by
  have hsteps : seqSteps F d = [0] :: ([[1], [2], [3], [4]] ++ d.chain 4) := by
    rw [seqSteps, hs, hstep, hd, hf]
    rfl
  have hfind : ([0] :: ([[1], [2], [3], [4]] ++ d.chain 4)).findIdx? (fun x => x.any d.rises) = some 0 := by
    rw [List.findIdx?_cons, if_pos (by simp [hr])]
  unfold sequenceStep
  rw [hd]
  dsimp only
  rw [hsteps, hfind]
  dsimp only
  rw [if_pos (by simp), if_pos rfl, List.getD_cons_zero, List.filter_cons_of_pos hr]
  rfl

/-- With every rail down, the sequence down ends (R333, R335). -/
theorem sequenceStep_last {why : FlushWhy} (hd : d.pwr.downing = some why) (hup : d.pwr.upAgain = false) (hen : ∀ n, (d.seqCh n).en = false) :
    sequenceStep F d = offEnter F d why false := by
  have hfind : (upOrder F d).reverse.find? (fun l => l.any fun n => (d.seqCh n).en) = none := by
    rw [List.find?_eq_none]
    intro l _
    simp [hen]
  have hboard : ([12, 13, 14, 15].filter fun n => (d.seqCh n).en) = [] := by
    rw [List.filter_eq_nil_iff]
    intro n _
    simp [hen]
  unfold sequenceStep
  rw [hd, hup]
  dsimp only
  rw [Bool.false_and, Bool.false_and, if_neg (by simp), hfind, hboard]
  rfl

theorem countReset_svc (d : Dev) : (countReset F d).pwr.svc = d.pwr.svc ∧ (countReset F d).pwr.downing = d.pwr.downing := by
  unfold countReset
  dsimp only
  split
  · exact ⟨rfl, rfl⟩
  · rw [Dev.emit_pwr, Dev.event_pwr]
    exact ⟨rfl, rfl⟩

/-- After a reset the controller is in Off (R335). -/
theorem offEnter_reset (d : Dev) : (offEnter F d .reset false).pwr.svc = .off ∧ (offEnter F d .reset false).pwr.downing = none := by
  have hrest (p q : Bool) : (decide (FlushWhy.reset = FlushWhy.rest) && p && q && !false) = false := by
    rw [show decide (FlushWhy.reset = FlushWhy.rest) = false from rfl]
    simp
  unfold offEnter
  dsimp only
  rw [hrest, if_pos rfl, if_pos (Or.inl rfl), if_neg (by decide), if_neg Bool.false_ne_true, if_neg (by decide), (countReset_svc _).1, (countReset_svc _).2]
  exact ⟨rfl, rfl⟩

theorem railRetry_due {n : Nat} (hn : 12 ≤ n) (he : (d.seqCh n).en = false) (hdown : (d.seqCh n).down = false) (ht : 0 < (d.seqCh n).tries)
    (hl : d.live = true) (hd : d.pwr.downing = none) : railRetry d n = (d.advance ((d.seqCh n).offAt + 10000000)).drive true n :=
  if_pos ⟨hn, by simp [he], by simp [hdown], ht, hl, by simp [hd]⟩

/-- Bring-up starts again once the time that a reset left is there (R335). -/
theorem restartNow_due {t : Nat} (ht : d.pwr.restartAt = some t) (hs : d.pwr.svc = .off) (hi : d.pwr.inputOk = true) (hq : d.pwr.pwrReq = true)
    (hl : d.pwr.limited = false) (hts : d.pwr.tsHold = false) (hext : d.pwr.extHold = false) : restartNow d = (d.advance t).bringup 1 := by
  have hmay : Dev.mayStart { d with pwr := { d.pwr with restartAt := none } } = true := by
    rw [Dev.mayStart]
    dsimp only
    rw [hs, hi, hq, hl, hts, hext]
    rfl
  rw [restartNow, ht]
  exact if_pos hmay

end

/-- Settles O45. -/
theorem rails : Obligations.RAILS := by
  unfold Obligations.RAILS
  refine ⟨?_, ?_, ?_, ?_, ?_, ?_, ?_, ?_, ?_, ?_⟩
  case refine_1 => exact fun n s hp hw hv => ⟨_, next_congr s (railValid_watched hp hw hv), s.dev.railUp_seq n.val⟩
  case refine_2 =>
    intro n s hn hp hv hl hd
    obtain ⟨hlive, hdown, -⟩ := s.dev.railLost_state (F := s.fuse) n.val 1 false
    obtain ⟨hlast, hvalid⟩ := railReact_seq (F := s.fuse) s.dev n.val 1
    refine ⟨_, next_congr s (railFault_present hp hv (Or.inl rfl)), hvalid, hlast, ?_⟩
    rw [show railCode .uv = 1 from rfl, railReact_core hn, (Dev.railStalled_state _ _).1]
    exact systemReset_drive (hlive.trans hl) (hdown.trans hd) _
  case refine_3 =>
    intro n s hn hp hv hl hd hf
    obtain ⟨hlive, hdown, hflush⟩ := s.dev.railLost_state (F := s.fuse) n.val 2 false
    obtain ⟨hlast, -⟩ := railReact_seq (F := s.fuse) s.dev n.val 2
    obtain ⟨-, hdowning, hended, hsvc⟩ := s.dev.railStalled_state ((Dev.faultLevel s.fuse (s.dev.railLost s.fuse n.val 2 false)).downEntry .reset (some 5))
    have hreact : railReact s.fuse s.dev n.val 2 =
        s.dev.railStalled ((Dev.faultLevel s.fuse (s.dev.railLost s.fuse n.val 2 false)).downEntry .reset (some 5)) := by
      rw [railReact_core hn, ← systemReset_bare (hlive.trans hl) (hdown.trans hd) (hflush.trans hf)]
      rfl
    refine ⟨_, next_congr s (railFault_present hp hv (Or.inr rfl)), hlast, ?_⟩
    rw [show railCode .ov = 2 from rfl, hreact, hdowning, hended, hsvc]
    exact ⟨rfl, rfl, rfl⟩
  case refine_4 =>
    intro n c s hc hn hp hv hr ht hsince
    obtain ⟨since, hreact⟩ := railReact_again (F := s.fuse) hc hn hr ht hsince
    obtain ⟨t, sns, pg, -, hseq⟩ := Dev.drive_seq (s.dev.railLost s.fuse n.val 1 false) false n.val
    refine ⟨_, next_congr s ((railFault_present hp hv (Or.inl rfl)).trans hreact), ?_, ?_, ?_, ?_⟩
    · rw [Dev.setSeq_seqCh, if_pos rfl, hseq, if_pos rfl]
    · rw [Dev.setSeq_seqCh, if_pos rfl]
    · rw [Dev.setSeq_seqCh, if_pos rfl]
    · rw [Dev.setSeq_out, Dev.drive_out, Dev.railLost, Dev.icu_out, Dev.event_out]
      rfl
  case refine_5 =>
    intro n s hp he hv
    exact ⟨_, next_congr s (if_pos ⟨hp, he, by simp [hv]⟩), railReact_seq _ _ _⟩
  case refine_6 =>
    intro s hs hstep hd hf hr
    obtain ⟨t, sns, pg, -, hseq⟩ := s.dev.drive_seq true 0
    refine ⟨_, next_congr s (sequenceStep_first hs hstep hd hf hr), ?_, Dev.drive_out ..⟩
    rw [hseq, if_pos rfl]
  case refine_7 => exact fun s hd hup hen => ⟨_, next_congr s (sequenceStep_last hd hup hen), offEnter_reset s.dev⟩
  case refine_8 =>
    intro n s hn he hdown ht hl hd hlt
    obtain ⟨t, sns, pg, -, hseq⟩ := (s.dev.advance ((s.dev.seqCh n.val).offAt + 10000000)).drive_seq true n.val
    refine ⟨_, next_congr s (railRetry_due hn he hdown ht hl hd), ?_, ?_⟩
    · rw [hseq, if_pos rfl]
    · rw [(Dev.drive_touches ..).same .tether (by decide), Dev.advance_now]
      omega
  case refine_9 =>
    intro s hl hd hf
    have hlevel : (Dev.faultLevel s.fuse s.dev).pwr.drive = true := by rw [Dev.faultLevel_pwr]
    have hreset := systemReset_flush (F := s.fuse) hl hd hf
    by_cases hr : ripReady s.fuse s.dev = true
    · rw [if_pos hr] at hreset
      refine ⟨_, next_congr s hreset, by rw [flushEntry_pwr], by rw [flushEntry_drive, hlevel], fun h => ?_, fun _ => ?_⟩
      · rw [hr] at h
        cases h
      · rw [flushEntry_pwr]
        exact ⟨_, rfl, rfl, rfl, rfl⟩
    · rw [if_neg hr] at hreset
      exact ⟨_, next_congr s hreset, rfl, by rw [Dev.downEntry_drive, hlevel], fun _ => ⟨rfl, rfl⟩, fun h => absurd h hr⟩
  case refine_10 =>
    intro t s ht hs hi hq hl hts hext hlt
    refine ⟨_, next_congr s (restartNow_due ht hs hi hq hl hts hext), rfl, rfl, ?_⟩
    change t ≤ (s.dev.advance t).tether.now
    rw [Dev.advance_now]
    omega

end Sys2Proof.Machine

/-!
PROOFS. O46 (R336 to R343): FAULT_N, margining, the input, PWR_REQ, hold-up measurements and arming.
-/
namespace Sys2Proof.Machine

section
variable {F : Fuses} {d : Dev}

/-! ## FAULT_N -/

/-- A notice on FAULT_N, seen where the controller does not drive the line (R337). -/
theorem noticeSeen_seen (hd : d.pwr.drive = false) (hp : d.pwr.pulse = false) :
    (noticeSeen F d).pwr = { d.pwr with extPulse := true, pinLow := false } := by
  have hpass : noticeSeen F d = _ := if_neg (by simp [hd, hp])
  rw [hpass, Dev.icu_pwr, Dev.event_pwr]

/-- What an external fault leaves of the line's record, whatever its reaction (R337). -/
def Dev.LineLow (e : Dev) : Prop := e.pwr.extLevel = true ∧ e.pwr.pinLow = true

theorem Dev.downEntry_lineLow (h : d.LineLow) (why : FlushWhy) (out : Option Nat) : (d.downEntry why out).LineLow := by
  obtain ⟨t, m, hpwr⟩ := d.measureEnded_pwr
  rw [Dev.LineLow, Dev.downEntry, hpwr]
  exact h

theorem flushEntry_lineLow (h : d.LineLow) (why : FlushWhy) (rip : Bool) : (flushEntry F d why rip).LineLow := by
  obtain ⟨t, m, hpwr⟩ := d.measureEnded_pwr
  rw [Dev.LineLow, flushEntry_pwr, hpwr]
  exact h

theorem Dev.faultLevel_lineLow (h : d.LineLow) : (d.faultLevel F).LineLow := by
  rw [Dev.LineLow, Dev.faultLevel_pwr]
  exact ⟨h.1, rfl⟩

theorem systemReset_lineLow (h : d.LineLow) (bare : Bool) : (systemReset F d bare).LineLow := by
  by_cases hd : d.live = true ∧ d.pwr.downing = none
  · rw [systemReset_live hd.1 hd.2]
    have hlevel : (d.faultLevel F).LineLow := Dev.faultLevel_lineLow h
    split
    · split
      · exact hlevel
      · exact hlevel
    · split
      · exact Dev.downEntry_lineLow hlevel _ _
      · split
        · exact flushEntry_lineLow hlevel _ _
        · exact Dev.downEntry_lineLow hlevel _ _
  · rw [systemReset_idle]
    · exact h
    · rw [not_and_or] at hd
      simpa [Option.isSome_iff_ne_none] using hd

/-- A fault on FAULT_N is recorded with every reaction that the board can name (R337). -/
theorem faultSeen_lineLow (hd : d.pwr.drive = false) (hp : d.pwr.pulse = false) : (faultSeen F d).LineLow := by
  have hpass : faultSeen F d = _ := if_neg (by simp [hd, hp])
  have hseen : (({ d with pwr := { d.pwr with extLevel := true, pinLow := true } } : Dev).event F 0x1002 1 |>.icu 85).LineLow := by
    rw [Dev.LineLow, Dev.icu_pwr, Dev.event_pwr]
    exact ⟨rfl, rfl⟩
  rw [hpass]
  dsimp only
  generalize (({ d with pwr := { d.pwr with extLevel := true, pinLow := true } } : Dev).event F 0x1002 1 |>.icu 85) = x at hseen ⊢
  have hheld : Dev.LineLow { x with pwr := { x.pwr with extHold := true } } := hseen
  generalize ({ x with pwr := { x.pwr with extHold := true } } : Dev) = y at hheld ⊢
  split
  · split
    · exact Dev.downEntry_lineLow hheld _ _
    · exact flushEntry_lineLow hheld _ _
    · exact flushEntry_lineLow hheld _ _
    · exact hheld
  · exact systemReset_lineLow hseen _
  · exact hseen

/-! ## Margining (R338) -/

theorem Dev.setArmed_armed (d : Dev) (on : Bool) : (d.setArmed on).gon.armed = on := by
  unfold Dev.setArmed
  split
  next h => exact h
  next => rw [Dev.icu_gon]

theorem marginWrite_over {v : Nat} (h : 10 < bits v 11 8) : marginWrite d v = d := if_pos (by simp [h])

/-- The write that starts a margin withdraws Gondola's arming (R338, R342). -/
theorem marginWrite_set {v : Nat} (hs : d.pwr.svc = .full) (hb : d.pwr.board.valid = true) (hc : d.pwr.board.marginCh = some (bits v 3 0))
    (hpct : bits v 11 8 ≤ 10) (hm : d.pwr.margin = none) (hdir : bits v 5 4 = 1 ∨ bits v 5 4 = 2) :
    (marginWrite d v).pwr.margin = some (bits v 3 0, bits v 5 4, bits v 11 8) ∧ (marginWrite d v).gon.armed = false := by
  have hpass : marginWrite d v = _ := if_neg (by simp [hs, hb, hc, hm, Nat.not_lt.mpr hpct])
  rw [hpass, if_neg (by omega : ¬ bits v 5 4 = 3), if_neg (by omega), Dev.emit_pwr, Dev.emit_gon]
  exact ⟨rfl, Dev.setArmed_armed _ _⟩

/-- The write that ends a margin, a millisecond later (R338). -/
theorem marginWrite_clear {v b c : Nat} (hs : d.pwr.svc = .full) (hb : d.pwr.board.valid = true)
    (hc : d.pwr.board.marginCh = some (bits v 3 0)) (hpct : bits v 11 8 ≤ 10) (hm : d.pwr.margin = some (bits v 3 0, b, c))
    (hdir : bits v 5 4 = 0) : (marginWrite d v).pwr.margin = none ∧ (marginWrite d v).out = .margin (bits v 3 0) 0 0 :: d.out := by
  have hpass : marginWrite d v = _ := if_neg (by simp [hs, hb, hc, hm, Nat.not_lt.mpr hpct])
  rw [hpass, if_neg (by omega : ¬ bits v 5 4 = 3), if_pos hdir, hm]
  refine ⟨rfl, ?_⟩
  change (Dev.advance _ _).out = _
  rw [Dev.advance_out]
  exact congrArg (_ :: ·) (Dev.setReg_out ..)

/-! ## The input and PWR_REQ (R339, R340) -/

theorem Dev.bringup_pwr (d : Dev) (n : Nat) : (d.bringup n).pwr.inputOk = d.pwr.inputOk ∧ (d.bringup n).pwr.pwrReq = d.pwr.pwrReq ∧
    (d.bringup n).pwr.svc = .bringup ∧ (d.bringup n).pwr.step = n := ⟨rfl, rfl, rfl, rfl⟩

theorem Dev.tryUp_inputs (d : Dev) : d.tryUp.pwr.inputOk = d.pwr.inputOk ∧ d.tryUp.pwr.pwrReq = d.pwr.pwrReq := by
  unfold Dev.tryUp
  split
  · exact ⟨rfl, rfl⟩
  · exact ⟨rfl, rfl⟩

/-- Bring-up starts where the controller is in Off and nothing holds it there (R335, R339, R340). -/
theorem Dev.tryUp_starts (hs : d.pwr.svc = .off) (hi : d.pwr.inputOk = true) (hq : d.pwr.pwrReq = true) (hl : d.pwr.limited = false)
    (hts : d.pwr.tsHold = false) (hext : d.pwr.extHold = false) (hr : d.pwr.restartAt = none) :
    d.tryUp.pwr.svc = .bringup ∧ d.tryUp.pwr.step = 1 := by
  have hmay : d.mayStart = true := by
    rw [Dev.mayStart, hs, hi, hq, hl, hts, hext, hr]
    rfl
  rw [Dev.tryUp, if_pos hmay]
  exact ⟨rfl, rfl⟩

/-- Leaving the restart limit changes nothing of the supervisor that a start looks at but the limit (R335). -/
theorem Dev.unlimit_pwr (d : Dev) : ∃ r c g p, d.unlimit.pwr = { d.pwr with limited := false, resets := r, cause := c, drive := g, pinLow := p } := by
  unfold Dev.unlimit
  split
  · unfold Dev.faultRelease
    split
    · exact ⟨_, _, _, _, Dev.emit_pwr ..⟩
    · exact ⟨_, _, _, _, rfl⟩
  next h => exact ⟨d.pwr.resets, d.pwr.cause, d.pwr.drive, d.pwr.pinLow, by rw [← Bool.eq_false_iff.mpr h]⟩

/-- An input below the threshold of R339 is no longer good, in every state. -/
theorem inputBad_low {vin : Nat} (h : vin < d.vinFail) : (inputBad d vin).pwr.inputOk = false := by
  have hpass : inputBad d vin = _ := if_neg (Nat.not_le.mpr h)
  have hstop : (Dev.measureStop { d with pwr := { d.pwr with vin := min vin 0xFFFF, inputOk := false } }).pwr.inputOk = false := by
    obtain ⟨⟨t, m, hpwr⟩, -⟩ := Dev.measureStop_rails { d with pwr := { d.pwr with vin := min vin 0xFFFF, inputOk := false } }
    rw [hpwr]
  rw [hpass]
  dsimp only
  generalize Dev.measureStop _ = x at hstop ⊢
  split
  · obtain ⟨r, c, g, p, hpwr⟩ := x.unlimit_pwr
    rw [hpwr]
    exact hstop
  · exact hstop
  · split
    · exact hstop
    · rw [Dev.icu_pwr]
      exact hstop
  · exact hstop

/-- PWR_REQ rises: the request stands, and bring-up starts from Off (R340). -/
theorem reqUp_rises (h : d.pwr.pwrReq = false) : (reqUp d).pwr.pwrReq = true ∧
    (d.pwr.svc = .off → d.pwr.inputOk = true → d.pwr.tsHold = false → d.pwr.extHold = false → d.pwr.restartAt = none →
      (reqUp d).pwr.svc = .bringup ∧ (reqUp d).pwr.step = 1) := by
  have hpass : reqUp d = _ := if_neg (by simp [h])
  have hreq : (Dev.icuLive { d with pwr := { d.pwr with pwrReq := true } } 84).pwr = { d.pwr with pwrReq := true } := Dev.icuLive_pwr ..
  rw [hpass]
  dsimp only
  generalize Dev.icuLive _ 84 = x at hreq ⊢
  obtain ⟨r, c, g, p, hlim⟩ := x.unlimit_pwr
  rw [hreq] at hlim
  have hagain (rip : Bool) : (if rip then x else { x with pwr := { x.pwr with upAgain := true } }).pwr.pwrReq = true := by
    split
    · rw [hreq]
    · exact congrArg Power.pwrReq hreq
  refine ⟨?_, fun hs hi hts hext hr => ?_⟩
  · split
    · rw [(Dev.tryUp_inputs _).2, hlim]
    · exact hagain _
    · rw [hreq]
  · have hoff : x.pwr.svc = .off := by rw [hreq, hs]
    rw [hoff]
    exact Dev.tryUp_starts (by rw [hlim, hs]) (by rw [hlim, hi]) (by rw [hlim]) (by rw [hlim]) (by rw [hlim, hts]) (by rw [hlim, hext])
      (by rw [hlim, hr])

/-- PWR_REQ falls: the request is gone, and service ends with a flush (R340). -/
theorem reqDown_falls (h : d.pwr.pwrReq = true) : (reqDown F d).pwr.pwrReq = false ∧
    (d.pwr.svc = .reduced ∨ d.pwr.svc = .full → (reqDown F d).pwr.svc = .flush ∧ ∃ f, (reqDown F d).pwr.flush = some f ∧ f.why = .pwrReq) := by
  have hpass : reqDown F d = _ := if_neg (by simp [h])
  have hreq : (Dev.icuLive { d with pwr := { d.pwr with pwrReq := false } } 84).pwr = { d.pwr with pwrReq := false } := Dev.icuLive_pwr ..
  rw [hpass]
  dsimp only
  generalize Dev.icuLive _ 84 = x at hreq ⊢
  obtain ⟨t, m, hend⟩ := x.measureEnded_pwr
  rw [hreq] at hend
  have hflush : (flushEntry F x .pwrReq false).pwr.pwrReq = false := by rw [flushEntry_pwr, hend]
  refine ⟨?_, fun hs => ?_⟩
  · split
    · split
      · rw [Dev.downEntry, hend]
      · exact congrArg Power.pwrReq hreq
    · exact hflush
    · exact hflush
    · exact congrArg Power.pwrReq hreq
    · exact congrArg Power.pwrReq hreq
    · rw [hreq]
  · have hservice : x.pwr.svc = .reduced ∨ x.pwr.svc = .full := by rwa [hreq]
    have hflow : (flushEntry F x .pwrReq false).pwr.svc = .flush ∧
        ∃ f, (flushEntry F x .pwrReq false).pwr.flush = some f ∧ f.why = .pwrReq := by
      rw [flushEntry_pwr]
      exact ⟨rfl, _, rfl, rfl⟩
    rcases hservice with hx | hx
    · rw [hx]
      exact hflow
    · rw [hx]
      exact hflow

/-! ## Hold-up (R341 to R343) -/

theorem Dev.roleChan_role {role n : Nat} (h : d.roleChan role = some n) : (Tbl.look {} d.pwr.board.chan n).role = role := by
  unfold Dev.roleChan at h
  split at h
  · have hfound := List.find?_some h
    simp only [Bool.and_eq_true, decide_eq_true_eq] at hfound
    exact hfound.2
  · cases h

/-- A measurement starts: the charger off, the load on, with the bank at vh_full (R341). -/
theorem measureStart_starts {vh ch ld : Nat} (hch : d.roleChan 1 = some ch) (hld : d.roleChan 2 = some ld) (hl : d.live = true)
    (hd : d.pwr.downing = none) (hf : d.pwr.flush = none) (hi : d.pwr.inputOk = true) (hm : d.pwr.measuring = false)
    (hv : 10 * d.pwr.board.vhFull ≤ vh) (hc : d.pwr.cap = none) : measureStart d vh =
      (Dev.drive { d with pwr := { d.pwr with vh := vh, measuring := true, lastMeasure := d.tether.now } } false ch).drive true ld := by
  rw [measureStart, hch, hld]
  exact if_pos ⟨hl, by simp [hd], by simp [hf], hi, by simp [hm], hv, by simp [hc]⟩

/-- A measurement that completes gives the capacitance (R341). -/
theorem measureEnd_done {ns ch ld : Nat} (hch : d.roleChan 1 = some ch) (hld : d.roleChan 2 = some ld) (hm : d.pwr.measuring = true)
    (hns : ns ≤ 500000000) (hi : d.pwr.inputOk = true) (hr : 0 < d.pwr.board.rTest) :
    (measureEnd d ns true).pwr.measuring = false ∧
      (measureEnd d ns true).pwr.cap = some (min (ns * 10 ^ 14 / (d.pwr.board.rTest * 512932943875506)) 0xFFFFFF) := by
  have hstop : d.measureStop.pwr.measuring = false := by
    obtain ⟨t, -, -, hload, -⟩ := Dev.drive_seq { d with pwr := { d.pwr with measuring := false } } false ld
    obtain ⟨t', -, -, hcharge, -⟩ := Dev.drive_seq (Dev.drive { d with pwr := { d.pwr with measuring := false } } false ld) true ch
    rw [Dev.measureStop, hch, hld]
    dsimp only
    rw [if_pos hm, hcharge, hload]
  have hpass : measureEnd d ns true = _ := (if_neg (by simp [hm])).trans (if_pos ⟨rfl, hns, hi, hr⟩)
  rw [hpass]
  exact ⟨(congrArg Power.measuring (Dev.advance_pwr ..)).trans hstop, rfl⟩

/-- What the evaluation of R342 asks of the state, besides the energy. -/
def Dev.mayArm (d : Dev) : Bool :=
  d.pwr.inputOk && d.pwr.replayDone && d.pwr.cap.isSome && d.pwr.margin.isNone && d.pwr.board.valid && decide (d.pwr.svc = .reduced ∨ d.pwr.svc = .full)

/-- The evaluation's time, and the voltage that it reads. -/
def Dev.vhRead (d : Dev) (vh : Nat) : Dev := { d.tick 2 10000 with pwr := { (d.tick 2 10000).pwr with vh := vh } }

/-- Gondola is armed, is not, or stays as it was (R342). -/
def Dev.armTried (F : Fuses) (d : Dev) : Dev :=
  let low := !d.energyAtLeast (d.pwr.board.disarmPct * eRip F)
  let d2 := if d.pwr.measuring && d.pwr.cap.isSome && low then d.measureStop else d
  if d.mayArm && d2.energyAtLeast (d.pwr.board.armPct * eRip F) then d2.setArmed true
  else if !d.mayArm || low then d2.setArmed false else d2

/-- An empty staging area ends a withdrawal. -/
def Dev.withdrawalEnd (d : Dev) : Dev := if d.gon.staged.isEmpty then { d with gon := { d.gon with withdrawn := false } } else d

/-- The protective flush that follows where acknowledged writes are no longer covered (R343). -/
def Dev.armDone (F : Fuses) (p : Power) (d : Dev) : Dev :=
  if !d.gon.armed ∧ d.coveredLeft ∧ !d.energyAtLeast (105 * eRip F) ∧ p.inputOk ∧ (p.svc = .reduced ∨ p.svc = .full) then
    flushEntry F (d.icu 82) .protective false
  else d

theorem armEval_eq (d : Dev) (vh : Nat) : armEval F d vh = ((d.vhRead vh).armTried F).withdrawalEnd.armDone F (d.vhRead vh).pwr := by
  unfold armEval Dev.armDone Dev.withdrawalEnd Dev.armTried Dev.mayArm Dev.vhRead
  with_reducible rfl

theorem Dev.vhRead_pwr (d : Dev) (vh : Nat) : (d.vhRead vh).pwr = { d.pwr with vh := vh } := by rw [Dev.vhRead, Dev.tick_pwr]

theorem Dev.withdrawalEnd_armed (d : Dev) : d.withdrawalEnd.gon.armed = d.gon.armed ∧ d.withdrawalEnd.pwr = d.pwr := by
  unfold Dev.withdrawalEnd
  split
  · exact ⟨rfl, rfl⟩
  · exact ⟨rfl, rfl⟩

theorem Dev.armDone_armed (p : Power) (d : Dev) : (d.armDone F p).gon.armed = d.gon.armed := by
  unfold Dev.armDone
  split
  · rw [(flushEntry_touches ..).same .gon (by decide), Dev.icu_gon]
  · rfl

theorem Dev.armTried_arms (h : d.mayArm = true) (hm : d.pwr.measuring = false) (he : d.energyAtLeast (d.pwr.board.armPct * eRip F) = true) :
    d.armTried F = d.setArmed true := by
  rw [Dev.armTried, hm, Bool.false_and, Bool.false_and, if_neg Bool.false_ne_true, h, he]
  exact if_pos rfl

theorem Dev.armTried_withheld (h : d.mayArm = false) : (d.armTried F).gon.armed = false := by
  rw [Dev.armTried, h, Bool.false_and, if_neg Bool.false_ne_true, if_pos (by simp)]
  exact Dev.setArmed_armed _ _

/-- With the energy and every condition of R342 there, the evaluation arms Gondola. -/
theorem armEval_arms {vh c : Nat} (hi : d.pwr.inputOk = true) (hr : d.pwr.replayDone = true) (hc : d.pwr.cap = some c) (hm : d.pwr.margin = none)
    (hb : d.pwr.board.valid = true) (hs : d.pwr.svc = .reduced ∨ d.pwr.svc = .full) (hq : d.pwr.measuring = false)
    (he : d.pwr.board.armPct * eRip F * (2 * 10 ^ 10) ≤ c * d.pwr.board.eta * (vh * vh - 10 * d.pwr.board.vhMin * (10 * d.pwr.board.vhMin))) :
    (armEval F d vh).gon.armed = true ∧ (armEval F d vh).pwr.vh = vh := by
  have hmay : (d.vhRead vh).mayArm = true := by
    rw [Dev.mayArm, Dev.vhRead_pwr]
    dsimp only
    rw [hi, hr, hc, hm, hb, decide_eq_true hs]
    rfl
  have henough : (d.vhRead vh).energyAtLeast ((d.vhRead vh).pwr.board.armPct * eRip F) = true := by
    refine decide_eq_true ?_
    rw [Dev.energy, Dev.vhRead_pwr]
    dsimp only
    rw [hc]
    exact he
  obtain ⟨harmed, hpwr⟩ := Dev.withdrawalEnd_armed ((d.vhRead vh).setArmed true)
  rw [Dev.setArmed_armed] at harmed
  rw [armEval_eq, Dev.armTried_arms hmay (by rw [Dev.vhRead_pwr, hq]) henough, Dev.armDone, if_neg (by simp [harmed]), hpwr,
    (Dev.setArmed_touches ..).same .pwr (by decide), Dev.vhRead_pwr]
  exact ⟨harmed, rfl⟩

/-- Before the replay is done the evaluation leaves Gondola unarmed, whatever else it finds (R342). -/
theorem armEval_replay (vh : Nat) (hr : d.pwr.replayDone = false) : (armEval F d vh).gon.armed = false := by
  have hmay : (d.vhRead vh).mayArm = false := by
    rw [Dev.mayArm, Dev.vhRead_pwr]
    dsimp only
    rw [hr, Bool.and_false]
    rfl
  rw [armEval_eq, Dev.armDone_armed, (Dev.withdrawalEnd_armed _).1, Dev.armTried_withheld hmay]

end

/-- Settles O46. -/
theorem powerInputs : Obligations.POWER_INPUTS := by
  unfold Obligations.POWER_INPUTS
  refine ⟨?_, ?_, ?_, ?_, ?_, ?_, ?_, ?_, ?_, ?_, ?_, ?_, ?_, ?_, ?_⟩
  case refine_1 =>
    intro still s hp
    refine ⟨_, next_congr s (if_pos hp), ?_⟩
    dsimp only
    rw [Dev.emit_pwr, Dev.advance_pwr]
  case refine_2 =>
    exact fun s hd hp => ⟨⟨_, rfl, noticeSeen_seen hd hp⟩, _, rfl, faultSeen_lineLow hd hp⟩
  case refine_3 => exact fun s => ⟨_, rfl, rfl, fun hh hs => if_pos ⟨hh, hs⟩⟩
  case refine_4 => exact fun h v s hh hs hb hc hpct hm hdir => ⟨_, next_congr s (if_pos hh), marginWrite_set hs hb hc hpct hm hdir⟩
  case refine_5 =>
    intro h v s hpct
    have hvia : viaHead s.fuse s.dev h (fun d => marginWrite d v.toNat) = s.dev := by
      unfold viaHead
      split
      · exact marginWrite_over hpct
      · rfl
    exact next_congr s hvia
  case refine_6 => exact fun h v b c s hh hs hb hc hpct hm hdir => ⟨_, next_congr s (if_pos hh), marginWrite_clear hs hb hc hpct hm hdir⟩
  case refine_7 =>
    intro vin s hv
    refine ⟨_, next_congr s (if_pos hv), (Dev.tryUp_inputs _).1, fun hs hq hl hts hext hr => ?_⟩
    exact Dev.tryUp_starts hs rfl hq hl hts hext hr
  case refine_8 => exact fun vin s hv => ⟨_, rfl, inputBad_low hv⟩
  case refine_9 => exact fun vin s hv => ⟨_, next_congr s (if_pos hv), rfl⟩
  case refine_10 => exact fun s h => ⟨_, rfl, reqUp_rises h⟩
  case refine_11 => exact fun s h => ⟨_, rfl, reqDown_falls h⟩
  case refine_12 =>
    intro vh ch ld s hch hld hl hd hf hi hm hv hc
    obtain ⟨t, sns, pg, hcharge, hseq⟩ := Dev.drive_seq
      { s.dev with pwr := { s.dev.pwr with vh := vh, measuring := true, lastMeasure := s.dev.tether.now } } false ch
    obtain ⟨t', sns', pg', hload, hseq'⟩ := Dev.drive_seq (Dev.drive
      { s.dev with pwr := { s.dev.pwr with vh := vh, measuring := true, lastMeasure := s.dev.tether.now } } false ch) true ld
    have hne : ch ≠ ld := by
      rintro rfl
      have hrole := (Dev.roleChan_role hch).symm.trans (Dev.roleChan_role hld)
      omega
    refine ⟨_, next_congr s (measureStart_starts hch hld hl hd hf hi hm hv hc), by rw [hload, hcharge], by rw [hload, hcharge], ?_, ?_⟩
    · rw [hseq', if_pos rfl]
    · rw [hseq', if_neg hne, hseq, if_pos rfl]
  case refine_13 => exact fun ns ch ld s hch hld hm hns hi hr => ⟨_, rfl, measureEnd_done hch hld hm hns hi hr⟩
  case refine_14 => exact fun vh c s hi hr hc hm hb hs hq he => ⟨_, rfl, armEval_arms hi hr hc hm hb hs hq he⟩
  case refine_15 => exact fun vh s hr => ⟨_, rfl, armEval_replay vh hr⟩

end Sys2Proof.Machine

/-!
PROOFS. O47 (R315, R328, R346 to R352, R357 to R359): bring-up, replay and the release of a segment. The writes that a step queues for the Keel
store leave its counters alone (`Dev.KeelQueued`).
-/
namespace Sys2Proof.Machine

section
variable {F : Fuses} {d e : Dev}

/-! ## The Keel store's counters -/

/-- Writes are queued for the Keel store, and operating time may be saved; nothing else of the store's record changes. -/
def Dev.KeelQueued (d e : Dev) : Prop := ∃ ws rs ts ss, e.keel = { d.keel with waiting := ws, ringSeq := rs, tetherSaved := ts, sinceSave := ss }

theorem Dev.KeelQueued.of_keel (h : e.keel = d.keel) : d.KeelQueued e := ⟨_, _, _, _, h⟩

theorem Dev.KeelQueued.comp {f : Dev} (h : e.KeelQueued f) (g : d.KeelQueued e) : d.KeelQueued f := by
  obtain ⟨ws, rs, ts, ss, hf⟩ := h
  obtain ⟨ws', rs', ts', ss', he⟩ := g
  exact ⟨ws, rs, ts, ss, by rw [hf, he]⟩

theorem Dev.ringPut_queued (d : Dev) (r : Ring) (body : List Nat) (owner : Option Nat) : d.KeelQueued (d.ringPut r body owner) := ⟨_, _, _, _, rfl⟩

theorem Dev.lifePut_queued (d : Dev) : d.KeelQueued d.lifePut := ⟨_, _, _, _, rfl⟩

theorem Dev.flushLog_queued (d : Dev) : d.KeelQueued (Dev.flushLog F d) := by
  have hpages (l : List (Nat × List LogRec)) (e : Dev) :
      e.KeelQueued (l.foldl (fun d p => d.keelPut ⟨p.1, 0, logPage p.2, .logPage, 0, none⟩) e) :=
    List.foldlRecOn (motive := fun f : Dev => e.KeelQueued f) _ _ (.of_keel rfl) fun _ h _ _ => .comp ⟨_, _, _, _, rfl⟩ h
  unfold Dev.flushLog
  obtain ⟨ps, rest⟩ := logSplit F d.log.next d.log.buf.length d.log.buf
  dsimp only
  have hrest (x : Dev) (b : List Nat) : x.KeelQueued (if rest.isEmpty = true then x else x.ringPut .staging b) := by
    split
    · exact .of_keel rfl
    · exact x.ringPut_queued _ _ _
  have hboth := (hrest _ ([rest.length, 0, 0] ++ leBytes 4 (rest.headD {}).number ++ rest.flatMap LogRec.stored)).comp (hpages ps d)
  generalize (if rest.isEmpty = true then _ else _ : Dev) = y at hboth ⊢
  split
  · exact hboth
  · exact .comp (.of_keel ((Dev.logPush_touches ..).same .keel (by decide))) hboth

theorem Dev.setSvc_queued (d : Dev) (v : Svc) : d.KeelQueued (d.setSvc F v) := by
  unfold Dev.setSvc
  dsimp only
  have hnotice : d.KeelQueued (Dev.notice F { d with pwr := { d.pwr with svc := v } }) := .of_keel (Dev.notice_keel ..)
  split
  · exact .of_keel rfl
  · split
    · exact hnotice
    · refine .comp ?_ hnotice
      generalize Dev.notice F _ = x
      unfold Dev.thaw
      dsimp only
      split
      · split
        · exact (Dev.flushLog_queued _).comp (.of_keel rfl)
        · exact .of_keel rfl
      · exact .of_keel rfl

/-! ## What the steps of bring-up leave of the supervisor's record -/

theorem Dev.faultRelease_pwr (d : Dev) : ∃ g p, d.faultRelease.pwr = { d.pwr with drive := g, pinLow := p } := by
  unfold Dev.faultRelease
  split
  · exact ⟨false, d.pwr.pulse, Dev.emit_pwr ..⟩
  · exact ⟨_, _, rfl⟩

theorem stallStep_pwr (d : Dev) (cause : Nat) : (stallStep F d cause).pwr = { d.pwr with step := 0xF, cause := cause, drive := true, pinLow := true } := by
  rw [stallStep, Dev.faultLevel_pwr]

/-- Where nothing has asked for the rails to go down, the step is its work (R350). -/
theorem bringupStep_work {inp : List Nat} (hs : d.pwr.svc = .bringup ∨ (d.pwr.svc = .reduced ∧ d.pwr.step = 10)) (hh : d.dbg.hold = false)
    (hf : d.pwr.flush = none) (hstop : (stepWork F d inp).pwr.stopUp = false ∨ (stepWork F d inp).pwr.svc ≠ .bringup) :
    bringupStep F d inp = stepWork F d inp := by
  have hpass : bringupStep F d inp = _ := if_neg (by simp [hs, hh, hf])
  rw [hpass]
  refine if_neg fun hgo => ?_
  obtain ⟨hup, -, hsvc⟩ := hgo
  rcases hstop with h | h
  · rw [h] at hup
    cases hup
  · exact h hsvc

/-! ## Steps 0x2 to 0x5 -/

/-- Step 0x2 after its scan of the rings (R101, R350). -/
def Dev.fusesRead (F : Fuses) (d : Dev) (inp : List Nat) : Dev :=
  let d0 := (keelScan F d).restoreMail
  if d0.pwr.aonLost ∨ inp.getD 3 0 ≠ 0 then d0.coldStart else d0

/-- Step 0x2 counts the power cycle, takes the outcomes of its tests and writes the life record and the repairs. -/
def Dev.fusesTaken (d : Dev) (inp : List Nat) : Dev :=
  let k := d.keel
  let new := (inp.drop 5).take (61 - k.repairs.length)
  let reps := k.repairs ++ new
  let d2 := { d with keel := { k with pcyc := (k.pcyc + 1) % 2 ^ 32, repairs := reps }
                     drift := { d.drift with checkers := true, sramFail := decide (inp.getD 0 0 ≠ 0), sramRepairs := k.repairs.length
                                             badChan := inp.getD 1 0, onCorr := min (inp.getD 2 0) 0xFF }
                     cache := { d.cache with badWays := (List.range 12).filter fun w => bit (inp.getD 4 0) w }
                     sec := { d.sec with rngOk := true, ladderOk := true } }
  if new.isEmpty then d2.lifePut else d2.lifePut.ringPut .repairs ([reps.length, 0, 0] ++ reps.flatMap (leBytes 4))

theorem stepFuses_eq (d : Dev) (inp : List Nat) : stepFuses F d inp =
    if inp.getD 0 0 = 0 then
      { ((d.fusesRead F inp).fusesTaken inp).faultRelease with pwr := { ((d.fusesRead F inp).fusesTaken inp).faultRelease.pwr with step := 3 } }
    else stallStep F (((d.fusesRead F inp).fusesTaken inp).faultRelease.event F 0x3005 (inp.getD 0 0 - 1)) 3 := by
  unfold stepFuses Dev.fusesTaken Dev.fusesRead
  with_reducible rfl

theorem Dev.fusesRead_state (d : Dev) (inp : List Nat) : ((d.fusesRead F inp).keel.ready = true ∧
    (d.fusesRead F inp).keel.pcyc = d.ringField .life 16 4) ∧ (d.fusesRead F inp).pwr.stopUp = d.pwr.stopUp := by
  have hpwr : (keelScan F d).pwr = d.pwr := (keelScan_touches F d).same .pwr (by decide)
  have hkeel : (keelScan F d).keel.ready = true ∧ (keelScan F d).keel.pcyc = d.ringField .life 16 4 := by
    unfold keelScan
    exact ⟨rfl, rfl⟩
  unfold Dev.fusesRead
  generalize keelScan F d = x at hpwr hkeel ⊢
  rw [← hpwr]
  dsimp only
  split
  · exact ⟨hkeel, rfl⟩
  · exact ⟨hkeel, rfl⟩

theorem Dev.fusesTaken_state (d : Dev) (inp : List Nat) : ((d.fusesTaken inp).keel.ready = d.keel.ready ∧
    (d.fusesTaken inp).keel.pcyc = (d.keel.pcyc + 1) % 2 ^ 32) ∧ (d.fusesTaken inp).drift.checkers = true ∧
    (d.fusesTaken inp).pwr = d.pwr := by
  unfold Dev.fusesTaken
  dsimp only
  split
  · exact ⟨⟨rfl, rfl⟩, rfl, rfl⟩
  · exact ⟨⟨rfl, rfl⟩, rfl, rfl⟩

/-- Step 0x2 reads the rings, counts a power cycle and puts the checkers on, whether its tests pass or not (R192, R350, R378). -/
theorem stepFuses_scan (d : Dev) (inp : List Nat) : ∃ e : Dev, (e.keel.ready = true ∧ e.keel.pcyc = (d.ringField .life 16 4 + 1) % 2 ^ 32) ∧
    e.drift.checkers = true ∧ e.pwr.stopUp = d.pwr.stopUp ∧ stepFuses F d inp =
      if inp.getD 0 0 = 0 then { e with pwr := { e.pwr with step := 3 } } else stallStep F (e.event F 0x3005 (inp.getD 0 0 - 1)) 3 := by
  obtain ⟨⟨hready, hpcyc⟩, hstop⟩ := d.fusesRead_state (F := F) inp
  obtain ⟨⟨hready', hpcyc'⟩, hcheck, hpwr⟩ := (d.fusesRead F inp).fusesTaken_state inp
  obtain ⟨g, p, hfault⟩ := ((d.fusesRead F inp).fusesTaken inp).faultRelease_pwr
  refine ⟨_, ?_, ?_, ?_, stepFuses_eq d inp⟩
  · rw [(Dev.faultRelease_touches _).same .keel (by decide), hready', hpcyc', hpcyc]
    exact ⟨hready, rfl⟩
  · rw [(Dev.faultRelease_touches _).same .drift (by decide), hcheck]
  · rw [hfault, hpwr]
    exact hstop

theorem stepCores_pass {aOk bOk : Bool} (h : aOk = true ∨ bOk = true) :
    (stepCores F d aOk bOk).pwr = { d.pwr with step := 4 } ∧ (stepCores F d aOk bOk).cores.active = (if aOk then .a else .b) ∧
      ((stepCores F d aOk bOk).pair .a).runs = aOk ∧ ((stepCores F d aOk bOk).pair .b).runs = bOk := by
  have hpass : stepCores F d aOk bOk = _ := if_pos h
  rw [hpass]
  exact ⟨rfl, rfl, by simp [Dev.pair, Pair.runs], by simp [Dev.pair, Pair.runs]⟩

theorem stepCores_fail : (stepCores F d false false).pwr = { d.pwr with step := 0xF, cause := 4, drive := true, pinLow := true } ∧
    (stepCores F d false false).cores.dead = true := by
  unfold stepCores
  dsimp only
  rw [if_neg (by simp), stallStep_pwr, (stallStep_touches ..).same .cores (by decide)]
  exact ⟨rfl, rfl⟩

/-- The operand of step 0x4 is read as the two copies of the block (R346). -/
theorem configCopies (p q : List Nat) : ((p.length :: p ++ q).drop 1).take ((p.length :: p ++ q).getD 0 0) = p ∧
    (p.length :: p ++ q).drop (1 + (p.length :: p ++ q).getD 0 0) = q := by
  refine ⟨by simp, ?_⟩
  rw [List.cons_append, List.getD_cons_zero, Nat.add_comm, List.drop_succ_cons, List.drop_left]

theorem stepConfig_taken {p q b : List Nat} (h : bcPick F p q = some b) :
    stepConfig F d (p.length :: p ++ q) = { bcTake F d b with pwr := { (bcTake F d b).pwr with step := 5 } } := by
  obtain ⟨hp, hq⟩ := configCopies p q
  unfold stepConfig
  dsimp only
  rw [hp, hq, h]

theorem stepConfig_none {p q : List Nat} (h : bcPick F p q = none) :
    stepConfig F d (p.length :: p ++ q) = stallStep F ({ d with pwr := { d.pwr with board := {} } }.event F 0x1003 0) 1 := by
  obtain ⟨hp, hq⟩ := configCopies p q
  unfold stepConfig
  dsimp only
  rw [hp, hq, h]

theorem bcTake_pwr (d : Dev) (b : List Nat) : (bcTake F d b).pwr = { d.pwr with board := bcBoard F b } := by
  unfold bcTake
  dsimp only
  split
  · rw [Dev.event_pwr]
  · rfl

theorem imageStart_state (d : Dev) (k : Nat) : (imageStart F d k).images.running = k ∧
    (imageStart F d k).images.fallback = decide (k ≠ d.keel.sel) ∧ (imageStart F d k).pwr = d.pwr := by
  unfold imageStart
  dsimp only
  split
  · rw [Dev.event_images, Dev.event_pwr]
    exact ⟨rfl, rfl, rfl⟩
  · exact ⟨rfl, rfl, rfl⟩

theorem stepImage_boot {k : Nat} (h : bootSlot F d = some k) :
    stepImage F d = { (imageStart F d k).icu 102 with pwr := { ((imageStart F d k).icu 102).pwr with step := 6 } } := by rw [stepImage, h]

theorem stepImage_stall (h : bootSlot F d = none) : stepImage F d = stallStep F d 2 := by rw [stepImage, h]

/-! ## The restore of step 0x8 (R357, R358) -/

theorem metaBackIn_pwr (d : Dev) (s : Segment) (readable : Bool) : ∃ m, (metaBackIn F d s readable).pwr = { d.pwr with segMeta := m } := by
  unfold metaBackIn
  dsimp only
  split
  · have hfold : ((s.metaLines.map fun l => l.id).foldl (fun d id => (d.setMeta (copyMeta s.mta d.tracts.cur id)).tcTouch id true) d).pwr = d.pwr :=
      List.foldlRecOn (motive := fun e : Dev => e.pwr = d.pwr) _ _ rfl fun f h id _ => by
        rw [(Dev.tcTouch_touches ..).same .pwr (by decide), (Dev.setMeta_touches ..).same .pwr (by decide), h]
    exact ⟨_, by rw [hfold]⟩
  · refine ⟨d.pwr.segMeta, ?_⟩
    exact List.foldlRecOn (motive := fun e : Dev => e.pwr = d.pwr) _ _ rfl fun f h id _ => by
      rw [(metaLost_touches ..).same .pwr (by decide), h]

theorem segRestore_pwr (d : Dev) (s : Segment) (parts : Nat) (lost : List Nat) : ∃ m, (segRestore F d s parts lost).pwr =
    { d.pwr with segMeta := m, segUsed := some s.num, incomplete := !s.complete } := by
  obtain ⟨m, hm⟩ := metaBackIn_pwr (F := F) d s (bit parts 1)
  have hunits : (if bit parts 5 then unitsBack (metaBackIn F d s (bit parts 1)) s else metaBackIn F d s (bit parts 1)).pwr = { d.pwr with segMeta := m } := by
    split
    · exact hm
    · exact hm
  refine ⟨m, ?_⟩
  rw [segRestore]
  dsimp only
  rw [(entriesBack_touches ..).same .pwr (by decide), (countersBack_touches ..).same .pwr (by decide), (rowsBack_touches ..).same .pwr (by decide),
    hunits]

/-- The device with the contents of the chosen segment. -/
def segContents (F : Fuses) (d : Dev) (parts : Nat) (lost : List Nat) : Dev :=
  match (segPick d parts).1 with
  | some s => segRestore F d s (if s.complete && (segPick d parts).2 then 127 else parts) lost
  | none => d

/-- The supervisor notes that the restore is made, and from how much. -/
def Dev.restoreNoted (d : Dev) (scrub : Bool) : Dev :=
  { d with tracts := { d.tracts with sealed := d.sealedRecord }
           pwr := { d.pwr with restored := true, scrubFirst := d.pwr.scrubFirst || scrub, incomplete := d.pwr.incomplete || scrub,
                               replayLines := d.gon.staged.length + d.gon.wb.length } }

theorem segContents_pwr (d : Dev) (parts : Nat) (lost : List Nat) : (segContents F d parts lost).pwr.stopUp = d.pwr.stopUp ∧
    (segContents F d parts lost).pwr.ended = d.pwr.ended := by
  unfold segContents
  split
  next s _ =>
    obtain ⟨m, hm⟩ := segRestore_pwr (F := F) d s (if s.complete && (segPick d parts).2 then 127 else parts) lost
    rw [hm]
    exact ⟨rfl, rfl⟩
  next => exact ⟨rfl, rfl⟩

/-- The outcome of the last power-down is in the Keel record, and nothing is left to record (R51, R378). -/
theorem outcomeRecord_state (d : Dev) : (outcomeRecord F d).pwr = { d.pwr with lastOff := d.pwr.ended, ended := 0 } ∧
    (outcomeRecord F d).keel.lastOff = d.pwr.ended ∧ (outcomeRecord F d).gon = d.gon := by
  unfold outcomeRecord
  extract_lets k o rip count held k1 p d1 d2
  have hpost : d2.pwr = d1.pwr ∧ d2.keel = d1.keel ∧ d2.gon = d1.gon := by
    by_cases hc : count = true
    · rw [show d2 = d1.postAll F .fail .dirtyShutdown 0 from if_pos hc]
      exact ⟨Dev.postAll_pwr .., Dev.postAll_keel .., Dev.postAll_gon ..⟩
    · rw [show d2 = d1 from if_neg hc]
      exact ⟨rfl, rfl, rfl⟩
  obtain ⟨hpwr, hkeel, hgon⟩ := hpost
  obtain ⟨ws, rs, ts, ss, hqueued⟩ := (d2.statePut.lifePut_queued).comp (d2.ringPut_queued .state d2.stateBody none)
  refine ⟨hpwr, ?_, hgon⟩
  rw [hqueued, hkeel]

theorem reducedEntry_state (d : Dev) : (reducedEntry F d).pwr = { d.pwr with svc := .reduced, step := 9 } ∧
    (reducedEntry F d).lci.ready = true ∧ (reducedEntry F d).tether.schedule = true ∧ d.KeelQueued (reducedEntry F d) ∧
    (reducedEntry F d).gon = d.gon := by
  unfold reducedEntry
  dsimp only
  rw [Dev.notice_pwr, Dev.notice_lci, Dev.notice_tether, Dev.notice_gon]
  dsimp only
  rw [Dev.setSvc_pwr, (Dev.setSvc_touches ..).same .gon (by decide)]
  exact ⟨rfl, rfl, rfl, .comp (.of_keel (Dev.notice_keel ..)) (d.setSvc_queued .reduced), rfl⟩

/-- Step 0x8 restores, records the outcome and begins reduced service (R350, R352, R357). -/
theorem replayRestore_runs (hs : d.pwr.svc = .bringup) (hstep : d.pwr.step = 8) (hh : d.dbg.hold = false) (hd : d.pwr.downing = none)
    (hstop : d.pwr.stopUp = false) (parts : Nat) (lost : List Nat) : replayRestore F d parts lost =
      reducedEntry F (outcomeRecord F ((segContents F d parts lost).restoreNoted (segPick d parts).2)) := by
  have hpass : replayRestore F d parts lost =
      if (outcomeRecord F ((segContents F d parts lost).restoreNoted (segPick d parts).2)).pwr.stopUp then
        (outcomeRecord F ((segContents F d parts lost).restoreNoted (segPick d parts).2)).downEntry .pwrReq none
      else reducedEntry F (outcomeRecord F ((segContents F d parts lost).restoreNoted (segPick d parts).2)) := by
    rw [replayRestore, if_neg (by simp [hs, hstep, hh, hd]), segContents, Dev.restoreNoted]
    generalize segPick d parts = pick
    obtain ⟨_ | s, scrub⟩ := pick
    · with_reducible rfl
    · with_reducible rfl
  have hgo : (outcomeRecord F ((segContents F d parts lost).restoreNoted (segPick d parts).2)).pwr.stopUp = false := by
    rw [(outcomeRecord_state _).1]
    exact (segContents_pwr d parts lost).1.trans hstop
  rw [hpass, hgo]
  exact if_neg Bool.false_ne_true

/-- A segment's one whole entry, held under no slot, returns to Gondola (R357). -/
theorem entriesBack_one {s : Segment} {n : Nat} {g : GEntry} (hstaged : s.staged = [(n, some g)]) (hwb : s.wb = []) (hk : g.key = 0) :
    (entriesBack F d s 127 []).staged n = some (g.restored d s) := by
  have hmeta : bit 127 0 = true := by decide
  have hgon : bit 127 2 = true := by decide
  unfold entriesBack
  rw [hstaged, hwb]
  simp [hmeta, hgon, hk, Dev.staged]

theorem segRestore_one (d : Dev) {s : Segment} {n : Nat} {g : GEntry} (hstaged : s.staged = [(n, some g)]) (hwb : s.wb = []) (hk : g.key = 0) :
    ∃ before, (segRestore F d s 127 []).staged n = some (g.restored before s) := ⟨_, entriesBack_one hstaged hwb hk⟩

end

/-- Settles O47. -/
theorem bringupAndReplay : Obligations.BRINGUP_AND_REPLAY := by
  unfold Obligations.BRINGUP_AND_REPLAY
  refine ⟨?_, ?_, ?_, ?_, ?_, ?_⟩
  case refine_1 =>
    intro inp s hs hh hf hstop
    have hwork {e : Dev} (hw : stepWork s.fuse s.dev inp = e) (he : e.pwr.stopUp = false) :
        exec (.bringupStep inp) s = .next { s with dev := e } :=
      next_congr s ((bringupStep_work (Or.inl hs) hh hf (Or.inl (by rw [hw, he]))).trans hw)
    refine ⟨?_, ?_, ?_, ?_, ?_, ?_, ?_, ?_, ?_, ?_, ?_, ?_, ?_⟩
    case refine_1 =>
      intro hk hv
      obtain ⟨g, p, hpwr⟩ := s.dev.faultRelease_pwr
      refine hwork ?_ (by rw [hpwr, hstop])
      rw [stepWork, hk]
      exact if_pos hv
    case refine_2 =>
      intro hk hv
      refine hwork ?_ hstop
      rw [stepWork, hk]
      exact if_neg fun h => Bool.false_ne_true (hv.symm.trans h)
    case refine_3 =>
      rintro hk rfl
      obtain ⟨e, hkeel, hcheck, hup, hfuses⟩ := stepFuses_scan (F := s.fuse) s.dev []
      have hw : stepWork s.fuse s.dev [] = { e with pwr := { e.pwr with step := 3 } } := by
        rw [stepWork, hk]
        exact hfuses.trans (if_pos rfl)
      exact ⟨_, hwork hw (hup.trans hstop), rfl, hkeel.1, hkeel.2, hcheck⟩
    case refine_4 =>
      intro hk hbad
      obtain ⟨e, -, -, hup, hfuses⟩ := stepFuses_scan (F := s.fuse) s.dev inp
      have hnonzero : inp.getD 0 0 ≠ 0 := by
        cases inp with
        | nil => exact absurd hbad (by simp)
        | cons x xs => exact Nat.pos_iff_ne_zero.mp hbad
      have hw : stepWork s.fuse s.dev inp = stallStep s.fuse (e.event s.fuse 0x3005 (inp.getD 0 0 - 1)) 3 := by
        rw [stepWork, hk]
        exact hfuses.trans (if_neg hnonzero)
      refine ⟨_, hwork hw ?_, ?_⟩
      · rw [stallStep_pwr, Dev.event_pwr, hup, hstop]
      · rw [stallStep_pwr]
        exact ⟨rfl, rfl, rfl⟩
    case refine_5 =>
      rintro hk rfl
      obtain ⟨hpwr, hactive, ha, hb⟩ := stepCores_pass (F := s.fuse) (d := s.dev) (aOk := true) (bOk := true) (Or.inl rfl)
      have hw : stepWork s.fuse s.dev [1, 1] = stepCores s.fuse s.dev true true := by
        rw [stepWork, hk]
        rfl
      exact ⟨_, hwork hw (by rw [hpwr, hstop]), by rw [hpwr], hactive, ha, hb⟩
    case refine_6 =>
      rintro hk rfl
      obtain ⟨hpwr, hactive, ha, hb⟩ := stepCores_pass (F := s.fuse) (d := s.dev) (aOk := false) (bOk := true) (Or.inr rfl)
      have hw : stepWork s.fuse s.dev [0, 1] = stepCores s.fuse s.dev false true := by
        rw [stepWork, hk]
        rfl
      exact ⟨_, hwork hw (by rw [hpwr, hstop]), by rw [hpwr], hactive, ha, hb⟩
    case refine_7 =>
      rintro hk rfl
      obtain ⟨hpwr, hdead⟩ := stepCores_fail (F := s.fuse) (d := s.dev)
      have hw : stepWork s.fuse s.dev [0, 0] = stepCores s.fuse s.dev false false := by
        rw [stepWork, hk]
        rfl
      exact ⟨_, hwork hw (by rw [hpwr, hstop]), by rw [hpwr], by rw [hpwr], hdead⟩
    case refine_8 =>
      rintro p q b hk rfl hb
      have hw : stepWork s.fuse s.dev (p.length :: p ++ q) =
          { bcTake s.fuse s.dev b with pwr := { (bcTake s.fuse s.dev b).pwr with step := 5 } } := by
        rw [stepWork, hk]
        exact stepConfig_taken hb
      have hpwr := bcTake_pwr (F := s.fuse) s.dev b
      exact ⟨_, hwork hw ((congrArg Power.stopUp hpwr).trans hstop), rfl, congrArg Power.board hpwr⟩
    case refine_9 =>
      rintro p q hk rfl hb
      have hw : stepWork s.fuse s.dev (p.length :: p ++ q) =
          stallStep s.fuse ({ s.dev with pwr := { s.dev.pwr with board := {} } }.event s.fuse 0x1003 0) 1 := by
        rw [stepWork, hk]
        exact stepConfig_none hb
      refine ⟨_, hwork hw ?_, ?_⟩
      · rw [stallStep_pwr, Dev.event_pwr, hstop]
      · rw [stallStep_pwr, Dev.event_pwr]
        exact ⟨rfl, rfl, rfl⟩
    case refine_10 =>
      intro k hk hslot
      obtain ⟨hrun, hfall, hpwr⟩ := imageStart_state (F := s.fuse) s.dev k
      have hw : stepWork s.fuse s.dev inp =
          { (imageStart s.fuse s.dev k).icu 102 with pwr := { ((imageStart s.fuse s.dev k).icu 102).pwr with step := 6 } } := by
        rw [stepWork, hk]
        exact stepImage_boot hslot
      refine ⟨_, hwork hw ?_, rfl, ?_, ?_⟩
      · exact (congrArg Power.stopUp ((Dev.icu_pwr ..).trans hpwr)).trans hstop
      · exact (congrArg Images.running (Dev.icu_images ..)).trans hrun
      · exact (congrArg Images.fallback (Dev.icu_images ..)).trans hfall
    case refine_11 =>
      intro hk hslot
      have hw : stepWork s.fuse s.dev inp = stallStep s.fuse s.dev 2 := by
        rw [stepWork, hk]
        exact stepImage_stall hslot
      exact ⟨_, hwork hw (by rw [stallStep_pwr, hstop]), by rw [stallStep_pwr], by rw [stallStep_pwr]⟩
    case refine_12 =>
      intro hk hv
      have hw : stepWork s.fuse s.dev inp = { s.dev.groupsLoad with pwr := { s.dev.groupsLoad.pwr with step := 7 } } := by
        rw [stepWork, hk]
        exact if_pos hv
      have hpwr : s.dev.groupsLoad.pwr = s.dev.pwr := (Dev.groupsLoad_touches s.dev).same .pwr (by decide)
      refine ⟨_, hwork hw ?_, rfl⟩
      dsimp only
      rw [hpwr, hstop]
    case refine_13 =>
      intro hk hm
      have hw : stepWork s.fuse s.dev inp = { s.dev.mediaLoad with pwr := { s.dev.mediaLoad.pwr with step := 8 } } := by
        rw [stepWork, hk]
        exact if_pos hm
      have hpwr : s.dev.mediaLoad.pwr = s.dev.pwr := (Dev.mediaLoad_touches s.dev).same .pwr (by decide)
      refine ⟨_, hwork hw ?_, rfl⟩
      dsimp only
      rw [hpwr, hstop]
  case refine_2 =>
    intro inp s hs hk hh hf hsurvey hscrub
    have hw : stepWork s.fuse s.dev inp =
        { s.dev.setSvc s.fuse .full with pwr := { (s.dev.setSvc s.fuse .full).pwr with step := 11, scrubFirst := false } } := by
      rw [stepWork, hk]
      exact if_pos ⟨hsurvey, Or.inl (by simp [hscrub])⟩
    have hfull : (stepWork s.fuse s.dev inp).pwr.svc = .full := by
      rw [hw]
      exact congrArg Power.svc (Dev.setSvc_pwr ..)
    refine ⟨_, next_congr s (bringupStep_work (Or.inr ⟨hs, hk⟩) hh hf (Or.inr (by rw [hfull]; decide))), hfull, ?_⟩
    rw [hw]
  case refine_3 =>
    intro parts lost s hs hk hh hd hstop
    obtain ⟨hpwr, hready, hschedule, hqueued, -⟩ := reducedEntry_state (F := s.fuse) (outcomeRecord s.fuse
      ((segContents s.fuse s.dev parts.toNat (lost.map fun a => a.toNat / 64)).restoreNoted (segPick s.dev parts.toNat).2))
    obtain ⟨houtcome, hlast, -⟩ := outcomeRecord_state (F := s.fuse)
      ((segContents s.fuse s.dev parts.toNat (lost.map fun a => a.toNat / 64)).restoreNoted (segPick s.dev parts.toNat).2)
    obtain ⟨ws, rs, ts, ss, hkeel⟩ := hqueued
    have hended := (segContents_pwr (F := s.fuse) s.dev parts.toNat (lost.map fun a => a.toNat / 64)).2
    refine ⟨_, next_congr s (replayRestore_runs hs hk hh hd hstop _ _), by rw [hpwr], by rw [hpwr], hready, hschedule, ?_, ?_, ?_⟩
    · rw [hkeel]
      exact hlast.trans hended
    · rw [hpwr, houtcome]
    · rw [hpwr, houtcome]
      rfl
  case refine_4 =>
    intro x l n g s hs hk hh hd hstop hsegs hcomplete hreleased hended hstaged hwb hkey
    have hpick : segPick s.dev 127 = (some x, false) := by
      unfold segPick
      dsimp only
      rw [hended, hsegs]
      simp [hreleased, hcomplete]
    have hcontents : segContents s.fuse s.dev 127 [] = segRestore s.fuse s.dev x 127 [] := by
      rw [segContents, hpick]
      simp
    obtain ⟨hpwr, -, -, -, hgon⟩ := reducedEntry_state (F := s.fuse) (outcomeRecord s.fuse
      ((segContents s.fuse s.dev 127 []).restoreNoted (segPick s.dev 127).2))
    obtain ⟨houtcome, -, hgon'⟩ := outcomeRecord_state (F := s.fuse) ((segContents s.fuse s.dev 127 []).restoreNoted (segPick s.dev 127).2)
    obtain ⟨m, hseg⟩ := segRestore_pwr (F := s.fuse) s.dev x 127 []
    obtain ⟨before, hentry⟩ := segRestore_one (F := s.fuse) s.dev hstaged hwb hkey
    refine ⟨g.restored before x, _, next_congr s (replayRestore_runs hs hk hh hd hstop 127 []), ?_, rfl, rfl, rfl, rfl, rfl, ?_⟩
    · rw [Dev.staged, hgon, hgon', hcontents]
      exact hentry
    · rw [hpwr, houtcome, hcontents]
      exact congrArg Power.segUsed hseg
  case refine_5 =>
    intro s hs hk
    have hpass : replayRepair s.dev = _ := if_neg (by simp [hs, hk])
    refine ⟨_, next_congr s hpass, ?_⟩
    rw [(Dev.surveyBegin_touches _).same .pwr (by decide)]
    exact ⟨rfl, rfl⟩
  case refine_6 =>
    intro n s hu hr hdrained
    have hpass : segRelease s.dev = Dev.rootPut { s.dev with pwr := { s.dev.pwr with segUsed := none
                                                                                     segs := s.dev.pwr.segs.map fun s => { s with released := true } } } := by
      rw [segRelease, hu]
      exact if_pos ⟨hr, hdrained⟩
    refine ⟨_, next_congr s hpass, ?_⟩
    rw [(Dev.rootPut_touches _).same .pwr (by decide)]
    refine ⟨rfl, fun x hx => ?_⟩
    obtain ⟨y, -, rfl⟩ := List.mem_map.mp hx
    rfl

end Sys2Proof.Machine

/-!
PROOFS. O48 (R22, R23, R330, R353 to R356, R360, R361, R381): Ripcord, the shutdown flush, Rest and the power-up of the always-on domain.
-/
namespace Sys2Proof.Machine

section
variable {F : Fuses} {d : Dev}

/-! ## A flush begins and its links go down -/

theorem Dev.linksOff_lci (e : Dev) : e.linksOff.lci = e.lci := by
  unfold Dev.linksOff
  rw [Dev.linkNoted_lci, Dev.linkNoted_lci]

theorem cutAll_cmds (d : Dev) (cause : Nat) : (cutAll F d cause).lci.cmds = [] := rfl

theorem flushEntry_cmds (d : Dev) (why : FlushWhy) (rip : Bool) : (flushEntry F d why rip).lci.cmds = [] := by
  rw [flushEntry_eq]
  split
  · rw [Dev.linksOff_lci, cutAll_cmds]
  · rw [cutAll_cmds]

theorem Dev.linksDown_links (d : Dev) : d.linksDown.a.linkUp = false ∧ d.linksDown.b.linkUp = false := by
  unfold Dev.linksDown
  dsimp only
  rw [Dev.linkNoted_a, Dev.linkNoted_a, Dev.linkNoted_b, Dev.linkNoted_b]
  exact ⟨rfl, rfl⟩

theorem Dev.linksDown_pwr (d : Dev) : d.linksDown.pwr = d.pwr := (Dev.linksDown_touches d).same .pwr (by decide)

theorem Dev.readsLeft_of_none (h : d.cache.fetches = []) : d.readsLeft = false := by
  rw [Dev.readsLeft, h]
  rfl

/-- 10 µs after entry the flush is at step 3, and with no read outstanding the links are down (R22, R354). -/
theorem lateEnd_due {f : Flush} (hf : d.pwr.flush = some f) (hs : f.step = 2) : lateEnd d =
    if ((d.advance (f.start + 10000)).flushAt f 3).readsLeft then (d.advance (f.start + 10000)).flushAt f 3
    else ((d.advance (f.start + 10000)).flushAt f 3).linksDown := by
  rw [lateEnd, hf]
  exact if_pos hs

theorem scheduleStop_due {f : Flush} (hf : d.pwr.flush = some f) (hs : f.step = 3) (hr : d.readsLeft = false) : scheduleStop d =
    { d.linksDown.flushAt f 4 with tether := { (d.linksDown.flushAt f 4).tether with schedule := false } } := by
  rw [scheduleStop, hf]
  exact if_pos ⟨hs, by simp [hr]⟩

/-! ## The segment and the Keel records -/

/-- The segment as it joins the list (R353). -/
def Dev.segJoined (d : Dev) (F : Fuses) (n : Nat) : Dev :=
  { d.free.2 with pwr := { d.free.2.pwr with segs := segOf F d n :: d.free.2.pwr.segs.filter fun s => !s.released, segNext := n + 1, segUsed := none
                                             segPos := d.free.1 % 2 ^ 32 } }

theorem segWritten_ok {f : Flush} {n : Nat} (hf : d.pwr.flush = some f) (hn : f.seg = some n) (hs : f.step = 4) (hb : d.anyBusy = false) :
    segWritten F d true = (d.segJoined F n).allDown.flushAt { f with programmed := true } 5 := by
  rw [segWritten, hf]
  dsimp only
  rw [hn]
  exact if_neg (by simp [hs, hb])

theorem segWritten_cut {f : Flush} {n : Nat} (hf : d.pwr.flush = some f) (hn : f.seg = some n) (hs : f.step = 4) :
    segWritten F d false = (d.segJoined F n).flushAt f 6 := by
  rw [segWritten, hf]
  dsimp only
  rw [hn]
  exact if_neg (by simp [hs])

/-- Every die is in power-down (R140). -/
theorem Dev.allDown_dies (d : Dev) : ∀ r ∈ d.allDown.media.die, r.2.pd = true := by
  intro r hr
  obtain ⟨x, -, rfl⟩ := List.mem_map.mp (List.mem_of_mem_filter hr)
  rfl

theorem flushSaves_due {f : Flush} (hf : d.pwr.flush = some f) (hs : f.step = 5) (hr : f.ripcord = false) (hl : f.ledgerSaved = false) :
    flushSaves d = (d.ledgerSave.ringPut .wear d.wearBody).flushAt { f with ledgerSaved := true } 5 := by
  rw [flushSaves, hf]
  exact if_pos ⟨hs, by simp [hr], by simp [hl]⟩

/-- Draining the store's queue takes every write from it (R381). -/
theorem Dev.keelDrain_waiting (d : Dev) : d.keelDrain.keel.waiting = [] := by
  unfold Dev.keelDrain
  exact List.foldlRecOn (motive := fun e : Dev => e.keel.waiting = []) _ _ rfl fun _ h _ _ => h

/-- The Keel records of a flush, queued in their order (R381). -/
def Dev.flushRecords (d : Dev) (rip : Bool) : Dev :=
  let d1 := (d.ringPut .locks ([0, 0, 0] ++ leBytes 32 d.lockMask)).memberPut.lifePut
  Dev.statePut { d1 with keel := { d1.keel with gndUsed := d1.keel.gndUsed && rip } }

theorem Dev.flushRecords_pwr (d : Dev) (rip : Bool) : (d.flushRecords rip).pwr = d.pwr := by
  unfold Dev.flushRecords
  dsimp only
  rw [(Dev.statePut_touches ..).same .pwr (by decide)]
  dsimp only
  rw [Dev.lifePut_pwr, Dev.memberPut_pwr, Dev.ringPut_pwr]

/-- The newest segment is marked complete, or clean after a shutdown flush (R381). -/
def Dev.segMarked (d : Dev) (rip : Bool) : Dev :=
  { d with pwr := { d.pwr with segs := match d.pwr.segs with
    | s :: _ => [{ s with complete := true, clean := !rip }]
    | [] => [] } }

/-- The recorder takes no more events, and the flush moves on (R381). -/
def Dev.recordsClosed (d : Dev) (f : Flush) : Dev := Dev.flushAt { d with log := { d.log with accepting := false } } f 6

theorem Dev.recordsClosed_state (d : Dev) (f : Flush) : (d.recordsClosed f).pwr.flush = some { f with step := 6 } ∧
    (d.recordsClosed f).pwr.segs = d.pwr.segs ∧ (d.recordsClosed f).keel = d.keel ∧ (d.recordsClosed f).log.accepting = false :=
  ⟨rfl, rfl, rfl, rfl⟩

theorem flushKeel_due {f : Flush} (hf : d.pwr.flush = some f) (hs : f.step = 5) (hk : keelOk F d = true)
    (hl : f.ripcord = true ∨ f.ledgerSaved = true) : flushKeel F d =
      (Dev.forceFlush F ((d.flushRecords f.ripcord).segMarked f.ripcord).rootPut).keelDrain.recordsClosed f := by
  unfold flushKeel Dev.recordsClosed Dev.segMarked Dev.flushRecords
  rw [hf]
  refine (if_pos ⟨hs, hk, hl⟩).trans ?_
  dsimp only <;> generalize Dev.statePut _ = records <;> rfl

/-! ## The rails go down -/

theorem Dev.lower_pwr (d : Dev) (l : List (List Nat)) : ∃ t, (d.lower l).pwr = { d.pwr with seq := t } := by
  unfold Dev.lower
  refine List.foldlRecOn (motive := fun e : Dev => ∃ t, e.pwr = { d.pwr with seq := t }) _ _ ⟨_, rfl⟩ fun e h n _ => ?_
  obtain ⟨t, he⟩ := h
  obtain ⟨t', -, -, hdrive, -⟩ := e.drive_seq false n
  exact ⟨t', by rw [hdrive, he]⟩

/-- The device with the outcome of the flush, and its report, as the rails begin to go down (R354, R355). -/
def Dev.flushClosed (d : Dev) (F : Fuses) (f : Flush) : Dev :=
  let us (t : Nat) : Nat := min ((d.tether.now - t) / 1000) 0xFFFF
  let used := min ((f.energy - d.energy) / (2 * 10 ^ 11)) 0xFFF
  let d1 := { d with pwr := { d.pwr with ended := flushEnded d f
                                         ripDur := if f.ripcord then us f.ripStart else d.pwr.ripDur
                                         ripEnergy := if f.ripcord then used else d.pwr.ripEnergy } }
  Dev.event F { d1 with log := { d1.log with accepting := false } } 0x1004
    (us f.start + (if f.ripcord then used else 0) * 2 ^ 16 + b2n (decide (flushEnded d f = 3 ∨ flushEnded d f = 4)) * 2 ^ 28)

theorem Dev.flushClosed_pwr (d : Dev) (f : Flush) : ∃ rd re, (d.flushClosed F f).pwr = { d.pwr with ended := flushEnded d f, ripDur := rd, ripEnergy := re } :=
  ⟨_, _, Dev.event_pwr ..⟩

/-- A flush that nobody calls back ends with the rails down (R354, R361). -/
theorem railsDown_off {f : Flush} (hf : d.pwr.flush = some f) (hs : f.step = 6) (hr : f.ripcord = false) (hup : d.pwr.upAgain = false)
    (hq : d.diesQuiet = true) : railsDown F d = offEnter F ((d.flushClosed F f).lower (upOrder F d)) f.why false := by
  have hmay : railsMay F d f = true := by rw [railsMay, hs, hq]; rfl
  unfold railsDown Dev.flushClosed
  rw [hf]
  dsimp only
  rw [if_neg (by simp [hmay]), if_neg (by simp [hup]), hr]

/-- The controller in Off or Rest, before anything that the reason for it adds (R330, R354, R360). -/
def Dev.offBlank (d : Dev) (why : FlushWhy) (rest : Bool) : Dev :=
  let d1 := (d.keel.active.foldl (fun d w => d.keelWritten w) d).blank true
  { d1 with pwr := { d1.pwr with
      svc := if rest then .rest else .off, step := 0, flush := none, downing := none, margin := none, measuring := false, cap := none
      replayDone := false, stopUp := false, upAgain := false, portLost := false
      restartAt := if rest then none else some (d1.tether.now + 10000000)
      extHold := d1.pwr.extHold, tsHold := d1.pwr.tsHold || decide (why = .thermal) } }

theorem Dev.offBlank_pwr (d : Dev) (why : FlushWhy) (rest : Bool) : (d.offBlank why rest).faultRelease.pwr.flush = none ∧
    (d.offBlank why rest).faultRelease.pwr.ended = d.pwr.ended ∧
    (d.offBlank why rest).faultRelease.pwr.svc = if rest then .rest else .off := by
  have hkeel : (d.keel.active.foldl (fun d w => d.keelWritten w) d).pwr = d.pwr :=
    List.foldlRecOn (motive := fun e : Dev => e.pwr = d.pwr) _ _ rfl fun _ h _ _ => (Dev.keelWritten_pwr ..).trans h
  obtain ⟨g, p, hpwr⟩ := (d.offBlank why rest).faultRelease_pwr
  rw [hpwr]
  refine ⟨rfl, ?_, rfl⟩
  change (d.keel.active.foldl (fun d w => d.keelWritten w) d).pwr.ended = d.pwr.ended
  rw [hkeel]

theorem offEnter_pwrReq (d : Dev) : offEnter F d .pwrReq false =
    { (d.offBlank .pwrReq false).faultRelease with pwr := { (d.offBlank .pwrReq false).faultRelease.pwr with restartAt := none } } := by
  have hrest : (decide (FlushWhy.pwrReq = FlushWhy.rest) && d.pwr.inputOk && d.pwr.pwrReq && !false) = false := by
    rw [show decide (FlushWhy.pwrReq = FlushWhy.rest) = false from rfl]
    rfl
  unfold offEnter Dev.offBlank
  dsimp only
  rw [hrest, if_neg (show ¬FlushWhy.pwrReq = FlushWhy.reset by decide),
    if_neg (show ¬(FlushWhy.pwrReq = FlushWhy.reset ∨ FlushWhy.pwrReq = FlushWhy.protective ∨ FlushWhy.pwrReq = FlushWhy.thermal) by decide),
    if_neg (show ¬(FlushWhy.pwrReq = FlushWhy.device ∧ (!false) = true) by decide)]
  exact (if_neg Bool.false_ne_true).trans ((if_pos (Or.inl rfl)).trans (if_pos ⟨rfl, rfl⟩))

theorem offEnter_rest (d : Dev) (hi : d.pwr.inputOk = true) (hq : d.pwr.pwrReq = true) :
    offEnter F d .rest false = [Head.a, Head.b].foldl (fun d h => d.wake h false) (d.offBlank .rest true).faultRelease := by
  have hrest : (decide (FlushWhy.rest = FlushWhy.rest) && d.pwr.inputOk && d.pwr.pwrReq && !false) = true := by
    rw [hi, hq]
    rfl
  unfold offEnter Dev.offBlank
  dsimp only
  rw [hrest, if_neg (show ¬FlushWhy.rest = FlushWhy.reset by decide),
    if_neg (show ¬(FlushWhy.rest = FlushWhy.reset ∨ FlushWhy.rest = FlushWhy.protective ∨ FlushWhy.rest = FlushWhy.thermal) by decide),
    if_neg (show ¬(FlushWhy.rest = FlushWhy.device ∧ (!false) = true) by decide)]
  exact if_pos rfl

/-! ## Rest and power-up -/

theorem restEntry_cold (hs : d.pwr.svc = .reduced ∨ d.pwr.svc = .full) (hi : d.pwr.inputOk = true) (hq : d.pwr.pwrReq = true)
    (hc : ∀ h, activeHead F d h = true → (d.head h).d3cold = true) : restEntry F d = flushEntry F d .rest false :=
  if_pos ⟨Or.inr hs, hi, hq, List.all_eq_true.mpr fun h hm => hc h (List.mem_filter.mp hm).2⟩

/-- An edge on a pin with a wake role wakes head A, which is always active, and the pin reads it (R360). -/
theorem wakeSeen_edge {pin : Nat} {up : Bool} (hr : (Tbl.look {} d.gpio pin).role ≠ 1) :
    (Tbl.look {} (wakeSeen F d pin up).gpio pin).high = up ∧
      (d.pwr.svc = .rest → (Tbl.look {} d.gpio pin).role = (if up then 3 else 2) → .wakeN .a true ∈ (wakeSeen F d pin up).out) := by
  have hwake (l : List Head) (e : Dev) : (l.foldl (fun d h => d.wake h true) e).gpio = e.gpio :=
    List.foldlRecOn (motive := fun f : Dev => f.gpio = e.gpio) _ _ rfl fun f h x _ => ((Dev.wake_touches f x true).same .gpio (by decide)).trans h
  have hout (l : List Head) (e : Dev) (h : .wakeN .a true ∈ e.out) : .wakeN .a true ∈ (l.foldl (fun d h => d.wake h true) e).out :=
    List.foldlRecOn (motive := fun f : Dev => .wakeN .a true ∈ f.out) _ _ h fun f hf x _ => List.mem_cons_of_mem _ (by rwa [Dev.setHead_out])
  have hactive (e : Dev) : ∃ l, activeHeads F e = .a :: l := ⟨_, List.filter_cons_of_pos rfl⟩
  have hedge : (Tbl.look {} (Dev.icuLive { d with gpio := Tbl.put {} d.gpio pin { Tbl.look {} d.gpio pin with high := up } } 100).gpio pin).high = up := by
    rw [Dev.icuLive_gpio, Tbl.look_put_same]
  have hpass : wakeSeen F d pin up = _ := if_neg hr
  rw [hpass]
  generalize Dev.icuLive _ 100 = x at hedge ⊢
  generalize (if up = true then 3 else 2) = r
  refine ⟨?_, fun hs hrole => ?_⟩
  · split
    · rw [hwake]
      exact hedge
    · exact hedge
  · obtain ⟨l, hl⟩ := hactive x
    rw [if_pos ⟨hs, hrole⟩, hl, List.foldl_cons]
    exact hout _ _ (List.mem_cons_self ..)

/-- The device as PERST_N rises on a head: the head's record, its WAKE_N and its interrupt (R351, R360). -/
def Dev.perstRaised (d : Dev) (h : Head) : Dev :=
  let d0 := d.setHead h { d.head h with perstHigh := true, d3cold := false, dstate := if (d.head h).d3cold then 0 else (d.head h).dstate }
  let dw := if (d.head h).wakeLow then d0.wake h false else d0
  if (d.head h).d3cold then dw.icuLive (91 + hIdx h) else dw

theorem Dev.perstRaised_head (d : Dev) (h : Head) : ((d.perstRaised h).head h).perstHigh = true ∧ ((d.perstRaised h).head h).d3cold = false ∧
    (d.perstRaised h).pwr = d.pwr := by
  unfold Dev.perstRaised
  dsimp only
  have hset (x : HeadState) (hx : x.perstHigh = true ∧ x.d3cold = false) : ((d.setHead h x).head h).perstHigh = true ∧
      ((d.setHead h x).head h).d3cold = false ∧ (d.setHead h x).pwr = d.pwr := by
    rw [Dev.setHead_head, if_pos rfl, Dev.setHead_pwr]
    exact ⟨hx.1, hx.2, rfl⟩
  have hwake (e : Dev) (he : (e.head h).perstHigh = true ∧ (e.head h).d3cold = false ∧ e.pwr = d.pwr) :
      ((e.wake h false).head h).perstHigh = true ∧ ((e.wake h false).head h).d3cold = false ∧ (e.wake h false).pwr = d.pwr := by
    rw [Dev.wake, Dev.emit_head, Dev.emit_pwr, Dev.setHead_head, if_pos rfl, Dev.setHead_pwr]
    exact he
  have hraised := hset { d.head h with perstHigh := true, d3cold := false, dstate := if (d.head h).d3cold then 0 else (d.head h).dstate } ⟨rfl, rfl⟩
  generalize d.setHead h _ = x at hraised ⊢
  have hw : ((if (d.head h).wakeLow then x.wake h false else x).head h).perstHigh = true ∧
      ((if (d.head h).wakeLow then x.wake h false else x).head h).d3cold = false ∧ (if (d.head h).wakeLow then x.wake h false else x).pwr = d.pwr := by
    split
    · exact hwake x hraised
    · exact hraised
  generalize (if (d.head h).wakeLow then x.wake h false else x) = y at hw ⊢
  split
  · rw [Dev.icuLive_head, Dev.icuLive_pwr]
    exact hw
  · exact hw

/-- PERST_N rises on a head (R351, R360): its head's record, and bring-up from Rest. -/
theorem perstUp_head {h : Head} (hp : presentHead F h = true) : ((perstUp F d h).head h).perstHigh = true ∧ ((perstUp F d h).head h).d3cold = false ∧
    (d.pwr.svc = .rest → activeHead F d h = true → (perstUp F d h).pwr.svc = .bringup ∧ (perstUp F d h).pwr.step = 1) := by
  obtain ⟨hhigh, hcold, hpwr⟩ := d.perstRaised_head h
  have hbring (x : Dev) : (x.bringup 1).head h = (x.head h).blank := by
    cases h with
    | a => rfl
    | b => rfl
  have hagain (x : Dev) (p : Bool) (hx : (x.head h).perstHigh = true ∧ (x.head h).d3cold = false) :
      ((if p then { x with pwr := { x.pwr with upAgain := true } } else x).head h).perstHigh = true ∧
        ((if p then { x with pwr := { x.pwr with upAgain := true } } else x).head h).d3cold = false := by
    split
    · exact hx
    · exact hx
  have hpass : perstUp F d h = _ := if_neg (by simp [hp])
  rw [hpass]
  unfold Dev.perstRaised at hhigh hcold hpwr
  dsimp only at hhigh hcold hpwr ⊢
  generalize (if (d.head h).d3cold = true then Dev.icuLive _ _ else _ : Dev) = x at hhigh hcold hpwr ⊢
  rw [← hpwr]
  refine ⟨?_, ?_, fun hs ha => ?_⟩
  · split
    · split
      · rw [hbring]
        exact hhigh
      · exact hhigh
    · exact (hagain x _ ⟨hhigh, hcold⟩).1
    · exact hhigh
  · split
    · split
      · rw [hbring]
        rfl
      · exact hcold
    · exact (hagain x _ ⟨hhigh, hcold⟩).2
    · exact hcold
  · rw [hs, ha]
    exact ⟨rfl, rfl⟩

/-- The always-on domain comes up in Off, with the store's bytes (R330). -/
theorem aonUp_idle (h : d.keel.active = []) : (aonUp d).keel = { bytes := d.keel.bytes } ∧ (aonUp d).images.a = d.images.a ∧
    (aonUp d).images.floor = d.images.floor := by
  unfold aonUp
  dsimp only
  rw [h]
  exact ⟨rfl, rfl, rfl⟩

end

/-- Settles O48. -/
theorem flushAndRest : Obligations.FLUSH_AND_REST := by
  unfold Obligations.FLUSH_AND_REST
  refine ⟨?_, ?_, ?_, ?_, ?_, ?_, ?_, ?_, ?_, ?_, ?_, ?_, ?_, ?_⟩
  case refine_1 =>
    intro s hs hi
    have hentry : ripcordEntry s.fuse s.dev = flushEntry s.fuse s.dev .input true := by
      have hlow : (if s.dev.pwr.inputOk then s.dev else flushEntry s.fuse s.dev .input true) = flushEntry s.fuse s.dev .input true :=
        if_neg (by simp [hi])
      unfold ripcordEntry
      rcases hs with h | h | h
      · rw [h]
        exact hlow
      · rw [h]
        exact hlow
      · rw [h]
        exact hlow
    refine ⟨_, _, next_congr s hentry, by rw [flushEntry_pwr], by rw [flushEntry_pwr], rfl, rfl, rfl, flushEntry_cmds ..⟩
  case refine_2 =>
    intro f s hf hs hlt
    have hnow : f.start + 10000 ≤ (s.dev.advance (f.start + 10000)).tether.now := by
      rw [Dev.advance_now]
      omega
    refine ⟨_, next_congr s (lateEnd_due hf hs), ?_, ?_, fun hnone => ?_⟩
    · split
      · rfl
      · rw [Dev.linksDown_pwr]
        rfl
    · split
      · exact hnow
      · rw [(Dev.linksDown_touches _).same .tether (by decide)]
        exact hnow
    · have hquiet : ((s.dev.advance (f.start + 10000)).flushAt f 3).readsLeft = false :=
        Dev.readsLeft_of_none ((congrArg Cache.fetches (Dev.advance_cache ..)).trans hnone)
      rw [if_neg (by simp [hquiet])]
      exact Dev.linksDown_links _
  case refine_3 => exact fun f s hf hs hr => ⟨_, next_congr s (scheduleStop_due hf hs hr), rfl, rfl, (Dev.linksDown_links _).1⟩
  case refine_4 =>
    exact fun f n s hf hn hs hb => ⟨_, _, _, next_congr s (segWritten_ok hf hn hs hb), rfl, rfl, rfl, Dev.allDown_dies _⟩
  case refine_5 => exact fun f n s hf hn hs => ⟨_, next_congr s (segWritten_cut hf hn hs), rfl⟩
  case refine_6 =>
    intro f s hf hs hr hl
    refine ⟨_, next_congr s (flushSaves_due hf hs hr hl), ?_⟩
    rw [Dev.flushAt, ← hs]
  case refine_7 =>
    intro f x l s hf hs hi hl hsegs
    have hok : keelOk s.fuse s.dev = true := by rw [keelOk, hi, Bool.true_or]
    obtain ⟨hflush, hnow, hkeel, hlog⟩ :=
      (Dev.forceFlush s.fuse ((s.dev.flushRecords f.ripcord).segMarked f.ripcord).rootPut).keelDrain.recordsClosed_state f
    refine ⟨_, next_congr s (flushKeel_due hf hs hok hl), hflush, ?_, by rw [hkeel, Dev.keelDrain_waiting], hlog⟩
    rw [hnow, (Dev.keelDrain_touches _).same .pwr (by decide), (Dev.forceFlush_touches ..).same .pwr (by decide),
      (Dev.rootPut_touches _).same .pwr (by decide), Dev.segMarked, Dev.flushRecords_pwr, hsegs]
  case refine_8 =>
    intro f n s hf hs hn hseg hr hw hup hq
    obtain ⟨rd, re, hclosed⟩ := Dev.flushClosed_pwr (F := s.fuse) s.dev f
    obtain ⟨t, hlower⟩ := (s.dev.flushClosed s.fuse f).lower_pwr (upOrder s.fuse s.dev)
    obtain ⟨hflush, hended, hsvc⟩ := ((s.dev.flushClosed s.fuse f).lower (upOrder s.fuse s.dev)).offBlank_pwr .pwrReq false
    have hdone : flushEnded s.dev f = 1 := by
      rw [flushEnded, hn, hr]
      exact if_pos hseg
    have hdown := railsDown_off (F := s.fuse) hf hs hr hup hq
    rw [hw, offEnter_pwrReq] at hdown
    refine ⟨_, next_congr s hdown, hsvc, hflush, ?_⟩
    rw [hlower, hclosed] at hended
    exact hended.trans hdone
  case refine_9 =>
    intro f s hf hs hr hw hup hq hi hp
    obtain ⟨rd, re, hclosed⟩ := Dev.flushClosed_pwr (F := s.fuse) s.dev f
    obtain ⟨t, hlower⟩ := (s.dev.flushClosed s.fuse f).lower_pwr (upOrder s.fuse s.dev)
    obtain ⟨hflush, -, hsvc⟩ := ((s.dev.flushClosed s.fuse f).lower (upOrder s.fuse s.dev)).offBlank_pwr .rest true
    have hdown := railsDown_off (F := s.fuse) hf hs hr hup hq
    rw [hw, offEnter_rest _ (by rw [hlower, hclosed, hi]) (by rw [hlower, hclosed, hp])] at hdown
    exact ⟨_, next_congr s hdown, hsvc, hflush⟩
  case refine_10 =>
    intro s hs hi hq hc
    exact ⟨_, _, next_congr s (restEntry_cold hs hi hq hc), by rw [flushEntry_pwr], by rw [flushEntry_pwr], rfl⟩
  case refine_11 => exact fun pin up s hr => ⟨_, rfl, wakeSeen_edge hr⟩
  case refine_12 =>
    intro h s hs hp ha
    obtain ⟨hhigh, -, hup⟩ := perstUp_head (F := s.fuse) (d := s.dev) hp
    obtain ⟨hsvc, hstep⟩ := hup hs ha
    exact ⟨_, congrArg Host.Outcome.next (if_pos hs), hsvc, hstep, hhigh⟩
  case refine_13 =>
    intro h s hp
    obtain ⟨hhigh, hcold, -⟩ := perstUp_head (F := s.fuse) (d := s.dev) hp
    exact ⟨_, rfl, hhigh, hcold⟩
  case refine_14 =>
    intro s hk
    obtain ⟨hkeel, himage, hfloor⟩ := aonUp_idle hk
    exact ⟨_, rfl, rfl, rfl, rfl, hkeel, himage, hfloor, rfl⟩

end Sys2Proof.Machine

/-!
PROOFS. O49 (R362 to R365, R370, R371): sensors, housekeeping rounds, thermal shutdown and the sideband.
-/
namespace Sys2Proof.Machine

section
variable {F : Fuses} {d e : Dev}

/-! ## Conversions and thermal shutdown (R362, R370) -/

theorem sensorStep_runs {i code : Nat} {ok : Bool} (hk : d.keel.ready = true) (hl : d.live = true) : sensorStep F d i code ok =
    if ok && d.tooHot i code then thermalDown F (d.setSensor i { d.sensor i with
      seen := true, conv := if ok then code else (d.sensor i).conv, convOk := ok, hot := ok && decide (728 ≤ code) }) code
    else d.setSensor i { d.sensor i with
      seen := true, conv := if ok then code else (d.sensor i).conv, convOk := ok, hot := ok && decide (728 ≤ code) } :=
  if_neg (by simp [hk, hl])

/-- An entry of the unfinished-work log leaves the record of thermal shutdowns alone. -/
theorem uwlAdd_tshut (d : Dev) (cause : Nat) (l : List UwlEntry) : (uwlAdd F d cause l).keel.tshutLast = d.keel.tshutLast := by
  have hpage (d : Dev) (l : List UwlEntry) : (uwlPage F cause d l).keel.tshutLast = d.keel.tshutLast := by
    unfold uwlPage
    dsimp only
    split
    · rfl
    · rw [Dev.event_keel]
      rfl
  unfold uwlAdd
  dsimp only
  split
  · rfl
  · rw [Dev.event_keel]
    exact List.foldlRecOn (motive := fun e : Dev => e.keel.tshutLast = d.keel.tshutLast) _ _ rfl fun _ h _ _ => (hpage _ _).trans h

theorem cutAll_tshut (d : Dev) (cause : Nat) : (cutAll F d cause).keel.tshutLast = d.keel.tshutLast := by
  unfold cutAll
  dsimp only
  have hslots (e : Dev) : ((List.range 64).foldl (fun d n => d.setRbit (MBX_QP_CFG n) 31 false) e).keel = e.keel :=
    List.foldlRecOn (motive := fun f : Dev => f.keel = e.keel) _ _ rfl fun _ h _ _ => (Dev.setRbit_keel ..).trans h
  rw [hslots]
  exact List.foldlRecOn (motive := fun e : Dev => e.keel.tshutLast = d.keel.tshutLast) _ _ (uwlAdd_tshut ..) fun _ h _ _ =>
    (uwlAdd_tshut ..).trans h

theorem Dev.flushQuiet_keel (d : Dev) (rip : Bool) : (d.flushQuiet rip).keel = d.keel := by
  have hcancel (d : Dev) : ((List.range 64).foldl (fun d n => d.slotCancel n) d).keel = d.keel :=
    List.foldlRecOn (motive := fun e : Dev => e.keel = d.keel) _ _ rfl fun _ h n _ => (Dev.slotCancel_keel ..).trans h
  have hicu : (if rip then d.icu 83 else d).keel = d.keel := by
    split
    · exact Dev.icu_keel ..
    · rfl
  unfold Dev.flushQuiet
  dsimp only
  rw [hcancel]
  generalize (if rip then d.icu 83 else d) = x at hicu ⊢
  split
  · rw [(Dev.windowAbort_touches ..).same .keel (by decide), hicu]
  · exact hicu

theorem Dev.linksOff_keel (d : Dev) : d.linksOff.keel = d.keel := by
  unfold Dev.linksOff
  rw [Dev.linkNoted_keel, Dev.linkNoted_keel]

theorem flushEntry_tshut (d : Dev) (why : FlushWhy) (rip : Bool) : (flushEntry F d why rip).keel.tshutLast = d.keel.tshutLast := by
  obtain ⟨ws, rs, ts, ss, hqueued⟩ := d.marginEnd.measureStop.setSvc_queued (F := F) .flush
  have hbegun : (d.flushBegun F why rip).keel.tshutLast = d.keel.tshutLast := by
    rw [Dev.flushBegun, hqueued, (Dev.measureStop_touches _).same .keel (by decide), (Dev.marginEnd_touches _).same .keel (by decide)]
  have hcut (cause : Nat) : (cutAll F ((d.flushBegun F why rip).flushQuiet rip) cause).keel.tshutLast = d.keel.tshutLast := by
    rw [cutAll_tshut, Dev.flushQuiet_keel, hbegun]
  rw [flushEntry_eq]
  split
  · rw [Dev.linksOff_keel, hcut]
  · rw [hcut]

/-- Two hot conversions with a hot neighbour: a flush begins or the rails go down, and the Keel store keeps the cause (R370). -/
theorem thermalDown_shuts {code : Nat} (hs : d.pwr.svc = .bringup ∨ d.pwr.svc = .reduced ∨ d.pwr.svc = .full) :
    (thermalDown F d code).pwr.svc = .flush ∧ (thermalDown F d code).keel.tshutLast = true := by
  have hshut (x : Dev) (hx : x.keel.tshutLast = true) :
      (if ripReady F x then flushEntry F x .thermal false else x.downEntry .thermal (some 4)).pwr.svc = .flush ∧
        (if ripReady F x then flushEntry F x .thermal false else x.downEntry .thermal (some 4)).keel.tshutLast = true := by
    split
    · rw [flushEntry_pwr, flushEntry_tshut, hx]
      exact ⟨rfl, rfl⟩
    · rw [(Dev.downEntry_touches ..).same .keel (by decide), hx]
      exact ⟨rfl, rfl⟩
  unfold thermalDown
  rcases hs with h | h | h
  · rw [h]
    exact hshut _ rfl
  · rw [h]
    exact hshut _ rfl
  · rw [h]
    exact hshut _ rfl

/-- Once the die has cooled, nothing of the shutdown is left, and bring-up starts where nothing else holds it (R370). -/
theorem thermalUp_cool {code : Nat} (hs : d.pwr.svc = .off) (hts : d.pwr.tsHold = true) (hc : code ≤ 708) :
    (thermalUp d code).pwr.tsHold = false ∧ (thermalUp d code).therm.aon = code ∧
      (d.pwr.restartAt = none → d.pwr.inputOk = true → d.pwr.pwrReq = true → d.pwr.limited = false → d.pwr.extHold = false →
        (thermalUp d code).pwr.svc = .bringup) := by
  have hpass : thermalUp d code = _ := if_pos ⟨hs, hts, hc⟩
  rw [hpass]
  refine ⟨?_, ?_, fun hr hi hq hl hext => ?_⟩
  · dsimp only
    split
    · unfold restartNow
      split
      · split
        · exact congrArg Power.tsHold (Dev.advance_pwr ..)
        · rfl
      · rfl
    · unfold Dev.tryUp
      split
      · rfl
      · rfl
  · dsimp only
    split
    · unfold restartNow
      split
      · split
        · exact congrArg Therm.aon (Dev.advance_therm ..)
        · rfl
      · rfl
    · unfold Dev.tryUp
      split
      · rfl
      · rfl
  · dsimp only
    split
    next t h => exact absurd (hr.symm.trans h) (by simp)
    next =>
      exact (Dev.tryUp_starts (d := { d with therm := { d.therm with aon := code }, pwr := { d.pwr with tsHold := false } }) hs hi hq hl rfl hext hr).1

/-! ## A housekeeping round (R363) -/

/-- A sensor as a round latches it. -/
def Sensor.latched (x : Sensor) : Sensor :=
  if x.seen then { x with code := if x.convOk then x.conv else x.code, valid := x.valid || x.convOk } else x

/-- A round latches a sensor that has converted. -/
def Dev.latch (d : Dev) (i : Nat) : Dev :=
  let x := d.sensor i
  if x.seen then d.setSensor i { x with code := if x.convOk then x.conv else x.code, valid := x.valid || x.convOk } else d

theorem Dev.latch_sensor (d : Dev) (i k : Nat) : (d.latch i).sensor k = if k = i then (d.sensor i).latched else d.sensor k := by
  unfold Dev.latch Sensor.latched
  dsimp only
  split
  · exact d.setSensor_sensor ..
  · split
    next h => rw [h]
    next => rfl

theorem Dev.latch_range (d : Dev) (n k : Nat) :
    ((List.range n).foldl Dev.latch d).sensor k = if k < n then (d.sensor k).latched else d.sensor k := by
  induction n with
  | zero => exact (if_neg (Nat.not_lt_zero k)).symm
  | succ n ih =>
    rw [List.range_succ, List.foldl_append, List.foldl_cons, List.foldl_nil, Dev.latch_sensor]
    by_cases h : k = n
    · subst h
      rw [if_pos rfl, if_pos (by omega), ih, if_neg (by omega)]
    · rw [if_neg h, ih]
      by_cases hk : k < n
      · rw [if_pos hk, if_pos (by omega)]
      · rw [if_neg hk, if_neg (by omega)]

/-- The controller takes a die's reading: no sensor and no diode changes. -/
theorem Dev.dieRead_therm (d : Dev) (m code : Nat) : (d.dieRead m code).therm.sns = d.therm.sns ∧ (d.dieRead m code).therm.rd = d.therm.rd := ⟨rfl, rfl⟩

/-- What one die answers in a round changes no sensor and no diode. -/
theorem dieRound_therm (d : Dev) (m : Nat) (ans : Option Nat) : (dieRound d m ans).therm.sns = d.therm.sns ∧ (dieRound d m ans).therm.rd = d.therm.rd := by
  unfold dieRound
  split
  next =>
    rw [Dev.bump_therm, Dev.emit_therm]
    exact ⟨rfl, rfl⟩
  next code =>
    dsimp only
    have hread := ((d.dieTemp m code).sendFrame { m := m, payload := pay 0x21 [] } 0).dieRead_therm m code
    rw [(Dev.sendFrame_touches ..).same .therm (by decide), (Dev.dieTemp_touches ..).same .therm (by decide)] at hread
    generalize Dev.dieRead _ m code = x at hread ⊢
    have hctl : (x.setCtl m { x.ctl m with round := code }).therm = x.therm := rfl
    generalize x.setCtl m { x.ctl m with round := code } = y at hctl ⊢
    have hset : (if code < 0x240 ∧ (x.ctl m).alertThr ≠ 0x254 then y.alertSet m 0x254 else y).therm = x.therm := by
      split
      · rw [(Dev.alertSet_touches ..).same .therm (by decide), hctl]
      · exact hctl
    generalize (if code < 0x240 ∧ (x.ctl m).alertThr ≠ 0x254 then y.alertSet m 0x254 else y) = z at hset ⊢
    split
    · rw [Dev.setChan_therm, hset]
      exact hread
    · rw [hset]
      exact hread

/-- A round latches every sensor, takes the first diode's reading and finds the second one faulty. -/
theorem roundStart_two {r0 : Nat} {dies : List (Nat × Nat)} (hk : d.keel.ready = true) (hl : d.live = true) : ∃ e : Dev,
    roundStart F d [some r0, none] dies = { e with therm := { e.therm with due := true, round := (d.tick 6 8000000).tether.now } } ∧
      (∀ i, e.sensor i = ((List.range 14).foldl Dev.latch (d.tick 6 8000000)).sensor i) ∧
      Tbl.look {} e.therm.rd 0 = ⟨false, true, r0⟩ ∧ (Tbl.look {} e.therm.rd 1).fault = true := by
  have hdies (l : List Nat) (f : Nat → Option Nat) (e : Dev) : (l.foldl (fun d m => dieRound d m (f m)) e).therm.sns = e.therm.sns ∧
      (l.foldl (fun d m => dieRound d m (f m)) e).therm.rd = e.therm.rd :=
    List.foldlRecOn (motive := fun g : Dev => g.therm.sns = e.therm.sns ∧ g.therm.rd = e.therm.rd) _ _ ⟨rfl, rfl⟩ fun g h m _ =>
      ⟨(dieRound_therm g m (f m)).1.trans h.1, (dieRound_therm g m (f m)).2.trans h.2⟩
  unfold roundStart
  rw [if_neg (by simp [hk, hl])]
  dsimp only [List.zipIdx_cons, List.zipIdx_nil, List.foldl_cons, List.foldl_nil]
  generalize hx : List.foldl _ (d.tick 6 8000000) (List.range 14) = x
  have hlatch : (List.range 14).foldl Dev.latch (d.tick 6 8000000) = x := hx
  rw [hlatch]
  generalize hy : ({ x with therm := _ } : Dev) = y
  have hsensors : y.therm.sns = x.therm.sns := by rw [← hy]
  have hdiodes : Tbl.look {} y.therm.rd 0 = ⟨false, true, r0⟩ ∧ (Tbl.look {} y.therm.rd 1).fault = true := by
    rw [← hy]
    exact ⟨(Tbl.look_put_other _ _ 1 0 _ (by decide)).trans (Tbl.look_put_same ..), congrArg Diode.fault (Tbl.look_put_same ..)⟩
  refine ⟨_, rfl, fun i => ?_, ?_⟩
  · rw [Dev.sensor, (hdies _ _ _).1, hsensors, Dev.sensor]
  · rw [(hdies _ _ _).2]
    exact hdiodes

/-! ## The evaluation of a round (R364, R365) -/

/-- The junction temperature, its peak and the state of the round stay as they are. -/
def Dev.JunctionKept (d e : Dev) : Prop := e.therm.tj = d.therm.tj ∧ e.therm.peak = d.therm.peak ∧ e.therm.due = d.therm.due ∧ e.therm.done = d.therm.done

theorem Dev.JunctionKept.of_therm (h : e.therm = d.therm) : d.JunctionKept e := by
  rw [Dev.JunctionKept, h]
  exact ⟨rfl, rfl, rfl, rfl⟩

theorem Dev.JunctionKept.comp {f : Dev} (h : e.JunctionKept f) (g : d.JunctionKept e) : d.JunctionKept f :=
  ⟨h.1.trans g.1, h.2.1.trans g.2.1, h.2.2.1.trans g.2.2.1, h.2.2.2.trans g.2.2.2⟩

theorem setHm_junction (d : Dev) (q h : Nat) : d.JunctionKept (setHm F d q h) := by
  unfold setHm
  dsimp only
  have hduty : d.JunctionKept (Dev.dutySet { d with therm := { d.therm with hm := Tbl.put 0 d.therm.hm q h } } q) :=
    .comp (.of_therm ((Dev.dutySet_touches ..).same .therm (by decide))) ⟨rfl, rfl, rfl, rfl⟩
  generalize Dev.dutySet _ q = x at hduty ⊢
  split
  · exact hduty
  · split
    · exact .comp (.of_therm (by rw [Dev.event_therm, Dev.icu_therm])) hduty
    · split
      · exact .comp (.of_therm (by rw [Dev.event_therm, Dev.icu_therm])) hduty
      · exact .comp (.of_therm (by rw [Dev.icu_therm])) hduty

theorem quadEval_junction (d : Dev) (q : Nat) : d.JunctionKept (quadEval F d q) := by
  unfold quadEval
  dsimp only
  split
  · exact .of_therm rfl
  · split
    · exact .comp (setHm_junction ..) ⟨rfl, rfl, rfl, rfl⟩
    · split
      · exact .of_therm ((Dev.dutySet_touches ..).same .therm (by decide))
      · exact .comp (setHm_junction ..) ⟨rfl, rfl, rfl, rfl⟩

theorem junctionConds_junction (d : Dev) (old : Nat) : d.JunctionKept (junctionConds F d old) := by
  unfold junctionConds
  dsimp only
  have hwarn : d.JunctionKept (if !d.therm.warn ∧ 636 ≤ d.therm.tj then
      ((Dev.postAll F { d with therm := { d.therm with warn := true } } .warn .temperature d.therm.tj).event F 0x1010 (condArg 1 true 0 d.therm.tj)).icu 79
      else if d.therm.warn ∧ d.therm.tj < 616 then { d with therm := { d.therm with warn := false } }.event F 0x1010 (condArg 1 false 0 d.therm.tj)
      else d) := by
    split
    · exact .comp (e := { d with therm := { d.therm with warn := true } }) (.of_therm (by rw [Dev.icu_therm, Dev.event_therm, Dev.postAll_therm]))
        ⟨rfl, rfl, rfl, rfl⟩
    · split
      · exact .comp (e := { d with therm := { d.therm with warn := false } }) (.of_therm (by rw [Dev.event_therm])) ⟨rfl, rfl, rfl, rfl⟩
      · exact .of_therm rfl
  generalize (if !d.therm.warn ∧ 636 ≤ d.therm.tj then _ else _ : Dev) = x at hwarn ⊢
  split
  · exact hwarn
  · split
    · exact .comp (.of_therm (by rw [Dev.event_therm, Dev.postAll_therm, Dev.icu_therm])) hwarn
    · split
      · exact .comp (.of_therm (by rw [Dev.event_therm, Dev.icu_therm])) hwarn
      · exact .comp (.of_therm (by rw [Dev.icu_therm])) hwarn

theorem Dev.junction_therm (d : Dev) : d.junction.2.therm = d.therm := by
  unfold Dev.junction
  dsimp only
  split
  · rfl
  · rfl

/-- With a sensor that has converted, Tj is a code and its peak is at least it and at least what it was (R365). -/
theorem junctionEval_seen {i : Nat} (hi : i < 14) (hs : (d.sensor i).seen = true) : (junctionEval F d).therm.done = true ∧
    (junctionEval F d).therm.due = d.therm.due ∧ (junctionEval F d).therm.tj ≤ (junctionEval F d).therm.peak ∧
    (junctionEval F d).therm.tj < 1024 ∧ d.therm.peak ≤ (junctionEval F d).therm.peak := by
  have hpass : junctionEval F d = _ := if_pos (List.any_eq_true.mpr ⟨i, List.mem_range.mpr hi, hs⟩)
  have htherm := d.junction_therm
  rw [hpass]
  generalize d.junction = j at htherm ⊢
  obtain ⟨tj, d1⟩ := j
  dsimp only at htherm ⊢
  rw [htherm]
  obtain ⟨htj, hpeak, hdue, hdone⟩ := junctionConds_junction (F := F) { d1 with therm := { d.therm with
    tj := min tj 1023, peak := max d.therm.peak (min tj 1023), few := decide (d1.goodSensors < 8), done := true,
    hj := newLevel d.therm.hj tj startJ } } d.therm.hj
  rw [htj, hpeak, hdue, hdone]
  exact ⟨rfl, rfl, le_max_right _ _, Nat.lt_of_le_of_lt (Nat.min_le_right _ _) (by decide), le_max_left _ _⟩

theorem Dev.sensor_of_therm (h : e.therm = d.therm) (i : Nat) : e.sensor i = d.sensor i := by rw [Dev.sensor, h, Dev.sensor]

theorem Dev.seen_of_bad (d : Dev) (i k : Nat) (b : Bool) : ((d.setSensor i { d.sensor i with bad := b }).sensor k).seen = (d.sensor k).seen := by
  rw [Dev.setSensor_sensor]
  split
  next h => rw [h]
  next => rfl

/-- The evaluation of a round (R363 to R366): it is evaluated once, and Tj and its peak are there. -/
theorem roundEval_due {i : Nat} (hd : d.therm.due = true) (hi : i < 14) (hs : (d.sensor i).seen = true) : (roundEval F d).therm.due = false ∧
    (roundEval F d).therm.done = true ∧ (roundEval F d).therm.tj ≤ (roundEval F d).therm.peak ∧ (roundEval F d).therm.tj < 1024 ∧
    d.therm.peak ≤ (roundEval F d).therm.peak := by
  have hstart : (d.advance (d.therm.round + 2000000)).therm = d.therm := Dev.advance_therm ..
  have hpass : roundEval F d = _ := if_neg (by simp [hd])
  rw [hpass]
  dsimp only
  generalize d.advance (d.therm.round + 2000000) = x at hstart ⊢
  have hnoted (e : Dev) (arg n : Nat) : ((e.event F 0x1011 arg).icu n).therm = e.therm := by rw [Dev.icu_therm, Dev.event_therm]
  have hmarked (e : Dev) (he : (e.sensor i).seen = true ∧ e.therm.due = false ∧ e.therm.peak = d.therm.peak) (l m : List Nat) :
      let f := m.foldl (fun d m => ({ d with therm := { d.therm with dieBad := m :: d.therm.dieBad } }.event F 0x1011 (256 + m)).icu 79)
        (l.foldl (fun d i => ((d.setSensor i { d.sensor i with bad := true }).event F 0x1011 i).icu 79) e)
      (f.sensor i).seen = true ∧ f.therm.due = false ∧ f.therm.peak = d.therm.peak := by
    refine List.foldlRecOn (motive := fun f : Dev => (f.sensor i).seen = true ∧ f.therm.due = false ∧ f.therm.peak = d.therm.peak) _ _ ?_ fun f hf k _ => ?_
    · refine List.foldlRecOn (motive := fun f : Dev => (f.sensor i).seen = true ∧ f.therm.due = false ∧ f.therm.peak = d.therm.peak) _ _ he fun f hf k _ => ?_
      rw [Dev.sensor_of_therm (hnoted _ _ _), hnoted, Dev.seen_of_bad]
      exact hf
    · rw [Dev.sensor_of_therm (hnoted _ _ _), hnoted]
      exact hf
  have hfresh : (Dev.sensor { x with therm := { x.therm with due := false } } i).seen = true := by
    rw [← hs, Dev.sensor, Dev.sensor, ← hstart]
  have hold : x.therm.peak = d.therm.peak := by rw [hstart]
  have hseen := hmarked { x with therm := { x.therm with due := false } } ⟨hfresh, rfl, hold⟩
    (Dev.sensorsFound { x with therm := { x.therm with due := false } }) (Dev.diesFound { x with therm := { x.therm with due := false } })
  dsimp only at hseen
  generalize List.foldl _ (List.foldl _ _ _) _ = y at hseen ⊢
  obtain ⟨hy, hdue, hpeak⟩ := hseen
  obtain ⟨hdone, hkept, hle, hlt, hup⟩ := junctionEval_seen (F := F) hi hy
  obtain ⟨htj, hpk, hdu, hdn⟩ : (junctionEval F y).JunctionKept ((List.range 4).foldl (fun d q => quadEval F d q) (junctionEval F y)) :=
    List.foldlRecOn (motive := fun e : Dev => (junctionEval F y).JunctionKept e) _ _ (.of_therm rfl) fun e h q _ => (quadEval_junction e q).comp h
  rw [htj, hpk, hdu, hdn]
  exact ⟨hkept.trans hdue, hdone, hle, hlt, hpeak ▸ hup⟩

end

/-- Settles O49. -/
theorem temperatureAndSideband : Obligations.TEMPERATURE_AND_SIDEBAND := by
  unfold Obligations.TEMPERATURE_AND_SIDEBAND
  have hside (d : Dev) (l : List Nat) : (d.mctp.side l).out = .smbus l :: d.out := by
    rw [Dev.side, Dev.emit_out, (Dev.mctp_touches d).same .out (by decide)]
  refine ⟨?_, ?_, ?_, ?_, ?_, ?_, ?_, ?_, ?_, ?_, ?_, ?_, ?_, ?_⟩
  case refine_1 =>
    intro i code s hk hl hh
    refine ⟨_, next_congr s ((sensorStep_runs hk hl).trans (if_neg (by simp [hh]))), ?_⟩
    rw [Dev.setSensor_sensor, if_pos rfl]
    rfl
  case refine_2 =>
    intro i code s hk hl
    refine ⟨_, next_congr s ((sensorStep_runs hk hl).trans (if_neg (by simp))), ?_⟩
    rw [Dev.setSensor_sensor, if_pos rfl]
    rfl
  case refine_3 =>
    intro i code s hk hh hs
    have hl : s.dev.live = true := by
      rw [Dev.live]
      rcases hs with h | h | h
      · rw [h]; rfl
      · rw [h]; rfl
      · rw [h]; rfl
    exact ⟨_, next_congr s ((sensorStep_runs hk hl).trans (if_pos (by simp [hh]))), thermalDown_shuts hs⟩
  case refine_4 => exact fun code s hs hts hc => ⟨_, rfl, thermalUp_cool hs hts hc⟩
  case refine_5 => exact fun code s hc => next_congr s (if_neg fun h => by omega)
  case refine_6 =>
    intro r0 dies s hk hl hlt
    obtain ⟨e, hround, hsensors, hfirst, hsecond⟩ := roundStart_two (F := s.fuse) (r0 := r0.val) (dies := dies) hk hl
    refine ⟨_, next_congr s hround, rfl, Dev.advance_to _ (dueMultiple_cases _ _ _ (by decide)).2.1 hlt, hfirst, hsecond, fun i hi hseen hok => ?_⟩
    have hsensor : e.sensor i = (s.dev.sensor i).latched := by
      rw [hsensors, Dev.latch_range, if_pos hi, Dev.sensor, Dev.tick_therm, Dev.sensor]
    rw [show Dev.sensor { e with therm := { e.therm with due := true, round := (s.dev.tick 6 8000000).tether.now } } i = e.sensor i from rfl, hsensor,
      Sensor.latched, if_pos hseen, hok]
    exact ⟨rfl, Bool.or_true _⟩
  case refine_7 => exact fun i s hd hi hs => ⟨_, rfl, roundEval_due hd hi hs⟩
  case refine_8 => exact fun s hd => next_congr s (if_pos (by simp [hd]))
  case refine_9 => exact fun code s hs => ⟨_, congrArg Host.Outcome.next (if_pos hs), rfl⟩
  case refine_10 => exact fun addr s => ⟨_, rfl, rfl⟩
  case refine_11 =>
    intro eid op s
    have htherm : s.dev.mctp.therm = s.dev.therm := (Dev.mctp_touches s.dev).same .therm (by decide)
    have hout : s.dev.mctp.out = s.dev.out := (Dev.mctp_touches s.dev).same .out (by decide)
    have hzero : eid.toNat = 0 ↔ eid = 0 := ⟨fun h => BitVec.eq_of_toNat_eq h, fun h => by rw [h]; rfl⟩
    have hones : eid.toNat = 0xFF ↔ eid = 0xFF := ⟨fun h => BitVec.eq_of_toNat_eq h, fun h => by rw [h]; rfl⟩
    refine ⟨fun hop h0 hF => ?_, fun h => ?_⟩
    · refine ⟨_, next_congr s (if_neg fun h => ?_), ?_, ?_⟩
      · rw [hzero, hones] at h
        rcases h with h | h | h
        · omega
        · exact h0 h
        · exact hF h
      · rw [Dev.side, Dev.emit_therm, htherm]
      · rw [Dev.side, Dev.emit_out, hout]
    · refine ⟨_, next_congr s (if_pos ?_), ?_, ?_⟩
      · rwa [hzero, hones]
      · rw [Dev.side, Dev.emit_therm, htherm]
      · rw [Dev.side, Dev.emit_out, hout]
  case refine_12 =>
    intro s
    exact ⟨⟨_, rfl, hside ..⟩, ⟨_, rfl, hside ..⟩, ⟨_, next_congr s (if_pos (Or.inl rfl)), hside ..⟩, ⟨_, _, rfl, hside .., rfl⟩, _, rfl, hside ..⟩
  case refine_13 =>
    intro idx s hs
    have hidx : idx.toNat = 13 ↔ idx = 13 := ⟨fun h => BitVec.eq_of_toNat_eq h, fun h => by rw [h]; rfl⟩
    have hcode : sensorCode s.dev idx.toNat = if idx = 13 then s.dev.therm.aon else 0xFFFF := by
      rw [sensorCode, if_pos (show s.dev.dark = true from decide_eq_true hs)]
      simp only [hidx]
    rw [← hcode]
    exact ⟨_, rfl, hside ..⟩
  case refine_14 =>
    intro idx s hl hi
    have hdark : s.dev.dark = false := by
      rw [Dev.live] at hl
      rw [Dev.dark, decide_eq_false_iff_not, not_or]
      exact of_decide_eq_true hl
    have hcode : sensorCode s.dev idx.toNat = if (s.dev.sensor idx.toNat).valid = true ∧ (s.dev.sensor idx.toNat).bad = false then
        (s.dev.sensor idx.toNat).code else 0xFFFF := by
      rw [sensorCode, hdark, if_neg Bool.false_ne_true, if_pos hi]
      simp only [Bool.not_eq_true']
    rw [← hcode]
    exact ⟨_, rfl, hside ..⟩

end Sys2Proof.Machine

/-!
PROOFS. O50 (R372 to R378, R386 to R390): the Keel store, operating time and the logbook. Whatever follows the end of a write, the store's bytes
and the writes in progress stay as the write left them (`Dev.StoreKept`).
-/
namespace Sys2Proof.Machine

section
variable {F : Fuses} {d : Dev}

/-! ## The store's bytes -/

/-- The Keel store's bytes and the writes in progress stay as they are. -/
def Dev.StoreKept (d e : Dev) : Prop := e.keel.bytes = d.keel.bytes ∧ e.keel.active = d.keel.active

theorem Dev.StoreKept.of_keel {e : Dev} (h : e.keel = d.keel) : d.StoreKept e := by
  rw [Dev.StoreKept, h]
  exact ⟨rfl, rfl⟩

theorem Dev.StoreKept.comp {e f : Dev} (h : e.StoreKept f) (g : d.StoreKept e) : d.StoreKept f := ⟨h.1.trans g.1, h.2.trans g.2⟩

theorem Dev.StoreKept.foldl {α : Type} (l : List α) (f : Dev → α → Dev) (h : ∀ (e : Dev) (a : α), e.StoreKept (f e a)) (d : Dev) : d.StoreKept (l.foldl f d) :=
  List.foldlRecOn (motive := fun e : Dev => d.StoreKept e) _ _ ⟨rfl, rfl⟩ fun e he a _ => (h e a).comp he

theorem Dev.StoreKept.ite {c : Prop} [Decidable c] {x y : Dev} (hx : d.StoreKept x) (hy : d.StoreKept y) : d.StoreKept (if c then x else y) := by
  split
  · exact hx
  · exact hy

theorem Dev.ringPut_store (d : Dev) (r : Ring) (body : List Nat) (owner : Option Nat) : d.StoreKept (d.ringPut r body owner) := ⟨rfl, rfl⟩

theorem Dev.memberPut_store (d : Dev) : d.StoreKept d.memberPut := ⟨rfl, rfl⟩

theorem uwlAdd_store (d : Dev) (cause : Nat) (l : List UwlEntry) : d.StoreKept (uwlAdd F d cause l) := by
  have hpage (d : Dev) (l : List UwlEntry) : d.StoreKept (uwlPage F cause d l) := by
    unfold uwlPage
    dsimp only
    split
    · exact ⟨rfl, rfl⟩
    · exact .comp (.of_keel (Dev.event_keel ..)) ⟨rfl, rfl⟩
  unfold uwlAdd
  dsimp only
  split
  · exact ⟨rfl, rfl⟩
  · exact .comp (.of_keel (Dev.event_keel ..)) (.foldl _ _ hpage d)

theorem silentOut_store (d : Dev) : d.StoreKept (silentOut F d) := by
  unfold silentOut
  exact .comp (.foldl _ _ (fun e _ => uwlAdd_store e _ _) _) ⟨rfl, rfl⟩

theorem Dev.narrowSettle_store (d : Dev) (g : Nat) : d.StoreKept (d.narrowSettle F g) := by
  have hnarrow (d : Dev) : d.StoreKept (d.narrowOnce F g) := by
    unfold Dev.narrowOnce
    dsimp only
    split
    · exact ⟨rfl, rfl⟩
    · split
      · exact ⟨rfl, rfl⟩
      · refine .comp (.of_keel (by rw [Dev.icu_keel, Dev.postAll_keel, Dev.event_keel])) (.comp (Dev.memberPut_store _) (.of_keel ?_))
        rw [Dev.setGrp_keel]
  have hsettle (d : Dev) : d.StoreKept (d.groupSettle F g) := by
    unfold Dev.groupSettle
    dsimp only
    split
    · exact .comp (.of_keel (Dev.icu_keel ..)) (.comp (Dev.memberPut_store _) (.of_keel (by rw [Dev.event_keel, Dev.setGrp_keel])))
    · exact ⟨rfl, rfl⟩
  exact (hsettle _).comp ((hnarrow _).comp (hnarrow d))

theorem discardLines_store (d : Dev) (lo hi : Nat) : d.StoreKept (discardLines F d lo hi) := by
  unfold discardLines
  refine .comp (.foldl _ _ (fun e _ => e.narrowSettle_store _) _) (.of_keel ?_)
  refine ((Dev.reencSettle_touches _).same .keel (by decide)).trans ?_
  refine ((Touches.foldl (l := [.tracts, .sec]) (fun _ _ => Dev.discardTract_touches ..) (Touches.refl ..)).same .keel (by decide)).trans ?_
  exact (Dev.discardGondola_touches ..).same .keel (by decide)

theorem Dev.eraseRecord_store (d : Dev) (n : Nat) (owner : Option Nat) : d.StoreKept (d.eraseRecord n owner) := by
  have hrand (d : Dev) : d.rand.2.keel = d.keel := (Dev.rand_touches (r := d.rand.1) rfl).same .keel (by decide)
  unfold Dev.eraseRecord
  dsimp only
  refine .comp (Dev.ringPut_store ..) (.comp (e := d.rand.2.rand.2) ⟨rfl, rfl⟩ (.of_keel ?_))
  rw [hrand, hrand]

/-- Sanitize queues writes for the store and completes none (R222, R379). -/
theorem sanAdvance_store (h fuel : Nat) (d : Dev) : d.StoreKept (sanAdvance F h d fuel) := by
  induction fuel generalizing d with
  | zero => exact ⟨rfl, rfl⟩
  | succ fuel ih =>
    have hat (d : Dev) (p : Nat) : d.StoreKept (sanAdvance F h (d.mapCmd h fun y => { y with progress := p }) fuel) :=
      (ih _).comp (.of_keel ((Dev.mapCmd_touches ..).same .keel (by decide)))
    unfold sanAdvance
    split
    · exact ⟨rfl, rfl⟩
    · extract_lets e ks lo n at_
      split
      · refine .ite ?_ (.ite ⟨rfl, rfl⟩ (hat _ _))
        exact .foldl _ _ (fun e _ => .of_keel ((twinOff_touches ..).same .keel (by decide))) d
      · have hclear : d.StoreKept (ks.foldl (fun d k => d.clearSlot k) d) :=
          .foldl _ _ (fun e _ => .of_keel ((Dev.clearSlot_touches ..).same .keel (by decide))) d
        exact .ite ((hat _ _).comp hclear) hclear
      · exact .ite (hat _ _) (.ite ⟨rfl, rfl⟩ (Dev.eraseRecord_store ..))
      · refine .ite (.of_keel ((Dev.finish_touches ..).same .keel (by decide))) (.ite ⟨rfl, rfl⟩ ?_)
        exact .comp (.of_keel (((Dev.setCache_touches ..).same .keel (by decide)).trans ((Dev.invalidate_touches ..).same .keel (by decide))))
          (discardLines_store ..)
      · exact ⟨rfl, rfl⟩

/-- What waited for a write completes with no further write (R379, R383). -/
theorem keelOwner_store (d : Dev) (o : Nat) : d.StoreKept (keelOwner F d o) := by
  unfold keelOwner
  split
  · exact ⟨rfl, rfl⟩
  · split
    · exact ⟨rfl, rfl⟩
    · split
      · exact .of_keel (Dev.emit_keel ..)
      · split
        · exact .of_keel (Dev.emit_keel ..)
        · split
          · exact ⟨rfl, rfl⟩
          · refine (silentOut_store _).comp ?_
            split
            · split
              · exact .comp (.foldl _ _ (fun e _ => sanAdvance_store _ _ e) _) (.of_keel ((Dev.mapCmd_touches ..).same .keel (by decide)))
              · exact ⟨rfl, rfl⟩
            · exact .of_keel ((Dev.finish_touches ..).same .keel (by decide))
            · exact .of_keel ((Dev.finish_touches ..).same .keel (by decide))

/-! ## Writes of the store (R373) -/

theorem keelStart_first {w : KWrite} (hw : d.keel.pickStart [] d.keel.waiting = some w) (hi : d.pwr.inputOk = true) (hl : d.live = true) :
    keelStart F d = { d with keel := { d.keel with active := d.keel.active ++ [w], waiting := d.keel.waiting.erase w } } := by
  rw [keelStart, hw]
  exact if_pos ⟨by rw [keelOk, hi, Bool.true_or], hl⟩

theorem keelDone_verified {w : KWrite} {page : Nat} (hw : (d.keel.active.find? fun w => w.page == page) = some w) :
    (keelDone F d page true).keel.bytes = keelPoke d.keel.bytes w.page w.off w.data ∧ (keelDone F d page true).keel.active = d.keel.active.erase w := by
  have hkept : ((d.keelWritten w).icu 93).StoreKept (keelDone F d page true) := by
    unfold keelDone
    rw [hw]
    dsimp only
    rw [if_pos rfl]
    have hlife (x : Dev) : x.StoreKept (if (x.keel.ready && !x.log.accepting && x.live && x.pwr.flush.isNone) = true then acceptStart F x else x) := by
      split
      · exact .of_keel ((acceptStart_touches ..).same .keel (by decide))
      · exact ⟨rfl, rfl⟩
    generalize (d.keelWritten w).icu 93 = x
    split
    · refine (keelOwner_store ..).comp ?_
      split
      · exact hlife x
      · exact ⟨rfl, rfl⟩
    · split
      · exact hlife x
      · exact ⟨rfl, rfl⟩
  have hwritten : ((d.keelWritten w).icu 93).keel = (d.keelWritten w).keel := Dev.icu_keel ..
  rw [hkept.1, hkept.2, hwritten]
  exact ⟨rfl, rfl⟩

theorem keelDone_repeated {w : KWrite} {page : Nat} (hw : (d.keel.active.find? fun w => w.page == page) = some w) (ht : w.tries = 0) :
    keelDone F d page false =
      { d with keel := { d.keel with active := d.keel.active.map fun x => if x = w then { w with tries := 1 } else x } } := by
  rw [keelDone, hw]
  dsimp only
  rw [if_neg Bool.false_ne_true, if_pos ht]

/-- A second failed verify is counted, and the store's bytes stay (R373). -/
theorem keelDone_failed {w : KWrite} {page : Nat} (hw : (d.keel.active.find? fun w => w.page == page) = some w) (ht : w.tries ≠ 0)
    (hv : d.keel.vfail < 0xFFFF) : (keelDone F d page false).keel.bytes = d.keel.bytes ∧ (keelDone F d page false).keel.vfail = d.keel.vfail + 1 := by
  have hcount : ((({ d with keel := { d.keel with vfail := satAdd d.keel.vfail 1 0xFFFF } } : Dev).event F 0xF005 page).icu 93).keel =
      { d.keel with vfail := d.keel.vfail + 1 } := by
    rw [Dev.icu_keel, Dev.event_keel, show satAdd d.keel.vfail 1 0xFFFF = d.keel.vfail + 1 from Nat.min_eq_left hv]
  unfold keelDone
  rw [hw]
  dsimp only
  rw [if_neg Bool.false_ne_true, if_neg ht]
  generalize ((({ d with keel := { d.keel with vfail := satAdd d.keel.vfail 1 0xFFFF } } : Dev).event F 0xF005 page).icu 93) = x at hcount ⊢
  have hkeel : x.keel.bytes = d.keel.bytes ∧ x.keel.vfail = d.keel.vfail + 1 := by
    rw [hcount]
    exact ⟨rfl, rfl⟩
  split
  · unfold Dev.ringMove
    dsimp only
    split
    · exact hkeel
    · exact hkeel
  · exact hkeel
  · exact hkeel

/-! ## The logbook (R386 to R390) -/

/-- A flush takes the buffer's complete groups from it, and reports what was lost meanwhile (R388, R389). -/
theorem Dev.flushLog_log (d : Dev) : ∃ e : Dev, e.log = { d.log with buf := (logSplit F d.log.next d.log.buf.length d.log.buf).2, lostNew := 0 } ∧
    Dev.flushLog F d = if d.log.lostNew = 0 then e else e.logPush 0xF003 d.log.lostNew e.tether.now := by
  have hpages (l : List (Nat × List LogRec)) : (l.foldl (fun d p => d.keelPut ⟨p.1, 0, logPage p.2, .logPage, 0, none⟩) d).log = d.log :=
    List.foldlRecOn (motive := fun e : Dev => e.log = d.log) _ _ rfl fun _ h _ _ => (Dev.keelPut_log ..).trans h
  unfold Dev.flushLog
  obtain ⟨ps, rest⟩ := logSplit F d.log.next d.log.buf.length d.log.buf
  dsimp only
  have hrest (x : Dev) (b : List Nat) : (if rest.isEmpty = true then x else x.ringPut .staging b).log = x.log := by
    split
    · rfl
    · rw [Dev.ringPut_log]
  have hboth := (hrest _ ([rest.length, 0, 0] ++ leBytes 4 (rest.headD {}).number ++ rest.flatMap LogRec.stored)).trans (hpages ps)
  generalize (if rest.isEmpty = true then _ else _ : Dev) = y at hboth ⊢
  refine ⟨{ y with log := { y.log with buf := rest, lostNew := 0 } }, by rw [hboth], ?_⟩
  rw [hboth]

theorem Dev.logPush_frozen (d : Dev) (code arg t : Nat) : (d.logPush code arg t).log.frozen = d.log.frozen := by
  unfold Dev.logPush
  dsimp only
  split
  · rfl
  · split
    · rw [Dev.icu_log]
    · rfl

/-- The end of a freeze (R390). -/
theorem Dev.thaw_frozen (h : d.log.frozen = true) : (Dev.thaw F d).log.frozen = false := by
  have hflush (e : Dev) (he : e.log.frozen = false) : (Dev.flushLog F e).log.frozen = false := by
    obtain ⟨x, hx, hflow⟩ := e.flushLog_log (F := F)
    have hnot : x.log.frozen = false := by rw [hx, he]
    rw [hflow]
    split
    · exact hnot
    · rw [Dev.logPush_frozen, hnot]
  unfold Dev.thaw
  rw [if_pos h]
  dsimp only
  split
  · exact hflush _ rfl
  · rfl

theorem Dev.opSecond_runs (h : d.operating = true) : d.opSecond = { d.tick 3 (10 ^ 9) with keel :=
    { (if 59 ≤ d.keel.opsec then { d.keel with opsec := 0, opmin := (d.keel.opmin + 1) % 2 ^ 32 } else { d.keel with opsec := d.keel.opsec + 1 }) with
      sinceSave := d.keel.sinceSave + 1 } } := by
  have hpass : d.opSecond = _ := if_neg (by simp [h])
  rw [hpass]
  dsimp only
  rw [Dev.tick_keel]

end

/-- Settles O50. -/
theorem keelAndLogbook : Obligations.KEEL_AND_LOGBOOK := by
  unfold Obligations.KEEL_AND_LOGBOOK
  refine ⟨?_, ?_, ?_, ?_, ?_, ?_, ?_, ?_, ?_, ?_, ?_, ?_⟩
  case refine_1 => exact fun w s hw hi hl => ⟨_, next_congr s (keelStart_first hw hi hl), rfl, rfl, rfl⟩
  case refine_2 => exact fun page w s hw => ⟨_, rfl, keelDone_verified hw⟩
  case refine_3 =>
    intro page w s hw ht
    exact ⟨_, next_congr s (keelDone_repeated hw ht), rfl, List.mem_map.mpr ⟨w, List.mem_of_find?_eq_some hw, if_pos rfl⟩, rfl⟩
  case refine_4 => exact fun page w s hw ht hv => ⟨_, rfl, keelDone_failed hw ht hv⟩
  case refine_5 => exact fun s ho hs => ⟨_, congrArg Host.Outcome.next (if_pos ⟨ho, hs⟩), rfl, rfl, rfl⟩
  case refine_6 =>
    intro s ho
    refine ⟨fun hlt => ?_, fun heq => ?_⟩
    · refine ⟨_, next_congr s (Dev.opSecond_runs ho), ?_⟩
      rw [if_neg (by omega)]
      exact ⟨rfl, rfl, rfl⟩
    · refine ⟨_, next_congr s (Dev.opSecond_runs ho), ?_⟩
      rw [if_pos (by omega)]
      exact ⟨rfl, rfl⟩
  case refine_7 =>
    intro code arg s ha hl
    exact ⟨_, next_congr s ((if_neg (by simp [ha])).trans (if_pos hl)), rfl, rfl⟩
  case refine_8 => exact fun s hc ha => ⟨_, congrArg Host.Outcome.next (if_pos ⟨hc, ha⟩), rfl, rfl⟩
  case refine_9 =>
    intro s hf ha hl
    obtain ⟨e, hlog, hflush⟩ := s.dev.flushLog_log (F := s.fuse)
    rw [if_pos hl] at hflush
    refine ⟨e, (congrArg Host.Outcome.next (if_neg (by simp [hf, ha]))).trans (next_congr s hflush), ?_⟩
    rw [hlog]
    exact ⟨rfl, rfl⟩
  case refine_10 => exact fun s hf => congrArg Host.Outcome.next (if_pos (Or.inl hf))
  case refine_11 =>
    intro s hf
    have hnot : ¬(!s.dev.log.frozen) = true := by simp [hf]
    by_cases hb : 896 ≤ s.dev.log.buf.length
    · exact ⟨_, congrArg Host.Outcome.next ((if_neg hnot).trans (if_pos hb)), Dev.thaw_frozen hf⟩
    · refine ⟨_, congrArg Host.Outcome.next ((if_neg hnot).trans (if_neg hb)), Dev.thaw_frozen ?_⟩
      rw [Dev.advance_log, hf]
  case refine_12 => exact fun s hf => congrArg Host.Outcome.next (if_pos (by simp [hf]))

end Sys2Proof.Machine

/-!
PROOFS. O51 (R397, R400, R401, R403, R406 to R409): counters, histograms and self-test slices.
-/
namespace Sys2Proof.Machine

/-! ## Tables cut in two -/

theorem Tbl.look_filter {α : Type} (d : α) (t : Tbl α) (p : Nat → Bool) (k : Nat) :
    Tbl.look d (t.filter fun e => p e.1) k = if p k then Tbl.look d t k else d := by
  induction t with
  | nil => exact (ite_self d).symm
  | cons e r ih =>
    obtain ⟨j, v⟩ := e
    by_cases hp : p j = true
    · rw [List.filter_cons_of_pos (p := fun e : Nat × α => p e.1) hp, Tbl.look, Tbl.look, ih]
      by_cases hk : j = k
      · rw [if_pos hk, if_pos hk, if_pos (hk ▸ hp)]
      · rw [if_neg hk, if_neg hk]
    · rw [List.filter_cons_of_neg (p := fun e : Nat × α => p e.1) hp, ih, Tbl.look]
      by_cases hk : j = k
      · rw [if_neg (hk ▸ hp), if_neg (hk ▸ hp)]
      · rw [if_neg hk]

theorem Tbl.look_halves {α : Type} (d : α) (t u : Tbl α) (p : Nat → Bool) (k : Nat) :
    Tbl.look d (t.filter (fun e => p e.1) ++ u.filter fun e => !p e.1) k = if p k then Tbl.look d t k else Tbl.look d u k := by
  induction t with
  | nil =>
    refine (Tbl.look_filter d u (fun j => !p j) k).trans ?_
    by_cases hp : p k = true
    · rw [hp]
      rfl
    · rw [Bool.eq_false_iff.mpr hp]
      rfl
  | cons e r ih =>
    obtain ⟨j, v⟩ := e
    by_cases hp : p j = true
    · rw [List.filter_cons_of_pos (p := fun e : Nat × α => p e.1) hp, List.cons_append, Tbl.look, Tbl.look, ih]
      by_cases hk : j = k
      · rw [if_pos hk, if_pos hk, if_pos (hk ▸ hp)]
      · rw [if_neg hk, if_neg hk]
    · rw [List.filter_cons_of_neg (p := fun e : Nat × α => p e.1) hp, ih, Tbl.look]
      by_cases hk : j = k
      · rw [if_neg (hk ▸ hp), if_neg (hk ▸ hp)]
      · rw [if_neg hk]

/-- In dual-head mode a snapshot copies its owner's half and leaves the other (R400). -/
theorem copyOwned_look (live old : Tbl Cnt) (half : Nat) (h : Head) (n : Nat) : Tbl.look {} (copyOwned live old half (some h)) n =
    if decide (n < half) = decide (h = .a) then Tbl.look {} live n else Tbl.look {} old n := by
  have hupper (t : Tbl Cnt) : t.filter (fun e => decide (half ≤ e.1)) = t.filter fun e => !decide (e.1 < half) :=
    List.filter_congr fun e _ => by simp only [← Nat.not_lt, decide_not]
  cases h with
  | a =>
    rw [copyOwned, hupper]
    refine (Tbl.look_halves {} live old (fun j => decide (j < half)) n).trans ?_
    simp
  | b =>
    rw [copyOwned, hupper]
    refine (Tbl.look_halves {} old live (fun j => decide (j < half)) n).trans ?_
    by_cases hn : n < half
    · simp [hn]
    · simp [hn]

section
variable {F : Fuses} {d : Dev}

/-! ## Counters and histograms (R397, R400, R401) -/

theorem snapWho_dual {h : Head} (hm : portMode F d = .dualHead) : snapWho F d h = some h := if_pos hm

theorem snapWho_other {h : Head} (hm : portMode F d ≠ .dualHead) : snapWho F d h = none := if_neg hm

/-- A counter that its owner clears (R397). -/
theorem cntWrite_clears {h : Head} {n v : Nat} (ho : ownsPmc F d h n 64 = true) (hb : bit v 30 = true) :
    (cntWrite F d h n v).pmc.cnt = Tbl.put {} d.pmc.cnt n {} := by
  have hpass : cntWrite F d h n v = _ := if_neg (by simp [ho])
  rw [hpass]
  dsimp only
  rw [if_pos hb, Dev.setReg_pmc]

/-- A histogram that its owner clears (R401). -/
theorem histWrite_clears {h : Head} {i v : Nat} (ho : ownsPmc F d h i 8 = true) (hb : bit v 30 = true) :
    (histWrite F d h i v).pmc.bin = d.pmc.bin.filter fun e => e.1 / 32 != i := by
  have hpass : histWrite F d h i v = _ := if_neg (by simp [ho])
  rw [hpass]
  dsimp only
  rw [if_pos hb, Dev.setReg_pmc]

/-! ## Self-test slices (R406 to R409) -/

/-- Firmware keeps what is queued and queues every slice that exists (R408). -/
theorem slicesQueue_all (hc : d.fld BST_CFG 15 0 ≠ 0) (hs : d.inService = true) (hf : d.fwRuns = true) :
    (∀ x ∈ d.bst.queue, x ∈ (slicesQueue F d).bst.queue) ∧
      ∀ n, n < 1024 → slicePresent F d n = true → ∃ x ∈ (slicesQueue F d).bst.queue, x.num = n := by
  have hpass : slicesQueue F d = _ := if_neg (by simp [hc, hs, hf])
  rw [hpass]
  refine ⟨fun x hx => List.mem_append_left _ hx, fun n hn hp => ?_⟩
  by_cases hq : d.bst.queue.any (fun x => x.num == n) = true
  · obtain ⟨x, hx, hnum⟩ := List.any_eq_true.mp hq
    exact ⟨x, List.mem_append_left _ hx, beq_iff_eq.mp hnum⟩
  · refine ⟨{ num := n }, List.mem_append_right _ (List.mem_map.mpr ⟨n, ?_, rfl⟩), rfl⟩
    rw [List.mem_filter, allSlices, List.mem_filter, List.mem_range]
    exact ⟨⟨hn, hp⟩, by simpa using hq⟩

/-- The device as a slice's window is taken from its unit (R406). -/
def Dev.windowTaken (d : Dev) (n : Nat) : Dev := { d with bst := { d.bst with unitOpen := d.bst.unitOpen.filter (· != n / 256) } }

/-- A slice whose conditions hold runs to its end (R407). -/
theorem sliceRun_runs {n : Nat} {x : Slice} {fault lock : Bool} (hx : (d.bst.queue.find? fun x => x.num == n) = some x)
    (hp : slicePresent F d n = true) (ho : sliceOpen d x = true) (hr : sliceReady d n lock = true) (hown : x.owner = none) :
    ∃ e : Dev, e.bst.queue = d.bst.queue.erase x ∧ e.bst.faults = d.bst.faults ∧ e.lci = d.lci ∧
      sliceRun F d n fault lock = if fault then sliceFault F e x else e := by
  have hend (y : Dev) (cov dur : Nat) : sliceEnd y x cov dur fault false = { y with bst := { y.bst with queue := y.bst.queue.erase x } } := by
    rw [sliceEnd, hown]
  have hgo (y : Dev) (hy : y.bst.queue = d.bst.queue ∧ y.bst.faults = d.bst.faults ∧ y.lci = d.lci) (cov dur : Nat) :
      ((sliceEnd y x cov dur fault false).icu 88).bst.queue = d.bst.queue.erase x ∧
        ((sliceEnd y x cov dur fault false).icu 88).bst.faults = d.bst.faults ∧ ((sliceEnd y x cov dur fault false).icu 88).lci = d.lci := by
    rw [Dev.icu_bst, Dev.icu_lci, hend]
    exact ⟨congrArg (List.erase · x) hy.1, hy.2⟩
  have hwait (t : Nat) : ((d.windowTaken n).advance t).bst.queue = d.bst.queue ∧ ((d.windowTaken n).advance t).bst.faults = d.bst.faults ∧
      ((d.windowTaken n).advance t).lci = d.lci := by
    rw [Dev.advance_bst, Dev.advance_lci]
    exact ⟨rfl, rfl, rfl⟩
  unfold sliceRun
  rw [hx]
  dsimp only
  rw [if_neg (by simp [hp]), if_neg (by simp [ho]), if_neg (by simp [hr])]
  by_cases hu : n / 256 = 0
  · obtain ⟨hq, hf, hl⟩ := hgo _ (hwait ((d.windowTaken n).tether.now + (sliceFacts n).1 * 1000)) (sliceFacts n).2 (sliceFacts n).1
    refine ⟨_, hq, hf, hl, ?_⟩
    rw [if_pos hu]
    rfl
  · obtain ⟨hq, hf, hl⟩ := hgo (d.windowTaken n) ⟨rfl, rfl, rfl⟩ (sliceFacts n).2 (sliceFacts n).1
    refine ⟨_, hq, hf, hl, ?_⟩
    rw [if_neg hu]
    rfl

/-- A slice whose conditions do not hold stays queued, one deferral on (R407). -/
theorem sliceRun_deferred {n : Nat} {x : Slice} {fault lock : Bool} (hx : (d.bst.queue.find? fun x => x.num == n) = some x)
    (hp : slicePresent F d n = true) (ho : sliceOpen d x = true) (hr : sliceReady d n lock = false) (hd : x.deferrals < 8) :
    ∃ y : Slice, y.num = n ∧ y.deferrals = x.deferrals + 1 ∧ sliceRun F d n fault lock =
      { d.windowTaken n with bst := { (d.windowTaken n).bst with queue := d.bst.queue.map fun z => if z = x then y else z } } := by
  have hnum : x.num = n := beq_iff_eq.mp (List.find?_some hx :)
  refine ⟨{ x with deferrals := x.deferrals + 1, after := if n / 256 = 0 then some d.tether.twCount else none },
    hnum, rfl, ?_⟩
  unfold sliceRun
  rw [hx]
  dsimp only
  rw [if_neg (by simp [hp]), if_neg (by simp [ho]), if_pos (by simp [hr]), if_neg (by omega)]
  rfl

/-- A fault of a slice is counted, whatever else it brings (R409). -/
theorem sliceFault_counts {x : Slice} (h : d.bst.faults < 0xFFF) : (sliceFault F d x).bst.faults = d.bst.faults + 1 ∧
    (sliceFault F d x).bst.lastFault = x.num ∧ (sliceFault F d x).lci = d.lci := by
  have hcount : (Dev.event F { d with bst := { d.bst with faults := satAdd d.bst.faults 1 0xFFF, lastFault := x.num } } 0x6005 x.num).bst =
      { d.bst with faults := d.bst.faults + 1, lastFault := x.num } := by
    rw [Dev.event_bst, show satAdd d.bst.faults 1 0xFFF = d.bst.faults + 1 from Nat.min_eq_left h]
  have hlci : (Dev.event F { d with bst := { d.bst with faults := satAdd d.bst.faults 1 0xFFF, lastFault := x.num } } 0x6005 x.num).lci = d.lci := by
    rw [Dev.event_lci]
  have hkept (y : Dev) (hb : y.bst = { d.bst with faults := d.bst.faults + 1, lastFault := x.num }) (hl : y.lci = d.lci) :
      y.bst.faults = d.bst.faults + 1 ∧ y.bst.lastFault = x.num ∧ y.lci = d.lci := by
    rw [hb]
    exact ⟨rfl, rfl, hl⟩
  unfold sliceFault
  dsimp only
  generalize Dev.event F _ 0x6005 x.num = y at hcount hlci ⊢
  have hsame := hkept y hcount hlci
  split
  · split
    · unfold Dev.retrainAsk
      dsimp only
      split
      · exact hsame
      · exact hsame
    · exact hsame
  · split
    · exact hkept _ (by rw [Dev.icu_bst, Dev.event_bst]; exact hcount) (by rw [Dev.icu_lci, Dev.event_lci]; exact hlci)
    · split
      · exact hsame
      · exact hsame
  · exact hsame

end

/-- Settles O51. -/
theorem countersAndSlices : Obligations.COUNTERS_AND_SLICES := by
  unfold Obligations.COUNTERS_AND_SLICES
  refine ⟨?_, ?_, ?_, ?_, ?_, ?_, ?_, ?_, ?_, ?_, ?_, ?_⟩
  case refine_1 =>
    intro h n v s ho hb
    refine ⟨_, rfl, ?_⟩
    rw [cntWrite_clears ho hb]
    exact ⟨Tbl.look_put_same .., fun k hk => Tbl.look_put_other _ _ _ _ _ hk⟩
  case refine_2 => exact fun h n v s ho => next_congr s (if_pos (by simp [ho]))
  case refine_3 =>
    intro h s hm
    refine ⟨_, next_congr s (congrArg s.dev.snapCounters (snapWho_other hm)), rfl, rfl, rfl, rfl⟩
  case refine_4 =>
    exact fun h s hm => ⟨_, next_congr s (congrArg s.dev.snapCounters (snapWho_dual hm)), copyOwned_look _ _ 32 h⟩
  case refine_5 =>
    exact fun h s hm => ⟨_, next_congr s (congrArg s.dev.snapHist (snapWho_dual hm)), copyOwned_look _ _ 128 h⟩
  case refine_6 =>
    intro h s hm
    exact ⟨_, next_congr s (congrArg s.dev.snapHist (snapWho_other hm)), rfl, rfl⟩
  case refine_7 =>
    intro h i v s ho hb
    refine ⟨_, rfl, fun n => ?_⟩
    rw [histWrite_clears ho hb]
    refine (Tbl.look_filter {} s.dev.pmc.bin (fun j => j / 32 != i.val) n).trans ?_
    by_cases hn : n / 32 = i.val
    · simp [hn]
    · simp [hn]
  case refine_8 =>
    intro s hl
    refine ⟨_, congrArg Host.Outcome.next (if_pos hl), rfl, ?_⟩
    exact (congrArg Bst.queue (Dev.tick_bst ..) :)
  case refine_9 => exact fun s hc hs hf => ⟨_, rfl, slicesQueue_all hc hs hf⟩
  case refine_10 =>
    intro n x lock s hx hp ho hr hown hloud
    obtain ⟨e, hqueue, hfaults, hlci, hrun⟩ := sliceRun_runs (fault := false) hx hp ho hr hown
    have hsilent : silentOut s.fuse e = e := silentOut_of_none (hloud.of_lci hlci)
    exact ⟨e, next_congr s ((congrArg (silentOut s.fuse) hrun).trans hsilent), hqueue, hfaults⟩
  case refine_11 =>
    intro n x lock s hx hp ho hr hown hloud hlt
    obtain ⟨e, -, hfaults, hlci, hrun⟩ := sliceRun_runs (fault := true) hx hp ho hr hown
    obtain ⟨hcount, hlast, hlci'⟩ := sliceFault_counts (F := s.fuse) (d := e) (x := x) (by rw [hfaults]; exact hlt)
    have hsilent : silentOut s.fuse (sliceFault s.fuse e x) = sliceFault s.fuse e x := silentOut_of_none (hloud.of_lci (hlci'.trans hlci))
    refine ⟨_, next_congr s ((congrArg (silentOut s.fuse) hrun).trans hsilent), by rw [hcount, hfaults], ?_⟩
    rw [hlast]
    exact beq_iff_eq.mp (List.find?_some hx :)
  case refine_12 =>
    intro n x fault lock s hx hp ho hr hd hloud
    obtain ⟨y, hnum, hdefer, hrun⟩ := sliceRun_deferred (fault := fault) hx hp ho hr hd
    have hsilent := silentOut_of_none (F := s.fuse) (d := { s.dev.windowTaken n.toNat with
      bst := { (s.dev.windowTaken n.toNat).bst with queue := s.dev.bst.queue.map fun z => if z = x then y else z } }) hloud
    refine ⟨y, _, next_congr s ((congrArg (silentOut s.fuse) hrun).trans hsilent), ?_, hnum, hdefer, List.length_map ..⟩
    exact List.mem_map.mpr ⟨x, List.mem_of_find?_eq_some hx, if_pos rfl⟩

end Sys2Proof.Machine

/-!
PROOFS. O52 (R257, R410 to R415): the Forax debug port.
-/
namespace Sys2Proof.Machine

section
variable {F : Fuses} {d : Dev}

/-! ## Core pairs that the port halts and resumes (R413, R414) -/

/-- Whether the standby is ready is no pair's own record. -/
theorem Dev.standby_pair (d : Dev) (ok : Bool) (q : PairId) : Dev.pair { d with cores := { d.cores with standbyOk := ok } } q = d.pair q := by
  cases q with
  | a => rfl
  | b => rfl

theorem Dev.haltPair_runs {p : PairId} (hr : (d.pair p).runs = true) (hh : (d.pair p).halted = false) :
    (d.haltPair p).pair p = { d.pair p with halted := true, haltAt := d.tether.now } ∧ (d.haltPair p).dbg = d.dbg := by
  have hpass : d.haltPair p = _ := if_neg (by simp [hr, hh])
  rw [hpass]
  dsimp only
  split
  · rw [Dev.setPair_pair, if_pos rfl, Dev.setPair_dbg]
    exact ⟨rfl, rfl⟩
  · rw [Dev.standby_pair, Dev.setPair_pair, if_pos rfl, Dev.setPair_dbg]
    exact ⟨rfl, rfl⟩

/-- A pair that goes on, with the time that it was halted for given back to its watchdog (R413). -/
def Pair.resumed (x : Pair) (now : Nat) : Pair := if x.halted then { x with halted := false, pet := x.pet + (now - x.haltAt) } else x

theorem Pair.resumed_halted (x : Pair) (now : Nat) : (x.resumed now).halted = false := by
  unfold Pair.resumed
  split
  · rfl
  next h => exact Bool.eq_false_iff.mpr h

theorem Dev.resumePair_pair (d : Dev) (p q : PairId) :
    (d.resumePair p).pair q = if q = p then (d.pair p).resumed d.tether.now else d.pair q := by
  unfold Dev.resumePair Pair.resumed
  dsimp only
  by_cases hh : (d.pair p).halted = true
  · rw [if_neg (by simp [hh]), if_pos hh]
    split
    · exact Dev.setPair_pair ..
    · rw [Dev.standby_pair]
      exact Dev.setPair_pair ..
  · rw [if_pos (by simpa using hh), if_neg hh]
    split
    next h => rw [h]
    next => rfl

/-! ## Semaphores and memories -/

/-- Semaphores that their holder abandons (R316, R415). -/
theorem Dev.semsAbandon_held {who n : Nat} (h : (d.sem n).owner = who) (hw : who ≠ 0) : (d.semsAbandon who).sem n = ⟨0, true⟩ := by
  have hown : (Tbl.look {} d.sems n).owner = who := h
  have hheld : Tbl.look {} d.sems n ≠ ({} : Sem) := fun heq => hw (hown.symm.trans (congrArg Sem.owner heq))
  have hnew : ∀ s : Sem, s.owner = who → (if s.owner = who then (⟨0, true⟩ : Sem) else s) = ⟨0, true⟩ := fun _ hs => if_pos hs
  exact (Tbl.look_mapAll ({} : Sem) (fun _ (s : Sem) => if s.owner = who then ⟨0, true⟩ else s) rfl hheld
    (by rw [hnew _ hown]; decide)).trans (hnew _ hown)

/-- Bytes written one after another (R413). -/
theorem Tbl.look_putBytes (t : Tbl Nat) (f : Nat → Nat) (off n k : Nat) :
    Tbl.look 0 ((List.range n).foldl (fun t i => Tbl.put 0 t (off + i) (f i)) t) k = if off ≤ k ∧ k < off + n then f (k - off) else Tbl.look 0 t k := by
  induction n with
  | zero => exact (if_neg (by omega)).symm
  | succ n ih =>
    rw [List.range_succ, List.foldl_append, List.foldl_cons, List.foldl_nil, Tbl.look_put]
    by_cases hk : k = off + n
    · rw [if_pos hk, if_pos (by omega), hk, Nat.add_sub_cancel_left]
    · rw [if_neg hk, ih]
      by_cases hin : off ≤ k ∧ k < off + n
      · rw [if_pos hin, if_pos (by omega)]
      · rw [if_neg hin, if_neg (by omega)]

/-! ## Commands of the port -/

/-- The device as a command of an unlocked port begins: the session is open (R413, R415). -/
def Dev.fxOpened (d : Dev) : Dev := (Dev.irLoad { d with dbg := { d.dbg with session := true, err := 0 } } 0x13).icu 97

theorem Dev.fxOpened_same (d : Dev) : d.fxOpened.cores = d.cores ∧ d.fxOpened.sems = d.sems ∧ d.fxOpened.tether = d.tether ∧ d.fxOpened.out = d.out ∧
    d.fxOpened.dbg = { d.dbg with session := true, err := 0, ir := 0x13 } := by
  unfold Dev.fxOpened
  rw [Dev.icu_cores, Dev.icu_sems, Dev.icu_tether, Dev.icu_out, Dev.icu_dbg]
  exact ⟨rfl, rfl, rfl, rfl, rfl⟩

theorem Dev.fxOpened_pair (d : Dev) (p : PairId) : d.fxOpened.pair p = d.pair p :=
  Dev.pair_of_cores d.fxOpened_same.1 p

theorem fxRun_unlocked (ht : d.tap = true) (hb : d.dbg.busy = false) (hu : d.dbg.unlocked = true) (f : Dev → Dev) : fxRun d f = f d.fxOpened :=
  (if_neg (by simp [ht])).trans ((if_neg (by simp [hb])).trans (if_neg (by simp [hu])))

theorem fxRun_locked (ht : d.tap = true) (hb : d.dbg.busy = false) (hu : d.dbg.unlocked = false) (f : Dev → Dev) : fxRun d f = d.fxRefuse :=
  (if_neg (by simp [ht])).trans ((if_neg (by simp [hb])).trans (if_pos (by simp [hu])))

theorem fxLoad_memory {raw : Bool} {a : Nat} {p : PairId} {off : Nat} (hp : fxPlace a = .memory p off) :
    fxLoad F d raw a = d.fxOut (leNat ((List.range 8).map fun i => Tbl.look 0 (d.pair p).mem (off + i))) := by
  unfold fxLoad
  rw [hp]

/-- What a store of 64 bits leaves in a pair's memory: its 8 bytes, and the others as they were (R413). -/
theorem fxStore_memory {a : Nat} (v : Nat) {p : PairId} {off : Nat} (hp : fxPlace a = .memory p off) (k : Nat) :
    Tbl.look 0 ((fxStore F d a v).pair p).mem k = if off ≤ k ∧ k < off + 8 then byteOf v (k - off) else Tbl.look 0 (d.pair p).mem k := by
  unfold fxStore
  rw [hp]
  dsimp only
  have hsame : Dev.pair { d with dbg := { d.dbg with fxData := BitVec.ofNat 64 v } } p = d.pair p := Dev.pair_of_cores rfl p
  rw [Dev.setPair_pair, if_pos rfl, hsame]
  rw [Tbl.look_putBytes (d.pair p).mem (byteOf v) off 8 k]

theorem fxStore_outside {a : Nat} (v : Nat) (hp : fxPlace a = .none) : (fxStore F d a v).dbg.err = 3 := by
  unfold fxStore
  rw [hp]
  rfl

/-- The close of a session resumes both pairs and gives back the port's semaphores (R415). -/
theorem Dev.fxClose_state (d : Dev) : d.fxClose.dbg = { d.dbg with session := false } ∧ (d.fxClose.pair .a).halted = false ∧
    (d.fxClose.pair .b).halted = false ∧ (d.fxClose.pair .a).bkpt = [] ∧ ∀ n, (d.sem n).owner = 3 → d.fxClose.sem n = ⟨0, true⟩ := by
  have hkeep : Touches [.cores] d ((d.resumePair .a).resumePair .b) :=
    Touches.comp (Dev.resumePair_touches ..) (by decide) (Dev.resumePair_touches ..)
  have hb : (((d.resumePair .a).resumePair .b).pair .b).halted = false := by
    rw [Dev.resumePair_pair, if_pos rfl]
    exact Pair.resumed_halted ..
  have ha : (((d.resumePair .a).resumePair .b).pair .a).halted = false := by
    rw [Dev.resumePair_pair, if_neg (by decide), Dev.resumePair_pair, if_pos rfl]
    exact Pair.resumed_halted ..
  refine ⟨?_, ha, hb, rfl, fun n hn => ?_⟩
  · exact congrArg (fun x : Dbg => { x with session := false }) (hkeep.same .dbg (by decide))
  · have hsems : ((d.resumePair .a).resumePair .b).sems = d.sems := hkeep.same .sems (by decide)
    exact Dev.semsAbandon_held (d := { (d.resumePair .a).resumePair .b with sems := _ }) ((congrArg (fun t => (Tbl.look {} t n).owner) hsems).trans hn) (by decide)

/-! ## The unlock (R257, R412) -/

theorem fxResponse_judged {r t : BitVec 384} {c : BitVec 384} (ht : d.tap = true) (hu : d.dbg.unlocked = false) (hb : d.dbg.busy = false)
    (hf : d.dbg.fails < 4) (hc : d.dbg.chal = some c) : fxResponse F d r t =
      if Config.ecdsa F.debugKey (leBytes 48 c.toNat) r t then unlockWork F (d.irLoad 0x12)
      else { d.irLoad 0x12 with dbg := { (d.irLoad 0x12).dbg with fails := (d.irLoad 0x12).dbg.fails + 1, err := 5 } } := by
  unfold fxResponse
  rw [if_neg (by simp [ht, hu, hb, Nat.not_le.mpr hf]), hc]

theorem Dev.unlockSettle_state (d : Dev) (hb : d.dbg.busy = true) : d.unlockSettle.sec = d.sec ∧
    (d.unlockSettle.dbg.unlocked = true ∨ d.unlockSettle.dbg.busy = true) := by
  unfold Dev.unlockSettle
  dsimp only
  split
  · exact ⟨rfl, Or.inl rfl⟩
  · exact ⟨rfl, Or.inr hb⟩

/-- An unlock puts the device in debug mode and drains every slot (R257). -/
theorem unlockWork_drains (d : Dev) : (unlockWork F d).sec.dbgMode = true ∧
    ((unlockWork F d).dbg.unlocked = true ∨ (unlockWork F d).dbg.busy = true) ∧ ∀ k, ((unlockWork F d).slot k).state ≠ 1 := by
  unfold unlockWork
  dsimp only
  generalize List.foldl _ d _ = x
  obtain ⟨hsec, hdbg⟩ := Dev.unlockSettle_state { x with
    sec := { x.sec with dbgMode := true, slots := Tbl.mapAll {} x.sec.slots fun _ x => if x.state = 1 then { x with state := 2 } else x }
    dbg := { x.dbg with busy := true, err := 0 } } rfl
  refine ⟨by rw [hsec], hdbg, fun k => ?_⟩
  rw [Dev.slot, hsec]
  refine Tbl.look_prop (P := fun s : Slot => s.state ≠ 1) {} _ (by decide) (fun e he => ?_) k
  obtain ⟨y, -, rfl⟩ := List.mem_map.mp (List.mem_of_mem_filter he)
  dsimp only
  split
  · exact (by decide : (2 : Nat) ≠ 1)
  next h => exact h

end

/-! ## O52 -/

/-- Instructions of a working port (R410, R412). -/
theorem tap_instructions {s : State} (ht : s.dev.tap = true) :
    (∃ e, exec .idcode s = .next { s with dev := e } ∧ e.dbg = { s.dev.dbg with ir := 1 } ∧ e.out = .tdo 32 (idcodeWord s.fuse) :: s.dev.out) ∧
    (∀ pins, ∃ e, exec (.samplePreload pins) s = .next { s with dev := e } ∧ e.dbg = { s.dev.dbg with scan := pins, ir := 2 } ∧
      e.out = .tdo pins.length (boolsNat pins) :: s.dev.out) ∧
    (∀ code : Fin 64, code.val ∉ irCodes → ∃ e, exec (.bypass code) s = .next { s with dev := e } ∧ e.dbg = { s.dev.dbg with ir := code.val } ∧
      e.out = .tdo 1 0 :: s.dev.out) ∧
    (∃ e, exec .fxStatus s = .next { s with dev := e } ∧ e.dbg = { s.dev.dbg with ir := 0x10 } ∧ e.out = .tdo 32 (dbgSts s.dev) :: s.dev.out) ∧
    (s.dev.dbg.fails < 4 → ∃ c e, exec .fxChal s = .next { s with dev := e } ∧ e.dbg = { s.dev.dbg with chal := some c, ir := 0x11 }) ∧
    (4 ≤ s.dev.dbg.fails → ∃ e, exec .fxChal s = .next { s with dev := e } ∧ e.dbg = { s.dev.dbg with ir := 0x11 } ∧
      e.out = .tdo 384 0 :: s.dev.out) ∧
    (∃ e, exec .tapReset s = .next { s with dev := e } ∧ e.dbg = { s.dev.dbg with ir := 1, hold := false, session := false } ∧
      ∀ n, (s.dev.sem n).owner = 3 → e.sem n = ⟨0, true⟩) := by
  refine ⟨?idcode, fun pins => ?sample, fun code hc => ?bypass, ?status, fun hf => ?chal, fun hf => ?locked, ?reset⟩
  case idcode => exact ⟨_, congrArg Host.Outcome.next (if_pos ht), rfl, rfl⟩
  case sample => exact ⟨_, next_congr s (if_pos ht), rfl, rfl⟩
  case bypass => exact ⟨_, congrArg Host.Outcome.next (if_pos ⟨ht, by simpa using hc⟩), rfl, rfl⟩
  case status => exact ⟨_, congrArg Host.Outcome.next (if_pos ht), rfl, rfl⟩
  case chal => exact ⟨_, _, next_congr s ((if_neg (by simp [ht])).trans (if_neg (by omega))), rfl⟩
  case locked => exact ⟨_, next_congr s ((if_neg (by simp [ht])).trans (if_pos hf)), rfl, rfl⟩
  case reset =>
    obtain ⟨hdbg, -, -, -, hsem⟩ := s.dev.fxClose_state
    exact ⟨_, congrArg Host.Outcome.next (if_pos ht), congrArg (fun x : Dbg => { x with ir := 1, hold := false }) hdbg, hsem⟩

/-- A command of an unlocked port runs on the device as the session opens (R413). -/
theorem next_unlocked {s : State} (ht : s.dev.tap = true) (hb : s.dev.dbg.busy = false) (hu : s.dev.dbg.unlocked = true) (f : Dev → Dev) :
    (.next { s with dev := fxRun s.dev f } : Host.Outcome State Fault Refusal) = .next { s with dev := f s.dev.fxOpened } :=
  next_congr s (fxRun_unlocked ht hb hu f)

/-- A command that needs a halted pair finds one (R413). -/
theorem Dev.onHalted_opened {d : Dev} {p : PairId} (hh : (d.pair p).halted = true) (f : Dev → Dev) : d.fxOpened.onHalted p f = f d.fxOpened :=
  if_pos ((congrArg Pair.halted (d.fxOpened_pair p)).trans hh)

/-- Commands of an unlocked port on a halted pair (R413). -/
theorem fx_onHalted {s : State} (ht : s.dev.tap = true) (hb : s.dev.dbg.busy = false) (hu : s.dev.dbg.unlocked = true) {p : PairId}
    (hh : (s.dev.pair p).halted = true) :
    (∃ e, exec (.fxResume p) s = .next { s with dev := e } ∧ (e.pair p).halted = false ∧
      (e.pair p).pet = (s.dev.pair p).pet + (s.dev.tether.now - (s.dev.pair p).haltAt)) ∧
    (∀ i v, ∃ e, exec (.fxStep p [(i, v)]) s = .next { s with dev := e } ∧ Tbl.look 0 (e.pair p).regs i = v ∧
      ∀ j, j ≠ i → Tbl.look 0 (e.pair p).regs j = Tbl.look 0 (s.dev.pair p).regs j) ∧
    (∀ i : Byte, ∃ e, exec (.fxReadRegister p i) s = .next { s with dev := e } ∧
      e.out = .tdo 64 (Tbl.look 0 (s.dev.pair p).regs i.toNat) :: s.dev.out) ∧
    (∀ (i : Byte) (x : BitVec 64), ∃ e, exec (.fxWriteRegister p i x) s = .next { s with dev := e } ∧
      Tbl.look 0 (e.pair p).regs i.toNat = x.toNat) := by
  obtain ⟨-, -, htether, hout, -⟩ := s.dev.fxOpened_same
  refine ⟨⟨_, next_unlocked ht hb hu _, ?resume⟩, fun i v => ⟨_, (next_unlocked ht hb hu _).trans (next_congr s (Dev.onHalted_opened hh _)), ?step⟩,
    fun i => ⟨_, (next_unlocked ht hb hu _).trans (next_congr s (Dev.onHalted_opened hh _)), ?read⟩,
    fun i x => ⟨_, (next_unlocked ht hb hu _).trans (next_congr s (Dev.onHalted_opened hh _)), ?write⟩⟩
  case resume =>
    rw [Dev.resumePair_pair, if_pos rfl, Dev.fxOpened_pair, htether]
    exact ⟨Pair.resumed_halted .., congrArg Pair.pet (if_pos hh)⟩
  case step =>
    rw [Dev.stepPair, Dev.setPair_pair, if_pos rfl, Dev.fxOpened_pair]
    exact ⟨Tbl.look_put_same .., fun j hj => Tbl.look_put_other _ _ _ _ _ hj⟩
  case read => exact (congrArg₂ (fun (x : Pair) (l : List Out) => Out.tdo 64 (Tbl.look 0 x.regs i.toNat) :: l) (s.dev.fxOpened_pair p) hout)
  case write =>
    rw [Dev.stepPair, Dev.setPair_pair, if_pos rfl]
    exact Tbl.look_put_same ..

/-- Commands of an unlocked port on memories, breakpoints and semaphores (R316, R413). -/
theorem fx_stores {s : State} (ht : s.dev.tap = true) (hb : s.dev.dbg.busy = false) (hu : s.dev.dbg.unlocked = true) :
    (∀ p (i : Fin 8) (a : BitVec 48),
      (∃ e, exec (.fxSetBreakpoint p i a) s = .next { s with dev := e } ∧ Tbl.look none (e.pair p).bkpt i.val = some a.toNat) ∧
      (∃ e, exec (.fxClearBreakpoint p i) s = .next { s with dev := e } ∧ Tbl.look none (e.pair p).bkpt i.val = none)) ∧
    (∀ raw p (a : BitVec 48) off, fxPlace a.toNat = .memory p off → ∃ e, exec (.fxRead raw a) s = .next { s with dev := e } ∧
      e.out = .tdo 64 (leNat ((List.range 8).map fun i => Tbl.look 0 (s.dev.pair p).mem (off + i))) :: s.dev.out) ∧
    (∀ p (a : BitVec 48) (x : BitVec 64) off i, fxPlace a.toNat = .memory p off → i < 8 →
      ∃ e, exec (.fxWrite a x) s = .next { s with dev := e } ∧ Tbl.look 0 (e.pair p).mem (off + i) = byteOf x.toNat i ∧
        ∀ k, k < off ∨ off + 8 ≤ k → Tbl.look 0 (e.pair p).mem k = Tbl.look 0 (s.dev.pair p).mem k) ∧
    (∀ (a : BitVec 48) x, fxPlace a.toNat = .none → ∃ e, exec (.fxWrite a x) s = .next { s with dev := e } ∧ e.dbg.err = 3) ∧
    (∀ i : Fin 64, (s.dev.sem i.val).owner = 0 → ∃ e, exec (.fxSemaphoreAcquire i) s = .next { s with dev := e } ∧ e.sem i.val = ⟨3, false⟩ ∧
      e.out = .tdo 64 (2 ^ 31 + 2 ^ 30 * b2n (s.dev.sem i.val).abandoned + 3) :: s.dev.out) ∧
    (∀ i : Fin 64, (s.dev.sem i.val).owner = 3 → ∃ e, exec (.fxSemaphoreRelease i) s = .next { s with dev := e } ∧ (e.sem i.val).owner = 0) := by
  obtain ⟨-, hsems, -, hout, -⟩ := s.dev.fxOpened_same
  have hsem : ∀ n, s.dev.fxOpened.sem n = s.dev.sem n := fun n => congrArg (fun t => Tbl.look ({} : Sem) t n) hsems
  refine ⟨fun p i a => ⟨⟨_, next_unlocked ht hb hu _, ?set⟩, ⟨_, next_unlocked ht hb hu _, ?clear⟩⟩, fun raw p a off hp => ⟨_, next_unlocked ht hb hu _, ?read⟩,
    fun p a x off i hp hi => ⟨_, next_unlocked ht hb hu _, ?write⟩, fun a x hp => ⟨_, next_unlocked ht hb hu _, ?outside⟩,
    fun i hi => ⟨_, next_unlocked ht hb hu _, ?acquire⟩, fun i hi => ⟨_, next_unlocked ht hb hu _, ?release⟩⟩
  case set =>
    rw [Dev.setBkpt, Dev.setPair_pair, if_pos rfl]
    exact Tbl.look_put_same ..
  case clear =>
    rw [Dev.setBkpt, Dev.setPair_pair, if_pos rfl]
    exact Tbl.look_put_same ..
  case read =>
    rw [fxLoad_memory hp]
    exact congrArg₂ (fun (x : Pair) (l : List Out) => Out.tdo 64 (leNat ((List.range 8).map fun i => Tbl.look 0 x.mem (off + i))) :: l)
      (s.dev.fxOpened_pair p) hout
  case write =>
    refine ⟨?_, fun k hk => ?_⟩
    · rw [fxStore_memory _ hp, if_pos (by omega), Nat.add_sub_cancel_left]
    · rw [fxStore_memory _ hp, if_neg (by omega), Dev.fxOpened_pair]
  case outside => exact fxStore_outside _ hp
  case acquire =>
    have hget : s.dev.fxOpened.semAcquire i.val 3 = _ := if_pos ((congrArg Sem.owner (hsem i.val)).trans hi)
    rw [hget]
    exact ⟨Tbl.look_put_same .., congrArg₂ (fun (x : Sem) (l : List Out) => Out.tdo 64 (2 ^ 31 + 2 ^ 30 * b2n x.abandoned + 3) :: l) (hsem i.val) hout⟩
  case release =>
    have hput : s.dev.fxOpened.semRelease i.val 3 = _ := if_pos ((congrArg Sem.owner (hsem i.val)).trans hi)
    rw [hput]
    exact congrArg Sem.owner (Tbl.look_put_same ..)

/-- Settles O52. -/
theorem debugPort : Obligations.DEBUG_PORT := by
  refine ⟨fun s ht => ?off, fun s ht => tap_instructions ht, fun r t c s ht hu hb hf hc => ?response, fun p s ht hb hu => ?refused,
    fun s ht hb hu => ⟨fun p hr hh => ?halt, fun p hh => fx_onHalted ht hb hu hh, fun p hh l => ?running, ?commands⟩, fun p i a s ha hr hh => ?hit⟩
  case off =>
    have hn : ¬ s.dev.tap = true := by simp [ht]
    exact ⟨congrArg Host.Outcome.next (if_neg hn), congrArg Host.Outcome.next (if_neg hn), next_congr s (if_pos (by simp [ht])),
      congrArg Host.Outcome.next (if_neg hn)⟩
  case response =>
    have hresp := fxResponse_judged (F := s.fuse) (r := r) (t := t) ht hu hb hf hc
    refine ⟨fun hbad => ⟨_, next_congr s (hresp.trans (if_neg (by simp [hbad]))), rfl⟩, fun hgood => ?_⟩
    exact ⟨_, next_congr s (hresp.trans (if_pos hgood)), unlockWork_drains _⟩
  case refused => exact ⟨_, next_congr s (fxRun_locked ht hb hu _), rfl, rfl⟩
  case halt =>
    obtain ⟨-, -, htether, -, hdbg⟩ := s.dev.fxOpened_same
    have hpair := s.dev.fxOpened_pair p
    obtain ⟨hhalt, hsame⟩ := Dev.haltPair_runs (d := s.dev.fxOpened) ((congrArg Pair.runs hpair).trans hr) ((congrArg Pair.halted hpair).trans hh)
    refine ⟨_, next_unlocked ht hb hu _, ?_, ?_, ?_⟩
    · rw [hhalt, hpair, htether]
    · rw [hsame, hdbg]
    · rw [hsame, hdbg]
  case running =>
    have hn : ¬ (s.dev.fxOpened.pair p).halted = true := by simp [s.dev.fxOpened_pair p, hh]
    exact ⟨_, (next_unlocked ht hb hu _).trans (next_congr s (if_neg hn)), rfl, s.dev.fxOpened_same.1⟩
  case commands =>
    obtain ⟨hbkpt, hread, hwrite, hnone, hacquire, hrelease⟩ := fx_stores ht hb hu
    obtain ⟨-, hsems, -, -, -⟩ := s.dev.fxOpened_same
    obtain ⟨hclosed, ha, hb', hkpt, hsem⟩ := s.dev.fxOpened.fxClose_state
    refine ⟨hbkpt, hread, hwrite, hnone, hacquire, hrelease, _, next_unlocked ht hb hu _, congrArg Dbg.session hclosed, ha, hb', hkpt, fun n hn => hsem n ?_⟩
    exact (congrArg (fun t => (Tbl.look {} t n).owner) hsems).trans hn
  case hit =>
    obtain ⟨hhalt, -⟩ := Dev.haltPair_runs hr hh
    exact ⟨_, next_congr s (if_pos (by rw [ha]; rfl)), congrArg Pair.halted hhalt⟩

end Sys2Proof.Machine

/-!
PROOFS. O53 (R7, R11, R12, R438): host writes of BAR0.
-/
namespace Sys2Proof.Machine

section
variable {F : Fuses} {d : Dev} {h : Head}

/-! ## Errors of access (R438) -/

theorem Dev.reg_bump_same (d : Dev) (off : Nat) : ((d.bump off).reg off).toNat = min ((d.reg off).toNat + 1) 0xFFFFFFFF := by
  rw [Dev.bump, Dev.reg_setReg, if_pos rfl, BitVec.toNat_ofNat]
  have hlt := (d.reg off).isLt
  unfold satAdd
  omega

/-- The record of an error of access: its valid bit, the head, the kind and the offset (R438). -/
theorem regErr_word (h : Head) (k : Fin 3) (off : BitVec 20) :
    (BitVec.ofNat 32 (word [(31, 1), (30, hIdx h), (28, k.val), (0, off.toNat)])).toNat = 2 ^ 31 + 2 ^ 30 * hIdx h + 2 ^ 28 * k.val + off.toNat := by
  have hoff := off.isLt
  have hk := k.isLt
  have hh : hIdx h ≤ 1 := by cases h <;> decide
  rw [BitVec.toNat_ofNat]
  simp only [word, List.foldl_cons, List.foldl_nil]
  omega

theorem Dev.regError_bump (d : Dev) (h : Head) (kind off : Nat) :
    d.regError h kind off = if d.rbit GLB_REG_ERR 31 = true then d.bump GLB_REG_ERR_CNT
      else (d.bump GLB_REG_ERR_CNT).setReg GLB_REG_ERR (BitVec.ofNat 32 (word [(31, 1), (30, hIdx h), (28, kind), (0, off)])) := by
  have hbit : (d.bump GLB_REG_ERR_CNT).rbit GLB_REG_ERR 31 = d.rbit GLB_REG_ERR 31 :=
    congrArg (fun r : Reg32 => bit r.toNat 31) (d.reg_bump_other _ _ _ (by decide))
  unfold Dev.regError
  dsimp only
  rw [hbit]

theorem Dev.regError_first (hf : d.rbit GLB_REG_ERR 31 = false) (h : Head) (k : Fin 3) (off : BitVec 20) :
    ((d.regError h k.val off.toNat).reg GLB_REG_ERR).toNat = 2 ^ 31 + 2 ^ 30 * hIdx h + 2 ^ 28 * k.val + off.toNat ∧
      ((d.regError h k.val off.toNat).reg GLB_REG_ERR_CNT).toNat = min ((d.reg GLB_REG_ERR_CNT).toNat + 1) 0xFFFFFFFF := by
  rw [Dev.regError_bump, if_neg (by simp [hf]), Dev.reg_setReg, if_pos rfl, Dev.reg_setReg, if_neg (by decide)]
  exact ⟨regErr_word h k off, d.reg_bump_same _⟩

theorem Dev.regError_later (hf : d.rbit GLB_REG_ERR 31 = true) (h : Head) (kind off : Nat) :
    (d.regError h kind off).reg GLB_REG_ERR = d.reg GLB_REG_ERR ∧
      ((d.regError h kind off).reg GLB_REG_ERR_CNT).toNat = min ((d.reg GLB_REG_ERR_CNT).toNat + 1) 0xFFFFFFFF := by
  rw [Dev.regError_bump, if_pos hf]
  exact ⟨d.reg_bump_other _ _ _ (by decide), d.reg_bump_same _⟩

/-! ## Writes of 32 bits -/

/-- A write that finds BAR0 answering is refused as unaligned, refused in block ICU, or made (R12, R438). -/
theorem hostRegWrite_narrow (ha : Dev.answers F d h = true) (off v : Nat) :
    hostRegWrite F d h off false v =
      if off % 4 ≠ 0 then d.regError h 1 off else if off / 0x10000 = 13 then d.regError h 2 off else silentOut F (regWrite F d (some h) off (lo32 v)) :=
  if_neg (by simp [ha])

/-- Blocks all of whose registers are configuration registers to a write. -/
theorem regWrite_cfg {who : Option Head} {off v : Nat} (hb : off / 0x10000 ∈ [3, 5, 7, 10, 12, 14]) : regWrite F d who off v = d.cfgWrite off v := by
  simp only [List.mem_cons, List.not_mem_nil, or_false] at hb
  unfold regWrite
  rcases hb with hb | hb | hb | hb | hb | hb <;> rw [hb] <;> rfl

theorem regWrite_psvFault {who : Option Head} (v : Nat) : regWrite F d who PSV_FAULT v =
    { d with pwr := { d.pwr with extLevel := d.pwr.extLevel && !bit v 28, extPulse := d.pwr.extPulse && !bit v 27 } } :=
  rfl

/-- A configuration register with no rule of order: its own fields change, and no other register (R11). -/
theorem Dev.cfgWrite_plain {off v : Nat} (hg : off ≠ LIN_GND_CFG) (hm : off ≠ MTL_HEAT_CFG) :
    (d.cfgWrite off v).regs = (d.plainWrite off v).regs ∧ (d.cfgWrite off v).lci = (d.plainWrite off v).lci := by
  have hcfg : d.cfgWrite off v = (d.plainWrite off v).keepCfg (d.reg off) off := by
    unfold Dev.cfgWrite
    dsimp only
    rw [if_neg hg, if_neg hm]
  have hkeep := Dev.keepCfg_touches (d.plainWrite off v) (d.reg off) off
  rw [hcfg]
  exact ⟨hkeep.same .regs (by decide), hkeep.same .lci (by decide)⟩

end

/-- Settles O53. -/
theorem registerWrites : Obligations.REGISTER_WRITES := by
  refine ⟨fun h off wide v s ha => ?closed, fun h k off s ha => ?closedError, fun h k off s ha hf => ?first, fun h k off s ha hf => ?later,
    fun h off v s ha hu => ?unaligned, fun h off v s ha hal hb => ?icu, fun h off v s ha hal hl hb hm => ?config, fun h v s ha hl => ?fault⟩
  case closed => exact next_congr s (if_pos (by simp [ha]))
  case closedError => exact congrArg Host.Outcome.next (if_neg (by simp [ha]))
  case first => exact ⟨_, congrArg Host.Outcome.next (if_pos ha), Dev.regError_first hf h k off⟩
  case later => exact ⟨_, congrArg Host.Outcome.next (if_pos ha), Dev.regError_later hf h k.val off.toNat⟩
  case unaligned =>
    exact (next_congr s ((hostRegWrite_narrow ha _ _).trans (if_pos hu))).trans (congrArg Host.Outcome.next (if_pos ha)).symm
  case icu =>
    exact (next_congr s ((hostRegWrite_narrow ha _ _).trans ((if_neg (not_not_intro hal)).trans (if_pos hb)))).trans
      (congrArg Host.Outcome.next (if_pos ha)).symm
  case config =>
    have hg : off.toNat ≠ LIN_GND_CFG := fun heq => absurd (heq ▸ hb) (by decide)
    have hicu : off.toNat / 0x10000 ≠ 13 := fun heq => absurd (heq ▸ hb) (by decide)
    obtain ⟨hregs, hlci⟩ := Dev.cfgWrite_plain (d := s.dev) (v := lo32 v.toNat) hg hm
    have hwrite : hostRegWrite s.fuse s.dev h off.toNat false v.toNat = s.dev.cfgWrite off.toNat (lo32 v.toNat) := by
      rw [hostRegWrite_narrow ha, if_neg (not_not_intro hal), if_neg hicu, regWrite_cfg hb]
      exact silentOut_of_none (hl.of_lci hlci)
    refine ⟨_, next_congr s hwrite, ?_, fun k hk => ?_⟩
    · rw [Dev.reg_same _ hregs, Dev.plainWrite, Dev.reg_setReg, if_pos rfl]
    · rw [Dev.reg_same _ hregs, Dev.plainWrite, Dev.reg_setReg, if_neg hk]
  case fault =>
    have hwrite : hostRegWrite s.fuse s.dev h PSV_FAULT false v.toNat = regWrite s.fuse s.dev (some h) PSV_FAULT (lo32 v.toNat) := by
      rw [hostRegWrite_narrow ha, if_neg (by decide), if_neg (by decide)]
      exact silentOut_of_none hl
    exact ⟨_, next_congr s (hwrite.trans (regWrite_psvFault _)), rfl⟩

end Sys2Proof.Machine
